-- ==== Sys2Proof/Word.lean ====
section
/-! DEFINITION. The words of the machine and their plainest arithmetic: bytes, 32-bit registers (R8), the
48-bit addresses of the local map (R20), and the fields of a word. -/

namespace Sys2Proof

/-- A byte (R13). -/
abbrev Byte := BitVec 8
/-- A register or a 32-bit word (R8, R13). -/
abbrev Word := BitVec 32
/-- A double-word (R13). -/
abbrev DWord := BitVec 64

/-- Bits [hi:lo] of a number, as a number. -/
def bits (v hi lo : Nat) : Nat := (v >>> lo) % 2 ^ (hi + 1 - lo)

/-- Bit n of a number. -/
def bit (v n : Nat) : Bool := v.testBit n

/-- A number read as a two's-complement value of w bits. -/
def signed (w v : Nat) : Int := if v % 2 ^ w < 2 ^ (w - 1) then ((v % 2 ^ w : Nat) : Int) else ((v % 2 ^ w : Nat) : Int) - 2 ^ w

/-- An integer as the number its w low bits spell (two's complement). -/
def wrapInt (w : Nat) (x : Int) : Nat := (x % (2 ^ w : Int)).toNat

/-- x clamped to the range from lo to hi. -/
def clampInt (lo hi x : Int) : Int := if x < lo then lo else if hi < x then hi else x

/-- x saturated to a two's-complement value of w bits. -/
def satInt (w : Nat) (x : Int) : Int := clampInt (-(2 ^ (w - 1))) (2 ^ (w - 1) - 1) x

/-- The number whose little-endian bytes are given (R13). -/
def leNat : List Byte → Nat
  | [] => 0
  | b :: r => b.toNat + 256 * leNat r

/-- The n little-endian bytes of a number (R13). -/
def leBytes : Nat → Nat → List Byte
  | 0, _ => []
  | n + 1, v => BitVec.ofNat 8 v :: leBytes n (v / 256)

end Sys2Proof
end

