-- ==== Sys2Proof/Syntax.lean ====
section
/-! DEFINITION. The commands the block takes: one constructor per row of the opcode table, with the operands
its rule gives it. An operand that the outside decides (a sample, a reply, a level on a pin, the result of an
analogue check) is carried by the command. -/

namespace Sys2Proof

/-- The masters that access CSR space (R494): the AON controller, JTAG, PCIe BAR0, an application core (in U mode
or not) and a sequencer core. -/
inductive Master where
  | aon
  | jtag
  | pcie
  | app (c : Fin 8) (user : Bool)
  | seq (i : Fin 128)
  deriving DecidableEq, Repr

/-- What stands in the code word a read meets: nothing, one wrong bit, two wrong bits that no code corrects, or two wrong bits of
one beat that one DDR4 device supplied, which SSC corrects and SECDED detects; for DDR4 with the rank and the device the
controller names (R404, R407). -/
inductive Ecc where
  | none
  | ce (rank : Fin 16) (device : Fin 64)
  | ue (rank : Fin 16) (device : Fin 64)
  | sym (rank : Fin 16) (device : Fin 64)
  deriving DecidableEq, Repr

/-- How a request came to its target: by an Ibnum link, from a requester of another device, or from a master of this device. src: SRC of
the header in bits [21:0], its SEQ, the request's tag, in bits [29:22] (R295). -/
inductive Via where
  | link (k : Fin 12) (src : BitVec 30)
  | own (m : Master)
  deriving DecidableEq, Repr

/-- Whose interface a reply reaches: a core (an owner of queues), a DMA channel, a tile, an ingest stream. -/
inductive Requester where
  | core (o : Fin 136)
  | dma (ch : Fin 1056)
  | tile (t : Fin 64)
  | stream (i : Fin 32)
  deriving DecidableEq, Repr

/-- The request a reply answers, as the requester's interface holds it by its tag (R295, R310). -/
inductive Request where
  | sync (dev : BitVec 3) (obj : BitVec 16) (op : Fin 5) (arg : Word) (wqn : BitVec 16)
  | read (a : BitVec 48) (n : BitVec 16)
  | write (a : BitVec 48) (data : List (Option Byte))
  deriving DecidableEq, Repr

/-- A command of the block. -/
inductive Instr where
  /-- PWR_GOOD_RISE (R583). PWR_GOOD rises after the supplies are good; the chip reset ends and Instar 0 begins. -/
  | pwrGoodRise (devid : Fin 8) (standby : Bool)
  /-- PWR_GOOD_FALL (R584). PWR_GOOD falls and the device takes a chip reset within 1 µs. -/
  | pwrGoodFall
  /-- SUPPLY_OUT_OF_RANGE (R554). VIN_W or VIN_E stays outside its recommended range for 1 µs and the fault source SUPPLY is raised. -/
  | supplyOutOfRange (east : Bool)
  /-- SUPPLY_COLLAPSE (R585). VIN_W or VIN_E stays below 1.50 V for 1 µs; a CHIP_RESET reaction with source SUPPLY follows and is held until the supply recovers. -/
  | supplyCollapse (east : Bool)
  /-- VAON_LOW (R585). VAON stays below 1.62 V for 1 µs; a chip reset is held until VAON returns to range. -/
  | vaonLow (lost : Bool)
  /-- SERDES_SUPPLY_LOW (R585). VSER or VSERH falls below its limit; lanes lose lock, streams go absent, Ibnum links are lost and PCIe recovers. -/
  | serdesSupplyLow (streams : List (Fin 32)) (links : List (Fin 12))
  /-- VDDQ_LOW (R585). VDDQ_c falls below 1.10 V and channel c fails under R408. -/
  | vddqLow (c : Fin 8)
  /-- SUPPLIES_AND_AON (R469). Instar 0 ends: supplies checked, AON PLL locked, straps sampled, limits copied and locked, defect list read, start count stored. -/
  | suppliesAndAon (vinOk : Bool) (pllOk : Bool) (pllUs : BitVec 16)
  /-- TRUST (R541). Instar 1 ends when the image read from flash has passed the manifest, signature, SVN and section-hash checks. -/
  | trust (answers : Bool) (image : List Byte)
  /-- TWIN_IMAGE_DELIVERED (R548). The ROM finishes reading the partner's image through its TRU_WIN and checks it in full. -/
  | twinImageDelivered (image : List Byte)
  /-- RCV_GO (R548). The host writes RCV_GO after staging TRU_RCV_LEN bytes, and the delivered image is checked under R541. -/
  | rcvGo (m : Master)
  /-- SELF_TEST (R475). Instar 2 ends once BIST has run on every unlisted unit, new defects are appended and spares are substituted. -/
  | selfTest (found : List (BitVec 64)) (unspared : Bool) (storeOk : Bool)
  /-- FABRIC (R469). Instar 3 ends: routers, control network and seam ports are checked and the region, rank and route tables are loaded. -/
  | fabric (code : BitVec 8) (where_ : Word) (checked : BitVec 16) (tables : List (Nat × Word))
  /-- MEMORIES (R469). Instar 4 ends: slices are zeroed, every DDR4 channel is trained or failed, and the image is copied to DDR4. -/
  | memories (slicesOk : Bool)
  /-- DDR_INSTAR_TIMEOUT (R470). A DDR4 channel not trained 30 ms after Instar 4 begins is marked failed. -/
  | ddrInstarTimeout
  /-- LINKS (R469). Instar 5 ends when all streams are aligned and all links are up. -/
  | links (board : List (Fin 12 × Word))
  /-- LINKS_TIMEOUT (R469). 26 ms after Instar 5 begins it ends, with loss codes for what is not up. -/
  | linksTimeout (board : List (Fin 12 × Word))
  /-- LOAD (R469). Instar 6 ends: networks loaded, admission passed on enabling the step generator, WINGBEAT started, application cores released. -/
  | load (wellFormed : Bool) (regs : List (Nat × Word)) (bytes : List (Nat × Byte)) (cores : BitVec 16)
  /-- STAGE_ALTERNATE (R471). Every 250 ms in a failed Instar k, STAGE switches between k and its complement. -/
  | stageAlternate
  /-- SERVICE_ENTER (R473). A write of SERVICE = 1 in Instar 6 enters Instar 7 and writes record 7. -/
  | serviceEnter (m : Master)
  /-- SERVICE_LEAVE (R473). A write of SERVICE = 0 in Instar 7 returns the device to Instar 6. -/
  | serviceLeave (m : Master)
  /-- PERST_DEASSERT (R474). PERST_N is deasserted with REFCLK present after Instar 0, and PCIe link training begins. -/
  | perstDeassert (refclk : Bool)
  /-- COCOON (R483). A write of INST_CTL.COCOON = 1 resets the compute part, stops WINGBEAT and reruns Instars 2, 3, 4 and 6 while links stay up. -/
  | cocoon (m : Master)
  /-- COCOON_END (R484). The Cocoon's rerun of Instar 6 ends from the checked DDR4 image copy and the device comes back as standby. -/
  | cocoonEnd (wellFormed : Bool) (regs : List (Nat × Word)) (bytes : List (Nat × Byte)) (cores : BitVec 16)
  /-- SUBSTITUTION_REQUEST (R479). A write of INST_SUB_REQ.GO = 1 requests an in-service substitution and reports its RESULT. -/
  | substitutionRequest (m : Master) (tile : Bool) (east : Bool) (row : Fin 16) (col : Fin 64)
  /-- BC_OPEN (R481). A broadcast receiver whose target is disabled joins the session and clears its bitmap. -/
  | bcOpen (session : BitVec 16) (seqs : Bool) (mask : BitVec 8) (first : BitVec 16) (last : BitVec 16) (offset : Word) (nchunk : BitVec 16) (digest : BitVec 256)
  /-- BC_CHUNK (R481). A receiver writes a chunk of its session and sets the chunk's bitmap bit. -/
  | bcChunk (session : BitVec 16) (index : BitVec 16) (data : List Byte)
  /-- BC_POLL (R481). A receiver answers a poll with a REPORT and starts hashing its region once every chunk is in. -/
  | bcPoll (session : BitVec 16) (round : BitVec 16)
  /-- BC_HASH_END (R481). A receiver's SHA-256 of its region completes and sets ACCEPTED, or sets REJECTED and zeroes the region. -/
  | bcHashEnd (r : Fin 1152)
  /-- BC_REPORT (R480). The broadcast master receives a receiver's report of state and missing chunks. -/
  | bcReport (words : List (BitVec 16))
  /-- BC_REPAIR (R481). A repair chunk sent to one receiver is written as a chunk. -/
  | bcRepair (r : Fin 1152) (session : BitVec 16) (index : BitVec 16) (data : List Byte)
  /-- BC_CLOSE (R481). A receiver still RECEIVING sets INCOMPLETE and zeroes its region. -/
  | bcClose (session : BitVec 16)
  /-- BRX_CLEAR (R482). A write of 1 to a receiver's CLR bit returns it to IDLE. -/
  | brxClear (m : Master) (r : Fin 1152)
  /-- CHR_OPEN (R500). The OPEN command starts a batch in STAGING owned by the writer. -/
  | chrOpen (m : Master)
  /-- CHR_ENTRY_WRITE (R501). The owner writes a batch entry's ADDR, VALUE or MASK word; a VALID batch returns to STAGING. -/
  | chrEntryWrite (m : Master) (i : Fin 4096) (word : Fin 3) (value : Word)
  /-- CHR_NENT_WRITE (R501). The owner writes CHR_NENT; a VALID batch returns to STAGING. -/
  | chrNentWrite (m : Master) (count : BitVec 13)
  /-- CHR_VALIDATE (R502). The VALIDATE command starts the batch checks in VALIDATING. -/
  | chrValidate (m : Master)
  /-- CHR_VALIDATION_END (R502). The batch checks end, including any admission check, and the batch becomes VALID or FAILED. -/
  | chrValidationEnd
  /-- CHR_COMMIT (R504). The COMMIT command arms a VALID batch for its step or time instant, or refuses it. -/
  | chrCommit (m : Master)
  /-- CHR_ABORT (R507). The ABORT command returns the batch to IDLE, unless it reaches an ARMED batch less than 1,000 ns before the instant. -/
  | chrAbort (m : Master)
  /-- COMMIT_INSTANT (R505). At the commit instant each block applies its shadowed entries together and the batch becomes DONE. -/
  | commitInstant
  /-- SET_LOAD (R515). The LOAD command copies a sector's valid copy into SET_BUF. -/
  | setLoad (m : Master) (sector : Fin 1024)
  /-- SET_STORE (R515). The STORE command checks the page rules and starts programming the buffer into the sector. -/
  | setStore (m : Master) (sector : Fin 1024)
  /-- STORE_END (R516). A STORE completes by programming the older copy with its sequence number and CRC. -/
  | storeEnd (verified : Bool)
  /-- STORE_THROTTLE_RELEASE (R517). A STORE held with THROTTLE = 1 proceeds at the next slow tick. -/
  | storeThrottleRelease
  /-- SET_XSPI (R512). The XSPI command issues one flash transaction through SET_BUF. -/
  | setXspi (m : Master) (answer : List Byte)
  /-- REGISTER_WRITE (R8). A write to a register that has no row of its own is applied field by field by type. -/
  | registerWrite (m : Master) (off : BitVec 28) (size : BitVec 4) (value : BitVec 64) (rsvKept : Bool) (bar2 : Bool)
  /-- VOTE_SCAN (R498). The voter compares every triplicated word, at least once every 100 µs. -/
  | voteScan (upsets : List (BitVec 28 × Fin 3 × Word))
  /-- SLOW_TICK (R29). The 1 s management-plane slow tick passes. -/
  | slowTick
  /-- FAULT_EVENT (R527). The collector accepts a fault event, counts it in its window and opens a record or merges it into the pending one. -/
  | faultEvent (src : Fin 26) (kind : Fin 10) (index : BitVec 16) (detail : Word)
  /-- FAULT_WINDOW_CLOSE (R525). A source's window ends after W slow ticks and WCOUNT returns to 0. -/
  | faultWindowClose (src : Fin 26)
  /-- FAULT_CLEAR (R530). A write of CLEAR ends the fault state unless a standing cause remains, and releases WINGBEAT. -/
  | faultClear (m : Master)
  /-- LASTING_CLEAR (R531). A write of 1 to a source's LASTING bit clears it unless CAUSE = 1. -/
  | lastingClear (m : Master) (src : Fin 26)
  /-- FAULT_INJECT (R537). A write of FLT_CTL.INJECT raises source INJ_SRC once. -/
  | faultInject (m : Master) (src : BitVec 5)
  /-- WATCHDOG_KICK (R536). A write of 0xA5 to FLT_WDOG_KICK restarts the watchdog period. -/
  | watchdogKick (m : Master) (key : BitVec 8)
  /-- WATCHDOG_EXPIRY (R536). A watchdog period ends without a kick and raises WATCHDOG. -/
  | watchdogExpiry
  /-- WINGBEAT_TOGGLE (R532). An unfrozen WINGBEAT changes level on its 500 µs or WB_HALF schedule. -/
  | wingbeatToggle
  /-- TWIN_ENABLE (R446). A write of AON_TWIN_CTL.EN = 1 starts twin service if WB_HALF and MISS_NS are valid. -/
  | twinEnable (m : Master)
  /-- TWIN_WB_EDGE (R448). An edge arrives on TWIN_WB_IN, arming a standby in Instar 6 or 7 and restarting the loss interval. -/
  | twinWbEdge
  /-- WINGBEAT_LOSS (R448). An ARMED standby sees no edge for MISS_NS, takes the active role, sends TAKE and raises TWIN_LOST. -/
  | wingbeatLoss (partnerActive : Bool)
  /-- TWIN_START_TIMEOUT (R444). A standby that has seen no partner wingbeat for START_MS ms takes the active role. -/
  | twinStartTimeout
  /-- HELLO_SEND (R442). Every 1,024 µs each member sends HELLO on both twin links. -/
  | helloSend
  /-- HELLO (R443). A HELLO arrives, sets PARTNER_UP and resolves two members with the same role. -/
  | hello (link : Fin 12) (gen : BitVec 8) (standby : Bool) (devid : Fin 8)
  /-- PARTNER_TIMEOUT (R442). No HELLO arrives for 4,096 µs and PARTNER_UP clears. -/
  | partnerTimeout
  /-- TAKE (R451). An active member receiving TAKE takes the standby role and sets SPLIT unless it was switched by plane. -/
  | take (link : Fin 12) (byPlane : Bool)
  /-- SWAP_REQUEST (R452). A write of SWAP = 1 to the active member requests a swap at AON_TWIN_SWAP_AT and sends SWAP. -/
  | swapRequest (m : Master) (partnerArmed : Bool)
  /-- SWAP (R452). The standby receives SWAP and answers SWAP_ACK with T. -/
  | swap (link : Fin 12) (t : BitVec 64)
  /-- SWAP_ACK (R452). The active member receives SWAP_ACK for its pending swap. -/
  | swapAck (link : Fin 12) (t : BitVec 64)
  /-- SWAP_STANDBY (R452). At count T the active member takes the standby role with reason 5. -/
  | swapStandby
  /-- SWAP_ACTIVE (R452). At T + 8 the partner takes the active role with reason 5. -/
  | swapActive
  /-- SWAP_CANCEL (R452). Without SWAP_ACK by T − 2,000 the swap is cancelled. -/
  | swapCancel
  /-- SWITCH (R459). A standby of the plane receiving SWITCH takes the active role and sends TAKE to its partner. -/
  | switch (link : Fin 12)
  /-- DIGEST_SEND (R466). One step after a compare window ends, a member sends its DIGEST of output records. -/
  | digestSend
  /-- DIGEST (R466). A received DIGEST is compared with the own window, updating the compare counters. -/
  | digest (link : Fin 12) (first : Word) (count : Word) (sum : Word)
  /-- JRX_PLL_WRITE (R82). A write of a valid RATE starts the receive PLL at that rate. -/
  | jrxPllWrite (m : Master) (p : Fin 8) (rate : BitVec 16)
  /-- PLL_LOCK (R82). The receive PLL locks and LOCKED reads 1. -/
  | pllLock (p : Fin 8)
  /-- STREAM_ENABLE (R47). A write of ING_CTL.EN = 1 runs the enable checks and enables the stream or records CFG_ERR. -/
  | streamEnable (m : Master) (i : Fin 32)
  /-- STREAM_DISABLE (R58). A write of ING_CTL.EN = 0 stops the stream, clears status and discards the deferral queue. -/
  | streamDisable (m : Master) (i : Fin 32)
  /-- TAP_ENABLE (R79). A write of TAP_EN takes effect at the next record boundary unless the tap rate would be exceeded. -/
  | tapEnable (m : Master) (i : Fin 32) (on : Bool)
  /-- BLOCK_LOCK (R601). A lane reaches block lock on its sync headers. -/
  | blockLock (l : Fin 64)
  /-- EMB_LOCK (R601). A lane reaches extended-multiblock lock. -/
  | embLock (l : Fin 64)
  /-- LANE_LOCK_LOSS (R57). A lane of a running stream loses lock; the stream stops and is marked absent with a marker record. -/
  | laneLockLoss (l : Fin 64) (shErr : BitVec 8) (badMarkers : BitVec 4)
  /-- SYSREF_EDGE (R54). A captured SYSREF edge sets the LEMC phase of waiting streams and is checked against aligned ones. -/
  | sysrefEdge (offGrid : List (Fin 32))
  /-- ELASTIC_RELEASE (R49). At OFS after an LEMC boundary the elastic buffer releases all lanes of the stream together. -/
  | elasticRelease (i : Fin 32) (arrivals : List (BitVec 8)) (written : Bool)
  /-- ALIGN_TIMEOUT (R56). A stream not aligned 20 ms after its enable is marked absent and STREAM_ABSENT is raised. -/
  | alignTimeout (i : Fin 32)
  /-- MULTIBLOCK_RECEIVE (R53). A multiblock is checked by CRC-12 or decoded by FEC. -/
  | multiblockReceive (i : Fin 32) (m : Word) (result : Fin 4) (shErr : List (Fin 64 × BitVec 8))
  /-- ENCODER_CYCLE (R60). Encoder s takes up to 16 samples in an island cycle through its pipeline to event formation. -/
  | encoderCycle (i : Fin 32) (stamp : BitVec 80) (index : Word) (samples : List (List (BitVec 16))) (corrected : List (List (BitVec 16)))
  /-- EVENT_LOG_CLOSE (R77). An event-log record closes 1,024 ns after its first entry. -/
  | eventLogClose (i : Fin 32)
  /-- TAP_RECORD_ACK (R261). DDR4 acknowledges a tap record write. -/
  | tapRecordAck (i : Fin 32)
  /-- ENCODER_BOUNDARY (R74). The boundary token reaches an encoder and its deferred cells leave first against the new budget. -/
  | encoderBoundary (i : Fin 32)
  /-- CORE_ENABLE (R97). NC_CTL.EN changes from 0 to 1 and the core starts its initialising pass. -/
  | coreEnable (m : Master) (n : Fin 1024)
  /-- INIT_PASS_END (R97). The initialising pass ends and held event cells are integrated as events of that step. -/
  | initPassEnd (n : Fin 1024)
  /-- CORE_DISABLE (R600). NC_CTL.EN is written 0; the scan stops and queued cells and held events are discarded. -/
  | coreDisable (m : Master) (n : Fin 1024)
  /-- EV_CELL_ACCEPT (R140). A router takes an EV cell whole and offers, wheels or marks late each of its events. -/
  | evCellAccept (n : Fin 1024) (imm : Bool) (ep : Bool) (events : List Word) (link : Option (Fin 12))
  /-- ARRIVAL (R106). The core takes in an event: checks the axon, writes T_AXON and processes each synapse of the row. -/
  | arrival (n : Fin 1024) (errs : List (BitVec 21 × Bool))
  /-- STEP_TOKEN (R112). The token ending step s reaches a core, which finishes events, scans, writes entries, sweeps, issues bias events and integrates held events. -/
  | stepToken (n : Fin 1024) (errs : List (BitVec 21 × Bool)) (scrub : List (BitVec 21 × Bool))
  /-- PLASTICITY_CLEAR_END (R181). The plasticity clear ends and the first epoch begins at the next boundary. -/
  | plasticityClearEnd (n : Fin 1024)
  /-- COMMIT_ROW (R178). The commit engine applies one row's slots to its plastic weights in idle slots and clears the segment. -/
  | commitRow (n : Fin 1024) (errs : List (BitVec 21 × Bool))
  /-- STEP_GENERATOR_ENABLE (R136). A write of TB_STEP_CTL.EN = 1 runs the admission check and starts the step generator. -/
  | stepGeneratorEnable (m : Master)
  /-- STEP_GENERATOR_STOP (R161). A write of EN = 0 stops the step generator and holds the step counter. -/
  | stepGeneratorStop (m : Master)
  /-- STEP_NOMINAL_INSTANT (R148). The nominal instant N(v + 1) arrives and the boundary is issued if the emission step is complete. -/
  | stepNominalInstant
  /-- EMISSION_STEP_COMPLETE (R139). Every enabled source has reported END and the count is zero, releasing a waiting boundary. -/
  | emissionStepComplete
  /-- STRETCH_LIMIT (R148). At N(v + 1) + S an incomplete step's boundary is issued anyway and STEP_LATE is raised. -/
  | stretchLimit
  /-- CONTEXT_BOUNDARY (R279). At each step a context source sends up to BUDGET immediate cells from its FIFO. -/
  | contextBoundary (i : Fin 32)
  /-- OUTPUT_RECORD (R434). The time base receives an output record and matches TRIG_MAP, the wake tables and the bridge tables. -/
  | outputRecord (n : Fin 1024) (j : BitVec 14) (grade : BitVec 8) (u : Word)
  /-- PULSE_END (R434). A neural pulse's PW_NS width expires and the pin returns inactive. -/
  | pulseEnd (p : Fin 16)
  /-- LEVEL_RETURN (R434). 16 ns after B(u + LVL_STEPS + 2) a level pin returns inactive. -/
  | levelReturn (p : Fin 16)
  /-- GRID_EDGE (R436). In GRID mode the pin edge appears HOLD_NS after the boundary. -/
  | gridEdge (p : Fin 16)
  /-- TB_CNT_READ (R417). A read of TB_CNT_LO latches the 64-bit count for the next TB_CNT_HI read. -/
  | tbCntRead (m : Master)
  /-- SYNC_ARM (R419). A write of TB_SYNC_CFG.ARM = 1 arms a counter load at the next SYSREF edge. -/
  | syncArm (m : Master)
  /-- SYNC_SLEW (R420). Every SLEW counts the follower advances by 2 or holds one edge to remove the remaining offset. -/
  | syncSlew
  /-- TIMER_ENABLE (R424). A write of TMR_CTL.EN = 1 loads the count and starts the prescaler. -/
  | timerEnable (k : Fin 16)
  /-- TIMER_RESET (R424). A write of TMR_CTL.EN = 0 resets the timer. -/
  | timerReset (k : Fin 16)
  /-- TIMER_INCREMENT (R426). A prescaler increment request is applied to the timer count at a system-clock edge. -/
  | timerIncrement (k : Fin 16) (ticks : BitVec 16)
  /-- TIMER_MATCH (R430). The count reaches the compare; MATCH is set, MACT acts on the pin and the compare advances by PERIOD. -/
  | timerMatch (k : Fin 16)
  /-- TIMER_COMPARE_COMMIT (R429). A write of TMR_CMP_HI commits the 64-bit compare, which matches now, later or is in the past. -/
  | timerCompareCommit (k : Fin 16) (hi : Word)
  /-- TIMER_PERIOD_COMMIT (R431). A write of TMR_PERIOD_HI commits PERIOD for the next match. -/
  | timerPeriodCommit (k : Fin 16) (hi : Word)
  /-- TRIG_IN_EDGE (R427). A filtered, prescaled edge of TRIG_IN is accepted by a timer's input stage. -/
  | trigInEdge (k : Fin 16) (rising : Bool)
  /-- DESCRIPTOR_ENQUEUE (R196). A store to command-port word 7 enqueues the eight words as a descriptor, stalling while the queue is full. -/
  | descriptorEnqueue (i : Fin 128) (stores : List (Fin 7 × Word)) (last : Word)
  /-- DESCRIPTOR_DISPATCH (R199). The dispatcher passes a core's head descriptor to its engine queue. -/
  | descriptorDispatch (t : Fin 64)
  /-- NOP (R197). A NOP descriptor waits and posts its token queues. -/
  | nop (t : Fin 64) (odd : Bool)
  /-- FETCH (R201). A FETCH descriptor issues its runs from the slices into an operand-buffer ring, speculatively past a bound. -/
  | fetch (t : Fin 64) (stalled : Word) (ecc : List (BitVec 16 × Ecc))
  /-- FETCH_ITEM (R209). A Fetch item's data has arrived and, once committed, its PI token is posted. -/
  | fetchItem (t : Fin 64) (run : Fin 16) (q : Word)
  /-- MMA (R203). An MMA descriptor loads each AOB and multiplies activation rows into an accumulator bank. -/
  | mma (t : Fin 64) (waited : Word)
  /-- DRAIN (R205). A DRAIN descriptor converts accumulators and writes them in column groups. -/
  | drain (t : Fin 64) (ecc : List (BitVec 16 × Ecc))
  /-- TSET (R206). A TSET waits until the engines are idle, then sets token queues and resets rings. -/
  | tset (t : Fin 64)
  /-- NOTIFY (R207). A NOTIFY signals a sync object after every earlier descriptor of its engine has ended. -/
  | notify (t : Fin 64) (eng : Fin 4)
  /-- DESCRIPTOR_END (R199). A descriptor's last item completes and its PD token is posted. -/
  | descriptorEnd (t : Fin 64) (eng : Fin 4)
  /-- BOUND_WRITE (R210). A write of TILE_BOUND raises, closes or reopens the bound register. -/
  | boundWrite (m : Master) (t : Fin 64) (b : Fin 8) (closed : Bool) (count : BitVec 16)
  /-- TILE_RESET (R224). A write of TILE_CTL.EN = 0 drops descriptors, squashes reads and clears queues and errors. -/
  | tileReset (m : Master) (t : Fin 64)
  /-- HALT_CLEAR (R223). A write of 1 to HALTk resumes dispatch of core k's queue. -/
  | haltClear (m : Master) (t : Fin 64) (odd : Bool)
  /-- SEQ_RUN (R217). A write of SEQ_CTL.RUN = 1 starts a sequencer core at SEQ_RESET_PC in M mode. -/
  | seqRun (m : Master) (i : Fin 128)
  /-- SEQ_RESET (R217). A write of RUN = 0 resets the core, closes its queues, disarms slots and orphans its objects. -/
  | seqReset (m : Master) (i : Fin 128)
  /-- MACHINE_TIMER (R215). The system counter reaches SEQ_MTIMECMP and the core takes a machine timer interrupt. -/
  | machineTimer (i : Fin 128)
  /-- CVU_ENCODE (R250). A write of CVU_CTL with DIR = 0 starts encoding CVU_DATA into an S-form block. -/
  | cvuEncode (i : Fin 128) (stores : List (BitVec 12 × Word)) (ctl : BitVec 31)
  /-- CVU_DECODE (R250). A write of CVU_CTL with DIR = 1 starts decoding CVU_BLK into CVU_DATA. -/
  | cvuDecode (i : Fin 128) (stores : List (BitVec 12 × Word)) (ctl : BitVec 31)
  /-- CVU_CONVERSION_END (R250). A conversion ends, its outputs and status are written and stalled accesses proceed. -/
  | cvuConversionEnd (i : Fin 128)
  /-- EXCHANGE_READ (R221). A read reaches a slice bank over the Exchange and returns its data. -/
  | exchangeRead (m : Master) (a : BitVec 48) (n : Fin 64) (ecc : Ecc) (bar2 : Bool)
  /-- EXCHANGE_WRITE (R221). A write reaches a slice bank, is applied and acknowledged. -/
  | exchangeWrite (m : Master) (a : BitVec 48) (data : List (Option Byte)) (ecc : Ecc)
  /-- SLICE_PATROL_SCRUB (R403). One granule per bank is scrubbed every 4,096 cycles. -/
  | slicePatrolScrub (i : Fin 256) (g : Fin 49152) (ecc : Ecc)
  /-- SEQ_PATROL_SCRUB (R403). One word of sequencer local memory is scrubbed every 256 cycles. -/
  | seqPatrolScrub (i : Fin 128) (w : BitVec 16) (ecc : Ecc)
  /-- DOORBELL (R260). A host write to DOORBELL sends a wake message with KIND 1. -/
  | doorbell (i : Fin 32) (arg : Word)
  /-- KV_APPEND (R268). APPEND N adds speculative positions, evicting in RING mode or refusing in STOP mode. -/
  | kvAppend (m : Master) (i : Fin 32) (u : Fin 2) (n : BitVec 8)
  /-- KV_ACCEPT (R268). ACCEPT N advances COMMITTED and discards the rest of the speculative range. -/
  | kvAccept (m : Master) (i : Fin 32) (u : Fin 2) (n : BitVec 8)
  /-- KV_ROLLBACK (R268). ROLLBACK sets SPEC to 0. -/
  | kvRollback (m : Master) (i : Fin 32) (u : Fin 2)
  /-- KV_RESET (R268). RESET sets OLDEST, COMMITTED and SPEC to 0. -/
  | kvReset (m : Master) (i : Fin 32) (u : Fin 2)
  /-- KV_OTHER_OP (R268). A command with an undefined OP is ignored and sets STAT.REFUSED. -/
  | kvOtherOp (m : Master) (i : Fin 32) (u : Fin 2) (op : BitVec 4) (n : BitVec 8)
  /-- KV_DISABLE (R272). A write of ING_KVu_CFG.EN = 0 stops guarding and sets the counts to 0. -/
  | kvDisable (m : Master) (i : Fin 32) (u : Fin 2)
  /-- CTX_PUSH (R277). A write of ING_CTX_PUSH's upper word enters an event into the context FIFO or rejects it. -/
  | ctxPush (m : Master) (i : Fin 32) (lo : Word) (hi : Word)
  /-- RQ_POST (R283). A 64-bit write to PCIE_RQ_POST forms a result entry or is ignored on a full queue. -/
  | rqPost (m : Master) (i : Fin 32) (v : BitVec 64)
  /-- POP64 (R281). An 8-byte read at a POP64 address returns and pops the head entry. -/
  | pop64 (i : Fin 32) (cls : Bool) (size : BitVec 8) (aligned : Bool)
  /-- POP128 (R281). A 16-byte read at a POP128 address returns the entry and its stamp and pops it. -/
  | pop128 (i : Fin 32) (cls : Bool) (size : BitVec 8) (aligned : Bool)
  /-- REPLAY_READ (R286). A read of the replay window returns a recently popped entry without popping. -/
  | replayRead (i : Fin 32) (cls : Bool) (off : BitVec 11) (size : BitVec 8)
  /-- RD_REQ (R297). A read request arrives at its target, which checks it and answers with RD_DATA or STATUS. -/
  | rdReq (via : Via) (dst : BitVec 22) (a : BitVec 48) (nm1 : BitVec 8) (ecc : Ecc)
  /-- WR_REQ (R297). A masked write request and its data cells arrive and are applied and acknowledged. -/
  | wrReq (via : Via) (dst : BitVec 22) (a : BitVec 48) (data : List (Option Byte)) (ecc : Ecc)
  /-- WR_FULL (R462). A generation-2 write of whole granules without a mask cell arrives and is applied. -/
  | wrFull (via : Via) (dst : BitVec 22) (a : BitVec 48) (data : List Byte) (ecc : Ecc)
  /-- ATOM_REQ (R400). An atomic request is performed at the bank or local memory and returns the old value. -/
  | atomReq (via : Via) (dst : BitVec 22) (a : BitVec 48) (op : BitVec 8) (x : BitVec 64) (y : BitVec 64) (ecc : Ecc)
  /-- RD_DATA (R297). A read reply with data arrives at the requester. -/
  | rdData (back : Requester) (a : BitVec 48) (index : BitVec 8) (data : List Byte) (poison : Bool)
  /-- STATUS_REPLY (R297). A STATUS reply arrives at the requester. -/
  | statusReply (back : Requester) (code : Fin 8) (why : BitVec 8) (value : Word) (req : Request)
  /-- FWD (R410). A DDR4 channel unit receives a forwarded request and replies on RP to the original requester. -/
  | fwd (c : Fin 8) (src : BitVec 30) (req : Request) (ecc : Ecc)
  /-- BAD_TYPE_CELL (R299). A cell with a reserved or mismatched TYPE is discarded, and an RQ is answered BAD_TYPE. -/
  | badTypeCell (link : Option (Fin 12)) (vn : Fin 8) (type : Fin 32) (src : BitVec 30) (op : BitVec 8)
  /-- ESC_FORWARD (R314). An intermediate device forwards a cell for another device on ESC through row 18. -/
  | escForward (k : Fin 12) (vn : Fin 8) (type : Fin 32) (dst : BitVec 22) (src : BitVec 30) (tag : Option Bool) (flags : BitVec 4) (data : List Byte)
  /-- CTRL (R319). A CTRL cell carries twenty control-network words across an Ibnum link. -/
  | ctrl (k : Fin 12) (words : List (BitVec 16)) (m : Master)
  /-- LINK_ENABLE (R315). A write of IBL_CTL.EN = 1 starts Ibnum link training. -/
  | linkEnable (m : Master) (k : Fin 12)
  /-- LINK_UP (R315). Training completes at the negotiated width and generation and the link carries cells. -/
  | linkUp (k : Fin 12) (lanes : BitVec 8) (peerWidth : Fin 4) (genMin : BitVec 4) (genMax : BitVec 4) (dev : BitVec 3) (peer : BitVec 4)
  /-- CODEWORD_RECEIVE (R316). A codeword is decoded, its link flits and cells are taken and acknowledgements, XOFF and acceptance counts applied. -/
  | codewordReceive (k : Fin 12) (ok : Bool) (corrected : Bool) (seq : BitVec 12) (flit0 : BitVec 128) (flit1 : BitVec 128) (cells : List (Fin 8 × Fin 32 × Option Bool)) (left : List (Fin 6))
  /-- NAK (R320). The sender receives NAK and replays from ACK_SEQ + 1. -/
  | nak (k : Fin 12) (seq : BitVec 12)
  /-- LINK_LOST (R325). A link is lost; held cells are discarded, EV counts corrected, RQs answered LINK_LOST and entries go ON_ALT. -/
  | linkLost (k : Fin 12)
  /-- LINK_RETRAIN_REQUEST (R327). A write of IBL_CTL.RETRAIN requests retraining at REQ_WIDTH, refused if it breaks a budget. -/
  | linkRetrainRequest (m : Master) (k : Fin 12) (width : Fin 4)
  /-- LINK_RETRAIN_AUTO (R326). A link retrains by its own action, possibly narrower, and stays out of job service. -/
  | linkRetrainAuto (k : Fin 12)
  /-- TSYNC_SEND (R323). Every 1,024 µs a port sends a TSYNC request. -/
  | tsyncSend (k : Fin 12) (frac : BitVec 16)
  /-- TSYNC_REQUEST (R323). The partner port receives a TSYNC request and answers with a reply. -/
  | tsyncRequest (k : Fin 12) (no : BitVec 8) (t1 : BitVec 80) (f2 : BitVec 16) (f3 : BitVec 16)
  /-- TSYNC_REPLY (R323). A TSYNC reply gives the link delay and, in MODE 2, the counter offset. -/
  | tsyncReply (k : Fin 12) (no : BitVec 8) (t2 : BitVec 80) (t3 : BitVec 80) (f4 : BitVec 16)
  /-- Q_SEND (R340). A write of Q_SEND copies the transmit buffer and sends a unicast message. -/
  | qSend (o : Fin 136) (stores : List (Fin 8 × List Byte)) (lenm1 : BitVec 3) (queue : BitVec 4) (dest : BitVec 16)
  /-- Q_SEND_MULTICAST (R345). A write of Q_SEND with MC = 1 starts sending one copy to each selected multicast entry. -/
  | qSendMulticast (o : Fin 136) (stores : List (Fin 8 × List Byte)) (lenm1 : BitVec 3)
  /-- QMSG (R337). Queue message cells arrive; the unit places them in FIFO or ring, or refuses FULL or CLOSED. -/
  | qmsg (dst : BitVec 22) (q : Fin 16) (lenm1 : BitVec 3) (first : Bool) (last : Bool) (src : BitVec 22) (alt : Bool) (data : List Byte) (ecc : Ecc)
  /-- QMSG_REPLY (R342). The sender's interface acts on a message's STATUS reply. -/
  | qmsgReply (o : Fin 137) (qn : BitVec 16) (code : Fin 8) (why : BitVec 8) (n : BitVec 8)
  /-- QMSG_RESEND (R342). 100 ns after a FULL refusal the whole message is sent again. -/
  | qmsgResend (o : Fin 137) (qn : BitVec 16)
  /-- QMSG_REPLY_TIMEOUT (R342). No reply within 1 ms of the last cell is handled as LINK_LOST. -/
  | qmsgReplyTimeout (o : Fin 137) (qn : BitVec 16)
  /-- MC_TIMEOUT (R346). TIMEOUT µs after a multicast, unsent or waiting copies are abandoned. -/
  | mcTimeout (o : Fin 136)
  /-- QUEUE_POP (R336). An 8-byte read of POP returns the head cell's tag and removes it. -/
  | queuePop (o : Fin 136) (q : Fin 16) (ecc : Ecc)
  /-- QUEUE_OPEN (R339). A write of Q_CFG.OPEN = 1 opens a closed queue with an empty FIFO and ring. -/
  | queueOpen (m : Master) (o : Fin 136) (q : Fin 16) (ie : Bool) (ringLen : BitVec 20)
  /-- QUEUE_CLOSE (R343). A write of OPEN = 0 closes the queue and discards its cells and partial messages. -/
  | queueClose (m : Master) (o : Fin 136) (q : Fin 16)
  /-- COMB_ARM (R347). A write of ARMED = 1 clears the slot and reserves a FIFO cell. -/
  | combArm (m : Master) (o : Fin 136) (i : Fin 64) (auto : Bool) (mode : BitVec 2) (queue : BitVec 4) (expect : BitVec 16)
  /-- COMB_DISARM (R347). A write of ARMED = 0 disarms the slot and frees its reservation. -/
  | combDisarm (m : Master) (o : Fin 136) (i : Fin 64)
  /-- Q_CLADD (R348). A write of Q_CLADD sends a CL_ADD contribution from transmit-buffer cell 0. -/
  | qCladd (o : Fin 136) (stores : List (Fin 8 × List Byte)) (slot : BitVec 6) (qn : BitVec 16)
  /-- CL_ADD (R349). A contribution arrives and is added into an armed slot's accumulator. -/
  | clAdd (dst : BitVec 22) (slot : BitVec 8) (data : List Byte)
  /-- CL_SUM (R350). A forwarded child sum arrives at a parent slot and is added like a contribution. -/
  | clSum (dst : BitVec 22) (slot : BitVec 8) (count : BitVec 16) (data : List Byte)
  /-- SYNC_SIGNAL (R353). A SIGNAL adds to an object's VALUE and evaluates its watches. -/
  | syncSignal (dst : BitVec 22) (i : BitVec 8) (v : Word) (src : BitVec 30)
  /-- SYNC_SET (R353). A SET writes an object's VALUE and evaluates its watches. -/
  | syncSet (dst : BitVec 22) (i : BitVec 8) (v : Word) (src : BitVec 30)
  /-- SYNC_WATCH_GE (R355). A WATCH_GE registers a one-shot watch or sends its notice at once. -/
  | syncWatchGe (dst : BitVec 22) (i : BitVec 8) (v : Word) (wqn : BitVec 16) (src : BitVec 30)
  /-- SYNC_WATCH_EQ (R355). A WATCH_EQ registers a one-shot equality watch or sends its notice at once. -/
  | syncWatchEq (dst : BitVec 22) (i : BitVec 8) (v : Word) (wqn : BitVec 16) (src : BitVec 30)
  /-- SYNC_READ (R353). A READ returns an object's VALUE. -/
  | syncRead (dst : BitVec 22) (i : BitVec 8) (src : BitVec 30)
  /-- SYNC_RESEND (R354). 100 ns after a FROZEN refusal the interface resends the sync operation. -/
  | syncResend
  /-- SYNC_NOTICE (R356). A watch notice arrives and is placed as a KIND 1 cell in the watcher's queue. -/
  | syncNotice (dst : BitVec 22) (q : Fin 16) (time : BitVec 64) (obj : BitVec 16) (dev : BitVec 3) (kind : Fin 3) (value : Word) (thr : Word) (eq : Bool) (src : BitVec 22)
  /-- SYNC_ADOPT (R359). A write of SYNC_CTL.ADOPT = 1 makes every object of the owner ACTIVE with VALUE 0. -/
  | syncAdopt (m : Master) (o : Fin 136)
  /-- SYNC_FREEZE (R360). A write of FROZEN = 1 makes the unit refuse operations for a job switch. -/
  | syncFreeze (m : Master) (o : Fin 136)
  /-- SYNC_UNFREEZE (R360). A write of FROZEN = 0 evaluates every watch and sends notices of those that hold. -/
  | syncUnfreeze (m : Master) (o : Fin 136)
  /-- Q_WDRAIN (R362). A load of Q_WDRAIN completes once every earlier store is acknowledged, returning 0. -/
  | qWdrain (o : Fin 136)
  /-- DMA_START (R383). A write of START = 1 clears the channel state and runs the program from PC. -/
  | dmaStart (m : Master) (ch : Fin 1056) (ie : Bool) (sel : Bool)
  /-- DMA_PAUSE (R384). A write of PAUSE = 1 on a tile channel stops new reads and enters PAUSING. -/
  | dmaPause (m : Master) (ch : Fin 1056)
  /-- DMA_PAUSED (R384). A pausing channel finishes its writes and enters PAUSED. -/
  | dmaPaused (ch : Fin 1056)
  /-- DMA_RESUME (R385). A write of PAUSE = 0 rereads loop strides and resumes the MOVE or WAIT. -/
  | dmaResume (m : Master) (ch : Fin 1056)
  /-- DMA_DISABLE (R387). A write of DISABLE = 1 on a bulk channel stops it at once in IDLE. -/
  | dmaDisable (m : Master) (ch : Fin 1056)
  /-- DMA_PROGRAM_FETCH (R372). A channel fetches a 64-byte program granule under its region set. -/
  | dmaProgramFetch (ch : Fin 1056) (k : Fin 3) (ecc : Ecc)
  /-- MOVE (R375). A MOVE copies LEN bytes between device and host spaces at loop-stride addresses. -/
  | move (ch : Fin 1056) (n : Word) (ecc : List (BitVec 32 × Ecc))
  /-- LOOP (R376). A LOOP opens a loop level with its count and strides. -/
  | loop (ch : Fin 1056)
  /-- ENDLOOP (R376). An ENDLOOP repeats the innermost body or closes the level. -/
  | endloop (ch : Fin 1056)
  /-- WAIT (R377). A WAIT sends a watch on a local object and enters state WAIT. -/
  | wait (ch : Fin 1056)
  /-- DMA_SIGNAL (R378). A SIGNAL waits for earlier writes to be acknowledged, then sends SIGNAL or SET. -/
  | dmaSignal (ch : Fin 1056)
  /-- DMA_END (R379). An END sets CODE, enters DONE and may set IRQ. -/
  | dmaEnd (ch : Fin 1056)
  /-- DMA_BAD_OP (R374). A word with a refused opcode stops the channel with BAD_OP. -/
  | dmaBadOp (ch : Fin 1056)
  /-- DMA_NOTICE (R377). A notice reaching a channel completes, fails or retries its WAIT. -/
  | dmaNotice (ch : Fin 1056) (obj : BitVec 16) (thr : Word) (eq : Bool) (kind : Fin 3)
  /-- DMA_WATCH_RESEND (R377). 1 µs after a REFUSED notice the channel sends its WATCH again. -/
  | dmaWatchResend (ch : Fin 1056)
  /-- DDR_ENABLE (R414). A write of DDR_CTL.EN = 1 checks the configuration and starts channel training. -/
  | ddrEnable (m : Master) (c : Fin 8)
  /-- DDR_RETRAIN_REQUEST (R412). A write of DDR_CTL.RETRAIN = 1 asks for a retraining of the channel. -/
  | ddrRetrainRequest (m : Master) (c : Fin 8)
  /-- DDR_RETRAIN_PERIOD (R412). PERIOD slow ticks after its last training a channel asks to retrain. -/
  | ddrRetrainPeriod (c : Fin 8)
  /-- DDR_RETRAIN_TEMP (R412). A channel whose temperature has moved by TEMP_DELTA asks to retrain. -/
  | ddrRetrainTemp (c : Fin 8) (celsius : BitVec 8)
  /-- DDR_RETRAIN_GRANT (R412). The AON controller grants one waiting channel its retraining and the channel stops serving. -/
  | ddrRetrainGrant
  /-- DDR_RETRAIN_END (R412). A retraining completes and the channel serves its queued requests. -/
  | ddrRetrainEnd (c : Fin 8) (celsius : BitVec 8)
  /-- DDR_RETRAIN_TIMEOUT (R412). A retraining not complete after MAX_US restores the old settings and raises DDR_TRAIN. -/
  | ddrRetrainTimeout (c : Fin 8)
  /-- DDR_ALERT (R408). ALERT_n reports a CA parity or write CRC error and commands are replayed. -/
  | ddrAlert (c : Fin 8) (wcrc : Bool) (again : Bool)
  /-- DDR_PATROL_READ (R413). Every INTERVAL ns the channel patrol-reads one line. -/
  | ddrPatrolRead (c : Fin 8) (line : BitVec 36) (ecc : Ecc)
  /-- POWER_WINDOW (R561). At the end of each 100 µs window the Array hold rises or falls by 1/16 against PWR_MAX. -/
  | powerWindow (west : BitVec 16) (east : BitVec 16)
  /-- THERMAL_WARNING (R562). A sensor rises above TWARN, raising THERMAL and Array holds of at least 8/16. -/
  | thermalWarning (sensor : Fin 17) (celsius : BitVec 8)
  /-- THERMAL_STOP (R563). A sensor reaches 120 °C; the record is copied, rails turn off and a chip reset is held. -/
  | thermalStop (sensor : Fin 17)
  /-- THERMAL_RESTART (R563). The AON sensor falls below TWARN − 10 °C and the device starts again from Instar 0. -/
  | thermalRestart (celsius : BitVec 8)
  /-- ROOST_ENTRY (R565). An island idle for IDLE_US closes its interfaces, stops its clock and moves to retention. -/
  | roostEntry (i : Fin 102) (request : Bool) (wfi0 : Bool) (wfi1 : Bool)
  /-- ROOST_WAKE (R567). A request, interrupt, DDR4 maintenance or tile wake starts a roosting island's wake. -/
  | roostWake (i : Fin 102) (cause : Fin 9)
  /-- ISLAND_WAKE_WRITE (R567). A write of 1 to PWR_ISLi_CTL.WAKE wakes the island. -/
  | islandWakeWrite (m : Master) (i : Fin 102)
  /-- WAKE_END (R567). The island's rail and clock are back and its held requests are served in order. -/
  | wakeEnd (i : Fin 102)
  /-- BROWNOUT (R570). A roosting island's retention supply fails; it is reset and BROWNOUT is raised. -/
  | brownout (i : Fin 102)
  /-- RAMP_END (R559). A half's rail ramp ends; a pending clock rise switches and FV_NOW takes the new code. -/
  | rampEnd (h : Fin 2) (dense : Bool)
  /-- ISLAND_OFF (R571). A write of PWR_ISLi_CTL.OFF removes an allowed island's rail and IO supply. -/
  | islandOff (m : Master) (i : Fin 102) (off : Bool)
  /-- MEASURE_EXTEND (R545). A write of TRU_CTL.EXTEND extends M[EIDX] with TRU_EXT_DATA. -/
  | measureExtend (m : Master) (i : Fin 8)
  /-- ATTEST_SIGN (R546). A write of TRU_CTL.SIGN snapshots the selected measurements and starts signing a report. -/
  | attestSign (m : Master) (mask : BitVec 8)
  /-- SIGN_END (R546). Signing ends and the body and signature are written to TRU_REPORT. -/
  | signEnd
  /-- DEBUG_UNLOCK (R550). A write of DBG_GO verifies the debugger's signature, opens debug, extends M7 and draws a new challenge. -/
  | debugUnlock (m : Master)
  /-- SUPPLY_RETURN (R585). A VIN or VAON supply comes back into range; the held chip reset ends and Instar 0 begins, and the SUPPLY standing cause clears. -/
  | supplyReturn (supply : Fin 3)
  /-- DDR_TRAINING_END (R414). A DDR4 channel's training that DDR_CTL.EN = 1 started completes, setting TRAINED, or ends with CFG_ERR. -/
  | ddrTrainingEnd (c : Fin 8) (ok : Bool) (celsius : BitVec 8)
  /-- PCIE_LINK_CHANGE (R474). The PCIe link finishes training and comes up, or goes down or recovers, changing the state that Instar 5 waits for and that host DMA requests are judged against. -/
  | pcieLinkChange (up : Bool)
  /-- PCIE_CONFIG_REQUEST (R474). A PCIe Configuration Request arrives; it is answered with Request Retry Status before Instar 5 ends, and otherwise sets state such as Bus Master and Memory Space Enable. -/
  | pcieConfigRequest (write : Bool) (busMaster : Bool) (memEnable : Bool) (mps : Fin 6) (mrrs : Fin 6)
  /-- HOST_COMPLETION (R375). A PCIe completion for a DMA channel's host-space read or write arrives, delivering data or stopping the channel with TARGET on a completion error. -/
  | hostCompletion (ch : Fin 1056) (ok : Bool) (data : List Byte)
  /-- DMA_REPLY_TIMEOUT (R389). A DMA channel's request has no reply within 1 ms, or a host request times out, and the channel stops with error TARGET. -/
  | dmaReplyTimeout (ch : Fin 1056)
  /-- DDR_BUSY_RESEND (R411). 1 µs after a BUSY answer the requester's interface resends the request. -/
  | ddrBusyResend
  deriving DecidableEq, Repr

end Sys2Proof
end

