-- ==== Sys2Proof/Decode.lean ====
section
/-! DEFINITION. The command a word spells by the opcode table's bits. The table gives none of its rows bits, so no word
spells a command: the block takes its commands from its buses, links and pins. -/

namespace Sys2Proof

/-- The command spelled by a word of n bits: none, since no row of the table gives bits. -/
def decodeTableWord (_nbits _w : Nat) : Option Instr := none

end Sys2Proof
end

