-- ==== Sys2Proof/Config.lean ====
section
/-! DEFINITION. What an implementation fixes and what the manual leaves open: constants without a body, so
that no proof can see a value of them. -/

namespace Sys2Proof.Config

/-- The i-th value the manual leaves open ("unpredictable", R6), at width w. A step that reads one advances
State.free (log entry 1). -/
opaque freeValue (w i : Nat) : BitVec w

/-- The byte at address a of a memory whose contents the manual leaves open: g = 0 at power-on, g + 1 after the g-th
event that leaves a range unpredictable (log entry 2). -/
opaque memByte (g a : Nat) : BitVec 8

/-- Whether the part is the ordering code EW-940-S (R1); else it is EW-940-A. -/
opaque codeS : Bool

/-- SLH-DSA.Verify of FIPS 205 with SLH-DSA-SHA2-128s (R541, R550): public key, message, signature. -/
opaque slhVerify (pk msg sig : List Byte) : Bool

/-- SLH-DSA.Sign of FIPS 205 with SLH-DSA-SHA2-128f, deterministic (R546): secret part, message. -/
opaque slhSign (sk msg : List Byte) : List Byte

/-- The public key root that belongs to a secret part and PK.seed (R547). -/
opaque slhRoot (sk pkSeed : List Byte) : List Byte

/-- The SHA-256 of Tvedkem's key, held in the boot ROM (R543). -/
opaque vendorKeyHash : List Byte

/-- KIND and LEN, bits [15:8] of the header word, of a control-network packet: 0 read request, 1 write request, 2 read response, 3 write
response (R312, log entry 99). -/
opaque ctrlHead (packet : Nat) : BitVec 8

/-- The link by which the board tree goes from a device toward another (R312, log entry 99). -/
opaque boardLink (device toward : Nat) : BitVec 4

/-- The second leg of a detour (R155, R314, log entry 65): the link by which device mid forwards cells for device dest, half h; the link
of dest it ends at; and the traversal time that device mid's link k reports, in ns. -/
opaque onwardLink (mid dest h : Nat) : BitVec 4
opaque onwardPeer (mid k : Nat) : BitVec 4
opaque onwardTrav (mid k : Nat) : BitVec 16

/-- What a byte of the manufacturer page beside the limits reads as: the seed's bytes zero, the others as made (R514, log entry 94). -/
opaque mfgByte (a : Nat) : BitVec 8

/-- The identity seed of the manufacturer page (R547) and the device identity (R551). -/
opaque identitySeed : List Byte
opaque deviceId : BitVec 64

end Sys2Proof.Config
end

