-- ==== Sys2Proof/Machine/RegTable.lean ====
section
/-! DEFINITION. The register table: every register of the manual's register tables, by block, with the
type and the reset value of each field (R3, R8 and the register rules of each chapter, named at each row).
Reserved bits carry the type rsv. A reset value the manual gives as a strap, a page, an image or a stored
value stands as 0 here and is loaded by the step that reads it (log entry 3). -/

namespace Sys2Proof.Machine

/-- The field types of R8; rsv is a reserved bit (R10), cmd a command field that reads 0, coef b the two
coefficient banks of R65, islen the ROOST_EN bit of R572. No register of the manual has the type WM of R8. -/
inductive FTy where
  | rsv | ro | rw | cmd | rwd | rws | w1c | rwl | coef (bank : Nat) | islen
  deriving DecidableEq, Repr

/-- One field of a register: its bits, its type and its reset value. -/
structure FieldDef where
  hi : Nat
  lo : Nat
  ty : FTy
  reset : Nat
  deriving DecidableEq, Repr

/-- One register, or one array of registers, of a block: offset in the block, number of registers, stride. -/
structure RegDef where
  name : String
  base : Nat
  count : Nat
  stride : Nat
  fields : List FieldDef
  deriving DecidableEq, Repr

/-- The place of a field in CSR space: the byte offset of its register and its bits. -/
structure FieldRef where
  off : Nat
  hi : Nat
  lo : Nat
  deriving DecidableEq, Repr

/-! The bases of the blocks (R499), and of the layouts that several blocks hold. Each is a function of every number, and counts it
modulo the number of its blocks (links: of the 4-bit link numbers), so that no number names a register of another array. -/

/-- Ingest stream s (R499). -/
def ingBase (s : Nat) : Nat := 0x100000 + s % 32 * 0x10000
/-- Neuron core n (R499). -/
def ncBase (n : Nat) : Nat := 0x400000 + n % 1024 * 0x10000
/-- Tile t (R499). -/
def tileBase (t : Nat) : Nat := 0x5000000 + t % 64 * 0x10000
/-- Sequencer core i, 2t + k of tile t (R499). -/
def seqBase (i : Nat) : Nat := tileBase (i / 2) + 0x8000 + (i % 2) * 0x1000
/-- DDR channel c (R499). -/
def ddrBase (c : Nat) : Nat := 0x7000000 + c % 8 * 0x10000
/-- Ibnum link k (R499). -/
def iblBase (k : Nat) : Nat := 0x7100000 + k % 16 * 0x10000
/-- Bulk DMA engine h (R499). -/
def bdmaBase (h : Nat) : Nat := 0x7300000 + h % 2 * 0x10000
/-- Application core c (R499). -/
def appBase (c : Nat) : Nat := 0x7500000 + c * 0x10000
/-- The block that holds the queue and sync registers of owner o: a sequencer core below 128, an
application core 128 + c (R363). -/
def ownBase (o : Nat) : Nat := if o % 137 < 128 then seqBase (o % 137) else appBase (o % 137 - 128)
/-- DMA channel 16·engine + c, tile engines 0 to 63 with four channels, bulk engines 64 and 65 with
sixteen (R390, R537). -/
def dmaBase (ch : Nat) : Nat :=
  if ch / 16 % 66 < 64 then tileBase (ch / 16 % 66) + 0x200 + ch % 4 * 0x40 else bdmaBase (ch / 16 % 66 - 64) + ch % 16 * 0x40
/-- Broadcast receiver r: neuron core r below 1,024, sequencer core r − 1,024 above (R489). -/
def brxBase (r : Nat) : Nat := if r % 1152 < 1024 then ncBase (r % 1152) + 0x380 else seqBase (r % 1152 - 1024) + 0xF40
/-- The region sets (R395, R396), by the block that holds each. -/
def rsetSeq (i : Nat) : Nat := seqBase i + 0xE00
def rsetApp : Nat := 0x7580000
def rsetTile (t : Nat) : Nat := tileBase t + 0x400
def rsetBulk (h : Nat) : Nat := bdmaBase h + 0x900
def rsetPcie : Nat := 0x7202000
def rsetLink (k : Nat) : Nat := iblBase k + 0x100
def rsetTb : Nat := 0x50400
def rsetIng (g : Nat) : Nat := 0x7401000 + g % 32 * 0x200

/-- Registers of layout aon. -/
def regsAon : List RegDef := [
  ⟨"AON_LIMITS", 0x40, 1, 0x4, [⟨31, 24, .rwl, 0⟩, ⟨23, 12, .rwl, 0⟩, ⟨11, 1, .rsv, 0⟩, ⟨0, 0, .rwl, 0⟩]⟩ /- R3 -/,
  ⟨"AON_STATUS", 0x44, 1, 0x4, [⟨31, 2, .rsv, 0⟩, ⟨1, 1, .w1c, 0⟩, ⟨0, 0, .w1c, 0⟩]⟩ /- R519 -/,
  ⟨"AON_ACCESS", 0x50, 1, 0x4, [⟨31, 31, .rwl, 0⟩, ⟨30, 30, .rwl, 0⟩, ⟨29, 0, .rsv, 0⟩]⟩ /- R519 -/,
  ⟨"AON_PRIV_CNT", 0x54, 1, 0x4, [⟨31, 0, .rw, 0⟩]⟩ /- R519 -/,
  ⟨"AON_VOTE_ADDR", 0x58, 1, 0x4, [⟨31, 28, .rsv, 0⟩, ⟨27, 0, .ro, 0⟩]⟩ /- R519 -/,
  ⟨"AON_VOTE_CNT", 0x5c, 1, 0x4, [⟨31, 0, .rw, 0⟩]⟩ /- R519 -/,
  ⟨"AON_TWIN_CTL", 0x100, 1, 0x4, [⟨31, 31, .rw, 0⟩, ⟨30, 30, .cmd, 0⟩, ⟨29, 29, .rwd, 0⟩, ⟨28, 28, .rwd, 1⟩, ⟨27, 0, .rsv, 0⟩]⟩ /- R467 -/,
  ⟨"AON_TWIN_CFG", 0x104, 1, 0x4, [⟨31, 24, .rwd, 32⟩, ⟨23, 16, .rwd, 64⟩, ⟨15, 8, .rwd, 20⟩, ⟨7, 4, .rwd, 6⟩, ⟨3, 0, .rwd, 0⟩]⟩ /- R467 -/,
  ⟨"AON_TWIN_STATUS", 0x108, 1, 0x4, [⟨31, 31, .ro, 0⟩, ⟨30, 30, .ro, 0⟩, ⟨29, 29, .ro, 0⟩, ⟨28, 28, .w1c, 0⟩, ⟨27, 27, .w1c, 0⟩, ⟨26, 26, .ro, 0⟩, ⟨25, 25, .ro, 0⟩, ⟨24, 20, .rsv, 0⟩, ⟨19, 16, .ro, 0⟩, ⟨15, 1, .rsv, 0⟩, ⟨0, 0, .w1c, 0⟩]⟩ /- R467 -/,
  ⟨"AON_TWIN_SWAP_AT_LO", 0x110, 1, 0x4, [⟨31, 0, .rw, 0⟩]⟩ /- R467 -/,
  ⟨"AON_TWIN_SWAP_AT_HI", 0x114, 1, 0x4, [⟨31, 0, .rw, 0⟩]⟩ /- R467 -/,
  ⟨"AON_TWIN_LAST_LO", 0x118, 1, 0x4, [⟨31, 0, .ro, 0⟩]⟩ /- R467 -/,
  ⟨"AON_TWIN_LAST_HI", 0x11c, 1, 0x4, [⟨31, 0, .ro, 0⟩]⟩ /- R467 -/,
  ⟨"AON_TWIN_VER", 0x120, 1, 0x4, [⟨31, 24, .ro, 0⟩, ⟨23, 16, .ro, 0⟩, ⟨15, 8, .ro, 0⟩, ⟨7, 0, .rsv, 0⟩]⟩ /- R467 -/,
  ⟨"AON_ID", 0x124, 1, 0x4, [⟨31, 4, .rsv, 0⟩, ⟨3, 3, .ro, 0⟩, ⟨2, 0, .ro, 0⟩]⟩ /- R467 -/,
  ⟨"AON_TWIN_CMP", 0x128, 1, 0x4, [⟨31, 16, .rw, 8000⟩, ⟨15, 0, .rsv, 0⟩]⟩ /- R467 -/,
  ⟨"AON_TWIN_TAKE_CNT", 0x130, 1, 0x4, [⟨31, 0, .rw, 0⟩]⟩ /- R468 -/,
  ⟨"AON_TWIN_HELD_CNT", 0x134, 1, 0x4, [⟨31, 0, .rw, 0⟩]⟩ /- R468 -/,
  ⟨"AON_TWIN_SHADOW_DROP_CNT", 0x138, 1, 0x4, [⟨31, 0, .rw, 0⟩]⟩ /- R468 -/,
  ⟨"AON_TWIN_CMP_CNT", 0x13c, 1, 0x4, [⟨31, 0, .rw, 0⟩]⟩ /- R468 -/,
  ⟨"AON_TWIN_CMP_MISS_CNT", 0x140, 1, 0x4, [⟨31, 0, .rw, 0⟩]⟩ /- R468 -/]

/-- Registers of layout jrx. -/
def regsJrx : List RegDef := [
  ⟨"JRX_PLL", 0x0, 8, 0x4, [⟨31, 31, .ro, 0⟩, ⟨30, 16, .rsv, 0⟩, ⟨15, 0, .rwd, 0⟩]⟩ /- R82 -/,
  ⟨"JRX_LANE_CFG", 0x100, 64, 0x4, [⟨31, 31, .rw, 0⟩, ⟨30, 12, .rsv, 0⟩, ⟨11, 11, .rwd, 0⟩, ⟨10, 10, .rwd, 0⟩, ⟨9, 7, .rwd, 0⟩, ⟨6, 5, .rsv, 0⟩, ⟨4, 0, .rwd, 0⟩]⟩ /- R83 -/,
  ⟨"JRX_LANE_STAT", 0x200, 64, 0x4, [⟨31, 31, .ro, 0⟩, ⟨30, 30, .ro, 0⟩, ⟨29, 24, .rsv, 0⟩, ⟨23, 16, .ro, 0⟩, ⟨15, 0, .rw, 0⟩]⟩ /- R84 -/,
  ⟨"JRX_SYSREF", 0x300, 1, 0x4, [⟨31, 16, .rw, 0⟩, ⟨15, 3, .rsv, 0⟩, ⟨2, 2, .ro, 0⟩, ⟨1, 0, .rw, 0⟩]⟩ /- R84 -/,
  ⟨"JRX_STATUS", 0x304, 1, 0x4, [⟨31, 1, .rsv, 0⟩, ⟨0, 0, .w1c, 0⟩]⟩ /- R84 -/]

/-- Registers of layout ing. -/
def regsIng : List RegDef := [
  ⟨"ING_CTL", 0x0, 1, 0x4, [⟨31, 31, .rw, 0⟩, ⟨30, 10, .rsv, 0⟩, ⟨9, 9, .rws, 0⟩, ⟨8, 8, .rw, 0⟩, ⟨7, 7, .rwd, 0⟩, ⟨6, 6, .rwd, 0⟩, ⟨5, 5, .rwd, 1⟩, ⟨4, 4, .rwd, 1⟩, ⟨3, 0, .rsv, 0⟩]⟩ /- R86 -/,
  ⟨"ING_LINK", 0x4, 1, 0x4, [⟨31, 23, .rsv, 0⟩, ⟨22, 18, .rwd, 0⟩, ⟨17, 16, .rwd, 0⟩, ⟨15, 12, .rwd, 0xF⟩, ⟨11, 8, .rwd, 0⟩, ⟨7, 7, .rsv, 0⟩, ⟨6, 4, .rwd, 0⟩, ⟨3, 3, .rsv, 0⟩, ⟨2, 0, .rwd, 0⟩]⟩ /- R86 -/,
  ⟨"ING_SRC", 0x8, 1, 0x4, [⟨31, 7, .rsv, 0⟩, ⟨6, 4, .rwd, 0⟩, ⟨3, 1, .rwd, 0⟩, ⟨0, 0, .rwd, 0⟩]⟩ /- R85 -/,
  ⟨"ING_RELEASE", 0xc, 1, 0x4, [⟨31, 12, .rsv, 0⟩, ⟨11, 0, .rwd, 0⟩]⟩ /- R85 -/,
  ⟨"ING_TS_OFS", 0x10, 1, 0x4, [⟨31, 0, .rws, 0⟩]⟩ /- R85 -/,
  ⟨"ING_DEC", 0x14, 1, 0x4, [⟨31, 13, .rsv, 0⟩, ⟨12, 8, .rwd, 0⟩, ⟨7, 6, .rwd, 0⟩, ⟨5, 0, .rwd, 0⟩]⟩ /- R85 -/,
  ⟨"ING_CHAN", 0x18, 1, 0x4, [⟨31, 13, .rsv, 0⟩, ⟨12, 12, .rws, 0⟩, ⟨11, 8, .rwd, 0⟩, ⟨7, 4, .rwd, 0⟩, ⟨3, 1, .rwd, 0⟩, ⟨0, 0, .rwd, 0⟩]⟩ /- R85 -/,
  ⟨"ING_BUDGET", 0x20, 1, 0x4, [⟨31, 16, .rsv, 0⟩, ⟨15, 0, .rws, 0⟩]⟩ /- R85 -/,
  ⟨"ING_TAP", 0x24, 1, 0x4, [⟨31, 1, .rsv, 0⟩, ⟨0, 0, .rwd, 0⟩]⟩ /- R85 -/,
  ⟨"ING_RING_BASE_LO", 0x28, 1, 0x4, [⟨31, 0, .rwd, 0⟩]⟩ /- R85 -/,
  ⟨"ING_RING_BASE_HI", 0x2c, 1, 0x4, [⟨31, 0, .rwd, 0⟩]⟩ /- R85 -/,
  ⟨"ING_RING_SIZE", 0x30, 1, 0x4, [⟨31, 22, .rsv, 0⟩, ⟨21, 0, .rwd, 0⟩]⟩ /- R85 -/,
  ⟨"ING_RING_WP_LO", 0x34, 1, 0x4, [⟨31, 0, .ro, 0⟩]⟩ /- R85 -/,
  ⟨"ING_RING_WP_HI", 0x38, 1, 0x4, [⟨31, 0, .ro, 0⟩]⟩ /- R85 -/,
  ⟨"ING_STATUS", 0x40, 1, 0x4, [⟨31, 31, .ro, 0⟩, ⟨30, 30, .ro, 0⟩, ⟨29, 29, .ro, 0⟩, ⟨28, 28, .ro, 0⟩, ⟨27, 24, .ro, 0⟩, ⟨23, 1, .rsv, 0⟩, ⟨0, 0, .w1c, 0⟩]⟩ /- R86 -/,
  ⟨"ING_LATENCY", 0x44, 1, 0x4, [⟨31, 28, .rsv, 0⟩, ⟨27, 16, .ro, 0⟩, ⟨15, 12, .rsv, 0⟩, ⟨11, 0, .ro, 0⟩]⟩ /- R85 -/,
  ⟨"ING_EVT_CNT", 0x50, 1, 0x4, [⟨31, 0, .rw, 0⟩]⟩ /- R89 -/,
  ⟨"ING_CLIP_CNT", 0x54, 1, 0x4, [⟨31, 0, .rw, 0⟩]⟩ /- R89 -/,
  ⟨"ING_SAT_CNT", 0x58, 1, 0x4, [⟨31, 0, .rw, 0⟩]⟩ /- R89 -/,
  ⟨"ING_DEFER_CNT", 0x5c, 1, 0x4, [⟨31, 0, .rw, 0⟩]⟩ /- R89 -/,
  ⟨"ING_CRC_CNT", 0x60, 1, 0x4, [⟨31, 0, .rw, 0⟩]⟩ /- R89 -/,
  ⟨"ING_FEC_CNT", 0x64, 1, 0x4, [⟨31, 0, .rw, 0⟩]⟩ /- R89 -/,
  ⟨"ING_FEC_UNC_CNT", 0x68, 1, 0x4, [⟨31, 0, .rw, 0⟩]⟩ /- R89 -/,
  ⟨"ING_ABSENT_CNT", 0x6c, 1, 0x4, [⟨31, 0, .rw, 0⟩]⟩ /- R89 -/,
  ⟨"ING_GAP_CNT", 0x70, 1, 0x4, [⟨31, 0, .rw, 0⟩]⟩ /- R89 -/,
  ⟨"ING_WRAP_CNT", 0x74, 1, 0x4, [⟨31, 0, .rw, 0⟩]⟩ /- R89 -/,
  ⟨"ING_HOLD_CNT", 0x78, 1, 0x4, [⟨31, 0, .rw, 0⟩]⟩ /- R89 -/,
  ⟨"ING_COEF0", 0x4000, 2048, 0x4, [⟨31, 16, (.coef 0), 0⟩, ⟨15, 0, (.coef 0), 0⟩]⟩ /- R65 -/,
  ⟨"ING_COEF1", 0x6000, 2048, 0x4, [⟨31, 16, (.coef 1), 0⟩, ⟨15, 0, (.coef 1), 0⟩]⟩ /- R65 -/,
  ⟨"ING_CH_W0", 0x8000, 256, 0x8, [⟨31, 16, .rws, 0⟩, ⟨15, 0, .rws, 0⟩]⟩ /- R88 -/,
  ⟨"ING_CH_W1", 0x8004, 256, 0x8, [⟨31, 31, .rws, 0⟩, ⟨30, 30, .rws, 0⟩, ⟨29, 28, .rws, 0⟩, ⟨27, 24, .rws, 0⟩, ⟨23, 16, .rws, 0⟩, ⟨15, 0, .rws, 0⟩]⟩ /- R88 -/,
  ⟨"ING_DST_W0", 0x9000, 16, 0x8, [⟨31, 16, .rws, 0⟩, ⟨15, 15, .rws, 0⟩, ⟨14, 10, .rsv, 0⟩, ⟨9, 0, .rws, 0⟩]⟩ /- R88 -/,
  ⟨"ING_DST_W1", 0x9004, 16, 0x8, [⟨31, 17, .rsv, 0⟩, ⟨16, 16, .rws, 0⟩, ⟨15, 8, .rws, 0⟩, ⟨7, 0, .rws, 0⟩]⟩ /- R88 -/,
  ⟨"ING_WAKE_CFG", 0xa000, 1, 0x4, [⟨31, 31, .rw, 0⟩, ⟨30, 16, .rsv, 0⟩, ⟨15, 0, .rws, 0⟩]⟩ /- R291 -/,
  ⟨"ING_WAKE_Q", 0xa004, 1, 0x4, [⟨31, 13, .rsv, 0⟩, ⟨12, 4, .rws, 0⟩, ⟨3, 0, .rws, 0⟩]⟩ /- R291 -/,
  ⟨"ING_WIN", 0xa008, 1, 0x4, [⟨31, 16, .rws, 0⟩, ⟨15, 0, .rws, 0⟩]⟩ /- R291 -/,
  ⟨"ING_WIN_OBJ", 0xa00c, 1, 0x4, [⟨31, 20, .rws, 0⟩, ⟨19, 16, .rsv, 0⟩, ⟨15, 0, .rws, 0⟩]⟩ /- R291 -/,
  ⟨"ING_BR_CTL", 0xa010, 1, 0x4, [⟨31, 31, .rw, 0⟩, ⟨30, 23, .rsv, 0⟩, ⟨22, 16, .rws, 0⟩, ⟨15, 0, .rws, 0⟩]⟩ /- R291 -/,
  ⟨"ING_BR_BASE_LO", 0xa014, 1, 0x4, [⟨31, 0, .rws, 0⟩]⟩ /- R290 -/,
  ⟨"ING_BR_BASE_HI", 0xa018, 1, 0x4, [⟨31, 0, .rws, 0⟩]⟩ /- R290 -/,
  ⟨"ING_BR_DEPTH", 0xa01c, 1, 0x4, [⟨31, 16, .rsv, 0⟩, ⟨15, 0, .rws, 0⟩]⟩ /- R290 -/,
  ⟨"ING_BR_FRAME", 0xa020, 1, 0x4, [⟨31, 0, .ro, 0⟩]⟩ /- R290 -/,
  ⟨"ING_CTX_CTL", 0xa024, 1, 0x4, [⟨31, 31, .rw, 0⟩, ⟨30, 8, .rsv, 0⟩, ⟨7, 0, .rws, 0⟩]⟩ /- R291 -/,
  ⟨"ING_CTX_PUSH_LO", 0xa028, 1, 0x4, [⟨31, 0, .cmd, 0⟩]⟩ /- R290 -/,
  ⟨"ING_CTX_PUSH_HI", 0xa02c, 1, 0x4, [⟨31, 10, .rsv, 0⟩, ⟨9, 0, .cmd, 0⟩]⟩ /- R290 -/,
  ⟨"ING_CTX_STATUS", 0xa030, 1, 0x4, [⟨31, 31, .w1c, 0⟩, ⟨30, 9, .rsv, 0⟩, ⟨8, 0, .ro, 0⟩]⟩ /- R291 -/,
  ⟨"ING_KV_CFG", 0xa040, 2, 0x20, [⟨31, 31, .rw, 0⟩, ⟨30, 30, .rws, 0⟩, ⟨29, 24, .rws, 0⟩, ⟨23, 22, .rsv, 0⟩, ⟨21, 16, .rws, 0⟩, ⟨15, 0, .rws, 0⟩]⟩ /- R292 -/,
  ⟨"ING_KV_STRIDE", 0xa044, 2, 0x20, [⟨31, 24, .rws, 8⟩, ⟨23, 0, .rws, 0⟩]⟩ /- R292 -/,
  ⟨"ING_KV_BASE_LO", 0xa048, 2, 0x20, [⟨31, 0, .rws, 0⟩]⟩ /- R292 -/,
  ⟨"ING_KV_BASE_HI", 0xa04c, 2, 0x20, [⟨31, 0, .rws, 0⟩]⟩ /- R292 -/,
  ⟨"ING_KV_CMD", 0xa050, 2, 0x20, [⟨31, 28, .cmd, 0⟩, ⟨27, 8, .rsv, 0⟩, ⟨7, 0, .cmd, 0⟩]⟩ /- R292 -/,
  ⟨"ING_KV_PTR", 0xa054, 2, 0x20, [⟨31, 0, .ro, 0⟩]⟩ /- R292 -/,
  ⟨"ING_KV_STAT", 0xa058, 2, 0x20, [⟨31, 24, .ro, 0⟩, ⟨23, 23, .ro, 0⟩, ⟨22, 22, .w1c, 0⟩, ⟨21, 16, .rsv, 0⟩, ⟨15, 0, .ro, 0⟩]⟩ /- R292 -/,
  ⟨"ING_KV_OLDEST", 0xa05c, 2, 0x20, [⟨31, 0, .ro, 0⟩]⟩ /- R292 -/,
  ⟨"ING_CTX_DEST", 0xa080, 16, 0x4, [⟨31, 31, .rws, 0⟩, ⟨30, 10, .rsv, 0⟩, ⟨9, 0, .rws, 0⟩]⟩ /- R290 -/,
  ⟨"ING_WAKE_E0", 0xa100, 32, 0x8, [⟨31, 31, .rws, 0⟩, ⟨30, 30, .rws, 0⟩, ⟨29, 24, .rsv, 0⟩, ⟨23, 16, .rws, 0⟩, ⟨15, 10, .rsv, 0⟩, ⟨9, 0, .rws, 0⟩]⟩ /- R291 -/,
  ⟨"ING_WAKE_E1", 0xa104, 32, 0x8, [⟨31, 30, .rsv, 0⟩, ⟨29, 16, .rws, 0⟩, ⟨15, 14, .rsv, 0⟩, ⟨13, 0, .rws, 0⟩]⟩ /- R291 -/,
  ⟨"ING_BR_E0", 0xa200, 64, 0x8, [⟨31, 31, .rws, 0⟩, ⟨30, 30, .rsv, 0⟩, ⟨29, 28, .rws, 0⟩, ⟨27, 16, .rws, 0⟩, ⟨15, 10, .rsv, 0⟩, ⟨9, 0, .rws, 0⟩]⟩ /- R291 -/,
  ⟨"ING_BR_E1", 0xa204, 64, 0x8, [⟨31, 30, .rsv, 0⟩, ⟨29, 16, .rws, 0⟩, ⟨15, 14, .rsv, 0⟩, ⟨13, 0, .rws, 0⟩]⟩ /- R291 -/,
  ⟨"ING_WAKE_CNT", 0xa400, 1, 0x4, [⟨31, 0, .rw, 0⟩]⟩ /- R293 -/,
  ⟨"ING_WAKE_MERGE_CNT", 0xa404, 1, 0x4, [⟨31, 0, .rw, 0⟩]⟩ /- R293 -/,
  ⟨"ING_WAKE_NACK_CNT", 0xa408, 1, 0x4, [⟨31, 0, .rw, 0⟩]⟩ /- R293 -/,
  ⟨"ING_WIN_MISS_CNT", 0xa40c, 1, 0x4, [⟨31, 0, .rw, 0⟩]⟩ /- R293 -/,
  ⟨"ING_CQ_DROP_CNT", 0xa410, 1, 0x4, [⟨31, 0, .rw, 0⟩]⟩ /- R293 -/,
  ⟨"ING_RQ_OVF_CNT", 0xa414, 1, 0x4, [⟨31, 0, .rw, 0⟩]⟩ /- R293 -/,
  ⟨"ING_BR_DROP_CNT", 0xa418, 1, 0x4, [⟨31, 0, .rw, 0⟩]⟩ /- R293 -/,
  ⟨"ING_BR_LATE_CNT", 0xa41c, 1, 0x4, [⟨31, 0, .rw, 0⟩]⟩ /- R293 -/,
  ⟨"ING_CTX_DEFER_CNT", 0xa420, 1, 0x4, [⟨31, 0, .rw, 0⟩]⟩ /- R293 -/,
  ⟨"ING_CTX_FULL_CNT", 0xa424, 1, 0x4, [⟨31, 0, .rw, 0⟩]⟩ /- R293 -/,
  ⟨"ING_CTX_REJ_CNT", 0xa428, 1, 0x4, [⟨31, 0, .rw, 0⟩]⟩ /- R293 -/,
  ⟨"ING_KV_REFUSE_CNT", 0xa42c, 2, 0x4, [⟨31, 0, .rw, 0⟩]⟩ /- R293 -/,
  ⟨"ING_KV_GUARD_CNT", 0xa434, 1, 0x4, [⟨31, 0, .rw, 0⟩]⟩ /- R293 -/]

/-- Registers of layout chr. -/
def regsChr : List RegDef := [
  ⟨"CHR_CMD", 0x0, 1, 0x4, [⟨31, 28, .cmd, 0⟩, ⟨27, 0, .rsv, 0⟩]⟩ /- R509 -/,
  ⟨"CHR_STATUS", 0x4, 1, 0x4, [⟨31, 28, .ro, 0⟩, ⟨27, 24, .ro, 0⟩, ⟨23, 1, .rsv, 0⟩, ⟨0, 0, .w1c, 0⟩]⟩ /- R509 -/,
  ⟨"CHR_NENT", 0x8, 1, 0x4, [⟨31, 13, .rsv, 0⟩, ⟨12, 0, .rw, 0⟩]⟩ /- R509 -/,
  ⟨"CHR_WHEN", 0xc, 1, 0x4, [⟨31, 31, .rw, 0⟩, ⟨30, 0, .rsv, 0⟩]⟩ /- R509 -/,
  ⟨"CHR_AT_LO", 0x10, 1, 0x4, [⟨31, 0, .rw, 0⟩]⟩ /- R509 -/,
  ⟨"CHR_AT_HI", 0x14, 1, 0x4, [⟨31, 0, .rw, 0⟩]⟩ /- R509 -/,
  ⟨"CHR_FAIL", 0x18, 1, 0x4, [⟨31, 24, .ro, 0⟩, ⟨23, 16, .ro, 0⟩, ⟨15, 12, .rsv, 0⟩, ⟨11, 0, .ro, 0⟩]⟩ /- R509 -/,
  ⟨"CHR_LEAD", 0x1c, 1, 0x4, [⟨31, 0, .ro, 2000⟩]⟩ /- R509 -/,
  ⟨"CHR_DONE_T_LO", 0x20, 1, 0x4, [⟨31, 0, .ro, 0⟩]⟩ /- R509 -/,
  ⟨"CHR_DONE_T_HI", 0x24, 1, 0x4, [⟨31, 0, .ro, 0⟩]⟩ /- R509 -/,
  ⟨"CHR_DONE_STEP", 0x28, 1, 0x4, [⟨31, 0, .ro, 0⟩]⟩ /- R509 -/,
  ⟨"CHR_STALE_ADDR", 0x2c, 1, 0x4, [⟨31, 0, .ro, 0⟩]⟩ /- R509 -/,
  ⟨"CHR_COMMIT_CNT", 0x30, 1, 0x4, [⟨31, 0, .rw, 0⟩]⟩ /- R509 -/,
  ⟨"CHR_FAIL_CNT", 0x34, 1, 0x4, [⟨31, 0, .rw, 0⟩]⟩ /- R509 -/,
  ⟨"CHR_ENT_ADDR", 0x4000, 4096, 0xc, [⟨31, 0, .rw, 0⟩]⟩ /- R501 -/,
  ⟨"CHR_ENT_VALUE", 0x4004, 4096, 0xc, [⟨31, 0, .rw, 0⟩]⟩ /- R501 -/,
  ⟨"CHR_ENT_MASK", 0x4008, 4096, 0xc, [⟨31, 0, .rw, 0⟩]⟩ /- R501 -/]

/-- Registers of layout set. -/
def regsSet : List RegDef := [
  ⟨"SET_CMD", 0x0, 1, 0x4, [⟨31, 28, .cmd, 0⟩, ⟨27, 10, .rsv, 0⟩, ⟨9, 0, .rw, 0⟩]⟩ /- R518 -/,
  ⟨"SET_STATUS", 0x4, 1, 0x4, [⟨31, 31, .ro, 0⟩, ⟨30, 30, .ro, 0⟩, ⟨29, 29, .ro, 0⟩, ⟨28, 24, .rsv, 0⟩, ⟨23, 20, .ro, 0⟩, ⟨19, 10, .ro, 0⟩, ⟨9, 1, .rsv, 0⟩, ⟨0, 0, .w1c, 0⟩]⟩ /- R518 -/,
  ⟨"SET_STORE_CNT", 0x8, 1, 0x4, [⟨31, 0, .rw, 0⟩]⟩ /- R518 -/,
  ⟨"SET_UE_CNT", 0xc, 1, 0x4, [⟨31, 0, .rw, 0⟩]⟩ /- R518 -/,
  ⟨"SET_XSPI_CMD", 0x10, 1, 0x4, [⟨31, 24, .rw, 0⟩, ⟨23, 20, .rw, 0⟩, ⟨19, 19, .rw, 0⟩, ⟨18, 18, .rw, 0⟩, ⟨17, 13, .rsv, 0⟩, ⟨12, 0, .rw, 0⟩]⟩ /- R518 -/,
  ⟨"SET_XSPI_ADDR", 0x14, 1, 0x4, [⟨31, 0, .rw, 0⟩]⟩ /- R518 -/,
  ⟨"SET_BUF", 0x1000, 1024, 0x4, [⟨31, 0, .rw, 0⟩]⟩ /- R518 -/]

/-- Registers of layout nc. -/
def regsNc : List RegDef := [
  ⟨"NC_CTL", 0x0, 1, 0x4, [⟨31, 31, .rw, 0⟩, ⟨30, 17, .rsv, 0⟩, ⟨16, 0, .rwd, 0⟩]⟩ /- R126 -/,
  ⟨"NC_STATUS", 0x4, 1, 0x4, [⟨31, 31, .ro, 0⟩, ⟨30, 30, .ro, 1⟩, ⟨29, 2, .rsv, 0⟩, ⟨1, 1, .w1c, 0⟩, ⟨0, 0, .w1c, 0⟩]⟩ /- R126 -/,
  ⟨"NC_LAST", 0x8, 1, 0x4, [⟨31, 16, .ro, 0⟩, ⟨15, 0, .ro, 0⟩]⟩ /- R126 -/,
  ⟨"NC_SWEEP", 0xc, 1, 0x4, [⟨31, 14, .rsv, 0⟩, ⟨13, 0, .ro, 0⟩]⟩ /- R126 -/,
  ⟨"NC_STEP", 0x10, 1, 0x4, [⟨31, 0, .ro, 0⟩]⟩ /- R126 -/,
  ⟨"NC_BIAS_A", 0x20, 4, 0x8, [⟨31, 31, .rws, 0⟩, ⟨30, 24, .rsv, 0⟩, ⟨23, 16, .rws, 0⟩, ⟨15, 0, .rws, 0⟩]⟩ /- R127 -/,
  ⟨"NC_BIAS_B", 0x24, 4, 0x8, [⟨31, 16, .rws, 0⟩, ⟨15, 0, .rws, 0⟩]⟩ /- R127 -/,
  ⟨"NC_EVT_CNT", 0x50, 1, 0x4, [⟨31, 0, .rw, 0⟩]⟩ /- R128 -/,
  ⟨"NC_SOP_CNT", 0x54, 1, 0x4, [⟨31, 0, .rw, 0⟩]⟩ /- R128 -/,
  ⟨"NC_FIRE_CNT", 0x58, 1, 0x4, [⟨31, 0, .rw, 0⟩]⟩ /- R128 -/,
  ⟨"NC_CLIP_CNT", 0x5c, 1, 0x4, [⟨31, 0, .rw, 0⟩]⟩ /- R128 -/,
  ⟨"NC_VSAT_CNT", 0x60, 1, 0x4, [⟨31, 0, .rw, 0⟩]⟩ /- R128 -/,
  ⟨"NC_EVERR_CNT", 0x64, 1, 0x4, [⟨31, 0, .rw, 0⟩]⟩ /- R128 -/,
  ⟨"NC_ROW_ERR_CNT", 0x68, 1, 0x4, [⟨31, 0, .rw, 0⟩]⟩ /- R128 -/,
  ⟨"NC_CARRY_CNT", 0x6c, 1, 0x4, [⟨31, 0, .rw, 0⟩]⟩ /- R128 -/,
  ⟨"NC_BUDGET", 0x100, 1, 0x4, [⟨31, 24, .rws, 0⟩, ⟨23, 16, .rws, 0⟩, ⟨15, 8, .rws, 0⟩, ⟨7, 0, .rws, 0⟩]⟩ /- R159 -/,
  ⟨"NC_BUDGET_L", 0x104, 1, 0x4, [⟨31, 8, .rsv, 0⟩, ⟨7, 0, .rws, 0⟩]⟩ /- R159 -/,
  ⟨"NC_CLAIM", 0x108, 1, 0x4, [⟨31, 28, .rsv, 0⟩, ⟨27, 16, .rws, 0⟩, ⟨15, 0, .rws, 0⟩]⟩ /- R159 -/,
  ⟨"NC_EMIT_STATUS", 0x10c, 1, 0x4, [⟨31, 31, .ro, 0⟩, ⟨30, 27, .rsv, 0⟩, ⟨26, 16, .ro, 0⟩, ⟨15, 12, .rsv, 0⟩, ⟨11, 0, .ro, 0⟩]⟩ /- R159 -/,
  ⟨"NC_DEFER_CNT", 0x110, 1, 0x4, [⟨31, 0, .rw, 0⟩]⟩ /- R160 -/,
  ⟨"NC_LATE_CNT", 0x114, 1, 0x4, [⟨31, 0, .rw, 0⟩]⟩ /- R160 -/,
  ⟨"NC_WHEEL_FULL_CNT", 0x118, 1, 0x4, [⟨31, 0, .rw, 0⟩]⟩ /- R160 -/,
  ⟨"NC_TX_CELL_CNT", 0x11c, 1, 0x4, [⟨31, 0, .rw, 0⟩]⟩ /- R160 -/,
  ⟨"NC_RX_CELL_CNT", 0x120, 1, 0x4, [⟨31, 0, .rw, 0⟩]⟩ /- R160 -/,
  ⟨"NC_PL_CTL", 0x200, 1, 0x4, [⟨31, 31, .rws, 0⟩, ⟨30, 16, .rsv, 0⟩, ⟨15, 0, .rws, 0⟩]⟩ /- R185 -/,
  ⟨"NC_PL_STATUS", 0x204, 1, 0x4, [⟨31, 31, .ro, 0⟩, ⟨30, 30, .ro, 0⟩, ⟨29, 29, .ro, 0⟩, ⟨28, 24, .rsv, 0⟩, ⟨23, 14, .ro, 0⟩, ⟨13, 0, .ro, 0⟩]⟩ /- R185 -/,
  ⟨"NC_PL_EPOCH", 0x208, 1, 0x4, [⟨31, 0, .ro, 0⟩]⟩ /- R185 -/,
  ⟨"NC_PL_LAST", 0x20c, 1, 0x4, [⟨31, 16, .ro, 0⟩, ⟨15, 0, .ro, 0⟩]⟩ /- R185 -/,
  ⟨"NC_PL_UPD_CNT", 0x220, 1, 0x4, [⟨31, 0, .rw, 0⟩]⟩ /- R186 -/,
  ⟨"NC_PL_DROP_CNT", 0x224, 1, 0x4, [⟨31, 0, .rw, 0⟩]⟩ /- R186 -/,
  ⟨"NC_PL_DSAT_CNT", 0x228, 1, 0x4, [⟨31, 0, .rw, 0⟩]⟩ /- R186 -/,
  ⟨"NC_PL_CLAMP_CNT", 0x22c, 1, 0x4, [⟨31, 0, .rw, 0⟩]⟩ /- R186 -/,
  ⟨"NC_PL_CSKIP_CNT", 0x230, 1, 0x4, [⟨31, 0, .rw, 0⟩]⟩ /- R186 -/,
  ⟨"NC_CE_CNT", 0x300, 1, 0x4, [⟨31, 0, .rw, 0⟩]⟩ /- R405 -/,
  ⟨"NC_UE_CNT", 0x304, 1, 0x4, [⟨31, 0, .rw, 0⟩]⟩ /- R405 -/,
  ⟨"NC_UE_ADDR", 0x308, 1, 0x4, [⟨31, 0, .ro, 0⟩]⟩ /- R405 -/]

/-- Registers of layout tb. -/
def regsTb : List RegDef := [
  ⟨"TB_STEP_CTL", 0x100, 1, 0x4, [⟨31, 31, .rw, 0⟩, ⟨30, 8, .rsv, 0⟩, ⟨7, 0, .rws, 64⟩]⟩ /- R161 -/,
  ⟨"TB_STEP_LEN", 0x104, 1, 0x4, [⟨31, 20, .rsv, 0⟩, ⟨19, 0, .rwd, 1000⟩]⟩ /- R161 -/,
  ⟨"TB_STEP_T0_LO", 0x108, 1, 0x4, [⟨31, 0, .rwd, 0⟩]⟩ /- R161 -/,
  ⟨"TB_STEP_T0_HI", 0x10c, 1, 0x4, [⟨31, 0, .rwd, 0⟩]⟩ /- R161 -/,
  ⟨"TB_STEP_CNT", 0x110, 1, 0x4, [⟨31, 0, .ro, 0⟩]⟩ /- R161 -/,
  ⟨"TB_ADM_CFG", 0x114, 1, 0x4, [⟨31, 28, .rws, 0⟩, ⟨27, 24, .rsv, 0⟩, ⟨23, 0, .rws, 0⟩]⟩ /- R161 -/,
  ⟨"TB_ADM_STATUS", 0x118, 1, 0x4, [⟨31, 24, .ro, 0⟩, ⟨23, 20, .ro, 0⟩, ⟨19, 16, .ro, 0⟩, ⟨15, 0, .ro, 0⟩]⟩ /- R161 -/,
  ⟨"TB_ADM_BOUND", 0x11c, 1, 0x4, [⟨31, 24, .rsv, 0⟩, ⟨23, 0, .ro, 0⟩]⟩ /- R161 -/,
  ⟨"TB_DEFER_CFG", 0x120, 1, 0x4, [⟨31, 16, .rsv, 0⟩, ⟨15, 0, .rw, 0⟩]⟩ /- R161 -/,
  ⟨"TB_STRETCH_PEAK", 0x124, 1, 0x4, [⟨31, 20, .rsv, 0⟩, ⟨19, 0, .rw, 0⟩]⟩ /- R161 -/,
  ⟨"TB_STRETCH_CNT", 0x130, 1, 0x4, [⟨31, 0, .rw, 0⟩]⟩ /- R161 -/,
  ⟨"TB_LATE_STEP_CNT", 0x134, 1, 0x4, [⟨31, 0, .rw, 0⟩]⟩ /- R161 -/,
  ⟨"TB_HOLD_CNT", 0x138, 1, 0x4, [⟨31, 0, .rw, 0⟩]⟩ /- R161 -/,
  ⟨"TB_DEFER_STEP_CNT", 0x13c, 1, 0x4, [⟨31, 0, .rw, 0⟩]⟩ /- R161 -/,
  ⟨"TB_CNT_LO", 0x0, 1, 0x4, [⟨31, 0, .ro, 0⟩]⟩ /- R437 -/,
  ⟨"TB_CNT_HI", 0x4, 1, 0x4, [⟨31, 0, .ro, 0⟩]⟩ /- R437 -/,
  ⟨"TB_SYNC_CFG", 0x10, 1, 0x4, [⟨31, 30, .rw, 0⟩, ⟨29, 29, .rw, 0⟩, ⟨28, 28, .rsv, 0⟩, ⟨27, 24, .rw, 0⟩, ⟨23, 16, .rw, 8⟩, ⟨15, 0, .rw, 16384⟩]⟩ /- R437 -/,
  ⟨"TB_SYNC_STATUS", 0x14, 1, 0x4, [⟨31, 31, .ro, 0⟩, ⟨30, 30, .w1c, 0⟩, ⟨29, 29, .w1c, 0⟩, ⟨28, 0, .rsv, 0⟩]⟩ /- R437 -/,
  ⟨"TB_SYNC_LOAD_LO", 0x18, 1, 0x4, [⟨31, 0, .rw, 0⟩]⟩ /- R437 -/,
  ⟨"TB_SYNC_LOAD_HI", 0x1c, 1, 0x4, [⟨31, 0, .rw, 0⟩]⟩ /- R437 -/,
  ⟨"TB_SYNC_OFS", 0x20, 1, 0x4, [⟨31, 0, .ro, 0⟩]⟩ /- R437 -/,
  ⟨"TB_TRIG_CFG", 0x30, 1, 0x4, [⟨31, 31, .rws, 0⟩, ⟨30, 12, .rsv, 0⟩, ⟨11, 0, .rws, 16⟩]⟩ /- R437 -/,
  ⟨"TB_OUT_STATUS", 0x34, 1, 0x4, [⟨31, 31, .ro, 0⟩, ⟨30, 16, .rsv, 0⟩, ⟨15, 0, .ro, 0⟩]⟩ /- R437 -/,
  ⟨"TB_PIN", 0x40, 16, 0x4, [⟨31, 30, .rws, 0⟩, ⟨29, 29, .rws, 0⟩, ⟨28, 28, .rws, 0⟩, ⟨27, 16, .rws, 16⟩, ⟨15, 0, .rws, 1⟩]⟩ /- R437 -/,
  ⟨"TB_REC_CNT", 0x80, 1, 0x4, [⟨31, 0, .rw, 0⟩]⟩ /- R439 -/,
  ⟨"TB_TRIG_CNT", 0x84, 1, 0x4, [⟨31, 0, .rw, 0⟩]⟩ /- R439 -/,
  ⟨"TB_TRIG_LATE_CNT", 0x88, 1, 0x4, [⟨31, 0, .rw, 0⟩]⟩ /- R439 -/,
  ⟨"TB_SYNC_STEP_CNT", 0x8c, 1, 0x4, [⟨31, 0, .rw, 0⟩]⟩ /- R439 -/,
  ⟨"TB_SYNC_BAD_CNT", 0x90, 1, 0x4, [⟨31, 0, .rw, 0⟩]⟩ /- R439 -/,
  ⟨"TRIG_MAP_W0", 0x200, 64, 0x8, [⟨31, 31, .rws, 0⟩, ⟨30, 30, .rsv, 0⟩, ⟨29, 26, .rws, 0⟩, ⟨25, 18, .rws, 0⟩, ⟨17, 10, .rsv, 0⟩, ⟨9, 0, .rws, 0⟩]⟩ /- R437 -/,
  ⟨"TRIG_MAP_W1", 0x204, 64, 0x8, [⟨31, 30, .rsv, 0⟩, ⟨29, 16, .rws, 0⟩, ⟨15, 14, .rsv, 0⟩, ⟨13, 0, .rws, 0⟩]⟩ /- R437 -/,
  ⟨"TMR_CTL", 0x1000, 16, 0x40, [⟨31, 31, .rw, 0⟩, ⟨30, 30, .rw, 0⟩, ⟨29, 29, .rw, 0⟩, ⟨28, 28, .rw, 0⟩, ⟨27, 26, .rwd, 0⟩, ⟨25, 20, .rwd, 0⟩, ⟨19, 17, .rwd, 0⟩, ⟨16, 15, .rwd, 0⟩, ⟨14, 14, .rsv, 0⟩, ⟨13, 12, .rw, 0⟩, ⟨11, 10, .rw, 0⟩, ⟨9, 6, .rw, 0⟩, ⟨5, 0, .rsv, 0⟩]⟩ /- R438 -/,
  ⟨"TMR_PRE", 0x1004, 16, 0x40, [⟨31, 16, .rwd, 0⟩, ⟨15, 0, .rwd, 0⟩]⟩ /- R438 -/,
  ⟨"TMR_IN", 0x1008, 16, 0x40, [⟨31, 16, .rsv, 0⟩, ⟨15, 8, .rwd, 0⟩, ⟨7, 0, .rwd, 1⟩]⟩ /- R438 -/,
  ⟨"TMR_STATUS", 0x100c, 16, 0x40, [⟨31, 31, .w1c, 0⟩, ⟨30, 30, .w1c, 0⟩, ⟨29, 29, .w1c, 0⟩, ⟨28, 28, .ro, 0⟩, ⟨27, 27, .ro, 0⟩, ⟨26, 26, .w1c, 0⟩, ⟨25, 25, .w1c, 0⟩, ⟨24, 0, .rsv, 0⟩]⟩ /- R438 -/,
  ⟨"TMR_CNT_LO", 0x1010, 16, 0x40, [⟨31, 0, .rwd, 0⟩]⟩ /- R438 -/,
  ⟨"TMR_CNT_HI", 0x1014, 16, 0x40, [⟨31, 0, .rwd, 0⟩]⟩ /- R438 -/,
  ⟨"TMR_CMP_LO", 0x1018, 16, 0x40, [⟨31, 0, .rw, 0⟩]⟩ /- R438 -/,
  ⟨"TMR_CMP_HI", 0x101c, 16, 0x40, [⟨31, 0, .rw, 0⟩]⟩ /- R438 -/,
  ⟨"TMR_PERIOD_LO", 0x1020, 16, 0x40, [⟨31, 0, .rw, 0⟩]⟩ /- R438 -/,
  ⟨"TMR_PERIOD_HI", 0x1024, 16, 0x40, [⟨31, 0, .rw, 0⟩]⟩ /- R438 -/,
  ⟨"TMR_CAP_LO", 0x1028, 16, 0x40, [⟨31, 0, .ro, 0⟩]⟩ /- R438 -/,
  ⟨"TMR_CAP_HI", 0x102c, 16, 0x40, [⟨31, 0, .ro, 0⟩]⟩ /- R438 -/,
  ⟨"TMR_CAPT_LO", 0x1030, 16, 0x40, [⟨31, 0, .ro, 0⟩]⟩ /- R438 -/,
  ⟨"TMR_CAPT_HI", 0x1034, 16, 0x40, [⟨31, 0, .ro, 0⟩]⟩ /- R438 -/,
  ⟨"TMR_MATCH_CNT", 0x1038, 16, 0x40, [⟨31, 0, .rw, 0⟩]⟩ /- R438 -/,
  ⟨"TMR_CAP_CNT", 0x103c, 16, 0x40, [⟨31, 0, .rw, 0⟩]⟩ /- R438 -/]

/-- Registers of layout tile. -/
def regsTile : List RegDef := [
  ⟨"TILE_CTL", 0x0, 1, 0x4, [⟨31, 31, .rw, 0⟩, ⟨30, 0, .rsv, 0⟩]⟩ /- R223 -/,
  ⟨"TILE_STATUS", 0x4, 1, 0x4, [⟨31, 31, .ro, 0⟩, ⟨30, 30, .ro, 1⟩, ⟨29, 29, .w1c, 0⟩, ⟨28, 28, .w1c, 0⟩, ⟨27, 1, .rsv, 0⟩, ⟨0, 0, .w1c, 0⟩]⟩ /- R223 -/,
  ⟨"TILE_ERR", 0x8, 1, 0x4, [⟨31, 28, .ro, 0⟩, ⟨27, 27, .ro, 0⟩, ⟨26, 24, .ro, 0⟩, ⟨23, 8, .rsv, 0⟩, ⟨7, 0, .ro, 0⟩]⟩ /- R223 -/,
  ⟨"TILE_XARB", 0xc, 1, 0x4, [⟨31, 16, .rsv, 0⟩, ⟨15, 12, .rwd, 12⟩, ⟨11, 8, .rwd, 2⟩, ⟨7, 4, .rwd, 1⟩, ⟨3, 0, .rwd, 1⟩]⟩ /- R223 -/,
  ⟨"TILE_RING", 0x10, 2, 0x4, [⟨31, 30, .rsv, 0⟩, ⟨29, 16, .ro, 0⟩, ⟨15, 14, .rsv, 0⟩, ⟨13, 0, .ro, 0⟩]⟩ /- R223 -/,
  ⟨"TILE_TQ", 0x20, 8, 0x4, [⟨31, 12, .rsv, 0⟩, ⟨11, 0, .rwd, 0⟩]⟩ /- R223 -/,
  ⟨"TILE_BOUND", 0x40, 8, 0x4, [⟨31, 31, .rw, 1⟩, ⟨30, 16, .rsv, 0⟩, ⟨15, 0, .rw, 0⟩]⟩ /- R223 -/,
  ⟨"TILE_ARR_CYC", 0x80, 1, 0x4, [⟨31, 0, .rw, 0⟩]⟩ /- R226 -/,
  ⟨"TILE_ARR_WAIT", 0x84, 1, 0x4, [⟨31, 0, .rw, 0⟩]⟩ /- R226 -/,
  ⟨"TILE_FETCH_GR", 0x88, 1, 0x4, [⟨31, 0, .rw, 0⟩]⟩ /- R226 -/,
  ⟨"TILE_SPEC_CNT", 0x8c, 1, 0x4, [⟨31, 0, .rw, 0⟩]⟩ /- R226 -/,
  ⟨"TILE_SQUASH_CNT", 0x90, 1, 0x4, [⟨31, 0, .rw, 0⟩]⟩ /- R226 -/,
  ⟨"TILE_RESPEC_CNT", 0x94, 1, 0x4, [⟨31, 0, .rw, 0⟩]⟩ /- R226 -/,
  ⟨"TILE_ESC_MISS_CNT", 0x98, 1, 0x4, [⟨31, 0, .rw, 0⟩]⟩ /- R226 -/,
  ⟨"TILE_XSTALL_CNT", 0x9c, 1, 0x4, [⟨31, 0, .rw, 0⟩]⟩ /- R226 -/,
  ⟨"TILE_NUM_CTL", 0xa0, 1, 0x4, [⟨31, 24, .rw, 0⟩, ⟨23, 16, .rw, 0⟩, ⟨15, 12, .rw, 3⟩, ⟨11, 10, .rw, 1⟩, ⟨9, 9, .rw, 1⟩, ⟨8, 0, .rsv, 0⟩]⟩ /- R254 -/,
  ⟨"TILE_NUM_STATUS", 0xa4, 1, 0x4, [⟨31, 3, .rsv, 0⟩, ⟨2, 2, .w1c, 0⟩, ⟨1, 1, .w1c, 0⟩, ⟨0, 0, .w1c, 0⟩]⟩ /- R254 -/,
  ⟨"TILE_ESC_OVF_CNT", 0xa8, 1, 0x4, [⟨31, 0, .rw, 0⟩]⟩ /- R255 -/,
  ⟨"TILE_SAT_CNT", 0xac, 1, 0x4, [⟨31, 0, .rw, 0⟩]⟩ /- R255 -/,
  ⟨"TDMA_CTL", 0x200, 4, 0x40, [⟨31, 31, .cmd, 0⟩, ⟨30, 30, .rw, 0⟩, ⟨29, 29, .rw, 0⟩, ⟨28, 28, .rw, 0⟩, ⟨27, 0, .rsv, 0⟩]⟩ /- R390 -/,
  ⟨"TDMA_BYTE_CNT", 0x300, 1, 0x4, [⟨31, 0, .rw, 0⟩]⟩ /- R391 -/,
  ⟨"TDMA_END_CNT", 0x304, 1, 0x4, [⟨31, 0, .rw, 0⟩]⟩ /- R391 -/,
  ⟨"TDMA_ERR_CNT", 0x308, 1, 0x4, [⟨31, 0, .rw, 0⟩]⟩ /- R391 -/,
  ⟨"TDMA_NOTICE_DROP_CNT", 0x30c, 1, 0x4, [⟨31, 0, .rw, 0⟩]⟩ /- R391 -/,
  ⟨"TDMA_WATCH_RETRY_CNT", 0x310, 1, 0x4, [⟨31, 0, .rw, 0⟩]⟩ /- R391 -/,
  ⟨"TILE_SLC_CE_CNT", 0x600, 4, 0x10, [⟨31, 0, .rw, 0⟩]⟩ /- R405 -/,
  ⟨"TILE_SLC_UE_CNT", 0x604, 4, 0x10, [⟨31, 0, .rw, 0⟩]⟩ /- R405 -/,
  ⟨"TILE_SLC_UE_ADDR_LO", 0x608, 4, 0x10, [⟨31, 0, .ro, 0⟩]⟩ /- R405 -/,
  ⟨"TILE_SLC_UE_ADDR_HI", 0x60c, 4, 0x10, [⟨31, 0, .ro, 0⟩]⟩ /- R405 -/]

/-- Registers of layout seq. -/
def regsSeq : List RegDef := [
  ⟨"SEQ_CTL", 0x0, 1, 0x4, [⟨31, 31, .rw, 0⟩, ⟨30, 0, .rsv, 0⟩]⟩ /- R227 -/,
  ⟨"SEQ_STATUS", 0x4, 1, 0x4, [⟨31, 31, .ro, 0⟩, ⟨30, 30, .ro, 0⟩, ⟨29, 6, .rsv, 0⟩, ⟨5, 0, .ro, 0⟩]⟩ /- R227 -/,
  ⟨"SEQ_RESET_PC_LO", 0x8, 1, 0x4, [⟨31, 0, .rwd, 0⟩]⟩ /- R227 -/,
  ⟨"SEQ_RESET_PC_HI", 0xc, 1, 0x4, [⟨31, 0, .rwd, 0⟩]⟩ /- R227 -/,
  ⟨"SEQ_MTIMECMP_LO", 0x10, 1, 0x4, [⟨31, 0, .rw, 0xFFFFFFFF⟩]⟩ /- R227 -/,
  ⟨"SEQ_MTIMECMP_HI", 0x14, 1, 0x4, [⟨31, 0, .rw, 0xFFFFFFFF⟩]⟩ /- R227 -/,
  ⟨"SEQ_CE_CNT", 0xf20, 1, 0x4, [⟨31, 0, .rw, 0⟩]⟩ /- R405 -/,
  ⟨"SEQ_UE_CNT", 0xf24, 1, 0x4, [⟨31, 0, .rw, 0⟩]⟩ /- R405 -/,
  ⟨"SEQ_UE_ADDR", 0xf28, 1, 0x4, [⟨31, 0, .ro, 0⟩]⟩ /- R405 -/]

/-- Registers of layout pcie. -/
def regsPcie : List RegDef := [
  ⟨"PCIE_RQ_POST_LO", 0x1000, 32, 0x8, [⟨31, 0, .cmd, 0⟩]⟩ /- R283 -/,
  ⟨"PCIE_RQ_POST_HI", 0x1004, 32, 0x8, [⟨31, 0, .cmd, 0⟩]⟩ /- R283 -/,
  ⟨"PCIE_RQ_SPACE", 0x1100, 32, 0x4, [⟨31, 0, .ro, 1024⟩]⟩ /- R283 -/]

/-- Registers of layout mesh. -/
def regsMesh : List RegDef := [
  ⟨"MESH_CTL", 0x0, 1, 0x4, [⟨31, 31, .rw, 0⟩, ⟨30, 30, .rwd, 0⟩, ⟨29, 0, .rsv, 0⟩]⟩ /- R329 -/,
  ⟨"MESH_STATUS", 0x4, 1, 0x4, [⟨31, 2, .rsv, 0⟩, ⟨1, 1, .ro, 0⟩, ⟨0, 0, .w1c, 0⟩]⟩ /- R329 -/,
  ⟨"MESH_XROUTE", 0x100, 16, 0x4, [⟨31, 31, .rwd, 0⟩, ⟨30, 30, .ro, 0⟩, ⟨29, 29, .rwd, 0⟩, ⟨28, 12, .rsv, 0⟩, ⟨11, 8, .rwd, 0⟩, ⟨7, 4, .rsv, 0⟩, ⟨3, 0, .rwd, 0⟩]⟩ /- R329 -/,
  ⟨"MESH_RANK", 0x4000, 4096, 0x4, [⟨31, 31, .rwd, 0⟩, ⟨30, 22, .rsv, 0⟩, ⟨21, 0, .rwd, 0⟩]⟩ /- R329 -/,
  ⟨"MESH_BAD_DST_CNT", 0x200, 1, 0x4, [⟨31, 0, .rw, 0⟩]⟩ /- R330 -/,
  ⟨"MESH_RANK_MISS_CNT", 0x204, 1, 0x4, [⟨31, 0, .rw, 0⟩]⟩ /- R330 -/,
  ⟨"MESH_TYPE_ERR_CNT", 0x208, 1, 0x4, [⟨31, 0, .rw, 0⟩]⟩ /- R330 -/,
  ⟨"MESH_XHOP_CNT", 0x20c, 1, 0x4, [⟨31, 0, .rw, 0⟩]⟩ /- R330 -/,
  ⟨"MESH_NOROUTE_CNT", 0x210, 1, 0x4, [⟨31, 0, .rw, 0⟩]⟩ /- R330 -/]

/-- Registers of layout ibl. -/
def regsIbl : List RegDef := [
  ⟨"IBL_CTL", 0x0, 1, 0x4, [⟨31, 31, .rw, 0⟩, ⟨30, 30, .rwd, 1⟩, ⟨29, 28, .rsv, 0⟩, ⟨27, 24, .rwd, 8⟩, ⟨23, 20, .rsv, 0⟩, ⟨19, 18, .rw, 3⟩, ⟨17, 17, .cmd, 0⟩, ⟨16, 2, .rsv, 0⟩, ⟨1, 0, .rwd, 3⟩]⟩ /- R331 -/,
  ⟨"IBL_STATUS", 0x4, 1, 0x4, [⟨31, 31, .ro, 0⟩, ⟨30, 28, .ro, 0⟩, ⟨27, 26, .ro, 0⟩, ⟨25, 25, .ro, 0⟩, ⟨24, 24, .ro, 0⟩, ⟨23, 16, .ro, 0⟩, ⟨15, 4, .rsv, 0⟩, ⟨3, 3, .w1c, 0⟩, ⟨2, 2, .w1c, 0⟩, ⟨1, 1, .rsv, 0⟩, ⟨0, 0, .w1c, 0⟩]⟩ /- R331 -/,
  ⟨"IBL_GEN", 0x8, 1, 0x4, [⟨31, 16, .rsv, 0⟩, ⟨15, 12, .rwd, 2⟩, ⟨11, 8, .rwd, 1⟩, ⟨7, 4, .rsv, 0⟩, ⟨3, 0, .ro, 0⟩]⟩ /- R331 -/,
  ⟨"IBL_TRAV", 0xc, 1, 0x4, [⟨31, 28, .rsv, 0⟩, ⟨27, 16, .ro, 0⟩, ⟨15, 12, .rsv, 0⟩, ⟨11, 0, .ro, 0⟩]⟩ /- R331 -/,
  ⟨"IBL_PEER", 0x10, 1, 0x4, [⟨31, 31, .ro, 0⟩, ⟨30, 19, .rsv, 0⟩, ⟨18, 16, .ro, 0⟩, ⟨15, 4, .rsv, 0⟩, ⟨3, 0, .ro, 0⟩]⟩ /- R331 -/,
  ⟨"IBL_FEC_CORR_CNT", 0x20, 1, 0x4, [⟨31, 0, .rw, 0⟩]⟩ /- R332 -/,
  ⟨"IBL_FEC_UNC_CNT", 0x24, 1, 0x4, [⟨31, 0, .rw, 0⟩]⟩ /- R332 -/,
  ⟨"IBL_REPLAY_CNT", 0x28, 1, 0x4, [⟨31, 0, .rw, 0⟩]⟩ /- R332 -/,
  ⟨"IBL_DOWN_CNT", 0x2c, 1, 0x4, [⟨31, 0, .rw, 0⟩]⟩ /- R332 -/,
  ⟨"IBL_DROP_CNT", 0x30, 1, 0x4, [⟨31, 0, .rw, 0⟩]⟩ /- R332 -/,
  ⟨"IBL_TX_CELL_CNT", 0x34, 1, 0x4, [⟨31, 0, .rw, 0⟩]⟩ /- R332 -/,
  ⟨"IBL_RX_CELL_CNT", 0x38, 1, 0x4, [⟨31, 0, .rw, 0⟩]⟩ /- R332 -/]

/-- Registers of layout own. -/
def regsOwn : List RegDef := [
  ⟨"Q_CFG", 0x100, 16, 0x10, [⟨31, 31, .rw, 0⟩, ⟨30, 30, .rw, 0⟩, ⟨29, 20, .rsv, 0⟩, ⟨19, 0, .rwd, 0⟩]⟩ /- R364 -/,
  ⟨"Q_RING_LO", 0x104, 16, 0x10, [⟨31, 6, .rwd, 0⟩, ⟨5, 0, .rsv, 0⟩]⟩ /- R364 -/,
  ⟨"Q_RING_HI", 0x108, 16, 0x10, [⟨31, 16, .rsv, 0⟩, ⟨15, 0, .rwd, 0⟩]⟩ /- R364 -/,
  ⟨"Q_STAT", 0x10c, 16, 0x10, [⟨31, 31, .rsv, 0⟩, ⟨30, 24, .ro, 0⟩, ⟨23, 20, .ro, 0⟩, ⟨19, 0, .ro, 0⟩]⟩ /- R364 -/,
  ⟨"Q_RX_MSG_CNT", 0x200, 1, 0x4, [⟨31, 0, .rw, 0⟩]⟩ /- R369 -/,
  ⟨"Q_FULL_CNT", 0x204, 1, 0x4, [⟨31, 0, .rw, 0⟩]⟩ /- R369 -/,
  ⟨"Q_NACK_CNT", 0x208, 1, 0x4, [⟨31, 0, .rw, 0⟩]⟩ /- R369 -/,
  ⟨"Q_LOST_CNT", 0x20c, 1, 0x4, [⟨31, 0, .rw, 0⟩]⟩ /- R369 -/,
  ⟨"Q_TX_FAIL_CNT", 0x210, 1, 0x4, [⟨31, 0, .rw, 0⟩]⟩ /- R369 -/,
  ⟨"Q_TX_DISCARD_CNT", 0x214, 1, 0x4, [⟨31, 0, .rw, 0⟩]⟩ /- R369 -/,
  ⟨"Q_CL_DROP_CNT", 0x218, 1, 0x4, [⟨31, 0, .rw, 0⟩]⟩ /- R369 -/,
  ⟨"Q_NOTICE_DROP_CNT", 0x21c, 1, 0x4, [⟨31, 0, .rw, 0⟩]⟩ /- R369 -/,
  ⟨"SYNC_ERR_CNT", 0x220, 1, 0x4, [⟨31, 0, .rw, 0⟩]⟩ /- R369 -/,
  ⟨"SYNC_NACK_CNT", 0x224, 1, 0x4, [⟨31, 0, .rw, 0⟩]⟩ /- R369 -/,
  ⟨"SYNC_ORPHAN_CNT", 0x228, 1, 0x4, [⟨31, 0, .rw, 0⟩]⟩ /- R369 -/,
  ⟨"Q_STATUS", 0x240, 1, 0x4, [⟨31, 31, .ro, 0⟩, ⟨30, 30, .w1c, 0⟩, ⟨29, 29, .w1c, 0⟩, ⟨28, 28, .w1c, 0⟩, ⟨27, 17, .rsv, 0⟩, ⟨16, 16, .w1c, 0⟩, ⟨15, 0, .ro, 0⟩]⟩ /- R364 -/,
  ⟨"Q_MC_CFG", 0x244, 1, 0x4, [⟨31, 16, .rwd, 0⟩, ⟨15, 0, .rwd, 0xFFFF⟩]⟩ /- R365 -/,
  ⟨"Q_MC_DONE", 0x248, 1, 0x4, [⟨31, 0, .ro, 0⟩]⟩ /- R365 -/,
  ⟨"Q_MC_FAIL", 0x24c, 1, 0x4, [⟨31, 0, .ro, 0⟩]⟩ /- R365 -/,
  ⟨"Q_MC_MASK", 0x250, 1, 0x4, [⟨31, 0, .rwd, 0⟩]⟩ /- R365 -/,
  ⟨"Q_MC_ENT", 0x280, 32, 0x4, [⟨31, 31, .rwd, 0⟩, ⟨30, 16, .rsv, 0⟩, ⟨15, 0, .rwd, 0⟩]⟩ /- R365 -/,
  ⟨"SYNC_CTL", 0x300, 1, 0x4, [⟨31, 31, .rw, 0⟩, ⟨30, 30, .cmd, 0⟩, ⟨29, 8, .rsv, 0⟩, ⟨7, 0, .rw, 32⟩]⟩ /- R367 -/,
  ⟨"SYNC_PORT_CFG", 0x304, 1, 0x4, [⟨31, 20, .rsv, 0⟩, ⟨19, 19, .rw, 0⟩, ⟨18, 16, .rw, 0⟩, ⟨15, 4, .rsv, 0⟩, ⟨3, 0, .rw, 0⟩]⟩ /- R367 -/,
  ⟨"SYNC_VAL", 0x400, 48, 0x10, [⟨31, 0, .rwd, 0⟩]⟩ /- R367 -/,
  ⟨"SYNC_STATE", 0x404, 48, 0x10, [⟨31, 30, .rwd, 0⟩, ⟨29, 23, .ro, 0⟩, ⟨22, 22, .rsv, 0⟩, ⟨21, 0, .ro, 0⟩]⟩ /- R367 -/,
  ⟨"SYNC_LAST", 0x408, 48, 0x10, [⟨31, 29, .ro, 0⟩, ⟨28, 0, .ro, 0⟩]⟩ /- R367 -/,
  ⟨"Q_COMB", 0x700, 64, 0x10, [⟨31, 31, .rw, 0⟩, ⟨30, 30, .rwd, 0⟩, ⟨29, 28, .rwd, 0⟩, ⟨27, 24, .rsv, 0⟩, ⟨23, 20, .rwd, 0⟩, ⟨19, 16, .rsv, 0⟩, ⟨15, 0, .rwd, 0⟩]⟩ /- R366 -/,
  ⟨"Q_COMB_PAR", 0x704, 64, 0x10, [⟨31, 31, .rwd, 0⟩, ⟨30, 22, .rsv, 0⟩, ⟨21, 16, .rwd, 0⟩, ⟨15, 0, .rwd, 0⟩]⟩ /- R366 -/,
  ⟨"Q_COMB_CNT", 0x708, 64, 0x10, [⟨31, 24, .ro, 0⟩, ⟨23, 16, .ro, 0⟩, ⟨15, 0, .ro, 0⟩]⟩ /- R366 -/,
  ⟨"WATCH_W0", 0xb00, 96, 0x8, [⟨31, 31, .rwd, 0⟩, ⟨30, 30, .rwd, 0⟩, ⟨29, 24, .rwd, 0⟩, ⟨23, 16, .rsv, 0⟩, ⟨15, 0, .rwd, 0⟩]⟩ /- R367 -/,
  ⟨"WATCH_W1", 0xb04, 96, 0x8, [⟨31, 0, .rwd, 0⟩]⟩ /- R367 -/]

/-- Registers of layout bdma. -/
def regsBdma : List RegDef := [
  ⟨"BDMA_CTL", 0x0, 16, 0x40, [⟨31, 31, .cmd, 0⟩, ⟨30, 30, .cmd, 0⟩, ⟨29, 29, .rw, 0⟩, ⟨28, 28, .rw, 0⟩, ⟨27, 0, .rsv, 0⟩]⟩ /- R390 -/,
  ⟨"BDMA_BYTE_CNT", 0x800, 1, 0x4, [⟨31, 0, .rw, 0⟩]⟩ /- R391 -/,
  ⟨"BDMA_END_CNT", 0x804, 1, 0x4, [⟨31, 0, .rw, 0⟩]⟩ /- R391 -/,
  ⟨"BDMA_ERR_CNT", 0x808, 1, 0x4, [⟨31, 0, .rw, 0⟩]⟩ /- R391 -/,
  ⟨"BDMA_NOTICE_DROP_CNT", 0x80c, 1, 0x4, [⟨31, 0, .rw, 0⟩]⟩ /- R391 -/,
  ⟨"BDMA_WATCH_RETRY_CNT", 0x810, 1, 0x4, [⟨31, 0, .rw, 0⟩]⟩ /- R391 -/]

/-- Registers of layout dma. -/
def regsDma : List RegDef := [
  ⟨"DMA_STATUS", 0x4, 1, 0x4, [⟨31, 29, .ro, 0⟩, ⟨28, 28, .ro, 0⟩, ⟨27, 27, .w1c, 0⟩, ⟨26, 26, .w1c, 0⟩, ⟨25, 24, .rsv, 0⟩, ⟨23, 20, .ro, 0⟩, ⟨19, 16, .rsv, 0⟩, ⟨15, 0, .ro, 0⟩]⟩ /- R390 -/,
  ⟨"DMA_PBASE_LO", 0x8, 1, 0x4, [⟨31, 6, .rwd, 0⟩, ⟨5, 0, .rsv, 0⟩]⟩ /- R390 -/,
  ⟨"DMA_PBASE_HI", 0xc, 1, 0x4, [⟨31, 16, .rsv, 0⟩, ⟨15, 0, .rwd, 0⟩]⟩ /- R390 -/,
  ⟨"DMA_PC", 0x10, 1, 0x4, [⟨31, 29, .rwd, 0⟩, ⟨28, 17, .rsv, 0⟩, ⟨16, 0, .rwd, 0⟩]⟩ /- R390 -/,
  ⟨"DMA_DONE", 0x14, 1, 0x4, [⟨31, 0, .rwd, 0⟩]⟩ /- R390 -/,
  ⟨"DMA_FAULT_LO", 0x18, 1, 0x4, [⟨31, 0, .ro, 0⟩]⟩ /- R390 -/,
  ⟨"DMA_FAULT_HI", 0x1c, 1, 0x4, [⟨31, 0, .ro, 0⟩]⟩ /- R390 -/,
  ⟨"DMA_LOOP_CNT", 0x20, 4, 0x8, [⟨31, 16, .rwd, 0⟩, ⟨15, 0, .rwd, 0⟩]⟩ /- R390 -/,
  ⟨"DMA_LOOP_PC", 0x24, 4, 0x8, [⟨31, 17, .rsv, 0⟩, ⟨16, 0, .rwd, 0⟩]⟩ /- R390 -/]

/-- Registers of layout rset. -/
def regsRset : List RegDef := [
  ⟨"REG_BASE_L", 0x0, 16, 0x10, [⟨31, 12, .rws, 0⟩, ⟨11, 0, .rsv, 0⟩]⟩ /- R396 -/,
  ⟨"REG_BASE_H", 0x4, 16, 0x10, [⟨31, 16, .rsv, 0⟩, ⟨15, 0, .rws, 0⟩]⟩ /- R396 -/,
  ⟨"REG_LIMIT_L", 0x8, 16, 0x10, [⟨31, 12, .rws, 0⟩, ⟨11, 0, .rsv, 0⟩]⟩ /- R396 -/,
  ⟨"REG_LIMIT_H", 0xc, 16, 0x10, [⟨31, 31, .rws, 0⟩, ⟨30, 30, .rws, 0⟩, ⟨29, 29, .rws, 0⟩, ⟨28, 28, .rws, 0⟩, ⟨27, 16, .rsv, 0⟩, ⟨15, 0, .rws, 0⟩]⟩ /- R396 -/,
  ⟨"REG_VIOL_LO", 0x100, 1, 0x4, [⟨31, 0, .ro, 0⟩]⟩ /- R399 -/,
  ⟨"REG_VIOL_HI", 0x104, 1, 0x4, [⟨31, 16, .rsv, 0⟩, ⟨15, 0, .ro, 0⟩]⟩ /- R399 -/,
  ⟨"REG_VIOL_INFO", 0x108, 1, 0x4, [⟨31, 31, .w1c, 0⟩, ⟨30, 28, .ro, 0⟩, ⟨27, 1, .rsv, 0⟩, ⟨0, 0, .w1c, 0⟩]⟩ /- R399 -/,
  ⟨"REG_VIOL_CNT", 0x10c, 1, 0x4, [⟨31, 0, .rw, 0⟩]⟩ /- R399 -/]

/-- Registers of layout ddr. -/
def regsDdr : List RegDef := [
  ⟨"DDR_CTL", 0x0, 1, 0x4, [⟨31, 31, .rw, 0⟩, ⟨30, 30, .cmd, 0⟩, ⟨29, 29, .rw, 1⟩, ⟨28, 0, .rsv, 0⟩]⟩ /- R414 -/,
  ⟨"DDR_CFG", 0x4, 1, 0x4, [⟨31, 28, .rwd, 0⟩, ⟨27, 26, .rwd, 0⟩, ⟨25, 25, .rwd, 0⟩, ⟨24, 24, .rwd, 0⟩, ⟨23, 23, .rwd, 0⟩, ⟨22, 22, .rwd, 1⟩, ⟨21, 21, .rwd, 1⟩, ⟨20, 20, .rwd, 0⟩, ⟨19, 16, .rwd, 0⟩, ⟨15, 4, .rsv, 0⟩, ⟨3, 0, .rwd, 0⟩]⟩ /- R414 -/,
  ⟨"DDR_STATUS", 0xc, 1, 0x4, [⟨31, 31, .ro, 0⟩, ⟨30, 30, .ro, 0⟩, ⟨29, 29, .ro, 0⟩, ⟨28, 28, .ro, 0⟩, ⟨27, 24, .ro, 0⟩, ⟨23, 1, .rsv, 0⟩, ⟨0, 0, .w1c, 0⟩]⟩ /- R414 -/,
  ⟨"DDR_RETRAIN_CFG", 0x10, 1, 0x4, [⟨31, 16, .rw, 600⟩, ⟨15, 8, .rw, 10⟩, ⟨7, 0, .rw, 40⟩]⟩ /- R414 -/,
  ⟨"DDR_SCRUB_CFG", 0x14, 1, 0x4, [⟨31, 24, .rsv, 0⟩, ⟨23, 0, .rw, 10000⟩]⟩ /- R414 -/,
  ⟨"DDR_ERR_ADDR_LO", 0x18, 1, 0x4, [⟨31, 0, .ro, 0⟩]⟩ /- R414 -/,
  ⟨"DDR_ERR_ADDR_HI", 0x1c, 1, 0x4, [⟨31, 0, .ro, 0⟩]⟩ /- R414 -/,
  ⟨"DDR_ERR_INFO", 0x20, 1, 0x4, [⟨31, 31, .ro, 0⟩, ⟨30, 28, .ro, 0⟩, ⟨27, 24, .ro, 0⟩, ⟨23, 18, .ro, 0⟩, ⟨17, 0, .rsv, 0⟩]⟩ /- R414 -/,
  ⟨"DDR_TRAIN_LAST", 0x24, 1, 0x4, [⟨31, 0, .ro, 0⟩]⟩ /- R414 -/,
  ⟨"DDR_CE_CNT", 0x40, 1, 0x4, [⟨31, 0, .rw, 0⟩]⟩ /- R415 -/,
  ⟨"DDR_UE_CNT", 0x44, 1, 0x4, [⟨31, 0, .rw, 0⟩]⟩ /- R415 -/,
  ⟨"DDR_CAPAR_CNT", 0x48, 1, 0x4, [⟨31, 0, .rw, 0⟩]⟩ /- R415 -/,
  ⟨"DDR_WCRC_CNT", 0x4c, 1, 0x4, [⟨31, 0, .rw, 0⟩]⟩ /- R415 -/,
  ⟨"DDR_BUSY_CNT", 0x50, 1, 0x4, [⟨31, 0, .rw, 0⟩]⟩ /- R415 -/,
  ⟨"DDR_RETRAIN_CNT", 0x54, 1, 0x4, [⟨31, 0, .rw, 0⟩]⟩ /- R415 -/,
  ⟨"DDR_FWD_CNT", 0x58, 1, 0x4, [⟨31, 0, .rw, 0⟩]⟩ /- R415 -/]

/-- Registers of layout ddr0. -/
def regsDdr0 : List RegDef := [
  ⟨"DDR_ILV", 0x8, 1, 0x4, [⟨31, 2, .rsv, 0⟩, ⟨1, 0, .rwd, 0⟩]⟩ /- R414 -/]

/-- Registers of layout inst. -/
def regsInst : List RegDef := [
  ⟨"INST_STATUS", 0x0, 1, 0x4, [⟨31, 29, .ro, 0⟩, ⟨28, 28, .ro, 0⟩, ⟨27, 27, .ro, 0⟩, ⟨26, 26, .ro, 0⟩, ⟨25, 24, .rsv, 0⟩, ⟨23, 16, .ro, 0⟩, ⟨15, 1, .rsv, 0⟩, ⟨0, 0, .w1c, 0⟩]⟩ /- R486 -/,
  ⟨"INST_CTL", 0x4, 1, 0x4, [⟨31, 31, .rw, 0⟩, ⟨30, 30, .cmd, 0⟩, ⟨29, 0, .rsv, 0⟩]⟩ /- R486 -/,
  ⟨"INST_READY_US", 0x8, 1, 0x4, [⟨31, 0, .ro, 0⟩]⟩ /- R486 -/,
  ⟨"INST_START_CNT", 0xc, 1, 0x4, [⟨31, 0, .ro, 0⟩]⟩ /- R486 -/,
  ⟨"INST_CAP", 0x10, 1, 0x4, [⟨31, 31, .ro, 0⟩, ⟨30, 24, .rsv, 0⟩, ⟨23, 16, .ro, 0⟩, ⟨15, 8, .ro, 0⟩, ⟨7, 0, .ro, 0⟩]⟩ /- R486 -/,
  ⟨"INST_SUB_REQ", 0x14, 1, 0x4, [⟨31, 31, .cmd, 0⟩, ⟨30, 30, .rw, 0⟩, ⟨29, 29, .rw, 0⟩, ⟨28, 25, .rw, 0⟩, ⟨24, 19, .rw, 0⟩, ⟨18, 16, .ro, 0⟩, ⟨15, 0, .rsv, 0⟩]⟩ /- R486 -/,
  ⟨"INST_IMG_BASE_LO", 0x18, 1, 0x4, [⟨31, 0, .rwl, 0⟩]⟩ /- R486 -/,
  ⟨"INST_IMG_BASE_HI", 0x1c, 1, 0x4, [⟨31, 0, .rwl, 0⟩]⟩ /- R486 -/,
  ⟨"INST_REC", 0x100, 64, 0x4, [⟨31, 0, .ro, 0⟩]⟩ /- R487 -/,
  ⟨"INST_NROW", 0x400, 32, 0x4, [⟨31, 31, .ro, 0⟩, ⟨30, 30, .rsv, 0⟩, ⟨29, 24, .ro, 0⟩, ⟨23, 18, .ro, 0⟩, ⟨17, 12, .ro, 0⟩, ⟨11, 6, .ro, 0⟩, ⟨5, 0, .rsv, 0⟩]⟩ /- R488 -/,
  ⟨"INST_TROW", 0x480, 8, 0x4, [⟨31, 31, .ro, 0⟩, ⟨30, 30, .rsv, 0⟩, ⟨29, 24, .ro, 0⟩, ⟨23, 18, .ro, 0⟩, ⟨17, 12, .ro, 0⟩, ⟨11, 6, .ro, 0⟩, ⟨5, 0, .rsv, 0⟩]⟩ /- R488 -/]

/-- Registers of layout brx. -/
def regsBrx : List RegDef := [
  ⟨"BRX_STATUS", 0x0, 1, 0x4, [⟨31, 29, .ro, 0⟩, ⟨28, 28, .cmd, 0⟩, ⟨27, 16, .ro, 0⟩, ⟨15, 0, .ro, 0⟩]⟩ /- R489 -/,
  ⟨"BRX_ERR_CNT", 0x4, 1, 0x4, [⟨31, 0, .rw, 0⟩]⟩ /- R489 -/,
  ⟨"BRX_MISS", 0x8, 1, 0x4, [⟨31, 13, .rsv, 0⟩, ⟨12, 0, .ro, 0⟩]⟩ /- R489 -/]

/-- Registers of layout flt. -/
def regsFlt : List RegDef := [
  ⟨"FLT_STATUS", 0x0, 1, 0x4, [⟨31, 31, .ro, 0⟩, ⟨30, 30, .ro, 0⟩, ⟨29, 2, .rsv, 0⟩, ⟨1, 1, .w1c, 0⟩, ⟨0, 0, .w1c, 0⟩]⟩ /- R537 -/,
  ⟨"FLT_REC_STATUS", 0x4, 1, 0x4, [⟨31, 31, .ro, 0⟩, ⟨30, 30, .cmd, 0⟩, ⟨29, 29, .rsv, 0⟩, ⟨28, 24, .ro, 0⟩, ⟨23, 23, .ro, 0⟩, ⟨22, 21, .rsv, 0⟩, ⟨20, 16, .ro, 0⟩, ⟨15, 0, .ro, 0⟩]⟩ /- R537 -/,
  ⟨"FLT_CTL", 0x8, 1, 0x4, [⟨31, 31, .cmd, 0⟩, ⟨30, 30, .rw, 0⟩, ⟨29, 11, .rsv, 0⟩, ⟨10, 8, .rw, 0⟩, ⟨7, 5, .rsv, 0⟩, ⟨4, 0, .rw, 0⟩]⟩ /- R537 -/,
  ⟨"FLT_REC_SOURCES", 0xc, 1, 0x4, [⟨31, 0, .ro, 0⟩]⟩ /- R537 -/,
  ⟨"FLT_REC_T_LO", 0x10, 1, 0x4, [⟨31, 0, .ro, 0⟩]⟩ /- R537 -/,
  ⟨"FLT_REC_T_HI", 0x14, 1, 0x4, [⟨31, 0, .ro, 0⟩]⟩ /- R537 -/,
  ⟨"FLT_REC_UNIT", 0x18, 1, 0x4, [⟨31, 28, .ro, 0⟩, ⟨27, 16, .rsv, 0⟩, ⟨15, 0, .ro, 0⟩]⟩ /- R537 -/,
  ⟨"FLT_REC_DETAIL", 0x1c, 1, 0x4, [⟨31, 0, .ro, 0⟩]⟩ /- R537 -/,
  ⟨"FLT_PREV", 0x20, 6, 0x4, [⟨31, 0, .ro, 0⟩]⟩ /- R537 -/,
  ⟨"FLT_WDOG", 0x40, 1, 0x4, [⟨31, 31, .rw, 0⟩, ⟨30, 16, .rsv, 0⟩, ⟨15, 0, .rw, 100⟩]⟩ /- R537 -/,
  ⟨"FLT_WDOG_KICK", 0x44, 1, 0x4, [⟨31, 8, .rsv, 0⟩, ⟨7, 0, .cmd, 0⟩]⟩ /- R537 -/,
  ⟨"FLT_SRC_CFG", 0x100, 26, 0x10, [⟨31, 13, .rsv, 0⟩, ⟨12, 8, .rw, 0⟩, ⟨7, 5, .rsv, 0⟩, ⟨4, 0, .rw, 0⟩]⟩ /- R538 -/,
  ⟨"FLT_SRC_WIN", 0x104, 26, 0x10, [⟨31, 16, .rw, 0⟩, ⟨15, 8, .rsv, 0⟩, ⟨7, 0, .rw, 0⟩]⟩ /- R538 -/,
  ⟨"FLT_SRC_STAT", 0x108, 26, 0x10, [⟨31, 31, .ro, 0⟩, ⟨30, 30, .w1c, 0⟩, ⟨29, 29, .ro, 0⟩, ⟨28, 24, .rsv, 0⟩, ⟨23, 16, .ro, 0⟩, ⟨15, 0, .ro, 0⟩]⟩ /- R538 -/,
  ⟨"FLT_SRC_CNT", 0x10c, 26, 0x10, [⟨31, 0, .rw, 0⟩]⟩ /- R538 -/]

/-- Registers of layout pwr. -/
def regsPwr : List RegDef := [
  ⟨"PWR_STATUS", 0x4, 1, 0x4, [⟨31, 31, .ro, 0⟩, ⟨30, 27, .ro, 0⟩, ⟨26, 26, .ro, 0⟩, ⟨25, 1, .rsv, 0⟩, ⟨0, 0, .w1c, 0⟩]⟩ /- R573 -/,
  ⟨"PWR_HALF_OP", 0x10, 2, 0x10, [⟨31, 29, .rws, 0⟩, ⟨28, 24, .rsv, 0⟩, ⟨23, 16, .rws, 40⟩, ⟨15, 0, .rsv, 0⟩]⟩ /- R572 -/,
  ⟨"PWR_HALF_STAT", 0x14, 2, 0x10, [⟨31, 31, .ro, 0⟩, ⟨30, 28, .ro, 0⟩, ⟨27, 24, .rsv, 0⟩, ⟨23, 16, .ro, 40⟩, ⟨15, 0, .rsv, 0⟩]⟩ /- R572 -/,
  ⟨"PWR_HALF_PWR", 0x18, 2, 0x10, [⟨31, 16, .rsv, 0⟩, ⟨15, 0, .ro, 0⟩]⟩ /- R572 -/,
  ⟨"PWR_HALF_TEMP", 0x1c, 2, 0x10, [⟨31, 8, .rsv, 0⟩, ⟨7, 0, .ro, 0⟩]⟩ /- R572 -/,
  ⟨"PWR_THERM", 0x30, 1, 0x4, [⟨31, 16, .rsv, 0⟩, ⟨15, 8, .rw, 100⟩, ⟨7, 0, .ro, 0⟩]⟩ /- R572 -/,
  ⟨"PWR_CAP_CNT", 0x40, 1, 0x4, [⟨31, 0, .rw, 0⟩]⟩ /- R573 -/,
  ⟨"PWR_BO_CNT", 0x44, 1, 0x4, [⟨31, 0, .rw, 0⟩]⟩ /- R573 -/,
  ⟨"PWR_ROOST_ABORT_CNT", 0x48, 1, 0x4, [⟨31, 0, .rw, 0⟩]⟩ /- R573 -/,
  ⟨"PWR_ISL_CTL", 0x100, 102, 0x8, [⟨31, 31, .islen, 1⟩, ⟨30, 30, .rwd, 0⟩, ⟨29, 29, .cmd, 0⟩, ⟨28, 16, .rsv, 0⟩, ⟨15, 0, .rw, 100⟩]⟩ /- R572 -/,
  ⟨"PWR_ISL_STAT", 0x104, 102, 0x8, [⟨31, 29, .ro, 0⟩, ⟨28, 25, .ro, 0⟩, ⟨24, 16, .rsv, 0⟩, ⟨15, 0, .ro, 0⟩]⟩ /- R572 -/]

/-- Registers of layout tru. -/
def regsTru : List RegDef := [
  ⟨"TRU_STATUS", 0x0, 1, 0x4, [⟨31, 31, .ro, 0⟩, ⟨30, 30, .ro, 0⟩, ⟨29, 28, .ro, 0⟩, ⟨27, 27, .ro, 0⟩, ⟨26, 26, .ro, 0⟩, ⟨25, 1, .rsv, 0⟩, ⟨0, 0, .w1c, 0⟩]⟩ /- R551 -/,
  ⟨"TRU_CTL", 0x4, 1, 0x4, [⟨31, 31, .rwl, 0⟩, ⟨30, 30, .cmd, 0⟩, ⟨29, 22, .rw, 0⟩, ⟨21, 21, .cmd, 0⟩, ⟨20, 18, .rw, 0⟩, ⟨17, 17, .rw, 0⟩, ⟨16, 16, .cmd, 0⟩, ⟨15, 15, .cmd, 0⟩, ⟨14, 0, .rsv, 0⟩]⟩ /- R551 -/,
  ⟨"TRU_SVN", 0x8, 1, 0x4, [⟨31, 0, .ro, 0⟩]⟩ /- R551 -/,
  ⟨"TRU_IMG_SVN", 0xc, 1, 0x4, [⟨31, 0, .ro, 0⟩]⟩ /- R551 -/,
  ⟨"TRU_DEVICE_ID", 0x10, 2, 0x4, [⟨31, 0, .ro, 0⟩]⟩ /- R551 -/,
  ⟨"TRU_SRV_PAGE", 0x18, 1, 0x4, [⟨31, 8, .rsv, 0⟩, ⟨7, 0, .rw, 0⟩]⟩ /- R551 -/,
  ⟨"TRU_RCV_LEN", 0x1c, 1, 0x4, [⟨31, 23, .rsv, 0⟩, ⟨22, 0, .rw, 0⟩]⟩ /- R551 -/,
  ⟨"TRU_ATT_PK", 0x20, 8, 0x4, [⟨31, 0, .ro, 0⟩]⟩ /- R551 -/,
  ⟨"TRU_EXT_DATA", 0x40, 8, 0x4, [⟨31, 0, .rw, 0⟩]⟩ /- R551 -/,
  ⟨"TRU_NONCE", 0x60, 8, 0x4, [⟨31, 0, .rw, 0⟩]⟩ /- R551 -/,
  ⟨"TRU_CHAL", 0x80, 8, 0x4, [⟨31, 0, .ro, 0⟩]⟩ /- R551 -/,
  ⟨"TRU_MEAS", 0x100, 64, 0x4, [⟨31, 0, .ro, 0⟩]⟩ /- R551 -/,
  ⟨"TRU_REPORT", 0x1000, 4368, 0x4, [⟨31, 0, .ro, 0⟩]⟩ /- R551 -/,
  ⟨"TRU_WIN", 0x8000, 8192, 0x4, [⟨31, 0, .rw, 0⟩]⟩ /- R551 -/]

end Sys2Proof.Machine
end

