-- ==== Sys2Proof/Machine/Regs.lean ====
section
/-! DEFINITION. Names for the places of the registers and of their fields in CSR space, as the manual's
register tables give them: Reg.X is the byte offset of register X, Reg.X_F the place of its field F. An index
of an array of registers is the last argument, counted modulo the length of the array. -/

namespace Sys2Proof.Machine

def Reg.AON_LIMITS : Nat := 0x40
def Reg.AON_LIMITS_DCLK_MAX : FieldRef := ⟨Reg.AON_LIMITS, 31, 24⟩
def Reg.AON_LIMITS_PWR_MAX : FieldRef := ⟨Reg.AON_LIMITS, 23, 12⟩
def Reg.AON_LIMITS_LOCK : FieldRef := ⟨Reg.AON_LIMITS, 0, 0⟩
def Reg.AON_STATUS : Nat := 0x44
def Reg.AON_STATUS_VOTE : FieldRef := ⟨Reg.AON_STATUS, 1, 1⟩
def Reg.AON_STATUS_CFG_IGNORED : FieldRef := ⟨Reg.AON_STATUS, 0, 0⟩
def Reg.AON_ACCESS : Nat := 0x50
def Reg.AON_ACCESS_LOCK : FieldRef := ⟨Reg.AON_ACCESS, 31, 31⟩
def Reg.AON_ACCESS_HOST_PRIV : FieldRef := ⟨Reg.AON_ACCESS, 30, 30⟩
def Reg.AON_PRIV_CNT : Nat := 0x54
def Reg.AON_VOTE_ADDR : Nat := 0x58
def Reg.AON_VOTE_ADDR_OFFSET : FieldRef := ⟨Reg.AON_VOTE_ADDR, 27, 0⟩
def Reg.AON_VOTE_CNT : Nat := 0x5c
def Reg.AON_TWIN_CTL : Nat := 0x100
def Reg.AON_TWIN_CTL_EN : FieldRef := ⟨Reg.AON_TWIN_CTL, 31, 31⟩
def Reg.AON_TWIN_CTL_SWAP : FieldRef := ⟨Reg.AON_TWIN_CTL, 30, 30⟩
def Reg.AON_TWIN_CTL_COUPLED : FieldRef := ⟨Reg.AON_TWIN_CTL, 29, 29⟩
def Reg.AON_TWIN_CTL_SHADOW : FieldRef := ⟨Reg.AON_TWIN_CTL, 28, 28⟩
def Reg.AON_TWIN_CFG : Nat := 0x104
def Reg.AON_TWIN_CFG_WB_HALF : FieldRef := ⟨Reg.AON_TWIN_CFG, 31, 24⟩
def Reg.AON_TWIN_CFG_MISS_NS : FieldRef := ⟨Reg.AON_TWIN_CFG, 23, 16⟩
def Reg.AON_TWIN_CFG_START_MS : FieldRef := ⟨Reg.AON_TWIN_CFG, 15, 8⟩
def Reg.AON_TWIN_CFG_LINK1 : FieldRef := ⟨Reg.AON_TWIN_CFG, 7, 4⟩
def Reg.AON_TWIN_CFG_LINK0 : FieldRef := ⟨Reg.AON_TWIN_CFG, 3, 0⟩
def Reg.AON_TWIN_STATUS : Nat := 0x108
def Reg.AON_TWIN_STATUS_ROLE : FieldRef := ⟨Reg.AON_TWIN_STATUS, 31, 31⟩
def Reg.AON_TWIN_STATUS_ARMED : FieldRef := ⟨Reg.AON_TWIN_STATUS, 30, 30⟩
def Reg.AON_TWIN_STATUS_PARTNER_UP : FieldRef := ⟨Reg.AON_TWIN_STATUS, 29, 29⟩
def Reg.AON_TWIN_STATUS_SPLIT : FieldRef := ⟨Reg.AON_TWIN_STATUS, 28, 28⟩
def Reg.AON_TWIN_STATUS_STRAP_ERR : FieldRef := ⟨Reg.AON_TWIN_STATUS, 27, 27⟩
def Reg.AON_TWIN_STATUS_VER_FAIL : FieldRef := ⟨Reg.AON_TWIN_STATUS, 26, 26⟩
def Reg.AON_TWIN_STATUS_SWAP_PEND : FieldRef := ⟨Reg.AON_TWIN_STATUS, 25, 25⟩
def Reg.AON_TWIN_STATUS_LAST_REASON : FieldRef := ⟨Reg.AON_TWIN_STATUS, 19, 16⟩
def Reg.AON_TWIN_STATUS_CFG_IGNORED : FieldRef := ⟨Reg.AON_TWIN_STATUS, 0, 0⟩
def Reg.AON_TWIN_SWAP_AT_LO : Nat := 0x110
def Reg.AON_TWIN_SWAP_AT_HI : Nat := 0x114
def Reg.AON_TWIN_LAST_LO : Nat := 0x118
def Reg.AON_TWIN_LAST_HI : Nat := 0x11c
def Reg.AON_TWIN_VER : Nat := 0x120
def Reg.AON_TWIN_VER_FW_GEN : FieldRef := ⟨Reg.AON_TWIN_VER, 31, 24⟩
def Reg.AON_TWIN_VER_PEER_GEN : FieldRef := ⟨Reg.AON_TWIN_VER, 23, 16⟩
def Reg.AON_TWIN_VER_PAIR_GEN : FieldRef := ⟨Reg.AON_TWIN_VER, 15, 8⟩
def Reg.AON_ID : Nat := 0x124
def Reg.AON_ID_ROLE_STRAP : FieldRef := ⟨Reg.AON_ID, 3, 3⟩
def Reg.AON_ID_DEVID : FieldRef := ⟨Reg.AON_ID, 2, 0⟩
def Reg.AON_TWIN_CMP : Nat := 0x128
def Reg.AON_TWIN_CMP_STEPS : FieldRef := ⟨Reg.AON_TWIN_CMP, 31, 16⟩
def Reg.AON_TWIN_TAKE_CNT : Nat := 0x130
def Reg.AON_TWIN_HELD_CNT : Nat := 0x134
def Reg.AON_TWIN_SHADOW_DROP_CNT : Nat := 0x138
def Reg.AON_TWIN_CMP_CNT : Nat := 0x13c
def Reg.AON_TWIN_CMP_MISS_CNT : Nat := 0x140
def Reg.JRX_PLL (j : Nat) : Nat := 0x7400000 + j % 8 * 0x4
def Reg.JRX_PLL_LOCKED (j : Nat) : FieldRef := ⟨Reg.JRX_PLL j, 31, 31⟩
def Reg.JRX_PLL_RATE (j : Nat) : FieldRef := ⟨Reg.JRX_PLL j, 15, 0⟩
def Reg.JRX_LANE_CFG (j : Nat) : Nat := 0x7400100 + j % 64 * 0x4
def Reg.JRX_LANE_CFG_EN (j : Nat) : FieldRef := ⟨Reg.JRX_LANE_CFG j, 31, 31⟩
def Reg.JRX_LANE_CFG_POL (j : Nat) : FieldRef := ⟨Reg.JRX_LANE_CFG j, 11, 11⟩
def Reg.JRX_LANE_CFG_PLL_SEL (j : Nat) : FieldRef := ⟨Reg.JRX_LANE_CFG j, 10, 10⟩
def Reg.JRX_LANE_CFG_LID (j : Nat) : FieldRef := ⟨Reg.JRX_LANE_CFG j, 9, 7⟩
def Reg.JRX_LANE_CFG_STREAM (j : Nat) : FieldRef := ⟨Reg.JRX_LANE_CFG j, 4, 0⟩
def Reg.JRX_LANE_STAT (j : Nat) : Nat := 0x7400200 + j % 64 * 0x4
def Reg.JRX_LANE_STAT_BLOCK_LOCK (j : Nat) : FieldRef := ⟨Reg.JRX_LANE_STAT j, 31, 31⟩
def Reg.JRX_LANE_STAT_EMB_LOCK (j : Nat) : FieldRef := ⟨Reg.JRX_LANE_STAT j, 30, 30⟩
def Reg.JRX_LANE_STAT_ARRIVAL (j : Nat) : FieldRef := ⟨Reg.JRX_LANE_STAT j, 23, 16⟩
def Reg.JRX_LANE_STAT_SH_ERR_CNT (j : Nat) : FieldRef := ⟨Reg.JRX_LANE_STAT j, 15, 0⟩
def Reg.JRX_SYSREF : Nat := 0x7400300
def Reg.JRX_SYSREF_MISALIGN_CNT : FieldRef := ⟨Reg.JRX_SYSREF, 31, 16⟩
def Reg.JRX_SYSREF_SEEN : FieldRef := ⟨Reg.JRX_SYSREF, 2, 2⟩
def Reg.JRX_SYSREF_MODE : FieldRef := ⟨Reg.JRX_SYSREF, 1, 0⟩
def Reg.JRX_STATUS : Nat := 0x7400304
def Reg.JRX_STATUS_CFG_IGNORED : FieldRef := ⟨Reg.JRX_STATUS, 0, 0⟩
def Reg.ING_CTL (s : Nat) : Nat := ingBase s
def Reg.ING_CTL_EN (s : Nat) : FieldRef := ⟨Reg.ING_CTL s, 31, 31⟩
def Reg.ING_CTL_EVLOG (s : Nat) : FieldRef := ⟨Reg.ING_CTL s, 9, 9⟩
def Reg.ING_CTL_TAP_EN (s : Nat) : FieldRef := ⟨Reg.ING_CTL s, 8, 8⟩
def Reg.ING_CTL_FEC_WAIT (s : Nat) : FieldRef := ⟨Reg.ING_CTL s, 7, 7⟩
def Reg.ING_CTL_SHMODE (s : Nat) : FieldRef := ⟨Reg.ING_CTL s, 6, 6⟩
def Reg.ING_CTL_SUBCLASS (s : Nat) : FieldRef := ⟨Reg.ING_CTL s, 5, 5⟩
def Reg.ING_CTL_RETURN (s : Nat) : FieldRef := ⟨Reg.ING_CTL s, 4, 4⟩
def Reg.ING_LINK (s : Nat) : Nat := ingBase s + 0x4
def Reg.ING_LINK_EM1 (s : Nat) : FieldRef := ⟨Reg.ING_LINK s, 22, 18⟩
def Reg.ING_LINK_CS (s : Nat) : FieldRef := ⟨Reg.ING_LINK s, 17, 16⟩
def Reg.ING_LINK_NM1 (s : Nat) : FieldRef := ⟨Reg.ING_LINK s, 15, 12⟩
def Reg.ING_LINK_SM1 (s : Nat) : FieldRef := ⟨Reg.ING_LINK s, 11, 8⟩
def Reg.ING_LINK_MM1 (s : Nat) : FieldRef := ⟨Reg.ING_LINK s, 6, 4⟩
def Reg.ING_LINK_LM1 (s : Nat) : FieldRef := ⟨Reg.ING_LINK s, 2, 0⟩
def Reg.ING_SRC (s : Nat) : Nat := ingBase s + 0x8
def Reg.ING_SRC_CONV_Q (s : Nat) : FieldRef := ⟨Reg.ING_SRC s, 6, 4⟩
def Reg.ING_SRC_CONV_I (s : Nat) : FieldRef := ⟨Reg.ING_SRC s, 3, 1⟩
def Reg.ING_SRC_IQ (s : Nat) : FieldRef := ⟨Reg.ING_SRC s, 0, 0⟩
def Reg.ING_RELEASE (s : Nat) : Nat := ingBase s + 0xc
def Reg.ING_RELEASE_OFS (s : Nat) : FieldRef := ⟨Reg.ING_RELEASE s, 11, 0⟩
def Reg.ING_TS_OFS (s : Nat) : Nat := ingBase s + 0x10
def Reg.ING_DEC (s : Nat) : Nat := ingBase s + 0x14
def Reg.ING_DEC_SHIFT (s : Nat) : FieldRef := ⟨Reg.ING_DEC s, 12, 8⟩
def Reg.ING_DEC_ORDER1 (s : Nat) : FieldRef := ⟨Reg.ING_DEC s, 7, 6⟩
def Reg.ING_DEC_D1 (s : Nat) : FieldRef := ⟨Reg.ING_DEC s, 5, 0⟩
def Reg.ING_CHAN (s : Nat) : Nat := ingBase s + 0x18
def Reg.ING_CHAN_BANK (s : Nat) : FieldRef := ⟨Reg.ING_CHAN s, 12, 12⟩
def Reg.ING_CHAN_FFT_SHIFT (s : Nat) : FieldRef := ⟨Reg.ING_CHAN s, 11, 8⟩
def Reg.ING_CHAN_P1 (s : Nat) : FieldRef := ⟨Reg.ING_CHAN s, 7, 4⟩
def Reg.ING_CHAN_LOG2K3 (s : Nat) : FieldRef := ⟨Reg.ING_CHAN s, 3, 1⟩
def Reg.ING_CHAN_CH_EN (s : Nat) : FieldRef := ⟨Reg.ING_CHAN s, 0, 0⟩
def Reg.ING_BUDGET (s : Nat) : Nat := ingBase s + 0x20
def Reg.ING_BUDGET_CELLS (s : Nat) : FieldRef := ⟨Reg.ING_BUDGET s, 15, 0⟩
def Reg.ING_TAP (s : Nat) : Nat := ingBase s + 0x24
def Reg.ING_TAP_TAP_SRC (s : Nat) : FieldRef := ⟨Reg.ING_TAP s, 0, 0⟩
def Reg.ING_RING_BASE_LO (s : Nat) : Nat := ingBase s + 0x28
def Reg.ING_RING_BASE_HI (s : Nat) : Nat := ingBase s + 0x2c
def Reg.ING_RING_SIZE (s : Nat) : Nat := ingBase s + 0x30
def Reg.ING_RING_SIZE_MIB (s : Nat) : FieldRef := ⟨Reg.ING_RING_SIZE s, 21, 0⟩
def Reg.ING_RING_WP_LO (s : Nat) : Nat := ingBase s + 0x34
def Reg.ING_RING_WP_HI (s : Nat) : Nat := ingBase s + 0x38
def Reg.ING_STATUS (s : Nat) : Nat := ingBase s + 0x40
def Reg.ING_STATUS_ALIGNED (s : Nat) : FieldRef := ⟨Reg.ING_STATUS s, 31, 31⟩
def Reg.ING_STATUS_ABSENT (s : Nat) : FieldRef := ⟨Reg.ING_STATUS s, 30, 30⟩
def Reg.ING_STATUS_TS_DET (s : Nat) : FieldRef := ⟨Reg.ING_STATUS s, 29, 29⟩
def Reg.ING_STATUS_FAST (s : Nat) : FieldRef := ⟨Reg.ING_STATUS s, 28, 28⟩
def Reg.ING_STATUS_CFG_ERR (s : Nat) : FieldRef := ⟨Reg.ING_STATUS s, 27, 24⟩
def Reg.ING_STATUS_CFG_IGNORED (s : Nat) : FieldRef := ⟨Reg.ING_STATUS s, 0, 0⟩
def Reg.ING_LATENCY (s : Nat) : Nat := ingBase s + 0x44
def Reg.ING_LATENCY_LANE_NS (s : Nat) : FieldRef := ⟨Reg.ING_LATENCY s, 27, 16⟩
def Reg.ING_LATENCY_ENC_NS (s : Nat) : FieldRef := ⟨Reg.ING_LATENCY s, 11, 0⟩
def Reg.ING_EVT_CNT (s : Nat) : Nat := ingBase s + 0x50
def Reg.ING_CLIP_CNT (s : Nat) : Nat := ingBase s + 0x54
def Reg.ING_SAT_CNT (s : Nat) : Nat := ingBase s + 0x58
def Reg.ING_DEFER_CNT (s : Nat) : Nat := ingBase s + 0x5c
def Reg.ING_CRC_CNT (s : Nat) : Nat := ingBase s + 0x60
def Reg.ING_FEC_CNT (s : Nat) : Nat := ingBase s + 0x64
def Reg.ING_FEC_UNC_CNT (s : Nat) : Nat := ingBase s + 0x68
def Reg.ING_ABSENT_CNT (s : Nat) : Nat := ingBase s + 0x6c
def Reg.ING_GAP_CNT (s : Nat) : Nat := ingBase s + 0x70
def Reg.ING_WRAP_CNT (s : Nat) : Nat := ingBase s + 0x74
def Reg.ING_HOLD_CNT (s : Nat) : Nat := ingBase s + 0x78
def Reg.ING_COEF0 (s j : Nat) : Nat := ingBase s + 0x4000 + j % 2048 * 0x4
def Reg.ING_COEF1 (s j : Nat) : Nat := ingBase s + 0x6000 + j % 2048 * 0x4
def Reg.ING_CH_W0 (s j : Nat) : Nat := ingBase s + 0x8000 + j % 256 * 0x8
def Reg.ING_CH_W0_H (s j : Nat) : FieldRef := ⟨Reg.ING_CH_W0 s j, 31, 16⟩
def Reg.ING_CH_W0_Q (s j : Nat) : FieldRef := ⟨Reg.ING_CH_W0 s j, 15, 0⟩
def Reg.ING_CH_W1 (s j : Nat) : Nat := ingBase s + 0x8004 + j % 256 * 0x8
def Reg.ING_CH_W1_UP_EN (s j : Nat) : FieldRef := ⟨Reg.ING_CH_W1 s j, 31, 31⟩
def Reg.ING_CH_W1_DN_EN (s j : Nat) : FieldRef := ⟨Reg.ING_CH_W1 s j, 30, 30⟩
def Reg.ING_CH_W1_INSEL (s j : Nat) : FieldRef := ⟨Reg.ING_CH_W1 s j, 29, 28⟩
def Reg.ING_CH_W1_ENV_SHIFT (s j : Nat) : FieldRef := ⟨Reg.ING_CH_W1 s j, 27, 24⟩
def Reg.ING_CH_W1_MINGAP (s j : Nat) : FieldRef := ⟨Reg.ING_CH_W1 s j, 23, 16⟩
def Reg.ING_CH_W1_INIT (s j : Nat) : FieldRef := ⟨Reg.ING_CH_W1 s j, 15, 0⟩
def Reg.ING_DST_W0 (s j : Nat) : Nat := ingBase s + 0x9000 + j % 16 * 0x8
def Reg.ING_DST_W0_AXON_BASE (s j : Nat) : FieldRef := ⟨Reg.ING_DST_W0 s j, 31, 16⟩
def Reg.ING_DST_W0_VALID (s j : Nat) : FieldRef := ⟨Reg.ING_DST_W0 s j, 15, 15⟩
def Reg.ING_DST_W0_CORE (s j : Nat) : FieldRef := ⟨Reg.ING_DST_W0 s j, 9, 0⟩
def Reg.ING_DST_W1 (s j : Nat) : Nat := ingBase s + 0x9004 + j % 16 * 0x8
def Reg.ING_DST_W1_PAIR (s j : Nat) : FieldRef := ⟨Reg.ING_DST_W1 s j, 16, 16⟩
def Reg.ING_DST_W1_CH_LAST (s j : Nat) : FieldRef := ⟨Reg.ING_DST_W1 s j, 15, 8⟩
def Reg.ING_DST_W1_CH_FIRST (s j : Nat) : FieldRef := ⟨Reg.ING_DST_W1 s j, 7, 0⟩
def Reg.ING_WAKE_CFG (s : Nat) : Nat := ingBase s + 0xa000
def Reg.ING_WAKE_CFG_EN (s : Nat) : FieldRef := ⟨Reg.ING_WAKE_CFG s, 31, 31⟩
def Reg.ING_WAKE_CFG_HOLDOFF (s : Nat) : FieldRef := ⟨Reg.ING_WAKE_CFG s, 15, 0⟩
def Reg.ING_WAKE_Q (s : Nat) : Nat := ingBase s + 0xa004
def Reg.ING_WAKE_Q_OWNER (s : Nat) : FieldRef := ⟨Reg.ING_WAKE_Q s, 12, 4⟩
def Reg.ING_WAKE_Q_QUEUE (s : Nat) : FieldRef := ⟨Reg.ING_WAKE_Q s, 3, 0⟩
def Reg.ING_WIN (s : Nat) : Nat := ingBase s + 0xa008
def Reg.ING_WIN_PRE (s : Nat) : FieldRef := ⟨Reg.ING_WIN s, 31, 16⟩
def Reg.ING_WIN_POST (s : Nat) : FieldRef := ⟨Reg.ING_WIN s, 15, 0⟩
def Reg.ING_WIN_OBJ (s : Nat) : Nat := ingBase s + 0xa00c
def Reg.ING_WIN_OBJ_LEAD_NS (s : Nat) : FieldRef := ⟨Reg.ING_WIN_OBJ s, 31, 20⟩
def Reg.ING_WIN_OBJ_OBJ (s : Nat) : FieldRef := ⟨Reg.ING_WIN_OBJ s, 15, 0⟩
def Reg.ING_BR_CTL (s : Nat) : Nat := ingBase s + 0xa010
def Reg.ING_BR_CTL_EN (s : Nat) : FieldRef := ⟨Reg.ING_BR_CTL s, 31, 31⟩
def Reg.ING_BR_CTL_FM1 (s : Nat) : FieldRef := ⟨Reg.ING_BR_CTL s, 22, 16⟩
def Reg.ING_BR_CTL_BIN_STEPS (s : Nat) : FieldRef := ⟨Reg.ING_BR_CTL s, 15, 0⟩
def Reg.ING_BR_BASE_LO (s : Nat) : Nat := ingBase s + 0xa014
def Reg.ING_BR_BASE_HI (s : Nat) : Nat := ingBase s + 0xa018
def Reg.ING_BR_DEPTH (s : Nat) : Nat := ingBase s + 0xa01c
def Reg.ING_BR_DEPTH_FRAMES (s : Nat) : FieldRef := ⟨Reg.ING_BR_DEPTH s, 15, 0⟩
def Reg.ING_BR_FRAME (s : Nat) : Nat := ingBase s + 0xa020
def Reg.ING_CTX_CTL (s : Nat) : Nat := ingBase s + 0xa024
def Reg.ING_CTX_CTL_EN (s : Nat) : FieldRef := ⟨Reg.ING_CTX_CTL s, 31, 31⟩
def Reg.ING_CTX_CTL_BUDGET (s : Nat) : FieldRef := ⟨Reg.ING_CTX_CTL s, 7, 0⟩
def Reg.ING_CTX_PUSH_LO (s : Nat) : Nat := ingBase s + 0xa028
def Reg.ING_CTX_PUSH_HI (s : Nat) : Nat := ingBase s + 0xa02c
def Reg.ING_CTX_PUSH_HI_CORE (s : Nat) : FieldRef := ⟨Reg.ING_CTX_PUSH_HI s, 9, 0⟩
def Reg.ING_CTX_STATUS (s : Nat) : Nat := ingBase s + 0xa030
def Reg.ING_CTX_STATUS_FULL (s : Nat) : FieldRef := ⟨Reg.ING_CTX_STATUS s, 31, 31⟩
def Reg.ING_CTX_STATUS_OCC (s : Nat) : FieldRef := ⟨Reg.ING_CTX_STATUS s, 8, 0⟩
def Reg.ING_KV_CFG (s j : Nat) : Nat := ingBase s + 0xa040 + j % 2 * 0x20
def Reg.ING_KV_CFG_EN (s j : Nat) : FieldRef := ⟨Reg.ING_KV_CFG s j, 31, 31⟩
def Reg.ING_KV_CFG_MODE (s j : Nat) : FieldRef := ⟨Reg.ING_KV_CFG s j, 30, 30⟩
def Reg.ING_KV_CFG_VFIRST (s j : Nat) : FieldRef := ⟨Reg.ING_KV_CFG s j, 29, 24⟩
def Reg.ING_KV_CFG_VLAST (s j : Nat) : FieldRef := ⟨Reg.ING_KV_CFG s j, 21, 16⟩
def Reg.ING_KV_CFG_CAP (s j : Nat) : FieldRef := ⟨Reg.ING_KV_CFG s j, 15, 0⟩
def Reg.ING_KV_STRIDE (s j : Nat) : Nat := ingBase s + 0xa044 + j % 2 * 0x20
def Reg.ING_KV_STRIDE_SPEC_MAX (s j : Nat) : FieldRef := ⟨Reg.ING_KV_STRIDE s j, 31, 24⟩
def Reg.ING_KV_STRIDE_STRIDE (s j : Nat) : FieldRef := ⟨Reg.ING_KV_STRIDE s j, 23, 0⟩
def Reg.ING_KV_BASE_LO (s j : Nat) : Nat := ingBase s + 0xa048 + j % 2 * 0x20
def Reg.ING_KV_BASE_HI (s j : Nat) : Nat := ingBase s + 0xa04c + j % 2 * 0x20
def Reg.ING_KV_CMD (s j : Nat) : Nat := ingBase s + 0xa050 + j % 2 * 0x20
def Reg.ING_KV_CMD_OP (s j : Nat) : FieldRef := ⟨Reg.ING_KV_CMD s j, 31, 28⟩
def Reg.ING_KV_CMD_N (s j : Nat) : FieldRef := ⟨Reg.ING_KV_CMD s j, 7, 0⟩
def Reg.ING_KV_PTR (s j : Nat) : Nat := ingBase s + 0xa054 + j % 2 * 0x20
def Reg.ING_KV_STAT (s j : Nat) : Nat := ingBase s + 0xa058 + j % 2 * 0x20
def Reg.ING_KV_STAT_SPEC (s j : Nat) : FieldRef := ⟨Reg.ING_KV_STAT s j, 31, 24⟩
def Reg.ING_KV_STAT_FULL (s j : Nat) : FieldRef := ⟨Reg.ING_KV_STAT s j, 23, 23⟩
def Reg.ING_KV_STAT_REFUSED (s j : Nat) : FieldRef := ⟨Reg.ING_KV_STAT s j, 22, 22⟩
def Reg.ING_KV_STAT_LIVE (s j : Nat) : FieldRef := ⟨Reg.ING_KV_STAT s j, 15, 0⟩
def Reg.ING_KV_OLDEST (s j : Nat) : Nat := ingBase s + 0xa05c + j % 2 * 0x20
def Reg.ING_CTX_DEST (s j : Nat) : Nat := ingBase s + 0xa080 + j % 16 * 0x4
def Reg.ING_CTX_DEST_VALID (s j : Nat) : FieldRef := ⟨Reg.ING_CTX_DEST s j, 31, 31⟩
def Reg.ING_CTX_DEST_CORE (s j : Nat) : FieldRef := ⟨Reg.ING_CTX_DEST s j, 9, 0⟩
def Reg.ING_WAKE_E0 (s j : Nat) : Nat := ingBase s + 0xa100 + j % 32 * 0x8
def Reg.ING_WAKE_E0_VALID (s j : Nat) : FieldRef := ⟨Reg.ING_WAKE_E0 s j, 31, 31⟩
def Reg.ING_WAKE_E0_WAKE (s j : Nat) : FieldRef := ⟨Reg.ING_WAKE_E0 s j, 30, 30⟩
def Reg.ING_WAKE_E0_CLASS (s j : Nat) : FieldRef := ⟨Reg.ING_WAKE_E0 s j, 23, 16⟩
def Reg.ING_WAKE_E0_CORE (s j : Nat) : FieldRef := ⟨Reg.ING_WAKE_E0 s j, 9, 0⟩
def Reg.ING_WAKE_E1 (s j : Nat) : Nat := ingBase s + 0xa104 + j % 32 * 0x8
def Reg.ING_WAKE_E1_J_LAST (s j : Nat) : FieldRef := ⟨Reg.ING_WAKE_E1 s j, 29, 16⟩
def Reg.ING_WAKE_E1_J_FIRST (s j : Nat) : FieldRef := ⟨Reg.ING_WAKE_E1 s j, 13, 0⟩
def Reg.ING_BR_E0 (s j : Nat) : Nat := ingBase s + 0xa200 + j % 64 * 0x8
def Reg.ING_BR_E0_VALID (s j : Nat) : FieldRef := ⟨Reg.ING_BR_E0 s j, 31, 31⟩
def Reg.ING_BR_E0_MODE (s j : Nat) : FieldRef := ⟨Reg.ING_BR_E0 s j, 29, 28⟩
def Reg.ING_BR_E0_FEAT_BASE (s j : Nat) : FieldRef := ⟨Reg.ING_BR_E0 s j, 27, 16⟩
def Reg.ING_BR_E0_CORE (s j : Nat) : FieldRef := ⟨Reg.ING_BR_E0 s j, 9, 0⟩
def Reg.ING_BR_E1 (s j : Nat) : Nat := ingBase s + 0xa204 + j % 64 * 0x8
def Reg.ING_BR_E1_J_LAST (s j : Nat) : FieldRef := ⟨Reg.ING_BR_E1 s j, 29, 16⟩
def Reg.ING_BR_E1_J_FIRST (s j : Nat) : FieldRef := ⟨Reg.ING_BR_E1 s j, 13, 0⟩
def Reg.ING_WAKE_CNT (s : Nat) : Nat := ingBase s + 0xa400
def Reg.ING_WAKE_MERGE_CNT (s : Nat) : Nat := ingBase s + 0xa404
def Reg.ING_WAKE_NACK_CNT (s : Nat) : Nat := ingBase s + 0xa408
def Reg.ING_WIN_MISS_CNT (s : Nat) : Nat := ingBase s + 0xa40c
def Reg.ING_CQ_DROP_CNT (s : Nat) : Nat := ingBase s + 0xa410
def Reg.ING_RQ_OVF_CNT (s : Nat) : Nat := ingBase s + 0xa414
def Reg.ING_BR_DROP_CNT (s : Nat) : Nat := ingBase s + 0xa418
def Reg.ING_BR_LATE_CNT (s : Nat) : Nat := ingBase s + 0xa41c
def Reg.ING_CTX_DEFER_CNT (s : Nat) : Nat := ingBase s + 0xa420
def Reg.ING_CTX_FULL_CNT (s : Nat) : Nat := ingBase s + 0xa424
def Reg.ING_CTX_REJ_CNT (s : Nat) : Nat := ingBase s + 0xa428
def Reg.ING_KV_REFUSE_CNT (s j : Nat) : Nat := ingBase s + 0xa42c + j % 2 * 0x4
def Reg.ING_KV_GUARD_CNT (s : Nat) : Nat := ingBase s + 0xa434
def Reg.CHR_CMD : Nat := 0x20000
def Reg.CHR_CMD_OP : FieldRef := ⟨Reg.CHR_CMD, 31, 28⟩
def Reg.CHR_STATUS : Nat := 0x20004
def Reg.CHR_STATUS_STATE : FieldRef := ⟨Reg.CHR_STATUS, 31, 28⟩
def Reg.CHR_STATUS_OWNER : FieldRef := ⟨Reg.CHR_STATUS, 27, 24⟩
def Reg.CHR_STATUS_CFG_IGNORED : FieldRef := ⟨Reg.CHR_STATUS, 0, 0⟩
def Reg.CHR_NENT : Nat := 0x20008
def Reg.CHR_NENT_COUNT : FieldRef := ⟨Reg.CHR_NENT, 12, 0⟩
def Reg.CHR_WHEN : Nat := 0x2000c
def Reg.CHR_WHEN_MODE : FieldRef := ⟨Reg.CHR_WHEN, 31, 31⟩
def Reg.CHR_AT_LO : Nat := 0x20010
def Reg.CHR_AT_HI : Nat := 0x20014
def Reg.CHR_FAIL : Nat := 0x20018
def Reg.CHR_FAIL_CODE : FieldRef := ⟨Reg.CHR_FAIL, 31, 24⟩
def Reg.CHR_FAIL_INFO : FieldRef := ⟨Reg.CHR_FAIL, 23, 16⟩
def Reg.CHR_FAIL_ENTRY : FieldRef := ⟨Reg.CHR_FAIL, 11, 0⟩
def Reg.CHR_LEAD : Nat := 0x2001c
def Reg.CHR_DONE_T_LO : Nat := 0x20020
def Reg.CHR_DONE_T_HI : Nat := 0x20024
def Reg.CHR_DONE_STEP : Nat := 0x20028
def Reg.CHR_STALE_ADDR : Nat := 0x2002c
def Reg.CHR_COMMIT_CNT : Nat := 0x20030
def Reg.CHR_FAIL_CNT : Nat := 0x20034
def Reg.CHR_ENT_ADDR (j : Nat) : Nat := 0x24000 + j % 4096 * 0xc
def Reg.CHR_ENT_VALUE (j : Nat) : Nat := 0x24004 + j % 4096 * 0xc
def Reg.CHR_ENT_MASK (j : Nat) : Nat := 0x24008 + j % 4096 * 0xc
def Reg.SET_CMD : Nat := 0x30000
def Reg.SET_CMD_OP : FieldRef := ⟨Reg.SET_CMD, 31, 28⟩
def Reg.SET_CMD_SECTOR : FieldRef := ⟨Reg.SET_CMD, 9, 0⟩
def Reg.SET_STATUS : Nat := 0x30004
def Reg.SET_STATUS_BUSY : FieldRef := ⟨Reg.SET_STATUS, 31, 31⟩
def Reg.SET_STATUS_THROTTLE : FieldRef := ⟨Reg.SET_STATUS, 30, 30⟩
def Reg.SET_STATUS_MFG_LOCK : FieldRef := ⟨Reg.SET_STATUS, 29, 29⟩
def Reg.SET_STATUS_ERR : FieldRef := ⟨Reg.SET_STATUS, 23, 20⟩
def Reg.SET_STATUS_SECTOR : FieldRef := ⟨Reg.SET_STATUS, 19, 10⟩
def Reg.SET_STATUS_CFG_IGNORED : FieldRef := ⟨Reg.SET_STATUS, 0, 0⟩
def Reg.SET_STORE_CNT : Nat := 0x30008
def Reg.SET_UE_CNT : Nat := 0x3000c
def Reg.SET_XSPI_CMD : Nat := 0x30010
def Reg.SET_XSPI_CMD_INSTR : FieldRef := ⟨Reg.SET_XSPI_CMD, 31, 24⟩
def Reg.SET_XSPI_CMD_DUMMY : FieldRef := ⟨Reg.SET_XSPI_CMD, 23, 20⟩
def Reg.SET_XSPI_CMD_ADDR_EN : FieldRef := ⟨Reg.SET_XSPI_CMD, 19, 19⟩
def Reg.SET_XSPI_CMD_DIR : FieldRef := ⟨Reg.SET_XSPI_CMD, 18, 18⟩
def Reg.SET_XSPI_CMD_LEN : FieldRef := ⟨Reg.SET_XSPI_CMD, 12, 0⟩
def Reg.SET_XSPI_ADDR : Nat := 0x30014
def Reg.SET_BUF (j : Nat) : Nat := 0x31000 + j % 1024 * 0x4
def Reg.NC_CTL (n : Nat) : Nat := ncBase n
def Reg.NC_CTL_EN (n : Nat) : FieldRef := ⟨Reg.NC_CTL n, 31, 31⟩
def Reg.NC_CTL_AXON_LIMIT (n : Nat) : FieldRef := ⟨Reg.NC_CTL n, 16, 0⟩
def Reg.NC_STATUS (n : Nat) : Nat := ncBase n + 0x4
def Reg.NC_STATUS_INIT (n : Nat) : FieldRef := ⟨Reg.NC_STATUS n, 31, 31⟩
def Reg.NC_STATUS_IDLE (n : Nat) : FieldRef := ⟨Reg.NC_STATUS n, 30, 30⟩
def Reg.NC_STATUS_UE (n : Nat) : FieldRef := ⟨Reg.NC_STATUS n, 1, 1⟩
def Reg.NC_STATUS_CFG_IGNORED (n : Nat) : FieldRef := ⟨Reg.NC_STATUS n, 0, 0⟩
def Reg.NC_LAST (n : Nat) : Nat := ncBase n + 0x8
def Reg.NC_LAST_FIRED (n : Nat) : FieldRef := ⟨Reg.NC_LAST n, 31, 16⟩
def Reg.NC_LAST_DIRTY (n : Nat) : FieldRef := ⟨Reg.NC_LAST n, 15, 0⟩
def Reg.NC_SWEEP (n : Nat) : Nat := ncBase n + 0xc
def Reg.NC_SWEEP_PTR (n : Nat) : FieldRef := ⟨Reg.NC_SWEEP n, 13, 0⟩
def Reg.NC_STEP (n : Nat) : Nat := ncBase n + 0x10
def Reg.NC_BIAS_A (n j : Nat) : Nat := ncBase n + 0x20 + j % 4 * 0x8
def Reg.NC_BIAS_A_EN (n j : Nat) : FieldRef := ⟨Reg.NC_BIAS_A n j, 31, 31⟩
def Reg.NC_BIAS_A_VALUE (n j : Nat) : FieldRef := ⟨Reg.NC_BIAS_A n j, 23, 16⟩
def Reg.NC_BIAS_A_AXON (n j : Nat) : FieldRef := ⟨Reg.NC_BIAS_A n j, 15, 0⟩
def Reg.NC_BIAS_B (n j : Nat) : Nat := ncBase n + 0x24 + j % 4 * 0x8
def Reg.NC_BIAS_B_PERIOD (n j : Nat) : FieldRef := ⟨Reg.NC_BIAS_B n j, 31, 16⟩
def Reg.NC_BIAS_B_PHASE (n j : Nat) : FieldRef := ⟨Reg.NC_BIAS_B n j, 15, 0⟩
def Reg.NC_EVT_CNT (n : Nat) : Nat := ncBase n + 0x50
def Reg.NC_SOP_CNT (n : Nat) : Nat := ncBase n + 0x54
def Reg.NC_FIRE_CNT (n : Nat) : Nat := ncBase n + 0x58
def Reg.NC_CLIP_CNT (n : Nat) : Nat := ncBase n + 0x5c
def Reg.NC_VSAT_CNT (n : Nat) : Nat := ncBase n + 0x60
def Reg.NC_EVERR_CNT (n : Nat) : Nat := ncBase n + 0x64
def Reg.NC_ROW_ERR_CNT (n : Nat) : Nat := ncBase n + 0x68
def Reg.NC_CARRY_CNT (n : Nat) : Nat := ncBase n + 0x6c
def Reg.NC_BUDGET (n : Nat) : Nat := ncBase n + 0x100
def Reg.NC_BUDGET_E (n : Nat) : FieldRef := ⟨Reg.NC_BUDGET n, 31, 24⟩
def Reg.NC_BUDGET_W (n : Nat) : FieldRef := ⟨Reg.NC_BUDGET n, 23, 16⟩
def Reg.NC_BUDGET_N (n : Nat) : FieldRef := ⟨Reg.NC_BUDGET n, 15, 8⟩
def Reg.NC_BUDGET_S (n : Nat) : FieldRef := ⟨Reg.NC_BUDGET n, 7, 0⟩
def Reg.NC_BUDGET_L (n : Nat) : Nat := ncBase n + 0x104
def Reg.NC_BUDGET_L_L (n : Nat) : FieldRef := ⟨Reg.NC_BUDGET_L n, 7, 0⟩
def Reg.NC_CLAIM (n : Nat) : Nat := ncBase n + 0x108
def Reg.NC_CLAIM_WHEEL (n : Nat) : FieldRef := ⟨Reg.NC_CLAIM n, 27, 16⟩
def Reg.NC_CLAIM_WORK (n : Nat) : FieldRef := ⟨Reg.NC_CLAIM n, 15, 0⟩
def Reg.NC_EMIT_STATUS (n : Nat) : Nat := ncBase n + 0x10c
def Reg.NC_EMIT_STATUS_HELD (n : Nat) : FieldRef := ⟨Reg.NC_EMIT_STATUS n, 31, 31⟩
def Reg.NC_EMIT_STATUS_DEFQ (n : Nat) : FieldRef := ⟨Reg.NC_EMIT_STATUS n, 26, 16⟩
def Reg.NC_EMIT_STATUS_WHEEL_OCC (n : Nat) : FieldRef := ⟨Reg.NC_EMIT_STATUS n, 11, 0⟩
def Reg.NC_DEFER_CNT (n : Nat) : Nat := ncBase n + 0x110
def Reg.NC_LATE_CNT (n : Nat) : Nat := ncBase n + 0x114
def Reg.NC_WHEEL_FULL_CNT (n : Nat) : Nat := ncBase n + 0x118
def Reg.NC_TX_CELL_CNT (n : Nat) : Nat := ncBase n + 0x11c
def Reg.NC_RX_CELL_CNT (n : Nat) : Nat := ncBase n + 0x120
def Reg.NC_PL_CTL (n : Nat) : Nat := ncBase n + 0x200
def Reg.NC_PL_CTL_PL_EN (n : Nat) : FieldRef := ⟨Reg.NC_PL_CTL n, 31, 31⟩
def Reg.NC_PL_CTL_LEN (n : Nat) : FieldRef := ⟨Reg.NC_PL_CTL n, 15, 0⟩
def Reg.NC_PL_STATUS (n : Nat) : Nat := ncBase n + 0x204
def Reg.NC_PL_STATUS_COMMIT (n : Nat) : FieldRef := ⟨Reg.NC_PL_STATUS n, 31, 31⟩
def Reg.NC_PL_STATUS_CLEAR (n : Nat) : FieldRef := ⟨Reg.NC_PL_STATUS n, 30, 30⟩
def Reg.NC_PL_STATUS_FULL (n : Nat) : FieldRef := ⟨Reg.NC_PL_STATUS n, 29, 29⟩
def Reg.NC_PL_STATUS_ROWS (n : Nat) : FieldRef := ⟨Reg.NC_PL_STATUS n, 23, 14⟩
def Reg.NC_PL_STATUS_SLOTS (n : Nat) : FieldRef := ⟨Reg.NC_PL_STATUS n, 13, 0⟩
def Reg.NC_PL_EPOCH (n : Nat) : Nat := ncBase n + 0x208
def Reg.NC_PL_LAST (n : Nat) : Nat := ncBase n + 0x20c
def Reg.NC_PL_LAST_STEPS (n : Nat) : FieldRef := ⟨Reg.NC_PL_LAST n, 31, 16⟩
def Reg.NC_PL_LAST_ROWS (n : Nat) : FieldRef := ⟨Reg.NC_PL_LAST n, 15, 0⟩
def Reg.NC_PL_UPD_CNT (n : Nat) : Nat := ncBase n + 0x220
def Reg.NC_PL_DROP_CNT (n : Nat) : Nat := ncBase n + 0x224
def Reg.NC_PL_DSAT_CNT (n : Nat) : Nat := ncBase n + 0x228
def Reg.NC_PL_CLAMP_CNT (n : Nat) : Nat := ncBase n + 0x22c
def Reg.NC_PL_CSKIP_CNT (n : Nat) : Nat := ncBase n + 0x230
def Reg.NC_CE_CNT (n : Nat) : Nat := ncBase n + 0x300
def Reg.NC_UE_CNT (n : Nat) : Nat := ncBase n + 0x304
def Reg.NC_UE_ADDR (n : Nat) : Nat := ncBase n + 0x308
def Reg.TB_STEP_CTL : Nat := 0x50100
def Reg.TB_STEP_CTL_EN : FieldRef := ⟨Reg.TB_STEP_CTL, 31, 31⟩
def Reg.TB_STEP_CTL_STRETCH : FieldRef := ⟨Reg.TB_STEP_CTL, 7, 0⟩
def Reg.TB_STEP_LEN : Nat := 0x50104
def Reg.TB_STEP_LEN_DELTA : FieldRef := ⟨Reg.TB_STEP_LEN, 19, 0⟩
def Reg.TB_STEP_T0_LO : Nat := 0x50108
def Reg.TB_STEP_T0_HI : Nat := 0x5010c
def Reg.TB_STEP_CNT : Nat := 0x50110
def Reg.TB_ADM_CFG : Nat := 0x50114
def Reg.TB_ADM_CFG_LAYERS : FieldRef := ⟨Reg.TB_ADM_CFG, 31, 28⟩
def Reg.TB_ADM_CFG_BOUND_NS : FieldRef := ⟨Reg.TB_ADM_CFG, 23, 0⟩
def Reg.TB_ADM_STATUS : Nat := 0x50118
def Reg.TB_ADM_STATUS_CODE : FieldRef := ⟨Reg.TB_ADM_STATUS, 31, 24⟩
def Reg.TB_ADM_STATUS_KIND : FieldRef := ⟨Reg.TB_ADM_STATUS, 23, 20⟩
def Reg.TB_ADM_STATUS_REQ : FieldRef := ⟨Reg.TB_ADM_STATUS, 19, 16⟩
def Reg.TB_ADM_STATUS_INDEX : FieldRef := ⟨Reg.TB_ADM_STATUS, 15, 0⟩
def Reg.TB_ADM_BOUND : Nat := 0x5011c
def Reg.TB_ADM_BOUND_NS : FieldRef := ⟨Reg.TB_ADM_BOUND, 23, 0⟩
def Reg.TB_DEFER_CFG : Nat := 0x50120
def Reg.TB_DEFER_CFG_LIMIT : FieldRef := ⟨Reg.TB_DEFER_CFG, 15, 0⟩
def Reg.TB_STRETCH_PEAK : Nat := 0x50124
def Reg.TB_STRETCH_PEAK_NS : FieldRef := ⟨Reg.TB_STRETCH_PEAK, 19, 0⟩
def Reg.TB_STRETCH_CNT : Nat := 0x50130
def Reg.TB_LATE_STEP_CNT : Nat := 0x50134
def Reg.TB_HOLD_CNT : Nat := 0x50138
def Reg.TB_DEFER_STEP_CNT : Nat := 0x5013c
def Reg.TB_CNT_LO : Nat := 0x50000
def Reg.TB_CNT_HI : Nat := 0x50004
def Reg.TB_SYNC_CFG : Nat := 0x50010
def Reg.TB_SYNC_CFG_MODE : FieldRef := ⟨Reg.TB_SYNC_CFG, 31, 30⟩
def Reg.TB_SYNC_CFG_ARM : FieldRef := ⟨Reg.TB_SYNC_CFG, 29, 29⟩
def Reg.TB_SYNC_CFG_LINK : FieldRef := ⟨Reg.TB_SYNC_CFG, 27, 24⟩
def Reg.TB_SYNC_CFG_LIMIT : FieldRef := ⟨Reg.TB_SYNC_CFG, 23, 16⟩
def Reg.TB_SYNC_CFG_SLEW : FieldRef := ⟨Reg.TB_SYNC_CFG, 15, 0⟩
def Reg.TB_SYNC_STATUS : Nat := 0x50014
def Reg.TB_SYNC_STATUS_LOCKED : FieldRef := ⟨Reg.TB_SYNC_STATUS, 31, 31⟩
def Reg.TB_SYNC_STATUS_STEPPED : FieldRef := ⟨Reg.TB_SYNC_STATUS, 30, 30⟩
def Reg.TB_SYNC_STATUS_CFG_IGNORED : FieldRef := ⟨Reg.TB_SYNC_STATUS, 29, 29⟩
def Reg.TB_SYNC_LOAD_LO : Nat := 0x50018
def Reg.TB_SYNC_LOAD_HI : Nat := 0x5001c
def Reg.TB_SYNC_OFS : Nat := 0x50020
def Reg.TB_TRIG_CFG : Nat := 0x50030
def Reg.TB_TRIG_CFG_GRID : FieldRef := ⟨Reg.TB_TRIG_CFG, 31, 31⟩
def Reg.TB_TRIG_CFG_HOLD_NS : FieldRef := ⟨Reg.TB_TRIG_CFG, 11, 0⟩
def Reg.TB_OUT_STATUS : Nat := 0x50034
def Reg.TB_OUT_STATUS_GATE : FieldRef := ⟨Reg.TB_OUT_STATUS, 31, 31⟩
def Reg.TB_OUT_STATUS_LEVEL : FieldRef := ⟨Reg.TB_OUT_STATUS, 15, 0⟩
def Reg.TB_PIN (j : Nat) : Nat := 0x50040 + j % 16 * 0x4
def Reg.TB_PIN_SRC (j : Nat) : FieldRef := ⟨Reg.TB_PIN j, 31, 30⟩
def Reg.TB_PIN_POL (j : Nat) : FieldRef := ⟨Reg.TB_PIN j, 29, 29⟩
def Reg.TB_PIN_HIZ (j : Nat) : FieldRef := ⟨Reg.TB_PIN j, 28, 28⟩
def Reg.TB_PIN_PW_NS (j : Nat) : FieldRef := ⟨Reg.TB_PIN j, 27, 16⟩
def Reg.TB_PIN_LVL_STEPS (j : Nat) : FieldRef := ⟨Reg.TB_PIN j, 15, 0⟩
def Reg.TB_REC_CNT : Nat := 0x50080
def Reg.TB_TRIG_CNT : Nat := 0x50084
def Reg.TB_TRIG_LATE_CNT : Nat := 0x50088
def Reg.TB_SYNC_STEP_CNT : Nat := 0x5008c
def Reg.TB_SYNC_BAD_CNT : Nat := 0x50090
def Reg.TRIG_MAP_W0 (j : Nat) : Nat := 0x50200 + j % 64 * 0x8
def Reg.TRIG_MAP_W0_VALID (j : Nat) : FieldRef := ⟨Reg.TRIG_MAP_W0 j, 31, 31⟩
def Reg.TRIG_MAP_W0_PIN (j : Nat) : FieldRef := ⟨Reg.TRIG_MAP_W0 j, 29, 26⟩
def Reg.TRIG_MAP_W0_MIN_GRADE (j : Nat) : FieldRef := ⟨Reg.TRIG_MAP_W0 j, 25, 18⟩
def Reg.TRIG_MAP_W0_CORE (j : Nat) : FieldRef := ⟨Reg.TRIG_MAP_W0 j, 9, 0⟩
def Reg.TRIG_MAP_W1 (j : Nat) : Nat := 0x50204 + j % 64 * 0x8
def Reg.TRIG_MAP_W1_J_LAST (j : Nat) : FieldRef := ⟨Reg.TRIG_MAP_W1 j, 29, 16⟩
def Reg.TRIG_MAP_W1_J_FIRST (j : Nat) : FieldRef := ⟨Reg.TRIG_MAP_W1 j, 13, 0⟩
def Reg.TMR_CTL (j : Nat) : Nat := 0x51000 + j % 16 * 0x40
def Reg.TMR_CTL_EN (j : Nat) : FieldRef := ⟨Reg.TMR_CTL j, 31, 31⟩
def Reg.TMR_CTL_MIE (j : Nat) : FieldRef := ⟨Reg.TMR_CTL j, 30, 30⟩
def Reg.TMR_CTL_CIE (j : Nat) : FieldRef := ⟨Reg.TMR_CTL j, 29, 29⟩
def Reg.TMR_CTL_CAP_EN (j : Nat) : FieldRef := ⟨Reg.TMR_CTL j, 28, 28⟩
def Reg.TMR_CTL_SRC (j : Nat) : FieldRef := ⟨Reg.TMR_CTL j, 27, 26⟩
def Reg.TMR_CTL_TILE (j : Nat) : FieldRef := ⟨Reg.TMR_CTL j, 25, 20⟩
def Reg.TMR_CTL_IN_PIN (j : Nat) : FieldRef := ⟨Reg.TMR_CTL j, 19, 17⟩
def Reg.TMR_CTL_EDGE (j : Nat) : FieldRef := ⟨Reg.TMR_CTL j, 16, 15⟩
def Reg.TMR_CTL_MACT (j : Nat) : FieldRef := ⟨Reg.TMR_CTL j, 13, 12⟩
def Reg.TMR_CTL_CACT (j : Nat) : FieldRef := ⟨Reg.TMR_CTL j, 11, 10⟩
def Reg.TMR_CTL_PIN (j : Nat) : FieldRef := ⟨Reg.TMR_CTL j, 9, 6⟩
def Reg.TMR_PRE (j : Nat) : Nat := 0x51004 + j % 16 * 0x40
def Reg.TMR_PRE_INTM1 (j : Nat) : FieldRef := ⟨Reg.TMR_PRE j, 31, 16⟩
def Reg.TMR_PRE_FRAC (j : Nat) : FieldRef := ⟨Reg.TMR_PRE j, 15, 0⟩
def Reg.TMR_IN (j : Nat) : Nat := 0x51008 + j % 16 * 0x40
def Reg.TMR_IN_EPSM1 (j : Nat) : FieldRef := ⟨Reg.TMR_IN j, 15, 8⟩
def Reg.TMR_IN_FILT (j : Nat) : FieldRef := ⟨Reg.TMR_IN j, 7, 0⟩
def Reg.TMR_STATUS (j : Nat) : Nat := 0x5100c + j % 16 * 0x40
def Reg.TMR_STATUS_MATCH (j : Nat) : FieldRef := ⟨Reg.TMR_STATUS j, 31, 31⟩
def Reg.TMR_STATUS_CAP (j : Nat) : FieldRef := ⟨Reg.TMR_STATUS j, 30, 30⟩
def Reg.TMR_STATUS_CMP_PAST (j : Nat) : FieldRef := ⟨Reg.TMR_STATUS j, 29, 29⟩
def Reg.TMR_STATUS_ARMED (j : Nat) : FieldRef := ⟨Reg.TMR_STATUS j, 28, 28⟩
def Reg.TMR_STATUS_SRC_STOP (j : Nat) : FieldRef := ⟨Reg.TMR_STATUS j, 27, 27⟩
def Reg.TMR_STATUS_CAP_OVR (j : Nat) : FieldRef := ⟨Reg.TMR_STATUS j, 26, 26⟩
def Reg.TMR_STATUS_CFG_IGNORED (j : Nat) : FieldRef := ⟨Reg.TMR_STATUS j, 25, 25⟩
def Reg.TMR_CNT_LO (j : Nat) : Nat := 0x51010 + j % 16 * 0x40
def Reg.TMR_CNT_HI (j : Nat) : Nat := 0x51014 + j % 16 * 0x40
def Reg.TMR_CMP_LO (j : Nat) : Nat := 0x51018 + j % 16 * 0x40
def Reg.TMR_CMP_HI (j : Nat) : Nat := 0x5101c + j % 16 * 0x40
def Reg.TMR_PERIOD_LO (j : Nat) : Nat := 0x51020 + j % 16 * 0x40
def Reg.TMR_PERIOD_HI (j : Nat) : Nat := 0x51024 + j % 16 * 0x40
def Reg.TMR_CAP_LO (j : Nat) : Nat := 0x51028 + j % 16 * 0x40
def Reg.TMR_CAP_HI (j : Nat) : Nat := 0x5102c + j % 16 * 0x40
def Reg.TMR_CAPT_LO (j : Nat) : Nat := 0x51030 + j % 16 * 0x40
def Reg.TMR_CAPT_HI (j : Nat) : Nat := 0x51034 + j % 16 * 0x40
def Reg.TMR_MATCH_CNT (j : Nat) : Nat := 0x51038 + j % 16 * 0x40
def Reg.TMR_CAP_CNT (j : Nat) : Nat := 0x5103c + j % 16 * 0x40
def Reg.TILE_CTL (t : Nat) : Nat := tileBase t
def Reg.TILE_CTL_EN (t : Nat) : FieldRef := ⟨Reg.TILE_CTL t, 31, 31⟩
def Reg.TILE_STATUS (t : Nat) : Nat := tileBase t + 0x4
def Reg.TILE_STATUS_ERR (t : Nat) : FieldRef := ⟨Reg.TILE_STATUS t, 31, 31⟩
def Reg.TILE_STATUS_IDLE (t : Nat) : FieldRef := ⟨Reg.TILE_STATUS t, 30, 30⟩
def Reg.TILE_STATUS_HALT1 (t : Nat) : FieldRef := ⟨Reg.TILE_STATUS t, 29, 29⟩
def Reg.TILE_STATUS_HALT0 (t : Nat) : FieldRef := ⟨Reg.TILE_STATUS t, 28, 28⟩
def Reg.TILE_STATUS_CFG_IGNORED (t : Nat) : FieldRef := ⟨Reg.TILE_STATUS t, 0, 0⟩
def Reg.TILE_ERR (t : Nat) : Nat := tileBase t + 0x8
def Reg.TILE_ERR_CODE (t : Nat) : FieldRef := ⟨Reg.TILE_ERR t, 31, 28⟩
def Reg.TILE_ERR_CORE (t : Nat) : FieldRef := ⟨Reg.TILE_ERR t, 27, 27⟩
def Reg.TILE_ERR_ENG (t : Nat) : FieldRef := ⟨Reg.TILE_ERR t, 26, 24⟩
def Reg.TILE_ERR_TAG (t : Nat) : FieldRef := ⟨Reg.TILE_ERR t, 7, 0⟩
def Reg.TILE_XARB (t : Nat) : Nat := tileBase t + 0xc
def Reg.TILE_XARB_W_FETCH (t : Nat) : FieldRef := ⟨Reg.TILE_XARB t, 15, 12⟩
def Reg.TILE_XARB_W_DMA (t : Nat) : FieldRef := ⟨Reg.TILE_XARB t, 11, 8⟩
def Reg.TILE_XARB_W_SEQ0 (t : Nat) : FieldRef := ⟨Reg.TILE_XARB t, 7, 4⟩
def Reg.TILE_XARB_W_SEQ1 (t : Nat) : FieldRef := ⟨Reg.TILE_XARB t, 3, 0⟩
def Reg.TILE_RING (t j : Nat) : Nat := tileBase t + 0x10 + j % 2 * 0x4
def Reg.TILE_RING_APOS (t j : Nat) : FieldRef := ⟨Reg.TILE_RING t j, 29, 16⟩
def Reg.TILE_RING_FPOS (t j : Nat) : FieldRef := ⟨Reg.TILE_RING t j, 13, 0⟩
def Reg.TILE_TQ (t j : Nat) : Nat := tileBase t + 0x20 + j % 8 * 0x4
def Reg.TILE_TQ_COUNT (t j : Nat) : FieldRef := ⟨Reg.TILE_TQ t j, 11, 0⟩
def Reg.TILE_BOUND (t j : Nat) : Nat := tileBase t + 0x40 + j % 8 * 0x4
def Reg.TILE_BOUND_CLOSED (t j : Nat) : FieldRef := ⟨Reg.TILE_BOUND t j, 31, 31⟩
def Reg.TILE_BOUND_COUNT (t j : Nat) : FieldRef := ⟨Reg.TILE_BOUND t j, 15, 0⟩
def Reg.TILE_ARR_CYC (t : Nat) : Nat := tileBase t + 0x80
def Reg.TILE_ARR_WAIT (t : Nat) : Nat := tileBase t + 0x84
def Reg.TILE_FETCH_GR (t : Nat) : Nat := tileBase t + 0x88
def Reg.TILE_SPEC_CNT (t : Nat) : Nat := tileBase t + 0x8c
def Reg.TILE_SQUASH_CNT (t : Nat) : Nat := tileBase t + 0x90
def Reg.TILE_RESPEC_CNT (t : Nat) : Nat := tileBase t + 0x94
def Reg.TILE_ESC_MISS_CNT (t : Nat) : Nat := tileBase t + 0x98
def Reg.TILE_XSTALL_CNT (t : Nat) : Nat := tileBase t + 0x9c
def Reg.TILE_NUM_CTL (t : Nat) : Nat := tileBase t + 0xa0
def Reg.TILE_NUM_CTL_E_G (t : Nat) : FieldRef := ⟨Reg.TILE_NUM_CTL t, 31, 24⟩
def Reg.TILE_NUM_CTL_F_G (t : Nat) : FieldRef := ⟨Reg.TILE_NUM_CTL t, 23, 16⟩
def Reg.TILE_NUM_CTL_OSH (t : Nat) : FieldRef := ⟨Reg.TILE_NUM_CTL t, 15, 12⟩
def Reg.TILE_NUM_CTL_SMODE (t : Nat) : FieldRef := ⟨Reg.TILE_NUM_CTL t, 11, 10⟩
def Reg.TILE_NUM_CTL_ESC_EN (t : Nat) : FieldRef := ⟨Reg.TILE_NUM_CTL t, 9, 9⟩
def Reg.TILE_NUM_STATUS (t : Nat) : Nat := tileBase t + 0xa4
def Reg.TILE_NUM_STATUS_NAN (t : Nat) : FieldRef := ⟨Reg.TILE_NUM_STATUS t, 2, 2⟩
def Reg.TILE_NUM_STATUS_SAT (t : Nat) : FieldRef := ⟨Reg.TILE_NUM_STATUS t, 1, 1⟩
def Reg.TILE_NUM_STATUS_ESC_OVF (t : Nat) : FieldRef := ⟨Reg.TILE_NUM_STATUS t, 0, 0⟩
def Reg.TILE_ESC_OVF_CNT (t : Nat) : Nat := tileBase t + 0xa8
def Reg.TILE_SAT_CNT (t : Nat) : Nat := tileBase t + 0xac
def Reg.TDMA_CTL (t j : Nat) : Nat := tileBase t + 0x200 + j % 4 * 0x40
def Reg.TDMA_CTL_START (t j : Nat) : FieldRef := ⟨Reg.TDMA_CTL t j, 31, 31⟩
def Reg.TDMA_CTL_PAUSE (t j : Nat) : FieldRef := ⟨Reg.TDMA_CTL t j, 30, 30⟩
def Reg.TDMA_CTL_IE (t j : Nat) : FieldRef := ⟨Reg.TDMA_CTL t j, 29, 29⟩
def Reg.TDMA_CTL_ICORE (t j : Nat) : FieldRef := ⟨Reg.TDMA_CTL t j, 28, 28⟩
def Reg.TDMA_BYTE_CNT (t : Nat) : Nat := tileBase t + 0x300
def Reg.TDMA_END_CNT (t : Nat) : Nat := tileBase t + 0x304
def Reg.TDMA_ERR_CNT (t : Nat) : Nat := tileBase t + 0x308
def Reg.TDMA_NOTICE_DROP_CNT (t : Nat) : Nat := tileBase t + 0x30c
def Reg.TDMA_WATCH_RETRY_CNT (t : Nat) : Nat := tileBase t + 0x310
def Reg.TILE_SLC_CE_CNT (t j : Nat) : Nat := tileBase t + 0x600 + j % 4 * 0x10
def Reg.TILE_SLC_UE_CNT (t j : Nat) : Nat := tileBase t + 0x604 + j % 4 * 0x10
def Reg.TILE_SLC_UE_ADDR_LO (t j : Nat) : Nat := tileBase t + 0x608 + j % 4 * 0x10
def Reg.TILE_SLC_UE_ADDR_HI (t j : Nat) : Nat := tileBase t + 0x60c + j % 4 * 0x10
def Reg.SEQ_CTL (i : Nat) : Nat := seqBase i
def Reg.SEQ_CTL_RUN (i : Nat) : FieldRef := ⟨Reg.SEQ_CTL i, 31, 31⟩
def Reg.SEQ_STATUS (i : Nat) : Nat := seqBase i + 0x4
def Reg.SEQ_STATUS_RUNNING (i : Nat) : FieldRef := ⟨Reg.SEQ_STATUS i, 31, 31⟩
def Reg.SEQ_STATUS_WFI (i : Nat) : FieldRef := ⟨Reg.SEQ_STATUS i, 30, 30⟩
def Reg.SEQ_STATUS_TCQ_OCC (i : Nat) : FieldRef := ⟨Reg.SEQ_STATUS i, 5, 0⟩
def Reg.SEQ_RESET_PC_LO (i : Nat) : Nat := seqBase i + 0x8
def Reg.SEQ_RESET_PC_HI (i : Nat) : Nat := seqBase i + 0xc
def Reg.SEQ_MTIMECMP_LO (i : Nat) : Nat := seqBase i + 0x10
def Reg.SEQ_MTIMECMP_HI (i : Nat) : Nat := seqBase i + 0x14
def Reg.SEQ_CE_CNT (i : Nat) : Nat := seqBase i + 0xf20
def Reg.SEQ_UE_CNT (i : Nat) : Nat := seqBase i + 0xf24
def Reg.SEQ_UE_ADDR (i : Nat) : Nat := seqBase i + 0xf28
def Reg.PCIE_RQ_POST_LO (j : Nat) : Nat := 0x7201000 + j % 32 * 0x8
def Reg.PCIE_RQ_POST_HI (j : Nat) : Nat := 0x7201004 + j % 32 * 0x8
def Reg.PCIE_RQ_SPACE (j : Nat) : Nat := 0x7201100 + j % 32 * 0x4
def Reg.MESH_CTL : Nat := 0x6000000
def Reg.MESH_CTL_JOB : FieldRef := ⟨Reg.MESH_CTL, 31, 31⟩
def Reg.MESH_CTL_RANKS : FieldRef := ⟨Reg.MESH_CTL, 30, 30⟩
def Reg.MESH_STATUS : Nat := 0x6000004
def Reg.MESH_STATUS_ALT_ANY : FieldRef := ⟨Reg.MESH_STATUS, 1, 1⟩
def Reg.MESH_STATUS_CFG_IGNORED : FieldRef := ⟨Reg.MESH_STATUS, 0, 0⟩
def Reg.MESH_XROUTE (j : Nat) : Nat := 0x6000100 + j % 16 * 0x4
def Reg.MESH_XROUTE_VALID (j : Nat) : FieldRef := ⟨Reg.MESH_XROUTE j, 31, 31⟩
def Reg.MESH_XROUTE_ON_ALT (j : Nat) : FieldRef := ⟨Reg.MESH_XROUTE j, 30, 30⟩
def Reg.MESH_XROUTE_ALT_VALID (j : Nat) : FieldRef := ⟨Reg.MESH_XROUTE j, 29, 29⟩
def Reg.MESH_XROUTE_ALT_LINK (j : Nat) : FieldRef := ⟨Reg.MESH_XROUTE j, 11, 8⟩
def Reg.MESH_XROUTE_LINK (j : Nat) : FieldRef := ⟨Reg.MESH_XROUTE j, 3, 0⟩
def Reg.MESH_RANK (j : Nat) : Nat := 0x6004000 + j % 4096 * 0x4
def Reg.MESH_RANK_VALID (j : Nat) : FieldRef := ⟨Reg.MESH_RANK j, 31, 31⟩
def Reg.MESH_RANK_COORD (j : Nat) : FieldRef := ⟨Reg.MESH_RANK j, 21, 0⟩
def Reg.MESH_BAD_DST_CNT : Nat := 0x6000200
def Reg.MESH_RANK_MISS_CNT : Nat := 0x6000204
def Reg.MESH_TYPE_ERR_CNT : Nat := 0x6000208
def Reg.MESH_XHOP_CNT : Nat := 0x600020c
def Reg.MESH_NOROUTE_CNT : Nat := 0x6000210
def Reg.IBL_CTL (k : Nat) : Nat := iblBase k
def Reg.IBL_CTL_EN (k : Nat) : FieldRef := ⟨Reg.IBL_CTL k, 31, 31⟩
def Reg.IBL_CTL_AUTO_NARROW (k : Nat) : FieldRef := ⟨Reg.IBL_CTL k, 30, 30⟩
def Reg.IBL_CTL_RETRY_MAX (k : Nat) : FieldRef := ⟨Reg.IBL_CTL k, 27, 24⟩
def Reg.IBL_CTL_REQ_WIDTH (k : Nat) : FieldRef := ⟨Reg.IBL_CTL k, 19, 18⟩
def Reg.IBL_CTL_RETRAIN (k : Nat) : FieldRef := ⟨Reg.IBL_CTL k, 17, 17⟩
def Reg.IBL_CTL_WIDTH_MAX (k : Nat) : FieldRef := ⟨Reg.IBL_CTL k, 1, 0⟩
def Reg.IBL_STATUS (k : Nat) : Nat := iblBase k + 0x4
def Reg.IBL_STATUS_UP (k : Nat) : FieldRef := ⟨Reg.IBL_STATUS k, 31, 31⟩
def Reg.IBL_STATUS_STATE (k : Nat) : FieldRef := ⟨Reg.IBL_STATUS k, 30, 28⟩
def Reg.IBL_STATUS_WIDTH (k : Nat) : FieldRef := ⟨Reg.IBL_STATUS k, 27, 26⟩
def Reg.IBL_STATUS_NARROW (k : Nat) : FieldRef := ⟨Reg.IBL_STATUS k, 25, 25⟩
def Reg.IBL_STATUS_GEN_FAIL (k : Nat) : FieldRef := ⟨Reg.IBL_STATUS k, 24, 24⟩
def Reg.IBL_STATUS_LANE_OK (k : Nat) : FieldRef := ⟨Reg.IBL_STATUS k, 23, 16⟩
def Reg.IBL_STATUS_REFUSED (k : Nat) : FieldRef := ⟨Reg.IBL_STATUS k, 3, 3⟩
def Reg.IBL_STATUS_LOST (k : Nat) : FieldRef := ⟨Reg.IBL_STATUS k, 2, 2⟩
def Reg.IBL_STATUS_CFG_IGNORED (k : Nat) : FieldRef := ⟨Reg.IBL_STATUS k, 0, 0⟩
def Reg.IBL_GEN (k : Nat) : Nat := iblBase k + 0x8
def Reg.IBL_GEN_GEN_MAX (k : Nat) : FieldRef := ⟨Reg.IBL_GEN k, 15, 12⟩
def Reg.IBL_GEN_GEN_MIN (k : Nat) : FieldRef := ⟨Reg.IBL_GEN k, 11, 8⟩
def Reg.IBL_GEN_CUR (k : Nat) : FieldRef := ⟨Reg.IBL_GEN k, 3, 0⟩
def Reg.IBL_TRAV (k : Nat) : Nat := iblBase k + 0xc
def Reg.IBL_TRAV_DELAY_NS (k : Nat) : FieldRef := ⟨Reg.IBL_TRAV k, 27, 16⟩
def Reg.IBL_TRAV_TRAV_NS (k : Nat) : FieldRef := ⟨Reg.IBL_TRAV k, 11, 0⟩
def Reg.IBL_PEER (k : Nat) : Nat := iblBase k + 0x10
def Reg.IBL_PEER_VALID (k : Nat) : FieldRef := ⟨Reg.IBL_PEER k, 31, 31⟩
def Reg.IBL_PEER_DEV (k : Nat) : FieldRef := ⟨Reg.IBL_PEER k, 18, 16⟩
def Reg.IBL_PEER_LINK (k : Nat) : FieldRef := ⟨Reg.IBL_PEER k, 3, 0⟩
def Reg.IBL_FEC_CORR_CNT (k : Nat) : Nat := iblBase k + 0x20
def Reg.IBL_FEC_UNC_CNT (k : Nat) : Nat := iblBase k + 0x24
def Reg.IBL_REPLAY_CNT (k : Nat) : Nat := iblBase k + 0x28
def Reg.IBL_DOWN_CNT (k : Nat) : Nat := iblBase k + 0x2c
def Reg.IBL_DROP_CNT (k : Nat) : Nat := iblBase k + 0x30
def Reg.IBL_TX_CELL_CNT (k : Nat) : Nat := iblBase k + 0x34
def Reg.IBL_RX_CELL_CNT (k : Nat) : Nat := iblBase k + 0x38
def Reg.Q_CFG (o j : Nat) : Nat := ownBase o + 0x100 + j % 16 * 0x10
def Reg.Q_CFG_OPEN (o j : Nat) : FieldRef := ⟨Reg.Q_CFG o j, 31, 31⟩
def Reg.Q_CFG_IE (o j : Nat) : FieldRef := ⟨Reg.Q_CFG o j, 30, 30⟩
def Reg.Q_CFG_RING_LEN (o j : Nat) : FieldRef := ⟨Reg.Q_CFG o j, 19, 0⟩
def Reg.Q_RING_LO (o j : Nat) : Nat := ownBase o + 0x104 + j % 16 * 0x10
def Reg.Q_RING_LO_BASE (o j : Nat) : FieldRef := ⟨Reg.Q_RING_LO o j, 31, 6⟩
def Reg.Q_RING_HI (o j : Nat) : Nat := ownBase o + 0x108 + j % 16 * 0x10
def Reg.Q_RING_HI_BASE (o j : Nat) : FieldRef := ⟨Reg.Q_RING_HI o j, 15, 0⟩
def Reg.Q_STAT (o j : Nat) : Nat := ownBase o + 0x10c + j % 16 * 0x10
def Reg.Q_STAT_FIFO (o j : Nat) : FieldRef := ⟨Reg.Q_STAT o j, 30, 24⟩
def Reg.Q_STAT_RESV (o j : Nat) : FieldRef := ⟨Reg.Q_STAT o j, 23, 20⟩
def Reg.Q_STAT_RING_USED (o j : Nat) : FieldRef := ⟨Reg.Q_STAT o j, 19, 0⟩
def Reg.Q_RX_MSG_CNT (o : Nat) : Nat := ownBase o + 0x200
def Reg.Q_FULL_CNT (o : Nat) : Nat := ownBase o + 0x204
def Reg.Q_NACK_CNT (o : Nat) : Nat := ownBase o + 0x208
def Reg.Q_LOST_CNT (o : Nat) : Nat := ownBase o + 0x20c
def Reg.Q_TX_FAIL_CNT (o : Nat) : Nat := ownBase o + 0x210
def Reg.Q_TX_DISCARD_CNT (o : Nat) : Nat := ownBase o + 0x214
def Reg.Q_CL_DROP_CNT (o : Nat) : Nat := ownBase o + 0x218
def Reg.Q_NOTICE_DROP_CNT (o : Nat) : Nat := ownBase o + 0x21c
def Reg.SYNC_ERR_CNT (o : Nat) : Nat := ownBase o + 0x220
def Reg.SYNC_NACK_CNT (o : Nat) : Nat := ownBase o + 0x224
def Reg.SYNC_ORPHAN_CNT (o : Nat) : Nat := ownBase o + 0x228
def Reg.Q_STATUS (o : Nat) : Nat := ownBase o + 0x240
def Reg.Q_STATUS_MC_BUSY (o : Nat) : FieldRef := ⟨Reg.Q_STATUS o, 31, 31⟩
def Reg.Q_STATUS_NACK (o : Nat) : FieldRef := ⟨Reg.Q_STATUS o, 30, 30⟩
def Reg.Q_STATUS_DISCARD (o : Nat) : FieldRef := ⟨Reg.Q_STATUS o, 29, 29⟩
def Reg.Q_STATUS_SYNC_ERR (o : Nat) : FieldRef := ⟨Reg.Q_STATUS o, 28, 28⟩
def Reg.Q_STATUS_CFG_IGNORED (o : Nat) : FieldRef := ⟨Reg.Q_STATUS o, 16, 16⟩
def Reg.Q_STATUS_LAST_FAIL (o : Nat) : FieldRef := ⟨Reg.Q_STATUS o, 15, 0⟩
def Reg.Q_MC_CFG (o : Nat) : Nat := ownBase o + 0x244
def Reg.Q_MC_CFG_TIMEOUT (o : Nat) : FieldRef := ⟨Reg.Q_MC_CFG o, 31, 16⟩
def Reg.Q_MC_CFG_OBJ (o : Nat) : FieldRef := ⟨Reg.Q_MC_CFG o, 15, 0⟩
def Reg.Q_MC_DONE (o : Nat) : Nat := ownBase o + 0x248
def Reg.Q_MC_FAIL (o : Nat) : Nat := ownBase o + 0x24c
def Reg.Q_MC_MASK (o : Nat) : Nat := ownBase o + 0x250
def Reg.Q_MC_ENT (o j : Nat) : Nat := ownBase o + 0x280 + j % 32 * 0x4
def Reg.Q_MC_ENT_VALID (o j : Nat) : FieldRef := ⟨Reg.Q_MC_ENT o j, 31, 31⟩
def Reg.Q_MC_ENT_QN (o j : Nat) : FieldRef := ⟨Reg.Q_MC_ENT o j, 15, 0⟩
def Reg.SYNC_CTL (o : Nat) : Nat := ownBase o + 0x300
def Reg.SYNC_CTL_FROZEN (o : Nat) : FieldRef := ⟨Reg.SYNC_CTL o, 31, 31⟩
def Reg.SYNC_CTL_ADOPT (o : Nat) : FieldRef := ⟨Reg.SYNC_CTL o, 30, 30⟩
def Reg.SYNC_CTL_STORM (o : Nat) : FieldRef := ⟨Reg.SYNC_CTL o, 7, 0⟩
def Reg.SYNC_PORT_CFG (o : Nat) : Nat := ownBase o + 0x304
def Reg.SYNC_PORT_CFG_REMOTE (o : Nat) : FieldRef := ⟨Reg.SYNC_PORT_CFG o, 19, 19⟩
def Reg.SYNC_PORT_CFG_DEV (o : Nat) : FieldRef := ⟨Reg.SYNC_PORT_CFG o, 18, 16⟩
def Reg.SYNC_PORT_CFG_WQUEUE (o : Nat) : FieldRef := ⟨Reg.SYNC_PORT_CFG o, 3, 0⟩
def Reg.SYNC_VAL (o j : Nat) : Nat := ownBase o + 0x400 + j % 48 * 0x10
def Reg.SYNC_STATE (o j : Nat) : Nat := ownBase o + 0x404 + j % 48 * 0x10
def Reg.SYNC_STATE_STATE (o j : Nat) : FieldRef := ⟨Reg.SYNC_STATE o j, 31, 30⟩
def Reg.SYNC_STATE_WATCHERS (o j : Nat) : FieldRef := ⟨Reg.SYNC_STATE o j, 29, 23⟩
def Reg.SYNC_STATE_LAST_SRC (o j : Nat) : FieldRef := ⟨Reg.SYNC_STATE o j, 21, 0⟩
def Reg.SYNC_LAST (o j : Nat) : Nat := ownBase o + 0x408 + j % 48 * 0x10
def Reg.SYNC_LAST_LAST_OP (o j : Nat) : FieldRef := ⟨Reg.SYNC_LAST o j, 31, 29⟩
def Reg.SYNC_LAST_LAST_T (o j : Nat) : FieldRef := ⟨Reg.SYNC_LAST o j, 28, 0⟩
def Reg.Q_COMB (o j : Nat) : Nat := ownBase o + 0x700 + j % 64 * 0x10
def Reg.Q_COMB_ARMED (o j : Nat) : FieldRef := ⟨Reg.Q_COMB o j, 31, 31⟩
def Reg.Q_COMB_AUTO (o j : Nat) : FieldRef := ⟨Reg.Q_COMB o j, 30, 30⟩
def Reg.Q_COMB_MODE (o j : Nat) : FieldRef := ⟨Reg.Q_COMB o j, 29, 28⟩
def Reg.Q_COMB_QUEUE (o j : Nat) : FieldRef := ⟨Reg.Q_COMB o j, 23, 20⟩
def Reg.Q_COMB_EXPECT (o j : Nat) : FieldRef := ⟨Reg.Q_COMB o j, 15, 0⟩
def Reg.Q_COMB_PAR (o j : Nat) : Nat := ownBase o + 0x704 + j % 64 * 0x10
def Reg.Q_COMB_PAR_VALID (o j : Nat) : FieldRef := ⟨Reg.Q_COMB_PAR o j, 31, 31⟩
def Reg.Q_COMB_PAR_PSLOT (o j : Nat) : FieldRef := ⟨Reg.Q_COMB_PAR o j, 21, 16⟩
def Reg.Q_COMB_PAR_PQN (o j : Nat) : FieldRef := ⟨Reg.Q_COMB_PAR o j, 15, 0⟩
def Reg.Q_COMB_CNT (o j : Nat) : Nat := ownBase o + 0x708 + j % 64 * 0x10
def Reg.Q_COMB_CNT_ROUNDS (o j : Nat) : FieldRef := ⟨Reg.Q_COMB_CNT o j, 31, 24⟩
def Reg.Q_COMB_CNT_OVER (o j : Nat) : FieldRef := ⟨Reg.Q_COMB_CNT o j, 23, 16⟩
def Reg.Q_COMB_CNT_COUNT (o j : Nat) : FieldRef := ⟨Reg.Q_COMB_CNT o j, 15, 0⟩
def Reg.WATCH_W0 (o j : Nat) : Nat := ownBase o + 0xb00 + j % 96 * 0x8
def Reg.WATCH_W0_VALID (o j : Nat) : FieldRef := ⟨Reg.WATCH_W0 o j, 31, 31⟩
def Reg.WATCH_W0_EQ (o j : Nat) : FieldRef := ⟨Reg.WATCH_W0 o j, 30, 30⟩
def Reg.WATCH_W0_INDEX (o j : Nat) : FieldRef := ⟨Reg.WATCH_W0 o j, 29, 24⟩
def Reg.WATCH_W0_WQN (o j : Nat) : FieldRef := ⟨Reg.WATCH_W0 o j, 15, 0⟩
def Reg.WATCH_W1 (o j : Nat) : Nat := ownBase o + 0xb04 + j % 96 * 0x8
def Reg.BDMA_CTL (h j : Nat) : Nat := bdmaBase h + j % 16 * 0x40
def Reg.BDMA_CTL_START (h j : Nat) : FieldRef := ⟨Reg.BDMA_CTL h j, 31, 31⟩
def Reg.BDMA_CTL_DISABLE (h j : Nat) : FieldRef := ⟨Reg.BDMA_CTL h j, 30, 30⟩
def Reg.BDMA_CTL_IE (h j : Nat) : FieldRef := ⟨Reg.BDMA_CTL h j, 29, 29⟩
def Reg.BDMA_CTL_HOST (h j : Nat) : FieldRef := ⟨Reg.BDMA_CTL h j, 28, 28⟩
def Reg.BDMA_BYTE_CNT (h : Nat) : Nat := bdmaBase h + 0x800
def Reg.BDMA_END_CNT (h : Nat) : Nat := bdmaBase h + 0x804
def Reg.BDMA_ERR_CNT (h : Nat) : Nat := bdmaBase h + 0x808
def Reg.BDMA_NOTICE_DROP_CNT (h : Nat) : Nat := bdmaBase h + 0x80c
def Reg.BDMA_WATCH_RETRY_CNT (h : Nat) : Nat := bdmaBase h + 0x810
def Reg.DMA_STATUS (ch : Nat) : Nat := dmaBase ch + 0x4
def Reg.DMA_STATUS_STATE (ch : Nat) : FieldRef := ⟨Reg.DMA_STATUS ch, 31, 29⟩
def Reg.DMA_STATUS_WPEND (ch : Nat) : FieldRef := ⟨Reg.DMA_STATUS ch, 28, 28⟩
def Reg.DMA_STATUS_IRQ (ch : Nat) : FieldRef := ⟨Reg.DMA_STATUS ch, 27, 27⟩
def Reg.DMA_STATUS_CFG_IGNORED (ch : Nat) : FieldRef := ⟨Reg.DMA_STATUS ch, 26, 26⟩
def Reg.DMA_STATUS_ERR (ch : Nat) : FieldRef := ⟨Reg.DMA_STATUS ch, 23, 20⟩
def Reg.DMA_STATUS_CODE (ch : Nat) : FieldRef := ⟨Reg.DMA_STATUS ch, 15, 0⟩
def Reg.DMA_PBASE_LO (ch : Nat) : Nat := dmaBase ch + 0x8
def Reg.DMA_PBASE_LO_BASE (ch : Nat) : FieldRef := ⟨Reg.DMA_PBASE_LO ch, 31, 6⟩
def Reg.DMA_PBASE_HI (ch : Nat) : Nat := dmaBase ch + 0xc
def Reg.DMA_PBASE_HI_BASE (ch : Nat) : FieldRef := ⟨Reg.DMA_PBASE_HI ch, 15, 0⟩
def Reg.DMA_PC (ch : Nat) : Nat := dmaBase ch + 0x10
def Reg.DMA_PC_DEPTH (ch : Nat) : FieldRef := ⟨Reg.DMA_PC ch, 31, 29⟩
def Reg.DMA_PC_PC (ch : Nat) : FieldRef := ⟨Reg.DMA_PC ch, 16, 0⟩
def Reg.DMA_DONE (ch : Nat) : Nat := dmaBase ch + 0x14
def Reg.DMA_FAULT_LO (ch : Nat) : Nat := dmaBase ch + 0x18
def Reg.DMA_FAULT_HI (ch : Nat) : Nat := dmaBase ch + 0x1c
def Reg.DMA_LOOP_CNT (ch j : Nat) : Nat := dmaBase ch + 0x20 + j % 4 * 0x8
def Reg.DMA_LOOP_CNT_I (ch j : Nat) : FieldRef := ⟨Reg.DMA_LOOP_CNT ch j, 31, 16⟩
def Reg.DMA_LOOP_CNT_CNTM1 (ch j : Nat) : FieldRef := ⟨Reg.DMA_LOOP_CNT ch j, 15, 0⟩
def Reg.DMA_LOOP_PC (ch j : Nat) : Nat := dmaBase ch + 0x24 + j % 4 * 0x8
def Reg.DMA_LOOP_PC_BODY (ch j : Nat) : FieldRef := ⟨Reg.DMA_LOOP_PC ch j, 16, 0⟩
def Reg.REG_BASE_L (b j : Nat) : Nat := b + j % 16 * 0x10
def Reg.REG_BASE_L_BASE_L (b j : Nat) : FieldRef := ⟨Reg.REG_BASE_L b j, 31, 12⟩
def Reg.REG_BASE_H (b j : Nat) : Nat := b + 0x4 + j % 16 * 0x10
def Reg.REG_BASE_H_BASE_H (b j : Nat) : FieldRef := ⟨Reg.REG_BASE_H b j, 15, 0⟩
def Reg.REG_LIMIT_L (b j : Nat) : Nat := b + 0x8 + j % 16 * 0x10
def Reg.REG_LIMIT_L_LIMIT_L (b j : Nat) : FieldRef := ⟨Reg.REG_LIMIT_L b j, 31, 12⟩
def Reg.REG_LIMIT_H (b j : Nat) : Nat := b + 0xc + j % 16 * 0x10
def Reg.REG_LIMIT_H_EN (b j : Nat) : FieldRef := ⟨Reg.REG_LIMIT_H b j, 31, 31⟩
def Reg.REG_LIMIT_H_R (b j : Nat) : FieldRef := ⟨Reg.REG_LIMIT_H b j, 30, 30⟩
def Reg.REG_LIMIT_H_W (b j : Nat) : FieldRef := ⟨Reg.REG_LIMIT_H b j, 29, 29⟩
def Reg.REG_LIMIT_H_A (b j : Nat) : FieldRef := ⟨Reg.REG_LIMIT_H b j, 28, 28⟩
def Reg.REG_LIMIT_H_LIMIT_H (b j : Nat) : FieldRef := ⟨Reg.REG_LIMIT_H b j, 15, 0⟩
def Reg.REG_VIOL_LO (b : Nat) : Nat := b + 0x100
def Reg.REG_VIOL_HI (b : Nat) : Nat := b + 0x104
def Reg.REG_VIOL_HI_ADDR (b : Nat) : FieldRef := ⟨Reg.REG_VIOL_HI b, 15, 0⟩
def Reg.REG_VIOL_INFO (b : Nat) : Nat := b + 0x108
def Reg.REG_VIOL_INFO_VALID (b : Nat) : FieldRef := ⟨Reg.REG_VIOL_INFO b, 31, 31⟩
def Reg.REG_VIOL_INFO_KIND (b : Nat) : FieldRef := ⟨Reg.REG_VIOL_INFO b, 30, 28⟩
def Reg.REG_VIOL_INFO_CFG_IGNORED (b : Nat) : FieldRef := ⟨Reg.REG_VIOL_INFO b, 0, 0⟩
def Reg.REG_VIOL_CNT (b : Nat) : Nat := b + 0x10c
def Reg.DDR_CTL (c : Nat) : Nat := ddrBase c
def Reg.DDR_CTL_EN (c : Nat) : FieldRef := ⟨Reg.DDR_CTL c, 31, 31⟩
def Reg.DDR_CTL_RETRAIN (c : Nat) : FieldRef := ⟨Reg.DDR_CTL c, 30, 30⟩
def Reg.DDR_CTL_SCRUB_EN (c : Nat) : FieldRef := ⟨Reg.DDR_CTL c, 29, 29⟩
def Reg.DDR_CFG (c : Nat) : Nat := ddrBase c + 0x4
def Reg.DDR_CFG_SPEED (c : Nat) : FieldRef := ⟨Reg.DDR_CFG c, 31, 28⟩
def Reg.DDR_CFG_DIMM (c : Nat) : FieldRef := ⟨Reg.DDR_CFG c, 27, 26⟩
def Reg.DDR_CFG_DPC2 (c : Nat) : FieldRef := ⟨Reg.DDR_CFG c, 25, 25⟩
def Reg.DDR_CFG_X4 (c : Nat) : FieldRef := ⟨Reg.DDR_CFG c, 24, 24⟩
def Reg.DDR_CFG_ECC (c : Nat) : FieldRef := ⟨Reg.DDR_CFG c, 23, 23⟩
def Reg.DDR_CFG_CAPAR (c : Nat) : FieldRef := ⟨Reg.DDR_CFG c, 22, 22⟩
def Reg.DDR_CFG_WCRC (c : Nat) : FieldRef := ⟨Reg.DDR_CFG c, 21, 21⟩
def Reg.DDR_CFG_REF2X (c : Nat) : FieldRef := ⟨Reg.DDR_CFG c, 20, 20⟩
def Reg.DDR_CFG_RANKS (c : Nat) : FieldRef := ⟨Reg.DDR_CFG c, 19, 16⟩
def Reg.DDR_CFG_CAP (c : Nat) : FieldRef := ⟨Reg.DDR_CFG c, 3, 0⟩
def Reg.DDR_STATUS (c : Nat) : Nat := ddrBase c + 0xc
def Reg.DDR_STATUS_TRAINED (c : Nat) : FieldRef := ⟨Reg.DDR_STATUS c, 31, 31⟩
def Reg.DDR_STATUS_RETRAINING (c : Nat) : FieldRef := ⟨Reg.DDR_STATUS c, 30, 30⟩
def Reg.DDR_STATUS_WAITING (c : Nat) : FieldRef := ⟨Reg.DDR_STATUS c, 29, 29⟩
def Reg.DDR_STATUS_FAILED (c : Nat) : FieldRef := ⟨Reg.DDR_STATUS c, 28, 28⟩
def Reg.DDR_STATUS_CFG_ERR (c : Nat) : FieldRef := ⟨Reg.DDR_STATUS c, 27, 24⟩
def Reg.DDR_STATUS_CFG_IGNORED (c : Nat) : FieldRef := ⟨Reg.DDR_STATUS c, 0, 0⟩
def Reg.DDR_RETRAIN_CFG (c : Nat) : Nat := ddrBase c + 0x10
def Reg.DDR_RETRAIN_CFG_PERIOD (c : Nat) : FieldRef := ⟨Reg.DDR_RETRAIN_CFG c, 31, 16⟩
def Reg.DDR_RETRAIN_CFG_TEMP_DELTA (c : Nat) : FieldRef := ⟨Reg.DDR_RETRAIN_CFG c, 15, 8⟩
def Reg.DDR_RETRAIN_CFG_MAX_US (c : Nat) : FieldRef := ⟨Reg.DDR_RETRAIN_CFG c, 7, 0⟩
def Reg.DDR_SCRUB_CFG (c : Nat) : Nat := ddrBase c + 0x14
def Reg.DDR_SCRUB_CFG_INTERVAL (c : Nat) : FieldRef := ⟨Reg.DDR_SCRUB_CFG c, 23, 0⟩
def Reg.DDR_ERR_ADDR_LO (c : Nat) : Nat := ddrBase c + 0x18
def Reg.DDR_ERR_ADDR_HI (c : Nat) : Nat := ddrBase c + 0x1c
def Reg.DDR_ERR_INFO (c : Nat) : Nat := ddrBase c + 0x20
def Reg.DDR_ERR_INFO_UE (c : Nat) : FieldRef := ⟨Reg.DDR_ERR_INFO c, 31, 31⟩
def Reg.DDR_ERR_INFO_SRC (c : Nat) : FieldRef := ⟨Reg.DDR_ERR_INFO c, 30, 28⟩
def Reg.DDR_ERR_INFO_RANK (c : Nat) : FieldRef := ⟨Reg.DDR_ERR_INFO c, 27, 24⟩
def Reg.DDR_ERR_INFO_DEVICE (c : Nat) : FieldRef := ⟨Reg.DDR_ERR_INFO c, 23, 18⟩
def Reg.DDR_TRAIN_LAST (c : Nat) : Nat := ddrBase c + 0x24
def Reg.DDR_CE_CNT (c : Nat) : Nat := ddrBase c + 0x40
def Reg.DDR_UE_CNT (c : Nat) : Nat := ddrBase c + 0x44
def Reg.DDR_CAPAR_CNT (c : Nat) : Nat := ddrBase c + 0x48
def Reg.DDR_WCRC_CNT (c : Nat) : Nat := ddrBase c + 0x4c
def Reg.DDR_BUSY_CNT (c : Nat) : Nat := ddrBase c + 0x50
def Reg.DDR_RETRAIN_CNT (c : Nat) : Nat := ddrBase c + 0x54
def Reg.DDR_FWD_CNT (c : Nat) : Nat := ddrBase c + 0x58
def Reg.DDR_ILV : Nat := 0x7000008
def Reg.DDR_ILV_MODE : FieldRef := ⟨Reg.DDR_ILV, 1, 0⟩
def Reg.INST_STATUS : Nat := 0x10000
def Reg.INST_STATUS_STAGE : FieldRef := ⟨Reg.INST_STATUS, 31, 29⟩
def Reg.INST_STATUS_FAILED : FieldRef := ⟨Reg.INST_STATUS, 28, 28⟩
def Reg.INST_STATUS_COCOON : FieldRef := ⟨Reg.INST_STATUS, 27, 27⟩
def Reg.INST_STATUS_READY : FieldRef := ⟨Reg.INST_STATUS, 26, 26⟩
def Reg.INST_STATUS_CODE : FieldRef := ⟨Reg.INST_STATUS, 23, 16⟩
def Reg.INST_STATUS_CFG_IGNORED : FieldRef := ⟨Reg.INST_STATUS, 0, 0⟩
def Reg.INST_CTL : Nat := 0x10004
def Reg.INST_CTL_SERVICE : FieldRef := ⟨Reg.INST_CTL, 31, 31⟩
def Reg.INST_CTL_COCOON : FieldRef := ⟨Reg.INST_CTL, 30, 30⟩
def Reg.INST_READY_US : Nat := 0x10008
def Reg.INST_START_CNT : Nat := 0x1000c
def Reg.INST_CAP : Nat := 0x10010
def Reg.INST_CAP_SLICE_LOST : FieldRef := ⟨Reg.INST_CAP, 31, 31⟩
def Reg.INST_CAP_NRED : FieldRef := ⟨Reg.INST_CAP, 23, 16⟩
def Reg.INST_CAP_NABS : FieldRef := ⟨Reg.INST_CAP, 15, 8⟩
def Reg.INST_CAP_TABS : FieldRef := ⟨Reg.INST_CAP, 7, 0⟩
def Reg.INST_SUB_REQ : Nat := 0x10014
def Reg.INST_SUB_REQ_GO : FieldRef := ⟨Reg.INST_SUB_REQ, 31, 31⟩
def Reg.INST_SUB_REQ_TILE : FieldRef := ⟨Reg.INST_SUB_REQ, 30, 30⟩
def Reg.INST_SUB_REQ_HALF : FieldRef := ⟨Reg.INST_SUB_REQ, 29, 29⟩
def Reg.INST_SUB_REQ_ROW : FieldRef := ⟨Reg.INST_SUB_REQ, 28, 25⟩
def Reg.INST_SUB_REQ_COL : FieldRef := ⟨Reg.INST_SUB_REQ, 24, 19⟩
def Reg.INST_SUB_REQ_RESULT : FieldRef := ⟨Reg.INST_SUB_REQ, 18, 16⟩
def Reg.INST_IMG_BASE_LO : Nat := 0x10018
def Reg.INST_IMG_BASE_HI : Nat := 0x1001c
def Reg.INST_REC (j : Nat) : Nat := 0x10100 + j % 64 * 0x4
def Reg.INST_NROW (j : Nat) : Nat := 0x10400 + j % 32 * 0x4
def Reg.INST_NROW_REDUCED (j : Nat) : FieldRef := ⟨Reg.INST_NROW j, 31, 31⟩
def Reg.INST_NROW_LCOLS (j : Nat) : FieldRef := ⟨Reg.INST_NROW j, 29, 24⟩
def Reg.INST_NROW_NDEF (j : Nat) : FieldRef := ⟨Reg.INST_NROW j, 23, 18⟩
def Reg.INST_NROW_DEF1 (j : Nat) : FieldRef := ⟨Reg.INST_NROW j, 17, 12⟩
def Reg.INST_NROW_DEF0 (j : Nat) : FieldRef := ⟨Reg.INST_NROW j, 11, 6⟩
def Reg.INST_TROW (j : Nat) : Nat := 0x10480 + j % 8 * 0x4
def Reg.INST_TROW_REDUCED (j : Nat) : FieldRef := ⟨Reg.INST_TROW j, 31, 31⟩
def Reg.INST_TROW_LCOLS (j : Nat) : FieldRef := ⟨Reg.INST_TROW j, 29, 24⟩
def Reg.INST_TROW_NDEF (j : Nat) : FieldRef := ⟨Reg.INST_TROW j, 23, 18⟩
def Reg.INST_TROW_DEF1 (j : Nat) : FieldRef := ⟨Reg.INST_TROW j, 17, 12⟩
def Reg.INST_TROW_DEF0 (j : Nat) : FieldRef := ⟨Reg.INST_TROW j, 11, 6⟩
def Reg.BRX_STATUS (r : Nat) : Nat := brxBase r
def Reg.BRX_STATUS_STATE (r : Nat) : FieldRef := ⟨Reg.BRX_STATUS r, 31, 29⟩
def Reg.BRX_STATUS_CLR (r : Nat) : FieldRef := ⟨Reg.BRX_STATUS r, 28, 28⟩
def Reg.BRX_STATUS_NMISS (r : Nat) : FieldRef := ⟨Reg.BRX_STATUS r, 27, 16⟩
def Reg.BRX_STATUS_SESSION (r : Nat) : FieldRef := ⟨Reg.BRX_STATUS r, 15, 0⟩
def Reg.BRX_ERR_CNT (r : Nat) : Nat := brxBase r + 0x4
def Reg.BRX_MISS (r : Nat) : Nat := brxBase r + 0x8
def Reg.BRX_MISS_COUNT (r : Nat) : FieldRef := ⟨Reg.BRX_MISS r, 12, 0⟩
def Reg.FLT_STATUS : Nat := 0x40000
def Reg.FLT_STATUS_WB_FROZEN : FieldRef := ⟨Reg.FLT_STATUS, 31, 31⟩
def Reg.FLT_STATUS_WB_LEVEL : FieldRef := ⟨Reg.FLT_STATUS, 30, 30⟩
def Reg.FLT_STATUS_PREV_VALID : FieldRef := ⟨Reg.FLT_STATUS, 1, 1⟩
def Reg.FLT_STATUS_CFG_IGNORED : FieldRef := ⟨Reg.FLT_STATUS, 0, 0⟩
def Reg.FLT_REC_STATUS : Nat := 0x40004
def Reg.FLT_REC_STATUS_PENDING : FieldRef := ⟨Reg.FLT_REC_STATUS, 31, 31⟩
def Reg.FLT_REC_STATUS_CLEAR : FieldRef := ⟨Reg.FLT_REC_STATUS, 30, 30⟩
def Reg.FLT_REC_STATUS_REACT : FieldRef := ⟨Reg.FLT_REC_STATUS, 28, 24⟩
def Reg.FLT_REC_STATUS_LASTING : FieldRef := ⟨Reg.FLT_REC_STATUS, 23, 23⟩
def Reg.FLT_REC_STATUS_FIRST_SRC : FieldRef := ⟨Reg.FLT_REC_STATUS, 20, 16⟩
def Reg.FLT_REC_STATUS_COUNT : FieldRef := ⟨Reg.FLT_REC_STATUS, 15, 0⟩
def Reg.FLT_CTL : Nat := 0x40008
def Reg.FLT_CTL_INJECT : FieldRef := ⟨Reg.FLT_CTL, 31, 31⟩
def Reg.FLT_CTL_HOST : FieldRef := ⟨Reg.FLT_CTL, 30, 30⟩
def Reg.FLT_CTL_CORE : FieldRef := ⟨Reg.FLT_CTL, 10, 8⟩
def Reg.FLT_CTL_INJ_SRC : FieldRef := ⟨Reg.FLT_CTL, 4, 0⟩
def Reg.FLT_REC_SOURCES : Nat := 0x4000c
def Reg.FLT_REC_T_LO : Nat := 0x40010
def Reg.FLT_REC_T_HI : Nat := 0x40014
def Reg.FLT_REC_UNIT : Nat := 0x40018
def Reg.FLT_REC_UNIT_KIND : FieldRef := ⟨Reg.FLT_REC_UNIT, 31, 28⟩
def Reg.FLT_REC_UNIT_INDEX : FieldRef := ⟨Reg.FLT_REC_UNIT, 15, 0⟩
def Reg.FLT_REC_DETAIL : Nat := 0x4001c
def Reg.FLT_PREV (j : Nat) : Nat := 0x40020 + j % 6 * 0x4
def Reg.FLT_WDOG : Nat := 0x40040
def Reg.FLT_WDOG_EN : FieldRef := ⟨Reg.FLT_WDOG, 31, 31⟩
def Reg.FLT_WDOG_PERIOD_MS : FieldRef := ⟨Reg.FLT_WDOG, 15, 0⟩
def Reg.FLT_WDOG_KICK : Nat := 0x40044
def Reg.FLT_WDOG_KICK_KEY : FieldRef := ⟨Reg.FLT_WDOG_KICK, 7, 0⟩
def Reg.FLT_SRC_CFG (j : Nat) : Nat := 0x40100 + j % 26 * 0x10
def Reg.FLT_SRC_CFG_TREACT (j : Nat) : FieldRef := ⟨Reg.FLT_SRC_CFG j, 12, 8⟩
def Reg.FLT_SRC_CFG_LREACT (j : Nat) : FieldRef := ⟨Reg.FLT_SRC_CFG j, 4, 0⟩
def Reg.FLT_SRC_WIN (j : Nat) : Nat := 0x40104 + j % 26 * 0x10
def Reg.FLT_SRC_WIN_W (j : Nat) : FieldRef := ⟨Reg.FLT_SRC_WIN j, 31, 16⟩
def Reg.FLT_SRC_WIN_N (j : Nat) : FieldRef := ⟨Reg.FLT_SRC_WIN j, 7, 0⟩
def Reg.FLT_SRC_STAT (j : Nat) : Nat := 0x40108 + j % 26 * 0x10
def Reg.FLT_SRC_STAT_CAUSE (j : Nat) : FieldRef := ⟨Reg.FLT_SRC_STAT j, 31, 31⟩
def Reg.FLT_SRC_STAT_LASTING (j : Nat) : FieldRef := ⟨Reg.FLT_SRC_STAT j, 30, 30⟩
def Reg.FLT_SRC_STAT_WOPEN (j : Nat) : FieldRef := ⟨Reg.FLT_SRC_STAT j, 29, 29⟩
def Reg.FLT_SRC_STAT_WCOUNT (j : Nat) : FieldRef := ⟨Reg.FLT_SRC_STAT j, 23, 16⟩
def Reg.FLT_SRC_STAT_TICKS_LEFT (j : Nat) : FieldRef := ⟨Reg.FLT_SRC_STAT j, 15, 0⟩
def Reg.FLT_SRC_CNT (j : Nat) : Nat := 0x4010c + j % 26 * 0x10
def Reg.PWR_STATUS : Nat := 0x60004
def Reg.PWR_STATUS_CAP : FieldRef := ⟨Reg.PWR_STATUS, 31, 31⟩
def Reg.PWR_STATUS_HOLD : FieldRef := ⟨Reg.PWR_STATUS, 30, 27⟩
def Reg.PWR_STATUS_THERM : FieldRef := ⟨Reg.PWR_STATUS, 26, 26⟩
def Reg.PWR_STATUS_CFG_IGNORED : FieldRef := ⟨Reg.PWR_STATUS, 0, 0⟩
def Reg.PWR_HALF_OP (j : Nat) : Nat := 0x60010 + j % 2 * 0x10
def Reg.PWR_HALF_OP_FV (j : Nat) : FieldRef := ⟨Reg.PWR_HALF_OP j, 31, 29⟩
def Reg.PWR_HALF_OP_DCLK (j : Nat) : FieldRef := ⟨Reg.PWR_HALF_OP j, 23, 16⟩
def Reg.PWR_HALF_STAT (j : Nat) : Nat := 0x60014 + j % 2 * 0x10
def Reg.PWR_HALF_STAT_RAMPING (j : Nat) : FieldRef := ⟨Reg.PWR_HALF_STAT j, 31, 31⟩
def Reg.PWR_HALF_STAT_FV_NOW (j : Nat) : FieldRef := ⟨Reg.PWR_HALF_STAT j, 30, 28⟩
def Reg.PWR_HALF_STAT_DCLK_NOW (j : Nat) : FieldRef := ⟨Reg.PWR_HALF_STAT j, 23, 16⟩
def Reg.PWR_HALF_PWR (j : Nat) : Nat := 0x60018 + j % 2 * 0x10
def Reg.PWR_HALF_PWR_P (j : Nat) : FieldRef := ⟨Reg.PWR_HALF_PWR j, 15, 0⟩
def Reg.PWR_HALF_TEMP (j : Nat) : Nat := 0x6001c + j % 2 * 0x10
def Reg.PWR_HALF_TEMP_T (j : Nat) : FieldRef := ⟨Reg.PWR_HALF_TEMP j, 7, 0⟩
def Reg.PWR_THERM : Nat := 0x60030
def Reg.PWR_THERM_TWARN : FieldRef := ⟨Reg.PWR_THERM, 15, 8⟩
def Reg.PWR_THERM_AON_T : FieldRef := ⟨Reg.PWR_THERM, 7, 0⟩
def Reg.PWR_CAP_CNT : Nat := 0x60040
def Reg.PWR_BO_CNT : Nat := 0x60044
def Reg.PWR_ROOST_ABORT_CNT : Nat := 0x60048
def Reg.PWR_ISL_CTL (j : Nat) : Nat := 0x60100 + j % 102 * 0x8
def Reg.PWR_ISL_CTL_ROOST_EN (j : Nat) : FieldRef := ⟨Reg.PWR_ISL_CTL j, 31, 31⟩
def Reg.PWR_ISL_CTL_OFF (j : Nat) : FieldRef := ⟨Reg.PWR_ISL_CTL j, 30, 30⟩
def Reg.PWR_ISL_CTL_WAKE (j : Nat) : FieldRef := ⟨Reg.PWR_ISL_CTL j, 29, 29⟩
def Reg.PWR_ISL_CTL_IDLE_US (j : Nat) : FieldRef := ⟨Reg.PWR_ISL_CTL j, 15, 0⟩
def Reg.PWR_ISL_STAT (j : Nat) : Nat := 0x60104 + j % 102 * 0x8
def Reg.PWR_ISL_STAT_STATE (j : Nat) : FieldRef := ⟨Reg.PWR_ISL_STAT j, 31, 29⟩
def Reg.PWR_ISL_STAT_WAKE_SRC (j : Nat) : FieldRef := ⟨Reg.PWR_ISL_STAT j, 28, 25⟩
def Reg.PWR_ISL_STAT_ROOSTS (j : Nat) : FieldRef := ⟨Reg.PWR_ISL_STAT j, 15, 0⟩
def Reg.TRU_STATUS : Nat := 0x70000
def Reg.TRU_STATUS_ROM_LOCK : FieldRef := ⟨Reg.TRU_STATUS, 31, 31⟩
def Reg.TRU_STATUS_RECOVERY : FieldRef := ⟨Reg.TRU_STATUS, 30, 30⟩
def Reg.TRU_STATUS_SRC : FieldRef := ⟨Reg.TRU_STATUS, 29, 28⟩
def Reg.TRU_STATUS_DBG_OPEN : FieldRef := ⟨Reg.TRU_STATUS, 27, 27⟩
def Reg.TRU_STATUS_BUSY : FieldRef := ⟨Reg.TRU_STATUS, 26, 26⟩
def Reg.TRU_STATUS_CFG_IGNORED : FieldRef := ⟨Reg.TRU_STATUS, 0, 0⟩
def Reg.TRU_CTL : Nat := 0x70004
def Reg.TRU_CTL_DBG_LOCK : FieldRef := ⟨Reg.TRU_CTL, 31, 31⟩
def Reg.TRU_CTL_SIGN : FieldRef := ⟨Reg.TRU_CTL, 30, 30⟩
def Reg.TRU_CTL_MASK : FieldRef := ⟨Reg.TRU_CTL, 29, 22⟩
def Reg.TRU_CTL_EXTEND : FieldRef := ⟨Reg.TRU_CTL, 21, 21⟩
def Reg.TRU_CTL_EIDX : FieldRef := ⟨Reg.TRU_CTL, 20, 18⟩
def Reg.TRU_CTL_SRV_EN : FieldRef := ⟨Reg.TRU_CTL, 17, 17⟩
def Reg.TRU_CTL_RCV_GO : FieldRef := ⟨Reg.TRU_CTL, 16, 16⟩
def Reg.TRU_CTL_DBG_GO : FieldRef := ⟨Reg.TRU_CTL, 15, 15⟩
def Reg.TRU_SVN : Nat := 0x70008
def Reg.TRU_IMG_SVN : Nat := 0x7000c
def Reg.TRU_DEVICE_ID (j : Nat) : Nat := 0x70010 + j % 2 * 0x4
def Reg.TRU_SRV_PAGE : Nat := 0x70018
def Reg.TRU_SRV_PAGE_PAGE : FieldRef := ⟨Reg.TRU_SRV_PAGE, 7, 0⟩
def Reg.TRU_RCV_LEN : Nat := 0x7001c
def Reg.TRU_RCV_LEN_LEN : FieldRef := ⟨Reg.TRU_RCV_LEN, 22, 0⟩
def Reg.TRU_ATT_PK (j : Nat) : Nat := 0x70020 + j % 8 * 0x4
def Reg.TRU_EXT_DATA (j : Nat) : Nat := 0x70040 + j % 8 * 0x4
def Reg.TRU_NONCE (j : Nat) : Nat := 0x70060 + j % 8 * 0x4
def Reg.TRU_CHAL (j : Nat) : Nat := 0x70080 + j % 8 * 0x4
def Reg.TRU_MEAS (j : Nat) : Nat := 0x70100 + j % 64 * 0x4
def Reg.TRU_REPORT (j : Nat) : Nat := 0x71000 + j % 4368 * 0x4
def Reg.TRU_WIN (j : Nat) : Nat := 0x78000 + j % 8192 * 0x4

end Sys2Proof.Machine
end

