-- ==== Sys2Proof/Machine/RegMap.lean ====
section
/-! DEFINITION. Which register an offset of CSR space holds (R499), and the value it resets to. -/

namespace Sys2Proof.Machine

/-- The register of a layout that starts at offset o, with its number in its array. -/
def regFind : List RegDef → Nat → Option (RegDef × Nat)
  | [], _ => none
  | r :: rest, o =>
    if r.base ≤ o ∧ (o - r.base) % r.stride = 0 ∧ (o - r.base) / r.stride < r.count then some (r, (o - r.base) / r.stride)
    else regFind rest o

/-- The register at offset i of a tile block: its own, its DMA channels', its region set's, its sequencer cores'
(R499, R390, R395, R489). -/
def regInTile (i : Nat) : Option (RegDef × Nat) :=
  if i < 0x8000 then
    if 0x200 ≤ i ∧ i < 0x300 ∧ (i - 0x200) % 0x40 ≠ 0 then regFind regsDma ((i - 0x200) % 0x40)
    else if 0x400 ≤ i ∧ i < 0x600 then regFind regsRset (i - 0x400)
    else regFind regsTile i
  else if i < 0xA000 then
    let k := i % 0x1000
    if 0x100 ≤ k ∧ k < 0xE00 then regFind regsOwn k
    else if 0xE00 ≤ k ∧ k < 0xF20 then regFind regsRset (k - 0xE00)
    else if 0xF40 ≤ k then regFind regsBrx (k - 0xF40)
    else regFind regsSeq k
  else none

/-- The register at CSR offset o, with its number in its array; none where no register lies (R11, R499). -/
def regAt (o : Nat) : Option (RegDef × Nat) :=
  let i := o % 0x10000
  if o < 0x10000 then regFind regsAon i
  else if o < 0x20000 then regFind regsInst i
  else if o < 0x30000 then regFind regsChr i
  else if o < 0x40000 then regFind regsSet i
  else if o < 0x50000 then regFind regsFlt i
  else if o < 0x60000 then (if 0x400 ≤ i ∧ i < 0x600 then regFind regsRset (i - 0x400) else regFind regsTb i)
  else if o < 0x70000 then regFind regsPwr i
  else if o < 0x80000 then regFind regsTru i
  else if o < 0x100000 then none
  else if o < 0x300000 then regFind regsIng i
  else if o < 0x400000 then none
  else if o < 0x4400000 then (if 0x380 ≤ i ∧ i < 0x38C then regFind regsBrx (i - 0x380) else regFind regsNc i)
  else if o < 0x5000000 then none
  else if o < 0x5400000 then regInTile i
  else if o < 0x6000000 then none
  else if o < 0x6010000 then regFind regsMesh i
  else if o < 0x7000000 then none
  else if o < 0x7010000 then regFind (regsDdr ++ regsDdr0) i
  else if o < 0x7080000 then regFind regsDdr i
  else if o < 0x7100000 then none
  else if o < 0x71C0000 then (if 0x100 ≤ i ∧ i < 0x300 then regFind regsRset (i - 0x100) else regFind regsIbl i)
  else if o < 0x7200000 then none
  else if o < 0x7210000 then (if 0x2000 ≤ i then regFind regsRset (i - 0x2000) else regFind regsPcie i)
  else if o < 0x7300000 then none
  else if o < 0x7320000 then
    (if i < 0x400 ∧ i % 0x40 ≠ 0 then regFind regsDma (i % 0x40)
     else if 0x900 ≤ i then regFind regsRset (i - 0x900) else regFind regsBdma i)
  else if o < 0x7400000 then none
  else if o < 0x7410000 then (if 0x1000 ≤ i ∧ i < 0x1800 then regFind regsRset ((i - 0x1000) % 0x200) else regFind regsJrx i)
  else if o < 0x7500000 then none
  else if o < 0x7580000 then (if i < 0x1000 then regFind regsOwn i else none)
  else if o < 0x7590000 then regFind regsRset i
  else none

/-- The reset values of the sources' registers: transient set, lasting set, N and W of R520, with the N of R539. -/
def faultReset : List (Nat × Nat × Nat × Nat) := [
  (0, 1, 16, 60), (1, 3, 2, 3600), (0, 1, 64, 60), (1, 3, 2, 3600), (3, 3, 1, 1), (1, 1, 3, 3600), (0, 1, 255, 1),
  (1, 3, 3, 3600), (1, 1, 4, 60), (1, 11, 10, 1), (1, 1, 100, 1), (1, 11, 3, 60), (1, 1, 3, 60), (0, 1, 255, 1),
  (1, 3, 4, 60), (1, 1, 16, 60), (1, 1, 16, 60), (3, 11, 2, 60), (1, 1, 1, 1), (3, 3, 1, 1), (1, 1, 2, 3600),
  (1, 3, 3, 60), (1, 11, 3, 1), (11, 16, 2, 60), (1, 1, 16, 60), (11, 11, 1, 1)]

/-- Whether island i may roost (R564): tiles, Exchange halves, DDR4 channels, trust. -/
def islandCanRoost (i : Nat) : Bool := decide (i < 64) || decide (72 ≤ i ∧ i < 82) || decide (i = 101)

/-- The reset value of a register by its fields. -/
def fieldsReset : List FieldDef → Nat
  | [] => 0
  | f :: r => f.reset <<< f.lo + fieldsReset r

/-- What the register at CSR offset o reads after reset (the Reset columns of the register tables). -/
def regReset (o : Nat) : Word :=
  if 0x40100 ≤ o ∧ o < 0x402A0 then
    let (t, l, n, w) := faultReset.getD ((o - 0x40100) / 16) (0, 0, 0, 0)
    if o % 16 = 0 then BitVec.ofNat 32 (t * 256 + l)
    else if o % 16 = 4 then BitVec.ofNat 32 (w * 65536 + n) else 0
  else if 0x60100 ≤ o ∧ o < 0x60430 ∧ o % 8 = 0 ∧ !islandCanRoost ((o - 0x60100) / 8) then 100
  else match regAt o with
    | some (r, _) => BitVec.ofNat 32 (fieldsReset r.fields)
    | none => 0

end Sys2Proof.Machine
end

