-- ==== Sys2Proof/Machine/Tab.lean ====
section
/-! DEFINITION. Sparse tables by number, in one canonical form: keys strictly rising, no entry equal to what
an unlisted key reads as. Memories, the register file and the per-unit states are such tables. -/

namespace Sys2Proof.Machine

/-- The value at key k; d says what an unlisted key reads as. -/
def tabGet {α : Type} (d : Nat → α) : List (Nat × α) → Nat → α
  | [], k => d k
  | (k', v) :: r, k => if k = k' then v else tabGet d r k

/-- The table with v at key k, in canonical form. -/
def tabPut {α : Type} [DecidableEq α] (d : Nat → α) : List (Nat × α) → Nat → α → List (Nat × α)
  | [], k, v => if v = d k then [] else [(k, v)]
  | (k', v') :: r, k, v =>
    if k < k' then (if v = d k then (k', v') :: r else (k, v) :: (k', v') :: r)
    else if k = k' then (if v = d k then r else (k, v) :: r)
    else (k', v') :: tabPut d r k v

/-- The canonical form: every key is above lo, keys rise strictly, no entry holds what an unlisted key reads. -/
def tabWfFrom {α : Type} [DecidableEq α] (d : Nat → α) : Nat → List (Nat × α) → Bool
  | _, [] => true
  | lo, (k, v) :: r => decide (lo ≤ k) && decide (v ≠ d k) && tabWfFrom d (k + 1) r

/-- The canonical form of a table. -/
def tabWf {α : Type} [DecidableEq α] (d : Nat → α) (l : List (Nat × α)) : Bool := tabWfFrom d 0 l

/-! ### Memories -/

/-- The DDR4 channel of an address, for interleave mode m and channels of cc bytes (R409). -/
def chanOf (m cc a : Nat) : Nat :=
  if m = 1 then
    let h := if 4 * cc ≤ a then 1 else 0
    let b := a - h * (4 * cc)
    4 * h + (bits b 9 8 ^^^ bits b 17 16)
  else if m = 2 then a / cc
  else bits a 10 8 ^^^ bits a 18 16

/-- Which addresses of a range a fill takes in: all, those of n slices from the first (R219), those of a DDR4 channel. -/
inductive Span where
  | all
  | slices (first n : Nat)
  | chan (mode cap c : Nat)
  deriving DecidableEq, Repr

/-- Whether a span takes in address a. -/
def Span.holds : Span → Nat → Bool
  | .all, _ => true
  | .slices first n, a => decide (first ≤ bits a 13 6) && decide (bits a 13 6 < first + n)
  | .chan mode cap c, a => decide (chanOf mode cap a = c)

/-- A range of a memory whose contents were set as a whole: the bytes of a span among n bytes from lo, to zero (gen none)
or to contents the manual calls unpredictable (gen g: the g-th such event). -/
structure Fill where
  lo : Nat
  n : Nat
  gen : Option Nat
  span : Span
  deriving DecidableEq, Repr

/-- Whether a fill takes in address a. -/
def Fill.holds (f : Fill) (a : Nat) : Bool := decide (f.lo ≤ a) && decide (a < f.lo + f.n) && f.span.holds a

/-- A memory: the bytes that were written one by one, by address, over the ranges that were set as a whole, newest
first. -/
structure Memory where
  cells : List Host.Cell
  fills : List Fill
  deriving DecidableEq, Repr

/-- What a byte reads as that nothing has written: the contents of the newest range that holds it, else the contents
at power-on, which the manual leaves open (log entry 2). -/
def fillByte : List Fill → Nat → BitVec 8
  | [], a => Config.memByte 0 a
  | f :: r, a =>
    if f.holds a then
      match f.gen with
      | none => 0
      | some g => Config.memByte (g + 1) a
    else fillByte r a

/-- The byte of a memory at an address. -/
def Memory.get (m : Memory) (a : Nat) : BitVec 8 := tabGet (fillByte m.fills) m.cells a

/-- A memory with one byte written. -/
def Memory.put (m : Memory) (a : Nat) (b : BitVec 8) : Memory := { m with cells := tabPut (fillByte m.fills) m.cells a b }

/-- The canonical form of a memory: addresses rise strictly, no entry equals what an unlisted address reads as. -/
def Memory.wf (m : Memory) : Bool := tabWf (fillByte m.fills) m.cells

/-- The n bytes of a memory from address a. -/
def Memory.read (m : Memory) : Nat → Nat → List (BitVec 8)
  | _, 0 => []
  | a, n + 1 => m.get a :: Memory.read m (a + 1) n

/-- A memory with the bytes l written from address a. -/
def Memory.write (m : Memory) : Nat → List (BitVec 8) → Memory
  | _, [] => m
  | a, b :: r => Memory.write (m.put a b) (a + 1) r

/-- Whether a fill f leaves nothing to be seen of a fill g. -/
def Fill.hides (f g : Fill) : Bool := decide (f.span = .all) && decide (f.lo ≤ g.lo) && decide (g.lo + g.n ≤ f.lo + f.n)

/-- A memory with n bytes from lo set as a whole; fills of which nothing is left to be seen are dropped. -/
def Memory.fill (m : Memory) (f : Fill) : Memory :=
  { cells := m.cells.filter fun c => !f.holds c.1, fills := f :: m.fills.filter fun g => !f.hides g }

/-- A memory at power-on. -/
def Memory.fresh : Memory := ⟨[], []⟩

/-- A memory that reads zero everywhere. -/
def Memory.zeroed : Memory := ⟨[], [⟨0, 2 ^ 48, none, .all⟩]⟩

end Sys2Proof.Machine
end

