-- ==== Sys2Proof/Machine/Units.lean ====
section
/-! DEFINITION. The units of the device that hold state beside the register file: what each keeps between two
commands. Numbers the manual counts or indexes are Nat; words the manual treats as bits are BitVec. -/

namespace Sys2Proof.Machine

/-! ### What the device puts out -/

/-- A message, an interrupt or a reply that a command makes the device put out. A command that stands for the
arrival of such a message carries the message's contents itself. -/
inductive Emit where
  /-- A fault event on its way to the collector (R521): source, unit kind, unit index, detail. -/
  | fault (src kind index : Nat) (detail : Word)
  /-- An interrupt line of core o (a sequencer core below 128, application core 128 + c) raised or withdrawn:
  cause 0 fault record, 1 queue, 2 timer, 3 machine timer, 4 DMA channel, 5 tile error, 6 halted command queue; number of
  the queue, timer or channel. -/
  | irq (o cause number : Nat) (level : Bool)
  /-- The resumable non-maskable interrupt to every application core (R522). -/
  | nmi
  /-- An MSI-X vector fires. -/
  | msix (vector : Nat)
  /-- The reply to a load, an Exchange read or a host read: the value read. -/
  | readValue (v : Nat)
  /-- The acknowledgement of a write or another access without a value. -/
  | ack
  /-- Answers on PCIe (R474): Unsupported Request; Request Retry Status; a Configuration Request's data: bus master, memory space,
  Max_Payload_Size, Max_Read_Request_Size. -/
  | unsupported
  | retry
  | config (busMaster memEnable : Bool) (mps mrrs : Nat)
  /-- An access refused: the cause is the STATUS code of R297, the address is the one accessed. -/
  | refused (status addr : Nat)
  /-- A request, reply, forwarded request or contribution of a TYPE on the mesh: for endpoint dst, from src, with its SEQ, whether it
  carries POISON, and the payloads of its cells (R294 to R298). -/
  | cell (type dst src seq : Nat) (poison : Bool) (cells : List (List Byte))
  /-- A TWIN cell on a link (R442): kind, sender's generation, role and device, T or FIRST, COUNT, SUM. -/
  | twin (link kind gen role devid t count sum : Nat)
  /-- A TSYNC cell on a link (R319): request or reply, exchange number, T1, T2 and T3 in units of 2^−16 ns. -/
  | tsync (link : Nat) (reply : Bool) (no t1 t2 t3 : Nat)
  /-- A codeword on a link (R316, R318): CW_SEQ, none where the retry buffer is full, and its forty slots, link flits in 0 and 20. -/
  | codeword (link : Nat) (seq : Option Nat) (slots : List (BitVec 128))
  /-- A cell that this device passes on by a link on ESC (R314): destination, source with its tag, TYPE, FLAGS, payload. -/
  | esc (link dst src type flags : Nat) (data : List Byte)
  /-- A control-network packet: kind and words (R312). -/
  | ctrl (kind : Nat) (words : List Nat)
  /-- A CTRL cell on a link, with the words of a control-network packet (R312, R319). -/
  | ctrlCell (link : Nat) (words : List Nat)
  /-- A flash transaction on xSPI (R512): instruction, dummy units, address if sent, direction, bytes. -/
  | xspi (instr dummy : Nat) (addr : Option Nat) (dir : Bool) (data : List Byte)
  /-- The boundary token of step u on the wave tree (R136). -/
  | token (u : Nat)
  /-- END(u) of a source on the completion tree (R139): kind 0 neuron core, 1 ingest stream, 2 context source. -/
  | endReport (kind index u : Nat)
  /-- A write of bytes to host space (R375). -/
  | hostWrite (addr : Nat) (data : List Byte)
  /-- A read of n bytes of host space (R375). -/
  | hostRead (addr n : Nat)
  /-- An output record to the time base (R120): core, neuron, grade, step. -/
  | outRecord (n j grade u : Nat)
  /-- An EV cell (R131): destination device and core, source, its index among its source's cells of the step, IMM, EP, its events. -/
  | ev (dev core src seq : Nat) (imm ep : Bool) (events : List Word)
  /-- A SYNC_OP cell (R353) for a device's object: operation 0 SIGNAL to 4 READ, argument, watcher QN, sender with its tag. -/
  | sync (dev obj op arg wqn src : Nat)
  /-- A watch's notice (R357) for the watcher named by a QN: time, object, its device, KIND, value, threshold, EQ, sender. -/
  | notice (wqn time obj dev kind value thr : Nat) (eq : Bool) (src : Nat)
  /-- A queue message (R342) for a queue of an owner of a device: sender, whether on an alternate route, its cells. -/
  | qmsg (dev owner queue src : Nat) (alt : Bool) (cells : List (List Byte))
  /-- A STATUS reply (R297) to a requester, with the request's tag: code, bytes 1 and 2, the value in bytes 4 to 7. -/
  | status (dst code b1 b2 value : Nat)
  /-- What leaves the device on an alternate route: FLAGS.ALT = 1 (R298, R314). -/
  | onAlt (e : Emit)
  deriving DecidableEq, Repr

/-! ### AON: supplies, Instars, WINGBEAT, twins (chapters 14, 15, 17, 19, 20) -/

/-- The AON island beside its registers. -/
structure Aon where
  /-- Why the chip reset is held: 0 PWR_GOOD low, 1 VIN collapse, 2 VAON low, 3 thermal stop. -/
  held : List Nat
  /-- The TAP's override holds PWR_GOOD low (R595). No command of the table sets it (log entry 111). -/
  tapHold : Bool
  /-- Supplies outside their recommended range (R554): 0 VIN_W, 1 VIN_E. -/
  supplyOut : List Nat
  /-- Sensors above TWARN: 0 to 15 the halves', 16 the AON sensor (R562). -/
  hot : List Nat
  /-- The sensors' last readings in °C (R562); rails that ramp: 2h the fabric rail of half h, 2h + 1 its dense rail (R559). -/
  temps : List (Nat × Int)
  ramps : List Nat
  /-- The straps sampled at PWR_GOOD: DEVID and TWIN_ROLE (R440, R587). -/
  straps : Nat × Bool
  /-- The AON PLL has locked and the system counter runs (R416). -/
  pll : Bool
  /-- The model's time at PWR_GOOD (R470). -/
  goodAt : Nat
  /-- The model's time at the last change of STAGE in a failed Instar, and whether it shows the complement (R471). -/
  stageAt : Nat
  stageInv : Bool
  /-- The counter at the last WINGBEAT edge and at the last release of WINGBEAT (R532). -/
  wbLast : Nat
  wbRel : Nat
  /-- The watchdog's period began at this time (R536). -/
  wdogAt : Nat
  /-- Twin service (R442 to R452): time Instar 6 was reached; an edge was seen since; time of the last edge;
  times of the last HELLO received and sent; a HELLO has arrived since the reset; PARTNER_UP has been 1 since Instar 6 was reached; the
  pending swap's SWAP_ACK has come; the counter at which a standby takes over by swap. -/
  reached6 : Nat
  wbSeen : Bool
  wbEdgeAt : Nat
  helloAt : Option Nat
  helloSent : Nat
  helloSeen : Bool
  partnerSeen : Bool
  swapAcked : Bool
  swapActiveAt : Option Nat
  /-- Digest windows (R466), each with first step, count and sum: in progress; closed and not yet sent; sent and
  not yet compared; the partner's, not yet compared. None where the step generator was not enabled throughout. -/
  digNow : Option (Nat × Nat × Nat)
  digPrev : List (Nat × Nat × Nat)
  digOwn : List (Nat × Nat × Nat)
  digPeer : List (Nat × Nat × Nat)
  /-- Whether PCIe has REFCLK and PERST_N deasserted, its link trains, is up; bus master and memory space enable (R474). -/
  pcieTraining : Bool
  pcieUp : Bool
  pcieBusMaster : Bool
  pcieMemEnable : Bool
  /-- Max_Payload_Size and Max_Read_Request_Size in bytes (R375). -/
  pcieMps : Nat
  pcieMrrs : Nat
  /-- The number of slow ticks passed, and the system counter at the last (R29). -/
  slowTicks : Nat
  tickAt : Nat
  /-- Links that Instar 5 held with EN = 0 (R455). -/
  heldLinks : List Nat
  /-- Units pending remapping after a substitution: tile row?, half, row, column (R479). -/
  subPend : Option (Bool × Nat × Nat × Nat)
  /-- The defective physical columns the rows are mapped around (R477): row 16h + y of neuron cores, 32 + 4h + ty of tiles; column. -/
  defects : List (Nat × Nat)
  /-- Instar 4 wrote the image copy (R483); INST_IMG_BASE is locked (R486, R493). -/
  imgCopied : Bool
  imgLocked : Bool
  deriving DecidableEq, Repr

/-- The AON island after a chip reset at power-on. -/
def Aon.init : Aon where
  held := [0]
  tapHold := false
  supplyOut := []
  hot := []
  temps := []
  ramps := []
  straps := (0, false)
  pll := false
  goodAt := 0
  stageAt := 0
  stageInv := false
  wbLast := 0
  wbRel := 0
  wdogAt := 0
  reached6 := 0
  wbSeen := false
  wbEdgeAt := 0
  helloAt := none
  helloSent := 0
  helloSeen := false
  partnerSeen := false
  swapAcked := false
  swapActiveAt := none
  digNow := none
  digPrev := []
  digOwn := []
  digPeer := []
  pcieTraining := false
  pcieUp := false
  pcieBusMaster := false
  pcieMemEnable := false
  pcieMps := 128
  pcieMrrs := 512
  slowTicks := 0
  tickAt := 0
  heldLinks := []
  subPend := none
  defects := []
  imgCopied := false
  imgLocked := false

/-! ### Settings store (R514 to R517), trust (chapter 18), Chrysalis (R500 to R508) -/

/-- One physical copy of a sector's bookkeeping: its sequence number and whether its CRC holds (R516). -/
structure SectorCopy where
  seq : Nat
  crcOk : Bool
  deriving DecidableEq, Repr

/-- The state of a copy at manufacture: sequence 0, CRC good. -/
def SectorCopy.init : SectorCopy := ⟨0, true⟩

/-- The settings store. -/
structure Settings where
  /-- The bytes of the two copies of every sector, by MRAM address. -/
  dataA : Memory
  dataB : Memory
  /-- The bookkeeping of the two copies, by sector. -/
  copyA : List (Nat × SectorCopy)
  copyB : List (Nat × SectorCopy)
  /-- Sectors stored in the present slow tick (R517). -/
  storedNow : List Nat
  /-- The STORE in progress is programming (not waiting on THROTTLE). -/
  programming : Bool
  /-- The manufacturer page's lock word says locked (R514). -/
  mfgLockWord : Bool
  deriving DecidableEq, Repr

/-- The store with nothing programmed since manufacture. -/
def Settings.init : Settings where
  dataA := Memory.zeroed
  dataB := Memory.zeroed
  copyA := []
  copyB := []
  storedNow := []
  programming := false
  mfgLockWord := true

/-- The trust island beside its registers. -/
structure Trust where
  /-- The verified image, as read (R511). -/
  image : List Byte
  /-- The staging area of R548 and its owner: none, false the twin, true the host. -/
  staging : Memory
  stagingOwner : Option Bool
  /-- The report body taken at the SIGN write (R546). -/
  body : Option (List Byte)
  deriving DecidableEq, Repr

/-- The trust island after a chip reset. -/
def Trust.init : Trust := ⟨[], Memory.zeroed, none, none⟩

/-- The Chrysalis beside its registers. -/
structure Chrysalis where
  /-- The instant of an ARMED batch: step number for STEP, counter value for TIME (R504). -/
  at_ : Nat
  /-- Entries that wait in neuron cores' shadow registers for step 3 of R112: core, ADDR, VALUE, MASK (R505). -/
  shadow : List (Nat × Word × Word × Word)
  /-- The boundary at which those entries are due. -/
  due : Nat
  /-- The entries as sent to the shadow registers at ARMED: ADDR, VALUE, MASK in index order. -/
  armed : List (Word × Word × Word)
  deriving DecidableEq, Repr

/-- The Chrysalis after a chip reset. -/
def Chrysalis.init : Chrysalis := ⟨0, [], 0, []⟩

/-! ### Ingest streams (chapter 2) -/

/-- A channel of an encoder (R67): envelope, reference, last crossing (0 none, 1 up, 2 down), gap count, and the real
part of its previous sample. -/
structure Channel where
  e : Int
  r : Int
  last : Nat
  g : Nat
  prev : Int
  deriving DecidableEq, Repr

/-- A channel before its stream is enabled. -/
def Channel.init : Channel := ⟨0, 0, 0, 0, 0⟩

/-- A cell that waits in an encoder's deferral queue (R74): the channel of its first event, its core, its events. -/
structure EncCell where
  chan : Nat
  core : Nat
  events : List Word
  deriving DecidableEq, Repr

/-- A record of the raw tap (R77): type, stamp of its first sample or entry and the end of its span in units of
2^−16 ns, the samples of the run it holds, COUNT, FLAGS, SEQ, its body, its place in DDR4. -/
structure TapRec where
  kind : Nat
  time : Nat
  ends : Nat
  lo : Nat
  hi : Nat
  count : Nat
  flags : Nat
  seq : Nat
  body : List Byte
  addr : Nat
  deriving DecidableEq, Repr

/-- An ingest stream beside its registers: its encoder, its raw tap, its alignment. -/
structure Stream where
  /-- The integrators and combs of the decimator, I then Q; input samples since the last output (R61). -/
  integI : List Int
  integQ : List Int
  combI : List Int
  combQ : List Int
  phase : Nat
  /-- Decimator outputs of the frame in progress, oldest first, and the frames before it, newest first (R62). -/
  frame : List (Int × Int)
  frames : List (List (Int × Int))
  /-- Channels by number; an unlisted channel stands as init with its table entry's INIT (R67). -/
  chans : List (Nat × Channel)
  /-- Cells charged to the present step (R74) and the deferral queue, in ascending channel order. -/
  spent : Nat
  defq : List EncCell
  /-- The model's time of the enable (R56). -/
  enabledAt : Nat
  /-- Subclass 1: a SYSREF edge has come since every lane holds extended-multiblock lock (R601). -/
  phaseSet : Bool
  /-- Marked absent by a release failure, so it does not return by itself (R50). -/
  relAbs : Bool
  /-- The absent stream has aligned and returns at the next boundary (R58). -/
  returning : Bool
  /-- The tap is on since the last record boundary (R76). -/
  tapOn : Bool
  /-- The sample record in progress, and the event-log record in progress with its model time (R77). -/
  samples : Option TapRec
  events : Option (TapRec × Nat)
  /-- The number of the next record, records dropped since the last one written (R80), samples of this run. -/
  seq : Nat
  dropped : Nat
  nsamp : Nat
  /-- Ranges of samples whose multiblock was found bad or corrected, with the FLAGS bits (R59). -/
  flagged : List (Nat × Nat × Nat)
  /-- Records in the tap buffer, oldest first (R79, R80); sample records in the ring, without their bodies, whose multiblocks are not
  all checked (R59); window closing times in ns (R261). -/
  queue : List TapRec
  written : List TapRec
  windows : List Nat
  /-- The end of the last sample record whose write was acknowledged; an absent marker was written since (R261, R262). -/
  acked : Nat
  marked : Bool
  deriving DecidableEq, Repr

/-- A stream after reset. -/
def Stream.init : Stream where
  integI := []
  integQ := []
  combI := []
  combQ := []
  phase := 0
  frame := []
  frames := []
  chans := []
  spent := 0
  defq := []
  enabledAt := 0
  phaseSet := false
  relAbs := false
  returning := false
  tapOn := false
  samples := none
  events := none
  seq := 0
  dropped := 0
  nsamp := 0
  flagged := []
  queue := []
  written := []
  windows := []
  acked := 0
  marked := false

/-! ### Neuron cores and their routers (chapters 3 to 5) -/

/-- A cell of a core's emitter (R133): destination device and core, its events in order, the lowest OUT_PRI among them
and the lowest neuron among them (R145). -/
structure OutCell where
  dev : Nat
  core : Nat
  pri : Nat
  neuron : Nat
  events : List Word
  deriving DecidableEq, Repr

/-- An EV cell left on the mesh (R142): IMM, EP, events, the link it came by. -/
structure EvIn where
  imm : Bool
  ep : Bool
  events : List Word
  link : Option Nat
  deriving DecidableEq, Repr

/-- A scan in progress that is held (R146): its step, the neurons not yet visited, firings and dirty neurons so far. -/
structure ScanSt where
  step : Nat
  todo : List Nat
  fired : Nat
  dirty : Nat
  deriving DecidableEq, Repr

/-- A neuron core and its router beside their registers. -/
structure CoreSt where
  /-- The timing wheel: slot and event, in arrival order (R140). -/
  wheel : List (Nat × Word)
  /-- EV cells left on the mesh by a full wheel, oldest first (R142). -/
  mesh : List EvIn
  /-- Events offered to the core or held at its input, oldest first. -/
  input : List Word
  /-- Cells charged to the present emission step, by direction E, W, N, S, L (R143). -/
  charge : List Nat
  /-- The deferral queue in the order of R145; open cells in the order of their first events; cells that wait for room
  in the queue while the scan is held. -/
  defq : List OutCell
  opens : List OutCell
  stuck : List OutCell
  scan : Option ScanSt
  /-- Boundaries whose scan waits behind a held scan, and those whose steps 3 to 5 of R112 wait with it. -/
  owed : List Nat
  rest : List Nat
  /-- The next boundary token, and the run of the step generator it belongs to. -/
  tok : Nat
  run : Nat
  /-- Plasticity (R177, R181): 0 off, 1 clearing, 2 waiting for the boundary that begins an epoch, 3 recording, 4 a
  commit runs, 5 a commit ended in this step; PL_EN as of the last boundary; recording steps left; steps and rows of the
  running commit. -/
  plPhase : Nat
  plOn : Bool
  plLeft : Nat
  plSteps : Nat
  plRows : Nat
  /-- The segments of this epoch: BASE and granules (R174); the rows whose u the next commit leaves open (R182). -/
  plSegs : List (Nat × Nat)
  plOpen : List Nat
  deriving DecidableEq, Repr

/-- A core after reset. -/
def CoreSt.init : CoreSt where
  wheel := []
  mesh := []
  input := []
  charge := []
  defq := []
  opens := []
  stuck := []
  scan := none
  owed := []
  rest := []
  tok := 0
  run := 0
  plPhase := 0
  plOn := false
  plLeft := 0
  plSteps := 0
  plRows := 0
  plSegs := []
  plOpen := []

/-! ### Ibnum links (chapter 9) -/

/-- A cell at an Ibnum port: its VN (R295); of a tagged EV cell its parity and, where it only passes through the device, the link
it came by (R153, R324); on the last cell of an RQ its requester (R325); its header and payload (R294). -/
structure LCell where
  vn : Nat
  ev : Option (Bool × Option Nat)
  rq : Option Nat
  wire : DWord × List Byte
  deriving DecidableEq, Repr

/-- A codeword that awaits its acknowledgement (R320): CW_SEQ, how often it has been replayed, the cells that end in it, its 38 cell
flits. -/
structure Codeword where
  seq : Nat
  replays : Nat
  cells : List LCell
  flits : List (BitVec 128)
  deriving DecidableEq, Repr

/-- An Ibnum link beside its registers. -/
structure LinkSt where
  /-- EV cells of parity 0 and of parity 1 that came by this link and have been accepted since the last report (R153). -/
  acc0 : Nat
  acc1 : Nat
  /-- The egress queue and the retry buffer, oldest first (R317, R320). -/
  out : List LCell
  retry : List Codeword
  /-- The next CW_SEQ; the cell begun in the last codeword that ends in the next, and its flits left; cells sent since the last link-local cell, up to 15; cells a
  waiting link-local cell has stood behind; the class served last in the round (R316, R317). -/
  txSeq : Nat
  part : Option LCell
  carry : List (BitVec 128)
  since : Nat
  waited : Nat
  turn : Nat
  /-- EV cells the far end has decoded and not yet reported accepted (R153). -/
  far : List (Bool × Option Nat)
  /-- The last CW_SEQ received in order; codewords are dropped until a replay; consecutive uncorrectable ones (R320). -/
  rxSeq : Option Nat
  gone : Bool
  unc : Nat
  /-- VNs the partner has stopped; cells this port holds of VN 0 to 5, and whether it has stopped them (R321). -/
  xoff : Nat
  held : List Nat
  stop : List Bool
  /-- The width a retraining is limited to; it is by the link's own action; the link came back from one of those during a job;
  entries return at the next boundary (R326, R327). -/
  limit : Option Nat
  auto : Bool
  bench : Bool
  clearAlt : Bool
  /-- TSYNC (R323): exchange number, T1 of the exchange that is open in units of 2^−16 ns, time of the last request. -/
  tsNo : Nat
  tsT1 : Option Nat
  tsAt : Nat
  deriving DecidableEq, Repr

/-- A link after reset. -/
def LinkSt.init : LinkSt where
  acc0 := 0
  acc1 := 0
  out := []
  retry := []
  txSeq := 0
  part := none
  carry := []
  since := 15
  waited := 0
  turn := 0
  far := []
  rxSeq := none
  gone := false
  unc := 0
  xoff := 0
  held := List.replicate 6 0
  stop := List.replicate 6 false
  limit := none
  auto := false
  bench := false
  clearAlt := false
  tsNo := 0
  tsT1 := none
  tsAt := 0

/-! ### Dense tiles and conversion units (chapters 6 and 7) -/

/-- A descriptor: its eight words and the core that queued it, 2t + 1 where odd holds. -/
structure Desc where
  words : List Word
  odd : Bool
  deriving DecidableEq, Repr

/-- A core's side of a tile: its command port's words, its command queue, descriptors whose store of word 7 stalls (R196). -/
structure Port where
  words : List Word
  queue : List (List Word)
  stalled : List (List Word)
  deriving DecidableEq, Repr

/-- A Fetch item in the operand buffer's ring (R209): its number, FPOS where it begins, whether it is still speculative,
has arrived, and waits to be read again after a write (R213). -/
structure FItem where
  q : Nat
  fpos : Nat
  spec : Bool
  here : Bool
  stale : Bool
  deriving DecidableEq, Repr

/-- A FETCH that has started: next item to issue, final level-2 trip count once known, items issued and not yet posted. -/
structure FRun where
  d : Desc
  next : Nat
  final : Option Nat
  items : List FItem
  deriving DecidableEq, Repr

/-- A dense tile beside its registers, operand buffers and accumulators. -/
structure TileSt where
  even : Port
  odd : Port
  /-- The dispatcher takes from the odd core next; a TSET that waits in the dispatcher. -/
  turn : Bool
  tset : Option Desc
  /-- The engines' queues: Fetch, Array, Drain. -/
  fq : List Desc
  aq : List Desc
  dq : List Desc
  /-- FETCH descriptors started, oldest first; the MMA in progress with its AOBs done; the DRAIN whose writes have been
  issued, with the ranges it wrote. -/
  fetch : List FRun
  mma : Option (Desc × Nat)
  drain : Option Desc
  drained : List (Nat × Nat)
  /-- Poisoned granules: 8,192·buffer + granule, with the TILE_ERR code. -/
  poison : List (Nat × Nat)
  /-- Base and length of the last ring used: Fetch in buffer b at b, Array at 2 + b. -/
  rings : List (Nat × (Nat × Nat))
  deriving DecidableEq, Repr

/-- A tile after reset. -/
def TileSt.init : TileSt where
  even := ⟨List.replicate 8 0, [], []⟩
  odd := ⟨List.replicate 8 0, [], []⟩
  turn := false
  tset := none
  fq := []
  aq := []
  dq := []
  fetch := []
  mma := none
  drain := none
  drained := []
  poison := []
  rings := []

/-- An access of a core to its conversion unit (R249), at an offset of its private addresses: a word stored, one or two bytes stored to
CVU_BLK, n bytes loaded. -/
inductive CvuOp where
  | store (o : Nat) (w : Word)
  | bytes (o : Nat) (l : List Byte)
  | load (o n : Nat)
  deriving DecidableEq, Repr

/-- A conversion unit (R249 to R251): its words CTL and STAT, CVU_DATA, CVU_BLK and CVU_RESID; what the running conversion
will write, with the bits of STAT it keeps and those it sets; accesses that stall, oldest first. -/
structure Cvu where
  ctl : Word
  stat : Word
  data : List Word
  blk : List Byte
  resid : List Word
  next : Option (List Word × List Byte × List Word × Word × Word)
  stalled : List CvuOp
  deriving DecidableEq, Repr

/-- A conversion unit after a chip reset. -/
def Cvu.init : Cvu := ⟨0, 0, List.replicate 32 0, List.replicate 48 0, List.replicate 32 0, none, []⟩

/-- A sequencer core beside its registers: the address at which it last left reset (R217). -/
structure SeqSt where
  start : DWord
  /-- M mode, in which it left reset. -/
  machineMode : Bool
  /-- The dynamic rounding mode of its fcsr: 0b100 is RMM (R235). -/
  frm : BitVec 3
  /-- What its last LR read: local address, bytes, value (R401). -/
  lr : Option (Nat × Nat × Nat)
  deriving DecidableEq, Repr

/-- A sequencer core after a chip reset. -/
def SeqSt.init : SeqSt := ⟨0, true, 4, none⟩

/-! ### Interfaces to the mesh (R295, R310) -/

/-- An endpoint's interface: the tag of its next request, the cells of reply space it holds of 64, requests that wait for reply space
with the cells each needs, oldest first. -/
structure Iface where
  tag : Nat
  held : Nat
  wait : List (Nat × Emit)
  deriving DecidableEq, Repr

/-- An interface after reset. -/
def Iface.init : Iface := ⟨0, 0, []⟩

/-- A control-network request to another device that awaits its response (R312): who made it (0 the AON controller, 1 JTAG, 2 PCIe, 3 + c
application core c, 16 + k a device behind link k), its tag, whether it is a write. -/
structure CtrlReq where
  who : Nat
  tag : Nat
  write : Bool
  deriving DecidableEq, Repr

/-! ### Queues, slots and senders (chapter 10) -/

/-- A message in a queue (R335): cells, kind, sender, its rank, AUX, whether it travelled with ALT, the cells that stand in
the FIFO or have arrived with their POISON bits, how many have been popped, whether its LAST cell has been placed. -/
structure QMsg where
  n : Nat
  kind : Nat
  src : Nat
  rank : Nat
  aux : Nat
  alt : Bool
  cells : List (List Byte × Bool)
  popped : Nat
  done : Bool
  deriving DecidableEq, Repr

/-- A hardware queue beside its registers: messages of the FIFO in order, those of the spill ring with their granules (none:
a wrap marker), HEAD, TAIL, RING_USED, reserved cells, notices that wait for room (R356), slots that wait for a cell (R350). -/
structure QueueSt where
  fifo : List QMsg
  ring : List (Nat × Option QMsg)
  head : Nat
  tail : Nat
  used : Nat
  resv : Nat
  notes : List QMsg
  want : List Nat
  deriving DecidableEq, Repr

/-- A queue that is empty. -/
def QueueSt.init : QueueSt := ⟨[], [], 0, 0, 0, 0, [], []⟩

/-- A message that is being taken in only to be refused or discarded (R337, R343): queue, sender, ALT, cells, and why: 0
CLOSED, 1 FULL, 2 discarded at a close. -/
structure Refused where
  q : Nat
  src : Nat
  alt : Bool
  n : Nat
  why : Nat
  deriving DecidableEq, Repr

/-- A combining slot beside its registers: accumulator, contributions so far, whether a FIFO cell is reserved for it. -/
structure CombSt where
  acc : List Byte
  count : Nat
  resv : Bool
  deriving DecidableEq, Repr

/-- A slot after reset. -/
def CombSt.init : CombSt := ⟨List.replicate 32 0, 0, false⟩

/-- A message that awaits its outcome at the sender's interface (R341): destination QN, cells, its entry when it is a
multicast copy (32: of a multicast that a reset abandoned), the stream and whether a doorbell caused it when the time base sends it; the time of its last cell; when it
is due to be sent again after FULL. -/
structure SendSt where
  qn : Nat
  cells : List (List Byte)
  entry : Option Nat
  wake : Option (Nat × Bool)
  sentAt : Nat
  retryAt : Option Nat
  deriving DecidableEq, Repr

/-- A multicast in progress (R345, R346): entries selected, entries whose copy has not been sent, cells, start, timed out. -/
structure McSt where
  sel : List Nat
  todo : List Nat
  cells : List (List Byte)
  start : Nat
  past : Bool
  deriving DecidableEq, Repr

/-- An owner of queues beside its registers (R333); number 136 is the time base as a sender (R342). -/
structure OwnerSt where
  queues : List (Nat × QueueSt)
  combs : List (Nat × CombSt)
  refused : List Refused
  busy : List SendSt
  /-- Q_SEND words that stall the core, with the cells copied, and wake messages that wait for their place. -/
  stalled : List (Nat × List (List Byte))
  wakes : List SendSt
  mc : Option McSt
  /-- The transmit buffer's eight cells (R340). -/
  tx : List (List Byte)
  /-- Stores not yet acknowledged by their memory, and whether a Q_WDRAIN waits for them (R362). -/
  out : Nat
  drain : Bool
  deriving DecidableEq, Repr

/-- An owner after reset. -/
def OwnerSt.init : OwnerSt := ⟨[], [], [], [], [], [], none, List.replicate 8 (List.replicate 40 0), 0, false⟩

/-- A sync operation that its interface sends again (R354): device, object, operation, argument, watcher, issuer, when. -/
structure SyncOp where
  dev : Nat
  obj : Nat
  op : Nat
  arg : Nat
  wqn : Nat
  src : Nat
  due : Nat
  deriving DecidableEq, Repr

/-! ### Token engines (chapter 8) -/

/-- An entry of a result or class-event queue (R280, R281): TYPE, SEQ, PAYLOAD, stamp. -/
structure HostEnt where
  type : Nat
  seq : Nat
  payload : Nat
  stamp : Nat
  deriving DecidableEq, Repr

/-- A result or class-event queue (R280 to R287): entries oldest first, the next SEQ, the replay slots by SEQ mod 128. -/
structure HostQ where
  ents : List HostEnt
  seq : Nat
  replay : List (Nat × Option HostEnt)
  deriving DecidableEq, Repr

/-- A queue that is empty. -/
def HostQ.init : HostQ := ⟨[], 0, []⟩

/-- A bin of the bridge (R264, R265): its frame's number, the counter at the boundary that opened it, records, features by
index, FLAGS. -/
structure BinSt where
  frame : Nat
  time : Nat
  recs : Nat
  feats : List (Nat × Nat)
  flags : Nat
  deriving DecidableEq, Repr

/-- A stream's token engine beside its registers. -/
structure TokSt where
  /-- The lower word of a context push, the context FIFO: core, event, oldest first (R277). -/
  ctxLo : Word
  ctx : List (Nat × Word)
  /-- The firing step of the last neuron wake sent; neuron wakes merged since the last message (R259). -/
  lastWake : Option Nat
  merged : Nat
  /-- The first step of frame 0 once its bin has opened, open bins, records taken in since the last boundary (R264). -/
  first : Option Nat
  bins : List BinSt
  binned : Nat
  /-- The result queue, the class-event queue, RQ_STATUS.OVF and NACK, the lower word of a post (R280 to R287). -/
  rq : HostQ
  cq : HostQ
  ovf : Bool
  nack : Bool
  postLo : Word
  deriving DecidableEq, Repr

/-- A token engine after a chip reset. -/
def TokSt.init : TokSt := ⟨0, [], none, 0, none, [], 0, HostQ.init, HostQ.init, false, false, 0⟩

/-! ### DMA channels (chapter 11) -/

/-- A request of a channel that awaits its reply: kind 0 program fetch, 1 read, 2 write, 3 host read, 4 host write; address;
the bytes of the MOVE it stands for; bytes to skip at the front of its data; 32-byte replies still to come and those that
came by index; when it was sent. -/
structure DmaWait where
  kind : Nat
  addr : Nat
  n : Nat
  skip : Nat
  need : Nat
  got : List (Nat × List Byte)
  sentAt : Nat
  deriving DecidableEq, Repr

/-- A DMA channel beside its registers: program granules held (R373), byte strides of the open levels, the request that
awaits its reply, data read and not yet written, the watch of its WAIT (object, threshold, EQ) and when it is due again,
SIGNALs that await their replies with the times they were sent, requests it no longer waits for whose replies are still to come (R378,
R387), an error that takes effect once the awaited request is complete (R389). -/
structure DmaSt where
  code : List (Nat × List Nat)
  strides : List (Nat × Int × Int)
  wait : Option DmaWait
  buf : List Byte
  watch : Option (Nat × Nat × Bool)
  again : Option Nat
  sigs : List (Nat × Nat)
  lost : List DmaWait
  err : Option (Nat × Nat)
  deriving DecidableEq, Repr

/-- A channel after reset. -/
def DmaSt.init : DmaSt := ⟨[], [], none, [], none, none, [], [], none⟩

/-! ### DDR4 channels (chapter 12) -/

/-- The master of an access, for its region set and the unit of a violation. -/
inductive Who where
  /-- Sequencer core i's own accesses and its spill rings. -/
  | seq (i : Nat)
  /-- Fetch or Drain of a descriptor that sequencer core i queued. -/
  | dense (i : Nat)
  | app
  /-- DMA channel 16·engine + c. -/
  | dma (ch : Nat)
  | pcie
  | link (k : Nat)
  | timeBase
  | ingest (g : Nat)
  | aon
  /-- JTAG, by whether debug is open (R599). -/
  | jtag
  deriving DecidableEq, Repr

/-- Who is answered when a held request has been served: nobody, the master that issued it (a core by its owner number), an endpoint on
the mesh, a DMA channel. -/
inductive ReplyTo where
  | nobody
  | core (o : Option Nat)
  | mesh (src : Nat)
  | dma (ch : Nat)
  deriving DecidableEq, Repr

/-- A request that a channel holds (R411): its master, who is answered, its local address, bytes to read, bytes to write. -/
structure DdrReq where
  who : Who
  back : ReplyTo
  a : Nat
  n : Nat
  data : List (Nat × Byte)
  /-- What stands in the first code word it reads (R407, R408). -/
  ecc : Ecc
  deriving DecidableEq, Repr

/-- A DDR4 channel beside its registers: requests held while it retrains; slow tick and temperature of its last training;
when its retraining began; its last patrol read; failed replays of the present command. -/
structure DdrSt where
  queue : List DdrReq
  tick : Nat
  temp : Int
  began : Nat
  patrol : Nat
  replays : Nat
  deriving DecidableEq, Repr

/-- A channel after reset. -/
def DdrSt.init : DdrSt := ⟨[], 0, 0, 0, 0, 0⟩

/-! ### Firmware broadcast (R480 to R482) -/

/-- A broadcast receiver beside its registers. -/
structure Receiver where
  session : Nat
  offset : Nat
  nchunk : Nat
  digest : List Byte
  /-- The chunks received: bit i of the 4,096-bit bitmap. -/
  bitmap : BitVec 4096
  /-- The region is being read back and hashed. -/
  hashing : Bool
  deriving DecidableEq, Repr

/-- A receiver in no session. -/
def Receiver.init : Receiver := ⟨0, 0, 0, [], 0, false⟩

/-! ### Time base (chapter 13) and step generator (chapter 4) -/

/-- A timer beside its registers. -/
structure Timer where
  /-- The prescaler's accumulator (R425), increments requested and not yet applied (R426), the model's time of
  the last source tick counted. -/
  acc : Nat
  req : Nat
  lastTick : Nat
  /-- Detected edges since the last one passed on (R427). -/
  edges : Nat
  /-- The compare and the PERIOD in force (R429 to R431). -/
  cmp : Nat
  per : Nat
  /-- The count has reached the compare at this time and the match is still to be carried out (R430). -/
  due : Option Nat
  /-- The time of the system-clock edge at which the last increment was applied (R426). -/
  edge : Nat
  /-- The level of TRIG_IN last accepted and when (R427); none before the first after the enable. -/
  level : Option (Bool × Nat)
  deriving DecidableEq, Repr

/-- A timer after reset. -/
def Timer.init : Timer := ⟨0, 0, 0, 0, 0, 0, none, 0, none⟩

/-- A TRIG_OUT pin beside its registers. -/
structure PinSt where
  /-- The neural pulse's end (R434). -/
  pulseEnd : Option Nat
  /-- The last step whose records asserted the pin; the steps whose records asserted it since the step generator's start, newest
  first, 64 at most. -/
  step : Option Nat
  seen : List Nat
  /-- The level's return time once its boundary has been issued. -/
  lvlReturn : Option Nat
  /-- When the logical state last went active. -/
  activeAt : Nat
  /-- Grid edges that wait (R436): the firing step and the counter value of the edge, oldest first. -/
  grid : List (Nat × Nat)
  /-- The timer actions at the newest edge (R435): its time, the logical state before them, timer and action in ascending order. -/
  acts : Nat × Bool × List (Nat × Nat)
  deriving DecidableEq, Repr

/-- A pin after reset. -/
def PinSt.init : PinSt := ⟨none, none, [], none, 0, [], (0, false, [])⟩

/-- The time base and the step generator beside their registers. -/
structure TimeBase where
  timers : List (Nat × Timer)
  pins : List (Nat × PinSt)
  /-- High words latched by a read of their pair's low word, by offset, until they are read (R417, R438, R467). -/
  pairs : List (Nat × Option Word)
  /-- The counter takes TB_SYNC_LOAD at this time (R419). -/
  loadAt : Option Nat
  /-- The remaining correction of R420 in units of 2^−16 ns; the counter value at the last correction. -/
  corr : Int
  slewAt : Nat
  /-- What the next system-clock edge adds: 1, or 2 or 0 after a correction (R420). -/
  edgeAdds : Nat
  /-- Consecutive exchanges within and beyond LIMIT (R421). -/
  good : Nat
  bad : Nat
  /-- The last boundaries issued, newest first: step number and the counter at the issue (R436). -/
  issues : List (Nat × Nat)
  /-- The number u of the next boundary B(u) (R136); the first boundary since the enable; how often it was enabled. -/
  nextU : Nat
  firstU : Nat
  run : Nat
  /-- Every firing instant B(e) with e below this number has its emission complete (R139). -/
  done : Nat
  /-- The nominal instant of the next boundary has come; the boundary is held under R149. -/
  waitingB : Bool
  heldB : Bool
  /-- The completion tree: cells counted of each parity (R139) and the END reports: kind, index, and the boundary at which
  the emission step's cells are sent, one above its number. -/
  cnt0 : Int
  cnt1 : Int
  ends : List (Nat × Nat × Nat)
  /-- Deferrals reported since the last boundary (R147). -/
  deferrals : Nat
  deriving DecidableEq, Repr

/-- The time base after reset. -/
def TimeBase.init : TimeBase where
  timers := []
  pins := []
  pairs := []
  loadAt := none
  corr := 0
  slewAt := 0
  edgeAdds := 1
  good := 0
  bad := 0
  issues := []
  nextU := 0
  firstU := 0
  run := 0
  done := 0
  waitingB := false
  heldB := false
  cnt0 := 0
  cnt1 := 0
  ends := []
  deferrals := 0

end Sys2Proof.Machine
end

