-- ==== Sys2Proof/Machine/State.lean ====
section
/-! DEFINITION. The state of the device. -/

namespace Sys2Proof.Machine

/-- Why the machine stops. -/
inductive Fault where
  /-- Raised by REGISTER_WRITE when the value written changes a reserved bit (R10: the device promises no
  behaviour then). Safe: the machine stops where the manual gives no effect. -/
  | reservedBits
  deriving DecidableEq, Repr

/-- Why a command is refused. -/
inductive Refusal where
  /-- Raised by Dispatch for a command that has no meaning yet. Safe. -/
  | notModelled (mnemonic : String)
  deriving DecidableEq, Repr

/-- The device. -/
structure State where
  /-- The commands that wait, first in, first out. -/
  pending : List Instr
  /-- The register file: CSR words by byte offset; an unlisted word reads its reset value. -/
  csr : List (Nat × Word)
  /-- The memories of the local address map (R20) by address: DDR4, slices, windows, local memories. -/
  mem : Memory
  /-- The code words of the memories that hold an uncorrectable error, by address (R404). -/
  bad : List (Nat × Bool)
  /-- The model's time in ns since the AON supply came up (log entry 4). -/
  time : Nat
  /-- The 64-bit system counter (R416). -/
  counter : DWord
  /-- How many values the manual leaves open have been drawn (log entry 1). -/
  free : Nat
  /-- What the device has put out, newest first. -/
  sent : List Emit
  aon : Aon
  store : Settings
  trust : Trust
  tb : TimeBase
  chr : Chrysalis
  /-- The ingest streams, by number. -/
  streams : List (Nat × Stream)
  /-- The neuron cores, by number. -/
  cores : List (Nat × CoreSt)
  /-- The Ibnum links, by number. -/
  links : List (Nat × LinkSt)
  /-- The dense tiles, the sequencer cores and their conversion units, by number. -/
  tiles : List (Nat × TileSt)
  seqs : List (Nat × SeqSt)
  cvus : List (Nat × Cvu)
  /-- The owners of queues, by number, and the sync operations that wait to be sent again. -/
  owners : List (Nat × OwnerSt)
  resends : List SyncOp
  /-- The interfaces to the mesh, by the endpoint's coordinate (R310); control-network requests to other devices that await their
  responses, and those that wait behind eight of their master, oldest first (R312). -/
  ifaces : List (Nat × Iface)
  ctrls : List CtrlReq
  ctrlWait : List (CtrlReq × Emit)
  /-- The streams' token engines, by number. -/
  toks : List (Nat × TokSt)
  /-- The DMA channels: 16·engine + c, tile engines first. -/
  dmas : List (Nat × DmaSt)
  /-- The DDR4 channels, by number, and requests answered BUSY that their interfaces send again, with the times (R411). -/
  ddrs : List (Nat × DdrSt)
  busy : List (Nat × DdrReq)
  /-- Requests to another device's memory that its channel answered BUSY, with the times they are sent again (R411). -/
  again : List (Nat × Emit)
  /-- Broadcast receivers: neuron core n at n, sequencer core i at 1,024 + i; the reports the master has received. -/
  bc : List (Nat × Receiver)
  bcReports : List (List Nat)
  deriving DecidableEq, Repr

/-- The device at the start of a chip reset at power-on: PWR_GOOD low, every register at its reset value. -/
def State.reset : State where
  pending := []
  csr := []
  mem := Memory.fresh
  bad := []
  time := 0
  counter := 0
  free := 0
  sent := []
  aon := Aon.init
  store := Settings.init
  trust := Trust.init
  tb := TimeBase.init
  chr := Chrysalis.init
  streams := []
  cores := []
  links := []
  tiles := []
  seqs := []
  cvus := []
  owners := []
  resends := []
  ifaces := []
  ctrls := []
  ctrlWait := []
  toks := []
  dmas := []
  ddrs := []
  busy := []
  again := []
  bc := []
  bcReports := []

end Sys2Proof.Machine
end

