-- ==== Sys2Proof/Machine/Ops.lean ====
section
/-! DEFINITION. The named operations on the state: registers and their fields, memory, what the device puts out,
free values, the clock, and the units every chapter refers to. -/

namespace Sys2Proof.Machine

/-! ### Fields of a word -/

/-- The field [hi:lo] of a word. -/
def wordGet (w : Word) (hi lo : Nat) : Nat := bits w.toNat hi lo

/-- A word with its field [hi:lo] replaced by v, cut to the field. -/
def wordSet (w : Word) (hi lo v : Nat) : Word :=
  BitVec.ofNat 32 (w.toNat - (bits w.toNat hi lo) <<< lo + (v % 2 ^ (hi + 1 - lo)) <<< lo)

/-! ### Registers (R8, R499) -/

/-- The register at CSR offset o. -/
def State.rd (s : State) (o : Nat) : Word := tabGet regReset s.csr o

/-- The register at CSR offset o set to v. -/
def State.wr (s : State) (o : Nat) (v : Word) : State := { s with csr := tabPut regReset s.csr o v }

/-- The field f. -/
def State.fget (s : State) (f : FieldRef) : Nat := wordGet (s.rd f.off) f.hi f.lo

/-- Whether the field f is non-zero. -/
def State.fbit (s : State) (f : FieldRef) : Bool := decide (s.fget f ≠ 0)

/-- The field f set to v, cut to the field. -/
def State.fset (s : State) (f : FieldRef) (v : Nat) : State := s.wr f.off (wordSet (s.rd f.off) f.hi f.lo v)

/-- The field f set to 1. -/
def State.fon (s : State) (f : FieldRef) : State := s.fset f 1

/-- The field f set to 0. -/
def State.foff (s : State) (f : FieldRef) : State := s.fset f 0

/-- The field f set to 1 or 0 as b says. -/
def State.fflag (s : State) (f : FieldRef) (b : Bool) : State := s.fset f (if b then 1 else 0)

/-- The 64-bit value of the register pair whose low word lies at o. -/
def State.rd64 (s : State) (o : Nat) : Nat := (s.rd o).toNat + (s.rd (o + 4)).toNat * 2 ^ 32

/-- The register pair whose low word lies at o set to a 64-bit value. -/
def State.wr64 (s : State) (o v : Nat) : State := (s.wr o (BitVec.ofNat 32 v)).wr (o + 4) (BitVec.ofNat 32 (v / 2 ^ 32))

/-- The register at o set to a number, cut to 32 bits. -/
def State.wrN (s : State) (o v : Nat) : State := s.wr o (BitVec.ofNat 32 v)

/-- n consecutive registers from o. -/
def State.rdWords (s : State) (o : Nat) : Nat → List Word
  | 0 => []
  | n + 1 => s.rd o :: State.rdWords s (o + 4) n

/-- Consecutive registers from o set to the words given. -/
def State.wrWords (s : State) (o : Nat) : List Word → State
  | [] => s
  | w :: r => State.wrWords (s.wr o w) (o + 4) r

/-- Registers set to 0 for every offset given. -/
def State.wrZeros (s : State) : List Nat → State
  | [] => s
  | o :: r => State.wrZeros (s.wr o 0) r

/-! ### What the device puts out, free values, the clock -/

/-- One more message, interrupt or reply put out. -/
def State.emit (s : State) (e : Emit) : State := { s with sent := e :: s.sent }

/-- An interrupt line raised or withdrawn at a core; a sequencer core that waits for an interrupt goes on when one is raised (R227;
PRESUMED, log entry 107). -/
def State.emitIrq (s : State) (o cause index : Nat) (on : Bool) : State :=
  let t := s.emit (.irq o cause index on)
  if on && decide (o < 128) then t.foff (Reg.SEQ_STATUS_WFI o) else t

/-- Several put out, in the order of the list. -/
def State.emitAll (s : State) : List Emit → State
  | [] => s
  | e :: r => State.emitAll (s.emit e) r

/-- A fault event sent to the collector (R521). -/
def State.raise (s : State) (src kind index detail : Nat) : State :=
  s.emit (.fault src kind index (BitVec.ofNat 32 detail))

/-- The next value the manual leaves open, at width w (log entry 1). -/
def State.freeVal (s : State) (w : Nat) : BitVec w := Config.freeValue w s.free

/-- One value the manual leaves open has been drawn. -/
def State.drawn (s : State) : State := { s with free := s.free + 1 }

/-- The n next values the manual leaves open, at width w. -/
def State.freeVals (s : State) (w : Nat) : Nat → List (BitVec w)
  | 0 => []
  | n + 1 => Config.freeValue w (s.free + n) :: State.freeVals s w n

/-- n values the manual leaves open have been drawn. -/
def State.drawnN (s : State) (n : Nat) : State := { s with free := s.free + n }

/-- The system counter as a number. -/
def State.now (s : State) : Nat := s.counter.toNat

/-! ### Memory (R13, R20) -/

/-- One byte of the local map's memories. -/
def State.mget (s : State) (a : Nat) : Byte := s.mem.get a

/-- One byte written. -/
def State.mput (s : State) (a : Nat) (b : Byte) : State := { s with mem := s.mem.put a b }

/-- n bytes from address a. -/
def State.mread (s : State) (a n : Nat) : List Byte := s.mem.read a n

/-- Bytes written from address a. -/
def State.mwrite (s : State) (a : Nat) (l : List Byte) : State := { s with mem := s.mem.write a l }

/-- The little-endian number in n bytes from address a (R13). -/
def State.mnat (s : State) (a n : Nat) : Nat := leNat (s.mread a n)

/-- The n low bytes of v written little-endian from address a (R13). -/
def State.mnatPut (s : State) (a n v : Nat) : State := s.mwrite a (leBytes n v)

/-- n bytes from address a set to zero. -/
def State.mzero (s : State) (a n : Nat) : State := { s with mem := s.mem.fill ⟨a, n, none, .all⟩ }

/-- The bytes of a span among n bytes from address a become unpredictable (R6, log entry 1). -/
def State.mopenSpan (s : State) (a n : Nat) (p : Span) : State :=
  { s with mem := s.mem.fill ⟨a, n, some s.free, p⟩, free := s.free + 1 }

/-- n bytes from address a become unpredictable. -/
def State.mopen (s : State) (a n : Nat) : State := s.mopenSpan a n .all

/-- n slices from the first become unpredictable (R219). -/
def State.sliceOpen (s : State) (first n : Nat) : State := s.mopenSpan 0x80000000000 0x30000000 (.slices first n)

/-! ### Sub-states -/

/-- The AON island changed by f. -/
def State.onAon (s : State) (f : Aon → Aon) : State := { s with aon := f s.aon }

/-- The settings store changed by f. -/
def State.onStore (s : State) (f : Settings → Settings) : State := { s with store := f s.store }

/-- The trust island changed by f. -/
def State.onTrust (s : State) (f : Trust → Trust) : State := { s with trust := f s.trust }

/-- The Chrysalis changed by f. -/
def State.onChr (s : State) (f : Chrysalis → Chrysalis) : State := { s with chr := f s.chr }

/-- A request answered BUSY is sent again 1 µs later (R411). -/
def State.busyAdd (s : State) (r : DdrReq) : State := { s with busy := s.busy ++ [(s.time + 1000, r)] }

/-- A request answered BUSY has been sent again. -/
def State.busyTake (s : State) (x : Nat × DdrReq) : State := { s with busy := s.busy.erase x }

/-- A request to another device answered BUSY is sent again 1 µs later (R411). -/
def State.againAdd (s : State) (e : Emit) : State := { s with again := s.again ++ [(s.time + 1000, e)] }

/-- A request to another device has been sent again. -/
def State.againTake (s : State) (x : Nat × Emit) : State := { s with again := s.again.erase x }

/-- A sync operation waits to be sent again (R354). -/
def State.resendAdd (s : State) (x : SyncOp) : State := { s with resends := s.resends ++ [x] }

/-- A sync operation has been sent again. -/
def State.resendTake (s : State) (x : SyncOp) : State := { s with resends := s.resends.erase x }

/-- The interface of the endpoint at a coordinate. -/
def State.iface (s : State) (c : Nat) : Iface := tabGet (fun _ => Iface.init) s.ifaces c

/-- The interface of the endpoint at a coordinate changed by f. -/
def State.onIface (s : State) (c : Nat) (f : Iface → Iface) : State :=
  { s with ifaces := tabPut (fun _ => Iface.init) s.ifaces c (f (s.iface c)) }

/-- The control-network requests that await their responses, and those that wait to be sent, changed. -/
def State.onCtrls (s : State) (f : List CtrlReq → List CtrlReq) : State := { s with ctrls := f s.ctrls }
def State.onCtrlWait (s : State) (f : List (CtrlReq × Emit) → List (CtrlReq × Emit)) : State := { s with ctrlWait := f s.ctrlWait }

/-- Uncorrectable code words forgotten but for those a test keeps. -/
def State.badKeep (s : State) (p : Nat → Bool) : State := { s with bad := s.bad.filter fun e => p e.1 }

/-- The time base changed by f. -/
def State.onTb (s : State) (f : TimeBase → TimeBase) : State := { s with tb := f s.tb }

/-- Timer k beside its registers. -/
def State.timer (s : State) (k : Nat) : Timer := tabGet (fun _ => Timer.init) s.tb.timers k

/-- Timer k set. -/
def State.setTimer (s : State) (k : Nat) (t : Timer) : State :=
  s.onTb fun b => { b with timers := tabPut (fun _ => Timer.init) b.timers k t }

/-- Pin p beside its registers. -/
def State.pin (s : State) (p : Nat) : PinSt := tabGet (fun _ => PinSt.init) s.tb.pins p

/-- Pin p set. -/
def State.setPin (s : State) (p : Nat) (t : PinSt) : State :=
  s.onTb fun b => { b with pins := tabPut (fun _ => PinSt.init) b.pins p t }

/-- The high word of the register pair at o latched, or let go (R417). -/
def State.setPair (s : State) (o : Nat) (v : Option Word) : State :=
  s.onTb fun b => { b with pairs := tabPut (fun _ => none) b.pairs o v }

/-- Stream i beside its registers. -/
def State.stream (s : State) (i : Nat) : Stream := tabGet (fun _ => Stream.init) s.streams i

/-- Stream i changed by f. -/
def State.onStream (s : State) (i : Nat) (f : Stream → Stream) : State :=
  { s with streams := tabPut (fun _ => Stream.init) s.streams i (f (s.stream i)) }

/-- Neuron core n beside its registers. -/
def State.core (s : State) (n : Nat) : CoreSt := tabGet (fun _ => CoreSt.init) s.cores n

/-- Neuron core n changed by f. -/
def State.onCore (s : State) (n : Nat) (f : CoreSt → CoreSt) : State :=
  { s with cores := tabPut (fun _ => CoreSt.init) s.cores n (f (s.core n)) }

/-- Ibnum link k beside its registers. -/
def State.link (s : State) (k : Nat) : LinkSt := tabGet (fun _ => LinkSt.init) s.links k

/-- Ibnum link k changed by f. -/
def State.onLink (s : State) (k : Nat) (f : LinkSt → LinkSt) : State :=
  { s with links := tabPut (fun _ => LinkSt.init) s.links k (f (s.link k)) }

/-- Tile t beside its registers. -/
def State.tile (s : State) (t : Nat) : TileSt := tabGet (fun _ => TileSt.init) s.tiles t

/-- Tile t changed by f. -/
def State.onTile (s : State) (t : Nat) (f : TileSt → TileSt) : State :=
  { s with tiles := tabPut (fun _ => TileSt.init) s.tiles t (f (s.tile t)) }

/-- Sequencer core i beside its registers. -/
def State.seq (s : State) (i : Nat) : SeqSt := tabGet (fun _ => SeqSt.init) s.seqs i

/-- Sequencer core i set. -/
def State.setSeq (s : State) (i : Nat) (v : SeqSt) : State := { s with seqs := tabPut (fun _ => SeqSt.init) s.seqs i v }

/-- The conversion unit of sequencer core i. -/
def State.cvu (s : State) (i : Nat) : Cvu := tabGet (fun _ => Cvu.init) s.cvus i

/-- The conversion unit of core i set. -/
def State.setCvu (s : State) (i : Nat) (v : Cvu) : State := { s with cvus := tabPut (fun _ => Cvu.init) s.cvus i v }

/-- Owner o beside its registers. -/
def State.owner (s : State) (o : Nat) : OwnerSt := tabGet (fun _ => OwnerSt.init) s.owners o

/-- Owner o changed by f. -/
def State.onOwner (s : State) (o : Nat) (f : OwnerSt → OwnerSt) : State :=
  { s with owners := tabPut (fun _ => OwnerSt.init) s.owners o (f (s.owner o)) }

/-- DMA channel ch beside its registers. -/
def State.dma (s : State) (ch : Nat) : DmaSt := tabGet (fun _ => DmaSt.init) s.dmas ch

/-- DMA channel ch changed by f. -/
def State.onDma (s : State) (ch : Nat) (f : DmaSt → DmaSt) : State :=
  { s with dmas := tabPut (fun _ => DmaSt.init) s.dmas ch (f (s.dma ch)) }

/-- DDR4 channel c beside its registers. -/
def State.ddr (s : State) (c : Nat) : DdrSt := tabGet (fun _ => DdrSt.init) s.ddrs c

/-- DDR4 channel c changed by f. -/
def State.onDdr (s : State) (c : Nat) (f : DdrSt → DdrSt) : State :=
  { s with ddrs := tabPut (fun _ => DdrSt.init) s.ddrs c (f (s.ddr c)) }

/-- The token engine of stream i beside its registers. -/
def State.tok (s : State) (i : Nat) : TokSt := tabGet (fun _ => TokSt.init) s.toks i

/-- The token engine of stream i changed by f. -/
def State.onTok (s : State) (i : Nat) (f : TokSt → TokSt) : State :=
  { s with toks := tabPut (fun _ => TokSt.init) s.toks i (f (s.tok i)) }

/-! ### Folding over numbered units -/

/-- f applied for 0, 1, …, n − 1 in order. -/
def forN (n : Nat) (f : Nat → State → State) (s : State) : State := (List.range n).foldl (fun t i => f i t) s

/-- f applied for every element in order. -/
def forL {α : Type} (l : List α) (f : α → State → State) (s : State) : State := l.foldl (fun t i => f i t) s

/-- f applied when b holds. -/
def State.iff (s : State) (b : Bool) (f : State → State) : State := if b then f s else s

end Sys2Proof.Machine
end

