-- ==== Sys2Proof/Machine/Flags.lean ====
section
/-! DEFINITION. Counters, sticky flags and the CFG_IGNORED bits: the status the device keeps about what it did
and what it did not take (R9, R12, R490). -/

namespace Sys2Proof.Machine

/-- A count of w bits raised by n, saturating at its all-ones value (R12). -/
def satCount (w c n : Nat) : Nat := if c + n < 2 ^ w then c + n else 2 ^ w - 1

/-- The 32-bit event counter at o raised by n (R12). -/
def State.count (s : State) (o n : Nat) : State := s.wrN o (satCount 32 (s.rd o).toNat n)

/-- The counter field f raised by n, saturating (R12). -/
def State.fcount (s : State) (f : FieldRef) (n : Nat) : State := s.fset f (satCount (f.hi + 1 - f.lo) (s.fget f) n)

/-- The CFG_IGNORED bit of the block that owns the register at CSR offset o (R490): the AON, Instar, Chrysalis,
settings, fault, power, trust, ingest, neuron-core, tile, mesh, DDR, link and JESD blocks each keep one; each region
set, each timer, each DMA channel and each owner of queues keeps its own; the PCIe block's chapter names none. -/
def ignoredRef (o : Nat) : Option FieldRef :=
  let i := o % 0x10000
  if o < 0x10000 then (if 0x100 ≤ i ∧ i < 0x150 then some Reg.AON_TWIN_STATUS_CFG_IGNORED else some Reg.AON_STATUS_CFG_IGNORED)
  else if o < 0x20000 then some Reg.INST_STATUS_CFG_IGNORED
  else if o < 0x30000 then some Reg.CHR_STATUS_CFG_IGNORED
  else if o < 0x40000 then some Reg.SET_STATUS_CFG_IGNORED
  else if o < 0x50000 then some Reg.FLT_STATUS_CFG_IGNORED
  else if o < 0x60000 then
    (if 0x1000 ≤ i then some (Reg.TMR_STATUS_CFG_IGNORED ((i - 0x1000) / 0x40))
     else if 0x400 ≤ i ∧ i < 0x600 then some (Reg.REG_VIOL_INFO_CFG_IGNORED rsetTb) else some Reg.TB_SYNC_STATUS_CFG_IGNORED)
  else if o < 0x70000 then some Reg.PWR_STATUS_CFG_IGNORED
  else if o < 0x80000 then some Reg.TRU_STATUS_CFG_IGNORED
  else if o < 0x100000 then none
  else if o < 0x300000 then some (Reg.ING_STATUS_CFG_IGNORED ((o - 0x100000) / 0x10000))
  else if o < 0x400000 then none
  else if o < 0x4400000 then some (Reg.NC_STATUS_CFG_IGNORED ((o - 0x400000) / 0x10000))
  else if o < 0x5000000 then none
  else if o < 0x5400000 then
    let t := (o - 0x5000000) / 0x10000
    if i < 0x8000 then
      (if 0x200 ≤ i ∧ i < 0x300 then some (Reg.DMA_STATUS_CFG_IGNORED (16 * t + (i - 0x200) / 0x40))
       else if 0x400 ≤ i ∧ i < 0x600 then some (Reg.REG_VIOL_INFO_CFG_IGNORED (rsetTile t)) else some (Reg.TILE_STATUS_CFG_IGNORED t))
    else
      let q := 2 * t + (i - 0x8000) / 0x1000
      if 0xE00 ≤ i % 0x1000 ∧ i % 0x1000 < 0xF20 then some (Reg.REG_VIOL_INFO_CFG_IGNORED (rsetSeq q))
      else some (Reg.Q_STATUS_CFG_IGNORED q)
  else if o < 0x6000000 then none
  else if o < 0x6010000 then some Reg.MESH_STATUS_CFG_IGNORED
  else if o < 0x7000000 then none
  else if o < 0x7080000 then some (Reg.DDR_STATUS_CFG_IGNORED ((o - 0x7000000) / 0x10000))
  else if o < 0x7100000 then none
  else if o < 0x71C0000 then
    let k := (o - 0x7100000) / 0x10000
    if 0x100 ≤ i then some (Reg.REG_VIOL_INFO_CFG_IGNORED (rsetLink k)) else some (Reg.IBL_STATUS_CFG_IGNORED k)
  else if o < 0x7200000 then none
  else if o < 0x7210000 then (if 0x2000 ≤ i then some (Reg.REG_VIOL_INFO_CFG_IGNORED rsetPcie) else none)
  else if o < 0x7300000 then none
  else if o < 0x7320000 then
    let h := (o - 0x7300000) / 0x10000
    if i < 0x400 then some (Reg.DMA_STATUS_CFG_IGNORED (16 * (64 + h) + i / 0x40))
    else if 0x900 ≤ i then some (Reg.REG_VIOL_INFO_CFG_IGNORED (rsetBulk h)) else none
  else if o < 0x7400000 then none
  else if o < 0x7410000 then
    (if 0x1000 ≤ i then some (Reg.REG_VIOL_INFO_CFG_IGNORED (rsetIng ((i - 0x1000) / 0x200))) else some Reg.JRX_STATUS_CFG_IGNORED)
  else if o < 0x7500000 then none
  else if o < 0x7580000 then some (Reg.Q_STATUS_CFG_IGNORED (128 + (o - 0x7500000) / 0x10000))
  else if o < 0x7590000 then some (Reg.REG_VIOL_INFO_CFG_IGNORED rsetApp)
  else none

/-- A write to the register at o is ignored and sets CFG_IGNORED of its block (R490). -/
def State.ignored (s : State) (o : Nat) : State :=
  match ignoredRef o with
  | some f => s.fon f
  | none => s

/-- A request to the register at o is taken by f when b holds; else it is ignored and sets CFG_IGNORED. -/
def State.takenIf (s : State) (o : Nat) (b : Bool) (f : State → State) : State := if b then f s else s.ignored o

end Sys2Proof.Machine
end

