-- ==== Sys2Proof/Machine/Stale.lean ====
section
/-! DEFINITION. What an entry of a Chrysalis batch names (R501), the states of a batch (R500), and the direct writes and events
that make a VALID or ARMED batch FAILED (R508). -/

namespace Sys2Proof.Machine

/-- What an entry names: a register, or a word of a neuron core's window. -/
inductive Target where
  | reg (off : Nat)
  | win (n off : Nat)
  deriving DecidableEq, Repr

/-- The target of an ADDR word (R501). -/
def chrTarget (a : Word) : Target :=
  let v := a.toNat
  if bit v 31 then .win (bits v 30 21) (bits v 20 2 * 4) else .reg (bits v 27 2 * 4)

/-- The ADDR word of a target. -/
def chrAddr : Target → Word
  | .reg o => BitVec.ofNat 32 o
  | .win n o => BitVec.ofNat 32 (2 ^ 31 + n * 2 ^ 21 + o)

/-- Entry i: ADDR, VALUE, MASK. -/
def State.chrEntry (s : State) (i : Nat) : Word × Word × Word :=
  (s.rd (Reg.CHR_ENT_ADDR i), s.rd (Reg.CHR_ENT_VALUE i), s.rd (Reg.CHR_ENT_MASK i))

/-- NENT. -/
def State.nent (s : State) : Nat := s.fget Reg.CHR_NENT_COUNT

/-- CHR_STATUS.STATE. -/
def State.chrState (s : State) : Nat := s.fget Reg.CHR_STATUS_STATE

/-- STATE set. -/
def State.setChr (s : State) (v : Nat) : State := s.fset Reg.CHR_STATUS_STATE v

/-- CHR_FAIL: CODE, INFO, ENTRY. -/
def State.chrFail (s : State) (code info entry : Nat) : State :=
  s.wrN Reg.CHR_FAIL (code * 2 ^ 24 + (info % 256) * 2 ^ 16 + entry % 4096)

/-- The batch becomes FAILED with a code (R500): CHR_FAIL_CNT counts. -/
def State.chrFailed (s : State) (code info entry : Nat) : State :=
  ((s.chrFail code info entry).setChr 4).count Reg.CHR_FAIL_CNT 1

/-- Whether a batch is VALID or ARMED. -/
def State.chrLive (s : State) : Bool := decide (s.chrState = 3) || decide (s.chrState = 5)

/-- A batch that is VALID or ARMED becomes FAILED with STALE (R508); CHR_STALE_ADDR holds the word written. -/
def State.chrStale (s : State) (entry : Nat) (addr : Word) : State :=
  if s.chrLive then (s.chrFailed 0x0B 0 entry).wr Reg.CHR_STALE_ADDR addr else s

/-- A retraining, a substitution or a lost link (R508). -/
def State.staleAll (s : State) : State := s.chrStale 0 (s.rd Reg.CHR_STALE_ADDR)

/-- The enable field (EN, RUN or JOB) of the block a register lies in, where that register holds it. -/
def enableAt (o : Nat) : Option FieldRef :=
  let i := o % 0x10000
  let f : Option FieldRef :=
    if o < 0x50000 then (if o = Reg.AON_TWIN_CTL then some Reg.AON_TWIN_CTL_EN else none)
    else if o < 0x60000 then
      (if 0x1000 ≤ i then some (Reg.TMR_CTL_EN ((i - 0x1000) / 0x40)) else some Reg.TB_STEP_CTL_EN)
    else if 0x100000 ≤ o ∧ o < 0x300000 then some (Reg.ING_CTL_EN ((o - 0x100000) / 0x10000))
    else if 0x400000 ≤ o ∧ o < 0x4400000 then some (Reg.NC_CTL_EN ((o - 0x400000) / 0x10000))
    else if 0x5000000 ≤ o ∧ o < 0x5400000 ∧ 0x8000 ≤ i then some (Reg.SEQ_CTL_RUN (2 * ((o - 0x5000000) / 0x10000) + (i - 0x8000) / 0x1000))
    else if 0x6000000 ≤ o ∧ o < 0x6010000 then some Reg.MESH_CTL_JOB
    else if 0x7000000 ≤ o ∧ o < 0x7080000 then some (Reg.DDR_CTL_EN ((o - 0x7000000) / 0x10000))
    else if 0x7100000 ≤ o ∧ o < 0x71C0000 then some (Reg.IBL_CTL_EN ((o - 0x7100000) / 0x10000))
    else none
  f.filter fun r => decide (r.off = o)

/-- Whether two registers lie in one block: of a tile's block each sequencer core has its own part, of the time base's block each
timer. -/
def sameBlock (a b : Nat) : Bool :=
  decide (a / 0x10000 = b / 0x10000) &&
    (if 0x5000000 ≤ a ∧ a < 0x5400000 then decide (max 7 (a % 0x10000 / 0x1000) = max 7 (b % 0x10000 / 0x1000))
     else if a / 0x10000 = 5 then decide (max 63 (a % 0x10000 / 0x40) = max 63 (b % 0x10000 / 0x40))
     else true)

/-- Whether an entry names the target, or with block the block whose enable field lies at the target. -/
def entryNames (t : Target) (block : Bool) (a : Word) : Bool :=
  decide (chrTarget a = t) || (block && (match t, chrTarget a with
    | .reg o, .reg x => sameBlock o x
    | .reg o, .win m _ => decide (0x400000 ≤ o) && decide (o < 0x4400000) && decide ((o - 0x400000) / 0x10000 = m)
    | .win _ _, _ => false))

/-- A direct write has changed the word of a target, with block the enable field of its block too: the lowest entry concerned makes
the batch STALE (R508). -/
def State.staleWord (s : State) (t : Target) (block : Bool) : State :=
  if !s.chrLive then s
  else match (List.range s.nent).find? fun i => entryNames t block (s.rd (Reg.CHR_ENT_ADDR i)) with
    | some i => s.chrStale i (chrAddr t)
    | none => s

/-- After a direct write at o: the register held old before (R508). -/
def State.staleIf (s : State) (o : Nat) (old : Word) : State :=
  if s.rd o = old then s
  else s.staleWord (.reg o) (match enableAt o with
    | some f => decide (wordGet (s.rd o) f.hi f.lo ≠ wordGet old f.hi f.lo)
    | none => false)

end Sys2Proof.Machine
end

