-- ==== Sys2Proof/Machine/Operands.lean ====
section
/-! DEFINITION. The operand forms of the commands: who accesses, at which level (R494 to R496), the places the
local address map names (R19, R20, R90, R219), and the device's own number. -/

namespace Sys2Proof.Machine

/-! ### Masters and privilege -/

/-- The level of an access: 0 unprivileged, 1 privileged, 2 secure (R494). -/
def State.level (s : State) : Master → Nat
  | .aon => 2
  | .jtag => if s.fbit Reg.TRU_STATUS_DBG_OPEN then 2 else 0
  | .pcie => if s.fbit Reg.AON_ACCESS_HOST_PRIV then 1 else 0
  | .app _ user => if user then 0 else 1
  | .seq _ => 0

/-- Whether a register lies in a region set (R395). -/
def inRegionSet (o : Nat) : Bool :=
  let i := o % 0x10000
  (decide (0x50400 ≤ o) && decide (o < 0x50600))
  || (decide (0x5000000 ≤ o) && decide (o < 0x5400000) &&
      (if i < 0x8000 then decide (0x400 ≤ i) && decide (i < 0x600) else decide (0xE00 ≤ i % 0x1000) && decide (i % 0x1000 < 0xF20)))
  || (decide (0x7100000 ≤ o) && decide (o < 0x71C0000) && decide (0x100 ≤ i) && decide (i < 0x300))
  || (decide (0x7202000 ≤ o) && decide (o < 0x7202200))
  || (decide (0x7300000 ≤ o) && decide (o < 0x7320000) && decide (0x900 ≤ i))
  || (decide (0x7401000 ≤ o) && decide (o < 0x7402000))
  || (decide (0x7580000 ≤ o) && decide (o < 0x7590000))

/-- Whether o is one of the response-queue registers of the PCIe block that sequencer cores post through (R283). -/
def rqReg (o : Nat) : Bool := decide (0x7201000 ≤ o) && decide (o < 0x7201180)

/-- The class of a register: 0 open, 1 privileged, 2 secure (R495). -/
def regClass (o : Nat) : Nat :=
  if o < 0x10000 then
    (if o = Reg.AON_ACCESS then 2 else if o = Reg.AON_ID ∨ o = Reg.AON_TWIN_STATUS then 0 else 1)
  else if o < 0x50000 then 1
  else if o < 0x60000 then (if (0x50010 ≤ o ∧ o < 0x50024) ∨ inRegionSet o = true then 1 else 0)
  else if o < 0x70000 then 1
  else if o < 0x80000 then 2
  else if 0x6000000 ≤ o ∧ o < 0x7000000 then 1
  else if 0x7000000 ≤ o ∧ o < 0x7080000 then (if o % 0x10000 = 4 ∨ o = Reg.DDR_ILV then 1 else 0)
  else if rqReg o then 0
  else if 0x7100000 ≤ o ∧ o < 0x7300000 then 1
  else if inRegionSet o then 1 else 0

/-- The accesses to the trust block that R548 and R550 allow below its class: in recovery wait PCIe writes
TRU_RCV_LEN, TRU_WIN, TRU_CTL and the page it selects; while DBG_LOCK = 0 JTAG writes TRU_WIN, TRU_EXT_DATA and
TRU_CTL (log entry 13). -/
def State.trustException (s : State) (m : Master) (o : Nat) : Bool :=
  let win := decide (0x78000 ≤ o) && decide (o < 0x80000)
  match m with
  | .pcie => s.fbit Reg.TRU_STATUS_RECOVERY && (win || decide (o = Reg.TRU_RCV_LEN) || decide (o = Reg.TRU_CTL) || decide (o = Reg.TRU_SRV_PAGE))
  | .jtag => !s.fbit Reg.TRU_CTL_DBG_LOCK && (win || decide (o = Reg.TRU_CTL) || (decide (0x70040 ≤ o) && decide (o < 0x70060)))
  | _ => false

/-- Whether a sequencer core reaches a register: its own tile's block (R223, R312), the ingest streams' blocks (R271,
R277) and the response queues' registers (R283). Other masters reach all. -/
def reaches (m : Master) (o : Nat) : Bool :=
  match m with
  | .seq i => (decide (tileBase (i.val / 2) ≤ o) && decide (o < tileBase (i.val / 2) + 0x10000))
    || (decide (0x100000 ≤ o) && decide (o < 0x300000)) || rqReg o
  | _ => true

/-- Whether master m is at or above the class of the register at o (R495), or R548 or R550 lets it through. -/
def State.mayAccess (s : State) (m : Master) (o : Nat) : Bool :=
  decide (regClass o ≤ s.level m) || s.trustException m o

/-! ### Islands (R566 to R568, R571) -/

/-- The state of an island: 0 RUN, 1 ENTERING, 2 ROOST, 3 WAKING, 4 OFF, 5 GATED (R572). -/
def State.islState (s : State) (i : Nat) : Nat := s.fget (Reg.PWR_ISL_STAT_STATE i)

/-- Whether an island is off (R571). -/
def State.islOff (s : State) (i : Nat) : Bool := decide (s.islState i = 4)

/-- One roosting island begins to wake; WAKE_SRC records the cause (R567, R568). -/
def State.wakeOne (s : State) (i cause : Nat) : State :=
  if s.islState i = 2 then (s.fset (Reg.PWR_ISL_STAT_STATE i) 3).fset (Reg.PWR_ISL_STAT_WAKE_SRC i) cause else s

/-- A wake of island i: a tile's wake also wakes the Exchange half, cause 8 (R567). -/
def State.wakeIsland (s : State) (i cause : Nat) : State :=
  if i < 64 ∧ s.islState i = 2 then (s.wakeOne i cause).wakeOne (72 + i / 32) 8 else s.wakeOne i cause

/-- The island that holds the register at o, where it may be off or roost: a tile, a DDR4 channel, an ingest group, a link,
the trust island (R552). -/
def regIsland (o : Nat) : Option Nat :=
  if 0x5000000 ≤ o ∧ o < 0x5400000 then some ((o - 0x5000000) / 0x10000)
  else if 0x7000000 ≤ o ∧ o < 0x7080000 then some (74 + (o - 0x7000000) / 0x10000)
  else if 0x100000 ≤ o ∧ o < 0x300000 then some (82 + (o - 0x100000) / 0x80000)
  else if 0x7400000 ≤ o ∧ o < 0x7400020 then some (82 + (o - 0x7400000) / 8)
  else if 0x7400100 ≤ o ∧ o < 0x7400200 then some (82 + (o - 0x7400100) / 64)
  else if 0x7400200 ≤ o ∧ o < 0x7400300 then some (82 + (o - 0x7400200) / 64)
  else if 0x7100000 ≤ o ∧ o < 0x71C0000 then some (86 + (o - 0x7100000) / 0x10000)
  else if 0x70000 ≤ o ∧ o < 0x80000 then some 101
  else none

/-- Whether the register at o lies in an island that is off (R571). -/
def State.regOff (s : State) (o : Nat) : Bool :=
  match regIsland o with
  | some i => s.islOff i
  | none => false

/-- An access over the control network wakes the island its register lies in, if that roosts (R567). -/
def State.csrWake (s : State) (o : Nat) : State :=
  match regIsland o with
  | some i => s.wakeIsland i 3
  | none => s

/-- Whether the register at o lies in a block that a Cocoon resets: neuron cores, tiles with their sequencer cores and DMA
channels, bulk engines (R483). -/
def cocoonReset (o : Nat) : Bool :=
  (decide (0x400000 ≤ o) && decide (o < 0x4400000)) || (decide (0x5000000 ≤ o) && decide (o < 0x5400000))
  || (decide (0x7300000 ≤ o) && decide (o < 0x7320000))

/-- Whether a running Cocoon keeps a write of m from the register at o (R485); the AON controller itself still writes (log entry 75). -/
def State.cocoonHides (s : State) (m : Master) (o : Nat) : Bool :=
  s.fbit Reg.INST_STATUS_COCOON && cocoonReset o && decide (m ≠ .aon)

/-- The Instar in progress, or 7 (R486). -/
def State.stage (s : State) : Nat := s.fget Reg.INST_STATUS_STAGE

/-- Whether the device answers BAR accesses: once Instar 5 has ended, and through recovery wait (R474, R548). -/
def State.barOpen (s : State) : Bool := decide (5 < s.stage) || s.fbit Reg.INST_STATUS_COCOON || s.fbit Reg.TRU_STATUS_RECOVERY

/-- A BAR access of the host: before that it is answered with Unsupported Request (R474). -/
def State.bar (s : State) (f : State → State) : State := if s.barOpen then f s else s.emit .unsupported

/-- An access by master m, over BAR0 or BAR4 where that is the host. -/
def State.barFor (s : State) (m : Master) (f : State → State) : State := if m = .pcie then s.bar f else f s

/-- A write of a guarded register: f where the master may make it; below the register's class it is ignored and
AON_PRIV_CNT counts it (R496); an island that is off answers NO_TARGET (R571); a block reset by a Cocoon takes nothing (R485). What it changes may make a batch STALE (R508). A sequencer core's access outside its tile's block reaches nothing. -/
def State.guarded (s : State) (m : Master) (o : Nat) (f : State → State) : State :=
  if m = .pcie ∧ s.barOpen = false then s.emit .unsupported
  else if !reaches m o || s.cocoonHides m o then s
  else if s.regOff o then s.emit (.refused 3 (0x82000000000 + o))
  else if s.mayAccess m o then (f (s.csrWake o)).staleIf o ((s.csrWake o).rd o)
  else s.count Reg.AON_PRIV_CNT 1

/-- The owner code of a master (R509): 0 AON, 1 JTAG, 2 PCIe, 8 + c application core c. -/
def ownerCode : Master → Nat
  | .aon => 0
  | .jtag => 1
  | .pcie => 2
  | .app c _ => 8 + c.val
  | .seq _ => 15

/-! ### The device and its power state -/

/-- The device's own number (R16, R440). -/
def State.devid (s : State) : Nat := s.fget Reg.AON_ID_DEVID

/-- Whether a chip reset is held: the device then takes no command but those that end it (R583, R585, R563). -/
def State.down (s : State) : Bool := !s.aon.held.isEmpty

/-- f unless a chip reset is held. -/
def State.alive (s : State) (f : State → State) : State := if s.down then s else f s

/-- Whether the device is in service: Instar 6 has ended and no Cocoon runs. -/
def State.inService (s : State) : Bool := s.fbit Reg.INST_STATUS_READY

/-! ### Addresses -/

/-- The local part of an address: bits [43:0] of a global address; an address with bit 47 clear is local as it stands (R19, R20). -/
def localPart (a : Nat) : Nat := if bit a 47 then a % 2 ^ 44 else a % 2 ^ 47

/-- The device an address names: bits [46:44] when bit 47 is set, else the local device (R19). -/
def State.addrDev (s : State) (a : Nat) : Nat := if bit a 47 then bits a 46 44 else s.devid

/-- Whether an address is local to the device (R19). -/
def State.isLocal (s : State) (a : Nat) : Bool := decide (s.addrDev a = s.devid)

/-- What lies at a local address (R20). -/
inductive Place where
  | ddr
  | slice (off : Nat)
  | sliceSet (off : Nat)
  | sliceClear (off : Nat)
  /-- 0x0800_3000_0000 to 0x0800_FFFF_FFFF, which reads zero (R219). -/
  | sliceHole
  | window (n off : Nat)
  | csr (off : Nat)
  | own (off : Nat)
  | seqMem (i off : Nat)
  | unmapped
  deriving DecidableEq, Repr

/-- The local address map (R20). -/
def placeOf (a : Nat) : Place :=
  if a < 0x40000000000 then .ddr
  else if a < 0x80000000000 then .unmapped
  else if a < 0x80030000000 then .slice (a - 0x80000000000)
  else if a < 0x80100000000 then .sliceHole
  else if a < 0x80130000000 then .sliceSet (a - 0x80100000000)
  else if a < 0x80200000000 then .unmapped
  else if a < 0x80230000000 then .sliceClear (a - 0x80200000000)
  else if a < 0x81000000000 then .unmapped
  else if a < 0x81080000000 then .window ((a - 0x81000000000) / 0x200000) ((a - 0x81000000000) % 0x200000)
  else if a < 0x82000000000 then .unmapped
  else if a < 0x82010000000 then .csr (a - 0x82000000000)
  else if a < 0x83000000000 then .unmapped
  else if a < 0x83001000000 then .own (a - 0x83000000000)
  else if a < 0x83100000000 then .unmapped
  else if a < 0x83102000000 then .seqMem ((a - 0x83100000000) / 0x40000) ((a - 0x83100000000) % 0x40000)
  else .unmapped

end Sys2Proof.Machine
end

