-- ==== Sys2Proof/Machine/Coords.lean ====
section
/-! DEFINITION. Mesh coordinates (R295, R296, R301): where the units of a device stand. -/

namespace Sys2Proof.Machine

/-- A coordinate: DEV, HALF, REGION, Y, X, EP (R296). -/
def coord (dev half region y x ep : Nat) : Nat := dev * 2 ^ 19 + half * 2 ^ 18 + region * 2 ^ 16 + y * 2 ^ 12 + x * 2 ^ 7 + ep

/-- The fields of a coordinate. -/
def coDev (c : Nat) : Nat := bits c 21 19
def coHalf (c : Nat) : Nat := bits c 18 18
def coRegion (c : Nat) : Nat := bits c 17 16
def coY (c : Nat) : Nat := bits c 15 12
def coX (c : Nat) : Nat := bits c 11 7
def coEp (c : Nat) : Nat := bits c 6 0

/-- Endpoint ep of tile t: 0 the tile, 1 and 2 its sequencer cores (R301). -/
def tileCoord (dev t ep : Nat) : Nat := coord dev (t / 32) 1 (t % 32 / 8) (t % 8) ep

/-- The half of the router that an IO unit of class y, number x, joins (R301). -/
def ioHalf (y x : Nat) : Nat :=
  if y = 0 then (16 * x + 8) / 32
  else if y = 1 then (8 * x + 4) / 32
  else if y = 2 then (if x ≤ 5 then 5 * x + 2 else 5 * x + 4) / 32
  else if y = 4 then x
  else if y = 6 then 1
  else 0

/-- An IO unit's coordinate. -/
def ioCoord (dev y x ep : Nat) : Nat := coord dev (ioHalf y x) 2 y x ep

/-- A queue owner's coordinate: sequencer core o below 128, application core 128 + c, the time base at 136. -/
def ownerCoord (dev o : Nat) : Nat :=
  if o < 128 then tileCoord dev (o / 2) (1 + o % 2) else if o < 136 then ioCoord dev 6 0 (o - 128) else ioCoord dev 5 0 0

/-- DMA channel 16·engine + c: a tile's engine below 64, a bulk engine above. -/
def dmaCoord (dev ch : Nat) : Nat := if ch < 1024 then tileCoord dev (ch / 16) 0 else ioCoord dev 4 (ch / 16 - 64) (ch % 16)

/-- Stream i's encoder and raw tap. -/
def streamCoord (dev i : Nat) : Nat := ioCoord dev 0 (i / 8) (i % 8)

/-- The number of IO units of a class, and of endpoints of each (R301). -/
def ioUnits (y : Nat) : Nat := if y = 0 then 4 else if y = 1 then 8 else if y = 2 then 12 else if y = 4 then 2 else if y = 3 ∨ y = 5 ∨ y = 6 then 1 else 0
def ioEps (y : Nat) : Nat := if y = 0 ∨ y = 6 then 8 else if y = 4 then 16 else 1

/-- The queue owner that a coordinate of any device names, if it names one. -/
def coordOwner (c : Nat) : Option Nat :=
  if coRegion c = 1 ∧ (coEp c = 1 ∨ coEp c = 2) ∧ coX c < 8 ∧ coY c < 4 then some (2 * (32 * coHalf c + 8 * coY c + coX c) + coEp c - 1)
  else if coRegion c = 2 ∧ coY c = 6 ∧ coX c = 0 ∧ coHalf c = 1 ∧ coEp c < 8 then some (128 + coEp c)
  else none

/-- The tile of a region 1 coordinate. -/
def coordTile (c : Nat) : Nat := 32 * coHalf c + 8 * coY c + coX c

/-- The neuron core of a region 0 coordinate. -/
def coordCore (c : Nat) : Nat := 512 * coHalf c + 32 * coY c + coX c

end Sys2Proof.Machine
end

