-- ==== Sys2Proof/Machine/Cells.lean ====
section
/-! DEFINITION. What stands on the wire: the header word and the payload of every cell (R294 to R298, R319, R335, R353, R357, R462), and the
requests a master makes of memory. -/

namespace Sys2Proof.Machine

/-! ### Queue names (R334) -/

def qnDev (q : Nat) : Nat := bits q 15 13
def qnOwner (q : Nat) : Nat := bits q 12 4
def qnQueue (q : Nat) : Nat := bits q 3 0
def qnOf (dev owner queue : Nat) : Nat := dev * 8192 + owner * 16 + queue

/-! ### The wire (R294 to R298, R319) -/

/-- The VN of a TYPE (R297). -/
def vnOf (type : Nat) : Option Nat :=
  if 1 ≤ type ∧ type ≤ 10 then some 0
  else if 16 ≤ type ∧ type ≤ 21 then some 1
  else if type = 22 ∨ type = 23 then some 2
  else if type = 25 then some 3
  else if type = 27 ∨ type = 28 then some 4
  else none

/-- The header of a cell (R295): FLAGS, SEQ, TYPE, VN, SRC, DST. -/
def header (flags seq type vn src dst : Nat) : DWord :=
  BitVec.ofNat 64 (flags % 16 * 2 ^ 60 + seq % 256 * 2 ^ 52 + type % 32 * 2 ^ 47 + vn % 8 * 2 ^ 44 + src % 2 ^ 22 * 2 ^ 22 + dst % 2 ^ 22)

/-- A payload of 40 bytes: the bytes given, then zeros. -/
def payload (l : List Byte) : List Byte := (l ++ List.replicate 40 0).take 40

/-- The cells of a request or reply: FIRST on the first, LAST on the last (R298). -/
def cellsOf (flags seq type vn src dst : Nat) (l : List (List Byte)) : List (DWord × List Byte) :=
  l.mapIdx fun i p =>
    (header (flags + (if i = 0 then 1 else 0) + (if i + 1 = l.length then 2 else 0)) seq type vn src dst, payload p)

/-- A link-local cell of a TYPE (R319): it stays on its link, so SRC and DST are 0 (log entry 97). -/
def localCell (type : Nat) (l : List Byte) : List (DWord × List Byte) := [(header 3 0 type 7 0 0, payload l)]

/-- The cells that a message is on the mesh or a link, each with its header and payload; alt: it leaves by an alternate route. A notice
travels as its watch's one reply (R356, log entry 97). -/
def Emit.wire : Emit → Bool → List (DWord × List Byte)
  | .onAlt e, _ => e.wire true
  | .ev dev c src seq imm ep l, alt =>
    [(header ((if ep then 1 else 0) + (if imm then 2 else 0) + (if alt then 4 else 0)) seq l.length 0 src
      (coord dev (c / 512) 0 (c % 512 / 32) (c % 32) 0), payload (l.flatMap fun w => leBytes 4 w.toNat))]
  | .cell type dst src seq poison l, alt =>
    cellsOf ((if alt then 4 else 0) + (if poison then 8 else 0)) seq type ((vnOf type).getD 0) src dst l
  | .sync dev obj op arg wqn src, alt =>
    cellsOf (if alt then 4 else 0) (src / 2 ^ 22) 20 1 src (ownerCoord dev (obj / 256))
      [[BitVec.ofNat 8 op, BitVec.ofNat 8 obj] ++ leBytes 2 wqn ++ leBytes 4 arg]
  | .notice wqn time obj dev kind value thr eq src, alt =>
    cellsOf (if alt then 4 else 0) 0 23 2 src (ownerCoord (qnDev wqn) (qnOwner wqn))
      [leBytes 8 time ++ leBytes 2 obj ++ [BitVec.ofNat 8 dev, BitVec.ofNat 8 kind] ++ leBytes 4 value ++ leBytes 4 thr ++ [if eq then 1 else 0]]
  | .qmsg dev owner queue src a l, alt =>
    cellsOf (if a || alt then 4 else 0) ((l.length - 1) * 32 + queue) 19 1 src (ownerCoord dev owner) l
  | .status dst code b1 b2 value, alt =>
    cellsOf (if alt then 4 else 0) (dst / 2 ^ 22) 23 2 0 dst [[BitVec.ofNat 8 code, BitVec.ofNat 8 b1, BitVec.ofNat 8 b2, 0] ++ leBytes 4 value]
  | .esc _ dst src type flags data, _ => [(header flags (src / 2 ^ 22) type 5 src dst, payload data)]
  | .tsync _ reply no t1 t2 t3, _ =>
    let stamp (t : Nat) : List Byte := leBytes 8 (t / 65536) ++ leBytes 2 (t % 65536)
    localCell 1 ([if reply then 1 else 0, BitVec.ofNat 8 no] ++ stamp t1 ++ stamp t2 ++ stamp t3)
  | .ctrlCell _ words, _ => localCell 2 (words.flatMap fun w => leBytes 2 w)
  | .twin _ kind gen role devid t count sum, _ =>
    localCell 3 ([BitVec.ofNat 8 kind, BitVec.ofNat 8 gen, BitVec.ofNat 8 role, BitVec.ofNat 8 devid, 0, 0, 0, 0]
      ++ (if kind = 4 then leBytes 4 t ++ leBytes 4 count ++ leBytes 4 sum else leBytes 8 t))
  | _, _ => []

/-- The three flits of a cell (R294). -/
def flitsOf (w : DWord × List Byte) : List (BitVec 128) :=
  let l := leBytes 8 w.1.toNat ++ payload w.2
  (List.range 3).map fun i => BitVec.ofNat 128 (leNat ((l.drop (16 * i)).take 16))

/-! ### Memory requests and replies (R297, R410, R462) -/

/-- An RD_REQ of n replies of 32 bytes from address a. -/
def rdPayload (a n : Nat) : List Byte := leBytes 6 a ++ [BitVec.ofNat 8 (n - 1)]

/-- The bytes of the 32-byte granule at g that a write holds, zero where it holds none. -/
def granuleOf (l : List (Nat × Byte)) (g : Nat) : List Byte :=
  (List.range 32).map fun i => ((l.find? fun x => decide (x.1 = g + i)).map Prod.snd).getD 0

/-- The 32-byte granules a write spans, from the lowest. -/
def granulesOf (l : List (Nat × Byte)) : List Nat :=
  let lo := (l.map Prod.fst).foldl min ((l.map Prod.fst).headD 0) / 32
  let hi := (l.map Prod.fst).foldl max 0 / 32
  (List.range (hi + 1 - lo)).map fun i => (lo + i) * 32

/-- The cells of a WR_REQ from address a: address, NM1 and byte enables, then the data (R297). -/
def maskCells (a : Nat) (d : List (Option Byte)) : List (List Byte) :=
  let n := (d.length + 31) / 32
  (leBytes 6 (a % 2 ^ 48) ++ [BitVec.ofNat 8 (n - 1), 0] ++
    leBytes 32 ((List.range d.length).foldl (fun m i => if (d.getD i none).isSome then m + 2 ^ i else m) 0)) ::
  (List.range n).map fun i => ((d.drop (32 * i)).take 32).map fun b => b.getD 0

/-- A write's bytes as the granules it spans, with an enable for each byte. -/
def wrCells (l : List (Nat × Byte)) : List (List Byte) :=
  let a := (granulesOf l).headD 0
  maskCells a ((List.range (32 * (granulesOf l).length)).map fun i => (l.find? fun x => decide (x.1 = a + i)).map Prod.snd)

/-- The cells of a WR_FULL: one data cell per granule; where the address stands is the model's choice (R462, log entry 97). -/
def fullCells (l : List (Nat × Byte)) : List (List Byte) :=
  let g := granulesOf l
  g.map fun x => granuleOf l x ++ leBytes 6 (x % 2 ^ 48) ++ [BitVec.ofNat 8 (g.length - 1)]

/-- The cells of a write of a TYPE: 21 WR_FULL, else WR_REQ. -/
def writeCells (type : Nat) (l : List (Nat × Byte)) : List (List Byte) := if type = 21 then fullCells l else wrCells l

/-- A reply of 32 bytes: data and its index within the request (R297). -/
def rdData (data : List Byte) (i : Nat) : List Byte := ((data ++ List.replicate 32 0).take 32) ++ [BitVec.ofNat 8 i]

/-- Byte i of a payload replaced. -/
def withByte (l : List Byte) (i b : Nat) : List Byte := (payload l).set i (BitVec.ofNat 8 b)

/-- The payloads of a request as FWD carries them: byte 7 of the first cell and byte 32 of each WR_REQ data cell hold its TYPE (R410). -/
def fwdCells (type : Nat) (l : List (List Byte)) : List (List Byte) :=
  l.mapIdx fun i p => withByte p (if i = 0 then 7 else 32) type

end Sys2Proof.Machine
end

