-- ==== Sys2Proof/Machine/Crypto.lean ====
section
/-! DEFINITION. The check values the manual takes from other standards: the CRC-32 of IEEE 802.3 (R466, R516) and
SHA-256 with HMAC (R541, R545, R547). Signatures are constants without a body in Config. -/

namespace Sys2Proof.Machine

/-- One bit of the CRC-32 of IEEE 802.3, reflected. -/
def crcBit (c : BitVec 32) : BitVec 32 := if c.getLsbD 0 then (c >>> 1) ^^^ 0xEDB88320#32 else c >>> 1

/-- One byte of the CRC-32. -/
def crcByte (c : BitVec 32) (b : Byte) : BitVec 32 :=
  crcBit (crcBit (crcBit (crcBit (crcBit (crcBit (crcBit (crcBit (c ^^^ b.zeroExtend 32))))))))

/-- The CRC-32 of IEEE 802.3 of a list of bytes. -/
def crc32 (l : List Byte) : BitVec 32 := ~~~ (l.foldl crcByte 0xFFFFFFFF#32)

/-- The round constants of SHA-256 (FIPS 180-4). -/
def shaK : List (BitVec 32) := [
  0x428a2f98#32, 0x71374491#32, 0xb5c0fbcf#32, 0xe9b5dba5#32, 0x3956c25b#32, 0x59f111f1#32, 0x923f82a4#32, 0xab1c5ed5#32,
  0xd807aa98#32, 0x12835b01#32, 0x243185be#32, 0x550c7dc3#32, 0x72be5d74#32, 0x80deb1fe#32, 0x9bdc06a7#32, 0xc19bf174#32,
  0xe49b69c1#32, 0xefbe4786#32, 0x0fc19dc6#32, 0x240ca1cc#32, 0x2de92c6f#32, 0x4a7484aa#32, 0x5cb0a9dc#32, 0x76f988da#32,
  0x983e5152#32, 0xa831c66d#32, 0xb00327c8#32, 0xbf597fc7#32, 0xc6e00bf3#32, 0xd5a79147#32, 0x06ca6351#32, 0x14292967#32,
  0x27b70a85#32, 0x2e1b2138#32, 0x4d2c6dfc#32, 0x53380d13#32, 0x650a7354#32, 0x766a0abb#32, 0x81c2c92e#32, 0x92722c85#32,
  0xa2bfe8a1#32, 0xa81a664b#32, 0xc24b8b70#32, 0xc76c51a3#32, 0xd192e819#32, 0xd6990624#32, 0xf40e3585#32, 0x106aa070#32,
  0x19a4c116#32, 0x1e376c08#32, 0x2748774c#32, 0x34b0bcb5#32, 0x391c0cb3#32, 0x4ed8aa4a#32, 0x5b9cca4f#32, 0x682e6ff3#32,
  0x748f82ee#32, 0x78a5636f#32, 0x84c87814#32, 0x8cc70208#32, 0x90befffa#32, 0xa4506ceb#32, 0xbef9a3f7#32, 0xc67178f2#32]

/-- The working words of SHA-256. -/
structure Sha where
  a : BitVec 32
  b : BitVec 32
  c : BitVec 32
  d : BitVec 32
  e : BitVec 32
  f : BitVec 32
  g : BitVec 32
  h : BitVec 32
  deriving DecidableEq, Repr

/-- The initial hash value of SHA-256. -/
def Sha.init : Sha :=
  ⟨0x6a09e667#32, 0xbb67ae85#32, 0x3c6ef372#32, 0xa54ff53a#32, 0x510e527f#32, 0x9b05688c#32, 0x1f83d9ab#32, 0x5be0cd19#32⟩

/-- The message schedule, newest word first: n more words after the sixteen given. -/
def shaSchedule : Nat → List (BitVec 32) → List (BitVec 32)
  | 0, w => w
  | n + 1, w =>
    let x15 := w.getD 14 0
    let x2 := w.getD 1 0
    let s0 := x15.rotateRight 7 ^^^ x15.rotateRight 18 ^^^ (x15 >>> 3)
    let s1 := x2.rotateRight 17 ^^^ x2.rotateRight 19 ^^^ (x2 >>> 10)
    shaSchedule n ((w.getD 15 0 + s0 + w.getD 6 0 + s1) :: w)

/-- One round. -/
def shaRound (v : Sha) (kw : BitVec 32 × BitVec 32) : Sha :=
  let s1 := v.e.rotateRight 6 ^^^ v.e.rotateRight 11 ^^^ v.e.rotateRight 25
  let ch := (v.e &&& v.f) ^^^ (~~~ v.e &&& v.g)
  let t1 := v.h + s1 + ch + kw.1 + kw.2
  let s0 := v.a.rotateRight 2 ^^^ v.a.rotateRight 13 ^^^ v.a.rotateRight 22
  let maj := (v.a &&& v.b) ^^^ (v.a &&& v.c) ^^^ (v.b &&& v.c)
  ⟨t1 + (s0 + maj), v.a, v.b, v.c, v.d + t1, v.e, v.f, v.g⟩

/-- The big-endian words of bytes. -/
def beWords : List Byte → List (BitVec 32)
  | a :: b :: c :: d :: r => (a ++ b ++ c ++ d) :: beWords r
  | _ => []

/-- One block of sixteen words. -/
def shaBlock (v : Sha) (w : List (BitVec 32)) : Sha :=
  let u := (shaK.zip (shaSchedule 48 w.reverse).reverse).foldl shaRound v
  ⟨v.a + u.a, v.b + u.b, v.c + u.c, v.d + u.d, v.e + u.e, v.f + u.f, v.g + u.g, v.h + u.h⟩

/-- The blocks of a word list, n at most. -/
def shaBlocks : Nat → Sha → List (BitVec 32) → Sha
  | 0, v, _ => v
  | n + 1, v, w => if w.length < 16 then v else shaBlocks n (shaBlock v (w.take 16)) (w.drop 16)

/-- The n big-endian bytes of a number. -/
def beBytes (n v : Nat) : List Byte := (leBytes n v).reverse

/-- The padding of SHA-256. -/
def shaPad (l : List Byte) : List Byte :=
  l ++ [0x80#8] ++ List.replicate ((55 + 64 - l.length % 64) % 64) 0 ++ beBytes 8 (8 * l.length)

/-- SHA-256 (FIPS 180-4) of a list of bytes: 32 bytes. -/
def sha256 (l : List Byte) : List Byte :=
  let v := shaBlocks (l.length / 64 + 2) Sha.init (beWords (shaPad l))
  [v.a, v.b, v.c, v.d, v.e, v.f, v.g, v.h].flatMap fun w => beBytes 4 w.toNat

/-- HMAC-SHA-256 (FIPS 198-1), for keys of at most 64 bytes. -/
def hmacSha256 (key msg : List Byte) : List Byte :=
  let k := key ++ List.replicate (64 - key.length) 0
  sha256 (k.map (· ^^^ 0x5c#8) ++ sha256 (k.map (· ^^^ 0x36#8) ++ msg))

end Sys2Proof.Machine
end

