-- ==== Sys2Proof/Machine/Store.lean ====
section
/-! DEFINITION. The settings store and the xSPI port (R510 to R518). -/

namespace Sys2Proof.Machine

/-- The bookkeeping of a copy of sector k: copy A or B. -/
def State.copyOf (s : State) (b : Bool) (k : Nat) : SectorCopy :=
  tabGet (fun _ => SectorCopy.init) (if b then s.store.copyB else s.store.copyA) k

/-- The copy a LOAD and every read at start uses: the one with a valid CRC and the higher sequence number (R516). -/
def State.sectorUsed (s : State) (k : Nat) : Option Bool :=
  let a := s.copyOf false k
  let b := s.copyOf true k
  if a.crcOk && b.crcOk then some (decide (a.seq < b.seq))
  else if a.crcOk then some false
  else if b.crcOk then some true
  else none

/-- The copy a STORE programs: the older one (R516); an invalid copy counts as the older. -/
def State.sectorOlder (s : State) (k : Nat) : Bool :=
  match s.sectorUsed k with
  | some b => !b
  | none => false

/-- The limits word of the manufacturer page: the ceilings of the ordering code and the LOCK bit, as AON_LIMITS holds them (R1 to R3). -/
def limitsWord : Nat := if Config.codeS then 120 * 2 ^ 24 + 160 * 2 ^ 12 + 1 else 160 * 2 ^ 24 + 240 * 2 ^ 12 + 1

/-- What a byte of the manufacturer page reads as (R2, R514): the limits in its first word (log entry 94), else as made; seed bytes read zero. -/
def mfgByte (a : Nat) : Byte := if a < 4 then (leBytes 4 limitsWord).getD a 0 else Config.mfgByte a

/-- The byte at an MRAM address, by the copy in use; zero where no copy is valid. No STORE reaches the manufacturer page, sectors 0 to 15. -/
def State.mramByte (s : State) (a : Nat) : Byte :=
  match s.sectorUsed (a / 4096) with
  | none => 0
  | some b => if a < 0x10000 then mfgByte a else if b then s.store.dataB.get a else s.store.dataA.get a

/-- n bytes of MRAM from an address, as a little-endian number. -/
def State.mramNat (s : State) (a n : Nat) : Nat := leNat ((List.range n).map fun i => s.mramByte (a + i))

/-- Byte i of SET_BUF. -/
def State.bufByte (s : State) (i : Nat) : Byte := BitVec.ofNat 8 ((s.rd (Reg.SET_BUF (i / 4))).toNat >>> (8 * (i % 4)))

/-- The 4,096 bytes of SET_BUF. -/
def State.bufBytes (s : State) : List Byte := (List.range 4096).map s.bufByte

/-- Words of SET_BUF set from bytes, from word j on. -/
def State.bufWrite (s : State) (j : Nat) : List Byte → State
  | a :: b :: c :: d :: r => State.bufWrite (s.wrN (Reg.SET_BUF j) (leNat [a, b, c, d])) (j + 1) r
  | [] => s
  | l => s.wrN (Reg.SET_BUF j) (leNat l)

/-- A copy of sector k becomes: programmed with l, sequence q, and CRC good or bad. -/
def State.setCopy (s : State) (b : Bool) (k q : Nat) (ok : Bool) (l : List Byte) : State :=
  s.onStore fun t =>
    if b then { t with dataB := t.dataB.write (k * 4096) l, copyB := tabPut (fun _ => SectorCopy.init) t.copyB k ⟨q, ok⟩ }
    else { t with dataA := t.dataA.write (k * 4096) l, copyA := tabPut (fun _ => SectorCopy.init) t.copyA k ⟨q, ok⟩ }

/-- Sector k programmed with l: the older copy, then its sequence number and CRC (R516). -/
def State.sectorProgram (s : State) (k : Nat) (l : List Byte) : State :=
  s.setCopy (s.sectorOlder k) k (max (s.copyOf false k).seq (s.copyOf true k).seq + 1) true l

/-- Whether a command is running. -/
def State.setBusy (s : State) : Bool := s.fbit Reg.SET_STATUS_BUSY

/-- The result of a command: ERR and SECTOR of SET_STATUS (R518). -/
def State.setResult (s : State) (err sector : Nat) : State :=
  (s.fset Reg.SET_STATUS_ERR err).fset Reg.SET_STATUS_SECTOR sector

/-- The level a sector's page needs (R514): the trust page is secure, every other privileged. -/
def sectorLevel (k : Nat) : Nat := if 48 ≤ k ∧ k < 64 then 2 else 1

/-- LOAD of sector k (R514 to R516): zeros for the reserved sectors; where no copy is valid zeros, ERR UE, SET_UE_CNT and
MRAM_UE. -/
def State.setLoad (s : State) (k : Nat) : State :=
  if 33 ≤ k ∧ k < 48 then (s.bufWrite 0 (List.replicate 4096 0)).setResult 0 k
  else match s.sectorUsed k with
    | some _ => (s.bufWrite 0 ((List.range 4096).map fun i => s.mramByte (k * 4096 + i))).setResult 0 k
    | none => (((s.bufWrite 0 (List.replicate 4096 0)).setResult 5 k).count Reg.SET_UE_CNT 1).raise 20 9 0 (k * 4096)

/-- A command of the settings store: level of the page, BUSY (R514, R515). -/
def State.setCommand (s : State) (m : Master) (k : Nat) (f : State → State) : State :=
  s.guarded m Reg.SET_CMD fun s =>
    if s.setBusy then s.ignored Reg.SET_CMD
    else
      let s := s.fset Reg.SET_CMD_SECTOR k
      if s.level m < sectorLevel k then s.setResult 3 k else f s

/-- SET_LOAD (R515). -/
def execSetLoad (m : Master) (sector : Fin 1024) (s : State) : Host.Outcome State Fault Refusal :=
  .next (s.alive fun s => s.setCommand m sector fun s => s.setLoad sector)

/-- Word i of the sector as stored, and of the buffer. -/
def State.storedWord (s : State) (k i : Nat) : Nat := s.mramNat (k * 4096 + 4 * i) 4
def State.bufWord (s : State) (i : Nat) : Nat := (s.rd (Reg.SET_BUF i)).toNat

/-- Whether the buffer keeps the defect-list rule: no record changes unless its stored KIND is 0 (R514). -/
def State.defectRule (s : State) (k : Nat) : Bool :=
  (List.range 512).all fun i =>
    decide (s.mramNat (k * 4096 + 8 * i) 8 / 2 ^ 60 = 0)
    || (decide (s.storedWord k (2 * i) = s.bufWord (2 * i)) && decide (s.storedWord k (2 * i + 1) = s.bufWord (2 * i + 1)))

/-- Whether the buffer keeps the device log's rule: no word decreases (R514). -/
def State.logRule (s : State) : Bool := (List.range 1024).all fun i => decide (s.storedWord 32 i ≤ s.bufWord i)

/-- Whether the buffer keeps the trust page's rules (R544): MIN_SVN never decreases, REVOKE and VENDOR_OFF bits only rise,
an owner slot changes only from all zero, the reserved bytes stay zero. -/
def State.trustRule (s : State) (k : Nat) : Bool :=
  if k = 48 then
    decide (s.storedWord 48 0 ≤ s.bufWord 0)
    && decide ((s.storedWord 48 1 % 256) &&& (s.bufWord 1 % 256) = s.storedWord 48 1 % 256)
    && (List.range 4).all fun j =>
      (List.range 8).all (fun i => decide (s.storedWord 48 (8 + 8 * j + i) = 0))
      || (List.range 8).all (fun i => decide (s.storedWord 48 (8 + 8 * j + i) = s.bufWord (8 + 8 * j + i)))
  else (List.range 1024).all fun i => decide (s.bufWord i = 0)

/-- The page rule's answer to a STORE of the buffer into sector k: 0 none, 1 LOCKED, 2 APPEND (R514, R544). -/
def State.storeErr (s : State) (k : Nat) : Nat :=
  if k < 16 then 1
  else if k < 32 then (if s.defectRule k then 0 else 2)
  else if k = 32 then (if s.logRule then 0 else 2)
  else if k < 48 then 1
  else if k < 64 then (if s.trustRule k then 0 else 2)
  else 0

/-- The older copy of sector k is being programmed: its CRC does not hold until the end (R516). -/
def State.storeBegin (s : State) (k : Nat) : State :=
  let b := s.sectorOlder k
  (((s.setCopy b k (s.copyOf b k).seq false []).foff Reg.SET_STATUS_THROTTLE)).onStore
    fun t => { t with programming := true, storedNow := k :: t.storedNow }

/-- STORE of the buffer into sector k (R514 to R517): a sector stored earlier in the same slow tick waits with THROTTLE. -/
def State.setStore (s : State) (k : Nat) : State :=
  if s.storeErr k ≠ 0 then s.setResult (s.storeErr k) k
  else
    let s := (s.setResult 0 k).fon Reg.SET_STATUS_BUSY
    if k ∈ s.store.storedNow then s.fon Reg.SET_STATUS_THROTTLE else s.storeBegin k

/-- SET_STORE (R514, R515, R517). -/
def execSetStore (m : Master) (sector : Fin 1024) (s : State) : Host.Outcome State Fault Refusal :=
  .next (s.alive fun s => s.setCommand m sector fun s => s.setStore sector)

/-- STORE_THROTTLE_RELEASE (R517): at the next slow tick the waiting STORE proceeds. -/
def execStoreThrottleRelease (s : State) : Host.Outcome State Fault Refusal :=
  .next (s.alive fun s =>
    let k := s.fget Reg.SET_STATUS_SECTOR
    if s.fbit Reg.SET_STATUS_THROTTLE && !s.store.storedNow.contains k then s.storeBegin k else s)

/-- STORE_END (R516): the older copy holds the buffer with the next sequence number and its CRC; where the program check
fails, ERR VERIFY, and the copy stays invalid. -/
def execStoreEnd (verified : Bool) (s : State) : Host.Outcome State Fault Refusal :=
  .next (s.alive fun s =>
    if s.setBusy && s.store.programming then
      let k := s.fget Reg.SET_STATUS_SECTOR
      let s := (s.foff Reg.SET_STATUS_BUSY).onStore fun t => { t with programming := false }
      if verified then (s.sectorProgram k s.bufBytes).count Reg.SET_STORE_CNT 1
      else s.fset Reg.SET_STATUS_ERR 4
    else s)

/-- SET_XSPI (R512): one flash transaction; read data come into SET_BUF, write data are SET_BUF's first LEN bytes. -/
def State.xspi (s : State) (answer : List Byte) : State :=
  let len := min 4096 (s.fget Reg.SET_XSPI_CMD_LEN)
  let dir := s.fbit Reg.SET_XSPI_CMD_DIR
  let addr := if s.fbit Reg.SET_XSPI_CMD_ADDR_EN then some (s.rd Reg.SET_XSPI_ADDR).toNat else none
  let t := s.emit (.xspi (s.fget Reg.SET_XSPI_CMD_INSTR) (s.fget Reg.SET_XSPI_CMD_DUMMY) addr dir (if dir then s.bufBytes.take len else []))
  let t := t.fset Reg.SET_STATUS_ERR 0
  if dir then t else t.bufWrite 0 (answer.take len ++ s.bufBytes.drop (min len answer.length))

/-- SET_XSPI (R512). -/
def execSetXspi (m : Master) (answer : List Byte) (s : State) : Host.Outcome State Fault Refusal :=
  .next (s.alive fun s => s.guarded m Reg.SET_CMD fun s =>
    if s.setBusy then s.ignored Reg.SET_CMD else s.xspi answer)

end Sys2Proof.Machine
end

