-- ==== Sys2Proof/Machine/Trust.lean ====
section
/-! DEFINITION. Image trust and attestation (R540 to R551). -/

namespace Sys2Proof.Machine

/-! ### The image and its manifest (R540) -/

/-- n bytes of an image from offset a, and as a little-endian number. -/
def imgBytes (img : List Byte) (a n : Nat) : List Byte := (img.drop a).take n
def imgNat (img : List Byte) (a n : Nat) : Nat := leNat (imgBytes img a n)

/-- A section: OFFSET, LENGTH, KIND, SHA-256. -/
structure Section where
  offset : Nat
  length : Nat
  kind : Nat
  hash : List Byte
  deriving DecidableEq, Repr

/-- Section i of the manifest (R540). -/
def imgSection (img : List Byte) (i : Nat) : Section :=
  ⟨imgNat img (64 + 48 * i) 4, imgNat img (68 + 48 * i) 4, imgNat img (72 + 48 * i) 1, imgBytes img (80 + 48 * i) 32⟩

/-- The sections of the manifest. -/
def imgSections (img : List Byte) : List Section := (List.range (imgNat img 7 1)).map (imgSection img)

/-- Whether two sections overlap. -/
def overlap (a b : Section) : Bool := decide (a.offset < b.offset + b.length) && decide (b.offset < a.offset + a.length)

/-- Whether no two of the sections overlap. -/
def apart : List Section → Bool
  | [] => true
  | a :: r => r.all (fun b => !overlap a b) && apart r

/-- Check 3 of R541. -/
def sectionsOk (img : List Byte) : Bool :=
  let l := imgSections img
  let len := imgNat img 12 4
  decide (1 ≤ imgNat img 7 1) && decide (imgNat img 7 1 ≤ 16)
  && l.all (fun x => decide (x.offset + x.length ≤ len) && decide (x.offset % 512 = 0) && decide (1 ≤ x.kind) && decide (x.kind ≤ 6))
  && apart l && decide ((l.filter fun x => decide (x.kind = 1)).length = 1)

/-- Whether a key is accepted (R543): Tvedkem's hash with VENDOR_OFF = 0, or a non-zero owner slot not revoked. -/
def State.keyAccepted (s : State) (pk : List Byte) : Bool :=
  let h := sha256 pk
  let flags := s.mramNat (48 * 4096 + 4) 1
  (decide (h = Config.vendorKeyHash) && !bit flags 7)
  || (List.range 4).any fun j =>
    let slot := (List.range 32).map fun i => s.mramByte (48 * 4096 + 32 + 32 * j + i)
    decide (h = slot) && decide (slot ≠ List.replicate 32 0) && !bit flags j

/-- The checks of R541 in their order: 0 passed, else the code of the first that fails (R472). -/
def State.imageCode (s : State) (img : List Byte) : Nat :=
  if imgNat img 0 4 ≠ 0x45574D46 ∨ imgNat img 4 2 ≠ 1 then 0x12
  else if 6 * 2 ^ 20 < imgNat img 12 4 then 0x11
  else if !sectionsOk img then 0x12
  else if !s.keyAccepted (imgBytes img 16 32) then 0x12
  else if !Config.slhVerify (imgBytes img 16 32) (imgBytes img 0 832) (imgBytes img 832 7856) then 0x12
  else if imgNat img 8 4 < (s.rd Reg.TRU_SVN).toNat then 0x12
  else if !(imgSections img).all (fun x => decide (sha256 (imgBytes img x.offset x.length) = x.hash)) then 0x12
  else 0

/-! ### Measurement (R542, R545) -/

/-- The bytes of consecutive registers. -/
def State.regBytes (s : State) (o n : Nat) : List Byte := (s.rdWords o n).flatMap fun w => leBytes 4 w.toNat

/-- Consecutive registers from o set from bytes, four to a word. -/
def State.regBytesPut (s : State) (o : Nat) : List Byte → State
  | a :: b :: c :: d :: r => State.regBytesPut (s.wrN o (leNat [a, b, c, d])) (o + 4) r
  | _ => s

/-- Mi := SHA-256(Mi ‖ d) (R545). -/
def State.extend (s : State) (i : Nat) (d : List Byte) : State :=
  s.regBytesPut (Reg.TRU_MEAS (8 * i)) (sha256 (s.regBytes (Reg.TRU_MEAS (8 * i)) 8 ++ d))

/-- The secret parts of the attestation key (R547). -/
def attSecret : List Byte := hmacSha256 Config.identitySeed [0x41, 0x54, 0x54, 0x2D, 0x53, 0x4B]

/-- The public key: PK.seed and the root (R547). -/
def attPublic : List Byte :=
  let ps := (hmacSha256 Config.identitySeed [0x41, 0x54, 0x54, 0x2D, 0x50, 0x4B]).take 16
  (ps ++ Config.slhRoot attSecret ps).take 32

/-- BOOT_MEASUREMENT (R542): M0 takes the hash of manifest bytes 0 to 831, M1 the KIND 1 section's, M2 each other
section's in table order; ROM_LOCK, the attestation key and the SVN follow; FW_GEN shows in AON_TWIN_VER (R540). -/
def State.bootMeasure (s : State) (img : List Byte) : State :=
  let s := s.extend 0 (sha256 (imgBytes img 0 832))
  let s := forL ((imgSections img).filter fun x => decide (x.kind = 1)) (fun x s => s.extend 1 x.hash) s
  let s := forL ((imgSections img).filter fun x => decide (x.kind ≠ 1)) (fun x s => s.extend 2 x.hash) s
  (((s.fon Reg.TRU_STATUS_ROM_LOCK).regBytesPut (Reg.TRU_ATT_PK 0) attPublic).wrN Reg.TRU_IMG_SVN (imgNat img 8 4)).fset
    Reg.AON_TWIN_VER_FW_GEN (imgNat img 6 1)

/-- f for a secure master; R548 and R550 let no other write these fields of TRU_CTL, so its write is ignored and AON_PRIV_CNT counts it. -/
def State.secureOnly (s : State) (m : Master) (f : State → State) : State := if s.level m = 2 then f s else s.count Reg.AON_PRIV_CNT 1

/-- MEASURE_EXTEND (R545): after ROM_LOCK an extend of M0 to M3 is ignored and sets CFG_IGNORED. -/
def State.measureExtend (s : State) (i : Nat) : State :=
  if s.fbit Reg.TRU_STATUS_ROM_LOCK && decide (i < 4) then s.ignored Reg.TRU_CTL
  else s.extend i (s.regBytes (Reg.TRU_EXT_DATA 0) 8)

/-- MEASURE_EXTEND (R545): a write of EXTEND with EIDX = i. -/
def execMeasureExtend (m : Master) (i : Fin 8) (s : State) : Host.Outcome State Fault Refusal :=
  .next (s.alive fun s => s.guarded m Reg.TRU_CTL fun s => s.secureOnly m fun s => (s.fset Reg.TRU_CTL_EIDX i).measureExtend i)

/-! ### Attestation (R546) -/

/-- The report body of R546. -/
def State.reportBody (s : State) (mask : Nat) : List Byte :=
  leBytes 4 0x45575254 ++ s.regBytes (Reg.TRU_DEVICE_ID 0) 2 ++ leBytes 8 s.now ++ s.regBytes (Reg.TRU_NONCE 0) 8
  ++ [BitVec.ofNat 8 mask, BitVec.ofNat 8 (s.fget Reg.AON_TWIN_VER_FW_GEN), BitVec.ofNat 8 s.stage,
      BitVec.ofNat 8 ((s.rd Reg.TRU_STATUS).toNat / 2 ^ 24)]
  ++ List.replicate 8 0
  ++ (List.range 8).flatMap (fun i => if bit mask i then s.regBytes (Reg.TRU_MEAS (8 * i)) 8 else List.replicate 32 0)
  ++ s.regBytes Reg.TRU_IMG_SVN 1 ++ s.regBytes Reg.TRU_SVN 1 ++ List.replicate 56 0

/-- ATTEST_SIGN (R546): ignored while BUSY = 1; else the body is taken and BUSY set. -/
def State.attestSign (s : State) : State :=
  if s.fbit Reg.TRU_STATUS_BUSY then s.ignored Reg.TRU_CTL
  else
    let body := s.reportBody (s.fget Reg.TRU_CTL_MASK)
    (s.fon Reg.TRU_STATUS_BUSY).onTrust fun t => { t with body := some body }

/-- ATTEST_SIGN (R546): a write of SIGN with MASK = mask. -/
def execAttestSign (m : Master) (mask : BitVec 8) (s : State) : Host.Outcome State Fault Refusal :=
  .next (s.alive fun s => s.guarded m Reg.TRU_CTL fun s => s.secureOnly m fun s => (s.fset Reg.TRU_CTL_MASK mask.toNat).attestSign)

/-- SIGN_END (R546): body and signature stand in TRU_REPORT and BUSY clears. -/
def execSignEnd (s : State) : Host.Outcome State Fault Refusal :=
  .next (s.alive fun s =>
    match s.trust.body with
    | some b =>
      let sig := (Config.slhSign attSecret b ++ List.replicate 17088 0).take 17088
      let s := s.onTrust fun t => { t with body := none }
      (s.foff Reg.TRU_STATUS_BUSY).regBytesPut (Reg.TRU_REPORT 0) (b ++ sig)
    | none => s)

/-! ### Debug unlock (R550) -/

/-- A new challenge from the entropy source: eight values the manual leaves open. -/
def State.newChallenge (s : State) : State :=
  let w := s.freeVals 32 8
  (s.drawnN 8).wrWords (Reg.TRU_CHAL 0) w

/-- DEBUG_UNLOCK (R550): the signature in TRU_WIN over TRU_DEVICE_ID ‖ TRU_CHAL, under the key in TRU_EXT_DATA accepted by
R543, opens debug and extends M7; a new challenge is drawn in every case; with DBG_LOCK the write is ignored. -/
def State.debugUnlock (s : State) : State :=
  if s.fbit Reg.TRU_CTL_DBG_LOCK then s.ignored Reg.TRU_CTL
  else
    let pk := s.regBytes (Reg.TRU_EXT_DATA 0) 8
    let msg := s.regBytes (Reg.TRU_DEVICE_ID 0) 2 ++ s.regBytes (Reg.TRU_CHAL 0) 8
    let sig := s.trust.staging.read (s.fget Reg.TRU_SRV_PAGE_PAGE * 32768) 7856
    let ok := s.keyAccepted pk && Config.slhVerify pk msg sig
    (s.iff ok fun s => (s.fon Reg.TRU_STATUS_DBG_OPEN).extend 7 (sha256 pk)).newChallenge

/-- DEBUG_UNLOCK (R550). -/
def execDebugUnlock (m : Master) (s : State) : Host.Outcome State Fault Refusal :=
  .next (s.alive fun s => s.guarded m Reg.TRU_CTL fun s => if m = .jtag then s.debugUnlock else s.secureOnly m fun s => s.debugUnlock)

/-! ### The staging area (R548) -/

/-- A write of TRU_WIN: into the page that TRU_SRV_PAGE selects. In recovery wait the first source to write owns the
area; another's write is ignored and sets CFG_IGNORED. -/
def State.stageWrite (s : State) (m : Master) (off : Nat) (v : Word) : State :=
  if s.fbit Reg.TRU_STATUS_RECOVERY && decide (s.trust.stagingOwner = some false) then s.ignored Reg.TRU_CTL
  else
    let own := if s.fbit Reg.TRU_STATUS_RECOVERY && decide (m = .pcie) then some true else s.trust.stagingOwner
    s.onTrust fun t => { t with staging := t.staging.write (s.fget Reg.TRU_SRV_PAGE_PAGE * 32768 + off) (leBytes 4 v.toNat), stagingOwner := own }

/-- A read of TRU_WIN: the page of the DDR4 image copy that TRU_SRV_PAGE selects (R548, R549), while SRV_EN = 1. -/
def State.stageRead (s : State) (off : Nat) : Nat :=
  if s.fbit Reg.TRU_CTL_SRV_EN then s.mnat (s.rd64 Reg.INST_IMG_BASE_LO + s.fget Reg.TRU_SRV_PAGE_PAGE * 32768 + off) 4 else 0

/-! ### The TAP (R595) -/

/-- The instructions the TAP's rule tells apart: BYPASS, IDCODE and the boundary-scan instructions beside them. -/
inductive TapInstr where
  | bypass
  | idcode
  | scan
  deriving DecidableEq, Repr

/-- Whether the TAP takes an instruction (R595): a boundary-scan instruction only while its override holds PWR_GOOD low or debug is
open. -/
def State.tapTakes (s : State) (i : TapInstr) : Bool := decide (i ≠ .scan) || s.aon.tapHold || s.fbit Reg.TRU_STATUS_DBG_OPEN

end Sys2Proof.Machine
end

