-- ==== Sys2Proof/Machine/Egress.lean ====
section
/-! DEFINITION. Cells on their way out of the device: routes (R302, R309, R314), what enters an Ibnum port's egress queue, the
completion tree's counts (R139, R153) and cells that a lost link discards (R325). -/

namespace Sys2Proof.Machine

/-- d added to the completion tree's count of a parity (R139). -/
def State.tree (s : State) (parity : Bool) (d : Int) : State :=
  s.onTb fun b => if parity then { b with cnt1 := b.cnt1 + d } else { b with cnt0 := b.cnt0 + d }

/-! ### Routes (R301, R302, R309, R314) -/

/-- The column of Ibnum port k's router in row 18 (R301). -/
def portX (k : Nat) : Nat := if k ≤ 5 then 5 * k + 2 else 5 * k + 4

/-- Whether a link carries mesh cells: one that is UP, and has not retrained by its own action during this job (R326). -/
def State.linkMesh (s : State) (k : Nat) : Bool := s.fbit (Reg.IBL_STATUS_UP k) && !((s.link k).bench && s.fbit Reg.MESH_CTL_JOB)

/-- Whether a cell for device d, half h finds a route (R309, R314): a valid entry whose link carries mesh cells (R326), or one on an
alternate. -/
def State.routeFor (s : State) (d h : Nat) : Bool :=
  let i := 2 * d + h
  s.fbit (Reg.MESH_XROUTE_VALID i) &&
    (s.fbit (Reg.MESH_XROUTE_ON_ALT i) || s.linkMesh (s.fget (Reg.MESH_XROUTE_LINK i)))

/-- The egress port for device d, half h (R314): none where no route exists (R309). -/
def State.egress (s : State) (d h : Nat) : Option Nat :=
  let i := 2 * d + h
  if !s.routeFor d h then none
  else if s.fbit (Reg.MESH_XROUTE_ON_ALT i) then some (s.fget (Reg.MESH_XROUTE_ALT_LINK i))
  else some (s.fget (Reg.MESH_XROUTE_LINK i))

/-- ON_ALT of every entry as hardware sets it (R314): 1 for a valid entry whose LINK is not UP where ALT_VALID = 1; 0 when LINK is
UP while no job runs. MESH_STATUS.ALT_ANY follows. -/
def State.altUpdate (s : State) : State :=
  let t := forN 16 (fun i s =>
    let up := s.fbit (Reg.IBL_STATUS_UP (s.fget (Reg.MESH_XROUTE_LINK i)))
    if s.fbit (Reg.MESH_XROUTE_VALID i) && !up && s.fbit (Reg.MESH_XROUTE_ALT_VALID i) then s.fon (Reg.MESH_XROUTE_ON_ALT i)
    else if up && !s.fbit Reg.MESH_CTL_JOB then s.foff (Reg.MESH_XROUTE_ON_ALT i)
    else s) s
  t.fflag Reg.MESH_STATUS_ALT_ANY ((List.range 16).any fun i => t.fbit (Reg.MESH_XROUTE_ON_ALT i))

/-! ### Egress (R317, R325) -/

/-- A message's cells at a port on a VN, the requester noted on the last. -/
def portCells (w : List (DWord × List Byte)) (vn : Nat) (rq : Option Nat) : List LCell :=
  w.mapIdx fun i x => ⟨vn, none, if i + 1 = w.length then rq else none, x⟩

/-- The cells of what is put out as they stand at an Ibnum port; alt: it goes by an alternate route. -/
def Emit.cells (e : Emit) (alt : Bool) : List LCell :=
  let w := e.wire alt
  match e with
  | .ev _ _ _ _ imm ep _ => w.map fun x => ⟨0, if imm then none else some (ep, none), none, x⟩
  | .cell type _ src seq _ _ => portCells w ((vnOf type).getD 0) (if vnOf type = some 1 then some (src + seq * 2 ^ 22) else none)
  | .sync _ _ _ _ _ src => portCells w 1 (some src)
  | .qmsg _ _ _ src _ _ => portCells w 1 (some src)
  | .notice .. => portCells w 2 none
  | .status .. => portCells w 2 none
  | .twin .. => portCells w 7 none
  | .tsync .. => portCells w 7 none
  | .ctrlCell .. => portCells w 7 none
  | _ => []

/-- The device and half that what is put out is for; none where it stays on the device. -/
def Emit.goes : Emit → Option (Nat × Nat)
  | .ev dev c _ _ _ _ _ => some (dev, c / 512)
  | .cell _ dst _ _ _ _ => some (coDev dst, coHalf dst)
  | .sync dev obj _ _ _ _ => some (dev, coHalf (ownerCoord dev (obj / 256)))
  | .notice wqn _ _ _ _ _ _ _ _ => some (qnDev wqn, coHalf (ownerCoord (qnDev wqn) (qnOwner wqn)))
  | .qmsg dev owner _ _ _ _ => some (dev, coHalf (ownerCoord dev owner))
  | .status dst _ _ _ _ => some (coDev dst, coHalf dst)
  | _ => none

/-- A STATUS reply for a requester of this device or of another: on the port its route names; a reply whose link is down or that finds
no route is lost and counted (R309, R325). -/
def State.sendStatus (s : State) (dst code : Nat) : State :=
  let e : Emit := .status dst code 0 0 0
  if coDev dst = s.devid then s.emit e
  else match s.egress (coDev dst) (coHalf dst) with
    | none => s.count Reg.MESH_NOROUTE_CNT 1
    | some k =>
      if s.fbit (Reg.IBL_STATUS_UP k) then
        let alt := s.fbit (Reg.MESH_XROUTE_ON_ALT (2 * coDev dst + coHalf dst))
        (s.emit (if alt then .onAlt e else e)).onLink k fun x => { x with out := x.out ++ e.cells alt }
      else s.count (Reg.IBL_DROP_CNT k) 1

/-- A cell that a lost link discards (R325): counted; an EV cell is taken off its parity's count; an RQ's requester gets STATUS
LINK_LOST. -/
def State.linkDrop (s : State) (k : Nat) (c : LCell) : State :=
  let s := s.count (Reg.IBL_DROP_CNT k) 1
  let s := match c.ev with
    | some (ep, _) => s.tree ep (-1)
    | none => s
  match c.rq with
  | some src => s.sendStatus src 6
  | none => s

/-- Cells reach port k: into its egress queue, or discarded where the link does not carry cells (R317, R325). -/
def State.toLink (s : State) (k : Nat) (l : List LCell) : State :=
  if s.fbit (Reg.IBL_STATUS_UP k) then s.onLink k fun x => { x with out := x.out ++ l }
  else forL l (fun c s => s.linkDrop k c) s

/-- A link-local message on link k (R319). -/
def State.sendLink (s : State) (k : Nat) (e : Emit) : State := (s.emit e).toLink k (e.cells false)

/-- Something put out that may leave the device: its cells go to the port its route names, with FLAGS.ALT = 1 on an alternate; without
a route the send is refused, and an RQ's requester gets STATUS NO_TARGET (R309, R314). -/
def State.send (s : State) (e : Emit) : State :=
  match e.goes with
  | none => s.emit e
  | some (dev, half) =>
    if dev = s.devid then s.emit e
    else match s.egress dev half with
      | some k =>
        let alt := s.fbit (Reg.MESH_XROUTE_ON_ALT (2 * dev + half))
        (s.emit (if alt then .onAlt e else e)).toLink k (e.cells alt)
      | none =>
        forL ((e.cells false).filterMap fun c => c.rq) (fun src s => s.sendStatus src 3) (s.count Reg.MESH_NOROUTE_CNT 1)

/-! ### Reply space (R310) -/

/-- Requests that wait at the interface of c leave while their reply cells are free. -/
def State.ifaceGo (s : State) (c : Nat) : Nat → State
  | 0 => s
  | n + 1 =>
    match (s.iface c).wait with
    | [] => s
    | (k, e) :: r =>
      if (s.iface c).held + k ≤ 64 then State.ifaceGo ((s.onIface c fun x => { x with held := x.held + k, wait := r }).send e) c n else s

/-- The endpoint at c sends a request under its next tag once the k reply cells it can produce are reserved; else it waits at the
interface (R295, R310). -/
def State.request (s : State) (c k : Nat) (e : Nat → Emit) : State :=
  let x := s.iface c
  (s.onIface c fun x => { x with tag := (x.tag + 1) % 256, wait := x.wait ++ [(k, e x.tag)] }).ifaceGo c (x.wait.length + 1)

/-- k of the reply cells of the interface of c are free again. -/
def State.replied (s : State) (c k : Nat) : State :=
  let x := s.iface c
  (s.onIface c fun x => { x with held := x.held - k }).ifaceGo c (x.wait.length + 1)

/-- k reply cells of the interface of c are taken by a request that is under way inside the device. -/
def State.reserve (s : State) (c k : Nat) : State := s.onIface c fun x => { x with held := x.held + k }

/-- Whether the interface of c has a reply cell free and no request waits before it. -/
def State.replyFree (s : State) (c : Nat) : Bool := (s.iface c).wait.isEmpty && decide ((s.iface c).held < 64)

end Sys2Proof.Machine
end

