-- ==== Sys2Proof/Machine/TimeBase.lean ====
section
/-! DEFINITION. The time base: the system counter and its alignment (R416 to R421), the sixteen timers (R423 to
R431) and the trigger pins (R432 to R436). -/

namespace Sys2Proof.Machine

/-! ### The system counter -/

/-- The counter moved to v, cut to 64 bits. -/
def State.setCounter (s : State) (v : Int) : State := { s with counter := BitVec.ofInt 64 v }

/-- A load that moves the counter from old counts no time: the slow tick's period goes on (R29, log entry 101). -/
def State.tickMoves (s : State) (old : Nat) : State :=
  s.onAon fun a => { a with tickAt := (a.tickAt + s.now + 2 ^ 64 - old) % 2 ^ 64 }

/-- Whether any timer is enabled. -/
def State.anyTimer (s : State) : Bool := (List.range 16).any fun k => s.fbit (Reg.TMR_CTL_EN k)

/-- Whether the step generator is enabled. -/
def State.stepOn (s : State) : Bool := s.fbit Reg.TB_STEP_CTL_EN

/-- The counter takes TB_SYNC_LOAD; ARM clears, STEPPED and LOCKED are set (R419, R439). -/
def State.counterLoad (s : State) : State :=
  ((((((s.setCounter (s.rd64 Reg.TB_SYNC_LOAD_LO)).tickMoves s.now).foff Reg.TB_SYNC_CFG_ARM).fon
    Reg.TB_SYNC_STATUS_STEPPED).fon Reg.TB_SYNC_STATUS_LOCKED).count Reg.TB_SYNC_STEP_CNT 1).onTb
    fun b => { b with loadAt := none }

/-- One ns of the model's time: the system counter adds one once the AON PLL has locked (R416; two or none after a
correction of R420), and an armed load
whose edge has come takes place (R419). This is what the block does when no command waits (log entry 4). -/
def State.tick (s : State) : State :=
  let t := { s with time := s.time + 1, counter := if s.aon.pll then s.counter + BitVec.ofNat 64 s.tb.edgeAdds else s.counter,
                    tb := { s.tb with edgeAdds := 1 } }
  if s.tb.loadAt = some (s.time + 1) then t.counterLoad else t

/-- SYNC_ARM (R419): in MODE 1 the write arms a load; it is ignored while the step generator or a timer runs. In
another MODE the field takes the value and arms nothing. -/
def execSyncArm (m : Master) (s : State) : Host.Outcome State Fault Refusal :=
  .next (s.alive fun s => s.guarded m Reg.TB_SYNC_CFG fun s =>
    s.takenIf Reg.TB_SYNC_CFG (!s.stepOn && !s.anyTimer) fun s => s.fon Reg.TB_SYNC_CFG_ARM)

/-- A captured SYSREF edge starts an armed load of MODE 1: the load takes place at the 16th system-clock edge (R419). -/
def State.sysrefLoad (s : State) : State :=
  s.iff (s.fbit Reg.TB_SYNC_CFG_ARM && decide (s.fget Reg.TB_SYNC_CFG_MODE = 1) && s.tb.loadAt.isNone)
    fun s => s.onTb fun b => { b with loadAt := some (s.time + 16) }

/-- The correction interval of R420: SLEW counts, at least 1,024. -/
def State.slewCounts (s : State) : Nat := max 1024 (s.fget Reg.TB_SYNC_CFG_SLEW)

/-- SYNC_SLEW (R420): every SLEW counts a follower with r ≥ 0.5 ns advances by 2 at its next edge and r loses 1 ns;
with r ≤ −0.5 ns it holds for one edge and r gains 1 ns. Before SLEW counts have passed there is no correction. -/
def execSyncSlew (s : State) : Host.Outcome State Fault Refusal :=
  .next (s.alive fun s =>
    if s.fget Reg.TB_SYNC_CFG_MODE ≠ 2 ∨ s.now < s.tb.slewAt + s.slewCounts then s
    else s.onTb fun b =>
      if (32768 : Int) ≤ b.corr then { b with corr := b.corr - 65536, edgeAdds := 2, slewAt := s.now }
      else if b.corr ≤ -32768 then { b with corr := b.corr + 65536, edgeAdds := 0, slewAt := s.now }
      else { b with slewAt := s.now })

/-! ### Pins (R432 to R436) -/

/-- The logical state of pin p. -/
def State.pinLevel (s : State) (p : Nat) : Bool := bit (s.fget Reg.TB_OUT_STATUS_LEVEL) p

/-- The source of pin p (R432). -/
def State.pinSrc (s : State) (p : Nat) : Nat := s.fget (Reg.TB_PIN_SRC p)

/-- The logical state of pin p set; a change to active is stamped. -/
def State.setLevel (s : State) (p : Nat) (b : Bool) : State :=
  let l := s.fget Reg.TB_OUT_STATUS_LEVEL
  let l' := if b = bit l p then l else if b then l + 2 ^ p else l - 2 ^ p
  (s.fset Reg.TB_OUT_STATUS_LEVEL l').iff (b && !s.pinLevel p)
    fun s => s.setPin p { s.pin p with activeAt := s.time }

/-- What ball p carries: none is high-impedance; else the logical state XOR POL (R432, R433). -/
def State.ball (s : State) (p : Nat) : Option Bool :=
  if !s.fbit Reg.TB_OUT_STATUS_GATE || s.fbit (Reg.TB_PIN_HIZ p) then none
  else some (s.pinLevel p != s.fbit (Reg.TB_PIN_POL p))

/-- The pulse width of pin p in ns: values below 4 behave as 4 (R434). -/
def State.pulseWidth (s : State) (p : Nat) : Nat := max 4 (s.fget (Reg.TB_PIN_PW_NS p))

/-- A transition of pin p to active from a neural source, counted in TB_TRIG_CNT (R439). -/
def State.pinOn (s : State) (p : Nat) : State := (s.setLevel p true).count Reg.TB_TRIG_CNT 1

/-- The counter at which boundary B(u) was issued, among the last 64. -/
def State.issuedAt (s : State) (u : Nat) : Option Nat := (s.tb.issues.find? fun x => decide (x.1 = u)).map Prod.snd

/-- Whether step a follows step b; step numbers wrap at 2^32 (R136). -/
def stepAfter (a b : Nat) : Bool := decide (0 < (a + 2 ^ 32 - b) % 2 ^ 32) && decide ((a + 2 ^ 32 - b) % 2 ^ 32 < 2 ^ 31)

/-- The boundary 16 ns after which pin p's level returns when step u asserted it last; LVL_STEPS of 0 behaves as 1 (R434). -/
def State.levelBoundary (s : State) (p u : Nat) : Nat := (u + max 1 (s.fget (Reg.TB_PIN_LVL_STEPS p)) + 2) % 2 ^ 32

/-- When a level whose last step is u returns, if its boundary stands behind already; one issued more than 64 boundaries ago, or before
the generator's last start, has it return at once. -/
def State.levelDue (s : State) (p u : Nat) : Option Nat :=
  match s.issuedAt (s.levelBoundary p u) with
  | some b => some (s.time + (b + 16 - s.now))
  | none => if stepAfter (s.tb.nextU % 2 ^ 32) (s.levelBoundary p u) then some s.time else none

/-- A record of step u asserts pin p (R434). A pulse restarts its width if active and begins if no record of the step has asserted it
yet; a level goes active, and a step after the last one becomes the last and cancels an earlier return. -/
def State.assertPin (s : State) (p u : Nat) : State :=
  let q := s.pin p
  let seen := (u :: q.seen.filter fun v => decide (v ≠ u)).take 64
  let last := match q.step with
    | some v => if q.seen.isEmpty || stepAfter u v then u else v
    | none => u
  if s.pinSrc p = 1 then
    if !s.pinLevel p && q.seen.contains u then s
    else
      let t := if s.pinLevel p then s else s.pinOn p
      t.setPin p { t.pin p with pulseEnd := some (s.time + s.pulseWidth p), step := some last, seen := seen }
  else if s.pinSrc p = 2 then
    if q.seen.contains u then s
    else
      let t := if s.pinLevel p then s else s.pinOn p
      t.setPin p { t.pin p with step := some last, seen := seen, lvlReturn := s.levelDue p last }
  else s

/-- The pins of the TRIG_MAP entries that match a record (R434). -/
def State.trigPins (s : State) (n j grade : Nat) : List Nat :=
  ((List.range 64).filter fun i =>
    s.fbit (Reg.TRIG_MAP_W0_VALID i) && decide (s.fget (Reg.TRIG_MAP_W0_CORE i) = n)
    && decide (s.fget (Reg.TRIG_MAP_W1_J_FIRST i) ≤ j) && decide (j ≤ s.fget (Reg.TRIG_MAP_W1_J_LAST i))
    && decide (max 1 (s.fget (Reg.TRIG_MAP_W0_MIN_GRADE i)) ≤ grade)).map fun i => s.fget (Reg.TRIG_MAP_W0_PIN i)

/-- The grid delay in ns: values below 16 behave as 16 (R436). -/
def State.holdNs (s : State) : Nat := max 16 (s.fget Reg.TB_TRIG_CFG_HOLD_NS)

/-- The step counter (R136). -/
def State.stepCnt (s : State) : Nat := (s.rd Reg.TB_STEP_CNT).toNat

/-- The grid instant of a record of firing step u: HOLD_NS after B(u + 1); none in ASAP mode, and none for a record that comes
later than HOLD_NS − 16 after that boundary (R436). -/
def State.gridInstant (s : State) (u : Nat) : Option Nat :=
  if !s.fbit Reg.TB_TRIG_CFG_GRID then none
  else (s.issuedAt ((u + 1) % 2 ^ 32)).bind fun b => if s.now ≤ b + (s.holdNs - 16) then some (b + s.holdNs) else none

/-- A record of firing step u asserts pin p at once, or at its grid instant (R436). -/
def State.assertOrGrid (s : State) (p u : Nat) (due : Option Nat) : State :=
  match due with
  | some d => s.setPin p { s.pin p with grid := (s.pin p).grid ++ [(u, d)] }
  | none => s.assertPin p u

/-- TRIG_MAP_ASSERT: every matching entry asserts its pin if a neural source drives it; entries of one pin act as one (R434). A
record too late for the grid is counted, whatever it matches, and driven as in ASAP (R436, R439). -/
def State.trigMap (s : State) (n j grade u : Nat) : State :=
  let ps := (s.trigPins n j grade).eraseDups.filter fun p => decide (s.pinSrc p = 1) || decide (s.pinSrc p = 2)
  let due := s.gridInstant u
  forL ps (fun p s => s.assertOrGrid p u due)
    (s.iff (s.fbit Reg.TB_TRIG_CFG_GRID && due.isNone) fun s => s.count Reg.TB_TRIG_LATE_CNT 1)

/-- PULSE_END (R434): the pulse's width has expired and the pin returns inactive. -/
def execPulseEnd (p : Fin 16) (s : State) : Host.Outcome State Fault Refusal :=
  .next (s.alive fun s =>
    match (s.pin p).pulseEnd with
    | some e => if e ≤ s.time then (if s.pinSrc p = 1 then s.setLevel p false else s).setPin p { s.pin p with pulseEnd := none } else s
    | none => s)

/-- The return of the level pins whose boundary B(u + LVL_STEPS + 2) is issued now: 16 ns later (R434). -/
def State.levelReturns (s : State) (b : Nat) : State :=
  forN 16 (fun p s =>
    match (s.pin p).step with
    | some u =>
      if s.pinSrc p = 2 ∧ s.pinLevel p = true ∧ s.levelBoundary p u = b % 2 ^ 32 then
        s.setPin p { s.pin p with lvlReturn := some (s.time + 16) }
      else s
    | none => s) s

/-- LEVEL_RETURN (R434): 16 ns after its boundary a level pin returns inactive. -/
def execLevelReturn (p : Fin 16) (s : State) : Host.Outcome State Fault Refusal :=
  .next (s.alive fun s =>
    match (s.pin p).lvlReturn with
    | some e => if e ≤ s.time then (if s.pinSrc p = 2 then s.setLevel p false else s).setPin p { s.pin p with lvlReturn := none } else s
    | none => s)

/-- GRID_EDGE (R436): in GRID mode the edge appears HOLD_NS after the boundary that ended the firing step. -/
def execGridEdge (p : Fin 16) (s : State) : Host.Outcome State Fault Refusal :=
  .next (s.alive fun s =>
    match (s.pin p).grid with
    | (u, due) :: rest => if due ≤ s.now then (s.setPin p { s.pin p with grid := rest }).assertPin p u else s
    | [] => s)

/-- What action act leaves of a logical state: 1 active, 2 inactive, 3 the other one. -/
def actLevel (act : Nat) (b : Bool) : Bool := if act = 1 then true else if act = 2 then false else if act = 3 then !b else b

/-- Action act of timer k on pin p at the edge of time e (R435): only on a pin with SRC = 3. The actions of one edge apply in ascending
timer number, whatever the order in which they come. -/
def State.timerAction (s : State) (k e act p : Nat) : State :=
  if s.pinSrc p ≠ 3 ∨ act = 0 then s
  else
    let q := s.pin p
    let (base, old) := if q.acts.1 = e ∧ q.acts.2.2 ≠ [] then q.acts.2 else (s.pinLevel p, [])
    let acts := old.filter (fun x => decide (x.1 ≤ k)) ++ (k, act) :: old.filter fun x => decide (k < x.1)
    let t := s.setLevel p (acts.foldl (fun b x => actLevel x.2 b) base)
    t.setPin p { t.pin p with acts := (e, base, acts) }

/-! ### The completion tree (R139) -/

/-- END of a source reaches the completion tree (R139): kind 0 neuron core, 1 ingest stream, 2 context source; e is the
boundary at which the emission step's cells are sent. -/
def State.reportEnd (s : State) (kind index e : Nat) : State :=
  s.onTb fun b => if b.ends.contains (kind, index, e) then b else { b with ends := (kind, index, e) :: b.ends }

/-- A source enabled after boundaries whose emission is not complete has nothing to send for them: its END stands at once
(log entry 40). -/
def State.joinEnds (s : State) (kind index : Nat) : State :=
  forN (s.tb.nextU - s.tb.done) (fun k s => s.reportEnd kind index (s.tb.done + k)) s

/-! ### Timers (R423 to R431) -/

/-- Whether timer k raises its interrupt (R430). -/
def State.timerLine (s : State) (k : Nat) : Bool :=
  (s.fbit (Reg.TMR_CTL_MIE k) && s.fbit (Reg.TMR_STATUS_MATCH k)) || (s.fbit (Reg.TMR_CTL_CIE k) && s.fbit (Reg.TMR_STATUS_CAP k))

/-- f, and timer interrupt k of the application complex raised or withdrawn when f changed it. -/
def State.timerIrq (s : State) (k : Nat) (f : State → State) : State :=
  let t := f s
  if t.timerLine k = s.timerLine k then t else t.emit (.irq 128 2 k (t.timerLine k))

/-- The divisor of the prescaler in units of 1/65,536 (R425). -/
def State.timerDiv (s : State) (k : Nat) : Nat := (s.fget (Reg.TMR_PRE_INTM1 k) + 1) * 65536 + s.fget (Reg.TMR_PRE_FRAC k)

/-- The count of timer k. -/
def State.timerCount (s : State) (k : Nat) : Nat := s.rd64 (Reg.TMR_CNT_LO k)

/-- A match of timer k at its compare (R430). -/
def State.timerMatch (s : State) (k : Nat) : State :=
  let t := s.timer k
  s.timerIrq k fun s =>
    let s := ((s.fon (Reg.TMR_STATUS_MATCH k)).count (Reg.TMR_MATCH_CNT k) 1).timerAction k (t.due.getD s.time)
      (s.fget (Reg.TMR_CTL_MACT k)) (s.fget (Reg.TMR_CTL_PIN k))
    if t.per ≠ 0 then (s.fon (Reg.TMR_STATUS_ARMED k)).setTimer k { t with cmp := (t.cmp + t.per) % 2 ^ 64, due := none }
    else (s.foff (Reg.TMR_STATUS_ARMED k)).setTimer k { t with due := none }

/-- A match that is due is carried out. -/
def State.timerFlush (s : State) (k : Nat) : State := if (s.timer k).due.isSome then s.timerMatch k else s

/-- The count takes one increment; when it reaches a pending compare the match is due (R426, R429). -/
def State.timerStep (s : State) (k : Nat) : State :=
  let c := (s.timerCount k + 1) % 2 ^ 64
  let s := s.wr64 (Reg.TMR_CNT_LO k) c
  if s.fbit (Reg.TMR_STATUS_ARMED k) && decide (c = (s.timer k).cmp) then s.setTimer k { s.timer k with due := some s.time } else s

/-- The prescaler of timer k takes n source ticks (R425): the requests go into the queue of R426. -/
def State.timerTicks (s : State) (k n : Nat) : State :=
  let t := s.timer k
  s.setTimer k { t with acc := (t.acc + 65536 * n) % s.timerDiv k, req := t.req + (t.acc + 65536 * n) / s.timerDiv k, lastTick := s.time }

/-- One requested increment is applied at a system-clock edge that has come and has applied none yet (R426): with SRC 0 at the first
such edge, else at the present one. -/
def State.timerApply (s : State) (k : Nat) : State :=
  let t := s.timer k
  if t.req = 0 ∨ s.time ≤ t.edge then s
  else (s.setTimer k { t with req := t.req - 1, edge := if s.fget (Reg.TMR_CTL_SRC k) = 0 then t.edge + 1 else s.time }).timerStep k

/-- Whether the island clock that feeds timer k arrives (R424): SRC 1 needs tile TILE's island running. -/
def State.timerFed (s : State) (k : Nat) : Bool :=
  decide (s.fget (Reg.TMR_CTL_SRC k) ≠ 1) || decide (s.fget (Reg.PWR_ISL_STAT_STATE (s.fget (Reg.TMR_CTL_TILE k))) < 2)

/-- A committed compare is tested against the count (R429). -/
def State.timerCommit (s : State) (k v : Nat) : State :=
  let c := s.timerCount k
  let s := s.setTimer k { s.timer k with cmp := v, due := none }
  if v < c then s.timerIrq k fun s => (s.fon (Reg.TMR_STATUS_CMP_PAST k)).foff (Reg.TMR_STATUS_ARMED k)
  else
    let s := s.fon (Reg.TMR_STATUS_ARMED k)
    if v = c then s.timerMatch k else s

/-- TIMER_ENABLE (R424). A compare and a PERIOD committed before it stand (R429, R431; log entry 20). -/
def State.timerEnable (s : State) (k : Nat) : State :=
  if s.fbit (Reg.TMR_CTL_EN k) then s
  else if (s.fget (Reg.TMR_CTL_SRC k) = 1 ∨ s.fget (Reg.TMR_CTL_SRC k) = 2) ∧ s.fget (Reg.TMR_PRE_INTM1 k) = 0 then
    s.fon (Reg.TMR_STATUS_CFG_IGNORED k)
  else
    let t := s.timer k
    (s.fon (Reg.TMR_CTL_EN k)).setTimer k { Timer.init with cmp := t.cmp, per := t.per, due := t.due, lastTick := s.time, edge := s.time }

/-- TIMER_ENABLE (R424): loads the count from TMR_CNT and starts the prescaler at 0. -/
def execTimerEnable (k : Fin 16) (s : State) : Host.Outcome State Fault Refusal :=
  .next (s.alive fun s => s.timerEnable k)

/-- The timer's reset (R424): count, prescaler (INT and FRAC too), compare, period, capture and status take their reset values. -/
def State.timerReset (s : State) (k : Nat) : State :=
  s.timerIrq k fun s =>
    ((s.foff (Reg.TMR_CTL_EN k)).wrZeros [Reg.TMR_STATUS k, Reg.TMR_PRE k, Reg.TMR_CNT_LO k, Reg.TMR_CNT_HI k, Reg.TMR_CMP_LO k, Reg.TMR_CMP_HI k,
      Reg.TMR_PERIOD_LO k, Reg.TMR_PERIOD_HI k, Reg.TMR_CAP_LO k, Reg.TMR_CAP_HI k, Reg.TMR_CAPT_LO k, Reg.TMR_CAPT_HI k]).setTimer k Timer.init

/-- TIMER_RESET (R424). -/
def execTimerReset (k : Fin 16) (s : State) : Host.Outcome State Fault Refusal :=
  .next (s.alive fun s => s.timerReset k)

/-- TIMER_INCREMENT (R425, R426): the source has ticked since the last command (with SRC 0 once per ns of time, else as
often as the command says), the prescaler requests its increments, and one request is applied. While the source's
island stands still no tick arrives (R424). A match that was due is carried out first. -/
def execTimerIncrement (k : Fin 16) (ticks : BitVec 16) (s : State) : Host.Outcome State Fault Refusal :=
  .next (s.alive fun s =>
    if !s.fbit (Reg.TMR_CTL_EN k) then s
    else
      let s := s.timerFlush k
      let n := if s.fget (Reg.TMR_CTL_SRC k) = 0 then s.time - (s.timer k).lastTick
        else if s.fget (Reg.TMR_CTL_SRC k) = 3 then 0 else if s.timerFed k then ticks.toNat else 0
      (s.timerTicks k n).timerApply k)

/-- TIMER_MATCH (R430): the count has reached the compare. -/
def execTimerMatch (k : Fin 16) (s : State) : Host.Outcome State Fault Refusal :=
  .next (s.alive fun s => s.timerFlush k)

/-- TIMER_COMPARE_COMMIT (R429): a write of TMR_CMP_HI commits the 64-bit compare. A match due at the same edge is
replaced with the compare it belongs to; one due earlier is carried out first. The rule asks for no EN: with EN = 0 the value is
committed and tested against the held count (log entry 20). -/
def State.timerCmpHi (s : State) (k : Nat) (hi : Word) : State :=
  let s := if (s.timer k).due = some s.time then s.setTimer k { s.timer k with due := none } else s.timerFlush k
  let s := s.wr (Reg.TMR_CMP_HI k) hi
  s.timerCommit k (s.rd64 (Reg.TMR_CMP_LO k))

/-- TIMER_COMPARE_COMMIT (R429). -/
def execTimerCompareCommit (k : Fin 16) (hi : Word) (s : State) : Host.Outcome State Fault Refusal :=
  .next (s.alive fun s => s.timerCmpHi k hi)

/-- A write of TMR_PERIOD_HI commits PERIOD for the next match; a match due now uses the old PERIOD (R431). -/
def State.timerPerHi (s : State) (k : Nat) (hi : Word) : State :=
  let s := (s.timerFlush k).wr (Reg.TMR_PERIOD_HI k) hi
  s.setTimer k { s.timer k with per := s.rd64 (Reg.TMR_PERIOD_LO k) }

/-- TIMER_PERIOD_COMMIT (R431). -/
def execTimerPeriodCommit (k : Fin 16) (hi : Word) (s : State) : Host.Outcome State Fault Refusal :=
  .next (s.alive fun s => s.timerPerHi k hi)

/-- Whether EDGE selects an edge: 0 and 3 rising, 1 falling, 2 both (R427). -/
def edgeTaken (edge : Nat) (rising : Bool) : Bool :=
  if edge = 2 then true else if edge = 1 then !rising else rising

/-- TIMER_CAPTURE (R428): with CAP_EN the edge captures the count and its ball time and performs CACT. -/
def State.timerCapture (s : State) (k : Nat) : State :=
  if !s.fbit (Reg.TMR_CTL_CAP_EN k) then s
  else s.timerIrq k fun s =>
    let s := if s.fbit (Reg.TMR_STATUS_CAP k) then s.fon (Reg.TMR_STATUS_CAP_OVR k) else s
    let filt := max 1 (s.fget (Reg.TMR_IN_FILT k))
    let s := (s.wr64 (Reg.TMR_CAP_LO k) (s.timerCount k)).wr64 (Reg.TMR_CAPT_LO k) ((s.now + 2 ^ 64 - (filt + 3)) % 2 ^ 64)
    ((s.fon (Reg.TMR_STATUS_CAP k)).count (Reg.TMR_CAP_CNT k) 1).timerAction k s.time
      (s.fget (Reg.TMR_CTL_CACT k)) (s.fget (Reg.TMR_CTL_PIN k))

/-- Whether timer k's input stage can accept a level now: it is not the one accepted last, and FILT samples have shown it since. -/
def State.edgeAccepted (s : State) (k : Nat) (level : Bool) : Bool :=
  match (s.timer k).level with
  | some (l, a) => decide (l ≠ level) && decide (a + max 1 (s.fget (Reg.TMR_IN_FILT k)) ≤ s.time)
  | none => true

/-- TRIG_IN_EDGE (R427, R428): timer k's input stage has accepted a level on TRIG_IN[IN_PIN], which its synchroniser has brought and
FILT samples have shown. The edges EDGE selects are counted, every EPSM1 + 1 th passes on; it feeds the prescaler with SRC = 3 and the
capture. -/
def execTrigInEdge (k : Fin 16) (rising : Bool) (s : State) : Host.Outcome State Fault Refusal :=
  .next (s.alive fun s =>
    if !s.fbit (Reg.TMR_CTL_EN k) || !s.edgeAccepted k rising then s
    else
      let s := s.timerFlush k
      let t := { s.timer k with level := some (rising, s.time) }
      if !edgeTaken (s.fget (Reg.TMR_CTL_EDGE k)) rising then s.setTimer k t
      else if t.edges < s.fget (Reg.TMR_IN_EPSM1 k) then s.setTimer k { t with edges := t.edges + 1 }
      else
        let s := s.setTimer k { t with edges := 0 }
        let s := if s.fget (Reg.TMR_CTL_SRC k) = 3 then ((s.timerTicks k 1).timerApply k).timerFlush k else s
        s.timerCapture k)

end Sys2Proof.Machine
end

