-- ==== Sys2Proof/Machine/Twin.lean ====
section
/-! DEFINITION. Twins (R440 to R468): roles, the wingbeat between the members, planned swaps, digests. -/

namespace Sys2Proof.Machine

/-- The partner's device number (R440). -/
def State.partner (s : State) : Nat := s.devid ^^^ 1

/-- Whether link k is one of AON_TWIN_CFG's two, is UP and shows the partner (R441). -/
def State.twinLink (s : State) (k : Nat) : Bool :=
  (decide (k = s.fget Reg.AON_TWIN_CFG_LINK0) || decide (k = s.fget Reg.AON_TWIN_CFG_LINK1))
  && s.fbit (Reg.IBL_STATUS_UP k) && s.fbit (Reg.IBL_PEER_VALID k) && decide (s.fget (Reg.IBL_PEER_DEV k) = s.partner)

/-- The twin links in use (R441). -/
def State.twinLinks (s : State) : List Nat := (List.range 12).filter fun k => s.twinLink k

/-- A TWIN cell of this kind on every twin link (R442). -/
def State.twinSend (s : State) (kind t count sum : Nat) : State :=
  forL s.twinLinks (fun k s =>
    s.sendLink k (.twin k kind (s.fget Reg.AON_TWIN_VER_FW_GEN) (s.fget Reg.AON_TWIN_STATUS_ROLE) s.devid t count sum)) s

/-- Whether the member holds the standby role (R443). -/
def State.standby (s : State) : Bool := s.fbit Reg.AON_TWIN_STATUS_ROLE

/-- A role change records the counter and the cause and raises MSI-X vector 96 (R445). -/
def State.roleRecord (s : State) (reason : Nat) : State :=
  (((s.wr64 Reg.AON_TWIN_LAST_LO s.now).fset Reg.AON_TWIN_STATUS_LAST_REASON reason).foff Reg.AON_TWIN_STATUS_ARMED).emit (.msix 96)

/-- The member takes the active role: ROLE := 0, and GATE opens once Instar 6 has ended (R433, R445). -/
def State.takeActive (s : State) (reason : Nat) : State :=
  ((s.foff Reg.AON_TWIN_STATUS_ROLE).fflag Reg.TB_OUT_STATUS_GATE s.inService).roleRecord reason

/-- The member takes the standby role: ROLE := 1, GATE closes (R445). -/
def State.takeStandby (s : State) (reason : Nat) : State :=
  ((s.fon Reg.AON_TWIN_STATUS_ROLE).foff Reg.TB_OUT_STATUS_GATE).roleRecord reason

/-- HELD_PULSE_RESTART (R450): each pin with SRC = 1 whose logical state went active no earlier than 16 ns before the
last edge seen restarts its width; AON_TWIN_HELD_CNT counts it. -/
def State.restartHeld (s : State) : State :=
  forN 16 (fun p s =>
    let q := s.pin p
    if s.pinSrc p = 1 ∧ q.activeAt ≠ 0 ∧ s.aon.wbEdgeAt ≤ q.activeAt + 16 then
      let a := q.activeAt
      let s := (s.setLevel p true).count Reg.AON_TWIN_HELD_CNT 1
      s.setPin p { s.pin p with pulseEnd := some (s.time + s.pulseWidth p), activeAt := a }
    else s) s

/-- A pending swap is cancelled on both sides (R452). -/
def State.swapDrop (s : State) : State :=
  (s.foff Reg.AON_TWIN_STATUS_SWAP_PEND).onAon fun a => { a with swapAcked := false, swapActiveAt := none }

/-- SWITCH goes to every other device of the plane, on one UP link to each (R459). -/
def State.planeSwitch (s : State) : State :=
  if !s.fbit Reg.AON_TWIN_CTL_COUPLED then s
  else forN 8 (fun d s =>
    if d ≠ s.devid ∧ d % 2 = s.devid % 2 then
      match (List.range 12).find? fun k => s.fbit (Reg.IBL_STATUS_UP k) && decide (s.fget (Reg.IBL_PEER_DEV k) = d) with
      | some k => s.sendLink k (.twin k 5 (s.fget Reg.AON_TWIN_VER_FW_GEN) (s.fget Reg.AON_TWIN_STATUS_ROLE) s.devid 0 0 0)
      | none => s
    else s) s

/-- SPLIT is set and TWIN_SPLIT raised (R451). -/
def State.splitNow (s : State) : State := (s.fon Reg.AON_TWIN_STATUS_SPLIT).raise 19 9 0 0

/-- WB_STOP or a Cocoon in the active member makes it take the standby role, LAST_REASON = 7; a swap it has asked for is cancelled (R447,
R452). -/
def State.wingbeatStopped (s : State) : State := if s.standby then s else s.swapDrop.takeStandby 7

/-- TWIN_ENABLE (R446). -/
def State.twinEnable (s : State) : State :=
  let h := s.fget Reg.AON_TWIN_CFG_WB_HALF
  let m := s.fget Reg.AON_TWIN_CFG_MISS_NS
  if s.fbit Reg.AON_TWIN_CTL_EN then s
  else if 8 ≤ h ∧ h ≤ 164 ∧ h + 16 ≤ m ∧ m ≤ 180 then
    (s.fon Reg.AON_TWIN_CTL_EN).onAon fun a => { a with wbRel := s.now, wbEdgeAt := s.time }
  else s.fon Reg.AON_TWIN_STATUS_CFG_IGNORED

/-- TWIN_ENABLE (R446): EN = 1 is taken with 8 ≤ WB_HALF ≤ 164 and WB_HALF + 16 ≤ MISS_NS ≤ 180. -/
def execTwinEnable (m : Master) (s : State) : Host.Outcome State Fault Refusal :=
  .next (s.alive fun s => s.guarded m Reg.AON_TWIN_CTL fun s => s.twinEnable)

/-- TWIN_WB_EDGE (R448): the loss interval restarts; a standby in Instar 6 or 7 is ARMED. -/
def execTwinWbEdge (s : State) : Host.Outcome State Fault Refusal :=
  .next (s.alive fun s =>
    let s := s.onAon fun a => { a with wbEdgeAt := s.time, wbSeen := a.wbSeen || s.inService }
    s.iff (s.standby && s.inService) fun s => s.fon Reg.AON_TWIN_STATUS_ARMED)

/-- WINGBEAT_LOSS (R448, R450, R451, R459): an ARMED standby without an edge for MISS_NS after its 4 ns synchroniser
takes the active role, restarts held pulses, sends TAKE and, with COUPLED, SWITCH. Where the partner was alive and
active, its release makes a split. -/
def execWingbeatLoss (partnerActive : Bool) (s : State) : Host.Outcome State Fault Refusal :=
  .next (s.alive fun s =>
    if s.fbit Reg.AON_TWIN_STATUS_ARMED && s.standby && s.inService && decide (s.aon.wbEdgeAt + 4 + s.fget Reg.AON_TWIN_CFG_MISS_NS ≤ s.time) then
      ((((((s.swapDrop.takeActive 3).restartHeld.twinSend 1 0 0 0).count Reg.AON_TWIN_TAKE_CNT 1).raise 18 9 0 0).planeSwitch).iff
        partnerActive State.splitNow)
    else s)

/-- TWIN_START_TIMEOUT (R444): a standby in Instar 6 or 7 that has seen no edge since Instar 6, or with twin service had
PARTNER_UP = 0 throughout, takes the active role after START_MS ms. -/
def execTwinStartTimeout (s : State) : Host.Outcome State Fault Refusal :=
  .next (s.alive fun s =>
    if s.standby && s.inService && decide (s.aon.reached6 + s.fget Reg.AON_TWIN_CFG_START_MS * 1000000 ≤ s.time)
      && (!s.aon.wbSeen || (s.fbit Reg.AON_TWIN_CTL_EN && !s.aon.partnerSeen)) then s.takeActive 2
    else s)

/-- HELLO on the twin links (R442). -/
def State.helloNow (s : State) : State := (s.onAon fun a => { a with helloSent := s.time }).twinSend 0 0 0 0

/-- HELLO_SEND (R442): 1,024 µs after the last HELLO the next goes out. -/
def execHelloSend (s : State) : Host.Outcome State Fault Refusal :=
  .next (s.alive fun s => if s.aon.helloSent + 1024000 ≤ s.time then s.helloNow else s)

/-- The partner's generation from HELLO, the pair's, and VER_FAIL (R461). -/
def State.pairGen (s : State) (g : Nat) : State :=
  let f := s.fget Reg.AON_TWIN_VER_FW_GEN
  let s := s.fset Reg.AON_TWIN_VER_PEER_GEN g
  if f ≤ g + 1 ∧ g ≤ f + 1 then (s.fset Reg.AON_TWIN_VER_PAIR_GEN (min f g)).foff Reg.AON_TWIN_STATUS_VER_FAIL
  else s.fon Reg.AON_TWIN_STATUS_VER_FAIL

/-- The first HELLO resolves two members of one role (R443): the lower DEVID keeps or takes the active role, the other
takes or keeps the standby role and sets STRAP_ERR. -/
def State.helloRoles (s : State) (peerStandby : Bool) : State :=
  if s.standby ≠ peerStandby then s
  else if s.standby then
    if s.devid < s.partner then s.takeActive 1 else s.fon Reg.AON_TWIN_STATUS_STRAP_ERR
  else
    if s.devid < s.partner then s else (s.takeStandby 1).fon Reg.AON_TWIN_STATUS_STRAP_ERR

/-- HELLO (R442, R443, R461): on a twin link it sets PARTNER_UP and takes the partner's generation; the first one since
the reset resolves equal roles. -/
def execHello (link : Fin 12) (gen : BitVec 8) (standby : Bool) (devid : Fin 8) (s : State) : Host.Outcome State Fault Refusal :=
  .next (s.alive fun s =>
    if s.twinLink link && decide (devid.val = s.partner) then
      let first := !s.aon.helloSeen
      let s := ((s.fon Reg.AON_TWIN_STATUS_PARTNER_UP).pairGen gen.toNat).onAon
        fun a => { a with helloAt := some s.time, helloSeen := true, partnerSeen := true }
      s.iff first fun s => s.helloRoles standby
    else s)

/-- PARTNER_TIMEOUT (R442): no HELLO for 4,096 µs clears PARTNER_UP. -/
def execPartnerTimeout (s : State) : Host.Outcome State Fault Refusal :=
  .next (s.alive fun s =>
    match s.aon.helloAt with
    | some t => if t + 4096000 ≤ s.time then (s.foff Reg.AON_TWIN_STATUS_PARTNER_UP).onAon fun a => { a with helloAt := none } else s
    | none => s)

/-- TAKE (R451, R452): an active member takes the standby role with LAST_REASON = 4, its pending swap cancelled; SPLIT is set and TWIN_SPLIT raised, unless
the sender was switched with its plane (R459). -/
def execTake (link : Fin 12) (byPlane : Bool) (s : State) : Host.Outcome State Fault Refusal :=
  .next (s.alive fun s =>
    if s.twinLink link && !s.standby then (s.swapDrop.takeStandby 4).iff (!byPlane) State.splitNow else s)

/-- SWAP_REQUEST (R452): ignored, with CFG_IGNORED, unless the member is active, T lies at least 10,000 counts ahead, the
partner is ARMED, PARTNER_UP = 1 and VER_FAIL = 0; else SWAP_PEND is set and SWAP sent. -/
def State.swapRequest (s : State) (partnerArmed : Bool) : State :=
  let t := s.rd64 Reg.AON_TWIN_SWAP_AT_LO
  if s.standby || decide (t < s.now + 10000) || !partnerArmed || !s.fbit Reg.AON_TWIN_STATUS_PARTNER_UP
    || s.fbit Reg.AON_TWIN_STATUS_VER_FAIL then s.fon Reg.AON_TWIN_STATUS_CFG_IGNORED
  else ((s.fon Reg.AON_TWIN_STATUS_SWAP_PEND).onAon fun a => { a with swapAcked := false }).twinSend 2 t 0 0

/-- SWAP_REQUEST (R452). -/
def execSwapRequest (m : Master) (partnerArmed : Bool) (s : State) : Host.Outcome State Fault Refusal :=
  .next (s.alive fun s => s.guarded m Reg.AON_TWIN_CTL fun s => s.swapRequest partnerArmed)

/-- SWAP (R452): the standby answers SWAP_ACK with T and takes the active role at T + 8. -/
def execSwap (link : Fin 12) (t : BitVec 64) (s : State) : Host.Outcome State Fault Refusal :=
  .next (s.alive fun s =>
    if s.twinLink link && s.standby && !s.fbit Reg.AON_TWIN_STATUS_VER_FAIL then
      (s.onAon fun a => { a with swapActiveAt := some (t.toNat + 8) }).twinSend 3 t.toNat 0 0
    else s)

/-- SWAP_ACK (R452): the acknowledgement of the pending swap. -/
def execSwapAck (link : Fin 12) (t : BitVec 64) (s : State) : Host.Outcome State Fault Refusal :=
  .next (s.alive fun s =>
    if s.twinLink link && s.fbit Reg.AON_TWIN_STATUS_SWAP_PEND && decide (t.toNat = s.rd64 Reg.AON_TWIN_SWAP_AT_LO) then
      s.onAon fun a => { a with swapAcked := true }
    else s)

/-- SWAP_STANDBY (R452): at count T the active member with an acknowledged swap takes the standby role, reason 5. -/
def execSwapStandby (s : State) : Host.Outcome State Fault Refusal :=
  .next (s.alive fun s =>
    if s.fbit Reg.AON_TWIN_STATUS_SWAP_PEND && s.aon.swapAcked && !s.standby && decide (s.rd64 Reg.AON_TWIN_SWAP_AT_LO ≤ s.now) then
      s.swapDrop.takeStandby 5
    else s)

/-- SWAP_ACTIVE (R444, R452): at T + 8 the partner takes the active role, reason 5; held pulses are not restarted. -/
def execSwapActive (s : State) : Host.Outcome State Fault Refusal :=
  .next (s.alive fun s =>
    match s.aon.swapActiveAt with
    | some t => if t ≤ s.now ∧ s.standby = true ∧ s.inService = true then s.swapDrop.takeActive 5 else s
    | none => s)

/-- SWAP_CANCEL (R452): without SWAP_ACK by T − 2,000 the swap is cancelled, in the member that asked for it and in its partner,
whose answer was lost. -/
def execSwapCancel (s : State) : Host.Outcome State Fault Refusal :=
  .next (s.alive fun s =>
    if s.fbit Reg.AON_TWIN_STATUS_SWAP_PEND then
      (if !s.aon.swapAcked && decide (s.rd64 Reg.AON_TWIN_SWAP_AT_LO ≤ s.now + 2000) then s.swapDrop else s)
    else match s.aon.swapActiveAt with
      | some t => if t ≤ s.now + 2008 then s.swapDrop else s
      | none => s)

/-- SWITCH (R459): a standby of the plane takes the active role with LAST_REASON = 6 and sends TAKE to its partner. -/
def execSwitch (link : Fin 12) (s : State) : Host.Outcome State Fault Refusal :=
  .next (s.alive fun s =>
    if s.fbit (Reg.IBL_STATUS_UP link) && decide (s.fget (Reg.IBL_PEER_DEV link) % 2 = s.devid % 2) && s.standby && s.inService then
      (s.takeActive 6).twinSend 1 0 0 0
    else s)

/-! ### Digests (R466) -/

/-- The form of an output record, as eight little-endian bytes. -/
def digestForm (u n j grade : Nat) : List Byte := leBytes 8 (u * 2 ^ 32 + n * 2 ^ 22 + j * 2 ^ 8 + grade)

/-- A window with one more record of CRC c. -/
def digestAdd (w : Nat × Nat × Nat) (c : Nat) : Nat × Nat × Nat := (w.1, w.2.1 + 1, (w.2.2 + c) % 2 ^ 32)

/-- The window that holds step u, with one more record. -/
def digestHit (len u c : Nat) (w : Nat × Nat × Nat) : Nat × Nat × Nat := if w.1 ≤ u ∧ u < w.1 + len then digestAdd w c else w

/-- An output record enters its window while twin service and the step generator run (R466). -/
def State.digestRecord (s : State) (u n j grade : Nat) : State :=
  let len := s.fget Reg.AON_TWIN_CMP_STEPS
  let c := (crc32 (digestForm u n j grade)).toNat
  s.iff (s.fbit Reg.AON_TWIN_CTL_EN && s.stepOn && decide (len ≠ 0)) fun s =>
    s.onAon fun a => { a with digNow := a.digNow.map (digestHit len u c), digPrev := a.digPrev.map (digestHit len u c) }

/-- At a boundary whose number is a multiple of STEPS the window in progress closes and the next opens (R466). -/
def State.digestBoundary (s : State) (u : Nat) : State :=
  let len := s.fget Reg.AON_TWIN_CMP_STEPS
  s.iff (s.fbit Reg.AON_TWIN_CTL_EN && decide (len ≠ 0) && decide (u % len = 0)) fun s =>
    s.onAon fun a => { a with digPrev := a.digPrev ++ a.digNow.toList, digNow := some (u % 2 ^ 32, 0, 0) }

/-- The step generator or twin service stops: no window is whole (R466). -/
def State.digestStop (s : State) : State := s.onAon fun a => { a with digNow := none, digPrev := [] }

/-- An own window and the partner's window of the same FIRST are compared, once both are there, and the counters updated (R466); a pair
with VER_FAIL does not compare (R461). -/
def State.digestCompare (s : State) : State :=
  if s.fbit Reg.AON_TWIN_STATUS_VER_FAIL then s
  else match s.aon.digOwn.find? fun o => s.aon.digPeer.any fun p => decide (p.1 = o.1) with
    | some o =>
      let same := s.aon.digPeer.any fun p => decide (p = o)
      ((s.count Reg.AON_TWIN_CMP_CNT 1).iff (!same) fun s => s.count Reg.AON_TWIN_CMP_MISS_CNT 1).onAon
        fun a => { a with digOwn := a.digOwn.filter (fun x => decide (x.1 ≠ o.1)), digPeer := a.digPeer.filter fun x => decide (x.1 ≠ o.1) }
    | none => s

/-- DIGEST_SEND (R466): one step after a window ends its DIGEST is sent. -/
def execDigestSend (s : State) : Host.Outcome State Fault Refusal :=
  .next (s.alive fun s =>
    match s.aon.digPrev with
    | w :: r =>
      if s.fbit Reg.AON_TWIN_CTL_EN && s.stepOn && decide ((w.1 + s.fget Reg.AON_TWIN_CMP_STEPS + 1) % 2 ^ 32 ≤ s.stepCnt) then
        ((s.onAon fun a => { a with digPrev := r, digOwn := a.digOwn ++ [w] }).twinSend 4 w.1 w.2.1 w.2.2).digestCompare
      else s
    | [] => s)

/-- DIGEST (R466): the partner's window is compared with the own window of the same FIRST. -/
def execDigest (link : Fin 12) (first count sum : Word) (s : State) : Host.Outcome State Fault Refusal :=
  .next (s.alive fun s =>
    if s.twinLink link && s.fbit Reg.AON_TWIN_CTL_EN then
      (s.onAon fun a => { a with digPeer := (a.digPeer.filter fun x => decide (x.1 ≠ first.toNat)) ++ [(first.toNat, count.toNat, sum.toNat)] }).digestCompare
    else s)

end Sys2Proof.Machine
end

