-- ==== Sys2Proof/Machine/FaultRec.lean ====
section
/-! DEFINITION. The fault record (R527 to R529), its copy at a chip reset (R533), standing causes (R520), and the chip
reset itself. The reactions are carried out in Faults.lean. -/

namespace Sys2Proof.Machine

/-- The standing cause of a source: CAUSE reads b (R520). -/
def State.setCause (s : State) (src : Nat) (b : Bool) : State := s.fflag (Reg.FLT_SRC_STAT_CAUSE src) b

/-- The standing cause of a source as the units show it now (R520): a failed DDR channel, a link enabled and not UP, an
absent stream, a tile in its error state, LOCKED = 0 under a running step generator, SPLIT, a hot sensor, a supply out of
its limits. -/
def State.causeNow (s : State) (src : Nat) : Bool :=
  if src = 4 then (List.range 8).any fun c => s.fbit (Reg.DDR_STATUS_FAILED c)
  else if src = 7 then (List.range 12).any fun k => s.fbit (Reg.IBL_CTL_EN k) && !s.fbit (Reg.IBL_STATUS_UP k)
  else if src = 8 then (List.range 32).any fun i => s.fbit (Reg.ING_STATUS_ABSENT i)
  else if src = 14 then (List.range 64).any fun t => s.fbit (Reg.TILE_STATUS_ERR t)
  else if src = 17 then s.stepOn && !s.fbit Reg.TB_SYNC_STATUS_LOCKED && decide (s.fget Reg.TB_SYNC_CFG_MODE ≠ 0) && decide (s.fget Reg.TB_SYNC_CFG_MODE ≠ 3)
  else if src = 19 then s.fbit Reg.AON_TWIN_STATUS_SPLIT
  else if src = 22 then !s.aon.hot.isEmpty
  else if src = 25 then !s.aon.supplyOut.isEmpty
  else false

/-- CAUSE of every source brought to what the units show (R520). -/
def State.refreshCauses (s : State) : State :=
  forL [4, 7, 8, 14, 17, 19, 22, 25] (fun i s => s.setCause i (s.causeNow i)) s

/-- A new record (R527). -/
def State.recOpen (s : State) (src kind index : Nat) (detail : Word) (set : Nat) (lasting : Bool) : State :=
  let st := 2 ^ 31 + set * 2 ^ 24 + (if lasting then 2 ^ 23 else 0) + src * 2 ^ 16 + 1
  ((((s.wrN Reg.FLT_REC_STATUS st).wrN Reg.FLT_REC_SOURCES (2 ^ src)).wr64 Reg.FLT_REC_T_LO s.now).wrN Reg.FLT_REC_UNIT
    (kind * 2 ^ 28 + index)).wr Reg.FLT_REC_DETAIL detail

/-- An event merges into the pending record (R528): COUNT saturates at 65,535. -/
def State.recMerge (s : State) (src set : Nat) (lasting : Bool) : State :=
  let s := s.fcount Reg.FLT_REC_STATUS_COUNT 1
  let s := s.wr Reg.FLT_REC_SOURCES (s.rd Reg.FLT_REC_SOURCES ||| BitVec.ofNat 32 (2 ^ src))
  let s := s.fset Reg.FLT_REC_STATUS_REACT (s.fget Reg.FLT_REC_STATUS_REACT ||| set)
  s.iff lasting fun s => s.fon Reg.FLT_REC_STATUS_LASTING

/-- The record copied into FLT_PREV in the order of R537; PREV_VALID set (R533). -/
def State.copyPrev (s : State) : State :=
  (s.wrWords (Reg.FLT_PREV 0) [s.rd Reg.FLT_REC_STATUS, s.rd Reg.FLT_REC_SOURCES, s.rd Reg.FLT_REC_T_LO, s.rd Reg.FLT_REC_T_HI,
    s.rd Reg.FLT_REC_UNIT, s.rd Reg.FLT_REC_DETAIL]).fon Reg.FLT_STATUS_PREV_VALID

/-- A STORE in progress is cut off: BUSY ends and the copy being programmed stays invalid (R516). -/
def Settings.cutOff (t : Settings) : Settings := { t with programming := false, storedNow := [] }

/-- The chip reset: every register and unit at its reset value, memories unpredictable. What outlives it: the settings
store, FLT_PREV with PREV_VALID (R533), the straps sampled at PWR_GOOD (R587), what waits outside (the queue of commands,
what was put out, the model's time), and which causes hold the reset. -/
def State.chipReset (s : State) : State :=
  let r : State := { State.reset with
    pending := s.pending, time := s.time, free := s.free + 1, sent := s.sent,
    mem := ⟨[], [⟨0, 2 ^ 52, some s.free, .all⟩]⟩, store := s.store.cutOff,
    aon := { Aon.init with held := s.aon.held, tapHold := s.aon.tapHold, supplyOut := s.aon.supplyOut, hot := s.aon.hot, straps := s.aon.straps,
                           goodAt := s.aon.goodAt, pcieTraining := false } }
  (r.wrWords (Reg.FLT_PREV 0) (s.rdWords (Reg.FLT_PREV 0) 6)).fflag Reg.FLT_STATUS_PREV_VALID (s.fbit Reg.FLT_STATUS_PREV_VALID)

/-- The start record of Instar k (R487): START is the counter (0 for Instar 0), STATUS 1 running; STAGE shows k. -/
def State.instarBegin (s : State) (k : Nat) : State :=
  let s := s.wr64 (Reg.INST_REC (8 * k)) (if k = 0 then 0 else s.now)
  let s := s.wrN (Reg.INST_REC (8 * k + 4)) (2 ^ 24)
  (s.fset Reg.INST_STATUS_STAGE k).onAon fun a => { a with stageInv := false, stageAt := s.time }

/-- Instar 0 begins with the straps in AON_ID and ROLE (R440, R443) and a challenge drawn (R551). -/
def State.startUp (s : State) : State :=
  let s := s.newChallenge
  let s := ((s.fset Reg.AON_ID_DEVID s.aon.straps.1).fflag Reg.AON_ID_ROLE_STRAP s.aon.straps.2).fflag Reg.AON_TWIN_STATUS_ROLE s.aon.straps.2
  s.instarBegin 0

/-- A reason for holding the chip reset is gone; with none left Instar 0 begins (R563, R583, R585). -/
def State.release (s : State) (why : Nat) : State :=
  if why ∈ s.aon.held then
    let s := s.onAon fun a => { a with held := a.held.filter (· ≠ why) }
    if s.aon.held.isEmpty then s.startUp else s
  else s

/-- A reason for holding the chip reset. -/
def State.hold (s : State) (why : Nat) : State :=
  s.onAon fun a => { a with held := if why ∈ a.held then a.held else why :: a.held }

/-- A CHIP_RESET reaction with a source of its own outside the collector (R563, R585): the record takes the source, is
copied to FLT_PREV, and the chip reset is held for the reason given. -/
def State.resetHeldBy (s : State) (src why : Nat) : State :=
  let s := if s.fbit Reg.FLT_REC_STATUS_PENDING then s.recMerge src 16 false else s.recOpen src 9 0 0 16 false
  (s.copyPrev.hold why).chipReset

end Sys2Proof.Machine
end

