-- ==== Sys2Proof/Machine/Islands.lean ====
section
/-! DEFINITION. Which units are present (R477, R478), and what a request does to an island that is off or roosts
(R566 to R568, R571). -/

namespace Sys2Proof.Machine

/-- The half of neuron core n. -/
def coreHalf (n : Nat) : Nat := n / 512

/-- Row and logical column of neuron core n (R16). -/
def coreRow (n : Nat) : Nat := n % 512 / 32
def coreCol (n : Nat) : Nat := n % 32

/-- Logical columns 0 to LCOLS − 1 of a row are present once Instar 2 has loaded the row's record; before that, all are
(log entry 37). -/
def State.coreAbsent (s : State) (n : Nat) : Bool :=
  let r := 16 * coreHalf n + coreRow n
  decide (1024 ≤ n) || (decide (s.rd (Reg.INST_NROW r) ≠ 0) && decide (s.fget (Reg.INST_NROW_LCOLS r) ≤ coreCol n))

/-- An absent tile (R478). -/
def State.tileAbsent (s : State) (t : Nat) : Bool :=
  let r := t / 8
  decide (64 ≤ t) || (decide (s.rd (Reg.INST_TROW r) ≠ 0) && decide (s.fget (Reg.INST_TROW_LCOLS r) ≤ t % 8))

/-- Whether a CSR offset lies in the block of an absent unit (R478). -/
def State.regAbsent (s : State) (o : Nat) : Bool :=
  if 0x400000 ≤ o ∧ o < 0x4400000 then s.coreAbsent ((o - 0x400000) / 0x10000)
  else if 0x5000000 ≤ o ∧ o < 0x5400000 then s.tileAbsent ((o - 0x5000000) / 0x10000)
  else false

end Sys2Proof.Machine
end

