-- ==== Sys2Proof/Machine/Respec.lean ====
section
/-! DEFINITION. FETCH descriptors as data (R200, R201), and the squash of items read ahead when a write reaches their span
(R213). -/

namespace Sys2Proof.Machine

/-- Word i of a descriptor as a number, and a field of it. -/
def Desc.w (d : Desc) (i : Nat) : Nat := (d.words.getD i 0).toNat
def Desc.f (d : Desc) (i hi lo : Nat) : Nat := bits (d.w i) hi lo

/-- The fields of word 0 (R197). -/
def Desc.op (d : Desc) : Nat := d.f 0 31 28
def Desc.wd (d : Desc) : Nat := d.f 0 27 24
def Desc.pd (d : Desc) : Nat := d.f 0 23 20
def Desc.wi (d : Desc) : Nat := d.f 0 19 16
def Desc.pi (d : Desc) : Nat := d.f 0 15 12
def Desc.tag (d : Desc) : Nat := d.f 0 7 0

/-- The fields of a FETCH (R200). -/
def Desc.src (d : Desc) : Nat := d.w 1 + d.f 2 15 0 * 2 ^ 32
def Desc.ob (d : Desc) : Nat := d.f 2 16 16
def Desc.isSpec (d : Desc) : Bool := bit (d.w 2) 17
def Desc.bsel (d : Desc) : Nat := d.f 2 20 18
def Desc.lookahead (d : Desc) : Nat := d.f 2 24 21
def Desc.perIter (d : Desc) : Bool := bit (d.w 2) 25
def Desc.dstBase (d : Desc) : Nat := d.f 3 12 0
def Desc.dstLen (d : Desc) : Nat := d.f 3 26 13
def Desc.run (d : Desc) : Nat := d.f 4 9 0 + 1
def Desc.cnt1 (d : Desc) : Nat := d.f 4 31 16
def Desc.cnt2 (d : Desc) : Nat := d.f 7 15 0

/-- The address of run (i1, i2) (R201). -/
def Desc.runAddr (d : Desc) (i1 i2 : Nat) : Nat :=
  wrapInt 48 ((d.src : Int) + 64 * ((i1 : Int) * signed 24 (d.f 5 23 0) + (i2 : Int) * signed 24 (d.f 6 23 0)))

/-- How many items one level-2 iteration holds (R200 ITEM). -/
def Desc.perI2 (d : Desc) : Nat := if d.perIter then 1 else d.cnt1

/-- The level-2 index of item q. -/
def Desc.i2 (d : Desc) (q : Nat) : Nat := q / d.perI2

/-- The granules of item q, by address, in ring order (R201). -/
def Desc.granules (d : Desc) (q : Nat) : List Nat :=
  let runs := if d.perIter then (List.range d.cnt1).map fun i1 => d.runAddr i1 q else [d.runAddr (q % d.cnt1) (q / d.cnt1)]
  runs.flatMap fun a => (List.range d.run).map fun g => (a + 64 * g) % 2 ^ 48

/-- Whether an address lies in the dense slices (R201). -/
def inSlices (a : Nat) : Bool := decide (0x80000000000 ≤ a) && decide (a < 0x80030000000)

/-- A run whose speculative items from the first that holds one of the granules l on are squashed for rereading (R213). -/
def FRun.respec (r : FRun) (l : List Nat) : FRun :=
  if r.d.isSpec then
    match r.items.find? fun x => x.spec && (r.d.granules x.q).any fun a => l.contains a with
    | some y => { r with items := r.items.map fun x => if x.spec && decide (y.q ≤ x.q) then { x with here := false, stale := true } else x }
    | none => r
  else r

/-- A write reaches the slice bytes at the addresses given: the tiles' items read ahead there are squashed (R213). -/
def State.respec (s : State) (l : List Nat) : State :=
  let g := (l.map fun a => a / 64 * 64).eraseDups
  forL s.tiles (fun x s =>
    if x.2.fetch.any fun r => r.items.any fun i => i.spec then s.onTile x.1 fun t => { t with fetch := t.fetch.map fun r => r.respec g } else s) s

end Sys2Proof.Machine
end

