-- ==== Sys2Proof/Machine/Access.lean ====
section
/-! DEFINITION. Accesses to the memories of the local map: region sets (R395 to R399, R599), append-unit guards (R269),
error codes (R392, R393, R404, R407, R408), the slice map (R219), the DDR4 interleave (R409), alias windows (R402) and
neuron-core windows (R90, R91). Every unit that reads or writes memory does so through the operations at the end. -/

namespace Sys2Proof.Machine

/-! ### Who accesses -/

/-- The region set of a master (R395); the AON controller and JTAG hold none (R599). -/
def Who.set : Who → Option Nat
  | .seq i => some (rsetSeq i)
  | .dense i => some (rsetSeq i)
  | .app => some rsetApp
  | .dma ch => some (if ch / 16 < 64 then rsetTile (ch / 16) else rsetBulk (ch / 16 - 64))
  | .pcie => some rsetPcie
  | .link k => some (rsetLink k)
  | .timeBase => some rsetTb
  | .ingest g => some (rsetIng g)
  | .aon => none
  | .jtag => none

/-- Unit kind and index of a violation (R603). -/
def Who.unit : Who → Nat × Nat
  | .seq i => (3, i)
  | .dense i => (3, i)
  | .app => (8, 99)
  | .dma ch => (7, ch)
  | .pcie => (8, 98)
  | .link k => (6, k)
  | .timeBase => (9, 0)
  | .ingest g => (8, 82 + g)
  | .aon => (9, 0)
  | .jtag => (9, 0)

/-- The tile whose Fetch or Exchange traffic the access is (R269). -/
def Who.tile : Who → Option Nat
  | .seq i => some (i / 2)
  | .dense i => some (i / 2)
  | .dma ch => if ch / 16 < 64 then some (ch / 16) else none
  | _ => none

/-! ### Region sets (R396 to R399) -/

/-- Whether entry j of set b is enabled and covers a page of 4 KiB. -/
def State.entryCovers (s : State) (b j page : Nat) : Bool :=
  s.fbit (Reg.REG_LIMIT_H_EN b j)
  && decide (s.fget (Reg.REG_BASE_H_BASE_H b j) * 2 ^ 20 + s.fget (Reg.REG_BASE_L_BASE_L b j) ≤ page)
  && decide (page ≤ s.fget (Reg.REG_LIMIT_H_LIMIT_H b j) * 2 ^ 20 + s.fget (Reg.REG_LIMIT_L_LIMIT_L b j))

/-- Whether entry j of set b grants an access of a kind: 0 read, 1 write, 2 atomic, 3 alias write, 4 fetch (R397, R399). -/
def State.entryGrants (s : State) (b j kind : Nat) : Bool :=
  let r := s.fbit (Reg.REG_LIMIT_H_R b j)
  let w := s.fbit (Reg.REG_LIMIT_H_W b j)
  if kind = 2 then r && w && s.fbit (Reg.REG_LIMIT_H_A b j)
  else if kind = 1 ∨ kind = 3 then w else r

/-- Whether set b allows an access of a kind to every byte from a up to a + n (R397). -/
def State.setAllows (s : State) (b kind a n : Nat) : Bool :=
  (List.range ((a + n - 1) / 4096 + 1 - a / 4096)).all fun i =>
    (List.range 16).any fun j => s.entryCovers b j (a / 4096 + i) && s.entryGrants b j kind

/-- Whether master w may access n bytes from a (R397, R599). -/
def State.allows (s : State) (w : Who) (kind a n : Nat) : Bool :=
  match w.set with
  | some b => decide (n = 0) || s.setAllows b kind a n
  | none => true

/-- A violation of master w: counted, captured when none is held, REGION raised (R398, R399). -/
def State.violation (s : State) (w : Who) (kind a : Nat) : State :=
  match w.set with
  | none => s
  | some b =>
    let s := s.count (Reg.REG_VIOL_CNT b) 1
    let s := if s.fbit (Reg.REG_VIOL_INFO_VALID b) then s
      else ((s.wr64 (Reg.REG_VIOL_LO b) (a % 2 ^ 48)).fset (Reg.REG_VIOL_INFO_KIND b) kind).fon (Reg.REG_VIOL_INFO_VALID b)
    s.raise 15 w.unit.1 w.unit.2 0

/-! ### Append units' guards (R267, R269, R272) -/

/-- The base of unit u's ring of stream i. -/
def State.kvBase (s : State) (i u : Nat) : Nat := s.rd64 (Reg.ING_KV_BASE_LO i u)

/-- What unit u of stream i says of the byte at a: none where it guards nothing, some 0 live, 1 speculative, 2 free. -/
def State.kvClass (s : State) (i u a : Nat) : Option Nat :=
  let cap := s.fget (Reg.ING_KV_CFG_CAP i u)
  let stride := s.fget (Reg.ING_KV_STRIDE_STRIDE i u)
  let base := s.kvBase i u
  if !s.fbit (Reg.ING_KV_CFG_EN i u) || decide (a < base) || decide (base + cap * stride ≤ a) then none
  else
    let r := (a - base) / stride
    let com := (s.rd (Reg.ING_KV_PTR i u)).toNat
    let old := (s.rd (Reg.ING_KV_OLDEST i u)).toNat
    if (r + cap - old % cap) % cap < com - old then some 0
    else if (r + cap - com % cap) % cap < s.fget (Reg.ING_KV_STAT_SPEC i u) then some 1
    else some 2

/-- Every append unit: stream and unit. -/
def kvUnits : List (Nat × Nat) := (List.range 64).map fun x => (x / 2, x % 2)

/-- The stream whose append unit refuses a write of one of the bytes (R269). -/
def State.kvRefuses (s : State) (l : List Nat) : Option Nat :=
  let us := kvUnits.filter fun x => s.fbit (Reg.ING_KV_CFG_EN x.1 x.2)
  (us.find? fun x => l.any fun a => match s.kvClass x.1 x.2 a with
    | some c => decide (c ≠ 1)
    | none => false).map Prod.fst

/-- Whether an append unit hides the byte at a from master w: it is speculative or free, and the access is not Fetch or
Exchange traffic of tiles VFIRST to VLAST (R269). -/
def State.kvHides (s : State) (w : Who) (a : Nat) : Bool :=
  kvUnits.any fun x => match s.kvClass x.1 x.2 a with
    | some c => decide (c ≠ 0) && (match w.tile with
      | some t => decide (t < s.fget (Reg.ING_KV_CFG_VFIRST x.1 x.2)) || decide (s.fget (Reg.ING_KV_CFG_VLAST x.1 x.2) < t)
      | none => true)
    | none => false

/-! ### Error codes (R392, R393, R403 to R408) -/

/-- The unit of the code at a local address: 64-byte DDR4 lines, 8-byte slice words, 4-byte words elsewhere. -/
def eccUnit (a : Nat) : Nat :=
  match placeOf a with
  | .ddr => 64
  | .slice _ => 8
  | _ => 4

/-- The code words that n bytes from a touch. -/
def eccWords (a n : Nat) : List Nat :=
  let u := eccUnit a
  (List.range ((a + n - 1) / u + 1 - a / u)).map fun i => (a / u + i) * u

/-- Whether the code word at a holds an uncorrectable error. -/
def State.isBad (s : State) (a : Nat) : Bool := tabGet (fun _ => false) s.bad a

/-- The code word at a marked. -/
def State.setBad (s : State) (a : Nat) (b : Bool) : State := { s with bad := tabPut (fun _ => false) s.bad a b }

/-- The slice of a slice offset (R219). -/
def sliceOf (off : Nat) : Nat := bits off 13 6

/-- The populated capacity of one channel in bytes: 2^CAP GiB (R409). -/
def State.ddrCap (s : State) : Nat := 2 ^ s.fget (Reg.DDR_CFG_CAP 0) * 2 ^ 30

/-- The channel of a DDR4 address (R409). -/
def State.ddrChan (s : State) (a : Nat) : Nat :=
  chanOf (s.fget Reg.DDR_ILV_MODE) s.ddrCap a

/-- Whether channel c serves: enabled, trained, not failed (R409). -/
def State.ddrServes (s : State) (c : Nat) : Bool :=
  s.fbit (Reg.DDR_CTL_EN c) && s.fbit (Reg.DDR_STATUS_TRAINED c) && !s.fbit (Reg.DDR_STATUS_FAILED c)

/-- A DDR4 error of channel c recorded: address, kind, source (0 demand read, 1 read-modify-write, 2 patrol), rank, device. -/
def State.ddrError (s : State) (c a : Nat) (ue : Bool) (src rank device : Nat) : State :=
  let s := (s.wr64 (Reg.DDR_ERR_ADDR_LO c) a).wrN (Reg.DDR_ERR_INFO c)
    ((if ue then 2 ^ 31 else 0) + src * 2 ^ 28 + rank * 2 ^ 24 + device * 2 ^ 18)
  if ue then (s.count (Reg.DDR_UE_CNT c) 1).raise 3 5 c (a % 2 ^ 32) else (s.count (Reg.DDR_CE_CNT c) 1).raise 2 5 c (a % 2 ^ 32)

/-- An error of an on-chip memory at local address a recorded under its owner (R404, R405). -/
def State.sramError (s : State) (a : Nat) (ue : Bool) : State :=
  match placeOf a with
  | .slice off =>
    let t := sliceOf off / 4
    let i := sliceOf off % 4
    if ue then ((s.count (Reg.TILE_SLC_UE_CNT t i) 1).wr64 (Reg.TILE_SLC_UE_ADDR_LO t i) a).raise 1 2 t (a % 2 ^ 32)
    else (s.count (Reg.TILE_SLC_CE_CNT t i) 1).raise 0 2 t (a % 2 ^ 32)
  | .window n off =>
    if ue then (((s.count (Reg.NC_UE_CNT n) 1).wrN (Reg.NC_UE_ADDR n) off).fon (Reg.NC_STATUS_UE n)).raise 1 1 n (a % 2 ^ 32)
    else (s.count (Reg.NC_CE_CNT n) 1).raise 0 1 n (a % 2 ^ 32)
  | .seqMem i off =>
    if ue then ((s.count (Reg.SEQ_UE_CNT i) 1).wrN (Reg.SEQ_UE_ADDR i) off).raise 1 3 i (a % 2 ^ 32)
    else (s.count (Reg.SEQ_CE_CNT i) 1).raise 0 3 i (a % 2 ^ 32)
  | _ => s

/-- An error at a, whatever memory holds it; rank and device of a line known to be bad are open (log entry 1). -/
def State.memError (s : State) (a src : Nat) : Ecc → State
  | .none => s
  | .ce rank device => if placeOf a = .ddr then s.ddrError (s.ddrChan a) a false src rank device else s.sramError a false
  | .ue rank device => if placeOf a = .ddr then s.ddrError (s.ddrChan a) a true src rank device else s.sramError a true
  | .sym _ _ => s

/-- What the code at a makes of the wrong bits: SSC corrects a device's symbol, SECDED only detects it (R407); every on-chip code is
SECDED (R403). -/
def State.decoded (s : State) (a : Nat) : Ecc → Ecc
  | .sym rank device => if placeOf a = .ddr && s.fbit (Reg.DDR_CFG_ECC (s.ddrChan a)) then .ce rank device else .ue rank device
  | e => e

/-- The word at a is marked where the code cannot correct it (R404). -/
def State.markUe (s : State) (a : Nat) : Ecc → State
  | .ue _ _ => s.setBad a true
  | _ => s

/-- A code word known to be bad is met again: recorded with an open rank and device. -/
def State.knownBad (s : State) (src x : Nat) : State :=
  (s.memError x src (.ue (s.freeVal 4).toFin (Config.freeValue 6 (s.free + 1)).toFin)).drawnN 2

/-- The read of n bytes from local address a finds the error the command names at its first code word, and every error
that stands in its words (R404): the state with all recorded, and whether an uncorrectable one was met. quiet: a
speculative read, which counts nothing (R211). -/
def State.readErrors (s : State) (a n src : Nat) (ecc : Ecc) (quiet : Bool) : State × Bool :=
  if n = 0 then (s, false)
  else
    let w := eccWords a n
    let first := w.headD a
    let e := s.decoded first ecc
    let s := s.markUe first e
    let known := w.filter fun x => s.isBad x
    if quiet then (s, !known.isEmpty)
    else
      let s := s.memError first src e
      let fresh := match e with
        | .ue _ _ => known.filter (· ≠ first)
        | _ => known
      (forL fresh (fun x s => s.knownBad src x) s, !known.isEmpty)

/-- The code words of a write that it covers only in part; an alias write reads every word it touches (R392, R402, R408). -/
def partWords (l : List Nat) (al : Bool) : List Nat :=
  ((l.map fun a => a / eccUnit a * eccUnit a).eraseDups).filter fun w =>
    al || !((List.range (eccUnit w)).all fun i => l.contains (w + i))

/-- A write of the bytes at the addresses of l: a code word covered whole is replaced with its check bits, a word covered
in part is read first, and an uncorrectable error there stops the write of its granule (R393) or line (R408). err: the error that
the read of a word finds. The answer says whether the write was performed. -/
def State.writeErrors (s : State) (l : List Nat) (al : Bool) (err : Option (Nat × Ecc)) : State × Bool :=
  let part := partWords l al
  let new := (err.filter fun x => part.contains x.1).map fun x => (x.1, s.decoded x.1 x.2)
  let s := match new with
    | some x => (s.markUe x.1 x.2).memError x.1 1 x.2
    | none => s
  let hit := part.filter fun w => s.isBad w
  if hit.isEmpty then
    (forL (((l.map fun a => a / eccUnit a * eccUnit a).eraseDups).filter fun w => !part.contains w) (fun w s => s.setBad w false) s, true)
  else (forL (hit.filter fun w => decide (new.map Prod.fst ≠ some w)) (fun x s => s.knownBad 1 x) s, false)

/-! ### The answers of a memory -/

/-- Where an access of w at local address a goes: 0 served; 3 NO_TARGET, 4 REGION, 5 UE, 7 BAD_TYPE as R297 codes them; 9
served with zeros or discarded without a trace; 10 held by a channel that retrains (R412). While a Cocoon runs the compute part
answers NO_TARGET (R485). -/
def State.served (s : State) (a : Nat) : Nat :=
  if s.fbit Reg.INST_STATUS_COCOON && decide (placeOf a ≠ .ddr) then 3
  else match placeOf a with
  | .ddr =>
    if 8 * s.ddrCap ≤ a then 4
    else if s.islOff (74 + s.ddrChan a) then 3
    else if !s.ddrServes (s.ddrChan a) then 5
    else if s.fbit (Reg.DDR_STATUS_RETRAINING (s.ddrChan a)) then 10 else 0
  | .slice off => if s.tileAbsent (sliceOf off / 4) then 5 else 0
  | .sliceSet off => if s.tileAbsent (sliceOf off / 4) then 5 else 0
  | .sliceClear off => if s.tileAbsent (sliceOf off / 4) then 5 else 0
  | .sliceHole => 9
  | .window n off => if s.coreAbsent n || decide (0x180000 ≤ off) then 9 else 0
  | .seqMem i _ => if s.tileAbsent (i / 2) then 9 else 0
  | _ => 3

/-- The island a local address lies in, if it may roost: DDR4 channel or Exchange half (R564); with its wake cause. -/
def State.islandOf (s : State) (a : Nat) : Option (Nat × Nat) :=
  match placeOf a with
  | .ddr => some (74 + s.ddrChan a, 2)
  | .slice off => some (72 + sliceOf off / 128, 1)
  | .sliceSet off => some (72 + sliceOf off / 128, 1)
  | .sliceClear off => some (72 + sliceOf off / 128, 1)
  | .seqMem i _ => some (i / 2, 2)
  | _ => none

/-- A request to local address a wakes the island it lies in (R566, R567). -/
def State.touch (s : State) (a : Nat) : State :=
  match s.islandOf a with
  | some (i, cause) => s.wakeIsland i cause
  | none => s

/-- The address of the slice byte behind an alias address (R402). -/
def unalias (a : Nat) : Nat :=
  match placeOf a with
  | .sliceSet off => 0x80000000000 + off
  | .sliceClear off => 0x80000000000 + off
  | _ => a

/-- A read of n bytes by master w from an address as it stands, once the region check has passed (R20, R90, R219, R269, R402, R404,
R409): the status of R297 and the bytes. kind: the kind of a violation (R399). -/
def State.localRead (s : State) (w : Who) (kind va n : Nat) (ecc : Ecc) (quiet : Bool) : State × Nat × List Byte :=
  let a := localPart va
  let s := s.touch a
  let b := unalias a
  match s.served a with
  | 0 =>
    let (t, bad) := s.readErrors b n 0 ecc quiet
    if bad then (t, 5, List.replicate n 0)
    else (t, 0, (List.range n).map fun i => if s.kvHides w (b + i) then 0 else s.mget (b + i))
  | 9 => (s, 0, List.replicate n 0)
  | 4 => (s.violation w kind va, 4, List.replicate n 0)
  | c => (s, c, List.replicate n 0)

/-- The value a byte of a local address takes when v is written there (R402). -/
def State.aliasByte (s : State) (a : Nat) (v : Byte) : Byte :=
  match placeOf a with
  | .sliceSet _ => s.mget (unalias a) ||| v
  | .sliceClear _ => s.mget (unalias a) &&& ~~~ v
  | _ => v

/-- Whether a local address is an alias (R402). -/
def isAlias (a : Nat) : Bool := decide (unalias a ≠ a)

/-- A write of the bytes at the addresses of l ends the reservation of a core whose own memory it reaches (R401). -/
def State.reserveEnd (s : State) (l : List Nat) : State :=
  forL s.seqs (fun x s => match x.2.lr with
    | some (a, n, _) =>
      if (match placeOf a with | .seqMem i _ => decide (i = x.1) | _ => false) && l.any fun b => decide (a ≤ b ∧ b < a + n) then
        s.setSeq x.1 { x.2 with lr := none }
      else s
    | none => s) s

/-- The bytes of one granule or line are written in one piece (R91, R392, R393, R402, R408): an alias write as one read-modify-write;
a neuron-core window takes no write while its core is enabled; a write ends a reservation of the core whose memory it reaches
(R401). -/
def State.granuleWrite (s : State) (l : List (Nat × Byte)) (err : Option (Nat × Ecc)) : State × Nat :=
  let a := (l.map Prod.fst).headD 0
  let b := l.map fun x => unalias x.1
  match s.served a, placeOf a with
  | 0, .window n _ =>
    if s.fbit (Reg.NC_CTL_EN n) then
      (if l.any fun x => decide (s.mget x.1 ≠ x.2) then s.fon (Reg.NC_STATUS_CFG_IGNORED n) else s, 0)
    else
      let (t, ok) := s.writeErrors b false err
      if ok then (forL l (fun x s => s.mput x.1 x.2) t, 0) else (t, 5)
  | 0, _ =>
    let (t, ok) := s.writeErrors b (isAlias a) err
    if ok then (((forL l (fun x s => s.mput (unalias x.1) (s.aliasByte x.1 x.2)) t).respec b).reserveEnd b, 0) else (t, 5)
  | 9, p => (s, if p = .sliceHole then 3 else 0)
  | c, _ => (s, c)

/-- A write granule by granule: an error stops only its own granule or line (R393, R408). The first refusal is the answer. -/
def State.granulesWrite (s : State) (l : List (Nat × Byte)) (err : Option (Nat × Ecc)) : List Nat → Nat → State × Nat
  | [], st => (s, st)
  | g :: r, st =>
    let (s, x) := s.granuleWrite (l.filter fun b => decide (b.1 / 64 = g)) err
    State.granulesWrite s l err r (if st = 0 then x else st)

/-- A write of bytes by master w, all in one place of the map, at addresses as they stand, once the region check has passed: the
status of R297. A refusal of a guard is a violation of the writer, kind 5 (R269, R398). Only a read of the slices' hole is
answered with zeros (R20, R219). ecc: what the read of its first word covered in part finds (R393, R408). -/
def State.localWrite (s : State) (w : Who) (l : List (Nat × Byte)) (ecc : Ecc) : State × Nat :=
  match l with
  | [] => (s, 0)
  | (va, _) :: _ =>
    let a := localPart va
    let m := l.map fun x => (localPart x.1, x.2)
    let s := s.touch a
    if m.any fun x => decide (s.served x.1 = 4) then (s.violation w (if isAlias a then 3 else 1) va, 4)
    else if m.any fun x => decide (s.served x.1 = 10) then (s, 10)
    else match if s.served a = 0 then s.kvRefuses (m.map fun x => unalias x.1) else none with
    | some i => ((s.count (Reg.ING_KV_GUARD_CNT i) 1).violation w 5 va, 4)
    | none =>
      s.granulesWrite m (((partWords (m.map fun x => unalias x.1) (isAlias a)).head?).map fun x => (x, ecc)) (m.map fun x => x.1 / 64).eraseDups 0


/-- The endpoint a master's requests leave by. -/
def Who.coord (dev : Nat) : Who → Nat
  | .seq i => ownerCoord dev i
  | .dense i => tileCoord dev (i / 2) 0
  | .app => ioCoord dev 6 0 0
  | .dma ch => dmaCoord dev ch
  | .pcie => ioCoord dev 3 0 0
  | .link k => ioCoord dev 2 k 0
  | .timeBase => ioCoord dev 5 0 0
  | .ingest g => ioCoord dev 0 g 0
  | .aon => ioCoord dev 3 0 0
  | .jtag => ioCoord dev 3 0 0

/-- Whether a coordinate names a present, enabled endpoint of the device (R301, R309): an endpoint counts as disabled while its island is
off (R571, log entry 98). -/
def State.endpointThere (s : State) (c : Nat) : Bool :=
  if coRegion c = 0 then decide (coEp c = 0) && !s.coreAbsent (coordCore c)
  else if coRegion c = 1 then
    decide (coX c < 8) && decide (coY c < 4) && decide (coEp c ≤ 2) && !s.tileAbsent (coordTile c) && !s.islOff (coordTile c)
  else if coRegion c = 2 then
    decide (coX c < ioUnits (coY c)) && decide (coEp c < ioEps (coY c)) && decide (coHalf c = ioHalf (coY c) (coX c))
    && !(if coY c = 0 then s.islOff (82 + coX c) else if coY c = 1 then s.islOff (74 + coX c) else if coY c = 2 then s.islOff (86 + coX c) else false)
  else false

/-- The reply cells of a request that a channel holds (R310). -/
def DdrReq.cells (r : DdrReq) : Nat := if r.n = 0 then 1 else (r.n + 31) / 32

/-- The interface of this device whose reply space a held request takes; none where another device made it. -/
def State.ddrIface (s : State) (r : DdrReq) : Option Nat :=
  match r.back with
  | .mesh src => if coDev src = s.devid then some (src % 2 ^ 22) else none
  | _ => some (r.who.coord s.devid)

/-- A core's store that is held is one it awaits (R362). -/
def State.storeOut (s : State) (r : DdrReq) : State :=
  match r.back with
  | .core (some o) => if r.n = 0 then s.onOwner o fun w => { w with out := w.out + 1 } else s
  | _ => s

/-- A store of core o is acknowledged; the last of them completes the Q_WDRAIN that waits for it (R362). -/
def State.storeAcked (s : State) (o : Nat) : State :=
  let s := s.onOwner o fun w => { w with out := w.out - 1 }
  if (s.owner o).drain && decide ((s.owner o).out = 0) then (s.onOwner o fun w => { w with drain := false }).emit (.readValue 0) else s

/-- A request enters the queue of a channel that retrains; at 256 it is answered BUSY, and its interface sends it again 1 µs
later (R411). -/
def State.ddrHold (s : State) (r : DdrReq) : State :=
  let c := s.ddrChan r.a
  let t := match s.ddrIface r with
    | some i => s.reserve i r.cells
    | none => s
  let t := t.storeOut r
  if (s.ddr c).queue.length < 256 then t.onDdr c fun d => { d with queue := d.queue ++ [r] }
  else
    let t := t.count (Reg.DDR_BUSY_CNT c) 1
    match s.ddrIface r, r.back with
    | none, .mesh src => t.send (.status src 1 4 0 0)
    | _, _ => t.busyAdd r

/-- The endpoint a request for a local address of a device names: the DDR4 channel by this device's own interleave (R410), the
tile of a slice, a core's window, a sequencer core's memory. -/
def State.memCoord (s : State) (dev a : Nat) : Nat :=
  match placeOf a with
  | .slice off => tileCoord dev (sliceOf off / 4) 0
  | .sliceSet off => tileCoord dev (sliceOf off / 4) 0
  | .sliceClear off => tileCoord dev (sliceOf off / 4) 0
  | .window n _ => coord dev (n / 512) 0 (n % 512 / 32) (n % 32) 0
  | .seqMem i _ => tileCoord dev (i / 2) (1 + i % 2)
  | _ => ioCoord dev 1 (s.ddrChan a) 0

/-- The half of a request's endpoint. -/
def State.halfOfAddr (s : State) (a : Nat) : Nat := coHalf (s.memCoord 0 a)

/-- The TYPE of a write to another device (R462): WR_FULL where it covers whole granules of 32 bytes and the link it leaves by
runs at generation 2; else WR_REQ. -/
def State.writeType (s : State) (a : Nat) (l : List Nat) : Nat :=
  match s.egress (s.addrDev a) (s.halfOfAddr (localPart a)) with
  | some k =>
    if s.fget (Reg.IBL_GEN_CUR k) = 2 ∧ (l.all fun x => (List.range 32).all fun i => l.contains (x / 32 * 32 + i)) then 21 else 17
  | none => 17

/-- An RD_REQ for n bytes from a of another device leaves the interface of c, in pieces of at most 64 replies, ascending, each under its
own tag (R297, R310, R311). -/
def State.readSend (s : State) (c a n : Nat) : State :=
  let lo := a / 32 * 32
  let cells := (a + n + 31) / 32 - a / 32
  forN ((cells + 63) / 64) (fun i s =>
    let b := lo + 2048 * i
    let k := min 64 (cells - 64 * i)
    s.request c k fun tag => .cell 16 (s.memCoord (s.addrDev a) (localPart b)) c tag false [rdPayload (b % 2 ^ 48) k]) s

/-- A write of another device's memory leaves the interface of c; it needs one reply cell and is never split (R297, R311, R462). -/
def State.writeSend (s : State) (c a : Nat) (l : List (Nat × Byte)) : State :=
  let type := s.writeType a (l.map Prod.fst)
  s.request c 1 fun tag => .cell type (s.memCoord (s.addrDev a) (localPart a)) c tag false (writeCells type l)

/-- A memory read by master w: the region check on the address as it stands (R397), then the local map; an address of
another device is refused where no route exists (R602) and else leaves as RD_REQ cells, status 8. JTAG reads zeros while
debug is not open (R599). -/
def State.memRead (s : State) (w : Who) (kind a n : Nat) (ecc : Ecc) (quiet : Bool) : State × Nat × List Byte :=
  if w = .jtag ∧ !s.fbit Reg.TRU_STATUS_DBG_OPEN then (s, 0, List.replicate n 0)
  else if !s.allows w kind a n then (if quiet then s else s.violation w kind a, 4, List.replicate n 0)
  else if s.isLocal a then s.localRead w kind a n ecc quiet
  else if s.routeFor (s.addrDev a) (s.halfOfAddr (localPart a)) then (s.readSend (w.coord s.devid) a n, 8, List.replicate n 0)
  else (s.count Reg.MESH_NOROUTE_CNT 1, 3, List.replicate n 0)

/-- The bytes of a contiguous write. -/
def bytesAt (a : Nat) (l : List Byte) : List (Nat × Byte) := (List.range l.length).map fun i => (a + i, l.getD i 0)

/-- The addresses of a write as the ranges its region check sees: one byte each. -/
def State.allowsBytes (s : State) (w : Who) (kind : Nat) (l : List (Nat × Byte)) : Bool :=
  ((l.map fun x => x.1 / 4096 * 4096).eraseDups).all fun p => s.allows w kind p 1

/-- A memory write by master w, as memRead. -/
def State.memWrite (s : State) (w : Who) (l : List (Nat × Byte)) (ecc : Ecc) : State × Nat :=
  match l with
  | [] => (s, 0)
  | (a, _) :: _ =>
    let kind := if isAlias (localPart a) then 3 else 1
    if w = .jtag ∧ !s.fbit Reg.TRU_STATUS_DBG_OPEN then (s, 0)
    else if !s.allowsBytes w kind l then (s.violation w kind a, 4)
    else if s.isLocal a then s.localWrite w l ecc
    else if s.routeFor (s.addrDev a) (s.halfOfAddr (localPart a)) then
      (s.writeSend (w.coord s.devid) a l, 8)
    else (s.count Reg.MESH_NOROUTE_CNT 1, 3)

end Sys2Proof.Machine
end

