-- ==== Sys2Proof/Machine/Batch.lean ====
section
/-! DEFINITION. The word a Chrysalis entry names and how it changes (R501, R506). -/

namespace Sys2Proof.Machine

/-- The address of a window's word. -/
def winAddr (n o : Nat) : Nat := 0x81000000000 + n * 0x200000 + o

/-- The word a target names. -/
def State.targetWord (s : State) : Target → Word
  | .reg o => s.rd o
  | .win n o => BitVec.ofNat 32 (s.mnat (winAddr n o) 4)

/-- (old AND NOT MASK) OR (VALUE AND MASK) (R501). -/
def maskWord (old v m : Word) : Word := (old &&& ~~~ m) ||| (v &&& m)

/-- A directory word of core n named while PL_EN = 1 (R182): the rows that its old and its new value name are noted. -/
def State.directoryNamed (s : State) (n o : Nat) (old new : Word) : State :=
  if 0x160800 ≤ o ∧ o < 0x161000 ∧ s.fbit (Reg.NC_PL_CTL_PL_EN n) = true then
    s.onCore n fun c => { c with plOpen := c.plOpen ++ [wordGet old 17 0, wordGet new 17 0] }
  else s

/-- The configuration with an entry applied, without the effects of any enable (R502). A whole word written clears the
error it held (R404). -/
def State.applyEntry (s : State) (e : Word × Word × Word) : State :=
  match chrTarget e.1 with
  | .reg o => s.wr o (maskWord (s.rd o) e.2.1 e.2.2)
  | .win n o =>
    let old := s.targetWord (.win n o)
    let new := maskWord old e.2.1 e.2.2
    ((s.mnatPut (winAddr n o) 4 new.toNat).setBad (winAddr n o) false).directoryNamed n o old new

end Sys2Proof.Machine
end

