-- ==== Sys2Proof/Machine/Frac.lean ====
section
/-! DEFINITION. Non-negative fractions: the exact rates and times of R48, R51 to R53, R70, R79, R123, R151, R156. -/

namespace Sys2Proof.Machine

/-- num / den. -/
structure Frac where
  num : Nat
  den : Nat
  deriving DecidableEq, Repr

/-- A whole number. -/
def Frac.ofNat (n : Nat) : Frac := ⟨n, 1⟩

/-- The sum. -/
def Frac.add (a b : Frac) : Frac := if a.den = b.den then ⟨a.num + b.num, a.den⟩ else ⟨a.num * b.den + b.num * a.den, a.den * b.den⟩

/-- A multiple. -/
def Frac.mul (a : Frac) (n : Nat) : Frac := ⟨a.num * n, a.den⟩

/-- Whether a ≤ b. -/
def Frac.le (a b : Frac) : Bool := decide (a.num * b.den ≤ b.num * a.den)

/-- The larger one. -/
def Frac.max (a b : Frac) : Frac := if a.le b then b else a

/-- The least whole number not below a. -/
def Frac.ceil (a : Frac) : Nat := (a.num + a.den - 1) / a.den

/-- The sum of a list. -/
def Frac.sum (l : List Frac) : Frac := l.foldl Frac.add ⟨0, 1⟩

end Sys2Proof.Machine
end

