-- ==== Sys2Proof/Machine/Ingest.lean ====
section
/-! DEFINITION. Ingest streams: receive PLLs and lanes, enable checks, alignment and absence (R43 to R59, R82 to R87,
R601), and the raw tap (R76 to R80, R261, R262). -/

namespace Sys2Proof.Machine

/-! ### Lanes and rates (R46 to R48) -/

/-- The receive PLL lane l uses: 2·group + PLL_SEL (R46). -/
def State.lanePll (s : State) (l : Nat) : Nat := 2 * (l / 16) + s.fget (Reg.JRX_LANE_CFG_PLL_SEL l)

/-- The lane rate of lane l in units of 10 Mb/s. -/
def State.laneRate (s : State) (l : Nat) : Nat := s.fget (Reg.JRX_PLL_RATE (s.lanePll l))

/-- The lanes that belong to stream i (R47). -/
def State.lanes (s : State) (i : Nat) : List Nat :=
  (List.range 64).filter fun l => s.fbit (Reg.JRX_LANE_CFG_EN l) && decide (s.fget (Reg.JRX_LANE_CFG_STREAM l) = i)

/-- The lanes that use PLL p (R82). -/
def State.pllLanes (s : State) (p : Nat) : List Nat :=
  (List.range 16).map (16 * (p / 2) + ·) |>.filter fun l => s.fbit (Reg.JRX_LANE_CFG_EN l) && decide (s.lanePll l = p)

/-- L and M of stream i. -/
def State.linkL (s : State) (i : Nat) : Nat := s.fget (Reg.ING_LINK_LM1 i) + 1
def State.linkM (s : State) (i : Nat) : Nat := s.fget (Reg.ING_LINK_MM1 i) + 1

/-- The rate of stream i's lanes. -/
def State.streamRate (s : State) (i : Nat) : Nat := ((s.lanes i).map s.laneRate).headD 0

/-- The time of one converter sample, 1/Fs, in ns (R48): Fs = L·R·(64/66)/(16·M), R = RATE/100 Gb/s. -/
def State.samplePeriod (s : State) (i : Nat) : Frac := ⟨66 * 16 * 100 * s.linkM i, 64 * s.linkL i * s.streamRate i⟩

/-- T_EMB = E·32·66/R in ns (R52). -/
def State.tEmb (s : State) (i : Nat) : Frac := ⟨(s.fget (Reg.ING_LINK_EM1 i) + 1) * 211200, s.streamRate i⟩

/-- T_MB = 32·66/R in ns (R53). -/
def State.tMb (s : State) (i : Nat) : Frac := ⟨211200, s.streamRate i⟩

/-- A field set to v, or to an open value where v falls outside it (log entry 1). -/
def State.fsetOpen (s : State) (f : FieldRef) (v : Nat) : State :=
  if v < 2 ^ (f.hi + 1 - f.lo) then s.fset f v else (s.fset f (s.freeVal 32).toNat).drawn

/-! ### Latencies (R51 to R53, R70, R71) -/

/-- D, K and Fs of the encoder: t_dec = D/Fs, t_chan = K·D/Fs + 16 (R70). -/
def State.encNs (s : State) (i : Nat) : Nat :=
  let d := s.fget (Reg.ING_DEC_D1 i) + 1
  let t := s.samplePeriod i
  let k := 2 ^ (s.fget (Reg.ING_CHAN_LOG2K3 i) + 3)
  let dec := if d = 1 then ⟨0, 1⟩ else t.mul d
  let chan := if s.fbit (Reg.ING_CHAN_CH_EN i) then (t.mul (k * d)).add (.ofNat 16) else ⟨0, 1⟩
  (((Frac.ofNat 40).add dec).add chan).ceil

/-- LANE_NS: 96 ns, the release offset above its minimum in subclass 1, T_EMB in subclass 0, FEC_WAIT's term (R71). -/
def State.laneNs (s : State) (i : Nat) : Nat :=
  let arr := ((s.lanes i).map fun l => s.fget (Reg.JRX_LANE_STAT_ARRIVAL l)).foldl max 0
  let rel := if s.fbit (Reg.ING_CTL_SUBCLASS i) then .ofNat (s.fget (Reg.ING_RELEASE_OFS i) - (arr + 24)) else s.tEmb i
  let fec := if s.fbit (Reg.ING_CTL_SHMODE i) && s.fbit (Reg.ING_CTL_FEC_WAIT i) then (s.tMb i).add (.ofNat 8) else ⟨0, 1⟩
  (((Frac.ofNat 96).add rel).add fec).ceil

/-- ING_LATENCY and FAST show the stream's settings (R70, R71). -/
def State.latencyShow (s : State) (i : Nat) : State :=
  ((s.fsetOpen (Reg.ING_LATENCY_LANE_NS i) (s.laneNs i)).fsetOpen (Reg.ING_LATENCY_ENC_NS i) (s.encNs i)).fflag
    (Reg.ING_STATUS_FAST i) (decide (s.encNs i ≤ 72))

/-! ### Enable checks (R45, R47, R72, R79, R87) -/

/-- LANEMAP and RATE (R47): 0 passed, 1, 3. -/
def State.mapCode (s : State) (i : Nat) : Nat :=
  let ls := s.lanes i
  let lids := ls.map fun l => s.fget (Reg.JRX_LANE_CFG_LID l)
  if ls.length ≠ s.linkL i ∨ !((List.range (s.linkL i)).all lids.contains) ∨ ls.any (fun l => decide (l / 32 ≠ i / 16)) then 1
  else
    let r := s.streamRate i
    if ls.all (fun l => decide (s.laneRate l = r)) && decide (600 ≤ r) && decide (r ≤ 3200) then 0 else 3

/-- LINK (R45, R87). -/
def State.linkOk (s : State) (i : Nat) : Bool :=
  let m := s.linkM i
  let f2 := 2 * m * (s.fget (Reg.ING_LINK_SM1 i) + 1)
  let nm1 := s.fget (Reg.ING_LINK_NM1 i)
  decide (f2 % s.linkL i = 0) && decide (1 ≤ f2 / s.linkL i) && decide (f2 / s.linkL i ≤ 256)
  && decide (nm1 + 1 + s.fget (Reg.ING_LINK_CS i) ≤ 16) && decide (7 ≤ nm1)
  && decide (s.fget (Reg.ING_SRC_CONV_I i) < m) && (!s.fbit (Reg.ING_SRC_IQ i) || decide (s.fget (Reg.ING_SRC_CONV_Q i) < m))

/-- CHAN (R87). -/
def State.chanOk (s : State) (i : Nat) : Bool :=
  let lk := s.fget (Reg.ING_CHAN_LOG2K3 i)
  let p1 := s.fget (Reg.ING_CHAN_P1 i)
  !s.fbit (Reg.ING_CHAN_CH_EN i)
  || (decide (3 ≤ p1) && decide (lk < 6) && decide (2 ^ (lk + 3) * (p1 + 1) ≤ 4096) && decide (s.fget (Reg.ING_CHAN_FFT_SHIFT i) ≤ 8))

/-- The last axon destination entry j reaches (R72). -/
def State.destTop (s : State) (i j : Nat) : Nat :=
  let n := s.fget (Reg.ING_DST_W1_CH_LAST i j) - s.fget (Reg.ING_DST_W1_CH_FIRST i j)
  s.fget (Reg.ING_DST_W0_AXON_BASE i j) + (if s.fbit (Reg.ING_DST_W1_PAIR i j) then 2 * n + 1 else n)

/-- DEST (R72): no enabled entry's axons pass 65,535. -/
def State.destOk (s : State) (i : Nat) : Bool :=
  (List.range 16).all fun j =>
    !s.fbit (Reg.ING_DST_W0_VALID i j) || decide (s.fget (Reg.ING_DST_W1_CH_LAST i j) < s.fget (Reg.ING_DST_W1_CH_FIRST i j))
    || decide (s.destTop i j ≤ 65535)

/-- The tap rate of stream i in GB/s: sample rate × 2 bytes × 256/240 (R79), of every converter or of the decimator. -/
def State.tapRate (s : State) (i : Nat) : Frac :=
  let l := s.linkL i * s.streamRate i * 64 * 512
  if s.fbit (Reg.ING_TAP_TAP_SRC i) then
    ⟨l * (if s.fbit (Reg.ING_SRC_IQ i) then 2 else 1), 66 * 16 * 100 * 240 * s.linkM i * (s.fget (Reg.ING_DEC_D1 i) + 1)⟩
  else ⟨l, 66 * 16 * 100 * 240⟩

/-- The streams that count for R79, stream i among them. -/
def State.tapStreams (s : State) (i : Nat) : List Nat :=
  (List.range 32).filter fun k => decide (k = i) || (s.fbit (Reg.ING_CTL_EN k) && s.fbit (Reg.ING_CTL_TAP_EN k))

/-- Whether stream i's tap passes the total of its group, 40 GB/s, or of the device, 160 GB/s (R79). -/
def State.tapOver (s : State) (i : Nat) : Bool :=
  let l := s.tapStreams i
  !((Frac.sum ((l.filter fun k => decide (k / 8 = i / 8)).map s.tapRate)).le (.ofNat 40)
    && (Frac.sum (l.map s.tapRate)).le (.ofNat 160))

/-- The code of an enable of stream i in the order of R87: 0 passed. -/
def State.streamCode (s : State) (i : Nat) : Nat :=
  if s.mapCode i ≠ 0 then s.mapCode i
  else if !s.linkOk i then 2
  else if !s.chanOk i then 5
  else if s.fget (Reg.ING_DEC_D1 i) ≠ 0 ∧ 24 < s.fget (Reg.ING_DEC_SHIFT i) then 8
  else if !s.destOk i then 7
  else if s.fbit (Reg.ING_CTL_TAP_EN i) && s.tapOver i then 4
  else 0

/-! ### The raw tap (R76 to R80) -/

/-- The records of a group's 2 MiB tap buffer in use (R79). -/
def State.tapHeld (s : State) (g : Nat) : Nat :=
  ((List.range 8).map fun k => (s.stream (8 * g + k)).queue.length).foldl (· + ·) 0

/-- The bytes of a record: header, body, and the rest of 256 bytes, which the manual leaves open. -/
def TapRec.bytes (i : Nat) (r : TapRec) (rest : List Byte) : List Byte :=
  leBytes 8 (r.time / 65536) ++ leBytes 2 (r.time % 65536) ++ [BitVec.ofNat 8 (i + 32 * r.kind), BitVec.ofNat 8 r.flags]
  ++ leBytes 2 r.count ++ leBytes 2 r.seq ++ r.body ++ rest

/-- A record takes its place in the ring: the ring wraps at its end and ING_WRAP_CNT counts (R78). -/
def State.tapPlace (s : State) (i : Nat) (r : TapRec) : State :=
  let wp := s.rd64 (Reg.ING_RING_WP_LO i)
  let size := s.fget (Reg.ING_RING_SIZE_MIB i) * 2 ^ 20
  let next := wp + 256
  let s := s.onStream i fun t => { t with
    queue := t.queue ++ [{ r with addr := s.rd64 (Reg.ING_RING_BASE_LO i) + wp, seq := t.seq }], seq := (t.seq + 1) % 65536 }
  if size ≤ next then (s.wr64 (Reg.ING_RING_WP_LO i) 0).count (Reg.ING_WRAP_CNT i) 1 else s.wr64 (Reg.ING_RING_WP_LO i) next

/-- A finished record is dropped: counted, and SEQ advances (R80). -/
def State.tapDrop (s : State) (i : Nat) : State :=
  (s.onStream i fun t => { t with dropped := t.dropped + 1, seq := (t.seq + 1) % 65536 }).count (Reg.ING_GAP_CNT i) 1

/-- The gap record: its TIME is the system counter when it enters the tap buffer (R23; DESIGN CHOICE, log entry 38). -/
def gapRec (n time : Nat) : TapRec := ⟨2, time, time, 0, 0, min n 65535, 0, 0, [], 0⟩

/-- A finished record enters the tap buffer, after a gap record when records were dropped; a full buffer drops it (R80). -/
def State.tapPut (s : State) (i : Nat) (r : TapRec) : State :=
  let full (t : State) : Bool := decide (8192 ≤ t.tapHeld (i / 8))
  if full s then s.tapDrop i
  else
    let s := if (s.stream i).dropped = 0 then s
      else (s.tapPlace i (gapRec (s.stream i).dropped (65536 * s.now))).onStream i fun t => { t with dropped := 0 }
    if full s then s.tapDrop i else s.tapPlace i r

/-- The FLAGS a record's samples take from their multiblocks: those of every range of sample times its own meets (R59, R77). -/
def flagsOf (l : List (Nat × Nat × Nat)) (lo hi : Nat) : Nat :=
  (l.filter fun x => decide (x.1 < hi) && decide (lo < x.2.1)).foldl (fun a x => a ||| x.2.2) 0

/-- The sample record in progress is complete: it goes to the buffer, and a change of TAP_EN takes effect (R76). -/
def State.tapClose (s : State) (i : Nat) : State :=
  let s := match (s.stream i).samples with
    | some r =>
      let r := { r with flags := r.flags ||| flagsOf (s.stream i).flagged r.lo r.hi ||| (if s.fbit (Reg.ING_STATUS_TS_DET i) then 8 else 0) }
      (s.onStream i fun t => { t with samples := none, flagged := t.flagged.filter fun x => decide (r.hi < x.2.1) }).tapPut i r
    | none => s
  s.onStream i fun t => { t with tapOn := s.fbit (Reg.ING_CTL_TAP_EN i) }

/-- The event-log record in progress is complete (R77). -/
def State.logClose (s : State) (i : Nat) : State :=
  match (s.stream i).events with
  | some (r, _) => (s.onStream i fun t => { t with events := none }).tapPut i
      { r with flags := if s.fbit (Reg.ING_STATUS_TS_DET i) then 8 else 0 }
  | none => s

/-- An absent-marker record (R50, R57): its TIME is the system counter as it is formed (R23; DESIGN CHOICE, log entry 38). -/
def State.absentMarker (s : State) (i : Nat) : State :=
  if (s.stream i).tapOn then s.tapPut i ⟨3, 65536 * s.now, 0, 0, 0, 0, 0, 0, [], 0⟩ else s

/-- One more record's write is acknowledged by DDR4 (R78, R261): the record is written under the group's region set; a
sample record that passes a pending window's end, or an absent marker, signals the window's object, by 1. -/
def State.tapAck (s : State) (i : Nat) : State :=
  match (s.stream i).queue with
  | [] => s
  | r :: rest =>
    let was := s
    let s := s.onStream i fun t => { t with queue := rest }
    let rest := s.freeVals 8 (240 - r.body.length)
    let s := s.drawnN (240 - r.body.length)
    let (s, st) := s.memWrite (.ingest (i / 8)) (bytesAt r.addr (r.bytes i rest)) .none
    if st = 10 then was
    else if st ≠ 0 then s
    else
      let done := (s.stream i).windows.filter fun w => decide (r.kind = 3) || (decide (r.kind = 0) && decide (w * 65536 < r.ends))
      let s := s.onStream i fun t => { t with windows := t.windows.filter fun w => !done.contains w }
      let s := s.onStream i fun t => { t with
        acked := if r.kind = 0 then r.ends else t.acked,
        written := (t.written.filter fun x => decide (x.addr ≠ r.addr)) ++ (if r.kind = 0 then [{ r with body := [] }] else []) }
      let s := s.onStream i fun t => { t with marked := decide (r.kind = 3) || (t.marked && decide (r.kind ≠ 0)) }
      forL done (fun _ s => s.request (streamCoord s.devid i) 1 fun tag =>
        .sync s.devid (s.fget (Reg.ING_WIN_OBJ_OBJ i)) 0 1 0 (streamCoord s.devid i + tag * 2 ^ 22)) s

/-- TAP_RECORD_ACK (R261). -/
def execTapRecordAck (i : Fin 32) (s : State) : Host.Outcome State Fault Refusal := .next (s.alive fun s => s.tapAck i)

/-- EVENT_LOG_CLOSE (R77): 1,024 ns after its first entry. -/
def execEventLogClose (i : Fin 32) (s : State) : Host.Outcome State Fault Refusal :=
  .next (s.alive fun s =>
    match (s.stream i).events with
    | some (_, t) => if t + 1024 ≤ s.time then s.logClose i else s
    | none => s)

/-! ### Running, absence, return (R50, R56 to R58, R67) -/

/-- Whether stream i runs: enabled, aligned, not absent. -/
def State.streamRuns (s : State) (i : Nat) : Bool :=
  s.fbit (Reg.ING_CTL_EN i) && s.fbit (Reg.ING_STATUS_ALIGNED i) && !s.fbit (Reg.ING_STATUS_ABSENT i)

/-- The encoder state of an enable or a return: e := 0, r := INIT, LAST := NONE, g := 0, histories cleared; the deferral
queue stays (R67). -/
def State.encoderInit (s : State) (i : Nat) : State :=
  s.onStream i fun t => { t with
    integI := [], integQ := [], combI := [], combQ := [], phase := 0, frame := [], frames := [], nsamp := 0, flagged := [], written := [],
    chans := (List.range 256).filterMap fun c =>
      let w := s.fget (Reg.ING_CH_W1_INIT i c)
      if w = 0 then none else some (c, { Channel.init with r := signed 16 w }) }

/-- An entry into the absent state: ABSENT, its counter, STREAM_ABSENT (R50, R56, R57). -/
def State.goAbsent (s : State) (i : Nat) : State :=
  (((s.fon (Reg.ING_STATUS_ABSENT i)).count (Reg.ING_ABSENT_CNT i) 1).setCause 8 true).raise 8 4 i 0

/-- A running stream stops (R50, R57): what the tap holds in progress closes, then one absent marker. -/
def State.streamStops (s : State) (i : Nat) : State :=
  ((((((s.tapClose i).logClose i).foff (Reg.ING_STATUS_ALIGNED i)).foff (Reg.ING_STATUS_TS_DET i)).goAbsent i).absentMarker i).onStream i
    fun t => { t with phaseSet := false, returning := false }

/-- The absent stream returns: ABSENT clears, the encoder state is set as at enable, and the stream runs (R58). -/
def State.streamReturns (s : State) (i : Nat) : State :=
  (((s.foff (Reg.ING_STATUS_ABSENT i)).encoderInit i).onStream i fun t => { t with returning := false, tapOn := s.fbit (Reg.ING_CTL_TAP_EN i) }).refreshCauses

/-- The effects of an enable that has passed its checks (R47, R58, R67, R70, R86). ING_RING_WP and the record number go on
where they stood, also over a change of the ring while the stream was disabled (DESIGN CHOICE, log entry 102). -/
def State.streamOn (s : State) (i : Nat) : State :=
  let s := ((((s.fon (Reg.ING_CTL_EN i)).foff (Reg.ING_STATUS_CFG_ERR i)).foff (Reg.ING_STATUS_ALIGNED i)).foff
    (Reg.ING_STATUS_ABSENT i)).foff (Reg.ING_STATUS_TS_DET i)
  ((s.encoderInit i).onStream i fun t => { t with
    enabledAt := s.time, phaseSet := false, relAbs := false, returning := false, tapOn := s.fbit (Reg.ING_CTL_TAP_EN i) }).latencyShow i

/-- A write of 1 to EN: the checks, then the enable or CFG_ERR (R47, R86). -/
def State.streamEnable (s : State) (i : Nat) : State :=
  if s.fbit (Reg.ING_CTL_EN i) then s
  else if s.streamCode i = 0 then (s.streamOn i).joinEnds 1 i
  else s.fset (Reg.ING_STATUS_CFG_ERR i) (s.streamCode i)

/-- STREAM_ENABLE (R47). -/
def execStreamEnable (m : Master) (i : Fin 32) (s : State) : Host.Outcome State Fault Refusal :=
  .next (s.alive fun s => s.guarded m (Reg.ING_CTL i) fun s => s.streamEnable i)

/-- A write of 0 to EN: the stream stops at once, ALIGNED, ABSENT and TS_DET clear, the deferral queue is discarded; CFG_ERR
and the counters stay (R58, R67). The lanes keep their locks, so a stream enabled again can align by them (DESIGN CHOICE, log entry
102). -/
def State.streamDisable (s : State) (i : Nat) : State :=
  if !s.fbit (Reg.ING_CTL_EN i) then s
  else
    let s := (s.tapClose i).logClose i
    (((((s.foff (Reg.ING_CTL_EN i)).foff (Reg.ING_STATUS_ALIGNED i)).foff (Reg.ING_STATUS_ABSENT i)).foff (Reg.ING_STATUS_TS_DET i)).onStream i
      fun t => { t with defq := [], phaseSet := false, relAbs := false, returning := false }).refreshCauses

/-- STREAM_DISABLE (R58). -/
def execStreamDisable (m : Master) (i : Fin 32) (s : State) : Host.Outcome State Fault Refusal :=
  .next (s.alive fun s => s.guarded m (Reg.ING_CTL i) fun s => s.streamDisable i)

/-- A write of TAP_EN: refused with TAP_RATE where an enabled stream would pass the total; it takes effect at the next
record boundary (R76, R79). -/
def State.tapEnable (s : State) (i : Nat) (on : Bool) : State :=
  if on && !s.fbit (Reg.ING_CTL_TAP_EN i) && s.fbit (Reg.ING_CTL_EN i) && s.tapOver i then s.fset (Reg.ING_STATUS_CFG_ERR i) 4
  else
    let s := s.fflag (Reg.ING_CTL_TAP_EN i) on
    if (s.stream i).samples.isNone then s.onStream i fun t => { t with tapOn := on } else s

/-- TAP_ENABLE (R76, R79). -/
def execTapEnable (m : Master) (i : Fin 32) (on : Bool) (s : State) : Host.Outcome State Fault Refusal :=
  .next (s.alive fun s => s.guarded m (Reg.ING_CTL i) fun s => s.tapEnable i on)

/-- A write of RATE: outside 600 to 3,200, or a change while a lane that uses the PLL is enabled, it is ignored and sets
CFG_IGNORED; the rate it holds leaves it as it stands (R491); a new valid rate starts the PLL, and no lane that uses it holds a
lock until it has locked (R82). -/
def State.pllWrite (s : State) (p rate : Nat) : State :=
  let same := decide (rate = s.fget (Reg.JRX_PLL_RATE p))
  s.takenIf (Reg.JRX_PLL p) (decide (600 ≤ rate) && decide (rate ≤ 3200) && (same || (s.pllLanes p).isEmpty))
    fun s =>
      if same then s else
      let s := (s.fset (Reg.JRX_PLL_RATE p) rate).foff (Reg.JRX_PLL_LOCKED p)
      forL ((List.range 64).filter fun l => decide (s.lanePll l = p))
        (fun l s => (s.foff (Reg.JRX_LANE_STAT_BLOCK_LOCK l)).foff (Reg.JRX_LANE_STAT_EMB_LOCK l)) s

/-- JRX_PLL_WRITE (R82). -/
def execJrxPllWrite (m : Master) (p : Fin 8) (rate : BitVec 16) (s : State) : Host.Outcome State Fault Refusal :=
  .next (s.alive fun s => s.guarded m (Reg.JRX_PLL p) fun s => s.pllWrite p rate.toNat)

/-- PLL_LOCK (R82): LOCKED reads 1; a PLL whose RATE is 0 is off. -/
def execPllLock (p : Fin 8) (s : State) : Host.Outcome State Fault Refusal :=
  .next (s.alive fun s => if s.fget (Reg.JRX_PLL_RATE p) = 0 then s else s.fon (Reg.JRX_PLL_LOCKED p))

/-! ### Locks and alignment (R49, R50, R52, R54, R56, R57, R601) -/

/-- Whether lane l receives: it is enabled and its PLL has locked (R82). -/
def State.laneHears (s : State) (l : Nat) : Bool := s.fbit (Reg.JRX_LANE_CFG_EN l) && s.fbit (Reg.JRX_PLL_LOCKED (s.lanePll l))

/-- Whether lane l can reach its locks: it receives, its stream is enabled, and the link's CS is at most 2 (R43, R82, R601). -/
def State.laneLive (s : State) (l : Nat) : Bool :=
  let i := s.fget (Reg.JRX_LANE_CFG_STREAM l)
  s.laneHears l && s.fbit (Reg.ING_CTL_EN i) && decide (s.fget (Reg.ING_LINK_CS i) ≤ 2)

/-- BLOCK_LOCK (R601): a lane locks on its sync headers. -/
def execBlockLock (l : Fin 64) (s : State) : Host.Outcome State Fault Refusal :=
  .next (s.alive fun s => if s.laneLive l then s.fon (Reg.JRX_LANE_STAT_BLOCK_LOCK l) else s)

/-- EMB_LOCK (R601): a lane that holds block lock locks on the end-of-extended-multiblock markers. -/
def execEmbLock (l : Fin 64) (s : State) : Host.Outcome State Fault Refusal :=
  .next (s.alive fun s =>
    if s.laneLive l && s.fbit (Reg.JRX_LANE_STAT_BLOCK_LOCK l) then s.fon (Reg.JRX_LANE_STAT_EMB_LOCK l) else s)

/-- Whether every lane of stream i holds extended-multiblock lock. -/
def State.allLocked (s : State) (i : Nat) : Bool := (s.lanes i).all fun l => s.fbit (Reg.JRX_LANE_STAT_EMB_LOCK l)

/-- An enabled lane loses block lock, extended-multiblock lock or both; the running stream it belongs to stops (R57). -/
def State.lockLoss (s : State) (l : Nat) (block emb : Bool) : State :=
  if !block && !emb then s
  else
    let i := s.fget (Reg.JRX_LANE_CFG_STREAM l)
    let s := (s.iff block fun s => s.foff (Reg.JRX_LANE_STAT_BLOCK_LOCK l)).foff (Reg.JRX_LANE_STAT_EMB_LOCK l)
    if s.streamRuns i then s.streamStops i
    else (s.foff (Reg.ING_STATUS_ALIGNED i)).onStream i fun t => { t with phaseSet := false, returning := false }

/-- LANE_LOCK_LOSS (R57): with 16 invalid sync headers in 64 blocks block lock goes, with 4 markers out of place
extended-multiblock lock. A lane that does not receive sees no header (R82). -/
def execLaneLockLoss (l : Fin 64) (shErr : BitVec 8) (badMarkers : BitVec 4) (s : State) : Host.Outcome State Fault Refusal :=
  .next (s.alive fun s => s.iff (s.laneHears l) fun s =>
    (s.fcount (Reg.JRX_LANE_STAT_SH_ERR_CNT l) shErr.toNat).lockLoss l (decide (16 ≤ shErr.toNat)) (decide (4 ≤ badMarkers.toNat)))

/-- SYSREF_EDGE (R54, R419): with MODE = 1 the edge sets the LEMC phase of every subclass-1 stream that waits to align and
whose lanes all hold lock, and is checked against the aligned ones; offGrid names the streams whose LEMC grid it misses.
An armed counter load starts. -/
def execSysrefEdge (offGrid : List (Fin 32)) (s : State) : Host.Outcome State Fault Refusal :=
  .next (s.alive fun s =>
    let s := s.fon Reg.JRX_SYSREF_SEEN
    let s := if s.fget Reg.JRX_SYSREF_MODE ≠ 1 then s
      else
        let sub := (List.range 32).filter fun i => s.fbit (Reg.ING_CTL_EN i) && s.fbit (Reg.ING_CTL_SUBCLASS i)
        let wait := sub.filter fun i => !s.fbit (Reg.ING_STATUS_ALIGNED i) && s.allLocked i
        let miss := (sub.filter fun i => s.fbit (Reg.ING_STATUS_ALIGNED i)).any fun i => offGrid.any fun x => decide (x.val = i)
        let s := forL wait (fun i s => s.onStream i fun t => { t with phaseSet := true }) s
        s.iff miss fun s => s.fcount Reg.JRX_SYSREF_MISALIGN_CNT 1
    s.sysrefLoad)

/-- The stream aligns (R601): ALIGNED, TS_DET in subclass 1; an absent one returns as R58 says. -/
def State.streamAligns (s : State) (i : Nat) : State :=
  let s := ((s.fon (Reg.ING_STATUS_ALIGNED i)).fflag (Reg.ING_STATUS_TS_DET i) (s.fbit (Reg.ING_CTL_SUBCLASS i))).latencyShow i
  if !s.fbit (Reg.ING_STATUS_ABSENT i) then s
  else if !s.fbit (Reg.ING_CTL_RETURN i) then s
  else if s.fbit Reg.TB_STEP_CTL_EN then s.onStream i fun t => { t with returning := true }
  else s.streamReturns i

/-- A release finds a lane's block not yet written (R50). -/
def State.releaseFails (s : State) (i : Nat) : State :=
  let s := s.fset (Reg.ING_STATUS_CFG_ERR i) 6
  (if s.fbit (Reg.ING_STATUS_ABSENT i) then s else s.streamStops i).onStream i fun t => { t with relAbs := true, returning := false }

/-- ELASTIC_RELEASE (R49, R50, R52, R601): the buffer releases the lanes of stream i together; arrivals gives each lane's
ARRIVAL in the order of the lanes, written whether every lane's block is in the buffer; ING_LATENCY follows the arrivals (R71).
With JRX_SYSREF.MODE 0 no subclass-1 stream aligns (R54). -/
def execElasticRelease (i : Fin 32) (arrivals : List (BitVec 8)) (written : Bool) (s : State) : Host.Outcome State Fault Refusal :=
  .next (s.alive fun s =>
    if !s.fbit (Reg.ING_CTL_EN i) || !s.allLocked i || (s.stream i).relAbs then s
    else
      let sub1 := s.fbit (Reg.ING_CTL_SUBCLASS i)
      let s := if sub1 then (forL ((s.lanes i).zip arrivals) (fun x s => s.fset (Reg.JRX_LANE_STAT_ARRIVAL x.1) x.2.toNat) s).latencyShow i else s
      if sub1 && !((s.stream i).phaseSet && decide (s.fget Reg.JRX_SYSREF_MODE = 1)) && !s.fbit (Reg.ING_STATUS_ALIGNED i) then s
      else if !written then (if sub1 then s.releaseFails i else s)
      else if s.fbit (Reg.ING_STATUS_ALIGNED i) then s
      else s.streamAligns i)

/-- ALIGN_TIMEOUT (R56): 20 ms after its enable a stream that is not aligned is marked absent. -/
def execAlignTimeout (i : Fin 32) (s : State) : Host.Outcome State Fault Refusal :=
  .next (s.alive fun s =>
    if s.fbit (Reg.ING_CTL_EN i) && !s.fbit (Reg.ING_STATUS_ALIGNED i) && !s.fbit (Reg.ING_STATUS_ABSENT i)
      && decide ((s.stream i).enabledAt + 20000000 ≤ s.time) then s.goAbsent i
    else s)

/-- The sample times whose frames reach into multiblock m: from the first to the one after the last. A multiblock holds 256
octets of each lane, a frame F = 2·M·S/L (R45). Which samples of a frame that two multiblocks share lie in which is not stated, so
both hold all of them (log entry 103). -/
def State.mbSpan (s : State) (i m : Nat) : Nat × Nat :=
  let sm := s.fget (Reg.ING_LINK_SM1 i) + 1
  let per := 128 * s.linkL i
  let frame := s.linkM i * sm
  (m * per / frame * sm, ((m + 1) * per + frame - 1) / frame * sm)

/-- A sample record flagged with b where it holds samples between lo and hi. -/
def TapRec.flag (lo hi b : Nat) (r : TapRec) : TapRec := if r.kind = 0 then { r with flags := r.flags ||| flagsOf [(lo, hi, b)] r.lo r.hi } else r

/-- The records already in the ring that hold samples between lo and hi take the flag there (R59); those that end before hi need no
more. -/
def State.flagWritten (s : State) (i lo hi b : Nat) : State :=
  let l := (s.stream i).written
  let s := s.onStream i fun t => { t with written := (l.map (TapRec.flag lo hi b)).filter fun r => decide (hi < r.hi) }
  forL (l.filter fun r => decide ((r.flag lo hi b).flags ≠ r.flags))
    (fun r s => (s.memWrite (.ingest (i / 8)) [(r.addr + 11, BitVec.ofNat 8 (r.flag lo hi b).flags)] .none).1) s

/-- MULTIBLOCK_RECEIVE (R53, R59): multiblock m of the run is checked: 0 good, 1 CRC-12 mismatch, 2 corrected by FEC,
3 not correctable. Every record that holds its samples is flagged, in the tap buffer or in the ring; an error raises LINK_CRC. shErr
counts the invalid sync headers each receiving lane saw. The results of a stream that does not run are not counted (DESIGN CHOICE,
log entry 102). -/
def execMultiblockReceive (i : Fin 32) (m : Word) (result : Fin 4) (shErr : List (Fin 64 × BitVec 8)) (s : State) : Host.Outcome State Fault Refusal :=
  .next (s.alive fun s =>
    let s := forL (shErr.filter fun x => s.laneHears x.1) (fun x s => s.fcount (Reg.JRX_LANE_STAT_SH_ERR_CNT x.1) x.2.toNat) s
    let fec := s.fbit (Reg.ING_CTL_SHMODE i)
    let (lo, hi) := s.mbSpan i m.toNat
    if !s.streamRuns i then s
    else if result = 0 || (fec == decide (result = 1)) then s.flagWritten i lo hi 0
    else
      let b := if result = 1 then 1 else if result = 2 then 2 else 4
      let s := s.count (if result = 1 then Reg.ING_CRC_CNT i else if result = 2 then Reg.ING_FEC_CNT i else Reg.ING_FEC_UNC_CNT i) 1
      let s := s.onStream i fun t => { t with
        flagged := t.flagged ++ [(lo, hi, b)],
        queue := t.queue.map (TapRec.flag lo hi b) }
      let s := s.flagWritten i lo hi b
      s.iff (decide (result ≠ 2)) fun s => s.raise 6 4 i 0)

end Sys2Proof.Machine
end

