-- ==== Sys2Proof/Machine/Encoder.lean ====
section
/-! DEFINITION. The event encoder (R60 to R75, R88): decimator, channeliser, envelope, level crossing, event formation,
the emission budget and the deferral queue. -/

namespace Sys2Proof.Machine

/-! ### Arithmetic -/

/-- x / 2^sh rounded to nearest, ties away from zero. -/
def rnaShift (x : Int) (sh : Nat) : Int :=
  if sh = 0 then x
  else if 0 ≤ x then (((x.toNat + 2 ^ (sh - 1)) >>> sh : Nat) : Int)
  else -((((-x).toNat + 2 ^ (sh - 1)) >>> sh : Nat) : Int)

/-- x wrapped to a two's-complement value of w bits. -/
def wrapSigned (w : Nat) (x : Int) : Int := signed w (wrapInt w x)

/-- x saturated to w bits, and 1 when that clamped it. -/
def satCountInt (w : Nat) (x : Int) : Int × Nat := (satInt w x, if satInt w x = x then 0 else 1)

/-! ### Decimator (R61) -/

/-- The integrators take one input: each adds the one before it, in 40 bits. -/
def integrate : List Int → Int → List Int
  | [], _ => []
  | a :: r, x => wrapSigned 40 (a + x) :: integrate r (wrapSigned 40 (a + x))

/-- The combs take one value: their new memories and the last one's output, in 40 bits. -/
def combs : List Int → Int → List Int × Int
  | [], x => ([], x)
  | a :: r, x => let (r', y) := combs r (wrapSigned 40 (x - a)); (x :: r', y)

/-- A list brought to n entries with zeros. -/
def padInt (n : Nat) (l : List Int) : List Int := (List.range n).map fun i => l.getD i 0

/-- One input sample of complex value (xi, xq): the stream's decimator, its output when one is taken, and the clamps. -/
def State.decimate (s : State) (i : Nat) (t : Stream) (xi xq : Int) : Stream × Option (Int × Int) × Nat :=
  let d := s.fget (Reg.ING_DEC_D1 i) + 1
  if d = 1 then (t, some (xi, xq), 0)
  else
    let k := s.fget (Reg.ING_DEC_ORDER1 i) + 1
    let sh := s.fget (Reg.ING_DEC_SHIFT i)
    let ii := integrate (padInt k t.integI) xi
    let iq := integrate (padInt k t.integQ) xq
    if t.phase + 1 < d then ({ t with integI := ii, integQ := iq, phase := t.phase + 1 }, none, 0)
    else
      let (ci, yi) := combs (padInt k t.combI) (ii.getLastD 0)
      let (cq, yq) := combs (padInt k t.combQ) (iq.getLastD 0)
      let (oi, ni) := satCountInt 16 (rnaShift yi sh)
      let (oq, nq) := satCountInt 16 (rnaShift yq sh)
      ({ t with integI := ii, integQ := iq, combI := ci, combQ := cq, phase := 0 }, some (oi, oq),
        ni + (if s.fbit (Reg.ING_SRC_IQ i) then nq else 0))

/-! ### Channeliser (R62 to R65) -/

/-- rna(2^16·sin(2πk/256)) for k = 0 to 64. -/
def sineTable : List Int :=
  [0, 1608, 3216, 4821, 6424, 8022, 9616, 11204, 12785, 14359, 15924, 17479, 19024]
  ++ [20557, 22078, 23586, 25080, 26558, 28020, 29466, 30893, 32303, 33692, 35062, 36410, 37736]
  ++ [39040, 40320, 41576, 42806, 44011, 45190, 46341, 47464, 48559, 49624, 50660, 51665, 52639]
  ++ [53581, 54491, 55368, 56212, 57022, 57798, 58538, 59244, 59914, 60547, 61145, 61705, 62228]
  ++ [62714, 63162, 63572, 63944, 64277, 64571, 64827, 65043, 65220, 65358, 65457, 65516, 65536]

/-- rna(2^16·sin(2πk/256)). -/
def sine (k : Nat) : Int :=
  let k := k % 256
  if k ≤ 64 then sineTable.getD k 0
  else if k ≤ 128 then sineTable.getD (128 - k) 0
  else if k ≤ 192 then -sineTable.getD (k - 128) 0
  else -sineTable.getD (256 - k) 0

/-- The twiddle of angle 2πk/n: rna(2^16·cos θ), rna(−2^16·sin θ); n divides 256. -/
def twiddle (k n : Nat) : Int × Int := (sine (k * (256 / n) + 64), -sine (k * (256 / n)))

/-- A complex product with one rounding of each part (R63). -/
def cmul (a w : Int × Int) : Int × Int := (rnaShift (a.1 * w.1 - a.2 * w.2) 16, rnaShift (a.1 * w.2 + a.2 * w.1) 16)

/-- The entries of even and odd index. -/
def evens {α : Type} : List α → List α
  | [] => []
  | [a] => [a]
  | a :: _ :: r => a :: evens r

/-- The decimation-in-time FFT of 2^n inputs (R63). -/
def fft : Nat → List (Int × Int) → List (Int × Int)
  | 0, l => l
  | n + 1, l =>
    let e := fft n (evens l)
    let o := fft n (evens l.tail)
    let t := (List.range (2 ^ n)).map fun k => cmul (o.getD k (0, 0)) (twiddle k (2 ^ (n + 1)))
    (List.range (2 ^ n)).map (fun k => ((e.getD k (0, 0)).1 + (t.getD k (0, 0)).1, (e.getD k (0, 0)).2 + (t.getD k (0, 0)).2))
    ++ (List.range (2 ^ n)).map (fun k => ((e.getD k (0, 0)).1 - (t.getD k (0, 0)).1, (e.getD k (0, 0)).2 - (t.getD k (0, 0)).2))

/-- Coefficient h[k] of the active bank (R62, R85). -/
def State.coef (s : State) (i k : Nat) : Int :=
  let w := if s.fbit (Reg.ING_CHAN_BANK i) then s.rd (Reg.ING_COEF1 i (k / 2)) else s.rd (Reg.ING_COEF0 i (k / 2))
  signed 16 (if k % 2 = 0 then wordGet w 15 0 else wordGet w 31 16)

/-- The branch sums of a frame (R62): the frames, newest first, each of K outputs; branch p's sum over P taps. -/
def State.branch (s : State) (i k taps p : Nat) (frames : List (List (Int × Int))) : Int × Int :=
  (List.range taps).foldl (fun a j =>
    let x := (frames.getD j []).getD (k - 1 - p) (0, 0)
    let h := s.coef i (j * k + p)
    (a.1 + h * x.1, a.2 + h * x.2)) (0, 0)

/-- One decimator output: the channel samples it completes, by channel, and the clamps. -/
def State.channelise (s : State) (i : Nat) (t : Stream) (y : Int × Int) : Stream × List (Nat × Int × Int) × Nat :=
  if !s.fbit (Reg.ING_CHAN_CH_EN i) then (t, [(0, y.1, y.2)], 0)
  else
    let lk := s.fget (Reg.ING_CHAN_LOG2K3 i) + 3
    let k := 2 ^ lk
    let taps := s.fget (Reg.ING_CHAN_P1 i) + 1
    let f := t.frame ++ [y]
    if f.length < k then ({ t with frame := f }, [], 0)
    else
      let frames := f :: t.frames
      let u := (List.range k).map fun p => s.branch i k taps p frames
      let iq := s.fbit (Reg.ING_SRC_IQ i)
      let a := u.map fun x => (satInt 18 (rnaShift x.1 15), satInt 18 (rnaShift x.2 15))
      let na := (u.map fun x => (satCountInt 18 (rnaShift x.1 15)).2 + (if iq then (satCountInt 18 (rnaShift x.2 15)).2 else 0)).foldl (· + ·) 0
      let fs := s.fget (Reg.ING_CHAN_FFT_SHIFT i)
      let yv := (fft lk a).map fun x => (rnaShift x.1 fs, rnaShift x.2 fs)
      let ny := (yv.map fun x => (satCountInt 16 x.1).2 + (satCountInt 16 x.2).2).foldl (· + ·) 0
      ({ t with frame := [], frames := frames.take (taps - 1) },
        (List.range k).map (fun c => (c, satInt 16 (yv.getD c (0, 0)).1, satInt 16 (yv.getD c (0, 0)).2)), na + ny)

/-! ### Envelope and level crossing (R66 to R69, R74, R88) -/

/-- A crossing: channel, direction up, grade. -/
structure Crossing where
  chan : Nat
  up : Bool
  grade : Nat
  deriving DecidableEq, Repr

/-- The input v of R66: REAL, MAG, DIFF. -/
def insel (sel : Nat) (c : Channel) (xi xq : Int) : Int :=
  if sel = 1 then
    let a := max xi.natAbs xq.natAbs
    let b := min xi.natAbs xq.natAbs
    ((a + b / 4 + b / 8 : Nat) : Int)
  else if sel = 2 then xi - c.prev
  else xi

/-- One channel sample (R66, R68): the channel after it, the crossing it sends, whether the grade was clipped. full: the
deferral queue is full, so no crossing is tested and the gap is held (R74). -/
def crossing (q h mingap envShift sel : Nat) (upEn dnEn full : Bool) (num : Nat) (c : Channel) (xi xq : Int) :
    Channel × Option Crossing × Bool :=
  let v := insel sel c xi xq
  let c := { c with e := c.e + (v - c.e) / (2 ^ envShift : Int), prev := xi }
  if full then (c, none, false)
  else if 0 < c.g then ({ c with g := c.g - 1 }, none, false)
  else
    let d := c.e - c.r
    let hu : Int := if c.last = 2 then h else 0
    let hd : Int := if c.last = 1 then h else 0
    if (q : Int) + hu ≤ d then
      let n := (d - hu).toNat / q
      let grade := min 255 n
      ({ c with r := c.r + hu + grade * q, last := 1, g := mingap }, if upEn then some ⟨num, true, grade⟩ else none, decide (255 < n))
    else if (q : Int) + hd ≤ -d then
      let n := (-d - hd).toNat / q
      let grade := min 255 n
      ({ c with r := c.r - hd - grade * q, last := 2, g := mingap }, if dnEn then some ⟨num, false, grade⟩ else none, decide (255 < n))
    else (c, none, false)

/-- Channel c takes a sample: not processed when both directions are off or INSEL is 3 (R88); DIFF then takes the difference from
the last sample that was processed (R66; DESIGN CHOICE, log entry 102). full: the deferral queue holds no further cell (R74). -/
def State.channelSample (s : State) (i c : Nat) (xi xq : Int) (full : Bool) : State × Option Crossing :=
  let up := s.fbit (Reg.ING_CH_W1_UP_EN i c)
  let dn := s.fbit (Reg.ING_CH_W1_DN_EN i c)
  let sel := s.fget (Reg.ING_CH_W1_INSEL i c)
  if (!up && !dn) || decide (sel = 3) then (s, none)
  else
    let ch := tabGet (fun _ => Channel.init) (s.stream i).chans c
    let (ch', ev, clip) := crossing (max 1 (s.fget (Reg.ING_CH_W0_Q i c))) (s.fget (Reg.ING_CH_W0_H i c)) (s.fget (Reg.ING_CH_W1_MINGAP i c))
      (s.fget (Reg.ING_CH_W1_ENV_SHIFT i c)) sel up dn full c ch xi xq
    let s := s.onStream i fun t => { t with chans := tabPut (fun _ => Channel.init) t.chans c ch' }
    let s := s.iff full fun s => s.count (Reg.ING_HOLD_CNT i) 1
    (s.iff clip fun s => s.count (Reg.ING_CLIP_CNT i) 1, ev)

/-! ### Event formation (R72 to R75) -/

/-- Whether enabled destination entry j takes a crossing (R72). -/
def State.destTakes (s : State) (i j : Nat) (x : Crossing) : Bool :=
  s.fbit (Reg.ING_DST_W0_VALID i j) && decide (s.fget (Reg.ING_DST_W1_CH_FIRST i j) ≤ x.chan)
  && decide (x.chan ≤ s.fget (Reg.ING_DST_W1_CH_LAST i j)) && (x.up || s.fbit (Reg.ING_DST_W1_PAIR i j))

/-- The axon of R72; past 65,535, which only a batch can leave, it is open (log entry 1). -/
def State.destAxon (s : State) (i j : Nat) (x : Crossing) : State × Nat :=
  let n := x.chan - s.fget (Reg.ING_DST_W1_CH_FIRST i j)
  let a := s.fget (Reg.ING_DST_W0_AXON_BASE i j)
    + (if s.fbit (Reg.ING_DST_W1_PAIR i j) then 2 * n + (if x.up then 0 else 1) else n)
  if a < 65536 then (s, a) else (s.drawn, (s.freeVal 16).toNat)

/-- The events of a crossing, one for each destination entry that takes it: core and event word (R73). ING_EVT_CNT counts them as
they are formed, a deferred one too (R89; DESIGN CHOICE, log entry 102). -/
def State.eventsOf (s : State) (i : Nat) (x : Crossing) : State × List (Nat × Word) :=
  (List.range 16).foldl (fun a j =>
    if a.1.destTakes i j x then
      let (s, ax) := a.1.destAxon i j x
      (s.count (Reg.ING_EVT_CNT i) 1, a.2 ++ [(s.fget (Reg.ING_DST_W0_CORE i j), BitVec.ofNat 32 (x.grade * 65536 + ax))])
    else a) (s, [])

/-- Events of one island cycle packed into cells: same core, at most ten, in the order of their first events (R73). -/
def packCells : List EncCell → Nat → Nat → Word → List EncCell
  | [], ch, core, w => [⟨ch, core, [w]⟩]
  | c :: r, ch, core, w => if c.core = core ∧ c.events.length < 10 then { c with events := c.events ++ [w] } :: r else c :: packCells r ch core w

/-- The place in the list of the cell that packCells gives an event to core. -/
def packAt (l : List EncCell) (core : Nat) : Nat := l.findIdx fun c => decide (c.core = core) && decide (c.events.length < 10)

/-- The event word with DEFERRED set (R129). -/
def deferredWord (w : Word) : Word := w ||| 0x40000000

/-- A cell enters the deferral queue, which stands in ascending channel order (R74). -/
def insertDeferred (c : EncCell) : List EncCell → List EncCell
  | [] => [c]
  | a :: r => if a.chan ≤ c.chan then a :: insertDeferred c r else c :: a :: r

/-- A deferral: counted by the source and toward R147. -/
def State.countDeferral (s : State) (o : Nat) : State := (s.count o 1).onTb fun b => { b with deferrals := b.deferrals + 1 }

/-- An encoder sends a cell: IMM = 1, charged to the step, SEQ its index among the step's (R73, R74, R295). -/
def State.encSend (s : State) (i : Nat) (c : EncCell) : State :=
  (s.onStream i fun t => { t with spent := t.spent + 1 }).emit (.ev s.devid c.core (streamCoord s.devid i) ((s.stream i).spent % 256) true false c.events)

/-- A cell leaves at once within the budget; beyond it, it is deferred by one step (R74): the answer says which. -/
def State.encCell (s : State) (i : Nat) (c : EncCell) : State × Bool :=
  if (s.stream i).spent < s.fget (Reg.ING_BUDGET_CELLS i) then (s.encSend i c, false)
  else
    ((s.onStream i fun t => { t with defq := insertDeferred { c with events := c.events.map deferredWord } t.defq }).countDeferral
      (Reg.ING_DEFER_CNT i), true)

/-- An entry of an event-log record (R77): event word, channel, direction, DEFERRED, offset. -/
def logEntry (w : Word) (chan : Nat) (up deferred : Bool) (ofs : Nat) : List Byte :=
  leBytes 8 (w.toNat + chan * 2 ^ 32 + (if up then 0 else 2 ^ 40) + (if deferred then 2 ^ 41 else 0) + (ofs % 2 ^ 22) * 2 ^ 42)

/-- An event enters the event log (R75, R77): the record closes at 30 entries. -/
def State.logEvent (s : State) (i stamp : Nat) (w : Word) (chan : Nat) (up deferred : Bool) : State :=
  if !s.fbit (Reg.ING_CTL_EVLOG i) || !(s.stream i).tapOn then s
  else
    let (r, at_) := (s.stream i).events.getD (⟨1, stamp, stamp, 0, 0, 0, 0, 0, [], 0⟩, s.time)
    let r := { r with count := r.count + 1, body := r.body ++ logEntry w chan up deferred ((stamp - r.time) / 65536) }
    let s := s.onStream i fun t => { t with events := some (r, at_) }
    if 30 ≤ r.count then s.logClose i else s

/-! ### The cycle (R60, R76, R77) -/

/-- The stamp of sample k of the cycle in units of 2^−16 ns (R55): the LEMC boundary's time, the sample's index times 1/Fs,
less ING_TS_OFS; the fraction is truncated (log entry 39). -/
def State.sampleStamp (s : State) (i stamp index k : Nat) : Nat :=
  let p := s.samplePeriod i
  let t : Int := ((stamp + (index + k) * 65536 * p.num / p.den : Nat) : Int) - (s.rd (Reg.ING_TS_OFS i)).toInt * 65536
  (t % (2 ^ 80 : Int)).toNat

/-- Words enter the sample record in progress; it closes when the next instant would pass 120 words (R77). FLAGS.SAT says that a
value of R61 to R64 was clamped in one of the record's instants, whatever TAP_SRC selects (DESIGN CHOICE, log entry 102). -/
def State.tapWords (s : State) (i stamp per : Nat) (ws : List (BitVec 16)) (sat : Bool) : State :=
  if !(s.stream i).tapOn || ws.isEmpty then s
  else
    let n := (s.stream i).nsamp
    let r := (s.stream i).samples.getD ⟨0, stamp, stamp, n, n, 0, 0, 0, [], 0⟩
    let r := { r with count := r.count + ws.length, hi := n + 1, ends := stamp + per, flags := r.flags ||| (if sat then 16 else 0),
                      body := r.body ++ (ws.map fun w => leBytes 2 w.toNat).flatten }
    let s := s.onStream i fun t => { t with samples := some r }
    if 120 < r.count + ws.length then s.tapClose i else s

/-- Sample word w as the encoder takes it: control and tail bits zero, two's complement (R44). -/
def State.sampleValue (s : State) (i : Nat) (w : BitVec 16) : Int :=
  let n := s.fget (Reg.ING_LINK_NM1 i) + 1
  signed 16 (w.toNat / 2 ^ (16 - n) * 2 ^ (16 - n))

/-- The events that one island cycle has formed: each crossing's stamp, the crossing, its event word to the first matching
destination entry, and the place among the cells of the cell that carries it; the cells (R73, R77). -/
structure EncCycle where
  evs : List (Nat × Crossing × Word × Nat)
  cells : List EncCell
  deriving DecidableEq, Repr

/-- Whether the deferral queue is full with the cells of this cycle that the budget does not cover (R74). -/
def State.defFull (s : State) (i : Nat) (y : EncCycle) : Bool :=
  decide (512 ≤ (s.stream i).defq.length + (y.cells.length - (s.fget (Reg.ING_BUDGET_CELLS i) - (s.stream i).spent)))

/-- A crossing forms its events, none during Cocoon (R72, R73, R566). -/
def State.formEvents (s : State) (i stamp : Nat) (x : Crossing) (y : EncCycle) : State × EncCycle :=
  if s.fbit Reg.INST_STATUS_COCOON then (s, y)
  else
    let (s, es) := s.eventsOf i x
    match es with
    | [] => (s, y)
    | (core, w) :: _ => (s, ⟨y.evs ++ [(stamp, x, w, packAt y.cells core)], es.foldl (fun c e => packCells c x.chan e.1 e.2) y.cells⟩)

/-- One sample instant through the encoder and the tap. With FEC the tap takes the corrected words, and with FEC_WAIT the encoder
too (R53). -/
def State.instant (s : State) (i stamp : Nat) (ws corr : List (BitVec 16)) (y : EncCycle) : State × EncCycle :=
  let fec := s.fbit (Reg.ING_CTL_SHMODE i)
  let taken := if fec && s.fbit (Reg.ING_CTL_FEC_WAIT i) then corr else ws
  let x (f : FieldRef) : Int := s.sampleValue i (taken.getD (s.fget f) 0)
  let iq := s.fbit (Reg.ING_SRC_IQ i)
  let (t, d, n1) := s.decimate i (s.stream i) (x (Reg.ING_SRC_CONV_I i)) (if iq then x (Reg.ING_SRC_CONV_Q i) else 0)
  let (t, cs, n2) := match d with
    | some d => s.channelise i t d
    | none => (t, [], 0)
  let sat := n1 + n2
  let s := (s.onStream i fun _ => t).iff (decide (0 < sat)) fun s => s.count (Reg.ING_SAT_CNT i) sat
  let per := (s.samplePeriod i).num * 65536 / (s.samplePeriod i).den
  let words : List (BitVec 16) := if s.fbit (Reg.ING_TAP_TAP_SRC i) then
      (match d with
        | some d => BitVec.ofInt 16 d.1 :: (if iq then [BitVec.ofInt 16 d.2] else [])
        | none => [])
    else if fec then corr else ws
  let s := s.tapWords i stamp (if s.fbit (Reg.ING_TAP_TAP_SRC i) then per * (s.fget (Reg.ING_DEC_D1 i) + 1) else per) words (decide (0 < sat))
  let s := s.onStream i fun t => { t with nsamp := t.nsamp + 1 }
  cs.foldl (fun a c =>
    let (s, ev) := a.1.channelSample i c.1 c.2.1 c.2.2 (a.1.defFull i a.2)
    match ev with
    | some e => s.formEvents i stamp e a.2
    | none => (s, a.2)) (s, y)

/-- The cells of a cycle leave or are deferred, and its events enter the log (R73 to R75). -/
def State.cycleSends (s : State) (i : Nat) (y : EncCycle) : State :=
  let (s, deferred) := y.cells.foldl (fun a c => let (s, d) := a.1.encCell i c; (s, a.2 ++ [d])) (s, ([] : List Bool))
  forL y.evs (fun x s =>
    let (stamp, c, w, k) := x
    let d := deferred.getD k false
    s.logEvent i stamp (if d then deferredWord w else w) c.chan c.up d) s

/-- ENCODER_CYCLE (R60): up to 16 sample instants, each a word from every converter as received; corrected holds the same
instants after FEC (R53). stamp is the counter time of the LEMC boundary that began their extended multiblock in units of 2^−16 ns,
index the first one's index in it (R55). -/
def execEncoderCycle (i : Fin 32) (stamp : BitVec 80) (index : Word) (samples corrected : List (List (BitVec 16))) (s : State) :
    Host.Outcome State Fault Refusal :=
  .next (s.alive fun s =>
    if !s.streamRuns i then s
    else
      let p := (List.range (min 16 samples.length)).foldl (fun a k =>
        a.1.instant i (a.1.sampleStamp i stamp.toNat index.toNat k) (samples.getD k []) (corrected.getD k []) a.2) (s, ⟨[], []⟩)
      p.1.cycleSends i p.2)

/-! ### The boundary (R58, R74, R139) -/

/-- The deferred cells leave first against the new budget; one that finds it spent stays and counts again (R74). -/
def State.encDrain (s : State) (i : Nat) (q : List EncCell) : State :=
  forL q (fun c s =>
    if (s.stream i).spent < s.fget (Reg.ING_BUDGET_CELLS i) then s.encSend i c
    else (s.onStream i fun t => { t with defq := t.defq ++ [c] }).countDeferral (Reg.ING_DEFER_CNT i)) s

/-- ENCODER_BOUNDARY (R58, R74): the token reaches encoder i: a new budget, deferred cells first, END of the step before,
and an aligned absent stream with RETURN = 1 returns. -/
def execEncoderBoundary (i : Fin 32) (s : State) : Host.Outcome State Fault Refusal :=
  .next (s.alive fun s =>
    let q := (s.stream i).defq
    let s := (s.onStream i fun t => { t with spent := 0, defq := [] }).encDrain i q
    let s := s.iff (decide (0 < s.tb.nextU) && s.fbit (Reg.ING_CTL_EN i)) fun s => s.reportEnd 1 i (s.tb.nextU - 1)
    s.iff ((s.stream i).returning && s.fbit (Reg.ING_CTL_EN i)) fun s => s.streamReturns i)

end Sys2Proof.Machine
end

