-- ==== Sys2Proof/Machine/Neuron.lean ====
section
/-! DEFINITION. Neuron records, profiles and decay (R90 to R99, R107, R109 to R111, R116, R124). -/

namespace Sys2Proof.Machine

/-! ### Words of a core's memory -/

/-- The aligned word of core n's window that holds offset o; none where it returns an uncorrectable error, which is
recorded (R124, R404). -/
def State.ncWord (s : State) (n o : Nat) : State × Option Nat :=
  let a := winAddr n (o / 4 * 4)
  if s.isBad a then (s.sramError a true, none) else (s, some (s.mnat a 4))

/-- Several words, from aligned offset o: none where one of them is in error. -/
def State.ncWords (s : State) (n o : Nat) : Nat → State × Option (List Nat)
  | 0 => (s, some [])
  | k + 1 =>
    let (s, w) := s.ncWord n o
    let (s, r) := State.ncWords s n (o + 4) k
    (s, match w, r with
      | some w, some r => some (w :: r)
      | _, _ => none)

/-- A word of core n's window written whole. -/
def State.ncPut (s : State) (n o v : Nat) : State := (s.mnatPut (winAddr n o) 4 v).setBad (winAddr n o) false

/-- Memory errors that a command names: window offset, and whether the error is uncorrectable (R404). A correctable one
is recorded at once, an uncorrectable one at each read of its word. -/
def State.ncErrors (s : State) (n : Nat) (l : List (BitVec 21 × Bool)) : State :=
  forL l (fun x s =>
    let a := winAddr n (x.1.toNat / 4 * 4)
    if 0x180000 ≤ x.1.toNat then s
    else if x.2 then s.setBad a true else s.sramError a false) s

/-- Patrol-scrub results: at most four words at each boundary (R403); an uncorrectable one is only recorded (R404). -/
def State.ncScrub (s : State) (n : Nat) (l : List (BitVec 21 × Bool)) : State :=
  forL (l.take 4) (fun x s =>
    let a := winAddr n (x.1.toNat / 4 * 4)
    if 0x180000 ≤ x.1.toNat then s
    else if x.2 then (s.setBad a true).sramError a true else s.sramError a false) s

/-! ### Records (R93 to R96) -/

/-- A neuron record. Reserved bits are kept as they stand. -/
structure NRec where
  v : Int
  a : Nat
  tUpd : Nat
  tFire : Nat
  word2 : Nat
  word3 : Nat
  deriving DecidableEq, Repr

def NRec.profile (r : NRec) : Nat := bits r.word2 5 0
def NRec.dest (r : NRec) : Nat := bits r.word2 27 8
def NRec.en (r : NRec) : Bool := bit r.word3 15
def NRec.out (r : NRec) : Bool := bit r.word3 14
def NRec.recent (r : NRec) : Bool := bit r.word3 13
def NRec.nodest (r : NRec) : Bool := bit r.word3 9
def NRec.dirty (r : NRec) : Bool := bit r.word3 8

/-- Bit b of a number set to v. -/
def setBitN (w b : Nat) (v : Bool) : Nat := if bit w b = v then w else if v then w + 2 ^ b else w - 2 ^ b

/-- Flag bits of word 3: RECENT 13, CLIPPED 12, CARRY 11, DIRTY 8. -/
def NRec.flag (r : NRec) (b : Nat) (v : Bool) : NRec := { r with word3 := setBitN r.word3 b v }

/-- The record of neuron j as its four words spell it. -/
def NRec.ofWords (w0 w1 w2 w3 : Nat) : NRec := ⟨signed 16 (bits w0 15 0), bits w0 31 16, bits w1 15 0, bits w1 31 16, w2, w3⟩

/-- The record of neuron j of core n; none where a word of it returns an uncorrectable error (R124). -/
def State.readRec (s : State) (n j : Nat) : State × Option NRec :=
  let (s, w) := s.ncWords n (16 * j) 4
  (s, match w with
    | some [w0, w1, w2, w3] => some (NRec.ofWords w0 w1 w2 w3)
    | _ => none)

/-- The record of neuron j written: words 0, 1 and 3; the core never changes word 2. -/
def State.writeRec (s : State) (n j : Nat) (r : NRec) : State :=
  ((s.ncPut n (16 * j) (wrapInt 16 r.v + r.a * 65536)).ncPut n (16 * j + 4) (r.tUpd + r.tFire * 65536)).ncPut n (16 * j + 12) r.word3

/-! ### Profiles (R98, R99) -/

/-- A profile. -/
structure Prof where
  theta0 : Int
  q : Nat
  aInc : Nat
  ref : Nat
  dv : Nat
  da : Nat
  inShift : Nat
  zero : Bool
  discard : Bool
  rule : Nat
  pri : Nat
  deriving DecidableEq, Repr

/-- The profile that words 0 to 2 spell; Q = 0 behaves as 1 (R99). -/
def Prof.ofWords (w0 w1 w2 : Nat) : Prof where
  theta0 := signed 16 (bits w0 15 0)
  q := max 1 (bits w0 31 16)
  aInc := bits w1 7 0
  ref := bits w1 15 8
  dv := bits w1 19 16
  da := bits w1 23 20
  inShift := bits w1 27 24
  zero := bit w1 28
  discard := bit w1 29
  rule := bits w2 2 0
  pri := bits w2 7 4

/-- Profile p of core n; none where it returns an uncorrectable error (R124). -/
def State.readProf (s : State) (n p : Nat) : State × Option Prof :=
  let (s, w) := s.ncWords n (0x160000 + 16 * p) 3
  (s, match w with
    | some [w0, w1, w2] => some (Prof.ofWords w0 w1 w2)
    | _ => none)

/-! ### Decay (R109 to R111) -/

/-- F(k, sh): the factor of k steps at decay shift sh, in units of 2^−16, bits of k from b − 1 down. -/
def decayFactor (k sh : Nat) : Nat → Nat → Nat
  | 0, acc => acc
  | b + 1, acc =>
    let acc := (acc * acc) >>> 16
    decayFactor k sh b (if bit k b then (acc * (65536 - (65536 >>> sh))) >>> 16 else acc)

/-- A magnitude after k steps of decay at shift sh; shift 0 leaves it. -/
def decayed (k sh m : Nat) : Nat := if sh = 0 then m else (m * decayFactor k sh 16 65536) >>> 16

/-- Steps since the last firing, modulo 65,536. -/
def NRec.since (r : NRec) (t : Nat) : Nat := (t + 65536 - r.tFire) % 65536

/-- RECENT cleared once more than 255 steps have passed since the firing (R111). -/
def NRec.forget (r : NRec) (t : Nat) : NRec := if 255 < r.since t then r.flag 13 false else r

/-- A record brought up to date in step t (R109); without a readable profile it keeps V and A, and RECENT is cleared where R111 would
clear it, whatever the update is for (R124; DEDUCED, log entry 104). -/
def NRec.bringUp (r : NRec) (p : Option Prof) (t : Nat) : NRec :=
  let k := (t + 65536 - r.tUpd) % 65536
  match p with
  | some p =>
    { r with v := if 0 ≤ r.v then (decayed k p.dv r.v.natAbs : Int) else -(decayed k p.dv r.v.natAbs : Int)
             a := decayed k p.da r.a, tUpd := t % 65536 }
  | none => { r with tUpd := t % 65536 }.forget t

/-- A record whose T_UPD is not step t's is brought up to date (R106, R113). -/
def NRec.current (r : NRec) (p : Option Prof) (t : Nat) : NRec := if r.tUpd = t % 65536 then r else r.bringUp p t

/-- Whether a neuron is refractory in step t (R116). -/
def NRec.refractory (r : NRec) (p : Prof) (t : Nat) : Bool := r.recent && decide (1 ≤ r.since t) && decide (r.since t ≤ p.ref)

/-- The contribution of a product under the input shift (R107). -/
def inputShift (k : Nat) (p : Int) : Int := rnaShift p k

/-! ### Status the core keeps -/

/-- IDLE, DEFQ and WHEEL_OCC as the core stands (R126, R159). -/
def State.ncStatus (s : State) (n : Nat) : State :=
  let c := s.core n
  ((s.fflag (Reg.NC_STATUS_IDLE n) (c.input.isEmpty && c.scan.isNone && c.stuck.isEmpty)).fset (Reg.NC_EMIT_STATUS_DEFQ n) c.defq.length).fset
    (Reg.NC_EMIT_STATUS_WHEEL_OCC n) c.wheel.length

/-- The step counter as of core n's last boundary. -/
def State.ncStep (s : State) (n : Nat) : Nat := (s.rd (Reg.NC_STEP n)).toNat

/-- Whether core n runs: enabled, and no initialising pass. -/
def State.ncRuns (s : State) (n : Nat) : Bool := s.fbit (Reg.NC_CTL_EN n) && !s.fbit (Reg.NC_STATUS_INIT n)

/-- Whether a held scan keeps core n from taking in events (R146). -/
def State.ncHeld (s : State) (n : Nat) : Bool := (s.core n).scan.isSome || !(s.core n).stuck.isEmpty

end Sys2Proof.Machine
end

