-- ==== Sys2Proof/Machine/Plastic.lean ====
section
/-! DEFINITION. On-chip plasticity (R162 to R186): synapse rows, pairing, rule tables, the update buffer, epochs and
the commit of a row. -/

namespace Sys2Proof.Machine

/-! ### Synapse rows (R101 to R104) -/

/-- A row header: form, number of synapses, T_AXON, words 1 and 2, and the window offset of its first byte. -/
structure Row where
  form : Nat
  len : Nat
  tAxon : Nat
  w1 : Nat
  w2 : Nat
  off : Nat
  deriving DecidableEq, Repr

/-- The window offset of the row header at word index i of synapse memory (R100). -/
def rowOffset (i : Nat) : Nat := 0x40000 + 4 * i

/-- The bytes that a row of a form and length takes with its header; none for form 3. -/
def rowBytes (form len : Nat) : Option Nat :=
  if form = 0 then some (8 + 3 * len) else if form = 1 then some (8 + len) else if form = 2 then some 12 else none

/-- Whether a row lies wholly inside synapse memory and its form is known (R105). -/
def rowFits (off form len : Nat) : Bool :=
  match rowBytes form len with
  | some k => decide (off + k ≤ 0x140000)
  | none => false

/-- What a row's header says before its later words are read: form, length, T_AXON. -/
def rowHead (w off : Nat) : Row := ⟨bits w 31 30, bits w 29 16 + 1, bits w 15 0, 0, 0, off⟩

/-- A synapse of a row: its target, the window offset of its weight byte or entry, its signed weight, whether it is
plastic, its learned quantity u (R163). -/
structure Synapse where
  index : Nat
  target : Nat
  at_ : Nat
  weight : Int
  plastic : Bool
  u : Int
  deriving DecidableEq, Repr

/-- A weight byte under SIGNED and NEG (R103). -/
def weightOf (b : Nat) (sgn neg : Bool) : Int := if sgn then signed 8 b else if neg then -(b : Int) else (b : Int)

/-- Synapse i of a row (R102 to R104): target, offset of its weight and how many bytes that takes, from the header alone
where the form is dense or kernel; a sparse entry is read from memory. -/
def State.synapse (s : State) (n : Nat) (r : Row) (i : Nat) : Synapse :=
  let byte (o : Nat) : Nat := (s.mget (winAddr n o)).toNat
  if r.form = 0 then
    let o := r.off + 8 + 3 * i
    let e := byte o + 256 * byte (o + 1) + 65536 * byte (o + 2)
    let w := bits e 21 14
    ⟨i, bits e 13 0, o, if bit e 23 then -(w : Int) else (w : Int), bit e 22, (w : Int)⟩
  else if r.form = 1 then
    let o := r.off + 8 + i
    let b := byte o
    let sgn := bit r.w1 16
    ⟨i, bits r.w1 13 0 + i, o, weightOf b sgn (bit r.w1 17), bit r.w1 18, if sgn then signed 8 b else (b : Int)⟩
  else
    let k := bits r.w2 15 0 + i * bits r.w2 23 16
    let o := 0x161000 + k
    ⟨i, bits r.w1 13 0 + i * max 1 (bits r.w1 21 14), o, weightOf (byte o) (bit r.w1 23) (bit r.w1 22), false, 0⟩

/-- The window words that a synapse's entry or weight byte lies in. -/
def synapseWords (r : Row) (y : Synapse) : List Nat :=
  if r.form = 0 then [y.at_ / 4 * 4, (y.at_ + 2) / 4 * 4].eraseDups else [y.at_ / 4 * 4]

/-- Whether a synapse's entry or weight lies in a word in error (R124). -/
def State.synapseBad (s : State) (n : Nat) (r : Row) (y : Synapse) : Bool := (synapseWords r y).any fun o => s.isBad (winAddr n o)

/-- Whether a synapse is out of range: target past 16,383 or kernel offset past 61,439 (R105). -/
def synapseSkips (r : Row) (y : Synapse) : Bool := decide (16383 < y.target) || (decide (r.form = 2) && decide (0x170000 ≤ y.at_))

/-- The learned quantity of a synapse written back (R163). -/
def State.putU (s : State) (n : Nat) (r : Row) (y : Synapse) (u : Int) : State :=
  if r.form = 0 then
    let byte (o : Nat) : Nat := (s.mget (winAddr n o)).toNat
    let e := byte y.at_ + 256 * byte (y.at_ + 1) + 65536 * byte (y.at_ + 2)
    let e' := e - bits e 21 14 * 16384 + wrapInt 8 u * 16384
    s.mnatPut (winAddr n y.at_) 3 e'
  else s.mput (winAddr n y.at_) (BitVec.ofInt 8 u)

/-- The header of the row at offset off with its later words; none where one of them is in error (R124). -/
def State.readRow (s : State) (n off w0 : Nat) : State × Option Row :=
  let r := rowHead w0 off
  let (s, w) := s.ncWords n (off + 4) (if r.form = 2 then 2 else 1)
  (s, match w with
    | some l => some { r with w1 := l.getD 0 0, w2 := l.getD 1 0 }
    | none => none)

/-! ### Rule tables and the delta (R168 to R170) -/

/-- The quotient a / d of non-negative numbers rounded to nearest, ties up. -/
def rnaDiv (a d : Nat) : Nat := (2 * a + d) / (2 * d)

/-- A byte of a rule table; none where its word is in error (R183). -/
def State.ncByte (s : State) (n o : Nat) : State × Option Nat :=
  let (s, w) := s.ncWord n o
  (s, w.map fun w => bits w (8 * (o % 4) + 7) (8 * (o % 4)))

/-- The parameters of a rule: ETA_P, ETA_M, W_MIN, W_MAX. -/
structure Rule where
  etaP : Nat
  etaM : Nat
  wMin : Int
  wMax : Int
  deriving DecidableEq, Repr

/-- The parameters of rule r (R169). -/
def State.readRule (s : State) (n r : Nat) : State × Option Rule :=
  let (s, w) := s.ncWords n (0x160780 + 16 * (r - 1)) 2
  (s, match w with
    | some [w0, w1] => some ⟨bits w0 15 0, bits w0 31 16, signed 16 (bits w1 15 0), signed 16 (bits w1 31 16)⟩
    | _ => none)

/-- A kernel byte: 0 beyond 63 steps (R164). -/
def State.kernel (s : State) (n base d : Nat) : State × Option Nat := if d ≤ 63 then s.ncByte n (base + d) else (s, some 0)

/-- The delta of R170 in units of 1/64 of a weight step. -/
def delta (ru : Rule) (u : Int) (kp km : Nat) : Int :=
  let uc := clampInt ru.wMin ru.wMax u
  let den := 1024 * (ru.wMax - ru.wMin).toNat
  (rnaDiv (ru.etaP * kp * (ru.wMax - uc).toNat) den : Int) - (rnaDiv (ru.etaM * km * (uc - ru.wMin).toNat) den : Int)

/-! ### Directory and buffer (R173 to R176) -/

/-- The window offset of directory entry k. -/
def dirOffset (k : Nat) : Nat := 0x160800 + 4 * k

/-- ROWS is the number of valid directory entries (R185). -/
def State.rowsShow (s : State) (n : Nat) : State :=
  s.fset (Reg.NC_PL_STATUS_ROWS n) ((List.range 512).filter fun k => bit (s.mnat (winAddr n (dirOffset k)) 4) 31).length

/-- Directory entry k; one in error is cleared and its deltas are lost (R183). -/
def State.dirEntry (s : State) (n k : Nat) : State × Nat :=
  let (s, w) := s.ncWord n (dirOffset k)
  match w with
  | some w => (s, w)
  | none => ((s.ncPut n (dirOffset k) 0).rowsShow n, 0)

/-- The 512 directory entries in ascending k. -/
def State.directory (s : State) (n : Nat) : State × List (Nat × Nat) :=
  (List.range 512).foldl (fun a k => let (t, w) := a.1.dirEntry n k; (t, a.2 ++ [(k, w)])) (s, [])

/-- Valid entries: index, BASE, ROW. -/
def validDirs (l : List (Nat × Nat)) : List (Nat × Nat × Nat) :=
  (l.filter fun x => bit x.2 31).map fun x => (x.1, bits x.2 30 18, bits x.2 17 0)

/-- A delta is dropped because the directory or the buffer is full (R176). -/
def State.plDrop (s : State) (n : Nat) : State := (s.count (Reg.NC_PL_DROP_CNT n) 1).fon (Reg.NC_PL_STATUS_FULL n)

/-- Directory entry k takes the row at word index i with need granules from the buffer's next slots, which read 0 (R174). -/
def State.segmentNew (s : State) (n i k need : Nat) : State × Option Nat :=
  let ptr := s.fget (Reg.NC_PL_STATUS_SLOTS n)
  if s.fbit (Reg.NC_PL_STATUS_FULL n) || decide (8192 < ptr + need) then (s.plDrop n, none)
  else
    let s := s.ncPut n (dirOffset k) (2 ^ 31 + ptr * 2 ^ 18 + i)
    let s := forN (2 * need) (fun j s => s.ncPut n (0x170000 + 8 * ptr + 4 * j) 0) s
    (((s.rowsShow n).fset (Reg.NC_PL_STATUS_SLOTS n) (ptr + need)).onCore n fun c => { c with plSegs := c.plSegs ++ [(ptr, need)] }, some ptr)

/-- The segment of the row at word index i: its BASE, from the present epoch's entries or newly allocated (R174); none when
the directory or the buffer is full, which drops the delta (R176). -/
def State.segmentIn (s : State) (l : List (Nat × Nat)) (n i len : Nat) : State × Option Nat :=
  match (validDirs l).find? fun x => decide (x.2.2 = i) with
  | some x => (s, some x.2.1)
  | none =>
    match l.find? fun x => !bit x.2 31 with
    | some x => s.segmentNew n i x.1 ((len + 3) / 4)
    | none => (s.plDrop n, none)

/-- The segment of the row at word index i, the directory read (R174). -/
def State.segment (s : State) (n i len : Nat) : State × Option Nat := (s.directory n).1.segmentIn (s.directory n).2 n i len

/-- The slot at index i; none where its word is in error. -/
def State.readSlot (s : State) (n i : Nat) : State × Option Int :=
  let o := 0x170000 + 2 * i
  let (s, w) := s.ncWord n o
  (s, w.map fun w => signed 16 (bits w (8 * (o % 4) + 15) (8 * (o % 4))))

/-- A slot written. -/
def State.writeSlot (s : State) (n i : Nat) (v : Int) : State := s.mnatPut (winAddr n (0x170000 + 2 * i)) 2 (wrapInt 16 v)

/-- A delta recorded (R175); where the slot's word is in error it is dropped (R183). -/
def State.recordDelta (s : State) (n base i : Nat) (d : Int) : State :=
  let (s, v) := s.readSlot n (4 * base + i)
  match v with
  | some v =>
    let x := satInt 16 (v + d)
    ((s.writeSlot n (4 * base + i) x).count (Reg.NC_PL_UPD_CNT n) 1).iff (decide (x ≠ v + d)) fun s => s.count (Reg.NC_PL_DSAT_CNT n) 1
  | none => s

/-! ### Pairing (R162, R164 to R166, R177) -/

/-- A pairing of plastic synapse y of the row at word index i with its target's last firing, d steps after the row's last
event and e after the firing: recorded in a recording step, counted during a commit, else nothing. -/
def State.pair (s : State) (n i : Nat) (r : Row) (y : Synapse) (rule d e : Nat) : State :=
  let ph := (s.core n).plPhase
  if ph = 4 ∨ ph = 5 then s.count (Reg.NC_PL_CSKIP_CNT n) 1
  else if ph ≠ 3 then s
  else
    let (s, ru) := s.readRule n rule
    let (s, kp) := s.kernel n (0x160400 + 0x80 * (rule - 1)) (d - e)
    let (s, km) := s.kernel n (0x160440 + 0x80 * (rule - 1)) e
    match ru, kp, km with
    | some ru, some kp, some km =>
      if ru.wMax ≤ ru.wMin then s
      else
        let x := delta ru y.u kp km
        if x = 0 then s
        else
          let (s, b) := s.segment n i r.len
          match b with
          | some b => s.recordDelta n b y.index x
          | none => s
    | _, _, _ => s

/-- The pairing of R164 for a synapse whose target's record is up to date. -/
def State.pairing (s : State) (n i : Nat) (r : Row) (y : Synapse) (rec : NRec) (p : Prof) (t tPrev : Nat) : State :=
  let d := (t + 65536 - tPrev) % 65536
  let e := rec.since t
  if y.plastic && rec.en && decide (p.rule ≠ 0) && rec.recent && decide (e < d) then s.pair n i r y p.rule d e else s

/-! ### Epochs (R177, R181) -/

/-- The enable clear begins: nothing is recorded while it runs, NC_PL_EPOCH is 0 (R181). -/
def State.plClear (s : State) (n : Nat) : State :=
  (((s.onCore n fun c => { c with plPhase := 1, plOn := true }).foff (Reg.NC_PL_STATUS_COMMIT n)).fon (Reg.NC_PL_STATUS_CLEAR n)).wrN (Reg.NC_PL_EPOCH n) 0

/-- Every plastic synapse of the row at word index i takes an open u (R182). -/
def State.openRow (s : State) (n i : Nat) : State :=
  let o := rowOffset i
  let w0 := s.mnat (winAddr n o) 4
  let r : Row := { rowHead w0 o with w1 := s.mnat (winAddr n (o + 4)) 4 }
  if !rowFits o r.form r.len || decide (2 ≤ r.form) then s
  else forN r.len (fun j s =>
    let y := s.synapse n r j
    if y.plastic && !synapseSkips r y then (s.putU n r y (s.freeVal 8).toInt).drawn else s) s

/-- The commit ends (R178): NC_PL_EPOCH increments, NC_PL_LAST takes its steps and rows; the rows that a Chrysalis entry on a directory
word concerned are left with an open u (R182). -/
def State.plCommitEnd (s : State) (n : Nat) : State :=
  let c := s.core n
  let s := forL c.plOpen (fun i s => s.openRow n i) (s.onCore n fun c => { c with plSegs := [], plOpen := [] })
  let s := (s.foff (Reg.NC_PL_STATUS_COMMIT n)).foff (Reg.NC_PL_STATUS_FULL n)
  let s := (s.fset (Reg.NC_PL_STATUS_ROWS n) 0).fset (Reg.NC_PL_STATUS_SLOTS n) 0
  let s := (s.count (Reg.NC_PL_EPOCH n) 1).wrN (Reg.NC_PL_LAST n) (min 65535 c.plSteps * 65536 + c.plRows)
  s.onCore n fun c => { c with plPhase := 5 }

/-- The commit begins in the step after the epoch's last (R177); with no row recorded it ends there. -/
def State.plCommit (s : State) (n : Nat) : State :=
  let s := ((s.onCore n fun c => { c with plPhase := 4, plSteps := 1, plRows := 0 }).fon (Reg.NC_PL_STATUS_COMMIT n)).rowsShow n
  if s.fget (Reg.NC_PL_STATUS_ROWS n) = 0 then s.plCommitEnd n else s

/-- An epoch begins: LEN recording steps, 0 behaving as 1 (R177, R185). -/
def State.plEpoch (s : State) (n : Nat) : State :=
  s.onCore n fun c => { c with plPhase := 3, plLeft := max 1 (s.fget (Reg.NC_PL_CTL_LEN n)) }

/-- What a step boundary does to plasticity (R177, R181). -/
def State.plBoundary (s : State) (n : Nat) : State :=
  let on := s.fbit (Reg.NC_PL_CTL_PL_EN n)
  let c := s.core n
  let s := s.onCore n fun c => { c with plOn := on }
  if on && !c.plOn then s.plClear n
  else
    match c.plPhase with
    | 2 => if on then s.plEpoch n else s.onCore n fun c => { c with plPhase := 0 }
    | 3 => if !on || decide (c.plLeft ≤ 1) then s.plCommit n else s.onCore n fun c => { c with plLeft := c.plLeft - 1 }
    | 4 => s.onCore n fun c => { c with plSteps := c.plSteps + 1 }
    | 5 => if on then s.plEpoch n else s.onCore n fun c => { c with plPhase := 0 }
    | _ => s

/-- PLASTICITY_CLEAR_END (R181): directory and buffer read 0; the first epoch begins at the next boundary. -/
def execPlasticityClearEnd (n : Fin 1024) (s : State) : Host.Outcome State Fault Refusal :=
  .next (s.alive fun s =>
    if !s.fbit (Reg.NC_PL_STATUS_CLEAR n) then s
    else
      let s := forN 512 (fun k s => s.ncPut n (dirOffset k) 0) s
      let s := forN 16384 (fun k s => s.ncPut n (0x170000 + 4 * k) 0) s
      let s := (s.wrN (Reg.NC_PL_STATUS n) 0)
      s.onCore n fun c => { c with plPhase := if c.plOn then 2 else 0, plSegs := [] })

/-! ### Commit of a row (R178, R180, R182, R183) -/

/-- The code range of the learned quantity (R163). -/
def codeRange (r : Row) : Int × Int := if r.form = 1 ∧ bit r.w1 16 = true then (-128, 127) else (0, 255)

/-- The quotient x / 64 rounded to nearest, ties away from zero. -/
def rna64 (x : Int) : Int := rnaShift x 6

/-- One plastic synapse's slot is applied (R178); it keeps its u where its target does not learn or a read fails. -/
def State.commitSynapse (s : State) (n base : Nat) (r : Row) (i : Nat) : State :=
  let y := s.synapse n r i
  if synapseSkips r y || s.synapseBad n r y || !y.plastic then s
  else
    let (s, v) := s.readSlot n (4 * base + i)
    let (s, rec) := s.readRec n y.target
    match v, rec with
    | some v, some rec =>
      let (s, p) := s.readProf n rec.profile
      match p with
      | some p =>
        if !rec.en || decide (p.rule = 0) then s
        else
          let (s, ru) := s.readRule n p.rule
          match ru with
          | some ru =>
            if ru.wMax ≤ ru.wMin then s
            else
              let x := y.u + rna64 v
              let z := clampInt (codeRange r).1 (codeRange r).2 (clampInt ru.wMin ru.wMax x)
              (s.putU n r y z).iff (decide (z ≠ x)) fun s => s.count (Reg.NC_PL_CLAMP_CNT n) 1
          | none => s
      | none => s
    | _, _ => s

/-- The end of the segment at base in units of 4 slots, as it was allocated (R174). A base that no allocation gave stands in an entry
written from outside: its segment ends where the next one begins, else at the allocation pointer (log entry 106). -/
def State.segmentEnd (s : State) (n : Nat) (l : List (Nat × Nat × Nat)) (base : Nat) : Nat :=
  match (s.core n).plSegs.find? fun x => decide (x.1 = base) with
  | some x => base + x.2
  | none => (l.filter fun x => decide (base < x.2.1)).foldl (fun a x => min a x.2.1) (s.fget (Reg.NC_PL_STATUS_SLOTS n))

/-- The row at directory entry k is committed: its synapses in row order, its slots set to 0, its entry cleared. -/
def State.commitRow (s : State) (n k base i stop : Nat) : State :=
  let slots := 4 * (stop - base)
  let (s, w0) := s.ncWord n (rowOffset i)
  let s := match w0 with
    | some w0 =>
      let r := rowHead w0 (rowOffset i)
      if rowFits (rowOffset i) r.form r.len && decide (r.form < 2) then
        let (s, r) := s.readRow n (rowOffset i) w0
        match r with
        | some r => forN (min r.len slots) (fun j s => s.commitSynapse n base r j) s
        | none => s
      else s
    | none => s
  let s := forN (slots / 2) (fun j s => s.ncPut n (0x170000 + 8 * base + 4 * j) 0) s
  let s := s.ncPut n (dirOffset k) (s.mnat (winAddr n (dirOffset k)) 4 % 2 ^ 31)
  (s.rowsShow n).onCore n fun c => { c with plRows := c.plRows + 1 }

/-- The first row of the directory's valid entries is committed; after the last one the epoch's commit ends. -/
def State.commitNext (s : State) (n : Nat) (l : List (Nat × Nat × Nat)) : State :=
  match l with
  | [] => s.plCommitEnd n
  | (k, base, i) :: rest =>
    let s := s.commitRow n k base i (s.segmentEnd n l base)
    if rest.isEmpty then s.plCommitEnd n else s

/-- COMMIT_ROW (R178): the commit engine commits the valid entry of lowest index; the commit ends when none remains. errs
are the memory errors met: window offset, uncorrectable. -/
def execCommitRow (n : Fin 1024) (errs : List (BitVec 21 × Bool)) (s : State) : Host.Outcome State Fault Refusal :=
  .next (s.alive fun s =>
    if (s.core n).plPhase ≠ 4 then s
    else
      let s := s.ncErrors n errs
      (s.directory n).1.commitNext n (validDirs (s.directory n).2))

end Sys2Proof.Machine
end

