-- ==== Sys2Proof/Machine/Arrival.lean ====
section
/-! DEFINITION. Events at a core: the router's wheel and the taking in of an event (R105, R106, R119, R124, R129 to R132,
R138 to R142, R153, R309). -/

namespace Sys2Proof.Machine

/-! ### Taking in an event (R106) -/

/-- One synapse processed on its target's record (R106): the record is brought up to date, the pairing is evaluated, the
contribution is added or discarded, DIRTY is set. A record in error is left (R124); the operation is counted either way. -/
def State.processSynapse (s : State) (n t value i tPrev : Nat) (r : Row) (y : Synapse) : State :=
  let s := s.wrN (Reg.NC_SOP_CNT n) ((s.rd (Reg.NC_SOP_CNT n)).toNat + 1)
  let (s, rec) := s.readRec n y.target
  match rec with
  | none => s
  | some rec =>
    let (s, p) := s.readProf n rec.profile
    let u := rec.current p t
    match p with
    | none => s.writeRec n y.target (u.flag 8 true)
    | some p =>
      let s := s.pairing n i r y u p t tPrev
      let c := inputShift p.inShift (y.weight * (value : Int))
      if !u.en || (u.refractory p t && p.discard) then s.writeRec n y.target (u.flag 8 true)
      else
        let v := satInt 16 (u.v + c)
        (s.writeRec n y.target ({ u with v := v }.flag 8 true)).iff (decide (v ≠ u.v + c)) fun s => s.count (Reg.NC_VSAT_CNT n) 1

/-- The words of a row's body, each once. -/
def State.bodyWords (s : State) (n : Nat) (r : Row) : List Nat :=
  ((List.range r.len).map fun i => synapseWords r (s.synapse n r i)).flatten.eraseDups

/-- A row applied (R105, R106, R124): synapses in row order; those out of range are skipped and counted, those whose
entry or weight is in error are skipped. -/
def State.applyRow (s : State) (n t value i tPrev : Nat) (r : Row) : State :=
  let bad := (s.bodyWords n r).filter fun o => s.isBad (winAddr n o) && decide (o < 0x170000)
  let s := forL bad (fun o s => s.sramError (winAddr n o) true) s
  forN r.len (fun k s =>
    let y := s.synapse n r k
    if synapseSkips r y then s.count (Reg.NC_ROW_ERR_CNT n) 1
    else if s.synapseBad n r y then s
    else s.processSynapse n t value i tPrev r y) s

/-- The core takes in an event of an axon and a value in step t (R106). -/
def State.takeEvent (s : State) (n t axon value : Nat) : State :=
  let s := s.count (Reg.NC_EVT_CNT n) 1
  if s.fget (Reg.NC_CTL_AXON_LIMIT n) ≤ axon then s.count (Reg.NC_EVERR_CNT n) 1
  else
    let (s, e) := s.ncWord n (0x40000 + 4 * axon)
    match e with
    | none => s
    | some e =>
      if !bit e 31 || decide (value = 0) then s.count (Reg.NC_EVERR_CNT n) 1
      else
        let i := bits e 17 0
        let o := rowOffset i
        let (s, w0) := s.ncWord n o
        match w0 with
        | none => s
        | some w0 =>
          let h := rowHead w0 o
          let stamp (s : State) : State := s.ncPut n o (w0 - h.tAxon + t % 65536)
          if !rowFits o h.form h.len then (stamp s).count (Reg.NC_ROW_ERR_CNT n) 1
          else
            let (s, r) := s.readRow n o w0
            match r with
            | none => s
            | some r => (stamp s).applyRow n t value i h.tAxon r

/-- An event word taken in. -/
def State.takeWord (s : State) (n t : Nat) (w : Word) : State := s.takeEvent n t (wordGet w 15 0) (wordGet w 23 16)

/-- Every event offered to the core or held at its input is taken in, oldest first, in step t. -/
def State.takeAll (s : State) (n t : Nat) : State :=
  let q := (s.core n).input
  forL q (fun w s => s.takeWord n t w) (s.onCore n fun c => { c with input := [] })

/-- ARRIVAL (R106): the core takes in the oldest event at its input as an event of the present step, unless an initialising
pass or a held scan keeps it there. errs are the memory errors met: window offset, uncorrectable. -/
def execArrival (n : Fin 1024) (errs : List (BitVec 21 × Bool)) (s : State) : Host.Outcome State Fault Refusal :=
  .next (s.alive fun s =>
    if !s.ncRuns n || s.ncHeld n then s
    else match (s.core n).input with
      | [] => s
      | w :: rest => (((s.ncErrors n errs).onCore n fun c => { c with input := rest }).takeWord n (s.ncStep n) w).ncStatus n)

/-! ### The router (R138 to R142) -/

/-- Steps from the present one to an event's due step: 0 now, −1 late (R138, R140). -/
def dueIn (v : Nat) (imm ep : Bool) (w : Word) : Int :=
  let d : Int := (wordGet w 29 24 : Nat)
  if imm || (ep == decide (v % 2 = 1)) then d else d - 1

/-- An event discarded at the core (R132, R141, R600). -/
def State.evDiscard (s : State) (n k : Nat) : State := s.count (Reg.NC_EVERR_CNT n) k

/-- A router takes a cell off the mesh: a tagged one leaves the completion tree and is reported to the link it came by (R138, R139,
R153). -/
def State.evLeaves (s : State) (c : EvIn) : State :=
  if c.imm then s
  else
    let s := s.tree c.ep (-1)
    match c.link with
    | some k => s.onLink k fun l => if c.ep then { l with acc1 := l.acc1 + 1 } else { l with acc0 := l.acc0 + 1 }
    | none => s

/-- The router accepts a cell for its core, and counts it (R139). -/
def State.evAccepted (s : State) (n : Nat) (c : EvIn) : State := (s.count (Reg.NC_RX_CELL_CNT n) 1).evLeaves c

/-- One event of an accepted cell: into the wheel, or offered to the core, marked LATE where it is (R140). -/
def State.evPlace (s : State) (n : Nat) (c : EvIn) (w : Word) : State :=
  let v := s.ncStep n
  let d := dueIn v c.imm c.ep w
  if 0 < d then s.onCore n fun x => { x with wheel := x.wheel ++ [((v + d.toNat) % 64, w)] }
  else if d = 0 then s.onCore n fun x => { x with input := x.input ++ [w] }
  else (s.count (Reg.NC_LATE_CNT n) 1).onCore n fun x => { x with input := x.input ++ [w ||| 0x80000000] }

/-- The wheel places a cell needs in step v. -/
def wheelNeed (v : Nat) (c : EvIn) : Nat := (c.events.filter fun w => decide (0 < dueIn v c.imm c.ep w)).length

/-- Whether the router can take a cell whole (R132, R142). -/
def State.evRoom (s : State) (n : Nat) (c : EvIn) : Bool :=
  (!s.fbit (Reg.NC_CTL_EN n) && !s.fbit (Reg.NC_STATUS_INIT n))
  || decide ((s.core n).wheel.length + wheelNeed (s.ncStep n) c ≤ 2048)

/-- A cell taken whole: placed, or discarded where the core is disabled (R132, R140). -/
def State.evTake (s : State) (n : Nat) (c : EvIn) : State :=
  let s := s.evAccepted n c
  if !s.fbit (Reg.NC_CTL_EN n) && !s.fbit (Reg.NC_STATUS_INIT n) then s.evDiscard n c.events.length
  else forL c.events (fun w s => s.evPlace n c w) s

/-- Cells left on the mesh are taken as far as there is room; a cell that then finds none begins a stall of its own, unless
it is the one whose stall has been counted (R142). -/
def State.evDrain (s : State) (n : Nat) (counted : Bool) : List EvIn → State
  | [] => s.onCore n fun x => { x with mesh := [] }
  | c :: r =>
    if s.evRoom n c then State.evDrain (s.evTake n c) n false r
    else (s.iff (!counted) fun s => s.count (Reg.NC_WHEEL_FULL_CNT n) 1).onCore n fun x => { x with mesh := c :: r }

/-- EV_CELL_ACCEPT (R131, R140, R142, R309): a router takes an EV cell whole, or leaves it on the mesh while the wheel has
too few places; at an absent core it sinks the cell, which so leaves the mesh (log entry 46). link is the Ibnum link it came by. -/
def execEvCellAccept (n : Fin 1024) (imm ep : Bool) (events : List Word) (link : Option (Fin 12)) (s : State) :
    Host.Outcome State Fault Refusal :=
  .next (s.alive fun s =>
    let c : EvIn := ⟨imm, ep, events, link.map Fin.val⟩
    if events.isEmpty || decide (10 < events.length) then s.count Reg.MESH_TYPE_ERR_CNT 1
    else if s.coreAbsent n then (s.evLeaves c).count Reg.MESH_BAD_DST_CNT 1
    else if !(s.core n).mesh.isEmpty then s.onCore n fun x => { x with mesh := x.mesh ++ [c] }
    else if s.evRoom n c then (s.evTake n c).ncStatus n
    else (s.count (Reg.NC_WHEEL_FULL_CNT n) 1).onCore n fun x => { x with mesh := [c] })

end Sys2Proof.Machine
end

