-- ==== Sys2Proof/Machine/Bcast.lean ====
section
/-! DEFINITION. Firmware broadcast: the receivers of neuron cores and sequencer cores (R480 to R482). -/

namespace Sys2Proof.Machine

/-- Receiver r. -/
def State.recv (s : State) (r : Nat) : Receiver := tabGet (fun _ => Receiver.init) s.bc r

/-- Receiver r set. -/
def State.setRecv (s : State) (r : Nat) (v : Receiver) : State := { s with bc := tabPut (fun _ => Receiver.init) s.bc r v }

/-- Whether receiver r's target is enabled: NC_CTL.EN, or SEQ_CTL.RUN (R481). -/
def State.targetOn (s : State) (r : Nat) : Bool :=
  if r < 1024 then s.fbit (Reg.NC_CTL_EN r) else s.fbit (Reg.SEQ_CTL_RUN (r - 1024))

/-- The address of byte 0 of receiver r's memory: a core's window, a sequencer core's local memory. -/
def recvBase (r : Nat) : Nat := if r < 1024 then 0x81000000000 + r * 0x200000 else 0x83100000000 + (r - 1024) * 0x40000

/-- The chunks of a session that are missing, ascending. -/
def Receiver.missing (v : Receiver) : List Nat := (List.range v.nchunk).filter fun i => !v.bitmap.getLsbD i

/-- STATE of receiver r (R489): 0 IDLE, 1 RECEIVING, 2 ACCEPTED, 3 REJECTED, 4 INCOMPLETE, 5 REFUSED. -/
def State.recvState (s : State) (r : Nat) : Nat := s.fget (Reg.BRX_STATUS_STATE r)

/-- STATE of receiver r set. -/
def State.setRecvState (s : State) (r v : Nat) : State := s.fset (Reg.BRX_STATUS_STATE r) v

/-- NMISS, saturating at 4,095, and the exact count (R489). -/
def State.showMissing (s : State) (r : Nat) : State :=
  let n := (s.recv r).missing.length
  (s.fset (Reg.BRX_STATUS_NMISS r) (min 4095 n)).fset (Reg.BRX_MISS_COUNT r) n

/-- The region of receiver r's session set to zero. -/
def State.zeroRegion (s : State) (r : Nat) : State :=
  s.mzero (recvBase r + (s.recv r).offset) (512 * (s.recv r).nchunk)

/-- The receivers a BC_OPEN selects on this device: class, device mask, indices FIRST to LAST (R480). -/
def State.selected (s : State) (seqs : Bool) (mask first last : Nat) : List Nat :=
  if !bit mask s.devid then []
  else if seqs then ((List.range 128).filter fun i => decide (first ≤ i) && decide (i ≤ last)).map (· + 1024)
  else (List.range 1024).filter fun i => decide (first ≤ i) && decide (i ≤ last)

/-- One receiver meets a BC_OPEN (R481): a disabled target joins with its bitmap clear, an enabled one is REFUSED; a
replaced session's region becomes unpredictable. -/
def State.bcOpen1 (s : State) (v : Receiver) (r : Nat) : State :=
  if s.targetOn r then (s.setRecv r { Receiver.init with session := v.session }).setRecvState r 5
  else
    let old := s.recv r
    let s := if s.recvState r = 1 ∧ old.session ≠ v.session then s.mopen (recvBase r + old.offset) (512 * old.nchunk) else s
    (((s.setRecv r v).setRecvState r 1).fset (Reg.BRX_STATUS_SESSION r) v.session).showMissing r

/-- BC_OPEN (R480, R481). -/
def execBcOpen (session : BitVec 16) (seqs : Bool) (mask : BitVec 8) (first last : BitVec 16) (offset : Word) (nchunk : BitVec 16)
    (digest : BitVec 256) (s : State) : Host.Outcome State Fault Refusal :=
  .next (s.alive fun s =>
    let v : Receiver := ⟨session.toNat, offset.toNat, min 4096 nchunk.toNat, leBytes 32 digest.toNat, 0, false⟩
    forL (s.selected seqs mask.toNat first.toNat last.toNat) (fun r s => s.bcOpen1 v r) s)

/-- Receiver r meets a chunk of a session (R481): in its session and RECEIVING it writes the chunk and sets its bit; an
INDEX at or above NCHUNK is counted and ignored. -/
def State.bcChunk1 (s : State) (session index : Nat) (data : List Byte) (r : Nat) : State :=
  let v := s.recv r
  if s.recvState r ≠ 1 ∨ v.session ≠ session then s
  else if v.nchunk ≤ index then s.count (Reg.BRX_ERR_CNT r) 1
  else
    let s := s.mwrite (recvBase r + v.offset + 512 * index) (data.take 512)
    (s.setRecv r { v with bitmap := v.bitmap ||| BitVec.ofNat 4096 (2 ^ index) }).showMissing r

/-- All receivers of the device. -/
def allRecv : List Nat := List.range 1152

/-- BC_CHUNK (R481). -/
def execBcChunk (session index : BitVec 16) (data : List Byte) (s : State) : Host.Outcome State Fault Refusal :=
  .next (s.alive fun s => forL allRecv (fun r s => s.bcChunk1 session.toNat index.toNat data r) s)

/-- BC_REPAIR (R481): as a chunk, for one receiver. -/
def execBcRepair (r : Fin 1152) (session index : BitVec 16) (data : List Byte) (s : State) : Host.Outcome State Fault Refusal :=
  .next (s.alive fun s => s.bcChunk1 session.toNat index.toNat data r)

/-- Runs of consecutive numbers in an ascending list: first and length. -/
def runsOf : List Nat → List (Nat × Nat)
  | [] => []
  | a :: r =>
    match runsOf r with
    | (b, n) :: t => if b = a + 1 then (a, n + 1) :: t else (a, 1) :: (b, n) :: t
    | [] => [(a, 1)]

/-- The words of a REPORT (R480): SESSION, ROUND, STATE, NMISS, the lowest eight missing ranges. -/
def State.reportWords (s : State) (r round : Nat) : List Nat :=
  let v := s.recv r
  let miss := if s.recvState r = 1 then v.missing else []
  let pairs := (runsOf miss).take 8
  [v.session, round, s.recvState r, miss.length] ++ pairs.flatMap (fun p => [p.1, p.2]) ++ List.replicate (16 - 2 * pairs.length) 0

/-- Receiver r meets a BC_POLL (R481): with every chunk in it starts hashing; it answers with a REPORT. -/
def State.bcPoll1 (s : State) (session round r : Nat) : State :=
  let v := s.recv r
  if s.recvState r = 0 ∨ v.session ≠ session then s
  else
    let s := if s.recvState r = 1 ∧ v.missing = [] then s.setRecv r { v with hashing := true } else s
    s.emit (.ctrl 11 (s.reportWords r round))

/-- BC_POLL (R481). -/
def execBcPoll (session round : BitVec 16) (s : State) : Host.Outcome State Fault Refusal :=
  .next (s.alive fun s => forL allRecv (fun r s => s.bcPoll1 session.toNat round.toNat r) s)

/-- BC_HASH_END (R481): the region's SHA-256 equals DIGEST: ACCEPTED; else REJECTED and the region zero. -/
def execBcHashEnd (r : Fin 1152) (s : State) : Host.Outcome State Fault Refusal :=
  .next (s.alive fun s =>
    let v := s.recv r
    if v.hashing && decide (s.recvState r = 1) then
      let h := sha256 (s.mread (recvBase r + v.offset) (512 * v.nchunk))
      let s := s.setRecv r { v with hashing := false }
      if h = v.digest then s.setRecvState r 2 else (s.zeroRegion r).setRecvState r 3
    else s)

/-- BC_REPORT (R480): the master takes a receiver's report. -/
def execBcReport (words : List (BitVec 16)) (s : State) : Host.Outcome State Fault Refusal :=
  .next (s.alive fun s => { s with bcReports := words.map BitVec.toNat :: s.bcReports })

/-- Receiver r meets a BC_CLOSE (R481): still RECEIVING, it is INCOMPLETE and its region zero. -/
def State.bcClose1 (s : State) (session r : Nat) : State :=
  if s.recvState r = 1 ∧ (s.recv r).session = session then
    ((s.zeroRegion r).setRecv r { s.recv r with hashing := false }).setRecvState r 4
  else s

/-- BC_CLOSE (R481). -/
def execBcClose (session : BitVec 16) (s : State) : Host.Outcome State Fault Refusal :=
  .next (s.alive fun s => forL allRecv (fun r s => s.bcClose1 session.toNat r) s)

/-- A receiver returns to IDLE (R482): it belongs to no session. -/
def State.recvIdle (s : State) (r : Nat) : State :=
  ((s.setRecv r Receiver.init).setRecvState r 0).showMissing r

/-- BRX_CLEAR (R482): a write of 1 to CLR. -/
def execBrxClear (m : Master) (r : Fin 1152) (s : State) : Host.Outcome State Fault Refusal :=
  .next (s.alive fun s => s.guarded m (Reg.BRX_STATUS r) fun s => s.recvIdle r)

/-- Whether receiver r stops its target from being enabled: RECEIVING, REJECTED or INCOMPLETE (R482). -/
def State.recvBlocks (s : State) (r : Nat) : Bool := decide (s.recvState r = 1) || decide (s.recvState r = 3) || decide (s.recvState r = 4)

/-- The target is enabled after ACCEPTED: its receiver returns to IDLE (R482). -/
def State.recvEnabled (s : State) (r : Nat) : State := if s.recvState r = 2 then s.recvIdle r else s

end Sys2Proof.Machine
end

