-- ==== Sys2Proof/Machine/Power.lean ====
section
/-! DEFINITION. Supplies, operating points, the power ceiling, temperature (R552 to R563, R583 to R585). -/

namespace Sys2Proof.Machine

/-! ### PWR_GOOD and the supplies -/

/-- PWR_GOOD_RISE (R583, R440): the straps are sampled; the chip reset ends unless a supply holds it. While the TAP's override holds
PWR_GOOD low there is no rise (R595). -/
def execPwrGoodRise (devid : Fin 8) (standby : Bool) (s : State) : Host.Outcome State Fault Refusal :=
  .next (if 0 ∈ s.aon.held ∧ s.aon.tapHold = false then (s.onAon fun a => { a with straps := (devid.val, standby), goodAt := s.time }).release 0 else s)

/-- PWR_GOOD_FALL (R584): a chip reset, held until PWR_GOOD rises. -/
def execPwrGoodFall (s : State) : Host.Outcome State Fault Refusal := .next (s.hold 0).chipReset

/-- SUPPLY_OUT_OF_RANGE (R554): in service VIN_W or VIN_E outside its range raises SUPPLY, which stands while it lasts. -/
def execSupplyOutOfRange (east : Bool) (s : State) : Host.Outcome State Fault Refusal :=
  .next (s.alive fun s =>
    let i := if east then 1 else 0
    ((s.onAon fun a => { a with supplyOut := if i ∈ a.supplyOut then a.supplyOut else i :: a.supplyOut }).setCause 25 true).raise 25 9 0 0)

/-- SUPPLY_COLLAPSE (R585): below 1.50 V a CHIP_RESET reaction with source SUPPLY, held until the supply is back. -/
def execSupplyCollapse (east : Bool) (s : State) : Host.Outcome State Fault Refusal :=
  .next (s.alive fun s =>
    let i := if east then 1 else 0
    (s.onAon fun a => { a with supplyOut := if i ∈ a.supplyOut then a.supplyOut else i :: a.supplyOut }).resetHeldBy 25 1)

/-- VAON_LOW (R585): a chip reset held until VAON returns; FLT_PREV is lost below 1.20 V. -/
def execVaonLow (lost : Bool) (s : State) : Host.Outcome State Fault Refusal :=
  .next (let s := (s.hold 2).chipReset
         if lost then (s.wrZeros ((List.range 6).map Reg.FLT_PREV)).foff Reg.FLT_STATUS_PREV_VALID else s)

/-- SUPPLY_RETURN (R585): a VIN supply (0 West, 1 East) or VAON (2) is back in range; the held reset ends and the
standing cause of SUPPLY clears. -/
def execSupplyReturn (supply : Fin 3) (s : State) : Host.Outcome State Fault Refusal :=
  .next (if supply = 2 then s.release 2
    else
      let s := s.onAon fun a => { a with supplyOut := a.supplyOut.filter (· ≠ supply.val) }
      if s.aon.supplyOut.isEmpty then (s.setCause 25 false).release 1 else s)

/-! ### Operating points (R556 to R560) -/

/-- The fault of an operating point's value (R558): 1 DCLK above DCLK_MAX, 2 reserved FV, 3 another bad DCLK, 0 good. -/
def State.opBad (s : State) (w : Word) : Nat :=
  let fv := wordGet w 31 29
  let d := wordGet w 23 16
  if s.fget Reg.AON_LIMITS_DCLK_MAX < d then 1
  else if 6 ≤ fv then 2
  else if d % 10 ≠ 0 ∨ d < 40 then 3
  else 0

/-- Whether half h counts as disabled for its operating point: every neuron core and tile has EN = 0 (R558). -/
def State.halfOff (s : State) (h : Nat) : Bool :=
  (List.range 512).all (fun i => !s.fbit (Reg.NC_CTL_EN (h * 512 + i))) && (List.range 32).all (fun i => !s.fbit (Reg.TILE_CTL_EN (h * 32 + i)))

/-- RAMPING shows whether a rail of half h ramps (R559). -/
def State.rampShow (s : State) (h : Nat) : State :=
  s.fflag (Reg.PWR_HALF_STAT_RAMPING h) (s.aon.ramps.contains (2 * h) || s.aon.ramps.contains (2 * h + 1))

/-- The dense rail in mV at dense clock d in units of 10 MHz (R557): a clock between two rows of the table takes the voltage of the
higher row; 0 before a half has a dense clock. -/
def denseRail (d : Nat) : Nat := if d = 0 then 0 else 550 + 50 * ((max 40 d - 40 + 19) / 20)

/-- OP_POINT_CHANGE (R559): a lower dense clock takes effect at once and its rail then ramps down; a higher one waits for
its ramp; the fabric rail ramps at once. Ramp 2h is the fabric rail of half h, 2h + 1 its dense rail. Where both clocks have one
voltage and the rail stands there is nothing to ramp (R557), and a higher clock takes effect at once too. -/
def State.opPointChange (s : State) (h : Nat) : State :=
  let fv := s.fget (Reg.PWR_HALF_OP_FV h)
  let d := s.fget (Reg.PWR_HALF_OP_DCLK h)
  let fab := decide (fv ≠ s.fget (Reg.PWR_HALF_STAT_FV_NOW h))
  let dn := s.fget (Reg.PWR_HALF_STAT_DCLK_NOW h)
  let ramp := decide (denseRail d ≠ denseRail dn) || s.aon.ramps.contains (2 * h + 1)
  let s := if d < dn ∨ ramp = false then s.fset (Reg.PWR_HALF_STAT_DCLK_NOW h) d else s
  let add (b : Bool) (i : Nat) (l : List Nat) := if b && !l.contains i then i :: l else l
  (s.onAon fun a => { a with ramps := add fab (2 * h) (add (decide (d ≠ dn) && ramp) (2 * h + 1) a.ramps) }).rampShow h

/-- RAMP_END (R559): the dense rail's end switches a pending clock, the fabric rail's end brings FV_NOW to the new code. -/
def execRampEnd (h : Fin 2) (dense : Bool) (s : State) : Host.Outcome State Fault Refusal :=
  .next (s.alive fun s =>
    let i := 2 * h.val + (if dense then 1 else 0)
    if s.aon.ramps.contains i then
      let s := s.onAon fun a => { a with ramps := a.ramps.filter (· ≠ i) }
      (if dense then s.fset (Reg.PWR_HALF_STAT_DCLK_NOW h) (s.fget (Reg.PWR_HALF_OP_DCLK h))
       else s.fset (Reg.PWR_HALF_STAT_FV_NOW h) (s.fget (Reg.PWR_HALF_OP_FV h))).rampShow h
    else s)

/-! ### The power ceiling and temperature (R561 to R563) -/

/-- The Array hold set to n sixteenths, at least 8 while a sensor is above TWARN (R561, R562). -/
def State.setHold (s : State) (n : Nat) : State :=
  let n := if s.aon.hot.isEmpty then min n 15 else max 8 (min n 15)
  (s.fset Reg.PWR_STATUS_HOLD n).fflag Reg.PWR_STATUS_CAP (decide (n ≠ 0))

/-- POWER_WINDOW (R561): the window's power of both halves in 0.1 W; above PWR_MAX one sixteenth more is held, below 95 %
of it one is released; PWR_CAP_CNT counts the windows that add a hold. -/
def execPowerWindow (west east : BitVec 16) (s : State) : Host.Outcome State Fault Refusal :=
  .next (s.alive fun s =>
    let s := (s.fset (Reg.PWR_HALF_PWR_P 0) west.toNat).fset (Reg.PWR_HALF_PWR_P 1) east.toNat
    let p := west.toNat + east.toNat
    let pmax := 10 * s.fget Reg.AON_LIMITS_PWR_MAX
    let h := s.fget Reg.PWR_STATUS_HOLD
    if pmax < p then (if h < 15 then (s.setHold (h + 1)).count Reg.PWR_CAP_CNT 1 else s)
    else if 100 * p < 95 * pmax then s.setHold (h - 1)
    else s)

/-- The warning limit: values above 110 behave as 110 (R572). -/
def State.twarn (s : State) : Int := min 110 (s.fget Reg.PWR_THERM_TWARN)

/-- A reading of sensor i: 0 to 7 West, 8 to 15 East, 16 the AON sensor; the registers show the hottest of a half. -/
def State.sensor (s : State) (i : Nat) (c : Int) : State :=
  let s := s.onAon fun a => { a with temps := tabPut (fun _ => 0) a.temps i c }
  let t (j : Nat) := tabGet (fun _ => (0 : Int)) s.aon.temps j
  let top (b : Nat) := ((List.range 7).map fun j => t (b + 1 + j)).foldl max (t b)
  ((s.fset (Reg.PWR_HALF_TEMP_T 0) (wrapInt 8 (top 0))).fset (Reg.PWR_HALF_TEMP_T 1) (wrapInt 8 (top 8))).fset Reg.PWR_THERM_AON_T (wrapInt 8 (t 16))

/-- THERMAL_WARNING (R562): a sensor's reading; when it rises above TWARN, THERMAL is raised and the Array holds are at
least 8/16 while any sensor stays above; when it is no longer above, its part of the standing cause ends. -/
def execThermalWarning (sensor : Fin 17) (celsius : BitVec 8) (s : State) : Host.Outcome State Fault Refusal :=
  .next (s.alive fun s =>
    let s := s.sensor sensor celsius.toInt
    let was := s.aon.hot.contains sensor.val
    let now := decide (s.twarn < celsius.toInt)
    let hot := if now then (if was then s.aon.hot else sensor.val :: s.aon.hot) else s.aon.hot.filter (· ≠ sensor.val)
    let s := s.onAon fun a => { a with hot := hot }
    let s := ((s.fflag Reg.PWR_STATUS_THERM (!hot.isEmpty)).setCause 22 (!hot.isEmpty)).setHold (s.fget Reg.PWR_STATUS_HOLD)
    s.iff (now && !was) fun s => s.raise 22 9 0 0)

/-- THERMAL_STOP (R563): at 120 °C the record is copied to FLT_PREV with source THERMAL, the rails turn off, and a chip
reset is held. -/
def execThermalStop (_sensor : Fin 17) (s : State) : Host.Outcome State Fault Refusal :=
  .next (s.alive fun s => (s.resetHeldBy 22 3).onAon fun a => { a with hot := [] })

/-- THERMAL_RESTART (R563): the AON sensor reads below TWARN − 10 °C and the device starts again from Instar 0. -/
def execThermalRestart (celsius : BitVec 8) (s : State) : Host.Outcome State Fault Refusal :=
  .next (if celsius.toInt < s.twarn - 10 then s.release 3 else s)

end Sys2Proof.Machine
end

