-- ==== Sys2Proof/Machine/Emitter.lean ====
section
/-! DEFINITION. The emitter of a core (R133 to R139, R143 to R147, R152, R302, R314): destination lists, open cells,
budgets by direction, the deferral queue. -/

namespace Sys2Proof.Machine

/-! ### Routes (R301, R302, R314) -/

/-- The global column and row of neuron core n's router (R300). -/
def coreX (n : Nat) : Nat := 32 * coreHalf n + coreCol n

/-- The direction from a router to another: 0 E, 1 W, 2 N, 3 S, 4 L (R143). -/
def direction (x y x' y' : Nat) : Nat := if x < x' then 0 else if x' < x then 1 else if y < y' then 2 else if y' < y then 3 else 4

/-- The direction of a cell of core n for core c of device dev (R143); none where no route exists. -/
def State.cellDir (s : State) (n dev c : Nat) : Option Nat :=
  if dev = s.devid then some (direction (coreX n) (coreRow n) (coreX c) (coreRow c))
  else (s.egress dev (coreHalf c)).map fun k => direction (coreX n) (coreRow n) (portX k) 18

/-- The budget of a direction (R143, R159). -/
def State.budget (s : State) (n d : Nat) : Nat :=
  match d with
  | 0 => s.fget (Reg.NC_BUDGET_E n)
  | 1 => s.fget (Reg.NC_BUDGET_W n)
  | 2 => s.fget (Reg.NC_BUDGET_N n)
  | 3 => s.fget (Reg.NC_BUDGET_S n)
  | _ => s.fget (Reg.NC_BUDGET_L_L n)

/-! ### Sending and deferring (R138, R139, R144 to R146) -/

/-- The charge of direction d raised by one cell. -/
def chargeOne (l : List Nat) (d : Nat) : List Nat := (List.range 5).map fun i => l.getD i 0 + (if i = d then 1 else 0)

/-- A cell leaves in the emission step that boundary e sends: tagged with its parity, charged, counted; SEQ is its index among the step's
(R138, R139, R295). -/
def State.cellOut (s : State) (n e d : Nat) (c : OutCell) : State :=
  let ep := decide (e % 2 = 1)
  let seq := ((s.core n).charge.foldl (· + ·) 0) % 256
  ((((s.onCore n fun x => { x with charge := chargeOne x.charge d }).tree ep 1).count (Reg.NC_TX_CELL_CNT n) 1).send
    (.ev c.dev c.core (coord s.devid (n / 512) 0 (n % 512 / 32) (n % 32) 0) seq false ep c.events))

/-- The order of the deferral queue: OUT_PRI, then neuron; ties in the order of entry (R145). -/
def insertOut (c : OutCell) : List OutCell → List OutCell
  | [] => [c]
  | a :: r => if a.pri < c.pri ∨ (a.pri = c.pri ∧ a.neuron ≤ c.neuron) then a :: insertOut c r else c :: a :: r

/-- The emitter closes a cell: sent within its direction's budget, else deferred (R144); into a full queue the scan is held
and the cell waits (R146). late: the cell belongs to a scan that was held, so it carries DEFERRED. -/
def State.cellClose (s : State) (n e : Nat) (late : Bool) (c : OutCell) : State :=
  let c := if late then { c with events := c.events.map deferredWord } else c
  if !(s.core n).stuck.isEmpty then s.onCore n fun x => { x with stuck := x.stuck ++ [c] }
  else match s.cellDir n c.dev c.core with
    | none => s.count Reg.MESH_NOROUTE_CNT 1
    | some d =>
      if (s.core n).charge.getD d 0 < s.budget n d then s.cellOut n e d c
      else if 1024 ≤ (s.core n).defq.length then s.onCore n fun x => { x with stuck := [c] }
      else (s.onCore n fun x => { x with defq := insertOut { c with events := c.events.map deferredWord } x.defq }).countDeferral (Reg.NC_DEFER_CNT n)

/-- At a boundary queued cells leave first against the new budgets; one whose direction is spent stays and counts again (R145). -/
def State.drainDeferred (s : State) (n e : Nat) : State :=
  let q := (s.core n).defq
  forL q (fun c s =>
    match s.cellDir n c.dev c.core with
    | none => s.count Reg.MESH_NOROUTE_CNT 1
    | some d =>
      if (s.core n).charge.getD d 0 < s.budget n d then s.cellOut n e d c
      else (s.onCore n fun x => { x with defq := x.defq ++ [c] }).countDeferral (Reg.NC_DEFER_CNT n))
    (s.onCore n fun x => { x with defq := [], charge := [] })

/-! ### Open cells and destination lists (R95, R133 to R135) -/

/-- An event added to an open cell of its destination; the answer is the cell when that fills it (R133). -/
def addOpen (dev core pri j : Nat) (w : Word) : List OutCell → Option (List OutCell × Option OutCell)
  | [] => none
  | c :: r =>
    if c.dev = dev ∧ c.core = core then
      let c := { c with pri := min c.pri pri, neuron := min c.neuron j, events := c.events ++ [w] }
      if 10 ≤ c.events.length then some (r, some c) else some (c :: r, none)
    else (addOpen dev core pri j w r).map fun x => (c :: x.1, x.2)

/-- The emitter takes one event (R133): a cell of ten events goes at once; with 16 cells open the oldest goes first. -/
def State.emitEvent (s : State) (n e : Nat) (late : Bool) (dev core pri j : Nat) (w : Word) : State :=
  match addOpen dev core pri j w (s.core n).opens with
  | some (l, full) =>
    let s := s.onCore n fun x => { x with opens := l }
    match full with
    | some c => s.cellClose n e late c
    | none => s
  | none =>
    let fresh : OutCell := ⟨dev, core, pri, j, [w]⟩
    match (s.core n).opens with
    | c :: r =>
      if 16 ≤ (c :: r).length then (s.onCore n fun x => { x with opens := r ++ [fresh] }).cellClose n e late c
      else s.onCore n fun x => { x with opens := x.opens ++ [fresh] }
    | [] => s.onCore n fun x => { x with opens := [fresh] }

/-- Destination-list entry i visited for a firing of neuron j (R134, R135); an entry in error is not sent (R124). -/
def State.emitEntry (s : State) (n e : Nat) (late : Bool) (pri j grade i : Nat) : State :=
  let (s, w) := s.ncWords n (0x140000 + 8 * i) 2
  match w with
  | some [w0, w1] =>
    if !bit w0 31 then s
    else
      let axon := if bit w0 30 then (bits w1 15 0 + j) % 65536 else bits w1 15 0
      let dev := if bit w0 17 then bits w0 20 18 else s.devid
      s.emitEvent n e late dev (bits w0 9 0) pri j (BitVec.ofNat 32 (bits w0 29 24 * 2 ^ 24 + grade * 65536 + axon))
  | _ => s

/-- A firing goes through the neuron's destination list: ascending entries, none past 16,383 (R95, R135). -/
def State.emitList (s : State) (n e : Nat) (late : Bool) (pri j grade dest : Nat) : State :=
  let first := dest / 64
  let k := dest % 64 + 1
  let s := s.iff (decide (16384 < first + k)) fun s => s.count (Reg.NC_ROW_ERR_CNT n) 1
  forN (min k (16384 - first)) (fun i s => s.emitEntry n e late pri j grade (first + i)) s

/-- At the end of the scan the emitter sends every open cell, in the order of their first events (R133). -/
def State.emitOpens (s : State) (n e : Nat) (late : Bool) : State :=
  let q := (s.core n).opens
  forL q (fun c s => s.cellClose n e late c) (s.onCore n fun x => { x with opens := [] })

end Sys2Proof.Machine
end

