-- ==== Sys2Proof/Machine/CoreStep.lean ====
section
/-! DEFINITION. The end of a step at a core (R97, R111 to R120, R141, R146, R177, R600): the scan, the sequence of R112,
held scans, enabling and disabling a core. -/

namespace Sys2Proof.Machine

/-! ### Firing (R113 to R118) -/

/-- A neuron fires in step t (R114, R115): the record it leaves, its grade, and whether the grade was clipped. -/
def NRec.fire (r : NRec) (p : Prof) (t : Nat) : NRec × Nat × Bool :=
  let g := (r.v - (p.theta0 + r.a)).toNat / p.q + 1
  let grade := min 255 g
  let v : Int := if p.zero then 0 else satInt 16 (r.v - g * p.q)
  let r := { r with v := v, a := min 65535 (r.a + grade * p.aInc), tFire := t % 65536,
                    word3 := r.word3 - bits r.word3 7 0 + grade }
  ((r.flag 13 true).flag 12 (decide (255 < g)), grade, decide (255 < g))

/-- A firing of neuron j in step t (R114, R120): its record, the counters, its output record, its events. -/
def State.fireNeuron (s : State) (n e t : Nat) (late : Bool) (j : Nat) (r : NRec) (p : Prof) : State :=
  let (r, grade, clipped) := r.fire p t
  let s := (s.writeRec n j r).count (Reg.NC_FIRE_CNT n) 1
  let s := s.iff clipped fun s => s.count (Reg.NC_CLIP_CNT n) 1
  let s := s.onCore n fun x => { x with scan := x.scan.map fun y => { y with fired := y.fired + 1 } }
  let s := s.iff r.out fun s => s.emit (.outRecord n j grade (t % 2 ^ 32))
  s.iff (!r.nodest) fun s => s.emitList n e late p.pri j grade r.dest

/-- The scan visits neuron j in step t (R113); a record in error is abandoned (R124). A refractory neuron with EN = 0 is not carried
(DESIGN CHOICE, log entry 104). -/
def State.visit (s : State) (n e t : Nat) (late : Bool) (j : Nat) : State :=
  let s := s.onCore n fun x => { x with scan := x.scan.map fun y => { y with dirty := y.dirty + 1 } }
  let (s, r) := s.readRec n j
  match r with
  | none => s
  | some r =>
    let (s, p) := s.readProf n r.profile
    let r := ((r.current p t).flag 8 false).flag 11 false
    match p with
    | none => s.writeRec n j r
    | some p =>
      let past := decide (p.theta0 + (r.a : Int) ≤ r.v)
      if !r.en || !past then s.writeRec n j r
      else if r.refractory p t then (s.writeRec n j ((r.flag 8 true).flag 11 true)).count (Reg.NC_CARRY_CNT n) 1
      else s.fireNeuron n e t late j r p

/-! ### The scan (R113, R139, R146) -/

/-- The dirty neurons of core n in ascending index. -/
def State.dirtyList (s : State) (n : Nat) : List Nat := (List.range 16384).filter fun j => bit (s.mget (winAddr n (16 * j + 13))).toNat 0

/-- The scan in progress goes on until it ends or is held; fuel is the number of neurons left. -/
def State.scanOn (s : State) (n e : Nat) (late : Bool) : Nat → State
  | 0 => s
  | f + 1 =>
    match (s.core n).scan with
    | none => s
    | some x =>
      if !(s.core n).stuck.isEmpty then s
      else match x.todo with
        | [] => s
        | j :: r => State.scanOn ((s.onCore n fun c => { c with scan := some { x with todo := r } }).visit n e x.step late j) n e late f

/-- The scan in progress is run on; when no neuron is left its open cells are sent, and it has ended when no cell waits
for room: NC_LAST then takes its counts. -/
def State.scanRun (s : State) (n e : Nat) (late : Bool) : State :=
  let s := s.scanOn n e late 16384
  match (s.core n).scan with
  | none => s
  | some x =>
    if !(s.core n).stuck.isEmpty || !x.todo.isEmpty then s
    else
      let s := s.emitOpens n e late
      if !(s.core n).stuck.isEmpty then s
      else (s.wrN (Reg.NC_LAST n) (x.fired * 65536 + x.dirty)).onCore n fun c => { c with scan := none }

/-- A scan of step t begins. -/
def State.scanBegin (s : State) (n t : Nat) : State :=
  let l := s.dirtyList n
  s.onCore n fun c => { c with scan := some ⟨t, l, 0, 0⟩ }

/-- The scans that wait run in step order, each after the one before it has ended (R146). -/
def State.scanOwed (s : State) (n e : Nat) : Nat → State
  | 0 => s
  | f + 1 =>
    if (s.core n).scan.isSome then s
    else match (s.core n).owed with
      | [] => s
      | b :: r =>
        let s := (s.onCore n fun c => { c with owed := r, rest := c.rest ++ [b] }).scanBegin n ((b + 2 ^ 32 - 1) % 2 ^ 32)
        State.scanOwed (s.scanRun n e (decide (b ≠ e))) n e f

/-- Cells that waited for room go first, then the held scan resumes; a held scan whose neurons are all done ends (R146). -/
def State.scanResume (s : State) (n e : Nat) : State :=
  if (s.core n).scan.isNone then s
  else
    let q := (s.core n).stuck
    let s := forL q (fun c s => s.cellClose n e true c) (s.onCore n fun c => { c with stuck := [] })
    s.scanRun n e true

/-! ### Enabling and disabling (R97, R181, R482, R600) -/

/-- NC_CTL.EN goes from 0 to 1: the initialising pass begins; with PL_EN = 1 so does the enable clear (R97, R181). -/
def State.ncEnable (s : State) (n : Nat) : State :=
  if s.fbit (Reg.NC_CTL_EN n) then s
  else
    let s := ((s.fon (Reg.NC_CTL_EN n)).fon (Reg.NC_STATUS_INIT n)).joinEnds 0 n
    let s := s.onCore n fun c => { c with plPhase := 0, plOn := false }
    s.iff (s.fbit (Reg.NC_PL_CTL_PL_EN n)) fun s => s.plClear n

/-- NC_CTL.EN goes from 1 to 0 (R600): the scan stops, open and queued cells are discarded without being sent, held events
are discarded and counted; plasticity stops (R181). -/
def State.ncDisable (s : State) (n : Nat) : State :=
  if !s.fbit (Reg.NC_CTL_EN n) then s
  else
    let k := (s.core n).input.length
    let s := (((s.foff (Reg.NC_CTL_EN n)).foff (Reg.NC_STATUS_INIT n)).foff (Reg.NC_EMIT_STATUS_HELD n)).evDiscard n k
    let s := s.onCore n fun c => { c with input := [], charge := [], defq := [], opens := [], stuck := [], scan := none, owed := [], rest := [],
                                          plPhase := 0, plOn := false }
    let s := (s.foff (Reg.NC_PL_STATUS_CLEAR n)).foff (Reg.NC_PL_STATUS_COMMIT n)
    (s.evDrain n true (s.core n).mesh).ncStatus n

/-- A direct write of EN = 1: ignored while the core's broadcast receiver is in state RECEIVING, REJECTED or INCOMPLETE;
an ACCEPTED receiver goes to IDLE (R482). An absent core has no register (R478). -/
def State.coreEnable (s : State) (n : Nat) : State :=
  if s.coreAbsent n || s.fbit (Reg.NC_CTL_EN n) then s
  else
    let r := s.recvState n
    if r = 1 ∨ r = 3 ∨ r = 4 then s.ignored (Reg.NC_CTL n)
    else (s.iff (decide (r = 2)) fun s => s.recvIdle n).ncEnable n

/-- CORE_ENABLE (R97). -/
def execCoreEnable (m : Master) (n : Fin 1024) (s : State) : Host.Outcome State Fault Refusal :=
  .next (s.alive fun s => s.guarded m (Reg.NC_CTL n) fun s => s.coreEnable n)

/-- CORE_DISABLE (R600). -/
def execCoreDisable (m : Master) (n : Fin 1024) (s : State) : Host.Outcome State Fault Refusal :=
  .next (s.alive fun s => s.guarded m (Reg.NC_CTL n) fun s => s.ncDisable n)

/-- The initialising pass over one record (R97); a record in error is left (R124). -/
def State.initRec (s : State) (n j : Nat) : State :=
  let (s, r) := s.readRec n j
  match r with
  | some r => s.writeRec n j (({ r with tUpd := s.ncStep n % 65536 }.flag 8 false).flag 13 false |>.flag 11 false |>.flag 12 false)
  | none => s

/-- INIT_PASS_END (R97): every record has been initialised, INIT clears, and the events held during the pass are integrated
as events of this step. -/
def execInitPassEnd (n : Fin 1024) (s : State) : Host.Outcome State Fault Refusal :=
  .next (s.alive fun s =>
    if !s.fbit (Reg.NC_STATUS_INIT n) then s
    else ((((forN 16384 (fun j s => s.initRec n j) s).foff (Reg.NC_STATUS_INIT n)).takeAll n (s.ncStep n)).ncStatus n))

/-! ### Steps 3 to 6 of R112 -/

/-- What an entry says of the enable of core n: 1, 0, or nothing. -/
def enSays (n : Nat) (e : Word × Word × Word) : Option Bool :=
  if chrTarget e.1 = .reg (Reg.NC_CTL n) ∧ e.2.2.getLsbD 31 = true then some (e.2.1.getLsbD 31) else none

/-- One entry at a core: its disable acts at once, its enable waits for the last entry; the second part says that one waits. -/
def State.coreEntry (n : Nat) (p : State × Bool) (e : Word × Word × Word) : State × Bool :=
  let was := p.1.fbit (Reg.NC_CTL_EN n)
  let t := (p.1.applyEntry e).fflag (Reg.NC_CTL_EN n) was
  match enSays n e with
  | some true => (t, p.2 || !was)
  | some false => (t.ncDisable n, false)
  | none => (t, p.2)

/-- Chrysalis entries due at boundary e that name the core's window or registers are written, in order; a
batch that disables and enables the core again runs every action of both (R112, R502, R505). -/
def State.coreEntries (s : State) (n e : Nat) : State :=
  let l := if e < s.chr.due then [] else s.chr.shadow.filter fun x => decide (x.1 = n)
  let s := if e < s.chr.due then s else s.onChr fun c => { c with shadow := c.shadow.filter fun x => decide (x.1 ≠ n) }
  let p := l.foldl (fun p x => State.coreEntry n p x.2) (s, false)
  p.1.iff p.2 fun s => s.ncEnable n

/-- The sweep of step t (R111): one neuron brought up to date, an old RECENT cleared, PTR advanced. -/
def State.sweep (s : State) (n t : Nat) : State :=
  let j := s.fget (Reg.NC_SWEEP_PTR n)
  let (s, r) := s.readRec n j
  let s := match r with
    | some r =>
      let (s, p) := s.readProf n r.profile
      let r := r.bringUp p t
      s.writeRec n j (r.forget t)
    | none => s
  s.fset (Reg.NC_SWEEP_PTR n) ((j + 1) % 16384)

/-- The bias events of the step that boundary b opens, in ascending source, taken in during step t (R119). -/
def State.biasEvents (s : State) (n b t : Nat) : State :=
  forN 4 (fun i s =>
    if s.fbit (Reg.NC_BIAS_A_EN n i) && decide (b % 2 ^ 32 % max 1 (s.fget (Reg.NC_BIAS_B_PERIOD n i)) = s.fget (Reg.NC_BIAS_B_PHASE n i)) then
      s.takeEvent n t (s.fget (Reg.NC_BIAS_A_AXON n i)) (s.fget (Reg.NC_BIAS_A_VALUE n i))
    else s) s

/-- Steps 3 to 5 of R112 for boundary b, in step t, and what the boundary does to plasticity. -/
def State.afterScan (s : State) (n b t : Nat) : State :=
  let s := s.coreEntries n b
  if !s.ncRuns n then s
  else (((s.plBoundary n).sweep n t).biasEvents n b t)

/-! ### The token (R97, R112, R137, R141, R146) -/

/-- The router releases the wheel's slot of the new step (R141). -/
def State.wheelRelease (s : State) (n v : Nat) : State :=
  let l := ((s.core n).wheel.filter fun x => decide (x.1 = v % 64)).map Prod.snd
  let s := s.onCore n fun c => { c with wheel := c.wheel.filter fun x => decide (x.1 ≠ v % 64) }
  if s.fbit (Reg.NC_CTL_EN n) || s.fbit (Reg.NC_STATUS_INIT n) then s.onCore n fun c => { c with input := c.input ++ l }
  else s.evDiscard n l.length

/-- The whole sequence of R112 at boundary e of an enabled core; with a scan held, that of R146. Over several boundaries of one hold
the wheel's events of a later step stand behind those held at the input before (DESIGN CHOICE, log entry 104). -/
def State.coreSequence (s : State) (n e : Nat) : State :=
  let t := e % 2 ^ 32
  let s := if s.ncHeld n then s else s.takeAll n ((e + 2 ^ 32 - 1) % 2 ^ 32)
  let s := s.wheelRelease n e
  let s := (s.drainDeferred n e).onCore n fun c => { c with owed := c.owed ++ [e] }
  let s := s.scanResume n e
  let s := s.scanOwed n e ((s.core n).owed.length + 1)
  let s := s.fflag (Reg.NC_EMIT_STATUS_HELD n) (s.ncHeld n)
  let s := s.reportEnd 0 n e
  if s.ncHeld n then s
  else
    let l := (s.core n).rest
    let s := forL l (fun b s => s.afterScan n b t) (s.onCore n fun c => { c with rest := [] })
    if s.ncRuns n then s.takeAll n t else s

/-- The token of boundary e at core n. -/
def State.coreToken (s : State) (n e : Nat) : State :=
  let s := (s.wrN (Reg.NC_STEP n) (e % 2 ^ 32)).onCore n fun c => { c with tok := e + 1 }
  let s :=
    if s.ncRuns n then s.coreSequence n e
    else
      let s := s.iff (s.fbit (Reg.NC_CTL_EN n)) fun s => s.reportEnd 0 n e
      let s := (s.wheelRelease n e).coreEntries n e
      s.iff (s.fbit (Reg.NC_CTL_EN n)) fun s => s.plBoundary n
  (s.evDrain n true (s.core n).mesh).ncStatus n

/-- The next boundary token of core n: a new run of the step generator starts at its own first boundary. -/
def State.nextToken (s : State) (n : Nat) : Nat := if (s.core n).run = s.tb.run then (s.core n).tok else s.tb.firstU

/-- STEP_TOKEN (R112): the token of the next boundary that has been issued reaches core n. errs are the memory errors met
in the sequence, scrub those that the patrol scrub found: window offset, uncorrectable. -/
def execStepToken (n : Fin 1024) (errs scrub : List (BitVec 21 × Bool)) (s : State) : Host.Outcome State Fault Refusal :=
  .next (s.alive fun s =>
    let e := s.nextToken n
    if s.coreAbsent n || decide (s.tb.nextU ≤ e) then s
    else
      let s := ((s.ncErrors n errs).onCore n fun c => { c with run := s.tb.run }).coreToken n e
      s.ncScrub n scrub)

end Sys2Proof.Machine
end

