-- ==== Sys2Proof/Machine/Exchange.lean ====
section
/-! DEFINITION. The masters of loads and stores, a core's private addresses (R216, R353), patrol scrubs of slices and local memories (R403, R404), the
sequencer cores' machine timer (R215). -/

namespace Sys2Proof.Machine

/-- The region set of a master's loads and stores. -/
def whoOf : Master → Who
  | .aon => .aon
  | .jtag => .jtag
  | .pcie => .pcie
  | .app _ _ => .app
  | .seq i => .seq i

/-- The answer to an access: the value read or an acknowledgement, or its refusal; an access that left the device is answered
by its reply. -/
def State.answer (s : State) (status a : Nat) (e : Emit) : State :=
  if status = 0 then s.emit e else if status = 8 then s else s.emit (.refused status a)

/-! ### Private addresses of a core (R20, R196, R216, R353) -/

/-- The owner number of a core (R333). -/
def coreOwner : Master → Option Nat
  | .seq i => some i
  | .app c _ => some (128 + c)
  | _ => none

/-- The private offset of an access of a core; none for another address and for another master, which a private address is not
mapped for (R20). -/
def privateOff (m : Master) (a : Nat) : Option (Nat × Nat) :=
  match placeOf a, coreOwner m with
  | .own off, some o => some (o, off)
  | _, _ => none

/-- A sync port of core o sends an operation on an object of the device SYNC_PORT_CFG selects; a watch names the core's queue
WQUEUE; it waits at the interface while no reply cell is free (R310, R353, R356, R367). -/
def State.portOp (s : State) (o obj op v : Nat) : State :=
  s.request (ownerCoord s.devid o) 1 fun tag =>
    .sync (if s.fbit (Reg.SYNC_PORT_CFG_REMOTE o) then s.fget (Reg.SYNC_PORT_CFG_DEV o) else s.devid) obj op v
      (if 2 ≤ op ∧ op ≤ 3 then qnOf s.devid o (s.fget (Reg.SYNC_PORT_CFG_WQUEUE o)) else 0) (ownerCoord s.devid o + tag * 2 ^ 22)

/-- Whether a private offset is a byte of a sequencer core's own local memory (R216). -/
def ownMemory (o off n : Nat) : Bool := decide (o < 128) && decide (off + n ≤ 0x40000)

/-- The local address of a byte of core o's own local memory: its global window (R216). -/
def ownAddr (o off : Nat) : Nat := 0x83100000000 + o * 0x40000 + off

/-- The words a write stores whole, with their addresses. -/
def wholeWords (l : List (Nat × Byte)) : List (Nat × Nat) :=
  l.filterMap fun x =>
    if x.1 % 4 = 0 ∧ (l.filter fun y => decide (y.1 / 4 = x.1 / 4)).length = 4 then
      some (x.1, leNat ((l.filter fun y => decide (y.1 / 4 = x.1 / 4)).map Prod.snd))
    else none

/-! ### Patrol scrubs, the machine timer -/

/-- A patrol scrub of n bytes at a local address: errors are corrected and recorded, nothing consumes the data (R404). -/
def State.scrub (s : State) (a n : Nat) (ecc : Ecc) : State := (s.readErrors a n 0 ecc false).1

/-- The address of granule g of slice i (R219). -/
def sliceAddr (i g : Nat) : Nat := 0x80000000000 + g * 2 ^ 14 + i * 64

/-- SLICE_PATROL_SCRUB (R403): one granule of a bank is scrubbed, in idle slots of a half that runs. -/
def execSlicePatrolScrub (i : Fin 256) (g : Fin 49152) (ecc : Ecc) (s : State) : Host.Outcome State Fault Refusal :=
  .next (s.alive fun s =>
    if s.tileAbsent (i / 4) || decide (s.islState (72 + i / 128) ≠ 0) then s else s.scrub (sliceAddr i g) 64 ecc)

/-- SEQ_PATROL_SCRUB (R403): one word of a sequencer core's local memory is scrubbed. -/
def execSeqPatrolScrub (i : Fin 128) (w : BitVec 16) (ecc : Ecc) (s : State) : Host.Outcome State Fault Refusal :=
  .next (s.alive fun s =>
    if s.tileAbsent (i / 2) || decide (s.islState (i / 2) ≠ 0) then s else s.scrub (0x83100000000 + i * 0x40000 + 4 * w.toNat) 4 ecc)

/-- MACHINE_TIMER (R215, R567): the system counter has reached SEQ_MTIMECMP of a running core, which takes the machine timer
interrupt; a roosting tile wakes for it. -/
def execMachineTimer (i : Fin 128) (s : State) : Host.Outcome State Fault Refusal :=
  .next (s.alive fun s =>
    if s.fbit (Reg.SEQ_CTL_RUN i) && decide (s.rd64 (Reg.SEQ_MTIMECMP_LO i) ≤ s.now) then (s.wakeIsland (i / 2) 4).emitIrq i 3 0 true else s)

end Sys2Proof.Machine
end

