-- ==== Sys2Proof/Machine/Dma.lean ====
section
/-! DEFINITION. DMA channels and their programs (chapter 11). Channel 16·engine + c: tile engines 0 to 63 with channels 0
to 3, bulk engines 64 and 65 with channels 0 to 15. -/

namespace Sys2Proof.Machine

/-! ### A channel's registers (R370, R390, R391) -/

/-- Whether a channel belongs to a tile engine. -/
def dmaTile (ch : Nat) : Bool := decide (ch < 1024)

/-- Whether the channel is there. -/
def State.dmaThere (s : State) (ch : Nat) : Bool :=
  if dmaTile ch then decide (ch % 16 < 4) && !s.tileAbsent (ch / 16) else decide (ch < 1056)

/-- What channel ch does, of a chip that is up; a channel that is not there does nothing. -/
def State.dmaUp (s : State) (ch : Nat) (f : State → State) : State := s.alive fun s => if s.dmaThere ch then f s else s

/-- xDMA_CTL: START, PAUSE or DISABLE, IE, ICORE or HOST. -/
def dmaCtl (ch : Nat) : Nat := dmaBase ch
def dmaStart (ch : Nat) : FieldRef := ⟨dmaCtl ch, 31, 31⟩
def dmaPauseBit (ch : Nat) : FieldRef := ⟨dmaCtl ch, 30, 30⟩
def dmaIe (ch : Nat) : FieldRef := ⟨dmaCtl ch, 29, 29⟩
def dmaSel (ch : Nat) : FieldRef := ⟨dmaCtl ch, 28, 28⟩

/-- The engine's counters: 0 BYTE, 1 END, 2 ERR, 3 NOTICE_DROP, 4 WATCH_RETRY. -/
def dmaCnt (ch k : Nat) : Nat := (if dmaTile ch then Reg.TDMA_BYTE_CNT (ch / 16) else Reg.BDMA_BYTE_CNT (ch / 16 - 64)) + 4 * k

/-- STATE: 0 IDLE, 1 RUN, 2 WAIT, 3 PAUSING, 4 PAUSED, 5 DONE, 6 ERR. -/
def State.dmaState (s : State) (ch : Nat) : Nat := s.fget (Reg.DMA_STATUS_STATE ch)

/-- The interrupt line: IE and IRQ; of the tile core ICORE, or of the application complex (R370). -/
def State.dmaLine (s : State) (ch : Nat) : Bool := s.fbit (dmaIe ch) && s.fbit (Reg.DMA_STATUS_IRQ ch)

/-- The sequencer core whose line a tile channel raises (R370). -/
def State.dmaCore (s : State) (ch : Nat) : Option Nat := if s.dmaLine ch then some (2 * (ch / 16) + s.fget (dmaSel ch)) else none

/-- f, with the line, its core and the MSI-X vector following it (R370). -/
def State.dmaDo (s : State) (ch : Nat) (f : State → State) : State :=
  let t := f s
  if dmaTile ch then
    if t.dmaCore ch = s.dmaCore ch then t
    else
      let t := forL (s.dmaCore ch).toList (fun o x => x.emitIrq o 4 (ch % 16) false) t
      forL (t.dmaCore ch).toList (fun o x => x.emitIrq o 4 (ch % 16) true) t
  else
    (t.iff (decide (t.dmaLine ch ≠ s.dmaLine ch)) fun x => x.emit (.irq 128 4 ch (t.dmaLine ch))).iff
      (t.dmaLine ch && t.fbit (dmaSel ch) && !(s.dmaLine ch && s.fbit (dmaSel ch))) fun x => x.emit (.msix (64 + (ch - 1024)))

/-- The queue name of a channel as a watcher (R370). -/
def State.dmaQn (s : State) (ch : Nat) : Nat := s.devid * 8192 + (256 + ch / 16) * 16 + ch % 16

/-- The program counter. -/
def State.dmaPc (s : State) (ch : Nat) : Nat := s.fget (Reg.DMA_PC_PC ch)

/-- The address of program word pc (R372). -/
def State.dmaAddr (s : State) (ch pc : Nat) : Nat :=
  (s.fget (Reg.DMA_PBASE_LO_BASE ch) * 64 + s.fget (Reg.DMA_PBASE_HI_BASE ch) * 2 ^ 32 + 8 * pc) % 2 ^ 48

/-! ### Errors (R389) -/

/-- A WATCH of channel ch that waits at its interface for a reply cell. -/
def dmaWaits (qn : Nat) : Emit → Bool
  | .sync _ _ op _ wqn _ => (decide (op = 2) || decide (op = 3)) && decide (wqn = qn)
  | _ => false

/-- The channel's watch is no longer pending, and the reply cell it holds is free (R383, R386, R387). -/
def State.dmaUnwatch (s : State) (ch : Nat) : State :=
  let c := dmaCoord s.devid ch
  let d := s.dma ch
  let s := (s.foff (Reg.DMA_STATUS_WPEND ch)).onDma ch fun x => { x with watch := none, again := none }
  if d.watch = none ∨ d.again.isSome then s
  else if (s.iface c).wait.any fun x => dmaWaits (s.dmaQn ch) x.2 then
    s.onIface c fun x => { x with wait := x.wait.filter fun y => !dmaWaits (s.dmaQn ch) y.2 }
  else s.replied c 1

/-- The channel enters ERR: FAULT, IRQ, counted, DMA raised; data read and not yet written is discarded. -/
def State.dmaFail (s : State) (ch code fault : Nat) : State :=
  s.dmaDo ch fun s =>
    let s := (((s.fset (Reg.DMA_STATUS_STATE ch) 6).fset (Reg.DMA_STATUS_ERR ch) code).wr64 (Reg.DMA_FAULT_LO ch) fault).fon (Reg.DMA_STATUS_IRQ ch)
    (((s.dmaUnwatch ch).onDma ch fun d => { d with wait := none, buf := [], err := none }).count (dmaCnt ch 2) 1).raise 16 7 ch code

/-- The channel meets an error: it issues no further request, and once the request that is out is complete it enters ERR (R389). -/
def State.dmaError (s : State) (ch code fault : Nat) : State :=
  if (s.dma ch).wait = none then s.dmaFail ch code fault
  else s.onDma ch fun d => { d with err := some (d.err.getD (code, fault)) }

/-- The awaited request is complete, by its reply or without one. -/
def State.dmaTake (s : State) (ch : Nat) : State := s.onDma ch fun d => { d with wait := none }

/-- An error that waited for the request now complete takes effect (R389). -/
def State.dmaEnds (s : State) (ch : Nat) : State :=
  match (s.dma ch).err with
  | some (code, fault) => s.dmaFail ch code fault
  | none => s

/-- The error of a STATUS code (R389): REGION, UE, else TARGET. -/
def dmaErr (status : Nat) : Nat := if status = 4 then 3 else if status = 5 then 4 else 5

/-! ### Reach (R370, R371) -/

/-- Whether n bytes from a lie within the channel's reach, for a read or a write; what is no memory behind the slices can only be read
(R20, R219). -/
def State.dmaReach (ch a n : Nat) (write : Bool) : Bool :=
  let place (a : Nat) : Bool := match placeOf (localPart a) with
    | .ddr => !dmaTile ch
    | .slice _ => true
    | .sliceSet _ => true
    | .sliceClear _ => true
    | .sliceHole => !write
    | .window _ _ => !dmaTile ch
    | .seqMem i _ => !dmaTile ch || decide (i / 2 = ch / 16)
    | _ => false
  !(dmaTile ch && bit a 47) && place a && place (a + n - 1)

/-! ### The program counter and the program (R372, R373) -/

/-- The channel goes on at word pc: granules outside its window are let go; past the last word it stops (R389). -/
def State.dmaGo (s : State) (ch pc : Nat) : State :=
  let s := (s.fset (Reg.DMA_PC_PC ch) pc).onDma ch fun d => { d with code := d.code.filter fun g => decide (pc / 8 ≤ g.1) && decide (g.1 ≤ pc / 8 + 2) }
  if pc < 131072 then s else s.dmaError ch 2 (s.dmaAddr ch pc)

/-- Word pc, when its granule is held. -/
def State.dmaWord (s : State) (ch pc : Nat) : Option Nat :=
  ((s.dma ch).code.find? fun g => decide (g.1 = pc / 8)).map fun g => g.2.getD (pc % 8) 0

/-- A granule of the program arrives. -/
def State.dmaHold (s : State) (ch g : Nat) (l : List Byte) : State :=
  s.onDma ch fun d => { d with code := (d.code.filter fun x => decide (x.1 ≠ g)) ++ [(g, (List.range 8).map fun k => leNat ((l.drop (8 * k)).take 8))] }

/-- DMA_PROGRAM_FETCH (R372, R373): granule k after that of PC is fetched; a refused granule stops the channel. -/
def execDmaProgramFetch (ch : Fin 1056) (k : Fin 3) (ecc : Ecc) (s : State) : Host.Outcome State Fault Refusal :=
  .next (s.dmaUp ch fun s =>
    let g := s.dmaPc ch / 8 + k.val
    let a := s.dmaAddr ch (8 * g)
    if s.dmaState ch ≠ 1 ∨ (s.dma ch).wait.isSome ∨ 16384 ≤ g then s
    else if !State.dmaReach ch a 64 false then s.dmaError ch 3 a
    else
      let p := s.memRead (.dma ch) 0 a 64 ecc false
      let s := p.1
      let st := p.2.1
      if st = 0 then s.dmaHold ch g p.2.2
      else if st = 8 then s.onDma ch fun d => { d with wait := some ⟨0, a, g, 0, 2, [], s.time⟩ }
      else if st = 10 then (s.onDma ch fun d => { d with wait := some ⟨0, a, g, 0, 2, [], s.time⟩ }).ddrHold ⟨.dma ch, .dma ch, localPart a, 64, [], ecc⟩
      else s.dmaError ch (dmaErr st) a)

/-! ### MOVE (R375, R380, R381) -/

/-- DEPTH and I of level l. -/
def State.dmaDepth (s : State) (ch : Nat) : Nat := s.fget (Reg.DMA_PC_DEPTH ch)
def State.dmaI (s : State) (ch l : Nat) : Nat := s.fget (Reg.DMA_LOOP_CNT_I ch l)

/-- The byte strides of level l. -/
def State.dmaStride (s : State) (ch l : Nat) : Int × Int := tabGet (fun _ => (0, 0)) (s.dma ch).strides l

/-- The address of a MOVE: the word plus the open levels' strides, modulo 2^48 or 2^64 (R376). -/
def State.dmaSum (s : State) (ch : Nat) (src : Bool) (space base : Nat) : Nat :=
  let v : Int := (List.range (s.dmaDepth ch)).foldl (fun a l =>
    a + (s.dmaI ch l : Int) * (if src then (s.dmaStride ch l).1 else (s.dmaStride ch l).2)) (base : Int)
  wrapInt (if space = 1 then 64 else 48) v

/-- A MOVE at PC with its addresses: spaces, length, source, destination. -/
structure MoveOp where
  ssp : Nat
  dsp : Nat
  len : Nat
  src : Nat
  dst : Nat

/-- The MOVE at PC; none where its words are not held. -/
def State.dmaMove (s : State) (ch : Nat) : Option (Nat × Nat × Nat) :=
  let pc := s.dmaPc ch
  match s.dmaWord ch pc, s.dmaWord ch (pc + 1), s.dmaWord ch (pc + 2) with
  | some a, some b, some c => some (a, b, c)
  | _, _, _ => none

/-- Whether a MOVE's words are refused BAD_FIELD (R374, R375). -/
def moveBad (ch a b c : Nat) : Bool :=
  let ssp := bits a 55 54
  let dsp := bits a 53 52
  decide (bits a 59 56 ≠ 0) || decide (bits a 51 32 ≠ 0) || decide (1 < ssp) || decide (1 < dsp) || (dmaTile ch && decide (ssp + dsp ≠ 0))
  || decide (bits a 31 0 = 0) || (decide (ssp = 0) && decide (2 ^ 48 ≤ b)) || (decide (dsp = 0) && decide (2 ^ 48 ≤ c))

/-- Addresses k bytes into a MOVE. -/
def MoveOp.srcAt (m : MoveOp) (k : Nat) : Nat := (m.src + k) % (if m.ssp = 1 then 2 ^ 64 else 2 ^ 48)
def MoveOp.dstAt (m : MoveOp) (k : Nat) : Nat := (m.dst + k) % (if m.dsp = 1 then 2 ^ 64 else 2 ^ 48)

/-- Whether host space may be reached now (R375). -/
def State.hostReady (s : State) : Bool := s.aon.pcieUp && s.aon.pcieBusMaster

/-- Bytes of the present MOVE written. -/
def State.dmaDone (s : State) (ch : Nat) : Nat := (s.rd (Reg.DMA_DONE ch)).toNat

/-- n bytes more have been written: DONE and BYTE_CNT advance; bytes of the overlap of source and destination are
unpredictable (R381); at LEN the channel goes on behind the MOVE. -/
def State.dmaWritten (s : State) (ch : Nat) (m : MoveOp) (n : Nat) : State :=
  let k := s.dmaDone ch
  let lo := max (m.dst + k) m.src
  let hi := min (m.dst + k + n) (m.src + m.len)
  let s := if m.ssp = 0 ∧ m.dsp = 0 ∧ lo < hi ∧ s.isLocal lo then s.mopen (localPart lo) (hi - lo) else s
  let s := s.wrN (dmaCnt ch 0) ((s.rd (dmaCnt ch 0)).toNat + n)
  if m.len ≤ k + n then (s.wr (Reg.DMA_DONE ch) 0).dmaGo ch (s.dmaPc ch + 3) else s.wrN (Reg.DMA_DONE ch) (k + n)

/-- The head of the data read is written: as far as the next 64-byte boundary of the destination, or one host request. -/
def State.dmaWrite1 (s : State) (ch : Nat) (m : MoveOp) : State :=
  let b := (s.dma ch).buf
  let d := m.dstAt (s.dmaDone ch)
  let n := if m.dsp = 1 then min b.length s.aon.pcieMps else min b.length (64 - d % 64)
  let l := b.take n
  let go := s.onDma ch fun x => { x with buf := b.drop n }
  if m.dsp = 1 then
    if s.hostReady then (go.emit (.hostWrite d l)).onDma ch fun x => { x with wait := some ⟨4, d, n, 0, 0, [], s.time⟩ } else s.dmaError ch 5 d
  else if !State.dmaReach ch d n true then s.dmaError ch 3 d
  else
    let (t, st) := go.memWrite (.dma ch) (bytesAt d l) .none
    if st = 0 then t.dmaWritten ch m n
    else if st = 8 then t.onDma ch fun x => { x with wait := some ⟨2, d, n, 0, 0, [], s.time⟩ }
    else if st = 10 then (t.onDma ch fun x => { x with wait := some ⟨2, d, n, 0, 0, [], s.time⟩ }).ddrHold
      ⟨.dma ch, .dma ch, localPart d, 0, (bytesAt d l).map fun x => (localPart x.1, x.2), .none⟩
    else t.dmaError ch (dmaErr st) d

/-- The data read is written until a request must wait, the channel stops, or nothing is left. -/
def State.dmaWriteOut (s : State) (ch : Nat) (m : MoveOp) : Nat → State
  | 0 => s
  | n + 1 =>
    if (s.dma ch).buf = [] ∨ (s.dma ch).wait.isSome then s else State.dmaWriteOut (s.dmaWrite1 ch m) ch m n

/-- The next read of a MOVE with n bytes left: a request that ends at the next 256-byte boundary of the source (R380, R381), or at the host's
limit (R375). -/
def State.dmaRead1 (s : State) (ch : Nat) (m : MoveOp) (n : Nat) (ecc : Ecc) : State :=
  let a := m.srcAt (s.dmaDone ch)
  if m.ssp = 1 then
    let k := min n (s.aon.pcieMrrs - a % 4)
    if s.hostReady then
      (s.emit (.hostRead (a / 4 * 4) ((a % 4 + k + 3) / 4 * 4))).onDma ch fun x => { x with wait := some ⟨3, a, k, a % 4, 0, [], s.time⟩ }
    else s.dmaError ch 5 a
  else
    let k := min n (256 - a % 256)
    let lo := a / 64 * 64
    let size := (a + k + 63) / 64 * 64 - lo
    if !State.dmaReach ch lo size false then s.dmaError ch 3 a
    else
      let (t, st, l) := s.memRead (.dma ch) 0 lo size ecc false
      if st = 0 then t.onDma ch fun x => { x with buf := (l.drop (a - lo)).take k }
      else if st = 8 then t.onDma ch fun x => { x with wait := some ⟨1, a, k, a - lo, size / 32, [], s.time⟩ }
      else if st = 10 then (t.onDma ch fun x => { x with wait := some ⟨1, a, k, a - lo, size / 32, [], s.time⟩ }).ddrHold
        ⟨.dma ch, .dma ch, localPart lo, size, [], ecc⟩
      else t.dmaError ch (dmaErr st) a

/-- A MOVE proceeds by its next requests until n bytes have been copied; ecc names errors met by the reads, by their order. -/
def State.dmaProceed (s : State) (ch : Nat) (m : MoveOp) (pc n : Nat) (ecc : List (Nat × Ecc)) : Nat → State
  | 0 => s
  | fuel + 1 =>
    if n = 0 ∨ s.dmaState ch ≠ 1 ∨ s.dmaPc ch ≠ pc ∨ (s.dma ch).wait.isSome then s
    else
      let k := s.dmaDone ch
      let here := ((ecc.find? fun e => decide (e.1 = 0)).map Prod.snd).getD .none
      let s := s.dmaRead1 ch m (m.len - k) here
      let got := (s.dma ch).buf.length
      let s := s.dmaWriteOut ch m (got + 1)
      State.dmaProceed s ch m pc (n - max 1 got) (ecc.filterMap fun e => if e.1 = 0 then none else some (e.1 - 1, e.2)) fuel

/-- The MOVE that the words spell at the present loop counts. -/
def State.dmaMoveOp (s : State) (ch : Nat) (w : Nat × Nat × Nat) : MoveOp :=
  let ssp := bits w.1 55 54
  let dsp := bits w.1 53 52
  ⟨ssp, dsp, bits w.1 31 0, s.dmaSum ch true ssp w.2.1, s.dmaSum ch false dsp w.2.2⟩

/-- An instruction of opcode op at PC, executed by a running channel that awaits nothing. -/
def State.dmaOp (s : State) (ch op : Nat) (f : Nat → State → State) : State :=
  match s.dmaWord ch (s.dmaPc ch) with
  | some w => if s.dmaState ch = 1 ∧ (s.dma ch).wait = none ∧ bits w 63 60 = op then f w s else s
  | none => s

/-- BAD_FIELD of the word at PC. -/
def State.dmaBadField (s : State) (ch : Nat) : State := s.dmaError ch 2 (s.dmaAddr ch (s.dmaPc ch))

/-- MOVE (R375, R380, R381): the MOVE at PC copies its next bytes, in whole requests until n have been copied, all that are left when n
reaches LEN. -/
def execMove (ch : Fin 1056) (n : Word) (ecc : List (BitVec 32 × Ecc)) (s : State) : Host.Outcome State Fault Refusal :=
  .next (s.dmaUp ch fun s => s.dmaOp ch 1 fun _ s =>
    let pc := s.dmaPc ch
    if 131072 ≤ pc + 2 then s.dmaError ch 2 (s.dmaAddr ch (pc + 2))
    else match s.dmaMove ch with
      | none => s
      | some w =>
        if moveBad ch w.1 w.2.1 w.2.2 then s.dmaBadField ch
        else s.dmaProceed ch (s.dmaMoveOp ch w) pc n.toNat (ecc.map fun e => (e.1.toNat, e.2)) (n.toNat + 1))

/-! ### Replies (R375, R378, R387, R389) -/

/-- The MOVE at PC goes on with the data it has read. -/
def State.dmaResumeMove (s : State) (ch : Nat) : State :=
  match s.dmaMove ch with
  | some w => s.dmaWriteOut ch (s.dmaMoveOp ch w) ((s.dma ch).buf.length + 1)
  | none => s

/-- The data of the awaited read has come; of a read behind an error it is discarded. -/
def State.dmaData (s : State) (ch : Nat) (w : DmaWait) (l : List Byte) : State :=
  let s := s.dmaTake ch
  if (s.dma ch).err.isSome then s.dmaEnds ch
  else if w.kind = 0 then s.dmaHold ch w.n l
  else (s.onDma ch fun d => { d with buf := (l.drop w.skip).take w.n }).dmaResumeMove ch

/-- The awaited write has been acknowledged. -/
def State.dmaAcked (s : State) (ch : Nat) (w : DmaWait) : State :=
  let s := s.dmaTake ch
  match s.dmaMove ch with
  | some v =>
    let m := s.dmaMoveOp ch v
    let s := s.dmaWritten ch m w.n
    if (s.dma ch).err.isSome then s.dmaEnds ch else s.dmaWriteOut ch m ((s.dma ch).buf.length + 1)
  | none => s.dmaEnds ch

/-- The awaited request has ended in an error of its own. -/
def State.dmaRefused (s : State) (ch : Nat) (w : DmaWait) (code : Nat) : State :=
  let s := s.dmaTake ch
  match (s.dma ch).err with
  | some _ => s.dmaEnds ch
  | none => s.dmaFail ch code w.addr

/-- The first address of a request: a read begins at its granule. -/
def DmaWait.base (w : DmaWait) : Nat := w.addr - w.skip

/-- Whether a reply to a read of a, or to a write of a, answers a request; granules name writes. -/
def DmaWait.isRead (w : DmaWait) (a : Nat) : Bool := decide (w.kind ≤ 1) && decide (w.base = a)
def DmaWait.isWrite (w : DmaWait) (a : Nat) : Bool := decide (w.kind = 2) && decide (w.addr / 64 = a / 64)

/-- A request the channel no longer waits for is complete. -/
def State.dmaFound (s : State) (ch : Nat) (w : DmaWait) : State := s.onDma ch fun d => { d with lost := d.lost.erase w }

/-- A request with a reply more; all of them there: its data. -/
def DmaWait.more (w : DmaWait) (index : Nat) (l : List Byte) : DmaWait :=
  { w with got := tabPut (fun _ => []) w.got index ((l ++ List.replicate 32 0).take 32) }

/-- A read reply of 32 bytes reaches the channel; the request is met when all have come (R297). Data of a request from before a disable is
discarded (R387). -/
def State.dmaRdData (s : State) (ch a index : Nat) (l : List Byte) (poison : Bool) : State :=
  match (s.dma ch).lost.find? fun w => w.isRead a with
  | some w =>
    let x := w.more index l
    if x.got.length < x.need then s.onDma ch fun d => { d with lost := d.lost.map fun y => if y = w then x else y } else s.dmaFound ch w
  | none =>
    match (s.dma ch).wait with
    | some w =>
      if !w.isRead a then s
      else if poison then s.dmaRefused ch w 4
      else
        let x := w.more index l
        if x.got.length < x.need then s.onDma ch fun d => { d with wait := some x } else s.dmaData ch w (x.got.flatMap Prod.snd)
    | none => s

/-- A STATUS reply to a memory request of the channel that p names. -/
def State.dmaStatus (s : State) (ch code : Nat) (p : DmaWait → Bool) : State :=
  match (s.dma ch).lost.find? p with
  | some w => s.dmaFound ch w
  | none =>
    match (s.dma ch).wait with
    | some w => if !p w then s else if code ≠ 0 then s.dmaRefused ch w (dmaErr code) else if w.kind = 2 then s.dmaAcked ch w else s
    | none => s

/-- HOST_COMPLETION (R375, R389): data for a host read, or the end of a host write; an error stops the channel with TARGET. -/
def execHostCompletion (ch : Fin 1056) (ok : Bool) (data : List Byte) (s : State) : Host.Outcome State Fault Refusal :=
  .next (s.dmaUp ch fun s =>
    match (s.dma ch).lost.find? fun w => decide (3 ≤ w.kind) with
    | some w => s.dmaFound ch w
    | none =>
      match (s.dma ch).wait with
      | some w =>
        if w.kind ≠ 3 ∧ w.kind ≠ 4 then s
        else if !ok then s.dmaRefused ch w 5
        else if w.kind = 3 then s.dmaData ch w (data ++ List.replicate (w.skip + w.n - data.length) 0)
        else s.dmaAcked ch w
      | none => s)

/-- DMA_REPLY_TIMEOUT (R375, R389): no reply within 1 ms; a request the channel no longer waits for is given up. -/
def execDmaReplyTimeout (ch : Fin 1056) (s : State) : Host.Outcome State Fault Refusal :=
  .next (s.dmaUp ch fun s =>
    let s := s.onDma ch fun d => { d with lost := d.lost.filter fun w => decide (s.time < w.sentAt + 1000000) }
    match (s.dma ch).wait, (s.dma ch).sigs with
    | some w, _ => if w.sentAt + 1000000 ≤ s.time then s.dmaRefused ch w 5 else s
    | none, (obj, t) :: r => if t + 1000000 ≤ s.time then (s.onDma ch fun d => { d with sigs := r }).dmaError ch 5 obj else s
    | none, [] => s)

/-! ### LOOP, ENDLOOP (R376) -/

/-- The byte strides of a LOOP word. -/
def loopStrides (w : Nat) : Int × Int :=
  let k : Int := 64 ^ (bits w 43 42)
  (signed 21 (bits w 41 21) * k, signed 21 (bits w 20 0) * k)

/-- BAD_LOOP of the word at PC. -/
def State.dmaBadLoop (s : State) (ch : Nat) : State := s.dmaError ch 7 (s.dmaAddr ch (s.dmaPc ch))

/-- The strides of a level set. -/
def State.setStride (s : State) (ch l : Nat) (v : Int × Int) : State :=
  s.onDma ch fun d => { d with strides := tabPut (fun _ => (0, 0)) d.strides l v }

/-- LOOP (R376). -/
def execLoop (ch : Fin 1056) (s : State) : Host.Outcome State Fault Refusal :=
  .next (s.dmaUp ch fun s => s.dmaOp ch 2 fun w s =>
    let l := s.dmaDepth ch
    let pc := s.dmaPc ch
    if 4 ≤ l then s.dmaBadLoop ch
    else
      ((((((s.foff (Reg.DMA_LOOP_CNT_I ch l)).fset (Reg.DMA_LOOP_CNT_CNTM1 ch l) (bits w 59 44)).fset (Reg.DMA_LOOP_PC_BODY ch l) (pc + 1)).fset
        (Reg.DMA_PC_DEPTH ch) (l + 1)).setStride ch l (loopStrides w))).dmaGo ch (pc + 1))

/-- ENDLOOP (R376). -/
def execEndloop (ch : Fin 1056) (s : State) : Host.Outcome State Fault Refusal :=
  .next (s.dmaUp ch fun s => s.dmaOp ch 3 fun w s =>
    let d := s.dmaDepth ch
    if bits w 59 0 ≠ 0 then s.dmaBadField ch
    else if d = 0 then s.dmaBadLoop ch
    else if s.dmaI ch (d - 1) < s.fget (Reg.DMA_LOOP_CNT_CNTM1 ch (d - 1)) then
      (s.fset (Reg.DMA_LOOP_CNT_I ch (d - 1)) (s.dmaI ch (d - 1) + 1)).dmaGo ch (s.fget (Reg.DMA_LOOP_PC_BODY ch (d - 1)))
    else (s.fset (Reg.DMA_PC_DEPTH ch) (d - 1)).dmaGo ch (s.dmaPc ch + 1))

/-! ### WAIT (R377) and SIGNAL (R378) -/

/-- The pending WATCH is sent under a reply cell of its own (R356, R377). -/
def State.dmaWatch (s : State) (ch : Nat) : State :=
  match (s.dma ch).watch with
  | some (obj, v, eq) => s.request (dmaCoord s.devid ch) 1 fun tag =>
      .sync s.devid obj (if eq then 3 else 2) v (s.dmaQn ch) (dmaCoord s.devid ch + tag * 2 ^ 22)
  | none => s

/-- WAIT (R377). -/
def execWait (ch : Fin 1056) (s : State) : Host.Outcome State Fault Refusal :=
  .next (s.dmaUp ch fun s => s.dmaOp ch 4 fun w s =>
    let d := s.dmaDepth ch
    if bits w 50 48 ≠ 0 then s.dmaBadField ch
    else
      let inner := if d = 0 then 0 else s.dmaI ch (d - 1)
      let v := (bits w 31 0 + bits w 58 51 * inner) % 2 ^ 32
      (((s.fset (Reg.DMA_STATUS_STATE ch) 2).fon (Reg.DMA_STATUS_WPEND ch)).onDma ch
        fun x => { x with watch := some (bits w 47 32, v, bit w 59), again := none }).dmaWatch ch)

/-- DMA_NOTICE (R377, R386): a notice with its object, threshold, EQ and KIND reaches a channel; the one it waits for frees its reply cell. -/
def execDmaNotice (ch : Fin 1056) (obj : BitVec 16) (thr : Word) (eq : Bool) (kind : Fin 3) (s : State) : Host.Outcome State Fault Refusal :=
  .next (s.dmaUp ch fun s =>
    if (s.dma ch).watch ≠ some (obj.toNat, thr.toNat, eq) ∨ (s.dma ch).again.isSome = true then s.count (dmaCnt ch 3) 1
    else
      let st := s.dmaState ch
      if kind = 0 then (((s.dmaUnwatch ch).iff (decide (st = 2)) fun s => s.fset (Reg.DMA_STATUS_STATE ch) 1)).dmaGo ch (s.dmaPc ch + 1)
      else if kind = 1 then s.dmaError ch 6 obj.toNat
      else if st = 4 then s.dmaUnwatch ch
      else (s.onDma ch fun x => { x with again := some (s.time + 1000) }).replied (dmaCoord s.devid ch) 1)

/-- DMA_WATCH_RESEND (R377): 1 µs after a REFUSED notice. -/
def execDmaWatchResend (ch : Fin 1056) (s : State) : Host.Outcome State Fault Refusal :=
  .next (s.dmaUp ch fun s =>
    match (s.dma ch).again with
    | some t => if t ≤ s.time then ((s.onDma ch fun x => { x with again := none }).count (dmaCnt ch 4) 1).dmaWatch ch else s
    | none => s)

/-- DMA_SIGNAL (R361, R378): once every earlier write, of this program or an earlier one, has been acknowledged, the operation leaves and the
channel goes on. -/
def execDmaSignal (ch : Fin 1056) (s : State) : Host.Outcome State Fault Refusal :=
  .next (s.dmaUp ch fun s => s.dmaOp ch 5 fun w s =>
    let obj := bits w 47 32
    if bits w 54 48 ≠ 0 ∨ (dmaTile ch = true ∧ bit w 58 = true) then s.dmaBadField ch
    else if (s.dma ch).lost.any fun x => decide (x.kind = 2 ∨ x.kind = 4) then s
    else
      let s := if obj = 0xFFFF then s
        else (s.request (dmaCoord s.devid ch) 1 fun tag =>
            .sync (if bit w 58 then bits w 57 55 else s.devid) obj (if bit w 59 then 1 else 0) (bits w 31 0) 0 (dmaCoord s.devid ch + tag * 2 ^ 22)).onDma ch
          fun x => { x with sigs := x.sigs ++ [(obj, s.time)] }
      s.dmaGo ch (s.dmaPc ch + 1))

/-- The reply to a SIGNAL of object obj: a refusal stops the channel with TARGET (R378). -/
def State.dmaSignalReply (s : State) (ch obj code : Nat) : State :=
  match (s.dma ch).sigs.find? fun x => decide (x.1 = obj) with
  | some x =>
    let s := s.onDma ch fun d => { d with sigs := d.sigs.erase x }
    if code = 0 then s else s.dmaError ch 5 obj
  | none => s

/-- A refused WATCH of the channel's WAIT stops it with TARGET (R389); the refusal was its one reply. -/
def State.dmaWatchRefused (s : State) (ch obj : Nat) : State :=
  match (s.dma ch).watch with
  | some w => if w.1 = obj then (s.onDma ch fun d => { d with watch := none }).dmaError ch 5 obj else s
  | none => s

/-! ### END, BAD_OP (R374, R379) -/

/-- DMA_END (R379). -/
def execDmaEnd (ch : Fin 1056) (s : State) : Host.Outcome State Fault Refusal :=
  .next (s.dmaUp ch fun s => s.dmaOp ch 15 fun w s =>
    if bits w 58 16 ≠ 0 then s.dmaBadField ch
    else s.dmaDo ch fun s =>
      ((((s.fset (Reg.DMA_STATUS_CODE ch) (bits w 15 0)).fset (Reg.DMA_STATUS_STATE ch) 5).foff (Reg.DMA_PC_DEPTH ch)).iff (bit w 59)
        fun s => s.fon (Reg.DMA_STATUS_IRQ ch)).count (dmaCnt ch 1) 1)

/-- DMA_BAD_OP (R374): a word with a refused opcode. -/
def execDmaBadOp (ch : Fin 1056) (s : State) : Host.Outcome State Fault Refusal :=
  .next (s.dmaUp ch fun s =>
    match s.dmaWord ch (s.dmaPc ch) with
    | some w =>
      let op := bits w 63 60
      if s.dmaState ch = 1 ∧ (s.dma ch).wait = none ∧ (op = 0 ∨ (6 ≤ op ∧ op ≠ 15)) then s.dmaError ch 1 (s.dmaAddr ch (s.dmaPc ch)) else s
    | none => s)

/-! ### Starting, pausing, stopping (R383 to R387) -/

/-- What the channel waits for when it is started anew or stopped: requests that are out stay so (R378, R387). -/
def DmaSt.left (d : DmaSt) : List DmaWait := d.lost ++ d.wait.toList

/-- A write with START = 1 (R383): ignored as a whole in RUN, WAIT, PAUSING; else IE and bit 28 are taken and the channel runs. -/
def State.dmaRun (s : State) (ch : Nat) (ie sel : Bool) : State :=
  let st := s.dmaState ch
  if st = 1 ∨ st = 2 ∨ st = 3 then s.ignored (dmaCtl ch)
  else
    let s := ((s.foff (dmaPauseBit ch)).fflag (dmaIe ch) ie).fflag (dmaSel ch) sel
    ((((((s.foff (Reg.DMA_PC_DEPTH ch)).wr (Reg.DMA_DONE ch) 0).foff (Reg.DMA_STATUS_ERR ch)).foff (Reg.DMA_STATUS_CODE ch)).dmaUnwatch ch).onDma ch
      fun d => { DmaSt.init with sigs := d.sigs, lost := d.left }).fset (Reg.DMA_STATUS_STATE ch) 1

/-- DMA_START (R383): a write of xDMA_CTL with START = 1, bit 30 = 0, IE, and ICORE or HOST. -/
def execDmaStart (m : Master) (ch : Fin 1056) (ie sel : Bool) (s : State) : Host.Outcome State Fault Refusal :=
  .next (s.alive fun s => s.guarded m (dmaCtl ch) fun s =>
    if !s.dmaThere ch then s
    else s.dmaDo ch fun s => s.dmaRun ch ie sel)

/-- PAUSE = 1 on a tile channel (R384). -/
def State.dmaPause (s : State) (ch : Nat) : State :=
  let st := s.dmaState ch
  let s := s.fon (dmaPauseBit ch)
  if st = 1 ∨ st = 2 then s.fset (Reg.DMA_STATUS_STATE ch) 3
  else if st = 0 ∨ st = 5 ∨ st = 6 then s.fset (Reg.DMA_STATUS_STATE ch) 4
  else s

/-- DISABLE = 1 on a bulk channel (R387): IDLE at once; PC, DEPTH, DONE, the loop registers and BYTE_CNT are unpredictable. Requests that are
out stay so: the data of reads is discarded when it comes. -/
def State.dmaDisable (s : State) (ch : Nat) : State :=
  let v (k : Nat) : Nat := (Config.freeValue 32 (s.free + k)).toNat
  let t := (s.fset (Reg.DMA_PC_PC ch) (v 0)).fset (Reg.DMA_PC_DEPTH ch) (v 1)
  let t := (t.wrN (Reg.DMA_DONE ch) (v 2)).wrN (dmaCnt ch 0) (v 3)
  let t := forN 4 (fun l t => ((t.fset (Reg.DMA_LOOP_CNT_I ch l) (v (4 + 3 * l))).fset (Reg.DMA_LOOP_CNT_CNTM1 ch l) (v (5 + 3 * l))).fset (Reg.DMA_LOOP_PC_BODY ch l) (v (6 + 3 * l))) t
  (((((t.foff (Reg.DMA_STATUS_STATE ch)).foff (Reg.DMA_STATUS_ERR ch)).foff (Reg.DMA_STATUS_CODE ch)).dmaUnwatch ch).onDma ch fun d => { DmaSt.init with lost := d.left }).drawnN 16

/-- Bit 30 of xDMA_CTL written 1: PAUSE of a tile channel, DISABLE of a bulk channel. -/
def State.dmaBit30 (s : State) (ch : Nat) : State :=
  if !s.dmaThere ch then s else if dmaTile ch then s.dmaPause ch else s.dmaDisable ch

/-- DMA_PAUSE (R384). -/
def execDmaPause (m : Master) (ch : Fin 1056) (s : State) : Host.Outcome State Fault Refusal :=
  .next (s.alive fun s => s.guarded m (dmaCtl ch) fun s => s.dmaBit30 ch)

/-- DMA_DISABLE (R387). -/
def execDmaDisable (m : Master) (ch : Fin 1056) (s : State) : Host.Outcome State Fault Refusal :=
  .next (s.alive fun s => s.guarded m (dmaCtl ch) fun s => s.dmaBit30 ch)

/-- DMA_PAUSED (R384): a pausing channel has written all it has read; a WATCH still to be sent again is given up, so that the
resume sends it. -/
def execDmaPaused (ch : Fin 1056) (s : State) : Host.Outcome State Fault Refusal :=
  .next (s.dmaUp ch fun s =>
    if s.dmaState ch = 3 ∧ (s.dma ch).wait = none ∧ (s.dma ch).buf = [] then
      (if (s.dma ch).again.isSome then s.dmaUnwatch ch else s).fset (Reg.DMA_STATUS_STATE ch) 4
    else s)

/-- The strides of open level l are read again from its LOOP (R385): 0 when done, else the error and its address. -/
def State.dmaRereadLevel (s : State) (ch l : Nat) : State × Nat × Nat :=
  let a := s.dmaAddr ch (s.fget (Reg.DMA_LOOP_PC_BODY ch l) - 1)
  if 4 ≤ l then (s, 7, a)
  else if !State.dmaReach ch a 8 false then (s, 3, a)
  else
    let p := s.memRead (.dma ch) 0 (a / 64 * 64) 64 .none false
    let w := leNat ((p.2.2.drop (a % 64)).take 8)
    if p.2.1 ≠ 0 then (p.1, dmaErr p.2.1, a)
    else if bits w 63 60 ≠ 2 then (p.1, 7, a)
    else (p.1.setStride ch l (loopStrides w), 0, a)

/-- The strides of the open levels are read again (R385): 0 when done, else the error and its address. -/
def State.dmaReread (s : State) (ch : Nat) : List Nat → State × Nat × Nat
  | [] => (s, 0, 0)
  | l :: r =>
    let p := s.dmaRereadLevel ch l
    if p.2.1 ≠ 0 then p else State.dmaReread p.1 ch r

/-- PAUSE = 0 (R384, R385): a paused channel goes on. -/
def State.dmaResume (s : State) (ch : Nat) : State :=
  let s := s.foff (dmaPauseBit ch)
  if s.dmaState ch ≠ 4 then s
  else
    let (s, err, a) := (s.onDma ch fun d => { d with code := [], strides := [] }).dmaReread ch (List.range (s.dmaDepth ch))
    if err ≠ 0 then s.dmaError ch err a
    else s.fset (Reg.DMA_STATUS_STATE ch) (if s.fbit (Reg.DMA_STATUS_WPEND ch) then 2 else 1)

/-- DMA_RESUME (R384, R385): a write of PAUSE = 0 to a tile channel. -/
def execDmaResume (m : Master) (ch : Fin 1056) (s : State) : Host.Outcome State Fault Refusal :=
  .next (s.alive fun s => s.guarded m (dmaCtl ch) fun s => if s.dmaThere ch && dmaTile ch then s.dmaResume ch else s)

end Sys2Proof.Machine
end

