-- ==== Sys2Proof/Machine/Ddr.lean ====
section
/-! DEFINITION. The DDR4 channels (R406 to R415): enabling and training, retraining in service and the requests it holds,
replays, patrol reads. -/

namespace Sys2Proof.Machine

/-! ### Enabling and training (R406, R414) -/

/-- The CFG_ERR of an enable: 1 SPEED, 2 DIMM, 3 CAP; 0 none (R414). A configuration that R406 does not support is refused: 3200 MT/s
at two DIMMs with SPEED, SSC without x4 devices with DIMM (log entry 96). -/
def State.ddrCode (s : State) (c : Nat) : Nat :=
  let cap := s.fget (Reg.DDR_CFG_CAP c)
  if 6 < s.fget (Reg.DDR_CFG_SPEED c) ∨ (s.fget (Reg.DDR_CFG_SPEED c) = 6 ∧ s.fbit (Reg.DDR_CFG_DPC2 c) = true) then 1
  else if s.fget (Reg.DDR_CFG_DIMM c) = 3 ∨ (s.fbit (Reg.DDR_CFG_ECC c) = true ∧ s.fbit (Reg.DDR_CFG_X4 c) = false) then 2
  else if cap < 3 ∨ 9 < cap ∨ cap ≠ s.fget (Reg.DDR_CFG_CAP 0) then 3
  else 0

/-- EN := 1: training starts, or the enable is refused and EN reads 0 (R414). -/
def State.ddrEnable (s : State) (c : Nat) : State :=
  if s.fbit (Reg.DDR_CTL_EN c) || s.islOff (74 + c) then s
  else
    let code := s.ddrCode c
    let s := s.fset (Reg.DDR_STATUS_CFG_ERR c) code
    if code ≠ 0 then s else ((s.fon (Reg.DDR_CTL_EN c)).foff (Reg.DDR_STATUS_TRAINED c)).foff (Reg.DDR_STATUS_FAILED c)

/-- DDR_ENABLE (R414). -/
def execDdrEnable (m : Master) (c : Fin 8) (s : State) : Host.Outcome State Fault Refusal :=
  .next (s.alive fun s => s.guarded m (Reg.DDR_CTL c) fun s => s.ddrEnable c)

/-- A training has succeeded: its slow tick and temperature are kept (R412). -/
def State.ddrTrained (s : State) (c : Nat) (celsius : Int) : State :=
  (s.fon (Reg.DDR_STATUS_TRAINED c)).onDdr c fun d => { d with tick := s.aon.slowTicks, temp := celsius, patrol := s.time }

/-- DDR_TRAINING_END (R414): the training that EN = 1 started completes at a temperature, or ends with CFG_ERR 4 where the
SPD does not match. -/
def execDdrTrainingEnd (c : Fin 8) (ok : Bool) (celsius : BitVec 8) (s : State) : Host.Outcome State Fault Refusal :=
  .next (s.alive fun s =>
    if !s.fbit (Reg.DDR_CTL_EN c) || s.fbit (Reg.DDR_STATUS_TRAINED c) || s.fbit (Reg.DDR_STATUS_FAILED c) then s
    else if ok then s.ddrTrained c celsius.toInt
    else s.fset (Reg.DDR_STATUS_CFG_ERR c) 4)

/-! ### Requests that a channel held (R411, R412) -/

/-- The bytes of a read from a as 32-byte replies on the mesh (R297); POISON when the read met an uncorrectable error. -/
def State.meshData (s : State) (src a : Nat) (l : List Byte) (poison : Bool) : State :=
  forN ((l.length + 31) / 32) (fun i s =>
    s.send (.cell 22 (src % 2 ^ 22) (s.memCoord s.devid a) (src / 2 ^ 22) poison [rdData ((l.drop (32 * i)).take 32) i])) s

/-- The answer to a held request: status, and the bytes of a read. -/
def State.replyTo (s : State) (r : DdrReq) (status : Nat) (l : List Byte) : State :=
  match r.back with
  | .nobody => s
  | .core o =>
    let t := s.answer status r.a (if r.n = 0 then .ack else .readValue (leNat l))
    match o with
    | some o => if r.n = 0 then t.storeAcked o else t
    | none => t
  | .mesh src =>
    if r.n = 0 ∨ (status ≠ 0 ∧ status ≠ 5) then s.send (.status src status 0 0 0) else s.meshData src r.a l (decide (status = 5))
  | .dma ch =>
    let mine (w : DmaWait) : Bool := if r.n = 0 then decide (w.kind = 2 ∧ localPart w.addr = r.a) else decide (w.kind ≤ 1 ∧ localPart w.base = r.a)
    match (s.dma ch).lost.find? mine with
    | some w => s.dmaFound ch w
    | none =>
      match (s.dma ch).wait with
      | some w =>
        if !mine w then s
        else if status ≠ 0 then s.dmaRefused ch w (dmaErr status)
        else if r.n = 0 then s.dmaAcked ch w else s.dmaData ch w l
      | none => s

/-- A request that was held is held again; its store is still the one its core awaits. -/
def State.ddrAgain (s : State) (r : DdrReq) : State :=
  (match r.back with
  | .core (some o) => if r.n = 0 then s.onOwner o fun w => { w with out := w.out - 1 } else s
  | _ => s).ddrHold r

/-- A held request is performed and answered; where its channel retrains again it is held again. -/
def State.ddrServe (s : State) (r : DdrReq) : State :=
  let s := match s.ddrIface r with
    | some c => s.replied c r.cells
    | none => s
  if r.n = 0 then
    let (s, st) := s.localWrite r.who r.data r.ecc
    if st = 10 then s.ddrAgain r else s.replyTo r st []
  else
    let (s, st, l) := s.localRead r.who 0 r.a r.n r.ecc false
    if st = 10 then s.ddrAgain r else s.replyTo r st l

/-- The channel serves what it holds, in the order of arrival. -/
def State.ddrDrain (s : State) (c : Nat) : State :=
  let q := (s.ddr c).queue
  forL q (fun r s => s.ddrServe r) (s.onDdr c fun d => { d with queue := [] })

/-- DDR_BUSY_RESEND (R411): 1 µs after a BUSY answer the request is sent again. -/
def execDdrBusyResend (s : State) : Host.Outcome State Fault Refusal :=
  .next (s.alive fun s =>
    match s.busy.find? fun x => decide (x.1 ≤ s.time) with
    | some x => (s.busyTake x).ddrServe x.2
    | none =>
      match s.again.find? fun x => decide (x.1 ≤ s.time) with
      | some x => (s.againTake x).send x.2
      | none => s)

/-! ### Retraining (R412, R413) -/

/-- Whether a channel may ask: it serves and does not retrain or wait to. -/
def State.ddrMayAsk (s : State) (c : Nat) : Bool :=
  s.ddrServes c && !s.fbit (Reg.DDR_STATUS_RETRAINING c) && !s.fbit (Reg.DDR_STATUS_WAITING c)

/-- The channel asks to retrain (R412, R523). -/
def State.ddrAskRetrain (s : State) (c : Nat) : State := if s.ddrMayAsk c then s.fon (Reg.DDR_STATUS_WAITING c) else s

/-- A write of 1 to RETRAIN (R413). -/
def State.ddrRetrainWrite (s : State) (c : Nat) : State :=
  if s.fbit (Reg.DDR_STATUS_RETRAINING c) || s.fbit (Reg.DDR_STATUS_WAITING c) then s.ignored (Reg.DDR_CTL c) else s.ddrAskRetrain c

/-- DDR_RETRAIN_REQUEST (R412, R413). -/
def execDdrRetrainRequest (m : Master) (c : Fin 8) (s : State) : Host.Outcome State Fault Refusal :=
  .next (s.alive fun s => s.guarded m (Reg.DDR_CTL c) fun s => s.ddrRetrainWrite c)

/-- DDR_RETRAIN_PERIOD (R412, R567): PERIOD slow ticks since the last training; a roosting channel wakes. -/
def execDdrRetrainPeriod (c : Fin 8) (s : State) : Host.Outcome State Fault Refusal :=
  .next (s.alive fun s =>
    let p := s.fget (Reg.DDR_RETRAIN_CFG_PERIOD c)
    if p ≠ 0 ∧ (s.ddr c).tick + p ≤ s.aon.slowTicks ∧ s.ddrMayAsk c = true then (s.wakeIsland (74 + c) 5).ddrAskRetrain c else s)

/-- DDR_RETRAIN_TEMP (R412): the channel's temperature has moved by TEMP_DELTA or more. -/
def execDdrRetrainTemp (c : Fin 8) (celsius : BitVec 8) (s : State) : Host.Outcome State Fault Refusal :=
  .next (s.alive fun s =>
    let d := s.fget (Reg.DDR_RETRAIN_CFG_TEMP_DELTA c)
    if d ≠ 0 ∧ d ≤ (celsius.toInt - (s.ddr c).temp).natAbs ∧ s.ddrMayAsk c = true then (s.wakeIsland (74 + c) 5).ddrAskRetrain c else s)

/-- DDR_RETRAIN_GRANT (R412): one at a time, the lowest channel that waits. -/
def execDdrRetrainGrant (s : State) : Host.Outcome State Fault Refusal :=
  .next (s.alive fun s =>
    if (List.range 8).any fun c => s.fbit (Reg.DDR_STATUS_RETRAINING c) then s
    else match (List.range 8).find? fun c => s.fbit (Reg.DDR_STATUS_WAITING c) with
      | some c => ((s.foff (Reg.DDR_STATUS_WAITING c)).fon (Reg.DDR_STATUS_RETRAINING c)).onDdr c fun d => { d with began := s.time }
      | none => s)

/-- MAX_US in ns: 1 to 40, larger values behave as 40. -/
def State.ddrMax (s : State) (c : Nat) : Nat := 1000 * min 40 (max 1 (s.fget (Reg.DDR_RETRAIN_CFG_MAX_US c)))

/-- DDR_RETRAIN_END (R412): the retraining completes in its time, at a temperature; the channel serves what it holds. -/
def execDdrRetrainEnd (c : Fin 8) (celsius : BitVec 8) (s : State) : Host.Outcome State Fault Refusal :=
  .next (s.alive fun s =>
    let b := (s.ddr c).began
    if s.fbit (Reg.DDR_STATUS_RETRAINING c) && decide (s.time ≤ b + s.ddrMax c) then
      ((((s.foff (Reg.DDR_STATUS_RETRAINING c)).wrN (Reg.DDR_TRAIN_LAST c) (s.time - b)).count (Reg.DDR_RETRAIN_CNT c) 1).ddrTrained c celsius.toInt).ddrDrain c
    else s)

/-- DDR_RETRAIN_TIMEOUT (R412): MAX_US after it began the channel restores its previous settings, raises DDR_TRAIN and
resumes. -/
def execDdrRetrainTimeout (c : Fin 8) (s : State) : Host.Outcome State Fault Refusal :=
  .next (s.alive fun s =>
    if s.fbit (Reg.DDR_STATUS_RETRAINING c) && decide ((s.ddr c).began + s.ddrMax c ≤ s.time) then
      ((s.foff (Reg.DDR_STATUS_RETRAINING c)).raise 5 5 c 0).ddrDrain c
    else s)

/-! ### Failure, replays, patrol (R408, R413) -/

/-- A channel is marked failed and raises DDR_RETRY; what it holds is answered UE (R408). -/
def State.ddrFail (s : State) (c : Nat) : State :=
  ((((s.fon (Reg.DDR_STATUS_FAILED c)).foff (Reg.DDR_STATUS_RETRAINING c)).foff (Reg.DDR_STATUS_WAITING c)).raise 4 5 c 0).ddrDrain c

/-- DDR_ALERT (R408): ALERT_n reports a CA parity or a write CRC error, and the commands are replayed; again: the replay of the
same command failed. Four failed replays fail the channel. -/
def execDdrAlert (c : Fin 8) (wcrc again : Bool) (s : State) : Host.Outcome State Fault Refusal :=
  .next (s.alive fun s =>
    let on := if wcrc then s.fbit (Reg.DDR_CFG_WCRC c) else s.fbit (Reg.DDR_CFG_CAPAR c)
    if !on || !s.ddrServes c then s
    else
      let n := if again then (s.ddr c).replays + 1 else 0
      let s := (s.onDdr c fun d => { d with replays := n }).count (if wcrc then Reg.DDR_WCRC_CNT c else Reg.DDR_CAPAR_CNT c) 1
      if 4 ≤ n then s.ddrFail c else s)

/-- VDDQ_LOW (R585): channel c fails. -/
def execVddqLow (c : Fin 8) (s : State) : Host.Outcome State Fault Refusal := .next (s.alive fun s => s.ddrFail c)

/-- DDR_PATROL_READ (R413, R567): INTERVAL ns after the last one, a line of the channel is read. -/
def execDdrPatrolRead (c : Fin 8) (line : BitVec 36) (ecc : Ecc) (s : State) : Host.Outcome State Fault Refusal :=
  .next (s.alive fun s =>
    let a := line.toNat * 64
    if !s.fbit (Reg.DDR_CTL_SCRUB_EN c) || !s.ddrServes c || s.fbit (Reg.DDR_STATUS_RETRAINING c) || decide (8 * s.ddrCap ≤ a)
      || decide (s.ddrChan a ≠ c) || s.islOff (74 + c) || decide (s.time < (s.ddr c).patrol + s.fget (Reg.DDR_SCRUB_CFG_INTERVAL c)) then s
    else ((((s.wakeIsland (74 + c) 5).onDdr c fun d => { d with patrol := s.time }).readErrors a 64 2 ecc false)).1)

end Sys2Proof.Machine
end

