-- ==== Sys2Proof/Machine/Links.lean ====
section
/-! DEFINITION. Ibnum links (R315 to R327, R420, R421): training, codewords, acknowledgement and replay, flow control, loss,
TSYNC. Retraining on request, which the admission check may refuse, is in Retrain.lean. -/

namespace Sys2Proof.Machine

/-! ### Training (R315, R322, R326) -/

/-- The lane groups of a width code: 0 one lane, 1 two, 2 four, 3 eight (R315). -/
def laneGroups (w : Nat) : List Nat :=
  (List.range (8 / 2 ^ w)).map fun i => (2 ^ 2 ^ w - 1) * 2 ^ (2 ^ w * i)

/-- The largest width code up to m that working lanes allow (R315). -/
def widthOf (lanes : Nat) : Nat → Option Nat
  | 0 => if (laneGroups 0).any fun g => decide (lanes &&& g = g) then some 0 else none
  | m + 1 => if (laneGroups (m + 1)).any fun g => decide (lanes &&& g = g) then some (m + 1) else widthOf lanes m

/-- EN := 1 starts training (R315, R331). -/
def State.linkEnable (s : State) (k : Nat) : State :=
  if s.fbit (Reg.IBL_CTL_EN k) then s
  else (((s.fon (Reg.IBL_CTL_EN k)).fset (Reg.IBL_STATUS_STATE k) 1).foff (Reg.IBL_STATUS_GEN_FAIL k)).onLink k fun _ => LinkSt.init

/-- LINK_ENABLE (R315). -/
def execLinkEnable (m : Master) (k : Fin 12) (s : State) : Host.Outcome State Fault Refusal :=
  .next (s.alive fun s => s.guarded m (Reg.IBL_CTL k) fun s => s.linkEnable k)

/-- The cells a port holds: in its retry buffer, begun, in its egress queue. -/
def LinkSt.unsent (x : LinkSt) : List LCell := x.retry.flatMap (fun c => c.cells) ++ x.part.toList ++ x.out

/-- The link takes up a new training: what it held is kept for its return (R326, R327). -/
def State.linkRetrain (s : State) (k : Nat) (limit : Nat) (auto : Bool) : State :=
  let s := ((s.foff (Reg.IBL_STATUS_UP k)).fset (Reg.IBL_STATUS_STATE k) 1).onLink k fun x =>
    { x with out := x.unsent, retry := [], part := none, carry := [], limit := some limit, auto := auto, clearAlt := false }
  s.altUpdate

/-- Whether a valid entry of the job names link k and has no alternate (R40, R327). -/
def State.bareLink (s : State) (k : Nat) : Bool :=
  (List.range 16).any fun i =>
    s.fbit (Reg.MESH_XROUTE_VALID i) && decide (s.fget (Reg.MESH_XROUTE_LINK i) = k) && !s.fbit (Reg.MESH_XROUTE_ALT_VALID i)

/-- LINK_UP (R315, R322, R326, R327): training ends with the lanes that work, the peer's width and generations and its
identity. STATE passes 2 FEC, 3 DESKEW and 4 NEGOTIATE within the command (log entry 108); without a common generation the link stays
in NEGOTIATE. A link that retrains by its own action comes back no wider, and narrower only with AUTO_NARROW; during a job it carries
no mesh cells until the next, and is a fault where an entry has no detour (R40). -/
def execLinkUp (k : Fin 12) (lanes : BitVec 8) (peerWidth : Fin 4) (genMin genMax : BitVec 4) (dev : BitVec 3) (peer : BitVec 4) (s : State) :
    Host.Outcome State Fault Refusal :=
  .next (s.alive fun s =>
    let x := s.link k
    let most := min (min (s.fget (Reg.IBL_CTL_WIDTH_MAX k)) peerWidth.val) (x.limit.getD 3)
    let g := min (s.fget (Reg.IBL_GEN_GEN_MAX k)) genMax.toNat
    if !s.fbit (Reg.IBL_CTL_EN k) || s.fbit (Reg.IBL_STATUS_UP k) || decide (s.fget (Reg.IBL_STATUS_STATE k) = 6) then s
    else match widthOf lanes.toNat most with
      | none => s
      | some w =>
        if x.auto && decide (w < x.limit.getD 3) && !s.fbit (Reg.IBL_CTL_AUTO_NARROW k) then s
        else
          let s := forL [2, 3, 4] (fun v s => s.fset (Reg.IBL_STATUS_STATE k) v) s
          let s := (((s.fset (Reg.IBL_STATUS_LANE_OK k) lanes.toNat).fon (Reg.IBL_PEER_VALID k)).fset (Reg.IBL_PEER_DEV k) dev.toNat).fset
            (Reg.IBL_PEER_LINK k) peer.toNat
          if g < max (s.fget (Reg.IBL_GEN_GEN_MIN k)) genMin.toNat then s.fon (Reg.IBL_STATUS_GEN_FAIL k)
          else
            let s := ((((s.foff (Reg.IBL_STATUS_GEN_FAIL k)).fset (Reg.IBL_STATUS_STATE k) 5).fon (Reg.IBL_STATUS_UP k)).fset
              (Reg.IBL_STATUS_WIDTH k) w).fset (Reg.IBL_GEN_CUR k) g
            let s := s.fflag (Reg.IBL_STATUS_NARROW k) (decide (w < s.fget (Reg.IBL_CTL_WIDTH_MAX k)))
            let out := x.auto && s.fbit Reg.MESH_CTL_JOB
            let s := s.onLink k fun x => { LinkSt.init with out := x.out, far := x.far, acc0 := x.acc0, acc1 := x.acc1, tsNo := x.tsNo,
                                                            held := x.held, stop := x.stop, tsAt := s.time, bench := out, clearAlt := x.clearAlt }
            let s := s.altUpdate.iff (out && s.bareLink k) fun s => s.raise 7 6 k 0
            s.iff (s.twinLink k) State.helloNow)

/-! ### Sending (R316 to R318, R320) -/

/-- The first cell of a VN in an egress queue taken out. -/
def takeVn (v : Nat) : List LCell → Option (LCell × List LCell)
  | [] => none
  | c :: r => if c.vn = v then some (c, r) else (takeVn v r).map fun x => (x.1, c :: x.2)

/-- Whether an egress queue holds a cell of a VN that the partner has not stopped; mesh: the link carries mesh cells. -/
def LinkSt.ready (x : LinkSt) (mesh : Bool) (v : Nat) : Bool :=
  (x.out.any fun c => decide (c.vn = v)) && (decide (v = 7) || (mesh && !bit x.xoff v))

/-- The classes of the round robin in the order after the one served last: link-local (7), then VN 1 to 5 (R317). -/
def roundFrom (t : Nat) : List Nat := (List.range 6).map fun i => (fun j => if j = 0 then 7 else j) ((t + 1 + i) % 6)

/-- The class of the cell the port sends next (R317): none is a NULL cell. -/
def LinkSt.choose (x : LinkSt) (mesh : Bool) : Option Nat :=
  if x.ready mesh 7 && decide (15 ≤ x.waited) then some 7
  else if x.ready mesh 0 then some 0
  else (roundFrom x.turn).find? fun v => x.ready mesh v && (decide (v ≠ 7) || decide (15 ≤ x.since))

/-- One cell place of the stream filled: the cell it carries, none for NULL (R317). -/
def LinkSt.sendCell (x : LinkSt) (mesh : Bool) : LinkSt × Option LCell :=
  let wait := x.out.any fun c => decide (c.vn = 7)
  match x.choose mesh with
  | none => ({ x with since := min 15 (x.since + 1), waited := if wait then x.waited + 1 else 0 }, none)
  | some v =>
    match takeVn v x.out with
    | none => (x, none)
    | some (c, r) =>
      if v = 7 then ({ x with out := r, since := 0, waited := 0, turn := 0 }, some c)
      else ({ x with out := r, since := min 15 (x.since + 1), waited := if wait then x.waited + 1 else 0, turn := if v = 0 then x.turn else v }, some c)

/-- The cells of n cell places; none is a NULL cell. -/
def LinkSt.sendCells (x : LinkSt) (mesh : Bool) : Nat → LinkSt × List (Option LCell)
  | 0 => (x, [])
  | n + 1 =>
    let (x, c) := x.sendCell mesh
    let (x, l) := x.sendCells mesh n
    (x, c :: l)

/-- The flits of a cell place. -/
def placeFlits (c : Option LCell) : List (BitVec 128) :=
  match c with
  | some c => flitsOf c.wire
  | none => flitsOf ((localCell 0 []).headD (0, []))

/-- A link flit (R318). -/
def linkFlit (ack : Option Nat) (nak : Bool) (xoff acc0 acc1 : Nat) : BitVec 128 :=
  BitVec.ofNat 128 (ack.getD 0 + (if ack.isSome then 2 ^ 12 else 0) + (if nak then 2 ^ 13 else 0) + xoff * 2 ^ 14 + acc0 * 2 ^ 20 + acc1 * 2 ^ 30)

/-- The forty slots of a codeword (R316): link flits in 0 and 20. -/
def codeSlots (f0 f1 : BitVec 128) (cells : List (BitVec 128)) : List (BitVec 128) := f0 :: cells.take 19 ++ f1 :: cells.drop 19

/-- XOFF as the port reports it (R318, R321). -/
def LinkSt.xoffWord (x : LinkSt) : Nat := (List.range 6).foldl (fun a v => a + if x.stop.getD v false then 2 ^ v else 0) 0

/-- The link flits of the next codeword: each acknowledges, and reports up to 1,023 acceptances of a parity; the first carries NAK
(R318, R320, log entry 58). -/
def LinkSt.linkFlits (x : LinkSt) (nak : Bool) : LinkSt × BitVec 128 × BitVec 128 :=
  let a0 := min 1023 x.acc0
  let a1 := min 1023 x.acc1
  let b0 := min 1023 (x.acc0 - a0)
  let b1 := min 1023 (x.acc1 - a1)
  ({ x with acc0 := x.acc0 - a0 - b0, acc1 := x.acc1 - a1 - b1 }, linkFlit x.rxSeq nak x.xoffWord a0 a1, linkFlit x.rxSeq false x.xoffWord b0 b1)

/-- The port sends its next codeword: 38 cell flits, three to a cell, which may span two codewords (R316, R320). With 128 codewords
unacknowledged no new cell is sent. -/
def State.linkSend (s : State) (k : Nat) (nak : Bool) : State :=
  let (x, f0, f1) := (s.link k).linkFlits nak
  if 128 ≤ x.retry.length then
    (s.onLink k fun _ => x).emit (.codeword k none (codeSlots f0 f1 ((List.replicate 13 (placeFlits none)).flatten.take 38)))
  else
    let (y, places) := x.sendCells (s.linkMesh k) ((40 - x.carry.length) / 3)
    let flits := x.carry ++ places.flatMap placeFlits
    let carry := flits.drop 38
    let cells := y.part.toList ++ (if carry.isEmpty then places else places.dropLast).filterMap id
    let part := if carry.isEmpty then none else places.getLast?.join
    let n := (cells.filter fun c => decide (c.vn ≠ 7)).length
    let y := { y with part := part, carry := carry, txSeq := (x.txSeq + 1) % 4096, retry := x.retry ++ [⟨x.txSeq, 0, cells, flits.take 38⟩] }
    ((s.onLink k fun _ => y).wrN (Reg.IBL_TX_CELL_CNT k) ((s.rd (Reg.IBL_TX_CELL_CNT k)).toNat + n)).emit
      (.codeword k (some x.txSeq) (codeSlots f0 f1 (flits.take 38)))

/-! ### Acknowledgement, loss (R320, R325) -/

/-- The number of codewords a CW_SEQ acknowledges: up to it, in order. -/
def ackCount (l : List Codeword) (seq : Nat) : Nat :=
  match l.findIdx? fun c => decide (c.seq = seq) with
  | some i => i + 1
  | none => 0

/-- Codewords up to a CW_SEQ are acknowledged: their EV cells await the far end's report (R153, R320). -/
def State.linkAck (s : State) (k seq : Nat) : State :=
  s.onLink k fun x =>
    let n := ackCount x.retry seq
    { x with retry := x.retry.drop n, far := x.far ++ ((x.retry.take n).flatMap fun c => c.cells).filterMap fun c => c.ev }

/-- The far end reports n accepted EV cells of a parity: taken off this device's count; one that only passed through is reported on
by the link it came by (R153, R324). -/
def State.linkAccepted (s : State) (k : Nat) (ep : Bool) : Nat → State
  | 0 => s
  | n + 1 =>
    let s := s.tree ep (-1)
    let s := match (s.link k).far.find? fun c => decide (c.1 = ep) with
      | some c =>
        let s := s.onLink k fun x => { x with far := x.far.erase c }
        match c.2 with
        | some j => s.onLink j fun x => if ep then { x with acc1 := x.acc1 + 1 } else { x with acc0 := x.acc0 + 1 }
        | none => s
      | none => s
    State.linkAccepted s k ep n

/-- A link is lost (R325, R508). -/
def State.linkLose (s : State) (k : Nat) : State :=
  if !s.fbit (Reg.IBL_STATUS_UP k) then s
  else
    let s := (((s.foff (Reg.IBL_STATUS_UP k)).fset (Reg.IBL_STATUS_STATE k) 6).fon (Reg.IBL_STATUS_LOST k)).count (Reg.IBL_DOWN_CNT k) 1
    let s := s.raise 7 6 k 0
    let x := s.link k
    let s := s.onLink k fun x => { x with retry := [], out := [], part := none, carry := [], limit := some (s.fget (Reg.IBL_STATUS_WIDTH k)), clearAlt := false }
    let s := forL x.unsent (fun c s => s.linkDrop k c) s
    s.altUpdate.staleAll

/-- LINK_LOST (R325). -/
def execLinkLost (k : Fin 12) (s : State) : Host.Outcome State Fault Refusal := .next (s.alive fun s => s.linkLose k)

/-- EN := 0: the link is down, and what it held is discarded as at a loss (R325, log entry 61). -/
def State.linkDisable (s : State) (k : Nat) : State :=
  if !s.fbit (Reg.IBL_CTL_EN k) then s
  else
    let x := s.link k
    let s := (((s.foff (Reg.IBL_CTL_EN k)).foff (Reg.IBL_STATUS_UP k)).fset (Reg.IBL_STATUS_STATE k) 0).onLink k fun _ => LinkSt.init
    (forL x.unsent (fun c s => s.linkDrop k c) s).altUpdate

/-- LINK_RETRAIN_AUTO (R326): an enabled link retrains by its own action, no wider than it was. -/
def execLinkRetrainAuto (k : Fin 12) (s : State) : Host.Outcome State Fault Refusal :=
  .next (s.alive fun s =>
    if s.fbit (Reg.IBL_CTL_EN k) && (s.fbit (Reg.IBL_STATUS_UP k) || decide (s.fget (Reg.IBL_STATUS_STATE k) = 6)) then
      s.linkRetrain k (s.fget (Reg.IBL_STATUS_WIDTH k)) true
    else s)

/-- RETRY_MAX: 0 behaves as 1 (R331). -/
def State.retryMax (s : State) (k : Nat) : Nat := max 1 (s.fget (Reg.IBL_CTL_RETRY_MAX k))

/-- The codewords that are not acknowledged are replayed in order; one that has been replayed RETRY_MAX times without
acknowledgement loses the link (R320). -/
def State.replay (s : State) (k : Nat) : State :=
  let l := (s.link k).retry
  if l.any fun c => decide (s.retryMax k ≤ c.replays) then s.linkLose k
  else
    let s := (s.count (Reg.IBL_REPLAY_CNT k) l.length).onLink k fun x => { x with retry := l.map fun c => { c with replays := c.replays + 1 } }
    let f := linkFlit (s.link k).rxSeq false (s.link k).xoffWord 0 0
    s.emitAll (l.map fun c => .codeword k (some c.seq) (codeSlots f f c.flits))

/-- NAK (R320): the codewords after ACK_SEQ are replayed. -/
def execNak (k : Fin 12) (seq : BitVec 12) (s : State) : Host.Outcome State Fault Refusal :=
  .next (s.alive fun s => if s.fbit (Reg.IBL_STATUS_UP k) then (s.linkAck k seq.toNat).replay k else s)

/-! ### Receiving (R316, R318 to R321, R324) -/

/-- A cell comes out of a codeword: mesh cells are held by the port and counted, a tagged EV cell on the completion tree (R153); a
link-local cell of an unknown TYPE is discarded (R319); an EV cell is discarded while a Cocoon runs, counted and reported (R485), and
so is any cell of a VN of which 512 are held, which a partner that keeps to XOFF never sends (R321; DESIGN CHOICE, log entry 109). -/
def State.linkCell (s : State) (k : Nat) (c : Fin 8 × Fin 32 × Option Bool) : State :=
  if c.1.val = 7 then (if 3 < c.2.1.val then s.count Reg.MESH_TYPE_ERR_CNT 1 else s)
  else if (s.fbit Reg.INST_STATUS_COCOON && decide (1 ≤ c.2.1.val) && decide (c.2.1.val ≤ 10)) || decide (512 ≤ (s.link k).held.getD c.1.val 0) then
    let s := (s.wrN (Reg.IBL_RX_CELL_CNT k) ((s.rd (Reg.IBL_RX_CELL_CNT k)).toNat + 1)).count (Reg.IBL_DROP_CNT k) 1
    match c.2.2 with
    | some ep => s.onLink k fun l => if ep then { l with acc1 := l.acc1 + 1 } else { l with acc0 := l.acc0 + 1 }
    | none => s
  else
    let s := (s.wrN (Reg.IBL_RX_CELL_CNT k) ((s.rd (Reg.IBL_RX_CELL_CNT k)).toNat + 1)).onLink k fun x =>
      { x with held := (List.range 6).map fun v => x.held.getD v 0 + (if v = c.1.val then 1 else 0) }
    match c.2.2 with
    | some ep => s.tree ep 1
    | none => s

/-- Cells have left the port for the mesh; XOFF is set at 128 held cells of a VN and cleared at 64 (R321). -/
def State.linkFlow (s : State) (k : Nat) (left : List (Fin 6)) : State :=
  s.onLink k fun x =>
    let h := (List.range 6).map fun v => x.held.getD v 0 - (left.filter fun y => decide (y.val = v)).length
    { x with held := h, stop := (List.range 6).map fun v => decide (128 ≤ h.getD v 0) || (x.stop.getD v false && decide (64 < h.getD v 0)) }

/-- A codeword that cannot be corrected (R320): LINK_CRC, NAK, it and every later one dropped; the sixteenth in a row loses the
link. -/
def State.linkBad (s : State) (k : Nat) : State :=
  let n := (s.link k).unc + 1
  let s := ((s.count (Reg.IBL_FEC_UNC_CNT k) 1).raise 6 6 k 0).onLink k fun x => { x with gone := true, unc := n }
  if 16 ≤ n then s.linkLose k else s.linkSend k true

/-- A link flit is taken (R318): acknowledgement, NAK, XOFF, reported acceptances. -/
def State.linkTake (s : State) (k : Nat) (f : BitVec 128) : State :=
  let w := f.toNat
  let s := s.iff (bit w 12) fun s => s.linkAck k (bits w 11 0)
  let s := ((s.onLink k fun x => { x with xoff := bits w 19 14 }).linkAccepted k false (bits w 29 20)).linkAccepted k true (bits w 39 30)
  s.iff (bit w 13) fun s => s.replay k

/-- Whether a codeword is the next in order: after an uncorrectable first one, that is its replay as CW_SEQ 0 (R320, log entry 109). -/
def LinkSt.due (x : LinkSt) (seq : Nat) : Bool :=
  match x.rxSeq with
  | some r => decide (seq = (r + 1) % 4096)
  | none => !x.gone || decide (seq = 0)

/-- CODEWORD_RECEIVE (R316, R318, R320, R321, R324): a codeword arrives. Taken when it is the next in order, with its two link flits
and its cells (VN, TYPE, parity of a tagged EV cell); dropped otherwise. left: cells that have left the port for the mesh. The port
sends one codeword for each it receives. -/
def execCodewordReceive (k : Fin 12) (ok corrected : Bool) (seq : BitVec 12) (flit0 flit1 : BitVec 128)
    (cells : List (Fin 8 × Fin 32 × Option Bool)) (left : List (Fin 6)) (s : State) : Host.Outcome State Fault Refusal :=
  .next (s.alive fun s =>
    let s := s.linkFlow k left
    if !s.fbit (Reg.IBL_STATUS_UP k) then s
    else if !ok then s.linkBad k
    else
      let due := (s.link k).due seq.toNat
      let s := (s.iff corrected fun s => s.count (Reg.IBL_FEC_CORR_CNT k) 1).onLink k fun x => { x with unc := 0 }
      if !due then s
      else
        let s := s.onLink k fun x => { x with rxSeq := some seq.toNat, gone := false }
        let s := (s.linkTake k flit0).linkTake k flit1
        let s := forL (cells.take 13) (fun c s => s.linkCell k c) s
        let s := s.linkFlow k []
        if s.fbit (Reg.IBL_STATUS_UP k) then s.linkSend k false else s)

/-! ### TSYNC (R323, R420, R421) -/

/-- The system counter with a fraction, in units of 2^−16 ns. -/
def State.stamp (s : State) (frac : BitVec 16) : Nat := s.now * 65536 + frac.toNat

/-- TSYNC_SEND (R323): 1,024 µs after the last request a port in service sends one, with T1. -/
def execTsyncSend (k : Fin 12) (frac : BitVec 16) (s : State) : Host.Outcome State Fault Refusal :=
  .next (s.alive fun s =>
    let x := s.link k
    if s.fbit (Reg.IBL_STATUS_UP k) && decide (x.tsAt + 1024000 ≤ s.time) then
      let n := (x.tsNo + 1) % 256
      let t1 := s.stamp frac
      (s.onLink k fun x => { x with tsNo := n, tsT1 := some t1, tsAt := s.time }).sendLink k (.tsync k false n t1 0 0)
    else s)

/-- TSYNC_REQUEST (R323): a request arrives, stamped T2; the reply leaves stamped T3. -/
def execTsyncRequest (k : Fin 12) (no : BitVec 8) (t1 : BitVec 80) (f2 f3 : BitVec 16) (s : State) : Host.Outcome State Fault Refusal :=
  .next (s.alive fun s =>
    if s.fbit (Reg.IBL_STATUS_UP k) then s.sendLink k (.tsync k true no.toNat t1.toNat (s.stamp f2) (s.stamp f3)) else s)

/-- ceil of x / 2^17: half of a difference of stamps, in ns. -/
def halfCeil (x : Int) : Int := (x + 131071) / 131072

/-- The codeword time in ns, rounded up, by width code (R316). -/
def codewordNs (w : Nat) : Nat := if w = 3 then 7 else if w = 2 then 13 else if w = 1 then 25 else 49

/-- x / 2, and x / 65,536, rounded to nearest, ties away from zero. -/
def rnaHalf (x : Int) : Int := if 0 ≤ x then (x + 1) / 2 else -((-x + 1) / 2)
def rnaNs (x : Int) : Int := if 0 ≤ x then (x + 32768) / 65536 else -((-x + 32768) / 65536)

/-- An exchange within or beyond LIMIT/4 ns moves LOCKED (R421): three in a row set or clear it; each of the three that clear it
is counted; clearing it under a running step generator raises TIME_SYNC. -/
def State.syncJudge (s : State) (theta : Int) : State :=
  let inside := decide (4 * theta.natAbs ≤ s.fget Reg.TB_SYNC_CFG_LIMIT * 65536)
  if inside then
    let g := s.tb.good + 1
    (s.onTb fun b => { b with good := g, bad := 0 }).iff (decide (3 ≤ g)) fun s => s.fon Reg.TB_SYNC_STATUS_LOCKED
  else
    let n := s.tb.bad + 1
    let s := (s.onTb fun b => { b with good := 0, bad := n }).count Reg.TB_SYNC_BAD_CNT 1
    if 3 ≤ n ∧ s.fbit Reg.TB_SYNC_STATUS_LOCKED = true then
      (s.foff Reg.TB_SYNC_STATUS_LOCKED).iff (s.fbit Reg.TB_STEP_CTL_EN) fun s => s.raise 17 9 0 0
    else s

/-- COUNTER_STEP, or the correction of R420 begins anew. -/
def State.counterFollow (s : State) (theta : Int) : State :=
  if decide (65536 < theta.natAbs) && !s.fbit Reg.TB_STEP_CTL_EN && !((List.range 16).any fun i => s.fbit (Reg.TMR_CTL_EN i)) then
    ((((s.setCounter (s.now + rnaNs theta)).tickMoves s.now).fon Reg.TB_SYNC_STATUS_STEPPED).count Reg.TB_SYNC_STEP_CNT 1).onTb
      fun b => { b with corr := 0, slewAt := (s.now + rnaNs theta).toNat }
  else s.onTb fun b => { b with corr := theta, slewAt := s.now }

/-- TSYNC_REPLY (R323, R420, R421): the reply of the open exchange gives D, DELAY_NS and TRAV_NS, and on the link MODE 2 follows
the offset. -/
def execTsyncReply (k : Fin 12) (no : BitVec 8) (t2 t3 : BitVec 80) (f4 : BitVec 16) (s : State) : Host.Outcome State Fault Refusal :=
  .next (s.alive fun s =>
    match (s.link k).tsT1 with
    | none => s
    | some t1 =>
      if no.toNat ≠ (s.link k).tsNo ∨ s.fbit (Reg.IBL_STATUS_UP k) = false then s
      else
        let t4 : Int := s.stamp f4
        let d := halfCeil ((t4 - t1) - ((t3.toNat : Int) - t2.toNat))
        let delay := (max 0 d).toNat
        let s := ((s.onLink k fun x => { x with tsT1 := none }).fset (Reg.IBL_TRAV_DELAY_NS k) delay).fset (Reg.IBL_TRAV_TRAV_NS k)
          (delay + codewordNs (s.fget (Reg.IBL_STATUS_WIDTH k)) + 8)
        if s.fget Reg.TB_SYNC_CFG_MODE ≠ 2 ∨ s.fget Reg.TB_SYNC_CFG_LINK ≠ k.val then s
        else
          let theta := rnaHalf (((t2.toNat : Int) - t1) + (t3.toNat - t4))
          ((s.wrN Reg.TB_SYNC_OFS (wrapInt 32 (satInt 32 theta))).counterFollow theta).syncJudge theta)

end Sys2Proof.Machine
end

