-- ==== Sys2Proof/Machine/Fp.lean ====
section
/-! DEFINITION. The floating-point formats of the dense engine (R228, R234, R236): binary16, bfloat16 and binary32, with
the one rounding rule rna, exact products and exact sums rounded once. -/

namespace Sys2Proof.Machine

/-- A format: bits of precision (the hidden one included) and bits of exponent. -/
structure Fmt where
  p : Nat
  e : Nat
  deriving DecidableEq, Repr

def binary32 : Fmt := ⟨24, 8⟩
def binary16 : Fmt := ⟨11, 5⟩
def bfloat16 : Fmt := ⟨8, 8⟩

/-- The exponent bias of a format. -/
def Fmt.bias (f : Fmt) : Nat := 2 ^ (f.e - 1) - 1

/-- A value: NaN, an infinity, or a finite number m·2^e with its sign; zero keeps its sign (R234). -/
inductive FpVal where
  | nan
  | inf (neg : Bool)
  | fin (neg : Bool) (m : Nat) (e : Int)
  deriving DecidableEq, Repr

/-- The value of a bit pattern (R234). -/
def Fmt.decode (f : Fmt) (w : Nat) : FpVal :=
  let neg := bit w (f.p - 1 + f.e)
  let ex := bits w (f.p - 2 + f.e) (f.p - 1)
  let m := bits w (f.p - 2) 0
  let lsb : Int := 1 - (f.bias : Int) - (f.p - 1 : Nat)
  if ex = 2 ^ f.e - 1 then (if m = 0 then .inf neg else .nan)
  else if ex = 0 then .fin neg m lsb
  else .fin neg (m + 2 ^ (f.p - 1)) (lsb + (ex - 1 : Nat))

/-- The default NaN, the infinities (R234). -/
def Fmt.nan (f : Fmt) : Nat := (2 ^ f.e - 1) * 2 ^ (f.p - 1) + 2 ^ (f.p - 2)
def Fmt.inf (f : Fmt) (neg : Bool) : Nat := (if neg then 2 ^ (f.p - 1 + f.e) else 0) + (2 ^ f.e - 1) * 2 ^ (f.p - 1)

/-- The number of bits of a number. -/
def bitLen (n : Nat) : Nat := if n = 0 then 0 else n.log2 + 1

/-- A number m·2^(−sh) rounded to nearest, ties away from zero (R236). -/
def rnaDown (m sh : Nat) : Nat := if sh = 0 then m else (m + 2 ^ (sh - 1)) >>> sh

/-- The bit pattern of a value under rna (R236): the exponent is taken as unbounded, and a result past the largest finite
value becomes infinite. -/
def Fmt.encode (f : Fmt) : FpVal → Nat
  | .nan => f.nan
  | .inf neg => f.inf neg
  | .fin neg m e =>
    let sign := if neg then 2 ^ (f.p - 1 + f.e) else 0
    let minLsb : Int := 1 - (f.bias : Int) - (f.p - 1 : Nat)
    let q : Int := max minLsb (e + (bitLen m : Int) - (f.p : Int))
    let k := if q ≤ e then m <<< (e - q).toNat else rnaDown m (q - e).toNat
    -- a carry out of the precision doubles the unit
    let (k, q) := if k = 2 ^ f.p then (2 ^ (f.p - 1), q + 1) else (k, q)
    let ex : Nat := if k < 2 ^ (f.p - 1) then 0 else (q - minLsb).toNat + 1
    if 2 ^ f.e - 1 ≤ ex then f.inf neg
    else sign + ex * 2 ^ (f.p - 1) + (if ex = 0 then k else k - 2 ^ (f.p - 1))

/-- Whether a value is finite, is NaN. -/
def FpVal.isFin : FpVal → Bool
  | .fin _ _ _ => true
  | _ => false
def FpVal.isNan : FpVal → Bool
  | .nan => true
  | _ => false

/-- The sign of a value. -/
def FpVal.neg : FpVal → Bool
  | .nan => false
  | .inf n => n
  | .fin n _ _ => n

/-- The exact product (R234, R244, R245). -/
def FpVal.mul : FpVal → FpVal → FpVal
  | .nan, _ => .nan
  | _, .nan => .nan
  | .inf a, .inf b => .inf (a != b)
  | .inf a, .fin b m _ => if m = 0 then .nan else .inf (a != b)
  | .fin a m _, .inf b => if m = 0 then .nan else .inf (a != b)
  | .fin a m e, .fin b n f => .fin (a != b) (m * n) (e + f)

/-- A signed number in units of 2^u, u at most its exponent. -/
def signedAt (neg : Bool) (m : Nat) (e u : Int) : Int :=
  let k := m <<< (e - u).toNat
  if neg then -(k : Int) else (k : Int)

/-- The exact sum; a sum of zero is +0 unless both are −0 (R234). -/
def FpVal.add : FpVal → FpVal → FpVal
  | .nan, _ => .nan
  | _, .nan => .nan
  | .inf a, .inf b => if a = b then .inf a else .nan
  | .inf a, _ => .inf a
  | _, .inf b => .inf b
  | .fin a m e, .fin b n f =>
    let u := min e f
    let x := signedAt a m e u + signedAt b n f u
    if x = 0 then .fin (a && b) 0 u else .fin (decide (x < 0)) x.natAbs u

/-- The binary32 sum of two binary32 patterns (R246). -/
def add32 (a b : Nat) : Nat := binary32.encode ((binary32.decode a).add (binary32.decode b))

/-- The value of x − y. -/
def FpVal.sub (x : FpVal) : FpVal → FpVal
  | .nan => .nan
  | .inf b => x.add (.inf (!b))
  | .fin b n f => x.add (.fin (!b) n f)

end Sys2Proof.Machine
end

