-- ==== Sys2Proof/Machine/Queues.lean ====
section
/-! DEFINITION. Hardware queues (R333 to R346), combining slots (R347 to R351), senders' interfaces and multicast, ranks
(R307, R308). -/

namespace Sys2Proof.Machine

/-! ### Ranks (R307, R308) -/

/-- Whether endpoints name destinations by rank. -/
def State.ranks (s : State) : Bool := s.fbit Reg.MESH_CTL_RANKS

/-- The coordinate of a rank; none where its entry is not valid or the endpoint passes 127. -/
def State.unrank (s : State) (r : Nat) : Option Nat :=
  let i := r % 65536 / 16
  let c := s.fget (Reg.MESH_RANK_COORD i)
  if s.fbit (Reg.MESH_RANK_VALID i) && decide (coEp c + r % 16 ≤ 127) then some (c + r % 16) else none

/-- The rank presented for a sender: the first entry that covers it; 0xFFFF in coordinate form or where none does. -/
def State.rankOf (s : State) (c : Nat) : Nat :=
  if !s.ranks then 0xFFFF
  else match (List.range 4096).find? fun i =>
      let e := s.fget (Reg.MESH_RANK_COORD i)
      s.fbit (Reg.MESH_RANK_VALID i) && decide (e / 128 = c / 128) && decide (coEp e ≤ coEp c) && decide (coEp c < coEp e + 16) with
    | some i => i * 16 + (coEp c - coEp (s.fget (Reg.MESH_RANK_COORD i)))
    | none => 0xFFFF

/-! ### Owners -/

/-- Whether owner o of this device is there. -/
def State.ownerThere (s : State) (o : Nat) : Bool := decide (o < 136) && !(decide (o < 128) && s.tileAbsent (o / 2))

/-- Whether core o runs: a sequencer core with RUN = 1, an application core. -/
def State.ownerRuns (s : State) (o : Nat) : Bool := s.ownerThere o && (decide (128 ≤ o) || s.fbit (Reg.SEQ_CTL_RUN o))

/-- The master whose region set guards an owner's rings. -/
def ringWho (o : Nat) : Who := if o < 128 then .seq o else .app

/-! ### Queues as data -/

/-- Queue q of owner o. -/
def State.queue (s : State) (o q : Nat) : QueueSt := tabGet (fun _ => QueueSt.init) (s.owner o).queues q

/-- Queue q of owner o changed by f. -/
def State.onQueue (s : State) (o q : Nat) (f : QueueSt → QueueSt) : State :=
  s.onOwner o fun w => { w with queues := tabPut (fun _ => QueueSt.init) w.queues q (f (tabGet (fun _ => QueueSt.init) w.queues q)) }

/-- FIFO cells held by messages, those being taken in included. -/
def QueueSt.held (x : QueueSt) : Nat := x.fifo.foldl (fun a m => a + (m.n - m.popped)) 0

/-- FIFO_FREE (R337). -/
def QueueSt.free (x : QueueSt) : Nat := 64 - (x.held + x.resv)

/-- The tag of cell i of a message (R335). -/
def QMsg.tag (m : QMsg) (i : Nat) (poison : Bool) : Nat :=
  2 ^ 63 + (if i = 0 then 2 ^ 62 else 0) + (if i + 1 = m.n then 2 ^ 61 else 0) + (m.n - 1) * 2 ^ 58 + m.kind * 2 ^ 56
    + (if poison then 2 ^ 55 else 0) + m.src % 2 ^ 22 * 2 ^ 32 + m.rank * 2 ^ 16 + m.aux

/-- Whether a queue's interrupt line is raised: IE and a visible cell (R336). -/
def State.qLine (s : State) (o q : Nat) : Bool :=
  s.fbit (Reg.Q_CFG_IE o q) && (match (s.queue o q).fifo with
    | m :: _ => m.done
    | [] => false)

/-- Q_STAT of queue q (R364). -/
def State.qShow (s : State) (o q : Nat) : State :=
  let x := s.queue o q
  ((s.fset (Reg.Q_STAT_FIFO o q) (min 64 x.held)).fset (Reg.Q_STAT_RESV o q) (min 15 x.resv)).fset (Reg.Q_STAT_RING_USED o q) x.used

/-- f on queue q of owner o, its status shown and its interrupt line raised or withdrawn afterwards. -/
def State.qDo (s : State) (o q : Nat) (f : State → State) : State :=
  let t := (f s).qShow o q
  if t.qLine o q = s.qLine o q then t else t.emitIrq o 1 q (t.qLine o q)

/-- Whether queue q of owner o is open. -/
def State.qOpen (s : State) (o q : Nat) : Bool := s.ownerThere o && s.fbit (Reg.Q_CFG_OPEN o q)

/-- The address of granule k of a spill ring. -/
def State.ringAddr (s : State) (o q k : Nat) : Nat :=
  s.fget (Reg.Q_RING_HI_BASE o q) * 2 ^ 32 + s.fget (Reg.Q_RING_LO_BASE o q) * 64 + 64 * k

/-- A cell written into granule k of the ring: data in bytes 0 to 39, tag in bytes 40 to 47, under the owner's region
registers (R339). -/
def State.ringWrite (s : State) (o q k : Nat) (data : List Byte) (tag : Nat) : State :=
  (s.memWrite (ringWho o) (bytesAt (s.ringAddr o q k) (data ++ leBytes 8 tag)) .none).1

/-- A granule in the slice of a tile that is not there reads as an uncorrectable error, which raises SRAM_UE for a ring (R338, R478). -/
def State.ringAbsent (s : State) (a : Nat) : State :=
  match placeOf (localPart a) with
  | .slice off => if s.tileAbsent (sliceOf off / 4) then s.raise 1 2 (sliceOf off / 4) (a % 2 ^ 32) else s
  | _ => s

/-- The n cells of a message read from granule k on; an uncorrectable error sets POISON, and what a refused read returns is
open (R338). ecc: the error that the first granule holds. -/
def State.ringRead (s : State) (o q k : Nat) (ecc : Ecc) : Nat → State × List (List Byte × Bool)
  | 0 => (s, [])
  | n + 1 =>
    let (s, status, l) := s.memRead (ringWho o) 0 (s.ringAddr o q k) 48 ecc false
    let s := s.ringAbsent (s.ringAddr o q k)
    let (s, d) := if status = 0 then (s, l.take 40) else if status = 5 then (s, List.replicate 40 0) else (s.drawnN 40, s.freeVals 8 40)
    let (s, r) := State.ringRead s o q (k + 1) .none n
    (s, (d, decide (status = 5)) :: r)

/-! ### Slots that release (R349 to R351) -/

/-- The number of slots, sync objects and watch entries of an owner (R333). -/
def slotsOf (o : Nat) : Nat := if o < 128 then 64 else 32
def objsOf (o : Nat) : Nat := if o < 128 then 48 else 32
def watchesOf (o : Nat) : Nat := if o < 128 then 96 else 64

def State.comb (s : State) (o i : Nat) : CombSt := tabGet (fun _ => CombSt.init) (s.owner o).combs i
def State.onComb (s : State) (o i : Nat) (f : CombSt → CombSt) : State :=
  s.onOwner o fun w => { w with combs := tabPut (fun _ => CombSt.init) w.combs i (f (tabGet (fun _ => CombSt.init) w.combs i)) }

/-- COUNT of slot i shown. -/
def State.combShow (s : State) (o i : Nat) : State := s.fset (Reg.Q_COMB_CNT_COUNT o i) (min 65535 (s.comb o i).count)

/-- A CL cell sent to slot k of the owner that a QN, or in rank form a rank, names (R307, R348). CL cells have no reply. -/
def State.sendCl (s : State) (type o qn slot count : Nat) (data : List Byte) : State :=
  let dst := if s.ranks then s.unrank qn else some (ownerCoord (qnDev qn) (qnOwner qn))
  match dst with
  | none => s.count Reg.MESH_RANK_MISS_CNT 1
  | some c =>
    if coDev c ≠ s.devid ∧ !s.routeFor (coDev c) (coHalf c) then s.count Reg.MESH_NOROUTE_CNT 1
    else s.send (.cell type c (ownerCoord s.devid o) slot false [((data ++ List.replicate 32 0).take 32) ++ leBytes 2 count])

/-- Whether slot i may release: armed, its count there, and a place for its sum (R350). -/
def State.combReady (s : State) (o i : Nat) : Bool :=
  s.fbit (Reg.Q_COMB_ARMED o i) && decide (max 1 (s.fget (Reg.Q_COMB_EXPECT o i)) ≤ (s.comb o i).count)
  && (s.comb o i).resv

/-- Slot i releases its sum: to its parent, or into its reserved FIFO cell (R350, R351); OVER and ROUNDS follow; with
AUTO = 1 it asks for the next free cell, with AUTO = 0 it disarms. -/
def State.combRelease (s : State) (o i : Nat) : State :=
  let c := s.comb o i
  let q := s.fget (Reg.Q_COMB_QUEUE o i)
  let expect := max 1 (s.fget (Reg.Q_COMB_EXPECT o i))
  let par := s.fbit (Reg.Q_COMB_PAR_VALID o i)
  let s := if par then s.sendCl 28 o (s.fget (Reg.Q_COMB_PAR_PQN o i)) (s.fget (Reg.Q_COMB_PAR_PSLOT o i)) c.count c.acc
    else
      let src := ownerCoord s.devid o
      let m : QMsg := ⟨1, 2, src, s.rankOf src, i, false, [(c.acc ++ leBytes 2 c.count ++ List.replicate 6 0, false)], 0, true⟩
      s.onQueue o q fun x => { x with fifo := x.fifo ++ [m], resv := x.resv - 1 }
  let s := s.fset (Reg.Q_COMB_CNT_OVER o i) (min 255 (c.count - expect))
  let s := s.fset (Reg.Q_COMB_CNT_ROUNDS o i) (s.fget (Reg.Q_COMB_CNT_ROUNDS o i) + 1)
  let s :=
    if s.fbit (Reg.Q_COMB_AUTO o i) then
      let s := s.onComb o i fun _ => { CombSt.init with resv := par }
      if par then s else s.onQueue o q fun x => { x with want := x.want ++ [i] }
    else
      (((s.foff (Reg.Q_COMB_ARMED o i)).onComb o i fun _ => CombSt.init)).iff par fun s => s.onQueue o q fun x => { x with resv := x.resv - 1 }
  s.combShow o i

/-- A slot is disarmed and its reservation freed (R347). -/
def State.disarm (s : State) (o i : Nat) : State :=
  if s.fbit (Reg.Q_COMB_ARMED o i) then
    let c := s.comb o i
    let s := s.onQueue o (s.fget (Reg.Q_COMB_QUEUE o i)) fun x => { x with resv := x.resv - (if c.resv then 1 else 0), want := x.want.filter (· ≠ i) }
    ((s.foff (Reg.Q_COMB_ARMED o i)).onComb o i fun _ => CombSt.init).combShow o i
  else s

/-! ### Room that becomes free (R338, R350, R356) -/

/-- Slots that wait take free cells, at most 32 reserved; one whose count is there releases. -/
def State.roomSlots (s : State) (o q : Nat) : Nat → State
  | 0 => s
  | n + 1 =>
    let x := s.queue o q
    match x.want with
    | [] => s
    | i :: r =>
      if x.free = 0 ∨ 32 ≤ x.resv then s
      else
        let s := (s.onQueue o q fun x => { x with want := r, resv := x.resv + 1 }).onComb o i fun c => { c with resv := true }
        State.roomSlots (if s.combReady o i then s.combRelease o i else s) o q n

/-- Notices that wait enter the FIFO. -/
def State.roomNotes (s : State) (o q : Nat) : Nat → State
  | 0 => s
  | n + 1 =>
    let x := s.queue o q
    match x.notes with
    | [] => s
    | m :: r => if x.free = 0 then s else State.roomNotes (s.onQueue o q fun x => { x with notes := r, fifo := x.fifo ++ [m] }) o q n

/-- The ring refills the FIFO from HEAD: wrap markers are skipped, a whole message moves once the FIFO has room (R338). ecc: the error that
the first granule read holds. -/
def State.roomRing (s : State) (o q : Nat) (ecc : Ecc) : Nat → State
  | 0 => s
  | n + 1 =>
    let x := s.queue o q
    match x.ring with
    | [] => s
    | (h, none) :: r => State.roomRing (s.onQueue o q fun x => { x with ring := r, head := 0, used := x.used - (s.fget (Reg.Q_CFG_RING_LEN o q) - h) }) o q ecc n
    | (h, some m) :: r =>
      if !m.done || decide (x.free < m.n) then s
      else
        let (s, cells) := s.ringRead o q h ecc m.n
        let next := if h + m.n = s.fget (Reg.Q_CFG_RING_LEN o q) then 0 else h + m.n
        State.roomRing (s.onQueue o q fun x => { x with ring := r, head := next, used := x.used - m.n, fifo := x.fifo ++ [{ m with cells := cells }] }) o q .none n

/-- What waits for room in queue q is given it: slots, then notices, then the ring (log entry 51); ecc: what
the first granule of a refill holds. -/
def State.room (s : State) (o q : Nat) (ecc : Ecc) : State :=
  let x := s.queue o q
  ((s.roomSlots o q (x.want.length + 1)).roomNotes o q (x.notes.length + 1)).roomRing o q ecc (x.ring.length + 1)

/-! ### Arrivals (R337, R342) -/

/-- A message begins to be taken in: its place in the FIFO or the ring, or why it is refused: 0 CLOSED, 1 FULL (R337). -/
def State.qFirst (s : State) (o q : Nat) (m : QMsg) : State :=
  let refuse (why : Nat) (s : State) : State := s.onOwner o fun w => { w with refused := w.refused ++ [⟨q, m.src, m.alt, m.n, why⟩] }
  if !s.qOpen o q then refuse 0 (s.count (Reg.Q_NACK_CNT o) 1)
  else
    let x := s.queue o q
    if x.used = 0 ∧ m.n ≤ x.free then s.onQueue o q fun x => { x with fifo := x.fifo ++ [m] }
    else
      let len := s.fget (Reg.Q_CFG_RING_LEN o q)
      let room := len - x.tail
      let need := if m.n ≤ room then m.n else room + m.n
      if len = 0 ∨ len - x.used < need then refuse 1 (s.count (Reg.Q_FULL_CNT o) 1)
      else
        let s := if room < m.n then
            (s.ringWrite o q x.tail (List.replicate 40 0) (2 ^ 54)).onQueue o q fun x => { x with ring := x.ring ++ [(x.tail, none)], used := x.used + room, tail := 0 }
          else s
        s.onQueue o q fun x => { x with ring := x.ring ++ [(x.tail, some m)], used := x.used + m.n,
                                        tail := if x.tail + m.n = len then 0 else x.tail + m.n }

/-- A message being taken in from a sender on a route. -/
def QMsg.mine (m : QMsg) (src : Nat) (alt : Bool) : Bool := !m.done && decide (m.src = src) && decide (m.alt = alt)

/-- The last element of a list that p holds of, replaced by f of it. -/
def mapLast {α : Type} (p : α → Bool) (f : α → α) (l : List α) : List α :=
  let k := (l.reverse.findIdx? p).map fun i => l.length - 1 - i
  l.mapIdx fun i a => if k = some i then f a else a

/-- A cell of the message from a sender is placed; in the ring it is written as it arrives. -/
def State.qCell (s : State) (o q src : Nat) (alt last : Bool) (data : List Byte) : State :=
  let x := s.queue o q
  let put (m : QMsg) : QMsg := { m with cells := m.cells ++ [(data, false)], done := last }
  if x.fifo.any fun m => m.mine src alt then s.onQueue o q fun x => { x with fifo := mapLast (fun m => m.mine src alt) put x.fifo }
  else
    match x.ring.find? fun e => (e.2.map fun m => m.mine src alt).getD false with
    | some (k, some m) =>
      (s.ringWrite o q (k + m.cells.length) data (m.tag m.cells.length false)).onQueue o q fun x =>
        { x with ring := x.ring.map fun e => if e.1 = k then (e.1, e.2.map put) else e }
    | _ => s

/-- The STATUS reply to a message of k cells for queue q, under its SEQ: code, reason, cell count (R342). -/
def State.qReply (s : State) (q src k code why n : Nat) : State := s.send (.status (src + ((k - 1) * 32 + q) * 2 ^ 22) code why n 0)

/-- The owner that a cell's DST names; 512 where it names no present, enabled owner of this device (R309). -/
def State.dstOwner (s : State) (dst : Nat) : Nat := if s.endpointThere dst then (coordOwner dst).getD 512 else 512

/-- QMSG (R309, R337, R342): one cell of a message arrives at queue q of the owner DST names: LENM1, FIRST, LAST, sender, ALT, its 40 bytes; what
a refill of the FIFO reads. -/
def execQmsg (dst : BitVec 22) (q : Fin 16) (lenm1 : BitVec 3) (first last : Bool) (src : BitVec 22) (alt : Bool) (data : List Byte)
    (ecc : Ecc) (s : State) : Host.Outcome State Fault Refusal :=
  .next (s.alive fun s =>
    let o := s.dstOwner dst.toNat
    let q := q.val
    let src := src.toNat
    let n := lenm1.toNat + 1
    if !s.ownerThere o then (s.iff last fun s => s.qReply q src n 3 0 0).count Reg.MESH_BAD_DST_CNT 1
    else if s.fbit Reg.INST_STATUS_COCOON && decide (o < 128) then s.iff last fun s => s.qReply q src n 3 0 0
    else (s.iff (decide (o < 128)) fun s => s.wakeIsland (o / 2) 2).qDo o q fun s =>
      let d := (data ++ List.replicate 40 0).take 40
      let s := if first then s.qFirst o q ⟨n, 0, src, s.rankOf src, 0, alt, [], 0, false⟩ else s
      let bad := (s.owner o).refused.find? fun r => decide (r.q = q ∧ r.src = src ∧ r.alt = alt)
      match bad with
      | some r =>
        if last then
          (s.onOwner o fun w => { w with refused := w.refused.erase r }).qReply q src r.n (if r.why = 2 then 2 else 1) (if r.why = 2 then 0 else r.why) (if r.why = 2 then r.n else 0)
        else s
      | none =>
        let s := s.qCell o q src alt last d
        if last then ((s.count (Reg.Q_RX_MSG_CNT o) 1).qReply q src n 0 0 0).room o q ecc else s)

/-- The head cell of a queue, once its message is visible: its data and its tag (R335, R336). -/
def State.qHead (s : State) (o q : Nat) : Option (List Byte × Nat) :=
  match (s.queue o q).fifo with
  | m :: _ =>
    if m.done then
      let c := m.cells.getD m.popped ([], false)
      some (c.1, m.tag m.popped c.2)
    else none
  | [] => none

/-- The head cell's tag is returned and the cell removed; an empty queue returns zero (R336). -/
def State.qPop (s : State) (o q : Nat) (ecc : Ecc) : State :=
  s.qDo o q fun s =>
    match s.qHead o q with
    | none => s.emit (.readValue 0)
    | some h =>
      let s := s.onQueue o q fun x => { x with fifo := match x.fifo with
        | m :: r => if m.popped + 1 = m.n then r else { m with popped := m.popped + 1 } :: r
        | [] => [] }
      (s.room o q ecc).emit (.readValue h.2)

/-- QUEUE_POP (R336): an 8-byte read of POP returns the head cell's tag and removes the cell; on an empty queue it returns
zero. ecc: what a refill of the FIFO from the ring reads (R338). -/
def execQueuePop (o : Fin 136) (q : Fin 16) (ecc : Ecc) (s : State) : Host.Outcome State Fault Refusal :=
  .next (s.alive fun s => if !s.ownerRuns o then s else s.qPop o q ecc)

/-! ### Opening and closing (R339, R343, R344, R399) -/

/-- Whether a ring of len granules lies in the slices and the owner's region set lets it be read and written. -/
def State.ringOk (s : State) (o q len : Nat) : Bool :=
  let a := s.ringAddr o q 0
  decide (len = 0)
  || (decide (0x80000000000 ≤ a) && decide (a + 64 * len ≤ 0x80030000000) && s.allows (ringWho o) 0 a (64 * len) && s.allows (ringWho o) 1 a (64 * len))

/-- A closed queue opens with FIFO and ring empty; where its ring is not allowed the write is ignored (R339). -/
def State.openQueue (s : State) (o q : Nat) : State :=
  if s.fbit (Reg.Q_CFG_OPEN o q) then s
  else if s.ringOk o q (s.fget (Reg.Q_CFG_RING_LEN o q)) then (s.fon (Reg.Q_CFG_OPEN o q)).onQueue o q fun _ => QueueSt.init
  else s.ignored (Reg.Q_CFG o q)

/-- An open queue closes (R343, R347, R356): whole messages are lost and counted, messages being taken in are discarded with
DISCARD at their LAST cell, waiting notices are dropped, slots bound to it disarm. -/
def State.closeQueue (s : State) (o q : Nat) : State :=
  if !s.fbit (Reg.Q_CFG_OPEN o q) then s
  else
    let x := s.queue o q
    let all := x.fifo ++ x.ring.filterMap Prod.snd
    let lost := (all.filter QMsg.done).foldl (fun a m => a + (m.n - m.popped)) 0
    let part := (all.filter fun m => !m.done).map fun m => (⟨q, m.src, m.alt, m.n, 2⟩ : Refused)
    let s := (s.count (Reg.Q_LOST_CNT o) lost).count (Reg.Q_NOTICE_DROP_CNT o) x.notes.length
    let s := s.onOwner o fun w => { w with refused := w.refused ++ part }
    let s := forN (slotsOf o) (fun i s => if s.fget (Reg.Q_COMB_QUEUE o i) = q then s.disarm o i else s) s
    (s.foff (Reg.Q_CFG_OPEN o q)).onQueue o q fun _ => QueueSt.init

/-- QUEUE_OPEN (R339): a write of Q_CFG with OPEN = 1. RING_LEN takes the value only while the queue is closed (R364). -/
def execQueueOpen (m : Master) (o : Fin 136) (q : Fin 16) (ie : Bool) (ringLen : BitVec 20) (s : State) : Host.Outcome State Fault Refusal :=
  .next (s.alive fun s => s.guarded m (Reg.Q_CFG o q) fun s =>
    if !s.ownerThere o then s
    else s.qDo o q fun s =>
      let s := s.fflag (Reg.Q_CFG_IE o q) ie
      let s := if !s.fbit (Reg.Q_CFG_OPEN o q) then s.fset (Reg.Q_CFG_RING_LEN o q) ringLen.toNat
        else if s.fget (Reg.Q_CFG_RING_LEN o q) ≠ ringLen.toNat then s.ignored (Reg.Q_CFG o q) else s
      s.openQueue o q)

/-- QUEUE_CLOSE (R343): a write of Q_CFG with OPEN = 0. -/
def execQueueClose (m : Master) (o : Fin 136) (q : Fin 16) (s : State) : Host.Outcome State Fault Refusal :=
  .next (s.alive fun s => s.guarded m (Reg.Q_CFG o q) fun s => if s.ownerThere o then s.qDo o q fun s => s.closeQueue o q else s)

/-! ### Senders (R340 to R342) -/

/-- A message ends other than OK at the sender's interface (R342). -/
def State.txFail (s : State) (o qn : Nat) : State :=
  ((s.count (Reg.Q_TX_FAIL_CNT o) 1).fon (Reg.Q_STATUS_NACK o)).fset (Reg.Q_STATUS_LAST_FAIL o) qn

/-- The multicast unit's completion object is signalled by 1 (R346). -/
def State.mcEnd (s : State) (o : Nat) : State :=
  let obj := s.fget (Reg.Q_MC_CFG_OBJ o)
  ((s.foff (Reg.Q_STATUS_MC_BUSY o)).onOwner o fun w => { w with mc := none }).iff (decide (obj ≠ 0xFFFF)) fun s =>
    s.request (ownerCoord s.devid o) 1 fun tag => .sync s.devid obj 0 1 0 (ownerCoord s.devid o + tag * 2 ^ 22)

/-- Copy i of the multicast ends (R346): DONE or FAIL takes its bit; with every selected copy decided it completes. A copy of a multicast that
a reset abandoned decides nothing. -/
def State.mcBit (s : State) (o i : Nat) (ok : Bool) : State :=
  match (s.owner o).mc.filter fun _ => i < 32 with
  | none => s
  | some mc =>
    let r := if ok then Reg.Q_MC_DONE o else Reg.Q_MC_FAIL o
    let s := s.wr r (s.rd r ||| BitVec.ofNat 32 (2 ^ i))
    if mc.sel.all fun i => bit ((s.rd (Reg.Q_MC_DONE o)).toNat ||| (s.rd (Reg.Q_MC_FAIL o)).toNat) i then s.mcEnd o else s

/-- A wake message ends refused (R258, R260, R342). -/
def State.wakeFail (s : State) (i : Nat) (bell : Bool) : State :=
  (s.count (Reg.ING_WAKE_NACK_CNT i) 1).iff bell fun s => s.onTok i fun t => { t with nack := true }

/-- The outcome of a message: its place and its reply cell are free; a failure is counted by its sender. -/
def State.sendEnds (s : State) (o : Nat) (x : SendSt) (ok counted : Bool) : State :=
  let s := (s.onOwner o fun w => { w with busy := w.busy.filter fun y => decide (y.qn ≠ x.qn) }).replied (ownerCoord s.devid o) 1
  let s := if ok || !counted then s else match x.wake with
    | some (i, bell) => s.wakeFail i bell
    | none => if o < 136 then s.txFail o x.qn else s
  match x.entry with
  | some i => s.mcBit o i ok
  | none => s

/-- A message's cells leave under its one reply cell (R341, R342); to a device without a route it is refused at once (R309). -/
def State.launch (s : State) (o : Nat) (x : SendSt) : State :=
  let d := qnDev x.qn
  let half := coHalf (ownerCoord d (qnOwner x.qn))
  let s := if (s.owner o).busy.any fun y => decide (y.qn = x.qn) then s else s.reserve (ownerCoord s.devid o) 1
  let s := s.onOwner o fun w => { w with busy := (w.busy.filter fun y => decide (y.qn ≠ x.qn)) ++ [{ x with sentAt := s.time, retryAt := none }] }
  if d ≠ s.devid ∧ !s.routeFor d half then (s.count Reg.MESH_NOROUTE_CNT 1).sendEnds o x false true
  else s.send (.qmsg d (qnOwner x.qn) (qnQueue x.qn) (ownerCoord s.devid o)
    (decide (d ≠ s.devid) && s.fbit (Reg.MESH_XROUTE_ON_ALT (2 * d + half))) x.cells)

/-- Whether a message for a queue finds its place: fewer than eight wait, none for that queue, a reply cell is free (R310, R341). -/
def State.place (s : State) (o qn : Nat) : Bool :=
  decide ((s.owner o).busy.length < 8) && ((s.owner o).busy.all fun y => decide (y.qn ≠ qn)) && s.replyFree (ownerCoord s.devid o)

/-- The QN of a multicast entry. -/
def State.entryQn (s : State) (o i : Nat) : Nat := s.fget (Reg.Q_MC_ENT_QN o i)

/-- The copies of the multicast that find their places are sent, in ascending entries (R345). -/
def State.pumpMc (s : State) (o : Nat) : State :=
  match (s.owner o).mc with
  | none => s
  | some mc =>
    forL mc.todo (fun i s =>
      let qn := s.entryQn o i
      if s.place o qn && (s.owner o).mc.isSome then
        (s.onOwner o fun w => { w with mc := w.mc.map fun c => { c with todo := c.todo.filter (· ≠ i) } }).launch o ⟨qn, mc.cells, some i, none, 0, none⟩
      else s) s

/-- A multicast starts (R346). -/
def State.mcStart (s : State) (o : Nat) (cells : List (List Byte)) : State :=
  let sel := (List.range 32).filter fun i => bit (s.rd (Reg.Q_MC_MASK o)).toNat i && s.fbit (Reg.Q_MC_ENT_VALID o i)
  let s := (((s.wr (Reg.Q_MC_DONE o) 0).wr (Reg.Q_MC_FAIL o) 0).fon (Reg.Q_STATUS_MC_BUSY o)).onOwner o fun w =>
    { w with mc := some ⟨sel, sel, cells, s.time, false⟩ }
  if sel = [] then s.mcEnd o else s

/-- The destination of a Q_SEND: the QN itself, or in rank form the queue named at the owner that the rank names (R307, R340);
none where the rank names no owner. -/
def State.sendQn (s : State) (w : Nat) : Option Nat :=
  if s.ranks then
    match s.unrank (bits w 15 0) with
    | some c => (coordOwner c).map fun o => qnOf (coDev c) o (bits w 19 16)
    | none => none
  else some (bits w 15 0)

/-- The core's stalled sends proceed in order (R341, R345). -/
def State.pumpCore (s : State) (o : Nat) : Nat → State
  | 0 => s
  | n + 1 =>
    match (s.owner o).stalled with
    | [] => s
    | (w, cells) :: r =>
      let go := s.onOwner o fun x => { x with stalled := r }
      if bit w 31 then
        if (s.owner o).mc.isSome then s else State.pumpCore ((go.mcStart o cells).pumpMc o) o n
      else match s.sendQn w with
        | none =>
          -- refused at the interface: no owner stands behind the rank; LAST_FAIL names no queue (log entry 51)
          let t := if (s.unrank (bits w 15 0)).isNone then go.count Reg.MESH_RANK_MISS_CNT 1 else go
          State.pumpCore ((t.txFail o (t.freeVal 16).toNat).drawn) o n
        | some qn =>
          let copyFirst := match (s.owner o).mc with
            | some mc => mc.todo.any fun i => decide (s.entryQn o i = qn)
            | none => false
          if s.place o qn && !copyFirst then State.pumpCore (go.launch o ⟨qn, cells, none, none, 0, none⟩) o n else s

/-- Wake messages that wait for their place proceed in order (R342). -/
def State.pumpWakes (s : State) : Nat → State
  | 0 => s
  | n + 1 =>
    match (s.owner 136).wakes with
    | [] => s
    | x :: r => if s.place 136 x.qn then State.pumpWakes ((s.onOwner 136 fun w => { w with wakes := r }).launch 136 x) n else s

/-- A place became free at owner o's interface. -/
def State.pump (s : State) (o : Nat) : State :=
  let s := (s.pumpCore o ((s.owner o).stalled.length + 1)).pumpMc o
  if o = 136 then s.pumpWakes ((s.owner 136).wakes.length + 1) else s

/-- Stores to the transmit buffer's cells (R340). -/
def txStores (t : List (List Byte)) (l : List (Fin 8 × List Byte)) : List (List Byte) :=
  l.foldl (fun t x => t.set x.1.val ((x.2 ++ List.replicate 40 0).take 40)) t

/-- A Q_SEND: stores to the transmit buffer, then the word; the first n cells are copied at once (R340). -/
def State.qSend (s : State) (o : Nat) (stores : List (Fin 8 × List Byte)) (w : Nat) : State :=
  if !s.ownerRuns o then s
  else
    let t := txStores (s.owner o).tx stores
    (s.onOwner o fun x => { x with tx := t, stalled := x.stalled ++ [(w, t.take (bits w 30 28 + 1))] }).pump o

/-- Q_SEND (R340): a unicast message: LENM1, QUEUE for rank form, DEST. -/
def execQSend (o : Fin 136) (stores : List (Fin 8 × List Byte)) (lenm1 : BitVec 3) (queue : BitVec 4) (dest : BitVec 16) (s : State) :
    Host.Outcome State Fault Refusal :=
  .next (s.alive fun s => s.qSend o stores (lenm1.toNat * 2 ^ 28 + queue.toNat * 2 ^ 16 + dest.toNat))

/-- Q_SEND_MULTICAST (R345): a Q_SEND with MC = 1. -/
def execQSendMulticast (o : Fin 136) (stores : List (Fin 8 × List Byte)) (lenm1 : BitVec 3) (s : State) : Host.Outcome State Fault Refusal :=
  .next (s.alive fun s => s.qSend o stores (2 ^ 31 + lenm1.toNat * 2 ^ 28))

/-- The message of owner o's interface that awaits its reply from a queue. -/
def State.awaits (s : State) (o qn : Nat) : Option SendSt := (s.owner o).busy.find? fun y => decide (y.qn = qn ∧ y.retryAt = none)

/-- The reply to a message (R342): 0 OK, 1 NACK (reason 0 CLOSED, 1 FULL), 2 DISCARD with a cell count, others as CLOSED. A
copy refused FULL after its multicast timed out is abandoned (R346). -/
def State.msgReply (s : State) (o : Nat) (x : SendSt) (code why n : Nat) : State :=
  let past := x.entry.isSome && (decide (x.entry = some 32) || (((s.owner o).mc.map McSt.past).getD true))
  if code = 1 ∧ why = 1 then
    if past then (s.count (Reg.Q_TX_FAIL_CNT o) 1).sendEnds o x false false
    else s.onOwner o fun w => { w with busy := w.busy.map fun y => if y.qn = x.qn then { y with retryAt := some (s.time + 100) } else y }
  else if code = 0 then s.sendEnds o x true true
  else if code = 2 then
    let s := if o < 136 then ((s.count (Reg.Q_TX_DISCARD_CNT o) n).fon (Reg.Q_STATUS_DISCARD o)).fset (Reg.Q_STATUS_LAST_FAIL o) x.qn else s
    s.sendEnds o x false false
  else s.sendEnds o x false true

/-- QMSG_REPLY (R342): a STATUS reply for owner o's message to a queue arrives (136: the time base). -/
def execQmsgReply (o : Fin 137) (qn : BitVec 16) (code : Fin 8) (why : BitVec 8) (n : BitVec 8) (s : State) : Host.Outcome State Fault Refusal :=
  .next (s.alive fun s =>
    match s.awaits o qn.toNat with
    | some x => (s.msgReply o x code why.toNat n.toNat).pump o
    | none => s)

/-- QMSG_RESEND (R342): 100 ns after a FULL refusal the whole message is sent again. -/
def execQmsgResend (o : Fin 137) (qn : BitVec 16) (s : State) : Host.Outcome State Fault Refusal :=
  .next (s.alive fun s =>
    match (s.owner o).busy.find? fun y => decide (y.qn = qn.toNat) with
    | some x => (match x.retryAt with
      | some t => if t ≤ s.time then (s.launch o x).pump o else s
      | none => s)
    | none => s)

/-- QMSG_REPLY_TIMEOUT (R342): no reply within 1 ms of the last cell counts as LINK_LOST. -/
def execQmsgReplyTimeout (o : Fin 137) (qn : BitVec 16) (s : State) : Host.Outcome State Fault Refusal :=
  .next (s.alive fun s =>
    match s.awaits o qn.toNat with
    | some x => if x.sentAt + 1000000 ≤ s.time then (s.msgReply o x 6 0 0).pump o else s
    | none => s)

/-- Copies that are not yet sent or wait to be sent again after FULL are abandoned and set in FAIL (R346, R368); those that
had been sent count as failed (log entry 51). -/
def State.mcAbandon (s : State) (o : Nat) : State :=
  match (s.owner o).mc with
  | none => s
  | some mc =>
    let again := ((s.owner o).busy.filter fun y => y.entry.isSome && y.retryAt.isSome)
    let gone := mc.todo ++ again.filterMap SendSt.entry
    let s := s.onOwner o fun w => { w with
      mc := w.mc.map fun c => { c with todo := [], past := true },
      busy := w.busy.filter fun y => !(y.entry.isSome && y.retryAt.isSome) }
    forL gone (fun i s => s.mcBit o i false) ((s.count (Reg.Q_TX_FAIL_CNT o) again.length).replied (ownerCoord s.devid o) again.length)

/-- MC_TIMEOUT (R346): TIMEOUT µs after the Q_SEND. -/
def execMcTimeout (o : Fin 136) (s : State) : Host.Outcome State Fault Refusal :=
  .next (s.alive fun s =>
    let t := s.fget (Reg.Q_MC_CFG_TIMEOUT o)
    match (s.owner o).mc with
    | some mc => if t ≠ 0 ∧ mc.start + 1000 * t ≤ s.time then (s.mcAbandon o).pump o else s
    | none => s)

/-- A load of Q_WDRAIN by core o: it returns 0 at once where no store is out, else when the last is acknowledged (R362). -/
def State.wdrain (s : State) (o : Nat) : State :=
  if (s.owner o).out = 0 then s.emit (.readValue 0) else s.onOwner o fun w => { w with drain := true }

/-- Q_WDRAIN (R362): the load completes once every earlier store is acknowledged and returns 0; it waits while a store is held by a channel
that retrains or is out to another device. -/
def execQWdrain (o : Fin 136) (s : State) : Host.Outcome State Fault Refusal :=
  .next (s.alive fun s => if !s.ownerRuns o then s else s.wdrain o)

/-! ### Combining slots (R347 to R350) -/

/-- A slot is armed: count and accumulator zero, one FIFO cell of its queue reserved; ignored while the queue is closed or 32
of its cells are reserved, its own included (R347). A slot that is armed already starts anew. -/
def State.arm (s : State) (o i : Nat) : State :=
  let q := s.fget (Reg.Q_COMB_QUEUE o i)
  if !s.qOpen o q || decide (32 ≤ (s.queue o q).resv) then s.ignored (Reg.Q_COMB o i)
  else
    let s := if s.fbit (Reg.Q_COMB_ARMED o i) then s.disarm o i else s
    let s := ((s.fon (Reg.Q_COMB_ARMED o i)).onComb o i fun _ => { CombSt.init with resv := decide (0 < (s.queue o q).free) }).combShow o i
    if 0 < (s.queue o q).free then s.onQueue o q fun x => { x with resv := x.resv + 1 } else s.onQueue o q fun x => { x with want := x.want ++ [i] }

/-- COMB_ARM (R347): a write of Q_COMBi with ARMED = 1. Its other fields take the value only while the slot is disarmed
(R366). -/
def execCombArm (m : Master) (o : Fin 136) (i : Fin 64) (auto : Bool) (mode : BitVec 2) (queue : BitVec 4) (expect : BitVec 16) (s : State) :
    Host.Outcome State Fault Refusal :=
  .next (s.alive fun s => s.guarded m (Reg.Q_COMB o i) fun s =>
    if !s.ownerThere o || decide (slotsOf o ≤ i.val) then s
    else
      let same := decide (s.fbit (Reg.Q_COMB_AUTO o i) = auto ∧ s.fget (Reg.Q_COMB_MODE o i) = mode.toNat ∧ s.fget (Reg.Q_COMB_QUEUE o i) = queue.toNat ∧ s.fget (Reg.Q_COMB_EXPECT o i) = expect.toNat)
      let s := if s.fbit (Reg.Q_COMB_ARMED o i) then (if same then s else s.ignored (Reg.Q_COMB o i))
        else (((s.fflag (Reg.Q_COMB_AUTO o i) auto).fset (Reg.Q_COMB_MODE o i) mode.toNat).fset (Reg.Q_COMB_QUEUE o i) queue.toNat).fset (Reg.Q_COMB_EXPECT o i) expect.toNat
      let q := s.fget (Reg.Q_COMB_QUEUE o i)
      s.qDo o q fun s => (s.arm o i).room o q .none)

/-- COMB_DISARM (R347): a write of ARMED = 0. -/
def execCombDisarm (m : Master) (o : Fin 136) (i : Fin 64) (s : State) : Host.Outcome State Fault Refusal :=
  .next (s.alive fun s => s.guarded m (Reg.Q_COMB o i) fun s =>
    if !s.ownerThere o || decide (slotsOf o ≤ i.val) then s
    else
      let q := s.fget (Reg.Q_COMB_QUEUE o i)
      s.qDo o q fun s => (s.disarm o i).room o q .none)

/-- A contribution of core o: bytes 0 to 31 of transmit-buffer cell 0 go to a slot of the owner that a QN names (R348). -/
def State.clSend (s : State) (o slot qn : Nat) : State := s.sendCl 27 o qn slot 1 (((s.owner o).tx.getD 0 []).take 32)

/-- Q_CLADD (R348): stores to transmit-buffer cell 0, then the word that sends its bytes 0 to 31 to a slot. -/
def execQCladd (o : Fin 136) (stores : List (Fin 8 × List Byte)) (slot : BitVec 6) (qn : BitVec 16) (s : State) : Host.Outcome State Fault Refusal :=
  .next (s.alive fun s =>
    if !s.ownerRuns o then s
    else (s.onOwner o fun x => { x with tx := txStores x.tx stores }).clSend o slot.toNat qn.toNat)

/-- A contribution's lanes added to an accumulator (R349). -/
def addLanes (mode : Nat) (a d : List Byte) : List Byte :=
  let w := if mode = 1 then 8 else 4
  (List.range (32 / w)).flatMap fun i =>
    let x := leNat ((a.drop (w * i)).take w)
    let y := leNat ((d.drop (w * i)).take w)
    leBytes w (if mode = 2 then add32 x y else x + y)

/-- A contribution arrives at slot i of owner o (R349, R350). -/
def State.contribute (s : State) (o i count : Nat) (data : List Byte) : State :=
  if slotsOf o ≤ i ∨ !s.fbit (Reg.Q_COMB_ARMED o i) then s.count (Reg.Q_CL_DROP_CNT o) 1
  else
    let q := s.fget (Reg.Q_COMB_QUEUE o i)
    s.qDo o q fun s =>
      let mode := s.fget (Reg.Q_COMB_MODE o i)
      let s := (s.onComb o i fun c => { c with acc := addLanes mode c.acc ((data ++ List.replicate 32 0).take 32), count := c.count + count }).combShow o i
      if s.combReady o i then (s.combRelease o i).room o q .none else s

/-- A CL cell reaches the owner its DST names (R309, R349). -/
def State.clArrive (s : State) (dst i count : Nat) (data : List Byte) : State :=
  if s.ownerThere (s.dstOwner dst) then s.contribute (s.dstOwner dst) i count data else s.count Reg.MESH_BAD_DST_CNT 1

/-- CL_ADD (R349): a contribution arrives at a slot of the owner DST names; it counts 1. -/
def execClAdd (dst : BitVec 22) (slot : BitVec 8) (data : List Byte) (s : State) : Host.Outcome State Fault Refusal :=
  .next (s.alive fun s => s.clArrive dst.toNat slot.toNat 1 data)

/-- CL_SUM (R350): a child's sum arrives at its parent slot, with the contributions it stands for. -/
def execClSum (dst : BitVec 22) (slot : BitVec 8) (count : BitVec 16) (data : List Byte) (s : State) : Host.Outcome State Fault Refusal :=
  .next (s.alive fun s => s.clArrive dst.toNat slot.toNat count.toNat data)

/-! ### Resets of an owner (R344, R347, R368) -/

/-- The queue side of a reset of owner o: queues closed, IE cleared, slots disarmed, a multicast abandoned without a signal, its copies in
flight its own no more, stalled sends gone. -/
def State.queuesReset (s : State) (o : Nat) : State :=
  let s := forN (slotsOf o) (fun i s => s.disarm o i) s
  let s := forN 16 (fun q s => s.qDo o q fun s => (s.closeQueue o q).foff (Reg.Q_CFG_IE o q)) s
  let s := match (s.owner o).mc with
    | none => s
    | some mc =>
      let again := (s.owner o).busy.filter fun (y : SendSt) => y.entry.isSome && y.retryAt.isSome
      let gone := mc.todo ++ again.filterMap SendSt.entry
      let s := s.wr (Reg.Q_MC_FAIL o) (gone.foldl (fun w i => w ||| BitVec.ofNat 32 (2 ^ i)) (s.rd (Reg.Q_MC_FAIL o)))
      ((s.foff (Reg.Q_STATUS_MC_BUSY o)).onOwner o fun w => {
        w with
        mc := none
        busy := (w.busy.filter fun (y : SendSt) => !(y.entry.isSome && y.retryAt.isSome)).map fun (y : SendSt) => { y with entry := y.entry.map fun (_ : Nat) => 32 } }).replied
        (ownerCoord s.devid o) again.length
  s.onOwner o fun w => { w with stalled := [], drain := false }

end Sys2Proof.Machine
end

