-- ==== Sys2Proof/Machine/TokenEngine.lean ====
section
/-! DEFINITION. The token engines (chapter 8): wakes and class events, capture-ring windows, the event-to-tensor bridge,
append units, context sources, result and class-event queues. -/

namespace Sys2Proof.Machine

/-- N(u), the nominal instant of boundary B(u) (R136). -/
def State.stepNominal (s : State) (u : Nat) : Nat := s.rd64 Reg.TB_STEP_T0_LO + u * s.fget Reg.TB_STEP_LEN_DELTA

/-- The step whose number modulo 2^32 is u, the last such at or before the next boundary's (R136). -/
def State.fullStep (s : State) (u : Nat) : Nat :=
  let back := (s.tb.nextU + 2 ^ 32 - u % 2 ^ 32) % 2 ^ 32
  if back ≤ s.tb.nextU then s.tb.nextU - back else u % 2 ^ 32

/-! ### Result and class-event queues (R280 to R287, R453) -/

/-- The queue of stream i: the class-event queue when cls. -/
def State.hostQ (s : State) (i : Nat) (cls : Bool) : HostQ := if cls then (s.tok i).cq else (s.tok i).rq

/-- That queue set. -/
def State.setHostQ (s : State) (i : Nat) (cls : Bool) (q : HostQ) : State :=
  s.onTok i fun t => if cls then { t with cq := q } else { t with rq := q }

/-- The word of an entry (R280). -/
def HostEnt.word (e : HostEnt) : Nat := 2 ^ 63 + e.type % 16 * 2 ^ 56 + e.seq % 65536 * 2 ^ 40 + e.payload % 2 ^ 40

/-- Whether the queues shadow: standby role with SHADOW = 1 (R453). -/
def State.shadows (s : State) : Bool := s.standby && s.fbit Reg.AON_TWIN_CTL_SHADOW

/-- What PCIE_RQ_SPACE reads for stream i (R283, R453). -/
def State.rqSpace (s : State) (i : Nat) : Nat := if s.shadows then 1024 else 1024 - (s.tok i).rq.ents.length

/-- An entry accepted: it takes SEQ, and its vector fires when the queue was empty (R283, R285). -/
def State.hostPush (s : State) (i : Nat) (cls : Bool) (type payload stamp : Nat) : State :=
  let q := s.hostQ i cls
  (s.setHostQ i cls { q with ents := q.ents ++ [⟨type, q.seq, payload, stamp⟩], seq := (q.seq + 1) % 65536 }).iff q.ents.isEmpty
    fun s => s.emit (.msix (if cls then 32 + i else i))

/-- Room is made in shadow mode: a full queue discards its oldest entry, which enters no replay slot (R453). -/
def State.hostShadow (s : State) (i : Nat) (cls : Bool) : State :=
  let q := s.hostQ i cls
  if s.shadows && decide (1024 ≤ q.ents.length) then
    (s.setHostQ i cls { q with ents := q.ents.drop 1 }).count Reg.AON_TWIN_SHADOW_DROP_CNT 1
  else s

/-- A result post (R280, R283). -/
def State.rqPost (s : State) (i : Nat) (v : Nat) : State :=
  let type := bits v 59 56
  if type = 0 ∨ 5 < type then s.count (Reg.ING_RQ_OVF_CNT i) 1
  else
    let s := s.hostShadow i false
    if 1024 ≤ (s.tok i).rq.ents.length then (s.count (Reg.ING_RQ_OVF_CNT i) 1).onTok i fun t => { t with ovf := true }
    else s.hostPush i false type (bits v 39 0) s.now

/-- RQ_POST (R283): a 64-bit write to PCIE_RQ_POST of stream i. -/
def execRqPost (m : Master) (i : Fin 32) (v : BitVec 64) (s : State) : Host.Outcome State Fault Refusal :=
  .next (s.alive fun s => s.guarded m (Reg.PCIE_RQ_POST_HI i) fun s =>
    (s.onTok i fun t => { t with postLo := v.extractLsb' 0 32 }).rqPost i v.toNat)

/-- A class event posted; a full queue drops it and its SEQ is consumed (R257, R284). -/
def State.cqPost (s : State) (i cls n j grade stamp : Nat) : State :=
  let s := s.hostShadow i true
  let q := (s.tok i).cq
  if 1024 ≤ q.ents.length then (s.setHostQ i true { q with seq := (q.seq + 1) % 65536 }).count (Reg.ING_CQ_DROP_CNT i) 1
  else s.hostPush i true 8 (cls * 2 ^ 32 + n * 2 ^ 22 + j * 2 ^ 8 + grade) stamp

/-- The head entry popped into its replay slot (R281, R286). -/
def State.hostPop (s : State) (i : Nat) (cls : Bool) : State × Option HostEnt :=
  let q := s.hostQ i cls
  match q.ents with
  | e :: r => (s.setHostQ i cls { q with ents := r, replay := tabPut (fun _ => none) q.replay (e.seq % 128) (some e) }, some e)
  | [] => (s, none)

/-- A naturally aligned 8-byte read of a POP64 returns the head entry's word and pops it; another read returns zero (R281). -/
def State.pop64 (s : State) (i : Nat) (cls ok : Bool) : State :=
  if ok then
    let (s, e) := s.hostPop i cls
    s.emit (.readValue ((e.map HostEnt.word).getD 0))
  else s.emit (.readValue 0)

/-- A naturally aligned 16-byte read of a POP128 returns word and stamp and pops the entry once (R281). -/
def State.pop128 (s : State) (i : Nat) (cls ok : Bool) : State :=
  if ok then
    let (s, e) := s.hostPop i cls
    s.emit (.readValue ((e.map fun e => e.word + e.stamp % 2 ^ 64 * 2 ^ 64).getD 0))
  else s.emit (.readValue 0)

/-- POP64 (R37, R281): a naturally aligned 8-byte read returns the head entry's word and pops it; another read returns zero. -/
def execPop64 (i : Fin 32) (cls : Bool) (size : BitVec 8) (aligned : Bool) (s : State) : Host.Outcome State Fault Refusal :=
  .next (s.alive fun s => s.bar fun s => s.pop64 i cls (decide (size = 8) && aligned))

/-- POP128 (R281): a naturally aligned 16-byte read returns word and stamp and pops the entry once. -/
def execPop128 (i : Fin 32) (cls : Bool) (size : BitVec 8) (aligned : Bool) (s : State) : Host.Outcome State Fault Refusal :=
  .next (s.alive fun s => s.bar fun s => s.pop128 i cls (decide (size = 16) && aligned))

/-- The bytes of a replay window: slot k at 16·k, word and stamp (R286). A slot nothing was popped into reads zero. -/
def State.replayBytes (s : State) (i : Nat) (cls : Bool) : List Byte :=
  (List.range 128).flatMap fun k =>
    match tabGet (fun _ => none) (s.hostQ i cls).replay k with
    | some e => leBytes 8 e.word ++ leBytes 8 e.stamp
    | none => List.replicate 16 0

/-- REPLAY_READ (R286): a read of a replay window pops nothing. -/
def execReplayRead (i : Fin 32) (cls : Bool) (off : BitVec 11) (size : BitVec 8) (s : State) : Host.Outcome State Fault Refusal :=
  .next (s.alive fun s => s.bar fun s => s.emit (.readValue (leNat (((s.replayBytes i cls).drop off.toNat).take size.toNat))))

/-- What RQ_STATUS and CQ_STATUS read (R287). -/
def State.hostStatus (s : State) (i : Nat) (cls : Bool) : Nat :=
  let q := s.hostQ i cls
  (if !cls && (s.tok i).ovf then 2 ^ 31 else 0) + (if !cls && (s.tok i).nack then 2 ^ 30 else 0) + q.ents.length * 2 ^ 16 + q.seq

/-! ### Wakes (R257 to R260) and capture-ring windows (R261, R262) -/

/-- The object of the window is signalled by 1 (R261). -/
def State.windowSignal (s : State) (i : Nat) : State :=
  s.request (streamCoord s.devid i) 1 fun tag => .sync s.devid (s.fget (Reg.ING_WIN_OBJ_OBJ i)) 0 1 0 (streamCoord s.devid i + tag * 2 ^ 22)

/-- The window of a wake message (R261): signalled at once where a record past its end has been acknowledged, or where the
stream is absent and its marker written (R262); else held among four, or missed. -/
def State.openWindow (s : State) (i time : Nat) : State :=
  let w := time + 16 * s.fget (Reg.ING_WIN_POST i) - s.fget (Reg.ING_WIN_OBJ_LEAD_NS i)
  let x := s.stream i
  if w * 65536 < x.acked ∨ (x.marked = true ∧ s.fbit (Reg.ING_STATUS_ABSENT i) = true) then s.windowSignal i
  else if 4 ≤ x.windows.length then s.count (Reg.ING_WIN_MISS_CNT i) 1
  else s.onStream i fun t => { t with windows := t.windows ++ [w] }

/-- A wake message's cell (R258). -/
def State.wakeCell (s : State) (i kind time step n j grade cls arg : Nat) : List Byte :=
  leBytes 8 time ++ leBytes 4 step ++ leBytes 2 n ++ leBytes 2 j ++ [BitVec.ofNat 8 grade, BitVec.ofNat 8 cls, BitVec.ofNat 8 kind, BitVec.ofNat 8 i]
    ++ leBytes 4 arg ++ leBytes 8 (s.rd64 (Reg.ING_RING_WP_LO i)) ++ leBytes 4 (s.tok i).merged ++ leBytes 4 0

/-- A wake message is sent to the queue that ING_WAKE_Q names, through the time base's interface (R258, R342). -/
def State.wakeSend (s : State) (i kind time step n j grade cls arg : Nat) : State :=
  let c := s.wakeCell i kind time step n j grade cls arg
  let qn := qnOf s.devid (s.fget (Reg.ING_WAKE_Q_OWNER i)) (s.fget (Reg.ING_WAKE_Q_QUEUE i))
  let s := ((s.count (Reg.ING_WAKE_CNT i) 1).onTok i fun t => { t with merged := 0 }).openWindow i time
  (s.onOwner 136 fun w => { w with wakes := w.wakes ++ [⟨qn, [c], none, some (i, decide (kind = 1)), 0, none⟩] }).pump 136

/-- The wake table of stream i meets an output record: the entry of lowest index posts a class event stamped N(u + 1), and
sends or merges a wake by steps modulo 2^32 (R136, R257, R259). u is the full step number. -/
def State.wakeRecord (s : State) (i n j grade u : Nat) : State :=
  match (List.range 32).find? fun k =>
      s.fbit (Reg.ING_WAKE_E0_VALID i k) && decide (s.fget (Reg.ING_WAKE_E0_CORE i k) = n)
      && decide (s.fget (Reg.ING_WAKE_E1_J_FIRST i k) ≤ j) && decide (j ≤ s.fget (Reg.ING_WAKE_E1_J_LAST i k)) with
  | none => s
  | some k =>
    let cls := s.fget (Reg.ING_WAKE_E0_CLASS i k)
    let stamp := s.stepNominal (u + 1)
    let s := s.cqPost i cls n j grade stamp
    if s.fbit (Reg.ING_WAKE_E0_WAKE i k) && s.fbit (Reg.ING_WAKE_CFG_EN i) then
      let near := match (s.tok i).lastWake with
        | some l => decide ((u % 2 ^ 32 + 2 ^ 32 - l) % 2 ^ 32 < s.fget (Reg.ING_WAKE_CFG_HOLDOFF i))
        | none => false
      if near then (s.count (Reg.ING_WAKE_MERGE_CNT i) 1).onTok i fun t => { t with merged := t.merged + 1 }
      else (s.onTok i fun t => { t with lastWake := some (u % 2 ^ 32) }).wakeSend i 0 stamp (u % 2 ^ 32) n j grade cls 0
    else s

/-- DOORBELL (R260): the host writes DOORBELL of stream i. -/
def execDoorbell (i : Fin 32) (arg : Word) (s : State) : Host.Outcome State Fault Refusal :=
  .next (s.alive fun s => s.bar fun s => s.wakeSend i 1 s.now 0 0 0 0 0 arg.toNat)

/-! ### The bridge (R263 to R266) -/

/-- F (R265, R291). -/
def State.brF (s : State) (i : Nat) : Nat := 32 * (s.fget (Reg.ING_BR_CTL_FM1 i) + 1)
/-- BIN_STEPS; 0 behaves as 1. -/
def State.brSteps (s : State) (i : Nat) : Nat := max 1 (s.fget (Reg.ING_BR_CTL_BIN_STEPS i))

/-- A feature with one record more (R263). -/
def binUpdate (mode f grade : Nat) : Nat :=
  if mode = 0 then min 65535 (f + grade) else if mode = 1 then min 65535 (f + 1) else max f grade

/-- FLAGS bit of bin b set. -/
def BinSt.flag (b : BinSt) (k : Nat) : BinSt := { b with flags := b.flags ||| 2 ^ k }

/-- Bin of a frame changed by f. -/
def State.onBin (s : State) (i frame : Nat) (f : BinSt → BinSt) : State :=
  s.onTok i fun t => { t with bins := t.bins.map fun b => if b.frame = frame then f b else b }

/-- The bridge of stream i bins an output record (R263, R264). -/
def State.bridgeRecord (s : State) (i n j grade u : Nat) : State :=
  if !s.fbit (Reg.ING_BR_CTL_EN i) then s
  else match (List.range 64).find? fun k =>
      s.fbit (Reg.ING_BR_E0_VALID i k) && decide (s.fget (Reg.ING_BR_E0_MODE i k) ≠ 3) && decide (s.fget (Reg.ING_BR_E0_CORE i k) = n)
      && decide (s.fget (Reg.ING_BR_E1_J_FIRST i k) ≤ j) && decide (j ≤ s.fget (Reg.ING_BR_E1_J_LAST i k)) with
    | none => s
    | some k => match (s.tok i).first with
      | none => s
      | some u0 =>
        if u < u0 then s
        else
          let frame := (u - u0) / s.brSteps i
          let feat := s.fget (Reg.ING_BR_E0_FEAT_BASE i k) + (j - s.fget (Reg.ING_BR_E1_J_FIRST i k))
          if !((s.tok i).bins.any fun b => decide (b.frame = frame)) then
            (s.count (Reg.ING_BR_LATE_CNT i) 1).onTok i fun t => { t with bins := match t.bins with
              | b :: r => b.flag 1 :: r
              | [] => [] }
          else if 256 ≤ (s.tok i).binned ∨ s.brF i ≤ feat then (s.count (Reg.ING_BR_DROP_CNT i) 1).onBin i frame fun b => b.flag 2
          else
            (s.onTok i fun t => { t with binned := t.binned + 1 }).onBin i frame fun b =>
              let v := binUpdate (s.fget (Reg.ING_BR_E0_MODE i k)) (tabGet (fun _ => 0) b.feats feat) grade
              let b := { b with feats := tabPut (fun _ => 0) b.feats feat v, recs := b.recs + 1 }
              if v = 65535 then b.flag 0 else b

/-- A frame's bytes (R265). -/
def State.frameBytes (s : State) (i : Nat) (b : BinSt) : List Byte :=
  let f := s.brF i
  leBytes 8 b.time ++ leBytes 4 (((s.tok i).first.getD 0) + b.frame * s.brSteps i) ++ leBytes 4 b.recs ++ [BitVec.ofNat 8 b.flags]
    ++ List.replicate 47 0 ++ ((List.range f).flatMap fun k => leBytes 2 (tabGet (fun _ => 0) b.feats k))
    ++ List.replicate (64 * ((2 * f + 63) / 64) - 2 * f) 0

/-- A frame is written under the time base's region set, and counted where it is; with DEPTH 0 its place is open (R12, R265, R266, log entry 52). -/
def State.frameWrite (s : State) (i : Nat) (b : BinSt) : State :=
  let depth := s.fget (Reg.ING_BR_DEPTH_FRAMES i)
  let fsize := 64 + 64 * ((2 * s.brF i + 63) / 64)
  let place := if depth = 0 then (s.freeVal 16).toNat else b.frame % depth
  let s := s.iff (decide (depth = 0)) State.drawn
  let l := bytesAt (s.rd64 (Reg.ING_BR_BASE_LO i) + place * fsize) (s.frameBytes i b)
  let (s, st) := s.memWrite .timeBase l .none
  let s := if st = 10 then s.ddrHold ⟨.timeBase, .nobody, localPart (l.headD (0, 0)).1, 0, l.map fun x => (localPart x.1, x.2), .none⟩ else s
  s.iff (decide (st = 0 ∨ st = 8 ∨ st = 10)) fun s => s.count (Reg.ING_BR_FRAME i) 1

/-- Boundary B(u) at the bridge of stream i (R264): frames whose last step ended a step ago are written, and a bin opens at
its first step; the first bin after the enable opens at the next boundary. -/
def State.bridgeBoundary (s : State) (i u : Nat) : State :=
  if !s.fbit (Reg.ING_BR_CTL_EN i) then s
  else
    let s := s.onTok i fun t => { t with binned := 0, first := some (t.first.getD u) }
    let u0 := (s.tok i).first.getD u
    let n := s.brSteps i
    let past (b : BinSt) : Bool := decide (u0 + (b.frame + 1) * n + 1 ≤ u)
    let s := forL ((s.tok i).bins.filter past) (fun b s => s.frameWrite i b) s
    s.onTok i fun t => { t with
      bins := (t.bins.filter fun b => !past b) ++ (if u0 ≤ u ∧ (u - u0) % n = 0 then [⟨(u - u0) / n, s.now, 0, [], 0⟩] else []) }

/-- ING_BR_CTL.EN goes to 1 or 0: no bin is open until the next boundary. -/
def State.bridgeReset (s : State) (i : Nat) : State := s.onTok i fun t => { t with first := none, bins := [], binned := 0 }

/-! ### Output records (R120, R257, R263, R434, R466) -/

/-- OUTPUT_RECORD (R434): an output record of firing step u reaches the time base: it is counted
(R439), and TRIG_MAP, digest, wake tables and bridges take it. -/
def execOutputRecord (n : Fin 1024) (j : BitVec 14) (grade : BitVec 8) (u : Word) (s : State) : Host.Outcome State Fault Refusal :=
  .next (s.alive fun s =>
    let s := ((s.count Reg.TB_REC_CNT 1).trigMap n j.toNat grade.toNat u.toNat).digestRecord u.toNat n j.toNat grade.toNat
    let v := s.fullStep u.toNat
    forN 32 (fun i s => (s.wakeRecord i n j.toNat grade.toNat v).bridgeRecord i n j.toNat grade.toNat v) s)

/-! ### Append units (R267 to R272) -/

/-- LIVE shown: COMMITTED − OLDEST. -/
def State.kvShow (s : State) (i u : Nat) : State :=
  s.fset (Reg.ING_KV_STAT_LIVE i u) ((s.rd (Reg.ING_KV_PTR i u)).toNat - (s.rd (Reg.ING_KV_OLDEST i u)).toNat)

/-- The three counts at zero. -/
def State.kvZero (s : State) (i u : Nat) : State :=
  (((s.wr (Reg.ING_KV_PTR i u) 0).wr (Reg.ING_KV_OLDEST i u) 0).fset (Reg.ING_KV_STAT_SPEC i u) 0).kvShow i u

/-- A command refused: no count changes (R268). -/
def State.kvRefused (s : State) (i u : Nat) : State := (s.fon (Reg.ING_KV_STAT_REFUSED i u)).count (Reg.ING_KV_REFUSE_CNT i u) 1

/-- APPEND N (R268); one that would hold more than CAP positions in STOP mode sets FULL. -/
def State.kvAppend (s : State) (i u n : Nat) : State :=
  let spec := s.fget (Reg.ING_KV_STAT_SPEC i u)
  let cap := s.fget (Reg.ING_KV_CFG_CAP i u)
  let com := (s.rd (Reg.ING_KV_PTR i u)).toNat
  let old := (s.rd (Reg.ING_KV_OLDEST i u)).toNat
  let full := s.fbit (Reg.ING_KV_CFG_MODE i u) && decide (old + cap < com + spec + n)
  if n = 0 ∨ s.fget (Reg.ING_KV_STRIDE_SPEC_MAX i u) < spec + n ∨ cap < spec + n ∨ full = true then
    (s.kvRefused i u).iff full fun s => s.fon (Reg.ING_KV_STAT_FULL i u)
  else if old + cap < com + spec + n then
    ((s.wrN (Reg.ING_KV_OLDEST i u) (com + spec + n - cap)).fset (Reg.ING_KV_STAT_SPEC i u) (spec + n)).kvShow i u
  else s.fset (Reg.ING_KV_STAT_SPEC i u) (spec + n)

/-- ACCEPT N (R268). -/
def State.kvAccept (s : State) (i u n : Nat) : State :=
  if s.fget (Reg.ING_KV_STAT_SPEC i u) < n then s.kvRefused i u
  else ((s.wrN (Reg.ING_KV_PTR i u) ((s.rd (Reg.ING_KV_PTR i u)).toNat + n)).fset (Reg.ING_KV_STAT_SPEC i u) 0).kvShow i u

/-- A write of KVu_CMD: OP and N (R268); while EN = 0 it is ignored and sets REFUSED (R272). -/
def State.kvOp (s : State) (i u op n : Nat) : State :=
  if !s.fbit (Reg.ING_KV_CFG_EN i u) then s.fon (Reg.ING_KV_STAT_REFUSED i u)
  else if op = 1 then s.kvAppend i u n
  else if op = 2 then s.kvAccept i u n
  else if op = 3 then s.fset (Reg.ING_KV_STAT_SPEC i u) 0
  else if op = 4 then (s.kvZero i u).foff (Reg.ING_KV_STAT_FULL i u)
  else s.fon (Reg.ING_KV_STAT_REFUSED i u)

/-- A write of KVu_CMD by master m. -/
def State.kvCommand (s : State) (m : Master) (i u op n : Nat) : State := s.guarded m (Reg.ING_KV_CMD i u) fun s => s.kvOp i u op n

/-- KV_APPEND (R268). -/
def execKvAppend (m : Master) (i : Fin 32) (u : Fin 2) (n : BitVec 8) (s : State) : Host.Outcome State Fault Refusal :=
  .next (s.alive fun s => s.kvCommand m i u 1 n.toNat)

/-- KV_ACCEPT (R268). -/
def execKvAccept (m : Master) (i : Fin 32) (u : Fin 2) (n : BitVec 8) (s : State) : Host.Outcome State Fault Refusal :=
  .next (s.alive fun s => s.kvCommand m i u 2 n.toNat)

/-- KV_ROLLBACK (R268). -/
def execKvRollback (m : Master) (i : Fin 32) (u : Fin 2) (s : State) : Host.Outcome State Fault Refusal :=
  .next (s.alive fun s => s.kvCommand m i u 3 0)

/-- KV_RESET (R268). -/
def execKvReset (m : Master) (i : Fin 32) (u : Fin 2) (s : State) : Host.Outcome State Fault Refusal :=
  .next (s.alive fun s => s.kvCommand m i u 4 0)

/-- KV_OTHER_OP (R268): an OP the table does not name; one it names acts as that command. -/
def execKvOtherOp (m : Master) (i : Fin 32) (u : Fin 2) (op : BitVec 4) (n : BitVec 8) (s : State) : Host.Outcome State Fault Refusal :=
  .next (s.alive fun s => s.kvCommand m i u op.toNat n.toNat)

/-- EN := 0: the unit guards nothing and its counts are 0 (R272). -/
def State.kvDisable (s : State) (i u : Nat) : State := (s.foff (Reg.ING_KV_CFG_EN i u)).kvZero i u

/-- KV_DISABLE (R272). -/
def execKvDisable (m : Master) (i : Fin 32) (u : Fin 2) (s : State) : Host.Outcome State Fault Refusal :=
  .next (s.alive fun s => s.guarded m (Reg.ING_KV_CFG i u) fun s => s.kvDisable i u)

/-! ### Context sources (R277 to R279) -/

/-- OCC shown. -/
def State.ctxShow (s : State) (i : Nat) : State := s.fset (Reg.ING_CTX_STATUS_OCC i) (s.tok i).ctx.length

/-- The upper word of a push arrives (R277, R278, R291). -/
def State.ctxPush (s : State) (i : Nat) (hi : Word) : State :=
  let core := bits hi.toNat 9 0
  let lo := (s.tok i).ctxLo
  let named := (List.range 16).any fun k => s.fbit (Reg.ING_CTX_DEST_VALID i k) && decide (s.fget (Reg.ING_CTX_DEST_CORE i k) = core)
  if !s.fbit (Reg.ING_CTX_CTL_EN i) || !named || decide (bits lo.toNat 23 16 = 0) then s.count (Reg.ING_CTX_REJ_CNT i) 1
  else if 256 ≤ (s.tok i).ctx.length then (s.fon (Reg.ING_CTX_STATUS_FULL i)).count (Reg.ING_CTX_FULL_CNT i) 1
  else (s.onTok i fun t => { t with ctx := t.ctx ++ [(core, lo)] }).ctxShow i

/-- CTX_PUSH (R277): a 64-bit write of ING_CTX_PUSH, taken as two, lower word first. -/
def execCtxPush (m : Master) (i : Fin 32) (lo hi : Word) (s : State) : Host.Outcome State Fault Refusal :=
  .next (s.alive fun s => s.guarded m (Reg.ING_CTX_PUSH_HI i) fun s => (s.onTok i fun t => { t with ctxLo := lo }).ctxPush i hi)

/-- The number of the cell each event of a FIFO goes to: the last cell of its core, while it holds fewer than ten (R279). -/
def ctxPack : List (Nat × Word) → List (Nat × List Word) → List (Nat × List Word)
  | [], cells => cells
  | (c, w) :: r, cells =>
    ctxPack r (if cells.any fun x => decide (x.1 = c) && decide (x.2.length < 10) then
      cells.map fun x => if x.1 = c ∧ x.2.length < 10 then (c, x.2 ++ [w]) else x
    else cells ++ [(c, [w])])

/-- What stays in the FIFO when the first events of each core have left: sent lists how many of each core's have (R279). -/
def ctxStay : List (Nat × Word) → List (Nat × Nat) → List (Nat × Word)
  | [], _ => []
  | (c, w) :: r, sent =>
    let k := tabGet (fun _ => 0) sent c
    if k = 0 then (c, deferredWord w) :: ctxStay r sent else ctxStay r (tabPut (fun _ => 0) sent c (k - 1))

/-- CONTEXT_BOUNDARY (R279): the step's cells leave, at most BUDGET; the other events stay, DEFERRED, each cell of them counted;
END of the step before is reported. -/
def execContextBoundary (i : Fin 32) (s : State) : Host.Outcome State Fault Refusal :=
  .next (s.alive fun s =>
    if !s.fbit (Reg.ING_CTX_CTL_EN i) then s
    else
      let q := (s.tok i).ctx
      let cells := ctxPack q []
      let go := cells.take (s.fget (Reg.ING_CTX_CTL_BUDGET i))
      let sent := go.foldl (fun t x => tabPut (fun _ => 0) t x.1 (tabGet (fun _ => 0) t x.1 + x.2.length)) []
      let s := s.emitAll (go.mapIdx fun k x => .ev s.devid x.1 (streamCoord s.devid i) (k % 256) true false x.2)
      let s := forN (cells.length - go.length) (fun _ s => s.countDeferral (Reg.ING_CTX_DEFER_CNT i)) s
      let s := (s.onTok i fun t => { t with ctx := ctxStay q sent }).ctxShow i
      s.iff (decide (0 < s.tb.nextU)) fun s => s.reportEnd 2 i (s.tb.nextU - 1))

end Sys2Proof.Machine
end

