-- ==== Sys2Proof/Machine/Admission.lean ====
section
/-! DEFINITION. The admission check (R143, R150 to R157, R300 to R303, R560). Times are in ps. -/

namespace Sys2Proof.Machine

/-! ### Slots and columns (R123, R150, R151, R477, R560) -/

/-- The slot in ps at the guaranteed lane rate of an FV code (R123, R556). -/
def slotPs (fv : Nat) : Nat := [1010, 1140, 1320, 1610, 2080, 3030].getD (min 5 fv) 3030

/-- The slot of half h for a check of configuration t requested in s: across a change or a ramp the slower of the voltages (R560). -/
def slotFor (s t : State) (h : Nat) : Nat :=
  max (slotPs (t.fget (Reg.PWR_HALF_OP_FV h))) (max (slotPs (s.fget (Reg.PWR_HALF_OP_FV h))) (slotPs (s.fget (Reg.PWR_HALF_STAT_FV_NOW h))))

/-- The physical column of logical column x of row r (R477). -/
def State.physCol (s : State) (r x : Nat) : Nat :=
  ((List.range 33).filter fun c => !s.aon.defects.contains (r, c)).getD x x

/-- The highest present logical column of row W/y, where the seam port is (R150). -/
def State.seamCol (s : State) (y : Nat) : Nat :=
  if s.rd (Reg.INST_NROW y) = 0 then 31 else s.fget (Reg.INST_NROW_LCOLS y) - 1

/-! ### Routes (R150, R151, R300 to R303) -/

/-- A link of a route: kind 0 mesh, 1 seam port, 2 Ibnum; its index as R157 numbers it; its half; the hop times it counts. -/
structure Lnk where
  kind : Nat
  index : Nat
  half : Nat
  hops : Nat
  deriving DecidableEq, Repr

/-- The link two routes share when they name it. -/
def Lnk.key (l : Lnk) : Nat × Nat := (l.kind, l.index)

/-- Links along x from column x to x' of row y of half h. -/
def State.xLinks (s : State) (h y x x' : Nat) : List Lnk :=
  let p (c : Nat) : Nat := s.physCol (16 * h + y) c
  if x ≤ x' then (List.range (x' - x)).map fun i => ⟨0, 4 * (512 * h + 32 * y + x + i), h, max 1 (p (x + i + 1) - p (x + i))⟩
  else (List.range (x - x')).map fun i => ⟨0, 4 * (512 * h + 32 * y + x - i) + 1, h, max 1 (p (x - i) - p (x - i - 1))⟩

/-- Links along y in column x of half h. -/
def yLinks (h x y y' : Nat) : List Lnk :=
  if y ≤ y' then (List.range (y' - y)).map fun i => ⟨0, 4 * (512 * h + 32 * (y + i) + x) + 2, h, 1⟩
  else (List.range (y - y')).map fun i => ⟨0, 4 * (512 * h + 32 * (y - i) + x) + 3, h, 1⟩

/-- From router (X, y) along X to column x' of half h', across the row's seam port where the halves differ (R150, R302). -/
def State.rowLinks (s : State) (gx y h' x' : Nat) : List Lnk :=
  let h := gx / 32
  let x := gx % 32
  if h = h' then s.xLinks h y x x'
  else if h = 0 then s.xLinks 0 y x (s.seamCol y) ++ [⟨1, 2 * y, 2, 1⟩] ++ s.xLinks 1 y 0 x'
  else s.xLinks 1 y x 0 ++ [⟨1, 2 * y + 1, 2, 1⟩] ++ s.xLinks 0 y (s.seamCol y) x'

/-- The links from router (X, y) to core m of this device. -/
def State.routeLocal (s : State) (gx y m : Nat) : List Lnk :=
  s.rowLinks gx y (coreHalf m) (coreCol m) ++ yLinks (coreHalf m) (coreCol m) y (coreRow m)

/-- The links from router (X, y) out by port k: up its column; the links past row 15 carry what the last of them carries. -/
def State.routeOut (s : State) (gx y k : Nat) : List Lnk :=
  let h := portX k / 32
  let x := portX k % 32
  s.rowLinks gx y h x ++ yLinks h x y 15 ++ [⟨0, 4 * (512 * h + 32 * 15 + x) + 2, h, 3⟩, ⟨2, k, h, 0⟩]

/-- A destination by one of its routes: device, core, and whether the route is the entry's detour (R155, R314). -/
structure Dest where
  dev : Nat
  core : Nat
  alt : Bool
  deriving DecidableEq, Repr

/-- The entry of the routing table for a destination. -/
def Dest.entry (d : Dest) : Nat := 2 * d.dev + coreHalf d.core

/-- Whether an entry stands on its alternate, or is put there because its link is not UP (R314). -/
def State.altNow (s : State) (i : Nat) : Bool :=
  s.fbit (Reg.MESH_XROUTE_ON_ALT i) || (s.fbit (Reg.MESH_XROUTE_ALT_VALID i) && !s.fbit (Reg.IBL_STATUS_UP (s.fget (Reg.MESH_XROUTE_LINK i))))

/-- The routes to core m of device dev: on this device one; to another the direct one while its entry stands on LINK, and the detour
that the entry names (R155, R314, R457). -/
def State.routesOf (s : State) (dev m : Nat) : List Dest :=
  let d : Dest := ⟨dev, m, false⟩
  if dev = s.devid then [d]
  else (if s.altNow d.entry then [] else [d])
    ++ (if s.altNow d.entry || s.fbit (Reg.MESH_XROUTE_ALT_VALID d.entry) then [⟨dev, m, true⟩] else [])

/-- The port by which a route leaves the device. -/
def State.portFor (s : State) (d : Dest) : Nat := if d.alt then s.fget (Reg.MESH_XROUTE_ALT_LINK d.entry) else s.fget (Reg.MESH_XROUTE_LINK d.entry)

/-- The links of a route. -/
def State.routeTo (s : State) (gx y : Nat) (d : Dest) : List Lnk :=
  if d.dev = s.devid then s.routeLocal gx y d.core else s.routeOut gx y (s.portFor d)

/-- The device a detour goes through and the link it leaves that device by (R314, log entry 65). -/
def State.detourMid (s : State) (d : Dest) : Nat := s.fget (Reg.IBL_PEER_DEV (s.portFor d))
def State.detourLink (s : State) (d : Dest) : Nat := (Config.onwardLink (s.detourMid d) d.dev (coreHalf d.core)).toNat % 12

/-- The column of row 18 where a route enters its destination device. -/
def State.ingressX (s : State) (d : Dest) : Nat :=
  if d.alt then portX ((Config.onwardPeer (s.detourMid d) (s.detourLink d)).toNat % 12) else portX (s.fget (Reg.IBL_PEER_LINK (s.portFor d)))

/-- The slot of a link: a seam port's is the slower half's (R150). -/
def lnkSlot (sl : Nat → Nat) (l : Lnk) : Nat := if l.kind = 1 then max (sl 0) (sl 1) else sl l.half

/-- The cell time of an Ibnum link by its width code in ps (R316). -/
def ibnumCell (w : Nat) : Nat := if w = 3 then 479 else if w = 2 then 959 else if w = 1 then 1917 else 3834

/-- Twice the cell time of a link (R151, R316). -/
def State.lnkCell2 (s : State) (sl : Nat → Nat) (l : Lnk) : Nat :=
  if l.kind = 2 then 2 * ibnumCell (s.fget (Reg.IBL_STATUS_WIDTH l.index)) else 3 * lnkSlot sl l

/-- The distance between two columns. -/
def columnsApart (a b : Nat) : Nat := max a b - min a b

/-- F(r) (R155): hops, injection and ejection, seam crossings; across devices also each traversal, the skew, and on the other devices
row 18, the column and the spurs at the slower slot (log entry 65). -/
def State.flight (s : State) (sl : Nat → Nat) (gx y : Nat) (d : Dest) : Nat :=
  let ls := s.routeTo gx y d
  let hops := (ls.map fun l => l.hops * lnkSlot sl l + (if l.kind = 1 then 6000 else 0)).foldl (· + ·) 0
  if d.dev = s.devid then sl (gx / 32) + sl (coreHalf d.core) + hops
  else
    let k := s.portFor d
    let far := columnsApart (s.ingressX d) (coreX d.core) + (18 - coreRow d.core) + 2
    let mid := columnsApart (portX (s.fget (Reg.IBL_PEER_LINK k))) (portX (s.detourLink d)) + 2
    sl (gx / 32) + sl (portX k / 32) + hops + 1000 * s.fget (Reg.IBL_TRAV_TRAV_NS k) + 2000 + far * max (sl 0) (sl 1)
      + (if d.alt then 1000 * (Config.onwardTrav (s.detourMid d) (s.detourLink d)).toNat + mid * max (sl 0) (sl 1) else 0)

/-! ### Sources (R143, R155, R278) -/

/-- A source in one direction: kind and index as R157 numbers it, budget, its router, its destinations by their routes. -/
structure Src where
  kind : Nat
  index : Nat
  budget : Nat
  gx : Nat
  y : Nat
  dests : List Dest
  deriving DecidableEq, Repr

/-- The valid entries of core n's destination list, as device and core (R134). -/
def State.listDests (s : State) (n : Nat) : List (Nat × Nat) :=
  ((List.range 16384).filterMap fun i =>
    let w := s.mnat (winAddr n (0x140000 + 8 * i)) 4
    if bit w 31 then some (if bit w 17 then bits w 20 18 else s.devid, bits w 9 0) else none).eraseDups

/-- The direction of a route from core n (R143). -/
def State.destDir (s : State) (n : Nat) (d : Dest) : Nat :=
  if d.dev = s.devid then direction (coreX n) (coreRow n) (coreX d.core) (coreRow d.core)
  else direction (coreX n) (coreRow n) (portX (s.portFor d)) 18

/-- The enabled neuron cores. -/
def State.enabledCores (s : State) : List Nat := (List.range 1024).filter fun n => s.fbit (Reg.NC_CTL_EN n) && !s.coreAbsent n

/-- The enabled streams, and the enabled context sources. -/
def State.enabledStreams (s : State) : List Nat := (List.range 32).filter fun i => s.fbit (Reg.ING_CTL_EN i)
def State.enabledContexts (s : State) : List Nat := (List.range 32).filter fun i => s.fbit (Reg.ING_CTX_CTL_EN i)

/-- The sources of core n, by direction. -/
def State.coreSources (s : State) (n : Nat) : List Src :=
  let ds := (s.listDests n).flatMap fun d => s.routesOf d.1 d.2
  (List.range 5).filterMap fun d =>
    let l := ds.filter fun x => decide (s.destDir n x = d)
    if l.isEmpty then none else some ⟨1, n, s.budget n d, coreX n, coreRow n, l⟩

/-- The encoder of stream i, and its context source: they inject at ingest group i / 8 (R72, R278, R301). -/
def State.streamSource (s : State) (i : Nat) : Option Src :=
  let l := ((List.range 16).filterMap fun j => if s.fbit (Reg.ING_DST_W0_VALID i j) then some (⟨s.devid, s.fget (Reg.ING_DST_W0_CORE i j), false⟩ : Dest) else none).eraseDups
  if l.isEmpty then none else some ⟨2, i, s.fget (Reg.ING_BUDGET_CELLS i), 16 * (i / 8) + 8, 0, l⟩
def State.contextSource (s : State) (i : Nat) : Option Src :=
  let l := ((List.range 16).filterMap fun j => if s.fbit (Reg.ING_CTX_DEST_VALID i j) then some (⟨s.devid, s.fget (Reg.ING_CTX_DEST_CORE i j), false⟩ : Dest) else none).eraseDups
  if l.isEmpty then none else some ⟨7, i, s.fget (Reg.ING_CTX_CTL_BUDGET i), 16 * (i / 8) + 8, 0, l⟩

/-- Every source of the configuration. -/
def State.sources (s : State) : List Src :=
  s.enabledCores.flatMap s.coreSources ++ s.enabledStreams.filterMap s.streamSource ++ s.enabledContexts.filterMap s.contextSource

/-- The links a source's routes use. -/
def State.srcLinks (s : State) (x : Src) : List Lnk := (x.dests.flatMap fun d => s.routeTo x.gx x.y d).eraseDups

/-- L(ℓ) (R155). -/
def loadOf (l : List (Src × List Lnk)) (k : Nat × Nat) : Nat :=
  (l.map fun x => if x.2.any fun a => decide (a.key = k) then x.1.budget else 0).foldl (· + ·) 0

/-! ### The checks (R156, R157) -/

/-- The outcome: code, failing object's kind and index, computed bound. -/
structure Adm where
  code : Nat
  kind : Nat
  index : Nat
  bound : Nat
  deriving DecidableEq, Repr

/-- The failing object with the lowest KIND, then INDEX. -/
def lowestFail : List (Nat × Nat) → Option (Nat × Nat)
  | [] => none
  | a :: r =>
    match lowestFail r with
    | some b => if a.1 < b.1 ∨ (a.1 = b.1 ∧ a.2 ≤ b.2) then some a else some b
    | none => some a

/-- STEP_RANGE: Δ, and T0 where the request enables the step generator; s is the configuration in force. -/
def stepRange (s t : State) (enables : Bool) : Bool :=
  let d := t.fget Reg.TB_STEP_LEN_DELTA
  decide (100 ≤ d) && decide (d ≤ 1000000) && (!enables || decide (s.now + 1000 ≤ t.rd64 Reg.TB_STEP_T0_LO))

/-- DEST_ABSENT: the destinations that fail. -/
def State.destFails (s : State) : List (Nat × Nat) :=
  (s.enabledCores.flatMap fun n => s.listDests n).filterMap fun d =>
    if d.1 = s.devid then (if s.fbit (Reg.NC_CTL_EN d.2) && !s.coreAbsent d.2 then none else some (1, d.2))
    else if s.fbit (Reg.MESH_XROUTE_VALID (2 * d.1 + coreHalf d.2)) then none else some (1, d.1 * 1024 + d.2)

/-- W in ps (R155). -/
def State.wPs (s : State) : Nat := 1000 * (s.fget Reg.TB_STEP_LEN_DELTA - 12)

/-- LINK_LOAD (kind 0) or SEAM_LOAD (kind 1): links whose load takes longer than W. -/
def State.loadFails (s : State) (sl : Nat → Nat) (kind : Nat) (ls : List (Src × List Lnk)) : List (Nat × Nat) :=
  (((ls.flatMap Prod.snd).filter fun l => decide (l.kind = kind)).eraseDups.filter fun l =>
    decide (2 * s.wPs < loadOf ls l.key * s.lnkCell2 sl l)).map fun l => (3 + kind, l.index)

/-- IBNUM_LINK for a route to another device (R156, R303, R317): its ingress port lies in the destination core's half, a detour's transit
within one half; a direct route's link is up, its load within W. -/
def State.ibnumFails (s : State) (ls : List (Src × List Lnk)) : List (Nat × Nat) :=
  (ls.flatMap fun x => x.1.dests).filterMap fun d =>
    if d.dev = s.devid then none
    else
      let k := s.portFor d
      let c := ibnumCell (s.fget (Reg.IBL_STATUS_WIDTH k))
      let carries := if d.alt then decide (portX (s.fget (Reg.IBL_PEER_LINK k)) / 32 = portX (s.detourLink d) / 32)
        else s.fbit (Reg.IBL_STATUS_UP k) && decide (16 * loadOf ls (2, k) * c + 15 * c ≤ 15 * s.wPs)
      if carries && decide (s.ingressX d / 32 = coreHalf d.core) then none else some (5, k)

/-- T_WAVE + X_n·s_h in ps. -/
def State.workPs (s : State) (sl : Nat → Nat) (n : Nat) : Nat := 8000 + s.fget (Reg.NC_CLAIM_WORK n) * sl (coreHalf n)

/-- Δ − T_GUARD in ps. -/
def State.limitPs (s : State) : Nat := 1000 * (s.fget Reg.TB_STEP_LEN_DELTA - 4)

/-- PATH_TIME: the enabled cores with a route that takes too long. -/
def State.pathFails (s : State) (sl : Nat → Nat) (ls : List (Src × List Lnk)) : List (Nat × Nat) :=
  (ls.filter fun x => decide (x.1.kind = 1)).filterMap fun x =>
    if x.1.dests.any fun d =>
      let r := s.routeTo x.1.gx x.1.y d
      let share := ((ls.filter fun y => y.2.any fun a => r.any fun b => decide (a.key = b.key)).map fun y => y.1.budget).foldl (· + ·) 0
      let cmax := (r.map fun l => s.lnkCell2 sl l).foldl max 0
      decide (2 * s.limitPs < 2 * (s.workPs sl x.1.index + s.flight sl x.1.gx x.1.y d) + share * cmax)
    then some (1, x.1.index) else none

/-- T_OUT in ns: the largest over the cores that valid TRIG_MAP entries name. -/
def State.tOut (s : State) (sl : Nat → Nat) : Nat :=
  ((List.range 64).map fun i =>
    if s.fbit (Reg.TRIG_MAP_W0_VALID i) then (s.workPs sl (s.fget (Reg.TRIG_MAP_W0_CORE i)) + 999) / 1000 else 0).foldl max 0

/-- LANE_NS + ENC_NS + LAYERS·Δ + T_OUT + 16 of a stream. -/
def State.boundOf (s : State) (sl : Nat → Nat) (i : Nat) : Nat :=
  s.laneNs i + s.encNs i + s.fget Reg.TB_ADM_CFG_LAYERS * s.fget Reg.TB_STEP_LEN_DELTA + s.tOut sl + 16

/-- The check of configuration t against the one in force, s, for a request that enables the step generator or not: the first check
that fails decides (R156). -/
def admission (s t : State) (enables : Bool) : Adm :=
  let sl := slotFor s t
  let fail (code : Nat) (l : List (Nat × Nat)) (next : Unit → Adm) : Adm :=
    match lowestFail l with
    | some x => ⟨code, x.1, x.2, 0⟩
    | none => next ()
  if !stepRange s t enables then ⟨1, 6, 0, 0⟩
  else fail 2 t.destFails fun _ =>
    let src := t.sources
    fail 3 ((src.filter fun x => decide (x.budget = 0)).map fun x => (x.kind, x.index)) fun _ =>
    let ls := src.map fun x => (x, t.srcLinks x)
    fail 4 (t.loadFails sl 0 ls) fun _ =>
    fail 5 (t.loadFails sl 1 ls) fun _ =>
    fail 6 (t.ibnumFails ls) fun _ =>
    fail 7 ((t.enabledCores.filter fun n => decide (t.limitPs < t.workPs sl n)).map fun n => (1, n)) fun _ =>
    fail 8 (t.pathFails sl ls) fun _ =>
    fail 9 ((t.enabledCores.filter fun n => decide (2048 < t.fget (Reg.NC_CLAIM_WHEEL n))).map fun n => (1, n)) fun _ =>
    let b := t.fget Reg.TB_ADM_CFG_BOUND_NS
    fail 10 ((t.enabledStreams.filter fun i => decide (b ≠ 0) && decide (b < t.boundOf sl i)).map fun i => (2, i)) fun _ =>
    ⟨0, 0, 0, (t.enabledStreams.map fun i => t.boundOf sl i).foldl max 0⟩

/-- The outcome in TB_ADM_STATUS, and the bound when the check passes (R156, R157). -/
def State.showAdmission (s : State) (req : Nat) (a : Adm) : State :=
  let s := s.wrN Reg.TB_ADM_STATUS (a.code * 2 ^ 24 + a.kind * 2 ^ 20 + req * 2 ^ 16 + a.index % 65536)
  if a.code = 0 then s.fset Reg.TB_ADM_BOUND_NS a.bound else s

/-- Whether an entry names a budget, a claim, a destination list, Δ or an operating point whose value differs between the configuration
in force, s, and the one after the last entry, t (R154, R502). -/
def admissionChange (s t : State) (e : Word × Word × Word) : Bool :=
  let g := chrTarget e.1
  match g with
  | .win _ o => decide (0x140000 ≤ o) && decide (o < 0x160000) && decide (s.targetWord g ≠ t.targetWord g)
  | .reg o =>
    let nc := decide (0x400000 ≤ o) && decide (o < 0x4400000)
    let ing := decide (0x100000 ≤ o) && decide (o < 0x300000)
    let i := o % 0x10000
    let k := (o - 0x100000) / 0x10000
    decide (s.rd o ≠ t.rd o)
    && (decide (o = Reg.TB_STEP_LEN) || decide (o = Reg.PWR_HALF_OP 0) || decide (o = Reg.PWR_HALF_OP 1)
      || (nc && (decide (i = 0x100) || decide (i = 0x104) || decide (i = 0x108)))
      || (ing && (decide (i = 0x20)
        || (decide (i = Reg.ING_CTX_CTL 0 % 0x10000) && decide (s.fget (Reg.ING_CTX_CTL_BUDGET k) ≠ t.fget (Reg.ING_CTX_CTL_BUDGET k))))))

end Sys2Proof.Machine
end

