-- ==== Sys2Proof/Machine/Rows.lean ====
section
/-! DEFINITION. The defect list and the row maps (R475 to R479, R488). Row r of the maps: 16h + y of neuron cores, 32 + 4h + ty of
tiles. -/

namespace Sys2Proof.Machine

/-! ### The defect list (R476) -/

/-- The MRAM address of record i: the defect-list page is sectors 16 to 31 (R514). -/
def defectAddr (i : Nat) : Nat := 0x10000 + 8 * i

/-- Record i of the list. -/
def State.defectRec (s : State) (i : Nat) : Nat := s.mramNat (defectAddr i) 8

/-- Records in the list: all up to the last that is not empty. -/
def State.defectCount (s : State) : Nat :=
  ((List.range 8192).filter fun i => decide (bits (s.defectRec i) 63 60 ≠ 0)).foldl (fun a i => max a (i + 1)) 0

/-- The row and the column of a listed neuron core or tile. -/
def recUnit (r : Nat) : Option (Nat × Nat) :=
  if bits r 63 60 = 1 then some (16 * bits r 57 57 + bits r 56 53, bits r 52 47)
  else if bits r 63 60 = 2 then some (32 + 4 * bits r 57 57 + bits r 56 53, bits r 52 47)
  else none

/-- Every listed unit. -/
def State.listedUnits (s : State) : List (Nat × Nat) := (List.range s.defectCount).filterMap fun i => recUnit (s.defectRec i)

/-- The bytes of sector k as stored. -/
def State.sectorBytes (s : State) (k : Nat) : List Byte := (List.range 4096).map fun i => s.mramByte (k * 4096 + i)

/-- A record appended after the last one and stored (R476); a full page takes none. -/
def State.appendDefect (s : State) (r : Nat) : State :=
  let i := s.defectCount
  if 8192 ≤ i then s
  else
    let k := 16 + i / 512
    s.sectorProgram k ((s.sectorBytes k).take (8 * (i % 512)) ++ leBytes 8 r ++ (s.sectorBytes k).drop (8 * (i % 512) + 8))

/-- A record's word (R476). -/
def defectWord (kind origin half row col mem start : Nat) : Nat :=
  kind * 2 ^ 60 + origin * 2 ^ 58 + half * 2 ^ 57 + row * 2 ^ 53 + col * 2 ^ 47 + mem % 128 * 2 ^ 32 + start % 2 ^ 32

/-! ### Row maps (R477, R478, R488) -/

/-- Physical columns of row r, spare included. -/
def rowCols (r : Nat) : Nat := if r < 32 then 33 else 9

/-- The defective columns of row r in ascending order. -/
def State.rowDefects (s : State) (r : Nat) : List Nat := (List.range (rowCols r)).filter fun c => s.aon.defects.contains (r, c)

/-- Logical columns of row r with a unit (R477). -/
def State.rowUnits (s : State) (r : Nat) : Nat := min (rowCols r - 1) (rowCols r - (s.rowDefects r).length)

/-- INST_NROW or INST_TROW of row r (R488). -/
def State.rowShow (s : State) (r : Nat) : State :=
  let d := s.rowDefects r
  s.wrN (if r < 32 then Reg.INST_NROW r else Reg.INST_TROW (r - 32))
    ((if 2 ≤ d.length then 2 ^ 31 else 0) + s.rowUnits r * 2 ^ 24 + d.length * 2 ^ 18 + d.getD 1 63 * 2 ^ 12 + d.getD 0 63 * 2 ^ 6)

/-- INST_CAP: lost slices, reduced neuron-core rows, absent cores and tiles (R478, R486). -/
def State.capShow (s : State) : State :=
  let lost (r : Nat) : Nat := rowCols r - 1 - s.rowUnits r
  let nabs := ((List.range 32).map lost).foldl (· + ·) 0
  let tabs := ((List.range 8).map fun i => lost (32 + i)).foldl (· + ·) 0
  let nred := ((List.range 32).filter fun r => decide (2 ≤ (s.rowDefects r).length)).length
  s.wrN Reg.INST_CAP ((if 0 < tabs then 2 ^ 31 else 0) + nred * 2 ^ 16 + min 255 nabs * 2 ^ 8 + tabs)

/-- The logical units of row r at and above column c. -/
def rowFrom (r c : Nat) : List Nat :=
  if r < 32 then ((List.range 32).filter fun x => decide (c ≤ x)).map fun x => 32 * r + x
  else ((List.range 8).filter fun x => decide (c ≤ x)).map fun x => 8 * (r - 32) + x

/-- The memories of a neuron core become unpredictable (R92). -/
def State.coreMemOpen (s : State) (n : Nat) : State := s.mopen (winAddr n 0) 0x180000

/-- The local memories of the sequencer cores of tile t become unpredictable. -/
def State.seqMemOpen (s : State) (t : Nat) : State := s.mopen (0x83100000000 + 2 * t * 0x40000) 0x80000

/-- The memories of tile t, its sequencer cores' and its slices', become unpredictable. -/
def State.tileMemOpen (s : State) (t : Nat) : State :=
  let s := s.seqMemOpen t
  s.sliceOpen (4 * t) 4

/-- Row r is mapped around defective column c (R477, R479): the memories of the logical units that moved are unpredictable. -/
def State.rowRemap (s : State) (r c : Nat) : State :=
  let s := ((s.onAon fun a => { a with defects := (r, c) :: a.defects }).rowShow r).capShow
  forL (rowFrom r c) (fun u s => if r < 32 then s.coreMemOpen u else s.tileMemOpen u) s

/-! ### Substitution in service (R479) -/

/-- RESULT of a request. -/
def State.subResult (s : State) (v : Nat) : State := s.fset Reg.INST_SUB_REQ_RESULT v

/-- A done request takes place: the row is remapped, the defect appended with ORIGIN 2 and stored; which memory is at fault no rule
says (log entry 66). -/
def State.subDone (s : State) : State :=
  match s.aon.subPend with
  | none => s
  | some (tile, h, row, c) =>
    let r := if tile then 32 + 4 * h + row else 16 * h + row
    let w := defectWord (if tile then 2 else 1) 2 h row c (s.freeVal 7).toNat (s.rd Reg.INST_START_CNT).toNat
    (((s.drawn.onAon fun a => { a with subPend := none }).rowRemap r c).appendDefect w).subResult 1

/-- Whether a logical unit of the row at or above the column is enabled. -/
def State.rowBusy (s : State) (r c : Nat) : Bool :=
  (rowFrom r c).any fun u =>
    if r < 32 then s.fbit (Reg.NC_CTL_EN u)
    else s.fbit (Reg.TILE_CTL_EN u) || s.fbit (Reg.SEQ_CTL_RUN (2 * u)) || s.fbit (Reg.SEQ_CTL_RUN (2 * u + 1))

/-- GO = 1 (R479): NO_SPARE, BUSY and ADMIT in this order (log entry 66); a done request makes a batch STALE (R508). -/
def State.substitute (s : State) (tile : Bool) (h row c : Nat) : State :=
  let r := if tile then 32 + 4 * h + row else 16 * h + row
  if !(s.rowDefects r).isEmpty || decide (rowCols r - 1 ≤ c) || (tile && decide (4 ≤ row)) then s.subResult 4
  else if s.rowBusy r c then s.subResult 3
  else
    let t := (s.onAon fun a => { a with defects := (r, c) :: a.defects }).rowShow r
    let a := admission s t false
    let s := if s.stepOn then s.showAdmission 3 a else s
    if s.stepOn && decide (a.code ≠ 0) then s.subResult 2
    else
      let s := (s.onAon fun a => { a with subPend := some (tile, h, row, c) }).staleAll
      if s.stepOn then s.subResult 7 else s.subDone

/-- SUBSTITUTION_REQUEST (R479). -/
def execSubstitutionRequest (m : Master) (tile east : Bool) (row : Fin 16) (col : Fin 64) (s : State) : Host.Outcome State Fault Refusal :=
  .next (s.alive fun s => s.guarded m Reg.INST_SUB_REQ fun s =>
    if s.aon.subPend.isSome then s.ignored Reg.INST_SUB_REQ
    else ((((s.fflag Reg.INST_SUB_REQ_TILE tile).fflag Reg.INST_SUB_REQ_HALF east).fset Reg.INST_SUB_REQ_ROW row).fset
      Reg.INST_SUB_REQ_COL col).substitute tile (if east then 1 else 0) row col)

/-! ### Retraining on request (R327) -/

/-- Whether a request to retrain link k at a width breaks a promise while a job runs: an entry without a detour, or a narrower width
that admission refuses. -/
def State.retrainCheck (s : State) (k w : Nat) : State × Bool :=
  if s.bareLink k then (s, false)
  else if s.fget (Reg.IBL_STATUS_WIDTH k) ≤ w then (s, true)
  else
    let t := (s.fset (Reg.IBL_STATUS_WIDTH k) w).fset (Reg.IBL_TRAV_TRAV_NS k) (s.fget (Reg.IBL_TRAV_DELAY_NS k) + codewordNs w + 8)
    let a := admission s t false
    (s.showAdmission 2 a, decide (a.code = 0))

/-- RETRAIN := 1 of an enabled link, one that is lost or still trains too (R327, R508). -/
def State.linkRetrainRequest (s : State) (k : Nat) : State :=
  let w := s.fget (Reg.IBL_CTL_REQ_WIDTH k)
  if !s.fbit (Reg.IBL_CTL_EN k) then s
  else
    let (s, ok) := if s.fbit Reg.MESH_CTL_JOB then s.retrainCheck k w else (s, true)
    if ok then (s.linkRetrain k w false).staleAll.onLink k fun x => { x with clearAlt := true }
    else s.fon (Reg.IBL_STATUS_REFUSED k)

/-- LINK_RETRAIN_REQUEST (R327): a write of IBL_CTL with RETRAIN = 1 and REQ_WIDTH. -/
def execLinkRetrainRequest (m : Master) (k : Fin 12) (width : Fin 4) (s : State) : Host.Outcome State Fault Refusal :=
  .next (s.alive fun s => s.guarded m (Reg.IBL_CTL k) fun s => (s.fset (Reg.IBL_CTL_REQ_WIDTH k) width).linkRetrainRequest k)

end Sys2Proof.Machine
end

