-- ==== Sys2Proof/Machine/Steps.lean ====
section
/-! DEFINITION. The step generator (R136, R137, R139, R147 to R149, R161). Boundary e's emission step is e − 1: its cells are sent
from B(e) on. -/

namespace Sys2Proof.Machine

/-! ### Completion (R139) -/

/-- Whether every enabled source has reported END for the cells sent from boundary e. -/
def State.endsIn (s : State) (e : Nat) : Bool :=
  s.enabledCores.all (fun n => s.tb.ends.contains (0, n, e)) && s.enabledStreams.all (fun i => s.tb.ends.contains (1, i, e))
  && s.enabledContexts.all (fun i => s.tb.ends.contains (2, i, e))

/-- Whether the emission step of boundary e is complete: every END, and the count of its parity zero. -/
def State.emissionDone (s : State) (e : Nat) : Bool := s.endsIn e && decide ((if e % 2 = 1 then s.tb.cnt1 else s.tb.cnt0) = 0)

/-- Completed emission steps are taken over in order, n at most. -/
def State.settle (s : State) : Nat → State
  | 0 => s
  | n + 1 =>
    let e := s.tb.done
    if decide (e < s.tb.nextU) && s.emissionDone e then
      State.settle (s.onTb fun b => { b with done := e + 1, ends := b.ends.filter fun x => decide (e < x.2.2) }) n
    else s

/-- All that are complete. -/
def State.settled (s : State) : State := s.settle (s.tb.nextU - s.tb.done)

/-! ### Issuing a boundary (R136, R147, R148) -/

/-- S = floor(Δ·STRETCH/256) in ns; STRETCH above 128 behaves as 128 (R148, R161). -/
def State.stretchNs (s : State) : Nat := s.fget Reg.TB_STEP_LEN_DELTA * min 128 (s.fget Reg.TB_STEP_CTL_STRETCH) / 256

/-- DEFER_RATE_SUM (R147). -/
def State.deferSum (s : State) : State :=
  let n := s.tb.deferrals
  let lim := s.fget Reg.TB_DEFER_CFG_LIMIT
  let s := s.onTb fun b => { b with deferrals := 0 }
  if lim ≠ 0 ∧ lim ≤ n then (s.count Reg.TB_DEFER_STEP_CNT 1).raise 10 9 0 0 else s

/-- Links retrained on request get their entries back at the first boundary after UP (R327). -/
def State.altReturn (s : State) : State :=
  let t := forN 12 (fun k s =>
    if (s.link k).clearAlt && s.fbit (Reg.IBL_STATUS_UP k) then
      (forN 16 (fun i s => if s.fget (Reg.MESH_XROUTE_LINK i) = k then s.foff (Reg.MESH_XROUTE_ON_ALT i) else s) s).onLink k
        fun x => { x with clearAlt := false }
    else s) s
  t.fflag Reg.MESH_STATUS_ALT_ANY ((List.range 16).any fun i => t.fbit (Reg.MESH_XROUTE_ON_ALT i))

/-- BOUNDARY_ISSUE (R136): B(b) is issued now, late ns after its nominal instant: the step counter, the token, and what happens in
the time base at a boundary. -/
def State.boundaryIssue (s : State) (late : Nat) : State :=
  let b := s.tb.nextU
  let s := s.iff (decide (s.fget Reg.TB_STRETCH_PEAK_NS < late)) fun s => s.fset Reg.TB_STRETCH_PEAK_NS (min 0xFFFFF late)
  let s := s.deferSum.wrN Reg.TB_STEP_CNT b
  let s := s.onTb fun t => { t with nextU := b + 1, waitingB := false, heldB := false, issues := ((b % 2 ^ 32, s.now) :: t.issues).take 64 }
  let s := ((s.emit (.token b)).levelReturns b).digestBoundary b
  (forN 32 (fun i s => s.bridgeBoundary i b) s).subDone.altReturn

/-- The waiting boundary is issued, held or left waiting (R148, R149). nominal: its nominal instant arrives now. -/
def State.tryBoundary (s : State) (nominal : Bool) : State :=
  let s := s.settled
  let b := s.tb.nextU
  let n := s.stepNominal b
  let late := if nominal then 0 else s.now - n
  if s.tb.done + 1 < b then
    if s.tb.heldB then s else ((s.onTb fun t => { t with heldB := true }).count Reg.TB_HOLD_CNT 1).raise 9 9 0 0
  else if b ≤ s.tb.done then
    (s.iff (!s.tb.heldB && decide (0 < late)) fun s => s.count Reg.TB_STRETCH_CNT 1).boundaryIssue late
  else if n + s.stretchNs ≤ s.now then
    (s.iff (!s.tb.heldB) fun s => (s.count Reg.TB_LATE_STEP_CNT 1).raise 9 9 0 0).boundaryIssue late
  else s

/-- STEP_NOMINAL_INSTANT (R148): the counter has reached N of the next boundary. -/
def execStepNominalInstant (s : State) : Host.Outcome State Fault Refusal :=
  .next (s.alive fun s =>
    if s.stepOn && !s.tb.waitingB && decide (s.stepNominal s.tb.nextU ≤ s.now) then
      (s.onTb fun t => { t with waitingB := true }).tryBoundary true
    else s)

/-- EMISSION_STEP_COMPLETE (R139, R148, R149): completed emission steps release a waiting boundary. -/
def execEmissionStepComplete (s : State) : Host.Outcome State Fault Refusal :=
  .next (s.alive fun s => if s.stepOn then (if s.tb.waitingB then s.tryBoundary false else s.settled) else s)

/-- STRETCH_LIMIT (R148): S after its nominal instant a waiting boundary is issued, unless it is held. -/
def execStretchLimit (s : State) : Host.Outcome State Fault Refusal :=
  .next (s.alive fun s =>
    if s.stepOn && s.tb.waitingB && decide (s.stepNominal s.tb.nextU + s.stretchNs ≤ s.now) then s.tryBoundary false else s)

/-! ### Enable and stop (R136, R161) -/

/-- The least u whose N(u) has not passed (R136). -/
def State.firstBoundary (s : State) : Nat :=
  let d := max 1 (s.fget Reg.TB_STEP_LEN_DELTA)
  (s.now - s.rd64 Reg.TB_STEP_T0_LO + d - 1) / d

/-- The step generator starts: nothing is awaited from before its first boundary, and no pin has been asserted in its steps. -/
def State.stepStart (s : State) : State :=
  let u := s.firstBoundary
  let s := forN 16 (fun p s => s.setPin p { s.pin p with seen := [] }) s
  (s.fon Reg.TB_STEP_CTL_EN).onTb fun t => { t with
    nextU := u, firstU := u, done := u, run := t.run + 1, waitingB := false, heldB := false, cnt0 := 0, cnt1 := 0, ends := [], issues := [],
    deferrals := 0 }

/-- EN := 1: the admission check, and on passing it the start (R154, R157, R161). A generator that runs is left as it runs, whatever
the check says (DESIGN CHOICE, log entry 105). -/
def State.stepEnable (s : State) : State :=
  let a := admission s s (!s.stepOn)
  let t := s.showAdmission 0 a
  if s.stepOn || decide (a.code ≠ 0) then t else t.stepStart

/-- STEP_GENERATOR_ENABLE (R136, R154, R161). -/
def execStepGeneratorEnable (m : Master) (s : State) : Host.Outcome State Fault Refusal :=
  .next (s.alive fun s => s.guarded m Reg.TB_STEP_CTL fun s => s.stepEnable)

/-- CHR_NO_STEP (R504): an ARMED STEP batch fails when the step generator stops. -/
def State.chrNoStep (s : State) : State :=
  if s.chrState = 5 ∧ s.fbit Reg.CHR_WHEN_MODE = false then s.chrFailed 0x0A 0 0 else s

/-- EN := 0: no further boundary; the step counter holds; what waited for a boundary takes place (R58, R161, R466, R479, R504). -/
def State.stepStop (s : State) : State :=
  if !s.stepOn then s
  else
    let s := (s.foff Reg.TB_STEP_CTL_EN).onTb fun t => { t with waitingB := false, heldB := false }
    let s := s.chrNoStep.digestStop.subDone
    forN 32 (fun i s => if (s.stream i).returning && s.fbit (Reg.ING_CTL_EN i) then s.streamReturns i else s) s

/-- STEP_GENERATOR_STOP (R161). -/
def execStepGeneratorStop (m : Master) (s : State) : Host.Outcome State Fault Refusal :=
  .next (s.alive fun s => s.guarded m Reg.TB_STEP_CTL fun s => s.stepStop)

end Sys2Proof.Machine
end

