-- ==== Sys2Proof/Machine/Blocks.lean ====
section
/-! DEFINITION. The block formats Q8E, Q6E and Q4E (R229 to R233) and their encoder (R238 to R242). A finite binary32
magnitude is a whole number of units of 2^−149, so every quotient is exact. -/

namespace Sys2Proof.Machine

/-! ### Formats (R229, R230) -/

/-- Bits of a code in format f: 0 Q8E, 1 Q6E, 2 Q4E. -/
def codeBits (f : Nat) : Nat := if f = 0 then 8 else if f = 1 then 6 else 4

/-- The largest code C_max. -/
def codeMax (f : Nat) : Nat := 2 ^ (codeBits f - 1) - 1

/-- The code bytes, the block's bytes and the S-form's bytes. -/
def codeBytes (f : Nat) : Nat := 4 * codeBits f
def blockBytes (f : Nat) : Nat := codeBytes f + 2
def sFormBytes (f : Nat) : Nat := blockBytes f + 8

/-- A block with 32 codes, a scale and a side list of values by code position, in the order they stand. -/
structure Block where
  codes : List Int
  e : Nat
  f : Nat
  deriving DecidableEq, Repr

/-- The escape code of a format, as a signed code (R230). -/
def escCode (fmt : Nat) : Int := -(2 ^ (codeBits fmt - 1))

/-- The bytes of a block (R229). -/
def Block.bytes (b : Block) (fmt : Nat) : List Byte :=
  let w := codeBits fmt
  let n := (List.range 32).foldl (fun a i => a + wrapInt w (b.codes.getD i 0) * 2 ^ (w * i)) 0
  leBytes (codeBytes fmt) n ++ [BitVec.ofNat 8 b.e, BitVec.ofNat 8 b.f]

/-- The block whose bytes are given (R229). -/
def Block.ofBytes (fmt : Nat) (l : List Byte) : Block :=
  let w := codeBits fmt
  let n := leNat (l.take (codeBytes fmt))
  ⟨(List.range 32).map fun i => signed w (bits n (w * i + w - 1) (w * i)), (l.getD (codeBytes fmt) 0).toNat, (l.getD (codeBytes fmt + 1) 0).toNat⟩

/-- Whether the scale of a block is zero (R231). -/
def scaleZero (e : Nat) : Bool := decide (e = 0) || decide (e = 255)

/-- The value c × s of a finite code, exact (R231). -/
def codeExact (e f : Nat) (c : Int) : FpVal :=
  if scaleZero e then .fin false 0 0 else .fin (decide (c < 0)) (c.natAbs * (256 + f)) ((e : Int) - 135)

/-- The binary32 value a finite code decodes to (R231). -/
def codeValue (e f : Nat) (c : Int) : Nat := binary32.encode (codeExact e f c)

/-! ### The encoder (R238 to R242) -/

/-- The magnitude of a finite value in units of 2^−149. -/
def mag32 : FpVal → Nat
  | .fin _ m e => m <<< (e + 149).toNat
  | _ => 0

/-- n / d rounded to nearest, ties away from zero (R236). -/
def rnaQuot (n d : Nat) : Nat := if d = 0 then 0 else (2 * n + d) / (2 * d)

/-- A number put in a list kept in descending order. -/
def insertDesc (x : Nat) : List Nat → List Nat
  | [] => [x]
  | a :: r => if x ≤ a then a :: insertDesc x r else x :: a :: r

/-- The reference magnitude of SMODE 0 and 1 (R238), from the finite magnitudes. -/
def aRef (smode osh : Nat) (l : List Nat) : Nat :=
  let d := l.foldl (fun a x => insertDesc x a) []
  let a1 := d.headD 0
  let a8 := d.getD 7 0
  if smode = 0 ∨ a8 = 0 then a1 else (d.find? fun x => decide (x ≤ 2 ^ osh * a8)).getD 0

/-- E and F from a reference magnitude (R239). -/
def scaleOf (fmt a : Nat) : Nat × Nat :=
  let c := codeMax fmt
  if a = 0 then (0, 0)
  else
    let e := if a < c then 1 else max 1 ((a / c).log2 - 22)
    let d := c * 2 ^ (e + 22)
    let f := (256 * a + d - 1) / d - 256
    if f = 256 then (e + 1, 0) else (e, f)

/-- What an encoding gives: the block, its escapes as (position, binary16 value) in the order of R241, the number of
finite inputs saturated, ESC_OVF, and whether an input was a NaN. -/
structure Encoded where
  block : Block
  escs : List (Nat × Nat)
  sat : Nat
  ovf : Bool
  nan : Bool
  deriving DecidableEq, Repr

/-- The controls of an encoding (R238): SMODE, OSH, ESC_EN, E_G, F_G. -/
structure EncCtl where
  smode : Nat
  osh : Nat
  esc : Bool
  eg : Nat
  fg : Nat
  deriving DecidableEq, Repr

/-- A candidate put among finite candidates in descending magnitude, ties in ascending position. -/
def insertCand (x : Nat × Nat) : List (Nat × Nat) → List (Nat × Nat)
  | [] => [x]
  | a :: r => if x.2 ≤ a.2 then a :: insertCand x r else x :: a :: r

/-- Encoding 32 binary32 inputs into a block (R238 to R242). -/
def encodeBlock (fmt : Nat) (c : EncCtl) (x : List Nat) : Encoded :=
  let v := (List.range 32).map fun i => binary32.decode (x.getD i 0)
  let val (i : Nat) : FpVal := v.getD i (.fin false 0 0)
  let (e, f) := if c.smode = 2 then (if scaleZero c.eg then 1 else c.eg, c.fg) else scaleOf fmt (aRef c.smode c.osh ((v.filter FpVal.isFin).map mag32))
  let q := v.map fun y => if scaleZero e then 0 else rnaQuot (256 * mag32 y) ((256 + f) * 2 ^ (e + 22))
  let outlier (i : Nat) : Bool := !(val i).isFin || decide (codeMax fmt < q.getD i 0)
  let outs := (List.range 32).filter outlier
  let odd := outs.filter fun i => !(val i).isFin
  let big := (outs.filter fun i => (val i).isFin && decide (mag32 (val i) < 65520 * 2 ^ 149)).foldl (fun a i => insertCand (i, mag32 (val i)) a) []
  let cand := if c.esc then odd ++ big.map Prod.fst else []
  let taken := cand.take 4
  let signedMax (i : Nat) : Int := if (val i).neg then -(codeMax fmt : Int) else (codeMax fmt : Int)
  let code (i : Nat) : Int :=
    if taken.contains i then escCode fmt
    else if outlier i then (if (val i).isNan then 0 else signedMax i)
    else if (val i).neg then -(q.getD i 0 : Int) else (q.getD i 0 : Int)
  { block := ⟨(List.range 32).map code, e, f⟩
    escs := taken.map fun i => (i, binary16.encode (val i))
    sat := (outs.filter fun i => (val i).isFin && !taken.contains i).length
    ovf := decide (4 < cand.length)
    nan := v.any FpVal.isNan }

/-! ### S-form (R232, R233) -/

/-- The four side slots of an S-form: the k-th escape in ascending position takes slot k; unused slots are zero. -/
def sideSlots (l : List (Nat × Nat)) : List Nat :=
  let asc := (List.range 32).filterMap fun i => (l.find? fun y => decide (y.1 = i)).map Prod.snd
  (List.range 4).map fun k => asc.getD k 0

/-- The S-form bytes of an encoding. -/
def Encoded.sForm (r : Encoded) (fmt : Nat) : List Byte :=
  r.block.bytes fmt ++ (sideSlots r.escs).flatMap fun v => leBytes 2 v

/-- The values of an S-form's codes as binary32, an escape beyond the fourth as +0; and whether a NaN was read. -/
def decodeSForm (fmt : Nat) (l : List Byte) : List Nat :=
  let b := Block.ofBytes fmt l
  let slot (k : Nat) : Nat := leNat ((l.drop (blockBytes fmt + 2 * k)).take 2)
  (List.range 32).map fun i =>
    let c := b.codes.getD i 0
    if c = escCode fmt then
      let k := ((b.codes.take i).filter fun y => decide (y = escCode fmt)).length
      if k < 4 then binary32.encode (binary16.decode (slot k)) else 0
    else codeValue b.e b.f c

/-- The residuals of an encoding (R250): rna32(x − decoded), +0 for a non-finite input. -/
def residuals (fmt : Nat) (x : List Nat) (r : Encoded) : List Nat :=
  let y := decodeSForm fmt (r.sForm fmt)
  (List.range 32).map fun i =>
    let v := binary32.decode (x.getD i 0)
    if v.isFin then binary32.encode (v.sub (binary32.decode (y.getD i 0))) else 0

end Sys2Proof.Machine
end

