-- ==== Sys2Proof/Machine/Tile.lean ====
section
/-! DEFINITION. A dense tile: command queues and dispatch (R196 to R199, R208), token queues (R198), Fetch (R201, R209 to
R213), TSET, NOTIFY, the error state (R214), tile reset (R224). -/

namespace Sys2Proof.Machine

/-! ### Descriptors (R197, R202, R204, R206, R207) -/

def Desc.wfmt (d : Desc) : Nat := d.f 1 2 0
def Desc.afmt (d : Desc) : Nat := d.f 1 6 4
def Desc.mmaRows (d : Desc) : Nat := d.f 1 13 8 + 1
def Desc.mmaBank (d : Desc) : Nat := d.f 1 14 14
def Desc.zero (d : Desc) : Bool := bit (d.w 1) 15
def Desc.kb (d : Desc) : Nat := d.f 1 31 16
def Desc.nb (d : Desc) : Nat := d.f 2 1 0 + 1
def Desc.wob (d : Desc) : Nat := d.f 2 2 2
def Desc.aob (d : Desc) : Nat := d.f 2 3 3
def Desc.es (d : Desc) : Nat := d.f 2 10 4
def Desc.wbase (d : Desc) : Nat := d.f 3 12 0
def Desc.wlen (d : Desc) : Nat := d.f 3 26 13
def Desc.abase (d : Desc) : Nat := d.f 4 12 0
def Desc.wd2 (d : Desc) : Nat := d.f 5 3 0
def Desc.pd2 (d : Desc) : Nat := d.f 5 7 4
def Desc.dst (d : Desc) : Nat := d.w 1 + d.f 2 15 0 * 2 ^ 32
def Desc.loc (d : Desc) : Bool := bit (d.w 2) 16
def Desc.locCore (d : Desc) : Nat := d.f 2 17 17
def Desc.ofmt (d : Desc) : Nat := d.f 2 20 18
def Desc.drainBank (d : Desc) : Nat := d.f 2 21 21
def Desc.drainRows (d : Desc) : Nat := d.f 3 5 0 + 1
def Desc.cols (d : Desc) : Nat := d.f 3 14 8 + 1
def Desc.cfirst (d : Desc) : Nat := d.f 3 22 16
def Desc.rstride (d : Desc) : Nat := d.f 4 23 0
def Desc.gstride (d : Desc) : Nat := d.f 5 23 0
def Desc.eng (d : Desc) : Nat := d.f 2 1 0

/-- Whether a weight format is a Q format; the block width of R189; granules of an AOB's core (R190); of a slot (R192). -/
def isQ (fmt : Nat) : Bool := decide (fmt < 3)
def blockWidth (fmt : Nat) : Nat := if fmt = 2 then 128 else if isQ fmt then 64 else 32
def coreGranules (fmt : Nat) : Nat := if fmt = 0 then 68 else if fmt = 1 then 52 else if fmt = 2 then 72 else 32
def slotGranules (fmt : Nat) : Nat := if isQ fmt then 2 else 1

/-- The granules of an MMA's AOB, escape section included (R190). -/
def Desc.aobGranules (d : Desc) : Nat := coreGranules d.wfmt + d.es

/-- The columns of a Drain group (R205). -/
def groupCols (fmt : Nat) : Nat := if isQ fmt then 64 else if fmt = 6 then 16 else 32

/-! ### What the dispatcher refuses (R208) -/

/-- Whether a queue field holds 8 to 14. -/
def badQueue (q : Nat) : Bool := decide (8 ≤ q) && decide (q < 15)

/-- The reserved bits of word 0, and of the words of a FETCH, an MMA, a DRAIN. -/
def Desc.reserved (d : Desc) : Bool :=
  let z (i hi lo : Nat) : Bool := decide (d.f i hi lo ≠ 0)
  z 0 11 8
  || (decide (d.op = 1) && (z 2 31 26 || z 3 31 27 || z 4 15 10 || z 5 31 24 || z 6 31 24 || z 7 31 16))
  || (decide (d.op = 2) && (z 1 3 3 || z 1 7 7 || z 2 31 11 || z 3 31 27 || z 4 31 13 || z 5 31 8 || z 6 31 0 || z 7 31 0))
  || (decide (d.op = 3) && (z 2 31 22 || z 3 7 6 || z 3 15 15 || z 3 31 23 || z 4 31 24 || z 5 31 24 || z 6 31 0 || z 7 31 0))

/-- Whether a FETCH breaks R208. -/
def Desc.badFetch (d : Desc) : Bool :=
  decide (d.dstLen = 0) || decide (d.cnt1 = 0) || decide (d.cnt2 = 0) || decide (d.src % 64 ≠ 0)
  || decide (d.dstLen < (if d.perIter then d.cnt1 * d.run else d.run))

/-- Whether an MMA breaks R208. -/
def Desc.badMma (d : Desc) : Bool :=
  badQueue d.wd2 || badQueue d.pd2 || decide (d.kb = 0) || decide (d.wlen = 0)
  || !((decide (d.wfmt < 3) && decide (d.afmt < 3)) || (decide (d.wfmt = 4 ∨ d.wfmt = 5) && decide (d.afmt = d.wfmt)))
  || decide ((if d.wfmt < 2 then 2 else if d.wfmt = 2 then 1 else 4) < d.nb)
  || decide (d.wlen < d.aobGranules)
  || decide (8192 < d.abase + d.kb * d.mmaRows * slotGranules d.wfmt)

/-- Whether a DRAIN breaks R208. -/
def Desc.badDrain (d : Desc) : Bool :=
  decide (d.ofmt = 3 ∨ d.ofmt = 7) || decide (d.dst % 64 ≠ 0) || decide (d.cfirst % groupCols d.ofmt ≠ 0) || decide (d.cols % groupCols d.ofmt ≠ 0)
  || decide (128 < d.cfirst + d.cols)

/-- The code of a refusal (R208, R225): 0 none, 1 BAD_OP, 2 BAD_FIELD. A TSET count above 4,095 is refused (R206), as is a
NOTIFY that names no engine (log entry 47). -/
def Desc.refusal (d : Desc) : Nat :=
  if 5 < d.op then 1
  else if badQueue d.wd || badQueue d.pd || (decide (d.op ≠ 4 ∧ d.op ≠ 5) && (badQueue d.wi || badQueue d.pi)) || d.reserved
    || (decide (d.op = 1) && d.badFetch) || (decide (d.op = 2) && d.badMma) || (decide (d.op = 3) && d.badDrain)
    || (decide (d.op = 4) && (List.range 8).any fun i => decide (4095 < d.f (2 + i / 2) (16 * (i % 2) + 15) (16 * (i % 2))))
    || (decide (d.op = 5) && decide (d.eng = 0)) then 2
  else 0

/-! ### The tile's queues -/

/-- Core k's side of the tile, and with it changed. -/
def TileSt.port (x : TileSt) (odd : Bool) : Port := if odd then x.odd else x.even
def TileSt.setPort (x : TileSt) (odd : Bool) (p : Port) : TileSt := if odd then { x with odd := p } else { x with even := p }

/-- The queue of engine e: 1 Fetch, 2 Array, 3 Drain. -/
def TileSt.eq (x : TileSt) (e : Nat) : List Desc := if e = 1 then x.fq else if e = 2 then x.aq else x.dq
def TileSt.setEq (x : TileSt) (e : Nat) (l : List Desc) : TileSt :=
  if e = 1 then { x with fq := l } else if e = 2 then { x with aq := l } else { x with dq := l }

/-- The sequencer core k of tile t. -/
def tileSeq (t : Nat) (odd : Bool) : Nat := 2 * t + (if odd then 1 else 0)

/-- HALTk of tile t. -/
def haltRef (t : Nat) (odd : Bool) : FieldRef := if odd then Reg.TILE_STATUS_HALT1 t else Reg.TILE_STATUS_HALT0 t

/-- Whether the engines of tile t are idle and their queues empty. -/
def TileSt.enginesIdle (x : TileSt) : Bool :=
  x.fq.isEmpty && x.aq.isEmpty && x.dq.isEmpty && x.fetch.isEmpty && x.mma.isNone && x.drain.isNone

/-- IDLE and TCQ_OCC of tile t show its state (R223, R227). -/
def State.tileShow (s : State) (t : Nat) : State :=
  let x := s.tile t
  ((s.fflag (Reg.TILE_STATUS_IDLE t) (x.enginesIdle && x.tset.isNone && x.even.queue.isEmpty && x.odd.queue.isEmpty)).fset
    (Reg.SEQ_STATUS_TCQ_OCC (2 * t)) x.even.queue.length).fset (Reg.SEQ_STATUS_TCQ_OCC (2 * t + 1)) x.odd.queue.length

/-- Whether tile t works: present, enabled, not in its error state (R214, R478). -/
def State.tileRuns (s : State) (t : Nat) : Bool := s.fbit (Reg.TILE_CTL_EN t) && !s.fbit (Reg.TILE_STATUS_ERR t) && !s.tileAbsent t

/-- f on a running tile, its status shown afterwards. -/
def State.onRunning (s : State) (t : Nat) (f : State → State) : State := if s.tileRuns t then (f s).tileShow t else s

/-- An error recorded in TILE_ERR, unless ERR holds an earlier one (R225). -/
def State.tileErrRec (s : State) (t code eng : Nat) (d : Desc) : State :=
  if s.fbit (Reg.TILE_STATUS_ERR t) then s
  else s.wrN (Reg.TILE_ERR t) (code * 2 ^ 28 + (if d.odd then 2 ^ 27 else 0) + eng * 2 ^ 24 + d.tag)

/-- The tile enters its error state (R214): DENSE_TILE, with TILE_ERR as its detail (R521). -/
def State.tileError (s : State) (t code eng : Nat) (d : Desc) : State :=
  if s.fbit (Reg.TILE_STATUS_ERR t) then s
  else
    let s := (s.tileErrRec t code eng d).fon (Reg.TILE_STATUS_ERR t)
    ((s.raise 14 2 t (s.rd (Reg.TILE_ERR t)).toNat).emitIrq (2 * t) 5 0 true).emitIrq (2 * t + 1) 5 0 true

/-! ### Token queues (R198) -/

/-- A post to token queue q; above 4,095 the count stays and the tile enters its error state. -/
def State.tqPost (s : State) (t q eng : Nat) (d : Desc) : State :=
  if 8 ≤ q then s
  else if 4095 ≤ s.fget (Reg.TILE_TQ_COUNT t q) then s.tileError t 5 eng d
  else s.fset (Reg.TILE_TQ_COUNT t q) (s.fget (Reg.TILE_TQ_COUNT t q) + 1)

/-- Whether token queue q has a token, or none is named. -/
def State.tqHas (s : State) (t q : Nat) : Bool := decide (8 ≤ q) || decide (0 < s.fget (Reg.TILE_TQ_COUNT t q))

/-- A token taken. -/
def State.tqTake (s : State) (t q : Nat) : State :=
  if 8 ≤ q then s else s.fset (Reg.TILE_TQ_COUNT t q) (s.fget (Reg.TILE_TQ_COUNT t q) - 1)

/-! ### Command queues and dispatch (R196, R199) -/

/-- A descriptor of core 2t + k enters the command queue, or its store stalls while 32 wait (R196). -/
def State.enqueue (s : State) (i : Nat) (w : List Word) : State :=
  let odd := decide (i % 2 = 1)
  (s.onTile (i / 2) fun x =>
    let p := x.port odd
    x.setPort odd (if p.queue.length < 32 ∧ p.stalled = [] then { p with queue := p.queue ++ [w] } else { p with stalled := p.stalled ++ [w] })).tileShow (i / 2)

/-- Stores to words of core i's command port, in order; the one that writes word 7 enqueues all eight words as they stand (R196). -/
def State.portStores (s : State) (i : Nat) (l : List (Nat × Word)) : State :=
  forL l (fun x s =>
    let odd := decide (i % 2 = 1)
    let w := ((s.tile (i / 2)).port odd).words.set x.1 x.2
    let s := s.onTile (i / 2) fun y => y.setPort odd { y.port odd with words := w }
    if x.1 = 7 then s.enqueue i w else s) s

/-- DESCRIPTOR_ENQUEUE (R196): stores to words 0 to 6 of the command port, then the store that writes word 7. -/
def execDescriptorEnqueue (i : Fin 128) (stores : List (Fin 7 × Word)) (last : Word) (s : State) : Host.Outcome State Fault Refusal :=
  .next (s.alive fun s =>
    if !s.fbit (Reg.SEQ_CTL_RUN i) || s.tileAbsent (i / 2) then s
    else s.portStores i ((stores.map fun x => (x.1.val, x.2)) ++ [(7, last)]))

/-- The head of core k's queue leaves; a stalled store takes the place that frees. -/
def State.dequeue (s : State) (t : Nat) (odd : Bool) : State :=
  s.onTile t fun x =>
    let p := x.port odd
    match p.stalled with
    | w :: r => x.setPort odd { p with queue := p.queue.tail ++ [w], stalled := r }
    | [] => x.setPort odd { p with queue := p.queue.tail }

/-- The head descriptor of core k, unless its queue is halted. -/
def State.headDesc (s : State) (t : Nat) (odd : Bool) : Option Desc :=
  if s.fbit (haltRef t odd) then none else ((s.tile t).port odd).queue.head?.map fun w => ⟨w, odd⟩

/-- The engine a descriptor goes to: 1 to 3, 0 none. -/
def Desc.engine (d : Desc) : Nat := if d.op = 5 then d.eng else if d.op = 4 ∨ d.op = 0 then 0 else d.op

/-- Whether the dispatcher can take a descriptor now: it is refused, it is a TSET, or its engine's queue has a place. A NOP
stays at the head until it has its token (log entry 48). -/
def State.canDispatch (s : State) (t : Nat) (d : Desc) : Bool :=
  decide (d.refusal ≠ 0) || decide (d.op = 4) || (decide (d.op ≠ 0) && decide (((s.tile t).eq d.engine).length < 16))

/-- The dispatcher takes descriptor d from core k's queue (R199, R208). -/
def State.dispatch (s : State) (t : Nat) (d : Desc) : State :=
  let s := (s.dequeue t d.odd).onTile t fun x => { x with turn := !d.odd }
  if d.refusal ≠ 0 then
    ((s.tileErrRec t d.refusal 0 d).fon (haltRef t d.odd)).emitIrq (tileSeq t d.odd) 6 0 true
  else if d.op = 4 then s.onTile t fun x => { x with tset := some d }
  else s.onTile t fun x => x.setEq d.engine (x.eq d.engine ++ [d])

/-- DESCRIPTOR_DISPATCH (R199): alternating between the two cores, the dispatcher takes the head descriptor of one; where
that finds its engine queue full, the other core's may pass it. While a TSET waits none is taken. -/
def execDescriptorDispatch (t : Fin 64) (s : State) : Host.Outcome State Fault Refusal :=
  .next (s.alive fun s => s.onRunning t fun s =>
    if (s.tile t).tset.isSome then s
    else
      let first := (s.tile t).turn
      let ok (odd : Bool) : Option Desc := (s.headDesc t odd).filter fun d => s.canDispatch t d
      match ok first with
      | some d => s.dispatch t d
      | none => match ok (!first) with
        | some d => s.dispatch t d
        | none => s)

/-- NOP (R197): a NOP at the head of core k's queue takes its WD token, ends and posts PD; it has no items. -/
def execNop (t : Fin 64) (odd : Bool) (s : State) : Host.Outcome State Fault Refusal :=
  .next (s.alive fun s => s.onRunning t fun s =>
    match s.headDesc t odd with
    | some d =>
      if d.op = 0 ∧ d.refusal = 0 ∧ (s.tile t).tset = none ∧ s.tqHas t d.wd then ((s.tqTake t d.wd).dequeue t odd).tqPost t d.pd 0 d else s
    | none => s)

/-! ### Fetch (R201, R209, R211) -/

/-- Granule g of operand buffer b of tile t, and accumulator (m, j) of bank c, in the store of private memories above the
local map (log entry 49). -/
def obAddr (t b g : Nat) : Nat := 2 ^ 50 + t * 2 ^ 21 + b * 2 ^ 19 + g * 64
def accAddr (t c m j : Nat) : Nat := 2 ^ 50 + t * 2 ^ 21 + 2 ^ 20 + c * 2 ^ 15 + (m * 128 + j) * 4

/-- A granule poisoned with a TILE_ERR code, or good (0). -/
def State.setPoison (s : State) (t b g code : Nat) : State :=
  s.onTile t fun x => { x with poison := tabPut (fun _ => 0) x.poison (8192 * b + g) code }
def State.poisonOf (s : State) (t b g : Nat) : Nat := tabGet (fun _ => 0) (s.tile t).poison (8192 * b + g)

/-- Fetch reads the granule at a into granule g of buffer b (R201, R211, R269): a refusal of any kind leaves it poisoned,
code 4 after an uncorrectable error, else 3. -/
def State.fetchGranule (s : State) (t b g a core : Nat) (quiet : Bool) (ecc : Ecc) : State :=
  if !inSlices a then (s.iff (!quiet) fun s => s.wrN (Reg.TILE_FETCH_GR t) ((s.rd (Reg.TILE_FETCH_GR t)).toNat + 1)).setPoison t b g 3
  else
    let (s, status, l) := s.memRead (.dense core) 4 a 64 ecc quiet
    let s := s.wrN (Reg.TILE_FETCH_GR t) ((s.rd (Reg.TILE_FETCH_GR t)).toNat + 1)
    if status = 5 then s.setPoison t b g 4
    else if status ≠ 0 ∨ (List.range 64).any (fun i => s.kvHides (.dense core) (a + i)) = true then s.setPoison t b g 3
    else (s.mwrite (obAddr t b g) l).setPoison t b g 0

/-- Fetch reads item q into its ring from FPOS on. -/
def State.fetchRead (s : State) (t : Nat) (d : Desc) (q fpos : Nat) (quiet : Bool) (ecc : List (BitVec 16 × Ecc)) : State :=
  let l := d.granules q
  forN l.length (fun g s =>
    let e := ((ecc.find? fun x => decide (x.1.toNat = g)).map Prod.snd).getD .none
    s.fetchGranule t d.ob ((d.dstBase + (fpos + g) % d.dstLen) % 8192) (l.getD g 0) (tileSeq t d.odd) quiet e) s

/-- The number of items below a level-2 count n. -/
def Desc.itemsBelow (d : Desc) (n : Nat) : Nat := n * d.perI2

/-- The level-2 count that is committed for a started FETCH: its final trip count, or what its bound commits (R209). -/
def State.committed (s : State) (t : Nat) (r : FRun) : Nat :=
  r.final.getD (min r.d.cnt2 (s.fget (Reg.TILE_BOUND_COUNT t r.d.bsel)))

/-- The level-2 count that Fetch may read (R209). -/
def State.readable (s : State) (t : Nat) (r : FRun) : Nat :=
  match r.final with
  | some n => n
  | none => if s.fbit (Reg.TILE_BOUND_CLOSED t r.d.bsel) then s.committed t r
    else min r.d.cnt2 (s.fget (Reg.TILE_BOUND_COUNT t r.d.bsel) + r.d.lookahead)

/-- Fetch starts a descriptor: its ring begins again where its base and length differ from the last ones (R201), its trip
count is final unless a bound that is open gives it (R209). -/
def State.fetchStart (s : State) (t : Nat) (d : Desc) : State :=
  let s := s.tqTake t d.wd
  let s := if tabGet (fun _ => (0, 0)) (s.tile t).rings d.ob = (d.dstBase, d.dstLen) then s
    else (s.fset (Reg.TILE_RING_FPOS t d.ob) 0).onTile t fun x => { x with rings := tabPut (fun _ => (0, 0)) x.rings d.ob (d.dstBase, d.dstLen) }
  let final := if !d.isSpec then some d.cnt2
    else if s.fbit (Reg.TILE_BOUND_CLOSED t d.bsel) then some (min d.cnt2 (s.fget (Reg.TILE_BOUND_COUNT t d.bsel))) else none
  s.onTile t fun x => { x with fq := x.fq.tail, fetch := x.fetch ++ [⟨d, 0, final, []⟩] }

/-- Whether a started FETCH has issued its last read. -/
def FRun.issued (r : FRun) : Bool :=
  match r.final with
  | some n => decide (r.d.itemsBelow n ≤ r.next) && r.items.all fun i => !i.stale
  | none => false

/-- Run k of tile t changed by f. -/
def State.onRun (s : State) (t k : Nat) (f : FRun → FRun) : State :=
  s.onTile t fun x => { x with fetch := x.fetch.mapIdx fun i r => if i = k then f r else r }

/-- The oldest item of run k that waits to be read again is reissued (R213). -/
def State.fetchAgain (s : State) (t k : Nat) (ecc : List (BitVec 16 × Ecc)) : Option State :=
  match (s.tile t).fetch[k]? with
  | some r =>
    (r.items.find? FItem.stale).map fun i =>
      (((s.fetchRead t r.d i.q i.fpos i.spec ecc).count (Reg.TILE_RESPEC_CNT t) 1).onRun t k fun r =>
        { r with items := r.items.map fun y => if y.q = i.q then { y with stale := false } else y })
  | none => none

/-- Fetch issues the next item of run k, when its bound lets it and its WI token is there (R209). -/
def State.fetchNext (s : State) (t k : Nat) (ecc : List (BitVec 16 × Ecc)) : State :=
  match (s.tile t).fetch[k]? with
  | some r =>
    let i2 := r.d.i2 r.next
    if s.readable t r ≤ i2 ∨ !s.tqHas t r.d.wi then s
    else
      let spec := decide (s.committed t r ≤ i2)
      let fpos := s.fget (Reg.TILE_RING_FPOS t r.d.ob)
      let s := (s.tqTake t r.d.wi).fetchRead t r.d r.next fpos spec ecc
      let s := s.fset (Reg.TILE_RING_FPOS t r.d.ob) ((fpos + (r.d.granules r.next).length) % r.d.dstLen)
      (s.iff spec fun s => s.count (Reg.TILE_SPEC_CNT t) 1).onRun t k fun r =>
        { r with next := r.next + 1, items := r.items ++ [⟨r.next, fpos, spec, false, false⟩] }
  | none => s

/-- A FETCH at the front of its queue starts where every started one has issued its items and its WD tokens are there (R209). -/
def State.fetchFront (s : State) (t : Nat) : State :=
  if (s.tile t).fetch.all FRun.issued then
    match (s.tile t).fq with
    | d :: _ => if d.op = 1 ∧ s.tqHas t d.wd then s.fetchStart t d else s
    | [] => s
  else s

/-- An older item is read again; where none is, the last started FETCH reads its next item (R209). -/
def State.fetchTurn (s : State) (t : Nat) (ecc : List (BitVec 16 × Ecc)) : State :=
  let n := (s.tile t).fetch.length
  match (List.range n).findSome? fun k => s.fetchAgain t k ecc with
  | some u => u
  | none => if n = 0 then s else s.fetchNext t (n - 1) ecc

/-- FETCH (R201, R209, R213): Fetch starts the descriptor at its head once the present one has issued its last read and the
WD token is there, rereads an item that a write squashed, or else issues its next item. stalled are cycles in which the
port took no read that was ready; ecc are the errors met, by granule of the item. -/
def execFetch (t : Fin 64) (stalled : Word) (ecc : List (BitVec 16 × Ecc)) (s : State) : Host.Outcome State Fault Refusal :=
  .next (s.alive fun s => s.onRunning t fun s => ((s.count (Reg.TILE_XSTALL_CNT t) stalled.toNat).fetchFront t).fetchTurn t ecc)

/-- PI is posted for the items of run k that are committed and here, in item order (R209). -/
def State.fetchPost (s : State) (t k : Nat) : Nat → State
  | 0 => s
  | n + 1 =>
    match (s.tile t).fetch[k]? with
    | some r => match r.items with
      | i :: rest =>
        if !i.spec && i.here && !i.stale && !s.fbit (Reg.TILE_STATUS_ERR t) then
          State.fetchPost ((s.onRun t k fun r => { r with items := rest }).tqPost t r.d.pi 1 r.d) t k n
        else s
      | [] => s
    | none => s

/-- PI is posted wherever it is due. -/
def State.fetchPosts (s : State) (t : Nat) : State :=
  forN (s.tile t).fetch.length (fun k s => s.fetchPost t k (((s.tile t).fetch.getD k ⟨⟨[], false⟩, 0, none, []⟩).items.length)) s

/-- FETCH_ITEM (R209): the data of item q of the run-th started FETCH has arrived; once the item is committed its PI token
is posted, in item order. -/
def execFetchItem (t : Fin 64) (run : Fin 16) (q : Word) (s : State) : Host.Outcome State Fault Refusal :=
  .next (s.alive fun s => s.onRunning t fun s =>
    (s.onRun t run fun r => { r with items := r.items.map fun i => if i.q = q.toNat ∧ i.stale = false then { i with here := true } else i }).fetchPosts t)

/-! ### Bound registers (R209, R210, R212) -/

/-- Items of run k below n level-2 iterations become committed; one that waits to be read again is read at this instant, so
that it holds its granules as they stand now (R213). -/
def State.commitItems (s : State) (t k n : Nat) : State :=
  match (s.tile t).fetch[k]? with
  | none => s
  | some r =>
    let now := r.items.filter fun i => i.spec && decide (r.d.i2 i.q < n)
    let s := forL (now.filter FItem.stale) (fun i s => (s.fetchRead t r.d i.q i.fpos false []).count (Reg.TILE_RESPEC_CNT t) 1) s
    s.onRun t k fun r => { r with items := r.items.map fun i => if i.spec && decide (r.d.i2 i.q < n) then { i with spec := false, stale := false } else i }

/-- The squash of run k at its final count n (R212): the items at or above it go, their WI tokens return, FPOS returns to the
end of the last committed item. -/
def State.squash (s : State) (t k n : Nat) : State :=
  match (s.tile t).fetch[k]? with
  | none => s
  | some r =>
    let gone := r.items.filter fun i => decide (n ≤ r.d.i2 i.q)
    let s := s.iff (decide (r.d.wi < 8)) fun s => s.fset (Reg.TILE_TQ_COUNT t r.d.wi) (min 4095 (s.fget (Reg.TILE_TQ_COUNT t r.d.wi) + gone.length))
    let s := match gone.head? with
      | some i => s.fset (Reg.TILE_RING_FPOS t r.d.ob) i.fpos
      | none => s
    (s.count (Reg.TILE_SQUASH_CNT t) gone.length).onRun t k fun r => { r with items := r.items.filter fun i => decide (r.d.i2 i.q < n), final := some n }

/-- The runs of tile t that take their trip count from bound register b. -/
def State.boundRuns (s : State) (t b : Nat) : List Nat :=
  (List.range (s.tile t).fetch.length).filter fun k => match (s.tile t).fetch[k]? with
    | some r => r.d.isSpec && decide (r.d.bsel = b) && r.final.isNone
    | none => false

/-- A write of TILE_BOUNDb (R210). -/
def State.boundWrite (s : State) (t b : Nat) (closed : Bool) (n : Nat) : State :=
  let was := s.fbit (Reg.TILE_BOUND_CLOSED t b)
  let set (s : State) : State := (s.fflag (Reg.TILE_BOUND_CLOSED t b) closed).fset (Reg.TILE_BOUND_COUNT t b) n
  let cnt2 (s : State) (k : Nat) : Nat := match (s.tile t).fetch[k]? with
    | some r => r.d.cnt2
    | none => 0
  if closed then
    (forL (s.boundRuns t b) (fun k s => let m := min (cnt2 s k) n; (s.commitItems t k m).squash t k m) (set s)).fetchPosts t
  else if was then set s
  else if n < s.fget (Reg.TILE_BOUND_COUNT t b) then s.fon (Reg.TILE_STATUS_CFG_IGNORED t)
  else (forL (s.boundRuns t b) (fun k s => s.commitItems t k (min (cnt2 s k) n)) (set s)).fetchPosts t

/-- BOUND_WRITE (R210). -/
def execBoundWrite (m : Master) (t : Fin 64) (b : Fin 8) (closed : Bool) (count : BitVec 16) (s : State) : Host.Outcome State Fault Refusal :=
  .next (s.alive fun s => s.guarded m (Reg.TILE_BOUND t b) fun s =>
    if s.tileAbsent t then s else (s.boundWrite t b closed count.toNat).tileShow t)

/-! ### TSET, NOTIFY and the ends of descriptors (R199, R206, R207) -/

/-- TSET (R206): once the engines are idle and its WD token is there, the queues that MASK selects take their counts and the
rings named begin again; PD is posted. -/
def execTset (t : Fin 64) (s : State) : Host.Outcome State Fault Refusal :=
  .next (s.alive fun s => s.onRunning t fun s =>
    match (s.tile t).tset with
    | none => s
    | some d =>
      if !(s.tile t).enginesIdle || !s.tqHas t d.wd then s
      else
        let s := (s.tqTake t d.wd).onTile t fun x => { x with tset := none }
        let s := forN 8 (fun q s => s.iff (bit (d.w 1) q) fun s => s.fset (Reg.TILE_TQ_COUNT t q) (d.f (2 + q / 2) (16 * (q % 2) + 11) (16 * (q % 2)))) s
        let s := forN 2 (fun b s => s.iff (bit (d.w 1) (8 + b)) fun s => (s.fset (Reg.TILE_RING_FPOS t b) 0).fset (Reg.TILE_RING_APOS t b) 0) s
        s.tqPost t d.pd 0 d)

/-- Whether engine e of tile t runs nothing. -/
def TileSt.engineFree (x : TileSt) (e : Nat) : Bool :=
  if e = 1 then x.fetch.isEmpty else if e = 2 then x.mma.isNone else x.drain.isNone

/-- NOTIFY (R207): at the head of engine ENG's queue, every earlier descriptor of the engine ended, its WD token there: the
SIGNAL is sent and PD is posted. -/
def execNotify (t : Fin 64) (eng : Fin 4) (s : State) : Host.Outcome State Fault Refusal :=
  .next (s.alive fun s => s.onRunning t fun s =>
    match (s.tile t).eq eng with
    | d :: r =>
      if d.op = 5 ∧ eng ≠ 0 ∧ (s.tile t).engineFree eng ∧ s.tqHas t d.wd then
        (((s.tqTake t d.wd).onTile t fun x => x.setEq eng r).request (tileCoord s.devid t 0) 1 fun tag =>
          .sync s.devid (d.f 1 15 0) 0 (d.f 1 31 16) 0 (tileCoord s.devid t 0 + tag * 2 ^ 22)).tqPost t d.pd eng d
      else s
    | [] => s)

/-- DESCRIPTOR_END (R199): FETCH ends when its trip count is final and every item has been posted, MMA when its last AOB is
done, DRAIN when its writes are acknowledged; PD, and PD2 of an MMA, are posted. -/
def execDescriptorEnd (t : Fin 64) (eng : Fin 4) (s : State) : Host.Outcome State Fault Refusal :=
  .next (s.alive fun s => s.onRunning t fun s =>
    let x := s.tile t
    match eng.val with
    | 1 =>
      match x.fetch with
      | r :: rest => if r.issued && r.items.isEmpty then (s.onTile t fun x => { x with fetch := rest }).tqPost t r.d.pd 1 r.d else s
      | [] => s
    | 2 =>
      match x.mma with
      | some (d, k) =>
        if k = d.nb * d.kb then
          let s := (s.onTile t fun x => { x with mma := none }).tqPost t d.pd 2 d
          if s.fbit (Reg.TILE_STATUS_ERR t) then s else s.tqPost t d.pd2 2 d
        else s
      | none => s
    | 3 =>
      match x.drain with
      | some d => (s.onTile t fun x => { x with drain := none, drained := [] }).tqPost t d.pd 3 d
      | none => s
    | _ => s)

/-! ### Reset and halts (R223, R224) -/

/-- Private memory from address a is unpredictable for n bytes; granules are no longer poisoned. -/
def State.tileReset (s : State) (t : Nat) : State :=
  let x := s.tile t
  let s := forL x.drained (fun r s => s.mopen r.1 r.2) s
  let was := s.fbit (Reg.TILE_STATUS_ERR t)
  let h0 := s.fbit (Reg.TILE_STATUS_HALT0 t)
  let h1 := s.fbit (Reg.TILE_STATUS_HALT1 t)
  let s := s.onTile t fun x => { TileSt.init with
    even := { x.even with queue := [], stalled := [] }, odd := { x.odd with queue := [], stalled := [] } }
  let s := s.foff (Reg.TILE_CTL_EN t)
  let s := (s.wrZeros ((List.range 8).map (Reg.TILE_TQ t))).wrZeros ((List.range 2).map (Reg.TILE_RING t))
  let s := forN 8 (fun b s => s.wrN (Reg.TILE_BOUND t b) (2 ^ 31)) s
  let s := (((s.foff (Reg.TILE_STATUS_ERR t)).foff (Reg.TILE_STATUS_HALT0 t)).foff (Reg.TILE_STATUS_HALT1 t)).wr (Reg.TILE_ERR t) 0
  let s := s.iff was fun s => (s.emit (.irq (2 * t) 5 0 false)).emit (.irq (2 * t + 1) 5 0 false)
  let s := (s.iff h0 fun s => s.emit (.irq (2 * t) 6 0 false)).iff h1 fun s => s.emit (.irq (2 * t + 1) 6 0 false)
  (s.mopen (obAddr t 0 0) (2 ^ 20 + 2 ^ 16)).tileShow t

/-- TILE_RESET (R224): a write of 0 to TILE_CTL.EN. -/
def execTileReset (m : Master) (t : Fin 64) (s : State) : Host.Outcome State Fault Refusal :=
  .next (s.alive fun s => s.guarded m (Reg.TILE_CTL t) fun s => if s.tileAbsent t then s else s.tileReset t)

/-- HALTk cleared: dispatch of core k's queue resumes (R223). -/
def State.haltClear (s : State) (t : Nat) (odd : Bool) : State :=
  if s.fbit (haltRef t odd) then (s.foff (haltRef t odd)).emit (.irq (tileSeq t odd) 6 0 false) else s

/-- HALT_CLEAR (R223). -/
def execHaltClear (m : Master) (t : Fin 64) (odd : Bool) (s : State) : Host.Outcome State Fault Refusal :=
  .next (s.alive fun s => s.guarded m (Reg.TILE_STATUS t) fun s => if s.tileAbsent t then s else s.haltClear t odd)

end Sys2Proof.Machine
end

