-- ==== Sys2Proof/Machine/Dense.lean ====
section
/-! DEFINITION. The Array and Drain of a tile (R189 to R195, R203, R205, R243 to R248). -/

namespace Sys2Proof.Machine

/-! ### Escape entries (R191, R194) -/

/-- The valid escape entries among n 32-bit words of a byte list from offset o: block, position, binary16 value. -/
def escEntries (l : List Byte) (o n : Nat) : List (Nat × Nat × Nat) :=
  (List.range n).filterMap fun i =>
    let w := leNat ((l.drop (o + 4 * i)).take 4)
    if bit w 15 then some (bits w 12 5, bits w 4 0, bits w 31 16) else none

/-- The value of the entry that names (block, position); the first stands (R233). -/
def escValue (es : List (Nat × Nat × Nat)) (b p : Nat) : Option Nat :=
  (es.find? fun x => decide (x.1 = b ∧ x.2.1 = p)).map fun x => x.2.2

/-- Escape codes without an entry and entries without a code, second entries for one code included (R194, R233). -/
def escMisses (fmt : Nat) (bs : List Block) (es : List (Nat × Nat × Nat)) : Nat :=
  let isEsc (b p : Nat) : Bool := decide (((bs.getD b ⟨[], 0, 0⟩).codes.getD p 0) = escCode fmt)
  let lone := (List.range bs.length).foldl (fun a b => a + ((List.range 32).filter fun p => isEsc b p && (escValue es b p).isNone).length) 0
  let idle := (es.mapIdx fun i x => decide (¬ isEsc x.1 x.2.1 = true) || (es.take i).any fun y => decide (y.1 = x.1 ∧ y.2.1 = x.2.1)).filter id
  lone + idle.length

/-! ### The terms of one accumulator (R243 to R246) -/

/-- The term of a half-column (R243): the exact sum of the code products, scaled and rounded once. -/
def qTerm (wf af : Nat) (w a : Block) : Nat :=
  let c (fmt : Nat) (b : Block) (p : Nat) : Int := let v := b.codes.getD p 0; if v = escCode fmt then 0 else v
  let sum : Int := (List.range 32).foldl (fun x p => x + c wf w p * c af a p) 0
  if scaleZero w.e || scaleZero a.e || decide (sum = 0) then 0
  else binary32.encode (.fin (decide (sum < 0)) (sum.natAbs * (256 + w.f) * (256 + a.f)) ((w.e : Int) + a.e - 270))

/-- The escape contributions of a half-column: weight block b with entries ew, slot block h with entries ea (R194, R244). A
code that no entry names counts as +0 (R233). -/
def escTerms (wf af b h : Nat) (w a : Block) (ew ea : List (Nat × Nat × Nat)) : List Nat :=
  (List.range 32).filterMap fun p =>
    let wc := w.codes.getD p 0
    let ac := a.codes.getD p 0
    let wEsc := if wc = escCode wf then escValue ew b p else none
    let aEsc := if ac = escCode af then escValue ea h p else none
    let av : FpVal := match aEsc with
      | some v => binary16.decode v
      | none => if ac = escCode af then .fin false 0 0 else codeExact a.e a.f ac
    let wv : FpVal := match wEsc with
      | some v => binary16.decode v
      | none => if wc = escCode wf then .fin false 0 0 else codeExact w.e w.f wc
    if wEsc.isSome || aEsc.isSome then some (binary32.encode (av.mul wv)) else none

/-- The terms of row m's slot for column j of an AOB in the Q modes: both half-columns and their escapes. -/
def qTerms (wf af j : Nat) (ws as : List Block) (ew ea : List (Nat × Nat × Nat)) : List Nat :=
  (List.range 2).flatMap fun h =>
    let w := ws.getD (2 * j + h) ⟨[], 0, 0⟩
    let a := as.getD h ⟨[], 0, 0⟩
    qTerm wf af w a :: escTerms wf af (2 * j + h) h w a ew ea

/-- The terms of row m's slot for column j in float mode: 32 products, each rounded once (R245). -/
def floatTerms (fmt j : Nat) (w a : List Byte) : List Nat :=
  let f := if fmt = 4 then binary16 else bfloat16
  let el (l : List Byte) (i : Nat) : FpVal := f.decode (leNat ((l.drop (2 * i)).take 2))
  (List.range 32).map fun k => binary32.encode ((el w (32 * j + k)).mul (el a k))

/-- A term put among terms by its key. -/
def insertKey (x : Nat × Nat) : List (Nat × Nat) → List (Nat × Nat)
  | [] => [x]
  | y :: r => if x.1 ≤ y.1 then x :: y :: r else y :: insertKey x r

/-- The accumulator after the terms, in the order of their keys: the order the manual leaves open (R246). -/
def accumulate (acc : Nat) (terms keys : List Nat) : Nat :=
  let l := (terms.zip keys).foldl (fun a x => insertKey (x.2, x.1) a) []
  l.foldl (fun a x => add32 a x.2) acc

/-! ### The Array (R195, R203, R214) -/

/-- n granules of buffer b from ring position pos: the bytes, and the code of the first poisoned one. -/
def State.obRead (s : State) (t b base len pos n : Nat) : List Byte × Nat :=
  let g := (List.range n).map fun i => (base + (if len = 0 then pos + i else (pos + i) % len)) % 8192
  (g.flatMap fun k => s.mread (obAddr t b k) 64, ((g.map fun k => s.poisonOf t b k).find? fun c => decide (c ≠ 0)).getD 0)

/-- A row's sums enter columns of an accumulator bank. -/
def State.accRow (s : State) (t bank m c0 : Nat) (terms : List (List Nat)) : State :=
  let n := terms.foldl (fun a l => max a l.length) 0
  forN terms.length (fun j s =>
    let l := terms.getD j []
    let a := accAddr t bank m (c0 + j)
    (s.mnatPut a 4 (accumulate (s.mnat a 4) l ((s.freeVals 32 n).map BitVec.toNat))).drawnN n) s

/-- Row m of an AOB: its slot is read, its sums are added, its cycles counted; a poisoned slot stops the tile, and what
reached the bank from the rows of this AOB still in the array is open (R195, R214, log entry 50). -/
def State.mmaRow (s : State) (t : Nat) (d : Desc) (kb c m : Nat) (aob : List Byte) (ws : List Block) (ew : List (Nat × Nat × Nat)) : State :=
  if s.fbit (Reg.TILE_STATUS_ERR t) then s
  else
    let g := slotGranules d.wfmt
    let (slot, bad) := s.obRead t d.aob d.abase 0 ((kb * d.mmaRows + m) * g) g
    if bad ≠ 0 then
      (forN m (fun k s => s.mopen (accAddr t d.mmaBank k (c * blockWidth d.wfmt)) (4 * blockWidth d.wfmt)) s).tileError t bad 2 d
    else if isQ d.wfmt then
      let as := (List.range 2).map fun h => Block.ofBytes d.afmt ((slot.drop (h * blockBytes d.afmt)).take (blockBytes d.afmt))
      let ea := escEntries slot 68 8
      let s := s.count (Reg.TILE_ESC_MISS_CNT t) (escMisses d.afmt as ea)
      let s := s.count (Reg.TILE_ARR_CYC t) (max 1 ((ew.length + 63) / 64) + ea.length)
      s.accRow t d.mmaBank m (c * blockWidth d.wfmt) ((List.range (blockWidth d.wfmt)).map fun j => qTerms d.wfmt d.afmt j ws as ew ea)
    else
      (s.count (Reg.TILE_ARR_CYC t) 1).accRow t d.mmaBank m (c * 32) ((List.range 32).map fun j => floatTerms d.wfmt j aob slot)

/-- AOB k of an MMA, in the order of R203: loaded once its WI token is there, PI posted, then its rows. -/
def State.mmaAob (s : State) (t : Nat) (d : Desc) (k : Nat) : State :=
  if !s.tqHas t d.wi then s
  else
    let s := s.tqTake t d.wi
    let pos := s.fget (Reg.TILE_RING_APOS t d.wob)
    let (l, bad) := s.obRead t d.wob d.wbase d.wlen pos d.aobGranules
    if bad ≠ 0 then s.tileError t bad 2 d
    else
      let s := (s.fset (Reg.TILE_RING_APOS t d.wob) ((pos + d.aobGranules) % d.wlen)).tqPost t d.pi 2 d
      let ws := if isQ d.wfmt then (List.range (2 * blockWidth d.wfmt)).map fun b => Block.ofBytes d.wfmt ((l.drop (b * blockBytes d.wfmt)).take (blockBytes d.wfmt)) else []
      let ew := if isQ d.wfmt then escEntries l (64 * coreGranules d.wfmt) (16 * d.es) else []
      let s := s.iff (isQ d.wfmt) fun s => s.count (Reg.TILE_ESC_MISS_CNT t) (escMisses d.wfmt ws ew)
      let s := forN d.mmaRows (fun m s => s.mmaRow t d (k % d.kb) (k / d.kb) m l ws ew) s
      s.onTile t fun x => { x with mma := x.mma.map fun y => (y.1, y.2 + 1) }

/-- The Array starts an MMA: the ring position begins again where base and length differ from the last ones, and with ZERO
the columns used become +0 (R201, R203). -/
def State.mmaStart (s : State) (t : Nat) (d : Desc) : State :=
  let s := (s.tqTake t d.wd).tqTake t d.wd2
  let s := if tabGet (fun _ => (0, 0)) (s.tile t).rings (2 + d.wob) = (d.wbase, d.wlen) then s
    else (s.fset (Reg.TILE_RING_APOS t d.wob) 0).onTile t fun x => { x with rings := tabPut (fun _ => (0, 0)) x.rings (2 + d.wob) (d.wbase, d.wlen) }
  let s := s.iff d.zero fun s => forN d.mmaRows (fun m s => s.mzero (accAddr t d.mmaBank m 0) (4 * d.nb * blockWidth d.wfmt)) s
  s.onTile t fun x => { x with aq := x.aq.tail, mma := some (d, 0) }

/-- MMA (R203): the Array starts the MMA at the head of its queue once its tokens are there, and runs the next AOB. waited
are cycles in which it waited for a token. -/
def execMma (t : Fin 64) (waited : Word) (s : State) : Host.Outcome State Fault Refusal :=
  .next (s.alive fun s => s.onRunning t fun s =>
    let s := s.count (Reg.TILE_ARR_WAIT t) waited.toNat
    let s := match (s.tile t).mma, (s.tile t).aq with
      | none, d :: _ =>
        let both := decide (d.wd < 8 ∧ d.wd = d.wd2 ∧ s.fget (Reg.TILE_TQ_COUNT t d.wd) < 2)
        if d.op = 2 ∧ s.tqHas t d.wd ∧ s.tqHas t d.wd2 ∧ both = false then s.mmaStart t d else s
      | _, _ => s
    match (s.tile t).mma with
    | some (d, k) => if k < d.nb * d.kb then s.mmaAob t d k else s
    | none => s)

/-! ### Drain (R205, R248) -/

/-- The controls of TILE_NUM_CTL (R254). -/
def State.numCtl (s : State) (t : Nat) : EncCtl :=
  ⟨s.fget (Reg.TILE_NUM_CTL_SMODE t), s.fget (Reg.TILE_NUM_CTL_OSH t), s.fbit (Reg.TILE_NUM_CTL_ESC_EN t),
   s.fget (Reg.TILE_NUM_CTL_E_G t), s.fget (Reg.TILE_NUM_CTL_F_G t)⟩

/-- ESC_OVF of tile t set; the fault source ESC_OVF is raised when it was 0 (R242). -/
def State.escOvf (s : State) (t : Nat) : State :=
  let was := s.fbit (Reg.TILE_NUM_STATUS_ESC_OVF t)
  ((s.fon (Reg.TILE_NUM_STATUS_ESC_OVF t)).count (Reg.TILE_ESC_OVF_CNT t) 1).iff (!was) fun s => s.raise 13 2 t 0

/-- SAT_COUNT of n saturations. -/
def State.drainSat (s : State) (t n : Nat) : State :=
  if n = 0 then s else (s.fon (Reg.TILE_NUM_STATUS_SAT t)).count (Reg.TILE_SAT_CNT t) n

/-- A group of 64 columns as an activation slot (R192, R248); the bytes between the blocks and the entries are open. -/
def State.drainSlot (s : State) (t fmt : Nat) (x : List Nat) : State × List Byte :=
  let r := (List.range 2).map fun h => encodeBlock fmt (s.numCtl t) ((x.drop (32 * h)).take 32)
  let s := forL r (fun e s =>
    let s := (s.iff e.ovf fun s => s.escOvf t).drainSat t e.sat
    s.iff (e.escs.any fun y => decide (y.2 = binary16.nan)) fun s => s.fon (Reg.TILE_NUM_STATUS_NAN t)) s
  let blocks := r.flatMap fun e => e.block.bytes fmt
  let gap := s.freeVals 8 (68 - blocks.length)
  let entries := (List.range 2).flatMap fun h => (List.range 4).flatMap fun k =>
    match (((r.map fun e => e.escs).getD h []).drop k).head? with
    | some (p, v) => leBytes 4 (v * 65536 + 0x8000 + h * 32 + p)
    | none => leBytes 4 0
  (s.drawnN (68 - blocks.length), blocks ++ gap ++ entries ++ List.replicate 28 0)

/-- A group of binary16 or bfloat16 columns, or of binary32 ones (R248). -/
def State.drainFloats (s : State) (t fmt : Nat) (x : List Nat) : State × List Byte :=
  if fmt = 6 then (s, x.flatMap fun v => leBytes 4 v)
  else
    let f := if fmt = 4 then binary16 else bfloat16
    let y := x.map fun v => f.encode (binary32.decode v)
    let sat := (x.filter fun v => (binary32.decode v).isFin && !(f.decode (f.encode (binary32.decode v))).isFin).length
    let nan := x.any fun v => (binary32.decode v).isNan
    ((s.drainSat t sat).iff nan fun s => s.fon (Reg.TILE_NUM_STATUS_NAN t), y.flatMap fun v => leBytes 2 v)

/-- The address group g of row m goes to: the slices, or with LOC = 1 an offset in the local memory named (R204, R205). -/
def Desc.groupAddr (d : Desc) (t m g i : Nat) : Nat :=
  let o := d.dst % (if d.loc then 2 ^ 32 else 2 ^ 48) + m * d.rstride + g * d.gstride + i
  if d.loc then 0x83100000000 + tileSeq t (decide (d.locCore = 1)) * 0x40000 + o % 0x40000 else o % 2 ^ 48

/-- A group's bytes written: a violation stops the tile with code REGION (R214). -/
def State.drainWrite (s : State) (t : Nat) (d : Desc) (m g : Nat) (l : List Byte) (ecc : Ecc) : State :=
  let b := (List.range l.length).map fun i => (d.groupAddr t m g i, l.getD i 0)
  let a := d.groupAddr t m g 0
  if d.loc then (s.localWrite (.dense (tileSeq t d.odd)) b ecc).1
  else if !(b.all fun x => inSlices x.1) then s.tileError t 3 3 d
  else
    let (s, status) := s.memWrite (.dense (tileSeq t d.odd)) b ecc
    let s := s.onTile t fun x => { x with drained := (a, l.length) :: x.drained }
    if status = 4 then s.tileError t 3 3 d else s

/-- One group of a row converted and written. -/
def State.drainGroup (s : State) (t : Nat) (d : Desc) (m g : Nat) (ecc : Ecc) : State :=
  if s.fbit (Reg.TILE_STATUS_ERR t) then s
  else
    let x := (List.range (groupCols d.ofmt)).map fun j => s.mnat (accAddr t d.drainBank m (d.cfirst + g * groupCols d.ofmt + j)) 4
    let (s, l) := if isQ d.ofmt then s.drainSlot t d.ofmt x else s.drainFloats t d.ofmt x
    s.drainWrite t d m g l ecc

/-- DRAIN (R205): Drain starts the descriptor at the head of its queue once its WD token is there, and converts and writes
its groups, row by row. The accumulators stay. ecc: what the writes of groups, by number, find where they cover a word in part (R393). -/
def execDrain (t : Fin 64) (ecc : List (BitVec 16 × Ecc)) (s : State) : Host.Outcome State Fault Refusal :=
  .next (s.alive fun s => s.onRunning t fun s =>
    match (s.tile t).drain, (s.tile t).dq with
    | none, d :: r =>
      if d.op = 3 ∧ s.tqHas t d.wd then
        let s := (s.tqTake t d.wd).onTile t fun x => { x with dq := r, drain := some d, drained := [] }
        forN d.drainRows (fun m s => forN (d.cols / groupCols d.ofmt) (fun g s =>
          s.drainGroup t d m g ((ecc.find? fun x => decide (x.1.toNat = m * (d.cols / groupCols d.ofmt) + g)).elim .none Prod.snd)) s) s
      else s
    | _, _ => s)

/-! ### Conversion units (R249 to R251) -/

/-- A store to a conversion unit's page: CVU_DATA, CVU_BLK and the flags of CVU_STAT; a store to CVU_RESID is ignored. -/
def Cvu.store (v : Cvu) (o : Nat) (w : Word) : Cvu :=
  if 0x100 ≤ o ∧ o < 0x180 then { v with data := v.data.set ((o - 0x100) / 4) w }
  else if o = 0x184 then { v with stat := BitVec.ofNat 32 (v.stat.toNat - (v.stat.toNat &&& w.toNat &&& 0x86)) }
  else if 0x1A0 ≤ o ∧ o < 0x1D0 then
    let b := leBytes 4 w.toNat
    let i := (o - 0x1A0) / 4 * 4
    { v with blk := (List.range 4).foldl (fun l k => l.set (i + k) (b.getD k 0)) v.blk }
  else v

/-- Bytes stored to CVU_BLK. -/
def Cvu.storeBytes (v : Cvu) (o : Nat) (l : List Byte) : Cvu :=
  { v with blk := (List.range l.length).foldl (fun t k => t.set (o - 0x1A0 + k) (l.getD k 0)) v.blk }

/-- The byte that a load reads at offset o: past the S-form of the FMT that CVU_CTL holds, CVU_BLK reads as zero (R249, R251). -/
def Cvu.byte (v : Cvu) (o : Nat) : Byte :=
  let part (w : Word) : Byte := (leBytes 4 w.toNat).getD (o % 4) 0
  if 0x100 ≤ o ∧ o < 0x180 then part (v.data.getD ((o - 0x100) / 4) 0)
  else if 0x180 ≤ o ∧ o < 0x184 then part v.ctl
  else if 0x184 ≤ o ∧ o < 0x188 then part v.stat
  else if 0x1A0 ≤ o ∧ o < 0x1D0 then (if o - 0x1A0 < sFormBytes (bits v.ctl.toNat 2 1) then v.blk.getD (o - 0x1A0) 0 else 0)
  else if 0x200 ≤ o ∧ o < 0x280 then part (v.resid.getD ((o - 0x200) / 4) 0)
  else 0

/-- What an encoding keeps of CVU_STAT, the sticky flags, and what it sets (R251). -/
def encStat (r : Encoded) : Nat :=
  (if r.sat ≠ 0 then 4 else 0) + (if r.ovf then 2 else 0) + r.sat * 256 + r.escs.length * 16
    + (if r.nan || r.escs.any fun y => decide (y.2 = binary16.nan) then 8 else 0)

/-- A conversion with control word c starts on the inputs as they stand (R250); SMODE 3 or FMT 3 sets CFG_IGNORED (R251). -/
def Cvu.start (v : Cvu) (c : Nat) : Cvu :=
  let fmt := bits c 2 1
  if fmt = 3 ∨ bits c 11 10 = 3 then { v with stat := BitVec.ofNat 32 (v.stat.toNat ||| 0x80) }
  else
    let c := c - bits c 8 3 * 8
    let x := v.data.map BitVec.toNat
    let out : List Word × List Byte × List Word × Word × Word :=
      if bit c 0 then
        let y := decodeSForm fmt (v.blk.take (sFormBytes fmt))
        (y.map (BitVec.ofNat 32), v.blk, v.resid, 0x7FFFFFF7, if y.any fun a => (binary32.decode a).isNan then 8 else 0)
      else
        let r := encodeBlock fmt ⟨bits c 11 10, bits c 15 12, bit c 9, bits c 31 24, bits c 23 16⟩ x
        (v.data, r.sForm fmt ++ List.replicate (48 - sFormBytes fmt) 0, (residuals fmt x r).map (BitVec.ofNat 32), 0x86, BitVec.ofNat 32 (encStat r))
    { v with ctl := BitVec.ofNat 32 c, stat := BitVec.ofNat 32 (v.stat.toNat % 2 ^ 31 + 2 ^ 31), next := some out }

/-- Whether an offset lies in CVU_DATA, CVU_BLK or CVU_RESID. -/
def cvuHeld (o : Nat) : Bool :=
  (decide (0x100 ≤ o) && decide (o < 0x180)) || (decide (0x1A0 ≤ o) && decide (o < 0x1D0)) || (decide (0x200 ≤ o) && decide (o < 0x280))

/-- Whether an access stalls while a conversion runs: to CVU_DATA, CVU_BLK or CVU_RESID, or a write of CVU_CTL (R250). -/
def CvuOp.stalls : CvuOp → Bool
  | .store o _ => cvuHeld o || decide (o = 0x180)
  | .bytes _ _ => true
  | .load o n => cvuHeld o || cvuHeld (o + n - 1)

/-- An access performed, with what a load reads; a write of CVU_CTL starts a conversion. -/
def Cvu.perform (v : Cvu) : CvuOp → Cvu × Option Nat
  | .store o w => (if o = 0x180 then v.start w.toNat else v.store o w, none)
  | .bytes o l => (v.storeBytes o l, none)
  | .load o n => (v, some (leNat ((List.range n).map fun i => v.byte (o + i))))

/-- Stalled accesses proceed in order until one must stall; the values that loads read. -/
def Cvu.resume (v : Cvu) (vals : List Nat) : Nat → Cvu × List Nat
  | 0 => (v, vals)
  | n + 1 =>
    match v.stalled with
    | [] => (v, vals)
    | op :: r =>
      if v.next.isSome && op.stalls then (v, vals)
      else
        let p := ({ v with stalled := r } : Cvu).perform op
        Cvu.resume p.1 (vals ++ p.2.toList) n

/-- Core i accesses its conversion unit, while it runs: each access in order, behind those that stall (R249, R250). -/
def State.cvuAccess (s : State) (i : Nat) (ops : List CvuOp) : State :=
  if s.fbit (Reg.SEQ_CTL_RUN i) && !s.tileAbsent (i / 2) then
    let v := s.cvu i
    let p := ({ v with stalled := v.stalled ++ ops } : Cvu).resume [] (v.stalled.length + ops.length)
    (s.setCvu i p.1).emitAll (p.2.map .readValue)
  else s

/-- The stores of a command and the write of CVU_CTL that ends them. -/
def cvuOps (stores : List (BitVec 12 × Word)) (c : Nat) : List CvuOp :=
  (stores.map fun x => .store x.1.toNat x.2) ++ [.store 0x180 (BitVec.ofNat 32 c)]

/-- CVU_ENCODE (R250): the stores that set its inputs, then a write of CVU_CTL with DIR = 0. -/
def execCvuEncode (i : Fin 128) (stores : List (BitVec 12 × Word)) (ctl : BitVec 31) (s : State) : Host.Outcome State Fault Refusal :=
  .next (s.alive fun s => s.cvuAccess i (cvuOps stores (2 * ctl.toNat)))

/-- CVU_DECODE (R250): the stores that set its inputs, then a write of CVU_CTL with DIR = 1. -/
def execCvuDecode (i : Fin 128) (stores : List (BitVec 12 × Word)) (ctl : BitVec 31) (s : State) : Host.Outcome State Fault Refusal :=
  .next (s.alive fun s => s.cvuAccess i (cvuOps stores (2 * ctl.toNat + 1)))

/-- CVU_CONVERSION_END (R250): outputs and status are written, ESC_OVF is raised where its bit went from 0 to 1 (R251), and
stalled accesses proceed. -/
def execCvuConversionEnd (i : Fin 128) (s : State) : Host.Outcome State Fault Refusal :=
  .next (s.alive fun s =>
    let v := s.cvu i
    match v.next with
    | none => s
    | some (d, b, r, keep, set) =>
      let stat := (v.stat &&& keep &&& 0x7FFFFFFF) ||| set
      let rises := bit set.toNat 1 && !bit v.stat.toNat 1
      let p := ({ v with data := d, blk := b, resid := r, stat := stat, next := none } : Cvu).resume [] v.stalled.length
      ((s.setCvu i p.1).emitAll (p.2.map .readValue)).iff rises fun s => s.raise 13 3 i 0)

/-- A reset of core i (R251): the unit's registers at reset, a conversion abandoned, its data unpredictable. -/
def State.cvuReset (s : State) (i : Nat) : State :=
  (s.setCvu i { Cvu.init with data := s.freeVals 32 32, blk := (List.range 48).map (fun k => Config.freeValue 8 (s.free + 32 + k)),
                              resid := (List.range 32).map (fun k => Config.freeValue 32 (s.free + 80 + k)) }).drawnN 112

end Sys2Proof.Machine
end

