-- ==== Sys2Proof/Machine/Sync.lean ====
section
/-! DEFINITION. Sync objects (R352 to R360, R367), the resets of an owner (R358, R368), and starting and resetting a
sequencer core (R217, R482). -/

namespace Sys2Proof.Machine

/-! ### Objects and watches (R352 to R358) -/

/-- The OBJ of object i of owner o (R334). -/
def objOf (o i : Nat) : Nat := o * 256 + i

/-- Whether object i of owner o is ORPHANED; STATE 2 and 3 behave as ACTIVE (R367). -/
def State.orphaned (s : State) (o i : Nat) : Bool := decide (s.fget (Reg.SYNC_STATE_STATE o i) = 1)

/-- VALUE of an object. -/
def State.syncVal (s : State) (o i : Nat) : Nat := (s.rd (Reg.SYNC_VAL o i)).toNat

/-- Whether a watch with threshold v holds on a VALUE (R355). -/
def watchHolds (eq : Bool) (value v : Nat) : Bool :=
  if eq then decide (value = v) else decide ((value + 2 ^ 32 - v) % 2 ^ 32 < 2 ^ 31)

/-- WATCHERS of every object shown (R367). -/
def State.watchersShow (s : State) (o : Nat) : State :=
  let ix := ((List.range (watchesOf o)).filter fun w => s.fbit (Reg.WATCH_W0_VALID o w)).map fun w => s.fget (Reg.WATCH_W0_INDEX o w)
  forN (objsOf o) (fun i s => s.fset (Reg.SYNC_STATE_WATCHERS o i) (ix.filter (· = i)).length) s

/-- A notice of owner o's object i leaves (R357): KIND 0 FIRED, 1 ORPHAN, 2 REFUSED; an ORPHAN notice is counted (R358). -/
def State.sendNotice (s : State) (o i wqn kind thr : Nat) (eq : Bool) : State :=
  (s.send (.notice wqn s.now (objOf o i) s.devid kind (if kind = 0 then s.syncVal o i else 0) thr eq (ownerCoord s.devid o))).iff
    (decide (kind = 1)) fun s => s.count (Reg.SYNC_ORPHAN_CNT o) 1

/-- Watch w sends its notice and is removed. -/
def State.watchEnds (s : State) (o w kind : Nat) : State :=
  (s.sendNotice o (s.fget (Reg.WATCH_W0_INDEX o w)) (s.fget (Reg.WATCH_W0_WQN o w)) kind (s.rd (Reg.WATCH_W1 o w)).toNat
    (s.fbit (Reg.WATCH_W0_EQ o w))).foff (Reg.WATCH_W0_VALID o w)

/-- The watches that p selects are evaluated in table order; one that holds fires (R354, R355). -/
def State.evalWatches (s : State) (o : Nat) (p : Nat → Bool) : State :=
  (forN (watchesOf o) (fun w s =>
    let i := s.fget (Reg.WATCH_W0_INDEX o w)
    if s.fbit (Reg.WATCH_W0_VALID o w) && p i && watchHolds (s.fbit (Reg.WATCH_W0_EQ o w)) (s.syncVal o i) (s.rd (Reg.WATCH_W1 o w)).toNat then
      s.watchEnds o w 0
    else s) s).watchersShow o

/-! ### Operations (R353, R354) -/

/-- A SYNC_OP reaches the sync unit of owner o: refused where no owner or object is there, where a Cocoon resets it (R485), where the unit is FROZEN, else f. -/
def State.syncArrive (s : State) (o i src : Nat) (f : State → State) : State :=
  if !s.ownerThere o then (s.count Reg.MESH_BAD_DST_CNT 1).send (.status src 3 0 0 0)
  else if s.fbit Reg.INST_STATUS_COCOON && decide (o < 128) then s.send (.status src 3 0 0 0)
  else
    let s := s.iff (decide (o < 128)) fun s => s.wakeIsland (o / 2) 2
    if objsOf o ≤ i then s.send (.status src 3 0 0 0)
    else if s.fbit (Reg.SYNC_CTL_FROZEN o) then s.send (.status src 1 3 0 0)
    else f s

/-- A SIGNAL, SET or READ meets the object: refused when ORPHANED, else f, answered with the resulting VALUE (R354). -/
def State.syncValue (s : State) (o i src : Nat) (f : State → State) : State :=
  s.syncArrive o i src fun s =>
    if s.orphaned o i then (s.count (Reg.SYNC_NACK_CNT o) 1).send (.status src 1 2 0 0)
    else
      let s := f s
      s.send (.status src 0 0 0 (s.syncVal o i))

/-- VALUE set by operation op (1 SIGNAL, 2 SET), its last signaller recorded, its watches evaluated (R354, R367). -/
def State.syncPut (s : State) (o i src op v : Nat) : State :=
  (((((s.wrN (Reg.SYNC_VAL o i) v).fset (Reg.SYNC_STATE_LAST_SRC o i) src).fset (Reg.SYNC_LAST_LAST_OP o i) op).fset
    (Reg.SYNC_LAST_LAST_T o i) s.now).evalWatches o fun k => decide (k = i))

/-- SYNC_SIGNAL (R353, R354): VALUE := (VALUE + v) mod 2^32. -/
def execSyncSignal (dst : BitVec 22) (i : BitVec 8) (v : Word) (src : BitVec 30) (s : State) : Host.Outcome State Fault Refusal :=
  .next (s.alive fun s =>
    let o := s.dstOwner dst.toNat
    s.syncValue o i.toNat src.toNat fun s => s.syncPut o i.toNat src.toNat 1 (s.syncVal o i.toNat + v.toNat))

/-- SYNC_SET (R353, R354): VALUE := v. -/
def execSyncSet (dst : BitVec 22) (i : BitVec 8) (v : Word) (src : BitVec 30) (s : State) : Host.Outcome State Fault Refusal :=
  .next (s.alive fun s =>
    let o := s.dstOwner dst.toNat
    s.syncValue o i.toNat src.toNat fun s => s.syncPut o i.toNat src.toNat 2 v.toNat)

/-- SYNC_READ (R353, R354). -/
def execSyncRead (dst : BitVec 22) (i : BitVec 8) (src : BitVec 30) (s : State) : Host.Outcome State Fault Refusal :=
  .next (s.alive fun s => s.syncValue (s.dstOwner dst.toNat) i.toNat src.toNat fun s => s)

/-- A WATCH arrives (R355, R358): on an orphaned object it is answered ORPHAN; a full table answers REFUSED; else it is
registered and evaluated once. -/
def State.watch (s : State) (o i v wqn src : Nat) (eq : Bool) : State :=
  s.syncArrive o i src fun s =>
    if s.orphaned o i then s.sendNotice o i wqn 1 v eq
    else match (List.range (watchesOf o)).find? fun w => !s.fbit (Reg.WATCH_W0_VALID o w) with
      | none => s.sendNotice o i wqn 2 v eq
      | some w =>
        let s := ((((s.fon (Reg.WATCH_W0_VALID o w)).fflag (Reg.WATCH_W0_EQ o w) eq).fset (Reg.WATCH_W0_INDEX o w) i).fset
          (Reg.WATCH_W0_WQN o w) wqn).wrN (Reg.WATCH_W1 o w) v
        (if watchHolds eq (s.syncVal o i) v then s.watchEnds o w 0 else s).watchersShow o

/-- SYNC_WATCH_GE (R355). -/
def execSyncWatchGe (dst : BitVec 22) (i : BitVec 8) (v : Word) (wqn : BitVec 16) (src : BitVec 30) (s : State) : Host.Outcome State Fault Refusal :=
  .next (s.alive fun s => s.watch (s.dstOwner dst.toNat) i.toNat v.toNat wqn.toNat src.toNat false)

/-- SYNC_WATCH_EQ (R355). -/
def execSyncWatchEq (dst : BitVec 22) (i : BitVec 8) (v : Word) (wqn : BitVec 16) (src : BitVec 30) (s : State) : Host.Outcome State Fault Refusal :=
  .next (s.alive fun s => s.watch (s.dstOwner dst.toNat) i.toNat v.toNat wqn.toNat src.toNat true)

/-- SYNC_RESEND (R354): 100 ns after a FROZEN refusal the interface sends the operation again under its next tag. -/
def execSyncResend (s : State) : Host.Outcome State Fault Refusal :=
  .next (s.alive fun s =>
    match s.resends.find? fun x => decide (x.due ≤ s.time) with
    | some x =>
      (((s.resendTake x).onIface x.src fun y => { y with tag := (y.tag + 1) % 256 })).send
        (.sync x.dev x.obj x.op x.arg x.wqn (x.src + (s.iface x.src).tag * 2 ^ 22))
    | none => s)

/-- The data of a notice cell (R357). -/
def noticeBytes (time obj dev kind value thr : Nat) (eq : Bool) : List Byte :=
  leBytes 8 time ++ leBytes 2 obj ++ [BitVec.ofNat 8 dev, BitVec.ofNat 8 kind] ++ leBytes 4 value ++ leBytes 4 thr
    ++ [if eq then 1 else 0] ++ List.replicate 19 0

/-- SYNC_NOTICE (R309, R356): a notice arrives for queue q of the owner DST names, whose watch's reply cell is free again; it waits for FIFO room;
at a closed queue it is discarded. -/
def execSyncNotice (dst : BitVec 22) (q : Fin 16) (time : BitVec 64) (obj : BitVec 16) (dev : BitVec 3) (kind : Fin 3) (value thr : Word) (eq : Bool)
    (src : BitVec 22) (s : State) : Host.Outcome State Fault Refusal :=
  .next (s.alive fun s =>
    let o := s.dstOwner dst.toNat
    if !s.ownerThere o then s.count Reg.MESH_BAD_DST_CNT 1
    else (((s.replied (ownerCoord s.devid o) 1).iff (decide (o < 128)) fun s => s.wakeIsland (o / 2) 2).qDo o q fun s =>
      if !s.qOpen o q then s.count (Reg.Q_NOTICE_DROP_CNT o) 1
      else
        let c := noticeBytes time.toNat obj.toNat dev.toNat kind value.toNat thr.toNat eq
        let m : QMsg := ⟨1, 1, src.toNat, s.rankOf src.toNat, 0, false, [(c, false)], 0, true⟩
        (s.onQueue o q fun x => { x with notes := x.notes ++ [m] }).room o q .none).pump o)

/-! ### Control (R359, R360) -/

/-- ADOPT: every object ACTIVE with VALUE and LAST_OP 0 (R359). -/
def State.adopt (s : State) (o : Nat) : State :=
  forN (objsOf o) (fun i s => ((s.wr (Reg.SYNC_VAL o i) 0).foff (Reg.SYNC_STATE_STATE o i)).foff (Reg.SYNC_LAST_LAST_OP o i)) s

/-- SYNC_ADOPT (R359): a write of 1 to SYNC_CTL.ADOPT. -/
def execSyncAdopt (m : Master) (o : Fin 136) (s : State) : Host.Outcome State Fault Refusal :=
  .next (s.alive fun s => s.guarded m (Reg.SYNC_CTL o) fun s => if s.ownerThere o then s.adopt o else s)

/-- SYNC_FREEZE (R360). -/
def execSyncFreeze (m : Master) (o : Fin 136) (s : State) : Host.Outcome State Fault Refusal :=
  .next (s.alive fun s => s.guarded m (Reg.SYNC_CTL o) fun s => if s.ownerThere o then s.fon (Reg.SYNC_CTL_FROZEN o) else s)

/-- FROZEN := 0: every watch is evaluated in table order (R360). -/
def State.unfreeze (s : State) (o : Nat) : State :=
  if s.fbit (Reg.SYNC_CTL_FROZEN o) then (s.foff (Reg.SYNC_CTL_FROZEN o)).evalWatches o fun _ => true else s

/-- SYNC_UNFREEZE (R360). -/
def execSyncUnfreeze (m : Master) (o : Fin 136) (s : State) : Host.Outcome State Fault Refusal :=
  .next (s.alive fun s => s.guarded m (Reg.SYNC_CTL o) fun s => if s.ownerThere o then s.unfreeze o else s)

/-! ### Resets (R217, R344, R358, R368) -/

/-- The unit of an owner's faults (R603): a sequencer core, or the application complex's island. -/
def ownerUnit (o : Nat) : Nat × Nat := if o < 128 then (3, o) else (8, 99)

/-- A reset owner's objects become ORPHANED and its watches send ORPHAN notices in table order; STORM or more raise
ORPHAN_STORM (R358). -/
def State.orphanAll (s : State) (o : Nat) : State :=
  let ws := (List.range (watchesOf o)).filter fun w => s.fbit (Reg.WATCH_W0_VALID o w)
  let s := forN (objsOf o) (fun i s => s.fset (Reg.SYNC_STATE_STATE o i) 1) s
  let s := (forL ws (fun w s => s.watchEnds o w 1) s).watchersShow o
  let storm := s.fget (Reg.SYNC_CTL_STORM o)
  s.iff (decide (storm ≠ 0) && decide (storm ≤ ws.length)) fun s => s.raise 12 (ownerUnit o).1 (ownerUnit o).2 0

/-- A reset of owner o (R344, R347, R358, R368). -/
def State.ownerReset (s : State) (o : Nat) : State :=
  let s := s.queuesReset o
  if s.fbit (Reg.SYNC_CTL_FROZEN o) then s else s.orphanAll o

/-- A reset of sequencer core i (R217, R235, R251): held with RUN = 0; its stalled stores and its reservation are gone, frm is RMM. -/
def State.seqReset (s : State) (i : Nat) : State :=
  if s.tileAbsent (i / 2) then s
  else
    let s := ((s.foff (Reg.SEQ_CTL_RUN i)).foff (Reg.SEQ_STATUS_RUNNING i)).foff (Reg.SEQ_STATUS_WFI i)
    let s := s.onTile (i / 2) fun x => if i % 2 = 1 then { x with odd := { x.odd with stalled := [] } } else { x with even := { x.even with stalled := [] } }
    ((s.ownerReset i).cvuReset i).setSeq i { s.seq i with frm := 4, lr := none }

/-- SEQ_RESET (R217): a write of SEQ_CTL.RUN = 0. -/
def execSeqReset (m : Master) (i : Fin 128) (s : State) : Host.Outcome State Fault Refusal :=
  .next (s.alive fun s => s.guarded m (Reg.SEQ_CTL i) fun s => s.seqReset i)

/-- RUN := 1: the core starts in M mode at SEQ_RESET_PC with frm RMM (R217, R235); ignored while its broadcast receiver reads RECEIVING,
REJECTED or INCOMPLETE (R482). -/
def State.seqRun (s : State) (i : Nat) : State :=
  if s.tileAbsent (i / 2) || s.fbit (Reg.SEQ_CTL_RUN i) then s
  else
    let r := s.recvState (1024 + i)
    if r = 1 ∨ r = 3 ∨ r = 4 then s.ignored (Reg.SEQ_CTL i)
    else (((s.iff (decide (r = 2)) fun s => s.recvIdle (1024 + i)).fon (Reg.SEQ_CTL_RUN i)).fon (Reg.SEQ_STATUS_RUNNING i)).setSeq i
      ⟨BitVec.ofNat 64 (s.rd64 (Reg.SEQ_RESET_PC_LO i)), true, 4, none⟩

/-- SEQ_RUN (R217, R482). -/
def execSeqRun (m : Master) (i : Fin 128) (s : State) : Host.Outcome State Fault Refusal :=
  .next (s.alive fun s => s.guarded m (Reg.SEQ_CTL i) fun s => s.seqRun i)

end Sys2Proof.Machine
end

