-- ==== Sys2Proof/Machine/Faults.lean ====
section
/-! DEFINITION. The fault collector (R520 to R538, R598, R603), WINGBEAT (R532) and the watchdog (R536). -/

namespace Sys2Proof.Machine

/-! ### Reactions (R522, R523) -/

/-- Whether the collector carries out BLOCK_RESET and CHIP_RESET: after Instar 6, outside a Cocoon (R524). -/
def State.resetsAllowed (s : State) : Bool := s.inService && !s.fbit Reg.INST_STATUS_COCOON

/-- BLOCK_RESET of the event's unit (R523): only the sources whose row of R520 names a unit, and the action of the unit's kind. -/
def State.blockReset (s : State) (src kind index : Nat) : State :=
  if src = 1 then
    if kind = 1 then s.ncDisable index
    else if kind = 2 then s.tileReset index
    else if kind = 3 then s.seqReset index
    else s
  else if src = 5 ∧ kind = 5 then s.ddrAskRetrain index
  else if src = 14 ∧ kind = 2 then s.tileReset index
  else if src = 16 ∧ kind = 7 then (if index / 16 < 64 then s.dmaPause index else s.dmaDisable index)
  else s

/-- WINGBEAT freezes at its present level, and an active twin member takes the standby role (R447, R532). -/
def State.wbFreeze (s : State) : State := (s.fon Reg.FLT_STATUS_WB_FROZEN).wingbeatStopped

/-- The reactions in new (bits of R522) are carried out for the event of this unit. -/
def State.react (s : State) (new src kind index : Nat) : State :=
  let s := s.iff (bit new 0) fun s =>
    (s.emit (.irq (128 + s.fget Reg.FLT_CTL_CORE) 0 0 true)).iff (s.fbit Reg.FLT_CTL_HOST) fun s => s.emit (.msix 97)
  let s := s.iff (bit new 1) fun s => s.emit .nmi
  let s := s.iff (bit new 3) State.wbFreeze
  let s := s.iff (bit new 2 && s.resetsAllowed) fun s => s.blockReset src kind index
  s.iff (bit new 4 && s.resetsAllowed) fun s => s.copyPrev.chipReset.startUp

/-! ### Windows (R525) -/

/-- A source's window ends: WCOUNT returns to 0. -/
def State.windowClose (s : State) (src : Nat) : State :=
  ((s.foff (Reg.FLT_SRC_STAT_WOPEN src)).foff (Reg.FLT_SRC_STAT_WCOUNT src)).foff (Reg.FLT_SRC_STAT_TICKS_LEFT src)

/-- A window whose ticks have passed is closed. -/
def State.windowDue (s : State) (src : Nat) : State :=
  if s.fbit (Reg.FLT_SRC_STAT_WOPEN src) && decide (s.fget (Reg.FLT_SRC_STAT_TICKS_LEFT src) = 0) then s.windowClose src else s

/-- A slow tick passes for a source's window. -/
def State.windowTick (s : State) (src : Nat) : State :=
  let s := s.windowDue src
  if s.fbit (Reg.FLT_SRC_STAT_WOPEN src) then s.fset (Reg.FLT_SRC_STAT_TICKS_LEFT src) (s.fget (Reg.FLT_SRC_STAT_TICKS_LEFT src) - 1)
  else s

/-- The event enters its window, opening one if none is open; with WCOUNT at N the source is LASTING (N = 0: never; a W
of 0 behaves as 1). -/
def State.windowEvent (s : State) (src : Nat) : State :=
  let s := s.windowDue src
  let s := if s.fbit (Reg.FLT_SRC_STAT_WOPEN src) then s
    else (s.fon (Reg.FLT_SRC_STAT_WOPEN src)).fset (Reg.FLT_SRC_STAT_TICKS_LEFT src) (max 1 (s.fget (Reg.FLT_SRC_WIN_W src)))
  let s := s.fcount (Reg.FLT_SRC_STAT_WCOUNT src) 1
  let n := s.fget (Reg.FLT_SRC_WIN_N src)
  s.iff (decide (n ≠ 0) && decide (n ≤ s.fget (Reg.FLT_SRC_STAT_WCOUNT src))) fun s => s.fon (Reg.FLT_SRC_STAT_LASTING src)

/-! ### Events (R526 to R529) -/

/-- The collector accepts an event (R525 to R529): it is counted and enters its window; the lasting set applies to a
source that is LASTING; with no record pending a non-empty set opens one and is carried out, an empty set is only
counted; with one pending the event merges, and of its set BLOCK_RESET and the bits the merge newly sets are carried
out. -/
def State.accept (s : State) (src kind index : Nat) (detail : Word) : State :=
  let s := ((s.refreshCauses.count (Reg.FLT_SRC_CNT src) 1)).windowEvent src
  let lasting := s.fbit (Reg.FLT_SRC_STAT_LASTING src)
  let set := if lasting then s.fget (Reg.FLT_SRC_CFG_LREACT src) else s.fget (Reg.FLT_SRC_CFG_TREACT src)
  if s.fbit Reg.FLT_REC_STATUS_PENDING then
    let old := s.fget Reg.FLT_REC_STATUS_REACT
    let new := ((set ||| old) - old) ||| (set &&& 4)
    (s.recMerge src set lasting).react new src kind index
  else if set = 0 then s
  else (s.recOpen src kind index detail set lasting).react set src kind index

/-- FAULT_EVENT (R521, R525 to R529, R598). -/
def execFaultEvent (src : Fin 26) (kind : Fin 10) (index : BitVec 16) (detail : Word) (s : State) : Host.Outcome State Fault Refusal :=
  .next (s.alive fun s => s.accept src kind index.toNat detail)

/-- FAULT_WINDOW_CLOSE (R525): at the end of its W-th slow tick a window closes. -/
def execFaultWindowClose (src : Fin 26) (s : State) : Host.Outcome State Fault Refusal :=
  .next (s.alive fun s => s.windowDue src)

/-! ### Clearing (R530, R531) -/

/-- Whether a source in the record has a standing cause. -/
def State.standing (s : State) : Bool :=
  (List.range 26).any fun i => bit (s.rd Reg.FLT_REC_SOURCES).toNat i && s.fbit (Reg.FLT_SRC_STAT_CAUSE i)

/-- WINGBEAT is released unless a Cocoon runs; its next level change lies at least one half-period after (R532). -/
def State.wbRelease (s : State) : State :=
  if s.fbit Reg.INST_STATUS_COCOON then s
  else (s.foff Reg.FLT_STATUS_WB_FROZEN).onAon fun a => { a with wbRel := s.now }

/-- The record ends (R530). -/
def State.faultClear (s : State) : State :=
  let s := s.refreshCauses
  if s.standing then s.ignored Reg.FLT_REC_STATUS
  else
    let irq := bit (s.fget Reg.FLT_REC_STATUS_REACT) 0
    let s := (((s.foff Reg.FLT_REC_STATUS_PENDING).foff Reg.FLT_REC_STATUS_COUNT).foff Reg.FLT_REC_STATUS_REACT).foff Reg.FLT_REC_STATUS_LASTING
    ((s.wr Reg.FLT_REC_SOURCES 0).iff irq fun s => s.emit (.irq (128 + s.fget Reg.FLT_CTL_CORE) 0 0 false)).wbRelease

/-- FAULT_CLEAR (R530): ignored, with CFG_IGNORED, while a source of the record has a standing cause. -/
def execFaultClear (m : Master) (s : State) : Host.Outcome State Fault Refusal :=
  .next (s.alive fun s => s.guarded m Reg.FLT_REC_STATUS fun s => s.faultClear)

/-- A source's LASTING bit cleared (R531). -/
def State.lastingClear (s : State) (src : Nat) : State :=
  let s := s.refreshCauses
  if s.fbit (Reg.FLT_SRC_STAT_CAUSE src) then s.ignored Reg.FLT_STATUS else s.foff (Reg.FLT_SRC_STAT_LASTING src)

/-- LASTING_CLEAR (R531): ignored, with CFG_IGNORED, while CAUSE = 1. -/
def execLastingClear (m : Master) (src : Fin 26) (s : State) : Host.Outcome State Fault Refusal :=
  .next (s.alive fun s => s.guarded m (Reg.FLT_SRC_STAT src) fun s => s.lastingClear src)

/-- FLT_CTL.INJECT (R537): the source is raised once with unit 0 and detail 0; a reserved source is ignored. -/
def State.inject (s : State) (src : Nat) : State := if src < 26 then s.raise src 0 0 0 else s.ignored Reg.FLT_CTL

/-- FAULT_INJECT (R537): the write's INJ_SRC is taken in either case. -/
def execFaultInject (m : Master) (src : BitVec 5) (s : State) : Host.Outcome State Fault Refusal :=
  .next (s.alive fun s => s.guarded m Reg.FLT_CTL fun s => (s.fset Reg.FLT_CTL_INJ_SRC src.toNat).inject src.toNat)

/-! ### Watchdog (R536) -/

/-- A write of FLT_WDOG_KICK: 0xA5 restarts the period, another value is ignored and sets CFG_IGNORED. -/
def State.wdogKick (s : State) (key : Nat) : State :=
  if key = 0xA5 then s.onAon fun a => { a with wdogAt := s.time } else s.ignored Reg.FLT_WDOG_KICK

/-- WATCHDOG_KICK (R536). -/
def execWatchdogKick (m : Master) (key : BitVec 8) (s : State) : Host.Outcome State Fault Refusal :=
  .next (s.alive fun s => s.guarded m Reg.FLT_WDOG_KICK fun s => s.wdogKick key.toNat)

/-- WATCHDOG_EXPIRY (R536): a period without a kick raises WATCHDOG with unit AON, and the next period starts. -/
def execWatchdogExpiry (s : State) : Host.Outcome State Fault Refusal :=
  .next (s.alive fun s =>
    if s.fbit Reg.FLT_WDOG_EN && decide (s.aon.wdogAt + max 1 (s.fget Reg.FLT_WDOG_PERIOD_MS) * 1000000 ≤ s.time) then
      (s.onAon fun a => { a with wdogAt := s.time }).raise 23 9 0 0
    else s)

/-! ### WINGBEAT (R532) -/

/-- The half-period in force: WB_HALF ns in twin service, else 500 µs. -/
def State.wbHalf (s : State) : Nat := if s.fbit Reg.AON_TWIN_CTL_EN then max 1 (s.fget Reg.AON_TWIN_CFG_WB_HALF) else 500000

/-- WINGBEAT_TOGGLE (R446, R532): after Instar 6, unfrozen, WINGBEAT changes level at a point of its schedule (a multiple
of the half-period on the system counter) that lies at least one half-period after the last release. -/
def execWingbeatToggle (s : State) : Host.Outcome State Fault Refusal :=
  .next (s.alive fun s =>
    let p := s.now / s.wbHalf * s.wbHalf
    if s.inService && !s.fbit Reg.FLT_STATUS_WB_FROZEN && decide (s.aon.wbLast < p) && decide (s.aon.wbRel + s.wbHalf ≤ p) then
      (s.fflag Reg.FLT_STATUS_WB_LEVEL (!s.fbit Reg.FLT_STATUS_WB_LEVEL)).onAon fun a => { a with wbLast := p }
    else s)

/-! ### The slow tick (R29) and the voter (R497, R498) -/

/-- SLOW_TICK (R29): 1,000,000,000 counts of the system counter after the last one, every source's window counts one tick (R525) and sectors
may be stored again (R517). -/
def execSlowTick (s : State) : Host.Outcome State Fault Refusal :=
  .next (s.alive fun s =>
    if (s.now + 2 ^ 64 - s.aon.tickAt) % 2 ^ 64 < 1000000000 then s
    else
      let s := forN 26 (fun i s => s.windowTick i) s
      (s.onStore fun t => { t with storedNow := [] }).onAon fun a => { a with slowTicks := a.slowTicks + 1, tickAt := (a.tickAt + 1000000000) % 2 ^ 64 })

/-- Whether the word at o holds triplicated fields (R497). -/
def triplicated (o : Nat) : Bool :=
  inRegionSet o || (decide (0x6000100 ≤ o) && decide (o < 0x6000140)) || (decide (0x6004000 ≤ o) && decide (o < 0x6008000))
  || [Reg.PWR_HALF_OP 0, Reg.PWR_HALF_OP 1, Reg.AON_LIMITS, Reg.AON_ACCESS, Reg.INST_IMG_BASE_LO, Reg.INST_IMG_BASE_HI,
      Reg.SET_STATUS, Reg.TRU_STATUS, Reg.TRU_CTL].contains o

/-- Copy c of the word at o: the value the word has, unless an upset is named for the copy. -/
def State.voteCopy (s : State) (l : List (Nat × Nat × Word)) (o c : Nat) : Word :=
  match l.find? fun u => decide (u.1 = o) && decide (u.2.1 = c) with
  | some u => u.2.2
  | none => s.rd o

/-- VOTE_MISMATCH of one word (R498): the minority is rewritten with the bitwise majority, AON_VOTE_CNT counts, the first
address held is recorded, and the source is raised. -/
def State.voteWord (s : State) (l : List (Nat × Nat × Word)) (o : Nat) : State :=
  let a := s.voteCopy l o 0
  let b := s.voteCopy l o 1
  let c := s.voteCopy l o 2
  if !triplicated o || (a == b && b == c) then s
  else
    let s := (s.wr o ((a &&& b) ||| (a &&& c) ||| (b &&& c))).count Reg.AON_VOTE_CNT 1
    let s := if s.fbit Reg.AON_STATUS_VOTE then s else (s.fset Reg.AON_VOTE_ADDR_OFFSET o).fon Reg.AON_STATUS_VOTE
    s.raise 11 9 0 0

/-- VOTE_SCAN (R498): the voter compares the copies of every triplicated word. The command names the copies that were
upset since the last scan: offset, copy, the value the copy holds; every other copy holds the word's value. -/
def execVoteScan (upsets : List (BitVec 28 × Fin 3 × Word)) (s : State) : Host.Outcome State Fault Refusal :=
  .next (s.alive fun s =>
    let l := upsets.map fun u => (u.1.toNat, u.2.1.val, u.2.2)
    forL (l.map Prod.fst).eraseDups (fun o s => s.voteWord l o) s)

end Sys2Proof.Machine
end

