-- ==== Sys2Proof/Machine/Roost.lean ====
section
/-! DEFINITION. Roost, brown-out and islands switched off (R564 to R571). -/

namespace Sys2Proof.Machine

/-! ### The conditions of R564 -/

/-- A DMA channel in RUN, WAIT or PAUSING. -/
def State.dmaActive (s : State) (ch : Nat) : Bool := decide (s.dmaState ch = 1) || decide (s.dmaState ch = 2) || decide (s.dmaState ch = 3)

/-- Whether sequencer core i is in WFI, as the command says, or held with RUN = 0. -/
def State.seqIdle (s : State) (i : Nat) (wfi : Bool) : Bool := wfi || !s.fbit (Reg.SEQ_CTL_RUN i)

/-- The condition of tile t: engines idle, queues empty, no DMA channel active, both sequencer cores idle. -/
def State.tileIdle (s : State) (t : Nat) (wfi0 wfi1 : Bool) : Bool :=
  let x := s.tile t
  x.fetch.isEmpty && x.mma.isNone && x.drain.isNone && x.tset.isNone && x.fq.isEmpty && x.aq.isEmpty && x.dq.isEmpty
  && x.even.queue.isEmpty && x.odd.queue.isEmpty && x.even.stalled.isEmpty && x.odd.stalled.isEmpty
  && (List.range 4).all (fun c => !s.dmaActive (16 * t + c)) && s.seqIdle (2 * t) wfi0 && s.seqIdle (2 * t + 1) wfi1

/-- Whether tile t's island roosts or is off; an absent tile's counts as off. -/
def State.tileAsleep (s : State) (t : Nat) : Bool :=
  s.tileAbsent t || decide (s.islState t = 2) || decide (4 ≤ s.islState t)

/-- The condition of Exchange half h: its tiles sleep, no bulk channel runs. -/
def State.halfIdle (s : State) (h : Nat) : Bool :=
  (List.range 32).all (fun t => s.tileAsleep (32 * h + t)) && (List.range 16).all (fun c => !s.dmaActive (16 * (64 + h) + c))

/-- Whether the raw tap of stream i writes to DDR4 channel c: its ring, whole MiB, lies in the channel (R76, R409). -/
def State.tapTouches (s : State) (i c : Nat) : Bool :=
  let lo := s.rd64 (Reg.ING_RING_BASE_LO i)
  let n := s.fget (Reg.ING_RING_SIZE_MIB i) * 2 ^ 20
  let cc := s.ddrCap
  let m := s.fget Reg.DDR_ILV_MODE
  s.fbit (Reg.ING_CTL_EN i) && s.fbit (Reg.ING_CTL_TAP_EN i) && decide (0 < n) &&
    (if m = 2 then decide (lo / cc ≤ c) && decide (c ≤ (lo + n - 1) / cc)
     else if m = 1 then decide (lo / (4 * cc) ≤ c / 4) && decide (c / 4 ≤ (lo + n - 1) / (4 * cc))
     else true)

/-- The condition of DDR4 channel c: no request queued, no raw tap writes to it. -/
def State.chanIdle (s : State) (c : Nat) : Bool :=
  (s.ddr c).queue.isEmpty && (List.range 32).all fun i => !s.tapTouches i c

/-- The islands the batch's entries name (R569). -/
def chrIsland : Target → Option Nat
  | .win _ _ => none
  | .reg o =>
    if 0x7300000 ≤ o ∧ o < 0x7320000 then some (72 + (o - 0x7300000) / 0x10000) else regIsland o

/-- Whether an ARMED batch holds island i out of Roost (R569). -/
def State.armedHolds (s : State) (i : Nat) : Bool :=
  decide (s.chrState = 5) && s.chr.armed.any fun e => decide (chrIsland (chrTarget e.1) = some i)

/-- The condition of island i (R564). -/
def State.mayRoost (s : State) (i : Nat) (wfi0 wfi1 : Bool) : Bool :=
  islandCanRoost i && s.fbit (Reg.PWR_ISL_CTL_ROOST_EN i) && !s.armedHolds i &&
    (if i < 64 then s.tileIdle i wfi0 wfi1
     else if i < 74 then s.halfIdle (i - 72)
     else if i < 82 then s.chanIdle (i - 74)
     else !s.fbit Reg.TRU_STATUS_BUSY)

/-- The sequencer cores of tile t show whether they wait for an interrupt (R227). -/
def State.wfiShow (s : State) (t : Nat) (wfi0 wfi1 : Bool) : State :=
  let put (i : Nat) (w : Bool) (s : State) : State := s.fflag (Reg.SEQ_STATUS_WFI i) (w && s.fbit (Reg.SEQ_CTL_RUN i))
  if 64 ≤ t ∨ s.tileAbsent t = true then s else put (2 * t + 1) wfi1 (put (2 * t) wfi0 s)

/-- ROOST_ENTRY (R564 to R566): an island that has been idle for IDLE_US enters Roost. wfi0, wfi1: whether the tile's
sequencer cores are in WFI, which SEQ_STATUS shows; request: one arrives before the clock stops and the island abandons the entry. -/
def execRoostEntry (i : Fin 102) (request wfi0 wfi1 : Bool) (s : State) : Host.Outcome State Fault Refusal :=
  .next (s.alive fun s =>
    let s := s.wfiShow i wfi0 wfi1
    if s.islState i = 0 ∧ s.mayRoost i wfi0 wfi1 = true then
      (if request then s.count Reg.PWR_ROOST_ABORT_CNT 1
       else (s.fset (Reg.PWR_ISL_STAT_STATE i) 2).fcount (Reg.PWR_ISL_STAT_ROOSTS i) 1)
    else s)

/-- ROOST_WAKE (R567, R568): a roosting island meets a cause from 1 to 8 and begins to wake. -/
def execRoostWake (i : Fin 102) (cause : Fin 9) (s : State) : Host.Outcome State Fault Refusal :=
  .next (s.alive fun s => if cause = 0 then s else s.wakeIsland i cause)

/-- ISLAND_WAKE_WRITE (R567, R572): a write of 1 to WAKE. -/
def execIslandWakeWrite (m : Master) (i : Fin 102) (s : State) : Host.Outcome State Fault Refusal :=
  .next (s.alive fun s => s.guarded m (Reg.PWR_ISL_CTL i) fun s => s.wakeIsland i 6)

/-- WAKE_END (R567): the island's clock runs again. -/
def execWakeEnd (i : Fin 102) (s : State) : Host.Outcome State Fault Refusal :=
  .next (s.alive fun s => if s.islState i = 3 then s.foff (Reg.PWR_ISL_STAT_STATE i) else s)

/-! ### Brown-out (R570) -/

/-- A sequencer core held with RUN = 0. -/
def State.seqHold (s : State) (i : Nat) : State := (s.seqReset i).foff (Reg.SEQ_CTL_RUN i)

/-- The reset of an island that browned out (R570). -/
def State.brownReset (s : State) (i : Nat) : State :=
  if i < 64 then (((s.tileReset i).seqHold (2 * i)).seqHold (2 * i + 1)).seqMemOpen i
  else if i = 72 ∨ i = 73 then
    forN 16 (fun c s => s.dmaDisable (16 * (64 + (i - 72)) + c)) (s.sliceOpen (128 * (i - 72)) 128)
  else if 74 ≤ i ∧ i < 82 then
    (s.mopenSpan 0 0x40000000000 (.chan (s.fget Reg.DDR_ILV_MODE) s.ddrCap (i - 74))).ddrAskRetrain (i - 74)
  else
    let t := (s.foff Reg.TRU_STATUS_BUSY).drawnN 4368
    forN 4368 (fun k t => t.wr (Reg.TRU_REPORT k) (Config.freeValue 32 (s.free + k))) (t.onTrust fun x => { x with body := none })

/-- BROWNOUT (R570): a roosting island loses its retention voltage: it is reset and runs, BROWNOUT is raised and counted. -/
def execBrownout (i : Fin 102) (s : State) : Host.Outcome State Fault Refusal :=
  .next (s.alive fun s =>
    if s.islState i = 2 then
      (((s.brownReset i).foff (Reg.PWR_ISL_STAT_STATE i)).count Reg.PWR_BO_CNT 1).raise 21 8 i 0
    else s)

/-! ### Islands switched off (R571) -/

/-- Whether the unit of island i counts as disabled: none else may be switched off. The trust island counts as disabled
while it is not BUSY (log entry 69). -/
def State.islDisabled (s : State) (i : Nat) : Bool :=
  if 74 ≤ i ∧ i < 82 then !s.fbit (Reg.DDR_CTL_EN (i - 74))
  else if 82 ≤ i ∧ i < 86 then (List.range 8).all fun j => !s.fbit (Reg.ING_CTL_EN (8 * (i - 82) + j))
  else if 86 ≤ i ∧ i < 98 then !s.fbit (Reg.IBL_CTL_EN (i - 86))
  else decide (i = 101) && !s.fbit Reg.TRU_STATUS_BUSY

/-- Whether OFF exists for island i. -/
def islMayOff (i : Nat) : Bool := (decide (74 ≤ i) && decide (i < 98)) || decide (i = 101)

/-- A write of OFF (R571): a channel that loses its rail keeps no contents (log entry 69). -/
def State.islandSetOff (s : State) (i : Nat) (off : Bool) : State :=
  if !islMayOff i then (if off then s.ignored (Reg.PWR_ISL_CTL i) else s)
  else if s.fbit (Reg.PWR_ISL_CTL_OFF i) = off then s
  else if !s.islDisabled i then s.ignored (Reg.PWR_ISL_CTL i)
  else
    let s := (s.fflag (Reg.PWR_ISL_CTL_OFF i) off).fset (Reg.PWR_ISL_STAT_STATE i) (if off then 4 else 0)
    s.iff (off && decide (i < 82)) fun s =>
      (s.foff (Reg.DDR_STATUS_TRAINED (i - 74))).mopenSpan 0 0x40000000000 (.chan (s.fget Reg.DDR_ILV_MODE) s.ddrCap (i - 74))

/-- ISLAND_OFF (R571): a write of PWR_ISLi_CTL.OFF. -/
def execIslandOff (m : Master) (i : Fin 102) (off : Bool) (s : State) : Host.Outcome State Fault Refusal :=
  .next (s.alive fun s => s.guarded m (Reg.PWR_ISL_CTL i) fun s => s.islandSetOff i off)

end Sys2Proof.Machine
end

