-- ==== Sys2Proof/Machine/RegRules.lean ====
section
/-! DEFINITION. The field types (R8, R491): which blocks count as disabled, which fields are locked, what a write leaves in the
fields of a register; what a register reads as. -/

namespace Sys2Proof.Machine

/-! ### Owning blocks (R8 and the register rules of each chapter) -/

/-- An owner's registers at k of its block: its queues while closed, the multicast unit while not busy, its sync unit while
frozen, a slot while disarmed (R364 to R367). -/
def State.ownOff (s : State) (o k : Nat) : Bool :=
  if k < 0x200 then !s.fbit (Reg.Q_CFG_OPEN o ((k - 0x100) / 16))
  else if k < 0x300 then !s.fbit (Reg.Q_STATUS_MC_BUSY o)
  else if 0x700 ≤ k ∧ k < 0xB00 then !s.fbit (Reg.Q_COMB_ARMED o ((k - 0x700) / 16))
  else s.fbit (Reg.SYNC_CTL_FROZEN o)

/-- Whether the owning block of the RWD and RWS fields of the register at o counts as disabled. -/
def State.blockOff (s : State) (o : Nat) : Bool :=
  let i := o % 0x10000
  let b := o / 0x10000
  if o < 0x10000 then !s.fbit Reg.AON_TWIN_CTL_EN
  else if o < 0x50000 then true
  else if o < 0x60000 then (if 0x1000 ≤ i then !s.fbit (Reg.TMR_CTL_EN ((i - 0x1000) / 0x40)) else !s.stepOn)
  else if o < 0x70000 then (if i < 0x100 then s.halfOff ((i - 0x10) / 16) else s.islDisabled ((i - 0x100) / 8))
  else if o < 0x100000 then true
  else if o < 0x300000 then !s.fbit (Reg.ING_CTL_EN (b - 0x10))
  else if o < 0x5000000 then !s.fbit (Reg.NC_CTL_EN (b - 0x40))
  else if o < 0x5400000 then
    let t := b - 0x500
    if i < 0x8000 then
      (if 0x200 ≤ i ∧ i < 0x300 then !s.dmaActive (16 * t + (i - 0x200) / 0x40)
       else if 0x400 ≤ i ∧ i < 0x600 then (List.range 4).all fun c => !s.dmaActive (16 * t + c)
       else !s.fbit (Reg.TILE_CTL_EN t))
    else
      let q := 2 * t + (i - 0x8000) / 0x1000
      let k := i % 0x1000
      if 0x100 ≤ k ∧ k < 0xE00 then s.ownOff q k else !s.fbit (Reg.SEQ_CTL_RUN q)
  else if o < 0x6010000 then !s.fbit Reg.MESH_CTL_JOB
  else if o = Reg.DDR_ILV then (List.range 8).all fun c => !s.fbit (Reg.DDR_CTL_EN c)
  else if o < 0x7080000 then !s.fbit (Reg.DDR_CTL_EN (b - 0x700))
  else if o < 0x71C0000 then !s.fbit (Reg.IBL_CTL_EN (b - 0x710))
  else if o < 0x7210000 then !s.aon.pcieBusMaster && !s.aon.pcieMemEnable
  else if o < 0x7320000 then
    let h := b - 0x730
    if i < 0x400 then !s.dmaActive (16 * (64 + h) + i / 0x40) else (List.range 16).all fun c => !s.dmaActive (16 * (64 + h) + c)
  else if o < 0x7410000 then
    (if 0x1000 ≤ i then (List.range 8).all fun j => !s.fbit (Reg.ING_CTL_EN (8 * ((i - 0x1000) / 0x200) + j))
     else if i < 0x100 then (s.pllLanes (i / 4)).isEmpty
     else !s.fbit (Reg.JRX_LANE_CFG_EN ((i - 0x100) / 4)))
  else if o < 0x7580000 then s.ownOff (128 + (b - 0x750)) i
  else decide (s.stage ≤ 3)

/-- Whether the RWL fields of the register at o are locked (R493). -/
def State.locked (s : State) (o : Nat) : Bool :=
  if o = Reg.AON_LIMITS then s.fbit Reg.AON_LIMITS_LOCK
  else if o = Reg.AON_ACCESS then s.fbit Reg.AON_ACCESS_LOCK
  else if o = Reg.TRU_CTL then s.fbit Reg.TRU_CTL_DBG_LOCK
  else s.aon.imgLocked

/-- Whether bank b's coefficients are those of the active bank of an enabled stream (R65). -/
def State.coefBusy (s : State) (o b : Nat) : Bool :=
  let i := (o - 0x100000) / 0x10000
  s.fbit (Reg.ING_CTL_EN i) && decide (s.fget (Reg.ING_CHAN_BANK i) = b)

/-- Whether a Chrysalis entry may not name the field because its block is enabled (R502 RWD_ENABLED). -/
def State.rwdRefuses (s : State) (o : Nat) (f : FieldDef) : Bool :=
  match f.ty with
  | .rwd => !s.blockOff o
  | .coef b => s.coefBusy o b
  | _ => false

/-! ### Which registers are there -/

/-- The owner of the queue and sync registers a block's offset names. -/
def ownerAt (o : Nat) : Nat := if o < 0x7000000 then 2 * ((o - 0x5000000) / 0x10000) + (o % 0x10000 - 0x8000) / 0x1000 else 128 + (o - 0x7500000) / 0x10000

/-- Whether an owner has the object, slot or watch that a register at k of its block names (R334, R347). -/
def ownHas (o k : Nat) : Bool :=
  if 0x400 ≤ k ∧ k < 0x700 then decide ((k - 0x400) / 16 < objsOf o)
  else if 0x700 ≤ k ∧ k < 0xB00 then decide ((k - 0x700) / 16 < slotsOf o)
  else if 0xB00 ≤ k ∧ k < 0xE00 then decide ((k - 0xB00) / 8 < watchesOf o)
  else true

/-- The register at o, unless none is there: an address between registers, or in the block of an absent unit (R11, R478, R499). -/
def State.regThere (s : State) (o : Nat) : Option RegDef :=
  let k := o % 0x1000
  let own := (decide (0x5000000 ≤ o) && decide (o < 0x5400000) && decide (0x8000 ≤ o % 0x10000)) || (decide (0x7500000 ≤ o) && decide (o < 0x7580000))
  if s.regAbsent o then none
  else if own && decide (0x100 ≤ k) && decide (k < 0xE00) && !ownHas (ownerAt o) k then none
  else (regAt o).map Prod.fst

/-! ### Reading (R10, R11, R496) -/

/-- What a register shows that no store keeps: PCIE_RQ_SPACE, LOCKED in MODE 0 and 3, the system counter, SRC_STOP of a timer that runs
(R283, R417, R418, R424). -/
def State.live (s : State) (o : Nat) : Word :=
  if 0x7201100 ≤ o ∧ o < 0x7201180 then BitVec.ofNat 32 (s.rqSpace ((o - 0x7201100) / 4))
  else if o = Reg.TB_SYNC_STATUS ∧ s.fget Reg.TB_SYNC_CFG_MODE % 3 = 0 then wordSet (s.rd o) 31 31 1
  else if o = Reg.TB_CNT_LO then s.counter.extractLsb' 0 32
  else if o = Reg.TB_CNT_HI then s.counter.extractLsb' 32 32
  else if 0x51000 ≤ o ∧ o < 0x51400 ∧ o % 0x40 = 0xC then
    let k := (o - 0x51000) / 0x40
    wordSet (s.rd o) 27 27 (if s.fbit (Reg.TMR_CTL_EN k) && !s.timerFed k then 1 else 0)
  else if 0x78000 ≤ o ∧ o < 0x80000 then BitVec.ofNat 32 (s.stageRead (o - 0x78000))
  else s.rd o

/-- The low word of a 64-bit pair whose read latches the high word (R417, R438, R467). -/
def pairLow (o : Nat) : Bool :=
  decide (o = Reg.TB_CNT_LO) || decide (o = Reg.AON_TWIN_LAST_LO)
  || (decide (0x51000 ≤ o) && decide (o < 0x60000) && decide (0x10 ≤ o % 0x40) && decide (o % 0x40 < 0x38) && decide (o % 8 = 0))

/-- The high word that a read of its low word latched, while it has not been read. -/
def State.latched (s : State) (o : Nat) : Option Word := tabGet (fun _ => none) s.tb.pairs o

/-- What a read of the register at o finds: a high word as its low word's read latched it. -/
def State.shown (s : State) (o : Nat) : Word := (s.latched o).getD (s.live o)

/-- A register's bits by its fields: reserved bits are free (R10), a command field reads 0. -/
def readFields (w free : Word) : List FieldDef → Word
  | [] => w
  | f :: r =>
    readFields (match f.ty with
      | .rsv => wordSet w f.hi f.lo (wordGet free f.hi f.lo)
      | .cmd => wordSet w f.hi f.lo 0
      | _ => w) free r

/-- What a read by master m of the register at o returns: zero below its class, where no register is, and in a block a Cocoon
resets (R11, R485, R496). -/
def State.regRead (s : State) (m : Master) (o : Nat) : Word :=
  if (m = .pcie ∧ s.barOpen = false) ∨ (!reaches m o || s.cocoonHides m o || !s.mayAccess m o) = true then 0
  else match s.regThere o with
    | none => 0
    | some r => readFields (s.shown o) (s.freeVal 32) r.fields

/-- Whether a read by master m reaches a register at o. -/
def State.regReached (s : State) (m : Master) (o : Nat) : Bool :=
  !(decide (m = .pcie) && !s.barOpen) && reaches m o && !s.cocoonHides m o && s.mayAccess m o && (s.regThere o).isSome

/-- A read of 32 bits by master m: its value, and what it does: a low word's read latches the high word, whose next read takes it
(R417, R438, R467); the free bits of reserved fields are drawn. -/
def State.regLoad (s : State) (m : Master) (o : Nat) : State × Word :=
  if s.regReached m o then
    let w := s.regRead m o
    (if pairLow o then s.drawn.setPair (o + 4) (some (s.live (o + 4))) else s.drawn.setPair o none, w)
  else (s, 0)

/-! ### Writing field by field (R8, R491, R492) -/

/-- What a write of v leaves in a field that held the bits of old, and whether it was refused a change. -/
def State.fieldWrite (s : State) (o : Nat) (old v : Word) (f : FieldDef) : Nat × Bool :=
  let a := wordGet old f.hi f.lo
  let b := wordGet v f.hi f.lo
  let gated (ok : Bool) : Nat × Bool := if ok then (b, false) else (a, decide (a ≠ b))
  match f.ty with
  | .rsv => (a, false)
  | .ro => (a, false)
  | .rw => (b, false)
  | .cmd => (a, false)
  | .rwd => gated (s.blockOff o)
  | .rws => gated (s.blockOff o)
  | .w1c => (a - (a &&& b), false)
  | .rwl => gated (!s.locked o)
  | .coef k => gated (!s.coefBusy o k)
  | .islen => if islandCanRoost ((o - 0x60100) / 8) then (b, false) else (a, false)

/-- The word after a write of v over the fields, without those in held (their lowest bits), and whether any change was refused. -/
def State.wordWrite (s : State) (o : Nat) (old v : Word) (held : List Nat) : List FieldDef → Word × Bool
  | [] => (old, false)
  | f :: r =>
    let (w, no) := State.wordWrite s o old v held r
    if held.contains f.lo then (w, no)
    else
      let (x, bad) := s.fieldWrite o old v f
      (wordSet w f.hi f.lo x, no || bad)

/-- The fields of the register at o written with v, without those in held; CFG_IGNORED is set once when any was refused a
change (R491). -/
def State.fieldsWrite (s : State) (o : Nat) (v : Word) (held : List Nat) (fs : List FieldDef) : State :=
  let (w, no) := s.wordWrite o (s.rd o) v held fs
  let s := s.wr o w
  if no then s.ignored o else s

end Sys2Proof.Machine
end

