-- ==== Sys2Proof/Machine/Cocoon.lean ====
section
/-! DEFINITION. The Instar records (R469 to R473, R487), service (R473), recovery (R548), and the reset of the compute part by a
Cocoon (R483, R484). -/

namespace Sys2Proof.Machine

/-! ### Records (R472, R487) -/

/-- Record k at the end of Instar k: END, STATUS, CODE, COUNT, DETAIL1, DETAIL2. -/
def State.instarRecord (s : State) (k status code count d1 d2 : Nat) : State :=
  (((s.wr64 (Reg.INST_REC (8 * k + 2)) s.now).wrN (Reg.INST_REC (8 * k + 4)) (status * 2 ^ 24 + code * 2 ^ 16 + count % 65536)).wrN
    (Reg.INST_REC (8 * k + 5)) d1).wrN (Reg.INST_REC (8 * k + 6)) d2

/-- Instar k fails (R472): the device stays in it, STAGE begins to alternate (R471). -/
def State.instarFail (s : State) (k code count d1 d2 : Nat) : State :=
  (((s.instarRecord k 4 code count d1 d2).fon Reg.INST_STATUS_FAILED).fset Reg.INST_STATUS_CODE code).onAon fun a => { a with stageAt := s.time, stageInv := false }

/-- Instar k ends, with loss where code is not 0, and Instar next begins. -/
def State.instarDone (s : State) (k next code count d1 d2 : Nat) : State :=
  (s.instarRecord k (if code = 0 then 2 else 3) code count d1 d2).instarBegin next

/-- Whether Instar k is in progress and has not failed. -/
def State.inInstar (s : State) (k : Nat) : Bool := decide (s.stage = k) && !s.fbit Reg.INST_STATUS_FAILED && !s.inService

/-- KiB of n bytes. -/
def kib (n : Nat) : Nat := (n + 1023) / 1024

/-! ### Service (R473) -/

/-- A write of SERVICE: Instar 7 is entered from Instar 6 once that has ended, and left for it; elsewhere the write is ignored. -/
def State.serviceWrite (s : State) (on : Bool) : State :=
  if !s.inService || decide (s.stage < 6) then s.ignored Reg.INST_CTL
  else if on && decide (s.stage = 6) then
    ((((s.fon Reg.INST_CTL_SERVICE).fset Reg.INST_STATUS_STAGE 7).wr64 (Reg.INST_REC 56) s.now).wr64 (Reg.INST_REC 58) 0).wrN (Reg.INST_REC 60) (2 ^ 24)
  else if !on && decide (s.stage = 7) then
    ((s.foff Reg.INST_CTL_SERVICE).fset Reg.INST_STATUS_STAGE 6).instarRecord 7 2 0 0 0 0
  else s

/-! ### Recovery (R548) -/

/-- A delivered image is checked in full; it passes and Instar 2 begins, or the ROM waits for the next delivery. src: 1 twin, 2
host. -/
def State.delivered (s : State) (img : List Byte) (src : Nat) : State :=
  let code := s.fget Reg.INST_STATUS_CODE
  let s := s.onTrust fun t => { t with stagingOwner := none }
  if s.imageCode img ≠ 0 then s
  else
    let s := (s.bootMeasure img).onTrust fun t => { t with image := img }
    ((((s.foff Reg.TRU_STATUS_RECOVERY).fset Reg.TRU_STATUS_SRC src).foff Reg.INST_STATUS_FAILED).foff Reg.INST_STATUS_CODE).instarDone
      1 2 code (kib img.length) src 0

/-- RCV_GO := 1: the first TRU_RCV_LEN bytes of the staging area are delivered, unless the twin owns it. -/
def State.rcvGo (s : State) : State :=
  if !s.fbit Reg.TRU_STATUS_RECOVERY then s
  else if s.trust.stagingOwner = some false then s.ignored Reg.TRU_CTL
  else s.delivered (s.trust.staging.read 0 (min (6 * 2 ^ 20) (s.fget Reg.TRU_RCV_LEN_LEN))) 2

/-! ### The Cocoon (R483, R484) -/

/-- Encoder state as at enable (R67); the tap and the alignment stay. -/
def State.encoderClear (s : State) (i : Nat) : State :=
  s.onStream i fun t => { t with
    integI := [], integQ := [], combI := [], combQ := [], phase := 0, frame := [], frames := [], spent := 0, defq := [],
    chans := (List.range 256).filterMap fun c =>
      let w := s.fget (Reg.ING_CH_W1_INIT i c)
      if w = 0 then none else some (c, { Channel.init with r := signed 16 w }) }

/-- Whether a register of a block that a Cocoon resets takes its reset value: all but the queue and sync registers of the
sequencer cores, which R343 and R358 govern. -/
def cocoonClears (o : Nat) : Bool :=
  cocoonReset o && !(decide (0x5000000 ≤ o) && decide (o < 0x5400000) && decide (0x8000 ≤ o % 0x10000)
    && decide (0x100 ≤ o % 0x1000) && decide (o % 0x1000 < 0xE00))

/-- The registers and the units of the compute part at their reset values. -/
def State.unitsClear (s : State) : State :=
  { s with csr := s.csr.filter fun e => !cocoonClears e.1, cores := [], tiles := [], seqs := [], cvus := [], dmas := [], bc := [] }

/-- The units of the compute part reset: neuron cores, tiles, sequencer cores, DMA channels, broadcast receivers. -/
def State.computeReset (s : State) : State :=
  let s := forN 128 (fun i s => s.seqReset i) s
  let s := forN 1056 (fun ch s => if s.dmaThere ch then s.dmaDisable ch else s) s
  let s := forN 64 (fun t s => s.tileReset t) s
  let s := s.unitsClear.badKeep fun a => decide (a < 0x80000000000)
  ((s.mopen 0x80000000000 0x30000000).mopen (winAddr 0 0) 0x80000000).mopen 0x83000000000 0x102000000

/-- The streams' part: encoders, append units, bridges, context sources. -/
def State.streamsReset (s : State) : State :=
  forN 32 (fun i s =>
    let s := ((s.encoderClear i).bridgeReset i).wr (Reg.ING_BR_FRAME i) 0
    let s := (s.onTok i fun t => { t with ctx := [] }).ctxShow i
    (s.kvZero i 0).kvZero i 1) s

/-- A tile's or an Exchange half's island runs again. -/
def State.islandsRun (s : State) : State :=
  forL (List.range 64 ++ [72, 73]) (fun i s => if s.islState i = 2 ∨ s.islState i = 3 then s.foff (Reg.PWR_ISL_STAT_STATE i) else s) s

/-- The bytes of the DDR4 image copy (R484). -/
def State.imageCopy (s : State) : List Byte := s.mread (s.rd64 Reg.INST_IMG_BASE_LO) s.trust.image.length

/-- A batch staged, validated or armed is discarded (R500). -/
def State.chrCocoon (s : State) : State := if s.chrState = 0 then s else ((s.chrFail 0x0C 0 0).setChr 0)

/-- COCOON := 1 (R447, R448, R452, R483, R484, R545): ignored below Instar 6, while one runs, and without an image copy. -/
def State.cocoonStart (s : State) : State :=
  if s.fbit Reg.INST_STATUS_COCOON || decide (s.stage < 6) || !s.aon.imgCopied || s.fbit Reg.INST_STATUS_FAILED then s.ignored Reg.INST_CTL
  else
    let s := (s.fon Reg.INST_STATUS_COCOON).foff Reg.INST_STATUS_READY
    let s := (s.chrCocoon.fon Reg.FLT_STATUS_WB_FROZEN).foff Reg.INST_CTL_SERVICE
    let s := ((s.iff (!s.standby) fun s => s.takeStandby 7).swapDrop.foff Reg.AON_TWIN_STATUS_ARMED).onAon fun a => { a with wbSeen := false }
    let s := s.extend 3 (sha256 s.imageCopy)
    (s.stepStop.computeReset.streamsReset.islandsRun).instarBegin 2

end Sys2Proof.Machine
end

