-- ==== Sys2Proof/Machine/Chrysalis.lean ====
section
/-! DEFINITION. The Chrysalis: batches, validation, arming, abort (R500 to R509). The commit instant is in Commit.lean. -/

namespace Sys2Proof.Machine

/-! ### Owner (R500) -/

/-- Whether m owns the batch. -/
def State.chrOwner (s : State) (m : Master) : Bool := decide (s.fget Reg.CHR_STATUS_OWNER = ownerCode m)

/-- The level of the batch's owner (R494): AON is secure, JTAG by DBG_OPEN, PCIe by HOST_PRIV, an application core privileged. -/
def State.ownerLevel (s : State) : Nat :=
  let o := s.fget Reg.CHR_STATUS_OWNER
  if o = 0 then 2 else if o = 1 then s.level .jtag else if o = 2 then s.level .pcie else 1

/-! ### Commands -/

/-- OPEN (R500): a batch in STAGING owned by the writer, NENT 0, CHR_FAIL 0. -/
def State.chrOpen (s : State) (m : Master) : State :=
  s.takenIf Reg.CHR_CMD (decide (s.chrState = 0) || decide (s.chrState = 4) || decide (s.chrState = 6)) fun s =>
    ((((s.setChr 1).fset Reg.CHR_STATUS_OWNER (ownerCode m)).wr Reg.CHR_NENT 0).wr Reg.CHR_FAIL 0).wrN Reg.CHR_LEAD 2000

/-- CHR_OPEN (R500). -/
def execChrOpen (m : Master) (s : State) : Host.Outcome State Fault Refusal :=
  .next (s.alive fun s => s.guarded m Reg.CHR_CMD fun s => s.chrOpen m)

/-- Whether entry and NENT writes are taken: from the owner, in STAGING, FAILED or VALID (R501). -/
def State.chrTakes (s : State) (m : Master) : Bool :=
  s.chrOwner m && (decide (s.chrState = 1) || decide (s.chrState = 3) || decide (s.chrState = 4))

/-- A write of an entry word or NENT: taken, a VALID batch returns to STAGING; not taken, CFG_IGNORED is set only when it
would have changed the word (R491, R501). -/
def State.chrWrite (s : State) (m : Master) (o : Nat) (v : Word) : State :=
  if s.chrTakes m then (if s.chrState = 3 then (s.wr o v).setChr 1 else s.wr o v)
  else if s.rd o = v then s
  else s.ignored o

/-- CHR_ENTRY_WRITE (R501): word 0 ADDR, 1 VALUE, 2 MASK of entry i. -/
def execChrEntryWrite (m : Master) (i : Fin 4096) (word : Fin 3) (value : Word) (s : State) : Host.Outcome State Fault Refusal :=
  .next (s.alive fun s => s.guarded m (Reg.CHR_ENT_ADDR i + 4 * word) fun s => s.chrWrite m (Reg.CHR_ENT_ADDR i + 4 * word) value)

/-- CHR_NENT_WRITE (R501): CHR_LEAD shows 2,000 + 25·NENT (R504, R509). -/
def State.chrNent (s : State) (m : Master) (v : Word) : State :=
  let t := s.chrWrite m Reg.CHR_NENT v
  t.wrN Reg.CHR_LEAD (2000 + 25 * t.nent)

/-- CHR_NENT_WRITE (R501). -/
def execChrNentWrite (m : Master) (count : BitVec 13) (s : State) : Host.Outcome State Fault Refusal :=
  .next (s.alive fun s => s.guarded m Reg.CHR_NENT fun s => s.chrNent m (count.zeroExtend 32))

/-- VALIDATE (R500, R502, R509): from STAGING or FAILED to VALIDATING, CHR_FAIL cleared. -/
def State.chrValidate (s : State) (m : Master) : State :=
  s.takenIf Reg.CHR_CMD (s.chrOwner m && (decide (s.chrState = 1) || decide (s.chrState = 4))) fun s => (s.setChr 2).wr Reg.CHR_FAIL 0

/-- CHR_VALIDATE (R500, R502). -/
def execChrValidate (m : Master) (s : State) : Host.Outcome State Fault Refusal :=
  .next (s.alive fun s => s.guarded m Reg.CHR_CMD fun s => s.chrValidate m)

/-! ### Validation (R502) -/

/-- Whether MASK covers a field. -/
def covers (m : Word) (f : FieldDef) : Bool := decide (wordGet m f.hi f.lo ≠ 0)

/-- Codes NO_REG to PRIV for one entry, against the configuration s as the earlier entries leave it: 0 passed. -/
def State.entryCode (s : State) (level : Nat) (e : Word × Word × Word) : Nat :=
  match chrTarget e.1 with
  | .win n o => if s.coreAbsent n || decide (0x16FFFF < o) then 1 else 0
  | .reg o =>
    match s.regThere o with
    | none => 1
    | some r =>
      if r.fields.any (fun f => covers e.2.2 f && (match f.ty with | .rsv => true | .ro => true | .w1c => true | .cmd => true | _ => false)) then 2
      else if r.fields.any (fun f => covers e.2.2 f && s.rwdRefuses o f) then 3
      else if r.fields.any (fun f => covers e.2.2 f && decide (f.ty = .rwl) && s.locked o) then 4
      else if level < regClass o then 5
      else 0

/-- The entries are checked in index order, each against what the earlier ones leave: the first that fails with its code,
or the configuration after the last (R502). -/
def State.checkEntries (s : State) (level : Nat) : Nat → List (Word × Word × Word) → State × Option (Nat × Nat)
  | _, [] => (s, none)
  | i, e :: r =>
    if s.entryCode level e = 0 then State.checkEntries (s.applyEntry e) level (i + 1) r
    else (s, some (i, s.entryCode level e))

/-- The entries of the batch. -/
def State.chrEntries (s : State) : List (Word × Word × Word) := (List.range s.nent).map s.chrEntry

/-- The index of the last entry for which p holds. -/
def lastIndex (p : (Word × Word × Word) → Bool) (l : List (Word × Word × Word)) : Option Nat :=
  ((List.range l.length).filter fun i => p (l.getD i (0, 0, 0))).getLast?

/-- A timer's enable check (R424): fed from a clock at INT = 1. The manual gives the failure no code: 256 stands for one. -/
def State.timerCode (s : State) (k : Nat) : Nat :=
  let src := s.fget (Reg.TMR_CTL_SRC k)
  if (src = 1 ∨ src = 2) ∧ s.fget (Reg.TMR_PRE_INTM1 k) = 0 then 256 else 0

/-- The twin enable's check (R446), without a code either. -/
def State.twinCode (s : State) : Nat :=
  let h := s.fget Reg.AON_TWIN_CFG_WB_HALF
  let m := s.fget Reg.AON_TWIN_CFG_MISS_NS
  if 8 ≤ h ∧ h ≤ 164 ∧ h + 16 ≤ m ∧ m ≤ 180 then 0 else 256

/-- The check of an enable against the target's broadcast receiver (R482), without a code. -/
def State.recvCode (s : State) (r : Nat) : Nat := if s.recvBlocks r then 256 else 0

/-- The check of a queue's OPEN (R339, R399): its ring lies in the slices. Without a code. -/
def State.queueCode (s : State) (o q : Nat) : Nat := if s.ringOk o q (s.fget (Reg.Q_CFG_RING_LEN o q)) then 0 else 256

/-- The index of the last entry that turns an enable bit on as the entries are applied in order (R502). -/
def State.lastRaise (s : State) (f : FieldRef) : Nat → Option Nat → List (Word × Word × Word) → Option Nat
  | _, b, [] => b
  | i, b, e :: r =>
    let t := s.applyEntry e
    State.lastRaise t f (i + 1) (if !s.fbit f && t.fbit f then some i else b) r

/-- The enables a batch may make, each with its block's own check on the configuration t the batch leaves: 0 passed, else
the block's code (R502 BLOCK). -/
def blockChecks : List (FieldRef × (State → Nat)) :=
  ((List.range 32).map fun i => (Reg.ING_CTL_EN i, fun t => t.streamCode i))
  ++ ((List.range 8).map fun c => (Reg.DDR_CTL_EN c, fun t => t.ddrCode c))
  ++ ((List.range 16).map fun k => (Reg.TMR_CTL_EN k, fun t => t.timerCode k))
  ++ [(Reg.AON_TWIN_CTL_EN, fun t => t.twinCode)]
  ++ ((List.range 1024).map fun n => (Reg.NC_CTL_EN n, fun t => t.recvCode n))
  ++ ((List.range 128).map fun i => (Reg.SEQ_CTL_RUN i, fun t => t.recvCode (1024 + i)))
  ++ ((List.range 136).flatMap fun o => (List.range 16).map fun q => (Reg.Q_CFG_OPEN o q, fun t => t.queueCode o q))

/-- The BLOCK failures of a batch with entries l that leaves configuration t: entry index and INFO. -/
def State.blockFails (s t : State) (l : List (Word × Word × Word)) : List (Nat × Nat) :=
  (blockChecks.filterMap fun c =>
    if !t.fbit c.1 then none
    else (s.lastRaise c.1 0 none l).bind fun i => if c.2 t ≠ 0 then some (i, c.2 t) else none)
  ++ ((List.range 32).filterMap fun i =>
    if t.fbit (Reg.ING_CTL_EN i) && t.fbit (Reg.ING_CTL_TAP_EN i) && t.tapOver i then
      (s.lastRaise (Reg.ING_CTL_TAP_EN i) 0 none l).map fun j => (j, 4)
    else none)
  ++ ((List.range 2).filterMap fun h =>
    match lastIndex (fun e => decide (chrTarget e.1 = .reg (Reg.PWR_HALF_OP h))) l with
    | some i => if t.opBad (t.rd (Reg.PWR_HALF_OP h)) ≠ 0 then some (i, t.opBad (t.rd (Reg.PWR_HALF_OP h))) else none
    | none => none)

/-- The lowest entry of a list of failures. -/
def lowest : List (Nat × Nat) → Option (Nat × Nat)
  | [] => none
  | a :: r =>
    match lowest r with
    | some b => if b.1 < a.1 then some b else some a
    | none => some a

/-- Whether the batch enables the step generator, or the neuron core an entry names (R154). -/
def State.enablesSteps (s : State) (l : List (Word × Word × Word)) : Bool := (s.lastRaise Reg.TB_STEP_CTL_EN 0 none l).isSome
def State.enablesCore (s : State) (l : List (Word × Word × Word)) (e : Word × Word × Word) : Bool :=
  match chrTarget e.1 with
  | .reg o => decide (0x400000 ≤ o) && decide (o < 0x4400000) && decide (o % 0x10000 = 0)
      && (s.lastRaise (Reg.NC_CTL_EN ((o - 0x400000) / 0x10000)) 0 none l).isSome
  | .win _ _ => false

/-- CHR_VALIDATION_END (R502): EMPTY; NO_REG to PRIV entry by entry; BLOCK on what the batch leaves; ADMIT when the batch
changes what R154 lists. The first failure makes the batch FAILED, none makes it VALID. -/
def State.chrValidated (s : State) : State :=
  let l := s.chrEntries
  if s.nent = 0 ∨ 4096 < s.nent then s.chrFailed 0x0D 0 0
  else
    match s.checkEntries s.ownerLevel 0 l with
    | (_, some (i, c)) => s.chrFailed c 0 i
    | (t, none) =>
      match lowest (s.blockFails t l) with
      | some (i, info) => (s.chrFailed 0x06 (if info < 256 then info else (s.freeVal 8).toNat) i).drawn
      | none =>
        if s.enablesSteps l || l.any (fun e => s.enablesCore l e || admissionChange s t e) then
          let a := admission s t (s.enablesSteps l)
          let s := s.showAdmission 1 a
          if a.code = 0 then s.setChr 3 else s.chrFailed 0x07 0 0
        else s.setChr 3

/-- CHR_VALIDATION_END (R502). -/
def execChrValidationEnd (s : State) : Host.Outcome State Fault Refusal :=
  .next (s.alive fun s => if s.chrState = 2 then s.chrValidated else s)

/-! ### Commit and abort (R504, R507, R569) -/

/-- Whether a batch names a neuron-core window, an NC_ register or a TB_STEP_ register (R504). -/
def stepBound (l : List (Word × Word × Word)) : Bool :=
  l.any fun e =>
    match chrTarget e.1 with
    | .win _ _ => true
    | .reg o => (decide (0x400000 ≤ o) && decide (o < 0x4400000)) || (decide (0x50100 ≤ o) && decide (o < 0x50114))

/-- The instant of a COMMIT: the number of the boundary for STEP, the counter value for TIME; or the code of its refusal. -/
def State.chrInstant (s : State) : Nat ⊕ Nat :=
  let lead := 2000 + 25 * s.nent
  let at_ := s.rd64 Reg.CHR_AT_LO
  if s.fbit Reg.CHR_WHEN_MODE then
    if stepBound s.chrEntries then .inr 0x08
    else if at_ < s.now + lead then .inr 0x09
    else .inl at_
  else if !s.stepOn then .inr 0x0A
  else
    let d := (at_ % 2 ^ 32 + 2 ^ 32 - s.stepCnt) % 2 ^ 32
    if d = 0 ∨ 2 ^ 31 ≤ d then .inr 0x09
    else
      let u := s.tb.nextU + d - 1
      if s.stepNominal u < s.now + lead then .inr 0x09 else .inl u

/-- CHR_COMMIT (R504, R505, R569): a refused COMMIT leaves the batch VALID with its code in CHR_FAIL; an accepted one arms
it, sends every entry to its shadow register, and wakes the roosting islands its entries name. -/
def State.chrCommit (s : State) : State :=
  match s.chrInstant with
  | .inr code => s.chrFail code 0 0
  | .inl t =>
    let s := s.setChr 5
    let s := s.onChr fun c => { c with at_ := t, armed := s.chrEntries }
    forL (s.chrEntries.filterMap fun e => chrIsland (chrTarget e.1)).eraseDups (fun i s => s.wakeIsland i 7) s

/-- COMMIT by the owner in VALID. -/
def State.chrCommitOp (s : State) (m : Master) : State := s.takenIf Reg.CHR_CMD (s.chrOwner m && decide (s.chrState = 3)) fun s => s.chrCommit

/-- CHR_COMMIT (R504). -/
def execChrCommit (m : Master) (s : State) : Host.Outcome State Fault Refusal :=
  .next (s.alive fun s => s.guarded m Reg.CHR_CMD fun s => s.chrCommitOp m)

/-- Whether an ABORT reaches an ARMED batch at least 1,000 ns before its instant (R507). -/
def State.abortInTime (s : State) : Bool :=
  if s.fbit Reg.CHR_WHEN_MODE then decide (s.now + 1000 ≤ s.chr.at_)
  else decide (s.now + 1000 ≤ s.stepNominal s.chr.at_)

/-- ABORT (R500, R507): the owner's in STAGING, VALID, FAILED and ARMED, a secure master's in every state; an ARMED batch only in
time. -/
def State.chrAbort (s : State) (m : Master) : State :=
  let st := s.chrState
  let may := decide (s.level m = 2) || (s.chrOwner m && (decide (st = 1) || decide (st = 3) || decide (st = 4) || decide (st = 5)))
  s.takenIf Reg.CHR_CMD (may && (decide (st ≠ 5) || s.abortInTime)) fun s => s.setChr 0

/-- CHR_ABORT (R500, R507). -/
def execChrAbort (m : Master) (s : State) : Host.Outcome State Fault Refusal :=
  .next (s.alive fun s => s.guarded m Reg.CHR_CMD fun s => s.chrAbort m)

/-- A write of CHR_CMD by its OP (R509). -/
def State.chrOp (s : State) (m : Master) (op : Nat) : State :=
  if op = 1 then s.chrOpen m
  else if op = 2 then s.chrValidate m
  else if op = 3 then s.chrCommitOp m
  else if op = 4 then s.chrAbort m
  else s.ignored Reg.CHR_CMD

end Sys2Proof.Machine
end

