-- ==== Sys2Proof/Machine/RegWrite.lean ====
section
/-! DEFINITION. A write of a register: field by field by type (R8, R491), with what the register tables give the fields
that act; the register write command (R8 to R12). -/

namespace Sys2Proof.Machine

/-! ### Enables and other fields that act when written (the register rules of each chapter) -/

/-- A field whose write acts: its place, and what the old and the new bit do. -/
abbrev Act := FieldRef × (Bool → Bool → State → State)

/-- A bit that acts when it changes. -/
def onChange (f : Bool → State → State) : Bool → Bool → State → State := fun old new s => if old = new then s else f new s

/-- ARM of TB_SYNC_CFG (R419): a write of 1 is ignored while the step generator or a timer runs; a write of 0 disarms. -/
def State.syncArm (s : State) (on : Bool) : State :=
  if on then s.takenIf Reg.TB_SYNC_CFG (!s.stepOn && !s.anyTimer) fun s => s.fon Reg.TB_SYNC_CFG_ARM
  else (s.foff Reg.TB_SYNC_CFG_ARM).onTb fun b => { b with loadAt := none }

/-- TILE_CTL.EN (R223): 1 enables, 0 performs a tile reset. -/
def State.tileEn (s : State) (t : Nat) (on : Bool) : State :=
  if on then (s.fon (Reg.TILE_CTL_EN t)).tileShow t else s.tileReset t

/-- MESH_CTL.JOB (R313, R314, R326): entries on a link that is UP return from their alternates when no job runs, and a link that
retrained by itself during the last one carries mesh cells again. -/
def State.jobWrite (s : State) (on : Bool) : State :=
  let s := s.fflag Reg.MESH_CTL_JOB on
  (forN 12 (fun k s => s.onLink k fun x => { x with bench := false }) s).altUpdate

/-- DDR_CTL.EN := 0: the channel serves no more; requests it held are answered as by a disabled channel (R411, R414). -/
def State.ddrDisable (s : State) (c : Nat) : State :=
  ((((s.foff (Reg.DDR_CTL_EN c)).foff (Reg.DDR_STATUS_TRAINED c)).foff (Reg.DDR_STATUS_RETRAINING c)).foff (Reg.DDR_STATUS_WAITING c)).ddrDrain c

/-- The fields of the register at o that act, in the order in which they act. A write of ING_CTL that sets EN and TAP_EN runs EN's checks
with the TAP_EN before the write, then judges TAP_EN (R86; DESIGN CHOICE, log entry 77). -/
def actsAt (o : Nat) : List Act :=
  let i := o % 0x10000
  let b := o / 0x10000
  if o = Reg.AON_TWIN_CTL then [(Reg.AON_TWIN_CTL_EN, onChange fun on s => if on then s.twinEnable else (s.foff Reg.AON_TWIN_CTL_EN).digestStop)]
  else if o = Reg.INST_CTL then [(Reg.INST_CTL_SERVICE, onChange fun on s => s.serviceWrite on)]
  else if o = Reg.FLT_WDOG then
    [(Reg.FLT_WDOG_EN, onChange fun on s => (s.fflag Reg.FLT_WDOG_EN on).iff on fun s => s.onAon fun a => { a with wdogAt := s.time })]
  else if o = Reg.TB_SYNC_CFG then [(Reg.TB_SYNC_CFG_ARM, onChange fun on s => s.syncArm on)]
  else if o = Reg.TB_STEP_CTL then [(Reg.TB_STEP_CTL_EN, fun old on s => if on then s.stepEnable else if old then s.stepStop else s)]
  else if b = 5 then
    let k := (i - 0x1000) / 0x40
    if 0x1000 ≤ i ∧ i % 0x40 = 0 then [(Reg.TMR_CTL_EN k, fun _ on s => if on then s.timerEnable k else s.timerReset k)] else []
  else if b = 6 then
    let k := (i - 0x100) / 8
    if 0x100 ≤ i ∧ i % 8 = 0 then [(Reg.PWR_ISL_CTL_OFF k, onChange fun on s => s.islandSetOff k on)] else []
  else if 0x10 ≤ b ∧ b < 0x30 then
    let k := b - 0x10
    if i = 0 then
      [(Reg.ING_CTL_EN k, onChange fun on s => if on then s.streamEnable k else s.streamDisable k),
       (Reg.ING_CTL_TAP_EN k, onChange fun on s => s.tapEnable k on)]
    else if i = 0xA010 then [(Reg.ING_BR_CTL_EN k, onChange fun on s => (s.fflag (Reg.ING_BR_CTL_EN k) on).bridgeReset k)]
    else if i = 0xA024 then
      [(Reg.ING_CTX_CTL_EN k, onChange fun on s => (s.fflag (Reg.ING_CTX_CTL_EN k) on).iff on fun s => s.joinEnds 2 k)]
    else if i = 0xA040 ∨ i = 0xA060 then
      let u := (i - 0xA040) / 0x20
      [(Reg.ING_KV_CFG_EN k u, onChange fun on s => if on then s.fon (Reg.ING_KV_CFG_EN k u) else s.kvDisable k u)]
    else []
  else if 0x40 ≤ b ∧ b < 0x440 then
    (if i = 0 then [(Reg.NC_CTL_EN (b - 0x40), onChange fun on s => if on then s.coreEnable (b - 0x40) else s.ncDisable (b - 0x40))] else [])
  else if 0x500 ≤ b ∧ b < 0x540 then
    let t := b - 0x500
    if i = 0 then [(Reg.TILE_CTL_EN t, fun old on s => if old && on then s else s.tileEn t on)]
    else if i = 0x8000 ∨ i = 0x9000 then
      let q := 2 * t + (i - 0x8000) / 0x1000
      [(Reg.SEQ_CTL_RUN q, fun _ on s => if on then s.seqRun q else s.seqReset q)]
    else if i = 0x8300 ∨ i = 0x9300 then
      let q := 2 * t + (i - 0x8000) / 0x1000
      [(Reg.SYNC_CTL_FROZEN q, onChange fun on s => if on then s.fon (Reg.SYNC_CTL_FROZEN q) else s.unfreeze q)]
    else []
  else if o = Reg.MESH_CTL then [(Reg.MESH_CTL_JOB, onChange fun on s => s.jobWrite on)]
  else if 0x700 ≤ b ∧ b < 0x708 then
    let c := b - 0x700
    if i = 0 then [(Reg.DDR_CTL_EN c, onChange fun on s => if on then s.ddrEnable c else s.ddrDisable c)] else []
  else if 0x710 ≤ b ∧ b < 0x71C then
    let k := b - 0x710
    if i = 0 then [(Reg.IBL_CTL_EN k, onChange fun on s => if on then s.linkEnable k else s.linkDisable k)] else []
  else if 0x750 ≤ b ∧ b < 0x758 ∧ i = 0x300 then
    let q := 128 + (b - 0x750)
    [(Reg.SYNC_CTL_FROZEN q, onChange fun on s => if on then s.fon (Reg.SYNC_CTL_FROZEN q) else s.unfreeze q)]
  else []

/-- The acting fields take a written value in order. -/
def State.runActs (s : State) (v : Word) : List Act → State
  | [] => s
  | a :: r => State.runActs (a.2 (s.fbit a.1) (decide (wordGet v a.1.hi a.1.lo ≠ 0)) s) v r

/-! ### Command fields -/

/-- The writes of 1 to the register at o that command something, beside its other fields (the register rules of each
chapter). Whether the twin is ARMED is what the partner says: a write of SWAP takes that from a free value. -/
def State.commands (s : State) (m : Master) (o : Nat) (v : Word) : State :=
  let i := o % 0x10000
  let b := o / 0x10000
  let on (k : Nat) : Bool := bit v.toNat k
  if o = Reg.CHR_CMD then s.chrOp m (wordGet v 31 28)
  else if o = Reg.AON_TWIN_CTL then s.iff (on 30) fun s => s.drawn.swapRequest (decide (s.freeVal 1 = 1))
  else if o = Reg.INST_CTL then s.iff (on 30) fun s => s.cocoonStart
  else if o = Reg.FLT_REC_STATUS then s.iff (on 30) fun s => s.faultClear
  else if o = Reg.FLT_CTL then s.iff (on 31) fun s => s.inject (wordGet v 4 0)
  else if o = Reg.FLT_WDOG_KICK then s.wdogKick (wordGet v 7 0)
  else if b = 6 then s.iff (decide (0x100 ≤ i) && decide (i % 8 = 0) && on 29) fun s => s.wakeIsland ((i - 0x100) / 8) 6
  else if 0x10 ≤ b ∧ b < 0x30 then
    let k := b - 0x10
    if i = 0xA028 then s.onTok k fun t => { t with ctxLo := v }
    else if i = 0xA02C then s.ctxPush k v
    else if i = 0xA050 ∨ i = 0xA070 then s.kvOp k ((i - 0xA050) / 0x20) (wordGet v 31 28) (wordGet v 7 0)
    else s
  else if 0x40 ≤ b ∧ b < 0x440 then s.iff (decide (i = 0x380) && on 28) fun s => s.recvIdle (b - 0x40)
  else if 0x500 ≤ b ∧ b < 0x540 ∧ 0x8000 ≤ i then
    let q := 2 * (b - 0x500) + (i - 0x8000) / 0x1000
    if i % 0x1000 = 0xF40 then s.iff (on 28) fun s => s.recvIdle (1024 + q)
    else if i % 0x1000 = 0x300 then s.iff (on 30) fun s => s.adopt q
    else s
  else if 0x700 ≤ b ∧ b < 0x708 then s.iff (decide (i = 0) && on 30) fun s => s.ddrRetrainWrite (b - 0x700)
  else if 0x710 ≤ b ∧ b < 0x71C then s.iff (decide (i = 0) && on 17) fun s => s.linkRetrainRequest (b - 0x710)
  else if 0x7201000 ≤ o ∧ o < 0x7201100 then
    let k := (o - 0x7201000) / 8
    if o % 8 = 0 then s.onTok k fun t => { t with postLo := v } else s.rqPost k ((s.tok k).postLo.toNat + v.toNat * 2 ^ 32)
  else if 0x750 ≤ b ∧ b < 0x758 ∧ i = 0x300 then s.iff (on 30) fun s => s.adopt (128 + (b - 0x750))
  else s

/-! ### Registers that take a write as a whole -/

/-- A write in the settings block: SET_CMD and the buffer are ignored while BUSY (R515); OP of SET_CMD (R518). The flash's answer to
an XSPI read is not the register's to say: its bytes are free. -/
def State.setWrite (s : State) (m : Master) (o : Nat) (v : Word) (fs : List FieldDef) : State :=
  if (o = Reg.SET_CMD ∨ 0x31000 ≤ o) ∧ s.setBusy = true then s.ignored o
  else
    let s := s.fieldsWrite o v [] fs
    let k := wordGet v 9 0
    if o ≠ Reg.SET_CMD then s
    else match wordGet v 31 28 with
      | 1 => if s.level m < sectorLevel k then s.setResult 3 k else s.setLoad k
      | 2 => if s.level m < sectorLevel k then s.setResult 3 k else s.setStore k
      | 3 => (s.drawnN 4096).xspi (s.freeVals 8 4096)
      | _ => s.ignored o

/-- A write of TRU_CTL: by a secure master its fields and commands; through R548 only RCV_GO, through R550 only DBG_GO. -/
def State.truWrite (s : State) (m : Master) (v : Word) (fs : List FieldDef) : State :=
  let on (k : Nat) : Bool := bit v.toNat k
  if s.level m = 2 then
    let s := s.fieldsWrite Reg.TRU_CTL v [] fs
    let s := s.iff (on 30) State.attestSign
    let s := s.iff (on 21) fun s => s.measureExtend (wordGet v 20 18)
    (s.iff (on 16) State.rcvGo).iff (on 15) State.debugUnlock
  else if m = .pcie then s.iff (on 16) State.rcvGo
  else s.iff (on 15) State.debugUnlock

/-- INST_SUB_REQ (R479): while a request waits a write is ignored; else the fields are taken and GO = 1 makes the request. -/
def State.subWrite (s : State) (v : Word) (fs : List FieldDef) : State :=
  if s.aon.subPend.isSome then s.ignored Reg.INST_SUB_REQ
  else (s.fieldsWrite Reg.INST_SUB_REQ v [] fs).iff (bit v.toNat 31) fun s =>
    s.substitute (bit v.toNat 30) (wordGet v 29 29) (wordGet v 28 25) (wordGet v 24 19)

/-- PWR_HALFh_OP written directly (R558): a changed value is taken only while the half counts as disabled, and when it is good. -/
def State.halfWrite (s : State) (h : Nat) (v : Word) (fs : List FieldDef) : State :=
  let (w, _) := s.wordWrite (Reg.PWR_HALF_OP h) (s.rd (Reg.PWR_HALF_OP h)) v [] fs
  if fs.all fun f => decide (f.ty = .rsv) || decide (wordGet v f.hi f.lo = wordGet (s.rd (Reg.PWR_HALF_OP h)) f.hi f.lo) then s
  else s.takenIf (Reg.PWR_HALF_OP h) (s.halfOff h && decide (s.opBad v = 0)) fun s => (s.wr (Reg.PWR_HALF_OP h) w).opPointChange h

/-- JRX_SYSREF (R84): a MODE of 2 or 3 leaves MODE and sets CFG_IGNORED. -/
def State.sysrefWrite (s : State) (v : Word) (fs : List FieldDef) : State :=
  if wordGet v 1 0 < 2 then s.fieldsWrite Reg.JRX_SYSREF v [] fs
  else (s.fieldsWrite Reg.JRX_SYSREF v [0] fs).ignored Reg.JRX_SYSREF

/-- xDMA_CTL (R383, R384, R387, R390): IE and bit 28, then bit 30, START where bit 30 is 0 (log entry 78). -/
def State.dmaCtlWrite (s : State) (ch : Nat) (v : Word) : State :=
  s.dmaDo ch fun s =>
    if bit v.toNat 31 && !bit v.toNat 30 then s.dmaRun ch (bit v.toNat 29) (bit v.toNat 28)
    else
      let s := (s.fflag (dmaIe ch) (bit v.toNat 29)).fflag (dmaSel ch) (bit v.toNat 28)
      if bit v.toNat 30 then s.dmaBit30 ch
      else if dmaTile ch then s.dmaResume ch
      else s

/-- Q_CFG (R339, R343, R364): IE and, of a closed queue, RING_LEN; then OPEN. -/
def State.qCfgWrite (s : State) (o q : Nat) (v : Word) (fs : List FieldDef) : State :=
  s.qDo o q fun s =>
    let s := s.fieldsWrite (Reg.Q_CFG o q) v [31] fs
    if bit v.toNat 31 then s.openQueue o q else s.closeQueue o q

/-- Q_COMB (R347, R366): a disarmed slot's fields; then ARMED. -/
def State.qCombWrite (s : State) (o i : Nat) (v : Word) (fs : List FieldDef) : State :=
  let s := s.fieldsWrite (Reg.Q_COMB o i) v [31] fs
  let q := s.fget (Reg.Q_COMB_QUEUE o i)
  s.qDo o q fun s => (if bit v.toNat 31 then s.arm o i else s.disarm o i).room o q .none

/-- The DMA channel whose register lies at o. -/
def dmaChanAt (o : Nat) : Option Nat :=
  let i := o % 0x10000
  if 0x5000000 ≤ o ∧ o < 0x5400000 ∧ 0x200 ≤ i ∧ i < 0x300 then some (16 * ((o - 0x5000000) / 0x10000) + (i - 0x200) / 0x40)
  else if 0x7300000 ≤ o ∧ o < 0x7320000 ∧ i < 0x400 then some (16 * (64 + (o - 0x7300000) / 0x10000) + i / 0x40)
  else none

/-- The owner of queues whose register lies at o, with the offset in its block. -/
def ownAt (o : Nat) : Option (Nat × Nat) :=
  let k := o % 0x1000
  if ((0x5000000 ≤ o ∧ o < 0x5400000 ∧ 0x8000 ≤ o % 0x10000) ∨ (0x7500000 ≤ o ∧ o < 0x7580000)) ∧ 0x100 ≤ k ∧ k < 0xE00 then some (ownerAt o, k)
  else none

/-! ### One write of 32 bits -/

/-- The fields by type, then those that act, then commands; a timer's and a channel's interrupt lines follow. -/
def State.fieldWrites (s : State) (m : Master) (o : Nat) (v : Word) (fs : List FieldDef) : State :=
  let acts := actsAt o
  let put (s : State) : State := s.fieldsWrite o v (acts.map fun a => a.1.lo) fs
  let s := if o / 0x10000 = 5 ∧ 0x1000 ≤ o % 0x10000 then s.timerIrq ((o % 0x10000 - 0x1000) / 0x40) put
    else match dmaChanAt o with
      | some ch => s.dmaDo ch put
      | none => put s
  (s.runActs v acts).commands m o v

/-- A write of v into the register r at o: registers that take a write as a whole first. A TILE_NUM_CTL of SMODE 3 is ignored (R254). -/
def State.wordIn (s : State) (m : Master) (o : Nat) (v : Word) (r : RegDef) : State :=
  let fs := r.fields
  let i := o % 0x10000
  if o = Reg.CHR_NENT then s.chrNent m v
  else if 0x24000 ≤ o ∧ o < 0x30000 then s.chrWrite m o v
  else if 0x30000 ≤ o ∧ o < 0x40000 then s.setWrite m o v fs
  else if o = Reg.INST_SUB_REQ then s.subWrite v fs
  else if o = Reg.PWR_HALF_OP 0 then s.halfWrite 0 v fs
  else if o = Reg.PWR_HALF_OP 1 then s.halfWrite 1 v fs
  else if o = Reg.TRU_CTL then s.truWrite m v fs
  else if 0x78000 ≤ o ∧ o < 0x80000 then s.stageWrite m (o - 0x78000) v
  else if 0x40100 ≤ o ∧ o < 0x402A0 ∧ o % 16 = 8 then
    let src := (o - 0x40100) / 16
    (s.fieldsWrite o v [(Reg.FLT_SRC_STAT_LASTING src).lo] fs).iff (wordGet v (Reg.FLT_SRC_STAT_LASTING src).hi (Reg.FLT_SRC_STAT_LASTING src).lo = 1)
      fun s => s.lastingClear src
  else if o / 0x10000 = 5 ∧ 0x1000 ≤ i ∧ i % 0x40 = 0x1C then s.timerCmpHi ((i - 0x1000) / 0x40) v
  else if o / 0x10000 = 5 ∧ 0x1000 ≤ i ∧ i % 0x40 = 0x24 then s.timerPerHi ((i - 0x1000) / 0x40) v
  else if 0x7400000 ≤ o ∧ o < 0x7400020 then s.pllWrite (i / 4) (wordGet v 15 0)
  else if o = Reg.JRX_SYSREF then s.sysrefWrite v fs
  else match dmaChanAt o with
    | some ch => if o = dmaCtl ch then s.dmaCtlWrite ch v else s.fieldWrites m o v fs
    | none =>
      match ownAt o with
      | some (q, k) =>
        if k < 0x200 ∧ k % 16 = 0 then s.qCfgWrite q ((k - 0x100) / 16) v fs
        else if 0x700 ≤ k ∧ k < 0xB00 ∧ k % 16 = 0 then s.qCombWrite q ((k - 0x700) / 16) v fs
        else s.fieldWrites m o v fs
      | none =>
        if 0x5000000 ≤ o ∧ o < 0x5400000 ∧ i < 0x200 then
          let t := (o - 0x5000000) / 0x10000
          if 0x40 ≤ i ∧ i < 0x60 then (s.boundWrite t ((i - 0x40) / 4) (bit v.toNat 31) (wordGet v 15 0)).tileShow t
          else if i = 0xA0 then s.takenIf o (decide (wordGet v 11 10 ≠ 3)) fun s => s.fieldsWrite o v [] fs
          else if i = 4 then
            let s := s.fieldsWrite o v [28, 29] fs
            (s.iff (bit v.toNat 28) fun s => s.haltClear t false).iff (bit v.toNat 29) fun s => s.haltClear t true
          else (s.fieldWrites m o v fs).tileShow t
        else s.fieldWrites m o v fs

/-- What follows a write at o that found the device as old: R386 for a paused channel, R418 and R421 for MODE, R432 for SRC, R314 for the
route table, the lane locks (a stream that runs on one of the lanes runs on; DESIGN CHOICE, log entry 102), the WATCHERS counts, the fault line's core, a machine timer set ahead. -/
def State.afterWrite (old s : State) (o : Nat) : State :=
  let i := o % 0x10000
  if o = Reg.TB_SYNC_CFG then
    s.iff (decide (s.fget Reg.TB_SYNC_CFG_MODE ≠ old.fget Reg.TB_SYNC_CFG_MODE)) fun s =>
      (s.foff Reg.TB_SYNC_STATUS_LOCKED).onTb fun b => { b with good := 0, bad := 0 }
  else if 0x50040 ≤ o ∧ o < 0x50080 then
    let p := (o - 0x50040) / 4
    s.iff (decide (s.pinSrc p ≠ old.pinSrc p)) fun s => (s.setLevel p false).setPin p PinSt.init
  else if o = Reg.FLT_CTL then
    let c := s.fget Reg.FLT_CTL_CORE
    s.iff (decide (c ≠ old.fget Reg.FLT_CTL_CORE) && bit (s.fget Reg.FLT_REC_STATUS_REACT) 0) fun s =>
      (s.emit (.irq (128 + old.fget Reg.FLT_CTL_CORE) 0 0 false)).emit (.irq (128 + c) 0 0 true)
  else if 0x7400100 ≤ o ∧ o < 0x7400200 then
    let l := (i - 0x100) / 4
    s.iff (decide (s.fbit (Reg.JRX_LANE_CFG_EN l) ≠ old.fbit (Reg.JRX_LANE_CFG_EN l))) fun s =>
      (s.foff (Reg.JRX_LANE_STAT_BLOCK_LOCK l)).foff (Reg.JRX_LANE_STAT_EMB_LOCK l)
  else if 0x6000000 ≤ o ∧ o < 0x6010000 then s.iff (decide (s.rd o ≠ old.rd o)) State.altUpdate
  else match dmaChanAt o with
    | some ch =>
      let k := o - dmaCtl ch
      s.iff (decide (old.dmaState ch = 4) && (decide (k = 0x10) || decide (k = 0x14) || decide (0x20 ≤ k))) fun s => s.dmaUnwatch ch
    | none =>
      match ownAt o with
      | some (q, k) => s.iff (decide (0x400 ≤ k)) fun s => s.watchersShow q
      | none =>
        if 0x5000000 ≤ o ∧ o < 0x5400000 ∧ (i % 0x1000 = 0x10 ∨ i % 0x1000 = 0x14) ∧ 0x8000 ≤ i then
          let q := 2 * ((o - 0x5000000) / 0x10000) + (i - 0x8000) / 0x1000
          s.iff (decide (old.rd64 (Reg.SEQ_MTIMECMP_LO q) ≤ s.now) && decide (s.now < s.rd64 (Reg.SEQ_MTIMECMP_LO q)))
            fun s => s.emit (.irq q 3 0 false)
        else s

/-- A write by master m of v at o: where no register is, nothing changes (R11). -/
def State.regWrite (s : State) (m : Master) (o : Nat) (v : Word) : State :=
  s.guarded m o fun s =>
    match s.regThere o with
    | none => s
    | some r => s.afterWrite (s.wordIn m o v r) o

/-! ### REGISTER_WRITE (R8 to R12, R490 to R497) -/

/-- The writes of 32 bits that an access makes: one of 4 bytes, two of 8, lower first, where naturally aligned; none else (R11). -/
def accessWrites (o size : Nat) (v : BitVec 64) : List (Nat × Word) :=
  if size = 4 ∧ o % 4 = 0 then [(o, v.extractLsb' 0 32)]
  else if size = 8 ∧ o % 8 = 0 then [(o, v.extractLsb' 0 32), (o + 4, v.extractLsb' 32 32)]
  else []

/-- Whether a write by m at o reaches a register that has reserved bits. -/
def State.meetsReserved (s : State) (m : Master) (o : Nat) : Bool :=
  !(decide (m = .pcie) && !s.barOpen) && reaches m o && !s.cocoonHides m o && !s.regOff o && s.mayAccess m o
  && (match s.regThere o with
    | some r => r.fields.any fun f => decide (f.ty = .rsv)
    | none => false)

/-- A host write to BAR2 (R282, R287): bits 31 and 30 of RQ_STATUS of stream i clear OVF and NACK; DOORBELL sends a doorbell wake.
Others change nothing. -/
def State.bar2Write (s : State) (o : Nat) (v : Word) : State :=
  let i := o / 0x2000
  let k := o % 0x2000
  if 32 ≤ i then s
  else if k = 0x20 then s.onTok i fun t => { t with ovf := t.ovf && !bit v.toNat 31, nack := t.nack && !bit v.toNat 30 }
  else if k = 0x200 then s.wakeSend i 1 s.now 0 0 0 0 0 v.toNat
  else s

/-- REGISTER_WRITE (R8, R11, R491, R496): an access of size bytes at offset off of CSR space, or with bar2 the host's at offset off
of BAR2. rsvKept says that the reserved bits were written back as last read (R10). -/
def execRegisterWrite (m : Master) (off : BitVec 28) (size : BitVec 4) (value : BitVec 64) (rsvKept bar2 : Bool) (s : State) :
    Host.Outcome State Fault Refusal :=
  let l := accessWrites off.toNat size.toNat value
  if s.down then .next s
  else if bar2 then .next (s.iff (decide (m = .pcie)) fun s => s.bar fun s => l.foldl (fun t w => t.bar2Write w.1 w.2) s)
  else if !rsvKept && l.any (fun w => s.meetsReserved m w.1) then .fault .reservedBits
  else .next (l.foldl (fun t w => t.regWrite m w.1 w.2) s)

end Sys2Proof.Machine
end

