-- ==== Sys2Proof/Machine/Commit.lean ====
section
/-! DEFINITION. The commit instant of a Chrysalis batch (R502, R505, R506). -/

namespace Sys2Proof.Machine

/-- Whether a bit that acts does so at once in both directions: it enables no block (FROZEN, OFF, SERVICE, ARM). -/
def actsAtOnce (o : Nat) : Bool :=
  decide (o = Reg.INST_CTL) || decide (o = Reg.TB_SYNC_CFG) || decide (o / 0x10000 = 6) || ((ownAt o).isSome)

/-- The bit set as a batch enables: the step generator starts without the check of a direct write, which the batch passed at
VALIDATE (R136, R154). -/
def State.actOn (s : State) (a : Act) : State := if a.1 = Reg.TB_STEP_CTL_EN then s.stepStart else a.2 false true s

/-- A word that an entry leaves in the register at o, without the bits that act (R505): registers that take a write as a
whole do so (R84, R210, R254, R339, R347, R384, R429, R431, R559). -/
def State.entryPut (s : State) (o : Nat) (w m : Word) : State :=
  let i := o % 0x10000
  let on (k : Nat) : Bool := bit w.toNat k
  if o = Reg.PWR_HALF_OP 0 then (s.wr o w).opPointChange 0
  else if o = Reg.PWR_HALF_OP 1 then (s.wr o w).opPointChange 1
  else if 0x78000 ≤ o ∧ o < 0x80000 then s.stageWrite .aon (o - 0x78000) w
  else if o / 0x10000 = 5 ∧ 0x1000 ≤ i then
    let k := (i - 0x1000) / 0x40
    if i % 0x40 = 0x1C then s.timerCmpHi k w
    else if i % 0x40 = 0x24 then s.timerPerHi k w
    else s.timerIrq k fun s => s.wr o w
  else if 0x7400000 ≤ o ∧ o < 0x7400020 then s.pllWrite (i / 4) (wordGet w 15 0)
  else if o = Reg.JRX_SYSREF ∧ 2 ≤ wordGet w 1 0 then (s.wr o (wordSet w 1 0 (s.fget Reg.JRX_SYSREF_MODE))).ignored o
  else match dmaChanAt o with
    | some ch =>
      if o = dmaCtl ch then
        let s := s.dmaDo ch fun s => (s.fflag (dmaIe ch) (on 29)).fflag (dmaSel ch) (on 28)
        if !bit m.toNat 30 then s else if on 30 then s.dmaBit30 ch else if dmaTile ch then s.dmaResume ch else s
      else s.dmaDo ch fun s => s.wr o w
    | none =>
      match ownAt o with
      | some (q, k) =>
        if k < 0x200 ∧ k % 16 = 0 then
          let j := (k - 0x100) / 16
          s.qDo q j fun s =>
            let s := s.wr o (wordSet w 31 31 (wordGet (s.rd o) 31 31))
            if !bit m.toNat 31 then s else if on 31 then s.openQueue q j else s.closeQueue q j
        else if 0x700 ≤ k ∧ k < 0xB00 ∧ k % 16 = 0 then
          let j := (k - 0x700) / 16
          let s := s.wr o (wordSet w 31 31 (wordGet (s.rd o) 31 31))
          let z := s.fget (Reg.Q_COMB_QUEUE q j)
          if !bit m.toNat 31 then s else s.qDo q z fun s => (if on 31 then s.arm q j else s.disarm q j).room q z .none
        else s.wr o w
      | none =>
        if 0x5000000 ≤ o ∧ o < 0x5400000 ∧ 0x40 ≤ i ∧ i < 0x60 then
          let t := (o - 0x5000000) / 0x10000
          (s.boundWrite t ((i - 0x40) / 4) (on 31) (wordGet w 15 0)).tileShow t
        else if 0x5000000 ≤ o ∧ o < 0x5400000 ∧ i = 0xA0 ∧ wordGet w 11 10 = 3 then s.ignored o
        else s.wr o w

/-- An entry's word with the bits of l as in old. -/
def keepBits (old : Word) : List Act → Word → Word
  | [], w => w
  | a :: r, w => keepBits old r (wordSet w a.1.hi a.1.lo (wordGet old a.1.hi a.1.lo))

/-- The acting bits that an entry with VALUE v covers: what disables acts at once, what enables waits in the list until every
entry has been applied (R502). -/
def State.entryActs (v : Word) (once : Bool) : State × List Act → List Act → State × List Act
  | p, [] => p
  | (s, l), a :: r =>
    let on := decide (wordGet v a.1.hi a.1.lo ≠ 0)
    let was := s.fbit a.1
    let rest := l.filter fun b => decide (b.1 ≠ a.1)
    let q : State × List Act :=
      if on = was then (s, if on then l else rest)
      else if once then (a.2 was on s, l)
      else if on then (s, rest ++ [a])
      else (a.2 true false s, rest)
    State.entryActs v once q r

/-- One entry at the instant. An enabled core's entries wait in its shadow registers for step 3 of R112. -/
def State.entryAt (p : State × List Act) (e : Word × Word × Word) : State × List Act :=
  let s := p.1
  match chrTarget e.1 with
  | .win n _ => if s.fbit (Reg.NC_CTL_EN n) then (s.onChr fun c => { c with shadow := c.shadow ++ [(n, e)] }, p.2) else (s.applyEntry e, p.2)
  | .reg o =>
    let n := (o - 0x400000) / 0x10000
    if 0x400000 ≤ o ∧ o < 0x4400000 ∧ s.fbit (Reg.NC_CTL_EN n) = true then
      (s.onChr fun c => { c with shadow := c.shadow ++ [(n, e)] }, p.2)
    else
      let acts := (actsAt o).filter fun a => decide (wordGet e.2.2 a.1.hi a.1.lo ≠ 0)
      let old := s.rd o
      let t := s.entryPut o (keepBits old acts (maskWord old e.2.1 e.2.2)) e.2.2
      State.entryActs e.2.1 (actsAtOnce o) (s.afterWrite t o, p.2) acts

/-- Whether the instant of an ARMED batch has come: boundary u has been issued, or the counter has reached the time (R504). -/
def State.instantDue (s : State) : Bool :=
  decide (s.chrState = 5) && (if s.fbit Reg.CHR_WHEN_MODE then decide (s.chr.at_ ≤ s.now) else decide (s.chr.at_ < s.tb.nextU))

/-- The batch is applied and becomes DONE (R505): its entries in ascending index, then its enables on the configuration they leave. -/
def State.commitBatch (s : State) : State :=
  let at_ := s.chr.at_
  let time := s.fbit Reg.CHR_WHEN_MODE
  let t := if time then s.now else (s.issuedAt (at_ % 2 ^ 32)).getD s.now
  let s := (((s.setChr 6).wr64 Reg.CHR_DONE_T_LO t).wrN Reg.CHR_DONE_STEP (if time then s.stepCnt else at_)).count Reg.CHR_COMMIT_CNT 1
  let p := s.chr.armed.foldl State.entryAt (s, [])
  forL p.2 (fun a s => s.actOn a) (p.1.onChr fun c => { c with armed := [], due := at_ })

/-- COMMIT_INSTANT (R504, R505). -/
def execCommitInstant (s : State) : Host.Outcome State Fault Refusal :=
  .next (s.alive fun s => if s.instantDue then s.commitBatch else s)

end Sys2Proof.Machine
end

