-- ==== Sys2Proof/Machine/Instar.lean ====
section
/-! DEFINITION. The Instars (R469 to R488), the Cocoon (R483 to R485), and the events of PCIe and of the SerDes supplies
(R474, R585). -/

namespace Sys2Proof.Machine

/-! ### Instar 0 (R2, R416, R469, R514, R516, R544) -/

/-- Sectors of the manufacturer page without a valid copy. -/
def State.pageLost (s : State) : List Nat := (List.range 16).filter fun k => (s.sectorUsed k).isNone

/-- The start counted in the device log and shown (R469, R514); the count saturates (R12). -/
def State.startCount (s : State) : State :=
  let n := min (2 ^ 32 - 1) (s.mramNat (32 * 4096) 4 + 1)
  (s.sectorProgram 32 (leBytes 4 n ++ (s.sectorBytes 32).drop 4)).wrN Reg.INST_START_CNT n

/-- SUPPLIES_AND_AON (R469): Instar 0 ends. pllUs is the time from PWR_GOOD to the lock of the AON PLL, at most 2 ms (R472);
the counter has counted since. -/
def execSuppliesAndAon (vinOk pllOk : Bool) (pllUs : BitVec 16) (s : State) : Host.Outcome State Fault Refusal :=
  .next (s.alive fun s =>
    let us := pllUs.toNat
    if !s.inInstar 0 then s
    else if !vinOk then s.instarFail 0 0x01 0 0 0
    else if !pllOk || decide (2000 < us) then s.instarFail 0 0x02 0 0 0
    else
      let s := (s.onAon fun a => { a with pll := true }).setCounter (s.time - s.aon.goodAt - 1000 * us : Nat)
      let lost := s.pageLost
      let s := forL lost (fun k s => (s.count Reg.SET_UE_CNT 1).raise 20 9 0 (k * 4096)) s
      if !lost.isEmpty then s.instarFail 0 0x03 us 0 0
      else
        let s := (((s.wrN Reg.AON_LIMITS (s.mramNat 0 4)).fon Reg.SET_STATUS_MFG_LOCK).wr64 (Reg.TRU_DEVICE_ID 0) Config.deviceId.toNat).wrN
          Reg.TRU_SVN (s.mramNat (48 * 4096) 4)
        let s := s.startCount
        s.instarDone 0 1 0 us (s.rd Reg.AON_LIMITS).toNat s.defectCount)

/-! ### Instar 1 (R469, R541, R542, R548) -/

/-- TRUST (R541): the flash answers with an image that passes every check, or Instar 1 fails; after VERIFY or SIZE the ROM
waits for an image from the twin or the host (R548). -/
def execTrust (answers : Bool) (image : List Byte) (s : State) : Host.Outcome State Fault Refusal :=
  .next (s.alive fun s =>
    let n := kib image.length
    let code := s.imageCode image
    if !s.inInstar 1 then s
    else if !answers then s.instarFail 1 0x10 0 0 0
    else if code ≠ 0 then
      let s := (s.instarFail 1 code n 0 0).fon Reg.TRU_STATUS_RECOVERY
      s.onTrust fun t => { t with stagingOwner := none }
    else
      let s := s.bootMeasure image
      ((s.onTrust fun t => { t with image := image }).fset Reg.TRU_STATUS_SRC 0).instarDone 1 2 0 n 0 0)

/-- TWIN_IMAGE_DELIVERED (R548): the twin has delivered an image, unless the host owns the staging area. -/
def execTwinImageDelivered (image : List Byte) (s : State) : Host.Outcome State Fault Refusal :=
  .next (s.alive fun s =>
    if s.fbit Reg.TRU_STATUS_RECOVERY && decide (s.trust.stagingOwner ≠ some true) then s.delivered image 1 else s)

/-- RCV_GO (R548): a write of 1 to TRU_CTL.RCV_GO. -/
def execRcvGo (m : Master) (s : State) : Host.Outcome State Fault Refusal :=
  .next (s.alive fun s => s.guarded m Reg.TRU_CTL fun s => if m = .pcie then s.rcvGo else s.secureOnly m State.rcvGo)

/-! ### Instar 2 (R475 to R478, R92) -/

/-- The records of new defects as the list takes them: units not listed or mapped around, each once, ORIGIN 1 and this start (R476). -/
def State.newDefects (s : State) (found : List (BitVec 64)) : List Nat :=
  let start := (s.rd Reg.INST_START_CNT).toNat
  let known := s.aon.defects ++ s.listedUnits
  let take (l : List Nat) (r : Nat) : List Nat :=
    match recUnit r with
    | some (row, c) =>
      if decide (rowCols row ≤ c) || known.contains (row, c) || l.any (fun x => decide (recUnit x = some (row, c))) then l
      else l ++ [defectWord (bits r 63 60) 1 (bits r 57 57) (bits r 56 53) (bits r 52 47) (bits r 38 32) start]
    | none => if bits r 63 60 = 3 then l ++ [defectWord 3 1 (bits r 57 57) (bits r 56 53) (bits r 52 47) (bits r 38 32) start] else l
  (found.map BitVec.toNat).foldl take []

/-- The words of neuron-core windows zero and without errors (R92). -/
def State.windowsZero (s : State) : State :=
  let s := s.badKeep fun a => decide (a < winAddr 0 0 ∨ winAddr 1024 0 ≤ a)
  s.mzero (winAddr 0 0) 0x80000000

/-- SELF_TEST (R475): BIST has found the new defects; they are listed and stored, rows are mapped around every listed unit, and an
unspared defect fails the Instar. -/
def execSelfTest (found : List (BitVec 64)) (unspared storeOk : Bool) (s : State) : Host.Outcome State Fault Refusal :=
  .next (s.alive fun s =>
    if !s.inInstar 2 then s
    else
      let new := s.newDefects found
      let full := decide (8192 < s.defectCount + new.length)
      let s := if storeOk then forL new (fun r s => s.appendDefect r) s else s
      let s := s.onAon fun a => { a with defects := (a.defects ++ s.listedUnits ++ new.filterMap recUnit).eraseDups }
      let s := (forN 40 (fun r s => s.rowShow r) s).capShow
      let s := (forN 8 (fun i s => s.fset (Reg.PWR_ISL_STAT_STATE (64 + i)) 5) s).windowsZero
      let cap := (s.rd Reg.INST_CAP).toNat
      let n := s.defectCount
      if unspared || new.any (fun r => decide (bits r 63 60 = 3)) then s.instarFail 2 0x20 new.length cap n
      else
        let red := (List.range 40).any fun r => decide (2 ≤ (s.rowDefects r).length)
        s.instarDone 2 3 (if full then 0x21 else if !storeOk && !new.isEmpty then 0x22 else if red then 0x23 else 0) new.length cap n)

/-! ### Instar 3 (R396, R469, R558) -/

/-- Whether a word of Instar 3's tables goes to o: region sets, the mesh's tables, the operating points; a Cocoon keeps the MESH_
registers (R483). -/
def State.fabricTakes (s : State) (o : Nat) : Bool :=
  inRegionSet o || decide (o = Reg.PWR_HALF_OP 0) || decide (o = Reg.PWR_HALF_OP 1)
  || (decide (0x6000000 ≤ o) && decide (o < 0x6010000) && !s.fbit Reg.INST_STATUS_COCOON)

/-- FABRIC (R469): the checks of Instar 3 have passed and its tables are loaded; or one failed with MESH, SEAM or CTRL, where_ the
failing router. checked is the number of routers checked. -/
def execFabric (code : BitVec 8) (where_ : Word) (checked : BitVec 16) (tables : List (Nat × Word)) (s : State) :
    Host.Outcome State Fault Refusal :=
  .next (s.alive fun s =>
    if !s.inInstar 3 then s
    else if 0x30 ≤ code.toNat ∧ code.toNat ≤ 0x32 then s.instarFail 3 code.toNat checked.toNat where_.toNat 0
    else
      let s := forL (tables.filter fun x => s.fabricTakes x.1) (fun x s => s.regWrite .aon x.1 x.2) s
      s.instarDone 3 4 0 checked.toNat 0 0)

/-! ### Instar 4 (R469, R470, R483, R486) -/

/-- The slices zero, with valid check bits. -/
def State.slicesZero (s : State) : State :=
  let s := s.badKeep fun a => decide (a < 0x80000000000 ∨ 0x80030000000 ≤ a)
  s.mzero 0x80000000000 0x30000000

/-- The image copied to DDR4 at INST_IMG_BASE where every byte of it is served; INST_IMG_BASE locks. -/
def State.imageCopied (s : State) : State :=
  let a := s.rd64 Reg.INST_IMG_BASE_LO
  let ok := (List.range ((s.trust.image.length + 63) / 64)).all fun i => decide (s.served (a + 64 * i) = 0)
  let s := if ok then s.mwrite a s.trust.image else s
  let s := s.onAon fun x => { x with imgCopied := ok, imgLocked := true }
  (s.staleWord (.reg Reg.INST_IMG_BASE_LO) false).staleWord (.reg Reg.INST_IMG_BASE_HI) false

/-- The channels with EN = 1, of these the trained and the failed. -/
def State.ddrOn (s : State) : List Nat := (List.range 8).filter fun c => s.fbit (Reg.DDR_CTL_EN c)
def State.ddrUp (s : State) : List Nat := s.ddrOn.filter fun c => s.fbit (Reg.DDR_STATUS_TRAINED c)
def State.ddrLost (s : State) : List Nat := s.ddrOn.filter fun c => s.fbit (Reg.DDR_STATUS_FAILED c)

/-- The bits of a list of unit numbers. -/
def maskOf (l : List Nat) : Nat := l.foldl (fun a i => a ||| 2 ^ i) 0

/-- MEMORIES (R469): slices zero; in a chip start every enabled channel is trained or marked failed and the image is copied. -/
def execMemories (slicesOk : Bool) (s : State) : Host.Outcome State Fault Refusal :=
  .next (s.alive fun s =>
    let coc := s.fbit Reg.INST_STATUS_COCOON
    if !s.inInstar 4 || (!coc && s.ddrOn.any fun c => !s.fbit (Reg.DDR_STATUS_TRAINED c) && !s.fbit (Reg.DDR_STATUS_FAILED c)) then s
    else
      let s := s.slicesZero
      let d2 := ((List.range 8).map fun c => s.fget (Reg.DDR_STATUS_CFG_ERR c) * 2 ^ (4 * c)).foldl (· + ·) 0
      let n := s.ddrUp.length
      let d1 := maskOf s.ddrLost
      if !slicesOk then s.instarFail 4 0x40 n d1 d2
      else (if coc then s else s.imageCopied).instarDone 4 (if coc then 6 else 5) (if d1 ≠ 0 then 0x41 else 0) n d1 d2)

/-- DDR_INSTAR_TIMEOUT (R470): 30 ms after Instar 4 began an enabled channel that has not trained is marked failed. -/
def execDdrInstarTimeout (s : State) : Host.Outcome State Fault Refusal :=
  .next (s.alive fun s =>
    if s.inInstar 4 && !s.fbit Reg.INST_STATUS_COCOON && decide (s.aon.stageAt + 30000000 ≤ s.time) then
      forL (s.ddrOn.filter fun c => !s.fbit (Reg.DDR_STATUS_TRAINED c)) (fun c s => s.fon (Reg.DDR_STATUS_FAILED c)) s
    else s)

/-! ### Instar 5 (R455, R469) -/

/-- Whether link k, whose IBL_PEER is valid, has the peer that the board description gives it, and not the local device's number (R455). -/
def State.peerRight (s : State) (board : List (Fin 12 × Word)) (k : Nat) : Bool :=
  let dev := s.fget (Reg.IBL_PEER_DEV k)
  decide (dev ≠ s.devid)
  && board.any fun x => decide (x.1.val = k) && decide (wordGet x.2 18 16 = dev) && decide (wordGet x.2 3 0 = s.fget (Reg.IBL_PEER_LINK k))

/-- BOARD_CHECK (R455): a link with another peer is held with EN = 0 and recorded. -/
def State.boardCheck (s : State) (board : List (Fin 12 × Word)) : State :=
  forL ((List.range 12).filter fun k => s.fbit (Reg.IBL_PEER_VALID k) && !s.peerRight board k && !s.aon.heldLinks.contains k)
    (fun k s => (s.linkDisable k).onAon fun a => { a with heldLinks := k :: a.heldLinks }) s

/-- Enabled streams that are not aligned; links of the board description, or enabled, that are not UP. -/
def State.streamsOut (s : State) : List Nat := s.enabledStreams.filter fun i => !s.fbit (Reg.ING_STATUS_ALIGNED i)
def State.linksOut (s : State) (board : List (Fin 12 × Word)) : List Nat :=
  (List.range 12).filter fun k => !s.fbit (Reg.IBL_STATUS_UP k) && (s.fbit (Reg.IBL_CTL_EN k) || s.aon.heldLinks.contains k || board.any fun x => decide (x.1.val = k))

/-- The end of Instar 5: AON_ACCESS locks (R493), losses ABSENT, LINK, PCIE (R472). -/
def State.linksEnd (s : State) (board : List (Fin 12 × Word)) : State :=
  let out := s.streamsOut
  let code := if !out.isEmpty then 0x50 else if !(s.linksOut board).isEmpty then 0x51 else if !s.aon.pcieUp then 0x52 else 0
  let up := maskOf ((List.range 12).filter fun k => s.fbit (Reg.IBL_STATUS_UP k))
  let old := s.rd Reg.AON_ACCESS
  ((s.fon Reg.AON_ACCESS_LOCK).staleIf Reg.AON_ACCESS old).instarDone 5 6 code (s.enabledStreams.length - out.length) (maskOf out)
    ((if s.aon.pcieUp then 2 ^ 31 else 0) + maskOf s.aon.heldLinks * 2 ^ 16 + up)

/-- LINKS (R469): Instar 5 ends once every stream is aligned, every link UP with the right peer, and the PCIe link up. -/
def execLinks (board : List (Fin 12 × Word)) (s : State) : Host.Outcome State Fault Refusal :=
  .next (s.alive fun s =>
    if !s.inInstar 5 then s
    else
      let s := s.boardCheck board
      if s.streamsOut.isEmpty && (s.linksOut board).isEmpty && s.aon.pcieUp then s.linksEnd board else s)

/-- LINKS_TIMEOUT (R469): 26 ms after it began Instar 5 ends with what is not up. -/
def execLinksTimeout (board : List (Fin 12 × Word)) (s : State) : Host.Outcome State Fault Refusal :=
  .next (s.alive fun s =>
    if s.inInstar 5 && decide (s.aon.stageAt + 26000000 ≤ s.time) then (s.boardCheck board).linksEnd board else s)

/-! ### Instar 6 (R469, R470, R472, R484) -/

/-- What the load sections hold: register words, bytes of memories. -/
def State.loadImage (s : State) (regs : List (Nat × Word)) (bytes : List (Nat × Byte)) : State :=
  let s := forL regs (fun x s => s.regWrite .aon x.1 x.2) s
  let ok (a : Nat) : Bool := match placeOf a with
    | .ddr => true
    | .slice _ => true
    | .window _ _ => true
    | .seqMem _ _ => true
    | _ => false
  forL (bytes.filter fun x => ok x.1) (fun x s => (s.mput x.1 x.2).setBad (eccUnit x.1) false) s

/-- Instar 6 fails with a code. -/
def State.stopLoad (s : State) (code cores : Nat) : State :=
  s.instarFail 6 code cores (s.rd Reg.TB_ADM_STATUS).toNat (s.rd Reg.TB_ADM_BOUND).toNat

/-- Instar 6 loads, starts the watchdog and the step generator, and ends with READY; or fails with ADMIT (R469, R470, R472, R536). -/
def State.loadRun (s : State) (regs : List (Nat × Word)) (bytes : List (Nat × Byte)) (cores : Nat) : State :=
  let s := (s.loadImage regs bytes).regWrite .aon Reg.FLT_WDOG (wordSet (s.rd Reg.FLT_WDOG) 31 31 1)
  let s := s.stepEnable
  if !s.stepOn then s.stopLoad 0x61 cores
  else
    let s := ((s.instarRecord 6 2 0 cores (s.rd Reg.TB_ADM_STATUS).toNat (s.rd Reg.TB_ADM_BOUND).toNat).foff Reg.INST_STATUS_FAILED).foff
      Reg.INST_STATUS_CODE
    (s.fon Reg.INST_STATUS_READY).onAon fun a =>
      { a with reached6 := s.time, wbSeen := false, partnerSeen := s.fbit Reg.AON_TWIN_STATUS_PARTNER_UP, wbRel := s.now }

/-- Whether Instar 6 may load: it runs, or waits after an admission failure (R472). -/
def State.mayLoad (s : State) : Bool :=
  decide (s.stage = 6) && !s.inService && (!s.fbit Reg.INST_STATUS_FAILED || decide (s.fget Reg.INST_STATUS_CODE = 0x61))

/-- LOAD (R469): Instar 6 of a chip start ends. cores is the number of cores loaded. GATE opens in the active role (R433). -/
def execLoad (wellFormed : Bool) (regs : List (Nat × Word)) (bytes : List (Nat × Byte)) (cores : BitVec 16) (s : State) :
    Host.Outcome State Fault Refusal :=
  .next (s.alive fun s =>
    if !s.mayLoad || s.fbit Reg.INST_STATUS_COCOON then s
    else if !wellFormed then s.stopLoad 0x60 cores.toNat
    else
      let s := s.loadRun regs bytes cores.toNat
      if !s.inService then s
      else (s.wrN Reg.INST_READY_US ((s.time - s.aon.goodAt) / 1000)).iff (!s.standby) fun s => s.fon Reg.TB_OUT_STATUS_GATE)

/-- STAGE_ALTERNATE (R471): every 250 ms in a failed Instar. -/
def execStageAlternate (s : State) : Host.Outcome State Fault Refusal :=
  .next (s.alive fun s =>
    if s.fbit Reg.INST_STATUS_FAILED && decide (s.aon.stageAt + 250000000 ≤ s.time) then
      s.onAon fun a => { a with stageInv := !a.stageInv, stageAt := s.time }
    else s)

/-! ### Service and the Cocoon (R473, R483 to R485) -/

/-- SERVICE_ENTER (R473). -/
def execServiceEnter (m : Master) (s : State) : Host.Outcome State Fault Refusal :=
  .next (s.alive fun s => s.guarded m Reg.INST_CTL fun s => s.serviceWrite true)

/-- SERVICE_LEAVE (R473). -/
def execServiceLeave (m : Master) (s : State) : Host.Outcome State Fault Refusal :=
  .next (s.alive fun s => s.guarded m Reg.INST_CTL fun s => s.serviceWrite false)

/-- COCOON (R483, R484). -/
def execCocoon (m : Master) (s : State) : Host.Outcome State Fault Refusal :=
  .next (s.alive fun s => s.guarded m Reg.INST_CTL fun s => s.cocoonStart)

/-- Whether the DDR4 copy's sections have the hashes of the manifest verified at the start (R484). -/
def State.copyRight (s : State) : Bool :=
  let c := s.imageCopy
  (imgSections s.trust.image).all fun x => decide (sha256 (imgBytes c x.offset x.length) = x.hash)

/-- COCOON_END (R484): the rerun of Instar 6 ends from the checked copy, and the device comes back in the standby role; events form
again from encoders as at enable (R67, R483), and WINGBEAT runs unless the record holds WB_STOP (R532). -/
def execCocoonEnd (wellFormed : Bool) (regs : List (Nat × Word)) (bytes : List (Nat × Byte)) (cores : BitVec 16) (s : State) :
    Host.Outcome State Fault Refusal :=
  .next (s.alive fun s =>
    if !s.mayLoad || !s.fbit Reg.INST_STATUS_COCOON then s
    else if !s.copyRight then s.stopLoad 0x62 cores.toNat
    else if !wellFormed then s.stopLoad 0x60 cores.toNat
    else
      let s := s.loadRun regs bytes cores.toNat
      if !s.inService then s
      else
        let s := forN 32 (fun i s => s.encoderClear i) (s.foff Reg.INST_STATUS_COCOON)
        s.iff (!bit (s.fget Reg.FLT_REC_STATUS_REACT) 3) State.wbRelease)

/-! ### PCIe (R375, R474) and the SerDes supplies (R585) -/

/-- PERST_DEASSERT (R474): with REFCLK present once Instar 0 has ended, link training begins. -/
def execPerstDeassert (refclk : Bool) (s : State) : Host.Outcome State Fault Refusal :=
  .next (s.alive fun s => s.iff (refclk && decide (1 ≤ s.stage)) fun s => s.onAon fun a => { a with pcieTraining := true })

/-- PCIE_LINK_CHANGE (R474): the link comes up from training, or goes down into it. -/
def execPcieLinkChange (up : Bool) (s : State) : Host.Outcome State Fault Refusal :=
  .next (s.alive fun s =>
    if up then s.iff s.aon.pcieTraining fun s => s.onAon fun a => { a with pcieUp := true, pcieTraining := false }
    else s.iff s.aon.pcieUp fun s => s.onAon fun a => { a with pcieUp := false, pcieTraining := true })

/-- PCIE_CONFIG_REQUEST (R375, R474): Request Retry Status until Instar 5 has ended, but not in recovery wait (R548); else a write sets
Bus Master and Memory Space Enable and the two sizes, 128 bytes shifted by a code, and a read returns them. -/
def execPcieConfigRequest (write busMaster memEnable : Bool) (mps mrrs : Fin 6) (s : State) : Host.Outcome State Fault Refusal :=
  .next (s.alive fun s =>
    if !s.aon.pcieUp then s
    else if !s.barOpen then s.emit .retry
    else if write then
      (s.onAon fun a => { a with pcieBusMaster := busMaster, pcieMemEnable := memEnable, pcieMps := 128 * 2 ^ mps.val,
                                 pcieMrrs := 128 * 2 ^ mrrs.val }).emit .ack
    else s.emit (.config s.aon.pcieBusMaster s.aon.pcieMemEnable s.aon.pcieMps s.aon.pcieMrrs))

/-- SERDES_SUPPLY_LOW (R585): the lanes of the streams concerned lose lock and the streams go absent (R57), the links concerned are
lost (R325), PCIe recovers. -/
def execSerdesSupplyLow (streams : List (Fin 32)) (links : List (Fin 12)) (s : State) : Host.Outcome State Fault Refusal :=
  .next (s.alive fun s =>
    let s := forL streams (fun i s => forL (s.lanes i) (fun l s => s.lockLoss l true true) s) s
    let s := forL links (fun k s => s.linkLose k) s
    s.iff s.aon.pcieUp fun s => s.onAon fun a => { a with pcieUp := false, pcieTraining := true })

end Sys2Proof.Machine
end

