-- ==== Sys2Proof/Machine/Mesh.lean ====
section
/-! DEFINITION. Requests and replies on the mesh (R294 to R312, R400, R410, R411, R462). -/

namespace Sys2Proof.Machine

/-! ### Requests at their target (R309, R395) -/

/-- The master a request stands for at its target, for its region set (R395): the link it came by, or its own. -/
def viaWho : Via → Who
  | .link k _ => .link k
  | .own m => whoOf m

/-- Who is answered. -/
def viaTo : Via → ReplyTo
  | .link _ src => .mesh src.toNat
  | .own m => .core (coreOwner m)

/-- A STATUS in answer to a request; OK to a write of an own master is its acknowledgement. -/
def State.statusTo (s : State) (back : ReplyTo) (a code : Nat) : State :=
  match back with
  | .mesh src => s.send (.status src code 0 0 0)
  | .core _ => s.answer code a .ack
  | _ => s

/-- A region violation as its master sees it (R398): STATUS REGION to a requester on the mesh, an access fault to a core; a host read
completes with Unsupported Request, and a host write is dropped. -/
def State.refuse (s : State) (via : Via) (a kind : Nat) : State :=
  if via = .own .pcie then s.iff (decide (kind ≠ 1 ∧ kind ≠ 3)) fun s => s.emit .unsupported
  else s.statusTo (viaTo via) a 4

/-- The address a region check sees: as it stands for a master of this device, bits [43:0] for a request that came by a link (R397). -/
def viaAddr (via : Via) (a : Nat) : Nat :=
  match via with
  | .link _ _ => a % 2 ^ 44
  | .own _ => a

/-- A request at its target: sunk with NO_TARGET where DST names no endpoint (R309), refused where the region set of the link or
of the master forbids the access (R397), else f. An access of JTAG while debug is not open is not performed (R599). -/
def State.reqArrive (s : State) (via : Via) (dst a kind : Nat) (ok : Bool) (f : State → State) : State :=
  let there := match via with
    | .link _ _ => s.endpointThere dst
    | .own _ => true
  if via = .own .pcie ∧ s.barOpen = false then s.emit .unsupported
  else if via = .own .jtag ∧ s.fbit Reg.TRU_STATUS_DBG_OPEN = false then s.emit (if kind = 1 ∨ kind = 3 then .ack else .readValue 0)
  else if !there then (s.count Reg.MESH_BAD_DST_CNT 1).statusTo (viaTo via) a 3
  else if !ok then (s.violation (viaWho via) kind a).refuse via a kind
  else f s

/-- The channel a request for DDR4 must be forwarded to: one other than DST names (R410). -/
def State.forwards (s : State) (dst a : Nat) : Option Nat :=
  if placeOf a = .ddr ∧ coRegion dst = 2 ∧ coY dst = 1 ∧ s.ddrChan a ≠ coX dst then some (s.ddrChan a) else none

/-- A request of a TYPE is passed on to its channel, with its requester, SEQ and cells (R410). -/
def State.forward (s : State) (dst chan src type : Nat) (l : List (List Byte)) : State :=
  (s.count (Reg.DDR_FWD_CNT (coX dst)) 1).send (.cell 25 (ioCoord s.devid 1 chan 0) (src % 2 ^ 22) (src / 2 ^ 22) false (fwdCells type l))

/-! ### Reads -/

/-- A reply of data to a requester: index, whether it carries POISON (R297, R298). -/
def State.sendData (s : State) (src a i : Nat) (poison : Bool) (l : List Byte) : State :=
  s.send (.cell 22 (src % 2 ^ 22) (s.memCoord s.devid a) (src / 2 ^ 22) poison [rdData l i])

/-- Read replies of 32 bytes from address a, from reply i on (R297); one that meets an uncorrectable error carries POISON; another
refusal is one STATUS. A DDR4 line is read once: its second reply records nothing again (R407). -/
def State.rdReplies (s : State) (w : Who) (src a : Nat) (ecc : Ecc) : Nat → Nat → State
  | _, 0 => s
  | i, n + 1 =>
    let b := a + 32 * i
    let again := decide (i ≠ 0) && decide (placeOf (localPart b) = .ddr) && decide (b % 64 = 32)
    let (s, st, l) := s.localRead w 0 b 32 (if i = 0 then ecc else .none) again
    if st ≠ 0 ∧ st ≠ 5 then s.send (.status src st 0 0 0)
    else State.rdReplies (s.sendData src (localPart b) i (decide (st = 5)) l) w src a ecc (i + 1) n

/-- A read of n replies of 32 bytes is performed and answered (R297, R412). -/
def State.rdServe (s : State) (w : Who) (back : ReplyTo) (a n : Nat) (ecc : Ecc) : State :=
  if s.served (localPart a) = 10 then s.ddrHold ⟨w, back, localPart a, 32 * n, [], ecc⟩
  else match back with
    | .mesh src => s.rdReplies w src a ecc 0 n
    | _ =>
      let (s, st, l) := s.localRead w 0 a (32 * n) ecc false
      s.answer st a (.readValue (leNat l))

/-- RD_REQ (R297, R309, R395, R410): NM1 + 1 replies of 32 bytes from ADDR. -/
def execRdReq (via : Via) (dst : BitVec 22) (a : BitVec 48) (nm1 : BitVec 8) (ecc : Ecc) (s : State) : Host.Outcome State Fault Refusal :=
  .next (s.alive fun s =>
    let a := viaAddr via a.toNat / 32 * 32
    let n := nm1.toNat + 1
    s.reqArrive via dst.toNat a 0 (s.allows (viaWho via) 0 a (32 * n)) fun s =>
      match via, s.forwards dst.toNat (localPart a) with
      | .link _ src, some c => s.forward dst.toNat c src.toNat 16 [rdPayload a n]
      | _, _ => s.rdServe (viaWho via) (viaTo via) a n ecc)

/-! ### Writes -/

/-- A write is performed and answered with one STATUS. -/
def State.wrServe (s : State) (w : Who) (back : ReplyTo) (a : Nat) (l : List (Nat × Byte)) (ecc : Ecc) : State :=
  let (s, st) := s.localWrite w l ecc
  if st = 10 then s.ddrHold ⟨w, back, localPart a, 0, l.map fun x => (localPart x.1, x.2), ecc⟩ else s.statusTo back a st

/-- The enabled bytes of a write. -/
def maskBytes (a : Nat) (data : List (Option Byte)) : List (Nat × Byte) :=
  (List.range data.length).filterMap fun i => (data.getD i none).map fun b => (a + i, b)

/-- A write request of a TYPE at its target (R297, R309, R395, R398, R410). -/
def State.wrArrive (s : State) (via : Via) (dst a type : Nat) (data : List (Option Byte)) (ecc : Ecc) : State :=
  let l := maskBytes a data
  let kind := if isAlias (localPart a) then 3 else 1
  s.reqArrive via dst a kind (s.allowsBytes (viaWho via) kind l) fun s =>
    match via, s.forwards dst (localPart a) with
    | .link _ src, some c => s.forward dst c src.toNat type (if type = 21 then fullCells l else maskCells a data)
    | _, _ => s.wrServe (viaWho via) (viaTo via) a l ecc

/-- WR_REQ (R297): the bytes whose mask bits are set. -/
def execWrReq (via : Via) (dst : BitVec 22) (a : BitVec 48) (data : List (Option Byte)) (ecc : Ecc) (s : State) : Host.Outcome State Fault Refusal :=
  .next (s.alive fun s => s.wrArrive via dst.toNat (viaAddr via a.toNat / 32 * 32) 17 data ecc)

/-- WR_FULL (R462): whole granules; on a link of generation 1 the TYPE is not one of its cells (R299, R322). -/
def execWrFull (via : Via) (dst : BitVec 22) (a : BitVec 48) (data : List Byte) (ecc : Ecc) (s : State) : Host.Outcome State Fault Refusal :=
  .next (s.alive fun s =>
    let known := match via with
      | .link k _ => decide (2 ≤ s.fget (Reg.IBL_GEN_CUR k))
      | .own _ => true
    if !known then (s.count Reg.MESH_TYPE_ERR_CNT 1).statusTo (viaTo via) a.toNat 7
    else s.wrArrive via dst.toNat (viaAddr via a.toNat / 32 * 32) 21 (data.map some) ecc)

/-! ### Atomic operations (R400) -/

/-- The new value of a word of w bits: 0, 1 ADD; 2, 3 SWAP; 4, 5 CAS, none where the compare fails (R400); a core's other AMO
instructions (R401): 6, 7 XOR; 8, 9 AND; 10, 11 OR; 12, 13 MIN; 14, 15 MAX; 16, 17 MINU; 18, 19 MAXU; 20, 21 LR, which writes nothing. -/
def atomNew (op w mem x y : Nat) : Option Nat :=
  let x := x % 2 ^ w
  if op ≤ 1 then some ((mem + x) % 2 ^ w)
  else if op ≤ 3 then some x
  else if op ≤ 5 then (if mem = y % 2 ^ w then some x else none)
  else if op ≤ 7 then some (mem ^^^ x)
  else if op ≤ 9 then some (mem &&& x)
  else if op ≤ 11 then some (mem ||| x)
  else if op ≤ 13 then some (if signed w mem ≤ signed w x then mem else x)
  else if op ≤ 15 then some (if signed w mem ≤ signed w x then x else mem)
  else if op ≤ 17 then some (min mem x)
  else if op ≤ 19 then some (max mem x)
  else none

/-- Whether atomic operations are performed at a local address: a slice, a sequencer core's memory (R400). -/
def atomPlace (a : Nat) : Bool :=
  match placeOf a with
  | .slice _ => true
  | .seqMem _ _ => true
  | _ => false

/-- An atomic operation on n bytes of an address as it stands is performed: f gives the new value, if one is written; r says what is
answered for the old one (R297, R400). -/
def State.atomServe (s : State) (w : Who) (back : ReplyTo) (a n : Nat) (f : Nat → Option Nat) (r : Nat → Nat) (ecc : Ecc) : State :=
  let (s, st, l) := s.localRead w 2 a n ecc false
  let old := leNat l
  let (s, st) := if st ≠ 0 then (s, st) else match f old with
    | some v => s.localWrite w (bytesAt a (leBytes n v)) .none
    | none => (s, 0)
  match back with
  | .mesh src =>
    if st = 0 ∨ st = 5 then s.sendData src (localPart a) 0 (decide (st = 5)) (leBytes 8 (r old))
    else s.send (.status src st 0 0 0)
  | _ => s.answer st a (.readValue (r old))

/-- What core i's last LR read from the n bytes at local address a, while its reservation stands (R401). -/
def State.reserved (s : State) (i a n : Nat) : Option Nat :=
  match (s.seq i).lr with
  | some (b, k, v) => if b = a ∧ k = n then some v else none
  | none => none

/-- SC of core i (R401): on its own memory it stores while the reservation stands; elsewhere as a CAS of the value against what its LR
returned. It answers 0 where it stored, else 1, and the reservation ends. -/
def State.storeCond (s : State) (i : Nat) (own : Bool) (a n x : Nat) (ecc : Ecc) : State :=
  let was := s.reserved i (localPart a) n
  let s := s.setSeq i { s.seq i with lr := none }
  match was with
  | none => s.emit (.readValue 1)
  | some v =>
    let new (old : Nat) : Option Nat := if own ∨ old = v then some (x % 2 ^ (8 * n)) else none
    s.atomServe (.seq i) (.core none) a n new (fun old => if (new old).isSome then 0 else 1) ecc

/-- LR of core i: the value read, and a reservation of its bytes (R401). -/
def State.loadReserve (s : State) (i a n : Nat) (ecc : Ecc) : State :=
  let (s, st, l) := s.localRead (.seq i) 2 a n ecc false
  (s.iff (decide (st = 0)) fun s => s.setSeq i { s.seq i with lr := some (localPart a, n, leNat l) }).answer st a (.readValue (leNat l))

/-- An atomic instruction of a master of this device once its address and region are good: a sequencer core's LR and SC too. -/
def State.atomOwn (s : State) (m : Master) (own : Bool) (a n op x y : Nat) (ecc : Ecc) : State :=
  match m with
  | .seq i =>
    if op / 2 = 10 then s.loadReserve i a n ecc
    else if op / 2 = 11 then s.storeCond i own a n x ecc
    else s.atomServe (.seq i) (.core none) a n (fun v => atomNew op (8 * n) v x y) id ecc
  | _ => s.atomServe (whoOf m) (.core none) a n (fun v => atomNew op (8 * n) v x y) id ecc

/-- The highest operation of a request: ATOM_REQ has six, a core's AMO, LR and SC instructions follow (R297, R401). -/
def lastAtom : Via → Nat
  | .link _ _ => 5
  | .own (.seq _) => 23
  | .own _ => 19

/-- ATOM_REQ (R297, R400, R401): refused BAD_TYPE where the address is not naturally aligned, or lies in DDR4, a window or an alias: a core
takes an access fault. On its own local memory, also at its private address, a core's instructions are native. -/
def execAtomReq (via : Via) (dst : BitVec 22) (a : BitVec 48) (op : BitVec 8) (x y : BitVec 64) (ecc : Ecc) (s : State) :
    Host.Outcome State Fault Refusal :=
  .next (s.alive fun s =>
    let n := if op.toNat % 2 = 0 then 4 else 8
    let priv := match via with
      | .own m => (privateOff m a.toNat).filter fun p => ownMemory p.1 p.2 n
      | .link _ _ => none
    let a := match priv with
      | some (o, off) => ownAddr o off
      | none => viaAddr via a.toNat
    let own := match via, placeOf (localPart a) with
      | .own (.seq i), .seqMem j _ => decide (i.val = j)
      | _, _ => false
    s.reqArrive via dst.toNat a 2 (priv.isSome || s.allows (viaWho via) 2 a n) fun s =>
      if placeOf (localPart a) = .unmapped then s.statusTo (viaTo via) a 3
      else if lastAtom via < op.toNat ∨ localPart a % n ≠ 0 ∨ atomPlace (localPart a) = false then s.statusTo (viaTo via) a 7
      else match via with
        | .own m => s.atomOwn m own a n op.toNat x.toNat y.toNat ecc
        | .link k src => s.atomServe (.link k) (.mesh src.toNat) a n (fun v => atomNew op.toNat (8 * n) v x.toNat y.toNat) id ecc)

/-! ### Forwarded requests and replies -/

/-- FWD (R410): channel c serves a request passed on to it and replies to the requester; it never forwards again. A channel whose
island is off is no endpoint (R309). -/
def execFwd (c : Fin 8) (src : BitVec 30) (req : Request) (ecc : Ecc) (s : State) : Host.Outcome State Fault Refusal :=
  .next (s.alive fun s =>
    if !s.endpointThere (ioCoord s.devid 1 c 0) then s.count Reg.MESH_BAD_DST_CNT 1
    else match req with
    | .read a n => s.rdServe .aon (.mesh src.toNat) (a.toNat % 2 ^ 44) ((n.toNat + 31) / 32) ecc
    | .write a data => s.wrServe .aon (.mesh src.toNat) (a.toNat % 2 ^ 44) (maskBytes (a.toNat % 2 ^ 44) data) ecc
    | .sync _ _ _ _ _ => s)

/-- The endpoint of a requester. -/
def requesterCoord (dev : Nat) : Requester → Nat
  | .core o => ownerCoord dev o
  | .dma ch => dmaCoord dev ch
  | .tile t => tileCoord dev t 0
  | .stream i => streamCoord dev i

/-- A reply reaches its requester's interface, where n reply cells are free again; a reply for an endpoint that is not there is sunk
(R309, R310). -/
def State.replyArrive (s : State) (back : Requester) (n : Nat) (f : State → State) : State :=
  let c := requesterCoord s.devid back
  if s.endpointThere c then
    let s := f (s.replied c n)
    match back with
    | .core o => s.pump o
    | _ => s
  else s.count Reg.MESH_BAD_DST_CNT 1

/-- RD_DATA (R297): a reply of 32 bytes reaches its requester. -/
def execRdData (back : Requester) (a : BitVec 48) (index : BitVec 8) (data : List Byte) (poison : Bool) (s : State) : Host.Outcome State Fault Refusal :=
  .next (s.alive fun s => s.replyArrive back 1 fun s =>
    match back with
    | .dma ch => s.dmaRdData ch a.toNat index.toNat data poison
    | .core _ => s.answer (if poison then 5 else 0) a.toNat (.readValue (leNat (data.take 32)))
    | .tile _ => s
    | .stream _ => s)

/-- A STATUS for a sync operation (R354): FROZEN is sent again after 100 ns; another refusal is counted at the sender's interface; a
READ gives its value, or zero. -/
def State.syncReply (s : State) (back : Requester) (dev obj op arg wqn code why value : Nat) : State :=
  if code = 1 ∧ why = 3 then s.resendAdd ⟨dev, obj, op, arg, wqn, requesterCoord s.devid back, s.time + 100⟩
  else match back with
    | .core o =>
      let s := if code = 0 then s else (s.count (Reg.SYNC_ERR_CNT o) 1).fon (Reg.Q_STATUS_SYNC_ERR o)
      if op = 4 then s.emit (.readValue (if code = 0 then value else 0)) else s
    | .dma ch => if op = 2 ∨ op = 3 then (if code = 0 then s else s.dmaWatchRefused ch obj) else s.dmaSignalReply ch obj code
    | .tile _ => s
    | .stream _ => s

/-- A request that was answered BUSY is sent again under the next tag of its interface, which keeps its reply cells (R411). -/
def State.resendLater (s : State) (c : Nat) (e : Nat → Emit) : State :=
  (s.onIface c fun x => { x with tag := (x.tag + 1) % 256 }).againAdd (e (s.iface c).tag)

/-- The reply cells that a request's STATUS sets free: all that it reserved; none where it is sent again (R310, R354, R411). -/
def statusCells (code why : Nat) : Request → Nat
  | .sync _ _ _ _ _ => if code = 1 ∧ why = 3 then 0 else 1
  | .read _ n => if code = 1 ∧ why = 4 then 0 else (n.toNat + 31) / 32
  | .write _ _ => if code = 1 ∧ why = 4 then 0 else 1

/-- STATUS_REPLY (R297, R354, R411): the reply to a request of this device; a BUSY request is sent again after 1 µs. -/
def execStatusReply (back : Requester) (code : Fin 8) (why : BitVec 8) (value : Word) (req : Request) (s : State) : Host.Outcome State Fault Refusal :=
  .next (s.alive fun s => s.replyArrive back (statusCells code why.toNat req) fun s =>
    let src := requesterCoord s.devid back
    match req with
    | .sync dev obj op arg wqn => s.syncReply back dev.toNat obj.toNat op arg.toNat wqn.toNat code why.toNat value.toNat
    | .read a n =>
      if code.val = 1 ∧ why.toNat = 4 then
        s.resendLater src fun tag => .cell 16 (s.memCoord (s.addrDev a.toNat) (localPart a.toNat)) src tag false [rdPayload a.toNat ((n.toNat + 31) / 32)]
      else match back with
        | .dma ch => s.dmaStatus ch code fun w => w.isRead a.toNat
        | .core _ => s.answer code a.toNat (.readValue 0)
        | .tile _ => s
        | .stream _ => s
    | .write a data =>
      if code.val = 1 ∧ why.toNat = 4 then
        let l := maskBytes a.toNat data
        let type := s.writeType a.toNat (l.map Prod.fst)
        s.resendLater src fun tag => .cell type (s.memCoord (s.addrDev a.toNat) (localPart a.toNat)) src tag false
          (if type = 21 then fullCells l else maskCells a.toNat data)
      else match back with
        | .dma ch => s.dmaStatus ch code fun w => w.isWrite a.toNat
        | .core o => (s.answer code a.toNat .ack).storeAcked o
        | .tile _ => s
        | .stream _ => s)

/-! ### Cells a device does not take (R299, R314, R319) -/

/-- Whether a TYPE is one of a VN's (R297, R299, R319): on ESC every TYPE of the mesh; TYPE 21 from a link of generation 2 only. -/
def State.typeOk (s : State) (link : Option Nat) (vn type : Nat) : Bool :=
  let known := decide (type ≠ 21) || (match link with
    | some k => decide (2 ≤ s.fget (Reg.IBL_GEN_CUR k))
    | none => true)
  if vn = 7 then decide (type ≤ 3) else known && (decide (vnOf type = some vn) || (decide (vn = 5) && (vnOf type).isSome))

/-- BAD_TYPE_CELL (R299, R319, R353): a cell whose TYPE is reserved or not its VN's is discarded and counted; an RQ is answered BAD_TYPE.
A SYNC_OP whose OP, byte 0 of its payload, is above 4 is refused BAD_TYPE. -/
def execBadTypeCell (link : Option (Fin 12)) (vn : Fin 8) (type : Fin 32) (src : BitVec 30) (op : BitVec 8) (s : State) : Host.Outcome State Fault Refusal :=
  .next (s.alive fun s =>
    if s.typeOk (link.map Fin.val) vn type then
      s.iff (decide (type.val = 20) && decide (4 < op.toNat)) fun s => s.send (.status src.toNat 7 0 0 0)
    else
      let s := s.count Reg.MESH_TYPE_ERR_CNT 1
      if vn.val = 1 then s.send (.status src.toNat 7 0 0 0) else s)

/-- ESC_FORWARD (R314, R324): a cell for another device that came by link k goes on by this device's own entry, on ESC; one that came
on ESC, or whose entry is ON_ALT, is discarded; without a route it is refused (R309). tag: the parity of a tagged EV cell; flags, data:
its FLAGS and payload. -/
def execEscForward (k : Fin 12) (vn : Fin 8) (type : Fin 32) (dst : BitVec 22) (src : BitVec 30) (tag : Option Bool) (flags : BitVec 4) (data : List Byte) (s : State) : Host.Outcome State Fault Refusal :=
  .next (s.alive fun s =>
    let d := coDev dst.toNat
    let h := coHalf dst.toNat
    let i := 2 * d + h
    if d = s.devid then s
    else if vn.val = 5 ∨ (s.fbit (Reg.MESH_XROUTE_VALID i) && s.fbit (Reg.MESH_XROUTE_ON_ALT i)) = true then s.count Reg.MESH_XHOP_CNT 1
    else match s.egress d h with
      | none =>
        let s := s.count Reg.MESH_NOROUTE_CNT 1
        if vnOf type = some 1 then s.send (.status src.toNat 3 0 0 0) else s
      | some l =>
        let e : Emit := .esc l dst.toNat src.toNat type flags.toNat data
        (s.emit e).toLink l ((e.wire true).map fun w =>
          ⟨5, if vnOf type = some 0 then tag.map (fun p => (p, some k.val)) else none, if vnOf type = some 1 then some src.toNat else none, w⟩))

end Sys2Proof.Machine
end

