-- ==== Sys2Proof/Machine/Loads.lean ====
section
/-! DEFINITION. Loads and stores of the masters (R11, R20, R219, R221): memory, CSR space over the control network (R312), the host's
response pages (R287), a core's private addresses (R196, R216, R249, R336, R340, R353, R362, R363); control-network packets between
devices (R312, R319). -/

namespace Sys2Proof.Machine

/-! ### The control network to other devices (R312, R319) -/

/-- The code of a master in CtrlReq. -/
def masterCode : Master → Nat
  | .aon => 0
  | .jtag => 1
  | .pcie => 2
  | .app c _ => 3 + c
  | .seq i => 32 + i

/-- The words of a number, the least significant first. -/
def words16 (n v : Nat) : List Nat := (List.range n).map fun i => v / 2 ^ (16 * i) % 65536

/-- The number that words spell. -/
def ofWords (l : List Nat) : Nat := l.foldr (fun w v => w + 65536 * v) 0

/-- The header word of a packet with its tag. -/
def ctrlWord (packet tag : Nat) : Nat := (Config.ctrlHead packet).toNat * 256 + tag % 256

/-- A tag no outstanding request uses. -/
def State.ctrlTag (s : State) : Nat :=
  ((List.range 256).find? fun t => !(s.ctrls.any fun r => decide (r.tag = t)) && !(s.ctrlWait.any fun x => decide (x.1.tag = t))).getD 0

/-- The link toward another device on the board tree. -/
def State.treeLink (s : State) (d : Nat) : Nat := (Config.boardLink s.devid d).toNat % 12

/-- Waiting requests of who leave while fewer than eight of its are outstanding (R312). -/
def State.ctrlGo (s : State) (who : Nat) : State :=
  if 8 ≤ (s.ctrls.filter fun r => decide (r.who = who)).length then s
  else match s.ctrlWait.find? fun x => decide (x.1.who = who) with
    | some x =>
      let s := (s.onCtrlWait fun l => l.erase x).onCtrls fun l => l ++ [x.1]
      match x.2 with
      | .ctrlCell k w => s.sendLink k (.ctrlCell k w)
      | _ => s
    | none => s

/-- A request of who for device d enters the control network: a read or a write of an address (R312). -/
def State.ctrlSend (s : State) (who d : Nat) (write : Bool) (words : List Nat) : State :=
  let tag := s.ctrlTag
  (s.onCtrlWait fun l => l ++ [(⟨who, tag, write⟩, .ctrlCell (s.treeLink d) (ctrlWord (if write then 1 else 0) tag :: words))]).ctrlGo who

/-- A response of a packet to the device behind link k. -/
def State.ctrlAnswer (s : State) (k packet tag : Nat) (words : List Nat) : State :=
  s.sendLink k (.ctrlCell k (ctrlWord packet tag :: words))

/-- A response meets the oldest request of its tag: the master is answered, or the device behind a link; the next request that waits leaves. -/
def State.ctrlDone (s : State) (write : Bool) (tag : Nat) (words : List Nat) : State :=
  match s.ctrls.find? fun r => decide (r.tag = tag) && decide (r.write = write) with
  | none => s
  | some r =>
    let s := s.onCtrls fun l => l.erase r
    let s := if 16 ≤ r.who ∧ r.who < 28 then s.ctrlAnswer (r.who - 16) (if write then 3 else 2) tag words
      else s.emit (if write then .ack else .readValue (ofWords words))
    s.ctrlGo r.who

/-- The CSR offset of a local address. -/
def csrOff (a : Nat) : Nat := localPart a - 0x82000000000

/-- Whether a control-network address names a register of this device (R312). -/
def State.ctrlHere (s : State) (a : Nat) : Bool := s.isLocal a && (match placeOf (localPart a) with | .csr _ => true | _ => false)

/-- A read request of a master, from link k: the register's value is the answer, 0 where there is none; a request for another device goes
on (R312). -/
def State.ctrlRead (s : State) (k : Nat) (m : Master) (tag : Nat) (l : List Nat) : State :=
  let a := ofWords l
  if s.ctrlHere a then
    let p := if s.regOff (csrOff a) then (s, 0) else (s.csrWake (csrOff a)).regLoad m (csrOff a)
    p.1.ctrlAnswer k 2 tag (words16 2 p.2.toNat)
  else if s.isLocal a then s.ctrlAnswer k 2 tag [0, 0]
  else s.ctrlSend (16 + k) (s.addrDev a) false l

/-- A write request, likewise. -/
def State.ctrlWrite (s : State) (k : Nat) (m : Master) (tag : Nat) (l : List Nat) : State :=
  let a := ofWords (l.take 3)
  if s.ctrlHere a then (s.regWrite m (csrOff a) (BitVec.ofNat 32 (ofWords (l.drop 3)))).ctrlAnswer k 3 tag []
  else if s.isLocal a then s.ctrlAnswer k 3 tag []
  else s.ctrlSend (16 + k) (s.addrDev a) true l

/-- A packet of kind p (Config.ctrlHead; log entry 99) with its tag and its further words. -/
def State.ctrlTake (s : State) (k : Nat) (m : Master) (p : Option Nat) (tag : Nat) (r : List Nat) : State :=
  match p with
  | some 0 => s.ctrlRead k m tag (r.take 3)
  | some 1 => s.ctrlWrite k m tag (r.take 5)
  | some 2 => s.ctrlDone false tag (r.take 2)
  | some 3 => s.ctrlDone true tag []
  | _ => s

/-- CTRL (R312, R319): a CTRL cell arrives on link k with the words of a packet: a read or write request, made by a master of its level
(R494), is performed here and answered, or goes on toward its device; a response meets its request. The packets of a broadcast have
rows of their own (R480). -/
def execCtrl (k : Fin 12) (words : List (BitVec 16)) (m : Master) (s : State) : Host.Outcome State Fault Refusal :=
  .next (s.alive fun s =>
    match words.map BitVec.toNat with
    | [] => s
    | h :: r => s.ctrlTake k m ((List.range 4).find? fun p => decide (h / 4096 = (Config.ctrlHead p).toNat / 16)) (h % 256) r)

/-! ### CSR space (R11, R312) -/

/-- The words of 32 bits that a read of n bytes at o takes: one, two of an aligned 8-byte read, the containing one of a narrower read;
none for an access CSR space does not accept (R11). -/
def loadWords (o n : Nat) : List Nat :=
  if n = 4 ∧ o % 4 = 0 then [o]
  else if n = 8 ∧ o % 8 = 0 then [o, o + 4]
  else if n = 1 ∨ (n = 2 ∧ o % 2 = 0) then [o / 4 * 4]
  else []

/-- Reads of registers in order, with their values. -/
def State.regLoads (s : State) (m : Master) : List Nat → State × List Word
  | [] => (s, [])
  | o :: r =>
    let (s, w) := s.regLoad m o
    let (s, l) := State.regLoads s m r
    (s, w :: l)

/-- The value of a read of n bytes at o from the words it took. -/
def loadValue (o n : Nat) (l : List Word) : Nat :=
  match l with
  | [w] => if n < 4 then w.toNat / 2 ^ (8 * (o % 4)) % 2 ^ (8 * n) else w.toNat
  | _ => ofWords (l.flatMap fun w => words16 2 w.toNat)

/-- A read of n bytes at CSR offset o by master m (R11): NO_TARGET from an island that is off (R571); BAD_TYPE for an access that CSR
space does not accept (log entry 100). -/
def State.csrLoad (s : State) (m : Master) (o n : Nat) : State :=
  if s.regOff o then s.emit (.refused 3 (0x82000000000 + o))
  else if loadWords o n = [] then s.emit (.refused 7 (0x82000000000 + o))
  else
    let (s, l) := (s.csrWake o).regLoads m (loadWords o n)
    s.emit (.readValue (loadValue o n l))

/-- A write at CSR offset o by master m; a narrower or misaligned one is ignored (R11). Its reserved bits are taken as written back. -/
def State.csrStore (s : State) (m : Master) (o n v : Nat) : State :=
  ((accessWrites o n (BitVec.ofNat 64 v)).foldl (fun t w => t.regWrite m w.1 w.2) s).emit .ack

/-- An access of a CSR of another device travels on the board tree, an 8-byte one as two, lower first (R11, R312). -/
def State.csrRemote (s : State) (m : Master) (a n : Nat) (write : Option Nat) : State :=
  match m with
  | .seq _ => s.emit (if write.isSome then .ack else .readValue 0)
  | _ =>
    match write with
    | none => forL (loadWords a n) (fun o s => s.ctrlSend (masterCode m) (s.addrDev a) false (words16 3 o)) s
    | some v => forL (accessWrites a n (BitVec.ofNat 64 v)) (fun w s => s.ctrlSend (masterCode m) (s.addrDev a) true (words16 3 w.1 ++ words16 2 w.2.toNat)) s

/-- TB_CNT_READ (R417): a read of TB_CNT_LO returns the low word and latches the high word for TB_CNT_HI. -/
def execTbCntRead (m : Master) (s : State) : Host.Outcome State Fault Refusal :=
  .next (s.alive fun s => s.barFor m fun s => s.csrLoad m Reg.TB_CNT_LO 4)

/-! ### The host's response pages (R286, R287) -/

/-- A host read of n bytes at offset o of BAR2 (R287). -/
def State.bar2Read (s : State) (o n : Nat) : State :=
  let i := o / 0x2000
  let k := o % 0x2000
  if 32 ≤ i then s.emit (.readValue 0)
  else if k = 0 ∨ k = 0x100 then s.pop64 i (decide (k = 0x100)) (decide (n = 8))
  else if k = 0x10 ∨ k = 0x110 then s.pop128 i (decide (k = 0x110)) (decide (n = 16))
  else if k = 0x20 ∨ k = 0x120 then s.emit (.readValue (if n = 4 then s.hostStatus i (decide (k = 0x120)) else 0))
  else if 0x1000 ≤ k then s.emit (.readValue (leNat (((s.replayBytes i (decide (0x1800 ≤ k))).drop (k % 0x800)).take n)))
  else s.emit (.readValue 0)

/-! ### Private addresses of a core -/

/-- Whether core o is a sequencer core that runs, for its command port and its conversion unit. -/
def State.seqUnits (s : State) (o : Nat) : Bool := decide (o < 128) && s.ownerRuns o

/-- The CSR offset of owner o's register block (R227, R363). -/
def ownBlock (o : Nat) : Nat := if o < 128 then tileBase (o / 2) + 0x8000 + o % 2 * 0x1000 else 0x7500000 + (o - 128) * 0x10000

/-- A load in a queue window (R336): offset k of queue q's 64 bytes. Another size or alignment at a place of the window is not one the rule
names: the tag's is free, others are refused BAD_TYPE (log entry 100). -/
def State.windowLoad (s : State) (o q k n : Nat) (ecc : Ecc) : State :=
  if k = 0x30 ∧ n = 8 then s.qPop o q ecc
  else if 0x30 ≤ k then s.emit (.readValue 0)
  else if k = 0x28 ∧ n = 8 then s.emit (.readValue (((s.qHead o q).map Prod.snd).getD 0))
  else if 0x28 ≤ k then s.drawn.emit (.readValue (s.freeVal 64).toNat)
  else if k % n = 0 ∧ k + n ≤ 0x28 then s.emit (.readValue (leNat (((((s.qHead o q).map Prod.fst).getD []).drop k).take n)))
  else s.emit (.refused 7 (0x83000042000 + 0x40 * q + k))

/-- Whether n bytes at an offset are an access the conversion unit takes (R249): words, or a byte or half-word of CVU_BLK. -/
def cvuTakes (off n : Nat) : Bool :=
  (decide (off % 4 = 0) && decide (n % 4 = 0) && decide (0 < n) && decide (off + n ≤ 0x40280))
  || ((decide (n = 1) || (decide (n = 2) && decide (off % 2 = 0))) && decide (0x401A0 ≤ off) && decide (off + n ≤ 0x401D0))

/-- A load of n bytes at private offset off of core o (R20, R196, R216, R249, R336, R353, R362, R363). What a load of the command port or of
the transmit buffer returns is open (log entry 100). -/
def State.privateLoad (s : State) (m : Master) (o off n : Nat) (ecc : Ecc) : State :=
  let a := 0x83000000000 + off
  if ownMemory o off n then
    let (s, status, l) := s.localRead (whoOf m) 0 (ownAddr o off) n ecc false
    s.answer status a (.readValue (leNat l))
  else if o < 128 ∧ off = 0x40040 then
    s.emit (.readValue (32 - ((s.tile (o / 2)).port (decide (o % 2 = 1))).queue.length))
  else if o < 128 ∧ 0x40100 ≤ off ∧ off < 0x40280 then
    if cvuTakes off n then s.cvuAccess o [.load (off - 0x40000) n] else s.emit (.refused 7 a)
  else if off = 0x40300 then s.wdrain o
  else if 0x42000 ≤ off ∧ off < 0x42400 then s.windowLoad o ((off - 0x42000) / 0x40) (off % 0x40) n ecc
  else if (o < 128 ∧ 0x40000 ≤ off ∧ off < 0x40020) ∨ (0x44000 ≤ off ∧ off < 0x44200) then s.drawnN 8 |>.emit (.readValue (leNat ((s.freeVals 8 64).take n)))
  else if 0x60000 ≤ off ∧ off < 0x61000 then s.csrLoad m (ownBlock o + (off - 0x60000)) n
  else if 0x80000 ≤ off ∧ off < 0x180000 then
    if off % 16 = 0 then s.portOp o ((off - 0x80000) / 16) 4 0 else s.emit (.readValue 0)
  else s.answer 3 a .ack

/-- The accesses that a store of n bytes makes to the conversion unit. -/
def cvuStores (off n : Nat) (l : List (Nat × Byte)) : List CvuOp :=
  if n < 4 then [.bytes (off - 0x40000) (l.map Prod.snd)]
  else (wholeWords l).map fun x => .store (x.1 - 0x83000040000) (BitVec.ofNat 32 x.2)

/-- Bytes stored to the transmit buffer (R340). -/
def txBytes (t : List (List Byte)) (l : List (Nat × Byte)) : List (List Byte) :=
  l.foldl (fun t x =>
    let k := x.1 - 0x83000044000
    if k % 0x40 < 40 then t.set (k / 0x40) ((t.getD (k / 0x40) []).set (k % 0x40) x.2) else t) t

/-- A store of n bytes, l of them enabled, at private offset off of core o (R20, R196, R216, R249, R336, R340, R348, R353, R363). Stores to
sync ports are posted; a queue window ignores stores. -/
def State.privateStore (s : State) (m : Master) (o off n : Nat) (l : List (Nat × Byte)) (ecc : Ecc) : State :=
  let a := 0x83000000000 + off
  if ownMemory o off n then
    let (s, status) := s.localWrite (whoOf m) (l.map fun x => (ownAddr o (x.1 - 0x83000000000), x.2)) ecc
    s.answer status a .ack
  else if o < 128 ∧ 0x40000 ≤ off ∧ off < 0x40020 then
    (s.iff (s.seqUnits o) fun s =>
      s.portStores o ((wholeWords l).map fun x => ((x.1 - 0x83000040000) / 4, BitVec.ofNat 32 x.2))).emit .ack
  else if o < 128 ∧ 0x40100 ≤ off ∧ off < 0x40280 then
    if cvuTakes off n && decide (l.length = n) then (s.cvuAccess o (cvuStores off n l)).emit .ack else s.emit (.refused 7 a)
  else if 0x42000 ≤ off ∧ off < 0x42400 then s.emit .ack
  else if 0x44000 ≤ off ∧ off < 0x44200 then (s.onOwner o fun w => { w with tx := txBytes w.tx l }).emit .ack
  else if off = 0x44200 ∧ n = 4 then (s.qSend o [] (leNat (l.map Prod.snd))).emit .ack
  else if off = 0x44208 ∧ n = 4 then
    let w := leNat (l.map Prod.snd)
    (s.iff (s.ownerRuns o) fun s => s.clSend o (bits w 21 16) (bits w 15 0)).emit .ack
  else if 0x60000 ≤ off ∧ off < 0x61000 then s.csrStore m (ownBlock o + (off - 0x60000)) n (leNat (l.map Prod.snd))
  else if 0x80000 ≤ off ∧ off < 0x180000 then
    (forL (wholeWords l) (fun x s => s.portOp o ((x.1 - 0x83000080000) / 16) (x.1 % 16 / 4) x.2) s).emit .ack
  else s.answer 3 a .ack

/-! ### Loads and stores -/

/-- The answer to a memory access of a master: the host's refused read completes with Unsupported Request, and its refused write is
dropped (R398, R485). -/
def State.answerTo (s : State) (m : Master) (write : Bool) (status a : Nat) (e : Emit) : State :=
  if m = .pcie ∧ status ≠ 0 ∧ status ≠ 8 ∧ status ≠ 5 then (if write && decide (status = 4) then s else s.emit .unsupported)
  else s.answer status a e

/-- Whether an address is CSR space. -/
def isCsr (a : Nat) : Bool :=
  match placeOf (localPart a) with
  | .csr _ => true
  | _ => false

/-- A core that makes an access does not wait for an interrupt (R227, log entry 107). -/
def State.awake (s : State) (m : Master) : State :=
  match m with
  | .seq i => s.iff (decide (i < 128)) fun s => s.foff (Reg.SEQ_STATUS_WFI i)
  | _ => s

/-- EXCHANGE_READ (R11, R20, R221, R287): a load of n bytes, 1 to 64, from address a; with bar2 the host's read at offset a of BAR2. -/
def execExchangeRead (m : Master) (a : BitVec 48) (n : Fin 64) (ecc : Ecc) (bar2 : Bool) (s : State) : Host.Outcome State Fault Refusal :=
  .next (s.alive fun s => s.barFor m fun s =>
    let s := s.awake m
    let n := n.val + 1
    if bar2 then s.iff (decide (m = .pcie)) fun s => s.bar2Read a.toNat n
    else match privateOff m a.toNat with
    | some (o, off) => s.privateLoad m o off n ecc
    | none =>
      if isCsr a.toNat then (if s.isLocal a.toNat then s.csrLoad m (csrOff a.toNat) n else s.csrRemote m a.toNat n none)
      else
        let (s, status, l) := s.memRead (whoOf m) 0 a.toNat n ecc false
        if status = 10 then s.ddrHold ⟨whoOf m, .core (coreOwner m), localPart a.toNat, n, [], ecc⟩
        else s.answerTo m false status a.toNat (.readValue (leNat l)))

/-- A core's store that left the device is one it awaits (R362). -/
def State.storeLeft (s : State) (m : Master) : State :=
  match coreOwner m with
  | some o => s.onOwner o fun w => { w with out := w.out + 1 }
  | none => s

/-- EXCHANGE_WRITE (R11, R20, R221, R392, R402): a store of the bytes from address a whose enables are set, all in one granule. -/
def execExchangeWrite (m : Master) (a : BitVec 48) (data : List (Option Byte)) (ecc : Ecc) (s : State) : Host.Outcome State Fault Refusal :=
  .next (s.alive fun s => s.barFor m fun s =>
    let s := s.awake m
    let n := min 64 data.length
    let l := ((List.range n).filterMap fun i => (data.getD i none).map fun b => ((a.toNat + i) % 2 ^ 48, b))
    match privateOff m a.toNat with
    | some (o, off) => s.privateStore m o off n l ecc
    | none =>
      if isCsr a.toNat then
        let v := leNat (l.map Prod.snd)
        let k := if l.length = n then n else 0
        if s.isLocal a.toNat then s.csrStore m (csrOff a.toNat) k v else s.csrRemote m a.toNat k (some v)
      else
        let (s, status) := s.memWrite (whoOf m) l ecc
        if status = 10 then s.ddrHold ⟨whoOf m, .core (coreOwner m), localPart a.toNat, 0, l.map fun x => (localPart x.1, x.2), ecc⟩
        else (s.iff (decide (status = 8)) fun s => s.storeLeft m).answerTo m true status a.toNat .ack)

end Sys2Proof.Machine
end

