-- ==== Sys2Proof/Machine/Dispatch.lean ====
section
/-! DEFINITION. The meaning of every command, one arm each. -/

namespace Sys2Proof.Machine

def exec (i : Instr) (s : State) : Host.Outcome State Fault Refusal :=
  match i with
  | .pwrGoodRise devid standby => Sys2Proof.Machine.execPwrGoodRise devid standby s
  | .pwrGoodFall => Sys2Proof.Machine.execPwrGoodFall s
  | .supplyOutOfRange east => Sys2Proof.Machine.execSupplyOutOfRange east s
  | .supplyCollapse east => Sys2Proof.Machine.execSupplyCollapse east s
  | .vaonLow lost => Sys2Proof.Machine.execVaonLow lost s
  | .serdesSupplyLow streams links => Sys2Proof.Machine.execSerdesSupplyLow streams links s
  | .vddqLow c => Sys2Proof.Machine.execVddqLow c s
  | .suppliesAndAon vinOk pllOk pllUs => Sys2Proof.Machine.execSuppliesAndAon vinOk pllOk pllUs s
  | .trust answers image => Sys2Proof.Machine.execTrust answers image s
  | .twinImageDelivered image => Sys2Proof.Machine.execTwinImageDelivered image s
  | .rcvGo m => Sys2Proof.Machine.execRcvGo m s
  | .selfTest found unspared storeOk => Sys2Proof.Machine.execSelfTest found unspared storeOk s
  | .fabric code where_ checked tables => Sys2Proof.Machine.execFabric code where_ checked tables s
  | .memories slicesOk => Sys2Proof.Machine.execMemories slicesOk s
  | .ddrInstarTimeout => Sys2Proof.Machine.execDdrInstarTimeout s
  | .links board => Sys2Proof.Machine.execLinks board s
  | .linksTimeout board => Sys2Proof.Machine.execLinksTimeout board s
  | .load wellFormed regs bytes cores => Sys2Proof.Machine.execLoad wellFormed regs bytes cores s
  | .stageAlternate => Sys2Proof.Machine.execStageAlternate s
  | .serviceEnter m => Sys2Proof.Machine.execServiceEnter m s
  | .serviceLeave m => Sys2Proof.Machine.execServiceLeave m s
  | .perstDeassert refclk => Sys2Proof.Machine.execPerstDeassert refclk s
  | .cocoon m => Sys2Proof.Machine.execCocoon m s
  | .cocoonEnd wellFormed regs bytes cores => Sys2Proof.Machine.execCocoonEnd wellFormed regs bytes cores s
  | .substitutionRequest m tile east row col => Sys2Proof.Machine.execSubstitutionRequest m tile east row col s
  | .bcOpen session seqs mask first last offset nchunk digest => Sys2Proof.Machine.execBcOpen session seqs mask first last offset nchunk digest s
  | .bcChunk session index data => Sys2Proof.Machine.execBcChunk session index data s
  | .bcPoll session round => Sys2Proof.Machine.execBcPoll session round s
  | .bcHashEnd r => Sys2Proof.Machine.execBcHashEnd r s
  | .bcReport words => Sys2Proof.Machine.execBcReport words s
  | .bcRepair r session index data => Sys2Proof.Machine.execBcRepair r session index data s
  | .bcClose session => Sys2Proof.Machine.execBcClose session s
  | .brxClear m r => Sys2Proof.Machine.execBrxClear m r s
  | .chrOpen m => Sys2Proof.Machine.execChrOpen m s
  | .chrEntryWrite m idx word value => Sys2Proof.Machine.execChrEntryWrite m idx word value s
  | .chrNentWrite m count => Sys2Proof.Machine.execChrNentWrite m count s
  | .chrValidate m => Sys2Proof.Machine.execChrValidate m s
  | .chrValidationEnd => Sys2Proof.Machine.execChrValidationEnd s
  | .chrCommit m => Sys2Proof.Machine.execChrCommit m s
  | .chrAbort m => Sys2Proof.Machine.execChrAbort m s
  | .commitInstant => Sys2Proof.Machine.execCommitInstant s
  | .setLoad m sector => Sys2Proof.Machine.execSetLoad m sector s
  | .setStore m sector => Sys2Proof.Machine.execSetStore m sector s
  | .storeEnd verified => Sys2Proof.Machine.execStoreEnd verified s
  | .storeThrottleRelease => Sys2Proof.Machine.execStoreThrottleRelease s
  | .setXspi m answer => Sys2Proof.Machine.execSetXspi m answer s
  | .registerWrite m off size value rsvKept bar2 => Sys2Proof.Machine.execRegisterWrite m off size value rsvKept bar2 s
  | .voteScan upsets => Sys2Proof.Machine.execVoteScan upsets s
  | .slowTick => Sys2Proof.Machine.execSlowTick s
  | .faultEvent src kind index detail => Sys2Proof.Machine.execFaultEvent src kind index detail s
  | .faultWindowClose src => Sys2Proof.Machine.execFaultWindowClose src s
  | .faultClear m => Sys2Proof.Machine.execFaultClear m s
  | .lastingClear m src => Sys2Proof.Machine.execLastingClear m src s
  | .faultInject m src => Sys2Proof.Machine.execFaultInject m src s
  | .watchdogKick m key => Sys2Proof.Machine.execWatchdogKick m key s
  | .watchdogExpiry => Sys2Proof.Machine.execWatchdogExpiry s
  | .wingbeatToggle => Sys2Proof.Machine.execWingbeatToggle s
  | .twinEnable m => Sys2Proof.Machine.execTwinEnable m s
  | .twinWbEdge => Sys2Proof.Machine.execTwinWbEdge s
  | .wingbeatLoss partnerActive => Sys2Proof.Machine.execWingbeatLoss partnerActive s
  | .twinStartTimeout => Sys2Proof.Machine.execTwinStartTimeout s
  | .helloSend => Sys2Proof.Machine.execHelloSend s
  | .hello link gen standby devid => Sys2Proof.Machine.execHello link gen standby devid s
  | .partnerTimeout => Sys2Proof.Machine.execPartnerTimeout s
  | .take link byPlane => Sys2Proof.Machine.execTake link byPlane s
  | .swapRequest m partnerArmed => Sys2Proof.Machine.execSwapRequest m partnerArmed s
  | .swap link t => Sys2Proof.Machine.execSwap link t s
  | .swapAck link t => Sys2Proof.Machine.execSwapAck link t s
  | .swapStandby => Sys2Proof.Machine.execSwapStandby s
  | .swapActive => Sys2Proof.Machine.execSwapActive s
  | .swapCancel => Sys2Proof.Machine.execSwapCancel s
  | .switch link => Sys2Proof.Machine.execSwitch link s
  | .digestSend => Sys2Proof.Machine.execDigestSend s
  | .digest link first count sum => Sys2Proof.Machine.execDigest link first count sum s
  | .jrxPllWrite m p rate => Sys2Proof.Machine.execJrxPllWrite m p rate s
  | .pllLock p => Sys2Proof.Machine.execPllLock p s
  | .streamEnable m idx => Sys2Proof.Machine.execStreamEnable m idx s
  | .streamDisable m idx => Sys2Proof.Machine.execStreamDisable m idx s
  | .tapEnable m idx on => Sys2Proof.Machine.execTapEnable m idx on s
  | .blockLock l => Sys2Proof.Machine.execBlockLock l s
  | .embLock l => Sys2Proof.Machine.execEmbLock l s
  | .laneLockLoss l shErr badMarkers => Sys2Proof.Machine.execLaneLockLoss l shErr badMarkers s
  | .sysrefEdge offGrid => Sys2Proof.Machine.execSysrefEdge offGrid s
  | .elasticRelease idx arrivals written => Sys2Proof.Machine.execElasticRelease idx arrivals written s
  | .alignTimeout idx => Sys2Proof.Machine.execAlignTimeout idx s
  | .multiblockReceive idx m result shErr => Sys2Proof.Machine.execMultiblockReceive idx m result shErr s
  | .encoderCycle idx stamp index samples corrected => Sys2Proof.Machine.execEncoderCycle idx stamp index samples corrected s
  | .eventLogClose idx => Sys2Proof.Machine.execEventLogClose idx s
  | .tapRecordAck idx => Sys2Proof.Machine.execTapRecordAck idx s
  | .encoderBoundary idx => Sys2Proof.Machine.execEncoderBoundary idx s
  | .coreEnable m n => Sys2Proof.Machine.execCoreEnable m n s
  | .initPassEnd n => Sys2Proof.Machine.execInitPassEnd n s
  | .coreDisable m n => Sys2Proof.Machine.execCoreDisable m n s
  | .evCellAccept n imm ep events link => Sys2Proof.Machine.execEvCellAccept n imm ep events link s
  | .arrival n errs => Sys2Proof.Machine.execArrival n errs s
  | .stepToken n errs scrub => Sys2Proof.Machine.execStepToken n errs scrub s
  | .plasticityClearEnd n => Sys2Proof.Machine.execPlasticityClearEnd n s
  | .commitRow n errs => Sys2Proof.Machine.execCommitRow n errs s
  | .stepGeneratorEnable m => Sys2Proof.Machine.execStepGeneratorEnable m s
  | .stepGeneratorStop m => Sys2Proof.Machine.execStepGeneratorStop m s
  | .stepNominalInstant => Sys2Proof.Machine.execStepNominalInstant s
  | .emissionStepComplete => Sys2Proof.Machine.execEmissionStepComplete s
  | .stretchLimit => Sys2Proof.Machine.execStretchLimit s
  | .contextBoundary idx => Sys2Proof.Machine.execContextBoundary idx s
  | .outputRecord n j grade u => Sys2Proof.Machine.execOutputRecord n j grade u s
  | .pulseEnd p => Sys2Proof.Machine.execPulseEnd p s
  | .levelReturn p => Sys2Proof.Machine.execLevelReturn p s
  | .gridEdge p => Sys2Proof.Machine.execGridEdge p s
  | .tbCntRead m => Sys2Proof.Machine.execTbCntRead m s
  | .syncArm m => Sys2Proof.Machine.execSyncArm m s
  | .syncSlew => Sys2Proof.Machine.execSyncSlew s
  | .timerEnable k => Sys2Proof.Machine.execTimerEnable k s
  | .timerReset k => Sys2Proof.Machine.execTimerReset k s
  | .timerIncrement k ticks => Sys2Proof.Machine.execTimerIncrement k ticks s
  | .timerMatch k => Sys2Proof.Machine.execTimerMatch k s
  | .timerCompareCommit k hi => Sys2Proof.Machine.execTimerCompareCommit k hi s
  | .timerPeriodCommit k hi => Sys2Proof.Machine.execTimerPeriodCommit k hi s
  | .trigInEdge k rising => Sys2Proof.Machine.execTrigInEdge k rising s
  | .descriptorEnqueue idx stores last => Sys2Proof.Machine.execDescriptorEnqueue idx stores last s
  | .descriptorDispatch t => Sys2Proof.Machine.execDescriptorDispatch t s
  | .nop t odd => Sys2Proof.Machine.execNop t odd s
  | .fetch t stalled ecc => Sys2Proof.Machine.execFetch t stalled ecc s
  | .fetchItem t run q => Sys2Proof.Machine.execFetchItem t run q s
  | .mma t waited => Sys2Proof.Machine.execMma t waited s
  | .drain t ecc => Sys2Proof.Machine.execDrain t ecc s
  | .tset t => Sys2Proof.Machine.execTset t s
  | .notify t eng => Sys2Proof.Machine.execNotify t eng s
  | .descriptorEnd t eng => Sys2Proof.Machine.execDescriptorEnd t eng s
  | .boundWrite m t b closed count => Sys2Proof.Machine.execBoundWrite m t b closed count s
  | .tileReset m t => Sys2Proof.Machine.execTileReset m t s
  | .haltClear m t odd => Sys2Proof.Machine.execHaltClear m t odd s
  | .seqRun m idx => Sys2Proof.Machine.execSeqRun m idx s
  | .seqReset m idx => Sys2Proof.Machine.execSeqReset m idx s
  | .machineTimer idx => Sys2Proof.Machine.execMachineTimer idx s
  | .cvuEncode idx stores ctl => Sys2Proof.Machine.execCvuEncode idx stores ctl s
  | .cvuDecode idx stores ctl => Sys2Proof.Machine.execCvuDecode idx stores ctl s
  | .cvuConversionEnd idx => Sys2Proof.Machine.execCvuConversionEnd idx s
  | .exchangeRead m a n ecc bar2 => Sys2Proof.Machine.execExchangeRead m a n ecc bar2 s
  | .exchangeWrite m a data ecc => Sys2Proof.Machine.execExchangeWrite m a data ecc s
  | .slicePatrolScrub idx g ecc => Sys2Proof.Machine.execSlicePatrolScrub idx g ecc s
  | .seqPatrolScrub idx w ecc => Sys2Proof.Machine.execSeqPatrolScrub idx w ecc s
  | .doorbell idx arg => Sys2Proof.Machine.execDoorbell idx arg s
  | .kvAppend m idx u n => Sys2Proof.Machine.execKvAppend m idx u n s
  | .kvAccept m idx u n => Sys2Proof.Machine.execKvAccept m idx u n s
  | .kvRollback m idx u => Sys2Proof.Machine.execKvRollback m idx u s
  | .kvReset m idx u => Sys2Proof.Machine.execKvReset m idx u s
  | .kvOtherOp m idx u op n => Sys2Proof.Machine.execKvOtherOp m idx u op n s
  | .kvDisable m idx u => Sys2Proof.Machine.execKvDisable m idx u s
  | .ctxPush m idx lo hi => Sys2Proof.Machine.execCtxPush m idx lo hi s
  | .rqPost m idx v => Sys2Proof.Machine.execRqPost m idx v s
  | .pop64 idx cls size aligned => Sys2Proof.Machine.execPop64 idx cls size aligned s
  | .pop128 idx cls size aligned => Sys2Proof.Machine.execPop128 idx cls size aligned s
  | .replayRead idx cls off size => Sys2Proof.Machine.execReplayRead idx cls off size s
  | .rdReq via dst a nm1 ecc => Sys2Proof.Machine.execRdReq via dst a nm1 ecc s
  | .wrReq via dst a data ecc => Sys2Proof.Machine.execWrReq via dst a data ecc s
  | .wrFull via dst a data ecc => Sys2Proof.Machine.execWrFull via dst a data ecc s
  | .atomReq via dst a op x y ecc => Sys2Proof.Machine.execAtomReq via dst a op x y ecc s
  | .rdData back a index data poison => Sys2Proof.Machine.execRdData back a index data poison s
  | .statusReply back code why value req => Sys2Proof.Machine.execStatusReply back code why value req s
  | .fwd c src req ecc => Sys2Proof.Machine.execFwd c src req ecc s
  | .badTypeCell link vn type src op => Sys2Proof.Machine.execBadTypeCell link vn type src op s
  | .escForward k vn type dst src tag flags data => Sys2Proof.Machine.execEscForward k vn type dst src tag flags data s
  | .ctrl k words m => Sys2Proof.Machine.execCtrl k words m s
  | .linkEnable m k => Sys2Proof.Machine.execLinkEnable m k s
  | .linkUp k lanes peerWidth genMin genMax dev peer => Sys2Proof.Machine.execLinkUp k lanes peerWidth genMin genMax dev peer s
  | .codewordReceive k ok corrected seq flit0 flit1 cells left => Sys2Proof.Machine.execCodewordReceive k ok corrected seq flit0 flit1 cells left s
  | .nak k seq => Sys2Proof.Machine.execNak k seq s
  | .linkLost k => Sys2Proof.Machine.execLinkLost k s
  | .linkRetrainRequest m k width => Sys2Proof.Machine.execLinkRetrainRequest m k width s
  | .linkRetrainAuto k => Sys2Proof.Machine.execLinkRetrainAuto k s
  | .tsyncSend k frac => Sys2Proof.Machine.execTsyncSend k frac s
  | .tsyncRequest k no t1 f2 f3 => Sys2Proof.Machine.execTsyncRequest k no t1 f2 f3 s
  | .tsyncReply k no t2 t3 f4 => Sys2Proof.Machine.execTsyncReply k no t2 t3 f4 s
  | .qSend o stores lenm1 queue dest => Sys2Proof.Machine.execQSend o stores lenm1 queue dest s
  | .qSendMulticast o stores lenm1 => Sys2Proof.Machine.execQSendMulticast o stores lenm1 s
  | .qmsg dst q lenm1 first last src alt data ecc => Sys2Proof.Machine.execQmsg dst q lenm1 first last src alt data ecc s
  | .qmsgReply o qn code why n => Sys2Proof.Machine.execQmsgReply o qn code why n s
  | .qmsgResend o qn => Sys2Proof.Machine.execQmsgResend o qn s
  | .qmsgReplyTimeout o qn => Sys2Proof.Machine.execQmsgReplyTimeout o qn s
  | .mcTimeout o => Sys2Proof.Machine.execMcTimeout o s
  | .queuePop o q ecc => Sys2Proof.Machine.execQueuePop o q ecc s
  | .queueOpen m o q ie ringLen => Sys2Proof.Machine.execQueueOpen m o q ie ringLen s
  | .queueClose m o q => Sys2Proof.Machine.execQueueClose m o q s
  | .combArm m o idx auto mode queue expect => Sys2Proof.Machine.execCombArm m o idx auto mode queue expect s
  | .combDisarm m o idx => Sys2Proof.Machine.execCombDisarm m o idx s
  | .qCladd o stores slot qn => Sys2Proof.Machine.execQCladd o stores slot qn s
  | .clAdd dst slot data => Sys2Proof.Machine.execClAdd dst slot data s
  | .clSum dst slot count data => Sys2Proof.Machine.execClSum dst slot count data s
  | .syncSignal dst idx v src => Sys2Proof.Machine.execSyncSignal dst idx v src s
  | .syncSet dst idx v src => Sys2Proof.Machine.execSyncSet dst idx v src s
  | .syncWatchGe dst idx v wqn src => Sys2Proof.Machine.execSyncWatchGe dst idx v wqn src s
  | .syncWatchEq dst idx v wqn src => Sys2Proof.Machine.execSyncWatchEq dst idx v wqn src s
  | .syncRead dst idx src => Sys2Proof.Machine.execSyncRead dst idx src s
  | .syncResend => Sys2Proof.Machine.execSyncResend s
  | .syncNotice dst q time obj dev kind value thr eq src => Sys2Proof.Machine.execSyncNotice dst q time obj dev kind value thr eq src s
  | .syncAdopt m o => Sys2Proof.Machine.execSyncAdopt m o s
  | .syncFreeze m o => Sys2Proof.Machine.execSyncFreeze m o s
  | .syncUnfreeze m o => Sys2Proof.Machine.execSyncUnfreeze m o s
  | .qWdrain o => Sys2Proof.Machine.execQWdrain o s
  | .dmaStart m ch ie sel => Sys2Proof.Machine.execDmaStart m ch ie sel s
  | .dmaPause m ch => Sys2Proof.Machine.execDmaPause m ch s
  | .dmaPaused ch => Sys2Proof.Machine.execDmaPaused ch s
  | .dmaResume m ch => Sys2Proof.Machine.execDmaResume m ch s
  | .dmaDisable m ch => Sys2Proof.Machine.execDmaDisable m ch s
  | .dmaProgramFetch ch k ecc => Sys2Proof.Machine.execDmaProgramFetch ch k ecc s
  | .move ch n ecc => Sys2Proof.Machine.execMove ch n ecc s
  | .loop ch => Sys2Proof.Machine.execLoop ch s
  | .endloop ch => Sys2Proof.Machine.execEndloop ch s
  | .wait ch => Sys2Proof.Machine.execWait ch s
  | .dmaSignal ch => Sys2Proof.Machine.execDmaSignal ch s
  | .dmaEnd ch => Sys2Proof.Machine.execDmaEnd ch s
  | .dmaBadOp ch => Sys2Proof.Machine.execDmaBadOp ch s
  | .dmaNotice ch obj thr eq kind => Sys2Proof.Machine.execDmaNotice ch obj thr eq kind s
  | .dmaWatchResend ch => Sys2Proof.Machine.execDmaWatchResend ch s
  | .ddrEnable m c => Sys2Proof.Machine.execDdrEnable m c s
  | .ddrRetrainRequest m c => Sys2Proof.Machine.execDdrRetrainRequest m c s
  | .ddrRetrainPeriod c => Sys2Proof.Machine.execDdrRetrainPeriod c s
  | .ddrRetrainTemp c celsius => Sys2Proof.Machine.execDdrRetrainTemp c celsius s
  | .ddrRetrainGrant => Sys2Proof.Machine.execDdrRetrainGrant s
  | .ddrRetrainEnd c celsius => Sys2Proof.Machine.execDdrRetrainEnd c celsius s
  | .ddrRetrainTimeout c => Sys2Proof.Machine.execDdrRetrainTimeout c s
  | .ddrAlert c wcrc again => Sys2Proof.Machine.execDdrAlert c wcrc again s
  | .ddrBusyResend => Sys2Proof.Machine.execDdrBusyResend s
  | .ddrPatrolRead c line ecc => Sys2Proof.Machine.execDdrPatrolRead c line ecc s
  | .powerWindow west east => Sys2Proof.Machine.execPowerWindow west east s
  | .thermalWarning sensor celsius => Sys2Proof.Machine.execThermalWarning sensor celsius s
  | .thermalStop sensor => Sys2Proof.Machine.execThermalStop sensor s
  | .thermalRestart celsius => Sys2Proof.Machine.execThermalRestart celsius s
  | .roostEntry idx request wfi0 wfi1 => Sys2Proof.Machine.execRoostEntry idx request wfi0 wfi1 s
  | .roostWake idx cause => Sys2Proof.Machine.execRoostWake idx cause s
  | .islandWakeWrite m idx => Sys2Proof.Machine.execIslandWakeWrite m idx s
  | .wakeEnd idx => Sys2Proof.Machine.execWakeEnd idx s
  | .brownout idx => Sys2Proof.Machine.execBrownout idx s
  | .rampEnd h dense => Sys2Proof.Machine.execRampEnd h dense s
  | .islandOff m idx off => Sys2Proof.Machine.execIslandOff m idx off s
  | .measureExtend m idx => Sys2Proof.Machine.execMeasureExtend m idx s
  | .attestSign m mask => Sys2Proof.Machine.execAttestSign m mask s
  | .signEnd => Sys2Proof.Machine.execSignEnd s
  | .debugUnlock m => Sys2Proof.Machine.execDebugUnlock m s
  | .supplyReturn supply => Sys2Proof.Machine.execSupplyReturn supply s
  | .ddrTrainingEnd c ok celsius => Sys2Proof.Machine.execDdrTrainingEnd c ok celsius s
  | .pcieLinkChange up => Sys2Proof.Machine.execPcieLinkChange up s
  | .pcieConfigRequest write busMaster memEnable mps mrrs => Sys2Proof.Machine.execPcieConfigRequest write busMaster memEnable mps mrrs s
  | .hostCompletion ch ok data => Sys2Proof.Machine.execHostCompletion ch ok data s
  | .dmaReplyTimeout ch => Sys2Proof.Machine.execDmaReplyTimeout ch s

end Sys2Proof.Machine
end

