-- ==== Sys2Proof/Safety.lean ====
section
/-! DEFINITION. What counts as a safe run: every step answers a next state, and the tables of the state keep their one
canonical form, so that equal machines are equal data. -/

namespace Sys2Proof.Machine

/-- Every table of the state is in canonical form. -/
def State.canonical (s : State) : Bool :=
  tabWf regReset s.csr && s.mem.wf && tabWf (fun _ => false) s.bad
  && tabWf (fun _ => Timer.init) s.tb.timers && tabWf (fun _ => PinSt.init) s.tb.pins && tabWf (fun _ => none) s.tb.pairs
  && tabWf (fun _ => Stream.init) s.streams && tabWf (fun _ => CoreSt.init) s.cores && tabWf (fun _ => LinkSt.init) s.links
  && tabWf (fun _ => TileSt.init) s.tiles && tabWf (fun _ => SeqSt.init) s.seqs && tabWf (fun _ => Cvu.init) s.cvus
  && tabWf (fun _ => OwnerSt.init) s.owners && tabWf (fun _ => Iface.init) s.ifaces && tabWf (fun _ => TokSt.init) s.toks && tabWf (fun _ => DmaSt.init) s.dmas
  && tabWf (fun _ => DdrSt.init) s.ddrs && tabWf (fun _ => Receiver.init) s.bc
  && s.store.dataA.wf && s.store.dataB.wf && tabWf (fun _ => SectorCopy.init) s.store.copyA
  && tabWf (fun _ => SectorCopy.init) s.store.copyB && s.trust.staging.wf

/-- An outcome that is a next state. -/
def Goes (o : Host.Outcome State Fault Refusal) : Prop := ∃ t, o = .next t

/-- The device takes a write of master m to the register at o: no chip reset is held, the BARs are open where m is the
host, m reaches the register, no Cocoon or switched-off island hides it, and m is at or above its class (R474, R485, R495,
R571). -/
def State.admits (s : State) (m : Master) (o : Nat) : Bool :=
  !s.down && (m != .pcie || s.barOpen) && reaches m o && !s.cocoonHides m o && !s.regOff o && s.mayAccess m o

/-- The registers a write of the register at o may change beside what it commands: the state of the island it wakes (R567) and a batch
of settings that it makes stale (R508), and the flag of its block that says a change was ignored. -/
def accessRegs (o : Nat) : List Nat :=
  [Reg.CHR_STATUS, Reg.CHR_FAIL, Reg.CHR_FAIL_CNT, Reg.CHR_STALE_ADDR] ++
    (ignoredRef o).toList.map FieldRef.off ++ (regIsland o).toList.flatMap fun i => [Reg.PWR_ISL_STAT i, Reg.PWR_ISL_STAT (72 + i / 32)]

/-- The registers of a numbered unit or array: f 0 to f (n − 1). -/
def each (n : Nat) (f : Nat → Nat) : List Nat := (List.range n).map f

/-- The registers of the arrays of several units: f i j for i below m and j below n. -/
def each2 (m n : Nat) (f : Nat → Nat → Nat) : List Nat := (List.range m).flatMap fun i => (List.range n).map (f i)

/-- The bases of the region sets (R395, R396). -/
def regionSets : List Nat :=
  each 128 rsetSeq ++ [rsetApp, rsetPcie, rsetTb] ++ each 64 rsetTile ++ each 2 rsetBulk ++ each 16 rsetLink ++ each 32 rsetIng

/-- The registers an access of memory may change beside the memory: the ECC, region and routing records and counters, the island it
wakes, a core that waits for an interrupt, and the DMA channel whose request is answered. -/
def memorySide : List Nat :=
  [Reg.MESH_BAD_DST_CNT, Reg.MESH_NOROUTE_CNT, Reg.MESH_RANK_MISS_CNT] ++ each 102 Reg.PWR_ISL_STAT
  ++ each 16 Reg.IBL_DROP_CNT ++ each 32 Reg.ING_KV_GUARD_CNT
  ++ each 8 Reg.DDR_BUSY_CNT ++ each 8 Reg.DDR_CE_CNT ++ each 8 Reg.DDR_ERR_ADDR_LO ++ each 8 Reg.DDR_ERR_ADDR_HI
  ++ each 8 Reg.DDR_ERR_INFO ++ each 8 Reg.DDR_UE_CNT ++ each 8 Reg.DDR_FWD_CNT
  ++ each 1024 Reg.NC_CE_CNT ++ each 1024 Reg.NC_STATUS ++ each 1024 Reg.NC_UE_ADDR ++ each 1024 Reg.NC_UE_CNT
  ++ each 128 Reg.SEQ_STATUS ++ each 128 Reg.SEQ_CE_CNT ++ each 128 Reg.SEQ_UE_ADDR ++ each 128 Reg.SEQ_UE_CNT
  ++ each2 64 4 Reg.TILE_SLC_CE_CNT ++ each2 64 4 Reg.TILE_SLC_UE_CNT ++ each2 64 4 Reg.TILE_SLC_UE_ADDR_LO
  ++ each2 64 4 Reg.TILE_SLC_UE_ADDR_HI
  ++ regionSets.flatMap (fun b => [Reg.REG_VIOL_LO b, Reg.REG_VIOL_HI b, Reg.REG_VIOL_INFO b, Reg.REG_VIOL_CNT b])
  ++ each 1056 Reg.DMA_STATUS ++ each 1056 Reg.DMA_PC ++ each 1056 Reg.DMA_DONE ++ each 1056 Reg.DMA_FAULT_LO
  ++ each 1056 Reg.DMA_FAULT_HI ++ each 2 Reg.BDMA_BYTE_CNT ++ each 2 Reg.BDMA_ERR_CNT ++ each 64 Reg.TDMA_BYTE_CNT
  ++ each 64 Reg.TDMA_ERR_CNT

/-- The registers other than the one written that a write of some register may change: commands, status and counters of the blocks,
and what a unit that is disabled, reset or switched off gives up. -/
def writeSide : List Nat :=
  [Reg.AON_ACCESS, Reg.AON_ID, Reg.AON_LIMITS, Reg.AON_PRIV_CNT, Reg.AON_STATUS, Reg.AON_TWIN_CTL, Reg.AON_TWIN_LAST_HI,
    Reg.AON_TWIN_LAST_LO, Reg.AON_TWIN_SHADOW_DROP_CNT, Reg.AON_TWIN_STATUS, Reg.AON_TWIN_VER, Reg.CHR_CMD,
    Reg.CHR_COMMIT_CNT, Reg.CHR_DONE_STEP, Reg.CHR_DONE_T_HI, Reg.CHR_DONE_T_LO, Reg.CHR_FAIL, Reg.CHR_FAIL_CNT,
    Reg.CHR_LEAD, Reg.CHR_NENT, Reg.CHR_STALE_ADDR, Reg.CHR_STATUS, Reg.DDR_ILV, Reg.FLT_CTL, Reg.FLT_REC_SOURCES,
    Reg.FLT_REC_STATUS, Reg.FLT_STATUS, Reg.FLT_WDOG, Reg.FLT_WDOG_KICK, Reg.INST_CAP, Reg.INST_CTL, Reg.INST_READY_US,
    Reg.INST_STATUS, Reg.INST_SUB_REQ, Reg.JRX_STATUS, Reg.JRX_SYSREF, Reg.MESH_CTL, Reg.MESH_NOROUTE_CNT,
    Reg.MESH_RANK_MISS_CNT, Reg.MESH_STATUS, Reg.PWR_STATUS, Reg.SET_CMD, Reg.SET_STATUS, Reg.SET_UE_CNT,
    Reg.TB_ADM_BOUND, Reg.TB_ADM_STATUS, Reg.TB_OUT_STATUS, Reg.TB_STEP_CTL, Reg.TB_SYNC_CFG, Reg.TB_SYNC_STATUS,
    Reg.TRU_CTL, Reg.TRU_IMG_SVN, Reg.TRU_RCV_LEN, Reg.TRU_SRV_PAGE, Reg.TRU_STATUS, Reg.TRU_SVN]
  ++ each 2 Reg.BDMA_BYTE_CNT ++ each 1152 Reg.BRX_MISS ++ each 1152 Reg.BRX_STATUS ++ each 8 Reg.DDR_BUSY_CNT
  ++ each 8 Reg.DDR_CE_CNT ++ each 8 Reg.DDR_CTL ++ each 8 Reg.DDR_ERR_ADDR_HI ++ each 8 Reg.DDR_ERR_ADDR_LO
  ++ each 8 Reg.DDR_ERR_INFO ++ each 8 Reg.DDR_STATUS ++ each 8 Reg.DDR_UE_CNT ++ each 1056 Reg.DMA_DONE
  ++ each 1056 Reg.DMA_FAULT_HI ++ each 1056 Reg.DMA_FAULT_LO ++ each2 1056 4 Reg.DMA_LOOP_CNT
  ++ each2 1056 4 Reg.DMA_LOOP_PC ++ each 1056 Reg.DMA_PC ++ each 1056 Reg.DMA_STATUS ++ each 26 Reg.FLT_SRC_STAT
  ++ each 16 Reg.IBL_CTL ++ each 16 Reg.IBL_DROP_CNT ++ each 16 Reg.IBL_STATUS ++ each 16 Reg.IBL_TRAV
  ++ each 32 Reg.ING_BR_CTL ++ each 32 Reg.ING_BR_FRAME ++ each 32 Reg.ING_CTL ++ each 32 Reg.ING_CTX_CTL
  ++ each 32 Reg.ING_CTX_FULL_CNT ++ each 32 Reg.ING_CTX_REJ_CNT ++ each 32 Reg.ING_CTX_STATUS ++ each 32 Reg.ING_GAP_CNT
  ++ each2 32 2 Reg.ING_KV_CFG ++ each 32 Reg.ING_KV_GUARD_CNT ++ each2 32 2 Reg.ING_KV_OLDEST
  ++ each2 32 2 Reg.ING_KV_PTR ++ each2 32 2 Reg.ING_KV_REFUSE_CNT ++ each2 32 2 Reg.ING_KV_STAT ++ each 32 Reg.ING_LATENCY
  ++ each 32 Reg.ING_RING_WP_HI ++ each 32 Reg.ING_RING_WP_LO ++ each 32 Reg.ING_RQ_OVF_CNT ++ each 32 Reg.ING_STATUS
  ++ each 32 Reg.ING_WAKE_CNT ++ each 32 Reg.ING_WAKE_NACK_CNT ++ each 32 Reg.ING_WIN_MISS_CNT ++ each 32 Reg.ING_WRAP_CNT
  ++ each 32 Reg.INST_NROW ++ each 64 Reg.INST_REC ++ each 8 Reg.INST_TROW ++ each 64 Reg.JRX_LANE_STAT
  ++ each 8 Reg.JRX_PLL ++ each 16 Reg.MESH_XROUTE ++ each 1024 Reg.NC_CE_CNT ++ each 1024 Reg.NC_CTL
  ++ each 1024 Reg.NC_EMIT_STATUS ++ each 1024 Reg.NC_EVERR_CNT ++ each 1024 Reg.NC_LATE_CNT ++ each 1024 Reg.NC_PL_EPOCH
  ++ each 1024 Reg.NC_PL_STATUS ++ each 1024 Reg.NC_RX_CELL_CNT ++ each 1024 Reg.NC_STATUS ++ each 1024 Reg.NC_UE_ADDR
  ++ each 1024 Reg.NC_UE_CNT ++ each 1024 Reg.NC_WHEEL_FULL_CNT ++ each 2 Reg.PWR_HALF_OP ++ each 2 Reg.PWR_HALF_STAT
  ++ each 102 Reg.PWR_ISL_CTL ++ each 102 Reg.PWR_ISL_STAT ++ each2 137 16 Reg.Q_CFG ++ each2 137 64 Reg.Q_COMB
  ++ each2 137 64 Reg.Q_COMB_CNT ++ each 137 Reg.Q_LOST_CNT ++ each 137 Reg.Q_MC_DONE ++ each 137 Reg.Q_MC_FAIL
  ++ each 137 Reg.Q_NOTICE_DROP_CNT ++ each2 137 16 Reg.Q_STAT ++ each 137 Reg.Q_STATUS ++ each 137 Reg.Q_TX_FAIL_CNT
  ++ each 128 Reg.SEQ_CE_CNT ++ each 128 Reg.SEQ_CTL ++ each 128 Reg.SEQ_STATUS ++ each 128 Reg.SEQ_UE_ADDR
  ++ each 128 Reg.SEQ_UE_CNT ++ each 1024 Reg.SET_BUF ++ each 137 Reg.SYNC_CTL ++ each2 137 48 Reg.SYNC_LAST
  ++ each 137 Reg.SYNC_ORPHAN_CNT ++ each2 137 48 Reg.SYNC_STATE ++ each2 137 48 Reg.SYNC_VAL ++ each 64 Reg.TDMA_BYTE_CNT
  ++ each2 64 8 Reg.TILE_BOUND ++ each 64 Reg.TILE_CTL ++ each 64 Reg.TILE_ERR ++ each 64 Reg.TILE_FETCH_GR
  ++ each 64 Reg.TILE_RESPEC_CNT ++ each2 64 2 Reg.TILE_RING ++ each2 64 4 Reg.TILE_SLC_CE_CNT
  ++ each2 64 4 Reg.TILE_SLC_UE_ADDR_HI ++ each2 64 4 Reg.TILE_SLC_UE_ADDR_LO ++ each2 64 4 Reg.TILE_SLC_UE_CNT
  ++ each 64 Reg.TILE_SQUASH_CNT ++ each 64 Reg.TILE_STATUS ++ each2 64 8 Reg.TILE_TQ ++ each 16 Reg.TMR_CAPT_HI
  ++ each 16 Reg.TMR_CAPT_LO ++ each 16 Reg.TMR_CAP_HI ++ each 16 Reg.TMR_CAP_LO ++ each 16 Reg.TMR_CMP_HI
  ++ each 16 Reg.TMR_CMP_LO ++ each 16 Reg.TMR_CNT_HI ++ each 16 Reg.TMR_CNT_LO ++ each 16 Reg.TMR_CTL
  ++ each 16 Reg.TMR_MATCH_CNT ++ each 16 Reg.TMR_PERIOD_HI ++ each 16 Reg.TMR_PERIOD_LO ++ each 16 Reg.TMR_PRE
  ++ each 16 Reg.TMR_STATUS ++ each 8 Reg.TRU_ATT_PK ++ each 8 Reg.TRU_CHAL ++ each 2 Reg.TRU_DEVICE_ID
  ++ each 8 Reg.TRU_EXT_DATA ++ each 64 Reg.TRU_MEAS ++ each 8 Reg.TRU_NONCE ++ each2 137 96 Reg.WATCH_W0
  ++ memorySide

/-- What a chip reset leaves (R533, R583 to R585): every register at its reset value but the copy of the fault record and PREV_VALID, every
unit at rest, memory unpredictable; what was sent, the waiting commands and the sectors of the settings store stay. -/
def ResetDone (s t : State) : Prop :=
  (∀ reg : Nat, reg ≠ Reg.FLT_STATUS → (∀ j : Nat, j < 6 → reg ≠ Reg.FLT_PREV j) → t.rd reg = regReset reg) ∧
  (t.foff Reg.FLT_STATUS_PREV_VALID).rd Reg.FLT_STATUS = regReset Reg.FLT_STATUS ∧
  (∃ g : Nat, t.mem = ⟨[], [⟨0, 2 ^ 52, some g, .all⟩]⟩) ∧
  t.streams = [] ∧ t.cores = [] ∧ t.links = [] ∧ t.tiles = [] ∧ t.seqs = [] ∧ t.cvus = [] ∧ t.owners = [] ∧ t.toks = [] ∧
  t.dmas = [] ∧ t.ddrs = [] ∧ t.bc = [] ∧ t.counter = 0 ∧ t.sent = s.sent ∧ t.pending = s.pending ∧ t.time = s.time ∧
  t.store.dataA = s.store.dataA ∧ t.store.dataB = s.store.dataB ∧ t.store.copyA = s.store.copyA ∧ t.store.copyB = s.store.copyB

/-- The parts of the state. -/
inductive Part where
  | pending | csr | mem | bad | time | counter | free | sent | aon | store | trust | tb | chr | streams | cores | links
  | tiles | seqs | cvus | owners | resends | ifaces | ctrls | ctrlWait | toks | dmas | ddrs | busy | again | bc | bcReports
  deriving DecidableEq, Repr

/-- Two states hold the same in one part. -/
def Part.same (p : Part) (s t : State) : Prop :=
  match p with
  | .pending => t.pending = s.pending
  | .csr => t.csr = s.csr
  | .mem => t.mem = s.mem
  | .bad => t.bad = s.bad
  | .time => t.time = s.time
  | .counter => t.counter = s.counter
  | .free => t.free = s.free
  | .sent => t.sent = s.sent
  | .aon => t.aon = s.aon
  | .store => t.store = s.store
  | .trust => t.trust = s.trust
  | .tb => t.tb = s.tb
  | .chr => t.chr = s.chr
  | .streams => t.streams = s.streams
  | .cores => t.cores = s.cores
  | .links => t.links = s.links
  | .tiles => t.tiles = s.tiles
  | .seqs => t.seqs = s.seqs
  | .cvus => t.cvus = s.cvus
  | .owners => t.owners = s.owners
  | .resends => t.resends = s.resends
  | .ifaces => t.ifaces = s.ifaces
  | .ctrls => t.ctrls = s.ctrls
  | .ctrlWait => t.ctrlWait = s.ctrlWait
  | .toks => t.toks = s.toks
  | .dmas => t.dmas = s.dmas
  | .ddrs => t.ddrs = s.ddrs
  | .busy => t.busy = s.busy
  | .again => t.again = s.again
  | .bc => t.bc = s.bc
  | .bcReports => t.bcReports = s.bcReports

/-- The parts of the state that a command may change; every other part stays as it is, the queue of waiting commands under every
command. -/
def touched : Instr → List Part
  | .stageAlternate | .perstDeassert .. | .swapAck .. | .pcieLinkChange .. =>
    [.aon]
  | .bcReport .. =>
    [.bcReports]
  | .ddrInstarTimeout | .faultWindowClose .. | .pllLock .. | .blockLock .. | .embLock .. | .ddrRetrainPeriod ..
  | .ddrRetrainTemp .. | .powerWindow .. | .roostEntry .. | .roostWake .. | .wakeEnd .. =>
    [.csr]
  | .replayRead .. =>
    [.sent]
  | .syncSlew =>
    [.tb]
  | .wingbeatToggle | .twinWbEdge | .partnerTimeout | .swapCancel | .digest .. | .rampEnd .. =>
    [.csr, .aon]
  | .ddrRetrainGrant | .ddrTrainingEnd .. =>
    [.csr, .ddrs]
  | .linkRetrainAuto .. =>
    [.csr, .links]
  | .serviceEnter .. | .serviceLeave .. | .chrOpen .. | .chrEntryWrite .. | .chrNentWrite .. | .chrValidate ..
  | .chrAbort .. | .setLoad .. | .setXspi .. | .voteScan .. | .lastingClear .. | .faultInject .. | .twinStartTimeout
  | .jrxPllWrite .. | .alignTimeout .. | .syncArm .. | .haltClear .. | .machineTimer .. | .kvAppend .. | .kvAccept ..
  | .kvRollback .. | .kvReset .. | .kvOtherOp .. | .kvDisable .. | .syncAdopt .. | .syncFreeze .. | .ddrEnable ..
  | .ddrRetrainRequest .. | .islandWakeWrite .. | .measureExtend .. =>
    [.csr, .sent]
  | .storeEnd .. | .storeThrottleRelease =>
    [.csr, .store]
  | .eventLogClose .. =>
    [.csr, .streams]
  | .pulseEnd .. | .levelReturn .. | .gridEdge .. | .timerEnable .. =>
    [.csr, .tb]
  | .descriptorEnqueue .. =>
    [.csr, .tiles]
  | .signEnd =>
    [.csr, .trust]
  | .watchdogExpiry | .pcieConfigRequest .. =>
    [.sent, .aon]
  | .bcPoll .. =>
    [.sent, .bc]
  | .cvuEncode .. | .cvuDecode .. | .cvuConversionEnd .. =>
    [.sent, .cvus]
  | .qWdrain .. =>
    [.sent, .owners]
  | .pop64 .. | .pop128 .. =>
    [.sent, .toks]
  | .slowTick =>
    [.csr, .aon, .store]
  | .trust .. | .twinImageDelivered .. =>
    [.csr, .aon, .trust]
  | .pwrGoodRise .. | .thermalRestart .. | .supplyReturn .. =>
    [.csr, .free, .aon]
  | .debugUnlock .. =>
    [.csr, .free, .sent]
  | .bcChunk .. | .bcHashEnd .. | .bcRepair .. | .bcClose .. =>
    [.csr, .mem, .bc]
  | .supplyOutOfRange .. | .faultClear .. | .watchdogKick .. | .twinEnable .. | .hello .. | .take .. | .swapStandby
  | .swapActive | .thermalWarning .. =>
    [.csr, .sent, .aon]
  | .brxClear .. =>
    [.csr, .sent, .bc]
  | .chrCommit .. =>
    [.csr, .sent, .chr]
  | .linkEnable .. | .linkRetrainRequest .. =>
    [.csr, .sent, .links]
  | .queueOpen .. | .queueClose .. =>
    [.csr, .sent, .owners]
  | .setStore .. =>
    [.csr, .sent, .store]
  | .streamDisable .. | .tapEnable .. | .laneLockLoss .. =>
    [.csr, .sent, .streams]
  | .stepGeneratorEnable .. | .timerReset .. | .timerIncrement .. | .timerMatch .. | .timerCompareCommit ..
  | .timerPeriodCommit .. | .trigInEdge .. =>
    [.csr, .sent, .tb]
  | .descriptorDispatch .. | .nop .. | .fetchItem .. | .tset .. | .descriptorEnd .. =>
    [.csr, .sent, .tiles]
  | .ctxPush .. | .rqPost .. =>
    [.csr, .sent, .toks]
  | .attestSign .. =>
    [.csr, .sent, .trust]
  | .sysrefEdge .. =>
    [.csr, .tb, .streams]
  | .slicePatrolScrub .. | .seqPatrolScrub .. =>
    [.csr, .bad, .free, .sent]
  | .elasticRelease .. =>
    [.csr, .free, .sent, .streams]
  | .tbCntRead .. =>
    [.csr, .free, .sent, .tb]
  | .memories .. =>
    [.csr, .mem, .bad, .aon]
  | .plasticityClearEnd .. =>
    [.csr, .mem, .bad, .cores]
  | .bcOpen .. =>
    [.csr, .mem, .free, .bc]
  | .islandOff .. =>
    [.csr, .mem, .free, .sent]
  | .rcvGo .. =>
    [.csr, .sent, .aon, .trust]
  | .seqRun .. =>
    [.csr, .sent, .seqs, .bc]
  | .switch .. | .badTypeCell .. | .escForward .. | .codewordReceive .. | .nak .. | .linkLost .. | .tsyncSend ..
  | .tsyncRequest .. | .syncSignal .. | .syncSet .. | .syncWatchGe .. | .syncWatchEq .. | .syncRead .. | .syncUnfreeze .. =>
    [.csr, .sent, .tb, .links]
  | .encoderBoundary .. =>
    [.csr, .sent, .tb, .streams]
  | .contextBoundary .. =>
    [.csr, .sent, .tb, .toks]
  | .evCellAccept .. =>
    [.csr, .tb, .cores, .links]
  | .ddrPatrolRead .. =>
    [.csr, .bad, .free, .sent, .ddrs]
  | .suppliesAndAon .. =>
    [.csr, .counter, .sent, .aon, .store]
  | .streamEnable .. | .encoderCycle .. =>
    [.csr, .free, .sent, .tb, .streams]
  | .selfTest .. =>
    [.csr, .mem, .bad, .aon, .store]
  | .chrValidationEnd =>
    [.csr, .mem, .bad, .free, .cores]
  | .initPassEnd .. | .arrival .. =>
    [.csr, .mem, .bad, .sent, .cores]
  | .mma .. | .tileReset .. =>
    [.csr, .mem, .free, .sent, .tiles]
  | .links .. | .linksTimeout .. | .wingbeatLoss .. | .helloSend | .swapRequest .. | .swap .. | .digestSend | .linkUp .. =>
    [.csr, .sent, .aon, .tb, .links]
  | .coreEnable .. =>
    [.csr, .sent, .tb, .cores, .bc]
  | .coreDisable .. =>
    [.csr, .sent, .tb, .cores, .links]
  | .qCladd .. =>
    [.csr, .sent, .tb, .links, .owners]
  | .tsyncReply .. =>
    [.csr, .counter, .sent, .aon, .tb, .links]
  | .commitRow .. =>
    [.csr, .mem, .bad, .free, .sent, .cores]
  | .substitutionRequest .. =>
    [.csr, .mem, .free, .sent, .aon, .store]
  | .serdesSupplyLow .. =>
    [.csr, .sent, .aon, .tb, .streams, .links]
  | .dmaStart .. | .dmaPaused .. | .loop .. | .endloop .. | .wait .. | .dmaSignal .. | .dmaEnd .. | .dmaBadOp ..
  | .dmaNotice .. | .dmaWatchResend .. | .dmaReplyTimeout .. =>
    [.csr, .sent, .tb, .links, .ifaces, .dmas]
  | .syncResend =>
    [.csr, .sent, .tb, .links, .resends, .ifaces]
  | .notify .. =>
    [.csr, .sent, .tb, .links, .tiles, .ifaces]
  | .dmaPause .. | .dmaDisable .. =>
    [.csr, .free, .sent, .tb, .links, .ifaces, .dmas]
  | .dmaResume .. =>
    [.csr, .bad, .free, .sent, .tb, .links, .ifaces, .dmas]
  | .queuePop .. | .combArm .. | .combDisarm .. | .clAdd .. | .clSum .. =>
    [.csr, .bad, .free, .sent, .tb, .links, .owners, .ifaces]
  | .qSend .. | .qSendMulticast .. | .qmsgReply .. | .qmsgResend .. | .qmsgReplyTimeout .. | .mcTimeout .. =>
    [.csr, .free, .sent, .tb, .links, .owners, .ifaces, .toks]
  | .stepGeneratorStop .. =>
    [.csr, .mem, .free, .sent, .aon, .store, .tb, .streams]
  | .syncNotice .. =>
    [.csr, .bad, .free, .sent, .tb, .links, .owners, .ifaces, .toks]
  | .doorbell .. =>
    [.csr, .free, .sent, .tb, .streams, .links, .owners, .ifaces, .toks]
  | .stepToken .. =>
    [.csr, .mem, .bad, .free, .sent, .tb, .chr, .cores, .links]
  | .fetch .. | .boundWrite .. =>
    [.csr, .mem, .bad, .free, .sent, .tb, .links, .tiles, .ifaces]
  | .atomReq .. =>
    [.csr, .mem, .bad, .free, .sent, .tb, .links, .tiles, .seqs]
  | .rdReq .. =>
    [.csr, .bad, .free, .sent, .tb, .links, .owners, .ifaces, .ddrs, .busy]
  | .outputRecord .. =>
    [.csr, .free, .sent, .aon, .tb, .streams, .links, .owners, .ifaces, .toks]
  | .seqReset .. =>
    [.csr, .free, .sent, .tb, .links, .tiles, .seqs, .cvus, .owners, .ifaces]
  | .drain .. =>
    [.csr, .mem, .bad, .free, .sent, .tb, .links, .tiles, .seqs, .ifaces]
  | .dmaProgramFetch .. =>
    [.csr, .bad, .free, .sent, .tb, .links, .owners, .ifaces, .dmas, .ddrs, .busy]
  | .qmsg .. =>
    [.csr, .mem, .bad, .free, .sent, .tb, .links, .tiles, .seqs, .owners, .ifaces]
  | .multiblockReceive .. | .tapRecordAck .. =>
    [.csr, .mem, .bad, .free, .sent, .tb, .streams, .links, .tiles, .seqs, .ifaces]
  | .wrReq .. | .wrFull .. | .fwd .. =>
    [.csr, .mem, .bad, .free, .sent, .tb, .links, .tiles, .seqs, .owners, .ifaces, .ddrs, .busy]
  | .brownout .. =>
    [.csr, .mem, .free, .sent, .trust, .tb, .links, .tiles, .seqs, .cvus, .owners, .ifaces, .dmas]
  | .exchangeRead .. =>
    [.csr, .bad, .free, .sent, .tb, .links, .cvus, .owners, .ifaces, .ctrls, .ctrlWait, .toks, .ddrs, .busy]
  | .vddqLow .. | .move .. | .ddrRetrainEnd .. | .ddrRetrainTimeout .. | .ddrAlert .. | .hostCompletion .. =>
    [.csr, .mem, .bad, .free, .sent, .tb, .links, .tiles, .seqs, .owners, .ifaces, .dmas, .ddrs, .busy]
  | .ddrBusyResend =>
    [.csr, .mem, .bad, .free, .sent, .tb, .links, .tiles, .seqs, .owners, .ifaces, .dmas, .ddrs, .busy, .again]
  | .rdData .. =>
    [.csr, .mem, .bad, .free, .sent, .tb, .links, .tiles, .seqs, .owners, .ifaces, .toks, .dmas, .ddrs, .busy]
  | .stepNominalInstant | .emissionStepComplete | .stretchLimit =>
    [.csr, .mem, .bad, .free, .sent, .aon, .store, .tb, .links, .tiles, .seqs, .owners, .ifaces, .toks, .ddrs, .busy]
  | .statusReply .. =>
    [.csr, .mem, .bad, .free, .sent, .tb, .links, .tiles, .seqs, .owners, .resends, .ifaces, .toks, .dmas, .ddrs, .busy,
      .again]
  | .cocoon .. =>
    [.csr, .mem, .bad, .free, .sent, .aon, .store, .tb, .streams, .cores, .links, .tiles, .seqs, .cvus, .owners, .ifaces,
      .toks, .dmas, .bc]
  | .pwrGoodFall | .supplyCollapse .. | .vaonLow .. | .faultEvent .. | .thermalStop .. =>
    [.csr, .mem, .bad, .counter, .free, .sent, .aon, .store, .trust, .tb, .chr, .streams, .cores, .links, .tiles, .seqs,
      .cvus, .owners, .resends, .ifaces, .ctrls, .ctrlWait, .toks, .dmas, .ddrs, .busy, .again, .bc, .bcReports]
  | .fabric .. | .load .. | .cocoonEnd .. | .commitInstant | .registerWrite .. | .exchangeWrite .. | .ctrl .. =>
    [.csr, .mem, .bad, .time, .counter, .free, .sent, .aon, .store, .trust, .tb, .chr, .streams, .cores, .links, .tiles,
      .seqs, .cvus, .owners, .resends, .ifaces, .ctrls, .ctrlWait, .toks, .dmas, .ddrs, .busy, .again, .bc, .bcReports]

/-- The register that a command writes, with the master that writes it, where the command is one such write: for a master below the
register's class, before Instar 5 and for a switched-off island all these commands are answered alike (R474, R496, R571). -/
def writeTarget : Instr → Option (Master × Nat)
  | .rcvGo m => some (m, Reg.TRU_CTL)
  | .serviceEnter m => some (m, Reg.INST_CTL)
  | .serviceLeave m => some (m, Reg.INST_CTL)
  | .cocoon m => some (m, Reg.INST_CTL)
  | .substitutionRequest m _ _ _ _ => some (m, Reg.INST_SUB_REQ)
  | .brxClear m r => some (m, Reg.BRX_STATUS r)
  | .chrOpen m => some (m, Reg.CHR_CMD)
  | .chrEntryWrite m i word _ => some (m, Reg.CHR_ENT_ADDR i + 4 * word)
  | .chrNentWrite m _ => some (m, Reg.CHR_NENT)
  | .chrValidate m => some (m, Reg.CHR_CMD)
  | .chrCommit m => some (m, Reg.CHR_CMD)
  | .chrAbort m => some (m, Reg.CHR_CMD)
  | .setLoad m _ => some (m, Reg.SET_CMD)
  | .setStore m _ => some (m, Reg.SET_CMD)
  | .setXspi m _ => some (m, Reg.SET_CMD)
  | .faultClear m => some (m, Reg.FLT_REC_STATUS)
  | .lastingClear m src => some (m, Reg.FLT_SRC_STAT src)
  | .faultInject m _ => some (m, Reg.FLT_CTL)
  | .watchdogKick m _ => some (m, Reg.FLT_WDOG_KICK)
  | .twinEnable m => some (m, Reg.AON_TWIN_CTL)
  | .swapRequest m _ => some (m, Reg.AON_TWIN_CTL)
  | .jrxPllWrite m p _ => some (m, Reg.JRX_PLL p)
  | .streamEnable m i => some (m, Reg.ING_CTL i)
  | .streamDisable m i => some (m, Reg.ING_CTL i)
  | .tapEnable m i _ => some (m, Reg.ING_CTL i)
  | .coreEnable m n => some (m, Reg.NC_CTL n)
  | .coreDisable m n => some (m, Reg.NC_CTL n)
  | .stepGeneratorEnable m => some (m, Reg.TB_STEP_CTL)
  | .stepGeneratorStop m => some (m, Reg.TB_STEP_CTL)
  | .syncArm m => some (m, Reg.TB_SYNC_CFG)
  | .boundWrite m t b _ _ => some (m, Reg.TILE_BOUND t b)
  | .tileReset m t => some (m, Reg.TILE_CTL t)
  | .haltClear m t _ => some (m, Reg.TILE_STATUS t)
  | .seqRun m i => some (m, Reg.SEQ_CTL i)
  | .seqReset m i => some (m, Reg.SEQ_CTL i)
  | .kvAppend m i u _ => some (m, Reg.ING_KV_CMD i u)
  | .kvAccept m i u _ => some (m, Reg.ING_KV_CMD i u)
  | .kvRollback m i u => some (m, Reg.ING_KV_CMD i u)
  | .kvReset m i u => some (m, Reg.ING_KV_CMD i u)
  | .kvOtherOp m i u _ _ => some (m, Reg.ING_KV_CMD i u)
  | .kvDisable m i u => some (m, Reg.ING_KV_CFG i u)
  | .ctxPush m i _ _ => some (m, Reg.ING_CTX_PUSH_HI i)
  | .rqPost m i _ => some (m, Reg.PCIE_RQ_POST_HI i)
  | .linkEnable m k => some (m, Reg.IBL_CTL k)
  | .linkRetrainRequest m k _ => some (m, Reg.IBL_CTL k)
  | .queueOpen m o q _ _ => some (m, Reg.Q_CFG o q)
  | .queueClose m o q => some (m, Reg.Q_CFG o q)
  | .combArm m o i _ _ _ _ => some (m, Reg.Q_COMB o i)
  | .combDisarm m o i => some (m, Reg.Q_COMB o i)
  | .syncAdopt m o => some (m, Reg.SYNC_CTL o)
  | .syncFreeze m o => some (m, Reg.SYNC_CTL o)
  | .syncUnfreeze m o => some (m, Reg.SYNC_CTL o)
  | .dmaStart m ch _ _ => some (m, dmaCtl ch)
  | .dmaPause m ch => some (m, dmaCtl ch)
  | .dmaResume m ch => some (m, dmaCtl ch)
  | .dmaDisable m ch => some (m, dmaCtl ch)
  | .ddrEnable m c => some (m, Reg.DDR_CTL c)
  | .ddrRetrainRequest m c => some (m, Reg.DDR_CTL c)
  | .islandWakeWrite m i => some (m, Reg.PWR_ISL_CTL i)
  | .islandOff m i _ => some (m, Reg.PWR_ISL_CTL i)
  | .measureExtend m _ => some (m, Reg.TRU_CTL)
  | .attestSign m _ => some (m, Reg.TRU_CTL)
  | .debugUnlock m => some (m, Reg.TRU_CTL)
  | .pwrGoodRise .. | .pwrGoodFall | .supplyOutOfRange .. | .supplyCollapse .. | .vaonLow .. | .serdesSupplyLow ..
  | .vddqLow .. | .suppliesAndAon .. | .trust .. | .twinImageDelivered .. | .selfTest .. | .fabric .. | .memories ..
  | .ddrInstarTimeout | .links .. | .linksTimeout .. | .load .. | .stageAlternate | .perstDeassert .. | .cocoonEnd ..
  | .bcOpen .. | .bcChunk .. | .bcPoll .. | .bcHashEnd .. | .bcReport .. | .bcRepair .. | .bcClose .. | .chrValidationEnd
  | .commitInstant | .storeEnd .. | .storeThrottleRelease | .registerWrite .. | .voteScan .. | .slowTick | .faultEvent ..
  | .faultWindowClose .. | .watchdogExpiry | .wingbeatToggle | .twinWbEdge | .wingbeatLoss .. | .twinStartTimeout
  | .helloSend | .hello .. | .partnerTimeout | .take .. | .swap .. | .swapAck .. | .swapStandby | .swapActive | .swapCancel
  | .switch .. | .digestSend | .digest .. | .pllLock .. | .blockLock .. | .embLock .. | .laneLockLoss .. | .sysrefEdge ..
  | .elasticRelease .. | .alignTimeout .. | .multiblockReceive .. | .encoderCycle .. | .eventLogClose .. | .tapRecordAck ..
  | .encoderBoundary .. | .initPassEnd .. | .evCellAccept .. | .arrival .. | .stepToken .. | .plasticityClearEnd ..
  | .commitRow .. | .stepNominalInstant | .emissionStepComplete | .stretchLimit | .contextBoundary .. | .outputRecord ..
  | .pulseEnd .. | .levelReturn .. | .gridEdge .. | .tbCntRead .. | .syncSlew | .timerEnable .. | .timerReset ..
  | .timerIncrement .. | .timerMatch .. | .timerCompareCommit .. | .timerPeriodCommit .. | .trigInEdge ..
  | .descriptorEnqueue .. | .descriptorDispatch .. | .nop .. | .fetch .. | .fetchItem .. | .mma .. | .drain .. | .tset ..
  | .notify .. | .descriptorEnd .. | .machineTimer .. | .cvuEncode .. | .cvuDecode .. | .cvuConversionEnd ..
  | .exchangeRead .. | .exchangeWrite .. | .slicePatrolScrub .. | .seqPatrolScrub .. | .doorbell .. | .pop64 .. | .pop128 ..
  | .replayRead .. | .rdReq .. | .wrReq .. | .wrFull .. | .atomReq .. | .rdData .. | .statusReply .. | .fwd ..
  | .badTypeCell .. | .escForward .. | .ctrl .. | .linkUp .. | .codewordReceive .. | .nak .. | .linkLost ..
  | .linkRetrainAuto .. | .tsyncSend .. | .tsyncRequest .. | .tsyncReply .. | .qSend .. | .qSendMulticast .. | .qmsg ..
  | .qmsgReply .. | .qmsgResend .. | .qmsgReplyTimeout .. | .mcTimeout .. | .queuePop .. | .qCladd .. | .clAdd ..
  | .clSum .. | .syncSignal .. | .syncSet .. | .syncWatchGe .. | .syncWatchEq .. | .syncRead .. | .syncResend
  | .syncNotice .. | .qWdrain .. | .dmaPaused .. | .dmaProgramFetch .. | .move .. | .loop .. | .endloop .. | .wait ..
  | .dmaSignal .. | .dmaEnd .. | .dmaBadOp .. | .dmaNotice .. | .dmaWatchResend .. | .ddrRetrainPeriod ..
  | .ddrRetrainTemp .. | .ddrRetrainGrant | .ddrRetrainEnd .. | .ddrRetrainTimeout .. | .ddrAlert .. | .ddrPatrolRead ..
  | .powerWindow .. | .thermalWarning .. | .thermalStop .. | .thermalRestart .. | .roostEntry .. | .roostWake ..
  | .wakeEnd .. | .brownout .. | .rampEnd .. | .signEnd | .supplyReturn .. | .ddrTrainingEnd .. | .pcieLinkChange ..
  | .pcieConfigRequest .. | .hostCompletion .. | .dmaReplyTimeout .. | .ddrBusyResend => none

/-- Registers whose fields only hold what is written to them, by the type of each field: those of the AON block but AON_TWIN_CTL, of a
stream below its wake registers but ING_CTL, of a neuron core but NC_CTL and its broadcast receiver, of a DDR4 channel but DDR_CTL, of a
link but IBL_CTL. -/
def plainReg (o : Nat) : Bool :=
  let i := o % 0x10000
  (decide (o < 0x10000) && decide (o ≠ Reg.AON_TWIN_CTL))
  || (decide (0x100000 ≤ o) && decide (o < 0x300000) && decide (0 < i) && decide (i < 0xA000))
  || (decide (0x400000 ≤ o) && decide (o < 0x4400000) && decide (0 < i) && decide (i < 0x380))
  || (decide (0x7000000 ≤ o) && decide (o < 0x7080000) && decide (0 < i))
  || (decide (0x7100000 ≤ o) && decide (o < 0x71C0000) && decide (0 < i) && decide (i < 0x100))

/-- A run of n steps that answers a next state at every step. -/
def SafeFor : Nat → State → Prop
  | 0, _ => True
  | n + 1, s => ∃ t, step s = .next t ∧ SafeFor n t

end Sys2Proof.Machine
end

