-- ==== Sys2Proof/Certificates/Slice0/Obligations.lean ====
section
/-! DEFINITION. The statements for the provers. A statement of a group of commands has at least one clause per command, each after a
comment that names the command, the case and the rules: from every canonical state and all operands that meet the clause's premises,
which speak of the state and the operands alone, the command answers a next state that holds what the clause says. A clause that
ends with a list of registers leaves every other register as it was; such a list is written with each and each2 (the registers of an
array), accessRegs (what any register write may change), memorySide (what an access of memory may change) and writeSide (what a
write of some register may change), all of Sys2Proof/Safety.lean. -/

open Sys2Proof Sys2Proof.Machine

/-- A step runs the command at the front of the queue on the rest. For every command c and state s whose queue is c followed
by rest, step of s is exec of c on s with the queue rest. The queue is the model's own (log entry 4). (00_scope.md.) -/
def Obligations.StepRunsTheFrontCommand : Prop :=
  ∀ (c : Instr) (rest : List Instr) (s : State), s.pending = c :: rest → step s = exec c { s with pending := rest }

/-- With no command waiting a step is one ns of time. With an empty queue a step is a tick (the model's choice, log entry
4): time moves on by one ns; the system counter adds one count while the AON PLL is locked and stands still before;
registers, memory, queues and messages stay. The counter clause leaves out the tick at which an armed load falls due and the
tick after a correction. (13_time_base_and_triggers.md.) -/
def Obligations.EmptyQueueStepIsOneNanosecond : Prop :=
  ∀ s : State, s.pending = [] →
    step s = .next s.tick ∧ s.tick.time = s.time + 1 ∧ s.tick.pending = [] ∧ s.tick.mem = s.mem ∧ s.tick.sent = s.sent ∧
    (s.tb.loadAt ≠ some (s.time + 1) → s.tick.csr = s.csr) ∧
    (s.tb.loadAt ≠ some (s.time + 1) → s.aon.pll = true → s.tb.edgeAdds = 1 → s.tick.counter = s.counter + 1) ∧
    (s.tb.loadAt ≠ some (s.time + 1) → s.aon.pll = false → s.tick.counter = s.counter)

/-- Reset: nothing runs, nothing is listed, every register reads its table value. At reset the chip reset is held, no
command waits and nothing was sent; every register reads the reset value of its table; every enable named is 0, READY and
GATE are 0, the stage is 0, a bound is closed at 0, every core and tile is idle. A value that the manual loads from a strap,
a page or an image is the table word's 0 here (log entry 3). (15_instars.md, 16_registers_chrysalis_settings.md,
19_power_and_islands.md.) -/
def Obligations.ResetHoldsTheTableValues : Prop :=
  State.reset.down = true ∧ State.reset.pending = [] ∧ State.reset.sent = [] ∧ State.reset.stage = 0 ∧
  (∀ o : Nat, State.reset.rd o = regReset o) ∧
  State.reset.fbit Reg.INST_STATUS_READY = false ∧ State.reset.fbit Reg.TB_OUT_STATUS_GATE = false ∧
  State.reset.fbit Reg.TB_STEP_CTL_EN = false ∧ State.reset.fbit Reg.AON_TWIN_CTL_EN = false ∧
  State.reset.rd Reg.TB_STEP_LEN = 1000 ∧ State.reset.rd Reg.FLT_WDOG = 100 ∧
  (∀ i : Fin 32, State.reset.fbit (Reg.ING_CTL_EN i) = false) ∧
  (∀ n : Fin 1024, State.reset.fbit (Reg.NC_CTL_EN n) = false ∧ State.reset.fbit (Reg.NC_STATUS_IDLE n) = true) ∧
  (∀ t : Fin 64, State.reset.fbit (Reg.TILE_CTL_EN t) = false ∧ State.reset.fbit (Reg.TILE_STATUS_IDLE t) = true) ∧
  (∀ t : Fin 64, ∀ b : Fin 8, State.reset.rd (Reg.TILE_BOUND t b) = 0x80000000) ∧
  (∀ i : Fin 128, State.reset.fbit (Reg.SEQ_CTL_RUN i) = false) ∧
  (∀ c : Fin 8, State.reset.fbit (Reg.DDR_CTL_EN c) = false) ∧
  ∀ k : Fin 12, State.reset.fbit (Reg.IBL_CTL_EN k) = false

/-- The state after reset is canonical. Every table of the state after reset is in canonical form: addresses rising, no
entry equal to what an unlisted address reads as. (12_memories.md, 16_registers_chrysalis_settings.md.) -/
def Obligations.ResetIsCanonical : Prop :=
  State.reset.canonical = true

/-- Every step keeps every table of the state in canonical form. From every canonical state, reachable or not, a step that
answers a next state answers a canonical one: registers, memory, error marks, timers, pins, streams, cores, links, tiles,
sequencer cores, conversion units, owners, token engines, DMA and DDR4 channels, receivers, interfaces, settings sectors and
the staging buffer. (12_memories.md, 16_registers_chrysalis_settings.md.) -/
def Obligations.EveryStepKeepsCanonicalForm : Prop :=
  ∀ s t : State, s.canonical = true → step s = .next t → t.canonical = true

/-- A step takes back no message, no time and no drawn value, and adds no command. From a canonical state, a step that
answers a next state leaves every message already sent where it stands and only puts new ones before it; the model's time
and the number of free values drawn do not fall; the queue loses at most its front command and gains none.
(09_mesh_and_links.md, 13_time_base_and_triggers.md, 17_faults_and_wingbeat.md.) -/
def Obligations.NothingSentIsTakenBack : Prop :=
  ∀ s t : State, s.canonical = true → step s = .next t →
    s.sent <:+ t.sent ∧ s.time ≤ t.time ∧ s.free ≤ t.free ∧ t.pending = s.pending.tail

/-- While a chip reset is held only the supplies and PWR_GOOD act. While a chip reset is held (PWR_GOOD low, a supply or
VAON out, or a thermal stop), every command but PWR_GOOD rising or falling, VAON low, a supply's return and the thermal
restart answers the same state. (15_instars.md, 19_power_and_islands.md.) -/
def Obligations.HeldResetStopsEveryOtherCommand : Prop :=
  ∀ (c : Instr) (s : State), s.down = true →
    (∀ d b, c ≠ .pwrGoodRise d b) → c ≠ .pwrGoodFall → (∀ b, c ≠ .vaonLow b) → (∀ k, c ≠ .supplyReturn k) → (∀ k, c ≠ .thermalRestart k) →
    exec c s = .next s

/-- A write of a guarded register by a master below its class only counts. Every command that is a write of a register, and
REGISTER_WRITE of four bytes, by a master below the register's class changes nothing but AON_PRIV_CNT, which counts one
more; no CFG_IGNORED is set. (16_registers_chrysalis_settings.md.) -/
def Obligations.WriteBelowClassIsOnlyCounted : Prop :=
  (∀ (c : Instr) (s : State) (m : Master) (o : Nat), writeTarget c = some (m, o) → s.down = false → (m = .pcie → s.barOpen = true) →
    reaches m o = true → s.cocoonHides m o = false → s.regOff o = false → s.mayAccess m o = false →
    exec c s = .next (s.count Reg.AON_PRIV_CNT 1)) ∧
  (∀ (s : State) (m : Master) (off : BitVec 28) (v : BitVec 64) (kept : Bool), s.down = false → (m = .pcie → s.barOpen = true) →
    off.toNat % 4 = 0 → reaches m off.toNat = true → s.cocoonHides m off.toNat = false → s.regOff off.toNat = false →
    s.mayAccess m off.toNat = false →
    exec (.registerWrite m off 4 v kept false) s = .next (s.count Reg.AON_PRIV_CNT 1))

/-- A register write in an island that is off is answered NO_TARGET and changes nothing. Every command that is a write of a
register, and REGISTER_WRITE of four bytes, of a register in an island that is off answers STATUS NO_TARGET (code 3, with
the register's address) and changes nothing else. (19_power_and_islands.md.) -/
def Obligations.WriteOfAnIslandThatIsOffIsRefused : Prop :=
  (∀ (c : Instr) (s : State) (m : Master) (o : Nat), writeTarget c = some (m, o) → s.down = false → (m = .pcie → s.barOpen = true) →
    reaches m o = true → s.cocoonHides m o = false → s.regOff o = true →
    exec c s = .next (s.emit (.refused 3 (0x82000000000 + o)))) ∧
  (∀ (s : State) (m : Master) (off : BitVec 28) (v : BitVec 64) (kept : Bool), s.down = false → (m = .pcie → s.barOpen = true) →
    off.toNat % 4 = 0 → reaches m off.toNat = true → s.cocoonHides m off.toNat = false → s.regOff off.toNat = true →
    exec (.registerWrite m off 4 v kept false) s = .next (s.emit (.refused 3 (0x82000000000 + off.toNat))))

/-- A host write before Instar 5 has ended is answered Unsupported Request. Every command that is a register write of the
host, and its REGISTER_WRITE of four bytes, while the BARs are closed answers Unsupported Request and changes nothing else.
(15_instars.md.) -/
def Obligations.HostWriteBeforeItsBarOpensIsUnsupported : Prop :=
  (∀ (c : Instr) (s : State) (o : Nat), writeTarget c = some (.pcie, o) → s.down = false → s.barOpen = false →
    exec c s = .next (s.emit .unsupported)) ∧
  (∀ (s : State) (off : BitVec 28) (v : BitVec 64) (kept : Bool), s.down = false → s.barOpen = false → off.toNat % 4 = 0 →
    exec (.registerWrite .pcie off 4 v kept false) s = .next (s.emit .unsupported))

/-- Each command leaves every part of the state it does not touch as it was. For every command, state and part of the state
(registers, memory, error marks, counter, messages, settings, trust, time base, batches, streams, cores, links, tiles,
sequencer cores, conversion units, owners, token engines, DMA and DDR4 channels, receivers, interfaces, control networks,
64-bit latches, the command queue): a next state holds the same in every part that the command's list does not name.
(09_mesh_and_links.md, 10_queues_and_sync_objects.md, 12_memories.md, 16_registers_chrysalis_settings.md.) -/
def Obligations.EveryOtherPartStays : Prop :=
  ∀ (c : Instr) (s t : State), exec c s = .next t → ∀ p : Part, p ∉ touched c → p.same s t

/-- A register write changes each field by its type. REGISTER_WRITE of four bytes to a register whose fields only hold what
is written (AON but AON_TWIN_CTL, streams, neuron cores, DDR4 channels, links) answers a next state: RO and reserved bits
stay; RW takes the bits; RWD and RWS take them while the owning block is disabled and stay while it is enabled; W1C clears
the bits written 1; RWL takes the bits until the lock is set; a refused change of an RWD, RWS or RWL field sets the block's
CFG_IGNORED. It holds where the reserved bits are written back as read. (16_registers_chrysalis_settings.md.) -/
def Obligations.FieldsTakeAWriteByTheirType : Prop :=
  ∀ (s : State) (m : Master) (off : BitVec 28) (v : BitVec 64) (bs : RegDef) (f : FieldDef),
    s.canonical = true → plainReg off.toNat = true → off.toNat % 4 = 0 → s.admits m off.toNat = true →
    s.regThere off.toNat = some bs → f ∈ bs.fields →
    ∃ t, exec (.registerWrite m off 4 v true false) s = .next t ∧
      (f.ty = .ro ∨ f.ty = .rsv → t.fget ⟨off.toNat, f.hi, f.lo⟩ = s.fget ⟨off.toNat, f.hi, f.lo⟩) ∧
      (f.ty = .rw → t.fget ⟨off.toNat, f.hi, f.lo⟩ = wordGet (v.extractLsb' 0 32) f.hi f.lo) ∧
      (f.ty = .w1c → t.fget ⟨off.toNat, f.hi, f.lo⟩ =
        s.fget ⟨off.toNat, f.hi, f.lo⟩ - (s.fget ⟨off.toNat, f.hi, f.lo⟩ &&& wordGet (v.extractLsb' 0 32) f.hi f.lo)) ∧
      (f.ty = .rwd ∨ f.ty = .rws → s.blockOff off.toNat = true →
        t.fget ⟨off.toNat, f.hi, f.lo⟩ = wordGet (v.extractLsb' 0 32) f.hi f.lo) ∧
      (f.ty = .rwd ∨ f.ty = .rws → s.blockOff off.toNat = false → t.fget ⟨off.toNat, f.hi, f.lo⟩ = s.fget ⟨off.toNat, f.hi, f.lo⟩ ∧
        (wordGet (v.extractLsb' 0 32) f.hi f.lo ≠ s.fget ⟨off.toNat, f.hi, f.lo⟩ →
          ∀ g, ignoredRef off.toNat = some g → t.fbit g = true)) ∧
      (f.ty = .rwl → s.locked off.toNat = false → t.fget ⟨off.toNat, f.hi, f.lo⟩ = wordGet (v.extractLsb' 0 32) f.hi f.lo) ∧
      (f.ty = .rwl → s.locked off.toNat = true → t.fget ⟨off.toNat, f.hi, f.lo⟩ = s.fget ⟨off.toNat, f.hi, f.lo⟩ ∧
        (wordGet (v.extractLsb' 0 32) f.hi f.lo ≠ s.fget ⟨off.toNat, f.hi, f.lo⟩ →
          ∀ g, ignoredRef off.toNat = some g → t.fbit g = true))

/-- A write that changes reserved bits stops with the fault named for it. The device promises no behaviour after a reserved
bit is written with another value than was read. REGISTER_WRITE of four bytes that does so (reserved bits not kept) stops
with the fault reservedBits exactly where the write reaches a register that has reserved bits, and no other command stops
(log entry 26). (00_scope.md, 16_registers_chrysalis_settings.md.) -/
def Obligations.ChangedReservedBitsStopTheRun : Prop :=
  (∀ (s : State) (m : Master) (off : BitVec 28) (v : BitVec 64) (bs : RegDef) (f : FieldDef), s.admits m off.toNat = true →
    off.toNat % 4 = 0 → s.regThere off.toNat = some bs → f ∈ bs.fields → f.ty = .rsv →
    exec (.registerWrite m off 4 v false false) s = .fault .reservedBits) ∧
  (∀ (c : Instr) (s : State) (e : Fault), exec c s = .fault e → ∃ m off n v, c = .registerWrite m off n v false false)

/-- Every command answers a next state, but a write that changes reserved bits. For every command and every state, exec
answers a next state; the one exception is REGISTER_WRITE with reserved bits not kept. (00_scope.md,
95_what_each_step_holds.md.) -/
def Obligations.EveryCommandAnswersANextState : Prop :=
  ∀ (c : Instr) (s : State), (∀ m off n v, c ≠ .registerWrite m off n v false false) → ∃ t, exec c s = .next t

/-- A queue without a write of changed reserved bits runs on for ever. From every state whose waiting commands keep reserved
bits, every number of steps answers next states: no step faults or refuses, and once the queue is empty time goes on.
(00_scope.md.) -/
def Obligations.KeptCommandsRunSafely : Prop :=
  ∀ (n : Nat) (s : State), (∀ c ∈ s.pending, ∀ m off k v, c ≠ .registerWrite m off k v false false) → SafeFor n s

/-- A write of 1 to LASTING clears it unless the cause stands; windows stay. LASTING_CLEAR that the device takes clears the
source's LASTING while CAUSE = 0; while CAUSE = 1 LASTING stays and FLT_STATUS.CFG_IGNORED is set. Neither it nor
FAULT_CLEAR changes WOPEN, WCOUNT or TICKS_LEFT of any source. (R531.) -/
def Obligations.LastingClearNeedsNoStandingCause : Prop :=
  (∀ (s : State) (m : Master) (src : Fin 26), s.canonical = true → s.admits m (Reg.FLT_SRC_STAT src) = true →
    ∃ t, exec (.lastingClear m src) s = .next t ∧
      (s.refreshCauses.fbit (Reg.FLT_SRC_STAT_CAUSE src) = false → t.fbit (Reg.FLT_SRC_STAT_LASTING src) = false ∧
        t.fbit Reg.FLT_STATUS_CFG_IGNORED = s.fbit Reg.FLT_STATUS_CFG_IGNORED) ∧
      (s.refreshCauses.fbit (Reg.FLT_SRC_STAT_CAUSE src) = true →
        t.fbit (Reg.FLT_SRC_STAT_LASTING src) = s.fbit (Reg.FLT_SRC_STAT_LASTING src) ∧ t.fbit Reg.FLT_STATUS_CFG_IGNORED = true) ∧
      ∀ i : Fin 26, t.fget (Reg.FLT_SRC_STAT_WOPEN i) = s.fget (Reg.FLT_SRC_STAT_WOPEN i) ∧
        t.fget (Reg.FLT_SRC_STAT_WCOUNT i) = s.fget (Reg.FLT_SRC_STAT_WCOUNT i) ∧
        t.fget (Reg.FLT_SRC_STAT_TICKS_LEFT i) = s.fget (Reg.FLT_SRC_STAT_TICKS_LEFT i)) ∧
  (∀ (s : State) (m : Master), s.canonical = true → s.admits m Reg.FLT_REC_STATUS = true →
    ∃ t, exec (.faultClear m) s = .next t ∧
      ∀ i : Fin 26, t.fget (Reg.FLT_SRC_STAT_WOPEN i) = s.fget (Reg.FLT_SRC_STAT_WOPEN i) ∧
        t.fget (Reg.FLT_SRC_STAT_WCOUNT i) = s.fget (Reg.FLT_SRC_STAT_WCOUNT i) ∧
        t.fget (Reg.FLT_SRC_STAT_TICKS_LEFT i) = s.fget (Reg.FLT_SRC_STAT_TICKS_LEFT i))

/-- END of a DMA program sets CODE, enters DONE and closes open loops. On a channel that runs an END whose reserved bits are
0: STATUS.CODE is bits [15:0] of the operation, the state is DONE (5), STATUS.IRQ is set where bit [59] is 1 and stays else,
DEPTH is 0. (R379.) -/
def Obligations.DmaEndClosesLoopsAndRecordsCode : Prop :=
  ∀ (s : State) (ch : Fin 1056) (w : Nat), s.canonical = true → s.down = false → s.dmaThere ch = true → s.dmaState ch = 1 →
    (s.dma ch).wait = none → s.dmaWord ch (s.dmaPc ch) = some w → bits w 63 60 = 15 → bits w 58 16 = 0 →
    ∃ t, exec (.dmaEnd ch) s = .next t ∧ t.fget (Reg.DMA_STATUS_CODE ch) = bits w 15 0 ∧ t.dmaState ch = 5 ∧
      t.fbit (Reg.DMA_STATUS_IRQ ch) = (bit w 59 || s.fbit (Reg.DMA_STATUS_IRQ ch)) ∧ t.dmaDepth ch = 0

/-- ADOPT makes every object of an owner ACTIVE; a restart leaves them ORPHANED. SYNC_ADOPT that the device takes leaves
every object of a present owner ACTIVE (STATE 0) with VALUE 0 and LAST_OP 0. A restart of the owner (SEQ_RUN) leaves STATE
of every object as it was. (R359.) -/
def Obligations.AdoptMakesEveryObjectActive : Prop :=
  (∀ (s : State) (m : Master) (o : Fin 136), s.canonical = true → s.admits m (Reg.SYNC_CTL o) = true → s.ownerThere o = true →
    ∃ t, exec (.syncAdopt m o) s = .next t ∧ ∀ i : Nat, i < objsOf o →
      t.fget (Reg.SYNC_STATE_STATE o i) = 0 ∧ t.rd (Reg.SYNC_VAL o i) = 0 ∧ t.fget (Reg.SYNC_LAST_LAST_OP o i) = 0) ∧
  (∀ (s : State) (m : Master) (q : Fin 128), s.canonical = true → s.admits m (Reg.SEQ_CTL q) = true →
    ∃ t, exec (.seqRun m q) s = .next t ∧ ∀ i : Nat, i < objsOf q →
      t.fget (Reg.SYNC_STATE_STATE q i) = s.fget (Reg.SYNC_STATE_STATE q i))

/-- A wait on a token queue takes one token or waits; a post adds one up to 4,095. A NOP descriptor at a running tile that
waits on TQ q takes one token where the count is 1 or more; where it is 0 the descriptor stays in its queue and every count
stays. A post adds one token; at 4,095 the count stays, TILE_STATUS.ERR is set and TILE_ERR.CODE is 5 (TQ_OVF). (R198.) -/
def Obligations.TokenQueueWaitsAndPosts : Prop :=
  (∀ (s : State) (t : Fin 64) (odd : Bool) (d : Desc), s.canonical = true → s.down = false → s.tileRuns t = true →
    s.headDesc t odd = some d → d.op = 0 → d.refusal = 0 → (s.tile t).tset = none → ((s.tile t).port odd).stalled = [] →
    d.wd < 8 → d.pd = 15 →
    ∃ u, exec (.nop t odd) s = .next u ∧
      (1 ≤ s.fget (Reg.TILE_TQ_COUNT t d.wd) → u.fget (Reg.TILE_TQ_COUNT t d.wd) = s.fget (Reg.TILE_TQ_COUNT t d.wd) - 1 ∧
        ((u.tile t).port odd).queue = ((s.tile t).port odd).queue.tail) ∧
      (s.fget (Reg.TILE_TQ_COUNT t d.wd) = 0 → ((u.tile t).port odd).queue = ((s.tile t).port odd).queue ∧
        ∀ q : Fin 8, u.fget (Reg.TILE_TQ_COUNT t q) = s.fget (Reg.TILE_TQ_COUNT t q))) ∧
  (∀ (s : State) (t : Fin 64) (q : Fin 8) (eng : Nat) (d : Desc), s.canonical = true → s.fbit (Reg.TILE_STATUS_ERR t) = false →
    (s.fget (Reg.TILE_TQ_COUNT t q) < 4095 →
      (s.tqPost t q eng d).fget (Reg.TILE_TQ_COUNT t q) = s.fget (Reg.TILE_TQ_COUNT t q) + 1) ∧
    (s.fget (Reg.TILE_TQ_COUNT t q) = 4095 → (s.tqPost t q eng d).fget (Reg.TILE_TQ_COUNT t q) = 4095 ∧
      (s.tqPost t q eng d).fbit (Reg.TILE_STATUS_ERR t) = true ∧ wordGet ((s.tqPost t q eng d).rd (Reg.TILE_ERR t)) 31 28 = 5))

/-- A full class-event queue drops the new event, counts it and consumes its SEQ. Outside shadow mode, a class event posted
to a full queue (1,024 entries) leaves the entries as they are, adds one to ING_CQ_DROP_CNT (saturating) and moves SEQ on by
one modulo 65,536; an event posted to a queue with room becomes its last entry with the SEQ next in turn, so a drop shows as
a gap. (R284.) -/
def Obligations.FullClassEventQueueDropsTheNewEvent : Prop :=
  ∀ (s : State) (i : Fin 32) (cls n j grade stamp : Nat), s.canonical = true → s.shadows = false →
    ((s.cqPost i cls n j grade stamp).tok i).cq.seq = ((s.tok i).cq.seq + 1) % 65536 ∧
    (1024 ≤ (s.tok i).cq.ents.length → ((s.cqPost i cls n j grade stamp).tok i).cq.ents = (s.tok i).cq.ents ∧
      ((s.cqPost i cls n j grade stamp).rd (Reg.ING_CQ_DROP_CNT i)).toNat = satCount 32 (s.rd (Reg.ING_CQ_DROP_CNT i)).toNat 1) ∧
    ((s.tok i).cq.ents.length < 1024 →
      ((s.cqPost i cls n j grade stamp).tok i).cq.ents.map HostEnt.seq = (s.tok i).cq.ents.map HostEnt.seq ++ [(s.tok i).cq.seq] ∧
      (s.cqPost i cls n j grade stamp).rd (Reg.ING_CQ_DROP_CNT i) = s.rd (Reg.ING_CQ_DROP_CNT i))

/-- A member that changes its role records the counter and the cause and raises vector 96. A member in service that takes
the active role opens GATE and has ROLE 0; one that takes the standby role closes GATE and has ROLE 1; either change leaves
the system counter in AON_TWIN_LAST, its cause in LAST_REASON, and sends MSI-X vector 96. (R445.) -/
def Obligations.RoleChangeRecordsCounterAndCause : Prop :=
  ∀ (s : State) (reason : Nat), s.canonical = true → reason < 16 →
    (s.inService = true → (s.takeActive reason).fbit Reg.TB_OUT_STATUS_GATE = true) ∧
    (s.takeActive reason).fbit Reg.AON_TWIN_STATUS_ROLE = false ∧
    (s.takeActive reason).rd64 Reg.AON_TWIN_LAST_LO = s.now ∧ (s.takeActive reason).fget Reg.AON_TWIN_STATUS_LAST_REASON = reason ∧
    (s.takeActive reason).sent = .msix 96 :: s.sent ∧
    (s.takeStandby reason).fbit Reg.AON_TWIN_STATUS_ROLE = true ∧ (s.takeStandby reason).fbit Reg.TB_OUT_STATUS_GATE = false ∧
    (s.takeStandby reason).rd64 Reg.AON_TWIN_LAST_LO = s.now ∧ (s.takeStandby reason).fget Reg.AON_TWIN_STATUS_LAST_REASON = reason ∧
    (s.takeStandby reason).sent = .msix 96 :: s.sent

/-- The input shift rounds to nearest with ties away from zero. With IN_SHIFT = 0 the contribution is the product. With
IN_SHIFT k from 1 to 15 it is sign(p)·((|p| + 2^(k−1)) >> k); it differs from p / 2^k by at most one half, and where the
difference is exactly one half it is the value farther from zero. (R107.) -/
def Obligations.InputShiftRoundsTiesAwayFromZero : Prop :=
  ∀ p : Int, inputShift 0 p = p ∧ ∀ k : Nat, 1 ≤ k → k ≤ 15 →
    inputShift k p = p.sign * (((p.natAbs + 2 ^ (k - 1)) >>> k : Nat) : Int) ∧
    2 * (2 ^ k * inputShift k p - p).natAbs ≤ 2 ^ k ∧
    (2 * (2 ^ k * inputShift k p - p).natAbs = 2 ^ k → p.natAbs ≤ 2 ^ k * (inputShift k p).natAbs)

/-- A neuron is refractory for REF steps after it fired. A neuron whose T_FIRE is a 16-bit step is refractory in step t
exactly when RECENT = 1 and (t − T_FIRE) mod 65,536 lies from 1 to REF; with REF = 0 it is never refractory, so not in the
step after it fired either. (R116.) -/
def Obligations.RefractoryWindowFollowsLastFire : Prop :=
  ∀ (r : NRec) (p : Prof) (t : Nat), r.tFire < 65536 →
    (r.refractory p t = true ↔ r.recent = true ∧ 1 ≤ ((t : Int) - r.tFire) % 65536 ∧ ((t : Int) - r.tFire) % 65536 ≤ p.ref) ∧
    (p.ref = 0 → r.refractory p t = false)

/-- Power and supply events complete. PWR_GOOD and supply events: the chip reset they hold or release, the straps read at
its end, the cause of the SUPPLY source, the links, streams and DDR4 channels that fail. (15_instars.md,
17_faults_and_wingbeat.md, 19_power_and_islands.md, 20_pins_and_package.md.) -/
def Obligations.PowerAndSupplyCommandsComplete : Prop :=
  -- PWR_GOOD_RISE (R583, R440, R595)
  (∀ (s : State) (devid : Fin 8) (standby : Bool), s.canonical = true → 0 ∈ s.aon.held → s.aon.tapHold = false →
    ∃ t, exec (.pwrGoodRise devid standby) s = .next t ∧
      t.devid = (if t.down then s.devid else devid.val) ∧
      t.aon.straps = (devid.val, standby) ∧
      t.aon.goodAt = s.time ∧
      t.aon.held = s.aon.held.filter (· ≠ 0) ∧
      t.down = !(s.aon.held.filter (· ≠ 0)).isEmpty ∧
      (t.down = false → t.fbit Reg.AON_TWIN_STATUS_ROLE = standby ∧ t.stage = 0) ∧
      (t.down = true → t.csr = s.csr) ∧
      t.sent = s.sent ∧
      (∀ reg : Nat, reg ∉ [Reg.AON_ID, Reg.AON_TWIN_STATUS, Reg.INST_STATUS] ++ each 64 Reg.INST_REC ++ each 8
        Reg.TRU_CHAL → t.rd reg = s.rd reg) ∧
      t.mem = s.mem) ∧
  -- PWR_GOOD_RISE: no PWR_GOOD hold, or the TAP holds PWR_GOOD low (R583, R440, R595)
  (∀ (s : State) (devid : Fin 8) (standby : Bool), s.canonical = true → 0 ∉ s.aon.held ∨ s.aon.tapHold = true →
    ∃ t, exec (.pwrGoodRise devid standby) s = .next t ∧
      t = s ∧
      t.mem = s.mem) ∧
  -- PWR_GOOD_FALL (R584)
  (∀ (s : State), s.canonical = true →
    ∃ t, exec .pwrGoodFall s = .next t ∧
      t.down = true ∧
      t.aon.held = (if 0 ∈ s.aon.held then s.aon.held else 0 :: s.aon.held) ∧
      t.fbit Reg.FLT_STATUS_PREV_VALID = s.fbit Reg.FLT_STATUS_PREV_VALID ∧
      (∀ j : Nat, j < 6 → t.rd (Reg.FLT_PREV j) = s.rd (Reg.FLT_PREV j)) ∧
      t.aon.supplyOut = s.aon.supplyOut ∧
      ResetDone s t) ∧
  -- SUPPLY_OUT_OF_RANGE (R554)
  (∀ (s : State) (east : Bool), s.canonical = true → s.down = false →
    ∃ t, exec (.supplyOutOfRange east) s = .next t ∧
      t.aon.supplyOut = (if (if east then 1 else 0) ∈ s.aon.supplyOut then s.aon.supplyOut else (if east then 1 else 0)
        :: s.aon.supplyOut) ∧
      t.fbit (Reg.FLT_SRC_STAT_CAUSE 25) = true ∧
      t.sent = .fault 25 9 0 0 :: s.sent ∧
      t.mem = s.mem ∧
      (∀ reg : Nat, reg ∉ each 26 Reg.FLT_SRC_STAT → t.rd reg = s.rd reg)) ∧
  -- SUPPLY_COLLAPSE (R585)
  (∀ (s : State) (east : Bool), s.canonical = true → s.down = false →
    ∃ t, exec (.supplyCollapse east) s = .next t ∧
      t.aon.held = [1] ∧
      t.aon.supplyOut = (if (if east then 1 else 0) ∈ s.aon.supplyOut then s.aon.supplyOut else (if east then 1 else 0)
        :: s.aon.supplyOut) ∧
      (s.fbit Reg.FLT_REC_STATUS_PENDING = false → t.rd (Reg.FLT_PREV 1) = BitVec.ofNat 32 (2 ^ 25) ∧ wordGet (t.rd
        (Reg.FLT_PREV 0)) 20 16 = 25) ∧
      (s.fbit Reg.FLT_REC_STATUS_PENDING = true → t.rd (Reg.FLT_PREV 1) = (s.rd Reg.FLT_REC_SOURCES ||| BitVec.ofNat 32
        (2 ^ 25)) ∧ wordGet (t.rd (Reg.FLT_PREV 0)) 20 16 = wordGet (s.rd Reg.FLT_REC_STATUS) 20 16 ∧ t.rd (Reg.FLT_PREV
        4) = s.rd Reg.FLT_REC_UNIT) ∧
      bit (wordGet (t.rd (Reg.FLT_PREV 0)) 28 24) 4 = true ∧
      t.fbit Reg.FLT_STATUS_PREV_VALID = true ∧
      ResetDone s t) ∧
  -- VAON_LOW (R585)
  (∀ (s : State) (lost : Bool), s.canonical = true →
    ∃ t, exec (.vaonLow lost) s = .next t ∧
      t.aon.held = (if 2 ∈ s.aon.held then s.aon.held else 2 :: s.aon.held) ∧
      t.fbit Reg.FLT_STATUS_PREV_VALID = (!lost && s.fbit Reg.FLT_STATUS_PREV_VALID) ∧
      (∀ j : Nat, j < 6 → t.rd (Reg.FLT_PREV j) = (if lost then 0 else s.rd (Reg.FLT_PREV j))) ∧
      t.aon.supplyOut = s.aon.supplyOut ∧
      ResetDone s t) ∧
  -- SUPPLY_RETURN (R585)
  (∀ (s : State) (supply : Fin 3), s.canonical = true →
    ∃ t, exec (.supplyReturn supply) s = .next t ∧
      (supply = 2 → t.aon.held = s.aon.held.filter (· ≠ 2) ∧ t.aon.supplyOut = s.aon.supplyOut) ∧
      (supply ≠ 2 → t.aon.supplyOut = s.aon.supplyOut.filter (· ≠ supply.val)) ∧
      (supply ≠ 2 → t.aon.supplyOut = [] → t.aon.held = s.aon.held.filter (· ≠ 1) ∧ t.fbit (Reg.FLT_SRC_STAT_CAUSE 25) =
        false) ∧
      (supply ≠ 2 → t.aon.supplyOut ≠ [] → t.aon.held = s.aon.held ∧ t.csr = s.csr) ∧
      (s.down = true → t.down = false → t.stage = 0) ∧
      t.sent = s.sent ∧
      (∀ reg : Nat, reg ∉ [Reg.AON_ID, Reg.AON_TWIN_STATUS, Reg.INST_STATUS] ++ each 64 Reg.INST_REC ++ each 8
        Reg.TRU_CHAL ++ each 26 Reg.FLT_SRC_STAT → t.rd reg = s.rd reg) ∧
      t.mem = s.mem) ∧
  -- SERDES_SUPPLY_LOW (R585, R57, R325)
  (∀ (s : State) (streams : List (Fin 32)) (links : List (Fin 12)), s.canonical = true → s.down = false →
    ∃ t, exec (.serdesSupplyLow streams links) s = .next t ∧
      (∀ k ∈ links, t.fbit (Reg.IBL_STATUS_UP k) = false) ∧
      (∀ i ∈ streams, ∀ l : Fin 64, s.fbit (Reg.JRX_LANE_CFG_EN l) = true → s.fget (Reg.JRX_LANE_CFG_STREAM l) = i.val →
        t.fbit (Reg.JRX_LANE_STAT_EMB_LOCK l) = false ∧ t.fbit (Reg.JRX_LANE_STAT_BLOCK_LOCK l) = false ∧ t.fbit
        (Reg.ING_STATUS_ALIGNED i) = false) ∧
      t.aon.pcieUp = false ∧
      (s.aon.pcieUp = true → t.aon.pcieTraining = true) ∧
      (∀ reg : Nat, reg ∉ [Reg.CHR_FAIL, Reg.CHR_FAIL_CNT, Reg.CHR_STALE_ADDR, Reg.CHR_STATUS, Reg.MESH_STATUS,
        Reg.MESH_NOROUTE_CNT] ++ each 26 Reg.FLT_SRC_STAT ++ each 16 Reg.IBL_DOWN_CNT ++ each 16 Reg.IBL_DROP_CNT ++ each
        16 Reg.IBL_STATUS ++ each 32 Reg.ING_ABSENT_CNT ++ each 32 Reg.ING_GAP_CNT ++ each 32 Reg.ING_RING_WP_LO ++ each
        32 Reg.ING_RING_WP_HI ++ each 32 Reg.ING_STATUS ++ each 32 Reg.ING_WRAP_CNT ++ each 64 Reg.JRX_LANE_STAT ++ each
        16 Reg.MESH_XROUTE → t.rd reg = s.rd reg) ∧
      t.mem = s.mem) ∧
  -- VDDQ_LOW (R585)
  (∀ (s : State) (c : Fin 8), s.canonical = true → s.down = false →
    ∃ t, exec (.vddqLow c) s = .next t ∧
      t.fbit (Reg.DDR_STATUS_FAILED c) = true ∧
      t.fbit (Reg.DDR_STATUS_RETRAINING c) = false ∧
      t.fbit (Reg.DDR_STATUS_WAITING c) = false ∧
      .fault 4 5 c 0 ∈ t.sent ∧
      t.ddrServes c = false ∧
      (t.ddr c).queue = [] ∧
      ((s.ddr c).queue = [] → t.mem = s.mem) ∧
      (∀ reg : Nat, reg ∉ [Reg.DDR_STATUS c] ++ memorySide → t.rd reg = s.rd reg))

/-- Power window, thermal, ramp and island events complete. Power averaging, the thermal limits, the end of an operating-
point ramp, and an island that roosts, wakes, browns out or is switched off: status registers and fault events.
(19_power_and_islands.md.) -/
def Obligations.ThermalAndIslandCommandsComplete : Prop :=
  -- POWER_WINDOW (R561)
  (∀ (s : State) (west : BitVec 16) (east : BitVec 16), s.canonical = true → s.down = false →
    ∃ t, exec (.powerWindow west east) s = .next t ∧
      t.fget (Reg.PWR_HALF_PWR_P 0) = west.toNat ∧
      t.fget (Reg.PWR_HALF_PWR_P 1) = east.toNat ∧
      (s.aon.hot = [] → t.fget Reg.PWR_STATUS_HOLD = (if 10 * s.fget Reg.AON_LIMITS_PWR_MAX < west.toNat + east.toNat
        then min 15 (s.fget Reg.PWR_STATUS_HOLD + 1) else if 100 * (west.toNat + east.toNat) < 95 * (10 * s.fget
        Reg.AON_LIMITS_PWR_MAX) then s.fget Reg.PWR_STATUS_HOLD - 1 else s.fget Reg.PWR_STATUS_HOLD)) ∧
      (s.aon.hot ≠ [] → 8 ≤ s.fget Reg.PWR_STATUS_HOLD → 8 ≤ t.fget Reg.PWR_STATUS_HOLD) ∧
      (t.rd Reg.PWR_CAP_CNT).toNat = (if 10 * s.fget Reg.AON_LIMITS_PWR_MAX < west.toNat + east.toNat ∧ s.fget
        Reg.PWR_STATUS_HOLD < 15 then satCount 32 (s.rd Reg.PWR_CAP_CNT).toNat 1 else (s.rd Reg.PWR_CAP_CNT).toNat) ∧
      (t.fget Reg.PWR_STATUS_HOLD ≠ s.fget Reg.PWR_STATUS_HOLD → t.fbit Reg.PWR_STATUS_CAP = decide (t.fget
        Reg.PWR_STATUS_HOLD ≠ 0)) ∧
      t.sent = s.sent ∧
      (∀ reg : Nat, reg ∉ [Reg.PWR_CAP_CNT, Reg.PWR_STATUS] ++ each 2 Reg.PWR_HALF_PWR → t.rd reg = s.rd reg) ∧
      t.mem = s.mem) ∧
  -- THERMAL_WARNING (R562)
  (∀ (s : State) (sensor : Fin 17) (celsius : BitVec 8), s.canonical = true → s.down = false →
    ∃ t, exec (.thermalWarning sensor celsius) s = .next t ∧
      t.aon.hot = (if s.twarn < celsius.toInt then (if s.aon.hot.contains sensor.val then s.aon.hot else sensor.val ::
        s.aon.hot) else s.aon.hot.filter (· ≠ sensor.val)) ∧
      t.fbit Reg.PWR_STATUS_THERM = !t.aon.hot.isEmpty ∧
      t.fbit (Reg.FLT_SRC_STAT_CAUSE 22) = !t.aon.hot.isEmpty ∧
      t.fget Reg.PWR_STATUS_HOLD = (if t.aon.hot.isEmpty then s.fget Reg.PWR_STATUS_HOLD else max 8 (s.fget
        Reg.PWR_STATUS_HOLD)) ∧
      t.sent = (if s.twarn < celsius.toInt ∧ s.aon.hot.contains sensor.val = false then .fault 22 9 0 0 :: s.sent else
        s.sent) ∧
      (∀ reg : Nat, reg ∉ [Reg.PWR_STATUS, Reg.PWR_THERM] ++ each 26 Reg.FLT_SRC_STAT ++ each 2 Reg.PWR_HALF_TEMP → t.rd
        reg = s.rd reg) ∧
      t.mem = s.mem) ∧
  -- THERMAL_STOP (R563)
  (∀ (s : State) (sensor : Fin 17), s.canonical = true → s.down = false →
    ∃ t, exec (.thermalStop sensor) s = .next t ∧
      t.aon.held = [3] ∧
      t.aon.hot = [] ∧
      (s.fbit Reg.FLT_REC_STATUS_PENDING = false → t.rd (Reg.FLT_PREV 1) = BitVec.ofNat 32 (2 ^ 22) ∧ wordGet (t.rd
        (Reg.FLT_PREV 0)) 20 16 = 22) ∧
      (s.fbit Reg.FLT_REC_STATUS_PENDING = true → t.rd (Reg.FLT_PREV 1) = (s.rd Reg.FLT_REC_SOURCES ||| BitVec.ofNat 32
        (2 ^ 22)) ∧ wordGet (t.rd (Reg.FLT_PREV 0)) 20 16 = wordGet (s.rd Reg.FLT_REC_STATUS) 20 16 ∧ t.rd (Reg.FLT_PREV
        4) = s.rd Reg.FLT_REC_UNIT) ∧
      bit (wordGet (t.rd (Reg.FLT_PREV 0)) 28 24) 4 = true ∧
      t.fbit Reg.FLT_STATUS_PREV_VALID = true ∧
      t.aon.supplyOut = s.aon.supplyOut ∧
      ResetDone s t) ∧
  -- THERMAL_RESTART (R563)
  (∀ (s : State) (celsius : BitVec 8), s.canonical = true →
    ∃ t, exec (.thermalRestart celsius) s = .next t ∧
      (celsius.toInt < s.twarn - 10 → t.aon.held = s.aon.held.filter (· ≠ 3)) ∧
      (3 ∈ s.aon.held → celsius.toInt < s.twarn - 10 → t.down = !(s.aon.held.filter (· ≠ 3)).isEmpty) ∧
      (s.down = true → t.down = false → t.stage = 0) ∧
      (¬ celsius.toInt < s.twarn - 10 → t = s) ∧
      t.sent = s.sent ∧
      t.aon.goodAt = s.aon.goodAt ∧
      (∀ reg : Nat, reg ∉ [Reg.AON_ID, Reg.AON_TWIN_STATUS, Reg.INST_STATUS] ++ each 64 Reg.INST_REC ++ each 8
        Reg.TRU_CHAL → t.rd reg = s.rd reg) ∧
      t.mem = s.mem) ∧
  -- RAMP_END (R559)
  (∀ (s : State) (h : Fin 2) (dense : Bool), s.canonical = true → s.down = false →
    ∃ t, exec (.rampEnd h dense) s = .next t ∧
      (2 * h.val + (if dense then 1 else 0) ∈ s.aon.ramps → t.fget (if dense then Reg.PWR_HALF_STAT_DCLK_NOW h else
        Reg.PWR_HALF_STAT_FV_NOW h) = s.fget (if dense then Reg.PWR_HALF_OP_DCLK h else Reg.PWR_HALF_OP_FV h)) ∧
      t.aon.ramps = s.aon.ramps.filter (· ≠ 2 * h.val + (if dense then 1 else 0)) ∧
      (2 * h.val + (if dense then 1 else 0) ∈ s.aon.ramps → t.fbit (Reg.PWR_HALF_STAT_RAMPING h) = (t.aon.ramps.contains
        (2 * h) || t.aon.ramps.contains (2 * h + 1))) ∧
      (2 * h.val + (if dense then 1 else 0) ∉ s.aon.ramps → t = s) ∧
      t.sent = s.sent ∧
      t.mem = s.mem ∧
      (∀ reg : Nat, reg ∉ [Reg.PWR_HALF_STAT h] → t.rd reg = s.rd reg)) ∧
  -- BROWNOUT (R570)
  (∀ (s : State) (i : Fin 102), s.canonical = true → s.down = false → s.islState i = 2 →
    ∃ t, exec (.brownout i) s = .next t ∧
      t.islState i = 0 ∧
      t.sent.head? = some (.fault 21 8 i 0) ∧
      (t.rd Reg.PWR_BO_CNT).toNat = satCount 32 (s.rd Reg.PWR_BO_CNT).toNat 1 ∧
      (i.val < 64 → t.fbit (Reg.TILE_STATUS_ERR i) = false ∧ t.fbit (Reg.SEQ_CTL_RUN (2 * i)) = false ∧ t.fbit
        (Reg.SEQ_CTL_RUN (2 * i + 1)) = false) ∧
      (i.val < 64 → ∀ x : Nat, x < 0x83100000000 + 2 * i.val * 0x40000 ∨ 0x83100000000 + 2 * i.val * 0x40000 + 0x80000 ≤
        x → t.mget x = s.mget x) ∧
      (i.val = 72 ∨ i.val = 73 → ∀ x : Nat, Fill.holds ⟨0x80000000000, 0x30000000, none, .slices (128 * (i - 72)) 128⟩ x
        = false → t.mget x = s.mget x) ∧
      (74 ≤ i.val → i.val < 82 → ∀ x : Nat, 0x40000000000 ≤ x ∨ s.ddrChan x ≠ i.val - 74 → t.mget x = s.mget x) ∧
      (82 ≤ i.val → t.mem = s.mem ∧ t.fbit Reg.TRU_STATUS_BUSY = false) ∧
      (∀ reg : Nat, reg ∉ [Reg.PWR_BO_CNT, Reg.TRU_STATUS, Reg.TILE_CTL i, Reg.TILE_ERR i, Reg.TILE_STATUS i,
        Reg.MESH_NOROUTE_CNT] ++ each 102 Reg.PWR_ISL_STAT ++ each 4368 Reg.TRU_REPORT ++ each 8 Reg.DDR_STATUS ++ each
        1056 Reg.DMA_STATUS ++ each 1056 Reg.DMA_PC ++ each 1056 Reg.DMA_DONE ++ each2 1056 4 Reg.DMA_LOOP_CNT ++ each2
        1056 4 Reg.DMA_LOOP_PC ++ each2 137 16 Reg.Q_CFG ++ each2 137 64 Reg.Q_COMB ++ each2 137 64 Reg.Q_COMB_CNT ++
        each2 137 16 Reg.Q_STAT ++ each 137 Reg.Q_LOST_CNT ++ each 137 Reg.Q_MC_FAIL ++ each 137 Reg.Q_NOTICE_DROP_CNT ++
        each 137 Reg.Q_STATUS ++ each 128 Reg.SEQ_CTL ++ each 128 Reg.SEQ_STATUS ++ each 137 Reg.SYNC_ORPHAN_CNT ++ each2
        137 48 Reg.SYNC_STATE ++ each2 137 96 Reg.WATCH_W0 ++ each 8 (Reg.TILE_BOUND i) ++ each 2 (Reg.TILE_RING i) ++
        each 8 (Reg.TILE_TQ i) ++ each 16 Reg.IBL_DROP_CNT ++ each 2 Reg.BDMA_BYTE_CNT ++ each 64 Reg.TDMA_BYTE_CNT →
        t.rd reg = s.rd reg)) ∧
  -- BROWNOUT: an island that does not roost (R570)
  (∀ (s : State) (i : Fin 102), s.canonical = true → s.down = false → s.islState i ≠ 2 →
    ∃ t, exec (.brownout i) s = .next t ∧
      t = s) ∧
  -- ROOST_ENTRY (R564, R566)
  (∀ (s : State) (i : Fin 102) (request : Bool) (wfi0 : Bool) (wfi1 : Bool), s.canonical = true → s.down = false →
    s.islState i = 0 → (s.wfiShow i wfi0 wfi1).mayRoost i wfi0 wfi1 = true →
    ∃ t, exec (.roostEntry i request wfi0 wfi1) s = .next t ∧
      (request = false → t.islState i = 2 ∧ t.fget (Reg.PWR_ISL_STAT_ROOSTS i) = satCount 16 (s.fget
        (Reg.PWR_ISL_STAT_ROOSTS i)) 1 ∧ t.rd Reg.PWR_ROOST_ABORT_CNT = s.rd Reg.PWR_ROOST_ABORT_CNT) ∧
      (request = true → t.islState i = 0 ∧ (t.rd Reg.PWR_ROOST_ABORT_CNT).toNat = satCount 32 (s.rd
        Reg.PWR_ROOST_ABORT_CNT).toNat 1) ∧
      t.mem = s.mem ∧
      t.sent = s.sent ∧
      (∀ reg : Nat, reg ∉ [Reg.PWR_ROOST_ABORT_CNT] ++ each 102 Reg.PWR_ISL_STAT ++ each 128 Reg.SEQ_STATUS → t.rd reg =
        s.rd reg)) ∧
  -- ROOST_ENTRY: of a tile: its cores show whether they wait for an interrupt (R564, R566)
  (∀ (s : State) (i : Fin 102) (request : Bool) (wfi0 : Bool) (wfi1 : Bool), s.canonical = true → s.down = false → i.val
    < 64 → s.tileAbsent i = false →
    ∃ t, exec (.roostEntry i request wfi0 wfi1) s = .next t ∧
      t.fbit (Reg.SEQ_STATUS_WFI (2 * i)) = (wfi0 && s.fbit (Reg.SEQ_CTL_RUN (2 * i))) ∧
      t.fbit (Reg.SEQ_STATUS_WFI (2 * i + 1)) = (wfi1 && s.fbit (Reg.SEQ_CTL_RUN (2 * i + 1))) ∧
      (∀ reg : Nat, reg ∉ [Reg.PWR_ROOST_ABORT_CNT] ++ each 102 Reg.PWR_ISL_STAT ++ each 128 Reg.SEQ_STATUS → t.rd reg =
        s.rd reg) ∧
      t.mem = s.mem) ∧
  -- ROOST_ENTRY: the condition of R564 does not hold (R564, R566)
  (∀ (s : State) (i : Fin 102) (request : Bool) (wfi0 : Bool) (wfi1 : Bool), s.canonical = true → s.down = false →
    s.islState i ≠ 0 ∨ (s.wfiShow i wfi0 wfi1).mayRoost i wfi0 wfi1 = false →
    ∃ t, exec (.roostEntry i request wfi0 wfi1) s = .next t ∧
      t = s.wfiShow i wfi0 wfi1 ∧
      t.mem = s.mem) ∧
  -- ROOST_WAKE (R567, R568)
  (∀ (s : State) (i : Fin 102) (cause : Fin 9), s.canonical = true → s.down = false →
    ∃ t, exec (.roostWake i cause) s = .next t ∧
      (cause ≠ 0 → s.islState i = 2 → t.islState i = 3 ∧ t.fget (Reg.PWR_ISL_STAT_WAKE_SRC i) = cause.val) ∧
      (cause = 0 ∨ s.islState i ≠ 2 → t = s) ∧
      t.mem = s.mem ∧
      t.sent = s.sent ∧
      (∀ reg : Nat, reg ∉ each 102 Reg.PWR_ISL_STAT → t.rd reg = s.rd reg)) ∧
  -- ISLAND_WAKE_WRITE (R567, R572)
  (∀ (s : State) (m : Master) (i : Fin 102), s.canonical = true → s.admits m (Reg.PWR_ISL_CTL i) = true →
    ∃ t, exec (.islandWakeWrite m i) s = .next t ∧
      (s.islState i = 2 → t.islState i = 3 ∧ t.fget (Reg.PWR_ISL_STAT_WAKE_SRC i) = 6) ∧
      t.mem = s.mem ∧
      (∀ reg : Nat, reg ∉ [Reg.PWR_ISL_CTL i] ++ each 102 Reg.PWR_ISL_STAT ++ accessRegs (Reg.PWR_ISL_CTL i) → t.rd reg =
        s.rd reg)) ∧
  -- WAKE_END (R567)
  (∀ (s : State) (i : Fin 102), s.canonical = true → s.down = false →
    ∃ t, exec (.wakeEnd i) s = .next t ∧
      t.islState i = (if s.islState i = 3 then 0 else s.islState i) ∧
      (s.islState i ≠ 3 → t = s) ∧
      t.mem = s.mem ∧
      t.sent = s.sent ∧
      (∀ reg : Nat, reg ∉ each 102 Reg.PWR_ISL_STAT → t.rd reg = s.rd reg)) ∧
  -- ISLAND_OFF (R571)
  (∀ (s : State) (m : Master) (i : Fin 102) (off : Bool), s.canonical = true → s.admits m (Reg.PWR_ISL_CTL i) = true →
    islMayOff i = true → s.islDisabled i = true →
    ∃ t, exec (.islandOff m i off) s = .next t ∧
      t.fbit (Reg.PWR_ISL_CTL_OFF i) = off ∧
      (s.fbit (Reg.PWR_ISL_CTL_OFF i) ≠ off → t.islState i = (if off then 4 else 0)) ∧
      (s.fbit (Reg.PWR_ISL_CTL_OFF i) ≠ off → off = true → 74 ≤ i.val → i.val < 82 → t.fbit (Reg.DDR_STATUS_TRAINED (i -
        74)) = false) ∧
      (∀ x : Nat, off = false ∨ 82 ≤ i.val ∨ 0x40000000000 ≤ x ∨ s.ddrChan x ≠ i.val - 74 → t.mget x = s.mget x) ∧
      (∀ reg : Nat, reg ∉ [Reg.PWR_ISL_CTL i] ++ each 102 Reg.PWR_ISL_STAT ++ each 8 Reg.DDR_STATUS ++ accessRegs
        (Reg.PWR_ISL_CTL i) → t.rd reg = s.rd reg)) ∧
  -- ISLAND_OFF: an island that may not be switched off, or whose unit is enabled (R571)
  (∀ (s : State) (m : Master) (i : Fin 102) (off : Bool), s.canonical = true → s.admits m (Reg.PWR_ISL_CTL i) = true →
    islMayOff i = false ∨ s.islDisabled i = false → off = true → s.fbit (Reg.PWR_ISL_CTL_OFF i) = false →
    ∃ t, exec (.islandOff m i off) s = .next t ∧
      t.fbit (Reg.PWR_ISL_CTL_OFF i) = false ∧
      t.fbit Reg.PWR_STATUS_CFG_IGNORED = true ∧
      t.mem = s.mem ∧
      (∀ reg : Nat, reg ∉ [Reg.PWR_ISL_CTL i] ++ each 102 Reg.PWR_ISL_STAT ++ each 8 Reg.DDR_STATUS ++ accessRegs
        (Reg.PWR_ISL_CTL i) → t.rd reg = s.rd reg))

/-- Instars 0 to 2 and recovery complete. Instar 0 (PLL, limits, start counter), Instar 1 and the two recovery paths (the
image accepted or refused by its code), Instar 2 (defects, windows zero). (15_instars.md, 18_trust.md.) -/
def Obligations.EarlyInstarsComplete : Prop :=
  -- SUPPLIES_AND_AON (R469, R472)
  (∀ (s : State) (vinOk : Bool) (pllOk : Bool) (pllUs : BitVec 16), s.canonical = true → s.down = false → s.inInstar 0 =
    true → vinOk = true → pllOk = true → pllUs.toNat ≤ 2000 → s.pageLost = [] →
    ∃ t, exec (.suppliesAndAon vinOk pllOk pllUs) s = .next t ∧
      t.stage = 1 ∧
      t.aon.pll = true ∧
      t.counter = BitVec.ofInt 64 ((s.time - s.aon.goodAt - 1000 * pllUs.toNat : Nat) : Int) ∧
      t.rd Reg.AON_LIMITS = BitVec.ofNat 32 (s.mramNat 0 4) ∧
      t.fbit Reg.SET_STATUS_MFG_LOCK = true ∧
      t.rd Reg.INST_START_CNT = BitVec.ofNat 32 (min (2 ^ 32 - 1) (s.mramNat (32 * 4096) 4 + 1)) ∧
      t.rd Reg.TRU_SVN = BitVec.ofNat 32 (s.mramNat (48 * 4096) 4) ∧
      t.rd (Reg.TRU_DEVICE_ID 0) = BitVec.ofNat 32 Config.deviceId.toNat ∧
      wordGet (t.rd (Reg.INST_REC 4)) 31 24 = 2 ∧
      t.sent = s.sent ∧
      (∀ reg : Nat, reg ∉ [Reg.AON_LIMITS, Reg.INST_START_CNT, Reg.INST_STATUS, Reg.SET_STATUS, Reg.SET_UE_CNT,
        Reg.TRU_SVN] ++ each 64 Reg.INST_REC ++ each 2 Reg.TRU_DEVICE_ID → t.rd reg = s.rd reg) ∧
      t.mem = s.mem) ∧
  -- SUPPLIES_AND_AON: VIN out of range, or no PLL lock within 2,000 us (R469, R472)
  (∀ (s : State) (vinOk : Bool) (pllOk : Bool) (pllUs : BitVec 16), s.canonical = true → s.down = false → s.inInstar 0 =
    true → vinOk = false ∨ pllOk = false ∨ 2000 < pllUs.toNat →
    ∃ t, exec (.suppliesAndAon vinOk pllOk pllUs) s = .next t ∧
      t.stage = 0 ∧
      t.fbit Reg.INST_STATUS_FAILED = true ∧
      t.fget Reg.INST_STATUS_CODE = (if vinOk then 0x02 else 0x01) ∧
      wordGet (t.rd (Reg.INST_REC 4)) 31 24 = 4 ∧
      t.aon.stageAt = s.time ∧
      t.aon.stageInv = false ∧
      t.sent = s.sent ∧
      (∀ reg : Nat, reg ∉ [Reg.INST_STATUS] ++ each 64 Reg.INST_REC → t.rd reg = s.rd reg) ∧
      t.mem = s.mem) ∧
  -- SUPPLIES_AND_AON: a sector of the manufacturer page is lost in both copies (R469, R472)
  (∀ (s : State) (vinOk : Bool) (pllOk : Bool) (pllUs : BitVec 16), s.canonical = true → s.down = false → s.inInstar 0 =
    true → vinOk = true → pllOk = true → pllUs.toNat ≤ 2000 → s.pageLost ≠ [] →
    ∃ t, exec (.suppliesAndAon vinOk pllOk pllUs) s = .next t ∧
      t.stage = 0 ∧
      t.fbit Reg.INST_STATUS_FAILED = true ∧
      t.fget Reg.INST_STATUS_CODE = 0x03 ∧
      wordGet (t.rd (Reg.INST_REC 4)) 31 24 = 4 ∧
      t.aon.stageAt = s.time ∧
      t.aon.stageInv = false ∧
      (t.rd Reg.SET_UE_CNT).toNat = satCount 32 (s.rd Reg.SET_UE_CNT).toNat s.pageLost.length ∧
      (∀ k ∈ s.pageLost, .fault 20 9 0 (BitVec.ofNat 32 (k * 4096)) ∈ t.sent) ∧
      (∀ reg : Nat, reg ∉ [Reg.INST_STATUS, Reg.SET_UE_CNT] ++ each 64 Reg.INST_REC → t.rd reg = s.rd reg) ∧
      t.mem = s.mem) ∧
  -- SUPPLIES_AND_AON: Instar 0 does not run (R469, R472)
  (∀ (s : State) (vinOk : Bool) (pllOk : Bool) (pllUs : BitVec 16), s.canonical = true → s.down = false → s.inInstar 0 =
    false →
    ∃ t, exec (.suppliesAndAon vinOk pllOk pllUs) s = .next t ∧
      t = s ∧
      t.mem = s.mem) ∧
  -- TRUST (R541, R548)
  (∀ (s : State) (answers : Bool) (image : List Byte), s.canonical = true → s.down = false → s.inInstar 1 = true →
    ∃ t, exec (.trust answers image) s = .next t ∧
      (answers = true → s.imageCode image = 0 → t.stage = 2 ∧ t.trust.image = image ∧ t.fbit Reg.TRU_STATUS_ROM_LOCK =
        true ∧ t.rd Reg.TRU_IMG_SVN = BitVec.ofNat 32 (imgNat image 8 4) ∧ wordGet (t.rd (Reg.INST_REC 12)) 31 24 = 2) ∧
      (answers = false ∨ s.imageCode image ≠ 0 → t.stage = 1 ∧ t.fbit Reg.INST_STATUS_FAILED = true ∧ t.fget
        Reg.INST_STATUS_CODE = (if answers then s.imageCode image else 0x10) ∧ t.trust.image = s.trust.image) ∧
      (answers = true → s.imageCode image ≠ 0 → t.fbit Reg.TRU_STATUS_RECOVERY = true ∧ t.trust.stagingOwner = none) ∧
      t.sent = s.sent ∧
      (∀ reg : Nat, reg ∉ [Reg.INST_STATUS, Reg.TRU_STATUS, Reg.AON_TWIN_VER, Reg.TRU_IMG_SVN] ++ each 64 Reg.INST_REC ++
        each 8 Reg.TRU_ATT_PK ++ each 64 Reg.TRU_MEAS → t.rd reg = s.rd reg) ∧
      t.mem = s.mem) ∧
  -- TRUST: Instar 1 does not run (R541, R548)
  (∀ (s : State) (answers : Bool) (image : List Byte), s.canonical = true → s.down = false → s.inInstar 1 = false →
    ∃ t, exec (.trust answers image) s = .next t ∧
      t = s ∧
      t.mem = s.mem) ∧
  -- TWIN_IMAGE_DELIVERED (R548)
  (∀ (s : State) (image : List Byte), s.canonical = true → s.down = false → s.fbit Reg.TRU_STATUS_RECOVERY = true →
    s.trust.stagingOwner ≠ some true →
    ∃ t, exec (.twinImageDelivered image) s = .next t ∧
      t.trust.stagingOwner = none ∧
      (s.imageCode image = 0 → t.stage = 2 ∧ t.trust.image = image ∧ t.fbit Reg.TRU_STATUS_RECOVERY = false ∧ t.fget
        Reg.TRU_STATUS_SRC = 1 ∧ t.fbit Reg.INST_STATUS_FAILED = false) ∧
      (s.imageCode image ≠ 0 → t.stage = s.stage ∧ t.fbit Reg.TRU_STATUS_RECOVERY = true ∧ t.trust.image = s.trust.image)
        ∧
      t.sent = s.sent ∧
      (∀ reg : Nat, reg ∉ [Reg.INST_STATUS, Reg.TRU_STATUS, Reg.AON_TWIN_VER, Reg.TRU_IMG_SVN] ++ each 64 Reg.INST_REC ++
        each 8 Reg.TRU_ATT_PK ++ each 64 Reg.TRU_MEAS → t.rd reg = s.rd reg) ∧
      t.mem = s.mem) ∧
  -- TWIN_IMAGE_DELIVERED: no recovery wait, or the host owns the staging area (R548)
  (∀ (s : State) (image : List Byte), s.canonical = true → s.down = false → s.fbit Reg.TRU_STATUS_RECOVERY = false ∨
    s.trust.stagingOwner = some true →
    ∃ t, exec (.twinImageDelivered image) s = .next t ∧
      t = s ∧
      t.mem = s.mem) ∧
  -- RCV_GO (R548)
  (∀ (s : State) (m : Master), s.canonical = true → s.admits m Reg.TRU_CTL = true → m = .pcie ∨ s.level m = 2 → s.fbit
    Reg.TRU_STATUS_RECOVERY = true → s.trust.stagingOwner ≠ some false →
    ∃ t, exec (.rcvGo m) s = .next t ∧
      t.trust.stagingOwner = none ∧
      (s.imageCode (s.trust.staging.read 0 (min (6 * 2 ^ 20) (s.fget Reg.TRU_RCV_LEN_LEN))) = 0 → t.stage = 2 ∧
        t.trust.image = (s.trust.staging.read 0 (min (6 * 2 ^ 20) (s.fget Reg.TRU_RCV_LEN_LEN))) ∧ t.fbit
        Reg.TRU_STATUS_RECOVERY = false ∧ t.fget Reg.TRU_STATUS_SRC = 2 ∧ t.fbit Reg.INST_STATUS_FAILED = false) ∧
      (s.imageCode (s.trust.staging.read 0 (min (6 * 2 ^ 20) (s.fget Reg.TRU_RCV_LEN_LEN))) ≠ 0 → t.stage = s.stage ∧
        t.fbit Reg.TRU_STATUS_RECOVERY = true ∧ t.trust.image = s.trust.image) ∧
      t.sent = s.sent ∧
      (∀ reg : Nat, reg ∉ [Reg.INST_STATUS, Reg.TRU_STATUS, Reg.AON_TWIN_VER, Reg.TRU_IMG_SVN] ++ each 64 Reg.INST_REC ++
        each 8 Reg.TRU_ATT_PK ++ each 64 Reg.TRU_MEAS ++ accessRegs Reg.TRU_CTL → t.rd reg = s.rd reg) ∧
      t.mem = s.mem) ∧
  -- RCV_GO: the twin owns the staging area (R548)
  (∀ (s : State) (m : Master), s.canonical = true → s.admits m Reg.TRU_CTL = true → m = .pcie ∨ s.level m = 2 → s.fbit
    Reg.TRU_STATUS_RECOVERY = true → s.trust.stagingOwner = some false →
    ∃ t, exec (.rcvGo m) s = .next t ∧
      t.fbit Reg.TRU_STATUS_CFG_IGNORED = true ∧
      t.trust = s.trust ∧
      t.stage = s.stage ∧
      t.mem = s.mem ∧
      (∀ reg : Nat, reg ∉ accessRegs Reg.TRU_CTL → t.rd reg = s.rd reg)) ∧
  -- SELF_TEST (R475)
  (∀ (s : State) (found : List (BitVec 64)) (unspared : Bool) (storeOk : Bool) (n : Fin 1024) (off : Fin 0x200000),
    s.canonical = true → s.down = false → s.inInstar 2 = true →
    ∃ t, exec (.selfTest found unspared storeOk) s = .next t ∧
      (unspared = false → (s.newDefects found).any (fun r => decide (bits r 63 60 = 3)) = false → t.stage = 3) ∧
      (unspared = true ∨ (s.newDefects found).any (fun r => decide (bits r 63 60 = 3)) = true → t.stage = 2 ∧ t.fbit
        Reg.INST_STATUS_FAILED = true ∧ t.fget Reg.INST_STATUS_CODE = 0x20) ∧
      (∀ i : Fin 8, t.islState (64 + i) = 5) ∧
      t.mget (winAddr n off) = 0 ∧
      (∀ r ∈ s.newDefects found, ∀ u, recUnit r = some u → u ∈ t.aon.defects) ∧
      (∀ x : Nat, x < winAddr 0 0 ∨ winAddr 1024 0 ≤ x → t.mget x = s.mget x) ∧
      (∀ reg : Nat, reg ∉ [Reg.INST_CAP, Reg.INST_STATUS] ++ each 32 Reg.INST_NROW ++ each 8 Reg.INST_TROW ++ each 64
        Reg.INST_REC ++ each 102 Reg.PWR_ISL_STAT → t.rd reg = s.rd reg)) ∧
  -- SELF_TEST: Instar 2 does not run (R475)
  (∀ (s : State) (found : List (BitVec 64)) (unspared : Bool) (storeOk : Bool), s.canonical = true → s.down = false →
    s.inInstar 2 = false →
    ∃ t, exec (.selfTest found unspared storeOk) s = .next t ∧
      t = s)

/-- Instars 3 to 6 complete. Instar 3 to Instar 6: the stage they reach, the record of the stage, READY, the step generator,
GATE; the stage signal alternates after a failure. (15_instars.md.) -/
def Obligations.LateInstarsComplete : Prop :=
  -- FABRIC (R469)
  (∀ (s : State) (code : BitVec 8) (where_ : Word) (checked : BitVec 16) (tables : List (Nat × Word)), s.canonical = true
    → s.down = false → s.inInstar 3 = true → ¬(0x30 ≤ code.toNat ∧ code.toNat ≤ 0x32) →
    ∃ t, exec (.fabric code where_ checked tables) s = .next t ∧
      t.stage = 4 ∧
      wordGet (t.rd (Reg.INST_REC 28)) 31 24 = 2 ∧
      wordGet (t.rd (Reg.INST_REC 28)) 15 0 = checked.toNat ∧
      t.mem = s.mem ∧
      (∀ reg : Nat, reg ∉ (tables.map Prod.fst) ++ writeSide → t.rd reg = s.rd reg)) ∧
  -- FABRIC: a check of Instar 3 fails: MESH, SEAM or CTRL (R469)
  (∀ (s : State) (code : BitVec 8) (where_ : Word) (checked : BitVec 16) (tables : List (Nat × Word)), s.canonical = true
    → s.down = false → s.inInstar 3 = true → 0x30 ≤ code.toNat → code.toNat ≤ 0x32 →
    ∃ t, exec (.fabric code where_ checked tables) s = .next t ∧
      t.stage = 3 ∧
      t.fbit Reg.INST_STATUS_FAILED = true ∧
      t.fget Reg.INST_STATUS_CODE = code.toNat ∧
      wordGet (t.rd (Reg.INST_REC 28)) 31 24 = 4 ∧
      t.aon.stageAt = s.time ∧
      t.aon.stageInv = false ∧
      wordGet (t.rd (Reg.INST_REC 28)) 15 0 = checked.toNat ∧
      t.rd (Reg.INST_REC 29) = where_ ∧
      t.sent = s.sent ∧
      t.mem = s.mem ∧
      (∀ reg : Nat, reg ∉ [Reg.INST_STATUS] ++ each 64 Reg.INST_REC → t.rd reg = s.rd reg)) ∧
  -- FABRIC: Instar 3 does not run (R469)
  (∀ (s : State) (code : BitVec 8) (where_ : Word) (checked : BitVec 16) (tables : List (Nat × Word)), s.canonical = true
    → s.down = false → s.inInstar 3 = false →
    ∃ t, exec (.fabric code where_ checked tables) s = .next t ∧
      t = s) ∧
  -- MEMORIES (R469)
  (∀ (s : State) (slicesOk : Bool) (off : Fin 0x30000000), s.canonical = true → s.down = false → s.inInstar 4 = true →
    (s.fbit Reg.INST_STATUS_COCOON = true ∨ ∀ c : Fin 8, s.fbit (Reg.DDR_CTL_EN c) = true → s.fbit
    (Reg.DDR_STATUS_TRAINED c) = true ∨ s.fbit (Reg.DDR_STATUS_FAILED c) = true) →
    ∃ t, exec (.memories slicesOk) s = .next t ∧
      (slicesOk = true → t.stage = (if s.fbit Reg.INST_STATUS_COCOON then 6 else 5)) ∧
      (slicesOk = false → t.stage = 4 ∧ t.fbit Reg.INST_STATUS_FAILED = true ∧ t.fget Reg.INST_STATUS_CODE = 0x40) ∧
      (s.fbit Reg.INST_STATUS_COCOON = true ∨ slicesOk = false → t.mget (0x80000000000 + off) = 0) ∧
      (slicesOk = true → s.fbit Reg.INST_STATUS_COCOON = false → t.aon.imgLocked = true) ∧
      wordGet (t.rd (Reg.INST_REC 36)) 15 0 = s.ddrUp.length ∧
      (∀ x : Nat, (x < 0x80000000000 ∨ 0x80030000000 ≤ x) ∧ (x < s.rd64 Reg.INST_IMG_BASE_LO ∨ s.rd64
        Reg.INST_IMG_BASE_LO + s.trust.image.length ≤ x) → t.mget x = s.mget x) ∧
      t.sent = s.sent ∧
      (∀ reg : Nat, reg ∉ [Reg.INST_STATUS, Reg.CHR_FAIL, Reg.CHR_FAIL_CNT, Reg.CHR_STALE_ADDR, Reg.CHR_STATUS,
        Reg.INST_IMG_BASE_LO, Reg.INST_IMG_BASE_HI] ++ each 64 Reg.INST_REC → t.rd reg = s.rd reg)) ∧
  -- MEMORIES: Instar 4 does not run (R469)
  (∀ (s : State) (slicesOk : Bool), s.canonical = true → s.down = false → s.inInstar 4 = false →
    ∃ t, exec (.memories slicesOk) s = .next t ∧
      t = s) ∧
  -- MEMORIES: an enabled channel is neither trained nor failed (R469)
  (∀ (s : State) (slicesOk : Bool), s.canonical = true → s.down = false → s.fbit Reg.INST_STATUS_COCOON = false → (∃ c :
    Fin 8, s.fbit (Reg.DDR_CTL_EN c) = true ∧ s.fbit (Reg.DDR_STATUS_TRAINED c) = false ∧ s.fbit (Reg.DDR_STATUS_FAILED
    c) = false) →
    ∃ t, exec (.memories slicesOk) s = .next t ∧
      t = s) ∧
  -- DDR_INSTAR_TIMEOUT (R470)
  (∀ (s : State), s.canonical = true → s.down = false →
    ∃ t, exec .ddrInstarTimeout s = .next t ∧
      (s.inInstar 4 = true → s.fbit Reg.INST_STATUS_COCOON = false → s.aon.stageAt + 30000000 ≤ s.time → ∀ c : Fin 8,
        t.fbit (Reg.DDR_STATUS_FAILED c) = (s.fbit (Reg.DDR_STATUS_FAILED c) || (s.fbit (Reg.DDR_CTL_EN c) && !s.fbit
        (Reg.DDR_STATUS_TRAINED c)))) ∧
      (s.inInstar 4 = false ∨ s.fbit Reg.INST_STATUS_COCOON = true ∨ s.time < s.aon.stageAt + 30000000 → t = s) ∧
      t.mem = s.mem ∧
      t.sent = s.sent ∧
      (∀ reg : Nat, reg ∉ each 8 Reg.DDR_STATUS → t.rd reg = s.rd reg)) ∧
  -- LINKS (R469)
  (∀ (s : State) (board : List (Fin 12 × Word)), s.canonical = true → s.down = false → s.inInstar 5 = true →
    ∃ t, exec (.links board) s = .next t ∧
      ((s.boardCheck board).streamsOut = [] → ((s.boardCheck board).linksOut board) = [] → s.aon.pcieUp = true → t.stage
        = 6 ∧ t.fbit Reg.AON_ACCESS_LOCK = true ∧ wordGet (t.rd (Reg.INST_REC 44)) 31 24 = 2) ∧
      ((s.boardCheck board).streamsOut ≠ [] ∨ ((s.boardCheck board).linksOut board) ≠ [] ∨ s.aon.pcieUp = false → t =
        (s.boardCheck board)) ∧
      (∀ k : Fin 12, s.fbit (Reg.IBL_PEER_VALID k) = true → s.peerRight board k = false → k.val ∈ t.aon.heldLinks ∧
        (s.aon.heldLinks.contains k.val = false → t.fbit (Reg.IBL_CTL_EN k) = false)) ∧
      (∀ reg : Nat, reg ∉ [Reg.AON_ACCESS, Reg.INST_STATUS, Reg.CHR_FAIL, Reg.CHR_FAIL_CNT, Reg.CHR_STALE_ADDR,
        Reg.CHR_STATUS, Reg.MESH_STATUS, Reg.MESH_NOROUTE_CNT] ++ each 64 Reg.INST_REC ++ each 16 Reg.IBL_DROP_CNT ++
        each 16 Reg.IBL_STATUS ++ each 16 Reg.MESH_XROUTE → t.rd reg = s.rd reg) ∧
      t.mem = s.mem) ∧
  -- LINKS: Instar 5 does not run (R469)
  (∀ (s : State) (board : List (Fin 12 × Word)), s.canonical = true → s.down = false → s.inInstar 5 = false →
    ∃ t, exec (.links board) s = .next t ∧
      t = s ∧
      t.mem = s.mem) ∧
  -- LINKS_TIMEOUT (R469)
  (∀ (s : State) (board : List (Fin 12 × Word)), s.canonical = true → s.down = false → s.inInstar 5 = true →
    s.aon.stageAt + 26000000 ≤ s.time →
    ∃ t, exec (.linksTimeout board) s = .next t ∧
      t.stage = 6 ∧
      t.fbit Reg.AON_ACCESS_LOCK = true ∧
      wordGet (t.rd (Reg.INST_REC 44)) 31 24 = (if (s.boardCheck board).streamsOut = [] ∧ (s.boardCheck board).linksOut
        board = [] ∧ s.aon.pcieUp = true then 2 else 3) ∧
      (∀ k : Fin 12, s.fbit (Reg.IBL_PEER_VALID k) = true → s.peerRight board k = false → k.val ∈ t.aon.heldLinks ∧
        (s.aon.heldLinks.contains k.val = false → t.fbit (Reg.IBL_CTL_EN k) = false)) ∧
      (∀ reg : Nat, reg ∉ [Reg.AON_ACCESS, Reg.INST_STATUS, Reg.CHR_FAIL, Reg.CHR_FAIL_CNT, Reg.CHR_STALE_ADDR,
        Reg.CHR_STATUS, Reg.MESH_STATUS, Reg.MESH_NOROUTE_CNT] ++ each 64 Reg.INST_REC ++ each 16 Reg.IBL_DROP_CNT ++
        each 16 Reg.IBL_STATUS ++ each 16 Reg.MESH_XROUTE → t.rd reg = s.rd reg) ∧
      t.mem = s.mem) ∧
  -- LINKS_TIMEOUT: Instar 5 does not run, or not yet for 26 ms (R469)
  (∀ (s : State) (board : List (Fin 12 × Word)), s.canonical = true → s.down = false → s.inInstar 5 = false ∨ s.time <
    s.aon.stageAt + 26000000 →
    ∃ t, exec (.linksTimeout board) s = .next t ∧
      t = s ∧
      t.mem = s.mem) ∧
  -- LOAD (R469, R433)
  (∀ (s : State) (wellFormed : Bool) (regs : List (Nat × Word)) (bytes : List (Nat × Byte)) (cores : BitVec 16) (x :
    Nat), s.canonical = true → s.down = false → s.mayLoad = true → s.fbit Reg.INST_STATUS_COCOON = false → wellFormed =
    true →
    ∃ t, exec (.load wellFormed regs bytes cores) s = .next t ∧
      ((((s.loadImage regs bytes).regWrite .aon Reg.FLT_WDOG (wordSet ((s.loadImage regs bytes).rd Reg.FLT_WDOG) 31 31
        1)).stepEnable).stepOn = true → t.inService = true ∧ t.stage = 6 ∧ t.stepOn = true ∧ t.fbit
        Reg.INST_STATUS_FAILED = false ∧ wordGet (t.rd (Reg.INST_REC 52)) 31 24 = 2 ∧ wordGet (t.rd (Reg.INST_REC 52)) 15
        0 = cores.toNat ∧ t.rd Reg.INST_READY_US = BitVec.ofNat 32 ((t.time - t.aon.goodAt) / 1000) ∧ t.aon.reached6 =
        t.time ∧ (t.standby = false → t.fbit Reg.TB_OUT_STATUS_GATE = true)) ∧
      ((((s.loadImage regs bytes).regWrite .aon Reg.FLT_WDOG (wordSet ((s.loadImage regs bytes).rd Reg.FLT_WDOG) 31 31
        1)).stepEnable).stepOn = false → t.inService = false ∧ t.fbit Reg.INST_STATUS_FAILED = true ∧ t.fget
        Reg.INST_STATUS_CODE = 0x61) ∧
      t.mem = (s.loadImage regs bytes).mem ∧
      (regs = [] → (x ∉ bytes.map Prod.fst) → t.mget x = s.mget x) ∧
      (∀ reg : Nat, reg ∉ (regs.map Prod.fst) ++ writeSide → t.rd reg = s.rd reg)) ∧
  -- LOAD: a section of the image is not well formed (R469, R433)
  (∀ (s : State) (wellFormed : Bool) (regs : List (Nat × Word)) (bytes : List (Nat × Byte)) (cores : BitVec 16),
    s.canonical = true → s.down = false → s.mayLoad = true → s.fbit Reg.INST_STATUS_COCOON = false → wellFormed = false →
    ∃ t, exec (.load wellFormed regs bytes cores) s = .next t ∧
      t.stage = 6 ∧
      t.fbit Reg.INST_STATUS_FAILED = true ∧
      t.fget Reg.INST_STATUS_CODE = 0x60 ∧
      wordGet (t.rd (Reg.INST_REC 52)) 31 24 = 4 ∧
      t.aon.stageAt = s.time ∧
      t.aon.stageInv = false ∧
      t.sent = s.sent ∧
      t.mem = s.mem ∧
      (∀ reg : Nat, reg ∉ [Reg.INST_STATUS] ++ each 64 Reg.INST_REC → t.rd reg = s.rd reg)) ∧
  -- LOAD: Instar 6 does not load, or a Cocoon runs (R469, R433)
  (∀ (s : State) (wellFormed : Bool) (regs : List (Nat × Word)) (bytes : List (Nat × Byte)) (cores : BitVec 16),
    s.canonical = true → s.down = false → s.mayLoad = false ∨ s.fbit Reg.INST_STATUS_COCOON = true →
    ∃ t, exec (.load wellFormed regs bytes cores) s = .next t ∧
      t = s) ∧
  -- STAGE_ALTERNATE (R471)
  (∀ (s : State), s.canonical = true → s.down = false →
    ∃ t, exec .stageAlternate s = .next t ∧
      t.aon = (if s.fbit Reg.INST_STATUS_FAILED = true ∧ s.aon.stageAt + 250000000 ≤ s.time then
        { s.aon with stageInv := !s.aon.stageInv, stageAt := s.time } else s.aon) ∧
      t.csr = s.csr ∧
      t.mem = s.mem ∧
      t.sent = s.sent)

/-- Service, Cocoon, row substitution and PCIe link events complete. Entering and leaving service, a Cocoon and its end, a
request to substitute a row, and what the PCIe port does with PERST_N, its link and configuration requests. (15_instars.md,
16_registers_chrysalis_settings.md, 20_pins_and_package.md.) -/
def Obligations.ServiceCocoonAndHostLinkComplete : Prop :=
  -- SERVICE_ENTER (R473)
  (∀ (s : State) (m : Master), s.canonical = true → s.admits m Reg.INST_CTL = true →
    ∃ t, exec (.serviceEnter m) s = .next t ∧
      (s.inService = true → s.stage = 6 → t.stage = 7 ∧ t.fbit Reg.INST_CTL_SERVICE = true ∧ wordGet (t.rd (Reg.INST_REC
        60)) 31 24 = 1 ∧ t.rd64 (Reg.INST_REC 56) = s.now) ∧
      (s.inService = false ∨ s.stage < 6 → t.fbit Reg.INST_STATUS_CFG_IGNORED = true ∧ t.stage = s.stage ∧ t.fbit
        Reg.INST_CTL_SERVICE = s.fbit Reg.INST_CTL_SERVICE) ∧
      t.mem = s.mem ∧
      t.sent = s.sent ∧
      (∀ reg : Nat, reg ∉ [Reg.INST_CTL, Reg.INST_STATUS] ++ each 64 Reg.INST_REC ++ accessRegs Reg.INST_CTL → t.rd reg =
        s.rd reg)) ∧
  -- SERVICE_LEAVE (R473)
  (∀ (s : State) (m : Master), s.canonical = true → s.admits m Reg.INST_CTL = true →
    ∃ t, exec (.serviceLeave m) s = .next t ∧
      (s.inService = true → s.stage = 7 → t.stage = 6 ∧ t.fbit Reg.INST_CTL_SERVICE = false ∧ wordGet (t.rd (Reg.INST_REC
        60)) 31 24 = 2 ∧ t.rd64 (Reg.INST_REC 58) = s.now) ∧
      (s.inService = false ∨ s.stage < 6 → t.fbit Reg.INST_STATUS_CFG_IGNORED = true ∧ t.stage = s.stage ∧ t.fbit
        Reg.INST_CTL_SERVICE = s.fbit Reg.INST_CTL_SERVICE) ∧
      t.mem = s.mem ∧
      t.sent = s.sent ∧
      (∀ reg : Nat, reg ∉ [Reg.INST_CTL, Reg.INST_STATUS] ++ each 64 Reg.INST_REC ++ accessRegs Reg.INST_CTL → t.rd reg =
        s.rd reg)) ∧
  -- PERST_DEASSERT (R474)
  (∀ (s : State) (refclk : Bool), s.canonical = true → s.down = false →
    ∃ t, exec (.perstDeassert refclk) s = .next t ∧
      t.aon = (if refclk = true ∧ 1 ≤ s.stage then { s.aon with pcieTraining := true } else s.aon) ∧
      t.csr = s.csr ∧
      t.mem = s.mem ∧
      t.sent = s.sent) ∧
  -- COCOON (R483, R484)
  (∀ (s : State) (m : Master), s.canonical = true → s.admits m Reg.INST_CTL = true → s.fbit Reg.INST_STATUS_COCOON =
    false → 6 ≤ s.stage → s.aon.imgCopied = true → s.fbit Reg.INST_STATUS_FAILED = false →
    ∃ t, exec (.cocoon m) s = .next t ∧
      t.stage = 2 ∧
      t.fbit Reg.INST_STATUS_COCOON = true ∧
      t.fbit Reg.INST_STATUS_READY = false ∧
      t.fbit Reg.INST_CTL_SERVICE = false ∧
      t.fbit Reg.FLT_STATUS_WB_FROZEN = true ∧
      t.standby = true ∧
      t.stepOn = false ∧
      t.fbit Reg.AON_TWIN_STATUS_ARMED = false ∧
      t.chrState = 0 ∧
      t.regBytes (Reg.TRU_MEAS 24) 8 = sha256 (s.regBytes (Reg.TRU_MEAS 24) 8 ++ sha256 s.imageCopy) ∧
      (∀ reg : Nat, cocoonClears reg = true → t.rd reg = regReset reg) ∧
      t.cores = [] ∧
      t.tiles = [] ∧
      t.seqs = [] ∧
      t.cvus = [] ∧
      t.dmas = [] ∧
      t.bc = [] ∧
      (∀ x : Nat, 0x90000000000 ≤ x ∨ 0x40000000000 ≤ x ∧ x < 0x80000000000 → t.mget x = s.mget x) ∧
      (∀ reg : Nat, cocoonClears reg = false → reg ∉ writeSide ++ accessRegs Reg.INST_CTL → t.rd reg = s.rd reg)) ∧
  -- COCOON: below Instar 6, in a Cocoon, after a failure, or without an image copy (R483, R484)
  (∀ (s : State) (m : Master), s.canonical = true → s.admits m Reg.INST_CTL = true → s.fbit Reg.INST_STATUS_COCOON = true
    ∨ s.stage < 6 ∨ s.aon.imgCopied = false ∨ s.fbit Reg.INST_STATUS_FAILED = true →
    ∃ t, exec (.cocoon m) s = .next t ∧
      t.fbit Reg.INST_STATUS_CFG_IGNORED = true ∧
      t.stage = s.stage ∧
      t.fbit Reg.INST_STATUS_COCOON = s.fbit Reg.INST_STATUS_COCOON ∧
      t.mem = s.mem ∧
      (∀ reg : Nat, reg ∉ accessRegs Reg.INST_CTL → t.rd reg = s.rd reg)) ∧
  -- COCOON_END (R484, R67, R483, R532)
  (∀ (s : State) (wellFormed : Bool) (regs : List (Nat × Word)) (bytes : List (Nat × Byte)) (cores : BitVec 16) (x :
    Nat), s.canonical = true → s.down = false → s.mayLoad = true → s.fbit Reg.INST_STATUS_COCOON = true → s.copyRight =
    true → wellFormed = true →
    ∃ t, exec (.cocoonEnd wellFormed regs bytes cores) s = .next t ∧
      ((((s.loadImage regs bytes).regWrite .aon Reg.FLT_WDOG (wordSet ((s.loadImage regs bytes).rd Reg.FLT_WDOG) 31 31
        1)).stepEnable).stepOn = true → t.inService = true ∧ t.stage = 6 ∧ t.stepOn = true ∧ t.fbit
        Reg.INST_STATUS_FAILED = false ∧ wordGet (t.rd (Reg.INST_REC 52)) 31 24 = 2 ∧ wordGet (t.rd (Reg.INST_REC 52)) 15
        0 = cores.toNat ∧ t.fbit Reg.INST_STATUS_COCOON = false) ∧
      ((((s.loadImage regs bytes).regWrite .aon Reg.FLT_WDOG (wordSet ((s.loadImage regs bytes).rd Reg.FLT_WDOG) 31 31
        1)).stepEnable).stepOn = false → t.inService = false ∧ t.fbit Reg.INST_STATUS_FAILED = true ∧ t.fget
        Reg.INST_STATUS_CODE = 0x61 ∧ t.fbit Reg.INST_STATUS_COCOON = true) ∧
      t.mem = (s.loadImage regs bytes).mem ∧
      (regs = [] → (x ∉ bytes.map Prod.fst) → t.mget x = s.mget x) ∧
      (∀ reg : Nat, reg ∉ (regs.map Prod.fst) ++ writeSide → t.rd reg = s.rd reg)) ∧
  -- COCOON_END: the DDR4 copy differs from the manifest, or a section is not well formed (R484, R67, R483, R532)
  (∀ (s : State) (wellFormed : Bool) (regs : List (Nat × Word)) (bytes : List (Nat × Byte)) (cores : BitVec 16),
    s.canonical = true → s.down = false → s.mayLoad = true → s.fbit Reg.INST_STATUS_COCOON = true → s.copyRight = false ∨
    wellFormed = false →
    ∃ t, exec (.cocoonEnd wellFormed regs bytes cores) s = .next t ∧
      t.stage = 6 ∧
      t.fbit Reg.INST_STATUS_FAILED = true ∧
      t.fget Reg.INST_STATUS_CODE = (if s.copyRight then 0x60 else 0x62) ∧
      wordGet (t.rd (Reg.INST_REC 52)) 31 24 = 4 ∧
      t.aon.stageAt = s.time ∧
      t.aon.stageInv = false ∧
      t.fbit Reg.INST_STATUS_COCOON = true ∧
      t.sent = s.sent ∧
      t.mem = s.mem ∧
      (∀ reg : Nat, reg ∉ [Reg.INST_STATUS] ++ each 64 Reg.INST_REC → t.rd reg = s.rd reg)) ∧
  -- COCOON_END: Instar 6 does not load, or no Cocoon runs (R484, R67, R483, R532)
  (∀ (s : State) (wellFormed : Bool) (regs : List (Nat × Word)) (bytes : List (Nat × Byte)) (cores : BitVec 16),
    s.canonical = true → s.down = false → s.mayLoad = false ∨ s.fbit Reg.INST_STATUS_COCOON = false →
    ∃ t, exec (.cocoonEnd wellFormed regs bytes cores) s = .next t ∧
      t = s) ∧
  -- SUBSTITUTION_REQUEST (R479)
  (∀ (s : State) (m : Master) (tile : Bool) (east : Bool) (row : Fin 16) (col : Fin 64) (x : Nat), s.canonical = true →
    s.admits m Reg.INST_SUB_REQ = true → s.aon.subPend = none → s.rowDefects (if tile then 32 + 4 * (if east then 1 else
    0) + row.val else 16 * (if east then 1 else 0) + row.val) = [] → col.val < rowCols (if tile then 32 + 4 * (if east
    then 1 else 0) + row.val else 16 * (if east then 1 else 0) + row.val) - 1 → tile = false ∨ row.val < 4 → s.stepOn =
    false → s.rowBusy (if tile then 32 + 4 * (if east then 1 else 0) + row.val else 16 * (if east then 1 else 0) +
    row.val) col = false →
    ∃ t, exec (.substitutionRequest m tile east row col) s = .next t ∧
      t.fget Reg.INST_SUB_REQ_RESULT = 1 ∧
      t.aon.defects = ((if tile then 32 + 4 * (if east then 1 else 0) + row.val else 16 * (if east then 1 else 0) +
        row.val), col.val) :: s.aon.defects ∧
      t.fget Reg.INST_SUB_REQ_ROW = row.val ∧
      t.fget Reg.INST_SUB_REQ_COL = col.val ∧
      t.fbit Reg.INST_SUB_REQ_TILE = tile ∧
      t.fbit Reg.INST_SUB_REQ_HALF = east ∧
      t.aon.subPend = none ∧
      (tile = false → (x < winAddr (32 * (if tile then 32 + 4 * (if east then 1 else 0) + row.val else 16 * (if east then
        1 else 0) + row.val) + col) 0 ∨ winAddr (32 * (if tile then 32 + 4 * (if east then 1 else 0) + row.val else 16 *
        (if east then 1 else 0) + row.val) + 32) 0 ≤ x) → t.mget x = s.mget x) ∧
      (tile = true → (x < 0x80000000000 ∨ (0x80030000000 ≤ x ∧ (x < 0x83100000000 + 0x80000 * (8 * ((if tile then 32 + 4
        * (if east then 1 else 0) + row.val else 16 * (if east then 1 else 0) + row.val) - 32) + col) ∨ 0x83100000000 +
        0x80000 * (8 * ((if tile then 32 + 4 * (if east then 1 else 0) + row.val else 16 * (if east then 1 else 0) +
        row.val) - 32) + 8) ≤ x)) ∨ (x < 0x80030000000 ∧ 0x80000000000 ≤ x ∧ (sliceOf (x - 0x80000000000) / 4 < 8 * ((if
        tile then 32 + 4 * (if east then 1 else 0) + row.val else 16 * (if east then 1 else 0) + row.val) - 32) + col ∨ 8
        * ((if tile then 32 + 4 * (if east then 1 else 0) + row.val else 16 * (if east then 1 else 0) + row.val) - 32) +
        8 ≤ sliceOf (x - 0x80000000000) / 4))) → t.mget x = s.mget x) ∧
      (∀ reg : Nat, reg ∉ [Reg.INST_SUB_REQ, Reg.INST_CAP, Reg.TB_ADM_BOUND, Reg.TB_ADM_STATUS, Reg.CHR_FAIL,
        Reg.CHR_FAIL_CNT, Reg.CHR_STALE_ADDR, Reg.CHR_STATUS] ++ each 32 Reg.INST_NROW ++ each 8 Reg.INST_TROW ++
        accessRegs Reg.INST_SUB_REQ → t.rd reg = s.rd reg)) ∧
  -- SUBSTITUTION_REQUEST: the step generator runs: admission refuses, or the request waits for a step boundary (R479)
  (∀ (s : State) (m : Master) (tile : Bool) (east : Bool) (row : Fin 16) (col : Fin 64), s.canonical = true → s.admits m
    Reg.INST_SUB_REQ = true → s.aon.subPend = none → s.rowDefects (if tile then 32 + 4 * (if east then 1 else 0) +
    row.val else 16 * (if east then 1 else 0) + row.val) = [] → col.val < rowCols (if tile then 32 + 4 * (if east then 1
    else 0) + row.val else 16 * (if east then 1 else 0) + row.val) - 1 → tile = false ∨ row.val < 4 → s.stepOn = true →
    s.rowBusy (if tile then 32 + 4 * (if east then 1 else 0) + row.val else 16 * (if east then 1 else 0) + row.val) col =
    false →
    ∃ t, exec (.substitutionRequest m tile east row col) s = .next t ∧
      (t.fget Reg.INST_SUB_REQ_RESULT = 2 ∧ t.aon.subPend = none ∨ t.fget Reg.INST_SUB_REQ_RESULT = 7 ∧ t.aon.subPend =
        some (tile, (if east then 1 else 0), row.val, col.val)) ∧
      t.aon.defects = s.aon.defects ∧
      t.fget Reg.INST_SUB_REQ_ROW = row.val ∧
      t.fget Reg.INST_SUB_REQ_COL = col.val ∧
      t.fbit Reg.INST_SUB_REQ_TILE = tile ∧
      t.fbit Reg.INST_SUB_REQ_HALF = east ∧
      t.mem = s.mem ∧
      t.sent = s.sent ∧
      (∀ reg : Nat, reg ∉ [Reg.INST_SUB_REQ, Reg.INST_CAP, Reg.TB_ADM_BOUND, Reg.TB_ADM_STATUS, Reg.CHR_FAIL,
        Reg.CHR_FAIL_CNT, Reg.CHR_STALE_ADDR, Reg.CHR_STATUS] ++ each 32 Reg.INST_NROW ++ each 8 Reg.INST_TROW ++
        accessRegs Reg.INST_SUB_REQ → t.rd reg = s.rd reg)) ∧
  -- SUBSTITUTION_REQUEST: no spare is left, or no such column (R479)
  (∀ (s : State) (m : Master) (tile : Bool) (east : Bool) (row : Fin 16) (col : Fin 64), s.canonical = true → s.admits m
    Reg.INST_SUB_REQ = true → s.aon.subPend = none → s.rowDefects (if tile then 32 + 4 * (if east then 1 else 0) +
    row.val else 16 * (if east then 1 else 0) + row.val) ≠ [] ∨ rowCols (if tile then 32 + 4 * (if east then 1 else 0) +
    row.val else 16 * (if east then 1 else 0) + row.val) - 1 ≤ col.val ∨ (tile = true ∧ 4 ≤ row.val) →
    ∃ t, exec (.substitutionRequest m tile east row col) s = .next t ∧
      t.fget Reg.INST_SUB_REQ_RESULT = 4 ∧
      t.aon = s.aon ∧
      t.fget Reg.INST_SUB_REQ_ROW = row.val ∧
      t.fget Reg.INST_SUB_REQ_COL = col.val ∧
      t.fbit Reg.INST_SUB_REQ_TILE = tile ∧
      t.fbit Reg.INST_SUB_REQ_HALF = east ∧
      t.mem = s.mem ∧
      t.sent = s.sent ∧
      (∀ reg : Nat, reg ∉ [Reg.INST_SUB_REQ] ++ accessRegs Reg.INST_SUB_REQ → t.rd reg = s.rd reg)) ∧
  -- SUBSTITUTION_REQUEST: a unit at or beyond the column is enabled (R479)
  (∀ (s : State) (m : Master) (tile : Bool) (east : Bool) (row : Fin 16) (col : Fin 64), s.canonical = true → s.admits m
    Reg.INST_SUB_REQ = true → s.aon.subPend = none → s.rowDefects (if tile then 32 + 4 * (if east then 1 else 0) +
    row.val else 16 * (if east then 1 else 0) + row.val) = [] → col.val < rowCols (if tile then 32 + 4 * (if east then 1
    else 0) + row.val else 16 * (if east then 1 else 0) + row.val) - 1 → tile = false ∨ row.val < 4 → s.rowBusy (if tile
    then 32 + 4 * (if east then 1 else 0) + row.val else 16 * (if east then 1 else 0) + row.val) col = true →
    ∃ t, exec (.substitutionRequest m tile east row col) s = .next t ∧
      t.fget Reg.INST_SUB_REQ_RESULT = 3 ∧
      t.aon = s.aon ∧
      t.fget Reg.INST_SUB_REQ_ROW = row.val ∧
      t.fget Reg.INST_SUB_REQ_COL = col.val ∧
      t.fbit Reg.INST_SUB_REQ_TILE = tile ∧
      t.fbit Reg.INST_SUB_REQ_HALF = east ∧
      t.mem = s.mem ∧
      t.sent = s.sent ∧
      (∀ reg : Nat, reg ∉ [Reg.INST_SUB_REQ] ++ accessRegs Reg.INST_SUB_REQ → t.rd reg = s.rd reg)) ∧
  -- SUBSTITUTION_REQUEST: an earlier request still waits: ignored (R479)
  (∀ (s : State) (m : Master) (tile : Bool) (east : Bool) (row : Fin 16) (col : Fin 64), s.canonical = true → s.admits m
    Reg.INST_SUB_REQ = true → s.aon.subPend.isSome = true →
    ∃ t, exec (.substitutionRequest m tile east row col) s = .next t ∧
      t.fbit Reg.INST_STATUS_CFG_IGNORED = true ∧
      t.aon = s.aon ∧
      t.mem = s.mem ∧
      t.sent = s.sent ∧
      (∀ reg : Nat, reg ∉ [Reg.INST_STATUS] ++ accessRegs Reg.INST_SUB_REQ → t.rd reg = s.rd reg)) ∧
  -- PCIE_LINK_CHANGE (R474)
  (∀ (s : State) (up : Bool), s.canonical = true → s.down = false →
    ∃ t, exec (.pcieLinkChange up) s = .next t ∧
      t.aon = (if (if up then s.aon.pcieTraining else s.aon.pcieUp) then { s.aon with pcieUp := up, pcieTraining := !up }
        else s.aon) ∧
      t.csr = s.csr ∧
      t.mem = s.mem ∧
      t.sent = s.sent) ∧
  -- PCIE_CONFIG_REQUEST (R375, R474, R548)
  (∀ (s : State) (write : Bool) (busMaster : Bool) (memEnable : Bool) (mps : Fin 6) (mrrs : Fin 6), s.canonical = true →
    s.down = false → s.aon.pcieUp = true →
    ∃ t, exec (.pcieConfigRequest write busMaster memEnable mps mrrs) s = .next t ∧
      (s.barOpen = true → write = true → t.aon =
        { s.aon with pcieBusMaster := busMaster, pcieMemEnable := memEnable, pcieMps := 128 * 2 ^ mps.val, pcieMrrs := 128 * 2 ^ mrrs.val }
        ∧ t.sent = .ack :: s.sent) ∧
      (s.barOpen = true → write = false → t.aon = s.aon ∧ t.sent = .config s.aon.pcieBusMaster s.aon.pcieMemEnable
        s.aon.pcieMps s.aon.pcieMrrs :: s.sent) ∧
      (s.barOpen = false → t.aon = s.aon ∧ t.sent = .retry :: s.sent) ∧
      t.csr = s.csr ∧
      t.mem = s.mem) ∧
  -- PCIE_CONFIG_REQUEST: the PCIe link is down (R375, R474, R548)
  (∀ (s : State) (write : Bool) (busMaster : Bool) (memEnable : Bool) (mps : Fin 6) (mrrs : Fin 6), s.canonical = true →
    s.down = false → s.aon.pcieUp = false →
    ∃ t, exec (.pcieConfigRequest write busMaster memEnable mps mrrs) s = .next t ∧
      t = s ∧
      t.mem = s.mem)

/-- Firmware broadcast completes. A broadcast session at its receivers: joined or refused, chunks and repairs written and
marked, reports, the hash, the close that zeroes an incomplete region. (15_instars.md.) -/
def Obligations.BroadcastCommandsComplete : Prop :=
  -- BC_OPEN (R480, R481)
  (∀ (s : State) (session : BitVec 16) (seqs : Bool) (mask : BitVec 8) (first : BitVec 16) (last : BitVec 16) (offset :
    Word) (nchunk : BitVec 16) (digest : BitVec 256) (r : Nat), s.canonical = true → s.down = false →
    ∃ t, exec (.bcOpen session seqs mask first last offset nchunk digest) s = .next t ∧
      ((r ∈ s.selected seqs mask.toNat first.toNat last.toNat) → s.targetOn r = false → t.recvState r = 1 ∧ t.fget
        (Reg.BRX_STATUS_SESSION r) = session.toNat ∧ t.recv r = ⟨session.toNat, offset.toNat, min 4096 nchunk.toNat,
        leBytes 32 digest.toNat, 0, false⟩ ∧ t.fget (Reg.BRX_MISS_COUNT r) = min 4096 nchunk.toNat) ∧
      ((r ∈ s.selected seqs mask.toNat first.toNat last.toNat) → s.targetOn r = true → t.recvState r = 5) ∧
      (r < 1152 → ¬ (r ∈ s.selected seqs mask.toNat first.toNat last.toNat) → t.recv r = s.recv r ∧ t.recvState r =
        s.recvState r) ∧
      t.sent = s.sent ∧
      (∀ x : Nat, (∀ r : Fin 1152, x < recvBase r + (s.recv r).offset ∨ recvBase r + (s.recv r).offset + 512 * (s.recv
        r).nchunk ≤ x) → t.mget x = s.mget x) ∧
      (∀ reg : Nat, reg ∉ each 1152 Reg.BRX_STATUS ++ each 1152 Reg.BRX_MISS → t.rd reg = s.rd reg)) ∧
  -- BC_CHUNK (R481)
  (∀ (s : State) (session : BitVec 16) (index : BitVec 16) (data : List Byte) (r : Fin 1152), s.canonical = true → s.down
    = false →
    ∃ t, exec (.bcChunk session index data) s = .next t ∧
      ((s.recvState r = 1 ∧ (s.recv r).session = session.toNat) → index.toNat < (s.recv r).nchunk → t.recv r =
        { s.recv r with bitmap := (s.recv r).bitmap ||| BitVec.ofNat 4096 (2 ^ index.toNat) } ∧ t.fget
        (Reg.BRX_MISS_COUNT r) = (t.recv r).missing.length % 2 ^ 13 ∧ t.recvState r = 1) ∧
      ((s.recvState r = 1 ∧ (s.recv r).session = session.toNat) → (s.recv r).nchunk ≤ index.toNat → t.recv r = s.recv r ∧
        (t.rd (Reg.BRX_ERR_CNT r)).toNat = satCount 32 (s.rd (Reg.BRX_ERR_CNT r)).toNat 1) ∧
      (¬ (s.recvState r = 1 ∧ (s.recv r).session = session.toNat) → t.recv r = s.recv r ∧ t.recvState r = s.recvState r)
        ∧
      t.sent = s.sent ∧
      (∀ x : Nat, (∀ r : Fin 1152, x < recvBase r + (s.recv r).offset + 512 * index.toNat ∨ recvBase r + (s.recv
        r).offset + 512 * index.toNat + 512 ≤ x) → t.mget x = s.mget x) ∧
      (∀ reg : Nat, reg ∉ each 1152 Reg.BRX_STATUS ++ each 1152 Reg.BRX_MISS ++ each 1152 Reg.BRX_ERR_CNT → t.rd reg =
        s.rd reg)) ∧
  -- BC_POLL (R481)
  (∀ (s : State) (session : BitVec 16) (round : BitVec 16) (r : Fin 1152), s.canonical = true → s.down = false →
    ∃ t, exec (.bcPoll session round) s = .next t ∧
      ((s.recvState r ≠ 0 ∧ (s.recv r).session = session.toNat) → .ctrl 11 (s.reportWords r round.toNat) ∈ t.sent) ∧
      t.recv r = (if s.recvState r = 1 ∧ (s.recv r).session = session.toNat ∧ (s.recv r).missing = [] then
        { s.recv r with hashing := true } else s.recv r) ∧
      t.csr = s.csr ∧
      t.mem = s.mem) ∧
  -- BC_HASH_END (R481)
  (∀ (s : State) (r : Fin 1152), s.canonical = true → s.down = false →
    ∃ t, exec (.bcHashEnd r) s = .next t ∧
      ((s.recvState r = 1 ∧ (s.recv r).hashing = true) → (t.recvState r = if sha256 (s.mread (recvBase r + (s.recv
        r).offset) (512 * (s.recv r).nchunk)) = (s.recv r).digest then 2 else 3) ∧ (t.recv r).hashing = false) ∧
      ((s.recvState r = 1 ∧ (s.recv r).hashing = true) → t.recvState r = 2 → t.mem = s.mem) ∧
      ((s.recvState r = 1 ∧ (s.recv r).hashing = true) → t.recvState r = 3 → ∀ k, k < 512 * (s.recv r).nchunk → t.mget
        (recvBase r + (s.recv r).offset + k) = 0) ∧
      (¬ (s.recvState r = 1 ∧ (s.recv r).hashing = true) → t = s) ∧
      t.sent = s.sent ∧
      (∀ x : Nat, (x < recvBase r + (s.recv r).offset ∨ recvBase r + (s.recv r).offset + 512 * (s.recv r).nchunk ≤ x) →
        t.mget x = s.mget x) ∧
      (∀ reg : Nat, reg ∉ [Reg.BRX_STATUS r] → t.rd reg = s.rd reg)) ∧
  -- BC_REPORT (R480)
  (∀ (s : State) (words : List (BitVec 16)), s.canonical = true → s.down = false →
    ∃ t, exec (.bcReport words) s = .next t ∧
      t.bcReports = words.map BitVec.toNat :: s.bcReports ∧
      t.csr = s.csr ∧
      t.mem = s.mem ∧
      t.sent = s.sent) ∧
  -- BC_REPAIR (R481)
  (∀ (s : State) (r : Fin 1152) (session : BitVec 16) (index : BitVec 16) (data : List Byte), s.canonical = true → s.down
    = false →
    ∃ t, exec (.bcRepair r session index data) s = .next t ∧
      ((s.recvState r = 1 ∧ (s.recv r).session = session.toNat) → index.toNat < (s.recv r).nchunk → t.recv r =
        { s.recv r with bitmap := (s.recv r).bitmap ||| BitVec.ofNat 4096 (2 ^ index.toNat) } ∧ t.fget
        (Reg.BRX_MISS_COUNT r) = (t.recv r).missing.length % 2 ^ 13 ∧ ∀ k : Fin 512, k.val < data.length → t.mget
        (recvBase r + (s.recv r).offset + 512 * index.toNat + k) = data.getD k 0) ∧
      ((s.recvState r = 1 ∧ (s.recv r).session = session.toNat) → (s.recv r).nchunk ≤ index.toNat → t.recv r = s.recv r ∧
        (t.rd (Reg.BRX_ERR_CNT r)).toNat = satCount 32 (s.rd (Reg.BRX_ERR_CNT r)).toNat 1 ∧ t.mem = s.mem) ∧
      (¬ (s.recvState r = 1 ∧ (s.recv r).session = session.toNat) → t = s) ∧
      t.sent = s.sent ∧
      (∀ x : Nat, (x < recvBase r + (s.recv r).offset + 512 * index.toNat ∨ recvBase r + (s.recv r).offset + 512 *
        index.toNat + 512 ≤ x) → t.mget x = s.mget x) ∧
      (∀ reg : Nat, reg ∉ [Reg.BRX_STATUS r, Reg.BRX_MISS r, Reg.BRX_ERR_CNT r] → t.rd reg = s.rd reg)) ∧
  -- BC_CLOSE (R481)
  (∀ (s : State) (session : BitVec 16) (r : Fin 1152), s.canonical = true → s.down = false →
    ∃ t, exec (.bcClose session) s = .next t ∧
      ((s.recvState r = 1 ∧ (s.recv r).session = session.toNat) → t.recvState r = 4 ∧ (t.recv r).hashing = false ∧ (∀ k,
        k < 512 * (s.recv r).nchunk → t.mget (recvBase r + (s.recv r).offset + k) = 0)) ∧
      (¬ (s.recvState r = 1 ∧ (s.recv r).session = session.toNat) → t.recv r = s.recv r ∧ t.recvState r = s.recvState r)
        ∧
      t.sent = s.sent ∧
      (∀ x : Nat, (∀ r : Fin 1152, x < recvBase r + (s.recv r).offset ∨ recvBase r + (s.recv r).offset + 512 * (s.recv
        r).nchunk ≤ x) → t.mget x = s.mget x) ∧
      (∀ reg : Nat, reg ∉ each 1152 Reg.BRX_STATUS → t.rd reg = s.rd reg)) ∧
  -- BRX_CLEAR (R482)
  (∀ (s : State) (m : Master) (r : Fin 1152), s.canonical = true → s.admits m (Reg.BRX_STATUS r) = true →
    ∃ t, exec (.brxClear m r) s = .next t ∧
      t.recvState r = 0 ∧
      t.recv r = Receiver.init ∧
      t.fget (Reg.BRX_MISS_COUNT r) = 0 ∧
      t.mem = s.mem ∧
      t.sent = s.sent ∧
      (∀ reg : Nat, reg ∉ [Reg.BRX_STATUS r, Reg.BRX_MISS r] ++ accessRegs (Reg.BRX_STATUS r) → t.rd reg = s.rd reg))

/-- Batches of settings: the Chrysalis commands complete. A batch opened, written, validated, armed, aborted and committed
at its instant: CHR_STATUS.STATE and the records each step leaves. (16_registers_chrysalis_settings.md.) -/
def Obligations.ChrysalisCommandsComplete : Prop :=
  -- CHR_OPEN (R500)
  (∀ (s : State) (m : Master), s.canonical = true → s.admits m Reg.CHR_CMD = true → (s.chrState = 0 ∨ s.chrState = 4 ∨
    s.chrState = 6) →
    ∃ t, exec (.chrOpen m) s = .next t ∧
      t.chrState = 1 ∧
      t.fget Reg.CHR_STATUS_OWNER = ownerCode m ∧
      t.nent = 0 ∧
      t.rd Reg.CHR_FAIL = 0 ∧
      t.rd Reg.CHR_LEAD = 2000 ∧
      t.mem = s.mem ∧
      t.sent = s.sent ∧
      (∀ reg : Nat, reg ∉ [Reg.CHR_STATUS, Reg.CHR_NENT, Reg.CHR_LEAD] ++ accessRegs Reg.CHR_CMD → t.rd reg = s.rd reg)) ∧
  -- CHR_OPEN: a batch is open (R500)
  (∀ (s : State) (m : Master), s.canonical = true → s.admits m Reg.CHR_CMD = true → ¬ (s.chrState = 0 ∨ s.chrState = 4 ∨
    s.chrState = 6) →
    ∃ t, exec (.chrOpen m) s = .next t ∧
      t.fbit Reg.CHR_STATUS_CFG_IGNORED = true ∧
      t.chrState = s.chrState ∧
      t.chr = s.chr ∧
      t.mem = s.mem ∧
      (∀ reg : Nat, reg ∉ accessRegs Reg.CHR_CMD → t.rd reg = s.rd reg)) ∧
  -- CHR_ENTRY_WRITE (R501)
  (∀ (s : State) (m : Master) (i : Fin 4096) (word : Fin 3) (value : Word), s.canonical = true → s.admits m
    (Reg.CHR_ENT_ADDR i + 4 * word) = true → s.chrTakes m = true →
    ∃ t, exec (.chrEntryWrite m i word value) s = .next t ∧
      t.rd (Reg.CHR_ENT_ADDR i + 4 * word) = value ∧
      t.chrState = (if s.chrState = 3 then 1 else s.chrState) ∧
      t.mem = s.mem ∧
      t.sent = s.sent ∧
      (∀ reg : Nat, reg ∉ [Reg.CHR_STATUS, Reg.CHR_ENT_ADDR i, Reg.CHR_ENT_VALUE i, Reg.CHR_ENT_MASK i] ++ accessRegs
        (Reg.CHR_ENT_ADDR i + 4 * word) → t.rd reg = s.rd reg)) ∧
  -- CHR_ENTRY_WRITE: not the owner, or not in STAGING, FAILED or VALID (R501)
  (∀ (s : State) (m : Master) (i : Fin 4096) (word : Fin 3) (value : Word), s.canonical = true → s.admits m
    (Reg.CHR_ENT_ADDR i + 4 * word) = true → s.chrTakes m = false →
    ∃ t, exec (.chrEntryWrite m i word value) s = .next t ∧
      (s.rd (Reg.CHR_ENT_ADDR i + 4 * word) ≠ value → t.fbit Reg.CHR_STATUS_CFG_IGNORED = true) ∧
      t.chrState = s.chrState ∧
      t.mem = s.mem ∧
      (∀ reg : Nat, reg ∉ accessRegs (Reg.CHR_ENT_ADDR i + 4 * word) → t.rd reg = s.rd reg)) ∧
  -- CHR_NENT_WRITE (R501)
  (∀ (s : State) (m : Master) (count : BitVec 13), s.canonical = true → s.admits m Reg.CHR_NENT = true → s.chrTakes m =
    true →
    ∃ t, exec (.chrNentWrite m count) s = .next t ∧
      t.nent = count.toNat ∧
      t.rd Reg.CHR_LEAD = BitVec.ofNat 32 (2000 + 25 * count.toNat) ∧
      t.chrState = (if s.chrState = 3 then 1 else s.chrState) ∧
      t.mem = s.mem ∧
      t.sent = s.sent ∧
      (∀ reg : Nat, reg ∉ [Reg.CHR_STATUS, Reg.CHR_NENT, Reg.CHR_LEAD] ++ accessRegs Reg.CHR_NENT → t.rd reg = s.rd reg)) ∧
  -- CHR_NENT_WRITE: not the owner, or not in STAGING, FAILED or VALID (R501)
  (∀ (s : State) (m : Master) (count : BitVec 13), s.canonical = true → s.admits m Reg.CHR_NENT = true → s.chrTakes m =
    false →
    ∃ t, exec (.chrNentWrite m count) s = .next t ∧
      t.nent = s.nent ∧
      (s.rd Reg.CHR_NENT ≠ count.zeroExtend 32 → t.fbit Reg.CHR_STATUS_CFG_IGNORED = true) ∧
      t.chrState = s.chrState ∧
      t.mem = s.mem ∧
      (∀ reg : Nat, reg ∉ [Reg.CHR_LEAD] ++ accessRegs Reg.CHR_NENT → t.rd reg = s.rd reg)) ∧
  -- CHR_VALIDATE (R500, R502)
  (∀ (s : State) (m : Master), s.canonical = true → s.admits m Reg.CHR_CMD = true → (s.chrOwner m = true ∧ (s.chrState =
    1 ∨ s.chrState = 4)) →
    ∃ t, exec (.chrValidate m) s = .next t ∧
      t.chrState = 2 ∧
      t.rd Reg.CHR_FAIL = 0 ∧
      t.mem = s.mem ∧
      t.sent = s.sent ∧
      (∀ reg : Nat, reg ∉ [Reg.CHR_STATUS] ++ accessRegs Reg.CHR_CMD → t.rd reg = s.rd reg)) ∧
  -- CHR_VALIDATE: not the owner, or not in STAGING or FAILED (R500, R502)
  (∀ (s : State) (m : Master), s.canonical = true → s.admits m Reg.CHR_CMD = true → ¬ (s.chrOwner m = true ∧ (s.chrState
    = 1 ∨ s.chrState = 4)) →
    ∃ t, exec (.chrValidate m) s = .next t ∧
      t.fbit Reg.CHR_STATUS_CFG_IGNORED = true ∧
      t.chrState = s.chrState ∧
      t.chr = s.chr ∧
      t.mem = s.mem ∧
      (∀ reg : Nat, reg ∉ accessRegs Reg.CHR_CMD → t.rd reg = s.rd reg)) ∧
  -- CHR_VALIDATION_END (R502)
  (∀ (s : State) (x : Nat × Nat), s.canonical = true → s.down = false → s.chrState = 2 →
    ∃ t, exec .chrValidationEnd s = .next t ∧
      (s.nent = 0 ∨ 4096 < s.nent → t.chrState = 4 ∧ wordGet (t.rd Reg.CHR_FAIL) 31 24 = 0x0D) ∧
      (0 < s.nent → s.nent ≤ 4096 → (s.checkEntries s.ownerLevel 0 s.chrEntries).2 = none → lowest (s.blockFails
        (s.checkEntries s.ownerLevel 0 s.chrEntries).1 s.chrEntries) = none → s.enablesSteps s.chrEntries = false →
        s.chrEntries.any (fun e => s.enablesCore s.chrEntries e || admissionChange s (s.checkEntries s.ownerLevel 0
        s.chrEntries).1 e) = false → t.chrState = 3 ∧ t.rd Reg.CHR_FAIL = s.rd Reg.CHR_FAIL) ∧
      (0 < s.nent → s.nent ≤ 4096 → (s.checkEntries s.ownerLevel 0 s.chrEntries).2 = some x → t.chrState = 4 ∧ wordGet
        (t.rd Reg.CHR_FAIL) 31 24 = x.2 ∧ wordGet (t.rd Reg.CHR_FAIL) 11 0 = x.1) ∧
      (0 < s.nent → s.nent ≤ 4096 → (s.checkEntries s.ownerLevel 0 s.chrEntries).2 = none → lowest (s.blockFails
        (s.checkEntries s.ownerLevel 0 s.chrEntries).1 s.chrEntries) ≠ none → t.chrState = 4 ∧ wordGet (t.rd
        Reg.CHR_FAIL) 31 24 = 0x06) ∧
      (t.chrState = 3 ∨ t.chrState = 4) ∧
      t.sent = s.sent ∧
      t.mem = s.mem ∧
      (∀ reg : Nat, reg ∉ [Reg.CHR_STATUS, Reg.CHR_FAIL, Reg.CHR_FAIL_CNT] → t.rd reg = s.rd reg)) ∧
  -- CHR_VALIDATION_END: no batch is being validated (R502)
  (∀ (s : State), s.canonical = true → s.down = false → s.chrState ≠ 2 →
    ∃ t, exec .chrValidationEnd s = .next t ∧
      t = s) ∧
  -- CHR_COMMIT (R504)
  (∀ (s : State) (m : Master) (u : Nat), s.canonical = true → s.admits m Reg.CHR_CMD = true → s.chrOwner m = true →
    s.chrState = 3 →
    ∃ t, exec (.chrCommit m) s = .next t ∧
      (s.chrInstant = .inl u → t.chrState = 5 ∧ t.chr = { s.chr with at_ := u, armed := s.chrEntries }) ∧
      (s.chrInstant = .inr u → t.chrState = 3 ∧ t.chr = s.chr ∧ wordGet (t.rd Reg.CHR_FAIL) 31 24 = u % 256 ∧ t.rd
        Reg.CHR_FAIL_CNT = s.rd Reg.CHR_FAIL_CNT) ∧
      t.mem = s.mem ∧
      t.sent = s.sent ∧
      (∀ reg : Nat, reg ∉ [Reg.CHR_STATUS] ++ accessRegs Reg.CHR_CMD → t.rd reg = s.rd reg)) ∧
  -- CHR_COMMIT: not the owner, or not VALID (R504)
  (∀ (s : State) (m : Master), s.canonical = true → s.admits m Reg.CHR_CMD = true → ¬ (s.chrOwner m = true ∧ s.chrState =
    3) →
    ∃ t, exec (.chrCommit m) s = .next t ∧
      t.fbit Reg.CHR_STATUS_CFG_IGNORED = true ∧
      t.chrState = s.chrState ∧
      t.chr = s.chr ∧
      t.mem = s.mem ∧
      (∀ reg : Nat, reg ∉ accessRegs Reg.CHR_CMD → t.rd reg = s.rd reg)) ∧
  -- CHR_ABORT (R500, R507)
  (∀ (s : State) (m : Master), s.canonical = true → s.admits m Reg.CHR_CMD = true → (((s.level m = 2 ∨ (s.chrOwner m =
    true ∧ s.chrState ∈ [1, 3, 4, 5])) ∧ (s.chrState = 5 → s.abortInTime = true))) →
    ∃ t, exec (.chrAbort m) s = .next t ∧
      t.chrState = 0 ∧
      t.mem = s.mem ∧
      t.sent = s.sent ∧
      (∀ reg : Nat, reg ∉ [Reg.CHR_STATUS] ++ accessRegs Reg.CHR_CMD → t.rd reg = s.rd reg)) ∧
  -- CHR_ABORT: not allowed, or too late for an armed batch (R500, R507)
  (∀ (s : State) (m : Master), s.canonical = true → s.admits m Reg.CHR_CMD = true → (¬ ((s.level m = 2 ∨ (s.chrOwner m =
    true ∧ s.chrState ∈ [1, 3, 4, 5])) ∧ (s.chrState = 5 → s.abortInTime = true))) →
    ∃ t, exec (.chrAbort m) s = .next t ∧
      t.fbit Reg.CHR_STATUS_CFG_IGNORED = true ∧
      t.chrState = s.chrState ∧
      t.chr = s.chr ∧
      t.mem = s.mem ∧
      (∀ reg : Nat, reg ∉ accessRegs Reg.CHR_CMD → t.rd reg = s.rd reg)) ∧
  -- COMMIT_INSTANT (R504, R505)
  (∀ (s : State) (e : Word × Word × Word) (n o : Nat), s.canonical = true → s.down = false → s.instantDue = true →
    ∃ t, exec .commitInstant s = .next t ∧
      t.chrState = 6 ∧
      t.rd64 Reg.CHR_DONE_T_LO = (if s.fbit Reg.CHR_WHEN_MODE then s.now else t.rd64 Reg.CHR_DONE_T_LO) ∧
      (t.rd Reg.CHR_COMMIT_CNT).toNat = satCount 32 (s.rd Reg.CHR_COMMIT_CNT).toNat 1 ∧
      t.chr.armed = [] ∧
      (s.chr.armed = [e] → chrTarget e.1 = .win n o → s.fbit (Reg.NC_CTL_EN n) = true → t.chr.shadow = s.chr.shadow ++
        [(n, e)] ∧ t.mem = s.mem ∧ t.sent = s.sent) ∧
      (s.chr.armed = [e] → chrTarget e.1 = .win n o → s.fbit (Reg.NC_CTL_EN n) = false → t.mnat (winAddr n o) 4 =
        (maskWord (s.targetWord (.win n o)) e.2.1 e.2.2).toNat ∧ t.sent = s.sent) ∧
      (s.chr.armed = [] → t.mem = s.mem ∧ t.sent = s.sent) ∧
      (∀ reg : Nat, reg ∉ [Reg.CHR_COMMIT_CNT, Reg.CHR_DONE_T_LO, Reg.CHR_DONE_T_HI, Reg.CHR_DONE_STEP] ++
        (s.chr.armed.map fun e => bits e.1.toNat 27 2 * 4) ++ writeSide → t.rd reg = s.rd reg)) ∧
  -- COMMIT_INSTANT: no batch is ARMED, or its instant has not come (R504, R505)
  (∀ (s : State), s.canonical = true → s.down = false → s.instantDue = false →
    ∃ t, exec .commitInstant s = .next t ∧
      t = s)

/-- Settings store, register write and vote scan complete. Loading and storing sectors, flash reads, a register write by any
access, and the scan of triplicated registers. (16_registers_chrysalis_settings.md, 18_trust.md.) -/
def Obligations.SettingsStoreAndVoteComplete : Prop :=
  -- SET_LOAD (R515)
  (∀ (s : State) (m : Master) (sector : Fin 1024), s.canonical = true → s.admits m Reg.SET_CMD = true → s.setBusy = false
    →
    ∃ t, exec (.setLoad m sector) s = .next t ∧
      t.fget Reg.SET_CMD_SECTOR = sector.val ∧
      (s.level m < sectorLevel sector → t.fget Reg.SET_STATUS_ERR = 3 ∧ t.fget Reg.SET_STATUS_SECTOR = sector.val ∧
        t.store = s.store ∧ t.sent = s.sent ∧ (∀ j : Fin 1024, t.bufWord j = s.bufWord j)) ∧
      (sectorLevel sector ≤ s.level m → ¬ (33 ≤ sector.val ∧ sector.val < 48) → s.sectorUsed sector ≠ none → t.fget
        Reg.SET_STATUS_ERR = 0 ∧ t.fget Reg.SET_STATUS_SECTOR = sector.val ∧ t.sent = s.sent ∧ (∀ j : Fin 1024, t.bufWord
        j = s.mramNat (sector.val * 4096 + 4 * j) 4)) ∧
      (sectorLevel sector ≤ s.level m → (33 ≤ sector.val ∧ sector.val < 48) → t.fget Reg.SET_STATUS_ERR = 0 ∧ t.fget
        Reg.SET_STATUS_SECTOR = sector.val ∧ t.sent = s.sent ∧ (∀ j : Fin 1024, t.bufWord j = 0)) ∧
      (sectorLevel sector ≤ s.level m → ¬ (33 ≤ sector.val ∧ sector.val < 48) → s.sectorUsed sector = none → t.fget
        Reg.SET_STATUS_ERR = 5 ∧ t.fget Reg.SET_STATUS_SECTOR = sector.val ∧ t.sent = .fault 20 9 0 (BitVec.ofNat 32
        (sector.val * 4096)) :: s.sent ∧ (t.rd Reg.SET_UE_CNT).toNat = satCount 32 (s.rd Reg.SET_UE_CNT).toNat 1 ∧ (∀ j :
        Fin 1024, t.bufWord j = 0)) ∧
      t.store = s.store ∧
      t.mem = s.mem ∧
      (∀ reg : Nat, reg ∉ [Reg.SET_CMD, Reg.SET_STATUS, Reg.SET_UE_CNT] ++ each 1024 Reg.SET_BUF ++ accessRegs
        Reg.SET_CMD → t.rd reg = s.rd reg)) ∧
  -- SET_LOAD: while a STORE runs (R515)
  (∀ (s : State) (m : Master) (sector : Fin 1024), s.canonical = true → s.admits m Reg.SET_CMD = true → s.setBusy = true
    →
    ∃ t, exec (.setLoad m sector) s = .next t ∧
      t.fbit Reg.SET_STATUS_CFG_IGNORED = true ∧
      t.store = s.store ∧
      t.mem = s.mem ∧
      (∀ reg : Nat, reg ∉ accessRegs Reg.SET_CMD → t.rd reg = s.rd reg)) ∧
  -- SET_STORE (R514, R515, R517)
  (∀ (s : State) (m : Master) (sector : Fin 1024), s.canonical = true → s.admits m Reg.SET_CMD = true → s.setBusy = false
    →
    ∃ t, exec (.setStore m sector) s = .next t ∧
      (s.level m < sectorLevel sector → t.fget Reg.SET_STATUS_ERR = 3 ∧ t.fget Reg.SET_STATUS_SECTOR = sector.val ∧
        t.store = s.store ∧ t.sent = s.sent) ∧
      (sectorLevel sector ≤ s.level m → s.storeErr sector ≠ 0 → t.fget Reg.SET_STATUS_ERR = s.storeErr sector ∧ t.setBusy
        = false ∧ t.store = s.store) ∧
      (sectorLevel sector ≤ s.level m → s.storeErr sector = 0 → t.fget Reg.SET_STATUS_ERR = 0 ∧ t.fget
        Reg.SET_STATUS_SECTOR = sector.val ∧ t.setBusy = true ∧ t.fbit Reg.SET_STATUS_THROTTLE = (s.fbit
        Reg.SET_STATUS_THROTTLE && s.store.storedNow.contains sector.val || s.store.storedNow.contains sector.val)) ∧
      (sectorLevel sector ≤ s.level m → s.storeErr sector = 0 → sector.val ∉ s.store.storedNow → t.store.programming =
        true ∧ t.store.storedNow = sector.val :: s.store.storedNow ∧ (t.copyOf (s.sectorOlder sector) sector).crcOk =
        false) ∧
      (sectorLevel sector ≤ s.level m → s.storeErr sector = 0 → sector.val ∈ s.store.storedNow → t.store = s.store) ∧
      t.fget Reg.SET_CMD_SECTOR = sector.val ∧
      t.mem = s.mem ∧
      (∀ reg : Nat, reg ∉ [Reg.SET_CMD, Reg.SET_STATUS] ++ accessRegs Reg.SET_CMD → t.rd reg = s.rd reg)) ∧
  -- SET_STORE: while a STORE runs (R514, R515, R517)
  (∀ (s : State) (m : Master) (sector : Fin 1024), s.canonical = true → s.admits m Reg.SET_CMD = true → s.setBusy = true
    →
    ∃ t, exec (.setStore m sector) s = .next t ∧
      t.fbit Reg.SET_STATUS_CFG_IGNORED = true ∧
      t.store = s.store ∧
      t.mem = s.mem ∧
      (∀ reg : Nat, reg ∉ accessRegs Reg.SET_CMD → t.rd reg = s.rd reg)) ∧
  -- STORE_END (R516)
  (∀ (s : State) (verified : Bool) (j : Fin 4096), s.canonical = true → s.down = false → s.setBusy = true →
    s.store.programming = true →
    ∃ t, exec (.storeEnd verified) s = .next t ∧
      t.setBusy = false ∧
      t.store.programming = false ∧
      (verified = true → (t.rd Reg.SET_STORE_CNT).toNat = satCount 32 (s.rd Reg.SET_STORE_CNT).toNat 1 ∧ t.mramByte
        (s.fget Reg.SET_STATUS_SECTOR * 4096 + j) = s.bufByte j ∧ t.fget Reg.SET_STATUS_ERR = s.fget Reg.SET_STATUS_ERR)
        ∧
      (verified = false → t.fget Reg.SET_STATUS_ERR = 4 ∧ t.rd Reg.SET_STORE_CNT = s.rd Reg.SET_STORE_CNT ∧ t.store.dataA
        = s.store.dataA ∧ t.store.dataB = s.store.dataB) ∧
      t.mem = s.mem ∧
      t.sent = s.sent ∧
      (∀ reg : Nat, reg ∉ [Reg.SET_STATUS, Reg.SET_STORE_CNT] → t.rd reg = s.rd reg)) ∧
  -- STORE_END: nothing is being programmed (R516)
  (∀ (s : State) (verified : Bool), s.canonical = true → s.down = false → s.setBusy = false ∨ s.store.programming = false
    →
    ∃ t, exec (.storeEnd verified) s = .next t ∧
      t = s ∧
      t.mem = s.mem) ∧
  -- STORE_THROTTLE_RELEASE (R517)
  (∀ (s : State), s.canonical = true → s.down = false → s.fbit Reg.SET_STATUS_THROTTLE = true → s.fget
    Reg.SET_STATUS_SECTOR ∉ s.store.storedNow →
    ∃ t, exec .storeThrottleRelease s = .next t ∧
      t.fbit Reg.SET_STATUS_THROTTLE = false ∧
      t.store.programming = true ∧
      t.store.storedNow = s.fget Reg.SET_STATUS_SECTOR :: s.store.storedNow ∧
      (t.copyOf (s.sectorOlder (s.fget Reg.SET_STATUS_SECTOR)) (s.fget Reg.SET_STATUS_SECTOR)).crcOk = false ∧
      t.mem = s.mem ∧
      t.sent = s.sent ∧
      (∀ reg : Nat, reg ∉ [Reg.SET_STATUS] → t.rd reg = s.rd reg)) ∧
  -- STORE_THROTTLE_RELEASE: no STORE waits, or its sector was stored in this slow tick (R517)
  (∀ (s : State), s.canonical = true → s.down = false → s.fbit Reg.SET_STATUS_THROTTLE = false ∨ s.fget
    Reg.SET_STATUS_SECTOR ∈ s.store.storedNow →
    ∃ t, exec .storeThrottleRelease s = .next t ∧
      t = s ∧
      t.mem = s.mem) ∧
  -- SET_XSPI (R512)
  (∀ (s : State) (m : Master) (answer : List Byte), s.canonical = true → s.admits m Reg.SET_CMD = true → s.setBusy =
    false →
    ∃ t, exec (.setXspi m answer) s = .next t ∧
      t.sent = .xspi (s.fget Reg.SET_XSPI_CMD_INSTR) (s.fget Reg.SET_XSPI_CMD_DUMMY) (if s.fbit Reg.SET_XSPI_CMD_ADDR_EN
        then some (s.rd Reg.SET_XSPI_ADDR).toNat else none) (s.fbit Reg.SET_XSPI_CMD_DIR) (if s.fbit Reg.SET_XSPI_CMD_DIR
        then s.bufBytes.take (min 4096 (s.fget Reg.SET_XSPI_CMD_LEN)) else []) :: s.sent ∧
      t.fget Reg.SET_STATUS_ERR = 0 ∧
      (s.fbit Reg.SET_XSPI_CMD_DIR = false → ∀ j : Fin 4096, t.bufByte j = (if j.val < min 4096 (s.fget
        Reg.SET_XSPI_CMD_LEN) ∧ j.val < answer.length then answer.getD j 0 else s.bufByte j)) ∧
      (s.fbit Reg.SET_XSPI_CMD_DIR = true → ∀ j : Fin 4096, t.bufByte j = s.bufByte j) ∧
      t.store = s.store ∧
      t.mem = s.mem ∧
      (∀ reg : Nat, reg ∉ [Reg.SET_STATUS] ++ each 1024 Reg.SET_BUF ++ accessRegs Reg.SET_CMD → t.rd reg = s.rd reg)) ∧
  -- SET_XSPI: while a STORE runs (R512)
  (∀ (s : State) (m : Master) (answer : List Byte), s.canonical = true → s.admits m Reg.SET_CMD = true → s.setBusy = true
    →
    ∃ t, exec (.setXspi m answer) s = .next t ∧
      t.fbit Reg.SET_STATUS_CFG_IGNORED = true ∧
      t.store = s.store ∧
      t.mem = s.mem ∧
      (∀ reg : Nat, reg ∉ accessRegs Reg.SET_CMD → t.rd reg = s.rd reg)) ∧
  -- REGISTER_WRITE (R8, R11, R491, R496, R10)
  (∀ (s : State) (m : Master) (off : BitVec 28) (size : BitVec 4) (value : BitVec 64) (rsvKept : Bool) (bar2 : Bool) (src
    : Fin 26), s.canonical = true → s.down = false → off.toNat = Reg.FLT_SRC_WIN src → s.admits m (Reg.FLT_SRC_WIN src) =
    true → size = 4 → rsvKept = true → bar2 = false →
    ∃ t, exec (.registerWrite m off size value rsvKept bar2) s = .next t ∧
      t.fget (Reg.FLT_SRC_WIN_N src) = wordGet (value.extractLsb' 0 32) 7 0 ∧
      t.fget (Reg.FLT_SRC_WIN_W src) = wordGet (value.extractLsb' 0 32) 31 16 ∧
      t.mem = s.mem ∧
      t.sent = s.sent ∧
      (∀ reg : Nat, reg ∉ [Reg.FLT_SRC_WIN src] ++ accessRegs (Reg.FLT_SRC_WIN src) → t.rd reg = s.rd reg)) ∧
  -- REGISTER_WRITE: any register: another access than an aligned one of 4 or 8 bytes writes nothing (R8, R11, R491, R496, R10)
  (∀ (s : State) (m : Master) (off : BitVec 28) (size : BitVec 4) (value : BitVec 64) (rsvKept : Bool) (bar2 : Bool),
    s.canonical = true → s.down = false → rsvKept = true ∨ (∀ w ∈ accessWrites off.toNat size.toNat value,
    s.meetsReserved m w.1 = false) → bar2 = false →
    ∃ t, exec (.registerWrite m off size value rsvKept bar2) s = .next t ∧
      (accessWrites off.toNat size.toNat value = [] → t = s) ∧
      t.pending = s.pending ∧
      (∀ reg : Nat, reg ∉ [off.toNat] ++ [off.toNat + 4] ++ writeSide → t.rd reg = s.rd reg)) ∧
  -- REGISTER_WRITE: the host's response pages (R8, R11, R491, R496, R10)
  (∀ (s : State) (m : Master) (off : BitVec 28) (size : BitVec 4) (value : BitVec 64) (rsvKept : Bool) (bar2 : Bool),
    s.canonical = true → s.down = false → bar2 = true →
    ∃ t, exec (.registerWrite m off size value rsvKept bar2) s = .next t ∧
      (m ≠ .pcie ∨ accessWrites off.toNat size.toNat value = [] → t = s) ∧
      t.mem = s.mem ∧
      t.counter = s.counter ∧
      (∀ reg : Nat, reg ∉ each 32 Reg.ING_RQ_OVF_CNT ++ each 32 Reg.PCIE_RQ_POST_LO ++ each 32 Reg.PCIE_RQ_POST_HI ++
        each 32 Reg.PCIE_RQ_SPACE ++ writeSide → t.rd reg = s.rd reg)) ∧
  -- VOTE_SCAN (R498)
  (∀ (s : State) (upsets : List (BitVec 28 × Fin 3 × Word)) (o : BitVec 28) (c : Fin 3) (w : Word), s.canonical = true →
    s.down = false →
    ∃ t, exec (.voteScan upsets) s = .next t ∧
      (upsets = [] → t = s) ∧
      (upsets = [(o, c, w)] → triplicated o.toNat = true → w ≠ s.rd o.toNat → t.rd o.toNat = s.rd o.toNat ∧ (t.rd
        Reg.AON_VOTE_CNT).toNat = satCount 32 (s.rd Reg.AON_VOTE_CNT).toNat 1 ∧ t.fbit Reg.AON_STATUS_VOTE = true ∧
        (s.fbit Reg.AON_STATUS_VOTE = false → t.fget Reg.AON_VOTE_ADDR_OFFSET = o.toNat) ∧ t.sent = .fault 11 9 0 0 ::
        s.sent) ∧
      (upsets = [(o, c, w)] → triplicated o.toNat = false ∨ w = s.rd o.toNat → t = s) ∧
      t.mem = s.mem ∧
      (∀ reg : Nat, reg ∉ [Reg.AON_STATUS, Reg.AON_VOTE_ADDR, Reg.AON_VOTE_CNT] ++ (upsets.map fun u => u.1.toNat) → t.rd
        reg = s.rd reg))

/-- Fault collection, watchdog and Wingbeat complete. A fault event and its record, windows, the clear, an injected fault,
the watchdog and the Wingbeat output. (17_faults_and_wingbeat.md.) -/
def Obligations.FaultCommandsComplete : Prop :=
  -- SLOW_TICK (R29, R525, R517)
  (∀ (s : State), s.canonical = true → s.down = false → 1000000000 ≤ (s.now + 2 ^ 64 - s.aon.tickAt) % 2 ^ 64 →
    ∃ t, exec .slowTick s = .next t ∧
      (∀ src : Fin 26, s.fbit (Reg.FLT_SRC_STAT_WOPEN src) = true → s.fget (Reg.FLT_SRC_STAT_TICKS_LEFT src) ≠ 0 → t.fget
        (Reg.FLT_SRC_STAT_TICKS_LEFT src) = s.fget (Reg.FLT_SRC_STAT_TICKS_LEFT src) - 1 ∧ t.fbit (Reg.FLT_SRC_STAT_WOPEN
        src) = true) ∧
      (∀ src : Fin 26, s.fbit (Reg.FLT_SRC_STAT_WOPEN src) = true → s.fget (Reg.FLT_SRC_STAT_TICKS_LEFT src) = 0 → t.fbit
        (Reg.FLT_SRC_STAT_WOPEN src) = false ∧ t.fget (Reg.FLT_SRC_STAT_WCOUNT src) = 0) ∧
      (∀ src : Fin 26, t.fbit (Reg.FLT_SRC_STAT_LASTING src) = s.fbit (Reg.FLT_SRC_STAT_LASTING src)) ∧
      t.aon = { s.aon with slowTicks := s.aon.slowTicks + 1, tickAt := (s.aon.tickAt + 1000000000) % 2 ^ 64 } ∧
      t.store.storedNow = [] ∧
      t.mem = s.mem ∧
      t.sent = s.sent ∧
      (∀ reg : Nat, reg ∉ each 26 Reg.FLT_SRC_STAT → t.rd reg = s.rd reg)) ∧
  -- SLOW_TICK: the tick is not due (R29, R525, R517)
  (∀ (s : State), s.canonical = true → s.down = false → (s.now + 2 ^ 64 - s.aon.tickAt) % 2 ^ 64 < 1000000000 →
    ∃ t, exec .slowTick s = .next t ∧
      t = s ∧
      t.mem = s.mem) ∧
  -- FAULT_EVENT (R521, R525, R529, R598)
  (∀ (s : State) (src : Fin 26) (kind : Fin 10) (index : BitVec 16) (detail : Word), s.canonical = true → s.down = false
    → s.resetsAllowed = false ∨ (s.fget (Reg.FLT_SRC_CFG_TREACT src) ||| s.fget (Reg.FLT_SRC_CFG_LREACT src)) &&& 0b10100
    = 0 →
    ∃ t, exec (.faultEvent src kind index detail) s = .next t ∧
      (t.rd (Reg.FLT_SRC_CNT src)).toNat = satCount 32 (s.rd (Reg.FLT_SRC_CNT src)).toNat 1 ∧
      t.fget (Reg.FLT_SRC_STAT_WCOUNT src) = (min 255 ((if s.fbit (Reg.FLT_SRC_STAT_WOPEN src) && decide (s.fget
        (Reg.FLT_SRC_STAT_TICKS_LEFT src) ≠ 0) then s.fget (Reg.FLT_SRC_STAT_WCOUNT src) else if s.fbit
        (Reg.FLT_SRC_STAT_WOPEN src) then 0 else s.fget (Reg.FLT_SRC_STAT_WCOUNT src)) + 1)) ∧
      t.fbit (Reg.FLT_SRC_STAT_WOPEN src) = true ∧
      t.fbit (Reg.FLT_SRC_STAT_LASTING src) = (s.fbit (Reg.FLT_SRC_STAT_LASTING src) || (decide (s.fget
        (Reg.FLT_SRC_WIN_N src) ≠ 0) && decide (s.fget (Reg.FLT_SRC_WIN_N src) ≤ (min 255 ((if s.fbit
        (Reg.FLT_SRC_STAT_WOPEN src) && decide (s.fget (Reg.FLT_SRC_STAT_TICKS_LEFT src) ≠ 0) then s.fget
        (Reg.FLT_SRC_STAT_WCOUNT src) else if s.fbit (Reg.FLT_SRC_STAT_WOPEN src) then 0 else s.fget
        (Reg.FLT_SRC_STAT_WCOUNT src)) + 1))))) ∧
      (s.fbit Reg.FLT_REC_STATUS_PENDING = false → (if t.fbit (Reg.FLT_SRC_STAT_LASTING src) then s.fget
        (Reg.FLT_SRC_CFG_LREACT src) else s.fget (Reg.FLT_SRC_CFG_TREACT src)) = 0 → t.fbit Reg.FLT_REC_STATUS_PENDING =
        false ∧ t.rd Reg.FLT_REC_SOURCES = s.rd Reg.FLT_REC_SOURCES ∧ t.sent = s.sent) ∧
      (s.fbit Reg.FLT_REC_STATUS_PENDING = false → (if t.fbit (Reg.FLT_SRC_STAT_LASTING src) then s.fget
        (Reg.FLT_SRC_CFG_LREACT src) else s.fget (Reg.FLT_SRC_CFG_TREACT src)) ≠ 0 → t.fbit Reg.FLT_REC_STATUS_PENDING =
        true ∧ t.fget Reg.FLT_REC_STATUS_REACT = (if t.fbit (Reg.FLT_SRC_STAT_LASTING src) then s.fget
        (Reg.FLT_SRC_CFG_LREACT src) else s.fget (Reg.FLT_SRC_CFG_TREACT src)) ∧ t.fget Reg.FLT_REC_STATUS_COUNT = 1 ∧
        t.rd Reg.FLT_REC_SOURCES = BitVec.ofNat 32 (2 ^ src.val) ∧ t.rd64 Reg.FLT_REC_T_LO = s.now ∧ t.rd
        Reg.FLT_REC_DETAIL = detail ∧ t.rd Reg.FLT_REC_UNIT = BitVec.ofNat 32 (kind * 2 ^ 28 + index.toNat)) ∧
      (s.fbit Reg.FLT_REC_STATUS_PENDING = false → bit (if t.fbit (Reg.FLT_SRC_STAT_LASTING src) then s.fget
        (Reg.FLT_SRC_CFG_LREACT src) else s.fget (Reg.FLT_SRC_CFG_TREACT src)) 0 = true → .irq (128 + s.fget
        Reg.FLT_CTL_CORE) 0 0 true ∈ t.sent) ∧
      (s.fbit Reg.FLT_REC_STATUS_PENDING = false → bit (if t.fbit (Reg.FLT_SRC_STAT_LASTING src) then s.fget
        (Reg.FLT_SRC_CFG_LREACT src) else s.fget (Reg.FLT_SRC_CFG_TREACT src)) 1 = true → .nmi ∈ t.sent) ∧
      (s.fbit Reg.FLT_REC_STATUS_PENDING = false → bit (if t.fbit (Reg.FLT_SRC_STAT_LASTING src) then s.fget
        (Reg.FLT_SRC_CFG_LREACT src) else s.fget (Reg.FLT_SRC_CFG_TREACT src)) 3 = true → t.fbit Reg.FLT_STATUS_WB_FROZEN
        = true ∧ t.standby = true) ∧
      (s.fbit Reg.FLT_REC_STATUS_PENDING = true → t.fbit Reg.FLT_REC_STATUS_PENDING = true ∧ t.fget
        Reg.FLT_REC_STATUS_REACT = s.fget Reg.FLT_REC_STATUS_REACT ||| (if t.fbit (Reg.FLT_SRC_STAT_LASTING src) then
        s.fget (Reg.FLT_SRC_CFG_LREACT src) else s.fget (Reg.FLT_SRC_CFG_TREACT src)) ∧ t.fget Reg.FLT_REC_STATUS_COUNT =
        satCount 16 (s.fget Reg.FLT_REC_STATUS_COUNT) 1 ∧ t.rd Reg.FLT_REC_SOURCES = s.rd Reg.FLT_REC_SOURCES |||
        BitVec.ofNat 32 (2 ^ src.val) ∧ t.rd Reg.FLT_REC_UNIT = s.rd Reg.FLT_REC_UNIT) ∧
      t.mem = s.mem ∧
      (∀ reg : Nat, reg ∉ [Reg.FLT_REC_STATUS, Reg.FLT_REC_SOURCES, Reg.FLT_REC_T_LO, Reg.FLT_REC_T_HI, Reg.FLT_REC_UNIT,
        Reg.FLT_REC_DETAIL, Reg.FLT_STATUS, Reg.FLT_CTL, Reg.AON_TWIN_STATUS, Reg.AON_TWIN_LAST_LO, Reg.AON_TWIN_LAST_HI,
        Reg.TB_OUT_STATUS] ++ each 26 Reg.FLT_SRC_STAT ++ each 26 Reg.FLT_SRC_CNT → t.rd reg = s.rd reg)) ∧
  -- FAULT_EVENT: CHIP_RESET with no record pending (R521, R525, R529, R598)
  (∀ (s : State) (src : Fin 26) (kind : Fin 10) (index : BitVec 16) (detail : Word), s.canonical = true → s.down = false
    → s.resetsAllowed = true → s.fbit Reg.FLT_REC_STATUS_PENDING = false → s.fget (Reg.FLT_SRC_CFG_LREACT src) = s.fget
    (Reg.FLT_SRC_CFG_TREACT src) → bit (s.fget (Reg.FLT_SRC_CFG_TREACT src)) 4 = true →
    ∃ t, exec (.faultEvent src kind index detail) s = .next t ∧
      t.stage = 0 ∧
      t.fbit Reg.FLT_STATUS_PREV_VALID = true ∧
      t.rd (Reg.FLT_PREV 1) = BitVec.ofNat 32 (2 ^ src.val) ∧
      t.rd (Reg.FLT_PREV 5) = detail ∧
      (∀ reg : Nat, reg ∉ [Reg.AON_ID, Reg.AON_TWIN_STATUS, Reg.INST_STATUS, Reg.FLT_STATUS] ++ each 64 Reg.INST_REC ++
        each 8 Reg.TRU_CHAL ++ each 6 Reg.FLT_PREV → t.rd reg = regReset reg) ∧
      t.cores = [] ∧
      t.tiles = [] ∧
      t.links = [] ∧
      t.dmas = [] ∧
      t.owners = []) ∧
  -- FAULT_EVENT: BLOCK_RESET with no record pending (R521, R525, R529, R598)
  (∀ (s : State) (src : Fin 26) (kind : Fin 10) (index : BitVec 16) (detail : Word), s.canonical = true → s.down = false
    → s.resetsAllowed = true → s.fbit Reg.FLT_REC_STATUS_PENDING = false → s.fget (Reg.FLT_SRC_CFG_LREACT src) = s.fget
    (Reg.FLT_SRC_CFG_TREACT src) → bit (s.fget (Reg.FLT_SRC_CFG_TREACT src)) 4 = false → bit (s.fget
    (Reg.FLT_SRC_CFG_TREACT src)) 2 = true →
    ∃ t, exec (.faultEvent src kind index detail) s = .next t ∧
      t.fbit Reg.FLT_REC_STATUS_PENDING = true ∧
      t.rd Reg.FLT_REC_SOURCES = BitVec.ofNat 32 (2 ^ src.val) ∧
      (src = 14 → kind = 2 → index.toNat < 64 → t.fbit (Reg.TILE_STATUS_ERR index.toNat) = false) ∧
      (src = 1 → kind = 1 → index.toNat < 1024 → t.fbit (Reg.NC_CTL_EN index.toNat) = false) ∧
      (src = 1 → kind = 3 → index.toNat < 128 → t.fbit (Reg.SEQ_CTL_RUN index.toNat) = false) ∧
      (src ≠ 1 → src ≠ 14 → t.mem = s.mem) ∧
      (∀ reg : Nat, reg ∉ [Reg.FLT_REC_STATUS, Reg.FLT_REC_SOURCES, Reg.FLT_REC_T_LO, Reg.FLT_REC_T_HI, Reg.FLT_REC_UNIT,
        Reg.FLT_REC_DETAIL] ++ each 26 Reg.FLT_SRC_STAT ++ each 26 Reg.FLT_SRC_CNT ++ writeSide → t.rd reg = s.rd reg)) ∧
  -- FAULT_WINDOW_CLOSE (R525)
  (∀ (s : State) (src : Fin 26), s.canonical = true → s.down = false →
    ∃ t, exec (.faultWindowClose src) s = .next t ∧
      (s.fbit (Reg.FLT_SRC_STAT_WOPEN src) = true → s.fget (Reg.FLT_SRC_STAT_TICKS_LEFT src) = 0 → t.fbit
        (Reg.FLT_SRC_STAT_WOPEN src) = false ∧ t.fget (Reg.FLT_SRC_STAT_WCOUNT src) = 0) ∧
      (s.fbit (Reg.FLT_SRC_STAT_WOPEN src) = false ∨ s.fget (Reg.FLT_SRC_STAT_TICKS_LEFT src) ≠ 0 → t = s) ∧
      t.fbit (Reg.FLT_SRC_STAT_LASTING src) = s.fbit (Reg.FLT_SRC_STAT_LASTING src) ∧
      t.mem = s.mem ∧
      t.sent = s.sent ∧
      (∀ reg : Nat, reg ∉ [Reg.FLT_SRC_STAT src] → t.rd reg = s.rd reg)) ∧
  -- FAULT_CLEAR (R530)
  (∀ (s : State) (m : Master), s.canonical = true → s.admits m Reg.FLT_REC_STATUS = true →
    ∃ t, exec (.faultClear m) s = .next t ∧
      (s.refreshCauses.standing = false → t.fbit Reg.FLT_REC_STATUS_PENDING = false ∧ t.fget Reg.FLT_REC_STATUS_REACT = 0
        ∧ t.fget Reg.FLT_REC_STATUS_COUNT = 0 ∧ t.rd Reg.FLT_REC_SOURCES = 0) ∧
      (s.refreshCauses.standing = false → s.fbit Reg.INST_STATUS_COCOON = false → t.fbit Reg.FLT_STATUS_WB_FROZEN = false
        ∧ t.aon = { s.aon with wbRel := s.now }) ∧
      (s.refreshCauses.standing = false → bit (s.fget Reg.FLT_REC_STATUS_REACT) 0 = true → t.sent = .irq (128 + s.fget
        Reg.FLT_CTL_CORE) 0 0 false :: s.sent) ∧
      (s.refreshCauses.standing = true → t.fbit Reg.FLT_STATUS_CFG_IGNORED = true ∧ t.rd Reg.FLT_REC_STATUS = s.rd
        Reg.FLT_REC_STATUS ∧ t.rd Reg.FLT_REC_SOURCES = s.rd Reg.FLT_REC_SOURCES) ∧
      t.mem = s.mem ∧
      (∀ reg : Nat, reg ∉ [Reg.FLT_REC_SOURCES, Reg.FLT_STATUS, Reg.FLT_REC_STATUS] ++ each 26 Reg.FLT_SRC_STAT ++
        accessRegs Reg.FLT_REC_STATUS → t.rd reg = s.rd reg)) ∧
  -- LASTING_CLEAR (R531)
  (∀ (s : State) (m : Master) (src : Fin 26), s.canonical = true → s.admits m (Reg.FLT_SRC_STAT src) = true →
    ∃ t, exec (.lastingClear m src) s = .next t ∧
      (s.refreshCauses.fbit (Reg.FLT_SRC_STAT_CAUSE src) = false → t.fbit (Reg.FLT_SRC_STAT_LASTING src) = false) ∧
      (s.refreshCauses.fbit (Reg.FLT_SRC_STAT_CAUSE src) = true → t.fbit Reg.FLT_STATUS_CFG_IGNORED = true ∧ t.fbit
        (Reg.FLT_SRC_STAT_LASTING src) = s.fbit (Reg.FLT_SRC_STAT_LASTING src)) ∧
      t.fget (Reg.FLT_SRC_STAT_WCOUNT src) = s.fget (Reg.FLT_SRC_STAT_WCOUNT src) ∧
      t.mem = s.mem ∧
      t.sent = s.sent ∧
      (∀ reg : Nat, reg ∉ [Reg.FLT_STATUS] ++ each 26 Reg.FLT_SRC_STAT ++ accessRegs (Reg.FLT_SRC_STAT src) → t.rd reg =
        s.rd reg)) ∧
  -- FAULT_INJECT (R537)
  (∀ (s : State) (m : Master) (src : BitVec 5), s.canonical = true → s.admits m Reg.FLT_CTL = true →
    ∃ t, exec (.faultInject m src) s = .next t ∧
      (src.toNat < 26 → t.sent = .fault src.toNat 0 0 0 :: s.sent) ∧
      (26 ≤ src.toNat → t.sent = s.sent ∧ t.fbit Reg.FLT_STATUS_CFG_IGNORED = true) ∧
      t.fget Reg.FLT_CTL_INJ_SRC = src.toNat ∧
      t.mem = s.mem ∧
      (∀ reg : Nat, reg ∉ [Reg.FLT_CTL] ++ accessRegs Reg.FLT_CTL → t.rd reg = s.rd reg)) ∧
  -- WATCHDOG_KICK (R536)
  (∀ (s : State) (m : Master) (key : BitVec 8), s.canonical = true → s.admits m Reg.FLT_WDOG_KICK = true →
    ∃ t, exec (.watchdogKick m key) s = .next t ∧
      (key = 0xA5 → t.aon = { s.aon with wdogAt := s.time }) ∧
      (key ≠ 0xA5 → t.aon = s.aon ∧ t.fbit Reg.FLT_STATUS_CFG_IGNORED = true) ∧
      t.sent = s.sent ∧
      t.mem = s.mem ∧
      (∀ reg : Nat, reg ∉ accessRegs Reg.FLT_WDOG_KICK → t.rd reg = s.rd reg)) ∧
  -- WATCHDOG_EXPIRY (R536)
  (∀ (s : State), s.canonical = true → s.down = false →
    ∃ t, exec .watchdogExpiry s = .next t ∧
      (s.fbit Reg.FLT_WDOG_EN = true ∧ s.aon.wdogAt + max 1 (s.fget Reg.FLT_WDOG_PERIOD_MS) * 1000000 ≤ s.time → t.aon =
        { s.aon with wdogAt := s.time } ∧ t.sent = .fault 23 9 0 0 :: s.sent) ∧
      (¬ (s.fbit Reg.FLT_WDOG_EN = true ∧ s.aon.wdogAt + max 1 (s.fget Reg.FLT_WDOG_PERIOD_MS) * 1000000 ≤ s.time) → t =
        s) ∧
      t.csr = s.csr ∧
      t.mem = s.mem) ∧
  -- WINGBEAT_TOGGLE (R446, R532)
  (∀ (s : State), s.canonical = true → s.down = false →
    ∃ t, exec .wingbeatToggle s = .next t ∧
      (s.inService = true ∧ s.fbit Reg.FLT_STATUS_WB_FROZEN = false ∧ s.aon.wbLast < s.now / s.wbHalf * s.wbHalf ∧
        s.aon.wbRel + s.wbHalf ≤ s.now / s.wbHalf * s.wbHalf → t.fbit Reg.FLT_STATUS_WB_LEVEL = !s.fbit
        Reg.FLT_STATUS_WB_LEVEL ∧ t.aon = { s.aon with wbLast := s.now / s.wbHalf * s.wbHalf }) ∧
      (¬ (s.inService = true ∧ s.fbit Reg.FLT_STATUS_WB_FROZEN = false ∧ s.aon.wbLast < s.now / s.wbHalf * s.wbHalf ∧
        s.aon.wbRel + s.wbHalf ≤ s.now / s.wbHalf * s.wbHalf) → t = s) ∧
      t.sent = s.sent ∧
      t.mem = s.mem ∧
      (∀ reg : Nat, reg ∉ [Reg.FLT_STATUS] → t.rd reg = s.rd reg))

/-- Twin service: pairing and loss of the partner complete. Twin service enabled, the partner's Wingbeat and HELLO, their
loss and the takeover. (14_twins_and_boards.md.) -/
def Obligations.TwinPairingCommandsComplete : Prop :=
  -- TWIN_ENABLE (R446)
  (∀ (s : State) (m : Master), s.canonical = true → s.admits m Reg.AON_TWIN_CTL = true → s.fbit Reg.AON_TWIN_CTL_EN =
    false →
    ∃ t, exec (.twinEnable m) s = .next t ∧
      ((8 ≤ s.fget Reg.AON_TWIN_CFG_WB_HALF ∧ s.fget Reg.AON_TWIN_CFG_WB_HALF ≤ 164 ∧ s.fget Reg.AON_TWIN_CFG_WB_HALF +
        16 ≤ s.fget Reg.AON_TWIN_CFG_MISS_NS ∧ s.fget Reg.AON_TWIN_CFG_MISS_NS ≤ 180) → t.fbit Reg.AON_TWIN_CTL_EN = true
        ∧ t.aon = { s.aon with wbRel := s.now, wbEdgeAt := s.time }) ∧
      (¬ (8 ≤ s.fget Reg.AON_TWIN_CFG_WB_HALF ∧ s.fget Reg.AON_TWIN_CFG_WB_HALF ≤ 164 ∧ s.fget Reg.AON_TWIN_CFG_WB_HALF +
        16 ≤ s.fget Reg.AON_TWIN_CFG_MISS_NS ∧ s.fget Reg.AON_TWIN_CFG_MISS_NS ≤ 180) → t.fbit Reg.AON_TWIN_CTL_EN =
        false ∧ t.fbit Reg.AON_TWIN_STATUS_CFG_IGNORED = true ∧ t.aon = s.aon) ∧
      t.mem = s.mem ∧
      (∀ reg : Nat, reg ∉ [Reg.AON_TWIN_CTL, Reg.AON_TWIN_STATUS] ++ accessRegs Reg.AON_TWIN_CTL → t.rd reg = s.rd reg)) ∧
  -- TWIN_ENABLE: twin service is already on (R446)
  (∀ (s : State) (m : Master), s.canonical = true → s.admits m Reg.AON_TWIN_CTL = true → s.fbit Reg.AON_TWIN_CTL_EN =
    true →
    ∃ t, exec (.twinEnable m) s = .next t ∧
      t.fbit Reg.AON_TWIN_CTL_EN = true ∧
      t.aon = s.aon ∧
      t.mem = s.mem ∧
      (∀ reg : Nat, reg ∉ accessRegs Reg.AON_TWIN_CTL → t.rd reg = s.rd reg)) ∧
  -- TWIN_WB_EDGE (R448)
  (∀ (s : State), s.canonical = true → s.down = false →
    ∃ t, exec .twinWbEdge s = .next t ∧
      t.fbit Reg.AON_TWIN_STATUS_ARMED = (s.fbit Reg.AON_TWIN_STATUS_ARMED || (s.standby && s.inService)) ∧
      t.standby = s.standby ∧
      t.aon = { s.aon with wbEdgeAt := s.time, wbSeen := s.aon.wbSeen || s.inService } ∧
      t.sent = s.sent ∧
      t.mem = s.mem ∧
      (∀ reg : Nat, reg ∉ [Reg.AON_TWIN_STATUS] → t.rd reg = s.rd reg)) ∧
  -- WINGBEAT_LOSS (R448, R450, R451, R459)
  (∀ (s : State) (partnerActive : Bool), s.canonical = true → s.down = false → s.fbit Reg.AON_TWIN_STATUS_ARMED = true →
    s.standby = true → s.inService = true → s.aon.wbEdgeAt + 4 + s.fget Reg.AON_TWIN_CFG_MISS_NS ≤ s.time →
    ∃ t, exec (.wingbeatLoss partnerActive) s = .next t ∧
      t.standby = false ∧
      t.fget Reg.AON_TWIN_STATUS_LAST_REASON = 3 ∧
      t.fbit Reg.AON_TWIN_STATUS_ARMED = false ∧
      t.fbit Reg.AON_TWIN_STATUS_SWAP_PEND = false ∧
      t.fbit Reg.TB_OUT_STATUS_GATE = true ∧
      t.rd64 Reg.AON_TWIN_LAST_LO = s.now ∧
      (t.rd Reg.AON_TWIN_TAKE_CNT).toNat = satCount 32 (s.rd Reg.AON_TWIN_TAKE_CNT).toNat 1 ∧
      t.fbit Reg.AON_TWIN_STATUS_SPLIT = (s.fbit Reg.AON_TWIN_STATUS_SPLIT || partnerActive) ∧
      .fault 18 9 0 0 ∈ t.sent ∧
      .msix 96 ∈ t.sent ∧
      (partnerActive = true → .fault 19 9 0 0 ∈ t.sent) ∧
      (∀ k : Fin 12, s.twinLink k = true → .twin k 1 (s.fget Reg.AON_TWIN_VER_FW_GEN) 0 s.devid 0 0 0 ∈ t.sent) ∧
      t.mem = s.mem ∧
      (∀ reg : Nat, reg ∉ [Reg.AON_TWIN_STATUS, Reg.AON_TWIN_LAST_LO, Reg.AON_TWIN_LAST_HI, Reg.TB_OUT_STATUS,
        Reg.AON_TWIN_TAKE_CNT, Reg.AON_TWIN_HELD_CNT, Reg.MESH_NOROUTE_CNT] ++ each 16 Reg.IBL_DROP_CNT → t.rd reg = s.rd
        reg)) ∧
  -- WINGBEAT_LOSS: not ARMED, not a standby, below Instar 6, or an edge within the limit (R448, R450, R451, R459)
  (∀ (s : State) (partnerActive : Bool), s.canonical = true → s.down = false → s.fbit Reg.AON_TWIN_STATUS_ARMED = false ∨
    s.standby = false ∨ s.inService = false ∨ s.time < s.aon.wbEdgeAt + 4 + s.fget Reg.AON_TWIN_CFG_MISS_NS →
    ∃ t, exec (.wingbeatLoss partnerActive) s = .next t ∧
      t = s ∧
      t.mem = s.mem) ∧
  -- TWIN_START_TIMEOUT (R444)
  (∀ (s : State), s.canonical = true → s.down = false → s.standby = true → s.inService = true → s.aon.reached6 + s.fget
    Reg.AON_TWIN_CFG_START_MS * 1000000 ≤ s.time → (s.aon.wbSeen = false ∨ s.fbit Reg.AON_TWIN_CTL_EN = true ∧
    s.aon.partnerSeen = false) →
    ∃ t, exec .twinStartTimeout s = .next t ∧
      t.standby = false ∧
      t.fget Reg.AON_TWIN_STATUS_LAST_REASON = 2 ∧
      t.fbit Reg.TB_OUT_STATUS_GATE = true ∧
      t.rd64 Reg.AON_TWIN_LAST_LO = s.now ∧
      t.sent = .msix 96 :: s.sent ∧
      t.mem = s.mem ∧
      (∀ reg : Nat, reg ∉ [Reg.AON_TWIN_STATUS, Reg.AON_TWIN_LAST_LO, Reg.AON_TWIN_LAST_HI, Reg.TB_OUT_STATUS] → t.rd reg
        = s.rd reg)) ∧
  -- TWIN_START_TIMEOUT: the wait of R444 does not apply or is not over (R444)
  (∀ (s : State), s.canonical = true → s.down = false → s.standby = false ∨ s.inService = false ∨ s.time < s.aon.reached6
    + s.fget Reg.AON_TWIN_CFG_START_MS * 1000000 ∨ ¬ ((s.aon.wbSeen = false ∨ s.fbit Reg.AON_TWIN_CTL_EN = true ∧
    s.aon.partnerSeen = false)) →
    ∃ t, exec .twinStartTimeout s = .next t ∧
      t = s ∧
      t.mem = s.mem) ∧
  -- HELLO_SEND (R442)
  (∀ (s : State), s.canonical = true → s.down = false → s.aon.helloSent + 1024000 ≤ s.time →
    ∃ t, exec .helloSend s = .next t ∧
      (∀ k : Fin 12, s.twinLink k = true → .twin k 0 (s.fget Reg.AON_TWIN_VER_FW_GEN) (s.fget Reg.AON_TWIN_STATUS_ROLE)
        s.devid 0 0 0 ∈ t.sent) ∧
      t.aon = { s.aon with helloSent := s.time } ∧
      t.mem = s.mem ∧
      (∀ reg : Nat, reg ∉ [Reg.MESH_NOROUTE_CNT] ++ each 16 Reg.IBL_DROP_CNT → t.rd reg = s.rd reg)) ∧
  -- HELLO_SEND: the last HELLO left less than 1,024 us ago (R442)
  (∀ (s : State), s.canonical = true → s.down = false → s.time < s.aon.helloSent + 1024000 →
    ∃ t, exec .helloSend s = .next t ∧
      t = s ∧
      t.mem = s.mem) ∧
  -- HELLO (R442, R443, R461)
  (∀ (s : State) (link : Fin 12) (gen : BitVec 8) (standby : Bool) (devid : Fin 8), s.canonical = true → s.down = false →
    s.twinLink link = true → devid.val = s.partner →
    ∃ t, exec (.hello link gen standby devid) s = .next t ∧
      t.fbit Reg.AON_TWIN_STATUS_PARTNER_UP = true ∧
      t.aon = { s.aon with helloAt := some s.time, helloSeen := true, partnerSeen := true } ∧
      t.fget Reg.AON_TWIN_VER_PEER_GEN = gen.toNat ∧
      ((s.fget Reg.AON_TWIN_VER_FW_GEN ≤ gen.toNat + 1 ∧ gen.toNat ≤ s.fget Reg.AON_TWIN_VER_FW_GEN + 1) → t.fbit
        Reg.AON_TWIN_STATUS_VER_FAIL = false ∧ t.fget Reg.AON_TWIN_VER_PAIR_GEN = min (s.fget Reg.AON_TWIN_VER_FW_GEN)
        gen.toNat) ∧
      (¬ (s.fget Reg.AON_TWIN_VER_FW_GEN ≤ gen.toNat + 1 ∧ gen.toNat ≤ s.fget Reg.AON_TWIN_VER_FW_GEN + 1) → t.fbit
        Reg.AON_TWIN_STATUS_VER_FAIL = true) ∧
      (s.aon.helloSeen = true ∨ s.standby ≠ standby → t.standby = s.standby ∧ t.sent = s.sent) ∧
      (s.aon.helloSeen = false → s.standby = standby → t.standby = decide (s.partner < s.devid) ∧ t.fbit
        Reg.AON_TWIN_STATUS_STRAP_ERR = (s.fbit Reg.AON_TWIN_STATUS_STRAP_ERR || decide (s.partner < s.devid))) ∧
      (s.aon.helloSeen = false → s.standby = standby → t.standby ≠ s.standby → t.fget Reg.AON_TWIN_STATUS_LAST_REASON = 1
        ∧ t.sent = .msix 96 :: s.sent) ∧
      t.mem = s.mem ∧
      (∀ reg : Nat, reg ∉ [Reg.AON_TWIN_STATUS, Reg.AON_TWIN_LAST_LO, Reg.AON_TWIN_LAST_HI, Reg.TB_OUT_STATUS,
        Reg.AON_TWIN_VER] → t.rd reg = s.rd reg)) ∧
  -- HELLO: no twin link in use, or another device (R442, R443, R461)
  (∀ (s : State) (link : Fin 12) (gen : BitVec 8) (standby : Bool) (devid : Fin 8), s.canonical = true → s.down = false →
    s.twinLink link = false ∨ devid.val ≠ s.partner →
    ∃ t, exec (.hello link gen standby devid) s = .next t ∧
      t = s ∧
      t.mem = s.mem) ∧
  -- PARTNER_TIMEOUT (R442)
  (∀ (s : State) (h : Nat), s.canonical = true → s.down = false → s.aon.helloAt = some h → h + 4096000 ≤ s.time →
    ∃ t, exec .partnerTimeout s = .next t ∧
      t.fbit Reg.AON_TWIN_STATUS_PARTNER_UP = false ∧
      t.aon = { s.aon with helloAt := none } ∧
      t.sent = s.sent ∧
      t.mem = s.mem ∧
      (∀ reg : Nat, reg ∉ [Reg.AON_TWIN_STATUS] → t.rd reg = s.rd reg)) ∧
  -- PARTNER_TIMEOUT: a HELLO came within 4,096 us, or none is awaited (R442)
  (∀ (s : State), s.canonical = true → s.down = false → (∀ h : Nat, s.aon.helloAt = some h → s.time < h + 4096000) →
    ∃ t, exec .partnerTimeout s = .next t ∧
      t = s ∧
      t.mem = s.mem)

/-- Twin service: takeover, swap, switch and digests complete. TAKE, the planned swap on both members, SWITCH of a plane,
and the exchange and comparison of digests. (14_twins_and_boards.md.) -/
def Obligations.TwinSwapCommandsComplete : Prop :=
  -- TAKE (R451, R452, R459)
  (∀ (s : State) (link : Fin 12) (byPlane : Bool), s.canonical = true → s.down = false → s.twinLink link = true →
    s.standby = false →
    ∃ t, exec (.take link byPlane) s = .next t ∧
      t.standby = true ∧
      t.fget Reg.AON_TWIN_STATUS_LAST_REASON = 4 ∧
      t.fbit Reg.TB_OUT_STATUS_GATE = false ∧
      t.fbit Reg.AON_TWIN_STATUS_SWAP_PEND = false ∧
      t.fbit Reg.AON_TWIN_STATUS_SPLIT = (s.fbit Reg.AON_TWIN_STATUS_SPLIT || !byPlane) ∧
      t.rd64 Reg.AON_TWIN_LAST_LO = s.now ∧
      t.sent = (if byPlane then [] else [.fault 19 9 0 0]) ++ .msix 96 :: s.sent ∧
      t.mem = s.mem ∧
      (∀ reg : Nat, reg ∉ [Reg.AON_TWIN_STATUS, Reg.AON_TWIN_LAST_LO, Reg.AON_TWIN_LAST_HI, Reg.TB_OUT_STATUS] → t.rd reg
        = s.rd reg)) ∧
  -- TAKE: no twin link in use, or a standby (R451, R452, R459)
  (∀ (s : State) (link : Fin 12) (byPlane : Bool), s.canonical = true → s.down = false → s.twinLink link = false ∨
    s.standby = true →
    ∃ t, exec (.take link byPlane) s = .next t ∧
      t = s ∧
      t.mem = s.mem) ∧
  -- SWAP_REQUEST (R452)
  (∀ (s : State) (m : Master) (partnerArmed : Bool), s.canonical = true → s.admits m Reg.AON_TWIN_CTL = true → s.standby
    = false → s.now + 10000 ≤ s.rd64 Reg.AON_TWIN_SWAP_AT_LO → partnerArmed = true → s.fbit
    Reg.AON_TWIN_STATUS_PARTNER_UP = true → s.fbit Reg.AON_TWIN_STATUS_VER_FAIL = false →
    ∃ t, exec (.swapRequest m partnerArmed) s = .next t ∧
      t.fbit Reg.AON_TWIN_STATUS_SWAP_PEND = true ∧
      t.aon.swapAcked = false ∧
      t.standby = false ∧
      (∀ k : Fin 12, s.twinLink k = true → .twin k 2 (s.fget Reg.AON_TWIN_VER_FW_GEN) 0 s.devid (s.rd64
        Reg.AON_TWIN_SWAP_AT_LO) 0 0 ∈ t.sent) ∧
      t.mem = s.mem ∧
      (∀ reg : Nat, reg ∉ [Reg.AON_TWIN_STATUS, Reg.MESH_NOROUTE_CNT] ++ each 16 Reg.IBL_DROP_CNT ++ accessRegs
        Reg.AON_TWIN_CTL → t.rd reg = s.rd reg)) ∧
  -- SWAP_REQUEST: a condition of R452 does not hold (R452)
  (∀ (s : State) (m : Master) (partnerArmed : Bool), s.canonical = true → s.admits m Reg.AON_TWIN_CTL = true → s.standby
    = true ∨ s.rd64 Reg.AON_TWIN_SWAP_AT_LO < s.now + 10000 ∨ partnerArmed = false ∨ s.fbit
    Reg.AON_TWIN_STATUS_PARTNER_UP = false ∨ s.fbit Reg.AON_TWIN_STATUS_VER_FAIL = true →
    ∃ t, exec (.swapRequest m partnerArmed) s = .next t ∧
      t.fbit Reg.AON_TWIN_STATUS_CFG_IGNORED = true ∧
      t.fbit Reg.AON_TWIN_STATUS_SWAP_PEND = s.fbit Reg.AON_TWIN_STATUS_SWAP_PEND ∧
      t.aon = s.aon ∧
      t.mem = s.mem ∧
      (∀ reg : Nat, reg ∉ accessRegs Reg.AON_TWIN_CTL → t.rd reg = s.rd reg)) ∧
  -- SWAP (R452)
  (∀ (s : State) (link : Fin 12) (t : BitVec 64), s.canonical = true → s.down = false → s.twinLink link = true →
    s.standby = true → s.fbit Reg.AON_TWIN_STATUS_VER_FAIL = false →
    ∃ t_, exec (.swap link t) s = .next t_ ∧
      t_.aon = { s.aon with swapActiveAt := some (t.toNat + 8) } ∧
      (∀ k : Fin 12, s.twinLink k = true → .twin k 3 (s.fget Reg.AON_TWIN_VER_FW_GEN) 1 s.devid t.toNat 0 0 ∈ t_.sent) ∧
      t_.standby = true ∧
      t_.mem = s.mem ∧
      (∀ reg : Nat, reg ∉ [Reg.MESH_NOROUTE_CNT] ++ each 16 Reg.IBL_DROP_CNT → t_.rd reg = s.rd reg)) ∧
  -- SWAP: no twin link in use, no standby, or VER_FAIL (R452)
  (∀ (s : State) (link : Fin 12) (t : BitVec 64), s.canonical = true → s.down = false → s.twinLink link = false ∨
    s.standby = false ∨ s.fbit Reg.AON_TWIN_STATUS_VER_FAIL = true →
    ∃ t_, exec (.swap link t) s = .next t_ ∧
      t_ = s ∧
      t_.mem = s.mem) ∧
  -- SWAP_ACK (R452)
  (∀ (s : State) (link : Fin 12) (t : BitVec 64), s.canonical = true → s.down = false →
    ∃ t_, exec (.swapAck link t) s = .next t_ ∧
      t_.aon = (if s.twinLink link = true ∧ s.fbit Reg.AON_TWIN_STATUS_SWAP_PEND = true ∧ t.toNat = s.rd64
        Reg.AON_TWIN_SWAP_AT_LO then { s.aon with swapAcked := true } else s.aon) ∧
      t_.csr = s.csr ∧
      t_.sent = s.sent ∧
      t_.mem = s.mem) ∧
  -- SWAP_STANDBY (R452)
  (∀ (s : State), s.canonical = true → s.down = false → s.fbit Reg.AON_TWIN_STATUS_SWAP_PEND = true → s.aon.swapAcked =
    true → s.standby = false → s.rd64 Reg.AON_TWIN_SWAP_AT_LO ≤ s.now →
    ∃ t, exec .swapStandby s = .next t ∧
      t.standby = true ∧
      t.fget Reg.AON_TWIN_STATUS_LAST_REASON = 5 ∧
      t.fbit Reg.TB_OUT_STATUS_GATE = false ∧
      t.fbit Reg.AON_TWIN_STATUS_SWAP_PEND = false ∧
      t.rd64 Reg.AON_TWIN_LAST_LO = s.now ∧
      t.sent = .msix 96 :: s.sent ∧
      t.aon = { s.aon with swapAcked := false, swapActiveAt := none } ∧
      t.mem = s.mem ∧
      (∀ reg : Nat, reg ∉ [Reg.AON_TWIN_STATUS, Reg.AON_TWIN_LAST_LO, Reg.AON_TWIN_LAST_HI, Reg.TB_OUT_STATUS] → t.rd reg
        = s.rd reg)) ∧
  -- SWAP_STANDBY: no acknowledged swap of an active member is due (R452)
  (∀ (s : State), s.canonical = true → s.down = false → s.fbit Reg.AON_TWIN_STATUS_SWAP_PEND = false ∨ s.aon.swapAcked =
    false ∨ s.standby = true ∨ s.now < s.rd64 Reg.AON_TWIN_SWAP_AT_LO →
    ∃ t, exec .swapStandby s = .next t ∧
      t = s ∧
      t.mem = s.mem) ∧
  -- SWAP_ACTIVE (R444, R452)
  (∀ (s : State) (x : Nat), s.canonical = true → s.down = false → s.aon.swapActiveAt = some x → x ≤ s.now → s.standby =
    true → s.inService = true →
    ∃ t, exec .swapActive s = .next t ∧
      t.standby = false ∧
      t.fget Reg.AON_TWIN_STATUS_LAST_REASON = 5 ∧
      t.fbit Reg.TB_OUT_STATUS_GATE = true ∧
      t.fbit Reg.AON_TWIN_STATUS_SWAP_PEND = false ∧
      t.rd64 Reg.AON_TWIN_LAST_LO = s.now ∧
      t.aon = { s.aon with swapAcked := false, swapActiveAt := none } ∧
      t.sent = .msix 96 :: s.sent ∧
      t.mem = s.mem ∧
      (∀ reg : Nat, reg ∉ [Reg.AON_TWIN_STATUS, Reg.AON_TWIN_LAST_LO, Reg.AON_TWIN_LAST_HI, Reg.TB_OUT_STATUS] → t.rd reg
        = s.rd reg)) ∧
  -- SWAP_ACTIVE: no swap is due in a standby in service (R444, R452)
  (∀ (s : State), s.canonical = true → s.down = false → (s.standby = false ∨ s.inService = false ∨ ∀ x : Nat,
    s.aon.swapActiveAt = some x → s.now < x) →
    ∃ t, exec .swapActive s = .next t ∧
      t = s ∧
      t.mem = s.mem) ∧
  -- SWAP_CANCEL (R452)
  (∀ (s : State) (x : Nat), s.canonical = true → s.down = false → s.fbit Reg.AON_TWIN_STATUS_SWAP_PEND = true ∨
    s.aon.swapActiveAt = some x ∧ x ≤ s.now + 2008 → (s.fbit Reg.AON_TWIN_STATUS_SWAP_PEND = true → s.aon.swapAcked =
    false ∧ s.rd64 Reg.AON_TWIN_SWAP_AT_LO ≤ s.now + 2000) →
    ∃ t, exec .swapCancel s = .next t ∧
      t.fbit Reg.AON_TWIN_STATUS_SWAP_PEND = false ∧
      t.standby = s.standby ∧
      t.aon = { s.aon with swapAcked := false, swapActiveAt := none } ∧
      t.sent = s.sent ∧
      t.mem = s.mem ∧
      (∀ reg : Nat, reg ∉ [Reg.AON_TWIN_STATUS] → t.rd reg = s.rd reg)) ∧
  -- SWAP_CANCEL: the swap is acknowledged, or its time limit is not reached, or none is pending (R452)
  (∀ (s : State), s.canonical = true → s.down = false → ((s.fbit Reg.AON_TWIN_STATUS_SWAP_PEND = true ∧ (s.aon.swapAcked
    = true ∨ s.now + 2000 < s.rd64 Reg.AON_TWIN_SWAP_AT_LO)) ∨ (s.fbit Reg.AON_TWIN_STATUS_SWAP_PEND = false ∧ ∀ x : Nat,
    s.aon.swapActiveAt = some x → s.now + 2008 < x)) →
    ∃ t, exec .swapCancel s = .next t ∧
      t = s ∧
      t.mem = s.mem) ∧
  -- SWITCH (R459)
  (∀ (s : State) (link : Fin 12), s.canonical = true → s.down = false → s.fbit (Reg.IBL_STATUS_UP link) = true → s.fget
    (Reg.IBL_PEER_DEV link) % 2 = s.devid % 2 → s.standby = true → s.inService = true →
    ∃ t, exec (.switch link) s = .next t ∧
      t.standby = false ∧
      t.fget Reg.AON_TWIN_STATUS_LAST_REASON = 6 ∧
      t.fbit Reg.TB_OUT_STATUS_GATE = true ∧
      t.rd64 Reg.AON_TWIN_LAST_LO = s.now ∧
      .msix 96 ∈ t.sent ∧
      (∀ k : Fin 12, s.twinLink k = true → .twin k 1 (s.fget Reg.AON_TWIN_VER_FW_GEN) 0 s.devid 0 0 0 ∈ t.sent) ∧
      t.mem = s.mem ∧
      (∀ reg : Nat, reg ∉ [Reg.AON_TWIN_STATUS, Reg.AON_TWIN_LAST_LO, Reg.AON_TWIN_LAST_HI, Reg.TB_OUT_STATUS,
        Reg.MESH_NOROUTE_CNT] ++ each 16 Reg.IBL_DROP_CNT → t.rd reg = s.rd reg)) ∧
  -- SWITCH: the link is not UP or leads out of the plane, or the member is no standby in service (R459)
  (∀ (s : State) (link : Fin 12), s.canonical = true → s.down = false → s.fbit (Reg.IBL_STATUS_UP link) = false ∨ ¬
    (s.fget (Reg.IBL_PEER_DEV link) % 2 = s.devid % 2) ∨ s.standby = false ∨ s.inService = false →
    ∃ t, exec (.switch link) s = .next t ∧
      t = s ∧
      t.mem = s.mem) ∧
  -- DIGEST_SEND (R466)
  (∀ (s : State) (w : Nat × Nat × Nat) (r : List (Nat × Nat × Nat)), s.canonical = true → s.down = false → s.aon.digPrev
    = w :: r → s.fbit Reg.AON_TWIN_CTL_EN = true → s.stepOn = true → (w.1 + s.fget Reg.AON_TWIN_CMP_STEPS + 1) % 2 ^ 32 ≤
    s.stepCnt →
    ∃ t, exec .digestSend s = .next t ∧
      t.aon.digPrev = r ∧
      t.aon.digNow = s.aon.digNow ∧
      (∀ k : Fin 12, s.twinLink k = true → .twin k 4 (s.fget Reg.AON_TWIN_VER_FW_GEN) (s.fget Reg.AON_TWIN_STATUS_ROLE)
        s.devid w.1 w.2.1 w.2.2 ∈ t.sent) ∧
      (s.aon.digPeer = [] → t.aon.digOwn = s.aon.digOwn ++ [w] ∧ t.rd Reg.AON_TWIN_CMP_CNT = s.rd Reg.AON_TWIN_CMP_CNT) ∧
      t.mem = s.mem ∧
      (∀ reg : Nat, reg ∉ [Reg.AON_TWIN_CMP_CNT, Reg.AON_TWIN_CMP_MISS_CNT, Reg.MESH_NOROUTE_CNT] ++ each 16
        Reg.IBL_DROP_CNT → t.rd reg = s.rd reg)) ∧
  -- DIGEST_SEND: no window has ended, or twin service or the step generator is off (R466)
  (∀ (s : State), s.canonical = true → s.down = false → s.fbit Reg.AON_TWIN_CTL_EN = false ∨ s.stepOn = false ∨
    s.aon.digPrev = [] →
    ∃ t, exec .digestSend s = .next t ∧
      t = s ∧
      t.mem = s.mem) ∧
  -- DIGEST (R466)
  (∀ (s : State) (link : Fin 12) (first : Word) (count : Word) (sum : Word) (c x : Nat), s.canonical = true → s.down =
    false → s.twinLink link = true → s.fbit Reg.AON_TWIN_CTL_EN = true →
    ∃ t, exec (.digest link first count sum) s = .next t ∧
      (s.fbit Reg.AON_TWIN_STATUS_VER_FAIL = false → s.aon.digOwn = [(first.toNat, c, x)] → (t.rd
        Reg.AON_TWIN_CMP_CNT).toNat = satCount 32 (s.rd Reg.AON_TWIN_CMP_CNT).toNat 1 ∧ (t.rd
        Reg.AON_TWIN_CMP_MISS_CNT).toNat = (if (c, x) = (count.toNat, sum.toNat) then (s.rd
        Reg.AON_TWIN_CMP_MISS_CNT).toNat else satCount 32 (s.rd Reg.AON_TWIN_CMP_MISS_CNT).toNat 1) ∧ t.aon.digOwn = [])
        ∧
      (s.fbit Reg.AON_TWIN_STATUS_VER_FAIL = true ∨ s.aon.digOwn = [] → t.csr = s.csr ∧ (first.toNat, count.toNat,
        sum.toNat) ∈ t.aon.digPeer) ∧
      t.sent = s.sent ∧
      t.mem = s.mem ∧
      (∀ reg : Nat, reg ∉ [Reg.AON_TWIN_CMP_CNT, Reg.AON_TWIN_CMP_MISS_CNT] → t.rd reg = s.rd reg)) ∧
  -- DIGEST: no twin link in use, or twin service off (R466)
  (∀ (s : State) (link : Fin 12) (first : Word) (count : Word) (sum : Word), s.canonical = true → s.down = false →
    s.twinLink link = false ∨ s.fbit Reg.AON_TWIN_CTL_EN = false →
    ∃ t, exec (.digest link first count sum) s = .next t ∧
      t = s ∧
      t.mem = s.mem)

/-- Ingest: PLLs, streams, lanes and locks complete. PLL writes and locks, stream and tap enables, lane locks won and lost.
(02_ingest_and_encoders.md.) -/
def Obligations.IngestLinkCommandsComplete : Prop :=
  -- JRX_PLL_WRITE (R82)
  (∀ (s : State) (m : Master) (p : Fin 8) (rate : BitVec 16), s.canonical = true → s.admits m (Reg.JRX_PLL p) = true →
    ∃ t, exec (.jrxPllWrite m p rate) s = .next t ∧
      (600 ≤ rate.toNat ∧ rate.toNat ≤ 3200 ∧ (rate.toNat = s.fget (Reg.JRX_PLL_RATE p) ∨ s.pllLanes p = []) → rate.toNat
        ≠ s.fget (Reg.JRX_PLL_RATE p) → t.fget (Reg.JRX_PLL_RATE p) = rate.toNat ∧ t.fbit (Reg.JRX_PLL_LOCKED p) = false
        ∧ ∀ l : Fin 64, s.lanePll l = p.val → t.fbit (Reg.JRX_LANE_STAT_EMB_LOCK l) = false ∧ t.fbit
        (Reg.JRX_LANE_STAT_BLOCK_LOCK l) = false) ∧
      (600 ≤ rate.toNat ∧ rate.toNat ≤ 3200 ∧ (rate.toNat = s.fget (Reg.JRX_PLL_RATE p) ∨ s.pllLanes p = []) → rate.toNat
        = s.fget (Reg.JRX_PLL_RATE p) → t.rd (Reg.JRX_PLL p) = s.rd (Reg.JRX_PLL p)) ∧
      (¬ (600 ≤ rate.toNat ∧ rate.toNat ≤ 3200 ∧ (rate.toNat = s.fget (Reg.JRX_PLL_RATE p) ∨ s.pllLanes p = [])) → t.fbit
        Reg.JRX_STATUS_CFG_IGNORED = true ∧ t.rd (Reg.JRX_PLL p) = s.rd (Reg.JRX_PLL p)) ∧
      t.mem = s.mem ∧
      t.sent = s.sent ∧
      (∀ reg : Nat, reg ∉ [Reg.JRX_PLL p] ++ each 64 Reg.JRX_LANE_STAT ++ accessRegs (Reg.JRX_PLL p) → t.rd reg = s.rd
        reg)) ∧
  -- PLL_LOCK (R82)
  (∀ (s : State) (p : Fin 8), s.canonical = true → s.down = false →
    ∃ t, exec (.pllLock p) s = .next t ∧
      (s.fget (Reg.JRX_PLL_RATE p) ≠ 0 → t.fbit (Reg.JRX_PLL_LOCKED p) = true ∧ t.fget (Reg.JRX_PLL_RATE p) = s.fget
        (Reg.JRX_PLL_RATE p)) ∧
      (s.fget (Reg.JRX_PLL_RATE p) = 0 → t = s) ∧
      t.mem = s.mem ∧
      t.sent = s.sent ∧
      (∀ reg : Nat, reg ∉ [Reg.JRX_PLL p] → t.rd reg = s.rd reg)) ∧
  -- STREAM_ENABLE (R47)
  (∀ (s : State) (m : Master) (i : Fin 32), s.canonical = true → s.admits m (Reg.ING_CTL i) = true → s.fbit
    (Reg.ING_CTL_EN i) = false →
    ∃ t, exec (.streamEnable m i) s = .next t ∧
      (s.streamCode i = 0 → t.fbit (Reg.ING_CTL_EN i) = true ∧ t.fget (Reg.ING_STATUS_CFG_ERR i) = 0 ∧ t.fbit
        (Reg.ING_STATUS_ALIGNED i) = false ∧ t.fbit (Reg.ING_STATUS_ABSENT i) = false ∧ t.fbit (Reg.ING_STATUS_TS_DET i)
        = false ∧ (t.stream i).enabledAt = s.time ∧ (t.stream i).tapOn = s.fbit (Reg.ING_CTL_TAP_EN i) ∧ (t.stream
        i).defq = (s.stream i).defq) ∧
      (s.streamCode i ≠ 0 → t.fget (Reg.ING_STATUS_CFG_ERR i) = s.streamCode i ∧ t.fbit (Reg.ING_CTL_EN i) = false ∧
        t.streams = s.streams) ∧
      t.mem = s.mem ∧
      t.sent = s.sent ∧
      (∀ reg : Nat, reg ∉ [Reg.ING_CTL i, Reg.ING_LATENCY i, Reg.ING_STATUS i] ++ accessRegs (Reg.ING_CTL i) → t.rd reg =
        s.rd reg)) ∧
  -- STREAM_ENABLE: the stream is already enabled (R47)
  (∀ (s : State) (m : Master) (i : Fin 32), s.canonical = true → s.admits m (Reg.ING_CTL i) = true → s.fbit
    (Reg.ING_CTL_EN i) = true →
    ∃ t, exec (.streamEnable m i) s = .next t ∧
      t.streams = s.streams ∧
      t.mem = s.mem ∧
      t.sent = s.sent ∧
      (∀ reg : Nat, reg ∉ accessRegs (Reg.ING_CTL i) → t.rd reg = s.rd reg)) ∧
  -- STREAM_DISABLE (R58)
  (∀ (s : State) (m : Master) (i : Fin 32), s.canonical = true → s.admits m (Reg.ING_CTL i) = true → s.fbit
    (Reg.ING_CTL_EN i) = true →
    ∃ t, exec (.streamDisable m i) s = .next t ∧
      t.fbit (Reg.ING_CTL_EN i) = false ∧
      t.fbit (Reg.ING_STATUS_ALIGNED i) = false ∧
      t.fbit (Reg.ING_STATUS_ABSENT i) = false ∧
      t.fbit (Reg.ING_STATUS_TS_DET i) = false ∧
      (t.stream i).defq = [] ∧
      (t.stream i).samples = none ∧
      (t.stream i).events = none ∧
      t.fget (Reg.ING_STATUS_CFG_ERR i) = s.fget (Reg.ING_STATUS_CFG_ERR i) ∧
      t.mem = s.mem ∧
      t.sent = s.sent ∧
      (∀ reg : Nat, reg ∉ [Reg.ING_CTL i, Reg.ING_STATUS i, Reg.ING_GAP_CNT i, Reg.ING_RING_WP_LO i, Reg.ING_RING_WP_HI
        i, Reg.ING_WRAP_CNT i] ++ each 26 Reg.FLT_SRC_STAT ++ accessRegs (Reg.ING_CTL i) → t.rd reg = s.rd reg)) ∧
  -- STREAM_DISABLE: the stream is not enabled (R58)
  (∀ (s : State) (m : Master) (i : Fin 32), s.canonical = true → s.admits m (Reg.ING_CTL i) = true → s.fbit
    (Reg.ING_CTL_EN i) = false →
    ∃ t, exec (.streamDisable m i) s = .next t ∧
      t.streams = s.streams ∧
      t.mem = s.mem ∧
      t.sent = s.sent ∧
      (∀ reg : Nat, reg ∉ accessRegs (Reg.ING_CTL i) → t.rd reg = s.rd reg)) ∧
  -- TAP_ENABLE (R76, R79)
  (∀ (s : State) (m : Master) (i : Fin 32) (on : Bool), s.canonical = true → s.admits m (Reg.ING_CTL i) = true →
    ∃ t, exec (.tapEnable m i on) s = .next t ∧
      (¬ (on = true ∧ s.fbit (Reg.ING_CTL_TAP_EN i) = false ∧ s.fbit (Reg.ING_CTL_EN i) = true ∧ s.tapOver i = true) →
        t.fbit (Reg.ING_CTL_TAP_EN i) = on ∧ (t.stream i).tapOn = (if (s.stream i).samples = none then on else (s.stream
        i).tapOn)) ∧
      (on = true ∧ s.fbit (Reg.ING_CTL_TAP_EN i) = false ∧ s.fbit (Reg.ING_CTL_EN i) = true ∧ s.tapOver i = true → t.fbit
        (Reg.ING_CTL_TAP_EN i) = false ∧ t.fget (Reg.ING_STATUS_CFG_ERR i) = 4 ∧ t.streams = s.streams) ∧
      t.fbit (Reg.ING_CTL_EN i) = s.fbit (Reg.ING_CTL_EN i) ∧
      t.mem = s.mem ∧
      t.sent = s.sent ∧
      (∀ reg : Nat, reg ∉ [Reg.ING_CTL i, Reg.ING_STATUS i] ++ accessRegs (Reg.ING_CTL i) → t.rd reg = s.rd reg)) ∧
  -- BLOCK_LOCK (R601)
  (∀ (s : State) (l : Fin 64), s.canonical = true → s.down = false →
    ∃ t, exec (.blockLock l) s = .next t ∧
      (s.laneLive l = true → t.fbit (Reg.JRX_LANE_STAT_BLOCK_LOCK l) = true) ∧
      (s.laneLive l = false → t = s) ∧
      t.fbit (Reg.JRX_LANE_STAT_EMB_LOCK l) = s.fbit (Reg.JRX_LANE_STAT_EMB_LOCK l) ∧
      t.mem = s.mem ∧
      t.sent = s.sent ∧
      (∀ reg : Nat, reg ∉ [Reg.JRX_LANE_STAT l] → t.rd reg = s.rd reg)) ∧
  -- EMB_LOCK (R601)
  (∀ (s : State) (l : Fin 64), s.canonical = true → s.down = false →
    ∃ t, exec (.embLock l) s = .next t ∧
      (s.laneLive l = true ∧ s.fbit (Reg.JRX_LANE_STAT_BLOCK_LOCK l) = true → t.fbit (Reg.JRX_LANE_STAT_EMB_LOCK l) =
        true) ∧
      (¬ (s.laneLive l = true ∧ s.fbit (Reg.JRX_LANE_STAT_BLOCK_LOCK l) = true) → t = s) ∧
      t.fbit (Reg.JRX_LANE_STAT_BLOCK_LOCK l) = s.fbit (Reg.JRX_LANE_STAT_BLOCK_LOCK l) ∧
      t.mem = s.mem ∧
      t.sent = s.sent ∧
      (∀ reg : Nat, reg ∉ [Reg.JRX_LANE_STAT l] → t.rd reg = s.rd reg)) ∧
  -- LANE_LOCK_LOSS (R57, R82)
  (∀ (s : State) (l : Fin 64) (shErr : BitVec 8) (badMarkers : BitVec 4) (i : Fin 32), s.canonical = true → s.down =
    false → s.laneHears l = true →
    ∃ t, exec (.laneLockLoss l shErr badMarkers) s = .next t ∧
      t.fget (Reg.JRX_LANE_STAT_SH_ERR_CNT l) = satCount 16 (s.fget (Reg.JRX_LANE_STAT_SH_ERR_CNT l)) shErr.toNat ∧
      (16 ≤ shErr.toNat ∨ 4 ≤ badMarkers.toNat → t.fbit (Reg.JRX_LANE_STAT_EMB_LOCK l) = false) ∧
      (16 ≤ shErr.toNat → t.fbit (Reg.JRX_LANE_STAT_BLOCK_LOCK l) = false) ∧
      (16 ≤ shErr.toNat ∨ 4 ≤ badMarkers.toNat → s.fget (Reg.JRX_LANE_CFG_STREAM l) = i.val → s.streamRuns i = true →
        t.fbit (Reg.ING_STATUS_ALIGNED i) = false ∧ t.fbit (Reg.ING_STATUS_ABSENT i) = true ∧ (t.rd (Reg.ING_ABSENT_CNT
        i)).toNat = satCount 32 (s.rd (Reg.ING_ABSENT_CNT i)).toNat 1 ∧ t.sent = .fault 8 4 i 0 :: s.sent) ∧
      (16 ≤ shErr.toNat ∨ 4 ≤ badMarkers.toNat → s.fget (Reg.JRX_LANE_CFG_STREAM l) = i.val → s.streamRuns i = false →
        t.fbit (Reg.ING_STATUS_ALIGNED i) = false ∧ t.sent = s.sent) ∧
      (¬ (16 ≤ shErr.toNat ∨ 4 ≤ badMarkers.toNat) → t.streams = s.streams ∧ t.sent = s.sent ∧ t.fbit
        (Reg.JRX_LANE_STAT_EMB_LOCK l) = s.fbit (Reg.JRX_LANE_STAT_EMB_LOCK l)) ∧
      t.mem = s.mem ∧
      (∀ reg : Nat, reg ∉ [Reg.JRX_LANE_STAT l] ++ each 26 Reg.FLT_SRC_STAT ++ each 32 Reg.ING_ABSENT_CNT ++ each 32
        Reg.ING_STATUS ++ each 32 Reg.ING_GAP_CNT ++ each 32 Reg.ING_RING_WP_LO ++ each 32 Reg.ING_RING_WP_HI ++ each 32
        Reg.ING_WRAP_CNT → t.rd reg = s.rd reg)) ∧
  -- LANE_LOCK_LOSS: a lane that does not receive (R57, R82)
  (∀ (s : State) (l : Fin 64) (shErr : BitVec 8) (badMarkers : BitVec 4), s.canonical = true → s.down = false →
    s.laneHears l = false →
    ∃ t, exec (.laneLockLoss l shErr badMarkers) s = .next t ∧
      t = s ∧
      t.mem = s.mem)

/-- Ingest: alignment, multiblocks, encoders and the tap complete. SYSREF, the elastic buffers, multiblocks, an encoder
cycle, the step boundary at the encoder, the event log and a tap record acknowledged. (01_sample_to_trigger.md,
02_ingest_and_encoders.md.) -/
def Obligations.IngestDataCommandsComplete : Prop :=
  -- SYSREF_EDGE (R54, R419)
  (∀ (s : State) (offGrid : List (Fin 32)) (i : Fin 32), s.canonical = true → s.down = false →
    ∃ t, exec (.sysrefEdge offGrid) s = .next t ∧
      t.fbit Reg.JRX_SYSREF_SEEN = true ∧
      (s.fbit Reg.TB_SYNC_CFG_ARM = true → s.fget Reg.TB_SYNC_CFG_MODE = 1 → s.tb.loadAt = none → t.tb.loadAt = some
        (s.time + 16)) ∧
      (t.stream i).phaseSet = ((s.stream i).phaseSet || decide (s.fget Reg.JRX_SYSREF_MODE = 1 ∧ s.fbit (Reg.ING_CTL_EN
        i) = true ∧ s.fbit (Reg.ING_CTL_SUBCLASS i) = true ∧ s.fbit (Reg.ING_STATUS_ALIGNED i) = false ∧ s.allLocked i =
        true)) ∧
      (s.fget Reg.JRX_SYSREF_MODE ≠ 1 ∨ offGrid = [] → t.fget Reg.JRX_SYSREF_MISALIGN_CNT = s.fget
        Reg.JRX_SYSREF_MISALIGN_CNT) ∧
      (s.fget Reg.JRX_SYSREF_MODE = 1 → i ∈ offGrid → s.fbit (Reg.ING_CTL_EN i) = true → s.fbit (Reg.ING_CTL_SUBCLASS i)
        = true → s.fbit (Reg.ING_STATUS_ALIGNED i) = true → t.fget Reg.JRX_SYSREF_MISALIGN_CNT = satCount 16 (s.fget
        Reg.JRX_SYSREF_MISALIGN_CNT) 1) ∧
      t.mem = s.mem ∧
      t.sent = s.sent ∧
      (∀ reg : Nat, reg ∉ [Reg.JRX_SYSREF] → t.rd reg = s.rd reg)) ∧
  -- ELASTIC_RELEASE (R49, R50, R52, R601, R71, R54)
  (∀ (s : State) (i : Fin 32) (arrivals : List (BitVec 8)) (written : Bool), s.canonical = true → s.down = false → s.fbit
    (Reg.ING_CTL_EN i) = true → s.allLocked i = true → (s.stream i).relAbs = false →
    ∃ t, exec (.elasticRelease i arrivals written) s = .next t ∧
      (written = true → s.fbit (Reg.ING_STATUS_ALIGNED i) = false → (s.fbit (Reg.ING_CTL_SUBCLASS i) = true → (s.stream
        i).phaseSet = true ∧ s.fget Reg.JRX_SYSREF_MODE = 1) → t.fbit (Reg.ING_STATUS_ALIGNED i) = true ∧ t.fbit
        (Reg.ING_STATUS_TS_DET i) = s.fbit (Reg.ING_CTL_SUBCLASS i)) ∧
      (written = true → s.fbit (Reg.ING_STATUS_ALIGNED i) = false → (s.fbit (Reg.ING_CTL_SUBCLASS i) = true → (s.stream
        i).phaseSet = true ∧ s.fget Reg.JRX_SYSREF_MODE = 1) → s.fbit (Reg.ING_STATUS_ABSENT i) = false → t.fbit
        (Reg.ING_STATUS_ABSENT i) = false) ∧
      (s.fbit (Reg.ING_STATUS_ALIGNED i) = false → ¬ (s.fbit (Reg.ING_CTL_SUBCLASS i) = true → (s.stream i).phaseSet =
        true ∧ s.fget Reg.JRX_SYSREF_MODE = 1) → t.fbit (Reg.ING_STATUS_ALIGNED i) = false) ∧
      (written = false → s.fbit (Reg.ING_CTL_SUBCLASS i) = true → (s.fbit (Reg.ING_CTL_SUBCLASS i) = true → (s.stream
        i).phaseSet = true ∧ s.fget Reg.JRX_SYSREF_MODE = 1) → t.fget (Reg.ING_STATUS_CFG_ERR i) = 6 ∧ t.fbit
        (Reg.ING_STATUS_ABSENT i) = true ∧ (t.stream i).relAbs = true) ∧
      (written = false → s.fbit (Reg.ING_CTL_SUBCLASS i) = false → t = s) ∧
      t.mem = s.mem ∧
      (∀ reg : Nat, reg ∉ [Reg.ING_LATENCY i, Reg.ING_STATUS i, Reg.ING_ABSENT_CNT i, Reg.ING_GAP_CNT i,
        Reg.ING_RING_WP_LO i, Reg.ING_RING_WP_HI i, Reg.ING_WRAP_CNT i] ++ each 64 Reg.JRX_LANE_STAT ++ each 26
        Reg.FLT_SRC_STAT → t.rd reg = s.rd reg)) ∧
  -- ELASTIC_RELEASE: the stream is off, a lane lacks its lock, or the stream is absent by a failed release (R49, R50, R52, R601, R71, R54)
  (∀ (s : State) (i : Fin 32) (arrivals : List (BitVec 8)) (written : Bool), s.canonical = true → s.down = false → s.fbit
    (Reg.ING_CTL_EN i) = false ∨ s.allLocked i = false ∨ (s.stream i).relAbs = true →
    ∃ t, exec (.elasticRelease i arrivals written) s = .next t ∧
      t = s ∧
      t.mem = s.mem) ∧
  -- ALIGN_TIMEOUT (R56)
  (∀ (s : State) (i : Fin 32), s.canonical = true → s.down = false →
    ∃ t, exec (.alignTimeout i) s = .next t ∧
      (s.fbit (Reg.ING_CTL_EN i) = true ∧ s.fbit (Reg.ING_STATUS_ALIGNED i) = false ∧ s.fbit (Reg.ING_STATUS_ABSENT i) =
        false ∧ (s.stream i).enabledAt + 20000000 ≤ s.time → t.fbit (Reg.ING_STATUS_ABSENT i) = true ∧ t.sent = .fault 8
        4 i 0 :: s.sent ∧ (t.rd (Reg.ING_ABSENT_CNT i)).toNat = satCount 32 (s.rd (Reg.ING_ABSENT_CNT i)).toNat 1 ∧
        t.fbit (Reg.FLT_SRC_STAT_CAUSE 8) = true) ∧
      (¬ (s.fbit (Reg.ING_CTL_EN i) = true ∧ s.fbit (Reg.ING_STATUS_ALIGNED i) = false ∧ s.fbit (Reg.ING_STATUS_ABSENT i)
        = false ∧ (s.stream i).enabledAt + 20000000 ≤ s.time) → t = s) ∧
      t.mem = s.mem ∧
      (∀ reg : Nat, reg ∉ [Reg.ING_ABSENT_CNT i, Reg.ING_STATUS i] ++ each 26 Reg.FLT_SRC_STAT → t.rd reg = s.rd reg)) ∧
  -- MULTIBLOCK_RECEIVE (R53, R59)
  (∀ (s : State) (i : Fin 32) (m : Word) (result : Fin 4) (shErr : List (Fin 64 × BitVec 8)), s.canonical = true → s.down
    = false → s.streamRuns i = true →
    ∃ t, exec (.multiblockReceive i m result shErr) s = .next t ∧
      (result ≠ 0 → s.fbit (Reg.ING_CTL_SHMODE i) = !decide (result = 1) → (t.rd (if result = 1 then Reg.ING_CRC_CNT i
        else if result = 2 then Reg.ING_FEC_CNT i else Reg.ING_FEC_UNC_CNT i)).toNat = satCount 32 (s.rd (if result = 1
        then Reg.ING_CRC_CNT i else if result = 2 then Reg.ING_FEC_CNT i else Reg.ING_FEC_UNC_CNT i)).toNat 1 ∧ (t.stream
        i).flagged = (s.stream i).flagged ++ [((s.mbSpan i m.toNat).1, (s.mbSpan i m.toNat).2, if result = 1 then 1 else
        if result = 2 then 2 else 4)]) ∧
      (result ≠ 0 → s.fbit (Reg.ING_CTL_SHMODE i) = !decide (result = 1) → (s.stream i).written = [] → t.sent = (if
        result = 2 then s.sent else .fault 6 4 i 0 :: s.sent) ∧ t.mem = s.mem) ∧
      (result = 0 ∨ s.fbit (Reg.ING_CTL_SHMODE i) = decide (result = 1) → (t.stream i).flagged = (s.stream i).flagged ∧
        t.rd (if result = 1 then Reg.ING_CRC_CNT i else if result = 2 then Reg.ING_FEC_CNT i else Reg.ING_FEC_UNC_CNT i)
        = s.rd (if result = 1 then Reg.ING_CRC_CNT i else if result = 2 then Reg.ING_FEC_CNT i else Reg.ING_FEC_UNC_CNT
        i)) ∧
      (∀ x : Nat, (∀ r ∈ (s.stream i).written, x ≠ unalias (localPart (r.addr + 11))) → t.mget x = s.mget x) ∧
      (∀ reg : Nat, reg ∉ [Reg.ING_CRC_CNT i, Reg.ING_FEC_CNT i, Reg.ING_FEC_UNC_CNT i] ++ each 64 Reg.JRX_LANE_STAT ++
        memorySide → t.rd reg = s.rd reg)) ∧
  -- MULTIBLOCK_RECEIVE: a stream that does not run: only the sync-header counts of its lanes (R53, R59)
  (∀ (s : State) (i : Fin 32) (m : Word) (result : Fin 4) (shErr : List (Fin 64 × BitVec 8)), s.canonical = true → s.down
    = false → s.streamRuns i = false →
    ∃ t, exec (.multiblockReceive i m result shErr) s = .next t ∧
      t.streams = s.streams ∧
      t.mem = s.mem ∧
      t.sent = s.sent ∧
      (∀ reg : Nat, reg ∉ each 64 Reg.JRX_LANE_STAT → t.rd reg = s.rd reg)) ∧
  -- ENCODER_CYCLE (R60, R53, R55)
  (∀ (s : State) (i : Fin 32) (stamp : BitVec 80) (index : Word) (samples : List (List (BitVec 16))) (corrected : List
    (List (BitVec 16))), s.canonical = true → s.down = false → s.streamRuns i = true →
    ∃ t, exec (.encoderCycle i stamp index samples corrected) s = .next t ∧
      (t.stream i).nsamp = (s.stream i).nsamp + min 16 samples.length ∧
      t.streamRuns i = true ∧
      (samples = [] → (t.stream i).frame = (s.stream i).frame ∧ (t.stream i).chans = (s.stream i).chans ∧ t.sent =
        s.sent) ∧
      (∀ j : Fin 32, j ≠ i → t.stream j = s.stream j) ∧
      t.mem = s.mem ∧
      (∀ reg : Nat, reg ∉ [Reg.ING_CLIP_CNT i, Reg.ING_DEFER_CNT i, Reg.ING_EVT_CNT i, Reg.ING_HOLD_CNT i,
        Reg.ING_SAT_CNT i, Reg.ING_SRC i, Reg.ING_GAP_CNT i, Reg.ING_RING_WP_LO i, Reg.ING_RING_WP_HI i, Reg.ING_WRAP_CNT
        i] → t.rd reg = s.rd reg)) ∧
  -- ENCODER_CYCLE: the stream does not run (R60, R53, R55)
  (∀ (s : State) (i : Fin 32) (stamp : BitVec 80) (index : Word) (samples : List (List (BitVec 16))) (corrected : List
    (List (BitVec 16))), s.canonical = true → s.down = false → s.streamRuns i = false →
    ∃ t, exec (.encoderCycle i stamp index samples corrected) s = .next t ∧
      t = s ∧
      t.mem = s.mem) ∧
  -- EVENT_LOG_CLOSE (R77)
  (∀ (s : State) (i : Fin 32) (r : TapRec) (e : Nat), s.canonical = true → s.down = false → (s.stream i).events = some
    (r, e) →
    ∃ t, exec (.eventLogClose i) s = .next t ∧
      (e + 1024 ≤ s.time → (t.stream i).events = none) ∧
      (s.time < e + 1024 → t = s) ∧
      t.mem = s.mem ∧
      t.sent = s.sent ∧
      (∀ reg : Nat, reg ∉ [Reg.ING_GAP_CNT i, Reg.ING_RING_WP_LO i, Reg.ING_RING_WP_HI i, Reg.ING_WRAP_CNT i] → t.rd reg
        = s.rd reg)) ∧
  -- EVENT_LOG_CLOSE: no event record is in progress (R77)
  (∀ (s : State) (i : Fin 32), s.canonical = true → s.down = false → (s.stream i).events = none →
    ∃ t, exec (.eventLogClose i) s = .next t ∧
      t = s ∧
      t.mem = s.mem) ∧
  -- ENCODER_BOUNDARY (R58, R74)
  (∀ (s : State) (i : Fin 32), s.canonical = true → s.down = false →
    ∃ t, exec (.encoderBoundary i) s = .next t ∧
      (t.stream i).spent + (t.stream i).defq.length = (s.stream i).defq.length ∧
      (t.stream i).spent = min ((s.stream i).defq.length) (s.fget (Reg.ING_BUDGET_CELLS i)) ∧
      (t.rd (Reg.ING_DEFER_CNT i)).toNat = satCount 32 (s.rd (Reg.ING_DEFER_CNT i)).toNat ((s.stream i).defq.length -
        s.fget (Reg.ING_BUDGET_CELLS i)) ∧
      t.fbit (Reg.ING_STATUS_ABSENT i) = (s.fbit (Reg.ING_STATUS_ABSENT i) && !((s.stream i).returning && s.fbit
        (Reg.ING_CTL_EN i))) ∧
      t.mem = s.mem ∧
      (∀ reg : Nat, reg ∉ [Reg.ING_DEFER_CNT i, Reg.ING_STATUS i] ++ each 26 Reg.FLT_SRC_STAT → t.rd reg = s.rd reg)) ∧
  -- TAP_RECORD_ACK (R261)
  (∀ (s : State) (i : Fin 32) (r : TapRec) (rest : List TapRec) (k x : Nat), s.canonical = true → s.down = false →
    (s.stream i).queue = r :: rest → r.addr + 256 ≤ 2 ^ 40 → r.addr % 64 = 0 → r.body.length ≤ 240 → s.allowsBytes
    (.ingest (i / 8)) 1 ((List.range 256).map fun k => (r.addr + k, 0)) = true → s.served r.addr = 0 → s.bad = [] →
    (kvUnits.any fun x => s.fbit (Reg.ING_KV_CFG_EN x.1 x.2)) = false →
    ∃ t, exec (.tapRecordAck i) s = .next t ∧
      (t.stream i).queue = rest ∧
      (t.stream i).acked = (if r.kind = 0 then r.ends else (s.stream i).acked) ∧
      (t.stream i).windows = (s.stream i).windows.filter (fun w => decide (r.kind ≠ 3) && (decide (r.kind ≠ 0) || decide
        (r.ends ≤ w * 65536))) ∧
      t.sent.length = s.sent.length + ((s.stream i).windows.length - (t.stream i).windows.length) ∧
      (k < r.body.length → t.mget (r.addr + 16 + k) = r.body.getD k 0) ∧
      (x < r.addr ∨ r.addr + 256 ≤ x → t.mget x = s.mget x) ∧
      (∀ reg : Nat, reg ∉ memorySide → t.rd reg = s.rd reg)) ∧
  -- TAP_RECORD_ACK: no record waits (R261)
  (∀ (s : State) (i : Fin 32), s.canonical = true → s.down = false → (s.stream i).queue = [] →
    ∃ t, exec (.tapRecordAck i) s = .next t ∧
      t = s) ∧
  -- TAP_RECORD_ACK: whatever its write meets: the record leaves, or waits while its channel retrains (R261)
  (∀ (s : State) (i : Fin 32) (r : TapRec) (rest : List TapRec), s.canonical = true → s.down = false → (s.stream i).queue
    = r :: rest →
    ∃ t, exec (.tapRecordAck i) s = .next t ∧
      ((t.stream i).queue = rest ∨ (t.stream i).queue = r :: rest) ∧
      (∀ x : Nat, (∀ k : Fin 256, x ≠ unalias (localPart (r.addr + k))) → t.mget x = s.mget x) ∧
      (∀ reg : Nat, reg ∉ memorySide → t.rd reg = s.rd reg))

/-- Neuron cores: enable, initialisation and arriving events complete. A core enabled, initialised and disabled; an EV cell
accepted into wheel or input; an arrival taken in. (03_neuron_cores.md, 04_events_and_time_steps.md.) -/
def Obligations.NeuronCoreEventCommandsComplete : Prop :=
  -- CORE_ENABLE (R97)
  (∀ (s : State) (m : Master) (n : Fin 1024), s.canonical = true → s.admits m (Reg.NC_CTL n) = true → s.coreAbsent n =
    false → s.fbit (Reg.NC_CTL_EN n) = false →
    ∃ t, exec (.coreEnable m n) s = .next t ∧
      (¬ (s.recvState n = 1 ∨ s.recvState n = 3 ∨ s.recvState n = 4) → t.fbit (Reg.NC_CTL_EN n) = true ∧ t.fbit
        (Reg.NC_STATUS_INIT n) = true ∧ t.fbit (Reg.NC_PL_STATUS_CLEAR n) = (s.fbit (Reg.NC_PL_STATUS_CLEAR n) || s.fbit
        (Reg.NC_PL_CTL_PL_EN n))) ∧
      (s.recvState n = 2 → t.recvState n = 0) ∧
      (s.recvState n = 1 ∨ s.recvState n = 3 ∨ s.recvState n = 4 → t.fbit (Reg.NC_STATUS_CFG_IGNORED n) = true ∧ t.fbit
        (Reg.NC_CTL_EN n) = false ∧ t.recvState n = s.recvState n) ∧
      t.mem = s.mem ∧
      t.sent = s.sent ∧
      (∀ reg : Nat, reg ∉ [Reg.NC_CTL n, Reg.NC_STATUS n, Reg.NC_PL_STATUS n, Reg.NC_PL_EPOCH n] ++ each 1152
        Reg.BRX_STATUS ++ each 1152 Reg.BRX_MISS ++ accessRegs (Reg.NC_CTL n) → t.rd reg = s.rd reg)) ∧
  -- CORE_ENABLE: the core is absent or already enabled (R97)
  (∀ (s : State) (m : Master) (n : Fin 1024), s.canonical = true → s.admits m (Reg.NC_CTL n) = true → s.coreAbsent n =
    true ∨ s.fbit (Reg.NC_CTL_EN n) = true →
    ∃ t, exec (.coreEnable m n) s = .next t ∧
      t.cores = s.cores ∧
      t.mem = s.mem ∧
      t.sent = s.sent ∧
      (∀ reg : Nat, reg ∉ accessRegs (Reg.NC_CTL n) → t.rd reg = s.rd reg)) ∧
  -- INIT_PASS_END (R97)
  (∀ (s : State) (n : Fin 1024), s.canonical = true → s.down = false → s.fbit (Reg.NC_STATUS_INIT n) = true →
    ∃ t, exec (.initPassEnd n) s = .next t ∧
      t.fbit (Reg.NC_STATUS_INIT n) = false ∧
      (t.core n).input = [] ∧
      (t.rd (Reg.NC_EVT_CNT n)).toNat = satCount 32 (s.rd (Reg.NC_EVT_CNT n)).toNat (s.core n).input.length ∧
      t.fbit (Reg.NC_CTL_EN n) = s.fbit (Reg.NC_CTL_EN n) ∧
      t.rd (Reg.NC_STEP n) = s.rd (Reg.NC_STEP n) ∧
      (∀ x : Nat, x < winAddr n 0 ∨ winAddr n 0x200000 ≤ x → t.mget x = s.mget x) ∧
      (∀ x : Nat, x < winAddr n 0 ∨ winAddr n 0x200000 ≤ x → t.mget x = s.mget x) ∧
      (∀ reg : Nat, reg ∉ [Reg.NC_CE_CNT n, Reg.NC_EMIT_STATUS n, Reg.NC_EVERR_CNT n, Reg.NC_EVT_CNT n,
        Reg.NC_PL_CSKIP_CNT n, Reg.NC_PL_DROP_CNT n, Reg.NC_PL_DSAT_CNT n, Reg.NC_PL_STATUS n, Reg.NC_PL_UPD_CNT n,
        Reg.NC_ROW_ERR_CNT n, Reg.NC_SOP_CNT n, Reg.NC_STATUS n, Reg.NC_UE_ADDR n, Reg.NC_UE_CNT n, Reg.NC_VSAT_CNT n] →
        t.rd reg = s.rd reg)) ∧
  -- INIT_PASS_END: no initialising pass runs (R97)
  (∀ (s : State) (n : Fin 1024), s.canonical = true → s.down = false → s.fbit (Reg.NC_STATUS_INIT n) = false →
    ∃ t, exec (.initPassEnd n) s = .next t ∧
      t = s) ∧
  -- CORE_DISABLE (R600)
  (∀ (s : State) (m : Master) (n : Fin 1024), s.canonical = true → s.admits m (Reg.NC_CTL n) = true → s.fbit
    (Reg.NC_CTL_EN n) = true →
    ∃ t, exec (.coreDisable m n) s = .next t ∧
      t.fbit (Reg.NC_CTL_EN n) = false ∧
      t.fbit (Reg.NC_STATUS_INIT n) = false ∧
      (t.core n).input = [] ∧
      (t.core n).defq = [] ∧
      (t.core n).opens = [] ∧
      (t.core n).scan = none ∧
      (t.core n).mesh = [] ∧
      ((s.core n).mesh = [] → (t.rd (Reg.NC_EVERR_CNT n)).toNat = satCount 32 (s.rd (Reg.NC_EVERR_CNT n)).toNat (s.core
        n).input.length ∧ (t.core n).wheel = (s.core n).wheel) ∧
      t.fbit (Reg.NC_PL_STATUS_COMMIT n) = false ∧
      (t.rd (Reg.NC_FIRE_CNT n)) = s.rd (Reg.NC_FIRE_CNT n) ∧
      t.mem = s.mem ∧
      t.sent = s.sent ∧
      (∀ reg : Nat, reg ∉ [Reg.NC_CTL n, Reg.NC_EVERR_CNT n, Reg.NC_EMIT_STATUS n, Reg.NC_LATE_CNT n, Reg.NC_PL_STATUS n,
        Reg.NC_RX_CELL_CNT n, Reg.NC_STATUS n, Reg.NC_WHEEL_FULL_CNT n] ++ accessRegs (Reg.NC_CTL n) → t.rd reg = s.rd
        reg)) ∧
  -- CORE_DISABLE: the core is not enabled (R600)
  (∀ (s : State) (m : Master) (n : Fin 1024), s.canonical = true → s.admits m (Reg.NC_CTL n) = true → s.fbit
    (Reg.NC_CTL_EN n) = false →
    ∃ t, exec (.coreDisable m n) s = .next t ∧
      t.cores = s.cores ∧
      t.mem = s.mem ∧
      t.sent = s.sent ∧
      (∀ reg : Nat, reg ∉ accessRegs (Reg.NC_CTL n) → t.rd reg = s.rd reg)) ∧
  -- EV_CELL_ACCEPT (R131, R140, R142, R309)
  (∀ (s : State) (n : Fin 1024) (imm : Bool) (ep : Bool) (events : List Word) (link : Option (Fin 12)), s.canonical =
    true → s.down = false → 0 < events.length → events.length ≤ 10 → s.coreAbsent n = false → (s.core n).mesh = [] →
    s.evRoom n ⟨imm, ep, events, link.map Fin.val⟩ = true →
    ∃ t, exec (.evCellAccept n imm ep events link) s = .next t ∧
      (t.rd (Reg.NC_RX_CELL_CNT n)).toNat = satCount 32 (s.rd (Reg.NC_RX_CELL_CNT n)).toNat 1 ∧
      (s.fbit (Reg.NC_CTL_EN n) = true ∨ s.fbit (Reg.NC_STATUS_INIT n) = true → (t.core n).wheel.length + (t.core
        n).input.length = (s.core n).wheel.length + (s.core n).input.length + events.length) ∧
      (s.fbit (Reg.NC_CTL_EN n) = false → s.fbit (Reg.NC_STATUS_INIT n) = false → (t.rd (Reg.NC_EVERR_CNT n)).toNat =
        satCount 32 (s.rd (Reg.NC_EVERR_CNT n)).toNat events.length ∧ (t.core n).input = (s.core n).input) ∧
      (t.core n).mesh = [] ∧
      t.tb.cnt1 = s.tb.cnt1 - (if imm = false ∧ ep = true then 1 else 0) ∧ t.tb.cnt0 = s.tb.cnt0 - (if imm = false ∧ ep =
        false then 1 else 0) ∧
      t.mem = s.mem ∧
      t.sent = s.sent ∧
      (∀ reg : Nat, reg ∉ [Reg.NC_EMIT_STATUS n, Reg.NC_LATE_CNT n, Reg.NC_RX_CELL_CNT n, Reg.NC_STATUS n,
        Reg.NC_EVERR_CNT n, Reg.NC_WHEEL_FULL_CNT n, Reg.MESH_BAD_DST_CNT, Reg.MESH_TYPE_ERR_CNT] → t.rd reg = s.rd reg)) ∧
  -- EV_CELL_ACCEPT: too few places in the wheel: the cell stays on the mesh (R131, R140, R142, R309)
  (∀ (s : State) (n : Fin 1024) (imm : Bool) (ep : Bool) (events : List Word) (link : Option (Fin 12)), s.canonical =
    true → s.down = false → 0 < events.length → events.length ≤ 10 → s.coreAbsent n = false → (s.core n).mesh ≠ [] ∨
    s.evRoom n ⟨imm, ep, events, link.map Fin.val⟩ = false →
    ∃ t, exec (.evCellAccept n imm ep events link) s = .next t ∧
      (t.core n).mesh = (s.core n).mesh ++ [⟨imm, ep, events, link.map Fin.val⟩] ∧
      (t.rd (Reg.NC_WHEEL_FULL_CNT n)).toNat = satCount 32 (s.rd (Reg.NC_WHEEL_FULL_CNT n)).toNat (if (s.core n).mesh =
        [] then 1 else 0) ∧
      t.tb = s.tb ∧
      t.mem = s.mem ∧
      t.sent = s.sent ∧
      (∀ reg : Nat, reg ∉ [Reg.NC_WHEEL_FULL_CNT n] → t.rd reg = s.rd reg)) ∧
  -- EV_CELL_ACCEPT: an absent core: the router sinks the cell (R131, R140, R142, R309)
  (∀ (s : State) (n : Fin 1024) (imm : Bool) (ep : Bool) (events : List Word) (link : Option (Fin 12)), s.canonical =
    true → s.down = false → 0 < events.length → events.length ≤ 10 → s.coreAbsent n = true →
    ∃ t, exec (.evCellAccept n imm ep events link) s = .next t ∧
      (t.rd Reg.MESH_BAD_DST_CNT).toNat = satCount 32 (s.rd Reg.MESH_BAD_DST_CNT).toNat 1 ∧
      t.cores = s.cores ∧
      t.tb.cnt1 = s.tb.cnt1 - (if imm = false ∧ ep = true then 1 else 0) ∧ t.tb.cnt0 = s.tb.cnt0 - (if imm = false ∧ ep =
        false then 1 else 0) ∧
      t.mem = s.mem ∧
      t.sent = s.sent ∧
      (∀ reg : Nat, reg ∉ [Reg.MESH_BAD_DST_CNT] → t.rd reg = s.rd reg)) ∧
  -- EV_CELL_ACCEPT: not one to ten events (R131, R140, R142, R309)
  (∀ (s : State) (n : Fin 1024) (imm : Bool) (ep : Bool) (events : List Word) (link : Option (Fin 12)), s.canonical =
    true → s.down = false → events = [] ∨ 10 < events.length →
    ∃ t, exec (.evCellAccept n imm ep events link) s = .next t ∧
      (t.rd Reg.MESH_TYPE_ERR_CNT).toNat = satCount 32 (s.rd Reg.MESH_TYPE_ERR_CNT).toNat 1 ∧
      t.cores = s.cores ∧
      t.tb = s.tb ∧
      t.mem = s.mem ∧
      t.sent = s.sent ∧
      (∀ reg : Nat, reg ∉ [Reg.MESH_TYPE_ERR_CNT] → t.rd reg = s.rd reg)) ∧
  -- ARRIVAL (R106)
  (∀ (s : State) (n : Fin 1024) (errs : List (BitVec 21 × Bool)) (w : Word) (rest : List Word), s.canonical = true →
    s.down = false → s.ncRuns n = true → s.ncHeld n = false → (s.core n).input = w :: rest →
    ∃ t, exec (.arrival n errs) s = .next t ∧
      (t.core n).input = rest ∧
      (t.rd (Reg.NC_EVT_CNT n)).toNat = satCount 32 (s.rd (Reg.NC_EVT_CNT n)).toNat 1 ∧
      (s.fget (Reg.NC_CTL_AXON_LIMIT n) ≤ wordGet w 15 0 → (t.rd (Reg.NC_EVERR_CNT n)).toNat = satCount 32 (s.rd
        (Reg.NC_EVERR_CNT n)).toNat 1 ∧ t.mem = s.mem) ∧
      (errs = [] → wordGet w 15 0 < s.fget (Reg.NC_CTL_AXON_LIMIT n) → s.isBad (winAddr n (0x40000 + 4 * wordGet w 15 0))
        = false → bit (s.mnat (winAddr n (0x40000 + 4 * wordGet w 15 0)) 4) 31 = false ∨ wordGet w 23 16 = 0 → (t.rd
        (Reg.NC_EVERR_CNT n)).toNat = satCount 32 (s.rd (Reg.NC_EVERR_CNT n)).toNat 1 ∧ t.mem = s.mem) ∧
      (∀ x : Nat, x < winAddr n 0 ∨ winAddr n 0x200000 ≤ x → t.mget x = s.mget x) ∧
      t.sent = s.sent ∧
      (∀ x : Nat, x < winAddr n 0 ∨ winAddr n 0x200000 ≤ x → t.mget x = s.mget x) ∧
      (∀ reg : Nat, reg ∉ [Reg.NC_CE_CNT n, Reg.NC_EMIT_STATUS n, Reg.NC_EVERR_CNT n, Reg.NC_EVT_CNT n,
        Reg.NC_PL_CSKIP_CNT n, Reg.NC_PL_DROP_CNT n, Reg.NC_PL_DSAT_CNT n, Reg.NC_PL_STATUS n, Reg.NC_PL_UPD_CNT n,
        Reg.NC_ROW_ERR_CNT n, Reg.NC_SOP_CNT n, Reg.NC_STATUS n, Reg.NC_UE_ADDR n, Reg.NC_UE_CNT n, Reg.NC_VSAT_CNT n] →
        t.rd reg = s.rd reg)) ∧
  -- ARRIVAL: the core does not run, its scan is held, or no event waits (R106)
  (∀ (s : State) (n : Fin 1024) (errs : List (BitVec 21 × Bool)), s.canonical = true → s.down = false → s.ncRuns n =
    false ∨ s.ncHeld n = true ∨ (s.core n).input = [] →
    ∃ t, exec (.arrival n errs) s = .next t ∧
      t = s)

/-- Neuron cores: the step and plasticity complete. The step token at a core, the end of the plasticity clear and one row of
a weight commit. (03_neuron_cores.md, 04_events_and_time_steps.md, 05_plasticity.md.) -/
def Obligations.NeuronCoreStepCommandsComplete : Prop :=
  -- STEP_TOKEN (R112)
  (∀ (s : State) (n : Fin 1024) (errs : List (BitVec 21 × Bool)) (scrub : List (BitVec 21 × Bool)), s.canonical = true →
    s.down = false → s.coreAbsent n = false → s.nextToken n < s.tb.nextU →
    ∃ t, exec (.stepToken n errs scrub) s = .next t ∧
      ((∀ x ∈ s.chr.shadow, x.1 ≠ n.val) → t.rd (Reg.NC_STEP n) = BitVec.ofNat 32 (s.nextToken n) ∧ t.fbit (Reg.NC_CTL_EN
        n) = s.fbit (Reg.NC_CTL_EN n) ∧ (s.fbit (Reg.NC_CTL_EN n) = true → (0, n.val, s.nextToken n) ∈ t.tb.ends) ∧
        (s.fbit (Reg.NC_CTL_EN n) = false → s.fbit (Reg.NC_STATUS_INIT n) = false → (s.core n).mesh = [] → (t.core
        n).input = (s.core n).input)) ∧
      (t.core n).tok = s.nextToken n + 1 ∧
      (t.core n).run = s.tb.run ∧
      t.tb.nextU = s.tb.nextU ∧
      ((s.core n).mesh = [] → ∀ y ∈ (t.core n).wheel, y.1 ≠ s.nextToken n % 64) ∧
      (∀ x : Nat, x < winAddr n 0 ∨ winAddr n 0x200000 ≤ x → t.mget x = s.mget x) ∧
      (∀ reg : Nat, reg ∉ [Reg.NC_CE_CNT n, Reg.NC_EMIT_STATUS n, Reg.NC_EVERR_CNT n, Reg.NC_EVT_CNT n,
        Reg.NC_PL_CSKIP_CNT n, Reg.NC_PL_DROP_CNT n, Reg.NC_PL_DSAT_CNT n, Reg.NC_PL_STATUS n, Reg.NC_PL_UPD_CNT n,
        Reg.NC_ROW_ERR_CNT n, Reg.NC_SOP_CNT n, Reg.NC_STATUS n, Reg.NC_UE_ADDR n, Reg.NC_UE_CNT n, Reg.NC_VSAT_CNT n,
        Reg.NC_CARRY_CNT n, Reg.NC_CLIP_CNT n, Reg.NC_DEFER_CNT n, Reg.NC_FIRE_CNT n, Reg.NC_LAST n, Reg.NC_LATE_CNT n,
        Reg.NC_PL_EPOCH n, Reg.NC_PL_LAST n, Reg.NC_RX_CELL_CNT n, Reg.NC_STEP n, Reg.NC_SWEEP n, Reg.NC_TX_CELL_CNT n,
        Reg.NC_WHEEL_FULL_CNT n, Reg.NC_CTL n, Reg.MESH_NOROUTE_CNT] ++ each 16 Reg.IBL_DROP_CNT ++ each 1024
        Reg.NC_EMIT_STATUS ++ each 1024 Reg.NC_EVERR_CNT ++ each 1024 Reg.NC_LATE_CNT ++ each 1024 Reg.NC_RX_CELL_CNT ++
        each 1024 Reg.NC_STATUS ++ each 1024 Reg.NC_WHEEL_FULL_CNT → t.rd reg = s.rd reg)) ∧
  -- STEP_TOKEN: the core is absent, or no boundary has been issued for it (R112)
  (∀ (s : State) (n : Fin 1024) (errs : List (BitVec 21 × Bool)) (scrub : List (BitVec 21 × Bool)), s.canonical = true →
    s.down = false → s.coreAbsent n = true ∨ s.tb.nextU ≤ s.nextToken n →
    ∃ t, exec (.stepToken n errs scrub) s = .next t ∧
      t = s) ∧
  -- PLASTICITY_CLEAR_END (R181)
  (∀ (s : State) (n : Fin 1024) (k : Fin 16384) (d : Fin 512), s.canonical = true → s.down = false → s.fbit
    (Reg.NC_PL_STATUS_CLEAR n) = true →
    ∃ t, exec (.plasticityClearEnd n) s = .next t ∧
      t.rd (Reg.NC_PL_STATUS n) = 0 ∧
      (t.core n).plPhase = (if (s.core n).plOn then 2 else 0) ∧
      t.mnat (winAddr n (0x170000 + 4 * k)) 4 = 0 ∧
      t.mnat (winAddr n (dirOffset d)) 4 = 0 ∧
      (∀ x : Nat, x < winAddr n 0 ∨ winAddr n 0x200000 ≤ x → t.mget x = s.mget x) ∧
      t.sent = s.sent ∧
      (∀ x : Nat, x < winAddr n 0 ∨ winAddr n 0x200000 ≤ x → t.mget x = s.mget x) ∧
      (∀ reg : Nat, reg ∉ [Reg.NC_PL_STATUS n] → t.rd reg = s.rd reg)) ∧
  -- PLASTICITY_CLEAR_END: no clear runs (R181)
  (∀ (s : State) (n : Fin 1024), s.canonical = true → s.down = false → s.fbit (Reg.NC_PL_STATUS_CLEAR n) = false →
    ∃ t, exec (.plasticityClearEnd n) s = .next t ∧
      t = s) ∧
  -- COMMIT_ROW (R178)
  (∀ (s : State) (n : Fin 1024) (errs : List (BitVec 21 × Bool)) (k base i : Nat) (rest : List (Nat × Nat × Nat)),
    s.canonical = true → s.down = false → (s.core n).plPhase = 4 → errs = [] → validDirs (s.directory n).2 = (k, base, i)
    :: rest →
    ∃ t, exec (.commitRow n errs) s = .next t ∧
      bit (t.mnat (winAddr n (dirOffset k)) 4) 31 = false ∧
      (rest = [] → (t.core n).plPhase = 5 ∧ (t.rd (Reg.NC_PL_EPOCH n)).toNat = satCount 32 (s.rd (Reg.NC_PL_EPOCH
        n)).toNat 1 ∧ t.fbit (Reg.NC_PL_STATUS_COMMIT n) = false ∧ t.rd (Reg.NC_PL_LAST n) = BitVec.ofNat 32 (min 65535
        (s.core n).plSteps * 65536 + ((s.core n).plRows + 1))) ∧
      (rest ≠ [] → (t.core n).plPhase = 4 ∧ (t.core n).plRows = (s.core n).plRows + 1 ∧ t.rd (Reg.NC_PL_EPOCH n) = s.rd
        (Reg.NC_PL_EPOCH n)) ∧
      (∀ x : Nat, x < winAddr n 0 ∨ winAddr n 0x200000 ≤ x → t.mget x = s.mget x) ∧
      (∀ x : Nat, x < winAddr n 0 ∨ winAddr n 0x200000 ≤ x → t.mget x = s.mget x) ∧
      (∀ reg : Nat, reg ∉ [Reg.NC_PL_EPOCH n, Reg.NC_PL_LAST n, Reg.NC_CE_CNT n, Reg.NC_PL_CLAMP_CNT n, Reg.NC_PL_STATUS
        n, Reg.NC_STATUS n, Reg.NC_UE_ADDR n, Reg.NC_UE_CNT n] → t.rd reg = s.rd reg)) ∧
  -- COMMIT_ROW: no valid entry is left: the commit ends (R178)
  (∀ (s : State) (n : Fin 1024) (errs : List (BitVec 21 × Bool)), s.canonical = true → s.down = false → (s.core
    n).plPhase = 4 → errs = [] → validDirs (s.directory n).2 = [] →
    ∃ t, exec (.commitRow n errs) s = .next t ∧
      (t.core n).plPhase = 5 ∧
      (t.rd (Reg.NC_PL_EPOCH n)).toNat = satCount 32 (s.rd (Reg.NC_PL_EPOCH n)).toNat 1 ∧
      t.fbit (Reg.NC_PL_STATUS_COMMIT n) = false ∧
      (∀ x : Nat, x < winAddr n 0 ∨ winAddr n 0x200000 ≤ x → t.mget x = s.mget x) ∧
      (∀ reg : Nat, reg ∉ [Reg.NC_PL_EPOCH n, Reg.NC_PL_LAST n, Reg.NC_CE_CNT n, Reg.NC_PL_CLAMP_CNT n, Reg.NC_PL_STATUS
        n, Reg.NC_STATUS n, Reg.NC_UE_ADDR n, Reg.NC_UE_CNT n] → t.rd reg = s.rd reg)) ∧
  -- COMMIT_ROW: no commit runs (R178)
  (∀ (s : State) (n : Fin 1024) (errs : List (BitVec 21 × Bool)), s.canonical = true → s.down = false → (s.core
    n).plPhase ≠ 4 →
    ∃ t, exec (.commitRow n errs) s = .next t ∧
      t = s)

/-- The step generator completes. Starting and stopping the step generator, the nominal instant of a boundary, its release
by the last emission and the stretch limit. (04_events_and_time_steps.md.) -/
def Obligations.StepGeneratorCommandsComplete : Prop :=
  -- STEP_GENERATOR_ENABLE (R136, R154, R161)
  (∀ (s : State) (m : Master), s.canonical = true → s.admits m Reg.TB_STEP_CTL = true →
    ∃ t, exec (.stepGeneratorEnable m) s = .next t ∧
      (s.stepOn = false → (admission s s (!s.stepOn)).code = 0 → t.stepOn = true ∧ t.tb.nextU = s.firstBoundary ∧
        t.tb.done = s.firstBoundary ∧ t.tb.run = s.tb.run + 1 ∧ t.tb.ends = []) ∧
      (s.stepOn = false → (admission s s (!s.stepOn)).code ≠ 0 → t.stepOn = false ∧ t.tb = s.tb) ∧
      (s.stepOn = true → t.stepOn = true ∧ t.tb = s.tb) ∧
      wordGet (t.rd Reg.TB_ADM_STATUS) 31 24 = (admission s s (!s.stepOn)).code ∧
      t.mem = s.mem ∧
      t.sent = s.sent ∧
      (∀ reg : Nat, reg ∉ [Reg.TB_STEP_CTL, Reg.TB_ADM_BOUND, Reg.TB_ADM_STATUS] ++ accessRegs Reg.TB_STEP_CTL → t.rd reg
        = s.rd reg)) ∧
  -- STEP_GENERATOR_STOP (R161)
  (∀ (s : State) (m : Master), s.canonical = true → s.admits m Reg.TB_STEP_CTL = true → s.stepOn = true →
    ∃ t, exec (.stepGeneratorStop m) s = .next t ∧
      t.stepOn = false ∧
      t.tb.waitingB = false ∧
      t.tb.heldB = false ∧
      t.tb.nextU = s.tb.nextU ∧
      t.rd Reg.TB_STEP_CNT = s.rd Reg.TB_STEP_CNT ∧
      (s.chrState = 5 → s.fbit Reg.CHR_WHEN_MODE = false → t.chrState = 4 ∧ t.fget Reg.CHR_FAIL_CODE = 0x0A) ∧
      t.mem = s.mem ∧
      (∀ reg : Nat, reg ∉ [Reg.TB_STEP_CTL, Reg.INST_CAP, Reg.INST_SUB_REQ] ++ each 26 Reg.FLT_SRC_STAT ++ each 32
        Reg.ING_STATUS ++ each 32 Reg.INST_NROW ++ each 8 Reg.INST_TROW ++ accessRegs Reg.TB_STEP_CTL → t.rd reg = s.rd
        reg)) ∧
  -- STEP_GENERATOR_STOP: the generator is off (R161)
  (∀ (s : State) (m : Master), s.canonical = true → s.admits m Reg.TB_STEP_CTL = true → s.stepOn = false →
    ∃ t, exec (.stepGeneratorStop m) s = .next t ∧
      t.tb = s.tb ∧
      t.mem = s.mem ∧
      t.sent = s.sent ∧
      (∀ reg : Nat, reg ∉ accessRegs Reg.TB_STEP_CTL → t.rd reg = s.rd reg)) ∧
  -- STEP_NOMINAL_INSTANT (R148)
  (∀ (s : State), s.canonical = true → s.down = false → s.stepOn = true → s.tb.waitingB = false → s.stepNominal
    s.tb.nextU ≤ s.now →
    ∃ t, exec .stepNominalInstant s = .next t ∧
      (s.settled.tb.done + 1 < s.tb.nextU → t.tb.nextU = s.tb.nextU ∧ t.tb.waitingB = true ∧ t.tb.heldB = true ∧ (t.rd
        Reg.TB_HOLD_CNT).toNat = satCount 32 (s.rd Reg.TB_HOLD_CNT).toNat (if s.tb.heldB then 0 else 1)) ∧
      (s.tb.nextU ≤ s.settled.tb.done → t.tb.nextU = s.settled.tb.nextU + 1 ∧ t.rd Reg.TB_STEP_CNT = BitVec.ofNat 32
        s.settled.tb.nextU ∧ .token s.settled.tb.nextU ∈ t.sent ∧ t.tb.waitingB = false ∧ t.tb.deferrals = 0) ∧
      (s.settled.tb.done + 1 = s.tb.nextU → s.stepNominal s.tb.nextU + s.stretchNs ≤ s.now → t.tb.nextU =
        s.settled.tb.nextU + 1 ∧ t.rd Reg.TB_STEP_CNT = BitVec.ofNat 32 s.settled.tb.nextU ∧ .token s.settled.tb.nextU ∈
        t.sent ∧ t.tb.waitingB = false ∧ t.tb.deferrals = 0 ∧ (t.rd Reg.TB_LATE_STEP_CNT).toNat = satCount 32 (s.rd
        Reg.TB_LATE_STEP_CNT).toNat (if s.tb.heldB then 0 else 1) ∧ (s.tb.heldB = false → .fault 9 9 0 0 ∈ t.sent)) ∧
      (s.settled.tb.done + 1 = s.tb.nextU → s.now < s.stepNominal s.tb.nextU + s.stretchNs → t.tb.nextU = s.tb.nextU ∧
        t.tb.waitingB = true ∧ t.sent = s.sent ∧ t.rd Reg.TB_STEP_CNT = s.rd Reg.TB_STEP_CNT) ∧
      t.stepOn = true ∧
      ((∀ i : Fin 32, s.fbit (Reg.ING_BR_CTL_EN i) = false) → s.aon.subPend = none → t.mem = s.mem) ∧
      (∀ reg : Nat, reg ∉ [Reg.TB_STEP_CNT, Reg.TB_STRETCH_PEAK, Reg.TB_STRETCH_CNT, Reg.TB_LATE_STEP_CNT,
        Reg.TB_HOLD_CNT, Reg.TB_DEFER_STEP_CNT, Reg.INST_CAP, Reg.INST_SUB_REQ, Reg.MESH_STATUS, Reg.CHR_FAIL,
        Reg.CHR_FAIL_CNT, Reg.CHR_STALE_ADDR, Reg.CHR_STATUS, Reg.TB_ADM_BOUND, Reg.TB_ADM_STATUS] ++ each 32
        Reg.ING_BR_FRAME ++ each 32 Reg.INST_NROW ++ each 8 Reg.INST_TROW ++ each 16 Reg.MESH_XROUTE ++ memorySide → t.rd
        reg = s.rd reg)) ∧
  -- STEP_NOMINAL_INSTANT: the generator is off, the boundary waits already, or its nominal instant has not come (R148)
  (∀ (s : State), s.canonical = true → s.down = false → s.stepOn = false ∨ s.tb.waitingB = true ∨ s.now < s.stepNominal
    s.tb.nextU →
    ∃ t, exec .stepNominalInstant s = .next t ∧
      t = s) ∧
  -- EMISSION_STEP_COMPLETE (R139, R148, R149)
  (∀ (s : State), s.canonical = true → s.down = false → s.stepOn = true → s.tb.waitingB = true →
    ∃ t, exec .emissionStepComplete s = .next t ∧
      (s.settled.tb.done + 1 < s.tb.nextU → t.tb.nextU = s.tb.nextU ∧ t.tb.waitingB = true ∧ t.tb.heldB = true ∧ (t.rd
        Reg.TB_HOLD_CNT).toNat = satCount 32 (s.rd Reg.TB_HOLD_CNT).toNat (if s.tb.heldB then 0 else 1)) ∧
      (s.tb.nextU ≤ s.settled.tb.done → t.tb.nextU = s.settled.tb.nextU + 1 ∧ t.rd Reg.TB_STEP_CNT = BitVec.ofNat 32
        s.settled.tb.nextU ∧ .token s.settled.tb.nextU ∈ t.sent ∧ t.tb.waitingB = false ∧ t.tb.deferrals = 0) ∧
      (s.settled.tb.done + 1 = s.tb.nextU → s.stepNominal s.tb.nextU + s.stretchNs ≤ s.now → t.tb.nextU =
        s.settled.tb.nextU + 1 ∧ t.rd Reg.TB_STEP_CNT = BitVec.ofNat 32 s.settled.tb.nextU ∧ .token s.settled.tb.nextU ∈
        t.sent ∧ t.tb.waitingB = false ∧ t.tb.deferrals = 0 ∧ (t.rd Reg.TB_LATE_STEP_CNT).toNat = satCount 32 (s.rd
        Reg.TB_LATE_STEP_CNT).toNat (if s.tb.heldB then 0 else 1) ∧ (s.tb.heldB = false → .fault 9 9 0 0 ∈ t.sent)) ∧
      (s.settled.tb.done + 1 = s.tb.nextU → s.now < s.stepNominal s.tb.nextU + s.stretchNs → t.tb.nextU = s.tb.nextU ∧
        t.tb.waitingB = true ∧ t.sent = s.sent ∧ t.rd Reg.TB_STEP_CNT = s.rd Reg.TB_STEP_CNT) ∧
      t.stepOn = true ∧
      ((∀ i : Fin 32, s.fbit (Reg.ING_BR_CTL_EN i) = false) → s.aon.subPend = none → t.mem = s.mem) ∧
      (∀ reg : Nat, reg ∉ [Reg.TB_STEP_CNT, Reg.TB_STRETCH_PEAK, Reg.TB_STRETCH_CNT, Reg.TB_LATE_STEP_CNT,
        Reg.TB_HOLD_CNT, Reg.TB_DEFER_STEP_CNT, Reg.INST_CAP, Reg.INST_SUB_REQ, Reg.MESH_STATUS, Reg.CHR_FAIL,
        Reg.CHR_FAIL_CNT, Reg.CHR_STALE_ADDR, Reg.CHR_STATUS, Reg.TB_ADM_BOUND, Reg.TB_ADM_STATUS] ++ each 32
        Reg.ING_BR_FRAME ++ each 32 Reg.INST_NROW ++ each 8 Reg.INST_TROW ++ each 16 Reg.MESH_XROUTE ++ memorySide → t.rd
        reg = s.rd reg)) ∧
  -- EMISSION_STEP_COMPLETE: no boundary waits: the emission is only taken over (R139, R148, R149)
  (∀ (s : State), s.canonical = true → s.down = false → s.stepOn = true → s.tb.waitingB = false →
    ∃ t, exec .emissionStepComplete s = .next t ∧
      (s.tb.done < s.tb.nextU → s.emissionDone s.tb.done = true → s.tb.done < t.tb.done) ∧
      (s.tb.done = s.tb.nextU ∨ s.emissionDone s.tb.done = false → t = s) ∧
      t.tb.nextU = s.tb.nextU ∧
      t.sent = s.sent ∧
      t.mem = s.mem ∧
      t.csr = s.csr) ∧
  -- EMISSION_STEP_COMPLETE: the generator is off (R139, R148, R149)
  (∀ (s : State), s.canonical = true → s.down = false → s.stepOn = false →
    ∃ t, exec .emissionStepComplete s = .next t ∧
      t = s) ∧
  -- STRETCH_LIMIT (R148)
  (∀ (s : State), s.canonical = true → s.down = false → s.stepOn = true → s.tb.waitingB = true → s.stepNominal s.tb.nextU
    + s.stretchNs ≤ s.now →
    ∃ t, exec .stretchLimit s = .next t ∧
      (s.settled.tb.done + 1 < s.tb.nextU → t.tb.nextU = s.tb.nextU ∧ t.tb.waitingB = true ∧ t.tb.heldB = true ∧ (t.rd
        Reg.TB_HOLD_CNT).toNat = satCount 32 (s.rd Reg.TB_HOLD_CNT).toNat (if s.tb.heldB then 0 else 1)) ∧
      (s.tb.nextU ≤ s.settled.tb.done → t.tb.nextU = s.settled.tb.nextU + 1 ∧ t.rd Reg.TB_STEP_CNT = BitVec.ofNat 32
        s.settled.tb.nextU ∧ .token s.settled.tb.nextU ∈ t.sent ∧ t.tb.waitingB = false ∧ t.tb.deferrals = 0) ∧
      (s.settled.tb.done + 1 = s.tb.nextU → s.stepNominal s.tb.nextU + s.stretchNs ≤ s.now → t.tb.nextU =
        s.settled.tb.nextU + 1 ∧ t.rd Reg.TB_STEP_CNT = BitVec.ofNat 32 s.settled.tb.nextU ∧ .token s.settled.tb.nextU ∈
        t.sent ∧ t.tb.waitingB = false ∧ t.tb.deferrals = 0 ∧ (t.rd Reg.TB_LATE_STEP_CNT).toNat = satCount 32 (s.rd
        Reg.TB_LATE_STEP_CNT).toNat (if s.tb.heldB then 0 else 1) ∧ (s.tb.heldB = false → .fault 9 9 0 0 ∈ t.sent)) ∧
      (s.settled.tb.done + 1 = s.tb.nextU → s.now < s.stepNominal s.tb.nextU + s.stretchNs → t.tb.nextU = s.tb.nextU ∧
        t.tb.waitingB = true ∧ t.sent = s.sent ∧ t.rd Reg.TB_STEP_CNT = s.rd Reg.TB_STEP_CNT) ∧
      t.stepOn = true ∧
      ((∀ i : Fin 32, s.fbit (Reg.ING_BR_CTL_EN i) = false) → s.aon.subPend = none → t.mem = s.mem) ∧
      (∀ reg : Nat, reg ∉ [Reg.TB_STEP_CNT, Reg.TB_STRETCH_PEAK, Reg.TB_STRETCH_CNT, Reg.TB_LATE_STEP_CNT,
        Reg.TB_HOLD_CNT, Reg.TB_DEFER_STEP_CNT, Reg.INST_CAP, Reg.INST_SUB_REQ, Reg.MESH_STATUS, Reg.CHR_FAIL,
        Reg.CHR_FAIL_CNT, Reg.CHR_STALE_ADDR, Reg.CHR_STATUS, Reg.TB_ADM_BOUND, Reg.TB_ADM_STATUS] ++ each 32
        Reg.ING_BR_FRAME ++ each 32 Reg.INST_NROW ++ each 8 Reg.INST_TROW ++ each 16 Reg.MESH_XROUTE ++ memorySide → t.rd
        reg = s.rd reg)) ∧
  -- STRETCH_LIMIT: the generator is off, no boundary waits, or S has not passed (R148)
  (∀ (s : State), s.canonical = true → s.down = false → s.stepOn = false ∨ s.tb.waitingB = false ∨ s.now < s.stepNominal
    s.tb.nextU + s.stretchNs →
    ∃ t, exec .stretchLimit s = .next t ∧
      t = s)

/-- Time base, output pins and time exchange complete. Output pins, the counter read, SYNC_ARM, slewing, and the exchange of
time stamps over a link. (13_time_base_and_triggers.md, 14_twins_and_boards.md.) -/
def Obligations.TimeBaseCommandsComplete : Prop :=
  -- PULSE_END (R434)
  (∀ (s : State) (p : Fin 16) (e : Nat), s.canonical = true → s.down = false → (s.pin p).pulseEnd = some e → e ≤ s.time →
    ∃ t, exec (.pulseEnd p) s = .next t ∧
      (s.pinSrc p = 1 → t.pinLevel p = false) ∧
      (s.pinSrc p ≠ 1 → t.pinLevel p = s.pinLevel p) ∧
      (t.pin p).pulseEnd = none ∧
      (∀ q : Fin 16, q ≠ p → t.pinLevel q = s.pinLevel q ∧ t.pin q = s.pin q) ∧
      t.mem = s.mem ∧
      t.sent = s.sent ∧
      (∀ reg : Nat, reg ∉ [Reg.TB_OUT_STATUS] → t.rd reg = s.rd reg)) ∧
  -- PULSE_END: nothing is due (R434)
  (∀ (s : State) (p : Fin 16), s.canonical = true → s.down = false → (∀ e, (s.pin p).pulseEnd = some e → s.time < e) →
    ∃ t, exec (.pulseEnd p) s = .next t ∧
      t = s ∧
      t.mem = s.mem) ∧
  -- LEVEL_RETURN (R434)
  (∀ (s : State) (p : Fin 16) (e : Nat), s.canonical = true → s.down = false → (s.pin p).lvlReturn = some e → e ≤ s.time
    →
    ∃ t, exec (.levelReturn p) s = .next t ∧
      (s.pinSrc p = 2 → t.pinLevel p = false) ∧
      (s.pinSrc p ≠ 2 → t.pinLevel p = s.pinLevel p) ∧
      (t.pin p).lvlReturn = none ∧
      (∀ q : Fin 16, q ≠ p → t.pinLevel q = s.pinLevel q ∧ t.pin q = s.pin q) ∧
      t.mem = s.mem ∧
      t.sent = s.sent ∧
      (∀ reg : Nat, reg ∉ [Reg.TB_OUT_STATUS] → t.rd reg = s.rd reg)) ∧
  -- LEVEL_RETURN: nothing is due (R434)
  (∀ (s : State) (p : Fin 16), s.canonical = true → s.down = false → (∀ e, (s.pin p).lvlReturn = some e → s.time < e) →
    ∃ t, exec (.levelReturn p) s = .next t ∧
      t = s ∧
      t.mem = s.mem) ∧
  -- GRID_EDGE (R436)
  (∀ (s : State) (p : Fin 16) (u due : Nat) (rest : List (Nat × Nat)), s.canonical = true → s.down = false → (s.pin
    p).grid = (u, due) :: rest → due ≤ s.now →
    ∃ t, exec (.gridEdge p) s = .next t ∧
      (s.pinSrc p = 1 ∧ (s.pinLevel p = true ∨ (s.pin p).seen.contains u = false) → t.pinLevel p = true ∧ (t.pin
        p).pulseEnd = some (s.time + s.pulseWidth p) ∧ (t.pin p).seen.contains u = true) ∧
      (s.pinSrc p = 2 ∧ (s.pin p).seen.contains u = false → t.pinLevel p = true ∧ (t.pin p).seen.contains u = true) ∧
      (¬ (s.pinSrc p = 1 ∧ (s.pinLevel p = true ∨ (s.pin p).seen.contains u = false)) → ¬ (s.pinSrc p = 2 ∧ (s.pin
        p).seen.contains u = false) → t.pinLevel p = s.pinLevel p ∧ (t.pin p).seen = (s.pin p).seen) ∧
      (t.rd Reg.TB_TRIG_CNT).toNat = satCount 32 (s.rd Reg.TB_TRIG_CNT).toNat (if t.pinLevel p ∧ s.pinLevel p = false
        then 1 else 0) ∧
      (t.pin p).grid = rest ∧
      (∀ q : Fin 16, q ≠ p → t.pinLevel q = s.pinLevel q ∧ t.pin q = s.pin q) ∧
      t.mem = s.mem ∧
      t.sent = s.sent ∧
      (∀ reg : Nat, reg ∉ [Reg.TB_OUT_STATUS, Reg.TB_TRIG_CNT] → t.rd reg = s.rd reg)) ∧
  -- GRID_EDGE: no grid edge is due (R436)
  (∀ (s : State) (p : Fin 16), s.canonical = true → s.down = false → (s.pin p).grid = [] ∨ ∃ x ∈ (s.pin p).grid.head?,
    s.now < x.2 →
    ∃ t, exec (.gridEdge p) s = .next t ∧
      t = s ∧
      t.mem = s.mem) ∧
  -- TB_CNT_READ (R417)
  (∀ (s : State) (m : Master), s.canonical = true → s.down = false → (m = .pcie → s.barOpen = true) → s.regReached m
    Reg.TB_CNT_LO = true →
    ∃ t, exec (.tbCntRead m) s = .next t ∧
      t.sent = .readValue (s.counter.extractLsb' 0 32).toNat :: s.sent ∧
      t.latched Reg.TB_CNT_HI = some (s.counter.extractLsb' 32 32) ∧
      t.counter = s.counter ∧
      t.mem = s.mem ∧
      t.csr = s.csr) ∧
  -- TB_CNT_READ: a master that does not reach the register reads 0 (R417)
  (∀ (s : State) (m : Master), s.canonical = true → s.down = false → (m = .pcie → s.barOpen = true) → s.regReached m
    Reg.TB_CNT_LO = false →
    ∃ t, exec (.tbCntRead m) s = .next t ∧
      t.sent = .readValue 0 :: s.sent ∧
      t.tb = s.tb ∧
      t.mem = s.mem ∧
      t.csr = s.csr) ∧
  -- TB_CNT_READ: the device does not answer BAR accesses (R417)
  (∀ (s : State) (m : Master), s.canonical = true → s.down = false → m = .pcie → s.barOpen = false →
    ∃ t, exec (.tbCntRead m) s = .next t ∧
      t.sent = .unsupported :: s.sent ∧
      t.tb = s.tb ∧
      t.mem = s.mem ∧
      t.csr = s.csr) ∧
  -- SYNC_ARM (R419)
  (∀ (s : State) (m : Master), s.canonical = true → s.admits m Reg.TB_SYNC_CFG = true →
    ∃ t, exec (.syncArm m) s = .next t ∧
      (s.stepOn = false → s.anyTimer = false → t.fbit Reg.TB_SYNC_CFG_ARM = true) ∧
      (s.stepOn = true ∨ s.anyTimer = true → t.fbit Reg.TB_SYNC_STATUS_CFG_IGNORED = true ∧ t.fbit Reg.TB_SYNC_CFG_ARM =
        s.fbit Reg.TB_SYNC_CFG_ARM) ∧
      t.tb = s.tb ∧
      t.counter = s.counter ∧
      t.mem = s.mem ∧
      t.sent = s.sent ∧
      (∀ reg : Nat, reg ∉ [Reg.TB_SYNC_CFG, Reg.TB_SYNC_STATUS] ++ accessRegs Reg.TB_SYNC_CFG → t.rd reg = s.rd reg)) ∧
  -- SYNC_SLEW (R420)
  (∀ (s : State), s.canonical = true → s.down = false → s.fget Reg.TB_SYNC_CFG_MODE = 2 → s.tb.slewAt + s.slewCounts ≤
    s.now →
    ∃ t, exec .syncSlew s = .next t ∧
      (32768 ≤ s.tb.corr → t.tb.edgeAdds = 2 ∧ t.tb.corr = s.tb.corr - 65536) ∧
      (s.tb.corr ≤ -32768 → t.tb.edgeAdds = 0 ∧ t.tb.corr = s.tb.corr + 65536) ∧
      (-32768 < s.tb.corr → s.tb.corr < 32768 → t.tb.corr = s.tb.corr ∧ t.tb.edgeAdds = s.tb.edgeAdds) ∧
      t.tb.slewAt = s.now ∧
      t.counter = s.counter ∧
      t.mem = s.mem ∧
      t.sent = s.sent ∧
      t.csr = s.csr) ∧
  -- SYNC_SLEW: MODE is not 2, or SLEW counts have not passed (R420)
  (∀ (s : State), s.canonical = true → s.down = false → s.fget Reg.TB_SYNC_CFG_MODE ≠ 2 ∨ s.now < s.tb.slewAt +
    s.slewCounts →
    ∃ t, exec .syncSlew s = .next t ∧
      t = s ∧
      t.mem = s.mem) ∧
  -- TSYNC_SEND (R323)
  (∀ (s : State) (k : Fin 12) (frac : BitVec 16), s.canonical = true → s.down = false → s.fbit (Reg.IBL_STATUS_UP k) =
    true → (s.link k).tsAt + 1024000 ≤ s.time →
    ∃ t, exec (.tsyncSend k frac) s = .next t ∧
      (t.link k).tsNo = (((s.link k).tsNo + 1) % 256) ∧
      (t.link k).tsT1 = some (s.stamp frac) ∧
      (t.link k).tsAt = s.time ∧
      t.sent = .tsync k false (((s.link k).tsNo + 1) % 256) (s.stamp frac) 0 0 :: s.sent ∧
      (t.link k).out = (s.link k).out ++ Emit.cells (.tsync k false (((s.link k).tsNo + 1) % 256) (s.stamp frac) 0 0)
        false ∧
      t.csr = s.csr ∧
      t.mem = s.mem) ∧
  -- TSYNC_SEND: the port is not in service, or sent one less than 1,024 µs ago (R323)
  (∀ (s : State) (k : Fin 12) (frac : BitVec 16), s.canonical = true → s.down = false → s.fbit (Reg.IBL_STATUS_UP k) =
    false ∨ s.time < (s.link k).tsAt + 1024000 →
    ∃ t, exec (.tsyncSend k frac) s = .next t ∧
      t = s ∧
      t.mem = s.mem) ∧
  -- TSYNC_REQUEST (R323)
  (∀ (s : State) (k : Fin 12) (no : BitVec 8) (t1 : BitVec 80) (f2 : BitVec 16) (f3 : BitVec 16), s.canonical = true →
    s.down = false → s.fbit (Reg.IBL_STATUS_UP k) = true →
    ∃ t, exec (.tsyncRequest k no t1 f2 f3) s = .next t ∧
      t.sent = .tsync k true no.toNat t1.toNat (s.stamp f2) (s.stamp f3) :: s.sent ∧
      (t.link k).out = (s.link k).out ++ Emit.cells (.tsync k true no.toNat t1.toNat (s.stamp f2) (s.stamp f3)) false ∧
      t.csr = s.csr ∧
      t.mem = s.mem) ∧
  -- TSYNC_REQUEST: the link is not UP (R323)
  (∀ (s : State) (k : Fin 12) (no : BitVec 8) (t1 : BitVec 80) (f2 : BitVec 16) (f3 : BitVec 16), s.canonical = true →
    s.down = false → s.fbit (Reg.IBL_STATUS_UP k) = false →
    ∃ t, exec (.tsyncRequest k no t1 f2 f3) s = .next t ∧
      t = s ∧
      t.mem = s.mem) ∧
  -- TSYNC_REPLY (R323, R420, R421)
  (∀ (s : State) (k : Fin 12) (no : BitVec 8) (t2 : BitVec 80) (t3 : BitVec 80) (f4 : BitVec 16) (t1 d : Nat),
    s.canonical = true → s.down = false → s.fbit (Reg.IBL_STATUS_UP k) = true → (s.link k).tsT1 = some t1 → no.toNat =
    (s.link k).tsNo → d = (max 0 (halfCeil (((s.stamp f4 : Int) - t1) - ((t3.toNat : Int) - t2.toNat)))).toNat → s.fget
    Reg.TB_SYNC_CFG_MODE ≠ 2 ∨ s.fget Reg.TB_SYNC_CFG_LINK ≠ k.val →
    ∃ t, exec (.tsyncReply k no t2 t3 f4) s = .next t ∧
      (t.link k).tsT1 = none ∧
      (d < 2 ^ 12 → t.fget (Reg.IBL_TRAV_DELAY_NS k) = d ∧ t.fget (Reg.IBL_TRAV_TRAV_NS k) = d + codewordNs (s.fget
        (Reg.IBL_STATUS_WIDTH k)) + 8) ∧
      t.tb = s.tb ∧
      t.counter = s.counter ∧
      t.mem = s.mem ∧
      t.sent = s.sent ∧
      (∀ reg : Nat, reg ∉ [Reg.IBL_TRAV k] → t.rd reg = s.rd reg)) ∧
  -- TSYNC_REPLY: the counter follows this link: the offset, a step or a correction, and LOCKED (R420, R421) (R323, R420, R421)
  (∀ (s : State) (k : Fin 12) (no : BitVec 8) (t2 : BitVec 80) (t3 : BitVec 80) (f4 : BitVec 16) (t1 d : Nat) (th : Int),
    s.canonical = true → s.down = false → s.fbit (Reg.IBL_STATUS_UP k) = true → (s.link k).tsT1 = some t1 → no.toNat =
    (s.link k).tsNo → d = (max 0 (halfCeil (((s.stamp f4 : Int) - t1) - ((t3.toNat : Int) - t2.toNat)))).toNat → s.fget
    Reg.TB_SYNC_CFG_MODE = 2 → s.fget Reg.TB_SYNC_CFG_LINK = k.val → th = (rnaHalf (((t2.toNat : Int) - t1) + ((t3.toNat
    : Int) - (s.stamp f4 : Int)))) →
    ∃ t, exec (.tsyncReply k no t2 t3 f4) s = .next t ∧
      (t.link k).tsT1 = none ∧
      (d < 2 ^ 12 → t.fget (Reg.IBL_TRAV_DELAY_NS k) = d ∧ t.fget (Reg.IBL_TRAV_TRAV_NS k) = d + codewordNs (s.fget
        (Reg.IBL_STATUS_WIDTH k)) + 8) ∧
      (t.rd Reg.TB_SYNC_OFS) = wrapInt 32 (satInt 32 th) ∧
      (65536 < th.natAbs → s.fbit Reg.TB_STEP_CTL_EN = false → ((List.range 16).any fun i => s.fbit (Reg.TMR_CTL_EN i)) =
        false → t.fbit Reg.TB_SYNC_STATUS_STEPPED = true ∧ t.tb.corr = 0 ∧ (t.rd Reg.TB_SYNC_STEP_CNT).toNat = satCount
        32 (s.rd Reg.TB_SYNC_STEP_CNT).toNat 1) ∧
      (th.natAbs ≤ 65536 ∨ s.fbit Reg.TB_STEP_CTL_EN = true ∨ ((List.range 16).any fun i => s.fbit (Reg.TMR_CTL_EN i)) =
        true → t.tb.corr = th ∧ t.counter = s.counter) ∧
      (4 * th.natAbs ≤ s.fget Reg.TB_SYNC_CFG_LIMIT * 65536 → t.tb.good = s.tb.good + 1 ∧ t.tb.bad = 0 ∧ t.rd
        Reg.TB_SYNC_BAD_CNT = s.rd Reg.TB_SYNC_BAD_CNT) ∧
      (4 * th.natAbs ≤ s.fget Reg.TB_SYNC_CFG_LIMIT * 65536 → 2 ≤ s.tb.good → t.fbit Reg.TB_SYNC_STATUS_LOCKED = true) ∧
      (¬ (4 * th.natAbs ≤ s.fget Reg.TB_SYNC_CFG_LIMIT * 65536) → t.tb.good = 0 ∧ t.tb.bad = s.tb.bad + 1 ∧ (t.rd
        Reg.TB_SYNC_BAD_CNT).toNat = satCount 32 (s.rd Reg.TB_SYNC_BAD_CNT).toNat 1) ∧
      (¬ (4 * th.natAbs ≤ s.fget Reg.TB_SYNC_CFG_LIMIT * 65536) → 2 ≤ s.tb.bad → t.fbit Reg.TB_SYNC_STATUS_LOCKED =
        false) ∧
      t.mem = s.mem ∧
      (∀ reg : Nat, reg ∉ [Reg.IBL_TRAV k, Reg.TB_SYNC_BAD_CNT, Reg.TB_SYNC_OFS, Reg.TB_SYNC_STATUS,
        Reg.TB_SYNC_STEP_CNT] → t.rd reg = s.rd reg)) ∧
  -- TSYNC_REPLY: no such exchange is open (R323, R420, R421)
  (∀ (s : State) (k : Fin 12) (no : BitVec 8) (t2 : BitVec 80) (t3 : BitVec 80) (f4 : BitVec 16), s.canonical = true →
    s.down = false → (s.link k).tsT1 = none ∨ no.toNat ≠ (s.link k).tsNo ∨ s.fbit (Reg.IBL_STATUS_UP k) = false →
    ∃ t, exec (.tsyncReply k no t2 t3 f4) s = .next t ∧
      t = s ∧
      t.mem = s.mem)

/-- The timers complete. Enabling and resetting a timer, its count, match, committed compare and period, and a capture or
count edge at its input. (13_time_base_and_triggers.md.) -/
def Obligations.TimerCommandsComplete : Prop :=
  -- TIMER_ENABLE (R424)
  (∀ (s : State) (k : Fin 16), s.canonical = true → s.down = false → s.fbit (Reg.TMR_CTL_EN k) = false →
    ∃ t, exec (.timerEnable k) s = .next t ∧
      (¬ ((s.fget (Reg.TMR_CTL_SRC k) = 1 ∨ s.fget (Reg.TMR_CTL_SRC k) = 2) ∧ s.fget (Reg.TMR_PRE_INTM1 k) = 0) → t.fbit
        (Reg.TMR_CTL_EN k) = true ∧ (t.timer k).acc = 0 ∧ (t.timer k).req = 0 ∧ (t.timer k).edges = 0 ∧ (t.timer
        k).lastTick = s.time) ∧
      ((s.fget (Reg.TMR_CTL_SRC k) = 1 ∨ s.fget (Reg.TMR_CTL_SRC k) = 2) ∧ s.fget (Reg.TMR_PRE_INTM1 k) = 0 → t.fbit
        (Reg.TMR_CTL_EN k) = false ∧ t.fbit (Reg.TMR_STATUS_CFG_IGNORED k) = true) ∧
      (t.timer k).cmp = (s.timer k).cmp ∧
      (t.timer k).per = (s.timer k).per ∧
      t.timerCount k = s.timerCount k ∧
      t.mem = s.mem ∧
      t.sent = s.sent ∧
      (∀ reg : Nat, reg ∉ [Reg.TB_OUT_STATUS, Reg.TMR_MATCH_CNT k, Reg.TMR_STATUS k, Reg.TMR_CTL k] → t.rd reg = s.rd
        reg)) ∧
  -- TIMER_ENABLE: the timer is already enabled (R424)
  (∀ (s : State) (k : Fin 16), s.canonical = true → s.down = false → s.fbit (Reg.TMR_CTL_EN k) = true →
    ∃ t, exec (.timerEnable k) s = .next t ∧
      t = s ∧
      t.mem = s.mem) ∧
  -- TIMER_RESET (R424)
  (∀ (s : State) (k : Fin 16), s.canonical = true → s.down = false →
    ∃ t, exec (.timerReset k) s = .next t ∧
      t.fbit (Reg.TMR_CTL_EN k) = false ∧
      t.timer k = Timer.init ∧
      t.timerCount k = 0 ∧
      t.rd (Reg.TMR_STATUS k) = 0 ∧
      t.rd (Reg.TMR_PRE k) = 0 ∧
      t.rd64 (Reg.TMR_CMP_LO k) = 0 ∧
      t.rd64 (Reg.TMR_PERIOD_LO k) = 0 ∧
      t.rd64 (Reg.TMR_CAP_LO k) = 0 ∧
      t.rd64 (Reg.TMR_CAPT_LO k) = 0 ∧
      t.timerLine k = false ∧
      t.sent = (if s.timerLine k then .irq 128 2 k false :: s.sent else s.sent) ∧
      t.mem = s.mem ∧
      (∀ reg : Nat, reg ∉ [Reg.TMR_CTL k, Reg.TMR_STATUS k, Reg.TMR_CAPT_HI k, Reg.TMR_CAPT_LO k, Reg.TMR_CAP_HI k,
        Reg.TMR_CAP_LO k, Reg.TMR_CMP_HI k, Reg.TMR_CMP_LO k, Reg.TMR_CNT_HI k, Reg.TMR_CNT_LO k, Reg.TMR_PERIOD_HI k,
        Reg.TMR_PERIOD_LO k, Reg.TMR_PRE k] → t.rd reg = s.rd reg)) ∧
  -- TIMER_INCREMENT (R425, R426, R424)
  (∀ (s : State) (k : Fin 16) (ticks : BitVec 16), s.canonical = true → s.down = false → s.fbit (Reg.TMR_CTL_EN k) = true
    → (s.timer k).due = none →
    ∃ t, exec (.timerIncrement k ticks) s = .next t ∧
      (t.timer k).acc = ((s.timer k).acc + 65536 * (if s.fget (Reg.TMR_CTL_SRC k) = 0 then s.time - (s.timer k).lastTick
        else if s.fget (Reg.TMR_CTL_SRC k) = 3 then 0 else if s.timerFed k then ticks.toNat else 0)) % s.timerDiv k ∧
      (t.timer k).lastTick = s.time ∧
      (((s.timer k).req + ((s.timer k).acc + 65536 * (if s.fget (Reg.TMR_CTL_SRC k) = 0 then s.time - (s.timer
        k).lastTick else if s.fget (Reg.TMR_CTL_SRC k) = 3 then 0 else if s.timerFed k then ticks.toNat else 0)) /
        s.timerDiv k) ≠ 0 ∧ (s.timer k).edge < s.time → (t.timer k).req = ((s.timer k).req + ((s.timer k).acc + 65536 *
        (if s.fget (Reg.TMR_CTL_SRC k) = 0 then s.time - (s.timer k).lastTick else if s.fget (Reg.TMR_CTL_SRC k) = 3 then
        0 else if s.timerFed k then ticks.toNat else 0)) / s.timerDiv k) - 1 ∧ t.timerCount k = (s.timerCount k + 1) % 2
        ^ 64 ∧ (t.timer k).due = (if s.fbit (Reg.TMR_STATUS_ARMED k) && decide ((s.timerCount k + 1) % 2 ^ 64 = (s.timer
        k).cmp) then some s.time else none)) ∧
      (¬ (((s.timer k).req + ((s.timer k).acc + 65536 * (if s.fget (Reg.TMR_CTL_SRC k) = 0 then s.time - (s.timer
        k).lastTick else if s.fget (Reg.TMR_CTL_SRC k) = 3 then 0 else if s.timerFed k then ticks.toNat else 0)) /
        s.timerDiv k) ≠ 0 ∧ (s.timer k).edge < s.time) → (t.timer k).req = ((s.timer k).req + ((s.timer k).acc + 65536 *
        (if s.fget (Reg.TMR_CTL_SRC k) = 0 then s.time - (s.timer k).lastTick else if s.fget (Reg.TMR_CTL_SRC k) = 3 then
        0 else if s.timerFed k then ticks.toNat else 0)) / s.timerDiv k) ∧ t.timerCount k = s.timerCount k) ∧
      t.mem = s.mem ∧
      t.sent = s.sent ∧
      (∀ reg : Nat, reg ∉ [Reg.TB_OUT_STATUS, Reg.TMR_MATCH_CNT k, Reg.TMR_STATUS k, Reg.TMR_CNT_LO k, Reg.TMR_CNT_HI k]
        → t.rd reg = s.rd reg)) ∧
  -- TIMER_INCREMENT: a match that was due is carried out first (R425, R426, R424)
  (∀ (s : State) (k : Fin 16) (ticks : BitVec 16), s.canonical = true → s.down = false → s.fbit (Reg.TMR_CTL_EN k) = true
    → (s.timer k).due.isSome = true →
    ∃ t, exec (.timerIncrement k ticks) s = .next t ∧
      t.fbit (Reg.TMR_STATUS_MATCH k) = true ∧
      (t.rd (Reg.TMR_MATCH_CNT k)).toNat = satCount 32 (s.rd (Reg.TMR_MATCH_CNT k)).toNat 1 ∧
      t.mem = s.mem ∧
      (∀ reg : Nat, reg ∉ [Reg.TB_OUT_STATUS, Reg.TMR_MATCH_CNT k, Reg.TMR_STATUS k, Reg.TMR_CNT_LO k, Reg.TMR_CNT_HI k]
        → t.rd reg = s.rd reg)) ∧
  -- TIMER_INCREMENT: a timer that is off does not count (R425, R426, R424)
  (∀ (s : State) (k : Fin 16) (ticks : BitVec 16), s.canonical = true → s.down = false → s.fbit (Reg.TMR_CTL_EN k) =
    false →
    ∃ t, exec (.timerIncrement k ticks) s = .next t ∧
      t = s ∧
      t.mem = s.mem) ∧
  -- TIMER_MATCH (R430)
  (∀ (s : State) (k : Fin 16), s.canonical = true → s.down = false → (s.timer k).due.isSome = true →
    ∃ t, exec (.timerMatch k) s = .next t ∧
      t.fbit (Reg.TMR_STATUS_MATCH k) = true ∧
      (t.rd (Reg.TMR_MATCH_CNT k)).toNat = satCount 32 (s.rd (Reg.TMR_MATCH_CNT k)).toNat 1 ∧
      (t.timer k).due = none ∧
      t.fbit (Reg.TMR_STATUS_ARMED k) = decide ((s.timer k).per ≠ 0) ∧
      (t.timer k).cmp = (if (s.timer k).per ≠ 0 then ((s.timer k).cmp + (s.timer k).per) % 2 ^ 64 else (s.timer k).cmp) ∧
      t.timerCount k = s.timerCount k ∧
      t.sent = (if t.timerLine k = s.timerLine k then s.sent else .irq 128 2 k (t.timerLine k) :: s.sent) ∧
      t.mem = s.mem ∧
      (∀ reg : Nat, reg ∉ [Reg.TB_OUT_STATUS, Reg.TMR_MATCH_CNT k, Reg.TMR_STATUS k] → t.rd reg = s.rd reg)) ∧
  -- TIMER_MATCH: no match is due (R430)
  (∀ (s : State) (k : Fin 16), s.canonical = true → s.down = false → (s.timer k).due = none →
    ∃ t, exec (.timerMatch k) s = .next t ∧
      t = s ∧
      t.mem = s.mem) ∧
  -- TIMER_COMPARE_COMMIT (R429)
  (∀ (s : State) (k : Fin 16) (hi : Word), s.canonical = true → s.down = false → (s.timer k).due = none ∨ (s.timer k).due
    = some s.time →
    ∃ t, exec (.timerCompareCommit k hi) s = .next t ∧
      t.rd (Reg.TMR_CMP_HI k) = hi ∧
      (s.timerCount k < ((s.rd (Reg.TMR_CMP_LO k)).toNat + hi.toNat * 2 ^ 32) → (t.timer k).cmp = ((s.rd (Reg.TMR_CMP_LO
        k)).toNat + hi.toNat * 2 ^ 32) ∧ t.fbit (Reg.TMR_STATUS_ARMED k) = true ∧ t.fbit (Reg.TMR_STATUS_MATCH k) =
        s.fbit (Reg.TMR_STATUS_MATCH k)) ∧
      (((s.rd (Reg.TMR_CMP_LO k)).toNat + hi.toNat * 2 ^ 32) < s.timerCount k → (t.timer k).cmp = ((s.rd (Reg.TMR_CMP_LO
        k)).toNat + hi.toNat * 2 ^ 32) ∧ t.fbit (Reg.TMR_STATUS_ARMED k) = false ∧ t.fbit (Reg.TMR_STATUS_CMP_PAST k) =
        true ∧ t.fbit (Reg.TMR_STATUS_MATCH k) = s.fbit (Reg.TMR_STATUS_MATCH k)) ∧
      (((s.rd (Reg.TMR_CMP_LO k)).toNat + hi.toNat * 2 ^ 32) = s.timerCount k → t.fbit (Reg.TMR_STATUS_MATCH k) = true ∧
        (t.rd (Reg.TMR_MATCH_CNT k)).toNat = satCount 32 (s.rd (Reg.TMR_MATCH_CNT k)).toNat 1 ∧ t.fbit
        (Reg.TMR_STATUS_ARMED k) = decide ((s.timer k).per ≠ 0)) ∧
      (t.timer k).due = none ∧
      t.timerCount k = s.timerCount k ∧
      t.mem = s.mem ∧
      (∀ reg : Nat, reg ∉ [Reg.TB_OUT_STATUS, Reg.TMR_MATCH_CNT k, Reg.TMR_STATUS k, Reg.TMR_CMP_HI k] → t.rd reg = s.rd
        reg)) ∧
  -- TIMER_COMPARE_COMMIT: a match due at an earlier edge is carried out first (R429)
  (∀ (s : State) (k : Fin 16) (hi : Word) (e : Nat), s.canonical = true → s.down = false → (s.timer k).due = some e → e ≠
    s.time →
    ∃ t, exec (.timerCompareCommit k hi) s = .next t ∧
      t.fbit (Reg.TMR_STATUS_MATCH k) = true ∧
      t.rd (Reg.TMR_CMP_HI k) = hi ∧
      t.timerCount k = s.timerCount k ∧
      t.mem = s.mem ∧
      (∀ reg : Nat, reg ∉ [Reg.TB_OUT_STATUS, Reg.TMR_MATCH_CNT k, Reg.TMR_STATUS k, Reg.TMR_CMP_HI k] → t.rd reg = s.rd
        reg)) ∧
  -- TIMER_PERIOD_COMMIT (R431)
  (∀ (s : State) (k : Fin 16) (hi : Word), s.canonical = true → s.down = false →
    ∃ t, exec (.timerPeriodCommit k hi) s = .next t ∧
      t.rd (Reg.TMR_PERIOD_HI k) = hi ∧
      (t.timer k).per = (s.rd (Reg.TMR_PERIOD_LO k)).toNat + hi.toNat * 2 ^ 32 ∧
      (t.timer k).due = none ∧
      ((s.timer k).due = none → (t.timer k).cmp = (s.timer k).cmp ∧ t.fbit (Reg.TMR_STATUS_MATCH k) = s.fbit
        (Reg.TMR_STATUS_MATCH k) ∧ t.sent = s.sent) ∧
      ((s.timer k).due.isSome = true → t.fbit (Reg.TMR_STATUS_MATCH k) = true ∧ (t.timer k).cmp = (if (s.timer k).per ≠ 0
        then ((s.timer k).cmp + (s.timer k).per) % 2 ^ 64 else (s.timer k).cmp)) ∧
      t.timerCount k = s.timerCount k ∧
      t.mem = s.mem ∧
      (∀ reg : Nat, reg ∉ [Reg.TB_OUT_STATUS, Reg.TMR_MATCH_CNT k, Reg.TMR_STATUS k, Reg.TMR_PERIOD_HI k] → t.rd reg =
        s.rd reg)) ∧
  -- TRIG_IN_EDGE (R427, R428)
  (∀ (s : State) (k : Fin 16) (rising : Bool), s.canonical = true → s.down = false → s.fbit (Reg.TMR_CTL_EN k) = true →
    s.edgeAccepted k rising = true → edgeTaken (s.fget (Reg.TMR_CTL_EDGE k)) rising = true → (s.timer k).due = none →
    s.fget (Reg.TMR_IN_EPSM1 k) ≤ (s.timer k).edges →
    ∃ t, exec (.trigInEdge k rising) s = .next t ∧
      (s.fbit (Reg.TMR_CTL_CAP_EN k) = true → t.fbit (Reg.TMR_STATUS_CAP k) = true ∧ t.rd64 (Reg.TMR_CAP_LO k) =
        t.timerCount k ∧ t.rd64 (Reg.TMR_CAPT_LO k) = (s.now + 2 ^ 64 - (max 1 (s.fget (Reg.TMR_IN_FILT k)) + 3)) % 2 ^
        64 ∧ (t.rd (Reg.TMR_CAP_CNT k)).toNat = satCount 32 (s.rd (Reg.TMR_CAP_CNT k)).toNat 1 ∧ t.fbit
        (Reg.TMR_STATUS_CAP_OVR k) = (s.fbit (Reg.TMR_STATUS_CAP_OVR k) || s.fbit (Reg.TMR_STATUS_CAP k))) ∧
      (s.fbit (Reg.TMR_CTL_CAP_EN k) = false → t.rd64 (Reg.TMR_CAP_LO k) = s.rd64 (Reg.TMR_CAP_LO k) ∧ t.fbit
        (Reg.TMR_STATUS_CAP k) = s.fbit (Reg.TMR_STATUS_CAP k)) ∧
      (t.timer k).edges = 0 ∧
      (t.timer k).level = some (rising, s.time) ∧
      (s.fget (Reg.TMR_CTL_SRC k) ≠ 3 → t.timerCount k = s.timerCount k) ∧
      (s.fget (Reg.TMR_CTL_SRC k) = 3 → t.timerCount k = (if ((s.timer k).req + ((s.timer k).acc + 65536) / s.timerDiv k)
        ≠ 0 ∧ (s.timer k).edge < s.time then (s.timerCount k + 1) % 2 ^ 64 else s.timerCount k)) ∧
      t.mem = s.mem ∧
      (∀ reg : Nat, reg ∉ [Reg.TB_OUT_STATUS, Reg.TMR_MATCH_CNT k, Reg.TMR_STATUS k, Reg.TMR_CAPT_HI k, Reg.TMR_CAPT_LO
        k, Reg.TMR_CAP_CNT k, Reg.TMR_CAP_LO k, Reg.TMR_CAP_HI k, Reg.TMR_CNT_LO k, Reg.TMR_CNT_HI k] → t.rd reg = s.rd
        reg)) ∧
  -- TRIG_IN_EDGE: an edge that EDGE does not select, or that EPSM1 holds back (R427, R428)
  (∀ (s : State) (k : Fin 16) (rising : Bool), s.canonical = true → s.down = false → s.fbit (Reg.TMR_CTL_EN k) = true →
    s.edgeAccepted k rising = true → (s.timer k).due = none → edgeTaken (s.fget (Reg.TMR_CTL_EDGE k)) rising = false ∨
    (s.timer k).edges < s.fget (Reg.TMR_IN_EPSM1 k) →
    ∃ t, exec (.trigInEdge k rising) s = .next t ∧
      (t.timer k).edges = (if edgeTaken (s.fget (Reg.TMR_CTL_EDGE k)) rising = true then (s.timer k).edges + 1 else
        (s.timer k).edges) ∧
      (t.timer k).level = some (rising, s.time) ∧
      t.timerCount k = s.timerCount k ∧
      t.mem = s.mem ∧
      t.sent = s.sent ∧
      t.csr = s.csr) ∧
  -- TRIG_IN_EDGE: a match that was due is carried out first (R427, R428)
  (∀ (s : State) (k : Fin 16) (rising : Bool), s.canonical = true → s.down = false → s.fbit (Reg.TMR_CTL_EN k) = true →
    s.edgeAccepted k rising = true → (s.timer k).due.isSome = true →
    ∃ t, exec (.trigInEdge k rising) s = .next t ∧
      t.fbit (Reg.TMR_STATUS_MATCH k) = true ∧
      (t.timer k).level = some (rising, s.time) ∧
      t.mem = s.mem ∧
      (∀ reg : Nat, reg ∉ [Reg.TB_OUT_STATUS, Reg.TMR_MATCH_CNT k, Reg.TMR_STATUS k, Reg.TMR_CAPT_HI k, Reg.TMR_CAPT_LO
        k, Reg.TMR_CAP_CNT k, Reg.TMR_CAP_LO k, Reg.TMR_CAP_HI k, Reg.TMR_CNT_LO k, Reg.TMR_CNT_HI k] → t.rd reg = s.rd
        reg)) ∧
  -- TRIG_IN_EDGE: the timer is off, or the level is the one accepted or has not stood for FILT samples (R427, R428)
  (∀ (s : State) (k : Fin 16) (rising : Bool), s.canonical = true → s.down = false → s.fbit (Reg.TMR_CTL_EN k) = false ∨
    s.edgeAccepted k rising = false →
    ∃ t, exec (.trigInEdge k rising) s = .next t ∧
      t = s ∧
      t.mem = s.mem)

/-- Dense tiles: descriptor queues complete. Descriptors enqueued, dispatched or refused, TSET, NOTIFY and the end of a
descriptor. (06_dense_tiles.md.) -/
def Obligations.TileQueueCommandsComplete : Prop :=
  -- DESCRIPTOR_ENQUEUE (R196)
  (∀ (s : State) (i : Fin 128) (stores : List (Fin 7 × Word)) (last : Word), s.canonical = true → s.down = false → s.fbit
    (Reg.SEQ_CTL_RUN i) = true → s.tileAbsent (i / 2) = false →
    ∃ t, exec (.descriptorEnqueue i stores last) s = .next t ∧
      ((t.tile (i / 2)).port (decide (i.val % 2 = 1))).words = ((stores.foldl (fun w x => w.set x.1.val x.2) ((s.tile (i
        / 2)).port (decide (i.val % 2 = 1))).words).set 7 last) ∧
      (((s.tile (i / 2)).port (decide (i.val % 2 = 1))).queue.length < 32 → ((s.tile (i / 2)).port (decide (i.val % 2 =
        1))).stalled = [] → ((t.tile (i / 2)).port (decide (i.val % 2 = 1))).queue = ((s.tile (i / 2)).port (decide
        (i.val % 2 = 1))).queue ++ [((stores.foldl (fun w x => w.set x.1.val x.2) ((s.tile (i / 2)).port (decide (i.val %
        2 = 1))).words).set 7 last)] ∧ ((t.tile (i / 2)).port (decide (i.val % 2 = 1))).stalled = []) ∧
      (32 ≤ ((s.tile (i / 2)).port (decide (i.val % 2 = 1))).queue.length ∨ ((s.tile (i / 2)).port (decide (i.val % 2 =
        1))).stalled ≠ [] → ((t.tile (i / 2)).port (decide (i.val % 2 = 1))).queue = ((s.tile (i / 2)).port (decide
        (i.val % 2 = 1))).queue ∧ ((t.tile (i / 2)).port (decide (i.val % 2 = 1))).stalled = ((s.tile (i / 2)).port
        (decide (i.val % 2 = 1))).stalled ++ [((stores.foldl (fun w x => w.set x.1.val x.2) ((s.tile (i / 2)).port
        (decide (i.val % 2 = 1))).words).set 7 last)]) ∧
      t.mem = s.mem ∧
      t.sent = s.sent ∧
      (∀ reg : Nat, reg ∉ [Reg.SEQ_STATUS i, Reg.TILE_STATUS (i.val / 2), Reg.SEQ_STATUS (2 * (i.val / 2)),
        Reg.SEQ_STATUS (2 * (i.val / 2) + 1)] → t.rd reg = s.rd reg)) ∧
  -- DESCRIPTOR_ENQUEUE: the core does not run, or its tile is absent (R196)
  (∀ (s : State) (i : Fin 128) (stores : List (Fin 7 × Word)) (last : Word), s.canonical = true → s.down = false → s.fbit
    (Reg.SEQ_CTL_RUN i) = false ∨ s.tileAbsent (i / 2) = true →
    ∃ t, exec (.descriptorEnqueue i stores last) s = .next t ∧
      t = s ∧
      t.mem = s.mem) ∧
  -- DESCRIPTOR_DISPATCH (R199)
  (∀ (s : State) (t : Fin 64) (d : Desc), s.canonical = true → s.down = false → s.tileRuns t = true → (s.tile t).tset =
    none →
    (match (s.headDesc t (s.tile t).turn).filter (fun d => s.canDispatch t d) with | some d => some d | none => (s.headDesc t (!(s.tile t).turn)).filter (fun d => s.canDispatch t d))
    = some d →
    ∃ t_, exec (.descriptorDispatch t) s = .next t_ ∧
      ((t_.tile t).port d.odd).queue =
        (match ((s.tile t).port d.odd).stalled with | w :: _ => ((s.tile t).port d.odd).queue.tail ++ [w] | [] => ((s.tile t).port d.odd).queue.tail)
        ∧
      ((t_.tile t).port d.odd).stalled = ((s.tile t).port d.odd).stalled.tail ∧
      (t_.tile t).turn = (!d.odd) ∧
      (d.refusal = 0 → d.op = 4 → (t_.tile t).tset = some d ∧ (t_.tile t).enginesIdle = (s.tile t).enginesIdle) ∧
      (d.refusal = 0 → d.op ≠ 4 → (t_.tile t).eq d.engine = (s.tile t).eq d.engine ++ [d] ∧ (t_.tile t).tset = none) ∧
      (d.refusal = 0 → t_.sent = s.sent ∧ t_.fbit (Reg.TILE_STATUS_HALT0 t) = s.fbit (Reg.TILE_STATUS_HALT0 t)) ∧
      (d.refusal ≠ 0 → t_.fbit (haltRef t d.odd) = true ∧ t_.sent = .irq (tileSeq t d.odd) 6 0 true :: s.sent ∧ t_.rd
        (Reg.TILE_ERR t) = BitVec.ofNat 32 (d.refusal * 2 ^ 28 + (if d.odd then 2 ^ 27 else 0) + d.tag) ∧ (t_.tile t).fq
        = (s.tile t).fq ∧ (t_.tile t).aq = (s.tile t).aq ∧ (t_.tile t).dq = (s.tile t).dq) ∧
      t_.mem = s.mem ∧
      (∀ reg : Nat, reg ∉ [Reg.TILE_STATUS t, Reg.SEQ_STATUS (2 * t.val), Reg.SEQ_STATUS (2 * t.val + 1), Reg.TILE_ERR t]
        → t_.rd reg = s.rd reg)) ∧
  -- DESCRIPTOR_DISPATCH: a tile that is absent, disabled or in its error state (R199)
  (∀ (s : State) (t : Fin 64), s.canonical = true → s.down = false → s.tileRuns t = false →
    ∃ t_, exec (.descriptorDispatch t) s = .next t_ ∧
      t_ = s ∧
      t_.mem = s.mem) ∧
  -- DESCRIPTOR_DISPATCH: a TSET waits, or no head descriptor can be taken (R199)
  (∀ (s : State) (t : Fin 64), s.canonical = true → s.down = false → s.tileRuns t = true → (s.tile t).tset ≠ none ∨
    (match (s.headDesc t (s.tile t).turn).filter (fun d => s.canDispatch t d) with | some d => some d | none => (s.headDesc t (!(s.tile t).turn)).filter (fun d => s.canDispatch t d))
    = none →
    ∃ t_, exec (.descriptorDispatch t) s = .next t_ ∧
      t_.tiles = s.tiles ∧
      t_.mem = s.mem ∧
      t_.sent = s.sent ∧
      (∀ reg : Nat, reg ∉ [Reg.TILE_STATUS t, Reg.SEQ_STATUS (2 * t.val), Reg.SEQ_STATUS (2 * t.val + 1)] → t_.rd reg =
        s.rd reg)) ∧
  -- NOP (R197)
  (∀ (s : State) (t : Fin 64) (odd : Bool) (d : Desc), s.canonical = true → s.down = false → s.tileRuns t = true →
    s.headDesc t odd = some d → d.op = 0 → d.refusal = 0 → (s.tile t).tset = none → s.tqHas t d.wd = true →
    ∃ t_, exec (.nop t odd) s = .next t_ ∧
      ((t_.tile t).port odd).queue =
        (match ((s.tile t).port odd).stalled with | w :: _ => ((s.tile t).port odd).queue.tail ++ [w] | [] => ((s.tile t).port odd).queue.tail)
        ∧
      ((t_.tile t).port odd).stalled = ((s.tile t).port odd).stalled.tail ∧
      (∀ q : Fin 8, t_.fget (Reg.TILE_TQ_COUNT t q) = s.fget (Reg.TILE_TQ_COUNT t q) - (if q.val = d.wd then 1 else 0) +
        (if q.val = d.pd ∧ s.fget (Reg.TILE_TQ_COUNT t d.pd) - (if d.pd = d.wd then 1 else 0) < 4095 then 1 else 0)) ∧
      (8 ≤ d.pd ∨ s.fget (Reg.TILE_TQ_COUNT t d.pd) - (if d.pd = d.wd then 1 else 0) < 4095 → t_.fbit
        (Reg.TILE_STATUS_ERR t) = false) ∧
      (d.pd < 8 → 4095 ≤ s.fget (Reg.TILE_TQ_COUNT t d.pd) - (if d.pd = d.wd then 1 else 0) → t_.fbit
        (Reg.TILE_STATUS_ERR t) = true ∧ wordGet (t_.rd (Reg.TILE_ERR t)) 31 28 = 5) ∧
      (t_.tile t).fq = (s.tile t).fq ∧
      (t_.tile t).aq = (s.tile t).aq ∧
      (t_.tile t).dq = (s.tile t).dq ∧
      t_.mem = s.mem ∧
      (∀ reg : Nat, reg ∉ [Reg.TILE_STATUS t, Reg.SEQ_STATUS (2 * t.val), Reg.SEQ_STATUS (2 * t.val + 1), Reg.TILE_ERR t]
        ++ each 8 (Reg.TILE_TQ t) → t_.rd reg = s.rd reg)) ∧
  -- NOP: a tile that is absent, disabled or in its error state (R197)
  (∀ (s : State) (t : Fin 64) (odd : Bool), s.canonical = true → s.down = false → s.tileRuns t = false →
    ∃ t_, exec (.nop t odd) s = .next t_ ∧
      t_ = s ∧
      t_.mem = s.mem) ∧
  -- NOP: no NOP that has its token stands at the head (R197)
  (∀ (s : State) (t : Fin 64) (odd : Bool), s.canonical = true → s.down = false → s.tileRuns t = true → (s.tile t).tset ≠
    none ∨ (s.headDesc t odd).all (fun d => decide (d.op ≠ 0 ∨ d.refusal ≠ 0) || !s.tqHas t d.wd) = true →
    ∃ t_, exec (.nop t odd) s = .next t_ ∧
      t_.tiles = s.tiles ∧
      t_.mem = s.mem ∧
      t_.sent = s.sent ∧
      (∀ reg : Nat, reg ∉ [Reg.TILE_STATUS t, Reg.SEQ_STATUS (2 * t.val), Reg.SEQ_STATUS (2 * t.val + 1)] → t_.rd reg =
        s.rd reg)) ∧
  -- TSET (R206)
  (∀ (s : State) (t : Fin 64) (d : Desc), s.canonical = true → s.down = false → s.tileRuns t = true → (s.tile t).tset =
    some d → (s.tile t).enginesIdle = true → s.tqHas t d.wd = true →
    ∃ t_, exec (.tset t) s = .next t_ ∧
      (t_.tile t).tset = none ∧
      (8 ≤ d.pd → ∀ q : Fin 8, t_.fget (Reg.TILE_TQ_COUNT t q) = (if bit (d.w 1) q = true then d.f (2 + q / 2) (16 * (q %
        2) + 11) (16 * (q % 2)) else s.fget (Reg.TILE_TQ_COUNT t q) - (if q.val = d.wd then 1 else 0))) ∧
      (d.pd < 8 → ∀ q : Fin 8, q.val ≠ d.pd → t_.fget (Reg.TILE_TQ_COUNT t q) = (if bit (d.w 1) q = true then d.f (2 + q
        / 2) (16 * (q % 2) + 11) (16 * (q % 2)) else s.fget (Reg.TILE_TQ_COUNT t q) - (if q.val = d.wd then 1 else 0))) ∧
      (∀ b : Fin 2, (bit (d.w 1) (8 + b) = true → t_.fget (Reg.TILE_RING_FPOS t b) = 0 ∧ t_.fget (Reg.TILE_RING_APOS t b)
        = 0) ∧ (bit (d.w 1) (8 + b) = false → t_.rd (Reg.TILE_RING t b) = s.rd (Reg.TILE_RING t b))) ∧
      t_.mem = s.mem ∧
      (∀ reg : Nat, reg ∉ [Reg.TILE_STATUS t, Reg.SEQ_STATUS (2 * t.val), Reg.SEQ_STATUS (2 * t.val + 1), Reg.TILE_ERR t]
        ++ each 8 (Reg.TILE_TQ t) ++ each 2 (Reg.TILE_RING t) → t_.rd reg = s.rd reg)) ∧
  -- TSET: a tile that is absent, disabled or in its error state (R206)
  (∀ (s : State) (t : Fin 64), s.canonical = true → s.down = false → s.tileRuns t = false →
    ∃ t_, exec (.tset t) s = .next t_ ∧
      t_ = s ∧
      t_.mem = s.mem) ∧
  -- TSET: no TSET waits, an engine is busy, or its token is missing (R206)
  (∀ (s : State) (t : Fin 64), s.canonical = true → s.down = false → s.tileRuns t = true → (s.tile t).tset = none ∨
    (s.tile t).enginesIdle = false ∨ (s.tile t).tset.all (fun d => !s.tqHas t d.wd) = true →
    ∃ t_, exec (.tset t) s = .next t_ ∧
      t_.tiles = s.tiles ∧
      t_.mem = s.mem ∧
      t_.sent = s.sent ∧
      (∀ reg : Nat, reg ∉ [Reg.TILE_STATUS t, Reg.SEQ_STATUS (2 * t.val), Reg.SEQ_STATUS (2 * t.val + 1)] → t_.rd reg =
        s.rd reg)) ∧
  -- NOTIFY (R207)
  (∀ (s : State) (t : Fin 64) (eng : Fin 4) (d : Desc) (rest : List Desc), s.canonical = true → s.down = false →
    s.tileRuns t = true → eng ≠ 0 → (s.tile t).eq eng = d :: rest → d.op = 5 → (s.tile t).engineFree eng = true → s.tqHas
    t d.wd = true →
    ∃ t_, exec (.notify t eng) s = .next t_ ∧
      (t_.tile t).eq eng = rest ∧
      (∀ q : Fin 8, t_.fget (Reg.TILE_TQ_COUNT t q) = s.fget (Reg.TILE_TQ_COUNT t q) - (if q.val = d.wd then 1 else 0) +
        (if q.val = d.pd ∧ s.fget (Reg.TILE_TQ_COUNT t d.pd) - (if d.pd = d.wd then 1 else 0) < 4095 then 1 else 0)) ∧
      (8 ≤ d.pd ∨ s.fget (Reg.TILE_TQ_COUNT t d.pd) - (if d.pd = d.wd then 1 else 0) < 4095 → t_.fbit
        (Reg.TILE_STATUS_ERR t) = false) ∧
      (d.pd < 8 → 4095 ≤ s.fget (Reg.TILE_TQ_COUNT t d.pd) - (if d.pd = d.wd then 1 else 0) → t_.fbit
        (Reg.TILE_STATUS_ERR t) = true ∧ wordGet (t_.rd (Reg.TILE_ERR t)) 31 28 = 5) ∧
      t_.mem = s.mem ∧
      (∀ reg : Nat, reg ∉ [Reg.TILE_STATUS t, Reg.SEQ_STATUS (2 * t.val), Reg.SEQ_STATUS (2 * t.val + 1), Reg.TILE_ERR t,
        Reg.MESH_NOROUTE_CNT] ++ each 8 (Reg.TILE_TQ t) ++ each 16 Reg.IBL_DROP_CNT → t_.rd reg = s.rd reg)) ∧
  -- NOTIFY: with reply space at the interface its SIGNAL leaves, SRC the tile (R207)
  (∀ (s : State) (t : Fin 64) (eng : Fin 4) (d : Desc) (rest : List Desc), s.canonical = true → s.down = false →
    s.tileRuns t = true → eng ≠ 0 → (s.tile t).eq eng = d :: rest → d.op = 5 → (s.tile t).engineFree eng = true → s.tqHas
    t d.wd = true → 8 ≤ d.pd → (s.iface (tileCoord s.devid t 0 % 2 ^ 22)).wait = [] → (s.iface (tileCoord s.devid t 0 % 2
    ^ 22)).held + 1 ≤ 64 →
    ∃ t_, exec (.notify t eng) s = .next t_ ∧
      t_.sent = (.sync s.devid (d.f 1 15 0) 0 (d.f 1 31 16) 0 (tileCoord s.devid t 0 + (s.iface (tileCoord s.devid t 0 %
        2 ^ 22)).tag * 2 ^ 22)) :: s.sent ∧
      t_.mem = s.mem ∧
      (∀ reg : Nat, reg ∉ [Reg.TILE_STATUS t, Reg.SEQ_STATUS (2 * t.val), Reg.SEQ_STATUS (2 * t.val + 1), Reg.TILE_ERR t,
        Reg.MESH_NOROUTE_CNT] ++ each 8 (Reg.TILE_TQ t) ++ each 16 Reg.IBL_DROP_CNT → t_.rd reg = s.rd reg)) ∧
  -- NOTIFY: a tile that is absent, disabled or in its error state (R207)
  (∀ (s : State) (t : Fin 64) (eng : Fin 4), s.canonical = true → s.down = false → s.tileRuns t = false →
    ∃ t_, exec (.notify t eng) s = .next t_ ∧
      t_ = s ∧
      t_.mem = s.mem) ∧
  -- NOTIFY: no NOTIFY that has its token stands at the head of a free engine (R207)
  (∀ (s : State) (t : Fin 64) (eng : Fin 4), s.canonical = true → s.down = false → s.tileRuns t = true → eng = 0 ∨
    (s.tile t).engineFree eng = false ∨ (((s.tile t).eq eng).head?).all (fun d => decide (d.op ≠ 5) || !s.tqHas t d.wd) =
    true →
    ∃ t_, exec (.notify t eng) s = .next t_ ∧
      t_.tiles = s.tiles ∧
      t_.mem = s.mem ∧
      t_.sent = s.sent ∧
      (∀ reg : Nat, reg ∉ [Reg.TILE_STATUS t, Reg.SEQ_STATUS (2 * t.val), Reg.SEQ_STATUS (2 * t.val + 1)] → t_.rd reg =
        s.rd reg)) ∧
  -- DESCRIPTOR_END (R199)
  (∀ (s : State) (t : Fin 64) (eng : Fin 4) (d : Desc) (r : FRun) (rest : List FRun), s.canonical = true → s.down = false
    → s.tileRuns t = true → (eng.val = 1 → (s.tile t).fetch = r :: rest ∧ r.issued = true ∧ r.items = [] ∧ r.d = d) →
    (eng.val = 2 → (s.tile t).mma = some (d, d.nb * d.kb) ∧ 8 ≤ d.pd2) → (eng.val = 3 → (s.tile t).drain = some d) → eng
    ≠ 0 →
    ∃ t_, exec (.descriptorEnd t eng) s = .next t_ ∧
      (eng.val = 1 → (t_.tile t).fetch = rest) ∧
      (eng.val = 2 → (t_.tile t).mma = none) ∧
      (eng.val = 3 → (t_.tile t).drain = none ∧ (t_.tile t).drained = []) ∧
      (∀ q : Fin 8, t_.fget (Reg.TILE_TQ_COUNT t q) = s.fget (Reg.TILE_TQ_COUNT t q) - (if q.val = 8 then 1 else 0) + (if
        q.val = d.pd ∧ s.fget (Reg.TILE_TQ_COUNT t d.pd) - (if d.pd = 8 then 1 else 0) < 4095 then 1 else 0)) ∧
      (8 ≤ d.pd ∨ s.fget (Reg.TILE_TQ_COUNT t d.pd) - (if d.pd = 8 then 1 else 0) < 4095 → t_.fbit (Reg.TILE_STATUS_ERR
        t) = false) ∧
      (d.pd < 8 → 4095 ≤ s.fget (Reg.TILE_TQ_COUNT t d.pd) - (if d.pd = 8 then 1 else 0) → t_.fbit (Reg.TILE_STATUS_ERR
        t) = true ∧ wordGet (t_.rd (Reg.TILE_ERR t)) 31 28 = 5) ∧
      t_.mem = s.mem ∧
      (∀ reg : Nat, reg ∉ [Reg.TILE_STATUS t, Reg.SEQ_STATUS (2 * t.val), Reg.SEQ_STATUS (2 * t.val + 1), Reg.TILE_ERR t]
        ++ each 8 (Reg.TILE_TQ t) → t_.rd reg = s.rd reg)) ∧
  -- DESCRIPTOR_END: PD2 of an MMA is posted after PD (R199)
  (∀ (s : State) (t : Fin 64) (eng : Fin 4) (d : Desc), s.canonical = true → s.down = false → s.tileRuns t = true →
    eng.val = 2 → (s.tile t).mma = some (d, d.nb * d.kb) → d.pd2 < 8 → d.pd ≠ d.pd2 → 8 ≤ d.pd ∨ s.fget
    (Reg.TILE_TQ_COUNT t d.pd) < 4095 →
    ∃ t_, exec (.descriptorEnd t eng) s = .next t_ ∧
      (t_.tile t).mma = none ∧
      (s.fget (Reg.TILE_TQ_COUNT t d.pd2) < 4095 → t_.fget (Reg.TILE_TQ_COUNT t d.pd2) = s.fget (Reg.TILE_TQ_COUNT t
        d.pd2) + 1 ∧ t_.fbit (Reg.TILE_STATUS_ERR t) = false) ∧
      (4095 ≤ s.fget (Reg.TILE_TQ_COUNT t d.pd2) → t_.fbit (Reg.TILE_STATUS_ERR t) = true) ∧
      (d.pd < 8 → t_.fget (Reg.TILE_TQ_COUNT t d.pd) = s.fget (Reg.TILE_TQ_COUNT t d.pd) + 1) ∧
      t_.mem = s.mem ∧
      (∀ reg : Nat, reg ∉ [Reg.TILE_STATUS t, Reg.SEQ_STATUS (2 * t.val), Reg.SEQ_STATUS (2 * t.val + 1), Reg.TILE_ERR t]
        ++ each 8 (Reg.TILE_TQ t) → t_.rd reg = s.rd reg)) ∧
  -- DESCRIPTOR_END: a tile that is absent, disabled or in its error state (R199)
  (∀ (s : State) (t : Fin 64) (eng : Fin 4), s.canonical = true → s.down = false → s.tileRuns t = false →
    ∃ t_, exec (.descriptorEnd t eng) s = .next t_ ∧
      t_ = s ∧
      t_.mem = s.mem) ∧
  -- DESCRIPTOR_END: nothing of the engine ends (R199)
  (∀ (s : State) (t : Fin 64) (eng : Fin 4), s.canonical = true → s.down = false → s.tileRuns t = true → (eng.val = 0 ∨
    eng.val = 1 ∧ (((s.tile t).fetch.head?).all (fun r => !(r.issued && r.items.isEmpty)) = true) ∨ eng.val = 2 ∧
    ((s.tile t).mma.all (fun x => decide (x.2 ≠ x.1.nb * x.1.kb)) = true) ∨ eng.val = 3 ∧ (s.tile t).drain = none) →
    ∃ t_, exec (.descriptorEnd t eng) s = .next t_ ∧
      t_.tiles = s.tiles ∧
      t_.mem = s.mem ∧
      t_.sent = s.sent ∧
      (∀ reg : Nat, reg ∉ [Reg.TILE_STATUS t, Reg.SEQ_STATUS (2 * t.val), Reg.SEQ_STATUS (2 * t.val + 1)] → t_.rd reg =
        s.rd reg))

/-- Dense tiles: the three engines complete. The fetch engine, the array and the drain engine take a descriptor; a fetch
item is done. (06_dense_tiles.md, 07_narrow_formats.md.) -/
def Obligations.TileEngineCommandsComplete : Prop :=
  -- FETCH (R201, R209, R213)
  (∀ (s : State) (t : Fin 64) (stalled : Word) (ecc : List (BitVec 16 × Ecc)) (d : Desc) (rest : List Desc), s.canonical
    = true → s.down = false → s.tileRuns t = true → (s.tile t).fetch.all FRun.issued = true → (s.tile t).fq = d :: rest →
    d.op = 1 → s.tqHas t d.wd = true → (s.tile t).fetch.all (fun r => r.items.all (fun x => !x.stale)) = true →
    ∃ t_, exec (.fetch t stalled ecc) s = .next t_ ∧
      (t_.tile t).fq = rest ∧
      (t_.tile t).fetch.map (fun r => (r.d, r.final)) = (s.tile t).fetch.map (fun r => (r.d, r.final)) ++ [(d, if
        !d.isSpec then some d.cnt2 else if s.fbit (Reg.TILE_BOUND_CLOSED t d.bsel) then some (min d.cnt2 (s.fget
        (Reg.TILE_BOUND_COUNT t d.bsel))) else none)] ∧
      (d.isSpec = false → (d.wi ≠ d.wd → s.tqHas t d.wi = true) → (d.wi = d.wd → 8 ≤ d.wi ∨ 2 ≤ s.fget (Reg.TILE_TQ_COUNT
        t d.wi)) → 0 < d.cnt2 → (t_.tile t).fetch.getLast?.map (fun r => (r.next, r.items.map (fun x => (x.q, x.spec,
        x.here, x.stale)))) = some (1, [(0, false, false, false)])) ∧
      (d.wi ≠ d.wd → s.tqHas t d.wi = false → (t_.tile t).fetch.getLast?.map (fun r => (r.next, r.items.length)) = some
        (0, 0)) ∧
      (t_.rd (Reg.TILE_XSTALL_CNT t)).toNat = satCount 32 (s.rd (Reg.TILE_XSTALL_CNT t)).toNat stalled.toNat ∧
      t_.fbit (Reg.TILE_STATUS_ERR t) = false ∧
      (∀ x : Nat, x < 2 ^ 50 → t_.mget x = s.mget x) ∧
      (∀ reg : Nat, reg ∉ [Reg.TILE_STATUS t, Reg.SEQ_STATUS (2 * t.val), Reg.SEQ_STATUS (2 * t.val + 1),
        Reg.TILE_FETCH_GR t, Reg.TILE_XSTALL_CNT t, Reg.TILE_RESPEC_CNT t, Reg.TILE_SPEC_CNT t] ++ each 2 (Reg.TILE_RING
        t) ++ each 8 (Reg.TILE_TQ t) ++ memorySide → t_.rd reg = s.rd reg)) ∧
  -- FETCH: the started descriptor reads its next item (R201, R209, R213)
  (∀ (s : State) (t : Fin 64) (stalled : Word) (ecc : List (BitVec 16 × Ecc)) (r : FRun), s.canonical = true → s.down =
    false → s.tileRuns t = true → (s.tile t).fq = [] → (s.tile t).fetch = [r] → r.items.all (fun x => !x.stale) = true →
    ∃ t_, exec (.fetch t stalled ecc) s = .next t_ ∧
      (s.readable t r ≤ r.d.i2 r.next ∨ s.tqHas t r.d.wi = false → (t_.tile t).fetch = [r]) ∧
      (r.d.i2 r.next < s.readable t r → s.tqHas t r.d.wi = true → (t_.tile t).fetch =
        [{ r with next := r.next + 1, items := r.items ++ [⟨r.next, s.fget (Reg.TILE_RING_FPOS t r.d.ob), decide (s.committed t r ≤ r.d.i2 r.next), false, false⟩] }])
        ∧
      (t_.rd (Reg.TILE_SPEC_CNT t)).toNat = satCount 32 (s.rd (Reg.TILE_SPEC_CNT t)).toNat (if r.d.i2 r.next < s.readable
        t r ∧ s.tqHas t r.d.wi = true ∧ s.committed t r ≤ r.d.i2 r.next then 1 else 0) ∧
      (t_.rd (Reg.TILE_XSTALL_CNT t)).toNat = satCount 32 (s.rd (Reg.TILE_XSTALL_CNT t)).toNat stalled.toNat ∧
      (∀ x : Nat, x < 2 ^ 50 → t_.mget x = s.mget x) ∧
      (∀ reg : Nat, reg ∉ [Reg.TILE_STATUS t, Reg.SEQ_STATUS (2 * t.val), Reg.SEQ_STATUS (2 * t.val + 1),
        Reg.TILE_FETCH_GR t, Reg.TILE_XSTALL_CNT t, Reg.TILE_RESPEC_CNT t, Reg.TILE_SPEC_CNT t] ++ each 2 (Reg.TILE_RING
        t) ++ each 8 (Reg.TILE_TQ t) ++ memorySide → t_.rd reg = s.rd reg)) ∧
  -- FETCH: an item that a write squashed is read again (R201, R209, R213)
  (∀ (s : State) (t : Fin 64) (stalled : Word) (ecc : List (BitVec 16 × Ecc)) (r : FRun) (x : FItem), s.canonical = true
    → s.down = false → s.tileRuns t = true → (s.tile t).fq = [] → (s.tile t).fetch = [r] → r.items.find? FItem.stale =
    some x →
    ∃ t_, exec (.fetch t stalled ecc) s = .next t_ ∧
      (t_.tile t).fetch = [{ r with items := r.items.map (fun y => if y.q = x.q then { y with stale := false } else y) }]
        ∧
      (t_.rd (Reg.TILE_RESPEC_CNT t)).toNat = satCount 32 (s.rd (Reg.TILE_RESPEC_CNT t)).toNat 1 ∧
      (t_.rd (Reg.TILE_XSTALL_CNT t)).toNat = satCount 32 (s.rd (Reg.TILE_XSTALL_CNT t)).toNat stalled.toNat ∧
      (∀ x : Nat, x < 2 ^ 50 → t_.mget x = s.mget x) ∧
      (∀ reg : Nat, reg ∉ [Reg.TILE_STATUS t, Reg.SEQ_STATUS (2 * t.val), Reg.SEQ_STATUS (2 * t.val + 1),
        Reg.TILE_FETCH_GR t, Reg.TILE_XSTALL_CNT t, Reg.TILE_RESPEC_CNT t, Reg.TILE_SPEC_CNT t] ++ each 2 (Reg.TILE_RING
        t) ++ each 8 (Reg.TILE_TQ t) ++ memorySide → t_.rd reg = s.rd reg)) ∧
  -- FETCH: a tile that is absent, disabled or in its error state (R201, R209, R213)
  (∀ (s : State) (t : Fin 64) (stalled : Word) (ecc : List (BitVec 16 × Ecc)), s.canonical = true → s.down = false →
    s.tileRuns t = false →
    ∃ t_, exec (.fetch t stalled ecc) s = .next t_ ∧
      t_ = s) ∧
  -- FETCH: nothing to fetch (R201, R209, R213)
  (∀ (s : State) (t : Fin 64) (stalled : Word) (ecc : List (BitVec 16 × Ecc)), s.canonical = true → s.down = false →
    s.tileRuns t = true → (s.tile t).fq = [] → (s.tile t).fetch = [] →
    ∃ t_, exec (.fetch t stalled ecc) s = .next t_ ∧
      t_.tiles = s.tiles ∧
      t_.mem = s.mem ∧
      (t_.rd (Reg.TILE_XSTALL_CNT t)).toNat = satCount 32 (s.rd (Reg.TILE_XSTALL_CNT t)).toNat stalled.toNat ∧
      (∀ reg : Nat, reg ∉ [Reg.TILE_STATUS t, Reg.SEQ_STATUS (2 * t.val), Reg.SEQ_STATUS (2 * t.val + 1),
        Reg.TILE_XSTALL_CNT t] → t_.rd reg = s.rd reg)) ∧
  -- FETCH_ITEM (R209)
  (∀ (s : State) (t : Fin 64) (run : Fin 16) (q : Word) (r : FRun) (x : FItem), s.canonical = true → s.down = false →
    s.tileRuns t = true → run = 0 → (s.tile t).fetch = [r] → r.items = [x] → x.q = q.toNat → x.stale = false →
    ∃ t_, exec (.fetchItem t run q) s = .next t_ ∧
      (x.spec = true → (t_.tile t).fetch = [{ r with items := [{ x with here := true }] }] ∧ t_.fget (Reg.TILE_TQ_COUNT t
        3) = s.fget (Reg.TILE_TQ_COUNT t 3)) ∧
      (x.spec = false → (t_.tile t).fetch = [{ r with items := [] }]) ∧
      (x.spec = false → r.d.pi < 8 → s.fget (Reg.TILE_TQ_COUNT t r.d.pi) < 4095 → t_.fget (Reg.TILE_TQ_COUNT t r.d.pi) =
        s.fget (Reg.TILE_TQ_COUNT t r.d.pi) + 1 ∧ t_.fbit (Reg.TILE_STATUS_ERR t) = false) ∧
      (x.spec = false → r.d.pi < 8 → 4095 ≤ s.fget (Reg.TILE_TQ_COUNT t r.d.pi) → t_.fbit (Reg.TILE_STATUS_ERR t) = true
        ∧ wordGet (t_.rd (Reg.TILE_ERR t)) 31 28 = 5) ∧
      t_.mem = s.mem ∧
      (∀ reg : Nat, reg ∉ [Reg.TILE_STATUS t, Reg.SEQ_STATUS (2 * t.val), Reg.SEQ_STATUS (2 * t.val + 1), Reg.TILE_ERR t]
        ++ each 8 (Reg.TILE_TQ t) → t_.rd reg = s.rd reg)) ∧
  -- FETCH_ITEM: any items of any started descriptors (R209)
  (∀ (s : State) (t : Fin 64) (run : Fin 16) (q : Word), s.canonical = true → s.down = false → s.tileRuns t = true →
    ∃ t_, exec (.fetchItem t run q) s = .next t_ ∧
      (t_.tile t).fq = (s.tile t).fq ∧
      (t_.tile t).fetch.map (fun r => (r.d, r.next, r.final)) = (s.tile t).fetch.map (fun r => (r.d, r.next, r.final)) ∧
      t_.mem = s.mem ∧
      (∀ reg : Nat, reg ∉ [Reg.TILE_STATUS t, Reg.SEQ_STATUS (2 * t.val), Reg.SEQ_STATUS (2 * t.val + 1), Reg.TILE_ERR t]
        ++ each 8 (Reg.TILE_TQ t) → t_.rd reg = s.rd reg)) ∧
  -- FETCH_ITEM: a tile that is absent, disabled or in its error state (R209)
  (∀ (s : State) (t : Fin 64) (run : Fin 16) (q : Word), s.canonical = true → s.down = false → s.tileRuns t = false →
    ∃ t_, exec (.fetchItem t run q) s = .next t_ ∧
      t_ = s ∧
      t_.mem = s.mem) ∧
  -- MMA (R203)
  (∀ (s : State) (t : Fin 64) (waited : Word) (d : Desc) (rest : List Desc) (m j : Nat), s.canonical = true → s.down =
    false → s.tileRuns t = true → (s.tile t).mma = none → (s.tile t).aq = d :: rest → d.op = 2 → s.tqHas t d.wd = true →
    s.tqHas t d.wd2 = true → ¬ (d.wd < 8 ∧ d.wd = d.wd2 ∧ s.fget (Reg.TILE_TQ_COUNT t d.wd) < 2) →
    ∃ t_, exec (.mma t waited) s = .next t_ ∧
      (t_.tile t).aq = rest ∧
      (t_.tile t).mma.map Prod.fst = some d ∧
      (8 ≤ d.wi ∨ d.wi ≠ d.wd ∧ d.wi ≠ d.wd2 → s.tqHas t d.wi = false → (t_.tile t).mma = some (d, 0) ∧ t_.fbit
        (Reg.TILE_STATUS_ERR t) = false ∧ t_.sent = s.sent) ∧
      (8 ≤ d.wi ∨ d.wi ≠ d.wd ∧ d.wi ≠ d.wd2 → s.tqHas t d.wi = false → d.zero = true → d.mmaRows ≤ 64 → d.nb *
        blockWidth d.wfmt ≤ 128 → m < d.mmaRows → j < d.nb * blockWidth d.wfmt → t_.mnat (accAddr t d.mmaBank m j) 4 = 0)
        ∧
      (8 ≤ d.wi ∨ d.wi ≠ d.wd ∧ d.wi ≠ d.wd2 → s.tqHas t d.wi = true → 0 < d.kb → (s.tile t).poison = [] → (8 ≤ d.pi ∨
        s.fget (Reg.TILE_TQ_COUNT t d.pi) < 4095) → (t_.tile t).mma = some (d, 1) ∧ t_.fbit (Reg.TILE_STATUS_ERR t) =
        false) ∧
      (t_.rd (Reg.TILE_ARR_WAIT t)).toNat = satCount 32 (s.rd (Reg.TILE_ARR_WAIT t)).toNat waited.toNat ∧
      (d.nb * blockWidth d.wfmt ≤ 128 → ∀ x : Nat, x < accAddr t 0 0 0 ∨ accAddr t 0 0 0 + 2 ^ 16 ≤ x → t_.mget x =
        s.mget x) ∧
      (∀ x : Nat, x < 2 ^ 50 → t_.mget x = s.mget x) ∧
      (∀ reg : Nat, reg ∉ [Reg.TILE_STATUS t, Reg.SEQ_STATUS (2 * t.val), Reg.SEQ_STATUS (2 * t.val + 1), Reg.TILE_ERR t,
        Reg.TILE_ARR_WAIT t, Reg.TILE_ARR_CYC t, Reg.TILE_ESC_MISS_CNT t] ++ each 2 (Reg.TILE_RING t) ++ each 8
        (Reg.TILE_TQ t) → t_.rd reg = s.rd reg)) ∧
  -- MMA: the next AOB of the MMA in progress (R203)
  (∀ (s : State) (t : Fin 64) (waited : Word) (d : Desc) (k : Nat), s.canonical = true → s.down = false → s.tileRuns t =
    true → (s.tile t).mma = some (d, k) →
    ∃ t_, exec (.mma t waited) s = .next t_ ∧
      (s.tqHas t d.wi = false ∨ d.nb * d.kb ≤ k → (t_.tile t).mma = some (d, k) ∧ t_.sent = s.sent ∧ t_.mem = s.mem) ∧
      (k < d.nb * d.kb → s.tqHas t d.wi = true → (s.tile t).poison = [] → 8 ≤ d.pi → (t_.tile t).mma = some (d, k + 1)) ∧
      (t_.tile t).aq = (s.tile t).aq ∧
      (t_.rd (Reg.TILE_ARR_WAIT t)).toNat = satCount 32 (s.rd (Reg.TILE_ARR_WAIT t)).toNat waited.toNat ∧
      (d.nb * blockWidth d.wfmt ≤ 128 → ∀ x : Nat, x < accAddr t 0 0 0 ∨ accAddr t 0 0 0 + 2 ^ 16 ≤ x → t_.mget x =
        s.mget x) ∧
      (∀ reg : Nat, reg ∉ [Reg.TILE_STATUS t, Reg.SEQ_STATUS (2 * t.val), Reg.SEQ_STATUS (2 * t.val + 1), Reg.TILE_ERR t,
        Reg.TILE_ARR_WAIT t, Reg.TILE_ARR_CYC t, Reg.TILE_ESC_MISS_CNT t] ++ each 2 (Reg.TILE_RING t) ++ each 8
        (Reg.TILE_TQ t) → t_.rd reg = s.rd reg)) ∧
  -- MMA: a tile that is absent, disabled or in its error state (R203)
  (∀ (s : State) (t : Fin 64) (waited : Word), s.canonical = true → s.down = false → s.tileRuns t = false →
    ∃ t_, exec (.mma t waited) s = .next t_ ∧
      t_ = s) ∧
  -- MMA: no MMA that has its tokens stands at the head (R203)
  (∀ (s : State) (t : Fin 64) (waited : Word), s.canonical = true → s.down = false → s.tileRuns t = true → (s.tile t).mma
    = none → ((s.tile t).aq.head?).all (fun d => decide (d.op ≠ 2) || !s.tqHas t d.wd || !s.tqHas t d.wd2) = true →
    ∃ t_, exec (.mma t waited) s = .next t_ ∧
      t_.tiles = s.tiles ∧
      t_.mem = s.mem ∧
      t_.sent = s.sent ∧
      (t_.rd (Reg.TILE_ARR_WAIT t)).toNat = satCount 32 (s.rd (Reg.TILE_ARR_WAIT t)).toNat waited.toNat ∧
      (∀ reg : Nat, reg ∉ [Reg.TILE_STATUS t, Reg.SEQ_STATUS (2 * t.val), Reg.SEQ_STATUS (2 * t.val + 1),
        Reg.TILE_ARR_WAIT t] → t_.rd reg = s.rd reg)) ∧
  -- DRAIN (R205, R393)
  (∀ (s : State) (t : Fin 64) (ecc : List (BitVec 16 × Ecc)) (d : Desc) (rest : List Desc), s.canonical = true → s.down =
    false → s.tileRuns t = true → (s.tile t).drain = none → (s.tile t).dq = d :: rest → d.op = 3 → s.tqHas t d.wd = true
    →
    ∃ t_, exec (.drain t ecc) s = .next t_ ∧
      (t_.tile t).dq = rest ∧
      (t_.tile t).drain = some d ∧
      (∀ q : Fin 8, t_.fget (Reg.TILE_TQ_COUNT t q) = s.fget (Reg.TILE_TQ_COUNT t q) - (if q.val = d.wd then 1 else 0)) ∧
      (∀ x : Nat, (∀ m : Fin 64, ∀ g : Fin 8, ∀ i : Fin 128, m.val < d.drainRows → g.val < d.cols / groupCols d.ofmt → x
        ≠ unalias (localPart (d.groupAddr t m g i))) → t_.mget x = s.mget x) ∧
      (∀ reg : Nat, reg ∉ [Reg.TILE_STATUS t, Reg.SEQ_STATUS (2 * t.val), Reg.SEQ_STATUS (2 * t.val + 1), Reg.TILE_ERR t,
        Reg.TILE_ESC_OVF_CNT t, Reg.TILE_NUM_STATUS t, Reg.TILE_SAT_CNT t] ++ each 8 (Reg.TILE_TQ t) ++ memorySide →
        t_.rd reg = s.rd reg)) ∧
  -- DRAIN: a tile that is absent, disabled or in its error state (R205, R393)
  (∀ (s : State) (t : Fin 64) (ecc : List (BitVec 16 × Ecc)), s.canonical = true → s.down = false → s.tileRuns t = false
    →
    ∃ t_, exec (.drain t ecc) s = .next t_ ∧
      t_ = s) ∧
  -- DRAIN: a DRAIN is in progress, or none that has its token stands at the head (R205, R393)
  (∀ (s : State) (t : Fin 64) (ecc : List (BitVec 16 × Ecc)), s.canonical = true → s.down = false → s.tileRuns t = true →
    (s.tile t).drain ≠ none ∨ ((s.tile t).dq.head?).all (fun d => decide (d.op ≠ 3) || !s.tqHas t d.wd) = true →
    ∃ t_, exec (.drain t ecc) s = .next t_ ∧
      t_.tiles = s.tiles ∧
      t_.mem = s.mem ∧
      t_.sent = s.sent ∧
      (∀ reg : Nat, reg ∉ [Reg.TILE_STATUS t, Reg.SEQ_STATUS (2 * t.val), Reg.SEQ_STATUS (2 * t.val + 1)] → t_.rd reg =
        s.rd reg))

/-- Dense tiles and sequencer cores: control complete. Bounds, tile reset, a cleared HALT, a sequencer core run and reset,
and its machine timer. (06_dense_tiles.md, 10_queues_and_sync_objects.md.) -/
def Obligations.TileControlCommandsComplete : Prop :=
  -- BOUND_WRITE (R210)
  (∀ (s : State) (m : Master) (t : Fin 64) (b : Fin 8) (closed : Bool) (count : BitVec 16), s.canonical = true → s.admits
    m (Reg.TILE_BOUND t b) = true → s.tileAbsent t = false →
    ∃ t_, exec (.boundWrite m t b closed count) s = .next t_ ∧
      (closed = true → t_.fbit (Reg.TILE_BOUND_CLOSED t b) = true ∧ t_.fget (Reg.TILE_BOUND_COUNT t b) = count.toNat) ∧
      (closed = false → s.fbit (Reg.TILE_BOUND_CLOSED t b) = true → t_.fbit (Reg.TILE_BOUND_CLOSED t b) = false ∧ t_.fget
        (Reg.TILE_BOUND_COUNT t b) = count.toNat) ∧
      (closed = false → s.fbit (Reg.TILE_BOUND_CLOSED t b) = false → s.fget (Reg.TILE_BOUND_COUNT t b) ≤ count.toNat →
        t_.fget (Reg.TILE_BOUND_COUNT t b) = count.toNat ∧ t_.fbit (Reg.TILE_BOUND_CLOSED t b) = false) ∧
      (closed = false → s.fbit (Reg.TILE_BOUND_CLOSED t b) = false → count.toNat < s.fget (Reg.TILE_BOUND_COUNT t b) →
        t_.fget (Reg.TILE_BOUND_COUNT t b) = s.fget (Reg.TILE_BOUND_COUNT t b) ∧ t_.fbit (Reg.TILE_STATUS_CFG_IGNORED t)
        = true) ∧
      (s.boundRuns t b = [] → t_.mem = s.mem) ∧
      (closed = true → ∀ k ∈ s.boundRuns t b, ((t_.tile t).fetch[k]?).all (fun r => decide (r.final = some (min r.d.cnt2
        count.toNat))) = true) ∧
      (∀ x : Nat, x < 2 ^ 50 → t_.mget x = s.mget x) ∧
      (∀ reg : Nat, reg ∉ [Reg.TILE_STATUS t, Reg.SEQ_STATUS (2 * t.val), Reg.SEQ_STATUS (2 * t.val + 1), Reg.TILE_BOUND
        t b, Reg.TILE_ERR t, Reg.TILE_FETCH_GR t, Reg.TILE_RESPEC_CNT t, Reg.TILE_SQUASH_CNT t] ++ each 2 (Reg.TILE_RING
        t) ++ each 8 (Reg.TILE_TQ t) ++ memorySide ++ accessRegs (Reg.TILE_BOUND t b) → t_.rd reg = s.rd reg)) ∧
  -- BOUND_WRITE: an absent tile (R210)
  (∀ (s : State) (m : Master) (t : Fin 64) (b : Fin 8) (closed : Bool) (count : BitVec 16), s.canonical = true → s.admits
    m (Reg.TILE_BOUND t b) = true → s.tileAbsent t = true →
    ∃ t_, exec (.boundWrite m t b closed count) s = .next t_ ∧
      t_.tiles = s.tiles ∧
      t_.mem = s.mem ∧
      t_.sent = s.sent ∧
      (∀ reg : Nat, reg ∉ accessRegs (Reg.TILE_BOUND t b) → t_.rd reg = s.rd reg)) ∧
  -- TILE_RESET (R224)
  (∀ (s : State) (m : Master) (t : Fin 64), s.canonical = true → s.admits m (Reg.TILE_CTL t) = true → s.tileAbsent t =
    false →
    ∃ t_, exec (.tileReset m t) s = .next t_ ∧
      t_.fbit (Reg.TILE_CTL_EN t) = false ∧
      t_.fbit (Reg.TILE_STATUS_ERR t) = false ∧
      t_.fbit (Reg.TILE_STATUS_HALT0 t) = false ∧
      t_.fbit (Reg.TILE_STATUS_HALT1 t) = false ∧
      t_.rd (Reg.TILE_ERR t) = 0 ∧
      (∀ q : Fin 8, t_.rd (Reg.TILE_TQ t q) = 0 ∧ t_.rd (Reg.TILE_BOUND t q) = 0x80000000) ∧
      (∀ b : Fin 2, t_.rd (Reg.TILE_RING t b) = 0) ∧
      (t_.tile t).enginesIdle = true ∧
      (t_.tile t).tset = none ∧
      (t_.tile t).even.queue = [] ∧
      (t_.tile t).odd.queue = [] ∧
      t_.fbit (Reg.TILE_STATUS_IDLE t) = true ∧
      (∀ x : Nat, (∀ r ∈ (s.tile t).drained, x < r.1 ∨ r.1 + r.2 ≤ x) ∧ (x < obAddr t 0 0 ∨ obAddr t 0 0 + 2 ^ 20 + 2 ^
        16 ≤ x) → t_.mget x = s.mget x) ∧
      (∀ reg : Nat, reg ∉ [Reg.TILE_STATUS t, Reg.SEQ_STATUS (2 * t.val), Reg.SEQ_STATUS (2 * t.val + 1), Reg.TILE_CTL t,
        Reg.TILE_ERR t] ++ each 8 (Reg.TILE_BOUND t) ++ each 2 (Reg.TILE_RING t) ++ each 8 (Reg.TILE_TQ t) ++ accessRegs
        (Reg.TILE_CTL t) → t_.rd reg = s.rd reg)) ∧
  -- TILE_RESET: an absent tile (R224)
  (∀ (s : State) (m : Master) (t : Fin 64), s.canonical = true → s.admits m (Reg.TILE_CTL t) = true → s.tileAbsent t =
    true →
    ∃ t_, exec (.tileReset m t) s = .next t_ ∧
      t_.tiles = s.tiles ∧
      t_.mem = s.mem ∧
      t_.sent = s.sent ∧
      (∀ reg : Nat, reg ∉ accessRegs (Reg.TILE_CTL t) → t_.rd reg = s.rd reg)) ∧
  -- HALT_CLEAR (R223)
  (∀ (s : State) (m : Master) (t : Fin 64) (odd : Bool), s.canonical = true → s.admits m (Reg.TILE_STATUS t) = true →
    s.tileAbsent t = false →
    ∃ t_, exec (.haltClear m t odd) s = .next t_ ∧
      t_.fbit (haltRef t odd) = false ∧
      t_.sent = (if s.fbit (haltRef t odd) then .irq (tileSeq t odd) 6 0 false :: s.sent else s.sent) ∧
      t_.mem = s.mem ∧
      t_.tiles = s.tiles ∧
      (∀ reg : Nat, reg ∉ [Reg.TILE_STATUS t, Reg.SEQ_STATUS (2 * t.val), Reg.SEQ_STATUS (2 * t.val + 1)] ++ accessRegs
        (Reg.TILE_STATUS t) → t_.rd reg = s.rd reg)) ∧
  -- HALT_CLEAR: an absent tile (R223)
  (∀ (s : State) (m : Master) (t : Fin 64) (odd : Bool), s.canonical = true → s.admits m (Reg.TILE_STATUS t) = true →
    s.tileAbsent t = true →
    ∃ t_, exec (.haltClear m t odd) s = .next t_ ∧
      t_.tiles = s.tiles ∧
      t_.mem = s.mem ∧
      t_.sent = s.sent ∧
      (∀ reg : Nat, reg ∉ accessRegs (Reg.TILE_STATUS t) → t_.rd reg = s.rd reg)) ∧
  -- SEQ_RUN (R217, R482)
  (∀ (s : State) (m : Master) (i : Fin 128), s.canonical = true → s.admits m (Reg.SEQ_CTL i) = true → s.tileAbsent (i /
    2) = false → s.fbit (Reg.SEQ_CTL_RUN i) = false →
    ∃ t, exec (.seqRun m i) s = .next t ∧
      (¬ (s.recvState (1024 + i) = 1 ∨ s.recvState (1024 + i) = 3 ∨ s.recvState (1024 + i) = 4) → t.fbit (Reg.SEQ_CTL_RUN
        i) = true ∧ t.fbit (Reg.SEQ_STATUS_RUNNING i) = true ∧ t.seq i = ⟨BitVec.ofNat 64 (s.rd64 (Reg.SEQ_RESET_PC_LO
        i)), true, 4, none⟩) ∧
      (s.recvState (1024 + i) = 2 → t.recvState (1024 + i) = 0) ∧
      (s.recvState (1024 + i) = 1 ∨ s.recvState (1024 + i) = 3 ∨ s.recvState (1024 + i) = 4 → t.fbit (Reg.SEQ_CTL_RUN i)
        = false ∧ t.seqs = s.seqs ∧ (ignoredRef (Reg.SEQ_CTL i)).all (fun r => t.fbit r) = true) ∧
      t.mem = s.mem ∧
      t.sent = s.sent ∧
      (∀ reg : Nat, reg ∉ [Reg.BRX_STATUS (1024 + i.val), Reg.BRX_MISS (1024 + i.val), Reg.SEQ_CTL i, Reg.SEQ_STATUS i]
        ++ accessRegs (Reg.SEQ_CTL i) → t.rd reg = s.rd reg)) ∧
  -- SEQ_RUN: the tile is absent, or the core runs (R217, R482)
  (∀ (s : State) (m : Master) (i : Fin 128), s.canonical = true → s.admits m (Reg.SEQ_CTL i) = true → s.tileAbsent (i /
    2) = true ∨ s.fbit (Reg.SEQ_CTL_RUN i) = true →
    ∃ t, exec (.seqRun m i) s = .next t ∧
      t.seqs = s.seqs ∧
      t.mem = s.mem ∧
      t.sent = s.sent ∧
      (∀ reg : Nat, reg ∉ accessRegs (Reg.SEQ_CTL i) → t.rd reg = s.rd reg)) ∧
  -- SEQ_RESET (R217)
  (∀ (s : State) (m : Master) (i : Fin 128) (q : Fin 16) (k : Fin 64), s.canonical = true → s.admits m (Reg.SEQ_CTL i) =
    true → s.tileAbsent (i / 2) = false →
    ∃ t, exec (.seqReset m i) s = .next t ∧
      t.fbit (Reg.SEQ_CTL_RUN i) = false ∧
      t.fbit (Reg.SEQ_STATUS_RUNNING i) = false ∧
      t.fbit (Reg.SEQ_STATUS_WFI i) = false ∧
      t.fbit (Reg.Q_CFG_OPEN i q) = false ∧
      t.fbit (Reg.Q_CFG_IE i q) = false ∧
      t.fbit (Reg.Q_COMB_ARMED i k) = false ∧
      (s.fbit (Reg.SYNC_CTL_FROZEN i) = false → k.val < 48 → t.orphaned i k = true) ∧
      (s.fbit (Reg.SYNC_CTL_FROZEN i) = true → t.rd (Reg.SYNC_STATE i k) = s.rd (Reg.SYNC_STATE i k)) ∧
      t.rd (Reg.SYNC_VAL i k) = s.rd (Reg.SYNC_VAL i k) ∧
      (t.owner i).stalled = [] ∧
      (t.owner i).mc = none ∧
      (t.cvu i).ctl = 0 ∧
      (t.cvu i).stat = 0 ∧
      (t.cvu i).next = none ∧
      (t.seq i).frm = 4 ∧
      (t.seq i).lr = none ∧
      (t.seq i).start = (s.seq i).start ∧
      t.mem = s.mem ∧
      (∀ reg : Nat, reg ∉ [Reg.SEQ_CTL i, Reg.SEQ_STATUS i, Reg.Q_LOST_CNT i, Reg.Q_MC_FAIL i, Reg.Q_NOTICE_DROP_CNT i,
        Reg.Q_STATUS i, Reg.SYNC_ORPHAN_CNT i, Reg.MESH_NOROUTE_CNT] ++ each 16 (Reg.Q_CFG i) ++ each 64 (Reg.Q_COMB i)
        ++ each 64 (Reg.Q_COMB_CNT i) ++ each 16 (Reg.Q_STAT i) ++ each 48 (Reg.SYNC_STATE i) ++ each 96 (Reg.WATCH_W0 i)
        ++ each 16 Reg.IBL_DROP_CNT ++ accessRegs (Reg.SEQ_CTL i) → t.rd reg = s.rd reg)) ∧
  -- SEQ_RESET: the tile is absent (R217)
  (∀ (s : State) (m : Master) (i : Fin 128), s.canonical = true → s.admits m (Reg.SEQ_CTL i) = true → s.tileAbsent (i /
    2) = true →
    ∃ t, exec (.seqReset m i) s = .next t ∧
      t.owners = s.owners ∧
      t.seqs = s.seqs ∧
      t.mem = s.mem ∧
      t.sent = s.sent ∧
      (∀ reg : Nat, reg ∉ accessRegs (Reg.SEQ_CTL i) → t.rd reg = s.rd reg)) ∧
  -- MACHINE_TIMER (R215, R567)
  (∀ (s : State) (i : Fin 128), s.canonical = true → s.down = false → s.fbit (Reg.SEQ_CTL_RUN i) = true → s.rd64
    (Reg.SEQ_MTIMECMP_LO i) ≤ s.now →
    ∃ t, exec (.machineTimer i) s = .next t ∧
      t.sent = .irq i 3 0 true :: s.sent ∧
      (s.islState (i / 2) = 2 → t.islState (i / 2) = 3) ∧
      t.fbit (Reg.SEQ_STATUS_WFI i) = false ∧
      t.mem = s.mem ∧
      (∀ reg : Nat, reg ∉ each 102 Reg.PWR_ISL_STAT ++ each 128 Reg.SEQ_STATUS → t.rd reg = s.rd reg)) ∧
  -- MACHINE_TIMER: the core does not run, or its time has not come (R215, R567)
  (∀ (s : State) (i : Fin 128), s.canonical = true → s.down = false → s.fbit (Reg.SEQ_CTL_RUN i) = false ∨ s.now < s.rd64
    (Reg.SEQ_MTIMECMP_LO i) →
    ∃ t, exec (.machineTimer i) s = .next t ∧
      t = s ∧
      t.mem = s.mem)

/-- Conversion units, memory exchange and patrol scrub complete. A conversion unit converts a block; masters read and write
memory; patrol scrub of slices and local memories. (06_dense_tiles.md, 07_narrow_formats.md, 09_mesh_and_links.md,
12_memories.md.) -/
def Obligations.ConversionAndMemoryCommandsComplete : Prop :=
  -- CVU_ENCODE (R250)
  (∀ (s : State) (i : Fin 128) (stores : List (BitVec 12 × Word)) (ctl : BitVec 31), s.canonical = true → s.down = false
    → s.fbit (Reg.SEQ_CTL_RUN i) = true → s.tileAbsent (i / 2) = false → (s.cvu i).next = none → (s.cvu i).stalled = [] →
    stores.all (fun x => decide (x.1.toNat ≠ 0x180)) = true →
    ∃ t, exec (.cvuEncode i stores ctl) s = .next t ∧
      (t.cvu i).stalled = [] ∧
      (t.cvu i).data = (stores.foldl (fun (v : Cvu) x => v.store x.1.toNat x.2) (s.cvu i)).data ∧
      (t.cvu i).blk = (stores.foldl (fun (v : Cvu) x => v.store x.1.toNat x.2) (s.cvu i)).blk ∧
      (bits (2 * ctl.toNat) 2 1 ≠ 3 → bits (2 * ctl.toNat) 11 10 ≠ 3 → bit (t.cvu i).stat.toNat 31 = true) ∧
      ((bits (2 * ctl.toNat) 2 1 = 3 ∨ bits (2 * ctl.toNat) 11 10 = 3) → (t.cvu i).next = none ∧ bit (t.cvu i).stat.toNat
        7 = true ∧ (t.cvu i).ctl = (s.cvu i).ctl) ∧
      (bits (2 * ctl.toNat) 2 1 ≠ 3 → bits (2 * ctl.toNat) 11 10 ≠ 3 → (t.cvu i).next.map (fun x => x.2.1) = some
        (let c := 2 * ctl.toNat; let r := encodeBlock (bits c 2 1) ⟨bits c 11 10, bits c 15 12, bit c 9, bits c 31 24, bits c 23 16⟩ ((stores.foldl (fun (v : Cvu) x => v.store x.1.toNat x.2) (s.cvu i)).data.map BitVec.toNat); r.sForm (bits c 2 1) ++ List.replicate (48 - sFormBytes (bits c 2 1)) 0))
        ∧
      t.mem = s.mem ∧
      t.sent = s.sent ∧
      t.csr = s.csr) ∧
  -- CVU_ENCODE: a conversion runs: the accesses stall (R250) (R250)
  (∀ (s : State) (i : Fin 128) (stores : List (BitVec 12 × Word)) (ctl : BitVec 31), s.canonical = true → s.down = false
    → s.fbit (Reg.SEQ_CTL_RUN i) = true → s.tileAbsent (i / 2) = false → (s.cvu i).next ≠ none → (s.cvu i).stalled = [] →
    stores.all (fun x => cvuHeld x.1.toNat) = true →
    ∃ t, exec (.cvuEncode i stores ctl) s = .next t ∧
      (t.cvu i).stalled = stores.map (fun x => CvuOp.store x.1.toNat x.2) ++ [.store 0x180 (BitVec.ofNat 32 (2 *
        ctl.toNat))] ∧
      (t.cvu i).next = (s.cvu i).next ∧
      (t.cvu i).data = (s.cvu i).data ∧
      t.mem = s.mem ∧
      t.sent = s.sent ∧
      t.csr = s.csr) ∧
  -- CVU_ENCODE: the core does not run, or its tile is absent (R250)
  (∀ (s : State) (i : Fin 128) (stores : List (BitVec 12 × Word)) (ctl : BitVec 31), s.canonical = true → s.down = false
    → s.fbit (Reg.SEQ_CTL_RUN i) = false ∨ s.tileAbsent (i / 2) = true →
    ∃ t, exec (.cvuEncode i stores ctl) s = .next t ∧
      t = s ∧
      t.mem = s.mem) ∧
  -- CVU_DECODE (R250)
  (∀ (s : State) (i : Fin 128) (stores : List (BitVec 12 × Word)) (ctl : BitVec 31), s.canonical = true → s.down = false
    → s.fbit (Reg.SEQ_CTL_RUN i) = true → s.tileAbsent (i / 2) = false → (s.cvu i).next = none → (s.cvu i).stalled = [] →
    stores.all (fun x => decide (x.1.toNat ≠ 0x180)) = true →
    ∃ t, exec (.cvuDecode i stores ctl) s = .next t ∧
      (t.cvu i).stalled = [] ∧
      (t.cvu i).data = (stores.foldl (fun (v : Cvu) x => v.store x.1.toNat x.2) (s.cvu i)).data ∧
      (t.cvu i).blk = (stores.foldl (fun (v : Cvu) x => v.store x.1.toNat x.2) (s.cvu i)).blk ∧
      (bits (2 * ctl.toNat) 2 1 ≠ 3 → bits (2 * ctl.toNat) 11 10 ≠ 3 → bit (t.cvu i).stat.toNat 31 = true) ∧
      ((bits (2 * ctl.toNat) 2 1 = 3 ∨ bits (2 * ctl.toNat) 11 10 = 3) → (t.cvu i).next = none ∧ bit (t.cvu i).stat.toNat
        7 = true ∧ (t.cvu i).ctl = (s.cvu i).ctl) ∧
      (bits (2 * ctl.toNat) 2 1 ≠ 3 → bits (2 * ctl.toNat) 11 10 ≠ 3 → (t.cvu i).next.map (fun x => x.1) = some
        ((decodeSForm (bits (2 * ctl.toNat) 2 1) ((stores.foldl (fun (v : Cvu) x => v.store x.1.toNat x.2) (s.cvu
        i)).blk.take (sFormBytes (bits (2 * ctl.toNat) 2 1)))).map (BitVec.ofNat 32))) ∧
      t.mem = s.mem ∧
      t.sent = s.sent ∧
      t.csr = s.csr) ∧
  -- CVU_DECODE: a conversion runs: the accesses stall (R250) (R250)
  (∀ (s : State) (i : Fin 128) (stores : List (BitVec 12 × Word)) (ctl : BitVec 31), s.canonical = true → s.down = false
    → s.fbit (Reg.SEQ_CTL_RUN i) = true → s.tileAbsent (i / 2) = false → (s.cvu i).next ≠ none → (s.cvu i).stalled = [] →
    stores.all (fun x => cvuHeld x.1.toNat) = true →
    ∃ t, exec (.cvuDecode i stores ctl) s = .next t ∧
      (t.cvu i).stalled = stores.map (fun x => CvuOp.store x.1.toNat x.2) ++ [.store 0x180 (BitVec.ofNat 32 (2 *
        ctl.toNat + 1))] ∧
      (t.cvu i).next = (s.cvu i).next ∧
      (t.cvu i).data = (s.cvu i).data ∧
      t.mem = s.mem ∧
      t.sent = s.sent ∧
      t.csr = s.csr) ∧
  -- CVU_DECODE: the core does not run, or its tile is absent (R250)
  (∀ (s : State) (i : Fin 128) (stores : List (BitVec 12 × Word)) (ctl : BitVec 31), s.canonical = true → s.down = false
    → s.fbit (Reg.SEQ_CTL_RUN i) = false ∨ s.tileAbsent (i / 2) = true →
    ∃ t, exec (.cvuDecode i stores ctl) s = .next t ∧
      t = s ∧
      t.mem = s.mem) ∧
  -- CVU_CONVERSION_END (R250, R251)
  (∀ (s : State) (i : Fin 128) (d : List Word) (b : List Byte) (r : List Word) (keep st : Word), s.canonical = true →
    s.down = false → (s.cvu i).next = some (d, b, r, keep, st) →
    ∃ t, exec (.cvuConversionEnd i) s = .next t ∧
      ((s.cvu i).stalled = [] → (t.cvu i).data = d ∧ (t.cvu i).blk = b ∧ (t.cvu i).resid = r ∧ (t.cvu i).stat = (((s.cvu
        i).stat &&& keep &&& 0x7FFFFFFF) ||| st) ∧ (t.cvu i).next = none ∧ t.sent = (if bit st.toNat 1 && !bit (s.cvu
        i).stat.toNat 1 then .fault 13 3 i 0 :: s.sent else s.sent)) ∧
      t.mem = s.mem ∧
      t.csr = s.csr) ∧
  -- CVU_CONVERSION_END: a stalled write of CVU_CTL starts the next conversion (R250, R251)
  (∀ (s : State) (i : Fin 128) (d : List Word) (b : List Byte) (r : List Word) (keep st c : Word), s.canonical = true →
    s.down = false → (s.cvu i).next = some (d, b, r, keep, st) → (s.cvu i).stalled = [.store 0x180 c] → bits c.toNat 2 1
    ≠ 3 → bits c.toNat 11 10 ≠ 3 →
    ∃ t, exec (.cvuConversionEnd i) s = .next t ∧
      (t.cvu i).next ≠ none ∧
      (t.cvu i).stalled = [] ∧
      (t.cvu i).data = d ∧
      (t.cvu i).blk = b ∧
      (t.cvu i).resid = r ∧
      t.mem = s.mem ∧
      t.csr = s.csr) ∧
  -- CVU_CONVERSION_END: no conversion runs (R250, R251)
  (∀ (s : State) (i : Fin 128), s.canonical = true → s.down = false → (s.cvu i).next = none →
    ∃ t, exec (.cvuConversionEnd i) s = .next t ∧
      t = s ∧
      t.mem = s.mem) ∧
  -- EXCHANGE_READ (R11, R20, R221, R287)
  (∀ (s : State) (m : Master) (a : BitVec 48) (n : Fin 64) (ecc : Ecc) (bar2 : Bool), s.canonical = true → s.down = false
    → (m = .pcie → s.barOpen = true) → bar2 = false → privateOff m a.toNat = none → isCsr a.toNat = false → (m = .jtag →
    s.fbit Reg.TRU_STATUS_DBG_OPEN = true) → s.allows (whoOf m) 0 a.toNat (n.val + 1) = true → s.isLocal a.toNat = true →
    s.served (localPart a.toNat) = 0 →
    ∃ t, exec (.exchangeRead m a n ecc bar2) s = .next t ∧
      ((∀ rank device, s.decoded ((eccWords (unalias (localPart a.toNat)) (n.val + 1)).headD (unalias (localPart
        a.toNat))) ecc ≠ .ue rank device) → (eccWords (unalias (localPart a.toNat)) (n.val + 1)).any s.isBad = false →
        t.sent.head? = some (.readValue (leNat ((List.range (n.val + 1)).map fun i => if s.kvHides (whoOf m) ((unalias
        (localPart a.toNat)) + i) then 0 else s.mget ((unalias (localPart a.toNat)) + i))))) ∧
      ((∃ rank device, s.decoded ((eccWords (unalias (localPart a.toNat)) (n.val + 1)).headD (unalias (localPart
        a.toNat))) ecc = .ue rank device) ∨ (eccWords (unalias (localPart a.toNat)) (n.val + 1)).any s.isBad = true →
        t.sent.head? = some (.refused 5 a.toNat)) ∧
      t.mem = s.mem ∧
      (∀ reg : Nat, reg ∉ each2 137 64 Reg.Q_COMB ++ each2 137 64 Reg.Q_COMB_CNT ++ each2 137 16 Reg.Q_STAT ++ memorySide
        → t.rd reg = s.rd reg)) ∧
  -- EXCHANGE_READ: the region set refuses it (R397, R398) (R11, R20, R221, R287)
  (∀ (s : State) (m : Master) (a : BitVec 48) (n : Fin 64) (ecc : Ecc) (bar2 : Bool), s.canonical = true → s.down = false
    → (m = .pcie → s.barOpen = true) → bar2 = false → privateOff m a.toNat = none → isCsr a.toNat = false → (m = .jtag →
    s.fbit Reg.TRU_STATUS_DBG_OPEN = true) → s.allows (whoOf m) 0 a.toNat (n.val + 1) = false →
    ∃ t, exec (.exchangeRead m a n ecc bar2) s = .next t ∧
      t.sent.head? = some (if m = .pcie then .unsupported else .refused 4 a.toNat) ∧
      t.mem = s.mem ∧
      t.bad = s.bad ∧
      (∀ reg : Nat, reg ∉ memorySide → t.rd reg = s.rd reg)) ∧
  -- EXCHANGE_READ: the slices' hole, an absent core and an absent tile read zeros (R20, R219) (R11, R20, R221, R287)
  (∀ (s : State) (m : Master) (a : BitVec 48) (n : Fin 64) (ecc : Ecc) (bar2 : Bool), s.canonical = true → s.down = false
    → (m = .pcie → s.barOpen = true) → bar2 = false → privateOff m a.toNat = none → isCsr a.toNat = false → (m = .jtag →
    s.fbit Reg.TRU_STATUS_DBG_OPEN = true) → s.allows (whoOf m) 0 a.toNat (n.val + 1) = true → s.isLocal a.toNat = true →
    s.served (localPart a.toNat) = 9 →
    ∃ t, exec (.exchangeRead m a n ecc bar2) s = .next t ∧
      t.sent = .readValue (leNat (List.replicate (n.val + 1) 0)) :: s.sent ∧
      t.mem = s.mem ∧
      t.bad = s.bad ∧
      (∀ reg : Nat, reg ∉ each2 137 64 Reg.Q_COMB ++ each2 137 64 Reg.Q_COMB_CNT ++ each2 137 16 Reg.Q_STAT ++ memorySide
        → t.rd reg = s.rd reg)) ∧
  -- EXCHANGE_READ: an unmapped address, or an island that is off: NO_TARGET (R11, R20, R221, R287)
  (∀ (s : State) (m : Master) (a : BitVec 48) (n : Fin 64) (ecc : Ecc) (bar2 : Bool), s.canonical = true → s.down = false
    → (m = .pcie → s.barOpen = true) → bar2 = false → privateOff m a.toNat = none → isCsr a.toNat = false → (m = .jtag →
    s.fbit Reg.TRU_STATUS_DBG_OPEN = true) → s.allows (whoOf m) 0 a.toNat (n.val + 1) = true → s.isLocal a.toNat = true →
    s.served (localPart a.toNat) = 3 →
    ∃ t, exec (.exchangeRead m a n ecc bar2) s = .next t ∧
      t.sent = (if m = .pcie then .unsupported else .refused 3 a.toNat) :: s.sent ∧
      t.mem = s.mem ∧
      t.bad = s.bad ∧
      (∀ reg : Nat, reg ∉ each2 137 64 Reg.Q_COMB ++ each2 137 64 Reg.Q_COMB_CNT ++ each2 137 16 Reg.Q_STAT ++ memorySide
        → t.rd reg = s.rd reg)) ∧
  -- EXCHANGE_READ: another device's memory: an RD_REQ, or NO_TARGET without a route (R602) (R11, R20, R221, R287)
  (∀ (s : State) (m : Master) (a : BitVec 48) (n : Fin 64) (ecc : Ecc) (bar2 : Bool), s.canonical = true → s.down = false
    → (m = .pcie → s.barOpen = true) → bar2 = false → privateOff m a.toNat = none → isCsr a.toNat = false → (m = .jtag →
    s.fbit Reg.TRU_STATUS_DBG_OPEN = true) → s.allows (whoOf m) 0 a.toNat (n.val + 1) = true → s.isLocal a.toNat = false
    →
    ∃ t, exec (.exchangeRead m a n ecc bar2) s = .next t ∧
      (s.routeFor (s.addrDev a.toNat) (s.halfOfAddr (localPart a.toNat)) = false → t.sent = (if m = .pcie then
        .unsupported else .refused 3 a.toNat) :: s.sent ∧ (t.rd Reg.MESH_NOROUTE_CNT).toNat = satCount 32 (s.rd
        Reg.MESH_NOROUTE_CNT).toNat 1) ∧
      t.mem = s.mem ∧
      t.bad = s.bad ∧
      (∀ reg : Nat, reg ∉ each2 137 64 Reg.Q_COMB ++ each2 137 64 Reg.Q_COMB_CNT ++ each2 137 16 Reg.Q_STAT ++ memorySide
        → t.rd reg = s.rd reg)) ∧
  -- EXCHANGE_READ: an aligned 32-bit read of a register (R11) (R11, R20, R221, R287)
  (∀ (s : State) (m : Master) (a : BitVec 48) (n : Fin 64) (ecc : Ecc) (bar2 : Bool), s.canonical = true → s.down = false
    → (m = .pcie → s.barOpen = true) → bar2 = false → privateOff m a.toNat = none → isCsr a.toNat = true → s.isLocal
    a.toNat = true → s.regOff (csrOff a.toNat) = false → n.val = 3 → csrOff a.toNat % 4 = 0 → s.regReached m (csrOff
    a.toNat) = true → regIsland (csrOff a.toNat) = none →
    ∃ t, exec (.exchangeRead m a n ecc bar2) s = .next t ∧
      t.sent = .readValue ((s.awake m).regRead m (csrOff a.toNat)).toNat :: s.sent ∧
      (pairLow (csrOff a.toNat) = true → t.latched (csrOff a.toNat + 4) = some (s.live (csrOff a.toNat + 4))) ∧
      t.mem = s.mem ∧
      (∀ reg : Nat, reg ∉ each2 137 64 Reg.Q_COMB ++ each2 137 64 Reg.Q_COMB_CNT ++ each2 137 16 Reg.Q_STAT ++ memorySide
        → t.rd reg = s.rd reg)) ∧
  -- EXCHANGE_READ: a sync port (R353, R367) (R11, R20, R221, R287)
  (∀ (s : State) (m : Master) (a : BitVec 48) (n : Fin 64) (ecc : Ecc) (bar2 : Bool) (o off : Nat), s.canonical = true →
    s.down = false → (m = .pcie → s.barOpen = true) → bar2 = false → privateOff m a.toNat = some (o, off) → 0x80000 ≤ off
    → off < 0x180000 →
    ∃ t, exec (.exchangeRead m a n ecc bar2) s = .next t ∧
      (off % 16 = 0 → t = (s.awake m).portOp o ((off - 0x80000) / 16) 4 0) ∧
      (off % 16 ≠ 0 → t.sent = .readValue 0 :: s.sent) ∧
      t.mem = s.mem ∧
      (∀ reg : Nat, reg ∉ memorySide → t.rd reg = s.rd reg)) ∧
  -- EXCHANGE_READ: its own local memory (R216) (R11, R20, R221, R287)
  (∀ (s : State) (m : Master) (a : BitVec 48) (n : Fin 64) (ecc : Ecc) (bar2 : Bool) (i : Fin 128) (off : Nat),
    s.canonical = true → s.down = false → m = .seq i → bar2 = false → privateOff m a.toNat = some (i.val, off) → off +
    n.val < 0x40000 → s.served (ownAddr i off) = 0 → s.fbit Reg.INST_STATUS_COCOON = false →
    ∃ t, exec (.exchangeRead m a n ecc bar2) s = .next t ∧
      ((∀ rank device, s.decoded ((eccWords (ownAddr i off) (n.val + 1)).headD (ownAddr i off)) ecc ≠ .ue rank device) →
        (eccWords (ownAddr i off) (n.val + 1)).any s.isBad = false → t.sent.head? = some (.readValue (leNat ((List.range
        (n.val + 1)).map fun k => if s.kvHides (.seq i) ((ownAddr i off) + k) then 0 else s.mget ((ownAddr i off) +
        k))))) ∧
      t.mem = s.mem ∧
      (∀ reg : Nat, reg ∉ each2 137 64 Reg.Q_COMB ++ each2 137 64 Reg.Q_COMB_CNT ++ each2 137 16 Reg.Q_STAT ++ memorySide
        → t.rd reg = s.rd reg)) ∧
  -- EXCHANGE_READ: the host's response pages (R286, R287) (R11, R20, R221, R287)
  (∀ (s : State) (m : Master) (a : BitVec 48) (n : Fin 64) (ecc : Ecc) (bar2 : Bool), s.canonical = true → s.down = false
    → (m = .pcie → s.barOpen = true) → bar2 = true →
    ∃ t, exec (.exchangeRead m a n ecc bar2) s = .next t ∧
      (m ≠ .pcie → t.sent = s.sent) ∧
      (m = .pcie → t = s.bar2Read a.toNat (n.val + 1)) ∧
      t.mem = s.mem ∧
      t.counter = s.counter ∧
      (∀ reg : Nat, reg ∉ each2 137 64 Reg.Q_COMB ++ each2 137 64 Reg.Q_COMB_CNT ++ each2 137 16 Reg.Q_STAT ++ memorySide
        → t.rd reg = s.rd reg)) ∧
  -- EXCHANGE_READ: any address and any master (R11, R20, R221, R287)
  (∀ (s : State) (m : Master) (a : BitVec 48) (n : Fin 64) (ecc : Ecc) (bar2 : Bool), s.canonical = true → s.down = false
    →
    ∃ t, exec (.exchangeRead m a n ecc bar2) s = .next t ∧
      (m = .pcie → s.barOpen = false → t.sent = .unsupported :: s.sent ∧ t.mem = s.mem) ∧
      t.mem = s.mem ∧
      t.counter = s.counter ∧
      (∀ reg : Nat, reg ∉ each2 137 64 Reg.Q_COMB ++ each2 137 64 Reg.Q_COMB_CNT ++ each2 137 16 Reg.Q_STAT ++ memorySide
        → t.rd reg = s.rd reg)) ∧
  -- EXCHANGE_WRITE (R11, R20, R221, R392, R402)
  (∀ (s : State) (m : Master) (a : BitVec 48) (data : List (Option Byte)) (ecc : Ecc) (i : Nat), s.canonical = true →
    s.down = false → (m = .pcie → s.barOpen = true) → privateOff m a.toNat = none → isCsr a.toNat = false → (m = .jtag →
    s.fbit Reg.TRU_STATUS_DBG_OPEN = true) → 0 < data.length → data.length ≤ 64 → data.getD 0 none ≠ none → s.isLocal
    a.toNat = true → s.allowsBytes (whoOf m) (if isAlias (localPart a.toNat) then 3 else 1) ((List.range data.length).map
    fun i => (a.toNat + i, 0)) = true → (localPart a.toNat) % 64 + data.length ≤ 64 → s.served (localPart a.toNat) = 0 →
    (match placeOf (localPart a.toNat) with | .window _ _ => false | _ => true) = true → ecc = .none → (eccWords
    ((unalias (localPart a.toNat)) / 64 * 64) 64).any s.isBad = false → kvUnits.any (fun x => s.fbit (Reg.ING_KV_CFG_EN
    x.1 x.2)) = false → i < data.length →
    ∃ t, exec (.exchangeWrite m a data ecc) s = .next t ∧
      t.mget (unalias ((localPart a.toNat) + i)) =
        (match data.getD i none with | some b => s.aliasByte ((localPart a.toNat) + i) b | none => s.mget (unalias ((localPart a.toNat) + i)))
        ∧
      (∀ x : Nat, (∀ k < data.length, x ≠ unalias ((localPart a.toNat) + k)) → t.mget x = s.mget x) ∧
      t.sent.head? = some .ack ∧
      (∀ reg : Nat, reg ∉ memorySide → t.rd reg = s.rd reg)) ∧
  -- EXCHANGE_WRITE: the read of a word covered in part finds an uncorrectable error (R393, R404) (R11, R20, R221, R392, R402)
  (∀ (s : State) (m : Master) (a : BitVec 48) (data : List (Option Byte)) (ecc : Ecc), s.canonical = true → s.down =
    false → (m = .pcie → s.barOpen = true) → privateOff m a.toNat = none → isCsr a.toNat = false → (m = .jtag → s.fbit
    Reg.TRU_STATUS_DBG_OPEN = true) → data.length = 1 → data.getD 0 none ≠ none → s.isLocal a.toNat = true →
    s.allowsBytes (whoOf m) (if isAlias (localPart a.toNat) then 3 else 1) ((List.range data.length).map fun i =>
    (a.toNat + i, 0)) = true → s.served (localPart a.toNat) = 0 →
    (match placeOf (localPart a.toNat) with | .window _ _ => false | _ => true) = true → kvUnits.any (fun x => s.fbit
    (Reg.ING_KV_CFG_EN x.1 x.2)) = false → (eccWords (unalias (localPart a.toNat)) 1).any s.isBad = true ∨ (∃ rank
    device, ecc = .ue rank device) →
    ∃ t, exec (.exchangeWrite m a data ecc) s = .next t ∧
      t.sent.head? = some (.refused 5 a.toNat) ∧
      t.mem = s.mem ∧
      (∀ reg : Nat, reg ∉ memorySide → t.rd reg = s.rd reg)) ∧
  -- EXCHANGE_WRITE: an unmapped address, or an island that is off: NO_TARGET (R11, R20, R221, R392, R402)
  (∀ (s : State) (m : Master) (a : BitVec 48) (data : List (Option Byte)) (ecc : Ecc), s.canonical = true → s.down =
    false → (m = .pcie → s.barOpen = true) → privateOff m a.toNat = none → isCsr a.toNat = false → (m = .jtag → s.fbit
    Reg.TRU_STATUS_DBG_OPEN = true) → 0 < data.length → data.length ≤ 64 → data.getD 0 none ≠ none → s.isLocal a.toNat =
    true → s.allowsBytes (whoOf m) (if isAlias (localPart a.toNat) then 3 else 1) ((List.range data.length).map fun i =>
    (a.toNat + i, 0)) = true → s.served (localPart a.toNat) = 3 → (List.range data.length).all (fun i => decide (s.served
    (localPart ((a.toNat + i) % 2 ^ 48)) = 3)) = true → (localPart a.toNat) % 64 + data.length ≤ 64 →
    ∃ t, exec (.exchangeWrite m a data ecc) s = .next t ∧
      t.sent = (if m = .pcie then .unsupported else .refused 3 a.toNat) :: s.sent ∧
      t.mem = s.mem ∧
      t.bad = s.bad ∧
      (∀ reg : Nat, reg ∉ memorySide → t.rd reg = s.rd reg)) ∧
  -- EXCHANGE_WRITE: a neuron core's window takes no write while its core is enabled (R91) (R11, R20, R221, R392, R402)
  (∀ (s : State) (m : Master) (a : BitVec 48) (data : List (Option Byte)) (ecc : Ecc) (n off i : Nat), s.canonical = true
    → s.down = false → (m = .pcie → s.barOpen = true) → privateOff m a.toNat = none → isCsr a.toNat = false → (m = .jtag
    → s.fbit Reg.TRU_STATUS_DBG_OPEN = true) → 0 < data.length → data.length ≤ 64 → data.getD 0 none ≠ none → s.isLocal
    a.toNat = true → s.allowsBytes (whoOf m) (if isAlias (localPart a.toNat) then 3 else 1) ((List.range data.length).map
    fun i => (a.toNat + i, 0)) = true → (localPart a.toNat) % 64 + data.length ≤ 64 → s.served (localPart a.toNat) = 0 →
    placeOf (localPart a.toNat) = .window n off → ecc = .none → (eccWords ((unalias (localPart a.toNat)) / 64 * 64)
    64).any s.isBad = false → kvUnits.any (fun x => s.fbit (Reg.ING_KV_CFG_EN x.1 x.2)) = false → i < data.length →
    ∃ t, exec (.exchangeWrite m a data ecc) s = .next t ∧
      (s.fbit (Reg.NC_CTL_EN n) = false → ∀ b ∈ data.getD i none, t.mget ((localPart a.toNat) + i) = b) ∧
      (s.fbit (Reg.NC_CTL_EN n) = true → t.mem = s.mem ∧ (∀ b ∈ data.getD i none, s.mget ((localPart a.toNat) + i) ≠ b →
        t.fbit (Reg.NC_STATUS_CFG_IGNORED n) = true)) ∧
      (∀ x : Nat, (∀ k < data.length, x ≠ (localPart a.toNat) + k) → t.mget x = s.mget x) ∧
      t.sent.head? = some .ack ∧
      (∀ reg : Nat, reg ∉ memorySide → t.rd reg = s.rd reg)) ∧
  -- EXCHANGE_WRITE: the region set refuses it (R397, R398) (R11, R20, R221, R392, R402)
  (∀ (s : State) (m : Master) (a : BitVec 48) (data : List (Option Byte)) (ecc : Ecc), s.canonical = true → s.down =
    false → (m = .pcie → s.barOpen = true) → privateOff m a.toNat = none → isCsr a.toNat = false → m ≠ .jtag → 0 <
    data.length → data.getD 0 none ≠ none → s.allows (whoOf m) (if isAlias (localPart a.toNat) then 3 else 1) (a.toNat /
    4096 * 4096) 1 = false →
    ∃ t, exec (.exchangeWrite m a data ecc) s = .next t ∧
      t.mem = s.mem ∧
      t.bad = s.bad ∧
      (m = .pcie → t.sent.filter (· = .ack) = s.sent.filter (· = .ack)) ∧
      (m ≠ .pcie → t.sent.head? = some (.refused 4 a.toNat)) ∧
      (∀ reg : Nat, reg ∉ memorySide → t.rd reg = s.rd reg)) ∧
  -- EXCHANGE_WRITE: a sync port (R353, R356, R367) (R11, R20, R221, R392, R402)
  (∀ (s : State) (m : Master) (a : BitVec 48) (data : List (Option Byte)) (ecc : Ecc) (o off : Nat) (b0 b1 b2 b3 : Byte),
    s.canonical = true → s.down = false → (m = .pcie → s.barOpen = true) → privateOff m a.toNat = some (o, off) → 0x80000
    ≤ off → off < 0x180000 → off % 4 = 0 → data = [some b0, some b1, some b2, some b3] →
    ∃ t, exec (.exchangeWrite m a data ecc) s = .next t ∧
      t = ((s.awake m).portOp o ((off - 0x80000) / 16) (off % 16 / 4) (leNat [b0, b1, b2, b3])).emit .ack ∧
      t.mem = s.mem ∧
      (∀ reg : Nat, reg ∉ memorySide → t.rd reg = s.rd reg)) ∧
  -- EXCHANGE_WRITE: its own local memory (R216) (R11, R20, R221, R392, R402)
  (∀ (s : State) (m : Master) (a : BitVec 48) (data : List (Option Byte)) (ecc : Ecc) (i : Fin 128) (off k : Nat),
    s.canonical = true → s.down = false → m = .seq i → privateOff m a.toNat = some (i.val, off) → 0 < data.length →
    data.length ≤ 64 → off % 64 + data.length ≤ 64 → off + data.length ≤ 0x40000 → s.served (ownAddr i off) = 0 → ecc =
    .none → (eccWords (ownAddr i off / 64 * 64) 64).any s.isBad = false → kvUnits.any (fun x => s.fbit (Reg.ING_KV_CFG_EN
    x.1 x.2)) = false → k < data.length →
    ∃ t, exec (.exchangeWrite m a data ecc) s = .next t ∧
      (∀ b ∈ data.getD k none, t.mget (ownAddr i (off + k)) = b) ∧
      (∀ x : Nat, (∀ j < data.length, x ≠ ownAddr i (off + j)) → t.mget x = s.mget x) ∧
      (∀ reg : Nat, reg ∉ memorySide → t.rd reg = s.rd reg)) ∧
  -- EXCHANGE_WRITE: any address and any master (R11, R20, R221, R392, R402)
  (∀ (s : State) (m : Master) (a : BitVec 48) (data : List (Option Byte)) (ecc : Ecc), s.canonical = true → s.down =
    false →
    ∃ t, exec (.exchangeWrite m a data ecc) s = .next t ∧
      (m = .pcie → s.barOpen = false → t.sent = .unsupported :: s.sent ∧ t.mem = s.mem) ∧
      (isCsr a.toNat = false → (privateOff m a.toNat).all (fun x => decide (x.2 < 0x60000 ∨ 0x61000 ≤ x.2)) = true → ∀ x
        : Nat, (∀ i : Fin 64, x ≠ unalias (localPart ((a.toNat + i) % 2 ^ 48)) ∧ x ≠ ownAddr ((coreOwner m).getD 0)
        ((a.toNat + i) % 2 ^ 48 - 0x83000000000)) → t.mget x = s.mget x) ∧
      (∀ reg : Nat, reg ∉ (List.range 8).map (fun i => csrOff a.toNat + i) ++ (List.range 8).map (fun i => ownBlock
        ((coreOwner m).getD 0) + (a.toNat - 0x83000060000) + i) ++ writeSide → t.rd reg = s.rd reg)) ∧
  -- SLICE_PATROL_SCRUB (R403)
  (∀ (s : State) (i : Fin 256) (g : Fin 49152) (ecc : Ecc), s.canonical = true → s.down = false → s.tileAbsent (i / 4) =
    false → s.islState (72 + i / 128) = 0 →
    ∃ t, exec (.slicePatrolScrub i g ecc) s = .next t ∧
      (ecc = .none → ((eccWords (sliceAddr i g) 64).any s.isBad = false) → t = s) ∧
      (∀ rank : Fin 16, ∀ device : Fin 64, ecc = .ce rank device → ((eccWords (sliceAddr i g) 64).any s.isBad = false) →
        (t.rd (Reg.TILE_SLC_CE_CNT (i / 4) (i % 4))).toNat = satCount 32 (s.rd (Reg.TILE_SLC_CE_CNT (i / 4) (i %
        4))).toNat 1 ∧ t.bad = s.bad) ∧
      (∀ rank : Fin 16, ∀ device : Fin 64, ecc = .ue rank device ∨ ecc = .sym rank device → ((eccWords (sliceAddr i g)
        64).any s.isBad = false) → (t.rd (Reg.TILE_SLC_UE_CNT (i / 4) (i % 4))).toNat = satCount 32 (s.rd
        (Reg.TILE_SLC_UE_CNT (i / 4) (i % 4))).toNat 1) ∧
      (∀ rank : Fin 16, ∀ device : Fin 64, ecc = .ue rank device ∨ ecc = .sym rank device → t.isBad ((eccWords (sliceAddr
        i g) 64).headD (sliceAddr i g)) = true) ∧
      t.mem = s.mem ∧
      (∀ reg : Nat, reg ∉ memorySide → t.rd reg = s.rd reg)) ∧
  -- SLICE_PATROL_SCRUB: an absent tile, or an island that does not run (R403)
  (∀ (s : State) (i : Fin 256) (g : Fin 49152) (ecc : Ecc), s.canonical = true → s.down = false → s.tileAbsent (i / 4) =
    true ∨ s.islState (72 + i / 128) ≠ 0 →
    ∃ t, exec (.slicePatrolScrub i g ecc) s = .next t ∧
      t = s ∧
      t.mem = s.mem) ∧
  -- SEQ_PATROL_SCRUB (R403)
  (∀ (s : State) (i : Fin 128) (w : BitVec 16) (ecc : Ecc), s.canonical = true → s.down = false → s.tileAbsent (i / 2) =
    false → s.islState (i / 2) = 0 →
    ∃ t, exec (.seqPatrolScrub i w ecc) s = .next t ∧
      (ecc = .none → ((eccWords (0x83100000000 + i * 0x40000 + 4 * w.toNat) 4).any s.isBad = false) → t = s) ∧
      (∀ rank : Fin 16, ∀ device : Fin 64, ecc = .ce rank device → ((eccWords (0x83100000000 + i * 0x40000 + 4 * w.toNat)
        4).any s.isBad = false) → (t.rd (Reg.SEQ_CE_CNT i)).toNat = satCount 32 (s.rd (Reg.SEQ_CE_CNT i)).toNat 1 ∧ t.bad
        = s.bad) ∧
      (∀ rank : Fin 16, ∀ device : Fin 64, ecc = .ue rank device ∨ ecc = .sym rank device → ((eccWords (0x83100000000 + i
        * 0x40000 + 4 * w.toNat) 4).any s.isBad = false) → (t.rd (Reg.SEQ_UE_CNT i)).toNat = satCount 32 (s.rd
        (Reg.SEQ_UE_CNT i)).toNat 1) ∧
      (∀ rank : Fin 16, ∀ device : Fin 64, ecc = .ue rank device ∨ ecc = .sym rank device → t.isBad ((eccWords
        (0x83100000000 + i * 0x40000 + 4 * w.toNat) 4).headD (0x83100000000 + i * 0x40000 + 4 * w.toNat)) = true) ∧
      t.mem = s.mem ∧
      (∀ reg : Nat, reg ∉ memorySide → t.rd reg = s.rd reg)) ∧
  -- SEQ_PATROL_SCRUB: an absent tile, or an island that does not run (R403)
  (∀ (s : State) (i : Fin 128) (w : BitVec 16) (ecc : Ecc), s.canonical = true → s.down = false → s.tileAbsent (i / 2) =
    true ∨ s.islState (i / 2) ≠ 0 →
    ∃ t, exec (.seqPatrolScrub i w ecc) s = .next t ∧
      t = s ∧
      t.mem = s.mem)

/-- Token engine: the KV units complete. The five operations of a KV unit with their refusals, and its disable.
(08_token_engine.md.) -/
def Obligations.ValueStoreCommandsComplete : Prop :=
  -- KV_APPEND (R268)
  (∀ (s : State) (m : Master) (i : Fin 32) (u : Fin 2) (n : BitVec 8), s.canonical = true → s.admits m (Reg.ING_KV_CMD i
    u) = true → s.fbit (Reg.ING_KV_CFG_EN i u) = true →
    ∃ t, exec (.kvAppend m i u n) s = .next t ∧
      (0 < n.toNat → (s.fget (Reg.ING_KV_STAT_SPEC i u)) + n.toNat ≤ s.fget (Reg.ING_KV_STRIDE_SPEC_MAX i u) → (s.fget
        (Reg.ING_KV_STAT_SPEC i u)) + n.toNat ≤ s.fget (Reg.ING_KV_CFG_CAP i u) → (s.rd (Reg.ING_KV_PTR i u)).toNat +
        (s.fget (Reg.ING_KV_STAT_SPEC i u)) + n.toNat ≤ (s.rd (Reg.ING_KV_OLDEST i u)).toNat + s.fget (Reg.ING_KV_CFG_CAP
        i u) → t.fget (Reg.ING_KV_STAT_SPEC i u) = (s.fget (Reg.ING_KV_STAT_SPEC i u)) + n.toNat ∧ t.rd (Reg.ING_KV_PTR i
        u) = s.rd (Reg.ING_KV_PTR i u) ∧ t.rd (Reg.ING_KV_OLDEST i u) = s.rd (Reg.ING_KV_OLDEST i u)) ∧
      (0 < n.toNat → (s.fget (Reg.ING_KV_STAT_SPEC i u)) + n.toNat ≤ s.fget (Reg.ING_KV_STRIDE_SPEC_MAX i u) → (s.fget
        (Reg.ING_KV_STAT_SPEC i u)) + n.toNat ≤ s.fget (Reg.ING_KV_CFG_CAP i u) → (s.rd (Reg.ING_KV_OLDEST i u)).toNat +
        s.fget (Reg.ING_KV_CFG_CAP i u) < (s.rd (Reg.ING_KV_PTR i u)).toNat + (s.fget (Reg.ING_KV_STAT_SPEC i u)) +
        n.toNat → s.fbit (Reg.ING_KV_CFG_MODE i u) = false → t.fget (Reg.ING_KV_STAT_SPEC i u) = (s.fget
        (Reg.ING_KV_STAT_SPEC i u)) + n.toNat ∧ (t.rd (Reg.ING_KV_OLDEST i u)).toNat = ((s.rd (Reg.ING_KV_PTR i u)).toNat
        + (s.fget (Reg.ING_KV_STAT_SPEC i u)) + n.toNat - s.fget (Reg.ING_KV_CFG_CAP i u)) % 2 ^ 32 ∧ t.rd
        (Reg.ING_KV_PTR i u) = s.rd (Reg.ING_KV_PTR i u)) ∧
      (s.fbit (Reg.ING_KV_CFG_MODE i u) = true → (s.rd (Reg.ING_KV_OLDEST i u)).toNat + s.fget (Reg.ING_KV_CFG_CAP i u) <
        (s.rd (Reg.ING_KV_PTR i u)).toNat + (s.fget (Reg.ING_KV_STAT_SPEC i u)) + n.toNat → t.fbit (Reg.ING_KV_STAT_FULL
        i u) = true ∧ t.fbit (Reg.ING_KV_STAT_REFUSED i u) = true ∧ (t.rd (Reg.ING_KV_REFUSE_CNT i u)).toNat = satCount
        32 (s.rd (Reg.ING_KV_REFUSE_CNT i u)).toNat 1 ∧ t.rd (Reg.ING_KV_PTR i u) = s.rd (Reg.ING_KV_PTR i u) ∧ t.rd
        (Reg.ING_KV_OLDEST i u) = s.rd (Reg.ING_KV_OLDEST i u) ∧ t.fget (Reg.ING_KV_STAT_SPEC i u) = (s.fget
        (Reg.ING_KV_STAT_SPEC i u))) ∧
      (n.toNat = 0 ∨ s.fget (Reg.ING_KV_STRIDE_SPEC_MAX i u) < (s.fget (Reg.ING_KV_STAT_SPEC i u)) + n.toNat ∨ s.fget
        (Reg.ING_KV_CFG_CAP i u) < (s.fget (Reg.ING_KV_STAT_SPEC i u)) + n.toNat → t.fbit (Reg.ING_KV_STAT_REFUSED i u) =
        true ∧ (t.rd (Reg.ING_KV_REFUSE_CNT i u)).toNat = satCount 32 (s.rd (Reg.ING_KV_REFUSE_CNT i u)).toNat 1 ∧ t.rd
        (Reg.ING_KV_PTR i u) = s.rd (Reg.ING_KV_PTR i u) ∧ t.rd (Reg.ING_KV_OLDEST i u) = s.rd (Reg.ING_KV_OLDEST i u) ∧
        t.fget (Reg.ING_KV_STAT_SPEC i u) = (s.fget (Reg.ING_KV_STAT_SPEC i u))) ∧
      t.mem = s.mem ∧
      t.sent = s.sent ∧
      (∀ reg : Nat, reg ∉ [Reg.ING_KV_OLDEST i u, Reg.ING_KV_PTR i u, Reg.ING_KV_STAT i u, Reg.ING_KV_REFUSE_CNT i u] ++
        accessRegs (Reg.ING_KV_CMD i u) → t.rd reg = s.rd reg)) ∧
  -- KV_APPEND: EN = 0: ignored, and REFUSED (R272) (R268)
  (∀ (s : State) (m : Master) (i : Fin 32) (u : Fin 2) (n : BitVec 8), s.canonical = true → s.admits m (Reg.ING_KV_CMD i
    u) = true → s.fbit (Reg.ING_KV_CFG_EN i u) = false →
    ∃ t, exec (.kvAppend m i u n) s = .next t ∧
      t.fbit (Reg.ING_KV_STAT_REFUSED i u) = true ∧
      t.rd (Reg.ING_KV_PTR i u) = s.rd (Reg.ING_KV_PTR i u) ∧
      t.rd (Reg.ING_KV_OLDEST i u) = s.rd (Reg.ING_KV_OLDEST i u) ∧
      t.fget (Reg.ING_KV_STAT_SPEC i u) = (s.fget (Reg.ING_KV_STAT_SPEC i u)) ∧
      t.rd (Reg.ING_KV_REFUSE_CNT i u) = s.rd (Reg.ING_KV_REFUSE_CNT i u) ∧
      t.mem = s.mem ∧
      t.sent = s.sent ∧
      (∀ reg : Nat, reg ∉ [Reg.ING_KV_STAT i u] ++ accessRegs (Reg.ING_KV_CMD i u) → t.rd reg = s.rd reg)) ∧
  -- KV_ACCEPT (R268)
  (∀ (s : State) (m : Master) (i : Fin 32) (u : Fin 2) (n : BitVec 8), s.canonical = true → s.admits m (Reg.ING_KV_CMD i
    u) = true → s.fbit (Reg.ING_KV_CFG_EN i u) = true →
    ∃ t, exec (.kvAccept m i u n) s = .next t ∧
      (n.toNat ≤ (s.fget (Reg.ING_KV_STAT_SPEC i u)) → (t.rd (Reg.ING_KV_PTR i u)).toNat = ((s.rd (Reg.ING_KV_PTR i
        u)).toNat + n.toNat) % 2 ^ 32 ∧ t.fget (Reg.ING_KV_STAT_SPEC i u) = 0) ∧
      ((s.fget (Reg.ING_KV_STAT_SPEC i u)) < n.toNat → t.fbit (Reg.ING_KV_STAT_REFUSED i u) = true ∧ (t.rd
        (Reg.ING_KV_REFUSE_CNT i u)).toNat = satCount 32 (s.rd (Reg.ING_KV_REFUSE_CNT i u)).toNat 1 ∧ t.rd
        (Reg.ING_KV_PTR i u) = s.rd (Reg.ING_KV_PTR i u) ∧ t.rd (Reg.ING_KV_OLDEST i u) = s.rd (Reg.ING_KV_OLDEST i u) ∧
        t.fget (Reg.ING_KV_STAT_SPEC i u) = (s.fget (Reg.ING_KV_STAT_SPEC i u))) ∧
      t.rd (Reg.ING_KV_OLDEST i u) = s.rd (Reg.ING_KV_OLDEST i u) ∧
      t.mem = s.mem ∧
      t.sent = s.sent ∧
      (∀ reg : Nat, reg ∉ [Reg.ING_KV_OLDEST i u, Reg.ING_KV_PTR i u, Reg.ING_KV_STAT i u, Reg.ING_KV_REFUSE_CNT i u] ++
        accessRegs (Reg.ING_KV_CMD i u) → t.rd reg = s.rd reg)) ∧
  -- KV_ACCEPT: EN = 0: ignored, and REFUSED (R272) (R268)
  (∀ (s : State) (m : Master) (i : Fin 32) (u : Fin 2) (n : BitVec 8), s.canonical = true → s.admits m (Reg.ING_KV_CMD i
    u) = true → s.fbit (Reg.ING_KV_CFG_EN i u) = false →
    ∃ t, exec (.kvAccept m i u n) s = .next t ∧
      t.fbit (Reg.ING_KV_STAT_REFUSED i u) = true ∧
      t.rd (Reg.ING_KV_PTR i u) = s.rd (Reg.ING_KV_PTR i u) ∧
      t.rd (Reg.ING_KV_OLDEST i u) = s.rd (Reg.ING_KV_OLDEST i u) ∧
      t.fget (Reg.ING_KV_STAT_SPEC i u) = (s.fget (Reg.ING_KV_STAT_SPEC i u)) ∧
      t.rd (Reg.ING_KV_REFUSE_CNT i u) = s.rd (Reg.ING_KV_REFUSE_CNT i u) ∧
      t.mem = s.mem ∧
      t.sent = s.sent ∧
      (∀ reg : Nat, reg ∉ [Reg.ING_KV_STAT i u] ++ accessRegs (Reg.ING_KV_CMD i u) → t.rd reg = s.rd reg)) ∧
  -- KV_ROLLBACK (R268)
  (∀ (s : State) (m : Master) (i : Fin 32) (u : Fin 2), s.canonical = true → s.admits m (Reg.ING_KV_CMD i u) = true →
    s.fbit (Reg.ING_KV_CFG_EN i u) = true →
    ∃ t, exec (.kvRollback m i u) s = .next t ∧
      t.fget (Reg.ING_KV_STAT_SPEC i u) = 0 ∧
      t.rd (Reg.ING_KV_PTR i u) = s.rd (Reg.ING_KV_PTR i u) ∧
      t.rd (Reg.ING_KV_OLDEST i u) = s.rd (Reg.ING_KV_OLDEST i u) ∧
      t.mem = s.mem ∧
      t.sent = s.sent ∧
      (∀ reg : Nat, reg ∉ [Reg.ING_KV_OLDEST i u, Reg.ING_KV_PTR i u, Reg.ING_KV_STAT i u, Reg.ING_KV_REFUSE_CNT i u] ++
        accessRegs (Reg.ING_KV_CMD i u) → t.rd reg = s.rd reg)) ∧
  -- KV_ROLLBACK: EN = 0: ignored, and REFUSED (R272) (R268)
  (∀ (s : State) (m : Master) (i : Fin 32) (u : Fin 2), s.canonical = true → s.admits m (Reg.ING_KV_CMD i u) = true →
    s.fbit (Reg.ING_KV_CFG_EN i u) = false →
    ∃ t, exec (.kvRollback m i u) s = .next t ∧
      t.fbit (Reg.ING_KV_STAT_REFUSED i u) = true ∧
      t.rd (Reg.ING_KV_PTR i u) = s.rd (Reg.ING_KV_PTR i u) ∧
      t.rd (Reg.ING_KV_OLDEST i u) = s.rd (Reg.ING_KV_OLDEST i u) ∧
      t.fget (Reg.ING_KV_STAT_SPEC i u) = (s.fget (Reg.ING_KV_STAT_SPEC i u)) ∧
      t.rd (Reg.ING_KV_REFUSE_CNT i u) = s.rd (Reg.ING_KV_REFUSE_CNT i u) ∧
      t.mem = s.mem ∧
      t.sent = s.sent ∧
      (∀ reg : Nat, reg ∉ [Reg.ING_KV_STAT i u] ++ accessRegs (Reg.ING_KV_CMD i u) → t.rd reg = s.rd reg)) ∧
  -- KV_RESET (R268)
  (∀ (s : State) (m : Master) (i : Fin 32) (u : Fin 2), s.canonical = true → s.admits m (Reg.ING_KV_CMD i u) = true →
    s.fbit (Reg.ING_KV_CFG_EN i u) = true →
    ∃ t, exec (.kvReset m i u) s = .next t ∧
      t.fget (Reg.ING_KV_STAT_SPEC i u) = 0 ∧
      t.rd (Reg.ING_KV_PTR i u) = 0 ∧
      t.rd (Reg.ING_KV_OLDEST i u) = 0 ∧
      t.fbit (Reg.ING_KV_STAT_FULL i u) = false ∧
      t.fbit (Reg.ING_KV_CFG_EN i u) = true ∧
      t.mem = s.mem ∧
      t.sent = s.sent ∧
      (∀ reg : Nat, reg ∉ [Reg.ING_KV_OLDEST i u, Reg.ING_KV_PTR i u, Reg.ING_KV_STAT i u, Reg.ING_KV_REFUSE_CNT i u] ++
        accessRegs (Reg.ING_KV_CMD i u) → t.rd reg = s.rd reg)) ∧
  -- KV_RESET: EN = 0: ignored, and REFUSED (R272) (R268)
  (∀ (s : State) (m : Master) (i : Fin 32) (u : Fin 2), s.canonical = true → s.admits m (Reg.ING_KV_CMD i u) = true →
    s.fbit (Reg.ING_KV_CFG_EN i u) = false →
    ∃ t, exec (.kvReset m i u) s = .next t ∧
      t.fbit (Reg.ING_KV_STAT_REFUSED i u) = true ∧
      t.rd (Reg.ING_KV_PTR i u) = s.rd (Reg.ING_KV_PTR i u) ∧
      t.rd (Reg.ING_KV_OLDEST i u) = s.rd (Reg.ING_KV_OLDEST i u) ∧
      t.fget (Reg.ING_KV_STAT_SPEC i u) = (s.fget (Reg.ING_KV_STAT_SPEC i u)) ∧
      t.rd (Reg.ING_KV_REFUSE_CNT i u) = s.rd (Reg.ING_KV_REFUSE_CNT i u) ∧
      t.mem = s.mem ∧
      t.sent = s.sent ∧
      (∀ reg : Nat, reg ∉ [Reg.ING_KV_STAT i u] ++ accessRegs (Reg.ING_KV_CMD i u) → t.rd reg = s.rd reg)) ∧
  -- KV_OTHER_OP (R268)
  (∀ (s : State) (m : Master) (i : Fin 32) (u : Fin 2) (op : BitVec 4) (n : BitVec 8), s.canonical = true → s.admits m
    (Reg.ING_KV_CMD i u) = true → s.fbit (Reg.ING_KV_CFG_EN i u) = true → op = 0 ∨ 5 ≤ op →
    ∃ t, exec (.kvOtherOp m i u op n) s = .next t ∧
      t.fbit (Reg.ING_KV_STAT_REFUSED i u) = true ∧
      t.rd (Reg.ING_KV_PTR i u) = s.rd (Reg.ING_KV_PTR i u) ∧
      t.rd (Reg.ING_KV_OLDEST i u) = s.rd (Reg.ING_KV_OLDEST i u) ∧
      t.fget (Reg.ING_KV_STAT_SPEC i u) = (s.fget (Reg.ING_KV_STAT_SPEC i u)) ∧
      t.rd (Reg.ING_KV_REFUSE_CNT i u) = s.rd (Reg.ING_KV_REFUSE_CNT i u) ∧
      t.mem = s.mem ∧
      t.sent = s.sent ∧
      (∀ reg : Nat, reg ∉ [Reg.ING_KV_OLDEST i u, Reg.ING_KV_PTR i u, Reg.ING_KV_STAT i u, Reg.ING_KV_REFUSE_CNT i u] ++
        accessRegs (Reg.ING_KV_CMD i u) → t.rd reg = s.rd reg)) ∧
  -- KV_OTHER_OP: an OP that the table names acts as that command (R268) (R268)
  (∀ (s : State) (m : Master) (i : Fin 32) (u : Fin 2) (op : BitVec 4) (n : BitVec 8), s.canonical = true → s.down =
    false → op = 1 →
    ∃ t, exec (.kvOtherOp m i u op n) s = .next t ∧
      exec (.kvAppend m i u n) s = .next t ∧
      t.mem = s.mem) ∧
  -- KV_OTHER_OP: an OP that the table names acts as that command (R268) (R268)
  (∀ (s : State) (m : Master) (i : Fin 32) (u : Fin 2) (op : BitVec 4) (n : BitVec 8), s.canonical = true → s.down =
    false → op = 2 →
    ∃ t, exec (.kvOtherOp m i u op n) s = .next t ∧
      exec (.kvAccept m i u n) s = .next t ∧
      t.mem = s.mem) ∧
  -- KV_OTHER_OP: an OP that the table names acts as that command (R268) (R268)
  (∀ (s : State) (m : Master) (i : Fin 32) (u : Fin 2) (op : BitVec 4) (n : BitVec 8), s.canonical = true → s.down =
    false → op = 3 →
    ∃ t, exec (.kvOtherOp m i u op n) s = .next t ∧
      exec (.kvRollback m i u) s = .next t ∧
      t.mem = s.mem) ∧
  -- KV_OTHER_OP: an OP that the table names acts as that command (R268) (R268)
  (∀ (s : State) (m : Master) (i : Fin 32) (u : Fin 2) (op : BitVec 4) (n : BitVec 8), s.canonical = true → s.down =
    false → op = 4 →
    ∃ t, exec (.kvOtherOp m i u op n) s = .next t ∧
      exec (.kvReset m i u) s = .next t ∧
      t.mem = s.mem) ∧
  -- KV_OTHER_OP: EN = 0: ignored, and REFUSED (R272) (R268)
  (∀ (s : State) (m : Master) (i : Fin 32) (u : Fin 2) (op : BitVec 4) (n : BitVec 8), s.canonical = true → s.admits m
    (Reg.ING_KV_CMD i u) = true → s.fbit (Reg.ING_KV_CFG_EN i u) = false →
    ∃ t, exec (.kvOtherOp m i u op n) s = .next t ∧
      t.fbit (Reg.ING_KV_STAT_REFUSED i u) = true ∧
      t.rd (Reg.ING_KV_PTR i u) = s.rd (Reg.ING_KV_PTR i u) ∧
      t.rd (Reg.ING_KV_OLDEST i u) = s.rd (Reg.ING_KV_OLDEST i u) ∧
      t.fget (Reg.ING_KV_STAT_SPEC i u) = (s.fget (Reg.ING_KV_STAT_SPEC i u)) ∧
      t.mem = s.mem ∧
      t.sent = s.sent ∧
      (∀ reg : Nat, reg ∉ [Reg.ING_KV_STAT i u] ++ accessRegs (Reg.ING_KV_CMD i u) → t.rd reg = s.rd reg)) ∧
  -- KV_DISABLE (R272)
  (∀ (s : State) (m : Master) (i : Fin 32) (u : Fin 2), s.canonical = true → s.admits m (Reg.ING_KV_CFG i u) = true →
    ∃ t, exec (.kvDisable m i u) s = .next t ∧
      t.fbit (Reg.ING_KV_CFG_EN i u) = false ∧
      t.fget (Reg.ING_KV_STAT_SPEC i u) = 0 ∧
      t.rd (Reg.ING_KV_PTR i u) = 0 ∧
      t.rd (Reg.ING_KV_OLDEST i u) = 0 ∧
      t.fget (Reg.ING_KV_CFG_CAP i u) = s.fget (Reg.ING_KV_CFG_CAP i u) ∧
      t.mem = s.mem ∧
      t.sent = s.sent ∧
      (∀ reg : Nat, reg ∉ [Reg.ING_KV_CFG i u, Reg.ING_KV_PTR i u, Reg.ING_KV_STAT i u, Reg.ING_KV_OLDEST i u] ++
        accessRegs (Reg.ING_KV_CFG i u) → t.rd reg = s.rd reg))

/-- Token engine: contexts, host queues and bridge records complete. Context pushes and their step boundary, result posts,
pops and replays by the host, the doorbell, and an output record at the triggers. (08_token_engine.md.) -/
def Obligations.TokenPortCommandsComplete : Prop :=
  -- CTX_PUSH (R277)
  (∀ (s : State) (m : Master) (i : Fin 32) (lo : Word) (hi : Word), s.canonical = true → s.admits m (Reg.ING_CTX_PUSH_HI
    i) = true →
    ∃ t, exec (.ctxPush m i lo hi) s = .next t ∧
      (s.fbit (Reg.ING_CTX_CTL_EN i) = true ∧ ((List.range 16).any fun k => s.fbit (Reg.ING_CTX_DEST_VALID i k) && decide
        (s.fget (Reg.ING_CTX_DEST_CORE i k) = bits hi.toNat 9 0)) = true ∧ bits lo.toNat 23 16 ≠ 0 → (s.tok i).ctx.length
        < 256 → (t.tok i).ctx = (s.tok i).ctx ++ [(bits hi.toNat 9 0, lo)] ∧ t.fget (Reg.ING_CTX_STATUS_OCC i) = (s.tok
        i).ctx.length + 1) ∧
      (s.fbit (Reg.ING_CTX_CTL_EN i) = true ∧ ((List.range 16).any fun k => s.fbit (Reg.ING_CTX_DEST_VALID i k) && decide
        (s.fget (Reg.ING_CTX_DEST_CORE i k) = bits hi.toNat 9 0)) = true ∧ bits lo.toNat 23 16 ≠ 0 → 256 ≤ (s.tok
        i).ctx.length → (t.tok i).ctx = (s.tok i).ctx ∧ t.fbit (Reg.ING_CTX_STATUS_FULL i) = true ∧ (t.rd
        (Reg.ING_CTX_FULL_CNT i)).toNat = satCount 32 (s.rd (Reg.ING_CTX_FULL_CNT i)).toNat 1) ∧
      (¬ (s.fbit (Reg.ING_CTX_CTL_EN i) = true ∧ ((List.range 16).any fun k => s.fbit (Reg.ING_CTX_DEST_VALID i k) &&
        decide (s.fget (Reg.ING_CTX_DEST_CORE i k) = bits hi.toNat 9 0)) = true ∧ bits lo.toNat 23 16 ≠ 0) → (t.tok
        i).ctx = (s.tok i).ctx ∧ (t.rd (Reg.ING_CTX_REJ_CNT i)).toNat = satCount 32 (s.rd (Reg.ING_CTX_REJ_CNT i)).toNat
        1) ∧
      t.mem = s.mem ∧
      t.sent = s.sent ∧
      (∀ reg : Nat, reg ∉ [Reg.ING_CTX_FULL_CNT i, Reg.ING_CTX_REJ_CNT i, Reg.ING_CTX_STATUS i] ++ accessRegs
        (Reg.ING_CTX_PUSH_HI i) → t.rd reg = s.rd reg)) ∧
  -- CONTEXT_BOUNDARY (R279)
  (∀ (s : State) (i : Fin 32), s.canonical = true → s.down = false → s.fbit (Reg.ING_CTX_CTL_EN i) = true →
    ∃ t, exec (.contextBoundary i) s = .next t ∧
      t.sent = ((((ctxPack (s.tok i).ctx []).take (s.fget (Reg.ING_CTX_CTL_BUDGET i))).mapIdx fun k x => .ev s.devid x.1
        (streamCoord s.devid i) (k % 256) true false x.2).reverse) ++ s.sent ∧
      ((ctxPack (s.tok i).ctx []).length ≤ s.fget (Reg.ING_CTX_CTL_BUDGET i) → (t.tok i).ctx = [] ∧ t.fget
        (Reg.ING_CTX_STATUS_OCC i) = 0 ∧ t.rd (Reg.ING_CTX_DEFER_CNT i) = s.rd (Reg.ING_CTX_DEFER_CNT i)) ∧
      (s.fget (Reg.ING_CTX_CTL_BUDGET i) < (ctxPack (s.tok i).ctx []).length → (t.rd (Reg.ING_CTX_DEFER_CNT i)).toNat =
        satCount 32 (s.rd (Reg.ING_CTX_DEFER_CNT i)).toNat ((ctxPack (s.tok i).ctx []).length - s.fget
        (Reg.ING_CTX_CTL_BUDGET i))) ∧
      (s.fget (Reg.ING_CTX_CTL_BUDGET i) = 0 → (t.tok i).ctx = (s.tok i).ctx.map fun x => (x.1, deferredWord x.2)) ∧
      (t.tok i).ctx.length + (((ctxPack (s.tok i).ctx []).take (s.fget (Reg.ING_CTX_CTL_BUDGET i))).map fun x =>
        x.2.length).sum = (s.tok i).ctx.length ∧
      (0 < s.tb.nextU → (2, i.val, s.tb.nextU - 1) ∈ t.tb.ends) ∧
      t.mem = s.mem ∧
      (∀ reg : Nat, reg ∉ [Reg.ING_CTX_DEFER_CNT i, Reg.ING_CTX_STATUS i] → t.rd reg = s.rd reg)) ∧
  -- CONTEXT_BOUNDARY: the source is not enabled (R279)
  (∀ (s : State) (i : Fin 32), s.canonical = true → s.down = false → s.fbit (Reg.ING_CTX_CTL_EN i) = false →
    ∃ t, exec (.contextBoundary i) s = .next t ∧
      t = s ∧
      t.mem = s.mem) ∧
  -- RQ_POST (R283)
  (∀ (s : State) (m : Master) (i : Fin 32) (v : BitVec 64), s.canonical = true → s.admits m (Reg.PCIE_RQ_POST_HI i) =
    true →
    ∃ t, exec (.rqPost m i v) s = .next t ∧
      (1 ≤ bits v.toNat 59 56 ∧ bits v.toNat 59 56 ≤ 5 → (s.tok i).rq.ents.length < 1024 → (t.tok i).rq.ents = (s.tok
        i).rq.ents ++ [⟨bits v.toNat 59 56, (s.tok i).rq.seq, bits v.toNat 39 0, s.now⟩] ∧ (t.tok i).rq.seq = ((s.tok
        i).rq.seq + 1) % 65536 ∧ t.sent = (if (s.tok i).rq.ents = [] then .msix i :: s.sent else s.sent)) ∧
      (1 ≤ bits v.toNat 59 56 ∧ bits v.toNat 59 56 ≤ 5 → 1024 ≤ (s.tok i).rq.ents.length → s.shadows = false → (t.tok
        i).rq = (s.tok i).rq ∧ (t.tok i).ovf = true ∧ (t.rd (Reg.ING_RQ_OVF_CNT i)).toNat = satCount 32 (s.rd
        (Reg.ING_RQ_OVF_CNT i)).toNat 1) ∧
      (1 ≤ bits v.toNat 59 56 ∧ bits v.toNat 59 56 ≤ 5 → (s.tok i).rq.ents.length = 1024 → s.shadows = true → (t.tok
        i).rq.ents = (s.tok i).rq.ents.drop 1 ++ [⟨bits v.toNat 59 56, (s.tok i).rq.seq, bits v.toNat 39 0, s.now⟩] ∧
        (t.tok i).rq.seq = ((s.tok i).rq.seq + 1) % 65536 ∧ (t.rd Reg.AON_TWIN_SHADOW_DROP_CNT).toNat = satCount 32 (s.rd
        Reg.AON_TWIN_SHADOW_DROP_CNT).toNat 1) ∧
      (¬ (1 ≤ bits v.toNat 59 56 ∧ bits v.toNat 59 56 ≤ 5) → (t.tok i).rq = (s.tok i).rq ∧ (t.rd (Reg.ING_RQ_OVF_CNT
        i)).toNat = satCount 32 (s.rd (Reg.ING_RQ_OVF_CNT i)).toNat 1) ∧
      (t.tok i).cq = (s.tok i).cq ∧
      t.mem = s.mem ∧
      (∀ reg : Nat, reg ∉ [Reg.ING_RQ_OVF_CNT i, Reg.AON_TWIN_SHADOW_DROP_CNT] ++ accessRegs (Reg.PCIE_RQ_POST_HI i) →
        t.rd reg = s.rd reg)) ∧
  -- POP64 (R37, R281)
  (∀ (s : State) (i : Fin 32) (cls : Bool) (size : BitVec 8) (aligned : Bool) (e : HostEnt) (r : List HostEnt),
    s.canonical = true → s.down = false → s.barOpen = true → (s.hostQ i cls).ents = e :: r →
    ∃ t, exec (.pop64 i cls size aligned) s = .next t ∧
      (size = 8 → aligned = true → t.sent = .readValue (e.word) :: s.sent ∧ (t.hostQ i cls).ents = r ∧ tabGet (fun _ =>
        none) (t.hostQ i cls).replay (e.seq % 128) = some e) ∧
      (size ≠ 8 ∨ aligned = false → t.sent = .readValue 0 :: s.sent ∧ t.toks = s.toks) ∧
      (t.hostQ i cls).seq = (s.hostQ i cls).seq ∧
      (t.hostQ i (!cls)) = s.hostQ i (!cls) ∧
      t.mem = s.mem ∧
      t.csr = s.csr) ∧
  -- POP64: an empty queue reads zero (R37, R281)
  (∀ (s : State) (i : Fin 32) (cls : Bool) (size : BitVec 8) (aligned : Bool), s.canonical = true → s.down = false →
    s.barOpen = true → (s.hostQ i cls).ents = [] →
    ∃ t, exec (.pop64 i cls size aligned) s = .next t ∧
      t.sent = .readValue 0 :: s.sent ∧
      t.toks = s.toks ∧
      t.mem = s.mem ∧
      t.csr = s.csr) ∧
  -- POP64: a BAR access before the BARs are open: Unsupported Request (R474) (R37, R281)
  (∀ (s : State) (i : Fin 32) (cls : Bool) (size : BitVec 8) (aligned : Bool), s.canonical = true → s.down = false →
    s.barOpen = false →
    ∃ t, exec (.pop64 i cls size aligned) s = .next t ∧
      t.sent = .unsupported :: s.sent ∧
      t.toks = s.toks ∧
      t.owners = s.owners ∧
      t.mem = s.mem ∧
      t.csr = s.csr) ∧
  -- POP128 (R281)
  (∀ (s : State) (i : Fin 32) (cls : Bool) (size : BitVec 8) (aligned : Bool) (e : HostEnt) (r : List HostEnt),
    s.canonical = true → s.down = false → s.barOpen = true → (s.hostQ i cls).ents = e :: r →
    ∃ t, exec (.pop128 i cls size aligned) s = .next t ∧
      (size = 16 → aligned = true → t.sent = .readValue (e.word + e.stamp % 2 ^ 64 * 2 ^ 64) :: s.sent ∧ (t.hostQ i
        cls).ents = r ∧ tabGet (fun _ => none) (t.hostQ i cls).replay (e.seq % 128) = some e) ∧
      (size ≠ 16 ∨ aligned = false → t.sent = .readValue 0 :: s.sent ∧ t.toks = s.toks) ∧
      (t.hostQ i cls).seq = (s.hostQ i cls).seq ∧
      (t.hostQ i (!cls)) = s.hostQ i (!cls) ∧
      t.mem = s.mem ∧
      t.csr = s.csr) ∧
  -- POP128: an empty queue reads zero (R281)
  (∀ (s : State) (i : Fin 32) (cls : Bool) (size : BitVec 8) (aligned : Bool), s.canonical = true → s.down = false →
    s.barOpen = true → (s.hostQ i cls).ents = [] →
    ∃ t, exec (.pop128 i cls size aligned) s = .next t ∧
      t.sent = .readValue 0 :: s.sent ∧
      t.toks = s.toks ∧
      t.mem = s.mem ∧
      t.csr = s.csr) ∧
  -- POP128: a BAR access before the BARs are open: Unsupported Request (R474) (R281)
  (∀ (s : State) (i : Fin 32) (cls : Bool) (size : BitVec 8) (aligned : Bool), s.canonical = true → s.down = false →
    s.barOpen = false →
    ∃ t, exec (.pop128 i cls size aligned) s = .next t ∧
      t.sent = .unsupported :: s.sent ∧
      t.toks = s.toks ∧
      t.owners = s.owners ∧
      t.mem = s.mem ∧
      t.csr = s.csr) ∧
  -- REPLAY_READ (R286)
  (∀ (s : State) (i : Fin 32) (cls : Bool) (off : BitVec 11) (size : BitVec 8) (k : Fin 128), s.canonical = true → s.down
    = false → s.barOpen = true →
    ∃ t, exec (.replayRead i cls off size) s = .next t ∧
      t.sent = .readValue (leNat (((s.replayBytes i cls).drop off.toNat).take size.toNat)) :: s.sent ∧
      (16 * k.val = off.toNat → size = 16 → t.sent.head? = some (.readValue
        (match tabGet (fun _ => none) (s.hostQ i cls).replay k with | some e => e.word % 2 ^ 64 + e.stamp % 2 ^ 64 * 2 ^ 64 | none => 0)))
        ∧
      t.toks = s.toks ∧
      t.mem = s.mem ∧
      t.csr = s.csr) ∧
  -- REPLAY_READ: a BAR access before the BARs are open: Unsupported Request (R474) (R286)
  (∀ (s : State) (i : Fin 32) (cls : Bool) (off : BitVec 11) (size : BitVec 8), s.canonical = true → s.down = false →
    s.barOpen = false →
    ∃ t, exec (.replayRead i cls off size) s = .next t ∧
      t.sent = .unsupported :: s.sent ∧
      t.toks = s.toks ∧
      t.owners = s.owners ∧
      t.mem = s.mem ∧
      t.csr = s.csr) ∧
  -- DOORBELL (R260)
  (∀ (s : State) (i : Fin 32) (arg : Word), s.canonical = true → s.down = false → s.barOpen = true → (s.owner 136).wakes
    = [] → (s.owner 136).stalled = [] → (s.owner 136).mc = none →
    ∃ t, exec (.doorbell i arg) s = .next t ∧
      (t.rd (Reg.ING_WAKE_CNT i)).toNat = satCount 32 (s.rd (Reg.ING_WAKE_CNT i)).toNat 1 ∧
      (t.tok i).merged = 0 ∧
      (s.place 136 (qnOf s.devid (s.fget (Reg.ING_WAKE_Q_OWNER i)) (s.fget (Reg.ING_WAKE_Q_QUEUE i))) = true → s.fget
        (Reg.ING_WAKE_Q_OWNER i) < 512 → .qmsg s.devid (s.fget (Reg.ING_WAKE_Q_OWNER i)) (s.fget (Reg.ING_WAKE_Q_QUEUE
        i)) (ioCoord s.devid 5 0 0) false [(s.wakeCell i 1 s.now 0 0 0 0 0 arg.toNat)] ∈ t.sent ∧ (t.owner 136).wakes =
        []) ∧
      (s.place 136 (qnOf s.devid (s.fget (Reg.ING_WAKE_Q_OWNER i)) (s.fget (Reg.ING_WAKE_Q_QUEUE i))) = false → (t.owner
        136).wakes = [⟨(qnOf s.devid (s.fget (Reg.ING_WAKE_Q_OWNER i)) (s.fget (Reg.ING_WAKE_Q_QUEUE i))), [(s.wakeCell i
        1 s.now 0 0 0 0 0 arg.toNat)], none, some (i.val, true), 0, none⟩]) ∧
      (¬ ((s.now + 16 * s.fget (Reg.ING_WIN_POST i) - s.fget (Reg.ING_WIN_OBJ_LEAD_NS i)) * 65536 < (s.stream i).acked ∨
        ((s.stream i).marked = true ∧ s.fbit (Reg.ING_STATUS_ABSENT i) = true)) → (s.stream i).windows.length < 4 →
        (t.stream i).windows = (s.stream i).windows ++ [(s.now + 16 * s.fget (Reg.ING_WIN_POST i) - s.fget
        (Reg.ING_WIN_OBJ_LEAD_NS i))]) ∧
      (¬ ((s.now + 16 * s.fget (Reg.ING_WIN_POST i) - s.fget (Reg.ING_WIN_OBJ_LEAD_NS i)) * 65536 < (s.stream i).acked ∨
        ((s.stream i).marked = true ∧ s.fbit (Reg.ING_STATUS_ABSENT i) = true)) → 4 ≤ (s.stream i).windows.length →
        (t.stream i).windows = (s.stream i).windows ∧ (t.rd (Reg.ING_WIN_MISS_CNT i)).toNat = satCount 32 (s.rd
        (Reg.ING_WIN_MISS_CNT i)).toNat 1) ∧
      ((s.now + 16 * s.fget (Reg.ING_WIN_POST i) - s.fget (Reg.ING_WIN_OBJ_LEAD_NS i)) * 65536 < (s.stream i).acked ∨
        ((s.stream i).marked = true ∧ s.fbit (Reg.ING_STATUS_ABSENT i) = true) → s.replyFree (streamCoord s.devid i) =
        true → .sync s.devid (s.fget (Reg.ING_WIN_OBJ_OBJ i)) 0 1 0 (streamCoord s.devid i + (s.iface (streamCoord
        s.devid i)).tag * 2 ^ 22) ∈ t.sent) ∧
      t.mem = s.mem ∧
      (∀ reg : Nat, reg ∉ [Reg.ING_WAKE_CNT i, Reg.ING_WIN_MISS_CNT i, Reg.MESH_NOROUTE_CNT] ++ each 32
        Reg.ING_WAKE_NACK_CNT ++ each 16 Reg.IBL_DROP_CNT → t.rd reg = s.rd reg)) ∧
  -- DOORBELL: a BAR access before the BARs are open: Unsupported Request (R474) (R260)
  (∀ (s : State) (i : Fin 32) (arg : Word), s.canonical = true → s.down = false → s.barOpen = false →
    ∃ t, exec (.doorbell i arg) s = .next t ∧
      t.sent = .unsupported :: s.sent ∧
      t.toks = s.toks ∧
      t.owners = s.owners ∧
      t.mem = s.mem ∧
      t.csr = s.csr) ∧
  -- DOORBELL: any doorbell (R260)
  (∀ (s : State) (i : Fin 32) (arg : Word), s.canonical = true → s.down = false → s.barOpen = true →
    ∃ t, exec (.doorbell i arg) s = .next t ∧
      t.counter = s.counter ∧
      (t.tok i).rq = (s.tok i).rq ∧
      (t.tok i).cq = (s.tok i).cq ∧
      t.mem = s.mem ∧
      (∀ reg : Nat, reg ∉ [Reg.MESH_NOROUTE_CNT, Reg.MESH_RANK_MISS_CNT] ++ each 32 Reg.ING_WAKE_CNT ++ each 32
        Reg.ING_WAKE_NACK_CNT ++ each 32 Reg.ING_WIN_MISS_CNT ++ each 137 Reg.Q_MC_DONE ++ each 137 Reg.Q_MC_FAIL ++ each
        137 Reg.Q_STATUS ++ each 137 Reg.Q_TX_FAIL_CNT ++ each 16 Reg.IBL_DROP_CNT → t.rd reg = s.rd reg)) ∧
  -- OUTPUT_RECORD (R434, R439)
  (∀ (s : State) (n : Fin 1024) (j : BitVec 14) (grade : BitVec 8) (u : Word) (i : Fin 32) (k : Nat) (p : Fin 16),
    s.canonical = true → s.down = false →
    ∃ t, exec (.outputRecord n j grade u) s = .next t ∧
      (t.rd Reg.TB_REC_CNT).toNat = satCount 32 (s.rd Reg.TB_REC_CNT).toNat 1 ∧
      (((List.range 32).find? (fun k => s.fbit (Reg.ING_WAKE_E0_VALID i k) && decide (s.fget (Reg.ING_WAKE_E0_CORE i k) =
        n) && decide (s.fget (Reg.ING_WAKE_E1_J_FIRST i k) ≤ j.toNat) && decide (j.toNat ≤ s.fget (Reg.ING_WAKE_E1_J_LAST
        i k)))) = some k → s.shadows = false → (s.tok i).cq.ents.length < 1024 → (t.tok i).cq.ents = (s.tok i).cq.ents ++
        [⟨8, (s.tok i).cq.seq, s.fget (Reg.ING_WAKE_E0_CLASS i k) * 2 ^ 32 + n * 2 ^ 22 + j.toNat * 2 ^ 8 + grade.toNat,
        (s.stepNominal ((s.fullStep u.toNat) + 1))⟩] ∧ (t.tok i).cq.seq = ((s.tok i).cq.seq + 1) % 65536) ∧
      (((List.range 32).find? (fun k => s.fbit (Reg.ING_WAKE_E0_VALID i k) && decide (s.fget (Reg.ING_WAKE_E0_CORE i k) =
        n) && decide (s.fget (Reg.ING_WAKE_E1_J_FIRST i k) ≤ j.toNat) && decide (j.toNat ≤ s.fget (Reg.ING_WAKE_E1_J_LAST
        i k)))) = some k → s.shadows = false → 1024 ≤ (s.tok i).cq.ents.length → (t.tok i).cq.ents = (s.tok i).cq.ents ∧
        (t.tok i).cq.seq = ((s.tok i).cq.seq + 1) % 65536 ∧ (t.rd (Reg.ING_CQ_DROP_CNT i)).toNat = satCount 32 (s.rd
        (Reg.ING_CQ_DROP_CNT i)).toNat 1) ∧
      (((List.range 32).find? (fun k => s.fbit (Reg.ING_WAKE_E0_VALID i k) && decide (s.fget (Reg.ING_WAKE_E0_CORE i k) =
        n) && decide (s.fget (Reg.ING_WAKE_E1_J_FIRST i k) ≤ j.toNat) && decide (j.toNat ≤ s.fget (Reg.ING_WAKE_E1_J_LAST
        i k)))) = none → (t.tok i).cq = (s.tok i).cq) ∧
      (((List.range 32).find? (fun k => s.fbit (Reg.ING_WAKE_E0_VALID i k) && decide (s.fget (Reg.ING_WAKE_E0_CORE i k) =
        n) && decide (s.fget (Reg.ING_WAKE_E1_J_FIRST i k) ≤ j.toNat) && decide (j.toNat ≤ s.fget (Reg.ING_WAKE_E1_J_LAST
        i k)))) = some k → s.fbit (Reg.ING_WAKE_E0_WAKE i k) = true ∧ s.fbit (Reg.ING_WAKE_CFG_EN i) = true → ((s.tok
        i).lastWake.any fun l => decide (((s.fullStep u.toNat) % 2 ^ 32 + 2 ^ 32 - l) % 2 ^ 32 < s.fget
        (Reg.ING_WAKE_CFG_HOLDOFF i))) = true → (t.tok i).merged = (s.tok i).merged + 1 ∧ (t.tok i).lastWake = (s.tok
        i).lastWake ∧ (t.rd (Reg.ING_WAKE_MERGE_CNT i)).toNat = satCount 32 (s.rd (Reg.ING_WAKE_MERGE_CNT i)).toNat 1) ∧
      (((List.range 32).find? (fun k => s.fbit (Reg.ING_WAKE_E0_VALID i k) && decide (s.fget (Reg.ING_WAKE_E0_CORE i k) =
        n) && decide (s.fget (Reg.ING_WAKE_E1_J_FIRST i k) ≤ j.toNat) && decide (j.toNat ≤ s.fget (Reg.ING_WAKE_E1_J_LAST
        i k)))) = some k → s.fbit (Reg.ING_WAKE_E0_WAKE i k) = true ∧ s.fbit (Reg.ING_WAKE_CFG_EN i) = true → ((s.tok
        i).lastWake.any fun l => decide (((s.fullStep u.toNat) % 2 ^ 32 + 2 ^ 32 - l) % 2 ^ 32 < s.fget
        (Reg.ING_WAKE_CFG_HOLDOFF i))) = false → (t.tok i).merged = 0 ∧ (t.tok i).lastWake = some ((s.fullStep u.toNat) %
        2 ^ 32) ∧ (t.rd (Reg.ING_WAKE_CNT i)).toNat = satCount 32 (s.rd (Reg.ING_WAKE_CNT i)).toNat 1) ∧
      (((List.range 32).find? (fun k => s.fbit (Reg.ING_WAKE_E0_VALID i k) && decide (s.fget (Reg.ING_WAKE_E0_CORE i k) =
        n) && decide (s.fget (Reg.ING_WAKE_E1_J_FIRST i k) ≤ j.toNat) && decide (j.toNat ≤ s.fget (Reg.ING_WAKE_E1_J_LAST
        i k)))) = some k → ¬ (s.fbit (Reg.ING_WAKE_E0_WAKE i k) = true ∧ s.fbit (Reg.ING_WAKE_CFG_EN i) = true) → (t.tok
        i).merged = (s.tok i).merged ∧ t.rd (Reg.ING_WAKE_CNT i) = s.rd (Reg.ING_WAKE_CNT i)) ∧
      (s.fbit (Reg.ING_BR_CTL_EN i) = false → (t.tok i).bins = (s.tok i).bins) ∧
      (t.tok i).rq = (s.tok i).rq ∧
      (p.val ∈ s.trigPins n j.toNat grade.toNat → s.gridInstant u.toNat = none → s.pinSrc p = 1 → s.pinLevel p = false →
        (s.pin p).seen.contains u.toNat = false → t.pinLevel p = true ∧ (t.pin p).pulseEnd = some (s.time + s.pulseWidth
        p)) ∧
      (p.val ∈ s.trigPins n j.toNat grade.toNat → s.gridInstant u.toNat = none → s.pinSrc p = 1 → s.pinLevel p = true →
        t.pinLevel p = true ∧ (t.pin p).pulseEnd = some (s.time + s.pulseWidth p)) ∧
      (p.val ∈ s.trigPins n j.toNat grade.toNat → s.gridInstant u.toNat = none → s.pinSrc p = 2 → (s.pin p).seen.contains
        u.toNat = false → t.pinLevel p = true ∧ (t.pin p).pulseEnd = (s.pin p).pulseEnd) ∧
      (p.val ∉ s.trigPins n j.toNat grade.toNat ∨ (s.pinSrc p ≠ 1 ∧ s.pinSrc p ≠ 2) → t.pinLevel p = s.pinLevel p ∧ t.pin
        p = s.pin p) ∧
      (p.val ∈ s.trigPins n j.toNat grade.toNat → s.pinSrc p = 1 ∨ s.pinSrc p = 2 → s.gridInstant u.toNat ≠ none → (t.pin
        p).grid = (s.pin p).grid ++ [(u.toNat, (s.gridInstant u.toNat).getD 0)] ∧ t.pinLevel p = s.pinLevel p) ∧
      (s.fbit Reg.TB_TRIG_CFG_GRID = true → s.gridInstant u.toNat = none → (t.rd Reg.TB_TRIG_LATE_CNT).toNat = satCount
        32 (s.rd Reg.TB_TRIG_LATE_CNT).toNat 1) ∧
      t.mem = s.mem ∧
      (∀ reg : Nat, reg ∉ [Reg.TB_REC_CNT, Reg.TB_OUT_STATUS, Reg.TB_TRIG_CNT, Reg.TB_TRIG_LATE_CNT,
        Reg.AON_TWIN_SHADOW_DROP_CNT, Reg.MESH_NOROUTE_CNT, Reg.MESH_RANK_MISS_CNT] ++ each 32 Reg.ING_BR_DROP_CNT ++
        each 32 Reg.ING_BR_LATE_CNT ++ each 32 Reg.ING_CQ_DROP_CNT ++ each 32 Reg.ING_WAKE_MERGE_CNT ++ each 32
        Reg.ING_WAKE_CNT ++ each 32 Reg.ING_WAKE_NACK_CNT ++ each 32 Reg.ING_WIN_MISS_CNT ++ each 137 Reg.Q_MC_DONE ++
        each 137 Reg.Q_MC_FAIL ++ each 137 Reg.Q_STATUS ++ each 137 Reg.Q_TX_FAIL_CNT ++ each 16 Reg.IBL_DROP_CNT → t.rd
        reg = s.rd reg)) ∧
  -- OUTPUT_RECORD: the bridge bins the record (R263, R264) (R434, R439)
  (∀ (s : State) (n : Fin 1024) (j : BitVec 14) (grade : BitVec 8) (u : Word) (i : Fin 32) (k u0 : Nat) (b : BinSt),
    s.canonical = true → s.down = false → s.fbit (Reg.ING_BR_CTL_EN i) = true → ((List.range 64).find? (fun k => s.fbit
    (Reg.ING_BR_E0_VALID i k) && decide (s.fget (Reg.ING_BR_E0_MODE i k) ≠ 3) && decide (s.fget (Reg.ING_BR_E0_CORE i k)
    = n) && decide (s.fget (Reg.ING_BR_E1_J_FIRST i k) ≤ j.toNat) && decide (j.toNat ≤ s.fget (Reg.ING_BR_E1_J_LAST i
    k)))) = some k → (s.tok i).first = some u0 → u0 ≤ (s.fullStep u.toNat) → (s.tok i).bins = [b] →
    ∃ t, exec (.outputRecord n j grade u) s = .next t ∧
      (b.frame = (((s.fullStep u.toNat) - u0) / s.brSteps i) → (s.tok i).binned < 256 → (s.fget (Reg.ING_BR_E0_FEAT_BASE
        i k) + (j.toNat - s.fget (Reg.ING_BR_E1_J_FIRST i k))) < s.brF i → (t.tok i).binned = (s.tok i).binned + 1 ∧
        (t.tok i).bins = [⟨b.frame, b.time, b.recs + 1, tabPut (fun _ => 0) b.feats (s.fget (Reg.ING_BR_E0_FEAT_BASE i k)
        + (j.toNat - s.fget (Reg.ING_BR_E1_J_FIRST i k))) (binUpdate (s.fget (Reg.ING_BR_E0_MODE i k)) (tabGet (fun _ =>
        0) b.feats (s.fget (Reg.ING_BR_E0_FEAT_BASE i k) + (j.toNat - s.fget (Reg.ING_BR_E1_J_FIRST i k)))) grade.toNat),
        if (binUpdate (s.fget (Reg.ING_BR_E0_MODE i k)) (tabGet (fun _ => 0) b.feats (s.fget (Reg.ING_BR_E0_FEAT_BASE i
        k) + (j.toNat - s.fget (Reg.ING_BR_E1_J_FIRST i k)))) grade.toNat) = 65535 then b.flags ||| 1 else b.flags⟩]) ∧
      (b.frame = (((s.fullStep u.toNat) - u0) / s.brSteps i) → 256 ≤ (s.tok i).binned ∨ s.brF i ≤ (s.fget
        (Reg.ING_BR_E0_FEAT_BASE i k) + (j.toNat - s.fget (Reg.ING_BR_E1_J_FIRST i k))) → (t.rd (Reg.ING_BR_DROP_CNT
        i)).toNat = satCount 32 (s.rd (Reg.ING_BR_DROP_CNT i)).toNat 1 ∧ (t.tok i).bins = [b.flag 2]) ∧
      (b.frame ≠ (((s.fullStep u.toNat) - u0) / s.brSteps i) → (t.rd (Reg.ING_BR_LATE_CNT i)).toNat = satCount 32 (s.rd
        (Reg.ING_BR_LATE_CNT i)).toNat 1 ∧ (t.tok i).bins = [b.flag 1]) ∧
      t.mem = s.mem ∧
      (∀ reg : Nat, reg ∉ [Reg.TB_REC_CNT, Reg.TB_OUT_STATUS, Reg.TB_TRIG_CNT, Reg.TB_TRIG_LATE_CNT,
        Reg.AON_TWIN_SHADOW_DROP_CNT, Reg.MESH_NOROUTE_CNT, Reg.MESH_RANK_MISS_CNT] ++ each 32 Reg.ING_BR_DROP_CNT ++
        each 32 Reg.ING_BR_LATE_CNT ++ each 32 Reg.ING_CQ_DROP_CNT ++ each 32 Reg.ING_WAKE_MERGE_CNT ++ each 32
        Reg.ING_WAKE_CNT ++ each 32 Reg.ING_WAKE_NACK_CNT ++ each 32 Reg.ING_WIN_MISS_CNT ++ each 137 Reg.Q_MC_DONE ++
        each 137 Reg.Q_MC_FAIL ++ each 137 Reg.Q_STATUS ++ each 137 Reg.Q_TX_FAIL_CNT ++ each 16 Reg.IBL_DROP_CNT → t.rd
        reg = s.rd reg))

/-- Mesh requests for memory complete. RD, WR, WRF and ATOM requests: the memory read or written and the answer sent.
(09_mesh_and_links.md, 12_memories.md.) -/
def Obligations.MeshRequestsComplete : Prop :=
  -- RD_REQ (R297, R309, R395, R410)
  (∀ (s : State) (via : Via) (dst : BitVec 22) (a : BitVec 48) (nm1 : BitVec 8) (ecc : Ecc) (k : Fin 12) (src : BitVec
    30) (m : Master), s.canonical = true → s.down = false → (via = .own .pcie → s.barOpen = true) → (via = .own .jtag →
    s.fbit Reg.TRU_STATUS_DBG_OPEN = true) → (via = .link k src → s.endpointThere dst.toNat = true) → via = .link k src ∨
    via = .own m → (via = .link k src → s.forwards dst.toNat (localPart (viaAddr via a.toNat / 32 * 32)) = none) →
    s.allows (viaWho via) 0 (viaAddr via a.toNat / 32 * 32) (32 * (nm1.toNat + 1)) = true → (List.range (nm1.toNat +
    1)).all (fun i => decide (s.served (localPart ((viaAddr via a.toNat / 32 * 32) + 32 * i)) = 0)) = true → ecc = .none
    → s.bad = [] → (kvUnits.any fun x => s.fbit (Reg.ING_KV_CFG_EN x.1 x.2)) = false →
    ∃ t, exec (.rdReq via dst a nm1 ecc) s = .next t ∧
      (via = .link k src → coDev src.toNat = s.devid → t.sent = (List.range (nm1.toNat + 1)).reverse.map (fun i => .cell
        22 (src.toNat % 2 ^ 22) (s.memCoord s.devid (localPart ((viaAddr via a.toNat / 32 * 32) + 32 * i))) (src.toNat /
        2 ^ 22) false [rdData ((List.range 32).map fun j => s.mget (unalias (localPart ((viaAddr via a.toNat / 32 * 32) +
        32 * i)) + j)) i]) ++ s.sent) ∧
      (via = .own m → t.sent = .readValue (leNat ((List.range (32 * (nm1.toNat + 1))).map fun j => s.mget (unalias
        (localPart (viaAddr via a.toNat / 32 * 32)) + j))) :: s.sent) ∧
      t.bad = s.bad ∧
      t.mem = s.mem ∧
      (∀ reg : Nat, reg ∉ memorySide → t.rd reg = s.rd reg)) ∧
  -- RD_REQ: the region set forbids it (R397, R398) (R297, R309, R395, R410)
  (∀ (s : State) (via : Via) (dst : BitVec 22) (a : BitVec 48) (nm1 : BitVec 8) (ecc : Ecc) (k : Fin 12) (src : BitVec
    30) (m : Master), s.canonical = true → s.down = false → (via = .own .pcie → s.barOpen = true) → (via = .own .jtag →
    s.fbit Reg.TRU_STATUS_DBG_OPEN = true) → (via = .link k src → s.endpointThere dst.toNat = true) → via = .link k src ∨
    via = .own m → s.allows (viaWho via) 0 (viaAddr via a.toNat / 32 * 32) (32 * (nm1.toNat + 1)) = false →
    ∃ t, exec (.rdReq via dst a nm1 ecc) s = .next t ∧
      (via = .link k src → coDev src.toNat = s.devid → .status src.toNat 4 0 0 0 ∈ t.sent) ∧
      (via = .own m → m ≠ .pcie → .refused 4 (viaAddr via a.toNat / 32 * 32) ∈ t.sent) ∧
      (via = .own .pcie → .unsupported ∈ t.sent) ∧
      t.mem = s.mem ∧
      t.bad = s.bad ∧
      (∀ reg : Nat, reg ∉ memorySide → t.rd reg = s.rd reg)) ∧
  -- RD_REQ: DST names no endpoint (R309) (R297, R309, R395, R410)
  (∀ (s : State) (via : Via) (dst : BitVec 22) (a : BitVec 48) (nm1 : BitVec 8) (ecc : Ecc) (k : Fin 12) (src : BitVec
    30), s.canonical = true → s.down = false → via = .link k src → s.endpointThere dst.toNat = false →
    ∃ t, exec (.rdReq via dst a nm1 ecc) s = .next t ∧
      (coDev src.toNat = s.devid → t.sent = .status src.toNat 3 0 0 0 :: s.sent) ∧
      (t.rd Reg.MESH_BAD_DST_CNT).toNat = satCount 32 (s.rd Reg.MESH_BAD_DST_CNT).toNat 1 ∧
      t.mem = s.mem ∧
      t.bad = s.bad ∧
      (∀ reg : Nat, reg ∉ [Reg.MESH_BAD_DST_CNT, Reg.MESH_NOROUTE_CNT] ++ each 16 Reg.IBL_DROP_CNT → t.rd reg = s.rd
        reg)) ∧
  -- RD_REQ: the BARs or the debug port are closed (R474, R599) (R297, R309, R395, R410)
  (∀ (s : State) (via : Via) (dst : BitVec 22) (a : BitVec 48) (nm1 : BitVec 8) (ecc : Ecc), s.canonical = true → s.down
    = false → (via = .own .pcie ∧ s.barOpen = false) ∨ (via = .own .jtag ∧ s.fbit Reg.TRU_STATUS_DBG_OPEN = false) →
    ∃ t, exec (.rdReq via dst a nm1 ecc) s = .next t ∧
      (via = .own .pcie → t.sent = .unsupported :: s.sent) ∧
      (via = .own .jtag → t.sent = .readValue 0 :: s.sent) ∧
      t.mem = s.mem ∧
      t.bad = s.bad ∧
      t.csr = s.csr) ∧
  -- RD_REQ: an uncorrectable error: POISON, or an access fault (R298, R404) (R297, R309, R395, R410)
  (∀ (s : State) (via : Via) (dst : BitVec 22) (a : BitVec 48) (nm1 : BitVec 8) (ecc : Ecc) (k : Fin 12) (src : BitVec
    30) (m : Master), s.canonical = true → s.down = false → (via = .own .pcie → s.barOpen = true) → (via = .own .jtag →
    s.fbit Reg.TRU_STATUS_DBG_OPEN = true) → (via = .link k src → s.endpointThere dst.toNat = true) → via = .link k src ∨
    via = .own m → (via = .link k src → s.forwards dst.toNat (localPart (viaAddr via a.toNat / 32 * 32)) = none) →
    s.allows (viaWho via) 0 (viaAddr via a.toNat / 32 * 32) 32 = true → nm1 = 0 → s.served (localPart (viaAddr via
    a.toNat / 32 * 32)) = 0 → (∃ rank device, s.decoded ((eccWords (unalias (localPart (viaAddr via a.toNat / 32 * 32)))
    32).headD (unalias (localPart (viaAddr via a.toNat / 32 * 32)))) ecc = .ue rank device) ∨ (eccWords (unalias
    (localPart (viaAddr via a.toNat / 32 * 32))) 32).any s.isBad = true →
    ∃ t, exec (.rdReq via dst a nm1 ecc) s = .next t ∧
      (via = .link k src → coDev src.toNat = s.devid → .cell 22 (src.toNat % 2 ^ 22) (s.memCoord s.devid (localPart
        (viaAddr via a.toNat / 32 * 32))) (src.toNat / 2 ^ 22) true [rdData (List.replicate 32 0) 0] ∈ t.sent) ∧
      (via = .own m → .refused 5 (viaAddr via a.toNat / 32 * 32) ∈ t.sent) ∧
      t.mem = s.mem ∧
      (∀ reg : Nat, reg ∉ memorySide → t.rd reg = s.rd reg)) ∧
  -- RD_REQ: no memory serves it: NO_TARGET (3), UE (5), zeros (9), or the channel that retrains holds it (10) (R297, R309, R395, R410)
  (∀ (s : State) (via : Via) (dst : BitVec 22) (a : BitVec 48) (nm1 : BitVec 8) (ecc : Ecc) (k : Fin 12) (src : BitVec
    30) (m : Master), s.canonical = true → s.down = false → (via = .own .pcie → s.barOpen = true) → (via = .own .jtag →
    s.fbit Reg.TRU_STATUS_DBG_OPEN = true) → (via = .link k src → s.endpointThere dst.toNat = true) → via = .link k src ∨
    via = .own m → (via = .link k src → s.forwards dst.toNat (localPart (viaAddr via a.toNat / 32 * 32)) = none) →
    s.allows (viaWho via) 0 (viaAddr via a.toNat / 32 * 32) 32 = true → nm1 = 0 →
    ∃ t, exec (.rdReq via dst a nm1 ecc) s = .next t ∧
      (s.served (localPart (viaAddr via a.toNat / 32 * 32)) = 3 → via = .link k src → coDev src.toNat = s.devid → t.sent
        = .status src.toNat 3 0 0 0 :: s.sent) ∧
      (s.served (localPart (viaAddr via a.toNat / 32 * 32)) = 3 → via = .own m → t.sent = .refused 3 (viaAddr via a.toNat
        / 32 * 32) :: s.sent) ∧
      (s.served (localPart (viaAddr via a.toNat / 32 * 32)) = 5 → via = .own m → t.sent = .refused 5 (viaAddr via a.toNat
        / 32 * 32) :: s.sent) ∧
      (s.served (localPart (viaAddr via a.toNat / 32 * 32)) = 9 → via = .own m → t.sent = .readValue 0 :: s.sent) ∧
      (s.served (localPart (viaAddr via a.toNat / 32 * 32)) = 10 → (s.ddr (s.ddrChan (localPart (viaAddr via a.toNat / 32
        * 32)))).queue.length < 256 → (t.ddr (s.ddrChan (localPart (viaAddr via a.toNat / 32 * 32)))).queue.length =
        (s.ddr (s.ddrChan (localPart (viaAddr via a.toNat / 32 * 32)))).queue.length + 1 ∧ t.sent = s.sent) ∧
      t.mem = s.mem ∧
      (∀ reg : Nat, reg ∉ memorySide → t.rd reg = s.rd reg)) ∧
  -- RD_REQ: a request for DDR4 that reached another channel is passed on (R410) (R297, R309, R395, R410)
  (∀ (s : State) (via : Via) (dst : BitVec 22) (a : BitVec 48) (nm1 : BitVec 8) (ecc : Ecc) (k : Fin 12) (src : BitVec
    30) (c : Nat), s.canonical = true → s.down = false → via = .link k src → s.endpointThere dst.toNat = true →
    s.forwards dst.toNat (localPart (viaAddr via a.toNat / 32 * 32)) = some c → s.allows (.link k) 0 (viaAddr via a.toNat
    / 32 * 32) (32 * (nm1.toNat + 1)) = true →
    ∃ t, exec (.rdReq via dst a nm1 ecc) s = .next t ∧
      (t.rd (Reg.DDR_FWD_CNT (coX dst.toNat))).toNat = satCount 32 (s.rd (Reg.DDR_FWD_CNT (coX dst.toNat))).toNat 1 ∧
      t.sent = .cell 25 (ioCoord s.devid 1 c 0) (src.toNat % 2 ^ 22) (src.toNat / 2 ^ 22) false (fwdCells 16 [rdPayload
        (viaAddr via a.toNat / 32 * 32) (nm1.toNat + 1)]) :: s.sent ∧
      t.mem = s.mem ∧
      t.ddrs = s.ddrs ∧
      (∀ reg : Nat, reg ∉ each 8 Reg.DDR_FWD_CNT → t.rd reg = s.rd reg)) ∧
  -- RD_REQ: any read request (R297, R309, R395, R410)
  (∀ (s : State) (via : Via) (dst : BitVec 22) (a : BitVec 48) (nm1 : BitVec 8) (ecc : Ecc), s.canonical = true → s.down
    = false →
    ∃ t, exec (.rdReq via dst a nm1 ecc) s = .next t ∧
      t.counter = s.counter ∧
      t.cores = s.cores ∧
      t.mem = s.mem ∧
      (∀ reg : Nat, reg ∉ memorySide → t.rd reg = s.rd reg)) ∧
  -- WR_REQ (R297)
  (∀ (s : State) (via : Via) (dst : BitVec 22) (a : BitVec 48) (data : List (Option Byte)) (ecc : Ecc) (k : Fin 12) (src
    : BitVec 30) (m : Master) (i : Nat), s.canonical = true → s.down = false → (via = .own .pcie → s.barOpen = true) →
    (via = .own .jtag → s.fbit Reg.TRU_STATUS_DBG_OPEN = true) → (via = .link k src → s.endpointThere dst.toNat = true) →
    via = .link k src ∨ via = .own m → (via = .link k src → s.forwards dst.toNat (localPart (viaAddr via a.toNat / 32 *
    32)) = none) → data.length ≤ 32 → s.allowsBytes (viaWho via) (if isAlias (localPart (viaAddr via a.toNat / 32 * 32))
    then 3 else 1) (maskBytes (viaAddr via a.toNat / 32 * 32) data) = true → s.served (localPart (viaAddr via a.toNat /
    32 * 32)) = 0 → isAlias (localPart (viaAddr via a.toNat / 32 * 32)) = false →
    (match placeOf (localPart (viaAddr via a.toNat / 32 * 32)) with | .window n _ => s.fbit (Reg.NC_CTL_EN n) | _ => false)
    = false → ecc = .none → s.bad = [] → (kvUnits.any fun x => s.fbit (Reg.ING_KV_CFG_EN x.1 x.2)) = false →
    ∃ t, exec (.wrReq via dst a data ecc) s = .next t ∧
      (i < data.length → t.mget ((localPart (viaAddr via a.toNat / 32 * 32)) + i) = ((data.getD i none).getD (s.mget
        ((localPart (viaAddr via a.toNat / 32 * 32)) + i)))) ∧
      (via = .link k src → coDev src.toNat = s.devid → t.sent = .status src.toNat 0 0 0 0 :: s.sent) ∧
      (via = .own m → t.sent = .ack :: s.sent) ∧
      (∀ x : Nat, x < unalias (localPart (viaAddr via a.toNat / 32 * 32)) ∨ unalias (localPart (viaAddr via a.toNat / 32
        * 32)) + data.length ≤ x → t.mget x = s.mget x) ∧
      t.bad = [] ∧
      (∀ reg : Nat, reg ∉ memorySide → t.rd reg = s.rd reg)) ∧
  -- WR_REQ: an alias window sets or clears the bits that are 1 (R402) (R297)
  (∀ (s : State) (via : Via) (dst : BitVec 22) (a : BitVec 48) (data : List (Option Byte)) (ecc : Ecc) (k : Fin 12) (src
    : BitVec 30) (m : Master) (i : Nat), s.canonical = true → s.down = false → (via = .own .pcie → s.barOpen = true) →
    (via = .own .jtag → s.fbit Reg.TRU_STATUS_DBG_OPEN = true) → (via = .link k src → s.endpointThere dst.toNat = true) →
    via = .link k src ∨ via = .own m → (via = .link k src → s.forwards dst.toNat (localPart (viaAddr via a.toNat / 32 *
    32)) = none) → data.length ≤ 32 → s.allowsBytes (viaWho via) (if isAlias (localPart (viaAddr via a.toNat / 32 * 32))
    then 3 else 1) (maskBytes (viaAddr via a.toNat / 32 * 32) data) = true → s.served (localPart (viaAddr via a.toNat /
    32 * 32)) = 0 → isAlias (localPart (viaAddr via a.toNat / 32 * 32)) = true → ecc = .none → s.bad = [] → (kvUnits.any
    fun x => s.fbit (Reg.ING_KV_CFG_EN x.1 x.2)) = false →
    ∃ t, exec (.wrReq via dst a data ecc) s = .next t ∧
      (i < data.length → t.mget (unalias ((localPart (viaAddr via a.toNat / 32 * 32)) + i)) =
        (match data.getD i none with | some v => s.aliasByte ((localPart (viaAddr via a.toNat / 32 * 32)) + i) v | none => s.mget (unalias ((localPart (viaAddr via a.toNat / 32 * 32)) + i))))
        ∧
      (via = .own m → t.sent = .ack :: s.sent) ∧
      (∀ x : Nat, x < unalias (localPart (viaAddr via a.toNat / 32 * 32)) ∨ unalias (localPart (viaAddr via a.toNat / 32
        * 32)) + data.length ≤ x → t.mget x = s.mget x) ∧
      (∀ reg : Nat, reg ∉ memorySide → t.rd reg = s.rd reg)) ∧
  -- WR_REQ: the region set forbids it (R397, R398) (R297)
  (∀ (s : State) (via : Via) (dst : BitVec 22) (a : BitVec 48) (data : List (Option Byte)) (ecc : Ecc) (k : Fin 12) (src
    : BitVec 30) (m : Master), s.canonical = true → s.down = false → (via = .own .pcie → s.barOpen = true) → (via = .own
    .jtag → s.fbit Reg.TRU_STATUS_DBG_OPEN = true) → (via = .link k src → s.endpointThere dst.toNat = true) → via = .link
    k src ∨ via = .own m → s.allowsBytes (viaWho via) (if isAlias (localPart (viaAddr via a.toNat / 32 * 32)) then 3 else
    1) (maskBytes (viaAddr via a.toNat / 32 * 32) data) = false →
    ∃ t, exec (.wrReq via dst a data ecc) s = .next t ∧
      (via = .link k src → coDev src.toNat = s.devid → .status src.toNat 4 0 0 0 ∈ t.sent) ∧
      (via = .own m → m ≠ .pcie → .refused 4 (viaAddr via a.toNat / 32 * 32) ∈ t.sent) ∧
      (via = .own .pcie → t.sent.length = s.sent.length ∨ .unsupported ∉ (t.sent.take (t.sent.length - s.sent.length))) ∧
      t.mem = s.mem ∧
      t.bad = s.bad ∧
      (∀ reg : Nat, reg ∉ memorySide → t.rd reg = s.rd reg)) ∧
  -- WR_REQ: DST names no endpoint (R309) (R297)
  (∀ (s : State) (via : Via) (dst : BitVec 22) (a : BitVec 48) (data : List (Option Byte)) (ecc : Ecc) (k : Fin 12) (src
    : BitVec 30), s.canonical = true → s.down = false → via = .link k src → s.endpointThere dst.toNat = false →
    ∃ t, exec (.wrReq via dst a data ecc) s = .next t ∧
      (coDev src.toNat = s.devid → t.sent = .status src.toNat 3 0 0 0 :: s.sent) ∧
      (t.rd Reg.MESH_BAD_DST_CNT).toNat = satCount 32 (s.rd Reg.MESH_BAD_DST_CNT).toNat 1 ∧
      t.mem = s.mem ∧
      t.bad = s.bad ∧
      (∀ reg : Nat, reg ∉ [Reg.MESH_BAD_DST_CNT, Reg.MESH_NOROUTE_CNT] ++ each 16 Reg.IBL_DROP_CNT → t.rd reg = s.rd
        reg)) ∧
  -- WR_REQ: the BARs or the debug port are closed (R474, R599) (R297)
  (∀ (s : State) (via : Via) (dst : BitVec 22) (a : BitVec 48) (data : List (Option Byte)) (ecc : Ecc), s.canonical =
    true → s.down = false → (via = .own .pcie ∧ s.barOpen = false) ∨ (via = .own .jtag ∧ s.fbit Reg.TRU_STATUS_DBG_OPEN =
    false) →
    ∃ t, exec (.wrReq via dst a data ecc) s = .next t ∧
      (via = .own .pcie → t.sent = .unsupported :: s.sent) ∧
      (via = .own .jtag → t.sent = .ack :: s.sent) ∧
      t.mem = s.mem ∧
      t.bad = s.bad ∧
      t.csr = s.csr) ∧
  -- WR_REQ: no memory serves it: NO_TARGET (3), UE (5), discarded (9), or the channel that retrains holds it (10) (R297)
  (∀ (s : State) (via : Via) (dst : BitVec 22) (a : BitVec 48) (data : List (Option Byte)) (ecc : Ecc) (k : Fin 12) (src
    : BitVec 30) (m : Master), s.canonical = true → s.down = false → (via = .own .pcie → s.barOpen = true) → (via = .own
    .jtag → s.fbit Reg.TRU_STATUS_DBG_OPEN = true) → (via = .link k src → s.endpointThere dst.toNat = true) → via = .link
    k src ∨ via = .own m → (via = .link k src → s.forwards dst.toNat (localPart (viaAddr via a.toNat / 32 * 32)) = none)
    → data.length ≤ 32 → s.allowsBytes (viaWho via) (if isAlias (localPart (viaAddr via a.toNat / 32 * 32)) then 3 else
    1) (maskBytes (viaAddr via a.toNat / 32 * 32) data) = true → (maskBytes (viaAddr via a.toNat / 32 * 32) data) ≠ [] →
    ∃ t, exec (.wrReq via dst a data ecc) s = .next t ∧
      (s.served (localPart (viaAddr via a.toNat / 32 * 32)) = 3 → via = .link k src → coDev src.toNat = s.devid → t.sent
        = .status src.toNat 3 0 0 0 :: s.sent) ∧
      (s.served (localPart (viaAddr via a.toNat / 32 * 32)) = 3 → via = .own m → t.sent = .refused 3 (viaAddr via a.toNat
        / 32 * 32) :: s.sent) ∧
      (s.served (localPart (viaAddr via a.toNat / 32 * 32)) = 5 → placeOf (localPart (viaAddr via a.toNat / 32 * 32)) =
        .ddr → via = .own m → t.sent = .refused 5 (viaAddr via a.toNat / 32 * 32) :: s.sent) ∧
      (s.served (localPart (viaAddr via a.toNat / 32 * 32)) = 10 → (s.ddr (s.ddrChan (localPart (viaAddr via a.toNat / 32
        * 32)))).queue.length < 256 → (t.ddr (s.ddrChan (localPart (viaAddr via a.toNat / 32 * 32)))).queue.length =
        (s.ddr (s.ddrChan (localPart (viaAddr via a.toNat / 32 * 32)))).queue.length + 1 ∧ t.sent = s.sent) ∧
      (s.served (localPart (viaAddr via a.toNat / 32 * 32)) ≠ 0 → t.mem = s.mem) ∧
      (∀ reg : Nat, reg ∉ memorySide → t.rd reg = s.rd reg)) ∧
  -- WR_REQ: a request for DDR4 that reached another channel is passed on (R410) (R297)
  (∀ (s : State) (via : Via) (dst : BitVec 22) (a : BitVec 48) (data : List (Option Byte)) (ecc : Ecc) (k : Fin 12) (src
    : BitVec 30) (c : Nat), s.canonical = true → s.down = false → via = .link k src → s.endpointThere dst.toNat = true →
    s.forwards dst.toNat (localPart (viaAddr via a.toNat / 32 * 32)) = some c → s.allowsBytes (.link k) 1 (maskBytes
    (viaAddr via a.toNat / 32 * 32) data) = true →
    ∃ t, exec (.wrReq via dst a data ecc) s = .next t ∧
      (t.rd (Reg.DDR_FWD_CNT (coX dst.toNat))).toNat = satCount 32 (s.rd (Reg.DDR_FWD_CNT (coX dst.toNat))).toNat 1 ∧
      t.sent = .cell 25 (ioCoord s.devid 1 c 0) (src.toNat % 2 ^ 22) (src.toNat / 2 ^ 22) false (fwdCells 17 (maskCells
        (viaAddr via a.toNat / 32 * 32) data)) :: s.sent ∧
      t.mem = s.mem ∧
      t.ddrs = s.ddrs ∧
      (∀ reg : Nat, reg ∉ each 8 Reg.DDR_FWD_CNT → t.rd reg = s.rd reg)) ∧
  -- WR_REQ: any write request: nothing beyond its granules changes (R297)
  (∀ (s : State) (via : Via) (dst : BitVec 22) (a : BitVec 48) (data : List (Option Byte)) (ecc : Ecc), s.canonical =
    true → s.down = false → data.length ≤ 32 →
    ∃ t, exec (.wrReq via dst a data ecc) s = .next t ∧
      t.counter = s.counter ∧
      t.cores = s.cores ∧
      (∀ x : Nat, x < unalias (localPart (viaAddr via a.toNat / 32 * 32)) ∨ unalias (localPart (viaAddr via a.toNat / 32
        * 32)) + data.length ≤ x → t.mget x = s.mget x) ∧
      (∀ reg : Nat, reg ∉ memorySide → t.rd reg = s.rd reg)) ∧
  -- WR_FULL (R462, R299, R322)
  (∀ (s : State) (via : Via) (dst : BitVec 22) (a : BitVec 48) (data : List Byte) (ecc : Ecc) (k : Fin 12) (src : BitVec
    30) (m : Master) (i : Nat), s.canonical = true → s.down = false → (via = .own .pcie → s.barOpen = true) → (via = .own
    .jtag → s.fbit Reg.TRU_STATUS_DBG_OPEN = true) → (via = .link k src → s.endpointThere dst.toNat = true) → via = .link
    k src ∨ via = .own m → (via = .link k src → s.forwards dst.toNat (localPart (viaAddr via a.toNat / 32 * 32)) = none)
    → (via = .link k src → 2 ≤ s.fget (Reg.IBL_GEN_CUR k)) → data.length ≤ 32 → s.allowsBytes (viaWho via) (if isAlias
    (localPart (viaAddr via a.toNat / 32 * 32)) then 3 else 1) (maskBytes (viaAddr via a.toNat / 32 * 32) (data.map
    some)) = true → s.served (localPart (viaAddr via a.toNat / 32 * 32)) = 0 → isAlias (localPart (viaAddr via a.toNat /
    32 * 32)) = false →
    (match placeOf (localPart (viaAddr via a.toNat / 32 * 32)) with | .window n _ => s.fbit (Reg.NC_CTL_EN n) | _ => false)
    = false → ecc = .none → s.bad = [] → (kvUnits.any fun x => s.fbit (Reg.ING_KV_CFG_EN x.1 x.2)) = false →
    ∃ t, exec (.wrFull via dst a data ecc) s = .next t ∧
      (i < data.length → t.mget ((localPart (viaAddr via a.toNat / 32 * 32)) + i) = (data.getD i 0)) ∧
      (via = .link k src → coDev src.toNat = s.devid → t.sent = .status src.toNat 0 0 0 0 :: s.sent) ∧
      (via = .own m → t.sent = .ack :: s.sent) ∧
      (∀ x : Nat, x < unalias (localPart (viaAddr via a.toNat / 32 * 32)) ∨ unalias (localPart (viaAddr via a.toNat / 32
        * 32)) + data.length ≤ x → t.mget x = s.mget x) ∧
      t.bad = [] ∧
      (∀ reg : Nat, reg ∉ memorySide → t.rd reg = s.rd reg)) ∧
  -- WR_FULL: an alias window sets or clears the bits that are 1 (R402) (R462, R299, R322)
  (∀ (s : State) (via : Via) (dst : BitVec 22) (a : BitVec 48) (data : List Byte) (ecc : Ecc) (k : Fin 12) (src : BitVec
    30) (m : Master) (i : Nat), s.canonical = true → s.down = false → (via = .own .pcie → s.barOpen = true) → (via = .own
    .jtag → s.fbit Reg.TRU_STATUS_DBG_OPEN = true) → (via = .link k src → s.endpointThere dst.toNat = true) → via = .link
    k src ∨ via = .own m → (via = .link k src → s.forwards dst.toNat (localPart (viaAddr via a.toNat / 32 * 32)) = none)
    → (via = .link k src → 2 ≤ s.fget (Reg.IBL_GEN_CUR k)) → data.length ≤ 32 → s.allowsBytes (viaWho via) (if isAlias
    (localPart (viaAddr via a.toNat / 32 * 32)) then 3 else 1) (maskBytes (viaAddr via a.toNat / 32 * 32) (data.map
    some)) = true → s.served (localPart (viaAddr via a.toNat / 32 * 32)) = 0 → isAlias (localPart (viaAddr via a.toNat /
    32 * 32)) = true → ecc = .none → s.bad = [] → (kvUnits.any fun x => s.fbit (Reg.ING_KV_CFG_EN x.1 x.2)) = false →
    ∃ t, exec (.wrFull via dst a data ecc) s = .next t ∧
      (i < data.length → t.mget (unalias ((localPart (viaAddr via a.toNat / 32 * 32)) + i)) = s.aliasByte ((localPart
        (viaAddr via a.toNat / 32 * 32)) + i) (data.getD i 0)) ∧
      (via = .own m → t.sent = .ack :: s.sent) ∧
      (∀ x : Nat, x < unalias (localPart (viaAddr via a.toNat / 32 * 32)) ∨ unalias (localPart (viaAddr via a.toNat / 32
        * 32)) + data.length ≤ x → t.mget x = s.mget x) ∧
      (∀ reg : Nat, reg ∉ memorySide → t.rd reg = s.rd reg)) ∧
  -- WR_FULL: the region set forbids it (R397, R398) (R462, R299, R322)
  (∀ (s : State) (via : Via) (dst : BitVec 22) (a : BitVec 48) (data : List Byte) (ecc : Ecc) (k : Fin 12) (src : BitVec
    30) (m : Master), s.canonical = true → s.down = false → (via = .own .pcie → s.barOpen = true) → (via = .own .jtag →
    s.fbit Reg.TRU_STATUS_DBG_OPEN = true) → (via = .link k src → s.endpointThere dst.toNat = true) → via = .link k src ∨
    via = .own m → s.allowsBytes (viaWho via) (if isAlias (localPart (viaAddr via a.toNat / 32 * 32)) then 3 else 1)
    (maskBytes (viaAddr via a.toNat / 32 * 32) (data.map some)) = false → (via = .link k src → 2 ≤ s.fget
    (Reg.IBL_GEN_CUR k)) →
    ∃ t, exec (.wrFull via dst a data ecc) s = .next t ∧
      (via = .link k src → coDev src.toNat = s.devid → .status src.toNat 4 0 0 0 ∈ t.sent) ∧
      (via = .own m → m ≠ .pcie → .refused 4 (viaAddr via a.toNat / 32 * 32) ∈ t.sent) ∧
      (via = .own .pcie → t.sent.length = s.sent.length ∨ .unsupported ∉ (t.sent.take (t.sent.length - s.sent.length))) ∧
      t.mem = s.mem ∧
      t.bad = s.bad ∧
      (∀ reg : Nat, reg ∉ memorySide → t.rd reg = s.rd reg)) ∧
  -- WR_FULL: DST names no endpoint (R309) (R462, R299, R322)
  (∀ (s : State) (via : Via) (dst : BitVec 22) (a : BitVec 48) (data : List Byte) (ecc : Ecc) (k : Fin 12) (src : BitVec
    30), s.canonical = true → s.down = false → via = .link k src → s.endpointThere dst.toNat = false → 2 ≤ s.fget
    (Reg.IBL_GEN_CUR k) →
    ∃ t, exec (.wrFull via dst a data ecc) s = .next t ∧
      (coDev src.toNat = s.devid → t.sent = .status src.toNat 3 0 0 0 :: s.sent) ∧
      (t.rd Reg.MESH_BAD_DST_CNT).toNat = satCount 32 (s.rd Reg.MESH_BAD_DST_CNT).toNat 1 ∧
      t.mem = s.mem ∧
      t.bad = s.bad ∧
      (∀ reg : Nat, reg ∉ [Reg.MESH_BAD_DST_CNT, Reg.MESH_NOROUTE_CNT] ++ each 16 Reg.IBL_DROP_CNT → t.rd reg = s.rd
        reg)) ∧
  -- WR_FULL: the BARs or the debug port are closed (R474, R599) (R462, R299, R322)
  (∀ (s : State) (via : Via) (dst : BitVec 22) (a : BitVec 48) (data : List Byte) (ecc : Ecc), s.canonical = true →
    s.down = false → (via = .own .pcie ∧ s.barOpen = false) ∨ (via = .own .jtag ∧ s.fbit Reg.TRU_STATUS_DBG_OPEN = false)
    →
    ∃ t, exec (.wrFull via dst a data ecc) s = .next t ∧
      (via = .own .pcie → t.sent = .unsupported :: s.sent) ∧
      (via = .own .jtag → t.sent = .ack :: s.sent) ∧
      t.mem = s.mem ∧
      t.bad = s.bad ∧
      t.csr = s.csr) ∧
  -- WR_FULL: no memory serves it: NO_TARGET (3), UE (5), discarded (9), or the channel that retrains holds it (10) (R462, R299, R322)
  (∀ (s : State) (via : Via) (dst : BitVec 22) (a : BitVec 48) (data : List Byte) (ecc : Ecc) (k : Fin 12) (src : BitVec
    30) (m : Master), s.canonical = true → s.down = false → (via = .own .pcie → s.barOpen = true) → (via = .own .jtag →
    s.fbit Reg.TRU_STATUS_DBG_OPEN = true) → (via = .link k src → s.endpointThere dst.toNat = true) → via = .link k src ∨
    via = .own m → (via = .link k src → s.forwards dst.toNat (localPart (viaAddr via a.toNat / 32 * 32)) = none) → (via =
    .link k src → 2 ≤ s.fget (Reg.IBL_GEN_CUR k)) → data.length ≤ 32 → s.allowsBytes (viaWho via) (if isAlias (localPart
    (viaAddr via a.toNat / 32 * 32)) then 3 else 1) (maskBytes (viaAddr via a.toNat / 32 * 32) (data.map some)) = true →
    (maskBytes (viaAddr via a.toNat / 32 * 32) (data.map some)) ≠ [] →
    ∃ t, exec (.wrFull via dst a data ecc) s = .next t ∧
      (s.served (localPart (viaAddr via a.toNat / 32 * 32)) = 3 → via = .link k src → coDev src.toNat = s.devid → t.sent
        = .status src.toNat 3 0 0 0 :: s.sent) ∧
      (s.served (localPart (viaAddr via a.toNat / 32 * 32)) = 3 → via = .own m → t.sent = .refused 3 (viaAddr via a.toNat
        / 32 * 32) :: s.sent) ∧
      (s.served (localPart (viaAddr via a.toNat / 32 * 32)) = 5 → placeOf (localPart (viaAddr via a.toNat / 32 * 32)) =
        .ddr → via = .own m → t.sent = .refused 5 (viaAddr via a.toNat / 32 * 32) :: s.sent) ∧
      (s.served (localPart (viaAddr via a.toNat / 32 * 32)) = 10 → (s.ddr (s.ddrChan (localPart (viaAddr via a.toNat / 32
        * 32)))).queue.length < 256 → (t.ddr (s.ddrChan (localPart (viaAddr via a.toNat / 32 * 32)))).queue.length =
        (s.ddr (s.ddrChan (localPart (viaAddr via a.toNat / 32 * 32)))).queue.length + 1 ∧ t.sent = s.sent) ∧
      (s.served (localPart (viaAddr via a.toNat / 32 * 32)) ≠ 0 → t.mem = s.mem) ∧
      (∀ reg : Nat, reg ∉ memorySide → t.rd reg = s.rd reg)) ∧
  -- WR_FULL: a request for DDR4 that reached another channel is passed on (R410) (R462, R299, R322)
  (∀ (s : State) (via : Via) (dst : BitVec 22) (a : BitVec 48) (data : List Byte) (ecc : Ecc) (k : Fin 12) (src : BitVec
    30) (c : Nat), s.canonical = true → s.down = false → via = .link k src → s.endpointThere dst.toNat = true →
    s.forwards dst.toNat (localPart (viaAddr via a.toNat / 32 * 32)) = some c → (via = .link k src → 2 ≤ s.fget
    (Reg.IBL_GEN_CUR k)) → s.allowsBytes (.link k) 1 (maskBytes (viaAddr via a.toNat / 32 * 32) (data.map some)) = true →
    ∃ t, exec (.wrFull via dst a data ecc) s = .next t ∧
      (t.rd (Reg.DDR_FWD_CNT (coX dst.toNat))).toNat = satCount 32 (s.rd (Reg.DDR_FWD_CNT (coX dst.toNat))).toNat 1 ∧
      t.sent = .cell 25 (ioCoord s.devid 1 c 0) (src.toNat % 2 ^ 22) (src.toNat / 2 ^ 22) false (fwdCells 21 (fullCells
        (maskBytes (viaAddr via a.toNat / 32 * 32) (data.map some)))) :: s.sent ∧
      t.mem = s.mem ∧
      t.ddrs = s.ddrs ∧
      (∀ reg : Nat, reg ∉ each 8 Reg.DDR_FWD_CNT → t.rd reg = s.rd reg)) ∧
  -- WR_FULL: any write request: nothing beyond its granules changes (R462, R299, R322)
  (∀ (s : State) (via : Via) (dst : BitVec 22) (a : BitVec 48) (data : List Byte) (ecc : Ecc), s.canonical = true →
    s.down = false → data.length ≤ 32 →
    ∃ t, exec (.wrFull via dst a data ecc) s = .next t ∧
      t.counter = s.counter ∧
      t.cores = s.cores ∧
      (∀ x : Nat, x < unalias (localPart (viaAddr via a.toNat / 32 * 32)) ∨ unalias (localPart (viaAddr via a.toNat / 32
        * 32)) + data.length ≤ x → t.mget x = s.mget x) ∧
      (∀ reg : Nat, reg ∉ memorySide → t.rd reg = s.rd reg)) ∧
  -- WR_FULL: WR_FULL from a link of generation 1 (R299, R322) (R462, R299, R322)
  (∀ (s : State) (via : Via) (dst : BitVec 22) (a : BitVec 48) (data : List Byte) (ecc : Ecc) (k : Fin 12) (src : BitVec
    30), s.canonical = true → s.down = false → via = .link k src → s.fget (Reg.IBL_GEN_CUR k) < 2 →
    ∃ t, exec (.wrFull via dst a data ecc) s = .next t ∧
      (t.rd Reg.MESH_TYPE_ERR_CNT).toNat = satCount 32 (s.rd Reg.MESH_TYPE_ERR_CNT).toNat 1 ∧
      (coDev src.toNat = s.devid → t.sent = .status src.toNat 7 0 0 0 :: s.sent) ∧
      t.mem = s.mem ∧
      (∀ reg : Nat, reg ∉ [Reg.MESH_TYPE_ERR_CNT, Reg.MESH_NOROUTE_CNT] ++ each 16 Reg.IBL_DROP_CNT → t.rd reg = s.rd
        reg)) ∧
  -- ATOM_REQ (R297, R400, R401)
  (∀ (s : State) (via : Via) (dst : BitVec 22) (a : BitVec 48) (op : BitVec 8) (x : BitVec 64) (y : BitVec 64) (ecc :
    Ecc) (k : Fin 12) (src : BitVec 30) (m : Master) (p l : Nat) (v : Bool), s.canonical = true → s.down = false → (via =
    .own .pcie → s.barOpen = true) → (via = .own .jtag → s.fbit Reg.TRU_STATUS_DBG_OPEN = true) → (via = .link k src →
    s.endpointThere dst.toNat = true) → via = .link k src ∨ via = .own m → p =
    (match (match via with | .own m => (privateOff m a.toNat).filter (fun (p : Nat × Nat) => ownMemory p.1 p.2 (if op.toNat % 2 = 0 then 4 else 8)) | .link _ _ => none) with | some x => ownAddr x.1 x.2 | none => viaAddr via a.toNat)
    → l = localPart p → v =
    ((match via with | .own m => (privateOff m a.toNat).filter (fun (p : Nat × Nat) => ownMemory p.1 p.2 (if op.toNat % 2 = 0 then 4 else 8)) | .link _ _ => none)).isSome
    → (v || s.allows (viaWho via) 2 p (if op.toNat % 2 = 0 then 4 else 8)) = true → op.toNat ≤ lastAtom via → op.toNat <
    20 → l % (if op.toNat % 2 = 0 then 4 else 8) = 0 → atomPlace l = true → s.served l = 0 → ecc = .none → s.bad = [] →
    (kvUnits.any fun x => s.fbit (Reg.ING_KV_CFG_EN x.1 x.2)) = false →
    ∃ t, exec (.atomReq via dst a op x y ecc) s = .next t ∧
      t.mnat l (if op.toNat % 2 = 0 then 4 else 8) = (atomNew op.toNat (8 * (if op.toNat % 2 = 0 then 4 else 8)) (s.mnat
        l (if op.toNat % 2 = 0 then 4 else 8)) x.toNat y.toNat).getD (s.mnat l (if op.toNat % 2 = 0 then 4 else 8)) ∧
      (∀ x : Nat, x < l ∨ l + (if op.toNat % 2 = 0 then 4 else 8) ≤ x → t.mget x = s.mget x) ∧
      (via = .link k src → coDev src.toNat = s.devid → t.sent = .cell 22 (src.toNat % 2 ^ 22) (s.memCoord s.devid l)
        (src.toNat / 2 ^ 22) false [rdData (leBytes 8 (s.mnat l (if op.toNat % 2 = 0 then 4 else 8))) 0] :: s.sent) ∧
      (via = .own m → t.sent = .readValue (s.mnat l (if op.toNat % 2 = 0 then 4 else 8)) :: s.sent) ∧
      t.bad = [] ∧
      (∀ reg : Nat, reg ∉ memorySide → t.rd reg = s.rd reg)) ∧
  -- ATOM_REQ: a core's LR reads and reserves (R401) (R297, R400, R401)
  (∀ (s : State) (via : Via) (dst : BitVec 22) (a : BitVec 48) (op : BitVec 8) (x : BitVec 64) (y : BitVec 64) (ecc :
    Ecc) (c : Fin 128) (p l : Nat) (v : Bool), s.canonical = true → s.down = false → p =
    (match (match via with | .own m => (privateOff m a.toNat).filter (fun (p : Nat × Nat) => ownMemory p.1 p.2 (if op.toNat % 2 = 0 then 4 else 8)) | .link _ _ => none) with | some x => ownAddr x.1 x.2 | none => viaAddr via a.toNat)
    → l = localPart p → v =
    ((match via with | .own m => (privateOff m a.toNat).filter (fun (p : Nat × Nat) => ownMemory p.1 p.2 (if op.toNat % 2 = 0 then 4 else 8)) | .link _ _ => none)).isSome
    → (v || s.allows (viaWho via) 2 p (if op.toNat % 2 = 0 then 4 else 8)) = true → via = .own (.seq c) → op.toNat / 2 =
    10 → l % (if op.toNat % 2 = 0 then 4 else 8) = 0 → atomPlace l = true → s.served l = 0 → ecc = .none → s.bad = [] →
    (kvUnits.any fun x => s.fbit (Reg.ING_KV_CFG_EN x.1 x.2)) = false →
    ∃ t, exec (.atomReq via dst a op x y ecc) s = .next t ∧
      t.sent = .readValue (s.mnat l (if op.toNat % 2 = 0 then 4 else 8)) :: s.sent ∧
      (t.seq c).lr = some (l, (if op.toNat % 2 = 0 then 4 else 8), (s.mnat l (if op.toNat % 2 = 0 then 4 else 8))) ∧
      (t.seq c).frm = (s.seq c).frm ∧
      t.mem = s.mem ∧
      (∀ reg : Nat, reg ∉ memorySide → t.rd reg = s.rd reg)) ∧
  -- ATOM_REQ: a core's SC stores while its reservation stands; elsewhere than in its own memory where the value is still the one LR returned (R401) (R297, R400, R401)
  (∀ (s : State) (via : Via) (dst : BitVec 22) (a : BitVec 48) (op : BitVec 8) (x : BitVec 64) (y : BitVec 64) (ecc :
    Ecc) (c : Fin 128) (p l : Nat) (v : Bool) (w : Nat) (o : Bool), s.canonical = true → s.down = false → p =
    (match (match via with | .own m => (privateOff m a.toNat).filter (fun (p : Nat × Nat) => ownMemory p.1 p.2 (if op.toNat % 2 = 0 then 4 else 8)) | .link _ _ => none) with | some x => ownAddr x.1 x.2 | none => viaAddr via a.toNat)
    → l = localPart p → v =
    ((match via with | .own m => (privateOff m a.toNat).filter (fun (p : Nat × Nat) => ownMemory p.1 p.2 (if op.toNat % 2 = 0 then 4 else 8)) | .link _ _ => none)).isSome
    → (v || s.allows (viaWho via) 2 p (if op.toNat % 2 = 0 then 4 else 8)) = true → via = .own (.seq c) → op.toNat / 2 =
    11 → l % (if op.toNat % 2 = 0 then 4 else 8) = 0 → atomPlace l = true → s.served l = 0 → ecc = .none → o =
    (match placeOf l with | .seqMem j _ => decide (c.val = j) | _ => false) → s.bad = [] → (kvUnits.any fun x => s.fbit
    (Reg.ING_KV_CFG_EN x.1 x.2)) = false →
    ∃ t, exec (.atomReq via dst a op x y ecc) s = .next t ∧
      (t.seq c).lr = none ∧
      ((s.seq c).lr = some (l, (if op.toNat % 2 = 0 then 4 else 8), w) → o = true ∨ (s.mnat l (if op.toNat % 2 = 0 then 4
        else 8)) = w → t.mnat l (if op.toNat % 2 = 0 then 4 else 8) = x.toNat % 2 ^ (8 * (if op.toNat % 2 = 0 then 4 else
        8)) ∧ t.sent = .readValue 0 :: s.sent) ∧
      ((s.seq c).lr = some (l, (if op.toNat % 2 = 0 then 4 else 8), w) → o = false → (s.mnat l (if op.toNat % 2 = 0 then
        4 else 8)) ≠ w → t.mem = s.mem ∧ t.sent = .readValue 1 :: s.sent) ∧
      ((s.seq c).lr.all (fun z => decide (z.1 ≠ l ∨ z.2.1 ≠ (if op.toNat % 2 = 0 then 4 else 8))) = true → t.mem = s.mem
        ∧ t.sent = .readValue 1 :: s.sent) ∧
      (∀ x : Nat, x < l ∨ l + (if op.toNat % 2 = 0 then 4 else 8) ≤ x → t.mget x = s.mget x) ∧
      (∀ reg : Nat, reg ∉ memorySide → t.rd reg = s.rd reg)) ∧
  -- ATOM_REQ: refused BAD_TYPE or NO_TARGET: no such operation, misaligned, or elsewhere than a slice or a core memory (R400) (R297, R400, R401)
  (∀ (s : State) (via : Via) (dst : BitVec 22) (a : BitVec 48) (op : BitVec 8) (x : BitVec 64) (y : BitVec 64) (ecc :
    Ecc) (k : Fin 12) (src : BitVec 30) (m : Master) (p l : Nat) (v : Bool), s.canonical = true → s.down = false → (via =
    .own .pcie → s.barOpen = true) → (via = .own .jtag → s.fbit Reg.TRU_STATUS_DBG_OPEN = true) → (via = .link k src →
    s.endpointThere dst.toNat = true) → via = .link k src ∨ via = .own m → p =
    (match (match via with | .own m => (privateOff m a.toNat).filter (fun (p : Nat × Nat) => ownMemory p.1 p.2 (if op.toNat % 2 = 0 then 4 else 8)) | .link _ _ => none) with | some x => ownAddr x.1 x.2 | none => viaAddr via a.toNat)
    → l = localPart p → v =
    ((match via with | .own m => (privateOff m a.toNat).filter (fun (p : Nat × Nat) => ownMemory p.1 p.2 (if op.toNat % 2 = 0 then 4 else 8)) | .link _ _ => none)).isSome
    → (v || s.allows (viaWho via) 2 p (if op.toNat % 2 = 0 then 4 else 8)) = true → lastAtom via < op.toNat ∨ l % (if
    op.toNat % 2 = 0 then 4 else 8) ≠ 0 ∨ atomPlace l = false →
    ∃ t, exec (.atomReq via dst a op x y ecc) s = .next t ∧
      (via = .link k src → coDev src.toNat = s.devid → t.sent = .status src.toNat (if placeOf l = .unmapped then 3 else
        7) 0 0 0 :: s.sent) ∧
      (via = .own m → t.sent = .refused (if placeOf l = .unmapped then 3 else 7) p :: s.sent) ∧
      t.mem = s.mem ∧
      (∀ reg : Nat, reg ∉ [Reg.MESH_NOROUTE_CNT] ++ each 16 Reg.IBL_DROP_CNT → t.rd reg = s.rd reg)) ∧
  -- ATOM_REQ: the region set forbids it (R397, R398) (R297, R400, R401)
  (∀ (s : State) (via : Via) (dst : BitVec 22) (a : BitVec 48) (op : BitVec 8) (x : BitVec 64) (y : BitVec 64) (ecc :
    Ecc) (k : Fin 12) (src : BitVec 30) (m : Master), s.canonical = true → s.down = false → (via = .own .pcie → s.barOpen
    = true) → (via = .own .jtag → s.fbit Reg.TRU_STATUS_DBG_OPEN = true) → (via = .link k src → s.endpointThere dst.toNat
    = true) → via = .link k src ∨ via = .own m → s.allows (viaWho via) 2 (viaAddr via a.toNat) (if op.toNat % 2 = 0 then
    4 else 8) = false →
    (match via with | .own m => (privateOff m a.toNat).filter (fun (p : Nat × Nat) => ownMemory p.1 p.2 (if op.toNat % 2 = 0 then 4 else 8)) | .link _ _ => none)
    = none →
    ∃ t, exec (.atomReq via dst a op x y ecc) s = .next t ∧
      (via = .link k src → coDev src.toNat = s.devid → .status src.toNat 4 0 0 0 ∈ t.sent) ∧
      (via = .own m → m ≠ .pcie → .refused 4 (viaAddr via a.toNat) ∈ t.sent) ∧
      (via = .own .pcie → .unsupported ∈ t.sent) ∧
      t.mem = s.mem ∧
      t.bad = s.bad ∧
      (∀ reg : Nat, reg ∉ memorySide → t.rd reg = s.rd reg)) ∧
  -- ATOM_REQ: DST names no endpoint (R309) (R297, R400, R401)
  (∀ (s : State) (via : Via) (dst : BitVec 22) (a : BitVec 48) (op : BitVec 8) (x : BitVec 64) (y : BitVec 64) (ecc :
    Ecc) (k : Fin 12) (src : BitVec 30), s.canonical = true → s.down = false → via = .link k src → s.endpointThere
    dst.toNat = false →
    ∃ t, exec (.atomReq via dst a op x y ecc) s = .next t ∧
      (coDev src.toNat = s.devid → t.sent = .status src.toNat 3 0 0 0 :: s.sent) ∧
      (t.rd Reg.MESH_BAD_DST_CNT).toNat = satCount 32 (s.rd Reg.MESH_BAD_DST_CNT).toNat 1 ∧
      t.mem = s.mem ∧
      t.bad = s.bad ∧
      (∀ reg : Nat, reg ∉ [Reg.MESH_BAD_DST_CNT, Reg.MESH_NOROUTE_CNT] ++ each 16 Reg.IBL_DROP_CNT → t.rd reg = s.rd
        reg)) ∧
  -- ATOM_REQ: the BARs or the debug port are closed (R474, R599) (R297, R400, R401)
  (∀ (s : State) (via : Via) (dst : BitVec 22) (a : BitVec 48) (op : BitVec 8) (x : BitVec 64) (y : BitVec 64) (ecc :
    Ecc), s.canonical = true → s.down = false → (via = .own .pcie ∧ s.barOpen = false) ∨ (via = .own .jtag ∧ s.fbit
    Reg.TRU_STATUS_DBG_OPEN = false) →
    ∃ t, exec (.atomReq via dst a op x y ecc) s = .next t ∧
      (via = .own .pcie → t.sent = .unsupported :: s.sent) ∧
      (via = .own .jtag → t.sent = .readValue 0 :: s.sent) ∧
      t.mem = s.mem ∧
      t.bad = s.bad ∧
      t.csr = s.csr) ∧
  -- ATOM_REQ: any atomic request (R297, R400, R401)
  (∀ (s : State) (via : Via) (dst : BitVec 22) (a : BitVec 48) (op : BitVec 8) (x : BitVec 64) (y : BitVec 64) (ecc :
    Ecc) (p l : Nat), s.canonical = true → s.down = false → p =
    (match (match via with | .own m => (privateOff m a.toNat).filter (fun (p : Nat × Nat) => ownMemory p.1 p.2 (if op.toNat % 2 = 0 then 4 else 8)) | .link _ _ => none) with | some x => ownAddr x.1 x.2 | none => viaAddr via a.toNat)
    → l = localPart p →
    ∃ t, exec (.atomReq via dst a op x y ecc) s = .next t ∧
      t.counter = s.counter ∧
      t.cores = s.cores ∧
      (∀ x : Nat, x < l ∨ l + 8 ≤ x → t.mget x = s.mget x) ∧
      (∀ reg : Nat, reg ∉ memorySide → t.rd reg = s.rd reg))

/-- Mesh replies, forwarded requests and other cells complete. Replies at their requester, a forwarded request, a cell of
unknown type, an escaped cell and a control word. (09_mesh_and_links.md, 11_dma_programs.md, 12_memories.md.) -/
def Obligations.MeshRepliesAndCellsComplete : Prop :=
  -- RD_DATA (R297)
  (∀ (s : State) (back : Requester) (a : BitVec 48) (index : BitVec 8) (data : List Byte) (poison : Bool) (o : Fin 136),
    s.canonical = true → s.down = false → s.endpointThere (requesterCoord s.devid back) = true → (s.iface (requesterCoord
    s.devid back)).wait = [] → back = .core o → (s.owner o).stalled = [] → (s.owner o).mc = none →
    ∃ t, exec (.rdData back a index data poison) s = .next t ∧
      t.sent = (if poison then .refused 5 a.toNat else .readValue (leNat (data.take 32))) :: s.sent ∧
      (t.iface (requesterCoord s.devid back)).held = (s.iface (requesterCoord s.devid back)).held - 1 ∧
      t.csr = s.csr ∧
      t.mem = s.mem) ∧
  -- RD_DATA: a reply to the read that a channel awaits (R375) (R297)
  (∀ (s : State) (back : Requester) (a : BitVec 48) (index : BitVec 8) (data : List Byte) (poison : Bool) (ch : Fin 1056)
    (w : DmaWait), s.canonical = true → s.down = false → s.endpointThere (requesterCoord s.devid back) = true → (s.iface
    (requesterCoord s.devid back)).wait = [] → back = .dma ch → (s.dma ch).lost.find? (fun w => w.isRead a.toNat) = none
    → (s.dma ch).wait = some w → w.isRead a.toNat = true → (s.dma ch).err = none →
    ∃ t, exec (.rdData back a index data poison) s = .next t ∧
      (poison = true → t.dmaState ch = 6 ∧ t.fget (Reg.DMA_STATUS_ERR ch) = 4 ∧ t.rd64 (Reg.DMA_FAULT_LO ch) = w.addr % 2
        ^ 64) ∧
      (poison = false → (w.more index.toNat data).got.length < (w.more index.toNat data).need → (t.dma ch).wait = some
        (w.more index.toNat data) ∧ t.sent = s.sent ∧ (t.iface (requesterCoord s.devid back)).held = (s.iface
        (requesterCoord s.devid back)).held - 1) ∧
      (poison = false → (w.more index.toNat data).need ≤ (w.more index.toNat data).got.length → w.kind = 0 → (t.dma
        ch).wait = none ∧ t.dmaPc ch = s.dmaPc ch) ∧
      (w.kind = 0 → t.mem = s.mem) ∧
      (∀ reg : Nat, reg ∉ each 32 Reg.ING_WAKE_NACK_CNT ++ each 137 Reg.Q_MC_DONE ++ each 137 Reg.Q_MC_FAIL ++ each 137
        Reg.Q_STATUS ++ each 137 Reg.Q_TX_FAIL_CNT ++ memorySide → t.rd reg = s.rd reg)) ∧
  -- RD_DATA: a reply to a read from before a disable, or one that the channel does not await, is discarded (R387) (R297)
  (∀ (s : State) (back : Requester) (a : BitVec 48) (index : BitVec 8) (data : List Byte) (poison : Bool) (ch : Fin
    1056), s.canonical = true → s.down = false → s.endpointThere (requesterCoord s.devid back) = true → (s.iface
    (requesterCoord s.devid back)).wait = [] → back = .dma ch → (s.dma ch).lost ≠ [] ∨ (s.dma ch).wait.all (fun w =>
    !w.isRead a.toNat) = true → (s.dma ch).lost.any (fun w => w.isRead a.toNat) = true ∨ (s.dma ch).wait.all (fun w =>
    !w.isRead a.toNat) = true →
    ∃ t, exec (.rdData back a index data poison) s = .next t ∧
      (t.dma ch).wait = (s.dma ch).wait ∧
      (t.dma ch).buf = (s.dma ch).buf ∧
      (t.iface (requesterCoord s.devid back)).held = (s.iface (requesterCoord s.devid back)).held - 1 ∧
      t.mem = s.mem ∧
      t.sent = s.sent ∧
      t.csr = s.csr) ∧
  -- RD_DATA: a tile or a stream awaits no data in this model: its reply cell is free again (R297)
  (∀ (s : State) (back : Requester) (a : BitVec 48) (index : BitVec 8) (data : List Byte) (poison : Bool), s.canonical =
    true → s.down = false → s.endpointThere (requesterCoord s.devid back) = true → (s.iface (requesterCoord s.devid
    back)).wait = [] → (∃ i, back = .tile i) ∨ (∃ i, back = .stream i) →
    ∃ t, exec (.rdData back a index data poison) s = .next t ∧
      (t.iface (requesterCoord s.devid back)).held = (s.iface (requesterCoord s.devid back)).held - 1 ∧
      t.mem = s.mem ∧
      t.sent = s.sent ∧
      t.csr = s.csr) ∧
  -- RD_DATA: the requester is not there: the router sinks it (R309) (R297)
  (∀ (s : State) (back : Requester) (a : BitVec 48) (index : BitVec 8) (data : List Byte) (poison : Bool), s.canonical =
    true → s.down = false → s.endpointThere (requesterCoord s.devid back) = false →
    ∃ t, exec (.rdData back a index data poison) s = .next t ∧
      (t.rd Reg.MESH_BAD_DST_CNT).toNat = satCount 32 (s.rd Reg.MESH_BAD_DST_CNT).toNat 1 ∧
      t.mem = s.mem ∧
      t.sent = s.sent ∧
      (∀ reg : Nat, reg ∉ [Reg.MESH_BAD_DST_CNT] → t.rd reg = s.rd reg)) ∧
  -- RD_DATA: any read reply (R297)
  (∀ (s : State) (back : Requester) (a : BitVec 48) (index : BitVec 8) (data : List Byte) (poison : Bool), s.canonical =
    true → s.down = false →
    ∃ t, exec (.rdData back a index data poison) s = .next t ∧
      t.counter = s.counter ∧
      t.cores = s.cores ∧
      ((∀ ch, back ≠ .dma ch) → t.mem = s.mem) ∧
      (∀ reg : Nat, reg ∉ each 32 Reg.ING_WAKE_NACK_CNT ++ each 137 Reg.Q_MC_DONE ++ each 137 Reg.Q_MC_FAIL ++ each 137
        Reg.Q_STATUS ++ each 137 Reg.Q_TX_FAIL_CNT ++ memorySide → t.rd reg = s.rd reg)) ∧
  -- STATUS_REPLY (R297, R354, R411)
  (∀ (s : State) (back : Requester) (code : Fin 8) (why : BitVec 8) (value : Word) (req : Request) (o : Fin 136) (dev :
    BitVec 3) (obj : BitVec 16) (op : Fin 5) (arg : Word) (wqn : BitVec 16), s.canonical = true → s.down = false →
    s.endpointThere (requesterCoord s.devid back) = true → (s.iface (requesterCoord s.devid back)).wait = [] → back =
    .core o → (s.owner o).stalled = [] → (s.owner o).mc = none → req = .sync dev obj op arg wqn →
    ∃ t, exec (.statusReply back code why value req) s = .next t ∧
      (code = 1 → why = 3 → t.resends = s.resends ++ [⟨dev.toNat, obj.toNat, op, arg.toNat, wqn.toNat, ownerCoord s.devid
        o, s.time + 100⟩] ∧ t.csr = s.csr ∧ t.sent = s.sent ∧ (t.iface (requesterCoord s.devid back)).held = (s.iface
        (requesterCoord s.devid back)).held - 0) ∧
      (code = 0 → t.csr = s.csr ∧ t.sent = (if op = 4 then .readValue value.toNat :: s.sent else s.sent) ∧ (t.iface
        (requesterCoord s.devid back)).held = (s.iface (requesterCoord s.devid back)).held - 1) ∧
      (code ≠ 0 → code ≠ 1 ∨ why ≠ 3 → t.fbit (Reg.Q_STATUS_SYNC_ERR o) = true ∧ (t.rd (Reg.SYNC_ERR_CNT o)).toNat =
        satCount 32 (s.rd (Reg.SYNC_ERR_CNT o)).toNat 1 ∧ t.sent = (if op = 4 then .readValue 0 :: s.sent else s.sent)) ∧
      t.mem = s.mem ∧
      (∀ reg : Nat, reg ∉ each 137 Reg.Q_STATUS ++ each 137 Reg.SYNC_ERR_CNT ++ each 32 Reg.ING_WAKE_NACK_CNT ++ each 137
        Reg.Q_MC_DONE ++ each 137 Reg.Q_MC_FAIL ++ each 137 Reg.Q_TX_FAIL_CNT ++ memorySide → t.rd reg = s.rd reg)) ∧
  -- STATUS_REPLY: the reply to a core's read: sent again after BUSY (R411), else an access fault (R297, R354, R411)
  (∀ (s : State) (back : Requester) (code : Fin 8) (why : BitVec 8) (value : Word) (req : Request) (o : Fin 136) (a :
    BitVec 48) (n : BitVec 16), s.canonical = true → s.down = false → s.endpointThere (requesterCoord s.devid back) =
    true → (s.iface (requesterCoord s.devid back)).wait = [] → back = .core o → (s.owner o).stalled = [] → (s.owner o).mc
    = none → req = .read a n →
    ∃ t, exec (.statusReply back code why value req) s = .next t ∧
      (code = 1 → why = 4 → t.again = s.again ++ [(s.time + 1000, .cell 16 (s.memCoord (s.addrDev a.toNat) (localPart
        a.toNat)) (ownerCoord s.devid o) (s.iface (ownerCoord s.devid o)).tag false [rdPayload a.toNat ((n.toNat + 31) /
        32)])] ∧ t.sent = s.sent ∧ (t.iface (requesterCoord s.devid back)).held = (s.iface (requesterCoord s.devid
        back)).held - 0) ∧
      (code ≠ 0 → code ≠ 1 ∨ why ≠ 4 → t.sent = .refused code a.toNat :: s.sent ∧ (t.iface (requesterCoord s.devid
        back)).held = (s.iface (requesterCoord s.devid back)).held - ((n.toNat + 31) / 32)) ∧
      t.csr = s.csr ∧
      t.mem = s.mem) ∧
  -- STATUS_REPLY: the reply to a core's write: its acknowledgement, or an access fault; the last one completes a Q_WDRAIN (R362) (R297, R354, R411)
  (∀ (s : State) (back : Requester) (code : Fin 8) (why : BitVec 8) (value : Word) (req : Request) (o : Fin 136) (a :
    BitVec 48) (data : List (Option Byte)), s.canonical = true → s.down = false → s.endpointThere (requesterCoord s.devid
    back) = true → (s.iface (requesterCoord s.devid back)).wait = [] → back = .core o → (s.owner o).stalled = [] →
    (s.owner o).mc = none → req = .write a data →
    ∃ t, exec (.statusReply back code why value req) s = .next t ∧
      (code = 0 → (s.owner o).drain = false → t.sent = .ack :: s.sent) ∧
      (code = 0 → (s.owner o).drain = true → (s.owner o).out ≤ 1 → t.sent = .readValue 0 :: .ack :: s.sent ∧ (t.owner
        o).drain = false) ∧
      (code ≠ 0 → code ≠ 1 ∨ why ≠ 4 → (s.owner o).drain = false → t.sent = .refused code a.toNat :: s.sent) ∧
      (code ≠ 1 ∨ why ≠ 4 → (t.owner o).out = (s.owner o).out - 1 ∧ (t.iface (requesterCoord s.devid back)).held =
        (s.iface (requesterCoord s.devid back)).held - 1) ∧
      (code = 1 → why = 4 → t.again.length = s.again.length + 1 ∧ t.sent = s.sent ∧ (t.owner o).out = (s.owner o).out) ∧
      t.csr = s.csr ∧
      t.mem = s.mem) ∧
  -- STATUS_REPLY: the reply to a channel's SIGNAL (R378) (R297, R354, R411)
  (∀ (s : State) (back : Requester) (code : Fin 8) (why : BitVec 8) (value : Word) (req : Request) (ch : Fin 1056) (dev :
    BitVec 3) (obj : BitVec 16) (op : Fin 5) (arg : Word) (wqn : BitVec 16) (e : Nat), s.canonical = true → s.down =
    false → s.endpointThere (requesterCoord s.devid back) = true → (s.iface (requesterCoord s.devid back)).wait = [] →
    back = .dma ch → req = .sync dev obj op arg wqn → op ≠ 2 → op ≠ 3 → (s.dma ch).sigs = [(obj.toNat, e)] → (s.dma
    ch).err = none → (s.dma ch).wait = none →
    ∃ t, exec (.statusReply back code why value req) s = .next t ∧
      (code = 1 → why = 3 → t.dmas = s.dmas) ∧
      (code = 0 → (t.dma ch).sigs = [] ∧ t.dmaState ch = s.dmaState ch ∧ t.sent = s.sent) ∧
      (code ≠ 0 → code ≠ 1 ∨ why ≠ 3 → t.dmaState ch = 6 ∧ t.fget (Reg.DMA_STATUS_ERR ch) = 5 ∧ t.rd64 (Reg.DMA_FAULT_LO
        ch) = obj.toNat ∧ (t.dma ch).sigs = []) ∧
      t.mem = s.mem ∧
      (∀ reg : Nat, reg ∉ each 137 Reg.Q_STATUS ++ each 137 Reg.SYNC_ERR_CNT ++ each 32 Reg.ING_WAKE_NACK_CNT ++ each 137
        Reg.Q_MC_DONE ++ each 137 Reg.Q_MC_FAIL ++ each 137 Reg.Q_TX_FAIL_CNT ++ memorySide → t.rd reg = s.rd reg)) ∧
  -- STATUS_REPLY: a channel's WATCH is refused: TARGET (R389) (R297, R354, R411)
  (∀ (s : State) (back : Requester) (code : Fin 8) (why : BitVec 8) (value : Word) (req : Request) (ch : Fin 1056) (dev :
    BitVec 3) (obj : BitVec 16) (op : Fin 5) (arg : Word) (wqn : BitVec 16) (v : Nat) (eq : Bool), s.canonical = true →
    s.down = false → s.endpointThere (requesterCoord s.devid back) = true → (s.iface (requesterCoord s.devid back)).wait
    = [] → back = .dma ch → req = .sync dev obj op arg wqn → op = 2 ∨ op = 3 → (s.dma ch).watch = some (obj.toNat, v, eq)
    → (s.dma ch).err = none → (s.dma ch).wait = none →
    ∃ t, exec (.statusReply back code why value req) s = .next t ∧
      (code = 0 → (t.dma ch).watch = (s.dma ch).watch ∧ t.dmaState ch = s.dmaState ch) ∧
      (code = 1 → why = 3 → (t.dma ch).watch = (s.dma ch).watch ∧ t.dmaState ch = s.dmaState ch) ∧
      (code ≠ 0 → code ≠ 1 ∨ why ≠ 3 → t.dmaState ch = 6 ∧ t.fget (Reg.DMA_STATUS_ERR ch) = 5 ∧ (t.dma ch).watch = none)
        ∧
      t.mem = s.mem ∧
      (∀ reg : Nat, reg ∉ each 137 Reg.Q_STATUS ++ each 137 Reg.SYNC_ERR_CNT ++ each 32 Reg.ING_WAKE_NACK_CNT ++ each 137
        Reg.Q_MC_DONE ++ each 137 Reg.Q_MC_FAIL ++ each 137 Reg.Q_TX_FAIL_CNT ++ memorySide → t.rd reg = s.rd reg)) ∧
  -- STATUS_REPLY: the reply to a channel's memory request (R375, R389) (R297, R354, R411)
  (∀ (s : State) (back : Requester) (code : Fin 8) (why : BitVec 8) (value : Word) (req : Request) (ch : Fin 1056) (w :
    DmaWait), s.canonical = true → s.down = false → s.endpointThere (requesterCoord s.devid back) = true → (s.iface
    (requesterCoord s.devid back)).wait = [] → back = .dma ch → (s.dma ch).lost = [] → (s.dma ch).wait = some w →
    (match req with | .read a _ => w.isRead a.toNat | .write a _ => w.isWrite a.toNat | .sync _ _ _ _ _ => false) = true
    → (s.dma ch).err = none → code ≠ 1 ∨ why ≠ 4 → code ≠ 0 →
    ∃ t, exec (.statusReply back code why value req) s = .next t ∧
      t.dmaState ch = 6 ∧
      t.fget (Reg.DMA_STATUS_ERR ch) = dmaErr code ∧
      t.rd64 (Reg.DMA_FAULT_LO ch) = w.addr % 2 ^ 64 ∧
      (t.dma ch).wait = none ∧
      t.mem = s.mem ∧
      (∀ reg : Nat, reg ∉ each 137 Reg.Q_STATUS ++ each 137 Reg.SYNC_ERR_CNT ++ each 32 Reg.ING_WAKE_NACK_CNT ++ each 137
        Reg.Q_MC_DONE ++ each 137 Reg.Q_MC_FAIL ++ each 137 Reg.Q_TX_FAIL_CNT ++ memorySide → t.rd reg = s.rd reg)) ∧
  -- STATUS_REPLY: a tile or a stream: its reply cells are free again, and a BUSY request is sent again (R297, R354, R411)
  (∀ (s : State) (back : Requester) (code : Fin 8) (why : BitVec 8) (value : Word) (req : Request), s.canonical = true →
    s.down = false → s.endpointThere (requesterCoord s.devid back) = true → (s.iface (requesterCoord s.devid back)).wait
    = [] → (∃ i, back = .tile i) ∨ (∃ i, back = .stream i) →
    ∃ t, exec (.statusReply back code why value req) s = .next t ∧
      (code = 0 → (t.iface (requesterCoord s.devid back)).held = (s.iface (requesterCoord s.devid back)).held -
        statusCells code why.toNat req ∧ t.again = s.again ∧ t.resends = s.resends) ∧
      t.csr = s.csr ∧
      t.mem = s.mem ∧
      t.sent = s.sent) ∧
  -- STATUS_REPLY: the requester is not there: the router sinks it (R309) (R297, R354, R411)
  (∀ (s : State) (back : Requester) (code : Fin 8) (why : BitVec 8) (value : Word) (req : Request), s.canonical = true →
    s.down = false → s.endpointThere (requesterCoord s.devid back) = false →
    ∃ t, exec (.statusReply back code why value req) s = .next t ∧
      (t.rd Reg.MESH_BAD_DST_CNT).toNat = satCount 32 (s.rd Reg.MESH_BAD_DST_CNT).toNat 1 ∧
      t.mem = s.mem ∧
      t.sent = s.sent ∧
      (∀ reg : Nat, reg ∉ [Reg.MESH_BAD_DST_CNT] → t.rd reg = s.rd reg)) ∧
  -- STATUS_REPLY: any status reply (R297, R354, R411)
  (∀ (s : State) (back : Requester) (code : Fin 8) (why : BitVec 8) (value : Word) (req : Request), s.canonical = true →
    s.down = false →
    ∃ t, exec (.statusReply back code why value req) s = .next t ∧
      t.counter = s.counter ∧
      t.cores = s.cores ∧
      ((∀ ch, back ≠ .dma ch) → t.mem = s.mem) ∧
      (∀ reg : Nat, reg ∉ each 137 Reg.Q_STATUS ++ each 137 Reg.SYNC_ERR_CNT ++ each 32 Reg.ING_WAKE_NACK_CNT ++ each 137
        Reg.Q_MC_DONE ++ each 137 Reg.Q_MC_FAIL ++ each 137 Reg.Q_TX_FAIL_CNT ++ memorySide → t.rd reg = s.rd reg)) ∧
  -- FWD (R410, R309)
  (∀ (s : State) (c : Fin 8) (src : BitVec 30) (req : Request) (ecc : Ecc) (ra : BitVec 48) (n : BitVec 16), s.canonical
    = true → s.down = false → s.endpointThere (ioCoord s.devid 1 c 0) = true → req = .read ra n → (List.range ((n.toNat +
    31) / 32)).all (fun i => decide (s.served (localPart ((ra.toNat % 2 ^ 44) + 32 * i)) = 0)) = true → ecc = .none →
    s.bad = [] → (kvUnits.any fun x => s.fbit (Reg.ING_KV_CFG_EN x.1 x.2)) = false →
    ∃ t, exec (.fwd c src req ecc) s = .next t ∧
      (coDev src.toNat = s.devid → t.sent = (List.range ((n.toNat + 31) / 32)).reverse.map (fun i => .cell 22 (src.toNat
        % 2 ^ 22) (s.memCoord s.devid (localPart ((ra.toNat % 2 ^ 44) + 32 * i))) (src.toNat / 2 ^ 22) false [rdData
        ((List.range 32).map fun j => s.mget (unalias (localPart ((ra.toNat % 2 ^ 44) + 32 * i)) + j)) i]) ++ s.sent) ∧
      t.mem = s.mem ∧
      (∀ reg : Nat, reg ∉ memorySide → t.rd reg = s.rd reg)) ∧
  -- FWD: a forwarded write (R410, R309)
  (∀ (s : State) (c : Fin 8) (src : BitVec 30) (req : Request) (ecc : Ecc) (ra : BitVec 48) (data : List (Option Byte))
    (i : Nat), s.canonical = true → s.down = false → s.endpointThere (ioCoord s.devid 1 c 0) = true → req = .write ra
    data → data.length ≤ 32 → (ra.toNat % 2 ^ 44) % 32 = 0 → s.served (localPart (ra.toNat % 2 ^ 44)) = 0 → placeOf
    (localPart (ra.toNat % 2 ^ 44)) = .ddr → ecc = .none → s.bad = [] → (kvUnits.any fun x => s.fbit (Reg.ING_KV_CFG_EN
    x.1 x.2)) = false →
    ∃ t, exec (.fwd c src req ecc) s = .next t ∧
      (coDev src.toNat = s.devid → t.sent = .status src.toNat 0 0 0 0 :: s.sent) ∧
      (i < data.length → t.mget (localPart (ra.toNat % 2 ^ 44) + i) = (data.getD i none).getD (s.mget (localPart
        (ra.toNat % 2 ^ 44) + i))) ∧
      (∀ x : Nat, x < localPart (ra.toNat % 2 ^ 44) ∨ localPart (ra.toNat % 2 ^ 44) + data.length ≤ x → t.mget x = s.mget
        x) ∧
      (∀ reg : Nat, reg ∉ memorySide → t.rd reg = s.rd reg)) ∧
  -- FWD: the channel's island is off: it is no endpoint (R309) (R410, R309)
  (∀ (s : State) (c : Fin 8) (src : BitVec 30) (req : Request) (ecc : Ecc), s.canonical = true → s.down = false →
    s.endpointThere (ioCoord s.devid 1 c 0) = false →
    ∃ t, exec (.fwd c src req ecc) s = .next t ∧
      (t.rd Reg.MESH_BAD_DST_CNT).toNat = satCount 32 (s.rd Reg.MESH_BAD_DST_CNT).toNat 1 ∧
      t.mem = s.mem ∧
      t.sent = s.sent ∧
      (∀ reg : Nat, reg ∉ [Reg.MESH_BAD_DST_CNT] → t.rd reg = s.rd reg)) ∧
  -- FWD: a channel serves no sync operation (R410, R309)
  (∀ (s : State) (c : Fin 8) (src : BitVec 30) (req : Request) (ecc : Ecc) (dev : BitVec 3) (obj : BitVec 16) (op : Fin
    5) (arg : Word) (wqn : BitVec 16), s.canonical = true → s.down = false → s.endpointThere (ioCoord s.devid 1 c 0) =
    true → req = .sync dev obj op arg wqn →
    ∃ t, exec (.fwd c src req ecc) s = .next t ∧
      t = s) ∧
  -- BAD_TYPE_CELL (R299, R319, R353)
  (∀ (s : State) (link : Option (Fin 12)) (vn : Fin 8) (type : Fin 32) (src : BitVec 30) (op : BitVec 8), s.canonical =
    true → s.down = false → s.typeOk (link.map Fin.val) vn type = false →
    ∃ t, exec (.badTypeCell link vn type src op) s = .next t ∧
      (t.rd Reg.MESH_TYPE_ERR_CNT).toNat = satCount 32 (s.rd Reg.MESH_TYPE_ERR_CNT).toNat 1 ∧
      (vn ≠ 1 → t.sent = s.sent) ∧
      (vn = 1 → coDev src.toNat = s.devid → t.sent = .status src.toNat 7 0 0 0 :: s.sent) ∧
      t.mem = s.mem ∧
      (∀ reg : Nat, reg ∉ [Reg.MESH_TYPE_ERR_CNT, Reg.MESH_NOROUTE_CNT] ++ each 16 Reg.IBL_DROP_CNT → t.rd reg = s.rd
        reg)) ∧
  -- BAD_TYPE_CELL: the TYPE is the VN's: only a SYNC_OP with OP above 4 is refused BAD_TYPE (R353) (R299, R319, R353)
  (∀ (s : State) (link : Option (Fin 12)) (vn : Fin 8) (type : Fin 32) (src : BitVec 30) (op : BitVec 8), s.canonical =
    true → s.down = false → s.typeOk (link.map Fin.val) vn type = true →
    ∃ t, exec (.badTypeCell link vn type src op) s = .next t ∧
      (type ≠ 20 ∨ op.toNat ≤ 4 → t = s) ∧
      (type = 20 → 4 < op.toNat → coDev src.toNat = s.devid → t.sent = .status src.toNat 7 0 0 0 :: s.sent) ∧
      t.mem = s.mem ∧
      (∀ reg : Nat, reg ∉ [Reg.MESH_NOROUTE_CNT] ++ each 16 Reg.IBL_DROP_CNT → t.rd reg = s.rd reg)) ∧
  -- ESC_FORWARD (R314, R324, R309)
  (∀ (s : State) (k : Fin 12) (vn : Fin 8) (type : Fin 32) (dst : BitVec 22) (src : BitVec 30) (tag : Option Bool) (flags
    : BitVec 4) (data : List Byte) (l : Nat) (e : Emit), s.canonical = true → s.down = false → coDev dst.toNat ≠ s.devid
    → vn ≠ 5 → s.fbit (Reg.MESH_XROUTE_ON_ALT (2 * coDev dst.toNat + coHalf dst.toNat)) = false → s.egress (coDev
    dst.toNat) (coHalf dst.toNat) = some l → e = .esc l dst.toNat src.toNat type flags.toNat data →
    ∃ t, exec (.escForward k vn type dst src tag flags data) s = .next t ∧
      t.sent = e :: s.sent ∧
      (t.link l).out = (s.link l).out ++ (e.wire true).map (fun w => ⟨5, if vnOf type = some 0 then tag.map (fun p => (p,
        some k.val)) else none, if vnOf type = some 1 then some src.toNat else none, w⟩) ∧
      t.csr = s.csr ∧
      t.mem = s.mem) ∧
  -- ESC_FORWARD: it came on ESC, or its entry is on its alternate: discarded and counted (R324) (R314, R324, R309)
  (∀ (s : State) (k : Fin 12) (vn : Fin 8) (type : Fin 32) (dst : BitVec 22) (src : BitVec 30) (tag : Option Bool) (flags
    : BitVec 4) (data : List Byte), s.canonical = true → s.down = false → coDev dst.toNat ≠ s.devid → vn = 5 ∨ (s.fbit
    (Reg.MESH_XROUTE_VALID (2 * coDev dst.toNat + coHalf dst.toNat)) = true ∧ s.fbit (Reg.MESH_XROUTE_ON_ALT (2 * coDev
    dst.toNat + coHalf dst.toNat)) = true) →
    ∃ t, exec (.escForward k vn type dst src tag flags data) s = .next t ∧
      (t.rd Reg.MESH_XHOP_CNT).toNat = satCount 32 (s.rd Reg.MESH_XHOP_CNT).toNat 1 ∧
      t.links = s.links ∧
      t.mem = s.mem ∧
      t.sent = s.sent ∧
      (∀ reg : Nat, reg ∉ [Reg.MESH_XHOP_CNT] → t.rd reg = s.rd reg)) ∧
  -- ESC_FORWARD: no route: refused (R309) (R314, R324, R309)
  (∀ (s : State) (k : Fin 12) (vn : Fin 8) (type : Fin 32) (dst : BitVec 22) (src : BitVec 30) (tag : Option Bool) (flags
    : BitVec 4) (data : List Byte), s.canonical = true → s.down = false → coDev dst.toNat ≠ s.devid → vn ≠ 5 → (s.fbit
    (Reg.MESH_XROUTE_VALID (2 * coDev dst.toNat + coHalf dst.toNat)) = true → s.fbit (Reg.MESH_XROUTE_ON_ALT (2 * coDev
    dst.toNat + coHalf dst.toNat)) = false) → s.egress (coDev dst.toNat) (coHalf dst.toNat) = none →
    ∃ t, exec (.escForward k vn type dst src tag flags data) s = .next t ∧
      (t.rd Reg.MESH_NOROUTE_CNT).toNat = satCount 32 (s.rd Reg.MESH_NOROUTE_CNT).toNat (if vnOf type = some 1 ∧ coDev
        src.toNat ≠ s.devid ∧ s.egress (coDev src.toNat) (coHalf src.toNat) = none then 2 else 1) ∧
      (vnOf type = some 1 → coDev src.toNat = s.devid → t.sent = .status src.toNat 3 0 0 0 :: s.sent) ∧
      (vnOf type ≠ some 1 → t.sent = s.sent) ∧
      t.mem = s.mem ∧
      (∀ reg : Nat, reg ∉ [Reg.MESH_NOROUTE_CNT, Reg.MESH_XHOP_CNT] ++ each 16 Reg.IBL_DROP_CNT → t.rd reg = s.rd reg)) ∧
  -- ESC_FORWARD: a cell for this device is no cell to forward (R314, R324, R309)
  (∀ (s : State) (k : Fin 12) (vn : Fin 8) (type : Fin 32) (dst : BitVec 22) (src : BitVec 30) (tag : Option Bool) (flags
    : BitVec 4) (data : List Byte), s.canonical = true → s.down = false → coDev dst.toNat = s.devid →
    ∃ t, exec (.escForward k vn type dst src tag flags data) s = .next t ∧
      t = s ∧
      t.mem = s.mem) ∧
  -- CTRL (R312, R319, R494, R480)
  (∀ (s : State) (k : Fin 12) (words : List (BitVec 16)) (m : Master) (h : Nat) (r : List Nat), s.canonical = true →
    s.down = false → words.map BitVec.toNat = h :: r →
    ∃ t, exec (.ctrl k words m) s = .next t ∧
      (((List.range 4).find? fun p => decide (h / 4096 = (Config.ctrlHead p).toNat / 16)) = some 0 → s.isLocal (ofWords
        (r.take 3)) = true → s.ctrlHere (ofWords (r.take 3)) = false → t.sent = .ctrlCell k [ctrlWord 2 (h % 256), 0, 0]
        :: s.sent) ∧
      (((List.range 4).find? fun p => decide (h / 4096 = (Config.ctrlHead p).toNat / 16)) = some 0 → s.ctrlHere (ofWords
        (r.take 3)) = true → s.regOff (csrOff (ofWords (r.take 3))) = true → .ctrlCell k (ctrlWord 2 (h % 256) :: words16
        2 0) ∈ t.sent) ∧
      (((List.range 4).find? fun p => decide (h / 4096 = (Config.ctrlHead p).toNat / 16)) = some 0 → s.ctrlHere (ofWords
        (r.take 3)) = true → s.regOff (csrOff (ofWords (r.take 3))) = false → regIsland (csrOff (ofWords (r.take 3))) =
        none → .ctrlCell k (ctrlWord 2 (h % 256) :: words16 2 (s.regRead m (csrOff (ofWords (r.take 3)))).toNat) ∈
        t.sent) ∧
      (((List.range 4).find? fun p => decide (h / 4096 = (Config.ctrlHead p).toNat / 16)) = some 1 → s.isLocal (ofWords
        (r.take 3)) = true → .ctrlCell k [ctrlWord 3 (h % 256)] ∈ t.sent) ∧
      (((List.range 4).find? fun p => decide (h / 4096 = (Config.ctrlHead p).toNat / 16)) = some 1 → s.ctrlHere (ofWords
        (r.take 3)) = false → s.isLocal (ofWords (r.take 3)) = true → t.sent = .ctrlCell k [ctrlWord 3 (h % 256)] ::
        s.sent) ∧
      (((List.range 4).find? fun p => decide (h / 4096 = (Config.ctrlHead p).toNat / 16)) = none → t = s) ∧
      (∀ reg : Nat, reg ∉ writeSide ++ (List.range 8).map (fun i => csrOff (ofWords (r.take 3)) + i) → t.rd reg = s.rd
        reg))

/-- Ibnum links complete. A link enabled, up, lost and retrained; codewords received with acknowledgements, credits and
cells; a NAK and its replay. (09_mesh_and_links.md.) -/
def Obligations.LinkCommandsComplete : Prop :=
  -- LINK_ENABLE (R315)
  (∀ (s : State) (m : Master) (k : Fin 12), s.canonical = true → s.admits m (Reg.IBL_CTL k) = true → s.fbit
    (Reg.IBL_CTL_EN k) = false →
    ∃ t, exec (.linkEnable m k) s = .next t ∧
      t.fbit (Reg.IBL_CTL_EN k) = true ∧
      t.fget (Reg.IBL_STATUS_STATE k) = 1 ∧
      t.fbit (Reg.IBL_STATUS_GEN_FAIL k) = false ∧
      t.link k = LinkSt.init ∧
      t.mem = s.mem ∧
      t.sent = s.sent ∧
      (∀ reg : Nat, reg ∉ [Reg.IBL_CTL k, Reg.IBL_STATUS k] ++ accessRegs (Reg.IBL_CTL k) → t.rd reg = s.rd reg)) ∧
  -- LINK_ENABLE: the link is enabled already (R315)
  (∀ (s : State) (m : Master) (k : Fin 12), s.canonical = true → s.admits m (Reg.IBL_CTL k) = true → s.fbit
    (Reg.IBL_CTL_EN k) = true →
    ∃ t, exec (.linkEnable m k) s = .next t ∧
      t.links = s.links ∧
      t.mem = s.mem ∧
      t.sent = s.sent ∧
      (∀ reg : Nat, reg ∉ accessRegs (Reg.IBL_CTL k) → t.rd reg = s.rd reg)) ∧
  -- LINK_UP (R315, R322, R326, R327, R40)
  (∀ (s : State) (k : Fin 12) (lanes : BitVec 8) (peerWidth : Fin 4) (genMin : BitVec 4) (genMax : BitVec 4) (dev :
    BitVec 3) (peer : BitVec 4) (w : Nat), s.canonical = true → s.down = false → s.fbit (Reg.IBL_CTL_EN k) = true →
    s.fbit (Reg.IBL_STATUS_UP k) = false → s.fget (Reg.IBL_STATUS_STATE k) ≠ 6 → widthOf lanes.toNat (min (min (s.fget
    (Reg.IBL_CTL_WIDTH_MAX k)) peerWidth.val) ((s.link k).limit.getD 3)) = some w → ((s.link k).auto = true → (s.link
    k).limit.getD 3 ≤ w ∨ s.fbit (Reg.IBL_CTL_AUTO_NARROW k) = true) → (max (s.fget (Reg.IBL_GEN_GEN_MIN k))
    genMin.toNat) ≤ (min (s.fget (Reg.IBL_GEN_GEN_MAX k)) genMax.toNat) →
    ∃ t, exec (.linkUp k lanes peerWidth genMin genMax dev peer) s = .next t ∧
      t.fbit (Reg.IBL_STATUS_UP k) = true ∧
      t.fget (Reg.IBL_STATUS_STATE k) = 5 ∧
      t.fget (Reg.IBL_STATUS_WIDTH k) = w ∧
      t.fget (Reg.IBL_GEN_CUR k) = (min (s.fget (Reg.IBL_GEN_GEN_MAX k)) genMax.toNat) ∧
      t.fbit (Reg.IBL_STATUS_NARROW k) = decide (w < s.fget (Reg.IBL_CTL_WIDTH_MAX k)) ∧
      t.fbit (Reg.IBL_STATUS_GEN_FAIL k) = false ∧
      (t.link k).bench = ((s.link k).auto && s.fbit Reg.MESH_CTL_JOB) ∧
      (t.link k).retry = [] ∧
      (t.link k).rxSeq = none ∧
      (t.link k).txSeq = 0 ∧
      (t.link k).held = (s.link k).held ∧
      (t.twinLink k = false → (t.link k).out = (s.link k).out) ∧
      (t.twinLink k = false → ((s.link k).auto = false ∨ s.fbit Reg.MESH_CTL_JOB = false ∨ s.bareLink k = false) → t.sent
        = s.sent) ∧
      ((s.link k).auto = true → s.fbit Reg.MESH_CTL_JOB = true → s.bareLink k = true → .fault 7 6 k 0 ∈ t.sent) ∧
      t.fget (Reg.IBL_PEER_DEV k) = dev.toNat ∧
      t.fget (Reg.IBL_PEER_LINK k) = peer.toNat ∧
      t.fbit (Reg.IBL_PEER_VALID k) = true ∧
      t.fget (Reg.IBL_STATUS_LANE_OK k) = lanes.toNat ∧
      t.mem = s.mem ∧
      (∀ reg : Nat, reg ∉ [Reg.IBL_GEN k, Reg.IBL_PEER k, Reg.IBL_STATUS k, Reg.MESH_STATUS, Reg.MESH_NOROUTE_CNT] ++
        each 16 Reg.MESH_XROUTE ++ each 16 Reg.IBL_DROP_CNT → t.rd reg = s.rd reg)) ∧
  -- LINK_UP: no common generation: the link stays in NEGOTIATE (R322) (R315, R322, R326, R327, R40)
  (∀ (s : State) (k : Fin 12) (lanes : BitVec 8) (peerWidth : Fin 4) (genMin : BitVec 4) (genMax : BitVec 4) (dev :
    BitVec 3) (peer : BitVec 4) (w : Nat), s.canonical = true → s.down = false → s.fbit (Reg.IBL_CTL_EN k) = true →
    s.fbit (Reg.IBL_STATUS_UP k) = false → s.fget (Reg.IBL_STATUS_STATE k) ≠ 6 → widthOf lanes.toNat (min (min (s.fget
    (Reg.IBL_CTL_WIDTH_MAX k)) peerWidth.val) ((s.link k).limit.getD 3)) = some w → ((s.link k).auto = true → (s.link
    k).limit.getD 3 ≤ w ∨ s.fbit (Reg.IBL_CTL_AUTO_NARROW k) = true) → (min (s.fget (Reg.IBL_GEN_GEN_MAX k))
    genMax.toNat) < (max (s.fget (Reg.IBL_GEN_GEN_MIN k)) genMin.toNat) →
    ∃ t, exec (.linkUp k lanes peerWidth genMin genMax dev peer) s = .next t ∧
      t.fbit (Reg.IBL_STATUS_UP k) = false ∧
      t.fget (Reg.IBL_STATUS_STATE k) = 4 ∧
      t.fbit (Reg.IBL_STATUS_GEN_FAIL k) = true ∧
      t.links = s.links ∧
      t.fget (Reg.IBL_PEER_DEV k) = dev.toNat ∧
      t.fget (Reg.IBL_PEER_LINK k) = peer.toNat ∧
      t.fbit (Reg.IBL_PEER_VALID k) = true ∧
      t.fget (Reg.IBL_STATUS_LANE_OK k) = lanes.toNat ∧
      t.mem = s.mem ∧
      t.sent = s.sent ∧
      (∀ reg : Nat, reg ∉ [Reg.IBL_GEN k, Reg.IBL_PEER k, Reg.IBL_STATUS k, Reg.MESH_STATUS, Reg.MESH_NOROUTE_CNT] ++
        each 16 Reg.MESH_XROUTE ++ each 16 Reg.IBL_DROP_CNT → t.rd reg = s.rd reg)) ∧
  -- LINK_UP: the link does not train, or no width is allowed (R315, R322, R326, R327, R40)
  (∀ (s : State) (k : Fin 12) (lanes : BitVec 8) (peerWidth : Fin 4) (genMin : BitVec 4) (genMax : BitVec 4) (dev :
    BitVec 3) (peer : BitVec 4), s.canonical = true → s.down = false → s.fbit (Reg.IBL_CTL_EN k) = false ∨ s.fbit
    (Reg.IBL_STATUS_UP k) = true ∨ s.fget (Reg.IBL_STATUS_STATE k) = 6 ∨ widthOf lanes.toNat (min (min (s.fget
    (Reg.IBL_CTL_WIDTH_MAX k)) peerWidth.val) ((s.link k).limit.getD 3)) = none ∨ ((s.link k).auto = true ∧ (widthOf
    lanes.toNat (min (min (s.fget (Reg.IBL_CTL_WIDTH_MAX k)) peerWidth.val) ((s.link k).limit.getD 3))).all (fun w =>
    decide (w < (s.link k).limit.getD 3)) = true ∧ s.fbit (Reg.IBL_CTL_AUTO_NARROW k) = false) →
    ∃ t, exec (.linkUp k lanes peerWidth genMin genMax dev peer) s = .next t ∧
      t = s ∧
      t.mem = s.mem) ∧
  -- LINK_LOST (R325)
  (∀ (s : State) (k : Fin 12), s.canonical = true → s.down = false → s.fbit (Reg.IBL_STATUS_UP k) = true → (s.link
    k).unsent.all (fun c => c.rq.all fun r => decide (coDev r = s.devid)) = true →
    ∃ t, exec (.linkLost k) s = .next t ∧
      t.fbit (Reg.IBL_STATUS_UP k) = false ∧
      t.fget (Reg.IBL_STATUS_STATE k) = 6 ∧
      t.fbit (Reg.IBL_STATUS_LOST k) = true ∧
      (t.rd (Reg.IBL_DOWN_CNT k)).toNat = satCount 32 (s.rd (Reg.IBL_DOWN_CNT k)).toNat 1 ∧
      (t.link k).out = [] ∧
      (t.link k).retry = [] ∧
      (t.link k).part = none ∧
      t.sent = ((s.link k).unsent.filterMap fun c => c.rq).reverse.map (fun x => .status x 6 0 0 0) ++ .fault 7 6 k 0 ::
        s.sent ∧
      (t.rd (Reg.IBL_DROP_CNT k)).toNat = satCount 32 (s.rd (Reg.IBL_DROP_CNT k)).toNat (s.link k).unsent.length ∧
      t.tb.cnt1 = s.tb.cnt1 - ((s.link k).unsent.filter fun c => decide (c.ev.map Prod.fst = some true)).length ∧
      t.tb.cnt0 = s.tb.cnt0 - ((s.link k).unsent.filter fun c => decide (c.ev.map Prod.fst = some false)).length ∧
      t.mem = s.mem ∧
      (∀ reg : Nat, reg ∉ [Reg.IBL_DOWN_CNT k, Reg.IBL_STATUS k, Reg.MESH_STATUS, Reg.CHR_FAIL, Reg.CHR_FAIL_CNT,
        Reg.CHR_STALE_ADDR, Reg.CHR_STATUS, Reg.MESH_NOROUTE_CNT] ++ each 16 Reg.IBL_DROP_CNT ++ each 16 Reg.MESH_XROUTE
        → t.rd reg = s.rd reg)) ∧
  -- LINK_LOST: whatever the link held (R325)
  (∀ (s : State) (k : Fin 12), s.canonical = true → s.down = false → s.fbit (Reg.IBL_STATUS_UP k) = true →
    ∃ t, exec (.linkLost k) s = .next t ∧
      t.fbit (Reg.IBL_STATUS_UP k) = false ∧
      t.fget (Reg.IBL_STATUS_STATE k) = 6 ∧
      t.fbit (Reg.IBL_STATUS_LOST k) = true ∧
      (t.rd (Reg.IBL_DOWN_CNT k)).toNat = satCount 32 (s.rd (Reg.IBL_DOWN_CNT k)).toNat 1 ∧
      (t.link k).out = [] ∧
      (t.link k).retry = [] ∧
      (t.link k).part = none ∧
      .fault 7 6 k 0 ∈ t.sent ∧
      t.mem = s.mem ∧
      (∀ reg : Nat, reg ∉ [Reg.IBL_DOWN_CNT k, Reg.IBL_STATUS k, Reg.MESH_STATUS, Reg.CHR_FAIL, Reg.CHR_FAIL_CNT,
        Reg.CHR_STALE_ADDR, Reg.CHR_STATUS, Reg.MESH_NOROUTE_CNT] ++ each 16 Reg.IBL_DROP_CNT ++ each 16 Reg.MESH_XROUTE
        → t.rd reg = s.rd reg)) ∧
  -- LINK_LOST: the link is not UP (R325)
  (∀ (s : State) (k : Fin 12), s.canonical = true → s.down = false → s.fbit (Reg.IBL_STATUS_UP k) = false →
    ∃ t, exec (.linkLost k) s = .next t ∧
      t = s ∧
      t.mem = s.mem) ∧
  -- LINK_RETRAIN_REQUEST (R327)
  (∀ (s : State) (m : Master) (k : Fin 12) (width : Fin 4), s.canonical = true → s.admits m (Reg.IBL_CTL k) = true →
    s.fbit (Reg.IBL_CTL_EN k) = true →
    ∃ t, exec (.linkRetrainRequest m k width) s = .next t ∧
      t.fget (Reg.IBL_CTL_REQ_WIDTH k) = width.val ∧
      (s.fbit Reg.MESH_CTL_JOB = false ∨ (s.bareLink k = false ∧ s.fget (Reg.IBL_STATUS_WIDTH k) ≤ width.val) → t.fbit
        (Reg.IBL_STATUS_UP k) = false ∧ t.fget (Reg.IBL_STATUS_STATE k) = 1 ∧ (t.link k).retry = [] ∧ (t.link k).part =
        none ∧ (t.link k).out = (s.link k).unsent ∧ (t.link k).held = (s.link k).held ∧ (t.link k).limit = some width.val
        ∧ (t.link k).auto = false ∧ (t.link k).clearAlt = true) ∧
      (s.fbit Reg.MESH_CTL_JOB = true → s.bareLink k = true → t.fbit (Reg.IBL_STATUS_REFUSED k) = true ∧ t.links =
        s.links ∧ t.fbit (Reg.IBL_STATUS_UP k) = s.fbit (Reg.IBL_STATUS_UP k)) ∧
      t.mem = s.mem ∧
      t.sent = s.sent ∧
      (∀ reg : Nat, reg ∉ [Reg.IBL_CTL k, Reg.IBL_STATUS k, Reg.IBL_TRAV k, Reg.TB_ADM_BOUND, Reg.TB_ADM_STATUS,
        Reg.MESH_STATUS] ++ each 16 Reg.MESH_XROUTE ++ accessRegs (Reg.IBL_CTL k) → t.rd reg = s.rd reg)) ∧
  -- LINK_RETRAIN_REQUEST: narrower during a job: admission decides (R327) (R327)
  (∀ (s : State) (m : Master) (k : Fin 12) (width : Fin 4), s.canonical = true → s.admits m (Reg.IBL_CTL k) = true →
    s.fbit (Reg.IBL_CTL_EN k) = true → s.fbit Reg.MESH_CTL_JOB = true → s.bareLink k = false → width.val < s.fget
    (Reg.IBL_STATUS_WIDTH k) →
    ∃ t, exec (.linkRetrainRequest m k width) s = .next t ∧
      t.fget (Reg.IBL_CTL_REQ_WIDTH k) = width.val ∧
      (t.fget (Reg.IBL_STATUS_STATE k) = 1 ∧ (t.link k).limit = some width.val ∧ (t.link k).out = (s.link k).unsent ∨
        t.fbit (Reg.IBL_STATUS_REFUSED k) = true ∧ t.links = s.links) ∧
      t.mem = s.mem ∧
      t.sent = s.sent ∧
      (∀ reg : Nat, reg ∉ [Reg.IBL_CTL k, Reg.IBL_STATUS k, Reg.IBL_TRAV k, Reg.TB_ADM_BOUND, Reg.TB_ADM_STATUS,
        Reg.MESH_STATUS] ++ each 16 Reg.MESH_XROUTE ++ accessRegs (Reg.IBL_CTL k) → t.rd reg = s.rd reg)) ∧
  -- LINK_RETRAIN_REQUEST: the link is not enabled (R327)
  (∀ (s : State) (m : Master) (k : Fin 12) (width : Fin 4), s.canonical = true → s.admits m (Reg.IBL_CTL k) = true →
    s.fbit (Reg.IBL_CTL_EN k) = false →
    ∃ t, exec (.linkRetrainRequest m k width) s = .next t ∧
      t.fget (Reg.IBL_CTL_REQ_WIDTH k) = width.val ∧
      t.links = s.links ∧
      t.mem = s.mem ∧
      t.sent = s.sent ∧
      (∀ reg : Nat, reg ∉ [Reg.IBL_CTL k] ++ accessRegs (Reg.IBL_CTL k) → t.rd reg = s.rd reg)) ∧
  -- LINK_RETRAIN_AUTO (R326)
  (∀ (s : State) (k : Fin 12), s.canonical = true → s.down = false → s.fbit (Reg.IBL_CTL_EN k) = true → s.fbit
    (Reg.IBL_STATUS_UP k) = true ∨ s.fget (Reg.IBL_STATUS_STATE k) = 6 →
    ∃ t, exec (.linkRetrainAuto k) s = .next t ∧
      t.fbit (Reg.IBL_STATUS_UP k) = false ∧
      t.fget (Reg.IBL_STATUS_STATE k) = 1 ∧
      (t.link k).retry = [] ∧
      (t.link k).part = none ∧
      (t.link k).out = (s.link k).unsent ∧
      (t.link k).held = (s.link k).held ∧
      (t.link k).limit = some (s.fget (Reg.IBL_STATUS_WIDTH k)) ∧
      (t.link k).auto = true ∧
      t.mem = s.mem ∧
      t.sent = s.sent ∧
      (∀ reg : Nat, reg ∉ [Reg.IBL_STATUS k, Reg.MESH_STATUS] ++ each 16 Reg.MESH_XROUTE → t.rd reg = s.rd reg)) ∧
  -- LINK_RETRAIN_AUTO: the link is not enabled, or trains (R326)
  (∀ (s : State) (k : Fin 12), s.canonical = true → s.down = false → s.fbit (Reg.IBL_CTL_EN k) = false ∨ (s.fbit
    (Reg.IBL_STATUS_UP k) = false ∧ s.fget (Reg.IBL_STATUS_STATE k) ≠ 6) →
    ∃ t, exec (.linkRetrainAuto k) s = .next t ∧
      t = s ∧
      t.mem = s.mem) ∧
  -- CODEWORD_RECEIVE (R316, R318, R320, R321, R324)
  (∀ (s : State) (k : Fin 12) (ok : Bool) (corrected : Bool) (seq : BitVec 12) (flit0 : BitVec 128) (flit1 : BitVec 128)
    (cells : List (Fin 8 × Fin 32 × Option Bool)) (left : List (Fin 6)), s.canonical = true → s.down = false → s.fbit
    (Reg.IBL_STATUS_UP k) = true → ok = true → (s.link k).due seq.toNat = true → bit flit0.toNat 13 = false → bit
    flit1.toNat 13 = false →
    ∃ t, exec (.codewordReceive k ok corrected seq flit0 flit1 cells left) s = .next t ∧
      (t.link k).rxSeq = some seq.toNat ∧
      (t.link k).gone = false ∧
      (t.link k).unc = 0 ∧
      (t.link k).xoff = bits flit1.toNat 19 14 ∧
      (t.rd (Reg.IBL_RX_CELL_CNT k)).toNat = ((s.rd (Reg.IBL_RX_CELL_CNT k)).toNat + ((cells.take 13).filter fun c =>
        decide (c.1.val ≠ 7)).length) % 2 ^ 32 ∧
      t.rd (Reg.IBL_FEC_CORR_CNT k) = (if corrected then BitVec.ofNat 32 (satCount 32 (s.rd (Reg.IBL_FEC_CORR_CNT
        k)).toNat 1) else s.rd (Reg.IBL_FEC_CORR_CNT k)) ∧
      (bit flit0.toNat 12 = false → bit flit1.toNat 12 = false → (s.link k).retry.length < 128 → (t.link k).txSeq =
        ((s.link k).txSeq + 1) % 4096 ∧ (t.link k).retry.length = (s.link k).retry.length + 1 ∧ (t.link
        k).retry.getLast?.map (fun c => c.seq) = some (s.link k).txSeq) ∧
      (bit flit0.toNat 12 = false → bit flit1.toNat 12 = false → 128 ≤ (s.link k).retry.length → (t.link k).retry =
        (s.link k).retry) ∧
      (s.fbit Reg.INST_STATUS_COCOON = false → (List.range 6).all (fun v => decide ((s.link k).held.getD v 0 + 13 ≤ 512))
        = true → t.tb.cnt0 = s.tb.cnt0 - bits flit0.toNat 29 20 - bits flit1.toNat 29 20 + ((cells.take 13).filter fun c
        => decide (c.1.val ≠ 7 ∧ c.2.2 = some false)).length ∧ t.tb.cnt1 = s.tb.cnt1 - bits flit0.toNat 39 30 - bits
        flit1.toNat 39 30 + ((cells.take 13).filter fun c => decide (c.1.val ≠ 7 ∧ c.2.2 = some true)).length) ∧
      t.sent ≠ s.sent ∧
      t.fbit (Reg.IBL_STATUS_UP k) = true ∧
      t.mem = s.mem ∧
      (∀ reg : Nat, reg ∉ [Reg.IBL_DOWN_CNT k, Reg.IBL_STATUS k, Reg.MESH_STATUS, Reg.CHR_FAIL, Reg.CHR_FAIL_CNT,
        Reg.CHR_STALE_ADDR, Reg.CHR_STATUS, Reg.IBL_FEC_CORR_CNT k, Reg.IBL_FEC_UNC_CNT k, Reg.IBL_RX_CELL_CNT k,
        Reg.IBL_TX_CELL_CNT k, Reg.MESH_TYPE_ERR_CNT, Reg.MESH_NOROUTE_CNT, Reg.IBL_REPLAY_CNT k] ++ each 16
        Reg.IBL_DROP_CNT ++ each 16 Reg.MESH_XROUTE → t.rd reg = s.rd reg)) ∧
  -- CODEWORD_RECEIVE: cells held and XOFF: set at 128, cleared at 64 (R321) (R316, R318, R320, R321, R324)
  (∀ (s : State) (k : Fin 12) (ok : Bool) (corrected : Bool) (seq : BitVec 12) (flit0 : BitVec 128) (flit1 : BitVec 128)
    (cells : List (Fin 8 × Fin 32 × Option Bool)) (left : List (Fin 6)) (v : Fin 6), s.canonical = true → s.down = false
    → s.fbit (Reg.IBL_STATUS_UP k) = true → ok = true → (s.link k).due seq.toNat = true → bit flit0.toNat 13 = false →
    bit flit1.toNat 13 = false → left = [] → s.fbit Reg.INST_STATUS_COCOON = false → (List.range 6).all (fun v => decide
    ((s.link k).held.getD v 0 + 13 ≤ 512)) = true →
    ∃ t, exec (.codewordReceive k ok corrected seq flit0 flit1 cells left) s = .next t ∧
      (t.link k).held.getD v 0 = (s.link k).held.getD v 0 + ((cells.take 13).filter fun c => decide (c.1.val =
        v.val)).length ∧
      (128 ≤ (t.link k).held.getD v 0 → (t.link k).stop.getD v false = true) ∧
      ((t.link k).held.getD v 0 ≤ 64 → (t.link k).stop.getD v false = false) ∧
      (64 < (t.link k).held.getD v 0 → (t.link k).held.getD v 0 < 128 → 64 < (s.link k).held.getD v 0 → (t.link
        k).stop.getD v false = (s.link k).stop.getD v false) ∧
      (∀ reg : Nat, reg ∉ [Reg.IBL_DOWN_CNT k, Reg.IBL_STATUS k, Reg.MESH_STATUS, Reg.CHR_FAIL, Reg.CHR_FAIL_CNT,
        Reg.CHR_STALE_ADDR, Reg.CHR_STATUS, Reg.IBL_FEC_CORR_CNT k, Reg.IBL_FEC_UNC_CNT k, Reg.IBL_RX_CELL_CNT k,
        Reg.IBL_TX_CELL_CNT k, Reg.MESH_TYPE_ERR_CNT, Reg.MESH_NOROUTE_CNT, Reg.IBL_REPLAY_CNT k] ++ each 16
        Reg.IBL_DROP_CNT ++ each 16 Reg.MESH_XROUTE → t.rd reg = s.rd reg) ∧
      t.mem = s.mem) ∧
  -- CODEWORD_RECEIVE: a codeword that cannot be corrected: LINK_CRC, NAK, and later ones are dropped (R320) (R316, R318, R320, R321, R324)
  (∀ (s : State) (k : Fin 12) (ok : Bool) (corrected : Bool) (seq : BitVec 12) (flit0 : BitVec 128) (flit1 : BitVec 128)
    (cells : List (Fin 8 × Fin 32 × Option Bool)) (left : List (Fin 6)), s.canonical = true → s.down = false → s.fbit
    (Reg.IBL_STATUS_UP k) = true → ok = false → (s.link k).unc < 15 →
    ∃ t, exec (.codewordReceive k ok corrected seq flit0 flit1 cells left) s = .next t ∧
      (t.link k).gone = true ∧
      (t.link k).unc = (s.link k).unc + 1 ∧
      (t.link k).rxSeq = (s.link k).rxSeq ∧
      (t.rd (Reg.IBL_FEC_UNC_CNT k)).toNat = satCount 32 (s.rd (Reg.IBL_FEC_UNC_CNT k)).toNat 1 ∧
      .fault 6 6 k 0 ∈ t.sent ∧
      t.rd (Reg.IBL_RX_CELL_CNT k) = s.rd (Reg.IBL_RX_CELL_CNT k) ∧
      t.fbit (Reg.IBL_STATUS_UP k) = true ∧
      (t.sent.head?.map fun e => match e with | .codeword _ _ l => bit (l.getD 0 0).toNat 13 | _ => false) = some true ∧
      t.mem = s.mem ∧
      (∀ reg : Nat, reg ∉ [Reg.IBL_DOWN_CNT k, Reg.IBL_STATUS k, Reg.MESH_STATUS, Reg.CHR_FAIL, Reg.CHR_FAIL_CNT,
        Reg.CHR_STALE_ADDR, Reg.CHR_STATUS, Reg.IBL_FEC_CORR_CNT k, Reg.IBL_FEC_UNC_CNT k, Reg.IBL_RX_CELL_CNT k,
        Reg.IBL_TX_CELL_CNT k, Reg.MESH_TYPE_ERR_CNT, Reg.MESH_NOROUTE_CNT, Reg.IBL_REPLAY_CNT k] ++ each 16
        Reg.IBL_DROP_CNT ++ each 16 Reg.MESH_XROUTE → t.rd reg = s.rd reg)) ∧
  -- CODEWORD_RECEIVE: the sixteenth in a row loses the link (R320) (R316, R318, R320, R321, R324)
  (∀ (s : State) (k : Fin 12) (ok : Bool) (corrected : Bool) (seq : BitVec 12) (flit0 : BitVec 128) (flit1 : BitVec 128)
    (cells : List (Fin 8 × Fin 32 × Option Bool)) (left : List (Fin 6)), s.canonical = true → s.down = false → s.fbit
    (Reg.IBL_STATUS_UP k) = true → ok = false → 15 ≤ (s.link k).unc →
    ∃ t, exec (.codewordReceive k ok corrected seq flit0 flit1 cells left) s = .next t ∧
      t.fbit (Reg.IBL_STATUS_UP k) = false ∧
      t.fget (Reg.IBL_STATUS_STATE k) = 6 ∧
      t.fbit (Reg.IBL_STATUS_LOST k) = true ∧
      (t.rd (Reg.IBL_DOWN_CNT k)).toNat = satCount 32 (s.rd (Reg.IBL_DOWN_CNT k)).toNat 1 ∧
      (t.link k).out = [] ∧
      (t.link k).retry = [] ∧
      (t.link k).part = none ∧
      (t.rd (Reg.IBL_FEC_UNC_CNT k)).toNat = satCount 32 (s.rd (Reg.IBL_FEC_UNC_CNT k)).toNat 1 ∧
      .fault 6 6 k 0 ∈ t.sent ∧
      t.rd (Reg.IBL_RX_CELL_CNT k) = s.rd (Reg.IBL_RX_CELL_CNT k) ∧
      .fault 7 6 k 0 ∈ t.sent ∧
      t.mem = s.mem ∧
      (∀ reg : Nat, reg ∉ [Reg.IBL_DOWN_CNT k, Reg.IBL_STATUS k, Reg.MESH_STATUS, Reg.CHR_FAIL, Reg.CHR_FAIL_CNT,
        Reg.CHR_STALE_ADDR, Reg.CHR_STATUS, Reg.IBL_FEC_CORR_CNT k, Reg.IBL_FEC_UNC_CNT k, Reg.IBL_RX_CELL_CNT k,
        Reg.IBL_TX_CELL_CNT k, Reg.MESH_TYPE_ERR_CNT, Reg.MESH_NOROUTE_CNT, Reg.IBL_REPLAY_CNT k] ++ each 16
        Reg.IBL_DROP_CNT ++ each 16 Reg.MESH_XROUTE → t.rd reg = s.rd reg)) ∧
  -- CODEWORD_RECEIVE: not the next in order: dropped (R320) (R316, R318, R320, R321, R324)
  (∀ (s : State) (k : Fin 12) (ok : Bool) (corrected : Bool) (seq : BitVec 12) (flit0 : BitVec 128) (flit1 : BitVec 128)
    (cells : List (Fin 8 × Fin 32 × Option Bool)) (left : List (Fin 6)), s.canonical = true → s.down = false → s.fbit
    (Reg.IBL_STATUS_UP k) = true → ok = true → (s.link k).due seq.toNat = false →
    ∃ t, exec (.codewordReceive k ok corrected seq flit0 flit1 cells left) s = .next t ∧
      (t.link k).rxSeq = (s.link k).rxSeq ∧
      (t.link k).gone = (s.link k).gone ∧
      (t.link k).retry = (s.link k).retry ∧
      (t.link k).unc = 0 ∧
      t.rd (Reg.IBL_RX_CELL_CNT k) = s.rd (Reg.IBL_RX_CELL_CNT k) ∧
      t.tb = s.tb ∧
      t.mem = s.mem ∧
      t.sent = s.sent ∧
      (∀ reg : Nat, reg ∉ [Reg.IBL_DOWN_CNT k, Reg.IBL_STATUS k, Reg.MESH_STATUS, Reg.CHR_FAIL, Reg.CHR_FAIL_CNT,
        Reg.CHR_STALE_ADDR, Reg.CHR_STATUS, Reg.IBL_FEC_CORR_CNT k, Reg.IBL_FEC_UNC_CNT k, Reg.IBL_RX_CELL_CNT k,
        Reg.IBL_TX_CELL_CNT k, Reg.MESH_TYPE_ERR_CNT, Reg.MESH_NOROUTE_CNT, Reg.IBL_REPLAY_CNT k] ++ each 16
        Reg.IBL_DROP_CNT ++ each 16 Reg.MESH_XROUTE → t.rd reg = s.rd reg)) ∧
  -- CODEWORD_RECEIVE: the link is not UP: only cells that it held leave (R316, R318, R320, R321, R324)
  (∀ (s : State) (k : Fin 12) (ok : Bool) (corrected : Bool) (seq : BitVec 12) (flit0 : BitVec 128) (flit1 : BitVec 128)
    (cells : List (Fin 8 × Fin 32 × Option Bool)) (left : List (Fin 6)), s.canonical = true → s.down = false → s.fbit
    (Reg.IBL_STATUS_UP k) = false →
    ∃ t, exec (.codewordReceive k ok corrected seq flit0 flit1 cells left) s = .next t ∧
      (t.link k).held = (List.range 6).map (fun v => (s.link k).held.getD v 0 - (left.filter fun y => decide (y.val =
        v)).length) ∧
      (t.link k).out = (s.link k).out ∧
      t.tb = s.tb ∧
      t.mem = s.mem ∧
      t.sent = s.sent ∧
      t.csr = s.csr) ∧
  -- CODEWORD_RECEIVE: any codeword (R316, R318, R320, R321, R324)
  (∀ (s : State) (k : Fin 12) (ok : Bool) (corrected : Bool) (seq : BitVec 12) (flit0 : BitVec 128) (flit1 : BitVec 128)
    (cells : List (Fin 8 × Fin 32 × Option Bool)) (left : List (Fin 6)), s.canonical = true → s.down = false →
    ∃ t, exec (.codewordReceive k ok corrected seq flit0 flit1 cells left) s = .next t ∧
      t.counter = s.counter ∧
      t.cores = s.cores ∧
      t.mem = s.mem ∧
      (∀ reg : Nat, reg ∉ [Reg.IBL_DOWN_CNT k, Reg.IBL_STATUS k, Reg.MESH_STATUS, Reg.CHR_FAIL, Reg.CHR_FAIL_CNT,
        Reg.CHR_STALE_ADDR, Reg.CHR_STATUS, Reg.IBL_FEC_CORR_CNT k, Reg.IBL_FEC_UNC_CNT k, Reg.IBL_RX_CELL_CNT k,
        Reg.IBL_TX_CELL_CNT k, Reg.MESH_TYPE_ERR_CNT, Reg.MESH_NOROUTE_CNT, Reg.IBL_REPLAY_CNT k] ++ each 16
        Reg.IBL_DROP_CNT ++ each 16 Reg.MESH_XROUTE → t.rd reg = s.rd reg)) ∧
  -- NAK (R320)
  (∀ (s : State) (k : Fin 12) (seq : BitVec 12), s.canonical = true → s.down = false → s.fbit (Reg.IBL_STATUS_UP k) =
    true → (((s.link k).retry.drop (ackCount (s.link k).retry seq.toNat)).any fun c => decide (s.retryMax k ≤ c.replays))
    = false →
    ∃ t, exec (.nak k seq) s = .next t ∧
      (t.link k).retry = ((s.link k).retry.drop (ackCount (s.link k).retry seq.toNat)).map (fun c =>
        { c with replays := c.replays + 1 }) ∧
      t.sent = ((s.link k).retry.drop (ackCount (s.link k).retry seq.toNat)).reverse.map (fun c => .codeword k (some
        c.seq) (codeSlots (linkFlit (s.link k).rxSeq false (s.link k).xoffWord 0 0) (linkFlit (s.link k).rxSeq false
        (s.link k).xoffWord 0 0) c.flits)) ++ s.sent ∧
      (t.rd (Reg.IBL_REPLAY_CNT k)).toNat = satCount 32 (s.rd (Reg.IBL_REPLAY_CNT k)).toNat ((s.link k).retry.drop
        (ackCount (s.link k).retry seq.toNat)).length ∧
      t.fbit (Reg.IBL_STATUS_UP k) = true ∧
      (t.link k).out = (s.link k).out ∧
      (t.link k).far = (s.link k).far ++ (((s.link k).retry.take (ackCount (s.link k).retry seq.toNat)).flatMap fun c =>
        c.cells).filterMap (fun c => c.ev) ∧
      t.mem = s.mem ∧
      (∀ reg : Nat, reg ∉ [Reg.IBL_DOWN_CNT k, Reg.IBL_STATUS k, Reg.MESH_STATUS, Reg.CHR_FAIL, Reg.CHR_FAIL_CNT,
        Reg.CHR_STALE_ADDR, Reg.CHR_STATUS, Reg.IBL_REPLAY_CNT k, Reg.MESH_NOROUTE_CNT] ++ each 16 Reg.IBL_DROP_CNT ++
        each 16 Reg.MESH_XROUTE → t.rd reg = s.rd reg)) ∧
  -- NAK: a codeword has been replayed RETRY_MAX times: the link is lost (R320) (R320)
  (∀ (s : State) (k : Fin 12) (seq : BitVec 12), s.canonical = true → s.down = false → s.fbit (Reg.IBL_STATUS_UP k) =
    true → (((s.link k).retry.drop (ackCount (s.link k).retry seq.toNat)).any fun c => decide (s.retryMax k ≤ c.replays))
    = true →
    ∃ t, exec (.nak k seq) s = .next t ∧
      t.fbit (Reg.IBL_STATUS_UP k) = false ∧
      t.fget (Reg.IBL_STATUS_STATE k) = 6 ∧
      t.fbit (Reg.IBL_STATUS_LOST k) = true ∧
      (t.rd (Reg.IBL_DOWN_CNT k)).toNat = satCount 32 (s.rd (Reg.IBL_DOWN_CNT k)).toNat 1 ∧
      (t.link k).out = [] ∧
      (t.link k).retry = [] ∧
      (t.link k).part = none ∧
      .fault 7 6 k 0 ∈ t.sent ∧
      t.mem = s.mem ∧
      (∀ reg : Nat, reg ∉ [Reg.IBL_DOWN_CNT k, Reg.IBL_STATUS k, Reg.MESH_STATUS, Reg.CHR_FAIL, Reg.CHR_FAIL_CNT,
        Reg.CHR_STALE_ADDR, Reg.CHR_STATUS, Reg.IBL_REPLAY_CNT k, Reg.MESH_NOROUTE_CNT] ++ each 16 Reg.IBL_DROP_CNT ++
        each 16 Reg.MESH_XROUTE → t.rd reg = s.rd reg)) ∧
  -- NAK: the link is not UP (R320)
  (∀ (s : State) (k : Fin 12) (seq : BitVec 12), s.canonical = true → s.down = false → s.fbit (Reg.IBL_STATUS_UP k) =
    false →
    ∃ t, exec (.nak k seq) s = .next t ∧
      t = s ∧
      t.mem = s.mem)

/-- Queues: messages and their replies complete. A message sent to one queue or to a multicast group, its arrival at a queue
and the reply at its sender. (10_queues_and_sync_objects.md.) -/
def Obligations.QueueSendCommandsComplete : Prop :=
  -- Q_SEND (R340)
  (∀ (s : State) (o : Fin 136) (stores : List (Fin 8 × List Byte)) (lenm1 : BitVec 3) (queue : BitVec 4) (dest : BitVec
    16) (d : Nat), s.canonical = true → s.down = false → s.ownerRuns o = true → (s.owner o).stalled = [] → (s.owner o).mc
    = none → s.sendQn (lenm1.toNat * 2 ^ 28 + queue.toNat * 2 ^ 16 + dest.toNat) = some d → s.place o d = true →
    ∃ t, exec (.qSend o stores lenm1 queue dest) s = .next t ∧
      (t.owner o).tx = (txStores (s.owner o).tx stores) ∧
      (t.owner o).stalled = [] ∧
      (qnDev d = s.devid → t.sent = .qmsg s.devid (qnOwner d) (qnQueue d) (ownerCoord s.devid o) false ((txStores
        (s.owner o).tx stores).take (lenm1.toNat + 1)) :: s.sent ∧ (t.owner o).busy = (s.owner o).busy ++ [⟨d, ((txStores
        (s.owner o).tx stores).take (lenm1.toNat + 1)), none, none, s.time, none⟩] ∧ (t.iface (ownerCoord s.devid
        o)).held = (s.iface (ownerCoord s.devid o)).held + 1 ∧ t.csr = s.csr) ∧
      (qnDev d ≠ s.devid → s.routeFor (qnDev d) (coHalf (ownerCoord (qnDev d) (qnOwner d))) = false → (t.owner o).busy =
        (s.owner o).busy ∧ (t.rd (Reg.Q_TX_FAIL_CNT o)).toNat = satCount 32 (s.rd (Reg.Q_TX_FAIL_CNT o)).toNat 1 ∧ t.fbit
        (Reg.Q_STATUS_NACK o) = true ∧ t.fget (Reg.Q_STATUS_LAST_FAIL o) = d ∧ (t.rd Reg.MESH_NOROUTE_CNT).toNat =
        satCount 32 (s.rd Reg.MESH_NOROUTE_CNT).toNat 1) ∧
      t.mem = s.mem ∧
      (∀ reg : Nat, reg ∉ [Reg.Q_MC_DONE o, Reg.Q_MC_FAIL o, Reg.Q_STATUS o, Reg.Q_TX_FAIL_CNT o, Reg.Q_TX_DISCARD_CNT o,
        Reg.MESH_NOROUTE_CNT, Reg.MESH_RANK_MISS_CNT] ++ each 32 Reg.ING_WAKE_NACK_CNT ++ each 16 Reg.IBL_DROP_CNT → t.rd
        reg = s.rd reg)) ∧
  -- Q_SEND: no place is free: the core stalls (R341) (R340)
  (∀ (s : State) (o : Fin 136) (stores : List (Fin 8 × List Byte)) (lenm1 : BitVec 3) (queue : BitVec 4) (dest : BitVec
    16) (d : Nat), s.canonical = true → s.down = false → s.ownerRuns o = true → (s.owner o).stalled = [] → (s.owner o).mc
    = none → s.sendQn (lenm1.toNat * 2 ^ 28 + queue.toNat * 2 ^ 16 + dest.toNat) = some d → s.place o d = false →
    ∃ t, exec (.qSend o stores lenm1 queue dest) s = .next t ∧
      (t.owner o).tx = (txStores (s.owner o).tx stores) ∧
      (t.owner o).stalled = [((lenm1.toNat * 2 ^ 28 + queue.toNat * 2 ^ 16 + dest.toNat), ((txStores (s.owner o).tx
        stores).take (lenm1.toNat + 1)))] ∧
      (t.owner o).busy = (s.owner o).busy ∧
      t.csr = s.csr ∧
      t.mem = s.mem ∧
      t.sent = s.sent) ∧
  -- Q_SEND: a rank that names no owner: refused at the interface (R307, R342) (R340)
  (∀ (s : State) (o : Fin 136) (stores : List (Fin 8 × List Byte)) (lenm1 : BitVec 3) (queue : BitVec 4) (dest : BitVec
    16), s.canonical = true → s.down = false → s.ownerRuns o = true → (s.owner o).stalled = [] → (s.owner o).mc = none →
    s.sendQn (lenm1.toNat * 2 ^ 28 + queue.toNat * 2 ^ 16 + dest.toNat) = none →
    ∃ t, exec (.qSend o stores lenm1 queue dest) s = .next t ∧
      (t.owner o).tx = (txStores (s.owner o).tx stores) ∧
      (t.owner o).stalled = [] ∧
      (t.owner o).busy = (s.owner o).busy ∧
      (t.rd (Reg.Q_TX_FAIL_CNT o)).toNat = satCount 32 (s.rd (Reg.Q_TX_FAIL_CNT o)).toNat 1 ∧
      t.fbit (Reg.Q_STATUS_NACK o) = true ∧
      (s.unrank (bits (lenm1.toNat * 2 ^ 28 + queue.toNat * 2 ^ 16 + dest.toNat) 15 0) = none → (t.rd
        Reg.MESH_RANK_MISS_CNT).toNat = satCount 32 (s.rd Reg.MESH_RANK_MISS_CNT).toNat 1) ∧
      t.mem = s.mem ∧
      t.sent = s.sent ∧
      (∀ reg : Nat, reg ∉ [Reg.Q_STATUS o, Reg.Q_TX_FAIL_CNT o, Reg.MESH_RANK_MISS_CNT] → t.rd reg = s.rd reg)) ∧
  -- Q_SEND: the core stalls already at a send that does not go (R340)
  (∀ (s : State) (o : Fin 136) (stores : List (Fin 8 × List Byte)) (lenm1 : BitVec 3) (queue : BitVec 4) (dest : BitVec
    16) (w : Nat) (c : List (List Byte)) (r : List (Nat × List (List Byte))) (d : Nat), s.canonical = true → s.down =
    false → s.ownerRuns o = true → (s.owner o).mc = none → (s.owner o).stalled = (w, c) :: r → bit w 31 = false →
    s.sendQn w = some d → s.place o d = false →
    ∃ t, exec (.qSend o stores lenm1 queue dest) s = .next t ∧
      (t.owner o).tx = (txStores (s.owner o).tx stores) ∧
      (t.owner o).stalled = (w, c) :: r ++ [((lenm1.toNat * 2 ^ 28 + queue.toNat * 2 ^ 16 + dest.toNat), ((txStores
        (s.owner o).tx stores).take (lenm1.toNat + 1)))] ∧
      t.csr = s.csr ∧
      t.mem = s.mem ∧
      t.sent = s.sent) ∧
  -- Q_SEND: any send of a core that runs (R340)
  (∀ (s : State) (o : Fin 136) (stores : List (Fin 8 × List Byte)) (lenm1 : BitVec 3) (queue : BitVec 4) (dest : BitVec
    16), s.canonical = true → s.down = false → s.ownerRuns o = true →
    ∃ t, exec (.qSend o stores lenm1 queue dest) s = .next t ∧
      (t.owner o).tx = (txStores (s.owner o).tx stores) ∧
      t.counter = s.counter ∧
      t.mem = s.mem ∧
      (∀ reg : Nat, reg ∉ [Reg.Q_MC_DONE o, Reg.Q_MC_FAIL o, Reg.Q_STATUS o, Reg.Q_TX_FAIL_CNT o, Reg.Q_TX_DISCARD_CNT o,
        Reg.MESH_NOROUTE_CNT, Reg.MESH_RANK_MISS_CNT] ++ each 32 Reg.ING_WAKE_NACK_CNT ++ each 16 Reg.IBL_DROP_CNT → t.rd
        reg = s.rd reg)) ∧
  -- Q_SEND: a core that does not run (R340)
  (∀ (s : State) (o : Fin 136) (stores : List (Fin 8 × List Byte)) (lenm1 : BitVec 3) (queue : BitVec 4) (dest : BitVec
    16), s.canonical = true → s.down = false → s.ownerRuns o = false →
    ∃ t, exec (.qSend o stores lenm1 queue dest) s = .next t ∧
      t = s ∧
      t.mem = s.mem) ∧
  -- Q_SEND_MULTICAST (R345)
  (∀ (s : State) (o : Fin 136) (stores : List (Fin 8 × List Byte)) (lenm1 : BitVec 3) (k : Nat) (l : List Nat),
    s.canonical = true → s.down = false → s.ownerRuns o = true → (s.owner o).stalled = [] → (s.owner o).mc = none →
    ((List.range 32).filter (fun i => bit (s.rd (Reg.Q_MC_MASK o)).toNat i && s.fbit (Reg.Q_MC_ENT_VALID o i))) = k :: l
    →
    ∃ t, exec (.qSendMulticast o stores lenm1) s = .next t ∧
      (t.owner o).tx = (txStores (s.owner o).tx stores) ∧
      (t.owner o).stalled = [] ∧
      (((List.range 32).filter (fun i => bit (s.rd (Reg.Q_MC_MASK o)).toNat i && s.fbit (Reg.Q_MC_ENT_VALID o i))).all
        (fun i => decide (qnDev (s.entryQn o i) = s.devid)) = true → t.fbit (Reg.Q_STATUS_MC_BUSY o) = true ∧ t.rd
        (Reg.Q_MC_DONE o) = 0 ∧ t.rd (Reg.Q_MC_FAIL o) = 0 ∧ (t.owner o).mc.map (fun x => (x.sel, x.cells, x.start,
        x.past)) = some (k :: l, ((txStores (s.owner o).tx stores).take (lenm1.toNat + 1)), s.time, false)) ∧
      (((List.range 32).filter (fun i => bit (s.rd (Reg.Q_MC_MASK o)).toNat i && s.fbit (Reg.Q_MC_ENT_VALID o i))).all
        (fun i => decide (qnDev (s.entryQn o i) = s.devid)) = true → s.place o (s.entryQn o k) = true → .qmsg s.devid
        (qnOwner (s.entryQn o k)) (qnQueue (s.entryQn o k)) (ownerCoord s.devid o) false ((txStores (s.owner o).tx
        stores).take (lenm1.toNat + 1)) ∈ t.sent ∧ (t.owner o).busy.any (fun x => decide (x.qn = s.entryQn o k ∧ x.entry
        = some k ∧ x.cells = ((txStores (s.owner o).tx stores).take (lenm1.toNat + 1)))) = true) ∧
      (((List.range 32).filter (fun i => bit (s.rd (Reg.Q_MC_MASK o)).toNat i && s.fbit (Reg.Q_MC_ENT_VALID o i))).all
        (fun i => decide (qnDev (s.entryQn o i) = s.devid)) = true → s.place o (s.entryQn o k) = false → l = [] →
        (t.owner o).mc.map (fun x => x.todo) = some [k] ∧ t.sent = s.sent) ∧
      (((List.range 32).filter (fun i => bit (s.rd (Reg.Q_MC_MASK o)).toNat i && s.fbit (Reg.Q_MC_ENT_VALID o i))).all
        (fun i => decide (qnDev (s.entryQn o i) = s.devid)) = true → s.place o (s.entryQn o k) = true → l = [] → (t.owner
        o).mc.map (fun x => x.todo) = some [] ∧ t.sent = .qmsg s.devid (qnOwner (s.entryQn o k)) (qnQueue (s.entryQn o
        k)) (ownerCoord s.devid o) false ((txStores (s.owner o).tx stores).take (lenm1.toNat + 1)) :: s.sent) ∧
      t.mem = s.mem ∧
      (∀ reg : Nat, reg ∉ [Reg.Q_MC_DONE o, Reg.Q_MC_FAIL o, Reg.Q_STATUS o, Reg.Q_TX_FAIL_CNT o, Reg.Q_TX_DISCARD_CNT o,
        Reg.MESH_NOROUTE_CNT, Reg.MESH_RANK_MISS_CNT] ++ each 32 Reg.ING_WAKE_NACK_CNT ++ each 16 Reg.IBL_DROP_CNT → t.rd
        reg = s.rd reg)) ∧
  -- Q_SEND_MULTICAST: no entry is selected: it completes at once (R346) (R345)
  (∀ (s : State) (o : Fin 136) (stores : List (Fin 8 × List Byte)) (lenm1 : BitVec 3), s.canonical = true → s.down =
    false → s.ownerRuns o = true → (s.owner o).stalled = [] → (s.owner o).mc = none → ((List.range 32).filter (fun i =>
    bit (s.rd (Reg.Q_MC_MASK o)).toNat i && s.fbit (Reg.Q_MC_ENT_VALID o i))) = [] →
    ∃ t, exec (.qSendMulticast o stores lenm1) s = .next t ∧
      (t.owner o).mc = none ∧
      t.fbit (Reg.Q_STATUS_MC_BUSY o) = false ∧
      t.rd (Reg.Q_MC_DONE o) = 0 ∧
      t.rd (Reg.Q_MC_FAIL o) = 0 ∧
      (s.fget (Reg.Q_MC_CFG_OBJ o) = 0xFFFF → t.sent = s.sent) ∧
      (s.fget (Reg.Q_MC_CFG_OBJ o) ≠ 0xFFFF → s.replyFree (ownerCoord s.devid o) = true → t.sent = .sync s.devid (s.fget
        (Reg.Q_MC_CFG_OBJ o)) 0 1 0 (ownerCoord s.devid o + (s.iface (ownerCoord s.devid o)).tag * 2 ^ 22) :: s.sent) ∧
      t.mem = s.mem ∧
      (∀ reg : Nat, reg ∉ [Reg.Q_MC_DONE o, Reg.Q_MC_FAIL o, Reg.Q_STATUS o, Reg.Q_TX_FAIL_CNT o, Reg.Q_TX_DISCARD_CNT o,
        Reg.MESH_NOROUTE_CNT, Reg.MESH_RANK_MISS_CNT] ++ each 32 Reg.ING_WAKE_NACK_CNT ++ each 16 Reg.IBL_DROP_CNT → t.rd
        reg = s.rd reg)) ∧
  -- Q_SEND_MULTICAST: a multicast runs: the core stalls (R345) (R345)
  (∀ (s : State) (o : Fin 136) (stores : List (Fin 8 × List Byte)) (lenm1 : BitVec 3) (m : McSt), s.canonical = true →
    s.down = false → s.ownerRuns o = true → (s.owner o).stalled = [] → (s.owner o).mc = some m → m.todo = [] →
    ∃ t, exec (.qSendMulticast o stores lenm1) s = .next t ∧
      (t.owner o).tx = (txStores (s.owner o).tx stores) ∧
      (t.owner o).stalled = [(2 ^ 31 + lenm1.toNat * 2 ^ 28, ((txStores (s.owner o).tx stores).take (lenm1.toNat + 1)))]
        ∧
      (t.owner o).mc = some m ∧
      t.csr = s.csr ∧
      t.mem = s.mem ∧
      t.sent = s.sent) ∧
  -- Q_SEND_MULTICAST: any multicast of a core that runs (R345)
  (∀ (s : State) (o : Fin 136) (stores : List (Fin 8 × List Byte)) (lenm1 : BitVec 3), s.canonical = true → s.down =
    false → s.ownerRuns o = true →
    ∃ t, exec (.qSendMulticast o stores lenm1) s = .next t ∧
      (t.owner o).tx = (txStores (s.owner o).tx stores) ∧
      t.counter = s.counter ∧
      t.mem = s.mem ∧
      (∀ reg : Nat, reg ∉ [Reg.Q_MC_DONE o, Reg.Q_MC_FAIL o, Reg.Q_STATUS o, Reg.Q_TX_FAIL_CNT o, Reg.Q_TX_DISCARD_CNT o,
        Reg.MESH_NOROUTE_CNT, Reg.MESH_RANK_MISS_CNT] ++ each 32 Reg.ING_WAKE_NACK_CNT ++ each 16 Reg.IBL_DROP_CNT → t.rd
        reg = s.rd reg)) ∧
  -- Q_SEND_MULTICAST: a core that does not run (R345)
  (∀ (s : State) (o : Fin 136) (stores : List (Fin 8 × List Byte)) (lenm1 : BitVec 3), s.canonical = true → s.down =
    false → s.ownerRuns o = false →
    ∃ t, exec (.qSendMulticast o stores lenm1) s = .next t ∧
      t = s ∧
      t.mem = s.mem) ∧
  -- QMSG (R309, R337, R342)
  (∀ (s : State) (dst : BitVec 22) (q : Fin 16) (lenm1 : BitVec 3) (first : Bool) (last : Bool) (src : BitVec 22) (alt :
    Bool) (data : List Byte) (ecc : Ecc) (o : Nat), s.canonical = true → s.down = false → s.dstOwner dst.toNat = o →
    s.ownerThere o = true → (o < 128 → s.fbit Reg.INST_STATUS_COCOON = false) → coDev src.toNat = s.devid → lenm1 = 0 →
    first = true → last = true → (s.owner o).refused.all (fun r => decide (¬ (r.q = q.val ∧ r.src = src.toNat ∧ r.alt =
    alt))) = true → (s.queue o q).want = [] → (s.queue o q).notes = [] → (s.queue o q).ring.all (fun x => x.2.isSome) =
    true → (s.queue o q).fifo.all (fun m => !m.mine src.toNat alt) = true →
    ∃ t, exec (.qmsg dst q lenm1 first last src alt data ecc) s = .next t ∧
      (s.qOpen o q = true → (s.queue o q).used = 0 → (s.queue o q).ring = [] → 0 < (s.queue o q).free → (t.queue o
        q).fifo = (s.queue o q).fifo ++ [⟨1, 0, src.toNat, s.rankOf src.toNat, 0, alt, [(((data ++ List.replicate 40
        0).take 40), false)], 0, true⟩] ∧ .status (src.toNat + (lenm1.toNat * 32 + q) * 2 ^ 22) 0 0 0 0 ∈ t.sent ∧ (t.rd
        (Reg.Q_RX_MSG_CNT o)).toNat = satCount 32 (s.rd (Reg.Q_RX_MSG_CNT o)).toNat 1 ∧ t.mem = s.mem) ∧
      (s.qOpen o q = true → (s.queue o q).free = 0 → s.fget (Reg.Q_CFG_RING_LEN o q) ≤ (s.queue o q).used → (t.queue o
        q).fifo = (s.queue o q).fifo ∧ .status (src.toNat + (lenm1.toNat * 32 + q) * 2 ^ 22) 1 1 0 0 ∈ t.sent ∧ (t.rd
        (Reg.Q_FULL_CNT o)).toNat = satCount 32 (s.rd (Reg.Q_FULL_CNT o)).toNat 1 ∧ t.mem = s.mem) ∧
      (s.qOpen o q = true → (s.queue o q).free = 0 → (s.queue o q).used < s.fget (Reg.Q_CFG_RING_LEN o q) → (s.queue o
        q).tail < s.fget (Reg.Q_CFG_RING_LEN o q) → (s.queue o q).ring.all (fun x => decide (x.1 ≠ (s.queue o q).tail)) =
        true → (t.queue o q).fifo = (s.queue o q).fifo ∧ (t.queue o q).used = (s.queue o q).used + 1 ∧ (t.queue o q).ring
        = (s.queue o q).ring ++ [((s.queue o q).tail, some ⟨1, 0, src.toNat, s.rankOf src.toNat, 0, alt, [(((data ++
        List.replicate 40 0).take 40), false)], 0, true⟩)] ∧ (t.queue o q).tail = (if (s.queue o q).tail + 1 = s.fget
        (Reg.Q_CFG_RING_LEN o q) then 0 else (s.queue o q).tail + 1) ∧ .status (src.toNat + (lenm1.toNat * 32 + q) * 2 ^
        22) 0 0 0 0 ∈ t.sent ∧ (t.rd (Reg.Q_RX_MSG_CNT o)).toNat = satCount 32 (s.rd (Reg.Q_RX_MSG_CNT o)).toNat 1) ∧
      (s.qOpen o q = false → (t.queue o q).fifo = (s.queue o q).fifo ∧ .status (src.toNat + (lenm1.toNat * 32 + q) * 2 ^
        22) 1 0 0 0 ∈ t.sent ∧ (t.rd (Reg.Q_NACK_CNT o)).toNat = satCount 32 (s.rd (Reg.Q_NACK_CNT o)).toNat 1 ∧ t.mem =
        s.mem) ∧
      (∀ x : Nat, x < unalias (localPart (s.ringAddr o q (s.queue o q).tail)) ∨ unalias (localPart (s.ringAddr o q
        (s.queue o q).tail)) + 48 ≤ x → t.mget x = s.mget x) ∧
      (∀ reg : Nat, reg ∉ [Reg.Q_FULL_CNT o, Reg.Q_NACK_CNT o, Reg.Q_RX_MSG_CNT o] ++ each 64 (Reg.Q_COMB o) ++ each 64
        (Reg.Q_COMB_CNT o) ++ each 16 (Reg.Q_STAT o) ++ each 102 Reg.PWR_ISL_STAT ++ each 128 Reg.SEQ_STATUS ++
        memorySide → t.rd reg = s.rd reg)) ∧
  -- QMSG: the first cell of a longer message: its place is taken (R309, R337, R342)
  (∀ (s : State) (dst : BitVec 22) (q : Fin 16) (lenm1 : BitVec 3) (first : Bool) (last : Bool) (src : BitVec 22) (alt :
    Bool) (data : List Byte) (ecc : Ecc) (o : Nat), s.canonical = true → s.down = false → s.dstOwner dst.toNat = o →
    s.ownerThere o = true → (o < 128 → s.fbit Reg.INST_STATUS_COCOON = false) → coDev src.toNat = s.devid → 0 <
    lenm1.toNat → first = true → last = false → (s.owner o).refused.all (fun r => decide (¬ (r.q = q.val ∧ r.src =
    src.toNat ∧ r.alt = alt))) = true → s.qOpen o q = true → (s.queue o q).used = 0 → lenm1.toNat < (s.queue o q).free →
    (s.queue o q).ring = [] → (s.queue o q).fifo.all (fun m => !m.mine src.toNat alt) = true →
    ∃ t, exec (.qmsg dst q lenm1 first last src alt data ecc) s = .next t ∧
      (t.queue o q).fifo = (s.queue o q).fifo ++ [⟨lenm1.toNat + 1, 0, src.toNat, s.rankOf src.toNat, 0, alt, [(((data ++
        List.replicate 40 0).take 40), false)], 0, false⟩] ∧
      (s.qHead o q ≠ none → t.sent = s.sent) ∧
      t.rd (Reg.Q_RX_MSG_CNT o) = s.rd (Reg.Q_RX_MSG_CNT o) ∧
      t.mem = s.mem ∧
      (∀ reg : Nat, reg ∉ each 16 (Reg.Q_STAT o) ++ each 102 Reg.PWR_ISL_STAT ++ each 128 Reg.SEQ_STATUS → t.rd reg =
        s.rd reg)) ∧
  -- QMSG: a later cell of a message that is being taken in (R309, R337, R342)
  (∀ (s : State) (dst : BitVec 22) (q : Fin 16) (lenm1 : BitVec 3) (first : Bool) (last : Bool) (src : BitVec 22) (alt :
    Bool) (data : List Byte) (ecc : Ecc) (o : Nat) (pre : List QMsg) (m : QMsg), s.canonical = true → s.down = false →
    s.dstOwner dst.toNat = o → s.ownerThere o = true → (o < 128 → s.fbit Reg.INST_STATUS_COCOON = false) → coDev
    src.toNat = s.devid → first = false → (s.owner o).refused.all (fun r => decide (¬ (r.q = q.val ∧ r.src = src.toNat ∧
    r.alt = alt))) = true → (s.queue o q).fifo = pre ++ [m] → pre.all (fun m => !m.mine src.toNat alt) = true → m.mine
    src.toNat alt = true → (s.queue o q).want = [] → (s.queue o q).notes = [] → (s.queue o q).ring = [] →
    ∃ t, exec (.qmsg dst q lenm1 first last src alt data ecc) s = .next t ∧
      (t.queue o q).fifo = pre ++
        [{ m with cells := m.cells ++ [(((data ++ List.replicate 40 0).take 40), false)], done := last }] ∧
      (last = true → .status (src.toNat + (lenm1.toNat * 32 + q) * 2 ^ 22) 0 0 0 0 ∈ t.sent ∧ (t.rd (Reg.Q_RX_MSG_CNT
        o)).toNat = satCount 32 (s.rd (Reg.Q_RX_MSG_CNT o)).toNat 1) ∧
      (last = false → s.qHead o q ≠ none → t.sent = s.sent) ∧
      (last = false → t.rd (Reg.Q_RX_MSG_CNT o) = s.rd (Reg.Q_RX_MSG_CNT o)) ∧
      t.mem = s.mem ∧
      (∀ reg : Nat, reg ∉ [Reg.Q_RX_MSG_CNT o] ++ each 16 (Reg.Q_STAT o) ++ each 102 Reg.PWR_ISL_STAT ++ each 128
        Reg.SEQ_STATUS → t.rd reg = s.rd reg)) ∧
  -- QMSG: a later cell of a message that was refused or discarded: its answer comes at LAST (R342, R343) (R309, R337, R342)
  (∀ (s : State) (dst : BitVec 22) (q : Fin 16) (lenm1 : BitVec 3) (first : Bool) (last : Bool) (src : BitVec 22) (alt :
    Bool) (data : List Byte) (ecc : Ecc) (o : Nat) (r : Refused), s.canonical = true → s.down = false → s.dstOwner
    dst.toNat = o → s.ownerThere o = true → (o < 128 → s.fbit Reg.INST_STATUS_COCOON = false) → coDev src.toNat = s.devid
    → first = false → (s.owner o).refused.find? (fun r => decide (r.q = q.val ∧ r.src = src.toNat ∧ r.alt = alt)) = some
    r →
    ∃ t, exec (.qmsg dst q lenm1 first last src alt data ecc) s = .next t ∧
      (last = true → (t.owner o).refused = (s.owner o).refused.erase r ∧ t.sent = .status (src.toNat + ((r.n - 1) * 32 +
        q) * 2 ^ 22) (if r.why = 2 then 2 else 1) (if r.why = 2 then 0 else r.why) (if r.why = 2 then r.n else 0) 0 ::
        s.sent) ∧
      (last = false → (t.owner o).refused = (s.owner o).refused ∧ t.sent = s.sent) ∧
      (t.queue o q).fifo = (s.queue o q).fifo ∧
      t.mem = s.mem ∧
      (∀ reg : Nat, reg ∉ each 16 (Reg.Q_STAT o) ++ each 102 Reg.PWR_ISL_STAT → t.rd reg = s.rd reg)) ∧
  -- QMSG: a sequencer core during Cocoon: NO_TARGET at LAST (R485) (R309, R337, R342)
  (∀ (s : State) (dst : BitVec 22) (q : Fin 16) (lenm1 : BitVec 3) (first : Bool) (last : Bool) (src : BitVec 22) (alt :
    Bool) (data : List Byte) (ecc : Ecc) (o : Nat), s.canonical = true → s.down = false → s.dstOwner dst.toNat = o →
    s.ownerThere o = true → o < 128 → s.fbit Reg.INST_STATUS_COCOON = true → coDev src.toNat = s.devid →
    ∃ t, exec (.qmsg dst q lenm1 first last src alt data ecc) s = .next t ∧
      t.sent = (if last = true then [.status (src.toNat + (lenm1.toNat * 32 + q) * 2 ^ 22) 3 0 0 0] else []) ++ s.sent ∧
      t.owners = s.owners ∧
      t.mem = s.mem ∧
      t.csr = s.csr) ∧
  -- QMSG: DST names no owner that is there: the router sinks the cell (R309) (R309, R337, R342)
  (∀ (s : State) (dst : BitVec 22) (q : Fin 16) (lenm1 : BitVec 3) (first : Bool) (last : Bool) (src : BitVec 22) (alt :
    Bool) (data : List Byte) (ecc : Ecc) (o : Nat), s.canonical = true → s.down = false → s.dstOwner dst.toNat = o →
    s.ownerThere o = false → coDev src.toNat = s.devid →
    ∃ t, exec (.qmsg dst q lenm1 first last src alt data ecc) s = .next t ∧
      (t.rd Reg.MESH_BAD_DST_CNT).toNat = satCount 32 (s.rd Reg.MESH_BAD_DST_CNT).toNat 1 ∧
      t.sent = (if last = true then [.status (src.toNat + (lenm1.toNat * 32 + q) * 2 ^ 22) 3 0 0 0] else []) ++ s.sent ∧
      t.owners = s.owners ∧
      t.mem = s.mem ∧
      (∀ reg : Nat, reg ∉ [Reg.MESH_BAD_DST_CNT] → t.rd reg = s.rd reg)) ∧
  -- QMSG: any cell of any message (R309, R337, R342)
  (∀ (s : State) (dst : BitVec 22) (q : Fin 16) (lenm1 : BitVec 3) (first : Bool) (last : Bool) (src : BitVec 22) (alt :
    Bool) (data : List Byte) (ecc : Ecc), s.canonical = true → s.down = false →
    ∃ t, exec (.qmsg dst q lenm1 first last src alt data ecc) s = .next t ∧
      t.counter = s.counter ∧
      t.cores = s.cores ∧
      t.tiles = s.tiles ∧
      t.streams = s.streams ∧
      t.toks = s.toks ∧
      (∀ reg : Fin 16384, t.rd (0x40000 + reg.val) = s.rd (0x40000 + reg.val))) ∧
  -- QMSG_REPLY (R342)
  (∀ (s : State) (o : Fin 137) (qn : BitVec 16) (code : Fin 8) (why : BitVec 8) (n : BitVec 8) (x : SendSt), s.canonical
    = true → s.down = false → (s.owner o).stalled = [] → (s.owner o).mc = none → o ≠ 136 → x.entry = none → x.wake = none
    → s.awaits o qn.toNat = some x →
    ∃ t, exec (.qmsgReply o qn code why n) s = .next t ∧
      (code = 0 → (t.owner o).busy = (s.owner o).busy.filter (fun y => decide (y.qn ≠ qn.toNat))) ∧
      (code = 0 → (s.iface (ownerCoord s.devid o)).wait = [] → t.csr = s.csr) ∧
      (code = 1 → why = 1 → (t.owner o).busy = (s.owner o).busy.map (fun y => if y.qn = qn.toNat then
        { y with retryAt := some (s.time + 100) } else y) ∧ t.csr = s.csr ∧ t.ifaces = s.ifaces) ∧
      (code = 1 → why ≠ 1 → (t.owner o).busy = (s.owner o).busy.filter (fun y => decide (y.qn ≠ qn.toNat)) ∧ (t.rd
        (Reg.Q_TX_FAIL_CNT o)).toNat = satCount 32 (s.rd (Reg.Q_TX_FAIL_CNT o)).toNat 1 ∧ t.fbit (Reg.Q_STATUS_NACK o) =
        true ∧ t.fget (Reg.Q_STATUS_LAST_FAIL o) = qn.toNat) ∧
      (code = 2 → (t.owner o).busy = (s.owner o).busy.filter (fun y => decide (y.qn ≠ qn.toNat)) ∧ (t.rd
        (Reg.Q_TX_DISCARD_CNT o)).toNat = satCount 32 (s.rd (Reg.Q_TX_DISCARD_CNT o)).toNat n.toNat ∧ t.fbit
        (Reg.Q_STATUS_DISCARD o) = true ∧ t.fget (Reg.Q_STATUS_LAST_FAIL o) = qn.toNat) ∧
      (3 ≤ code → (t.owner o).busy = (s.owner o).busy.filter (fun y => decide (y.qn ≠ qn.toNat)) ∧ (t.rd
        (Reg.Q_TX_FAIL_CNT o)).toNat = satCount 32 (s.rd (Reg.Q_TX_FAIL_CNT o)).toNat 1 ∧ t.fbit (Reg.Q_STATUS_NACK o) =
        true ∧ t.fget (Reg.Q_STATUS_LAST_FAIL o) = qn.toNat) ∧
      ((s.iface (ownerCoord s.devid o)).wait = [] → t.sent = s.sent) ∧
      t.mem = s.mem ∧
      (∀ reg : Nat, reg ∉ [Reg.Q_MC_DONE o, Reg.Q_MC_FAIL o, Reg.Q_STATUS o, Reg.Q_TX_FAIL_CNT o, Reg.Q_TX_DISCARD_CNT o,
        Reg.MESH_NOROUTE_CNT, Reg.MESH_RANK_MISS_CNT] ++ each 32 Reg.ING_WAKE_NACK_CNT ++ each 16 Reg.IBL_DROP_CNT → t.rd
        reg = s.rd reg)) ∧
  -- QMSG_REPLY: a copy of the running multicast is answered (R346) (R342)
  (∀ (s : State) (o : Fin 137) (qn : BitVec 16) (code : Fin 8) (why : BitVec 8) (n : BitVec 8) (x : SendSt) (i : Nat) (m
    : McSt) (e : Bool), s.canonical = true → s.down = false → (s.owner o).stalled = [] → o ≠ 136 → s.awaits o qn.toNat =
    some x → x.entry = some i → i < 32 → x.wake = none → (s.owner o).mc = some m → m.todo = [] → code ≠ 1 ∨ why ≠ 1 →
    m.sel.all (fun j => decide (j = i) || bit ((s.rd (Reg.Q_MC_DONE o)).toNat ||| (s.rd (Reg.Q_MC_FAIL o)).toNat) j) = e
    →
    ∃ t, exec (.qmsgReply o qn code why n) s = .next t ∧
      (code = 0 → bit (t.rd (Reg.Q_MC_DONE o)).toNat i = true ∧ t.rd (Reg.Q_MC_FAIL o) = s.rd (Reg.Q_MC_FAIL o)) ∧
      (code ≠ 0 → bit (t.rd (Reg.Q_MC_FAIL o)).toNat i = true ∧ t.rd (Reg.Q_MC_DONE o) = s.rd (Reg.Q_MC_DONE o)) ∧
      (t.owner o).busy = (s.owner o).busy.filter (fun y => decide (y.qn ≠ qn.toNat)) ∧
      (e = true → (t.owner o).mc = none ∧ t.fbit (Reg.Q_STATUS_MC_BUSY o) = false) ∧
      (e = false → (t.owner o).mc = some m) ∧
      t.mem = s.mem ∧
      (∀ reg : Nat, reg ∉ [Reg.Q_MC_DONE o, Reg.Q_MC_FAIL o, Reg.Q_STATUS o, Reg.Q_TX_FAIL_CNT o, Reg.Q_TX_DISCARD_CNT o,
        Reg.MESH_NOROUTE_CNT, Reg.MESH_RANK_MISS_CNT] ++ each 32 Reg.ING_WAKE_NACK_CNT ++ each 16 Reg.IBL_DROP_CNT → t.rd
        reg = s.rd reg)) ∧
  -- QMSG_REPLY: a wake message of the time base is answered (R258, R342) (R342)
  (∀ (s : State) (o : Fin 137) (qn : BitVec 16) (code : Fin 8) (why : BitVec 8) (n : BitVec 8) (x : SendSt) (i : Nat)
    (bell : Bool), s.canonical = true → s.down = false → o = 136 → s.awaits o qn.toNat = some x → x.entry = none → x.wake
    = some (i, bell) → (s.owner o).stalled = [] → (s.owner o).mc = none → (s.owner o).wakes = [] → code ≠ 1 ∨ why ≠ 1 →
    ∃ t, exec (.qmsgReply o qn code why n) s = .next t ∧
      (t.owner o).busy = (s.owner o).busy.filter (fun y => decide (y.qn ≠ qn.toNat)) ∧
      (code = 0 ∨ code = 2 → t.rd (Reg.ING_WAKE_NACK_CNT i) = s.rd (Reg.ING_WAKE_NACK_CNT i)) ∧
      (code ≠ 0 → code ≠ 2 → (t.rd (Reg.ING_WAKE_NACK_CNT i)).toNat = satCount 32 (s.rd (Reg.ING_WAKE_NACK_CNT i)).toNat
        1) ∧
      (code ≠ 0 → code ≠ 2 → bell = true → (t.tok i).nack = true) ∧
      t.mem = s.mem ∧
      (∀ reg : Nat, reg ∉ [Reg.Q_MC_DONE o, Reg.Q_MC_FAIL o, Reg.Q_STATUS o, Reg.Q_TX_FAIL_CNT o, Reg.Q_TX_DISCARD_CNT o,
        Reg.MESH_NOROUTE_CNT, Reg.MESH_RANK_MISS_CNT] ++ each 32 Reg.ING_WAKE_NACK_CNT ++ each 16 Reg.IBL_DROP_CNT → t.rd
        reg = s.rd reg)) ∧
  -- QMSG_REPLY: any reply to a message that is out (R342)
  (∀ (s : State) (o : Fin 137) (qn : BitVec 16) (code : Fin 8) (why : BitVec 8) (n : BitVec 8) (x : SendSt), s.canonical
    = true → s.down = false → s.awaits o qn.toNat = some x →
    ∃ t, exec (.qmsgReply o qn code why n) s = .next t ∧
      t.counter = s.counter ∧
      t.mem = s.mem ∧
      (∀ reg : Nat, reg ∉ [Reg.Q_MC_DONE o, Reg.Q_MC_FAIL o, Reg.Q_STATUS o, Reg.Q_TX_FAIL_CNT o, Reg.Q_TX_DISCARD_CNT o,
        Reg.MESH_NOROUTE_CNT, Reg.MESH_RANK_MISS_CNT] ++ each 32 Reg.ING_WAKE_NACK_CNT ++ each 16 Reg.IBL_DROP_CNT → t.rd
        reg = s.rd reg)) ∧
  -- QMSG_REPLY: no message to that queue is out (R342)
  (∀ (s : State) (o : Fin 137) (qn : BitVec 16) (code : Fin 8) (why : BitVec 8) (n : BitVec 8), s.canonical = true →
    s.down = false → s.awaits o qn.toNat = none →
    ∃ t, exec (.qmsgReply o qn code why n) s = .next t ∧
      t = s ∧
      t.mem = s.mem)

/-- Queues: resends, time limits, pops, open and close complete. A message sent again, replies that do not come, a pop, and
a queue opened and closed. (10_queues_and_sync_objects.md.) -/
def Obligations.QueueOwnerCommandsComplete : Prop :=
  -- QMSG_RESEND (R342)
  (∀ (s : State) (o : Fin 137) (qn : BitVec 16) (x : SendSt) (e : Nat), s.canonical = true → s.down = false → (s.owner
    o).busy.find? (fun y => decide (y.qn = qn.toNat)) = some x → x.retryAt = some e → e ≤ s.time → (s.owner o).stalled =
    [] → (s.owner o).mc = none → (o = 136 → (s.owner o).wakes = []) →
    ∃ t, exec (.qmsgResend o qn) s = .next t ∧
      (qnDev qn.toNat = s.devid → t.sent = .qmsg s.devid (qnOwner qn.toNat) (qnQueue qn.toNat) (ownerCoord s.devid o)
        false x.cells :: s.sent ∧ (t.owner o).busy = (s.owner o).busy.filter (fun y => decide (y.qn ≠ qn.toNat)) ++
        [{ x with sentAt := s.time, retryAt := none }] ∧ t.csr = s.csr ∧ t.ifaces = s.ifaces) ∧
      t.mem = s.mem ∧
      (∀ reg : Nat, reg ∉ [Reg.Q_MC_DONE o, Reg.Q_MC_FAIL o, Reg.Q_STATUS o, Reg.Q_TX_FAIL_CNT o, Reg.Q_TX_DISCARD_CNT o,
        Reg.MESH_NOROUTE_CNT, Reg.MESH_RANK_MISS_CNT] ++ each 32 Reg.ING_WAKE_NACK_CNT ++ each 16 Reg.IBL_DROP_CNT → t.rd
        reg = s.rd reg)) ∧
  -- QMSG_RESEND: no message to that queue is due again (R342)
  (∀ (s : State) (o : Fin 137) (qn : BitVec 16), s.canonical = true → s.down = false → ((s.owner o).busy.find? (fun y =>
    decide (y.qn = qn.toNat))).all (fun x => x.retryAt.all fun e => decide (s.time < e)) = true →
    ∃ t, exec (.qmsgResend o qn) s = .next t ∧
      t = s ∧
      t.mem = s.mem) ∧
  -- QMSG_REPLY_TIMEOUT (R342)
  (∀ (s : State) (o : Fin 137) (qn : BitVec 16) (x : SendSt), s.canonical = true → s.down = false → (s.owner o).stalled =
    [] → (s.owner o).mc = none → o ≠ 136 → x.entry = none → x.wake = none → s.awaits o qn.toNat = some x → x.sentAt +
    1000000 ≤ s.time →
    ∃ t, exec (.qmsgReplyTimeout o qn) s = .next t ∧
      (t.owner o).busy = (s.owner o).busy.filter (fun y => decide (y.qn ≠ qn.toNat)) ∧
      (t.rd (Reg.Q_TX_FAIL_CNT o)).toNat = satCount 32 (s.rd (Reg.Q_TX_FAIL_CNT o)).toNat 1 ∧
      t.fbit (Reg.Q_STATUS_NACK o) = true ∧
      t.fget (Reg.Q_STATUS_LAST_FAIL o) = qn.toNat ∧
      ((s.iface (ownerCoord s.devid o)).wait = [] → t.sent = s.sent) ∧
      t.mem = s.mem ∧
      (∀ reg : Nat, reg ∉ [Reg.Q_MC_DONE o, Reg.Q_MC_FAIL o, Reg.Q_STATUS o, Reg.Q_TX_FAIL_CNT o, Reg.Q_TX_DISCARD_CNT o,
        Reg.MESH_NOROUTE_CNT, Reg.MESH_RANK_MISS_CNT] ++ each 32 Reg.ING_WAKE_NACK_CNT ++ each 16 Reg.IBL_DROP_CNT → t.rd
        reg = s.rd reg)) ∧
  -- QMSG_REPLY_TIMEOUT: a copy of the running multicast fails (R346) (R342)
  (∀ (s : State) (o : Fin 137) (qn : BitVec 16) (x : SendSt) (i : Nat) (m : McSt), s.canonical = true → s.down = false →
    (s.owner o).stalled = [] → o ≠ 136 → s.awaits o qn.toNat = some x → x.sentAt + 1000000 ≤ s.time → x.entry = some i →
    i < 32 → x.wake = none → (s.owner o).mc = some m → m.todo = [] →
    ∃ t, exec (.qmsgReplyTimeout o qn) s = .next t ∧
      bit (t.rd (Reg.Q_MC_FAIL o)).toNat i = true ∧
      (t.rd (Reg.Q_TX_FAIL_CNT o)).toNat = satCount 32 (s.rd (Reg.Q_TX_FAIL_CNT o)).toNat 1 ∧
      t.fbit (Reg.Q_STATUS_NACK o) = true ∧
      t.fget (Reg.Q_STATUS_LAST_FAIL o) = qn.toNat ∧
      t.mem = s.mem ∧
      (∀ reg : Nat, reg ∉ [Reg.Q_MC_DONE o, Reg.Q_MC_FAIL o, Reg.Q_STATUS o, Reg.Q_TX_FAIL_CNT o, Reg.Q_TX_DISCARD_CNT o,
        Reg.MESH_NOROUTE_CNT, Reg.MESH_RANK_MISS_CNT] ++ each 32 Reg.ING_WAKE_NACK_CNT ++ each 16 Reg.IBL_DROP_CNT → t.rd
        reg = s.rd reg)) ∧
  -- QMSG_REPLY_TIMEOUT: 1 ms has not passed (R342)
  (∀ (s : State) (o : Fin 137) (qn : BitVec 16), s.canonical = true → s.down = false → (s.awaits o qn.toNat).all (fun x
    => decide (s.time < x.sentAt + 1000000)) = true →
    ∃ t, exec (.qmsgReplyTimeout o qn) s = .next t ∧
      t = s ∧
      t.mem = s.mem) ∧
  -- MC_TIMEOUT (R346)
  (∀ (s : State) (o : Fin 136) (m : McSt) (k : Fin 32), s.canonical = true → s.down = false → (s.owner o).mc = some m →
    s.fget (Reg.Q_MC_CFG_TIMEOUT o) ≠ 0 → m.start + 1000 * s.fget (Reg.Q_MC_CFG_TIMEOUT o) ≤ s.time → (s.owner
    o).busy.all (fun y => !(y.entry.isSome && y.retryAt.isSome)) = true → (s.owner o).stalled = [] → m.todo.all (fun i =>
    decide (i < 32)) = true →
    ∃ t, exec (.mcTimeout o) s = .next t ∧
      (k.val ∈ m.todo → bit (t.rd (Reg.Q_MC_FAIL o)).toNat k.val = true) ∧
      (m.todo ≠ [] → m.todo = m.sel → (t.owner o).mc = none ∧ t.fbit (Reg.Q_STATUS_MC_BUSY o) = false) ∧
      (m.todo = [] → (t.owner o).mc = some { m with past := true } ∧ t.csr = s.csr) ∧
      t.rd (Reg.Q_MC_DONE o) = s.rd (Reg.Q_MC_DONE o) ∧
      (t.owner o).busy = (s.owner o).busy ∧
      t.mem = s.mem ∧
      (∀ reg : Nat, reg ∉ [Reg.Q_MC_DONE o, Reg.Q_MC_FAIL o, Reg.Q_STATUS o, Reg.Q_TX_FAIL_CNT o, Reg.Q_TX_DISCARD_CNT o,
        Reg.MESH_NOROUTE_CNT, Reg.MESH_RANK_MISS_CNT] ++ each 32 Reg.ING_WAKE_NACK_CNT ++ each 16 Reg.IBL_DROP_CNT → t.rd
        reg = s.rd reg)) ∧
  -- MC_TIMEOUT: a copy that waits to be sent again is abandoned too (R346)
  (∀ (s : State) (o : Fin 136) (m : McSt) (y : SendSt) (i : Nat), s.canonical = true → s.down = false → (s.owner o).mc =
    some m → s.fget (Reg.Q_MC_CFG_TIMEOUT o) ≠ 0 → m.start + 1000 * s.fget (Reg.Q_MC_CFG_TIMEOUT o) ≤ s.time → (s.owner
    o).busy = [y] → y.entry = some i → i < 32 → y.retryAt ≠ none → m.todo = [] → (s.owner o).stalled = [] →
    ∃ t, exec (.mcTimeout o) s = .next t ∧
      bit (t.rd (Reg.Q_MC_FAIL o)).toNat i = true ∧
      (t.owner o).busy = [] ∧
      (t.rd (Reg.Q_TX_FAIL_CNT o)).toNat = satCount 32 (s.rd (Reg.Q_TX_FAIL_CNT o)).toNat 1 ∧
      t.mem = s.mem ∧
      (∀ reg : Nat, reg ∉ [Reg.Q_MC_DONE o, Reg.Q_MC_FAIL o, Reg.Q_STATUS o, Reg.Q_TX_FAIL_CNT o, Reg.Q_TX_DISCARD_CNT o,
        Reg.MESH_NOROUTE_CNT, Reg.MESH_RANK_MISS_CNT] ++ each 32 Reg.ING_WAKE_NACK_CNT ++ each 16 Reg.IBL_DROP_CNT → t.rd
        reg = s.rd reg)) ∧
  -- MC_TIMEOUT: no multicast is past its TIMEOUT (R346)
  (∀ (s : State) (o : Fin 136), s.canonical = true → s.down = false → (s.owner o).mc.all (fun m => decide (s.fget
    (Reg.Q_MC_CFG_TIMEOUT o) = 0 ∨ s.time < m.start + 1000 * s.fget (Reg.Q_MC_CFG_TIMEOUT o))) = true →
    ∃ t, exec (.mcTimeout o) s = .next t ∧
      t = s ∧
      t.mem = s.mem) ∧
  -- QUEUE_POP (R336, R338)
  (∀ (s : State) (o : Fin 136) (q : Fin 16) (ecc : Ecc) (m : QMsg) (r : List QMsg) (d : List Byte) (p : Bool),
    s.canonical = true → s.down = false → s.ownerRuns o = true → (s.queue o q).fifo = m :: r → m.done = true →
    m.cells.getD m.popped ([], false) = (d, p) →
    ∃ t, exec (.queuePop o q ecc) s = .next t ∧
      .readValue (m.tag m.popped p) ∈ t.sent ∧
      ((s.queue o q).want = [] → (s.queue o q).notes = [] → (s.queue o q).ring = [] → (t.queue o q).fifo = (if m.popped +
        1 = m.n then r else { m with popped := m.popped + 1 } :: r)) ∧
      t.fget (Reg.Q_CFG_RING_LEN o q) = s.fget (Reg.Q_CFG_RING_LEN o q) ∧
      t.mem = s.mem ∧
      (∀ reg : Nat, reg ∉ each 64 (Reg.Q_COMB o) ++ each 64 (Reg.Q_COMB_CNT o) ++ each 16 (Reg.Q_STAT o) ++ memorySide →
        t.rd reg = s.rd reg)) ∧
  -- QUEUE_POP: an empty queue reads zero (R336) (R336, R338)
  (∀ (s : State) (o : Fin 136) (q : Fin 16) (ecc : Ecc), s.canonical = true → s.down = false → s.ownerRuns o = true →
    s.qHead o q = none →
    ∃ t, exec (.queuePop o q ecc) s = .next t ∧
      t.sent = .readValue 0 :: s.sent ∧
      t.owners = s.owners ∧
      t.mem = s.mem ∧
      (∀ reg : Nat, reg ∉ each 16 (Reg.Q_STAT o) → t.rd reg = s.rd reg)) ∧
  -- QUEUE_POP: a core that does not run (R336, R338)
  (∀ (s : State) (o : Fin 136) (q : Fin 16) (ecc : Ecc), s.canonical = true → s.down = false → s.ownerRuns o = false →
    ∃ t, exec (.queuePop o q ecc) s = .next t ∧
      t = s ∧
      t.mem = s.mem) ∧
  -- QUEUE_OPEN (R339, R364)
  (∀ (s : State) (m : Master) (o : Fin 136) (q : Fin 16) (ie : Bool) (ringLen : BitVec 20), s.canonical = true → s.admits
    m (Reg.Q_CFG o q) = true → s.ownerThere o = true → s.fbit (Reg.Q_CFG_OPEN o q) = false →
    ∃ t, exec (.queueOpen m o q ie ringLen) s = .next t ∧
      t.fbit (Reg.Q_CFG_OPEN o q) = s.ringOk o q ringLen.toNat ∧
      t.fbit (Reg.Q_CFG_IE o q) = ie ∧
      t.fget (Reg.Q_CFG_RING_LEN o q) = ringLen.toNat ∧
      (s.ringOk o q ringLen.toNat = true → t.queue o q = QueueSt.init ∧ t.fget (Reg.Q_STAT_FIFO o q) = 0) ∧
      (s.ringOk o q ringLen.toNat = false → t.owners = s.owners ∧ (ignoredRef (Reg.Q_CFG o q)).all (fun r => t.fbit r) =
        true) ∧
      t.mem = s.mem ∧
      (∀ reg : Nat, reg ∉ [Reg.Q_CFG o q, Reg.Q_STAT o q] ++ each 128 Reg.SEQ_STATUS ++ accessRegs (Reg.Q_CFG o q) → t.rd
        reg = s.rd reg)) ∧
  -- QUEUE_OPEN: an open queue: IE takes the value, RING_LEN does not (R364) (R339, R364)
  (∀ (s : State) (m : Master) (o : Fin 136) (q : Fin 16) (ie : Bool) (ringLen : BitVec 20), s.canonical = true → s.admits
    m (Reg.Q_CFG o q) = true → s.ownerThere o = true → s.fbit (Reg.Q_CFG_OPEN o q) = true →
    ∃ t, exec (.queueOpen m o q ie ringLen) s = .next t ∧
      t.fbit (Reg.Q_CFG_OPEN o q) = true ∧
      t.fbit (Reg.Q_CFG_IE o q) = ie ∧
      t.fget (Reg.Q_CFG_RING_LEN o q) = s.fget (Reg.Q_CFG_RING_LEN o q) ∧
      (s.fget (Reg.Q_CFG_RING_LEN o q) ≠ ringLen.toNat → (ignoredRef (Reg.Q_CFG o q)).all (fun r => t.fbit r) = true) ∧
      t.owners = s.owners ∧
      t.mem = s.mem ∧
      (∀ reg : Nat, reg ∉ [Reg.Q_CFG o q, Reg.Q_STAT o q] ++ each 128 Reg.SEQ_STATUS ++ accessRegs (Reg.Q_CFG o q) → t.rd
        reg = s.rd reg)) ∧
  -- QUEUE_OPEN: no such owner, or slot (R339, R364)
  (∀ (s : State) (m : Master) (o : Fin 136) (q : Fin 16) (ie : Bool) (ringLen : BitVec 20), s.canonical = true → s.admits
    m (Reg.Q_CFG o q) = true → s.ownerThere o = false →
    ∃ t, exec (.queueOpen m o q ie ringLen) s = .next t ∧
      t.owners = s.owners ∧
      t.mem = s.mem ∧
      t.sent = s.sent ∧
      (∀ reg : Nat, reg ∉ accessRegs (Reg.Q_CFG o q) → t.rd reg = s.rd reg)) ∧
  -- QUEUE_CLOSE (R343)
  (∀ (s : State) (m : Master) (o : Fin 136) (q : Fin 16) (i : Fin 32), s.canonical = true → s.admits m (Reg.Q_CFG o q) =
    true → s.ownerThere o = true → s.fbit (Reg.Q_CFG_OPEN o q) = true →
    ∃ t, exec (.queueClose m o q) s = .next t ∧
      t.fbit (Reg.Q_CFG_OPEN o q) = false ∧
      t.queue o q = QueueSt.init ∧
      (t.rd (Reg.Q_LOST_CNT o)).toNat = satCount 32 (s.rd (Reg.Q_LOST_CNT o)).toNat ((((s.queue o q).fifo ++ (s.queue o
        q).ring.filterMap Prod.snd).filter QMsg.done).foldl (fun a m => a + (m.n - m.popped)) 0) ∧
      (t.owner o).refused = (s.owner o).refused ++ (((s.queue o q).fifo ++ (s.queue o q).ring.filterMap Prod.snd).filter
        fun m => !m.done).map (fun m => ⟨q, m.src, m.alt, m.n, 2⟩) ∧
      (t.rd (Reg.Q_NOTICE_DROP_CNT o)).toNat = satCount 32 (s.rd (Reg.Q_NOTICE_DROP_CNT o)).toNat (s.queue o
        q).notes.length ∧
      (i.val < slotsOf o → s.fget (Reg.Q_COMB_QUEUE o i) = q → t.fbit (Reg.Q_COMB_ARMED o i) = false) ∧
      (s.fget (Reg.Q_COMB_QUEUE o i) ≠ q → t.fbit (Reg.Q_COMB_ARMED o i) = s.fbit (Reg.Q_COMB_ARMED o i)) ∧
      t.fbit (Reg.Q_CFG_IE o q) = s.fbit (Reg.Q_CFG_IE o q) ∧
      t.mem = s.mem ∧
      (∀ reg : Nat, reg ∉ [Reg.Q_CFG o q, Reg.Q_LOST_CNT o, Reg.Q_NOTICE_DROP_CNT o] ++ each 64 (Reg.Q_COMB o) ++ each 64
        (Reg.Q_COMB_CNT o) ++ each 16 (Reg.Q_STAT o) ++ each 128 Reg.SEQ_STATUS ++ accessRegs (Reg.Q_CFG o q) → t.rd reg
        = s.rd reg)) ∧
  -- QUEUE_CLOSE: the queue is closed already (R343)
  (∀ (s : State) (m : Master) (o : Fin 136) (q : Fin 16), s.canonical = true → s.admits m (Reg.Q_CFG o q) = true →
    s.ownerThere o = true → s.fbit (Reg.Q_CFG_OPEN o q) = false →
    ∃ t, exec (.queueClose m o q) s = .next t ∧
      t.fbit (Reg.Q_CFG_OPEN o q) = false ∧
      t.owners = s.owners ∧
      t.rd (Reg.Q_LOST_CNT o) = s.rd (Reg.Q_LOST_CNT o) ∧
      t.mem = s.mem ∧
      t.sent = s.sent ∧
      (∀ reg : Nat, reg ∉ [Reg.Q_CFG o q, Reg.Q_LOST_CNT o, Reg.Q_NOTICE_DROP_CNT o] ++ each 64 (Reg.Q_COMB o) ++ each 64
        (Reg.Q_COMB_CNT o) ++ each 16 (Reg.Q_STAT o) ++ each 128 Reg.SEQ_STATUS ++ accessRegs (Reg.Q_CFG o q) → t.rd reg
        = s.rd reg)) ∧
  -- QUEUE_CLOSE: no such owner, or slot (R343)
  (∀ (s : State) (m : Master) (o : Fin 136) (q : Fin 16), s.canonical = true → s.admits m (Reg.Q_CFG o q) = true →
    s.ownerThere o = false →
    ∃ t, exec (.queueClose m o q) s = .next t ∧
      t.owners = s.owners ∧
      t.mem = s.mem ∧
      t.sent = s.sent ∧
      (∀ reg : Nat, reg ∉ accessRegs (Reg.Q_CFG o q) → t.rd reg = s.rd reg))

/-- Queues: combine slots complete. A combine slot armed and disarmed, contributions sent and taken in.
(10_queues_and_sync_objects.md.) -/
def Obligations.CombineCommandsComplete : Prop :=
  -- COMB_ARM (R347, R366)
  (∀ (s : State) (m : Master) (o : Fin 136) (i : Fin 64) (auto : Bool) (mode : BitVec 2) (queue : BitVec 4) (expect :
    BitVec 16) (q : Nat), s.canonical = true → s.admits m (Reg.Q_COMB o i) = true → s.ownerThere o = true → i.val <
    slotsOf o → s.fbit (Reg.Q_COMB_ARMED o i) = false → q = queue.toNat →
    ∃ t, exec (.combArm m o i auto mode queue expect) s = .next t ∧
      t.fbit (Reg.Q_COMB_AUTO o i) = auto ∧
      t.fget (Reg.Q_COMB_MODE o i) = mode.toNat ∧
      t.fget (Reg.Q_COMB_QUEUE o i) = queue.toNat ∧
      t.fget (Reg.Q_COMB_EXPECT o i) = expect.toNat ∧
      (s.qOpen o q = false ∨ 32 ≤ (s.queue o q).resv → t.fbit (Reg.Q_COMB_ARMED o i) = false ∧ (ignoredRef (Reg.Q_COMB o
        i)).all (fun r => t.fbit r) = true) ∧
      (s.qOpen o q = true → (s.queue o q).resv < 32 → 0 < (s.queue o q).free → (s.queue o q).want = [] → (s.queue o
        q).notes = [] → (s.queue o q).ring = [] → t.fbit (Reg.Q_COMB_ARMED o i) = true ∧ t.comb o i =
        { CombSt.init with resv := true } ∧ (t.queue o q).resv = (s.queue o q).resv + 1 ∧ t.fget (Reg.Q_COMB_CNT_COUNT o
        i) = 0) ∧
      (s.qOpen o q = true → (s.queue o q).resv < 32 → (s.queue o q).free = 0 → (s.queue o q).want = [] → (s.queue o
        q).notes = [] → (s.queue o q).ring = [] → t.fbit (Reg.Q_COMB_ARMED o i) = true ∧ t.comb o i = CombSt.init ∧
        (t.queue o q).want = [i.val] ∧ t.fget (Reg.Q_COMB_CNT_COUNT o i) = 0) ∧
      t.mem = s.mem ∧
      (∀ reg : Nat, reg ∉ each 64 (Reg.Q_COMB o) ++ each 64 (Reg.Q_COMB_CNT o) ++ each 16 (Reg.Q_STAT o) ++ memorySide ++
        accessRegs (Reg.Q_COMB o i) → t.rd reg = s.rd reg)) ∧
  -- COMB_ARM: an armed slot: its fields keep their values and it starts anew (R347, R366) (R347, R366)
  (∀ (s : State) (m : Master) (o : Fin 136) (i : Fin 64) (auto : Bool) (mode : BitVec 2) (queue : BitVec 4) (expect :
    BitVec 16) (q : Nat), s.canonical = true → s.admits m (Reg.Q_COMB o i) = true → s.ownerThere o = true → i.val <
    slotsOf o → s.fbit (Reg.Q_COMB_ARMED o i) = true → q = s.fget (Reg.Q_COMB_QUEUE o i) →
    ∃ t, exec (.combArm m o i auto mode queue expect) s = .next t ∧
      t.fbit (Reg.Q_COMB_ARMED o i) = true ∧
      t.fget (Reg.Q_COMB_MODE o i) = s.fget (Reg.Q_COMB_MODE o i) ∧
      t.fget (Reg.Q_COMB_QUEUE o i) = q ∧
      t.fget (Reg.Q_COMB_EXPECT o i) = s.fget (Reg.Q_COMB_EXPECT o i) ∧
      t.fbit (Reg.Q_COMB_AUTO o i) = s.fbit (Reg.Q_COMB_AUTO o i) ∧
      (auto ≠ s.fbit (Reg.Q_COMB_AUTO o i) ∨ mode.toNat ≠ s.fget (Reg.Q_COMB_MODE o i) ∨ queue.toNat ≠ q ∨ expect.toNat ≠
        s.fget (Reg.Q_COMB_EXPECT o i) ∨ s.qOpen o q = false ∨ 32 ≤ (s.queue o q).resv → (ignoredRef (Reg.Q_COMB o
        i)).all (fun r => t.fbit r) = true) ∧
      (s.qOpen o q = true → (s.queue o q).resv < 32 → (s.comb o i).resv = true → 0 < (s.queue o q).resv → (s.queue o
        q).held + (s.queue o q).resv ≤ 64 → (s.queue o q).want = [] → (s.queue o q).notes = [] → (s.queue o q).ring = []
        → t.comb o i = { CombSt.init with resv := true } ∧ (t.queue o q).resv = (s.queue o q).resv) ∧
      (s.qOpen o q = false ∨ 32 ≤ (s.queue o q).resv → (s.queue o q).want = [] → (s.queue o q).notes = [] → (s.queue o
        q).ring = [] → t.comb o i = s.comb o i) ∧
      t.mem = s.mem ∧
      (∀ reg : Nat, reg ∉ each 64 (Reg.Q_COMB o) ++ each 64 (Reg.Q_COMB_CNT o) ++ each 16 (Reg.Q_STAT o) ++ memorySide ++
        accessRegs (Reg.Q_COMB o i) → t.rd reg = s.rd reg)) ∧
  -- COMB_ARM: no such owner, or slot (R347, R366)
  (∀ (s : State) (m : Master) (o : Fin 136) (i : Fin 64) (auto : Bool) (mode : BitVec 2) (queue : BitVec 4) (expect :
    BitVec 16), s.canonical = true → s.admits m (Reg.Q_COMB o i) = true → s.ownerThere o = false ∨ slotsOf o ≤ i.val →
    ∃ t, exec (.combArm m o i auto mode queue expect) s = .next t ∧
      t.owners = s.owners ∧
      t.mem = s.mem ∧
      t.sent = s.sent ∧
      (∀ reg : Nat, reg ∉ accessRegs (Reg.Q_COMB o i) → t.rd reg = s.rd reg)) ∧
  -- COMB_DISARM (R347)
  (∀ (s : State) (m : Master) (o : Fin 136) (i : Fin 64) (q : Nat), s.canonical = true → s.admits m (Reg.Q_COMB o i) =
    true → s.ownerThere o = true → i.val < slotsOf o → s.fbit (Reg.Q_COMB_ARMED o i) = true → q = s.fget
    (Reg.Q_COMB_QUEUE o i) →
    ∃ t, exec (.combDisarm m o i) s = .next t ∧
      t.fbit (Reg.Q_COMB_ARMED o i) = false ∧
      t.comb o i = CombSt.init ∧
      ((s.queue o q).want = [] → (s.queue o q).notes = [] → (s.queue o q).ring = [] → (t.queue o q).resv = (s.queue o
        q).resv - (if (s.comb o i).resv then 1 else 0)) ∧
      t.fget (Reg.Q_COMB_CNT_COUNT o i) = 0 ∧
      t.fget (Reg.Q_COMB_QUEUE o i) = q ∧
      t.mem = s.mem ∧
      (∀ reg : Nat, reg ∉ each 64 (Reg.Q_COMB o) ++ each 64 (Reg.Q_COMB_CNT o) ++ each 16 (Reg.Q_STAT o) ++ memorySide ++
        accessRegs (Reg.Q_COMB o i) → t.rd reg = s.rd reg)) ∧
  -- COMB_DISARM: the slot is not armed (R347)
  (∀ (s : State) (m : Master) (o : Fin 136) (i : Fin 64) (q : Nat), s.canonical = true → s.admits m (Reg.Q_COMB o i) =
    true → s.ownerThere o = true → i.val < slotsOf o → s.fbit (Reg.Q_COMB_ARMED o i) = false → q = s.fget
    (Reg.Q_COMB_QUEUE o i) →
    ∃ t, exec (.combDisarm m o i) s = .next t ∧
      t.fbit (Reg.Q_COMB_ARMED o i) = false ∧
      ((s.queue o q).want = [] → (s.queue o q).notes = [] → (s.queue o q).ring = [] → t.owners = s.owners) ∧
      t.mem = s.mem ∧
      (∀ reg : Nat, reg ∉ each 64 (Reg.Q_COMB o) ++ each 64 (Reg.Q_COMB_CNT o) ++ each 16 (Reg.Q_STAT o) ++ memorySide ++
        accessRegs (Reg.Q_COMB o i) → t.rd reg = s.rd reg)) ∧
  -- COMB_DISARM: no such owner, or slot (R347)
  (∀ (s : State) (m : Master) (o : Fin 136) (i : Fin 64), s.canonical = true → s.admits m (Reg.Q_COMB o i) = true →
    s.ownerThere o = false ∨ slotsOf o ≤ i.val →
    ∃ t, exec (.combDisarm m o i) s = .next t ∧
      t.owners = s.owners ∧
      t.mem = s.mem ∧
      t.sent = s.sent ∧
      (∀ reg : Nat, reg ∉ accessRegs (Reg.Q_COMB o i) → t.rd reg = s.rd reg)) ∧
  -- Q_CLADD (R348)
  (∀ (s : State) (o : Fin 136) (stores : List (Fin 8 × List Byte)) (slot : BitVec 6) (qn : BitVec 16) (c : Nat),
    s.canonical = true → s.down = false → s.ownerRuns o = true → (if s.ranks then s.unrank qn.toNat else some (ownerCoord
    (qnDev qn.toNat) (qnOwner qn.toNat))) = some c →
    ∃ t, exec (.qCladd o stores slot qn) s = .next t ∧
      (t.owner o).tx = (txStores (s.owner o).tx stores) ∧
      (coDev c = s.devid → t.sent = .cell 27 c (ownerCoord s.devid o) slot.toNat false [((((txStores (s.owner o).tx
        stores).getD 0 []).take 32 ++ List.replicate 32 0).take 32) ++ leBytes 2 1] :: s.sent ∧ t.csr = s.csr) ∧
      (coDev c ≠ s.devid → s.routeFor (coDev c) (coHalf c) = false → t.sent = s.sent ∧ (t.rd Reg.MESH_NOROUTE_CNT).toNat
        = satCount 32 (s.rd Reg.MESH_NOROUTE_CNT).toNat 1) ∧
      t.mem = s.mem ∧
      (∀ reg : Nat, reg ∉ [Reg.MESH_NOROUTE_CNT, Reg.MESH_RANK_MISS_CNT] ++ each 16 Reg.IBL_DROP_CNT → t.rd reg = s.rd
        reg)) ∧
  -- Q_CLADD: a rank without a valid entry (R307) (R348)
  (∀ (s : State) (o : Fin 136) (stores : List (Fin 8 × List Byte)) (slot : BitVec 6) (qn : BitVec 16), s.canonical = true
    → s.down = false → s.ownerRuns o = true → s.ranks = true → s.unrank qn.toNat = none →
    ∃ t, exec (.qCladd o stores slot qn) s = .next t ∧
      (t.owner o).tx = (txStores (s.owner o).tx stores) ∧
      (t.rd Reg.MESH_RANK_MISS_CNT).toNat = satCount 32 (s.rd Reg.MESH_RANK_MISS_CNT).toNat 1 ∧
      t.mem = s.mem ∧
      t.sent = s.sent ∧
      (∀ reg : Nat, reg ∉ [Reg.MESH_RANK_MISS_CNT] → t.rd reg = s.rd reg)) ∧
  -- Q_CLADD: a core that does not run (R348)
  (∀ (s : State) (o : Fin 136) (stores : List (Fin 8 × List Byte)) (slot : BitVec 6) (qn : BitVec 16), s.canonical = true
    → s.down = false → s.ownerRuns o = false →
    ∃ t, exec (.qCladd o stores slot qn) s = .next t ∧
      t = s ∧
      t.mem = s.mem) ∧
  -- CL_ADD (R349)
  (∀ (s : State) (dst : BitVec 22) (slot : BitVec 8) (data : List Byte) (o j q : Nat) (d : List Byte), s.canonical = true
    → s.down = false → s.dstOwner dst.toNat = o → s.ownerThere o = true → j = slot.toNat → q = s.fget (Reg.Q_COMB_QUEUE o
    j) → d = (data ++ List.replicate 32 0).take 32 →
    ∃ t, exec (.clAdd dst slot data) s = .next t ∧
      (slotsOf o ≤ j ∨ s.fbit (Reg.Q_COMB_ARMED o j) = false → (t.rd (Reg.Q_CL_DROP_CNT o)).toNat = satCount 32 (s.rd
        (Reg.Q_CL_DROP_CNT o)).toNat 1 ∧ t.owners = s.owners ∧ t.sent = s.sent) ∧
      (j < slotsOf o → s.fbit (Reg.Q_COMB_ARMED o j) = true → (s.comb o j).count + 1 < (max 1 (s.fget (Reg.Q_COMB_EXPECT
        o j))) ∨ (s.comb o j).resv = false → (t.comb o j).count = (s.comb o j).count + 1 ∧ (t.comb o j).acc = (addLanes
        (s.fget (Reg.Q_COMB_MODE o j)) (s.comb o j).acc d) ∧ t.fget (Reg.Q_COMB_CNT_COUNT o j) = min 65535 ((s.comb o
        j).count + 1) ∧ t.fbit (Reg.Q_COMB_ARMED o j) = true ∧ t.sent = s.sent) ∧
      (j < slotsOf o → s.fbit (Reg.Q_COMB_ARMED o j) = true → (max 1 (s.fget (Reg.Q_COMB_EXPECT o j))) ≤ (s.comb o
        j).count + 1 → (s.comb o j).resv = true → t.fget (Reg.Q_COMB_CNT_OVER o j) = min 255 ((s.comb o j).count + 1 -
        (max 1 (s.fget (Reg.Q_COMB_EXPECT o j)))) ∧ t.fget (Reg.Q_COMB_CNT_ROUNDS o j) = (s.fget (Reg.Q_COMB_CNT_ROUNDS o
        j) + 1) % 256 ∧ t.fbit (Reg.Q_COMB_ARMED o j) = s.fbit (Reg.Q_COMB_AUTO o j)) ∧
      (j < slotsOf o ∧ s.fbit (Reg.Q_COMB_ARMED o j) = true ∧ (max 1 (s.fget (Reg.Q_COMB_EXPECT o j))) ≤ (s.comb o
        j).count + 1 ∧ (s.comb o j).resv = true ∧ s.fbit (Reg.Q_COMB_PAR_VALID o j) = false → (s.queue o q).want = [] ∧
        (s.queue o q).notes = [] ∧ (s.queue o q).ring = [] → (t.queue o q).fifo = (s.queue o q).fifo ++ ([⟨1, 2,
        ownerCoord s.devid o, s.rankOf (ownerCoord s.devid o), j, false, [((addLanes (s.fget (Reg.Q_COMB_MODE o j))
        (s.comb o j).acc d) ++ leBytes 2 ((s.comb o j).count + 1) ++ List.replicate 6 0, false)], 0, true⟩] : List QMsg))
        ∧
      (j < slotsOf o → s.fbit (Reg.Q_COMB_ARMED o j) = true → (max 1 (s.fget (Reg.Q_COMB_EXPECT o j))) ≤ (s.comb o
        j).count + 1 → (s.comb o j).resv = true → s.fbit (Reg.Q_COMB_PAR_VALID o j) = true → s.ranks = false → qnDev
        (s.fget (Reg.Q_COMB_PAR_PQN o j)) = s.devid → .cell 28 (ownerCoord s.devid (qnOwner (s.fget (Reg.Q_COMB_PAR_PQN o
        j)))) (ownerCoord s.devid o) (s.fget (Reg.Q_COMB_PAR_PSLOT o j)) false [((addLanes (s.fget (Reg.Q_COMB_MODE o j))
        (s.comb o j).acc d) ++ List.replicate 32 0).take 32 ++ leBytes 2 ((s.comb o j).count + 1)] ∈ t.sent) ∧
      t.mem = s.mem ∧
      (∀ reg : Nat, reg ∉ [Reg.Q_CL_DROP_CNT o, Reg.MESH_NOROUTE_CNT, Reg.MESH_RANK_MISS_CNT] ++ each 64 (Reg.Q_COMB o)
        ++ each 64 (Reg.Q_COMB_CNT o) ++ each 16 (Reg.Q_STAT o) ++ each 16 Reg.IBL_DROP_CNT ++ each 128 Reg.SEQ_STATUS ++
        memorySide → t.rd reg = s.rd reg)) ∧
  -- CL_ADD: DST names no owner that is there (R309) (R349)
  (∀ (s : State) (dst : BitVec 22) (slot : BitVec 8) (data : List Byte) (o : Nat), s.canonical = true → s.down = false →
    s.dstOwner dst.toNat = o → s.ownerThere o = false →
    ∃ t, exec (.clAdd dst slot data) s = .next t ∧
      (t.rd Reg.MESH_BAD_DST_CNT).toNat = satCount 32 (s.rd Reg.MESH_BAD_DST_CNT).toNat 1 ∧
      t.owners = s.owners ∧
      t.mem = s.mem ∧
      t.sent = s.sent ∧
      (∀ reg : Nat, reg ∉ [Reg.MESH_BAD_DST_CNT] → t.rd reg = s.rd reg)) ∧
  -- CL_SUM (R350)
  (∀ (s : State) (dst : BitVec 22) (slot : BitVec 8) (count : BitVec 16) (data : List Byte) (o j q : Nat) (d : List
    Byte), s.canonical = true → s.down = false → s.dstOwner dst.toNat = o → s.ownerThere o = true → j = slot.toNat → q =
    s.fget (Reg.Q_COMB_QUEUE o j) → d = (data ++ List.replicate 32 0).take 32 →
    ∃ t, exec (.clSum dst slot count data) s = .next t ∧
      (slotsOf o ≤ j ∨ s.fbit (Reg.Q_COMB_ARMED o j) = false → (t.rd (Reg.Q_CL_DROP_CNT o)).toNat = satCount 32 (s.rd
        (Reg.Q_CL_DROP_CNT o)).toNat 1 ∧ t.owners = s.owners ∧ t.sent = s.sent) ∧
      (j < slotsOf o → s.fbit (Reg.Q_COMB_ARMED o j) = true → (s.comb o j).count + count.toNat < (max 1 (s.fget
        (Reg.Q_COMB_EXPECT o j))) ∨ (s.comb o j).resv = false → (t.comb o j).count = (s.comb o j).count + count.toNat ∧
        (t.comb o j).acc = (addLanes (s.fget (Reg.Q_COMB_MODE o j)) (s.comb o j).acc d) ∧ t.fget (Reg.Q_COMB_CNT_COUNT o
        j) = min 65535 ((s.comb o j).count + count.toNat) ∧ t.fbit (Reg.Q_COMB_ARMED o j) = true ∧ t.sent = s.sent) ∧
      (j < slotsOf o → s.fbit (Reg.Q_COMB_ARMED o j) = true → (max 1 (s.fget (Reg.Q_COMB_EXPECT o j))) ≤ (s.comb o
        j).count + count.toNat → (s.comb o j).resv = true → t.fget (Reg.Q_COMB_CNT_OVER o j) = min 255 ((s.comb o
        j).count + count.toNat - (max 1 (s.fget (Reg.Q_COMB_EXPECT o j)))) ∧ t.fget (Reg.Q_COMB_CNT_ROUNDS o j) = (s.fget
        (Reg.Q_COMB_CNT_ROUNDS o j) + 1) % 256 ∧ t.fbit (Reg.Q_COMB_ARMED o j) = s.fbit (Reg.Q_COMB_AUTO o j)) ∧
      (j < slotsOf o ∧ s.fbit (Reg.Q_COMB_ARMED o j) = true ∧ (max 1 (s.fget (Reg.Q_COMB_EXPECT o j))) ≤ (s.comb o
        j).count + count.toNat ∧ (s.comb o j).resv = true ∧ s.fbit (Reg.Q_COMB_PAR_VALID o j) = false → (s.queue o
        q).want = [] ∧ (s.queue o q).notes = [] ∧ (s.queue o q).ring = [] → (t.queue o q).fifo = (s.queue o q).fifo ++
        ([⟨1, 2, ownerCoord s.devid o, s.rankOf (ownerCoord s.devid o), j, false, [((addLanes (s.fget (Reg.Q_COMB_MODE o
        j)) (s.comb o j).acc d) ++ leBytes 2 ((s.comb o j).count + count.toNat) ++ List.replicate 6 0, false)], 0, true⟩]
        : List QMsg)) ∧
      (j < slotsOf o → s.fbit (Reg.Q_COMB_ARMED o j) = true → (max 1 (s.fget (Reg.Q_COMB_EXPECT o j))) ≤ (s.comb o
        j).count + count.toNat → (s.comb o j).resv = true → s.fbit (Reg.Q_COMB_PAR_VALID o j) = true → s.ranks = false →
        qnDev (s.fget (Reg.Q_COMB_PAR_PQN o j)) = s.devid → .cell 28 (ownerCoord s.devid (qnOwner (s.fget
        (Reg.Q_COMB_PAR_PQN o j)))) (ownerCoord s.devid o) (s.fget (Reg.Q_COMB_PAR_PSLOT o j)) false [((addLanes (s.fget
        (Reg.Q_COMB_MODE o j)) (s.comb o j).acc d) ++ List.replicate 32 0).take 32 ++ leBytes 2 ((s.comb o j).count +
        count.toNat)] ∈ t.sent) ∧
      t.mem = s.mem ∧
      (∀ reg : Nat, reg ∉ [Reg.Q_CL_DROP_CNT o, Reg.MESH_NOROUTE_CNT, Reg.MESH_RANK_MISS_CNT] ++ each 64 (Reg.Q_COMB o)
        ++ each 64 (Reg.Q_COMB_CNT o) ++ each 16 (Reg.Q_STAT o) ++ each 16 Reg.IBL_DROP_CNT ++ each 128 Reg.SEQ_STATUS ++
        memorySide → t.rd reg = s.rd reg)) ∧
  -- CL_SUM: DST names no owner that is there (R309) (R350)
  (∀ (s : State) (dst : BitVec 22) (slot : BitVec 8) (count : BitVec 16) (data : List Byte) (o : Nat), s.canonical = true
    → s.down = false → s.dstOwner dst.toNat = o → s.ownerThere o = false →
    ∃ t, exec (.clSum dst slot count data) s = .next t ∧
      (t.rd Reg.MESH_BAD_DST_CNT).toNat = satCount 32 (s.rd Reg.MESH_BAD_DST_CNT).toNat 1 ∧
      t.owners = s.owners ∧
      t.mem = s.mem ∧
      t.sent = s.sent ∧
      (∀ reg : Nat, reg ∉ [Reg.MESH_BAD_DST_CNT] → t.rd reg = s.rd reg))

/-- Sync objects: operations complete. SIGNAL, SET, the two WATCH forms and READ on a sync object with their answers.
(10_queues_and_sync_objects.md.) -/
def Obligations.SyncOperationsComplete : Prop :=
  -- SYNC_SIGNAL (R353, R354)
  (∀ (s : State) (dst : BitVec 22) (i : BitVec 8) (v : Word) (src : BitVec 30) (o j : Nat) (w : Fin 96), s.canonical =
    true → s.down = false → s.dstOwner dst.toNat = o → s.ownerThere o = true → (o < 128 → s.fbit Reg.INST_STATUS_COCOON =
    false) → j = i.toNat → j < objsOf o → s.fbit (Reg.SYNC_CTL_FROZEN o) = false → coDev src.toNat = s.devid →
    ∃ t, exec (.syncSignal dst i v src) s = .next t ∧
      (s.orphaned o j = false → t.syncVal o j = ((s.syncVal o j + v.toNat) % 2 ^ 32) ∧ t.sent.head? = some (.status
        src.toNat 0 0 0 (((s.syncVal o j + v.toNat) % 2 ^ 32))) ∧ t.fget (Reg.SYNC_STATE_LAST_SRC o j) = src.toNat % 2 ^
        22 ∧ t.fget (Reg.SYNC_LAST_LAST_OP o j) = 1) ∧
      (s.orphaned o j = false → w.val < watchesOf o → t.fbit (Reg.WATCH_W0_VALID o w) = (s.fbit (Reg.WATCH_W0_VALID o w)
        && !decide (s.fbit (Reg.WATCH_W0_VALID o w) = true ∧ s.fget (Reg.WATCH_W0_INDEX o w) = j ∧ watchHolds (s.fbit
        (Reg.WATCH_W0_EQ o w)) ((s.syncVal o j + v.toNat) % 2 ^ 32) (s.rd (Reg.WATCH_W1 o w)).toNat = true))) ∧
      (s.orphaned o j = false → w.val < watchesOf o → s.fbit (Reg.WATCH_W0_VALID o w) = true ∧ s.fget (Reg.WATCH_W0_INDEX
        o w) = j ∧ watchHolds (s.fbit (Reg.WATCH_W0_EQ o w)) ((s.syncVal o j + v.toNat) % 2 ^ 32) (s.rd (Reg.WATCH_W1 o
        w)).toNat = true → qnDev (s.fget (Reg.WATCH_W0_WQN o w)) = s.devid → .notice (s.fget (Reg.WATCH_W0_WQN o w))
        s.now (objOf o j) s.devid 0 ((s.syncVal o j + v.toNat) % 2 ^ 32) (s.rd (Reg.WATCH_W1 o w)).toNat (s.fbit
        (Reg.WATCH_W0_EQ o w)) (ownerCoord s.devid o) ∈ t.sent) ∧
      (s.orphaned o j = true → t.syncVal o j = s.syncVal o j ∧ t.sent = .status src.toNat 1 2 0 0 :: s.sent ∧ (t.rd
        (Reg.SYNC_NACK_CNT o)).toNat = satCount 32 (s.rd (Reg.SYNC_NACK_CNT o)).toNat 1) ∧
      t.mem = s.mem ∧
      (∀ reg : Nat, reg ∉ [Reg.SYNC_VAL o j, Reg.SYNC_LAST o j, Reg.SYNC_NACK_CNT o, Reg.MESH_NOROUTE_CNT] ++ each 102
        Reg.PWR_ISL_STAT ++ each 48 (Reg.SYNC_STATE o) ++ each 96 (Reg.WATCH_W0 o) ++ each 16 Reg.IBL_DROP_CNT → t.rd reg
        = s.rd reg)) ∧
  -- SYNC_SIGNAL: DST names no owner that is there (R309) (R353, R354)
  (∀ (s : State) (dst : BitVec 22) (i : BitVec 8) (v : Word) (src : BitVec 30) (o : Nat), s.canonical = true → s.down =
    false → s.dstOwner dst.toNat = o → s.ownerThere o = false → coDev src.toNat = s.devid →
    ∃ t, exec (.syncSignal dst i v src) s = .next t ∧
      (t.rd Reg.MESH_BAD_DST_CNT).toNat = satCount 32 (s.rd Reg.MESH_BAD_DST_CNT).toNat 1 ∧
      t.sent = .status src.toNat 3 0 0 0 :: s.sent ∧
      t.owners = s.owners ∧
      t.mem = s.mem ∧
      (∀ reg : Nat, reg ∉ [Reg.MESH_BAD_DST_CNT] → t.rd reg = s.rd reg)) ∧
  -- SYNC_SIGNAL: no such object, or a sequencer core during Cocoon: NO_TARGET (R354, R485) (R353, R354)
  (∀ (s : State) (dst : BitVec 22) (i : BitVec 8) (v : Word) (src : BitVec 30) (o : Nat), s.canonical = true → s.down =
    false → s.dstOwner dst.toNat = o → s.ownerThere o = true → (o < 128 ∧ s.fbit Reg.INST_STATUS_COCOON = true) ∨ objsOf
    o ≤ i.toNat → coDev src.toNat = s.devid →
    ∃ t, exec (.syncSignal dst i v src) s = .next t ∧
      t.sent = .status src.toNat 3 0 0 0 :: s.sent ∧
      t.owners = s.owners ∧
      t.mem = s.mem ∧
      (∀ reg : Nat, reg ∉ each 102 Reg.PWR_ISL_STAT → t.rd reg = s.rd reg)) ∧
  -- SYNC_SIGNAL: the unit is FROZEN: NACK FROZEN (R360) (R353, R354)
  (∀ (s : State) (dst : BitVec 22) (i : BitVec 8) (v : Word) (src : BitVec 30) (o : Nat), s.canonical = true → s.down =
    false → s.dstOwner dst.toNat = o → s.ownerThere o = true → (o < 128 → s.fbit Reg.INST_STATUS_COCOON = false) →
    i.toNat < objsOf o → s.fbit (Reg.SYNC_CTL_FROZEN o) = true → coDev src.toNat = s.devid →
    ∃ t, exec (.syncSignal dst i v src) s = .next t ∧
      t.sent = .status src.toNat 1 3 0 0 :: s.sent ∧
      t.owners = s.owners ∧
      t.mem = s.mem ∧
      (∀ reg : Nat, reg ∉ each 102 Reg.PWR_ISL_STAT → t.rd reg = s.rd reg)) ∧
  -- SYNC_SET (R353, R354)
  (∀ (s : State) (dst : BitVec 22) (i : BitVec 8) (v : Word) (src : BitVec 30) (o j : Nat) (w : Fin 96), s.canonical =
    true → s.down = false → s.dstOwner dst.toNat = o → s.ownerThere o = true → (o < 128 → s.fbit Reg.INST_STATUS_COCOON =
    false) → j = i.toNat → j < objsOf o → s.fbit (Reg.SYNC_CTL_FROZEN o) = false → coDev src.toNat = s.devid →
    ∃ t, exec (.syncSet dst i v src) s = .next t ∧
      (s.orphaned o j = false → t.syncVal o j = v.toNat ∧ t.sent.head? = some (.status src.toNat 0 0 0 (v.toNat)) ∧
        t.fget (Reg.SYNC_STATE_LAST_SRC o j) = src.toNat % 2 ^ 22 ∧ t.fget (Reg.SYNC_LAST_LAST_OP o j) = 2) ∧
      (s.orphaned o j = false → w.val < watchesOf o → t.fbit (Reg.WATCH_W0_VALID o w) = (s.fbit (Reg.WATCH_W0_VALID o w)
        && !decide (s.fbit (Reg.WATCH_W0_VALID o w) = true ∧ s.fget (Reg.WATCH_W0_INDEX o w) = j ∧ watchHolds (s.fbit
        (Reg.WATCH_W0_EQ o w)) v.toNat (s.rd (Reg.WATCH_W1 o w)).toNat = true))) ∧
      (s.orphaned o j = false → w.val < watchesOf o → s.fbit (Reg.WATCH_W0_VALID o w) = true ∧ s.fget (Reg.WATCH_W0_INDEX
        o w) = j ∧ watchHolds (s.fbit (Reg.WATCH_W0_EQ o w)) v.toNat (s.rd (Reg.WATCH_W1 o w)).toNat = true → qnDev
        (s.fget (Reg.WATCH_W0_WQN o w)) = s.devid → .notice (s.fget (Reg.WATCH_W0_WQN o w)) s.now (objOf o j) s.devid 0
        v.toNat (s.rd (Reg.WATCH_W1 o w)).toNat (s.fbit (Reg.WATCH_W0_EQ o w)) (ownerCoord s.devid o) ∈ t.sent) ∧
      (s.orphaned o j = true → t.syncVal o j = s.syncVal o j ∧ t.sent = .status src.toNat 1 2 0 0 :: s.sent ∧ (t.rd
        (Reg.SYNC_NACK_CNT o)).toNat = satCount 32 (s.rd (Reg.SYNC_NACK_CNT o)).toNat 1) ∧
      t.mem = s.mem ∧
      (∀ reg : Nat, reg ∉ [Reg.SYNC_VAL o j, Reg.SYNC_LAST o j, Reg.SYNC_NACK_CNT o, Reg.MESH_NOROUTE_CNT] ++ each 102
        Reg.PWR_ISL_STAT ++ each 48 (Reg.SYNC_STATE o) ++ each 96 (Reg.WATCH_W0 o) ++ each 16 Reg.IBL_DROP_CNT → t.rd reg
        = s.rd reg)) ∧
  -- SYNC_SET: DST names no owner that is there (R309) (R353, R354)
  (∀ (s : State) (dst : BitVec 22) (i : BitVec 8) (v : Word) (src : BitVec 30) (o : Nat), s.canonical = true → s.down =
    false → s.dstOwner dst.toNat = o → s.ownerThere o = false → coDev src.toNat = s.devid →
    ∃ t, exec (.syncSet dst i v src) s = .next t ∧
      (t.rd Reg.MESH_BAD_DST_CNT).toNat = satCount 32 (s.rd Reg.MESH_BAD_DST_CNT).toNat 1 ∧
      t.sent = .status src.toNat 3 0 0 0 :: s.sent ∧
      t.owners = s.owners ∧
      t.mem = s.mem ∧
      (∀ reg : Nat, reg ∉ [Reg.MESH_BAD_DST_CNT] → t.rd reg = s.rd reg)) ∧
  -- SYNC_SET: no such object, or a sequencer core during Cocoon: NO_TARGET (R354, R485) (R353, R354)
  (∀ (s : State) (dst : BitVec 22) (i : BitVec 8) (v : Word) (src : BitVec 30) (o : Nat), s.canonical = true → s.down =
    false → s.dstOwner dst.toNat = o → s.ownerThere o = true → (o < 128 ∧ s.fbit Reg.INST_STATUS_COCOON = true) ∨ objsOf
    o ≤ i.toNat → coDev src.toNat = s.devid →
    ∃ t, exec (.syncSet dst i v src) s = .next t ∧
      t.sent = .status src.toNat 3 0 0 0 :: s.sent ∧
      t.owners = s.owners ∧
      t.mem = s.mem ∧
      (∀ reg : Nat, reg ∉ each 102 Reg.PWR_ISL_STAT → t.rd reg = s.rd reg)) ∧
  -- SYNC_SET: the unit is FROZEN: NACK FROZEN (R360) (R353, R354)
  (∀ (s : State) (dst : BitVec 22) (i : BitVec 8) (v : Word) (src : BitVec 30) (o : Nat), s.canonical = true → s.down =
    false → s.dstOwner dst.toNat = o → s.ownerThere o = true → (o < 128 → s.fbit Reg.INST_STATUS_COCOON = false) →
    i.toNat < objsOf o → s.fbit (Reg.SYNC_CTL_FROZEN o) = true → coDev src.toNat = s.devid →
    ∃ t, exec (.syncSet dst i v src) s = .next t ∧
      t.sent = .status src.toNat 1 3 0 0 :: s.sent ∧
      t.owners = s.owners ∧
      t.mem = s.mem ∧
      (∀ reg : Nat, reg ∉ each 102 Reg.PWR_ISL_STAT → t.rd reg = s.rd reg)) ∧
  -- SYNC_WATCH_GE (R355)
  (∀ (s : State) (dst : BitVec 22) (i : BitVec 8) (v : Word) (wqn : BitVec 16) (src : BitVec 30) (o j w : Nat),
    s.canonical = true → s.down = false → s.dstOwner dst.toNat = o → s.ownerThere o = true → (o < 128 → s.fbit
    Reg.INST_STATUS_COCOON = false) → j = i.toNat → j < objsOf o → s.fbit (Reg.SYNC_CTL_FROZEN o) = false →
    ∃ t, exec (.syncWatchGe dst i v wqn src) s = .next t ∧
      (s.orphaned o j = false → (List.range (watchesOf o)).find? (fun k => !s.fbit (Reg.WATCH_W0_VALID o k)) = some w →
        watchHolds false (s.syncVal o j) v.toNat = true → t.fbit (Reg.WATCH_W0_VALID o w) = false) ∧
      (qnDev wqn.toNat = s.devid → s.orphaned o j = false → (List.range (watchesOf o)).find? (fun k => !s.fbit
        (Reg.WATCH_W0_VALID o k)) ≠ none → watchHolds false (s.syncVal o j) v.toNat = true → t.sent = .notice wqn.toNat
        s.now (objOf o j) s.devid 0 (s.syncVal o j) v.toNat false (ownerCoord s.devid o) :: s.sent) ∧
      (s.orphaned o j = false → (List.range (watchesOf o)).find? (fun k => !s.fbit (Reg.WATCH_W0_VALID o k)) = some w →
        watchHolds false (s.syncVal o j) v.toNat = false → t.sent = s.sent ∧ t.fbit (Reg.WATCH_W0_VALID o w) = true ∧
        t.fbit (Reg.WATCH_W0_EQ o w) = false ∧ t.fget (Reg.WATCH_W0_INDEX o w) = j ∧ t.fget (Reg.WATCH_W0_WQN o w) =
        wqn.toNat ∧ t.rd (Reg.WATCH_W1 o w) = v) ∧
      (qnDev wqn.toNat = s.devid → s.orphaned o j = false → (List.range (watchesOf o)).find? (fun k => !s.fbit
        (Reg.WATCH_W0_VALID o k)) = none → t.sent = .notice wqn.toNat s.now (objOf o j) s.devid 2 0 v.toNat false
        (ownerCoord s.devid o) :: s.sent) ∧
      (qnDev wqn.toNat = s.devid → s.orphaned o j = true → t.sent = .notice wqn.toNat s.now (objOf o j) s.devid 1 0
        v.toNat false (ownerCoord s.devid o) :: s.sent) ∧
      (s.orphaned o j = true → (t.rd (Reg.SYNC_ORPHAN_CNT o)).toNat = satCount 32 (s.rd (Reg.SYNC_ORPHAN_CNT o)).toNat 1)
        ∧
      t.syncVal o j = s.syncVal o j ∧
      t.mem = s.mem ∧
      (∀ reg : Nat, reg ∉ [Reg.SYNC_ORPHAN_CNT o, Reg.MESH_NOROUTE_CNT] ++ each 102 Reg.PWR_ISL_STAT ++ each 48
        (Reg.SYNC_STATE o) ++ each 96 (Reg.WATCH_W0 o) ++ each 96 (Reg.WATCH_W1 o) ++ each 16 Reg.IBL_DROP_CNT → t.rd reg
        = s.rd reg)) ∧
  -- SYNC_WATCH_GE: DST names no owner that is there (R309) (R355)
  (∀ (s : State) (dst : BitVec 22) (i : BitVec 8) (v : Word) (wqn : BitVec 16) (src : BitVec 30) (o : Nat), s.canonical =
    true → s.down = false → s.dstOwner dst.toNat = o → s.ownerThere o = false → coDev src.toNat = s.devid →
    ∃ t, exec (.syncWatchGe dst i v wqn src) s = .next t ∧
      (t.rd Reg.MESH_BAD_DST_CNT).toNat = satCount 32 (s.rd Reg.MESH_BAD_DST_CNT).toNat 1 ∧
      t.sent = .status src.toNat 3 0 0 0 :: s.sent ∧
      t.owners = s.owners ∧
      t.mem = s.mem ∧
      (∀ reg : Nat, reg ∉ [Reg.MESH_BAD_DST_CNT] → t.rd reg = s.rd reg)) ∧
  -- SYNC_WATCH_GE: no such object, or a sequencer core during Cocoon: NO_TARGET (R354, R485) (R355)
  (∀ (s : State) (dst : BitVec 22) (i : BitVec 8) (v : Word) (wqn : BitVec 16) (src : BitVec 30) (o : Nat), s.canonical =
    true → s.down = false → s.dstOwner dst.toNat = o → s.ownerThere o = true → (o < 128 ∧ s.fbit Reg.INST_STATUS_COCOON =
    true) ∨ objsOf o ≤ i.toNat → coDev src.toNat = s.devid →
    ∃ t, exec (.syncWatchGe dst i v wqn src) s = .next t ∧
      t.sent = .status src.toNat 3 0 0 0 :: s.sent ∧
      t.owners = s.owners ∧
      t.mem = s.mem ∧
      (∀ reg : Nat, reg ∉ each 102 Reg.PWR_ISL_STAT → t.rd reg = s.rd reg)) ∧
  -- SYNC_WATCH_GE: the unit is FROZEN: NACK FROZEN (R360) (R355)
  (∀ (s : State) (dst : BitVec 22) (i : BitVec 8) (v : Word) (wqn : BitVec 16) (src : BitVec 30) (o : Nat), s.canonical =
    true → s.down = false → s.dstOwner dst.toNat = o → s.ownerThere o = true → (o < 128 → s.fbit Reg.INST_STATUS_COCOON =
    false) → i.toNat < objsOf o → s.fbit (Reg.SYNC_CTL_FROZEN o) = true → coDev src.toNat = s.devid →
    ∃ t, exec (.syncWatchGe dst i v wqn src) s = .next t ∧
      t.sent = .status src.toNat 1 3 0 0 :: s.sent ∧
      t.owners = s.owners ∧
      t.mem = s.mem ∧
      (∀ reg : Nat, reg ∉ each 102 Reg.PWR_ISL_STAT → t.rd reg = s.rd reg)) ∧
  -- SYNC_WATCH_EQ (R355)
  (∀ (s : State) (dst : BitVec 22) (i : BitVec 8) (v : Word) (wqn : BitVec 16) (src : BitVec 30) (o j w : Nat),
    s.canonical = true → s.down = false → s.dstOwner dst.toNat = o → s.ownerThere o = true → (o < 128 → s.fbit
    Reg.INST_STATUS_COCOON = false) → j = i.toNat → j < objsOf o → s.fbit (Reg.SYNC_CTL_FROZEN o) = false →
    ∃ t, exec (.syncWatchEq dst i v wqn src) s = .next t ∧
      (s.orphaned o j = false → (List.range (watchesOf o)).find? (fun k => !s.fbit (Reg.WATCH_W0_VALID o k)) = some w →
        watchHolds true (s.syncVal o j) v.toNat = true → t.fbit (Reg.WATCH_W0_VALID o w) = false) ∧
      (qnDev wqn.toNat = s.devid → s.orphaned o j = false → (List.range (watchesOf o)).find? (fun k => !s.fbit
        (Reg.WATCH_W0_VALID o k)) ≠ none → watchHolds true (s.syncVal o j) v.toNat = true → t.sent = .notice wqn.toNat
        s.now (objOf o j) s.devid 0 (s.syncVal o j) v.toNat true (ownerCoord s.devid o) :: s.sent) ∧
      (s.orphaned o j = false → (List.range (watchesOf o)).find? (fun k => !s.fbit (Reg.WATCH_W0_VALID o k)) = some w →
        watchHolds true (s.syncVal o j) v.toNat = false → t.sent = s.sent ∧ t.fbit (Reg.WATCH_W0_VALID o w) = true ∧
        t.fbit (Reg.WATCH_W0_EQ o w) = true ∧ t.fget (Reg.WATCH_W0_INDEX o w) = j ∧ t.fget (Reg.WATCH_W0_WQN o w) =
        wqn.toNat ∧ t.rd (Reg.WATCH_W1 o w) = v) ∧
      (qnDev wqn.toNat = s.devid → s.orphaned o j = false → (List.range (watchesOf o)).find? (fun k => !s.fbit
        (Reg.WATCH_W0_VALID o k)) = none → t.sent = .notice wqn.toNat s.now (objOf o j) s.devid 2 0 v.toNat true
        (ownerCoord s.devid o) :: s.sent) ∧
      (qnDev wqn.toNat = s.devid → s.orphaned o j = true → t.sent = .notice wqn.toNat s.now (objOf o j) s.devid 1 0
        v.toNat true (ownerCoord s.devid o) :: s.sent) ∧
      (s.orphaned o j = true → (t.rd (Reg.SYNC_ORPHAN_CNT o)).toNat = satCount 32 (s.rd (Reg.SYNC_ORPHAN_CNT o)).toNat 1)
        ∧
      t.syncVal o j = s.syncVal o j ∧
      t.mem = s.mem ∧
      (∀ reg : Nat, reg ∉ [Reg.SYNC_ORPHAN_CNT o, Reg.MESH_NOROUTE_CNT] ++ each 102 Reg.PWR_ISL_STAT ++ each 48
        (Reg.SYNC_STATE o) ++ each 96 (Reg.WATCH_W0 o) ++ each 96 (Reg.WATCH_W1 o) ++ each 16 Reg.IBL_DROP_CNT → t.rd reg
        = s.rd reg)) ∧
  -- SYNC_WATCH_EQ: DST names no owner that is there (R309) (R355)
  (∀ (s : State) (dst : BitVec 22) (i : BitVec 8) (v : Word) (wqn : BitVec 16) (src : BitVec 30) (o : Nat), s.canonical =
    true → s.down = false → s.dstOwner dst.toNat = o → s.ownerThere o = false → coDev src.toNat = s.devid →
    ∃ t, exec (.syncWatchEq dst i v wqn src) s = .next t ∧
      (t.rd Reg.MESH_BAD_DST_CNT).toNat = satCount 32 (s.rd Reg.MESH_BAD_DST_CNT).toNat 1 ∧
      t.sent = .status src.toNat 3 0 0 0 :: s.sent ∧
      t.owners = s.owners ∧
      t.mem = s.mem ∧
      (∀ reg : Nat, reg ∉ [Reg.MESH_BAD_DST_CNT] → t.rd reg = s.rd reg)) ∧
  -- SYNC_WATCH_EQ: no such object, or a sequencer core during Cocoon: NO_TARGET (R354, R485) (R355)
  (∀ (s : State) (dst : BitVec 22) (i : BitVec 8) (v : Word) (wqn : BitVec 16) (src : BitVec 30) (o : Nat), s.canonical =
    true → s.down = false → s.dstOwner dst.toNat = o → s.ownerThere o = true → (o < 128 ∧ s.fbit Reg.INST_STATUS_COCOON =
    true) ∨ objsOf o ≤ i.toNat → coDev src.toNat = s.devid →
    ∃ t, exec (.syncWatchEq dst i v wqn src) s = .next t ∧
      t.sent = .status src.toNat 3 0 0 0 :: s.sent ∧
      t.owners = s.owners ∧
      t.mem = s.mem ∧
      (∀ reg : Nat, reg ∉ each 102 Reg.PWR_ISL_STAT → t.rd reg = s.rd reg)) ∧
  -- SYNC_WATCH_EQ: the unit is FROZEN: NACK FROZEN (R360) (R355)
  (∀ (s : State) (dst : BitVec 22) (i : BitVec 8) (v : Word) (wqn : BitVec 16) (src : BitVec 30) (o : Nat), s.canonical =
    true → s.down = false → s.dstOwner dst.toNat = o → s.ownerThere o = true → (o < 128 → s.fbit Reg.INST_STATUS_COCOON =
    false) → i.toNat < objsOf o → s.fbit (Reg.SYNC_CTL_FROZEN o) = true → coDev src.toNat = s.devid →
    ∃ t, exec (.syncWatchEq dst i v wqn src) s = .next t ∧
      t.sent = .status src.toNat 1 3 0 0 :: s.sent ∧
      t.owners = s.owners ∧
      t.mem = s.mem ∧
      (∀ reg : Nat, reg ∉ each 102 Reg.PWR_ISL_STAT → t.rd reg = s.rd reg)) ∧
  -- SYNC_READ (R353, R354)
  (∀ (s : State) (dst : BitVec 22) (i : BitVec 8) (src : BitVec 30) (o j : Nat), s.canonical = true → s.down = false →
    s.dstOwner dst.toNat = o → s.ownerThere o = true → (o < 128 → s.fbit Reg.INST_STATUS_COCOON = false) → j = i.toNat →
    j < objsOf o → s.fbit (Reg.SYNC_CTL_FROZEN o) = false → coDev src.toNat = s.devid →
    ∃ t, exec (.syncRead dst i src) s = .next t ∧
      (s.orphaned o j = false → t.sent = .status src.toNat 0 0 0 (s.syncVal o j) :: s.sent) ∧
      (s.orphaned o j = true → t.syncVal o j = s.syncVal o j ∧ t.sent = .status src.toNat 1 2 0 0 :: s.sent ∧ (t.rd
        (Reg.SYNC_NACK_CNT o)).toNat = satCount 32 (s.rd (Reg.SYNC_NACK_CNT o)).toNat 1) ∧
      t.syncVal o j = s.syncVal o j ∧
      t.mem = s.mem ∧
      (∀ reg : Nat, reg ∉ [Reg.SYNC_NACK_CNT o] ++ each 102 Reg.PWR_ISL_STAT → t.rd reg = s.rd reg)) ∧
  -- SYNC_READ: DST names no owner that is there (R309) (R353, R354)
  (∀ (s : State) (dst : BitVec 22) (i : BitVec 8) (src : BitVec 30) (o : Nat), s.canonical = true → s.down = false →
    s.dstOwner dst.toNat = o → s.ownerThere o = false → coDev src.toNat = s.devid →
    ∃ t, exec (.syncRead dst i src) s = .next t ∧
      (t.rd Reg.MESH_BAD_DST_CNT).toNat = satCount 32 (s.rd Reg.MESH_BAD_DST_CNT).toNat 1 ∧
      t.sent = .status src.toNat 3 0 0 0 :: s.sent ∧
      t.owners = s.owners ∧
      t.mem = s.mem ∧
      (∀ reg : Nat, reg ∉ [Reg.MESH_BAD_DST_CNT] → t.rd reg = s.rd reg)) ∧
  -- SYNC_READ: no such object, or a sequencer core during Cocoon: NO_TARGET (R354, R485) (R353, R354)
  (∀ (s : State) (dst : BitVec 22) (i : BitVec 8) (src : BitVec 30) (o : Nat), s.canonical = true → s.down = false →
    s.dstOwner dst.toNat = o → s.ownerThere o = true → (o < 128 ∧ s.fbit Reg.INST_STATUS_COCOON = true) ∨ objsOf o ≤
    i.toNat → coDev src.toNat = s.devid →
    ∃ t, exec (.syncRead dst i src) s = .next t ∧
      t.sent = .status src.toNat 3 0 0 0 :: s.sent ∧
      t.owners = s.owners ∧
      t.mem = s.mem ∧
      (∀ reg : Nat, reg ∉ each 102 Reg.PWR_ISL_STAT → t.rd reg = s.rd reg)) ∧
  -- SYNC_READ: the unit is FROZEN: NACK FROZEN (R360) (R353, R354)
  (∀ (s : State) (dst : BitVec 22) (i : BitVec 8) (src : BitVec 30) (o : Nat), s.canonical = true → s.down = false →
    s.dstOwner dst.toNat = o → s.ownerThere o = true → (o < 128 → s.fbit Reg.INST_STATUS_COCOON = false) → i.toNat <
    objsOf o → s.fbit (Reg.SYNC_CTL_FROZEN o) = true → coDev src.toNat = s.devid →
    ∃ t, exec (.syncRead dst i src) s = .next t ∧
      t.sent = .status src.toNat 1 3 0 0 :: s.sent ∧
      t.owners = s.owners ∧
      t.mem = s.mem ∧
      (∀ reg : Nat, reg ∉ each 102 Reg.PWR_ISL_STAT → t.rd reg = s.rd reg))

/-- Sync objects: notices, freeze and drain complete. A sync operation sent again, a notice at its owner, FREEZE and
UNFREEZE, and the drain instruction. (10_queues_and_sync_objects.md.) -/
def Obligations.SyncOwnerCommandsComplete : Prop :=
  -- SYNC_RESEND (R354)
  (∀ (s : State) (x : SyncOp), s.canonical = true → s.down = false → s.resends.find? (fun x => decide (x.due ≤ s.time)) =
    some x →
    ∃ t, exec .syncResend s = .next t ∧
      (x.dev = s.devid → t.sent = .sync x.dev x.obj x.op x.arg x.wqn (x.src + (s.iface x.src).tag * 2 ^ 22) :: s.sent ∧
        t.csr = s.csr) ∧
      t.resends.length + 1 = s.resends.length ∧
      (t.iface x.src).held = (s.iface x.src).held ∧
      t.mem = s.mem ∧
      (∀ reg : Nat, reg ∉ [Reg.MESH_NOROUTE_CNT] ++ each 16 Reg.IBL_DROP_CNT → t.rd reg = s.rd reg)) ∧
  -- SYNC_RESEND: no operation is due again (R354)
  (∀ (s : State), s.canonical = true → s.down = false → s.resends.find? (fun x => decide (x.due ≤ s.time)) = none →
    ∃ t, exec .syncResend s = .next t ∧
      t = s ∧
      t.mem = s.mem) ∧
  -- SYNC_NOTICE (R309, R356)
  (∀ (s : State) (dst : BitVec 22) (q : Fin 16) (time : BitVec 64) (obj : BitVec 16) (dev : BitVec 3) (kind : Fin 3)
    (value : Word) (thr : Word) (eq : Bool) (src : BitVec 22) (o : Nat), s.canonical = true → s.down = false → s.dstOwner
    dst.toNat = o → s.ownerThere o = true → (s.owner o).stalled = [] → (s.owner o).mc = none →
    ∃ t, exec (.syncNotice dst q time obj dev kind value thr eq src) s = .next t ∧
      (s.qOpen o q = true → (s.queue o q).want = [] ∧ (s.queue o q).notes = [] ∧ (s.queue o q).ring = [] → 0 < (s.queue o
        q).free → (t.queue o q).fifo = (s.queue o q).fifo ++ [⟨1, 1, src.toNat, s.rankOf src.toNat, 0, false,
        [(noticeBytes time.toNat obj.toNat dev.toNat kind value.toNat thr.toNat eq, false)], 0, true⟩]) ∧
      (s.qOpen o q = true → (s.queue o q).want = [] ∧ (s.queue o q).notes = [] ∧ (s.queue o q).ring = [] → (s.queue o
        q).free = 0 → (t.queue o q).fifo = (s.queue o q).fifo ∧ (t.queue o q).notes.length = 1) ∧
      (s.qOpen o q = false → (t.queue o q) = (s.queue o q) ∧ (t.rd (Reg.Q_NOTICE_DROP_CNT o)).toNat = satCount 32 (s.rd
        (Reg.Q_NOTICE_DROP_CNT o)).toNat 1) ∧
      ((s.iface (ownerCoord s.devid o)).wait = [] → (t.iface (ownerCoord s.devid o)).held = (s.iface (ownerCoord s.devid
        o)).held - 1) ∧
      t.mem = s.mem ∧
      (∀ reg : Nat, reg ∉ [Reg.Q_NOTICE_DROP_CNT o, Reg.Q_MC_DONE o, Reg.Q_MC_FAIL o, Reg.Q_STATUS o, Reg.Q_TX_FAIL_CNT
        o, Reg.MESH_RANK_MISS_CNT, Reg.MESH_NOROUTE_CNT] ++ each 102 Reg.PWR_ISL_STAT ++ each 64 (Reg.Q_COMB o) ++ each
        64 (Reg.Q_COMB_CNT o) ++ each 16 (Reg.Q_STAT o) ++ each 128 Reg.SEQ_STATUS ++ each 32 Reg.ING_WAKE_NACK_CNT ++
        each 16 Reg.IBL_DROP_CNT ++ memorySide → t.rd reg = s.rd reg)) ∧
  -- SYNC_NOTICE: any notice for an owner that is there (R309, R356)
  (∀ (s : State) (dst : BitVec 22) (q : Fin 16) (time : BitVec 64) (obj : BitVec 16) (dev : BitVec 3) (kind : Fin 3)
    (value : Word) (thr : Word) (eq : Bool) (src : BitVec 22) (o : Nat), s.canonical = true → s.down = false → s.dstOwner
    dst.toNat = o → s.ownerThere o = true →
    ∃ t, exec (.syncNotice dst q time obj dev kind value thr eq src) s = .next t ∧
      t.counter = s.counter ∧
      t.cores = s.cores ∧
      t.mem = s.mem ∧
      (∀ reg : Nat, reg ∉ [Reg.Q_NOTICE_DROP_CNT o, Reg.Q_MC_DONE o, Reg.Q_MC_FAIL o, Reg.Q_STATUS o, Reg.Q_TX_FAIL_CNT
        o, Reg.MESH_RANK_MISS_CNT, Reg.MESH_NOROUTE_CNT] ++ each 102 Reg.PWR_ISL_STAT ++ each 64 (Reg.Q_COMB o) ++ each
        64 (Reg.Q_COMB_CNT o) ++ each 16 (Reg.Q_STAT o) ++ each 128 Reg.SEQ_STATUS ++ each 32 Reg.ING_WAKE_NACK_CNT ++
        each 16 Reg.IBL_DROP_CNT ++ memorySide → t.rd reg = s.rd reg)) ∧
  -- SYNC_NOTICE: DST names no owner that is there (R309) (R309, R356)
  (∀ (s : State) (dst : BitVec 22) (q : Fin 16) (time : BitVec 64) (obj : BitVec 16) (dev : BitVec 3) (kind : Fin 3)
    (value : Word) (thr : Word) (eq : Bool) (src : BitVec 22) (o : Nat), s.canonical = true → s.down = false → s.dstOwner
    dst.toNat = o → s.ownerThere o = false →
    ∃ t, exec (.syncNotice dst q time obj dev kind value thr eq src) s = .next t ∧
      (t.rd Reg.MESH_BAD_DST_CNT).toNat = satCount 32 (s.rd Reg.MESH_BAD_DST_CNT).toNat 1 ∧
      t.owners = s.owners ∧
      t.mem = s.mem ∧
      t.sent = s.sent ∧
      (∀ reg : Nat, reg ∉ [Reg.MESH_BAD_DST_CNT] → t.rd reg = s.rd reg)) ∧
  -- SYNC_ADOPT (R359)
  (∀ (s : State) (m : Master) (o : Fin 136) (k : Fin 48), s.canonical = true → s.admits m (Reg.SYNC_CTL o) = true →
    s.ownerThere o = true →
    ∃ t, exec (.syncAdopt m o) s = .next t ∧
      (k.val < objsOf o → t.rd (Reg.SYNC_VAL o k) = 0 ∧ t.orphaned o k = false ∧ t.fget (Reg.SYNC_STATE_STATE o k) = 0 ∧
        t.fget (Reg.SYNC_LAST_LAST_OP o k) = 0 ∧ t.fget (Reg.SYNC_LAST_LAST_T o k) = s.fget (Reg.SYNC_LAST_LAST_T o k) ∧
        t.fget (Reg.SYNC_STATE_LAST_SRC o k) = s.fget (Reg.SYNC_STATE_LAST_SRC o k)) ∧
      t.mem = s.mem ∧
      t.sent = s.sent ∧
      (∀ reg : Nat, reg ∉ each 48 (Reg.SYNC_STATE o) ++ accessRegs (Reg.SYNC_CTL o) → t.rd reg = s.rd reg)) ∧
  -- SYNC_ADOPT: no such owner (R359)
  (∀ (s : State) (m : Master) (o : Fin 136), s.canonical = true → s.admits m (Reg.SYNC_CTL o) = true → s.ownerThere o =
    false →
    ∃ t, exec (.syncAdopt m o) s = .next t ∧
      t.owners = s.owners ∧
      t.mem = s.mem ∧
      t.sent = s.sent ∧
      (∀ reg : Nat, reg ∉ accessRegs (Reg.SYNC_CTL o) → t.rd reg = s.rd reg)) ∧
  -- SYNC_FREEZE (R360)
  (∀ (s : State) (m : Master) (o : Fin 136), s.canonical = true → s.admits m (Reg.SYNC_CTL o) = true → s.ownerThere o =
    true →
    ∃ t, exec (.syncFreeze m o) s = .next t ∧
      t.fbit (Reg.SYNC_CTL_FROZEN o) = true ∧
      t.fget (Reg.SYNC_CTL_STORM o) = s.fget (Reg.SYNC_CTL_STORM o) ∧
      t.mem = s.mem ∧
      t.sent = s.sent ∧
      (∀ reg : Nat, reg ∉ [Reg.SYNC_CTL o] ++ accessRegs (Reg.SYNC_CTL o) → t.rd reg = s.rd reg)) ∧
  -- SYNC_FREEZE: no such owner (R360)
  (∀ (s : State) (m : Master) (o : Fin 136), s.canonical = true → s.admits m (Reg.SYNC_CTL o) = true → s.ownerThere o =
    false →
    ∃ t, exec (.syncFreeze m o) s = .next t ∧
      t.owners = s.owners ∧
      t.mem = s.mem ∧
      t.sent = s.sent ∧
      (∀ reg : Nat, reg ∉ accessRegs (Reg.SYNC_CTL o) → t.rd reg = s.rd reg)) ∧
  -- SYNC_UNFREEZE (R360)
  (∀ (s : State) (m : Master) (o : Fin 136) (w : Fin 96), s.canonical = true → s.admits m (Reg.SYNC_CTL o) = true →
    s.ownerThere o = true → s.fbit (Reg.SYNC_CTL_FROZEN o) = true →
    ∃ t, exec (.syncUnfreeze m o) s = .next t ∧
      t.fbit (Reg.SYNC_CTL_FROZEN o) = false ∧
      (w.val < watchesOf o → t.fbit (Reg.WATCH_W0_VALID o w) = (s.fbit (Reg.WATCH_W0_VALID o w) && !watchHolds (s.fbit
        (Reg.WATCH_W0_EQ o w)) (s.syncVal o (s.fget (Reg.WATCH_W0_INDEX o w))) (s.rd (Reg.WATCH_W1 o w)).toNat)) ∧
      (w.val < watchesOf o → s.fbit (Reg.WATCH_W0_VALID o w) = true → watchHolds (s.fbit (Reg.WATCH_W0_EQ o w))
        (s.syncVal o (s.fget (Reg.WATCH_W0_INDEX o w))) (s.rd (Reg.WATCH_W1 o w)).toNat = true → qnDev (s.fget
        (Reg.WATCH_W0_WQN o w)) = s.devid → .notice (s.fget (Reg.WATCH_W0_WQN o w)) s.now (objOf o (s.fget
        (Reg.WATCH_W0_INDEX o w))) s.devid 0 (s.syncVal o (s.fget (Reg.WATCH_W0_INDEX o w))) (s.rd (Reg.WATCH_W1 o
        w)).toNat (s.fbit (Reg.WATCH_W0_EQ o w)) (ownerCoord s.devid o) ∈ t.sent) ∧
      t.mem = s.mem ∧
      (∀ reg : Nat, reg ∉ [Reg.SYNC_CTL o, Reg.SYNC_ORPHAN_CNT o, Reg.MESH_NOROUTE_CNT] ++ each 48 (Reg.SYNC_STATE o) ++
        each 96 (Reg.WATCH_W0 o) ++ each 16 Reg.IBL_DROP_CNT ++ accessRegs (Reg.SYNC_CTL o) → t.rd reg = s.rd reg)) ∧
  -- SYNC_UNFREEZE: the unit is not FROZEN (R360)
  (∀ (s : State) (m : Master) (o : Fin 136), s.canonical = true → s.admits m (Reg.SYNC_CTL o) = true → s.ownerThere o =
    true → s.fbit (Reg.SYNC_CTL_FROZEN o) = false →
    ∃ t, exec (.syncUnfreeze m o) s = .next t ∧
      t.fbit (Reg.SYNC_CTL_FROZEN o) = false ∧
      t.mem = s.mem ∧
      t.sent = s.sent ∧
      (∀ reg : Nat, reg ∉ accessRegs (Reg.SYNC_CTL o) → t.rd reg = s.rd reg)) ∧
  -- SYNC_UNFREEZE: no such owner (R360)
  (∀ (s : State) (m : Master) (o : Fin 136), s.canonical = true → s.admits m (Reg.SYNC_CTL o) = true → s.ownerThere o =
    false →
    ∃ t, exec (.syncUnfreeze m o) s = .next t ∧
      t.owners = s.owners ∧
      t.mem = s.mem ∧
      t.sent = s.sent ∧
      (∀ reg : Nat, reg ∉ accessRegs (Reg.SYNC_CTL o) → t.rd reg = s.rd reg)) ∧
  -- Q_WDRAIN (R362)
  (∀ (s : State) (o : Fin 136), s.canonical = true → s.down = false → s.ownerRuns o = true →
    ∃ t, exec (.qWdrain o) s = .next t ∧
      ((s.owner o).out = 0 → t.sent = .readValue 0 :: s.sent ∧ t.owners = s.owners) ∧
      ((s.owner o).out ≠ 0 → t.sent = s.sent ∧ (t.owner o).drain = true) ∧
      t.csr = s.csr ∧
      t.mem = s.mem) ∧
  -- Q_WDRAIN: a core that does not run (R362)
  (∀ (s : State) (o : Fin 136), s.canonical = true → s.down = false → s.ownerRuns o = false →
    ∃ t, exec (.qWdrain o) s = .next t ∧
      t = s ∧
      t.mem = s.mem)

/-- DMA channels: control and program fetch complete. A channel started, paused, resumed and disabled; a program word
fetched. (11_dma_programs.md.) -/
def Obligations.DmaControlCommandsComplete : Prop :=
  -- DMA_START (R383)
  (∀ (s : State) (m : Master) (ch : Fin 1056) (ie : Bool) (sel : Bool), s.canonical = true → s.admits m (dmaCtl ch) =
    true → s.dmaThere ch = true →
    ∃ t, exec (.dmaStart m ch ie sel) s = .next t ∧
      (¬ (s.dmaState ch = 1 ∨ s.dmaState ch = 2 ∨ s.dmaState ch = 3) → t.dmaState ch = 1 ∧ t.dmaDepth ch = 0 ∧ t.dmaDone
        ch = 0 ∧ t.fget (Reg.DMA_STATUS_ERR ch) = 0 ∧ t.fget (Reg.DMA_STATUS_CODE ch) = 0 ∧ t.fbit (Reg.DMA_STATUS_WPEND
        ch) = false ∧ t.fbit (dmaIe ch) = ie ∧ t.fbit (dmaSel ch) = sel ∧ (t.dma ch).wait = none ∧ (t.dma ch).watch =
        none ∧ (t.dma ch).code = [] ∧ (t.dma ch).buf = [] ∧ (t.dma ch).lost = (s.dma ch).left) ∧
      (s.dmaState ch = 1 ∨ s.dmaState ch = 2 ∨ s.dmaState ch = 3 → t.dmaState ch = s.dmaState ch ∧ t.dmas = s.dmas ∧ t.rd
        (dmaCtl ch) = s.rd (dmaCtl ch) ∧ (ignoredRef (dmaCtl ch)).all (fun r => t.fbit r) = true) ∧
      t.dmaPc ch = s.dmaPc ch ∧
      t.mem = s.mem ∧
      (∀ reg : Nat, reg ∉ [Reg.DMA_STATUS ch, Reg.DMA_PC ch, Reg.DMA_DONE ch, Reg.MESH_NOROUTE_CNT] ++ each2 64 4
        Reg.TDMA_CTL ++ each2 2 16 Reg.BDMA_CTL ++ each 16 Reg.IBL_DROP_CNT ++ each 128 Reg.SEQ_STATUS ++ accessRegs
        (dmaCtl ch) → t.rd reg = s.rd reg)) ∧
  -- DMA_START: no such channel (R383)
  (∀ (s : State) (m : Master) (ch : Fin 1056) (ie : Bool) (sel : Bool), s.canonical = true → s.admits m (dmaCtl ch) =
    true → s.dmaThere ch = false →
    ∃ t, exec (.dmaStart m ch ie sel) s = .next t ∧
      t.dmas = s.dmas ∧
      t.mem = s.mem ∧
      t.sent = s.sent ∧
      (∀ reg : Nat, reg ∉ accessRegs (dmaCtl ch) → t.rd reg = s.rd reg)) ∧
  -- DMA_PAUSE (R384)
  (∀ (s : State) (m : Master) (ch : Fin 1056), s.canonical = true → s.admits m (dmaCtl ch) = true → s.dmaThere ch = true
    → dmaTile ch = true →
    ∃ t, exec (.dmaPause m ch) s = .next t ∧
      t.fbit (dmaPauseBit ch) = true ∧
      (t.dmaState ch = (if s.dmaState ch = 1 ∨ s.dmaState ch = 2 then 3 else if s.dmaState ch = 0 ∨ s.dmaState ch = 5 ∨
        s.dmaState ch = 6 then 4 else s.dmaState ch)) ∧
      t.dmas = s.dmas ∧
      t.dmaPc ch = s.dmaPc ch ∧
      t.mem = s.mem ∧
      t.sent = s.sent ∧
      (∀ reg : Nat, reg ∉ [Reg.DMA_STATUS ch, Reg.MESH_NOROUTE_CNT] ++ each2 64 4 Reg.TDMA_CTL ++ each2 2 16 Reg.BDMA_CTL
        ++ each 16 Reg.IBL_DROP_CNT ++ accessRegs (dmaCtl ch) → t.rd reg = s.rd reg)) ∧
  -- DMA_PAUSE: bit 30 of a bulk channel is DISABLE (R387, R391) (R384)
  (∀ (s : State) (m : Master) (ch : Fin 1056), s.canonical = true → s.admits m (dmaCtl ch) = true → s.dmaThere ch = true
    → dmaTile ch = false →
    ∃ t, exec (.dmaPause m ch) s = .next t ∧
      t.dmaState ch = 0 ∧
      t.fget (Reg.DMA_STATUS_ERR ch) = 0 ∧
      t.fget (Reg.DMA_STATUS_CODE ch) = 0 ∧
      t.fbit (Reg.DMA_STATUS_WPEND ch) = false ∧
      (t.dma ch).wait = none ∧
      (t.dma ch).watch = none ∧
      (t.dma ch).sigs = [] ∧
      (t.dma ch).lost = (s.dma ch).left ∧
      t.free = s.free + 16 ∧
      t.mem = s.mem ∧
      (∀ reg : Nat, reg ∉ [Reg.DMA_STATUS ch, Reg.DMA_PC ch, Reg.DMA_DONE ch, Reg.MESH_NOROUTE_CNT] ++ each2 64 4
        Reg.TDMA_CTL ++ each2 2 16 Reg.BDMA_CTL ++ each 4 (Reg.DMA_LOOP_CNT ch) ++ each 4 (Reg.DMA_LOOP_PC ch) ++ each 2
        Reg.BDMA_BYTE_CNT ++ each 16 Reg.IBL_DROP_CNT ++ accessRegs (dmaCtl ch) → t.rd reg = s.rd reg)) ∧
  -- DMA_PAUSE: no such channel (R384)
  (∀ (s : State) (m : Master) (ch : Fin 1056), s.canonical = true → s.admits m (dmaCtl ch) = true → s.dmaThere ch = false
    →
    ∃ t, exec (.dmaPause m ch) s = .next t ∧
      t.dmas = s.dmas ∧
      t.mem = s.mem ∧
      t.sent = s.sent ∧
      (∀ reg : Nat, reg ∉ accessRegs (dmaCtl ch) → t.rd reg = s.rd reg)) ∧
  -- DMA_PAUSED (R384)
  (∀ (s : State) (ch : Fin 1056), s.canonical = true → s.down = false → s.dmaThere ch = true → s.dmaState ch = 3 → (s.dma
    ch).wait = none → (s.dma ch).buf = [] →
    ∃ t, exec (.dmaPaused ch) s = .next t ∧
      t.dmaState ch = 4 ∧
      t.fbit (Reg.DMA_STATUS_WPEND ch) = (s.fbit (Reg.DMA_STATUS_WPEND ch) && !(s.dma ch).again.isSome) ∧
      t.dmaPc ch = s.dmaPc ch ∧
      t.mem = s.mem ∧
      t.sent = s.sent ∧
      (∀ reg : Nat, reg ∉ [Reg.DMA_STATUS ch, Reg.MESH_NOROUTE_CNT] ++ each 16 Reg.IBL_DROP_CNT → t.rd reg = s.rd reg)) ∧
  -- DMA_PAUSED: the channel is not pausing, or has data to write still, or there is no such channel (R384)
  (∀ (s : State) (ch : Fin 1056), s.canonical = true → s.down = false → s.dmaState ch ≠ 3 ∨ (s.dma ch).wait ≠ none ∨
    (s.dma ch).buf ≠ [] ∨ s.dmaThere ch = false →
    ∃ t, exec (.dmaPaused ch) s = .next t ∧
      t = s ∧
      t.mem = s.mem) ∧
  -- DMA_RESUME (R384, R385)
  (∀ (s : State) (m : Master) (ch : Fin 1056), s.canonical = true → s.admits m (dmaCtl ch) = true → s.dmaThere ch = true
    → dmaTile ch = true →
    ∃ t, exec (.dmaResume m ch) s = .next t ∧
      t.fbit (dmaPauseBit ch) = false ∧
      (s.dmaState ch = 4 → s.dmaDepth ch = 0 → t.dmaState ch = (if s.fbit (Reg.DMA_STATUS_WPEND ch) then 2 else 1) ∧
        (t.dma ch).code = [] ∧ t.sent = s.sent) ∧
      (s.dmaState ch = 4 → t.dmaState ch = 6 ∨ t.dmaState ch = (if s.fbit (Reg.DMA_STATUS_WPEND ch) then 2 else 1) ∨
        (s.dma ch).wait ≠ none) ∧
      (s.dmaState ch ≠ 4 → t.dmaState ch = s.dmaState ch ∧ t.dmas = s.dmas ∧ t.sent = s.sent) ∧
      t.dmaPc ch = s.dmaPc ch ∧
      t.dmaDone ch = s.dmaDone ch ∧
      t.mem = s.mem ∧
      (∀ reg : Nat, reg ∉ [Reg.DMA_STATUS ch] ++ each2 64 4 Reg.TDMA_CTL ++ each2 2 16 Reg.BDMA_CTL ++ memorySide ++
        accessRegs (dmaCtl ch) → t.rd reg = s.rd reg)) ∧
  -- DMA_RESUME: no channel with PAUSE (R384, R385)
  (∀ (s : State) (m : Master) (ch : Fin 1056), s.canonical = true → s.admits m (dmaCtl ch) = true → s.dmaThere ch = false
    ∨ dmaTile ch = false →
    ∃ t, exec (.dmaResume m ch) s = .next t ∧
      t.dmas = s.dmas ∧
      t.mem = s.mem ∧
      t.sent = s.sent ∧
      (∀ reg : Nat, reg ∉ accessRegs (dmaCtl ch) → t.rd reg = s.rd reg)) ∧
  -- DMA_DISABLE (R387)
  (∀ (s : State) (m : Master) (ch : Fin 1056), s.canonical = true → s.admits m (dmaCtl ch) = true → s.dmaThere ch = true
    → dmaTile ch = false →
    ∃ t, exec (.dmaDisable m ch) s = .next t ∧
      t.dmaState ch = 0 ∧
      t.fget (Reg.DMA_STATUS_ERR ch) = 0 ∧
      t.fget (Reg.DMA_STATUS_CODE ch) = 0 ∧
      t.fbit (Reg.DMA_STATUS_WPEND ch) = false ∧
      (t.dma ch).wait = none ∧
      (t.dma ch).watch = none ∧
      (t.dma ch).sigs = [] ∧
      (t.dma ch).lost = (s.dma ch).left ∧
      t.free = s.free + 16 ∧
      t.mem = s.mem ∧
      (∀ reg : Nat, reg ∉ [Reg.DMA_STATUS ch, Reg.DMA_PC ch, Reg.DMA_DONE ch, Reg.MESH_NOROUTE_CNT] ++ each2 64 4
        Reg.TDMA_CTL ++ each2 2 16 Reg.BDMA_CTL ++ each 4 (Reg.DMA_LOOP_CNT ch) ++ each 4 (Reg.DMA_LOOP_PC ch) ++ each 16
        Reg.IBL_DROP_CNT ++ accessRegs (dmaCtl ch) → t.rd reg = s.rd reg)) ∧
  -- DMA_DISABLE: bit 30 of a tile channel is PAUSE (R384, R390) (R387)
  (∀ (s : State) (m : Master) (ch : Fin 1056), s.canonical = true → s.admits m (dmaCtl ch) = true → s.dmaThere ch = true
    → dmaTile ch = true →
    ∃ t, exec (.dmaDisable m ch) s = .next t ∧
      t.fbit (dmaPauseBit ch) = true ∧
      (t.dmaState ch = (if s.dmaState ch = 1 ∨ s.dmaState ch = 2 then 3 else if s.dmaState ch = 0 ∨ s.dmaState ch = 5 ∨
        s.dmaState ch = 6 then 4 else s.dmaState ch)) ∧
      t.dmas = s.dmas ∧
      t.dmaPc ch = s.dmaPc ch ∧
      t.mem = s.mem ∧
      t.sent = s.sent ∧
      (∀ reg : Nat, reg ∉ [Reg.DMA_STATUS ch] ++ each2 64 4 Reg.TDMA_CTL ++ each2 2 16 Reg.BDMA_CTL ++ accessRegs (dmaCtl
        ch) → t.rd reg = s.rd reg)) ∧
  -- DMA_DISABLE: no such channel (R387)
  (∀ (s : State) (m : Master) (ch : Fin 1056), s.canonical = true → s.admits m (dmaCtl ch) = true → s.dmaThere ch = false
    →
    ∃ t, exec (.dmaDisable m ch) s = .next t ∧
      t.dmas = s.dmas ∧
      t.mem = s.mem ∧
      t.sent = s.sent ∧
      (∀ reg : Nat, reg ∉ accessRegs (dmaCtl ch) → t.rd reg = s.rd reg)) ∧
  -- DMA_PROGRAM_FETCH (R372, R373)
  (∀ (s : State) (ch : Fin 1056) (k : Fin 3) (ecc : Ecc), s.canonical = true → s.down = false → s.dmaThere ch = true →
    s.dmaState ch = 1 → (s.dma ch).wait = none → (s.dmaPc ch / 8 + k.val) < 16384 → State.dmaReach ch (s.dmaAddr ch (8 *
    (s.dmaPc ch / 8 + k.val))) 64 false = true → s.allows (.dma ch) 0 (s.dmaAddr ch (8 * (s.dmaPc ch / 8 + k.val))) 64 =
    true → s.isLocal (s.dmaAddr ch (8 * (s.dmaPc ch / 8 + k.val))) = true → s.served (localPart (s.dmaAddr ch (8 *
    (s.dmaPc ch / 8 + k.val)))) = 0 →
    ∃ t, exec (.dmaProgramFetch ch k ecc) s = .next t ∧
      ((eccWords (unalias (localPart (s.dmaAddr ch (8 * (s.dmaPc ch / 8 + k.val))))) 64).any s.isBad = false → (∀ rank
        device, s.decoded ((eccWords (unalias (localPart (s.dmaAddr ch (8 * (s.dmaPc ch / 8 + k.val))))) 64).headD
        (unalias (localPart (s.dmaAddr ch (8 * (s.dmaPc ch / 8 + k.val)))))) ecc ≠ .ue rank device) → ((s.dmaPc ch / 8 +
        k.val), (List.range 8).map fun i => leNat ((List.range 8).map fun j => if s.kvHides (.dma ch) (unalias (localPart
        (s.dmaAddr ch (8 * (s.dmaPc ch / 8 + k.val)))) + 8 * i + j) then 0 else s.mget (unalias (localPart (s.dmaAddr ch
        (8 * (s.dmaPc ch / 8 + k.val)))) + 8 * i + j))) ∈ (t.dma ch).code ∧ (t.dma ch).wait = none ∧ t.dmaState ch = 1) ∧
      ((eccWords (unalias (localPart (s.dmaAddr ch (8 * (s.dmaPc ch / 8 + k.val))))) 64).any s.isBad = true → t.dmaState
        ch = 6 ∧ t.fget (Reg.DMA_STATUS_ERR ch) = 4 ∧ t.rd64 (Reg.DMA_FAULT_LO ch) = (s.dmaAddr ch (8 * (s.dmaPc ch / 8 +
        k.val)))) ∧
      t.dmaPc ch = s.dmaPc ch ∧
      t.mem = s.mem ∧
      (∀ reg : Nat, reg ∉ memorySide → t.rd reg = s.rd reg)) ∧
  -- DMA_PROGRAM_FETCH: outside the reach or the region set: REGION (R371, R372) (R372, R373)
  (∀ (s : State) (ch : Fin 1056) (k : Fin 3) (ecc : Ecc), s.canonical = true → s.down = false → s.dmaThere ch = true →
    s.dmaState ch = 1 → (s.dma ch).wait = none → (s.dmaPc ch / 8 + k.val) < 16384 → State.dmaReach ch (s.dmaAddr ch (8 *
    (s.dmaPc ch / 8 + k.val))) 64 false = false ∨ s.allows (.dma ch) 0 (s.dmaAddr ch (8 * (s.dmaPc ch / 8 + k.val))) 64 =
    false →
    ∃ t, exec (.dmaProgramFetch ch k ecc) s = .next t ∧
      t.dmaState ch = 6 ∧
      t.fget (Reg.DMA_STATUS_ERR ch) = 3 ∧
      t.rd64 (Reg.DMA_FAULT_LO ch) = ((s.dmaAddr ch (8 * (s.dmaPc ch / 8 + k.val)))) % 2 ^ 64 ∧
      t.fbit (Reg.DMA_STATUS_IRQ ch) = true ∧
      .fault 16 7 ch 3 ∈ t.sent ∧
      (t.rd (dmaCnt ch 2)).toNat = satCount 32 (s.rd (dmaCnt ch 2)).toNat 1 ∧
      (t.dma ch).wait = none ∧
      t.dmaPc ch = s.dmaPc ch ∧
      t.mem = s.mem ∧
      (∀ reg : Nat, reg ∉ memorySide → t.rd reg = s.rd reg)) ∧
  -- DMA_PROGRAM_FETCH: the channel does not run, awaits a reply, or the program ends before, or there is no such channel (R372, R373)
  (∀ (s : State) (ch : Fin 1056) (k : Fin 3) (ecc : Ecc), s.canonical = true → s.down = false → s.dmaState ch ≠ 1 ∨
    (s.dma ch).wait ≠ none ∨ 16384 ≤ (s.dmaPc ch / 8 + k.val) ∨ s.dmaThere ch = false →
    ∃ t, exec (.dmaProgramFetch ch k ecc) s = .next t ∧
      t = s ∧
      t.mem = s.mem)

/-- DMA channels: the operations of a program complete. MOVE, LOOP, ENDLOOP, WAIT, SIGNAL and a refused operation.
(11_dma_programs.md.) -/
def Obligations.DmaOperationsComplete : Prop :=
  -- MOVE (R375, R380, R381)
  (∀ (s : State) (ch : Fin 1056) (n : Word) (ecc : List (BitVec 32 × Ecc)) (w a b c set i : Nat), s.canonical = true →
    s.down = false → s.dmaThere ch = true → s.dmaState ch = 1 → (s.dma ch).wait = none → s.dmaWord ch (s.dmaPc ch) = some
    w → bits w 63 60 = 1 → s.dmaMove ch = some (a, b, c) → moveBad ch a b c = false → s.dmaPc ch + 2 < 131072 → bits a 55
    52 = 0 → s.dmaDone ch = 0 → s.dmaPc ch + 3 < 131072 → (s.dmaSum ch true 0 b) % 256 + bits a 31 0 ≤ 256 → (s.dmaSum ch
    false 0 c) % 64 + bits a 31 0 ≤ 64 → bits a 31 0 ≤ n.toNat → 0x80000000000 ≤ (s.dmaSum ch true 0 b) / 64 * 64 →
    (s.dmaSum ch true 0 b) < 0x80030000000 → 0x80000000000 ≤ (s.dmaSum ch false 0 c) → (s.dmaSum ch false 0 c) <
    0x80030000000 → (s.dmaSum ch true 0 b) / 256 ≠ (s.dmaSum ch false 0 c) / 256 → (Who.dma ch).set = some set →
    s.setAllows set 0 ((s.dmaSum ch true 0 b) / 64 * 64) (((s.dmaSum ch true 0 b) + bits a 31 0 + 63) / 64 * 64 -
    (s.dmaSum ch true 0 b) / 64 * 64) = true → s.setAllows set 1 ((s.dmaSum ch false 0 c) / 4096 * 4096) 1 = true →
    s.served ((s.dmaSum ch true 0 b) / 64 * 64) = 0 → s.served (s.dmaSum ch false 0 c) = 0 → s.bad = [] → ecc = [] → i <
    bits a 31 0 → (kvUnits.any fun x => s.fbit (Reg.ING_KV_CFG_EN x.1 x.2)) = false →
    ∃ t, exec (.move ch n ecc) s = .next t ∧
      t.mget ((s.dmaSum ch false 0 c) + i) = s.mget ((s.dmaSum ch true 0 b) + i) ∧
      (∀ x : Nat, x < (s.dmaSum ch false 0 c) ∨ (s.dmaSum ch false 0 c) + bits a 31 0 ≤ x → t.mget x = s.mget x) ∧
      t.dmaPc ch = s.dmaPc ch + 3 ∧
      t.dmaDone ch = 0 ∧
      t.dmaState ch = 1 ∧
      (t.rd (dmaCnt ch 0)).toNat = ((s.rd (dmaCnt ch 0)).toNat + bits a 31 0) % 2 ^ 32 ∧
      (t.dma ch).buf = [] ∧
      (t.dma ch).wait = none ∧
      t.sent = s.sent ∧
      (∀ reg : Nat, reg ∉ memorySide → t.rd reg = s.rd reg)) ∧
  -- MOVE: a field of the MOVE is refused: BAD_FIELD (R374, R375) (R375, R380, R381)
  (∀ (s : State) (ch : Fin 1056) (n : Word) (ecc : List (BitVec 32 × Ecc)) (w : Nat), s.canonical = true → s.down = false
    → s.dmaThere ch = true → s.dmaState ch = 1 → (s.dma ch).wait = none → s.dmaWord ch (s.dmaPc ch) = some w → bits w 63
    60 = 1 → (if 131072 ≤ s.dmaPc ch + 2 then false else (s.dmaMove ch).any (fun x => moveBad ch x.1 x.2.1 x.2.2)) = true
    →
    ∃ t, exec (.move ch n ecc) s = .next t ∧
      t.dmaState ch = 6 ∧
      t.fget (Reg.DMA_STATUS_ERR ch) = 2 ∧
      t.rd64 (Reg.DMA_FAULT_LO ch) = (s.dmaAddr ch (s.dmaPc ch)) % 2 ^ 64 ∧
      t.fbit (Reg.DMA_STATUS_IRQ ch) = true ∧
      .fault 16 7 ch 2 ∈ t.sent ∧
      (t.rd (dmaCnt ch 2)).toNat = satCount 32 (s.rd (dmaCnt ch 2)).toNat 1 ∧
      (t.dma ch).wait = none ∧
      t.dmaPc ch = s.dmaPc ch ∧
      t.mem = s.mem ∧
      (∀ reg : Nat, reg ∉ memorySide → t.rd reg = s.rd reg)) ∧
  -- MOVE: its words pass the end of the program: BAD_FIELD (R389) (R375, R380, R381)
  (∀ (s : State) (ch : Fin 1056) (n : Word) (ecc : List (BitVec 32 × Ecc)) (w : Nat), s.canonical = true → s.down = false
    → s.dmaThere ch = true → s.dmaState ch = 1 → (s.dma ch).wait = none → s.dmaWord ch (s.dmaPc ch) = some w → bits w 63
    60 = 1 → 131072 ≤ s.dmaPc ch + 2 →
    ∃ t, exec (.move ch n ecc) s = .next t ∧
      t.dmaState ch = 6 ∧
      t.fget (Reg.DMA_STATUS_ERR ch) = 2 ∧
      t.rd64 (Reg.DMA_FAULT_LO ch) = (s.dmaAddr ch (s.dmaPc ch + 2)) % 2 ^ 64 ∧
      t.fbit (Reg.DMA_STATUS_IRQ ch) = true ∧
      .fault 16 7 ch 2 ∈ t.sent ∧
      (t.rd (dmaCnt ch 2)).toNat = satCount 32 (s.rd (dmaCnt ch 2)).toNat 1 ∧
      (t.dma ch).wait = none ∧
      t.dmaPc ch = s.dmaPc ch ∧
      t.mem = s.mem ∧
      (∀ reg : Nat, reg ∉ memorySide → t.rd reg = s.rd reg)) ∧
  -- MOVE: from host space: a read request, or TARGET while PCIe is not ready (R375) (R375, R380, R381)
  (∀ (s : State) (ch : Fin 1056) (n : Word) (ecc : List (BitVec 32 × Ecc)) (w a b c : Nat), s.canonical = true → s.down =
    false → s.dmaThere ch = true → s.dmaState ch = 1 → (s.dma ch).wait = none → s.dmaWord ch (s.dmaPc ch) = some w → bits
    w 63 60 = 1 → s.dmaMove ch = some (a, b, c) → moveBad ch a b c = false → s.dmaPc ch + 2 < 131072 → bits a 55 54 = 1 →
    s.dmaDone ch < bits a 31 0 → (s.dma ch).buf = [] → 0 < n.toNat →
    ∃ t, exec (.move ch n ecc) s = .next t ∧
      (s.hostReady = true → (t.dma ch).wait.map (fun x => (x.kind, x.addr)) = some (3, (s.dmaSum ch true 1 b + s.dmaDone
        ch) % 2 ^ 64) ∧ t.dmaDone ch = s.dmaDone ch ∧ t.dmaState ch = 1) ∧
      (s.hostReady = false → t.dmaState ch = 6 ∧ t.fget (Reg.DMA_STATUS_ERR ch) = 5 ∧ t.rd64 (Reg.DMA_FAULT_LO ch) =
        (s.dmaSum ch true 1 b + s.dmaDone ch) % 2 ^ 64 ∧ t.fbit (Reg.DMA_STATUS_IRQ ch) = true ∧ .fault 16 7 ch 5 ∈
        t.sent ∧ (t.rd (dmaCnt ch 2)).toNat = satCount 32 (s.rd (dmaCnt ch 2)).toNat 1 ∧ (t.dma ch).wait = none) ∧
      t.dmaPc ch = s.dmaPc ch ∧
      t.mem = s.mem ∧
      (∀ reg : Nat, reg ∉ memorySide → t.rd reg = s.rd reg)) ∧
  -- MOVE: a source outside the reach: REGION (R371) (R375, R380, R381)
  (∀ (s : State) (ch : Fin 1056) (n : Word) (ecc : List (BitVec 32 × Ecc)) (w a b c : Nat), s.canonical = true → s.down =
    false → s.dmaThere ch = true → s.dmaState ch = 1 → (s.dma ch).wait = none → s.dmaWord ch (s.dmaPc ch) = some w → bits
    w 63 60 = 1 → s.dmaMove ch = some (a, b, c) → moveBad ch a b c = false → s.dmaPc ch + 2 < 131072 → bits a 55 54 = 0 →
    s.dmaDone ch < bits a 31 0 → (s.dma ch).buf = [] → 0 < n.toNat → (s.dma ch).err = none → State.dmaReach ch ((s.dmaSum
    ch true 0 b + s.dmaDone ch) % 2 ^ 48 / 64 * 64) 1 false = false →
    ∃ t, exec (.move ch n ecc) s = .next t ∧
      t.dmaState ch = 6 ∧
      t.fget (Reg.DMA_STATUS_ERR ch) = 3 ∧
      t.rd64 (Reg.DMA_FAULT_LO ch) = ((s.dmaSum ch true 0 b + s.dmaDone ch) % 2 ^ 48) % 2 ^ 64 ∧
      t.fbit (Reg.DMA_STATUS_IRQ ch) = true ∧
      .fault 16 7 ch 3 ∈ t.sent ∧
      (t.rd (dmaCnt ch 2)).toNat = satCount 32 (s.rd (dmaCnt ch 2)).toNat 1 ∧
      (t.dma ch).wait = none ∧
      t.dmaPc ch = s.dmaPc ch ∧
      t.dmaDone ch = s.dmaDone ch ∧
      t.mem = s.mem ∧
      (∀ reg : Nat, reg ∉ memorySide → t.rd reg = s.rd reg)) ∧
  -- MOVE: the channel does not run, awaits a reply, or stands at another word, or there is no such channel (R375, R380, R381)
  (∀ (s : State) (ch : Fin 1056) (n : Word) (ecc : List (BitVec 32 × Ecc)), s.canonical = true → s.down = false →
    (s.dmaWord ch (s.dmaPc ch)).all (fun w => decide (s.dmaState ch ≠ 1 ∨ (s.dma ch).wait ≠ none ∨ bits w 63 60 ≠ 1)) =
    true ∨ s.dmaThere ch = false →
    ∃ t, exec (.move ch n ecc) s = .next t ∧
      t = s) ∧
  -- MOVE: any MOVE (R375, R380, R381)
  (∀ (s : State) (ch : Fin 1056) (n : Word) (ecc : List (BitVec 32 × Ecc)), s.canonical = true → s.down = false →
    ∃ t, exec (.move ch n ecc) s = .next t ∧
      t.counter = s.counter ∧
      (∀ c : Nat, c < 1056 → c ≠ ch.val → tabGet (fun _ => DmaSt.init) t.dmas c = tabGet (fun _ => DmaSt.init) s.dmas c)
        ∧
      (∀ reg : Nat, reg ∉ memorySide → t.rd reg = s.rd reg)) ∧
  -- LOOP (R376)
  (∀ (s : State) (ch : Fin 1056) (w : Nat), s.canonical = true → s.down = false → s.dmaThere ch = true → s.dmaState ch =
    1 → (s.dma ch).wait = none → s.dmaWord ch (s.dmaPc ch) = some w → bits w 63 60 = 2 → s.dmaDepth ch < 4 → s.dmaPc ch +
    1 < 131072 →
    ∃ t, exec (.loop ch) s = .next t ∧
      t.dmaI ch (s.dmaDepth ch) = 0 ∧
      t.fget (Reg.DMA_LOOP_CNT_CNTM1 ch (s.dmaDepth ch)) = bits w 59 44 ∧
      t.fget (Reg.DMA_LOOP_PC_BODY ch (s.dmaDepth ch)) = s.dmaPc ch + 1 ∧
      t.dmaDepth ch = s.dmaDepth ch + 1 ∧
      t.dmaStride ch (s.dmaDepth ch) = loopStrides w ∧
      t.dmaPc ch = s.dmaPc ch + 1 ∧
      t.dmaState ch = 1 ∧
      t.mem = s.mem ∧
      t.sent = s.sent ∧
      (∀ reg : Nat, reg ∉ [Reg.DMA_STATUS ch, Reg.DMA_PC ch, Reg.DMA_FAULT_LO ch, Reg.DMA_FAULT_HI ch,
        Reg.MESH_NOROUTE_CNT] ++ each 2 Reg.BDMA_ERR_CNT ++ each 64 Reg.TDMA_ERR_CNT ++ each 4 (Reg.DMA_LOOP_CNT ch) ++
        each 4 (Reg.DMA_LOOP_PC ch) ++ each 16 Reg.IBL_DROP_CNT ++ each 128 Reg.SEQ_STATUS → t.rd reg = s.rd reg)) ∧
  -- LOOP: a fifth level: BAD_LOOP (R376) (R376)
  (∀ (s : State) (ch : Fin 1056) (w : Nat), s.canonical = true → s.down = false → s.dmaThere ch = true → s.dmaState ch =
    1 → (s.dma ch).wait = none → s.dmaWord ch (s.dmaPc ch) = some w → bits w 63 60 = 2 → 4 ≤ s.dmaDepth ch →
    ∃ t, exec (.loop ch) s = .next t ∧
      t.dmaState ch = 6 ∧
      t.fget (Reg.DMA_STATUS_ERR ch) = 7 ∧
      t.rd64 (Reg.DMA_FAULT_LO ch) = (s.dmaAddr ch (s.dmaPc ch)) % 2 ^ 64 ∧
      t.fbit (Reg.DMA_STATUS_IRQ ch) = true ∧
      .fault 16 7 ch 7 ∈ t.sent ∧
      (t.rd (dmaCnt ch 2)).toNat = satCount 32 (s.rd (dmaCnt ch 2)).toNat 1 ∧
      (t.dma ch).wait = none ∧
      t.dmaPc ch = s.dmaPc ch ∧
      t.mem = s.mem ∧
      (∀ reg : Nat, reg ∉ [Reg.DMA_STATUS ch, Reg.DMA_PC ch, Reg.DMA_FAULT_LO ch, Reg.DMA_FAULT_HI ch,
        Reg.MESH_NOROUTE_CNT] ++ each 2 Reg.BDMA_ERR_CNT ++ each 64 Reg.TDMA_ERR_CNT ++ each 4 (Reg.DMA_LOOP_CNT ch) ++
        each 4 (Reg.DMA_LOOP_PC ch) ++ each 16 Reg.IBL_DROP_CNT ++ each 128 Reg.SEQ_STATUS → t.rd reg = s.rd reg)) ∧
  -- LOOP: the channel does not run, awaits a reply, or stands at another word, or there is no such channel (R376)
  (∀ (s : State) (ch : Fin 1056), s.canonical = true → s.down = false → (s.dmaWord ch (s.dmaPc ch)).all (fun w => decide
    (s.dmaState ch ≠ 1 ∨ (s.dma ch).wait ≠ none ∨ bits w 63 60 ≠ 2)) = true ∨ s.dmaThere ch = false →
    ∃ t, exec (.loop ch) s = .next t ∧
      t = s ∧
      t.mem = s.mem) ∧
  -- ENDLOOP (R376)
  (∀ (s : State) (ch : Fin 1056) (w : Nat), s.canonical = true → s.down = false → s.dmaThere ch = true → s.dmaState ch =
    1 → (s.dma ch).wait = none → s.dmaWord ch (s.dmaPc ch) = some w → bits w 63 60 = 3 → bits w 59 0 = 0 → 0 < s.dmaDepth
    ch → s.dmaDepth ch ≤ 4 → s.dmaPc ch + 1 < 131072 →
    ∃ t, exec (.endloop ch) s = .next t ∧
      ((s.dmaI ch (s.dmaDepth ch - 1)) < (s.fget (Reg.DMA_LOOP_CNT_CNTM1 ch (s.dmaDepth ch - 1))) → t.dmaI ch (s.dmaDepth
        ch - 1) = (s.dmaI ch (s.dmaDepth ch - 1)) + 1 ∧ t.dmaDepth ch = s.dmaDepth ch ∧ t.dmaPc ch = s.fget
        (Reg.DMA_LOOP_PC_BODY ch (s.dmaDepth ch - 1))) ∧
      ((s.fget (Reg.DMA_LOOP_CNT_CNTM1 ch (s.dmaDepth ch - 1))) ≤ (s.dmaI ch (s.dmaDepth ch - 1)) → t.dmaDepth ch =
        s.dmaDepth ch - 1 ∧ t.dmaPc ch = s.dmaPc ch + 1) ∧
      t.dmaState ch = 1 ∧
      t.mem = s.mem ∧
      t.sent = s.sent ∧
      (∀ reg : Nat, reg ∉ [Reg.DMA_STATUS ch, Reg.DMA_PC ch, Reg.DMA_FAULT_LO ch, Reg.DMA_FAULT_HI ch,
        Reg.MESH_NOROUTE_CNT] ++ each 2 Reg.BDMA_ERR_CNT ++ each 64 Reg.TDMA_ERR_CNT ++ each 4 (Reg.DMA_LOOP_CNT ch) ++
        each 4 (Reg.DMA_LOOP_PC ch) ++ each 16 Reg.IBL_DROP_CNT ++ each 128 Reg.SEQ_STATUS → t.rd reg = s.rd reg)) ∧
  -- ENDLOOP: a reserved bit is set: BAD_FIELD (R374) (R376)
  (∀ (s : State) (ch : Fin 1056) (w : Nat), s.canonical = true → s.down = false → s.dmaThere ch = true → s.dmaState ch =
    1 → (s.dma ch).wait = none → s.dmaWord ch (s.dmaPc ch) = some w → bits w 63 60 = 3 → bits w 59 0 ≠ 0 →
    ∃ t, exec (.endloop ch) s = .next t ∧
      t.dmaState ch = 6 ∧
      t.fget (Reg.DMA_STATUS_ERR ch) = 2 ∧
      t.rd64 (Reg.DMA_FAULT_LO ch) = (s.dmaAddr ch (s.dmaPc ch)) % 2 ^ 64 ∧
      t.fbit (Reg.DMA_STATUS_IRQ ch) = true ∧
      .fault 16 7 ch 2 ∈ t.sent ∧
      (t.rd (dmaCnt ch 2)).toNat = satCount 32 (s.rd (dmaCnt ch 2)).toNat 1 ∧
      (t.dma ch).wait = none ∧
      t.dmaPc ch = s.dmaPc ch ∧
      t.mem = s.mem ∧
      (∀ reg : Nat, reg ∉ [Reg.DMA_STATUS ch, Reg.DMA_PC ch, Reg.DMA_FAULT_LO ch, Reg.DMA_FAULT_HI ch,
        Reg.MESH_NOROUTE_CNT] ++ each 2 Reg.BDMA_ERR_CNT ++ each 64 Reg.TDMA_ERR_CNT ++ each 4 (Reg.DMA_LOOP_CNT ch) ++
        each 4 (Reg.DMA_LOOP_PC ch) ++ each 16 Reg.IBL_DROP_CNT ++ each 128 Reg.SEQ_STATUS → t.rd reg = s.rd reg)) ∧
  -- ENDLOOP: no level is open: BAD_LOOP (R376) (R376)
  (∀ (s : State) (ch : Fin 1056) (w : Nat), s.canonical = true → s.down = false → s.dmaThere ch = true → s.dmaState ch =
    1 → (s.dma ch).wait = none → s.dmaWord ch (s.dmaPc ch) = some w → bits w 63 60 = 3 → bits w 59 0 = 0 → s.dmaDepth ch
    = 0 →
    ∃ t, exec (.endloop ch) s = .next t ∧
      t.dmaState ch = 6 ∧
      t.fget (Reg.DMA_STATUS_ERR ch) = 7 ∧
      t.rd64 (Reg.DMA_FAULT_LO ch) = (s.dmaAddr ch (s.dmaPc ch)) % 2 ^ 64 ∧
      t.fbit (Reg.DMA_STATUS_IRQ ch) = true ∧
      .fault 16 7 ch 7 ∈ t.sent ∧
      (t.rd (dmaCnt ch 2)).toNat = satCount 32 (s.rd (dmaCnt ch 2)).toNat 1 ∧
      (t.dma ch).wait = none ∧
      t.dmaPc ch = s.dmaPc ch ∧
      t.mem = s.mem ∧
      (∀ reg : Nat, reg ∉ [Reg.DMA_STATUS ch, Reg.DMA_PC ch, Reg.DMA_FAULT_LO ch, Reg.DMA_FAULT_HI ch,
        Reg.MESH_NOROUTE_CNT] ++ each 2 Reg.BDMA_ERR_CNT ++ each 64 Reg.TDMA_ERR_CNT ++ each 4 (Reg.DMA_LOOP_CNT ch) ++
        each 4 (Reg.DMA_LOOP_PC ch) ++ each 16 Reg.IBL_DROP_CNT ++ each 128 Reg.SEQ_STATUS → t.rd reg = s.rd reg)) ∧
  -- ENDLOOP: the channel does not run, awaits a reply, or stands at another word, or there is no such channel (R376)
  (∀ (s : State) (ch : Fin 1056), s.canonical = true → s.down = false → (s.dmaWord ch (s.dmaPc ch)).all (fun w => decide
    (s.dmaState ch ≠ 1 ∨ (s.dma ch).wait ≠ none ∨ bits w 63 60 ≠ 3)) = true ∨ s.dmaThere ch = false →
    ∃ t, exec (.endloop ch) s = .next t ∧
      t = s ∧
      t.mem = s.mem) ∧
  -- WAIT (R377)
  (∀ (s : State) (ch : Fin 1056) (w : Nat), s.canonical = true → s.down = false → s.dmaThere ch = true → s.dmaState ch =
    1 → (s.dma ch).wait = none → s.dmaWord ch (s.dmaPc ch) = some w → bits w 63 60 = 4 → bits w 50 48 = 0 →
    ∃ t, exec (.wait ch) s = .next t ∧
      t.dmaState ch = 2 ∧
      t.fbit (Reg.DMA_STATUS_WPEND ch) = true ∧
      t.dmaPc ch = s.dmaPc ch ∧
      (t.dma ch).watch = some (bits w 47 32, ((bits w 31 0 + bits w 58 51 * (if s.dmaDepth ch = 0 then 0 else s.dmaI ch
        (s.dmaDepth ch - 1))) % 2 ^ 32), bit w 59) ∧
      (s.replyFree (dmaCoord s.devid ch) = true → t.sent = .sync s.devid (bits w 47 32) (if bit w 59 then 3 else 2)
        ((bits w 31 0 + bits w 58 51 * (if s.dmaDepth ch = 0 then 0 else s.dmaI ch (s.dmaDepth ch - 1))) % 2 ^ 32)
        (s.dmaQn ch) (dmaCoord s.devid ch + (s.iface (dmaCoord s.devid ch)).tag * 2 ^ 22) :: s.sent) ∧
      (s.replyFree (dmaCoord s.devid ch) = false → (s.iface (dmaCoord s.devid ch)).wait = [] → t.sent = s.sent ∧ (t.iface
        (dmaCoord s.devid ch)).wait = [(1, .sync s.devid (bits w 47 32) (if bit w 59 then 3 else 2) ((bits w 31 0 + bits
        w 58 51 * (if s.dmaDepth ch = 0 then 0 else s.dmaI ch (s.dmaDepth ch - 1))) % 2 ^ 32) (s.dmaQn ch) (dmaCoord
        s.devid ch + (s.iface (dmaCoord s.devid ch)).tag * 2 ^ 22))]) ∧
      t.mem = s.mem ∧
      (∀ reg : Nat, reg ∉ [Reg.DMA_STATUS ch, Reg.DMA_PC ch, Reg.DMA_FAULT_LO ch, Reg.DMA_FAULT_HI ch,
        Reg.MESH_NOROUTE_CNT] ++ each 2 Reg.BDMA_ERR_CNT ++ each 64 Reg.TDMA_ERR_CNT ++ each 16 Reg.IBL_DROP_CNT ++ each
        128 Reg.SEQ_STATUS → t.rd reg = s.rd reg)) ∧
  -- WAIT: a reserved bit is set: BAD_FIELD (R374) (R377)
  (∀ (s : State) (ch : Fin 1056) (w : Nat), s.canonical = true → s.down = false → s.dmaThere ch = true → s.dmaState ch =
    1 → (s.dma ch).wait = none → s.dmaWord ch (s.dmaPc ch) = some w → bits w 63 60 = 4 → bits w 50 48 ≠ 0 →
    ∃ t, exec (.wait ch) s = .next t ∧
      t.dmaState ch = 6 ∧
      t.fget (Reg.DMA_STATUS_ERR ch) = 2 ∧
      t.rd64 (Reg.DMA_FAULT_LO ch) = (s.dmaAddr ch (s.dmaPc ch)) % 2 ^ 64 ∧
      t.fbit (Reg.DMA_STATUS_IRQ ch) = true ∧
      .fault 16 7 ch 2 ∈ t.sent ∧
      (t.rd (dmaCnt ch 2)).toNat = satCount 32 (s.rd (dmaCnt ch 2)).toNat 1 ∧
      (t.dma ch).wait = none ∧
      t.dmaPc ch = s.dmaPc ch ∧
      t.mem = s.mem ∧
      (∀ reg : Nat, reg ∉ [Reg.DMA_STATUS ch, Reg.DMA_PC ch, Reg.DMA_FAULT_LO ch, Reg.DMA_FAULT_HI ch,
        Reg.MESH_NOROUTE_CNT] ++ each 2 Reg.BDMA_ERR_CNT ++ each 64 Reg.TDMA_ERR_CNT ++ each 16 Reg.IBL_DROP_CNT ++ each
        128 Reg.SEQ_STATUS → t.rd reg = s.rd reg)) ∧
  -- WAIT: the channel does not run, awaits a reply, or stands at another word, or there is no such channel (R377)
  (∀ (s : State) (ch : Fin 1056), s.canonical = true → s.down = false → (s.dmaWord ch (s.dmaPc ch)).all (fun w => decide
    (s.dmaState ch ≠ 1 ∨ (s.dma ch).wait ≠ none ∨ bits w 63 60 ≠ 4)) = true ∨ s.dmaThere ch = false →
    ∃ t, exec (.wait ch) s = .next t ∧
      t = s ∧
      t.mem = s.mem) ∧
  -- DMA_SIGNAL (R361, R378)
  (∀ (s : State) (ch : Fin 1056) (w : Nat), s.canonical = true → s.down = false → s.dmaThere ch = true → s.dmaState ch =
    1 → (s.dma ch).wait = none → s.dmaWord ch (s.dmaPc ch) = some w → bits w 63 60 = 5 → bits w 54 48 = 0 → (dmaTile ch =
    true → bit w 58 = false) → s.dmaPc ch + 1 < 131072 → (s.dma ch).lost.all (fun x => decide (x.kind ≠ 2 ∧ x.kind ≠ 4))
    = true →
    ∃ t, exec (.dmaSignal ch) s = .next t ∧
      (bits w 47 32 = 0xFFFF → t.sent = s.sent ∧ (t.dma ch).sigs = (s.dma ch).sigs) ∧
      (bits w 47 32 ≠ 0xFFFF → (t.dma ch).sigs = (s.dma ch).sigs ++ [(bits w 47 32, s.time)]) ∧
      (bits w 47 32 ≠ 0xFFFF → bit w 58 = false ∨ bits w 57 55 = s.devid → s.replyFree (dmaCoord s.devid ch) = true →
        t.sent = .sync s.devid (bits w 47 32) (if bit w 59 then 1 else 0) (bits w 31 0) 0 (dmaCoord s.devid ch + (s.iface
        (dmaCoord s.devid ch)).tag * 2 ^ 22) :: s.sent) ∧
      t.dmaPc ch = s.dmaPc ch + 1 ∧
      t.dmaState ch = 1 ∧
      t.mem = s.mem ∧
      (∀ reg : Nat, reg ∉ [Reg.DMA_STATUS ch, Reg.DMA_PC ch, Reg.DMA_FAULT_LO ch, Reg.DMA_FAULT_HI ch,
        Reg.MESH_NOROUTE_CNT] ++ each 2 Reg.BDMA_ERR_CNT ++ each 64 Reg.TDMA_ERR_CNT ++ each 16 Reg.IBL_DROP_CNT ++ each
        128 Reg.SEQ_STATUS → t.rd reg = s.rd reg)) ∧
  -- DMA_SIGNAL: an earlier write is not acknowledged yet (R361, R378) (R361, R378)
  (∀ (s : State) (ch : Fin 1056) (w : Nat), s.canonical = true → s.down = false → s.dmaThere ch = true → s.dmaState ch =
    1 → (s.dma ch).wait = none → s.dmaWord ch (s.dmaPc ch) = some w → bits w 63 60 = 5 → bits w 54 48 = 0 → (dmaTile ch =
    true → bit w 58 = false) → (s.dma ch).lost.any (fun x => decide (x.kind = 2 ∨ x.kind = 4)) = true →
    ∃ t, exec (.dmaSignal ch) s = .next t ∧
      t = s ∧
      t.mem = s.mem) ∧
  -- DMA_SIGNAL: a reserved bit is set: BAD_FIELD (R374) (R361, R378)
  (∀ (s : State) (ch : Fin 1056) (w : Nat), s.canonical = true → s.down = false → s.dmaThere ch = true → s.dmaState ch =
    1 → (s.dma ch).wait = none → s.dmaWord ch (s.dmaPc ch) = some w → bits w 63 60 = 5 → bits w 54 48 ≠ 0 ∨ dmaTile ch =
    true ∧ bit w 58 = true →
    ∃ t, exec (.dmaSignal ch) s = .next t ∧
      t.dmaState ch = 6 ∧
      t.fget (Reg.DMA_STATUS_ERR ch) = 2 ∧
      t.rd64 (Reg.DMA_FAULT_LO ch) = (s.dmaAddr ch (s.dmaPc ch)) % 2 ^ 64 ∧
      t.fbit (Reg.DMA_STATUS_IRQ ch) = true ∧
      .fault 16 7 ch 2 ∈ t.sent ∧
      (t.rd (dmaCnt ch 2)).toNat = satCount 32 (s.rd (dmaCnt ch 2)).toNat 1 ∧
      (t.dma ch).wait = none ∧
      t.dmaPc ch = s.dmaPc ch ∧
      t.mem = s.mem ∧
      (∀ reg : Nat, reg ∉ [Reg.DMA_STATUS ch, Reg.DMA_PC ch, Reg.DMA_FAULT_LO ch, Reg.DMA_FAULT_HI ch,
        Reg.MESH_NOROUTE_CNT] ++ each 2 Reg.BDMA_ERR_CNT ++ each 64 Reg.TDMA_ERR_CNT ++ each 16 Reg.IBL_DROP_CNT ++ each
        128 Reg.SEQ_STATUS → t.rd reg = s.rd reg)) ∧
  -- DMA_SIGNAL: the channel does not run, awaits a reply, or stands at another word, or there is no such channel (R361, R378)
  (∀ (s : State) (ch : Fin 1056), s.canonical = true → s.down = false → (s.dmaWord ch (s.dmaPc ch)).all (fun w => decide
    (s.dmaState ch ≠ 1 ∨ (s.dma ch).wait ≠ none ∨ bits w 63 60 ≠ 5)) = true ∨ s.dmaThere ch = false →
    ∃ t, exec (.dmaSignal ch) s = .next t ∧
      t = s ∧
      t.mem = s.mem) ∧
  -- DMA_BAD_OP (R374)
  (∀ (s : State) (ch : Fin 1056) (w : Nat), s.canonical = true → s.down = false → s.dmaThere ch = true → s.dmaState ch =
    1 → (s.dma ch).wait = none → s.dmaWord ch (s.dmaPc ch) = some w → bits w 63 60 = 0 ∨ (6 ≤ bits w 63 60 ∧ bits w 63 60
    ≠ 15) →
    ∃ t, exec (.dmaBadOp ch) s = .next t ∧
      t.dmaState ch = 6 ∧
      t.fget (Reg.DMA_STATUS_ERR ch) = 1 ∧
      t.rd64 (Reg.DMA_FAULT_LO ch) = (s.dmaAddr ch (s.dmaPc ch)) % 2 ^ 64 ∧
      t.fbit (Reg.DMA_STATUS_IRQ ch) = true ∧
      .fault 16 7 ch 1 ∈ t.sent ∧
      (t.rd (dmaCnt ch 2)).toNat = satCount 32 (s.rd (dmaCnt ch 2)).toNat 1 ∧
      (t.dma ch).wait = none ∧
      t.dmaPc ch = s.dmaPc ch ∧
      t.mem = s.mem ∧
      (∀ reg : Nat, reg ∉ [Reg.DMA_STATUS ch, Reg.DMA_PC ch, Reg.DMA_FAULT_LO ch, Reg.DMA_FAULT_HI ch,
        Reg.MESH_NOROUTE_CNT] ++ each 2 Reg.BDMA_ERR_CNT ++ each 64 Reg.TDMA_ERR_CNT ++ each 2 Reg.BDMA_NOTICE_DROP_CNT
        ++ each 64 Reg.TDMA_NOTICE_DROP_CNT ++ each 16 Reg.IBL_DROP_CNT ++ each 128 Reg.SEQ_STATUS → t.rd reg = s.rd
        reg)) ∧
  -- DMA_BAD_OP: the channel does not run, awaits a reply, or stands at a word of R374, or there is no such channel (R374)
  (∀ (s : State) (ch : Fin 1056), s.canonical = true → s.down = false → (s.dmaWord ch (s.dmaPc ch)).all (fun w => decide
    (s.dmaState ch ≠ 1 ∨ (s.dma ch).wait ≠ none ∨ (bits w 63 60 ≠ 0 ∧ (bits w 63 60 < 6 ∨ bits w 63 60 = 15)))) = true ∨
    s.dmaThere ch = false →
    ∃ t, exec (.dmaBadOp ch) s = .next t ∧
      t = s ∧
      t.mem = s.mem) ∧
  -- DMA_END (R379)
  (∀ (s : State) (ch : Fin 1056) (w : Nat), s.canonical = true → s.down = false → s.dmaThere ch = true → s.dmaState ch =
    1 → (s.dma ch).wait = none → s.dmaWord ch (s.dmaPc ch) = some w → bits w 63 60 = 15 → bits w 58 16 = 0 →
    ∃ t, exec (.dmaEnd ch) s = .next t ∧
      t.fget (Reg.DMA_STATUS_CODE ch) = bits w 15 0 ∧
      t.dmaState ch = 5 ∧
      t.dmaDepth ch = 0 ∧
      t.fbit (Reg.DMA_STATUS_IRQ ch) = (bit w 59 || s.fbit (Reg.DMA_STATUS_IRQ ch)) ∧
      (t.rd (dmaCnt ch 1)).toNat = satCount 32 (s.rd (dmaCnt ch 1)).toNat 1 ∧
      (bit w 59 = false → t.sent = s.sent) ∧
      (dmaTile ch = false → bit w 59 = true → s.fbit (dmaIe ch) = true → s.fbit (Reg.DMA_STATUS_IRQ ch) = false → .irq
        128 4 ch true ∈ t.sent) ∧
      t.mem = s.mem ∧
      (∀ reg : Nat, reg ∉ [Reg.DMA_STATUS ch, Reg.DMA_PC ch, Reg.DMA_FAULT_LO ch, Reg.DMA_FAULT_HI ch,
        Reg.MESH_NOROUTE_CNT] ++ each 2 Reg.BDMA_ERR_CNT ++ each 64 Reg.TDMA_ERR_CNT ++ each 2 Reg.BDMA_END_CNT ++ each
        64 Reg.TDMA_END_CNT ++ each 16 Reg.IBL_DROP_CNT ++ each 128 Reg.SEQ_STATUS → t.rd reg = s.rd reg)) ∧
  -- DMA_END: a reserved bit is set: BAD_FIELD (R374) (R379)
  (∀ (s : State) (ch : Fin 1056) (w : Nat), s.canonical = true → s.down = false → s.dmaThere ch = true → s.dmaState ch =
    1 → (s.dma ch).wait = none → s.dmaWord ch (s.dmaPc ch) = some w → bits w 63 60 = 15 → bits w 58 16 ≠ 0 →
    ∃ t, exec (.dmaEnd ch) s = .next t ∧
      t.dmaState ch = 6 ∧
      t.fget (Reg.DMA_STATUS_ERR ch) = 2 ∧
      t.rd64 (Reg.DMA_FAULT_LO ch) = (s.dmaAddr ch (s.dmaPc ch)) % 2 ^ 64 ∧
      t.fbit (Reg.DMA_STATUS_IRQ ch) = true ∧
      .fault 16 7 ch 2 ∈ t.sent ∧
      (t.rd (dmaCnt ch 2)).toNat = satCount 32 (s.rd (dmaCnt ch 2)).toNat 1 ∧
      (t.dma ch).wait = none ∧
      t.dmaPc ch = s.dmaPc ch ∧
      t.mem = s.mem ∧
      (∀ reg : Nat, reg ∉ [Reg.DMA_STATUS ch, Reg.DMA_PC ch, Reg.DMA_FAULT_LO ch, Reg.DMA_FAULT_HI ch,
        Reg.MESH_NOROUTE_CNT] ++ each 2 Reg.BDMA_ERR_CNT ++ each 64 Reg.TDMA_ERR_CNT ++ each 2 Reg.BDMA_END_CNT ++ each
        64 Reg.TDMA_END_CNT ++ each 16 Reg.IBL_DROP_CNT ++ each 128 Reg.SEQ_STATUS → t.rd reg = s.rd reg)) ∧
  -- DMA_END: the channel does not run, awaits a reply, or stands at another word, or there is no such channel (R379)
  (∀ (s : State) (ch : Fin 1056), s.canonical = true → s.down = false → (s.dmaWord ch (s.dmaPc ch)).all (fun w => decide
    (s.dmaState ch ≠ 1 ∨ (s.dma ch).wait ≠ none ∨ bits w 63 60 ≠ 15)) = true ∨ s.dmaThere ch = false →
    ∃ t, exec (.dmaEnd ch) s = .next t ∧
      t = s ∧
      t.mem = s.mem)

/-- DMA channels: notices, replies and time limits complete. A notice for a waiting channel, a watch sent again, a host
completion and a reply that does not come. (11_dma_programs.md.) -/
def Obligations.DmaAnswersComplete : Prop :=
  -- DMA_NOTICE (R377, R386)
  (∀ (s : State) (ch : Fin 1056) (obj : BitVec 16) (thr : Word) (eq : Bool) (kind : Fin 3), s.canonical = true → s.down =
    false → s.dmaThere ch = true → (s.dma ch).watch = some (obj.toNat, thr.toNat, eq) → (s.dma ch).again = none → s.dmaPc
    ch + 1 < 131072 → (kind = 1 → (s.dma ch).wait = none) →
    ∃ t, exec (.dmaNotice ch obj thr eq kind) s = .next t ∧
      (kind = 0 → t.dmaState ch = (if s.dmaState ch = 2 then 1 else s.dmaState ch) ∧ t.dmaPc ch = s.dmaPc ch + 1 ∧ (t.dma
        ch).watch = none ∧ t.fbit (Reg.DMA_STATUS_WPEND ch) = false) ∧
      (kind = 1 → t.dmaState ch = 6 ∧ t.fget (Reg.DMA_STATUS_ERR ch) = 6 ∧ t.rd64 (Reg.DMA_FAULT_LO ch) = (obj.toNat) % 2
        ^ 64 ∧ t.fbit (Reg.DMA_STATUS_IRQ ch) = true ∧ .fault 16 7 ch 6 ∈ t.sent ∧ (t.rd (dmaCnt ch 2)).toNat = satCount
        32 (s.rd (dmaCnt ch 2)).toNat 1 ∧ (t.dma ch).wait = none) ∧
      (kind = 2 → s.dmaState ch ≠ 4 → (t.dma ch).again = some (s.time + 1000) ∧ (t.dma ch).watch = (s.dma ch).watch ∧
        t.dmaState ch = s.dmaState ch) ∧
      (kind = 2 → s.dmaState ch = 4 → (t.dma ch).watch = none ∧ t.fbit (Reg.DMA_STATUS_WPEND ch) = false ∧ t.dmaState ch
        = 4) ∧
      ((s.iface (dmaCoord s.devid ch)).wait = [] → (t.iface (dmaCoord s.devid ch)).held = (s.iface (dmaCoord s.devid
        ch)).held - 1) ∧
      ((s.iface (dmaCoord s.devid ch)).wait = [] → kind ≠ 1 → t.sent = s.sent) ∧
      t.mem = s.mem ∧
      (∀ reg : Nat, reg ∉ [Reg.DMA_STATUS ch, Reg.DMA_PC ch, Reg.DMA_FAULT_LO ch, Reg.DMA_FAULT_HI ch,
        Reg.MESH_NOROUTE_CNT] ++ each 2 Reg.BDMA_ERR_CNT ++ each 64 Reg.TDMA_ERR_CNT ++ each 2 Reg.BDMA_NOTICE_DROP_CNT
        ++ each 64 Reg.TDMA_NOTICE_DROP_CNT ++ each 16 Reg.IBL_DROP_CNT ++ each 128 Reg.SEQ_STATUS → t.rd reg = s.rd
        reg)) ∧
  -- DMA_NOTICE: a notice the channel does not wait for is dropped and counted (R377, R386)
  (∀ (s : State) (ch : Fin 1056) (obj : BitVec 16) (thr : Word) (eq : Bool) (kind : Fin 3), s.canonical = true → s.down =
    false → s.dmaThere ch = true → (s.dma ch).watch ≠ some (obj.toNat, thr.toNat, eq) ∨ (s.dma ch).again ≠ none →
    ∃ t, exec (.dmaNotice ch obj thr eq kind) s = .next t ∧
      (t.rd (dmaCnt ch 3)).toNat = satCount 32 (s.rd (dmaCnt ch 3)).toNat 1 ∧
      t.dmas = s.dmas ∧
      t.dmaState ch = s.dmaState ch ∧
      t.mem = s.mem ∧
      t.sent = s.sent ∧
      (∀ reg : Nat, reg ∉ [Reg.DMA_STATUS ch, Reg.DMA_PC ch, Reg.DMA_FAULT_LO ch, Reg.DMA_FAULT_HI ch,
        Reg.MESH_NOROUTE_CNT] ++ each 2 Reg.BDMA_ERR_CNT ++ each 64 Reg.TDMA_ERR_CNT ++ each 2 Reg.BDMA_NOTICE_DROP_CNT
        ++ each 64 Reg.TDMA_NOTICE_DROP_CNT ++ each 16 Reg.IBL_DROP_CNT ++ each 128 Reg.SEQ_STATUS → t.rd reg = s.rd
        reg)) ∧
  -- DMA_NOTICE: no such channel (R377, R386)
  (∀ (s : State) (ch : Fin 1056) (obj : BitVec 16) (thr : Word) (eq : Bool) (kind : Fin 3), s.canonical = true → s.down =
    false → s.dmaThere ch = false →
    ∃ t, exec (.dmaNotice ch obj thr eq kind) s = .next t ∧
      t = s ∧
      t.mem = s.mem) ∧
  -- DMA_WATCH_RESEND (R377)
  (∀ (s : State) (ch : Fin 1056) (e obj v : Nat) (eq : Bool), s.canonical = true → s.down = false → s.dmaThere ch = true
    → (s.dma ch).again = some e → e ≤ s.time → (s.dma ch).watch = some (obj, v, eq) →
    ∃ t, exec (.dmaWatchResend ch) s = .next t ∧
      (t.dma ch).again = none ∧
      (t.dma ch).watch = some (obj, v, eq) ∧
      (s.replyFree (dmaCoord s.devid ch) = true → t.sent = .sync s.devid obj (if eq then 3 else 2) v (s.dmaQn ch)
        (dmaCoord s.devid ch + (s.iface (dmaCoord s.devid ch)).tag * 2 ^ 22) :: s.sent) ∧
      (t.rd (dmaCnt ch 4)).toNat = satCount 32 (s.rd (dmaCnt ch 4)).toNat 1 ∧
      t.mem = s.mem ∧
      (∀ reg : Nat, reg ∉ [Reg.DMA_STATUS ch, Reg.DMA_PC ch, Reg.DMA_FAULT_LO ch, Reg.DMA_FAULT_HI ch,
        Reg.MESH_NOROUTE_CNT] ++ each 2 Reg.BDMA_ERR_CNT ++ each 64 Reg.TDMA_ERR_CNT ++ each 2 Reg.BDMA_WATCH_RETRY_CNT
        ++ each 64 Reg.TDMA_WATCH_RETRY_CNT ++ each 16 Reg.IBL_DROP_CNT → t.rd reg = s.rd reg)) ∧
  -- DMA_WATCH_RESEND: no WATCH is due again, or there is no such channel (R377)
  (∀ (s : State) (ch : Fin 1056), s.canonical = true → s.down = false → (s.dma ch).again.all (fun e => decide (s.time <
    e)) = true ∨ s.dmaThere ch = false →
    ∃ t, exec (.dmaWatchResend ch) s = .next t ∧
      t = s ∧
      t.mem = s.mem) ∧
  -- HOST_COMPLETION (R375, R389)
  (∀ (s : State) (ch : Fin 1056) (ok : Bool) (data : List Byte) (w : DmaWait), s.canonical = true → s.down = false →
    s.dmaThere ch = true → (s.dma ch).lost.all (fun w => decide (w.kind < 3)) = true → (s.dma ch).wait = some w → w.kind
    = 3 ∨ w.kind = 4 → (s.dma ch).err = none → ok = false →
    ∃ t, exec (.hostCompletion ch ok data) s = .next t ∧
      t.dmaState ch = 6 ∧
      t.fget (Reg.DMA_STATUS_ERR ch) = 5 ∧
      t.rd64 (Reg.DMA_FAULT_LO ch) = (w.addr) % 2 ^ 64 ∧
      t.fbit (Reg.DMA_STATUS_IRQ ch) = true ∧
      .fault 16 7 ch 5 ∈ t.sent ∧
      (t.rd (dmaCnt ch 2)).toNat = satCount 32 (s.rd (dmaCnt ch 2)).toNat 1 ∧
      (t.dma ch).wait = none ∧
      t.mem = s.mem ∧
      (∀ reg : Nat, reg ∉ memorySide → t.rd reg = s.rd reg)) ∧
  -- HOST_COMPLETION: a host write is complete (R375, R389)
  (∀ (s : State) (ch : Fin 1056) (ok : Bool) (data : List Byte) (w : DmaWait) (a b c : Nat), s.canonical = true → s.down
    = false → s.dmaThere ch = true → (s.dma ch).lost.all (fun w => decide (w.kind < 3)) = true → (s.dma ch).wait = some w
    → w.kind = 4 → ok = true → (s.dma ch).err = none → (s.dma ch).buf = [] → s.dmaMove ch = some (a, b, c) → bits a 55 52
    = 1 → s.dmaDone ch + w.n < bits a 31 0 →
    ∃ t, exec (.hostCompletion ch ok data) s = .next t ∧
      t.dmaDone ch = s.dmaDone ch + w.n ∧
      (t.rd (dmaCnt ch 0)).toNat = ((s.rd (dmaCnt ch 0)).toNat + w.n) % 2 ^ 32 ∧
      (t.dma ch).wait = none ∧
      t.sent = s.sent ∧
      t.dmaState ch = s.dmaState ch ∧
      t.mem = s.mem ∧
      (∀ reg : Nat, reg ∉ memorySide → t.rd reg = s.rd reg)) ∧
  -- HOST_COMPLETION: host data comes and is written to host space (R375, R389)
  (∀ (s : State) (ch : Fin 1056) (ok : Bool) (data : List Byte) (w : DmaWait) (a b c : Nat), s.canonical = true → s.down
    = false → s.dmaThere ch = true → (s.dma ch).lost.all (fun w => decide (w.kind < 3)) = true → (s.dma ch).wait = some w
    → w.kind = 3 → ok = true → (s.dma ch).err = none → s.dmaMove ch = some (a, b, c) → bits a 55 52 = 5 → data.length =
    w.skip + w.n → 0 < w.n → w.n ≤ s.aon.pcieMps → s.hostReady = true →
    ∃ t, exec (.hostCompletion ch ok data) s = .next t ∧
      t.sent = .hostWrite ((s.dmaSum ch false 1 c + s.dmaDone ch) % 2 ^ 64) (data.drop w.skip) :: s.sent ∧
      t.dmaDone ch = s.dmaDone ch ∧
      (t.dma ch).buf = [] ∧
      t.mem = s.mem ∧
      (∀ reg : Nat, reg ∉ memorySide → t.rd reg = s.rd reg)) ∧
  -- HOST_COMPLETION: host data comes and is written to a slice (R375, R389)
  (∀ (s : State) (ch : Fin 1056) (ok : Bool) (data : List Byte) (w : DmaWait) (a b c set i : Nat), s.canonical = true →
    s.down = false → s.dmaThere ch = true → (s.dma ch).lost.all (fun w => decide (w.kind < 3)) = true → (s.dma ch).wait =
    some w → w.kind = 3 → ok = true → (s.dma ch).err = none → s.dmaMove ch = some (a, b, c) → bits a 55 52 = 4 →
    data.length = w.skip + w.n → 0 < w.n → s.dmaDone ch + w.n < bits a 31 0 → (s.dmaSum ch false 0 c + s.dmaDone ch) % 64
    + w.n ≤ 64 → 0x80000000000 ≤ (s.dmaSum ch false 0 c + s.dmaDone ch) → (s.dmaSum ch false 0 c + s.dmaDone ch) <
    0x80030000000 → (Who.dma ch).set = some set → s.setAllows set 1 ((s.dmaSum ch false 0 c + s.dmaDone ch) / 4096 *
    4096) 1 = true → s.served (s.dmaSum ch false 0 c + s.dmaDone ch) = 0 → s.bad = [] → i < w.n → (kvUnits.any fun x =>
    s.fbit (Reg.ING_KV_CFG_EN x.1 x.2)) = false →
    ∃ t, exec (.hostCompletion ch ok data) s = .next t ∧
      t.mget ((s.dmaSum ch false 0 c + s.dmaDone ch) + i) = data.getD (w.skip + i) 0 ∧
      t.dmaDone ch = s.dmaDone ch + w.n ∧
      (t.dma ch).buf = [] ∧
      (t.dma ch).wait = none ∧
      (∀ x : Nat, x < (s.dmaSum ch false 0 c + s.dmaDone ch) ∨ (s.dmaSum ch false 0 c + s.dmaDone ch) + w.n ≤ x → t.mget
        x = s.mget x) ∧
      (∀ reg : Nat, reg ∉ memorySide → t.rd reg = s.rd reg)) ∧
  -- HOST_COMPLETION: the completion of a request from before a disable is discarded (R387) (R375, R389)
  (∀ (s : State) (ch : Fin 1056) (ok : Bool) (data : List Byte) (w : DmaWait), s.canonical = true → s.down = false →
    s.dmaThere ch = true → (s.dma ch).lost.find? (fun w => decide (3 ≤ w.kind)) = some w →
    ∃ t, exec (.hostCompletion ch ok data) s = .next t ∧
      (t.dma ch).lost = (s.dma ch).lost.erase w ∧
      (t.dma ch).wait = (s.dma ch).wait ∧
      (t.dma ch).buf = (s.dma ch).buf ∧
      t.mem = s.mem ∧
      t.sent = s.sent ∧
      t.csr = s.csr) ∧
  -- HOST_COMPLETION: no host request is out, or there is no such channel (R375, R389)
  (∀ (s : State) (ch : Fin 1056) (ok : Bool) (data : List Byte), s.canonical = true → s.down = false → (s.dma
    ch).lost.all (fun w => decide (w.kind < 3)) = true ∧ (s.dma ch).wait.all (fun w => decide (w.kind ≠ 3 ∧ w.kind ≠ 4))
    = true ∨ s.dmaThere ch = false →
    ∃ t, exec (.hostCompletion ch ok data) s = .next t ∧
      t = s) ∧
  -- DMA_REPLY_TIMEOUT (R375, R389)
  (∀ (s : State) (ch : Fin 1056) (w : DmaWait), s.canonical = true → s.down = false → s.dmaThere ch = true → (s.dma
    ch).wait = some w → w.sentAt + 1000000 ≤ s.time → (s.dma ch).err = none →
    ∃ t, exec (.dmaReplyTimeout ch) s = .next t ∧
      t.dmaState ch = 6 ∧
      t.fget (Reg.DMA_STATUS_ERR ch) = 5 ∧
      t.rd64 (Reg.DMA_FAULT_LO ch) = (w.addr) % 2 ^ 64 ∧
      t.fbit (Reg.DMA_STATUS_IRQ ch) = true ∧
      .fault 16 7 ch 5 ∈ t.sent ∧
      (t.rd (dmaCnt ch 2)).toNat = satCount 32 (s.rd (dmaCnt ch 2)).toNat 1 ∧
      (t.dma ch).wait = none ∧
      t.mem = s.mem ∧
      (∀ reg : Nat, reg ∉ [Reg.DMA_STATUS ch, Reg.DMA_PC ch, Reg.DMA_FAULT_LO ch, Reg.DMA_FAULT_HI ch,
        Reg.MESH_NOROUTE_CNT] ++ each 2 Reg.BDMA_ERR_CNT ++ each 64 Reg.TDMA_ERR_CNT ++ each 2 Reg.BDMA_NOTICE_DROP_CNT
        ++ each 64 Reg.TDMA_NOTICE_DROP_CNT ++ each 16 Reg.IBL_DROP_CNT ++ each 128 Reg.SEQ_STATUS → t.rd reg = s.rd
        reg)) ∧
  -- DMA_REPLY_TIMEOUT: a SIGNAL without a reply (R375, R389)
  (∀ (s : State) (ch : Fin 1056) (obj e : Nat) (rest : List (Nat × Nat)), s.canonical = true → s.down = false →
    s.dmaThere ch = true → (s.dma ch).wait = none → (s.dma ch).sigs = (obj, e) :: rest → e + 1000000 ≤ s.time →
    ∃ t, exec (.dmaReplyTimeout ch) s = .next t ∧
      t.dmaState ch = 6 ∧
      t.fget (Reg.DMA_STATUS_ERR ch) = 5 ∧
      t.rd64 (Reg.DMA_FAULT_LO ch) = (obj) % 2 ^ 64 ∧
      t.fbit (Reg.DMA_STATUS_IRQ ch) = true ∧
      .fault 16 7 ch 5 ∈ t.sent ∧
      (t.rd (dmaCnt ch 2)).toNat = satCount 32 (s.rd (dmaCnt ch 2)).toNat 1 ∧
      (t.dma ch).wait = none ∧
      (t.dma ch).sigs = rest ∧
      t.mem = s.mem ∧
      (∀ reg : Nat, reg ∉ [Reg.DMA_STATUS ch, Reg.DMA_PC ch, Reg.DMA_FAULT_LO ch, Reg.DMA_FAULT_HI ch,
        Reg.MESH_NOROUTE_CNT] ++ each 2 Reg.BDMA_ERR_CNT ++ each 64 Reg.TDMA_ERR_CNT ++ each 2 Reg.BDMA_NOTICE_DROP_CNT
        ++ each 64 Reg.TDMA_NOTICE_DROP_CNT ++ each 16 Reg.IBL_DROP_CNT ++ each 128 Reg.SEQ_STATUS → t.rd reg = s.rd
        reg)) ∧
  -- DMA_REPLY_TIMEOUT: 1 ms has not passed: only requests given up are forgotten (R375, R389)
  (∀ (s : State) (ch : Fin 1056), s.canonical = true → s.down = false → s.dmaThere ch = true → (s.dma ch).wait.all (fun w
    => decide (s.time < w.sentAt + 1000000)) = true → (s.dma ch).wait ≠ none ∨ ((s.dma ch).sigs.head?).all (fun x =>
    decide (s.time < x.2 + 1000000)) = true →
    ∃ t, exec (.dmaReplyTimeout ch) s = .next t ∧
      (t.dma ch).wait = (s.dma ch).wait ∧
      (t.dma ch).sigs = (s.dma ch).sigs ∧
      (t.dma ch).lost = (s.dma ch).lost.filter (fun w => decide (s.time < w.sentAt + 1000000)) ∧
      t.mem = s.mem ∧
      t.sent = s.sent ∧
      t.csr = s.csr)

/-- DDR4 channels: training, retraining and errors complete. Training and retraining of a channel, its alert, the patrol
read and a request answered BUSY that is sent again. (12_memories.md.) -/
def Obligations.DdrTrainingCommandsComplete : Prop :=
  -- DDR_ENABLE (R414)
  (∀ (s : State) (m : Master) (c : Fin 8), s.canonical = true → s.admits m (Reg.DDR_CTL c) = true → s.fbit
    (Reg.DDR_CTL_EN c) = false → s.islOff (74 + c) = false →
    ∃ t, exec (.ddrEnable m c) s = .next t ∧
      t.fget (Reg.DDR_STATUS_CFG_ERR c) = s.ddrCode c ∧
      t.fbit (Reg.DDR_CTL_EN c) = decide (s.ddrCode c = 0) ∧
      (s.ddrCode c = 0 → t.fbit (Reg.DDR_STATUS_TRAINED c) = false ∧ t.fbit (Reg.DDR_STATUS_FAILED c) = false) ∧
      t.ddrs = s.ddrs ∧
      t.mem = s.mem ∧
      t.sent = s.sent ∧
      (∀ reg : Nat, reg ∉ [Reg.DDR_CTL c, Reg.DDR_STATUS c] ++ accessRegs (Reg.DDR_CTL c) → t.rd reg = s.rd reg)) ∧
  -- DDR_ENABLE: enabled already, or the island is off (R414)
  (∀ (s : State) (m : Master) (c : Fin 8), s.canonical = true → s.admits m (Reg.DDR_CTL c) = true → s.fbit
    (Reg.DDR_CTL_EN c) = true ∨ s.islOff (74 + c) = true →
    ∃ t, exec (.ddrEnable m c) s = .next t ∧
      t.ddrs = s.ddrs ∧
      t.fbit (Reg.DDR_CTL_EN c) = s.fbit (Reg.DDR_CTL_EN c) ∧
      t.mem = s.mem ∧
      t.sent = s.sent ∧
      (∀ reg : Nat, reg ∉ accessRegs (Reg.DDR_CTL c) → t.rd reg = s.rd reg)) ∧
  -- DDR_TRAINING_END (R414)
  (∀ (s : State) (c : Fin 8) (ok : Bool) (celsius : BitVec 8), s.canonical = true → s.down = false → s.fbit
    (Reg.DDR_CTL_EN c) = true → s.fbit (Reg.DDR_STATUS_TRAINED c) = false → s.fbit (Reg.DDR_STATUS_FAILED c) = false →
    ∃ t, exec (.ddrTrainingEnd c ok celsius) s = .next t ∧
      t.fbit (Reg.DDR_STATUS_TRAINED c) = ok ∧
      (ok = false → t.fget (Reg.DDR_STATUS_CFG_ERR c) = 4) ∧
      (ok = true → (t.ddr c).temp = celsius.toInt ∧ (t.ddr c).tick = s.aon.slowTicks ∧ (t.ddr c).patrol = s.time) ∧
      t.mem = s.mem ∧
      t.sent = s.sent ∧
      (∀ reg : Nat, reg ∉ [Reg.DDR_STATUS c] → t.rd reg = s.rd reg)) ∧
  -- DDR_TRAINING_END: no training runs (R414)
  (∀ (s : State) (c : Fin 8) (ok : Bool) (celsius : BitVec 8), s.canonical = true → s.down = false → s.fbit
    (Reg.DDR_CTL_EN c) = false ∨ s.fbit (Reg.DDR_STATUS_TRAINED c) = true ∨ s.fbit (Reg.DDR_STATUS_FAILED c) = true →
    ∃ t, exec (.ddrTrainingEnd c ok celsius) s = .next t ∧
      t = s ∧
      t.mem = s.mem) ∧
  -- DDR_RETRAIN_REQUEST (R412, R413)
  (∀ (s : State) (m : Master) (c : Fin 8), s.canonical = true → s.admits m (Reg.DDR_CTL c) = true → s.ddrServes c = true
    → s.fbit (Reg.DDR_STATUS_RETRAINING c) = false → s.fbit (Reg.DDR_STATUS_WAITING c) = false →
    ∃ t, exec (.ddrRetrainRequest m c) s = .next t ∧
      t.fbit (Reg.DDR_STATUS_WAITING c) = true ∧
      t.fbit (Reg.DDR_STATUS_RETRAINING c) = false ∧
      t.ddrs = s.ddrs ∧
      t.mem = s.mem ∧
      t.sent = s.sent ∧
      (∀ reg : Nat, reg ∉ [Reg.DDR_STATUS c] ++ accessRegs (Reg.DDR_CTL c) → t.rd reg = s.rd reg)) ∧
  -- DDR_RETRAIN_REQUEST: it retrains, or waits to: ignored (R413) (R412, R413)
  (∀ (s : State) (m : Master) (c : Fin 8), s.canonical = true → s.admits m (Reg.DDR_CTL c) = true → s.fbit
    (Reg.DDR_STATUS_RETRAINING c) = true ∨ s.fbit (Reg.DDR_STATUS_WAITING c) = true →
    ∃ t, exec (.ddrRetrainRequest m c) s = .next t ∧
      t.fbit (Reg.DDR_STATUS_CFG_IGNORED c) = true ∧
      t.ddrs = s.ddrs ∧
      t.mem = s.mem ∧
      t.sent = s.sent ∧
      (∀ reg : Nat, reg ∉ [Reg.DDR_STATUS c] ++ accessRegs (Reg.DDR_CTL c) → t.rd reg = s.rd reg)) ∧
  -- DDR_RETRAIN_REQUEST: the channel does not serve (R412, R413)
  (∀ (s : State) (m : Master) (c : Fin 8), s.canonical = true → s.admits m (Reg.DDR_CTL c) = true → s.ddrServes c = false
    → s.fbit (Reg.DDR_STATUS_RETRAINING c) = false → s.fbit (Reg.DDR_STATUS_WAITING c) = false →
    ∃ t, exec (.ddrRetrainRequest m c) s = .next t ∧
      t.ddrs = s.ddrs ∧
      t.fbit (Reg.DDR_STATUS_WAITING c) = false ∧
      t.mem = s.mem ∧
      t.sent = s.sent ∧
      (∀ reg : Nat, reg ∉ accessRegs (Reg.DDR_CTL c) → t.rd reg = s.rd reg)) ∧
  -- DDR_RETRAIN_PERIOD (R412, R567)
  (∀ (s : State) (c : Fin 8), s.canonical = true → s.down = false → s.ddrMayAsk c = true → s.fget
    (Reg.DDR_RETRAIN_CFG_PERIOD c) ≠ 0 → (s.ddr c).tick + s.fget (Reg.DDR_RETRAIN_CFG_PERIOD c) ≤ s.aon.slowTicks →
    ∃ t, exec (.ddrRetrainPeriod c) s = .next t ∧
      t.fbit (Reg.DDR_STATUS_WAITING c) = true ∧
      (s.islState (74 + c) = 2 → t.islState (74 + c) = 3) ∧
      t.ddrs = s.ddrs ∧
      t.mem = s.mem ∧
      t.sent = s.sent ∧
      (∀ reg : Nat, reg ∉ [Reg.DDR_STATUS c] ++ each 102 Reg.PWR_ISL_STAT → t.rd reg = s.rd reg)) ∧
  -- DDR_RETRAIN_PERIOD: no period has passed (R412, R567)
  (∀ (s : State) (c : Fin 8), s.canonical = true → s.down = false → s.ddrMayAsk c = false ∨ s.fget
    (Reg.DDR_RETRAIN_CFG_PERIOD c) = 0 ∨ s.aon.slowTicks < (s.ddr c).tick + s.fget (Reg.DDR_RETRAIN_CFG_PERIOD c) →
    ∃ t, exec (.ddrRetrainPeriod c) s = .next t ∧
      t = s ∧
      t.mem = s.mem) ∧
  -- DDR_RETRAIN_TEMP (R412)
  (∀ (s : State) (c : Fin 8) (celsius : BitVec 8), s.canonical = true → s.down = false → s.ddrMayAsk c = true → s.fget
    (Reg.DDR_RETRAIN_CFG_TEMP_DELTA c) ≠ 0 → s.fget (Reg.DDR_RETRAIN_CFG_TEMP_DELTA c) ≤ (celsius.toInt - (s.ddr
    c).temp).natAbs →
    ∃ t, exec (.ddrRetrainTemp c celsius) s = .next t ∧
      t.fbit (Reg.DDR_STATUS_WAITING c) = true ∧
      (s.islState (74 + c) = 2 → t.islState (74 + c) = 3) ∧
      t.ddrs = s.ddrs ∧
      t.mem = s.mem ∧
      t.sent = s.sent ∧
      (∀ reg : Nat, reg ∉ [Reg.DDR_STATUS c] ++ each 102 Reg.PWR_ISL_STAT → t.rd reg = s.rd reg)) ∧
  -- DDR_RETRAIN_TEMP: the temperature has not moved so far (R412)
  (∀ (s : State) (c : Fin 8) (celsius : BitVec 8), s.canonical = true → s.down = false → s.ddrMayAsk c = false ∨ s.fget
    (Reg.DDR_RETRAIN_CFG_TEMP_DELTA c) = 0 ∨ (celsius.toInt - (s.ddr c).temp).natAbs < s.fget
    (Reg.DDR_RETRAIN_CFG_TEMP_DELTA c) →
    ∃ t, exec (.ddrRetrainTemp c celsius) s = .next t ∧
      t = s ∧
      t.mem = s.mem) ∧
  -- DDR_RETRAIN_GRANT (R412)
  (∀ (s : State) (c : Nat), s.canonical = true → s.down = false → ((List.range 8).any fun k => s.fbit
    (Reg.DDR_STATUS_RETRAINING k)) = false → (List.range 8).find? (fun k => s.fbit (Reg.DDR_STATUS_WAITING k)) = some c →
    ∃ t, exec .ddrRetrainGrant s = .next t ∧
      t.fbit (Reg.DDR_STATUS_WAITING c) = false ∧
      t.fbit (Reg.DDR_STATUS_RETRAINING c) = true ∧
      (t.ddr c).began = s.time ∧
      (t.ddr c).queue = (s.ddr c).queue ∧
      t.mem = s.mem ∧
      t.sent = s.sent ∧
      (∀ reg : Nat, reg ∉ each 8 Reg.DDR_STATUS → t.rd reg = s.rd reg)) ∧
  -- DDR_RETRAIN_GRANT: one retrains, or none waits (R412)
  (∀ (s : State), s.canonical = true → s.down = false → ((List.range 8).any fun k => s.fbit (Reg.DDR_STATUS_RETRAINING
    k)) = true ∨ ((List.range 8).any fun k => s.fbit (Reg.DDR_STATUS_WAITING k)) = false →
    ∃ t, exec .ddrRetrainGrant s = .next t ∧
      t = s ∧
      t.mem = s.mem) ∧
  -- DDR_RETRAIN_END (R412)
  (∀ (s : State) (c : Fin 8) (celsius : BitVec 8), s.canonical = true → s.down = false → s.fbit
    (Reg.DDR_STATUS_RETRAINING c) = true → s.time ≤ (s.ddr c).began + s.ddrMax c → (s.ddr c).queue = [] →
    ∃ t, exec (.ddrRetrainEnd c celsius) s = .next t ∧
      t.fbit (Reg.DDR_STATUS_RETRAINING c) = false ∧
      t.fbit (Reg.DDR_STATUS_TRAINED c) = true ∧
      (t.rd (Reg.DDR_TRAIN_LAST c)).toNat = (s.time - (s.ddr c).began) % 2 ^ 32 ∧
      (t.rd (Reg.DDR_RETRAIN_CNT c)).toNat = satCount 32 (s.rd (Reg.DDR_RETRAIN_CNT c)).toNat 1 ∧
      (t.ddr c).temp = celsius.toInt ∧
      (t.ddr c).tick = s.aon.slowTicks ∧
      (t.ddr c).patrol = s.time ∧
      t.mem = s.mem ∧
      t.sent = s.sent ∧
      (∀ reg : Nat, reg ∉ [Reg.DDR_STATUS c, Reg.DDR_RETRAIN_CNT c, Reg.DDR_TRAIN_LAST c] ++ memorySide → t.rd reg = s.rd
        reg)) ∧
  -- DDR_RETRAIN_END: a write that it held is performed and answered (R411) (R412)
  (∀ (s : State) (c : Fin 8) (celsius : BitVec 8) (r : DdrReq) (a : Nat) (b : Byte) (x : Nat), s.canonical = true →
    s.down = false → s.fbit (Reg.DDR_STATUS_RETRAINING c) = true → s.time ≤ (s.ddr c).began + s.ddrMax c → (s.ddr
    c).queue = [r] → r.n = 0 → r.who = .aon → r.back = .core none → r.data = [(a, b)] → r.ecc = .none → placeOf a = .ddr
    → s.bad = [] → (s.foff (Reg.DDR_STATUS_RETRAINING c)).served a = 0 → (kvUnits.any fun x => s.fbit (Reg.ING_KV_CFG_EN
    x.1 x.2)) = false →
    ∃ t, exec (.ddrRetrainEnd c celsius) s = .next t ∧
      t.mget a = b ∧
      (x ≠ a → t.mget x = s.mget x) ∧
      t.sent = .ack :: s.sent ∧
      (t.ddr c).queue = [] ∧
      (∀ reg : Nat, reg ∉ [Reg.DDR_STATUS c, Reg.DDR_RETRAIN_CNT c, Reg.DDR_TRAIN_LAST c] ++ memorySide → t.rd reg = s.rd
        reg)) ∧
  -- DDR_RETRAIN_END: it does not retrain, or MAX_US has passed (R412)
  (∀ (s : State) (c : Fin 8) (celsius : BitVec 8), s.canonical = true → s.down = false → s.fbit
    (Reg.DDR_STATUS_RETRAINING c) = false ∨ (s.ddr c).began + s.ddrMax c < s.time →
    ∃ t, exec (.ddrRetrainEnd c celsius) s = .next t ∧
      t = s) ∧
  -- DDR_RETRAIN_TIMEOUT (R412)
  (∀ (s : State) (c : Fin 8), s.canonical = true → s.down = false → s.fbit (Reg.DDR_STATUS_RETRAINING c) = true → (s.ddr
    c).began + s.ddrMax c ≤ s.time → (s.ddr c).queue = [] →
    ∃ t, exec (.ddrRetrainTimeout c) s = .next t ∧
      t.fbit (Reg.DDR_STATUS_RETRAINING c) = false ∧
      (t.ddr c).temp = (s.ddr c).temp ∧
      t.rd (Reg.DDR_RETRAIN_CNT c) = s.rd (Reg.DDR_RETRAIN_CNT c) ∧
      t.sent = .fault 5 5 c 0 :: s.sent ∧
      t.mem = s.mem ∧
      (∀ reg : Nat, reg ∉ [Reg.DDR_STATUS c] ++ memorySide → t.rd reg = s.rd reg)) ∧
  -- DDR_RETRAIN_TIMEOUT: a write that it held is performed and answered (R411) (R412)
  (∀ (s : State) (c : Fin 8) (r : DdrReq) (a : Nat) (b : Byte) (x : Nat), s.canonical = true → s.down = false → s.fbit
    (Reg.DDR_STATUS_RETRAINING c) = true → (s.ddr c).began + s.ddrMax c ≤ s.time → (s.ddr c).queue = [r] → r.n = 0 →
    r.who = .aon → r.back = .core none → r.data = [(a, b)] → r.ecc = .none → placeOf a = .ddr → s.bad = [] → (s.foff
    (Reg.DDR_STATUS_RETRAINING c)).served a = 0 → (kvUnits.any fun x => s.fbit (Reg.ING_KV_CFG_EN x.1 x.2)) = false →
    ∃ t, exec (.ddrRetrainTimeout c) s = .next t ∧
      t.fbit (Reg.DDR_STATUS_RETRAINING c) = false ∧
      (t.ddr c).temp = (s.ddr c).temp ∧
      t.rd (Reg.DDR_RETRAIN_CNT c) = s.rd (Reg.DDR_RETRAIN_CNT c) ∧
      t.mget a = b ∧
      (x ≠ a → t.mget x = s.mget x) ∧
      t.sent = .ack :: .fault 5 5 c 0 :: s.sent ∧
      (t.ddr c).queue = [] ∧
      (∀ reg : Nat, reg ∉ [Reg.DDR_STATUS c] ++ memorySide → t.rd reg = s.rd reg)) ∧
  -- DDR_RETRAIN_TIMEOUT: it does not retrain, or MAX_US has not passed (R412)
  (∀ (s : State) (c : Fin 8), s.canonical = true → s.down = false → s.fbit (Reg.DDR_STATUS_RETRAINING c) = false ∨ s.time
    < (s.ddr c).began + s.ddrMax c →
    ∃ t, exec (.ddrRetrainTimeout c) s = .next t ∧
      t = s) ∧
  -- DDR_ALERT (R408)
  (∀ (s : State) (c : Fin 8) (wcrc : Bool) (again : Bool), s.canonical = true → s.down = false → (if wcrc then s.fbit
    (Reg.DDR_CFG_WCRC c) else s.fbit (Reg.DDR_CFG_CAPAR c)) = true → s.ddrServes c = true → again = false ∨ (s.ddr
    c).replays < 3 ∨ (s.ddr c).queue = [] →
    ∃ t, exec (.ddrAlert c wcrc again) s = .next t ∧
      (t.rd (if wcrc then Reg.DDR_WCRC_CNT c else Reg.DDR_CAPAR_CNT c)).toNat = satCount 32 (s.rd (if wcrc then
        Reg.DDR_WCRC_CNT c else Reg.DDR_CAPAR_CNT c)).toNat 1 ∧
      (again = false → (t.ddr c).replays = 0 ∧ t.sent = s.sent ∧ t.fbit (Reg.DDR_STATUS_FAILED c) = false) ∧
      (again = true → (s.ddr c).replays < 3 → (t.ddr c).replays = (s.ddr c).replays + 1 ∧ t.sent = s.sent ∧ t.fbit
        (Reg.DDR_STATUS_FAILED c) = false) ∧
      (again = true → 3 ≤ (s.ddr c).replays → t.fbit (Reg.DDR_STATUS_FAILED c) = true ∧ t.sent = .fault 4 5 c 0 ::
        s.sent) ∧
      t.mem = s.mem ∧
      (∀ reg : Nat, reg ∉ [Reg.DDR_STATUS c, Reg.DDR_CAPAR_CNT c, Reg.DDR_WCRC_CNT c] ++ memorySide → t.rd reg = s.rd
        reg)) ∧
  -- DDR_ALERT: the check is off, or the channel does not serve (R408)
  (∀ (s : State) (c : Fin 8) (wcrc : Bool) (again : Bool), s.canonical = true → s.down = false → (if wcrc then s.fbit
    (Reg.DDR_CFG_WCRC c) else s.fbit (Reg.DDR_CFG_CAPAR c)) = false ∨ s.ddrServes c = false →
    ∃ t, exec (.ddrAlert c wcrc again) s = .next t ∧
      t = s) ∧
  -- DDR_PATROL_READ (R413, R567)
  (∀ (s : State) (c : Fin 8) (line : BitVec 36) (ecc : Ecc), s.canonical = true → s.down = false → s.fbit
    (Reg.DDR_CTL_SCRUB_EN c) = true → s.ddrServes c = true → s.fbit (Reg.DDR_STATUS_RETRAINING c) = false → (line.toNat *
    64) < 8 * s.ddrCap → (line.toNat * 64) < 2 ^ 42 → s.ddrChan (line.toNat * 64) = c → s.islOff (74 + c) = false →
    (s.ddr c).patrol + s.fget (Reg.DDR_SCRUB_CFG_INTERVAL c) ≤ s.time → s.bad = [] →
    ∃ t, exec (.ddrPatrolRead c line ecc) s = .next t ∧
      (t.ddr c).patrol = s.time ∧
      (s.islState (74 + c) = 2 → t.islState (74 + c) = 3) ∧
      (ecc = .none → t.sent = s.sent ∧ t.bad = []) ∧
      (∀ rank device, ecc = .ce rank device → t.sent = .fault 2 5 c (BitVec.ofNat 32 (line.toNat * 64)) :: s.sent ∧
        t.rd64 (Reg.DDR_ERR_ADDR_LO c) = (line.toNat * 64) ∧ (t.rd (Reg.DDR_CE_CNT c)).toNat = satCount 32 (s.rd
        (Reg.DDR_CE_CNT c)).toNat 1) ∧
      (∀ rank device, ecc = .ue rank device → t.sent = .fault 3 5 c (BitVec.ofNat 32 (line.toNat * 64)) :: s.sent ∧
        t.isBad (line.toNat * 64) = true ∧ (t.rd (Reg.DDR_UE_CNT c)).toNat = satCount 32 (s.rd (Reg.DDR_UE_CNT c)).toNat
        1) ∧
      t.mem = s.mem ∧
      (∀ reg : Nat, reg ∉ [Reg.DDR_CE_CNT c, Reg.DDR_UE_CNT c, Reg.DDR_ERR_ADDR_LO c, Reg.DDR_ERR_ADDR_HI c,
        Reg.DDR_ERR_INFO c] ++ each 102 Reg.PWR_ISL_STAT ++ memorySide → t.rd reg = s.rd reg)) ∧
  -- DDR_PATROL_READ: patrol reads are off, the channel does not serve, the line is not its own, or INTERVAL has not passed (R413, R567)
  (∀ (s : State) (c : Fin 8) (line : BitVec 36) (ecc : Ecc), s.canonical = true → s.down = false → s.fbit
    (Reg.DDR_CTL_SCRUB_EN c) = false ∨ s.ddrServes c = false ∨ s.fbit (Reg.DDR_STATUS_RETRAINING c) = true ∨ 8 * s.ddrCap
    ≤ (line.toNat * 64) ∨ s.ddrChan (line.toNat * 64) ≠ c ∨ s.islOff (74 + c) = true ∨ s.time < (s.ddr c).patrol + s.fget
    (Reg.DDR_SCRUB_CFG_INTERVAL c) →
    ∃ t, exec (.ddrPatrolRead c line ecc) s = .next t ∧
      t = s ∧
      t.mem = s.mem) ∧
  -- DDR_BUSY_RESEND (R411)
  (∀ (s : State) (due : Nat) (r : DdrReq) (a : Nat) (b : Byte) (x : Nat), s.canonical = true → s.down = false → s.busy =
    [(due, r)] → due ≤ s.time → r.n = 0 → r.who = .aon → r.back = .core none → r.data = [(a, b)] → r.ecc = .none →
    placeOf a = .ddr → s.served a = 0 → s.bad = [] → (kvUnits.any fun x => s.fbit (Reg.ING_KV_CFG_EN x.1 x.2)) = false →
    ∃ t, exec .ddrBusyResend s = .next t ∧
      t.busy = [] ∧
      t.again = s.again ∧
      t.mget a = b ∧
      (x ≠ a → t.mget x = s.mget x) ∧
      t.sent = .ack :: s.sent ∧
      (∀ reg : Nat, reg ∉ memorySide → t.rd reg = s.rd reg)) ∧
  -- DDR_BUSY_RESEND: a request to another device is sent again (R411)
  (∀ (s : State) (due : Nat) (src : BitVec 22) (st : BitVec 4), s.canonical = true → s.down = false → s.busy = [] →
    s.again = [(due, .status src.toNat st.toNat 0 0 0)] → due ≤ s.time → coDev src.toNat = s.devid →
    ∃ t, exec .ddrBusyResend s = .next t ∧
      t.again = [] ∧
      t.sent = .status src.toNat st.toNat 0 0 0 :: s.sent ∧
      t.csr = s.csr ∧
      t.mem = s.mem) ∧
  -- DDR_BUSY_RESEND: nothing is due (R411)
  (∀ (s : State), s.canonical = true → s.down = false → (s.busy.all fun x => decide (s.time < x.1)) = true → (s.again.all
    fun x => decide (s.time < x.1)) = true →
    ∃ t, exec .ddrBusyResend s = .next t ∧
      t = s)

/-- Trust: measurement, attestation and debug unlock complete. A measurement extended, a report prepared and signed, and a
debug unlock with its new challenge. (18_trust.md.) -/
def Obligations.TrustCommandsComplete : Prop :=
  -- MEASURE_EXTEND (R545)
  (∀ (s : State) (m : Master) (i : Fin 8), s.canonical = true → s.admits m Reg.TRU_CTL = true → s.level m = 2 → s.fbit
    Reg.TRU_STATUS_ROM_LOCK = false ∨ 4 ≤ i.val →
    ∃ t, exec (.measureExtend m i) s = .next t ∧
      t.fget Reg.TRU_CTL_EIDX = i.val ∧
      t.regBytes (Reg.TRU_MEAS (8 * i)) 8 = sha256 (s.regBytes (Reg.TRU_MEAS (8 * i)) 8 ++ s.regBytes (Reg.TRU_EXT_DATA
        0) 8) ∧
      (∀ k : Fin 8, k ≠ i → t.regBytes (Reg.TRU_MEAS (8 * k)) 8 = s.regBytes (Reg.TRU_MEAS (8 * k)) 8) ∧
      t.mem = s.mem ∧
      t.sent = s.sent ∧
      (∀ reg : Nat, reg ∉ [Reg.TRU_CTL, Reg.TRU_STATUS] ++ each 64 Reg.TRU_MEAS ++ accessRegs Reg.TRU_CTL → t.rd reg =
        s.rd reg)) ∧
  -- MEASURE_EXTEND: M0 to M3 after ROM_LOCK: ignored (R545) (R545)
  (∀ (s : State) (m : Master) (i : Fin 8), s.canonical = true → s.admits m Reg.TRU_CTL = true → s.level m = 2 → s.fbit
    Reg.TRU_STATUS_ROM_LOCK = true → i.val < 4 →
    ∃ t, exec (.measureExtend m i) s = .next t ∧
      t.fbit Reg.TRU_STATUS_CFG_IGNORED = true ∧
      (∀ k : Fin 64, t.rd (Reg.TRU_MEAS k) = s.rd (Reg.TRU_MEAS k)) ∧
      t.mem = s.mem ∧
      t.sent = s.sent ∧
      (∀ reg : Nat, reg ∉ [Reg.TRU_CTL, Reg.TRU_STATUS] ++ each 64 Reg.TRU_MEAS ++ accessRegs Reg.TRU_CTL → t.rd reg =
        s.rd reg)) ∧
  -- MEASURE_EXTEND: a master that is not secure: AON_PRIV_CNT counts it (R494) (R545)
  (∀ (s : State) (m : Master) (i : Fin 8), s.canonical = true → s.admits m Reg.TRU_CTL = true → s.level m ≠ 2 →
    ∃ t, exec (.measureExtend m i) s = .next t ∧
      (t.rd Reg.AON_PRIV_CNT).toNat = satCount 32 (s.rd Reg.AON_PRIV_CNT).toNat 1 ∧
      t.trust = s.trust ∧
      t.rd Reg.TRU_CTL = s.rd Reg.TRU_CTL ∧
      (∀ k : Fin 64, t.rd (Reg.TRU_MEAS k) = s.rd (Reg.TRU_MEAS k)) ∧
      t.mem = s.mem ∧
      t.sent = s.sent ∧
      (∀ reg : Nat, reg ∉ [Reg.AON_PRIV_CNT] ++ accessRegs Reg.TRU_CTL → t.rd reg = s.rd reg)) ∧
  -- ATTEST_SIGN (R546)
  (∀ (s : State) (m : Master) (mask : BitVec 8), s.canonical = true → s.admits m Reg.TRU_CTL = true → s.level m = 2 →
    s.fbit Reg.TRU_STATUS_BUSY = false →
    ∃ t, exec (.attestSign m mask) s = .next t ∧
      t.fbit Reg.TRU_STATUS_BUSY = true ∧
      t.fget Reg.TRU_CTL_MASK = mask.toNat ∧
      t.trust.body = some (s.reportBody mask.toNat) ∧
      t.mem = s.mem ∧
      t.sent = s.sent ∧
      (∀ reg : Nat, reg ∉ [Reg.TRU_CTL, Reg.TRU_STATUS] ++ accessRegs Reg.TRU_CTL → t.rd reg = s.rd reg)) ∧
  -- ATTEST_SIGN: a signature is being made: ignored (R546) (R546)
  (∀ (s : State) (m : Master) (mask : BitVec 8), s.canonical = true → s.admits m Reg.TRU_CTL = true → s.level m = 2 →
    s.fbit Reg.TRU_STATUS_BUSY = true →
    ∃ t, exec (.attestSign m mask) s = .next t ∧
      t.fbit Reg.TRU_STATUS_CFG_IGNORED = true ∧
      t.trust = s.trust ∧
      t.mem = s.mem ∧
      t.sent = s.sent ∧
      (∀ reg : Nat, reg ∉ [Reg.TRU_CTL, Reg.TRU_STATUS] ++ accessRegs Reg.TRU_CTL → t.rd reg = s.rd reg)) ∧
  -- ATTEST_SIGN: a master that is not secure: AON_PRIV_CNT counts it (R494) (R546)
  (∀ (s : State) (m : Master) (mask : BitVec 8), s.canonical = true → s.admits m Reg.TRU_CTL = true → s.level m ≠ 2 →
    ∃ t, exec (.attestSign m mask) s = .next t ∧
      (t.rd Reg.AON_PRIV_CNT).toNat = satCount 32 (s.rd Reg.AON_PRIV_CNT).toNat 1 ∧
      t.trust = s.trust ∧
      t.rd Reg.TRU_CTL = s.rd Reg.TRU_CTL ∧
      (∀ k : Fin 64, t.rd (Reg.TRU_MEAS k) = s.rd (Reg.TRU_MEAS k)) ∧
      t.mem = s.mem ∧
      t.sent = s.sent ∧
      (∀ reg : Nat, reg ∉ [Reg.AON_PRIV_CNT] ++ accessRegs Reg.TRU_CTL → t.rd reg = s.rd reg)) ∧
  -- SIGN_END (R546)
  (∀ (s : State) (b : List Byte) (k : Nat), s.canonical = true → s.down = false → s.trust.body = some b →
    ∃ t, exec .signEnd s = .next t ∧
      t.fbit Reg.TRU_STATUS_BUSY = false ∧
      t.trust.body = none ∧
      (4 * (k + 1) ≤ b.length + 17088 → k < 4352 → (t.rd (Reg.TRU_REPORT k)).toNat = leNat (((b ++ (Config.slhSign
        attSecret b ++ List.replicate 17088 0).take 17088).drop (4 * k)).take 4)) ∧
      t.mem = s.mem ∧
      t.sent = s.sent ∧
      (∀ reg : Nat, reg ∉ [Reg.TRU_STATUS] ++ each 4368 Reg.TRU_REPORT → t.rd reg = s.rd reg)) ∧
  -- SIGN_END: nothing is signed (R546)
  (∀ (s : State), s.canonical = true → s.down = false → s.trust.body = none →
    ∃ t, exec .signEnd s = .next t ∧
      t = s ∧
      t.mem = s.mem) ∧
  -- DEBUG_UNLOCK (R550)
  (∀ (s : State) (m : Master), s.canonical = true → s.admits m Reg.TRU_CTL = true → m = .jtag ∨ s.level m = 2 → s.fbit
    Reg.TRU_CTL_DBG_LOCK = false →
    ∃ t, exec (.debugUnlock m) s = .next t ∧
      (∀ k : Fin 8, t.rd (Reg.TRU_CHAL k) = Config.freeValue 32 (s.free + k)) ∧
      t.free = s.free + 8 ∧
      t.fbit Reg.TRU_STATUS_DBG_OPEN = (s.fbit Reg.TRU_STATUS_DBG_OPEN || (s.keyAccepted (s.regBytes (Reg.TRU_EXT_DATA 0)
        8) && Config.slhVerify (s.regBytes (Reg.TRU_EXT_DATA 0) 8) (s.regBytes (Reg.TRU_DEVICE_ID 0) 2 ++ s.regBytes
        (Reg.TRU_CHAL 0) 8) (s.trust.staging.read (s.fget Reg.TRU_SRV_PAGE_PAGE * 32768) 7856))) ∧
      t.regBytes (Reg.TRU_MEAS 56) 8 = (if (s.keyAccepted (s.regBytes (Reg.TRU_EXT_DATA 0) 8) && Config.slhVerify
        (s.regBytes (Reg.TRU_EXT_DATA 0) 8) (s.regBytes (Reg.TRU_DEVICE_ID 0) 2 ++ s.regBytes (Reg.TRU_CHAL 0) 8)
        (s.trust.staging.read (s.fget Reg.TRU_SRV_PAGE_PAGE * 32768) 7856)) then sha256 (s.regBytes (Reg.TRU_MEAS 56) 8
        ++ sha256 (s.regBytes (Reg.TRU_EXT_DATA 0) 8)) else s.regBytes (Reg.TRU_MEAS 56) 8) ∧
      t.mem = s.mem ∧
      (∀ reg : Nat, reg ∉ [Reg.TRU_CTL, Reg.TRU_STATUS] ++ each 8 Reg.TRU_CHAL ++ accessRegs Reg.TRU_CTL → t.rd reg =
        s.rd reg)) ∧
  -- DEBUG_UNLOCK: DBG_LOCK = 1: ignored (R550) (R550)
  (∀ (s : State) (m : Master), s.canonical = true → s.admits m Reg.TRU_CTL = true → m = .jtag ∨ s.level m = 2 → s.fbit
    Reg.TRU_CTL_DBG_LOCK = true →
    ∃ t, exec (.debugUnlock m) s = .next t ∧
      t.fbit Reg.TRU_STATUS_CFG_IGNORED = true ∧
      t.trust = s.trust ∧
      t.free = s.free ∧
      (∀ k : Fin 8, t.rd (Reg.TRU_CHAL k) = s.rd (Reg.TRU_CHAL k)) ∧
      t.mem = s.mem ∧
      (∀ reg : Nat, reg ∉ [Reg.TRU_CTL, Reg.TRU_STATUS] ++ each 8 Reg.TRU_CHAL ++ accessRegs Reg.TRU_CTL → t.rd reg =
        s.rd reg)) ∧
  -- DEBUG_UNLOCK: a master that is not secure: AON_PRIV_CNT counts it (R494) (R550)
  (∀ (s : State) (m : Master), s.canonical = true → s.admits m Reg.TRU_CTL = true → s.level m ≠ 2 → m ≠ .jtag →
    ∃ t, exec (.debugUnlock m) s = .next t ∧
      (t.rd Reg.AON_PRIV_CNT).toNat = satCount 32 (s.rd Reg.AON_PRIV_CNT).toNat 1 ∧
      t.trust = s.trust ∧
      t.rd Reg.TRU_CTL = s.rd Reg.TRU_CTL ∧
      (∀ k : Fin 64, t.rd (Reg.TRU_MEAS k) = s.rd (Reg.TRU_MEAS k)) ∧
      t.mem = s.mem ∧
      t.sent = s.sent ∧
      (∀ reg : Nat, reg ∉ [Reg.AON_PRIV_CNT] ++ accessRegs Reg.TRU_CTL → t.rd reg = s.rd reg))
end

