-- ==== Sys2Proof/Laws/Tab.lean ====
section
/-! SUPPORT. The laws of sparse tables and of memories: a read after a write, the other places, the canonical form. -/

namespace Sys2Proof.Machine

variable {α : Type} [DecidableEq α] {d : Nat → α}

theorem tabWfFrom_mono {l : List (Nat × α)} {a b : Nat} (h : a ≤ b) (w : tabWfFrom d b l = true) : tabWfFrom d a l = true := by
  cases l with
  | nil => rfl
  | cons x r =>
    obtain ⟨k, v⟩ := x
    simp only [tabWfFrom, Bool.and_eq_true, decide_eq_true_eq] at w ⊢
    exact ⟨⟨by omega, w.1.2⟩, w.2⟩

/-- Below every key a table reads as if nothing were listed. -/
theorem tabGet_below {l : List (Nat × α)} {a k : Nat} (h : k < a) (w : tabWfFrom d a l = true) : tabGet d l k = d k := by
  induction l generalizing a with
  | nil => rfl
  | cons x r ih =>
    obtain ⟨k', v⟩ := x
    simp only [tabWfFrom, Bool.and_eq_true, decide_eq_true_eq] at w
    have e : k ≠ k' := by omega
    simp only [tabGet, e, if_false]
    exact ih (by omega) w.2

theorem tabPut_wfFrom {l : List (Nat × α)} {a k : Nat} (v : α) (h : a ≤ k) (w : tabWfFrom d a l = true) :
    tabWfFrom d a (tabPut d l k v) = true := by
  induction l generalizing a with
  | nil =>
    by_cases e : v = d k
    · simp [tabPut, e, tabWfFrom]
    · simp [tabPut, e, tabWfFrom, h]
  | cons x r ih =>
    obtain ⟨k', v'⟩ := x
    have w' := w
    simp only [tabWfFrom, Bool.and_eq_true, decide_eq_true_eq] at w
    obtain ⟨⟨w1, w2⟩, w3⟩ := w
    rcases Nat.lt_trichotomy k k' with c | c | c
    · by_cases e : v = d k
      · simp [tabPut, c, e, w']
      · simp [tabPut, c, e, tabWfFrom, h, w2, w3, Nat.succ_le_of_lt c]
    · subst c
      by_cases e : v = d k
      · simpa [tabPut, e] using tabWfFrom_mono (by omega) w3
      · simp [tabPut, e, tabWfFrom, h, w3]
    · have n1 : ¬ k < k' := by omega
      have n2 : k ≠ k' := by omega
      simp [tabPut, n1, n2, tabWfFrom, w1, w2, ih (a := k' + 1) (by omega) w3]

/-- A write keeps the canonical form. -/
theorem tabPut_wf {l : List (Nat × α)} (k : Nat) (v : α) (w : tabWf d l = true) : tabWf d (tabPut d l k v) = true :=
  tabPut_wfFrom v (Nat.zero_le k) w

theorem tabGet_put_sameFrom {l : List (Nat × α)} {a : Nat} (k : Nat) (v : α) (w : tabWfFrom d a l = true) :
    tabGet d (tabPut d l k v) k = v := by
  induction l generalizing a with
  | nil => by_cases e : v = d k <;> simp [tabPut, e, tabGet]
  | cons x r ih =>
    obtain ⟨k', v'⟩ := x
    have w' := w
    simp only [tabWfFrom, Bool.and_eq_true, decide_eq_true_eq] at w
    rcases Nat.lt_trichotomy k k' with c | c | c
    · by_cases e : v = d k
      · have n2 : k ≠ k' := by omega
        simp [tabPut, c, e, tabGet, n2, tabGet_below (show k < k' + 1 by omega) w.2]
      · simp [tabPut, c, e, tabGet]
    · subst c
      by_cases e : v = d k
      · simp [tabPut, e, tabGet_below (Nat.lt_succ_self k) w.2]
      · simp [tabPut, e, tabGet]
    · have n1 : ¬ k < k' := by omega
      have n2 : k ≠ k' := by omega
      simp [tabPut, n1, n2, tabGet, ih w.2]

/-- A read after a write of the same place gives what was written. -/
theorem tabGet_put_same {l : List (Nat × α)} (k : Nat) (v : α) (w : tabWf d l = true) : tabGet d (tabPut d l k v) k = v :=
  tabGet_put_sameFrom k v w

/-- A write leaves every other place alone. -/
theorem tabGet_put_other {l : List (Nat × α)} {k j : Nat} (v : α) (h : j ≠ k) : tabGet d (tabPut d l k v) j = tabGet d l j := by
  induction l with
  | nil => by_cases e : v = d k <;> simp [tabPut, e, tabGet, h]
  | cons x r ih =>
    obtain ⟨k', v'⟩ := x
    rcases Nat.lt_trichotomy k k' with c | c | c
    · by_cases e : v = d k <;> simp [tabPut, c, e, tabGet, h]
    · subst c
      by_cases e : v = d k <;> simp [tabPut, e, tabGet, h]
    · have n1 : ¬ k < k' := by omega
      have n2 : k ≠ k' := by omega
      by_cases e : j = k'
      · simp [tabPut, n1, n2, tabGet, e]
      · simp [tabPut, n1, n2, tabGet, e, ih]

theorem tabWfFrom_filter {l : List (Nat × α)} {a : Nat} (p : Nat × α → Bool) (w : tabWfFrom d a l = true) :
    tabWfFrom d a (l.filter p) = true := by
  induction l generalizing a with
  | nil => rfl
  | cons x r ih =>
    obtain ⟨k, v⟩ := x
    simp only [tabWfFrom, Bool.and_eq_true, decide_eq_true_eq] at w
    by_cases c : p (k, v) = true
    · simp [c, tabWfFrom, w.1.1, w.1.2, ih w.2]
    · simp only [List.filter_cons, c]
      exact tabWfFrom_mono (by omega) (ih w.2)

/-- Dropping entries keeps the canonical form. -/
theorem tabWf_filter {l : List (Nat × α)} (p : Nat × α → Bool) (w : tabWf d l = true) : tabWf d (l.filter p) = true :=
  tabWfFrom_filter p w

theorem tabWfFrom_congr {l : List (Nat × α)} {a : Nat} {e : Nat → α} (h : ∀ x ∈ l, d x.1 = e x.1) (w : tabWfFrom d a l = true) :
    tabWfFrom e a l = true := by
  induction l generalizing a with
  | nil => rfl
  | cons x r ih =>
    obtain ⟨k, v⟩ := x
    have hk : d k = e k := h (k, v) List.mem_cons_self
    simp only [tabWfFrom, Bool.and_eq_true, decide_eq_true_eq, ← hk] at w ⊢
    exact ⟨w.1, ih (fun x hx => h x (List.mem_cons_of_mem _ hx)) w.2⟩

/-! ### Memories -/

/-- A write to memory keeps its canonical form. -/
theorem Memory.put_wf {m : Memory} (a : Nat) (b : BitVec 8) (w : m.wf = true) : (m.put a b).wf = true := tabPut_wf a b w

/-- The byte written reads back. -/
theorem Memory.get_put_same {m : Memory} (a : Nat) (b : BitVec 8) (w : m.wf = true) : (m.put a b).get a = b := tabGet_put_same a b w

/-- Every other byte reads as before. -/
theorem Memory.get_put_other (m : Memory) {a c : Nat} (b : BitVec 8) (h : c ≠ a) : (m.put a b).get c = m.get c := tabGet_put_other b h

theorem Memory.write_wf {m : Memory} (a : Nat) (l : List (BitVec 8)) (w : m.wf = true) : (m.write a l).wf = true := by
  induction l generalizing m a with
  | nil => exact w
  | cons b r ih => exact ih (a + 1) (Memory.put_wf a b w)

/-- A write of bytes leaves every address outside them as it was. -/
theorem Memory.get_write_outside (m : Memory) {a c : Nat} (l : List (BitVec 8)) (h : c < a ∨ a + l.length ≤ c) :
    (m.write a l).get c = m.get c := by
  induction l generalizing m a with
  | nil => rfl
  | cons b r ih =>
    simp only [List.length_cons] at h
    simp only [Memory.write]
    rw [ih (m.put a b) (by omega), Memory.get_put_other m b (by omega)]

/-- A write of bytes reads back byte by byte. -/
theorem Memory.get_write_inside {m : Memory} {a i : Nat} (l : List (BitVec 8)) (w : m.wf = true) (h : i < l.length) :
    (m.write a l).get (a + i) = l[i] := by
  induction l generalizing m a i with
  | nil => simp at h
  | cons b r ih =>
    simp only [Memory.write]
    cases i with
    | zero =>
      rw [Memory.get_write_outside _ r (by omega)]
      simpa using Memory.get_put_same a b w
    | succ j =>
      have e : a + (j + 1) = (a + 1) + j := by omega
      rw [e, ih (Memory.put_wf a b w) (by simpa using h)]
      simp

theorem Fill.hides_holds {f g : Fill} {a : Nat} (h : f.hides g = true) (e : g.holds a = true) : f.holds a = true := by
  simp only [Fill.hides, Fill.holds, Bool.and_eq_true, decide_eq_true_eq] at h e ⊢
  refine ⟨⟨by omega, by omega⟩, ?_⟩
  rw [h.1.1]; rfl

theorem fillByte_filter (f : Fill) (l : List Fill) {a : Nat} (h : f.holds a = false) :
    fillByte (l.filter fun g => !f.hides g) a = fillByte l a := by
  induction l with
  | nil => rfl
  | cons g r ih =>
    by_cases c : f.hides g = true
    · have hg : g.holds a = false := by
        cases e : g.holds a with
        | false => rfl
        | true => rw [Fill.hides_holds c e] at h; exact absurd h (by simp)
      simp [c, fillByte, hg, ih]
    · simp [c, fillByte, ih]

/-- Setting a range as a whole keeps the canonical form. -/
theorem Memory.fill_wf {m : Memory} (f : Fill) (w : m.wf = true) : (m.fill f).wf = true := by
  refine tabWfFrom_congr (d := fillByte m.fills) ?_ (tabWfFrom_filter _ w)
  intro x hx
  have h : f.holds x.1 = false := by simpa using (List.mem_filter.mp hx).2
  show fillByte m.fills x.1 = fillByte (f :: m.fills.filter fun g => !f.hides g) x.1
  simp [fillByte, h, fillByte_filter f m.fills h]

theorem Memory.zeroed_wf : Memory.zeroed.wf = true := rfl
theorem Memory.fresh_wf : Memory.fresh.wf = true := rfl

end Sys2Proof.Machine
end

