-- ==== Sys2Proof/Laws/Keeps.lean ====
section
/-! SUPPORT. What every operation of the model keeps: the canonical form of the tables, the queue of commands, and the
order in which time, free values and messages only grow. One lemma per operation; this file holds the named operations
of Machine/Ops.lean. -/

namespace Sys2Proof.Machine

/-- t is canonical and goes on from r: the same commands wait, time and free values have not gone back, and nothing that
was put out is taken back. -/
def Keeps (r t : State) : Prop :=
  t.canonical = true ∧ t.pending = r.pending ∧ r.time ≤ t.time ∧ r.free ≤ t.free ∧ r.sent <:+ t.sent

variable {r s : State}

theorem Keeps.refl (h : s.canonical = true) : Keeps s s := ⟨h, rfl, Nat.le_refl _, Nat.le_refl _, List.suffix_refl _⟩

/-- The parts of the canonical form. -/
theorem canonical_iff {s : State} : s.canonical = true ↔
    tabWf regReset s.csr = true ∧ s.mem.wf = true ∧ tabWf (fun _ => false) s.bad = true
    ∧ tabWf (fun _ => Timer.init) s.tb.timers = true ∧ tabWf (fun _ => PinSt.init) s.tb.pins = true
    ∧ tabWf (fun _ => none) s.tb.pairs = true
    ∧ tabWf (fun _ => Stream.init) s.streams = true ∧ tabWf (fun _ => CoreSt.init) s.cores = true
    ∧ tabWf (fun _ => LinkSt.init) s.links = true ∧ tabWf (fun _ => TileSt.init) s.tiles = true
    ∧ tabWf (fun _ => SeqSt.init) s.seqs = true ∧ tabWf (fun _ => Cvu.init) s.cvus = true
    ∧ tabWf (fun _ => OwnerSt.init) s.owners = true ∧ tabWf (fun _ => Iface.init) s.ifaces = true
    ∧ tabWf (fun _ => TokSt.init) s.toks = true
    ∧ tabWf (fun _ => DmaSt.init) s.dmas = true ∧ tabWf (fun _ => DdrSt.init) s.ddrs = true
    ∧ tabWf (fun _ => Receiver.init) s.bc = true ∧ s.store.dataA.wf = true ∧ s.store.dataB.wf = true
    ∧ tabWf (fun _ => SectorCopy.init) s.store.copyA = true ∧ tabWf (fun _ => SectorCopy.init) s.store.copyB = true
    ∧ s.trust.staging.wf = true := by
  simp only [State.canonical, Bool.and_eq_true, and_assoc]

/-- A canonical state with one part of it changed. -/
theorem Keeps.csr {l : List (Nat × Word)} (h : Keeps r s) (w : tabWf regReset l = true) : Keeps r { s with csr := l } := by
  obtain ⟨c, rest⟩ := h; refine ⟨?_, rest⟩; rw [canonical_iff] at c ⊢; exact ⟨w, c.2⟩

theorem Keeps.mem {l : Memory} (h : Keeps r s) (w : l.wf = true) : Keeps r { s with mem := l } := by
  obtain ⟨c, rest⟩ := h; refine ⟨?_, rest⟩; rw [canonical_iff] at c ⊢; exact ⟨c.1, w, c.2.2⟩

theorem Keeps.bad {l : List (Nat × Bool)} (h : Keeps r s) (w : tabWf (fun _ => false) l = true) : Keeps r { s with bad := l } := by
  obtain ⟨c, rest⟩ := h; refine ⟨?_, rest⟩; rw [canonical_iff] at c ⊢; exact ⟨c.1, c.2.1, w, c.2.2.2⟩

theorem Keeps.tb {b : TimeBase} (h : Keeps r s) (w : tabWf (fun _ => Timer.init) b.timers = true)
    (w' : tabWf (fun _ => PinSt.init) b.pins = true) (w'' : tabWf (fun _ => none) b.pairs = true) : Keeps r { s with tb := b } := by
  obtain ⟨c, rest⟩ := h; refine ⟨?_, rest⟩; rw [canonical_iff] at c ⊢
  obtain ⟨c1, c2, c3, c4, c5, c6, c7⟩ := c; exact ⟨c1, c2, c3, w, w', w'', c7⟩

theorem Keeps.streams {l : List (Nat × Stream)} (h : Keeps r s) (w : tabWf (fun _ => Stream.init) l = true) :
    Keeps r { s with streams := l } := by
  obtain ⟨c, rest⟩ := h; refine ⟨?_, rest⟩; rw [canonical_iff] at c ⊢
  obtain ⟨c1, c2, c3, c4, c5, c6, _, c7⟩ := c; exact ⟨c1, c2, c3, c4, c5, c6, w, c7⟩

theorem Keeps.cores {l : List (Nat × CoreSt)} (h : Keeps r s) (w : tabWf (fun _ => CoreSt.init) l = true) :
    Keeps r { s with cores := l } := by
  obtain ⟨c, rest⟩ := h; refine ⟨?_, rest⟩; rw [canonical_iff] at c ⊢
  obtain ⟨c1, c2, c3, c4, c5, c6, c7, _, c8⟩ := c; exact ⟨c1, c2, c3, c4, c5, c6, c7, w, c8⟩

theorem Keeps.links {l : List (Nat × LinkSt)} (h : Keeps r s) (w : tabWf (fun _ => LinkSt.init) l = true) :
    Keeps r { s with links := l } := by
  obtain ⟨c, rest⟩ := h; refine ⟨?_, rest⟩; rw [canonical_iff] at c ⊢
  obtain ⟨c1, c2, c3, c4, c5, c6, c7, c8, _, c9⟩ := c; exact ⟨c1, c2, c3, c4, c5, c6, c7, c8, w, c9⟩

theorem Keeps.tiles {l : List (Nat × TileSt)} (h : Keeps r s) (w : tabWf (fun _ => TileSt.init) l = true) :
    Keeps r { s with tiles := l } := by
  obtain ⟨c, rest⟩ := h; refine ⟨?_, rest⟩; rw [canonical_iff] at c ⊢
  obtain ⟨c1, c2, c3, c4, c5, c6, c7, c8, c9, _, c10⟩ := c; exact ⟨c1, c2, c3, c4, c5, c6, c7, c8, c9, w, c10⟩

theorem Keeps.seqs {l : List (Nat × SeqSt)} (h : Keeps r s) (w : tabWf (fun _ => SeqSt.init) l = true) :
    Keeps r { s with seqs := l } := by
  obtain ⟨c, rest⟩ := h; refine ⟨?_, rest⟩; rw [canonical_iff] at c ⊢
  obtain ⟨c1, c2, c3, c4, c5, c6, c7, c8, c9, c10, _, c11⟩ := c; exact ⟨c1, c2, c3, c4, c5, c6, c7, c8, c9, c10, w, c11⟩

theorem Keeps.cvus {l : List (Nat × Cvu)} (h : Keeps r s) (w : tabWf (fun _ => Cvu.init) l = true) :
    Keeps r { s with cvus := l } := by
  obtain ⟨c, rest⟩ := h; refine ⟨?_, rest⟩; rw [canonical_iff] at c ⊢
  obtain ⟨c1, c2, c3, c4, c5, c6, c7, c8, c9, c10, c11, _, c12⟩ := c; exact ⟨c1, c2, c3, c4, c5, c6, c7, c8, c9, c10, c11, w, c12⟩

theorem Keeps.owners {l : List (Nat × OwnerSt)} (h : Keeps r s) (w : tabWf (fun _ => OwnerSt.init) l = true) :
    Keeps r { s with owners := l } := by
  obtain ⟨c, rest⟩ := h; refine ⟨?_, rest⟩; rw [canonical_iff] at c ⊢
  obtain ⟨c1, c2, c3, c4, c5, c6, c7, c8, c9, c10, c11, c12, _, c13⟩ := c; exact ⟨c1, c2, c3, c4, c5, c6, c7, c8, c9, c10, c11, c12, w, c13⟩

theorem Keeps.ifaces {l : List (Nat × Iface)} (h : Keeps r s) (w : tabWf (fun _ => Iface.init) l = true) :
    Keeps r { s with ifaces := l } := by
  obtain ⟨c, rest⟩ := h; refine ⟨?_, rest⟩; rw [canonical_iff] at c ⊢
  obtain ⟨c1, c2, c3, c4, c5, c6, c7, c8, c9, c10, c11, c12, c13, _, c14⟩ := c; exact ⟨c1, c2, c3, c4, c5, c6, c7, c8, c9, c10, c11, c12, c13, w, c14⟩

theorem Keeps.toks {l : List (Nat × TokSt)} (h : Keeps r s) (w : tabWf (fun _ => TokSt.init) l = true) :
    Keeps r { s with toks := l } := by
  obtain ⟨c, rest⟩ := h; refine ⟨?_, rest⟩; rw [canonical_iff] at c ⊢
  obtain ⟨c1, c2, c3, c4, c5, c6, c7, c8, c9, c10, c11, c12, c13, c14, _, c15⟩ := c; exact ⟨c1, c2, c3, c4, c5, c6, c7, c8, c9, c10, c11, c12, c13, c14, w, c15⟩

theorem Keeps.dmas {l : List (Nat × DmaSt)} (h : Keeps r s) (w : tabWf (fun _ => DmaSt.init) l = true) :
    Keeps r { s with dmas := l } := by
  obtain ⟨c, rest⟩ := h; refine ⟨?_, rest⟩; rw [canonical_iff] at c ⊢
  obtain ⟨c1, c2, c3, c4, c5, c6, c7, c8, c9, c10, c11, c12, c13, c14, c15, _, c16⟩ := c; exact ⟨c1, c2, c3, c4, c5, c6, c7, c8, c9, c10, c11, c12, c13, c14, c15, w, c16⟩

theorem Keeps.ddrs {l : List (Nat × DdrSt)} (h : Keeps r s) (w : tabWf (fun _ => DdrSt.init) l = true) :
    Keeps r { s with ddrs := l } := by
  obtain ⟨c, rest⟩ := h; refine ⟨?_, rest⟩; rw [canonical_iff] at c ⊢
  obtain ⟨c1, c2, c3, c4, c5, c6, c7, c8, c9, c10, c11, c12, c13, c14, c15, c16, _, c17⟩ := c; exact ⟨c1, c2, c3, c4, c5, c6, c7, c8, c9, c10, c11, c12, c13, c14, c15, c16, w, c17⟩

theorem Keeps.bc {l : List (Nat × Receiver)} (h : Keeps r s) (w : tabWf (fun _ => Receiver.init) l = true) :
    Keeps r { s with bc := l } := by
  obtain ⟨c, rest⟩ := h; refine ⟨?_, rest⟩; rw [canonical_iff] at c ⊢
  obtain ⟨c1, c2, c3, c4, c5, c6, c7, c8, c9, c10, c11, c12, c13, c14, c15, c16, c17, _, c18⟩ := c; exact ⟨c1, c2, c3, c4, c5, c6, c7, c8, c9, c10, c11, c12, c13, c14, c15, c16, c17, w, c18⟩

/-- A settings store in canonical form. -/
def Settings.canonical (t : Settings) : Prop :=
  t.dataA.wf = true ∧ t.dataB.wf = true ∧ tabWf (fun _ => SectorCopy.init) t.copyA = true ∧ tabWf (fun _ => SectorCopy.init) t.copyB = true

theorem Keeps.store {t : Settings} (h : Keeps r s) (w : t.canonical) : Keeps r { s with store := t } := by
  obtain ⟨c, rest⟩ := h; refine ⟨?_, rest⟩; rw [canonical_iff] at c ⊢
  obtain ⟨c1, c2, c3, c4, c5, c6, c7, c8, c9, c10, c11, c12, c13, c14, c15, c16, c17, c18, _, _, _, _, c19⟩ := c
  exact ⟨c1, c2, c3, c4, c5, c6, c7, c8, c9, c10, c11, c12, c13, c14, c15, c16, c17, c18, w.1, w.2.1, w.2.2.1, w.2.2.2, c19⟩

theorem Keeps.staging {t : Trust} (h : Keeps r s) (w : t.staging.wf = true) : Keeps r { s with trust := t } := by
  obtain ⟨c, rest⟩ := h; refine ⟨?_, rest⟩; rw [canonical_iff] at c ⊢
  obtain ⟨c1, c2, c3, c4, c5, c6, c7, c8, c9, c10, c11, c12, c13, c14, c15, c16, c17, c18, c19, c20, c21, c22, _⟩ := c
  exact ⟨c1, c2, c3, c4, c5, c6, c7, c8, c9, c10, c11, c12, c13, c14, c15, c16, c17, c18, c19, c20, c21, c22, w⟩

/-- A change of what the canonical form does not speak of. -/
theorem Keeps.upd {counter : DWord} {aon : Aon} {trust : Trust} {tb : TimeBase} {chr : Chrysalis} {resends : List SyncOp}
    {ctrls : List CtrlReq} {ctrlWait : List (CtrlReq × Emit)} {busy : List (Nat × DdrReq)} {again : List (Nat × Emit)}
    {bcReports : List (List Nat)}
    (h : Keeps r s) (e : trust.staging = s.trust.staging) (e' : tb.timers = s.tb.timers) (e'' : tb.pins = s.tb.pins)
    (e3 : tb.pairs = s.tb.pairs) :
    Keeps r ⟨s.pending, s.csr, s.mem, s.bad, s.time, counter, s.free, s.sent, aon, s.store, trust, tb, chr, s.streams,
    s.cores, s.links, s.tiles, s.seqs, s.cvus, s.owners, resends, s.ifaces, ctrls, ctrlWait, s.toks, s.dmas, s.ddrs, busy,
    again, s.bc, bcReports⟩ := by
  obtain ⟨c, a⟩ := h
  refine ⟨?_, a⟩
  rw [canonical_iff] at c ⊢
  simp only [e, e', e'', e3]
  exact c

theorem Keeps.wfCsr (h : Keeps r s) : tabWf regReset s.csr = true := (canonical_iff.mp h.1).1
theorem Keeps.wfMem (h : Keeps r s) : s.mem.wf = true := (canonical_iff.mp h.1).2.1
theorem Keeps.wfBad (h : Keeps r s) : tabWf (fun _ => false) s.bad = true := (canonical_iff.mp h.1).2.2.1
theorem Keeps.wfTimers (h : Keeps r s) : tabWf (fun _ => Timer.init) s.tb.timers = true := (canonical_iff.mp h.1).2.2.2.1
theorem Keeps.wfPins (h : Keeps r s) : tabWf (fun _ => PinSt.init) s.tb.pins = true := (canonical_iff.mp h.1).2.2.2.2.1
theorem Keeps.wfPairs (h : Keeps r s) : tabWf (fun _ => none) s.tb.pairs = true := (canonical_iff.mp h.1).2.2.2.2.2.1
theorem Keeps.wfStreams (h : Keeps r s) : tabWf (fun _ => Stream.init) s.streams = true := (canonical_iff.mp h.1).2.2.2.2.2.2.1
theorem Keeps.wfCores (h : Keeps r s) : tabWf (fun _ => CoreSt.init) s.cores = true := (canonical_iff.mp h.1).2.2.2.2.2.2.2.1
theorem Keeps.wfLinks (h : Keeps r s) : tabWf (fun _ => LinkSt.init) s.links = true := (canonical_iff.mp h.1).2.2.2.2.2.2.2.2.1
theorem Keeps.wfTiles (h : Keeps r s) : tabWf (fun _ => TileSt.init) s.tiles = true := (canonical_iff.mp h.1).2.2.2.2.2.2.2.2.2.1
theorem Keeps.wfSeqs (h : Keeps r s) : tabWf (fun _ => SeqSt.init) s.seqs = true := (canonical_iff.mp h.1).2.2.2.2.2.2.2.2.2.2.1
theorem Keeps.wfCvus (h : Keeps r s) : tabWf (fun _ => Cvu.init) s.cvus = true := (canonical_iff.mp h.1).2.2.2.2.2.2.2.2.2.2.2.1
theorem Keeps.wfOwners (h : Keeps r s) : tabWf (fun _ => OwnerSt.init) s.owners = true := (canonical_iff.mp h.1).2.2.2.2.2.2.2.2.2.2.2.2.1
theorem Keeps.wfIfaces (h : Keeps r s) : tabWf (fun _ => Iface.init) s.ifaces = true := (canonical_iff.mp h.1).2.2.2.2.2.2.2.2.2.2.2.2.2.1
theorem Keeps.wfToks (h : Keeps r s) : tabWf (fun _ => TokSt.init) s.toks = true := (canonical_iff.mp h.1).2.2.2.2.2.2.2.2.2.2.2.2.2.2.1
theorem Keeps.wfDmas (h : Keeps r s) : tabWf (fun _ => DmaSt.init) s.dmas = true := (canonical_iff.mp h.1).2.2.2.2.2.2.2.2.2.2.2.2.2.2.2.1
theorem Keeps.wfDdrs (h : Keeps r s) : tabWf (fun _ => DdrSt.init) s.ddrs = true := (canonical_iff.mp h.1).2.2.2.2.2.2.2.2.2.2.2.2.2.2.2.2.1
theorem Keeps.wfBc (h : Keeps r s) : tabWf (fun _ => Receiver.init) s.bc = true := (canonical_iff.mp h.1).2.2.2.2.2.2.2.2.2.2.2.2.2.2.2.2.2.1
theorem Keeps.wfStore (h : Keeps r s) : s.store.canonical := by
  have c := (canonical_iff.mp h.1).2.2.2.2.2.2.2.2.2.2.2.2.2.2.2.2.2.2
  exact ⟨c.1, c.2.1, c.2.2.1, c.2.2.2.1⟩
theorem Keeps.wfStaging (h : Keeps r s) : s.trust.staging.wf = true := (canonical_iff.mp h.1).2.2.2.2.2.2.2.2.2.2.2.2.2.2.2.2.2.2.2.2.2.2

/-! ### Choices and folds -/

theorem keeps_ite {c : Prop} [Decidable c] {a b : State} (ha : Keeps r a) (hb : Keeps r b) : Keeps r (if c then a else b) := by
  split
  · exact ha
  · exact hb

theorem keeps_ite1 {α : Type} {c : Prop} [Decidable c] {a b : State × α} (ha : Keeps r a.1) (hb : Keeps r b.1) :
    Keeps r (if c then a else b).1 := by
  split
  · exact ha
  · exact hb

theorem Keeps.fst {α : Type} {t : State} {x : α} (h : Keeps r t) : Keeps r (t, x).1 := h

theorem Keeps.pair {α : Type} {p : State × α} {t : State} {x : α} (h : Keeps r p.1) (e : p = (t, x)) : Keeps r t := by
  rw [e] at h
  exact h

theorem State.iff_keeps {b : Bool} {f : State → State} (h : Keeps r s) (hf : ∀ t, Keeps r t → Keeps r (f t)) :
    Keeps r (s.iff b f) := keeps_ite (hf s h) h

theorem foldl_keeps {α : Type} {f : State → α → State} {l : List α} (h : Keeps r s) (hf : ∀ i t, Keeps r t → Keeps r (f t i)) :
    Keeps r (l.foldl f s) := by
  induction l generalizing s with
  | nil => exact h
  | cons a t ih => exact ih (hf a s h)

theorem foldlPair_keeps {α β : Type} {f : State × β → α → State × β} {l : List α} {b : State × β} (h : Keeps r b.1)
    (hf : ∀ i t, Keeps r t.1 → Keeps r (f t i).1) : Keeps r (l.foldl f b).1 := by
  induction l generalizing b with
  | nil => exact h
  | cons a t ih => exact ih (hf a b h)

theorem forN_keeps {n : Nat} {f : Nat → State → State} (h : Keeps r s) (hf : ∀ i t, Keeps r t → Keeps r (f i t)) :
    Keeps r (forN n f s) := foldl_keeps h hf

theorem forL_keeps {α : Type} {l : List α} {f : α → State → State} (h : Keeps r s) (hf : ∀ i t, Keeps r t → Keeps r (f i t)) :
    Keeps r (forL l f s) := foldl_keeps h hf

/-! ### Registers, messages, free values, memory -/

theorem State.wr_keeps {o : Nat} {v : Word} (h : Keeps r s) : Keeps r (s.wr o v) := h.csr (tabPut_wf o v h.wfCsr)
theorem State.fset_keeps {f : FieldRef} {v : Nat} (h : Keeps r s) : Keeps r (s.fset f v) := State.wr_keeps h
theorem State.fon_keeps {f : FieldRef} (h : Keeps r s) : Keeps r (s.fon f) := State.wr_keeps h
theorem State.foff_keeps {f : FieldRef} (h : Keeps r s) : Keeps r (s.foff f) := State.wr_keeps h
theorem State.fflag_keeps {f : FieldRef} {b : Bool} (h : Keeps r s) : Keeps r (s.fflag f b) := State.wr_keeps h
theorem State.wrN_keeps {o v : Nat} (h : Keeps r s) : Keeps r (s.wrN o v) := State.wr_keeps h
theorem State.wr64_keeps {o v : Nat} (h : Keeps r s) : Keeps r (s.wr64 o v) := State.wr_keeps (State.wr_keeps h)

theorem State.wrWords_keeps {o : Nat} {l : List Word} (h : Keeps r s) : Keeps r (s.wrWords o l) := by
  induction l generalizing s o with
  | nil => exact h
  | cons w t ih => exact ih (State.wr_keeps h)

theorem State.wrZeros_keeps {l : List Nat} (h : Keeps r s) : Keeps r (s.wrZeros l) := by
  induction l generalizing s with
  | nil => exact h
  | cons w t ih => exact ih (State.wr_keeps h)

theorem State.emit_keeps {e : Emit} (h : Keeps r s) : Keeps r (s.emit e) :=
  ⟨h.1, h.2.1, h.2.2.1, h.2.2.2.1, h.2.2.2.2.trans (List.suffix_cons _ _)⟩

theorem State.emitIrq_keeps {o c k : Nat} {b : Bool} (h : Keeps r s) : Keeps r (s.emitIrq o c k b) :=
  keeps_ite (State.foff_keeps (State.emit_keeps h)) (State.emit_keeps h)

theorem State.emitAll_keeps {l : List Emit} (h : Keeps r s) : Keeps r (s.emitAll l) := by
  induction l generalizing s with
  | nil => exact h
  | cons w t ih => exact ih (State.emit_keeps h)

theorem State.raise_keeps {a b c d : Nat} (h : Keeps r s) : Keeps r (s.raise a b c d) := State.emit_keeps h

theorem State.drawnN_keeps {n : Nat} (h : Keeps r s) : Keeps r (s.drawnN n) :=
  ⟨h.1, h.2.1, h.2.2.1, Nat.le_trans h.2.2.2.1 (Nat.le_add_right _ _), h.2.2.2.2⟩
theorem State.drawn_keeps (h : Keeps r s) : Keeps r s.drawn := State.drawnN_keeps (n := 1) h

theorem State.mput_keeps {a : Nat} {b : Byte} (h : Keeps r s) : Keeps r (s.mput a b) := h.mem (Memory.put_wf a b h.wfMem)
theorem State.mwrite_keeps {a : Nat} {l : List Byte} (h : Keeps r s) : Keeps r (s.mwrite a l) := h.mem (Memory.write_wf a l h.wfMem)
theorem State.mnatPut_keeps {a n v : Nat} (h : Keeps r s) : Keeps r (s.mnatPut a n v) := State.mwrite_keeps h
theorem State.mzero_keeps {a n : Nat} (h : Keeps r s) : Keeps r (s.mzero a n) := h.mem (Memory.fill_wf _ h.wfMem)
theorem State.mopenSpan_keeps {a n : Nat} {p : Span} (h : Keeps r s) : Keeps r (s.mopenSpan a n p) :=
  State.drawn_keeps (s := { s with mem := s.mem.fill ⟨a, n, some s.free, p⟩ }) (h.mem (Memory.fill_wf _ h.wfMem))
theorem State.mopen_keeps {a n : Nat} (h : Keeps r s) : Keeps r (s.mopen a n) := State.mopenSpan_keeps h
theorem State.sliceOpen_keeps {a n : Nat} (h : Keeps r s) : Keeps r (s.sliceOpen a n) := State.mopenSpan_keeps h

/-! ### Sub-states -/

theorem State.onAon_keeps {f : Aon → Aon} (h : Keeps r s) : Keeps r (s.onAon f) := h
theorem State.onTrust_keeps {f : Trust → Trust} (h : Keeps r s) (w : ∀ t : Trust, t.staging.wf = true → (f t).staging.wf = true) :
    Keeps r (s.onTrust f) := h.staging (w _ h.wfStaging)
theorem State.onChr_keeps {f : Chrysalis → Chrysalis} (h : Keeps r s) : Keeps r (s.onChr f) := h
theorem State.busyAdd_keeps {x : DdrReq} (h : Keeps r s) : Keeps r (s.busyAdd x) := h
theorem State.busyTake_keeps {x : Nat × DdrReq} (h : Keeps r s) : Keeps r (s.busyTake x) := h
theorem State.againAdd_keeps {x : Emit} (h : Keeps r s) : Keeps r (s.againAdd x) := h
theorem State.againTake_keeps {x : Nat × Emit} (h : Keeps r s) : Keeps r (s.againTake x) := h
theorem State.resendAdd_keeps {x : SyncOp} (h : Keeps r s) : Keeps r (s.resendAdd x) := h
theorem State.resendTake_keeps {x : SyncOp} (h : Keeps r s) : Keeps r (s.resendTake x) := h
theorem State.badKeep_keeps {p : Nat → Bool} (h : Keeps r s) : Keeps r (s.badKeep p) := h.bad (tabWf_filter _ h.wfBad)
theorem State.onStore_keeps {f : Settings → Settings} (h : Keeps r s) (w : ∀ t : Settings, t.canonical → (f t).canonical) :
    Keeps r (s.onStore f) := h.store (w _ h.wfStore)
theorem State.onTb_keeps {f : TimeBase → TimeBase} (h : Keeps r s)
    (w : ∀ b : TimeBase, (f b).timers = b.timers ∧ (f b).pins = b.pins ∧ (f b).pairs = b.pairs) : Keeps r (s.onTb f) :=
  h.tb ((congrArg (tabWf fun _ => Timer.init) (w s.tb).1).trans h.wfTimers)
    ((congrArg (tabWf fun _ => PinSt.init) (w s.tb).2.1).trans h.wfPins) ((congrArg (tabWf fun _ => none) (w s.tb).2.2).trans h.wfPairs)
theorem State.setTimer_keeps {k : Nat} {t : Timer} (h : Keeps r s) : Keeps r (s.setTimer k t) :=
  h.tb (tabPut_wf k t h.wfTimers) h.wfPins h.wfPairs
theorem State.setPin_keeps {k : Nat} {t : PinSt} (h : Keeps r s) : Keeps r (s.setPin k t) :=
  h.tb h.wfTimers (tabPut_wf k t h.wfPins) h.wfPairs
theorem State.setPair_keeps {o : Nat} {v : Option Word} (h : Keeps r s) : Keeps r (s.setPair o v) :=
  h.tb h.wfTimers h.wfPins (tabPut_wf o v h.wfPairs)
theorem State.onIface_keeps {c : Nat} {f : Iface → Iface} (h : Keeps r s) : Keeps r (s.onIface c f) :=
  h.ifaces (tabPut_wf c _ h.wfIfaces)
theorem State.onCtrls_keeps {f : List CtrlReq → List CtrlReq} (h : Keeps r s) : Keeps r (s.onCtrls f) := h
theorem State.onCtrlWait_keeps {f : List (CtrlReq × Emit) → List (CtrlReq × Emit)} (h : Keeps r s) : Keeps r (s.onCtrlWait f) := h
theorem State.onStream_keeps {i : Nat} {f : Stream → Stream} (h : Keeps r s) : Keeps r (s.onStream i f) :=
  h.streams (tabPut_wf i _ h.wfStreams)
theorem State.onCore_keeps {i : Nat} {f : CoreSt → CoreSt} (h : Keeps r s) : Keeps r (s.onCore i f) := h.cores (tabPut_wf i _ h.wfCores)
theorem State.onLink_keeps {i : Nat} {f : LinkSt → LinkSt} (h : Keeps r s) : Keeps r (s.onLink i f) := h.links (tabPut_wf i _ h.wfLinks)
theorem State.onTile_keeps {i : Nat} {f : TileSt → TileSt} (h : Keeps r s) : Keeps r (s.onTile i f) := h.tiles (tabPut_wf i _ h.wfTiles)
theorem State.setSeq_keeps {i : Nat} {v : SeqSt} (h : Keeps r s) : Keeps r (s.setSeq i v) := h.seqs (tabPut_wf i _ h.wfSeqs)
theorem State.setCvu_keeps {i : Nat} {v : Cvu} (h : Keeps r s) : Keeps r (s.setCvu i v) := h.cvus (tabPut_wf i _ h.wfCvus)
theorem State.onOwner_keeps {i : Nat} {f : OwnerSt → OwnerSt} (h : Keeps r s) : Keeps r (s.onOwner i f) :=
  h.owners (tabPut_wf i _ h.wfOwners)
theorem State.onDma_keeps {i : Nat} {f : DmaSt → DmaSt} (h : Keeps r s) : Keeps r (s.onDma i f) := h.dmas (tabPut_wf i _ h.wfDmas)
theorem State.onDdr_keeps {i : Nat} {f : DdrSt → DdrSt} (h : Keeps r s) : Keeps r (s.onDdr i f) := h.ddrs (tabPut_wf i _ h.wfDdrs)
theorem State.onTok_keeps {i : Nat} {f : TokSt → TokSt} (h : Keeps r s) : Keeps r (s.onTok i f) := h.toks (tabPut_wf i _ h.wfToks)

end Sys2Proof.Machine
end

