-- ==== Sys2Proof/Laws/KeepsFlags.lean ====
section
/-! SUPPORT. The operations of Machine/Flags.lean keep what Laws/Keeps.lean says. -/

namespace Sys2Proof.Machine

variable {ref s : State}

theorem State.ignored_keeps {o : Nat} (hk : Keeps ref s) : Keeps ref (State.ignored s o) := by
  unfold State.ignored
  repeat' with_reducible first | intro _ | assumption | apply keeps_ite | apply State.fon_keeps | split | dsimp only

theorem State.takenIf_keeps {o : Nat} {b : Bool} {f : State → State} (hk : Keeps ref s) (hkf : ∀ t, Keeps ref t → Keeps ref (f t)) : Keeps ref (State.takenIf s o b f) := by
  unfold State.takenIf
  repeat' with_reducible first | intro _ | assumption | apply keeps_ite | apply State.ignored_keeps | apply hkf | split | dsimp only

theorem State.fcount_keeps {f : FieldRef} {n : Nat} (hk : Keeps ref s) : Keeps ref (State.fcount s f n) := by
  unfold State.fcount
  repeat' with_reducible first | intro _ | assumption | apply keeps_ite | apply State.fset_keeps | split | dsimp only

theorem State.count_keeps {o : Nat} {n : Nat} (hk : Keeps ref s) : Keeps ref (State.count s o n) := by
  unfold State.count
  repeat' with_reducible first | intro _ | assumption | apply keeps_ite | apply State.wrN_keeps | split | dsimp only

end Sys2Proof.Machine
end

