-- ==== Sys2Proof/Laws/KeepsStale.lean ====
section
/-! SUPPORT. The operations of Machine/Stale.lean keep what Laws/Keeps.lean says. -/

namespace Sys2Proof.Machine

variable {ref s : State}

theorem State.setChr_keeps {v : Nat} (hk : Keeps ref s) : Keeps ref (State.setChr s v) := by
  unfold State.setChr
  repeat' with_reducible first | intro _ | assumption | apply keeps_ite | apply State.fset_keeps | split | dsimp only

theorem State.chrFail_keeps {code : Nat} {info : Nat} {entry : Nat} (hk : Keeps ref s) : Keeps ref (State.chrFail s code info entry) := by
  unfold State.chrFail
  repeat' with_reducible first | intro _ | assumption | apply keeps_ite | apply State.wrN_keeps | split | dsimp only

theorem State.chrFailed_keeps {code : Nat} {info : Nat} {entry : Nat} (hk : Keeps ref s) : Keeps ref (State.chrFailed s code info entry) := by
  unfold State.chrFailed
  repeat' with_reducible first | intro _ | assumption | apply keeps_ite | apply State.setChr_keeps | apply State.chrFail_keeps | apply State.count_keeps | split | dsimp only

theorem State.chrStale_keeps {entry : Nat} {addr : Word} (hk : Keeps ref s) : Keeps ref (State.chrStale s entry addr) := by
  unfold State.chrStale
  repeat' with_reducible first | intro _ | assumption | apply keeps_ite | apply State.wr_keeps | apply State.chrFailed_keeps | split | dsimp only

theorem State.staleWord_keeps {t : Target} {block : Bool} (hk : Keeps ref s) : Keeps ref (State.staleWord s t block) := by
  unfold State.staleWord
  repeat' with_reducible first | intro _ | assumption | apply keeps_ite | apply State.chrStale_keeps | split | dsimp only

theorem State.staleIf_keeps {o : Nat} {old : Word} (hk : Keeps ref s) : Keeps ref (State.staleIf s o old) := by
  unfold State.staleIf
  repeat' with_reducible first | intro _ | assumption | apply keeps_ite | apply State.staleWord_keeps | split | dsimp only

theorem State.staleAll_keeps  (hk : Keeps ref s) : Keeps ref (State.staleAll s) := by
  unfold State.staleAll
  repeat' with_reducible first | intro _ | assumption | apply keeps_ite | apply State.chrStale_keeps | split | dsimp only

end Sys2Proof.Machine
end

