-- ==== Sys2Proof/Laws/KeepsOperands.lean ====
section
/-! SUPPORT. The operations of Machine/Operands.lean keep what Laws/Keeps.lean says. -/

namespace Sys2Proof.Machine

variable {ref s : State}

theorem State.wakeOne_keeps {i : Nat} {cause : Nat} (hk : Keeps ref s) : Keeps ref (State.wakeOne s i cause) := by
  unfold State.wakeOne
  repeat' with_reducible first | intro _ | assumption | apply keeps_ite | apply State.fset_keeps | split | dsimp only

theorem State.wakeIsland_keeps {i : Nat} {cause : Nat} (hk : Keeps ref s) : Keeps ref (State.wakeIsland s i cause) := by
  unfold State.wakeIsland
  repeat' with_reducible first | intro _ | assumption | apply keeps_ite | apply State.wakeOne_keeps | split | dsimp only

theorem State.alive_keeps {f : State → State} (hk : Keeps ref s) (hkf : ∀ t, Keeps ref t → Keeps ref (f t)) : Keeps ref (State.alive s f) := by
  unfold State.alive
  repeat' with_reducible first | intro _ | assumption | apply keeps_ite | apply hkf | split | dsimp only

theorem State.bar_keeps {f : State → State} (hk : Keeps ref s) (hkf : ∀ t, Keeps ref t → Keeps ref (f t)) : Keeps ref (State.bar s f) := by
  unfold State.bar
  repeat' with_reducible first | intro _ | assumption | apply keeps_ite | apply State.emit_keeps | apply hkf | split | dsimp only

theorem State.barFor_keeps {m : Master} {f : State → State} (hk : Keeps ref s) (hkf : ∀ t, Keeps ref t → Keeps ref (f t)) : Keeps ref (State.barFor s m f) := by
  unfold State.barFor
  repeat' with_reducible first | intro _ | assumption | apply keeps_ite | apply State.bar_keeps | apply hkf | split | dsimp only

theorem State.csrWake_keeps {o : Nat} (hk : Keeps ref s) : Keeps ref (State.csrWake s o) := by
  unfold State.csrWake
  repeat' with_reducible first | intro _ | assumption | apply keeps_ite | apply State.wakeIsland_keeps | split | dsimp only

theorem State.guarded_keeps {m : Master} {o : Nat} {f : State → State} (hk : Keeps ref s) (hkf : ∀ t, Keeps ref t → Keeps ref (f t)) : Keeps ref (State.guarded s m o f) := by
  unfold State.guarded
  repeat' with_reducible first | intro _ | assumption | apply keeps_ite | apply State.staleIf_keeps | apply State.csrWake_keeps | apply State.count_keeps | apply State.emit_keeps | apply hkf | split | dsimp only

end Sys2Proof.Machine
end

