-- ==== Sys2Proof/Laws/State.lean ====
section
/-! SUPPORT. What each named update of the state leaves alone, field by field, and what the changed field becomes: no later
proof unfolds a record update. -/

namespace Sys2Proof.Machine

variable (s : State)

@[simp] theorem State.wr_pending (o : Nat) (v : Word) : (s.wr o v).pending = s.pending := rfl
@[simp] theorem State.wr_mem (o : Nat) (v : Word) : (s.wr o v).mem = s.mem := rfl
@[simp] theorem State.wr_bad (o : Nat) (v : Word) : (s.wr o v).bad = s.bad := rfl
@[simp] theorem State.wr_time (o : Nat) (v : Word) : (s.wr o v).time = s.time := rfl
@[simp] theorem State.wr_counter (o : Nat) (v : Word) : (s.wr o v).counter = s.counter := rfl
@[simp] theorem State.wr_free (o : Nat) (v : Word) : (s.wr o v).free = s.free := rfl
@[simp] theorem State.wr_sent (o : Nat) (v : Word) : (s.wr o v).sent = s.sent := rfl
@[simp] theorem State.wr_aon (o : Nat) (v : Word) : (s.wr o v).aon = s.aon := rfl
@[simp] theorem State.wr_store (o : Nat) (v : Word) : (s.wr o v).store = s.store := rfl
@[simp] theorem State.wr_trust (o : Nat) (v : Word) : (s.wr o v).trust = s.trust := rfl
@[simp] theorem State.wr_tb (o : Nat) (v : Word) : (s.wr o v).tb = s.tb := rfl
@[simp] theorem State.wr_chr (o : Nat) (v : Word) : (s.wr o v).chr = s.chr := rfl
@[simp] theorem State.wr_streams (o : Nat) (v : Word) : (s.wr o v).streams = s.streams := rfl
@[simp] theorem State.wr_cores (o : Nat) (v : Word) : (s.wr o v).cores = s.cores := rfl
@[simp] theorem State.wr_links (o : Nat) (v : Word) : (s.wr o v).links = s.links := rfl
@[simp] theorem State.wr_tiles (o : Nat) (v : Word) : (s.wr o v).tiles = s.tiles := rfl
@[simp] theorem State.wr_seqs (o : Nat) (v : Word) : (s.wr o v).seqs = s.seqs := rfl
@[simp] theorem State.wr_cvus (o : Nat) (v : Word) : (s.wr o v).cvus = s.cvus := rfl
@[simp] theorem State.wr_owners (o : Nat) (v : Word) : (s.wr o v).owners = s.owners := rfl
@[simp] theorem State.wr_resends (o : Nat) (v : Word) : (s.wr o v).resends = s.resends := rfl
@[simp] theorem State.wr_toks (o : Nat) (v : Word) : (s.wr o v).toks = s.toks := rfl
@[simp] theorem State.wr_dmas (o : Nat) (v : Word) : (s.wr o v).dmas = s.dmas := rfl
@[simp] theorem State.wr_ddrs (o : Nat) (v : Word) : (s.wr o v).ddrs = s.ddrs := rfl
@[simp] theorem State.wr_busy (o : Nat) (v : Word) : (s.wr o v).busy = s.busy := rfl
@[simp] theorem State.wr_again (o : Nat) (v : Word) : (s.wr o v).again = s.again := rfl
@[simp] theorem State.wr_bc (o : Nat) (v : Word) : (s.wr o v).bc = s.bc := rfl
@[simp] theorem State.wr_bcReports (o : Nat) (v : Word) : (s.wr o v).bcReports = s.bcReports := rfl
@[simp] theorem State.wr_ifaces (o : Nat) (v : Word) : (s.wr o v).ifaces = s.ifaces := rfl
@[simp] theorem State.wr_ctrls (o : Nat) (v : Word) : (s.wr o v).ctrls = s.ctrls := rfl
@[simp] theorem State.wr_ctrlWait (o : Nat) (v : Word) : (s.wr o v).ctrlWait = s.ctrlWait := rfl
@[simp] theorem State.fset_pending (f : FieldRef) (v : Nat) : (s.fset f v).pending = s.pending := rfl
@[simp] theorem State.fset_mem (f : FieldRef) (v : Nat) : (s.fset f v).mem = s.mem := rfl
@[simp] theorem State.fset_bad (f : FieldRef) (v : Nat) : (s.fset f v).bad = s.bad := rfl
@[simp] theorem State.fset_time (f : FieldRef) (v : Nat) : (s.fset f v).time = s.time := rfl
@[simp] theorem State.fset_counter (f : FieldRef) (v : Nat) : (s.fset f v).counter = s.counter := rfl
@[simp] theorem State.fset_free (f : FieldRef) (v : Nat) : (s.fset f v).free = s.free := rfl
@[simp] theorem State.fset_sent (f : FieldRef) (v : Nat) : (s.fset f v).sent = s.sent := rfl
@[simp] theorem State.fset_aon (f : FieldRef) (v : Nat) : (s.fset f v).aon = s.aon := rfl
@[simp] theorem State.fset_store (f : FieldRef) (v : Nat) : (s.fset f v).store = s.store := rfl
@[simp] theorem State.fset_trust (f : FieldRef) (v : Nat) : (s.fset f v).trust = s.trust := rfl
@[simp] theorem State.fset_tb (f : FieldRef) (v : Nat) : (s.fset f v).tb = s.tb := rfl
@[simp] theorem State.fset_chr (f : FieldRef) (v : Nat) : (s.fset f v).chr = s.chr := rfl
@[simp] theorem State.fset_streams (f : FieldRef) (v : Nat) : (s.fset f v).streams = s.streams := rfl
@[simp] theorem State.fset_cores (f : FieldRef) (v : Nat) : (s.fset f v).cores = s.cores := rfl
@[simp] theorem State.fset_links (f : FieldRef) (v : Nat) : (s.fset f v).links = s.links := rfl
@[simp] theorem State.fset_tiles (f : FieldRef) (v : Nat) : (s.fset f v).tiles = s.tiles := rfl
@[simp] theorem State.fset_seqs (f : FieldRef) (v : Nat) : (s.fset f v).seqs = s.seqs := rfl
@[simp] theorem State.fset_cvus (f : FieldRef) (v : Nat) : (s.fset f v).cvus = s.cvus := rfl
@[simp] theorem State.fset_owners (f : FieldRef) (v : Nat) : (s.fset f v).owners = s.owners := rfl
@[simp] theorem State.fset_resends (f : FieldRef) (v : Nat) : (s.fset f v).resends = s.resends := rfl
@[simp] theorem State.fset_toks (f : FieldRef) (v : Nat) : (s.fset f v).toks = s.toks := rfl
@[simp] theorem State.fset_dmas (f : FieldRef) (v : Nat) : (s.fset f v).dmas = s.dmas := rfl
@[simp] theorem State.fset_ddrs (f : FieldRef) (v : Nat) : (s.fset f v).ddrs = s.ddrs := rfl
@[simp] theorem State.fset_busy (f : FieldRef) (v : Nat) : (s.fset f v).busy = s.busy := rfl
@[simp] theorem State.fset_again (f : FieldRef) (v : Nat) : (s.fset f v).again = s.again := rfl
@[simp] theorem State.fset_bc (f : FieldRef) (v : Nat) : (s.fset f v).bc = s.bc := rfl
@[simp] theorem State.fset_bcReports (f : FieldRef) (v : Nat) : (s.fset f v).bcReports = s.bcReports := rfl
@[simp] theorem State.fset_ifaces (f : FieldRef) (v : Nat) : (s.fset f v).ifaces = s.ifaces := rfl
@[simp] theorem State.fset_ctrls (f : FieldRef) (v : Nat) : (s.fset f v).ctrls = s.ctrls := rfl
@[simp] theorem State.fset_ctrlWait (f : FieldRef) (v : Nat) : (s.fset f v).ctrlWait = s.ctrlWait := rfl
@[simp] theorem State.fon_pending (f : FieldRef) : (s.fon f).pending = s.pending := rfl
@[simp] theorem State.fon_mem (f : FieldRef) : (s.fon f).mem = s.mem := rfl
@[simp] theorem State.fon_bad (f : FieldRef) : (s.fon f).bad = s.bad := rfl
@[simp] theorem State.fon_time (f : FieldRef) : (s.fon f).time = s.time := rfl
@[simp] theorem State.fon_counter (f : FieldRef) : (s.fon f).counter = s.counter := rfl
@[simp] theorem State.fon_free (f : FieldRef) : (s.fon f).free = s.free := rfl
@[simp] theorem State.fon_sent (f : FieldRef) : (s.fon f).sent = s.sent := rfl
@[simp] theorem State.fon_aon (f : FieldRef) : (s.fon f).aon = s.aon := rfl
@[simp] theorem State.fon_store (f : FieldRef) : (s.fon f).store = s.store := rfl
@[simp] theorem State.fon_trust (f : FieldRef) : (s.fon f).trust = s.trust := rfl
@[simp] theorem State.fon_tb (f : FieldRef) : (s.fon f).tb = s.tb := rfl
@[simp] theorem State.fon_chr (f : FieldRef) : (s.fon f).chr = s.chr := rfl
@[simp] theorem State.fon_streams (f : FieldRef) : (s.fon f).streams = s.streams := rfl
@[simp] theorem State.fon_cores (f : FieldRef) : (s.fon f).cores = s.cores := rfl
@[simp] theorem State.fon_links (f : FieldRef) : (s.fon f).links = s.links := rfl
@[simp] theorem State.fon_tiles (f : FieldRef) : (s.fon f).tiles = s.tiles := rfl
@[simp] theorem State.fon_seqs (f : FieldRef) : (s.fon f).seqs = s.seqs := rfl
@[simp] theorem State.fon_cvus (f : FieldRef) : (s.fon f).cvus = s.cvus := rfl
@[simp] theorem State.fon_owners (f : FieldRef) : (s.fon f).owners = s.owners := rfl
@[simp] theorem State.fon_resends (f : FieldRef) : (s.fon f).resends = s.resends := rfl
@[simp] theorem State.fon_toks (f : FieldRef) : (s.fon f).toks = s.toks := rfl
@[simp] theorem State.fon_dmas (f : FieldRef) : (s.fon f).dmas = s.dmas := rfl
@[simp] theorem State.fon_ddrs (f : FieldRef) : (s.fon f).ddrs = s.ddrs := rfl
@[simp] theorem State.fon_busy (f : FieldRef) : (s.fon f).busy = s.busy := rfl
@[simp] theorem State.fon_again (f : FieldRef) : (s.fon f).again = s.again := rfl
@[simp] theorem State.fon_bc (f : FieldRef) : (s.fon f).bc = s.bc := rfl
@[simp] theorem State.fon_bcReports (f : FieldRef) : (s.fon f).bcReports = s.bcReports := rfl
@[simp] theorem State.fon_ifaces (f : FieldRef) : (s.fon f).ifaces = s.ifaces := rfl
@[simp] theorem State.fon_ctrls (f : FieldRef) : (s.fon f).ctrls = s.ctrls := rfl
@[simp] theorem State.fon_ctrlWait (f : FieldRef) : (s.fon f).ctrlWait = s.ctrlWait := rfl
@[simp] theorem State.foff_pending (f : FieldRef) : (s.foff f).pending = s.pending := rfl
@[simp] theorem State.foff_mem (f : FieldRef) : (s.foff f).mem = s.mem := rfl
@[simp] theorem State.foff_bad (f : FieldRef) : (s.foff f).bad = s.bad := rfl
@[simp] theorem State.foff_time (f : FieldRef) : (s.foff f).time = s.time := rfl
@[simp] theorem State.foff_counter (f : FieldRef) : (s.foff f).counter = s.counter := rfl
@[simp] theorem State.foff_free (f : FieldRef) : (s.foff f).free = s.free := rfl
@[simp] theorem State.foff_sent (f : FieldRef) : (s.foff f).sent = s.sent := rfl
@[simp] theorem State.foff_aon (f : FieldRef) : (s.foff f).aon = s.aon := rfl
@[simp] theorem State.foff_store (f : FieldRef) : (s.foff f).store = s.store := rfl
@[simp] theorem State.foff_trust (f : FieldRef) : (s.foff f).trust = s.trust := rfl
@[simp] theorem State.foff_tb (f : FieldRef) : (s.foff f).tb = s.tb := rfl
@[simp] theorem State.foff_chr (f : FieldRef) : (s.foff f).chr = s.chr := rfl
@[simp] theorem State.foff_streams (f : FieldRef) : (s.foff f).streams = s.streams := rfl
@[simp] theorem State.foff_cores (f : FieldRef) : (s.foff f).cores = s.cores := rfl
@[simp] theorem State.foff_links (f : FieldRef) : (s.foff f).links = s.links := rfl
@[simp] theorem State.foff_tiles (f : FieldRef) : (s.foff f).tiles = s.tiles := rfl
@[simp] theorem State.foff_seqs (f : FieldRef) : (s.foff f).seqs = s.seqs := rfl
@[simp] theorem State.foff_cvus (f : FieldRef) : (s.foff f).cvus = s.cvus := rfl
@[simp] theorem State.foff_owners (f : FieldRef) : (s.foff f).owners = s.owners := rfl
@[simp] theorem State.foff_resends (f : FieldRef) : (s.foff f).resends = s.resends := rfl
@[simp] theorem State.foff_toks (f : FieldRef) : (s.foff f).toks = s.toks := rfl
@[simp] theorem State.foff_dmas (f : FieldRef) : (s.foff f).dmas = s.dmas := rfl
@[simp] theorem State.foff_ddrs (f : FieldRef) : (s.foff f).ddrs = s.ddrs := rfl
@[simp] theorem State.foff_busy (f : FieldRef) : (s.foff f).busy = s.busy := rfl
@[simp] theorem State.foff_again (f : FieldRef) : (s.foff f).again = s.again := rfl
@[simp] theorem State.foff_bc (f : FieldRef) : (s.foff f).bc = s.bc := rfl
@[simp] theorem State.foff_bcReports (f : FieldRef) : (s.foff f).bcReports = s.bcReports := rfl
@[simp] theorem State.foff_ifaces (f : FieldRef) : (s.foff f).ifaces = s.ifaces := rfl
@[simp] theorem State.foff_ctrls (f : FieldRef) : (s.foff f).ctrls = s.ctrls := rfl
@[simp] theorem State.foff_ctrlWait (f : FieldRef) : (s.foff f).ctrlWait = s.ctrlWait := rfl
@[simp] theorem State.fflag_pending (f : FieldRef) (b : Bool) : (s.fflag f b).pending = s.pending := rfl
@[simp] theorem State.fflag_mem (f : FieldRef) (b : Bool) : (s.fflag f b).mem = s.mem := rfl
@[simp] theorem State.fflag_bad (f : FieldRef) (b : Bool) : (s.fflag f b).bad = s.bad := rfl
@[simp] theorem State.fflag_time (f : FieldRef) (b : Bool) : (s.fflag f b).time = s.time := rfl
@[simp] theorem State.fflag_counter (f : FieldRef) (b : Bool) : (s.fflag f b).counter = s.counter := rfl
@[simp] theorem State.fflag_free (f : FieldRef) (b : Bool) : (s.fflag f b).free = s.free := rfl
@[simp] theorem State.fflag_sent (f : FieldRef) (b : Bool) : (s.fflag f b).sent = s.sent := rfl
@[simp] theorem State.fflag_aon (f : FieldRef) (b : Bool) : (s.fflag f b).aon = s.aon := rfl
@[simp] theorem State.fflag_store (f : FieldRef) (b : Bool) : (s.fflag f b).store = s.store := rfl
@[simp] theorem State.fflag_trust (f : FieldRef) (b : Bool) : (s.fflag f b).trust = s.trust := rfl
@[simp] theorem State.fflag_tb (f : FieldRef) (b : Bool) : (s.fflag f b).tb = s.tb := rfl
@[simp] theorem State.fflag_chr (f : FieldRef) (b : Bool) : (s.fflag f b).chr = s.chr := rfl
@[simp] theorem State.fflag_streams (f : FieldRef) (b : Bool) : (s.fflag f b).streams = s.streams := rfl
@[simp] theorem State.fflag_cores (f : FieldRef) (b : Bool) : (s.fflag f b).cores = s.cores := rfl
@[simp] theorem State.fflag_links (f : FieldRef) (b : Bool) : (s.fflag f b).links = s.links := rfl
@[simp] theorem State.fflag_tiles (f : FieldRef) (b : Bool) : (s.fflag f b).tiles = s.tiles := rfl
@[simp] theorem State.fflag_seqs (f : FieldRef) (b : Bool) : (s.fflag f b).seqs = s.seqs := rfl
@[simp] theorem State.fflag_cvus (f : FieldRef) (b : Bool) : (s.fflag f b).cvus = s.cvus := rfl
@[simp] theorem State.fflag_owners (f : FieldRef) (b : Bool) : (s.fflag f b).owners = s.owners := rfl
@[simp] theorem State.fflag_resends (f : FieldRef) (b : Bool) : (s.fflag f b).resends = s.resends := rfl
@[simp] theorem State.fflag_toks (f : FieldRef) (b : Bool) : (s.fflag f b).toks = s.toks := rfl
@[simp] theorem State.fflag_dmas (f : FieldRef) (b : Bool) : (s.fflag f b).dmas = s.dmas := rfl
@[simp] theorem State.fflag_ddrs (f : FieldRef) (b : Bool) : (s.fflag f b).ddrs = s.ddrs := rfl
@[simp] theorem State.fflag_busy (f : FieldRef) (b : Bool) : (s.fflag f b).busy = s.busy := rfl
@[simp] theorem State.fflag_again (f : FieldRef) (b : Bool) : (s.fflag f b).again = s.again := rfl
@[simp] theorem State.fflag_bc (f : FieldRef) (b : Bool) : (s.fflag f b).bc = s.bc := rfl
@[simp] theorem State.fflag_bcReports (f : FieldRef) (b : Bool) : (s.fflag f b).bcReports = s.bcReports := rfl
@[simp] theorem State.fflag_ifaces (f : FieldRef) (b : Bool) : (s.fflag f b).ifaces = s.ifaces := rfl
@[simp] theorem State.fflag_ctrls (f : FieldRef) (b : Bool) : (s.fflag f b).ctrls = s.ctrls := rfl
@[simp] theorem State.fflag_ctrlWait (f : FieldRef) (b : Bool) : (s.fflag f b).ctrlWait = s.ctrlWait := rfl
@[simp] theorem State.wrN_pending (o v : Nat) : (s.wrN o v).pending = s.pending := rfl
@[simp] theorem State.wrN_mem (o v : Nat) : (s.wrN o v).mem = s.mem := rfl
@[simp] theorem State.wrN_bad (o v : Nat) : (s.wrN o v).bad = s.bad := rfl
@[simp] theorem State.wrN_time (o v : Nat) : (s.wrN o v).time = s.time := rfl
@[simp] theorem State.wrN_counter (o v : Nat) : (s.wrN o v).counter = s.counter := rfl
@[simp] theorem State.wrN_free (o v : Nat) : (s.wrN o v).free = s.free := rfl
@[simp] theorem State.wrN_sent (o v : Nat) : (s.wrN o v).sent = s.sent := rfl
@[simp] theorem State.wrN_aon (o v : Nat) : (s.wrN o v).aon = s.aon := rfl
@[simp] theorem State.wrN_store (o v : Nat) : (s.wrN o v).store = s.store := rfl
@[simp] theorem State.wrN_trust (o v : Nat) : (s.wrN o v).trust = s.trust := rfl
@[simp] theorem State.wrN_tb (o v : Nat) : (s.wrN o v).tb = s.tb := rfl
@[simp] theorem State.wrN_chr (o v : Nat) : (s.wrN o v).chr = s.chr := rfl
@[simp] theorem State.wrN_streams (o v : Nat) : (s.wrN o v).streams = s.streams := rfl
@[simp] theorem State.wrN_cores (o v : Nat) : (s.wrN o v).cores = s.cores := rfl
@[simp] theorem State.wrN_links (o v : Nat) : (s.wrN o v).links = s.links := rfl
@[simp] theorem State.wrN_tiles (o v : Nat) : (s.wrN o v).tiles = s.tiles := rfl
@[simp] theorem State.wrN_seqs (o v : Nat) : (s.wrN o v).seqs = s.seqs := rfl
@[simp] theorem State.wrN_cvus (o v : Nat) : (s.wrN o v).cvus = s.cvus := rfl
@[simp] theorem State.wrN_owners (o v : Nat) : (s.wrN o v).owners = s.owners := rfl
@[simp] theorem State.wrN_resends (o v : Nat) : (s.wrN o v).resends = s.resends := rfl
@[simp] theorem State.wrN_toks (o v : Nat) : (s.wrN o v).toks = s.toks := rfl
@[simp] theorem State.wrN_dmas (o v : Nat) : (s.wrN o v).dmas = s.dmas := rfl
@[simp] theorem State.wrN_ddrs (o v : Nat) : (s.wrN o v).ddrs = s.ddrs := rfl
@[simp] theorem State.wrN_busy (o v : Nat) : (s.wrN o v).busy = s.busy := rfl
@[simp] theorem State.wrN_again (o v : Nat) : (s.wrN o v).again = s.again := rfl
@[simp] theorem State.wrN_bc (o v : Nat) : (s.wrN o v).bc = s.bc := rfl
@[simp] theorem State.wrN_bcReports (o v : Nat) : (s.wrN o v).bcReports = s.bcReports := rfl
@[simp] theorem State.wrN_ifaces (o v : Nat) : (s.wrN o v).ifaces = s.ifaces := rfl
@[simp] theorem State.wrN_ctrls (o v : Nat) : (s.wrN o v).ctrls = s.ctrls := rfl
@[simp] theorem State.wrN_ctrlWait (o v : Nat) : (s.wrN o v).ctrlWait = s.ctrlWait := rfl
@[simp] theorem State.wr64_pending (o v : Nat) : (s.wr64 o v).pending = s.pending := rfl
@[simp] theorem State.wr64_mem (o v : Nat) : (s.wr64 o v).mem = s.mem := rfl
@[simp] theorem State.wr64_bad (o v : Nat) : (s.wr64 o v).bad = s.bad := rfl
@[simp] theorem State.wr64_time (o v : Nat) : (s.wr64 o v).time = s.time := rfl
@[simp] theorem State.wr64_counter (o v : Nat) : (s.wr64 o v).counter = s.counter := rfl
@[simp] theorem State.wr64_free (o v : Nat) : (s.wr64 o v).free = s.free := rfl
@[simp] theorem State.wr64_sent (o v : Nat) : (s.wr64 o v).sent = s.sent := rfl
@[simp] theorem State.wr64_aon (o v : Nat) : (s.wr64 o v).aon = s.aon := rfl
@[simp] theorem State.wr64_store (o v : Nat) : (s.wr64 o v).store = s.store := rfl
@[simp] theorem State.wr64_trust (o v : Nat) : (s.wr64 o v).trust = s.trust := rfl
@[simp] theorem State.wr64_tb (o v : Nat) : (s.wr64 o v).tb = s.tb := rfl
@[simp] theorem State.wr64_chr (o v : Nat) : (s.wr64 o v).chr = s.chr := rfl
@[simp] theorem State.wr64_streams (o v : Nat) : (s.wr64 o v).streams = s.streams := rfl
@[simp] theorem State.wr64_cores (o v : Nat) : (s.wr64 o v).cores = s.cores := rfl
@[simp] theorem State.wr64_links (o v : Nat) : (s.wr64 o v).links = s.links := rfl
@[simp] theorem State.wr64_tiles (o v : Nat) : (s.wr64 o v).tiles = s.tiles := rfl
@[simp] theorem State.wr64_seqs (o v : Nat) : (s.wr64 o v).seqs = s.seqs := rfl
@[simp] theorem State.wr64_cvus (o v : Nat) : (s.wr64 o v).cvus = s.cvus := rfl
@[simp] theorem State.wr64_owners (o v : Nat) : (s.wr64 o v).owners = s.owners := rfl
@[simp] theorem State.wr64_resends (o v : Nat) : (s.wr64 o v).resends = s.resends := rfl
@[simp] theorem State.wr64_toks (o v : Nat) : (s.wr64 o v).toks = s.toks := rfl
@[simp] theorem State.wr64_dmas (o v : Nat) : (s.wr64 o v).dmas = s.dmas := rfl
@[simp] theorem State.wr64_ddrs (o v : Nat) : (s.wr64 o v).ddrs = s.ddrs := rfl
@[simp] theorem State.wr64_busy (o v : Nat) : (s.wr64 o v).busy = s.busy := rfl
@[simp] theorem State.wr64_again (o v : Nat) : (s.wr64 o v).again = s.again := rfl
@[simp] theorem State.wr64_bc (o v : Nat) : (s.wr64 o v).bc = s.bc := rfl
@[simp] theorem State.wr64_bcReports (o v : Nat) : (s.wr64 o v).bcReports = s.bcReports := rfl
@[simp] theorem State.wr64_ifaces (o v : Nat) : (s.wr64 o v).ifaces = s.ifaces := rfl
@[simp] theorem State.wr64_ctrls (o v : Nat) : (s.wr64 o v).ctrls = s.ctrls := rfl
@[simp] theorem State.wr64_ctrlWait (o v : Nat) : (s.wr64 o v).ctrlWait = s.ctrlWait := rfl
@[simp] theorem State.emit_pending (e : Emit) : (s.emit e).pending = s.pending := rfl
@[simp] theorem State.emit_csr (e : Emit) : (s.emit e).csr = s.csr := rfl
@[simp] theorem State.emit_mem (e : Emit) : (s.emit e).mem = s.mem := rfl
@[simp] theorem State.emit_bad (e : Emit) : (s.emit e).bad = s.bad := rfl
@[simp] theorem State.emit_time (e : Emit) : (s.emit e).time = s.time := rfl
@[simp] theorem State.emit_counter (e : Emit) : (s.emit e).counter = s.counter := rfl
@[simp] theorem State.emit_free (e : Emit) : (s.emit e).free = s.free := rfl
@[simp] theorem State.emit_aon (e : Emit) : (s.emit e).aon = s.aon := rfl
@[simp] theorem State.emit_store (e : Emit) : (s.emit e).store = s.store := rfl
@[simp] theorem State.emit_trust (e : Emit) : (s.emit e).trust = s.trust := rfl
@[simp] theorem State.emit_tb (e : Emit) : (s.emit e).tb = s.tb := rfl
@[simp] theorem State.emit_chr (e : Emit) : (s.emit e).chr = s.chr := rfl
@[simp] theorem State.emit_streams (e : Emit) : (s.emit e).streams = s.streams := rfl
@[simp] theorem State.emit_cores (e : Emit) : (s.emit e).cores = s.cores := rfl
@[simp] theorem State.emit_links (e : Emit) : (s.emit e).links = s.links := rfl
@[simp] theorem State.emit_tiles (e : Emit) : (s.emit e).tiles = s.tiles := rfl
@[simp] theorem State.emit_seqs (e : Emit) : (s.emit e).seqs = s.seqs := rfl
@[simp] theorem State.emit_cvus (e : Emit) : (s.emit e).cvus = s.cvus := rfl
@[simp] theorem State.emit_owners (e : Emit) : (s.emit e).owners = s.owners := rfl
@[simp] theorem State.emit_resends (e : Emit) : (s.emit e).resends = s.resends := rfl
@[simp] theorem State.emit_toks (e : Emit) : (s.emit e).toks = s.toks := rfl
@[simp] theorem State.emit_dmas (e : Emit) : (s.emit e).dmas = s.dmas := rfl
@[simp] theorem State.emit_ddrs (e : Emit) : (s.emit e).ddrs = s.ddrs := rfl
@[simp] theorem State.emit_busy (e : Emit) : (s.emit e).busy = s.busy := rfl
@[simp] theorem State.emit_again (e : Emit) : (s.emit e).again = s.again := rfl
@[simp] theorem State.emit_bc (e : Emit) : (s.emit e).bc = s.bc := rfl
@[simp] theorem State.emit_bcReports (e : Emit) : (s.emit e).bcReports = s.bcReports := rfl
@[simp] theorem State.emit_ifaces (e : Emit) : (s.emit e).ifaces = s.ifaces := rfl
@[simp] theorem State.emit_ctrls (e : Emit) : (s.emit e).ctrls = s.ctrls := rfl
@[simp] theorem State.emit_ctrlWait (e : Emit) : (s.emit e).ctrlWait = s.ctrlWait := rfl
@[simp] theorem State.raise_pending (a b c d : Nat) : (s.raise a b c d).pending = s.pending := rfl
@[simp] theorem State.raise_csr (a b c d : Nat) : (s.raise a b c d).csr = s.csr := rfl
@[simp] theorem State.raise_mem (a b c d : Nat) : (s.raise a b c d).mem = s.mem := rfl
@[simp] theorem State.raise_bad (a b c d : Nat) : (s.raise a b c d).bad = s.bad := rfl
@[simp] theorem State.raise_time (a b c d : Nat) : (s.raise a b c d).time = s.time := rfl
@[simp] theorem State.raise_counter (a b c d : Nat) : (s.raise a b c d).counter = s.counter := rfl
@[simp] theorem State.raise_free (a b c d : Nat) : (s.raise a b c d).free = s.free := rfl
@[simp] theorem State.raise_aon (a b c d : Nat) : (s.raise a b c d).aon = s.aon := rfl
@[simp] theorem State.raise_store (a b c d : Nat) : (s.raise a b c d).store = s.store := rfl
@[simp] theorem State.raise_trust (a b c d : Nat) : (s.raise a b c d).trust = s.trust := rfl
@[simp] theorem State.raise_tb (a b c d : Nat) : (s.raise a b c d).tb = s.tb := rfl
@[simp] theorem State.raise_chr (a b c d : Nat) : (s.raise a b c d).chr = s.chr := rfl
@[simp] theorem State.raise_streams (a b c d : Nat) : (s.raise a b c d).streams = s.streams := rfl
@[simp] theorem State.raise_cores (a b c d : Nat) : (s.raise a b c d).cores = s.cores := rfl
@[simp] theorem State.raise_links (a b c d : Nat) : (s.raise a b c d).links = s.links := rfl
@[simp] theorem State.raise_tiles (a b c d : Nat) : (s.raise a b c d).tiles = s.tiles := rfl
@[simp] theorem State.raise_seqs (a b c d : Nat) : (s.raise a b c d).seqs = s.seqs := rfl
@[simp] theorem State.raise_cvus (a b c d : Nat) : (s.raise a b c d).cvus = s.cvus := rfl
@[simp] theorem State.raise_owners (a b c d : Nat) : (s.raise a b c d).owners = s.owners := rfl
@[simp] theorem State.raise_resends (a b c d : Nat) : (s.raise a b c d).resends = s.resends := rfl
@[simp] theorem State.raise_toks (a b c d : Nat) : (s.raise a b c d).toks = s.toks := rfl
@[simp] theorem State.raise_dmas (a b c d : Nat) : (s.raise a b c d).dmas = s.dmas := rfl
@[simp] theorem State.raise_ddrs (a b c d : Nat) : (s.raise a b c d).ddrs = s.ddrs := rfl
@[simp] theorem State.raise_busy (a b c d : Nat) : (s.raise a b c d).busy = s.busy := rfl
@[simp] theorem State.raise_again (a b c d : Nat) : (s.raise a b c d).again = s.again := rfl
@[simp] theorem State.raise_bc (a b c d : Nat) : (s.raise a b c d).bc = s.bc := rfl
@[simp] theorem State.raise_bcReports (a b c d : Nat) : (s.raise a b c d).bcReports = s.bcReports := rfl
@[simp] theorem State.raise_ifaces (a b c d : Nat) : (s.raise a b c d).ifaces = s.ifaces := rfl
@[simp] theorem State.raise_ctrls (a b c d : Nat) : (s.raise a b c d).ctrls = s.ctrls := rfl
@[simp] theorem State.raise_ctrlWait (a b c d : Nat) : (s.raise a b c d).ctrlWait = s.ctrlWait := rfl
@[simp] theorem State.drawn_pending : (s.drawn).pending = s.pending := rfl
@[simp] theorem State.drawn_csr : (s.drawn).csr = s.csr := rfl
@[simp] theorem State.drawn_mem : (s.drawn).mem = s.mem := rfl
@[simp] theorem State.drawn_bad : (s.drawn).bad = s.bad := rfl
@[simp] theorem State.drawn_time : (s.drawn).time = s.time := rfl
@[simp] theorem State.drawn_counter : (s.drawn).counter = s.counter := rfl
@[simp] theorem State.drawn_sent : (s.drawn).sent = s.sent := rfl
@[simp] theorem State.drawn_aon : (s.drawn).aon = s.aon := rfl
@[simp] theorem State.drawn_store : (s.drawn).store = s.store := rfl
@[simp] theorem State.drawn_trust : (s.drawn).trust = s.trust := rfl
@[simp] theorem State.drawn_tb : (s.drawn).tb = s.tb := rfl
@[simp] theorem State.drawn_chr : (s.drawn).chr = s.chr := rfl
@[simp] theorem State.drawn_streams : (s.drawn).streams = s.streams := rfl
@[simp] theorem State.drawn_cores : (s.drawn).cores = s.cores := rfl
@[simp] theorem State.drawn_links : (s.drawn).links = s.links := rfl
@[simp] theorem State.drawn_tiles : (s.drawn).tiles = s.tiles := rfl
@[simp] theorem State.drawn_seqs : (s.drawn).seqs = s.seqs := rfl
@[simp] theorem State.drawn_cvus : (s.drawn).cvus = s.cvus := rfl
@[simp] theorem State.drawn_owners : (s.drawn).owners = s.owners := rfl
@[simp] theorem State.drawn_resends : (s.drawn).resends = s.resends := rfl
@[simp] theorem State.drawn_toks : (s.drawn).toks = s.toks := rfl
@[simp] theorem State.drawn_dmas : (s.drawn).dmas = s.dmas := rfl
@[simp] theorem State.drawn_ddrs : (s.drawn).ddrs = s.ddrs := rfl
@[simp] theorem State.drawn_busy : (s.drawn).busy = s.busy := rfl
@[simp] theorem State.drawn_again : (s.drawn).again = s.again := rfl
@[simp] theorem State.drawn_bc : (s.drawn).bc = s.bc := rfl
@[simp] theorem State.drawn_bcReports : (s.drawn).bcReports = s.bcReports := rfl
@[simp] theorem State.drawn_ifaces : (s.drawn).ifaces = s.ifaces := rfl
@[simp] theorem State.drawn_ctrls : (s.drawn).ctrls = s.ctrls := rfl
@[simp] theorem State.drawn_ctrlWait : (s.drawn).ctrlWait = s.ctrlWait := rfl
@[simp] theorem State.drawnN_pending (n : Nat) : (s.drawnN n).pending = s.pending := rfl
@[simp] theorem State.drawnN_csr (n : Nat) : (s.drawnN n).csr = s.csr := rfl
@[simp] theorem State.drawnN_mem (n : Nat) : (s.drawnN n).mem = s.mem := rfl
@[simp] theorem State.drawnN_bad (n : Nat) : (s.drawnN n).bad = s.bad := rfl
@[simp] theorem State.drawnN_time (n : Nat) : (s.drawnN n).time = s.time := rfl
@[simp] theorem State.drawnN_counter (n : Nat) : (s.drawnN n).counter = s.counter := rfl
@[simp] theorem State.drawnN_sent (n : Nat) : (s.drawnN n).sent = s.sent := rfl
@[simp] theorem State.drawnN_aon (n : Nat) : (s.drawnN n).aon = s.aon := rfl
@[simp] theorem State.drawnN_store (n : Nat) : (s.drawnN n).store = s.store := rfl
@[simp] theorem State.drawnN_trust (n : Nat) : (s.drawnN n).trust = s.trust := rfl
@[simp] theorem State.drawnN_tb (n : Nat) : (s.drawnN n).tb = s.tb := rfl
@[simp] theorem State.drawnN_chr (n : Nat) : (s.drawnN n).chr = s.chr := rfl
@[simp] theorem State.drawnN_streams (n : Nat) : (s.drawnN n).streams = s.streams := rfl
@[simp] theorem State.drawnN_cores (n : Nat) : (s.drawnN n).cores = s.cores := rfl
@[simp] theorem State.drawnN_links (n : Nat) : (s.drawnN n).links = s.links := rfl
@[simp] theorem State.drawnN_tiles (n : Nat) : (s.drawnN n).tiles = s.tiles := rfl
@[simp] theorem State.drawnN_seqs (n : Nat) : (s.drawnN n).seqs = s.seqs := rfl
@[simp] theorem State.drawnN_cvus (n : Nat) : (s.drawnN n).cvus = s.cvus := rfl
@[simp] theorem State.drawnN_owners (n : Nat) : (s.drawnN n).owners = s.owners := rfl
@[simp] theorem State.drawnN_resends (n : Nat) : (s.drawnN n).resends = s.resends := rfl
@[simp] theorem State.drawnN_toks (n : Nat) : (s.drawnN n).toks = s.toks := rfl
@[simp] theorem State.drawnN_dmas (n : Nat) : (s.drawnN n).dmas = s.dmas := rfl
@[simp] theorem State.drawnN_ddrs (n : Nat) : (s.drawnN n).ddrs = s.ddrs := rfl
@[simp] theorem State.drawnN_busy (n : Nat) : (s.drawnN n).busy = s.busy := rfl
@[simp] theorem State.drawnN_again (n : Nat) : (s.drawnN n).again = s.again := rfl
@[simp] theorem State.drawnN_bc (n : Nat) : (s.drawnN n).bc = s.bc := rfl
@[simp] theorem State.drawnN_bcReports (n : Nat) : (s.drawnN n).bcReports = s.bcReports := rfl
@[simp] theorem State.drawnN_ifaces (n : Nat) : (s.drawnN n).ifaces = s.ifaces := rfl
@[simp] theorem State.drawnN_ctrls (n : Nat) : (s.drawnN n).ctrls = s.ctrls := rfl
@[simp] theorem State.drawnN_ctrlWait (n : Nat) : (s.drawnN n).ctrlWait = s.ctrlWait := rfl
@[simp] theorem State.mput_pending (a : Nat) (b : Byte) : (s.mput a b).pending = s.pending := rfl
@[simp] theorem State.mput_csr (a : Nat) (b : Byte) : (s.mput a b).csr = s.csr := rfl
@[simp] theorem State.mput_bad (a : Nat) (b : Byte) : (s.mput a b).bad = s.bad := rfl
@[simp] theorem State.mput_time (a : Nat) (b : Byte) : (s.mput a b).time = s.time := rfl
@[simp] theorem State.mput_counter (a : Nat) (b : Byte) : (s.mput a b).counter = s.counter := rfl
@[simp] theorem State.mput_free (a : Nat) (b : Byte) : (s.mput a b).free = s.free := rfl
@[simp] theorem State.mput_sent (a : Nat) (b : Byte) : (s.mput a b).sent = s.sent := rfl
@[simp] theorem State.mput_aon (a : Nat) (b : Byte) : (s.mput a b).aon = s.aon := rfl
@[simp] theorem State.mput_store (a : Nat) (b : Byte) : (s.mput a b).store = s.store := rfl
@[simp] theorem State.mput_trust (a : Nat) (b : Byte) : (s.mput a b).trust = s.trust := rfl
@[simp] theorem State.mput_tb (a : Nat) (b : Byte) : (s.mput a b).tb = s.tb := rfl
@[simp] theorem State.mput_chr (a : Nat) (b : Byte) : (s.mput a b).chr = s.chr := rfl
@[simp] theorem State.mput_streams (a : Nat) (b : Byte) : (s.mput a b).streams = s.streams := rfl
@[simp] theorem State.mput_cores (a : Nat) (b : Byte) : (s.mput a b).cores = s.cores := rfl
@[simp] theorem State.mput_links (a : Nat) (b : Byte) : (s.mput a b).links = s.links := rfl
@[simp] theorem State.mput_tiles (a : Nat) (b : Byte) : (s.mput a b).tiles = s.tiles := rfl
@[simp] theorem State.mput_seqs (a : Nat) (b : Byte) : (s.mput a b).seqs = s.seqs := rfl
@[simp] theorem State.mput_cvus (a : Nat) (b : Byte) : (s.mput a b).cvus = s.cvus := rfl
@[simp] theorem State.mput_owners (a : Nat) (b : Byte) : (s.mput a b).owners = s.owners := rfl
@[simp] theorem State.mput_resends (a : Nat) (b : Byte) : (s.mput a b).resends = s.resends := rfl
@[simp] theorem State.mput_toks (a : Nat) (b : Byte) : (s.mput a b).toks = s.toks := rfl
@[simp] theorem State.mput_dmas (a : Nat) (b : Byte) : (s.mput a b).dmas = s.dmas := rfl
@[simp] theorem State.mput_ddrs (a : Nat) (b : Byte) : (s.mput a b).ddrs = s.ddrs := rfl
@[simp] theorem State.mput_busy (a : Nat) (b : Byte) : (s.mput a b).busy = s.busy := rfl
@[simp] theorem State.mput_again (a : Nat) (b : Byte) : (s.mput a b).again = s.again := rfl
@[simp] theorem State.mput_bc (a : Nat) (b : Byte) : (s.mput a b).bc = s.bc := rfl
@[simp] theorem State.mput_bcReports (a : Nat) (b : Byte) : (s.mput a b).bcReports = s.bcReports := rfl
@[simp] theorem State.mput_ifaces (a : Nat) (b : Byte) : (s.mput a b).ifaces = s.ifaces := rfl
@[simp] theorem State.mput_ctrls (a : Nat) (b : Byte) : (s.mput a b).ctrls = s.ctrls := rfl
@[simp] theorem State.mput_ctrlWait (a : Nat) (b : Byte) : (s.mput a b).ctrlWait = s.ctrlWait := rfl
@[simp] theorem State.mwrite_pending (a : Nat) (l : List Byte) : (s.mwrite a l).pending = s.pending := rfl
@[simp] theorem State.mwrite_csr (a : Nat) (l : List Byte) : (s.mwrite a l).csr = s.csr := rfl
@[simp] theorem State.mwrite_bad (a : Nat) (l : List Byte) : (s.mwrite a l).bad = s.bad := rfl
@[simp] theorem State.mwrite_time (a : Nat) (l : List Byte) : (s.mwrite a l).time = s.time := rfl
@[simp] theorem State.mwrite_counter (a : Nat) (l : List Byte) : (s.mwrite a l).counter = s.counter := rfl
@[simp] theorem State.mwrite_free (a : Nat) (l : List Byte) : (s.mwrite a l).free = s.free := rfl
@[simp] theorem State.mwrite_sent (a : Nat) (l : List Byte) : (s.mwrite a l).sent = s.sent := rfl
@[simp] theorem State.mwrite_aon (a : Nat) (l : List Byte) : (s.mwrite a l).aon = s.aon := rfl
@[simp] theorem State.mwrite_store (a : Nat) (l : List Byte) : (s.mwrite a l).store = s.store := rfl
@[simp] theorem State.mwrite_trust (a : Nat) (l : List Byte) : (s.mwrite a l).trust = s.trust := rfl
@[simp] theorem State.mwrite_tb (a : Nat) (l : List Byte) : (s.mwrite a l).tb = s.tb := rfl
@[simp] theorem State.mwrite_chr (a : Nat) (l : List Byte) : (s.mwrite a l).chr = s.chr := rfl
@[simp] theorem State.mwrite_streams (a : Nat) (l : List Byte) : (s.mwrite a l).streams = s.streams := rfl
@[simp] theorem State.mwrite_cores (a : Nat) (l : List Byte) : (s.mwrite a l).cores = s.cores := rfl
@[simp] theorem State.mwrite_links (a : Nat) (l : List Byte) : (s.mwrite a l).links = s.links := rfl
@[simp] theorem State.mwrite_tiles (a : Nat) (l : List Byte) : (s.mwrite a l).tiles = s.tiles := rfl
@[simp] theorem State.mwrite_seqs (a : Nat) (l : List Byte) : (s.mwrite a l).seqs = s.seqs := rfl
@[simp] theorem State.mwrite_cvus (a : Nat) (l : List Byte) : (s.mwrite a l).cvus = s.cvus := rfl
@[simp] theorem State.mwrite_owners (a : Nat) (l : List Byte) : (s.mwrite a l).owners = s.owners := rfl
@[simp] theorem State.mwrite_resends (a : Nat) (l : List Byte) : (s.mwrite a l).resends = s.resends := rfl
@[simp] theorem State.mwrite_toks (a : Nat) (l : List Byte) : (s.mwrite a l).toks = s.toks := rfl
@[simp] theorem State.mwrite_dmas (a : Nat) (l : List Byte) : (s.mwrite a l).dmas = s.dmas := rfl
@[simp] theorem State.mwrite_ddrs (a : Nat) (l : List Byte) : (s.mwrite a l).ddrs = s.ddrs := rfl
@[simp] theorem State.mwrite_busy (a : Nat) (l : List Byte) : (s.mwrite a l).busy = s.busy := rfl
@[simp] theorem State.mwrite_again (a : Nat) (l : List Byte) : (s.mwrite a l).again = s.again := rfl
@[simp] theorem State.mwrite_bc (a : Nat) (l : List Byte) : (s.mwrite a l).bc = s.bc := rfl
@[simp] theorem State.mwrite_bcReports (a : Nat) (l : List Byte) : (s.mwrite a l).bcReports = s.bcReports := rfl
@[simp] theorem State.mwrite_ifaces (a : Nat) (l : List Byte) : (s.mwrite a l).ifaces = s.ifaces := rfl
@[simp] theorem State.mwrite_ctrls (a : Nat) (l : List Byte) : (s.mwrite a l).ctrls = s.ctrls := rfl
@[simp] theorem State.mwrite_ctrlWait (a : Nat) (l : List Byte) : (s.mwrite a l).ctrlWait = s.ctrlWait := rfl
@[simp] theorem State.mnatPut_pending (a n v : Nat) : (s.mnatPut a n v).pending = s.pending := rfl
@[simp] theorem State.mnatPut_csr (a n v : Nat) : (s.mnatPut a n v).csr = s.csr := rfl
@[simp] theorem State.mnatPut_bad (a n v : Nat) : (s.mnatPut a n v).bad = s.bad := rfl
@[simp] theorem State.mnatPut_time (a n v : Nat) : (s.mnatPut a n v).time = s.time := rfl
@[simp] theorem State.mnatPut_counter (a n v : Nat) : (s.mnatPut a n v).counter = s.counter := rfl
@[simp] theorem State.mnatPut_free (a n v : Nat) : (s.mnatPut a n v).free = s.free := rfl
@[simp] theorem State.mnatPut_sent (a n v : Nat) : (s.mnatPut a n v).sent = s.sent := rfl
@[simp] theorem State.mnatPut_aon (a n v : Nat) : (s.mnatPut a n v).aon = s.aon := rfl
@[simp] theorem State.mnatPut_store (a n v : Nat) : (s.mnatPut a n v).store = s.store := rfl
@[simp] theorem State.mnatPut_trust (a n v : Nat) : (s.mnatPut a n v).trust = s.trust := rfl
@[simp] theorem State.mnatPut_tb (a n v : Nat) : (s.mnatPut a n v).tb = s.tb := rfl
@[simp] theorem State.mnatPut_chr (a n v : Nat) : (s.mnatPut a n v).chr = s.chr := rfl
@[simp] theorem State.mnatPut_streams (a n v : Nat) : (s.mnatPut a n v).streams = s.streams := rfl
@[simp] theorem State.mnatPut_cores (a n v : Nat) : (s.mnatPut a n v).cores = s.cores := rfl
@[simp] theorem State.mnatPut_links (a n v : Nat) : (s.mnatPut a n v).links = s.links := rfl
@[simp] theorem State.mnatPut_tiles (a n v : Nat) : (s.mnatPut a n v).tiles = s.tiles := rfl
@[simp] theorem State.mnatPut_seqs (a n v : Nat) : (s.mnatPut a n v).seqs = s.seqs := rfl
@[simp] theorem State.mnatPut_cvus (a n v : Nat) : (s.mnatPut a n v).cvus = s.cvus := rfl
@[simp] theorem State.mnatPut_owners (a n v : Nat) : (s.mnatPut a n v).owners = s.owners := rfl
@[simp] theorem State.mnatPut_resends (a n v : Nat) : (s.mnatPut a n v).resends = s.resends := rfl
@[simp] theorem State.mnatPut_toks (a n v : Nat) : (s.mnatPut a n v).toks = s.toks := rfl
@[simp] theorem State.mnatPut_dmas (a n v : Nat) : (s.mnatPut a n v).dmas = s.dmas := rfl
@[simp] theorem State.mnatPut_ddrs (a n v : Nat) : (s.mnatPut a n v).ddrs = s.ddrs := rfl
@[simp] theorem State.mnatPut_busy (a n v : Nat) : (s.mnatPut a n v).busy = s.busy := rfl
@[simp] theorem State.mnatPut_again (a n v : Nat) : (s.mnatPut a n v).again = s.again := rfl
@[simp] theorem State.mnatPut_bc (a n v : Nat) : (s.mnatPut a n v).bc = s.bc := rfl
@[simp] theorem State.mnatPut_bcReports (a n v : Nat) : (s.mnatPut a n v).bcReports = s.bcReports := rfl
@[simp] theorem State.mnatPut_ifaces (a n v : Nat) : (s.mnatPut a n v).ifaces = s.ifaces := rfl
@[simp] theorem State.mnatPut_ctrls (a n v : Nat) : (s.mnatPut a n v).ctrls = s.ctrls := rfl
@[simp] theorem State.mnatPut_ctrlWait (a n v : Nat) : (s.mnatPut a n v).ctrlWait = s.ctrlWait := rfl
@[simp] theorem State.mzero_pending (a n : Nat) : (s.mzero a n).pending = s.pending := rfl
@[simp] theorem State.mzero_csr (a n : Nat) : (s.mzero a n).csr = s.csr := rfl
@[simp] theorem State.mzero_bad (a n : Nat) : (s.mzero a n).bad = s.bad := rfl
@[simp] theorem State.mzero_time (a n : Nat) : (s.mzero a n).time = s.time := rfl
@[simp] theorem State.mzero_counter (a n : Nat) : (s.mzero a n).counter = s.counter := rfl
@[simp] theorem State.mzero_free (a n : Nat) : (s.mzero a n).free = s.free := rfl
@[simp] theorem State.mzero_sent (a n : Nat) : (s.mzero a n).sent = s.sent := rfl
@[simp] theorem State.mzero_aon (a n : Nat) : (s.mzero a n).aon = s.aon := rfl
@[simp] theorem State.mzero_store (a n : Nat) : (s.mzero a n).store = s.store := rfl
@[simp] theorem State.mzero_trust (a n : Nat) : (s.mzero a n).trust = s.trust := rfl
@[simp] theorem State.mzero_tb (a n : Nat) : (s.mzero a n).tb = s.tb := rfl
@[simp] theorem State.mzero_chr (a n : Nat) : (s.mzero a n).chr = s.chr := rfl
@[simp] theorem State.mzero_streams (a n : Nat) : (s.mzero a n).streams = s.streams := rfl
@[simp] theorem State.mzero_cores (a n : Nat) : (s.mzero a n).cores = s.cores := rfl
@[simp] theorem State.mzero_links (a n : Nat) : (s.mzero a n).links = s.links := rfl
@[simp] theorem State.mzero_tiles (a n : Nat) : (s.mzero a n).tiles = s.tiles := rfl
@[simp] theorem State.mzero_seqs (a n : Nat) : (s.mzero a n).seqs = s.seqs := rfl
@[simp] theorem State.mzero_cvus (a n : Nat) : (s.mzero a n).cvus = s.cvus := rfl
@[simp] theorem State.mzero_owners (a n : Nat) : (s.mzero a n).owners = s.owners := rfl
@[simp] theorem State.mzero_resends (a n : Nat) : (s.mzero a n).resends = s.resends := rfl
@[simp] theorem State.mzero_toks (a n : Nat) : (s.mzero a n).toks = s.toks := rfl
@[simp] theorem State.mzero_dmas (a n : Nat) : (s.mzero a n).dmas = s.dmas := rfl
@[simp] theorem State.mzero_ddrs (a n : Nat) : (s.mzero a n).ddrs = s.ddrs := rfl
@[simp] theorem State.mzero_busy (a n : Nat) : (s.mzero a n).busy = s.busy := rfl
@[simp] theorem State.mzero_again (a n : Nat) : (s.mzero a n).again = s.again := rfl
@[simp] theorem State.mzero_bc (a n : Nat) : (s.mzero a n).bc = s.bc := rfl
@[simp] theorem State.mzero_bcReports (a n : Nat) : (s.mzero a n).bcReports = s.bcReports := rfl
@[simp] theorem State.mzero_ifaces (a n : Nat) : (s.mzero a n).ifaces = s.ifaces := rfl
@[simp] theorem State.mzero_ctrls (a n : Nat) : (s.mzero a n).ctrls = s.ctrls := rfl
@[simp] theorem State.mzero_ctrlWait (a n : Nat) : (s.mzero a n).ctrlWait = s.ctrlWait := rfl
@[simp] theorem State.mopenSpan_pending (a n : Nat) (p : Span) : (s.mopenSpan a n p).pending = s.pending := rfl
@[simp] theorem State.mopenSpan_csr (a n : Nat) (p : Span) : (s.mopenSpan a n p).csr = s.csr := rfl
@[simp] theorem State.mopenSpan_bad (a n : Nat) (p : Span) : (s.mopenSpan a n p).bad = s.bad := rfl
@[simp] theorem State.mopenSpan_time (a n : Nat) (p : Span) : (s.mopenSpan a n p).time = s.time := rfl
@[simp] theorem State.mopenSpan_counter (a n : Nat) (p : Span) : (s.mopenSpan a n p).counter = s.counter := rfl
@[simp] theorem State.mopenSpan_sent (a n : Nat) (p : Span) : (s.mopenSpan a n p).sent = s.sent := rfl
@[simp] theorem State.mopenSpan_aon (a n : Nat) (p : Span) : (s.mopenSpan a n p).aon = s.aon := rfl
@[simp] theorem State.mopenSpan_store (a n : Nat) (p : Span) : (s.mopenSpan a n p).store = s.store := rfl
@[simp] theorem State.mopenSpan_trust (a n : Nat) (p : Span) : (s.mopenSpan a n p).trust = s.trust := rfl
@[simp] theorem State.mopenSpan_tb (a n : Nat) (p : Span) : (s.mopenSpan a n p).tb = s.tb := rfl
@[simp] theorem State.mopenSpan_chr (a n : Nat) (p : Span) : (s.mopenSpan a n p).chr = s.chr := rfl
@[simp] theorem State.mopenSpan_streams (a n : Nat) (p : Span) : (s.mopenSpan a n p).streams = s.streams := rfl
@[simp] theorem State.mopenSpan_cores (a n : Nat) (p : Span) : (s.mopenSpan a n p).cores = s.cores := rfl
@[simp] theorem State.mopenSpan_links (a n : Nat) (p : Span) : (s.mopenSpan a n p).links = s.links := rfl
@[simp] theorem State.mopenSpan_tiles (a n : Nat) (p : Span) : (s.mopenSpan a n p).tiles = s.tiles := rfl
@[simp] theorem State.mopenSpan_seqs (a n : Nat) (p : Span) : (s.mopenSpan a n p).seqs = s.seqs := rfl
@[simp] theorem State.mopenSpan_cvus (a n : Nat) (p : Span) : (s.mopenSpan a n p).cvus = s.cvus := rfl
@[simp] theorem State.mopenSpan_owners (a n : Nat) (p : Span) : (s.mopenSpan a n p).owners = s.owners := rfl
@[simp] theorem State.mopenSpan_resends (a n : Nat) (p : Span) : (s.mopenSpan a n p).resends = s.resends := rfl
@[simp] theorem State.mopenSpan_toks (a n : Nat) (p : Span) : (s.mopenSpan a n p).toks = s.toks := rfl
@[simp] theorem State.mopenSpan_dmas (a n : Nat) (p : Span) : (s.mopenSpan a n p).dmas = s.dmas := rfl
@[simp] theorem State.mopenSpan_ddrs (a n : Nat) (p : Span) : (s.mopenSpan a n p).ddrs = s.ddrs := rfl
@[simp] theorem State.mopenSpan_busy (a n : Nat) (p : Span) : (s.mopenSpan a n p).busy = s.busy := rfl
@[simp] theorem State.mopenSpan_again (a n : Nat) (p : Span) : (s.mopenSpan a n p).again = s.again := rfl
@[simp] theorem State.mopenSpan_bc (a n : Nat) (p : Span) : (s.mopenSpan a n p).bc = s.bc := rfl
@[simp] theorem State.mopenSpan_bcReports (a n : Nat) (p : Span) : (s.mopenSpan a n p).bcReports = s.bcReports := rfl
@[simp] theorem State.mopenSpan_ifaces (a n : Nat) (p : Span) : (s.mopenSpan a n p).ifaces = s.ifaces := rfl
@[simp] theorem State.mopenSpan_ctrls (a n : Nat) (p : Span) : (s.mopenSpan a n p).ctrls = s.ctrls := rfl
@[simp] theorem State.mopenSpan_ctrlWait (a n : Nat) (p : Span) : (s.mopenSpan a n p).ctrlWait = s.ctrlWait := rfl
@[simp] theorem State.mopen_pending (a n : Nat) : (s.mopen a n).pending = s.pending := rfl
@[simp] theorem State.mopen_csr (a n : Nat) : (s.mopen a n).csr = s.csr := rfl
@[simp] theorem State.mopen_bad (a n : Nat) : (s.mopen a n).bad = s.bad := rfl
@[simp] theorem State.mopen_time (a n : Nat) : (s.mopen a n).time = s.time := rfl
@[simp] theorem State.mopen_counter (a n : Nat) : (s.mopen a n).counter = s.counter := rfl
@[simp] theorem State.mopen_sent (a n : Nat) : (s.mopen a n).sent = s.sent := rfl
@[simp] theorem State.mopen_aon (a n : Nat) : (s.mopen a n).aon = s.aon := rfl
@[simp] theorem State.mopen_store (a n : Nat) : (s.mopen a n).store = s.store := rfl
@[simp] theorem State.mopen_trust (a n : Nat) : (s.mopen a n).trust = s.trust := rfl
@[simp] theorem State.mopen_tb (a n : Nat) : (s.mopen a n).tb = s.tb := rfl
@[simp] theorem State.mopen_chr (a n : Nat) : (s.mopen a n).chr = s.chr := rfl
@[simp] theorem State.mopen_streams (a n : Nat) : (s.mopen a n).streams = s.streams := rfl
@[simp] theorem State.mopen_cores (a n : Nat) : (s.mopen a n).cores = s.cores := rfl
@[simp] theorem State.mopen_links (a n : Nat) : (s.mopen a n).links = s.links := rfl
@[simp] theorem State.mopen_tiles (a n : Nat) : (s.mopen a n).tiles = s.tiles := rfl
@[simp] theorem State.mopen_seqs (a n : Nat) : (s.mopen a n).seqs = s.seqs := rfl
@[simp] theorem State.mopen_cvus (a n : Nat) : (s.mopen a n).cvus = s.cvus := rfl
@[simp] theorem State.mopen_owners (a n : Nat) : (s.mopen a n).owners = s.owners := rfl
@[simp] theorem State.mopen_resends (a n : Nat) : (s.mopen a n).resends = s.resends := rfl
@[simp] theorem State.mopen_toks (a n : Nat) : (s.mopen a n).toks = s.toks := rfl
@[simp] theorem State.mopen_dmas (a n : Nat) : (s.mopen a n).dmas = s.dmas := rfl
@[simp] theorem State.mopen_ddrs (a n : Nat) : (s.mopen a n).ddrs = s.ddrs := rfl
@[simp] theorem State.mopen_busy (a n : Nat) : (s.mopen a n).busy = s.busy := rfl
@[simp] theorem State.mopen_again (a n : Nat) : (s.mopen a n).again = s.again := rfl
@[simp] theorem State.mopen_bc (a n : Nat) : (s.mopen a n).bc = s.bc := rfl
@[simp] theorem State.mopen_bcReports (a n : Nat) : (s.mopen a n).bcReports = s.bcReports := rfl
@[simp] theorem State.mopen_ifaces (a n : Nat) : (s.mopen a n).ifaces = s.ifaces := rfl
@[simp] theorem State.mopen_ctrls (a n : Nat) : (s.mopen a n).ctrls = s.ctrls := rfl
@[simp] theorem State.mopen_ctrlWait (a n : Nat) : (s.mopen a n).ctrlWait = s.ctrlWait := rfl
@[simp] theorem State.onAon_pending (f : Aon → Aon) : (s.onAon f).pending = s.pending := rfl
@[simp] theorem State.onAon_csr (f : Aon → Aon) : (s.onAon f).csr = s.csr := rfl
@[simp] theorem State.onAon_mem (f : Aon → Aon) : (s.onAon f).mem = s.mem := rfl
@[simp] theorem State.onAon_bad (f : Aon → Aon) : (s.onAon f).bad = s.bad := rfl
@[simp] theorem State.onAon_time (f : Aon → Aon) : (s.onAon f).time = s.time := rfl
@[simp] theorem State.onAon_counter (f : Aon → Aon) : (s.onAon f).counter = s.counter := rfl
@[simp] theorem State.onAon_free (f : Aon → Aon) : (s.onAon f).free = s.free := rfl
@[simp] theorem State.onAon_sent (f : Aon → Aon) : (s.onAon f).sent = s.sent := rfl
@[simp] theorem State.onAon_store (f : Aon → Aon) : (s.onAon f).store = s.store := rfl
@[simp] theorem State.onAon_trust (f : Aon → Aon) : (s.onAon f).trust = s.trust := rfl
@[simp] theorem State.onAon_tb (f : Aon → Aon) : (s.onAon f).tb = s.tb := rfl
@[simp] theorem State.onAon_chr (f : Aon → Aon) : (s.onAon f).chr = s.chr := rfl
@[simp] theorem State.onAon_streams (f : Aon → Aon) : (s.onAon f).streams = s.streams := rfl
@[simp] theorem State.onAon_cores (f : Aon → Aon) : (s.onAon f).cores = s.cores := rfl
@[simp] theorem State.onAon_links (f : Aon → Aon) : (s.onAon f).links = s.links := rfl
@[simp] theorem State.onAon_tiles (f : Aon → Aon) : (s.onAon f).tiles = s.tiles := rfl
@[simp] theorem State.onAon_seqs (f : Aon → Aon) : (s.onAon f).seqs = s.seqs := rfl
@[simp] theorem State.onAon_cvus (f : Aon → Aon) : (s.onAon f).cvus = s.cvus := rfl
@[simp] theorem State.onAon_owners (f : Aon → Aon) : (s.onAon f).owners = s.owners := rfl
@[simp] theorem State.onAon_resends (f : Aon → Aon) : (s.onAon f).resends = s.resends := rfl
@[simp] theorem State.onAon_toks (f : Aon → Aon) : (s.onAon f).toks = s.toks := rfl
@[simp] theorem State.onAon_dmas (f : Aon → Aon) : (s.onAon f).dmas = s.dmas := rfl
@[simp] theorem State.onAon_ddrs (f : Aon → Aon) : (s.onAon f).ddrs = s.ddrs := rfl
@[simp] theorem State.onAon_busy (f : Aon → Aon) : (s.onAon f).busy = s.busy := rfl
@[simp] theorem State.onAon_again (f : Aon → Aon) : (s.onAon f).again = s.again := rfl
@[simp] theorem State.onAon_bc (f : Aon → Aon) : (s.onAon f).bc = s.bc := rfl
@[simp] theorem State.onAon_bcReports (f : Aon → Aon) : (s.onAon f).bcReports = s.bcReports := rfl
@[simp] theorem State.onAon_ifaces (f : Aon → Aon) : (s.onAon f).ifaces = s.ifaces := rfl
@[simp] theorem State.onAon_ctrls (f : Aon → Aon) : (s.onAon f).ctrls = s.ctrls := rfl
@[simp] theorem State.onAon_ctrlWait (f : Aon → Aon) : (s.onAon f).ctrlWait = s.ctrlWait := rfl
@[simp] theorem State.onStore_pending (f : Settings → Settings) : (s.onStore f).pending = s.pending := rfl
@[simp] theorem State.onStore_csr (f : Settings → Settings) : (s.onStore f).csr = s.csr := rfl
@[simp] theorem State.onStore_mem (f : Settings → Settings) : (s.onStore f).mem = s.mem := rfl
@[simp] theorem State.onStore_bad (f : Settings → Settings) : (s.onStore f).bad = s.bad := rfl
@[simp] theorem State.onStore_time (f : Settings → Settings) : (s.onStore f).time = s.time := rfl
@[simp] theorem State.onStore_counter (f : Settings → Settings) : (s.onStore f).counter = s.counter := rfl
@[simp] theorem State.onStore_free (f : Settings → Settings) : (s.onStore f).free = s.free := rfl
@[simp] theorem State.onStore_sent (f : Settings → Settings) : (s.onStore f).sent = s.sent := rfl
@[simp] theorem State.onStore_aon (f : Settings → Settings) : (s.onStore f).aon = s.aon := rfl
@[simp] theorem State.onStore_trust (f : Settings → Settings) : (s.onStore f).trust = s.trust := rfl
@[simp] theorem State.onStore_tb (f : Settings → Settings) : (s.onStore f).tb = s.tb := rfl
@[simp] theorem State.onStore_chr (f : Settings → Settings) : (s.onStore f).chr = s.chr := rfl
@[simp] theorem State.onStore_streams (f : Settings → Settings) : (s.onStore f).streams = s.streams := rfl
@[simp] theorem State.onStore_cores (f : Settings → Settings) : (s.onStore f).cores = s.cores := rfl
@[simp] theorem State.onStore_links (f : Settings → Settings) : (s.onStore f).links = s.links := rfl
@[simp] theorem State.onStore_tiles (f : Settings → Settings) : (s.onStore f).tiles = s.tiles := rfl
@[simp] theorem State.onStore_seqs (f : Settings → Settings) : (s.onStore f).seqs = s.seqs := rfl
@[simp] theorem State.onStore_cvus (f : Settings → Settings) : (s.onStore f).cvus = s.cvus := rfl
@[simp] theorem State.onStore_owners (f : Settings → Settings) : (s.onStore f).owners = s.owners := rfl
@[simp] theorem State.onStore_resends (f : Settings → Settings) : (s.onStore f).resends = s.resends := rfl
@[simp] theorem State.onStore_toks (f : Settings → Settings) : (s.onStore f).toks = s.toks := rfl
@[simp] theorem State.onStore_dmas (f : Settings → Settings) : (s.onStore f).dmas = s.dmas := rfl
@[simp] theorem State.onStore_ddrs (f : Settings → Settings) : (s.onStore f).ddrs = s.ddrs := rfl
@[simp] theorem State.onStore_busy (f : Settings → Settings) : (s.onStore f).busy = s.busy := rfl
@[simp] theorem State.onStore_again (f : Settings → Settings) : (s.onStore f).again = s.again := rfl
@[simp] theorem State.onStore_bc (f : Settings → Settings) : (s.onStore f).bc = s.bc := rfl
@[simp] theorem State.onStore_bcReports (f : Settings → Settings) : (s.onStore f).bcReports = s.bcReports := rfl
@[simp] theorem State.onStore_ifaces (f : Settings → Settings) : (s.onStore f).ifaces = s.ifaces := rfl
@[simp] theorem State.onStore_ctrls (f : Settings → Settings) : (s.onStore f).ctrls = s.ctrls := rfl
@[simp] theorem State.onStore_ctrlWait (f : Settings → Settings) : (s.onStore f).ctrlWait = s.ctrlWait := rfl
@[simp] theorem State.onTrust_pending (f : Trust → Trust) : (s.onTrust f).pending = s.pending := rfl
@[simp] theorem State.onTrust_csr (f : Trust → Trust) : (s.onTrust f).csr = s.csr := rfl
@[simp] theorem State.onTrust_mem (f : Trust → Trust) : (s.onTrust f).mem = s.mem := rfl
@[simp] theorem State.onTrust_bad (f : Trust → Trust) : (s.onTrust f).bad = s.bad := rfl
@[simp] theorem State.onTrust_time (f : Trust → Trust) : (s.onTrust f).time = s.time := rfl
@[simp] theorem State.onTrust_counter (f : Trust → Trust) : (s.onTrust f).counter = s.counter := rfl
@[simp] theorem State.onTrust_free (f : Trust → Trust) : (s.onTrust f).free = s.free := rfl
@[simp] theorem State.onTrust_sent (f : Trust → Trust) : (s.onTrust f).sent = s.sent := rfl
@[simp] theorem State.onTrust_aon (f : Trust → Trust) : (s.onTrust f).aon = s.aon := rfl
@[simp] theorem State.onTrust_store (f : Trust → Trust) : (s.onTrust f).store = s.store := rfl
@[simp] theorem State.onTrust_tb (f : Trust → Trust) : (s.onTrust f).tb = s.tb := rfl
@[simp] theorem State.onTrust_chr (f : Trust → Trust) : (s.onTrust f).chr = s.chr := rfl
@[simp] theorem State.onTrust_streams (f : Trust → Trust) : (s.onTrust f).streams = s.streams := rfl
@[simp] theorem State.onTrust_cores (f : Trust → Trust) : (s.onTrust f).cores = s.cores := rfl
@[simp] theorem State.onTrust_links (f : Trust → Trust) : (s.onTrust f).links = s.links := rfl
@[simp] theorem State.onTrust_tiles (f : Trust → Trust) : (s.onTrust f).tiles = s.tiles := rfl
@[simp] theorem State.onTrust_seqs (f : Trust → Trust) : (s.onTrust f).seqs = s.seqs := rfl
@[simp] theorem State.onTrust_cvus (f : Trust → Trust) : (s.onTrust f).cvus = s.cvus := rfl
@[simp] theorem State.onTrust_owners (f : Trust → Trust) : (s.onTrust f).owners = s.owners := rfl
@[simp] theorem State.onTrust_resends (f : Trust → Trust) : (s.onTrust f).resends = s.resends := rfl
@[simp] theorem State.onTrust_toks (f : Trust → Trust) : (s.onTrust f).toks = s.toks := rfl
@[simp] theorem State.onTrust_dmas (f : Trust → Trust) : (s.onTrust f).dmas = s.dmas := rfl
@[simp] theorem State.onTrust_ddrs (f : Trust → Trust) : (s.onTrust f).ddrs = s.ddrs := rfl
@[simp] theorem State.onTrust_busy (f : Trust → Trust) : (s.onTrust f).busy = s.busy := rfl
@[simp] theorem State.onTrust_again (f : Trust → Trust) : (s.onTrust f).again = s.again := rfl
@[simp] theorem State.onTrust_bc (f : Trust → Trust) : (s.onTrust f).bc = s.bc := rfl
@[simp] theorem State.onTrust_bcReports (f : Trust → Trust) : (s.onTrust f).bcReports = s.bcReports := rfl
@[simp] theorem State.onTrust_ifaces (f : Trust → Trust) : (s.onTrust f).ifaces = s.ifaces := rfl
@[simp] theorem State.onTrust_ctrls (f : Trust → Trust) : (s.onTrust f).ctrls = s.ctrls := rfl
@[simp] theorem State.onTrust_ctrlWait (f : Trust → Trust) : (s.onTrust f).ctrlWait = s.ctrlWait := rfl
@[simp] theorem State.onChr_pending (f : Chrysalis → Chrysalis) : (s.onChr f).pending = s.pending := rfl
@[simp] theorem State.onChr_csr (f : Chrysalis → Chrysalis) : (s.onChr f).csr = s.csr := rfl
@[simp] theorem State.onChr_mem (f : Chrysalis → Chrysalis) : (s.onChr f).mem = s.mem := rfl
@[simp] theorem State.onChr_bad (f : Chrysalis → Chrysalis) : (s.onChr f).bad = s.bad := rfl
@[simp] theorem State.onChr_time (f : Chrysalis → Chrysalis) : (s.onChr f).time = s.time := rfl
@[simp] theorem State.onChr_counter (f : Chrysalis → Chrysalis) : (s.onChr f).counter = s.counter := rfl
@[simp] theorem State.onChr_free (f : Chrysalis → Chrysalis) : (s.onChr f).free = s.free := rfl
@[simp] theorem State.onChr_sent (f : Chrysalis → Chrysalis) : (s.onChr f).sent = s.sent := rfl
@[simp] theorem State.onChr_aon (f : Chrysalis → Chrysalis) : (s.onChr f).aon = s.aon := rfl
@[simp] theorem State.onChr_store (f : Chrysalis → Chrysalis) : (s.onChr f).store = s.store := rfl
@[simp] theorem State.onChr_trust (f : Chrysalis → Chrysalis) : (s.onChr f).trust = s.trust := rfl
@[simp] theorem State.onChr_tb (f : Chrysalis → Chrysalis) : (s.onChr f).tb = s.tb := rfl
@[simp] theorem State.onChr_streams (f : Chrysalis → Chrysalis) : (s.onChr f).streams = s.streams := rfl
@[simp] theorem State.onChr_cores (f : Chrysalis → Chrysalis) : (s.onChr f).cores = s.cores := rfl
@[simp] theorem State.onChr_links (f : Chrysalis → Chrysalis) : (s.onChr f).links = s.links := rfl
@[simp] theorem State.onChr_tiles (f : Chrysalis → Chrysalis) : (s.onChr f).tiles = s.tiles := rfl
@[simp] theorem State.onChr_seqs (f : Chrysalis → Chrysalis) : (s.onChr f).seqs = s.seqs := rfl
@[simp] theorem State.onChr_cvus (f : Chrysalis → Chrysalis) : (s.onChr f).cvus = s.cvus := rfl
@[simp] theorem State.onChr_owners (f : Chrysalis → Chrysalis) : (s.onChr f).owners = s.owners := rfl
@[simp] theorem State.onChr_resends (f : Chrysalis → Chrysalis) : (s.onChr f).resends = s.resends := rfl
@[simp] theorem State.onChr_toks (f : Chrysalis → Chrysalis) : (s.onChr f).toks = s.toks := rfl
@[simp] theorem State.onChr_dmas (f : Chrysalis → Chrysalis) : (s.onChr f).dmas = s.dmas := rfl
@[simp] theorem State.onChr_ddrs (f : Chrysalis → Chrysalis) : (s.onChr f).ddrs = s.ddrs := rfl
@[simp] theorem State.onChr_busy (f : Chrysalis → Chrysalis) : (s.onChr f).busy = s.busy := rfl
@[simp] theorem State.onChr_again (f : Chrysalis → Chrysalis) : (s.onChr f).again = s.again := rfl
@[simp] theorem State.onChr_bc (f : Chrysalis → Chrysalis) : (s.onChr f).bc = s.bc := rfl
@[simp] theorem State.onChr_bcReports (f : Chrysalis → Chrysalis) : (s.onChr f).bcReports = s.bcReports := rfl
@[simp] theorem State.onChr_ifaces (f : Chrysalis → Chrysalis) : (s.onChr f).ifaces = s.ifaces := rfl
@[simp] theorem State.onChr_ctrls (f : Chrysalis → Chrysalis) : (s.onChr f).ctrls = s.ctrls := rfl
@[simp] theorem State.onChr_ctrlWait (f : Chrysalis → Chrysalis) : (s.onChr f).ctrlWait = s.ctrlWait := rfl
@[simp] theorem State.onTb_pending (f : TimeBase → TimeBase) : (s.onTb f).pending = s.pending := rfl
@[simp] theorem State.onTb_csr (f : TimeBase → TimeBase) : (s.onTb f).csr = s.csr := rfl
@[simp] theorem State.onTb_mem (f : TimeBase → TimeBase) : (s.onTb f).mem = s.mem := rfl
@[simp] theorem State.onTb_bad (f : TimeBase → TimeBase) : (s.onTb f).bad = s.bad := rfl
@[simp] theorem State.onTb_time (f : TimeBase → TimeBase) : (s.onTb f).time = s.time := rfl
@[simp] theorem State.onTb_counter (f : TimeBase → TimeBase) : (s.onTb f).counter = s.counter := rfl
@[simp] theorem State.onTb_free (f : TimeBase → TimeBase) : (s.onTb f).free = s.free := rfl
@[simp] theorem State.onTb_sent (f : TimeBase → TimeBase) : (s.onTb f).sent = s.sent := rfl
@[simp] theorem State.onTb_aon (f : TimeBase → TimeBase) : (s.onTb f).aon = s.aon := rfl
@[simp] theorem State.onTb_store (f : TimeBase → TimeBase) : (s.onTb f).store = s.store := rfl
@[simp] theorem State.onTb_trust (f : TimeBase → TimeBase) : (s.onTb f).trust = s.trust := rfl
@[simp] theorem State.onTb_chr (f : TimeBase → TimeBase) : (s.onTb f).chr = s.chr := rfl
@[simp] theorem State.onTb_streams (f : TimeBase → TimeBase) : (s.onTb f).streams = s.streams := rfl
@[simp] theorem State.onTb_cores (f : TimeBase → TimeBase) : (s.onTb f).cores = s.cores := rfl
@[simp] theorem State.onTb_links (f : TimeBase → TimeBase) : (s.onTb f).links = s.links := rfl
@[simp] theorem State.onTb_tiles (f : TimeBase → TimeBase) : (s.onTb f).tiles = s.tiles := rfl
@[simp] theorem State.onTb_seqs (f : TimeBase → TimeBase) : (s.onTb f).seqs = s.seqs := rfl
@[simp] theorem State.onTb_cvus (f : TimeBase → TimeBase) : (s.onTb f).cvus = s.cvus := rfl
@[simp] theorem State.onTb_owners (f : TimeBase → TimeBase) : (s.onTb f).owners = s.owners := rfl
@[simp] theorem State.onTb_resends (f : TimeBase → TimeBase) : (s.onTb f).resends = s.resends := rfl
@[simp] theorem State.onTb_toks (f : TimeBase → TimeBase) : (s.onTb f).toks = s.toks := rfl
@[simp] theorem State.onTb_dmas (f : TimeBase → TimeBase) : (s.onTb f).dmas = s.dmas := rfl
@[simp] theorem State.onTb_ddrs (f : TimeBase → TimeBase) : (s.onTb f).ddrs = s.ddrs := rfl
@[simp] theorem State.onTb_busy (f : TimeBase → TimeBase) : (s.onTb f).busy = s.busy := rfl
@[simp] theorem State.onTb_again (f : TimeBase → TimeBase) : (s.onTb f).again = s.again := rfl
@[simp] theorem State.onTb_bc (f : TimeBase → TimeBase) : (s.onTb f).bc = s.bc := rfl
@[simp] theorem State.onTb_bcReports (f : TimeBase → TimeBase) : (s.onTb f).bcReports = s.bcReports := rfl
@[simp] theorem State.onTb_ifaces (f : TimeBase → TimeBase) : (s.onTb f).ifaces = s.ifaces := rfl
@[simp] theorem State.onTb_ctrls (f : TimeBase → TimeBase) : (s.onTb f).ctrls = s.ctrls := rfl
@[simp] theorem State.onTb_ctrlWait (f : TimeBase → TimeBase) : (s.onTb f).ctrlWait = s.ctrlWait := rfl
@[simp] theorem State.setTimer_pending (k : Nat) (t : Timer) : (s.setTimer k t).pending = s.pending := rfl
@[simp] theorem State.setTimer_csr (k : Nat) (t : Timer) : (s.setTimer k t).csr = s.csr := rfl
@[simp] theorem State.setTimer_mem (k : Nat) (t : Timer) : (s.setTimer k t).mem = s.mem := rfl
@[simp] theorem State.setTimer_bad (k : Nat) (t : Timer) : (s.setTimer k t).bad = s.bad := rfl
@[simp] theorem State.setTimer_time (k : Nat) (t : Timer) : (s.setTimer k t).time = s.time := rfl
@[simp] theorem State.setTimer_counter (k : Nat) (t : Timer) : (s.setTimer k t).counter = s.counter := rfl
@[simp] theorem State.setTimer_free (k : Nat) (t : Timer) : (s.setTimer k t).free = s.free := rfl
@[simp] theorem State.setTimer_sent (k : Nat) (t : Timer) : (s.setTimer k t).sent = s.sent := rfl
@[simp] theorem State.setTimer_aon (k : Nat) (t : Timer) : (s.setTimer k t).aon = s.aon := rfl
@[simp] theorem State.setTimer_store (k : Nat) (t : Timer) : (s.setTimer k t).store = s.store := rfl
@[simp] theorem State.setTimer_trust (k : Nat) (t : Timer) : (s.setTimer k t).trust = s.trust := rfl
@[simp] theorem State.setTimer_chr (k : Nat) (t : Timer) : (s.setTimer k t).chr = s.chr := rfl
@[simp] theorem State.setTimer_streams (k : Nat) (t : Timer) : (s.setTimer k t).streams = s.streams := rfl
@[simp] theorem State.setTimer_cores (k : Nat) (t : Timer) : (s.setTimer k t).cores = s.cores := rfl
@[simp] theorem State.setTimer_links (k : Nat) (t : Timer) : (s.setTimer k t).links = s.links := rfl
@[simp] theorem State.setTimer_tiles (k : Nat) (t : Timer) : (s.setTimer k t).tiles = s.tiles := rfl
@[simp] theorem State.setTimer_seqs (k : Nat) (t : Timer) : (s.setTimer k t).seqs = s.seqs := rfl
@[simp] theorem State.setTimer_cvus (k : Nat) (t : Timer) : (s.setTimer k t).cvus = s.cvus := rfl
@[simp] theorem State.setTimer_owners (k : Nat) (t : Timer) : (s.setTimer k t).owners = s.owners := rfl
@[simp] theorem State.setTimer_resends (k : Nat) (t : Timer) : (s.setTimer k t).resends = s.resends := rfl
@[simp] theorem State.setTimer_toks (k : Nat) (t : Timer) : (s.setTimer k t).toks = s.toks := rfl
@[simp] theorem State.setTimer_dmas (k : Nat) (t : Timer) : (s.setTimer k t).dmas = s.dmas := rfl
@[simp] theorem State.setTimer_ddrs (k : Nat) (t : Timer) : (s.setTimer k t).ddrs = s.ddrs := rfl
@[simp] theorem State.setTimer_busy (k : Nat) (t : Timer) : (s.setTimer k t).busy = s.busy := rfl
@[simp] theorem State.setTimer_again (k : Nat) (t : Timer) : (s.setTimer k t).again = s.again := rfl
@[simp] theorem State.setTimer_bc (k : Nat) (t : Timer) : (s.setTimer k t).bc = s.bc := rfl
@[simp] theorem State.setTimer_bcReports (k : Nat) (t : Timer) : (s.setTimer k t).bcReports = s.bcReports := rfl
@[simp] theorem State.setTimer_ifaces (k : Nat) (t : Timer) : (s.setTimer k t).ifaces = s.ifaces := rfl
@[simp] theorem State.setTimer_ctrls (k : Nat) (t : Timer) : (s.setTimer k t).ctrls = s.ctrls := rfl
@[simp] theorem State.setTimer_ctrlWait (k : Nat) (t : Timer) : (s.setTimer k t).ctrlWait = s.ctrlWait := rfl
@[simp] theorem State.setPin_pending (k : Nat) (t : PinSt) : (s.setPin k t).pending = s.pending := rfl
@[simp] theorem State.setPin_csr (k : Nat) (t : PinSt) : (s.setPin k t).csr = s.csr := rfl
@[simp] theorem State.setPin_mem (k : Nat) (t : PinSt) : (s.setPin k t).mem = s.mem := rfl
@[simp] theorem State.setPin_bad (k : Nat) (t : PinSt) : (s.setPin k t).bad = s.bad := rfl
@[simp] theorem State.setPin_time (k : Nat) (t : PinSt) : (s.setPin k t).time = s.time := rfl
@[simp] theorem State.setPin_counter (k : Nat) (t : PinSt) : (s.setPin k t).counter = s.counter := rfl
@[simp] theorem State.setPin_free (k : Nat) (t : PinSt) : (s.setPin k t).free = s.free := rfl
@[simp] theorem State.setPin_sent (k : Nat) (t : PinSt) : (s.setPin k t).sent = s.sent := rfl
@[simp] theorem State.setPin_aon (k : Nat) (t : PinSt) : (s.setPin k t).aon = s.aon := rfl
@[simp] theorem State.setPin_store (k : Nat) (t : PinSt) : (s.setPin k t).store = s.store := rfl
@[simp] theorem State.setPin_trust (k : Nat) (t : PinSt) : (s.setPin k t).trust = s.trust := rfl
@[simp] theorem State.setPin_chr (k : Nat) (t : PinSt) : (s.setPin k t).chr = s.chr := rfl
@[simp] theorem State.setPin_streams (k : Nat) (t : PinSt) : (s.setPin k t).streams = s.streams := rfl
@[simp] theorem State.setPin_cores (k : Nat) (t : PinSt) : (s.setPin k t).cores = s.cores := rfl
@[simp] theorem State.setPin_links (k : Nat) (t : PinSt) : (s.setPin k t).links = s.links := rfl
@[simp] theorem State.setPin_tiles (k : Nat) (t : PinSt) : (s.setPin k t).tiles = s.tiles := rfl
@[simp] theorem State.setPin_seqs (k : Nat) (t : PinSt) : (s.setPin k t).seqs = s.seqs := rfl
@[simp] theorem State.setPin_cvus (k : Nat) (t : PinSt) : (s.setPin k t).cvus = s.cvus := rfl
@[simp] theorem State.setPin_owners (k : Nat) (t : PinSt) : (s.setPin k t).owners = s.owners := rfl
@[simp] theorem State.setPin_resends (k : Nat) (t : PinSt) : (s.setPin k t).resends = s.resends := rfl
@[simp] theorem State.setPin_toks (k : Nat) (t : PinSt) : (s.setPin k t).toks = s.toks := rfl
@[simp] theorem State.setPin_dmas (k : Nat) (t : PinSt) : (s.setPin k t).dmas = s.dmas := rfl
@[simp] theorem State.setPin_ddrs (k : Nat) (t : PinSt) : (s.setPin k t).ddrs = s.ddrs := rfl
@[simp] theorem State.setPin_busy (k : Nat) (t : PinSt) : (s.setPin k t).busy = s.busy := rfl
@[simp] theorem State.setPin_again (k : Nat) (t : PinSt) : (s.setPin k t).again = s.again := rfl
@[simp] theorem State.setPin_bc (k : Nat) (t : PinSt) : (s.setPin k t).bc = s.bc := rfl
@[simp] theorem State.setPin_bcReports (k : Nat) (t : PinSt) : (s.setPin k t).bcReports = s.bcReports := rfl
@[simp] theorem State.setPin_ifaces (k : Nat) (t : PinSt) : (s.setPin k t).ifaces = s.ifaces := rfl
@[simp] theorem State.setPin_ctrls (k : Nat) (t : PinSt) : (s.setPin k t).ctrls = s.ctrls := rfl
@[simp] theorem State.setPin_ctrlWait (k : Nat) (t : PinSt) : (s.setPin k t).ctrlWait = s.ctrlWait := rfl
@[simp] theorem State.onStream_pending (i : Nat) (f : Stream → Stream) : (s.onStream i f).pending = s.pending := rfl
@[simp] theorem State.onStream_csr (i : Nat) (f : Stream → Stream) : (s.onStream i f).csr = s.csr := rfl
@[simp] theorem State.onStream_mem (i : Nat) (f : Stream → Stream) : (s.onStream i f).mem = s.mem := rfl
@[simp] theorem State.onStream_bad (i : Nat) (f : Stream → Stream) : (s.onStream i f).bad = s.bad := rfl
@[simp] theorem State.onStream_time (i : Nat) (f : Stream → Stream) : (s.onStream i f).time = s.time := rfl
@[simp] theorem State.onStream_counter (i : Nat) (f : Stream → Stream) : (s.onStream i f).counter = s.counter := rfl
@[simp] theorem State.onStream_free (i : Nat) (f : Stream → Stream) : (s.onStream i f).free = s.free := rfl
@[simp] theorem State.onStream_sent (i : Nat) (f : Stream → Stream) : (s.onStream i f).sent = s.sent := rfl
@[simp] theorem State.onStream_aon (i : Nat) (f : Stream → Stream) : (s.onStream i f).aon = s.aon := rfl
@[simp] theorem State.onStream_store (i : Nat) (f : Stream → Stream) : (s.onStream i f).store = s.store := rfl
@[simp] theorem State.onStream_trust (i : Nat) (f : Stream → Stream) : (s.onStream i f).trust = s.trust := rfl
@[simp] theorem State.onStream_tb (i : Nat) (f : Stream → Stream) : (s.onStream i f).tb = s.tb := rfl
@[simp] theorem State.onStream_chr (i : Nat) (f : Stream → Stream) : (s.onStream i f).chr = s.chr := rfl
@[simp] theorem State.onStream_cores (i : Nat) (f : Stream → Stream) : (s.onStream i f).cores = s.cores := rfl
@[simp] theorem State.onStream_links (i : Nat) (f : Stream → Stream) : (s.onStream i f).links = s.links := rfl
@[simp] theorem State.onStream_tiles (i : Nat) (f : Stream → Stream) : (s.onStream i f).tiles = s.tiles := rfl
@[simp] theorem State.onStream_seqs (i : Nat) (f : Stream → Stream) : (s.onStream i f).seqs = s.seqs := rfl
@[simp] theorem State.onStream_cvus (i : Nat) (f : Stream → Stream) : (s.onStream i f).cvus = s.cvus := rfl
@[simp] theorem State.onStream_owners (i : Nat) (f : Stream → Stream) : (s.onStream i f).owners = s.owners := rfl
@[simp] theorem State.onStream_resends (i : Nat) (f : Stream → Stream) : (s.onStream i f).resends = s.resends := rfl
@[simp] theorem State.onStream_toks (i : Nat) (f : Stream → Stream) : (s.onStream i f).toks = s.toks := rfl
@[simp] theorem State.onStream_dmas (i : Nat) (f : Stream → Stream) : (s.onStream i f).dmas = s.dmas := rfl
@[simp] theorem State.onStream_ddrs (i : Nat) (f : Stream → Stream) : (s.onStream i f).ddrs = s.ddrs := rfl
@[simp] theorem State.onStream_busy (i : Nat) (f : Stream → Stream) : (s.onStream i f).busy = s.busy := rfl
@[simp] theorem State.onStream_again (i : Nat) (f : Stream → Stream) : (s.onStream i f).again = s.again := rfl
@[simp] theorem State.onStream_bc (i : Nat) (f : Stream → Stream) : (s.onStream i f).bc = s.bc := rfl
@[simp] theorem State.onStream_bcReports (i : Nat) (f : Stream → Stream) : (s.onStream i f).bcReports = s.bcReports := rfl
@[simp] theorem State.onStream_ifaces (i : Nat) (f : Stream → Stream) : (s.onStream i f).ifaces = s.ifaces := rfl
@[simp] theorem State.onStream_ctrls (i : Nat) (f : Stream → Stream) : (s.onStream i f).ctrls = s.ctrls := rfl
@[simp] theorem State.onStream_ctrlWait (i : Nat) (f : Stream → Stream) : (s.onStream i f).ctrlWait = s.ctrlWait := rfl
@[simp] theorem State.onCore_pending (i : Nat) (f : CoreSt → CoreSt) : (s.onCore i f).pending = s.pending := rfl
@[simp] theorem State.onCore_csr (i : Nat) (f : CoreSt → CoreSt) : (s.onCore i f).csr = s.csr := rfl
@[simp] theorem State.onCore_mem (i : Nat) (f : CoreSt → CoreSt) : (s.onCore i f).mem = s.mem := rfl
@[simp] theorem State.onCore_bad (i : Nat) (f : CoreSt → CoreSt) : (s.onCore i f).bad = s.bad := rfl
@[simp] theorem State.onCore_time (i : Nat) (f : CoreSt → CoreSt) : (s.onCore i f).time = s.time := rfl
@[simp] theorem State.onCore_counter (i : Nat) (f : CoreSt → CoreSt) : (s.onCore i f).counter = s.counter := rfl
@[simp] theorem State.onCore_free (i : Nat) (f : CoreSt → CoreSt) : (s.onCore i f).free = s.free := rfl
@[simp] theorem State.onCore_sent (i : Nat) (f : CoreSt → CoreSt) : (s.onCore i f).sent = s.sent := rfl
@[simp] theorem State.onCore_aon (i : Nat) (f : CoreSt → CoreSt) : (s.onCore i f).aon = s.aon := rfl
@[simp] theorem State.onCore_store (i : Nat) (f : CoreSt → CoreSt) : (s.onCore i f).store = s.store := rfl
@[simp] theorem State.onCore_trust (i : Nat) (f : CoreSt → CoreSt) : (s.onCore i f).trust = s.trust := rfl
@[simp] theorem State.onCore_tb (i : Nat) (f : CoreSt → CoreSt) : (s.onCore i f).tb = s.tb := rfl
@[simp] theorem State.onCore_chr (i : Nat) (f : CoreSt → CoreSt) : (s.onCore i f).chr = s.chr := rfl
@[simp] theorem State.onCore_streams (i : Nat) (f : CoreSt → CoreSt) : (s.onCore i f).streams = s.streams := rfl
@[simp] theorem State.onCore_links (i : Nat) (f : CoreSt → CoreSt) : (s.onCore i f).links = s.links := rfl
@[simp] theorem State.onCore_tiles (i : Nat) (f : CoreSt → CoreSt) : (s.onCore i f).tiles = s.tiles := rfl
@[simp] theorem State.onCore_seqs (i : Nat) (f : CoreSt → CoreSt) : (s.onCore i f).seqs = s.seqs := rfl
@[simp] theorem State.onCore_cvus (i : Nat) (f : CoreSt → CoreSt) : (s.onCore i f).cvus = s.cvus := rfl
@[simp] theorem State.onCore_owners (i : Nat) (f : CoreSt → CoreSt) : (s.onCore i f).owners = s.owners := rfl
@[simp] theorem State.onCore_resends (i : Nat) (f : CoreSt → CoreSt) : (s.onCore i f).resends = s.resends := rfl
@[simp] theorem State.onCore_toks (i : Nat) (f : CoreSt → CoreSt) : (s.onCore i f).toks = s.toks := rfl
@[simp] theorem State.onCore_dmas (i : Nat) (f : CoreSt → CoreSt) : (s.onCore i f).dmas = s.dmas := rfl
@[simp] theorem State.onCore_ddrs (i : Nat) (f : CoreSt → CoreSt) : (s.onCore i f).ddrs = s.ddrs := rfl
@[simp] theorem State.onCore_busy (i : Nat) (f : CoreSt → CoreSt) : (s.onCore i f).busy = s.busy := rfl
@[simp] theorem State.onCore_again (i : Nat) (f : CoreSt → CoreSt) : (s.onCore i f).again = s.again := rfl
@[simp] theorem State.onCore_bc (i : Nat) (f : CoreSt → CoreSt) : (s.onCore i f).bc = s.bc := rfl
@[simp] theorem State.onCore_bcReports (i : Nat) (f : CoreSt → CoreSt) : (s.onCore i f).bcReports = s.bcReports := rfl
@[simp] theorem State.onCore_ifaces (i : Nat) (f : CoreSt → CoreSt) : (s.onCore i f).ifaces = s.ifaces := rfl
@[simp] theorem State.onCore_ctrls (i : Nat) (f : CoreSt → CoreSt) : (s.onCore i f).ctrls = s.ctrls := rfl
@[simp] theorem State.onCore_ctrlWait (i : Nat) (f : CoreSt → CoreSt) : (s.onCore i f).ctrlWait = s.ctrlWait := rfl
@[simp] theorem State.onLink_pending (i : Nat) (f : LinkSt → LinkSt) : (s.onLink i f).pending = s.pending := rfl
@[simp] theorem State.onLink_csr (i : Nat) (f : LinkSt → LinkSt) : (s.onLink i f).csr = s.csr := rfl
@[simp] theorem State.onLink_mem (i : Nat) (f : LinkSt → LinkSt) : (s.onLink i f).mem = s.mem := rfl
@[simp] theorem State.onLink_bad (i : Nat) (f : LinkSt → LinkSt) : (s.onLink i f).bad = s.bad := rfl
@[simp] theorem State.onLink_time (i : Nat) (f : LinkSt → LinkSt) : (s.onLink i f).time = s.time := rfl
@[simp] theorem State.onLink_counter (i : Nat) (f : LinkSt → LinkSt) : (s.onLink i f).counter = s.counter := rfl
@[simp] theorem State.onLink_free (i : Nat) (f : LinkSt → LinkSt) : (s.onLink i f).free = s.free := rfl
@[simp] theorem State.onLink_sent (i : Nat) (f : LinkSt → LinkSt) : (s.onLink i f).sent = s.sent := rfl
@[simp] theorem State.onLink_aon (i : Nat) (f : LinkSt → LinkSt) : (s.onLink i f).aon = s.aon := rfl
@[simp] theorem State.onLink_store (i : Nat) (f : LinkSt → LinkSt) : (s.onLink i f).store = s.store := rfl
@[simp] theorem State.onLink_trust (i : Nat) (f : LinkSt → LinkSt) : (s.onLink i f).trust = s.trust := rfl
@[simp] theorem State.onLink_tb (i : Nat) (f : LinkSt → LinkSt) : (s.onLink i f).tb = s.tb := rfl
@[simp] theorem State.onLink_chr (i : Nat) (f : LinkSt → LinkSt) : (s.onLink i f).chr = s.chr := rfl
@[simp] theorem State.onLink_streams (i : Nat) (f : LinkSt → LinkSt) : (s.onLink i f).streams = s.streams := rfl
@[simp] theorem State.onLink_cores (i : Nat) (f : LinkSt → LinkSt) : (s.onLink i f).cores = s.cores := rfl
@[simp] theorem State.onLink_tiles (i : Nat) (f : LinkSt → LinkSt) : (s.onLink i f).tiles = s.tiles := rfl
@[simp] theorem State.onLink_seqs (i : Nat) (f : LinkSt → LinkSt) : (s.onLink i f).seqs = s.seqs := rfl
@[simp] theorem State.onLink_cvus (i : Nat) (f : LinkSt → LinkSt) : (s.onLink i f).cvus = s.cvus := rfl
@[simp] theorem State.onLink_owners (i : Nat) (f : LinkSt → LinkSt) : (s.onLink i f).owners = s.owners := rfl
@[simp] theorem State.onLink_resends (i : Nat) (f : LinkSt → LinkSt) : (s.onLink i f).resends = s.resends := rfl
@[simp] theorem State.onLink_toks (i : Nat) (f : LinkSt → LinkSt) : (s.onLink i f).toks = s.toks := rfl
@[simp] theorem State.onLink_dmas (i : Nat) (f : LinkSt → LinkSt) : (s.onLink i f).dmas = s.dmas := rfl
@[simp] theorem State.onLink_ddrs (i : Nat) (f : LinkSt → LinkSt) : (s.onLink i f).ddrs = s.ddrs := rfl
@[simp] theorem State.onLink_busy (i : Nat) (f : LinkSt → LinkSt) : (s.onLink i f).busy = s.busy := rfl
@[simp] theorem State.onLink_again (i : Nat) (f : LinkSt → LinkSt) : (s.onLink i f).again = s.again := rfl
@[simp] theorem State.onLink_bc (i : Nat) (f : LinkSt → LinkSt) : (s.onLink i f).bc = s.bc := rfl
@[simp] theorem State.onLink_bcReports (i : Nat) (f : LinkSt → LinkSt) : (s.onLink i f).bcReports = s.bcReports := rfl
@[simp] theorem State.onLink_ifaces (i : Nat) (f : LinkSt → LinkSt) : (s.onLink i f).ifaces = s.ifaces := rfl
@[simp] theorem State.onLink_ctrls (i : Nat) (f : LinkSt → LinkSt) : (s.onLink i f).ctrls = s.ctrls := rfl
@[simp] theorem State.onLink_ctrlWait (i : Nat) (f : LinkSt → LinkSt) : (s.onLink i f).ctrlWait = s.ctrlWait := rfl
@[simp] theorem State.onTile_pending (i : Nat) (f : TileSt → TileSt) : (s.onTile i f).pending = s.pending := rfl
@[simp] theorem State.onTile_csr (i : Nat) (f : TileSt → TileSt) : (s.onTile i f).csr = s.csr := rfl
@[simp] theorem State.onTile_mem (i : Nat) (f : TileSt → TileSt) : (s.onTile i f).mem = s.mem := rfl
@[simp] theorem State.onTile_bad (i : Nat) (f : TileSt → TileSt) : (s.onTile i f).bad = s.bad := rfl
@[simp] theorem State.onTile_time (i : Nat) (f : TileSt → TileSt) : (s.onTile i f).time = s.time := rfl
@[simp] theorem State.onTile_counter (i : Nat) (f : TileSt → TileSt) : (s.onTile i f).counter = s.counter := rfl
@[simp] theorem State.onTile_free (i : Nat) (f : TileSt → TileSt) : (s.onTile i f).free = s.free := rfl
@[simp] theorem State.onTile_sent (i : Nat) (f : TileSt → TileSt) : (s.onTile i f).sent = s.sent := rfl
@[simp] theorem State.onTile_aon (i : Nat) (f : TileSt → TileSt) : (s.onTile i f).aon = s.aon := rfl
@[simp] theorem State.onTile_store (i : Nat) (f : TileSt → TileSt) : (s.onTile i f).store = s.store := rfl
@[simp] theorem State.onTile_trust (i : Nat) (f : TileSt → TileSt) : (s.onTile i f).trust = s.trust := rfl
@[simp] theorem State.onTile_tb (i : Nat) (f : TileSt → TileSt) : (s.onTile i f).tb = s.tb := rfl
@[simp] theorem State.onTile_chr (i : Nat) (f : TileSt → TileSt) : (s.onTile i f).chr = s.chr := rfl
@[simp] theorem State.onTile_streams (i : Nat) (f : TileSt → TileSt) : (s.onTile i f).streams = s.streams := rfl
@[simp] theorem State.onTile_cores (i : Nat) (f : TileSt → TileSt) : (s.onTile i f).cores = s.cores := rfl
@[simp] theorem State.onTile_links (i : Nat) (f : TileSt → TileSt) : (s.onTile i f).links = s.links := rfl
@[simp] theorem State.onTile_seqs (i : Nat) (f : TileSt → TileSt) : (s.onTile i f).seqs = s.seqs := rfl
@[simp] theorem State.onTile_cvus (i : Nat) (f : TileSt → TileSt) : (s.onTile i f).cvus = s.cvus := rfl
@[simp] theorem State.onTile_owners (i : Nat) (f : TileSt → TileSt) : (s.onTile i f).owners = s.owners := rfl
@[simp] theorem State.onTile_resends (i : Nat) (f : TileSt → TileSt) : (s.onTile i f).resends = s.resends := rfl
@[simp] theorem State.onTile_toks (i : Nat) (f : TileSt → TileSt) : (s.onTile i f).toks = s.toks := rfl
@[simp] theorem State.onTile_dmas (i : Nat) (f : TileSt → TileSt) : (s.onTile i f).dmas = s.dmas := rfl
@[simp] theorem State.onTile_ddrs (i : Nat) (f : TileSt → TileSt) : (s.onTile i f).ddrs = s.ddrs := rfl
@[simp] theorem State.onTile_busy (i : Nat) (f : TileSt → TileSt) : (s.onTile i f).busy = s.busy := rfl
@[simp] theorem State.onTile_again (i : Nat) (f : TileSt → TileSt) : (s.onTile i f).again = s.again := rfl
@[simp] theorem State.onTile_bc (i : Nat) (f : TileSt → TileSt) : (s.onTile i f).bc = s.bc := rfl
@[simp] theorem State.onTile_bcReports (i : Nat) (f : TileSt → TileSt) : (s.onTile i f).bcReports = s.bcReports := rfl
@[simp] theorem State.onTile_ifaces (i : Nat) (f : TileSt → TileSt) : (s.onTile i f).ifaces = s.ifaces := rfl
@[simp] theorem State.onTile_ctrls (i : Nat) (f : TileSt → TileSt) : (s.onTile i f).ctrls = s.ctrls := rfl
@[simp] theorem State.onTile_ctrlWait (i : Nat) (f : TileSt → TileSt) : (s.onTile i f).ctrlWait = s.ctrlWait := rfl
@[simp] theorem State.setSeq_pending (i : Nat) (v : SeqSt) : (s.setSeq i v).pending = s.pending := rfl
@[simp] theorem State.setSeq_csr (i : Nat) (v : SeqSt) : (s.setSeq i v).csr = s.csr := rfl
@[simp] theorem State.setSeq_mem (i : Nat) (v : SeqSt) : (s.setSeq i v).mem = s.mem := rfl
@[simp] theorem State.setSeq_bad (i : Nat) (v : SeqSt) : (s.setSeq i v).bad = s.bad := rfl
@[simp] theorem State.setSeq_time (i : Nat) (v : SeqSt) : (s.setSeq i v).time = s.time := rfl
@[simp] theorem State.setSeq_counter (i : Nat) (v : SeqSt) : (s.setSeq i v).counter = s.counter := rfl
@[simp] theorem State.setSeq_free (i : Nat) (v : SeqSt) : (s.setSeq i v).free = s.free := rfl
@[simp] theorem State.setSeq_sent (i : Nat) (v : SeqSt) : (s.setSeq i v).sent = s.sent := rfl
@[simp] theorem State.setSeq_aon (i : Nat) (v : SeqSt) : (s.setSeq i v).aon = s.aon := rfl
@[simp] theorem State.setSeq_store (i : Nat) (v : SeqSt) : (s.setSeq i v).store = s.store := rfl
@[simp] theorem State.setSeq_trust (i : Nat) (v : SeqSt) : (s.setSeq i v).trust = s.trust := rfl
@[simp] theorem State.setSeq_tb (i : Nat) (v : SeqSt) : (s.setSeq i v).tb = s.tb := rfl
@[simp] theorem State.setSeq_chr (i : Nat) (v : SeqSt) : (s.setSeq i v).chr = s.chr := rfl
@[simp] theorem State.setSeq_streams (i : Nat) (v : SeqSt) : (s.setSeq i v).streams = s.streams := rfl
@[simp] theorem State.setSeq_cores (i : Nat) (v : SeqSt) : (s.setSeq i v).cores = s.cores := rfl
@[simp] theorem State.setSeq_links (i : Nat) (v : SeqSt) : (s.setSeq i v).links = s.links := rfl
@[simp] theorem State.setSeq_tiles (i : Nat) (v : SeqSt) : (s.setSeq i v).tiles = s.tiles := rfl
@[simp] theorem State.setSeq_cvus (i : Nat) (v : SeqSt) : (s.setSeq i v).cvus = s.cvus := rfl
@[simp] theorem State.setSeq_owners (i : Nat) (v : SeqSt) : (s.setSeq i v).owners = s.owners := rfl
@[simp] theorem State.setSeq_resends (i : Nat) (v : SeqSt) : (s.setSeq i v).resends = s.resends := rfl
@[simp] theorem State.setSeq_toks (i : Nat) (v : SeqSt) : (s.setSeq i v).toks = s.toks := rfl
@[simp] theorem State.setSeq_dmas (i : Nat) (v : SeqSt) : (s.setSeq i v).dmas = s.dmas := rfl
@[simp] theorem State.setSeq_ddrs (i : Nat) (v : SeqSt) : (s.setSeq i v).ddrs = s.ddrs := rfl
@[simp] theorem State.setSeq_busy (i : Nat) (v : SeqSt) : (s.setSeq i v).busy = s.busy := rfl
@[simp] theorem State.setSeq_again (i : Nat) (v : SeqSt) : (s.setSeq i v).again = s.again := rfl
@[simp] theorem State.setSeq_bc (i : Nat) (v : SeqSt) : (s.setSeq i v).bc = s.bc := rfl
@[simp] theorem State.setSeq_bcReports (i : Nat) (v : SeqSt) : (s.setSeq i v).bcReports = s.bcReports := rfl
@[simp] theorem State.setSeq_ifaces (i : Nat) (v : SeqSt) : (s.setSeq i v).ifaces = s.ifaces := rfl
@[simp] theorem State.setSeq_ctrls (i : Nat) (v : SeqSt) : (s.setSeq i v).ctrls = s.ctrls := rfl
@[simp] theorem State.setSeq_ctrlWait (i : Nat) (v : SeqSt) : (s.setSeq i v).ctrlWait = s.ctrlWait := rfl
@[simp] theorem State.setCvu_pending (i : Nat) (v : Cvu) : (s.setCvu i v).pending = s.pending := rfl
@[simp] theorem State.setCvu_csr (i : Nat) (v : Cvu) : (s.setCvu i v).csr = s.csr := rfl
@[simp] theorem State.setCvu_mem (i : Nat) (v : Cvu) : (s.setCvu i v).mem = s.mem := rfl
@[simp] theorem State.setCvu_bad (i : Nat) (v : Cvu) : (s.setCvu i v).bad = s.bad := rfl
@[simp] theorem State.setCvu_time (i : Nat) (v : Cvu) : (s.setCvu i v).time = s.time := rfl
@[simp] theorem State.setCvu_counter (i : Nat) (v : Cvu) : (s.setCvu i v).counter = s.counter := rfl
@[simp] theorem State.setCvu_free (i : Nat) (v : Cvu) : (s.setCvu i v).free = s.free := rfl
@[simp] theorem State.setCvu_sent (i : Nat) (v : Cvu) : (s.setCvu i v).sent = s.sent := rfl
@[simp] theorem State.setCvu_aon (i : Nat) (v : Cvu) : (s.setCvu i v).aon = s.aon := rfl
@[simp] theorem State.setCvu_store (i : Nat) (v : Cvu) : (s.setCvu i v).store = s.store := rfl
@[simp] theorem State.setCvu_trust (i : Nat) (v : Cvu) : (s.setCvu i v).trust = s.trust := rfl
@[simp] theorem State.setCvu_tb (i : Nat) (v : Cvu) : (s.setCvu i v).tb = s.tb := rfl
@[simp] theorem State.setCvu_chr (i : Nat) (v : Cvu) : (s.setCvu i v).chr = s.chr := rfl
@[simp] theorem State.setCvu_streams (i : Nat) (v : Cvu) : (s.setCvu i v).streams = s.streams := rfl
@[simp] theorem State.setCvu_cores (i : Nat) (v : Cvu) : (s.setCvu i v).cores = s.cores := rfl
@[simp] theorem State.setCvu_links (i : Nat) (v : Cvu) : (s.setCvu i v).links = s.links := rfl
@[simp] theorem State.setCvu_tiles (i : Nat) (v : Cvu) : (s.setCvu i v).tiles = s.tiles := rfl
@[simp] theorem State.setCvu_seqs (i : Nat) (v : Cvu) : (s.setCvu i v).seqs = s.seqs := rfl
@[simp] theorem State.setCvu_owners (i : Nat) (v : Cvu) : (s.setCvu i v).owners = s.owners := rfl
@[simp] theorem State.setCvu_resends (i : Nat) (v : Cvu) : (s.setCvu i v).resends = s.resends := rfl
@[simp] theorem State.setCvu_toks (i : Nat) (v : Cvu) : (s.setCvu i v).toks = s.toks := rfl
@[simp] theorem State.setCvu_dmas (i : Nat) (v : Cvu) : (s.setCvu i v).dmas = s.dmas := rfl
@[simp] theorem State.setCvu_ddrs (i : Nat) (v : Cvu) : (s.setCvu i v).ddrs = s.ddrs := rfl
@[simp] theorem State.setCvu_busy (i : Nat) (v : Cvu) : (s.setCvu i v).busy = s.busy := rfl
@[simp] theorem State.setCvu_again (i : Nat) (v : Cvu) : (s.setCvu i v).again = s.again := rfl
@[simp] theorem State.setCvu_bc (i : Nat) (v : Cvu) : (s.setCvu i v).bc = s.bc := rfl
@[simp] theorem State.setCvu_bcReports (i : Nat) (v : Cvu) : (s.setCvu i v).bcReports = s.bcReports := rfl
@[simp] theorem State.setCvu_ifaces (i : Nat) (v : Cvu) : (s.setCvu i v).ifaces = s.ifaces := rfl
@[simp] theorem State.setCvu_ctrls (i : Nat) (v : Cvu) : (s.setCvu i v).ctrls = s.ctrls := rfl
@[simp] theorem State.setCvu_ctrlWait (i : Nat) (v : Cvu) : (s.setCvu i v).ctrlWait = s.ctrlWait := rfl
@[simp] theorem State.onOwner_pending (i : Nat) (f : OwnerSt → OwnerSt) : (s.onOwner i f).pending = s.pending := rfl
@[simp] theorem State.onOwner_csr (i : Nat) (f : OwnerSt → OwnerSt) : (s.onOwner i f).csr = s.csr := rfl
@[simp] theorem State.onOwner_mem (i : Nat) (f : OwnerSt → OwnerSt) : (s.onOwner i f).mem = s.mem := rfl
@[simp] theorem State.onOwner_bad (i : Nat) (f : OwnerSt → OwnerSt) : (s.onOwner i f).bad = s.bad := rfl
@[simp] theorem State.onOwner_time (i : Nat) (f : OwnerSt → OwnerSt) : (s.onOwner i f).time = s.time := rfl
@[simp] theorem State.onOwner_counter (i : Nat) (f : OwnerSt → OwnerSt) : (s.onOwner i f).counter = s.counter := rfl
@[simp] theorem State.onOwner_free (i : Nat) (f : OwnerSt → OwnerSt) : (s.onOwner i f).free = s.free := rfl
@[simp] theorem State.onOwner_sent (i : Nat) (f : OwnerSt → OwnerSt) : (s.onOwner i f).sent = s.sent := rfl
@[simp] theorem State.onOwner_aon (i : Nat) (f : OwnerSt → OwnerSt) : (s.onOwner i f).aon = s.aon := rfl
@[simp] theorem State.onOwner_store (i : Nat) (f : OwnerSt → OwnerSt) : (s.onOwner i f).store = s.store := rfl
@[simp] theorem State.onOwner_trust (i : Nat) (f : OwnerSt → OwnerSt) : (s.onOwner i f).trust = s.trust := rfl
@[simp] theorem State.onOwner_tb (i : Nat) (f : OwnerSt → OwnerSt) : (s.onOwner i f).tb = s.tb := rfl
@[simp] theorem State.onOwner_chr (i : Nat) (f : OwnerSt → OwnerSt) : (s.onOwner i f).chr = s.chr := rfl
@[simp] theorem State.onOwner_streams (i : Nat) (f : OwnerSt → OwnerSt) : (s.onOwner i f).streams = s.streams := rfl
@[simp] theorem State.onOwner_cores (i : Nat) (f : OwnerSt → OwnerSt) : (s.onOwner i f).cores = s.cores := rfl
@[simp] theorem State.onOwner_links (i : Nat) (f : OwnerSt → OwnerSt) : (s.onOwner i f).links = s.links := rfl
@[simp] theorem State.onOwner_tiles (i : Nat) (f : OwnerSt → OwnerSt) : (s.onOwner i f).tiles = s.tiles := rfl
@[simp] theorem State.onOwner_seqs (i : Nat) (f : OwnerSt → OwnerSt) : (s.onOwner i f).seqs = s.seqs := rfl
@[simp] theorem State.onOwner_cvus (i : Nat) (f : OwnerSt → OwnerSt) : (s.onOwner i f).cvus = s.cvus := rfl
@[simp] theorem State.onOwner_resends (i : Nat) (f : OwnerSt → OwnerSt) : (s.onOwner i f).resends = s.resends := rfl
@[simp] theorem State.onOwner_toks (i : Nat) (f : OwnerSt → OwnerSt) : (s.onOwner i f).toks = s.toks := rfl
@[simp] theorem State.onOwner_dmas (i : Nat) (f : OwnerSt → OwnerSt) : (s.onOwner i f).dmas = s.dmas := rfl
@[simp] theorem State.onOwner_ddrs (i : Nat) (f : OwnerSt → OwnerSt) : (s.onOwner i f).ddrs = s.ddrs := rfl
@[simp] theorem State.onOwner_busy (i : Nat) (f : OwnerSt → OwnerSt) : (s.onOwner i f).busy = s.busy := rfl
@[simp] theorem State.onOwner_again (i : Nat) (f : OwnerSt → OwnerSt) : (s.onOwner i f).again = s.again := rfl
@[simp] theorem State.onOwner_bc (i : Nat) (f : OwnerSt → OwnerSt) : (s.onOwner i f).bc = s.bc := rfl
@[simp] theorem State.onOwner_bcReports (i : Nat) (f : OwnerSt → OwnerSt) : (s.onOwner i f).bcReports = s.bcReports := rfl
@[simp] theorem State.onOwner_ifaces (i : Nat) (f : OwnerSt → OwnerSt) : (s.onOwner i f).ifaces = s.ifaces := rfl
@[simp] theorem State.onOwner_ctrls (i : Nat) (f : OwnerSt → OwnerSt) : (s.onOwner i f).ctrls = s.ctrls := rfl
@[simp] theorem State.onOwner_ctrlWait (i : Nat) (f : OwnerSt → OwnerSt) : (s.onOwner i f).ctrlWait = s.ctrlWait := rfl
@[simp] theorem State.onDma_pending (i : Nat) (f : DmaSt → DmaSt) : (s.onDma i f).pending = s.pending := rfl
@[simp] theorem State.onDma_csr (i : Nat) (f : DmaSt → DmaSt) : (s.onDma i f).csr = s.csr := rfl
@[simp] theorem State.onDma_mem (i : Nat) (f : DmaSt → DmaSt) : (s.onDma i f).mem = s.mem := rfl
@[simp] theorem State.onDma_bad (i : Nat) (f : DmaSt → DmaSt) : (s.onDma i f).bad = s.bad := rfl
@[simp] theorem State.onDma_time (i : Nat) (f : DmaSt → DmaSt) : (s.onDma i f).time = s.time := rfl
@[simp] theorem State.onDma_counter (i : Nat) (f : DmaSt → DmaSt) : (s.onDma i f).counter = s.counter := rfl
@[simp] theorem State.onDma_free (i : Nat) (f : DmaSt → DmaSt) : (s.onDma i f).free = s.free := rfl
@[simp] theorem State.onDma_sent (i : Nat) (f : DmaSt → DmaSt) : (s.onDma i f).sent = s.sent := rfl
@[simp] theorem State.onDma_aon (i : Nat) (f : DmaSt → DmaSt) : (s.onDma i f).aon = s.aon := rfl
@[simp] theorem State.onDma_store (i : Nat) (f : DmaSt → DmaSt) : (s.onDma i f).store = s.store := rfl
@[simp] theorem State.onDma_trust (i : Nat) (f : DmaSt → DmaSt) : (s.onDma i f).trust = s.trust := rfl
@[simp] theorem State.onDma_tb (i : Nat) (f : DmaSt → DmaSt) : (s.onDma i f).tb = s.tb := rfl
@[simp] theorem State.onDma_chr (i : Nat) (f : DmaSt → DmaSt) : (s.onDma i f).chr = s.chr := rfl
@[simp] theorem State.onDma_streams (i : Nat) (f : DmaSt → DmaSt) : (s.onDma i f).streams = s.streams := rfl
@[simp] theorem State.onDma_cores (i : Nat) (f : DmaSt → DmaSt) : (s.onDma i f).cores = s.cores := rfl
@[simp] theorem State.onDma_links (i : Nat) (f : DmaSt → DmaSt) : (s.onDma i f).links = s.links := rfl
@[simp] theorem State.onDma_tiles (i : Nat) (f : DmaSt → DmaSt) : (s.onDma i f).tiles = s.tiles := rfl
@[simp] theorem State.onDma_seqs (i : Nat) (f : DmaSt → DmaSt) : (s.onDma i f).seqs = s.seqs := rfl
@[simp] theorem State.onDma_cvus (i : Nat) (f : DmaSt → DmaSt) : (s.onDma i f).cvus = s.cvus := rfl
@[simp] theorem State.onDma_owners (i : Nat) (f : DmaSt → DmaSt) : (s.onDma i f).owners = s.owners := rfl
@[simp] theorem State.onDma_resends (i : Nat) (f : DmaSt → DmaSt) : (s.onDma i f).resends = s.resends := rfl
@[simp] theorem State.onDma_toks (i : Nat) (f : DmaSt → DmaSt) : (s.onDma i f).toks = s.toks := rfl
@[simp] theorem State.onDma_ddrs (i : Nat) (f : DmaSt → DmaSt) : (s.onDma i f).ddrs = s.ddrs := rfl
@[simp] theorem State.onDma_busy (i : Nat) (f : DmaSt → DmaSt) : (s.onDma i f).busy = s.busy := rfl
@[simp] theorem State.onDma_again (i : Nat) (f : DmaSt → DmaSt) : (s.onDma i f).again = s.again := rfl
@[simp] theorem State.onDma_bc (i : Nat) (f : DmaSt → DmaSt) : (s.onDma i f).bc = s.bc := rfl
@[simp] theorem State.onDma_bcReports (i : Nat) (f : DmaSt → DmaSt) : (s.onDma i f).bcReports = s.bcReports := rfl
@[simp] theorem State.onDma_ifaces (i : Nat) (f : DmaSt → DmaSt) : (s.onDma i f).ifaces = s.ifaces := rfl
@[simp] theorem State.onDma_ctrls (i : Nat) (f : DmaSt → DmaSt) : (s.onDma i f).ctrls = s.ctrls := rfl
@[simp] theorem State.onDma_ctrlWait (i : Nat) (f : DmaSt → DmaSt) : (s.onDma i f).ctrlWait = s.ctrlWait := rfl
@[simp] theorem State.onDdr_pending (i : Nat) (f : DdrSt → DdrSt) : (s.onDdr i f).pending = s.pending := rfl
@[simp] theorem State.onDdr_csr (i : Nat) (f : DdrSt → DdrSt) : (s.onDdr i f).csr = s.csr := rfl
@[simp] theorem State.onDdr_mem (i : Nat) (f : DdrSt → DdrSt) : (s.onDdr i f).mem = s.mem := rfl
@[simp] theorem State.onDdr_bad (i : Nat) (f : DdrSt → DdrSt) : (s.onDdr i f).bad = s.bad := rfl
@[simp] theorem State.onDdr_time (i : Nat) (f : DdrSt → DdrSt) : (s.onDdr i f).time = s.time := rfl
@[simp] theorem State.onDdr_counter (i : Nat) (f : DdrSt → DdrSt) : (s.onDdr i f).counter = s.counter := rfl
@[simp] theorem State.onDdr_free (i : Nat) (f : DdrSt → DdrSt) : (s.onDdr i f).free = s.free := rfl
@[simp] theorem State.onDdr_sent (i : Nat) (f : DdrSt → DdrSt) : (s.onDdr i f).sent = s.sent := rfl
@[simp] theorem State.onDdr_aon (i : Nat) (f : DdrSt → DdrSt) : (s.onDdr i f).aon = s.aon := rfl
@[simp] theorem State.onDdr_store (i : Nat) (f : DdrSt → DdrSt) : (s.onDdr i f).store = s.store := rfl
@[simp] theorem State.onDdr_trust (i : Nat) (f : DdrSt → DdrSt) : (s.onDdr i f).trust = s.trust := rfl
@[simp] theorem State.onDdr_tb (i : Nat) (f : DdrSt → DdrSt) : (s.onDdr i f).tb = s.tb := rfl
@[simp] theorem State.onDdr_chr (i : Nat) (f : DdrSt → DdrSt) : (s.onDdr i f).chr = s.chr := rfl
@[simp] theorem State.onDdr_streams (i : Nat) (f : DdrSt → DdrSt) : (s.onDdr i f).streams = s.streams := rfl
@[simp] theorem State.onDdr_cores (i : Nat) (f : DdrSt → DdrSt) : (s.onDdr i f).cores = s.cores := rfl
@[simp] theorem State.onDdr_links (i : Nat) (f : DdrSt → DdrSt) : (s.onDdr i f).links = s.links := rfl
@[simp] theorem State.onDdr_tiles (i : Nat) (f : DdrSt → DdrSt) : (s.onDdr i f).tiles = s.tiles := rfl
@[simp] theorem State.onDdr_seqs (i : Nat) (f : DdrSt → DdrSt) : (s.onDdr i f).seqs = s.seqs := rfl
@[simp] theorem State.onDdr_cvus (i : Nat) (f : DdrSt → DdrSt) : (s.onDdr i f).cvus = s.cvus := rfl
@[simp] theorem State.onDdr_owners (i : Nat) (f : DdrSt → DdrSt) : (s.onDdr i f).owners = s.owners := rfl
@[simp] theorem State.onDdr_resends (i : Nat) (f : DdrSt → DdrSt) : (s.onDdr i f).resends = s.resends := rfl
@[simp] theorem State.onDdr_toks (i : Nat) (f : DdrSt → DdrSt) : (s.onDdr i f).toks = s.toks := rfl
@[simp] theorem State.onDdr_dmas (i : Nat) (f : DdrSt → DdrSt) : (s.onDdr i f).dmas = s.dmas := rfl
@[simp] theorem State.onDdr_busy (i : Nat) (f : DdrSt → DdrSt) : (s.onDdr i f).busy = s.busy := rfl
@[simp] theorem State.onDdr_again (i : Nat) (f : DdrSt → DdrSt) : (s.onDdr i f).again = s.again := rfl
@[simp] theorem State.onDdr_bc (i : Nat) (f : DdrSt → DdrSt) : (s.onDdr i f).bc = s.bc := rfl
@[simp] theorem State.onDdr_bcReports (i : Nat) (f : DdrSt → DdrSt) : (s.onDdr i f).bcReports = s.bcReports := rfl
@[simp] theorem State.onDdr_ifaces (i : Nat) (f : DdrSt → DdrSt) : (s.onDdr i f).ifaces = s.ifaces := rfl
@[simp] theorem State.onDdr_ctrls (i : Nat) (f : DdrSt → DdrSt) : (s.onDdr i f).ctrls = s.ctrls := rfl
@[simp] theorem State.onDdr_ctrlWait (i : Nat) (f : DdrSt → DdrSt) : (s.onDdr i f).ctrlWait = s.ctrlWait := rfl
@[simp] theorem State.onTok_pending (i : Nat) (f : TokSt → TokSt) : (s.onTok i f).pending = s.pending := rfl
@[simp] theorem State.onTok_csr (i : Nat) (f : TokSt → TokSt) : (s.onTok i f).csr = s.csr := rfl
@[simp] theorem State.onTok_mem (i : Nat) (f : TokSt → TokSt) : (s.onTok i f).mem = s.mem := rfl
@[simp] theorem State.onTok_bad (i : Nat) (f : TokSt → TokSt) : (s.onTok i f).bad = s.bad := rfl
@[simp] theorem State.onTok_time (i : Nat) (f : TokSt → TokSt) : (s.onTok i f).time = s.time := rfl
@[simp] theorem State.onTok_counter (i : Nat) (f : TokSt → TokSt) : (s.onTok i f).counter = s.counter := rfl
@[simp] theorem State.onTok_free (i : Nat) (f : TokSt → TokSt) : (s.onTok i f).free = s.free := rfl
@[simp] theorem State.onTok_sent (i : Nat) (f : TokSt → TokSt) : (s.onTok i f).sent = s.sent := rfl
@[simp] theorem State.onTok_aon (i : Nat) (f : TokSt → TokSt) : (s.onTok i f).aon = s.aon := rfl
@[simp] theorem State.onTok_store (i : Nat) (f : TokSt → TokSt) : (s.onTok i f).store = s.store := rfl
@[simp] theorem State.onTok_trust (i : Nat) (f : TokSt → TokSt) : (s.onTok i f).trust = s.trust := rfl
@[simp] theorem State.onTok_tb (i : Nat) (f : TokSt → TokSt) : (s.onTok i f).tb = s.tb := rfl
@[simp] theorem State.onTok_chr (i : Nat) (f : TokSt → TokSt) : (s.onTok i f).chr = s.chr := rfl
@[simp] theorem State.onTok_streams (i : Nat) (f : TokSt → TokSt) : (s.onTok i f).streams = s.streams := rfl
@[simp] theorem State.onTok_cores (i : Nat) (f : TokSt → TokSt) : (s.onTok i f).cores = s.cores := rfl
@[simp] theorem State.onTok_links (i : Nat) (f : TokSt → TokSt) : (s.onTok i f).links = s.links := rfl
@[simp] theorem State.onTok_tiles (i : Nat) (f : TokSt → TokSt) : (s.onTok i f).tiles = s.tiles := rfl
@[simp] theorem State.onTok_seqs (i : Nat) (f : TokSt → TokSt) : (s.onTok i f).seqs = s.seqs := rfl
@[simp] theorem State.onTok_cvus (i : Nat) (f : TokSt → TokSt) : (s.onTok i f).cvus = s.cvus := rfl
@[simp] theorem State.onTok_owners (i : Nat) (f : TokSt → TokSt) : (s.onTok i f).owners = s.owners := rfl
@[simp] theorem State.onTok_resends (i : Nat) (f : TokSt → TokSt) : (s.onTok i f).resends = s.resends := rfl
@[simp] theorem State.onTok_dmas (i : Nat) (f : TokSt → TokSt) : (s.onTok i f).dmas = s.dmas := rfl
@[simp] theorem State.onTok_ddrs (i : Nat) (f : TokSt → TokSt) : (s.onTok i f).ddrs = s.ddrs := rfl
@[simp] theorem State.onTok_busy (i : Nat) (f : TokSt → TokSt) : (s.onTok i f).busy = s.busy := rfl
@[simp] theorem State.onTok_again (i : Nat) (f : TokSt → TokSt) : (s.onTok i f).again = s.again := rfl
@[simp] theorem State.onTok_bc (i : Nat) (f : TokSt → TokSt) : (s.onTok i f).bc = s.bc := rfl
@[simp] theorem State.onTok_bcReports (i : Nat) (f : TokSt → TokSt) : (s.onTok i f).bcReports = s.bcReports := rfl
@[simp] theorem State.onTok_ifaces (i : Nat) (f : TokSt → TokSt) : (s.onTok i f).ifaces = s.ifaces := rfl
@[simp] theorem State.onTok_ctrls (i : Nat) (f : TokSt → TokSt) : (s.onTok i f).ctrls = s.ctrls := rfl
@[simp] theorem State.onTok_ctrlWait (i : Nat) (f : TokSt → TokSt) : (s.onTok i f).ctrlWait = s.ctrlWait := rfl
@[simp] theorem State.busyAdd_pending (x : DdrReq) : (s.busyAdd x).pending = s.pending := rfl
@[simp] theorem State.busyAdd_csr (x : DdrReq) : (s.busyAdd x).csr = s.csr := rfl
@[simp] theorem State.busyAdd_mem (x : DdrReq) : (s.busyAdd x).mem = s.mem := rfl
@[simp] theorem State.busyAdd_bad (x : DdrReq) : (s.busyAdd x).bad = s.bad := rfl
@[simp] theorem State.busyAdd_time (x : DdrReq) : (s.busyAdd x).time = s.time := rfl
@[simp] theorem State.busyAdd_counter (x : DdrReq) : (s.busyAdd x).counter = s.counter := rfl
@[simp] theorem State.busyAdd_free (x : DdrReq) : (s.busyAdd x).free = s.free := rfl
@[simp] theorem State.busyAdd_sent (x : DdrReq) : (s.busyAdd x).sent = s.sent := rfl
@[simp] theorem State.busyAdd_aon (x : DdrReq) : (s.busyAdd x).aon = s.aon := rfl
@[simp] theorem State.busyAdd_store (x : DdrReq) : (s.busyAdd x).store = s.store := rfl
@[simp] theorem State.busyAdd_trust (x : DdrReq) : (s.busyAdd x).trust = s.trust := rfl
@[simp] theorem State.busyAdd_tb (x : DdrReq) : (s.busyAdd x).tb = s.tb := rfl
@[simp] theorem State.busyAdd_chr (x : DdrReq) : (s.busyAdd x).chr = s.chr := rfl
@[simp] theorem State.busyAdd_streams (x : DdrReq) : (s.busyAdd x).streams = s.streams := rfl
@[simp] theorem State.busyAdd_cores (x : DdrReq) : (s.busyAdd x).cores = s.cores := rfl
@[simp] theorem State.busyAdd_links (x : DdrReq) : (s.busyAdd x).links = s.links := rfl
@[simp] theorem State.busyAdd_tiles (x : DdrReq) : (s.busyAdd x).tiles = s.tiles := rfl
@[simp] theorem State.busyAdd_seqs (x : DdrReq) : (s.busyAdd x).seqs = s.seqs := rfl
@[simp] theorem State.busyAdd_cvus (x : DdrReq) : (s.busyAdd x).cvus = s.cvus := rfl
@[simp] theorem State.busyAdd_owners (x : DdrReq) : (s.busyAdd x).owners = s.owners := rfl
@[simp] theorem State.busyAdd_resends (x : DdrReq) : (s.busyAdd x).resends = s.resends := rfl
@[simp] theorem State.busyAdd_toks (x : DdrReq) : (s.busyAdd x).toks = s.toks := rfl
@[simp] theorem State.busyAdd_dmas (x : DdrReq) : (s.busyAdd x).dmas = s.dmas := rfl
@[simp] theorem State.busyAdd_ddrs (x : DdrReq) : (s.busyAdd x).ddrs = s.ddrs := rfl
@[simp] theorem State.busyAdd_again (x : DdrReq) : (s.busyAdd x).again = s.again := rfl
@[simp] theorem State.busyAdd_bc (x : DdrReq) : (s.busyAdd x).bc = s.bc := rfl
@[simp] theorem State.busyAdd_bcReports (x : DdrReq) : (s.busyAdd x).bcReports = s.bcReports := rfl
@[simp] theorem State.busyAdd_ifaces (x : DdrReq) : (s.busyAdd x).ifaces = s.ifaces := rfl
@[simp] theorem State.busyAdd_ctrls (x : DdrReq) : (s.busyAdd x).ctrls = s.ctrls := rfl
@[simp] theorem State.busyAdd_ctrlWait (x : DdrReq) : (s.busyAdd x).ctrlWait = s.ctrlWait := rfl
@[simp] theorem State.busyTake_pending (x : Nat × DdrReq) : (s.busyTake x).pending = s.pending := rfl
@[simp] theorem State.busyTake_csr (x : Nat × DdrReq) : (s.busyTake x).csr = s.csr := rfl
@[simp] theorem State.busyTake_mem (x : Nat × DdrReq) : (s.busyTake x).mem = s.mem := rfl
@[simp] theorem State.busyTake_bad (x : Nat × DdrReq) : (s.busyTake x).bad = s.bad := rfl
@[simp] theorem State.busyTake_time (x : Nat × DdrReq) : (s.busyTake x).time = s.time := rfl
@[simp] theorem State.busyTake_counter (x : Nat × DdrReq) : (s.busyTake x).counter = s.counter := rfl
@[simp] theorem State.busyTake_free (x : Nat × DdrReq) : (s.busyTake x).free = s.free := rfl
@[simp] theorem State.busyTake_sent (x : Nat × DdrReq) : (s.busyTake x).sent = s.sent := rfl
@[simp] theorem State.busyTake_aon (x : Nat × DdrReq) : (s.busyTake x).aon = s.aon := rfl
@[simp] theorem State.busyTake_store (x : Nat × DdrReq) : (s.busyTake x).store = s.store := rfl
@[simp] theorem State.busyTake_trust (x : Nat × DdrReq) : (s.busyTake x).trust = s.trust := rfl
@[simp] theorem State.busyTake_tb (x : Nat × DdrReq) : (s.busyTake x).tb = s.tb := rfl
@[simp] theorem State.busyTake_chr (x : Nat × DdrReq) : (s.busyTake x).chr = s.chr := rfl
@[simp] theorem State.busyTake_streams (x : Nat × DdrReq) : (s.busyTake x).streams = s.streams := rfl
@[simp] theorem State.busyTake_cores (x : Nat × DdrReq) : (s.busyTake x).cores = s.cores := rfl
@[simp] theorem State.busyTake_links (x : Nat × DdrReq) : (s.busyTake x).links = s.links := rfl
@[simp] theorem State.busyTake_tiles (x : Nat × DdrReq) : (s.busyTake x).tiles = s.tiles := rfl
@[simp] theorem State.busyTake_seqs (x : Nat × DdrReq) : (s.busyTake x).seqs = s.seqs := rfl
@[simp] theorem State.busyTake_cvus (x : Nat × DdrReq) : (s.busyTake x).cvus = s.cvus := rfl
@[simp] theorem State.busyTake_owners (x : Nat × DdrReq) : (s.busyTake x).owners = s.owners := rfl
@[simp] theorem State.busyTake_resends (x : Nat × DdrReq) : (s.busyTake x).resends = s.resends := rfl
@[simp] theorem State.busyTake_toks (x : Nat × DdrReq) : (s.busyTake x).toks = s.toks := rfl
@[simp] theorem State.busyTake_dmas (x : Nat × DdrReq) : (s.busyTake x).dmas = s.dmas := rfl
@[simp] theorem State.busyTake_ddrs (x : Nat × DdrReq) : (s.busyTake x).ddrs = s.ddrs := rfl
@[simp] theorem State.busyTake_again (x : Nat × DdrReq) : (s.busyTake x).again = s.again := rfl
@[simp] theorem State.busyTake_bc (x : Nat × DdrReq) : (s.busyTake x).bc = s.bc := rfl
@[simp] theorem State.busyTake_bcReports (x : Nat × DdrReq) : (s.busyTake x).bcReports = s.bcReports := rfl
@[simp] theorem State.busyTake_ifaces (x : Nat × DdrReq) : (s.busyTake x).ifaces = s.ifaces := rfl
@[simp] theorem State.busyTake_ctrls (x : Nat × DdrReq) : (s.busyTake x).ctrls = s.ctrls := rfl
@[simp] theorem State.busyTake_ctrlWait (x : Nat × DdrReq) : (s.busyTake x).ctrlWait = s.ctrlWait := rfl
@[simp] theorem State.againAdd_pending (x : Emit) : (s.againAdd x).pending = s.pending := rfl
@[simp] theorem State.againAdd_csr (x : Emit) : (s.againAdd x).csr = s.csr := rfl
@[simp] theorem State.againAdd_mem (x : Emit) : (s.againAdd x).mem = s.mem := rfl
@[simp] theorem State.againAdd_bad (x : Emit) : (s.againAdd x).bad = s.bad := rfl
@[simp] theorem State.againAdd_time (x : Emit) : (s.againAdd x).time = s.time := rfl
@[simp] theorem State.againAdd_counter (x : Emit) : (s.againAdd x).counter = s.counter := rfl
@[simp] theorem State.againAdd_free (x : Emit) : (s.againAdd x).free = s.free := rfl
@[simp] theorem State.againAdd_sent (x : Emit) : (s.againAdd x).sent = s.sent := rfl
@[simp] theorem State.againAdd_aon (x : Emit) : (s.againAdd x).aon = s.aon := rfl
@[simp] theorem State.againAdd_store (x : Emit) : (s.againAdd x).store = s.store := rfl
@[simp] theorem State.againAdd_trust (x : Emit) : (s.againAdd x).trust = s.trust := rfl
@[simp] theorem State.againAdd_tb (x : Emit) : (s.againAdd x).tb = s.tb := rfl
@[simp] theorem State.againAdd_chr (x : Emit) : (s.againAdd x).chr = s.chr := rfl
@[simp] theorem State.againAdd_streams (x : Emit) : (s.againAdd x).streams = s.streams := rfl
@[simp] theorem State.againAdd_cores (x : Emit) : (s.againAdd x).cores = s.cores := rfl
@[simp] theorem State.againAdd_links (x : Emit) : (s.againAdd x).links = s.links := rfl
@[simp] theorem State.againAdd_tiles (x : Emit) : (s.againAdd x).tiles = s.tiles := rfl
@[simp] theorem State.againAdd_seqs (x : Emit) : (s.againAdd x).seqs = s.seqs := rfl
@[simp] theorem State.againAdd_cvus (x : Emit) : (s.againAdd x).cvus = s.cvus := rfl
@[simp] theorem State.againAdd_owners (x : Emit) : (s.againAdd x).owners = s.owners := rfl
@[simp] theorem State.againAdd_resends (x : Emit) : (s.againAdd x).resends = s.resends := rfl
@[simp] theorem State.againAdd_toks (x : Emit) : (s.againAdd x).toks = s.toks := rfl
@[simp] theorem State.againAdd_dmas (x : Emit) : (s.againAdd x).dmas = s.dmas := rfl
@[simp] theorem State.againAdd_ddrs (x : Emit) : (s.againAdd x).ddrs = s.ddrs := rfl
@[simp] theorem State.againAdd_busy (x : Emit) : (s.againAdd x).busy = s.busy := rfl
@[simp] theorem State.againAdd_bc (x : Emit) : (s.againAdd x).bc = s.bc := rfl
@[simp] theorem State.againAdd_bcReports (x : Emit) : (s.againAdd x).bcReports = s.bcReports := rfl
@[simp] theorem State.againAdd_ifaces (x : Emit) : (s.againAdd x).ifaces = s.ifaces := rfl
@[simp] theorem State.againAdd_ctrls (x : Emit) : (s.againAdd x).ctrls = s.ctrls := rfl
@[simp] theorem State.againAdd_ctrlWait (x : Emit) : (s.againAdd x).ctrlWait = s.ctrlWait := rfl
@[simp] theorem State.againTake_pending (x : Nat × Emit) : (s.againTake x).pending = s.pending := rfl
@[simp] theorem State.againTake_csr (x : Nat × Emit) : (s.againTake x).csr = s.csr := rfl
@[simp] theorem State.againTake_mem (x : Nat × Emit) : (s.againTake x).mem = s.mem := rfl
@[simp] theorem State.againTake_bad (x : Nat × Emit) : (s.againTake x).bad = s.bad := rfl
@[simp] theorem State.againTake_time (x : Nat × Emit) : (s.againTake x).time = s.time := rfl
@[simp] theorem State.againTake_counter (x : Nat × Emit) : (s.againTake x).counter = s.counter := rfl
@[simp] theorem State.againTake_free (x : Nat × Emit) : (s.againTake x).free = s.free := rfl
@[simp] theorem State.againTake_sent (x : Nat × Emit) : (s.againTake x).sent = s.sent := rfl
@[simp] theorem State.againTake_aon (x : Nat × Emit) : (s.againTake x).aon = s.aon := rfl
@[simp] theorem State.againTake_store (x : Nat × Emit) : (s.againTake x).store = s.store := rfl
@[simp] theorem State.againTake_trust (x : Nat × Emit) : (s.againTake x).trust = s.trust := rfl
@[simp] theorem State.againTake_tb (x : Nat × Emit) : (s.againTake x).tb = s.tb := rfl
@[simp] theorem State.againTake_chr (x : Nat × Emit) : (s.againTake x).chr = s.chr := rfl
@[simp] theorem State.againTake_streams (x : Nat × Emit) : (s.againTake x).streams = s.streams := rfl
@[simp] theorem State.againTake_cores (x : Nat × Emit) : (s.againTake x).cores = s.cores := rfl
@[simp] theorem State.againTake_links (x : Nat × Emit) : (s.againTake x).links = s.links := rfl
@[simp] theorem State.againTake_tiles (x : Nat × Emit) : (s.againTake x).tiles = s.tiles := rfl
@[simp] theorem State.againTake_seqs (x : Nat × Emit) : (s.againTake x).seqs = s.seqs := rfl
@[simp] theorem State.againTake_cvus (x : Nat × Emit) : (s.againTake x).cvus = s.cvus := rfl
@[simp] theorem State.againTake_owners (x : Nat × Emit) : (s.againTake x).owners = s.owners := rfl
@[simp] theorem State.againTake_resends (x : Nat × Emit) : (s.againTake x).resends = s.resends := rfl
@[simp] theorem State.againTake_toks (x : Nat × Emit) : (s.againTake x).toks = s.toks := rfl
@[simp] theorem State.againTake_dmas (x : Nat × Emit) : (s.againTake x).dmas = s.dmas := rfl
@[simp] theorem State.againTake_ddrs (x : Nat × Emit) : (s.againTake x).ddrs = s.ddrs := rfl
@[simp] theorem State.againTake_busy (x : Nat × Emit) : (s.againTake x).busy = s.busy := rfl
@[simp] theorem State.againTake_bc (x : Nat × Emit) : (s.againTake x).bc = s.bc := rfl
@[simp] theorem State.againTake_bcReports (x : Nat × Emit) : (s.againTake x).bcReports = s.bcReports := rfl
@[simp] theorem State.againTake_ifaces (x : Nat × Emit) : (s.againTake x).ifaces = s.ifaces := rfl
@[simp] theorem State.againTake_ctrls (x : Nat × Emit) : (s.againTake x).ctrls = s.ctrls := rfl
@[simp] theorem State.againTake_ctrlWait (x : Nat × Emit) : (s.againTake x).ctrlWait = s.ctrlWait := rfl
@[simp] theorem State.resendAdd_pending (x : SyncOp) : (s.resendAdd x).pending = s.pending := rfl
@[simp] theorem State.resendAdd_csr (x : SyncOp) : (s.resendAdd x).csr = s.csr := rfl
@[simp] theorem State.resendAdd_mem (x : SyncOp) : (s.resendAdd x).mem = s.mem := rfl
@[simp] theorem State.resendAdd_bad (x : SyncOp) : (s.resendAdd x).bad = s.bad := rfl
@[simp] theorem State.resendAdd_time (x : SyncOp) : (s.resendAdd x).time = s.time := rfl
@[simp] theorem State.resendAdd_counter (x : SyncOp) : (s.resendAdd x).counter = s.counter := rfl
@[simp] theorem State.resendAdd_free (x : SyncOp) : (s.resendAdd x).free = s.free := rfl
@[simp] theorem State.resendAdd_sent (x : SyncOp) : (s.resendAdd x).sent = s.sent := rfl
@[simp] theorem State.resendAdd_aon (x : SyncOp) : (s.resendAdd x).aon = s.aon := rfl
@[simp] theorem State.resendAdd_store (x : SyncOp) : (s.resendAdd x).store = s.store := rfl
@[simp] theorem State.resendAdd_trust (x : SyncOp) : (s.resendAdd x).trust = s.trust := rfl
@[simp] theorem State.resendAdd_tb (x : SyncOp) : (s.resendAdd x).tb = s.tb := rfl
@[simp] theorem State.resendAdd_chr (x : SyncOp) : (s.resendAdd x).chr = s.chr := rfl
@[simp] theorem State.resendAdd_streams (x : SyncOp) : (s.resendAdd x).streams = s.streams := rfl
@[simp] theorem State.resendAdd_cores (x : SyncOp) : (s.resendAdd x).cores = s.cores := rfl
@[simp] theorem State.resendAdd_links (x : SyncOp) : (s.resendAdd x).links = s.links := rfl
@[simp] theorem State.resendAdd_tiles (x : SyncOp) : (s.resendAdd x).tiles = s.tiles := rfl
@[simp] theorem State.resendAdd_seqs (x : SyncOp) : (s.resendAdd x).seqs = s.seqs := rfl
@[simp] theorem State.resendAdd_cvus (x : SyncOp) : (s.resendAdd x).cvus = s.cvus := rfl
@[simp] theorem State.resendAdd_owners (x : SyncOp) : (s.resendAdd x).owners = s.owners := rfl
@[simp] theorem State.resendAdd_toks (x : SyncOp) : (s.resendAdd x).toks = s.toks := rfl
@[simp] theorem State.resendAdd_dmas (x : SyncOp) : (s.resendAdd x).dmas = s.dmas := rfl
@[simp] theorem State.resendAdd_ddrs (x : SyncOp) : (s.resendAdd x).ddrs = s.ddrs := rfl
@[simp] theorem State.resendAdd_busy (x : SyncOp) : (s.resendAdd x).busy = s.busy := rfl
@[simp] theorem State.resendAdd_again (x : SyncOp) : (s.resendAdd x).again = s.again := rfl
@[simp] theorem State.resendAdd_bc (x : SyncOp) : (s.resendAdd x).bc = s.bc := rfl
@[simp] theorem State.resendAdd_bcReports (x : SyncOp) : (s.resendAdd x).bcReports = s.bcReports := rfl
@[simp] theorem State.resendAdd_ifaces (x : SyncOp) : (s.resendAdd x).ifaces = s.ifaces := rfl
@[simp] theorem State.resendAdd_ctrls (x : SyncOp) : (s.resendAdd x).ctrls = s.ctrls := rfl
@[simp] theorem State.resendAdd_ctrlWait (x : SyncOp) : (s.resendAdd x).ctrlWait = s.ctrlWait := rfl
@[simp] theorem State.resendTake_pending (x : SyncOp) : (s.resendTake x).pending = s.pending := rfl
@[simp] theorem State.resendTake_csr (x : SyncOp) : (s.resendTake x).csr = s.csr := rfl
@[simp] theorem State.resendTake_mem (x : SyncOp) : (s.resendTake x).mem = s.mem := rfl
@[simp] theorem State.resendTake_bad (x : SyncOp) : (s.resendTake x).bad = s.bad := rfl
@[simp] theorem State.resendTake_time (x : SyncOp) : (s.resendTake x).time = s.time := rfl
@[simp] theorem State.resendTake_counter (x : SyncOp) : (s.resendTake x).counter = s.counter := rfl
@[simp] theorem State.resendTake_free (x : SyncOp) : (s.resendTake x).free = s.free := rfl
@[simp] theorem State.resendTake_sent (x : SyncOp) : (s.resendTake x).sent = s.sent := rfl
@[simp] theorem State.resendTake_aon (x : SyncOp) : (s.resendTake x).aon = s.aon := rfl
@[simp] theorem State.resendTake_store (x : SyncOp) : (s.resendTake x).store = s.store := rfl
@[simp] theorem State.resendTake_trust (x : SyncOp) : (s.resendTake x).trust = s.trust := rfl
@[simp] theorem State.resendTake_tb (x : SyncOp) : (s.resendTake x).tb = s.tb := rfl
@[simp] theorem State.resendTake_chr (x : SyncOp) : (s.resendTake x).chr = s.chr := rfl
@[simp] theorem State.resendTake_streams (x : SyncOp) : (s.resendTake x).streams = s.streams := rfl
@[simp] theorem State.resendTake_cores (x : SyncOp) : (s.resendTake x).cores = s.cores := rfl
@[simp] theorem State.resendTake_links (x : SyncOp) : (s.resendTake x).links = s.links := rfl
@[simp] theorem State.resendTake_tiles (x : SyncOp) : (s.resendTake x).tiles = s.tiles := rfl
@[simp] theorem State.resendTake_seqs (x : SyncOp) : (s.resendTake x).seqs = s.seqs := rfl
@[simp] theorem State.resendTake_cvus (x : SyncOp) : (s.resendTake x).cvus = s.cvus := rfl
@[simp] theorem State.resendTake_owners (x : SyncOp) : (s.resendTake x).owners = s.owners := rfl
@[simp] theorem State.resendTake_toks (x : SyncOp) : (s.resendTake x).toks = s.toks := rfl
@[simp] theorem State.resendTake_dmas (x : SyncOp) : (s.resendTake x).dmas = s.dmas := rfl
@[simp] theorem State.resendTake_ddrs (x : SyncOp) : (s.resendTake x).ddrs = s.ddrs := rfl
@[simp] theorem State.resendTake_busy (x : SyncOp) : (s.resendTake x).busy = s.busy := rfl
@[simp] theorem State.resendTake_again (x : SyncOp) : (s.resendTake x).again = s.again := rfl
@[simp] theorem State.resendTake_bc (x : SyncOp) : (s.resendTake x).bc = s.bc := rfl
@[simp] theorem State.resendTake_bcReports (x : SyncOp) : (s.resendTake x).bcReports = s.bcReports := rfl
@[simp] theorem State.resendTake_ifaces (x : SyncOp) : (s.resendTake x).ifaces = s.ifaces := rfl
@[simp] theorem State.resendTake_ctrls (x : SyncOp) : (s.resendTake x).ctrls = s.ctrls := rfl
@[simp] theorem State.resendTake_ctrlWait (x : SyncOp) : (s.resendTake x).ctrlWait = s.ctrlWait := rfl

@[simp] theorem State.emit_sent (e : Emit) : (s.emit e).sent = e :: s.sent := rfl
@[simp] theorem State.drawn_free : s.drawn.free = s.free + 1 := rfl
@[simp] theorem State.drawnN_free (n : Nat) : (s.drawnN n).free = s.free + n := rfl
@[simp] theorem State.onAon_aon (f : Aon → Aon) : (s.onAon f).aon = f s.aon := rfl
@[simp] theorem State.onStore_store (f : Settings → Settings) : (s.onStore f).store = f s.store := rfl
@[simp] theorem State.onTrust_trust (f : Trust → Trust) : (s.onTrust f).trust = f s.trust := rfl
@[simp] theorem State.onChr_chr (f : Chrysalis → Chrysalis) : (s.onChr f).chr = f s.chr := rfl
@[simp] theorem State.onTb_tb (f : TimeBase → TimeBase) : (s.onTb f).tb = f s.tb := rfl
@[simp] theorem State.emit_rd (e : Emit) (at_ : Nat) : (s.emit e).rd at_ = s.rd at_ := rfl
@[simp] theorem State.emit_fget (e : Emit) (g : FieldRef) : (s.emit e).fget g = s.fget g := rfl
@[simp] theorem State.emit_fbit (e : Emit) (g : FieldRef) : (s.emit e).fbit g = s.fbit g := rfl
@[simp] theorem State.raise_rd (a b c d : Nat) (at_ : Nat) : (s.raise a b c d).rd at_ = s.rd at_ := rfl
@[simp] theorem State.raise_fget (a b c d : Nat) (g : FieldRef) : (s.raise a b c d).fget g = s.fget g := rfl
@[simp] theorem State.raise_fbit (a b c d : Nat) (g : FieldRef) : (s.raise a b c d).fbit g = s.fbit g := rfl
@[simp] theorem State.drawn_rd (at_ : Nat) : (s.drawn).rd at_ = s.rd at_ := rfl
@[simp] theorem State.drawn_fget (g : FieldRef) : (s.drawn).fget g = s.fget g := rfl
@[simp] theorem State.drawn_fbit (g : FieldRef) : (s.drawn).fbit g = s.fbit g := rfl
@[simp] theorem State.drawnN_rd (n : Nat) (at_ : Nat) : (s.drawnN n).rd at_ = s.rd at_ := rfl
@[simp] theorem State.drawnN_fget (n : Nat) (g : FieldRef) : (s.drawnN n).fget g = s.fget g := rfl
@[simp] theorem State.drawnN_fbit (n : Nat) (g : FieldRef) : (s.drawnN n).fbit g = s.fbit g := rfl
@[simp] theorem State.mput_rd (a : Nat) (b : Byte) (at_ : Nat) : (s.mput a b).rd at_ = s.rd at_ := rfl
@[simp] theorem State.mput_fget (a : Nat) (b : Byte) (g : FieldRef) : (s.mput a b).fget g = s.fget g := rfl
@[simp] theorem State.mput_fbit (a : Nat) (b : Byte) (g : FieldRef) : (s.mput a b).fbit g = s.fbit g := rfl
@[simp] theorem State.mwrite_rd (a : Nat) (l : List Byte) (at_ : Nat) : (s.mwrite a l).rd at_ = s.rd at_ := rfl
@[simp] theorem State.mwrite_fget (a : Nat) (l : List Byte) (g : FieldRef) : (s.mwrite a l).fget g = s.fget g := rfl
@[simp] theorem State.mwrite_fbit (a : Nat) (l : List Byte) (g : FieldRef) : (s.mwrite a l).fbit g = s.fbit g := rfl
@[simp] theorem State.mnatPut_rd (a n v : Nat) (at_ : Nat) : (s.mnatPut a n v).rd at_ = s.rd at_ := rfl
@[simp] theorem State.mnatPut_fget (a n v : Nat) (g : FieldRef) : (s.mnatPut a n v).fget g = s.fget g := rfl
@[simp] theorem State.mnatPut_fbit (a n v : Nat) (g : FieldRef) : (s.mnatPut a n v).fbit g = s.fbit g := rfl
@[simp] theorem State.mzero_rd (a n : Nat) (at_ : Nat) : (s.mzero a n).rd at_ = s.rd at_ := rfl
@[simp] theorem State.mzero_fget (a n : Nat) (g : FieldRef) : (s.mzero a n).fget g = s.fget g := rfl
@[simp] theorem State.mzero_fbit (a n : Nat) (g : FieldRef) : (s.mzero a n).fbit g = s.fbit g := rfl
@[simp] theorem State.mopenSpan_rd (a n : Nat) (p : Span) (at_ : Nat) : (s.mopenSpan a n p).rd at_ = s.rd at_ := rfl
@[simp] theorem State.mopenSpan_fget (a n : Nat) (p : Span) (g : FieldRef) : (s.mopenSpan a n p).fget g = s.fget g := rfl
@[simp] theorem State.mopenSpan_fbit (a n : Nat) (p : Span) (g : FieldRef) : (s.mopenSpan a n p).fbit g = s.fbit g := rfl
@[simp] theorem State.mopen_rd (a n : Nat) (at_ : Nat) : (s.mopen a n).rd at_ = s.rd at_ := rfl
@[simp] theorem State.mopen_fget (a n : Nat) (g : FieldRef) : (s.mopen a n).fget g = s.fget g := rfl
@[simp] theorem State.mopen_fbit (a n : Nat) (g : FieldRef) : (s.mopen a n).fbit g = s.fbit g := rfl
@[simp] theorem State.onAon_rd (f : Aon → Aon) (at_ : Nat) : (s.onAon f).rd at_ = s.rd at_ := rfl
@[simp] theorem State.onAon_fget (f : Aon → Aon) (g : FieldRef) : (s.onAon f).fget g = s.fget g := rfl
@[simp] theorem State.onAon_fbit (f : Aon → Aon) (g : FieldRef) : (s.onAon f).fbit g = s.fbit g := rfl
@[simp] theorem State.onStore_rd (f : Settings → Settings) (at_ : Nat) : (s.onStore f).rd at_ = s.rd at_ := rfl
@[simp] theorem State.onStore_fget (f : Settings → Settings) (g : FieldRef) : (s.onStore f).fget g = s.fget g := rfl
@[simp] theorem State.onStore_fbit (f : Settings → Settings) (g : FieldRef) : (s.onStore f).fbit g = s.fbit g := rfl
@[simp] theorem State.onTrust_rd (f : Trust → Trust) (at_ : Nat) : (s.onTrust f).rd at_ = s.rd at_ := rfl
@[simp] theorem State.onTrust_fget (f : Trust → Trust) (g : FieldRef) : (s.onTrust f).fget g = s.fget g := rfl
@[simp] theorem State.onTrust_fbit (f : Trust → Trust) (g : FieldRef) : (s.onTrust f).fbit g = s.fbit g := rfl
@[simp] theorem State.onChr_rd (f : Chrysalis → Chrysalis) (at_ : Nat) : (s.onChr f).rd at_ = s.rd at_ := rfl
@[simp] theorem State.onChr_fget (f : Chrysalis → Chrysalis) (g : FieldRef) : (s.onChr f).fget g = s.fget g := rfl
@[simp] theorem State.onChr_fbit (f : Chrysalis → Chrysalis) (g : FieldRef) : (s.onChr f).fbit g = s.fbit g := rfl
@[simp] theorem State.onTb_rd (f : TimeBase → TimeBase) (at_ : Nat) : (s.onTb f).rd at_ = s.rd at_ := rfl
@[simp] theorem State.onTb_fget (f : TimeBase → TimeBase) (g : FieldRef) : (s.onTb f).fget g = s.fget g := rfl
@[simp] theorem State.onTb_fbit (f : TimeBase → TimeBase) (g : FieldRef) : (s.onTb f).fbit g = s.fbit g := rfl
@[simp] theorem State.setTimer_rd (k : Nat) (t : Timer) (at_ : Nat) : (s.setTimer k t).rd at_ = s.rd at_ := rfl
@[simp] theorem State.setTimer_fget (k : Nat) (t : Timer) (g : FieldRef) : (s.setTimer k t).fget g = s.fget g := rfl
@[simp] theorem State.setTimer_fbit (k : Nat) (t : Timer) (g : FieldRef) : (s.setTimer k t).fbit g = s.fbit g := rfl
@[simp] theorem State.setPin_rd (k : Nat) (t : PinSt) (at_ : Nat) : (s.setPin k t).rd at_ = s.rd at_ := rfl
@[simp] theorem State.setPin_fget (k : Nat) (t : PinSt) (g : FieldRef) : (s.setPin k t).fget g = s.fget g := rfl
@[simp] theorem State.setPin_fbit (k : Nat) (t : PinSt) (g : FieldRef) : (s.setPin k t).fbit g = s.fbit g := rfl
@[simp] theorem State.setPair_pending (o : Nat) (v : Option Word) : (s.setPair o v).pending = s.pending := rfl
@[simp] theorem State.setPair_csr (o : Nat) (v : Option Word) : (s.setPair o v).csr = s.csr := rfl
@[simp] theorem State.setPair_mem (o : Nat) (v : Option Word) : (s.setPair o v).mem = s.mem := rfl
@[simp] theorem State.setPair_bad (o : Nat) (v : Option Word) : (s.setPair o v).bad = s.bad := rfl
@[simp] theorem State.setPair_time (o : Nat) (v : Option Word) : (s.setPair o v).time = s.time := rfl
@[simp] theorem State.setPair_counter (o : Nat) (v : Option Word) : (s.setPair o v).counter = s.counter := rfl
@[simp] theorem State.setPair_free (o : Nat) (v : Option Word) : (s.setPair o v).free = s.free := rfl
@[simp] theorem State.setPair_sent (o : Nat) (v : Option Word) : (s.setPair o v).sent = s.sent := rfl
@[simp] theorem State.setPair_aon (o : Nat) (v : Option Word) : (s.setPair o v).aon = s.aon := rfl
@[simp] theorem State.setPair_store (o : Nat) (v : Option Word) : (s.setPair o v).store = s.store := rfl
@[simp] theorem State.setPair_trust (o : Nat) (v : Option Word) : (s.setPair o v).trust = s.trust := rfl
@[simp] theorem State.setPair_chr (o : Nat) (v : Option Word) : (s.setPair o v).chr = s.chr := rfl
@[simp] theorem State.setPair_streams (o : Nat) (v : Option Word) : (s.setPair o v).streams = s.streams := rfl
@[simp] theorem State.setPair_cores (o : Nat) (v : Option Word) : (s.setPair o v).cores = s.cores := rfl
@[simp] theorem State.setPair_links (o : Nat) (v : Option Word) : (s.setPair o v).links = s.links := rfl
@[simp] theorem State.setPair_tiles (o : Nat) (v : Option Word) : (s.setPair o v).tiles = s.tiles := rfl
@[simp] theorem State.setPair_seqs (o : Nat) (v : Option Word) : (s.setPair o v).seqs = s.seqs := rfl
@[simp] theorem State.setPair_cvus (o : Nat) (v : Option Word) : (s.setPair o v).cvus = s.cvus := rfl
@[simp] theorem State.setPair_owners (o : Nat) (v : Option Word) : (s.setPair o v).owners = s.owners := rfl
@[simp] theorem State.setPair_resends (o : Nat) (v : Option Word) : (s.setPair o v).resends = s.resends := rfl
@[simp] theorem State.setPair_toks (o : Nat) (v : Option Word) : (s.setPair o v).toks = s.toks := rfl
@[simp] theorem State.setPair_dmas (o : Nat) (v : Option Word) : (s.setPair o v).dmas = s.dmas := rfl
@[simp] theorem State.setPair_ddrs (o : Nat) (v : Option Word) : (s.setPair o v).ddrs = s.ddrs := rfl
@[simp] theorem State.setPair_busy (o : Nat) (v : Option Word) : (s.setPair o v).busy = s.busy := rfl
@[simp] theorem State.setPair_again (o : Nat) (v : Option Word) : (s.setPair o v).again = s.again := rfl
@[simp] theorem State.setPair_bc (o : Nat) (v : Option Word) : (s.setPair o v).bc = s.bc := rfl
@[simp] theorem State.setPair_bcReports (o : Nat) (v : Option Word) : (s.setPair o v).bcReports = s.bcReports := rfl
@[simp] theorem State.setPair_ifaces (o : Nat) (v : Option Word) : (s.setPair o v).ifaces = s.ifaces := rfl
@[simp] theorem State.setPair_ctrls (o : Nat) (v : Option Word) : (s.setPair o v).ctrls = s.ctrls := rfl
@[simp] theorem State.setPair_ctrlWait (o : Nat) (v : Option Word) : (s.setPair o v).ctrlWait = s.ctrlWait := rfl
@[simp] theorem State.setPair_rd (o : Nat) (v : Option Word) (at_ : Nat) : (s.setPair o v).rd at_ = s.rd at_ := rfl
@[simp] theorem State.setPair_fget (o : Nat) (v : Option Word) (g : FieldRef) : (s.setPair o v).fget g = s.fget g := rfl
@[simp] theorem State.setPair_fbit (o : Nat) (v : Option Word) (g : FieldRef) : (s.setPair o v).fbit g = s.fbit g := rfl
@[simp] theorem State.onStream_rd (i : Nat) (f : Stream → Stream) (at_ : Nat) : (s.onStream i f).rd at_ = s.rd at_ := rfl
@[simp] theorem State.onStream_fget (i : Nat) (f : Stream → Stream) (g : FieldRef) : (s.onStream i f).fget g = s.fget g := rfl
@[simp] theorem State.onStream_fbit (i : Nat) (f : Stream → Stream) (g : FieldRef) : (s.onStream i f).fbit g = s.fbit g := rfl
@[simp] theorem State.onCore_rd (i : Nat) (f : CoreSt → CoreSt) (at_ : Nat) : (s.onCore i f).rd at_ = s.rd at_ := rfl
@[simp] theorem State.onCore_fget (i : Nat) (f : CoreSt → CoreSt) (g : FieldRef) : (s.onCore i f).fget g = s.fget g := rfl
@[simp] theorem State.onCore_fbit (i : Nat) (f : CoreSt → CoreSt) (g : FieldRef) : (s.onCore i f).fbit g = s.fbit g := rfl
@[simp] theorem State.onLink_rd (i : Nat) (f : LinkSt → LinkSt) (at_ : Nat) : (s.onLink i f).rd at_ = s.rd at_ := rfl
@[simp] theorem State.onLink_fget (i : Nat) (f : LinkSt → LinkSt) (g : FieldRef) : (s.onLink i f).fget g = s.fget g := rfl
@[simp] theorem State.onLink_fbit (i : Nat) (f : LinkSt → LinkSt) (g : FieldRef) : (s.onLink i f).fbit g = s.fbit g := rfl
@[simp] theorem State.onTile_rd (i : Nat) (f : TileSt → TileSt) (at_ : Nat) : (s.onTile i f).rd at_ = s.rd at_ := rfl
@[simp] theorem State.onTile_fget (i : Nat) (f : TileSt → TileSt) (g : FieldRef) : (s.onTile i f).fget g = s.fget g := rfl
@[simp] theorem State.onTile_fbit (i : Nat) (f : TileSt → TileSt) (g : FieldRef) : (s.onTile i f).fbit g = s.fbit g := rfl
@[simp] theorem State.setSeq_rd (i : Nat) (v : SeqSt) (at_ : Nat) : (s.setSeq i v).rd at_ = s.rd at_ := rfl
@[simp] theorem State.setSeq_fget (i : Nat) (v : SeqSt) (g : FieldRef) : (s.setSeq i v).fget g = s.fget g := rfl
@[simp] theorem State.setSeq_fbit (i : Nat) (v : SeqSt) (g : FieldRef) : (s.setSeq i v).fbit g = s.fbit g := rfl
@[simp] theorem State.setCvu_rd (i : Nat) (v : Cvu) (at_ : Nat) : (s.setCvu i v).rd at_ = s.rd at_ := rfl
@[simp] theorem State.setCvu_fget (i : Nat) (v : Cvu) (g : FieldRef) : (s.setCvu i v).fget g = s.fget g := rfl
@[simp] theorem State.setCvu_fbit (i : Nat) (v : Cvu) (g : FieldRef) : (s.setCvu i v).fbit g = s.fbit g := rfl
@[simp] theorem State.onOwner_rd (i : Nat) (f : OwnerSt → OwnerSt) (at_ : Nat) : (s.onOwner i f).rd at_ = s.rd at_ := rfl
@[simp] theorem State.onOwner_fget (i : Nat) (f : OwnerSt → OwnerSt) (g : FieldRef) : (s.onOwner i f).fget g = s.fget g := rfl
@[simp] theorem State.onOwner_fbit (i : Nat) (f : OwnerSt → OwnerSt) (g : FieldRef) : (s.onOwner i f).fbit g = s.fbit g := rfl
@[simp] theorem State.onDma_rd (i : Nat) (f : DmaSt → DmaSt) (at_ : Nat) : (s.onDma i f).rd at_ = s.rd at_ := rfl
@[simp] theorem State.onDma_fget (i : Nat) (f : DmaSt → DmaSt) (g : FieldRef) : (s.onDma i f).fget g = s.fget g := rfl
@[simp] theorem State.onDma_fbit (i : Nat) (f : DmaSt → DmaSt) (g : FieldRef) : (s.onDma i f).fbit g = s.fbit g := rfl
@[simp] theorem State.onDdr_rd (i : Nat) (f : DdrSt → DdrSt) (at_ : Nat) : (s.onDdr i f).rd at_ = s.rd at_ := rfl
@[simp] theorem State.onDdr_fget (i : Nat) (f : DdrSt → DdrSt) (g : FieldRef) : (s.onDdr i f).fget g = s.fget g := rfl
@[simp] theorem State.onDdr_fbit (i : Nat) (f : DdrSt → DdrSt) (g : FieldRef) : (s.onDdr i f).fbit g = s.fbit g := rfl
@[simp] theorem State.onTok_rd (i : Nat) (f : TokSt → TokSt) (at_ : Nat) : (s.onTok i f).rd at_ = s.rd at_ := rfl
@[simp] theorem State.onTok_fget (i : Nat) (f : TokSt → TokSt) (g : FieldRef) : (s.onTok i f).fget g = s.fget g := rfl
@[simp] theorem State.onTok_fbit (i : Nat) (f : TokSt → TokSt) (g : FieldRef) : (s.onTok i f).fbit g = s.fbit g := rfl
@[simp] theorem State.busyAdd_rd (x : DdrReq) (at_ : Nat) : (s.busyAdd x).rd at_ = s.rd at_ := rfl
@[simp] theorem State.busyAdd_fget (x : DdrReq) (g : FieldRef) : (s.busyAdd x).fget g = s.fget g := rfl
@[simp] theorem State.busyAdd_fbit (x : DdrReq) (g : FieldRef) : (s.busyAdd x).fbit g = s.fbit g := rfl
@[simp] theorem State.busyTake_rd (x : Nat × DdrReq) (at_ : Nat) : (s.busyTake x).rd at_ = s.rd at_ := rfl
@[simp] theorem State.busyTake_fget (x : Nat × DdrReq) (g : FieldRef) : (s.busyTake x).fget g = s.fget g := rfl
@[simp] theorem State.busyTake_fbit (x : Nat × DdrReq) (g : FieldRef) : (s.busyTake x).fbit g = s.fbit g := rfl
@[simp] theorem State.againAdd_rd (x : Emit) (at_ : Nat) : (s.againAdd x).rd at_ = s.rd at_ := rfl
@[simp] theorem State.againAdd_fget (x : Emit) (g : FieldRef) : (s.againAdd x).fget g = s.fget g := rfl
@[simp] theorem State.againAdd_fbit (x : Emit) (g : FieldRef) : (s.againAdd x).fbit g = s.fbit g := rfl
@[simp] theorem State.againTake_rd (x : Nat × Emit) (at_ : Nat) : (s.againTake x).rd at_ = s.rd at_ := rfl
@[simp] theorem State.againTake_fget (x : Nat × Emit) (g : FieldRef) : (s.againTake x).fget g = s.fget g := rfl
@[simp] theorem State.againTake_fbit (x : Nat × Emit) (g : FieldRef) : (s.againTake x).fbit g = s.fbit g := rfl
@[simp] theorem State.resendAdd_rd (x : SyncOp) (at_ : Nat) : (s.resendAdd x).rd at_ = s.rd at_ := rfl
@[simp] theorem State.resendAdd_fget (x : SyncOp) (g : FieldRef) : (s.resendAdd x).fget g = s.fget g := rfl
@[simp] theorem State.resendAdd_fbit (x : SyncOp) (g : FieldRef) : (s.resendAdd x).fbit g = s.fbit g := rfl
@[simp] theorem State.resendTake_rd (x : SyncOp) (at_ : Nat) : (s.resendTake x).rd at_ = s.rd at_ := rfl
@[simp] theorem State.resendTake_fget (x : SyncOp) (g : FieldRef) : (s.resendTake x).fget g = s.fget g := rfl
@[simp] theorem State.resendTake_fbit (x : SyncOp) (g : FieldRef) : (s.resendTake x).fbit g = s.fbit g := rfl
@[simp] theorem State.onIface_pending (c : Nat) (f : Iface → Iface) : (s.onIface c f).pending = s.pending := rfl
@[simp] theorem State.onIface_csr (c : Nat) (f : Iface → Iface) : (s.onIface c f).csr = s.csr := rfl
@[simp] theorem State.onIface_mem (c : Nat) (f : Iface → Iface) : (s.onIface c f).mem = s.mem := rfl
@[simp] theorem State.onIface_bad (c : Nat) (f : Iface → Iface) : (s.onIface c f).bad = s.bad := rfl
@[simp] theorem State.onIface_time (c : Nat) (f : Iface → Iface) : (s.onIface c f).time = s.time := rfl
@[simp] theorem State.onIface_counter (c : Nat) (f : Iface → Iface) : (s.onIface c f).counter = s.counter := rfl
@[simp] theorem State.onIface_free (c : Nat) (f : Iface → Iface) : (s.onIface c f).free = s.free := rfl
@[simp] theorem State.onIface_sent (c : Nat) (f : Iface → Iface) : (s.onIface c f).sent = s.sent := rfl
@[simp] theorem State.onIface_aon (c : Nat) (f : Iface → Iface) : (s.onIface c f).aon = s.aon := rfl
@[simp] theorem State.onIface_store (c : Nat) (f : Iface → Iface) : (s.onIface c f).store = s.store := rfl
@[simp] theorem State.onIface_trust (c : Nat) (f : Iface → Iface) : (s.onIface c f).trust = s.trust := rfl
@[simp] theorem State.onIface_tb (c : Nat) (f : Iface → Iface) : (s.onIface c f).tb = s.tb := rfl
@[simp] theorem State.onIface_chr (c : Nat) (f : Iface → Iface) : (s.onIface c f).chr = s.chr := rfl
@[simp] theorem State.onIface_streams (c : Nat) (f : Iface → Iface) : (s.onIface c f).streams = s.streams := rfl
@[simp] theorem State.onIface_cores (c : Nat) (f : Iface → Iface) : (s.onIface c f).cores = s.cores := rfl
@[simp] theorem State.onIface_links (c : Nat) (f : Iface → Iface) : (s.onIface c f).links = s.links := rfl
@[simp] theorem State.onIface_tiles (c : Nat) (f : Iface → Iface) : (s.onIface c f).tiles = s.tiles := rfl
@[simp] theorem State.onIface_seqs (c : Nat) (f : Iface → Iface) : (s.onIface c f).seqs = s.seqs := rfl
@[simp] theorem State.onIface_cvus (c : Nat) (f : Iface → Iface) : (s.onIface c f).cvus = s.cvus := rfl
@[simp] theorem State.onIface_owners (c : Nat) (f : Iface → Iface) : (s.onIface c f).owners = s.owners := rfl
@[simp] theorem State.onIface_resends (c : Nat) (f : Iface → Iface) : (s.onIface c f).resends = s.resends := rfl
@[simp] theorem State.onIface_ctrls (c : Nat) (f : Iface → Iface) : (s.onIface c f).ctrls = s.ctrls := rfl
@[simp] theorem State.onIface_ctrlWait (c : Nat) (f : Iface → Iface) : (s.onIface c f).ctrlWait = s.ctrlWait := rfl
@[simp] theorem State.onIface_toks (c : Nat) (f : Iface → Iface) : (s.onIface c f).toks = s.toks := rfl
@[simp] theorem State.onIface_dmas (c : Nat) (f : Iface → Iface) : (s.onIface c f).dmas = s.dmas := rfl
@[simp] theorem State.onIface_ddrs (c : Nat) (f : Iface → Iface) : (s.onIface c f).ddrs = s.ddrs := rfl
@[simp] theorem State.onIface_busy (c : Nat) (f : Iface → Iface) : (s.onIface c f).busy = s.busy := rfl
@[simp] theorem State.onIface_again (c : Nat) (f : Iface → Iface) : (s.onIface c f).again = s.again := rfl
@[simp] theorem State.onIface_bc (c : Nat) (f : Iface → Iface) : (s.onIface c f).bc = s.bc := rfl
@[simp] theorem State.onIface_bcReports (c : Nat) (f : Iface → Iface) : (s.onIface c f).bcReports = s.bcReports := rfl
@[simp] theorem State.onCtrls_pending (f : List CtrlReq → List CtrlReq) : (s.onCtrls f).pending = s.pending := rfl
@[simp] theorem State.onCtrls_csr (f : List CtrlReq → List CtrlReq) : (s.onCtrls f).csr = s.csr := rfl
@[simp] theorem State.onCtrls_mem (f : List CtrlReq → List CtrlReq) : (s.onCtrls f).mem = s.mem := rfl
@[simp] theorem State.onCtrls_bad (f : List CtrlReq → List CtrlReq) : (s.onCtrls f).bad = s.bad := rfl
@[simp] theorem State.onCtrls_time (f : List CtrlReq → List CtrlReq) : (s.onCtrls f).time = s.time := rfl
@[simp] theorem State.onCtrls_counter (f : List CtrlReq → List CtrlReq) : (s.onCtrls f).counter = s.counter := rfl
@[simp] theorem State.onCtrls_free (f : List CtrlReq → List CtrlReq) : (s.onCtrls f).free = s.free := rfl
@[simp] theorem State.onCtrls_sent (f : List CtrlReq → List CtrlReq) : (s.onCtrls f).sent = s.sent := rfl
@[simp] theorem State.onCtrls_aon (f : List CtrlReq → List CtrlReq) : (s.onCtrls f).aon = s.aon := rfl
@[simp] theorem State.onCtrls_store (f : List CtrlReq → List CtrlReq) : (s.onCtrls f).store = s.store := rfl
@[simp] theorem State.onCtrls_trust (f : List CtrlReq → List CtrlReq) : (s.onCtrls f).trust = s.trust := rfl
@[simp] theorem State.onCtrls_tb (f : List CtrlReq → List CtrlReq) : (s.onCtrls f).tb = s.tb := rfl
@[simp] theorem State.onCtrls_chr (f : List CtrlReq → List CtrlReq) : (s.onCtrls f).chr = s.chr := rfl
@[simp] theorem State.onCtrls_streams (f : List CtrlReq → List CtrlReq) : (s.onCtrls f).streams = s.streams := rfl
@[simp] theorem State.onCtrls_cores (f : List CtrlReq → List CtrlReq) : (s.onCtrls f).cores = s.cores := rfl
@[simp] theorem State.onCtrls_links (f : List CtrlReq → List CtrlReq) : (s.onCtrls f).links = s.links := rfl
@[simp] theorem State.onCtrls_tiles (f : List CtrlReq → List CtrlReq) : (s.onCtrls f).tiles = s.tiles := rfl
@[simp] theorem State.onCtrls_seqs (f : List CtrlReq → List CtrlReq) : (s.onCtrls f).seqs = s.seqs := rfl
@[simp] theorem State.onCtrls_cvus (f : List CtrlReq → List CtrlReq) : (s.onCtrls f).cvus = s.cvus := rfl
@[simp] theorem State.onCtrls_owners (f : List CtrlReq → List CtrlReq) : (s.onCtrls f).owners = s.owners := rfl
@[simp] theorem State.onCtrls_resends (f : List CtrlReq → List CtrlReq) : (s.onCtrls f).resends = s.resends := rfl
@[simp] theorem State.onCtrls_ifaces (f : List CtrlReq → List CtrlReq) : (s.onCtrls f).ifaces = s.ifaces := rfl
@[simp] theorem State.onCtrls_ctrlWait (f : List CtrlReq → List CtrlReq) : (s.onCtrls f).ctrlWait = s.ctrlWait := rfl
@[simp] theorem State.onCtrls_toks (f : List CtrlReq → List CtrlReq) : (s.onCtrls f).toks = s.toks := rfl
@[simp] theorem State.onCtrls_dmas (f : List CtrlReq → List CtrlReq) : (s.onCtrls f).dmas = s.dmas := rfl
@[simp] theorem State.onCtrls_ddrs (f : List CtrlReq → List CtrlReq) : (s.onCtrls f).ddrs = s.ddrs := rfl
@[simp] theorem State.onCtrls_busy (f : List CtrlReq → List CtrlReq) : (s.onCtrls f).busy = s.busy := rfl
@[simp] theorem State.onCtrls_again (f : List CtrlReq → List CtrlReq) : (s.onCtrls f).again = s.again := rfl
@[simp] theorem State.onCtrls_bc (f : List CtrlReq → List CtrlReq) : (s.onCtrls f).bc = s.bc := rfl
@[simp] theorem State.onCtrls_bcReports (f : List CtrlReq → List CtrlReq) : (s.onCtrls f).bcReports = s.bcReports := rfl
@[simp] theorem State.onCtrlWait_pending (f : List (CtrlReq × Emit) → List (CtrlReq × Emit)) : (s.onCtrlWait f).pending = s.pending := rfl
@[simp] theorem State.onCtrlWait_csr (f : List (CtrlReq × Emit) → List (CtrlReq × Emit)) : (s.onCtrlWait f).csr = s.csr := rfl
@[simp] theorem State.onCtrlWait_mem (f : List (CtrlReq × Emit) → List (CtrlReq × Emit)) : (s.onCtrlWait f).mem = s.mem := rfl
@[simp] theorem State.onCtrlWait_bad (f : List (CtrlReq × Emit) → List (CtrlReq × Emit)) : (s.onCtrlWait f).bad = s.bad := rfl
@[simp] theorem State.onCtrlWait_time (f : List (CtrlReq × Emit) → List (CtrlReq × Emit)) : (s.onCtrlWait f).time = s.time := rfl
@[simp] theorem State.onCtrlWait_counter (f : List (CtrlReq × Emit) → List (CtrlReq × Emit)) : (s.onCtrlWait f).counter = s.counter := rfl
@[simp] theorem State.onCtrlWait_free (f : List (CtrlReq × Emit) → List (CtrlReq × Emit)) : (s.onCtrlWait f).free = s.free := rfl
@[simp] theorem State.onCtrlWait_sent (f : List (CtrlReq × Emit) → List (CtrlReq × Emit)) : (s.onCtrlWait f).sent = s.sent := rfl
@[simp] theorem State.onCtrlWait_aon (f : List (CtrlReq × Emit) → List (CtrlReq × Emit)) : (s.onCtrlWait f).aon = s.aon := rfl
@[simp] theorem State.onCtrlWait_store (f : List (CtrlReq × Emit) → List (CtrlReq × Emit)) : (s.onCtrlWait f).store = s.store := rfl
@[simp] theorem State.onCtrlWait_trust (f : List (CtrlReq × Emit) → List (CtrlReq × Emit)) : (s.onCtrlWait f).trust = s.trust := rfl
@[simp] theorem State.onCtrlWait_tb (f : List (CtrlReq × Emit) → List (CtrlReq × Emit)) : (s.onCtrlWait f).tb = s.tb := rfl
@[simp] theorem State.onCtrlWait_chr (f : List (CtrlReq × Emit) → List (CtrlReq × Emit)) : (s.onCtrlWait f).chr = s.chr := rfl
@[simp] theorem State.onCtrlWait_streams (f : List (CtrlReq × Emit) → List (CtrlReq × Emit)) : (s.onCtrlWait f).streams = s.streams := rfl
@[simp] theorem State.onCtrlWait_cores (f : List (CtrlReq × Emit) → List (CtrlReq × Emit)) : (s.onCtrlWait f).cores = s.cores := rfl
@[simp] theorem State.onCtrlWait_links (f : List (CtrlReq × Emit) → List (CtrlReq × Emit)) : (s.onCtrlWait f).links = s.links := rfl
@[simp] theorem State.onCtrlWait_tiles (f : List (CtrlReq × Emit) → List (CtrlReq × Emit)) : (s.onCtrlWait f).tiles = s.tiles := rfl
@[simp] theorem State.onCtrlWait_seqs (f : List (CtrlReq × Emit) → List (CtrlReq × Emit)) : (s.onCtrlWait f).seqs = s.seqs := rfl
@[simp] theorem State.onCtrlWait_cvus (f : List (CtrlReq × Emit) → List (CtrlReq × Emit)) : (s.onCtrlWait f).cvus = s.cvus := rfl
@[simp] theorem State.onCtrlWait_owners (f : List (CtrlReq × Emit) → List (CtrlReq × Emit)) : (s.onCtrlWait f).owners = s.owners := rfl
@[simp] theorem State.onCtrlWait_resends (f : List (CtrlReq × Emit) → List (CtrlReq × Emit)) : (s.onCtrlWait f).resends = s.resends := rfl
@[simp] theorem State.onCtrlWait_ifaces (f : List (CtrlReq × Emit) → List (CtrlReq × Emit)) : (s.onCtrlWait f).ifaces = s.ifaces := rfl
@[simp] theorem State.onCtrlWait_ctrls (f : List (CtrlReq × Emit) → List (CtrlReq × Emit)) : (s.onCtrlWait f).ctrls = s.ctrls := rfl
@[simp] theorem State.onCtrlWait_toks (f : List (CtrlReq × Emit) → List (CtrlReq × Emit)) : (s.onCtrlWait f).toks = s.toks := rfl
@[simp] theorem State.onCtrlWait_dmas (f : List (CtrlReq × Emit) → List (CtrlReq × Emit)) : (s.onCtrlWait f).dmas = s.dmas := rfl
@[simp] theorem State.onCtrlWait_ddrs (f : List (CtrlReq × Emit) → List (CtrlReq × Emit)) : (s.onCtrlWait f).ddrs = s.ddrs := rfl
@[simp] theorem State.onCtrlWait_busy (f : List (CtrlReq × Emit) → List (CtrlReq × Emit)) : (s.onCtrlWait f).busy = s.busy := rfl
@[simp] theorem State.onCtrlWait_again (f : List (CtrlReq × Emit) → List (CtrlReq × Emit)) : (s.onCtrlWait f).again = s.again := rfl
@[simp] theorem State.onCtrlWait_bc (f : List (CtrlReq × Emit) → List (CtrlReq × Emit)) : (s.onCtrlWait f).bc = s.bc := rfl
@[simp] theorem State.onCtrlWait_bcReports (f : List (CtrlReq × Emit) → List (CtrlReq × Emit)) : (s.onCtrlWait f).bcReports = s.bcReports := rfl
@[simp] theorem State.onCtrls_ctrls (f : List CtrlReq → List CtrlReq) : (s.onCtrls f).ctrls = f s.ctrls := rfl
@[simp] theorem State.onCtrlWait_ctrlWait (f : List (CtrlReq × Emit) → List (CtrlReq × Emit)) : (s.onCtrlWait f).ctrlWait = f s.ctrlWait := rfl

end Sys2Proof.Machine
end

