-- ==== Sys2Proof/Laws/Regs.lean ====
section
/-! SUPPORT. Reads of registers, fields and units after the named updates, in states whose tables are canonical. -/

namespace Sys2Proof.Machine

/-! ### Fields of a word -/

theorem field_put (n P K v : Nat) (hP : 0 < P) :
    (n - n / P % K * P + v % K * P) / P % K = v % K ∧
    n - n / P % K * P + v % K * P = n / P / K * (K * P) + v % K * P + n % P := by
  have e1 : n = n / P * P + n % P := by rw [Nat.mul_comm]; exact (Nat.div_add_mod n P).symm
  have e2 : n / P = n / P / K * K + n / P % K := by rw [Nat.mul_comm]; exact (Nat.div_add_mod (n / P) K).symm
  have e3 : n = n / P / K * (K * P) + n / P % K * P + n % P := by
    calc n = n / P * P + n % P := e1
      _ = (n / P / K * K + n / P % K) * P + n % P := by rw [← e2]
      _ = _ := by rw [Nat.add_mul, Nat.mul_assoc]
  have e4 : n - n / P % K * P + v % K * P = n / P / K * (K * P) + v % K * P + n % P := by omega
  refine ⟨?_, e4⟩
  rw [e4]
  have e5 : n / P / K * (K * P) + v % K * P + n % P = P * (n / P / K * K + v % K) + n % P := by
    rw [Nat.mul_add, ← Nat.mul_assoc, Nat.mul_comm P, Nat.mul_comm P (v % K)]
  rw [e5, Nat.mul_add_div hP, Nat.div_eq_of_lt (Nat.mod_lt _ hP), Nat.add_zero, Nat.add_comm, Nat.add_mul_mod_self_right, Nat.mod_mod]

theorem wordSet_toNat (w : Word) {hi lo : Nat} (v : Nat) (h : hi < 32) (h' : lo ≤ hi) :
    (wordSet w hi lo v).toNat = w.toNat - bits w.toNat hi lo * 2 ^ lo + v % 2 ^ (hi + 1 - lo) * 2 ^ lo := by
  have hw := w.isLt
  simp only [wordSet, BitVec.toNat_ofNat, Nat.shiftLeft_eq]
  apply Nat.mod_eq_of_lt
  have p := (field_put w.toNat (2 ^ lo) (2 ^ (hi + 1 - lo)) v (Nat.two_pow_pos _)).2
  simp only [bits, Nat.shiftRight_eq_div_pow]
  rw [p]
  have k : 2 ^ (hi + 1 - lo) * 2 ^ lo = 2 ^ (hi + 1) := by rw [← Nat.pow_add]; congr 1; omega
  rw [k, Nat.div_div_eq_div_mul, Nat.mul_comm (2 ^ lo), k]
  have a1 : v % 2 ^ (hi + 1 - lo) * 2 ^ lo + w.toNat % 2 ^ lo < 2 ^ (hi + 1) := by
    have b1 : v % 2 ^ (hi + 1 - lo) < 2 ^ (hi + 1 - lo) := Nat.mod_lt _ (Nat.two_pow_pos _)
    have b2 : w.toNat % 2 ^ lo < 2 ^ lo := Nat.mod_lt _ (Nat.two_pow_pos _)
    calc v % 2 ^ (hi + 1 - lo) * 2 ^ lo + w.toNat % 2 ^ lo < v % 2 ^ (hi + 1 - lo) * 2 ^ lo + 2 ^ lo := by omega
      _ = (v % 2 ^ (hi + 1 - lo) + 1) * 2 ^ lo := by rw [Nat.add_mul, Nat.one_mul]
      _ ≤ 2 ^ (hi + 1 - lo) * 2 ^ lo := Nat.mul_le_mul_right _ b1
      _ = 2 ^ (hi + 1) := k
  have e : 2 ^ 32 = 2 ^ (31 - hi) * 2 ^ (hi + 1) := by rw [← Nat.pow_add]; congr 1; omega
  have a2 : w.toNat / 2 ^ (hi + 1) < 2 ^ (31 - hi) := by
    rw [Nat.div_lt_iff_lt_mul (Nat.two_pow_pos _), ← e]; exact hw
  rw [e]
  calc w.toNat / 2 ^ (hi + 1) * 2 ^ (hi + 1) + v % 2 ^ (hi + 1 - lo) * 2 ^ lo + w.toNat % 2 ^ lo
      < w.toNat / 2 ^ (hi + 1) * 2 ^ (hi + 1) + 2 ^ (hi + 1) := by omega
    _ = (w.toNat / 2 ^ (hi + 1) + 1) * 2 ^ (hi + 1) := by rw [Nat.add_mul, Nat.one_mul]
    _ ≤ 2 ^ (31 - hi) * 2 ^ (hi + 1) := Nat.mul_le_mul_right _ a2

/-- The field written reads what was written, cut to the field. -/
theorem wordGet_wordSet (w : Word) {hi lo : Nat} (v : Nat) (h : hi < 32) (h' : lo ≤ hi) :
    wordGet (wordSet w hi lo v) hi lo = v % 2 ^ (hi + 1 - lo) := by
  rw [wordGet, bits, wordSet_toNat w v h h', Nat.shiftRight_eq_div_pow]
  have p := (field_put w.toNat (2 ^ lo) (2 ^ (hi + 1 - lo)) v (Nat.two_pow_pos _)).1
  simpa only [bits, Nat.shiftRight_eq_div_pow] using p

/-- A field above the one written keeps its value. -/
theorem wordGet_wordSet_above (w : Word) {hi lo hi' lo' : Nat} (v : Nat) (h : hi < 32) (h' : lo ≤ hi) (a : hi < lo') :
    wordGet (wordSet w hi lo v) hi' lo' = wordGet w hi' lo' := by
  rw [wordGet, bits, wordSet_toNat w v h h', wordGet, bits, Nat.shiftRight_eq_div_pow, Nat.shiftRight_eq_div_pow]
  have p := (field_put w.toNat (2 ^ lo) (2 ^ (hi + 1 - lo)) v (Nat.two_pow_pos _)).2
  simp only [bits, Nat.shiftRight_eq_div_pow]
  rw [p]
  have k : 2 ^ (hi + 1 - lo) * 2 ^ lo = 2 ^ (hi + 1) := by rw [← Nat.pow_add]; congr 1; omega
  rw [k, Nat.div_div_eq_div_mul, Nat.mul_comm (2 ^ lo), k]
  have a1 : v % 2 ^ (hi + 1 - lo) * 2 ^ lo + w.toNat % 2 ^ lo < 2 ^ (hi + 1) := by
    have b1 : v % 2 ^ (hi + 1 - lo) < 2 ^ (hi + 1 - lo) := Nat.mod_lt _ (Nat.two_pow_pos _)
    have b2 : w.toNat % 2 ^ lo < 2 ^ lo := Nat.mod_lt _ (Nat.two_pow_pos _)
    calc v % 2 ^ (hi + 1 - lo) * 2 ^ lo + w.toNat % 2 ^ lo < v % 2 ^ (hi + 1 - lo) * 2 ^ lo + 2 ^ lo := by omega
      _ = (v % 2 ^ (hi + 1 - lo) + 1) * 2 ^ lo := by rw [Nat.add_mul, Nat.one_mul]
      _ ≤ 2 ^ (hi + 1 - lo) * 2 ^ lo := Nat.mul_le_mul_right _ b1
      _ = 2 ^ (hi + 1) := k
  have e : 2 ^ lo' = 2 ^ (hi + 1) * 2 ^ (lo' - (hi + 1)) := by rw [← Nat.pow_add]; congr 1; omega
  have g : (w.toNat / 2 ^ (hi + 1) * 2 ^ (hi + 1) + v % 2 ^ (hi + 1 - lo) * 2 ^ lo + w.toNat % 2 ^ lo) / 2 ^ (hi + 1) = w.toNat / 2 ^ (hi + 1) := by
    rw [Nat.add_assoc, Nat.mul_comm, Nat.mul_add_div (Nat.two_pow_pos _), Nat.div_eq_of_lt a1, Nat.add_zero]
  rw [e, ← Nat.div_div_eq_div_mul, g, Nat.div_div_eq_div_mul]

/-- A field below the one written keeps its value. -/
theorem wordGet_wordSet_below (w : Word) {hi lo hi' lo' : Nat} (v : Nat) (h : hi < 32) (h' : lo ≤ hi) (a : hi' < lo) (b : lo' ≤ hi') :
    wordGet (wordSet w hi lo v) hi' lo' = wordGet w hi' lo' := by
  rw [wordGet, bits, wordSet_toNat w v h h', wordGet, bits, Nat.shiftRight_eq_div_pow, Nat.shiftRight_eq_div_pow]
  have p := (field_put w.toNat (2 ^ lo) (2 ^ (hi + 1 - lo)) v (Nat.two_pow_pos _)).2
  simp only [bits, Nat.shiftRight_eq_div_pow]
  rw [p]
  have e1 : w.toNat / 2 ^ lo / 2 ^ (hi + 1 - lo) * (2 ^ (hi + 1 - lo) * 2 ^ lo) + v % 2 ^ (hi + 1 - lo) * 2 ^ lo + w.toNat % 2 ^ lo
      = 2 ^ lo * (w.toNat / 2 ^ lo / 2 ^ (hi + 1 - lo) * 2 ^ (hi + 1 - lo) + v % 2 ^ (hi + 1 - lo)) + w.toNat % 2 ^ lo := by
    rw [Nat.mul_add, ← Nat.mul_assoc, Nat.mul_comm (2 ^ lo), Nat.mul_comm (2 ^ lo) (v % _)]
  rw [e1]
  have e2 : 2 ^ lo = 2 ^ lo' * (2 ^ (hi' + 1 - lo') * 2 ^ (lo - (hi' + 1))) := by
    rw [← Nat.pow_add, ← Nat.pow_add]; congr 1; omega
  have cut (x m : Nat) (hm : m = w.toNat % 2 ^ lo) : (2 ^ lo * x + m) / 2 ^ lo' % 2 ^ (hi' + 1 - lo') = m / 2 ^ lo' % 2 ^ (hi' + 1 - lo') := by
    rw [e2, Nat.mul_assoc, Nat.mul_add_div (Nat.two_pow_pos _), Nat.mul_assoc, Nat.mul_add_mod]
  rw [cut _ _ rfl]
  conv => rhs; rw [← Nat.div_add_mod w.toNat (2 ^ lo)]
  rw [cut _ _ rfl]

/-! ### Registers -/

variable {s : State}

/-- A register read after it was written holds what was written. -/
theorem State.rd_wr_same (o : Nat) (v : Word) (h : tabWf regReset s.csr = true) : (s.wr o v).rd o = v := tabGet_put_same o v h

/-- A write leaves every other register alone. -/
theorem State.rd_wr_other {o p : Nat} (v : Word) (h : p ≠ o) : (s.wr o v).rd p = s.rd p := tabGet_put_other v h

/-- A field read after it was written holds what was written, cut to the field. -/
theorem State.fget_fset_same (f : FieldRef) (v : Nat) (h : tabWf regReset s.csr = true) (h1 : f.hi < 32) (h2 : f.lo ≤ f.hi) :
    (s.fset f v).fget f = v % 2 ^ (f.hi + 1 - f.lo) := by
  rw [State.fget, State.fset, State.rd_wr_same _ _ h, wordGet_wordSet _ _ h1 h2]

/-- A field of another register keeps its value. -/
theorem State.fget_fset_other {f g : FieldRef} (v : Nat) (h : g.off ≠ f.off) : (s.fset f v).fget g = s.fget g := by
  rw [State.fget, State.fset, State.rd_wr_other _ h, State.fget]

/-- Another field of the same register keeps its value. -/
theorem State.fget_fset_apart {f g : FieldRef} (v : Nat) (h : tabWf regReset s.csr = true) (h1 : f.hi < 32) (h2 : f.lo ≤ f.hi)
    (e : g.off = f.off) (a : f.hi < g.lo ∨ (g.hi < f.lo ∧ g.lo ≤ g.hi)) : (s.fset f v).fget g = s.fget g := by
  rw [State.fget, State.fset, e, State.rd_wr_same _ _ h, State.fget, e]
  rcases a with a | a
  · exact wordGet_wordSet_above _ _ h1 h2 a
  · exact wordGet_wordSet_below _ _ h1 h2 a.1 a.2

theorem State.rd_fset_other {f : FieldRef} {p : Nat} (v : Nat) (h : p ≠ f.off) : (s.fset f v).rd p = s.rd p := State.rd_wr_other _ h

/-! ### Memory -/

theorem State.mget_mput_same (a : Nat) (b : Byte) (h : s.mem.wf = true) : (s.mput a b).mget a = b := Memory.get_put_same a b h
theorem State.mget_mput_other {a c : Nat} (b : Byte) (h : c ≠ a) : (s.mput a b).mget c = s.mget c := Memory.get_put_other _ b h
theorem State.mget_mwrite_outside {a c : Nat} (l : List Byte) (h : c < a ∨ a + l.length ≤ c) : (s.mwrite a l).mget c = s.mget c :=
  Memory.get_write_outside _ l h
theorem State.mget_mwrite_inside {a i : Nat} (l : List Byte) (w : s.mem.wf = true) (h : i < l.length) : (s.mwrite a l).mget (a + i) = l[i] :=
  Memory.get_write_inside l w h

/-! ### Units -/

theorem State.stream_onStream_same (i : Nat) (f : Stream → Stream) (h : tabWf (fun _ => Stream.init) s.streams = true) :
    (s.onStream i f).stream i = f (s.stream i) := tabGet_put_same i _ h
theorem State.stream_onStream_other {i j : Nat} (f : Stream → Stream) (h : j ≠ i) : (s.onStream i f).stream j = s.stream j := tabGet_put_other _ h
theorem State.core_onCore_same (i : Nat) (f : CoreSt → CoreSt) (h : tabWf (fun _ => CoreSt.init) s.cores = true) :
    (s.onCore i f).core i = f (s.core i) := tabGet_put_same i _ h
theorem State.core_onCore_other {i j : Nat} (f : CoreSt → CoreSt) (h : j ≠ i) : (s.onCore i f).core j = s.core j := tabGet_put_other _ h
theorem State.link_onLink_same (i : Nat) (f : LinkSt → LinkSt) (h : tabWf (fun _ => LinkSt.init) s.links = true) :
    (s.onLink i f).link i = f (s.link i) := tabGet_put_same i _ h
theorem State.link_onLink_other {i j : Nat} (f : LinkSt → LinkSt) (h : j ≠ i) : (s.onLink i f).link j = s.link j := tabGet_put_other _ h
theorem State.tile_onTile_same (i : Nat) (f : TileSt → TileSt) (h : tabWf (fun _ => TileSt.init) s.tiles = true) :
    (s.onTile i f).tile i = f (s.tile i) := tabGet_put_same i _ h
theorem State.tile_onTile_other {i j : Nat} (f : TileSt → TileSt) (h : j ≠ i) : (s.onTile i f).tile j = s.tile j := tabGet_put_other _ h
theorem State.owner_onOwner_same (i : Nat) (f : OwnerSt → OwnerSt) (h : tabWf (fun _ => OwnerSt.init) s.owners = true) :
    (s.onOwner i f).owner i = f (s.owner i) := tabGet_put_same i _ h
theorem State.owner_onOwner_other {i j : Nat} (f : OwnerSt → OwnerSt) (h : j ≠ i) : (s.onOwner i f).owner j = s.owner j := tabGet_put_other _ h
theorem State.dma_onDma_same (i : Nat) (f : DmaSt → DmaSt) (h : tabWf (fun _ => DmaSt.init) s.dmas = true) :
    (s.onDma i f).dma i = f (s.dma i) := tabGet_put_same i _ h
theorem State.dma_onDma_other {i j : Nat} (f : DmaSt → DmaSt) (h : j ≠ i) : (s.onDma i f).dma j = s.dma j := tabGet_put_other _ h
theorem State.ddr_onDdr_same (i : Nat) (f : DdrSt → DdrSt) (h : tabWf (fun _ => DdrSt.init) s.ddrs = true) :
    (s.onDdr i f).ddr i = f (s.ddr i) := tabGet_put_same i _ h
theorem State.ddr_onDdr_other {i j : Nat} (f : DdrSt → DdrSt) (h : j ≠ i) : (s.onDdr i f).ddr j = s.ddr j := tabGet_put_other _ h
theorem State.tok_onTok_same (i : Nat) (f : TokSt → TokSt) (h : tabWf (fun _ => TokSt.init) s.toks = true) :
    (s.onTok i f).tok i = f (s.tok i) := tabGet_put_same i _ h
theorem State.tok_onTok_other {i j : Nat} (f : TokSt → TokSt) (h : j ≠ i) : (s.onTok i f).tok j = s.tok j := tabGet_put_other _ h
theorem State.cvu_setCvu_same (i : Nat) (v : Cvu) (h : tabWf (fun _ => Cvu.init) s.cvus = true) : (s.setCvu i v).cvu i = v := tabGet_put_same i v h
theorem State.timer_setTimer_same (k : Nat) (t : Timer) (h : tabWf (fun _ => Timer.init) s.tb.timers = true) :
    (s.setTimer k t).timer k = t := tabGet_put_same k t h
theorem State.timer_setTimer_other {k j : Nat} (t : Timer) (h : j ≠ k) : (s.setTimer k t).timer j = s.timer j := tabGet_put_other t h
theorem State.pin_setPin_same (k : Nat) (t : PinSt) (h : tabWf (fun _ => PinSt.init) s.tb.pins = true) :
    (s.setPin k t).pin k = t := tabGet_put_same k t h
theorem State.pin_setPin_other {k j : Nat} (t : PinSt) (h : j ≠ k) : (s.setPin k t).pin j = s.pin j := tabGet_put_other t h

end Sys2Proof.Machine
end

