-- ==== Sys2Proof/Laws/Guard.lean ====
section
/-! SUPPORT. What a guarded write does where the device admits it, and what waking an island and checking a batch leave alone. -/

namespace Sys2Proof.Machine

variable {s : State}

/-- t differs from s in registers alone, and in none of those that P names. -/
def CsrOnly (P : Nat → Prop) (s t : State) : Prop := t = { s with csr := t.csr } ∧ ∀ o, P o → t.rd o = s.rd o

namespace CsrOnly
variable {P : Nat → Prop} {t u : State}

theorem refl (s : State) : CsrOnly P s s := ⟨rfl, fun _ _ => rfl⟩

theorem trans (h : CsrOnly P s t) (k : CsrOnly P t u) : CsrOnly P s u := by
  refine ⟨?_, fun p hp => (k.2 p hp).trans (h.2 p hp)⟩
  rw [k.1, h.1]

theorem wr {o : Nat} {v : Word} (h : CsrOnly P s t) (ho : ¬P o) : CsrOnly P s (t.wr o v) :=
  h.trans ⟨rfl, fun p hp => State.rd_wr_other v (fun e => ho (e ▸ hp))⟩

theorem fset {f : FieldRef} {v : Nat} (h : CsrOnly P s t) (ho : ¬P f.off) : CsrOnly P s (t.fset f v) := h.wr ho

theorem ite {c : Prop} [Decidable c] (a : CsrOnly P s t) (b : CsrOnly P s u) : CsrOnly P s (if c then t else u) := by
  split
  · exact a
  · exact b

end CsrOnly

/-! ### A wake writes only the power block, a batch check only the Chrysalis block -/

theorem State.wakeOne_only {i cause : Nat} (hi : i < 102) : CsrOnly (fun p => p / 0x10000 ≠ 6) s (s.wakeOne i cause) := by
  unfold State.wakeOne
  refine CsrOnly.ite (((CsrOnly.refl s).fset ?_).fset ?_) (CsrOnly.refl s) <;>
    · simp only [Reg.PWR_ISL_STAT_STATE, Reg.PWR_ISL_STAT_WAKE_SRC, Reg.PWR_ISL_STAT, ne_eq, Decidable.not_not]
      omega

theorem State.wakeIsland_only {i cause : Nat} (hi : i < 102) : CsrOnly (fun p => p / 0x10000 ≠ 6) s (s.wakeIsland i cause) := by
  unfold State.wakeIsland
  split
  · exact (State.wakeOne_only hi).trans (State.wakeOne_only (by omega))
  · exact State.wakeOne_only hi

theorem regIsland_lt {o i : Nat} (h : regIsland o = some i) : i < 102 := by
  unfold regIsland at h
  repeat' split at h
  all_goals first | (injection h with h; omega) | cases h

theorem State.csrWake_only (o : Nat) : CsrOnly (fun p => p / 0x10000 ≠ 6) s (s.csrWake o) := by
  unfold State.csrWake
  split
  · next i h => exact State.wakeIsland_only (regIsland_lt h)
  · exact CsrOnly.refl s

theorem State.chrStale_only {e : Nat} {a : Word} : CsrOnly (fun p => p / 0x10000 ≠ 2) s (s.chrStale e a) := by
  unfold State.chrStale State.chrFailed State.chrFail State.setChr State.count State.wrN
  refine CsrOnly.ite (CsrOnly.wr (CsrOnly.wr (CsrOnly.fset (CsrOnly.wr (CsrOnly.refl s) ?_) ?_) ?_) ?_) (CsrOnly.refl s) <;> decide

theorem State.staleIf_only (o : Nat) (old : Word) : CsrOnly (fun p => p / 0x10000 ≠ 2) s (s.staleIf o old) := by
  unfold State.staleIf State.staleWord
  refine CsrOnly.ite (CsrOnly.refl s) (CsrOnly.ite (CsrOnly.refl s) ?_)
  split
  · exact State.chrStale_only
  · exact CsrOnly.refl s

theorem State.csrWake_rd {o p : Nat} (h : p / 0x10000 ≠ 6) : (s.csrWake o).rd p = s.rd p := (State.csrWake_only o).2 p h
theorem State.csrWake_fget {o : Nat} {f : FieldRef} (h : f.off / 0x10000 ≠ 6) : (s.csrWake o).fget f = s.fget f := by
  rw [State.fget, State.csrWake_rd h, State.fget]
theorem State.csrWake_fbit {o : Nat} {f : FieldRef} (h : f.off / 0x10000 ≠ 6) : (s.csrWake o).fbit f = s.fbit f := by
  rw [State.fbit, State.csrWake_fget h, State.fbit]
theorem State.staleIf_rd {o p : Nat} {v : Word} (h : p / 0x10000 ≠ 2) : (s.staleIf o v).rd p = s.rd p := (State.staleIf_only o v).2 p h
theorem State.staleIf_fget {o : Nat} {v : Word} {f : FieldRef} (h : f.off / 0x10000 ≠ 2) : (s.staleIf o v).fget f = s.fget f := by
  rw [State.fget, State.staleIf_rd h, State.fget]
theorem State.staleIf_fbit {o : Nat} {v : Word} {f : FieldRef} (h : f.off / 0x10000 ≠ 2) : (s.staleIf o v).fbit f = s.fbit f := by
  rw [State.fbit, State.staleIf_fget h, State.fbit]

/-- A field of the device that is not its register file reads through a wake and a batch check. -/
theorem State.csrWake_part {α : Type} (g : State → α) (h : ∀ l, g { s with csr := l } = g s) (o : Nat) : g (s.csrWake o) = g s := by
  rw [(State.csrWake_only o).1]; exact h _
theorem State.staleIf_part {α : Type} (g : State → α) (h : ∀ l, g { s with csr := l } = g s) (o : Nat) (v : Word) : g (s.staleIf o v) = g s := by
  rw [(State.staleIf_only o v).1]; exact h _

/-! ### Commands that the device takes -/

theorem State.alive_up {f : State → State} (h : s.down = false) : s.alive f = f s := by
  unfold State.alive; rw [h]; rfl

theorem State.alive_down {f : State → State} (h : s.down = true) : s.alive f = s := by
  unfold State.alive; rw [h]; rfl

theorem State.iff_true {b : Bool} {f : State → State} (h : b = true) : s.iff b f = f s := by
  unfold State.iff; rw [h]; rfl

theorem State.iff_false {b : Bool} {f : State → State} (h : b = false) : s.iff b f = s := by
  unfold State.iff; rw [h]; rfl

theorem State.takenIf_true {o : Nat} {b : Bool} {f : State → State} (h : b = true) : s.takenIf o b f = f s := by
  unfold State.takenIf; rw [h]; rfl

/-- A write that the device admits has its effect on the woken device; a batch may become STALE (R490, R496, R508, R567). -/
theorem State.guarded_admits {m : Master} {o : Nat} {f : State → State} (h : s.admits m o = true) :
    s.guarded m o f = (f (s.csrWake o)).staleIf o ((s.csrWake o).rd o) := by
  simp only [State.admits, Bool.and_eq_true, Bool.not_eq_true', Bool.or_eq_true, bne_iff_ne, ne_eq] at h
  obtain ⟨⟨⟨⟨⟨_, hb⟩, hr⟩, hc⟩, ho⟩, ha⟩ := h
  unfold State.guarded
  rw [if_neg (fun e => hb.elim (fun k => k e.1) fun k => Bool.noConfusion (k.symm.trans e.2)), hr, hc, ho, ha]
  rfl

end Sys2Proof.Machine
end

