-- ==== Sys2Proof/Laws/KeepsEgress.lean ====
section
/-! SUPPORT. The operations of Machine/Egress.lean keep what Laws/Keeps.lean says. -/

namespace Sys2Proof.Machine

variable {ref s : State}

theorem State.reserve_keeps {c : Nat} {k : Nat} (hk : Keeps ref s) : Keeps ref (State.reserve s c k) := by
  unfold State.reserve
  repeat' with_reducible first | intro _ | assumption | apply keeps_ite | apply State.onIface_keeps | split | dsimp only

theorem State.tree_keeps {parity : Bool} {d : Int} (hk : Keeps ref s) : Keeps ref (State.tree s parity d) := by
  unfold State.tree
  repeat' with_reducible first | intro _ | assumption | apply keeps_ite | refine State.onTb_keeps ?_ (by intro b; first | exact ⟨rfl, rfl, rfl⟩ | (refine ⟨?_, ?_, ?_⟩ <;> (repeat' split) <;> rfl)) | split | dsimp only

theorem State.sendStatus_keeps {dst : Nat} {code : Nat} (hk : Keeps ref s) : Keeps ref (State.sendStatus s dst code) := by
  unfold State.sendStatus
  repeat' with_reducible first | intro _ | assumption | apply keeps_ite | apply State.onLink_keeps | apply State.count_keeps | apply State.emit_keeps | split | dsimp only

theorem State.linkDrop_keeps {k : Nat} {c : LCell} (hk : Keeps ref s) : Keeps ref (State.linkDrop s k c) := by
  unfold State.linkDrop
  repeat' with_reducible first | intro _ | assumption | apply keeps_ite | apply State.tree_keeps | apply State.sendStatus_keeps | apply State.count_keeps | split | dsimp only

theorem State.toLink_keeps {k : Nat} {l : List LCell} (hk : Keeps ref s) : Keeps ref (State.toLink s k l) := by
  unfold State.toLink
  repeat' with_reducible first | intro _ | assumption | apply keeps_ite | apply forL_keeps | apply State.onLink_keeps | apply State.linkDrop_keeps | split | dsimp only

theorem State.send_keeps {e : Emit} (hk : Keeps ref s) : Keeps ref (State.send s e) := by
  unfold State.send
  repeat' with_reducible first | intro _ | assumption | apply keeps_ite | apply State.toLink_keeps | apply State.sendStatus_keeps | apply forL_keeps | apply State.count_keeps | apply State.emit_keeps | split | dsimp only

theorem State.ifaceGo_keeps {c : Nat} {y2 : Nat} (hk : Keeps ref s) : Keeps ref (State.ifaceGo s c y2) := by
  induction y2 generalizing s c with
  | zero =>
    unfold State.ifaceGo
    repeat' with_reducible first | intro _ | assumption | apply keeps_ite | apply State.onIface_keeps | apply State.send_keeps | split | dsimp only
  | succ _ ih =>
    unfold State.ifaceGo
    repeat' with_reducible first | intro _ | assumption | apply ih | apply keeps_ite | apply State.onIface_keeps | apply State.send_keeps | split | dsimp only

theorem State.sendLink_keeps {k : Nat} {e : Emit} (hk : Keeps ref s) : Keeps ref (State.sendLink s k e) := by
  unfold State.sendLink
  repeat' with_reducible first | intro _ | assumption | apply keeps_ite | apply State.toLink_keeps | apply State.emit_keeps | split | dsimp only

theorem State.request_keeps {c : Nat} {k : Nat} {e : Nat → Emit} (hk : Keeps ref s) : Keeps ref (State.request s c k e) := by
  unfold State.request
  repeat' with_reducible first | intro _ | assumption | apply keeps_ite | apply State.ifaceGo_keeps | apply State.onIface_keeps | split | dsimp only

theorem State.altUpdate_keeps  (hk : Keeps ref s) : Keeps ref (State.altUpdate s) := by
  unfold State.altUpdate
  repeat' with_reducible first | intro _ | assumption | apply keeps_ite | apply forN_keeps | apply State.fon_keeps | apply State.fflag_keeps | apply State.foff_keeps | split | dsimp only

theorem State.replied_keeps {c : Nat} {k : Nat} (hk : Keeps ref s) : Keeps ref (State.replied s c k) := by
  unfold State.replied
  repeat' with_reducible first | intro _ | assumption | apply keeps_ite | apply State.ifaceGo_keeps | apply State.onIface_keeps | split | dsimp only

end Sys2Proof.Machine
end

