-- ==== Sys2Proof/Laws/KeepsRespec.lean ====
section
/-! SUPPORT. The operations of Machine/Respec.lean keep what Laws/Keeps.lean says. -/

namespace Sys2Proof.Machine

variable {ref s : State}

theorem State.respec_keeps {l : List Nat} (hk : Keeps ref s) : Keeps ref (State.respec s l) := by
  unfold State.respec
  repeat' with_reducible first | intro _ | assumption | apply keeps_ite | apply forL_keeps | apply State.onTile_keeps | split | dsimp only

end Sys2Proof.Machine
end

