-- ==== Sys2Proof/Laws/KeepsAccess.lean ====
section
/-! SUPPORT. The operations of Machine/Access.lean keep what Laws/Keeps.lean says. -/

namespace Sys2Proof.Machine

variable {ref s : State}

theorem State.storeAcked_keeps {o : Nat} (hk : Keeps ref s) : Keeps ref (State.storeAcked s o) := by
  unfold State.storeAcked
  repeat' with_reducible first | intro _ | assumption | apply keeps_ite | apply State.onOwner_keeps | apply State.emit_keeps | split | dsimp only

theorem State.setBad_keeps {a : Nat} {b : Bool} (h : Keeps ref s) : Keeps ref (s.setBad a b) := h.bad (tabPut_wf a b h.wfBad)


theorem State.markUe_keeps {a : Nat} {y2 : Ecc} (hk : Keeps ref s) : Keeps ref (State.markUe s a y2) := by
  unfold State.markUe
  repeat' with_reducible first | intro _ | assumption | apply keeps_ite | apply State.setBad_keeps | split | dsimp only

theorem State.touch_keeps {a : Nat} (hk : Keeps ref s) : Keeps ref (State.touch s a) := by
  unfold State.touch
  repeat' with_reducible first | intro _ | assumption | apply keeps_ite | apply State.wakeIsland_keeps | split | dsimp only

theorem State.ddrError_keeps {c : Nat} {a : Nat} {ue : Bool} {src : Nat} {rank : Nat} {device : Nat} (hk : Keeps ref s) : Keeps ref (State.ddrError s c a ue src rank device) := by
  unfold State.ddrError
  repeat' with_reducible first | intro _ | assumption | apply keeps_ite | apply State.wr64_keeps | apply State.wrN_keeps | apply State.raise_keeps | apply State.count_keeps | split | dsimp only

theorem State.writeSend_keeps {c : Nat} {a : Nat} {l : List (Nat × Byte)} (hk : Keeps ref s) : Keeps ref (State.writeSend s c a l) := by
  unfold State.writeSend
  repeat' with_reducible first | intro _ | assumption | apply keeps_ite | apply State.request_keeps | split | dsimp only

theorem State.violation_keeps {w : Who} {kind : Nat} {a : Nat} (hk : Keeps ref s) : Keeps ref (State.violation s w kind a) := by
  unfold State.violation
  repeat' with_reducible first | intro _ | assumption | apply keeps_ite | apply State.wr64_keeps | apply State.fset_keeps | apply State.raise_keeps | apply State.fon_keeps | apply State.count_keeps | split | dsimp only

theorem State.reserveEnd_keeps {l : List Nat} (hk : Keeps ref s) : Keeps ref (State.reserveEnd s l) := by
  unfold State.reserveEnd
  repeat' with_reducible first | intro _ | assumption | apply keeps_ite | apply State.setSeq_keeps | apply forL_keeps | split | dsimp only

theorem State.sramError_keeps {a : Nat} {ue : Bool} (hk : Keeps ref s) : Keeps ref (State.sramError s a ue) := by
  unfold State.sramError
  repeat' with_reducible first | intro _ | assumption | apply keeps_ite | apply State.wr64_keeps | apply State.wrN_keeps | apply State.raise_keeps | apply State.fon_keeps | apply State.count_keeps | split | dsimp only

theorem State.memError_keeps {a : Nat} {src : Nat} {y3 : Ecc} (hk : Keeps ref s) : Keeps ref (State.memError s a src y3) := by
  unfold State.memError
  repeat' with_reducible first | intro _ | assumption | apply keeps_ite | apply State.sramError_keeps | apply State.ddrError_keeps | split | dsimp only

theorem State.knownBad_keeps {src : Nat} {x : Nat} (hk : Keeps ref s) : Keeps ref (State.knownBad s src x) := by
  unfold State.knownBad
  repeat' with_reducible first | intro _ | assumption | apply keeps_ite | apply State.memError_keeps | apply State.drawnN_keeps | split | dsimp only

theorem State.writeErrors_keeps {l : List Nat} {al : Bool} {err : Option (Nat × Ecc)} (hk : Keeps ref s) : Keeps ref (State.writeErrors s l al err).1 := by
  unfold State.writeErrors
  repeat' with_reducible first | intro _ | assumption | apply keeps_ite | apply keeps_ite1 | apply State.setBad_keeps | apply forL_keeps | apply State.markUe_keeps | apply State.memError_keeps | apply State.knownBad_keeps | split | dsimp only

theorem State.granuleWrite_keeps {l : List (Nat × Byte)} {err : Option (Nat × Ecc)} (hk : Keeps ref s) : Keeps ref (State.granuleWrite s l err).1 := by
  unfold State.granuleWrite
  repeat' with_reducible first | intro _ | assumption | apply keeps_ite | apply keeps_ite1 | apply State.reserveEnd_keeps | apply forL_keeps | apply State.writeErrors_keeps | apply State.respec_keeps | apply State.mput_keeps | apply State.fon_keeps | refine Keeps.pair ?_ (by assumption) | split | dsimp only

theorem State.granulesWrite_keeps {l : List (Nat × Byte)} {err : Option (Nat × Ecc)} {y3 : List Nat} {y4 : Nat} (hk : Keeps ref s) : Keeps ref (State.granulesWrite s l err y3 y4).1 := by
  induction y3 generalizing s l err y4 with
  | nil =>
    unfold State.granulesWrite
    repeat' with_reducible first | intro _ | assumption | apply keeps_ite | apply keeps_ite1 | apply State.granuleWrite_keeps | refine Keeps.pair ?_ (by assumption) | split | dsimp only
  | cons _ _ ih =>
    unfold State.granulesWrite
    repeat' with_reducible first | intro _ | assumption | apply ih | apply keeps_ite | apply keeps_ite1 | apply State.granuleWrite_keeps | refine Keeps.pair ?_ (by assumption) | split | dsimp only

theorem State.localWrite_keeps {w : Who} {l : List (Nat × Byte)} {ecc : Ecc} (hk : Keeps ref s) : Keeps ref (State.localWrite s w l ecc).1 := by
  unfold State.localWrite
  repeat' with_reducible first | intro _ | assumption | apply keeps_ite | apply keeps_ite1 | apply State.touch_keeps | apply State.violation_keeps | apply State.count_keeps | apply State.granulesWrite_keeps | refine Keeps.pair ?_ (by assumption) | split | dsimp only

theorem State.memWrite_keeps {w : Who} {l : List (Nat × Byte)} {ecc : Ecc} (hk : Keeps ref s) : Keeps ref (State.memWrite s w l ecc).1 := by
  unfold State.memWrite
  repeat' with_reducible first | intro _ | assumption | apply keeps_ite | apply keeps_ite1 | apply State.writeSend_keeps | apply State.violation_keeps | apply State.localWrite_keeps | apply State.count_keeps | refine Keeps.pair ?_ (by assumption) | split | dsimp only

theorem State.readErrors_keeps {a : Nat} {n : Nat} {src : Nat} {ecc : Ecc} {quiet : Bool} (hk : Keeps ref s) : Keeps ref (State.readErrors s a n src ecc quiet).1 := by
  unfold State.readErrors
  repeat' with_reducible first | intro _ | assumption | apply keeps_ite | apply keeps_ite1 | apply forL_keeps | apply State.markUe_keeps | apply State.memError_keeps | apply State.knownBad_keeps | split | dsimp only

theorem State.localRead_keeps {w : Who} {kind : Nat} {va : Nat} {n : Nat} {ecc : Ecc} {quiet : Bool} (hk : Keeps ref s) : Keeps ref (State.localRead s w kind va n ecc quiet).1 := by
  unfold State.localRead
  repeat' with_reducible first | intro _ | assumption | apply keeps_ite | apply keeps_ite1 | apply State.touch_keeps | apply State.readErrors_keeps | apply State.violation_keeps | refine Keeps.pair ?_ (by assumption) | split | dsimp only

theorem State.storeOut_keeps {r : DdrReq} (hk : Keeps ref s) : Keeps ref (State.storeOut s r) := by
  unfold State.storeOut
  repeat' with_reducible first | intro _ | assumption | apply keeps_ite | apply State.onOwner_keeps | split | dsimp only

theorem State.ddrHold_keeps {r : DdrReq} (hk : Keeps ref s) : Keeps ref (State.ddrHold s r) := by
  unfold State.ddrHold
  repeat' with_reducible first | intro _ | assumption | apply keeps_ite | apply State.onDdr_keeps | apply State.reserve_keeps | apply State.busyAdd_keeps | apply State.count_keeps | apply State.send_keeps | apply State.storeOut_keeps | split | dsimp only

theorem State.readSend_keeps {c : Nat} {a : Nat} {n : Nat} (hk : Keeps ref s) : Keeps ref (State.readSend s c a n) := by
  unfold State.readSend
  repeat' with_reducible first | intro _ | assumption | apply keeps_ite | apply State.request_keeps | apply forN_keeps | split | dsimp only

theorem State.memRead_keeps {w : Who} {kind : Nat} {a : Nat} {n : Nat} {ecc : Ecc} {quiet : Bool} (hk : Keeps ref s) : Keeps ref (State.memRead s w kind a n ecc quiet).1 := by
  unfold State.memRead
  repeat' with_reducible first | intro _ | assumption | apply keeps_ite | apply keeps_ite1 | apply State.readSend_keeps | apply State.localRead_keeps | apply State.violation_keeps | apply State.count_keeps | refine Keeps.pair ?_ (by assumption) | split | dsimp only

end Sys2Proof.Machine
end

