-- ==== Sys2Proof/Laws/KeepsAdmission.lean ====
section
/-! SUPPORT. The operations of Machine/Admission.lean keep what Laws/Keeps.lean says. -/

namespace Sys2Proof.Machine

variable {ref s : State}

theorem State.showAdmission_keeps {req : Nat} {a : Adm} (hk : Keeps ref s) : Keeps ref (State.showAdmission s req a) := by
  unfold State.showAdmission
  repeat' with_reducible first | intro _ | assumption | apply keeps_ite | apply State.fset_keeps | apply State.wrN_keeps | split | dsimp only

end Sys2Proof.Machine
end

