-- ==== Sys2Proof/Laws/KeepsNeuron.lean ====
section
/-! SUPPORT. The operations of Machine/Neuron.lean keep what Laws/Keeps.lean says. -/

namespace Sys2Proof.Machine

variable {ref s : State}

theorem State.ncWord_keeps {n : Nat} {o : Nat} (hk : Keeps ref s) : Keeps ref (State.ncWord s n o).1 := by
  unfold State.ncWord
  repeat' with_reducible first | intro _ | assumption | apply keeps_ite | apply keeps_ite1 | apply State.sramError_keeps | split | dsimp only

theorem State.ncWords_keeps {n : Nat} {o : Nat} {y3 : Nat} (hk : Keeps ref s) : Keeps ref (State.ncWords s n o y3).1 := by
  induction y3 generalizing s n o with
  | zero =>
    unfold State.ncWords
    repeat' with_reducible first | intro _ | assumption | apply keeps_ite | apply keeps_ite1 | apply State.ncWord_keeps | refine Keeps.pair ?_ (by assumption) | split | dsimp only
  | succ _ ih =>
    unfold State.ncWords
    repeat' with_reducible first | intro _ | assumption | apply ih | apply keeps_ite | apply keeps_ite1 | apply State.ncWord_keeps | refine Keeps.pair ?_ (by assumption) | split | dsimp only

theorem State.readRec_keeps {n : Nat} {j : Nat} (hk : Keeps ref s) : Keeps ref (State.readRec s n j).1 := by
  unfold State.readRec
  repeat' with_reducible first | intro _ | assumption | apply keeps_ite | apply keeps_ite1 | apply State.ncWords_keeps | refine Keeps.pair ?_ (by assumption) | split | dsimp only

theorem State.ncScrub_keeps {n : Nat} {l : List (BitVec 21 × Bool)} (hk : Keeps ref s) : Keeps ref (State.ncScrub s n l) := by
  unfold State.ncScrub
  repeat' with_reducible first | intro _ | assumption | apply keeps_ite | apply State.setBad_keeps | apply State.sramError_keeps | apply forL_keeps | split | dsimp only

theorem State.readProf_keeps {n : Nat} {p : Nat} (hk : Keeps ref s) : Keeps ref (State.readProf s n p).1 := by
  unfold State.readProf
  repeat' with_reducible first | intro _ | assumption | apply keeps_ite | apply keeps_ite1 | apply State.ncWords_keeps | refine Keeps.pair ?_ (by assumption) | split | dsimp only

theorem State.ncPut_keeps {n : Nat} {o : Nat} {v : Nat} (hk : Keeps ref s) : Keeps ref (State.ncPut s n o v) := by
  unfold State.ncPut
  repeat' with_reducible first | intro _ | assumption | apply keeps_ite | apply State.mnatPut_keeps | apply State.setBad_keeps | split | dsimp only

theorem State.writeRec_keeps {n : Nat} {j : Nat} {r : NRec} (hk : Keeps ref s) : Keeps ref (State.writeRec s n j r) := by
  unfold State.writeRec
  repeat' with_reducible first | intro _ | assumption | apply keeps_ite | apply State.ncPut_keeps | split | dsimp only

theorem State.ncErrors_keeps {n : Nat} {l : List (BitVec 21 × Bool)} (hk : Keeps ref s) : Keeps ref (State.ncErrors s n l) := by
  unfold State.ncErrors
  repeat' with_reducible first | intro _ | assumption | apply keeps_ite | apply State.setBad_keeps | apply State.sramError_keeps | apply forL_keeps | split | dsimp only

theorem State.ncStatus_keeps {n : Nat} (hk : Keeps ref s) : Keeps ref (State.ncStatus s n) := by
  unfold State.ncStatus
  repeat' with_reducible first | intro _ | assumption | apply keeps_ite | apply State.fset_keeps | apply State.fflag_keeps | split | dsimp only

end Sys2Proof.Machine
end

