-- ==== Sys2Proof/Laws/KeepsPlastic.lean ====
section
/-! SUPPORT. The operations of Machine/Plastic.lean keep what Laws/Keeps.lean says. -/

namespace Sys2Proof.Machine

variable {ref s : State}

theorem State.rowsShow_keeps {n : Nat} (hk : Keeps ref s) : Keeps ref (State.rowsShow s n) := by
  unfold State.rowsShow
  repeat' with_reducible first | intro _ | assumption | apply keeps_ite | apply State.fset_keeps | split | dsimp only

theorem State.dirEntry_keeps {n : Nat} {k : Nat} (hk : Keeps ref s) : Keeps ref (State.dirEntry s n k).1 := by
  unfold State.dirEntry
  repeat' with_reducible first | intro _ | assumption | apply keeps_ite | apply keeps_ite1 | apply State.rowsShow_keeps | apply State.ncWord_keeps | apply State.ncPut_keeps | refine Keeps.pair ?_ (by assumption) | split | dsimp only

theorem State.plDrop_keeps {n : Nat} (hk : Keeps ref s) : Keeps ref (State.plDrop s n) := by
  unfold State.plDrop
  repeat' with_reducible first | intro _ | assumption | apply keeps_ite | apply State.fon_keeps | apply State.count_keeps | split | dsimp only

theorem State.segmentNew_keeps {n : Nat} {i : Nat} {k : Nat} {need : Nat} (hk : Keeps ref s) : Keeps ref (State.segmentNew s n i k need).1 := by
  unfold State.segmentNew
  repeat' with_reducible first | intro _ | assumption | apply keeps_ite | apply keeps_ite1 | apply State.fset_keeps | apply State.plDrop_keeps | apply State.rowsShow_keeps | apply forN_keeps | apply State.ncPut_keeps | apply State.onCore_keeps | split | dsimp only

theorem State.directory_keeps {n : Nat} (hk : Keeps ref s) : Keeps ref (State.directory s n).1 := by
  unfold State.directory
  repeat' with_reducible first | intro _ | assumption | apply keeps_ite | apply keeps_ite1 | apply State.dirEntry_keeps | apply foldlPair_keeps | apply foldl_keeps | refine Keeps.pair ?_ (by assumption) | split | dsimp only

theorem State.segmentIn_keeps {l : List (Nat × Nat)} {n : Nat} {i : Nat} {len : Nat} (hk : Keeps ref s) : Keeps ref (State.segmentIn s l n i len).1 := by
  unfold State.segmentIn
  repeat' with_reducible first | intro _ | assumption | apply keeps_ite | apply keeps_ite1 | apply State.plDrop_keeps | apply State.segmentNew_keeps | refine Keeps.pair ?_ (by assumption) | split | dsimp only

theorem State.segment_keeps {n : Nat} {i : Nat} {len : Nat} (hk : Keeps ref s) : Keeps ref (State.segment s n i len).1 := by
  unfold State.segment
  repeat' with_reducible first | intro _ | assumption | apply keeps_ite | apply keeps_ite1 | apply State.directory_keeps | apply State.segmentIn_keeps | refine Keeps.pair ?_ (by assumption) | split | dsimp only

theorem State.readRule_keeps {n : Nat} {r : Nat} (hk : Keeps ref s) : Keeps ref (State.readRule s n r).1 := by
  unfold State.readRule
  repeat' with_reducible first | intro _ | assumption | apply keeps_ite | apply keeps_ite1 | apply State.ncWords_keeps | refine Keeps.pair ?_ (by assumption) | split | dsimp only

theorem State.readSlot_keeps {n : Nat} {i : Nat} (hk : Keeps ref s) : Keeps ref (State.readSlot s n i).1 := by
  unfold State.readSlot
  repeat' with_reducible first | intro _ | assumption | apply keeps_ite | apply keeps_ite1 | apply State.ncWord_keeps | refine Keeps.pair ?_ (by assumption) | split | dsimp only

theorem State.writeSlot_keeps {n : Nat} {i : Nat} {v : Int} (hk : Keeps ref s) : Keeps ref (State.writeSlot s n i v) := by
  unfold State.writeSlot
  repeat' with_reducible first | intro _ | assumption | apply keeps_ite | apply State.mnatPut_keeps | split | dsimp only

theorem State.recordDelta_keeps {n : Nat} {base : Nat} {i : Nat} {d : Int} (hk : Keeps ref s) : Keeps ref (State.recordDelta s n base i d) := by
  unfold State.recordDelta
  repeat' with_reducible first | intro _ | assumption | apply keeps_ite | apply State.readSlot_keeps | apply State.iff_keeps | apply State.writeSlot_keeps | apply State.count_keeps | refine Keeps.pair ?_ (by assumption) | split | dsimp only

theorem State.ncByte_keeps {n : Nat} {o : Nat} (hk : Keeps ref s) : Keeps ref (State.ncByte s n o).1 := by
  unfold State.ncByte
  repeat' with_reducible first | intro _ | assumption | apply keeps_ite | apply keeps_ite1 | apply State.ncWord_keeps | refine Keeps.pair ?_ (by assumption) | split | dsimp only

theorem State.kernel_keeps {n : Nat} {base : Nat} {d : Nat} (hk : Keeps ref s) : Keeps ref (State.kernel s n base d).1 := by
  unfold State.kernel
  repeat' with_reducible first | intro _ | assumption | apply keeps_ite | apply keeps_ite1 | apply State.ncByte_keeps | refine Keeps.pair ?_ (by assumption) | split | dsimp only

theorem State.pair_keeps {n : Nat} {i : Nat} {r : Row} {y : Synapse} {rule : Nat} {d : Nat} {e : Nat} (hk : Keeps ref s) : Keeps ref (State.pair s n i r y rule d e) := by
  unfold State.pair
  repeat' with_reducible first | intro _ | assumption | apply keeps_ite | apply State.segment_keeps | apply State.readRule_keeps | apply State.recordDelta_keeps | apply State.count_keeps | apply State.kernel_keeps | refine Keeps.pair ?_ (by assumption) | split | dsimp only

theorem State.putU_keeps {n : Nat} {r : Row} {y : Synapse} {u : Int} (hk : Keeps ref s) : Keeps ref (State.putU s n r y u) := by
  unfold State.putU
  repeat' with_reducible first | intro _ | assumption | apply keeps_ite | apply State.mnatPut_keeps | apply State.mput_keeps | split | dsimp only

theorem State.commitSynapse_keeps {n : Nat} {base : Nat} {r : Row} {i : Nat} (hk : Keeps ref s) : Keeps ref (State.commitSynapse s n base r i) := by
  unfold State.commitSynapse
  repeat' with_reducible first | intro _ | assumption | apply keeps_ite | apply State.readSlot_keeps | apply State.putU_keeps | apply State.iff_keeps | apply State.readRec_keeps | apply State.readRule_keeps | apply State.readProf_keeps | apply State.count_keeps | refine Keeps.pair ?_ (by assumption) | split | dsimp only

theorem State.readRow_keeps {n : Nat} {off : Nat} {w0 : Nat} (hk : Keeps ref s) : Keeps ref (State.readRow s n off w0).1 := by
  unfold State.readRow
  repeat' with_reducible first | intro _ | assumption | apply keeps_ite | apply keeps_ite1 | apply State.ncWords_keeps | refine Keeps.pair ?_ (by assumption) | split | dsimp only

theorem State.commitRow_keeps {n : Nat} {k : Nat} {base : Nat} {i : Nat} {stop : Nat} (hk : Keeps ref s) : Keeps ref (State.commitRow s n k base i stop) := by
  unfold State.commitRow
  repeat' with_reducible first | intro _ | assumption | apply keeps_ite | apply State.readRow_keeps | apply State.rowsShow_keeps | apply forN_keeps | apply State.ncWord_keeps | apply State.commitSynapse_keeps | apply State.ncPut_keeps | apply State.onCore_keeps | refine Keeps.pair ?_ (by assumption) | split | dsimp only

theorem State.openRow_keeps {n : Nat} {i : Nat} (hk : Keeps ref s) : Keeps ref (State.openRow s n i) := by
  unfold State.openRow
  repeat' with_reducible first | intro _ | assumption | apply keeps_ite | apply State.putU_keeps | apply forN_keeps | apply State.drawn_keeps | split | dsimp only

theorem State.plCommitEnd_keeps {n : Nat} (hk : Keeps ref s) : Keeps ref (State.plCommitEnd s n) := by
  unfold State.plCommitEnd
  repeat' with_reducible first | intro _ | assumption | apply keeps_ite | apply State.fset_keeps | apply forL_keeps | apply State.wrN_keeps | apply State.openRow_keeps | apply State.count_keeps | apply State.foff_keeps | apply State.onCore_keeps | split | dsimp only

theorem State.commitNext_keeps {n : Nat} {l : List (Nat × Nat × Nat)} (hk : Keeps ref s) : Keeps ref (State.commitNext s n l) := by
  unfold State.commitNext
  repeat' with_reducible first | intro _ | assumption | apply keeps_ite | apply State.commitRow_keeps | apply State.plCommitEnd_keeps | split | dsimp only

theorem State.plCommit_keeps {n : Nat} (hk : Keeps ref s) : Keeps ref (State.plCommit s n) := by
  unfold State.plCommit
  repeat' with_reducible first | intro _ | assumption | apply keeps_ite | apply State.plCommitEnd_keeps | apply State.rowsShow_keeps | apply State.fon_keeps | apply State.onCore_keeps | split | dsimp only

theorem State.pairing_keeps {n : Nat} {i : Nat} {r : Row} {y : Synapse} {rec : NRec} {p : Prof} {t : Nat} {tPrev : Nat} (hk : Keeps ref s) : Keeps ref (State.pairing s n i r y rec p t tPrev) := by
  unfold State.pairing
  repeat' with_reducible first | intro _ | assumption | apply keeps_ite | apply State.pair_keeps | split | dsimp only

theorem State.plEpoch_keeps {n : Nat} (hk : Keeps ref s) : Keeps ref (State.plEpoch s n) := by
  unfold State.plEpoch
  repeat' with_reducible first | intro _ | assumption | apply keeps_ite | apply State.onCore_keeps | split | dsimp only

theorem State.plClear_keeps {n : Nat} (hk : Keeps ref s) : Keeps ref (State.plClear s n) := by
  unfold State.plClear
  repeat' with_reducible first | intro _ | assumption | apply keeps_ite | apply State.wrN_keeps | apply State.fon_keeps | apply State.foff_keeps | apply State.onCore_keeps | split | dsimp only

theorem State.plBoundary_keeps {n : Nat} (hk : Keeps ref s) : Keeps ref (State.plBoundary s n) := by
  unfold State.plBoundary
  repeat' with_reducible first | intro _ | assumption | apply keeps_ite | apply State.plEpoch_keeps | apply State.plClear_keeps | apply State.plCommit_keeps | apply State.onCore_keeps | split | dsimp only

theorem execPlasticityClearEnd_keeps {n : Fin 1024} (hk : Keeps ref s) {t' : State} (he : execPlasticityClearEnd n s = .next t') : Keeps ref t' := by
  injection he with he
  rw [← he]
  repeat' with_reducible first | intro _ | assumption | apply keeps_ite | apply State.wrN_keeps | apply forN_keeps | apply State.alive_keeps | apply State.ncPut_keeps | apply State.onCore_keeps | split | dsimp only

theorem execCommitRow_keeps {n : Fin 1024} {errs : List (BitVec 21 × Bool)} (hk : Keeps ref s) {t' : State} (he : execCommitRow n errs s = .next t') : Keeps ref t' := by
  injection he with he
  rw [← he]
  repeat' with_reducible first | intro _ | assumption | apply keeps_ite | apply State.directory_keeps | apply State.commitNext_keeps | apply State.ncErrors_keeps | apply State.alive_keeps | refine Keeps.pair ?_ (by assumption) | split | dsimp only

end Sys2Proof.Machine
end

