-- ==== Sys2Proof/Laws/KeepsArrival.lean ====
section
/-! SUPPORT. The operations of Machine/Arrival.lean keep what Laws/Keeps.lean says. -/

namespace Sys2Proof.Machine

variable {ref s : State}

theorem State.processSynapse_keeps {n : Nat} {t : Nat} {value : Nat} {i : Nat} {tPrev : Nat} {r : Row} {y : Synapse} (hk : Keeps ref s) : Keeps ref (State.processSynapse s n t value i tPrev r y) := by
  unfold State.processSynapse
  repeat' with_reducible first | intro _ | assumption | apply keeps_ite | apply State.iff_keeps | apply State.readRec_keeps | apply State.writeRec_keeps | apply State.wrN_keeps | apply State.readProf_keeps | apply State.pairing_keeps | apply State.count_keeps | refine Keeps.pair ?_ (by assumption) | split | dsimp only

theorem State.applyRow_keeps {n : Nat} {t : Nat} {value : Nat} {i : Nat} {tPrev : Nat} {r : Row} (hk : Keeps ref s) : Keeps ref (State.applyRow s n t value i tPrev r) := by
  unfold State.applyRow
  repeat' with_reducible first | intro _ | assumption | apply keeps_ite | apply State.sramError_keeps | apply forL_keeps | apply State.processSynapse_keeps | apply forN_keeps | apply State.count_keeps | split | dsimp only

theorem State.takeEvent_keeps {n : Nat} {t : Nat} {axon : Nat} {value : Nat} (hk : Keeps ref s) : Keeps ref (State.takeEvent s n t axon value) := by
  unfold State.takeEvent
  repeat' with_reducible first | intro _ | assumption | apply keeps_ite | apply State.applyRow_keeps | apply State.readRow_keeps | apply State.ncWord_keeps | apply State.count_keeps | apply State.ncPut_keeps | refine Keeps.pair ?_ (by assumption) | split | dsimp only

theorem State.takeWord_keeps {n : Nat} {t : Nat} {w : Word} (hk : Keeps ref s) : Keeps ref (State.takeWord s n t w) := by
  unfold State.takeWord
  repeat' with_reducible first | intro _ | assumption | apply keeps_ite | apply State.takeEvent_keeps | split | dsimp only

theorem State.takeAll_keeps {n : Nat} {t : Nat} (hk : Keeps ref s) : Keeps ref (State.takeAll s n t) := by
  unfold State.takeAll
  repeat' with_reducible first | intro _ | assumption | apply keeps_ite | apply forL_keeps | apply State.takeWord_keeps | apply State.onCore_keeps | split | dsimp only

theorem State.evPlace_keeps {n : Nat} {c : EvIn} {w : Word} (hk : Keeps ref s) : Keeps ref (State.evPlace s n c w) := by
  unfold State.evPlace
  repeat' with_reducible first | intro _ | assumption | apply keeps_ite | apply State.count_keeps | apply State.onCore_keeps | split | dsimp only

theorem execArrival_keeps {n : Fin 1024} {errs : List (BitVec 21 × Bool)} (hk : Keeps ref s) {t' : State} (he : execArrival n errs s = .next t') : Keeps ref t' := by
  injection he with he
  rw [← he]
  repeat' with_reducible first | intro _ | assumption | apply keeps_ite | apply State.ncStatus_keeps | apply State.takeWord_keeps | apply State.ncErrors_keeps | apply State.alive_keeps | apply State.onCore_keeps | split | dsimp only

theorem State.evLeaves_keeps {c : EvIn} (hk : Keeps ref s) : Keeps ref (State.evLeaves s c) := by
  unfold State.evLeaves
  repeat' with_reducible first | intro _ | assumption | apply keeps_ite | apply State.tree_keeps | apply State.onLink_keeps | split | dsimp only

theorem State.evAccepted_keeps {n : Nat} {c : EvIn} (hk : Keeps ref s) : Keeps ref (State.evAccepted s n c) := by
  unfold State.evAccepted
  repeat' with_reducible first | intro _ | assumption | apply keeps_ite | apply State.evLeaves_keeps | apply State.count_keeps | split | dsimp only

theorem State.evDiscard_keeps {n : Nat} {k : Nat} (hk : Keeps ref s) : Keeps ref (State.evDiscard s n k) := by
  unfold State.evDiscard
  repeat' with_reducible first | intro _ | assumption | apply keeps_ite | apply State.count_keeps | split | dsimp only

theorem State.evTake_keeps {n : Nat} {c : EvIn} (hk : Keeps ref s) : Keeps ref (State.evTake s n c) := by
  unfold State.evTake
  repeat' with_reducible first | intro _ | assumption | apply keeps_ite | apply forL_keeps | apply State.evAccepted_keeps | apply State.evDiscard_keeps | apply State.evPlace_keeps | split | dsimp only

theorem State.evDrain_keeps {n : Nat} {counted : Bool} {y3 : List EvIn} (hk : Keeps ref s) : Keeps ref (State.evDrain s n counted y3) := by
  induction y3 generalizing s n counted with
  | nil =>
    unfold State.evDrain
    repeat' with_reducible first | intro _ | assumption | apply keeps_ite | apply State.iff_keeps | apply State.evTake_keeps | apply State.count_keeps | apply State.onCore_keeps | split | dsimp only
  | cons _ _ ih =>
    unfold State.evDrain
    repeat' with_reducible first | intro _ | assumption | apply ih | apply keeps_ite | apply State.iff_keeps | apply State.evTake_keeps | apply State.count_keeps | apply State.onCore_keeps | split | dsimp only

theorem execEvCellAccept_keeps {n : Fin 1024} {imm : Bool} {ep : Bool} {events : List Word} {link : Option (Fin 12)} (hk : Keeps ref s) {t' : State} (he : execEvCellAccept n imm ep events link s = .next t') : Keeps ref t' := by
  injection he with he
  rw [← he]
  repeat' with_reducible first | intro _ | assumption | apply keeps_ite | apply State.evTake_keeps | apply State.ncStatus_keeps | apply State.evLeaves_keeps | apply State.alive_keeps | apply State.count_keeps | apply State.onCore_keeps | split | dsimp only

end Sys2Proof.Machine
end

