-- ==== Sys2Proof/Laws/KeepsBatch.lean ====
section
/-! SUPPORT. The operations of Machine/Batch.lean keep what Laws/Keeps.lean says. -/

namespace Sys2Proof.Machine

variable {ref s : State}

theorem State.directoryNamed_keeps {n : Nat} {o : Nat} {old : Word} {new : Word} (hk : Keeps ref s) : Keeps ref (State.directoryNamed s n o old new) := by
  unfold State.directoryNamed
  repeat' with_reducible first | intro _ | assumption | apply keeps_ite | apply State.onCore_keeps | split | dsimp only

theorem State.applyEntry_keeps {e : Word × Word × Word} (hk : Keeps ref s) : Keeps ref (State.applyEntry s e) := by
  unfold State.applyEntry
  repeat' with_reducible first | intro _ | assumption | apply keeps_ite | apply State.directoryNamed_keeps | apply State.mnatPut_keeps | apply State.setBad_keeps | apply State.wr_keeps | split | dsimp only

end Sys2Proof.Machine
end

