-- ==== Sys2Proof/Laws/KeepsBcast.lean ====
section
/-! SUPPORT. The operations of Machine/Bcast.lean keep what Laws/Keeps.lean says. -/

namespace Sys2Proof.Machine

variable {ref s : State}

theorem State.showMissing_keeps {r : Nat} (hk : Keeps ref s) : Keeps ref (State.showMissing s r) := by
  unfold State.showMissing
  repeat' with_reducible first | intro _ | assumption | apply keeps_ite | apply State.fset_keeps | split | dsimp only

theorem State.setRecv_keeps {r : Nat} {v : Receiver} (h : Keeps ref s) : Keeps ref (s.setRecv r v) := h.bc (tabPut_wf r v h.wfBc)


theorem State.setRecvState_keeps {r : Nat} {v : Nat} (hk : Keeps ref s) : Keeps ref (State.setRecvState s r v) := by
  unfold State.setRecvState
  repeat' with_reducible first | intro _ | assumption | apply keeps_ite | apply State.fset_keeps | split | dsimp only

theorem State.recvIdle_keeps {r : Nat} (hk : Keeps ref s) : Keeps ref (State.recvIdle s r) := by
  unfold State.recvIdle
  repeat' with_reducible first | intro _ | assumption | apply keeps_ite | apply State.showMissing_keeps | apply State.setRecv_keeps | apply State.setRecvState_keeps | split | dsimp only

theorem State.recvEnabled_keeps {r : Nat} (hk : Keeps ref s) : Keeps ref (State.recvEnabled s r) := by
  unfold State.recvEnabled
  repeat' with_reducible first | intro _ | assumption | apply keeps_ite | apply State.recvIdle_keeps | split | dsimp only

theorem State.zeroRegion_keeps {r : Nat} (hk : Keeps ref s) : Keeps ref (State.zeroRegion s r) := by
  unfold State.zeroRegion
  repeat' with_reducible first | intro _ | assumption | apply keeps_ite | apply State.mzero_keeps | split | dsimp only

theorem execBcHashEnd_keeps {r : Fin 1152} (hk : Keeps ref s) {t' : State} (he : execBcHashEnd r s = .next t') : Keeps ref t' := by
  injection he with he
  rw [← he]
  repeat' with_reducible first | intro _ | assumption | apply keeps_ite | apply State.zeroRegion_keeps | apply State.setRecv_keeps | apply State.alive_keeps | apply State.setRecvState_keeps | split | dsimp only

theorem State.bcChunk1_keeps {session : Nat} {index : Nat} {data : List Byte} {r : Nat} (hk : Keeps ref s) : Keeps ref (State.bcChunk1 s session index data r) := by
  unfold State.bcChunk1
  repeat' with_reducible first | intro _ | assumption | apply keeps_ite | apply State.mwrite_keeps | apply State.showMissing_keeps | apply State.setRecv_keeps | apply State.count_keeps | split | dsimp only

theorem execBcChunk_keeps {session : BitVec 16} {index : BitVec 16} {data : List Byte} (hk : Keeps ref s) {t' : State} (he : execBcChunk session index data s = .next t') : Keeps ref t' := by
  injection he with he
  rw [← he]
  repeat' with_reducible first | intro _ | assumption | apply keeps_ite | apply forL_keeps | apply State.bcChunk1_keeps | apply State.alive_keeps | split | dsimp only

theorem State.bcClose1_keeps {session : Nat} {r : Nat} (hk : Keeps ref s) : Keeps ref (State.bcClose1 s session r) := by
  unfold State.bcClose1
  repeat' with_reducible first | intro _ | assumption | apply keeps_ite | apply State.zeroRegion_keeps | apply State.setRecv_keeps | apply State.setRecvState_keeps | split | dsimp only

theorem execBcClose_keeps {session : BitVec 16} (hk : Keeps ref s) {t' : State} (he : execBcClose session s = .next t') : Keeps ref t' := by
  injection he with he
  rw [← he]
  repeat' with_reducible first | intro _ | assumption | apply keeps_ite | apply forL_keeps | apply State.bcClose1_keeps | apply State.alive_keeps | split | dsimp only

theorem State.bcOpen1_keeps {v : Receiver} {r : Nat} (hk : Keeps ref s) : Keeps ref (State.bcOpen1 s v r) := by
  unfold State.bcOpen1
  repeat' with_reducible first | intro _ | assumption | apply keeps_ite | apply State.fset_keeps | apply State.showMissing_keeps | apply State.setRecv_keeps | apply State.mopen_keeps | apply State.setRecvState_keeps | split | dsimp only

theorem execBcOpen_keeps {session : BitVec 16} {seqs : Bool} {mask : BitVec 8} {first : BitVec 16} {last : BitVec 16} {offset : Word} {nchunk : BitVec 16} {digest : BitVec 256} (hk : Keeps ref s) {t' : State} (he : execBcOpen session seqs mask first last offset nchunk digest s = .next t') : Keeps ref t' := by
  injection he with he
  rw [← he]
  repeat' with_reducible first | intro _ | assumption | apply keeps_ite | apply forL_keeps | apply State.alive_keeps | apply State.bcOpen1_keeps | split | dsimp only

theorem execBrxClear_keeps {m : Master} {r : Fin 1152} (hk : Keeps ref s) {t' : State} (he : execBrxClear m r s = .next t') : Keeps ref t' := by
  injection he with he
  rw [← he]
  repeat' with_reducible first | intro _ | assumption | apply keeps_ite | apply State.recvIdle_keeps | apply State.guarded_keeps | apply State.alive_keeps | split | dsimp only

theorem State.bcPoll1_keeps {session : Nat} {round : Nat} {r : Nat} (hk : Keeps ref s) : Keeps ref (State.bcPoll1 s session round r) := by
  unfold State.bcPoll1
  repeat' with_reducible first | intro _ | assumption | apply keeps_ite | apply State.setRecv_keeps | apply State.emit_keeps | split | dsimp only

theorem execBcReport_keeps {words : List (BitVec 16)} (h : Keeps ref s) {t : State} (e : execBcReport words s = .next t) : Keeps ref t := by
  injection e with e
  rw [← e]
  exact State.alive_keeps h (fun t ht => ht)


theorem execBcRepair_keeps {r : Fin 1152} {session : BitVec 16} {index : BitVec 16} {data : List Byte} (hk : Keeps ref s) {t' : State} (he : execBcRepair r session index data s = .next t') : Keeps ref t' := by
  injection he with he
  rw [← he]
  repeat' with_reducible first | intro _ | assumption | apply keeps_ite | apply State.bcChunk1_keeps | apply State.alive_keeps | split | dsimp only

theorem execBcPoll_keeps {session : BitVec 16} {round : BitVec 16} (hk : Keeps ref s) {t' : State} (he : execBcPoll session round s = .next t') : Keeps ref t' := by
  injection he with he
  rw [← he]
  repeat' with_reducible first | intro _ | assumption | apply keeps_ite | apply State.bcPoll1_keeps | apply forL_keeps | apply State.alive_keeps | split | dsimp only

end Sys2Proof.Machine
end

