-- ==== Sys2Proof/Laws/KeepsChrysalis.lean ====
section
/-! SUPPORT. The operations of Machine/Chrysalis.lean keep what Laws/Keeps.lean says. -/

namespace Sys2Proof.Machine

variable {ref s : State}

theorem State.chrOpen_keeps {m : Master} (hk : Keeps ref s) : Keeps ref (State.chrOpen s m) := by
  unfold State.chrOpen
  repeat' with_reducible first | intro _ | assumption | apply keeps_ite | apply State.takenIf_keeps | apply State.setChr_keeps | apply State.fset_keeps | apply State.wr_keeps | apply State.wrN_keeps | split | dsimp only

theorem State.chrAbort_keeps {m : Master} (hk : Keeps ref s) : Keeps ref (State.chrAbort s m) := by
  unfold State.chrAbort
  repeat' with_reducible first | intro _ | assumption | apply keeps_ite | apply State.takenIf_keeps | apply State.setChr_keeps | split | dsimp only

theorem State.chrValidate_keeps {m : Master} (hk : Keeps ref s) : Keeps ref (State.chrValidate s m) := by
  unfold State.chrValidate
  repeat' with_reducible first | intro _ | assumption | apply keeps_ite | apply State.takenIf_keeps | apply State.setChr_keeps | apply State.wr_keeps | split | dsimp only

theorem State.checkEntries_keeps {level : Nat} {y2 : Nat} {y3 : List (Word × Word × Word)} (hk : Keeps ref s) : Keeps ref (State.checkEntries s level y2 y3).1 := by
  induction y3 generalizing s level y2 with
  | nil =>
    unfold State.checkEntries
    repeat' with_reducible first | intro _ | assumption | apply keeps_ite | apply keeps_ite1 | apply State.applyEntry_keeps | split | dsimp only
  | cons _ _ ih =>
    unfold State.checkEntries
    repeat' with_reducible first | intro _ | assumption | apply ih | apply keeps_ite | apply keeps_ite1 | apply State.applyEntry_keeps | split | dsimp only

theorem State.chrCommit_keeps  (hk : Keeps ref s) : Keeps ref (State.chrCommit s) := by
  unfold State.chrCommit
  repeat' with_reducible first | intro _ | assumption | apply keeps_ite | apply State.setChr_keeps | apply forL_keeps | apply State.wakeIsland_keeps | apply State.onChr_keeps | apply State.chrFail_keeps | split | dsimp only

theorem State.chrValidated_keeps  (hk : Keeps ref s) : Keeps ref (State.chrValidated s) := by
  unfold State.chrValidated
  repeat' with_reducible first | intro _ | assumption | apply keeps_ite | apply State.setChr_keeps | apply State.showAdmission_keeps | apply State.checkEntries_keeps | apply State.chrFailed_keeps | apply State.drawn_keeps | refine Keeps.pair ?_ (by assumption) | split | dsimp only

theorem execChrValidationEnd_keeps  (hk : Keeps ref s) {t' : State} (he : execChrValidationEnd s = .next t') : Keeps ref t' := by
  injection he with he
  rw [← he]
  repeat' with_reducible first | intro _ | assumption | apply keeps_ite | apply State.chrValidated_keeps | apply State.alive_keeps | split | dsimp only

theorem State.chrCommitOp_keeps {m : Master} (hk : Keeps ref s) : Keeps ref (State.chrCommitOp s m) := by
  unfold State.chrCommitOp
  repeat' with_reducible first | intro _ | assumption | apply keeps_ite | apply State.takenIf_keeps | apply State.chrCommit_keeps | split | dsimp only

theorem State.chrWrite_keeps {m : Master} {o : Nat} {v : Word} (hk : Keeps ref s) : Keeps ref (State.chrWrite s m o v) := by
  unfold State.chrWrite
  repeat' with_reducible first | intro _ | assumption | apply keeps_ite | apply State.setChr_keeps | apply State.ignored_keeps | apply State.wr_keeps | split | dsimp only

theorem State.chrNent_keeps {m : Master} {v : Word} (hk : Keeps ref s) : Keeps ref (State.chrNent s m v) := by
  unfold State.chrNent
  repeat' with_reducible first | intro _ | assumption | apply keeps_ite | apply State.wrN_keeps | apply State.chrWrite_keeps | split | dsimp only

theorem execChrNentWrite_keeps {m : Master} {count : BitVec 13} (hk : Keeps ref s) {t' : State} (he : execChrNentWrite m count s = .next t') : Keeps ref t' := by
  injection he with he
  rw [← he]
  repeat' with_reducible first | intro _ | assumption | apply keeps_ite | apply State.chrNent_keeps | apply State.guarded_keeps | apply State.alive_keeps | split | dsimp only

theorem State.chrOp_keeps {m : Master} {op : Nat} (hk : Keeps ref s) : Keeps ref (State.chrOp s m op) := by
  unfold State.chrOp
  repeat' with_reducible first | intro _ | assumption | apply keeps_ite | apply State.chrOpen_keeps | apply State.ignored_keeps | apply State.chrAbort_keeps | apply State.chrValidate_keeps | apply State.chrCommitOp_keeps | split | dsimp only

theorem execChrOpen_keeps {m : Master} (hk : Keeps ref s) {t' : State} (he : execChrOpen m s = .next t') : Keeps ref t' := by
  injection he with he
  rw [← he]
  repeat' with_reducible first | intro _ | assumption | apply keeps_ite | apply State.chrOpen_keeps | apply State.guarded_keeps | apply State.alive_keeps | split | dsimp only

theorem execChrValidate_keeps {m : Master} (hk : Keeps ref s) {t' : State} (he : execChrValidate m s = .next t') : Keeps ref t' := by
  injection he with he
  rw [← he]
  repeat' with_reducible first | intro _ | assumption | apply keeps_ite | apply State.guarded_keeps | apply State.chrValidate_keeps | apply State.alive_keeps | split | dsimp only

theorem execChrEntryWrite_keeps {m : Master} {i : Fin 4096} {word : Fin 3} {value : Word} (hk : Keeps ref s) {t' : State} (he : execChrEntryWrite m i word value s = .next t') : Keeps ref t' := by
  injection he with he
  rw [← he]
  repeat' with_reducible first | intro _ | assumption | apply keeps_ite | apply State.guarded_keeps | apply State.chrWrite_keeps | apply State.alive_keeps | split | dsimp only

theorem execChrAbort_keeps {m : Master} (hk : Keeps ref s) {t' : State} (he : execChrAbort m s = .next t') : Keeps ref t' := by
  injection he with he
  rw [← he]
  repeat' with_reducible first | intro _ | assumption | apply keeps_ite | apply State.guarded_keeps | apply State.chrAbort_keeps | apply State.alive_keeps | split | dsimp only

theorem execChrCommit_keeps {m : Master} (hk : Keeps ref s) {t' : State} (he : execChrCommit m s = .next t') : Keeps ref t' := by
  injection he with he
  rw [← he]
  repeat' with_reducible first | intro _ | assumption | apply keeps_ite | apply State.guarded_keeps | apply State.chrCommitOp_keeps | apply State.alive_keeps | split | dsimp only

end Sys2Proof.Machine
end

