-- ==== Sys2Proof/Laws/KeepsDma.lean ====
section
/-! SUPPORT. The operations of Machine/Dma.lean keep what Laws/Keeps.lean says. -/

namespace Sys2Proof.Machine

variable {ref s : State}

theorem State.dmaUnwatch_keeps {ch : Nat} (hk : Keeps ref s) : Keeps ref (State.dmaUnwatch s ch) := by
  unfold State.dmaUnwatch
  repeat' with_reducible first | intro _ | assumption | apply keeps_ite | apply State.replied_keeps | apply State.onDma_keeps | apply State.onIface_keeps | apply State.foff_keeps | split | dsimp only

theorem State.dmaDo_keeps {ch : Nat} {f : State → State} (hk : Keeps ref s) (hkf : ∀ t, Keeps ref t → Keeps ref (f t)) : Keeps ref (State.dmaDo s ch f) := by
  unfold State.dmaDo
  repeat' with_reducible first | intro _ | assumption | apply keeps_ite | apply State.iff_keeps | apply forL_keeps | apply State.emit_keeps | apply State.emitIrq_keeps | apply hkf | split | dsimp only

theorem State.dmaFail_keeps {ch : Nat} {code : Nat} {fault : Nat} (hk : Keeps ref s) : Keeps ref (State.dmaFail s ch code fault) := by
  unfold State.dmaFail
  repeat' with_reducible first | intro _ | assumption | apply keeps_ite | apply State.wr64_keeps | apply State.fset_keeps | apply State.dmaUnwatch_keeps | apply State.raise_keeps | apply State.dmaDo_keeps | apply State.onDma_keeps | apply State.fon_keeps | apply State.count_keeps | split | dsimp only

theorem State.dmaError_keeps {ch : Nat} {code : Nat} {fault : Nat} (hk : Keeps ref s) : Keeps ref (State.dmaError s ch code fault) := by
  unfold State.dmaError
  repeat' with_reducible first | intro _ | assumption | apply keeps_ite | apply State.onDma_keeps | apply State.dmaFail_keeps | split | dsimp only

theorem State.dmaRead1_keeps {ch : Nat} {m : MoveOp} {n : Nat} {ecc : Ecc} (hk : Keeps ref s) : Keeps ref (State.dmaRead1 s ch m n ecc) := by
  unfold State.dmaRead1
  repeat' with_reducible first | intro _ | assumption | apply keeps_ite | apply State.memRead_keeps | apply State.dmaError_keeps | apply State.ddrHold_keeps | apply State.onDma_keeps | apply State.emit_keeps | refine Keeps.pair ?_ (by assumption) | split | dsimp only

theorem State.dmaUp_keeps {ch : Nat} {f : State → State} (hk : Keeps ref s) (hkf : ∀ t, Keeps ref t → Keeps ref (f t)) : Keeps ref (State.dmaUp s ch f) := by
  unfold State.dmaUp
  repeat' with_reducible first | intro _ | assumption | apply keeps_ite | apply State.alive_keeps | apply hkf | split | dsimp only

theorem execDmaPaused_keeps {ch : Fin 1056} (hk : Keeps ref s) {t' : State} (he : execDmaPaused ch s = .next t') : Keeps ref t' := by
  injection he with he
  rw [← he]
  repeat' with_reducible first | intro _ | assumption | apply keeps_ite | apply State.dmaUp_keeps | apply State.fset_keeps | apply State.dmaUnwatch_keeps | split | dsimp only

theorem State.dmaFound_keeps {ch : Nat} {w : DmaWait} (hk : Keeps ref s) : Keeps ref (State.dmaFound s ch w) := by
  unfold State.dmaFound
  repeat' with_reducible first | intro _ | assumption | apply keeps_ite | apply State.onDma_keeps | split | dsimp only

theorem State.dmaGo_keeps {ch : Nat} {pc : Nat} (hk : Keeps ref s) : Keeps ref (State.dmaGo s ch pc) := by
  unfold State.dmaGo
  repeat' with_reducible first | intro _ | assumption | apply keeps_ite | apply State.dmaError_keeps | apply State.fset_keeps | apply State.onDma_keeps | split | dsimp only

theorem State.dmaWritten_keeps {ch : Nat} {m : MoveOp} {n : Nat} (hk : Keeps ref s) : Keeps ref (State.dmaWritten s ch m n) := by
  unfold State.dmaWritten
  repeat' with_reducible first | intro _ | assumption | apply keeps_ite | apply State.wr_keeps | apply State.wrN_keeps | apply State.dmaGo_keeps | apply State.mopen_keeps | split | dsimp only

theorem State.dmaWrite1_keeps {ch : Nat} {m : MoveOp} (hk : Keeps ref s) : Keeps ref (State.dmaWrite1 s ch m) := by
  unfold State.dmaWrite1
  repeat' with_reducible first | intro _ | assumption | apply keeps_ite | apply State.dmaError_keeps | apply State.ddrHold_keeps | apply State.onDma_keeps | apply State.dmaWritten_keeps | apply State.memWrite_keeps | apply State.emit_keeps | refine Keeps.pair ?_ (by assumption) | split | dsimp only

theorem State.dmaWriteOut_keeps {ch : Nat} {m : MoveOp} {y3 : Nat} (hk : Keeps ref s) : Keeps ref (State.dmaWriteOut s ch m y3) := by
  induction y3 generalizing s ch m with
  | zero =>
    unfold State.dmaWriteOut
    repeat' with_reducible first | intro _ | assumption | apply keeps_ite | apply State.dmaWrite1_keeps | split | dsimp only
  | succ _ ih =>
    unfold State.dmaWriteOut
    repeat' with_reducible first | intro _ | assumption | apply ih | apply keeps_ite | apply State.dmaWrite1_keeps | split | dsimp only

theorem State.dmaTake_keeps {ch : Nat} (hk : Keeps ref s) : Keeps ref (State.dmaTake s ch) := by
  unfold State.dmaTake
  repeat' with_reducible first | intro _ | assumption | apply keeps_ite | apply State.onDma_keeps | split | dsimp only

theorem State.dmaEnds_keeps {ch : Nat} (hk : Keeps ref s) : Keeps ref (State.dmaEnds s ch) := by
  unfold State.dmaEnds
  repeat' with_reducible first | intro _ | assumption | apply keeps_ite | apply State.dmaFail_keeps | split | dsimp only

theorem State.dmaAcked_keeps {ch : Nat} {w : DmaWait} (hk : Keeps ref s) : Keeps ref (State.dmaAcked s ch w) := by
  unfold State.dmaAcked
  repeat' with_reducible first | intro _ | assumption | apply keeps_ite | apply State.dmaWriteOut_keeps | apply State.dmaTake_keeps | apply State.dmaEnds_keeps | apply State.dmaWritten_keeps | split | dsimp only

theorem State.dmaRefused_keeps {ch : Nat} {w : DmaWait} {code : Nat} (hk : Keeps ref s) : Keeps ref (State.dmaRefused s ch w code) := by
  unfold State.dmaRefused
  repeat' with_reducible first | intro _ | assumption | apply keeps_ite | apply State.dmaTake_keeps | apply State.dmaEnds_keeps | apply State.dmaFail_keeps | split | dsimp only

theorem State.dmaStatus_keeps {ch : Nat} {code : Nat} {p : DmaWait → Bool} (hk : Keeps ref s) : Keeps ref (State.dmaStatus s ch code p) := by
  unfold State.dmaStatus
  repeat' with_reducible first | intro _ | assumption | apply keeps_ite | apply State.dmaFound_keeps | apply State.dmaAcked_keeps | apply State.dmaRefused_keeps | split | dsimp only

theorem State.setStride_keeps {ch : Nat} {l : Nat} {v : Int × Int} (hk : Keeps ref s) : Keeps ref (State.setStride s ch l v) := by
  unfold State.setStride
  repeat' with_reducible first | intro _ | assumption | apply keeps_ite | apply State.onDma_keeps | split | dsimp only

theorem State.dmaRereadLevel_keeps {ch l : Nat} (hk : Keeps ref s) : Keeps ref (s.dmaRereadLevel ch l).1 := by
  unfold State.dmaRereadLevel
  dsimp only
  have h := State.memRead_keeps (w := .dma ch) (kind := 0) (a := s.dmaAddr ch (s.fget (Reg.DMA_LOOP_PC_BODY ch l) - 1) / 64 * 64) (n := 64)
    (ecc := .none) (quiet := false) hk
  generalize s.memRead _ _ _ _ _ _ = p at h ⊢
  exact keeps_ite1 hk.fst (keeps_ite1 hk.fst (keeps_ite1 h.fst (keeps_ite1 h.fst (State.setStride_keeps h).fst)))


theorem State.dmaReread_keeps {ch : Nat} {y2 : List Nat} (hk : Keeps ref s) : Keeps ref (State.dmaReread s ch y2).1 := by
  induction y2 generalizing s ch with
  | nil =>
    unfold State.dmaReread
    repeat' with_reducible first | intro _ | assumption | apply keeps_ite | apply keeps_ite1 | apply State.dmaRereadLevel_keeps | refine Keeps.pair ?_ (by assumption) | split | dsimp only
  | cons _ _ ih =>
    unfold State.dmaReread
    repeat' with_reducible first | intro _ | assumption | apply ih | apply keeps_ite | apply keeps_ite1 | apply State.dmaRereadLevel_keeps | refine Keeps.pair ?_ (by assumption) | split | dsimp only

theorem State.dmaResume_keeps {ch : Nat} (hk : Keeps ref s) : Keeps ref (State.dmaResume s ch) := by
  unfold State.dmaResume
  repeat' with_reducible first | intro _ | assumption | apply keeps_ite | apply State.dmaError_keeps | apply State.fset_keeps | apply State.dmaReread_keeps | apply State.onDma_keeps | apply State.foff_keeps | refine Keeps.pair ?_ (by assumption) | split | dsimp only

theorem State.dmaPause_keeps {ch : Nat} (hk : Keeps ref s) : Keeps ref (State.dmaPause s ch) := by
  unfold State.dmaPause
  repeat' with_reducible first | intro _ | assumption | apply keeps_ite | apply State.fset_keeps | apply State.fon_keeps | split | dsimp only

theorem State.dmaDisable_keeps {ch : Nat} (hk : Keeps ref s) : Keeps ref (State.dmaDisable s ch) := by
  unfold State.dmaDisable
  repeat' with_reducible first | intro _ | assumption | apply keeps_ite | apply State.fset_keeps | apply State.dmaUnwatch_keeps | apply State.wrN_keeps | apply State.onDma_keeps | apply forN_keeps | apply State.drawnN_keeps | apply State.foff_keeps | split | dsimp only

theorem State.dmaBit30_keeps {ch : Nat} (hk : Keeps ref s) : Keeps ref (State.dmaBit30 s ch) := by
  unfold State.dmaBit30
  repeat' with_reducible first | intro _ | assumption | apply keeps_ite | apply State.dmaPause_keeps | apply State.dmaDisable_keeps | split | dsimp only

theorem execDmaPause_keeps {m : Master} {ch : Fin 1056} (hk : Keeps ref s) {t' : State} (he : execDmaPause m ch s = .next t') : Keeps ref t' := by
  injection he with he
  rw [← he]
  repeat' with_reducible first | intro _ | assumption | apply keeps_ite | apply State.dmaBit30_keeps | apply State.guarded_keeps | apply State.alive_keeps | split | dsimp only

theorem State.dmaBadField_keeps {ch : Nat} (hk : Keeps ref s) : Keeps ref (State.dmaBadField s ch) := by
  unfold State.dmaBadField
  repeat' with_reducible first | intro _ | assumption | apply keeps_ite | apply State.dmaError_keeps | split | dsimp only

theorem State.dmaOp_keeps {ch : Nat} {op : Nat} {f : Nat → State → State} (hk : Keeps ref s) (hkf : ∀ x0 t, Keeps ref t → Keeps ref (f x0 t)) : Keeps ref (State.dmaOp s ch op f) := by
  unfold State.dmaOp
  repeat' with_reducible first | intro _ | assumption | apply keeps_ite | apply hkf | split | dsimp only

theorem execDmaEnd_keeps {ch : Fin 1056} (hk : Keeps ref s) {t' : State} (he : execDmaEnd ch s = .next t') : Keeps ref t' := by
  injection he with he
  rw [← he]
  repeat' with_reducible first | intro _ | assumption | apply keeps_ite | apply State.dmaBadField_keeps | apply State.dmaUp_keeps | apply State.iff_keeps | apply State.fset_keeps | apply State.dmaDo_keeps | apply State.fon_keeps | apply State.count_keeps | apply State.foff_keeps | apply State.dmaOp_keeps | split | dsimp only

theorem State.dmaWatch_keeps {ch : Nat} (hk : Keeps ref s) : Keeps ref (State.dmaWatch s ch) := by
  unfold State.dmaWatch
  repeat' with_reducible first | intro _ | assumption | apply keeps_ite | apply State.request_keeps | split | dsimp only

theorem execDmaWatchResend_keeps {ch : Fin 1056} (hk : Keeps ref s) {t' : State} (he : execDmaWatchResend ch s = .next t') : Keeps ref t' := by
  injection he with he
  rw [← he]
  repeat' with_reducible first | intro _ | assumption | apply keeps_ite | apply State.dmaUp_keeps | apply State.onDma_keeps | apply State.count_keeps | apply State.dmaWatch_keeps | split | dsimp only

theorem State.dmaRun_keeps {ch : Nat} {ie : Bool} {sel : Bool} (hk : Keeps ref s) : Keeps ref (State.dmaRun s ch ie sel) := by
  unfold State.dmaRun
  repeat' with_reducible first | intro _ | assumption | apply keeps_ite | apply State.fset_keeps | apply State.ignored_keeps | apply State.dmaUnwatch_keeps | apply State.wr_keeps | apply State.onDma_keeps | apply State.fflag_keeps | apply State.foff_keeps | split | dsimp only

theorem execDmaStart_keeps {m : Master} {ch : Fin 1056} {ie : Bool} {sel : Bool} (hk : Keeps ref s) {t' : State} (he : execDmaStart m ch ie sel s = .next t') : Keeps ref t' := by
  injection he with he
  rw [← he]
  repeat' with_reducible first | intro _ | assumption | apply keeps_ite | apply State.dmaRun_keeps | apply State.dmaDo_keeps | apply State.guarded_keeps | apply State.alive_keeps | split | dsimp only

theorem State.dmaResumeMove_keeps {ch : Nat} (hk : Keeps ref s) : Keeps ref (State.dmaResumeMove s ch) := by
  unfold State.dmaResumeMove
  repeat' with_reducible first | intro _ | assumption | apply keeps_ite | apply State.dmaWriteOut_keeps | split | dsimp only

theorem execDmaBadOp_keeps {ch : Fin 1056} (hk : Keeps ref s) {t' : State} (he : execDmaBadOp ch s = .next t') : Keeps ref t' := by
  injection he with he
  rw [← he]
  repeat' with_reducible first | intro _ | assumption | apply keeps_ite | apply State.dmaError_keeps | apply State.dmaUp_keeps | split | dsimp only

theorem execWait_keeps {ch : Fin 1056} (hk : Keeps ref s) {t' : State} (he : execWait ch s = .next t') : Keeps ref t' := by
  injection he with he
  rw [← he]
  repeat' with_reducible first | intro _ | assumption | apply keeps_ite | apply State.dmaBadField_keeps | apply State.dmaUp_keeps | apply State.fset_keeps | apply State.onDma_keeps | apply State.fon_keeps | apply State.dmaWatch_keeps | apply State.dmaOp_keeps | split | dsimp only

theorem State.dmaHold_keeps {ch : Nat} {g : Nat} {l : List Byte} (hk : Keeps ref s) : Keeps ref (State.dmaHold s ch g l) := by
  unfold State.dmaHold
  repeat' with_reducible first | intro _ | assumption | apply keeps_ite | apply State.onDma_keeps | split | dsimp only

theorem State.dmaData_keeps {ch : Nat} {w : DmaWait} {l : List Byte} (hk : Keeps ref s) : Keeps ref (State.dmaData s ch w l) := by
  unfold State.dmaData
  repeat' with_reducible first | intro _ | assumption | apply keeps_ite | apply State.dmaTake_keeps | apply State.dmaEnds_keeps | apply State.dmaHold_keeps | apply State.dmaResumeMove_keeps | apply State.onDma_keeps | split | dsimp only

theorem State.dmaRdData_keeps {ch : Nat} {a : Nat} {index : Nat} {l : List Byte} {poison : Bool} (hk : Keeps ref s) : Keeps ref (State.dmaRdData s ch a index l poison) := by
  unfold State.dmaRdData
  repeat' with_reducible first | intro _ | assumption | apply keeps_ite | apply State.dmaFound_keeps | apply State.dmaData_keeps | apply State.onDma_keeps | apply State.dmaRefused_keeps | split | dsimp only

theorem State.dmaBadLoop_keeps {ch : Nat} (hk : Keeps ref s) : Keeps ref (State.dmaBadLoop s ch) := by
  unfold State.dmaBadLoop
  repeat' with_reducible first | intro _ | assumption | apply keeps_ite | apply State.dmaError_keeps | split | dsimp only

theorem execLoop_keeps {ch : Fin 1056} (hk : Keeps ref s) {t' : State} (he : execLoop ch s = .next t') : Keeps ref t' := by
  injection he with he
  rw [← he]
  repeat' with_reducible first | intro _ | assumption | apply keeps_ite | apply State.dmaBadLoop_keeps | apply State.dmaUp_keeps | apply State.fset_keeps | apply State.setStride_keeps | apply State.dmaGo_keeps | apply State.foff_keeps | apply State.dmaOp_keeps | split | dsimp only

theorem execDmaNotice_keeps {ch : Fin 1056} {obj : BitVec 16} {thr : Word} {eq : Bool} {kind : Fin 3} (hk : Keeps ref s) {t' : State} (he : execDmaNotice ch obj thr eq kind s = .next t') : Keeps ref t' := by
  injection he with he
  rw [← he]
  repeat' with_reducible first | intro _ | assumption | apply keeps_ite | apply State.dmaError_keeps | apply State.dmaUp_keeps | apply State.iff_keeps | apply State.replied_keeps | apply State.fset_keeps | apply State.dmaUnwatch_keeps | apply State.onDma_keeps | apply State.dmaGo_keeps | apply State.count_keeps | split | dsimp only

theorem State.dmaProceed_keeps {ch : Nat} {m : MoveOp} {pc : Nat} {n : Nat} {ecc : List (Nat × Ecc)} {y6 : Nat} (hk : Keeps ref s) : Keeps ref (State.dmaProceed s ch m pc n ecc y6) := by
  induction y6 generalizing s ch m pc n ecc with
  | zero =>
    unfold State.dmaProceed
    repeat' with_reducible first | intro _ | assumption | apply keeps_ite | apply State.dmaRead1_keeps | apply State.dmaWriteOut_keeps | split | dsimp only
  | succ _ ih =>
    unfold State.dmaProceed
    repeat' with_reducible first | intro _ | assumption | apply ih | apply keeps_ite | apply State.dmaRead1_keeps | apply State.dmaWriteOut_keeps | split | dsimp only

theorem execMove_keeps {ch : Fin 1056} {n : Word} {ecc : List (BitVec 32 × Ecc)} (hk : Keeps ref s) {t' : State} (he : execMove ch n ecc s = .next t') : Keeps ref t' := by
  injection he with he
  rw [← he]
  repeat' with_reducible first | intro _ | assumption | apply keeps_ite | apply State.dmaBadField_keeps | apply State.dmaError_keeps | apply State.dmaUp_keeps | apply State.dmaProceed_keeps | apply State.dmaOp_keeps | split | dsimp only

theorem execEndloop_keeps {ch : Fin 1056} (hk : Keeps ref s) {t' : State} (he : execEndloop ch s = .next t') : Keeps ref t' := by
  injection he with he
  rw [← he]
  repeat' with_reducible first | intro _ | assumption | apply keeps_ite | apply State.dmaBadLoop_keeps | apply State.dmaBadField_keeps | apply State.dmaUp_keeps | apply State.fset_keeps | apply State.dmaGo_keeps | apply State.dmaOp_keeps | split | dsimp only

theorem execDmaResume_keeps {m : Master} {ch : Fin 1056} (hk : Keeps ref s) {t' : State} (he : execDmaResume m ch s = .next t') : Keeps ref t' := by
  injection he with he
  rw [← he]
  repeat' with_reducible first | intro _ | assumption | apply keeps_ite | apply State.dmaResume_keeps | apply State.guarded_keeps | apply State.alive_keeps | split | dsimp only

theorem execDmaSignal_keeps {ch : Fin 1056} (hk : Keeps ref s) {t' : State} (he : execDmaSignal ch s = .next t') : Keeps ref t' := by
  injection he with he
  rw [← he]
  repeat' with_reducible first | intro _ | assumption | apply keeps_ite | apply State.dmaBadField_keeps | apply State.dmaUp_keeps | apply State.request_keeps | apply State.onDma_keeps | apply State.dmaGo_keeps | apply State.dmaOp_keeps | split | dsimp only

theorem State.dmaSignalReply_keeps {ch : Nat} {obj : Nat} {code : Nat} (hk : Keeps ref s) : Keeps ref (State.dmaSignalReply s ch obj code) := by
  unfold State.dmaSignalReply
  repeat' with_reducible first | intro _ | assumption | apply keeps_ite | apply State.dmaError_keeps | apply State.onDma_keeps | split | dsimp only

theorem execDmaProgramFetch_keeps {ch : Fin 1056} {k : Fin 3} {ecc : Ecc} (hk : Keeps ref s) {t' : State} (he : execDmaProgramFetch ch k ecc s = .next t') : Keeps ref t' := by
  injection he with he
  rw [← he]
  repeat' with_reducible first | intro _ | assumption | apply keeps_ite | apply State.memRead_keeps | apply State.dmaError_keeps | apply State.dmaUp_keeps | apply State.dmaHold_keeps | apply State.ddrHold_keeps | apply State.onDma_keeps | refine Keeps.pair ?_ (by assumption) | split | dsimp only

theorem execDmaReplyTimeout_keeps {ch : Fin 1056} (hk : Keeps ref s) {t' : State} (he : execDmaReplyTimeout ch s = .next t') : Keeps ref t' := by
  injection he with he
  rw [← he]
  repeat' with_reducible first | intro _ | assumption | apply keeps_ite | apply State.dmaError_keeps | apply State.dmaUp_keeps | apply State.onDma_keeps | apply State.dmaRefused_keeps | split | dsimp only

theorem State.dmaWatchRefused_keeps {ch : Nat} {obj : Nat} (hk : Keeps ref s) : Keeps ref (State.dmaWatchRefused s ch obj) := by
  unfold State.dmaWatchRefused
  repeat' with_reducible first | intro _ | assumption | apply keeps_ite | apply State.dmaError_keeps | apply State.onDma_keeps | split | dsimp only

theorem execHostCompletion_keeps {ch : Fin 1056} {ok : Bool} {data : List Byte} (hk : Keeps ref s) {t' : State} (he : execHostCompletion ch ok data s = .next t') : Keeps ref t' := by
  injection he with he
  rw [← he]
  repeat' with_reducible first | intro _ | assumption | apply keeps_ite | apply State.dmaFound_keeps | apply State.dmaUp_keeps | apply State.dmaAcked_keeps | apply State.dmaData_keeps | apply State.dmaRefused_keeps | split | dsimp only

theorem execDmaDisable_keeps {m : Master} {ch : Fin 1056} (hk : Keeps ref s) {t' : State} (he : execDmaDisable m ch s = .next t') : Keeps ref t' := by
  injection he with he
  rw [← he]
  repeat' with_reducible first | intro _ | assumption | apply keeps_ite | apply State.dmaBit30_keeps | apply State.guarded_keeps | apply State.alive_keeps | split | dsimp only

end Sys2Proof.Machine
end

