-- ==== Sys2Proof/Laws/KeepsTrust.lean ====
section
/-! SUPPORT. The operations of Machine/Trust.lean keep what Laws/Keeps.lean says. -/

namespace Sys2Proof.Machine

variable {ref s : State}

theorem State.newChallenge_keeps  (hk : Keeps ref s) : Keeps ref (State.newChallenge s) := by
  unfold State.newChallenge
  repeat' with_reducible first | intro _ | assumption | apply keeps_ite | apply State.wrWords_keeps | apply State.drawnN_keeps | split | dsimp only

theorem State.secureOnly_keeps {m : Master} {f : State → State} (hk : Keeps ref s) (hkf : ∀ t, Keeps ref t → Keeps ref (f t)) : Keeps ref (State.secureOnly s m f) := by
  unfold State.secureOnly
  repeat' with_reducible first | intro _ | assumption | apply keeps_ite | apply State.count_keeps | apply hkf | split | dsimp only

theorem State.regBytesPut_keeps {o : Nat} {l : List Byte} (h : Keeps ref s) : Keeps ref (s.regBytesPut o l) := by
  fun_induction State.regBytesPut s o l with
  | case1 s o a b c d r ih => exact ih (State.wrN_keeps h)
  | case2 => exact h


theorem State.extend_keeps {i : Nat} {d : List Byte} (hk : Keeps ref s) : Keeps ref (State.extend s i d) := by
  unfold State.extend
  repeat' with_reducible first | intro _ | assumption | apply keeps_ite | apply State.regBytesPut_keeps | split | dsimp only

theorem State.measureExtend_keeps {i : Nat} (hk : Keeps ref s) : Keeps ref (State.measureExtend s i) := by
  unfold State.measureExtend
  repeat' with_reducible first | intro _ | assumption | apply keeps_ite | apply State.ignored_keeps | apply State.extend_keeps | split | dsimp only

theorem execMeasureExtend_keeps {m : Master} {i : Fin 8} (hk : Keeps ref s) {t' : State} (he : execMeasureExtend m i s = .next t') : Keeps ref t' := by
  injection he with he
  rw [← he]
  repeat' with_reducible first | intro _ | assumption | apply keeps_ite | apply State.fset_keeps | apply State.secureOnly_keeps | apply State.measureExtend_keeps | apply State.guarded_keeps | apply State.alive_keeps | split | dsimp only

theorem State.debugUnlock_keeps  (hk : Keeps ref s) : Keeps ref (State.debugUnlock s) := by
  unfold State.debugUnlock
  repeat' with_reducible first | intro _ | assumption | apply keeps_ite | apply State.iff_keeps | apply State.ignored_keeps | apply State.newChallenge_keeps | apply State.fon_keeps | apply State.extend_keeps | split | dsimp only

theorem execDebugUnlock_keeps {m : Master} (hk : Keeps ref s) {t' : State} (he : execDebugUnlock m s = .next t') : Keeps ref t' := by
  injection he with he
  rw [← he]
  repeat' with_reducible first | intro _ | assumption | apply keeps_ite | apply State.debugUnlock_keeps | apply State.secureOnly_keeps | apply State.guarded_keeps | apply State.alive_keeps | split | dsimp only

theorem State.attestSign_keeps  (hk : Keeps ref s) : Keeps ref (State.attestSign s) := by
  unfold State.attestSign
  repeat' with_reducible first | intro _ | assumption | apply keeps_ite | apply State.ignored_keeps | refine State.onTrust_keeps ?_ (by intro t w; with_unfolding_all exact w) | apply State.fon_keeps | split | dsimp only

theorem execAttestSign_keeps {m : Master} {mask : BitVec 8} (hk : Keeps ref s) {t' : State} (he : execAttestSign m mask s = .next t') : Keeps ref t' := by
  injection he with he
  rw [← he]
  repeat' with_reducible first | intro _ | assumption | apply keeps_ite | apply State.attestSign_keeps | apply State.fset_keeps | apply State.secureOnly_keeps | apply State.guarded_keeps | apply State.alive_keeps | split | dsimp only

theorem State.bootMeasure_keeps {img : List Byte} (hk : Keeps ref s) : Keeps ref (State.bootMeasure s img) := by
  unfold State.bootMeasure
  repeat' with_reducible first | intro _ | assumption | apply keeps_ite | apply State.regBytesPut_keeps | apply State.fset_keeps | apply forL_keeps | apply State.wrN_keeps | apply State.fon_keeps | apply State.extend_keeps | split | dsimp only

theorem State.stageWrite_keeps {m : Master} {off : Nat} {v : Word} (h : Keeps ref s) : Keeps ref (s.stageWrite m off v) :=
  keeps_ite (State.ignored_keeps h) (State.onTrust_keeps h fun _ w => Memory.write_wf _ _ w)


theorem execSignEnd_keeps  (hk : Keeps ref s) {t' : State} (he : execSignEnd s = .next t') : Keeps ref t' := by
  injection he with he
  rw [← he]
  repeat' with_reducible first | intro _ | assumption | apply keeps_ite | apply State.regBytesPut_keeps | refine State.onTrust_keeps ?_ (by intro t w; with_unfolding_all exact w) | apply State.alive_keeps | apply State.foff_keeps | split | dsimp only

end Sys2Proof.Machine
end

