-- ==== Sys2Proof/Laws/KeepsFaultRec.lean ====
section
/-! SUPPORT. The operations of Machine/FaultRec.lean keep what Laws/Keeps.lean says. -/

namespace Sys2Proof.Machine

variable {ref s : State}

theorem State.instarBegin_keeps {k : Nat} (hk : Keeps ref s) : Keeps ref (State.instarBegin s k) := by
  unfold State.instarBegin
  repeat' with_reducible first | intro _ | assumption | apply keeps_ite | apply State.wr64_keeps | apply State.fset_keeps | apply State.wrN_keeps | apply State.onAon_keeps | split | dsimp only

theorem State.startUp_keeps  (hk : Keeps ref s) : Keeps ref (State.startUp s) := by
  unfold State.startUp
  repeat' with_reducible first | intro _ | assumption | apply keeps_ite | apply State.fset_keeps | apply State.newChallenge_keeps | apply State.fflag_keeps | apply State.instarBegin_keeps | split | dsimp only

theorem State.chipReset_keeps (h : Keeps ref s) : Keeps ref s.chipReset := by
  unfold State.chipReset
  refine State.fflag_keeps (State.wrWords_keeps ⟨?_, h.2.1, h.2.2.1, Nat.le_succ_of_le h.2.2.2.1, h.2.2.2.2⟩)
  have w := h.wfStore
  rw [canonical_iff]
  exact ⟨rfl, rfl, rfl, rfl, rfl, rfl, rfl, rfl, rfl, rfl, rfl, rfl, rfl, rfl, rfl, rfl, rfl, rfl, w.1, w.2.1, w.2.2.1, w.2.2.2, rfl⟩


theorem State.hold_keeps {why : Nat} (hk : Keeps ref s) : Keeps ref (State.hold s why) := by
  unfold State.hold
  repeat' with_reducible first | intro _ | assumption | apply keeps_ite | apply State.onAon_keeps | split | dsimp only

theorem State.setCause_keeps {src : Nat} {b : Bool} (hk : Keeps ref s) : Keeps ref (State.setCause s src b) := by
  unfold State.setCause
  repeat' with_reducible first | intro _ | assumption | apply keeps_ite | apply State.fflag_keeps | split | dsimp only

theorem State.recMerge_keeps {src : Nat} {set : Nat} {lasting : Bool} (hk : Keeps ref s) : Keeps ref (State.recMerge s src set lasting) := by
  unfold State.recMerge
  repeat' with_reducible first | intro _ | assumption | apply keeps_ite | apply State.iff_keeps | apply State.fset_keeps | apply State.fcount_keeps | apply State.wr_keeps | apply State.fon_keeps | split | dsimp only

theorem State.recOpen_keeps {src : Nat} {kind : Nat} {index : Nat} {detail : Word} {set : Nat} {lasting : Bool} (hk : Keeps ref s) : Keeps ref (State.recOpen s src kind index detail set lasting) := by
  unfold State.recOpen
  repeat' with_reducible first | intro _ | assumption | apply keeps_ite | apply State.wr64_keeps | apply State.wr_keeps | apply State.wrN_keeps | split | dsimp only

theorem State.refreshCauses_keeps  (hk : Keeps ref s) : Keeps ref (State.refreshCauses s) := by
  unfold State.refreshCauses
  repeat' with_reducible first | intro _ | assumption | apply keeps_ite | apply forL_keeps | apply State.setCause_keeps | split | dsimp only

theorem State.release_keeps {why : Nat} (hk : Keeps ref s) : Keeps ref (State.release s why) := by
  unfold State.release
  repeat' with_reducible first | intro _ | assumption | apply keeps_ite | apply State.onAon_keeps | apply State.startUp_keeps | split | dsimp only

theorem State.copyPrev_keeps  (hk : Keeps ref s) : Keeps ref (State.copyPrev s) := by
  unfold State.copyPrev
  repeat' with_reducible first | intro _ | assumption | apply keeps_ite | apply State.wrWords_keeps | apply State.fon_keeps | split | dsimp only

theorem State.resetHeldBy_keeps {src : Nat} {why : Nat} (hk : Keeps ref s) : Keeps ref (State.resetHeldBy s src why) := by
  unfold State.resetHeldBy
  repeat' with_reducible first | intro _ | assumption | apply keeps_ite | apply State.recMerge_keeps | apply State.hold_keeps | apply State.copyPrev_keeps | apply State.recOpen_keeps | apply State.chipReset_keeps | split | dsimp only

end Sys2Proof.Machine
end

