-- ==== Sys2Proof/Laws/KeepsTimeBase.lean ====
section
/-! SUPPORT. The operations of Machine/TimeBase.lean keep what Laws/Keeps.lean says. -/

namespace Sys2Proof.Machine

variable {ref s : State}

theorem State.setLevel_keeps {p : Nat} {b : Bool} (hk : Keeps ref s) : Keeps ref (State.setLevel s p b) := by
  unfold State.setLevel
  repeat' with_reducible first | intro _ | assumption | apply keeps_ite | apply State.iff_keeps | apply State.fset_keeps | apply State.setPin_keeps | split | dsimp only

theorem State.timerAction_keeps {k : Nat} {e : Nat} {act : Nat} {p : Nat} (hk : Keeps ref s) : Keeps ref (State.timerAction s k e act p) := by
  unfold State.timerAction
  repeat' with_reducible first | intro _ | assumption | apply keeps_ite | apply State.setPin_keeps | apply State.setLevel_keeps | apply foldlPair_keeps | apply foldl_keeps | refine Keeps.pair ?_ (by assumption) | split | dsimp only

theorem State.timerIrq_keeps {k : Nat} {f : State → State} (hk : Keeps ref s) (hkf : ∀ t, Keeps ref t → Keeps ref (f t)) : Keeps ref (State.timerIrq s k f) := by
  unfold State.timerIrq
  repeat' with_reducible first | intro _ | assumption | apply keeps_ite | apply State.emit_keeps | apply hkf | split | dsimp only

theorem State.timerCapture_keeps {k : Nat} (hk : Keeps ref s) : Keeps ref (State.timerCapture s k) := by
  unfold State.timerCapture
  repeat' with_reducible first | intro _ | assumption | apply keeps_ite | apply State.timerAction_keeps | apply State.wr64_keeps | apply State.timerIrq_keeps | apply State.fon_keeps | apply State.count_keeps | split | dsimp only

theorem State.timerTicks_keeps {k : Nat} {n : Nat} (hk : Keeps ref s) : Keeps ref (State.timerTicks s k n) := by
  unfold State.timerTicks
  repeat' with_reducible first | intro _ | assumption | apply keeps_ite | apply State.setTimer_keeps | split | dsimp only

theorem State.timerMatch_keeps {k : Nat} (hk : Keeps ref s) : Keeps ref (State.timerMatch s k) := by
  unfold State.timerMatch
  repeat' with_reducible first | intro _ | assumption | apply keeps_ite | apply State.timerAction_keeps | apply State.timerIrq_keeps | apply State.setTimer_keeps | apply State.fon_keeps | apply State.count_keeps | apply State.foff_keeps | split | dsimp only

theorem State.timerCommit_keeps {k : Nat} {v : Nat} (hk : Keeps ref s) : Keeps ref (State.timerCommit s k v) := by
  unfold State.timerCommit
  repeat' with_reducible first | intro _ | assumption | apply keeps_ite | apply State.timerMatch_keeps | apply State.timerIrq_keeps | apply State.setTimer_keeps | apply State.fon_keeps | apply State.foff_keeps | split | dsimp only

theorem State.timerFlush_keeps {k : Nat} (hk : Keeps ref s) : Keeps ref (State.timerFlush s k) := by
  unfold State.timerFlush
  repeat' with_reducible first | intro _ | assumption | apply keeps_ite | apply State.timerMatch_keeps | split | dsimp only

theorem State.timerCmpHi_keeps {k : Nat} {hi : Word} (hk : Keeps ref s) : Keeps ref (State.timerCmpHi s k hi) := by
  unfold State.timerCmpHi
  repeat' with_reducible first | intro _ | assumption | apply keeps_ite | apply State.timerCommit_keeps | apply State.wr_keeps | apply State.setTimer_keeps | apply State.timerFlush_keeps | split | dsimp only

theorem State.pinOn_keeps {p : Nat} (hk : Keeps ref s) : Keeps ref (State.pinOn s p) := by
  unfold State.pinOn
  repeat' with_reducible first | intro _ | assumption | apply keeps_ite | apply State.setLevel_keeps | apply State.count_keeps | split | dsimp only

theorem State.assertPin_keeps {p : Nat} {u : Nat} (hk : Keeps ref s) : Keeps ref (State.assertPin s p u) := by
  unfold State.assertPin
  repeat' with_reducible first | intro _ | assumption | apply keeps_ite | apply State.pinOn_keeps | apply State.setPin_keeps | split | dsimp only

theorem State.assertOrGrid_keeps {p : Nat} {u : Nat} {due : Option Nat} (hk : Keeps ref s) : Keeps ref (State.assertOrGrid s p u due) := by
  unfold State.assertOrGrid
  repeat' with_reducible first | intro _ | assumption | apply keeps_ite | apply State.assertPin_keeps | apply State.setPin_keeps | split | dsimp only

theorem State.trigMap_keeps {n : Nat} {j : Nat} {grade : Nat} {u : Nat} (hk : Keeps ref s) : Keeps ref (State.trigMap s n j grade u) := by
  unfold State.trigMap
  repeat' with_reducible first | intro _ | assumption | apply keeps_ite | apply State.iff_keeps | apply forL_keeps | apply State.assertOrGrid_keeps | apply State.count_keeps | split | dsimp only

theorem execGridEdge_keeps {p : Fin 16} (hk : Keeps ref s) {t' : State} (he : execGridEdge p s = .next t') : Keeps ref t' := by
  injection he with he
  rw [← he]
  repeat' with_reducible first | intro _ | assumption | apply keeps_ite | apply State.assertPin_keeps | apply State.setPin_keeps | apply State.alive_keeps | split | dsimp only

theorem State.setCounter_keeps {v : Int} (h : Keeps ref s) : Keeps ref (s.setCounter v) := h


theorem execSyncArm_keeps {m : Master} (hk : Keeps ref s) {t' : State} (he : execSyncArm m s = .next t') : Keeps ref t' := by
  injection he with he
  rw [← he]
  repeat' with_reducible first | intro _ | assumption | apply keeps_ite | apply State.takenIf_keeps | apply State.guarded_keeps | apply State.fon_keeps | apply State.alive_keeps | split | dsimp only

theorem State.timerStep_keeps {k : Nat} (hk : Keeps ref s) : Keeps ref (State.timerStep s k) := by
  unfold State.timerStep
  repeat' with_reducible first | intro _ | assumption | apply keeps_ite | apply State.wr64_keeps | apply State.setTimer_keeps | split | dsimp only

theorem State.timerApply_keeps {k : Nat} (hk : Keeps ref s) : Keeps ref (State.timerApply s k) := by
  unfold State.timerApply
  repeat' with_reducible first | intro _ | assumption | apply keeps_ite | apply State.timerStep_keeps | apply State.setTimer_keeps | split | dsimp only

theorem State.tickMoves_keeps {old : Nat} (hk : Keeps ref s) : Keeps ref (State.tickMoves s old) := by
  unfold State.tickMoves
  repeat' with_reducible first | intro _ | assumption | apply keeps_ite | apply State.onAon_keeps | split | dsimp only

theorem State.counterLoad_keeps  (hk : Keeps ref s) : Keeps ref (State.counterLoad s) := by
  unfold State.counterLoad
  repeat' with_reducible first | intro _ | assumption | apply keeps_ite | apply State.setCounter_keeps | apply State.tickMoves_keeps | apply State.fon_keeps | refine State.onTb_keeps ?_ (by intro b; first | exact ⟨rfl, rfl, rfl⟩ | (refine ⟨?_, ?_, ?_⟩ <;> (repeat' split) <;> rfl)) | apply State.count_keeps | apply State.foff_keeps | split | dsimp only

theorem State.timerReset_keeps {k : Nat} (hk : Keeps ref s) : Keeps ref (State.timerReset s k) := by
  unfold State.timerReset
  repeat' with_reducible first | intro _ | assumption | apply keeps_ite | apply State.wrZeros_keeps | apply State.timerIrq_keeps | apply State.setTimer_keeps | apply State.foff_keeps | split | dsimp only

theorem State.reportEnd_keeps {kind : Nat} {index : Nat} {e : Nat} (hk : Keeps ref s) : Keeps ref (State.reportEnd s kind index e) := by
  unfold State.reportEnd
  repeat' with_reducible first | intro _ | assumption | apply keeps_ite | refine State.onTb_keeps ?_ (by intro b; first | exact ⟨rfl, rfl, rfl⟩ | (refine ⟨?_, ?_, ?_⟩ <;> (repeat' split) <;> rfl)) | split | dsimp only

theorem State.joinEnds_keeps {kind : Nat} {index : Nat} (hk : Keeps ref s) : Keeps ref (State.joinEnds s kind index) := by
  unfold State.joinEnds
  repeat' with_reducible first | intro _ | assumption | apply keeps_ite | apply forN_keeps | apply State.reportEnd_keeps | split | dsimp only

theorem State.levelReturns_keeps {b : Nat} (hk : Keeps ref s) : Keeps ref (State.levelReturns s b) := by
  unfold State.levelReturns
  repeat' with_reducible first | intro _ | assumption | apply keeps_ite | apply forN_keeps | apply State.setPin_keeps | split | dsimp only

theorem State.timerEnable_keeps {k : Nat} (hk : Keeps ref s) : Keeps ref (State.timerEnable s k) := by
  unfold State.timerEnable
  repeat' with_reducible first | intro _ | assumption | apply keeps_ite | apply State.setTimer_keeps | apply State.fon_keeps | split | dsimp only

theorem execTimerEnable_keeps {k : Fin 16} (hk : Keeps ref s) {t' : State} (he : execTimerEnable k s = .next t') : Keeps ref t' := by
  injection he with he
  rw [← he]
  repeat' with_reducible first | intro _ | assumption | apply keeps_ite | apply State.timerEnable_keeps | apply State.alive_keeps | split | dsimp only

theorem State.timerPerHi_keeps {k : Nat} {hi : Word} (hk : Keeps ref s) : Keeps ref (State.timerPerHi s k hi) := by
  unfold State.timerPerHi
  repeat' with_reducible first | intro _ | assumption | apply keeps_ite | apply State.wr_keeps | apply State.setTimer_keeps | apply State.timerFlush_keeps | split | dsimp only

theorem State.sysrefLoad_keeps  (hk : Keeps ref s) : Keeps ref (State.sysrefLoad s) := by
  unfold State.sysrefLoad
  repeat' with_reducible first | intro _ | assumption | apply keeps_ite | apply State.iff_keeps | refine State.onTb_keeps ?_ (by intro b; first | exact ⟨rfl, rfl, rfl⟩ | (refine ⟨?_, ?_, ?_⟩ <;> (repeat' split) <;> rfl)) | split | dsimp only

theorem execLevelReturn_keeps {p : Fin 16} (hk : Keeps ref s) {t' : State} (he : execLevelReturn p s = .next t') : Keeps ref t' := by
  injection he with he
  rw [← he]
  repeat' with_reducible first | intro _ | assumption | apply keeps_ite | apply State.setPin_keeps | apply State.setLevel_keeps | apply State.alive_keeps | split | dsimp only

theorem State.tick_keeps (h : Keeps ref s) : Keeps ref s.tick := by
  have g (c : DWord) : Keeps ref { s with time := s.time + 1, counter := c, tb := { s.tb with edgeAdds := 1 } } :=
    ⟨(Keeps.upd h rfl rfl rfl rfl).1, h.2.1, Nat.le_succ_of_le h.2.2.1, h.2.2.2⟩
  unfold State.tick
  exact keeps_ite (State.counterLoad_keeps (g _)) (g _)

theorem execSyncSlew_keeps  (hk : Keeps ref s) {t' : State} (he : execSyncSlew s = .next t') : Keeps ref t' := by
  injection he with he
  rw [← he]
  repeat' with_reducible first | intro _ | assumption | apply keeps_ite | refine State.onTb_keeps ?_ (by intro b; first | exact ⟨rfl, rfl, rfl⟩ | (refine ⟨?_, ?_, ?_⟩ <;> (repeat' split) <;> rfl)) | apply State.alive_keeps | split | dsimp only

theorem execTimerReset_keeps {k : Fin 16} (hk : Keeps ref s) {t' : State} (he : execTimerReset k s = .next t') : Keeps ref t' := by
  injection he with he
  rw [← he]
  repeat' with_reducible first | intro _ | assumption | apply keeps_ite | apply State.timerReset_keeps | apply State.alive_keeps | split | dsimp only

theorem execTimerPeriodCommit_keeps {k : Fin 16} {hi : Word} (hk : Keeps ref s) {t' : State} (he : execTimerPeriodCommit k hi s = .next t') : Keeps ref t' := by
  injection he with he
  rw [← he]
  repeat' with_reducible first | intro _ | assumption | apply keeps_ite | apply State.timerPerHi_keeps | apply State.alive_keeps | split | dsimp only

theorem execTimerCompareCommit_keeps {k : Fin 16} {hi : Word} (hk : Keeps ref s) {t' : State} (he : execTimerCompareCommit k hi s = .next t') : Keeps ref t' := by
  injection he with he
  rw [← he]
  repeat' with_reducible first | intro _ | assumption | apply keeps_ite | apply State.timerCmpHi_keeps | apply State.alive_keeps | split | dsimp only

theorem execTimerMatch_keeps {k : Fin 16} (hk : Keeps ref s) {t' : State} (he : execTimerMatch k s = .next t') : Keeps ref t' := by
  injection he with he
  rw [← he]
  repeat' with_reducible first | intro _ | assumption | apply keeps_ite | apply State.timerFlush_keeps | apply State.alive_keeps | split | dsimp only

theorem execTrigInEdge_keeps {k : Fin 16} {rising : Bool} (hk : Keeps ref s) {t' : State} (he : execTrigInEdge k rising s = .next t') : Keeps ref t' := by
  injection he with he
  rw [← he]
  repeat' with_reducible first | intro _ | assumption | apply keeps_ite | apply State.timerApply_keeps | apply State.timerTicks_keeps | apply State.timerCapture_keeps | apply State.setTimer_keeps | apply State.timerFlush_keeps | apply State.alive_keeps | split | dsimp only

theorem execPulseEnd_keeps {p : Fin 16} (hk : Keeps ref s) {t' : State} (he : execPulseEnd p s = .next t') : Keeps ref t' := by
  injection he with he
  rw [← he]
  repeat' with_reducible first | intro _ | assumption | apply keeps_ite | apply State.setPin_keeps | apply State.setLevel_keeps | apply State.alive_keeps | split | dsimp only

theorem execTimerIncrement_keeps {k : Fin 16} {ticks : BitVec 16} (hk : Keeps ref s) {t' : State} (he : execTimerIncrement k ticks s = .next t') : Keeps ref t' := by
  injection he with he
  rw [← he]
  repeat' with_reducible first | intro _ | assumption | apply keeps_ite | apply State.timerApply_keeps | apply State.timerTicks_keeps | apply State.timerFlush_keeps | apply State.alive_keeps | split | dsimp only

end Sys2Proof.Machine
end

