-- ==== Sys2Proof/Laws/KeepsIngest.lean ====
section
/-! SUPPORT. The operations of Machine/Ingest.lean keep what Laws/Keeps.lean says. -/

namespace Sys2Proof.Machine

variable {ref s : State}

theorem State.fsetOpen_keeps {f : FieldRef} {v : Nat} (hk : Keeps ref s) : Keeps ref (State.fsetOpen s f v) := by
  unfold State.fsetOpen
  repeat' with_reducible first | intro _ | assumption | apply keeps_ite | apply State.fset_keeps | apply State.drawn_keeps | split | dsimp only

theorem execSysrefEdge_keeps {offGrid : List (Fin 32)} (hk : Keeps ref s) {t' : State} (he : execSysrefEdge offGrid s = .next t') : Keeps ref t' := by
  injection he with he
  rw [← he]
  repeat' with_reducible first | intro _ | assumption | apply keeps_ite | apply State.onStream_keeps | apply State.iff_keeps | apply forL_keeps | apply State.fcount_keeps | apply State.sysrefLoad_keeps | apply State.fon_keeps | apply State.alive_keeps | split | dsimp only

theorem State.tapPlace_keeps {i : Nat} {r : TapRec} (hk : Keeps ref s) : Keeps ref (State.tapPlace s i r) := by
  unfold State.tapPlace
  repeat' with_reducible first | intro _ | assumption | apply keeps_ite | apply State.onStream_keeps | apply State.wr64_keeps | apply State.count_keeps | split | dsimp only

theorem State.tapDrop_keeps {i : Nat} (hk : Keeps ref s) : Keeps ref (State.tapDrop s i) := by
  unfold State.tapDrop
  repeat' with_reducible first | intro _ | assumption | apply keeps_ite | apply State.onStream_keeps | apply State.count_keeps | split | dsimp only

theorem State.tapPut_keeps {i : Nat} {r : TapRec} (hk : Keeps ref s) : Keeps ref (State.tapPut s i r) := by
  unfold State.tapPut
  repeat' with_reducible first | intro _ | assumption | apply keeps_ite | apply State.onStream_keeps | apply State.tapPlace_keeps | apply State.tapDrop_keeps | split | dsimp only

theorem State.logClose_keeps {i : Nat} (hk : Keeps ref s) : Keeps ref (State.logClose s i) := by
  unfold State.logClose
  repeat' with_reducible first | intro _ | assumption | apply keeps_ite | apply State.onStream_keeps | apply State.tapPut_keeps | split | dsimp only

theorem State.absentMarker_keeps {i : Nat} (hk : Keeps ref s) : Keeps ref (State.absentMarker s i) := by
  unfold State.absentMarker
  repeat' with_reducible first | intro _ | assumption | apply keeps_ite | apply State.tapPut_keeps | split | dsimp only

theorem State.goAbsent_keeps {i : Nat} (hk : Keeps ref s) : Keeps ref (State.goAbsent s i) := by
  unfold State.goAbsent
  repeat' with_reducible first | intro _ | assumption | apply keeps_ite | apply State.setCause_keeps | apply State.raise_keeps | apply State.fon_keeps | apply State.count_keeps | split | dsimp only

theorem execAlignTimeout_keeps {i : Fin 32} (hk : Keeps ref s) {t' : State} (he : execAlignTimeout i s = .next t') : Keeps ref t' := by
  injection he with he
  rw [← he]
  repeat' with_reducible first | intro _ | assumption | apply keeps_ite | apply State.goAbsent_keeps | apply State.alive_keeps | split | dsimp only

theorem execEmbLock_keeps {l : Fin 64} (hk : Keeps ref s) {t' : State} (he : execEmbLock l s = .next t') : Keeps ref t' := by
  injection he with he
  rw [← he]
  repeat' with_reducible first | intro _ | assumption | apply keeps_ite | apply State.fon_keeps | apply State.alive_keeps | split | dsimp only

theorem State.tapAck_keeps {i : Nat} (hk : Keeps ref s) : Keeps ref (State.tapAck s i) := by
  unfold State.tapAck
  repeat' with_reducible first | intro _ | assumption | apply keeps_ite | apply State.onStream_keeps | apply forL_keeps | apply State.request_keeps | apply State.drawnN_keeps | apply State.memWrite_keeps | refine Keeps.pair ?_ (by assumption) | split | dsimp only

theorem execTapRecordAck_keeps {i : Fin 32} (hk : Keeps ref s) {t' : State} (he : execTapRecordAck i s = .next t') : Keeps ref t' := by
  injection he with he
  rw [← he]
  repeat' with_reducible first | intro _ | assumption | apply keeps_ite | apply State.tapAck_keeps | apply State.alive_keeps | split | dsimp only

theorem State.tapEnable_keeps {i : Nat} {on : Bool} (hk : Keeps ref s) : Keeps ref (State.tapEnable s i on) := by
  unfold State.tapEnable
  repeat' with_reducible first | intro _ | assumption | apply keeps_ite | apply State.onStream_keeps | apply State.fset_keeps | apply State.fflag_keeps | split | dsimp only

theorem State.encoderInit_keeps {i : Nat} (hk : Keeps ref s) : Keeps ref (State.encoderInit s i) := by
  unfold State.encoderInit
  repeat' with_reducible first | intro _ | assumption | apply keeps_ite | apply State.onStream_keeps | split | dsimp only

theorem State.flagWritten_keeps {i : Nat} {lo : Nat} {hi : Nat} {b : Nat} (hk : Keeps ref s) : Keeps ref (State.flagWritten s i lo hi b) := by
  unfold State.flagWritten
  repeat' with_reducible first | intro _ | assumption | apply keeps_ite | apply State.onStream_keeps | apply forL_keeps | apply State.memWrite_keeps | refine Keeps.pair ?_ (by assumption) | split | dsimp only

theorem State.tapClose_keeps {i : Nat} (hk : Keeps ref s) : Keeps ref (State.tapClose s i) := by
  unfold State.tapClose
  repeat' with_reducible first | intro _ | assumption | apply keeps_ite | apply State.onStream_keeps | apply State.tapPut_keeps | split | dsimp only

theorem State.streamStops_keeps {i : Nat} (hk : Keeps ref s) : Keeps ref (State.streamStops s i) := by
  unfold State.streamStops
  repeat' with_reducible first | intro _ | assumption | apply keeps_ite | apply State.goAbsent_keeps | apply State.onStream_keeps | apply State.absentMarker_keeps | apply State.tapClose_keeps | apply State.logClose_keeps | apply State.foff_keeps | split | dsimp only

theorem execBlockLock_keeps {l : Fin 64} (hk : Keeps ref s) {t' : State} (he : execBlockLock l s = .next t') : Keeps ref t' := by
  injection he with he
  rw [← he]
  repeat' with_reducible first | intro _ | assumption | apply keeps_ite | apply State.fon_keeps | apply State.alive_keeps | split | dsimp only

theorem State.streamDisable_keeps {i : Nat} (hk : Keeps ref s) : Keeps ref (State.streamDisable s i) := by
  unfold State.streamDisable
  repeat' with_reducible first | intro _ | assumption | apply keeps_ite | apply State.onStream_keeps | apply State.refreshCauses_keeps | apply State.tapClose_keeps | apply State.logClose_keeps | apply State.foff_keeps | split | dsimp only

theorem execPllLock_keeps {p : Fin 8} (hk : Keeps ref s) {t' : State} (he : execPllLock p s = .next t') : Keeps ref t' := by
  injection he with he
  rw [← he]
  repeat' with_reducible first | intro _ | assumption | apply keeps_ite | apply State.fon_keeps | apply State.alive_keeps | split | dsimp only

theorem State.lockLoss_keeps {l : Nat} {block : Bool} {emb : Bool} (hk : Keeps ref s) : Keeps ref (State.lockLoss s l block emb) := by
  unfold State.lockLoss
  repeat' with_reducible first | intro _ | assumption | apply keeps_ite | apply State.onStream_keeps | apply State.iff_keeps | apply State.streamStops_keeps | apply State.foff_keeps | split | dsimp only

theorem State.latencyShow_keeps {i : Nat} (hk : Keeps ref s) : Keeps ref (State.latencyShow s i) := by
  unfold State.latencyShow
  repeat' with_reducible first | intro _ | assumption | apply keeps_ite | apply State.fsetOpen_keeps | apply State.fflag_keeps | split | dsimp only

theorem State.streamOn_keeps {i : Nat} (hk : Keeps ref s) : Keeps ref (State.streamOn s i) := by
  unfold State.streamOn
  repeat' with_reducible first | intro _ | assumption | apply keeps_ite | apply State.latencyShow_keeps | apply State.onStream_keeps | apply State.encoderInit_keeps | apply State.fon_keeps | apply State.foff_keeps | split | dsimp only

theorem State.streamReturns_keeps {i : Nat} (hk : Keeps ref s) : Keeps ref (State.streamReturns s i) := by
  unfold State.streamReturns
  repeat' with_reducible first | intro _ | assumption | apply keeps_ite | apply State.onStream_keeps | apply State.refreshCauses_keeps | apply State.encoderInit_keeps | apply State.foff_keeps | split | dsimp only

theorem execLaneLockLoss_keeps {l : Fin 64} {shErr : BitVec 8} {badMarkers : BitVec 4} (hk : Keeps ref s) {t' : State} (he : execLaneLockLoss l shErr badMarkers s = .next t') : Keeps ref t' := by
  injection he with he
  rw [← he]
  repeat' with_reducible first | intro _ | assumption | apply keeps_ite | apply State.iff_keeps | apply State.fcount_keeps | apply State.lockLoss_keeps | apply State.alive_keeps | split | dsimp only

theorem State.streamAligns_keeps {i : Nat} (hk : Keeps ref s) : Keeps ref (State.streamAligns s i) := by
  unfold State.streamAligns
  repeat' with_reducible first | intro _ | assumption | apply keeps_ite | apply State.latencyShow_keeps | apply State.onStream_keeps | apply State.streamReturns_keeps | apply State.fon_keeps | apply State.fflag_keeps | split | dsimp only

theorem execEventLogClose_keeps {i : Fin 32} (hk : Keeps ref s) {t' : State} (he : execEventLogClose i s = .next t') : Keeps ref t' := by
  injection he with he
  rw [← he]
  repeat' with_reducible first | intro _ | assumption | apply keeps_ite | apply State.logClose_keeps | apply State.alive_keeps | split | dsimp only

theorem execStreamDisable_keeps {m : Master} {i : Fin 32} (hk : Keeps ref s) {t' : State} (he : execStreamDisable m i s = .next t') : Keeps ref t' := by
  injection he with he
  rw [← he]
  repeat' with_reducible first | intro _ | assumption | apply keeps_ite | apply State.streamDisable_keeps | apply State.guarded_keeps | apply State.alive_keeps | split | dsimp only

theorem State.pllWrite_keeps {p : Nat} {rate : Nat} (hk : Keeps ref s) : Keeps ref (State.pllWrite s p rate) := by
  unfold State.pllWrite
  repeat' with_reducible first | intro _ | assumption | apply keeps_ite | apply State.takenIf_keeps | apply State.fset_keeps | apply forL_keeps | apply State.foff_keeps | split | dsimp only

theorem State.releaseFails_keeps {i : Nat} (hk : Keeps ref s) : Keeps ref (State.releaseFails s i) := by
  unfold State.releaseFails
  repeat' with_reducible first | intro _ | assumption | apply keeps_ite | apply State.onStream_keeps | apply State.fset_keeps | apply State.streamStops_keeps | split | dsimp only

theorem execElasticRelease_keeps {i : Fin 32} {arrivals : List (BitVec 8)} {written : Bool} (hk : Keeps ref s) {t' : State} (he : execElasticRelease i arrivals written s = .next t') : Keeps ref t' := by
  injection he with he
  rw [← he]
  repeat' with_reducible first | intro _ | assumption | apply keeps_ite | apply State.latencyShow_keeps | apply State.fset_keeps | apply forL_keeps | apply State.streamAligns_keeps | apply State.releaseFails_keeps | apply State.alive_keeps | split | dsimp only

theorem execMultiblockReceive_keeps {i : Fin 32} {m : Word} {result : Fin 4} {shErr : List (Fin 64 × BitVec 8)} (hk : Keeps ref s) {t' : State} (he : execMultiblockReceive i m result shErr s = .next t') : Keeps ref t' := by
  injection he with he
  rw [← he]
  repeat' with_reducible first | intro _ | assumption | apply keeps_ite | apply State.onStream_keeps | apply State.iff_keeps | apply State.flagWritten_keeps | apply forL_keeps | apply State.fcount_keeps | apply State.raise_keeps | apply State.alive_keeps | apply State.count_keeps | split | dsimp only

theorem State.streamEnable_keeps {i : Nat} (hk : Keeps ref s) : Keeps ref (State.streamEnable s i) := by
  unfold State.streamEnable
  repeat' with_reducible first | intro _ | assumption | apply keeps_ite | apply State.joinEnds_keeps | apply State.fset_keeps | apply State.streamOn_keeps | split | dsimp only

theorem execStreamEnable_keeps {m : Master} {i : Fin 32} (hk : Keeps ref s) {t' : State} (he : execStreamEnable m i s = .next t') : Keeps ref t' := by
  injection he with he
  rw [← he]
  repeat' with_reducible first | intro _ | assumption | apply keeps_ite | apply State.streamEnable_keeps | apply State.guarded_keeps | apply State.alive_keeps | split | dsimp only

theorem execTapEnable_keeps {m : Master} {i : Fin 32} {on : Bool} (hk : Keeps ref s) {t' : State} (he : execTapEnable m i on s = .next t') : Keeps ref t' := by
  injection he with he
  rw [← he]
  repeat' with_reducible first | intro _ | assumption | apply keeps_ite | apply State.tapEnable_keeps | apply State.guarded_keeps | apply State.alive_keeps | split | dsimp only

theorem execJrxPllWrite_keeps {m : Master} {p : Fin 8} {rate : BitVec 16} (hk : Keeps ref s) {t' : State} (he : execJrxPllWrite m p rate s = .next t') : Keeps ref t' := by
  injection he with he
  rw [← he]
  repeat' with_reducible first | intro _ | assumption | apply keeps_ite | apply State.pllWrite_keeps | apply State.guarded_keeps | apply State.alive_keeps | split | dsimp only

end Sys2Proof.Machine
end

