-- ==== Sys2Proof/Laws/KeepsTwin.lean ====
section
/-! SUPPORT. The operations of Machine/Twin.lean keep what Laws/Keeps.lean says. -/

namespace Sys2Proof.Machine

variable {ref s : State}

theorem State.twinSend_keeps {kind : Nat} {t : Nat} {count : Nat} {sum : Nat} (hk : Keeps ref s) : Keeps ref (State.twinSend s kind t count sum) := by
  unfold State.twinSend
  repeat' with_reducible first | intro _ | assumption | apply keeps_ite | apply forL_keeps | apply State.sendLink_keeps | split | dsimp only

theorem State.roleRecord_keeps {reason : Nat} (hk : Keeps ref s) : Keeps ref (State.roleRecord s reason) := by
  unfold State.roleRecord
  repeat' with_reducible first | intro _ | assumption | apply keeps_ite | apply State.wr64_keeps | apply State.fset_keeps | apply State.foff_keeps | apply State.emit_keeps | split | dsimp only

theorem State.takeActive_keeps {reason : Nat} (hk : Keeps ref s) : Keeps ref (State.takeActive s reason) := by
  unfold State.takeActive
  repeat' with_reducible first | intro _ | assumption | apply keeps_ite | apply State.fflag_keeps | apply State.foff_keeps | apply State.roleRecord_keeps | split | dsimp only

theorem State.helloNow_keeps  (hk : Keeps ref s) : Keeps ref (State.helloNow s) := by
  unfold State.helloNow
  repeat' with_reducible first | intro _ | assumption | apply keeps_ite | apply State.twinSend_keeps | apply State.onAon_keeps | split | dsimp only

theorem State.digestBoundary_keeps {u : Nat} (hk : Keeps ref s) : Keeps ref (State.digestBoundary s u) := by
  unfold State.digestBoundary
  repeat' with_reducible first | intro _ | assumption | apply keeps_ite | apply State.iff_keeps | apply State.onAon_keeps | split | dsimp only

theorem execHelloSend_keeps  (hk : Keeps ref s) {t' : State} (he : execHelloSend s = .next t') : Keeps ref t' := by
  injection he with he
  rw [← he]
  repeat' with_reducible first | intro _ | assumption | apply keeps_ite | apply State.alive_keeps | apply State.helloNow_keeps | split | dsimp only

theorem execSwap_keeps {link : Fin 12} {t : BitVec 64} (hk : Keeps ref s) {t' : State} (he : execSwap link t s = .next t') : Keeps ref t' := by
  injection he with he
  rw [← he]
  repeat' with_reducible first | intro _ | assumption | apply keeps_ite | apply State.twinSend_keeps | apply State.onAon_keeps | apply State.alive_keeps | split | dsimp only

theorem State.swapDrop_keeps  (hk : Keeps ref s) : Keeps ref (State.swapDrop s) := by
  unfold State.swapDrop
  repeat' with_reducible first | intro _ | assumption | apply keeps_ite | apply State.onAon_keeps | apply State.foff_keeps | split | dsimp only

theorem execSwapActive_keeps  (hk : Keeps ref s) {t' : State} (he : execSwapActive s = .next t') : Keeps ref t' := by
  injection he with he
  rw [← he]
  repeat' with_reducible first | intro _ | assumption | apply keeps_ite | apply State.takeActive_keeps | apply State.swapDrop_keeps | apply State.alive_keeps | split | dsimp only

theorem State.planeSwitch_keeps  (hk : Keeps ref s) : Keeps ref (State.planeSwitch s) := by
  unfold State.planeSwitch
  repeat' with_reducible first | intro _ | assumption | apply keeps_ite | apply forN_keeps | apply State.sendLink_keeps | split | dsimp only

theorem execTwinStartTimeout_keeps  (hk : Keeps ref s) {t' : State} (he : execTwinStartTimeout s = .next t') : Keeps ref t' := by
  injection he with he
  rw [← he]
  repeat' with_reducible first | intro _ | assumption | apply keeps_ite | apply State.takeActive_keeps | apply State.alive_keeps | split | dsimp only

theorem execSwapAck_keeps {link : Fin 12} {t : BitVec 64} (hk : Keeps ref s) {t' : State} (he : execSwapAck link t s = .next t') : Keeps ref t' := by
  injection he with he
  rw [← he]
  repeat' with_reducible first | intro _ | assumption | apply keeps_ite | apply State.onAon_keeps | apply State.alive_keeps | split | dsimp only

theorem State.takeStandby_keeps {reason : Nat} (hk : Keeps ref s) : Keeps ref (State.takeStandby s reason) := by
  unfold State.takeStandby
  repeat' with_reducible first | intro _ | assumption | apply keeps_ite | apply State.fon_keeps | apply State.foff_keeps | apply State.roleRecord_keeps | split | dsimp only

theorem State.helloRoles_keeps {peerStandby : Bool} (hk : Keeps ref s) : Keeps ref (State.helloRoles s peerStandby) := by
  unfold State.helloRoles
  repeat' with_reducible first | intro _ | assumption | apply keeps_ite | apply State.takeActive_keeps | apply State.takeStandby_keeps | apply State.fon_keeps | split | dsimp only

theorem State.digestCompare_keeps  (hk : Keeps ref s) : Keeps ref (State.digestCompare s) := by
  unfold State.digestCompare
  repeat' with_reducible first | intro _ | assumption | apply keeps_ite | apply State.iff_keeps | apply State.onAon_keeps | apply State.count_keeps | split | dsimp only

theorem execDigest_keeps {link : Fin 12} {first : Word} {count : Word} {sum : Word} (hk : Keeps ref s) {t' : State} (he : execDigest link first count sum s = .next t') : Keeps ref t' := by
  injection he with he
  rw [← he]
  repeat' with_reducible first | intro _ | assumption | apply keeps_ite | apply State.onAon_keeps | apply State.alive_keeps | apply State.digestCompare_keeps | split | dsimp only

theorem State.wingbeatStopped_keeps  (hk : Keeps ref s) : Keeps ref (State.wingbeatStopped s) := by
  unfold State.wingbeatStopped
  repeat' with_reducible first | intro _ | assumption | apply keeps_ite | apply State.takeStandby_keeps | apply State.swapDrop_keeps | split | dsimp only

theorem State.digestStop_keeps  (hk : Keeps ref s) : Keeps ref (State.digestStop s) := by
  unfold State.digestStop
  repeat' with_reducible first | intro _ | assumption | apply keeps_ite | apply State.onAon_keeps | split | dsimp only

theorem execSwapCancel_keeps  (hk : Keeps ref s) {t' : State} (he : execSwapCancel s = .next t') : Keeps ref t' := by
  injection he with he
  rw [← he]
  repeat' with_reducible first | intro _ | assumption | apply keeps_ite | apply State.swapDrop_keeps | apply State.alive_keeps | split | dsimp only

theorem execTwinWbEdge_keeps  (hk : Keeps ref s) {t' : State} (he : execTwinWbEdge s = .next t') : Keeps ref t' := by
  injection he with he
  rw [← he]
  repeat' with_reducible first | intro _ | assumption | apply keeps_ite | apply State.iff_keeps | apply State.onAon_keeps | apply State.fon_keeps | apply State.alive_keeps | split | dsimp only

theorem State.pairGen_keeps {g : Nat} (hk : Keeps ref s) : Keeps ref (State.pairGen s g) := by
  unfold State.pairGen
  repeat' with_reducible first | intro _ | assumption | apply keeps_ite | apply State.fset_keeps | apply State.fon_keeps | apply State.foff_keeps | split | dsimp only

theorem execHello_keeps {link : Fin 12} {gen : BitVec 8} {standby : Bool} {devid : Fin 8} (hk : Keeps ref s) {t' : State} (he : execHello link gen standby devid s = .next t') : Keeps ref t' := by
  injection he with he
  rw [← he]
  repeat' with_reducible first | intro _ | assumption | apply keeps_ite | apply State.pairGen_keeps | apply State.iff_keeps | apply State.helloRoles_keeps | apply State.onAon_keeps | apply State.fon_keeps | apply State.alive_keeps | split | dsimp only

theorem State.splitNow_keeps  (hk : Keeps ref s) : Keeps ref (State.splitNow s) := by
  unfold State.splitNow
  repeat' with_reducible first | intro _ | assumption | apply keeps_ite | apply State.raise_keeps | apply State.fon_keeps | split | dsimp only

theorem execTake_keeps {link : Fin 12} {byPlane : Bool} (hk : Keeps ref s) {t' : State} (he : execTake link byPlane s = .next t') : Keeps ref t' := by
  injection he with he
  rw [← he]
  repeat' with_reducible first | intro _ | assumption | apply keeps_ite | apply State.iff_keeps | apply State.splitNow_keeps | apply State.takeStandby_keeps | apply State.swapDrop_keeps | apply State.alive_keeps | split | dsimp only

theorem State.twinEnable_keeps  (hk : Keeps ref s) : Keeps ref (State.twinEnable s) := by
  unfold State.twinEnable
  repeat' with_reducible first | intro _ | assumption | apply keeps_ite | apply State.onAon_keeps | apply State.fon_keeps | split | dsimp only

theorem execTwinEnable_keeps {m : Master} (hk : Keeps ref s) {t' : State} (he : execTwinEnable m s = .next t') : Keeps ref t' := by
  injection he with he
  rw [← he]
  repeat' with_reducible first | intro _ | assumption | apply keeps_ite | apply State.twinEnable_keeps | apply State.guarded_keeps | apply State.alive_keeps | split | dsimp only

theorem State.digestRecord_keeps {u : Nat} {n : Nat} {j : Nat} {grade : Nat} (hk : Keeps ref s) : Keeps ref (State.digestRecord s u n j grade) := by
  unfold State.digestRecord
  repeat' with_reducible first | intro _ | assumption | apply keeps_ite | apply State.iff_keeps | apply State.onAon_keeps | split | dsimp only

theorem execDigestSend_keeps  (hk : Keeps ref s) {t' : State} (he : execDigestSend s = .next t') : Keeps ref t' := by
  injection he with he
  rw [← he]
  repeat' with_reducible first | intro _ | assumption | apply keeps_ite | apply State.twinSend_keeps | apply State.onAon_keeps | apply State.alive_keeps | apply State.digestCompare_keeps | split | dsimp only

theorem execPartnerTimeout_keeps  (hk : Keeps ref s) {t' : State} (he : execPartnerTimeout s = .next t') : Keeps ref t' := by
  injection he with he
  rw [← he]
  repeat' with_reducible first | intro _ | assumption | apply keeps_ite | apply State.onAon_keeps | apply State.alive_keeps | apply State.foff_keeps | split | dsimp only

theorem State.swapRequest_keeps {partnerArmed : Bool} (hk : Keeps ref s) : Keeps ref (State.swapRequest s partnerArmed) := by
  unfold State.swapRequest
  repeat' with_reducible first | intro _ | assumption | apply keeps_ite | apply State.twinSend_keeps | apply State.onAon_keeps | apply State.fon_keeps | split | dsimp only

theorem execSwapRequest_keeps {m : Master} {partnerArmed : Bool} (hk : Keeps ref s) {t' : State} (he : execSwapRequest m partnerArmed s = .next t') : Keeps ref t' := by
  injection he with he
  rw [← he]
  repeat' with_reducible first | intro _ | assumption | apply keeps_ite | apply State.guarded_keeps | apply State.swapRequest_keeps | apply State.alive_keeps | split | dsimp only

theorem execSwapStandby_keeps  (hk : Keeps ref s) {t' : State} (he : execSwapStandby s = .next t') : Keeps ref t' := by
  injection he with he
  rw [← he]
  repeat' with_reducible first | intro _ | assumption | apply keeps_ite | apply State.takeStandby_keeps | apply State.swapDrop_keeps | apply State.alive_keeps | split | dsimp only

theorem State.restartHeld_keeps  (hk : Keeps ref s) : Keeps ref (State.restartHeld s) := by
  unfold State.restartHeld
  repeat' with_reducible first | intro _ | assumption | apply keeps_ite | apply forN_keeps | apply State.setPin_keeps | apply State.setLevel_keeps | apply State.count_keeps | split | dsimp only

theorem execWingbeatLoss_keeps {partnerActive : Bool} (hk : Keeps ref s) {t' : State} (he : execWingbeatLoss partnerActive s = .next t') : Keeps ref t' := by
  injection he with he
  rw [← he]
  repeat' with_reducible first | intro _ | assumption | apply keeps_ite | apply State.iff_keeps | apply State.takeActive_keeps | apply State.twinSend_keeps | apply State.planeSwitch_keeps | apply State.splitNow_keeps | apply State.restartHeld_keeps | apply State.raise_keeps | apply State.swapDrop_keeps | apply State.alive_keeps | apply State.count_keeps | split | dsimp only

theorem execSwitch_keeps {link : Fin 12} (hk : Keeps ref s) {t' : State} (he : execSwitch link s = .next t') : Keeps ref t' := by
  injection he with he
  rw [← he]
  repeat' with_reducible first | intro _ | assumption | apply keeps_ite | apply State.takeActive_keeps | apply State.twinSend_keeps | apply State.alive_keeps | split | dsimp only

end Sys2Proof.Machine
end

