-- ==== Sys2Proof/Laws/KeepsLinks.lean ====
section
/-! SUPPORT. The operations of Machine/Links.lean keep what Laws/Keeps.lean says. -/

namespace Sys2Proof.Machine

variable {ref s : State}

theorem State.linkLose_keeps {k : Nat} (hk : Keeps ref s) : Keeps ref (State.linkLose s k) := by
  unfold State.linkLose
  repeat' with_reducible first | intro _ | assumption | apply keeps_ite | apply State.fset_keeps | apply forL_keeps | apply State.onLink_keeps | apply State.linkDrop_keeps | apply State.raise_keeps | apply State.altUpdate_keeps | apply State.fon_keeps | apply State.count_keeps | apply State.foff_keeps | apply State.staleAll_keeps | split | dsimp only

theorem State.replay_keeps {k : Nat} (hk : Keeps ref s) : Keeps ref (State.replay s k) := by
  unfold State.replay
  repeat' with_reducible first | intro _ | assumption | apply keeps_ite | apply State.onLink_keeps | apply State.linkLose_keeps | apply State.count_keeps | apply State.emitAll_keeps | split | dsimp only

theorem State.syncJudge_keeps {theta : Int} (hk : Keeps ref s) : Keeps ref (State.syncJudge s theta) := by
  unfold State.syncJudge
  repeat' with_reducible first | intro _ | assumption | apply keeps_ite | apply State.iff_keeps | apply State.raise_keeps | apply State.fon_keeps | refine State.onTb_keeps ?_ (by intro b; first | exact ⟨rfl, rfl, rfl⟩ | (refine ⟨?_, ?_, ?_⟩ <;> (repeat' split) <;> rfl)) | apply State.count_keeps | apply State.foff_keeps | split | dsimp only

theorem State.counterFollow_keeps {theta : Int} (hk : Keeps ref s) : Keeps ref (State.counterFollow s theta) := by
  unfold State.counterFollow
  repeat' with_reducible first | intro _ | assumption | apply keeps_ite | apply State.setCounter_keeps | apply State.tickMoves_keeps | apply State.fon_keeps | refine State.onTb_keeps ?_ (by intro b; first | exact ⟨rfl, rfl, rfl⟩ | (refine ⟨?_, ?_, ?_⟩ <;> (repeat' split) <;> rfl)) | apply State.count_keeps | split | dsimp only

theorem execTsyncReply_keeps {k : Fin 12} {no : BitVec 8} {t2 : BitVec 80} {t3 : BitVec 80} {f4 : BitVec 16} (hk : Keeps ref s) {t' : State} (he : execTsyncReply k no t2 t3 f4 s = .next t') : Keeps ref t' := by
  injection he with he
  rw [← he]
  repeat' with_reducible first | intro _ | assumption | apply keeps_ite | apply State.fset_keeps | apply State.onLink_keeps | apply State.wrN_keeps | apply State.syncJudge_keeps | apply State.alive_keeps | apply State.counterFollow_keeps | split | dsimp only

theorem State.linkRetrain_keeps {k : Nat} {limit : Nat} {auto : Bool} (hk : Keeps ref s) : Keeps ref (State.linkRetrain s k limit auto) := by
  unfold State.linkRetrain
  repeat' with_reducible first | intro _ | assumption | apply keeps_ite | apply State.fset_keeps | apply State.onLink_keeps | apply State.altUpdate_keeps | apply State.foff_keeps | split | dsimp only

theorem execLinkRetrainAuto_keeps {k : Fin 12} (hk : Keeps ref s) {t' : State} (he : execLinkRetrainAuto k s = .next t') : Keeps ref t' := by
  injection he with he
  rw [← he]
  repeat' with_reducible first | intro _ | assumption | apply keeps_ite | apply State.alive_keeps | apply State.linkRetrain_keeps | split | dsimp only

theorem State.linkEnable_keeps {k : Nat} (hk : Keeps ref s) : Keeps ref (State.linkEnable s k) := by
  unfold State.linkEnable
  repeat' with_reducible first | intro _ | assumption | apply keeps_ite | apply State.fset_keeps | apply State.onLink_keeps | apply State.fon_keeps | apply State.foff_keeps | split | dsimp only

theorem execLinkEnable_keeps {m : Master} {k : Fin 12} (hk : Keeps ref s) {t' : State} (he : execLinkEnable m k s = .next t') : Keeps ref t' := by
  injection he with he
  rw [← he]
  repeat' with_reducible first | intro _ | assumption | apply keeps_ite | apply State.linkEnable_keeps | apply State.guarded_keeps | apply State.alive_keeps | split | dsimp only

theorem execTsyncSend_keeps {k : Fin 12} {frac : BitVec 16} (hk : Keeps ref s) {t' : State} (he : execTsyncSend k frac s = .next t') : Keeps ref t' := by
  injection he with he
  rw [← he]
  repeat' with_reducible first | intro _ | assumption | apply keeps_ite | apply State.onLink_keeps | apply State.sendLink_keeps | apply State.alive_keeps | split | dsimp only

theorem State.linkFlow_keeps {k : Nat} {left : List (Fin 6)} (hk : Keeps ref s) : Keeps ref (State.linkFlow s k left) := by
  unfold State.linkFlow
  repeat' with_reducible first | intro _ | assumption | apply keeps_ite | apply State.onLink_keeps | split | dsimp only

theorem State.linkAck_keeps {k : Nat} {seq : Nat} (hk : Keeps ref s) : Keeps ref (State.linkAck s k seq) := by
  unfold State.linkAck
  repeat' with_reducible first | intro _ | assumption | apply keeps_ite | apply State.onLink_keeps | split | dsimp only

theorem State.linkAccepted_keeps {k : Nat} {ep : Bool} {y3 : Nat} (hk : Keeps ref s) : Keeps ref (State.linkAccepted s k ep y3) := by
  induction y3 generalizing s k ep with
  | zero =>
    unfold State.linkAccepted
    repeat' with_reducible first | intro _ | assumption | apply keeps_ite | apply State.tree_keeps | apply State.onLink_keeps | split | dsimp only
  | succ _ ih =>
    unfold State.linkAccepted
    repeat' with_reducible first | intro _ | assumption | apply ih | apply keeps_ite | apply State.tree_keeps | apply State.onLink_keeps | split | dsimp only

theorem State.linkTake_keeps {k : Nat} {f : BitVec 128} (hk : Keeps ref s) : Keeps ref (State.linkTake s k f) := by
  unfold State.linkTake
  repeat' with_reducible first | intro _ | assumption | apply keeps_ite | apply State.replay_keeps | apply State.iff_keeps | apply State.onLink_keeps | apply State.linkAck_keeps | apply State.linkAccepted_keeps | split | dsimp only

theorem State.linkCell_keeps {k : Nat} {c : Fin 8 × Fin 32 × Option Bool} (hk : Keeps ref s) : Keeps ref (State.linkCell s k c) := by
  unfold State.linkCell
  repeat' with_reducible first | intro _ | assumption | apply keeps_ite | apply State.tree_keeps | apply State.onLink_keeps | apply State.wrN_keeps | apply State.count_keeps | split | dsimp only

theorem State.linkSend_keeps {k : Nat} {nak : Bool} (hk : Keeps ref s) : Keeps ref (State.linkSend s k nak) := by
  unfold State.linkSend
  repeat' with_reducible first | intro _ | assumption | apply keeps_ite | apply State.onLink_keeps | apply State.wrN_keeps | apply State.emit_keeps | split | dsimp only

theorem State.linkBad_keeps {k : Nat} (hk : Keeps ref s) : Keeps ref (State.linkBad s k) := by
  unfold State.linkBad
  repeat' with_reducible first | intro _ | assumption | apply keeps_ite | apply State.onLink_keeps | apply State.raise_keeps | apply State.linkSend_keeps | apply State.linkLose_keeps | apply State.count_keeps | split | dsimp only

theorem execLinkUp_keeps {k : Fin 12} {lanes : BitVec 8} {peerWidth : Fin 4} {genMin : BitVec 4} {genMax : BitVec 4} {dev : BitVec 3} {peer : BitVec 4} (hk : Keeps ref s) {t' : State} (he : execLinkUp k lanes peerWidth genMin genMax dev peer s = .next t') : Keeps ref t' := by
  injection he with he
  rw [← he]
  repeat' with_reducible first | intro _ | assumption | apply keeps_ite | apply State.iff_keeps | apply State.fset_keeps | apply forL_keeps | apply State.onLink_keeps | apply State.raise_keeps | apply State.altUpdate_keeps | apply State.fon_keeps | apply State.alive_keeps | apply State.fflag_keeps | apply State.foff_keeps | apply State.helloNow_keeps | split | dsimp only

theorem execTsyncRequest_keeps {k : Fin 12} {no : BitVec 8} {t1 : BitVec 80} {f2 : BitVec 16} {f3 : BitVec 16} (hk : Keeps ref s) {t' : State} (he : execTsyncRequest k no t1 f2 f3 s = .next t') : Keeps ref t' := by
  injection he with he
  rw [← he]
  repeat' with_reducible first | intro _ | assumption | apply keeps_ite | apply State.sendLink_keeps | apply State.alive_keeps | split | dsimp only

theorem State.linkDisable_keeps {k : Nat} (hk : Keeps ref s) : Keeps ref (State.linkDisable s k) := by
  unfold State.linkDisable
  repeat' with_reducible first | intro _ | assumption | apply keeps_ite | apply State.fset_keeps | apply forL_keeps | apply State.onLink_keeps | apply State.linkDrop_keeps | apply State.altUpdate_keeps | apply State.foff_keeps | split | dsimp only

theorem execLinkLost_keeps {k : Fin 12} (hk : Keeps ref s) {t' : State} (he : execLinkLost k s = .next t') : Keeps ref t' := by
  injection he with he
  rw [← he]
  repeat' with_reducible first | intro _ | assumption | apply keeps_ite | apply State.linkLose_keeps | apply State.alive_keeps | split | dsimp only

theorem execNak_keeps {k : Fin 12} {seq : BitVec 12} (hk : Keeps ref s) {t' : State} (he : execNak k seq s = .next t') : Keeps ref t' := by
  injection he with he
  rw [← he]
  repeat' with_reducible first | intro _ | assumption | apply keeps_ite | apply State.replay_keeps | apply State.linkAck_keeps | apply State.alive_keeps | split | dsimp only

theorem execCodewordReceive_keeps {k : Fin 12} {ok : Bool} {corrected : Bool} {seq : BitVec 12} {flit0 : BitVec 128} {flit1 : BitVec 128} {cells : List (Fin 8 × Fin 32 × Option Bool)} {left : List (Fin 6)} (hk : Keeps ref s) {t' : State} (he : execCodewordReceive k ok corrected seq flit0 flit1 cells left s = .next t') : Keeps ref t' := by
  injection he with he
  rw [← he]
  repeat' with_reducible first | intro _ | assumption | apply keeps_ite | apply State.iff_keeps | apply forL_keeps | apply State.linkBad_keeps | apply State.onLink_keeps | apply State.linkTake_keeps | apply State.linkFlow_keeps | apply State.linkSend_keeps | apply State.linkCell_keeps | apply State.alive_keeps | apply State.count_keeps | split | dsimp only

end Sys2Proof.Machine
end

