-- ==== Sys2Proof/Laws/KeepsStore.lean ====
section
/-! SUPPORT. The operations of Machine/Store.lean keep what Laws/Keeps.lean says. -/

namespace Sys2Proof.Machine

variable {ref s : State}

theorem State.setCopy_keeps {b : Bool} {k q : Nat} {ok : Bool} {l : List Byte} (h : Keeps ref s) : Keeps ref (s.setCopy b k q ok l) := by
  refine State.onStore_keeps h fun t w => ?_
  cases b with
  | true => exact ⟨w.1, Memory.write_wf _ _ w.2.1, w.2.2.1, tabPut_wf _ _ w.2.2.2⟩
  | false => exact ⟨Memory.write_wf _ _ w.1, w.2.1, tabPut_wf _ _ w.2.2.1, w.2.2.2⟩


theorem State.setResult_keeps {err : Nat} {sector : Nat} (hk : Keeps ref s) : Keeps ref (State.setResult s err sector) := by
  unfold State.setResult
  repeat' with_reducible first | intro _ | assumption | apply keeps_ite | apply State.fset_keeps | split | dsimp only

theorem State.storeBegin_keeps {k : Nat} (hk : Keeps ref s) : Keeps ref (State.storeBegin s k) := by
  unfold State.storeBegin
  repeat' with_reducible first | intro _ | assumption | apply keeps_ite | refine State.onStore_keeps ?_ (by intro t w; with_unfolding_all exact w) | apply State.setCopy_keeps | apply State.foff_keeps | split | dsimp only

theorem State.setStore_keeps {k : Nat} (hk : Keeps ref s) : Keeps ref (State.setStore s k) := by
  unfold State.setStore
  repeat' with_reducible first | intro _ | assumption | apply keeps_ite | apply State.setResult_keeps | apply State.storeBegin_keeps | apply State.fon_keeps | split | dsimp only

theorem State.bufWrite_keeps {j : Nat} {l : List Byte} (h : Keeps ref s) : Keeps ref (s.bufWrite j l) := by
  fun_induction State.bufWrite s j l with
  | case1 s j a b c d r ih => exact ih (State.wrN_keeps h)
  | case2 => exact h
  | case3 => exact State.wrN_keeps h


theorem State.setLoad_keeps {k : Nat} (hk : Keeps ref s) : Keeps ref (State.setLoad s k) := by
  unfold State.setLoad
  repeat' with_reducible first | intro _ | assumption | apply keeps_ite | apply State.bufWrite_keeps | apply State.setResult_keeps | apply State.raise_keeps | apply State.count_keeps | split | dsimp only

theorem State.setCommand_keeps {m : Master} {k : Nat} {f : State → State} (hk : Keeps ref s) (hkf : ∀ t, Keeps ref t → Keeps ref (f t)) : Keeps ref (State.setCommand s m k f) := by
  unfold State.setCommand
  repeat' with_reducible first | intro _ | assumption | apply keeps_ite | apply State.setResult_keeps | apply State.fset_keeps | apply State.ignored_keeps | apply State.guarded_keeps | apply hkf | split | dsimp only

theorem execSetLoad_keeps {m : Master} {sector : Fin 1024} (hk : Keeps ref s) {t' : State} (he : execSetLoad m sector s = .next t') : Keeps ref t' := by
  injection he with he
  rw [← he]
  repeat' with_reducible first | intro _ | assumption | apply keeps_ite | apply State.setLoad_keeps | apply State.setCommand_keeps | apply State.alive_keeps | split | dsimp only

theorem State.xspi_keeps {answer : List Byte} (hk : Keeps ref s) : Keeps ref (State.xspi s answer) := by
  unfold State.xspi
  repeat' with_reducible first | intro _ | assumption | apply keeps_ite | apply State.bufWrite_keeps | apply State.fset_keeps | apply State.emit_keeps | split | dsimp only

theorem execSetXspi_keeps {m : Master} {answer : List Byte} (hk : Keeps ref s) {t' : State} (he : execSetXspi m answer s = .next t') : Keeps ref t' := by
  injection he with he
  rw [← he]
  repeat' with_reducible first | intro _ | assumption | apply keeps_ite | apply State.ignored_keeps | apply State.xspi_keeps | apply State.guarded_keeps | apply State.alive_keeps | split | dsimp only

theorem execStoreThrottleRelease_keeps  (hk : Keeps ref s) {t' : State} (he : execStoreThrottleRelease s = .next t') : Keeps ref t' := by
  injection he with he
  rw [← he]
  repeat' with_reducible first | intro _ | assumption | apply keeps_ite | apply State.storeBegin_keeps | apply State.alive_keeps | split | dsimp only

theorem State.sectorProgram_keeps {k : Nat} {l : List Byte} (hk : Keeps ref s) : Keeps ref (State.sectorProgram s k l) := by
  unfold State.sectorProgram
  repeat' with_reducible first | intro _ | assumption | apply keeps_ite | apply State.setCopy_keeps | split | dsimp only

theorem execSetStore_keeps {m : Master} {sector : Fin 1024} (hk : Keeps ref s) {t' : State} (he : execSetStore m sector s = .next t') : Keeps ref t' := by
  injection he with he
  rw [← he]
  repeat' with_reducible first | intro _ | assumption | apply keeps_ite | apply State.setStore_keeps | apply State.setCommand_keeps | apply State.alive_keeps | split | dsimp only

theorem execStoreEnd_keeps {verified : Bool} (hk : Keeps ref s) {t' : State} (he : execStoreEnd verified s = .next t') : Keeps ref t' := by
  injection he with he
  rw [← he]
  repeat' with_reducible first | intro _ | assumption | apply keeps_ite | refine State.onStore_keeps ?_ (by intro t w; with_unfolding_all exact w) | apply State.fset_keeps | apply State.sectorProgram_keeps | apply State.alive_keeps | apply State.count_keeps | apply State.foff_keeps | split | dsimp only

end Sys2Proof.Machine
end

