-- ==== Sys2Proof/Laws/KeepsRows.lean ====
section
/-! SUPPORT. The operations of Machine/Rows.lean keep what Laws/Keeps.lean says. -/

namespace Sys2Proof.Machine

variable {ref s : State}

theorem State.appendDefect_keeps {r : Nat} (hk : Keeps ref s) : Keeps ref (State.appendDefect s r) := by
  unfold State.appendDefect
  repeat' with_reducible first | intro _ | assumption | apply keeps_ite | apply State.sectorProgram_keeps | split | dsimp only

theorem State.subResult_keeps {v : Nat} (hk : Keeps ref s) : Keeps ref (State.subResult s v) := by
  unfold State.subResult
  repeat' with_reducible first | intro _ | assumption | apply keeps_ite | apply State.fset_keeps | split | dsimp only

theorem State.seqMemOpen_keeps {t : Nat} (hk : Keeps ref s) : Keeps ref (State.seqMemOpen s t) := by
  unfold State.seqMemOpen
  repeat' with_reducible first | intro _ | assumption | apply keeps_ite | apply State.mopen_keeps | split | dsimp only

theorem State.tileMemOpen_keeps {t : Nat} (hk : Keeps ref s) : Keeps ref (State.tileMemOpen s t) := by
  unfold State.tileMemOpen
  repeat' with_reducible first | intro _ | assumption | apply keeps_ite | apply State.seqMemOpen_keeps | apply State.sliceOpen_keeps | split | dsimp only

theorem State.coreMemOpen_keeps {n : Nat} (hk : Keeps ref s) : Keeps ref (State.coreMemOpen s n) := by
  unfold State.coreMemOpen
  repeat' with_reducible first | intro _ | assumption | apply keeps_ite | apply State.mopen_keeps | split | dsimp only

theorem State.rowShow_keeps {r : Nat} (hk : Keeps ref s) : Keeps ref (State.rowShow s r) := by
  unfold State.rowShow
  repeat' with_reducible first | intro _ | assumption | apply keeps_ite | apply State.wrN_keeps | split | dsimp only

theorem State.capShow_keeps  (hk : Keeps ref s) : Keeps ref (State.capShow s) := by
  unfold State.capShow
  repeat' with_reducible first | intro _ | assumption | apply keeps_ite | apply State.wrN_keeps | apply foldlPair_keeps | apply foldl_keeps | refine Keeps.pair ?_ (by assumption) | split | dsimp only

theorem State.rowRemap_keeps {r : Nat} {c : Nat} (hk : Keeps ref s) : Keeps ref (State.rowRemap s r c) := by
  unfold State.rowRemap
  repeat' with_reducible first | intro _ | assumption | apply keeps_ite | apply forL_keeps | apply State.tileMemOpen_keeps | apply State.coreMemOpen_keeps | apply State.rowShow_keeps | apply State.onAon_keeps | apply State.capShow_keeps | split | dsimp only

theorem State.subDone_keeps  (hk : Keeps ref s) : Keeps ref (State.subDone s) := by
  unfold State.subDone
  repeat' with_reducible first | intro _ | assumption | apply keeps_ite | apply State.appendDefect_keeps | apply State.onAon_keeps | apply State.subResult_keeps | apply State.rowRemap_keeps | apply State.drawn_keeps | split | dsimp only

theorem State.substitute_keeps {tile : Bool} {h : Nat} {row : Nat} {c : Nat} (hk : Keeps ref s) : Keeps ref (State.substitute s tile h row c) := by
  unfold State.substitute
  repeat' with_reducible first | intro _ | assumption | apply keeps_ite | apply State.showAdmission_keeps | apply State.subDone_keeps | apply State.rowShow_keeps | apply State.onAon_keeps | apply State.subResult_keeps | apply State.staleAll_keeps | split | dsimp only

theorem execSubstitutionRequest_keeps {m : Master} {tile : Bool} {east : Bool} {row : Fin 16} {col : Fin 64} (hk : Keeps ref s) {t' : State} (he : execSubstitutionRequest m tile east row col s = .next t') : Keeps ref t' := by
  injection he with he
  rw [← he]
  repeat' with_reducible first | intro _ | assumption | apply keeps_ite | apply State.fset_keeps | apply State.ignored_keeps | apply State.guarded_keeps | apply State.substitute_keeps | apply State.alive_keeps | apply State.fflag_keeps | split | dsimp only

theorem State.retrainCheck_keeps {k : Nat} {w : Nat} (hk : Keeps ref s) : Keeps ref (State.retrainCheck s k w).1 := by
  unfold State.retrainCheck
  repeat' with_reducible first | intro _ | assumption | apply keeps_ite | apply keeps_ite1 | apply State.showAdmission_keeps | apply State.fset_keeps | split | dsimp only

theorem State.linkRetrainRequest_keeps {k : Nat} (hk : Keeps ref s) : Keeps ref (State.linkRetrainRequest s k) := by
  unfold State.linkRetrainRequest
  repeat' with_reducible first | intro _ | assumption | apply keeps_ite | apply State.retrainCheck_keeps | apply State.onLink_keeps | apply State.fon_keeps | apply State.staleAll_keeps | apply State.linkRetrain_keeps | refine Keeps.pair ?_ (by assumption) | split | dsimp only

theorem execLinkRetrainRequest_keeps {m : Master} {k : Fin 12} {width : Fin 4} (hk : Keeps ref s) {t' : State} (he : execLinkRetrainRequest m k width s = .next t') : Keeps ref t' := by
  injection he with he
  rw [← he]
  repeat' with_reducible first | intro _ | assumption | apply keeps_ite | apply State.fset_keeps | apply State.linkRetrainRequest_keeps | apply State.guarded_keeps | apply State.alive_keeps | split | dsimp only

end Sys2Proof.Machine
end

