-- ==== Sys2Proof/Laws/KeepsEncoder.lean ====
section
/-! SUPPORT. The operations of Machine/Encoder.lean keep what Laws/Keeps.lean says. -/

namespace Sys2Proof.Machine

variable {ref s : State}

theorem State.channelSample_keeps {i : Nat} {c : Nat} {xi : Int} {xq : Int} {full : Bool} (hk : Keeps ref s) : Keeps ref (State.channelSample s i c xi xq full).1 := by
  unfold State.channelSample
  repeat' with_reducible first | intro _ | assumption | apply keeps_ite | apply keeps_ite1 | apply State.onStream_keeps | apply State.iff_keeps | apply State.count_keeps | split | dsimp only

theorem State.countDeferral_keeps {o : Nat} (hk : Keeps ref s) : Keeps ref (State.countDeferral s o) := by
  unfold State.countDeferral
  repeat' with_reducible first | intro _ | assumption | apply keeps_ite | refine State.onTb_keeps ?_ (by intro b; first | exact ⟨rfl, rfl, rfl⟩ | (refine ⟨?_, ?_, ?_⟩ <;> (repeat' split) <;> rfl)) | apply State.count_keeps | split | dsimp only

theorem State.destAxon_keeps {i : Nat} {j : Nat} {x : Crossing} (hk : Keeps ref s) : Keeps ref (State.destAxon s i j x).1 := by
  unfold State.destAxon
  repeat' with_reducible first | intro _ | assumption | apply keeps_ite | apply keeps_ite1 | apply State.drawn_keeps | split | dsimp only

theorem State.eventsOf_keeps {i : Nat} {x : Crossing} (hk : Keeps ref s) : Keeps ref (State.eventsOf s i x).1 := by
  unfold State.eventsOf
  repeat' with_reducible first | intro _ | assumption | apply keeps_ite | apply keeps_ite1 | apply State.destAxon_keeps | apply State.count_keeps | apply foldlPair_keeps | apply foldl_keeps | refine Keeps.pair ?_ (by assumption) | split | dsimp only

theorem State.formEvents_keeps {i : Nat} {stamp : Nat} {x : Crossing} {y : EncCycle} (hk : Keeps ref s) : Keeps ref (State.formEvents s i stamp x y).1 := by
  unfold State.formEvents
  repeat' with_reducible first | intro _ | assumption | apply keeps_ite | apply keeps_ite1 | apply State.eventsOf_keeps | apply foldlPair_keeps | apply foldl_keeps | refine Keeps.pair ?_ (by assumption) | split | dsimp only

theorem State.encSend_keeps {i : Nat} {c : EncCell} (hk : Keeps ref s) : Keeps ref (State.encSend s i c) := by
  unfold State.encSend
  repeat' with_reducible first | intro _ | assumption | apply keeps_ite | apply State.onStream_keeps | apply State.emit_keeps | split | dsimp only

theorem State.encCell_keeps {i : Nat} {c : EncCell} (hk : Keeps ref s) : Keeps ref (State.encCell s i c).1 := by
  unfold State.encCell
  repeat' with_reducible first | intro _ | assumption | apply keeps_ite | apply keeps_ite1 | apply State.onStream_keeps | apply State.encSend_keeps | apply State.countDeferral_keeps | split | dsimp only

theorem State.logEvent_keeps {i : Nat} {stamp : Nat} {w : Word} {chan : Nat} {up : Bool} {deferred : Bool} (hk : Keeps ref s) : Keeps ref (State.logEvent s i stamp w chan up deferred) := by
  unfold State.logEvent
  repeat' with_reducible first | intro _ | assumption | apply keeps_ite | apply State.onStream_keeps | apply State.logClose_keeps | split | dsimp only

theorem State.cycleSends_keeps {i : Nat} {y : EncCycle} (hk : Keeps ref s) : Keeps ref (State.cycleSends s i y) := by
  unfold State.cycleSends
  repeat' with_reducible first | intro _ | assumption | apply keeps_ite | apply forL_keeps | apply State.encCell_keeps | apply State.logEvent_keeps | apply foldlPair_keeps | apply foldl_keeps | refine Keeps.pair ?_ (by assumption) | split | dsimp only

theorem State.encDrain_keeps {i : Nat} {q : List EncCell} (hk : Keeps ref s) : Keeps ref (State.encDrain s i q) := by
  unfold State.encDrain
  repeat' with_reducible first | intro _ | assumption | apply keeps_ite | apply State.onStream_keeps | apply forL_keeps | apply State.encSend_keeps | apply State.countDeferral_keeps | split | dsimp only

theorem execEncoderBoundary_keeps {i : Fin 32} (hk : Keeps ref s) {t' : State} (he : execEncoderBoundary i s = .next t') : Keeps ref t' := by
  injection he with he
  rw [← he]
  repeat' with_reducible first | intro _ | assumption | apply keeps_ite | apply State.onStream_keeps | apply State.iff_keeps | apply State.reportEnd_keeps | apply State.streamReturns_keeps | apply State.encDrain_keeps | apply State.alive_keeps | split | dsimp only

theorem State.tapWords_keeps {i : Nat} {stamp : Nat} {per : Nat} {ws : List (BitVec 16)} {sat : Bool} (hk : Keeps ref s) : Keeps ref (State.tapWords s i stamp per ws sat) := by
  unfold State.tapWords
  repeat' with_reducible first | intro _ | assumption | apply keeps_ite | apply State.onStream_keeps | apply State.tapClose_keeps | split | dsimp only

theorem State.instant_keeps {i : Nat} {stamp : Nat} {ws : List (BitVec 16)} {corr : List (BitVec 16)} {y : EncCycle} (hk : Keeps ref s) : Keeps ref (State.instant s i stamp ws corr y).1 := by
  unfold State.instant
  repeat' with_reducible first | intro _ | assumption | apply keeps_ite | apply keeps_ite1 | apply State.tapWords_keeps | apply State.onStream_keeps | apply State.iff_keeps | apply State.channelSample_keeps | apply State.formEvents_keeps | apply State.count_keeps | apply foldlPair_keeps | apply foldl_keeps | refine Keeps.pair ?_ (by assumption) | split | dsimp only

theorem execEncoderCycle_keeps {i : Fin 32} {stamp : BitVec 80} {index : Word} {samples : List (List (BitVec 16))} {corrected : List (List (BitVec 16))} (hk : Keeps ref s) {t' : State} (he : execEncoderCycle i stamp index samples corrected s = .next t') : Keeps ref t' := by
  injection he with he
  rw [← he]
  repeat' with_reducible first | intro _ | assumption | apply keeps_ite | apply State.instant_keeps | apply State.alive_keeps | apply State.cycleSends_keeps | apply foldlPair_keeps | apply foldl_keeps | refine Keeps.pair ?_ (by assumption) | split | dsimp only

end Sys2Proof.Machine
end

