-- ==== Sys2Proof/Laws/KeepsQueues.lean ====
section
/-! SUPPORT. The operations of Machine/Queues.lean keep what Laws/Keeps.lean says. -/

namespace Sys2Proof.Machine

variable {ref s : State}

theorem State.onComb_keeps {o : Nat} {i : Nat} {f : CombSt → CombSt} (hk : Keeps ref s) : Keeps ref (State.onComb s o i f) := by
  unfold State.onComb
  repeat' with_reducible first | intro _ | assumption | apply keeps_ite | apply State.onOwner_keeps | split | dsimp only

theorem State.combShow_keeps {o : Nat} {i : Nat} (hk : Keeps ref s) : Keeps ref (State.combShow s o i) := by
  unfold State.combShow
  repeat' with_reducible first | intro _ | assumption | apply keeps_ite | apply State.fset_keeps | split | dsimp only

theorem State.onQueue_keeps {o : Nat} {q : Nat} {f : QueueSt → QueueSt} (hk : Keeps ref s) : Keeps ref (State.onQueue s o q f) := by
  unfold State.onQueue
  repeat' with_reducible first | intro _ | assumption | apply keeps_ite | apply State.onOwner_keeps | split | dsimp only

theorem State.disarm_keeps {o : Nat} {i : Nat} (hk : Keeps ref s) : Keeps ref (State.disarm s o i) := by
  unfold State.disarm
  repeat' with_reducible first | intro _ | assumption | apply keeps_ite | apply State.onComb_keeps | apply State.combShow_keeps | apply State.onQueue_keeps | apply State.foff_keeps | split | dsimp only

theorem State.mcEnd_keeps {o : Nat} (hk : Keeps ref s) : Keeps ref (State.mcEnd s o) := by
  unfold State.mcEnd
  repeat' with_reducible first | intro _ | assumption | apply keeps_ite | apply State.iff_keeps | apply State.onOwner_keeps | apply State.request_keeps | apply State.foff_keeps | split | dsimp only

theorem State.mcBit_keeps {o : Nat} {i : Nat} {ok : Bool} (hk : Keeps ref s) : Keeps ref (State.mcBit s o i ok) := by
  unfold State.mcBit
  repeat' with_reducible first | intro _ | assumption | apply keeps_ite | apply State.wr_keeps | apply State.mcEnd_keeps | split | dsimp only

theorem State.mcAbandon_keeps {o : Nat} (hk : Keeps ref s) : Keeps ref (State.mcAbandon s o) := by
  unfold State.mcAbandon
  repeat' with_reducible first | intro _ | assumption | apply keeps_ite | apply State.replied_keeps | apply forL_keeps | apply State.onOwner_keeps | apply State.mcBit_keeps | apply State.count_keeps | split | dsimp only

theorem State.wakeFail_keeps {i : Nat} {bell : Bool} (hk : Keeps ref s) : Keeps ref (State.wakeFail s i bell) := by
  unfold State.wakeFail
  repeat' with_reducible first | intro _ | assumption | apply keeps_ite | apply State.iff_keeps | apply State.onTok_keeps | apply State.count_keeps | split | dsimp only

theorem State.txFail_keeps {o : Nat} {qn : Nat} (hk : Keeps ref s) : Keeps ref (State.txFail s o qn) := by
  unfold State.txFail
  repeat' with_reducible first | intro _ | assumption | apply keeps_ite | apply State.fset_keeps | apply State.fon_keeps | apply State.count_keeps | split | dsimp only

theorem State.sendEnds_keeps {o : Nat} {x : SendSt} {ok : Bool} {counted : Bool} (hk : Keeps ref s) : Keeps ref (State.sendEnds s o x ok counted) := by
  unfold State.sendEnds
  repeat' with_reducible first | intro _ | assumption | apply keeps_ite | apply State.replied_keeps | apply State.onOwner_keeps | apply State.wakeFail_keeps | apply State.mcBit_keeps | apply State.txFail_keeps | split | dsimp only

theorem State.launch_keeps {o : Nat} {x : SendSt} (hk : Keeps ref s) : Keeps ref (State.launch s o x) := by
  unfold State.launch
  repeat' with_reducible first | intro _ | assumption | apply keeps_ite | apply State.reserve_keeps | apply State.onOwner_keeps | apply State.sendEnds_keeps | apply State.count_keeps | apply State.send_keeps | split | dsimp only

theorem State.pumpMc_keeps {o : Nat} (hk : Keeps ref s) : Keeps ref (State.pumpMc s o) := by
  unfold State.pumpMc
  repeat' with_reducible first | intro _ | assumption | apply keeps_ite | apply State.launch_keeps | apply forL_keeps | apply State.onOwner_keeps | split | dsimp only

theorem State.mcStart_keeps {o : Nat} {cells : List (List Byte)} (hk : Keeps ref s) : Keeps ref (State.mcStart s o cells) := by
  unfold State.mcStart
  repeat' with_reducible first | intro _ | assumption | apply keeps_ite | apply State.wr_keeps | apply State.onOwner_keeps | apply State.fon_keeps | apply State.mcEnd_keeps | split | dsimp only

theorem State.pumpCore_keeps {o : Nat} {y2 : Nat} (hk : Keeps ref s) : Keeps ref (State.pumpCore s o y2) := by
  induction y2 generalizing s o with
  | zero =>
    unfold State.pumpCore
    repeat' with_reducible first | intro _ | assumption | apply keeps_ite | apply State.launch_keeps | apply State.pumpMc_keeps | apply State.onOwner_keeps | apply State.mcStart_keeps | apply State.txFail_keeps | apply State.count_keeps | apply State.drawn_keeps | split | dsimp only
  | succ _ ih =>
    unfold State.pumpCore
    repeat' with_reducible first | intro _ | assumption | apply ih | apply keeps_ite | apply State.launch_keeps | apply State.pumpMc_keeps | apply State.onOwner_keeps | apply State.mcStart_keeps | apply State.txFail_keeps | apply State.count_keeps | apply State.drawn_keeps | split | dsimp only

theorem State.pumpWakes_keeps {y1 : Nat} (hk : Keeps ref s) : Keeps ref (State.pumpWakes s y1) := by
  induction y1 generalizing s with
  | zero =>
    unfold State.pumpWakes
    repeat' with_reducible first | intro _ | assumption | apply keeps_ite | apply State.launch_keeps | apply State.onOwner_keeps | split | dsimp only
  | succ _ ih =>
    unfold State.pumpWakes
    repeat' with_reducible first | intro _ | assumption | apply ih | apply keeps_ite | apply State.launch_keeps | apply State.onOwner_keeps | split | dsimp only

theorem State.pump_keeps {o : Nat} (hk : Keeps ref s) : Keeps ref (State.pump s o) := by
  unfold State.pump
  repeat' with_reducible first | intro _ | assumption | apply keeps_ite | apply State.pumpCore_keeps | apply State.pumpMc_keeps | apply State.pumpWakes_keeps | split | dsimp only

theorem State.qSend_keeps {o : Nat} {stores : List (Fin 8 × List Byte)} {w : Nat} (hk : Keeps ref s) : Keeps ref (State.qSend s o stores w) := by
  unfold State.qSend
  repeat' with_reducible first | intro _ | assumption | apply keeps_ite | apply State.pump_keeps | apply State.onOwner_keeps | split | dsimp only

theorem State.sendCl_keeps {type : Nat} {o : Nat} {qn : Nat} {slot : Nat} {count : Nat} {data : List Byte} (hk : Keeps ref s) : Keeps ref (State.sendCl s type o qn slot count data) := by
  unfold State.sendCl
  repeat' with_reducible first | intro _ | assumption | apply keeps_ite | apply State.count_keeps | apply State.send_keeps | split | dsimp only

theorem State.combRelease_keeps {o : Nat} {i : Nat} (hk : Keeps ref s) : Keeps ref (State.combRelease s o i) := by
  unfold State.combRelease
  repeat' with_reducible first | intro _ | assumption | apply keeps_ite | apply State.onComb_keeps | apply State.iff_keeps | apply State.fset_keeps | apply State.sendCl_keeps | apply State.combShow_keeps | apply State.onQueue_keeps | apply State.foff_keeps | split | dsimp only

theorem State.roomSlots_keeps {o : Nat} {q : Nat} {y3 : Nat} (hk : Keeps ref s) : Keeps ref (State.roomSlots s o q y3) := by
  induction y3 generalizing s o q with
  | zero =>
    unfold State.roomSlots
    repeat' with_reducible first | intro _ | assumption | apply keeps_ite | apply State.onComb_keeps | apply State.combRelease_keeps | apply State.onQueue_keeps | split | dsimp only
  | succ _ ih =>
    unfold State.roomSlots
    repeat' with_reducible first | intro _ | assumption | apply ih | apply keeps_ite | apply State.onComb_keeps | apply State.combRelease_keeps | apply State.onQueue_keeps | split | dsimp only

theorem State.qShow_keeps {o : Nat} {q : Nat} (hk : Keeps ref s) : Keeps ref (State.qShow s o q) := by
  unfold State.qShow
  repeat' with_reducible first | intro _ | assumption | apply keeps_ite | apply State.fset_keeps | split | dsimp only

theorem State.msgReply_keeps {o : Nat} {x : SendSt} {code : Nat} {why : Nat} {n : Nat} (hk : Keeps ref s) : Keeps ref (State.msgReply s o x code why n) := by
  unfold State.msgReply
  repeat' with_reducible first | intro _ | assumption | apply keeps_ite | apply State.fset_keeps | apply State.onOwner_keeps | apply State.sendEnds_keeps | apply State.fon_keeps | apply State.count_keeps | split | dsimp only

theorem State.ringWrite_keeps {o : Nat} {q : Nat} {k : Nat} {data : List Byte} {tag : Nat} (hk : Keeps ref s) : Keeps ref (State.ringWrite s o q k data tag) := by
  unfold State.ringWrite
  repeat' with_reducible first | intro _ | assumption | apply keeps_ite | apply State.memWrite_keeps | refine Keeps.pair ?_ (by assumption) | split | dsimp only

theorem State.qCell_keeps {o : Nat} {q : Nat} {src : Nat} {alt : Bool} {last : Bool} {data : List Byte} (hk : Keeps ref s) : Keeps ref (State.qCell s o q src alt last data) := by
  unfold State.qCell
  repeat' with_reducible first | intro _ | assumption | apply keeps_ite | apply State.ringWrite_keeps | apply State.onQueue_keeps | split | dsimp only

theorem State.qDo_keeps {o : Nat} {q : Nat} {f : State → State} (hk : Keeps ref s) (hkf : ∀ t, Keeps ref t → Keeps ref (f t)) : Keeps ref (State.qDo s o q f) := by
  unfold State.qDo
  repeat' with_reducible first | intro _ | assumption | apply keeps_ite | apply State.qShow_keeps | apply State.emitIrq_keeps | apply hkf | split | dsimp only

theorem State.qReply_keeps {q : Nat} {src : Nat} {k : Nat} {code : Nat} {why : Nat} {n : Nat} (hk : Keeps ref s) : Keeps ref (State.qReply s q src k code why n) := by
  unfold State.qReply
  repeat' with_reducible first | intro _ | assumption | apply keeps_ite | apply State.send_keeps | split | dsimp only

theorem State.ringAbsent_keeps {a : Nat} (hk : Keeps ref s) : Keeps ref (State.ringAbsent s a) := by
  unfold State.ringAbsent
  repeat' with_reducible first | intro _ | assumption | apply keeps_ite | apply State.raise_keeps | split | dsimp only

theorem State.ringRead_keeps {o : Nat} {q : Nat} {k : Nat} {ecc : Ecc} {y5 : Nat} (hk : Keeps ref s) : Keeps ref (State.ringRead s o q k ecc y5).1 := by
  induction y5 generalizing s o q k ecc with
  | zero =>
    unfold State.ringRead
    repeat' with_reducible first | intro _ | assumption | apply keeps_ite | apply keeps_ite1 | apply State.memRead_keeps | apply State.ringAbsent_keeps | apply State.drawnN_keeps | refine Keeps.pair ?_ (by assumption) | split | dsimp only
  | succ _ ih =>
    unfold State.ringRead
    repeat' with_reducible first | intro _ | assumption | apply ih | apply keeps_ite | apply keeps_ite1 | apply State.memRead_keeps | apply State.ringAbsent_keeps | apply State.drawnN_keeps | refine Keeps.pair ?_ (by assumption) | split | dsimp only

theorem State.roomRing_keeps {o : Nat} {q : Nat} {ecc : Ecc} {y4 : Nat} (hk : Keeps ref s) : Keeps ref (State.roomRing s o q ecc y4) := by
  induction y4 generalizing s o q ecc with
  | zero =>
    unfold State.roomRing
    repeat' with_reducible first | intro _ | assumption | apply keeps_ite | apply State.onQueue_keeps | apply State.ringRead_keeps | refine Keeps.pair ?_ (by assumption) | split | dsimp only
  | succ _ ih =>
    unfold State.roomRing
    repeat' with_reducible first | intro _ | assumption | apply ih | apply keeps_ite | apply State.onQueue_keeps | apply State.ringRead_keeps | refine Keeps.pair ?_ (by assumption) | split | dsimp only

theorem State.roomNotes_keeps {o : Nat} {q : Nat} {y3 : Nat} (hk : Keeps ref s) : Keeps ref (State.roomNotes s o q y3) := by
  induction y3 generalizing s o q with
  | zero =>
    unfold State.roomNotes
    repeat' with_reducible first | intro _ | assumption | apply keeps_ite | apply State.onQueue_keeps | split | dsimp only
  | succ _ ih =>
    unfold State.roomNotes
    repeat' with_reducible first | intro _ | assumption | apply ih | apply keeps_ite | apply State.onQueue_keeps | split | dsimp only

theorem State.room_keeps {o : Nat} {q : Nat} {ecc : Ecc} (hk : Keeps ref s) : Keeps ref (State.room s o q ecc) := by
  unfold State.room
  repeat' with_reducible first | intro _ | assumption | apply keeps_ite | apply State.roomRing_keeps | apply State.roomSlots_keeps | apply State.roomNotes_keeps | split | dsimp only

theorem State.qFirst_keeps {o : Nat} {q : Nat} {m : QMsg} (hk : Keeps ref s) : Keeps ref (State.qFirst s o q m) := by
  unfold State.qFirst
  repeat' with_reducible first | intro _ | assumption | apply keeps_ite | apply State.ringWrite_keeps | apply State.onOwner_keeps | apply State.onQueue_keeps | apply State.count_keeps | split | dsimp only

theorem execQmsg_keeps {dst : BitVec 22} {q : Fin 16} {lenm1 : BitVec 3} {first : Bool} {last : Bool} {src : BitVec 22} {alt : Bool} {data : List Byte} {ecc : Ecc} (hk : Keeps ref s) {t' : State} (he : execQmsg dst q lenm1 first last src alt data ecc s = .next t') : Keeps ref t' := by
  injection he with he
  rw [← he]
  repeat' with_reducible first | intro _ | assumption | apply keeps_ite | apply State.iff_keeps | apply State.qCell_keeps | apply State.qDo_keeps | apply State.wakeIsland_keeps | apply State.qReply_keeps | apply State.onOwner_keeps | apply State.room_keeps | apply State.alive_keeps | apply State.count_keeps | apply State.qFirst_keeps | split | dsimp only

theorem execQmsgReplyTimeout_keeps {o : Fin 137} {qn : BitVec 16} (hk : Keeps ref s) {t' : State} (he : execQmsgReplyTimeout o qn s = .next t') : Keeps ref t' := by
  injection he with he
  rw [← he]
  repeat' with_reducible first | intro _ | assumption | apply keeps_ite | apply State.pump_keeps | apply State.msgReply_keeps | apply State.alive_keeps | split | dsimp only

theorem State.contribute_keeps {o : Nat} {i : Nat} {count : Nat} {data : List Byte} (hk : Keeps ref s) : Keeps ref (State.contribute s o i count data) := by
  unfold State.contribute
  repeat' with_reducible first | intro _ | assumption | apply keeps_ite | apply State.onComb_keeps | apply State.qDo_keeps | apply State.combRelease_keeps | apply State.room_keeps | apply State.combShow_keeps | apply State.count_keeps | split | dsimp only

theorem State.clArrive_keeps {dst : Nat} {i : Nat} {count : Nat} {data : List Byte} (hk : Keeps ref s) : Keeps ref (State.clArrive s dst i count data) := by
  unfold State.clArrive
  repeat' with_reducible first | intro _ | assumption | apply keeps_ite | apply State.count_keeps | apply State.contribute_keeps | split | dsimp only

theorem execClAdd_keeps {dst : BitVec 22} {slot : BitVec 8} {data : List Byte} (hk : Keeps ref s) {t' : State} (he : execClAdd dst slot data s = .next t') : Keeps ref t' := by
  injection he with he
  rw [← he]
  repeat' with_reducible first | intro _ | assumption | apply keeps_ite | apply State.clArrive_keeps | apply State.alive_keeps | split | dsimp only

theorem execQSend_keeps {o : Fin 136} {stores : List (Fin 8 × List Byte)} {lenm1 : BitVec 3} {queue : BitVec 4} {dest : BitVec 16} (hk : Keeps ref s) {t' : State} (he : execQSend o stores lenm1 queue dest s = .next t') : Keeps ref t' := by
  injection he with he
  rw [← he]
  repeat' with_reducible first | intro _ | assumption | apply keeps_ite | apply State.qSend_keeps | apply State.alive_keeps | split | dsimp only

theorem State.arm_keeps {o : Nat} {i : Nat} (hk : Keeps ref s) : Keeps ref (State.arm s o i) := by
  unfold State.arm
  repeat' with_reducible first | intro _ | assumption | apply keeps_ite | apply State.onComb_keeps | apply State.ignored_keeps | apply State.disarm_keeps | apply State.combShow_keeps | apply State.fon_keeps | apply State.onQueue_keeps | split | dsimp only

theorem State.wdrain_keeps {o : Nat} (hk : Keeps ref s) : Keeps ref (State.wdrain s o) := by
  unfold State.wdrain
  repeat' with_reducible first | intro _ | assumption | apply keeps_ite | apply State.onOwner_keeps | apply State.emit_keeps | split | dsimp only

theorem execQWdrain_keeps {o : Fin 136} (hk : Keeps ref s) {t' : State} (he : execQWdrain o s = .next t') : Keeps ref t' := by
  injection he with he
  rw [← he]
  repeat' with_reducible first | intro _ | assumption | apply keeps_ite | apply State.wdrain_keeps | apply State.alive_keeps | split | dsimp only

theorem State.clSend_keeps {o : Nat} {slot : Nat} {qn : Nat} (hk : Keeps ref s) : Keeps ref (State.clSend s o slot qn) := by
  unfold State.clSend
  repeat' with_reducible first | intro _ | assumption | apply keeps_ite | apply State.sendCl_keeps | split | dsimp only

theorem execQCladd_keeps {o : Fin 136} {stores : List (Fin 8 × List Byte)} {slot : BitVec 6} {qn : BitVec 16} (hk : Keeps ref s) {t' : State} (he : execQCladd o stores slot qn s = .next t') : Keeps ref t' := by
  injection he with he
  rw [← he]
  repeat' with_reducible first | intro _ | assumption | apply keeps_ite | apply State.onOwner_keeps | apply State.clSend_keeps | apply State.alive_keeps | split | dsimp only

theorem State.openQueue_keeps {o : Nat} {q : Nat} (hk : Keeps ref s) : Keeps ref (State.openQueue s o q) := by
  unfold State.openQueue
  repeat' with_reducible first | intro _ | assumption | apply keeps_ite | apply State.ignored_keeps | apply State.fon_keeps | apply State.onQueue_keeps | split | dsimp only

theorem execQueueOpen_keeps {m : Master} {o : Fin 136} {q : Fin 16} {ie : Bool} {ringLen : BitVec 20} (hk : Keeps ref s) {t' : State} (he : execQueueOpen m o q ie ringLen s = .next t') : Keeps ref t' := by
  injection he with he
  rw [← he]
  repeat' with_reducible first | intro _ | assumption | apply keeps_ite | apply State.fset_keeps | apply State.ignored_keeps | apply State.openQueue_keeps | apply State.qDo_keeps | apply State.guarded_keeps | apply State.alive_keeps | apply State.fflag_keeps | split | dsimp only

theorem execCombDisarm_keeps {m : Master} {o : Fin 136} {i : Fin 64} (hk : Keeps ref s) {t' : State} (he : execCombDisarm m o i s = .next t') : Keeps ref t' := by
  injection he with he
  rw [← he]
  repeat' with_reducible first | intro _ | assumption | apply keeps_ite | apply State.qDo_keeps | apply State.disarm_keeps | apply State.room_keeps | apply State.guarded_keeps | apply State.alive_keeps | split | dsimp only

theorem execQSendMulticast_keeps {o : Fin 136} {stores : List (Fin 8 × List Byte)} {lenm1 : BitVec 3} (hk : Keeps ref s) {t' : State} (he : execQSendMulticast o stores lenm1 s = .next t') : Keeps ref t' := by
  injection he with he
  rw [← he]
  repeat' with_reducible first | intro _ | assumption | apply keeps_ite | apply State.qSend_keeps | apply State.alive_keeps | split | dsimp only

theorem State.closeQueue_keeps {o : Nat} {q : Nat} (hk : Keeps ref s) : Keeps ref (State.closeQueue s o q) := by
  unfold State.closeQueue
  repeat' with_reducible first | intro _ | assumption | apply keeps_ite | apply State.disarm_keeps | apply State.onOwner_keeps | apply forN_keeps | apply State.onQueue_keeps | apply State.count_keeps | apply State.foff_keeps | apply foldlPair_keeps | apply foldl_keeps | refine Keeps.pair ?_ (by assumption) | split | dsimp only

theorem execCombArm_keeps {m : Master} {o : Fin 136} {i : Fin 64} {auto : Bool} {mode : BitVec 2} {queue : BitVec 4} {expect : BitVec 16} (hk : Keeps ref s) {t' : State} (he : execCombArm m o i auto mode queue expect s = .next t') : Keeps ref t' := by
  injection he with he
  rw [← he]
  repeat' with_reducible first | intro _ | assumption | apply keeps_ite | apply State.fset_keeps | apply State.ignored_keeps | apply State.qDo_keeps | apply State.room_keeps | apply State.arm_keeps | apply State.guarded_keeps | apply State.alive_keeps | apply State.fflag_keeps | split | dsimp only

theorem execQmsgResend_keeps {o : Fin 137} {qn : BitVec 16} (hk : Keeps ref s) {t' : State} (he : execQmsgResend o qn s = .next t') : Keeps ref t' := by
  injection he with he
  rw [← he]
  repeat' with_reducible first | intro _ | assumption | apply keeps_ite | apply State.pump_keeps | apply State.launch_keeps | apply State.alive_keeps | split | dsimp only

theorem State.queuesReset_keeps {o : Nat} (hk : Keeps ref s) : Keeps ref (State.queuesReset s o) := by
  unfold State.queuesReset
  repeat' with_reducible first | intro _ | assumption | apply keeps_ite | apply State.replied_keeps | apply State.qDo_keeps | apply State.closeQueue_keeps | apply State.disarm_keeps | apply State.wr_keeps | apply State.onOwner_keeps | apply forN_keeps | apply State.foff_keeps | apply foldlPair_keeps | apply foldl_keeps | refine Keeps.pair ?_ (by assumption) | split | dsimp only

theorem State.qPop_keeps {o : Nat} {q : Nat} {ecc : Ecc} (hk : Keeps ref s) : Keeps ref (State.qPop s o q ecc) := by
  unfold State.qPop
  repeat' with_reducible first | intro _ | assumption | apply keeps_ite | apply State.qDo_keeps | apply State.room_keeps | apply State.onQueue_keeps | apply State.emit_keeps | split | dsimp only

theorem execQmsgReply_keeps {o : Fin 137} {qn : BitVec 16} {code : Fin 8} {why : BitVec 8} {n : BitVec 8} (hk : Keeps ref s) {t' : State} (he : execQmsgReply o qn code why n s = .next t') : Keeps ref t' := by
  injection he with he
  rw [← he]
  repeat' with_reducible first | intro _ | assumption | apply keeps_ite | apply State.pump_keeps | apply State.msgReply_keeps | apply State.alive_keeps | split | dsimp only

theorem execQueuePop_keeps {o : Fin 136} {q : Fin 16} {ecc : Ecc} (hk : Keeps ref s) {t' : State} (he : execQueuePop o q ecc s = .next t') : Keeps ref t' := by
  injection he with he
  rw [← he]
  repeat' with_reducible first | intro _ | assumption | apply keeps_ite | apply State.qPop_keeps | apply State.alive_keeps | split | dsimp only

theorem execMcTimeout_keeps {o : Fin 136} (hk : Keeps ref s) {t' : State} (he : execMcTimeout o s = .next t') : Keeps ref t' := by
  injection he with he
  rw [← he]
  repeat' with_reducible first | intro _ | assumption | apply keeps_ite | apply State.pump_keeps | apply State.mcAbandon_keeps | apply State.alive_keeps | split | dsimp only

theorem execQueueClose_keeps {m : Master} {o : Fin 136} {q : Fin 16} (hk : Keeps ref s) {t' : State} (he : execQueueClose m o q s = .next t') : Keeps ref t' := by
  injection he with he
  rw [← he]
  repeat' with_reducible first | intro _ | assumption | apply keeps_ite | apply State.qDo_keeps | apply State.closeQueue_keeps | apply State.guarded_keeps | apply State.alive_keeps | split | dsimp only

theorem execClSum_keeps {dst : BitVec 22} {slot : BitVec 8} {count : BitVec 16} {data : List Byte} (hk : Keeps ref s) {t' : State} (he : execClSum dst slot count data s = .next t') : Keeps ref t' := by
  injection he with he
  rw [← he]
  repeat' with_reducible first | intro _ | assumption | apply keeps_ite | apply State.clArrive_keeps | apply State.alive_keeps | split | dsimp only

end Sys2Proof.Machine
end

