-- ==== Sys2Proof/Laws/KeepsTokenEngine.lean ====
section
/-! SUPPORT. The operations of Machine/TokenEngine.lean keep what Laws/Keeps.lean says. -/

namespace Sys2Proof.Machine

variable {ref s : State}

theorem State.kvShow_keeps {i : Nat} {u : Nat} (hk : Keeps ref s) : Keeps ref (State.kvShow s i u) := by
  unfold State.kvShow
  repeat' with_reducible first | intro _ | assumption | apply keeps_ite | apply State.fset_keeps | split | dsimp only

theorem State.kvZero_keeps {i : Nat} {u : Nat} (hk : Keeps ref s) : Keeps ref (State.kvZero s i u) := by
  unfold State.kvZero
  repeat' with_reducible first | intro _ | assumption | apply keeps_ite | apply State.fset_keeps | apply State.kvShow_keeps | apply State.wr_keeps | split | dsimp only

theorem State.kvDisable_keeps {i : Nat} {u : Nat} (hk : Keeps ref s) : Keeps ref (State.kvDisable s i u) := by
  unfold State.kvDisable
  repeat' with_reducible first | intro _ | assumption | apply keeps_ite | apply State.kvZero_keeps | apply State.foff_keeps | split | dsimp only

theorem execKvDisable_keeps {m : Master} {i : Fin 32} {u : Fin 2} (hk : Keeps ref s) {t' : State} (he : execKvDisable m i u s = .next t') : Keeps ref t' := by
  injection he with he
  rw [← he]
  repeat' with_reducible first | intro _ | assumption | apply keeps_ite | apply State.kvDisable_keeps | apply State.guarded_keeps | apply State.alive_keeps | split | dsimp only

theorem State.kvRefused_keeps {i : Nat} {u : Nat} (hk : Keeps ref s) : Keeps ref (State.kvRefused s i u) := by
  unfold State.kvRefused
  repeat' with_reducible first | intro _ | assumption | apply keeps_ite | apply State.fon_keeps | apply State.count_keeps | split | dsimp only

theorem State.kvAppend_keeps {i : Nat} {u : Nat} {n : Nat} (hk : Keeps ref s) : Keeps ref (State.kvAppend s i u n) := by
  unfold State.kvAppend
  repeat' with_reducible first | intro _ | assumption | apply keeps_ite | apply State.iff_keeps | apply State.fset_keeps | apply State.kvShow_keeps | apply State.kvRefused_keeps | apply State.wrN_keeps | apply State.fon_keeps | split | dsimp only

theorem State.setHostQ_keeps {i : Nat} {cls : Bool} {q : HostQ} (hk : Keeps ref s) : Keeps ref (State.setHostQ s i cls q) := by
  unfold State.setHostQ
  repeat' with_reducible first | intro _ | assumption | apply keeps_ite | apply State.onTok_keeps | split | dsimp only

theorem State.hostPop_keeps {i : Nat} {cls : Bool} (hk : Keeps ref s) : Keeps ref (State.hostPop s i cls).1 := by
  unfold State.hostPop
  repeat' with_reducible first | intro _ | assumption | apply keeps_ite | apply keeps_ite1 | apply State.setHostQ_keeps | split | dsimp only

theorem State.pop128_keeps {i : Nat} {cls : Bool} {ok : Bool} (hk : Keeps ref s) : Keeps ref (State.pop128 s i cls ok) := by
  unfold State.pop128
  repeat' with_reducible first | intro _ | assumption | apply keeps_ite | apply State.hostPop_keeps | apply State.emit_keeps | refine Keeps.pair ?_ (by assumption) | split | dsimp only

theorem State.frameWrite_keeps {i : Nat} {b : BinSt} (hk : Keeps ref s) : Keeps ref (State.frameWrite s i b) := by
  unfold State.frameWrite
  repeat' with_reducible first | intro _ | assumption | apply keeps_ite | apply State.iff_keeps | apply State.ddrHold_keeps | apply State.memWrite_keeps | apply State.count_keeps | apply State.drawn_keeps | refine Keeps.pair ?_ (by assumption) | split | dsimp only

theorem State.bridgeBoundary_keeps {i : Nat} {u : Nat} (hk : Keeps ref s) : Keeps ref (State.bridgeBoundary s i u) := by
  unfold State.bridgeBoundary
  repeat' with_reducible first | intro _ | assumption | apply keeps_ite | apply forL_keeps | apply State.onTok_keeps | apply State.frameWrite_keeps | split | dsimp only

theorem execPop128_keeps {i : Fin 32} {cls : Bool} {size : BitVec 8} {aligned : Bool} (hk : Keeps ref s) {t' : State} (he : execPop128 i cls size aligned s = .next t') : Keeps ref t' := by
  injection he with he
  rw [← he]
  repeat' with_reducible first | intro _ | assumption | apply keeps_ite | apply State.bar_keeps | apply State.pop128_keeps | apply State.alive_keeps | split | dsimp only

theorem State.kvAccept_keeps {i : Nat} {u : Nat} {n : Nat} (hk : Keeps ref s) : Keeps ref (State.kvAccept s i u n) := by
  unfold State.kvAccept
  repeat' with_reducible first | intro _ | assumption | apply keeps_ite | apply State.fset_keeps | apply State.kvShow_keeps | apply State.kvRefused_keeps | apply State.wrN_keeps | split | dsimp only

theorem State.kvOp_keeps {i : Nat} {u : Nat} {op : Nat} {n : Nat} (hk : Keeps ref s) : Keeps ref (State.kvOp s i u op n) := by
  unfold State.kvOp
  repeat' with_reducible first | intro _ | assumption | apply keeps_ite | apply State.fset_keeps | apply State.kvAppend_keeps | apply State.kvAccept_keeps | apply State.kvZero_keeps | apply State.fon_keeps | apply State.foff_keeps | split | dsimp only

theorem State.kvCommand_keeps {m : Master} {i : Nat} {u : Nat} {op : Nat} {n : Nat} (hk : Keeps ref s) : Keeps ref (State.kvCommand s m i u op n) := by
  unfold State.kvCommand
  repeat' with_reducible first | intro _ | assumption | apply keeps_ite | apply State.guarded_keeps | apply State.kvOp_keeps | split | dsimp only

theorem execKvAppend_keeps {m : Master} {i : Fin 32} {u : Fin 2} {n : BitVec 8} (hk : Keeps ref s) {t' : State} (he : execKvAppend m i u n s = .next t') : Keeps ref t' := by
  injection he with he
  rw [← he]
  repeat' with_reducible first | intro _ | assumption | apply keeps_ite | apply State.kvCommand_keeps | apply State.alive_keeps | split | dsimp only

theorem execKvRollback_keeps {m : Master} {i : Fin 32} {u : Fin 2} (hk : Keeps ref s) {t' : State} (he : execKvRollback m i u s = .next t') : Keeps ref t' := by
  injection he with he
  rw [← he]
  repeat' with_reducible first | intro _ | assumption | apply keeps_ite | apply State.kvCommand_keeps | apply State.alive_keeps | split | dsimp only

theorem State.hostShadow_keeps {i : Nat} {cls : Bool} (hk : Keeps ref s) : Keeps ref (State.hostShadow s i cls) := by
  unfold State.hostShadow
  repeat' with_reducible first | intro _ | assumption | apply keeps_ite | apply State.setHostQ_keeps | apply State.count_keeps | split | dsimp only

theorem State.ctxShow_keeps {i : Nat} (hk : Keeps ref s) : Keeps ref (State.ctxShow s i) := by
  unfold State.ctxShow
  repeat' with_reducible first | intro _ | assumption | apply keeps_ite | apply State.fset_keeps | split | dsimp only

theorem execContextBoundary_keeps {i : Fin 32} (hk : Keeps ref s) {t' : State} (he : execContextBoundary i s = .next t') : Keeps ref t' := by
  injection he with he
  rw [← he]
  repeat' with_reducible first | intro _ | assumption | apply keeps_ite | apply State.iff_keeps | apply State.onTok_keeps | apply State.countDeferral_keeps | apply forN_keeps | apply State.reportEnd_keeps | apply State.ctxShow_keeps | apply State.alive_keeps | apply State.emitAll_keeps | apply foldlPair_keeps | apply foldl_keeps | refine Keeps.pair ?_ (by assumption) | split | dsimp only

theorem State.windowSignal_keeps {i : Nat} (hk : Keeps ref s) : Keeps ref (State.windowSignal s i) := by
  unfold State.windowSignal
  repeat' with_reducible first | intro _ | assumption | apply keeps_ite | apply State.request_keeps | split | dsimp only

theorem State.openWindow_keeps {i : Nat} {time : Nat} (hk : Keeps ref s) : Keeps ref (State.openWindow s i time) := by
  unfold State.openWindow
  repeat' with_reducible first | intro _ | assumption | apply keeps_ite | apply State.onStream_keeps | apply State.windowSignal_keeps | apply State.count_keeps | split | dsimp only

theorem State.wakeSend_keeps {i : Nat} {kind : Nat} {time : Nat} {step : Nat} {n : Nat} {j : Nat} {grade : Nat} {cls : Nat} {arg : Nat} (hk : Keeps ref s) : Keeps ref (State.wakeSend s i kind time step n j grade cls arg) := by
  unfold State.wakeSend
  repeat' with_reducible first | intro _ | assumption | apply keeps_ite | apply State.pump_keeps | apply State.onTok_keeps | apply State.onOwner_keeps | apply State.openWindow_keeps | apply State.count_keeps | split | dsimp only

theorem execDoorbell_keeps {i : Fin 32} {arg : Word} (hk : Keeps ref s) {t' : State} (he : execDoorbell i arg s = .next t') : Keeps ref t' := by
  injection he with he
  rw [← he]
  repeat' with_reducible first | intro _ | assumption | apply keeps_ite | apply State.bar_keeps | apply State.wakeSend_keeps | apply State.alive_keeps | split | dsimp only

theorem State.bridgeReset_keeps {i : Nat} (hk : Keeps ref s) : Keeps ref (State.bridgeReset s i) := by
  unfold State.bridgeReset
  repeat' with_reducible first | intro _ | assumption | apply keeps_ite | apply State.onTok_keeps | split | dsimp only

theorem execKvAccept_keeps {m : Master} {i : Fin 32} {u : Fin 2} {n : BitVec 8} (hk : Keeps ref s) {t' : State} (he : execKvAccept m i u n s = .next t') : Keeps ref t' := by
  injection he with he
  rw [← he]
  repeat' with_reducible first | intro _ | assumption | apply keeps_ite | apply State.kvCommand_keeps | apply State.alive_keeps | split | dsimp only

theorem State.ctxPush_keeps {i : Nat} {hi : Word} (hk : Keeps ref s) : Keeps ref (State.ctxPush s i hi) := by
  unfold State.ctxPush
  repeat' with_reducible first | intro _ | assumption | apply keeps_ite | apply State.onTok_keeps | apply State.ctxShow_keeps | apply State.fon_keeps | apply State.count_keeps | split | dsimp only

theorem execCtxPush_keeps {m : Master} {i : Fin 32} {lo : Word} {hi : Word} (hk : Keeps ref s) {t' : State} (he : execCtxPush m i lo hi s = .next t') : Keeps ref t' := by
  injection he with he
  rw [← he]
  repeat' with_reducible first | intro _ | assumption | apply keeps_ite | apply State.ctxPush_keeps | apply State.onTok_keeps | apply State.guarded_keeps | apply State.alive_keeps | split | dsimp only

theorem State.pop64_keeps {i : Nat} {cls : Bool} {ok : Bool} (hk : Keeps ref s) : Keeps ref (State.pop64 s i cls ok) := by
  unfold State.pop64
  repeat' with_reducible first | intro _ | assumption | apply keeps_ite | apply State.hostPop_keeps | apply State.emit_keeps | refine Keeps.pair ?_ (by assumption) | split | dsimp only

theorem execPop64_keeps {i : Fin 32} {cls : Bool} {size : BitVec 8} {aligned : Bool} (hk : Keeps ref s) {t' : State} (he : execPop64 i cls size aligned s = .next t') : Keeps ref t' := by
  injection he with he
  rw [← he]
  repeat' with_reducible first | intro _ | assumption | apply keeps_ite | apply State.bar_keeps | apply State.pop64_keeps | apply State.alive_keeps | split | dsimp only

theorem State.hostPush_keeps {i : Nat} {cls : Bool} {type : Nat} {payload : Nat} {stamp : Nat} (hk : Keeps ref s) : Keeps ref (State.hostPush s i cls type payload stamp) := by
  unfold State.hostPush
  repeat' with_reducible first | intro _ | assumption | apply keeps_ite | apply State.iff_keeps | apply State.setHostQ_keeps | apply State.emit_keeps | split | dsimp only

theorem State.cqPost_keeps {i : Nat} {cls : Nat} {n : Nat} {j : Nat} {grade : Nat} {stamp : Nat} (hk : Keeps ref s) : Keeps ref (State.cqPost s i cls n j grade stamp) := by
  unfold State.cqPost
  repeat' with_reducible first | intro _ | assumption | apply keeps_ite | apply State.setHostQ_keeps | apply State.hostShadow_keeps | apply State.count_keeps | apply State.hostPush_keeps | split | dsimp only

theorem State.wakeRecord_keeps {i : Nat} {n : Nat} {j : Nat} {grade : Nat} {u : Nat} (hk : Keeps ref s) : Keeps ref (State.wakeRecord s i n j grade u) := by
  unfold State.wakeRecord
  repeat' with_reducible first | intro _ | assumption | apply keeps_ite | apply State.cqPost_keeps | apply State.onTok_keeps | apply State.wakeSend_keeps | apply State.count_keeps | split | dsimp only

theorem execKvReset_keeps {m : Master} {i : Fin 32} {u : Fin 2} (hk : Keeps ref s) {t' : State} (he : execKvReset m i u s = .next t') : Keeps ref t' := by
  injection he with he
  rw [← he]
  repeat' with_reducible first | intro _ | assumption | apply keeps_ite | apply State.kvCommand_keeps | apply State.alive_keeps | split | dsimp only

theorem State.onBin_keeps {i : Nat} {frame : Nat} {f : BinSt → BinSt} (hk : Keeps ref s) : Keeps ref (State.onBin s i frame f) := by
  unfold State.onBin
  repeat' with_reducible first | intro _ | assumption | apply keeps_ite | apply State.onTok_keeps | split | dsimp only

theorem State.bridgeRecord_keeps {i : Nat} {n : Nat} {j : Nat} {grade : Nat} {u : Nat} (hk : Keeps ref s) : Keeps ref (State.bridgeRecord s i n j grade u) := by
  unfold State.bridgeRecord
  repeat' with_reducible first | intro _ | assumption | apply keeps_ite | apply State.onTok_keeps | apply State.onBin_keeps | apply State.count_keeps | split | dsimp only

theorem execOutputRecord_keeps {n : Fin 1024} {j : BitVec 14} {grade : BitVec 8} {u : Word} (hk : Keeps ref s) {t' : State} (he : execOutputRecord n j grade u s = .next t') : Keeps ref t' := by
  injection he with he
  rw [← he]
  repeat' with_reducible first | intro _ | assumption | apply keeps_ite | apply State.bridgeRecord_keeps | apply State.digestRecord_keeps | apply State.wakeRecord_keeps | apply forN_keeps | apply State.trigMap_keeps | apply State.alive_keeps | apply State.count_keeps | split | dsimp only

theorem State.rqPost_keeps {i : Nat} {v : Nat} (hk : Keeps ref s) : Keeps ref (State.rqPost s i v) := by
  unfold State.rqPost
  repeat' with_reducible first | intro _ | assumption | apply keeps_ite | apply State.onTok_keeps | apply State.hostShadow_keeps | apply State.count_keeps | apply State.hostPush_keeps | split | dsimp only

theorem execRqPost_keeps {m : Master} {i : Fin 32} {v : BitVec 64} (hk : Keeps ref s) {t' : State} (he : execRqPost m i v s = .next t') : Keeps ref t' := by
  injection he with he
  rw [← he]
  repeat' with_reducible first | intro _ | assumption | apply keeps_ite | apply State.rqPost_keeps | apply State.onTok_keeps | apply State.guarded_keeps | apply State.alive_keeps | split | dsimp only

theorem execReplayRead_keeps {i : Fin 32} {cls : Bool} {off : BitVec 11} {size : BitVec 8} (hk : Keeps ref s) {t' : State} (he : execReplayRead i cls off size s = .next t') : Keeps ref t' := by
  injection he with he
  rw [← he]
  repeat' with_reducible first | intro _ | assumption | apply keeps_ite | apply State.bar_keeps | apply State.alive_keeps | apply State.emit_keeps | split | dsimp only

theorem execKvOtherOp_keeps {m : Master} {i : Fin 32} {u : Fin 2} {op : BitVec 4} {n : BitVec 8} (hk : Keeps ref s) {t' : State} (he : execKvOtherOp m i u op n s = .next t') : Keeps ref t' := by
  injection he with he
  rw [← he]
  repeat' with_reducible first | intro _ | assumption | apply keeps_ite | apply State.kvCommand_keeps | apply State.alive_keeps | split | dsimp only

end Sys2Proof.Machine
end

