-- ==== Sys2Proof/Laws/KeepsSteps.lean ====
section
/-! SUPPORT. The operations of Machine/Steps.lean keep what Laws/Keeps.lean says. -/

namespace Sys2Proof.Machine

variable {ref s : State}

theorem State.settle_keeps {y1 : Nat} (hk : Keeps ref s) : Keeps ref (State.settle s y1) := by
  induction y1 generalizing s with
  | zero =>
    unfold State.settle
    repeat' with_reducible first | intro _ | assumption | apply keeps_ite | refine State.onTb_keeps ?_ (by intro b; first | exact ⟨rfl, rfl, rfl⟩ | (refine ⟨?_, ?_, ?_⟩ <;> (repeat' split) <;> rfl)) | split | dsimp only
  | succ _ ih =>
    unfold State.settle
    repeat' with_reducible first | intro _ | assumption | apply ih | apply keeps_ite | refine State.onTb_keeps ?_ (by intro b; first | exact ⟨rfl, rfl, rfl⟩ | (refine ⟨?_, ?_, ?_⟩ <;> (repeat' split) <;> rfl)) | split | dsimp only

theorem State.settled_keeps  (hk : Keeps ref s) : Keeps ref (State.settled s) := by
  unfold State.settled
  repeat' with_reducible first | intro _ | assumption | apply keeps_ite | apply State.settle_keeps | split | dsimp only

theorem State.altReturn_keeps  (hk : Keeps ref s) : Keeps ref (State.altReturn s) := by
  unfold State.altReturn
  repeat' with_reducible first | intro _ | assumption | apply keeps_ite | apply State.onLink_keeps | apply forN_keeps | apply State.fflag_keeps | apply State.foff_keeps | split | dsimp only

theorem State.deferSum_keeps  (hk : Keeps ref s) : Keeps ref (State.deferSum s) := by
  unfold State.deferSum
  repeat' with_reducible first | intro _ | assumption | apply keeps_ite | apply State.raise_keeps | refine State.onTb_keeps ?_ (by intro b; first | exact ⟨rfl, rfl, rfl⟩ | (refine ⟨?_, ?_, ?_⟩ <;> (repeat' split) <;> rfl)) | apply State.count_keeps | split | dsimp only

theorem State.boundaryIssue_keeps {late : Nat} (hk : Keeps ref s) : Keeps ref (State.boundaryIssue s late) := by
  unfold State.boundaryIssue
  repeat' with_reducible first | intro _ | assumption | apply keeps_ite | apply State.digestBoundary_keeps | apply State.iff_keeps | apply State.fset_keeps | apply State.altReturn_keeps | apply State.deferSum_keeps | apply State.wrN_keeps | apply State.subDone_keeps | apply forN_keeps | apply State.bridgeBoundary_keeps | refine State.onTb_keeps ?_ (by intro b; first | exact ⟨rfl, rfl, rfl⟩ | (refine ⟨?_, ?_, ?_⟩ <;> (repeat' split) <;> rfl)) | apply State.levelReturns_keeps | apply State.emit_keeps | split | dsimp only

theorem State.tryBoundary_keeps {nominal : Bool} (hk : Keeps ref s) : Keeps ref (State.tryBoundary s nominal) := by
  unfold State.tryBoundary
  repeat' with_reducible first | intro _ | assumption | apply keeps_ite | apply State.settled_keeps | apply State.iff_keeps | apply State.raise_keeps | apply State.boundaryIssue_keeps | refine State.onTb_keeps ?_ (by intro b; first | exact ⟨rfl, rfl, rfl⟩ | (refine ⟨?_, ?_, ?_⟩ <;> (repeat' split) <;> rfl)) | apply State.count_keeps | split | dsimp only

theorem execEmissionStepComplete_keeps  (hk : Keeps ref s) {t' : State} (he : execEmissionStepComplete s = .next t') : Keeps ref t' := by
  injection he with he
  rw [← he]
  repeat' with_reducible first | intro _ | assumption | apply keeps_ite | apply State.settled_keeps | apply State.tryBoundary_keeps | apply State.alive_keeps | split | dsimp only

theorem execStretchLimit_keeps  (hk : Keeps ref s) {t' : State} (he : execStretchLimit s = .next t') : Keeps ref t' := by
  injection he with he
  rw [← he]
  repeat' with_reducible first | intro _ | assumption | apply keeps_ite | apply State.tryBoundary_keeps | apply State.alive_keeps | split | dsimp only

theorem State.chrNoStep_keeps  (hk : Keeps ref s) : Keeps ref (State.chrNoStep s) := by
  unfold State.chrNoStep
  repeat' with_reducible first | intro _ | assumption | apply keeps_ite | apply State.chrFailed_keeps | split | dsimp only

theorem State.stepStop_keeps  (hk : Keeps ref s) : Keeps ref (State.stepStop s) := by
  unfold State.stepStop
  repeat' with_reducible first | intro _ | assumption | apply keeps_ite | apply State.digestStop_keeps | apply State.chrNoStep_keeps | apply State.subDone_keeps | apply forN_keeps | apply State.streamReturns_keeps | refine State.onTb_keeps ?_ (by intro b; first | exact ⟨rfl, rfl, rfl⟩ | (refine ⟨?_, ?_, ?_⟩ <;> (repeat' split) <;> rfl)) | apply State.foff_keeps | split | dsimp only

theorem State.stepStart_keeps  (hk : Keeps ref s) : Keeps ref (State.stepStart s) := by
  unfold State.stepStart
  repeat' with_reducible first | intro _ | assumption | apply keeps_ite | apply forN_keeps | apply State.setPin_keeps | apply State.fon_keeps | refine State.onTb_keeps ?_ (by intro b; first | exact ⟨rfl, rfl, rfl⟩ | (refine ⟨?_, ?_, ?_⟩ <;> (repeat' split) <;> rfl)) | split | dsimp only

theorem State.stepEnable_keeps  (hk : Keeps ref s) : Keeps ref (State.stepEnable s) := by
  unfold State.stepEnable
  repeat' with_reducible first | intro _ | assumption | apply keeps_ite | apply State.showAdmission_keeps | apply State.stepStart_keeps | split | dsimp only

theorem execStepGeneratorStop_keeps {m : Master} (hk : Keeps ref s) {t' : State} (he : execStepGeneratorStop m s = .next t') : Keeps ref t' := by
  injection he with he
  rw [← he]
  repeat' with_reducible first | intro _ | assumption | apply keeps_ite | apply State.guarded_keeps | apply State.stepStop_keeps | apply State.alive_keeps | split | dsimp only

theorem execStepGeneratorEnable_keeps {m : Master} (hk : Keeps ref s) {t' : State} (he : execStepGeneratorEnable m s = .next t') : Keeps ref t' := by
  injection he with he
  rw [← he]
  repeat' with_reducible first | intro _ | assumption | apply keeps_ite | apply State.stepEnable_keeps | apply State.guarded_keeps | apply State.alive_keeps | split | dsimp only

theorem execStepNominalInstant_keeps  (hk : Keeps ref s) {t' : State} (he : execStepNominalInstant s = .next t') : Keeps ref t' := by
  injection he with he
  rw [← he]
  repeat' with_reducible first | intro _ | assumption | apply keeps_ite | apply State.tryBoundary_keeps | refine State.onTb_keeps ?_ (by intro b; first | exact ⟨rfl, rfl, rfl⟩ | (refine ⟨?_, ?_, ?_⟩ <;> (repeat' split) <;> rfl)) | apply State.alive_keeps | split | dsimp only

end Sys2Proof.Machine
end

