-- ==== Sys2Proof/Laws/KeepsTile.lean ====
section
/-! SUPPORT. The operations of Machine/Tile.lean keep what Laws/Keeps.lean says. -/

namespace Sys2Proof.Machine

variable {ref s : State}

theorem State.tileShow_keeps {t : Nat} (hk : Keeps ref s) : Keeps ref (State.tileShow s t) := by
  unfold State.tileShow
  repeat' with_reducible first | intro _ | assumption | apply keeps_ite | apply State.fset_keeps | apply State.fflag_keeps | split | dsimp only

theorem State.onRunning_keeps {t : Nat} {f : State → State} (hk : Keeps ref s) (hkf : ∀ t, Keeps ref t → Keeps ref (f t)) : Keeps ref (State.onRunning s t f) := by
  unfold State.onRunning
  repeat' with_reducible first | intro _ | assumption | apply keeps_ite | apply State.tileShow_keeps | apply hkf | split | dsimp only

theorem State.enqueue_keeps {i : Nat} {w : List Word} (hk : Keeps ref s) : Keeps ref (State.enqueue s i w) := by
  unfold State.enqueue
  repeat' with_reducible first | intro _ | assumption | apply keeps_ite | apply State.onTile_keeps | apply State.tileShow_keeps | split | dsimp only

theorem State.portStores_keeps {i : Nat} {l : List (Nat × Word)} (hk : Keeps ref s) : Keeps ref (State.portStores s i l) := by
  unfold State.portStores
  repeat' with_reducible first | intro _ | assumption | apply keeps_ite | apply State.enqueue_keeps | apply forL_keeps | apply State.onTile_keeps | split | dsimp only

theorem State.onRun_keeps {t : Nat} {k : Nat} {f : FRun → FRun} (hk : Keeps ref s) : Keeps ref (State.onRun s t k f) := by
  unfold State.onRun
  repeat' with_reducible first | intro _ | assumption | apply keeps_ite | apply State.onTile_keeps | split | dsimp only

theorem State.tqTake_keeps {t : Nat} {q : Nat} (hk : Keeps ref s) : Keeps ref (State.tqTake s t q) := by
  unfold State.tqTake
  repeat' with_reducible first | intro _ | assumption | apply keeps_ite | apply State.fset_keeps | split | dsimp only

theorem State.setPoison_keeps {t : Nat} {b : Nat} {g : Nat} {code : Nat} (hk : Keeps ref s) : Keeps ref (State.setPoison s t b g code) := by
  unfold State.setPoison
  repeat' with_reducible first | intro _ | assumption | apply keeps_ite | apply State.onTile_keeps | split | dsimp only

theorem State.fetchGranule_keeps {t : Nat} {b : Nat} {g : Nat} {a : Nat} {core : Nat} {quiet : Bool} {ecc : Ecc} (hk : Keeps ref s) : Keeps ref (State.fetchGranule s t b g a core quiet ecc) := by
  unfold State.fetchGranule
  repeat' with_reducible first | intro _ | assumption | apply keeps_ite | apply State.memRead_keeps | apply State.setPoison_keeps | apply State.iff_keeps | apply State.wrN_keeps | apply State.mwrite_keeps | refine Keeps.pair ?_ (by assumption) | split | dsimp only

theorem State.fetchRead_keeps {t : Nat} {d : Desc} {q : Nat} {fpos : Nat} {quiet : Bool} {ecc : List (BitVec 16 × Ecc)} (hk : Keeps ref s) : Keeps ref (State.fetchRead s t d q fpos quiet ecc) := by
  unfold State.fetchRead
  repeat' with_reducible first | intro _ | assumption | apply keeps_ite | apply forN_keeps | apply State.fetchGranule_keeps | split | dsimp only

theorem State.fetchNext_keeps {t : Nat} {k : Nat} {ecc : List (BitVec 16 × Ecc)} (hk : Keeps ref s) : Keeps ref (State.fetchNext s t k ecc) := by
  unfold State.fetchNext
  repeat' with_reducible first | intro _ | assumption | apply keeps_ite | apply State.iff_keeps | apply State.fset_keeps | apply State.onRun_keeps | apply State.count_keeps | apply State.tqTake_keeps | apply State.fetchRead_keeps | split | dsimp only

theorem State.tileErrRec_keeps {t : Nat} {code : Nat} {eng : Nat} {d : Desc} (hk : Keeps ref s) : Keeps ref (State.tileErrRec s t code eng d) := by
  unfold State.tileErrRec
  repeat' with_reducible first | intro _ | assumption | apply keeps_ite | apply State.wrN_keeps | split | dsimp only

theorem State.tileError_keeps {t : Nat} {code : Nat} {eng : Nat} {d : Desc} (hk : Keeps ref s) : Keeps ref (State.tileError s t code eng d) := by
  unfold State.tileError
  repeat' with_reducible first | intro _ | assumption | apply keeps_ite | apply State.raise_keeps | apply State.tileErrRec_keeps | apply State.fon_keeps | apply State.emitIrq_keeps | split | dsimp only

theorem State.tqPost_keeps {t : Nat} {q : Nat} {eng : Nat} {d : Desc} (hk : Keeps ref s) : Keeps ref (State.tqPost s t q eng d) := by
  unfold State.tqPost
  repeat' with_reducible first | intro _ | assumption | apply keeps_ite | apply State.fset_keeps | apply State.tileError_keeps | split | dsimp only

theorem State.fetchPost_keeps {t : Nat} {k : Nat} {y3 : Nat} (hk : Keeps ref s) : Keeps ref (State.fetchPost s t k y3) := by
  induction y3 generalizing s t k with
  | zero =>
    unfold State.fetchPost
    repeat' with_reducible first | intro _ | assumption | apply keeps_ite | apply State.tqPost_keeps | apply State.onRun_keeps | split | dsimp only
  | succ _ ih =>
    unfold State.fetchPost
    repeat' with_reducible first | intro _ | assumption | apply ih | apply keeps_ite | apply State.tqPost_keeps | apply State.onRun_keeps | split | dsimp only

theorem State.fetchPosts_keeps {t : Nat} (hk : Keeps ref s) : Keeps ref (State.fetchPosts s t) := by
  unfold State.fetchPosts
  repeat' with_reducible first | intro _ | assumption | apply keeps_ite | apply State.fetchPost_keeps | apply forN_keeps | split | dsimp only

theorem execFetchItem_keeps {t : Fin 64} {run : Fin 16} {q : Word} (hk : Keeps ref s) {t' : State} (he : execFetchItem t run q s = .next t') : Keeps ref t' := by
  injection he with he
  rw [← he]
  repeat' with_reducible first | intro _ | assumption | apply keeps_ite | apply State.fetchPosts_keeps | apply State.onRun_keeps | apply State.onRunning_keeps | apply State.alive_keeps | split | dsimp only

theorem State.fetchStart_keeps {t : Nat} {d : Desc} (hk : Keeps ref s) : Keeps ref (State.fetchStart s t d) := by
  unfold State.fetchStart
  repeat' with_reducible first | intro _ | assumption | apply keeps_ite | apply State.fset_keeps | apply State.onTile_keeps | apply State.tqTake_keeps | split | dsimp only

theorem State.tileReset_keeps {t : Nat} (hk : Keeps ref s) : Keeps ref (State.tileReset s t) := by
  unfold State.tileReset
  repeat' with_reducible first | intro _ | assumption | apply keeps_ite | apply State.iff_keeps | apply forL_keeps | apply State.wrZeros_keeps | apply State.wr_keeps | apply State.wrN_keeps | apply State.onTile_keeps | apply forN_keeps | apply State.tileShow_keeps | apply State.mopen_keeps | apply State.foff_keeps | apply State.emit_keeps | split | dsimp only

theorem execTileReset_keeps {m : Master} {t : Fin 64} (hk : Keeps ref s) {t' : State} (he : execTileReset m t s = .next t') : Keeps ref t' := by
  injection he with he
  rw [← he]
  repeat' with_reducible first | intro _ | assumption | apply keeps_ite | apply State.tileReset_keeps | apply State.guarded_keeps | apply State.alive_keeps | split | dsimp only

theorem execDescriptorEnqueue_keeps {i : Fin 128} {stores : List (Fin 7 × Word)} {last : Word} (hk : Keeps ref s) {t' : State} (he : execDescriptorEnqueue i stores last s = .next t') : Keeps ref t' := by
  injection he with he
  rw [← he]
  repeat' with_reducible first | intro _ | assumption | apply keeps_ite | apply State.portStores_keeps | apply State.alive_keeps | split | dsimp only

theorem State.commitItems_keeps {t : Nat} {k : Nat} {n : Nat} (hk : Keeps ref s) : Keeps ref (State.commitItems s t k n) := by
  unfold State.commitItems
  repeat' with_reducible first | intro _ | assumption | apply keeps_ite | apply forL_keeps | apply State.onRun_keeps | apply State.count_keeps | apply State.fetchRead_keeps | split | dsimp only

theorem execDescriptorEnd_keeps {t : Fin 64} {eng : Fin 4} (hk : Keeps ref s) {t' : State} (he : execDescriptorEnd t eng s = .next t') : Keeps ref t' := by
  injection he with he
  rw [← he]
  repeat' with_reducible first | intro _ | assumption | apply keeps_ite | apply State.tqPost_keeps | apply State.onTile_keeps | apply State.onRunning_keeps | apply State.alive_keeps | split | dsimp only

theorem State.dequeue_keeps {t : Nat} {odd : Bool} (hk : Keeps ref s) : Keeps ref (State.dequeue s t odd) := by
  unfold State.dequeue
  repeat' with_reducible first | intro _ | assumption | apply keeps_ite | apply State.onTile_keeps | split | dsimp only

theorem State.dispatch_keeps {t : Nat} {d : Desc} (hk : Keeps ref s) : Keeps ref (State.dispatch s t d) := by
  unfold State.dispatch
  repeat' with_reducible first | intro _ | assumption | apply keeps_ite | apply State.dequeue_keeps | apply State.tileErrRec_keeps | apply State.onTile_keeps | apply State.fon_keeps | apply State.emitIrq_keeps | split | dsimp only

theorem execDescriptorDispatch_keeps {t : Fin 64} (hk : Keeps ref s) {t' : State} (he : execDescriptorDispatch t s = .next t') : Keeps ref t' := by
  injection he with he
  rw [← he]
  repeat' with_reducible first | intro _ | assumption | apply keeps_ite | apply State.dispatch_keeps | apply State.onRunning_keeps | apply State.alive_keeps | split | dsimp only

theorem State.squash_keeps {t : Nat} {k : Nat} {n : Nat} (hk : Keeps ref s) : Keeps ref (State.squash s t k n) := by
  unfold State.squash
  repeat' with_reducible first | intro _ | assumption | apply keeps_ite | apply State.iff_keeps | apply State.fset_keeps | apply State.onRun_keeps | apply State.count_keeps | split | dsimp only

theorem execNotify_keeps {t : Fin 64} {eng : Fin 4} (hk : Keeps ref s) {t' : State} (he : execNotify t eng s = .next t') : Keeps ref t' := by
  injection he with he
  rw [← he]
  repeat' with_reducible first | intro _ | assumption | apply keeps_ite | apply State.tqPost_keeps | apply State.onTile_keeps | apply State.request_keeps | apply State.onRunning_keeps | apply State.alive_keeps | apply State.tqTake_keeps | split | dsimp only

theorem State.boundWrite_keeps {t : Nat} {b : Nat} {closed : Bool} {n : Nat} (hk : Keeps ref s) : Keeps ref (State.boundWrite s t b closed n) := by
  unfold State.boundWrite
  repeat' with_reducible first | intro _ | assumption | apply keeps_ite | apply State.fset_keeps | apply forL_keeps | apply State.fetchPosts_keeps | apply State.squash_keeps | apply State.commitItems_keeps | apply State.fon_keeps | apply State.fflag_keeps | split | dsimp only

theorem State.haltClear_keeps {t : Nat} {odd : Bool} (hk : Keeps ref s) : Keeps ref (State.haltClear s t odd) := by
  unfold State.haltClear
  repeat' with_reducible first | intro _ | assumption | apply keeps_ite | apply State.foff_keeps | apply State.emit_keeps | split | dsimp only

theorem execHaltClear_keeps {m : Master} {t : Fin 64} {odd : Bool} (hk : Keeps ref s) {t' : State} (he : execHaltClear m t odd s = .next t') : Keeps ref t' := by
  injection he with he
  rw [← he]
  repeat' with_reducible first | intro _ | assumption | apply keeps_ite | apply State.haltClear_keeps | apply State.guarded_keeps | apply State.alive_keeps | split | dsimp only

theorem State.fetchAgain_keeps {t k : Nat} {ecc : List (BitVec 16 × Ecc)} {t' : State} (hk : Keeps ref s)
    (e : s.fetchAgain t k ecc = some t') : Keeps ref t' := by
  unfold State.fetchAgain at e
  split at e
  · obtain ⟨i, _, e⟩ := Option.map_eq_some_iff.mp e
    rw [← e]
    exact State.onRun_keeps (State.count_keeps (State.fetchRead_keeps hk))
  · cases e

theorem State.fetchFront_keeps {t : Nat} (hk : Keeps ref s) : Keeps ref (s.fetchFront t) := by
  unfold State.fetchFront
  repeat' with_reducible first | assumption | apply keeps_ite | apply State.fetchStart_keeps | split

theorem State.fetchTurn_keeps {t : Nat} {ecc : List (BitVec 16 × Ecc)} (hk : Keeps ref s) : Keeps ref (s.fetchTurn t ecc) := by
  unfold State.fetchTurn
  dsimp only
  split
  · next u h =>
    obtain ⟨k, _, e⟩ := List.exists_of_findSome?_eq_some h
    exact State.fetchAgain_keeps hk e
  · exact keeps_ite hk (State.fetchNext_keeps hk)

theorem execFetch_keeps {t : Fin 64} {stalled : Word} {ecc : List (BitVec 16 × Ecc)} (hk : Keeps ref s) {t' : State} (he : execFetch t stalled ecc s = .next t') : Keeps ref t' := by
  injection he with he
  rw [← he]
  exact State.alive_keeps hk fun u hu => State.onRunning_keeps hu fun v hv =>
    State.fetchTurn_keeps (State.fetchFront_keeps (State.count_keeps hv))


theorem execTset_keeps {t : Fin 64} (hk : Keeps ref s) {t' : State} (he : execTset t s = .next t') : Keeps ref t' := by
  injection he with he
  rw [← he]
  repeat' with_reducible first | intro _ | assumption | apply keeps_ite | apply State.iff_keeps | apply State.fset_keeps | apply State.tqPost_keeps | apply State.onTile_keeps | apply forN_keeps | apply State.onRunning_keeps | apply State.alive_keeps | apply State.tqTake_keeps | split | dsimp only

theorem execBoundWrite_keeps {m : Master} {t : Fin 64} {b : Fin 8} {closed : Bool} {count : BitVec 16} (hk : Keeps ref s) {t' : State} (he : execBoundWrite m t b closed count s = .next t') : Keeps ref t' := by
  injection he with he
  rw [← he]
  repeat' with_reducible first | intro _ | assumption | apply keeps_ite | apply State.boundWrite_keeps | apply State.guarded_keeps | apply State.tileShow_keeps | apply State.alive_keeps | split | dsimp only

theorem execNop_keeps {t : Fin 64} {odd : Bool} (hk : Keeps ref s) {t' : State} (he : execNop t odd s = .next t') : Keeps ref t' := by
  injection he with he
  rw [← he]
  repeat' with_reducible first | intro _ | assumption | apply keeps_ite | apply State.dequeue_keeps | apply State.tqPost_keeps | apply State.onRunning_keeps | apply State.alive_keeps | apply State.tqTake_keeps | split | dsimp only

end Sys2Proof.Machine
end

