-- ==== Sys2Proof/Laws/KeepsDense.lean ====
section
/-! SUPPORT. The operations of Machine/Dense.lean keep what Laws/Keeps.lean says. -/

namespace Sys2Proof.Machine

variable {ref s : State}

theorem State.cvuAccess_keeps {i : Nat} {ops : List CvuOp} (hk : Keeps ref s) : Keeps ref (State.cvuAccess s i ops) := by
  unfold State.cvuAccess
  repeat' with_reducible first | intro _ | assumption | apply keeps_ite | apply State.setCvu_keeps | apply State.emitAll_keeps | split | dsimp only

theorem execCvuEncode_keeps {i : Fin 128} {stores : List (BitVec 12 × Word)} {ctl : BitVec 31} (hk : Keeps ref s) {t' : State} (he : execCvuEncode i stores ctl s = .next t') : Keeps ref t' := by
  injection he with he
  rw [← he]
  repeat' with_reducible first | intro _ | assumption | apply keeps_ite | apply State.cvuAccess_keeps | apply State.alive_keeps | split | dsimp only

theorem State.mmaStart_keeps {t : Nat} {d : Desc} (hk : Keeps ref s) : Keeps ref (State.mmaStart s t d) := by
  unfold State.mmaStart
  repeat' with_reducible first | intro _ | assumption | apply keeps_ite | apply State.iff_keeps | apply State.fset_keeps | apply State.onTile_keeps | apply forN_keeps | apply State.mzero_keeps | apply State.tqTake_keeps | split | dsimp only

theorem State.accRow_keeps {t : Nat} {bank : Nat} {m : Nat} {c0 : Nat} {terms : List (List Nat)} (hk : Keeps ref s) : Keeps ref (State.accRow s t bank m c0 terms) := by
  unfold State.accRow
  repeat' with_reducible first | intro _ | assumption | apply keeps_ite | apply State.mnatPut_keeps | apply forN_keeps | apply State.drawnN_keeps | apply foldlPair_keeps | apply foldl_keeps | refine Keeps.pair ?_ (by assumption) | split | dsimp only

theorem State.drainWrite_keeps {t : Nat} {d : Desc} {m : Nat} {g : Nat} {l : List Byte} {ecc : Ecc} (hk : Keeps ref s) : Keeps ref (State.drainWrite s t d m g l ecc) := by
  unfold State.drainWrite
  repeat' with_reducible first | intro _ | assumption | apply keeps_ite | apply State.tileError_keeps | apply State.onTile_keeps | apply State.localWrite_keeps | apply State.memWrite_keeps | refine Keeps.pair ?_ (by assumption) | split | dsimp only

theorem State.escOvf_keeps {t : Nat} (hk : Keeps ref s) : Keeps ref (State.escOvf s t) := by
  unfold State.escOvf
  repeat' with_reducible first | intro _ | assumption | apply keeps_ite | apply State.iff_keeps | apply State.raise_keeps | apply State.fon_keeps | apply State.count_keeps | split | dsimp only

theorem State.drainSat_keeps {t : Nat} {n : Nat} (hk : Keeps ref s) : Keeps ref (State.drainSat s t n) := by
  unfold State.drainSat
  repeat' with_reducible first | intro _ | assumption | apply keeps_ite | apply State.fon_keeps | apply State.count_keeps | split | dsimp only

theorem State.drainSlot_keeps {t : Nat} {fmt : Nat} {x : List Nat} (hk : Keeps ref s) : Keeps ref (State.drainSlot s t fmt x).1 := by
  unfold State.drainSlot
  repeat' with_reducible first | intro _ | assumption | apply keeps_ite | apply keeps_ite1 | apply State.escOvf_keeps | apply State.iff_keeps | apply State.drainSat_keeps | apply forL_keeps | apply State.drawnN_keeps | apply State.fon_keeps | split | dsimp only

theorem State.drainFloats_keeps {t : Nat} {fmt : Nat} {x : List Nat} (hk : Keeps ref s) : Keeps ref (State.drainFloats s t fmt x).1 := by
  unfold State.drainFloats
  repeat' with_reducible first | intro _ | assumption | apply keeps_ite | apply keeps_ite1 | apply State.iff_keeps | apply State.drainSat_keeps | apply State.fon_keeps | split | dsimp only

theorem State.drainGroup_keeps {t : Nat} {d : Desc} {m : Nat} {g : Nat} {ecc : Ecc} (hk : Keeps ref s) : Keeps ref (State.drainGroup s t d m g ecc) := by
  unfold State.drainGroup
  repeat' with_reducible first | intro _ | assumption | apply keeps_ite | apply State.drainWrite_keeps | apply State.drainSlot_keeps | apply State.drainFloats_keeps | refine Keeps.pair ?_ (by assumption) | split | dsimp only

theorem execCvuConversionEnd_keeps {i : Fin 128} (hk : Keeps ref s) {t' : State} (he : execCvuConversionEnd i s = .next t') : Keeps ref t' := by
  injection he with he
  rw [← he]
  repeat' with_reducible first | intro _ | assumption | apply keeps_ite | apply State.iff_keeps | apply State.setCvu_keeps | apply State.raise_keeps | apply State.alive_keeps | apply State.emitAll_keeps | split | dsimp only

theorem State.cvuReset_keeps {i : Nat} (hk : Keeps ref s) : Keeps ref (State.cvuReset s i) := by
  unfold State.cvuReset
  repeat' with_reducible first | intro _ | assumption | apply keeps_ite | apply State.setCvu_keeps | apply State.drawnN_keeps | split | dsimp only

theorem execDrain_keeps {t : Fin 64} {ecc : List (BitVec 16 × Ecc)} (hk : Keeps ref s) {t' : State} (he : execDrain t ecc s = .next t') : Keeps ref t' := by
  injection he with he
  rw [← he]
  repeat' with_reducible first | intro _ | assumption | apply keeps_ite | apply State.drainGroup_keeps | apply State.onTile_keeps | apply forN_keeps | apply State.onRunning_keeps | apply State.alive_keeps | apply State.tqTake_keeps | split | dsimp only

theorem execCvuDecode_keeps {i : Fin 128} {stores : List (BitVec 12 × Word)} {ctl : BitVec 31} (hk : Keeps ref s) {t' : State} (he : execCvuDecode i stores ctl s = .next t') : Keeps ref t' := by
  injection he with he
  rw [← he]
  repeat' with_reducible first | intro _ | assumption | apply keeps_ite | apply State.cvuAccess_keeps | apply State.alive_keeps | split | dsimp only

theorem State.mmaRow_keeps {t : Nat} {d : Desc} {kb : Nat} {c : Nat} {m : Nat} {aob : List Byte} {ws : List Block} {ew : List (Nat × Nat × Nat)} (hk : Keeps ref s) : Keeps ref (State.mmaRow s t d kb c m aob ws ew) := by
  unfold State.mmaRow
  repeat' with_reducible first | intro _ | assumption | apply keeps_ite | apply State.tileError_keeps | apply forN_keeps | apply State.mopen_keeps | apply State.count_keeps | apply State.accRow_keeps | split | dsimp only

theorem State.mmaAob_keeps {t : Nat} {d : Desc} {k : Nat} (hk : Keeps ref s) : Keeps ref (State.mmaAob s t d k) := by
  unfold State.mmaAob
  repeat' with_reducible first | intro _ | assumption | apply keeps_ite | apply State.iff_keeps | apply State.fset_keeps | apply State.tileError_keeps | apply State.tqPost_keeps | apply State.onTile_keeps | apply forN_keeps | apply State.mmaRow_keeps | apply State.count_keeps | apply State.tqTake_keeps | split | dsimp only

theorem execMma_keeps {t : Fin 64} {waited : Word} (hk : Keeps ref s) {t' : State} (he : execMma t waited s = .next t') : Keeps ref t' := by
  injection he with he
  rw [← he]
  repeat' with_reducible first | intro _ | assumption | apply keeps_ite | apply State.mmaAob_keeps | apply State.mmaStart_keeps | apply State.onRunning_keeps | apply State.alive_keeps | apply State.count_keeps | split | dsimp only

end Sys2Proof.Machine
end

