-- ==== Sys2Proof/Laws/KeepsSync.lean ====
section
/-! SUPPORT. The operations of Machine/Sync.lean keep what Laws/Keeps.lean says. -/

namespace Sys2Proof.Machine

variable {ref s : State}

theorem State.sendNotice_keeps {o : Nat} {i : Nat} {wqn : Nat} {kind : Nat} {thr : Nat} {eq : Bool} (hk : Keeps ref s) : Keeps ref (State.sendNotice s o i wqn kind thr eq) := by
  unfold State.sendNotice
  repeat' with_reducible first | intro _ | assumption | apply keeps_ite | apply State.iff_keeps | apply State.count_keeps | apply State.send_keeps | split | dsimp only

theorem State.watchEnds_keeps {o : Nat} {w : Nat} {kind : Nat} (hk : Keeps ref s) : Keeps ref (State.watchEnds s o w kind) := by
  unfold State.watchEnds
  repeat' with_reducible first | intro _ | assumption | apply keeps_ite | apply State.foff_keeps | apply State.sendNotice_keeps | split | dsimp only

theorem State.watchersShow_keeps {o : Nat} (hk : Keeps ref s) : Keeps ref (State.watchersShow s o) := by
  unfold State.watchersShow
  repeat' with_reducible first | intro _ | assumption | apply keeps_ite | apply State.fset_keeps | apply forN_keeps | split | dsimp only

theorem State.evalWatches_keeps {o : Nat} {p : Nat → Bool} (hk : Keeps ref s) : Keeps ref (State.evalWatches s o p) := by
  unfold State.evalWatches
  repeat' with_reducible first | intro _ | assumption | apply keeps_ite | apply State.watchEnds_keeps | apply forN_keeps | apply State.watchersShow_keeps | split | dsimp only

theorem execSyncNotice_keeps {dst : BitVec 22} {q : Fin 16} {time : BitVec 64} {obj : BitVec 16} {dev : BitVec 3} {kind : Fin 3} {value : Word} {thr : Word} {eq : Bool} {src : BitVec 22} (hk : Keeps ref s) {t' : State} (he : execSyncNotice dst q time obj dev kind value thr eq src s = .next t') : Keeps ref t' := by
  injection he with he
  rw [← he]
  repeat' with_reducible first | intro _ | assumption | apply keeps_ite | apply State.pump_keeps | apply State.iff_keeps | apply State.replied_keeps | apply State.qDo_keeps | apply State.wakeIsland_keeps | apply State.room_keeps | apply State.onQueue_keeps | apply State.alive_keeps | apply State.count_keeps | split | dsimp only

theorem State.syncArrive_keeps {o : Nat} {i : Nat} {src : Nat} {f : State → State} (hk : Keeps ref s) (hkf : ∀ t, Keeps ref t → Keeps ref (f t)) : Keeps ref (State.syncArrive s o i src f) := by
  unfold State.syncArrive
  repeat' with_reducible first | intro _ | assumption | apply keeps_ite | apply State.iff_keeps | apply State.wakeIsland_keeps | apply State.count_keeps | apply State.send_keeps | apply hkf | split | dsimp only

theorem State.syncValue_keeps {o : Nat} {i : Nat} {src : Nat} {f : State → State} (hk : Keeps ref s) (hkf : ∀ t, Keeps ref t → Keeps ref (f t)) : Keeps ref (State.syncValue s o i src f) := by
  unfold State.syncValue
  repeat' with_reducible first | intro _ | assumption | apply keeps_ite | apply State.syncArrive_keeps | apply State.count_keeps | apply State.send_keeps | apply hkf | split | dsimp only

theorem execSyncRead_keeps {dst : BitVec 22} {i : BitVec 8} {src : BitVec 30} (hk : Keeps ref s) {t' : State} (he : execSyncRead dst i src s = .next t') : Keeps ref t' := by
  injection he with he
  rw [← he]
  repeat' with_reducible first | intro _ | assumption | apply keeps_ite | apply State.alive_keeps | apply State.syncValue_keeps | split | dsimp only

theorem State.syncPut_keeps {o : Nat} {i : Nat} {src : Nat} {op : Nat} {v : Nat} (hk : Keeps ref s) : Keeps ref (State.syncPut s o i src op v) := by
  unfold State.syncPut
  repeat' with_reducible first | intro _ | assumption | apply keeps_ite | apply State.fset_keeps | apply State.wrN_keeps | apply State.evalWatches_keeps | split | dsimp only

theorem execSyncSet_keeps {dst : BitVec 22} {i : BitVec 8} {v : Word} {src : BitVec 30} (hk : Keeps ref s) {t' : State} (he : execSyncSet dst i v src s = .next t') : Keeps ref t' := by
  injection he with he
  rw [← he]
  repeat' with_reducible first | intro _ | assumption | apply keeps_ite | apply State.syncPut_keeps | apply State.alive_keeps | apply State.syncValue_keeps | split | dsimp only

theorem State.watch_keeps {o : Nat} {i : Nat} {v : Nat} {wqn : Nat} {src : Nat} {eq : Bool} (hk : Keeps ref s) : Keeps ref (State.watch s o i v wqn src eq) := by
  unfold State.watch
  repeat' with_reducible first | intro _ | assumption | apply keeps_ite | apply State.watchEnds_keeps | apply State.fset_keeps | apply State.syncArrive_keeps | apply State.wrN_keeps | apply State.fon_keeps | apply State.watchersShow_keeps | apply State.fflag_keeps | apply State.sendNotice_keeps | split | dsimp only

theorem execSyncWatchGe_keeps {dst : BitVec 22} {i : BitVec 8} {v : Word} {wqn : BitVec 16} {src : BitVec 30} (hk : Keeps ref s) {t' : State} (he : execSyncWatchGe dst i v wqn src s = .next t') : Keeps ref t' := by
  injection he with he
  rw [← he]
  repeat' with_reducible first | intro _ | assumption | apply keeps_ite | apply State.watch_keeps | apply State.alive_keeps | split | dsimp only

theorem execSyncResend_keeps  (hk : Keeps ref s) {t' : State} (he : execSyncResend s = .next t') : Keeps ref t' := by
  injection he with he
  rw [← he]
  repeat' with_reducible first | intro _ | assumption | apply keeps_ite | apply State.onIface_keeps | apply State.alive_keeps | apply State.send_keeps | apply State.resendTake_keeps | split | dsimp only

theorem State.orphanAll_keeps {o : Nat} (hk : Keeps ref s) : Keeps ref (State.orphanAll s o) := by
  unfold State.orphanAll
  repeat' with_reducible first | intro _ | assumption | apply keeps_ite | apply State.watchEnds_keeps | apply State.iff_keeps | apply State.fset_keeps | apply forL_keeps | apply State.raise_keeps | apply forN_keeps | apply State.watchersShow_keeps | split | dsimp only

theorem State.ownerReset_keeps {o : Nat} (hk : Keeps ref s) : Keeps ref (State.ownerReset s o) := by
  unfold State.ownerReset
  repeat' with_reducible first | intro _ | assumption | apply keeps_ite | apply State.queuesReset_keeps | apply State.orphanAll_keeps | split | dsimp only

theorem State.seqReset_keeps {i : Nat} (hk : Keeps ref s) : Keeps ref (State.seqReset s i) := by
  unfold State.seqReset
  repeat' with_reducible first | intro _ | assumption | apply keeps_ite | apply State.setSeq_keeps | apply State.ownerReset_keeps | apply State.onTile_keeps | apply State.cvuReset_keeps | apply State.foff_keeps | split | dsimp only

theorem State.unfreeze_keeps {o : Nat} (hk : Keeps ref s) : Keeps ref (State.unfreeze s o) := by
  unfold State.unfreeze
  repeat' with_reducible first | intro _ | assumption | apply keeps_ite | apply State.evalWatches_keeps | apply State.foff_keeps | split | dsimp only

theorem execSyncUnfreeze_keeps {m : Master} {o : Fin 136} (hk : Keeps ref s) {t' : State} (he : execSyncUnfreeze m o s = .next t') : Keeps ref t' := by
  injection he with he
  rw [← he]
  repeat' with_reducible first | intro _ | assumption | apply keeps_ite | apply State.unfreeze_keeps | apply State.guarded_keeps | apply State.alive_keeps | split | dsimp only

theorem State.adopt_keeps {o : Nat} (hk : Keeps ref s) : Keeps ref (State.adopt s o) := by
  unfold State.adopt
  repeat' with_reducible first | intro _ | assumption | apply keeps_ite | apply State.wr_keeps | apply forN_keeps | apply State.foff_keeps | split | dsimp only

theorem State.seqRun_keeps {i : Nat} (hk : Keeps ref s) : Keeps ref (State.seqRun s i) := by
  unfold State.seqRun
  repeat' with_reducible first | intro _ | assumption | apply keeps_ite | apply State.recvIdle_keeps | apply State.setSeq_keeps | apply State.iff_keeps | apply State.ignored_keeps | apply State.fon_keeps | split | dsimp only

theorem execSyncAdopt_keeps {m : Master} {o : Fin 136} (hk : Keeps ref s) {t' : State} (he : execSyncAdopt m o s = .next t') : Keeps ref t' := by
  injection he with he
  rw [← he]
  repeat' with_reducible first | intro _ | assumption | apply keeps_ite | apply State.guarded_keeps | apply State.adopt_keeps | apply State.alive_keeps | split | dsimp only

theorem execSeqReset_keeps {m : Master} {i : Fin 128} (hk : Keeps ref s) {t' : State} (he : execSeqReset m i s = .next t') : Keeps ref t' := by
  injection he with he
  rw [← he]
  repeat' with_reducible first | intro _ | assumption | apply keeps_ite | apply State.seqReset_keeps | apply State.guarded_keeps | apply State.alive_keeps | split | dsimp only

theorem execSyncSignal_keeps {dst : BitVec 22} {i : BitVec 8} {v : Word} {src : BitVec 30} (hk : Keeps ref s) {t' : State} (he : execSyncSignal dst i v src s = .next t') : Keeps ref t' := by
  injection he with he
  rw [← he]
  repeat' with_reducible first | intro _ | assumption | apply keeps_ite | apply State.syncPut_keeps | apply State.alive_keeps | apply State.syncValue_keeps | split | dsimp only

theorem execSyncWatchEq_keeps {dst : BitVec 22} {i : BitVec 8} {v : Word} {wqn : BitVec 16} {src : BitVec 30} (hk : Keeps ref s) {t' : State} (he : execSyncWatchEq dst i v wqn src s = .next t') : Keeps ref t' := by
  injection he with he
  rw [← he]
  repeat' with_reducible first | intro _ | assumption | apply keeps_ite | apply State.watch_keeps | apply State.alive_keeps | split | dsimp only

theorem execSeqRun_keeps {m : Master} {i : Fin 128} (hk : Keeps ref s) {t' : State} (he : execSeqRun m i s = .next t') : Keeps ref t' := by
  injection he with he
  rw [← he]
  repeat' with_reducible first | intro _ | assumption | apply keeps_ite | apply State.seqRun_keeps | apply State.guarded_keeps | apply State.alive_keeps | split | dsimp only

theorem execSyncFreeze_keeps {m : Master} {o : Fin 136} (hk : Keeps ref s) {t' : State} (he : execSyncFreeze m o s = .next t') : Keeps ref t' := by
  injection he with he
  rw [← he]
  repeat' with_reducible first | intro _ | assumption | apply keeps_ite | apply State.guarded_keeps | apply State.fon_keeps | apply State.alive_keeps | split | dsimp only

end Sys2Proof.Machine
end

