-- ==== Sys2Proof/Laws/KeepsCocoon.lean ====
section
/-! SUPPORT. The operations of Machine/Cocoon.lean keep what Laws/Keeps.lean says. -/

namespace Sys2Proof.Machine

variable {ref s : State}

theorem State.instarRecord_keeps {k : Nat} {status : Nat} {code : Nat} {count : Nat} {d1 : Nat} {d2 : Nat} (hk : Keeps ref s) : Keeps ref (State.instarRecord s k status code count d1 d2) := by
  unfold State.instarRecord
  repeat' with_reducible first | intro _ | assumption | apply keeps_ite | apply State.wr64_keeps | apply State.wrN_keeps | split | dsimp only

theorem State.instarDone_keeps {k : Nat} {next : Nat} {code : Nat} {count : Nat} {d1 : Nat} {d2 : Nat} (hk : Keeps ref s) : Keeps ref (State.instarDone s k next code count d1 d2) := by
  unfold State.instarDone
  repeat' with_reducible first | intro _ | assumption | apply keeps_ite | apply State.instarRecord_keeps | apply State.instarBegin_keeps | split | dsimp only

theorem State.encoderClear_keeps {i : Nat} (hk : Keeps ref s) : Keeps ref (State.encoderClear s i) := by
  unfold State.encoderClear
  repeat' with_reducible first | intro _ | assumption | apply keeps_ite | apply State.onStream_keeps | split | dsimp only

theorem State.delivered_keeps {img : List Byte} {src : Nat} (hk : Keeps ref s) : Keeps ref (State.delivered s img src) := by
  unfold State.delivered
  repeat' with_reducible first | intro _ | assumption | apply keeps_ite | apply State.fset_keeps | refine State.onTrust_keeps ?_ (by intro t w; with_unfolding_all exact w) | apply State.bootMeasure_keeps | apply State.instarDone_keeps | apply State.foff_keeps | split | dsimp only

theorem State.rcvGo_keeps  (hk : Keeps ref s) : Keeps ref (State.rcvGo s) := by
  unfold State.rcvGo
  repeat' with_reducible first | intro _ | assumption | apply keeps_ite | apply State.ignored_keeps | apply State.delivered_keeps | split | dsimp only

theorem State.serviceWrite_keeps {on : Bool} (hk : Keeps ref s) : Keeps ref (State.serviceWrite s on) := by
  unfold State.serviceWrite
  repeat' with_reducible first | intro _ | assumption | apply keeps_ite | apply State.wr64_keeps | apply State.fset_keeps | apply State.ignored_keeps | apply State.wrN_keeps | apply State.instarRecord_keeps | apply State.fon_keeps | apply State.foff_keeps | split | dsimp only

theorem State.streamsReset_keeps  (hk : Keeps ref s) : Keeps ref (State.streamsReset s) := by
  unfold State.streamsReset
  repeat' with_reducible first | intro _ | assumption | apply keeps_ite | apply State.onTok_keeps | apply State.wr_keeps | apply State.bridgeReset_keeps | apply forN_keeps | apply State.ctxShow_keeps | apply State.kvZero_keeps | apply State.encoderClear_keeps | split | dsimp only

theorem State.unitsClear_keeps (h : Keeps ref s) : Keeps ref s.unitsClear :=
  (((((((h.csr (tabWf_filter (fun e => !cocoonClears e.1) h.wfCsr)).cores rfl).tiles rfl).seqs rfl).cvus rfl).dmas rfl).bc rfl)


theorem State.islandsRun_keeps  (hk : Keeps ref s) : Keeps ref (State.islandsRun s) := by
  unfold State.islandsRun
  repeat' with_reducible first | intro _ | assumption | apply keeps_ite | apply forL_keeps | apply State.foff_keeps | split | dsimp only

theorem State.computeReset_keeps  (hk : Keeps ref s) : Keeps ref (State.computeReset s) := by
  unfold State.computeReset
  repeat' with_reducible first | intro _ | assumption | apply keeps_ite | apply State.tileReset_keeps | apply State.seqReset_keeps | apply forN_keeps | apply State.badKeep_keeps | apply State.mopen_keeps | apply State.dmaDisable_keeps | apply State.unitsClear_keeps | split | dsimp only

theorem State.chrCocoon_keeps  (hk : Keeps ref s) : Keeps ref (State.chrCocoon s) := by
  unfold State.chrCocoon
  repeat' with_reducible first | intro _ | assumption | apply keeps_ite | apply State.setChr_keeps | apply State.chrFail_keeps | split | dsimp only

theorem State.cocoonStart_keeps  (hk : Keeps ref s) : Keeps ref (State.cocoonStart s) := by
  unfold State.cocoonStart
  repeat' with_reducible first | intro _ | assumption | apply keeps_ite | apply State.islandsRun_keeps | apply State.streamsReset_keeps | apply State.iff_keeps | apply State.computeReset_keeps | apply State.ignored_keeps | apply State.takeStandby_keeps | apply State.chrCocoon_keeps | apply State.onAon_keeps | apply State.swapDrop_keeps | apply State.fon_keeps | apply State.stepStop_keeps | apply State.foff_keeps | apply State.extend_keeps | apply State.instarBegin_keeps | split | dsimp only

theorem State.instarFail_keeps {k : Nat} {code : Nat} {count : Nat} {d1 : Nat} {d2 : Nat} (hk : Keeps ref s) : Keeps ref (State.instarFail s k code count d1 d2) := by
  unfold State.instarFail
  repeat' with_reducible first | intro _ | assumption | apply keeps_ite | apply State.fset_keeps | apply State.instarRecord_keeps | apply State.onAon_keeps | apply State.fon_keeps | split | dsimp only

end Sys2Proof.Machine
end

