-- ==== Sys2Proof/Laws/KeepsPower.lean ====
section
/-! SUPPORT. The operations of Machine/Power.lean keep what Laws/Keeps.lean says. -/

namespace Sys2Proof.Machine

variable {ref s : State}

theorem execSupplyOutOfRange_keeps {east : Bool} (hk : Keeps ref s) {t' : State} (he : execSupplyOutOfRange east s = .next t') : Keeps ref t' := by
  injection he with he
  rw [← he]
  repeat' with_reducible first | intro _ | assumption | apply keeps_ite | apply State.setCause_keeps | apply State.raise_keeps | apply State.onAon_keeps | apply State.alive_keeps | split | dsimp only

theorem execPwrGoodRise_keeps {devid : Fin 8} {standby : Bool} (hk : Keeps ref s) {t' : State} (he : execPwrGoodRise devid standby s = .next t') : Keeps ref t' := by
  injection he with he
  rw [← he]
  repeat' with_reducible first | intro _ | assumption | apply keeps_ite | apply State.onAon_keeps | apply State.release_keeps | split | dsimp only

theorem State.rampShow_keeps {h : Nat} (hk : Keeps ref s) : Keeps ref (State.rampShow s h) := by
  unfold State.rampShow
  repeat' with_reducible first | intro _ | assumption | apply keeps_ite | apply State.fflag_keeps | split | dsimp only

theorem State.setHold_keeps {n : Nat} (hk : Keeps ref s) : Keeps ref (State.setHold s n) := by
  unfold State.setHold
  repeat' with_reducible first | intro _ | assumption | apply keeps_ite | apply State.fset_keeps | apply State.fflag_keeps | split | dsimp only

theorem execPowerWindow_keeps {west : BitVec 16} {east : BitVec 16} (hk : Keeps ref s) {t' : State} (he : execPowerWindow west east s = .next t') : Keeps ref t' := by
  injection he with he
  rw [← he]
  repeat' with_reducible first | intro _ | assumption | apply keeps_ite | apply State.fset_keeps | apply State.alive_keeps | apply State.count_keeps | apply State.setHold_keeps | split | dsimp only

theorem State.sensor_keeps {i : Nat} {c : Int} (hk : Keeps ref s) : Keeps ref (State.sensor s i c) := by
  unfold State.sensor
  repeat' with_reducible first | intro _ | assumption | apply keeps_ite | apply State.fset_keeps | apply State.onAon_keeps | apply foldlPair_keeps | apply foldl_keeps | refine Keeps.pair ?_ (by assumption) | split | dsimp only

theorem execThermalWarning_keeps {sensor : Fin 17} {celsius : BitVec 8} (hk : Keeps ref s) {t' : State} (he : execThermalWarning sensor celsius s = .next t') : Keeps ref t' := by
  injection he with he
  rw [← he]
  repeat' with_reducible first | intro _ | assumption | apply keeps_ite | apply State.iff_keeps | apply State.sensor_keeps | apply State.setCause_keeps | apply State.raise_keeps | apply State.onAon_keeps | apply State.alive_keeps | apply State.fflag_keeps | apply State.setHold_keeps | split | dsimp only

theorem execRampEnd_keeps {h : Fin 2} {dense : Bool} (hk : Keeps ref s) {t' : State} (he : execRampEnd h dense s = .next t') : Keeps ref t' := by
  injection he with he
  rw [← he]
  repeat' with_reducible first | intro _ | assumption | apply keeps_ite | apply State.fset_keeps | apply State.onAon_keeps | apply State.rampShow_keeps | apply State.alive_keeps | split | dsimp only

theorem execThermalRestart_keeps {celsius : BitVec 8} (hk : Keeps ref s) {t' : State} (he : execThermalRestart celsius s = .next t') : Keeps ref t' := by
  injection he with he
  rw [← he]
  repeat' with_reducible first | intro _ | assumption | apply keeps_ite | apply State.release_keeps | split | dsimp only

theorem execVaonLow_keeps {lost : Bool} (hk : Keeps ref s) {t' : State} (he : execVaonLow lost s = .next t') : Keeps ref t' := by
  injection he with he
  rw [← he]
  repeat' with_reducible first | intro _ | assumption | apply keeps_ite | apply State.wrZeros_keeps | apply State.hold_keeps | apply State.foff_keeps | apply State.chipReset_keeps | split | dsimp only

theorem State.opPointChange_keeps {h : Nat} (hk : Keeps ref s) : Keeps ref (State.opPointChange s h) := by
  unfold State.opPointChange
  repeat' with_reducible first | intro _ | assumption | apply keeps_ite | apply State.fset_keeps | apply State.onAon_keeps | apply State.rampShow_keeps | split | dsimp only

theorem execSupplyReturn_keeps {supply : Fin 3} (hk : Keeps ref s) {t' : State} (he : execSupplyReturn supply s = .next t') : Keeps ref t' := by
  injection he with he
  rw [← he]
  repeat' with_reducible first | intro _ | assumption | apply keeps_ite | apply State.setCause_keeps | apply State.onAon_keeps | apply State.release_keeps | split | dsimp only

theorem execThermalStop_keeps {_sensor : Fin 17} (hk : Keeps ref s) {t' : State} (he : execThermalStop _sensor s = .next t') : Keeps ref t' := by
  injection he with he
  rw [← he]
  repeat' with_reducible first | intro _ | assumption | apply keeps_ite | apply State.resetHeldBy_keeps | apply State.onAon_keeps | apply State.alive_keeps | split | dsimp only

theorem execPwrGoodFall_keeps  (hk : Keeps ref s) {t' : State} (he : execPwrGoodFall s = .next t') : Keeps ref t' := by
  injection he with he
  rw [← he]
  repeat' with_reducible first | intro _ | assumption | apply keeps_ite | apply State.hold_keeps | apply State.chipReset_keeps | split | dsimp only

theorem execSupplyCollapse_keeps {east : Bool} (hk : Keeps ref s) {t' : State} (he : execSupplyCollapse east s = .next t') : Keeps ref t' := by
  injection he with he
  rw [← he]
  repeat' with_reducible first | intro _ | assumption | apply keeps_ite | apply State.resetHeldBy_keeps | apply State.onAon_keeps | apply State.alive_keeps | split | dsimp only

end Sys2Proof.Machine
end

