-- ==== Sys2Proof/Laws/KeepsEmitter.lean ====
section
/-! SUPPORT. The operations of Machine/Emitter.lean keep what Laws/Keeps.lean says. -/

namespace Sys2Proof.Machine

variable {ref s : State}

theorem State.cellOut_keeps {n : Nat} {e : Nat} {d : Nat} {c : OutCell} (hk : Keeps ref s) : Keeps ref (State.cellOut s n e d c) := by
  unfold State.cellOut
  repeat' with_reducible first | intro _ | assumption | apply keeps_ite | apply State.tree_keeps | apply State.count_keeps | apply State.send_keeps | apply State.onCore_keeps | apply foldlPair_keeps | apply foldl_keeps | refine Keeps.pair ?_ (by assumption) | split | dsimp only

theorem State.cellClose_keeps {n : Nat} {e : Nat} {late : Bool} {c : OutCell} (hk : Keeps ref s) : Keeps ref (State.cellClose s n e late c) := by
  unfold State.cellClose
  repeat' with_reducible first | intro _ | assumption | apply keeps_ite | apply State.countDeferral_keeps | apply State.count_keeps | apply State.onCore_keeps | apply State.cellOut_keeps | split | dsimp only

theorem State.emitEvent_keeps {n : Nat} {e : Nat} {late : Bool} {dev : Nat} {core : Nat} {pri : Nat} {j : Nat} {w : Word} (hk : Keeps ref s) : Keeps ref (State.emitEvent s n e late dev core pri j w) := by
  unfold State.emitEvent
  repeat' with_reducible first | intro _ | assumption | apply keeps_ite | apply State.cellClose_keeps | apply State.onCore_keeps | split | dsimp only

theorem State.emitOpens_keeps {n : Nat} {e : Nat} {late : Bool} (hk : Keeps ref s) : Keeps ref (State.emitOpens s n e late) := by
  unfold State.emitOpens
  repeat' with_reducible first | intro _ | assumption | apply keeps_ite | apply forL_keeps | apply State.cellClose_keeps | apply State.onCore_keeps | split | dsimp only

theorem State.drainDeferred_keeps {n : Nat} {e : Nat} (hk : Keeps ref s) : Keeps ref (State.drainDeferred s n e) := by
  unfold State.drainDeferred
  repeat' with_reducible first | intro _ | assumption | apply keeps_ite | apply forL_keeps | apply State.countDeferral_keeps | apply State.count_keeps | apply State.onCore_keeps | apply State.cellOut_keeps | split | dsimp only

theorem State.emitEntry_keeps {n : Nat} {e : Nat} {late : Bool} {pri : Nat} {j : Nat} {grade : Nat} {i : Nat} (hk : Keeps ref s) : Keeps ref (State.emitEntry s n e late pri j grade i) := by
  unfold State.emitEntry
  repeat' with_reducible first | intro _ | assumption | apply keeps_ite | apply State.emitEvent_keeps | apply State.ncWords_keeps | refine Keeps.pair ?_ (by assumption) | split | dsimp only

theorem State.emitList_keeps {n : Nat} {e : Nat} {late : Bool} {pri : Nat} {j : Nat} {grade : Nat} {dest : Nat} (hk : Keeps ref s) : Keeps ref (State.emitList s n e late pri j grade dest) := by
  unfold State.emitList
  repeat' with_reducible first | intro _ | assumption | apply keeps_ite | apply State.iff_keeps | apply State.emitEntry_keeps | apply forN_keeps | apply State.count_keeps | split | dsimp only

end Sys2Proof.Machine
end

