-- ==== Sys2Proof/Laws/KeepsCoreStep.lean ====
section
/-! SUPPORT. The operations of Machine/CoreStep.lean keep what Laws/Keeps.lean says. -/

namespace Sys2Proof.Machine

variable {ref s : State}

theorem State.fireNeuron_keeps {n : Nat} {e : Nat} {t : Nat} {late : Bool} {j : Nat} {r : NRec} {p : Prof} (hk : Keeps ref s) : Keeps ref (State.fireNeuron s n e t late j r p) := by
  unfold State.fireNeuron
  repeat' with_reducible first | intro _ | assumption | apply keeps_ite | apply State.iff_keeps | apply State.writeRec_keeps | apply State.emitList_keeps | apply State.count_keeps | apply State.onCore_keeps | apply State.emit_keeps | split | dsimp only

theorem State.visit_keeps {n : Nat} {e : Nat} {t : Nat} {late : Bool} {j : Nat} (hk : Keeps ref s) : Keeps ref (State.visit s n e t late j) := by
  unfold State.visit
  repeat' with_reducible first | intro _ | assumption | apply keeps_ite | apply State.readRec_keeps | apply State.writeRec_keeps | apply State.readProf_keeps | apply State.count_keeps | apply State.fireNeuron_keeps | apply State.onCore_keeps | refine Keeps.pair ?_ (by assumption) | split | dsimp only

theorem State.scanOn_keeps {n : Nat} {e : Nat} {late : Bool} {y4 : Nat} (hk : Keeps ref s) : Keeps ref (State.scanOn s n e late y4) := by
  induction y4 generalizing s n e late with
  | zero =>
    unfold State.scanOn
    repeat' with_reducible first | intro _ | assumption | apply keeps_ite | apply State.visit_keeps | apply State.onCore_keeps | split | dsimp only
  | succ _ ih =>
    unfold State.scanOn
    repeat' with_reducible first | intro _ | assumption | apply ih | apply keeps_ite | apply State.visit_keeps | apply State.onCore_keeps | split | dsimp only

theorem State.scanRun_keeps {n : Nat} {e : Nat} {late : Bool} (hk : Keeps ref s) : Keeps ref (State.scanRun s n e late) := by
  unfold State.scanRun
  repeat' with_reducible first | intro _ | assumption | apply keeps_ite | apply State.emitOpens_keeps | apply State.wrN_keeps | apply State.onCore_keeps | apply State.scanOn_keeps | split | dsimp only

theorem State.scanResume_keeps {n : Nat} {e : Nat} (hk : Keeps ref s) : Keeps ref (State.scanResume s n e) := by
  unfold State.scanResume
  repeat' with_reducible first | intro _ | assumption | apply keeps_ite | apply State.scanRun_keeps | apply forL_keeps | apply State.cellClose_keeps | apply State.onCore_keeps | split | dsimp only

theorem State.sweep_keeps {n : Nat} {t : Nat} (hk : Keeps ref s) : Keeps ref (State.sweep s n t) := by
  unfold State.sweep
  repeat' with_reducible first | intro _ | assumption | apply keeps_ite | apply State.fset_keeps | apply State.readRec_keeps | apply State.writeRec_keeps | apply State.readProf_keeps | refine Keeps.pair ?_ (by assumption) | split | dsimp only

theorem State.ncEnable_keeps {n : Nat} (hk : Keeps ref s) : Keeps ref (State.ncEnable s n) := by
  unfold State.ncEnable
  repeat' with_reducible first | intro _ | assumption | apply keeps_ite | apply State.iff_keeps | apply State.joinEnds_keeps | apply State.plClear_keeps | apply State.fon_keeps | apply State.onCore_keeps | split | dsimp only

theorem State.coreEnable_keeps {n : Nat} (hk : Keeps ref s) : Keeps ref (State.coreEnable s n) := by
  unfold State.coreEnable
  repeat' with_reducible first | intro _ | assumption | apply keeps_ite | apply State.recvIdle_keeps | apply State.ncEnable_keeps | apply State.iff_keeps | apply State.ignored_keeps | split | dsimp only

theorem State.biasEvents_keeps {n : Nat} {b : Nat} {t : Nat} (hk : Keeps ref s) : Keeps ref (State.biasEvents s n b t) := by
  unfold State.biasEvents
  repeat' with_reducible first | intro _ | assumption | apply keeps_ite | apply State.takeEvent_keeps | apply forN_keeps | split | dsimp only

theorem State.wheelRelease_keeps {n : Nat} {v : Nat} (hk : Keeps ref s) : Keeps ref (State.wheelRelease s n v) := by
  unfold State.wheelRelease
  repeat' with_reducible first | intro _ | assumption | apply keeps_ite | apply State.evDiscard_keeps | apply State.onCore_keeps | split | dsimp only

theorem State.ncDisable_keeps {n : Nat} (hk : Keeps ref s) : Keeps ref (State.ncDisable s n) := by
  unfold State.ncDisable
  repeat' with_reducible first | intro _ | assumption | apply keeps_ite | apply State.evDrain_keeps | apply State.ncStatus_keeps | apply State.evDiscard_keeps | apply State.foff_keeps | apply State.onCore_keeps | split | dsimp only

theorem State.coreEntry_keeps {n : Nat} {p : State × Bool} {e : Word × Word × Word} (hk : Keeps ref p.1) :
    Keeps ref (State.coreEntry n p e).1 := by
  unfold State.coreEntry
  dsimp only
  split
  · exact State.fflag_keeps (State.applyEntry_keeps hk)
  · exact State.ncDisable_keeps (State.fflag_keeps (State.applyEntry_keeps hk))
  · exact State.fflag_keeps (State.applyEntry_keeps hk)


theorem State.coreEntries_keeps {n e : Nat} (hk : Keeps ref s) : Keeps ref (s.coreEntries n e) := by
  unfold State.coreEntries
  refine State.iff_keeps (foldlPair_keeps (keeps_ite hk (State.onChr_keeps hk)) fun i t ht => State.coreEntry_keeps ht) ?_
  intro t ht
  exact State.ncEnable_keeps ht


theorem State.afterScan_keeps {n : Nat} {b : Nat} {t : Nat} (hk : Keeps ref s) : Keeps ref (State.afterScan s n b t) := by
  unfold State.afterScan
  repeat' with_reducible first | intro _ | assumption | apply keeps_ite | apply State.plBoundary_keeps | apply State.biasEvents_keeps | apply State.sweep_keeps | apply State.coreEntries_keeps | split | dsimp only

theorem State.initRec_keeps {n : Nat} {j : Nat} (hk : Keeps ref s) : Keeps ref (State.initRec s n j) := by
  unfold State.initRec
  repeat' with_reducible first | intro _ | assumption | apply keeps_ite | apply State.readRec_keeps | apply State.writeRec_keeps | refine Keeps.pair ?_ (by assumption) | split | dsimp only

theorem execInitPassEnd_keeps {n : Fin 1024} (hk : Keeps ref s) {t' : State} (he : execInitPassEnd n s = .next t') : Keeps ref t' := by
  injection he with he
  rw [← he]
  repeat' with_reducible first | intro _ | assumption | apply keeps_ite | apply State.ncStatus_keeps | apply State.initRec_keeps | apply State.takeAll_keeps | apply forN_keeps | apply State.alive_keeps | apply State.foff_keeps | split | dsimp only

theorem State.scanBegin_keeps {n : Nat} {t : Nat} (hk : Keeps ref s) : Keeps ref (State.scanBegin s n t) := by
  unfold State.scanBegin
  repeat' with_reducible first | intro _ | assumption | apply keeps_ite | apply State.onCore_keeps | split | dsimp only

theorem State.scanOwed_keeps {n : Nat} {e : Nat} {y3 : Nat} (hk : Keeps ref s) : Keeps ref (State.scanOwed s n e y3) := by
  induction y3 generalizing s n e with
  | zero =>
    unfold State.scanOwed
    repeat' with_reducible first | intro _ | assumption | apply keeps_ite | apply State.scanBegin_keeps | apply State.scanRun_keeps | apply State.onCore_keeps | split | dsimp only
  | succ _ ih =>
    unfold State.scanOwed
    repeat' with_reducible first | intro _ | assumption | apply ih | apply keeps_ite | apply State.scanBegin_keeps | apply State.scanRun_keeps | apply State.onCore_keeps | split | dsimp only

theorem State.coreSequence_keeps {n : Nat} {e : Nat} (hk : Keeps ref s) : Keeps ref (State.coreSequence s n e) := by
  unfold State.coreSequence
  repeat' with_reducible first | intro _ | assumption | apply keeps_ite | apply State.scanOwed_keeps | apply forL_keeps | apply State.scanResume_keeps | apply State.afterScan_keeps | apply State.takeAll_keeps | apply State.reportEnd_keeps | apply State.drainDeferred_keeps | apply State.wheelRelease_keeps | apply State.fflag_keeps | apply State.onCore_keeps | split | dsimp only

theorem State.coreToken_keeps {n : Nat} {e : Nat} (hk : Keeps ref s) : Keeps ref (State.coreToken s n e) := by
  unfold State.coreToken
  repeat' with_reducible first | intro _ | assumption | apply keeps_ite | apply State.plBoundary_keeps | apply State.iff_keeps | apply State.evDrain_keeps | apply State.ncStatus_keeps | apply State.coreSequence_keeps | apply State.wrN_keeps | apply State.coreEntries_keeps | apply State.reportEnd_keeps | apply State.wheelRelease_keeps | apply State.onCore_keeps | split | dsimp only

theorem execCoreDisable_keeps {m : Master} {n : Fin 1024} (hk : Keeps ref s) {t' : State} (he : execCoreDisable m n s = .next t') : Keeps ref t' := by
  injection he with he
  rw [← he]
  repeat' with_reducible first | intro _ | assumption | apply keeps_ite | apply State.guarded_keeps | apply State.ncDisable_keeps | apply State.alive_keeps | split | dsimp only

theorem execCoreEnable_keeps {m : Master} {n : Fin 1024} (hk : Keeps ref s) {t' : State} (he : execCoreEnable m n s = .next t') : Keeps ref t' := by
  injection he with he
  rw [← he]
  repeat' with_reducible first | intro _ | assumption | apply keeps_ite | apply State.coreEnable_keeps | apply State.guarded_keeps | apply State.alive_keeps | split | dsimp only

theorem execStepToken_keeps {n : Fin 1024} {errs : List (BitVec 21 × Bool)} {scrub : List (BitVec 21 × Bool)} (hk : Keeps ref s) {t' : State} (he : execStepToken n errs scrub s = .next t') : Keeps ref t' := by
  injection he with he
  rw [← he]
  repeat' with_reducible first | intro _ | assumption | apply keeps_ite | apply State.ncErrors_keeps | apply State.coreToken_keeps | apply State.ncScrub_keeps | apply State.alive_keeps | apply State.onCore_keeps | split | dsimp only

end Sys2Proof.Machine
end

