-- ==== Sys2Proof/Laws/KeepsExchange.lean ====
section
/-! SUPPORT. The operations of Machine/Exchange.lean keep what Laws/Keeps.lean says. -/

namespace Sys2Proof.Machine

variable {ref s : State}

theorem execMachineTimer_keeps {i : Fin 128} (hk : Keeps ref s) {t' : State} (he : execMachineTimer i s = .next t') : Keeps ref t' := by
  injection he with he
  rw [← he]
  repeat' with_reducible first | intro _ | assumption | apply keeps_ite | apply State.wakeIsland_keeps | apply State.alive_keeps | apply State.emitIrq_keeps | split | dsimp only

theorem State.portOp_keeps {o : Nat} {obj : Nat} {op : Nat} {v : Nat} (hk : Keeps ref s) : Keeps ref (State.portOp s o obj op v) := by
  unfold State.portOp
  repeat' with_reducible first | intro _ | assumption | apply keeps_ite | apply State.request_keeps | split | dsimp only

theorem State.scrub_keeps {a : Nat} {n : Nat} {ecc : Ecc} (hk : Keeps ref s) : Keeps ref (State.scrub s a n ecc) := by
  unfold State.scrub
  repeat' with_reducible first | intro _ | assumption | apply keeps_ite | apply State.readErrors_keeps | refine Keeps.pair ?_ (by assumption) | split | dsimp only

theorem execSeqPatrolScrub_keeps {i : Fin 128} {w : BitVec 16} {ecc : Ecc} (hk : Keeps ref s) {t' : State} (he : execSeqPatrolScrub i w ecc s = .next t') : Keeps ref t' := by
  injection he with he
  rw [← he]
  repeat' with_reducible first | intro _ | assumption | apply keeps_ite | apply State.scrub_keeps | apply State.alive_keeps | split | dsimp only

theorem execSlicePatrolScrub_keeps {i : Fin 256} {g : Fin 49152} {ecc : Ecc} (hk : Keeps ref s) {t' : State} (he : execSlicePatrolScrub i g ecc s = .next t') : Keeps ref t' := by
  injection he with he
  rw [← he]
  repeat' with_reducible first | intro _ | assumption | apply keeps_ite | apply State.scrub_keeps | apply State.alive_keeps | split | dsimp only

theorem State.answer_keeps {status : Nat} {a : Nat} {e : Emit} (hk : Keeps ref s) : Keeps ref (State.answer s status a e) := by
  unfold State.answer
  repeat' with_reducible first | intro _ | assumption | apply keeps_ite | apply State.emit_keeps | split | dsimp only

end Sys2Proof.Machine
end

