-- ==== Sys2Proof/Laws/KeepsDdr.lean ====
section
/-! SUPPORT. The operations of Machine/Ddr.lean keep what Laws/Keeps.lean says. -/

namespace Sys2Proof.Machine

variable {ref s : State}

theorem State.ddrAskRetrain_keeps {c : Nat} (hk : Keeps ref s) : Keeps ref (State.ddrAskRetrain s c) := by
  unfold State.ddrAskRetrain
  repeat' with_reducible first | intro _ | assumption | apply keeps_ite | apply State.fon_keeps | split | dsimp only

theorem State.ddrRetrainWrite_keeps {c : Nat} (hk : Keeps ref s) : Keeps ref (State.ddrRetrainWrite s c) := by
  unfold State.ddrRetrainWrite
  repeat' with_reducible first | intro _ | assumption | apply keeps_ite | apply State.ignored_keeps | apply State.ddrAskRetrain_keeps | split | dsimp only

theorem execDdrRetrainGrant_keeps  (hk : Keeps ref s) {t' : State} (he : execDdrRetrainGrant s = .next t') : Keeps ref t' := by
  injection he with he
  rw [← he]
  repeat' with_reducible first | intro _ | assumption | apply keeps_ite | apply State.onDdr_keeps | apply State.fon_keeps | apply State.alive_keeps | apply State.foff_keeps | split | dsimp only

theorem State.meshData_keeps {src : Nat} {a : Nat} {l : List Byte} {poison : Bool} (hk : Keeps ref s) : Keeps ref (State.meshData s src a l poison) := by
  unfold State.meshData
  repeat' with_reducible first | intro _ | assumption | apply keeps_ite | apply forN_keeps | apply State.send_keeps | split | dsimp only

theorem State.replyTo_keeps {r : DdrReq} {status : Nat} {l : List Byte} (hk : Keeps ref s) : Keeps ref (State.replyTo s r status l) := by
  unfold State.replyTo
  repeat' with_reducible first | intro _ | assumption | apply keeps_ite | apply State.dmaFound_keeps | apply State.answer_keeps | apply State.meshData_keeps | apply State.dmaAcked_keeps | apply State.dmaData_keeps | apply State.dmaRefused_keeps | apply State.send_keeps | apply State.storeAcked_keeps | split | dsimp only

theorem State.ddrAgain_keeps {r : DdrReq} (hk : Keeps ref s) : Keeps ref (State.ddrAgain s r) := by
  unfold State.ddrAgain
  repeat' with_reducible first | intro _ | assumption | apply keeps_ite | apply State.onOwner_keeps | apply State.ddrHold_keeps | split | dsimp only

theorem State.ddrServe_keeps {r : DdrReq} (hk : Keeps ref s) : Keeps ref (State.ddrServe s r) := by
  unfold State.ddrServe
  repeat' with_reducible first | intro _ | assumption | apply keeps_ite | apply State.replied_keeps | apply State.replyTo_keeps | apply State.localRead_keeps | apply State.ddrAgain_keeps | apply State.localWrite_keeps | refine Keeps.pair ?_ (by assumption) | split | dsimp only

theorem State.ddrDrain_keeps {c : Nat} (hk : Keeps ref s) : Keeps ref (State.ddrDrain s c) := by
  unfold State.ddrDrain
  repeat' with_reducible first | intro _ | assumption | apply keeps_ite | apply State.onDdr_keeps | apply forL_keeps | apply State.ddrServe_keeps | split | dsimp only

theorem State.ddrEnable_keeps {c : Nat} (hk : Keeps ref s) : Keeps ref (State.ddrEnable s c) := by
  unfold State.ddrEnable
  repeat' with_reducible first | intro _ | assumption | apply keeps_ite | apply State.fset_keeps | apply State.fon_keeps | apply State.foff_keeps | split | dsimp only

theorem State.ddrTrained_keeps {c : Nat} {celsius : Int} (hk : Keeps ref s) : Keeps ref (State.ddrTrained s c celsius) := by
  unfold State.ddrTrained
  repeat' with_reducible first | intro _ | assumption | apply keeps_ite | apply State.onDdr_keeps | apply State.fon_keeps | split | dsimp only

theorem execDdrRetrainEnd_keeps {c : Fin 8} {celsius : BitVec 8} (hk : Keeps ref s) {t' : State} (he : execDdrRetrainEnd c celsius s = .next t') : Keeps ref t' := by
  injection he with he
  rw [← he]
  repeat' with_reducible first | intro _ | assumption | apply keeps_ite | apply State.ddrDrain_keeps | apply State.wrN_keeps | apply State.ddrTrained_keeps | apply State.alive_keeps | apply State.count_keeps | apply State.foff_keeps | split | dsimp only

theorem execDdrEnable_keeps {m : Master} {c : Fin 8} (hk : Keeps ref s) {t' : State} (he : execDdrEnable m c s = .next t') : Keeps ref t' := by
  injection he with he
  rw [← he]
  repeat' with_reducible first | intro _ | assumption | apply keeps_ite | apply State.guarded_keeps | apply State.ddrEnable_keeps | apply State.alive_keeps | split | dsimp only

theorem execDdrTrainingEnd_keeps {c : Fin 8} {ok : Bool} {celsius : BitVec 8} (hk : Keeps ref s) {t' : State} (he : execDdrTrainingEnd c ok celsius s = .next t') : Keeps ref t' := by
  injection he with he
  rw [← he]
  repeat' with_reducible first | intro _ | assumption | apply keeps_ite | apply State.fset_keeps | apply State.ddrTrained_keeps | apply State.alive_keeps | split | dsimp only

theorem execDdrBusyResend_keeps  (hk : Keeps ref s) {t' : State} (he : execDdrBusyResend s = .next t') : Keeps ref t' := by
  injection he with he
  rw [← he]
  repeat' with_reducible first | intro _ | assumption | apply keeps_ite | apply State.busyTake_keeps | apply State.ddrServe_keeps | apply State.alive_keeps | apply State.send_keeps | apply State.againTake_keeps | split | dsimp only

theorem execDdrRetrainTimeout_keeps {c : Fin 8} (hk : Keeps ref s) {t' : State} (he : execDdrRetrainTimeout c s = .next t') : Keeps ref t' := by
  injection he with he
  rw [← he]
  repeat' with_reducible first | intro _ | assumption | apply keeps_ite | apply State.ddrDrain_keeps | apply State.raise_keeps | apply State.alive_keeps | apply State.foff_keeps | split | dsimp only

theorem execDdrRetrainTemp_keeps {c : Fin 8} {celsius : BitVec 8} (hk : Keeps ref s) {t' : State} (he : execDdrRetrainTemp c celsius s = .next t') : Keeps ref t' := by
  injection he with he
  rw [← he]
  repeat' with_reducible first | intro _ | assumption | apply keeps_ite | apply State.ddrAskRetrain_keeps | apply State.wakeIsland_keeps | apply State.alive_keeps | split | dsimp only

theorem execDdrRetrainRequest_keeps {m : Master} {c : Fin 8} (hk : Keeps ref s) {t' : State} (he : execDdrRetrainRequest m c s = .next t') : Keeps ref t' := by
  injection he with he
  rw [← he]
  repeat' with_reducible first | intro _ | assumption | apply keeps_ite | apply State.guarded_keeps | apply State.alive_keeps | apply State.ddrRetrainWrite_keeps | split | dsimp only

theorem State.ddrFail_keeps {c : Nat} (hk : Keeps ref s) : Keeps ref (State.ddrFail s c) := by
  unfold State.ddrFail
  repeat' with_reducible first | intro _ | assumption | apply keeps_ite | apply State.ddrDrain_keeps | apply State.raise_keeps | apply State.fon_keeps | apply State.foff_keeps | split | dsimp only

theorem execDdrAlert_keeps {c : Fin 8} {wcrc : Bool} {again : Bool} (hk : Keeps ref s) {t' : State} (he : execDdrAlert c wcrc again s = .next t') : Keeps ref t' := by
  injection he with he
  rw [← he]
  repeat' with_reducible first | intro _ | assumption | apply keeps_ite | apply State.onDdr_keeps | apply State.ddrFail_keeps | apply State.alive_keeps | apply State.count_keeps | split | dsimp only

theorem execDdrRetrainPeriod_keeps {c : Fin 8} (hk : Keeps ref s) {t' : State} (he : execDdrRetrainPeriod c s = .next t') : Keeps ref t' := by
  injection he with he
  rw [← he]
  repeat' with_reducible first | intro _ | assumption | apply keeps_ite | apply State.ddrAskRetrain_keeps | apply State.wakeIsland_keeps | apply State.alive_keeps | split | dsimp only

theorem execVddqLow_keeps {c : Fin 8} (hk : Keeps ref s) {t' : State} (he : execVddqLow c s = .next t') : Keeps ref t' := by
  injection he with he
  rw [← he]
  repeat' with_reducible first | intro _ | assumption | apply keeps_ite | apply State.ddrFail_keeps | apply State.alive_keeps | split | dsimp only

theorem execDdrPatrolRead_keeps {c : Fin 8} {line : BitVec 36} {ecc : Ecc} (hk : Keeps ref s) {t' : State} (he : execDdrPatrolRead c line ecc s = .next t') : Keeps ref t' := by
  injection he with he
  rw [← he]
  repeat' with_reducible first | intro _ | assumption | apply keeps_ite | apply State.onDdr_keeps | apply State.readErrors_keeps | apply State.wakeIsland_keeps | apply State.alive_keeps | refine Keeps.pair ?_ (by assumption) | split | dsimp only

end Sys2Proof.Machine
end

