-- ==== Sys2Proof/Laws/KeepsFaults.lean ====
section
/-! SUPPORT. The operations of Machine/Faults.lean keep what Laws/Keeps.lean says. -/

namespace Sys2Proof.Machine

variable {ref s : State}

theorem State.lastingClear_keeps {src : Nat} (hk : Keeps ref s) : Keeps ref (State.lastingClear s src) := by
  unfold State.lastingClear
  repeat' with_reducible first | intro _ | assumption | apply keeps_ite | apply State.refreshCauses_keeps | apply State.ignored_keeps | apply State.foff_keeps | split | dsimp only

theorem execLastingClear_keeps {m : Master} {src : Fin 26} (hk : Keeps ref s) {t' : State} (he : execLastingClear m src s = .next t') : Keeps ref t' := by
  injection he with he
  rw [← he]
  repeat' with_reducible first | intro _ | assumption | apply keeps_ite | apply State.guarded_keeps | apply State.alive_keeps | apply State.lastingClear_keeps | split | dsimp only

theorem State.wbRelease_keeps  (hk : Keeps ref s) : Keeps ref (State.wbRelease s) := by
  unfold State.wbRelease
  repeat' with_reducible first | intro _ | assumption | apply keeps_ite | apply State.onAon_keeps | apply State.foff_keeps | split | dsimp only

theorem State.blockReset_keeps {src : Nat} {kind : Nat} {index : Nat} (hk : Keeps ref s) : Keeps ref (State.blockReset s src kind index) := by
  unfold State.blockReset
  repeat' with_reducible first | intro _ | assumption | apply keeps_ite | apply State.tileReset_keeps | apply State.seqReset_keeps | apply State.ddrAskRetrain_keeps | apply State.dmaPause_keeps | apply State.ncDisable_keeps | apply State.dmaDisable_keeps | split | dsimp only

theorem State.faultClear_keeps  (hk : Keeps ref s) : Keeps ref (State.faultClear s) := by
  unfold State.faultClear
  repeat' with_reducible first | intro _ | assumption | apply keeps_ite | apply State.iff_keeps | apply State.wbRelease_keeps | apply State.refreshCauses_keeps | apply State.ignored_keeps | apply State.wr_keeps | apply State.foff_keeps | apply State.emit_keeps | split | dsimp only

theorem execFaultClear_keeps {m : Master} (hk : Keeps ref s) {t' : State} (he : execFaultClear m s = .next t') : Keeps ref t' := by
  injection he with he
  rw [← he]
  repeat' with_reducible first | intro _ | assumption | apply keeps_ite | apply State.guarded_keeps | apply State.alive_keeps | apply State.faultClear_keeps | split | dsimp only

theorem State.windowClose_keeps {src : Nat} (hk : Keeps ref s) : Keeps ref (State.windowClose s src) := by
  unfold State.windowClose
  repeat' with_reducible first | intro _ | assumption | apply keeps_ite | apply State.foff_keeps | split | dsimp only

theorem State.windowDue_keeps {src : Nat} (hk : Keeps ref s) : Keeps ref (State.windowDue s src) := by
  unfold State.windowDue
  repeat' with_reducible first | intro _ | assumption | apply keeps_ite | apply State.windowClose_keeps | split | dsimp only

theorem State.wbFreeze_keeps  (hk : Keeps ref s) : Keeps ref (State.wbFreeze s) := by
  unfold State.wbFreeze
  repeat' with_reducible first | intro _ | assumption | apply keeps_ite | apply State.wingbeatStopped_keeps | apply State.fon_keeps | split | dsimp only

theorem State.react_keeps {new : Nat} {src : Nat} {kind : Nat} {index : Nat} (hk : Keeps ref s) : Keeps ref (State.react s new src kind index) := by
  unfold State.react
  repeat' with_reducible first | intro _ | assumption | apply keeps_ite | apply State.wbFreeze_keeps | apply State.iff_keeps | apply State.blockReset_keeps | apply State.copyPrev_keeps | apply State.startUp_keeps | apply State.chipReset_keeps | apply State.emit_keeps | split | dsimp only

theorem State.windowTick_keeps {src : Nat} (hk : Keeps ref s) : Keeps ref (State.windowTick s src) := by
  unfold State.windowTick
  repeat' with_reducible first | intro _ | assumption | apply keeps_ite | apply State.fset_keeps | apply State.windowDue_keeps | split | dsimp only

theorem execSlowTick_keeps  (hk : Keeps ref s) {t' : State} (he : execSlowTick s = .next t') : Keeps ref t' := by
  injection he with he
  rw [← he]
  repeat' with_reducible first | intro _ | assumption | apply keeps_ite | refine State.onStore_keeps ?_ (by intro t w; with_unfolding_all exact w) | apply State.windowTick_keeps | apply forN_keeps | apply State.onAon_keeps | apply State.alive_keeps | split | dsimp only

theorem State.inject_keeps {src : Nat} (hk : Keeps ref s) : Keeps ref (State.inject s src) := by
  unfold State.inject
  repeat' with_reducible first | intro _ | assumption | apply keeps_ite | apply State.ignored_keeps | apply State.raise_keeps | split | dsimp only

theorem State.windowEvent_keeps {src : Nat} (hk : Keeps ref s) : Keeps ref (State.windowEvent s src) := by
  unfold State.windowEvent
  repeat' with_reducible first | intro _ | assumption | apply keeps_ite | apply State.iff_keeps | apply State.fset_keeps | apply State.fcount_keeps | apply State.windowDue_keeps | apply State.fon_keeps | split | dsimp only

theorem State.accept_keeps {src : Nat} {kind : Nat} {index : Nat} {detail : Word} (hk : Keeps ref s) : Keeps ref (State.accept s src kind index detail) := by
  unfold State.accept
  repeat' with_reducible first | intro _ | assumption | apply keeps_ite | apply State.windowEvent_keeps | apply State.refreshCauses_keeps | apply State.recMerge_keeps | apply State.react_keeps | apply State.count_keeps | apply State.recOpen_keeps | split | dsimp only

theorem State.voteWord_keeps {l : List (Nat × Nat × Word)} {o : Nat} (hk : Keeps ref s) : Keeps ref (State.voteWord s l o) := by
  unfold State.voteWord
  repeat' with_reducible first | intro _ | assumption | apply keeps_ite | apply State.fset_keeps | apply State.wr_keeps | apply State.raise_keeps | apply State.fon_keeps | apply State.count_keeps | split | dsimp only

theorem execFaultEvent_keeps {src : Fin 26} {kind : Fin 10} {index : BitVec 16} {detail : Word} (hk : Keeps ref s) {t' : State} (he : execFaultEvent src kind index detail s = .next t') : Keeps ref t' := by
  injection he with he
  rw [← he]
  repeat' with_reducible first | intro _ | assumption | apply keeps_ite | apply State.alive_keeps | apply State.accept_keeps | split | dsimp only

theorem execFaultInject_keeps {m : Master} {src : BitVec 5} (hk : Keeps ref s) {t' : State} (he : execFaultInject m src s = .next t') : Keeps ref t' := by
  injection he with he
  rw [← he]
  repeat' with_reducible first | intro _ | assumption | apply keeps_ite | apply State.inject_keeps | apply State.fset_keeps | apply State.guarded_keeps | apply State.alive_keeps | split | dsimp only

theorem State.wdogKick_keeps {key : Nat} (hk : Keeps ref s) : Keeps ref (State.wdogKick s key) := by
  unfold State.wdogKick
  repeat' with_reducible first | intro _ | assumption | apply keeps_ite | apply State.ignored_keeps | apply State.onAon_keeps | split | dsimp only

theorem execWatchdogKick_keeps {m : Master} {key : BitVec 8} (hk : Keeps ref s) {t' : State} (he : execWatchdogKick m key s = .next t') : Keeps ref t' := by
  injection he with he
  rw [← he]
  repeat' with_reducible first | intro _ | assumption | apply keeps_ite | apply State.wdogKick_keeps | apply State.guarded_keeps | apply State.alive_keeps | split | dsimp only

theorem execWatchdogExpiry_keeps  (hk : Keeps ref s) {t' : State} (he : execWatchdogExpiry s = .next t') : Keeps ref t' := by
  injection he with he
  rw [← he]
  repeat' with_reducible first | intro _ | assumption | apply keeps_ite | apply State.raise_keeps | apply State.onAon_keeps | apply State.alive_keeps | split | dsimp only

theorem execWingbeatToggle_keeps  (hk : Keeps ref s) {t' : State} (he : execWingbeatToggle s = .next t') : Keeps ref t' := by
  injection he with he
  rw [← he]
  repeat' with_reducible first | intro _ | assumption | apply keeps_ite | apply State.onAon_keeps | apply State.alive_keeps | apply State.fflag_keeps | split | dsimp only

theorem execFaultWindowClose_keeps {src : Fin 26} (hk : Keeps ref s) {t' : State} (he : execFaultWindowClose src s = .next t') : Keeps ref t' := by
  injection he with he
  rw [← he]
  repeat' with_reducible first | intro _ | assumption | apply keeps_ite | apply State.windowDue_keeps | apply State.alive_keeps | split | dsimp only

theorem execVoteScan_keeps {upsets : List (BitVec 28 × Fin 3 × Word)} (hk : Keeps ref s) {t' : State} (he : execVoteScan upsets s = .next t') : Keeps ref t' := by
  injection he with he
  rw [← he]
  repeat' with_reducible first | intro _ | assumption | apply keeps_ite | apply forL_keeps | apply State.voteWord_keeps | apply State.alive_keeps | split | dsimp only

end Sys2Proof.Machine
end

