-- ==== Sys2Proof/Laws/KeepsRegRules.lean ====
section
/-! SUPPORT. The operations of Machine/RegRules.lean keep what Laws/Keeps.lean says. -/

namespace Sys2Proof.Machine

variable {ref s : State}

theorem State.fieldsWrite_keeps {o : Nat} {v : Word} {held : List Nat} {fs : List FieldDef} (hk : Keeps ref s) : Keeps ref (State.fieldsWrite s o v held fs) := by
  unfold State.fieldsWrite
  repeat' with_reducible first | intro _ | assumption | apply keeps_ite | apply State.ignored_keeps | apply State.wr_keeps | split | dsimp only

theorem State.regLoad_keeps {m : Master} {o : Nat} (hk : Keeps ref s) : Keeps ref (State.regLoad s m o).1 := by
  unfold State.regLoad
  repeat' with_reducible first | intro _ | assumption | apply keeps_ite | apply keeps_ite1 | apply State.setPair_keeps | apply State.drawn_keeps | split | dsimp only

end Sys2Proof.Machine
end

