-- ==== Sys2Proof/Laws/KeepsRoost.lean ====
section
/-! SUPPORT. The operations of Machine/Roost.lean keep what Laws/Keeps.lean says. -/

namespace Sys2Proof.Machine

variable {ref s : State}

theorem State.seqHold_keeps {i : Nat} (hk : Keeps ref s) : Keeps ref (State.seqHold s i) := by
  unfold State.seqHold
  repeat' with_reducible first | intro _ | assumption | apply keeps_ite | apply State.seqReset_keeps | apply State.foff_keeps | split | dsimp only

theorem State.brownReset_keeps {i : Nat} (hk : Keeps ref s) : Keeps ref (State.brownReset s i) := by
  unfold State.brownReset
  repeat' with_reducible first | intro _ | assumption | apply keeps_ite | apply State.tileReset_keeps | apply State.mopenSpan_keeps | apply State.ddrAskRetrain_keeps | apply State.seqMemOpen_keeps | apply State.wr_keeps | apply State.seqHold_keeps | refine State.onTrust_keeps ?_ (by intro t w; with_unfolding_all exact w) | apply State.sliceOpen_keeps | apply forN_keeps | apply State.drawnN_keeps | apply State.foff_keeps | apply State.dmaDisable_keeps | split | dsimp only

theorem execBrownout_keeps {i : Fin 102} (hk : Keeps ref s) {t' : State} (he : execBrownout i s = .next t') : Keeps ref t' := by
  injection he with he
  rw [← he]
  repeat' with_reducible first | intro _ | assumption | apply keeps_ite | apply State.raise_keeps | apply State.brownReset_keeps | apply State.alive_keeps | apply State.count_keeps | apply State.foff_keeps | split | dsimp only

theorem execRoostWake_keeps {i : Fin 102} {cause : Fin 9} (hk : Keeps ref s) {t' : State} (he : execRoostWake i cause s = .next t') : Keeps ref t' := by
  injection he with he
  rw [← he]
  repeat' with_reducible first | intro _ | assumption | apply keeps_ite | apply State.wakeIsland_keeps | apply State.alive_keeps | split | dsimp only

theorem State.wfiShow_keeps {t : Nat} {wfi0 : Bool} {wfi1 : Bool} (hk : Keeps ref s) : Keeps ref (State.wfiShow s t wfi0 wfi1) := by
  unfold State.wfiShow
  repeat' with_reducible first | intro _ | assumption | apply keeps_ite | apply State.fflag_keeps | split | dsimp only

theorem execRoostEntry_keeps {i : Fin 102} {request : Bool} {wfi0 : Bool} {wfi1 : Bool} (hk : Keeps ref s) {t' : State} (he : execRoostEntry i request wfi0 wfi1 s = .next t') : Keeps ref t' := by
  injection he with he
  rw [← he]
  repeat' with_reducible first | intro _ | assumption | apply keeps_ite | apply State.fset_keeps | apply State.fcount_keeps | apply State.wfiShow_keeps | apply State.alive_keeps | apply State.count_keeps | split | dsimp only

theorem execWakeEnd_keeps {i : Fin 102} (hk : Keeps ref s) {t' : State} (he : execWakeEnd i s = .next t') : Keeps ref t' := by
  injection he with he
  rw [← he]
  repeat' with_reducible first | intro _ | assumption | apply keeps_ite | apply State.alive_keeps | apply State.foff_keeps | split | dsimp only

theorem State.islandSetOff_keeps {i : Nat} {off : Bool} (hk : Keeps ref s) : Keeps ref (State.islandSetOff s i off) := by
  unfold State.islandSetOff
  repeat' with_reducible first | intro _ | assumption | apply keeps_ite | apply State.mopenSpan_keeps | apply State.iff_keeps | apply State.fset_keeps | apply State.ignored_keeps | apply State.fflag_keeps | apply State.foff_keeps | split | dsimp only

theorem execIslandOff_keeps {m : Master} {i : Fin 102} {off : Bool} (hk : Keeps ref s) {t' : State} (he : execIslandOff m i off s = .next t') : Keeps ref t' := by
  injection he with he
  rw [← he]
  repeat' with_reducible first | intro _ | assumption | apply keeps_ite | apply State.islandSetOff_keeps | apply State.guarded_keeps | apply State.alive_keeps | split | dsimp only

theorem execIslandWakeWrite_keeps {m : Master} {i : Fin 102} (hk : Keeps ref s) {t' : State} (he : execIslandWakeWrite m i s = .next t') : Keeps ref t' := by
  injection he with he
  rw [← he]
  repeat' with_reducible first | intro _ | assumption | apply keeps_ite | apply State.wakeIsland_keeps | apply State.guarded_keeps | apply State.alive_keeps | split | dsimp only

end Sys2Proof.Machine
end

