-- ==== Sys2Proof/Laws/KeepsRegWrite.lean ====
section
/-! SUPPORT. The operations of Machine/RegWrite.lean keep what Laws/Keeps.lean says. -/

namespace Sys2Proof.Machine

variable {ref s : State}

theorem onChange_keeps {y3 : State} {f : Bool → State → State} {y1 : Bool} {y2 : Bool} (hk : Keeps ref y3) (hkf : ∀ x0 t, Keeps ref t → Keeps ref (f x0 t)) : Keeps ref (onChange f y1 y2 y3) := by
  unfold onChange
  repeat' with_reducible first | intro _ | assumption | apply keeps_ite | apply hkf | split | dsimp only

theorem State.syncArm_keeps {on : Bool} (hk : Keeps ref s) : Keeps ref (State.syncArm s on) := by
  unfold State.syncArm
  repeat' with_reducible first | intro _ | assumption | apply keeps_ite | apply State.takenIf_keeps | apply State.fon_keeps | refine State.onTb_keeps ?_ (by intro b; first | exact ⟨rfl, rfl, rfl⟩ | (refine ⟨?_, ?_, ?_⟩ <;> (repeat' split) <;> rfl)) | apply State.foff_keeps | split | dsimp only

theorem State.tileEn_keeps {t : Nat} {on : Bool} (hk : Keeps ref s) : Keeps ref (State.tileEn s t on) := by
  unfold State.tileEn
  repeat' with_reducible first | intro _ | assumption | apply keeps_ite | apply State.tileReset_keeps | apply State.tileShow_keeps | apply State.fon_keeps | split | dsimp only

theorem State.jobWrite_keeps {on : Bool} (hk : Keeps ref s) : Keeps ref (State.jobWrite s on) := by
  unfold State.jobWrite
  repeat' with_reducible first | intro _ | assumption | apply keeps_ite | apply State.onLink_keeps | apply forN_keeps | apply State.altUpdate_keeps | apply State.fflag_keeps | split | dsimp only

theorem State.ddrDisable_keeps {c : Nat} (hk : Keeps ref s) : Keeps ref (State.ddrDisable s c) := by
  unfold State.ddrDisable
  repeat' with_reducible first | intro _ | assumption | apply keeps_ite | apply State.ddrDrain_keeps | apply State.foff_keeps | split | dsimp only

/-- An acting field whose action keeps what Laws/Keeps.lean says. -/
def ActOk (a : Act) : Prop := ∀ (ref t : State) (x y : Bool), Keeps ref t → Keeps ref (a.2 x y t)

/-- Every acting field of a list does so. -/
def ActsOk (l : List Act) : Prop := ∀ a ∈ l, ActOk a

theorem ActOk.mk {f : FieldRef} {a : Bool → Bool → State → State} (h : ∀ ref t x y, Keeps ref t → Keeps ref (a x y t)) : ActOk (f, a) := h

theorem ActsOk.nil : ActsOk [] := fun _ h => absurd h List.not_mem_nil

theorem ActsOk.cons {a : Act} {l : List Act} (ha : ActOk a) (hl : ActsOk l) : ActsOk (a :: l) := by
  intro b hb
  rcases List.mem_cons.mp hb with e | e
  · rw [e]; exact ha
  · exact hl b e

theorem ActsOk.ite {c : Prop} [Decidable c] {a b : List Act} (ha : ActsOk a) (hb : ActsOk b) : ActsOk (if c then a else b) := by
  split
  · exact ha
  · exact hb

theorem ActsOk.filter {l : List Act} (p : Act → Bool) (h : ActsOk l) : ActsOk (l.filter p) := fun a ha => h a (List.mem_filter.mp ha).1

theorem ActsOk.append {l k : List Act} (h : ActsOk l) (h' : ActsOk k) : ActsOk (l ++ k) := by
  intro a ha
  rcases List.mem_append.mp ha with e | e
  · exact h a e
  · exact h' a e

/-- Whatever act the register table names keeps it. -/
theorem actsAt_ok (o : Nat) : ActsOk (actsAt o) := by
  unfold actsAt
  repeat' with_reducible first | intro _ | assumption | apply ActsOk.ite | apply ActsOk.nil | apply ActsOk.cons | apply ActOk.mk | apply onChange_keeps | apply keeps_ite | apply State.digestStop_keeps | apply State.twinEnable_keeps | apply State.foff_keeps | apply State.serviceWrite_keeps | apply State.fflag_keeps | apply State.iff_keeps | apply State.onAon_keeps | apply State.syncArm_keeps | apply State.stepEnable_keeps | apply State.stepStop_keeps | apply State.timerEnable_keeps | apply State.timerReset_keeps | apply State.islandSetOff_keeps | apply State.streamEnable_keeps | apply State.streamDisable_keeps | apply State.tapEnable_keeps | apply State.bridgeReset_keeps | apply State.joinEnds_keeps | apply State.kvDisable_keeps | apply State.fon_keeps | apply State.coreEnable_keeps | apply State.ncDisable_keeps | apply State.tileEn_keeps | apply State.seqRun_keeps | apply State.seqReset_keeps | apply State.unfreeze_keeps | apply State.jobWrite_keeps | apply State.ddrEnable_keeps | apply State.ddrDisable_keeps | apply State.linkEnable_keeps | apply State.linkDisable_keeps

theorem State.runActs_keeps {v : Word} {l : List Act} (hk : Keeps ref s) (w : ActsOk l) : Keeps ref (State.runActs s v l) := by
  induction l generalizing s with
  | nil => exact hk
  | cons a t ih => exact ih (w a List.mem_cons_self _ _ _ _ hk) fun b hb => w b (List.mem_cons_of_mem _ hb)


theorem State.dmaCtlWrite_keeps {ch : Nat} {v : Word} (hk : Keeps ref s) : Keeps ref (State.dmaCtlWrite s ch v) := by
  unfold State.dmaCtlWrite
  repeat' with_reducible first | intro _ | assumption | apply keeps_ite | apply State.dmaBit30_keeps | apply State.dmaRun_keeps | apply State.dmaResume_keeps | apply State.dmaDo_keeps | apply State.fflag_keeps | split | dsimp only

theorem State.afterWrite_keeps {old : State} {o : Nat} (hk : Keeps ref s) : Keeps ref (State.afterWrite old s o) := by
  unfold State.afterWrite
  repeat' with_reducible first | intro _ | assumption | apply keeps_ite | apply State.iff_keeps | apply State.dmaUnwatch_keeps | apply State.setPin_keeps | apply State.setLevel_keeps | apply State.altUpdate_keeps | refine State.onTb_keeps ?_ (by intro b; first | exact ⟨rfl, rfl, rfl⟩ | (refine ⟨?_, ?_, ?_⟩ <;> (repeat' split) <;> rfl)) | apply State.watchersShow_keeps | apply State.foff_keeps | apply State.emit_keeps | split | dsimp only

theorem State.sysrefWrite_keeps {v : Word} {fs : List FieldDef} (hk : Keeps ref s) : Keeps ref (State.sysrefWrite s v fs) := by
  unfold State.sysrefWrite
  repeat' with_reducible first | intro _ | assumption | apply keeps_ite | apply State.ignored_keeps | apply State.fieldsWrite_keeps | split | dsimp only

theorem State.qCfgWrite_keeps {o : Nat} {q : Nat} {v : Word} {fs : List FieldDef} (hk : Keeps ref s) : Keeps ref (State.qCfgWrite s o q v fs) := by
  unfold State.qCfgWrite
  repeat' with_reducible first | intro _ | assumption | apply keeps_ite | apply State.openQueue_keeps | apply State.qDo_keeps | apply State.closeQueue_keeps | apply State.fieldsWrite_keeps | split | dsimp only

theorem State.qCombWrite_keeps {o : Nat} {i : Nat} {v : Word} {fs : List FieldDef} (hk : Keeps ref s) : Keeps ref (State.qCombWrite s o i v fs) := by
  unfold State.qCombWrite
  repeat' with_reducible first | intro _ | assumption | apply keeps_ite | apply State.qDo_keeps | apply State.disarm_keeps | apply State.room_keeps | apply State.arm_keeps | apply State.fieldsWrite_keeps | split | dsimp only

theorem State.halfWrite_keeps {h : Nat} {v : Word} {fs : List FieldDef} (hk : Keeps ref s) : Keeps ref (State.halfWrite s h v fs) := by
  unfold State.halfWrite
  repeat' with_reducible first | intro _ | assumption | apply keeps_ite | apply State.takenIf_keeps | apply State.wr_keeps | apply State.opPointChange_keeps | split | dsimp only

theorem State.setWrite_keeps {m : Master} {o : Nat} {v : Word} {fs : List FieldDef} (hk : Keeps ref s) : Keeps ref (State.setWrite s m o v fs) := by
  unfold State.setWrite
  repeat' with_reducible first | intro _ | assumption | apply keeps_ite | apply State.setLoad_keeps | apply State.setResult_keeps | apply State.ignored_keeps | apply State.setStore_keeps | apply State.xspi_keeps | apply State.drawnN_keeps | apply State.fieldsWrite_keeps | split | dsimp only

theorem State.commands_keeps {m : Master} {o : Nat} {v : Word} (hk : Keeps ref s) : Keeps ref (State.commands s m o v) := by
  unfold State.commands
  repeat' with_reducible first | intro _ | assumption | apply keeps_ite | apply State.recvIdle_keeps | apply State.wdogKick_keeps | apply State.inject_keeps | apply State.iff_keeps | apply State.ctxPush_keeps | apply State.rqPost_keeps | apply State.wakeIsland_keeps | apply State.onTok_keeps | apply State.chrOp_keeps | apply State.linkRetrainRequest_keeps | apply State.swapRequest_keeps | apply State.kvOp_keeps | apply State.cocoonStart_keeps | apply State.adopt_keeps | apply State.drawn_keeps | apply State.ddrRetrainWrite_keeps | apply State.faultClear_keeps | split | dsimp only

theorem State.fieldWrites_keeps {m : Master} {o : Nat} {v : Word} {fs : List FieldDef} (hk : Keeps ref s) : Keeps ref (State.fieldWrites s m o v fs) := by
  unfold State.fieldWrites
  repeat' with_reducible first | intro _ | assumption | apply keeps_ite | exact actsAt_ok _ | apply State.commands_keeps | apply State.runActs_keeps | apply State.dmaDo_keeps | apply State.timerIrq_keeps | apply State.fieldsWrite_keeps | split | dsimp only

theorem State.truWrite_keeps {m : Master} {v : Word} {fs : List FieldDef} (hk : Keeps ref s) : Keeps ref (State.truWrite s m v fs) := by
  unfold State.truWrite
  repeat' with_reducible first | intro _ | assumption | apply keeps_ite | apply State.attestSign_keeps | apply State.debugUnlock_keeps | apply State.iff_keeps | apply State.measureExtend_keeps | apply State.rcvGo_keeps | apply State.fieldsWrite_keeps | split | dsimp only

theorem State.subWrite_keeps {v : Word} {fs : List FieldDef} (hk : Keeps ref s) : Keeps ref (State.subWrite s v fs) := by
  unfold State.subWrite
  repeat' with_reducible first | intro _ | assumption | apply keeps_ite | apply State.iff_keeps | apply State.ignored_keeps | apply State.substitute_keeps | apply State.fieldsWrite_keeps | split | dsimp only

theorem State.wordIn_keeps {m : Master} {o : Nat} {v : Word} {r : RegDef} (hk : Keeps ref s) : Keeps ref (State.wordIn s m o v r) := by
  unfold State.wordIn
  repeat' with_reducible first | intro _ | assumption | apply keeps_ite | apply State.sysrefWrite_keeps | apply State.takenIf_keeps | apply State.qCfgWrite_keeps | apply State.qCombWrite_keeps | apply State.iff_keeps | apply State.chrNent_keeps | apply State.halfWrite_keeps | apply State.haltClear_keeps | apply State.dmaCtlWrite_keeps | apply State.setWrite_keeps | apply State.boundWrite_keeps | apply State.pllWrite_keeps | apply State.timerPerHi_keeps | apply State.fieldWrites_keeps | apply State.tileShow_keeps | apply State.truWrite_keeps | apply State.timerCmpHi_keeps | apply State.chrWrite_keeps | apply State.subWrite_keeps | apply State.stageWrite_keeps | apply State.fieldsWrite_keeps | apply State.lastingClear_keeps | split | dsimp only

theorem State.regWrite_keeps {m : Master} {o : Nat} {v : Word} (hk : Keeps ref s) : Keeps ref (State.regWrite s m o v) := by
  unfold State.regWrite
  repeat' with_reducible first | intro _ | assumption | apply keeps_ite | apply State.afterWrite_keeps | apply State.wordIn_keeps | apply State.guarded_keeps | split | dsimp only

theorem State.bar2Write_keeps {o : Nat} {v : Word} (hk : Keeps ref s) : Keeps ref (State.bar2Write s o v) := by
  unfold State.bar2Write
  repeat' with_reducible first | intro _ | assumption | apply keeps_ite | apply State.onTok_keeps | apply State.wakeSend_keeps | split | dsimp only

theorem execRegisterWrite_keeps {m : Master} {off : BitVec 28} {size : BitVec 4} {value : BitVec 64} {rsvKept bar2 : Bool} (hk : Keeps ref s)
    {t' : State} (he : execRegisterWrite m off size value rsvKept bar2 s = .next t') : Keeps ref t' := by
  unfold execRegisterWrite at he
  dsimp only at he
  split at he
  · injection he with he; rw [← he]; exact hk
  · split at he
    · injection he with he; rw [← he]
      refine State.iff_keeps hk fun t ht => State.bar_keeps ht fun u hu => foldl_keeps hu fun i v hv => State.bar2Write_keeps hv
    · split at he
      · cases he
      · injection he with he; rw [← he]
        exact foldl_keeps hk fun i v hv => State.regWrite_keeps hv


end Sys2Proof.Machine
end

