-- ==== Sys2Proof/Laws/KeepsCommit.lean ====
section
/-! SUPPORT. The operations of Machine/Commit.lean keep what Laws/Keeps.lean says. -/

namespace Sys2Proof.Machine

variable {ref s : State}

theorem State.entryPut_keeps {o : Nat} {w : Word} {m : Word} (hk : Keeps ref s) : Keeps ref (State.entryPut s o w m) := by
  unfold State.entryPut
  repeat' with_reducible first | intro _ | assumption | apply keeps_ite | apply State.dmaBit30_keeps | apply State.ignored_keeps | apply State.openQueue_keeps | apply State.qDo_keeps | apply State.closeQueue_keeps | apply State.disarm_keeps | apply State.dmaResume_keeps | apply State.wr_keeps | apply State.room_keeps | apply State.opPointChange_keeps | apply State.arm_keeps | apply State.boundWrite_keeps | apply State.pllWrite_keeps | apply State.dmaDo_keeps | apply State.timerPerHi_keeps | apply State.timerIrq_keeps | apply State.tileShow_keeps | apply State.timerCmpHi_keeps | apply State.stageWrite_keeps | apply State.fflag_keeps | split | dsimp only

theorem State.entryActs_ok {v : Word} {once : Bool} {p : State × List Act} {l : List Act} (hk : Keeps ref p.1) (hp : ActsOk p.2)
    (hl : ActsOk l) : Keeps ref (State.entryActs v once p l).1 ∧ ActsOk (State.entryActs v once p l).2 := by
  induction l generalizing p with
  | nil => exact ⟨hk, hp⟩
  | cons a t ih =>
    obtain ⟨s, k⟩ := p
    have ha : ActOk a := hl a List.mem_cons_self
    have ht : ActsOk t := fun b hb => hl b (List.mem_cons_of_mem _ hb)
    unfold State.entryActs
    refine ih ?_ ?_ ht
    · have hs : Keeps ref s := hk
      have hx (x y : Bool) : Keeps ref (a.2 x y s) := ha _ _ _ _ hs
      repeat' with_reducible first | exact hs.fst | exact (hx _ _).fst | apply keeps_ite1
    · repeat' split
      · exact hp
      · exact hp.filter _
      · exact hp
      · exact (hp.filter _).append (ActsOk.cons ha ActsOk.nil)
      · exact hp.filter _


theorem State.entryAt_ok {p : State × List Act} {e : Word × Word × Word} (hk : Keeps ref p.1) (hp : ActsOk p.2) :
    Keeps ref (State.entryAt p e).1 ∧ ActsOk (State.entryAt p e).2 := by
  unfold State.entryAt
  dsimp only
  split
  · split
    · exact ⟨State.onChr_keeps hk, hp⟩
    · exact ⟨State.applyEntry_keeps hk, hp⟩
  · split
    · exact ⟨State.onChr_keeps hk, hp⟩
    · exact State.entryActs_ok (State.afterWrite_keeps (State.entryPut_keeps hk)) hp ((actsAt_ok _).filter _)


theorem State.actOn_keeps {a : Act} (hk : Keeps ref s) (w : ActOk a) : Keeps ref (s.actOn a) :=
  keeps_ite (State.stepStart_keeps hk) (w _ _ _ _ hk)


theorem entries_ok {l : List (Word × Word × Word)} {p : State × List Act} (hk : Keeps ref p.1) (hp : ActsOk p.2) :
    Keeps ref (l.foldl State.entryAt p).1 ∧ ActsOk (l.foldl State.entryAt p).2 := by
  induction l generalizing p with
  | nil => exact ⟨hk, hp⟩
  | cons a t ih => exact ih (State.entryAt_ok hk hp).1 (State.entryAt_ok hk hp).2

theorem acts_keeps {l : List Act} (hk : Keeps ref s) (w : ActsOk l) : Keeps ref (forL l (fun a s => s.actOn a) s) := by
  induction l generalizing s with
  | nil => exact hk
  | cons a t ih => exact ih (State.actOn_keeps hk (w a List.mem_cons_self)) fun b hb => w b (List.mem_cons_of_mem _ hb)

theorem State.commitBatch_keeps (hk : Keeps ref s) : Keeps ref s.commitBatch := by
  have h {t : State} (ht : Keeps ref t) : Keeps ref (t.chr.armed.foldl State.entryAt (t, [])).1
      ∧ ActsOk (t.chr.armed.foldl State.entryAt (t, [])).2 := entries_ok ht ActsOk.nil
  unfold State.commitBatch
  refine acts_keeps (State.onChr_keeps (h ?_).1) (h ?_).2
  · repeat' with_reducible first | assumption | apply State.count_keeps | apply State.wrN_keeps | apply State.wr64_keeps | apply State.setChr_keeps
  · repeat' with_reducible first | assumption | apply State.count_keeps | apply State.wrN_keeps | apply State.wr64_keeps | apply State.setChr_keeps


theorem execCommitInstant_keeps  (hk : Keeps ref s) {t' : State} (he : execCommitInstant s = .next t') : Keeps ref t' := by
  injection he with he
  rw [← he]
  repeat' with_reducible first | intro _ | assumption | apply keeps_ite | apply State.commitBatch_keeps | apply State.alive_keeps | split | dsimp only

end Sys2Proof.Machine
end

