-- ==== Sys2Proof/Laws/KeepsInstar.lean ====
section
/-! SUPPORT. The operations of Machine/Instar.lean keep what Laws/Keeps.lean says. -/

namespace Sys2Proof.Machine

variable {ref s : State}

theorem execRcvGo_keeps {m : Master} (hk : Keeps ref s) {t' : State} (he : execRcvGo m s = .next t') : Keeps ref t' := by
  injection he with he
  rw [← he]
  repeat' with_reducible first | intro _ | assumption | apply keeps_ite | apply State.secureOnly_keeps | apply State.guarded_keeps | apply State.alive_keeps | apply State.rcvGo_keeps | split | dsimp only

theorem State.windowsZero_keeps  (hk : Keeps ref s) : Keeps ref (State.windowsZero s) := by
  unfold State.windowsZero
  repeat' with_reducible first | intro _ | assumption | apply keeps_ite | apply State.badKeep_keeps | apply State.mzero_keeps | split | dsimp only

theorem State.stopLoad_keeps {code : Nat} {cores : Nat} (hk : Keeps ref s) : Keeps ref (State.stopLoad s code cores) := by
  unfold State.stopLoad
  repeat' with_reducible first | intro _ | assumption | apply keeps_ite | apply State.instarFail_keeps | split | dsimp only

theorem State.loadImage_keeps {regs : List (Nat × Word)} {bytes : List (Nat × Byte)} (hk : Keeps ref s) : Keeps ref (State.loadImage s regs bytes) := by
  unfold State.loadImage
  repeat' with_reducible first | intro _ | assumption | apply keeps_ite | apply State.setBad_keeps | apply forL_keeps | apply State.regWrite_keeps | apply State.mput_keeps | split | dsimp only

theorem State.loadRun_keeps {regs : List (Nat × Word)} {bytes : List (Nat × Byte)} {cores : Nat} (hk : Keeps ref s) : Keeps ref (State.loadRun s regs bytes cores) := by
  unfold State.loadRun
  repeat' with_reducible first | intro _ | assumption | apply keeps_ite | apply State.stepEnable_keeps | apply State.stopLoad_keeps | apply State.instarRecord_keeps | apply State.regWrite_keeps | apply State.loadImage_keeps | apply State.onAon_keeps | apply State.fon_keeps | apply State.foff_keeps | split | dsimp only

theorem execLoad_keeps {wellFormed : Bool} {regs : List (Nat × Word)} {bytes : List (Nat × Byte)} {cores : BitVec 16} (hk : Keeps ref s) {t' : State} (he : execLoad wellFormed regs bytes cores s = .next t') : Keeps ref t' := by
  injection he with he
  rw [← he]
  repeat' with_reducible first | intro _ | assumption | apply keeps_ite | apply State.iff_keeps | apply State.stopLoad_keeps | apply State.wrN_keeps | apply State.fon_keeps | apply State.loadRun_keeps | apply State.alive_keeps | split | dsimp only

theorem State.imageCopied_keeps  (hk : Keeps ref s) : Keeps ref (State.imageCopied s) := by
  unfold State.imageCopied
  repeat' with_reducible first | intro _ | assumption | apply keeps_ite | apply State.mwrite_keeps | apply State.staleWord_keeps | apply State.onAon_keeps | split | dsimp only

theorem State.slicesZero_keeps  (hk : Keeps ref s) : Keeps ref (State.slicesZero s) := by
  unfold State.slicesZero
  repeat' with_reducible first | intro _ | assumption | apply keeps_ite | apply State.badKeep_keeps | apply State.mzero_keeps | split | dsimp only

theorem execMemories_keeps {slicesOk : Bool} (hk : Keeps ref s) {t' : State} (he : execMemories slicesOk s = .next t') : Keeps ref t' := by
  injection he with he
  rw [← he]
  repeat' with_reducible first | intro _ | assumption | apply keeps_ite | apply State.imageCopied_keeps | apply State.instarFail_keeps | apply State.slicesZero_keeps | apply State.instarDone_keeps | apply State.alive_keeps | apply foldlPair_keeps | apply foldl_keeps | refine Keeps.pair ?_ (by assumption) | split | dsimp only

theorem execCocoonEnd_keeps {wellFormed : Bool} {regs : List (Nat × Word)} {bytes : List (Nat × Byte)} {cores : BitVec 16} (hk : Keeps ref s) {t' : State} (he : execCocoonEnd wellFormed regs bytes cores s = .next t') : Keeps ref t' := by
  injection he with he
  rw [← he]
  repeat' with_reducible first | intro _ | assumption | apply keeps_ite | apply State.iff_keeps | apply State.wbRelease_keeps | apply State.stopLoad_keeps | apply forN_keeps | apply State.loadRun_keeps | apply State.alive_keeps | apply State.foff_keeps | apply State.encoderClear_keeps | split | dsimp only

theorem execPcieConfigRequest_keeps {write : Bool} {busMaster : Bool} {memEnable : Bool} {mps : Fin 6} {mrrs : Fin 6} (hk : Keeps ref s) {t' : State} (he : execPcieConfigRequest write busMaster memEnable mps mrrs s = .next t') : Keeps ref t' := by
  injection he with he
  rw [← he]
  repeat' with_reducible first | intro _ | assumption | apply keeps_ite | apply State.onAon_keeps | apply State.alive_keeps | apply State.emit_keeps | split | dsimp only

theorem State.startCount_keeps  (hk : Keeps ref s) : Keeps ref (State.startCount s) := by
  unfold State.startCount
  repeat' with_reducible first | intro _ | assumption | apply keeps_ite | apply State.wrN_keeps | apply State.sectorProgram_keeps | split | dsimp only

theorem execSuppliesAndAon_keeps {vinOk : Bool} {pllOk : Bool} {pllUs : BitVec 16} (hk : Keeps ref s) {t' : State} (he : execSuppliesAndAon vinOk pllOk pllUs s = .next t') : Keeps ref t' := by
  injection he with he
  rw [← he]
  repeat' with_reducible first | intro _ | assumption | apply keeps_ite | apply State.wr64_keeps | apply State.setCounter_keeps | apply State.instarFail_keeps | apply forL_keeps | apply State.wrN_keeps | apply State.raise_keeps | apply State.onAon_keeps | apply State.fon_keeps | apply State.instarDone_keeps | apply State.alive_keeps | apply State.count_keeps | apply State.startCount_keeps | split | dsimp only

theorem State.boardCheck_keeps {board : List (Fin 12 × Word)} (hk : Keeps ref s) : Keeps ref (State.boardCheck s board) := by
  unfold State.boardCheck
  repeat' with_reducible first | intro _ | assumption | apply keeps_ite | apply forL_keeps | apply State.linkDisable_keeps | apply State.onAon_keeps | split | dsimp only

theorem State.linksEnd_keeps {board : List (Fin 12 × Word)} (hk : Keeps ref s) : Keeps ref (State.linksEnd s board) := by
  unfold State.linksEnd
  repeat' with_reducible first | intro _ | assumption | apply keeps_ite | apply State.staleIf_keeps | apply State.fon_keeps | apply State.instarDone_keeps | split | dsimp only

theorem execServiceEnter_keeps {m : Master} (hk : Keeps ref s) {t' : State} (he : execServiceEnter m s = .next t') : Keeps ref t' := by
  injection he with he
  rw [← he]
  repeat' with_reducible first | intro _ | assumption | apply keeps_ite | apply State.guarded_keeps | apply State.serviceWrite_keeps | apply State.alive_keeps | split | dsimp only

theorem execCocoon_keeps {m : Master} (hk : Keeps ref s) {t' : State} (he : execCocoon m s = .next t') : Keeps ref t' := by
  injection he with he
  rw [← he]
  repeat' with_reducible first | intro _ | assumption | apply keeps_ite | apply State.guarded_keeps | apply State.cocoonStart_keeps | apply State.alive_keeps | split | dsimp only

theorem execTrust_keeps {answers : Bool} {image : List Byte} (hk : Keeps ref s) {t' : State} (he : execTrust answers image s = .next t') : Keeps ref t' := by
  injection he with he
  rw [← he]
  repeat' with_reducible first | intro _ | assumption | apply keeps_ite | apply State.fset_keeps | apply State.instarFail_keeps | refine State.onTrust_keeps ?_ (by intro t w; with_unfolding_all exact w) | apply State.bootMeasure_keeps | apply State.fon_keeps | apply State.instarDone_keeps | apply State.alive_keeps | split | dsimp only

theorem execStageAlternate_keeps  (hk : Keeps ref s) {t' : State} (he : execStageAlternate s = .next t') : Keeps ref t' := by
  injection he with he
  rw [← he]
  repeat' with_reducible first | intro _ | assumption | apply keeps_ite | apply State.onAon_keeps | apply State.alive_keeps | split | dsimp only

theorem execSerdesSupplyLow_keeps {streams : List (Fin 32)} {links : List (Fin 12)} (hk : Keeps ref s) {t' : State} (he : execSerdesSupplyLow streams links s = .next t') : Keeps ref t' := by
  injection he with he
  rw [← he]
  repeat' with_reducible first | intro _ | assumption | apply keeps_ite | apply State.iff_keeps | apply forL_keeps | apply State.lockLoss_keeps | apply State.onAon_keeps | apply State.linkLose_keeps | apply State.alive_keeps | split | dsimp only

theorem execTwinImageDelivered_keeps {image : List Byte} (hk : Keeps ref s) {t' : State} (he : execTwinImageDelivered image s = .next t') : Keeps ref t' := by
  injection he with he
  rw [← he]
  repeat' with_reducible first | intro _ | assumption | apply keeps_ite | apply State.delivered_keeps | apply State.alive_keeps | split | dsimp only

theorem execPerstDeassert_keeps {refclk : Bool} (hk : Keeps ref s) {t' : State} (he : execPerstDeassert refclk s = .next t') : Keeps ref t' := by
  injection he with he
  rw [← he]
  repeat' with_reducible first | intro _ | assumption | apply keeps_ite | apply State.iff_keeps | apply State.onAon_keeps | apply State.alive_keeps | split | dsimp only

theorem execFabric_keeps {code : BitVec 8} {where_ : Word} {checked : BitVec 16} {tables : List (Nat × Word)} (hk : Keeps ref s) {t' : State} (he : execFabric code where_ checked tables s = .next t') : Keeps ref t' := by
  injection he with he
  rw [← he]
  repeat' with_reducible first | intro _ | assumption | apply keeps_ite | apply State.instarFail_keeps | apply forL_keeps | apply State.regWrite_keeps | apply State.instarDone_keeps | apply State.alive_keeps | split | dsimp only

theorem execLinks_keeps {board : List (Fin 12 × Word)} (hk : Keeps ref s) {t' : State} (he : execLinks board s = .next t') : Keeps ref t' := by
  injection he with he
  rw [← he]
  repeat' with_reducible first | intro _ | assumption | apply keeps_ite | apply State.boardCheck_keeps | apply State.linksEnd_keeps | apply State.alive_keeps | split | dsimp only

theorem execDdrInstarTimeout_keeps  (hk : Keeps ref s) {t' : State} (he : execDdrInstarTimeout s = .next t') : Keeps ref t' := by
  injection he with he
  rw [← he]
  repeat' with_reducible first | intro _ | assumption | apply keeps_ite | apply forL_keeps | apply State.fon_keeps | apply State.alive_keeps | split | dsimp only

theorem execSelfTest_keeps {found : List (BitVec 64)} {unspared : Bool} {storeOk : Bool} (hk : Keeps ref s) {t' : State} (he : execSelfTest found unspared storeOk s = .next t') : Keeps ref t' := by
  injection he with he
  rw [← he]
  repeat' with_reducible first | intro _ | assumption | apply keeps_ite | apply State.appendDefect_keeps | apply State.fset_keeps | apply State.instarFail_keeps | apply forL_keeps | apply State.rowShow_keeps | apply forN_keeps | apply State.onAon_keeps | apply State.capShow_keeps | apply State.instarDone_keeps | apply State.alive_keeps | apply State.windowsZero_keeps | split | dsimp only

theorem execLinksTimeout_keeps {board : List (Fin 12 × Word)} (hk : Keeps ref s) {t' : State} (he : execLinksTimeout board s = .next t') : Keeps ref t' := by
  injection he with he
  rw [← he]
  repeat' with_reducible first | intro _ | assumption | apply keeps_ite | apply State.boardCheck_keeps | apply State.linksEnd_keeps | apply State.alive_keeps | split | dsimp only

theorem execServiceLeave_keeps {m : Master} (hk : Keeps ref s) {t' : State} (he : execServiceLeave m s = .next t') : Keeps ref t' := by
  injection he with he
  rw [← he]
  repeat' with_reducible first | intro _ | assumption | apply keeps_ite | apply State.guarded_keeps | apply State.serviceWrite_keeps | apply State.alive_keeps | split | dsimp only

theorem execPcieLinkChange_keeps {up : Bool} (hk : Keeps ref s) {t' : State} (he : execPcieLinkChange up s = .next t') : Keeps ref t' := by
  injection he with he
  rw [← he]
  repeat' with_reducible first | intro _ | assumption | apply keeps_ite | apply State.iff_keeps | apply State.onAon_keeps | apply State.alive_keeps | split | dsimp only

end Sys2Proof.Machine
end

