-- ==== Sys2Proof/Laws/KeepsLoads.lean ====
section
/-! SUPPORT. The operations of Machine/Loads.lean keep what Laws/Keeps.lean says. -/

namespace Sys2Proof.Machine

variable {ref s : State}

theorem State.answerTo_keeps {m : Master} {write : Bool} {status : Nat} {a : Nat} {e : Emit} (hk : Keeps ref s) : Keeps ref (State.answerTo s m write status a e) := by
  unfold State.answerTo
  repeat' with_reducible first | intro _ | assumption | apply keeps_ite | apply State.answer_keeps | apply State.emit_keeps | split | dsimp only

theorem State.storeLeft_keeps {m : Master} (hk : Keeps ref s) : Keeps ref (State.storeLeft s m) := by
  unfold State.storeLeft
  repeat' with_reducible first | intro _ | assumption | apply keeps_ite | apply State.onOwner_keeps | split | dsimp only

theorem State.ctrlGo_keeps {who : Nat} (hk : Keeps ref s) : Keeps ref (State.ctrlGo s who) := by
  unfold State.ctrlGo
  repeat' with_reducible first | intro _ | assumption | apply keeps_ite | apply State.onCtrls_keeps | apply State.onCtrlWait_keeps | apply State.sendLink_keeps | split | dsimp only

theorem State.ctrlSend_keeps {who : Nat} {d : Nat} {write : Bool} {words : List Nat} (hk : Keeps ref s) : Keeps ref (State.ctrlSend s who d write words) := by
  unfold State.ctrlSend
  repeat' with_reducible first | intro _ | assumption | apply keeps_ite | apply State.ctrlGo_keeps | apply State.onCtrlWait_keeps | split | dsimp only

theorem State.ctrlAnswer_keeps {k : Nat} {packet : Nat} {tag : Nat} {words : List Nat} (hk : Keeps ref s) : Keeps ref (State.ctrlAnswer s k packet tag words) := by
  unfold State.ctrlAnswer
  repeat' with_reducible first | intro _ | assumption | apply keeps_ite | apply State.sendLink_keeps | split | dsimp only

theorem State.ctrlWrite_keeps {k : Nat} {m : Master} {tag : Nat} {l : List Nat} (hk : Keeps ref s) : Keeps ref (State.ctrlWrite s k m tag l) := by
  unfold State.ctrlWrite
  repeat' with_reducible first | intro _ | assumption | apply keeps_ite | apply State.ctrlSend_keeps | apply State.regWrite_keeps | apply State.ctrlAnswer_keeps | split | dsimp only

theorem State.ctrlDone_keeps {write : Bool} {tag : Nat} {words : List Nat} (hk : Keeps ref s) : Keeps ref (State.ctrlDone s write tag words) := by
  unfold State.ctrlDone
  repeat' with_reducible first | intro _ | assumption | apply keeps_ite | apply State.ctrlGo_keeps | apply State.onCtrls_keeps | apply State.ctrlAnswer_keeps | apply State.emit_keeps | split | dsimp only

theorem State.regLoads_keeps {m : Master} {y2 : List Nat} (hk : Keeps ref s) : Keeps ref (State.regLoads s m y2).1 := by
  induction y2 generalizing s m with
  | nil =>
    unfold State.regLoads
    repeat' with_reducible first | intro _ | assumption | apply keeps_ite | apply keeps_ite1 | apply State.regLoad_keeps | refine Keeps.pair ?_ (by assumption) | split | dsimp only
  | cons _ _ ih =>
    unfold State.regLoads
    repeat' with_reducible first | intro _ | assumption | apply ih | apply keeps_ite | apply keeps_ite1 | apply State.regLoad_keeps | refine Keeps.pair ?_ (by assumption) | split | dsimp only

theorem State.ctrlRead_keeps {k : Nat} {m : Master} {tag : Nat} {l : List Nat} (hk : Keeps ref s) : Keeps ref (s.ctrlRead k m tag l) := by
  unfold State.ctrlRead
  dsimp only
  generalize csrOff (ofWords l) = o
  have h : Keeps ref (if s.regOff o = true then (s, 0) else (s.csrWake o).regLoad m o).1 :=
    keeps_ite1 hk.fst (State.regLoad_keeps (State.csrWake_keeps hk))
  exact keeps_ite (State.ctrlAnswer_keeps h) (keeps_ite (State.ctrlAnswer_keeps hk) (State.ctrlSend_keeps hk))


theorem State.windowLoad_keeps {o : Nat} {q : Nat} {k : Nat} {n : Nat} {ecc : Ecc} (hk : Keeps ref s) : Keeps ref (State.windowLoad s o q k n ecc) := by
  unfold State.windowLoad
  repeat' with_reducible first | intro _ | assumption | apply keeps_ite | apply State.qPop_keeps | apply State.drawn_keeps | apply State.emit_keeps | split | dsimp only

theorem State.csrLoad_keeps {m : Master} {o : Nat} {n : Nat} (hk : Keeps ref s) : Keeps ref (State.csrLoad s m o n) := by
  unfold State.csrLoad
  repeat' with_reducible first | intro _ | assumption | apply keeps_ite | apply State.csrWake_keeps | apply State.regLoads_keeps | apply State.emit_keeps | refine Keeps.pair ?_ (by assumption) | split | dsimp only

theorem State.privateLoad_keeps {m : Master} {o : Nat} {off : Nat} {n : Nat} {ecc : Ecc} (hk : Keeps ref s) : Keeps ref (State.privateLoad s m o off n ecc) := by
  unfold State.privateLoad
  repeat' with_reducible first | intro _ | assumption | apply keeps_ite | apply State.cvuAccess_keeps | apply State.answer_keeps | apply State.localRead_keeps | apply State.portOp_keeps | apply State.windowLoad_keeps | apply State.wdrain_keeps | apply State.drawnN_keeps | apply State.csrLoad_keeps | apply State.emit_keeps | refine Keeps.pair ?_ (by assumption) | split | dsimp only

theorem State.csrRemote_keeps {m : Master} {a : Nat} {n : Nat} {write : Option Nat} (hk : Keeps ref s) : Keeps ref (State.csrRemote s m a n write) := by
  unfold State.csrRemote
  repeat' with_reducible first | intro _ | assumption | apply keeps_ite | apply State.ctrlSend_keeps | apply forL_keeps | apply State.emit_keeps | split | dsimp only

theorem State.csrStore_keeps {m : Master} {o : Nat} {n : Nat} {v : Nat} (hk : Keeps ref s) : Keeps ref (State.csrStore s m o n v) := by
  unfold State.csrStore
  repeat' with_reducible first | intro _ | assumption | apply keeps_ite | apply State.regWrite_keeps | apply State.emit_keeps | apply foldlPair_keeps | apply foldl_keeps | refine Keeps.pair ?_ (by assumption) | split | dsimp only

theorem execTbCntRead_keeps {m : Master} (hk : Keeps ref s) {t' : State} (he : execTbCntRead m s = .next t') : Keeps ref t' := by
  injection he with he
  rw [← he]
  repeat' with_reducible first | intro _ | assumption | apply keeps_ite | apply State.barFor_keeps | apply State.csrLoad_keeps | apply State.alive_keeps | split | dsimp only

theorem State.ctrlTake_keeps {k : Nat} {m : Master} {p : Option Nat} {tag : Nat} {r : List Nat} (hk : Keeps ref s) : Keeps ref (State.ctrlTake s k m p tag r) := by
  unfold State.ctrlTake
  repeat' with_reducible first | intro _ | assumption | apply keeps_ite | apply State.ctrlDone_keeps | apply State.ctrlRead_keeps | apply State.ctrlWrite_keeps | split | dsimp only

theorem execCtrl_keeps {k : Fin 12} {words : List (BitVec 16)} {m : Master} (hk : Keeps ref s) {t' : State} (he : execCtrl k words m s = .next t') : Keeps ref t' := by
  injection he with he
  rw [← he]
  repeat' with_reducible first | intro _ | assumption | apply keeps_ite | apply State.ctrlTake_keeps | apply State.alive_keeps | split | dsimp only

theorem State.privateStore_keeps {m : Master} {o : Nat} {off : Nat} {n : Nat} {l : List (Nat × Byte)} {ecc : Ecc} (hk : Keeps ref s) : Keeps ref (State.privateStore s m o off n l ecc) := by
  unfold State.privateStore
  repeat' with_reducible first | intro _ | assumption | apply keeps_ite | apply State.cvuAccess_keeps | apply State.answer_keeps | apply State.iff_keeps | apply forL_keeps | apply State.onOwner_keeps | apply State.portOp_keeps | apply State.csrStore_keeps | apply State.portStores_keeps | apply State.localWrite_keeps | apply State.qSend_keeps | apply State.clSend_keeps | apply State.emit_keeps | refine Keeps.pair ?_ (by assumption) | split | dsimp only

theorem State.awake_keeps {m : Master} (hk : Keeps ref s) : Keeps ref (State.awake s m) := by
  unfold State.awake
  repeat' with_reducible first | intro _ | assumption | apply keeps_ite | apply State.iff_keeps | apply State.foff_keeps | split | dsimp only

theorem execExchangeWrite_keeps {m : Master} {a : BitVec 48} {data : List (Option Byte)} {ecc : Ecc} (hk : Keeps ref s) {t' : State} (he : execExchangeWrite m a data ecc s = .next t') : Keeps ref t' := by
  injection he with he
  rw [← he]
  repeat' with_reducible first | intro _ | assumption | apply keeps_ite | apply State.storeLeft_keeps | apply State.iff_keeps | apply State.privateStore_keeps | apply State.awake_keeps | apply State.csrStore_keeps | apply State.ddrHold_keeps | apply State.barFor_keeps | apply State.csrRemote_keeps | apply State.answerTo_keeps | apply State.memWrite_keeps | apply State.alive_keeps | refine Keeps.pair ?_ (by assumption) | split | dsimp only

theorem State.bar2Read_keeps {o : Nat} {n : Nat} (hk : Keeps ref s) : Keeps ref (State.bar2Read s o n) := by
  unfold State.bar2Read
  repeat' with_reducible first | intro _ | assumption | apply keeps_ite | apply State.pop128_keeps | apply State.pop64_keeps | apply State.emit_keeps | split | dsimp only

theorem execExchangeRead_keeps {m : Master} {a : BitVec 48} {n : Fin 64} {ecc : Ecc} {bar2 : Bool} (hk : Keeps ref s) {t' : State} (he : execExchangeRead m a n ecc bar2 s = .next t') : Keeps ref t' := by
  injection he with he
  rw [← he]
  repeat' with_reducible first | intro _ | assumption | apply keeps_ite | apply State.memRead_keeps | apply State.iff_keeps | apply State.awake_keeps | apply State.ddrHold_keeps | apply State.bar2Read_keeps | apply State.barFor_keeps | apply State.csrRemote_keeps | apply State.csrLoad_keeps | apply State.privateLoad_keeps | apply State.answerTo_keeps | apply State.alive_keeps | refine Keeps.pair ?_ (by assumption) | split | dsimp only

end Sys2Proof.Machine
end

