-- ==== Sys2Proof/Laws/KeepsMesh.lean ====
section
/-! SUPPORT. The operations of Machine/Mesh.lean keep what Laws/Keeps.lean says. -/

namespace Sys2Proof.Machine

variable {ref s : State}

theorem State.syncReply_keeps {back : Requester} {dev : Nat} {obj : Nat} {op : Nat} {arg : Nat} {wqn : Nat} {code : Nat} {why : Nat} {value : Nat} (hk : Keeps ref s) : Keeps ref (State.syncReply s back dev obj op arg wqn code why value) := by
  unfold State.syncReply
  repeat' with_reducible first | intro _ | assumption | apply keeps_ite | apply State.resendAdd_keeps | apply State.dmaSignalReply_keeps | apply State.fon_keeps | apply State.dmaWatchRefused_keeps | apply State.count_keeps | apply State.emit_keeps | split | dsimp only

theorem State.resendLater_keeps {c : Nat} {e : Nat → Emit} (hk : Keeps ref s) : Keeps ref (State.resendLater s c e) := by
  unfold State.resendLater
  repeat' with_reducible first | intro _ | assumption | apply keeps_ite | apply State.againAdd_keeps | apply State.onIface_keeps | split | dsimp only

theorem State.replyArrive_keeps {back : Requester} {n : Nat} {f : State → State} (hk : Keeps ref s) (hkf : ∀ t, Keeps ref t → Keeps ref (f t)) : Keeps ref (State.replyArrive s back n f) := by
  unfold State.replyArrive
  repeat' with_reducible first | intro _ | assumption | apply keeps_ite | apply State.pump_keeps | apply State.replied_keeps | apply State.count_keeps | apply hkf | split | dsimp only

theorem execStatusReply_keeps {back : Requester} {code : Fin 8} {why : BitVec 8} {value : Word} {req : Request} (hk : Keeps ref s) {t' : State} (he : execStatusReply back code why value req s = .next t') : Keeps ref t' := by
  injection he with he
  rw [← he]
  repeat' with_reducible first | intro _ | assumption | apply keeps_ite | apply State.answer_keeps | apply State.resendLater_keeps | apply State.syncReply_keeps | apply State.replyArrive_keeps | apply State.dmaStatus_keeps | apply State.alive_keeps | apply State.storeAcked_keeps | split | dsimp only

theorem State.forward_keeps {dst : Nat} {chan : Nat} {src : Nat} {type : Nat} {l : List (List Byte)} (hk : Keeps ref s) : Keeps ref (State.forward s dst chan src type l) := by
  unfold State.forward
  repeat' with_reducible first | intro _ | assumption | apply keeps_ite | apply State.count_keeps | apply State.send_keeps | split | dsimp only

theorem State.sendData_keeps {src : Nat} {a : Nat} {i : Nat} {poison : Bool} {l : List Byte} (hk : Keeps ref s) : Keeps ref (State.sendData s src a i poison l) := by
  unfold State.sendData
  repeat' with_reducible first | intro _ | assumption | apply keeps_ite | apply State.send_keeps | split | dsimp only

theorem State.atomServe_keeps {w : Who} {back : ReplyTo} {a : Nat} {n : Nat} {f : Nat → Option Nat} {r : Nat → Nat} {ecc : Ecc} (hk : Keeps ref s) : Keeps ref (State.atomServe s w back a n f r ecc) := by
  unfold State.atomServe
  repeat' with_reducible first | intro _ | assumption | apply keeps_ite | apply State.answer_keeps | apply State.localRead_keeps | apply State.sendData_keeps | apply State.localWrite_keeps | apply State.send_keeps | refine Keeps.pair ?_ (by assumption) | split | dsimp only

theorem State.storeCond_keeps {i : Nat} {own : Bool} {a : Nat} {n : Nat} {x : Nat} {ecc : Ecc} (hk : Keeps ref s) : Keeps ref (State.storeCond s i own a n x ecc) := by
  unfold State.storeCond
  repeat' with_reducible first | intro _ | assumption | apply keeps_ite | apply State.setSeq_keeps | apply State.atomServe_keeps | apply State.emit_keeps | split | dsimp only

theorem State.loadReserve_keeps {i : Nat} {a : Nat} {n : Nat} {ecc : Ecc} (hk : Keeps ref s) : Keeps ref (State.loadReserve s i a n ecc) := by
  unfold State.loadReserve
  repeat' with_reducible first | intro _ | assumption | apply keeps_ite | apply State.answer_keeps | apply State.setSeq_keeps | apply State.iff_keeps | apply State.localRead_keeps | refine Keeps.pair ?_ (by assumption) | split | dsimp only

theorem State.atomOwn_keeps {m : Master} {own : Bool} {a : Nat} {n : Nat} {op : Nat} {x : Nat} {y : Nat} {ecc : Ecc} (hk : Keeps ref s) : Keeps ref (State.atomOwn s m own a n op x y ecc) := by
  unfold State.atomOwn
  repeat' with_reducible first | intro _ | assumption | apply keeps_ite | apply State.atomServe_keeps | apply State.storeCond_keeps | apply State.loadReserve_keeps | split | dsimp only

theorem State.rdReplies_keeps {w : Who} {src : Nat} {a : Nat} {ecc : Ecc} {y5 : Nat} {y6 : Nat} (hk : Keeps ref s) : Keeps ref (State.rdReplies s w src a ecc y5 y6) := by
  induction y6 generalizing s w src a ecc y5 with
  | zero =>
    unfold State.rdReplies
    repeat' with_reducible first | intro _ | assumption | apply keeps_ite | apply State.localRead_keeps | apply State.sendData_keeps | apply State.send_keeps | refine Keeps.pair ?_ (by assumption) | split | dsimp only
  | succ _ ih =>
    unfold State.rdReplies
    repeat' with_reducible first | intro _ | assumption | apply ih | apply keeps_ite | apply State.localRead_keeps | apply State.sendData_keeps | apply State.send_keeps | refine Keeps.pair ?_ (by assumption) | split | dsimp only

theorem State.rdServe_keeps {w : Who} {back : ReplyTo} {a : Nat} {n : Nat} {ecc : Ecc} (hk : Keeps ref s) : Keeps ref (State.rdServe s w back a n ecc) := by
  unfold State.rdServe
  repeat' with_reducible first | intro _ | assumption | apply keeps_ite | apply State.answer_keeps | apply State.localRead_keeps | apply State.rdReplies_keeps | apply State.ddrHold_keeps | refine Keeps.pair ?_ (by assumption) | split | dsimp only

theorem State.statusTo_keeps {back : ReplyTo} {a : Nat} {code : Nat} (hk : Keeps ref s) : Keeps ref (State.statusTo s back a code) := by
  unfold State.statusTo
  repeat' with_reducible first | intro _ | assumption | apply keeps_ite | apply State.answer_keeps | apply State.send_keeps | split | dsimp only

theorem State.wrServe_keeps {w : Who} {back : ReplyTo} {a : Nat} {l : List (Nat × Byte)} {ecc : Ecc} (hk : Keeps ref s) : Keeps ref (State.wrServe s w back a l ecc) := by
  unfold State.wrServe
  repeat' with_reducible first | intro _ | assumption | apply keeps_ite | apply State.statusTo_keeps | apply State.ddrHold_keeps | apply State.localWrite_keeps | refine Keeps.pair ?_ (by assumption) | split | dsimp only

theorem State.refuse_keeps {via : Via} {a : Nat} {kind : Nat} (hk : Keeps ref s) : Keeps ref (State.refuse s via a kind) := by
  unfold State.refuse
  repeat' with_reducible first | intro _ | assumption | apply keeps_ite | apply State.iff_keeps | apply State.statusTo_keeps | apply State.emit_keeps | split | dsimp only

theorem State.reqArrive_keeps {via : Via} {dst : Nat} {a : Nat} {kind : Nat} {ok : Bool} {f : State → State} (hk : Keeps ref s) (hkf : ∀ t, Keeps ref t → Keeps ref (f t)) : Keeps ref (State.reqArrive s via dst a kind ok f) := by
  unfold State.reqArrive
  repeat' with_reducible first | intro _ | assumption | apply keeps_ite | apply State.statusTo_keeps | apply State.refuse_keeps | apply State.violation_keeps | apply State.count_keeps | apply State.emit_keeps | apply hkf | split | dsimp only

theorem State.wrArrive_keeps {via : Via} {dst : Nat} {a : Nat} {type : Nat} {data : List (Option Byte)} {ecc : Ecc} (hk : Keeps ref s) : Keeps ref (State.wrArrive s via dst a type data ecc) := by
  unfold State.wrArrive
  repeat' with_reducible first | intro _ | assumption | apply keeps_ite | apply State.wrServe_keeps | apply State.reqArrive_keeps | apply State.forward_keeps | split | dsimp only

theorem execWrReq_keeps {via : Via} {dst : BitVec 22} {a : BitVec 48} {data : List (Option Byte)} {ecc : Ecc} (hk : Keeps ref s) {t' : State} (he : execWrReq via dst a data ecc s = .next t') : Keeps ref t' := by
  injection he with he
  rw [← he]
  repeat' with_reducible first | intro _ | assumption | apply keeps_ite | apply State.alive_keeps | apply State.wrArrive_keeps | split | dsimp only

theorem execEscForward_keeps {k : Fin 12} {vn : Fin 8} {type : Fin 32} {dst : BitVec 22} {src : BitVec 30} {tag : Option Bool} {flags : BitVec 4} {data : List Byte} (hk : Keeps ref s) {t' : State} (he : execEscForward k vn type dst src tag flags data s = .next t') : Keeps ref t' := by
  injection he with he
  rw [← he]
  repeat' with_reducible first | intro _ | assumption | apply keeps_ite | apply State.toLink_keeps | apply State.alive_keeps | apply State.count_keeps | apply State.send_keeps | apply State.emit_keeps | split | dsimp only

theorem execFwd_keeps {c : Fin 8} {src : BitVec 30} {req : Request} {ecc : Ecc} (hk : Keeps ref s) {t' : State} (he : execFwd c src req ecc s = .next t') : Keeps ref t' := by
  injection he with he
  rw [← he]
  repeat' with_reducible first | intro _ | assumption | apply keeps_ite | apply State.wrServe_keeps | apply State.rdServe_keeps | apply State.alive_keeps | apply State.count_keeps | split | dsimp only

theorem execBadTypeCell_keeps {link : Option (Fin 12)} {vn : Fin 8} {type : Fin 32} {src : BitVec 30} {op : BitVec 8} (hk : Keeps ref s) {t' : State} (he : execBadTypeCell link vn type src op s = .next t') : Keeps ref t' := by
  injection he with he
  rw [← he]
  repeat' with_reducible first | intro _ | assumption | apply keeps_ite | apply State.iff_keeps | apply State.alive_keeps | apply State.count_keeps | apply State.send_keeps | split | dsimp only

theorem execRdReq_keeps {via : Via} {dst : BitVec 22} {a : BitVec 48} {nm1 : BitVec 8} {ecc : Ecc} (hk : Keeps ref s) {t' : State} (he : execRdReq via dst a nm1 ecc s = .next t') : Keeps ref t' := by
  injection he with he
  rw [← he]
  repeat' with_reducible first | intro _ | assumption | apply keeps_ite | apply State.reqArrive_keeps | apply State.forward_keeps | apply State.rdServe_keeps | apply State.alive_keeps | split | dsimp only

theorem execWrFull_keeps {via : Via} {dst : BitVec 22} {a : BitVec 48} {data : List Byte} {ecc : Ecc} (hk : Keeps ref s) {t' : State} (he : execWrFull via dst a data ecc s = .next t') : Keeps ref t' := by
  injection he with he
  rw [← he]
  repeat' with_reducible first | intro _ | assumption | apply keeps_ite | apply State.statusTo_keeps | apply State.alive_keeps | apply State.count_keeps | apply State.wrArrive_keeps | split | dsimp only

theorem execRdData_keeps {back : Requester} {a : BitVec 48} {index : BitVec 8} {data : List Byte} {poison : Bool} (hk : Keeps ref s) {t' : State} (he : execRdData back a index data poison s = .next t') : Keeps ref t' := by
  injection he with he
  rw [← he]
  repeat' with_reducible first | intro _ | assumption | apply keeps_ite | apply State.answer_keeps | apply State.dmaRdData_keeps | apply State.replyArrive_keeps | apply State.alive_keeps | split | dsimp only

theorem execAtomReq_keeps {via : Via} {dst : BitVec 22} {a : BitVec 48} {op : BitVec 8} {x : BitVec 64} {y : BitVec 64} {ecc : Ecc} (hk : Keeps ref s) {t' : State} (he : execAtomReq via dst a op x y ecc s = .next t') : Keeps ref t' := by
  injection he with he
  rw [← he]
  repeat' with_reducible first | intro _ | assumption | apply keeps_ite | apply State.statusTo_keeps | apply State.reqArrive_keeps | apply State.atomServe_keeps | apply State.atomOwn_keeps | apply State.alive_keeps | split | dsimp only

end Sys2Proof.Machine
end

