-- ==== Sys2Proof/WellFormed.lean ====
section
/-! DEFINITION. Which commands are well-formed: the operands that a list carries have the sizes the packets, cells and
accesses of the manual give them. -/

namespace Sys2Proof

/-- The bytes a request writes: at least one, at most n. -/
def sized (n : Nat) (l : List (Option Byte)) : Bool := !l.isEmpty && decide (l.length ≤ n)

/-- A request held by a requester's interface: an Exchange access has 1 to 64 bytes (R219). -/
def Request.wf : Request → Bool
  | .sync .. => true
  | .read _ n => decide (n ≠ 0) && decide (n.toNat ≤ 8192)
  | .write _ data => sized 8192 data

/-- Stores to the transmit buffer: 40 bytes a cell (R340). -/
def storesWf (l : List (Fin 8 × List Byte)) : Bool := l.all fun x => decide (x.2.length ≤ 40)

/-- A list that names nothing twice. -/
def noTwice {α : Type} [DecidableEq α] (l : List α) : Bool := decide l.Nodup

/-- Whether a command's operands have the sizes the manual gives them. -/
def Instr.wf : Instr → Bool
  | .serdesSupplyLow streams lanes => noTwice streams && noTwice lanes
  | .fabric _ _ _ tables => tables.all fun x => decide (x.1 % 4 = 0) && decide (x.1 < 2 ^ 28)
  | .links board => noTwice (board.map Prod.fst)
  | .linksTimeout board => noTwice (board.map Prod.fst)
  | .load _ regs bytes _ => (regs.all fun x => decide (x.1 % 4 = 0) && decide (x.1 < 2 ^ 28)) && bytes.all fun x => decide (x.1 < 2 ^ 48)
  | .cocoonEnd _ regs bytes _ => (regs.all fun x => decide (x.1 % 4 = 0) && decide (x.1 < 2 ^ 28)) && bytes.all fun x => decide (x.1 < 2 ^ 48)
  | .bcOpen _ _ _ _ _ offset nchunk _ => decide (offset.toNat % 512 = 0) && decide (1 ≤ nchunk.toNat) && decide (nchunk.toNat ≤ 4096)
  | .bcChunk _ _ data => decide (data.length = 512)
  | .bcRepair _ _ _ data => decide (data.length = 512)
  | .bcReport words => decide (words.length = 20)
  | .setXspi _ answer => decide (answer.length ≤ 4096)
  | .voteScan upsets => upsets.all fun u => decide (u.1.toNat % 4 = 0)
  | .sysrefEdge offGrid => noTwice offGrid
  | .elasticRelease _ arrivals _ => decide (arrivals.length ≤ 8)
  | .multiblockReceive _ _ _ shErr => noTwice (shErr.map Prod.fst)
  | .encoderCycle _ _ _ samples corrected => !samples.isEmpty && decide (samples.length ≤ 16) && decide (corrected.length = samples.length)
  | .cvuEncode _ stores _ => stores.all fun x => decide (x.1.toNat % 4 = 0)
  | .cvuDecode _ stores _ => stores.all fun x => decide (x.1.toNat % 4 = 0)
  | .exchangeWrite _ a data _ => sized 64 data && decide (a.toNat % 64 + data.length ≤ 64)
  | .wrReq _ _ _ data _ => sized 256 data && decide (data.length % 32 = 0)
  | .wrFull _ _ _ data _ => !data.isEmpty && decide (data.length ≤ 8192) && decide (data.length % 32 = 0)
  | .rdData _ _ _ data _ => decide (data.length = 32)
  | .statusReply _ _ _ _ req => req.wf
  | .fwd _ _ req _ => req.wf
  | .codewordReceive _ _ _ _ _ _ cells _ => decide (cells.length ≤ 13)
  | .qSend _ stores _ _ _ => storesWf stores
  | .qSendMulticast _ stores _ => storesWf stores
  | .qmsg _ _ _ _ _ _ _ data _ => decide (data.length = 40)
  | .qCladd _ stores _ _ => storesWf stores
  | .clAdd _ _ data => decide (data.length = 32)
  | .clSum _ _ _ data => decide (data.length = 32)
  | .hostCompletion _ _ data => decide (data.length ≤ 4096)
  | .pwrGoodRise .. => true
  | .pwrGoodFall .. => true
  | .supplyOutOfRange .. => true
  | .supplyCollapse .. => true
  | .vaonLow .. => true
  | .vddqLow .. => true
  | .suppliesAndAon .. => true
  | .trust .. => true
  | .twinImageDelivered .. => true
  | .rcvGo .. => true
  | .selfTest .. => true
  | .memories .. => true
  | .ddrInstarTimeout .. => true
  | .stageAlternate .. => true
  | .serviceEnter .. => true
  | .serviceLeave .. => true
  | .perstDeassert .. => true
  | .cocoon .. => true
  | .substitutionRequest .. => true
  | .bcPoll .. => true
  | .bcHashEnd .. => true
  | .bcClose .. => true
  | .brxClear .. => true
  | .chrOpen .. => true
  | .chrEntryWrite .. => true
  | .chrNentWrite .. => true
  | .chrValidate .. => true
  | .chrValidationEnd .. => true
  | .chrCommit .. => true
  | .chrAbort .. => true
  | .commitInstant .. => true
  | .setLoad .. => true
  | .setStore .. => true
  | .storeEnd .. => true
  | .storeThrottleRelease .. => true
  | .registerWrite .. => true
  | .slowTick .. => true
  | .faultEvent .. => true
  | .faultWindowClose .. => true
  | .faultClear .. => true
  | .lastingClear .. => true
  | .faultInject .. => true
  | .watchdogKick .. => true
  | .watchdogExpiry .. => true
  | .wingbeatToggle .. => true
  | .twinEnable .. => true
  | .twinWbEdge .. => true
  | .wingbeatLoss .. => true
  | .twinStartTimeout .. => true
  | .helloSend .. => true
  | .hello .. => true
  | .partnerTimeout .. => true
  | .take .. => true
  | .swapRequest .. => true
  | .swap .. => true
  | .swapAck .. => true
  | .swapStandby .. => true
  | .swapActive .. => true
  | .swapCancel .. => true
  | .switch .. => true
  | .digestSend .. => true
  | .digest .. => true
  | .jrxPllWrite .. => true
  | .pllLock .. => true
  | .streamEnable .. => true
  | .streamDisable .. => true
  | .tapEnable .. => true
  | .blockLock .. => true
  | .embLock .. => true
  | .laneLockLoss .. => true
  | .alignTimeout .. => true
  | .eventLogClose .. => true
  | .tapRecordAck .. => true
  | .encoderBoundary .. => true
  | .coreEnable .. => true
  | .initPassEnd .. => true
  | .coreDisable .. => true
  | .evCellAccept .. => true
  | .arrival .. => true
  | .stepToken .. => true
  | .plasticityClearEnd .. => true
  | .commitRow .. => true
  | .stepGeneratorEnable .. => true
  | .stepGeneratorStop .. => true
  | .stepNominalInstant .. => true
  | .emissionStepComplete .. => true
  | .stretchLimit .. => true
  | .contextBoundary .. => true
  | .outputRecord .. => true
  | .pulseEnd .. => true
  | .levelReturn .. => true
  | .gridEdge .. => true
  | .tbCntRead .. => true
  | .syncArm .. => true
  | .syncSlew .. => true
  | .timerEnable .. => true
  | .timerReset .. => true
  | .timerIncrement .. => true
  | .timerMatch .. => true
  | .timerCompareCommit .. => true
  | .timerPeriodCommit .. => true
  | .trigInEdge .. => true
  | .descriptorEnqueue .. => true
  | .descriptorDispatch .. => true
  | .nop .. => true
  | .fetch .. => true
  | .fetchItem .. => true
  | .mma .. => true
  | .drain .. => true
  | .tset .. => true
  | .notify .. => true
  | .descriptorEnd .. => true
  | .boundWrite .. => true
  | .tileReset .. => true
  | .haltClear .. => true
  | .seqRun .. => true
  | .seqReset .. => true
  | .machineTimer .. => true
  | .cvuConversionEnd .. => true
  | .exchangeRead .. => true
  | .slicePatrolScrub .. => true
  | .seqPatrolScrub .. => true
  | .doorbell .. => true
  | .kvAppend .. => true
  | .kvAccept .. => true
  | .kvRollback .. => true
  | .kvReset .. => true
  | .kvOtherOp .. => true
  | .kvDisable .. => true
  | .ctxPush .. => true
  | .rqPost .. => true
  | .pop64 .. => true
  | .pop128 .. => true
  | .replayRead .. => true
  | .rdReq .. => true
  | .atomReq .. => true
  | .badTypeCell .. => true
  | .escForward _ _ _ _ _ _ _ data => decide (data.length ≤ 40)
  | .ctrl .. => true
  | .linkEnable .. => true
  | .linkUp .. => true
  | .nak .. => true
  | .linkLost .. => true
  | .linkRetrainRequest .. => true
  | .linkRetrainAuto .. => true
  | .tsyncSend .. => true
  | .tsyncRequest .. => true
  | .tsyncReply .. => true
  | .qmsgReply .. => true
  | .qmsgResend .. => true
  | .qmsgReplyTimeout .. => true
  | .mcTimeout .. => true
  | .queuePop .. => true
  | .queueOpen .. => true
  | .queueClose .. => true
  | .combArm .. => true
  | .combDisarm .. => true
  | .syncSignal .. => true
  | .syncSet .. => true
  | .syncWatchGe .. => true
  | .syncWatchEq .. => true
  | .syncRead .. => true
  | .syncResend .. => true
  | .syncNotice .. => true
  | .syncAdopt .. => true
  | .syncFreeze .. => true
  | .syncUnfreeze .. => true
  | .qWdrain .. => true
  | .dmaStart .. => true
  | .dmaPause .. => true
  | .dmaPaused .. => true
  | .dmaResume .. => true
  | .dmaDisable .. => true
  | .dmaProgramFetch .. => true
  | .move .. => true
  | .loop .. => true
  | .endloop .. => true
  | .wait .. => true
  | .dmaSignal .. => true
  | .dmaEnd .. => true
  | .dmaBadOp .. => true
  | .dmaNotice .. => true
  | .dmaWatchResend .. => true
  | .ddrEnable .. => true
  | .ddrRetrainRequest .. => true
  | .ddrRetrainPeriod .. => true
  | .ddrRetrainTemp .. => true
  | .ddrRetrainGrant .. => true
  | .ddrRetrainEnd .. => true
  | .ddrRetrainTimeout .. => true
  | .ddrAlert .. => true
  | .ddrBusyResend .. => true
  | .ddrPatrolRead .. => true
  | .powerWindow .. => true
  | .thermalWarning .. => true
  | .thermalStop .. => true
  | .thermalRestart .. => true
  | .roostEntry .. => true
  | .roostWake .. => true
  | .islandWakeWrite .. => true
  | .wakeEnd .. => true
  | .brownout .. => true
  | .rampEnd .. => true
  | .islandOff .. => true
  | .measureExtend .. => true
  | .attestSign .. => true
  | .signEnd .. => true
  | .debugUnlock .. => true
  | .supplyReturn .. => true
  | .ddrTrainingEnd .. => true
  | .pcieLinkChange .. => true
  | .pcieConfigRequest .. => true
  | .dmaReplyTimeout .. => true

end Sys2Proof
end

