-- ==== Sys2Proof/Tests/Slice0.lean ====
section
/-! SUPPORT. Tests: ill-formed terms that Instr.wf refuses, the worked examples of the manual, and for every statement with premises
a concrete state that meets them (test_<command>_can_run: the premises of that command's clause). -/

namespace Sys2Proof.Tests
open Sys2Proof.Machine

set_option Elab.async false
set_option linter.unusedVariables false

/-- The device after a power-on reset was released, with memory of zeros. -/
def running : State := { State.reset with aon := { Aon.init with held := [] }, mem := Memory.zeroed }

/-! Ill-formed terms: each check of Instr.wf refuses one. -/

theorem test_wf_serdesSupplyLow : (Instr.serdesSupplyLow [3, 3] []).wf = false ∧ (Instr.serdesSupplyLow [] [1, 2, 1]).wf = false := by decide +kernel

theorem test_wf_fabric : (Instr.fabric 0 0 0 [(2, 0)]).wf = false ∧ (Instr.fabric 0 0 0 [(2 ^ 28, 0)]).wf = false := by decide +kernel

theorem test_wf_links : (Instr.links [(4, 0), (4, 1)]).wf = false ∧ (Instr.linksTimeout [(4, 0), (4, 1)]).wf = false := by decide +kernel

theorem test_wf_load : (Instr.load true [(6, 0)] [] 0).wf = false ∧ (Instr.load true [(2 ^ 28, 0)] [] 0).wf = false ∧
    (Instr.load true [] [(2 ^ 48, 0)] 0).wf = false := by decide +kernel

theorem test_wf_cocoonEnd : (Instr.cocoonEnd true [(6, 0)] [] 0).wf = false ∧ (Instr.cocoonEnd true [(2 ^ 28, 0)] [] 0).wf = false ∧
    (Instr.cocoonEnd true [] [(2 ^ 48, 0)] 0).wf = false := by decide +kernel

theorem test_wf_bcOpen : (Instr.bcOpen 1 false 0 0 0 256 1 0).wf = false ∧ (Instr.bcOpen 1 false 0 0 0 0 0 0).wf = false ∧
    (Instr.bcOpen 1 false 0 0 0 0 4097 0).wf = false := by decide +kernel

theorem test_wf_bcChunk : (Instr.bcChunk 1 0 [0]).wf = false ∧ (Instr.bcRepair 0 1 0 [0]).wf = false := by decide +kernel

theorem test_wf_bcReport : (Instr.bcReport [0, 0]).wf = false := by decide +kernel

theorem test_wf_setXspi : (Instr.setXspi .aon (List.replicate 4097 0)).wf = false := by decide +kernel

theorem test_wf_voteScan : (Instr.voteScan [(2, 0, 0)]).wf = false := by decide +kernel

theorem test_wf_sysrefEdge : (Instr.sysrefEdge [5, 5]).wf = false := by decide +kernel

theorem test_wf_elasticRelease : (Instr.elasticRelease 0 (List.replicate 9 0) true).wf = false := by decide +kernel

theorem test_wf_multiblockReceive : (Instr.multiblockReceive 0 0 0 [(7, 1), (7, 2)]).wf = false := by decide +kernel

theorem test_wf_encoderCycle : (Instr.encoderCycle 0 0 0 [] []).wf = false ∧
    (Instr.encoderCycle 0 0 0 (List.replicate 17 []) (List.replicate 17 [])).wf = false ∧
    (Instr.encoderCycle 0 0 0 [[1]] []).wf = false := by decide +kernel

theorem test_wf_cvu : (Instr.cvuEncode 0 [(6, 0)] 0).wf = false ∧ (Instr.cvuDecode 0 [(6, 0)] 0).wf = false := by decide +kernel

theorem test_wf_exchangeWrite : (Instr.exchangeWrite .aon 0 [] .none).wf = false ∧
    (Instr.exchangeWrite .aon 0 (List.replicate 65 none) .none).wf = false ∧ (Instr.exchangeWrite .aon 60 (List.replicate 5 none) .none).wf = false := by
  decide +kernel

theorem test_wf_wrReq : (Instr.wrReq (.own .aon) 0 0 [] .none).wf = false ∧ (Instr.wrReq (.own .aon) 0 0 (List.replicate 288 none) .none).wf = false ∧
    (Instr.wrReq (.own .aon) 0 0 (List.replicate 31 none) .none).wf = false := by decide +kernel

theorem test_wf_wrFull : (Instr.wrFull (.own .aon) 0 0 [] .none).wf = false ∧ (Instr.wrFull (.own .aon) 0 0 (List.replicate 8224 0) .none).wf = false ∧
    (Instr.wrFull (.own .aon) 0 0 (List.replicate 33 0) .none).wf = false := by decide +kernel

theorem test_wf_rdData : (Instr.rdData (.dma 0) 0 0 (List.replicate 31 0) false).wf = false := by decide +kernel

theorem test_wf_request : (Instr.statusReply (.dma 0) 0 0 0 (.read 0 0)).wf = false ∧ (Instr.fwd 0 0 (.read 0 8193) .none).wf = false ∧
    (Instr.fwd 0 0 (.write 0 []) .none).wf = false := by decide +kernel

theorem test_wf_codewordReceive :
    (Instr.codewordReceive 0 true false 0 0 0 (List.replicate 14 (0, 0, none)) []).wf = false := by decide +kernel

theorem test_wf_qSend : (Instr.qSend 0 [(0, List.replicate 41 0)] 0 0 0).wf = false ∧
    (Instr.qSendMulticast 0 [(0, List.replicate 41 0)] 0).wf = false ∧ (Instr.qCladd 0 [(0, List.replicate 41 0)] 0 0).wf = false := by decide +kernel

theorem test_wf_cells : (Instr.qmsg 0 0 0 true true 0 false (List.replicate 39 0) .none).wf = false ∧
    (Instr.clAdd 0 0 (List.replicate 33 0)).wf = false ∧ (Instr.clSum 0 0 1 []).wf = false := by decide +kernel

theorem test_wf_escForward : (Instr.escForward 0 0 0 0 0 none 0 (List.replicate 41 0)).wf = false := by decide +kernel

theorem test_wf_hostCompletion : (Instr.hostCompletion 0 true (List.replicate 4097 0)).wf = false := by decide +kernel

theorem test_wf_accepts : (Instr.qmsg 0 0 0 true true 0 false (List.replicate 40 0) .none).wf = true ∧
    (Instr.bcOpen 1 false 0 0 0 512 4096 0).wf = true ∧ (Instr.exchangeWrite .aon 60 (List.replicate 4 none) .none).wf = true ∧
    (Instr.wrReq (.own .aon) 0 0 (List.replicate 256 none) .none).wf = true := by decide +kernel

/-! The worked examples of the manual, each on the operation it shows. -/

/-- A field of the state after command c, or none where c does not answer a next state. -/
def after {α : Type} (c : Instr) (s : State) (f : State → α) : Option α :=
  match exec c s with
  | .next t => some (f t)
  | _ => none

/-- Chapter 2: the registers of stream 3 in the glitch trigger. -/
def glitchStream : State :=
  (((running.wr (Reg.ING_LINK 3) 0xF703).wr (Reg.ING_DEC 3) 0x443).wr (Reg.ING_CHAN 3) 0x331).wr (Reg.JRX_PLL 0) 0x672

/-- Chapter 2: the fields of the glitch trigger's registers. -/
theorem test_glitch_stream_fields :
    glitchStream.fget (Reg.ING_LINK_LM1 3) = 3 ∧ glitchStream.fget (Reg.ING_LINK_SM1 3) = 7 ∧ glitchStream.fget (Reg.ING_LINK_NM1 3) = 15 ∧
    glitchStream.fget (Reg.JRX_PLL_RATE 0) = 1650 := by decide +kernel

/-- Chapter 2: channel 3 of the glitch trigger takes sample k: grade 37, reference 9,984. -/
theorem test_crossing_first : crossing 256 128 4 1 1 true true false 3 ⟨600, 512, 0, 0, 0⟩ 16000 9664 =
    (⟨10112, 9984, 1, 4, 16000⟩, some ⟨3, true, 37⟩, false) := by decide +kernel

/-- Chapter 2: sample k + 5 crosses by one quantum in the same direction. -/
theorem test_crossing_again : ((crossing 256 128 4 0 0 true true false 3 ⟨10400, 9984, 1, 0, 0⟩ 10400 0).2.1,
    (crossing 256 128 4 0 0 true true false 3 ⟨10400, 9984, 1, 0, 0⟩ 10400 0).1.r) = (some ⟨3, true, 1⟩, 10240) := by decide +kernel

/-- Chapter 2: sample k + 10 reverses: hysteresis once, reference 9,856. -/
theorem test_crossing_reversal : ((crossing 256 128 4 0 0 true true false 3 ⟨9700, 10240, 1, 0, 0⟩ 9700 0).2.1,
    (crossing 256 128 4 0 0 true true false 3 ⟨9700, 10240, 1, 0, 0⟩ 9700 0).1.r) = (some ⟨3, false, 1⟩, 9856) := by decide +kernel

/-- Destination 0 of the glitch trigger: core 96, axons from 0x100, channels 0 to 4, PAIR. -/
def glitchDest : State := (running.wr (Reg.ING_DST_W0_VALID 3 0).off 0x01008060).wr (Reg.ING_DST_W1_PAIR 3 0).off 0x00010400

/-- Chapter 2: the event words 0x0025_0106 and 0x0001_0107 at core 96. -/
theorem test_event_words : (glitchDest.eventsOf 3 ⟨3, true, 37⟩).2 = [(96, 0x00250106)] ∧
    (glitchDest.eventsOf 3 ⟨3, false, 1⟩).2 = [(96, 0x00010107)] := by decide +kernel

/-- Chapter 3: profile 5 of the glitch detector. -/
def glitchProfile : Prof := Prof.ofWords 0x004003E8 0x02630104 0x20

/-- Chapter 3: three steps of decay, V 600 to 401 and A 80 to 76. -/
theorem test_decay : ((NRec.ofWords 0x00500258 0x9A4C9C40 0x00480305 0x800C).bringUp (some glitchProfile) 40003).v = 401 ∧
    ((NRec.ofWords 0x00500258 0x9A4C9C40 0x00480305 0x800C).bringUp (some glitchProfile) 40003).a = 76 := by decide +kernel

/-- Chapter 3: IN_SHIFT 2 of 39,600 and of −407. -/
theorem test_input_shift : inputShift 2 39600 = 9900 ∧ inputShift 2 (-407) = -102 ∧ inputShift 2 27000 = 6750 := by decide

/-- Chapter 3: the firing at the end of step 40,003 is clipped to grade 255 and leaves V = 1,031, A = 1,096. -/
theorem test_fire : (NRec.fire ⟨20999, 76, 40003, 39500, 0x00480305, 0x800C⟩ glitchProfile 40003) =
    (NRec.ofWords 0x04480407 0x9C439C43 0x00480305 0xB0FF, 255, true) := by decide +kernel

/-- Chapter 3: refractory in step 40,004, not in 40,005. -/
theorem test_refractory : (NRec.ofWords 0x04480407 0x9C439C43 0x00480305 0xB0FF).refractory glitchProfile 40004 = true ∧
    (NRec.ofWords 0x04480407 0x9C439C43 0x00480305 0xB0FF).refractory glitchProfile 40005 = false := by decide +kernel

/-- Chapter 3: the firing in step 40,005. -/
theorem test_fire_carried : (NRec.fire ⟨10829, 1061, 40005, 40003, 0x00480305, 0xB0FF⟩ glitchProfile 40005).2 = (138, false) ∧
    (NRec.fire ⟨10829, 1061, 40005, 40003, 0x00480305, 0xA0FF⟩ glitchProfile 40005).1 =
      NRec.ofWords 0x064D07CD 0x9C459C45 0x00480305 0xA08A := by decide +kernel

/-- Chapter 4: slot times of 0.75 V, 0.55 V and 0.50 V. -/
theorem test_slot_times : slotPs 0 = 1010 ∧ slotPs 4 = 2080 ∧ slotPs 5 = 3030 := by decide

/-- Chapter 5: the delta of the interferer detector is 38 − 19. -/
theorem test_delta : delta ⟨384, 256, 0, 200⟩ 100 200 150 = 19 ∧ delta ⟨384, 256, 0, 200⟩ 133 200 150 = 0 := by decide +kernel

/-- Chapter 5: 380 sixty-fourths are six steps of weight. -/
theorem test_commit_rounding : rna64 380 = 6 ∧ rna64 (-380) = -6 := by decide

/-- Chapter 6: the MMA descriptor of the frame decoder. -/
def frameMma : Desc := ⟨[0x22301004, 0x00208002, 0x8, 0x00480000, 0, 0x54, 0, 0], false⟩

/-- Chapter 6: Q4E weights, Q8E activations, M = 1, ZERO, KB = 32; TQ2 and TQ4 to TQ3 and TQ5; AOBs from TQ0 to TQ1. -/
theorem test_mma_fields : frameMma.op = 2 ∧ (frameMma.wd, frameMma.pd, frameMma.wi, frameMma.pi) = (2, 3, 0, 1) ∧
    (frameMma.wfmt, frameMma.afmt, frameMma.mmaRows) = (2, 0, 1) ∧ frameMma.zero = true ∧ frameMma.kb = 32 ∧ frameMma.wlen = 576 ∧
    (frameMma.wd2, frameMma.pd2) = (4, 5) ∧ frameMma.refusal = 0 := by decide +kernel

/-- Tile 5 with the TSET of the frame decoder at its turn. -/
def tsetTurn : State :=
  (running.fon (Reg.TILE_CTL_EN 5)).onTile 5 fun x =>
    { x with tset := some ⟨[0x4FFFF001, 0x33F, 0x80000, 0, 0x10001, 0, 0, 0], false⟩ }

/-- Chapter 6: TSET sets TQ1 = 8, TQ4 = 1, TQ5 = 1 and the other queues that MASK selects to 0. -/
theorem test_tset : after (.tset 5) tsetTurn (fun t => (List.range 6).map fun q => t.fget (Reg.TILE_TQ_COUNT 5 q)) =
    some [0, 8, 0, 0, 1, 1] := by decide +kernel

/-- Chapter 7: the exact half 2.5 rounds to 3, −2.5 to −3. -/
theorem test_ties_away : rnaDown 5 1 = 3 ∧ rnaShift 5 1 = 3 ∧ rnaShift (-5) 1 = -3 := by decide

/-- Chapter 7: one and a half in binary32 narrowed to bfloat16 and binary16. -/
theorem test_formats : bfloat16.encode (binary32.decode 0x3FC00000) = 0x3FC0 ∧ binary16.encode (binary32.decode 0x3FC00000) = 0x3E00 := by
  decide +kernel

/-- Chapter 11: channel 5 of bulk engine 1 at word pc of the glitch window's program. -/
def windowProgram (pc : Nat) : State :=
  ((((running.wr64 (Reg.DMA_PBASE_LO_BASE 1045).off 0x080001000000).fset (Reg.DMA_STATUS_STATE 1045) 1).fset (Reg.DMA_PC_PC 1045) pc).onDma 1045
    fun d => { d with code := [(0, [0x40000A1000000007, 0x20089000200000F0, 0x10000000000000F0, 0x0000000103A1C010, 0x0000080001200000,
      0x3000000000000000, 0x50006A0300000001, 0xF800000000000003])] })

/-- Chapter 11: the LOOP opens 138 iterations with strides 256 and 240. -/
theorem test_loop : after (.loop 1045) (windowProgram 1) (fun t => (t.dmaDepth 1045, t.fget (Reg.DMA_LOOP_CNT_CNTM1 1045 0),
    t.dmaStride 1045 0, t.dmaPc 1045)) = some (1, 137, (256, 240), 2) := by decide +kernel

/-- Chapter 11: in iteration 1 the MOVE writes from 0x0800_0120_00F0 on. -/
theorem test_move_addresses : (fun s : State => (s.dmaSum 1045 true 0 0x103A1C010, s.dmaSum 1045 false 0 0x080001200000))
    ((((windowProgram 2).fset (Reg.DMA_PC_DEPTH 1045) 1).setStride 1045 0 (256, 240)).fset (Reg.DMA_LOOP_CNT_I 1045 0) 1) =
      (0x103A1C110, 0x0800012000F0) := by decide +kernel

/-- Chapter 11: END enters DONE with CODE 3 and IRQ. -/
theorem test_dma_end : after (.dmaEnd 1045) (windowProgram 7) (fun t => (t.dmaState 1045, t.fget (Reg.DMA_STATUS_CODE 1045),
    t.fbit (Reg.DMA_STATUS_IRQ 1045))) = some (5, 3, true) := by decide +kernel

/-- Chapter 13: timer 4 of the marker, with its compare in force at a count. -/
def markerTimer (count cmp per : Nat) : State :=
  ((((running.wr (Reg.TMR_CTL_EN 4).off 0x80003200).wr (Reg.TB_PIN 8) 0xC0000000).wr64 (Reg.TMR_CNT_LO 4) count).fon
    (Reg.TMR_STATUS_ARMED 4)).setTimer 4 { Timer.init with cmp := cmp, per := per, due := some 0 }

/-- Chapter 13: a match at 1,350 uses PERIOD 25 and arms 1,375. -/
theorem test_timer_match : after (.timerMatch 4) (markerTimer 1350 1350 25) (fun t => ((t.timer 4).cmp, t.fbit (Reg.TMR_STATUS_MATCH 4),
    t.fbit (Reg.TMR_STATUS_ARMED 4))) = some (1375, true, true) := by decide +kernel

/-- Chapter 13: a compare of 1,500 committed at 1,501 lies in the past. -/
theorem test_timer_past : after (.timerCompareCommit 4 0) (((markerTimer 1501 1525 25).setTimer 4
    { Timer.init with cmp := 1525, per := 25 }).wr (Reg.TMR_CMP_LO 4) 1500)
    (fun t => (t.fbit (Reg.TMR_STATUS_CMP_PAST 4), t.fbit (Reg.TMR_STATUS_ARMED 4))) = some (true, false) := by decide +kernel

/-- Chapter 0: neuron core 2/E/3/17 has its CSR block at 0x02B1_0000, tile E/2/5 at 0x0535_0000. -/
theorem test_blocks : Reg.NC_CTL 625 = 0x02B10000 ∧ Reg.TILE_CTL 53 = 0x05350000 := by decide +kernel

/-- REGISTER_WRITE of AON_TWIN_CMP_CNT by the AON controller holds what was written. -/
theorem test_register_write : after (.registerWrite .aon 0x13C 4 0x12345678 true false) running (fun t => t.rd 0x13C) = some 0x12345678 := by
  decide +kernel

/-! The premises of the general statements, met by concrete states. -/

theorem test_front_command_premise : ∃ (c : Instr) (rest : List Instr) (s : State), s.pending = c :: rest :=
  ⟨.slowTick, [.pwrGoodFall], { running with pending := [.slowTick, .pwrGoodFall] }, rfl⟩

theorem test_tick_premise : ∃ s : State, s.pending = [] ∧ s.tb.loadAt ≠ some (s.time + 1) ∧ s.aon.pll = true ∧ s.tb.edgeAdds = 1 :=
  ⟨running.onAon fun a => { a with pll := true }, by decide +kernel⟩

theorem test_tick_before_pll_premise : ∃ s : State, s.pending = [] ∧ s.tb.loadAt ≠ some (s.time + 1) ∧ s.aon.pll = false :=
  ⟨State.reset, by decide +kernel⟩

theorem test_step_premise : ∃ s t : State, s.canonical = true ∧ step s = .next t :=
  ⟨{ running with pending := [.timerReset 3] }, _, by decide +kernel, rfl⟩

theorem test_held_reset_premise : ∃ (c : Instr) (s : State), s.down = true ∧ (∀ d b, c ≠ .pwrGoodRise d b) ∧ c ≠ .pwrGoodFall ∧
    (∀ b, c ≠ .vaonLow b) ∧ (∀ k, c ≠ .supplyReturn k) ∧ ∀ k, c ≠ .thermalRestart k :=
  ⟨.slowTick, State.reset, by decide +kernel, nofun, nofun, nofun, nofun, nofun⟩

theorem test_below_class_premise : ∃ (c : Instr) (s : State) (m : Master) (o : Nat), writeTarget c = some (m, o) ∧ s.down = false ∧
    (m = .pcie → s.barOpen = true) ∧ reaches m o = true ∧ s.cocoonHides m o = false ∧ s.regOff o = false ∧ s.mayAccess m o = false :=
  ⟨.twinEnable (.app 2 true), running, .app 2 true, Reg.AON_TWIN_CTL, by decide +kernel⟩

theorem test_below_class_write_premise : ∃ (s : State) (m : Master) (off : BitVec 28), s.down = false ∧ (m = .pcie → s.barOpen = true) ∧
    off.toNat % 4 = 0 ∧ reaches m off.toNat = true ∧ s.cocoonHides m off.toNat = false ∧ s.regOff off.toNat = false ∧
    s.mayAccess m off.toNat = false :=
  ⟨running, .app 2 true, 0x40, by decide +kernel⟩

theorem test_island_off_premise : ∃ (c : Instr) (s : State) (m : Master) (o : Nat), writeTarget c = some (m, o) ∧ s.down = false ∧
    (m = .pcie → s.barOpen = true) ∧ reaches m o = true ∧ s.cocoonHides m o = false ∧ s.regOff o = true :=
  ⟨.tileReset .aon 5, (List.range 102).foldl (fun s i => s.fset (Reg.PWR_ISL_STAT_STATE i) 4) running, .aon, Reg.TILE_CTL 5, by decide +kernel⟩

theorem test_island_off_write_premise : ∃ (s : State) (m : Master) (off : BitVec 28), s.down = false ∧ (m = .pcie → s.barOpen = true) ∧
    off.toNat % 4 = 0 ∧ reaches m off.toNat = true ∧ s.cocoonHides m off.toNat = false ∧ s.regOff off.toNat = true :=
  ⟨(List.range 102).foldl (fun s i => s.fset (Reg.PWR_ISL_STAT_STATE i) 4) running, .aon, 0x5000000, by decide +kernel⟩

theorem test_closed_bar_premise : ∃ (c : Instr) (s : State) (o : Nat), writeTarget c = some (.pcie, o) ∧ s.down = false ∧ s.barOpen = false :=
  ⟨.chrOpen .pcie, running, Reg.CHR_CMD, by decide +kernel⟩

theorem test_closed_bar_write_premise : ∃ (s : State) (off : BitVec 28), s.down = false ∧ s.barOpen = false ∧ off.toNat % 4 = 0 :=
  ⟨running, 0x54, by decide +kernel⟩

theorem test_other_part_premise : ∃ (c : Instr) (s t : State) (p : Part), exec c s = .next t ∧ p ∉ touched c :=
  ⟨.timerReset 3, running, _, .mem, rfl, by decide⟩

/-- The premises of FieldsTakeAWriteByTheirType, for the register at off and a field of type ty. -/
def plainField (s : State) (m : Master) (off : BitVec 28) (ty : FTy) : Prop :=
  s.canonical = true ∧ plainReg off.toNat = true ∧ off.toNat % 4 = 0 ∧ s.admits m off.toNat = true ∧
  ∃ bs ∈ s.regThere off.toNat, ∃ f ∈ bs.fields, f.ty = ty

theorem test_field_ro_premise : ∃ (s : State) (m : Master) (off : BitVec 28), plainField s m off .ro :=
  ⟨running, .aon, 0x124, by unfold plainField; decide +kernel⟩

theorem test_field_rsv_premise : ∃ (s : State) (m : Master) (off : BitVec 28), plainField s m off .rsv :=
  ⟨running, .aon, 0x100014, by unfold plainField; decide +kernel⟩

theorem test_field_rw_premise : ∃ (s : State) (m : Master) (off : BitVec 28), plainField s m off .rw :=
  ⟨running.wr Reg.AON_PRIV_CNT 7, .aon, 0x54, by unfold plainField; decide +kernel⟩

theorem test_field_w1c_premise : ∃ (s : State) (m : Master) (off : BitVec 28), plainField s m off .w1c :=
  ⟨running.fon Reg.AON_STATUS_CFG_IGNORED, .aon, 0x44, by unfold plainField; decide +kernel⟩

theorem test_field_rwd_free_premise : ∃ (s : State) (m : Master) (off : BitVec 28),
    plainField s m off .rwd ∧ s.blockOff off.toNat = true :=
  ⟨running, .aon, 0x100014, by unfold plainField; decide +kernel⟩

theorem test_field_rwd_held_premise : ∃ (s : State) (m : Master) (off : BitVec 28),
    plainField s m off .rwd ∧ s.blockOff off.toNat = false :=
  ⟨running.fon (Reg.ING_CTL_EN 0), .aon, 0x100014, by unfold plainField; decide +kernel⟩

theorem test_field_rws_premise : ∃ (s : State) (m : Master) (off : BitVec 28), plainField s m off .rws ∧ s.blockOff off.toNat = false :=
  ⟨running.fon (Reg.NC_CTL_EN 0), .aon, 0x400020, by unfold plainField; decide +kernel⟩

theorem test_field_rwl_free_premise : ∃ (s : State) (m : Master) (off : BitVec 28),
    plainField s m off .rwl ∧ s.locked off.toNat = false :=
  ⟨running.foff Reg.AON_LIMITS_LOCK, .aon, 0x40, by unfold plainField; decide +kernel⟩

theorem test_field_rwl_held_premise : ∃ (s : State) (m : Master) (off : BitVec 28),
    plainField s m off .rwl ∧ s.locked off.toNat = true :=
  ⟨running.fon Reg.AON_LIMITS_LOCK, .aon, 0x40, by unfold plainField; decide +kernel⟩

theorem test_reserved_bits_premise : ∃ (s : State) (m : Master) (off : BitVec 28), s.admits m off.toNat = true ∧ off.toNat % 4 = 0 ∧
    ∃ bs ∈ s.regThere off.toNat, ∃ f ∈ bs.fields, f.ty = .rsv :=
  ⟨running, .aon, 0x44, by decide +kernel⟩

theorem test_reserved_bits_fault : ∃ (c : Instr) (s : State) (e : Fault), exec c s = .fault e :=
  ⟨.registerWrite .aon 0x44 4 0 false false, running, .reservedBits, rfl⟩

theorem test_next_state_premise : ∃ c : Instr, ∀ m off n v, c ≠ .registerWrite m off n v false false :=
  ⟨.registerWrite .aon 0x44 4 0 true false, by intro m off n v h; cases h⟩

theorem test_kept_queue_premise : ∃ s : State, s.pending ≠ [] ∧ ∀ c ∈ s.pending, ∀ m off k v, c ≠ .registerWrite m off k v false false :=
  ⟨{ running with pending := [.slowTick] }, nofun, by intro c h m off k v e; subst e; cases h with | tail _ h => cases h⟩

theorem test_lasting_stands_premise : ∃ (s : State) (m : Master) (src : Fin 26), s.canonical = true ∧
    s.admits m (Reg.FLT_SRC_STAT src) = true ∧ s.refreshCauses.fbit (Reg.FLT_SRC_STAT_CAUSE src) = true :=
  ⟨(running.fon (Reg.FLT_SRC_STAT_CAUSE 25)).onAon fun a => { a with supplyOut := [1] }, .aon, 25, by decide +kernel⟩

theorem test_lasting_free_premise : ∃ (s : State) (m : Master) (src : Fin 26), s.canonical = true ∧
    s.admits m (Reg.FLT_SRC_STAT src) = true ∧ s.refreshCauses.fbit (Reg.FLT_SRC_STAT_CAUSE src) = false :=
  ⟨running.fon (Reg.FLT_SRC_STAT_LASTING 1), .aon, 1, by decide +kernel⟩

theorem test_fault_clear_premise : ∃ (s : State) (m : Master), s.canonical = true ∧ s.admits m Reg.FLT_REC_STATUS = true :=
  ⟨running, .aon, by decide +kernel⟩

theorem test_dma_end_irq_premise : ∃ (s : State) (ch : Fin 1056) (w : Nat), s.canonical = true ∧ s.down = false ∧ s.dmaThere ch = true ∧
    s.dmaState ch = 1 ∧ (s.dma ch).wait = none ∧ s.dmaWord ch (s.dmaPc ch) = some w ∧ bits w 63 60 = 15 ∧ bits w 58 16 = 0 ∧
    bit w 59 = true :=
  ⟨running.fset (Reg.DMA_STATUS_STATE 1029) 1 |>.fset (Reg.DMA_PC_PC 1029) 8 |>.fset (Reg.DMA_PC_DEPTH 1029) 2
    |>.onDma 1029 (fun _ => { DmaSt.init with code := [(1, [0xF800000000000003])] }), 1029, 0xF800000000000003, by decide +kernel⟩

theorem test_dma_end_quiet_premise : ∃ (s : State) (ch : Fin 1056) (w : Nat), s.canonical = true ∧ s.down = false ∧ s.dmaThere ch = true ∧
    s.dmaState ch = 1 ∧ (s.dma ch).wait = none ∧ s.dmaWord ch (s.dmaPc ch) = some w ∧ bits w 63 60 = 15 ∧ bits w 58 16 = 0 ∧
    bit w 59 = false :=
  ⟨running.fset (Reg.DMA_STATUS_STATE 35) 1 |>.onDma 35 (fun _ => { DmaSt.init with code := [(0, [0xF000000000000007])] }),
    35, 0xF000000000000007, by decide +kernel⟩

theorem test_adopt_premise : ∃ (s : State) (m : Master) (o : Fin 136) (i : Nat), s.canonical = true ∧ s.admits m (Reg.SYNC_CTL o) = true ∧
    s.ownerThere o = true ∧ i < objsOf o ∧ s.fget (Reg.SYNC_STATE_STATE o i) = 1 :=
  ⟨running.fset (Reg.SYNC_STATE_STATE 129 7) 1, .aon, 129, 7, by decide +kernel⟩

theorem test_restart_premise : ∃ (s : State) (m : Master) (q : Fin 128) (i : Nat), s.canonical = true ∧ s.admits m (Reg.SEQ_CTL q) = true ∧
    i < objsOf q ∧ s.fget (Reg.SYNC_STATE_STATE q i) = 1 :=
  ⟨running.fset (Reg.SYNC_STATE_STATE 11 2) 1, .aon, 11, 2, by decide +kernel⟩

/-- Tile 5 runs, with a NOP that waits on TQ 0 at the head of its first queue and count tokens in that queue. -/
def nopWaits (count : Nat) : State :=
  ((running.fon (Reg.TILE_CTL_EN 5)).fset (Reg.TILE_TQ_COUNT 5 0) count).onTile 5 fun _ =>
    { TileSt.init with even := ⟨List.replicate 8 0, [[0x00FFF000, 0, 0, 0, 0, 0, 0, 0]], []⟩ }

/-- The premises of TokenQueueWaitsAndPosts, first part, at the head of the first queue of tile 5. -/
def nopPremise (s : State) (d : Desc) : Prop :=
  s.canonical = true ∧ s.down = false ∧ s.tileRuns 5 = true ∧ s.headDesc 5 false = some d ∧ d.op = 0 ∧ d.refusal = 0 ∧
  (s.tile 5).tset = none ∧ ((s.tile 5).port false).stalled = [] ∧ d.wd < 8 ∧ d.pd = 15

theorem test_token_wait_premise : ∃ (s : State) (d : Desc), nopPremise s d ∧ 1 ≤ s.fget (Reg.TILE_TQ_COUNT 5 d.wd) :=
  ⟨nopWaits 1, ⟨[0x00FFF000, 0, 0, 0, 0, 0, 0, 0], false⟩, by unfold nopPremise; decide +kernel⟩

theorem test_token_none_premise : ∃ (s : State) (d : Desc), nopPremise s d ∧ s.fget (Reg.TILE_TQ_COUNT 5 d.wd) = 0 :=
  ⟨nopWaits 0, ⟨[0x00FFF000, 0, 0, 0, 0, 0, 0, 0], false⟩, by unfold nopPremise; decide +kernel⟩

theorem test_token_post_premise : ∃ s : State, s.canonical = true ∧ s.fbit (Reg.TILE_STATUS_ERR 5) = false ∧
    s.fget (Reg.TILE_TQ_COUNT 5 7) = 4094 :=
  ⟨running.fset (Reg.TILE_TQ_COUNT 5 7) 4094, by decide +kernel⟩

theorem test_token_overflow_premise : ∃ s : State, s.canonical = true ∧ s.fbit (Reg.TILE_STATUS_ERR 5) = false ∧
    s.fget (Reg.TILE_TQ_COUNT 5 7) = 4095 :=
  ⟨running.fset (Reg.TILE_TQ_COUNT 5 7) 4095, by decide +kernel⟩

/-- The class-event queue of stream 3 with n entries. -/
def classQueue (n : Nat) : State :=
  running.onTok 3 fun t => { t with cq := { t.cq with ents := List.replicate n ⟨1, 0, 0, 0⟩ } }

theorem test_full_queue_premise : ∃ (s : State) (i : Fin 32), s.canonical = true ∧ s.shadows = false ∧ 1024 ≤ (s.tok i).cq.ents.length :=
  ⟨classQueue 1024, 3, by decide +kernel⟩

theorem test_queue_with_room_premise : ∃ (s : State) (i : Fin 32), s.canonical = true ∧ s.shadows = false ∧
    (s.tok i).cq.ents.length = 1023 :=
  ⟨classQueue 1023, 3, by decide +kernel⟩

theorem test_role_change_premise : ∃ (s : State) (reason : Nat), s.canonical = true ∧ reason < 16 ∧ s.inService = true :=
  ⟨(running.fset Reg.INST_STATUS_STAGE 6).fon Reg.INST_STATUS_READY, 15, by decide +kernel⟩

theorem test_input_shift_premise : ∃ k : Nat, 1 ≤ k ∧ k ≤ 15 := ⟨15, by decide⟩

theorem test_refractory_premise : ∃ (r : NRec) (p : Prof) (t : Nat), r.tFire < 65536 ∧ r.refractory p t = true :=
  ⟨⟨0, 0, 0, 65535, 0, 0x2000⟩, { Prof.ofWords 0 0 0 with ref := 2 }, 1, by decide +kernel⟩

theorem test_no_refractory_premise : ∃ (r : NRec) (p : Prof), r.tFire < 65536 ∧ p.ref = 0 :=
  ⟨⟨0, 0, 0, 65535, 0, 0x2000⟩, Prof.ofWords 0 0 0, by decide +kernel⟩

/-! The premises of each command's clause. -/

theorem test_pwrGoodRise_can_run :
    (∃ (s : State) (devid : Fin 8) (standby : Bool), s.canonical = true ∧ 0 ∈ s.aon.held ∧ s.aon.tapHold = false) ∧
    (∃ (s : State) (devid : Fin 8) (standby : Bool), s.canonical = true ∧ (0 ∉ s.aon.held ∨ s.aon.tapHold = true)) :=
  ⟨⟨running.hold 0, 3, true, by decide +kernel⟩,
    ⟨running, 3, true, by decide +kernel⟩⟩

theorem test_pwrGoodFall_can_run : ∃ (s : State), s.canonical = true :=
  ⟨running, by decide +kernel⟩

theorem test_supplyOutOfRange_can_run : ∃ (s : State) (east : Bool), s.canonical = true ∧ s.down = false :=
  ⟨running, true, by decide +kernel⟩

theorem test_supplyCollapse_can_run :
    (∃ (s : State) (east : Bool), s.canonical = true ∧ s.down = false ∧ s.fbit Reg.FLT_REC_STATUS_PENDING = false) ∧
    (∃ (s : State) (east : Bool), s.canonical = true ∧ s.down = false ∧ s.fbit Reg.FLT_REC_STATUS_PENDING = true) :=
  ⟨⟨running.foff Reg.FLT_REC_STATUS_PENDING, true, by decide +kernel⟩,
    ⟨running.fon Reg.FLT_REC_STATUS_PENDING, true, by decide +kernel⟩⟩

theorem test_vaonLow_can_run : ∃ (s : State) (lost : Bool), s.canonical = true :=
  ⟨running, true, by decide +kernel⟩

theorem test_supplyReturn_can_run :
    (∃ (s : State) (supply : Fin 3), s.canonical = true ∧ supply ≠ 2) ∧
    (∃ (s : State) (supply : Fin 3), s.canonical = true ∧ supply = 2) :=
  ⟨⟨running.onAon fun a => { a with held := [1], supplyOut := [1] }, 1, by decide +kernel⟩,
    ⟨running.onAon fun a => { a with held := [1], supplyOut := [1, 2] }, 2, by decide +kernel⟩⟩

theorem test_serdesSupplyLow_can_run :
    (∃ (s : State) (streams : List (Fin 32)) (links : List (Fin 12)), s.canonical = true ∧ s.down = false) ∧
    (∃ (s : State) (streams : List (Fin 32)) (links : List (Fin 12)), s.canonical = true ∧ s.down = false ∧ s.aon.pcieUp
      = true) :=
  ⟨⟨running.fset Reg.INST_STATUS_STAGE 6 |>.fon (Reg.IBL_STATUS_UP 2) |>.fon (Reg.JRX_LANE_CFG_EN 5) |>.fset
      (Reg.JRX_LANE_CFG_STREAM 5) 1, [1], [2], by decide +kernel⟩,
    ⟨running.fset Reg.INST_STATUS_STAGE 6 |>.fon (Reg.IBL_STATUS_UP 2) |>.fon (Reg.JRX_LANE_CFG_EN 5) |>.fset
      (Reg.JRX_LANE_CFG_STREAM 5) 1 |>.onAon fun a => { a with pcieUp := true }, [1], [2], by decide +kernel⟩⟩

theorem test_vddqLow_can_run : ∃ (s : State) (c : Fin 8), s.canonical = true ∧ s.down = false ∧ (s.ddr c).queue = [] :=
  ⟨running, 3, by decide +kernel⟩

theorem test_powerWindow_can_run :
    (∃ (s : State) (west : BitVec 16) (east : BitVec 16), s.canonical = true ∧ s.down = false ∧ s.aon.hot = []) ∧
    (∃ (s : State) (west : BitVec 16) (east : BitVec 16), s.canonical = true ∧ s.down = false ∧ s.aon.hot ≠ [] ∧ 8 ≤
      s.fget Reg.PWR_STATUS_HOLD) :=
  ⟨⟨running.fset Reg.AON_LIMITS_PWR_MAX 100 |>.fset Reg.PWR_STATUS_HOLD 3, 2000, 100, by decide +kernel⟩,
    ⟨running.fset Reg.AON_LIMITS_PWR_MAX 100 |>.fset Reg.PWR_STATUS_HOLD 8 |>.onAon fun a => { a with hot := [3] }, 20,
      10, by decide +kernel⟩⟩

theorem test_thermalWarning_can_run : ∃ (s : State) (sensor : Fin 17) (celsius : BitVec 8), s.canonical = true ∧ s.down =
  false :=
  ⟨running.fset Reg.PWR_THERM_TWARN 90, 3, 115, by decide +kernel⟩

theorem test_thermalStop_can_run :
    (∃ (s : State) (sensor : Fin 17), s.canonical = true ∧ s.down = false ∧ s.fbit Reg.FLT_REC_STATUS_PENDING = false) ∧
    (∃ (s : State) (sensor : Fin 17), s.canonical = true ∧ s.down = false ∧ s.fbit Reg.FLT_REC_STATUS_PENDING = true) :=
  ⟨⟨running.foff Reg.FLT_REC_STATUS_PENDING, 5, by decide +kernel⟩,
    ⟨running.fon Reg.FLT_REC_STATUS_PENDING, 5, by decide +kernel⟩⟩

theorem test_thermalRestart_can_run :
    (∃ (s : State) (celsius : BitVec 8), s.canonical = true ∧ celsius.toInt < s.twarn - 10 ∧ 3 ∈ s.aon.held) ∧
    (∃ (s : State) (celsius : BitVec 8), s.canonical = true ∧ ¬ celsius.toInt < s.twarn - 10) :=
  ⟨⟨running.hold 3, 20, by decide +kernel⟩,
    ⟨running.hold 3, 127, by decide +kernel⟩⟩

theorem test_rampEnd_can_run :
    (∃ (s : State) (h : Fin 2) (dense : Bool), s.canonical = true ∧ s.down = false ∧ 2 * h.val + (if dense then 1 else 0)
      ∈ s.aon.ramps) ∧
    (∃ (s : State) (h : Fin 2) (dense : Bool), s.canonical = true ∧ s.down = false ∧ 2 * h.val + (if dense then 1 else 0)
      ∉ s.aon.ramps) :=
  ⟨⟨running.onAon fun a => { a with ramps := [3, 1] }, 1, true, by decide +kernel⟩,
    ⟨running.onAon fun a => { a with ramps := [2] }, 1, true, by decide +kernel⟩⟩

theorem test_brownout_can_run :
    (∃ (s : State) (i : Fin 102), s.canonical = true ∧ s.down = false ∧ s.islState i = 2) ∧
    (∃ (s : State) (i : Fin 102), s.canonical = true ∧ s.down = false ∧ s.islState i = 2 ∧ i.val < 64) ∧
    (∃ (s : State) (i : Fin 102), s.canonical = true ∧ s.down = false ∧ s.islState i = 2 ∧ 82 ≤ i.val) ∧
    (∃ (s : State) (i : Fin 102), s.canonical = true ∧ s.down = false ∧ s.islState i ≠ 2) :=
  ⟨⟨running.fset (Reg.PWR_ISL_STAT_STATE 72) 2, 72, by decide +kernel⟩,
    ⟨running.fset (Reg.PWR_ISL_STAT_STATE 5) 2, 5, by decide +kernel⟩,
    ⟨running.fset (Reg.PWR_ISL_STAT_STATE 101) 2, 101, by decide +kernel⟩,
    ⟨running, 5, by decide +kernel⟩⟩

theorem test_roostEntry_can_run :
    (∃ (s : State) (i : Fin 102) (request : Bool) (wfi0 : Bool) (wfi1 : Bool), s.canonical = true ∧ s.down = false ∧
      s.islState i = 0 ∧ (s.wfiShow i wfi0 wfi1).mayRoost i wfi0 wfi1 = true ∧ request = false) ∧
    (∃ (s : State) (i : Fin 102) (request : Bool) (wfi0 : Bool) (wfi1 : Bool), s.canonical = true ∧ s.down = false ∧
      s.islState i = 0 ∧ (s.wfiShow i wfi0 wfi1).mayRoost i wfi0 wfi1 = true ∧ request = true) ∧
    (∃ (s : State) (i : Fin 102) (request : Bool) (wfi0 : Bool) (wfi1 : Bool), s.canonical = true ∧ s.down = false ∧
      i.val < 64 ∧ s.tileAbsent i = false) ∧
    (∃ (s : State) (i : Fin 102) (request : Bool) (wfi0 : Bool) (wfi1 : Bool), s.canonical = true ∧ s.down = false ∧
      (s.islState i ≠ 0 ∨ (s.wfiShow i wfi0 wfi1).mayRoost i wfi0 wfi1 = false)) :=
  ⟨⟨running.foff (Reg.PWR_ISL_STAT_STATE 101) |>.fon (Reg.PWR_ISL_CTL_ROOST_EN 101) |>.foff Reg.TRU_STATUS_BUSY, 101,
      false, true, true, by decide +kernel⟩,
    ⟨running.foff (Reg.PWR_ISL_STAT_STATE 101) |>.fon (Reg.PWR_ISL_CTL_ROOST_EN 101) |>.foff Reg.TRU_STATUS_BUSY, 101,
      true, true, true, by decide +kernel⟩,
    ⟨running, 5, false, true, true, by decide +kernel⟩,
    ⟨running.fset (Reg.PWR_ISL_STAT_STATE 5) 2, 5, false, true, true, by decide +kernel⟩⟩

theorem test_roostWake_can_run :
    (∃ (s : State) (i : Fin 102) (cause : Fin 9), s.canonical = true ∧ s.down = false ∧ cause ≠ 0 ∧ s.islState i = 2) ∧
    (∃ (s : State) (i : Fin 102) (cause : Fin 9), s.canonical = true ∧ s.down = false ∧ (cause = 0 ∨ s.islState i ≠ 2)) :=
  ⟨⟨running.fset (Reg.PWR_ISL_STAT_STATE 5) 2, 5, 4, by decide +kernel⟩,
    ⟨running.fset (Reg.PWR_ISL_STAT_STATE 5) 2, 5, 0, by decide +kernel⟩⟩

theorem test_islandWakeWrite_can_run : ∃ (s : State) (m : Master) (i : Fin 102), s.canonical = true ∧ s.admits m
  (Reg.PWR_ISL_CTL i) = true ∧ s.islState i = 2 :=
  ⟨running.fset (Reg.PWR_ISL_STAT_STATE 5) 2, .aon, 5, by decide +kernel⟩

theorem test_wakeEnd_can_run :
    (∃ (s : State) (i : Fin 102), s.canonical = true ∧ s.down = false) ∧
    (∃ (s : State) (i : Fin 102), s.canonical = true ∧ s.down = false ∧ s.islState i ≠ 3) :=
  ⟨⟨running.fset (Reg.PWR_ISL_STAT_STATE 5) 3, 5, by decide +kernel⟩,
    ⟨running, 5, by decide +kernel⟩⟩

theorem test_islandOff_can_run :
    (∃ (s : State) (m : Master) (i : Fin 102) (off : Bool), s.canonical = true ∧ s.admits m (Reg.PWR_ISL_CTL i) = true ∧
      islMayOff i = true ∧ s.islDisabled i = true ∧ s.fbit (Reg.PWR_ISL_CTL_OFF i) ≠ off ∧ off = true ∧ 74 ≤ i.val ∧
      i.val < 82) ∧
    (∃ (s : State) (m : Master) (i : Fin 102) (off : Bool), s.canonical = true ∧ s.admits m (Reg.PWR_ISL_CTL i) = true ∧
      (islMayOff i = false ∨ s.islDisabled i = false) ∧ off = true ∧ s.fbit (Reg.PWR_ISL_CTL_OFF i) = false) :=
  ⟨⟨running.foff (Reg.DDR_CTL_EN 3) |>.foff (Reg.PWR_ISL_CTL_OFF 77), .aon, 77, true, by decide +kernel⟩,
    ⟨running.fon (Reg.DDR_CTL_EN 3) |>.foff (Reg.PWR_ISL_CTL_OFF 77), .aon, 77, true, by decide +kernel⟩⟩

theorem test_suppliesAndAon_can_run :
    (∃ (s : State) (vinOk : Bool) (pllOk : Bool) (pllUs : BitVec 16), s.canonical = true ∧ s.down = false ∧ s.inInstar 0
      = true ∧ vinOk = true ∧ pllOk = true ∧ pllUs.toNat ≤ 2000 ∧ s.pageLost = []) ∧
    (∃ (s : State) (vinOk : Bool) (pllOk : Bool) (pllUs : BitVec 16), s.canonical = true ∧ s.down = false ∧ s.inInstar 0
      = true ∧ (vinOk = false ∨ pllOk = false ∨ 2000 < pllUs.toNat)) ∧
    (∃ (s : State) (vinOk : Bool) (pllOk : Bool) (pllUs : BitVec 16), s.canonical = true ∧ s.down = false ∧ s.inInstar 0
      = true ∧ vinOk = true ∧ pllOk = true ∧ pllUs.toNat ≤ 2000 ∧ s.pageLost ≠ []) ∧
    (∃ (s : State) (vinOk : Bool) (pllOk : Bool) (pllUs : BitVec 16), s.canonical = true ∧ s.down = false ∧ s.inInstar 0
      = false) :=
  ⟨⟨running.fset Reg.INST_STATUS_STAGE 0 |>.foff Reg.INST_STATUS_FAILED |>.foff Reg.INST_STATUS_READY, true, true, 100,
      by decide +kernel⟩,
    ⟨running.fset Reg.INST_STATUS_STAGE 0 |>.foff Reg.INST_STATUS_FAILED |>.foff Reg.INST_STATUS_READY, true, true, 2001,
      by decide +kernel⟩,
    ⟨running.fset Reg.INST_STATUS_STAGE 0 |>.foff Reg.INST_STATUS_FAILED |>.foff Reg.INST_STATUS_READY |> fun s =>
      { s with store := { s.store with copyA := [(2, ⟨0, false⟩)], copyB := [(2, ⟨0, false⟩)] } }, true, true, 100,
      by decide +kernel⟩,
    ⟨running.fset Reg.INST_STATUS_STAGE 1, true, true, 100, by decide +kernel⟩⟩

theorem test_trust_can_run :
    (∃ (s : State) (answers : Bool) (image : List Byte), s.canonical = true ∧ s.down = false ∧ s.inInstar 1 = true ∧
      (answers = false ∨ s.imageCode image ≠ 0) ∧ answers = true ∧ s.imageCode image ≠ 0) ∧
    (∃ (s : State) (answers : Bool) (image : List Byte), s.canonical = true ∧ s.down = false ∧ s.inInstar 1 = false) :=
  ⟨⟨running.fset Reg.INST_STATUS_STAGE 1 |>.foff Reg.INST_STATUS_FAILED |>.foff Reg.INST_STATUS_READY, true, [1,2,3],
      by decide +kernel⟩,
    ⟨running.fset Reg.INST_STATUS_STAGE 2, true, [], by decide +kernel⟩⟩

theorem test_twinImageDelivered_can_run :
    (∃ (s : State) (image : List Byte), s.canonical = true ∧ s.down = false ∧ s.fbit Reg.TRU_STATUS_RECOVERY = true ∧
      s.trust.stagingOwner ≠ some true ∧ s.imageCode image ≠ 0) ∧
    (∃ (s : State) (image : List Byte), s.canonical = true ∧ s.down = false ∧ (s.fbit Reg.TRU_STATUS_RECOVERY = false ∨
      s.trust.stagingOwner = some true)) :=
  ⟨⟨running.fon Reg.TRU_STATUS_RECOVERY, [1,2], by decide +kernel⟩,
    ⟨running.foff Reg.TRU_STATUS_RECOVERY, [1,2], by decide +kernel⟩⟩

theorem test_rcvGo_can_run :
    (∃ (s : State) (m : Master), s.canonical = true ∧ s.admits m Reg.TRU_CTL = true ∧ (m = .pcie ∨ s.level m = 2) ∧
      s.fbit Reg.TRU_STATUS_RECOVERY = true ∧ s.trust.stagingOwner ≠ some false ∧ s.imageCode (s.trust.staging.read 0
      (min (6 * 2 ^ 20) (s.fget Reg.TRU_RCV_LEN_LEN))) ≠ 0) ∧
    (∃ (s : State) (m : Master), s.canonical = true ∧ s.admits m Reg.TRU_CTL = true ∧ (m = .pcie ∨ s.level m = 2) ∧
      s.fbit Reg.TRU_STATUS_RECOVERY = true ∧ s.trust.stagingOwner = some false) :=
  ⟨⟨running.fon Reg.TRU_STATUS_RECOVERY |>.fset Reg.TRU_RCV_LEN_LEN 8, .aon, by decide +kernel⟩,
    ⟨running.fon Reg.TRU_STATUS_RECOVERY |>.onTrust fun x => { x with stagingOwner := some false }, .aon,
      by decide +kernel⟩⟩

theorem test_selfTest_can_run :
    (∃ (s : State) (found : List (BitVec 64)) (unspared : Bool) (storeOk : Bool) (n : Fin 1024) (off : Fin 0x200000),
      s.canonical = true ∧ s.down = false ∧ s.inInstar 2 = true ∧ unspared = false ∧ (s.newDefects found).any (fun r =>
      decide (bits r 63 60 = 3)) = false) ∧
    (∃ (s : State) (found : List (BitVec 64)) (unspared : Bool) (storeOk : Bool) (n : Fin 1024) (off : Fin 0x200000),
      s.canonical = true ∧ s.down = false ∧ s.inInstar 2 = true ∧ (unspared = true ∨ (s.newDefects found).any (fun r =>
      decide (bits r 63 60 = 3)) = true)) ∧
    (∃ (s : State) (found : List (BitVec 64)) (unspared : Bool) (storeOk : Bool), s.canonical = true ∧ s.down = false ∧
      s.inInstar 2 = false) :=
  ⟨⟨running.fset Reg.INST_STATUS_STAGE 2 |>.foff Reg.INST_STATUS_FAILED |>.foff Reg.INST_STATUS_READY, [], false, true,
      5, 77, by decide +kernel⟩,
    ⟨running.fset Reg.INST_STATUS_STAGE 2 |>.foff Reg.INST_STATUS_FAILED |>.foff Reg.INST_STATUS_READY, [], true, true,
      5, 77, by decide +kernel⟩,
    ⟨running.fset Reg.INST_STATUS_STAGE 3, [], false, true, by decide +kernel⟩⟩

theorem test_fabric_can_run :
    (∃ (s : State) (code : BitVec 8) (where_ : Word) (checked : BitVec 16) (tables : List (Nat × Word)), s.canonical =
      true ∧ s.down = false ∧ s.inInstar 3 = true ∧ ¬(0x30 ≤ code.toNat ∧ code.toNat ≤ 0x32)) ∧
    (∃ (s : State) (code : BitVec 8) (where_ : Word) (checked : BitVec 16) (tables : List (Nat × Word)), s.canonical =
      true ∧ s.down = false ∧ s.inInstar 3 = true ∧ 0x30 ≤ code.toNat ∧ code.toNat ≤ 0x32) ∧
    (∃ (s : State) (code : BitVec 8) (where_ : Word) (checked : BitVec 16) (tables : List (Nat × Word)), s.canonical =
      true ∧ s.down = false ∧ s.inInstar 3 = false) :=
  ⟨⟨running.fset Reg.INST_STATUS_STAGE 3 |>.foff Reg.INST_STATUS_FAILED |>.foff Reg.INST_STATUS_READY, 0, 0, 1024,
      [(0x60000,0x12345678),(0x6004000,5)], by decide +kernel⟩,
    ⟨running.fset Reg.INST_STATUS_STAGE 3 |>.foff Reg.INST_STATUS_FAILED |>.foff Reg.INST_STATUS_READY, 0x31, 7, 1024,
      [], by decide +kernel⟩,
    ⟨running.fset Reg.INST_STATUS_STAGE 4, 0, 0, 0, [], by decide +kernel⟩⟩

theorem test_memories_can_run :
    (∃ (s : State) (slicesOk : Bool) (off : Fin 0x30000000), s.canonical = true ∧ s.down = false ∧ s.inInstar 4 = true ∧
      (s.fbit Reg.INST_STATUS_COCOON = true ∨ ∀ c : Fin 8, s.fbit (Reg.DDR_CTL_EN c) = true → s.fbit
      (Reg.DDR_STATUS_TRAINED c) = true ∨ s.fbit (Reg.DDR_STATUS_FAILED c) = true) ∧ slicesOk = true ∧ s.fbit
      Reg.INST_STATUS_COCOON = false) ∧
    (∃ (s : State) (slicesOk : Bool) (off : Fin 0x30000000), s.canonical = true ∧ s.down = false ∧ s.inInstar 4 = true ∧
      (s.fbit Reg.INST_STATUS_COCOON = true ∨ ∀ c : Fin 8, s.fbit (Reg.DDR_CTL_EN c) = true → s.fbit
      (Reg.DDR_STATUS_TRAINED c) = true ∨ s.fbit (Reg.DDR_STATUS_FAILED c) = true) ∧ slicesOk = false ∧ (s.fbit
      Reg.INST_STATUS_COCOON = true ∨ slicesOk = false)) ∧
    (∃ (s : State) (slicesOk : Bool), s.canonical = true ∧ s.down = false ∧ s.inInstar 4 = false) ∧
    (∃ (s : State) (slicesOk : Bool), s.canonical = true ∧ s.down = false ∧ s.fbit Reg.INST_STATUS_COCOON = false ∧ (∃ c
      : Fin 8, s.fbit (Reg.DDR_CTL_EN c) = true ∧ s.fbit (Reg.DDR_STATUS_TRAINED c) = false ∧ s.fbit
      (Reg.DDR_STATUS_FAILED c) = false)) :=
  ⟨⟨running.fset Reg.INST_STATUS_STAGE 4 |>.foff Reg.INST_STATUS_FAILED |>.foff Reg.INST_STATUS_READY |> fun s => forN 8
      (fun c s => s.fon (Reg.DDR_STATUS_TRAINED c)) s, true, 99, by decide +kernel⟩,
    ⟨running.fset Reg.INST_STATUS_STAGE 4 |>.foff Reg.INST_STATUS_FAILED |>.foff Reg.INST_STATUS_READY |> fun s => forN 8
      (fun c s => s.fon (Reg.DDR_STATUS_TRAINED c)) s, false, 99, by decide +kernel⟩,
    ⟨running.fset Reg.INST_STATUS_STAGE 5, true, by decide +kernel⟩,
    ⟨running.fset Reg.INST_STATUS_STAGE 4 |>.foff Reg.INST_STATUS_FAILED |>.foff Reg.INST_STATUS_READY|>.foff
      Reg.INST_STATUS_COCOON |>.fon (Reg.DDR_CTL_EN 2) |>.foff (Reg.DDR_STATUS_TRAINED 2) |>.foff (Reg.DDR_STATUS_FAILED
      2), true, by decide +kernel⟩⟩

theorem test_ddrInstarTimeout_can_run :
    (∃ (s : State), s.canonical = true ∧ s.down = false ∧ s.inInstar 4 = true ∧ s.fbit Reg.INST_STATUS_COCOON = false ∧
      s.aon.stageAt + 30000000 ≤ s.time) ∧
    (∃ (s : State), s.canonical = true ∧ s.down = false ∧ (s.inInstar 4 = false ∨ s.fbit Reg.INST_STATUS_COCOON = true ∨
      s.time < s.aon.stageAt + 30000000)) :=
  ⟨⟨running.fset Reg.INST_STATUS_STAGE 4 |>.foff Reg.INST_STATUS_FAILED |>.foff Reg.INST_STATUS_READY |>.foff
      Reg.INST_STATUS_COCOON |>.fon (Reg.DDR_CTL_EN 2) |>.foff (Reg.DDR_STATUS_TRAINED 2) |> fun s =>
      { s with time := 40000000, aon := { s.aon with stageAt := 3 } }, by decide +kernel⟩,
    ⟨running.fset Reg.INST_STATUS_STAGE 5, by decide +kernel⟩⟩

theorem test_links_can_run :
    (∃ (s : State) (board : List (Fin 12 × Word)), s.canonical = true ∧ s.down = false ∧ s.inInstar 5 = true ∧
      (s.boardCheck board).streamsOut = [] ∧ ((s.boardCheck board).linksOut board) = [] ∧ s.aon.pcieUp = true) ∧
    (∃ (s : State) (board : List (Fin 12 × Word)), s.canonical = true ∧ s.down = false ∧ s.inInstar 5 = true ∧
      ((s.boardCheck board).streamsOut ≠ [] ∨ ((s.boardCheck board).linksOut board) ≠ [] ∨ s.aon.pcieUp = false)) ∧
    (∃ (s : State) (board : List (Fin 12 × Word)), s.canonical = true ∧ s.down = false ∧ s.inInstar 5 = false) :=
  ⟨⟨running.fset Reg.INST_STATUS_STAGE 5 |>.foff Reg.INST_STATUS_FAILED |>.foff Reg.INST_STATUS_READY |>.onAon (fun a =>
      { a with pcieUp := true, heldLinks := [] }) |> fun s => forN 32 (fun i s => s.foff (Reg.ING_CTL_EN i)) (forN 12
      (fun k s => (s.foff (Reg.IBL_CTL_EN k)).foff (Reg.IBL_STATUS_UP k)) (forN 12 (fun k s => s.foff (Reg.IBL_PEER_VALID
      k)) s)), [], by decide +kernel⟩,
    ⟨running.fset Reg.INST_STATUS_STAGE 5 |>.foff Reg.INST_STATUS_FAILED |>.foff Reg.INST_STATUS_READY |>.onAon (fun a =>
      { a with pcieUp := true, heldLinks := [] }) |> fun s => forN 32 (fun i s => s.foff (Reg.ING_CTL_EN i)) (forN 12
      (fun k s => (s.foff (Reg.IBL_CTL_EN k)).foff (Reg.IBL_STATUS_UP k)) (forN 12 (fun k s => s.foff (Reg.IBL_PEER_VALID
      k)) s)) |>.onAon fun a => { a with pcieUp := false }, [], by decide +kernel⟩,
    ⟨running.fset Reg.INST_STATUS_STAGE 6, [], by decide +kernel⟩⟩

theorem test_linksTimeout_can_run :
    (∃ (s : State) (board : List (Fin 12 × Word)), s.canonical = true ∧ s.down = false ∧ s.inInstar 5 = true ∧
      s.aon.stageAt + 26000000 ≤ s.time) ∧
    (∃ (s : State) (board : List (Fin 12 × Word)), s.canonical = true ∧ s.down = false ∧ (s.inInstar 5 = false ∨ s.time <
      s.aon.stageAt + 26000000)) :=
  ⟨⟨running.fset Reg.INST_STATUS_STAGE 5 |>.foff Reg.INST_STATUS_FAILED |>.foff Reg.INST_STATUS_READY |> fun s =>
      { s with time := 40000000, aon := { s.aon with stageAt := 3, heldLinks := [] } }, [(2, 0)], by decide +kernel⟩,
    ⟨running.fset Reg.INST_STATUS_STAGE 6, [], by decide +kernel⟩⟩

theorem test_load_can_run :
    (∃ (s : State) (wellFormed : Bool) (regs : List (Nat × Word)) (bytes : List (Nat × Byte)) (cores : BitVec 16) (x :
      Nat), s.canonical = true ∧ s.down = false ∧ s.mayLoad = true ∧ s.fbit Reg.INST_STATUS_COCOON = false ∧ wellFormed =
      true ∧ (((s.loadImage regs bytes).regWrite .aon Reg.FLT_WDOG (wordSet ((s.loadImage regs bytes).rd Reg.FLT_WDOG) 31
      31 1)).stepEnable).stepOn = true) ∧
    (∃ (s : State) (wellFormed : Bool) (regs : List (Nat × Word)) (bytes : List (Nat × Byte)) (cores : BitVec 16) (x :
      Nat), s.canonical = true ∧ s.down = false ∧ s.mayLoad = true ∧ s.fbit Reg.INST_STATUS_COCOON = false ∧ wellFormed =
      true ∧ regs = [] ∧ x ∉ bytes.map Prod.fst) ∧
    (∃ (s : State) (wellFormed : Bool) (regs : List (Nat × Word)) (bytes : List (Nat × Byte)) (cores : BitVec 16) (x :
      Nat), s.canonical = true ∧ s.down = false ∧ s.mayLoad = true ∧ s.fbit Reg.INST_STATUS_COCOON = false ∧ wellFormed =
      true ∧ (((s.loadImage regs bytes).regWrite .aon Reg.FLT_WDOG (wordSet ((s.loadImage regs bytes).rd Reg.FLT_WDOG) 31
      31 1)).stepEnable).stepOn = false) ∧
    (∃ (s : State) (wellFormed : Bool) (regs : List (Nat × Word)) (bytes : List (Nat × Byte)) (cores : BitVec 16),
      s.canonical = true ∧ s.down = false ∧ s.mayLoad = true ∧ s.fbit Reg.INST_STATUS_COCOON = false ∧ wellFormed =
      false) ∧
    (∃ (s : State) (wellFormed : Bool) (regs : List (Nat × Word)) (bytes : List (Nat × Byte)) (cores : BitVec 16),
      s.canonical = true ∧ s.down = false ∧ (s.mayLoad = false ∨ s.fbit Reg.INST_STATUS_COCOON = true)) :=
  ⟨⟨running.fset Reg.INST_STATUS_STAGE 6 |>.foff Reg.INST_STATUS_FAILED |>.foff Reg.INST_STATUS_READY |>.foff
      Reg.INST_STATUS_COCOON |>.fon Reg.TB_STEP_CTL_EN, true, [(0x10,3)], [(5,7)], 3, 6, by decide +kernel⟩,
    ⟨running.fset Reg.INST_STATUS_STAGE 6 |>.foff Reg.INST_STATUS_FAILED |>.foff Reg.INST_STATUS_READY |>.foff
      Reg.INST_STATUS_COCOON |>.fon Reg.TB_STEP_CTL_EN, true, [], [(5,7)], 3, 6, by decide +kernel⟩,
    ⟨running.fset Reg.INST_STATUS_STAGE 6 |>.foff Reg.INST_STATUS_FAILED |>.foff Reg.INST_STATUS_READY |>.foff
      Reg.INST_STATUS_COCOON |>.fon Reg.TB_STEP_CTL_EN |>.foff Reg.TB_STEP_CTL_EN, true, [], [(5,7)], 3, 6,
      by decide +kernel⟩,
    ⟨running.fset Reg.INST_STATUS_STAGE 6 |>.foff Reg.INST_STATUS_FAILED |>.foff Reg.INST_STATUS_READY |>.foff
      Reg.INST_STATUS_COCOON, false, [], [], 3, by decide +kernel⟩,
    ⟨running.fset Reg.INST_STATUS_STAGE 5, true, [], [], 3, by decide +kernel⟩⟩

theorem test_stageAlternate_can_run : ∃ (s : State), s.canonical = true ∧ s.down = false :=
  ⟨running.fon Reg.INST_STATUS_FAILED |> fun s => { s with time := 400000000, aon := { s.aon with stageAt := 3 } },
    by decide +kernel⟩

theorem test_serviceEnter_can_run :
    (∃ (s : State) (m : Master), s.canonical = true ∧ s.admits m Reg.INST_CTL = true ∧ s.inService = true ∧ s.stage = 6) ∧
    (∃ (s : State) (m : Master), s.canonical = true ∧ s.admits m Reg.INST_CTL = true ∧ (s.inService = false ∨ s.stage <
      6)) :=
  ⟨⟨running.fon Reg.INST_STATUS_READY |>.fset Reg.INST_STATUS_STAGE 6, .aon, by decide +kernel⟩,
    ⟨running.foff Reg.INST_STATUS_READY, .aon, by decide +kernel⟩⟩

theorem test_serviceLeave_can_run :
    (∃ (s : State) (m : Master), s.canonical = true ∧ s.admits m Reg.INST_CTL = true ∧ s.inService = true ∧ s.stage = 7) ∧
    (∃ (s : State) (m : Master), s.canonical = true ∧ s.admits m Reg.INST_CTL = true ∧ (s.inService = false ∨ s.stage <
      6)) :=
  ⟨⟨running.fon Reg.INST_STATUS_READY |>.fset Reg.INST_STATUS_STAGE 7, .aon, by decide +kernel⟩,
    ⟨running.foff Reg.INST_STATUS_READY, .aon, by decide +kernel⟩⟩

theorem test_perstDeassert_can_run : ∃ (s : State) (refclk : Bool), s.canonical = true ∧ s.down = false :=
  ⟨running.fset Reg.INST_STATUS_STAGE 2, true, by decide +kernel⟩

theorem test_cocoon_can_run :
    (∃ (s : State) (m : Master), s.canonical = true ∧ s.admits m Reg.INST_CTL = true ∧ s.fbit Reg.INST_STATUS_COCOON =
      false ∧ 6 ≤ s.stage ∧ s.aon.imgCopied = true ∧ s.fbit Reg.INST_STATUS_FAILED = false) ∧
    (∃ (s : State) (m : Master), s.canonical = true ∧ s.admits m Reg.INST_CTL = true ∧ (s.fbit Reg.INST_STATUS_COCOON =
      true ∨ s.stage < 6 ∨ s.aon.imgCopied = false ∨ s.fbit Reg.INST_STATUS_FAILED = true)) :=
  ⟨⟨running.foff Reg.INST_STATUS_COCOON |>.fset Reg.INST_STATUS_STAGE 6 |>.foff Reg.INST_STATUS_FAILED |>.onAon fun a =>
      { a with imgCopied := true }, .aon, by decide +kernel⟩,
    ⟨running.onAon fun a => { a with imgCopied := false }, .aon, by decide +kernel⟩⟩

theorem test_cocoonEnd_can_run :
    (∃ (s : State) (wellFormed : Bool) (regs : List (Nat × Word)) (bytes : List (Nat × Byte)) (cores : BitVec 16) (x :
      Nat), s.canonical = true ∧ s.down = false ∧ s.mayLoad = true ∧ s.fbit Reg.INST_STATUS_COCOON = true ∧ s.copyRight =
      true ∧ wellFormed = true ∧ (((s.loadImage regs bytes).regWrite .aon Reg.FLT_WDOG (wordSet ((s.loadImage regs
      bytes).rd Reg.FLT_WDOG) 31 31 1)).stepEnable).stepOn = true ∧ regs = [] ∧ x ∉ bytes.map Prod.fst) ∧
    (∃ (s : State) (wellFormed : Bool) (regs : List (Nat × Word)) (bytes : List (Nat × Byte)) (cores : BitVec 16) (x :
      Nat), s.canonical = true ∧ s.down = false ∧ s.mayLoad = true ∧ s.fbit Reg.INST_STATUS_COCOON = true ∧ s.copyRight =
      true ∧ wellFormed = true ∧ (((s.loadImage regs bytes).regWrite .aon Reg.FLT_WDOG (wordSet ((s.loadImage regs
      bytes).rd Reg.FLT_WDOG) 31 31 1)).stepEnable).stepOn = false) ∧
    (∃ (s : State) (wellFormed : Bool) (regs : List (Nat × Word)) (bytes : List (Nat × Byte)) (cores : BitVec 16),
      s.canonical = true ∧ s.down = false ∧ s.mayLoad = true ∧ s.fbit Reg.INST_STATUS_COCOON = true ∧ (s.copyRight =
      false ∨ wellFormed = false)) ∧
    (∃ (s : State) (wellFormed : Bool) (regs : List (Nat × Word)) (bytes : List (Nat × Byte)) (cores : BitVec 16),
      s.canonical = true ∧ s.down = false ∧ (s.mayLoad = false ∨ s.fbit Reg.INST_STATUS_COCOON = false)) :=
  ⟨⟨running.fset Reg.INST_STATUS_STAGE 6 |>.foff Reg.INST_STATUS_FAILED |>.foff Reg.INST_STATUS_READY |>.fon
      Reg.INST_STATUS_COCOON |>.fon Reg.TB_STEP_CTL_EN, true, [], [], 3, 6, by decide +kernel⟩,
    ⟨running.fset Reg.INST_STATUS_STAGE 6 |>.foff Reg.INST_STATUS_FAILED |>.foff Reg.INST_STATUS_READY |>.fon
      Reg.INST_STATUS_COCOON |>.fon Reg.TB_STEP_CTL_EN |>.foff Reg.TB_STEP_CTL_EN, true, [], [(5,7)], 3, 6,
      by decide +kernel⟩,
    ⟨running.fset Reg.INST_STATUS_STAGE 6 |>.foff Reg.INST_STATUS_FAILED |>.foff Reg.INST_STATUS_READY |>.fon
      Reg.INST_STATUS_COCOON |>.fon Reg.TB_STEP_CTL_EN, false, [], [], 3, by decide +kernel⟩,
    ⟨running.fset Reg.INST_STATUS_STAGE 5, true, [], [], 3, by decide +kernel⟩⟩

theorem test_substitutionRequest_can_run :
    (∃ (s : State) (m : Master) (tile : Bool) (east : Bool) (row : Fin 16) (col : Fin 64) (x : Nat), s.canonical = true ∧
      s.admits m Reg.INST_SUB_REQ = true ∧ s.aon.subPend = none ∧ s.rowDefects (if tile then 32 + 4 * (if east then 1
      else 0) + row.val else 16 * (if east then 1 else 0) + row.val) = [] ∧ col.val < rowCols (if tile then 32 + 4 * (if
      east then 1 else 0) + row.val else 16 * (if east then 1 else 0) + row.val) - 1 ∧ (tile = false ∨ row.val < 4) ∧
      s.stepOn = false ∧ s.rowBusy (if tile then 32 + 4 * (if east then 1 else 0) + row.val else 16 * (if east then 1
      else 0) + row.val) col = false ∧ tile = false ∧ (x < winAddr (32 * (if tile then 32 + 4 * (if east then 1 else 0) +
      row.val else 16 * (if east then 1 else 0) + row.val) + col) 0 ∨ winAddr (32 * (if tile then 32 + 4 * (if east then
      1 else 0) + row.val else 16 * (if east then 1 else 0) + row.val) + 32) 0 ≤ x)) ∧
    (∃ (s : State) (m : Master) (tile : Bool) (east : Bool) (row : Fin 16) (col : Fin 64) (x : Nat), s.canonical = true ∧
      s.admits m Reg.INST_SUB_REQ = true ∧ s.aon.subPend = none ∧ s.rowDefects (if tile then 32 + 4 * (if east then 1
      else 0) + row.val else 16 * (if east then 1 else 0) + row.val) = [] ∧ col.val < rowCols (if tile then 32 + 4 * (if
      east then 1 else 0) + row.val else 16 * (if east then 1 else 0) + row.val) - 1 ∧ (tile = false ∨ row.val < 4) ∧
      s.stepOn = false ∧ s.rowBusy (if tile then 32 + 4 * (if east then 1 else 0) + row.val else 16 * (if east then 1
      else 0) + row.val) col = false ∧ tile = true ∧ (x < 0x80000000000 ∨ (0x80030000000 ≤ x ∧ (x < 0x83100000000 +
      0x80000 * (8 * ((if tile then 32 + 4 * (if east then 1 else 0) + row.val else 16 * (if east then 1 else 0) +
      row.val) - 32) + col) ∨ 0x83100000000 + 0x80000 * (8 * ((if tile then 32 + 4 * (if east then 1 else 0) + row.val
      else 16 * (if east then 1 else 0) + row.val) - 32) + 8) ≤ x)) ∨ (x < 0x80030000000 ∧ 0x80000000000 ≤ x ∧ (sliceOf
      (x - 0x80000000000) / 4 < 8 * ((if tile then 32 + 4 * (if east then 1 else 0) + row.val else 16 * (if east then 1
      else 0) + row.val) - 32) + col ∨ 8 * ((if tile then 32 + 4 * (if east then 1 else 0) + row.val else 16 * (if east
      then 1 else 0) + row.val) - 32) + 8 ≤ sliceOf (x - 0x80000000000) / 4)))) ∧
    (∃ (s : State) (m : Master) (tile : Bool) (east : Bool) (row : Fin 16) (col : Fin 64), s.canonical = true ∧ s.admits
      m Reg.INST_SUB_REQ = true ∧ s.aon.subPend = none ∧ s.rowDefects (if tile then 32 + 4 * (if east then 1 else 0) +
      row.val else 16 * (if east then 1 else 0) + row.val) = [] ∧ col.val < rowCols (if tile then 32 + 4 * (if east then
      1 else 0) + row.val else 16 * (if east then 1 else 0) + row.val) - 1 ∧ (tile = false ∨ row.val < 4) ∧ s.stepOn =
      true ∧ s.rowBusy (if tile then 32 + 4 * (if east then 1 else 0) + row.val else 16 * (if east then 1 else 0) +
      row.val) col = false) ∧
    (∃ (s : State) (m : Master) (tile : Bool) (east : Bool) (row : Fin 16) (col : Fin 64), s.canonical = true ∧ s.admits
      m Reg.INST_SUB_REQ = true ∧ s.aon.subPend = none ∧ (s.rowDefects (if tile then 32 + 4 * (if east then 1 else 0) +
      row.val else 16 * (if east then 1 else 0) + row.val) ≠ [] ∨ rowCols (if tile then 32 + 4 * (if east then 1 else 0)
      + row.val else 16 * (if east then 1 else 0) + row.val) - 1 ≤ col.val ∨ (tile = true ∧ 4 ≤ row.val))) ∧
    (∃ (s : State) (m : Master) (tile : Bool) (east : Bool) (row : Fin 16) (col : Fin 64), s.canonical = true ∧ s.admits
      m Reg.INST_SUB_REQ = true ∧ s.aon.subPend = none ∧ s.rowDefects (if tile then 32 + 4 * (if east then 1 else 0) +
      row.val else 16 * (if east then 1 else 0) + row.val) = [] ∧ col.val < rowCols (if tile then 32 + 4 * (if east then
      1 else 0) + row.val else 16 * (if east then 1 else 0) + row.val) - 1 ∧ (tile = false ∨ row.val < 4) ∧ s.rowBusy (if
      tile then 32 + 4 * (if east then 1 else 0) + row.val else 16 * (if east then 1 else 0) + row.val) col = true) ∧
    (∃ (s : State) (m : Master) (tile : Bool) (east : Bool) (row : Fin 16) (col : Fin 64), s.canonical = true ∧ s.admits
      m Reg.INST_SUB_REQ = true ∧ s.aon.subPend.isSome = true) :=
  ⟨⟨running, .aon, false, true, 3, 31, 0x81000000000, by decide +kernel⟩,
    ⟨running, .aon, true, true, 3, 5, 0x80000000000, by decide +kernel⟩,
    ⟨running.fon Reg.TB_STEP_CTL_EN, .aon, false, true, 3, 31, by decide +kernel⟩,
    ⟨running.onAon fun a => { a with defects := [(19, 4)] }, .aon, false, true, 3, 31, by decide +kernel⟩,
    ⟨running.fon (Reg.NC_CTL_EN (19 * 32 + 31)), .aon, false, true, 3, 31, by decide +kernel⟩,
    ⟨running.onAon fun a => { a with subPend := some (false, 0, 1, 2) }, .aon, false, true, 3, 31, by decide +kernel⟩⟩

theorem test_pcieLinkChange_can_run : ∃ (s : State) (up : Bool), s.canonical = true ∧ s.down = false :=
  ⟨running.onAon fun a => { a with pcieTraining := true }, true, by decide +kernel⟩

theorem test_pcieConfigRequest_can_run :
    (∃ (s : State) (write : Bool) (busMaster : Bool) (memEnable : Bool) (mps : Fin 6) (mrrs : Fin 6), s.canonical = true
      ∧ s.down = false ∧ s.aon.pcieUp = true ∧ s.barOpen = true ∧ write = true) ∧
    (∃ (s : State) (write : Bool) (busMaster : Bool) (memEnable : Bool) (mps : Fin 6) (mrrs : Fin 6), s.canonical = true
      ∧ s.down = false ∧ s.aon.pcieUp = true ∧ s.barOpen = true ∧ write = false) ∧
    (∃ (s : State) (write : Bool) (busMaster : Bool) (memEnable : Bool) (mps : Fin 6) (mrrs : Fin 6), s.canonical = true
      ∧ s.down = false ∧ s.aon.pcieUp = true ∧ s.barOpen = false) ∧
    (∃ (s : State) (write : Bool) (busMaster : Bool) (memEnable : Bool) (mps : Fin 6) (mrrs : Fin 6), s.canonical = true
      ∧ s.down = false ∧ s.aon.pcieUp = false) :=
  ⟨⟨running.onAon (fun a => { a with pcieUp := true }) |>.fset Reg.INST_STATUS_STAGE 6, true, true, false, 2, 3,
      by decide +kernel⟩,
    ⟨running.onAon (fun a => { a with pcieUp := true }) |>.fset Reg.INST_STATUS_STAGE 6, false, true, false, 2, 3,
      by decide +kernel⟩,
    ⟨running.onAon (fun a => { a with pcieUp := true }) |>.fset Reg.INST_STATUS_STAGE 3, true, true, false, 2, 3,
      by decide +kernel⟩,
    ⟨running.onAon (fun a => { a with pcieUp := false }), true, true, false, 2, 3, by decide +kernel⟩⟩

theorem test_bcOpen_can_run :
    (∃ (s : State) (session : BitVec 16) (seqs : Bool) (mask : BitVec 8) (first : BitVec 16) (last : BitVec 16) (offset :
      Word) (nchunk : BitVec 16) (digest : BitVec 256) (r : Nat), s.canonical = true ∧ s.down = false ∧ r ∈ s.selected
      seqs mask.toNat first.toNat last.toNat ∧ s.targetOn r = false) ∧
    (∃ (s : State) (session : BitVec 16) (seqs : Bool) (mask : BitVec 8) (first : BitVec 16) (last : BitVec 16) (offset :
      Word) (nchunk : BitVec 16) (digest : BitVec 256) (r : Nat), s.canonical = true ∧ s.down = false ∧ r ∈ s.selected
      seqs mask.toNat first.toNat last.toNat ∧ s.targetOn r = true) ∧
    (∃ (s : State) (session : BitVec 16) (seqs : Bool) (mask : BitVec 8) (first : BitVec 16) (last : BitVec 16) (offset :
      Word) (nchunk : BitVec 16) (digest : BitVec 256) (r : Nat), s.canonical = true ∧ s.down = false ∧ r < 1152 ∧ ¬ (r ∈
      s.selected seqs mask.toNat first.toNat last.toNat)) :=
  ⟨⟨running.foff (Reg.NC_CTL_EN 3) |>.fset Reg.AON_ID_DEVID 0, 7, false, 1, 2, 4, 512, 9, 55, 3, by decide +kernel⟩,
    ⟨running.fon (Reg.NC_CTL_EN 3) |>.fset Reg.AON_ID_DEVID 0, 7, false, 1, 2, 4, 512, 9, 55, 3, by decide +kernel⟩,
    ⟨running.foff (Reg.NC_CTL_EN 3) |>.fset Reg.AON_ID_DEVID 0, 7, false, 1, 2, 4, 512, 9, 55, 900, by decide +kernel⟩⟩

theorem test_bcChunk_can_run :
    (∃ (s : State) (session : BitVec 16) (index : BitVec 16) (data : List Byte) (r : Fin 1152), s.canonical = true ∧
      s.down = false ∧ s.recvState r = 1 ∧ (s.recv r).session = session.toNat ∧ index.toNat < (s.recv r).nchunk) ∧
    (∃ (s : State) (session : BitVec 16) (index : BitVec 16) (data : List Byte) (r : Fin 1152), s.canonical = true ∧
      s.down = false ∧ s.recvState r = 1 ∧ (s.recv r).session = session.toNat ∧ (s.recv r).nchunk ≤ index.toNat) ∧
    (∃ (s : State) (session : BitVec 16) (index : BitVec 16) (data : List Byte) (r : Fin 1152), s.canonical = true ∧
      s.down = false ∧ ¬ (s.recvState r = 1 ∧ (s.recv r).session = session.toNat)) :=
  ⟨⟨running.setRecvState 3 1 |>.setRecv 3 ⟨7, 512, 9, List.replicate 32 0, 0, false⟩, 7, 2, [4,5,6], 3,
      by decide +kernel⟩,
    ⟨running.setRecvState 3 1 |>.setRecv 3 ⟨7, 512, 9, List.replicate 32 0, 0, false⟩, 7, 9, [4,5,6], 3,
      by decide +kernel⟩,
    ⟨running.setRecvState 3 1 |>.setRecv 3 ⟨7, 512, 9, List.replicate 32 0, 0, false⟩, 8, 2, [4,5,6], 3,
      by decide +kernel⟩⟩

theorem test_bcPoll_can_run : ∃ (s : State) (session : BitVec 16) (round : BitVec 16) (r : Fin 1152), s.canonical = true
  ∧ s.down = false ∧ s.recvState r ≠ 0 ∧ (s.recv r).session = session.toNat :=
  ⟨running.setRecvState 3 1 |>.setRecv 3 ⟨7, 512, 9, List.replicate 32 0, 0, false⟩, 7, 2, 3, by decide +kernel⟩

theorem test_bcHashEnd_can_run :
    (∃ (s : State) (r : Fin 1152), s.canonical = true ∧ s.down = false ∧ s.recvState r = 1 ∧ (s.recv r).hashing = true) ∧
    (∃ (s : State) (r : Fin 1152), s.canonical = true ∧ s.down = false ∧ ¬ (s.recvState r = 1 ∧ (s.recv r).hashing =
      true)) :=
  ⟨⟨running.setRecvState 3 1 |>.setRecv 3 ⟨7, 512, 1, List.replicate 32 0, 0, true⟩, 3, by decide +kernel⟩,
    ⟨running.setRecvState 3 1 |>.setRecv 3 ⟨7, 512, 1, List.replicate 32 0, 0, true⟩, 4, by decide +kernel⟩⟩

theorem test_bcReport_can_run : ∃ (s : State) (words : List (BitVec 16)), s.canonical = true ∧ s.down = false :=
  ⟨running, [1,2], by decide +kernel⟩

theorem test_bcRepair_can_run :
    (∃ (s : State) (r : Fin 1152) (session : BitVec 16) (index : BitVec 16) (data : List Byte), s.canonical = true ∧
      s.down = false) ∧
    (∃ (s : State) (r : Fin 1152) (session : BitVec 16) (index : BitVec 16) (data : List Byte), s.canonical = true ∧
      s.down = false ∧ s.recvState r = 1 ∧ (s.recv r).session = session.toNat ∧ (s.recv r).nchunk ≤ index.toNat) ∧
    (∃ (s : State) (r : Fin 1152) (session : BitVec 16) (index : BitVec 16) (data : List Byte), s.canonical = true ∧
      s.down = false ∧ ¬ (s.recvState r = 1 ∧ (s.recv r).session = session.toNat)) :=
  ⟨⟨running.setRecvState 3 1 |>.setRecv 3 ⟨7, 512, 9, List.replicate 32 0, 0, false⟩, 3, 7, 2, [4,5,6],
      by decide +kernel⟩,
    ⟨running.setRecvState 3 1 |>.setRecv 3 ⟨7, 512, 9, List.replicate 32 0, 0, false⟩, 3, 7, 9, [4,5,6],
      by decide +kernel⟩,
    ⟨running.setRecvState 3 1 |>.setRecv 3 ⟨7, 512, 9, List.replicate 32 0, 0, false⟩, 3, 8, 2, [4,5,6],
      by decide +kernel⟩⟩

theorem test_bcClose_can_run :
    (∃ (s : State) (session : BitVec 16) (r : Fin 1152), s.canonical = true ∧ s.down = false ∧ s.recvState r = 1 ∧
      (s.recv r).session = session.toNat) ∧
    (∃ (s : State) (session : BitVec 16) (r : Fin 1152), s.canonical = true ∧ s.down = false ∧ ¬ (s.recvState r = 1 ∧
      (s.recv r).session = session.toNat)) :=
  ⟨⟨running.setRecvState 3 1 |>.setRecv 3 ⟨7, 512, 9, List.replicate 32 0, 0, false⟩, 7, 3, by decide +kernel⟩,
    ⟨running.setRecvState 3 1 |>.setRecv 3 ⟨7, 512, 9, List.replicate 32 0, 0, false⟩, 8, 3, by decide +kernel⟩⟩

theorem test_brxClear_can_run : ∃ (s : State) (m : Master) (r : Fin 1152), s.canonical = true ∧ s.admits m
  (Reg.BRX_STATUS r) = true :=
  ⟨running.setRecvState 3 1 |>.setRecv 3 ⟨7, 512, 9, List.replicate 32 0, 0, false⟩, .aon, 3, by decide +kernel⟩

theorem test_chrOpen_can_run :
    (∃ (s : State) (m : Master), s.canonical = true ∧ s.admits m Reg.CHR_CMD = true ∧ (s.chrState = 0 ∨ s.chrState = 4 ∨
      s.chrState = 6)) ∧
    (∃ (s : State) (m : Master), s.canonical = true ∧ s.admits m Reg.CHR_CMD = true ∧ (¬ (s.chrState = 0 ∨ s.chrState = 4
      ∨ s.chrState = 6))) :=
  ⟨⟨running.setChr 6, .aon, by decide +kernel⟩,
    ⟨running.setChr 5, .aon, by decide +kernel⟩⟩

theorem test_chrEntryWrite_can_run :
    (∃ (s : State) (m : Master) (i : Fin 4096) (word : Fin 3) (value : Word), s.canonical = true ∧ s.admits m
      (Reg.CHR_ENT_ADDR i + 4 * word) = true ∧ s.chrTakes m = true) ∧
    (∃ (s : State) (m : Master) (i : Fin 4096) (word : Fin 3) (value : Word), s.canonical = true ∧ s.admits m
      (Reg.CHR_ENT_ADDR i + 4 * word) = true ∧ s.chrTakes m = false ∧ s.rd (Reg.CHR_ENT_ADDR i + 4 * word) ≠ value) :=
  ⟨⟨running.setChr 3 |>.fset Reg.CHR_STATUS_OWNER 0, .aon, 4, 1, 77, by decide +kernel⟩,
    ⟨running.setChr 5, .aon, 4, 1, 77, by decide +kernel⟩⟩

theorem test_chrNentWrite_can_run :
    (∃ (s : State) (m : Master) (count : BitVec 13), s.canonical = true ∧ s.admits m Reg.CHR_NENT = true ∧ s.chrTakes m =
      true) ∧
    (∃ (s : State) (m : Master) (count : BitVec 13), s.canonical = true ∧ s.admits m Reg.CHR_NENT = true ∧ s.chrTakes m =
      false ∧ s.rd Reg.CHR_NENT ≠ count.zeroExtend 32) :=
  ⟨⟨running.setChr 3 |>.fset Reg.CHR_STATUS_OWNER 0, .aon, 4, by decide +kernel⟩,
    ⟨running.setChr 5, .aon, 4, by decide +kernel⟩⟩

theorem test_chrValidate_can_run :
    (∃ (s : State) (m : Master), s.canonical = true ∧ s.admits m Reg.CHR_CMD = true ∧ (s.chrOwner m = true ∧ (s.chrState
      = 1 ∨ s.chrState = 4))) ∧
    (∃ (s : State) (m : Master), s.canonical = true ∧ s.admits m Reg.CHR_CMD = true ∧ (¬ (s.chrOwner m = true ∧
      (s.chrState = 1 ∨ s.chrState = 4)))) :=
  ⟨⟨running.setChr 4 |>.fset Reg.CHR_STATUS_OWNER 0, .aon, by decide +kernel⟩,
    ⟨running.setChr 5, .aon, by decide +kernel⟩⟩

theorem test_chrValidationEnd_can_run :
    (∃ (s : State) (x : Nat × Nat), s.canonical = true ∧ s.down = false ∧ s.chrState = 2) ∧
    (∃ (s : State) (x : Nat × Nat), s.canonical = true ∧ s.down = false ∧ s.chrState = 2 ∧ 0 < s.nent ∧ s.nent ≤ 4096 ∧
      (s.checkEntries s.ownerLevel 0 s.chrEntries).2 = some x) ∧
    (∃ (s : State) (x : Nat × Nat), s.canonical = true ∧ s.down = false ∧ s.chrState = 2 ∧ (s.nent = 0 ∨ 4096 < s.nent)) ∧
    (∃ (s : State), s.canonical = true ∧ s.down = false ∧ s.chrState ≠ 2) :=
  ⟨⟨running.setChr 2 |>.wr Reg.CHR_NENT 1 |>.wr (Reg.CHR_ENT_ADDR 0) 0x40104 |>.wr (Reg.CHR_ENT_MASK 0) 0xFFFF, (0, 1),
      by decide +kernel⟩,
    ⟨running.setChr 2 |>.wr Reg.CHR_NENT 1 |>.wr (Reg.CHR_ENT_ADDR 0) 0x48 |>.wr (Reg.CHR_ENT_MASK 0) 0xFFFF, (0, 1),
      by decide +kernel⟩,
    ⟨running.setChr 2 |>.wr Reg.CHR_NENT 0, (0, 1), by decide +kernel⟩,
    ⟨running.setChr 3, by decide +kernel⟩⟩

theorem test_chrCommit_can_run :
    (∃ (s : State) (m : Master) (u : Nat), s.canonical = true ∧ s.admits m Reg.CHR_CMD = true ∧ s.chrOwner m = true ∧
      s.chrState = 3 ∧ s.chrInstant = .inl u) ∧
    (∃ (s : State) (m : Master) (u : Nat), s.canonical = true ∧ s.admits m Reg.CHR_CMD = true ∧ s.chrOwner m = true ∧
      s.chrState = 3 ∧ s.chrInstant = .inr u) ∧
    (∃ (s : State) (m : Master), s.canonical = true ∧ s.admits m Reg.CHR_CMD = true ∧ ¬ (s.chrOwner m = true ∧ s.chrState
      = 3)) :=
  ⟨⟨running.setChr 3 |>.fset Reg.CHR_STATUS_OWNER 0 |>.wr Reg.CHR_NENT 1 |>.wr (Reg.CHR_ENT_ADDR 0) 0x40104 |>.fon
      Reg.CHR_WHEN_MODE |>.wr64 Reg.CHR_AT_LO (2 ^ 50), .aon, (2 ^ 50), by decide +kernel⟩,
    ⟨running.setChr 3 |>.fset Reg.CHR_STATUS_OWNER 0 |>.wr Reg.CHR_NENT 1 |>.wr (Reg.CHR_ENT_ADDR 0) 0x40104 |>.fon
      Reg.CHR_WHEN_MODE |>.wr64 Reg.CHR_AT_LO 5, .aon, 9, by decide +kernel⟩,
    ⟨running.setChr 4, .aon, by decide +kernel⟩⟩

theorem test_chrAbort_can_run :
    (∃ (s : State) (m : Master), s.canonical = true ∧ s.admits m Reg.CHR_CMD = true ∧ ((s.level m = 2 ∨ (s.chrOwner m =
      true ∧ s.chrState ∈ [1, 3, 4, 5])) ∧ (s.chrState = 5 → s.abortInTime = true))) ∧
    (∃ (s : State) (m : Master), s.canonical = true ∧ s.admits m Reg.CHR_CMD = true ∧ (¬ ((s.level m = 2 ∨ (s.chrOwner m
      = true ∧ s.chrState ∈ [1, 3, 4, 5])) ∧ (s.chrState = 5 → s.abortInTime = true)))) :=
  ⟨⟨running.setChr 4 |>.fset Reg.CHR_STATUS_OWNER 0, .aon, by decide +kernel⟩,
    ⟨running.setChr 5 |>.fon Reg.CHR_WHEN_MODE |>.onChr fun c => { c with at_ := 0 }, .aon, by decide +kernel⟩⟩

theorem test_commitInstant_can_run :
    (∃ (s : State) (e : Word × Word × Word) (n o : Nat), s.canonical = true ∧ s.down = false ∧ s.instantDue = true ∧
      s.chr.armed = [e] ∧ chrTarget e.1 = .win n o ∧ s.fbit (Reg.NC_CTL_EN n) = false) ∧
    (∃ (s : State) (e : Word × Word × Word) (n o : Nat), s.canonical = true ∧ s.down = false ∧ s.instantDue = true ∧
      s.chr.armed = []) ∧
    (∃ (s : State) (e : Word × Word × Word) (n o : Nat), s.canonical = true ∧ s.down = false ∧ s.instantDue = true ∧
      s.chr.armed = [e] ∧ chrTarget e.1 = .win n o ∧ s.fbit (Reg.NC_CTL_EN n) = true) ∧
    (∃ (s : State), s.canonical = true ∧ s.down = false ∧ s.instantDue = false) :=
  ⟨⟨running.setChr 5 |>.fon Reg.CHR_WHEN_MODE |>.onChr fun c => { c with armed := [(0x80200010, 5, 0xFF)], at_ := 0 },
      (0x80200010, 5, 0xFF), 1, 0x10, by decide +kernel⟩,
    ⟨running.setChr 5 |>.fon Reg.CHR_WHEN_MODE |>.onChr fun c => { c with armed := [], at_ := 0 }, (0x80200010, 5, 0xFF),
      1, 0x10, by decide +kernel⟩,
    ⟨running.fon (Reg.NC_CTL_EN 1) |>.setChr 5 |>.fon Reg.CHR_WHEN_MODE |>.onChr fun c =>
      { c with armed := [(0x80200010, 5, 0xFF)], at_ := 0 }, (0x80200010, 5, 0xFF), 1, 0x10, by decide +kernel⟩,
    ⟨running.setChr 4, by decide +kernel⟩⟩

theorem test_setLoad_can_run :
    (∃ (s : State) (m : Master) (sector : Fin 1024), s.canonical = true ∧ s.admits m Reg.SET_CMD = true ∧ s.setBusy =
      false ∧ sectorLevel sector ≤ s.level m ∧ ¬ (33 ≤ sector.val ∧ sector.val < 48) ∧ s.sectorUsed sector ≠ none) ∧
    (∃ (s : State) (m : Master) (sector : Fin 1024), s.canonical = true ∧ s.admits m Reg.SET_CMD = true ∧ s.setBusy =
      false ∧ sectorLevel sector ≤ s.level m ∧ 33 ≤ sector.val ∧ sector.val < 48) ∧
    (∃ (s : State) (m : Master) (sector : Fin 1024), s.canonical = true ∧ s.admits m Reg.SET_CMD = true ∧ s.setBusy =
      false ∧ sectorLevel sector ≤ s.level m ∧ ¬ (33 ≤ sector.val ∧ sector.val < 48) ∧ s.sectorUsed sector = none) ∧
    (∃ (s : State) (m : Master) (sector : Fin 1024), s.canonical = true ∧ s.admits m Reg.SET_CMD = true ∧ s.setBusy =
      false ∧ s.level m < sectorLevel sector) ∧
    (∃ (s : State) (m : Master) (sector : Fin 1024), s.canonical = true ∧ s.admits m Reg.SET_CMD = true ∧ s.setBusy =
      true) :=
  ⟨⟨running.foff Reg.SET_STATUS_BUSY, .aon, 70, by decide +kernel⟩,
    ⟨running.foff Reg.SET_STATUS_BUSY, .aon, 40, by decide +kernel⟩,
    ⟨running.foff Reg.SET_STATUS_BUSY |> fun s =>
      { s with store := { s.store with copyA := [(70, ⟨0, false⟩)], copyB := [(70, ⟨0, false⟩)] } }, .aon, 70,
      by decide +kernel⟩,
    ⟨running.foff Reg.SET_STATUS_BUSY, (.app 0 false), 50, by decide +kernel⟩,
    ⟨running.fon Reg.SET_STATUS_BUSY, .aon, 70, by decide +kernel⟩⟩

theorem test_setStore_can_run :
    (∃ (s : State) (m : Master) (sector : Fin 1024), s.canonical = true ∧ s.admits m Reg.SET_CMD = true ∧ s.setBusy =
      false ∧ sectorLevel sector ≤ s.level m ∧ s.storeErr sector = 0 ∧ sector.val ∉ s.store.storedNow) ∧
    (∃ (s : State) (m : Master) (sector : Fin 1024), s.canonical = true ∧ s.admits m Reg.SET_CMD = true ∧ s.setBusy =
      false ∧ s.level m < sectorLevel sector) ∧
    (∃ (s : State) (m : Master) (sector : Fin 1024), s.canonical = true ∧ s.admits m Reg.SET_CMD = true ∧ s.setBusy =
      false ∧ sectorLevel sector ≤ s.level m ∧ s.storeErr sector ≠ 0) ∧
    (∃ (s : State) (m : Master) (sector : Fin 1024), s.canonical = true ∧ s.admits m Reg.SET_CMD = true ∧ s.setBusy =
      false ∧ sectorLevel sector ≤ s.level m ∧ s.storeErr sector = 0 ∧ sector.val ∈ s.store.storedNow) ∧
    (∃ (s : State) (m : Master) (sector : Fin 1024), s.canonical = true ∧ s.admits m Reg.SET_CMD = true ∧ s.setBusy =
      true) :=
  ⟨⟨running.foff Reg.SET_STATUS_BUSY, .aon, 70, by decide +kernel⟩,
    ⟨running.foff Reg.SET_STATUS_BUSY, (.app 0 false), 50, by decide +kernel⟩,
    ⟨running.foff Reg.SET_STATUS_BUSY, .aon, 5, by decide +kernel⟩,
    ⟨running.foff Reg.SET_STATUS_BUSY |>.onStore fun t => { t with storedNow := [70] }, .aon, 70, by decide +kernel⟩,
    ⟨running.fon Reg.SET_STATUS_BUSY, .aon, 70, by decide +kernel⟩⟩

theorem test_storeEnd_can_run :
    (∃ (s : State) (verified : Bool) (j : Fin 4096), s.canonical = true ∧ s.down = false ∧ s.setBusy = true ∧
      s.store.programming = true ∧ verified = true) ∧
    (∃ (s : State) (verified : Bool) (j : Fin 4096), s.canonical = true ∧ s.down = false ∧ s.setBusy = true ∧
      s.store.programming = true ∧ verified = false) ∧
    (∃ (s : State) (verified : Bool), s.canonical = true ∧ s.down = false ∧ (s.setBusy = false ∨ s.store.programming =
      false)) :=
  ⟨⟨running.fon Reg.SET_STATUS_BUSY |>.fset Reg.SET_STATUS_SECTOR 70 |>.onStore fun t => { t with programming := true },
      true, 9, by decide +kernel⟩,
    ⟨running.fon Reg.SET_STATUS_BUSY |>.fset Reg.SET_STATUS_SECTOR 70 |>.onStore fun t => { t with programming := true },
      false, 9, by decide +kernel⟩,
    ⟨running.foff Reg.SET_STATUS_BUSY, true, by decide +kernel⟩⟩

theorem test_storeThrottleRelease_can_run :
    (∃ (s : State), s.canonical = true ∧ s.down = false ∧ s.fbit Reg.SET_STATUS_THROTTLE = true ∧ s.fget
      Reg.SET_STATUS_SECTOR ∉ s.store.storedNow) ∧
    (∃ (s : State), s.canonical = true ∧ s.down = false ∧ (s.fbit Reg.SET_STATUS_THROTTLE = false ∨ s.fget
      Reg.SET_STATUS_SECTOR ∈ s.store.storedNow)) :=
  ⟨⟨running.fon Reg.SET_STATUS_THROTTLE |>.fset Reg.SET_STATUS_SECTOR 70, by decide +kernel⟩,
    ⟨running.foff Reg.SET_STATUS_THROTTLE, by decide +kernel⟩⟩

theorem test_setXspi_can_run :
    (∃ (s : State) (m : Master) (answer : List Byte), s.canonical = true ∧ s.admits m Reg.SET_CMD = true ∧ s.setBusy =
      false ∧ s.fbit Reg.SET_XSPI_CMD_DIR = false) ∧
    (∃ (s : State) (m : Master) (answer : List Byte), s.canonical = true ∧ s.admits m Reg.SET_CMD = true ∧ s.setBusy =
      false ∧ s.fbit Reg.SET_XSPI_CMD_DIR = true) ∧
    (∃ (s : State) (m : Master) (answer : List Byte), s.canonical = true ∧ s.admits m Reg.SET_CMD = true ∧ s.setBusy =
      true) :=
  ⟨⟨running.foff Reg.SET_STATUS_BUSY |>.foff Reg.SET_XSPI_CMD_DIR |>.fset Reg.SET_XSPI_CMD_LEN 6, .aon,
      [1,2,3,4,5,6,7,8], by decide +kernel⟩,
    ⟨running.foff Reg.SET_STATUS_BUSY |>.fon Reg.SET_XSPI_CMD_DIR, .aon, [1,2,3,4,5,6,7,8], by decide +kernel⟩,
    ⟨running.fon Reg.SET_STATUS_BUSY, .aon, [], by decide +kernel⟩⟩

theorem test_registerWrite_can_run :
    (∃ (s : State) (m : Master) (off : BitVec 28) (size : BitVec 4) (value : BitVec 64) (rsvKept : Bool) (bar2 : Bool)
      (src : Fin 26), s.canonical = true ∧ s.down = false ∧ off.toNat = Reg.FLT_SRC_WIN src ∧ s.admits m (Reg.FLT_SRC_WIN
      src) = true ∧ size = 4 ∧ rsvKept = true ∧ bar2 = false) ∧
    (∃ (s : State) (m : Master) (off : BitVec 28) (size : BitVec 4) (value : BitVec 64) (rsvKept : Bool) (bar2 : Bool),
      s.canonical = true ∧ s.down = false ∧ (rsvKept = true ∨ (∀ w ∈ accessWrites off.toNat size.toNat value,
      s.meetsReserved m w.1 = false)) ∧ bar2 = false) ∧
    (∃ (s : State) (m : Master) (off : BitVec 28) (size : BitVec 4) (value : BitVec 64) (rsvKept : Bool) (bar2 : Bool),
      s.canonical = true ∧ s.down = false ∧ (rsvKept = true ∨ (∀ w ∈ accessWrites off.toNat size.toNat value,
      s.meetsReserved m w.1 = false)) ∧ bar2 = false ∧ accessWrites off.toNat size.toNat value = []) ∧
    (∃ (s : State) (m : Master) (off : BitVec 28) (size : BitVec 4) (value : BitVec 64) (rsvKept : Bool) (bar2 : Bool),
      s.canonical = true ∧ s.down = false ∧ bar2 = true) ∧
    (∃ (s : State) (m : Master) (off : BitVec 28) (size : BitVec 4) (value : BitVec 64) (rsvKept : Bool) (bar2 : Bool),
      s.canonical = true ∧ s.down = false ∧ bar2 = true ∧ (m ≠ .pcie ∨ accessWrites off.toNat size.toNat value = [])) :=
  ⟨⟨running, .aon, 0x40114, 4, 0x12345678, true, false, 1, by decide +kernel⟩,
    ⟨running, .aon, 0x40114, 4, 0x12345678, true, false, by decide +kernel⟩,
    ⟨running, .aon, 0x40116, 4, 5, true, false, by decide +kernel⟩,
    ⟨running, .pcie, 0x20, 4, 1, true, true, by decide +kernel⟩,
    ⟨running, .aon, 0x20, 4, 1, true, true, by decide +kernel⟩⟩

theorem test_voteScan_can_run :
    (∃ (s : State) (upsets : List (BitVec 28 × Fin 3 × Word)) (o : BitVec 28) (c : Fin 3) (w : Word), s.canonical = true
      ∧ s.down = false ∧ upsets = [(o, c, w)] ∧ triplicated o.toNat = true ∧ w ≠ s.rd o.toNat) ∧
    (∃ (s : State) (upsets : List (BitVec 28 × Fin 3 × Word)) (o : BitVec 28) (c : Fin 3) (w : Word), s.canonical = true
      ∧ s.down = false ∧ upsets = []) ∧
    (∃ (s : State) (upsets : List (BitVec 28 × Fin 3 × Word)) (o : BitVec 28) (c : Fin 3) (w : Word), s.canonical = true
      ∧ s.down = false ∧ upsets = [(o, c, w)] ∧ (triplicated o.toNat = false ∨ w = s.rd o.toNat)) :=
  ⟨⟨running.foff Reg.AON_STATUS_VOTE |>.wr Reg.AON_LIMITS 6, [(0x40, 1, 5)], 0x40, 1, 5, by decide +kernel⟩,
    ⟨running.foff Reg.AON_STATUS_VOTE |>.wr Reg.AON_LIMITS 6, [], 0x40, 1, 5, by decide +kernel⟩,
    ⟨running.foff Reg.AON_STATUS_VOTE |>.wr Reg.AON_LIMITS 6, [(0x44444, 1, 5)], 0x44444, 1, 5, by decide +kernel⟩⟩

theorem test_slowTick_can_run :
    (∃ (s : State), s.canonical = true ∧ s.down = false ∧ 1000000000 ≤ (s.now + 2 ^ 64 - s.aon.tickAt) % 2 ^ 64) ∧
    (∃ (s : State), s.canonical = true ∧ s.down = false ∧ (s.now + 2 ^ 64 - s.aon.tickAt) % 2 ^ 64 < 1000000000) :=
  ⟨⟨running.fon (Reg.FLT_SRC_STAT_WOPEN 3) |>.fset (Reg.FLT_SRC_STAT_TICKS_LEFT 3) 2 |> fun s =>
      { s with counter := 3000000000, aon := { s.aon with tickAt := 1000000000 } }, by decide +kernel⟩,
    ⟨running |> fun s => { s with counter := 3000000000, aon := { s.aon with tickAt := 2500000000 } }, by decide +kernel⟩⟩

theorem test_faultEvent_can_run :
    (∃ (s : State) (src : Fin 26) (kind : Fin 10) (index : BitVec 16) (detail : Word), s.canonical = true ∧ s.down =
      false ∧ (s.resetsAllowed = false ∨ (s.fget (Reg.FLT_SRC_CFG_TREACT src) ||| s.fget (Reg.FLT_SRC_CFG_LREACT src))
      &&& 0b10100 = 0)) ∧
    (∃ (s : State) (src : Fin 26) (kind : Fin 10) (index : BitVec 16) (detail : Word), s.canonical = true ∧ s.down =
      false ∧ (s.resetsAllowed = false ∨ (s.fget (Reg.FLT_SRC_CFG_TREACT src) ||| s.fget (Reg.FLT_SRC_CFG_LREACT src))
      &&& 0b10100 = 0) ∧ s.fbit Reg.FLT_REC_STATUS_PENDING = true) ∧
    (∃ (s : State) (src : Fin 26) (kind : Fin 10) (index : BitVec 16) (detail : Word), s.canonical = true ∧ s.down =
      false ∧ s.resetsAllowed = true ∧ s.fbit Reg.FLT_REC_STATUS_PENDING = false ∧ s.fget (Reg.FLT_SRC_CFG_LREACT src) =
      s.fget (Reg.FLT_SRC_CFG_TREACT src) ∧ bit (s.fget (Reg.FLT_SRC_CFG_TREACT src)) 4 = true) ∧
    (∃ (s : State) (src : Fin 26) (kind : Fin 10) (index : BitVec 16) (detail : Word), s.canonical = true ∧ s.down =
      false ∧ s.resetsAllowed = true ∧ s.fbit Reg.FLT_REC_STATUS_PENDING = false ∧ s.fget (Reg.FLT_SRC_CFG_LREACT src) =
      s.fget (Reg.FLT_SRC_CFG_TREACT src) ∧ bit (s.fget (Reg.FLT_SRC_CFG_TREACT src)) 4 = false ∧ bit (s.fget
      (Reg.FLT_SRC_CFG_TREACT src)) 2 = true ∧ src = 14 ∧ kind = 2 ∧ index.toNat < 64) ∧
    (∃ (s : State) (src : Fin 26) (kind : Fin 10) (index : BitVec 16) (detail : Word), s.canonical = true ∧ s.down =
      false ∧ s.resetsAllowed = true ∧ s.fbit Reg.FLT_REC_STATUS_PENDING = false ∧ s.fget (Reg.FLT_SRC_CFG_LREACT src) =
      s.fget (Reg.FLT_SRC_CFG_TREACT src) ∧ bit (s.fget (Reg.FLT_SRC_CFG_TREACT src)) 4 = false ∧ bit (s.fget
      (Reg.FLT_SRC_CFG_TREACT src)) 2 = true ∧ src = 1 ∧ kind = 1 ∧ index.toNat < 1024) ∧
    (∃ (s : State) (src : Fin 26) (kind : Fin 10) (index : BitVec 16) (detail : Word), s.canonical = true ∧ s.down =
      false ∧ s.resetsAllowed = true ∧ s.fbit Reg.FLT_REC_STATUS_PENDING = false ∧ s.fget (Reg.FLT_SRC_CFG_LREACT src) =
      s.fget (Reg.FLT_SRC_CFG_TREACT src) ∧ bit (s.fget (Reg.FLT_SRC_CFG_TREACT src)) 4 = false ∧ bit (s.fget
      (Reg.FLT_SRC_CFG_TREACT src)) 2 = true ∧ src = 1 ∧ kind = 3 ∧ index.toNat < 128) ∧
    (∃ (s : State) (src : Fin 26) (kind : Fin 10) (index : BitVec 16) (detail : Word), s.canonical = true ∧ s.down =
      false ∧ s.resetsAllowed = true ∧ s.fbit Reg.FLT_REC_STATUS_PENDING = false ∧ s.fget (Reg.FLT_SRC_CFG_LREACT src) =
      s.fget (Reg.FLT_SRC_CFG_TREACT src) ∧ bit (s.fget (Reg.FLT_SRC_CFG_TREACT src)) 4 = false ∧ bit (s.fget
      (Reg.FLT_SRC_CFG_TREACT src)) 2 = true ∧ src ≠ 1 ∧ src ≠ 14) :=
  ⟨⟨running.foff Reg.FLT_REC_STATUS_PENDING |>.wr (Reg.FLT_SRC_STAT 9) 0 |>.fset (Reg.FLT_SRC_WIN_N 9) 4 |>.fset
      (Reg.FLT_SRC_CFG_TREACT 9) 11 |>.fset (Reg.FLT_SRC_CFG_LREACT 9) 3, 9, 3, 7, 55, by decide +kernel⟩,
    ⟨running.fon Reg.FLT_REC_STATUS_PENDING |>.wr (Reg.FLT_SRC_STAT 9) 0 |>.fset (Reg.FLT_SRC_WIN_N 9) 1 |>.fset
      (Reg.FLT_SRC_CFG_TREACT 9) 9 |>.fset (Reg.FLT_SRC_CFG_LREACT 9) 3, 9, 3, 7, 55, by decide +kernel⟩,
    ⟨running.foff Reg.FLT_REC_STATUS_PENDING |>.wr (Reg.FLT_SRC_STAT 14) 0 |>.fset (Reg.FLT_SRC_WIN_N 14) 4 |>.fset
      (Reg.FLT_SRC_CFG_TREACT 14) 17 |>.fset (Reg.FLT_SRC_CFG_LREACT 14) 17 |>.fon Reg.INST_STATUS_READY |>.foff
      Reg.INST_STATUS_COCOON, 14, 2, 7, 55, by decide +kernel⟩,
    ⟨running.foff Reg.FLT_REC_STATUS_PENDING |>.wr (Reg.FLT_SRC_STAT 14) 0 |>.fset (Reg.FLT_SRC_WIN_N 14) 4 |>.fset
      (Reg.FLT_SRC_CFG_TREACT 14) 5 |>.fset (Reg.FLT_SRC_CFG_LREACT 14) 5 |>.fon Reg.INST_STATUS_READY |>.foff
      Reg.INST_STATUS_COCOON |>.fon (Reg.TILE_STATUS_ERR 7), 14, 2, 7, 55, by decide +kernel⟩,
    ⟨running.foff Reg.FLT_REC_STATUS_PENDING |>.wr (Reg.FLT_SRC_STAT 1) 0 |>.fset (Reg.FLT_SRC_WIN_N 1) 4 |>.fset
      (Reg.FLT_SRC_CFG_TREACT 1) 5 |>.fset (Reg.FLT_SRC_CFG_LREACT 1) 5 |>.fon Reg.INST_STATUS_READY |>.foff
      Reg.INST_STATUS_COCOON, 1, 1, 7, 55, by decide +kernel⟩,
    ⟨running.foff Reg.FLT_REC_STATUS_PENDING |>.wr (Reg.FLT_SRC_STAT 1) 0 |>.fset (Reg.FLT_SRC_WIN_N 1) 4 |>.fset
      (Reg.FLT_SRC_CFG_TREACT 1) 5 |>.fset (Reg.FLT_SRC_CFG_LREACT 1) 5 |>.fon Reg.INST_STATUS_READY |>.foff
      Reg.INST_STATUS_COCOON, 1, 3, 7, 55, by decide +kernel⟩,
    ⟨running.foff Reg.FLT_REC_STATUS_PENDING |>.wr (Reg.FLT_SRC_STAT 3) 0 |>.fset (Reg.FLT_SRC_WIN_N 3) 4 |>.fset
      (Reg.FLT_SRC_CFG_TREACT 3) 5 |>.fset (Reg.FLT_SRC_CFG_LREACT 3) 5 |>.fon Reg.INST_STATUS_READY |>.foff
      Reg.INST_STATUS_COCOON, 3, 1, 7, 55, by decide +kernel⟩⟩

theorem test_faultWindowClose_can_run :
    (∃ (s : State) (src : Fin 26), s.canonical = true ∧ s.down = false ∧ s.fbit (Reg.FLT_SRC_STAT_WOPEN src) = true ∧
      s.fget (Reg.FLT_SRC_STAT_TICKS_LEFT src) = 0) ∧
    (∃ (s : State) (src : Fin 26), s.canonical = true ∧ s.down = false ∧ (s.fbit (Reg.FLT_SRC_STAT_WOPEN src) = false ∨
      s.fget (Reg.FLT_SRC_STAT_TICKS_LEFT src) ≠ 0)) :=
  ⟨⟨running.fon (Reg.FLT_SRC_STAT_WOPEN 3) |>.fset (Reg.FLT_SRC_STAT_TICKS_LEFT 3) 0, 3, by decide +kernel⟩,
    ⟨running.foff (Reg.FLT_SRC_STAT_WOPEN 3), 3, by decide +kernel⟩⟩

theorem test_faultClear_can_run :
    (∃ (s : State) (m : Master), s.canonical = true ∧ s.admits m Reg.FLT_REC_STATUS = true ∧ s.refreshCauses.standing =
      false ∧ s.fbit Reg.INST_STATUS_COCOON = false) ∧
    (∃ (s : State) (m : Master), s.canonical = true ∧ s.admits m Reg.FLT_REC_STATUS = true ∧ s.refreshCauses.standing =
      true) ∧
    (∃ (s : State) (m : Master), s.canonical = true ∧ s.admits m Reg.FLT_REC_STATUS = true ∧ s.refreshCauses.standing =
      false ∧ bit (s.fget Reg.FLT_REC_STATUS_REACT) 0 = true) :=
  ⟨⟨running.wr Reg.FLT_REC_SOURCES 2 |>.foff (Reg.FLT_SRC_STAT_CAUSE 1), .aon, by decide +kernel⟩,
    ⟨running.wr Reg.FLT_REC_SOURCES 0x10 |>.fon (Reg.DDR_STATUS_FAILED 1), .aon, by decide +kernel⟩,
    ⟨running.wr Reg.FLT_REC_SOURCES 2 |>.foff (Reg.FLT_SRC_STAT_CAUSE 1) |>.fset Reg.FLT_REC_STATUS_REACT 1, .aon,
      by decide +kernel⟩⟩

theorem test_lastingClear_can_run :
    (∃ (s : State) (m : Master) (src : Fin 26), s.canonical = true ∧ s.admits m (Reg.FLT_SRC_STAT src) = true ∧
      s.refreshCauses.fbit (Reg.FLT_SRC_STAT_CAUSE src) = false) ∧
    (∃ (s : State) (m : Master) (src : Fin 26), s.canonical = true ∧ s.admits m (Reg.FLT_SRC_STAT src) = true ∧
      s.refreshCauses.fbit (Reg.FLT_SRC_STAT_CAUSE src) = true) :=
  ⟨⟨running.foff (Reg.FLT_SRC_STAT_CAUSE 1) |>.fon (Reg.FLT_SRC_STAT_LASTING 1), .aon, 1, by decide +kernel⟩,
    ⟨running.fon (Reg.DDR_STATUS_FAILED 1), .aon, 4, by decide +kernel⟩⟩

theorem test_faultInject_can_run :
    (∃ (s : State) (m : Master) (src : BitVec 5), s.canonical = true ∧ s.admits m Reg.FLT_CTL = true ∧ src.toNat < 26) ∧
    (∃ (s : State) (m : Master) (src : BitVec 5), s.canonical = true ∧ s.admits m Reg.FLT_CTL = true ∧ 26 ≤ src.toNat) :=
  ⟨⟨running, .aon, 5, by decide +kernel⟩,
    ⟨running, .aon, 29, by decide +kernel⟩⟩

theorem test_watchdogKick_can_run :
    (∃ (s : State) (m : Master) (key : BitVec 8), s.canonical = true ∧ s.admits m Reg.FLT_WDOG_KICK = true ∧ key = 0xA5) ∧
    (∃ (s : State) (m : Master) (key : BitVec 8), s.canonical = true ∧ s.admits m Reg.FLT_WDOG_KICK = true ∧ key ≠ 0xA5) :=
  ⟨⟨running, .aon, 0xA5, by decide +kernel⟩,
    ⟨running, .aon, 5, by decide +kernel⟩⟩

theorem test_watchdogExpiry_can_run :
    (∃ (s : State), s.canonical = true ∧ s.down = false ∧ s.fbit Reg.FLT_WDOG_EN = true ∧ s.aon.wdogAt + max 1 (s.fget
      Reg.FLT_WDOG_PERIOD_MS) * 1000000 ≤ s.time) ∧
    (∃ (s : State), s.canonical = true ∧ s.down = false ∧ ¬ (s.fbit Reg.FLT_WDOG_EN = true ∧ s.aon.wdogAt + max 1 (s.fget
      Reg.FLT_WDOG_PERIOD_MS) * 1000000 ≤ s.time)) :=
  ⟨⟨running.fon Reg.FLT_WDOG_EN |>.fset Reg.FLT_WDOG_PERIOD_MS 2 |> fun s => { s with time := 3000000 },
      by decide +kernel⟩,
    ⟨running.foff Reg.FLT_WDOG_EN, by decide +kernel⟩⟩

theorem test_wingbeatToggle_can_run :
    (∃ (s : State), s.canonical = true ∧ s.down = false ∧ s.inService = true ∧ s.fbit Reg.FLT_STATUS_WB_FROZEN = false ∧
      s.aon.wbLast < s.now / s.wbHalf * s.wbHalf ∧ s.aon.wbRel + s.wbHalf ≤ s.now / s.wbHalf * s.wbHalf) ∧
    (∃ (s : State), s.canonical = true ∧ s.down = false ∧ ¬ (s.inService = true ∧ s.fbit Reg.FLT_STATUS_WB_FROZEN = false
      ∧ s.aon.wbLast < s.now / s.wbHalf * s.wbHalf ∧ s.aon.wbRel + s.wbHalf ≤ s.now / s.wbHalf * s.wbHalf)) :=
  ⟨⟨running.fon Reg.INST_STATUS_READY |>.foff Reg.FLT_STATUS_WB_FROZEN |>.foff Reg.AON_TWIN_CTL_EN |> fun s =>
      { s with counter := 1000003 }, by decide +kernel⟩,
    ⟨running.foff Reg.INST_STATUS_READY, by decide +kernel⟩⟩

theorem test_twinEnable_can_run :
    (∃ (s : State) (m : Master), s.canonical = true ∧ s.admits m Reg.AON_TWIN_CTL = true ∧ s.fbit Reg.AON_TWIN_CTL_EN =
      false ∧ 8 ≤ s.fget Reg.AON_TWIN_CFG_WB_HALF ∧ s.fget Reg.AON_TWIN_CFG_WB_HALF ≤ 164 ∧ s.fget
      Reg.AON_TWIN_CFG_WB_HALF + 16 ≤ s.fget Reg.AON_TWIN_CFG_MISS_NS ∧ s.fget Reg.AON_TWIN_CFG_MISS_NS ≤ 180) ∧
    (∃ (s : State) (m : Master), s.canonical = true ∧ s.admits m Reg.AON_TWIN_CTL = true ∧ s.fbit Reg.AON_TWIN_CTL_EN =
      false ∧ ¬ (8 ≤ s.fget Reg.AON_TWIN_CFG_WB_HALF ∧ s.fget Reg.AON_TWIN_CFG_WB_HALF ≤ 164 ∧ s.fget
      Reg.AON_TWIN_CFG_WB_HALF + 16 ≤ s.fget Reg.AON_TWIN_CFG_MISS_NS ∧ s.fget Reg.AON_TWIN_CFG_MISS_NS ≤ 180)) ∧
    (∃ (s : State) (m : Master), s.canonical = true ∧ s.admits m Reg.AON_TWIN_CTL = true ∧ s.fbit Reg.AON_TWIN_CTL_EN =
      true) :=
  ⟨⟨running.foff Reg.AON_TWIN_CTL_EN |>.fset Reg.AON_TWIN_CFG_WB_HALF 100 |>.fset Reg.AON_TWIN_CFG_MISS_NS 130, .aon,
      by decide +kernel⟩,
    ⟨running.foff Reg.AON_TWIN_CTL_EN |>.fset Reg.AON_TWIN_CFG_WB_HALF 7, .aon, by decide +kernel⟩,
    ⟨running.fon Reg.AON_TWIN_CTL_EN, .aon, by decide +kernel⟩⟩

theorem test_twinWbEdge_can_run : ∃ (s : State), s.canonical = true ∧ s.down = false :=
  ⟨running.fon Reg.AON_TWIN_STATUS_ROLE |>.fon Reg.INST_STATUS_READY, by decide +kernel⟩

theorem test_wingbeatLoss_can_run :
    (∃ (s : State) (partnerActive : Bool), s.canonical = true ∧ s.down = false ∧ s.fbit Reg.AON_TWIN_STATUS_ARMED = true
      ∧ s.standby = true ∧ s.inService = true ∧ s.aon.wbEdgeAt + 4 + s.fget Reg.AON_TWIN_CFG_MISS_NS ≤ s.time ∧
      partnerActive = true) ∧
    (∃ (s : State) (partnerActive : Bool), s.canonical = true ∧ s.down = false ∧ (s.fbit Reg.AON_TWIN_STATUS_ARMED =
      false ∨ s.standby = false ∨ s.inService = false ∨ s.time < s.aon.wbEdgeAt + 4 + s.fget Reg.AON_TWIN_CFG_MISS_NS)) :=
  ⟨⟨running.fon Reg.AON_TWIN_STATUS_ROLE |>.fon Reg.AON_TWIN_STATUS_ARMED |>.fon Reg.INST_STATUS_READY |> fun s =>
      { s with time := s.aon.wbEdgeAt + s.time + 1000 }, true, by decide +kernel⟩,
    ⟨running.foff Reg.AON_TWIN_STATUS_ARMED, true, by decide +kernel⟩⟩

theorem test_twinStartTimeout_can_run :
    (∃ (s : State), s.canonical = true ∧ s.down = false ∧ s.standby = true ∧ s.inService = true ∧ s.aon.reached6 + s.fget
      Reg.AON_TWIN_CFG_START_MS * 1000000 ≤ s.time ∧ (s.aon.wbSeen = false ∨ s.fbit Reg.AON_TWIN_CTL_EN = true ∧
      s.aon.partnerSeen = false)) ∧
    (∃ (s : State), s.canonical = true ∧ s.down = false ∧ (s.standby = false ∨ s.inService = false ∨ s.time <
      s.aon.reached6 + s.fget Reg.AON_TWIN_CFG_START_MS * 1000000 ∨ ¬ ((s.aon.wbSeen = false ∨ s.fbit Reg.AON_TWIN_CTL_EN
      = true ∧ s.aon.partnerSeen = false)))) :=
  ⟨⟨running.fon Reg.AON_TWIN_STATUS_ROLE |>.fon Reg.INST_STATUS_READY |>.fset Reg.AON_TWIN_CFG_START_MS 1 |> fun s =>
      { s with time := s.aon.reached6 + s.time + 2000000, aon := { s.aon with wbSeen := false } }, by decide +kernel⟩,
    ⟨running.foff Reg.INST_STATUS_READY, by decide +kernel⟩⟩

theorem test_helloSend_can_run :
    (∃ (s : State), s.canonical = true ∧ s.down = false ∧ s.aon.helloSent + 1024000 ≤ s.time) ∧
    (∃ (s : State), s.canonical = true ∧ s.down = false ∧ s.time < s.aon.helloSent + 1024000) :=
  ⟨⟨running.fset Reg.AON_TWIN_CFG_LINK0 2 |>.fset Reg.AON_TWIN_CFG_LINK1 2 |>.fon (Reg.IBL_STATUS_UP 2) |>.fon
      (Reg.IBL_PEER_VALID 2) |>.fset Reg.AON_ID_DEVID 1 |>.fset (Reg.IBL_PEER_DEV 2) 0 |> fun s =>
      { s with time := s.aon.helloSent + s.time + 1024000 }, by decide +kernel⟩,
    ⟨running.onAon fun a => { a with helloSent := 0 }, by decide +kernel⟩⟩

theorem test_hello_can_run :
    (∃ (s : State) (link : Fin 12) (gen : BitVec 8) (standby : Bool) (devid : Fin 8), s.canonical = true ∧ s.down = false
      ∧ s.twinLink link = true ∧ devid.val = s.partner ∧ s.fget Reg.AON_TWIN_VER_FW_GEN ≤ gen.toNat + 1 ∧ gen.toNat ≤
      s.fget Reg.AON_TWIN_VER_FW_GEN + 1 ∧ (s.aon.helloSeen = true ∨ s.standby ≠ standby)) ∧
    (∃ (s : State) (link : Fin 12) (gen : BitVec 8) (standby : Bool) (devid : Fin 8), s.canonical = true ∧ s.down = false
      ∧ s.twinLink link = true ∧ devid.val = s.partner ∧ ¬ (s.fget Reg.AON_TWIN_VER_FW_GEN ≤ gen.toNat + 1 ∧ gen.toNat ≤
      s.fget Reg.AON_TWIN_VER_FW_GEN + 1) ∧ s.aon.helloSeen = false ∧ s.standby = standby) ∧
    (∃ (s : State) (link : Fin 12) (gen : BitVec 8) (standby : Bool) (devid : Fin 8), s.canonical = true ∧ s.down = false
      ∧ (s.twinLink link = false ∨ devid.val ≠ s.partner)) :=
  ⟨⟨running.fset Reg.AON_TWIN_CFG_LINK0 2 |>.fset Reg.AON_TWIN_CFG_LINK1 2 |>.fon (Reg.IBL_STATUS_UP 2) |>.fon
      (Reg.IBL_PEER_VALID 2) |>.fset Reg.AON_ID_DEVID 1 |>.fset (Reg.IBL_PEER_DEV 2) 0 |>.onAon fun a =>
      { a with helloSeen := true }, 2, 0, true, 0, by decide +kernel⟩,
    ⟨running.fset Reg.AON_TWIN_CFG_LINK0 2 |>.fset Reg.AON_TWIN_CFG_LINK1 2 |>.fon (Reg.IBL_STATUS_UP 2) |>.fon
      (Reg.IBL_PEER_VALID 2) |>.fset Reg.AON_ID_DEVID 1 |>.fset (Reg.IBL_PEER_DEV 2) 0 |>.onAon (fun a =>
      { a with helloSeen := false }) |>.fon Reg.AON_TWIN_STATUS_ROLE, 2, 7, true, 0, by decide +kernel⟩,
    ⟨running.foff (Reg.IBL_STATUS_UP 2), 2, 0, true, 0, by decide +kernel⟩⟩

theorem test_partnerTimeout_can_run :
    (∃ (s : State) (h : Nat), s.canonical = true ∧ s.down = false ∧ s.aon.helloAt = some h ∧ h + 4096000 ≤ s.time) ∧
    (∃ (s : State), s.canonical = true ∧ s.down = false ∧ (∀ h : Nat, s.aon.helloAt = some h → s.time < h + 4096000)) :=
  ⟨⟨running.onAon (fun a => { a with helloAt := some 0 }) |> fun s => { s with time := 5000000 }, 0, by decide +kernel⟩,
    ⟨running.onAon (fun a => { a with helloAt := none }), by decide +kernel⟩⟩

theorem test_take_can_run :
    (∃ (s : State) (link : Fin 12) (byPlane : Bool), s.canonical = true ∧ s.down = false ∧ s.twinLink link = true ∧
      s.standby = false) ∧
    (∃ (s : State) (link : Fin 12) (byPlane : Bool), s.canonical = true ∧ s.down = false ∧ (s.twinLink link = false ∨
      s.standby = true)) :=
  ⟨⟨running.fset Reg.AON_TWIN_CFG_LINK0 2 |>.fset Reg.AON_TWIN_CFG_LINK1 2 |>.fon (Reg.IBL_STATUS_UP 2) |>.fon
      (Reg.IBL_PEER_VALID 2) |>.fset Reg.AON_ID_DEVID 1 |>.fset (Reg.IBL_PEER_DEV 2) 0 |>.foff Reg.AON_TWIN_STATUS_ROLE,
      2, false, by decide +kernel⟩,
    ⟨running.fon Reg.AON_TWIN_STATUS_ROLE, 2, false, by decide +kernel⟩⟩

theorem test_swapRequest_can_run :
    (∃ (s : State) (m : Master) (partnerArmed : Bool), s.canonical = true ∧ s.admits m Reg.AON_TWIN_CTL = true ∧
      s.standby = false ∧ s.now + 10000 ≤ s.rd64 Reg.AON_TWIN_SWAP_AT_LO ∧ partnerArmed = true ∧ s.fbit
      Reg.AON_TWIN_STATUS_PARTNER_UP = true ∧ s.fbit Reg.AON_TWIN_STATUS_VER_FAIL = false) ∧
    (∃ (s : State) (m : Master) (partnerArmed : Bool), s.canonical = true ∧ s.admits m Reg.AON_TWIN_CTL = true ∧
      (s.standby = true ∨ s.rd64 Reg.AON_TWIN_SWAP_AT_LO < s.now + 10000 ∨ partnerArmed = false ∨ s.fbit
      Reg.AON_TWIN_STATUS_PARTNER_UP = false ∨ s.fbit Reg.AON_TWIN_STATUS_VER_FAIL = true)) :=
  ⟨⟨running.fset Reg.AON_TWIN_CFG_LINK0 2 |>.fset Reg.AON_TWIN_CFG_LINK1 2 |>.fon (Reg.IBL_STATUS_UP 2) |>.fon
      (Reg.IBL_PEER_VALID 2) |>.fset Reg.AON_ID_DEVID 1 |>.fset (Reg.IBL_PEER_DEV 2) 0 |>.foff Reg.AON_TWIN_STATUS_ROLE
      |>.fon Reg.AON_TWIN_STATUS_PARTNER_UP |>.foff Reg.AON_TWIN_STATUS_VER_FAIL |>.wr64 Reg.AON_TWIN_SWAP_AT_LO (2 ^
      40), .aon, true, by decide +kernel⟩,
    ⟨running, .aon, false, by decide +kernel⟩⟩

theorem test_swap_can_run :
    (∃ (s : State) (link : Fin 12) (t : BitVec 64), s.canonical = true ∧ s.down = false ∧ s.twinLink link = true ∧
      s.standby = true ∧ s.fbit Reg.AON_TWIN_STATUS_VER_FAIL = false) ∧
    (∃ (s : State) (link : Fin 12) (t : BitVec 64), s.canonical = true ∧ s.down = false ∧ (s.twinLink link = false ∨
      s.standby = false ∨ s.fbit Reg.AON_TWIN_STATUS_VER_FAIL = true)) :=
  ⟨⟨running.fset Reg.AON_TWIN_CFG_LINK0 2 |>.fset Reg.AON_TWIN_CFG_LINK1 2 |>.fon (Reg.IBL_STATUS_UP 2) |>.fon
      (Reg.IBL_PEER_VALID 2) |>.fset Reg.AON_ID_DEVID 1 |>.fset (Reg.IBL_PEER_DEV 2) 0 |>.fon Reg.AON_TWIN_STATUS_ROLE
      |>.foff Reg.AON_TWIN_STATUS_VER_FAIL, 2, 77, by decide +kernel⟩,
    ⟨running.foff Reg.AON_TWIN_STATUS_ROLE, 2, 77, by decide +kernel⟩⟩

theorem test_swapAck_can_run : ∃ (s : State) (link : Fin 12) (t : BitVec 64), s.canonical = true ∧ s.down = false :=
  ⟨running.fset Reg.AON_TWIN_CFG_LINK0 2 |>.fset Reg.AON_TWIN_CFG_LINK1 2 |>.fon (Reg.IBL_STATUS_UP 2) |>.fon
    (Reg.IBL_PEER_VALID 2) |>.fset Reg.AON_ID_DEVID 1 |>.fset (Reg.IBL_PEER_DEV 2) 0 |>.fon Reg.AON_TWIN_STATUS_SWAP_PEND
    |>.wr64 Reg.AON_TWIN_SWAP_AT_LO 5, 2, 5, by decide +kernel⟩

theorem test_swapStandby_can_run :
    (∃ (s : State), s.canonical = true ∧ s.down = false ∧ s.fbit Reg.AON_TWIN_STATUS_SWAP_PEND = true ∧ s.aon.swapAcked =
      true ∧ s.standby = false ∧ s.rd64 Reg.AON_TWIN_SWAP_AT_LO ≤ s.now) ∧
    (∃ (s : State), s.canonical = true ∧ s.down = false ∧ (s.fbit Reg.AON_TWIN_STATUS_SWAP_PEND = false ∨ s.aon.swapAcked
      = false ∨ s.standby = true ∨ s.now < s.rd64 Reg.AON_TWIN_SWAP_AT_LO)) :=
  ⟨⟨running.fon Reg.AON_TWIN_STATUS_SWAP_PEND |>.foff Reg.AON_TWIN_STATUS_ROLE |>.onAon (fun a =>
      { a with swapAcked := true }) |> fun s => { s.wr64 Reg.AON_TWIN_SWAP_AT_LO 5 with counter := 9 },
      by decide +kernel⟩,
    ⟨running.foff Reg.AON_TWIN_STATUS_SWAP_PEND, by decide +kernel⟩⟩

theorem test_swapActive_can_run :
    (∃ (s : State) (x : Nat), s.canonical = true ∧ s.down = false ∧ s.aon.swapActiveAt = some x ∧ x ≤ s.now ∧ s.standby =
      true ∧ s.inService = true) ∧
    (∃ (s : State), s.canonical = true ∧ s.down = false ∧ (s.standby = false ∨ s.inService = false ∨ ∀ x : Nat,
      s.aon.swapActiveAt = some x → s.now < x)) :=
  ⟨⟨running.fon Reg.AON_TWIN_STATUS_ROLE |>.fon Reg.INST_STATUS_READY |>.onAon (fun a =>
      { a with swapActiveAt := some 3 }) |> fun s => { s with counter := 9 }, 3, by decide +kernel⟩,
    ⟨running.onAon (fun a => { a with swapActiveAt := none }), by decide +kernel⟩⟩

theorem test_swapCancel_can_run :
    (∃ (s : State) (x : Nat), s.canonical = true ∧ s.down = false ∧ (s.fbit Reg.AON_TWIN_STATUS_SWAP_PEND = true ∨
      s.aon.swapActiveAt = some x ∧ x ≤ s.now + 2008) ∧ (s.fbit Reg.AON_TWIN_STATUS_SWAP_PEND = true → s.aon.swapAcked =
      false ∧ s.rd64 Reg.AON_TWIN_SWAP_AT_LO ≤ s.now + 2000)) ∧
    (∃ (s : State), s.canonical = true ∧ s.down = false ∧ ((s.fbit Reg.AON_TWIN_STATUS_SWAP_PEND = true ∧
      (s.aon.swapAcked = true ∨ s.now + 2000 < s.rd64 Reg.AON_TWIN_SWAP_AT_LO)) ∨ (s.fbit Reg.AON_TWIN_STATUS_SWAP_PEND =
      false ∧ ∀ x : Nat, s.aon.swapActiveAt = some x → s.now + 2008 < x))) :=
  ⟨⟨running.fon Reg.AON_TWIN_STATUS_SWAP_PEND |>.wr64 Reg.AON_TWIN_SWAP_AT_LO 5 |>.onAon fun a =>
      { a with swapAcked := false }, 0, by decide +kernel⟩,
    ⟨running.foff Reg.AON_TWIN_STATUS_SWAP_PEND |>.onAon (fun a => { a with swapActiveAt := none }), by decide +kernel⟩⟩

theorem test_switch_can_run :
    (∃ (s : State) (link : Fin 12), s.canonical = true ∧ s.down = false ∧ s.fbit (Reg.IBL_STATUS_UP link) = true ∧ s.fget
      (Reg.IBL_PEER_DEV link) % 2 = s.devid % 2 ∧ s.standby = true ∧ s.inService = true) ∧
    (∃ (s : State) (link : Fin 12), s.canonical = true ∧ s.down = false ∧ (s.fbit (Reg.IBL_STATUS_UP link) = false ∨ ¬
      (s.fget (Reg.IBL_PEER_DEV link) % 2 = s.devid % 2) ∨ s.standby = false ∨ s.inService = false)) :=
  ⟨⟨running.fset Reg.AON_TWIN_CFG_LINK0 2 |>.fset Reg.AON_TWIN_CFG_LINK1 2 |>.fon (Reg.IBL_STATUS_UP 2) |>.fon
      (Reg.IBL_PEER_VALID 2) |>.fset Reg.AON_ID_DEVID 1 |>.fset (Reg.IBL_PEER_DEV 2) 0 |>.fon Reg.AON_TWIN_STATUS_ROLE
      |>.fon Reg.INST_STATUS_READY |>.fon (Reg.IBL_STATUS_UP 3) |>.fset (Reg.IBL_PEER_DEV 3) 3, 3, by decide +kernel⟩,
    ⟨running.foff Reg.AON_TWIN_STATUS_ROLE, 3, by decide +kernel⟩⟩

theorem test_digestSend_can_run :
    (∃ (s : State) (w : Nat × Nat × Nat) (r : List (Nat × Nat × Nat)), s.canonical = true ∧ s.down = false ∧
      s.aon.digPrev = w :: r ∧ s.fbit Reg.AON_TWIN_CTL_EN = true ∧ s.stepOn = true ∧ (w.1 + s.fget Reg.AON_TWIN_CMP_STEPS
      + 1) % 2 ^ 32 ≤ s.stepCnt ∧ s.aon.digPeer = []) ∧
    (∃ (s : State), s.canonical = true ∧ s.down = false ∧ (s.fbit Reg.AON_TWIN_CTL_EN = false ∨ s.stepOn = false ∨
      s.aon.digPrev = [])) :=
  ⟨⟨running.fset Reg.AON_TWIN_CFG_LINK0 2 |>.fset Reg.AON_TWIN_CFG_LINK1 2 |>.fon (Reg.IBL_STATUS_UP 2) |>.fon
      (Reg.IBL_PEER_VALID 2) |>.fset Reg.AON_ID_DEVID 1 |>.fset (Reg.IBL_PEER_DEV 2) 0 |>.fon Reg.AON_TWIN_CTL_EN |>.fon
      Reg.TB_STEP_CTL_EN |>.fset Reg.AON_TWIN_CMP_STEPS 4 |>.onAon (fun a => { a with digPrev := [(3, 5, 6)] }) |> fun s
      => s.wrN Reg.TB_STEP_CNT 20, (3, 5, 6), [], by decide +kernel⟩,
    ⟨running.foff Reg.AON_TWIN_CTL_EN, by decide +kernel⟩⟩

theorem test_digest_can_run :
    (∃ (s : State) (link : Fin 12) (first : Word) (count : Word) (sum : Word) (c x : Nat), s.canonical = true ∧ s.down =
      false ∧ s.twinLink link = true ∧ s.fbit Reg.AON_TWIN_CTL_EN = true ∧ s.fbit Reg.AON_TWIN_STATUS_VER_FAIL = false ∧
      s.aon.digOwn = [(first.toNat, c, x)]) ∧
    (∃ (s : State) (link : Fin 12) (first : Word) (count : Word) (sum : Word) (c x : Nat), s.canonical = true ∧ s.down =
      false ∧ s.twinLink link = true ∧ s.fbit Reg.AON_TWIN_CTL_EN = true ∧ (s.fbit Reg.AON_TWIN_STATUS_VER_FAIL = true ∨
      s.aon.digOwn = [])) ∧
    (∃ (s : State) (link : Fin 12) (first : Word) (count : Word) (sum : Word), s.canonical = true ∧ s.down = false ∧
      (s.twinLink link = false ∨ s.fbit Reg.AON_TWIN_CTL_EN = false)) :=
  ⟨⟨running.fset Reg.AON_TWIN_CFG_LINK0 2 |>.fset Reg.AON_TWIN_CFG_LINK1 2 |>.fon (Reg.IBL_STATUS_UP 2) |>.fon
      (Reg.IBL_PEER_VALID 2) |>.fset Reg.AON_ID_DEVID 1 |>.fset (Reg.IBL_PEER_DEV 2) 0 |>.fon Reg.AON_TWIN_CTL_EN |>.foff
      Reg.AON_TWIN_STATUS_VER_FAIL |>.onAon (fun a => { a with digOwn := [(3, 5, 6)] }), 2, 3, 5, 7, 5, 6,
      by decide +kernel⟩,
    ⟨running.fset Reg.AON_TWIN_CFG_LINK0 2 |>.fset Reg.AON_TWIN_CFG_LINK1 2 |>.fon (Reg.IBL_STATUS_UP 2) |>.fon
      (Reg.IBL_PEER_VALID 2) |>.fset Reg.AON_ID_DEVID 1 |>.fset (Reg.IBL_PEER_DEV 2) 0 |>.fon Reg.AON_TWIN_CTL_EN |>.foff
      Reg.AON_TWIN_STATUS_VER_FAIL |>.onAon (fun a => { a with digOwn := [(3, 5, 6)] }) |>.fon
      Reg.AON_TWIN_STATUS_VER_FAIL, 2, 3, 5, 7, 5, 6, by decide +kernel⟩,
    ⟨running.foff Reg.AON_TWIN_CTL_EN, 2, 3, 5, 7, by decide +kernel⟩⟩

theorem test_jrxPllWrite_can_run :
    (∃ (s : State) (m : Master) (p : Fin 8) (rate : BitVec 16), s.canonical = true ∧ s.admits m (Reg.JRX_PLL p) = true) ∧
    (∃ (s : State) (m : Master) (p : Fin 8) (rate : BitVec 16), s.canonical = true ∧ s.admits m (Reg.JRX_PLL p) = true ∧
      (¬ (600 ≤ rate.toNat ∧ rate.toNat ≤ 3200 ∧ (rate.toNat = s.fget (Reg.JRX_PLL_RATE p) ∨ s.pllLanes p = [])))) ∧
    (∃ (s : State) (m : Master) (p : Fin 8) (rate : BitVec 16), s.canonical = true ∧ s.admits m (Reg.JRX_PLL p) = true ∧
      600 ≤ rate.toNat ∧ rate.toNat ≤ 3200 ∧ (rate.toNat = s.fget (Reg.JRX_PLL_RATE p) ∨ s.pllLanes p = []) ∧ rate.toNat
      = s.fget (Reg.JRX_PLL_RATE p)) :=
  ⟨⟨running.fset (Reg.JRX_PLL_RATE 3) 900, .aon, 3, 1200, by decide +kernel⟩,
    ⟨running, .aon, 3, 0, by decide +kernel⟩,
    ⟨running.fset (Reg.JRX_PLL_RATE 3) 900, .aon, 3, 900, by decide +kernel⟩⟩

theorem test_pllLock_can_run :
    (∃ (s : State) (p : Fin 8), s.canonical = true ∧ s.down = false ∧ s.fget (Reg.JRX_PLL_RATE p) ≠ 0) ∧
    (∃ (s : State) (p : Fin 8), s.canonical = true ∧ s.down = false ∧ s.fget (Reg.JRX_PLL_RATE p) = 0) :=
  ⟨⟨running.fset (Reg.JRX_PLL_RATE 3) 900, 3, by decide +kernel⟩,
    ⟨running.fset (Reg.JRX_PLL_RATE 3) 0, 3, by decide +kernel⟩⟩

theorem test_streamEnable_can_run :
    (∃ (s : State) (m : Master) (i : Fin 32), s.canonical = true ∧ s.admits m (Reg.ING_CTL i) = true ∧ s.fbit
      (Reg.ING_CTL_EN i) = false ∧ s.streamCode i = 0) ∧
    (∃ (s : State) (m : Master) (i : Fin 32), s.canonical = true ∧ s.admits m (Reg.ING_CTL i) = true ∧ s.fbit
      (Reg.ING_CTL_EN i) = false ∧ s.streamCode i ≠ 0) ∧
    (∃ (s : State) (m : Master) (i : Fin 32), s.canonical = true ∧ s.admits m (Reg.ING_CTL i) = true ∧ s.fbit
      (Reg.ING_CTL_EN i) = true) :=
  ⟨⟨running.fon (Reg.JRX_LANE_CFG_EN 2) |>.fset (Reg.JRX_LANE_CFG_STREAM 2) 1 |>.fset (Reg.JRX_LANE_CFG_LID 2) 0 |>.fset
      (Reg.JRX_PLL_RATE 0) 1000 |>.fset (Reg.JRX_PLL_RATE 1) 1000 |>.wr (Reg.ING_LINK_LM1 1).off 0 |>.wr
      (Reg.ING_LINK_NM1 1).off 0 |>.wr (Reg.ING_LINK_SM1 1).off 0 |>.fset (Reg.ING_LINK_NM1 1) 15 |>.wr (Reg.ING_SRC_IQ
      1).off 0 |>.foff (Reg.ING_CHAN_CH_EN 1) |>.wr (Reg.ING_DEC_D1 1).off 0 |>.foff (Reg.ING_CTL_TAP_EN 1) |> fun s =>
      forN 16 (fun j s => s.foff (Reg.ING_DST_W0_VALID 1 j)) s |>.foff (Reg.ING_CTL_EN 1), .aon, 1, by decide +kernel⟩,
    ⟨running.foff (Reg.ING_CTL_EN 1) |>.foff (Reg.JRX_LANE_CFG_EN 2), .aon, 1, by decide +kernel⟩,
    ⟨running.fon (Reg.ING_CTL_EN 1), .aon, 1, by decide +kernel⟩⟩

theorem test_streamDisable_can_run :
    (∃ (s : State) (m : Master) (i : Fin 32), s.canonical = true ∧ s.admits m (Reg.ING_CTL i) = true ∧ s.fbit
      (Reg.ING_CTL_EN i) = true) ∧
    (∃ (s : State) (m : Master) (i : Fin 32), s.canonical = true ∧ s.admits m (Reg.ING_CTL i) = true ∧ s.fbit
      (Reg.ING_CTL_EN i) = false) :=
  ⟨⟨running.fon (Reg.JRX_LANE_CFG_EN 2) |>.fset (Reg.JRX_LANE_CFG_STREAM 2) 1 |>.fset (Reg.JRX_LANE_CFG_LID 2) 0 |>.fset
      (Reg.JRX_PLL_RATE 0) 1000 |>.fset (Reg.JRX_PLL_RATE 1) 1000 |>.wr (Reg.ING_LINK_LM1 1).off 0 |>.wr
      (Reg.ING_LINK_NM1 1).off 0 |>.wr (Reg.ING_LINK_SM1 1).off 0 |>.fset (Reg.ING_LINK_NM1 1) 15 |>.wr (Reg.ING_SRC_IQ
      1).off 0 |>.foff (Reg.ING_CHAN_CH_EN 1) |>.wr (Reg.ING_DEC_D1 1).off 0 |>.foff (Reg.ING_CTL_TAP_EN 1) |> fun s =>
      forN 16 (fun j s => s.foff (Reg.ING_DST_W0_VALID 1 j)) s |>.fon (Reg.ING_CTL_EN 1) |>.fon (Reg.ING_STATUS_ALIGNED
      1) |>.foff (Reg.ING_STATUS_ABSENT 1), .aon, 1, by decide +kernel⟩,
    ⟨running.foff (Reg.ING_CTL_EN 1), .aon, 1, by decide +kernel⟩⟩

theorem test_tapEnable_can_run : ∃ (s : State) (m : Master) (i : Fin 32) (on : Bool), s.canonical = true ∧ s.admits m
  (Reg.ING_CTL i) = true ∧ ¬ (on = true ∧ s.fbit (Reg.ING_CTL_TAP_EN i) = false ∧ s.fbit (Reg.ING_CTL_EN i) = true ∧
  s.tapOver i = true) :=
  ⟨running.fon (Reg.JRX_LANE_CFG_EN 2) |>.fset (Reg.JRX_LANE_CFG_STREAM 2) 1 |>.fset (Reg.JRX_LANE_CFG_LID 2) 0 |>.fset
    (Reg.JRX_PLL_RATE 0) 1000 |>.fset (Reg.JRX_PLL_RATE 1) 1000 |>.wr (Reg.ING_LINK_LM1 1).off 0 |>.wr (Reg.ING_LINK_NM1
    1).off 0 |>.wr (Reg.ING_LINK_SM1 1).off 0 |>.fset (Reg.ING_LINK_NM1 1) 15 |>.wr (Reg.ING_SRC_IQ 1).off 0 |>.foff
    (Reg.ING_CHAN_CH_EN 1) |>.wr (Reg.ING_DEC_D1 1).off 0 |>.foff (Reg.ING_CTL_TAP_EN 1) |> fun s => forN 16 (fun j s =>
    s.foff (Reg.ING_DST_W0_VALID 1 j)) s, .aon, 1, true, by decide +kernel⟩

theorem test_blockLock_can_run :
    (∃ (s : State) (l : Fin 64), s.canonical = true ∧ s.down = false ∧ s.laneLive l = true) ∧
    (∃ (s : State) (l : Fin 64), s.canonical = true ∧ s.down = false ∧ s.laneLive l = false) :=
  ⟨⟨running.fon (Reg.JRX_LANE_CFG_EN 2) |>.fset (Reg.JRX_LANE_CFG_STREAM 2) 1 |>.fset (Reg.JRX_LANE_CFG_LID 2) 0 |>.fset
      (Reg.JRX_PLL_RATE 0) 1000 |>.fset (Reg.JRX_PLL_RATE 1) 1000 |>.wr (Reg.ING_LINK_LM1 1).off 0 |>.wr
      (Reg.ING_LINK_NM1 1).off 0 |>.wr (Reg.ING_LINK_SM1 1).off 0 |>.fset (Reg.ING_LINK_NM1 1) 15 |>.wr (Reg.ING_SRC_IQ
      1).off 0 |>.foff (Reg.ING_CHAN_CH_EN 1) |>.wr (Reg.ING_DEC_D1 1).off 0 |>.foff (Reg.ING_CTL_TAP_EN 1) |> fun s =>
      forN 16 (fun j s => s.foff (Reg.ING_DST_W0_VALID 1 j)) s |>.fon (Reg.ING_CTL_EN 1) |>.fon (Reg.ING_STATUS_ALIGNED
      1) |>.foff (Reg.ING_STATUS_ABSENT 1) |>.fon (Reg.JRX_PLL_LOCKED 0) |>.fon (Reg.JRX_PLL_LOCKED 1) |>.fset
      (Reg.ING_LINK_CS 1) 0, 2, by decide +kernel⟩,
    ⟨running, 9, by decide +kernel⟩⟩

theorem test_embLock_can_run :
    (∃ (s : State) (l : Fin 64), s.canonical = true ∧ s.down = false ∧ s.laneLive l = true ∧ s.fbit
      (Reg.JRX_LANE_STAT_BLOCK_LOCK l) = true) ∧
    (∃ (s : State) (l : Fin 64), s.canonical = true ∧ s.down = false ∧ ¬ (s.laneLive l = true ∧ s.fbit
      (Reg.JRX_LANE_STAT_BLOCK_LOCK l) = true)) :=
  ⟨⟨running.fon (Reg.JRX_LANE_CFG_EN 2) |>.fset (Reg.JRX_LANE_CFG_STREAM 2) 1 |>.fset (Reg.JRX_LANE_CFG_LID 2) 0 |>.fset
      (Reg.JRX_PLL_RATE 0) 1000 |>.fset (Reg.JRX_PLL_RATE 1) 1000 |>.wr (Reg.ING_LINK_LM1 1).off 0 |>.wr
      (Reg.ING_LINK_NM1 1).off 0 |>.wr (Reg.ING_LINK_SM1 1).off 0 |>.fset (Reg.ING_LINK_NM1 1) 15 |>.wr (Reg.ING_SRC_IQ
      1).off 0 |>.foff (Reg.ING_CHAN_CH_EN 1) |>.wr (Reg.ING_DEC_D1 1).off 0 |>.foff (Reg.ING_CTL_TAP_EN 1) |> fun s =>
      forN 16 (fun j s => s.foff (Reg.ING_DST_W0_VALID 1 j)) s |>.fon (Reg.ING_CTL_EN 1) |>.fon (Reg.ING_STATUS_ALIGNED
      1) |>.foff (Reg.ING_STATUS_ABSENT 1) |>.fon (Reg.JRX_PLL_LOCKED 0) |>.fon (Reg.JRX_PLL_LOCKED 1) |>.fset
      (Reg.ING_LINK_CS 1) 0 |>.fon (Reg.JRX_LANE_STAT_BLOCK_LOCK 2), 2, by decide +kernel⟩,
    ⟨running, 9, by decide +kernel⟩⟩

theorem test_laneLockLoss_can_run :
    (∃ (s : State) (l : Fin 64) (shErr : BitVec 8) (badMarkers : BitVec 4) (i : Fin 32), s.canonical = true ∧ s.down =
      false ∧ s.laneHears l = true ∧ (16 ≤ shErr.toNat ∨ 4 ≤ badMarkers.toNat) ∧ s.fget (Reg.JRX_LANE_CFG_STREAM l) =
      i.val ∧ s.streamRuns i = true) ∧
    (∃ (s : State) (l : Fin 64) (shErr : BitVec 8) (badMarkers : BitVec 4) (i : Fin 32), s.canonical = true ∧ s.down =
      false ∧ s.laneHears l = true ∧ 16 ≤ shErr.toNat) ∧
    (∃ (s : State) (l : Fin 64) (shErr : BitVec 8) (badMarkers : BitVec 4) (i : Fin 32), s.canonical = true ∧ s.down =
      false ∧ s.laneHears l = true ∧ (¬ (16 ≤ shErr.toNat ∨ 4 ≤ badMarkers.toNat))) ∧
    (∃ (s : State) (l : Fin 64) (shErr : BitVec 8) (badMarkers : BitVec 4) (i : Fin 32), s.canonical = true ∧ s.down =
      false ∧ s.laneHears l = true ∧ (16 ≤ shErr.toNat ∨ 4 ≤ badMarkers.toNat) ∧ s.fget (Reg.JRX_LANE_CFG_STREAM l) =
      i.val ∧ s.streamRuns i = false) ∧
    (∃ (s : State) (l : Fin 64) (shErr : BitVec 8) (badMarkers : BitVec 4), s.canonical = true ∧ s.down = false ∧
      s.laneHears l = false) :=
  ⟨⟨running.fon (Reg.JRX_LANE_CFG_EN 2) |>.fset (Reg.JRX_LANE_CFG_STREAM 2) 1 |>.fset (Reg.JRX_LANE_CFG_LID 2) 0 |>.fset
      (Reg.JRX_PLL_RATE 0) 1000 |>.fset (Reg.JRX_PLL_RATE 1) 1000 |>.wr (Reg.ING_LINK_LM1 1).off 0 |>.wr
      (Reg.ING_LINK_NM1 1).off 0 |>.wr (Reg.ING_LINK_SM1 1).off 0 |>.fset (Reg.ING_LINK_NM1 1) 15 |>.wr (Reg.ING_SRC_IQ
      1).off 0 |>.foff (Reg.ING_CHAN_CH_EN 1) |>.wr (Reg.ING_DEC_D1 1).off 0 |>.foff (Reg.ING_CTL_TAP_EN 1) |> fun s =>
      forN 16 (fun j s => s.foff (Reg.ING_DST_W0_VALID 1 j)) s |>.fon (Reg.ING_CTL_EN 1) |>.fon (Reg.ING_STATUS_ALIGNED
      1) |>.foff (Reg.ING_STATUS_ABSENT 1) |>.fon (Reg.JRX_PLL_LOCKED 0) |>.fon (Reg.JRX_PLL_LOCKED 1) |>.fset
      (Reg.ING_LINK_CS 1) 0, 2, 3, 4, 1, by decide +kernel⟩,
    ⟨running.fon (Reg.JRX_LANE_CFG_EN 2) |>.fset (Reg.JRX_LANE_CFG_STREAM 2) 1 |>.fset (Reg.JRX_LANE_CFG_LID 2) 0 |>.fset
      (Reg.JRX_PLL_RATE 0) 1000 |>.fset (Reg.JRX_PLL_RATE 1) 1000 |>.wr (Reg.ING_LINK_LM1 1).off 0 |>.wr
      (Reg.ING_LINK_NM1 1).off 0 |>.wr (Reg.ING_LINK_SM1 1).off 0 |>.fset (Reg.ING_LINK_NM1 1) 15 |>.wr (Reg.ING_SRC_IQ
      1).off 0 |>.foff (Reg.ING_CHAN_CH_EN 1) |>.wr (Reg.ING_DEC_D1 1).off 0 |>.foff (Reg.ING_CTL_TAP_EN 1) |> fun s =>
      forN 16 (fun j s => s.foff (Reg.ING_DST_W0_VALID 1 j)) s |>.fon (Reg.ING_CTL_EN 1) |>.fon (Reg.ING_STATUS_ALIGNED
      1) |>.foff (Reg.ING_STATUS_ABSENT 1) |>.fon (Reg.JRX_PLL_LOCKED 0) |>.fon (Reg.JRX_PLL_LOCKED 1) |>.fset
      (Reg.ING_LINK_CS 1) 0, 2, 17, 0, 1, by decide +kernel⟩,
    ⟨running.fon (Reg.JRX_LANE_CFG_EN 2) |>.fset (Reg.JRX_LANE_CFG_STREAM 2) 1 |>.fset (Reg.JRX_LANE_CFG_LID 2) 0 |>.fset
      (Reg.JRX_PLL_RATE 0) 1000 |>.fset (Reg.JRX_PLL_RATE 1) 1000 |>.wr (Reg.ING_LINK_LM1 1).off 0 |>.wr
      (Reg.ING_LINK_NM1 1).off 0 |>.wr (Reg.ING_LINK_SM1 1).off 0 |>.fset (Reg.ING_LINK_NM1 1) 15 |>.wr (Reg.ING_SRC_IQ
      1).off 0 |>.foff (Reg.ING_CHAN_CH_EN 1) |>.wr (Reg.ING_DEC_D1 1).off 0 |>.foff (Reg.ING_CTL_TAP_EN 1) |> fun s =>
      forN 16 (fun j s => s.foff (Reg.ING_DST_W0_VALID 1 j)) s |>.fon (Reg.ING_CTL_EN 1) |>.fon (Reg.ING_STATUS_ALIGNED
      1) |>.foff (Reg.ING_STATUS_ABSENT 1) |>.fon (Reg.JRX_PLL_LOCKED 0) |>.fon (Reg.JRX_PLL_LOCKED 1) |>.fset
      (Reg.ING_LINK_CS 1) 0, 2, 3, 1, 1, by decide +kernel⟩,
    ⟨running.fon (Reg.JRX_LANE_CFG_EN 2) |>.fset (Reg.JRX_LANE_CFG_STREAM 2) 1 |>.fset (Reg.JRX_LANE_CFG_LID 2) 0 |>.fset
      (Reg.JRX_PLL_RATE 0) 1000 |>.fset (Reg.JRX_PLL_RATE 1) 1000 |>.wr (Reg.ING_LINK_LM1 1).off 0 |>.wr
      (Reg.ING_LINK_NM1 1).off 0 |>.wr (Reg.ING_LINK_SM1 1).off 0 |>.fset (Reg.ING_LINK_NM1 1) 15 |>.wr (Reg.ING_SRC_IQ
      1).off 0 |>.foff (Reg.ING_CHAN_CH_EN 1) |>.wr (Reg.ING_DEC_D1 1).off 0 |>.foff (Reg.ING_CTL_TAP_EN 1) |> fun s =>
      forN 16 (fun j s => s.foff (Reg.ING_DST_W0_VALID 1 j)) s |>.fon (Reg.ING_CTL_EN 1) |>.fon (Reg.ING_STATUS_ALIGNED
      1) |>.foff (Reg.ING_STATUS_ABSENT 1) |>.fon (Reg.JRX_PLL_LOCKED 0) |>.fon (Reg.JRX_PLL_LOCKED 1) |>.fset
      (Reg.ING_LINK_CS 1) 0 |>.fset (Reg.JRX_LANE_CFG_STREAM 2) 1 |>.foff (Reg.ING_STATUS_ALIGNED 1), 2, 17, 4, 1,
      by decide +kernel⟩,
    ⟨running.foff (Reg.JRX_LANE_CFG_EN 2), 2, 3, 4, by decide +kernel⟩⟩

theorem test_sysrefEdge_can_run :
    (∃ (s : State) (offGrid : List (Fin 32)) (i : Fin 32), s.canonical = true ∧ s.down = false ∧ s.fbit
      Reg.TB_SYNC_CFG_ARM = true ∧ s.fget Reg.TB_SYNC_CFG_MODE = 1 ∧ s.tb.loadAt = none) ∧
    (∃ (s : State) (offGrid : List (Fin 32)) (i : Fin 32), s.canonical = true ∧ s.down = false ∧ s.fget
      Reg.JRX_SYSREF_MODE = 1 ∧ i ∈ offGrid ∧ s.fbit (Reg.ING_CTL_EN i) = true ∧ s.fbit (Reg.ING_CTL_SUBCLASS i) = true ∧
      s.fbit (Reg.ING_STATUS_ALIGNED i) = true) ∧
    (∃ (s : State) (offGrid : List (Fin 32)) (i : Fin 32), s.canonical = true ∧ s.down = false ∧ (s.fget
      Reg.JRX_SYSREF_MODE ≠ 1 ∨ offGrid = [])) :=
  ⟨⟨running.fon (Reg.JRX_LANE_CFG_EN 2) |>.fset (Reg.JRX_LANE_CFG_STREAM 2) 1 |>.fset (Reg.JRX_LANE_CFG_LID 2) 0 |>.fset
      (Reg.JRX_PLL_RATE 0) 1000 |>.fset (Reg.JRX_PLL_RATE 1) 1000 |>.wr (Reg.ING_LINK_LM1 1).off 0 |>.wr
      (Reg.ING_LINK_NM1 1).off 0 |>.wr (Reg.ING_LINK_SM1 1).off 0 |>.fset (Reg.ING_LINK_NM1 1) 15 |>.wr (Reg.ING_SRC_IQ
      1).off 0 |>.foff (Reg.ING_CHAN_CH_EN 1) |>.wr (Reg.ING_DEC_D1 1).off 0 |>.foff (Reg.ING_CTL_TAP_EN 1) |> fun s =>
      forN 16 (fun j s => s.foff (Reg.ING_DST_W0_VALID 1 j)) s |>.fon (Reg.ING_CTL_EN 1) |>.fon (Reg.ING_STATUS_ALIGNED
      1) |>.foff (Reg.ING_STATUS_ABSENT 1) |>.fon (Reg.JRX_PLL_LOCKED 0) |>.fon (Reg.JRX_PLL_LOCKED 1) |>.fset
      (Reg.ING_LINK_CS 1) 0 |>.fset Reg.JRX_SYSREF_MODE 1 |>.fon (Reg.ING_CTL_SUBCLASS 1) |>.foff (Reg.ING_STATUS_ALIGNED
      1) |>.fon (Reg.JRX_LANE_STAT_EMB_LOCK 2) |>.fon Reg.TB_SYNC_CFG_ARM |>.fset Reg.TB_SYNC_CFG_MODE 1, [3], 1,
      by decide +kernel⟩,
    ⟨running.fon (Reg.JRX_LANE_CFG_EN 2) |>.fset (Reg.JRX_LANE_CFG_STREAM 2) 1 |>.fset (Reg.JRX_LANE_CFG_LID 2) 0 |>.fset
      (Reg.JRX_PLL_RATE 0) 1000 |>.fset (Reg.JRX_PLL_RATE 1) 1000 |>.wr (Reg.ING_LINK_LM1 1).off 0 |>.wr
      (Reg.ING_LINK_NM1 1).off 0 |>.wr (Reg.ING_LINK_SM1 1).off 0 |>.fset (Reg.ING_LINK_NM1 1) 15 |>.wr (Reg.ING_SRC_IQ
      1).off 0 |>.foff (Reg.ING_CHAN_CH_EN 1) |>.wr (Reg.ING_DEC_D1 1).off 0 |>.foff (Reg.ING_CTL_TAP_EN 1) |> fun s =>
      forN 16 (fun j s => s.foff (Reg.ING_DST_W0_VALID 1 j)) s |>.fon (Reg.ING_CTL_EN 1) |>.fon (Reg.ING_STATUS_ALIGNED
      1) |>.foff (Reg.ING_STATUS_ABSENT 1) |>.fon (Reg.JRX_PLL_LOCKED 0) |>.fon (Reg.JRX_PLL_LOCKED 1) |>.fset
      (Reg.ING_LINK_CS 1) 0 |>.fset Reg.JRX_SYSREF_MODE 1 |>.fon (Reg.ING_CTL_SUBCLASS 1), [1], 1, by decide +kernel⟩,
    ⟨running.fon (Reg.JRX_LANE_CFG_EN 2) |>.fset (Reg.JRX_LANE_CFG_STREAM 2) 1 |>.fset (Reg.JRX_LANE_CFG_LID 2) 0 |>.fset
      (Reg.JRX_PLL_RATE 0) 1000 |>.fset (Reg.JRX_PLL_RATE 1) 1000 |>.wr (Reg.ING_LINK_LM1 1).off 0 |>.wr
      (Reg.ING_LINK_NM1 1).off 0 |>.wr (Reg.ING_LINK_SM1 1).off 0 |>.fset (Reg.ING_LINK_NM1 1) 15 |>.wr (Reg.ING_SRC_IQ
      1).off 0 |>.foff (Reg.ING_CHAN_CH_EN 1) |>.wr (Reg.ING_DEC_D1 1).off 0 |>.foff (Reg.ING_CTL_TAP_EN 1) |> fun s =>
      forN 16 (fun j s => s.foff (Reg.ING_DST_W0_VALID 1 j)) s |>.fon (Reg.ING_CTL_EN 1) |>.fon (Reg.ING_STATUS_ALIGNED
      1) |>.foff (Reg.ING_STATUS_ABSENT 1) |>.fon (Reg.JRX_PLL_LOCKED 0) |>.fon (Reg.JRX_PLL_LOCKED 1) |>.fset
      (Reg.ING_LINK_CS 1) 0 |>.fset Reg.JRX_SYSREF_MODE 1 |>.fon (Reg.ING_CTL_SUBCLASS 1) |>.foff (Reg.ING_STATUS_ALIGNED
      1) |>.fon (Reg.JRX_LANE_STAT_EMB_LOCK 2) |>.fon Reg.TB_SYNC_CFG_ARM |>.fset Reg.TB_SYNC_CFG_MODE 1 |>.fset
      Reg.JRX_SYSREF_MODE 0, [], 1, by decide +kernel⟩⟩

theorem test_elasticRelease_can_run :
    (∃ (s : State) (i : Fin 32) (arrivals : List (BitVec 8)) (written : Bool), s.canonical = true ∧ s.down = false ∧
      s.fbit (Reg.ING_CTL_EN i) = true ∧ s.allLocked i = true ∧ (s.stream i).relAbs = false ∧ written = true ∧ s.fbit
      (Reg.ING_STATUS_ALIGNED i) = false ∧ (s.fbit (Reg.ING_CTL_SUBCLASS i) = true → (s.stream i).phaseSet = true) ∧
      s.fget Reg.JRX_SYSREF_MODE = 1 ∧ s.fbit (Reg.ING_STATUS_ABSENT i) = false) ∧
    (∃ (s : State) (i : Fin 32) (arrivals : List (BitVec 8)) (written : Bool), s.canonical = true ∧ s.down = false ∧
      s.fbit (Reg.ING_CTL_EN i) = true ∧ s.allLocked i = true ∧ (s.stream i).relAbs = false ∧ written = false ∧ s.fbit
      (Reg.ING_CTL_SUBCLASS i) = true ∧ (s.fbit (Reg.ING_CTL_SUBCLASS i) = true → (s.stream i).phaseSet = true) ∧ s.fget
      Reg.JRX_SYSREF_MODE = 1) ∧
    (∃ (s : State) (i : Fin 32) (arrivals : List (BitVec 8)) (written : Bool), s.canonical = true ∧ s.down = false ∧
      s.fbit (Reg.ING_CTL_EN i) = true ∧ s.allLocked i = true ∧ (s.stream i).relAbs = false ∧ written = false ∧ s.fbit
      (Reg.ING_CTL_SUBCLASS i) = false) ∧
    (∃ (s : State) (i : Fin 32) (arrivals : List (BitVec 8)) (written : Bool), s.canonical = true ∧ s.down = false ∧
      s.fbit (Reg.ING_CTL_EN i) = true ∧ s.allLocked i = true ∧ (s.stream i).relAbs = false ∧ s.fbit
      (Reg.ING_STATUS_ALIGNED i) = false ∧ (¬ (s.fbit (Reg.ING_CTL_SUBCLASS i) = true → (s.stream i).phaseSet = true ∧
      s.fget Reg.JRX_SYSREF_MODE = 1))) ∧
    (∃ (s : State) (i : Fin 32) (arrivals : List (BitVec 8)) (written : Bool), s.canonical = true ∧ s.down = false ∧
      (s.fbit (Reg.ING_CTL_EN i) = false ∨ s.allLocked i = false ∨ (s.stream i).relAbs = true)) :=
  ⟨⟨running.fon (Reg.JRX_LANE_CFG_EN 2) |>.fset (Reg.JRX_LANE_CFG_STREAM 2) 1 |>.fset (Reg.JRX_LANE_CFG_LID 2) 0 |>.fset
      (Reg.JRX_PLL_RATE 0) 1000 |>.fset (Reg.JRX_PLL_RATE 1) 1000 |>.wr (Reg.ING_LINK_LM1 1).off 0 |>.wr
      (Reg.ING_LINK_NM1 1).off 0 |>.wr (Reg.ING_LINK_SM1 1).off 0 |>.fset (Reg.ING_LINK_NM1 1) 15 |>.wr (Reg.ING_SRC_IQ
      1).off 0 |>.foff (Reg.ING_CHAN_CH_EN 1) |>.wr (Reg.ING_DEC_D1 1).off 0 |>.foff (Reg.ING_CTL_TAP_EN 1) |> fun s =>
      forN 16 (fun j s => s.foff (Reg.ING_DST_W0_VALID 1 j)) s |>.fon (Reg.ING_CTL_EN 1) |>.fon (Reg.ING_STATUS_ALIGNED
      1) |>.foff (Reg.ING_STATUS_ABSENT 1) |>.fon (Reg.JRX_PLL_LOCKED 0) |>.fon (Reg.JRX_PLL_LOCKED 1) |>.fset
      (Reg.ING_LINK_CS 1) 0 |>.foff (Reg.ING_STATUS_ALIGNED 1) |>.fon (Reg.JRX_LANE_STAT_EMB_LOCK 2) |>.fset
      Reg.JRX_SYSREF_MODE 1 |>.onStream 1 (fun x => { x with phaseSet := true }), 1, [30], true, by decide +kernel⟩,
    ⟨running.fon (Reg.JRX_LANE_CFG_EN 2) |>.fset (Reg.JRX_LANE_CFG_STREAM 2) 1 |>.fset (Reg.JRX_LANE_CFG_LID 2) 0 |>.fset
      (Reg.JRX_PLL_RATE 0) 1000 |>.fset (Reg.JRX_PLL_RATE 1) 1000 |>.wr (Reg.ING_LINK_LM1 1).off 0 |>.wr
      (Reg.ING_LINK_NM1 1).off 0 |>.wr (Reg.ING_LINK_SM1 1).off 0 |>.fset (Reg.ING_LINK_NM1 1) 15 |>.wr (Reg.ING_SRC_IQ
      1).off 0 |>.foff (Reg.ING_CHAN_CH_EN 1) |>.wr (Reg.ING_DEC_D1 1).off 0 |>.foff (Reg.ING_CTL_TAP_EN 1) |> fun s =>
      forN 16 (fun j s => s.foff (Reg.ING_DST_W0_VALID 1 j)) s |>.fon (Reg.ING_CTL_EN 1) |>.fon (Reg.ING_STATUS_ALIGNED
      1) |>.foff (Reg.ING_STATUS_ABSENT 1) |>.fon (Reg.JRX_PLL_LOCKED 0) |>.fon (Reg.JRX_PLL_LOCKED 1) |>.fset
      (Reg.ING_LINK_CS 1) 0 |>.foff (Reg.ING_STATUS_ALIGNED 1) |>.fon (Reg.JRX_LANE_STAT_EMB_LOCK 2) |>.fset
      Reg.JRX_SYSREF_MODE 1 |>.onStream 1 (fun x => { x with phaseSet := true }) |>.fon (Reg.ING_CTL_SUBCLASS 1), 1,
      [30], false, by decide +kernel⟩,
    ⟨running.fon (Reg.JRX_LANE_CFG_EN 2) |>.fset (Reg.JRX_LANE_CFG_STREAM 2) 1 |>.fset (Reg.JRX_LANE_CFG_LID 2) 0 |>.fset
      (Reg.JRX_PLL_RATE 0) 1000 |>.fset (Reg.JRX_PLL_RATE 1) 1000 |>.wr (Reg.ING_LINK_LM1 1).off 0 |>.wr
      (Reg.ING_LINK_NM1 1).off 0 |>.wr (Reg.ING_LINK_SM1 1).off 0 |>.fset (Reg.ING_LINK_NM1 1) 15 |>.wr (Reg.ING_SRC_IQ
      1).off 0 |>.foff (Reg.ING_CHAN_CH_EN 1) |>.wr (Reg.ING_DEC_D1 1).off 0 |>.foff (Reg.ING_CTL_TAP_EN 1) |> fun s =>
      forN 16 (fun j s => s.foff (Reg.ING_DST_W0_VALID 1 j)) s |>.fon (Reg.ING_CTL_EN 1) |>.fon (Reg.ING_STATUS_ALIGNED
      1) |>.foff (Reg.ING_STATUS_ABSENT 1) |>.fon (Reg.JRX_PLL_LOCKED 0) |>.fon (Reg.JRX_PLL_LOCKED 1) |>.fset
      (Reg.ING_LINK_CS 1) 0 |>.foff (Reg.ING_STATUS_ALIGNED 1) |>.fon (Reg.JRX_LANE_STAT_EMB_LOCK 2) |>.fset
      Reg.JRX_SYSREF_MODE 1 |>.onStream 1 (fun x => { x with phaseSet := true }) |>.foff (Reg.ING_CTL_SUBCLASS 1), 1,
      [30], false, by decide +kernel⟩,
    ⟨running.fon (Reg.JRX_LANE_CFG_EN 2) |>.fset (Reg.JRX_LANE_CFG_STREAM 2) 1 |>.fset (Reg.JRX_LANE_CFG_LID 2) 0 |>.fset
      (Reg.JRX_PLL_RATE 0) 1000 |>.fset (Reg.JRX_PLL_RATE 1) 1000 |>.wr (Reg.ING_LINK_LM1 1).off 0 |>.wr
      (Reg.ING_LINK_NM1 1).off 0 |>.wr (Reg.ING_LINK_SM1 1).off 0 |>.fset (Reg.ING_LINK_NM1 1) 15 |>.wr (Reg.ING_SRC_IQ
      1).off 0 |>.foff (Reg.ING_CHAN_CH_EN 1) |>.wr (Reg.ING_DEC_D1 1).off 0 |>.foff (Reg.ING_CTL_TAP_EN 1) |> fun s =>
      forN 16 (fun j s => s.foff (Reg.ING_DST_W0_VALID 1 j)) s |>.fon (Reg.ING_CTL_EN 1) |>.fon (Reg.ING_STATUS_ALIGNED
      1) |>.foff (Reg.ING_STATUS_ABSENT 1) |>.fon (Reg.JRX_PLL_LOCKED 0) |>.fon (Reg.JRX_PLL_LOCKED 1) |>.fset
      (Reg.ING_LINK_CS 1) 0 |>.foff (Reg.ING_STATUS_ALIGNED 1) |>.fon (Reg.JRX_LANE_STAT_EMB_LOCK 2) |>.fset
      Reg.JRX_SYSREF_MODE 1 |>.onStream 1 (fun x => { x with phaseSet := true }) |>.foff (Reg.ING_STATUS_ALIGNED 1)
      |>.fon (Reg.ING_CTL_SUBCLASS 1) |>.fset Reg.JRX_SYSREF_MODE 0, 1, [30], true, by decide +kernel⟩,
    ⟨running.foff (Reg.ING_CTL_EN 1), 1, [30], true, by decide +kernel⟩⟩

theorem test_alignTimeout_can_run :
    (∃ (s : State) (i : Fin 32), s.canonical = true ∧ s.down = false ∧ s.fbit (Reg.ING_CTL_EN i) = true ∧ s.fbit
      (Reg.ING_STATUS_ALIGNED i) = false ∧ s.fbit (Reg.ING_STATUS_ABSENT i) = false ∧ (s.stream i).enabledAt + 20000000 ≤
      s.time) ∧
    (∃ (s : State) (i : Fin 32), s.canonical = true ∧ s.down = false ∧ ¬ (s.fbit (Reg.ING_CTL_EN i) = true ∧ s.fbit
      (Reg.ING_STATUS_ALIGNED i) = false ∧ s.fbit (Reg.ING_STATUS_ABSENT i) = false ∧ (s.stream i).enabledAt + 20000000 ≤
      s.time)) :=
  ⟨⟨running.fon (Reg.JRX_LANE_CFG_EN 2) |>.fset (Reg.JRX_LANE_CFG_STREAM 2) 1 |>.fset (Reg.JRX_LANE_CFG_LID 2) 0 |>.fset
      (Reg.JRX_PLL_RATE 0) 1000 |>.fset (Reg.JRX_PLL_RATE 1) 1000 |>.wr (Reg.ING_LINK_LM1 1).off 0 |>.wr
      (Reg.ING_LINK_NM1 1).off 0 |>.wr (Reg.ING_LINK_SM1 1).off 0 |>.fset (Reg.ING_LINK_NM1 1) 15 |>.wr (Reg.ING_SRC_IQ
      1).off 0 |>.foff (Reg.ING_CHAN_CH_EN 1) |>.wr (Reg.ING_DEC_D1 1).off 0 |>.foff (Reg.ING_CTL_TAP_EN 1) |> fun s =>
      forN 16 (fun j s => s.foff (Reg.ING_DST_W0_VALID 1 j)) s |>.fon (Reg.ING_CTL_EN 1) |>.fon (Reg.ING_STATUS_ALIGNED
      1) |>.foff (Reg.ING_STATUS_ABSENT 1) |>.fon (Reg.JRX_PLL_LOCKED 0) |>.fon (Reg.JRX_PLL_LOCKED 1) |>.fset
      (Reg.ING_LINK_CS 1) 0 |>.foff (Reg.ING_STATUS_ALIGNED 1) |> fun s => { s with time := 30000000 }, 1,
      by decide +kernel⟩,
    ⟨running.foff (Reg.ING_CTL_EN 1), 1, by decide +kernel⟩⟩

theorem test_multiblockReceive_can_run :
    (∃ (s : State) (i : Fin 32) (m : Word) (result : Fin 4) (shErr : List (Fin 64 × BitVec 8)), s.canonical = true ∧
      s.down = false ∧ s.streamRuns i = true ∧ result ≠ 0 ∧ s.fbit (Reg.ING_CTL_SHMODE i) = !decide (result = 1) ∧
      (s.stream i).written = []) ∧
    (∃ (s : State) (i : Fin 32) (m : Word) (result : Fin 4) (shErr : List (Fin 64 × BitVec 8)), s.canonical = true ∧
      s.down = false ∧ s.streamRuns i = true ∧ (result = 0 ∨ s.fbit (Reg.ING_CTL_SHMODE i) = decide (result = 1))) ∧
    (∃ (s : State) (i : Fin 32) (m : Word) (result : Fin 4) (shErr : List (Fin 64 × BitVec 8)), s.canonical = true ∧
      s.down = false ∧ s.streamRuns i = false) :=
  ⟨⟨running.fon (Reg.JRX_LANE_CFG_EN 2) |>.fset (Reg.JRX_LANE_CFG_STREAM 2) 1 |>.fset (Reg.JRX_LANE_CFG_LID 2) 0 |>.fset
      (Reg.JRX_PLL_RATE 0) 1000 |>.fset (Reg.JRX_PLL_RATE 1) 1000 |>.wr (Reg.ING_LINK_LM1 1).off 0 |>.wr
      (Reg.ING_LINK_NM1 1).off 0 |>.wr (Reg.ING_LINK_SM1 1).off 0 |>.fset (Reg.ING_LINK_NM1 1) 15 |>.wr (Reg.ING_SRC_IQ
      1).off 0 |>.foff (Reg.ING_CHAN_CH_EN 1) |>.wr (Reg.ING_DEC_D1 1).off 0 |>.foff (Reg.ING_CTL_TAP_EN 1) |> fun s =>
      forN 16 (fun j s => s.foff (Reg.ING_DST_W0_VALID 1 j)) s |>.fon (Reg.ING_CTL_EN 1) |>.fon (Reg.ING_STATUS_ALIGNED
      1) |>.foff (Reg.ING_STATUS_ABSENT 1) |>.fon (Reg.JRX_PLL_LOCKED 0) |>.fon (Reg.JRX_PLL_LOCKED 1) |>.fset
      (Reg.ING_LINK_CS 1) 0 |>.foff (Reg.ING_CTL_SHMODE 1), 1, 9, 1, [(3, 2)], by decide +kernel⟩,
    ⟨running.fon (Reg.JRX_LANE_CFG_EN 2) |>.fset (Reg.JRX_LANE_CFG_STREAM 2) 1 |>.fset (Reg.JRX_LANE_CFG_LID 2) 0 |>.fset
      (Reg.JRX_PLL_RATE 0) 1000 |>.fset (Reg.JRX_PLL_RATE 1) 1000 |>.wr (Reg.ING_LINK_LM1 1).off 0 |>.wr
      (Reg.ING_LINK_NM1 1).off 0 |>.wr (Reg.ING_LINK_SM1 1).off 0 |>.fset (Reg.ING_LINK_NM1 1) 15 |>.wr (Reg.ING_SRC_IQ
      1).off 0 |>.foff (Reg.ING_CHAN_CH_EN 1) |>.wr (Reg.ING_DEC_D1 1).off 0 |>.foff (Reg.ING_CTL_TAP_EN 1) |> fun s =>
      forN 16 (fun j s => s.foff (Reg.ING_DST_W0_VALID 1 j)) s |>.fon (Reg.ING_CTL_EN 1) |>.fon (Reg.ING_STATUS_ALIGNED
      1) |>.foff (Reg.ING_STATUS_ABSENT 1) |>.fon (Reg.JRX_PLL_LOCKED 0) |>.fon (Reg.JRX_PLL_LOCKED 1) |>.fset
      (Reg.ING_LINK_CS 1) 0, 1, 9, 0, [(3, 2)], by decide +kernel⟩,
    ⟨running.foff (Reg.ING_CTL_EN 1), 1, 9, 1, [(3, 2)], by decide +kernel⟩⟩

theorem test_encoderCycle_can_run :
    (∃ (s : State) (i : Fin 32) (stamp : BitVec 80) (index : Word) (samples : List (List (BitVec 16))) (corrected : List
      (List (BitVec 16))), s.canonical = true ∧ s.down = false ∧ s.streamRuns i = true) ∧
    (∃ (s : State) (i : Fin 32) (stamp : BitVec 80) (index : Word) (samples : List (List (BitVec 16))) (corrected : List
      (List (BitVec 16))), s.canonical = true ∧ s.down = false ∧ s.streamRuns i = true ∧ samples = []) ∧
    (∃ (s : State) (i : Fin 32) (stamp : BitVec 80) (index : Word) (samples : List (List (BitVec 16))) (corrected : List
      (List (BitVec 16))), s.canonical = true ∧ s.down = false ∧ s.streamRuns i = false) :=
  ⟨⟨running.fon (Reg.JRX_LANE_CFG_EN 2) |>.fset (Reg.JRX_LANE_CFG_STREAM 2) 1 |>.fset (Reg.JRX_LANE_CFG_LID 2) 0 |>.fset
      (Reg.JRX_PLL_RATE 0) 1000 |>.fset (Reg.JRX_PLL_RATE 1) 1000 |>.wr (Reg.ING_LINK_LM1 1).off 0 |>.wr
      (Reg.ING_LINK_NM1 1).off 0 |>.wr (Reg.ING_LINK_SM1 1).off 0 |>.fset (Reg.ING_LINK_NM1 1) 15 |>.wr (Reg.ING_SRC_IQ
      1).off 0 |>.foff (Reg.ING_CHAN_CH_EN 1) |>.wr (Reg.ING_DEC_D1 1).off 0 |>.foff (Reg.ING_CTL_TAP_EN 1) |> fun s =>
      forN 16 (fun j s => s.foff (Reg.ING_DST_W0_VALID 1 j)) s |>.fon (Reg.ING_CTL_EN 1) |>.fon (Reg.ING_STATUS_ALIGNED
      1) |>.foff (Reg.ING_STATUS_ABSENT 1) |>.fon (Reg.JRX_PLL_LOCKED 0) |>.fon (Reg.JRX_PLL_LOCKED 1) |>.fset
      (Reg.ING_LINK_CS 1) 0, 1, 500, 3, [[5], [7]], [], by decide +kernel⟩,
    ⟨running.fon (Reg.JRX_LANE_CFG_EN 2) |>.fset (Reg.JRX_LANE_CFG_STREAM 2) 1 |>.fset (Reg.JRX_LANE_CFG_LID 2) 0 |>.fset
      (Reg.JRX_PLL_RATE 0) 1000 |>.fset (Reg.JRX_PLL_RATE 1) 1000 |>.wr (Reg.ING_LINK_LM1 1).off 0 |>.wr
      (Reg.ING_LINK_NM1 1).off 0 |>.wr (Reg.ING_LINK_SM1 1).off 0 |>.fset (Reg.ING_LINK_NM1 1) 15 |>.wr (Reg.ING_SRC_IQ
      1).off 0 |>.foff (Reg.ING_CHAN_CH_EN 1) |>.wr (Reg.ING_DEC_D1 1).off 0 |>.foff (Reg.ING_CTL_TAP_EN 1) |> fun s =>
      forN 16 (fun j s => s.foff (Reg.ING_DST_W0_VALID 1 j)) s |>.fon (Reg.ING_CTL_EN 1) |>.fon (Reg.ING_STATUS_ALIGNED
      1) |>.foff (Reg.ING_STATUS_ABSENT 1) |>.fon (Reg.JRX_PLL_LOCKED 0) |>.fon (Reg.JRX_PLL_LOCKED 1) |>.fset
      (Reg.ING_LINK_CS 1) 0, 1, 500, 3, [], [], by decide +kernel⟩,
    ⟨running.foff (Reg.ING_CTL_EN 1), 1, 500, 3, [[5], [7]], [], by decide +kernel⟩⟩

theorem test_eventLogClose_can_run :
    (∃ (s : State) (i : Fin 32) (r : TapRec) (e : Nat), s.canonical = true ∧ s.down = false ∧ (s.stream i).events = some
      (r, e) ∧ e + 1024 ≤ s.time) ∧
    (∃ (s : State) (i : Fin 32) (r : TapRec) (e : Nat), s.canonical = true ∧ s.down = false ∧ (s.stream i).events = some
      (r, e) ∧ s.time < e + 1024) ∧
    (∃ (s : State) (i : Fin 32), s.canonical = true ∧ s.down = false ∧ (s.stream i).events = none) :=
  ⟨⟨running.onStream 1 (fun x => { x with events := some (⟨1, 5, 5, 0, 0, 0, 0, 0, [], 0⟩, 4) }) |> fun s =>
      { s with time := 3000 }, 1, (⟨1, 5, 5, 0, 0, 0, 0, 0, [], 0⟩), 4, by decide +kernel⟩,
    ⟨running.onStream 1 (fun x => { x with events := some (⟨1, 5, 5, 0, 0, 0, 0, 0, [], 0⟩, 4) }), 1, (⟨1, 5, 5, 0, 0, 0,
      0, 0, [], 0⟩), 4, by decide +kernel⟩,
    ⟨running.onStream 1 (fun x => { x with events := none }), 1, by decide +kernel⟩⟩

theorem test_encoderBoundary_can_run : ∃ (s : State) (i : Fin 32), s.canonical = true ∧ s.down = false :=
  ⟨running.fon (Reg.JRX_LANE_CFG_EN 2) |>.fset (Reg.JRX_LANE_CFG_STREAM 2) 1 |>.fset (Reg.JRX_LANE_CFG_LID 2) 0 |>.fset
    (Reg.JRX_PLL_RATE 0) 1000 |>.fset (Reg.JRX_PLL_RATE 1) 1000 |>.wr (Reg.ING_LINK_LM1 1).off 0 |>.wr (Reg.ING_LINK_NM1
    1).off 0 |>.wr (Reg.ING_LINK_SM1 1).off 0 |>.fset (Reg.ING_LINK_NM1 1) 15 |>.wr (Reg.ING_SRC_IQ 1).off 0 |>.foff
    (Reg.ING_CHAN_CH_EN 1) |>.wr (Reg.ING_DEC_D1 1).off 0 |>.foff (Reg.ING_CTL_TAP_EN 1) |> fun s => forN 16 (fun j s =>
    s.foff (Reg.ING_DST_W0_VALID 1 j)) s |>.fon (Reg.ING_CTL_EN 1) |>.fon (Reg.ING_STATUS_ALIGNED 1) |>.foff
    (Reg.ING_STATUS_ABSENT 1) |>.fon (Reg.JRX_PLL_LOCKED 0) |>.fon (Reg.JRX_PLL_LOCKED 1) |>.fset (Reg.ING_LINK_CS 1) 0
    |>.fset (Reg.ING_BUDGET_CELLS 1) 2 |>.onStream 1 fun x => { x with defq := [⟨1, 2, [3]⟩, ⟨2, 2, [3]⟩, ⟨4, 2, [3]⟩] },
    1, by decide +kernel⟩

theorem test_tapRecordAck_can_run :
    (∃ (s : State) (i : Fin 32) (r : TapRec) (rest : List TapRec) (k x : Nat), s.canonical = true ∧ s.down = false ∧
      (s.stream i).queue = r :: rest ∧ r.addr + 256 ≤ 2 ^ 40 ∧ r.addr % 64 = 0 ∧ r.body.length ≤ 240 ∧ s.allowsBytes
      (.ingest (i / 8)) 1 ((List.range 256).map fun k => (r.addr + k, 0)) = true ∧ s.served r.addr = 0 ∧ s.bad = [] ∧
      (kvUnits.any fun x => s.fbit (Reg.ING_KV_CFG_EN x.1 x.2)) = false ∧ k < r.body.length ∧ (x < r.addr ∨ r.addr + 256
      ≤ x)) ∧
    (∃ (s : State) (i : Fin 32), s.canonical = true ∧ s.down = false ∧ (s.stream i).queue = []) ∧
    (∃ (s : State) (i : Fin 32) (r : TapRec) (rest : List TapRec), s.canonical = true ∧ s.down = false ∧ (s.stream
      i).queue = r :: rest) :=
  ⟨⟨running |> fun s => ({ s with tiles := [], bad := [] }).onStream 5 (fun y =>
      { y with queue := [⟨0, 7 * 65536, 9 * 65536, 0, 3, 3, 0, 0, [1, 2, 3, 4], 0x20000⟩], windows := [3, 10] }) |> fun s
      => kvUnits.foldl (fun s x => s.foff (Reg.ING_KV_CFG_EN x.1 x.2)) s |> fun s => ((((((((s.foff
      Reg.INST_STATUS_COCOON).fset (Reg.DDR_CFG_CAP 0) 1).fon (Reg.DDR_CTL_EN (s.ddrChan 0x20000))).fon
      (Reg.DDR_STATUS_TRAINED (s.ddrChan 0x20000))).foff (Reg.DDR_STATUS_FAILED (s.ddrChan 0x20000))).foff
      (Reg.DDR_STATUS_RETRAINING (s.ddrChan 0x20000))).foff (Reg.PWR_ISL_CTL_OFF (74 + s.ddrChan 0x20000))).fset
      (Reg.PWR_ISL_STAT_STATE (74 + s.ddrChan 0x20000)) 0) |> fun s => (((((s.fon (Reg.REG_LIMIT_H_EN (rsetIng 0) 0)).fon
      (Reg.REG_LIMIT_H_W (rsetIng 0) 0)).fset (Reg.REG_BASE_H_BASE_H (rsetIng 0) 0) 0).fset (Reg.REG_BASE_L_BASE_L
      (rsetIng 0) 0) 0).fset (Reg.REG_LIMIT_L_LIMIT_L (rsetIng 0) 0) 0xfff), 5, ⟨0, 7 * 65536, 9 * 65536, 0, 3, 3, 0, 0,
      [1, 2, 3, 4], 0x20000⟩, [], 2, 0x1ffff, by decide +kernel⟩,
    ⟨running.onStream 5 (fun y => { y with queue := [] }), 5, by decide +kernel⟩,
    ⟨running.onStream 5 (fun y => { y with queue := [⟨0, 7 * 65536, 9 * 65536, 0, 3, 3, 0, 0, [1, 2, 3, 4], 0x20000⟩] }),
      5, ⟨0, 7 * 65536, 9 * 65536, 0, 3, 3, 0, 0, [1, 2, 3, 4], 0x20000⟩, [], by decide +kernel⟩⟩

theorem test_coreEnable_can_run :
    (∃ (s : State) (m : Master) (n : Fin 1024), s.canonical = true ∧ s.admits m (Reg.NC_CTL n) = true ∧ s.coreAbsent n =
      false ∧ s.fbit (Reg.NC_CTL_EN n) = false ∧ (¬ (s.recvState n = 1 ∨ s.recvState n = 3 ∨ s.recvState n = 4)) ∧
      s.recvState n = 2) ∧
    (∃ (s : State) (m : Master) (n : Fin 1024), s.canonical = true ∧ s.admits m (Reg.NC_CTL n) = true ∧ s.coreAbsent n =
      false ∧ s.fbit (Reg.NC_CTL_EN n) = false ∧ (s.recvState n = 1 ∨ s.recvState n = 3 ∨ s.recvState n = 4)) ∧
    (∃ (s : State) (m : Master) (n : Fin 1024), s.canonical = true ∧ s.admits m (Reg.NC_CTL n) = true ∧ (s.coreAbsent n =
      true ∨ s.fbit (Reg.NC_CTL_EN n) = true)) :=
  ⟨⟨running.foff (Reg.NC_CTL_EN 1) |>.setRecvState 1 2, .aon, 1, by decide +kernel⟩,
    ⟨running.foff (Reg.NC_CTL_EN 1) |>.setRecvState 1 1, .aon, 1, by decide +kernel⟩,
    ⟨running.fon (Reg.NC_CTL_EN 1), .aon, 1, by decide +kernel⟩⟩

theorem test_initPassEnd_can_run :
    (∃ (s : State) (n : Fin 1024), s.canonical = true ∧ s.down = false ∧ s.fbit (Reg.NC_STATUS_INIT n) = true) ∧
    (∃ (s : State) (n : Fin 1024), s.canonical = true ∧ s.down = false ∧ s.fbit (Reg.NC_STATUS_INIT n) = false) :=
  ⟨⟨running.fon (Reg.NC_CTL_EN 1) |>.fon (Reg.NC_STATUS_INIT 1) |>.mzero (winAddr 1 0) 0x200000 |>.onCore 1 fun c =>
      { c with input := [3] }, 1, by decide +kernel⟩,
    ⟨running.foff (Reg.NC_STATUS_INIT 1), 1, by decide +kernel⟩⟩

theorem test_coreDisable_can_run :
    (∃ (s : State) (m : Master) (n : Fin 1024), s.canonical = true ∧ s.admits m (Reg.NC_CTL n) = true ∧ s.fbit
      (Reg.NC_CTL_EN n) = true ∧ (s.core n).mesh = []) ∧
    (∃ (s : State) (m : Master) (n : Fin 1024), s.canonical = true ∧ s.admits m (Reg.NC_CTL n) = true ∧ s.fbit
      (Reg.NC_CTL_EN n) = false) :=
  ⟨⟨running.fon (Reg.NC_CTL_EN 1) |>.onCore 1 fun c => { c with input := [3] }, .aon, 1, by decide +kernel⟩,
    ⟨running.foff (Reg.NC_CTL_EN 1), .aon, 1, by decide +kernel⟩⟩

theorem test_evCellAccept_can_run :
    (∃ (s : State) (n : Fin 1024) (imm : Bool) (ep : Bool) (events : List Word) (link : Option (Fin 12)), s.canonical =
      true ∧ s.down = false ∧ 0 < events.length ∧ events.length ≤ 10 ∧ s.coreAbsent n = false ∧ (s.core n).mesh = [] ∧
      s.evRoom n ⟨imm, ep, events, link.map Fin.val⟩ = true ∧ (s.fbit (Reg.NC_CTL_EN n) = true ∨ s.fbit
      (Reg.NC_STATUS_INIT n) = true)) ∧
    (∃ (s : State) (n : Fin 1024) (imm : Bool) (ep : Bool) (events : List Word) (link : Option (Fin 12)), s.canonical =
      true ∧ s.down = false ∧ 0 < events.length ∧ events.length ≤ 10 ∧ s.coreAbsent n = false ∧ (s.core n).mesh = [] ∧
      s.evRoom n ⟨imm, ep, events, link.map Fin.val⟩ = true ∧ s.fbit (Reg.NC_CTL_EN n) = false ∧ s.fbit
      (Reg.NC_STATUS_INIT n) = false) ∧
    (∃ (s : State) (n : Fin 1024) (imm : Bool) (ep : Bool) (events : List Word) (link : Option (Fin 12)), s.canonical =
      true ∧ s.down = false ∧ 0 < events.length ∧ events.length ≤ 10 ∧ s.coreAbsent n = false ∧ ((s.core n).mesh ≠ [] ∨
      s.evRoom n ⟨imm, ep, events, link.map Fin.val⟩ = false)) ∧
    (∃ (s : State) (n : Fin 1024) (imm : Bool) (ep : Bool) (events : List Word) (link : Option (Fin 12)), s.canonical =
      true ∧ s.down = false ∧ 0 < events.length ∧ events.length ≤ 10 ∧ s.coreAbsent n = true) ∧
    (∃ (s : State) (n : Fin 1024) (imm : Bool) (ep : Bool) (events : List Word) (link : Option (Fin 12)), s.canonical =
      true ∧ s.down = false ∧ (events = [] ∨ 10 < events.length)) :=
  ⟨⟨running.fon (Reg.NC_CTL_EN 1) |>.onCore 1 (fun _ => CoreSt.init), 1, false, true, [0x03000004, 5], none,
      by decide +kernel⟩,
    ⟨running.foff (Reg.NC_CTL_EN 1) |>.foff (Reg.NC_STATUS_INIT 1) |>.onCore 1 (fun _ => CoreSt.init), 1, false, false,
      [0x03000004, 5], (some 3), by decide +kernel⟩,
    ⟨running.fon (Reg.NC_CTL_EN 1) |>.onCore 1 fun c => { CoreSt.init with mesh := [⟨true, true, [3], none⟩] }, 1, false,
      true, [0x03000004, 5], none, by decide +kernel⟩,
    ⟨running.wr (Reg.INST_NROW 0) 0xFFFFFFFF |>.fset (Reg.INST_NROW_LCOLS 0) 0, 1, false, true, [5], none,
      by decide +kernel⟩,
    ⟨running, 1, false, true, [], none, by decide +kernel⟩⟩

theorem test_arrival_can_run :
    (∃ (s : State) (n : Fin 1024) (errs : List (BitVec 21 × Bool)) (w : Word) (rest : List Word), s.canonical = true ∧
      s.down = false ∧ s.ncRuns n = true ∧ s.ncHeld n = false ∧ (s.core n).input = w :: rest ∧ s.fget
      (Reg.NC_CTL_AXON_LIMIT n) ≤ wordGet w 15 0) ∧
    (∃ (s : State) (n : Fin 1024) (errs : List (BitVec 21 × Bool)) (w : Word) (rest : List Word), s.canonical = true ∧
      s.down = false ∧ s.ncRuns n = true ∧ s.ncHeld n = false ∧ (s.core n).input = w :: rest ∧ errs = [] ∧ wordGet w 15 0
      < s.fget (Reg.NC_CTL_AXON_LIMIT n) ∧ s.isBad (winAddr n (0x40000 + 4 * wordGet w 15 0)) = false ∧ (bit (s.mnat
      (winAddr n (0x40000 + 4 * wordGet w 15 0)) 4) 31 = false ∨ wordGet w 23 16 = 0)) ∧
    (∃ (s : State) (n : Fin 1024) (errs : List (BitVec 21 × Bool)), s.canonical = true ∧ s.down = false ∧ (s.ncRuns n =
      false ∨ s.ncHeld n = true ∨ (s.core n).input = [])) :=
  ⟨⟨running.fon (Reg.NC_CTL_EN 1) |>.foff (Reg.NC_STATUS_INIT 1) |>.mzero (winAddr 1 0) 0x200000 |>.onCore 1 (fun c =>
      { CoreSt.init with input := [0x00010003, 4] }), 1, [], 0x00010003, [4], by decide +kernel⟩,
    ⟨running.fset (Reg.NC_CTL_AXON_LIMIT 1) 9 |>.fon (Reg.NC_CTL_EN 1) |>.foff (Reg.NC_STATUS_INIT 1) |>.mzero (winAddr 1
      0) 0x200000 |>.onCore 1 (fun c => { CoreSt.init with input := [3, 4] }), 1, [], 3, [4], by decide +kernel⟩,
    ⟨running.foff (Reg.NC_CTL_EN 1), 1, [], by decide +kernel⟩⟩

theorem test_stepToken_can_run :
    (∃ (s : State) (n : Fin 1024) (errs : List (BitVec 21 × Bool)) (scrub : List (BitVec 21 × Bool)), s.canonical = true
      ∧ s.down = false ∧ s.coreAbsent n = false ∧ s.nextToken n < s.tb.nextU ∧ (s.core n).mesh = []) ∧
    (∃ (s : State) (n : Fin 1024) (errs : List (BitVec 21 × Bool)) (scrub : List (BitVec 21 × Bool)), s.canonical = true
      ∧ s.down = false ∧ (s.coreAbsent n = true ∨ s.tb.nextU ≤ s.nextToken n)) :=
  ⟨⟨running.fon (Reg.NC_CTL_EN 1) |>.foff (Reg.NC_STATUS_INIT 1) |>.mzero (winAddr 1 0) 0x200000 |>.onCore 1 (fun _ =>
      CoreSt.init) |> fun s => { s with tb := { s.tb with nextU := 3, firstU := 2, run := 4 } }, 1, [], [],
      by decide +kernel⟩,
    ⟨running |> fun s => { s with tb := { s.tb with nextU := 0 } }, 1, [], [], by decide +kernel⟩⟩

theorem test_plasticityClearEnd_can_run :
    (∃ (s : State) (n : Fin 1024) (k : Fin 16384) (d : Fin 512), s.canonical = true ∧ s.down = false ∧ s.fbit
      (Reg.NC_PL_STATUS_CLEAR n) = true) ∧
    (∃ (s : State) (n : Fin 1024), s.canonical = true ∧ s.down = false ∧ s.fbit (Reg.NC_PL_STATUS_CLEAR n) = false) :=
  ⟨⟨running.fon (Reg.NC_PL_STATUS_CLEAR 1), 1, 5, 7, by decide +kernel⟩,
    ⟨running.foff (Reg.NC_PL_STATUS_CLEAR 1), 1, by decide +kernel⟩⟩

set_option maxRecDepth 1000000 in
theorem test_commitRow_can_run :
    (∃ (s : State) (n : Fin 1024) (errs : List (BitVec 21 × Bool)) (k base i : Nat) (rest : List (Nat × Nat × Nat)),
      s.canonical = true ∧ s.down = false ∧ (s.core n).plPhase = 4 ∧ errs = [] ∧ validDirs (s.directory n).2 = (k, base,
      i) :: rest ∧ rest = []) ∧
    (∃ (s : State) (n : Fin 1024) (errs : List (BitVec 21 × Bool)) (k base i : Nat) (rest : List (Nat × Nat × Nat)),
      s.canonical = true ∧ s.down = false ∧ (s.core n).plPhase = 4 ∧ errs = [] ∧ validDirs (s.directory n).2 = (k, base,
      i) :: rest ∧ rest ≠ []) ∧
    (∃ (s : State) (n : Fin 1024) (errs : List (BitVec 21 × Bool)), s.canonical = true ∧ s.down = false ∧ (s.core
      n).plPhase = 4 ∧ errs = [] ∧ validDirs (s.directory n).2 = []) ∧
    (∃ (s : State) (n : Fin 1024) (errs : List (BitVec 21 × Bool)), s.canonical = true ∧ s.down = false ∧ (s.core
      n).plPhase ≠ 4) :=
  ⟨⟨running.mzero (winAddr 1 0) 0x200000 |>.mnatPut (winAddr 1 (dirOffset 3)) 4 (2^31 + 5) |>.onCore 1 fun c =>
      { CoreSt.init with plPhase := 4 }, 1, [], 3, 0, 5, [], by decide +kernel⟩,
    ⟨running.mzero (winAddr 1 0) 0x200000 |>.mnatPut (winAddr 1 (dirOffset 3)) 4 (2^31 + 5) |>.mnatPut (winAddr 1
      (dirOffset 4)) 4 (2^31 + 9) |>.onCore 1 fun c => { CoreSt.init with plPhase := 4 }, 1, [], 3, 0, 5, [(4, 0, 9)],
      by decide +kernel⟩,
    ⟨running.mzero (winAddr 1 0) 0x200000 |>.onCore 1 fun c => { CoreSt.init with plPhase := 4 }, 1, [],
      by decide +kernel⟩,
    ⟨running.onCore 1 fun c => { c with plPhase := 3 }, 1, [], by decide +kernel⟩⟩

theorem test_stepGeneratorEnable_can_run :
    (∃ (s : State) (m : Master), s.canonical = true ∧ s.admits m Reg.TB_STEP_CTL = true ∧ s.stepOn = false ∧ (admission s
      s (!s.stepOn)).code = 0) ∧
    (∃ (s : State) (m : Master), s.canonical = true ∧ s.admits m Reg.TB_STEP_CTL = true ∧ s.stepOn = false ∧ (admission s
      s (!s.stepOn)).code ≠ 0) ∧
    (∃ (s : State) (m : Master), s.canonical = true ∧ s.admits m Reg.TB_STEP_CTL = true ∧ s.stepOn = true) :=
  ⟨⟨running.foff Reg.TB_STEP_CTL_EN |>.fset Reg.TB_STEP_LEN_DELTA 1000 |>.wr64 Reg.TB_STEP_T0_LO (2^40) |> fun s => forN
      32 (fun n s => ((s.foff (Reg.NC_CTL_EN n)).foff (Reg.ING_CTL_EN n)).foff (Reg.ING_CTX_CTL_EN n)) s, .aon,
      by decide +kernel⟩,
    ⟨running.foff Reg.TB_STEP_CTL_EN |>.fset Reg.TB_STEP_LEN_DELTA 1, .aon, by decide +kernel⟩,
    ⟨running.fon Reg.TB_STEP_CTL_EN, .aon, by decide +kernel⟩⟩

theorem test_stepGeneratorStop_can_run :
    (∃ (s : State) (m : Master), s.canonical = true ∧ s.admits m Reg.TB_STEP_CTL = true ∧ s.stepOn = true) ∧
    (∃ (s : State) (m : Master), s.canonical = true ∧ s.admits m Reg.TB_STEP_CTL = true ∧ s.stepOn = true ∧ s.chrState =
      5 ∧ s.fbit Reg.CHR_WHEN_MODE = false) ∧
    (∃ (s : State) (m : Master), s.canonical = true ∧ s.admits m Reg.TB_STEP_CTL = true ∧ s.stepOn = false) :=
  ⟨⟨running.fon Reg.TB_STEP_CTL_EN |>.fset Reg.TB_STEP_LEN_DELTA 1000 |>.wr64 Reg.TB_STEP_T0_LO 2000 |> fun s =>
      { s with counter := 900000, tb := { s.tb with nextU := 5, done := 5, waitingB := false, heldB := false } }, .aon,
      by decide +kernel⟩,
    ⟨running.fon Reg.TB_STEP_CTL_EN |>.fset Reg.TB_STEP_LEN_DELTA 1000 |>.wr64 Reg.TB_STEP_T0_LO 2000 |> fun s =>
      { s with counter := 900000, tb := { s.tb with nextU := 5, done := 5, waitingB := false, heldB := false } } |>.fset
      Reg.CHR_STATUS_STATE 5 |>.foff Reg.CHR_WHEN_MODE, .aon, by decide +kernel⟩,
    ⟨running.foff Reg.TB_STEP_CTL_EN, .aon, by decide +kernel⟩⟩

theorem test_stepNominalInstant_can_run :
    (∃ (s : State), s.canonical = true ∧ s.down = false ∧ s.stepOn = true ∧ s.tb.waitingB = false ∧ s.stepNominal
      s.tb.nextU ≤ s.now ∧ s.tb.nextU ≤ s.settled.tb.done) ∧
    (∃ (s : State), s.canonical = true ∧ s.down = false ∧ s.stepOn = true ∧ s.tb.waitingB = false ∧ s.stepNominal
      s.tb.nextU ≤ s.now ∧ s.settled.tb.done + 1 < s.tb.nextU) ∧
    (∃ (s : State), s.canonical = true ∧ s.down = false ∧ s.stepOn = true ∧ s.tb.waitingB = false ∧ s.stepNominal
      s.tb.nextU ≤ s.now ∧ s.settled.tb.done + 1 = s.tb.nextU ∧ s.stepNominal s.tb.nextU + s.stretchNs ≤ s.now) ∧
    (∃ (s : State), s.canonical = true ∧ s.down = false ∧ s.stepOn = true ∧ s.tb.waitingB = false ∧ s.stepNominal
      s.tb.nextU ≤ s.now ∧ s.settled.tb.done + 1 = s.tb.nextU ∧ s.now < s.stepNominal s.tb.nextU + s.stretchNs) ∧
    (∃ (s : State), s.canonical = true ∧ s.down = false ∧ (s.stepOn = false ∨ s.tb.waitingB = true ∨ s.now <
      s.stepNominal s.tb.nextU)) :=
  ⟨⟨running.fon Reg.TB_STEP_CTL_EN |>.fset Reg.TB_STEP_LEN_DELTA 1000 |>.wr64 Reg.TB_STEP_T0_LO 2000 |> fun s =>
      { s with counter := 900000, tb := { s.tb with nextU := 5, done := 5, waitingB := false, heldB := false } },
      by decide +kernel⟩,
    ⟨running.fon Reg.TB_STEP_CTL_EN |>.fset Reg.TB_STEP_LEN_DELTA 1000 |>.wr64 Reg.TB_STEP_T0_LO 2000 |> fun s =>
      { s with counter := 900000, tb := { s.tb with nextU := 5, done := 5, waitingB := false, heldB := false } } |> fun s
      => { s with tb := { s.tb with done := 3 } } |>.fon (Reg.NC_CTL_EN 0), by decide +kernel⟩,
    ⟨running.fon Reg.TB_STEP_CTL_EN |>.fset Reg.TB_STEP_LEN_DELTA 1000 |>.wr64 Reg.TB_STEP_T0_LO 2000 |> fun s =>
      { s with counter := 900000, tb := { s.tb with nextU := 5, done := 5, waitingB := false, heldB := false } } |> fun s
      => { s with tb := { s.tb with done := 4, nextU := 5, cnt0 := 3 } }, by decide +kernel⟩,
    ⟨running.fon Reg.TB_STEP_CTL_EN |>.fset Reg.TB_STEP_LEN_DELTA 1000 |>.fset Reg.TB_STEP_CTL_STRETCH 128 |>.wr64
      Reg.TB_STEP_T0_LO 2000 |>.fon (Reg.NC_CTL_EN 0) |> fun s =>
      { s with counter := 7000, tb := { s.tb with nextU := 5, done := 4, waitingB := false, heldB := false } },
      by decide +kernel⟩,
    ⟨running.foff Reg.TB_STEP_CTL_EN, by decide +kernel⟩⟩

theorem test_emissionStepComplete_can_run :
    (∃ (s : State), s.canonical = true ∧ s.down = false ∧ s.stepOn = true ∧ s.tb.waitingB = true ∧ s.settled.tb.done + 1
      < s.tb.nextU) ∧
    (∃ (s : State), s.canonical = true ∧ s.down = false ∧ s.stepOn = true ∧ s.tb.waitingB = true ∧ s.tb.nextU ≤
      s.settled.tb.done) ∧
    (∃ (s : State), s.canonical = true ∧ s.down = false ∧ s.stepOn = true ∧ s.tb.waitingB = true ∧ s.settled.tb.done + 1
      = s.tb.nextU ∧ s.stepNominal s.tb.nextU + s.stretchNs ≤ s.now) ∧
    (∃ (s : State), s.canonical = true ∧ s.down = false ∧ s.stepOn = true ∧ s.tb.waitingB = true ∧ s.settled.tb.done + 1
      = s.tb.nextU ∧ s.now < s.stepNominal s.tb.nextU + s.stretchNs) ∧
    (∃ (s : State), s.canonical = true ∧ s.down = false ∧ s.stepOn = true ∧ s.tb.waitingB = false ∧ s.tb.done <
      s.tb.nextU ∧ s.emissionDone s.tb.done = true) ∧
    (∃ (s : State), s.canonical = true ∧ s.down = false ∧ s.stepOn = true ∧ s.tb.waitingB = false ∧ (s.tb.done =
      s.tb.nextU ∨ s.emissionDone s.tb.done = false)) ∧
    (∃ (s : State), s.canonical = true ∧ s.down = false ∧ s.stepOn = false) :=
  ⟨⟨running.fon Reg.TB_STEP_CTL_EN |>.fset Reg.TB_STEP_LEN_DELTA 1000 |>.wr64 Reg.TB_STEP_T0_LO 2000 |> fun s =>
      { s with counter := 900000, tb := { s.tb with nextU := 5, done := 5, waitingB := false, heldB := false } } |> fun s
      => { s with tb := { s.tb with done := 3 } } |>.fon (Reg.NC_CTL_EN 0) |> fun s =>
      { s with tb := { s.tb with waitingB := true } }, by decide +kernel⟩,
    ⟨running.fon Reg.TB_STEP_CTL_EN |>.fset Reg.TB_STEP_LEN_DELTA 1000 |>.wr64 Reg.TB_STEP_T0_LO 2000 |> fun s =>
      { s with counter := 900000, tb := { s.tb with nextU := 5, done := 5, waitingB := false, heldB := false } } |> fun s
      => { s with tb := { s.tb with waitingB := true } }, by decide +kernel⟩,
    ⟨running.fon Reg.TB_STEP_CTL_EN |>.fset Reg.TB_STEP_LEN_DELTA 1000 |>.wr64 Reg.TB_STEP_T0_LO 2000 |> fun s =>
      { s with counter := 900000, tb := { s.tb with nextU := 5, done := 5, waitingB := false, heldB := false } } |> fun s
      => { s with tb := { s.tb with done := 4, nextU := 5, cnt0 := 3 } } |> fun s =>
      { s with tb := { s.tb with waitingB := true } }, by decide +kernel⟩,
    ⟨running.fon Reg.TB_STEP_CTL_EN |>.fset Reg.TB_STEP_LEN_DELTA 1000 |>.fset Reg.TB_STEP_CTL_STRETCH 128 |>.wr64
      Reg.TB_STEP_T0_LO 2000 |>.fon (Reg.NC_CTL_EN 0) |> fun s =>
      { s with counter := 7100, tb := { s.tb with nextU := 5, done := 4, waitingB := true, heldB := false } },
      by decide +kernel⟩,
    ⟨running.fon Reg.TB_STEP_CTL_EN |>.fset Reg.TB_STEP_LEN_DELTA 1000 |>.wr64 Reg.TB_STEP_T0_LO 2000 |> fun s =>
      { s with counter := 900000, tb := { s.tb with nextU := 5, done := 5, waitingB := false, heldB := false } } |> fun s
      => forN 4 (fun n s => (s.foff (Reg.NC_CTL_EN n)).foff (Reg.ING_CTL_EN n))
      { s with tb := { s.tb with nextU := 6 } }, by decide +kernel⟩,
    ⟨running.fon Reg.TB_STEP_CTL_EN |>.fset Reg.TB_STEP_LEN_DELTA 1000 |>.wr64 Reg.TB_STEP_T0_LO 2000 |> fun s =>
      { s with counter := 900000, tb := { s.tb with nextU := 5, done := 5, waitingB := false, heldB := false } },
      by decide +kernel⟩,
    ⟨running.foff Reg.TB_STEP_CTL_EN, by decide +kernel⟩⟩

theorem test_stretchLimit_can_run :
    (∃ (s : State), s.canonical = true ∧ s.down = false ∧ s.stepOn = true ∧ s.tb.waitingB = true ∧ s.stepNominal
      s.tb.nextU + s.stretchNs ≤ s.now ∧ s.settled.tb.done + 1 = s.tb.nextU) ∧
    (∃ (s : State), s.canonical = true ∧ s.down = false ∧ s.stepOn = true ∧ s.tb.waitingB = true ∧ s.stepNominal
      s.tb.nextU + s.stretchNs ≤ s.now ∧ s.settled.tb.done + 1 < s.tb.nextU) ∧
    (∃ (s : State), s.canonical = true ∧ s.down = false ∧ s.stepOn = true ∧ s.tb.waitingB = true ∧ s.stepNominal
      s.tb.nextU + s.stretchNs ≤ s.now ∧ s.tb.nextU ≤ s.settled.tb.done) ∧
    (∃ (s : State), s.canonical = true ∧ s.down = false ∧ (s.stepOn = false ∨ s.tb.waitingB = false ∨ s.now <
      s.stepNominal s.tb.nextU + s.stretchNs)) :=
  ⟨⟨running.fon Reg.TB_STEP_CTL_EN |>.fset Reg.TB_STEP_LEN_DELTA 1000 |>.wr64 Reg.TB_STEP_T0_LO 2000 |> fun s =>
      { s with counter := 900000, tb := { s.tb with nextU := 5, done := 5, waitingB := false, heldB := false } } |> fun s
      => { s with tb := { s.tb with done := 4, nextU := 5, cnt0 := 3 } } |> fun s =>
      { s with tb := { s.tb with waitingB := true } }, by decide +kernel⟩,
    ⟨running.fon Reg.TB_STEP_CTL_EN |>.fset Reg.TB_STEP_LEN_DELTA 1000 |>.wr64 Reg.TB_STEP_T0_LO 2000 |> fun s =>
      { s with counter := 900000, tb := { s.tb with nextU := 5, done := 5, waitingB := false, heldB := false } } |> fun s
      => { s with tb := { s.tb with done := 3 } } |>.fon (Reg.NC_CTL_EN 0) |> fun s =>
      { s with tb := { s.tb with waitingB := true } }, by decide +kernel⟩,
    ⟨running.fon Reg.TB_STEP_CTL_EN |>.fset Reg.TB_STEP_LEN_DELTA 1000 |>.wr64 Reg.TB_STEP_T0_LO 2000 |> fun s =>
      { s with counter := 900000, tb := { s.tb with nextU := 5, done := 5, waitingB := false, heldB := false } } |> fun s
      => { s with tb := { s.tb with waitingB := true } }, by decide +kernel⟩,
    ⟨running.foff Reg.TB_STEP_CTL_EN, by decide +kernel⟩⟩

theorem test_pulseEnd_can_run :
    (∃ (s : State) (p : Fin 16) (e : Nat), s.canonical = true ∧ s.down = false ∧ (s.pin p).pulseEnd = some e ∧ e ≤ s.time
      ∧ s.pinSrc p = 1) ∧
    (∃ (s : State) (p : Fin 16) (e : Nat), s.canonical = true ∧ s.down = false ∧ (s.pin p).pulseEnd = some e ∧ e ≤ s.time
      ∧ s.pinSrc p ≠ 1) ∧
    (∃ (s : State) (p : Fin 16), s.canonical = true ∧ s.down = false ∧ (∀ e, (s.pin p).pulseEnd = some e → s.time < e)) :=
  ⟨⟨running.fset (Reg.TB_PIN_SRC 3) 1 |>.fset Reg.TB_OUT_STATUS_LEVEL 9 |>.setPin 3
      { PinSt.init with pulseEnd := some 0 }, 3, 0, by decide +kernel⟩,
    ⟨running.fset (Reg.TB_PIN_SRC 3) 3 |>.fset Reg.TB_OUT_STATUS_LEVEL 9 |>.setPin 3
      { PinSt.init with pulseEnd := some 0 }, 3, 0, by decide +kernel⟩,
    ⟨running.setPin 3 PinSt.init, 3, by decide +kernel⟩⟩

theorem test_levelReturn_can_run :
    (∃ (s : State) (p : Fin 16) (e : Nat), s.canonical = true ∧ s.down = false ∧ (s.pin p).lvlReturn = some e ∧ e ≤
      s.time ∧ s.pinSrc p = 2) ∧
    (∃ (s : State) (p : Fin 16) (e : Nat), s.canonical = true ∧ s.down = false ∧ (s.pin p).lvlReturn = some e ∧ e ≤
      s.time ∧ s.pinSrc p ≠ 2) ∧
    (∃ (s : State) (p : Fin 16), s.canonical = true ∧ s.down = false ∧ (∀ e, (s.pin p).lvlReturn = some e → s.time < e)) :=
  ⟨⟨running.fset (Reg.TB_PIN_SRC 3) 2 |>.fset Reg.TB_OUT_STATUS_LEVEL 9 |>.setPin 3
      { PinSt.init with lvlReturn := some 0 }, 3, 0, by decide +kernel⟩,
    ⟨running.fset (Reg.TB_PIN_SRC 3) 3 |>.fset Reg.TB_OUT_STATUS_LEVEL 9 |>.setPin 3
      { PinSt.init with lvlReturn := some 0 }, 3, 0, by decide +kernel⟩,
    ⟨running.setPin 3 PinSt.init, 3, by decide +kernel⟩⟩

theorem test_gridEdge_can_run :
    (∃ (s : State) (p : Fin 16) (u due : Nat) (rest : List (Nat × Nat)), s.canonical = true ∧ s.down = false ∧ (s.pin
      p).grid = (u, due) :: rest ∧ due ≤ s.now ∧ s.pinSrc p = 1 ∧ (s.pinLevel p = true ∨ (s.pin p).seen.contains u =
      false)) ∧
    (∃ (s : State) (p : Fin 16) (u due : Nat) (rest : List (Nat × Nat)), s.canonical = true ∧ s.down = false ∧ (s.pin
      p).grid = (u, due) :: rest ∧ due ≤ s.now ∧ s.pinSrc p = 2 ∧ (s.pin p).seen.contains u = false) ∧
    (∃ (s : State) (p : Fin 16) (u due : Nat) (rest : List (Nat × Nat)), s.canonical = true ∧ s.down = false ∧ (s.pin
      p).grid = (u, due) :: rest ∧ due ≤ s.now ∧ (¬ (s.pinSrc p = 1 ∧ (s.pinLevel p = true ∨ (s.pin p).seen.contains u =
      false))) ∧ ¬ (s.pinSrc p = 2 ∧ (s.pin p).seen.contains u = false)) ∧
    (∃ (s : State) (p : Fin 16), s.canonical = true ∧ s.down = false ∧ ((s.pin p).grid = [] ∨ ∃ x ∈ (s.pin p).grid.head?,
      s.now < x.2)) :=
  ⟨⟨running.fset (Reg.TB_PIN_SRC 3) 1 |>.fset Reg.TB_OUT_STATUS_LEVEL 1 |>.setPin 3
      { PinSt.init with grid := [(7, 0), (8, 90)] }, 3, 7, 0, [(8, 90)], by decide +kernel⟩,
    ⟨running.fset (Reg.TB_PIN_SRC 3) 1 |>.fset Reg.TB_OUT_STATUS_LEVEL 1 |>.setPin 3
      { PinSt.init with grid := [(7, 0), (8, 90)] } |>.fset (Reg.TB_PIN_SRC 3) 2, 3, 7, 0, [(8, 90)], by decide +kernel⟩,
    ⟨running.fset (Reg.TB_PIN_SRC 3) 1 |>.fset Reg.TB_OUT_STATUS_LEVEL 1 |>.setPin 3
      { PinSt.init with grid := [(7, 0), (8, 90)] } |>.fset (Reg.TB_PIN_SRC 3) 3, 3, 7, 0, [(8, 90)], by decide +kernel⟩,
    ⟨running.setPin 3 PinSt.init, 3, by decide +kernel⟩⟩

theorem test_tbCntRead_can_run :
    (∃ (s : State) (m : Master), s.canonical = true ∧ s.down = false ∧ (m = .pcie → s.barOpen = true) ∧ s.regReached m
      Reg.TB_CNT_LO = true) ∧
    (∃ (s : State) (m : Master), s.canonical = true ∧ s.down = false ∧ (m = .pcie → s.barOpen = true) ∧ s.regReached m
      Reg.TB_CNT_LO = false) ∧
    (∃ (s : State) (m : Master), s.canonical = true ∧ s.down = false ∧ m = .pcie ∧ s.barOpen = false) :=
  ⟨⟨running, .aon, by decide +kernel⟩,
    ⟨running, (.seq 3), by decide +kernel⟩,
    ⟨running.fset Reg.INST_STATUS_STAGE 2 |>.foff Reg.INST_STATUS_COCOON |>.foff Reg.TRU_STATUS_RECOVERY, .pcie,
      by decide +kernel⟩⟩

theorem test_syncArm_can_run :
    (∃ (s : State) (m : Master), s.canonical = true ∧ s.admits m Reg.TB_SYNC_CFG = true ∧ s.stepOn = false ∧ s.anyTimer =
      false) ∧
    (∃ (s : State) (m : Master), s.canonical = true ∧ s.admits m Reg.TB_SYNC_CFG = true ∧ (s.stepOn = true ∨ s.anyTimer =
      true)) :=
  ⟨⟨running.foff Reg.TB_STEP_CTL_EN |> fun s => forN 16 (fun k s => s.foff (Reg.TMR_CTL_EN k)) s, .aon,
      by decide +kernel⟩,
    ⟨running.fon Reg.TB_STEP_CTL_EN, .aon, by decide +kernel⟩⟩

theorem test_syncSlew_can_run :
    (∃ (s : State), s.canonical = true ∧ s.down = false ∧ s.fget Reg.TB_SYNC_CFG_MODE = 2 ∧ s.tb.slewAt + s.slewCounts ≤
      s.now ∧ 32768 ≤ s.tb.corr) ∧
    (∃ (s : State), s.canonical = true ∧ s.down = false ∧ s.fget Reg.TB_SYNC_CFG_MODE = 2 ∧ s.tb.slewAt + s.slewCounts ≤
      s.now ∧ s.tb.corr ≤ -32768) ∧
    (∃ (s : State), s.canonical = true ∧ s.down = false ∧ s.fget Reg.TB_SYNC_CFG_MODE = 2 ∧ s.tb.slewAt + s.slewCounts ≤
      s.now ∧ -32768 < s.tb.corr ∧ s.tb.corr < 32768) ∧
    (∃ (s : State), s.canonical = true ∧ s.down = false ∧ (s.fget Reg.TB_SYNC_CFG_MODE ≠ 2 ∨ s.now < s.tb.slewAt +
      s.slewCounts)) :=
  ⟨⟨running.fset Reg.TB_SYNC_CFG_MODE 2 |>.fset Reg.TB_SYNC_CFG_SLEW 5 |> fun s =>
      { s with counter := 9000, tb := { s.tb with corr := 70000, slewAt := 3 } }, by decide +kernel⟩,
    ⟨running.fset Reg.TB_SYNC_CFG_MODE 2 |>.fset Reg.TB_SYNC_CFG_SLEW 5 |> fun s =>
      { s with counter := 9000, tb := { s.tb with corr := -70000, slewAt := 3 } }, by decide +kernel⟩,
    ⟨running.fset Reg.TB_SYNC_CFG_MODE 2 |>.fset Reg.TB_SYNC_CFG_SLEW 5 |> fun s =>
      { s with counter := 9000, tb := { s.tb with corr := 30, slewAt := 3 } }, by decide +kernel⟩,
    ⟨running.fset Reg.TB_SYNC_CFG_MODE 1, by decide +kernel⟩⟩

theorem test_tsyncSend_can_run :
    (∃ (s : State) (k : Fin 12) (frac : BitVec 16), s.canonical = true ∧ s.down = false ∧ s.fbit (Reg.IBL_STATUS_UP k) =
      true ∧ (s.link k).tsAt + 1024000 ≤ s.time) ∧
    (∃ (s : State) (k : Fin 12) (frac : BitVec 16), s.canonical = true ∧ s.down = false ∧ (s.fbit (Reg.IBL_STATUS_UP k) =
      false ∨ s.time < (s.link k).tsAt + 1024000)) :=
  ⟨⟨running.fon (Reg.IBL_STATUS_UP 4) |> fun (s : State) => { s with time := 2000000 }, 4, 7, by decide +kernel⟩,
    ⟨running.foff (Reg.IBL_STATUS_UP 4), 4, 7, by decide +kernel⟩⟩

theorem test_tsyncRequest_can_run :
    (∃ (s : State) (k : Fin 12) (no : BitVec 8) (t1 : BitVec 80) (f2 : BitVec 16) (f3 : BitVec 16), s.canonical = true ∧
      s.down = false ∧ s.fbit (Reg.IBL_STATUS_UP k) = true) ∧
    (∃ (s : State) (k : Fin 12) (no : BitVec 8) (t1 : BitVec 80) (f2 : BitVec 16) (f3 : BitVec 16), s.canonical = true ∧
      s.down = false ∧ s.fbit (Reg.IBL_STATUS_UP k) = false) :=
  ⟨⟨running.fon (Reg.IBL_STATUS_UP 4), 4, 3, 9, 1, 2, by decide +kernel⟩,
    ⟨running.foff (Reg.IBL_STATUS_UP 4), 4, 3, 9, 1, 2, by decide +kernel⟩⟩

theorem test_tsyncReply_can_run :
    (∃ (s : State) (k : Fin 12) (no : BitVec 8) (t2 : BitVec 80) (t3 : BitVec 80) (f4 : BitVec 16) (t1 d : Nat),
      s.canonical = true ∧ s.down = false ∧ s.fbit (Reg.IBL_STATUS_UP k) = true ∧ (s.link k).tsT1 = some t1 ∧ no.toNat =
      (s.link k).tsNo ∧ d = (max 0 (halfCeil (((s.stamp f4 : Int) - t1) - ((t3.toNat : Int) - t2.toNat)))).toNat ∧
      (s.fget Reg.TB_SYNC_CFG_MODE ≠ 2 ∨ s.fget Reg.TB_SYNC_CFG_LINK ≠ k.val) ∧ d < 2 ^ 12) ∧
    (∃ (s : State) (k : Fin 12) (no : BitVec 8) (t2 : BitVec 80) (t3 : BitVec 80) (f4 : BitVec 16) (t1 d : Nat) (th :
      Int), s.canonical = true ∧ s.down = false ∧ s.fbit (Reg.IBL_STATUS_UP k) = true ∧ (s.link k).tsT1 = some t1 ∧
      no.toNat = (s.link k).tsNo ∧ d = (max 0 (halfCeil (((s.stamp f4 : Int) - t1) - ((t3.toNat : Int) -
      t2.toNat)))).toNat ∧ s.fget Reg.TB_SYNC_CFG_MODE = 2 ∧ s.fget Reg.TB_SYNC_CFG_LINK = k.val ∧ th = (rnaHalf
      (((t2.toNat : Int) - t1) + ((t3.toNat : Int) - (s.stamp f4 : Int)))) ∧ d < 2 ^ 12 ∧ (th.natAbs ≤ 65536 ∨ s.fbit
      Reg.TB_STEP_CTL_EN = true ∨ ((List.range 16).any fun i => s.fbit (Reg.TMR_CTL_EN i)) = true) ∧ 4 * th.natAbs ≤
      s.fget Reg.TB_SYNC_CFG_LIMIT * 65536) ∧
    (∃ (s : State) (k : Fin 12) (no : BitVec 8) (t2 : BitVec 80) (t3 : BitVec 80) (f4 : BitVec 16) (t1 d : Nat) (th :
      Int), s.canonical = true ∧ s.down = false ∧ s.fbit (Reg.IBL_STATUS_UP k) = true ∧ (s.link k).tsT1 = some t1 ∧
      no.toNat = (s.link k).tsNo ∧ d = (max 0 (halfCeil (((s.stamp f4 : Int) - t1) - ((t3.toNat : Int) -
      t2.toNat)))).toNat ∧ s.fget Reg.TB_SYNC_CFG_MODE = 2 ∧ s.fget Reg.TB_SYNC_CFG_LINK = k.val ∧ th = (rnaHalf
      (((t2.toNat : Int) - t1) + ((t3.toNat : Int) - (s.stamp f4 : Int)))) ∧ 4 * th.natAbs ≤ s.fget Reg.TB_SYNC_CFG_LIMIT
      * 65536 ∧ 2 ≤ s.tb.good) ∧
    (∃ (s : State) (k : Fin 12) (no : BitVec 8) (t2 : BitVec 80) (t3 : BitVec 80) (f4 : BitVec 16) (t1 d : Nat) (th :
      Int), s.canonical = true ∧ s.down = false ∧ s.fbit (Reg.IBL_STATUS_UP k) = true ∧ (s.link k).tsT1 = some t1 ∧
      no.toNat = (s.link k).tsNo ∧ d = (max 0 (halfCeil (((s.stamp f4 : Int) - t1) - ((t3.toNat : Int) -
      t2.toNat)))).toNat ∧ s.fget Reg.TB_SYNC_CFG_MODE = 2 ∧ s.fget Reg.TB_SYNC_CFG_LINK = k.val ∧ th = (rnaHalf
      (((t2.toNat : Int) - t1) + ((t3.toNat : Int) - (s.stamp f4 : Int)))) ∧ 65536 < th.natAbs ∧ s.fbit
      Reg.TB_STEP_CTL_EN = false ∧ ((List.range 16).any fun i => s.fbit (Reg.TMR_CTL_EN i)) = false ∧ ¬ (4 * th.natAbs ≤
      s.fget Reg.TB_SYNC_CFG_LIMIT * 65536) ∧ 2 ≤ s.tb.bad) ∧
    (∃ (s : State) (k : Fin 12) (no : BitVec 8) (t2 : BitVec 80) (t3 : BitVec 80) (f4 : BitVec 16), s.canonical = true ∧
      s.down = false ∧ ((s.link k).tsT1 = none ∨ no.toNat ≠ (s.link k).tsNo ∨ s.fbit (Reg.IBL_STATUS_UP k) = false)) :=
  ⟨⟨running.fon (Reg.IBL_STATUS_UP 4) |>.onLink 4 (fun x => { x with tsT1 := some 0, tsNo := 3 }) |> fun (s : State) =>
      { s with counter := 900 } |>.fset Reg.TB_SYNC_CFG_MODE 0, 4, 3, (26214400 : BitVec 80), (32768000 : BitVec 80), 0,
      0, 400, by decide +kernel⟩,
    ⟨running.fon (Reg.IBL_STATUS_UP 4) |>.onLink 4 (fun x => { x with tsT1 := some 0, tsNo := 3 }) |> fun (s : State) =>
      { s with counter := 900 } |>.fset Reg.TB_SYNC_CFG_MODE 2 |>.fset Reg.TB_SYNC_CFG_LINK 4 |>.foff Reg.TB_STEP_CTL_EN
      |> fun s => forN 16 (fun i s => s.foff (Reg.TMR_CTL_EN i)) s, 4, 3, (26214400 : BitVec 80), (32768000 : BitVec 80),
      0, 0, 400, ((rnaHalf ((((26214400 : Nat) : Int) - 0) + (((32768000 : Nat) : Int) - ((running.fon (Reg.IBL_STATUS_UP
      4) |>.onLink 4 (fun x => { x with tsT1 := some 0, tsNo := 3 }) |> fun (s : State) => { s with counter := 900 }
      |>.fset Reg.TB_SYNC_CFG_MODE 2 |>.fset Reg.TB_SYNC_CFG_LINK 4 |>.foff Reg.TB_STEP_CTL_EN |> fun s => forN 16 (fun i
      s => s.foff (Reg.TMR_CTL_EN i)) s : State).stamp 0 : Int))))), by decide +kernel⟩,
    ⟨running.fon (Reg.IBL_STATUS_UP 4) |>.onLink 4 (fun x => { x with tsT1 := some 0, tsNo := 3 }) |> fun (s : State) =>
      { s with counter := 900 } |>.fset Reg.TB_SYNC_CFG_MODE 2 |>.fset Reg.TB_SYNC_CFG_LINK 4 |>.foff Reg.TB_STEP_CTL_EN
      |> fun s => forN 16 (fun i s => s.foff (Reg.TMR_CTL_EN i)) s |>.fon Reg.TB_STEP_CTL_EN |> fun s =>
      { s with tb := { s.tb with good := 2, bad := 2 } }, 4, 3, (26214400 : BitVec 80), (32768000 : BitVec 80), 0, 0,
      400, ((rnaHalf ((((26214400 : Nat) : Int) - 0) + (((32768000 : Nat) : Int) - ((running.fon (Reg.IBL_STATUS_UP 4)
      |>.onLink 4 (fun x => { x with tsT1 := some 0, tsNo := 3 }) |> fun (s : State) => { s with counter := 900 } |>.fset
      Reg.TB_SYNC_CFG_MODE 2 |>.fset Reg.TB_SYNC_CFG_LINK 4 |>.foff Reg.TB_STEP_CTL_EN |> fun s => forN 16 (fun i s =>
      s.foff (Reg.TMR_CTL_EN i)) s |>.fon Reg.TB_STEP_CTL_EN |> fun s =>
      { s with tb := { s.tb with good := 2, bad := 2 } } : State).stamp 0 : Int))))), by decide +kernel⟩,
    ⟨running.fon (Reg.IBL_STATUS_UP 4) |>.onLink 4 (fun x => { x with tsT1 := some 0, tsNo := 3 }) |>.fset
      Reg.TB_SYNC_CFG_MODE 2 |>.fset Reg.TB_SYNC_CFG_LINK 4 |>.fset Reg.TB_SYNC_CFG_LIMIT 0 |>.foff Reg.TB_STEP_CTL_EN |>
      fun (s : State) => { s with counter := 100, tb := { s.tb with good := 2, bad := 2 } }, 4, 3, (26214400 : BitVec
      80), (32768000 : BitVec 80), 0, 0, 0, (rnaHalf (((26214400 : Int) - 0) + ((32768000 : Int) - ((running.fon
      (Reg.IBL_STATUS_UP 4) |>.onLink 4 (fun x => { x with tsT1 := some 0, tsNo := 3 }) |>.fset Reg.TB_SYNC_CFG_MODE 2
      |>.fset Reg.TB_SYNC_CFG_LINK 4 |>.fset Reg.TB_SYNC_CFG_LIMIT 0 |>.foff Reg.TB_STEP_CTL_EN |> fun (s : State) =>
      { s with counter := 100, tb := { s.tb with good := 2, bad := 2 } } : State).stamp 0 : Int)))), by decide +kernel⟩,
    ⟨running.onLink 4 (fun x => { x with tsT1 := none }), 4, 3, 0, 0, 0, by decide +kernel⟩⟩

theorem test_timerEnable_can_run :
    (∃ (s : State) (k : Fin 16), s.canonical = true ∧ s.down = false ∧ s.fbit (Reg.TMR_CTL_EN k) = false ∧ (¬ ((s.fget
      (Reg.TMR_CTL_SRC k) = 1 ∨ s.fget (Reg.TMR_CTL_SRC k) = 2) ∧ s.fget (Reg.TMR_PRE_INTM1 k) = 0))) ∧
    (∃ (s : State) (k : Fin 16), s.canonical = true ∧ s.down = false ∧ s.fbit (Reg.TMR_CTL_EN k) = false ∧ (s.fget
      (Reg.TMR_CTL_SRC k) = 1 ∨ s.fget (Reg.TMR_CTL_SRC k) = 2) ∧ s.fget (Reg.TMR_PRE_INTM1 k) = 0) ∧
    (∃ (s : State) (k : Fin 16), s.canonical = true ∧ s.down = false ∧ s.fbit (Reg.TMR_CTL_EN k) = true) :=
  ⟨⟨running.foff (Reg.TMR_CTL_EN 2) |>.fset (Reg.TMR_PRE_INTM1 2) 3, 2, by decide +kernel⟩,
    ⟨running.foff (Reg.TMR_CTL_EN 2) |>.fset (Reg.TMR_PRE_INTM1 2) 0 |>.fset (Reg.TMR_CTL_SRC 2) 1, 2, by decide +kernel⟩,
    ⟨running.fon (Reg.TMR_CTL_EN 2), 2, by decide +kernel⟩⟩

theorem test_timerReset_can_run : ∃ (s : State) (k : Fin 16), s.canonical = true ∧ s.down = false :=
  ⟨running.fon (Reg.TMR_CTL_EN 2) |>.fon (Reg.TMR_CTL_MIE 2) |>.fon (Reg.TMR_STATUS_MATCH 2), 2, by decide +kernel⟩

theorem test_timerIncrement_can_run :
    (∃ (s : State) (k : Fin 16) (ticks : BitVec 16), s.canonical = true ∧ s.down = false ∧ s.fbit (Reg.TMR_CTL_EN k) =
      true ∧ (s.timer k).due = none ∧ ((s.timer k).req + ((s.timer k).acc + 65536 * (if s.fget (Reg.TMR_CTL_SRC k) = 0
      then s.time - (s.timer k).lastTick else if s.fget (Reg.TMR_CTL_SRC k) = 3 then 0 else if s.timerFed k then
      ticks.toNat else 0)) / s.timerDiv k) ≠ 0 ∧ (s.timer k).edge < s.time) ∧
    (∃ (s : State) (k : Fin 16) (ticks : BitVec 16), s.canonical = true ∧ s.down = false ∧ s.fbit (Reg.TMR_CTL_EN k) =
      true ∧ (s.timer k).due = none ∧ ¬ (((s.timer k).req + ((s.timer k).acc + 65536 * (if s.fget (Reg.TMR_CTL_SRC k) = 0
      then s.time - (s.timer k).lastTick else if s.fget (Reg.TMR_CTL_SRC k) = 3 then 0 else if s.timerFed k then
      ticks.toNat else 0)) / s.timerDiv k) ≠ 0 ∧ (s.timer k).edge < s.time)) ∧
    (∃ (s : State) (k : Fin 16) (ticks : BitVec 16), s.canonical = true ∧ s.down = false ∧ s.fbit (Reg.TMR_CTL_EN k) =
      true ∧ (s.timer k).due.isSome = true) ∧
    (∃ (s : State) (k : Fin 16) (ticks : BitVec 16), s.canonical = true ∧ s.down = false ∧ s.fbit (Reg.TMR_CTL_EN k) =
      false) :=
  ⟨⟨running.fon (Reg.TMR_CTL_EN 2) |>.fset (Reg.TMR_CTL_SRC 2) 2 |>.fset (Reg.TMR_PRE_INTM1 2) 3 |> fun s =>
      { s.setTimer 2 { Timer.init with req := 2, edge := 3, lastTick := 5 } with time := 30 }, 2, 9, by decide +kernel⟩,
    ⟨running.fon (Reg.TMR_CTL_EN 2) |>.fset (Reg.TMR_CTL_SRC 2) 2 |>.fset (Reg.TMR_PRE_INTM1 2) 3 |> fun s =>
      { s.setTimer 2 { Timer.init with req := 2, edge := 3, lastTick := 5 } with time := 30 } |>.setTimer 2
      { Timer.init with edge := 30, req := 4 }, 2, 9, by decide +kernel⟩,
    ⟨running.fon (Reg.TMR_CTL_EN 2) |>.fset (Reg.TMR_CTL_SRC 2) 2 |>.fset (Reg.TMR_PRE_INTM1 2) 3 |> fun s =>
      { s.setTimer 2 { Timer.init with req := 2, edge := 3, lastTick := 5 } with time := 30 } |>.setTimer 2
      { Timer.init with due := some 3, cmp := 7, per := 10 }, 2, 9, by decide +kernel⟩,
    ⟨running.foff (Reg.TMR_CTL_EN 2), 2, 9, by decide +kernel⟩⟩

theorem test_timerMatch_can_run :
    (∃ (s : State) (k : Fin 16), s.canonical = true ∧ s.down = false ∧ (s.timer k).due.isSome = true) ∧
    (∃ (s : State) (k : Fin 16), s.canonical = true ∧ s.down = false ∧ (s.timer k).due = none) :=
  ⟨⟨running.setTimer 2 { Timer.init with due := some 3, cmp := 7, per := 10 } |>.fon (Reg.TMR_CTL_MIE 2) |>.foff
      (Reg.TMR_STATUS_MATCH 2), 2, by decide +kernel⟩,
    ⟨running.setTimer 2 Timer.init, 2, by decide +kernel⟩⟩

theorem test_timerCompareCommit_can_run :
    (∃ (s : State) (k : Fin 16) (hi : Word), s.canonical = true ∧ s.down = false ∧ ((s.timer k).due = none ∨ (s.timer
      k).due = some s.time) ∧ s.timerCount k < ((s.rd (Reg.TMR_CMP_LO k)).toNat + hi.toNat * 2 ^ 32)) ∧
    (∃ (s : State) (k : Fin 16) (hi : Word), s.canonical = true ∧ s.down = false ∧ ((s.timer k).due = none ∨ (s.timer
      k).due = some s.time) ∧ ((s.rd (Reg.TMR_CMP_LO k)).toNat + hi.toNat * 2 ^ 32) < s.timerCount k) ∧
    (∃ (s : State) (k : Fin 16) (hi : Word), s.canonical = true ∧ s.down = false ∧ ((s.timer k).due = none ∨ (s.timer
      k).due = some s.time) ∧ ((s.rd (Reg.TMR_CMP_LO k)).toNat + hi.toNat * 2 ^ 32) = s.timerCount k) ∧
    (∃ (s : State) (k : Fin 16) (hi : Word) (e : Nat), s.canonical = true ∧ s.down = false ∧ (s.timer k).due = some e ∧ e
      ≠ s.time) :=
  ⟨⟨running.setTimer 2 { Timer.init with due := some 0 }, 2, 4, by decide +kernel⟩,
    ⟨running.wr64 (Reg.TMR_CNT_LO 2) (2^40) |>.setTimer 2 Timer.init, 2, 4, by decide +kernel⟩,
    ⟨running.wr64 (Reg.TMR_CNT_LO 2) (4 * 2^32 + 7) |>.wr (Reg.TMR_CMP_LO 2) 7 |>.setTimer 2 Timer.init, 2, 4,
      by decide +kernel⟩,
    ⟨running.setTimer 2 { Timer.init with due := some 3 } |> fun s => { s with time := 9 }, 2, 4, 3, by decide +kernel⟩⟩

theorem test_timerPeriodCommit_can_run :
    (∃ (s : State) (k : Fin 16) (hi : Word), s.canonical = true ∧ s.down = false ∧ (s.timer k).due.isSome = true) ∧
    (∃ (s : State) (k : Fin 16) (hi : Word), s.canonical = true ∧ s.down = false ∧ (s.timer k).due = none) :=
  ⟨⟨running.setTimer 2 { Timer.init with due := some 3, cmp := 7, per := 10 }, 2, 4, by decide +kernel⟩,
    ⟨running.setTimer 2 { Timer.init with cmp := 7, per := 10 }, 2, 4, by decide +kernel⟩⟩

theorem test_trigInEdge_can_run :
    (∃ (s : State) (k : Fin 16) (rising : Bool), s.canonical = true ∧ s.down = false ∧ s.fbit (Reg.TMR_CTL_EN k) = true ∧
      s.edgeAccepted k rising = true ∧ edgeTaken (s.fget (Reg.TMR_CTL_EDGE k)) rising = true ∧ (s.timer k).due = none ∧
      s.fget (Reg.TMR_IN_EPSM1 k) ≤ (s.timer k).edges ∧ s.fbit (Reg.TMR_CTL_CAP_EN k) = true ∧ s.fget (Reg.TMR_CTL_SRC k)
      ≠ 3) ∧
    (∃ (s : State) (k : Fin 16) (rising : Bool), s.canonical = true ∧ s.down = false ∧ s.fbit (Reg.TMR_CTL_EN k) = true ∧
      s.edgeAccepted k rising = true ∧ edgeTaken (s.fget (Reg.TMR_CTL_EDGE k)) rising = true ∧ (s.timer k).due = none ∧
      s.fget (Reg.TMR_IN_EPSM1 k) ≤ (s.timer k).edges ∧ s.fget (Reg.TMR_CTL_SRC k) = 3) ∧
    (∃ (s : State) (k : Fin 16) (rising : Bool), s.canonical = true ∧ s.down = false ∧ s.fbit (Reg.TMR_CTL_EN k) = true ∧
      s.edgeAccepted k rising = true ∧ edgeTaken (s.fget (Reg.TMR_CTL_EDGE k)) rising = true ∧ (s.timer k).due = none ∧
      s.fget (Reg.TMR_IN_EPSM1 k) ≤ (s.timer k).edges ∧ s.fbit (Reg.TMR_CTL_CAP_EN k) = false) ∧
    (∃ (s : State) (k : Fin 16) (rising : Bool), s.canonical = true ∧ s.down = false ∧ s.fbit (Reg.TMR_CTL_EN k) = true ∧
      s.edgeAccepted k rising = true ∧ (s.timer k).due = none ∧ (edgeTaken (s.fget (Reg.TMR_CTL_EDGE k)) rising = false ∨
      (s.timer k).edges < s.fget (Reg.TMR_IN_EPSM1 k))) ∧
    (∃ (s : State) (k : Fin 16) (rising : Bool), s.canonical = true ∧ s.down = false ∧ s.fbit (Reg.TMR_CTL_EN k) = true ∧
      s.edgeAccepted k rising = true ∧ (s.timer k).due.isSome = true) ∧
    (∃ (s : State) (k : Fin 16) (rising : Bool), s.canonical = true ∧ s.down = false ∧ (s.fbit (Reg.TMR_CTL_EN k) = false
      ∨ s.edgeAccepted k rising = false)) :=
  ⟨⟨running.fon (Reg.TMR_CTL_EN 2) |>.setTimer 2 { Timer.init with level := some (false, 0), edges := 4 } |> fun s =>
      { s with time := 9000 } |>.fset (Reg.TMR_IN_EPSM1 2) 3 |>.fset (Reg.TMR_CTL_SRC 2) 0 |>.fon (Reg.TMR_CTL_CAP_EN 2)
      |>.fset (Reg.TMR_CTL_EDGE 2) 0, 2, true, by decide +kernel⟩,
    ⟨running.fon (Reg.TMR_CTL_EN 2) |>.setTimer 2 { Timer.init with level := some (false, 0), edges := 4 } |> fun s =>
      { s with time := 9000 } |>.fset (Reg.TMR_IN_EPSM1 2) 3 |>.fset (Reg.TMR_CTL_SRC 2) 3 |>.fon (Reg.TMR_CTL_CAP_EN 2)
      |>.fset (Reg.TMR_CTL_EDGE 2) 2 |>.wr (Reg.TMR_PRE 2) 0, 2, true, by decide +kernel⟩,
    ⟨running.fon (Reg.TMR_CTL_EN 2) |>.setTimer 2 { Timer.init with level := some (false, 0), edges := 4 } |> fun s =>
      { s with time := 9000 } |>.fset (Reg.TMR_IN_EPSM1 2) 3 |>.fset (Reg.TMR_CTL_SRC 2) 3 |>.foff (Reg.TMR_CTL_CAP_EN 2)
      |>.fset (Reg.TMR_CTL_EDGE 2) 2, 2, true, by decide +kernel⟩,
    ⟨running.fon (Reg.TMR_CTL_EN 2) |>.setTimer 2 { Timer.init with level := some (false, 0), edges := 4 } |> fun s =>
      { s with time := 9000 } |>.fset (Reg.TMR_IN_EPSM1 2) 9 |>.fset (Reg.TMR_CTL_EDGE 2) 2, 2, true, by decide +kernel⟩,
    ⟨running.fon (Reg.TMR_CTL_EN 2) |>.setTimer 2 { Timer.init with level := some (false, 0), edges := 4 } |> fun s =>
      { s with time := 9000 } |>.setTimer 2 { Timer.init with due := some 3 }, 2, true, by decide +kernel⟩,
    ⟨running.foff (Reg.TMR_CTL_EN 2), 2, true, by decide +kernel⟩⟩

theorem test_descriptorEnqueue_can_run :
    (∃ (s : State) (i : Fin 128) (stores : List (Fin 7 × Word)) (last : Word), s.canonical = true ∧ s.down = false ∧
      s.fbit (Reg.SEQ_CTL_RUN i) = true ∧ s.tileAbsent (i / 2) = false ∧ ((s.tile (i / 2)).port (decide (i.val % 2 =
      1))).queue.length < 32 ∧ ((s.tile (i / 2)).port (decide (i.val % 2 = 1))).stalled = []) ∧
    (∃ (s : State) (i : Fin 128) (stores : List (Fin 7 × Word)) (last : Word), s.canonical = true ∧ s.down = false ∧
      s.fbit (Reg.SEQ_CTL_RUN i) = true ∧ s.tileAbsent (i / 2) = false ∧ (32 ≤ ((s.tile (i / 2)).port (decide (i.val % 2
      = 1))).queue.length ∨ ((s.tile (i / 2)).port (decide (i.val % 2 = 1))).stalled ≠ [])) ∧
    (∃ (s : State) (i : Fin 128) (stores : List (Fin 7 × Word)) (last : Word), s.canonical = true ∧ s.down = false ∧
      (s.fbit (Reg.SEQ_CTL_RUN i) = false ∨ s.tileAbsent (i / 2) = true)) :=
  ⟨⟨running.fon (Reg.SEQ_CTL_RUN 11) |>.onTile 5 (fun _ => TileSt.init), 11, [(2, 7), (2, 9), (6, 1)], 0x30000000,
      by decide +kernel⟩,
    ⟨running.fon (Reg.SEQ_CTL_RUN 11) |>.onTile 5 (fun _ =>
      { TileSt.init with odd := ⟨List.replicate 8 0, List.replicate 32 [], []⟩ }), 11, [(2, 7), (2, 9), (6, 1)],
      0x30000000, by decide +kernel⟩,
    ⟨running.foff (Reg.SEQ_CTL_RUN 11), 11, [], 0x30000000, by decide +kernel⟩⟩

theorem test_descriptorDispatch_can_run :
    (∃ (s : State) (t : Fin 64) (d : Desc), s.canonical = true ∧ s.down = false ∧ s.tileRuns t = true ∧ (s.tile t).tset =
      none ∧
      (match (s.headDesc t (s.tile t).turn).filter (fun d => s.canDispatch t d) with | some d => some d | none => (s.headDesc t (!(s.tile t).turn)).filter (fun d => s.canDispatch t d))
      = some d ∧ d.refusal ≠ 0) ∧
    (∃ (s : State) (t : Fin 64) (d : Desc), s.canonical = true ∧ s.down = false ∧ s.tileRuns t = true ∧ (s.tile t).tset =
      none ∧
      (match (s.headDesc t (s.tile t).turn).filter (fun d => s.canDispatch t d) with | some d => some d | none => (s.headDesc t (!(s.tile t).turn)).filter (fun d => s.canDispatch t d))
      = some d ∧ d.refusal = 0 ∧ d.op ≠ 4) ∧
    (∃ (s : State) (t : Fin 64) (d : Desc), s.canonical = true ∧ s.down = false ∧ s.tileRuns t = true ∧ (s.tile t).tset =
      none ∧
      (match (s.headDesc t (s.tile t).turn).filter (fun d => s.canDispatch t d) with | some d => some d | none => (s.headDesc t (!(s.tile t).turn)).filter (fun d => s.canDispatch t d))
      = some d ∧ d.refusal = 0 ∧ d.op = 4) ∧
    (∃ (s : State) (t : Fin 64), s.canonical = true ∧ s.down = false ∧ s.tileRuns t = false) ∧
    (∃ (s : State) (t : Fin 64), s.canonical = true ∧ s.down = false ∧ s.tileRuns t = true ∧ ((s.tile t).tset ≠ none ∨
      (match (s.headDesc t (s.tile t).turn).filter (fun d => s.canDispatch t d) with | some d => some d | none => (s.headDesc t (!(s.tile t).turn)).filter (fun d => s.canDispatch t d))
      = none)) :=
  ⟨⟨running.fon (Reg.TILE_CTL_EN 5) |>.foff (Reg.TILE_STATUS_ERR 5) |>.foff (Reg.TILE_STATUS_HALT0 5) |>.foff
      (Reg.TILE_STATUS_HALT1 5) |>.onTile 5 (fun x =>
      { TileSt.init with odd := ⟨List.replicate 8 0, [[0x10000000, 0,0,0,0,0,0,0]], []⟩, turn := true }), 5,
      ⟨[0x10000000, 0,0,0,0,0,0,0], true⟩, by decide +kernel⟩,
    ⟨running.fon (Reg.TILE_CTL_EN 5) |>.foff (Reg.TILE_STATUS_ERR 5) |>.foff (Reg.TILE_STATUS_HALT0 5) |>.foff
      (Reg.TILE_STATUS_HALT1 5) |>.onTile 5 (fun x =>
      { TileSt.init with odd := ⟨List.replicate 8 0, [[0x2FFF1007, 0x00010300, 0, 0x00888000, 0, 0x000000ff, 0, 0]], [[9]]⟩, turn := true }),
      5, ⟨[0x2FFF1007, 0x00010300, 0, 0x00888000, 0, 0x000000ff, 0, 0], true⟩, by decide +kernel⟩,
    ⟨running.fon (Reg.TILE_CTL_EN 5) |>.foff (Reg.TILE_STATUS_ERR 5) |>.foff (Reg.TILE_STATUS_HALT0 5) |>.foff
      (Reg.TILE_STATUS_HALT1 5) |>.onTile 5 (fun x =>
      { TileSt.init with odd := ⟨List.replicate 8 0, [[0x4FFFF000, 0x105, 0x00070003, 5, 0, 0, 0, 0]], [[9]]⟩, turn := true }),
      5, ⟨[0x4FFFF000, 0x105, 0x00070003, 5, 0, 0, 0, 0], true⟩, by decide +kernel⟩,
    ⟨running.foff (Reg.TILE_CTL_EN 5), 5, by decide +kernel⟩,
    ⟨running.fon (Reg.TILE_CTL_EN 5) |>.foff (Reg.TILE_STATUS_ERR 5) |>.foff (Reg.TILE_STATUS_HALT0 5) |>.foff
      (Reg.TILE_STATUS_HALT1 5) |>.onTile 5 (fun x => { TileSt.init with turn := true }), 5, by decide +kernel⟩⟩

theorem test_nop_can_run :
    (∃ (s : State) (t : Fin 64) (odd : Bool) (d : Desc), s.canonical = true ∧ s.down = false ∧ s.tileRuns t = true ∧
      s.headDesc t odd = some d ∧ d.op = 0 ∧ d.refusal = 0 ∧ (s.tile t).tset = none ∧ s.tqHas t d.wd = true ∧ (8 ≤ d.pd ∨
      s.fget (Reg.TILE_TQ_COUNT t d.pd) - (if d.pd = d.wd then 1 else 0) < 4095)) ∧
    (∃ (s : State) (t : Fin 64) (odd : Bool) (d : Desc), s.canonical = true ∧ s.down = false ∧ s.tileRuns t = true ∧
      s.headDesc t odd = some d ∧ d.op = 0 ∧ d.refusal = 0 ∧ (s.tile t).tset = none ∧ s.tqHas t d.wd = true ∧ d.pd < 8 ∧
      4095 ≤ s.fget (Reg.TILE_TQ_COUNT t d.pd) - (if d.pd = d.wd then 1 else 0)) ∧
    (∃ (s : State) (t : Fin 64) (odd : Bool), s.canonical = true ∧ s.down = false ∧ s.tileRuns t = false) ∧
    (∃ (s : State) (t : Fin 64) (odd : Bool), s.canonical = true ∧ s.down = false ∧ s.tileRuns t = true ∧ ((s.tile
      t).tset ≠ none ∨ (s.headDesc t odd).all (fun d => decide (d.op ≠ 0 ∨ d.refusal ≠ 0) || !s.tqHas t d.wd) = true)) :=
  ⟨⟨running.fon (Reg.TILE_CTL_EN 5) |>.foff (Reg.TILE_STATUS_ERR 5) |>.foff (Reg.TILE_STATUS_HALT0 5) |>.foff
      (Reg.TILE_STATUS_HALT1 5) |>.onTile 5 (fun x =>
      { TileSt.init with even := ⟨List.replicate 8 0, [[0x0F2FF000, 0,0,0,0,0,0,0]], []⟩ }), 5, false, ⟨[0x0F2FF000,
      0,0,0,0,0,0,0], false⟩, by decide +kernel⟩,
    ⟨running.fon (Reg.TILE_CTL_EN 5) |>.foff (Reg.TILE_STATUS_ERR 5) |>.foff (Reg.TILE_STATUS_HALT0 5) |>.foff
      (Reg.TILE_STATUS_HALT1 5) |>.onTile 5 (fun x =>
      { TileSt.init with even := ⟨List.replicate 8 0, [[0x0F2FF000, 0,0,0,0,0,0,0]], []⟩ }) |>.fset (Reg.TILE_TQ_COUNT 5
      2) 4095, 5, false, ⟨[0x0F2FF000, 0,0,0,0,0,0,0], false⟩, by decide +kernel⟩,
    ⟨running.foff (Reg.TILE_CTL_EN 5), 5, false, by decide +kernel⟩,
    ⟨running.fon (Reg.TILE_CTL_EN 5) |>.foff (Reg.TILE_STATUS_ERR 5) |>.foff (Reg.TILE_STATUS_HALT0 5) |>.foff
      (Reg.TILE_STATUS_HALT1 5) |>.onTile 5 (fun x => { TileSt.init with turn := true }), 5, false, by decide +kernel⟩⟩

theorem test_tset_can_run :
    (∃ (s : State) (t : Fin 64) (d : Desc), s.canonical = true ∧ s.down = false ∧ s.tileRuns t = true ∧ (s.tile t).tset =
      some d ∧ (s.tile t).enginesIdle = true ∧ s.tqHas t d.wd = true ∧ 8 ≤ d.pd) ∧
    (∃ (s : State) (t : Fin 64), s.canonical = true ∧ s.down = false ∧ s.tileRuns t = false) ∧
    (∃ (s : State) (t : Fin 64), s.canonical = true ∧ s.down = false ∧ s.tileRuns t = true ∧ ((s.tile t).tset = none ∨
      (s.tile t).enginesIdle = false ∨ (s.tile t).tset.all (fun d => !s.tqHas t d.wd) = true)) :=
  ⟨⟨running.fon (Reg.TILE_CTL_EN 5) |>.foff (Reg.TILE_STATUS_ERR 5) |>.foff (Reg.TILE_STATUS_HALT0 5) |>.foff
      (Reg.TILE_STATUS_HALT1 5) |>.onTile 5 (fun x =>
      { TileSt.init with tset := some ⟨[0x4FFFF000, 0x105, 0x00070003, 5, 0, 0, 0, 0], false⟩ }) |>.fset
      (Reg.TILE_TQ_COUNT 5 3) 7 |>.fset (Reg.TILE_RING_FPOS 5 1) 7, 5, ⟨[0x4FFFF000, 0x105, 0x00070003, 5, 0, 0, 0, 0],
      false⟩, by decide +kernel⟩,
    ⟨running.foff (Reg.TILE_CTL_EN 5), 5, by decide +kernel⟩,
    ⟨running.fon (Reg.TILE_CTL_EN 5) |>.foff (Reg.TILE_STATUS_ERR 5) |>.foff (Reg.TILE_STATUS_HALT0 5) |>.foff
      (Reg.TILE_STATUS_HALT1 5) |>.onTile 5 (fun x => { TileSt.init with turn := true }), 5, by decide +kernel⟩⟩

theorem test_notify_can_run :
    (∃ (s : State) (t : Fin 64) (eng : Fin 4) (d : Desc) (rest : List Desc), s.canonical = true ∧ s.down = false ∧
      s.tileRuns t = true ∧ eng ≠ 0 ∧ (s.tile t).eq eng = d :: rest ∧ d.op = 5 ∧ (s.tile t).engineFree eng = true ∧
      s.tqHas t d.wd = true ∧ (8 ≤ d.pd ∨ s.fget (Reg.TILE_TQ_COUNT t d.pd) - (if d.pd = d.wd then 1 else 0) < 4095)) ∧
    (∃ (s : State) (t : Fin 64) (eng : Fin 4) (d : Desc) (rest : List Desc), s.canonical = true ∧ s.down = false ∧
      s.tileRuns t = true ∧ eng ≠ 0 ∧ (s.tile t).eq eng = d :: rest ∧ d.op = 5 ∧ (s.tile t).engineFree eng = true ∧
      s.tqHas t d.wd = true ∧ d.pd < 8 ∧ 4095 ≤ s.fget (Reg.TILE_TQ_COUNT t d.pd) - (if d.pd = d.wd then 1 else 0)) ∧
    (∃ (s : State) (t : Fin 64) (eng : Fin 4) (d : Desc) (rest : List Desc), s.canonical = true ∧ s.down = false ∧
      s.tileRuns t = true ∧ eng ≠ 0 ∧ (s.tile t).eq eng = d :: rest ∧ d.op = 5 ∧ (s.tile t).engineFree eng = true ∧
      s.tqHas t d.wd = true ∧ 8 ≤ d.pd ∧ (s.iface (tileCoord s.devid t 0 % 2 ^ 22)).wait = [] ∧ (s.iface (tileCoord
      s.devid t 0 % 2 ^ 22)).held + 1 ≤ 64) ∧
    (∃ (s : State) (t : Fin 64) (eng : Fin 4), s.canonical = true ∧ s.down = false ∧ s.tileRuns t = false) ∧
    (∃ (s : State) (t : Fin 64) (eng : Fin 4), s.canonical = true ∧ s.down = false ∧ s.tileRuns t = true ∧ (eng = 0 ∨
      (s.tile t).engineFree eng = false ∨ (((s.tile t).eq eng).head?).all (fun d => decide (d.op ≠ 5) || !s.tqHas t d.wd)
      = true)) :=
  ⟨⟨running.fon (Reg.TILE_CTL_EN 5) |>.foff (Reg.TILE_STATUS_ERR 5) |>.foff (Reg.TILE_STATUS_HALT0 5) |>.foff
      (Reg.TILE_STATUS_HALT1 5) |>.onTile 5 (fun x =>
      { TileSt.init with aq := [⟨[0x5FFFF000, 0x00050009, 2, 0, 0, 0, 0, 0], false⟩] }), 5, 2, ⟨[0x5FFFF000, 0x00050009,
      2, 0, 0, 0, 0, 0], false⟩, [], by decide +kernel⟩,
    ⟨running.fon (Reg.TILE_CTL_EN 5) |>.foff (Reg.TILE_STATUS_ERR 5) |>.foff (Reg.TILE_STATUS_HALT0 5) |>.foff
      (Reg.TILE_STATUS_HALT1 5) |>.onTile 5 (fun x =>
      { TileSt.init with aq := [⟨[0x512FF000, 0x00050009, 2, 0, 0, 0, 0, 0], false⟩] }) |>.fset (Reg.TILE_TQ_COUNT 5 1) 3
      |>.fset (Reg.TILE_TQ_COUNT 5 2) 4095, 5, 2, ⟨[0x512FF000, 0x00050009, 2, 0, 0, 0, 0, 0], false⟩, [],
      by decide +kernel⟩,
    ⟨running.fon (Reg.TILE_CTL_EN 5) |>.foff (Reg.TILE_STATUS_ERR 5) |>.foff (Reg.TILE_STATUS_HALT0 5) |>.foff
      (Reg.TILE_STATUS_HALT1 5) |>.onTile 5 (fun x =>
      { TileSt.init with aq := [⟨[0x5FFFF000, 0x00050009, 2, 0, 0, 0, 0, 0], false⟩] }) |> fun s =>
      { s with ifaces := [] }, 5, 2, ⟨[0x5FFFF000, 0x00050009, 2, 0, 0, 0, 0, 0], false⟩, [], by decide +kernel⟩,
    ⟨running.foff (Reg.TILE_CTL_EN 5), 5, 2, by decide +kernel⟩,
    ⟨running.fon (Reg.TILE_CTL_EN 5) |>.foff (Reg.TILE_STATUS_ERR 5) |>.foff (Reg.TILE_STATUS_HALT0 5) |>.foff
      (Reg.TILE_STATUS_HALT1 5) |>.onTile 5 (fun x => { TileSt.init with turn := true }), 5, 2, by decide +kernel⟩⟩

theorem test_descriptorEnd_can_run :
    (∃ (s : State) (t : Fin 64) (eng : Fin 4) (d : Desc) (r : FRun) (rest : List FRun), s.canonical = true ∧ s.down =
      false ∧ s.tileRuns t = true ∧ (eng.val = 1 → (s.tile t).fetch = r :: rest ∧ r.issued = true ∧ r.items = [] ∧ r.d =
      d) ∧ (eng.val = 2 → (s.tile t).mma = some (d, d.nb * d.kb) ∧ 8 ≤ d.pd2) ∧ (eng.val = 3 → (s.tile t).drain = some d)
      ∧ eng ≠ 0 ∧ eng.val = 3 ∧ (8 ≤ d.pd ∨ s.fget (Reg.TILE_TQ_COUNT t d.pd) - (if d.pd = 8 then 1 else 0) < 4095)) ∧
    (∃ (s : State) (t : Fin 64) (eng : Fin 4) (d : Desc) (r : FRun) (rest : List FRun), s.canonical = true ∧ s.down =
      false ∧ s.tileRuns t = true ∧ (eng.val = 1 → (s.tile t).fetch = r :: rest ∧ r.issued = true ∧ r.items = [] ∧ r.d =
      d) ∧ (eng.val = 2 → (s.tile t).mma = some (d, d.nb * d.kb) ∧ 8 ≤ d.pd2) ∧ (eng.val = 3 → (s.tile t).drain = some d)
      ∧ eng ≠ 0 ∧ d.pd < 8 ∧ 4095 ≤ s.fget (Reg.TILE_TQ_COUNT t d.pd) - (if d.pd = 8 then 1 else 0)) ∧
    (∃ (s : State) (t : Fin 64) (eng : Fin 4) (d : Desc) (r : FRun) (rest : List FRun), s.canonical = true ∧ s.down =
      false ∧ s.tileRuns t = true ∧ (eng.val = 1 → (s.tile t).fetch = r :: rest ∧ r.issued = true ∧ r.items = [] ∧ r.d =
      d) ∧ (eng.val = 2 → (s.tile t).mma = some (d, d.nb * d.kb) ∧ 8 ≤ d.pd2) ∧ (eng.val = 3 → (s.tile t).drain = some d)
      ∧ eng ≠ 0 ∧ eng.val = 2) ∧
    (∃ (s : State) (t : Fin 64) (eng : Fin 4) (d : Desc) (r : FRun) (rest : List FRun), s.canonical = true ∧ s.down =
      false ∧ s.tileRuns t = true ∧ (eng.val = 1 → (s.tile t).fetch = r :: rest ∧ r.issued = true ∧ r.items = [] ∧ r.d =
      d) ∧ (eng.val = 2 → (s.tile t).mma = some (d, d.nb * d.kb) ∧ 8 ≤ d.pd2) ∧ (eng.val = 3 → (s.tile t).drain = some d)
      ∧ eng ≠ 0 ∧ eng.val = 1) ∧
    (∃ (s : State) (t : Fin 64) (eng : Fin 4) (d : Desc), s.canonical = true ∧ s.down = false ∧ s.tileRuns t = true ∧
      eng.val = 2 ∧ (s.tile t).mma = some (d, d.nb * d.kb) ∧ d.pd2 < 8 ∧ d.pd ≠ d.pd2 ∧ (8 ≤ d.pd ∨ s.fget
      (Reg.TILE_TQ_COUNT t d.pd) < 4095) ∧ s.fget (Reg.TILE_TQ_COUNT t d.pd2) < 4095 ∧ d.pd < 8) ∧
    (∃ (s : State) (t : Fin 64) (eng : Fin 4) (d : Desc), s.canonical = true ∧ s.down = false ∧ s.tileRuns t = true ∧
      eng.val = 2 ∧ (s.tile t).mma = some (d, d.nb * d.kb) ∧ d.pd2 < 8 ∧ d.pd ≠ d.pd2 ∧ (8 ≤ d.pd ∨ s.fget
      (Reg.TILE_TQ_COUNT t d.pd) < 4095) ∧ 4095 ≤ s.fget (Reg.TILE_TQ_COUNT t d.pd2)) ∧
    (∃ (s : State) (t : Fin 64) (eng : Fin 4), s.canonical = true ∧ s.down = false ∧ s.tileRuns t = false) ∧
    (∃ (s : State) (t : Fin 64) (eng : Fin 4), s.canonical = true ∧ s.down = false ∧ s.tileRuns t = true ∧ (eng.val = 0 ∨
      eng.val = 1 ∧ (((s.tile t).fetch.head?).all (fun r => !(r.issued && r.items.isEmpty)) = true) ∨ eng.val = 2 ∧
      ((s.tile t).mma.all (fun x => decide (x.2 ≠ x.1.nb * x.1.kb)) = true) ∨ eng.val = 3 ∧ (s.tile t).drain = none)) :=
  ⟨⟨running.fon (Reg.TILE_CTL_EN 5) |>.foff (Reg.TILE_STATUS_ERR 5) |>.foff (Reg.TILE_STATUS_HALT0 5) |>.foff
      (Reg.TILE_STATUS_HALT1 5) |>.onTile 5 (fun x =>
      { TileSt.init with drain := some ⟨[0x3F2FF000, 0, 0, 0, 0, 0, 0, 0], false⟩ }), 5, 3, ⟨[0x3F2FF000, 0, 0, 0, 0, 0,
      0, 0], false⟩, ⟨⟨[], false⟩, 0, none, []⟩, [], by decide +kernel⟩,
    ⟨running.fon (Reg.TILE_CTL_EN 5) |>.foff (Reg.TILE_STATUS_ERR 5) |>.foff (Reg.TILE_STATUS_HALT0 5) |>.foff
      (Reg.TILE_STATUS_HALT1 5) |>.onTile 5 (fun x =>
      { TileSt.init with drain := some ⟨[0x3F2FF000, 0, 0, 0, 0, 0, 0, 0], false⟩ }) |>.fset (Reg.TILE_TQ_COUNT 5 2)
      4095, 5, 3, ⟨[0x3F2FF000, 0, 0, 0, 0, 0, 0, 0], false⟩, ⟨⟨[], false⟩, 0, none, []⟩, [], by decide +kernel⟩,
    ⟨running.fon (Reg.TILE_CTL_EN 5) |>.foff (Reg.TILE_STATUS_ERR 5) |>.foff (Reg.TILE_STATUS_HALT0 5) |>.foff
      (Reg.TILE_STATUS_HALT1 5) |>.onTile 5 (fun x =>
      { TileSt.init with mma := some (⟨[0x2F2FF007, 0x00018000, 0, 0x01000000, 0, 0x000000ff, 0, 0], false⟩, 1) }), 5, 2,
      ⟨[0x2F2FF007, 0x00018000, 0, 0x01000000, 0, 0x000000ff, 0, 0], false⟩, ⟨⟨[], false⟩, 0, none, []⟩, [],
      by decide +kernel⟩,
    ⟨running.fon (Reg.TILE_CTL_EN 5) |>.foff (Reg.TILE_STATUS_ERR 5) |>.foff (Reg.TILE_STATUS_HALT0 5) |>.foff
      (Reg.TILE_STATUS_HALT1 5) |>.onTile 5 (fun x =>
      { TileSt.init with fetch := [⟨⟨[0x1FFF2007, 64, 0x800, 0x8000 + 5, 0x00020000, 1, 2, 2], false⟩, 9, some 2, []⟩] }),
      5, 1, ⟨[0x1FFF2007, 64, 0x800, 0x8000 + 5, 0x00020000, 1, 2, 2], false⟩, ⟨⟨[0x1FFF2007, 64, 0x800, 0x8000 + 5,
      0x00020000, 1, 2, 2], false⟩, 9, some 2, []⟩, [], by decide +kernel⟩,
    ⟨running.fon (Reg.TILE_CTL_EN 5) |>.foff (Reg.TILE_STATUS_ERR 5) |>.foff (Reg.TILE_STATUS_HALT0 5) |>.foff
      (Reg.TILE_STATUS_HALT1 5) |>.onTile 5 (fun x =>
      { TileSt.init with mma := some (⟨[0x2F2FF007, 0x00018000, 0, 0x01000000, 0, 0x0000003f, 0, 0], false⟩, 1) }), 5, 2,
      ⟨[0x2F2FF007, 0x00018000, 0, 0x01000000, 0, 0x0000003f, 0, 0], false⟩, by decide +kernel⟩,
    ⟨running.fon (Reg.TILE_CTL_EN 5) |>.foff (Reg.TILE_STATUS_ERR 5) |>.foff (Reg.TILE_STATUS_HALT0 5) |>.foff
      (Reg.TILE_STATUS_HALT1 5) |>.onTile 5 (fun x =>
      { TileSt.init with mma := some (⟨[0x2F2FF007, 0x00018000, 0, 0x01000000, 0, 0x0000003f, 0, 0], false⟩, 1) }) |> fun
      s => s.fset (Reg.TILE_TQ_COUNT 5 ((⟨[0x2F2FF007, 0x00018000, 0, 0x01000000, 0, 0x0000003f, 0, 0], false⟩ :
      Desc).pd2)) 4095, 5, 2, ⟨[0x2F2FF007, 0x00018000, 0, 0x01000000, 0, 0x0000003f, 0, 0], false⟩, by decide +kernel⟩,
    ⟨running.foff (Reg.TILE_CTL_EN 5), 5, 3, by decide +kernel⟩,
    ⟨running.fon (Reg.TILE_CTL_EN 5) |>.foff (Reg.TILE_STATUS_ERR 5) |>.foff (Reg.TILE_STATUS_HALT0 5) |>.foff
      (Reg.TILE_STATUS_HALT1 5) |>.onTile 5 (fun x => { TileSt.init with turn := true }), 5, 3, by decide +kernel⟩⟩

theorem test_fetch_can_run :
    (∃ (s : State) (t : Fin 64) (stalled : Word) (ecc : List (BitVec 16 × Ecc)) (d : Desc) (rest : List Desc),
      s.canonical = true ∧ s.down = false ∧ s.tileRuns t = true ∧ (s.tile t).fetch.all FRun.issued = true ∧ (s.tile t).fq
      = d :: rest ∧ d.op = 1 ∧ s.tqHas t d.wd = true ∧ (s.tile t).fetch.all (fun r => r.items.all (fun x => !x.stale)) =
      true ∧ d.isSpec = false ∧ (d.wi ≠ d.wd → s.tqHas t d.wi = true) ∧ (d.wi = d.wd → 8 ≤ d.wi ∨ 2 ≤ s.fget
      (Reg.TILE_TQ_COUNT t d.wi)) ∧ 0 < d.cnt2) ∧
    (∃ (s : State) (t : Fin 64) (stalled : Word) (ecc : List (BitVec 16 × Ecc)) (d : Desc) (rest : List Desc),
      s.canonical = true ∧ s.down = false ∧ s.tileRuns t = true ∧ (s.tile t).fetch.all FRun.issued = true ∧ (s.tile t).fq
      = d :: rest ∧ d.op = 1 ∧ s.tqHas t d.wd = true ∧ (s.tile t).fetch.all (fun r => r.items.all (fun x => !x.stale)) =
      true ∧ d.wi ≠ d.wd ∧ s.tqHas t d.wi = false) ∧
    (∃ (s : State) (t : Fin 64) (stalled : Word) (ecc : List (BitVec 16 × Ecc)) (r : FRun), s.canonical = true ∧ s.down =
      false ∧ s.tileRuns t = true ∧ (s.tile t).fq = [] ∧ (s.tile t).fetch = [r] ∧ r.items.all (fun x => !x.stale) = true
      ∧ r.d.i2 r.next < s.readable t r ∧ s.tqHas t r.d.wi = true) ∧
    (∃ (s : State) (t : Fin 64) (stalled : Word) (ecc : List (BitVec 16 × Ecc)) (r : FRun), s.canonical = true ∧ s.down =
      false ∧ s.tileRuns t = true ∧ (s.tile t).fq = [] ∧ (s.tile t).fetch = [r] ∧ r.items.all (fun x => !x.stale) = true
      ∧ (s.readable t r ≤ r.d.i2 r.next ∨ s.tqHas t r.d.wi = false)) ∧
    (∃ (s : State) (t : Fin 64) (stalled : Word) (ecc : List (BitVec 16 × Ecc)) (r : FRun) (x : FItem), s.canonical =
      true ∧ s.down = false ∧ s.tileRuns t = true ∧ (s.tile t).fq = [] ∧ (s.tile t).fetch = [r] ∧ r.items.find?
      FItem.stale = some x) ∧
    (∃ (s : State) (t : Fin 64) (stalled : Word) (ecc : List (BitVec 16 × Ecc)), s.canonical = true ∧ s.down = false ∧
      s.tileRuns t = false) ∧
    (∃ (s : State) (t : Fin 64) (stalled : Word) (ecc : List (BitVec 16 × Ecc)), s.canonical = true ∧ s.down = false ∧
      s.tileRuns t = true ∧ (s.tile t).fq = [] ∧ (s.tile t).fetch = []) :=
  ⟨⟨running.fon (Reg.TILE_CTL_EN 5) |>.foff (Reg.TILE_STATUS_ERR 5) |>.foff (Reg.TILE_STATUS_HALT0 5) |>.foff
      (Reg.TILE_STATUS_HALT1 5) |>.onTile 5 (fun x =>
      { TileSt.init with fq := [⟨[0x1FFF2007, 64, 0x800, 0x8000 + 5, 0x00020000, 1, 2, 2], false⟩] }), 5, 3, [],
      ⟨[0x1FFF2007, 64, 0x800, 0x8000 + 5, 0x00020000, 1, 2, 2], false⟩, [], by decide +kernel⟩,
    ⟨running.fon (Reg.TILE_CTL_EN 5) |>.foff (Reg.TILE_STATUS_ERR 5) |>.foff (Reg.TILE_STATUS_HALT0 5) |>.foff
      (Reg.TILE_STATUS_HALT1 5) |>.onTile 5 (fun x =>
      { TileSt.init with fq := [⟨[0x1FF32007, 64, 0x800, 0x8000 + 5, 0x00020000, 1, 2, 2], false⟩] }) |>.fset
      (Reg.TILE_TQ_COUNT 5 3) 0, 5, 3, [], ⟨[0x1FF32007, 64, 0x800, 0x8000 + 5, 0x00020000, 1, 2, 2], false⟩, [],
      by decide +kernel⟩,
    ⟨running.fon (Reg.TILE_CTL_EN 5) |>.foff (Reg.TILE_STATUS_ERR 5) |>.foff (Reg.TILE_STATUS_HALT0 5) |>.foff
      (Reg.TILE_STATUS_HALT1 5) |>.onTile 5 (fun x =>
      { TileSt.init with fetch := [⟨⟨[0x1FFF2007, 64, 0x800, 0x8000 + 5, 0x00020000, 1, 2, 2], false⟩, 1, some 2, [⟨0, 0, false, false, false⟩]⟩] }),
      5, 3, [], ⟨⟨[0x1FFF2007, 64, 0x800, 0x8000 + 5, 0x00020000, 1, 2, 2], false⟩, 1, some 2, [⟨0, 0, false, false,
      false⟩]⟩, by decide +kernel⟩,
    ⟨running.fon (Reg.TILE_CTL_EN 5) |>.foff (Reg.TILE_STATUS_ERR 5) |>.foff (Reg.TILE_STATUS_HALT0 5) |>.foff
      (Reg.TILE_STATUS_HALT1 5) |>.onTile 5 (fun x =>
      { TileSt.init with fetch := [⟨⟨[0x1FF02007, 64, 0x800, 0x8000 + 5, 0x00020000, 1, 2, 2], false⟩, 2, some 2, [⟨0, 0, false, false, false⟩]⟩] }),
      5, 3, [], ⟨⟨[0x1FF02007, 64, 0x800, 0x8000 + 5, 0x00020000, 1, 2, 2], false⟩, 2, some 2, [⟨0, 0, false, false,
      false⟩]⟩, by decide +kernel⟩,
    ⟨running.fon (Reg.TILE_CTL_EN 5) |>.foff (Reg.TILE_STATUS_ERR 5) |>.foff (Reg.TILE_STATUS_HALT0 5) |>.foff
      (Reg.TILE_STATUS_HALT1 5) |>.onTile 5 (fun x =>
      { TileSt.init with fetch := [⟨⟨[0x1FFF2007, 64, 0x800, 0x8000 + 5, 0x00020000, 1, 2, 2], false⟩, 1, some 2, [⟨0, 0, false, false, true⟩]⟩] }),
      5, 3, [], ⟨⟨[0x1FFF2007, 64, 0x800, 0x8000 + 5, 0x00020000, 1, 2, 2], false⟩, 1, some 2, [⟨0, 0, false, false,
      true⟩]⟩, ⟨0, 0, false, false, true⟩, by decide +kernel⟩,
    ⟨running.foff (Reg.TILE_CTL_EN 5), 5, 3, [], by decide +kernel⟩,
    ⟨running.fon (Reg.TILE_CTL_EN 5) |>.foff (Reg.TILE_STATUS_ERR 5) |>.foff (Reg.TILE_STATUS_HALT0 5) |>.foff
      (Reg.TILE_STATUS_HALT1 5) |>.onTile 5 (fun x => { TileSt.init with turn := true }), 5, 3, [], by decide +kernel⟩⟩

theorem test_fetchItem_can_run :
    (∃ (s : State) (t : Fin 64) (run : Fin 16) (q : Word) (r : FRun) (x : FItem), s.canonical = true ∧ s.down = false ∧
      s.tileRuns t = true ∧ run = 0 ∧ (s.tile t).fetch = [r] ∧ r.items = [x] ∧ x.q = q.toNat ∧ x.stale = false ∧ x.spec =
      false ∧ r.d.pi < 8 ∧ s.fget (Reg.TILE_TQ_COUNT t r.d.pi) < 4095) ∧
    (∃ (s : State) (t : Fin 64) (run : Fin 16) (q : Word) (r : FRun) (x : FItem), s.canonical = true ∧ s.down = false ∧
      s.tileRuns t = true ∧ run = 0 ∧ (s.tile t).fetch = [r] ∧ r.items = [x] ∧ x.q = q.toNat ∧ x.stale = false ∧ x.spec =
      true) ∧
    (∃ (s : State) (t : Fin 64) (run : Fin 16) (q : Word) (r : FRun) (x : FItem), s.canonical = true ∧ s.down = false ∧
      s.tileRuns t = true ∧ run = 0 ∧ (s.tile t).fetch = [r] ∧ r.items = [x] ∧ x.q = q.toNat ∧ x.stale = false ∧ x.spec =
      false ∧ r.d.pi < 8 ∧ 4095 ≤ s.fget (Reg.TILE_TQ_COUNT t r.d.pi)) ∧
    (∃ (s : State) (t : Fin 64) (run : Fin 16) (q : Word), s.canonical = true ∧ s.down = false ∧ s.tileRuns t = true) ∧
    (∃ (s : State) (t : Fin 64) (run : Fin 16) (q : Word), s.canonical = true ∧ s.down = false ∧ s.tileRuns t = false) :=
  ⟨⟨running.fon (Reg.TILE_CTL_EN 5) |>.foff (Reg.TILE_STATUS_ERR 5) |>.foff (Reg.TILE_STATUS_HALT0 5) |>.foff
      (Reg.TILE_STATUS_HALT1 5) |>.onTile 5 (fun x =>
      { TileSt.init with fetch := [⟨⟨[0x1FFF2007, 64, 0x800, 0x8000 + 5, 0x00020000, 1, 2, 2], false⟩, 1, some 2, [⟨0, 0, false, false, false⟩]⟩] }),
      5, 0, 0, ⟨⟨[0x1FFF2007, 64, 0x800, 0x8000 + 5, 0x00020000, 1, 2, 2], false⟩, 1, some 2, [⟨0, 0, false, false,
      false⟩]⟩, ⟨0, 0, false, false, false⟩, by decide +kernel⟩,
    ⟨running.fon (Reg.TILE_CTL_EN 5) |>.foff (Reg.TILE_STATUS_ERR 5) |>.foff (Reg.TILE_STATUS_HALT0 5) |>.foff
      (Reg.TILE_STATUS_HALT1 5) |>.onTile 5 (fun x =>
      { TileSt.init with fetch := [⟨⟨[0x1FFF2007, 64, 0x800, 0x8000 + 5, 0x00020000, 1, 2, 2], false⟩, 1, some 2, [⟨0, 0, true, false, false⟩]⟩] }),
      5, 0, 0, ⟨⟨[0x1FFF2007, 64, 0x800, 0x8000 + 5, 0x00020000, 1, 2, 2], false⟩, 1, some 2, [⟨0, 0, true, false,
      false⟩]⟩, ⟨0, 0, true, false, false⟩, by decide +kernel⟩,
    ⟨running.fon (Reg.TILE_CTL_EN 5) |>.foff (Reg.TILE_STATUS_ERR 5) |>.foff (Reg.TILE_STATUS_HALT0 5) |>.foff
      (Reg.TILE_STATUS_HALT1 5) |>.onTile 5 (fun x =>
      { TileSt.init with fetch := [⟨⟨[0x1FFF2007, 64, 0x800, 0x8000 + 5, 0x00020000, 1, 2, 2], false⟩, 1, some 2, [⟨0, 0, false, false, false⟩]⟩] })
      |>.fset (Reg.TILE_TQ_COUNT 5 2) 4095, 5, 0, 0, ⟨⟨[0x1FFF2007, 64, 0x800, 0x8000 + 5, 0x00020000, 1, 2, 2], false⟩,
      1, some 2, [⟨0, 0, false, false, false⟩]⟩, ⟨0, 0, false, false, false⟩, by decide +kernel⟩,
    ⟨running.fon (Reg.TILE_CTL_EN 5) |>.foff (Reg.TILE_STATUS_ERR 5) |>.foff (Reg.TILE_STATUS_HALT0 5) |>.foff
      (Reg.TILE_STATUS_HALT1 5) |>.onTile 5 (fun x =>
      { TileSt.init with fetch := [⟨⟨[0x1FFF2007, 64, 0x800, 0x8000 + 5, 0x00020000, 1, 2, 2], false⟩, 1, some 2, [⟨0, 0, false, false, false⟩]⟩] }),
      5, 0, 0, by decide +kernel⟩,
    ⟨running.foff (Reg.TILE_CTL_EN 5), 5, 0, 0, by decide +kernel⟩⟩

theorem test_mma_can_run :
    (∃ (s : State) (t : Fin 64) (waited : Word) (d : Desc) (rest : List Desc) (m j : Nat), s.canonical = true ∧ s.down =
      false ∧ s.tileRuns t = true ∧ (s.tile t).mma = none ∧ (s.tile t).aq = d :: rest ∧ d.op = 2 ∧ s.tqHas t d.wd = true
      ∧ s.tqHas t d.wd2 = true ∧ ¬ (d.wd < 8 ∧ d.wd = d.wd2 ∧ s.fget (Reg.TILE_TQ_COUNT t d.wd) < 2) ∧ (8 ≤ d.wi ∨ d.wi ≠
      d.wd) ∧ d.wi ≠ d.wd2 ∧ s.tqHas t d.wi = false ∧ d.zero = true ∧ d.mmaRows ≤ 64 ∧ d.nb * blockWidth d.wfmt ≤ 128 ∧ m
      < d.mmaRows ∧ j < d.nb * blockWidth d.wfmt) ∧
    (∃ (s : State) (t : Fin 64) (waited : Word) (d : Desc) (rest : List Desc) (m j : Nat), s.canonical = true ∧ s.down =
      false ∧ s.tileRuns t = true ∧ (s.tile t).mma = none ∧ (s.tile t).aq = d :: rest ∧ d.op = 2 ∧ s.tqHas t d.wd = true
      ∧ s.tqHas t d.wd2 = true ∧ ¬ (d.wd < 8 ∧ d.wd = d.wd2 ∧ s.fget (Reg.TILE_TQ_COUNT t d.wd) < 2) ∧ (8 ≤ d.wi ∨ d.wi ≠
      d.wd) ∧ d.wi ≠ d.wd2 ∧ s.tqHas t d.wi = true ∧ 0 < d.kb ∧ (s.tile t).poison = [] ∧ (8 ≤ d.pi ∨ s.fget
      (Reg.TILE_TQ_COUNT t d.pi) < 4095)) ∧
    (∃ (s : State) (t : Fin 64) (waited : Word) (d : Desc) (k : Nat), s.canonical = true ∧ s.down = false ∧ s.tileRuns t
      = true ∧ (s.tile t).mma = some (d, k) ∧ k < d.nb * d.kb ∧ s.tqHas t d.wi = true ∧ (s.tile t).poison = [] ∧ 8 ≤
      d.pi) ∧
    (∃ (s : State) (t : Fin 64) (waited : Word) (d : Desc) (k : Nat), s.canonical = true ∧ s.down = false ∧ s.tileRuns t
      = true ∧ (s.tile t).mma = some (d, k) ∧ (s.tqHas t d.wi = false ∨ d.nb * d.kb ≤ k)) ∧
    (∃ (s : State) (t : Fin 64) (waited : Word), s.canonical = true ∧ s.down = false ∧ s.tileRuns t = false) ∧
    (∃ (s : State) (t : Fin 64) (waited : Word), s.canonical = true ∧ s.down = false ∧ s.tileRuns t = true ∧ (s.tile
      t).mma = none ∧ ((s.tile t).aq.head?).all (fun d => decide (d.op ≠ 2) || !s.tqHas t d.wd || !s.tqHas t d.wd2) =
      true) :=
  ⟨⟨running.fon (Reg.TILE_CTL_EN 5) |>.foff (Reg.TILE_STATUS_ERR 5) |>.foff (Reg.TILE_STATUS_HALT0 5) |>.foff
      (Reg.TILE_STATUS_HALT1 5) |>.onTile 5 (fun x =>
      { TileSt.init with aq := [⟨[0x2FF2F007, 0x00018000, 0, 0x01000000, 0, 0x000000ff, 0, 0], false⟩] }) |>.fset
      (Reg.TILE_TQ_COUNT 5 2) 0, 5, 4, ⟨[0x2FF2F007, 0x00018000, 0, 0x01000000, 0, 0x000000ff, 0, 0], false⟩, [], 0, 3,
      by decide +kernel⟩,
    ⟨running.fon (Reg.TILE_CTL_EN 5) |>.foff (Reg.TILE_STATUS_ERR 5) |>.foff (Reg.TILE_STATUS_HALT0 5) |>.foff
      (Reg.TILE_STATUS_HALT1 5) |>.onTile 5 (fun x =>
      { TileSt.init with aq := [⟨[0x2FF2F007, 0x00018000, 0, 0x01000000, 0, 0x000000ff, 0, 0], false⟩] }) |>.fset
      (Reg.TILE_TQ_COUNT 5 2) 3, 5, 4, ⟨[0x2FF2F007, 0x00018000, 0, 0x01000000, 0, 0x000000ff, 0, 0], false⟩, [], 0, 3,
      by decide +kernel⟩,
    ⟨running.fon (Reg.TILE_CTL_EN 5) |>.foff (Reg.TILE_STATUS_ERR 5) |>.foff (Reg.TILE_STATUS_HALT0 5) |>.foff
      (Reg.TILE_STATUS_HALT1 5) |>.onTile 5 (fun x =>
      { TileSt.init with mma := some (⟨[0x2FF2F007, 0x00018000, 0, 0x01000000, 0, 0x000000ff, 0, 0], false⟩, 0) })
      |>.fset (Reg.TILE_TQ_COUNT 5 2) 3, 5, 4, ⟨[0x2FF2F007, 0x00018000, 0, 0x01000000, 0, 0x000000ff, 0, 0], false⟩, 0,
      by decide +kernel⟩,
    ⟨running.fon (Reg.TILE_CTL_EN 5) |>.foff (Reg.TILE_STATUS_ERR 5) |>.foff (Reg.TILE_STATUS_HALT0 5) |>.foff
      (Reg.TILE_STATUS_HALT1 5) |>.onTile 5 (fun x =>
      { TileSt.init with mma := some (⟨[0x2FF2F007, 0x00018000, 0, 0x01000000, 0, 0x000000ff, 0, 0], false⟩, 0) })
      |>.fset (Reg.TILE_TQ_COUNT 5 2) 0, 5, 4, ⟨[0x2FF2F007, 0x00018000, 0, 0x01000000, 0, 0x000000ff, 0, 0], false⟩, 0,
      by decide +kernel⟩,
    ⟨running.foff (Reg.TILE_CTL_EN 5), 5, 4, by decide +kernel⟩,
    ⟨running.fon (Reg.TILE_CTL_EN 5) |>.foff (Reg.TILE_STATUS_ERR 5) |>.foff (Reg.TILE_STATUS_HALT0 5) |>.foff
      (Reg.TILE_STATUS_HALT1 5) |>.onTile 5 (fun x => { TileSt.init with turn := true }), 5, 4, by decide +kernel⟩⟩

theorem test_drain_can_run :
    (∃ (s : State) (t : Fin 64) (ecc : List (BitVec 16 × Ecc)) (d : Desc) (rest : List Desc), s.canonical = true ∧ s.down
      = false ∧ s.tileRuns t = true ∧ (s.tile t).drain = none ∧ (s.tile t).dq = d :: rest ∧ d.op = 3 ∧ s.tqHas t d.wd =
      true) ∧
    (∃ (s : State) (t : Fin 64) (ecc : List (BitVec 16 × Ecc)), s.canonical = true ∧ s.down = false ∧ s.tileRuns t =
      false) ∧
    (∃ (s : State) (t : Fin 64) (ecc : List (BitVec 16 × Ecc)), s.canonical = true ∧ s.down = false ∧ s.tileRuns t = true
      ∧ ((s.tile t).drain ≠ none ∨ ((s.tile t).dq.head?).all (fun d => decide (d.op ≠ 3) || !s.tqHas t d.wd) = true)) :=
  ⟨⟨running.fon (Reg.TILE_CTL_EN 5) |>.foff (Reg.TILE_STATUS_ERR 5) |>.foff (Reg.TILE_STATUS_HALT0 5) |>.foff
      (Reg.TILE_STATUS_HALT1 5) |>.onTile 5 (fun x =>
      { TileSt.init with dq := [⟨[0x3FFFF007, 0, 0x00180800, 0x00000F00, 64, 64, 0, 0], false⟩] }), 5, [], ⟨[0x3FFFF007,
      0, 0x00180800, 0x00000F00, 64, 64, 0, 0], false⟩, [], by decide +kernel⟩,
    ⟨running.foff (Reg.TILE_CTL_EN 5), 5, [], by decide +kernel⟩,
    ⟨running.fon (Reg.TILE_CTL_EN 5) |>.foff (Reg.TILE_STATUS_ERR 5) |>.foff (Reg.TILE_STATUS_HALT0 5) |>.foff
      (Reg.TILE_STATUS_HALT1 5) |>.onTile 5 (fun x => { TileSt.init with turn := true }), 5, [], by decide +kernel⟩⟩

theorem test_boundWrite_can_run :
    (∃ (s : State) (m : Master) (t : Fin 64) (b : Fin 8) (closed : Bool) (count : BitVec 16), s.canonical = true ∧
      s.admits m (Reg.TILE_BOUND t b) = true ∧ s.tileAbsent t = false ∧ closed = false ∧ s.fbit (Reg.TILE_BOUND_CLOSED t
      b) = false ∧ s.fget (Reg.TILE_BOUND_COUNT t b) ≤ count.toNat ∧ s.boundRuns t b = []) ∧
    (∃ (s : State) (m : Master) (t : Fin 64) (b : Fin 8) (closed : Bool) (count : BitVec 16), s.canonical = true ∧
      s.admits m (Reg.TILE_BOUND t b) = true ∧ s.tileAbsent t = false ∧ closed = true) ∧
    (∃ (s : State) (m : Master) (t : Fin 64) (b : Fin 8) (closed : Bool) (count : BitVec 16), s.canonical = true ∧
      s.admits m (Reg.TILE_BOUND t b) = true ∧ s.tileAbsent t = false ∧ closed = false ∧ s.fbit (Reg.TILE_BOUND_CLOSED t
      b) = true) ∧
    (∃ (s : State) (m : Master) (t : Fin 64) (b : Fin 8) (closed : Bool) (count : BitVec 16), s.canonical = true ∧
      s.admits m (Reg.TILE_BOUND t b) = true ∧ s.tileAbsent t = false ∧ closed = false ∧ s.fbit (Reg.TILE_BOUND_CLOSED t
      b) = false ∧ count.toNat < s.fget (Reg.TILE_BOUND_COUNT t b)) ∧
    (∃ (s : State) (m : Master) (t : Fin 64) (b : Fin 8) (closed : Bool) (count : BitVec 16), s.canonical = true ∧
      s.admits m (Reg.TILE_BOUND t b) = true ∧ s.tileAbsent t = true) :=
  ⟨⟨running.fset (Reg.TILE_BOUND 5 1 |> fun o => ⟨o, 15, 0⟩) 9 |>.foff (Reg.TILE_BOUND_CLOSED 5 1), .aon, 5, 1, false,
      12, by decide +kernel⟩,
    ⟨running.fon (Reg.TILE_CTL_EN 5) |>.foff (Reg.TILE_STATUS_ERR 5) |>.foff (Reg.TILE_STATUS_HALT0 5) |>.foff
      (Reg.TILE_STATUS_HALT1 5) |>.onTile 5 (fun x =>
      { TileSt.init with fetch := [⟨⟨[0x1FFF2007, 64, 0x060800, 0x8000 + 5, 0x00020000, 1, 2, 2], false⟩, 1, none, [⟨0, 0, true, true, false⟩]⟩] })
      |>.foff (Reg.TILE_BOUND_CLOSED 5 1), .aon, 5, 1, true, 1, by decide +kernel⟩,
    ⟨running.fon (Reg.TILE_CTL_EN 5) |>.foff (Reg.TILE_STATUS_ERR 5) |>.foff (Reg.TILE_STATUS_HALT0 5) |>.foff
      (Reg.TILE_STATUS_HALT1 5) |>.fon (Reg.TILE_BOUND_CLOSED 5 1), .aon, 5, 1, false, 1, by decide +kernel⟩,
    ⟨running.fon (Reg.TILE_CTL_EN 5) |>.foff (Reg.TILE_STATUS_ERR 5) |>.foff (Reg.TILE_STATUS_HALT0 5) |>.foff
      (Reg.TILE_STATUS_HALT1 5) |>.foff (Reg.TILE_BOUND_CLOSED 5 1) |>.fset (Reg.TILE_BOUND_COUNT 5 1) 9, .aon, 5, 1,
      false, 1, by decide +kernel⟩,
    ⟨running.wr (Reg.INST_TROW 0) 0xFFFFFFFF |>.fset (Reg.INST_TROW_LCOLS 0) 0, .aon, 5, 1, false, 12, by decide +kernel⟩⟩

theorem test_tileReset_can_run :
    (∃ (s : State) (m : Master) (t : Fin 64), s.canonical = true ∧ s.admits m (Reg.TILE_CTL t) = true ∧ s.tileAbsent t =
      false) ∧
    (∃ (s : State) (m : Master) (t : Fin 64), s.canonical = true ∧ s.admits m (Reg.TILE_CTL t) = true ∧ s.tileAbsent t =
      true) :=
  ⟨⟨running, .aon, 5, by decide +kernel⟩,
    ⟨running.wr (Reg.INST_TROW 0) 0xFFFFFFFF |>.fset (Reg.INST_TROW_LCOLS 0) 0, .aon, 5, by decide +kernel⟩⟩

theorem test_haltClear_can_run :
    (∃ (s : State) (m : Master) (t : Fin 64) (odd : Bool), s.canonical = true ∧ s.admits m (Reg.TILE_STATUS t) = true ∧
      s.tileAbsent t = false) ∧
    (∃ (s : State) (m : Master) (t : Fin 64) (odd : Bool), s.canonical = true ∧ s.admits m (Reg.TILE_STATUS t) = true ∧
      s.tileAbsent t = true) :=
  ⟨⟨running.fon (Reg.TILE_STATUS_HALT1 5), .aon, 5, true, by decide +kernel⟩,
    ⟨running.wr (Reg.INST_TROW 0) 0xFFFFFFFF |>.fset (Reg.INST_TROW_LCOLS 0) 0, .aon, 5, true, by decide +kernel⟩⟩

theorem test_seqRun_can_run :
    (∃ (s : State) (m : Master) (i : Fin 128), s.canonical = true ∧ s.admits m (Reg.SEQ_CTL i) = true ∧ s.tileAbsent (i /
      2) = false ∧ s.fbit (Reg.SEQ_CTL_RUN i) = false ∧ (¬ (s.recvState (1024 + i) = 1 ∨ s.recvState (1024 + i) = 3 ∨
      s.recvState (1024 + i) = 4)) ∧ s.recvState (1024 + i) = 2) ∧
    (∃ (s : State) (m : Master) (i : Fin 128), s.canonical = true ∧ s.admits m (Reg.SEQ_CTL i) = true ∧ s.tileAbsent (i /
      2) = false ∧ s.fbit (Reg.SEQ_CTL_RUN i) = false ∧ (s.recvState (1024 + i) = 1 ∨ s.recvState (1024 + i) = 3 ∨
      s.recvState (1024 + i) = 4)) ∧
    (∃ (s : State) (m : Master) (i : Fin 128), s.canonical = true ∧ s.admits m (Reg.SEQ_CTL i) = true ∧ (s.tileAbsent (i
      / 2) = true ∨ s.fbit (Reg.SEQ_CTL_RUN i) = true)) :=
  ⟨⟨running.foff (Reg.SEQ_CTL_RUN 11) |>.setRecvState (1024 + 11) 2 |>.wr64 (Reg.SEQ_RESET_PC_LO 11) 0x1000, .aon, 11,
      by decide +kernel⟩,
    ⟨running.foff (Reg.SEQ_CTL_RUN 11) |>.setRecvState (1024 + 11) 3, .aon, 11, by decide +kernel⟩,
    ⟨running.fon (Reg.SEQ_CTL_RUN 11), .aon, 11, by decide +kernel⟩⟩

theorem test_seqReset_can_run :
    (∃ (s : State) (m : Master) (i : Fin 128) (q : Fin 16) (k : Fin 64), s.canonical = true ∧ s.admits m (Reg.SEQ_CTL i)
      = true ∧ s.tileAbsent (i / 2) = false ∧ s.fbit (Reg.SYNC_CTL_FROZEN i) = false ∧ k.val < 48) ∧
    (∃ (s : State) (m : Master) (i : Fin 128) (q : Fin 16) (k : Fin 64), s.canonical = true ∧ s.admits m (Reg.SEQ_CTL i)
      = true ∧ s.tileAbsent (i / 2) = false ∧ s.fbit (Reg.SYNC_CTL_FROZEN i) = true) ∧
    (∃ (s : State) (m : Master) (i : Fin 128), s.canonical = true ∧ s.admits m (Reg.SEQ_CTL i) = true ∧ s.tileAbsent (i /
      2) = true) :=
  ⟨⟨running.fon (Reg.SEQ_CTL_RUN 11) |>.foff (Reg.SYNC_CTL_FROZEN 11) |>.fon (Reg.Q_CFG_OPEN 11 3), .aon, 11, 3, 7,
      by decide +kernel⟩,
    ⟨running.fon (Reg.SEQ_CTL_RUN 11) |>.fon (Reg.SYNC_CTL_FROZEN 11) |>.fon (Reg.Q_CFG_OPEN 11 3), .aon, 11, 3, 7,
      by decide +kernel⟩,
    ⟨running.wr (Reg.INST_TROW 0) 0xFFFFFFFF |>.fset (Reg.INST_TROW_LCOLS 0) 0, .aon, 0, by decide +kernel⟩⟩

theorem test_machineTimer_can_run :
    (∃ (s : State) (i : Fin 128), s.canonical = true ∧ s.down = false ∧ s.fbit (Reg.SEQ_CTL_RUN i) = true ∧ s.rd64
      (Reg.SEQ_MTIMECMP_LO i) ≤ s.now) ∧
    (∃ (s : State) (i : Fin 128), s.canonical = true ∧ s.down = false ∧ s.fbit (Reg.SEQ_CTL_RUN i) = true ∧ s.rd64
      (Reg.SEQ_MTIMECMP_LO i) ≤ s.now ∧ s.islState (i / 2) = 2) ∧
    (∃ (s : State) (i : Fin 128), s.canonical = true ∧ s.down = false ∧ (s.fbit (Reg.SEQ_CTL_RUN i) = false ∨ s.now <
      s.rd64 (Reg.SEQ_MTIMECMP_LO i))) :=
  ⟨⟨running.fon (Reg.SEQ_CTL_RUN 5) |>.wr64 (Reg.SEQ_MTIMECMP_LO 5) 0, 5, by decide +kernel⟩,
    ⟨running.fon (Reg.SEQ_CTL_RUN 5) |>.wr64 (Reg.SEQ_MTIMECMP_LO 5) 0 |>.fset (Reg.PWR_ISL_STAT_STATE 2) 2, 5,
      by decide +kernel⟩,
    ⟨running.foff (Reg.SEQ_CTL_RUN 5), 5, by decide +kernel⟩⟩

theorem test_cvuEncode_can_run :
    (∃ (s : State) (i : Fin 128) (stores : List (BitVec 12 × Word)) (ctl : BitVec 31), s.canonical = true ∧ s.down =
      false ∧ s.fbit (Reg.SEQ_CTL_RUN i) = true ∧ s.tileAbsent (i / 2) = false ∧ (s.cvu i).next = none ∧ (s.cvu
      i).stalled = [] ∧ stores.all (fun x => decide (x.1.toNat ≠ 0x180)) = true ∧ bits (2 * ctl.toNat) 2 1 ≠ 3 ∧ bits (2
      * ctl.toNat) 11 10 ≠ 3) ∧
    (∃ (s : State) (i : Fin 128) (stores : List (BitVec 12 × Word)) (ctl : BitVec 31), s.canonical = true ∧ s.down =
      false ∧ s.fbit (Reg.SEQ_CTL_RUN i) = true ∧ s.tileAbsent (i / 2) = false ∧ (s.cvu i).next = none ∧ (s.cvu
      i).stalled = [] ∧ stores.all (fun x => decide (x.1.toNat ≠ 0x180)) = true ∧ (bits (2 * ctl.toNat) 2 1 = 3 ∨ bits (2
      * ctl.toNat) 11 10 = 3)) ∧
    (∃ (s : State) (i : Fin 128) (stores : List (BitVec 12 × Word)) (ctl : BitVec 31), s.canonical = true ∧ s.down =
      false ∧ s.fbit (Reg.SEQ_CTL_RUN i) = true ∧ s.tileAbsent (i / 2) = false ∧ (s.cvu i).next ≠ none ∧ (s.cvu
      i).stalled = [] ∧ stores.all (fun x => cvuHeld x.1.toNat) = true) ∧
    (∃ (s : State) (i : Fin 128) (stores : List (BitVec 12 × Word)) (ctl : BitVec 31), s.canonical = true ∧ s.down =
      false ∧ (s.fbit (Reg.SEQ_CTL_RUN i) = false ∨ s.tileAbsent (i / 2) = true)) :=
  ⟨⟨running.fon (Reg.SEQ_CTL_RUN 11) |>.setCvu 11 Cvu.init, 11, [(0x100, 0x3f800000), (0x104, 0x40000000)], 0,
      by decide +kernel⟩,
    ⟨running.fon (Reg.SEQ_CTL_RUN 11) |>.setCvu 11 Cvu.init, 11, [(0x100, 0x3f800000)], 3, by decide +kernel⟩,
    ⟨running.fon (Reg.SEQ_CTL_RUN 11) |>.setCvu 11 Cvu.init |>.setCvu 11
      { Cvu.init with next := some ([5], [6], [7], 0x86, 2) }, 11, [(0x100, 0x3f800000)], 1, by decide +kernel⟩,
    ⟨running.foff (Reg.SEQ_CTL_RUN 11), 11, [], 1, by decide +kernel⟩⟩

theorem test_cvuDecode_can_run :
    (∃ (s : State) (i : Fin 128) (stores : List (BitVec 12 × Word)) (ctl : BitVec 31), s.canonical = true ∧ s.down =
      false ∧ s.fbit (Reg.SEQ_CTL_RUN i) = true ∧ s.tileAbsent (i / 2) = false ∧ (s.cvu i).next = none ∧ (s.cvu
      i).stalled = [] ∧ stores.all (fun x => decide (x.1.toNat ≠ 0x180)) = true ∧ bits (2 * ctl.toNat) 2 1 ≠ 3 ∧ bits (2
      * ctl.toNat) 11 10 ≠ 3) ∧
    (∃ (s : State) (i : Fin 128) (stores : List (BitVec 12 × Word)) (ctl : BitVec 31), s.canonical = true ∧ s.down =
      false ∧ s.fbit (Reg.SEQ_CTL_RUN i) = true ∧ s.tileAbsent (i / 2) = false ∧ (s.cvu i).next = none ∧ (s.cvu
      i).stalled = [] ∧ stores.all (fun x => decide (x.1.toNat ≠ 0x180)) = true ∧ (bits (2 * ctl.toNat) 2 1 = 3 ∨ bits (2
      * ctl.toNat) 11 10 = 3)) ∧
    (∃ (s : State) (i : Fin 128) (stores : List (BitVec 12 × Word)) (ctl : BitVec 31), s.canonical = true ∧ s.down =
      false ∧ s.fbit (Reg.SEQ_CTL_RUN i) = true ∧ s.tileAbsent (i / 2) = false ∧ (s.cvu i).next ≠ none ∧ (s.cvu
      i).stalled = [] ∧ stores.all (fun x => cvuHeld x.1.toNat) = true) ∧
    (∃ (s : State) (i : Fin 128) (stores : List (BitVec 12 × Word)) (ctl : BitVec 31), s.canonical = true ∧ s.down =
      false ∧ (s.fbit (Reg.SEQ_CTL_RUN i) = false ∨ s.tileAbsent (i / 2) = true)) :=
  ⟨⟨running.fon (Reg.SEQ_CTL_RUN 11) |>.setCvu 11 Cvu.init, 11, [(0x1A0, 0x3f800000)], 1, by decide +kernel⟩,
    ⟨running.fon (Reg.SEQ_CTL_RUN 11) |>.setCvu 11 Cvu.init, 11, [(0x1A0, 0x3f800000)], 3, by decide +kernel⟩,
    ⟨running.fon (Reg.SEQ_CTL_RUN 11) |>.setCvu 11 Cvu.init |>.setCvu 11
      { Cvu.init with next := some ([5], [6], [7], 0x86, 2) }, 11, [(0x100, 0x3f800000)], 1, by decide +kernel⟩,
    ⟨running.foff (Reg.SEQ_CTL_RUN 11), 11, [], 1, by decide +kernel⟩⟩

theorem test_cvuConversionEnd_can_run :
    (∃ (s : State) (i : Fin 128) (d : List Word) (b : List Byte) (r : List Word) (keep st : Word), s.canonical = true ∧
      s.down = false ∧ (s.cvu i).next = some (d, b, r, keep, st) ∧ (s.cvu i).stalled = []) ∧
    (∃ (s : State) (i : Fin 128) (d : List Word) (b : List Byte) (r : List Word) (keep st c : Word), s.canonical = true ∧
      s.down = false ∧ (s.cvu i).next = some (d, b, r, keep, st) ∧ (s.cvu i).stalled = [.store 0x180 c] ∧ bits c.toNat 2
      1 ≠ 3 ∧ bits c.toNat 11 10 ≠ 3) ∧
    (∃ (s : State) (i : Fin 128), s.canonical = true ∧ s.down = false ∧ (s.cvu i).next = none) :=
  ⟨⟨running.setCvu 11 { Cvu.init with next := some ([5], [6], [7], 0x86, 2) }, 11, [5], [6], [7], 0x86, 2,
      by decide +kernel⟩,
    ⟨running.setCvu 11 { Cvu.init with next := some ([5], [6], [7], 0x86, 2), stalled := [.store 0x180 0] }, 11, [5],
      [6], [7], 0x86, 2, 0, by decide +kernel⟩,
    ⟨running.setCvu 11 Cvu.init, 11, by decide +kernel⟩⟩

theorem test_exchangeRead_can_run :
    (∃ (s : State) (m : Master) (a : BitVec 48) (n : Fin 64) (ecc : Ecc) (bar2 : Bool), s.canonical = true ∧ s.down =
      false ∧ (m = .pcie → s.barOpen = true) ∧ bar2 = false ∧ privateOff m a.toNat = none ∧ isCsr a.toNat = false ∧ (m =
      .jtag → s.fbit Reg.TRU_STATUS_DBG_OPEN = true) ∧ s.allows (whoOf m) 0 a.toNat (n.val + 1) = true ∧ s.isLocal
      a.toNat = true ∧ s.served (localPart a.toNat) = 0) ∧
    (∃ (s : State) (m : Master) (a : BitVec 48) (n : Fin 64) (ecc : Ecc) (bar2 : Bool), s.canonical = true ∧ s.down =
      false ∧ (m = .pcie → s.barOpen = true) ∧ bar2 = false ∧ privateOff m a.toNat = none ∧ isCsr a.toNat = false ∧ (m =
      .jtag → s.fbit Reg.TRU_STATUS_DBG_OPEN = true) ∧ s.allows (whoOf m) 0 a.toNat (n.val + 1) = true ∧ s.isLocal
      a.toNat = true ∧ s.served (localPart a.toNat) = 0 ∧ ((∃ rank device, s.decoded ((eccWords (unalias (localPart
      a.toNat)) (n.val + 1)).headD (unalias (localPart a.toNat))) ecc = .ue rank device) ∨ (eccWords (unalias (localPart
      a.toNat)) (n.val + 1)).any s.isBad = true)) ∧
    (∃ (s : State) (m : Master) (a : BitVec 48) (n : Fin 64) (ecc : Ecc) (bar2 : Bool), s.canonical = true ∧ s.down =
      false ∧ (m = .pcie → s.barOpen = true) ∧ bar2 = false ∧ privateOff m a.toNat = none ∧ isCsr a.toNat = false ∧ (m =
      .jtag → s.fbit Reg.TRU_STATUS_DBG_OPEN = true) ∧ s.allows (whoOf m) 0 a.toNat (n.val + 1) = false) ∧
    (∃ (s : State) (m : Master) (a : BitVec 48) (n : Fin 64) (ecc : Ecc) (bar2 : Bool), s.canonical = true ∧ s.down =
      false ∧ (m = .pcie → s.barOpen = true) ∧ bar2 = false ∧ privateOff m a.toNat = none ∧ isCsr a.toNat = false ∧ (m =
      .jtag → s.fbit Reg.TRU_STATUS_DBG_OPEN = true) ∧ s.allows (whoOf m) 0 a.toNat (n.val + 1) = true ∧ s.isLocal
      a.toNat = true ∧ s.served (localPart a.toNat) = 9) ∧
    (∃ (s : State) (m : Master) (a : BitVec 48) (n : Fin 64) (ecc : Ecc) (bar2 : Bool), s.canonical = true ∧ s.down =
      false ∧ (m = .pcie → s.barOpen = true) ∧ bar2 = false ∧ privateOff m a.toNat = none ∧ isCsr a.toNat = false ∧ (m =
      .jtag → s.fbit Reg.TRU_STATUS_DBG_OPEN = true) ∧ s.allows (whoOf m) 0 a.toNat (n.val + 1) = true ∧ s.isLocal
      a.toNat = true ∧ s.served (localPart a.toNat) = 3) ∧
    (∃ (s : State) (m : Master) (a : BitVec 48) (n : Fin 64) (ecc : Ecc) (bar2 : Bool), s.canonical = true ∧ s.down =
      false ∧ (m = .pcie → s.barOpen = true) ∧ bar2 = false ∧ privateOff m a.toNat = none ∧ isCsr a.toNat = false ∧ (m =
      .jtag → s.fbit Reg.TRU_STATUS_DBG_OPEN = true) ∧ s.allows (whoOf m) 0 a.toNat (n.val + 1) = true ∧ s.isLocal
      a.toNat = false ∧ s.routeFor (s.addrDev a.toNat) (s.halfOfAddr (localPart a.toNat)) = false) ∧
    (∃ (s : State) (m : Master) (a : BitVec 48) (n : Fin 64) (ecc : Ecc) (bar2 : Bool), s.canonical = true ∧ s.down =
      false ∧ (m = .pcie → s.barOpen = true) ∧ bar2 = false ∧ privateOff m a.toNat = none ∧ isCsr a.toNat = true ∧
      s.isLocal a.toNat = true ∧ s.regOff (csrOff a.toNat) = false ∧ n.val = 3 ∧ csrOff a.toNat % 4 = 0 ∧ s.regReached m
      (csrOff a.toNat) = true ∧ regIsland (csrOff a.toNat) = none) ∧
    (∃ (s : State) (m : Master) (a : BitVec 48) (n : Fin 64) (ecc : Ecc) (bar2 : Bool), s.canonical = true ∧ s.down =
      false ∧ (m = .pcie → s.barOpen = true) ∧ bar2 = false ∧ privateOff m a.toNat = none ∧ isCsr a.toNat = true ∧
      s.isLocal a.toNat = true ∧ s.regOff (csrOff a.toNat) = false ∧ n.val = 3 ∧ csrOff a.toNat % 4 = 0 ∧ s.regReached m
      (csrOff a.toNat) = true ∧ regIsland (csrOff a.toNat) = none ∧ pairLow (csrOff a.toNat) = true) ∧
    (∃ (s : State) (m : Master) (a : BitVec 48) (n : Fin 64) (ecc : Ecc) (bar2 : Bool) (o off : Nat), s.canonical = true
      ∧ s.down = false ∧ (m = .pcie → s.barOpen = true) ∧ bar2 = false ∧ privateOff m a.toNat = some (o, off) ∧ 0x80000 ≤
      off ∧ off < 0x180000 ∧ off % 16 = 0) ∧
    (∃ (s : State) (m : Master) (a : BitVec 48) (n : Fin 64) (ecc : Ecc) (bar2 : Bool) (o off : Nat), s.canonical = true
      ∧ s.down = false ∧ (m = .pcie → s.barOpen = true) ∧ bar2 = false ∧ privateOff m a.toNat = some (o, off) ∧ 0x80000 ≤
      off ∧ off < 0x180000 ∧ off % 16 ≠ 0) ∧
    (∃ (s : State) (m : Master) (a : BitVec 48) (n : Fin 64) (ecc : Ecc) (bar2 : Bool) (i : Fin 128) (off : Nat),
      s.canonical = true ∧ s.down = false ∧ m = .seq i ∧ bar2 = false ∧ privateOff m a.toNat = some (i.val, off) ∧ off +
      n.val < 0x40000 ∧ s.served (ownAddr i off) = 0 ∧ s.fbit Reg.INST_STATUS_COCOON = false) ∧
    (∃ (s : State) (m : Master) (a : BitVec 48) (n : Fin 64) (ecc : Ecc) (bar2 : Bool), s.canonical = true ∧ s.down =
      false ∧ (m = .pcie → s.barOpen = true) ∧ bar2 = true ∧ m = .pcie) ∧
    (∃ (s : State) (m : Master) (a : BitVec 48) (n : Fin 64) (ecc : Ecc) (bar2 : Bool), s.canonical = true ∧ s.down =
      false ∧ (m = .pcie → s.barOpen = true) ∧ bar2 = true ∧ m ≠ .pcie) ∧
    (∃ (s : State) (m : Master) (a : BitVec 48) (n : Fin 64) (ecc : Ecc) (bar2 : Bool), s.canonical = true ∧ s.down =
      false) ∧
    (∃ (s : State) (m : Master) (a : BitVec 48) (n : Fin 64) (ecc : Ecc) (bar2 : Bool), s.canonical = true ∧ s.down =
      false ∧ m = .pcie ∧ s.barOpen = false) :=
  ⟨⟨running, .aon, 0x80000000100, 7, .none, false, by decide +kernel⟩,
    ⟨running, .aon, 0x80000000100, 7, (.ue 1 2), false, by decide +kernel⟩,
    ⟨running |> fun s => forN 16 (fun j s => s.foff (Reg.REG_LIMIT_H_EN rsetApp j)) s, (.app 2 true), 0x80000000100, 7,
      .none, false, by decide +kernel⟩,
    ⟨running, .aon, 0x80030000000, 7, .none, false, by decide +kernel⟩,
    ⟨running, .aon, 0x84000000000, 7, .none, false, by decide +kernel⟩,
    ⟨running.fset Reg.AON_ID_DEVID 2 |> fun s => forN 16 (fun i s => s.wr (Reg.MESH_XROUTE i) 0) s, .aon, 0xD00000000000,
      7, .none, false, by decide +kernel⟩,
    ⟨running, .aon, 0x82000040000, 3, .none, false, by decide +kernel⟩,
    ⟨running, .aon, 0x82000050000, 3, .none, false, by decide +kernel⟩,
    ⟨running.foff (Reg.SYNC_PORT_CFG_REMOTE 20), (.seq 20), 0x83000088050, 3, .none, false, 20, 0x88050,
      by decide +kernel⟩,
    ⟨running.foff (Reg.SYNC_PORT_CFG_REMOTE 20), (.seq 20), 0x83000088054, 3, .none, false, 20, 0x88054,
      by decide +kernel⟩,
    ⟨running, (.seq 20), 0x83000000104, 3, .none, false, 20, 0x104, by decide +kernel⟩,
    ⟨running.fset Reg.INST_STATUS_STAGE 6, .pcie, 0x20, 3, .none, true, by decide +kernel⟩,
    ⟨running.fset Reg.INST_STATUS_STAGE 6, .aon, 0x20, 3, .none, true, by decide +kernel⟩,
    ⟨running, .aon, 0x83000000100, 7, .none, false, by decide +kernel⟩,
    ⟨running, .pcie, 0x10, 15, .none, true, by decide +kernel⟩⟩

theorem test_exchangeWrite_can_run :
    (∃ (s : State) (m : Master) (a : BitVec 48) (data : List (Option Byte)) (ecc : Ecc) (i : Nat), s.canonical = true ∧
      s.down = false ∧ (m = .pcie → s.barOpen = true) ∧ privateOff m a.toNat = none ∧ isCsr a.toNat = false ∧ (m = .jtag
      → s.fbit Reg.TRU_STATUS_DBG_OPEN = true) ∧ 0 < data.length ∧ data.length ≤ 64 ∧ data.getD 0 none ≠ none ∧ s.isLocal
      a.toNat = true ∧ s.allowsBytes (whoOf m) (if isAlias (localPart a.toNat) then 3 else 1) ((List.range
      data.length).map fun i => (a.toNat + i, 0)) = true ∧ (localPart a.toNat) % 64 + data.length ≤ 64 ∧ s.served
      (localPart a.toNat) = 0 ∧ (match placeOf (localPart a.toNat) with | .window _ _ => false | _ => true) = true ∧ ecc
      = .none ∧ (eccWords ((unalias (localPart a.toNat)) / 64 * 64) 64).any s.isBad = false ∧ kvUnits.any (fun x =>
      s.fbit (Reg.ING_KV_CFG_EN x.1 x.2)) = false ∧ i < data.length) ∧
    (∃ (s : State) (m : Master) (a : BitVec 48) (data : List (Option Byte)) (ecc : Ecc), s.canonical = true ∧ s.down =
      false ∧ (m = .pcie → s.barOpen = true) ∧ privateOff m a.toNat = none ∧ isCsr a.toNat = false ∧ (m = .jtag → s.fbit
      Reg.TRU_STATUS_DBG_OPEN = true) ∧ data.length = 1 ∧ data.getD 0 none ≠ none ∧ s.isLocal a.toNat = true ∧
      s.allowsBytes (whoOf m) (if isAlias (localPart a.toNat) then 3 else 1) ((List.range data.length).map fun i =>
      (a.toNat + i, 0)) = true ∧ s.served (localPart a.toNat) = 0 ∧
      (match placeOf (localPart a.toNat) with | .window _ _ => false | _ => true) = true ∧ kvUnits.any (fun x => s.fbit
      (Reg.ING_KV_CFG_EN x.1 x.2)) = false ∧ ((eccWords (unalias (localPart a.toNat)) 1).any s.isBad = true ∨ (∃ rank
      device, ecc = .ue rank device))) ∧
    (∃ (s : State) (m : Master) (a : BitVec 48) (data : List (Option Byte)) (ecc : Ecc), s.canonical = true ∧ s.down =
      false ∧ (m = .pcie → s.barOpen = true) ∧ privateOff m a.toNat = none ∧ isCsr a.toNat = false ∧ (m = .jtag → s.fbit
      Reg.TRU_STATUS_DBG_OPEN = true) ∧ 0 < data.length ∧ data.length ≤ 64 ∧ data.getD 0 none ≠ none ∧ s.isLocal a.toNat
      = true ∧ s.allowsBytes (whoOf m) (if isAlias (localPart a.toNat) then 3 else 1) ((List.range data.length).map fun i
      => (a.toNat + i, 0)) = true ∧ s.served (localPart a.toNat) = 3 ∧ (List.range data.length).all (fun i => decide
      (s.served (localPart ((a.toNat + i) % 2 ^ 48)) = 3)) = true ∧ (localPart a.toNat) % 64 + data.length ≤ 64) ∧
    (∃ (s : State) (m : Master) (a : BitVec 48) (data : List (Option Byte)) (ecc : Ecc) (n off i : Nat), s.canonical =
      true ∧ s.down = false ∧ (m = .pcie → s.barOpen = true) ∧ privateOff m a.toNat = none ∧ isCsr a.toNat = false ∧ (m =
      .jtag → s.fbit Reg.TRU_STATUS_DBG_OPEN = true) ∧ 0 < data.length ∧ data.length ≤ 64 ∧ data.getD 0 none ≠ none ∧
      s.isLocal a.toNat = true ∧ s.allowsBytes (whoOf m) (if isAlias (localPart a.toNat) then 3 else 1) ((List.range
      data.length).map fun i => (a.toNat + i, 0)) = true ∧ (localPart a.toNat) % 64 + data.length ≤ 64 ∧ s.served
      (localPart a.toNat) = 0 ∧ placeOf (localPart a.toNat) = .window n off ∧ ecc = .none ∧ (eccWords ((unalias
      (localPart a.toNat)) / 64 * 64) 64).any s.isBad = false ∧ kvUnits.any (fun x => s.fbit (Reg.ING_KV_CFG_EN x.1 x.2))
      = false ∧ i < data.length ∧ s.fbit (Reg.NC_CTL_EN n) = false) ∧
    (∃ (s : State) (m : Master) (a : BitVec 48) (data : List (Option Byte)) (ecc : Ecc) (n off i : Nat), s.canonical =
      true ∧ s.down = false ∧ (m = .pcie → s.barOpen = true) ∧ privateOff m a.toNat = none ∧ isCsr a.toNat = false ∧ (m =
      .jtag → s.fbit Reg.TRU_STATUS_DBG_OPEN = true) ∧ 0 < data.length ∧ data.length ≤ 64 ∧ data.getD 0 none ≠ none ∧
      s.isLocal a.toNat = true ∧ s.allowsBytes (whoOf m) (if isAlias (localPart a.toNat) then 3 else 1) ((List.range
      data.length).map fun i => (a.toNat + i, 0)) = true ∧ (localPart a.toNat) % 64 + data.length ≤ 64 ∧ s.served
      (localPart a.toNat) = 0 ∧ placeOf (localPart a.toNat) = .window n off ∧ ecc = .none ∧ (eccWords ((unalias
      (localPart a.toNat)) / 64 * 64) 64).any s.isBad = false ∧ kvUnits.any (fun x => s.fbit (Reg.ING_KV_CFG_EN x.1 x.2))
      = false ∧ i < data.length ∧ s.fbit (Reg.NC_CTL_EN n) = true) ∧
    (∃ (s : State) (m : Master) (a : BitVec 48) (data : List (Option Byte)) (ecc : Ecc), s.canonical = true ∧ s.down =
      false ∧ (m = .pcie → s.barOpen = true) ∧ privateOff m a.toNat = none ∧ isCsr a.toNat = false ∧ m ≠ .jtag ∧ 0 <
      data.length ∧ data.getD 0 none ≠ none ∧ s.allows (whoOf m) (if isAlias (localPart a.toNat) then 3 else 1) (a.toNat
      / 4096 * 4096) 1 = false ∧ m ≠ .pcie) ∧
    (∃ (s : State) (m : Master) (a : BitVec 48) (data : List (Option Byte)) (ecc : Ecc), s.canonical = true ∧ s.down =
      false ∧ (m = .pcie → s.barOpen = true) ∧ privateOff m a.toNat = none ∧ isCsr a.toNat = false ∧ m ≠ .jtag ∧ 0 <
      data.length ∧ data.getD 0 none ≠ none ∧ s.allows (whoOf m) (if isAlias (localPart a.toNat) then 3 else 1) (a.toNat
      / 4096 * 4096) 1 = false ∧ m = .pcie) ∧
    (∃ (s : State) (m : Master) (a : BitVec 48) (data : List (Option Byte)) (ecc : Ecc) (o off : Nat) (b0 b1 b2 b3 :
      Byte), s.canonical = true ∧ s.down = false ∧ (m = .pcie → s.barOpen = true) ∧ privateOff m a.toNat = some (o, off)
      ∧ 0x80000 ≤ off ∧ off < 0x180000 ∧ off % 4 = 0 ∧ data = [some b0, some b1, some b2, some b3]) ∧
    (∃ (s : State) (m : Master) (a : BitVec 48) (data : List (Option Byte)) (ecc : Ecc) (i : Fin 128) (off k : Nat),
      s.canonical = true ∧ s.down = false ∧ m = .seq i ∧ privateOff m a.toNat = some (i.val, off) ∧ 0 < data.length ∧
      data.length ≤ 64 ∧ off % 64 + data.length ≤ 64 ∧ off + data.length ≤ 0x40000 ∧ s.served (ownAddr i off) = 0 ∧ ecc =
      .none ∧ (eccWords (ownAddr i off / 64 * 64) 64).any s.isBad = false ∧ kvUnits.any (fun x => s.fbit
      (Reg.ING_KV_CFG_EN x.1 x.2)) = false ∧ k < data.length) ∧
    (∃ (s : State) (m : Master) (a : BitVec 48) (data : List (Option Byte)) (ecc : Ecc), s.canonical = true ∧ s.down =
      false) ∧
    (∃ (s : State) (m : Master) (a : BitVec 48) (data : List (Option Byte)) (ecc : Ecc), s.canonical = true ∧ s.down =
      false ∧ m = .pcie ∧ s.barOpen = false) :=
  ⟨⟨running |> fun s => { s with bad := [] } |> fun s => kvUnits.foldl (fun s x => s.foff (Reg.ING_KV_CFG_EN x.1 x.2))
      s, .aon, 0x80000000100, [some 7, none, some 9], .none, 2, by decide +kernel⟩,
    ⟨running |> fun s => { s with bad := [] } |> fun s => kvUnits.foldl (fun s x => s.foff (Reg.ING_KV_CFG_EN x.1 x.2))
      s, .aon, 0x80000000100, [some 7], (.ue 1 2), by decide +kernel⟩,
    ⟨running, .aon, 0x84000000000, [some 3, some 4], .none, by decide +kernel⟩,
    ⟨running |> fun s => { s with bad := [] } |> fun s => kvUnits.foldl (fun s x => s.foff (Reg.ING_KV_CFG_EN x.1 x.2)) s
      |>.foff (Reg.NC_CTL_EN 1), .aon, 0x81000200104, [some 7, none, some 9, some 4], .none, 1, 0x104, 2,
      by decide +kernel⟩,
    ⟨running |> fun s => { s with bad := [] } |> fun s => kvUnits.foldl (fun s x => s.foff (Reg.ING_KV_CFG_EN x.1 x.2)) s
      |>.fon (Reg.NC_CTL_EN 1), .aon, 0x81000200104, [some 7, none, some 9, some 4], .none, 1, 0x104, 2,
      by decide +kernel⟩,
    ⟨running |> fun s => forN 16 (fun j s => s.foff (Reg.REG_LIMIT_H_EN rsetApp j)) s, (.app 2 true), 0x80000000100,
      [some 3], .none, by decide +kernel⟩,
    ⟨running.fset Reg.INST_STATUS_STAGE 6 |> fun s => forN 16 (fun j s => s.foff (Reg.REG_LIMIT_H_EN rsetPcie j)) s,
      .pcie, 0x80000000100, [some 3], .none, by decide +kernel⟩,
    ⟨running.foff (Reg.SYNC_PORT_CFG_REMOTE 130), (.app 2 false), 0x83000102058, [some 1, some 0, some 0, some 0], .none,
      130, 0x102058, 1, 0, 0, 0, by decide +kernel⟩,
    ⟨running |> fun s => { s with bad := [] } |> fun s => kvUnits.foldl (fun s x => s.foff (Reg.ING_KV_CFG_EN x.1 x.2))
      s, (.seq 20), 0x83000000104, [some 5, none, some 6, some 9], .none, 20, 0x104, 2, by decide +kernel⟩,
    ⟨running, .aon, 0x80000000104, [some 5, none, some 6, some 9], .none, by decide +kernel⟩,
    ⟨running.fset Reg.INST_STATUS_STAGE 0, .pcie, 0x80000000104, [some 5], .none, by decide +kernel⟩⟩

theorem test_slicePatrolScrub_can_run :
    (∃ (s : State) (i : Fin 256) (g : Fin 49152) (ecc : Ecc), s.canonical = true ∧ s.down = false ∧ s.tileAbsent (i / 4)
      = false ∧ s.islState (72 + i / 128) = 0) ∧
    (∃ (s : State) (i : Fin 256) (g : Fin 49152) (ecc : Ecc), s.canonical = true ∧ s.down = false ∧ s.tileAbsent (i / 4)
      = false ∧ s.islState (72 + i / 128) = 0 ∧ ecc = .none ∧ (eccWords (sliceAddr i g) 64).any s.isBad = false) ∧
    (∃ (s : State) (i : Fin 256) (g : Fin 49152) (ecc : Ecc), s.canonical = true ∧ s.down = false ∧ (s.tileAbsent (i / 4)
      = true ∨ s.islState (72 + i / 128) ≠ 0)) :=
  ⟨⟨running.foff (Reg.PWR_ISL_STAT_STATE 72), 5, 9, (.ue 0 0), by decide +kernel⟩,
    ⟨running.foff (Reg.PWR_ISL_STAT_STATE 72), 5, 9, .none, by decide +kernel⟩,
    ⟨running.fset (Reg.PWR_ISL_STAT_STATE 72) 2, 5, 9, (.ue 0 0), by decide +kernel⟩⟩

theorem test_seqPatrolScrub_can_run :
    (∃ (s : State) (i : Fin 128) (w : BitVec 16) (ecc : Ecc), s.canonical = true ∧ s.down = false ∧ s.tileAbsent (i / 2)
      = false ∧ s.islState (i / 2) = 0) ∧
    (∃ (s : State) (i : Fin 128) (w : BitVec 16) (ecc : Ecc), s.canonical = true ∧ s.down = false ∧ s.tileAbsent (i / 2)
      = false ∧ s.islState (i / 2) = 0 ∧ ecc = .none ∧ (eccWords (0x83100000000 + i * 0x40000 + 4 * w.toNat) 4).any
      s.isBad = false) ∧
    (∃ (s : State) (i : Fin 128) (w : BitVec 16) (ecc : Ecc), s.canonical = true ∧ s.down = false ∧ (s.tileAbsent (i / 2)
      = true ∨ s.islState (i / 2) ≠ 0)) :=
  ⟨⟨running.foff (Reg.PWR_ISL_STAT_STATE 2), 5, 9, (.ce 0 0), by decide +kernel⟩,
    ⟨running.foff (Reg.PWR_ISL_STAT_STATE 2), 5, 9, .none, by decide +kernel⟩,
    ⟨running.fset (Reg.PWR_ISL_STAT_STATE 2) 2, 5, 9, (.ce 0 0), by decide +kernel⟩⟩

theorem test_kvAppend_can_run :
    (∃ (s : State) (m : Master) (i : Fin 32) (u : Fin 2) (n : BitVec 8), s.canonical = true ∧ s.admits m (Reg.ING_KV_CMD
      i u) = true ∧ s.fbit (Reg.ING_KV_CFG_EN i u) = true ∧ 0 < n.toNat ∧ (s.fget (Reg.ING_KV_STAT_SPEC i u)) + n.toNat ≤
      s.fget (Reg.ING_KV_STRIDE_SPEC_MAX i u) ∧ (s.fget (Reg.ING_KV_STAT_SPEC i u)) + n.toNat ≤ s.fget
      (Reg.ING_KV_CFG_CAP i u) ∧ (s.rd (Reg.ING_KV_PTR i u)).toNat + (s.fget (Reg.ING_KV_STAT_SPEC i u)) + n.toNat ≤
      (s.rd (Reg.ING_KV_OLDEST i u)).toNat + s.fget (Reg.ING_KV_CFG_CAP i u)) ∧
    (∃ (s : State) (m : Master) (i : Fin 32) (u : Fin 2) (n : BitVec 8), s.canonical = true ∧ s.admits m (Reg.ING_KV_CMD
      i u) = true ∧ s.fbit (Reg.ING_KV_CFG_EN i u) = true ∧ (n.toNat = 0 ∨ s.fget (Reg.ING_KV_STRIDE_SPEC_MAX i u) <
      (s.fget (Reg.ING_KV_STAT_SPEC i u)) + n.toNat ∨ s.fget (Reg.ING_KV_CFG_CAP i u) < (s.fget (Reg.ING_KV_STAT_SPEC i
      u)) + n.toNat)) ∧
    (∃ (s : State) (m : Master) (i : Fin 32) (u : Fin 2) (n : BitVec 8), s.canonical = true ∧ s.admits m (Reg.ING_KV_CMD
      i u) = true ∧ s.fbit (Reg.ING_KV_CFG_EN i u) = true ∧ s.fbit (Reg.ING_KV_CFG_MODE i u) = true ∧ (s.rd
      (Reg.ING_KV_OLDEST i u)).toNat + s.fget (Reg.ING_KV_CFG_CAP i u) < (s.rd (Reg.ING_KV_PTR i u)).toNat + (s.fget
      (Reg.ING_KV_STAT_SPEC i u)) + n.toNat) ∧
    (∃ (s : State) (m : Master) (i : Fin 32) (u : Fin 2) (n : BitVec 8), s.canonical = true ∧ s.admits m (Reg.ING_KV_CMD
      i u) = true ∧ s.fbit (Reg.ING_KV_CFG_EN i u) = true ∧ 0 < n.toNat ∧ (s.fget (Reg.ING_KV_STAT_SPEC i u)) + n.toNat ≤
      s.fget (Reg.ING_KV_STRIDE_SPEC_MAX i u) ∧ (s.fget (Reg.ING_KV_STAT_SPEC i u)) + n.toNat ≤ s.fget
      (Reg.ING_KV_CFG_CAP i u) ∧ (s.rd (Reg.ING_KV_OLDEST i u)).toNat + s.fget (Reg.ING_KV_CFG_CAP i u) < (s.rd
      (Reg.ING_KV_PTR i u)).toNat + (s.fget (Reg.ING_KV_STAT_SPEC i u)) + n.toNat ∧ s.fbit (Reg.ING_KV_CFG_MODE i u) =
      false) ∧
    (∃ (s : State) (m : Master) (i : Fin 32) (u : Fin 2) (n : BitVec 8), s.canonical = true ∧ s.admits m (Reg.ING_KV_CMD
      i u) = true ∧ s.fbit (Reg.ING_KV_CFG_EN i u) = false) :=
  ⟨⟨running.fon (Reg.ING_KV_CFG_EN 3 1) |>.fset (Reg.ING_KV_CFG_CAP 3 1) 16 |>.fset (Reg.ING_KV_STRIDE_SPEC_MAX 3 1) 12
      |>.fset (Reg.ING_KV_STAT_SPEC 3 1) 4 |>.wr (Reg.ING_KV_PTR 3 1) 5 |>.wr (Reg.ING_KV_OLDEST 3 1) 1, .aon, 3, 1, 5,
      by decide +kernel⟩,
    ⟨running.fon (Reg.ING_KV_CFG_EN 3 1) |>.fset (Reg.ING_KV_CFG_CAP 3 1) 16 |>.fset (Reg.ING_KV_STRIDE_SPEC_MAX 3 1) 12
      |>.fset (Reg.ING_KV_STAT_SPEC 3 1) 4 |>.wr (Reg.ING_KV_PTR 3 1) 5 |>.wr (Reg.ING_KV_OLDEST 3 1) 1, .aon, 3, 1, 0,
      by decide +kernel⟩,
    ⟨running.fon (Reg.ING_KV_CFG_EN 3 1) |>.fset (Reg.ING_KV_CFG_CAP 3 1) 16 |>.fset (Reg.ING_KV_STRIDE_SPEC_MAX 3 1) 12
      |>.fset (Reg.ING_KV_STAT_SPEC 3 1) 4 |>.wr (Reg.ING_KV_PTR 3 1) 5 |>.wr (Reg.ING_KV_OLDEST 3 1) 1 |>.fon
      (Reg.ING_KV_CFG_MODE 3 1), .aon, 3, 1, 100, by decide +kernel⟩,
    ⟨running.fon (Reg.ING_KV_CFG_EN 3 1) |>.fset (Reg.ING_KV_CFG_CAP 3 1) 16 |>.fset (Reg.ING_KV_STRIDE_SPEC_MAX 3 1) 12
      |>.fset (Reg.ING_KV_STAT_SPEC 3 1) 4 |>.wr (Reg.ING_KV_PTR 3 1) 20 |>.wr (Reg.ING_KV_OLDEST 3 1) 9 |>.fset
      (Reg.ING_KV_CFG_MODE 3 1) 0, .aon, 3, 1, 5, by decide +kernel⟩,
    ⟨running.fon (Reg.ING_KV_CFG_EN 3 1) |>.fset (Reg.ING_KV_CFG_CAP 3 1) 16 |>.fset (Reg.ING_KV_STRIDE_SPEC_MAX 3 1) 12
      |>.fset (Reg.ING_KV_STAT_SPEC 3 1) 4 |>.wr (Reg.ING_KV_PTR 3 1) 5 |>.wr (Reg.ING_KV_OLDEST 3 1) 1 |>.foff
      (Reg.ING_KV_CFG_EN 3 1), .aon, 3, 1, 4, by decide +kernel⟩⟩

theorem test_kvAccept_can_run :
    (∃ (s : State) (m : Master) (i : Fin 32) (u : Fin 2) (n : BitVec 8), s.canonical = true ∧ s.admits m (Reg.ING_KV_CMD
      i u) = true ∧ s.fbit (Reg.ING_KV_CFG_EN i u) = true ∧ n.toNat ≤ (s.fget (Reg.ING_KV_STAT_SPEC i u))) ∧
    (∃ (s : State) (m : Master) (i : Fin 32) (u : Fin 2) (n : BitVec 8), s.canonical = true ∧ s.admits m (Reg.ING_KV_CMD
      i u) = true ∧ s.fbit (Reg.ING_KV_CFG_EN i u) = true ∧ (s.fget (Reg.ING_KV_STAT_SPEC i u)) < n.toNat) ∧
    (∃ (s : State) (m : Master) (i : Fin 32) (u : Fin 2) (n : BitVec 8), s.canonical = true ∧ s.admits m (Reg.ING_KV_CMD
      i u) = true ∧ s.fbit (Reg.ING_KV_CFG_EN i u) = false) :=
  ⟨⟨running.fon (Reg.ING_KV_CFG_EN 3 1) |>.fset (Reg.ING_KV_CFG_CAP 3 1) 16 |>.fset (Reg.ING_KV_STRIDE_SPEC_MAX 3 1) 12
      |>.fset (Reg.ING_KV_STAT_SPEC 3 1) 4 |>.wr (Reg.ING_KV_PTR 3 1) 5 |>.wr (Reg.ING_KV_OLDEST 3 1) 1, .aon, 3, 1, 3,
      by decide +kernel⟩,
    ⟨running.fon (Reg.ING_KV_CFG_EN 3 1) |>.fset (Reg.ING_KV_CFG_CAP 3 1) 16 |>.fset (Reg.ING_KV_STRIDE_SPEC_MAX 3 1) 12
      |>.fset (Reg.ING_KV_STAT_SPEC 3 1) 4 |>.wr (Reg.ING_KV_PTR 3 1) 5 |>.wr (Reg.ING_KV_OLDEST 3 1) 1, .aon, 3, 1, 9,
      by decide +kernel⟩,
    ⟨running.fon (Reg.ING_KV_CFG_EN 3 1) |>.fset (Reg.ING_KV_CFG_CAP 3 1) 16 |>.fset (Reg.ING_KV_STRIDE_SPEC_MAX 3 1) 12
      |>.fset (Reg.ING_KV_STAT_SPEC 3 1) 4 |>.wr (Reg.ING_KV_PTR 3 1) 5 |>.wr (Reg.ING_KV_OLDEST 3 1) 1 |>.foff
      (Reg.ING_KV_CFG_EN 3 1), .aon, 3, 1, 4, by decide +kernel⟩⟩

theorem test_kvRollback_can_run :
    (∃ (s : State) (m : Master) (i : Fin 32) (u : Fin 2), s.canonical = true ∧ s.admits m (Reg.ING_KV_CMD i u) = true ∧
      s.fbit (Reg.ING_KV_CFG_EN i u) = true) ∧
    (∃ (s : State) (m : Master) (i : Fin 32) (u : Fin 2), s.canonical = true ∧ s.admits m (Reg.ING_KV_CMD i u) = true ∧
      s.fbit (Reg.ING_KV_CFG_EN i u) = false) :=
  ⟨⟨running.fon (Reg.ING_KV_CFG_EN 3 1) |>.fset (Reg.ING_KV_CFG_CAP 3 1) 16 |>.fset (Reg.ING_KV_STRIDE_SPEC_MAX 3 1) 12
      |>.fset (Reg.ING_KV_STAT_SPEC 3 1) 4 |>.wr (Reg.ING_KV_PTR 3 1) 5 |>.wr (Reg.ING_KV_OLDEST 3 1) 1, .aon, 3, 1,
      by decide +kernel⟩,
    ⟨running.fon (Reg.ING_KV_CFG_EN 3 1) |>.fset (Reg.ING_KV_CFG_CAP 3 1) 16 |>.fset (Reg.ING_KV_STRIDE_SPEC_MAX 3 1) 12
      |>.fset (Reg.ING_KV_STAT_SPEC 3 1) 4 |>.wr (Reg.ING_KV_PTR 3 1) 5 |>.wr (Reg.ING_KV_OLDEST 3 1) 1 |>.foff
      (Reg.ING_KV_CFG_EN 3 1), .aon, 3, 1, by decide +kernel⟩⟩

theorem test_kvReset_can_run :
    (∃ (s : State) (m : Master) (i : Fin 32) (u : Fin 2), s.canonical = true ∧ s.admits m (Reg.ING_KV_CMD i u) = true ∧
      s.fbit (Reg.ING_KV_CFG_EN i u) = true) ∧
    (∃ (s : State) (m : Master) (i : Fin 32) (u : Fin 2), s.canonical = true ∧ s.admits m (Reg.ING_KV_CMD i u) = true ∧
      s.fbit (Reg.ING_KV_CFG_EN i u) = false) :=
  ⟨⟨running.fon (Reg.ING_KV_CFG_EN 3 1) |>.fset (Reg.ING_KV_CFG_CAP 3 1) 16 |>.fset (Reg.ING_KV_STRIDE_SPEC_MAX 3 1) 12
      |>.fset (Reg.ING_KV_STAT_SPEC 3 1) 4 |>.wr (Reg.ING_KV_PTR 3 1) 5 |>.wr (Reg.ING_KV_OLDEST 3 1) 1, .aon, 3, 1,
      by decide +kernel⟩,
    ⟨running.fon (Reg.ING_KV_CFG_EN 3 1) |>.fset (Reg.ING_KV_CFG_CAP 3 1) 16 |>.fset (Reg.ING_KV_STRIDE_SPEC_MAX 3 1) 12
      |>.fset (Reg.ING_KV_STAT_SPEC 3 1) 4 |>.wr (Reg.ING_KV_PTR 3 1) 5 |>.wr (Reg.ING_KV_OLDEST 3 1) 1 |>.foff
      (Reg.ING_KV_CFG_EN 3 1), .aon, 3, 1, by decide +kernel⟩⟩

theorem test_kvOtherOp_can_run :
    (∃ (s : State) (m : Master) (i : Fin 32) (u : Fin 2) (op : BitVec 4) (n : BitVec 8), s.canonical = true ∧ s.admits m
      (Reg.ING_KV_CMD i u) = true ∧ s.fbit (Reg.ING_KV_CFG_EN i u) = true ∧ (op = 0 ∨ 5 ≤ op)) ∧
    (∃ (s : State) (m : Master) (i : Fin 32) (u : Fin 2) (op : BitVec 4) (n : BitVec 8), s.canonical = true ∧ s.down =
      false ∧ op = 1) ∧
    (∃ (s : State) (m : Master) (i : Fin 32) (u : Fin 2) (op : BitVec 4) (n : BitVec 8), s.canonical = true ∧ s.down =
      false ∧ op = 2) ∧
    (∃ (s : State) (m : Master) (i : Fin 32) (u : Fin 2) (op : BitVec 4) (n : BitVec 8), s.canonical = true ∧ s.down =
      false ∧ op = 3) ∧
    (∃ (s : State) (m : Master) (i : Fin 32) (u : Fin 2) (op : BitVec 4) (n : BitVec 8), s.canonical = true ∧ s.down =
      false ∧ op = 4) ∧
    (∃ (s : State) (m : Master) (i : Fin 32) (u : Fin 2) (op : BitVec 4) (n : BitVec 8), s.canonical = true ∧ s.admits m
      (Reg.ING_KV_CMD i u) = true ∧ s.fbit (Reg.ING_KV_CFG_EN i u) = false) :=
  ⟨⟨running.fon (Reg.ING_KV_CFG_EN 3 1) |>.fset (Reg.ING_KV_CFG_CAP 3 1) 16 |>.fset (Reg.ING_KV_STRIDE_SPEC_MAX 3 1) 12
      |>.fset (Reg.ING_KV_STAT_SPEC 3 1) 4 |>.wr (Reg.ING_KV_PTR 3 1) 5 |>.wr (Reg.ING_KV_OLDEST 3 1) 1, .aon, 3, 1, 7,
      4, by decide +kernel⟩,
    ⟨running.fon (Reg.ING_KV_CFG_EN 3 1) |>.fset (Reg.ING_KV_CFG_CAP 3 1) 16 |>.fset (Reg.ING_KV_STRIDE_SPEC_MAX 3 1) 12
      |>.fset (Reg.ING_KV_STAT_SPEC 3 1) 4 |>.wr (Reg.ING_KV_PTR 3 1) 5 |>.wr (Reg.ING_KV_OLDEST 3 1) 1, .aon, 3, 1, 1,
      4, by decide +kernel⟩,
    ⟨running.fon (Reg.ING_KV_CFG_EN 3 1) |>.fset (Reg.ING_KV_CFG_CAP 3 1) 16 |>.fset (Reg.ING_KV_STRIDE_SPEC_MAX 3 1) 12
      |>.fset (Reg.ING_KV_STAT_SPEC 3 1) 4 |>.wr (Reg.ING_KV_PTR 3 1) 5 |>.wr (Reg.ING_KV_OLDEST 3 1) 1, .aon, 3, 1, 2,
      4, by decide +kernel⟩,
    ⟨running.fon (Reg.ING_KV_CFG_EN 3 1) |>.fset (Reg.ING_KV_CFG_CAP 3 1) 16 |>.fset (Reg.ING_KV_STRIDE_SPEC_MAX 3 1) 12
      |>.fset (Reg.ING_KV_STAT_SPEC 3 1) 4 |>.wr (Reg.ING_KV_PTR 3 1) 5 |>.wr (Reg.ING_KV_OLDEST 3 1) 1, .aon, 3, 1, 3,
      4, by decide +kernel⟩,
    ⟨running.fon (Reg.ING_KV_CFG_EN 3 1) |>.fset (Reg.ING_KV_CFG_CAP 3 1) 16 |>.fset (Reg.ING_KV_STRIDE_SPEC_MAX 3 1) 12
      |>.fset (Reg.ING_KV_STAT_SPEC 3 1) 4 |>.wr (Reg.ING_KV_PTR 3 1) 5 |>.wr (Reg.ING_KV_OLDEST 3 1) 1, .aon, 3, 1, 4,
      4, by decide +kernel⟩,
    ⟨running.fon (Reg.ING_KV_CFG_EN 3 1) |>.fset (Reg.ING_KV_CFG_CAP 3 1) 16 |>.fset (Reg.ING_KV_STRIDE_SPEC_MAX 3 1) 12
      |>.fset (Reg.ING_KV_STAT_SPEC 3 1) 4 |>.wr (Reg.ING_KV_PTR 3 1) 5 |>.wr (Reg.ING_KV_OLDEST 3 1) 1 |>.foff
      (Reg.ING_KV_CFG_EN 3 1), .aon, 3, 1, 7, 4, by decide +kernel⟩⟩

theorem test_kvDisable_can_run : ∃ (s : State) (m : Master) (i : Fin 32) (u : Fin 2), s.canonical = true ∧ s.admits m
  (Reg.ING_KV_CFG i u) = true :=
  ⟨running.fon (Reg.ING_KV_CFG_EN 3 1) |>.fset (Reg.ING_KV_CFG_CAP 3 1) 16 |>.fset (Reg.ING_KV_STRIDE_SPEC_MAX 3 1) 12
    |>.fset (Reg.ING_KV_STAT_SPEC 3 1) 4 |>.wr (Reg.ING_KV_PTR 3 1) 5 |>.wr (Reg.ING_KV_OLDEST 3 1) 1, .aon, 3, 1,
    by decide +kernel⟩

theorem test_ctxPush_can_run :
    (∃ (s : State) (m : Master) (i : Fin 32) (lo : Word) (hi : Word), s.canonical = true ∧ s.admits m
      (Reg.ING_CTX_PUSH_HI i) = true ∧ s.fbit (Reg.ING_CTX_CTL_EN i) = true ∧ ((List.range 16).any fun k => s.fbit
      (Reg.ING_CTX_DEST_VALID i k) && decide (s.fget (Reg.ING_CTX_DEST_CORE i k) = bits hi.toNat 9 0)) = true ∧ bits
      lo.toNat 23 16 ≠ 0 ∧ (s.tok i).ctx.length < 256) ∧
    (∃ (s : State) (m : Master) (i : Fin 32) (lo : Word) (hi : Word), s.canonical = true ∧ s.admits m
      (Reg.ING_CTX_PUSH_HI i) = true ∧ ¬ (s.fbit (Reg.ING_CTX_CTL_EN i) = true ∧ ((List.range 16).any fun k => s.fbit
      (Reg.ING_CTX_DEST_VALID i k) && decide (s.fget (Reg.ING_CTX_DEST_CORE i k) = bits hi.toNat 9 0)) = true ∧ bits
      lo.toNat 23 16 ≠ 0)) ∧
    (∃ (s : State) (m : Master) (i : Fin 32) (lo : Word) (hi : Word), s.canonical = true ∧ s.admits m
      (Reg.ING_CTX_PUSH_HI i) = true ∧ s.fbit (Reg.ING_CTX_CTL_EN i) = true ∧ ((List.range 16).any fun k => s.fbit
      (Reg.ING_CTX_DEST_VALID i k) && decide (s.fget (Reg.ING_CTX_DEST_CORE i k) = bits hi.toNat 9 0)) = true ∧ bits
      lo.toNat 23 16 ≠ 0 ∧ 256 ≤ (s.tok i).ctx.length) :=
  ⟨⟨running.fon (Reg.ING_CTX_CTL_EN 3) |>.fon (Reg.ING_CTX_DEST_VALID 3 2) |>.fset (Reg.ING_CTX_DEST_CORE 3 2) 77, .aon,
      3, 0x00050009, 77, by decide +kernel⟩,
    ⟨running.fon (Reg.ING_CTX_CTL_EN 3) |>.fon (Reg.ING_CTX_DEST_VALID 3 2) |>.fset (Reg.ING_CTX_DEST_CORE 3 2) 77, .aon,
      3, 0x00000009, 77, by decide +kernel⟩,
    ⟨running.fon (Reg.ING_CTX_CTL_EN 3) |>.fon (Reg.ING_CTX_DEST_VALID 3 2) |>.fset (Reg.ING_CTX_DEST_CORE 3 2) 77
      |>.onTok 3 fun t => { t with ctx := List.replicate 256 (1, 2) }, .aon, 3, 0x00050009, 77, by decide +kernel⟩⟩

theorem test_contextBoundary_can_run :
    (∃ (s : State) (i : Fin 32), s.canonical = true ∧ s.down = false ∧ s.fbit (Reg.ING_CTX_CTL_EN i) = true ∧ (ctxPack
      (s.tok i).ctx []).length ≤ s.fget (Reg.ING_CTX_CTL_BUDGET i)) ∧
    (∃ (s : State) (i : Fin 32), s.canonical = true ∧ s.down = false ∧ s.fbit (Reg.ING_CTX_CTL_EN i) = true ∧ s.fget
      (Reg.ING_CTX_CTL_BUDGET i) < (ctxPack (s.tok i).ctx []).length ∧ s.fget (Reg.ING_CTX_CTL_BUDGET i) = 0) ∧
    (∃ (s : State) (i : Fin 32), s.canonical = true ∧ s.down = false ∧ s.fbit (Reg.ING_CTX_CTL_EN i) = true ∧ 0 <
      s.tb.nextU) ∧
    (∃ (s : State) (i : Fin 32), s.canonical = true ∧ s.down = false ∧ s.fbit (Reg.ING_CTX_CTL_EN i) = false) :=
  ⟨⟨running.fon (Reg.ING_CTX_CTL_EN 3) |>.fset (Reg.ING_CTX_CTL_BUDGET 3) 2 |>.onTok 3 fun t =>
      { t with ctx := [(7, 0x00050009)] }, 3, by decide +kernel⟩,
    ⟨running.fon (Reg.ING_CTX_CTL_EN 3) |>.fset (Reg.ING_CTX_CTL_BUDGET 3) 0 |>.onTok 3 fun t =>
      { t with ctx := [(7, 0x00050009), (8, 3), (7, 9)] }, 3, by decide +kernel⟩,
    ⟨running.fon (Reg.ING_CTX_CTL_EN 3) |>.onTb (fun b => { b with nextU := 4 }), 3, by decide +kernel⟩,
    ⟨running.foff (Reg.ING_CTX_CTL_EN 3), 3, by decide +kernel⟩⟩

theorem test_rqPost_can_run :
    (∃ (s : State) (m : Master) (i : Fin 32) (v : BitVec 64), s.canonical = true ∧ s.admits m (Reg.PCIE_RQ_POST_HI i) =
      true ∧ 1 ≤ bits v.toNat 59 56 ∧ bits v.toNat 59 56 ≤ 5 ∧ (s.tok i).rq.ents.length < 1024) ∧
    (∃ (s : State) (m : Master) (i : Fin 32) (v : BitVec 64), s.canonical = true ∧ s.admits m (Reg.PCIE_RQ_POST_HI i) =
      true ∧ ¬ (1 ≤ bits v.toNat 59 56 ∧ bits v.toNat 59 56 ≤ 5)) ∧
    (∃ (s : State) (m : Master) (i : Fin 32) (v : BitVec 64), s.canonical = true ∧ s.admits m (Reg.PCIE_RQ_POST_HI i) =
      true ∧ 1 ≤ bits v.toNat 59 56 ∧ bits v.toNat 59 56 ≤ 5 ∧ 1024 ≤ (s.tok i).rq.ents.length ∧ s.shadows = false) ∧
    (∃ (s : State) (m : Master) (i : Fin 32) (v : BitVec 64), s.canonical = true ∧ s.admits m (Reg.PCIE_RQ_POST_HI i) =
      true ∧ 1 ≤ bits v.toNat 59 56 ∧ bits v.toNat 59 56 ≤ 5 ∧ (s.tok i).rq.ents.length = 1024 ∧ s.shadows = true) :=
  ⟨⟨running.foff Reg.AON_TWIN_CTL_SHADOW, .aon, 3, 0x0300000000000007, by decide +kernel⟩,
    ⟨running.foff Reg.AON_TWIN_CTL_SHADOW, .aon, 3, 0x0900000000000007, by decide +kernel⟩,
    ⟨running.foff Reg.AON_TWIN_CTL_SHADOW |>.onTok 3 fun t =>
      { t with rq := { t.rq with ents := List.replicate 1024 ⟨1, 0, 0, 0⟩ } }, .aon, 3, 0x0300000000000007,
      by decide +kernel⟩,
    ⟨running.fon Reg.AON_TWIN_CTL_SHADOW |>.fon Reg.AON_TWIN_CTL_EN |>.fon Reg.AON_TWIN_STATUS_ROLE |>.onTok 3 fun t =>
      { t with rq := { t.rq with ents := List.replicate 1024 ⟨1, 0, 0, 0⟩ } }, .aon, 3, 0x0300000000000007,
      by decide +kernel⟩⟩

theorem test_pop64_can_run :
    (∃ (s : State) (i : Fin 32) (cls : Bool) (size : BitVec 8) (aligned : Bool) (e : HostEnt) (r : List HostEnt),
      s.canonical = true ∧ s.down = false ∧ s.barOpen = true ∧ (s.hostQ i cls).ents = e :: r ∧ size = 8 ∧ aligned = true) ∧
    (∃ (s : State) (i : Fin 32) (cls : Bool) (size : BitVec 8) (aligned : Bool) (e : HostEnt) (r : List HostEnt),
      s.canonical = true ∧ s.down = false ∧ s.barOpen = true ∧ (s.hostQ i cls).ents = e :: r ∧ (size ≠ 8 ∨ aligned =
      false)) ∧
    (∃ (s : State) (i : Fin 32) (cls : Bool) (size : BitVec 8) (aligned : Bool), s.canonical = true ∧ s.down = false ∧
      s.barOpen = true ∧ (s.hostQ i cls).ents = []) ∧
    (∃ (s : State) (i : Fin 32) (cls : Bool) (size : BitVec 8) (aligned : Bool), s.canonical = true ∧ s.down = false ∧
      s.barOpen = false) :=
  ⟨⟨running.fset Reg.INST_STATUS_STAGE 7 |> fun s => s.setHostQ 3 true ⟨[⟨3, 130, 7, 99⟩], 131, []⟩, 3, true, 8, true,
      ⟨3, 130, 7, 99⟩, [], by decide +kernel⟩,
    ⟨running.fset Reg.INST_STATUS_STAGE 7 |> fun s => s.setHostQ 3 true ⟨[⟨3, 130, 7, 99⟩], 131, []⟩, 3, true, 4, true,
      ⟨3, 130, 7, 99⟩, [], by decide +kernel⟩,
    ⟨running.fset Reg.INST_STATUS_STAGE 7, 3, true, 8, true, by decide +kernel⟩,
    ⟨running.fset Reg.INST_STATUS_STAGE 0, 3, true, 8, true, by decide +kernel⟩⟩

theorem test_pop128_can_run :
    (∃ (s : State) (i : Fin 32) (cls : Bool) (size : BitVec 8) (aligned : Bool) (e : HostEnt) (r : List HostEnt),
      s.canonical = true ∧ s.down = false ∧ s.barOpen = true ∧ (s.hostQ i cls).ents = e :: r ∧ size = 16 ∧ aligned =
      true) ∧
    (∃ (s : State) (i : Fin 32) (cls : Bool) (size : BitVec 8) (aligned : Bool) (e : HostEnt) (r : List HostEnt),
      s.canonical = true ∧ s.down = false ∧ s.barOpen = true ∧ (s.hostQ i cls).ents = e :: r ∧ (size ≠ 16 ∨ aligned =
      false)) ∧
    (∃ (s : State) (i : Fin 32) (cls : Bool) (size : BitVec 8) (aligned : Bool), s.canonical = true ∧ s.down = false ∧
      s.barOpen = true ∧ (s.hostQ i cls).ents = []) ∧
    (∃ (s : State) (i : Fin 32) (cls : Bool) (size : BitVec 8) (aligned : Bool), s.canonical = true ∧ s.down = false ∧
      s.barOpen = false) :=
  ⟨⟨running.fset Reg.INST_STATUS_STAGE 7 |> fun s => s.setHostQ 3 true ⟨[⟨3, 130, 7, 99⟩], 131, []⟩, 3, true, 16, true,
      ⟨3, 130, 7, 99⟩, [], by decide +kernel⟩,
    ⟨running.fset Reg.INST_STATUS_STAGE 7 |> fun s => s.setHostQ 3 true ⟨[⟨3, 130, 7, 99⟩], 131, []⟩, 3, true, 4, true,
      ⟨3, 130, 7, 99⟩, [], by decide +kernel⟩,
    ⟨running.fset Reg.INST_STATUS_STAGE 7, 3, true, 16, true, by decide +kernel⟩,
    ⟨running.fset Reg.INST_STATUS_STAGE 0, 3, true, 16, true, by decide +kernel⟩⟩

theorem test_replayRead_can_run :
    (∃ (s : State) (i : Fin 32) (cls : Bool) (off : BitVec 11) (size : BitVec 8) (k : Fin 128), s.canonical = true ∧
      s.down = false ∧ s.barOpen = true ∧ 16 * k.val = off.toNat ∧ size = 16) ∧
    (∃ (s : State) (i : Fin 32) (cls : Bool) (off : BitVec 11) (size : BitVec 8), s.canonical = true ∧ s.down = false ∧
      s.barOpen = false) :=
  ⟨⟨running.fset Reg.INST_STATUS_STAGE 7 |> fun s => s.setHostQ 3 true ⟨[], 131, [(2, some ⟨3, 130, 7, 99⟩)]⟩, 3, true,
      32, 16, 2, by decide +kernel⟩,
    ⟨running.fset Reg.INST_STATUS_STAGE 0, 3, true, 32, 16, by decide +kernel⟩⟩

theorem test_doorbell_can_run :
    (∃ (s : State) (i : Fin 32) (arg : Word), s.canonical = true ∧ s.down = false ∧ s.barOpen = true ∧ (s.owner
      136).wakes = [] ∧ (s.owner 136).stalled = [] ∧ (s.owner 136).mc = none ∧ s.place 136 (qnOf s.devid (s.fget
      (Reg.ING_WAKE_Q_OWNER i)) (s.fget (Reg.ING_WAKE_Q_QUEUE i))) = true ∧ s.fget (Reg.ING_WAKE_Q_OWNER i) < 512 ∧ (¬
      ((s.now + 16 * s.fget (Reg.ING_WIN_POST i) - s.fget (Reg.ING_WIN_OBJ_LEAD_NS i)) * 65536 < (s.stream i).acked ∨
      ((s.stream i).marked = true ∧ s.fbit (Reg.ING_STATUS_ABSENT i) = true))) ∧ (s.stream i).windows.length < 4) ∧
    (∃ (s : State) (i : Fin 32) (arg : Word), s.canonical = true ∧ s.down = false ∧ s.barOpen = true ∧ (s.owner
      136).wakes = [] ∧ (s.owner 136).stalled = [] ∧ (s.owner 136).mc = none ∧ (¬ ((s.now + 16 * s.fget (Reg.ING_WIN_POST
      i) - s.fget (Reg.ING_WIN_OBJ_LEAD_NS i)) * 65536 < (s.stream i).acked ∨ ((s.stream i).marked = true ∧ s.fbit
      (Reg.ING_STATUS_ABSENT i) = true))) ∧ 4 ≤ (s.stream i).windows.length) ∧
    (∃ (s : State) (i : Fin 32) (arg : Word), s.canonical = true ∧ s.down = false ∧ s.barOpen = true ∧ (s.owner
      136).wakes = [] ∧ (s.owner 136).stalled = [] ∧ (s.owner 136).mc = none ∧ ((s.now + 16 * s.fget (Reg.ING_WIN_POST i)
      - s.fget (Reg.ING_WIN_OBJ_LEAD_NS i)) * 65536 < (s.stream i).acked ∨ ((s.stream i).marked = true ∧ s.fbit
      (Reg.ING_STATUS_ABSENT i) = true)) ∧ s.replyFree (streamCoord s.devid i) = true) ∧
    (∃ (s : State) (i : Fin 32) (arg : Word), s.canonical = true ∧ s.down = false ∧ s.barOpen = true ∧ (s.owner
      136).wakes = [] ∧ (s.owner 136).stalled = [] ∧ (s.owner 136).mc = none ∧ s.place 136 (qnOf s.devid (s.fget
      (Reg.ING_WAKE_Q_OWNER i)) (s.fget (Reg.ING_WAKE_Q_QUEUE i))) = false) ∧
    (∃ (s : State) (i : Fin 32) (arg : Word), s.canonical = true ∧ s.down = false ∧ s.barOpen = false) ∧
    (∃ (s : State) (i : Fin 32) (arg : Word), s.canonical = true ∧ s.down = false ∧ s.barOpen = true) :=
  ⟨⟨running.fset Reg.INST_STATUS_STAGE 7, 3, 0x1234, by decide +kernel⟩,
    ⟨running.fset Reg.INST_STATUS_STAGE 7 |>.onStream 3 fun x => { x with windows := [1,2,3,4] }, 3, 0x1234,
      by decide +kernel⟩,
    ⟨running.fset Reg.INST_STATUS_STAGE 7 |>.onStream 3 fun x => { x with acked := 2 ^ 90 }, 3, 0x1234,
      by decide +kernel⟩,
    ⟨running.fset Reg.INST_STATUS_STAGE 7 |> fun s => s.onIface (ownerCoord s.devid 136) (fun _ => ⟨0, 64, []⟩), 3,
      0x1234, by decide +kernel⟩,
    ⟨running.fset Reg.INST_STATUS_STAGE 0, 3, 0x1234, by decide +kernel⟩,
    ⟨running.fset Reg.INST_STATUS_STAGE 7, 3, 0x1234, by decide +kernel⟩⟩

theorem test_outputRecord_can_run :
    (∃ (s : State) (n : Fin 1024) (j : BitVec 14) (grade : BitVec 8) (u : Word) (i : Fin 32) (k : Nat) (p : Fin 16),
      s.canonical = true ∧ s.down = false ∧ ((List.range 32).find? (fun k => s.fbit (Reg.ING_WAKE_E0_VALID i k) && decide
      (s.fget (Reg.ING_WAKE_E0_CORE i k) = n) && decide (s.fget (Reg.ING_WAKE_E1_J_FIRST i k) ≤ j.toNat) && decide
      (j.toNat ≤ s.fget (Reg.ING_WAKE_E1_J_LAST i k)))) = some k ∧ s.shadows = false ∧ (s.tok i).cq.ents.length < 1024 ∧
      ¬ (s.fbit (Reg.ING_WAKE_E0_WAKE i k) = true ∧ s.fbit (Reg.ING_WAKE_CFG_EN i) = true) ∧ s.fbit (Reg.ING_BR_CTL_EN i)
      = false ∧ p.val ∈ s.trigPins n j.toNat grade.toNat ∧ s.gridInstant u.toNat = none ∧ s.pinSrc p = 1 ∧ s.pinLevel p =
      false ∧ (s.pin p).seen.contains u.toNat = false) ∧
    (∃ (s : State) (n : Fin 1024) (j : BitVec 14) (grade : BitVec 8) (u : Word) (i : Fin 32) (k : Nat) (p : Fin 16),
      s.canonical = true ∧ s.down = false ∧ ((List.range 32).find? (fun k => s.fbit (Reg.ING_WAKE_E0_VALID i k) && decide
      (s.fget (Reg.ING_WAKE_E0_CORE i k) = n) && decide (s.fget (Reg.ING_WAKE_E1_J_FIRST i k) ≤ j.toNat) && decide
      (j.toNat ≤ s.fget (Reg.ING_WAKE_E1_J_LAST i k)))) = some k ∧ s.fbit (Reg.ING_WAKE_E0_WAKE i k) = true ∧ s.fbit
      (Reg.ING_WAKE_CFG_EN i) = true ∧ ((s.tok i).lastWake.any fun l => decide (((s.fullStep u.toNat) % 2 ^ 32 + 2 ^ 32 -
      l) % 2 ^ 32 < s.fget (Reg.ING_WAKE_CFG_HOLDOFF i))) = false) ∧
    (∃ (s : State) (n : Fin 1024) (j : BitVec 14) (grade : BitVec 8) (u : Word) (i : Fin 32) (k : Nat) (p : Fin 16),
      s.canonical = true ∧ s.down = false ∧ ((List.range 32).find? (fun k => s.fbit (Reg.ING_WAKE_E0_VALID i k) && decide
      (s.fget (Reg.ING_WAKE_E0_CORE i k) = n) && decide (s.fget (Reg.ING_WAKE_E1_J_FIRST i k) ≤ j.toNat) && decide
      (j.toNat ≤ s.fget (Reg.ING_WAKE_E1_J_LAST i k)))) = some k ∧ s.fbit (Reg.ING_WAKE_E0_WAKE i k) = true ∧ s.fbit
      (Reg.ING_WAKE_CFG_EN i) = true ∧ ((s.tok i).lastWake.any fun l => decide (((s.fullStep u.toNat) % 2 ^ 32 + 2 ^ 32 -
      l) % 2 ^ 32 < s.fget (Reg.ING_WAKE_CFG_HOLDOFF i))) = true) ∧
    (∃ (s : State) (n : Fin 1024) (j : BitVec 14) (grade : BitVec 8) (u : Word) (i : Fin 32) (k : Nat) (p : Fin 16),
      s.canonical = true ∧ s.down = false ∧ ((List.range 32).find? (fun k => s.fbit (Reg.ING_WAKE_E0_VALID i k) && decide
      (s.fget (Reg.ING_WAKE_E0_CORE i k) = n) && decide (s.fget (Reg.ING_WAKE_E1_J_FIRST i k) ≤ j.toNat) && decide
      (j.toNat ≤ s.fget (Reg.ING_WAKE_E1_J_LAST i k)))) = some k ∧ s.shadows = false ∧ 1024 ≤ (s.tok i).cq.ents.length) ∧
    (∃ (s : State) (n : Fin 1024) (j : BitVec 14) (grade : BitVec 8) (u : Word) (i : Fin 32) (k : Nat) (p : Fin 16),
      s.canonical = true ∧ s.down = false ∧ p.val ∈ s.trigPins n j.toNat grade.toNat ∧ s.gridInstant u.toNat = none ∧
      s.pinSrc p = 2 ∧ (s.pin p).seen.contains u.toNat = false) ∧
    (∃ (s : State) (n : Fin 1024) (j : BitVec 14) (grade : BitVec 8) (u : Word) (i : Fin 32) (k : Nat) (p : Fin 16),
      s.canonical = true ∧ s.down = false ∧ (p.val ∉ s.trigPins n j.toNat grade.toNat ∨ (s.pinSrc p ≠ 1 ∧ s.pinSrc p ≠
      2))) ∧
    (∃ (s : State) (n : Fin 1024) (j : BitVec 14) (grade : BitVec 8) (u : Word) (i : Fin 32) (k : Nat) (p : Fin 16),
      s.canonical = true ∧ s.down = false ∧ s.fbit Reg.TB_TRIG_CFG_GRID = true ∧ s.gridInstant u.toNat = none) ∧
    (∃ (s : State) (n : Fin 1024) (j : BitVec 14) (grade : BitVec 8) (u : Word) (i : Fin 32) (k : Nat) (p : Fin 16),
      s.canonical = true ∧ s.down = false ∧ p.val ∈ s.trigPins n j.toNat grade.toNat ∧ (s.pinSrc p = 1 ∨ s.pinSrc p = 2)
      ∧ s.gridInstant u.toNat ≠ none) ∧
    (∃ (s : State) (n : Fin 1024) (j : BitVec 14) (grade : BitVec 8) (u : Word) (i : Fin 32) (k : Nat) (p : Fin 16),
      s.canonical = true ∧ s.down = false ∧ p.val ∈ s.trigPins n j.toNat grade.toNat ∧ s.gridInstant u.toNat = none ∧
      s.pinSrc p = 1 ∧ s.pinLevel p = true) ∧
    (∃ (s : State) (n : Fin 1024) (j : BitVec 14) (grade : BitVec 8) (u : Word) (i : Fin 32) (k : Nat) (p : Fin 16),
      s.canonical = true ∧ s.down = false ∧ ((List.range 32).find? (fun k => s.fbit (Reg.ING_WAKE_E0_VALID i k) && decide
      (s.fget (Reg.ING_WAKE_E0_CORE i k) = n) && decide (s.fget (Reg.ING_WAKE_E1_J_FIRST i k) ≤ j.toNat) && decide
      (j.toNat ≤ s.fget (Reg.ING_WAKE_E1_J_LAST i k)))) = none) ∧
    (∃ (s : State) (n : Fin 1024) (j : BitVec 14) (grade : BitVec 8) (u : Word) (i : Fin 32) (k u0 : Nat) (b : BinSt),
      s.canonical = true ∧ s.down = false ∧ s.fbit (Reg.ING_BR_CTL_EN i) = true ∧ ((List.range 64).find? (fun k => s.fbit
      (Reg.ING_BR_E0_VALID i k) && decide (s.fget (Reg.ING_BR_E0_MODE i k) ≠ 3) && decide (s.fget (Reg.ING_BR_E0_CORE i
      k) = n) && decide (s.fget (Reg.ING_BR_E1_J_FIRST i k) ≤ j.toNat) && decide (j.toNat ≤ s.fget (Reg.ING_BR_E1_J_LAST
      i k)))) = some k ∧ (s.tok i).first = some u0 ∧ u0 ≤ (s.fullStep u.toNat) ∧ (s.tok i).bins = [b] ∧ b.frame =
      (((s.fullStep u.toNat) - u0) / s.brSteps i) ∧ (s.tok i).binned < 256 ∧ (s.fget (Reg.ING_BR_E0_FEAT_BASE i k) +
      (j.toNat - s.fget (Reg.ING_BR_E1_J_FIRST i k))) < s.brF i) ∧
    (∃ (s : State) (n : Fin 1024) (j : BitVec 14) (grade : BitVec 8) (u : Word) (i : Fin 32) (k u0 : Nat) (b : BinSt),
      s.canonical = true ∧ s.down = false ∧ s.fbit (Reg.ING_BR_CTL_EN i) = true ∧ ((List.range 64).find? (fun k => s.fbit
      (Reg.ING_BR_E0_VALID i k) && decide (s.fget (Reg.ING_BR_E0_MODE i k) ≠ 3) && decide (s.fget (Reg.ING_BR_E0_CORE i
      k) = n) && decide (s.fget (Reg.ING_BR_E1_J_FIRST i k) ≤ j.toNat) && decide (j.toNat ≤ s.fget (Reg.ING_BR_E1_J_LAST
      i k)))) = some k ∧ (s.tok i).first = some u0 ∧ u0 ≤ (s.fullStep u.toNat) ∧ (s.tok i).bins = [b] ∧ b.frame ≠
      (((s.fullStep u.toNat) - u0) / s.brSteps i)) ∧
    (∃ (s : State) (n : Fin 1024) (j : BitVec 14) (grade : BitVec 8) (u : Word) (i : Fin 32) (k u0 : Nat) (b : BinSt),
      s.canonical = true ∧ s.down = false ∧ s.fbit (Reg.ING_BR_CTL_EN i) = true ∧ ((List.range 64).find? (fun k => s.fbit
      (Reg.ING_BR_E0_VALID i k) && decide (s.fget (Reg.ING_BR_E0_MODE i k) ≠ 3) && decide (s.fget (Reg.ING_BR_E0_CORE i
      k) = n) && decide (s.fget (Reg.ING_BR_E1_J_FIRST i k) ≤ j.toNat) && decide (j.toNat ≤ s.fget (Reg.ING_BR_E1_J_LAST
      i k)))) = some k ∧ (s.tok i).first = some u0 ∧ u0 ≤ (s.fullStep u.toNat) ∧ (s.tok i).bins = [b] ∧ b.frame =
      (((s.fullStep u.toNat) - u0) / s.brSteps i) ∧ (256 ≤ (s.tok i).binned ∨ s.brF i ≤ (s.fget (Reg.ING_BR_E0_FEAT_BASE
      i k) + (j.toNat - s.fget (Reg.ING_BR_E1_J_FIRST i k))))) :=
  ⟨⟨running.fon (Reg.ING_WAKE_E0_VALID 3 2) |>.fset (Reg.ING_WAKE_E0_CORE 3 2) 77 |>.fset (Reg.ING_WAKE_E1_J_LAST 3 2)
      100 |>.fset (Reg.ING_WAKE_E1_J_FIRST 3 2) 1 |>.foff (Reg.ING_WAKE_E0_WAKE 3 2) |>.foff (Reg.ING_WAKE_E0_VALID 3 0)
      |>.foff (Reg.ING_WAKE_E0_VALID 3 1) |>.fon (Reg.TRIG_MAP_W0_VALID 4) |>.fset (Reg.TRIG_MAP_W0_CORE 4) 77 |>.fset
      (Reg.TRIG_MAP_W1_J_FIRST 4) 2 |>.fset (Reg.TRIG_MAP_W1_J_LAST 4) 20 |>.fset (Reg.TRIG_MAP_W0_PIN 4) 5 |>.fset
      (Reg.TRIG_MAP_W0_MIN_GRADE 4) 3 |>.fset (Reg.TB_PIN_SRC 5) 1 |>.foff Reg.TB_TRIG_CFG_GRID |>.fset
      Reg.TB_OUT_STATUS_LEVEL 0 |>.foff Reg.AON_TWIN_CTL_SHADOW |>.foff (Reg.ING_BR_CTL_EN 3) |>.setPin 5 PinSt.init, 77,
      9, 20, 6, 3, 2, 5, by decide +kernel⟩,
    ⟨running.fon (Reg.ING_WAKE_E0_VALID 3 2) |>.fset (Reg.ING_WAKE_E0_CORE 3 2) 77 |>.fset (Reg.ING_WAKE_E1_J_LAST 3 2)
      100 |>.fset (Reg.ING_WAKE_E1_J_FIRST 3 2) 1 |>.foff (Reg.ING_WAKE_E0_WAKE 3 2) |>.foff (Reg.ING_WAKE_E0_VALID 3 0)
      |>.foff (Reg.ING_WAKE_E0_VALID 3 1) |>.fon (Reg.TRIG_MAP_W0_VALID 4) |>.fset (Reg.TRIG_MAP_W0_CORE 4) 77 |>.fset
      (Reg.TRIG_MAP_W1_J_FIRST 4) 2 |>.fset (Reg.TRIG_MAP_W1_J_LAST 4) 20 |>.fset (Reg.TRIG_MAP_W0_PIN 4) 5 |>.fset
      (Reg.TRIG_MAP_W0_MIN_GRADE 4) 3 |>.fset (Reg.TB_PIN_SRC 5) 1 |>.foff Reg.TB_TRIG_CFG_GRID |>.fset
      Reg.TB_OUT_STATUS_LEVEL 0 |>.foff Reg.AON_TWIN_CTL_SHADOW |>.foff (Reg.ING_BR_CTL_EN 3) |>.setPin 5 PinSt.init
      |>.fon (Reg.ING_WAKE_E0_WAKE 3 2) |>.fon (Reg.ING_WAKE_CFG_EN 3) |>.fset (Reg.ING_WAKE_CFG_HOLDOFF 3) 9 |>.onTok 3
      (fun t => { t with lastWake := none }), 77, 9, 20, 6, 3, 2, 5, by decide +kernel⟩,
    ⟨running.fon (Reg.ING_WAKE_E0_VALID 3 2) |>.fset (Reg.ING_WAKE_E0_CORE 3 2) 77 |>.fset (Reg.ING_WAKE_E1_J_LAST 3 2)
      100 |>.fset (Reg.ING_WAKE_E1_J_FIRST 3 2) 1 |>.foff (Reg.ING_WAKE_E0_WAKE 3 2) |>.foff (Reg.ING_WAKE_E0_VALID 3 0)
      |>.foff (Reg.ING_WAKE_E0_VALID 3 1) |>.fon (Reg.TRIG_MAP_W0_VALID 4) |>.fset (Reg.TRIG_MAP_W0_CORE 4) 77 |>.fset
      (Reg.TRIG_MAP_W1_J_FIRST 4) 2 |>.fset (Reg.TRIG_MAP_W1_J_LAST 4) 20 |>.fset (Reg.TRIG_MAP_W0_PIN 4) 5 |>.fset
      (Reg.TRIG_MAP_W0_MIN_GRADE 4) 3 |>.fset (Reg.TB_PIN_SRC 5) 1 |>.foff Reg.TB_TRIG_CFG_GRID |>.fset
      Reg.TB_OUT_STATUS_LEVEL 0 |>.foff Reg.AON_TWIN_CTL_SHADOW |>.foff (Reg.ING_BR_CTL_EN 3) |>.setPin 5 PinSt.init
      |>.fon (Reg.ING_WAKE_E0_WAKE 3 2) |>.fon (Reg.ING_WAKE_CFG_EN 3) |>.fset (Reg.ING_WAKE_CFG_HOLDOFF 3) 9 |>.onTok 3
      (fun t => { t with lastWake := some 3 }), 77, 9, 20, 6, 3, 2, 5, by decide +kernel⟩,
    ⟨running.fon (Reg.ING_WAKE_E0_VALID 3 2) |>.fset (Reg.ING_WAKE_E0_CORE 3 2) 77 |>.fset (Reg.ING_WAKE_E1_J_LAST 3 2)
      100 |>.fset (Reg.ING_WAKE_E1_J_FIRST 3 2) 1 |>.foff (Reg.ING_WAKE_E0_WAKE 3 2) |>.foff (Reg.ING_WAKE_E0_VALID 3 0)
      |>.foff (Reg.ING_WAKE_E0_VALID 3 1) |>.fon (Reg.TRIG_MAP_W0_VALID 4) |>.fset (Reg.TRIG_MAP_W0_CORE 4) 77 |>.fset
      (Reg.TRIG_MAP_W1_J_FIRST 4) 2 |>.fset (Reg.TRIG_MAP_W1_J_LAST 4) 20 |>.fset (Reg.TRIG_MAP_W0_PIN 4) 5 |>.fset
      (Reg.TRIG_MAP_W0_MIN_GRADE 4) 3 |>.fset (Reg.TB_PIN_SRC 5) 1 |>.foff Reg.TB_TRIG_CFG_GRID |>.fset
      Reg.TB_OUT_STATUS_LEVEL 0 |>.foff Reg.AON_TWIN_CTL_SHADOW |>.foff (Reg.ING_BR_CTL_EN 3) |>.setPin 5 PinSt.init
      |>.onTok 3 fun t => { t with cq := { t.cq with ents := List.replicate 1024 ⟨1, 0, 0, 0⟩ } }, 77, 9, 20, 6, 3, 2, 5,
      by decide +kernel⟩,
    ⟨running.fon (Reg.ING_WAKE_E0_VALID 3 2) |>.fset (Reg.ING_WAKE_E0_CORE 3 2) 77 |>.fset (Reg.ING_WAKE_E1_J_LAST 3 2)
      100 |>.fset (Reg.ING_WAKE_E1_J_FIRST 3 2) 1 |>.foff (Reg.ING_WAKE_E0_WAKE 3 2) |>.foff (Reg.ING_WAKE_E0_VALID 3 0)
      |>.foff (Reg.ING_WAKE_E0_VALID 3 1) |>.fon (Reg.TRIG_MAP_W0_VALID 4) |>.fset (Reg.TRIG_MAP_W0_CORE 4) 77 |>.fset
      (Reg.TRIG_MAP_W1_J_FIRST 4) 2 |>.fset (Reg.TRIG_MAP_W1_J_LAST 4) 20 |>.fset (Reg.TRIG_MAP_W0_PIN 4) 5 |>.fset
      (Reg.TRIG_MAP_W0_MIN_GRADE 4) 3 |>.fset (Reg.TB_PIN_SRC 5) 1 |>.foff Reg.TB_TRIG_CFG_GRID |>.fset
      Reg.TB_OUT_STATUS_LEVEL 0 |>.foff Reg.AON_TWIN_CTL_SHADOW |>.foff (Reg.ING_BR_CTL_EN 3) |>.setPin 5 PinSt.init
      |>.fset (Reg.TB_PIN_SRC 5) 2, 77, 9, 20, 6, 3, 2, 5, by decide +kernel⟩,
    ⟨running.fon (Reg.ING_WAKE_E0_VALID 3 2) |>.fset (Reg.ING_WAKE_E0_CORE 3 2) 77 |>.fset (Reg.ING_WAKE_E1_J_LAST 3 2)
      100 |>.fset (Reg.ING_WAKE_E1_J_FIRST 3 2) 1 |>.foff (Reg.ING_WAKE_E0_WAKE 3 2) |>.foff (Reg.ING_WAKE_E0_VALID 3 0)
      |>.foff (Reg.ING_WAKE_E0_VALID 3 1) |>.fon (Reg.TRIG_MAP_W0_VALID 4) |>.fset (Reg.TRIG_MAP_W0_CORE 4) 77 |>.fset
      (Reg.TRIG_MAP_W1_J_FIRST 4) 2 |>.fset (Reg.TRIG_MAP_W1_J_LAST 4) 20 |>.fset (Reg.TRIG_MAP_W0_PIN 4) 5 |>.fset
      (Reg.TRIG_MAP_W0_MIN_GRADE 4) 3 |>.fset (Reg.TB_PIN_SRC 5) 1 |>.foff Reg.TB_TRIG_CFG_GRID |>.fset
      Reg.TB_OUT_STATUS_LEVEL 0 |>.foff Reg.AON_TWIN_CTL_SHADOW |>.foff (Reg.ING_BR_CTL_EN 3) |>.setPin 5 PinSt.init
      |>.fset (Reg.TB_PIN_SRC 5) 3, 77, 9, 20, 6, 3, 2, 5, by decide +kernel⟩,
    ⟨running.fon (Reg.ING_WAKE_E0_VALID 3 2) |>.fset (Reg.ING_WAKE_E0_CORE 3 2) 77 |>.fset (Reg.ING_WAKE_E1_J_LAST 3 2)
      100 |>.fset (Reg.ING_WAKE_E1_J_FIRST 3 2) 1 |>.foff (Reg.ING_WAKE_E0_WAKE 3 2) |>.foff (Reg.ING_WAKE_E0_VALID 3 0)
      |>.foff (Reg.ING_WAKE_E0_VALID 3 1) |>.fon (Reg.TRIG_MAP_W0_VALID 4) |>.fset (Reg.TRIG_MAP_W0_CORE 4) 77 |>.fset
      (Reg.TRIG_MAP_W1_J_FIRST 4) 2 |>.fset (Reg.TRIG_MAP_W1_J_LAST 4) 20 |>.fset (Reg.TRIG_MAP_W0_PIN 4) 5 |>.fset
      (Reg.TRIG_MAP_W0_MIN_GRADE 4) 3 |>.fset (Reg.TB_PIN_SRC 5) 1 |>.foff Reg.TB_TRIG_CFG_GRID |>.fset
      Reg.TB_OUT_STATUS_LEVEL 0 |>.foff Reg.AON_TWIN_CTL_SHADOW |>.foff (Reg.ING_BR_CTL_EN 3) |>.setPin 5 PinSt.init
      |>.fon Reg.TB_TRIG_CFG_GRID |> fun s => { s with tb := { s.tb with issues := [] } }, 77, 9, 20, 6, 3, 2, 5,
      by decide +kernel⟩,
    ⟨running.fon (Reg.ING_WAKE_E0_VALID 3 2) |>.fset (Reg.ING_WAKE_E0_CORE 3 2) 77 |>.fset (Reg.ING_WAKE_E1_J_LAST 3 2)
      100 |>.fset (Reg.ING_WAKE_E1_J_FIRST 3 2) 1 |>.foff (Reg.ING_WAKE_E0_WAKE 3 2) |>.foff (Reg.ING_WAKE_E0_VALID 3 0)
      |>.foff (Reg.ING_WAKE_E0_VALID 3 1) |>.fon (Reg.TRIG_MAP_W0_VALID 4) |>.fset (Reg.TRIG_MAP_W0_CORE 4) 77 |>.fset
      (Reg.TRIG_MAP_W1_J_FIRST 4) 2 |>.fset (Reg.TRIG_MAP_W1_J_LAST 4) 20 |>.fset (Reg.TRIG_MAP_W0_PIN 4) 5 |>.fset
      (Reg.TRIG_MAP_W0_MIN_GRADE 4) 3 |>.fset (Reg.TB_PIN_SRC 5) 1 |>.foff Reg.TB_TRIG_CFG_GRID |>.fset
      Reg.TB_OUT_STATUS_LEVEL 0 |>.foff Reg.AON_TWIN_CTL_SHADOW |>.foff (Reg.ING_BR_CTL_EN 3) |>.setPin 5 PinSt.init
      |>.fon Reg.TB_TRIG_CFG_GRID |> fun s => { s with tb := { s.tb with issues := [(7, s.now)] } }, 77, 9, 20, 6, 3, 2,
      5, by decide +kernel⟩,
    ⟨running.fon (Reg.ING_WAKE_E0_VALID 3 2) |>.fset (Reg.ING_WAKE_E0_CORE 3 2) 77 |>.fset (Reg.ING_WAKE_E1_J_LAST 3 2)
      100 |>.fset (Reg.ING_WAKE_E1_J_FIRST 3 2) 1 |>.foff (Reg.ING_WAKE_E0_WAKE 3 2) |>.foff (Reg.ING_WAKE_E0_VALID 3 0)
      |>.foff (Reg.ING_WAKE_E0_VALID 3 1) |>.fon (Reg.TRIG_MAP_W0_VALID 4) |>.fset (Reg.TRIG_MAP_W0_CORE 4) 77 |>.fset
      (Reg.TRIG_MAP_W1_J_FIRST 4) 2 |>.fset (Reg.TRIG_MAP_W1_J_LAST 4) 20 |>.fset (Reg.TRIG_MAP_W0_PIN 4) 5 |>.fset
      (Reg.TRIG_MAP_W0_MIN_GRADE 4) 3 |>.fset (Reg.TB_PIN_SRC 5) 1 |>.foff Reg.TB_TRIG_CFG_GRID |>.fset
      Reg.TB_OUT_STATUS_LEVEL 0 |>.foff Reg.AON_TWIN_CTL_SHADOW |>.foff (Reg.ING_BR_CTL_EN 3) |>.setPin 5 PinSt.init
      |>.fset Reg.TB_OUT_STATUS_LEVEL 0x20, 77, 9, 20, 6, 3, 2, 5, by decide +kernel⟩,
    ⟨running.fon (Reg.ING_WAKE_E0_VALID 3 2) |>.fset (Reg.ING_WAKE_E0_CORE 3 2) 77 |>.fset (Reg.ING_WAKE_E1_J_LAST 3 2)
      100 |>.fset (Reg.ING_WAKE_E1_J_FIRST 3 2) 1 |>.foff (Reg.ING_WAKE_E0_WAKE 3 2) |>.foff (Reg.ING_WAKE_E0_VALID 3 0)
      |>.foff (Reg.ING_WAKE_E0_VALID 3 1) |>.fon (Reg.TRIG_MAP_W0_VALID 4) |>.fset (Reg.TRIG_MAP_W0_CORE 4) 77 |>.fset
      (Reg.TRIG_MAP_W1_J_FIRST 4) 2 |>.fset (Reg.TRIG_MAP_W1_J_LAST 4) 20 |>.fset (Reg.TRIG_MAP_W0_PIN 4) 5 |>.fset
      (Reg.TRIG_MAP_W0_MIN_GRADE 4) 3 |>.fset (Reg.TB_PIN_SRC 5) 1 |>.foff Reg.TB_TRIG_CFG_GRID |>.fset
      Reg.TB_OUT_STATUS_LEVEL 0 |>.foff Reg.AON_TWIN_CTL_SHADOW |>.foff (Reg.ING_BR_CTL_EN 3) |>.setPin 5 PinSt.init
      |>.fset (Reg.ING_WAKE_E0_CORE 3 2) 78, 77, 9, 20, 6, 3, 2, 5, by decide +kernel⟩,
    ⟨running.fon (Reg.ING_WAKE_E0_VALID 3 2) |>.fset (Reg.ING_WAKE_E0_CORE 3 2) 77 |>.fset (Reg.ING_WAKE_E1_J_LAST 3 2)
      100 |>.fset (Reg.ING_WAKE_E1_J_FIRST 3 2) 1 |>.foff (Reg.ING_WAKE_E0_WAKE 3 2) |>.foff (Reg.ING_WAKE_E0_VALID 3 0)
      |>.foff (Reg.ING_WAKE_E0_VALID 3 1) |>.fon (Reg.TRIG_MAP_W0_VALID 4) |>.fset (Reg.TRIG_MAP_W0_CORE 4) 77 |>.fset
      (Reg.TRIG_MAP_W1_J_FIRST 4) 2 |>.fset (Reg.TRIG_MAP_W1_J_LAST 4) 20 |>.fset (Reg.TRIG_MAP_W0_PIN 4) 5 |>.fset
      (Reg.TRIG_MAP_W0_MIN_GRADE 4) 3 |>.fset (Reg.TB_PIN_SRC 5) 1 |>.foff Reg.TB_TRIG_CFG_GRID |>.fset
      Reg.TB_OUT_STATUS_LEVEL 0 |>.foff Reg.AON_TWIN_CTL_SHADOW |>.foff (Reg.ING_BR_CTL_EN 3) |>.setPin 5 PinSt.init
      |>.fon (Reg.ING_BR_CTL_EN 3) |>.fset (Reg.ING_BR_CTL_FM1 3) 0 |>.fset (Reg.ING_BR_CTL_BIN_STEPS 3) 4 |>.foff
      (Reg.ING_BR_E0_VALID 3 0) |>.fon (Reg.ING_BR_E0_VALID 3 1) |>.fset (Reg.ING_BR_E0_MODE 3 1) 0 |>.fset
      (Reg.ING_BR_E0_CORE 3 1) 77 |>.fset (Reg.ING_BR_E1_J_FIRST 3 1) 5 |>.fset (Reg.ING_BR_E1_J_LAST 3 1) 15 |>.fset
      (Reg.ING_BR_E0_FEAT_BASE 3 1) 2 |> fun s => { s with tb := { s.tb with nextU := 8 } } |>.onTok 3 fun t =>
      { t with first := some 2, binned := 3, bins := [⟨1, 5, 0, [], 0⟩] }, 77, 9, 20, 6, 3, 1, 2, ⟨1, 5, 0, [], 0⟩,
      by decide +kernel⟩,
    ⟨running.fon (Reg.ING_WAKE_E0_VALID 3 2) |>.fset (Reg.ING_WAKE_E0_CORE 3 2) 77 |>.fset (Reg.ING_WAKE_E1_J_LAST 3 2)
      100 |>.fset (Reg.ING_WAKE_E1_J_FIRST 3 2) 1 |>.foff (Reg.ING_WAKE_E0_WAKE 3 2) |>.foff (Reg.ING_WAKE_E0_VALID 3 0)
      |>.foff (Reg.ING_WAKE_E0_VALID 3 1) |>.fon (Reg.TRIG_MAP_W0_VALID 4) |>.fset (Reg.TRIG_MAP_W0_CORE 4) 77 |>.fset
      (Reg.TRIG_MAP_W1_J_FIRST 4) 2 |>.fset (Reg.TRIG_MAP_W1_J_LAST 4) 20 |>.fset (Reg.TRIG_MAP_W0_PIN 4) 5 |>.fset
      (Reg.TRIG_MAP_W0_MIN_GRADE 4) 3 |>.fset (Reg.TB_PIN_SRC 5) 1 |>.foff Reg.TB_TRIG_CFG_GRID |>.fset
      Reg.TB_OUT_STATUS_LEVEL 0 |>.foff Reg.AON_TWIN_CTL_SHADOW |>.foff (Reg.ING_BR_CTL_EN 3) |>.setPin 5 PinSt.init
      |>.fon (Reg.ING_BR_CTL_EN 3) |>.fset (Reg.ING_BR_CTL_FM1 3) 0 |>.fset (Reg.ING_BR_CTL_BIN_STEPS 3) 4 |>.foff
      (Reg.ING_BR_E0_VALID 3 0) |>.fon (Reg.ING_BR_E0_VALID 3 1) |>.fset (Reg.ING_BR_E0_MODE 3 1) 0 |>.fset
      (Reg.ING_BR_E0_CORE 3 1) 77 |>.fset (Reg.ING_BR_E1_J_FIRST 3 1) 5 |>.fset (Reg.ING_BR_E1_J_LAST 3 1) 15 |>.fset
      (Reg.ING_BR_E0_FEAT_BASE 3 1) 2 |> fun s => { s with tb := { s.tb with nextU := 8 } } |>.onTok 3 fun t =>
      { t with first := some 2, binned := 3, bins := [⟨2, 5, 0, [], 0⟩] }, 77, 9, 20, 6, 3, 1, 2, ⟨2, 5, 0, [], 0⟩,
      by decide +kernel⟩,
    ⟨running.fon (Reg.ING_WAKE_E0_VALID 3 2) |>.fset (Reg.ING_WAKE_E0_CORE 3 2) 77 |>.fset (Reg.ING_WAKE_E1_J_LAST 3 2)
      100 |>.fset (Reg.ING_WAKE_E1_J_FIRST 3 2) 1 |>.foff (Reg.ING_WAKE_E0_WAKE 3 2) |>.foff (Reg.ING_WAKE_E0_VALID 3 0)
      |>.foff (Reg.ING_WAKE_E0_VALID 3 1) |>.fon (Reg.TRIG_MAP_W0_VALID 4) |>.fset (Reg.TRIG_MAP_W0_CORE 4) 77 |>.fset
      (Reg.TRIG_MAP_W1_J_FIRST 4) 2 |>.fset (Reg.TRIG_MAP_W1_J_LAST 4) 20 |>.fset (Reg.TRIG_MAP_W0_PIN 4) 5 |>.fset
      (Reg.TRIG_MAP_W0_MIN_GRADE 4) 3 |>.fset (Reg.TB_PIN_SRC 5) 1 |>.foff Reg.TB_TRIG_CFG_GRID |>.fset
      Reg.TB_OUT_STATUS_LEVEL 0 |>.foff Reg.AON_TWIN_CTL_SHADOW |>.foff (Reg.ING_BR_CTL_EN 3) |>.setPin 5 PinSt.init
      |>.fon (Reg.ING_BR_CTL_EN 3) |>.fset (Reg.ING_BR_CTL_FM1 3) 0 |>.fset (Reg.ING_BR_CTL_BIN_STEPS 3) 4 |>.foff
      (Reg.ING_BR_E0_VALID 3 0) |>.fon (Reg.ING_BR_E0_VALID 3 1) |>.fset (Reg.ING_BR_E0_MODE 3 1) 0 |>.fset
      (Reg.ING_BR_E0_CORE 3 1) 77 |>.fset (Reg.ING_BR_E1_J_FIRST 3 1) 5 |>.fset (Reg.ING_BR_E1_J_LAST 3 1) 15 |>.fset
      (Reg.ING_BR_E0_FEAT_BASE 3 1) 2 |> fun s => { s with tb := { s.tb with nextU := 8 } } |>.onTok 3 fun t =>
      { t with first := some 2, binned := 256, bins := [⟨1, 5, 0, [], 0⟩] }, 77, 9, 20, 6, 3, 1, 2, ⟨1, 5, 0, [], 0⟩,
      by decide +kernel⟩⟩

theorem test_rdReq_can_run :
    (∃ (s : State) (via : Via) (dst : BitVec 22) (a : BitVec 48) (nm1 : BitVec 8) (ecc : Ecc) (k : Fin 12) (src : BitVec
      30) (m : Master), s.canonical = true ∧ s.down = false ∧ (via = .own .pcie → s.barOpen = true) ∧ (via = .own .jtag →
      s.fbit Reg.TRU_STATUS_DBG_OPEN = true) ∧ (via = .link k src → s.endpointThere dst.toNat = true) ∧ (via = .link k
      src ∨ via = .own m) ∧ (via = .link k src → s.forwards dst.toNat (localPart (viaAddr via a.toNat / 32 * 32)) = none)
      ∧ s.allows (viaWho via) 0 (viaAddr via a.toNat / 32 * 32) (32 * (nm1.toNat + 1)) = true ∧ (List.range (nm1.toNat +
      1)).all (fun i => decide (s.served (localPart ((viaAddr via a.toNat / 32 * 32) + 32 * i)) = 0)) = true ∧ ecc =
      .none ∧ s.bad = [] ∧ (kvUnits.any fun x => s.fbit (Reg.ING_KV_CFG_EN x.1 x.2)) = false ∧ via = .link k src ∧ coDev
      src.toNat = s.devid) ∧
    (∃ (s : State) (via : Via) (dst : BitVec 22) (a : BitVec 48) (nm1 : BitVec 8) (ecc : Ecc) (k : Fin 12) (src : BitVec
      30) (m : Master), s.canonical = true ∧ s.down = false ∧ (via = .own .pcie → s.barOpen = true) ∧ (via = .own .jtag →
      s.fbit Reg.TRU_STATUS_DBG_OPEN = true) ∧ (via = .link k src → s.endpointThere dst.toNat = true) ∧ (via = .link k
      src ∨ via = .own m) ∧ (via = .link k src → s.forwards dst.toNat (localPart (viaAddr via a.toNat / 32 * 32)) = none)
      ∧ s.allows (viaWho via) 0 (viaAddr via a.toNat / 32 * 32) (32 * (nm1.toNat + 1)) = true ∧ (List.range (nm1.toNat +
      1)).all (fun i => decide (s.served (localPart ((viaAddr via a.toNat / 32 * 32) + 32 * i)) = 0)) = true ∧ ecc =
      .none ∧ s.bad = [] ∧ (kvUnits.any fun x => s.fbit (Reg.ING_KV_CFG_EN x.1 x.2)) = false ∧ via = .own m) ∧
    (∃ (s : State) (via : Via) (dst : BitVec 22) (a : BitVec 48) (nm1 : BitVec 8) (ecc : Ecc) (k : Fin 12) (src : BitVec
      30) (m : Master), s.canonical = true ∧ s.down = false ∧ (via = .own .pcie → s.barOpen = true) ∧ (via = .own .jtag →
      s.fbit Reg.TRU_STATUS_DBG_OPEN = true) ∧ (via = .link k src → s.endpointThere dst.toNat = true) ∧ (via = .link k
      src ∨ via = .own m) ∧ s.allows (viaWho via) 0 (viaAddr via a.toNat / 32 * 32) (32 * (nm1.toNat + 1)) = false ∧ via
      = .link k src ∧ coDev src.toNat = s.devid) ∧
    (∃ (s : State) (via : Via) (dst : BitVec 22) (a : BitVec 48) (nm1 : BitVec 8) (ecc : Ecc) (k : Fin 12) (src : BitVec
      30) (m : Master), s.canonical = true ∧ s.down = false ∧ (via = .own .pcie → s.barOpen = true) ∧ (via = .own .jtag →
      s.fbit Reg.TRU_STATUS_DBG_OPEN = true) ∧ (via = .link k src → s.endpointThere dst.toNat = true) ∧ (via = .link k
      src ∨ via = .own m) ∧ s.allows (viaWho via) 0 (viaAddr via a.toNat / 32 * 32) (32 * (nm1.toNat + 1)) = false ∧ via
      = .own m ∧ m ≠ .pcie) ∧
    (∃ (s : State) (via : Via) (dst : BitVec 22) (a : BitVec 48) (nm1 : BitVec 8) (ecc : Ecc) (k : Fin 12) (src : BitVec
      30) (m : Master), s.canonical = true ∧ s.down = false ∧ (via = .own .pcie → s.barOpen = true) ∧ (via = .own .jtag →
      s.fbit Reg.TRU_STATUS_DBG_OPEN = true) ∧ (via = .link k src → s.endpointThere dst.toNat = true) ∧ (via = .link k
      src ∨ via = .own m) ∧ s.allows (viaWho via) 0 (viaAddr via a.toNat / 32 * 32) (32 * (nm1.toNat + 1)) = false ∧ via
      = .own .pcie) ∧
    (∃ (s : State) (via : Via) (dst : BitVec 22) (a : BitVec 48) (nm1 : BitVec 8) (ecc : Ecc) (k : Fin 12) (src : BitVec
      30), s.canonical = true ∧ s.down = false ∧ via = .link k src ∧ s.endpointThere dst.toNat = false ∧ coDev src.toNat
      = s.devid) ∧
    (∃ (s : State) (via : Via) (dst : BitVec 22) (a : BitVec 48) (nm1 : BitVec 8) (ecc : Ecc), s.canonical = true ∧
      s.down = false ∧ ((via = .own .pcie ∧ s.barOpen = false) ∨ (via = .own .jtag ∧ s.fbit Reg.TRU_STATUS_DBG_OPEN =
      false)) ∧ via = .own .pcie) ∧
    (∃ (s : State) (via : Via) (dst : BitVec 22) (a : BitVec 48) (nm1 : BitVec 8) (ecc : Ecc), s.canonical = true ∧
      s.down = false ∧ ((via = .own .pcie ∧ s.barOpen = false) ∨ (via = .own .jtag ∧ s.fbit Reg.TRU_STATUS_DBG_OPEN =
      false)) ∧ via = .own .jtag) ∧
    (∃ (s : State) (via : Via) (dst : BitVec 22) (a : BitVec 48) (nm1 : BitVec 8) (ecc : Ecc) (k : Fin 12) (src : BitVec
      30) (m : Master), s.canonical = true ∧ s.down = false ∧ (via = .own .pcie → s.barOpen = true) ∧ (via = .own .jtag →
      s.fbit Reg.TRU_STATUS_DBG_OPEN = true) ∧ (via = .link k src → s.endpointThere dst.toNat = true) ∧ (via = .link k
      src ∨ via = .own m) ∧ (via = .link k src → s.forwards dst.toNat (localPart (viaAddr via a.toNat / 32 * 32)) = none)
      ∧ s.allows (viaWho via) 0 (viaAddr via a.toNat / 32 * 32) 32 = true ∧ nm1 = 0 ∧ s.served (localPart (viaAddr via
      a.toNat / 32 * 32)) = 0 ∧ ((∃ rank device, s.decoded ((eccWords (unalias (localPart (viaAddr via a.toNat / 32 *
      32))) 32).headD (unalias (localPart (viaAddr via a.toNat / 32 * 32)))) ecc = .ue rank device) ∨ (eccWords (unalias
      (localPart (viaAddr via a.toNat / 32 * 32))) 32).any s.isBad = true) ∧ via = .link k src ∧ coDev src.toNat =
      s.devid) ∧
    (∃ (s : State) (via : Via) (dst : BitVec 22) (a : BitVec 48) (nm1 : BitVec 8) (ecc : Ecc) (k : Fin 12) (src : BitVec
      30) (m : Master), s.canonical = true ∧ s.down = false ∧ (via = .own .pcie → s.barOpen = true) ∧ (via = .own .jtag →
      s.fbit Reg.TRU_STATUS_DBG_OPEN = true) ∧ (via = .link k src → s.endpointThere dst.toNat = true) ∧ (via = .link k
      src ∨ via = .own m) ∧ (via = .link k src → s.forwards dst.toNat (localPart (viaAddr via a.toNat / 32 * 32)) = none)
      ∧ s.allows (viaWho via) 0 (viaAddr via a.toNat / 32 * 32) 32 = true ∧ nm1 = 0 ∧ s.served (localPart (viaAddr via
      a.toNat / 32 * 32)) = 0 ∧ ((∃ rank device, s.decoded ((eccWords (unalias (localPart (viaAddr via a.toNat / 32 *
      32))) 32).headD (unalias (localPart (viaAddr via a.toNat / 32 * 32)))) ecc = .ue rank device) ∨ (eccWords (unalias
      (localPart (viaAddr via a.toNat / 32 * 32))) 32).any s.isBad = true) ∧ via = .own m) ∧
    (∃ (s : State) (via : Via) (dst : BitVec 22) (a : BitVec 48) (nm1 : BitVec 8) (ecc : Ecc) (k : Fin 12) (src : BitVec
      30) (m : Master), s.canonical = true ∧ s.down = false ∧ (via = .own .pcie → s.barOpen = true) ∧ (via = .own .jtag →
      s.fbit Reg.TRU_STATUS_DBG_OPEN = true) ∧ (via = .link k src → s.endpointThere dst.toNat = true) ∧ (via = .link k
      src ∨ via = .own m) ∧ (via = .link k src → s.forwards dst.toNat (localPart (viaAddr via a.toNat / 32 * 32)) = none)
      ∧ s.allows (viaWho via) 0 (viaAddr via a.toNat / 32 * 32) 32 = true ∧ nm1 = 0 ∧ s.served (localPart (viaAddr via
      a.toNat / 32 * 32)) = 3 ∧ via = .link k src ∧ coDev src.toNat = s.devid) ∧
    (∃ (s : State) (via : Via) (dst : BitVec 22) (a : BitVec 48) (nm1 : BitVec 8) (ecc : Ecc) (k : Fin 12) (src : BitVec
      30) (m : Master), s.canonical = true ∧ s.down = false ∧ (via = .own .pcie → s.barOpen = true) ∧ (via = .own .jtag →
      s.fbit Reg.TRU_STATUS_DBG_OPEN = true) ∧ (via = .link k src → s.endpointThere dst.toNat = true) ∧ (via = .link k
      src ∨ via = .own m) ∧ (via = .link k src → s.forwards dst.toNat (localPart (viaAddr via a.toNat / 32 * 32)) = none)
      ∧ s.allows (viaWho via) 0 (viaAddr via a.toNat / 32 * 32) 32 = true ∧ nm1 = 0 ∧ s.served (localPart (viaAddr via
      a.toNat / 32 * 32)) = 3 ∧ via = .own m) ∧
    (∃ (s : State) (via : Via) (dst : BitVec 22) (a : BitVec 48) (nm1 : BitVec 8) (ecc : Ecc) (k : Fin 12) (src : BitVec
      30) (m : Master), s.canonical = true ∧ s.down = false ∧ (via = .own .pcie → s.barOpen = true) ∧ (via = .own .jtag →
      s.fbit Reg.TRU_STATUS_DBG_OPEN = true) ∧ (via = .link k src → s.endpointThere dst.toNat = true) ∧ (via = .link k
      src ∨ via = .own m) ∧ (via = .link k src → s.forwards dst.toNat (localPart (viaAddr via a.toNat / 32 * 32)) = none)
      ∧ s.allows (viaWho via) 0 (viaAddr via a.toNat / 32 * 32) 32 = true ∧ nm1 = 0 ∧ s.served (localPart (viaAddr via
      a.toNat / 32 * 32)) = 9 ∧ via = .own m) ∧
    (∃ (s : State) (via : Via) (dst : BitVec 22) (a : BitVec 48) (nm1 : BitVec 8) (ecc : Ecc) (k : Fin 12) (src : BitVec
      30) (m : Master), s.canonical = true ∧ s.down = false ∧ (via = .own .pcie → s.barOpen = true) ∧ (via = .own .jtag →
      s.fbit Reg.TRU_STATUS_DBG_OPEN = true) ∧ (via = .link k src → s.endpointThere dst.toNat = true) ∧ (via = .link k
      src ∨ via = .own m) ∧ (via = .link k src → s.forwards dst.toNat (localPart (viaAddr via a.toNat / 32 * 32)) = none)
      ∧ s.allows (viaWho via) 0 (viaAddr via a.toNat / 32 * 32) 32 = true ∧ nm1 = 0 ∧ s.served (localPart (viaAddr via
      a.toNat / 32 * 32)) = 10 ∧ (s.ddr (s.ddrChan (localPart (viaAddr via a.toNat / 32 * 32)))).queue.length < 256) ∧
    (∃ (s : State) (via : Via) (dst : BitVec 22) (a : BitVec 48) (nm1 : BitVec 8) (ecc : Ecc) (k : Fin 12) (src : BitVec
      30) (m : Master), s.canonical = true ∧ s.down = false ∧ (via = .own .pcie → s.barOpen = true) ∧ (via = .own .jtag →
      s.fbit Reg.TRU_STATUS_DBG_OPEN = true) ∧ (via = .link k src → s.endpointThere dst.toNat = true) ∧ (via = .link k
      src ∨ via = .own m) ∧ (via = .link k src → s.forwards dst.toNat (localPart (viaAddr via a.toNat / 32 * 32)) = none)
      ∧ s.allows (viaWho via) 0 (viaAddr via a.toNat / 32 * 32) 32 = true ∧ nm1 = 0 ∧ s.served (localPart (viaAddr via
      a.toNat / 32 * 32)) = 5 ∧ via = .own m) ∧
    (∃ (s : State) (via : Via) (dst : BitVec 22) (a : BitVec 48) (nm1 : BitVec 8) (ecc : Ecc) (k : Fin 12) (src : BitVec
      30) (c : Nat), s.canonical = true ∧ s.down = false ∧ via = .link k src ∧ s.endpointThere dst.toNat = true ∧
      s.forwards dst.toNat (localPart (viaAddr via a.toNat / 32 * 32)) = some c ∧ s.allows (.link k) 0 (viaAddr via
      a.toNat / 32 * 32) (32 * (nm1.toNat + 1)) = true) ∧
    (∃ (s : State) (via : Via) (dst : BitVec 22) (a : BitVec 48) (nm1 : BitVec 8) (ecc : Ecc), s.canonical = true ∧
      s.down = false) :=
  ⟨⟨running |> fun (s : State) => (kvUnits.foldl (fun (s : State) x => s.foff (Reg.ING_KV_CFG_EN x.1 x.2))
      ({ s with bad := [], ifaces := [], mem := s.mem.put 0x80000000203 9 } : State)).foff Reg.INST_STATUS_COCOON |>.fon
      (Reg.REG_LIMIT_H_EN (rsetLink 2) 0) |>.fon (Reg.REG_LIMIT_H_R (rsetLink 2) 0) |>.fon (Reg.REG_LIMIT_H_W (rsetLink
      2) 0) |>.fon (Reg.REG_LIMIT_H_A (rsetLink 2) 0) |>.fset (Reg.REG_BASE_H_BASE_H (rsetLink 2) 0) 0 |>.fset
      (Reg.REG_BASE_L_BASE_L (rsetLink 2) 0) 0 |>.fset (Reg.REG_LIMIT_H_LIMIT_H (rsetLink 2) 0) 0xffff |>.fset
      (Reg.REG_LIMIT_L_LIMIT_L (rsetLink 2) 0) 0xfffff, (.link 2 (BitVec.ofNat 30 (ioCoord 0 6 0 0 + 9 * 2 ^ 22))),
      (BitVec.ofNat 22 (tileCoord 0 2 0)), 0x80000000205, 2, .none, 2, (BitVec.ofNat 30 (ioCoord 0 6 0 0 + 9 * 2 ^ 22)),
      .aon, by decide +kernel⟩,
    ⟨running |> fun (s : State) => (kvUnits.foldl (fun (s : State) x => s.foff (Reg.ING_KV_CFG_EN x.1 x.2))
      ({ s with bad := [], ifaces := [], mem := s.mem.put 0x80000000203 9 } : State)).foff Reg.INST_STATUS_COCOON |>.fon
      (Reg.REG_LIMIT_H_EN (rsetLink 2) 0) |>.fon (Reg.REG_LIMIT_H_R (rsetLink 2) 0) |>.fon (Reg.REG_LIMIT_H_W (rsetLink
      2) 0) |>.fon (Reg.REG_LIMIT_H_A (rsetLink 2) 0) |>.fset (Reg.REG_BASE_H_BASE_H (rsetLink 2) 0) 0 |>.fset
      (Reg.REG_BASE_L_BASE_L (rsetLink 2) 0) 0 |>.fset (Reg.REG_LIMIT_H_LIMIT_H (rsetLink 2) 0) 0xffff |>.fset
      (Reg.REG_LIMIT_L_LIMIT_L (rsetLink 2) 0) 0xfffff, (.own .aon), 0, 0x80000000205, 2, .none, 2, (BitVec.ofNat 30
      (ioCoord 0 6 0 0 + 9 * 2 ^ 22)), .aon, by decide +kernel⟩,
    ⟨running |> fun (s : State) => (kvUnits.foldl (fun (s : State) x => s.foff (Reg.ING_KV_CFG_EN x.1 x.2))
      ({ s with bad := [], ifaces := [], mem := s.mem.put 0x80000000203 9 } : State)).foff Reg.INST_STATUS_COCOON |> fun
      s => forN 16 (fun j s => s.foff (Reg.REG_LIMIT_H_EN (rsetLink 2) j)) s, (.link 2 (BitVec.ofNat 30 (ioCoord 0 6 0 0
      + 9 * 2 ^ 22))), (BitVec.ofNat 22 (tileCoord 0 2 0)), 0x80000000205, 2, .none, 2, (BitVec.ofNat 30 (ioCoord 0 6 0 0
      + 9 * 2 ^ 22)), .aon, by decide +kernel⟩,
    ⟨running |> fun (s : State) => (kvUnits.foldl (fun (s : State) x => s.foff (Reg.ING_KV_CFG_EN x.1 x.2))
      ({ s with bad := [], ifaces := [], mem := s.mem.put 0x80000000203 9 } : State)).foff Reg.INST_STATUS_COCOON |> fun
      s => forN 16 (fun j s => s.foff (Reg.REG_LIMIT_H_EN rsetApp j)) s, (.own (.app 2 true)), 0, 0x80000000205, 2,
      .none, 2, (BitVec.ofNat 30 (ioCoord 0 6 0 0 + 9 * 2 ^ 22)), (.app 2 true), by decide +kernel⟩,
    ⟨running |> fun (s : State) => (kvUnits.foldl (fun (s : State) x => s.foff (Reg.ING_KV_CFG_EN x.1 x.2))
      ({ s with bad := [], ifaces := [], mem := s.mem.put 0x80000000203 9 } : State)).foff Reg.INST_STATUS_COCOON |>.fset
      Reg.INST_STATUS_STAGE 7 |> fun s => forN 16 (fun j s => s.foff (Reg.REG_LIMIT_H_EN rsetPcie j)) s, (.own .pcie), 0,
      0x80000000205, 2, .none, 2, (BitVec.ofNat 30 (ioCoord 0 6 0 0 + 9 * 2 ^ 22)), .pcie, by decide +kernel⟩,
    ⟨running |> fun (s : State) => (kvUnits.foldl (fun (s : State) x => s.foff (Reg.ING_KV_CFG_EN x.1 x.2))
      ({ s with bad := [], ifaces := [], mem := s.mem.put 0x80000000203 9 } : State)).foff Reg.INST_STATUS_COCOON |>.fon
      (Reg.REG_LIMIT_H_EN (rsetLink 2) 0) |>.fon (Reg.REG_LIMIT_H_R (rsetLink 2) 0) |>.fon (Reg.REG_LIMIT_H_W (rsetLink
      2) 0) |>.fon (Reg.REG_LIMIT_H_A (rsetLink 2) 0) |>.fset (Reg.REG_BASE_H_BASE_H (rsetLink 2) 0) 0 |>.fset
      (Reg.REG_BASE_L_BASE_L (rsetLink 2) 0) 0 |>.fset (Reg.REG_LIMIT_H_LIMIT_H (rsetLink 2) 0) 0xffff |>.fset
      (Reg.REG_LIMIT_L_LIMIT_L (rsetLink 2) 0) 0xfffff, (.link 2 (BitVec.ofNat 30 (ioCoord 0 6 0 0 + 9 * 2 ^ 22))),
      (BitVec.ofNat 22 (ioCoord 0 6 1 3)), 0x80000000205, 2, .none, 2, (BitVec.ofNat 30 (ioCoord 0 6 0 0 + 9 * 2 ^ 22)),
      by decide +kernel⟩,
    ⟨running.fset Reg.INST_STATUS_STAGE 0, (.own .pcie), 0, 0x80000000205, 2, .none, by decide +kernel⟩,
    ⟨running.foff Reg.TRU_STATUS_DBG_OPEN, (.own .jtag), 0, 0x80000000205, 2, .none, by decide +kernel⟩,
    ⟨running |> fun (s : State) => (kvUnits.foldl (fun (s : State) x => s.foff (Reg.ING_KV_CFG_EN x.1 x.2))
      ({ s with bad := [], ifaces := [], mem := s.mem.put 0x80000000203 9 } : State)).foff Reg.INST_STATUS_COCOON |>.fon
      (Reg.REG_LIMIT_H_EN (rsetLink 2) 0) |>.fon (Reg.REG_LIMIT_H_R (rsetLink 2) 0) |>.fon (Reg.REG_LIMIT_H_W (rsetLink
      2) 0) |>.fon (Reg.REG_LIMIT_H_A (rsetLink 2) 0) |>.fset (Reg.REG_BASE_H_BASE_H (rsetLink 2) 0) 0 |>.fset
      (Reg.REG_BASE_L_BASE_L (rsetLink 2) 0) 0 |>.fset (Reg.REG_LIMIT_H_LIMIT_H (rsetLink 2) 0) 0xffff |>.fset
      (Reg.REG_LIMIT_L_LIMIT_L (rsetLink 2) 0) 0xfffff, (.link 2 (BitVec.ofNat 30 (ioCoord 0 6 0 0 + 9 * 2 ^ 22))),
      (BitVec.ofNat 22 (tileCoord 0 2 0)), 0x80000000205, 0, (.ue 1 2), 2, (BitVec.ofNat 30 (ioCoord 0 6 0 0 + 9 * 2 ^
      22)), .aon, by decide +kernel⟩,
    ⟨running |> fun (s : State) => (kvUnits.foldl (fun (s : State) x => s.foff (Reg.ING_KV_CFG_EN x.1 x.2))
      ({ s with bad := [], ifaces := [], mem := s.mem.put 0x80000000203 9 } : State)).foff Reg.INST_STATUS_COCOON |>.fon
      (Reg.REG_LIMIT_H_EN (rsetLink 2) 0) |>.fon (Reg.REG_LIMIT_H_R (rsetLink 2) 0) |>.fon (Reg.REG_LIMIT_H_W (rsetLink
      2) 0) |>.fon (Reg.REG_LIMIT_H_A (rsetLink 2) 0) |>.fset (Reg.REG_BASE_H_BASE_H (rsetLink 2) 0) 0 |>.fset
      (Reg.REG_BASE_L_BASE_L (rsetLink 2) 0) 0 |>.fset (Reg.REG_LIMIT_H_LIMIT_H (rsetLink 2) 0) 0xffff |>.fset
      (Reg.REG_LIMIT_L_LIMIT_L (rsetLink 2) 0) 0xfffff, (.own .aon), 0, 0x80000000205, 0, (.ue 1 2), 2, (BitVec.ofNat 30
      (ioCoord 0 6 0 0 + 9 * 2 ^ 22)), .aon, by decide +kernel⟩,
    ⟨running |> fun (s : State) => (kvUnits.foldl (fun (s : State) x => s.foff (Reg.ING_KV_CFG_EN x.1 x.2))
      ({ s with bad := [], ifaces := [], mem := s.mem.put 0x80000000203 9 } : State)).foff Reg.INST_STATUS_COCOON |>.fon
      (Reg.REG_LIMIT_H_EN (rsetLink 2) 0) |>.fon (Reg.REG_LIMIT_H_R (rsetLink 2) 0) |>.fon (Reg.REG_LIMIT_H_W (rsetLink
      2) 0) |>.fon (Reg.REG_LIMIT_H_A (rsetLink 2) 0) |>.fset (Reg.REG_BASE_H_BASE_H (rsetLink 2) 0) 0 |>.fset
      (Reg.REG_BASE_L_BASE_L (rsetLink 2) 0) 0 |>.fset (Reg.REG_LIMIT_H_LIMIT_H (rsetLink 2) 0) 0xffff |>.fset
      (Reg.REG_LIMIT_L_LIMIT_L (rsetLink 2) 0) 0xfffff, (.link 2 (BitVec.ofNat 30 (ioCoord 0 6 0 0 + 9 * 2 ^ 22))),
      (BitVec.ofNat 22 (tileCoord 0 2 0)), 0x84000000000, 0, .none, 2, (BitVec.ofNat 30 (ioCoord 0 6 0 0 + 9 * 2 ^ 22)),
      .aon, by decide +kernel⟩,
    ⟨running |> fun (s : State) => (kvUnits.foldl (fun (s : State) x => s.foff (Reg.ING_KV_CFG_EN x.1 x.2))
      ({ s with bad := [], ifaces := [], mem := s.mem.put 0x80000000203 9 } : State)).foff Reg.INST_STATUS_COCOON |>.fon
      (Reg.REG_LIMIT_H_EN (rsetLink 2) 0) |>.fon (Reg.REG_LIMIT_H_R (rsetLink 2) 0) |>.fon (Reg.REG_LIMIT_H_W (rsetLink
      2) 0) |>.fon (Reg.REG_LIMIT_H_A (rsetLink 2) 0) |>.fset (Reg.REG_BASE_H_BASE_H (rsetLink 2) 0) 0 |>.fset
      (Reg.REG_BASE_L_BASE_L (rsetLink 2) 0) 0 |>.fset (Reg.REG_LIMIT_H_LIMIT_H (rsetLink 2) 0) 0xffff |>.fset
      (Reg.REG_LIMIT_L_LIMIT_L (rsetLink 2) 0) 0xfffff, (.own .aon), 0, 0x84000000000, 0, .none, 2, (BitVec.ofNat 30
      (ioCoord 0 6 0 0 + 9 * 2 ^ 22)), .aon, by decide +kernel⟩,
    ⟨running |> fun (s : State) => (kvUnits.foldl (fun (s : State) x => s.foff (Reg.ING_KV_CFG_EN x.1 x.2))
      ({ s with bad := [], ifaces := [], mem := s.mem.put 0x80000000203 9 } : State)).foff Reg.INST_STATUS_COCOON |>.fon
      (Reg.REG_LIMIT_H_EN (rsetLink 2) 0) |>.fon (Reg.REG_LIMIT_H_R (rsetLink 2) 0) |>.fon (Reg.REG_LIMIT_H_W (rsetLink
      2) 0) |>.fon (Reg.REG_LIMIT_H_A (rsetLink 2) 0) |>.fset (Reg.REG_BASE_H_BASE_H (rsetLink 2) 0) 0 |>.fset
      (Reg.REG_BASE_L_BASE_L (rsetLink 2) 0) 0 |>.fset (Reg.REG_LIMIT_H_LIMIT_H (rsetLink 2) 0) 0xffff |>.fset
      (Reg.REG_LIMIT_L_LIMIT_L (rsetLink 2) 0) 0xfffff, (.own .aon), 0, 0x80030000000, 0, .none, 2, (BitVec.ofNat 30
      (ioCoord 0 6 0 0 + 9 * 2 ^ 22)), .aon, by decide +kernel⟩,
    ⟨running |> fun (s : State) => (kvUnits.foldl (fun (s : State) x => s.foff (Reg.ING_KV_CFG_EN x.1 x.2))
      ({ s with bad := [], ifaces := [], mem := s.mem.put 0x80000000203 9 } : State)).foff Reg.INST_STATUS_COCOON |>.fon
      (Reg.REG_LIMIT_H_EN (rsetLink 2) 0) |>.fon (Reg.REG_LIMIT_H_R (rsetLink 2) 0) |>.fon (Reg.REG_LIMIT_H_W (rsetLink
      2) 0) |>.fon (Reg.REG_LIMIT_H_A (rsetLink 2) 0) |>.fset (Reg.REG_BASE_H_BASE_H (rsetLink 2) 0) 0 |>.fset
      (Reg.REG_BASE_L_BASE_L (rsetLink 2) 0) 0 |>.fset (Reg.REG_LIMIT_H_LIMIT_H (rsetLink 2) 0) 0xffff |>.fset
      (Reg.REG_LIMIT_L_LIMIT_L (rsetLink 2) 0) 0xfffff |> fun (s : State) => s.fset (Reg.DDR_CFG_CAP 0) 3 |> fun (s :
      State) => s.fon (Reg.DDR_CTL_EN (s.ddrChan 0x20000)) |>.fon (Reg.DDR_STATUS_TRAINED (s.ddrChan 0x20000)) |>.foff
      (Reg.DDR_STATUS_FAILED (s.ddrChan 0x20000)) |>.fon (Reg.DDR_STATUS_RETRAINING (s.ddrChan 0x20000)) |>.foff
      (Reg.PWR_ISL_CTL_OFF (74 + s.ddrChan 0x20000)) |>.fset (Reg.PWR_ISL_STAT_STATE (74 + s.ddrChan 0x20000)) 0, (.own
      .aon), 0, 0x20000, 0, .none, 2, (BitVec.ofNat 30 (ioCoord 0 6 0 0 + 9 * 2 ^ 22)), .aon, by decide +kernel⟩,
    ⟨running, (.own .aon), 0, 0x20000, 0, .none, 2, (BitVec.ofNat 30 (ioCoord 0 6 0 0 + 9 * 2 ^ 22)), .aon,
      by decide +kernel⟩,
    ⟨running |> fun (s : State) => (kvUnits.foldl (fun (s : State) x => s.foff (Reg.ING_KV_CFG_EN x.1 x.2))
      ({ s with bad := [], ifaces := [], mem := s.mem.put 0x80000000203 9 } : State)).foff Reg.INST_STATUS_COCOON |>.fon
      (Reg.REG_LIMIT_H_EN (rsetLink 2) 0) |>.fon (Reg.REG_LIMIT_H_R (rsetLink 2) 0) |>.fon (Reg.REG_LIMIT_H_W (rsetLink
      2) 0) |>.fon (Reg.REG_LIMIT_H_A (rsetLink 2) 0) |>.fset (Reg.REG_BASE_H_BASE_H (rsetLink 2) 0) 0 |>.fset
      (Reg.REG_BASE_L_BASE_L (rsetLink 2) 0) 0 |>.fset (Reg.REG_LIMIT_H_LIMIT_H (rsetLink 2) 0) 0xffff |>.fset
      (Reg.REG_LIMIT_L_LIMIT_L (rsetLink 2) 0) 0xfffff |> fun (s : State) => s.fset (Reg.DDR_CFG_CAP 0) 3 |> fun (s :
      State) => s.fon (Reg.DDR_CTL_EN (s.ddrChan 0x20000)) |>.fon (Reg.DDR_STATUS_TRAINED (s.ddrChan 0x20000)) |>.foff
      (Reg.DDR_STATUS_FAILED (s.ddrChan 0x20000)) |>.foff (Reg.DDR_STATUS_RETRAINING (s.ddrChan 0x20000)) |>.foff
      (Reg.PWR_ISL_CTL_OFF (74 + s.ddrChan 0x20000)) |>.fset (Reg.PWR_ISL_STAT_STATE (74 + s.ddrChan 0x20000)) 0 |>.foff
      (Reg.PWR_ISL_CTL_OFF 74) |>.foff (Reg.PWR_ISL_CTL_OFF 75), (.link 2 (BitVec.ofNat 30 (ioCoord 0 6 0 0 + 9 * 2 ^
      22))), (BitVec.ofNat 22 (ioCoord 0 1 (((running |> fun (s : State) => (kvUnits.foldl (fun (s : State) x => s.foff
      (Reg.ING_KV_CFG_EN x.1 x.2)) ({ s with bad := [], ifaces := [], mem := s.mem.put 0x80000000203 9 } : State)).foff
      Reg.INST_STATUS_COCOON |>.fon (Reg.REG_LIMIT_H_EN (rsetLink 2) 0) |>.fon (Reg.REG_LIMIT_H_R (rsetLink 2) 0) |>.fon
      (Reg.REG_LIMIT_H_W (rsetLink 2) 0) |>.fon (Reg.REG_LIMIT_H_A (rsetLink 2) 0) |>.fset (Reg.REG_BASE_H_BASE_H
      (rsetLink 2) 0) 0 |>.fset (Reg.REG_BASE_L_BASE_L (rsetLink 2) 0) 0 |>.fset (Reg.REG_LIMIT_H_LIMIT_H (rsetLink 2) 0)
      0xffff |>.fset (Reg.REG_LIMIT_L_LIMIT_L (rsetLink 2) 0) 0xfffff |> fun (s : State) => s.fset (Reg.DDR_CFG_CAP 0) 3
      |> fun (s : State) => s.fon (Reg.DDR_CTL_EN (s.ddrChan 0x20000)) |>.fon (Reg.DDR_STATUS_TRAINED (s.ddrChan
      0x20000)) |>.foff (Reg.DDR_STATUS_FAILED (s.ddrChan 0x20000)) |>.foff (Reg.DDR_STATUS_RETRAINING (s.ddrChan
      0x20000)) |>.foff (Reg.PWR_ISL_CTL_OFF (74 + s.ddrChan 0x20000)) |>.fset (Reg.PWR_ISL_STAT_STATE (74 + s.ddrChan
      0x20000)) 0 |>.foff (Reg.PWR_ISL_CTL_OFF 74) |>.foff (Reg.PWR_ISL_CTL_OFF 75) : State).ddrChan 0x20000 + 1) % 2)
      0)), 0x20000, 0, .none, 2, (BitVec.ofNat 30 (ioCoord 0 6 0 0 + 9 * 2 ^ 22)), ((running |> fun (s : State) =>
      (kvUnits.foldl (fun (s : State) x => s.foff (Reg.ING_KV_CFG_EN x.1 x.2))
      ({ s with bad := [], ifaces := [], mem := s.mem.put 0x80000000203 9 } : State)).foff Reg.INST_STATUS_COCOON |>.fon
      (Reg.REG_LIMIT_H_EN (rsetLink 2) 0) |>.fon (Reg.REG_LIMIT_H_R (rsetLink 2) 0) |>.fon (Reg.REG_LIMIT_H_W (rsetLink
      2) 0) |>.fon (Reg.REG_LIMIT_H_A (rsetLink 2) 0) |>.fset (Reg.REG_BASE_H_BASE_H (rsetLink 2) 0) 0 |>.fset
      (Reg.REG_BASE_L_BASE_L (rsetLink 2) 0) 0 |>.fset (Reg.REG_LIMIT_H_LIMIT_H (rsetLink 2) 0) 0xffff |>.fset
      (Reg.REG_LIMIT_L_LIMIT_L (rsetLink 2) 0) 0xfffff |> fun (s : State) => s.fset (Reg.DDR_CFG_CAP 0) 3 |> fun (s :
      State) => s.fon (Reg.DDR_CTL_EN (s.ddrChan 0x20000)) |>.fon (Reg.DDR_STATUS_TRAINED (s.ddrChan 0x20000)) |>.foff
      (Reg.DDR_STATUS_FAILED (s.ddrChan 0x20000)) |>.foff (Reg.DDR_STATUS_RETRAINING (s.ddrChan 0x20000)) |>.foff
      (Reg.PWR_ISL_CTL_OFF (74 + s.ddrChan 0x20000)) |>.fset (Reg.PWR_ISL_STAT_STATE (74 + s.ddrChan 0x20000)) 0 |>.foff
      (Reg.PWR_ISL_CTL_OFF 74) |>.foff (Reg.PWR_ISL_CTL_OFF 75) : State).ddrChan 0x20000), by decide +kernel⟩,
    ⟨running |> fun (s : State) => (kvUnits.foldl (fun (s : State) x => s.foff (Reg.ING_KV_CFG_EN x.1 x.2))
      ({ s with bad := [], ifaces := [], mem := s.mem.put 0x80000000203 9 } : State)).foff Reg.INST_STATUS_COCOON |>.fon
      (Reg.REG_LIMIT_H_EN (rsetLink 2) 0) |>.fon (Reg.REG_LIMIT_H_R (rsetLink 2) 0) |>.fon (Reg.REG_LIMIT_H_W (rsetLink
      2) 0) |>.fon (Reg.REG_LIMIT_H_A (rsetLink 2) 0) |>.fset (Reg.REG_BASE_H_BASE_H (rsetLink 2) 0) 0 |>.fset
      (Reg.REG_BASE_L_BASE_L (rsetLink 2) 0) 0 |>.fset (Reg.REG_LIMIT_H_LIMIT_H (rsetLink 2) 0) 0xffff |>.fset
      (Reg.REG_LIMIT_L_LIMIT_L (rsetLink 2) 0) 0xfffff, (.link 2 (BitVec.ofNat 30 (ioCoord 0 6 0 0 + 9 * 2 ^ 22))),
      (BitVec.ofNat 22 (tileCoord 0 2 0)), 0x80000000205, 2, .none, by decide +kernel⟩⟩

theorem test_wrReq_can_run :
    (∃ (s : State) (via : Via) (dst : BitVec 22) (a : BitVec 48) (data : List (Option Byte)) (ecc : Ecc) (k : Fin 12)
      (src : BitVec 30) (m : Master) (i : Nat), s.canonical = true ∧ s.down = false ∧ (via = .own .pcie → s.barOpen =
      true) ∧ (via = .own .jtag → s.fbit Reg.TRU_STATUS_DBG_OPEN = true) ∧ (via = .link k src → s.endpointThere dst.toNat
      = true) ∧ (via = .link k src ∨ via = .own m) ∧ (via = .link k src → s.forwards dst.toNat (localPart (viaAddr via
      a.toNat / 32 * 32)) = none) ∧ data.length ≤ 32 ∧ s.allowsBytes (viaWho via) (if isAlias (localPart (viaAddr via
      a.toNat / 32 * 32)) then 3 else 1) (maskBytes (viaAddr via a.toNat / 32 * 32) data) = true ∧ s.served (localPart
      (viaAddr via a.toNat / 32 * 32)) = 0 ∧ isAlias (localPart (viaAddr via a.toNat / 32 * 32)) = false ∧
      (match placeOf (localPart (viaAddr via a.toNat / 32 * 32)) with | .window n _ => s.fbit (Reg.NC_CTL_EN n) | _ => false)
      = false ∧ ecc = .none ∧ s.bad = [] ∧ (kvUnits.any fun x => s.fbit (Reg.ING_KV_CFG_EN x.1 x.2)) = false ∧ i <
      data.length ∧ via = .link k src ∧ coDev src.toNat = s.devid) ∧
    (∃ (s : State) (via : Via) (dst : BitVec 22) (a : BitVec 48) (data : List (Option Byte)) (ecc : Ecc) (k : Fin 12)
      (src : BitVec 30) (m : Master) (i : Nat), s.canonical = true ∧ s.down = false ∧ (via = .own .pcie → s.barOpen =
      true) ∧ (via = .own .jtag → s.fbit Reg.TRU_STATUS_DBG_OPEN = true) ∧ (via = .link k src → s.endpointThere dst.toNat
      = true) ∧ (via = .link k src ∨ via = .own m) ∧ (via = .link k src → s.forwards dst.toNat (localPart (viaAddr via
      a.toNat / 32 * 32)) = none) ∧ data.length ≤ 32 ∧ s.allowsBytes (viaWho via) (if isAlias (localPart (viaAddr via
      a.toNat / 32 * 32)) then 3 else 1) (maskBytes (viaAddr via a.toNat / 32 * 32) data) = true ∧ s.served (localPart
      (viaAddr via a.toNat / 32 * 32)) = 0 ∧ isAlias (localPart (viaAddr via a.toNat / 32 * 32)) = false ∧
      (match placeOf (localPart (viaAddr via a.toNat / 32 * 32)) with | .window n _ => s.fbit (Reg.NC_CTL_EN n) | _ => false)
      = false ∧ ecc = .none ∧ s.bad = [] ∧ (kvUnits.any fun x => s.fbit (Reg.ING_KV_CFG_EN x.1 x.2)) = false ∧ via = .own
      m) ∧
    (∃ (s : State) (via : Via) (dst : BitVec 22) (a : BitVec 48) (data : List (Option Byte)) (ecc : Ecc) (k : Fin 12)
      (src : BitVec 30) (m : Master) (i : Nat), s.canonical = true ∧ s.down = false ∧ (via = .own .pcie → s.barOpen =
      true) ∧ (via = .own .jtag → s.fbit Reg.TRU_STATUS_DBG_OPEN = true) ∧ (via = .link k src → s.endpointThere dst.toNat
      = true) ∧ (via = .link k src ∨ via = .own m) ∧ (via = .link k src → s.forwards dst.toNat (localPart (viaAddr via
      a.toNat / 32 * 32)) = none) ∧ data.length ≤ 32 ∧ s.allowsBytes (viaWho via) (if isAlias (localPart (viaAddr via
      a.toNat / 32 * 32)) then 3 else 1) (maskBytes (viaAddr via a.toNat / 32 * 32) data) = true ∧ s.served (localPart
      (viaAddr via a.toNat / 32 * 32)) = 0 ∧ isAlias (localPart (viaAddr via a.toNat / 32 * 32)) = true ∧ ecc = .none ∧
      s.bad = [] ∧ (kvUnits.any fun x => s.fbit (Reg.ING_KV_CFG_EN x.1 x.2)) = false ∧ i < data.length ∧ via = .own m) ∧
    (∃ (s : State) (via : Via) (dst : BitVec 22) (a : BitVec 48) (data : List (Option Byte)) (ecc : Ecc) (k : Fin 12)
      (src : BitVec 30) (m : Master), s.canonical = true ∧ s.down = false ∧ (via = .own .pcie → s.barOpen = true) ∧ (via
      = .own .jtag → s.fbit Reg.TRU_STATUS_DBG_OPEN = true) ∧ (via = .link k src → s.endpointThere dst.toNat = true) ∧
      (via = .link k src ∨ via = .own m) ∧ s.allowsBytes (viaWho via) (if isAlias (localPart (viaAddr via a.toNat / 32 *
      32)) then 3 else 1) (maskBytes (viaAddr via a.toNat / 32 * 32) data) = false ∧ via = .link k src ∧ coDev src.toNat
      = s.devid) ∧
    (∃ (s : State) (via : Via) (dst : BitVec 22) (a : BitVec 48) (data : List (Option Byte)) (ecc : Ecc) (k : Fin 12)
      (src : BitVec 30) (m : Master), s.canonical = true ∧ s.down = false ∧ (via = .own .pcie → s.barOpen = true) ∧ (via
      = .own .jtag → s.fbit Reg.TRU_STATUS_DBG_OPEN = true) ∧ (via = .link k src → s.endpointThere dst.toNat = true) ∧
      (via = .link k src ∨ via = .own m) ∧ s.allowsBytes (viaWho via) (if isAlias (localPart (viaAddr via a.toNat / 32 *
      32)) then 3 else 1) (maskBytes (viaAddr via a.toNat / 32 * 32) data) = false ∧ via = .own m ∧ m ≠ .pcie) ∧
    (∃ (s : State) (via : Via) (dst : BitVec 22) (a : BitVec 48) (data : List (Option Byte)) (ecc : Ecc) (k : Fin 12)
      (src : BitVec 30) (m : Master), s.canonical = true ∧ s.down = false ∧ (via = .own .pcie → s.barOpen = true) ∧ (via
      = .own .jtag → s.fbit Reg.TRU_STATUS_DBG_OPEN = true) ∧ (via = .link k src → s.endpointThere dst.toNat = true) ∧
      (via = .link k src ∨ via = .own m) ∧ s.allowsBytes (viaWho via) (if isAlias (localPart (viaAddr via a.toNat / 32 *
      32)) then 3 else 1) (maskBytes (viaAddr via a.toNat / 32 * 32) data) = false ∧ via = .own .pcie) ∧
    (∃ (s : State) (via : Via) (dst : BitVec 22) (a : BitVec 48) (data : List (Option Byte)) (ecc : Ecc) (k : Fin 12)
      (src : BitVec 30), s.canonical = true ∧ s.down = false ∧ via = .link k src ∧ s.endpointThere dst.toNat = false ∧
      coDev src.toNat = s.devid) ∧
    (∃ (s : State) (via : Via) (dst : BitVec 22) (a : BitVec 48) (data : List (Option Byte)) (ecc : Ecc), s.canonical =
      true ∧ s.down = false ∧ ((via = .own .pcie ∧ s.barOpen = false) ∨ (via = .own .jtag ∧ s.fbit
      Reg.TRU_STATUS_DBG_OPEN = false)) ∧ via = .own .pcie) ∧
    (∃ (s : State) (via : Via) (dst : BitVec 22) (a : BitVec 48) (data : List (Option Byte)) (ecc : Ecc), s.canonical =
      true ∧ s.down = false ∧ ((via = .own .pcie ∧ s.barOpen = false) ∨ (via = .own .jtag ∧ s.fbit
      Reg.TRU_STATUS_DBG_OPEN = false)) ∧ via = .own .jtag) ∧
    (∃ (s : State) (via : Via) (dst : BitVec 22) (a : BitVec 48) (data : List (Option Byte)) (ecc : Ecc) (k : Fin 12)
      (src : BitVec 30) (m : Master), s.canonical = true ∧ s.down = false ∧ (via = .own .pcie → s.barOpen = true) ∧ (via
      = .own .jtag → s.fbit Reg.TRU_STATUS_DBG_OPEN = true) ∧ (via = .link k src → s.endpointThere dst.toNat = true) ∧
      (via = .link k src ∨ via = .own m) ∧ (via = .link k src → s.forwards dst.toNat (localPart (viaAddr via a.toNat / 32
      * 32)) = none) ∧ data.length ≤ 32 ∧ s.allowsBytes (viaWho via) (if isAlias (localPart (viaAddr via a.toNat / 32 *
      32)) then 3 else 1) (maskBytes (viaAddr via a.toNat / 32 * 32) data) = true ∧ (maskBytes (viaAddr via a.toNat / 32
      * 32) data) ≠ [] ∧ s.served (localPart (viaAddr via a.toNat / 32 * 32)) = 3 ∧ via = .link k src ∧ coDev src.toNat =
      s.devid ∧ s.served (localPart (viaAddr via a.toNat / 32 * 32)) ≠ 0) ∧
    (∃ (s : State) (via : Via) (dst : BitVec 22) (a : BitVec 48) (data : List (Option Byte)) (ecc : Ecc) (k : Fin 12)
      (src : BitVec 30) (m : Master), s.canonical = true ∧ s.down = false ∧ (via = .own .pcie → s.barOpen = true) ∧ (via
      = .own .jtag → s.fbit Reg.TRU_STATUS_DBG_OPEN = true) ∧ (via = .link k src → s.endpointThere dst.toNat = true) ∧
      (via = .link k src ∨ via = .own m) ∧ (via = .link k src → s.forwards dst.toNat (localPart (viaAddr via a.toNat / 32
      * 32)) = none) ∧ data.length ≤ 32 ∧ s.allowsBytes (viaWho via) (if isAlias (localPart (viaAddr via a.toNat / 32 *
      32)) then 3 else 1) (maskBytes (viaAddr via a.toNat / 32 * 32) data) = true ∧ (maskBytes (viaAddr via a.toNat / 32
      * 32) data) ≠ [] ∧ s.served (localPart (viaAddr via a.toNat / 32 * 32)) = 3 ∧ via = .own m) ∧
    (∃ (s : State) (via : Via) (dst : BitVec 22) (a : BitVec 48) (data : List (Option Byte)) (ecc : Ecc) (k : Fin 12)
      (src : BitVec 30) (m : Master), s.canonical = true ∧ s.down = false ∧ (via = .own .pcie → s.barOpen = true) ∧ (via
      = .own .jtag → s.fbit Reg.TRU_STATUS_DBG_OPEN = true) ∧ (via = .link k src → s.endpointThere dst.toNat = true) ∧
      (via = .link k src ∨ via = .own m) ∧ (via = .link k src → s.forwards dst.toNat (localPart (viaAddr via a.toNat / 32
      * 32)) = none) ∧ data.length ≤ 32 ∧ s.allowsBytes (viaWho via) (if isAlias (localPart (viaAddr via a.toNat / 32 *
      32)) then 3 else 1) (maskBytes (viaAddr via a.toNat / 32 * 32) data) = true ∧ (maskBytes (viaAddr via a.toNat / 32
      * 32) data) ≠ [] ∧ s.served (localPart (viaAddr via a.toNat / 32 * 32)) = 10 ∧ (s.ddr (s.ddrChan (localPart
      (viaAddr via a.toNat / 32 * 32)))).queue.length < 256) ∧
    (∃ (s : State) (via : Via) (dst : BitVec 22) (a : BitVec 48) (data : List (Option Byte)) (ecc : Ecc) (k : Fin 12)
      (src : BitVec 30) (m : Master), s.canonical = true ∧ s.down = false ∧ (via = .own .pcie → s.barOpen = true) ∧ (via
      = .own .jtag → s.fbit Reg.TRU_STATUS_DBG_OPEN = true) ∧ (via = .link k src → s.endpointThere dst.toNat = true) ∧
      (via = .link k src ∨ via = .own m) ∧ (via = .link k src → s.forwards dst.toNat (localPart (viaAddr via a.toNat / 32
      * 32)) = none) ∧ data.length ≤ 32 ∧ s.allowsBytes (viaWho via) (if isAlias (localPart (viaAddr via a.toNat / 32 *
      32)) then 3 else 1) (maskBytes (viaAddr via a.toNat / 32 * 32) data) = true ∧ (maskBytes (viaAddr via a.toNat / 32
      * 32) data) ≠ [] ∧ s.served (localPart (viaAddr via a.toNat / 32 * 32)) = 5 ∧ placeOf (localPart (viaAddr via
      a.toNat / 32 * 32)) = .ddr ∧ via = .own m) ∧
    (∃ (s : State) (via : Via) (dst : BitVec 22) (a : BitVec 48) (data : List (Option Byte)) (ecc : Ecc) (k : Fin 12)
      (src : BitVec 30) (c : Nat), s.canonical = true ∧ s.down = false ∧ via = .link k src ∧ s.endpointThere dst.toNat =
      true ∧ s.forwards dst.toNat (localPart (viaAddr via a.toNat / 32 * 32)) = some c ∧ s.allowsBytes (.link k) 1
      (maskBytes (viaAddr via a.toNat / 32 * 32) data) = true) ∧
    (∃ (s : State) (via : Via) (dst : BitVec 22) (a : BitVec 48) (data : List (Option Byte)) (ecc : Ecc), s.canonical =
      true ∧ s.down = false ∧ data.length ≤ 32) :=
  ⟨⟨running |> fun (s : State) => (kvUnits.foldl (fun (s : State) x => s.foff (Reg.ING_KV_CFG_EN x.1 x.2))
      ({ s with bad := [], ifaces := [], mem := s.mem.put 0x80000000203 9 } : State)).foff Reg.INST_STATUS_COCOON |>.fon
      (Reg.REG_LIMIT_H_EN (rsetLink 2) 0) |>.fon (Reg.REG_LIMIT_H_R (rsetLink 2) 0) |>.fon (Reg.REG_LIMIT_H_W (rsetLink
      2) 0) |>.fon (Reg.REG_LIMIT_H_A (rsetLink 2) 0) |>.fset (Reg.REG_BASE_H_BASE_H (rsetLink 2) 0) 0 |>.fset
      (Reg.REG_BASE_L_BASE_L (rsetLink 2) 0) 0 |>.fset (Reg.REG_LIMIT_H_LIMIT_H (rsetLink 2) 0) 0xffff |>.fset
      (Reg.REG_LIMIT_L_LIMIT_L (rsetLink 2) 0) 0xfffff |>.fset (Reg.IBL_GEN_CUR 2) 2, (.link 2 (BitVec.ofNat 30 (ioCoord
      0 6 0 0 + 9 * 2 ^ 22))), (BitVec.ofNat 22 (tileCoord 0 2 0)), 0x80000000205, [some 7, none, none, some 5], .none,
      2, (BitVec.ofNat 30 (ioCoord 0 6 0 0 + 9 * 2 ^ 22)), .aon, 3, by decide +kernel⟩,
    ⟨running |> fun (s : State) => (kvUnits.foldl (fun (s : State) x => s.foff (Reg.ING_KV_CFG_EN x.1 x.2))
      ({ s with bad := [], ifaces := [], mem := s.mem.put 0x80000000203 9 } : State)).foff Reg.INST_STATUS_COCOON |>.fon
      (Reg.REG_LIMIT_H_EN (rsetLink 2) 0) |>.fon (Reg.REG_LIMIT_H_R (rsetLink 2) 0) |>.fon (Reg.REG_LIMIT_H_W (rsetLink
      2) 0) |>.fon (Reg.REG_LIMIT_H_A (rsetLink 2) 0) |>.fset (Reg.REG_BASE_H_BASE_H (rsetLink 2) 0) 0 |>.fset
      (Reg.REG_BASE_L_BASE_L (rsetLink 2) 0) 0 |>.fset (Reg.REG_LIMIT_H_LIMIT_H (rsetLink 2) 0) 0xffff |>.fset
      (Reg.REG_LIMIT_L_LIMIT_L (rsetLink 2) 0) 0xfffff |>.fset (Reg.IBL_GEN_CUR 2) 2, (.own .aon), 0, 0x80000000205,
      [some 7, none, none, some 5], .none, 2, (BitVec.ofNat 30 (ioCoord 0 6 0 0 + 9 * 2 ^ 22)), .aon, 3,
      by decide +kernel⟩,
    ⟨running |> fun (s : State) => (kvUnits.foldl (fun (s : State) x => s.foff (Reg.ING_KV_CFG_EN x.1 x.2))
      ({ s with bad := [], ifaces := [], mem := s.mem.put 0x80000000203 9 } : State)).foff Reg.INST_STATUS_COCOON |>.fon
      (Reg.REG_LIMIT_H_EN (rsetLink 2) 0) |>.fon (Reg.REG_LIMIT_H_R (rsetLink 2) 0) |>.fon (Reg.REG_LIMIT_H_W (rsetLink
      2) 0) |>.fon (Reg.REG_LIMIT_H_A (rsetLink 2) 0) |>.fset (Reg.REG_BASE_H_BASE_H (rsetLink 2) 0) 0 |>.fset
      (Reg.REG_BASE_L_BASE_L (rsetLink 2) 0) 0 |>.fset (Reg.REG_LIMIT_H_LIMIT_H (rsetLink 2) 0) 0xffff |>.fset
      (Reg.REG_LIMIT_L_LIMIT_L (rsetLink 2) 0) 0xfffff |>.fset (Reg.IBL_GEN_CUR 2) 2, (.own .aon), 0, 0x80100000205,
      [some 7, none, none, some 5], .none, 2, (BitVec.ofNat 30 (ioCoord 0 6 0 0 + 9 * 2 ^ 22)), .aon, 3,
      by decide +kernel⟩,
    ⟨running |> fun (s : State) => (kvUnits.foldl (fun (s : State) x => s.foff (Reg.ING_KV_CFG_EN x.1 x.2))
      ({ s with bad := [], ifaces := [], mem := s.mem.put 0x80000000203 9 } : State)).foff Reg.INST_STATUS_COCOON |> fun
      s => forN 16 (fun j s => s.foff (Reg.REG_LIMIT_H_EN (rsetLink 2) j)) s |>.fset (Reg.IBL_GEN_CUR 2) 2, (.link 2
      (BitVec.ofNat 30 (ioCoord 0 6 0 0 + 9 * 2 ^ 22))), (BitVec.ofNat 22 (tileCoord 0 2 0)), 0x80000000205, [some 7,
      none, none, some 5], .none, 2, (BitVec.ofNat 30 (ioCoord 0 6 0 0 + 9 * 2 ^ 22)), .aon, by decide +kernel⟩,
    ⟨running |> fun (s : State) => (kvUnits.foldl (fun (s : State) x => s.foff (Reg.ING_KV_CFG_EN x.1 x.2))
      ({ s with bad := [], ifaces := [], mem := s.mem.put 0x80000000203 9 } : State)).foff Reg.INST_STATUS_COCOON |> fun
      s => forN 16 (fun j s => s.foff (Reg.REG_LIMIT_H_EN rsetApp j)) s |>.fset (Reg.IBL_GEN_CUR 2) 2, (.own (.app 2
      true)), 0, 0x80000000205, [some 7, none, none, some 5], .none, 2, (BitVec.ofNat 30 (ioCoord 0 6 0 0 + 9 * 2 ^ 22)),
      (.app 2 true), by decide +kernel⟩,
    ⟨running |> fun (s : State) => (kvUnits.foldl (fun (s : State) x => s.foff (Reg.ING_KV_CFG_EN x.1 x.2))
      ({ s with bad := [], ifaces := [], mem := s.mem.put 0x80000000203 9 } : State)).foff Reg.INST_STATUS_COCOON |>.fset
      Reg.INST_STATUS_STAGE 7 |> fun s => forN 16 (fun j s => s.foff (Reg.REG_LIMIT_H_EN rsetPcie j)) s |>.fset
      (Reg.IBL_GEN_CUR 2) 2, (.own .pcie), 0, 0x80000000205, [some 7, none, none, some 5], .none, 2, (BitVec.ofNat 30
      (ioCoord 0 6 0 0 + 9 * 2 ^ 22)), .pcie, by decide +kernel⟩,
    ⟨running |> fun (s : State) => (kvUnits.foldl (fun (s : State) x => s.foff (Reg.ING_KV_CFG_EN x.1 x.2))
      ({ s with bad := [], ifaces := [], mem := s.mem.put 0x80000000203 9 } : State)).foff Reg.INST_STATUS_COCOON |>.fon
      (Reg.REG_LIMIT_H_EN (rsetLink 2) 0) |>.fon (Reg.REG_LIMIT_H_R (rsetLink 2) 0) |>.fon (Reg.REG_LIMIT_H_W (rsetLink
      2) 0) |>.fon (Reg.REG_LIMIT_H_A (rsetLink 2) 0) |>.fset (Reg.REG_BASE_H_BASE_H (rsetLink 2) 0) 0 |>.fset
      (Reg.REG_BASE_L_BASE_L (rsetLink 2) 0) 0 |>.fset (Reg.REG_LIMIT_H_LIMIT_H (rsetLink 2) 0) 0xffff |>.fset
      (Reg.REG_LIMIT_L_LIMIT_L (rsetLink 2) 0) 0xfffff |>.fset (Reg.IBL_GEN_CUR 2) 2, (.link 2 (BitVec.ofNat 30 (ioCoord
      0 6 0 0 + 9 * 2 ^ 22))), (BitVec.ofNat 22 (ioCoord 0 6 1 3)), 0x80000000205, [some 7, none, none, some 5], .none,
      2, (BitVec.ofNat 30 (ioCoord 0 6 0 0 + 9 * 2 ^ 22)), by decide +kernel⟩,
    ⟨running.fset Reg.INST_STATUS_STAGE 0, (.own .pcie), 0, 0x80000000205, [some 7, none, none, some 5], .none,
      by decide +kernel⟩,
    ⟨running.foff Reg.TRU_STATUS_DBG_OPEN, (.own .jtag), 0, 0x80000000205, [some 7, none, none, some 5], .none,
      by decide +kernel⟩,
    ⟨running |> fun (s : State) => (kvUnits.foldl (fun (s : State) x => s.foff (Reg.ING_KV_CFG_EN x.1 x.2))
      ({ s with bad := [], ifaces := [], mem := s.mem.put 0x80000000203 9 } : State)).foff Reg.INST_STATUS_COCOON |>.fon
      (Reg.REG_LIMIT_H_EN (rsetLink 2) 0) |>.fon (Reg.REG_LIMIT_H_R (rsetLink 2) 0) |>.fon (Reg.REG_LIMIT_H_W (rsetLink
      2) 0) |>.fon (Reg.REG_LIMIT_H_A (rsetLink 2) 0) |>.fset (Reg.REG_BASE_H_BASE_H (rsetLink 2) 0) 0 |>.fset
      (Reg.REG_BASE_L_BASE_L (rsetLink 2) 0) 0 |>.fset (Reg.REG_LIMIT_H_LIMIT_H (rsetLink 2) 0) 0xffff |>.fset
      (Reg.REG_LIMIT_L_LIMIT_L (rsetLink 2) 0) 0xfffff |>.fset (Reg.IBL_GEN_CUR 2) 2, (.link 2 (BitVec.ofNat 30 (ioCoord
      0 6 0 0 + 9 * 2 ^ 22))), (BitVec.ofNat 22 (tileCoord 0 2 0)), 0x84000000000, [some 7, none, none, some 5], .none,
      2, (BitVec.ofNat 30 (ioCoord 0 6 0 0 + 9 * 2 ^ 22)), .aon, by decide +kernel⟩,
    ⟨running |> fun (s : State) => (kvUnits.foldl (fun (s : State) x => s.foff (Reg.ING_KV_CFG_EN x.1 x.2))
      ({ s with bad := [], ifaces := [], mem := s.mem.put 0x80000000203 9 } : State)).foff Reg.INST_STATUS_COCOON |>.fon
      (Reg.REG_LIMIT_H_EN (rsetLink 2) 0) |>.fon (Reg.REG_LIMIT_H_R (rsetLink 2) 0) |>.fon (Reg.REG_LIMIT_H_W (rsetLink
      2) 0) |>.fon (Reg.REG_LIMIT_H_A (rsetLink 2) 0) |>.fset (Reg.REG_BASE_H_BASE_H (rsetLink 2) 0) 0 |>.fset
      (Reg.REG_BASE_L_BASE_L (rsetLink 2) 0) 0 |>.fset (Reg.REG_LIMIT_H_LIMIT_H (rsetLink 2) 0) 0xffff |>.fset
      (Reg.REG_LIMIT_L_LIMIT_L (rsetLink 2) 0) 0xfffff |>.fset (Reg.IBL_GEN_CUR 2) 2, (.own .aon), 0, 0x84000000000,
      [some 7, none, none, some 5], .none, 2, (BitVec.ofNat 30 (ioCoord 0 6 0 0 + 9 * 2 ^ 22)), .aon, by decide +kernel⟩,
    ⟨running |> fun (s : State) => (kvUnits.foldl (fun (s : State) x => s.foff (Reg.ING_KV_CFG_EN x.1 x.2))
      ({ s with bad := [], ifaces := [], mem := s.mem.put 0x80000000203 9 } : State)).foff Reg.INST_STATUS_COCOON |>.fon
      (Reg.REG_LIMIT_H_EN (rsetLink 2) 0) |>.fon (Reg.REG_LIMIT_H_R (rsetLink 2) 0) |>.fon (Reg.REG_LIMIT_H_W (rsetLink
      2) 0) |>.fon (Reg.REG_LIMIT_H_A (rsetLink 2) 0) |>.fset (Reg.REG_BASE_H_BASE_H (rsetLink 2) 0) 0 |>.fset
      (Reg.REG_BASE_L_BASE_L (rsetLink 2) 0) 0 |>.fset (Reg.REG_LIMIT_H_LIMIT_H (rsetLink 2) 0) 0xffff |>.fset
      (Reg.REG_LIMIT_L_LIMIT_L (rsetLink 2) 0) 0xfffff |> fun (s : State) => s.fset (Reg.DDR_CFG_CAP 0) 3 |> fun (s :
      State) => s.fon (Reg.DDR_CTL_EN (s.ddrChan 0x20000)) |>.fon (Reg.DDR_STATUS_TRAINED (s.ddrChan 0x20000)) |>.foff
      (Reg.DDR_STATUS_FAILED (s.ddrChan 0x20000)) |>.fon (Reg.DDR_STATUS_RETRAINING (s.ddrChan 0x20000)) |>.foff
      (Reg.PWR_ISL_CTL_OFF (74 + s.ddrChan 0x20000)) |>.fset (Reg.PWR_ISL_STAT_STATE (74 + s.ddrChan 0x20000)) 0, (.own
      .aon), 0, 0x20000, [some 7, none, none, some 5], .none, 2, (BitVec.ofNat 30 (ioCoord 0 6 0 0 + 9 * 2 ^ 22)), .aon,
      by decide +kernel⟩,
    ⟨running, (.own .aon), 0, 0x20000, [some 7, none, none, some 5], .none, 2, (BitVec.ofNat 30 (ioCoord 0 6 0 0 + 9 * 2
      ^ 22)), .aon, by decide +kernel⟩,
    ⟨running |> fun (s : State) => (kvUnits.foldl (fun (s : State) x => s.foff (Reg.ING_KV_CFG_EN x.1 x.2))
      ({ s with bad := [], ifaces := [], mem := s.mem.put 0x80000000203 9 } : State)).foff Reg.INST_STATUS_COCOON |>.fon
      (Reg.REG_LIMIT_H_EN (rsetLink 2) 0) |>.fon (Reg.REG_LIMIT_H_R (rsetLink 2) 0) |>.fon (Reg.REG_LIMIT_H_W (rsetLink
      2) 0) |>.fon (Reg.REG_LIMIT_H_A (rsetLink 2) 0) |>.fset (Reg.REG_BASE_H_BASE_H (rsetLink 2) 0) 0 |>.fset
      (Reg.REG_BASE_L_BASE_L (rsetLink 2) 0) 0 |>.fset (Reg.REG_LIMIT_H_LIMIT_H (rsetLink 2) 0) 0xffff |>.fset
      (Reg.REG_LIMIT_L_LIMIT_L (rsetLink 2) 0) 0xfffff |> fun (s : State) => s.fset (Reg.DDR_CFG_CAP 0) 3 |> fun (s :
      State) => s.fon (Reg.DDR_CTL_EN (s.ddrChan 0x20000)) |>.fon (Reg.DDR_STATUS_TRAINED (s.ddrChan 0x20000)) |>.foff
      (Reg.DDR_STATUS_FAILED (s.ddrChan 0x20000)) |>.foff (Reg.DDR_STATUS_RETRAINING (s.ddrChan 0x20000)) |>.foff
      (Reg.PWR_ISL_CTL_OFF (74 + s.ddrChan 0x20000)) |>.fset (Reg.PWR_ISL_STAT_STATE (74 + s.ddrChan 0x20000)) 0 |>.foff
      (Reg.PWR_ISL_CTL_OFF 74) |>.foff (Reg.PWR_ISL_CTL_OFF 75) |>.fset (Reg.IBL_GEN_CUR 2) 2, (.link 2 (BitVec.ofNat 30
      (ioCoord 0 6 0 0 + 9 * 2 ^ 22))), (BitVec.ofNat 22 (ioCoord 0 1 (((running |> fun (s : State) => (kvUnits.foldl
      (fun (s : State) x => s.foff (Reg.ING_KV_CFG_EN x.1 x.2))
      ({ s with bad := [], ifaces := [], mem := s.mem.put 0x80000000203 9 } : State)).foff Reg.INST_STATUS_COCOON |>.fon
      (Reg.REG_LIMIT_H_EN (rsetLink 2) 0) |>.fon (Reg.REG_LIMIT_H_R (rsetLink 2) 0) |>.fon (Reg.REG_LIMIT_H_W (rsetLink
      2) 0) |>.fon (Reg.REG_LIMIT_H_A (rsetLink 2) 0) |>.fset (Reg.REG_BASE_H_BASE_H (rsetLink 2) 0) 0 |>.fset
      (Reg.REG_BASE_L_BASE_L (rsetLink 2) 0) 0 |>.fset (Reg.REG_LIMIT_H_LIMIT_H (rsetLink 2) 0) 0xffff |>.fset
      (Reg.REG_LIMIT_L_LIMIT_L (rsetLink 2) 0) 0xfffff |> fun (s : State) => s.fset (Reg.DDR_CFG_CAP 0) 3 |> fun (s :
      State) => s.fon (Reg.DDR_CTL_EN (s.ddrChan 0x20000)) |>.fon (Reg.DDR_STATUS_TRAINED (s.ddrChan 0x20000)) |>.foff
      (Reg.DDR_STATUS_FAILED (s.ddrChan 0x20000)) |>.foff (Reg.DDR_STATUS_RETRAINING (s.ddrChan 0x20000)) |>.foff
      (Reg.PWR_ISL_CTL_OFF (74 + s.ddrChan 0x20000)) |>.fset (Reg.PWR_ISL_STAT_STATE (74 + s.ddrChan 0x20000)) 0 |>.foff
      (Reg.PWR_ISL_CTL_OFF 74) |>.foff (Reg.PWR_ISL_CTL_OFF 75) |>.fset (Reg.IBL_GEN_CUR 2) 2 : State).ddrChan 0x20000 +
      1) % 2) 0)), 0x20000, [some 7, none, none, some 5], .none, 2, (BitVec.ofNat 30 (ioCoord 0 6 0 0 + 9 * 2 ^ 22)),
      ((running |> fun (s : State) => (kvUnits.foldl (fun (s : State) x => s.foff (Reg.ING_KV_CFG_EN x.1 x.2))
      ({ s with bad := [], ifaces := [], mem := s.mem.put 0x80000000203 9 } : State)).foff Reg.INST_STATUS_COCOON |>.fon
      (Reg.REG_LIMIT_H_EN (rsetLink 2) 0) |>.fon (Reg.REG_LIMIT_H_R (rsetLink 2) 0) |>.fon (Reg.REG_LIMIT_H_W (rsetLink
      2) 0) |>.fon (Reg.REG_LIMIT_H_A (rsetLink 2) 0) |>.fset (Reg.REG_BASE_H_BASE_H (rsetLink 2) 0) 0 |>.fset
      (Reg.REG_BASE_L_BASE_L (rsetLink 2) 0) 0 |>.fset (Reg.REG_LIMIT_H_LIMIT_H (rsetLink 2) 0) 0xffff |>.fset
      (Reg.REG_LIMIT_L_LIMIT_L (rsetLink 2) 0) 0xfffff |> fun (s : State) => s.fset (Reg.DDR_CFG_CAP 0) 3 |> fun (s :
      State) => s.fon (Reg.DDR_CTL_EN (s.ddrChan 0x20000)) |>.fon (Reg.DDR_STATUS_TRAINED (s.ddrChan 0x20000)) |>.foff
      (Reg.DDR_STATUS_FAILED (s.ddrChan 0x20000)) |>.foff (Reg.DDR_STATUS_RETRAINING (s.ddrChan 0x20000)) |>.foff
      (Reg.PWR_ISL_CTL_OFF (74 + s.ddrChan 0x20000)) |>.fset (Reg.PWR_ISL_STAT_STATE (74 + s.ddrChan 0x20000)) 0 |>.foff
      (Reg.PWR_ISL_CTL_OFF 74) |>.foff (Reg.PWR_ISL_CTL_OFF 75) |>.fset (Reg.IBL_GEN_CUR 2) 2 : State).ddrChan 0x20000),
      by decide +kernel⟩,
    ⟨running |> fun (s : State) => (kvUnits.foldl (fun (s : State) x => s.foff (Reg.ING_KV_CFG_EN x.1 x.2))
      ({ s with bad := [], ifaces := [], mem := s.mem.put 0x80000000203 9 } : State)).foff Reg.INST_STATUS_COCOON |>.fon
      (Reg.REG_LIMIT_H_EN (rsetLink 2) 0) |>.fon (Reg.REG_LIMIT_H_R (rsetLink 2) 0) |>.fon (Reg.REG_LIMIT_H_W (rsetLink
      2) 0) |>.fon (Reg.REG_LIMIT_H_A (rsetLink 2) 0) |>.fset (Reg.REG_BASE_H_BASE_H (rsetLink 2) 0) 0 |>.fset
      (Reg.REG_BASE_L_BASE_L (rsetLink 2) 0) 0 |>.fset (Reg.REG_LIMIT_H_LIMIT_H (rsetLink 2) 0) 0xffff |>.fset
      (Reg.REG_LIMIT_L_LIMIT_L (rsetLink 2) 0) 0xfffff |>.fset (Reg.IBL_GEN_CUR 2) 2, (.link 2 (BitVec.ofNat 30 (ioCoord
      0 6 0 0 + 9 * 2 ^ 22))), (BitVec.ofNat 22 (tileCoord 0 2 0)), 0x80000000205, [some 7, none, none, some 5], .none,
      by decide +kernel⟩⟩

theorem test_wrFull_can_run :
    (∃ (s : State) (via : Via) (dst : BitVec 22) (a : BitVec 48) (data : List Byte) (ecc : Ecc) (k : Fin 12) (src :
      BitVec 30) (m : Master) (i : Nat), s.canonical = true ∧ s.down = false ∧ (via = .own .pcie → s.barOpen = true) ∧
      (via = .own .jtag → s.fbit Reg.TRU_STATUS_DBG_OPEN = true) ∧ (via = .link k src → s.endpointThere dst.toNat = true)
      ∧ (via = .link k src ∨ via = .own m) ∧ (via = .link k src → s.forwards dst.toNat (localPart (viaAddr via a.toNat /
      32 * 32)) = none) ∧ (via = .link k src → 2 ≤ s.fget (Reg.IBL_GEN_CUR k)) ∧ data.length ≤ 32 ∧ s.allowsBytes (viaWho
      via) (if isAlias (localPart (viaAddr via a.toNat / 32 * 32)) then 3 else 1) (maskBytes (viaAddr via a.toNat / 32 *
      32) (data.map some)) = true ∧ s.served (localPart (viaAddr via a.toNat / 32 * 32)) = 0 ∧ isAlias (localPart
      (viaAddr via a.toNat / 32 * 32)) = false ∧
      (match placeOf (localPart (viaAddr via a.toNat / 32 * 32)) with | .window n _ => s.fbit (Reg.NC_CTL_EN n) | _ => false)
      = false ∧ ecc = .none ∧ s.bad = [] ∧ (kvUnits.any fun x => s.fbit (Reg.ING_KV_CFG_EN x.1 x.2)) = false ∧ i <
      data.length ∧ via = .link k src ∧ coDev src.toNat = s.devid) ∧
    (∃ (s : State) (via : Via) (dst : BitVec 22) (a : BitVec 48) (data : List Byte) (ecc : Ecc) (k : Fin 12) (src :
      BitVec 30) (m : Master) (i : Nat), s.canonical = true ∧ s.down = false ∧ (via = .own .pcie → s.barOpen = true) ∧
      (via = .own .jtag → s.fbit Reg.TRU_STATUS_DBG_OPEN = true) ∧ (via = .link k src → s.endpointThere dst.toNat = true)
      ∧ (via = .link k src ∨ via = .own m) ∧ (via = .link k src → s.forwards dst.toNat (localPart (viaAddr via a.toNat /
      32 * 32)) = none) ∧ (via = .link k src → 2 ≤ s.fget (Reg.IBL_GEN_CUR k)) ∧ data.length ≤ 32 ∧ s.allowsBytes (viaWho
      via) (if isAlias (localPart (viaAddr via a.toNat / 32 * 32)) then 3 else 1) (maskBytes (viaAddr via a.toNat / 32 *
      32) (data.map some)) = true ∧ s.served (localPart (viaAddr via a.toNat / 32 * 32)) = 0 ∧ isAlias (localPart
      (viaAddr via a.toNat / 32 * 32)) = false ∧
      (match placeOf (localPart (viaAddr via a.toNat / 32 * 32)) with | .window n _ => s.fbit (Reg.NC_CTL_EN n) | _ => false)
      = false ∧ ecc = .none ∧ s.bad = [] ∧ (kvUnits.any fun x => s.fbit (Reg.ING_KV_CFG_EN x.1 x.2)) = false ∧ via = .own
      m) ∧
    (∃ (s : State) (via : Via) (dst : BitVec 22) (a : BitVec 48) (data : List Byte) (ecc : Ecc) (k : Fin 12) (src :
      BitVec 30) (m : Master) (i : Nat), s.canonical = true ∧ s.down = false ∧ (via = .own .pcie → s.barOpen = true) ∧
      (via = .own .jtag → s.fbit Reg.TRU_STATUS_DBG_OPEN = true) ∧ (via = .link k src → s.endpointThere dst.toNat = true)
      ∧ (via = .link k src ∨ via = .own m) ∧ (via = .link k src → s.forwards dst.toNat (localPart (viaAddr via a.toNat /
      32 * 32)) = none) ∧ (via = .link k src → 2 ≤ s.fget (Reg.IBL_GEN_CUR k)) ∧ data.length ≤ 32 ∧ s.allowsBytes (viaWho
      via) (if isAlias (localPart (viaAddr via a.toNat / 32 * 32)) then 3 else 1) (maskBytes (viaAddr via a.toNat / 32 *
      32) (data.map some)) = true ∧ s.served (localPart (viaAddr via a.toNat / 32 * 32)) = 0 ∧ isAlias (localPart
      (viaAddr via a.toNat / 32 * 32)) = true ∧ ecc = .none ∧ s.bad = [] ∧ (kvUnits.any fun x => s.fbit
      (Reg.ING_KV_CFG_EN x.1 x.2)) = false ∧ i < data.length ∧ via = .own m) ∧
    (∃ (s : State) (via : Via) (dst : BitVec 22) (a : BitVec 48) (data : List Byte) (ecc : Ecc) (k : Fin 12) (src :
      BitVec 30) (m : Master), s.canonical = true ∧ s.down = false ∧ (via = .own .pcie → s.barOpen = true) ∧ (via = .own
      .jtag → s.fbit Reg.TRU_STATUS_DBG_OPEN = true) ∧ (via = .link k src → s.endpointThere dst.toNat = true) ∧ (via =
      .link k src ∨ via = .own m) ∧ s.allowsBytes (viaWho via) (if isAlias (localPart (viaAddr via a.toNat / 32 * 32))
      then 3 else 1) (maskBytes (viaAddr via a.toNat / 32 * 32) (data.map some)) = false ∧ (via = .link k src → 2 ≤
      s.fget (Reg.IBL_GEN_CUR k)) ∧ via = .link k src ∧ coDev src.toNat = s.devid) ∧
    (∃ (s : State) (via : Via) (dst : BitVec 22) (a : BitVec 48) (data : List Byte) (ecc : Ecc) (k : Fin 12) (src :
      BitVec 30) (m : Master), s.canonical = true ∧ s.down = false ∧ (via = .own .pcie → s.barOpen = true) ∧ (via = .own
      .jtag → s.fbit Reg.TRU_STATUS_DBG_OPEN = true) ∧ (via = .link k src → s.endpointThere dst.toNat = true) ∧ (via =
      .link k src ∨ via = .own m) ∧ s.allowsBytes (viaWho via) (if isAlias (localPart (viaAddr via a.toNat / 32 * 32))
      then 3 else 1) (maskBytes (viaAddr via a.toNat / 32 * 32) (data.map some)) = false ∧ (via = .link k src → 2 ≤
      s.fget (Reg.IBL_GEN_CUR k)) ∧ via = .own m ∧ m ≠ .pcie) ∧
    (∃ (s : State) (via : Via) (dst : BitVec 22) (a : BitVec 48) (data : List Byte) (ecc : Ecc) (k : Fin 12) (src :
      BitVec 30) (m : Master), s.canonical = true ∧ s.down = false ∧ (via = .own .pcie → s.barOpen = true) ∧ (via = .own
      .jtag → s.fbit Reg.TRU_STATUS_DBG_OPEN = true) ∧ (via = .link k src → s.endpointThere dst.toNat = true) ∧ (via =
      .link k src ∨ via = .own m) ∧ s.allowsBytes (viaWho via) (if isAlias (localPart (viaAddr via a.toNat / 32 * 32))
      then 3 else 1) (maskBytes (viaAddr via a.toNat / 32 * 32) (data.map some)) = false ∧ (via = .link k src → 2 ≤
      s.fget (Reg.IBL_GEN_CUR k)) ∧ via = .own .pcie) ∧
    (∃ (s : State) (via : Via) (dst : BitVec 22) (a : BitVec 48) (data : List Byte) (ecc : Ecc) (k : Fin 12) (src :
      BitVec 30), s.canonical = true ∧ s.down = false ∧ via = .link k src ∧ s.endpointThere dst.toNat = false ∧ 2 ≤
      s.fget (Reg.IBL_GEN_CUR k) ∧ coDev src.toNat = s.devid) ∧
    (∃ (s : State) (via : Via) (dst : BitVec 22) (a : BitVec 48) (data : List Byte) (ecc : Ecc), s.canonical = true ∧
      s.down = false ∧ ((via = .own .pcie ∧ s.barOpen = false) ∨ (via = .own .jtag ∧ s.fbit Reg.TRU_STATUS_DBG_OPEN =
      false)) ∧ via = .own .pcie) ∧
    (∃ (s : State) (via : Via) (dst : BitVec 22) (a : BitVec 48) (data : List Byte) (ecc : Ecc), s.canonical = true ∧
      s.down = false ∧ ((via = .own .pcie ∧ s.barOpen = false) ∨ (via = .own .jtag ∧ s.fbit Reg.TRU_STATUS_DBG_OPEN =
      false)) ∧ via = .own .jtag) ∧
    (∃ (s : State) (via : Via) (dst : BitVec 22) (a : BitVec 48) (data : List Byte) (ecc : Ecc) (k : Fin 12) (src :
      BitVec 30) (m : Master), s.canonical = true ∧ s.down = false ∧ (via = .own .pcie → s.barOpen = true) ∧ (via = .own
      .jtag → s.fbit Reg.TRU_STATUS_DBG_OPEN = true) ∧ (via = .link k src → s.endpointThere dst.toNat = true) ∧ (via =
      .link k src ∨ via = .own m) ∧ (via = .link k src → s.forwards dst.toNat (localPart (viaAddr via a.toNat / 32 * 32))
      = none) ∧ (via = .link k src → 2 ≤ s.fget (Reg.IBL_GEN_CUR k)) ∧ data.length ≤ 32 ∧ s.allowsBytes (viaWho via) (if
      isAlias (localPart (viaAddr via a.toNat / 32 * 32)) then 3 else 1) (maskBytes (viaAddr via a.toNat / 32 * 32)
      (data.map some)) = true ∧ (maskBytes (viaAddr via a.toNat / 32 * 32) (data.map some)) ≠ [] ∧ s.served (localPart
      (viaAddr via a.toNat / 32 * 32)) = 3 ∧ via = .link k src ∧ coDev src.toNat = s.devid ∧ s.served (localPart (viaAddr
      via a.toNat / 32 * 32)) ≠ 0) ∧
    (∃ (s : State) (via : Via) (dst : BitVec 22) (a : BitVec 48) (data : List Byte) (ecc : Ecc) (k : Fin 12) (src :
      BitVec 30) (m : Master), s.canonical = true ∧ s.down = false ∧ (via = .own .pcie → s.barOpen = true) ∧ (via = .own
      .jtag → s.fbit Reg.TRU_STATUS_DBG_OPEN = true) ∧ (via = .link k src → s.endpointThere dst.toNat = true) ∧ (via =
      .link k src ∨ via = .own m) ∧ (via = .link k src → s.forwards dst.toNat (localPart (viaAddr via a.toNat / 32 * 32))
      = none) ∧ (via = .link k src → 2 ≤ s.fget (Reg.IBL_GEN_CUR k)) ∧ data.length ≤ 32 ∧ s.allowsBytes (viaWho via) (if
      isAlias (localPart (viaAddr via a.toNat / 32 * 32)) then 3 else 1) (maskBytes (viaAddr via a.toNat / 32 * 32)
      (data.map some)) = true ∧ (maskBytes (viaAddr via a.toNat / 32 * 32) (data.map some)) ≠ [] ∧ s.served (localPart
      (viaAddr via a.toNat / 32 * 32)) = 3 ∧ via = .own m) ∧
    (∃ (s : State) (via : Via) (dst : BitVec 22) (a : BitVec 48) (data : List Byte) (ecc : Ecc) (k : Fin 12) (src :
      BitVec 30) (m : Master), s.canonical = true ∧ s.down = false ∧ (via = .own .pcie → s.barOpen = true) ∧ (via = .own
      .jtag → s.fbit Reg.TRU_STATUS_DBG_OPEN = true) ∧ (via = .link k src → s.endpointThere dst.toNat = true) ∧ (via =
      .link k src ∨ via = .own m) ∧ (via = .link k src → s.forwards dst.toNat (localPart (viaAddr via a.toNat / 32 * 32))
      = none) ∧ (via = .link k src → 2 ≤ s.fget (Reg.IBL_GEN_CUR k)) ∧ data.length ≤ 32 ∧ s.allowsBytes (viaWho via) (if
      isAlias (localPart (viaAddr via a.toNat / 32 * 32)) then 3 else 1) (maskBytes (viaAddr via a.toNat / 32 * 32)
      (data.map some)) = true ∧ (maskBytes (viaAddr via a.toNat / 32 * 32) (data.map some)) ≠ [] ∧ s.served (localPart
      (viaAddr via a.toNat / 32 * 32)) = 10 ∧ (s.ddr (s.ddrChan (localPart (viaAddr via a.toNat / 32 *
      32)))).queue.length < 256) ∧
    (∃ (s : State) (via : Via) (dst : BitVec 22) (a : BitVec 48) (data : List Byte) (ecc : Ecc) (k : Fin 12) (src :
      BitVec 30) (m : Master), s.canonical = true ∧ s.down = false ∧ (via = .own .pcie → s.barOpen = true) ∧ (via = .own
      .jtag → s.fbit Reg.TRU_STATUS_DBG_OPEN = true) ∧ (via = .link k src → s.endpointThere dst.toNat = true) ∧ (via =
      .link k src ∨ via = .own m) ∧ (via = .link k src → s.forwards dst.toNat (localPart (viaAddr via a.toNat / 32 * 32))
      = none) ∧ (via = .link k src → 2 ≤ s.fget (Reg.IBL_GEN_CUR k)) ∧ data.length ≤ 32 ∧ s.allowsBytes (viaWho via) (if
      isAlias (localPart (viaAddr via a.toNat / 32 * 32)) then 3 else 1) (maskBytes (viaAddr via a.toNat / 32 * 32)
      (data.map some)) = true ∧ (maskBytes (viaAddr via a.toNat / 32 * 32) (data.map some)) ≠ [] ∧ s.served (localPart
      (viaAddr via a.toNat / 32 * 32)) = 5 ∧ placeOf (localPart (viaAddr via a.toNat / 32 * 32)) = .ddr ∧ via = .own m) ∧
    (∃ (s : State) (via : Via) (dst : BitVec 22) (a : BitVec 48) (data : List Byte) (ecc : Ecc) (k : Fin 12) (src :
      BitVec 30) (c : Nat), s.canonical = true ∧ s.down = false ∧ via = .link k src ∧ s.endpointThere dst.toNat = true ∧
      s.forwards dst.toNat (localPart (viaAddr via a.toNat / 32 * 32)) = some c ∧ (via = .link k src → 2 ≤ s.fget
      (Reg.IBL_GEN_CUR k)) ∧ s.allowsBytes (.link k) 1 (maskBytes (viaAddr via a.toNat / 32 * 32) (data.map some)) =
      true) ∧
    (∃ (s : State) (via : Via) (dst : BitVec 22) (a : BitVec 48) (data : List Byte) (ecc : Ecc), s.canonical = true ∧
      s.down = false ∧ data.length ≤ 32) ∧
    (∃ (s : State) (via : Via) (dst : BitVec 22) (a : BitVec 48) (data : List Byte) (ecc : Ecc) (k : Fin 12) (src :
      BitVec 30), s.canonical = true ∧ s.down = false ∧ via = .link k src ∧ s.fget (Reg.IBL_GEN_CUR k) < 2 ∧ coDev
      src.toNat = s.devid) :=
  ⟨⟨running |> fun (s : State) => (kvUnits.foldl (fun (s : State) x => s.foff (Reg.ING_KV_CFG_EN x.1 x.2))
      ({ s with bad := [], ifaces := [], mem := s.mem.put 0x80000000203 9 } : State)).foff Reg.INST_STATUS_COCOON |>.fon
      (Reg.REG_LIMIT_H_EN (rsetLink 2) 0) |>.fon (Reg.REG_LIMIT_H_R (rsetLink 2) 0) |>.fon (Reg.REG_LIMIT_H_W (rsetLink
      2) 0) |>.fon (Reg.REG_LIMIT_H_A (rsetLink 2) 0) |>.fset (Reg.REG_BASE_H_BASE_H (rsetLink 2) 0) 0 |>.fset
      (Reg.REG_BASE_L_BASE_L (rsetLink 2) 0) 0 |>.fset (Reg.REG_LIMIT_H_LIMIT_H (rsetLink 2) 0) 0xffff |>.fset
      (Reg.REG_LIMIT_L_LIMIT_L (rsetLink 2) 0) 0xfffff |>.fset (Reg.IBL_GEN_CUR 2) 2, (.link 2 (BitVec.ofNat 30 (ioCoord
      0 6 0 0 + 9 * 2 ^ 22))), (BitVec.ofNat 22 (tileCoord 0 2 0)), 0x80000000205, (List.replicate 32 7), .none, 2,
      (BitVec.ofNat 30 (ioCoord 0 6 0 0 + 9 * 2 ^ 22)), .aon, 3, by decide +kernel⟩,
    ⟨running |> fun (s : State) => (kvUnits.foldl (fun (s : State) x => s.foff (Reg.ING_KV_CFG_EN x.1 x.2))
      ({ s with bad := [], ifaces := [], mem := s.mem.put 0x80000000203 9 } : State)).foff Reg.INST_STATUS_COCOON |>.fon
      (Reg.REG_LIMIT_H_EN (rsetLink 2) 0) |>.fon (Reg.REG_LIMIT_H_R (rsetLink 2) 0) |>.fon (Reg.REG_LIMIT_H_W (rsetLink
      2) 0) |>.fon (Reg.REG_LIMIT_H_A (rsetLink 2) 0) |>.fset (Reg.REG_BASE_H_BASE_H (rsetLink 2) 0) 0 |>.fset
      (Reg.REG_BASE_L_BASE_L (rsetLink 2) 0) 0 |>.fset (Reg.REG_LIMIT_H_LIMIT_H (rsetLink 2) 0) 0xffff |>.fset
      (Reg.REG_LIMIT_L_LIMIT_L (rsetLink 2) 0) 0xfffff |>.fset (Reg.IBL_GEN_CUR 2) 2, (.own .aon), 0, 0x80000000205,
      (List.replicate 32 7), .none, 2, (BitVec.ofNat 30 (ioCoord 0 6 0 0 + 9 * 2 ^ 22)), .aon, 3, by decide +kernel⟩,
    ⟨running |> fun (s : State) => (kvUnits.foldl (fun (s : State) x => s.foff (Reg.ING_KV_CFG_EN x.1 x.2))
      ({ s with bad := [], ifaces := [], mem := s.mem.put 0x80000000203 9 } : State)).foff Reg.INST_STATUS_COCOON |>.fon
      (Reg.REG_LIMIT_H_EN (rsetLink 2) 0) |>.fon (Reg.REG_LIMIT_H_R (rsetLink 2) 0) |>.fon (Reg.REG_LIMIT_H_W (rsetLink
      2) 0) |>.fon (Reg.REG_LIMIT_H_A (rsetLink 2) 0) |>.fset (Reg.REG_BASE_H_BASE_H (rsetLink 2) 0) 0 |>.fset
      (Reg.REG_BASE_L_BASE_L (rsetLink 2) 0) 0 |>.fset (Reg.REG_LIMIT_H_LIMIT_H (rsetLink 2) 0) 0xffff |>.fset
      (Reg.REG_LIMIT_L_LIMIT_L (rsetLink 2) 0) 0xfffff |>.fset (Reg.IBL_GEN_CUR 2) 2, (.own .aon), 0, 0x80100000205,
      (List.replicate 32 7), .none, 2, (BitVec.ofNat 30 (ioCoord 0 6 0 0 + 9 * 2 ^ 22)), .aon, 3, by decide +kernel⟩,
    ⟨running |> fun (s : State) => (kvUnits.foldl (fun (s : State) x => s.foff (Reg.ING_KV_CFG_EN x.1 x.2))
      ({ s with bad := [], ifaces := [], mem := s.mem.put 0x80000000203 9 } : State)).foff Reg.INST_STATUS_COCOON |> fun
      s => forN 16 (fun j s => s.foff (Reg.REG_LIMIT_H_EN (rsetLink 2) j)) s |>.fset (Reg.IBL_GEN_CUR 2) 2, (.link 2
      (BitVec.ofNat 30 (ioCoord 0 6 0 0 + 9 * 2 ^ 22))), (BitVec.ofNat 22 (tileCoord 0 2 0)), 0x80000000205,
      (List.replicate 32 7), .none, 2, (BitVec.ofNat 30 (ioCoord 0 6 0 0 + 9 * 2 ^ 22)), .aon, by decide +kernel⟩,
    ⟨running |> fun (s : State) => (kvUnits.foldl (fun (s : State) x => s.foff (Reg.ING_KV_CFG_EN x.1 x.2))
      ({ s with bad := [], ifaces := [], mem := s.mem.put 0x80000000203 9 } : State)).foff Reg.INST_STATUS_COCOON |> fun
      s => forN 16 (fun j s => s.foff (Reg.REG_LIMIT_H_EN rsetApp j)) s |>.fset (Reg.IBL_GEN_CUR 2) 2, (.own (.app 2
      true)), 0, 0x80000000205, (List.replicate 32 7), .none, 2, (BitVec.ofNat 30 (ioCoord 0 6 0 0 + 9 * 2 ^ 22)), (.app
      2 true), by decide +kernel⟩,
    ⟨running |> fun (s : State) => (kvUnits.foldl (fun (s : State) x => s.foff (Reg.ING_KV_CFG_EN x.1 x.2))
      ({ s with bad := [], ifaces := [], mem := s.mem.put 0x80000000203 9 } : State)).foff Reg.INST_STATUS_COCOON |>.fset
      Reg.INST_STATUS_STAGE 7 |> fun s => forN 16 (fun j s => s.foff (Reg.REG_LIMIT_H_EN rsetPcie j)) s |>.fset
      (Reg.IBL_GEN_CUR 2) 2, (.own .pcie), 0, 0x80000000205, (List.replicate 32 7), .none, 2, (BitVec.ofNat 30 (ioCoord 0
      6 0 0 + 9 * 2 ^ 22)), .pcie, by decide +kernel⟩,
    ⟨running |> fun (s : State) => (kvUnits.foldl (fun (s : State) x => s.foff (Reg.ING_KV_CFG_EN x.1 x.2))
      ({ s with bad := [], ifaces := [], mem := s.mem.put 0x80000000203 9 } : State)).foff Reg.INST_STATUS_COCOON |>.fon
      (Reg.REG_LIMIT_H_EN (rsetLink 2) 0) |>.fon (Reg.REG_LIMIT_H_R (rsetLink 2) 0) |>.fon (Reg.REG_LIMIT_H_W (rsetLink
      2) 0) |>.fon (Reg.REG_LIMIT_H_A (rsetLink 2) 0) |>.fset (Reg.REG_BASE_H_BASE_H (rsetLink 2) 0) 0 |>.fset
      (Reg.REG_BASE_L_BASE_L (rsetLink 2) 0) 0 |>.fset (Reg.REG_LIMIT_H_LIMIT_H (rsetLink 2) 0) 0xffff |>.fset
      (Reg.REG_LIMIT_L_LIMIT_L (rsetLink 2) 0) 0xfffff |>.fset (Reg.IBL_GEN_CUR 2) 2, (.link 2 (BitVec.ofNat 30 (ioCoord
      0 6 0 0 + 9 * 2 ^ 22))), (BitVec.ofNat 22 (ioCoord 0 6 1 3)), 0x80000000205, (List.replicate 32 7), .none, 2,
      (BitVec.ofNat 30 (ioCoord 0 6 0 0 + 9 * 2 ^ 22)), by decide +kernel⟩,
    ⟨running.fset Reg.INST_STATUS_STAGE 0, (.own .pcie), 0, 0x80000000205, (List.replicate 32 7), .none,
      by decide +kernel⟩,
    ⟨running.foff Reg.TRU_STATUS_DBG_OPEN, (.own .jtag), 0, 0x80000000205, (List.replicate 32 7), .none,
      by decide +kernel⟩,
    ⟨running |> fun (s : State) => (kvUnits.foldl (fun (s : State) x => s.foff (Reg.ING_KV_CFG_EN x.1 x.2))
      ({ s with bad := [], ifaces := [], mem := s.mem.put 0x80000000203 9 } : State)).foff Reg.INST_STATUS_COCOON |>.fon
      (Reg.REG_LIMIT_H_EN (rsetLink 2) 0) |>.fon (Reg.REG_LIMIT_H_R (rsetLink 2) 0) |>.fon (Reg.REG_LIMIT_H_W (rsetLink
      2) 0) |>.fon (Reg.REG_LIMIT_H_A (rsetLink 2) 0) |>.fset (Reg.REG_BASE_H_BASE_H (rsetLink 2) 0) 0 |>.fset
      (Reg.REG_BASE_L_BASE_L (rsetLink 2) 0) 0 |>.fset (Reg.REG_LIMIT_H_LIMIT_H (rsetLink 2) 0) 0xffff |>.fset
      (Reg.REG_LIMIT_L_LIMIT_L (rsetLink 2) 0) 0xfffff |>.fset (Reg.IBL_GEN_CUR 2) 2, (.link 2 (BitVec.ofNat 30 (ioCoord
      0 6 0 0 + 9 * 2 ^ 22))), (BitVec.ofNat 22 (tileCoord 0 2 0)), 0x84000000000, (List.replicate 32 7), .none, 2,
      (BitVec.ofNat 30 (ioCoord 0 6 0 0 + 9 * 2 ^ 22)), .aon, by decide +kernel⟩,
    ⟨running |> fun (s : State) => (kvUnits.foldl (fun (s : State) x => s.foff (Reg.ING_KV_CFG_EN x.1 x.2))
      ({ s with bad := [], ifaces := [], mem := s.mem.put 0x80000000203 9 } : State)).foff Reg.INST_STATUS_COCOON |>.fon
      (Reg.REG_LIMIT_H_EN (rsetLink 2) 0) |>.fon (Reg.REG_LIMIT_H_R (rsetLink 2) 0) |>.fon (Reg.REG_LIMIT_H_W (rsetLink
      2) 0) |>.fon (Reg.REG_LIMIT_H_A (rsetLink 2) 0) |>.fset (Reg.REG_BASE_H_BASE_H (rsetLink 2) 0) 0 |>.fset
      (Reg.REG_BASE_L_BASE_L (rsetLink 2) 0) 0 |>.fset (Reg.REG_LIMIT_H_LIMIT_H (rsetLink 2) 0) 0xffff |>.fset
      (Reg.REG_LIMIT_L_LIMIT_L (rsetLink 2) 0) 0xfffff |>.fset (Reg.IBL_GEN_CUR 2) 2, (.own .aon), 0, 0x84000000000,
      (List.replicate 32 7), .none, 2, (BitVec.ofNat 30 (ioCoord 0 6 0 0 + 9 * 2 ^ 22)), .aon, by decide +kernel⟩,
    ⟨running |> fun (s : State) => (kvUnits.foldl (fun (s : State) x => s.foff (Reg.ING_KV_CFG_EN x.1 x.2))
      ({ s with bad := [], ifaces := [], mem := s.mem.put 0x80000000203 9 } : State)).foff Reg.INST_STATUS_COCOON |>.fon
      (Reg.REG_LIMIT_H_EN (rsetLink 2) 0) |>.fon (Reg.REG_LIMIT_H_R (rsetLink 2) 0) |>.fon (Reg.REG_LIMIT_H_W (rsetLink
      2) 0) |>.fon (Reg.REG_LIMIT_H_A (rsetLink 2) 0) |>.fset (Reg.REG_BASE_H_BASE_H (rsetLink 2) 0) 0 |>.fset
      (Reg.REG_BASE_L_BASE_L (rsetLink 2) 0) 0 |>.fset (Reg.REG_LIMIT_H_LIMIT_H (rsetLink 2) 0) 0xffff |>.fset
      (Reg.REG_LIMIT_L_LIMIT_L (rsetLink 2) 0) 0xfffff |> fun (s : State) => s.fset (Reg.DDR_CFG_CAP 0) 3 |> fun (s :
      State) => s.fon (Reg.DDR_CTL_EN (s.ddrChan 0x20000)) |>.fon (Reg.DDR_STATUS_TRAINED (s.ddrChan 0x20000)) |>.foff
      (Reg.DDR_STATUS_FAILED (s.ddrChan 0x20000)) |>.fon (Reg.DDR_STATUS_RETRAINING (s.ddrChan 0x20000)) |>.foff
      (Reg.PWR_ISL_CTL_OFF (74 + s.ddrChan 0x20000)) |>.fset (Reg.PWR_ISL_STAT_STATE (74 + s.ddrChan 0x20000)) 0, (.own
      .aon), 0, 0x20000, (List.replicate 32 7), .none, 2, (BitVec.ofNat 30 (ioCoord 0 6 0 0 + 9 * 2 ^ 22)), .aon,
      by decide +kernel⟩,
    ⟨running, (.own .aon), 0, 0x20000, (List.replicate 32 7), .none, 2, (BitVec.ofNat 30 (ioCoord 0 6 0 0 + 9 * 2 ^ 22)),
      .aon, by decide +kernel⟩,
    ⟨running |> fun (s : State) => (kvUnits.foldl (fun (s : State) x => s.foff (Reg.ING_KV_CFG_EN x.1 x.2))
      ({ s with bad := [], ifaces := [], mem := s.mem.put 0x80000000203 9 } : State)).foff Reg.INST_STATUS_COCOON |>.fon
      (Reg.REG_LIMIT_H_EN (rsetLink 2) 0) |>.fon (Reg.REG_LIMIT_H_R (rsetLink 2) 0) |>.fon (Reg.REG_LIMIT_H_W (rsetLink
      2) 0) |>.fon (Reg.REG_LIMIT_H_A (rsetLink 2) 0) |>.fset (Reg.REG_BASE_H_BASE_H (rsetLink 2) 0) 0 |>.fset
      (Reg.REG_BASE_L_BASE_L (rsetLink 2) 0) 0 |>.fset (Reg.REG_LIMIT_H_LIMIT_H (rsetLink 2) 0) 0xffff |>.fset
      (Reg.REG_LIMIT_L_LIMIT_L (rsetLink 2) 0) 0xfffff |> fun (s : State) => s.fset (Reg.DDR_CFG_CAP 0) 3 |> fun (s :
      State) => s.fon (Reg.DDR_CTL_EN (s.ddrChan 0x20000)) |>.fon (Reg.DDR_STATUS_TRAINED (s.ddrChan 0x20000)) |>.foff
      (Reg.DDR_STATUS_FAILED (s.ddrChan 0x20000)) |>.foff (Reg.DDR_STATUS_RETRAINING (s.ddrChan 0x20000)) |>.foff
      (Reg.PWR_ISL_CTL_OFF (74 + s.ddrChan 0x20000)) |>.fset (Reg.PWR_ISL_STAT_STATE (74 + s.ddrChan 0x20000)) 0 |>.foff
      (Reg.PWR_ISL_CTL_OFF 74) |>.foff (Reg.PWR_ISL_CTL_OFF 75) |>.fset (Reg.IBL_GEN_CUR 2) 2, (.link 2 (BitVec.ofNat 30
      (ioCoord 0 6 0 0 + 9 * 2 ^ 22))), (BitVec.ofNat 22 (ioCoord 0 1 (((running |> fun (s : State) => (kvUnits.foldl
      (fun (s : State) x => s.foff (Reg.ING_KV_CFG_EN x.1 x.2))
      ({ s with bad := [], ifaces := [], mem := s.mem.put 0x80000000203 9 } : State)).foff Reg.INST_STATUS_COCOON |>.fon
      (Reg.REG_LIMIT_H_EN (rsetLink 2) 0) |>.fon (Reg.REG_LIMIT_H_R (rsetLink 2) 0) |>.fon (Reg.REG_LIMIT_H_W (rsetLink
      2) 0) |>.fon (Reg.REG_LIMIT_H_A (rsetLink 2) 0) |>.fset (Reg.REG_BASE_H_BASE_H (rsetLink 2) 0) 0 |>.fset
      (Reg.REG_BASE_L_BASE_L (rsetLink 2) 0) 0 |>.fset (Reg.REG_LIMIT_H_LIMIT_H (rsetLink 2) 0) 0xffff |>.fset
      (Reg.REG_LIMIT_L_LIMIT_L (rsetLink 2) 0) 0xfffff |> fun (s : State) => s.fset (Reg.DDR_CFG_CAP 0) 3 |> fun (s :
      State) => s.fon (Reg.DDR_CTL_EN (s.ddrChan 0x20000)) |>.fon (Reg.DDR_STATUS_TRAINED (s.ddrChan 0x20000)) |>.foff
      (Reg.DDR_STATUS_FAILED (s.ddrChan 0x20000)) |>.foff (Reg.DDR_STATUS_RETRAINING (s.ddrChan 0x20000)) |>.foff
      (Reg.PWR_ISL_CTL_OFF (74 + s.ddrChan 0x20000)) |>.fset (Reg.PWR_ISL_STAT_STATE (74 + s.ddrChan 0x20000)) 0 |>.foff
      (Reg.PWR_ISL_CTL_OFF 74) |>.foff (Reg.PWR_ISL_CTL_OFF 75) |>.fset (Reg.IBL_GEN_CUR 2) 2 : State).ddrChan 0x20000 +
      1) % 2) 0)), 0x20000, (List.replicate 32 7), .none, 2, (BitVec.ofNat 30 (ioCoord 0 6 0 0 + 9 * 2 ^ 22)), ((running
      |> fun (s : State) => (kvUnits.foldl (fun (s : State) x => s.foff (Reg.ING_KV_CFG_EN x.1 x.2))
      ({ s with bad := [], ifaces := [], mem := s.mem.put 0x80000000203 9 } : State)).foff Reg.INST_STATUS_COCOON |>.fon
      (Reg.REG_LIMIT_H_EN (rsetLink 2) 0) |>.fon (Reg.REG_LIMIT_H_R (rsetLink 2) 0) |>.fon (Reg.REG_LIMIT_H_W (rsetLink
      2) 0) |>.fon (Reg.REG_LIMIT_H_A (rsetLink 2) 0) |>.fset (Reg.REG_BASE_H_BASE_H (rsetLink 2) 0) 0 |>.fset
      (Reg.REG_BASE_L_BASE_L (rsetLink 2) 0) 0 |>.fset (Reg.REG_LIMIT_H_LIMIT_H (rsetLink 2) 0) 0xffff |>.fset
      (Reg.REG_LIMIT_L_LIMIT_L (rsetLink 2) 0) 0xfffff |> fun (s : State) => s.fset (Reg.DDR_CFG_CAP 0) 3 |> fun (s :
      State) => s.fon (Reg.DDR_CTL_EN (s.ddrChan 0x20000)) |>.fon (Reg.DDR_STATUS_TRAINED (s.ddrChan 0x20000)) |>.foff
      (Reg.DDR_STATUS_FAILED (s.ddrChan 0x20000)) |>.foff (Reg.DDR_STATUS_RETRAINING (s.ddrChan 0x20000)) |>.foff
      (Reg.PWR_ISL_CTL_OFF (74 + s.ddrChan 0x20000)) |>.fset (Reg.PWR_ISL_STAT_STATE (74 + s.ddrChan 0x20000)) 0 |>.foff
      (Reg.PWR_ISL_CTL_OFF 74) |>.foff (Reg.PWR_ISL_CTL_OFF 75) |>.fset (Reg.IBL_GEN_CUR 2) 2 : State).ddrChan 0x20000),
      by decide +kernel⟩,
    ⟨running |> fun (s : State) => (kvUnits.foldl (fun (s : State) x => s.foff (Reg.ING_KV_CFG_EN x.1 x.2))
      ({ s with bad := [], ifaces := [], mem := s.mem.put 0x80000000203 9 } : State)).foff Reg.INST_STATUS_COCOON |>.fon
      (Reg.REG_LIMIT_H_EN (rsetLink 2) 0) |>.fon (Reg.REG_LIMIT_H_R (rsetLink 2) 0) |>.fon (Reg.REG_LIMIT_H_W (rsetLink
      2) 0) |>.fon (Reg.REG_LIMIT_H_A (rsetLink 2) 0) |>.fset (Reg.REG_BASE_H_BASE_H (rsetLink 2) 0) 0 |>.fset
      (Reg.REG_BASE_L_BASE_L (rsetLink 2) 0) 0 |>.fset (Reg.REG_LIMIT_H_LIMIT_H (rsetLink 2) 0) 0xffff |>.fset
      (Reg.REG_LIMIT_L_LIMIT_L (rsetLink 2) 0) 0xfffff |>.fset (Reg.IBL_GEN_CUR 2) 2, (.link 2 (BitVec.ofNat 30 (ioCoord
      0 6 0 0 + 9 * 2 ^ 22))), (BitVec.ofNat 22 (tileCoord 0 2 0)), 0x80000000205, (List.replicate 32 7), .none,
      by decide +kernel⟩,
    ⟨running |> fun (s : State) => (kvUnits.foldl (fun (s : State) x => s.foff (Reg.ING_KV_CFG_EN x.1 x.2))
      ({ s with bad := [], ifaces := [], mem := s.mem.put 0x80000000203 9 } : State)).foff Reg.INST_STATUS_COCOON |>.fon
      (Reg.REG_LIMIT_H_EN (rsetLink 2) 0) |>.fon (Reg.REG_LIMIT_H_R (rsetLink 2) 0) |>.fon (Reg.REG_LIMIT_H_W (rsetLink
      2) 0) |>.fon (Reg.REG_LIMIT_H_A (rsetLink 2) 0) |>.fset (Reg.REG_BASE_H_BASE_H (rsetLink 2) 0) 0 |>.fset
      (Reg.REG_BASE_L_BASE_L (rsetLink 2) 0) 0 |>.fset (Reg.REG_LIMIT_H_LIMIT_H (rsetLink 2) 0) 0xffff |>.fset
      (Reg.REG_LIMIT_L_LIMIT_L (rsetLink 2) 0) 0xfffff |>.fset (Reg.IBL_GEN_CUR 2) 1, (.link 2 (BitVec.ofNat 30 (ioCoord
      0 6 0 0 + 9 * 2 ^ 22))), (BitVec.ofNat 22 (tileCoord 0 2 0)), 0x80000000205, (List.replicate 32 7), .none, 2,
      (BitVec.ofNat 30 (ioCoord 0 6 0 0 + 9 * 2 ^ 22)), by decide +kernel⟩⟩

theorem test_atomReq_can_run :
    (∃ (s : State) (via : Via) (dst : BitVec 22) (a : BitVec 48) (op : BitVec 8) (x : BitVec 64) (y : BitVec 64) (ecc :
      Ecc) (k : Fin 12) (src : BitVec 30) (m : Master) (p l : Nat) (v : Bool), s.canonical = true ∧ s.down = false ∧ (via
      = .own .pcie → s.barOpen = true) ∧ (via = .own .jtag → s.fbit Reg.TRU_STATUS_DBG_OPEN = true) ∧ (via = .link k src
      → s.endpointThere dst.toNat = true) ∧ (via = .link k src ∨ via = .own m) ∧ p =
      (match (match via with | .own m => (privateOff m a.toNat).filter (fun (p : Nat × Nat) => ownMemory p.1 p.2 (if op.toNat % 2 = 0 then 4 else 8)) | .link _ _ => none) with | some x => ownAddr x.1 x.2 | none => viaAddr via a.toNat)
      ∧ l = localPart p ∧ v =
      ((match via with | .own m => (privateOff m a.toNat).filter (fun (p : Nat × Nat) => ownMemory p.1 p.2 (if op.toNat % 2 = 0 then 4 else 8)) | .link _ _ => none)).isSome
      ∧ (v || s.allows (viaWho via) 2 p (if op.toNat % 2 = 0 then 4 else 8)) = true ∧ op.toNat ≤ lastAtom via ∧ op.toNat
      < 20 ∧ l % (if op.toNat % 2 = 0 then 4 else 8) = 0 ∧ atomPlace l = true ∧ s.served l = 0 ∧ ecc = .none ∧ s.bad = []
      ∧ (kvUnits.any fun x => s.fbit (Reg.ING_KV_CFG_EN x.1 x.2)) = false ∧ via = .link k src ∧ coDev src.toNat =
      s.devid) ∧
    (∃ (s : State) (via : Via) (dst : BitVec 22) (a : BitVec 48) (op : BitVec 8) (x : BitVec 64) (y : BitVec 64) (ecc :
      Ecc) (k : Fin 12) (src : BitVec 30) (m : Master) (p l : Nat) (v : Bool), s.canonical = true ∧ s.down = false ∧ (via
      = .own .pcie → s.barOpen = true) ∧ (via = .own .jtag → s.fbit Reg.TRU_STATUS_DBG_OPEN = true) ∧ (via = .link k src
      → s.endpointThere dst.toNat = true) ∧ (via = .link k src ∨ via = .own m) ∧ p =
      (match (match via with | .own m => (privateOff m a.toNat).filter (fun (p : Nat × Nat) => ownMemory p.1 p.2 (if op.toNat % 2 = 0 then 4 else 8)) | .link _ _ => none) with | some x => ownAddr x.1 x.2 | none => viaAddr via a.toNat)
      ∧ l = localPart p ∧ v =
      ((match via with | .own m => (privateOff m a.toNat).filter (fun (p : Nat × Nat) => ownMemory p.1 p.2 (if op.toNat % 2 = 0 then 4 else 8)) | .link _ _ => none)).isSome
      ∧ (v || s.allows (viaWho via) 2 p (if op.toNat % 2 = 0 then 4 else 8)) = true ∧ op.toNat ≤ lastAtom via ∧ op.toNat
      < 20 ∧ l % (if op.toNat % 2 = 0 then 4 else 8) = 0 ∧ atomPlace l = true ∧ s.served l = 0 ∧ ecc = .none ∧ s.bad = []
      ∧ (kvUnits.any fun x => s.fbit (Reg.ING_KV_CFG_EN x.1 x.2)) = false ∧ via = .own m) ∧
    (∃ (s : State) (via : Via) (dst : BitVec 22) (a : BitVec 48) (op : BitVec 8) (x : BitVec 64) (y : BitVec 64) (ecc :
      Ecc) (c : Fin 128) (p l : Nat) (v : Bool), s.canonical = true ∧ s.down = false ∧ p =
      (match (match via with | .own m => (privateOff m a.toNat).filter (fun (p : Nat × Nat) => ownMemory p.1 p.2 (if op.toNat % 2 = 0 then 4 else 8)) | .link _ _ => none) with | some x => ownAddr x.1 x.2 | none => viaAddr via a.toNat)
      ∧ l = localPart p ∧ v =
      ((match via with | .own m => (privateOff m a.toNat).filter (fun (p : Nat × Nat) => ownMemory p.1 p.2 (if op.toNat % 2 = 0 then 4 else 8)) | .link _ _ => none)).isSome
      ∧ (v || s.allows (viaWho via) 2 p (if op.toNat % 2 = 0 then 4 else 8)) = true ∧ via = .own (.seq c) ∧ op.toNat / 2
      = 10 ∧ l % (if op.toNat % 2 = 0 then 4 else 8) = 0 ∧ atomPlace l = true ∧ s.served l = 0 ∧ ecc = .none ∧ s.bad = []
      ∧ (kvUnits.any fun x => s.fbit (Reg.ING_KV_CFG_EN x.1 x.2)) = false) ∧
    (∃ (s : State) (via : Via) (dst : BitVec 22) (a : BitVec 48) (op : BitVec 8) (x : BitVec 64) (y : BitVec 64) (ecc :
      Ecc) (c : Fin 128) (p l : Nat) (v : Bool) (w : Nat) (o : Bool), s.canonical = true ∧ s.down = false ∧ p =
      (match (match via with | .own m => (privateOff m a.toNat).filter (fun (p : Nat × Nat) => ownMemory p.1 p.2 (if op.toNat % 2 = 0 then 4 else 8)) | .link _ _ => none) with | some x => ownAddr x.1 x.2 | none => viaAddr via a.toNat)
      ∧ l = localPart p ∧ v =
      ((match via with | .own m => (privateOff m a.toNat).filter (fun (p : Nat × Nat) => ownMemory p.1 p.2 (if op.toNat % 2 = 0 then 4 else 8)) | .link _ _ => none)).isSome
      ∧ (v || s.allows (viaWho via) 2 p (if op.toNat % 2 = 0 then 4 else 8)) = true ∧ via = .own (.seq c) ∧ op.toNat / 2
      = 11 ∧ l % (if op.toNat % 2 = 0 then 4 else 8) = 0 ∧ atomPlace l = true ∧ s.served l = 0 ∧ ecc = .none ∧ o =
      (match placeOf l with | .seqMem j _ => decide (c.val = j) | _ => false) ∧ s.bad = [] ∧ (kvUnits.any fun x => s.fbit
      (Reg.ING_KV_CFG_EN x.1 x.2)) = false ∧ (s.seq c).lr = some (l, (if op.toNat % 2 = 0 then 4 else 8), w) ∧ (o = true
      ∨ (s.mnat l (if op.toNat % 2 = 0 then 4 else 8)) = w)) ∧
    (∃ (s : State) (via : Via) (dst : BitVec 22) (a : BitVec 48) (op : BitVec 8) (x : BitVec 64) (y : BitVec 64) (ecc :
      Ecc) (c : Fin 128) (p l : Nat) (v : Bool) (w : Nat) (o : Bool), s.canonical = true ∧ s.down = false ∧ p =
      (match (match via with | .own m => (privateOff m a.toNat).filter (fun (p : Nat × Nat) => ownMemory p.1 p.2 (if op.toNat % 2 = 0 then 4 else 8)) | .link _ _ => none) with | some x => ownAddr x.1 x.2 | none => viaAddr via a.toNat)
      ∧ l = localPart p ∧ v =
      ((match via with | .own m => (privateOff m a.toNat).filter (fun (p : Nat × Nat) => ownMemory p.1 p.2 (if op.toNat % 2 = 0 then 4 else 8)) | .link _ _ => none)).isSome
      ∧ (v || s.allows (viaWho via) 2 p (if op.toNat % 2 = 0 then 4 else 8)) = true ∧ via = .own (.seq c) ∧ op.toNat / 2
      = 11 ∧ l % (if op.toNat % 2 = 0 then 4 else 8) = 0 ∧ atomPlace l = true ∧ s.served l = 0 ∧ ecc = .none ∧ o =
      (match placeOf l with | .seqMem j _ => decide (c.val = j) | _ => false) ∧ s.bad = [] ∧ (kvUnits.any fun x => s.fbit
      (Reg.ING_KV_CFG_EN x.1 x.2)) = false ∧ ((s.seq c).lr.all (fun z => decide (z.1 ≠ l ∨ z.2.1 ≠ (if op.toNat % 2 = 0
      then 4 else 8))) = true)) ∧
    (∃ (s : State) (via : Via) (dst : BitVec 22) (a : BitVec 48) (op : BitVec 8) (x : BitVec 64) (y : BitVec 64) (ecc :
      Ecc) (c : Fin 128) (p l : Nat) (v : Bool) (w : Nat) (o : Bool), s.canonical = true ∧ s.down = false ∧ p =
      (match (match via with | .own m => (privateOff m a.toNat).filter (fun (p : Nat × Nat) => ownMemory p.1 p.2 (if op.toNat % 2 = 0 then 4 else 8)) | .link _ _ => none) with | some x => ownAddr x.1 x.2 | none => viaAddr via a.toNat)
      ∧ l = localPart p ∧ v =
      ((match via with | .own m => (privateOff m a.toNat).filter (fun (p : Nat × Nat) => ownMemory p.1 p.2 (if op.toNat % 2 = 0 then 4 else 8)) | .link _ _ => none)).isSome
      ∧ (v || s.allows (viaWho via) 2 p (if op.toNat % 2 = 0 then 4 else 8)) = true ∧ via = .own (.seq c) ∧ op.toNat / 2
      = 11 ∧ l % (if op.toNat % 2 = 0 then 4 else 8) = 0 ∧ atomPlace l = true ∧ s.served l = 0 ∧ ecc = .none ∧ o =
      (match placeOf l with | .seqMem j _ => decide (c.val = j) | _ => false) ∧ s.bad = [] ∧ (kvUnits.any fun x => s.fbit
      (Reg.ING_KV_CFG_EN x.1 x.2)) = false ∧ (s.seq c).lr = some (l, (if op.toNat % 2 = 0 then 4 else 8), w) ∧ o = false
      ∧ (s.mnat l (if op.toNat % 2 = 0 then 4 else 8)) ≠ w) ∧
    (∃ (s : State) (via : Via) (dst : BitVec 22) (a : BitVec 48) (op : BitVec 8) (x : BitVec 64) (y : BitVec 64) (ecc :
      Ecc) (k : Fin 12) (src : BitVec 30) (m : Master) (p l : Nat) (v : Bool), s.canonical = true ∧ s.down = false ∧ (via
      = .own .pcie → s.barOpen = true) ∧ (via = .own .jtag → s.fbit Reg.TRU_STATUS_DBG_OPEN = true) ∧ (via = .link k src
      → s.endpointThere dst.toNat = true) ∧ (via = .link k src ∨ via = .own m) ∧ p =
      (match (match via with | .own m => (privateOff m a.toNat).filter (fun (p : Nat × Nat) => ownMemory p.1 p.2 (if op.toNat % 2 = 0 then 4 else 8)) | .link _ _ => none) with | some x => ownAddr x.1 x.2 | none => viaAddr via a.toNat)
      ∧ l = localPart p ∧ v =
      ((match via with | .own m => (privateOff m a.toNat).filter (fun (p : Nat × Nat) => ownMemory p.1 p.2 (if op.toNat % 2 = 0 then 4 else 8)) | .link _ _ => none)).isSome
      ∧ (v || s.allows (viaWho via) 2 p (if op.toNat % 2 = 0 then 4 else 8)) = true ∧ (lastAtom via < op.toNat ∨ l % (if
      op.toNat % 2 = 0 then 4 else 8) ≠ 0 ∨ atomPlace l = false) ∧ via = .link k src ∧ coDev src.toNat = s.devid) ∧
    (∃ (s : State) (via : Via) (dst : BitVec 22) (a : BitVec 48) (op : BitVec 8) (x : BitVec 64) (y : BitVec 64) (ecc :
      Ecc) (k : Fin 12) (src : BitVec 30) (m : Master) (p l : Nat) (v : Bool), s.canonical = true ∧ s.down = false ∧ (via
      = .own .pcie → s.barOpen = true) ∧ (via = .own .jtag → s.fbit Reg.TRU_STATUS_DBG_OPEN = true) ∧ (via = .link k src
      → s.endpointThere dst.toNat = true) ∧ (via = .link k src ∨ via = .own m) ∧ p =
      (match (match via with | .own m => (privateOff m a.toNat).filter (fun (p : Nat × Nat) => ownMemory p.1 p.2 (if op.toNat % 2 = 0 then 4 else 8)) | .link _ _ => none) with | some x => ownAddr x.1 x.2 | none => viaAddr via a.toNat)
      ∧ l = localPart p ∧ v =
      ((match via with | .own m => (privateOff m a.toNat).filter (fun (p : Nat × Nat) => ownMemory p.1 p.2 (if op.toNat % 2 = 0 then 4 else 8)) | .link _ _ => none)).isSome
      ∧ (v || s.allows (viaWho via) 2 p (if op.toNat % 2 = 0 then 4 else 8)) = true ∧ (lastAtom via < op.toNat ∨ l % (if
      op.toNat % 2 = 0 then 4 else 8) ≠ 0 ∨ atomPlace l = false) ∧ via = .own m) ∧
    (∃ (s : State) (via : Via) (dst : BitVec 22) (a : BitVec 48) (op : BitVec 8) (x : BitVec 64) (y : BitVec 64) (ecc :
      Ecc) (k : Fin 12) (src : BitVec 30) (m : Master), s.canonical = true ∧ s.down = false ∧ (via = .own .pcie →
      s.barOpen = true) ∧ (via = .own .jtag → s.fbit Reg.TRU_STATUS_DBG_OPEN = true) ∧ (via = .link k src →
      s.endpointThere dst.toNat = true) ∧ (via = .link k src ∨ via = .own m) ∧ s.allows (viaWho via) 2 (viaAddr via
      a.toNat) (if op.toNat % 2 = 0 then 4 else 8) = false ∧
      (match via with | .own m => (privateOff m a.toNat).filter (fun (p : Nat × Nat) => ownMemory p.1 p.2 (if op.toNat % 2 = 0 then 4 else 8)) | .link _ _ => none)
      = none ∧ via = .link k src ∧ coDev src.toNat = s.devid) ∧
    (∃ (s : State) (via : Via) (dst : BitVec 22) (a : BitVec 48) (op : BitVec 8) (x : BitVec 64) (y : BitVec 64) (ecc :
      Ecc) (k : Fin 12) (src : BitVec 30) (m : Master), s.canonical = true ∧ s.down = false ∧ (via = .own .pcie →
      s.barOpen = true) ∧ (via = .own .jtag → s.fbit Reg.TRU_STATUS_DBG_OPEN = true) ∧ (via = .link k src →
      s.endpointThere dst.toNat = true) ∧ (via = .link k src ∨ via = .own m) ∧ s.allows (viaWho via) 2 (viaAddr via
      a.toNat) (if op.toNat % 2 = 0 then 4 else 8) = false ∧
      (match via with | .own m => (privateOff m a.toNat).filter (fun (p : Nat × Nat) => ownMemory p.1 p.2 (if op.toNat % 2 = 0 then 4 else 8)) | .link _ _ => none)
      = none ∧ via = .own m ∧ m ≠ .pcie) ∧
    (∃ (s : State) (via : Via) (dst : BitVec 22) (a : BitVec 48) (op : BitVec 8) (x : BitVec 64) (y : BitVec 64) (ecc :
      Ecc) (k : Fin 12) (src : BitVec 30) (m : Master), s.canonical = true ∧ s.down = false ∧ (via = .own .pcie →
      s.barOpen = true) ∧ (via = .own .jtag → s.fbit Reg.TRU_STATUS_DBG_OPEN = true) ∧ (via = .link k src →
      s.endpointThere dst.toNat = true) ∧ (via = .link k src ∨ via = .own m) ∧ s.allows (viaWho via) 2 (viaAddr via
      a.toNat) (if op.toNat % 2 = 0 then 4 else 8) = false ∧
      (match via with | .own m => (privateOff m a.toNat).filter (fun (p : Nat × Nat) => ownMemory p.1 p.2 (if op.toNat % 2 = 0 then 4 else 8)) | .link _ _ => none)
      = none ∧ via = .own .pcie) ∧
    (∃ (s : State) (via : Via) (dst : BitVec 22) (a : BitVec 48) (op : BitVec 8) (x : BitVec 64) (y : BitVec 64) (ecc :
      Ecc) (k : Fin 12) (src : BitVec 30), s.canonical = true ∧ s.down = false ∧ via = .link k src ∧ s.endpointThere
      dst.toNat = false ∧ coDev src.toNat = s.devid) ∧
    (∃ (s : State) (via : Via) (dst : BitVec 22) (a : BitVec 48) (op : BitVec 8) (x : BitVec 64) (y : BitVec 64) (ecc :
      Ecc), s.canonical = true ∧ s.down = false ∧ ((via = .own .pcie ∧ s.barOpen = false) ∨ (via = .own .jtag ∧ s.fbit
      Reg.TRU_STATUS_DBG_OPEN = false)) ∧ via = .own .pcie) ∧
    (∃ (s : State) (via : Via) (dst : BitVec 22) (a : BitVec 48) (op : BitVec 8) (x : BitVec 64) (y : BitVec 64) (ecc :
      Ecc), s.canonical = true ∧ s.down = false ∧ ((via = .own .pcie ∧ s.barOpen = false) ∨ (via = .own .jtag ∧ s.fbit
      Reg.TRU_STATUS_DBG_OPEN = false)) ∧ via = .own .jtag) ∧
    (∃ (s : State) (via : Via) (dst : BitVec 22) (a : BitVec 48) (op : BitVec 8) (x : BitVec 64) (y : BitVec 64) (ecc :
      Ecc) (p l : Nat), s.canonical = true ∧ s.down = false ∧ p =
      (match (match via with | .own m => (privateOff m a.toNat).filter (fun (p : Nat × Nat) => ownMemory p.1 p.2 (if op.toNat % 2 = 0 then 4 else 8)) | .link _ _ => none) with | some x => ownAddr x.1 x.2 | none => viaAddr via a.toNat)
      ∧ l = localPart p) :=
  ⟨⟨running |> fun (s : State) => (kvUnits.foldl (fun (s : State) x => s.foff (Reg.ING_KV_CFG_EN x.1 x.2))
      ({ s with bad := [], ifaces := [], mem := s.mem.put 0x80000000203 9 } : State)).foff Reg.INST_STATUS_COCOON |>.fon
      (Reg.REG_LIMIT_H_EN (rsetLink 2) 0) |>.fon (Reg.REG_LIMIT_H_R (rsetLink 2) 0) |>.fon (Reg.REG_LIMIT_H_W (rsetLink
      2) 0) |>.fon (Reg.REG_LIMIT_H_A (rsetLink 2) 0) |>.fset (Reg.REG_BASE_H_BASE_H (rsetLink 2) 0) 0 |>.fset
      (Reg.REG_BASE_L_BASE_L (rsetLink 2) 0) 0 |>.fset (Reg.REG_LIMIT_H_LIMIT_H (rsetLink 2) 0) 0xffff |>.fset
      (Reg.REG_LIMIT_L_LIMIT_L (rsetLink 2) 0) 0xfffff, (.link 2 (BitVec.ofNat 30 (ioCoord 0 6 0 0 + 9 * 2 ^ 22))),
      (BitVec.ofNat 22 (tileCoord 0 2 0)), 0x80000000200, 1, 5, 6, .none, 2, (BitVec.ofNat 30 (ioCoord 0 6 0 0 + 9 * 2 ^
      22)), .aon, 0x80000000200, 0x80000000200, false, by decide +kernel⟩,
    ⟨running |> fun (s : State) => (kvUnits.foldl (fun (s : State) x => s.foff (Reg.ING_KV_CFG_EN x.1 x.2))
      ({ s with bad := [], ifaces := [], mem := s.mem.put 0x80000000203 9 } : State)).foff Reg.INST_STATUS_COCOON |>.fon
      (Reg.REG_LIMIT_H_EN (rsetLink 2) 0) |>.fon (Reg.REG_LIMIT_H_R (rsetLink 2) 0) |>.fon (Reg.REG_LIMIT_H_W (rsetLink
      2) 0) |>.fon (Reg.REG_LIMIT_H_A (rsetLink 2) 0) |>.fset (Reg.REG_BASE_H_BASE_H (rsetLink 2) 0) 0 |>.fset
      (Reg.REG_BASE_L_BASE_L (rsetLink 2) 0) 0 |>.fset (Reg.REG_LIMIT_H_LIMIT_H (rsetLink 2) 0) 0xffff |>.fset
      (Reg.REG_LIMIT_L_LIMIT_L (rsetLink 2) 0) 0xfffff, (.own .aon), (BitVec.ofNat 22 (tileCoord 0 2 0)), 0x80000000200,
      0, 5, 0, .none, 2, (BitVec.ofNat 30 (ioCoord 0 6 0 0 + 9 * 2 ^ 22)), .aon, 0x80000000200, 0x80000000200, false,
      by decide +kernel⟩,
    ⟨running |> fun (s : State) => (kvUnits.foldl (fun (s : State) x => s.foff (Reg.ING_KV_CFG_EN x.1 x.2))
      ({ s with bad := [], ifaces := [], mem := s.mem.put 0x80000000203 9 } : State)).foff Reg.INST_STATUS_COCOON |>.fon
      (Reg.REG_LIMIT_H_EN (rsetLink 2) 0) |>.fon (Reg.REG_LIMIT_H_R (rsetLink 2) 0) |>.fon (Reg.REG_LIMIT_H_W (rsetLink
      2) 0) |>.fon (Reg.REG_LIMIT_H_A (rsetLink 2) 0) |>.fset (Reg.REG_BASE_H_BASE_H (rsetLink 2) 0) 0 |>.fset
      (Reg.REG_BASE_L_BASE_L (rsetLink 2) 0) 0 |>.fset (Reg.REG_LIMIT_H_LIMIT_H (rsetLink 2) 0) 0xffff |>.fset
      (Reg.REG_LIMIT_L_LIMIT_L (rsetLink 2) 0) 0xfffff |>.fon (Reg.REG_LIMIT_H_EN (rsetSeq 20) 0) |>.fon
      (Reg.REG_LIMIT_H_R (rsetSeq 20) 0) |>.fon (Reg.REG_LIMIT_H_W (rsetSeq 20) 0) |>.fon (Reg.REG_LIMIT_H_A (rsetSeq 20)
      0) |>.fset (Reg.REG_BASE_H_BASE_H (rsetSeq 20) 0) 0 |>.fset (Reg.REG_BASE_L_BASE_L (rsetSeq 20) 0) 0 |>.fset
      (Reg.REG_LIMIT_H_LIMIT_H (rsetSeq 20) 0) 0xffff |>.fset (Reg.REG_LIMIT_L_LIMIT_L (rsetSeq 20) 0) 0xfffff, (.own
      (.seq 20)), (BitVec.ofNat 22 (tileCoord 0 2 0)), 0x80000000200, 20, 0, 0, .none, 20, 0x80000000200, 0x80000000200,
      false, by decide +kernel⟩,
    ⟨running |> fun (s : State) => (kvUnits.foldl (fun (s : State) x => s.foff (Reg.ING_KV_CFG_EN x.1 x.2))
      ({ s with bad := [], ifaces := [], mem := s.mem.put 0x80000000203 9 } : State)).foff Reg.INST_STATUS_COCOON |>.fon
      (Reg.REG_LIMIT_H_EN (rsetLink 2) 0) |>.fon (Reg.REG_LIMIT_H_R (rsetLink 2) 0) |>.fon (Reg.REG_LIMIT_H_W (rsetLink
      2) 0) |>.fon (Reg.REG_LIMIT_H_A (rsetLink 2) 0) |>.fset (Reg.REG_BASE_H_BASE_H (rsetLink 2) 0) 0 |>.fset
      (Reg.REG_BASE_L_BASE_L (rsetLink 2) 0) 0 |>.fset (Reg.REG_LIMIT_H_LIMIT_H (rsetLink 2) 0) 0xffff |>.fset
      (Reg.REG_LIMIT_L_LIMIT_L (rsetLink 2) 0) 0xfffff |>.fon (Reg.REG_LIMIT_H_EN (rsetSeq 20) 0) |>.fon
      (Reg.REG_LIMIT_H_R (rsetSeq 20) 0) |>.fon (Reg.REG_LIMIT_H_W (rsetSeq 20) 0) |>.fon (Reg.REG_LIMIT_H_A (rsetSeq 20)
      0) |>.fset (Reg.REG_BASE_H_BASE_H (rsetSeq 20) 0) 0 |>.fset (Reg.REG_BASE_L_BASE_L (rsetSeq 20) 0) 0 |>.fset
      (Reg.REG_LIMIT_H_LIMIT_H (rsetSeq 20) 0) 0xffff |>.fset (Reg.REG_LIMIT_L_LIMIT_L (rsetSeq 20) 0) 0xfffff |> fun s
      => s.setSeq 20 { s.seq 20 with lr := some (0x80000000200, 4, s.mnat 0x80000000200 4) }, (.own (.seq 20)),
      (BitVec.ofNat 22 (tileCoord 0 2 0)), 0x80000000200, 22, 7, 0, .none, 20, 0x80000000200, 0x80000000200, false,
      ((running |> fun (s : State) => (kvUnits.foldl (fun (s : State) x => s.foff (Reg.ING_KV_CFG_EN x.1 x.2))
      ({ s with bad := [], ifaces := [], mem := s.mem.put 0x80000000203 9 } : State)).foff Reg.INST_STATUS_COCOON |>.fon
      (Reg.REG_LIMIT_H_EN (rsetLink 2) 0) |>.fon (Reg.REG_LIMIT_H_R (rsetLink 2) 0) |>.fon (Reg.REG_LIMIT_H_W (rsetLink
      2) 0) |>.fon (Reg.REG_LIMIT_H_A (rsetLink 2) 0) |>.fset (Reg.REG_BASE_H_BASE_H (rsetLink 2) 0) 0 |>.fset
      (Reg.REG_BASE_L_BASE_L (rsetLink 2) 0) 0 |>.fset (Reg.REG_LIMIT_H_LIMIT_H (rsetLink 2) 0) 0xffff |>.fset
      (Reg.REG_LIMIT_L_LIMIT_L (rsetLink 2) 0) 0xfffff |>.fon (Reg.REG_LIMIT_H_EN (rsetSeq 20) 0) |>.fon
      (Reg.REG_LIMIT_H_R (rsetSeq 20) 0) |>.fon (Reg.REG_LIMIT_H_W (rsetSeq 20) 0) |>.fon (Reg.REG_LIMIT_H_A (rsetSeq 20)
      0) |>.fset (Reg.REG_BASE_H_BASE_H (rsetSeq 20) 0) 0 |>.fset (Reg.REG_BASE_L_BASE_L (rsetSeq 20) 0) 0 |>.fset
      (Reg.REG_LIMIT_H_LIMIT_H (rsetSeq 20) 0) 0xffff |>.fset (Reg.REG_LIMIT_L_LIMIT_L (rsetSeq 20) 0) 0xfffff |> fun s
      => s.setSeq 20 { s.seq 20 with lr := some (0x80000000200, 4, s.mnat 0x80000000200 4) } : State).mnat 0x80000000200
      4), false, by decide +kernel⟩,
    ⟨running |> fun (s : State) => (kvUnits.foldl (fun (s : State) x => s.foff (Reg.ING_KV_CFG_EN x.1 x.2))
      ({ s with bad := [], ifaces := [], mem := s.mem.put 0x80000000203 9 } : State)).foff Reg.INST_STATUS_COCOON |>.fon
      (Reg.REG_LIMIT_H_EN (rsetLink 2) 0) |>.fon (Reg.REG_LIMIT_H_R (rsetLink 2) 0) |>.fon (Reg.REG_LIMIT_H_W (rsetLink
      2) 0) |>.fon (Reg.REG_LIMIT_H_A (rsetLink 2) 0) |>.fset (Reg.REG_BASE_H_BASE_H (rsetLink 2) 0) 0 |>.fset
      (Reg.REG_BASE_L_BASE_L (rsetLink 2) 0) 0 |>.fset (Reg.REG_LIMIT_H_LIMIT_H (rsetLink 2) 0) 0xffff |>.fset
      (Reg.REG_LIMIT_L_LIMIT_L (rsetLink 2) 0) 0xfffff |>.fon (Reg.REG_LIMIT_H_EN (rsetSeq 20) 0) |>.fon
      (Reg.REG_LIMIT_H_R (rsetSeq 20) 0) |>.fon (Reg.REG_LIMIT_H_W (rsetSeq 20) 0) |>.fon (Reg.REG_LIMIT_H_A (rsetSeq 20)
      0) |>.fset (Reg.REG_BASE_H_BASE_H (rsetSeq 20) 0) 0 |>.fset (Reg.REG_BASE_L_BASE_L (rsetSeq 20) 0) 0 |>.fset
      (Reg.REG_LIMIT_H_LIMIT_H (rsetSeq 20) 0) 0xffff |>.fset (Reg.REG_LIMIT_L_LIMIT_L (rsetSeq 20) 0) 0xfffff |> fun s
      => s.setSeq 20 { s.seq 20 with lr := none }, (.own (.seq 20)), (BitVec.ofNat 22 (tileCoord 0 2 0)), 0x80000000200,
      22, 7, 0, .none, 20, 0x80000000200, 0x80000000200, false, 0, false, by decide +kernel⟩,
    ⟨running |> fun (s : State) => (kvUnits.foldl (fun (s : State) x => s.foff (Reg.ING_KV_CFG_EN x.1 x.2))
      ({ s with bad := [], ifaces := [], mem := s.mem.put 0x80000000203 9 } : State)).foff Reg.INST_STATUS_COCOON |>.fon
      (Reg.REG_LIMIT_H_EN (rsetLink 2) 0) |>.fon (Reg.REG_LIMIT_H_R (rsetLink 2) 0) |>.fon (Reg.REG_LIMIT_H_W (rsetLink
      2) 0) |>.fon (Reg.REG_LIMIT_H_A (rsetLink 2) 0) |>.fset (Reg.REG_BASE_H_BASE_H (rsetLink 2) 0) 0 |>.fset
      (Reg.REG_BASE_L_BASE_L (rsetLink 2) 0) 0 |>.fset (Reg.REG_LIMIT_H_LIMIT_H (rsetLink 2) 0) 0xffff |>.fset
      (Reg.REG_LIMIT_L_LIMIT_L (rsetLink 2) 0) 0xfffff |>.fon (Reg.REG_LIMIT_H_EN (rsetSeq 20) 0) |>.fon
      (Reg.REG_LIMIT_H_R (rsetSeq 20) 0) |>.fon (Reg.REG_LIMIT_H_W (rsetSeq 20) 0) |>.fon (Reg.REG_LIMIT_H_A (rsetSeq 20)
      0) |>.fset (Reg.REG_BASE_H_BASE_H (rsetSeq 20) 0) 0 |>.fset (Reg.REG_BASE_L_BASE_L (rsetSeq 20) 0) 0 |>.fset
      (Reg.REG_LIMIT_H_LIMIT_H (rsetSeq 20) 0) 0xffff |>.fset (Reg.REG_LIMIT_L_LIMIT_L (rsetSeq 20) 0) 0xfffff |> fun s
      => s.setSeq 20 { s.seq 20 with lr := some (0x80000000200, 4, s.mnat 0x80000000200 4 + 1) }, (.own (.seq 20)),
      (BitVec.ofNat 22 (tileCoord 0 2 0)), 0x80000000200, 22, 7, 0, .none, 20, 0x80000000200, 0x80000000200, false,
      ((running |> fun (s : State) => (kvUnits.foldl (fun (s : State) x => s.foff (Reg.ING_KV_CFG_EN x.1 x.2))
      ({ s with bad := [], ifaces := [], mem := s.mem.put 0x80000000203 9 } : State)).foff Reg.INST_STATUS_COCOON |>.fon
      (Reg.REG_LIMIT_H_EN (rsetLink 2) 0) |>.fon (Reg.REG_LIMIT_H_R (rsetLink 2) 0) |>.fon (Reg.REG_LIMIT_H_W (rsetLink
      2) 0) |>.fon (Reg.REG_LIMIT_H_A (rsetLink 2) 0) |>.fset (Reg.REG_BASE_H_BASE_H (rsetLink 2) 0) 0 |>.fset
      (Reg.REG_BASE_L_BASE_L (rsetLink 2) 0) 0 |>.fset (Reg.REG_LIMIT_H_LIMIT_H (rsetLink 2) 0) 0xffff |>.fset
      (Reg.REG_LIMIT_L_LIMIT_L (rsetLink 2) 0) 0xfffff |>.fon (Reg.REG_LIMIT_H_EN (rsetSeq 20) 0) |>.fon
      (Reg.REG_LIMIT_H_R (rsetSeq 20) 0) |>.fon (Reg.REG_LIMIT_H_W (rsetSeq 20) 0) |>.fon (Reg.REG_LIMIT_H_A (rsetSeq 20)
      0) |>.fset (Reg.REG_BASE_H_BASE_H (rsetSeq 20) 0) 0 |>.fset (Reg.REG_BASE_L_BASE_L (rsetSeq 20) 0) 0 |>.fset
      (Reg.REG_LIMIT_H_LIMIT_H (rsetSeq 20) 0) 0xffff |>.fset (Reg.REG_LIMIT_L_LIMIT_L (rsetSeq 20) 0) 0xfffff |> fun s
      => s.setSeq 20 { s.seq 20 with lr := some (0x80000000200, 4, s.mnat 0x80000000200 4 + 1) } : State).mnat
      0x80000000200 4 + 1), false, by decide +kernel⟩,
    ⟨running |> fun (s : State) => (kvUnits.foldl (fun (s : State) x => s.foff (Reg.ING_KV_CFG_EN x.1 x.2))
      ({ s with bad := [], ifaces := [], mem := s.mem.put 0x80000000203 9 } : State)).foff Reg.INST_STATUS_COCOON |>.fon
      (Reg.REG_LIMIT_H_EN (rsetLink 2) 0) |>.fon (Reg.REG_LIMIT_H_R (rsetLink 2) 0) |>.fon (Reg.REG_LIMIT_H_W (rsetLink
      2) 0) |>.fon (Reg.REG_LIMIT_H_A (rsetLink 2) 0) |>.fset (Reg.REG_BASE_H_BASE_H (rsetLink 2) 0) 0 |>.fset
      (Reg.REG_BASE_L_BASE_L (rsetLink 2) 0) 0 |>.fset (Reg.REG_LIMIT_H_LIMIT_H (rsetLink 2) 0) 0xffff |>.fset
      (Reg.REG_LIMIT_L_LIMIT_L (rsetLink 2) 0) 0xfffff, (.link 2 (BitVec.ofNat 30 (ioCoord 0 6 0 0 + 9 * 2 ^ 22))),
      (BitVec.ofNat 22 (tileCoord 0 2 0)), 0x80000000202, 1, 5, 6, .none, 2, (BitVec.ofNat 30 (ioCoord 0 6 0 0 + 9 * 2 ^
      22)), .aon, 0x80000000202, 0x80000000202, false, by decide +kernel⟩,
    ⟨running |> fun (s : State) => (kvUnits.foldl (fun (s : State) x => s.foff (Reg.ING_KV_CFG_EN x.1 x.2))
      ({ s with bad := [], ifaces := [], mem := s.mem.put 0x80000000203 9 } : State)).foff Reg.INST_STATUS_COCOON |>.fon
      (Reg.REG_LIMIT_H_EN (rsetLink 2) 0) |>.fon (Reg.REG_LIMIT_H_R (rsetLink 2) 0) |>.fon (Reg.REG_LIMIT_H_W (rsetLink
      2) 0) |>.fon (Reg.REG_LIMIT_H_A (rsetLink 2) 0) |>.fset (Reg.REG_BASE_H_BASE_H (rsetLink 2) 0) 0 |>.fset
      (Reg.REG_BASE_L_BASE_L (rsetLink 2) 0) 0 |>.fset (Reg.REG_LIMIT_H_LIMIT_H (rsetLink 2) 0) 0xffff |>.fset
      (Reg.REG_LIMIT_L_LIMIT_L (rsetLink 2) 0) 0xfffff, (.own .aon), (BitVec.ofNat 22 (tileCoord 0 2 0)), 0x80000000200,
      21, 5, 6, .none, 2, (BitVec.ofNat 30 (ioCoord 0 6 0 0 + 9 * 2 ^ 22)), .aon, 0x80000000200, 0x80000000200, false,
      by decide +kernel⟩,
    ⟨running |> fun (s : State) => (kvUnits.foldl (fun (s : State) x => s.foff (Reg.ING_KV_CFG_EN x.1 x.2))
      ({ s with bad := [], ifaces := [], mem := s.mem.put 0x80000000203 9 } : State)).foff Reg.INST_STATUS_COCOON |> fun
      s => forN 16 (fun j s => s.foff (Reg.REG_LIMIT_H_EN (rsetLink 2) j)) s, (.link 2 (BitVec.ofNat 30 (ioCoord 0 6 0 0
      + 9 * 2 ^ 22))), (BitVec.ofNat 22 (tileCoord 0 2 0)), 0x80000000200, 1, 5, 6, .none, 2, (BitVec.ofNat 30 (ioCoord 0
      6 0 0 + 9 * 2 ^ 22)), .aon, by decide +kernel⟩,
    ⟨running |> fun (s : State) => (kvUnits.foldl (fun (s : State) x => s.foff (Reg.ING_KV_CFG_EN x.1 x.2))
      ({ s with bad := [], ifaces := [], mem := s.mem.put 0x80000000203 9 } : State)).foff Reg.INST_STATUS_COCOON |> fun
      s => forN 16 (fun j s => s.foff (Reg.REG_LIMIT_H_EN rsetApp j)) s, (.own (.app 2 true)), 0, 0x80000000200, 1, 5, 6,
      .none, 2, (BitVec.ofNat 30 (ioCoord 0 6 0 0 + 9 * 2 ^ 22)), (.app 2 true), by decide +kernel⟩,
    ⟨running |> fun (s : State) => (kvUnits.foldl (fun (s : State) x => s.foff (Reg.ING_KV_CFG_EN x.1 x.2))
      ({ s with bad := [], ifaces := [], mem := s.mem.put 0x80000000203 9 } : State)).foff Reg.INST_STATUS_COCOON |>.fset
      Reg.INST_STATUS_STAGE 7 |> fun s => forN 16 (fun j s => s.foff (Reg.REG_LIMIT_H_EN rsetPcie j)) s, (.own .pcie), 0,
      0x80000000200, 1, 5, 6, .none, 2, (BitVec.ofNat 30 (ioCoord 0 6 0 0 + 9 * 2 ^ 22)), .pcie, by decide +kernel⟩,
    ⟨running |> fun (s : State) => (kvUnits.foldl (fun (s : State) x => s.foff (Reg.ING_KV_CFG_EN x.1 x.2))
      ({ s with bad := [], ifaces := [], mem := s.mem.put 0x80000000203 9 } : State)).foff Reg.INST_STATUS_COCOON |>.fon
      (Reg.REG_LIMIT_H_EN (rsetLink 2) 0) |>.fon (Reg.REG_LIMIT_H_R (rsetLink 2) 0) |>.fon (Reg.REG_LIMIT_H_W (rsetLink
      2) 0) |>.fon (Reg.REG_LIMIT_H_A (rsetLink 2) 0) |>.fset (Reg.REG_BASE_H_BASE_H (rsetLink 2) 0) 0 |>.fset
      (Reg.REG_BASE_L_BASE_L (rsetLink 2) 0) 0 |>.fset (Reg.REG_LIMIT_H_LIMIT_H (rsetLink 2) 0) 0xffff |>.fset
      (Reg.REG_LIMIT_L_LIMIT_L (rsetLink 2) 0) 0xfffff, (.link 2 (BitVec.ofNat 30 (ioCoord 0 6 0 0 + 9 * 2 ^ 22))),
      (BitVec.ofNat 22 (ioCoord 0 6 1 3)), 0x80000000200, 1, 5, 6, .none, 2, (BitVec.ofNat 30 (ioCoord 0 6 0 0 + 9 * 2 ^
      22)), by decide +kernel⟩,
    ⟨running.fset Reg.INST_STATUS_STAGE 0, (.own .pcie), 0, 0x80000000200, 1, 5, 6, .none, by decide +kernel⟩,
    ⟨running.foff Reg.TRU_STATUS_DBG_OPEN, (.own .jtag), 0, 0x80000000200, 1, 5, 6, .none, by decide +kernel⟩,
    ⟨running |> fun (s : State) => (kvUnits.foldl (fun (s : State) x => s.foff (Reg.ING_KV_CFG_EN x.1 x.2))
      ({ s with bad := [], ifaces := [], mem := s.mem.put 0x80000000203 9 } : State)).foff Reg.INST_STATUS_COCOON |>.fon
      (Reg.REG_LIMIT_H_EN (rsetLink 2) 0) |>.fon (Reg.REG_LIMIT_H_R (rsetLink 2) 0) |>.fon (Reg.REG_LIMIT_H_W (rsetLink
      2) 0) |>.fon (Reg.REG_LIMIT_H_A (rsetLink 2) 0) |>.fset (Reg.REG_BASE_H_BASE_H (rsetLink 2) 0) 0 |>.fset
      (Reg.REG_BASE_L_BASE_L (rsetLink 2) 0) 0 |>.fset (Reg.REG_LIMIT_H_LIMIT_H (rsetLink 2) 0) 0xffff |>.fset
      (Reg.REG_LIMIT_L_LIMIT_L (rsetLink 2) 0) 0xfffff, (.link 2 (BitVec.ofNat 30 (ioCoord 0 6 0 0 + 9 * 2 ^ 22))),
      (BitVec.ofNat 22 (tileCoord 0 2 0)), 0x80000000200, 1, 5, 6, .none, 0x80000000200, 0x80000000200,
      by decide +kernel⟩⟩

theorem test_rdData_can_run :
    (∃ (s : State) (back : Requester) (a : BitVec 48) (index : BitVec 8) (data : List Byte) (poison : Bool) (o : Fin
      136), s.canonical = true ∧ s.down = false ∧ s.endpointThere (requesterCoord s.devid back) = true ∧ (s.iface
      (requesterCoord s.devid back)).wait = [] ∧ back = .core o ∧ (s.owner o).stalled = [] ∧ (s.owner o).mc = none) ∧
    (∃ (s : State) (back : Requester) (a : BitVec 48) (index : BitVec 8) (data : List Byte) (poison : Bool) (ch : Fin
      1056) (w : DmaWait), s.canonical = true ∧ s.down = false ∧ s.endpointThere (requesterCoord s.devid back) = true ∧
      (s.iface (requesterCoord s.devid back)).wait = [] ∧ back = .dma ch ∧ (s.dma ch).lost.find? (fun w => w.isRead
      a.toNat) = none ∧ (s.dma ch).wait = some w ∧ w.isRead a.toNat = true ∧ (s.dma ch).err = none ∧ poison = false ∧
      (w.more index.toNat data).got.length < (w.more index.toNat data).need ∧ w.kind = 0) ∧
    (∃ (s : State) (back : Requester) (a : BitVec 48) (index : BitVec 8) (data : List Byte) (poison : Bool) (ch : Fin
      1056) (w : DmaWait), s.canonical = true ∧ s.down = false ∧ s.endpointThere (requesterCoord s.devid back) = true ∧
      (s.iface (requesterCoord s.devid back)).wait = [] ∧ back = .dma ch ∧ (s.dma ch).lost.find? (fun w => w.isRead
      a.toNat) = none ∧ (s.dma ch).wait = some w ∧ w.isRead a.toNat = true ∧ (s.dma ch).err = none ∧ poison = true) ∧
    (∃ (s : State) (back : Requester) (a : BitVec 48) (index : BitVec 8) (data : List Byte) (poison : Bool) (ch : Fin
      1056) (w : DmaWait), s.canonical = true ∧ s.down = false ∧ s.endpointThere (requesterCoord s.devid back) = true ∧
      (s.iface (requesterCoord s.devid back)).wait = [] ∧ back = .dma ch ∧ (s.dma ch).lost.find? (fun w => w.isRead
      a.toNat) = none ∧ (s.dma ch).wait = some w ∧ w.isRead a.toNat = true ∧ (s.dma ch).err = none ∧ poison = false ∧
      (w.more index.toNat data).need ≤ (w.more index.toNat data).got.length ∧ w.kind = 0) ∧
    (∃ (s : State) (back : Requester) (a : BitVec 48) (index : BitVec 8) (data : List Byte) (poison : Bool) (ch : Fin
      1056), s.canonical = true ∧ s.down = false ∧ s.endpointThere (requesterCoord s.devid back) = true ∧ (s.iface
      (requesterCoord s.devid back)).wait = [] ∧ back = .dma ch ∧ ((s.dma ch).lost ≠ [] ∨ (s.dma ch).wait.all (fun w =>
      !w.isRead a.toNat) = true) ∧ ((s.dma ch).lost.any (fun w => w.isRead a.toNat) = true ∨ (s.dma ch).wait.all (fun w
      => !w.isRead a.toNat) = true)) ∧
    (∃ (s : State) (back : Requester) (a : BitVec 48) (index : BitVec 8) (data : List Byte) (poison : Bool), s.canonical
      = true ∧ s.down = false ∧ s.endpointThere (requesterCoord s.devid back) = true ∧ (s.iface (requesterCoord s.devid
      back)).wait = [] ∧ ((∃ i, back = .tile i) ∨ (∃ i, back = .stream i))) ∧
    (∃ (s : State) (back : Requester) (a : BitVec 48) (index : BitVec 8) (data : List Byte) (poison : Bool), s.canonical
      = true ∧ s.down = false ∧ s.endpointThere (requesterCoord s.devid back) = false) ∧
    (∃ (s : State) (back : Requester) (a : BitVec 48) (index : BitVec 8) (data : List Byte) (poison : Bool), s.canonical
      = true ∧ s.down = false) :=
  ⟨⟨running.onOwner 5 (fun _ => OwnerSt.init) |> fun s => { s with ifaces := [] }, (.core 5), 0x100, 0, [1, 2], false,
      5, by decide +kernel⟩,
    ⟨running.fset (Reg.DMA_STATUS_STATE 1029) 1 |>.fset (Reg.DMA_PC_PC 1029) 8 |>.fset (Reg.DMA_PC_DEPTH 1029) 0 |>.onDma
      1029 (fun _ => { DmaSt.init with code := [(1, [0])] , wait := some ⟨0, 0x123, 7, 0, 2, [], 0⟩ }) |> fun s =>
      { s with ifaces := [] }, (.dma 1029), 0x123, 1, [1, 2], false, 1029, ⟨0, 0x123, 7, 0, 2, [], 0⟩, by decide +kernel⟩,
    ⟨running.fset (Reg.DMA_STATUS_STATE 1029) 1 |>.fset (Reg.DMA_PC_PC 1029) 8 |>.fset (Reg.DMA_PC_DEPTH 1029) 0 |>.onDma
      1029 (fun _ => { DmaSt.init with code := [(1, [0])] , wait := some ⟨0, 0x123, 7, 0, 2, [], 0⟩ }) |> fun s =>
      { s with ifaces := [] }, (.dma 1029), 0x123, 1, [1, 2], true, 1029, ⟨0, 0x123, 7, 0, 2, [], 0⟩, by decide +kernel⟩,
    ⟨running.fset (Reg.DMA_STATUS_STATE 1029) 1 |>.fset (Reg.DMA_PC_PC 1029) 8 |>.fset (Reg.DMA_PC_DEPTH 1029) 0 |>.onDma
      1029 (fun _ => { DmaSt.init with code := [(1, [0])] , wait := some ⟨0, 0x123, 7, 0, 1, [], 0⟩ }) |> fun s =>
      { s with ifaces := [] }, (.dma 1029), 0x123, 1, [1, 2], false, 1029, ⟨0, 0x123, 7, 0, 1, [], 0⟩, by decide +kernel⟩,
    ⟨running.fset (Reg.DMA_STATUS_STATE 1029) 1 |>.fset (Reg.DMA_PC_PC 1029) 8 |>.fset (Reg.DMA_PC_DEPTH 1029) 0 |>.onDma
      1029 (fun _ => { DmaSt.init with code := [(1, [0])]  }) |> fun s => { s with ifaces := [] }, (.dma 1029), 0x123, 1,
      [1, 2], false, 1029, by decide +kernel⟩,
    ⟨running |> fun s => { s with ifaces := [] }, (.tile 5), 0x100, 0, [1, 2], false, by decide +kernel⟩,
    ⟨running.wr (Reg.INST_TROW 0) 0xFFFFFFFF |>.fset (Reg.INST_TROW_LCOLS 0) 0, (.tile 0), 0x100, 0, [1, 2], false,
      by decide +kernel⟩,
    ⟨running.onOwner 5 (fun _ => OwnerSt.init) |> fun s => { s with ifaces := [] }, (.core 5), 0x100, 0, [1, 2], false,
      by decide +kernel⟩⟩

theorem test_statusReply_can_run :
    (∃ (s : State) (back : Requester) (code : Fin 8) (why : BitVec 8) (value : Word) (req : Request) (o : Fin 136) (dev :
      BitVec 3) (obj : BitVec 16) (op : Fin 5) (arg : Word) (wqn : BitVec 16), s.canonical = true ∧ s.down = false ∧
      s.endpointThere (requesterCoord s.devid back) = true ∧ (s.iface (requesterCoord s.devid back)).wait = [] ∧ back =
      .core o ∧ (s.owner o).stalled = [] ∧ (s.owner o).mc = none ∧ req = .sync dev obj op arg wqn ∧ code = 1 ∧ why = 3) ∧
    (∃ (s : State) (back : Requester) (code : Fin 8) (why : BitVec 8) (value : Word) (req : Request) (o : Fin 136) (dev :
      BitVec 3) (obj : BitVec 16) (op : Fin 5) (arg : Word) (wqn : BitVec 16), s.canonical = true ∧ s.down = false ∧
      s.endpointThere (requesterCoord s.devid back) = true ∧ (s.iface (requesterCoord s.devid back)).wait = [] ∧ back =
      .core o ∧ (s.owner o).stalled = [] ∧ (s.owner o).mc = none ∧ req = .sync dev obj op arg wqn ∧ code = 0) ∧
    (∃ (s : State) (back : Requester) (code : Fin 8) (why : BitVec 8) (value : Word) (req : Request) (o : Fin 136) (dev :
      BitVec 3) (obj : BitVec 16) (op : Fin 5) (arg : Word) (wqn : BitVec 16), s.canonical = true ∧ s.down = false ∧
      s.endpointThere (requesterCoord s.devid back) = true ∧ (s.iface (requesterCoord s.devid back)).wait = [] ∧ back =
      .core o ∧ (s.owner o).stalled = [] ∧ (s.owner o).mc = none ∧ req = .sync dev obj op arg wqn ∧ code ≠ 0 ∧ (code ≠ 1
      ∨ why ≠ 3)) ∧
    (∃ (s : State) (back : Requester) (code : Fin 8) (why : BitVec 8) (value : Word) (req : Request) (o : Fin 136) (a :
      BitVec 48) (n : BitVec 16), s.canonical = true ∧ s.down = false ∧ s.endpointThere (requesterCoord s.devid back) =
      true ∧ (s.iface (requesterCoord s.devid back)).wait = [] ∧ back = .core o ∧ (s.owner o).stalled = [] ∧ (s.owner
      o).mc = none ∧ req = .read a n ∧ code = 1 ∧ why = 4) ∧
    (∃ (s : State) (back : Requester) (code : Fin 8) (why : BitVec 8) (value : Word) (req : Request) (o : Fin 136) (a :
      BitVec 48) (n : BitVec 16), s.canonical = true ∧ s.down = false ∧ s.endpointThere (requesterCoord s.devid back) =
      true ∧ (s.iface (requesterCoord s.devid back)).wait = [] ∧ back = .core o ∧ (s.owner o).stalled = [] ∧ (s.owner
      o).mc = none ∧ req = .read a n ∧ code ≠ 0 ∧ (code ≠ 1 ∨ why ≠ 4)) ∧
    (∃ (s : State) (back : Requester) (code : Fin 8) (why : BitVec 8) (value : Word) (req : Request) (o : Fin 136) (a :
      BitVec 48) (data : List (Option Byte)), s.canonical = true ∧ s.down = false ∧ s.endpointThere (requesterCoord
      s.devid back) = true ∧ (s.iface (requesterCoord s.devid back)).wait = [] ∧ back = .core o ∧ (s.owner o).stalled =
      [] ∧ (s.owner o).mc = none ∧ req = .write a data ∧ code = 0 ∧ (s.owner o).drain = false ∧ (code ≠ 1 ∨ why ≠ 4)) ∧
    (∃ (s : State) (back : Requester) (code : Fin 8) (why : BitVec 8) (value : Word) (req : Request) (o : Fin 136) (a :
      BitVec 48) (data : List (Option Byte)), s.canonical = true ∧ s.down = false ∧ s.endpointThere (requesterCoord
      s.devid back) = true ∧ (s.iface (requesterCoord s.devid back)).wait = [] ∧ back = .core o ∧ (s.owner o).stalled =
      [] ∧ (s.owner o).mc = none ∧ req = .write a data ∧ code = 1 ∧ why = 4) ∧
    (∃ (s : State) (back : Requester) (code : Fin 8) (why : BitVec 8) (value : Word) (req : Request) (o : Fin 136) (a :
      BitVec 48) (data : List (Option Byte)), s.canonical = true ∧ s.down = false ∧ s.endpointThere (requesterCoord
      s.devid back) = true ∧ (s.iface (requesterCoord s.devid back)).wait = [] ∧ back = .core o ∧ (s.owner o).stalled =
      [] ∧ (s.owner o).mc = none ∧ req = .write a data ∧ code ≠ 0 ∧ (code ≠ 1 ∨ why ≠ 4) ∧ (s.owner o).drain = false) ∧
    (∃ (s : State) (back : Requester) (code : Fin 8) (why : BitVec 8) (value : Word) (req : Request) (o : Fin 136) (a :
      BitVec 48) (data : List (Option Byte)), s.canonical = true ∧ s.down = false ∧ s.endpointThere (requesterCoord
      s.devid back) = true ∧ (s.iface (requesterCoord s.devid back)).wait = [] ∧ back = .core o ∧ (s.owner o).stalled =
      [] ∧ (s.owner o).mc = none ∧ req = .write a data ∧ code = 0 ∧ (s.owner o).drain = true ∧ (s.owner o).out ≤ 1) ∧
    (∃ (s : State) (back : Requester) (code : Fin 8) (why : BitVec 8) (value : Word) (req : Request) (ch : Fin 1056) (dev
      : BitVec 3) (obj : BitVec 16) (op : Fin 5) (arg : Word) (wqn : BitVec 16) (e : Nat), s.canonical = true ∧ s.down =
      false ∧ s.endpointThere (requesterCoord s.devid back) = true ∧ (s.iface (requesterCoord s.devid back)).wait = [] ∧
      back = .dma ch ∧ req = .sync dev obj op arg wqn ∧ op ≠ 2 ∧ op ≠ 3 ∧ (s.dma ch).sigs = [(obj.toNat, e)] ∧ (s.dma
      ch).err = none ∧ (s.dma ch).wait = none ∧ code = 0) ∧
    (∃ (s : State) (back : Requester) (code : Fin 8) (why : BitVec 8) (value : Word) (req : Request) (ch : Fin 1056) (dev
      : BitVec 3) (obj : BitVec 16) (op : Fin 5) (arg : Word) (wqn : BitVec 16) (e : Nat), s.canonical = true ∧ s.down =
      false ∧ s.endpointThere (requesterCoord s.devid back) = true ∧ (s.iface (requesterCoord s.devid back)).wait = [] ∧
      back = .dma ch ∧ req = .sync dev obj op arg wqn ∧ op ≠ 2 ∧ op ≠ 3 ∧ (s.dma ch).sigs = [(obj.toNat, e)] ∧ (s.dma
      ch).err = none ∧ (s.dma ch).wait = none ∧ code ≠ 0 ∧ (code ≠ 1 ∨ why ≠ 3)) ∧
    (∃ (s : State) (back : Requester) (code : Fin 8) (why : BitVec 8) (value : Word) (req : Request) (ch : Fin 1056) (dev
      : BitVec 3) (obj : BitVec 16) (op : Fin 5) (arg : Word) (wqn : BitVec 16) (e : Nat), s.canonical = true ∧ s.down =
      false ∧ s.endpointThere (requesterCoord s.devid back) = true ∧ (s.iface (requesterCoord s.devid back)).wait = [] ∧
      back = .dma ch ∧ req = .sync dev obj op arg wqn ∧ op ≠ 2 ∧ op ≠ 3 ∧ (s.dma ch).sigs = [(obj.toNat, e)] ∧ (s.dma
      ch).err = none ∧ (s.dma ch).wait = none ∧ code = 1 ∧ why = 3) ∧
    (∃ (s : State) (back : Requester) (code : Fin 8) (why : BitVec 8) (value : Word) (req : Request) (ch : Fin 1056) (dev
      : BitVec 3) (obj : BitVec 16) (op : Fin 5) (arg : Word) (wqn : BitVec 16) (v : Nat) (eq : Bool), s.canonical = true
      ∧ s.down = false ∧ s.endpointThere (requesterCoord s.devid back) = true ∧ (s.iface (requesterCoord s.devid
      back)).wait = [] ∧ back = .dma ch ∧ req = .sync dev obj op arg wqn ∧ (op = 2 ∨ op = 3) ∧ (s.dma ch).watch = some
      (obj.toNat, v, eq) ∧ (s.dma ch).err = none ∧ (s.dma ch).wait = none ∧ code ≠ 0 ∧ (code ≠ 1 ∨ why ≠ 3)) ∧
    (∃ (s : State) (back : Requester) (code : Fin 8) (why : BitVec 8) (value : Word) (req : Request) (ch : Fin 1056) (dev
      : BitVec 3) (obj : BitVec 16) (op : Fin 5) (arg : Word) (wqn : BitVec 16) (v : Nat) (eq : Bool), s.canonical = true
      ∧ s.down = false ∧ s.endpointThere (requesterCoord s.devid back) = true ∧ (s.iface (requesterCoord s.devid
      back)).wait = [] ∧ back = .dma ch ∧ req = .sync dev obj op arg wqn ∧ (op = 2 ∨ op = 3) ∧ (s.dma ch).watch = some
      (obj.toNat, v, eq) ∧ (s.dma ch).err = none ∧ (s.dma ch).wait = none ∧ code = 0) ∧
    (∃ (s : State) (back : Requester) (code : Fin 8) (why : BitVec 8) (value : Word) (req : Request) (ch : Fin 1056) (dev
      : BitVec 3) (obj : BitVec 16) (op : Fin 5) (arg : Word) (wqn : BitVec 16) (v : Nat) (eq : Bool), s.canonical = true
      ∧ s.down = false ∧ s.endpointThere (requesterCoord s.devid back) = true ∧ (s.iface (requesterCoord s.devid
      back)).wait = [] ∧ back = .dma ch ∧ req = .sync dev obj op arg wqn ∧ (op = 2 ∨ op = 3) ∧ (s.dma ch).watch = some
      (obj.toNat, v, eq) ∧ (s.dma ch).err = none ∧ (s.dma ch).wait = none ∧ code = 1 ∧ why = 3) ∧
    (∃ (s : State) (back : Requester) (code : Fin 8) (why : BitVec 8) (value : Word) (req : Request) (ch : Fin 1056) (w :
      DmaWait), s.canonical = true ∧ s.down = false ∧ s.endpointThere (requesterCoord s.devid back) = true ∧ (s.iface
      (requesterCoord s.devid back)).wait = [] ∧ back = .dma ch ∧ (s.dma ch).lost = [] ∧ (s.dma ch).wait = some w ∧
      (match req with | .read a _ => w.isRead a.toNat | .write a _ => w.isWrite a.toNat | .sync _ _ _ _ _ => false) =
      true ∧ (s.dma ch).err = none ∧ (code ≠ 1 ∨ why ≠ 4) ∧ code ≠ 0) ∧
    (∃ (s : State) (back : Requester) (code : Fin 8) (why : BitVec 8) (value : Word) (req : Request), s.canonical = true
      ∧ s.down = false ∧ s.endpointThere (requesterCoord s.devid back) = true ∧ (s.iface (requesterCoord s.devid
      back)).wait = [] ∧ ((∃ i, back = .tile i) ∨ (∃ i, back = .stream i)) ∧ code = 0) ∧
    (∃ (s : State) (back : Requester) (code : Fin 8) (why : BitVec 8) (value : Word) (req : Request), s.canonical = true
      ∧ s.down = false ∧ s.endpointThere (requesterCoord s.devid back) = false) ∧
    (∃ (s : State) (back : Requester) (code : Fin 8) (why : BitVec 8) (value : Word) (req : Request), s.canonical = true
      ∧ s.down = false) :=
  ⟨⟨running.onOwner 5 (fun _ => OwnerSt.init) |> fun s => { s with ifaces := [] }, (.core 5), 1, 3, 77, (.sync 1 300 0 5
      0), 5, 1, 300, 0, 5, 0, by decide +kernel⟩,
    ⟨running.onOwner 5 (fun _ => OwnerSt.init) |> fun s => { s with ifaces := [] }, (.core 5), 0, 0, 77, (.sync 1 300 4 5
      0), 5, 1, 300, 4, 5, 0, by decide +kernel⟩,
    ⟨running.onOwner 5 (fun _ => OwnerSt.init) |> fun s => { s with ifaces := [] }, (.core 5), 3, 0, 77, (.sync 1 300 4 5
      0), 5, 1, 300, 4, 5, 0, by decide +kernel⟩,
    ⟨running.onOwner 5 (fun _ => OwnerSt.init) |> fun s => { s with ifaces := [] }, (.core 5), 1, 4, 77, (.read 8 9), 5,
      8, 9, by decide +kernel⟩,
    ⟨running.onOwner 5 (fun _ => OwnerSt.init) |> fun s => { s with ifaces := [] }, (.core 5), 3, 4, 77, (.read 8 9), 5,
      8, 9, by decide +kernel⟩,
    ⟨running.onOwner 5 (fun _ => OwnerSt.init) |> fun s => { s with ifaces := [] }, (.core 5), 0, 0, 77, (.write 8 [some
      1]), 5, 8, [some 1], by decide +kernel⟩,
    ⟨running.onOwner 5 (fun _ => OwnerSt.init) |> fun s => { s with ifaces := [] }, (.core 5), 1, 4, 77, (.write 8 [some
      1]), 5, 8, [some 1], by decide +kernel⟩,
    ⟨running.onOwner 5 (fun _ => OwnerSt.init) |> fun s => { s with ifaces := [] }, (.core 5), 5, 0, 77, (.write 8 [some
      1]), 5, 8, [some 1], by decide +kernel⟩,
    ⟨running.onOwner 5 (fun _ => { OwnerSt.init with out := 1, drain := true }) |> fun s => { s with ifaces := [] },
      (.core 5), 0, 0, 77, (.write 8 [some 1]), 5, 8, [some 1], by decide +kernel⟩,
    ⟨running.fset (Reg.DMA_STATUS_STATE 1029) 1 |>.fset (Reg.DMA_PC_PC 1029) 8 |>.fset (Reg.DMA_PC_DEPTH 1029) 0 |>.onDma
      1029 (fun _ => { DmaSt.init with code := [(1, [0])] , sigs := [(9, 0)] }) |> fun s => { s with ifaces := [] },
      (.dma 1029), 0, 0, 0, (.sync 0 9 0 1 0), 1029, 0, 9, 0, 1, 0, 0, by decide +kernel⟩,
    ⟨running.fset (Reg.DMA_STATUS_STATE 1029) 1 |>.fset (Reg.DMA_PC_PC 1029) 8 |>.fset (Reg.DMA_PC_DEPTH 1029) 0 |>.onDma
      1029 (fun _ => { DmaSt.init with code := [(1, [0])] , sigs := [(9, 0)] }) |> fun s => { s with ifaces := [] },
      (.dma 1029), 3, 0, 0, (.sync 0 9 0 1 0), 1029, 0, 9, 0, 1, 0, 0, by decide +kernel⟩,
    ⟨running.fset (Reg.DMA_STATUS_STATE 1029) 1 |>.fset (Reg.DMA_PC_PC 1029) 8 |>.fset (Reg.DMA_PC_DEPTH 1029) 0 |>.onDma
      1029 (fun _ => { DmaSt.init with code := [(1, [0])] , sigs := [(9, 0)] }) |> fun s => { s with ifaces := [] },
      (.dma 1029), 1, 3, 0, (.sync 0 9 0 1 0), 1029, 0, 9, 0, 1, 0, 0, by decide +kernel⟩,
    ⟨running.fset (Reg.DMA_STATUS_STATE 1029) 2 |>.fset (Reg.DMA_PC_PC 1029) 8 |>.fset (Reg.DMA_PC_DEPTH 1029) 0 |>.onDma
      1029 (fun _ => { DmaSt.init with code := [(1, [0])] , watch := some (9, 3, false) }) |> fun s =>
      { s with ifaces := [] }, (.dma 1029), 3, 0, 0, (.sync 0 9 2 1 0), 1029, 0, 9, 2, 1, 0, 3, false, by decide +kernel⟩,
    ⟨running.fset (Reg.DMA_STATUS_STATE 1029) 2 |>.fset (Reg.DMA_PC_PC 1029) 8 |>.fset (Reg.DMA_PC_DEPTH 1029) 0 |>.onDma
      1029 (fun _ => { DmaSt.init with code := [(1, [0])] , watch := some (9, 3, false) }) |> fun s =>
      { s with ifaces := [] }, (.dma 1029), 0, 0, 0, (.sync 0 9 2 1 0), 1029, 0, 9, 2, 1, 0, 3, false, by decide +kernel⟩,
    ⟨running.fset (Reg.DMA_STATUS_STATE 1029) 2 |>.fset (Reg.DMA_PC_PC 1029) 8 |>.fset (Reg.DMA_PC_DEPTH 1029) 0 |>.onDma
      1029 (fun _ => { DmaSt.init with code := [(1, [0])] , watch := some (9, 3, false) }) |> fun s =>
      { s with ifaces := [] }, (.dma 1029), 1, 3, 0, (.sync 0 9 2 1 0), 1029, 0, 9, 2, 1, 0, 3, false, by decide +kernel⟩,
    ⟨running.fset (Reg.DMA_STATUS_STATE 1029) 1 |>.fset (Reg.DMA_PC_PC 1029) 8 |>.fset (Reg.DMA_PC_DEPTH 1029) 0 |>.onDma
      1029 (fun _ => { DmaSt.init with code := [(1, [0])] , wait := some ⟨2, 0x123, 4, 0, 0, [], 0⟩ }) |> fun s =>
      { s with ifaces := [] }, (.dma 1029), 4, 0, 0, (.write 0x123 [some 1]), 1029, ⟨2, 0x123, 4, 0, 0, [], 0⟩,
      by decide +kernel⟩,
    ⟨running |> fun s => { s with ifaces := [] }, (.tile 5), 0, 0, 0, (.sync 0 9 0 1 0), by decide +kernel⟩,
    ⟨running.wr (Reg.INST_TROW 0) 0xFFFFFFFF |>.fset (Reg.INST_TROW_LCOLS 0) 0, (.tile 0), 0, 0, 0, (.sync 0 9 0 1 0),
      by decide +kernel⟩,
    ⟨running.onOwner 5 (fun _ => OwnerSt.init) |> fun s => { s with ifaces := [] }, (.core 5), 0, 0, 77, (.sync 1 300 0 5
      0), by decide +kernel⟩⟩

theorem test_fwd_can_run :
    (∃ (s : State) (c : Fin 8) (src : BitVec 30) (req : Request) (ecc : Ecc) (ra : BitVec 48) (n : BitVec 16),
      s.canonical = true ∧ s.down = false ∧ s.endpointThere (ioCoord s.devid 1 c 0) = true ∧ req = .read ra n ∧
      (List.range ((n.toNat + 31) / 32)).all (fun i => decide (s.served (localPart ((ra.toNat % 2 ^ 44) + 32 * i)) = 0))
      = true ∧ ecc = .none ∧ s.bad = [] ∧ (kvUnits.any fun x => s.fbit (Reg.ING_KV_CFG_EN x.1 x.2)) = false ∧ coDev
      src.toNat = s.devid) ∧
    (∃ (s : State) (c : Fin 8) (src : BitVec 30) (req : Request) (ecc : Ecc) (ra : BitVec 48) (data : List (Option Byte))
      (i : Nat), s.canonical = true ∧ s.down = false ∧ s.endpointThere (ioCoord s.devid 1 c 0) = true ∧ req = .write ra
      data ∧ data.length ≤ 32 ∧ (ra.toNat % 2 ^ 44) % 32 = 0 ∧ s.served (localPart (ra.toNat % 2 ^ 44)) = 0 ∧ placeOf
      (localPart (ra.toNat % 2 ^ 44)) = .ddr ∧ ecc = .none ∧ s.bad = [] ∧ (kvUnits.any fun x => s.fbit (Reg.ING_KV_CFG_EN
      x.1 x.2)) = false ∧ coDev src.toNat = s.devid ∧ i < data.length) ∧
    (∃ (s : State) (c : Fin 8) (src : BitVec 30) (req : Request) (ecc : Ecc), s.canonical = true ∧ s.down = false ∧
      s.endpointThere (ioCoord s.devid 1 c 0) = false) ∧
    (∃ (s : State) (c : Fin 8) (src : BitVec 30) (req : Request) (ecc : Ecc) (dev : BitVec 3) (obj : BitVec 16) (op : Fin
      5) (arg : Word) (wqn : BitVec 16), s.canonical = true ∧ s.down = false ∧ s.endpointThere (ioCoord s.devid 1 c 0) =
      true ∧ req = .sync dev obj op arg wqn) :=
  ⟨⟨running |> fun (s : State) => (kvUnits.foldl (fun (s : State) x => s.foff (Reg.ING_KV_CFG_EN x.1 x.2))
      ({ s with bad := [] } : State)).foff Reg.INST_STATUS_COCOON |> fun (s : State) => s.fset (Reg.DDR_CFG_CAP 0) 3 |>
      fun (s : State) => s.fon (Reg.DDR_CTL_EN (s.ddrChan 0x20000)) |>.fon (Reg.DDR_STATUS_TRAINED (s.ddrChan 0x20000))
      |>.foff (Reg.DDR_STATUS_FAILED (s.ddrChan 0x20000)) |>.foff (Reg.DDR_STATUS_RETRAINING (s.ddrChan 0x20000)) |>.foff
      (Reg.PWR_ISL_CTL_OFF (74 + s.ddrChan 0x20000)) |>.fset (Reg.PWR_ISL_STAT_STATE (74 + s.ddrChan 0x20000)) 0 |>.foff
      (Reg.PWR_ISL_CTL_OFF 77) |>.fset (Reg.PWR_ISL_STAT_STATE 77) 0, 3, (BitVec.ofNat 30 (ioCoord 0 6 0 0 + 9 * 2 ^
      22)), (.read 0x20000 64), .none, 0x20000, 64, by decide +kernel⟩,
    ⟨running |> fun (s : State) => (kvUnits.foldl (fun (s : State) x => s.foff (Reg.ING_KV_CFG_EN x.1 x.2))
      ({ s with bad := [] } : State)).foff Reg.INST_STATUS_COCOON |> fun (s : State) => s.fset (Reg.DDR_CFG_CAP 0) 3 |>
      fun (s : State) => s.fon (Reg.DDR_CTL_EN (s.ddrChan 0x20000)) |>.fon (Reg.DDR_STATUS_TRAINED (s.ddrChan 0x20000))
      |>.foff (Reg.DDR_STATUS_FAILED (s.ddrChan 0x20000)) |>.foff (Reg.DDR_STATUS_RETRAINING (s.ddrChan 0x20000)) |>.foff
      (Reg.PWR_ISL_CTL_OFF (74 + s.ddrChan 0x20000)) |>.fset (Reg.PWR_ISL_STAT_STATE (74 + s.ddrChan 0x20000)) 0 |>.foff
      (Reg.PWR_ISL_CTL_OFF 77) |>.fset (Reg.PWR_ISL_STAT_STATE 77) 0, 3, (BitVec.ofNat 30 (ioCoord 0 6 0 0 + 9 * 2 ^
      22)), (.write 0x20000 [some 4, none, some 6]), .none, 0x20000, [some 4, none, some 6], 2, by decide +kernel⟩,
    ⟨running.fon (Reg.PWR_ISL_CTL_OFF 77) |>.fset (Reg.PWR_ISL_STAT_STATE 77) 4, 3, (BitVec.ofNat 30 (ioCoord 0 6 0 0 + 9
      * 2 ^ 22)), (.read 0x20000 32), .none, by decide +kernel⟩,
    ⟨running |> fun (s : State) => (kvUnits.foldl (fun (s : State) x => s.foff (Reg.ING_KV_CFG_EN x.1 x.2))
      ({ s with bad := [] } : State)).foff Reg.INST_STATUS_COCOON |> fun (s : State) => s.fset (Reg.DDR_CFG_CAP 0) 3 |>
      fun (s : State) => s.fon (Reg.DDR_CTL_EN (s.ddrChan 0x20000)) |>.fon (Reg.DDR_STATUS_TRAINED (s.ddrChan 0x20000))
      |>.foff (Reg.DDR_STATUS_FAILED (s.ddrChan 0x20000)) |>.foff (Reg.DDR_STATUS_RETRAINING (s.ddrChan 0x20000)) |>.foff
      (Reg.PWR_ISL_CTL_OFF (74 + s.ddrChan 0x20000)) |>.fset (Reg.PWR_ISL_STAT_STATE (74 + s.ddrChan 0x20000)) 0 |>.foff
      (Reg.PWR_ISL_CTL_OFF 77) |>.fset (Reg.PWR_ISL_STAT_STATE 77) 0, 3, (BitVec.ofNat 30 (ioCoord 0 6 0 0 + 9 * 2 ^
      22)), (.sync 1 2 3 4 5), .none, 1, 2, 3, 4, 5, by decide +kernel⟩⟩

theorem test_badTypeCell_can_run :
    (∃ (s : State) (link : Option (Fin 12)) (vn : Fin 8) (type : Fin 32) (src : BitVec 30) (op : BitVec 8), s.canonical =
      true ∧ s.down = false ∧ s.typeOk (link.map Fin.val) vn type = false ∧ vn = 1 ∧ coDev src.toNat = s.devid) ∧
    (∃ (s : State) (link : Option (Fin 12)) (vn : Fin 8) (type : Fin 32) (src : BitVec 30) (op : BitVec 8), s.canonical =
      true ∧ s.down = false ∧ s.typeOk (link.map Fin.val) vn type = false ∧ vn ≠ 1) ∧
    (∃ (s : State) (link : Option (Fin 12)) (vn : Fin 8) (type : Fin 32) (src : BitVec 30) (op : BitVec 8), s.canonical =
      true ∧ s.down = false ∧ s.typeOk (link.map Fin.val) vn type = true ∧ type = 20 ∧ 4 < op.toNat ∧ coDev src.toNat =
      s.devid) ∧
    (∃ (s : State) (link : Option (Fin 12)) (vn : Fin 8) (type : Fin 32) (src : BitVec 30) (op : BitVec 8), s.canonical =
      true ∧ s.down = false ∧ s.typeOk (link.map Fin.val) vn type = true ∧ (type ≠ 20 ∨ op.toNat ≤ 4)) :=
  ⟨⟨running, none, 1, 30, (BitVec.ofNat 30 (ioCoord 0 6 0 0 + 9 * 2 ^ 22)), 0, by decide +kernel⟩,
    ⟨running, none, 0, 30, (BitVec.ofNat 30 (ioCoord 0 6 0 0 + 9 * 2 ^ 22)), 0, by decide +kernel⟩,
    ⟨running, none, 1, 20, (BitVec.ofNat 30 (ioCoord 0 6 0 0 + 9 * 2 ^ 22)), 9, by decide +kernel⟩,
    ⟨running, none, 1, 20, (BitVec.ofNat 30 (ioCoord 0 6 0 0 + 9 * 2 ^ 22)), 4, by decide +kernel⟩⟩

theorem test_escForward_can_run :
    (∃ (s : State) (k : Fin 12) (vn : Fin 8) (type : Fin 32) (dst : BitVec 22) (src : BitVec 30) (tag : Option Bool)
      (flags : BitVec 4) (data : List Byte) (l : Nat) (e : Emit), s.canonical = true ∧ s.down = false ∧ coDev dst.toNat ≠
      s.devid ∧ vn ≠ 5 ∧ s.fbit (Reg.MESH_XROUTE_ON_ALT (2 * coDev dst.toNat + coHalf dst.toNat)) = false ∧ s.egress
      (coDev dst.toNat) (coHalf dst.toNat) = some l ∧ e = .esc l dst.toNat src.toNat type flags.toNat data) ∧
    (∃ (s : State) (k : Fin 12) (vn : Fin 8) (type : Fin 32) (dst : BitVec 22) (src : BitVec 30) (tag : Option Bool)
      (flags : BitVec 4) (data : List Byte), s.canonical = true ∧ s.down = false ∧ coDev dst.toNat ≠ s.devid ∧ (vn = 5 ∨
      (s.fbit (Reg.MESH_XROUTE_VALID (2 * coDev dst.toNat + coHalf dst.toNat)) = true ∧ s.fbit (Reg.MESH_XROUTE_ON_ALT (2
      * coDev dst.toNat + coHalf dst.toNat)) = true))) ∧
    (∃ (s : State) (k : Fin 12) (vn : Fin 8) (type : Fin 32) (dst : BitVec 22) (src : BitVec 30) (tag : Option Bool)
      (flags : BitVec 4) (data : List Byte), s.canonical = true ∧ s.down = false ∧ coDev dst.toNat ≠ s.devid ∧ vn ≠ 5 ∧
      (s.fbit (Reg.MESH_XROUTE_VALID (2 * coDev dst.toNat + coHalf dst.toNat)) = true → s.fbit (Reg.MESH_XROUTE_ON_ALT (2
      * coDev dst.toNat + coHalf dst.toNat)) = false) ∧ s.egress (coDev dst.toNat) (coHalf dst.toNat) = none ∧ vnOf type
      = some 1 ∧ coDev src.toNat = s.devid) ∧
    (∃ (s : State) (k : Fin 12) (vn : Fin 8) (type : Fin 32) (dst : BitVec 22) (src : BitVec 30) (tag : Option Bool)
      (flags : BitVec 4) (data : List Byte), s.canonical = true ∧ s.down = false ∧ coDev dst.toNat ≠ s.devid ∧ vn ≠ 5 ∧
      (s.fbit (Reg.MESH_XROUTE_VALID (2 * coDev dst.toNat + coHalf dst.toNat)) = true → s.fbit (Reg.MESH_XROUTE_ON_ALT (2
      * coDev dst.toNat + coHalf dst.toNat)) = false) ∧ s.egress (coDev dst.toNat) (coHalf dst.toNat) = none ∧ vnOf type
      ≠ some 1) ∧
    (∃ (s : State) (k : Fin 12) (vn : Fin 8) (type : Fin 32) (dst : BitVec 22) (src : BitVec 30) (tag : Option Bool)
      (flags : BitVec 4) (data : List Byte), s.canonical = true ∧ s.down = false ∧ coDev dst.toNat = s.devid) :=
  ⟨⟨running |> fun (s : State) => ((((s.fon (Reg.MESH_XROUTE_VALID (2 * ((s.devid + 1) % 8)))).foff
      (Reg.MESH_XROUTE_ON_ALT (2 * ((s.devid + 1) % 8)))).fset (Reg.MESH_XROUTE_LINK (2 * ((s.devid + 1) % 8))) 4).fon
      (Reg.IBL_STATUS_UP 4)).foff Reg.MESH_CTL_JOB, 2, 0, 3, (BitVec.ofNat 22 (tileCoord ((0 + 1) % 8) 2 0)),
      (BitVec.ofNat 30 (ioCoord 0 6 0 0 + 9 * 2 ^ 22)), none, 0, [1], 4, (.esc 4 (tileCoord ((0 + 1) % 8) 2 0) (ioCoord 0
      6 0 0 + 9 * 2 ^ 22) 3 0 [1]), by decide +kernel⟩,
    ⟨running |> fun (s : State) => ((((s.fon (Reg.MESH_XROUTE_VALID (2 * ((s.devid + 1) % 8)))).foff
      (Reg.MESH_XROUTE_ON_ALT (2 * ((s.devid + 1) % 8)))).fset (Reg.MESH_XROUTE_LINK (2 * ((s.devid + 1) % 8))) 4).fon
      (Reg.IBL_STATUS_UP 4)).foff Reg.MESH_CTL_JOB, 2, 5, 3, (BitVec.ofNat 22 (tileCoord ((0 + 1) % 8) 2 0)),
      (BitVec.ofNat 30 (ioCoord 0 6 0 0 + 9 * 2 ^ 22)), none, 0, [1], by decide +kernel⟩,
    ⟨running |> fun s => forN 16 (fun i s => s.wr (Reg.MESH_XROUTE i) 0) s, 2, 0, 16, (BitVec.ofNat 22 (tileCoord ((0 +
      1) % 8) 2 0)), (BitVec.ofNat 30 (ioCoord 0 6 0 0 + 9 * 2 ^ 22)), none, 0, [1], by decide +kernel⟩,
    ⟨running |> fun s => forN 16 (fun i s => s.wr (Reg.MESH_XROUTE i) 0) s, 2, 0, 3, (BitVec.ofNat 22 (tileCoord ((0 + 1)
      % 8) 2 0)), (BitVec.ofNat 30 (ioCoord 0 6 0 0 + 9 * 2 ^ 22)), none, 0, [1], by decide +kernel⟩,
    ⟨running, 2, 0, 3, (BitVec.ofNat 22 (tileCoord 0 2 0)), (BitVec.ofNat 30 (ioCoord 0 6 0 0 + 9 * 2 ^ 22)), none, 0,
      [1], by decide +kernel⟩⟩

theorem test_ctrl_can_run : ∃ (s : State) (k : Fin 12) (words : List (BitVec 16)) (m : Master) (h : Nat) (r : List Nat),
  s.canonical = true ∧ s.down = false ∧ words.map BitVec.toNat = h :: r :=
  ⟨running.fon (Reg.IBL_STATUS_UP 4), 4, [0x0003, 0x10, 0x4, 0x820], .aon, 3, [0x10, 4, 0x820], by decide +kernel⟩

theorem test_linkEnable_can_run :
    (∃ (s : State) (m : Master) (k : Fin 12), s.canonical = true ∧ s.admits m (Reg.IBL_CTL k) = true ∧ s.fbit
      (Reg.IBL_CTL_EN k) = false) ∧
    (∃ (s : State) (m : Master) (k : Fin 12), s.canonical = true ∧ s.admits m (Reg.IBL_CTL k) = true ∧ s.fbit
      (Reg.IBL_CTL_EN k) = true) :=
  ⟨⟨running.foff (Reg.IBL_CTL_EN 4), .aon, 4, by decide +kernel⟩,
    ⟨running.fon (Reg.IBL_CTL_EN 4), .aon, 4, by decide +kernel⟩⟩

theorem test_linkUp_can_run :
    (∃ (s : State) (k : Fin 12) (lanes : BitVec 8) (peerWidth : Fin 4) (genMin : BitVec 4) (genMax : BitVec 4) (dev :
      BitVec 3) (peer : BitVec 4) (w : Nat), s.canonical = true ∧ s.down = false ∧ s.fbit (Reg.IBL_CTL_EN k) = true ∧
      s.fbit (Reg.IBL_STATUS_UP k) = false ∧ s.fget (Reg.IBL_STATUS_STATE k) ≠ 6 ∧ widthOf lanes.toNat (min (min (s.fget
      (Reg.IBL_CTL_WIDTH_MAX k)) peerWidth.val) ((s.link k).limit.getD 3)) = some w ∧ ((s.link k).auto = true → (s.link
      k).limit.getD 3 ≤ w ∨ s.fbit (Reg.IBL_CTL_AUTO_NARROW k) = true) ∧ (max (s.fget (Reg.IBL_GEN_GEN_MIN k))
      genMin.toNat) ≤ (min (s.fget (Reg.IBL_GEN_GEN_MAX k)) genMax.toNat)) ∧
    (∃ (s : State) (k : Fin 12) (lanes : BitVec 8) (peerWidth : Fin 4) (genMin : BitVec 4) (genMax : BitVec 4) (dev :
      BitVec 3) (peer : BitVec 4) (w : Nat), s.canonical = true ∧ s.down = false ∧ s.fbit (Reg.IBL_CTL_EN k) = true ∧
      s.fbit (Reg.IBL_STATUS_UP k) = false ∧ s.fget (Reg.IBL_STATUS_STATE k) ≠ 6 ∧ widthOf lanes.toNat (min (min (s.fget
      (Reg.IBL_CTL_WIDTH_MAX k)) peerWidth.val) ((s.link k).limit.getD 3)) = some w ∧ ((s.link k).auto = true → (s.link
      k).limit.getD 3 ≤ w ∨ s.fbit (Reg.IBL_CTL_AUTO_NARROW k) = true) ∧ (max (s.fget (Reg.IBL_GEN_GEN_MIN k))
      genMin.toNat) ≤ (min (s.fget (Reg.IBL_GEN_GEN_MAX k)) genMax.toNat) ∧ (s.link k).auto = true ∧ s.fbit
      Reg.MESH_CTL_JOB = true ∧ s.bareLink k = true) ∧
    (∃ (s : State) (k : Fin 12) (lanes : BitVec 8) (peerWidth : Fin 4) (genMin : BitVec 4) (genMax : BitVec 4) (dev :
      BitVec 3) (peer : BitVec 4) (w : Nat), s.canonical = true ∧ s.down = false ∧ s.fbit (Reg.IBL_CTL_EN k) = true ∧
      s.fbit (Reg.IBL_STATUS_UP k) = false ∧ s.fget (Reg.IBL_STATUS_STATE k) ≠ 6 ∧ widthOf lanes.toNat (min (min (s.fget
      (Reg.IBL_CTL_WIDTH_MAX k)) peerWidth.val) ((s.link k).limit.getD 3)) = some w ∧ ((s.link k).auto = true → (s.link
      k).limit.getD 3 ≤ w ∨ s.fbit (Reg.IBL_CTL_AUTO_NARROW k) = true) ∧ (min (s.fget (Reg.IBL_GEN_GEN_MAX k))
      genMax.toNat) < (max (s.fget (Reg.IBL_GEN_GEN_MIN k)) genMin.toNat)) ∧
    (∃ (s : State) (k : Fin 12) (lanes : BitVec 8) (peerWidth : Fin 4) (genMin : BitVec 4) (genMax : BitVec 4) (dev :
      BitVec 3) (peer : BitVec 4), s.canonical = true ∧ s.down = false ∧ (s.fbit (Reg.IBL_CTL_EN k) = false ∨ s.fbit
      (Reg.IBL_STATUS_UP k) = true ∨ s.fget (Reg.IBL_STATUS_STATE k) = 6 ∨ widthOf lanes.toNat (min (min (s.fget
      (Reg.IBL_CTL_WIDTH_MAX k)) peerWidth.val) ((s.link k).limit.getD 3)) = none ∨ ((s.link k).auto = true ∧ (widthOf
      lanes.toNat (min (min (s.fget (Reg.IBL_CTL_WIDTH_MAX k)) peerWidth.val) ((s.link k).limit.getD 3))).all (fun w =>
      decide (w < (s.link k).limit.getD 3)) = true ∧ s.fbit (Reg.IBL_CTL_AUTO_NARROW k) = false))) :=
  ⟨⟨running.fon (Reg.IBL_CTL_EN 4) |>.foff (Reg.IBL_STATUS_UP 4) |>.fset (Reg.IBL_STATUS_STATE 4) 1 |>.fset
      (Reg.IBL_CTL_WIDTH_MAX 4) 3 |>.fset (Reg.IBL_GEN_GEN_MAX 4) 2 |>.fset (Reg.IBL_GEN_GEN_MIN 4) 1, 4, 255, 2, 1, 2,
      3, 4, 2, by decide +kernel⟩,
    ⟨running.fon (Reg.IBL_CTL_EN 4) |>.foff (Reg.IBL_STATUS_UP 4) |>.fset (Reg.IBL_STATUS_STATE 4) 1 |>.fset
      (Reg.IBL_CTL_WIDTH_MAX 4) 3 |>.fset (Reg.IBL_GEN_GEN_MAX 4) 2 |>.fset (Reg.IBL_GEN_GEN_MIN 4) 1 |>.fon
      Reg.MESH_CTL_JOB |>.onLink 4 (fun x => { x with auto := true, limit := some 2 }) |>.fon (Reg.MESH_XROUTE_VALID 3)
      |>.fset (Reg.MESH_XROUTE_LINK 3) 4 |>.foff (Reg.MESH_XROUTE_ALT_VALID 3), 4, 255, 2, 1, 2, 3, 4, 2,
      by decide +kernel⟩,
    ⟨running.fon (Reg.IBL_CTL_EN 4) |>.foff (Reg.IBL_STATUS_UP 4) |>.fset (Reg.IBL_STATUS_STATE 4) 1 |>.fset
      (Reg.IBL_CTL_WIDTH_MAX 4) 3 |>.fset (Reg.IBL_GEN_GEN_MAX 4) 2 |>.fset (Reg.IBL_GEN_GEN_MIN 4) 1, 4, 255, 2, 3, 3,
      3, 4, 2, by decide +kernel⟩,
    ⟨running.fon (Reg.IBL_STATUS_UP 4), 4, 255, 2, 1, 2, 3, 4, by decide +kernel⟩⟩

theorem test_linkLost_can_run :
    (∃ (s : State) (k : Fin 12), s.canonical = true ∧ s.down = false ∧ s.fbit (Reg.IBL_STATUS_UP k) = true ∧ (s.link
      k).unsent.all (fun c => c.rq.all fun r => decide (coDev r = s.devid)) = true) ∧
    (∃ (s : State) (k : Fin 12), s.canonical = true ∧ s.down = false ∧ s.fbit (Reg.IBL_STATUS_UP k) = true) ∧
    (∃ (s : State) (k : Fin 12), s.canonical = true ∧ s.down = false ∧ s.fbit (Reg.IBL_STATUS_UP k) = false) :=
  ⟨⟨running.fon (Reg.IBL_STATUS_UP 4) |> fun s => s.onLink 4 fun x =>
      { LinkSt.init with out := [⟨1, none, some (ioCoord s.devid 6 0 0), (0, [])⟩, ⟨0, some (true, none), none, (0, [])⟩] },
      4, by decide +kernel⟩,
    ⟨running.fon (Reg.IBL_STATUS_UP 4) |> fun s => s.onLink 4 fun x =>
      { LinkSt.init with out := [⟨1, none, some (ioCoord s.devid 6 0 0), (0, [])⟩, ⟨0, some (true, none), none, (0, [])⟩] },
      4, by decide +kernel⟩,
    ⟨running.foff (Reg.IBL_STATUS_UP 4), 4, by decide +kernel⟩⟩

theorem test_linkRetrainRequest_can_run :
    (∃ (s : State) (m : Master) (k : Fin 12) (width : Fin 4), s.canonical = true ∧ s.admits m (Reg.IBL_CTL k) = true ∧
      s.fbit (Reg.IBL_CTL_EN k) = true ∧ (s.fbit Reg.MESH_CTL_JOB = false ∨ (s.bareLink k = false ∧ s.fget
      (Reg.IBL_STATUS_WIDTH k) ≤ width.val))) ∧
    (∃ (s : State) (m : Master) (k : Fin 12) (width : Fin 4), s.canonical = true ∧ s.admits m (Reg.IBL_CTL k) = true ∧
      s.fbit (Reg.IBL_CTL_EN k) = true ∧ s.fbit Reg.MESH_CTL_JOB = true ∧ s.bareLink k = true) ∧
    (∃ (s : State) (m : Master) (k : Fin 12) (width : Fin 4), s.canonical = true ∧ s.admits m (Reg.IBL_CTL k) = true ∧
      s.fbit (Reg.IBL_CTL_EN k) = true ∧ s.fbit Reg.MESH_CTL_JOB = true ∧ s.bareLink k = false ∧ width.val < s.fget
      (Reg.IBL_STATUS_WIDTH k)) ∧
    (∃ (s : State) (m : Master) (k : Fin 12) (width : Fin 4), s.canonical = true ∧ s.admits m (Reg.IBL_CTL k) = true ∧
      s.fbit (Reg.IBL_CTL_EN k) = false) :=
  ⟨⟨running.fon (Reg.IBL_STATUS_UP 3) |>.fon (Reg.IBL_CTL_EN 3) |>.foff Reg.MESH_CTL_JOB, .aon, 3, 2, by decide +kernel⟩,
    ⟨running.fon (Reg.IBL_STATUS_UP 3) |>.fon (Reg.IBL_CTL_EN 3) |>.fon Reg.MESH_CTL_JOB |>.fon (Reg.MESH_XROUTE_VALID 5)
      |>.fset (Reg.MESH_XROUTE_LINK 5) 3 |>.foff (Reg.MESH_XROUTE_ALT_VALID 5), .aon, 3, 2, by decide +kernel⟩,
    ⟨running.fon (Reg.IBL_STATUS_UP 3) |>.fon (Reg.IBL_CTL_EN 3) |>.fset (Reg.IBL_STATUS_WIDTH 3) 3 |>.fon
      Reg.MESH_CTL_JOB |> fun s => forN 16 (fun i s => s.wr (Reg.MESH_XROUTE i) 0) s, .aon, 3, 2, by decide +kernel⟩,
    ⟨running.foff (Reg.IBL_CTL_EN 3), .aon, 3, 2, by decide +kernel⟩⟩

theorem test_linkRetrainAuto_can_run :
    (∃ (s : State) (k : Fin 12), s.canonical = true ∧ s.down = false ∧ s.fbit (Reg.IBL_CTL_EN k) = true ∧ (s.fbit
      (Reg.IBL_STATUS_UP k) = true ∨ s.fget (Reg.IBL_STATUS_STATE k) = 6)) ∧
    (∃ (s : State) (k : Fin 12), s.canonical = true ∧ s.down = false ∧ (s.fbit (Reg.IBL_CTL_EN k) = false ∨ (s.fbit
      (Reg.IBL_STATUS_UP k) = false ∧ s.fget (Reg.IBL_STATUS_STATE k) ≠ 6))) :=
  ⟨⟨running.fon (Reg.IBL_CTL_EN 4) |>.fon (Reg.IBL_STATUS_UP 4) |> fun s => s.onLink 4 fun x =>
      { LinkSt.init with out := [⟨1, none, some (ioCoord s.devid 6 0 0), (0, [])⟩, ⟨0, some (true, none), none, (0, [])⟩] },
      4, by decide +kernel⟩,
    ⟨running.foff (Reg.IBL_CTL_EN 4), 4, by decide +kernel⟩⟩

theorem test_codewordReceive_can_run :
    (∃ (s : State) (k : Fin 12) (ok : Bool) (corrected : Bool) (seq : BitVec 12) (flit0 : BitVec 128) (flit1 : BitVec
      128) (cells : List (Fin 8 × Fin 32 × Option Bool)) (left : List (Fin 6)), s.canonical = true ∧ s.down = false ∧
      s.fbit (Reg.IBL_STATUS_UP k) = true ∧ ok = true ∧ (s.link k).due seq.toNat = true ∧ bit flit0.toNat 13 = false ∧
      bit flit1.toNat 13 = false ∧ bit flit0.toNat 12 = false ∧ bit flit1.toNat 12 = false ∧ (s.link k).retry.length <
      128 ∧ s.fbit Reg.INST_STATUS_COCOON = false ∧ (List.range 6).all (fun v => decide ((s.link k).held.getD v 0 + 13 ≤
      512)) = true) ∧
    (∃ (s : State) (k : Fin 12) (ok : Bool) (corrected : Bool) (seq : BitVec 12) (flit0 : BitVec 128) (flit1 : BitVec
      128) (cells : List (Fin 8 × Fin 32 × Option Bool)) (left : List (Fin 6)), s.canonical = true ∧ s.down = false ∧
      s.fbit (Reg.IBL_STATUS_UP k) = true ∧ ok = true ∧ (s.link k).due seq.toNat = true ∧ bit flit0.toNat 13 = false ∧
      bit flit1.toNat 13 = false ∧ bit flit0.toNat 12 = false ∧ bit flit1.toNat 12 = false ∧ 128 ≤ (s.link
      k).retry.length) ∧
    (∃ (s : State) (k : Fin 12) (ok : Bool) (corrected : Bool) (seq : BitVec 12) (flit0 : BitVec 128) (flit1 : BitVec
      128) (cells : List (Fin 8 × Fin 32 × Option Bool)) (left : List (Fin 6)) (v : Fin 6), s.canonical = true ∧ s.down =
      false ∧ s.fbit (Reg.IBL_STATUS_UP k) = true ∧ ok = true ∧ (s.link k).due seq.toNat = true ∧ bit flit0.toNat 13 =
      false ∧ bit flit1.toNat 13 = false ∧ left = [] ∧ s.fbit Reg.INST_STATUS_COCOON = false ∧ (List.range 6).all (fun v
      => decide ((s.link k).held.getD v 0 + 13 ≤ 512)) = true) ∧
    (∃ (s : State) (k : Fin 12) (ok : Bool) (corrected : Bool) (seq : BitVec 12) (flit0 : BitVec 128) (flit1 : BitVec
      128) (cells : List (Fin 8 × Fin 32 × Option Bool)) (left : List (Fin 6)), s.canonical = true ∧ s.down = false ∧
      s.fbit (Reg.IBL_STATUS_UP k) = true ∧ ok = false ∧ (s.link k).unc < 15) ∧
    (∃ (s : State) (k : Fin 12) (ok : Bool) (corrected : Bool) (seq : BitVec 12) (flit0 : BitVec 128) (flit1 : BitVec
      128) (cells : List (Fin 8 × Fin 32 × Option Bool)) (left : List (Fin 6)), s.canonical = true ∧ s.down = false ∧
      s.fbit (Reg.IBL_STATUS_UP k) = true ∧ ok = false ∧ 15 ≤ (s.link k).unc) ∧
    (∃ (s : State) (k : Fin 12) (ok : Bool) (corrected : Bool) (seq : BitVec 12) (flit0 : BitVec 128) (flit1 : BitVec
      128) (cells : List (Fin 8 × Fin 32 × Option Bool)) (left : List (Fin 6)), s.canonical = true ∧ s.down = false ∧
      s.fbit (Reg.IBL_STATUS_UP k) = true ∧ ok = true ∧ (s.link k).due seq.toNat = false) ∧
    (∃ (s : State) (k : Fin 12) (ok : Bool) (corrected : Bool) (seq : BitVec 12) (flit0 : BitVec 128) (flit1 : BitVec
      128) (cells : List (Fin 8 × Fin 32 × Option Bool)) (left : List (Fin 6)), s.canonical = true ∧ s.down = false ∧
      s.fbit (Reg.IBL_STATUS_UP k) = false) ∧
    (∃ (s : State) (k : Fin 12) (ok : Bool) (corrected : Bool) (seq : BitVec 12) (flit0 : BitVec 128) (flit1 : BitVec
      128) (cells : List (Fin 8 × Fin 32 × Option Bool)) (left : List (Fin 6)), s.canonical = true ∧ s.down = false) :=
  ⟨⟨running.fon (Reg.IBL_STATUS_UP 4) |>.foff Reg.INST_STATUS_COCOON |> fun s => s.onLink 4 fun x =>
      { LinkSt.init with rxSeq := some 6, out := [⟨1, none, some (ioCoord s.devid 6 0 0), (0, [])⟩] }, 4, true, true, 7,
      0x500000, 0x4000, [(1, 16, none), (0, 3, some true)], [], by decide +kernel⟩,
    ⟨running.fon (Reg.IBL_STATUS_UP 4) |>.foff Reg.INST_STATUS_COCOON |> fun s => s.onLink 4 fun x =>
      { LinkSt.init with rxSeq := some 6, retry := List.replicate 128 ⟨8, 0, [], []⟩ }, 4, true, false, 7, 0x500000,
      0x4000, [(1, 16, none), (7, 3, none)], [], by decide +kernel⟩,
    ⟨running.fon (Reg.IBL_STATUS_UP 4) |>.foff Reg.INST_STATUS_COCOON |> fun s => s.onLink 4 fun x =>
      { LinkSt.init with rxSeq := some 6, held := [127, 100, 0, 0, 0, 0], stop := [false, true, false, false, false, false] },
      4, true, true, 7, 0, 0, [(1, 16, none), (0, 3, some true)], [], 0, by decide +kernel⟩,
    ⟨running.fon (Reg.IBL_STATUS_UP 4) |> fun s => s.onLink 4 fun x => { LinkSt.init with rxSeq := some 6 }, 4, false,
      true, 7, 0, 0, [(1, 16, none)], [], by decide +kernel⟩,
    ⟨running.fon (Reg.IBL_STATUS_UP 4) |> fun s => s.onLink 4 fun x => { LinkSt.init with unc := 15 }, 4, false, true, 7,
      0, 0, [(1, 16, none)], [], by decide +kernel⟩,
    ⟨running.fon (Reg.IBL_STATUS_UP 4) |> fun s => s.onLink 4 fun x => { LinkSt.init with rxSeq := some 6 }, 4, true,
      true, 9, 0, 0, [(1, 16, none)], [], by decide +kernel⟩,
    ⟨running.foff (Reg.IBL_STATUS_UP 4), 4, true, true, 9, 0, 0, [(1, 16, none)], [0], by decide +kernel⟩,
    ⟨running, 4, true, true, 9, 0, 0, [], [], by decide +kernel⟩⟩

theorem test_nak_can_run :
    (∃ (s : State) (k : Fin 12) (seq : BitVec 12), s.canonical = true ∧ s.down = false ∧ s.fbit (Reg.IBL_STATUS_UP k) =
      true ∧ (((s.link k).retry.drop (ackCount (s.link k).retry seq.toNat)).any fun c => decide (s.retryMax k ≤
      c.replays)) = false) ∧
    (∃ (s : State) (k : Fin 12) (seq : BitVec 12), s.canonical = true ∧ s.down = false ∧ s.fbit (Reg.IBL_STATUS_UP k) =
      true ∧ (((s.link k).retry.drop (ackCount (s.link k).retry seq.toNat)).any fun c => decide (s.retryMax k ≤
      c.replays)) = true) ∧
    (∃ (s : State) (k : Fin 12) (seq : BitVec 12), s.canonical = true ∧ s.down = false ∧ s.fbit (Reg.IBL_STATUS_UP k) =
      false) :=
  ⟨⟨running.fon (Reg.IBL_STATUS_UP 4) |>.fset (Reg.IBL_CTL_RETRY_MAX 4) 3 |> fun s => s.onLink 4 fun x =>
      { LinkSt.init with retry := [⟨8, 0, [], []⟩, ⟨9, 1, [⟨1, none, some (ioCoord s.devid 6 0 0), (0, [])⟩], []⟩] }, 4,
      8, by decide +kernel⟩,
    ⟨running.fon (Reg.IBL_STATUS_UP 4) |>.fset (Reg.IBL_CTL_RETRY_MAX 4) 3 |> fun s => s.onLink 4 fun x =>
      { LinkSt.init with retry := [⟨8, 3, [], []⟩] }, 4, 7, by decide +kernel⟩,
    ⟨running.foff (Reg.IBL_STATUS_UP 4), 4, 8, by decide +kernel⟩⟩

theorem test_qSend_can_run :
    (∃ (s : State) (o : Fin 136) (stores : List (Fin 8 × List Byte)) (lenm1 : BitVec 3) (queue : BitVec 4) (dest : BitVec
      16) (d : Nat), s.canonical = true ∧ s.down = false ∧ s.ownerRuns o = true ∧ (s.owner o).stalled = [] ∧ (s.owner
      o).mc = none ∧ s.sendQn (lenm1.toNat * 2 ^ 28 + queue.toNat * 2 ^ 16 + dest.toNat) = some d ∧ s.place o d = true ∧
      qnDev d = s.devid) ∧
    (∃ (s : State) (o : Fin 136) (stores : List (Fin 8 × List Byte)) (lenm1 : BitVec 3) (queue : BitVec 4) (dest : BitVec
      16) (d : Nat), s.canonical = true ∧ s.down = false ∧ s.ownerRuns o = true ∧ (s.owner o).stalled = [] ∧ (s.owner
      o).mc = none ∧ s.sendQn (lenm1.toNat * 2 ^ 28 + queue.toNat * 2 ^ 16 + dest.toNat) = some d ∧ s.place o d = true ∧
      qnDev d ≠ s.devid ∧ s.routeFor (qnDev d) (coHalf (ownerCoord (qnDev d) (qnOwner d))) = false) ∧
    (∃ (s : State) (o : Fin 136) (stores : List (Fin 8 × List Byte)) (lenm1 : BitVec 3) (queue : BitVec 4) (dest : BitVec
      16) (d : Nat), s.canonical = true ∧ s.down = false ∧ s.ownerRuns o = true ∧ (s.owner o).stalled = [] ∧ (s.owner
      o).mc = none ∧ s.sendQn (lenm1.toNat * 2 ^ 28 + queue.toNat * 2 ^ 16 + dest.toNat) = some d ∧ s.place o d = false) ∧
    (∃ (s : State) (o : Fin 136) (stores : List (Fin 8 × List Byte)) (lenm1 : BitVec 3) (queue : BitVec 4) (dest : BitVec
      16), s.canonical = true ∧ s.down = false ∧ s.ownerRuns o = true ∧ (s.owner o).stalled = [] ∧ (s.owner o).mc = none
      ∧ s.sendQn (lenm1.toNat * 2 ^ 28 + queue.toNat * 2 ^ 16 + dest.toNat) = none ∧ s.unrank (bits (lenm1.toNat * 2 ^ 28
      + queue.toNat * 2 ^ 16 + dest.toNat) 15 0) = none) ∧
    (∃ (s : State) (o : Fin 136) (stores : List (Fin 8 × List Byte)) (lenm1 : BitVec 3) (queue : BitVec 4) (dest : BitVec
      16) (w : Nat) (c : List (List Byte)) (r : List (Nat × List (List Byte))) (d : Nat), s.canonical = true ∧ s.down =
      false ∧ s.ownerRuns o = true ∧ (s.owner o).mc = none ∧ (s.owner o).stalled = (w, c) :: r ∧ bit w 31 = false ∧
      s.sendQn w = some d ∧ s.place o d = false) ∧
    (∃ (s : State) (o : Fin 136) (stores : List (Fin 8 × List Byte)) (lenm1 : BitVec 3) (queue : BitVec 4) (dest : BitVec
      16), s.canonical = true ∧ s.down = false ∧ s.ownerRuns o = true) ∧
    (∃ (s : State) (o : Fin 136) (stores : List (Fin 8 × List Byte)) (lenm1 : BitVec 3) (queue : BitVec 4) (dest : BitVec
      16), s.canonical = true ∧ s.down = false ∧ s.ownerRuns o = false) :=
  ⟨⟨running.foff Reg.MESH_CTL_RANKS |> fun s => { s with ifaces := [] }, 129, [(0, [1, 2])], 1, 0, (BitVec.ofNat 16
      (qnOf 0 130 4)), (qnOf 0 130 4), by decide +kernel⟩,
    ⟨running.foff Reg.MESH_CTL_RANKS |>.fset Reg.AON_ID_DEVID 2 |> fun s => forN 16 (fun i s => s.wr (Reg.MESH_XROUTE i)
      0) { s with ifaces := [] }, 129, [(0, [1, 2])], 1, 0, (BitVec.ofNat 16 (qnOf 5 130 4)), (qnOf 5 130 4),
      by decide +kernel⟩,
    ⟨running.foff Reg.MESH_CTL_RANKS |> fun s => s.onIface (ownerCoord s.devid 129) (fun _ => ⟨0, 64, []⟩), 129, [(0, [1,
      2])], 1, 0, (BitVec.ofNat 16 (qnOf 0 130 4)), (qnOf 0 130 4), by decide +kernel⟩,
    ⟨running.fon Reg.MESH_CTL_RANKS |>.wr (Reg.MESH_RANK 3) 0, 129, [(0, [1, 2])], 1, 0, 53, by decide +kernel⟩,
    ⟨running.foff Reg.MESH_CTL_RANKS |> fun s => (s.onIface (ownerCoord s.devid 129) (fun _ => ⟨0, 64, []⟩)).onOwner 129
      fun x => { x with stalled := [(7, [])] }, 129, [(0, [1, 2])], 1, 0, 5, 7, [], [], 7, by decide +kernel⟩,
    ⟨running, 129, [(0, [1, 2])], 1, 0, 53, by decide +kernel⟩,
    ⟨running.foff (Reg.SEQ_CTL_RUN 11), 11, [], 0, 0, 5, by decide +kernel⟩⟩

theorem test_qSendMulticast_can_run :
    (∃ (s : State) (o : Fin 136) (stores : List (Fin 8 × List Byte)) (lenm1 : BitVec 3) (k : Nat) (l : List Nat),
      s.canonical = true ∧ s.down = false ∧ s.ownerRuns o = true ∧ (s.owner o).stalled = [] ∧ (s.owner o).mc = none ∧
      ((List.range 32).filter (fun i => bit (s.rd (Reg.Q_MC_MASK o)).toNat i && s.fbit (Reg.Q_MC_ENT_VALID o i))) = k ::
      l ∧ ((List.range 32).filter (fun i => bit (s.rd (Reg.Q_MC_MASK o)).toNat i && s.fbit (Reg.Q_MC_ENT_VALID o i))).all
      (fun i => decide (qnDev (s.entryQn o i) = s.devid)) = true ∧ s.place o (s.entryQn o k) = true ∧ l = []) ∧
    (∃ (s : State) (o : Fin 136) (stores : List (Fin 8 × List Byte)) (lenm1 : BitVec 3) (k : Nat) (l : List Nat),
      s.canonical = true ∧ s.down = false ∧ s.ownerRuns o = true ∧ (s.owner o).stalled = [] ∧ (s.owner o).mc = none ∧
      ((List.range 32).filter (fun i => bit (s.rd (Reg.Q_MC_MASK o)).toNat i && s.fbit (Reg.Q_MC_ENT_VALID o i))) = k ::
      l ∧ ((List.range 32).filter (fun i => bit (s.rd (Reg.Q_MC_MASK o)).toNat i && s.fbit (Reg.Q_MC_ENT_VALID o i))).all
      (fun i => decide (qnDev (s.entryQn o i) = s.devid)) = true ∧ s.place o (s.entryQn o k) = false ∧ l = []) ∧
    (∃ (s : State) (o : Fin 136) (stores : List (Fin 8 × List Byte)) (lenm1 : BitVec 3), s.canonical = true ∧ s.down =
      false ∧ s.ownerRuns o = true ∧ (s.owner o).stalled = [] ∧ (s.owner o).mc = none ∧ ((List.range 32).filter (fun i =>
      bit (s.rd (Reg.Q_MC_MASK o)).toNat i && s.fbit (Reg.Q_MC_ENT_VALID o i))) = [] ∧ s.fget (Reg.Q_MC_CFG_OBJ o) ≠
      0xFFFF ∧ s.replyFree (ownerCoord s.devid o) = true) ∧
    (∃ (s : State) (o : Fin 136) (stores : List (Fin 8 × List Byte)) (lenm1 : BitVec 3), s.canonical = true ∧ s.down =
      false ∧ s.ownerRuns o = true ∧ (s.owner o).stalled = [] ∧ (s.owner o).mc = none ∧ ((List.range 32).filter (fun i =>
      bit (s.rd (Reg.Q_MC_MASK o)).toNat i && s.fbit (Reg.Q_MC_ENT_VALID o i))) = [] ∧ s.fget (Reg.Q_MC_CFG_OBJ o) =
      0xFFFF) ∧
    (∃ (s : State) (o : Fin 136) (stores : List (Fin 8 × List Byte)) (lenm1 : BitVec 3) (m : McSt), s.canonical = true ∧
      s.down = false ∧ s.ownerRuns o = true ∧ (s.owner o).stalled = [] ∧ (s.owner o).mc = some m ∧ m.todo = []) ∧
    (∃ (s : State) (o : Fin 136) (stores : List (Fin 8 × List Byte)) (lenm1 : BitVec 3), s.canonical = true ∧ s.down =
      false ∧ s.ownerRuns o = true) ∧
    (∃ (s : State) (o : Fin 136) (stores : List (Fin 8 × List Byte)) (lenm1 : BitVec 3), s.canonical = true ∧ s.down =
      false ∧ s.ownerRuns o = false) :=
  ⟨⟨running.wr (Reg.Q_MC_MASK 129) 0x18 |>.foff (Reg.Q_MC_ENT_VALID 129 4) |>.fon (Reg.Q_MC_ENT_VALID 129 3) |> fun s =>
      { s with ifaces := [] }.fset (Reg.Q_MC_ENT_QN 129 3) (qnOf s.devid 130 4), 129, [(0, [1, 2])], 1, 3, [],
      by decide +kernel⟩,
    ⟨running.wr (Reg.Q_MC_MASK 129) 0x18 |>.foff (Reg.Q_MC_ENT_VALID 129 4) |>.fon (Reg.Q_MC_ENT_VALID 129 3) |>.fset
      (Reg.Q_MC_ENT_QN 129 3) (qnOf 0 130 4) |>.onIface (ownerCoord 0 129) fun x => { x with held := 64 }, 129, [(0, [1,
      2])], 1, 3, [], by decide +kernel⟩,
    ⟨running.wr (Reg.Q_MC_MASK 129) 0 |> fun s => { s with ifaces := [] }.fset (Reg.Q_MC_CFG_OBJ 129) 7, 129, [(0, [1,
      2])], 1, by decide +kernel⟩,
    ⟨running.wr (Reg.Q_MC_MASK 129) 0 |> fun s => { s with ifaces := [] }.fset (Reg.Q_MC_CFG_OBJ 129) 0xFFFF, 129, [(0,
      [1, 2])], 1, by decide +kernel⟩,
    ⟨running.onOwner 129 fun x => { x with mc := some ⟨[3], [], [[1]], 0, false⟩ }, 129, [(0, [1, 2])], 1, ⟨[3], [],
      [[1]], 0, false⟩, by decide +kernel⟩,
    ⟨running, 129, [(0, [1, 2])], 1, by decide +kernel⟩,
    ⟨running.foff (Reg.SEQ_CTL_RUN 11), 11, [], 0, by decide +kernel⟩⟩

theorem test_qmsg_can_run :
    (∃ (s : State) (dst : BitVec 22) (q : Fin 16) (lenm1 : BitVec 3) (first : Bool) (last : Bool) (src : BitVec 22) (alt
      : Bool) (data : List Byte) (ecc : Ecc) (o : Nat), s.canonical = true ∧ s.down = false ∧ s.dstOwner dst.toNat = o ∧
      s.ownerThere o = true ∧ (o < 128 → s.fbit Reg.INST_STATUS_COCOON = false) ∧ coDev src.toNat = s.devid ∧ lenm1 = 0 ∧
      first = true ∧ last = true ∧ (s.owner o).refused.all (fun r => decide (¬ (r.q = q.val ∧ r.src = src.toNat ∧ r.alt =
      alt))) = true ∧ (s.queue o q).want = [] ∧ (s.queue o q).notes = [] ∧ (s.queue o q).ring.all (fun x => x.2.isSome) =
      true ∧ (s.queue o q).fifo.all (fun m => !m.mine src.toNat alt) = true ∧ s.qOpen o q = true ∧ (s.queue o q).used = 0
      ∧ (s.queue o q).ring = [] ∧ 0 < (s.queue o q).free) ∧
    (∃ (s : State) (dst : BitVec 22) (q : Fin 16) (lenm1 : BitVec 3) (first : Bool) (last : Bool) (src : BitVec 22) (alt
      : Bool) (data : List Byte) (ecc : Ecc) (o : Nat), s.canonical = true ∧ s.down = false ∧ s.dstOwner dst.toNat = o ∧
      s.ownerThere o = true ∧ (o < 128 → s.fbit Reg.INST_STATUS_COCOON = false) ∧ coDev src.toNat = s.devid ∧ lenm1 = 0 ∧
      first = true ∧ last = true ∧ (s.owner o).refused.all (fun r => decide (¬ (r.q = q.val ∧ r.src = src.toNat ∧ r.alt =
      alt))) = true ∧ (s.queue o q).want = [] ∧ (s.queue o q).notes = [] ∧ (s.queue o q).ring.all (fun x => x.2.isSome) =
      true ∧ (s.queue o q).fifo.all (fun m => !m.mine src.toNat alt) = true ∧ s.qOpen o q = false) ∧
    (∃ (s : State) (dst : BitVec 22) (q : Fin 16) (lenm1 : BitVec 3) (first : Bool) (last : Bool) (src : BitVec 22) (alt
      : Bool) (data : List Byte) (ecc : Ecc) (o : Nat), s.canonical = true ∧ s.down = false ∧ s.dstOwner dst.toNat = o ∧
      s.ownerThere o = true ∧ (o < 128 → s.fbit Reg.INST_STATUS_COCOON = false) ∧ coDev src.toNat = s.devid ∧ lenm1 = 0 ∧
      first = true ∧ last = true ∧ (s.owner o).refused.all (fun r => decide (¬ (r.q = q.val ∧ r.src = src.toNat ∧ r.alt =
      alt))) = true ∧ (s.queue o q).want = [] ∧ (s.queue o q).notes = [] ∧ (s.queue o q).ring.all (fun x => x.2.isSome) =
      true ∧ (s.queue o q).fifo.all (fun m => !m.mine src.toNat alt) = true ∧ s.qOpen o q = true ∧ (s.queue o q).free = 0
      ∧ s.fget (Reg.Q_CFG_RING_LEN o q) ≤ (s.queue o q).used) ∧
    (∃ (s : State) (dst : BitVec 22) (q : Fin 16) (lenm1 : BitVec 3) (first : Bool) (last : Bool) (src : BitVec 22) (alt
      : Bool) (data : List Byte) (ecc : Ecc) (o : Nat), s.canonical = true ∧ s.down = false ∧ s.dstOwner dst.toNat = o ∧
      s.ownerThere o = true ∧ (o < 128 → s.fbit Reg.INST_STATUS_COCOON = false) ∧ coDev src.toNat = s.devid ∧ lenm1 = 0 ∧
      first = true ∧ last = true ∧ (s.owner o).refused.all (fun r => decide (¬ (r.q = q.val ∧ r.src = src.toNat ∧ r.alt =
      alt))) = true ∧ (s.queue o q).want = [] ∧ (s.queue o q).notes = [] ∧ (s.queue o q).ring.all (fun x => x.2.isSome) =
      true ∧ (s.queue o q).fifo.all (fun m => !m.mine src.toNat alt) = true ∧ s.qOpen o q = true ∧ (s.queue o q).free = 0
      ∧ (s.queue o q).used < s.fget (Reg.Q_CFG_RING_LEN o q) ∧ (s.queue o q).tail < s.fget (Reg.Q_CFG_RING_LEN o q) ∧
      (s.queue o q).ring.all (fun x => decide (x.1 ≠ (s.queue o q).tail)) = true) ∧
    (∃ (s : State) (dst : BitVec 22) (q : Fin 16) (lenm1 : BitVec 3) (first : Bool) (last : Bool) (src : BitVec 22) (alt
      : Bool) (data : List Byte) (ecc : Ecc) (o : Nat), s.canonical = true ∧ s.down = false ∧ s.dstOwner dst.toNat = o ∧
      s.ownerThere o = true ∧ (o < 128 → s.fbit Reg.INST_STATUS_COCOON = false) ∧ coDev src.toNat = s.devid ∧ 0 <
      lenm1.toNat ∧ first = true ∧ last = false ∧ (s.owner o).refused.all (fun r => decide (¬ (r.q = q.val ∧ r.src =
      src.toNat ∧ r.alt = alt))) = true ∧ s.qOpen o q = true ∧ (s.queue o q).used = 0 ∧ lenm1.toNat < (s.queue o q).free
      ∧ (s.queue o q).ring = [] ∧ (s.queue o q).fifo.all (fun m => !m.mine src.toNat alt) = true) ∧
    (∃ (s : State) (dst : BitVec 22) (q : Fin 16) (lenm1 : BitVec 3) (first : Bool) (last : Bool) (src : BitVec 22) (alt
      : Bool) (data : List Byte) (ecc : Ecc) (o : Nat), s.canonical = true ∧ s.down = false ∧ s.dstOwner dst.toNat = o ∧
      s.ownerThere o = true ∧ (o < 128 → s.fbit Reg.INST_STATUS_COCOON = false) ∧ coDev src.toNat = s.devid ∧ 0 <
      lenm1.toNat ∧ first = true ∧ last = false ∧ (s.owner o).refused.all (fun r => decide (¬ (r.q = q.val ∧ r.src =
      src.toNat ∧ r.alt = alt))) = true ∧ s.qOpen o q = true ∧ (s.queue o q).used = 0 ∧ lenm1.toNat < (s.queue o q).free
      ∧ (s.queue o q).ring = [] ∧ (s.queue o q).fifo.all (fun m => !m.mine src.toNat alt) = true ∧ s.qHead o q ≠ none) ∧
    (∃ (s : State) (dst : BitVec 22) (q : Fin 16) (lenm1 : BitVec 3) (first : Bool) (last : Bool) (src : BitVec 22) (alt
      : Bool) (data : List Byte) (ecc : Ecc) (o : Nat) (pre : List QMsg) (m : QMsg), s.canonical = true ∧ s.down = false
      ∧ s.dstOwner dst.toNat = o ∧ s.ownerThere o = true ∧ (o < 128 → s.fbit Reg.INST_STATUS_COCOON = false) ∧ coDev
      src.toNat = s.devid ∧ first = false ∧ (s.owner o).refused.all (fun r => decide (¬ (r.q = q.val ∧ r.src = src.toNat
      ∧ r.alt = alt))) = true ∧ (s.queue o q).fifo = pre ++ [m] ∧ pre.all (fun m => !m.mine src.toNat alt) = true ∧
      m.mine src.toNat alt = true ∧ (s.queue o q).want = [] ∧ (s.queue o q).notes = [] ∧ (s.queue o q).ring = [] ∧ last =
      true) ∧
    (∃ (s : State) (dst : BitVec 22) (q : Fin 16) (lenm1 : BitVec 3) (first : Bool) (last : Bool) (src : BitVec 22) (alt
      : Bool) (data : List Byte) (ecc : Ecc) (o : Nat) (pre : List QMsg) (m : QMsg), s.canonical = true ∧ s.down = false
      ∧ s.dstOwner dst.toNat = o ∧ s.ownerThere o = true ∧ (o < 128 → s.fbit Reg.INST_STATUS_COCOON = false) ∧ coDev
      src.toNat = s.devid ∧ first = false ∧ (s.owner o).refused.all (fun r => decide (¬ (r.q = q.val ∧ r.src = src.toNat
      ∧ r.alt = alt))) = true ∧ (s.queue o q).fifo = pre ++ [m] ∧ pre.all (fun m => !m.mine src.toNat alt) = true ∧
      m.mine src.toNat alt = true ∧ (s.queue o q).want = [] ∧ (s.queue o q).notes = [] ∧ (s.queue o q).ring = [] ∧ last =
      false) ∧
    (∃ (s : State) (dst : BitVec 22) (q : Fin 16) (lenm1 : BitVec 3) (first : Bool) (last : Bool) (src : BitVec 22) (alt
      : Bool) (data : List Byte) (ecc : Ecc) (o : Nat) (pre : List QMsg) (m : QMsg), s.canonical = true ∧ s.down = false
      ∧ s.dstOwner dst.toNat = o ∧ s.ownerThere o = true ∧ (o < 128 → s.fbit Reg.INST_STATUS_COCOON = false) ∧ coDev
      src.toNat = s.devid ∧ first = false ∧ (s.owner o).refused.all (fun r => decide (¬ (r.q = q.val ∧ r.src = src.toNat
      ∧ r.alt = alt))) = true ∧ (s.queue o q).fifo = pre ++ [m] ∧ pre.all (fun m => !m.mine src.toNat alt) = true ∧
      m.mine src.toNat alt = true ∧ (s.queue o q).want = [] ∧ (s.queue o q).notes = [] ∧ (s.queue o q).ring = [] ∧ last =
      false ∧ s.qHead o q ≠ none) ∧
    (∃ (s : State) (dst : BitVec 22) (q : Fin 16) (lenm1 : BitVec 3) (first : Bool) (last : Bool) (src : BitVec 22) (alt
      : Bool) (data : List Byte) (ecc : Ecc) (o : Nat) (r : Refused), s.canonical = true ∧ s.down = false ∧ s.dstOwner
      dst.toNat = o ∧ s.ownerThere o = true ∧ (o < 128 → s.fbit Reg.INST_STATUS_COCOON = false) ∧ coDev src.toNat =
      s.devid ∧ first = false ∧ (s.owner o).refused.find? (fun r => decide (r.q = q.val ∧ r.src = src.toNat ∧ r.alt =
      alt)) = some r ∧ last = true) ∧
    (∃ (s : State) (dst : BitVec 22) (q : Fin 16) (lenm1 : BitVec 3) (first : Bool) (last : Bool) (src : BitVec 22) (alt
      : Bool) (data : List Byte) (ecc : Ecc) (o : Nat) (r : Refused), s.canonical = true ∧ s.down = false ∧ s.dstOwner
      dst.toNat = o ∧ s.ownerThere o = true ∧ (o < 128 → s.fbit Reg.INST_STATUS_COCOON = false) ∧ coDev src.toNat =
      s.devid ∧ first = false ∧ (s.owner o).refused.find? (fun r => decide (r.q = q.val ∧ r.src = src.toNat ∧ r.alt =
      alt)) = some r ∧ last = false) ∧
    (∃ (s : State) (dst : BitVec 22) (q : Fin 16) (lenm1 : BitVec 3) (first : Bool) (last : Bool) (src : BitVec 22) (alt
      : Bool) (data : List Byte) (ecc : Ecc) (o : Nat), s.canonical = true ∧ s.down = false ∧ s.dstOwner dst.toNat = o ∧
      s.ownerThere o = true ∧ o < 128 ∧ s.fbit Reg.INST_STATUS_COCOON = true ∧ coDev src.toNat = s.devid) ∧
    (∃ (s : State) (dst : BitVec 22) (q : Fin 16) (lenm1 : BitVec 3) (first : Bool) (last : Bool) (src : BitVec 22) (alt
      : Bool) (data : List Byte) (ecc : Ecc) (o : Nat), s.canonical = true ∧ s.down = false ∧ s.dstOwner dst.toNat = o ∧
      s.ownerThere o = false ∧ coDev src.toNat = s.devid) ∧
    (∃ (s : State) (dst : BitVec 22) (q : Fin 16) (lenm1 : BitVec 3) (first : Bool) (last : Bool) (src : BitVec 22) (alt
      : Bool) (data : List Byte) (ecc : Ecc), s.canonical = true ∧ s.down = false) :=
  ⟨⟨running.fon (Reg.Q_CFG_OPEN 129 3) |>.foff Reg.INST_STATUS_COCOON, (BitVec.ofNat 22 (ownerCoord 0 129)), 3, 0, true,
      true, (BitVec.ofNat 22 (ioCoord 0 6 0 3)), false, [1, 2], .none, 129, by decide +kernel⟩,
    ⟨running.foff (Reg.Q_CFG_OPEN 129 3) |>.foff Reg.INST_STATUS_COCOON, (BitVec.ofNat 22 (ownerCoord 0 129)), 3, 0,
      true, true, (BitVec.ofNat 22 (ioCoord 0 6 0 3)), false, [1, 2], .none, 129, by decide +kernel⟩,
    ⟨running.fon (Reg.Q_CFG_OPEN 129 3) |>.foff Reg.INST_STATUS_COCOON |>.fset (Reg.Q_CFG_RING_LEN 129 3) 0 |>.onQueue
      129 3 (fun x => { x with resv := 64 }), (BitVec.ofNat 22 (ownerCoord 0 129)), 3, 0, true, true, (BitVec.ofNat 22
      (ioCoord 0 6 0 3)), false, [1, 2], .none, 129, by decide +kernel⟩,
    ⟨running.fon (Reg.Q_CFG_OPEN 129 3) |>.foff Reg.INST_STATUS_COCOON |>.fset (Reg.Q_CFG_RING_LEN 129 3) 8 |>.onQueue
      129 3 (fun x => { x with resv := 64 }) |>.fset (Reg.Q_RING_HI_BASE 129 3) 0x800 |>.fset (Reg.Q_RING_LO_BASE 129 3)
      64 |>.fon (Reg.REG_LIMIT_H_EN rsetApp 0) |>.fon (Reg.REG_LIMIT_H_R rsetApp 0) |>.fon (Reg.REG_LIMIT_H_W rsetApp 0)
      |>.fon (Reg.REG_LIMIT_H_A rsetApp 0) |>.wr (Reg.REG_BASE_L rsetApp 0) 0 |>.fset (Reg.REG_BASE_H_BASE_H rsetApp 0) 0
      |>.wr (Reg.REG_LIMIT_L rsetApp 0) 0xFFFFFFFF |>.fset (Reg.REG_LIMIT_H_LIMIT_H rsetApp 0) 0xFFFF, (BitVec.ofNat 22
      (ownerCoord 0 129)), 3, 0, true, true, (BitVec.ofNat 22 (ioCoord 0 6 0 3)), false, [1, 2], .none, 129,
      by decide +kernel⟩,
    ⟨running.fon (Reg.Q_CFG_OPEN 129 3) |>.foff Reg.INST_STATUS_COCOON, (BitVec.ofNat 22 (ownerCoord 0 129)), 3, 2, true,
      false, (BitVec.ofNat 22 (ioCoord 0 6 0 3)), false, [1, 2], .none, 129, by decide +kernel⟩,
    ⟨running.fon (Reg.Q_CFG_OPEN 129 3) |>.foff Reg.INST_STATUS_COCOON |>.onQueue 129 3 fun x =>
      { x with fifo := [⟨2, 0, 5, 0xffff, 0, false, [([1], false), ([2], true)], 1, true⟩] }, (BitVec.ofNat 22
      (ownerCoord 0 129)), 3, 2, true, false, (BitVec.ofNat 22 (ioCoord 0 6 0 3)), false, [1, 2], .none, 129,
      by decide +kernel⟩,
    ⟨running.fon (Reg.Q_CFG_OPEN 129 3) |>.foff Reg.INST_STATUS_COCOON |> fun s => s.onQueue 129 3 fun x =>
      { x with fifo := [⟨2, 0, ioCoord s.devid 6 0 3, 0, 0, false, [([7], false)], 0, false⟩] }, (BitVec.ofNat 22
      (ownerCoord 0 129)), 3, 1, false, true, (BitVec.ofNat 22 (ioCoord 0 6 0 3)), false, [1, 2], .none, 129, [], ⟨2, 0,
      ioCoord 0 6 0 3, 0, 0, false, [([7], false)], 0, false⟩, by decide +kernel⟩,
    ⟨running.fon (Reg.Q_CFG_OPEN 129 3) |>.foff Reg.INST_STATUS_COCOON |> fun s => s.onQueue 129 3 fun x =>
      { x with fifo := [⟨2, 0, ioCoord s.devid 6 0 3, 0, 0, false, [([7], false)], 0, false⟩] }, (BitVec.ofNat 22
      (ownerCoord 0 129)), 3, 1, false, false, (BitVec.ofNat 22 (ioCoord 0 6 0 3)), false, [1, 2], .none, 129, [], ⟨2, 0,
      ioCoord 0 6 0 3, 0, 0, false, [([7], false)], 0, false⟩, by decide +kernel⟩,
    ⟨running.fon (Reg.Q_CFG_OPEN 129 3) |>.foff Reg.INST_STATUS_COCOON |> fun s => s.onQueue 129 3 fun x =>
      { x with fifo := [⟨2, 0, 5, 0xffff, 0, false, [([1], false), ([2], true)], 1, true⟩] ++ [⟨2, 0, ioCoord s.devid 6 0 3, 0, 0, false, [([7], false)], 0, false⟩] },
      (BitVec.ofNat 22 (ownerCoord 0 129)), 3, 1, false, false, (BitVec.ofNat 22 (ioCoord 0 6 0 3)), false, [1, 2],
      .none, 129, [⟨2, 0, 5, 0xffff, 0, false, [([1], false), ([2], true)], 1, true⟩], ⟨2, 0, ioCoord 0 6 0 3, 0, 0,
      false, [([7], false)], 0, false⟩, by decide +kernel⟩,
    ⟨running.fon (Reg.Q_CFG_OPEN 129 3) |>.foff Reg.INST_STATUS_COCOON |> fun s => s.onOwner 129 fun w =>
      { w with refused := [⟨3, ioCoord s.devid 6 0 3, false, 2, 2⟩] }, (BitVec.ofNat 22 (ownerCoord 0 129)), 3, 1, false,
      true, (BitVec.ofNat 22 (ioCoord 0 6 0 3)), false, [1, 2], .none, 129, ⟨3, ioCoord 0 6 0 3, false, 2, 2⟩,
      by decide +kernel⟩,
    ⟨running.fon (Reg.Q_CFG_OPEN 129 3) |>.foff Reg.INST_STATUS_COCOON |> fun s => s.onOwner 129 fun w =>
      { w with refused := [⟨3, ioCoord s.devid 6 0 3, false, 2, 2⟩] }, (BitVec.ofNat 22 (ownerCoord 0 129)), 3, 1, false,
      false, (BitVec.ofNat 22 (ioCoord 0 6 0 3)), false, [1, 2], .none, 129, ⟨3, ioCoord 0 6 0 3, false, 2, 2⟩,
      by decide +kernel⟩,
    ⟨running.fon Reg.INST_STATUS_COCOON, (BitVec.ofNat 22 (ownerCoord 0 11)), 3, 1, false, true, (BitVec.ofNat 22
      (ioCoord 0 6 0 3)), false, [1, 2], .none, 11, by decide +kernel⟩,
    ⟨running, (BitVec.ofNat 22 (ioCoord 0 6 1 3)), 3, 1, true, true, (BitVec.ofNat 22 (ioCoord 0 6 0 3)), false, [1, 2],
      .none, 512, by decide +kernel⟩,
    ⟨running.fon (Reg.Q_CFG_OPEN 129 3) |>.foff Reg.INST_STATUS_COCOON, (BitVec.ofNat 22 (ownerCoord 0 129)), 3, 0, true,
      true, (BitVec.ofNat 22 (ioCoord 0 6 0 3)), false, [1, 2], .none, by decide +kernel⟩⟩

theorem test_qmsgReply_can_run :
    (∃ (s : State) (o : Fin 137) (qn : BitVec 16) (code : Fin 8) (why : BitVec 8) (n : BitVec 8) (x : SendSt),
      s.canonical = true ∧ s.down = false ∧ (s.owner o).stalled = [] ∧ (s.owner o).mc = none ∧ o ≠ 136 ∧ x.entry = none ∧
      x.wake = none ∧ s.awaits o qn.toNat = some x ∧ code = 1 ∧ why = 1 ∧ (s.iface (ownerCoord s.devid o)).wait = []) ∧
    (∃ (s : State) (o : Fin 137) (qn : BitVec 16) (code : Fin 8) (why : BitVec 8) (n : BitVec 8) (x : SendSt),
      s.canonical = true ∧ s.down = false ∧ (s.owner o).stalled = [] ∧ (s.owner o).mc = none ∧ o ≠ 136 ∧ x.entry = none ∧
      x.wake = none ∧ s.awaits o qn.toNat = some x ∧ code = 0 ∧ (s.iface (ownerCoord s.devid o)).wait = []) ∧
    (∃ (s : State) (o : Fin 137) (qn : BitVec 16) (code : Fin 8) (why : BitVec 8) (n : BitVec 8) (x : SendSt),
      s.canonical = true ∧ s.down = false ∧ (s.owner o).stalled = [] ∧ (s.owner o).mc = none ∧ o ≠ 136 ∧ x.entry = none ∧
      x.wake = none ∧ s.awaits o qn.toNat = some x ∧ code = 1 ∧ why ≠ 1) ∧
    (∃ (s : State) (o : Fin 137) (qn : BitVec 16) (code : Fin 8) (why : BitVec 8) (n : BitVec 8) (x : SendSt),
      s.canonical = true ∧ s.down = false ∧ (s.owner o).stalled = [] ∧ (s.owner o).mc = none ∧ o ≠ 136 ∧ x.entry = none ∧
      x.wake = none ∧ s.awaits o qn.toNat = some x ∧ code = 2) ∧
    (∃ (s : State) (o : Fin 137) (qn : BitVec 16) (code : Fin 8) (why : BitVec 8) (n : BitVec 8) (x : SendSt),
      s.canonical = true ∧ s.down = false ∧ (s.owner o).stalled = [] ∧ (s.owner o).mc = none ∧ o ≠ 136 ∧ x.entry = none ∧
      x.wake = none ∧ s.awaits o qn.toNat = some x ∧ 3 ≤ code) ∧
    (∃ (s : State) (o : Fin 137) (qn : BitVec 16) (code : Fin 8) (why : BitVec 8) (n : BitVec 8) (x : SendSt) (i : Nat)
      (m : McSt) (e : Bool), s.canonical = true ∧ s.down = false ∧ (s.owner o).stalled = [] ∧ o ≠ 136 ∧ s.awaits o
      qn.toNat = some x ∧ x.entry = some i ∧ i < 32 ∧ x.wake = none ∧ (s.owner o).mc = some m ∧ m.todo = [] ∧ (code ≠ 1 ∨
      why ≠ 1) ∧ m.sel.all (fun j => decide (j = i) || bit ((s.rd (Reg.Q_MC_DONE o)).toNat ||| (s.rd (Reg.Q_MC_FAIL
      o)).toNat) j) = e ∧ code = 0 ∧ e = true) ∧
    (∃ (s : State) (o : Fin 137) (qn : BitVec 16) (code : Fin 8) (why : BitVec 8) (n : BitVec 8) (x : SendSt) (i : Nat)
      (m : McSt) (e : Bool), s.canonical = true ∧ s.down = false ∧ (s.owner o).stalled = [] ∧ o ≠ 136 ∧ s.awaits o
      qn.toNat = some x ∧ x.entry = some i ∧ i < 32 ∧ x.wake = none ∧ (s.owner o).mc = some m ∧ m.todo = [] ∧ (code ≠ 1 ∨
      why ≠ 1) ∧ m.sel.all (fun j => decide (j = i) || bit ((s.rd (Reg.Q_MC_DONE o)).toNat ||| (s.rd (Reg.Q_MC_FAIL
      o)).toNat) j) = e ∧ code ≠ 0) ∧
    (∃ (s : State) (o : Fin 137) (qn : BitVec 16) (code : Fin 8) (why : BitVec 8) (n : BitVec 8) (x : SendSt) (i : Nat)
      (m : McSt) (e : Bool), s.canonical = true ∧ s.down = false ∧ (s.owner o).stalled = [] ∧ o ≠ 136 ∧ s.awaits o
      qn.toNat = some x ∧ x.entry = some i ∧ i < 32 ∧ x.wake = none ∧ (s.owner o).mc = some m ∧ m.todo = [] ∧ (code ≠ 1 ∨
      why ≠ 1) ∧ m.sel.all (fun j => decide (j = i) || bit ((s.rd (Reg.Q_MC_DONE o)).toNat ||| (s.rd (Reg.Q_MC_FAIL
      o)).toNat) j) = e ∧ e = false) ∧
    (∃ (s : State) (o : Fin 137) (qn : BitVec 16) (code : Fin 8) (why : BitVec 8) (n : BitVec 8) (x : SendSt) (i : Nat)
      (bell : Bool), s.canonical = true ∧ s.down = false ∧ o = 136 ∧ s.awaits o qn.toNat = some x ∧ x.entry = none ∧
      x.wake = some (i, bell) ∧ (s.owner o).stalled = [] ∧ (s.owner o).mc = none ∧ (s.owner o).wakes = [] ∧ (code ≠ 1 ∨
      why ≠ 1) ∧ code ≠ 0 ∧ code ≠ 2 ∧ bell = true) ∧
    (∃ (s : State) (o : Fin 137) (qn : BitVec 16) (code : Fin 8) (why : BitVec 8) (n : BitVec 8) (x : SendSt) (i : Nat)
      (bell : Bool), s.canonical = true ∧ s.down = false ∧ o = 136 ∧ s.awaits o qn.toNat = some x ∧ x.entry = none ∧
      x.wake = some (i, bell) ∧ (s.owner o).stalled = [] ∧ (s.owner o).mc = none ∧ (s.owner o).wakes = [] ∧ (code ≠ 1 ∨
      why ≠ 1) ∧ (code = 0 ∨ code = 2)) ∧
    (∃ (s : State) (o : Fin 137) (qn : BitVec 16) (code : Fin 8) (why : BitVec 8) (n : BitVec 8) (x : SendSt),
      s.canonical = true ∧ s.down = false ∧ s.awaits o qn.toNat = some x) ∧
    (∃ (s : State) (o : Fin 137) (qn : BitVec 16) (code : Fin 8) (why : BitVec 8) (n : BitVec 8), s.canonical = true ∧
      s.down = false ∧ s.awaits o qn.toNat = none) :=
  ⟨⟨running.onOwner 129 fun w => { w with busy := [⟨77, [[1]], none, none, 0, none⟩] }, 129, 77, 1, 1, 0, ⟨77, [[1]],
      none, none, 0, none⟩, by decide +kernel⟩,
    ⟨running.onOwner 129 fun w => { w with busy := [⟨77, [[1]], none, none, 0, none⟩] }, 129, 77, 0, 0, 3, ⟨77, [[1]],
      none, none, 0, none⟩, by decide +kernel⟩,
    ⟨running.onOwner 129 fun w => { w with busy := [⟨77, [[1]], none, none, 0, none⟩] }, 129, 77, 1, 0, 3, ⟨77, [[1]],
      none, none, 0, none⟩, by decide +kernel⟩,
    ⟨running.onOwner 129 fun w => { w with busy := [⟨77, [[1]], none, none, 0, none⟩] }, 129, 77, 2, 0, 3, ⟨77, [[1]],
      none, none, 0, none⟩, by decide +kernel⟩,
    ⟨running.onOwner 129 fun w => { w with busy := [⟨77, [[1]], none, none, 0, none⟩] }, 129, 77, 3, 0, 3, ⟨77, [[1]],
      none, none, 0, none⟩, by decide +kernel⟩,
    ⟨running.wr (Reg.Q_MC_DONE 129) 0 |>.wr (Reg.Q_MC_FAIL 129) 0 |>.onOwner 129 fun w =>
      { w with busy := [⟨77, [[1]], some 3, none, 0, none⟩], mc := some ⟨[3], [], [[1]], 0, false⟩ }, 129, 77, 0, 0, 0,
      ⟨77, [[1]], some 3, none, 0, none⟩, 3, ⟨[3], [], [[1]], 0, false⟩, true, by decide +kernel⟩,
    ⟨running.wr (Reg.Q_MC_DONE 129) 0 |>.wr (Reg.Q_MC_FAIL 129) 0 |>.onOwner 129 fun w =>
      { w with busy := [⟨77, [[1]], some 3, none, 0, none⟩], mc := some ⟨[3], [], [[1]], 0, false⟩ }, 129, 77, 3, 0, 0,
      ⟨77, [[1]], some 3, none, 0, none⟩, 3, ⟨[3], [], [[1]], 0, false⟩, true, by decide +kernel⟩,
    ⟨running.wr (Reg.Q_MC_DONE 129) 0 |>.wr (Reg.Q_MC_FAIL 129) 0 |>.onOwner 129 fun w =>
      { w with busy := [⟨77, [[1]], some 3, none, 0, none⟩], mc := some ⟨[3, 4], [], [[1]], 0, false⟩ }, 129, 77, 2, 0,
      4, ⟨77, [[1]], some 3, none, 0, none⟩, 3, ⟨[3, 4], [], [[1]], 0, false⟩, false, by decide +kernel⟩,
    ⟨running.onOwner 136 fun w => { w with busy := [⟨77, [[1]], none, some (5, true), 0, none⟩] }, 136, 77, 3, 0, 0, ⟨77,
      [[1]], none, some (5, true), 0, none⟩, 5, true, by decide +kernel⟩,
    ⟨running.onOwner 136 fun w => { w with busy := [⟨77, [[1]], none, some (5, true), 0, none⟩] }, 136, 77, 0, 0, 0, ⟨77,
      [[1]], none, some (5, true), 0, none⟩, 5, true, by decide +kernel⟩,
    ⟨running.onOwner 129 fun w => { w with busy := [⟨77, [[1]], none, none, 0, none⟩] }, 129, 77, 0, 0, 0, ⟨77, [[1]],
      none, none, 0, none⟩, by decide +kernel⟩,
    ⟨running.onOwner 129 fun w => { w with busy := [] }, 129, 77, 0, 0, 0, by decide +kernel⟩⟩

theorem test_qmsgResend_can_run :
    (∃ (s : State) (o : Fin 137) (qn : BitVec 16) (x : SendSt) (e : Nat), s.canonical = true ∧ s.down = false ∧ (s.owner
      o).busy.find? (fun y => decide (y.qn = qn.toNat)) = some x ∧ x.retryAt = some e ∧ e ≤ s.time ∧ (s.owner o).stalled
      = [] ∧ (s.owner o).mc = none ∧ (o = 136 → (s.owner o).wakes = []) ∧ qnDev qn.toNat = s.devid) ∧
    (∃ (s : State) (o : Fin 137) (qn : BitVec 16), s.canonical = true ∧ s.down = false ∧ ((s.owner o).busy.find? (fun y
      => decide (y.qn = qn.toNat))).all (fun x => x.retryAt.all fun e => decide (s.time < e)) = true) :=
  ⟨⟨running |> fun s => s.onOwner 129 fun w => { w with busy := [⟨qnOf s.devid 130 4, [[1]], none, none, 0, some 0⟩] },
      129, (BitVec.ofNat 16 (qnOf 0 130 4)), (⟨qnOf 0 130 4, [[1]], none, none, 0, some 0⟩), 0, by decide +kernel⟩,
    ⟨running.onOwner 129 fun w => { w with busy := [] }, 129, 77, by decide +kernel⟩⟩

theorem test_qmsgReplyTimeout_can_run :
    (∃ (s : State) (o : Fin 137) (qn : BitVec 16) (x : SendSt), s.canonical = true ∧ s.down = false ∧ (s.owner o).stalled
      = [] ∧ (s.owner o).mc = none ∧ o ≠ 136 ∧ x.entry = none ∧ x.wake = none ∧ s.awaits o qn.toNat = some x ∧ x.sentAt +
      1000000 ≤ s.time ∧ (s.iface (ownerCoord s.devid o)).wait = []) ∧
    (∃ (s : State) (o : Fin 137) (qn : BitVec 16) (x : SendSt) (i : Nat) (m : McSt), s.canonical = true ∧ s.down = false
      ∧ (s.owner o).stalled = [] ∧ o ≠ 136 ∧ s.awaits o qn.toNat = some x ∧ x.sentAt + 1000000 ≤ s.time ∧ x.entry = some
      i ∧ i < 32 ∧ x.wake = none ∧ (s.owner o).mc = some m ∧ m.todo = []) ∧
    (∃ (s : State) (o : Fin 137) (qn : BitVec 16), s.canonical = true ∧ s.down = false ∧ (s.awaits o qn.toNat).all (fun x
      => decide (s.time < x.sentAt + 1000000)) = true) :=
  ⟨⟨running |> fun s => ({ s with time := 1000009 } : State).onOwner 129 fun w =>
      { w with busy := [⟨77, [[1]], none, none, 0, none⟩] }, 129, 77, ⟨77, [[1]], none, none, 0, none⟩,
      by decide +kernel⟩,
    ⟨running |> fun s => ({ s with time := 1000009 } : State).onOwner 129 fun w =>
      { w with busy := [⟨77, [[1]], some 3, none, 0, none⟩], mc := some ⟨[3, 4], [], [[1]], 0, false⟩ }, 129, 77, ⟨77,
      [[1]], some 3, none, 0, none⟩, 3, ⟨[3, 4], [], [[1]], 0, false⟩, by decide +kernel⟩,
    ⟨running.onOwner 129 fun w => { w with busy := [] }, 129, 77, by decide +kernel⟩⟩

theorem test_mcTimeout_can_run :
    (∃ (s : State) (o : Fin 136) (m : McSt) (k : Fin 32), s.canonical = true ∧ s.down = false ∧ (s.owner o).mc = some m ∧
      s.fget (Reg.Q_MC_CFG_TIMEOUT o) ≠ 0 ∧ m.start + 1000 * s.fget (Reg.Q_MC_CFG_TIMEOUT o) ≤ s.time ∧ (s.owner
      o).busy.all (fun y => !(y.entry.isSome && y.retryAt.isSome)) = true ∧ (s.owner o).stalled = [] ∧ m.todo.all (fun i
      => decide (i < 32)) = true ∧ k.val ∈ m.todo ∧ m.todo ≠ [] ∧ m.todo = m.sel) ∧
    (∃ (s : State) (o : Fin 136) (m : McSt) (k : Fin 32), s.canonical = true ∧ s.down = false ∧ (s.owner o).mc = some m ∧
      s.fget (Reg.Q_MC_CFG_TIMEOUT o) ≠ 0 ∧ m.start + 1000 * s.fget (Reg.Q_MC_CFG_TIMEOUT o) ≤ s.time ∧ (s.owner
      o).busy.all (fun y => !(y.entry.isSome && y.retryAt.isSome)) = true ∧ (s.owner o).stalled = [] ∧ m.todo.all (fun i
      => decide (i < 32)) = true ∧ m.todo = []) ∧
    (∃ (s : State) (o : Fin 136) (m : McSt) (y : SendSt) (i : Nat), s.canonical = true ∧ s.down = false ∧ (s.owner o).mc
      = some m ∧ s.fget (Reg.Q_MC_CFG_TIMEOUT o) ≠ 0 ∧ m.start + 1000 * s.fget (Reg.Q_MC_CFG_TIMEOUT o) ≤ s.time ∧
      (s.owner o).busy = [y] ∧ y.entry = some i ∧ i < 32 ∧ y.retryAt ≠ none ∧ m.todo = [] ∧ (s.owner o).stalled = []) ∧
    (∃ (s : State) (o : Fin 136), s.canonical = true ∧ s.down = false ∧ ((s.owner o).mc.all (fun m => decide (s.fget
      (Reg.Q_MC_CFG_TIMEOUT o) = 0 ∨ s.time < m.start + 1000 * s.fget (Reg.Q_MC_CFG_TIMEOUT o))) = true)) :=
  ⟨⟨running |> fun s => (({ s with time := 1000009 } : State).onOwner 129 fun w =>
      { w with busy := [], mc := some ⟨[3], [3], [[1]], 5, false⟩ }).fset (Reg.Q_MC_CFG_TIMEOUT 129) 100, 129, ⟨[3], [3],
      [[1]], 5, false⟩, 3, by decide +kernel⟩,
    ⟨running |> fun s => (({ s with time := 1000009 } : State).onOwner 129 fun w =>
      { w with busy := [], mc := some ⟨[3], [], [[1]], 5, false⟩ }).fset (Reg.Q_MC_CFG_TIMEOUT 129) 100, 129, ⟨[3], [],
      [[1]], 5, false⟩, 3, by decide +kernel⟩,
    ⟨running |> fun s => (({ s with time := 1000009 } : State).onOwner 129 fun w =>
      { w with busy := [⟨77, [[1]], some 3, none, 0, some 4⟩], mc := some ⟨[3], [], [[1]], 5, false⟩ }).fset
      (Reg.Q_MC_CFG_TIMEOUT 129) 100, 129, ⟨[3], [], [[1]], 5, false⟩, ⟨77, [[1]], some 3, none, 0, some 4⟩, 3,
      by decide +kernel⟩,
    ⟨running.onOwner 129 fun w => { w with mc := none }, 129, by decide +kernel⟩⟩

theorem test_queuePop_can_run :
    (∃ (s : State) (o : Fin 136) (q : Fin 16) (ecc : Ecc) (m : QMsg) (r : List QMsg) (d : List Byte) (p : Bool),
      s.canonical = true ∧ s.down = false ∧ s.ownerRuns o = true ∧ (s.queue o q).fifo = m :: r ∧ m.done = true ∧
      m.cells.getD m.popped ([], false) = (d, p) ∧ (s.queue o q).want = [] ∧ (s.queue o q).notes = [] ∧ (s.queue o
      q).ring = []) ∧
    (∃ (s : State) (o : Fin 136) (q : Fin 16) (ecc : Ecc), s.canonical = true ∧ s.down = false ∧ s.ownerRuns o = true ∧
      s.qHead o q = none) ∧
    (∃ (s : State) (o : Fin 136) (q : Fin 16) (ecc : Ecc), s.canonical = true ∧ s.down = false ∧ s.ownerRuns o = false) :=
  ⟨⟨running.onQueue 129 3 fun x =>
      { x with fifo := [⟨2, 0, 5, 0xffff, 0, false, [([1], false), ([2], true)], 1, true⟩] }, 129, 3, .none, ⟨2, 0, 5,
      0xffff, 0, false, [([1], false), ([2], true)], 1, true⟩, [], [2], true, by decide +kernel⟩,
    ⟨running.onQueue 129 3 fun x => { x with fifo := [] }, 129, 3, .none, by decide +kernel⟩,
    ⟨running.foff (Reg.SEQ_CTL_RUN 11), 11, 3, .none, by decide +kernel⟩⟩

theorem test_queueOpen_can_run :
    (∃ (s : State) (m : Master) (o : Fin 136) (q : Fin 16) (ie : Bool) (ringLen : BitVec 20), s.canonical = true ∧
      s.admits m (Reg.Q_CFG o q) = true ∧ s.ownerThere o = true ∧ s.fbit (Reg.Q_CFG_OPEN o q) = false ∧ s.ringOk o q
      ringLen.toNat = true) ∧
    (∃ (s : State) (m : Master) (o : Fin 136) (q : Fin 16) (ie : Bool) (ringLen : BitVec 20), s.canonical = true ∧
      s.admits m (Reg.Q_CFG o q) = true ∧ s.ownerThere o = true ∧ s.fbit (Reg.Q_CFG_OPEN o q) = false ∧ s.ringOk o q
      ringLen.toNat = false) ∧
    (∃ (s : State) (m : Master) (o : Fin 136) (q : Fin 16) (ie : Bool) (ringLen : BitVec 20), s.canonical = true ∧
      s.admits m (Reg.Q_CFG o q) = true ∧ s.ownerThere o = true ∧ s.fbit (Reg.Q_CFG_OPEN o q) = true ∧ s.fget
      (Reg.Q_CFG_RING_LEN o q) ≠ ringLen.toNat) ∧
    (∃ (s : State) (m : Master) (o : Fin 136) (q : Fin 16) (ie : Bool) (ringLen : BitVec 20), s.canonical = true ∧
      s.admits m (Reg.Q_CFG o q) = true ∧ s.ownerThere o = false) :=
  ⟨⟨running.foff (Reg.Q_CFG_OPEN 129 3), .aon, 129, 3, true, 0, by decide +kernel⟩,
    ⟨running.foff (Reg.Q_CFG_OPEN 129 3) |>.fset (Reg.Q_RING_HI_BASE 129 3) 0x700, .aon, 129, 3, true, 5,
      by decide +kernel⟩,
    ⟨running.fon (Reg.Q_CFG_OPEN 129 3), .aon, 129, 3, true, 5, by decide +kernel⟩,
    ⟨running.wr (Reg.INST_TROW 0) 0xFFFFFFFF |>.fset (Reg.INST_TROW_LCOLS 0) 0, .aon, 0, 3, true, 0, by decide +kernel⟩⟩

theorem test_queueClose_can_run :
    (∃ (s : State) (m : Master) (o : Fin 136) (q : Fin 16) (i : Fin 32), s.canonical = true ∧ s.admits m (Reg.Q_CFG o q)
      = true ∧ s.ownerThere o = true ∧ s.fbit (Reg.Q_CFG_OPEN o q) = true ∧ s.fget (Reg.Q_COMB_QUEUE o i) ≠ q) ∧
    (∃ (s : State) (m : Master) (o : Fin 136) (q : Fin 16) (i : Fin 32), s.canonical = true ∧ s.admits m (Reg.Q_CFG o q)
      = true ∧ s.ownerThere o = true ∧ s.fbit (Reg.Q_CFG_OPEN o q) = true ∧ i.val < slotsOf o ∧ s.fget (Reg.Q_COMB_QUEUE
      o i) = q) ∧
    (∃ (s : State) (m : Master) (o : Fin 136) (q : Fin 16), s.canonical = true ∧ s.admits m (Reg.Q_CFG o q) = true ∧
      s.ownerThere o = true ∧ s.fbit (Reg.Q_CFG_OPEN o q) = false) ∧
    (∃ (s : State) (m : Master) (o : Fin 136) (q : Fin 16), s.canonical = true ∧ s.admits m (Reg.Q_CFG o q) = true ∧
      s.ownerThere o = false) :=
  ⟨⟨running.fon (Reg.Q_CFG_OPEN 129 3) |>.onQueue 129 3 fun x =>
      { x with fifo := [⟨2, 0, 5, 0xffff, 0, false, [([1], false), ([2], true)], 1, true⟩, ⟨2, 0, 5, 0xffff, 0, false, [([1], false)], 0, false⟩] },
      .aon, 129, 3, 7, by decide +kernel⟩,
    ⟨running.fset (Reg.Q_COMB_QUEUE 129 7) 3 |>.fon (Reg.Q_CFG_OPEN 129 3), .aon, 129, 3, 7, by decide +kernel⟩,
    ⟨running.foff (Reg.Q_CFG_OPEN 129 3), .aon, 129, 3, by decide +kernel⟩,
    ⟨running.wr (Reg.INST_TROW 0) 0xFFFFFFFF |>.fset (Reg.INST_TROW_LCOLS 0) 0, .aon, 0, 3, by decide +kernel⟩⟩

theorem test_combArm_can_run :
    (∃ (s : State) (m : Master) (o : Fin 136) (i : Fin 64) (auto : Bool) (mode : BitVec 2) (queue : BitVec 4) (expect :
      BitVec 16) (q : Nat), s.canonical = true ∧ s.admits m (Reg.Q_COMB o i) = true ∧ s.ownerThere o = true ∧ i.val <
      slotsOf o ∧ s.fbit (Reg.Q_COMB_ARMED o i) = false ∧ q = queue.toNat ∧ s.qOpen o q = true ∧ (s.queue o q).resv < 32
      ∧ 0 < (s.queue o q).free ∧ (s.queue o q).want = [] ∧ (s.queue o q).notes = [] ∧ (s.queue o q).ring = []) ∧
    (∃ (s : State) (m : Master) (o : Fin 136) (i : Fin 64) (auto : Bool) (mode : BitVec 2) (queue : BitVec 4) (expect :
      BitVec 16) (q : Nat), s.canonical = true ∧ s.admits m (Reg.Q_COMB o i) = true ∧ s.ownerThere o = true ∧ i.val <
      slotsOf o ∧ s.fbit (Reg.Q_COMB_ARMED o i) = false ∧ q = queue.toNat ∧ (s.qOpen o q = false ∨ 32 ≤ (s.queue o
      q).resv)) ∧
    (∃ (s : State) (m : Master) (o : Fin 136) (i : Fin 64) (auto : Bool) (mode : BitVec 2) (queue : BitVec 4) (expect :
      BitVec 16) (q : Nat), s.canonical = true ∧ s.admits m (Reg.Q_COMB o i) = true ∧ s.ownerThere o = true ∧ i.val <
      slotsOf o ∧ s.fbit (Reg.Q_COMB_ARMED o i) = false ∧ q = queue.toNat ∧ s.qOpen o q = true ∧ (s.queue o q).resv < 32
      ∧ (s.queue o q).free = 0 ∧ (s.queue o q).want = [] ∧ (s.queue o q).notes = [] ∧ (s.queue o q).ring = []) ∧
    (∃ (s : State) (m : Master) (o : Fin 136) (i : Fin 64) (auto : Bool) (mode : BitVec 2) (queue : BitVec 4) (expect :
      BitVec 16) (q : Nat), s.canonical = true ∧ s.admits m (Reg.Q_COMB o i) = true ∧ s.ownerThere o = true ∧ i.val <
      slotsOf o ∧ s.fbit (Reg.Q_COMB_ARMED o i) = true ∧ q = s.fget (Reg.Q_COMB_QUEUE o i) ∧ (auto ≠ s.fbit
      (Reg.Q_COMB_AUTO o i) ∨ mode.toNat ≠ s.fget (Reg.Q_COMB_MODE o i) ∨ queue.toNat ≠ q ∨ expect.toNat ≠ s.fget
      (Reg.Q_COMB_EXPECT o i) ∨ s.qOpen o q = false ∨ 32 ≤ (s.queue o q).resv) ∧ s.qOpen o q = true ∧ (s.queue o q).resv
      < 32 ∧ (s.comb o i).resv = true ∧ 0 < (s.queue o q).resv ∧ (s.queue o q).held + (s.queue o q).resv ≤ 64 ∧ (s.queue
      o q).want = [] ∧ (s.queue o q).notes = [] ∧ (s.queue o q).ring = []) ∧
    (∃ (s : State) (m : Master) (o : Fin 136) (i : Fin 64) (auto : Bool) (mode : BitVec 2) (queue : BitVec 4) (expect :
      BitVec 16) (q : Nat), s.canonical = true ∧ s.admits m (Reg.Q_COMB o i) = true ∧ s.ownerThere o = true ∧ i.val <
      slotsOf o ∧ s.fbit (Reg.Q_COMB_ARMED o i) = true ∧ q = s.fget (Reg.Q_COMB_QUEUE o i) ∧ (s.qOpen o q = false ∨ 32 ≤
      (s.queue o q).resv) ∧ (s.queue o q).want = [] ∧ (s.queue o q).notes = [] ∧ (s.queue o q).ring = []) ∧
    (∃ (s : State) (m : Master) (o : Fin 136) (i : Fin 64) (auto : Bool) (mode : BitVec 2) (queue : BitVec 4) (expect :
      BitVec 16), s.canonical = true ∧ s.admits m (Reg.Q_COMB o i) = true ∧ (s.ownerThere o = false ∨ slotsOf o ≤ i.val)) :=
  ⟨⟨running.fon (Reg.Q_CFG_OPEN 129 3) |>.foff (Reg.Q_COMB_ARMED 129 5), .aon, 129, 5, true, 1, 3, 9, 3,
      by decide +kernel⟩,
    ⟨running.foff (Reg.Q_CFG_OPEN 129 3) |>.foff (Reg.Q_COMB_ARMED 129 5), .aon, 129, 5, true, 1, 3, 9, 3,
      by decide +kernel⟩,
    ⟨running.fon (Reg.Q_CFG_OPEN 129 3) |>.foff (Reg.Q_COMB_ARMED 129 5) |>.onQueue 129 3 (fun x =>
      { x with fifo := (List.range 8).map fun _ => ⟨8, 0, 5, 0xffff, 0, false, [], 0, true⟩ }), .aon, 129, 5, true, 1, 3,
      9, 3, by decide +kernel⟩,
    ⟨running.fon (Reg.Q_CFG_OPEN 129 3) |>.fon (Reg.Q_COMB_ARMED 129 5) |>.fset (Reg.Q_COMB_QUEUE 129 5) 3 |>.onQueue 129
      3 (fun x => { x with resv := 1 }) |>.onComb 129 5 (fun c => { c with resv := true, count := 3 }), .aon, 129, 5,
      true, 1, 4, 9, 3, by decide +kernel⟩,
    ⟨running.fon (Reg.Q_CFG_OPEN 129 3) |>.fon (Reg.Q_COMB_ARMED 129 5) |>.fset (Reg.Q_COMB_QUEUE 129 5) 3 |>.onQueue 129
      3 (fun x => { x with resv := 1 }) |>.onComb 129 5 (fun c => { c with resv := true, count := 3 }) |>.foff
      (Reg.Q_CFG_OPEN 129 3), .aon, 129, 5, true, 1, 4, 9, 3, by decide +kernel⟩,
    ⟨running.wr (Reg.INST_TROW 0) 0xFFFFFFFF |>.fset (Reg.INST_TROW_LCOLS 0) 0, .aon, 0, 3, true, 0, 0, 0,
      by decide +kernel⟩⟩

theorem test_combDisarm_can_run :
    (∃ (s : State) (m : Master) (o : Fin 136) (i : Fin 64) (q : Nat), s.canonical = true ∧ s.admits m (Reg.Q_COMB o i) =
      true ∧ s.ownerThere o = true ∧ i.val < slotsOf o ∧ s.fbit (Reg.Q_COMB_ARMED o i) = true ∧ q = s.fget
      (Reg.Q_COMB_QUEUE o i) ∧ (s.queue o q).want = [] ∧ (s.queue o q).notes = [] ∧ (s.queue o q).ring = []) ∧
    (∃ (s : State) (m : Master) (o : Fin 136) (i : Fin 64) (q : Nat), s.canonical = true ∧ s.admits m (Reg.Q_COMB o i) =
      true ∧ s.ownerThere o = true ∧ i.val < slotsOf o ∧ s.fbit (Reg.Q_COMB_ARMED o i) = false ∧ q = s.fget
      (Reg.Q_COMB_QUEUE o i) ∧ (s.queue o q).want = [] ∧ (s.queue o q).notes = [] ∧ (s.queue o q).ring = []) ∧
    (∃ (s : State) (m : Master) (o : Fin 136) (i : Fin 64), s.canonical = true ∧ s.admits m (Reg.Q_COMB o i) = true ∧
      (s.ownerThere o = false ∨ slotsOf o ≤ i.val)) :=
  ⟨⟨running.fon (Reg.Q_COMB_ARMED 129 5) |>.onQueue 129 3 (fun x => { x with resv := 2 }) |>.onComb 129 5 (fun c =>
      { c with resv := true }) |>.fset (Reg.Q_COMB_QUEUE 129 5) 3, .aon, 129, 5, 3, by decide +kernel⟩,
    ⟨running.foff (Reg.Q_COMB_ARMED 129 5) |>.fset (Reg.Q_COMB_QUEUE 129 5) 3, .aon, 129, 5, 3, by decide +kernel⟩,
    ⟨running.wr (Reg.INST_TROW 0) 0xFFFFFFFF |>.fset (Reg.INST_TROW_LCOLS 0) 0, .aon, 0, 3, by decide +kernel⟩⟩

theorem test_qCladd_can_run :
    (∃ (s : State) (o : Fin 136) (stores : List (Fin 8 × List Byte)) (slot : BitVec 6) (qn : BitVec 16) (c : Nat),
      s.canonical = true ∧ s.down = false ∧ s.ownerRuns o = true ∧ (if s.ranks then s.unrank qn.toNat else some
      (ownerCoord (qnDev qn.toNat) (qnOwner qn.toNat))) = some c ∧ coDev c = s.devid) ∧
    (∃ (s : State) (o : Fin 136) (stores : List (Fin 8 × List Byte)) (slot : BitVec 6) (qn : BitVec 16) (c : Nat),
      s.canonical = true ∧ s.down = false ∧ s.ownerRuns o = true ∧ (if s.ranks then s.unrank qn.toNat else some
      (ownerCoord (qnDev qn.toNat) (qnOwner qn.toNat))) = some c ∧ coDev c ≠ s.devid ∧ s.routeFor (coDev c) (coHalf c) =
      false) ∧
    (∃ (s : State) (o : Fin 136) (stores : List (Fin 8 × List Byte)) (slot : BitVec 6) (qn : BitVec 16), s.canonical =
      true ∧ s.down = false ∧ s.ownerRuns o = true ∧ s.ranks = true ∧ s.unrank qn.toNat = none) ∧
    (∃ (s : State) (o : Fin 136) (stores : List (Fin 8 × List Byte)) (slot : BitVec 6) (qn : BitVec 16), s.canonical =
      true ∧ s.down = false ∧ s.ownerRuns o = false) :=
  ⟨⟨running.foff Reg.MESH_CTL_RANKS, 129, [(0, [1, 2])], 3, (BitVec.ofNat 16 (qnOf 0 130 4)), (ownerCoord 0 130),
      by decide +kernel⟩,
    ⟨running.foff Reg.MESH_CTL_RANKS |>.fset Reg.AON_ID_DEVID 2 |> fun s => forN 16 (fun i s => s.wr (Reg.MESH_XROUTE i)
      0) s, 129, [(0, [1, 2])], 3, (BitVec.ofNat 16 (qnOf 5 130 4)), (ownerCoord 5 130), by decide +kernel⟩,
    ⟨running.fon Reg.MESH_CTL_RANKS |>.wr (Reg.MESH_RANK 3) 0, 129, [(0, [1, 2])], 3, 53, by decide +kernel⟩,
    ⟨running.foff (Reg.SEQ_CTL_RUN 11), 11, [], 0, 5, by decide +kernel⟩⟩

theorem test_clAdd_can_run :
    (∃ (s : State) (dst : BitVec 22) (slot : BitVec 8) (data : List Byte) (o j q : Nat) (d : List Byte), s.canonical =
      true ∧ s.down = false ∧ s.dstOwner dst.toNat = o ∧ s.ownerThere o = true ∧ j = slot.toNat ∧ q = s.fget
      (Reg.Q_COMB_QUEUE o j) ∧ d = (data ++ List.replicate 32 0).take 32 ∧ j < slotsOf o ∧ s.fbit (Reg.Q_COMB_ARMED o j)
      = true ∧ ((s.comb o j).count + 1 < (max 1 (s.fget (Reg.Q_COMB_EXPECT o j))) ∨ (s.comb o j).resv = false)) ∧
    (∃ (s : State) (dst : BitVec 22) (slot : BitVec 8) (data : List Byte) (o j q : Nat) (d : List Byte), s.canonical =
      true ∧ s.down = false ∧ s.dstOwner dst.toNat = o ∧ s.ownerThere o = true ∧ j = slot.toNat ∧ q = s.fget
      (Reg.Q_COMB_QUEUE o j) ∧ d = (data ++ List.replicate 32 0).take 32 ∧ j < slotsOf o ∧ s.fbit (Reg.Q_COMB_ARMED o j)
      = true ∧ (max 1 (s.fget (Reg.Q_COMB_EXPECT o j))) ≤ (s.comb o j).count + 1 ∧ (s.comb o j).resv = true ∧ s.fbit
      (Reg.Q_COMB_PAR_VALID o j) = false ∧ (s.queue o q).want = [] ∧ (s.queue o q).notes = [] ∧ (s.queue o q).ring = []) ∧
    (∃ (s : State) (dst : BitVec 22) (slot : BitVec 8) (data : List Byte) (o j q : Nat) (d : List Byte), s.canonical =
      true ∧ s.down = false ∧ s.dstOwner dst.toNat = o ∧ s.ownerThere o = true ∧ j = slot.toNat ∧ q = s.fget
      (Reg.Q_COMB_QUEUE o j) ∧ d = (data ++ List.replicate 32 0).take 32 ∧ j < slotsOf o ∧ s.fbit (Reg.Q_COMB_ARMED o j)
      = true ∧ (max 1 (s.fget (Reg.Q_COMB_EXPECT o j))) ≤ (s.comb o j).count + 1 ∧ (s.comb o j).resv = true ∧ s.fbit
      (Reg.Q_COMB_PAR_VALID o j) = true ∧ s.ranks = false ∧ qnDev (s.fget (Reg.Q_COMB_PAR_PQN o j)) = s.devid) ∧
    (∃ (s : State) (dst : BitVec 22) (slot : BitVec 8) (data : List Byte) (o j q : Nat) (d : List Byte), s.canonical =
      true ∧ s.down = false ∧ s.dstOwner dst.toNat = o ∧ s.ownerThere o = true ∧ j = slot.toNat ∧ q = s.fget
      (Reg.Q_COMB_QUEUE o j) ∧ d = (data ++ List.replicate 32 0).take 32 ∧ (slotsOf o ≤ j ∨ s.fbit (Reg.Q_COMB_ARMED o j)
      = false)) ∧
    (∃ (s : State) (dst : BitVec 22) (slot : BitVec 8) (data : List Byte) (o : Nat), s.canonical = true ∧ s.down = false
      ∧ s.dstOwner dst.toNat = o ∧ s.ownerThere o = false) :=
  ⟨⟨running.fon (Reg.Q_COMB_ARMED 129 5) |>.fset (Reg.Q_COMB_QUEUE 129 5) 3 |>.fset (Reg.Q_COMB_EXPECT 129 5) 9
      |>.onQueue 129 3 (fun _ => { QueueSt.init with resv := 1 }) |>.onComb 129 5 (fun c =>
      { c with count := 2, resv := true }), (BitVec.ofNat 22 (ownerCoord 0 129)), 5, [1, 2], 129, 5, 3, ([1, 2] ++
      List.replicate 30 0), by decide +kernel⟩,
    ⟨running.fon (Reg.Q_COMB_ARMED 129 5) |>.fset (Reg.Q_COMB_QUEUE 129 5) 3 |>.fset (Reg.Q_COMB_EXPECT 129 5) 3
      |>.onQueue 129 3 (fun _ => { QueueSt.init with resv := 1 }) |>.onComb 129 5 (fun c =>
      { c with count := 2, resv := true }) |>.foff (Reg.Q_COMB_PAR_VALID 129 5), (BitVec.ofNat 22 (ownerCoord 0 129)), 5,
      [1, 2], 129, 5, 3, ([1, 2] ++ List.replicate 30 0), by decide +kernel⟩,
    ⟨running.fon (Reg.Q_COMB_ARMED 129 5) |>.fset (Reg.Q_COMB_QUEUE 129 5) 3 |>.fset (Reg.Q_COMB_EXPECT 129 5) 3
      |>.onQueue 129 3 (fun _ => { QueueSt.init with resv := 1 }) |>.onComb 129 5 (fun c =>
      { c with count := 2, resv := true }) |>.fon (Reg.Q_COMB_PAR_VALID 129 5) |>.foff Reg.MESH_CTL_RANKS |> fun s =>
      s.fset (Reg.Q_COMB_PAR_PQN 129 5) (qnOf s.devid 130 4), (BitVec.ofNat 22 (ownerCoord 0 129)), 5, [1, 2], 129, 5, 3,
      ([1, 2] ++ List.replicate 30 0), by decide +kernel⟩,
    ⟨running.foff (Reg.Q_COMB_ARMED 129 5) |>.fset (Reg.Q_COMB_QUEUE 129 5) 3, (BitVec.ofNat 22 (ownerCoord 0 129)), 5,
      [1, 2], 129, 5, 3, ([1, 2] ++ List.replicate 30 0), by decide +kernel⟩,
    ⟨running, (BitVec.ofNat 22 (ioCoord 0 6 1 3)), 5, [1, 2], 512, by decide +kernel⟩⟩

theorem test_clSum_can_run :
    (∃ (s : State) (dst : BitVec 22) (slot : BitVec 8) (count : BitVec 16) (data : List Byte) (o j q : Nat) (d : List
      Byte), s.canonical = true ∧ s.down = false ∧ s.dstOwner dst.toNat = o ∧ s.ownerThere o = true ∧ j = slot.toNat ∧ q
      = s.fget (Reg.Q_COMB_QUEUE o j) ∧ d = (data ++ List.replicate 32 0).take 32 ∧ j < slotsOf o ∧ s.fbit
      (Reg.Q_COMB_ARMED o j) = true ∧ ((s.comb o j).count + count.toNat < (max 1 (s.fget (Reg.Q_COMB_EXPECT o j))) ∨
      (s.comb o j).resv = false)) ∧
    (∃ (s : State) (dst : BitVec 22) (slot : BitVec 8) (count : BitVec 16) (data : List Byte) (o j q : Nat) (d : List
      Byte), s.canonical = true ∧ s.down = false ∧ s.dstOwner dst.toNat = o ∧ s.ownerThere o = true ∧ j = slot.toNat ∧ q
      = s.fget (Reg.Q_COMB_QUEUE o j) ∧ d = (data ++ List.replicate 32 0).take 32 ∧ j < slotsOf o ∧ s.fbit
      (Reg.Q_COMB_ARMED o j) = true ∧ (max 1 (s.fget (Reg.Q_COMB_EXPECT o j))) ≤ (s.comb o j).count + count.toNat ∧
      (s.comb o j).resv = true ∧ s.fbit (Reg.Q_COMB_PAR_VALID o j) = false ∧ (s.queue o q).want = [] ∧ (s.queue o
      q).notes = [] ∧ (s.queue o q).ring = []) ∧
    (∃ (s : State) (dst : BitVec 22) (slot : BitVec 8) (count : BitVec 16) (data : List Byte) (o j q : Nat) (d : List
      Byte), s.canonical = true ∧ s.down = false ∧ s.dstOwner dst.toNat = o ∧ s.ownerThere o = true ∧ j = slot.toNat ∧ q
      = s.fget (Reg.Q_COMB_QUEUE o j) ∧ d = (data ++ List.replicate 32 0).take 32 ∧ j < slotsOf o ∧ s.fbit
      (Reg.Q_COMB_ARMED o j) = true ∧ (max 1 (s.fget (Reg.Q_COMB_EXPECT o j))) ≤ (s.comb o j).count + count.toNat ∧
      (s.comb o j).resv = true ∧ s.fbit (Reg.Q_COMB_PAR_VALID o j) = true ∧ s.ranks = false ∧ qnDev (s.fget
      (Reg.Q_COMB_PAR_PQN o j)) = s.devid) ∧
    (∃ (s : State) (dst : BitVec 22) (slot : BitVec 8) (count : BitVec 16) (data : List Byte) (o j q : Nat) (d : List
      Byte), s.canonical = true ∧ s.down = false ∧ s.dstOwner dst.toNat = o ∧ s.ownerThere o = true ∧ j = slot.toNat ∧ q
      = s.fget (Reg.Q_COMB_QUEUE o j) ∧ d = (data ++ List.replicate 32 0).take 32 ∧ (slotsOf o ≤ j ∨ s.fbit
      (Reg.Q_COMB_ARMED o j) = false)) ∧
    (∃ (s : State) (dst : BitVec 22) (slot : BitVec 8) (count : BitVec 16) (data : List Byte) (o : Nat), s.canonical =
      true ∧ s.down = false ∧ s.dstOwner dst.toNat = o ∧ s.ownerThere o = false) :=
  ⟨⟨running.fon (Reg.Q_COMB_ARMED 129 5) |>.fset (Reg.Q_COMB_QUEUE 129 5) 3 |>.fset (Reg.Q_COMB_EXPECT 129 5) 9
      |>.onQueue 129 3 (fun _ => { QueueSt.init with resv := 1 }) |>.onComb 129 5 (fun c =>
      { c with count := 2, resv := true }), (BitVec.ofNat 22 (ownerCoord 0 129)), 5, 3, [1, 2], 129, 5, 3, ([1, 2] ++
      List.replicate 30 0), by decide +kernel⟩,
    ⟨running.fon (Reg.Q_COMB_ARMED 129 5) |>.fset (Reg.Q_COMB_QUEUE 129 5) 3 |>.fset (Reg.Q_COMB_EXPECT 129 5) 3
      |>.onQueue 129 3 (fun _ => { QueueSt.init with resv := 1 }) |>.onComb 129 5 (fun c =>
      { c with count := 2, resv := true }) |>.foff (Reg.Q_COMB_PAR_VALID 129 5), (BitVec.ofNat 22 (ownerCoord 0 129)), 5,
      3, [1, 2], 129, 5, 3, ([1, 2] ++ List.replicate 30 0), by decide +kernel⟩,
    ⟨running.fon (Reg.Q_COMB_ARMED 129 5) |>.fset (Reg.Q_COMB_QUEUE 129 5) 3 |>.fset (Reg.Q_COMB_EXPECT 129 5) 3
      |>.onQueue 129 3 (fun _ => { QueueSt.init with resv := 1 }) |>.onComb 129 5 (fun c =>
      { c with count := 2, resv := true }) |>.fon (Reg.Q_COMB_PAR_VALID 129 5) |>.foff Reg.MESH_CTL_RANKS |> fun s =>
      s.fset (Reg.Q_COMB_PAR_PQN 129 5) (qnOf s.devid 130 4), (BitVec.ofNat 22 (ownerCoord 0 129)), 5, 3, [1, 2], 129, 5,
      3, ([1, 2] ++ List.replicate 30 0), by decide +kernel⟩,
    ⟨running.foff (Reg.Q_COMB_ARMED 129 5) |>.fset (Reg.Q_COMB_QUEUE 129 5) 3, (BitVec.ofNat 22 (ownerCoord 0 129)), 5,
      3, [1, 2], 129, 5, 3, ([1, 2] ++ List.replicate 30 0), by decide +kernel⟩,
    ⟨running, (BitVec.ofNat 22 (ioCoord 0 6 1 3)), 5, 3, [1, 2], 512, by decide +kernel⟩⟩

theorem test_syncSignal_can_run :
    (∃ (s : State) (dst : BitVec 22) (i : BitVec 8) (v : Word) (src : BitVec 30) (o j : Nat) (w : Fin 96), s.canonical =
      true ∧ s.down = false ∧ s.dstOwner dst.toNat = o ∧ s.ownerThere o = true ∧ (o < 128 → s.fbit Reg.INST_STATUS_COCOON
      = false) ∧ j = i.toNat ∧ j < objsOf o ∧ s.fbit (Reg.SYNC_CTL_FROZEN o) = false ∧ coDev src.toNat = s.devid ∧
      s.orphaned o j = false ∧ w.val < watchesOf o ∧ s.fbit (Reg.WATCH_W0_VALID o w) = true ∧ s.fget (Reg.WATCH_W0_INDEX
      o w) = j ∧ watchHolds (s.fbit (Reg.WATCH_W0_EQ o w)) ((s.syncVal o j + v.toNat) % 2 ^ 32) (s.rd (Reg.WATCH_W1 o
      w)).toNat = true ∧ qnDev (s.fget (Reg.WATCH_W0_WQN o w)) = s.devid) ∧
    (∃ (s : State) (dst : BitVec 22) (i : BitVec 8) (v : Word) (src : BitVec 30) (o j : Nat) (w : Fin 96), s.canonical =
      true ∧ s.down = false ∧ s.dstOwner dst.toNat = o ∧ s.ownerThere o = true ∧ (o < 128 → s.fbit Reg.INST_STATUS_COCOON
      = false) ∧ j = i.toNat ∧ j < objsOf o ∧ s.fbit (Reg.SYNC_CTL_FROZEN o) = false ∧ coDev src.toNat = s.devid ∧
      s.orphaned o j = true) ∧
    (∃ (s : State) (dst : BitVec 22) (i : BitVec 8) (v : Word) (src : BitVec 30) (o : Nat), s.canonical = true ∧ s.down =
      false ∧ s.dstOwner dst.toNat = o ∧ s.ownerThere o = false ∧ coDev src.toNat = s.devid) ∧
    (∃ (s : State) (dst : BitVec 22) (i : BitVec 8) (v : Word) (src : BitVec 30) (o : Nat), s.canonical = true ∧ s.down =
      false ∧ s.dstOwner dst.toNat = o ∧ s.ownerThere o = true ∧ ((o < 128 ∧ s.fbit Reg.INST_STATUS_COCOON = true) ∨
      objsOf o ≤ i.toNat) ∧ coDev src.toNat = s.devid) ∧
    (∃ (s : State) (dst : BitVec 22) (i : BitVec 8) (v : Word) (src : BitVec 30) (o : Nat), s.canonical = true ∧ s.down =
      false ∧ s.dstOwner dst.toNat = o ∧ s.ownerThere o = true ∧ (o < 128 → s.fbit Reg.INST_STATUS_COCOON = false) ∧
      i.toNat < objsOf o ∧ s.fbit (Reg.SYNC_CTL_FROZEN o) = true ∧ coDev src.toNat = s.devid) :=
  ⟨⟨running.foff Reg.INST_STATUS_COCOON |>.foff (Reg.SYNC_CTL_FROZEN 129) |>.foff (Reg.SYNC_STATE_STATE 129 7) |> fun s
      => (forN 96 (fun k s => s.foff (Reg.WATCH_W0_VALID 129 k)) s).fon (Reg.WATCH_W0_VALID 129 5) |>.fset
      (Reg.WATCH_W0_INDEX 129 5) 7 |>.wr (Reg.WATCH_W1 129 5) 3 |> fun s => (s.fset (Reg.WATCH_W0_WQN 129 5) (qnOf
      s.devid 130 4)).wr (Reg.SYNC_VAL 129 7) 1, (BitVec.ofNat 22 (ownerCoord 0 129)), 7, 5, (BitVec.ofNat 30 (ioCoord 0
      6 0 0 + 5 * 2 ^ 22)), 129, 7, 5, by decide +kernel⟩,
    ⟨running.foff Reg.INST_STATUS_COCOON |>.foff (Reg.SYNC_CTL_FROZEN 129) |>.foff (Reg.SYNC_STATE_STATE 129 7) |>.fset
      (Reg.SYNC_STATE_STATE 129 7) 1 |> fun s => (forN 96 (fun k s => s.foff (Reg.WATCH_W0_VALID 129 k)) s).fon
      (Reg.WATCH_W0_VALID 129 5) |>.fset (Reg.WATCH_W0_INDEX 129 5) 7 |>.wr (Reg.WATCH_W1 129 5) 3 |> fun s => (s.fset
      (Reg.WATCH_W0_WQN 129 5) (qnOf s.devid 130 4)).wr (Reg.SYNC_VAL 129 7) 1, (BitVec.ofNat 22 (ownerCoord 0 129)), 7,
      5, (BitVec.ofNat 30 (ioCoord 0 6 0 0 + 5 * 2 ^ 22)), 129, 7, 5, by decide +kernel⟩,
    ⟨running, (BitVec.ofNat 22 (ioCoord 0 6 1 3)), 7, 5, (BitVec.ofNat 30 (ioCoord 0 6 0 0 + 5 * 2 ^ 22)), 512,
      by decide +kernel⟩,
    ⟨running, (BitVec.ofNat 22 (ownerCoord 0 129)), 40, 5, (BitVec.ofNat 30 (ioCoord 0 6 0 0 + 5 * 2 ^ 22)), 129,
      by decide +kernel⟩,
    ⟨running.fon (Reg.SYNC_CTL_FROZEN 129), (BitVec.ofNat 22 (ownerCoord 0 129)), 7, 5, (BitVec.ofNat 30 (ioCoord 0 6 0 0
      + 5 * 2 ^ 22)), 129, by decide +kernel⟩⟩

theorem test_syncSet_can_run :
    (∃ (s : State) (dst : BitVec 22) (i : BitVec 8) (v : Word) (src : BitVec 30) (o j : Nat) (w : Fin 96), s.canonical =
      true ∧ s.down = false ∧ s.dstOwner dst.toNat = o ∧ s.ownerThere o = true ∧ (o < 128 → s.fbit Reg.INST_STATUS_COCOON
      = false) ∧ j = i.toNat ∧ j < objsOf o ∧ s.fbit (Reg.SYNC_CTL_FROZEN o) = false ∧ coDev src.toNat = s.devid ∧
      s.orphaned o j = false ∧ w.val < watchesOf o ∧ s.fbit (Reg.WATCH_W0_VALID o w) = true ∧ s.fget (Reg.WATCH_W0_INDEX
      o w) = j ∧ watchHolds (s.fbit (Reg.WATCH_W0_EQ o w)) v.toNat (s.rd (Reg.WATCH_W1 o w)).toNat = true ∧ qnDev (s.fget
      (Reg.WATCH_W0_WQN o w)) = s.devid) ∧
    (∃ (s : State) (dst : BitVec 22) (i : BitVec 8) (v : Word) (src : BitVec 30) (o j : Nat) (w : Fin 96), s.canonical =
      true ∧ s.down = false ∧ s.dstOwner dst.toNat = o ∧ s.ownerThere o = true ∧ (o < 128 → s.fbit Reg.INST_STATUS_COCOON
      = false) ∧ j = i.toNat ∧ j < objsOf o ∧ s.fbit (Reg.SYNC_CTL_FROZEN o) = false ∧ coDev src.toNat = s.devid ∧
      s.orphaned o j = true) ∧
    (∃ (s : State) (dst : BitVec 22) (i : BitVec 8) (v : Word) (src : BitVec 30) (o : Nat), s.canonical = true ∧ s.down =
      false ∧ s.dstOwner dst.toNat = o ∧ s.ownerThere o = false ∧ coDev src.toNat = s.devid) ∧
    (∃ (s : State) (dst : BitVec 22) (i : BitVec 8) (v : Word) (src : BitVec 30) (o : Nat), s.canonical = true ∧ s.down =
      false ∧ s.dstOwner dst.toNat = o ∧ s.ownerThere o = true ∧ ((o < 128 ∧ s.fbit Reg.INST_STATUS_COCOON = true) ∨
      objsOf o ≤ i.toNat) ∧ coDev src.toNat = s.devid) ∧
    (∃ (s : State) (dst : BitVec 22) (i : BitVec 8) (v : Word) (src : BitVec 30) (o : Nat), s.canonical = true ∧ s.down =
      false ∧ s.dstOwner dst.toNat = o ∧ s.ownerThere o = true ∧ (o < 128 → s.fbit Reg.INST_STATUS_COCOON = false) ∧
      i.toNat < objsOf o ∧ s.fbit (Reg.SYNC_CTL_FROZEN o) = true ∧ coDev src.toNat = s.devid) :=
  ⟨⟨running.foff Reg.INST_STATUS_COCOON |>.foff (Reg.SYNC_CTL_FROZEN 129) |>.foff (Reg.SYNC_STATE_STATE 129 7) |> fun s
      => (forN 96 (fun k s => s.foff (Reg.WATCH_W0_VALID 129 k)) s).fon (Reg.WATCH_W0_VALID 129 5) |>.fset
      (Reg.WATCH_W0_INDEX 129 5) 7 |>.wr (Reg.WATCH_W1 129 5) 3 |> fun s => (s.fset (Reg.WATCH_W0_WQN 129 5) (qnOf
      s.devid 130 4)).wr (Reg.SYNC_VAL 129 7) 1, (BitVec.ofNat 22 (ownerCoord 0 129)), 7, 5, (BitVec.ofNat 30 (ioCoord 0
      6 0 0 + 5 * 2 ^ 22)), 129, 7, 5, by decide +kernel⟩,
    ⟨running.foff Reg.INST_STATUS_COCOON |>.foff (Reg.SYNC_CTL_FROZEN 129) |>.foff (Reg.SYNC_STATE_STATE 129 7) |>.fset
      (Reg.SYNC_STATE_STATE 129 7) 1 |> fun s => (forN 96 (fun k s => s.foff (Reg.WATCH_W0_VALID 129 k)) s).fon
      (Reg.WATCH_W0_VALID 129 5) |>.fset (Reg.WATCH_W0_INDEX 129 5) 7 |>.wr (Reg.WATCH_W1 129 5) 3 |> fun s => (s.fset
      (Reg.WATCH_W0_WQN 129 5) (qnOf s.devid 130 4)).wr (Reg.SYNC_VAL 129 7) 1, (BitVec.ofNat 22 (ownerCoord 0 129)), 7,
      5, (BitVec.ofNat 30 (ioCoord 0 6 0 0 + 5 * 2 ^ 22)), 129, 7, 5, by decide +kernel⟩,
    ⟨running, (BitVec.ofNat 22 (ioCoord 0 6 1 3)), 7, 5, (BitVec.ofNat 30 (ioCoord 0 6 0 0 + 5 * 2 ^ 22)), 512,
      by decide +kernel⟩,
    ⟨running, (BitVec.ofNat 22 (ownerCoord 0 129)), 40, 5, (BitVec.ofNat 30 (ioCoord 0 6 0 0 + 5 * 2 ^ 22)), 129,
      by decide +kernel⟩,
    ⟨running.fon (Reg.SYNC_CTL_FROZEN 129), (BitVec.ofNat 22 (ownerCoord 0 129)), 7, 5, (BitVec.ofNat 30 (ioCoord 0 6 0 0
      + 5 * 2 ^ 22)), 129, by decide +kernel⟩⟩

theorem test_syncWatchGe_can_run :
    (∃ (s : State) (dst : BitVec 22) (i : BitVec 8) (v : Word) (wqn : BitVec 16) (src : BitVec 30) (o j w : Nat),
      s.canonical = true ∧ s.down = false ∧ s.dstOwner dst.toNat = o ∧ s.ownerThere o = true ∧ (o < 128 → s.fbit
      Reg.INST_STATUS_COCOON = false) ∧ j = i.toNat ∧ j < objsOf o ∧ s.fbit (Reg.SYNC_CTL_FROZEN o) = false ∧ s.orphaned
      o j = false ∧ (List.range (watchesOf o)).find? (fun k => !s.fbit (Reg.WATCH_W0_VALID o k)) = some w ∧ watchHolds
      false (s.syncVal o j) v.toNat = true ∧ qnDev wqn.toNat = s.devid ∧ (List.range (watchesOf o)).find? (fun k =>
      !s.fbit (Reg.WATCH_W0_VALID o k)) ≠ none) ∧
    (∃ (s : State) (dst : BitVec 22) (i : BitVec 8) (v : Word) (wqn : BitVec 16) (src : BitVec 30) (o j w : Nat),
      s.canonical = true ∧ s.down = false ∧ s.dstOwner dst.toNat = o ∧ s.ownerThere o = true ∧ (o < 128 → s.fbit
      Reg.INST_STATUS_COCOON = false) ∧ j = i.toNat ∧ j < objsOf o ∧ s.fbit (Reg.SYNC_CTL_FROZEN o) = false ∧ s.orphaned
      o j = false ∧ (List.range (watchesOf o)).find? (fun k => !s.fbit (Reg.WATCH_W0_VALID o k)) = some w ∧ watchHolds
      false (s.syncVal o j) v.toNat = false) ∧
    (∃ (s : State) (dst : BitVec 22) (i : BitVec 8) (v : Word) (wqn : BitVec 16) (src : BitVec 30) (o j w : Nat),
      s.canonical = true ∧ s.down = false ∧ s.dstOwner dst.toNat = o ∧ s.ownerThere o = true ∧ (o < 128 → s.fbit
      Reg.INST_STATUS_COCOON = false) ∧ j = i.toNat ∧ j < objsOf o ∧ s.fbit (Reg.SYNC_CTL_FROZEN o) = false ∧ qnDev
      wqn.toNat = s.devid ∧ s.orphaned o j = true) ∧
    (∃ (s : State) (dst : BitVec 22) (i : BitVec 8) (v : Word) (wqn : BitVec 16) (src : BitVec 30) (o j w : Nat),
      s.canonical = true ∧ s.down = false ∧ s.dstOwner dst.toNat = o ∧ s.ownerThere o = true ∧ (o < 128 → s.fbit
      Reg.INST_STATUS_COCOON = false) ∧ j = i.toNat ∧ j < objsOf o ∧ s.fbit (Reg.SYNC_CTL_FROZEN o) = false ∧ qnDev
      wqn.toNat = s.devid ∧ s.orphaned o j = false ∧ (List.range (watchesOf o)).find? (fun k => !s.fbit
      (Reg.WATCH_W0_VALID o k)) = none) ∧
    (∃ (s : State) (dst : BitVec 22) (i : BitVec 8) (v : Word) (wqn : BitVec 16) (src : BitVec 30) (o : Nat), s.canonical
      = true ∧ s.down = false ∧ s.dstOwner dst.toNat = o ∧ s.ownerThere o = false ∧ coDev src.toNat = s.devid) ∧
    (∃ (s : State) (dst : BitVec 22) (i : BitVec 8) (v : Word) (wqn : BitVec 16) (src : BitVec 30) (o : Nat), s.canonical
      = true ∧ s.down = false ∧ s.dstOwner dst.toNat = o ∧ s.ownerThere o = true ∧ ((o < 128 ∧ s.fbit
      Reg.INST_STATUS_COCOON = true) ∨ objsOf o ≤ i.toNat) ∧ coDev src.toNat = s.devid) ∧
    (∃ (s : State) (dst : BitVec 22) (i : BitVec 8) (v : Word) (wqn : BitVec 16) (src : BitVec 30) (o : Nat), s.canonical
      = true ∧ s.down = false ∧ s.dstOwner dst.toNat = o ∧ s.ownerThere o = true ∧ (o < 128 → s.fbit
      Reg.INST_STATUS_COCOON = false) ∧ i.toNat < objsOf o ∧ s.fbit (Reg.SYNC_CTL_FROZEN o) = true ∧ coDev src.toNat =
      s.devid) :=
  ⟨⟨running.foff Reg.INST_STATUS_COCOON |>.foff (Reg.SYNC_CTL_FROZEN 129) |>.foff (Reg.SYNC_STATE_STATE 129 7) |> fun s
      => (List.range 64).foldl (fun (s : State) k => s.foff (Reg.WATCH_W0_VALID 129 k)) (s.wr (Reg.SYNC_VAL 129 7) 9),
      (BitVec.ofNat 22 (ownerCoord 0 129)), 7, 5, (BitVec.ofNat 16 (qnOf 0 130 4)), (BitVec.ofNat 30 (ioCoord 0 6 0 0 + 5
      * 2 ^ 22)), 129, 7, 0, by decide +kernel⟩,
    ⟨running.foff Reg.INST_STATUS_COCOON |>.foff (Reg.SYNC_CTL_FROZEN 129) |>.foff (Reg.SYNC_STATE_STATE 129 7) |> fun s
      => (List.range 64).foldl (fun (s : State) k => s.foff (Reg.WATCH_W0_VALID 129 k)) (s.wr (Reg.SYNC_VAL 129 7) 9),
      (BitVec.ofNat 22 (ownerCoord 0 129)), 7, 15, (BitVec.ofNat 16 (qnOf 0 130 4)), (BitVec.ofNat 30 (ioCoord 0 6 0 0 +
      5 * 2 ^ 22)), 129, 7, 0, by decide +kernel⟩,
    ⟨running.foff Reg.INST_STATUS_COCOON |>.foff (Reg.SYNC_CTL_FROZEN 129) |>.foff (Reg.SYNC_STATE_STATE 129 7) |> fun s
      => (List.range 64).foldl (fun (s : State) k => s.foff (Reg.WATCH_W0_VALID 129 k)) (s.wr (Reg.SYNC_VAL 129 7) 9)
      |>.fset (Reg.SYNC_STATE_STATE 129 7) 1, (BitVec.ofNat 22 (ownerCoord 0 129)), 7, 15, (BitVec.ofNat 16 (qnOf 0 130
      4)), (BitVec.ofNat 30 (ioCoord 0 6 0 0 + 5 * 2 ^ 22)), 129, 7, 0, by decide +kernel⟩,
    ⟨running.foff Reg.INST_STATUS_COCOON |>.foff (Reg.SYNC_CTL_FROZEN 129) |>.foff (Reg.SYNC_STATE_STATE 129 7) |> fun s
      => (List.range 64).foldl (fun (s : State) k => s.fon (Reg.WATCH_W0_VALID 129 k)) (s.wr (Reg.SYNC_VAL 129 7) 9),
      (BitVec.ofNat 22 (ownerCoord 0 129)), 7, 15, (BitVec.ofNat 16 (qnOf 0 130 4)), (BitVec.ofNat 30 (ioCoord 0 6 0 0 +
      5 * 2 ^ 22)), 129, 7, 0, by decide +kernel⟩,
    ⟨running, (BitVec.ofNat 22 (ioCoord 0 6 1 3)), 7, 5, (BitVec.ofNat 16 (qnOf 0 130 4)), (BitVec.ofNat 30 (ioCoord 0 6
      0 0 + 5 * 2 ^ 22)), 512, by decide +kernel⟩,
    ⟨running, (BitVec.ofNat 22 (ownerCoord 0 129)), 40, 5, (BitVec.ofNat 16 (qnOf 0 130 4)), (BitVec.ofNat 30 (ioCoord 0
      6 0 0 + 5 * 2 ^ 22)), 129, by decide +kernel⟩,
    ⟨running.fon (Reg.SYNC_CTL_FROZEN 129), (BitVec.ofNat 22 (ownerCoord 0 129)), 7, 5, (BitVec.ofNat 16 (qnOf 0 130 4)),
      (BitVec.ofNat 30 (ioCoord 0 6 0 0 + 5 * 2 ^ 22)), 129, by decide +kernel⟩⟩

theorem test_syncWatchEq_can_run :
    (∃ (s : State) (dst : BitVec 22) (i : BitVec 8) (v : Word) (wqn : BitVec 16) (src : BitVec 30) (o j w : Nat),
      s.canonical = true ∧ s.down = false ∧ s.dstOwner dst.toNat = o ∧ s.ownerThere o = true ∧ (o < 128 → s.fbit
      Reg.INST_STATUS_COCOON = false) ∧ j = i.toNat ∧ j < objsOf o ∧ s.fbit (Reg.SYNC_CTL_FROZEN o) = false ∧ s.orphaned
      o j = false ∧ (List.range (watchesOf o)).find? (fun k => !s.fbit (Reg.WATCH_W0_VALID o k)) = some w ∧ watchHolds
      true (s.syncVal o j) v.toNat = false) ∧
    (∃ (s : State) (dst : BitVec 22) (i : BitVec 8) (v : Word) (wqn : BitVec 16) (src : BitVec 30) (o j w : Nat),
      s.canonical = true ∧ s.down = false ∧ s.dstOwner dst.toNat = o ∧ s.ownerThere o = true ∧ (o < 128 → s.fbit
      Reg.INST_STATUS_COCOON = false) ∧ j = i.toNat ∧ j < objsOf o ∧ s.fbit (Reg.SYNC_CTL_FROZEN o) = false ∧ s.orphaned
      o j = false ∧ (List.range (watchesOf o)).find? (fun k => !s.fbit (Reg.WATCH_W0_VALID o k)) = some w ∧ watchHolds
      true (s.syncVal o j) v.toNat = true ∧ qnDev wqn.toNat = s.devid ∧ (List.range (watchesOf o)).find? (fun k =>
      !s.fbit (Reg.WATCH_W0_VALID o k)) ≠ none) ∧
    (∃ (s : State) (dst : BitVec 22) (i : BitVec 8) (v : Word) (wqn : BitVec 16) (src : BitVec 30) (o j w : Nat),
      s.canonical = true ∧ s.down = false ∧ s.dstOwner dst.toNat = o ∧ s.ownerThere o = true ∧ (o < 128 → s.fbit
      Reg.INST_STATUS_COCOON = false) ∧ j = i.toNat ∧ j < objsOf o ∧ s.fbit (Reg.SYNC_CTL_FROZEN o) = false ∧ qnDev
      wqn.toNat = s.devid ∧ s.orphaned o j = true) ∧
    (∃ (s : State) (dst : BitVec 22) (i : BitVec 8) (v : Word) (wqn : BitVec 16) (src : BitVec 30) (o j w : Nat),
      s.canonical = true ∧ s.down = false ∧ s.dstOwner dst.toNat = o ∧ s.ownerThere o = true ∧ (o < 128 → s.fbit
      Reg.INST_STATUS_COCOON = false) ∧ j = i.toNat ∧ j < objsOf o ∧ s.fbit (Reg.SYNC_CTL_FROZEN o) = false ∧ qnDev
      wqn.toNat = s.devid ∧ s.orphaned o j = false ∧ (List.range (watchesOf o)).find? (fun k => !s.fbit
      (Reg.WATCH_W0_VALID o k)) = none) ∧
    (∃ (s : State) (dst : BitVec 22) (i : BitVec 8) (v : Word) (wqn : BitVec 16) (src : BitVec 30) (o : Nat), s.canonical
      = true ∧ s.down = false ∧ s.dstOwner dst.toNat = o ∧ s.ownerThere o = false ∧ coDev src.toNat = s.devid) ∧
    (∃ (s : State) (dst : BitVec 22) (i : BitVec 8) (v : Word) (wqn : BitVec 16) (src : BitVec 30) (o : Nat), s.canonical
      = true ∧ s.down = false ∧ s.dstOwner dst.toNat = o ∧ s.ownerThere o = true ∧ ((o < 128 ∧ s.fbit
      Reg.INST_STATUS_COCOON = true) ∨ objsOf o ≤ i.toNat) ∧ coDev src.toNat = s.devid) ∧
    (∃ (s : State) (dst : BitVec 22) (i : BitVec 8) (v : Word) (wqn : BitVec 16) (src : BitVec 30) (o : Nat), s.canonical
      = true ∧ s.down = false ∧ s.dstOwner dst.toNat = o ∧ s.ownerThere o = true ∧ (o < 128 → s.fbit
      Reg.INST_STATUS_COCOON = false) ∧ i.toNat < objsOf o ∧ s.fbit (Reg.SYNC_CTL_FROZEN o) = true ∧ coDev src.toNat =
      s.devid) :=
  ⟨⟨running.foff Reg.INST_STATUS_COCOON |>.foff (Reg.SYNC_CTL_FROZEN 129) |>.foff (Reg.SYNC_STATE_STATE 129 7) |> fun s
      => (List.range 64).foldl (fun (s : State) k => s.foff (Reg.WATCH_W0_VALID 129 k)) (s.wr (Reg.SYNC_VAL 129 7) 9),
      (BitVec.ofNat 22 (ownerCoord 0 129)), 7, 5, (BitVec.ofNat 16 (qnOf 0 130 4)), (BitVec.ofNat 30 (ioCoord 0 6 0 0 + 5
      * 2 ^ 22)), 129, 7, 0, by decide +kernel⟩,
    ⟨running.foff Reg.INST_STATUS_COCOON |>.foff (Reg.SYNC_CTL_FROZEN 129) |>.foff (Reg.SYNC_STATE_STATE 129 7) |> fun s
      => (List.range 64).foldl (fun (s : State) k => s.foff (Reg.WATCH_W0_VALID 129 k)) (s.wr (Reg.SYNC_VAL 129 7) 9),
      (BitVec.ofNat 22 (ownerCoord 0 129)), 7, 9, (BitVec.ofNat 16 (qnOf 0 130 4)), (BitVec.ofNat 30 (ioCoord 0 6 0 0 + 5
      * 2 ^ 22)), 129, 7, 0, by decide +kernel⟩,
    ⟨running.foff Reg.INST_STATUS_COCOON |>.foff (Reg.SYNC_CTL_FROZEN 129) |>.foff (Reg.SYNC_STATE_STATE 129 7) |> fun s
      => (List.range 64).foldl (fun (s : State) k => s.foff (Reg.WATCH_W0_VALID 129 k)) (s.wr (Reg.SYNC_VAL 129 7) 9)
      |>.fset (Reg.SYNC_STATE_STATE 129 7) 1, (BitVec.ofNat 22 (ownerCoord 0 129)), 7, 15, (BitVec.ofNat 16 (qnOf 0 130
      4)), (BitVec.ofNat 30 (ioCoord 0 6 0 0 + 5 * 2 ^ 22)), 129, 7, 0, by decide +kernel⟩,
    ⟨running.foff Reg.INST_STATUS_COCOON |>.foff (Reg.SYNC_CTL_FROZEN 129) |>.foff (Reg.SYNC_STATE_STATE 129 7) |> fun s
      => (List.range 64).foldl (fun (s : State) k => s.fon (Reg.WATCH_W0_VALID 129 k)) (s.wr (Reg.SYNC_VAL 129 7) 9),
      (BitVec.ofNat 22 (ownerCoord 0 129)), 7, 15, (BitVec.ofNat 16 (qnOf 0 130 4)), (BitVec.ofNat 30 (ioCoord 0 6 0 0 +
      5 * 2 ^ 22)), 129, 7, 0, by decide +kernel⟩,
    ⟨running, (BitVec.ofNat 22 (ioCoord 0 6 1 3)), 7, 5, (BitVec.ofNat 16 (qnOf 0 130 4)), (BitVec.ofNat 30 (ioCoord 0 6
      0 0 + 5 * 2 ^ 22)), 512, by decide +kernel⟩,
    ⟨running, (BitVec.ofNat 22 (ownerCoord 0 129)), 40, 5, (BitVec.ofNat 16 (qnOf 0 130 4)), (BitVec.ofNat 30 (ioCoord 0
      6 0 0 + 5 * 2 ^ 22)), 129, by decide +kernel⟩,
    ⟨running.fon (Reg.SYNC_CTL_FROZEN 129), (BitVec.ofNat 22 (ownerCoord 0 129)), 7, 5, (BitVec.ofNat 16 (qnOf 0 130 4)),
      (BitVec.ofNat 30 (ioCoord 0 6 0 0 + 5 * 2 ^ 22)), 129, by decide +kernel⟩⟩

theorem test_syncRead_can_run :
    (∃ (s : State) (dst : BitVec 22) (i : BitVec 8) (src : BitVec 30) (o j : Nat), s.canonical = true ∧ s.down = false ∧
      s.dstOwner dst.toNat = o ∧ s.ownerThere o = true ∧ (o < 128 → s.fbit Reg.INST_STATUS_COCOON = false) ∧ j = i.toNat
      ∧ j < objsOf o ∧ s.fbit (Reg.SYNC_CTL_FROZEN o) = false ∧ coDev src.toNat = s.devid ∧ s.orphaned o j = false) ∧
    (∃ (s : State) (dst : BitVec 22) (i : BitVec 8) (src : BitVec 30) (o j : Nat), s.canonical = true ∧ s.down = false ∧
      s.dstOwner dst.toNat = o ∧ s.ownerThere o = true ∧ (o < 128 → s.fbit Reg.INST_STATUS_COCOON = false) ∧ j = i.toNat
      ∧ j < objsOf o ∧ s.fbit (Reg.SYNC_CTL_FROZEN o) = false ∧ coDev src.toNat = s.devid ∧ s.orphaned o j = true) ∧
    (∃ (s : State) (dst : BitVec 22) (i : BitVec 8) (src : BitVec 30) (o : Nat), s.canonical = true ∧ s.down = false ∧
      s.dstOwner dst.toNat = o ∧ s.ownerThere o = false ∧ coDev src.toNat = s.devid) ∧
    (∃ (s : State) (dst : BitVec 22) (i : BitVec 8) (src : BitVec 30) (o : Nat), s.canonical = true ∧ s.down = false ∧
      s.dstOwner dst.toNat = o ∧ s.ownerThere o = true ∧ ((o < 128 ∧ s.fbit Reg.INST_STATUS_COCOON = true) ∨ objsOf o ≤
      i.toNat) ∧ coDev src.toNat = s.devid) ∧
    (∃ (s : State) (dst : BitVec 22) (i : BitVec 8) (src : BitVec 30) (o : Nat), s.canonical = true ∧ s.down = false ∧
      s.dstOwner dst.toNat = o ∧ s.ownerThere o = true ∧ (o < 128 → s.fbit Reg.INST_STATUS_COCOON = false) ∧ i.toNat <
      objsOf o ∧ s.fbit (Reg.SYNC_CTL_FROZEN o) = true ∧ coDev src.toNat = s.devid) :=
  ⟨⟨running.foff Reg.INST_STATUS_COCOON |>.foff (Reg.SYNC_CTL_FROZEN 129) |>.foff (Reg.SYNC_STATE_STATE 129 7),
      (BitVec.ofNat 22 (ownerCoord 0 129)), 7, (BitVec.ofNat 30 (ioCoord 0 6 0 0 + 5 * 2 ^ 22)), 129, 7,
      by decide +kernel⟩,
    ⟨running.foff Reg.INST_STATUS_COCOON |>.foff (Reg.SYNC_CTL_FROZEN 129) |>.foff (Reg.SYNC_STATE_STATE 129 7) |>.fset
      (Reg.SYNC_STATE_STATE 129 7) 1, (BitVec.ofNat 22 (ownerCoord 0 129)), 7, (BitVec.ofNat 30 (ioCoord 0 6 0 0 + 5 * 2
      ^ 22)), 129, 7, by decide +kernel⟩,
    ⟨running, (BitVec.ofNat 22 (ioCoord 0 6 1 3)), 7, (BitVec.ofNat 30 (ioCoord 0 6 0 0 + 5 * 2 ^ 22)), 512,
      by decide +kernel⟩,
    ⟨running, (BitVec.ofNat 22 (ownerCoord 0 129)), 40, (BitVec.ofNat 30 (ioCoord 0 6 0 0 + 5 * 2 ^ 22)), 129,
      by decide +kernel⟩,
    ⟨running.fon (Reg.SYNC_CTL_FROZEN 129), (BitVec.ofNat 22 (ownerCoord 0 129)), 7, (BitVec.ofNat 30 (ioCoord 0 6 0 0 +
      5 * 2 ^ 22)), 129, by decide +kernel⟩⟩

theorem test_syncResend_can_run :
    (∃ (s : State) (x : SyncOp), s.canonical = true ∧ s.down = false ∧ s.resends.find? (fun x => decide (x.due ≤ s.time))
      = some x ∧ x.dev = s.devid) ∧
    (∃ (s : State), s.canonical = true ∧ s.down = false ∧ s.resends.find? (fun x => decide (x.due ≤ s.time)) = none) :=
  ⟨⟨running |> fun s => { s with resends := [⟨s.devid, 33000, 0, 1, 0, 5, 0⟩] }, ⟨0, 33000, 0, 1, 0, 5, 0⟩,
      by decide +kernel⟩,
    ⟨running |> fun s => { s with resends := [] }, by decide +kernel⟩⟩

theorem test_syncNotice_can_run :
    (∃ (s : State) (dst : BitVec 22) (q : Fin 16) (time : BitVec 64) (obj : BitVec 16) (dev : BitVec 3) (kind : Fin 3)
      (value : Word) (thr : Word) (eq : Bool) (src : BitVec 22) (o : Nat), s.canonical = true ∧ s.down = false ∧
      s.dstOwner dst.toNat = o ∧ s.ownerThere o = true ∧ (s.owner o).stalled = [] ∧ (s.owner o).mc = none ∧ s.qOpen o q =
      true ∧ (s.queue o q).want = [] ∧ (s.queue o q).notes = [] ∧ (s.queue o q).ring = [] ∧ 0 < (s.queue o q).free ∧
      (s.iface (ownerCoord s.devid o)).wait = []) ∧
    (∃ (s : State) (dst : BitVec 22) (q : Fin 16) (time : BitVec 64) (obj : BitVec 16) (dev : BitVec 3) (kind : Fin 3)
      (value : Word) (thr : Word) (eq : Bool) (src : BitVec 22) (o : Nat), s.canonical = true ∧ s.down = false ∧
      s.dstOwner dst.toNat = o ∧ s.ownerThere o = true ∧ (s.owner o).stalled = [] ∧ (s.owner o).mc = none ∧ s.qOpen o q =
      false) ∧
    (∃ (s : State) (dst : BitVec 22) (q : Fin 16) (time : BitVec 64) (obj : BitVec 16) (dev : BitVec 3) (kind : Fin 3)
      (value : Word) (thr : Word) (eq : Bool) (src : BitVec 22) (o : Nat), s.canonical = true ∧ s.down = false ∧
      s.dstOwner dst.toNat = o ∧ s.ownerThere o = true ∧ (s.owner o).stalled = [] ∧ (s.owner o).mc = none ∧ s.qOpen o q =
      true ∧ (s.queue o q).want = [] ∧ (s.queue o q).notes = [] ∧ (s.queue o q).ring = [] ∧ (s.queue o q).free = 0) ∧
    (∃ (s : State) (dst : BitVec 22) (q : Fin 16) (time : BitVec 64) (obj : BitVec 16) (dev : BitVec 3) (kind : Fin 3)
      (value : Word) (thr : Word) (eq : Bool) (src : BitVec 22) (o : Nat), s.canonical = true ∧ s.down = false ∧
      s.dstOwner dst.toNat = o ∧ s.ownerThere o = true) ∧
    (∃ (s : State) (dst : BitVec 22) (q : Fin 16) (time : BitVec 64) (obj : BitVec 16) (dev : BitVec 3) (kind : Fin 3)
      (value : Word) (thr : Word) (eq : Bool) (src : BitVec 22) (o : Nat), s.canonical = true ∧ s.down = false ∧
      s.dstOwner dst.toNat = o ∧ s.ownerThere o = false) :=
  ⟨⟨running.fon (Reg.Q_CFG_OPEN 129 3), (BitVec.ofNat 22 (ownerCoord 0 129)), 3, 100, 7, 1, 0, 5, 4, false, 77, 129,
      by decide +kernel⟩,
    ⟨running.foff (Reg.Q_CFG_OPEN 129 3), (BitVec.ofNat 22 (ownerCoord 0 129)), 3, 100, 7, 1, 0, 5, 4, false, 77, 129,
      by decide +kernel⟩,
    ⟨running.fon (Reg.Q_CFG_OPEN 129 3) |>.onQueue 129 3 fun x => { x with resv := 64 }, (BitVec.ofNat 22 (ownerCoord 0
      129)), 3, 100, 7, 1, 0, 5, 4, false, 77, 129, by decide +kernel⟩,
    ⟨running, (BitVec.ofNat 22 (ownerCoord 0 129)), 3, 100, 7, 1, 0, 5, 4, false, 77, 129, by decide +kernel⟩,
    ⟨running, (BitVec.ofNat 22 (ioCoord 0 6 1 3)), 3, 100, 7, 1, 0, 5, 4, false, 77, 512, by decide +kernel⟩⟩

theorem test_syncAdopt_can_run :
    (∃ (s : State) (m : Master) (o : Fin 136) (k : Fin 48), s.canonical = true ∧ s.admits m (Reg.SYNC_CTL o) = true ∧
      s.ownerThere o = true ∧ k.val < objsOf o) ∧
    (∃ (s : State) (m : Master) (o : Fin 136), s.canonical = true ∧ s.admits m (Reg.SYNC_CTL o) = true ∧ s.ownerThere o =
      false) :=
  ⟨⟨running.fset (Reg.SYNC_STATE_STATE 129 7) 1, .aon, 129, 7, by decide +kernel⟩,
    ⟨running.wr (Reg.INST_TROW 0) 0xFFFFFFFF |>.fset (Reg.INST_TROW_LCOLS 0) 0, .aon, 0, by decide +kernel⟩⟩

theorem test_syncFreeze_can_run :
    (∃ (s : State) (m : Master) (o : Fin 136), s.canonical = true ∧ s.admits m (Reg.SYNC_CTL o) = true ∧ s.ownerThere o =
      true) ∧
    (∃ (s : State) (m : Master) (o : Fin 136), s.canonical = true ∧ s.admits m (Reg.SYNC_CTL o) = true ∧ s.ownerThere o =
      false) :=
  ⟨⟨running, .aon, 129, by decide +kernel⟩,
    ⟨running.wr (Reg.INST_TROW 0) 0xFFFFFFFF |>.fset (Reg.INST_TROW_LCOLS 0) 0, .aon, 0, by decide +kernel⟩⟩

theorem test_syncUnfreeze_can_run :
    (∃ (s : State) (m : Master) (o : Fin 136) (w : Fin 96), s.canonical = true ∧ s.admits m (Reg.SYNC_CTL o) = true ∧
      s.ownerThere o = true ∧ s.fbit (Reg.SYNC_CTL_FROZEN o) = true ∧ w.val < watchesOf o ∧ s.fbit (Reg.WATCH_W0_VALID o
      w) = true ∧ watchHolds (s.fbit (Reg.WATCH_W0_EQ o w)) (s.syncVal o (s.fget (Reg.WATCH_W0_INDEX o w))) (s.rd
      (Reg.WATCH_W1 o w)).toNat = true ∧ qnDev (s.fget (Reg.WATCH_W0_WQN o w)) = s.devid) ∧
    (∃ (s : State) (m : Master) (o : Fin 136), s.canonical = true ∧ s.admits m (Reg.SYNC_CTL o) = true ∧ s.ownerThere o =
      true ∧ s.fbit (Reg.SYNC_CTL_FROZEN o) = false) ∧
    (∃ (s : State) (m : Master) (o : Fin 136), s.canonical = true ∧ s.admits m (Reg.SYNC_CTL o) = true ∧ s.ownerThere o =
      false) :=
  ⟨⟨running.fon (Reg.SYNC_CTL_FROZEN 129) |>.fon (Reg.WATCH_W0_VALID 129 5) |>.fset (Reg.WATCH_W0_INDEX 129 5) 3 |> fun
      s => s.fset (Reg.WATCH_W0_WQN 129 5) (qnOf s.devid 130 4), .aon, 129, 5, by decide +kernel⟩,
    ⟨running.foff (Reg.SYNC_CTL_FROZEN 129), .aon, 129, by decide +kernel⟩,
    ⟨running.wr (Reg.INST_TROW 0) 0xFFFFFFFF |>.fset (Reg.INST_TROW_LCOLS 0) 0, .aon, 0, by decide +kernel⟩⟩

theorem test_qWdrain_can_run :
    (∃ (s : State) (o : Fin 136), s.canonical = true ∧ s.down = false ∧ s.ownerRuns o = true ∧ (s.owner o).out = 0) ∧
    (∃ (s : State) (o : Fin 136), s.canonical = true ∧ s.down = false ∧ s.ownerRuns o = true ∧ (s.owner o).out ≠ 0) ∧
    (∃ (s : State) (o : Fin 136), s.canonical = true ∧ s.down = false ∧ s.ownerRuns o = false) :=
  ⟨⟨running.onOwner 129 fun w => { w with out := 0 }, 129, by decide +kernel⟩,
    ⟨running.onOwner 129 fun w => { w with out := 2 }, 129, by decide +kernel⟩,
    ⟨running.foff (Reg.SEQ_CTL_RUN 11), 11, by decide +kernel⟩⟩

theorem test_dmaStart_can_run :
    (∃ (s : State) (m : Master) (ch : Fin 1056) (ie : Bool) (sel : Bool), s.canonical = true ∧ s.admits m (dmaCtl ch) =
      true ∧ s.dmaThere ch = true ∧ (¬ (s.dmaState ch = 1 ∨ s.dmaState ch = 2 ∨ s.dmaState ch = 3))) ∧
    (∃ (s : State) (m : Master) (ch : Fin 1056) (ie : Bool) (sel : Bool), s.canonical = true ∧ s.admits m (dmaCtl ch) =
      true ∧ s.dmaThere ch = true ∧ (s.dmaState ch = 1 ∨ s.dmaState ch = 2 ∨ s.dmaState ch = 3)) ∧
    (∃ (s : State) (m : Master) (ch : Fin 1056) (ie : Bool) (sel : Bool), s.canonical = true ∧ s.admits m (dmaCtl ch) =
      true ∧ s.dmaThere ch = false) :=
  ⟨⟨running.fset (Reg.DMA_STATUS_STATE 1029) 5 |>.fset (Reg.DMA_PC_PC 1029) 8 |>.fset (Reg.DMA_PC_DEPTH 1029) 0 |>.onDma
      1029 (fun _ => { DmaSt.init with code := [(1, [0])]  }), .aon, 1029, true, false, by decide +kernel⟩,
    ⟨running.fset (Reg.DMA_STATUS_STATE 1029) 2 |>.fset (Reg.DMA_PC_PC 1029) 8 |>.fset (Reg.DMA_PC_DEPTH 1029) 0 |>.onDma
      1029 (fun _ => { DmaSt.init with code := [(1, [0])]  }), .aon, 1029, true, false, by decide +kernel⟩,
    ⟨running, .aon, 5, true, false, by decide +kernel⟩⟩

theorem test_dmaPause_can_run :
    (∃ (s : State) (m : Master) (ch : Fin 1056), s.canonical = true ∧ s.admits m (dmaCtl ch) = true ∧ s.dmaThere ch =
      true ∧ dmaTile ch = true) ∧
    (∃ (s : State) (m : Master) (ch : Fin 1056), s.canonical = true ∧ s.admits m (dmaCtl ch) = true ∧ s.dmaThere ch =
      true ∧ dmaTile ch = false) ∧
    (∃ (s : State) (m : Master) (ch : Fin 1056), s.canonical = true ∧ s.admits m (dmaCtl ch) = true ∧ s.dmaThere ch =
      false) :=
  ⟨⟨running.fset (Reg.DMA_STATUS_STATE 18) 1 |>.fset (Reg.DMA_PC_PC 18) 8 |>.fset (Reg.DMA_PC_DEPTH 18) 0 |>.onDma 18
      (fun _ => { DmaSt.init with code := [(1, [0])]  }), .aon, 18, by decide +kernel⟩,
    ⟨running.fset (Reg.DMA_STATUS_STATE 1029) 1 |>.fset (Reg.DMA_PC_PC 1029) 8 |>.fset (Reg.DMA_PC_DEPTH 1029) 0 |>.onDma
      1029 (fun _ => { DmaSt.init with code := [(1, [0])]  }), .aon, 1029, by decide +kernel⟩,
    ⟨running, .aon, 5, by decide +kernel⟩⟩

theorem test_dmaPaused_can_run :
    (∃ (s : State) (ch : Fin 1056), s.canonical = true ∧ s.down = false ∧ s.dmaThere ch = true ∧ s.dmaState ch = 3 ∧
      (s.dma ch).wait = none ∧ (s.dma ch).buf = []) ∧
    (∃ (s : State) (ch : Fin 1056), s.canonical = true ∧ s.down = false ∧ (s.dmaState ch ≠ 3 ∨ (s.dma ch).wait ≠ none ∨
      (s.dma ch).buf ≠ [] ∨ s.dmaThere ch = false)) :=
  ⟨⟨running.fset (Reg.DMA_STATUS_STATE 18) 3 |>.fset (Reg.DMA_PC_PC 18) 8 |>.fset (Reg.DMA_PC_DEPTH 18) 0 |>.onDma 18
      (fun _ => { DmaSt.init with code := [(1, [0])]  }), 18, by decide +kernel⟩,
    ⟨running.fset (Reg.DMA_STATUS_STATE 18) 1 |>.fset (Reg.DMA_PC_PC 18) 8 |>.fset (Reg.DMA_PC_DEPTH 18) 0 |>.onDma 18
      (fun _ => { DmaSt.init with code := [(1, [0])]  }), 18, by decide +kernel⟩⟩

theorem test_dmaResume_can_run :
    (∃ (s : State) (m : Master) (ch : Fin 1056), s.canonical = true ∧ s.admits m (dmaCtl ch) = true ∧ s.dmaThere ch =
      true ∧ dmaTile ch = true ∧ s.dmaState ch = 4 ∧ s.dmaDepth ch = 0) ∧
    (∃ (s : State) (m : Master) (ch : Fin 1056), s.canonical = true ∧ s.admits m (dmaCtl ch) = true ∧ s.dmaThere ch =
      true ∧ dmaTile ch = true ∧ s.dmaState ch ≠ 4) ∧
    (∃ (s : State) (m : Master) (ch : Fin 1056), s.canonical = true ∧ s.admits m (dmaCtl ch) = true ∧ (s.dmaThere ch =
      false ∨ dmaTile ch = false)) :=
  ⟨⟨running.fset (Reg.DMA_STATUS_STATE 18) 4 |>.fset (Reg.DMA_PC_PC 18) 8 |>.fset (Reg.DMA_PC_DEPTH 18) 0 |>.onDma 18
      (fun _ => { DmaSt.init with code := [(1, [0])]  }), .aon, 18, by decide +kernel⟩,
    ⟨running.fset (Reg.DMA_STATUS_STATE 18) 1 |>.fset (Reg.DMA_PC_PC 18) 8 |>.fset (Reg.DMA_PC_DEPTH 18) 0 |>.onDma 18
      (fun _ => { DmaSt.init with code := [(1, [0])]  }), .aon, 18, by decide +kernel⟩,
    ⟨running, .aon, 1029, by decide +kernel⟩⟩

theorem test_dmaDisable_can_run :
    (∃ (s : State) (m : Master) (ch : Fin 1056), s.canonical = true ∧ s.admits m (dmaCtl ch) = true ∧ s.dmaThere ch =
      true ∧ dmaTile ch = false) ∧
    (∃ (s : State) (m : Master) (ch : Fin 1056), s.canonical = true ∧ s.admits m (dmaCtl ch) = true ∧ s.dmaThere ch =
      true ∧ dmaTile ch = true) ∧
    (∃ (s : State) (m : Master) (ch : Fin 1056), s.canonical = true ∧ s.admits m (dmaCtl ch) = true ∧ s.dmaThere ch =
      false) :=
  ⟨⟨running.fset (Reg.DMA_STATUS_STATE 1029) 1 |>.fset (Reg.DMA_PC_PC 1029) 8 |>.fset (Reg.DMA_PC_DEPTH 1029) 0 |>.onDma
      1029 (fun _ => { DmaSt.init with code := [(1, [0])]  }), .aon, 1029, by decide +kernel⟩,
    ⟨running.fset (Reg.DMA_STATUS_STATE 18) 1 |>.fset (Reg.DMA_PC_PC 18) 8 |>.fset (Reg.DMA_PC_DEPTH 18) 0 |>.onDma 18
      (fun _ => { DmaSt.init with code := [(1, [0])]  }), .aon, 18, by decide +kernel⟩,
    ⟨running, .aon, 5, by decide +kernel⟩⟩

theorem test_dmaProgramFetch_can_run :
    (∃ (s : State) (ch : Fin 1056) (k : Fin 3) (ecc : Ecc), s.canonical = true ∧ s.down = false ∧ s.dmaThere ch = true ∧
      s.dmaState ch = 1 ∧ (s.dma ch).wait = none ∧ (s.dmaPc ch / 8 + k.val) < 16384 ∧ State.dmaReach ch (s.dmaAddr ch (8
      * (s.dmaPc ch / 8 + k.val))) 64 false = true ∧ s.allows (.dma ch) 0 (s.dmaAddr ch (8 * (s.dmaPc ch / 8 + k.val)))
      64 = true ∧ s.isLocal (s.dmaAddr ch (8 * (s.dmaPc ch / 8 + k.val))) = true ∧ s.served (localPart (s.dmaAddr ch (8 *
      (s.dmaPc ch / 8 + k.val)))) = 0) ∧
    (∃ (s : State) (ch : Fin 1056) (k : Fin 3) (ecc : Ecc), s.canonical = true ∧ s.down = false ∧ s.dmaThere ch = true ∧
      s.dmaState ch = 1 ∧ (s.dma ch).wait = none ∧ (s.dmaPc ch / 8 + k.val) < 16384 ∧ State.dmaReach ch (s.dmaAddr ch (8
      * (s.dmaPc ch / 8 + k.val))) 64 false = true ∧ s.allows (.dma ch) 0 (s.dmaAddr ch (8 * (s.dmaPc ch / 8 + k.val)))
      64 = true ∧ s.isLocal (s.dmaAddr ch (8 * (s.dmaPc ch / 8 + k.val))) = true ∧ s.served (localPart (s.dmaAddr ch (8 *
      (s.dmaPc ch / 8 + k.val)))) = 0 ∧ (eccWords (unalias (localPart (s.dmaAddr ch (8 * (s.dmaPc ch / 8 + k.val)))))
      64).any s.isBad = true) ∧
    (∃ (s : State) (ch : Fin 1056) (k : Fin 3) (ecc : Ecc), s.canonical = true ∧ s.down = false ∧ s.dmaThere ch = true ∧
      s.dmaState ch = 1 ∧ (s.dma ch).wait = none ∧ (s.dmaPc ch / 8 + k.val) < 16384 ∧ (State.dmaReach ch (s.dmaAddr ch (8
      * (s.dmaPc ch / 8 + k.val))) 64 false = false ∨ s.allows (.dma ch) 0 (s.dmaAddr ch (8 * (s.dmaPc ch / 8 + k.val)))
      64 = false)) ∧
    (∃ (s : State) (ch : Fin 1056) (k : Fin 3) (ecc : Ecc), s.canonical = true ∧ s.down = false ∧ (s.dmaState ch ≠ 1 ∨
      (s.dma ch).wait ≠ none ∨ 16384 ≤ (s.dmaPc ch / 8 + k.val) ∨ s.dmaThere ch = false)) :=
  ⟨⟨running.fset (Reg.DMA_STATUS_STATE 1029) 1 |>.fset (Reg.DMA_PC_PC 1029) 8 |>.fset (Reg.DMA_PC_DEPTH 1029) 0 |>.onDma
      1029 (fun _ => { DmaSt.init with code := [(1, [0])]  }) |>.fon (Reg.REG_LIMIT_H_EN (rsetBulk 0) 0) |>.fon
      (Reg.REG_LIMIT_H_R (rsetBulk 0) 0) |>.fon (Reg.REG_LIMIT_H_W (rsetBulk 0) 0) |>.fon (Reg.REG_LIMIT_H_A (rsetBulk 0)
      0) |>.fset (Reg.REG_BASE_H_BASE_H (rsetBulk 0) 0) 0 |>.fset (Reg.REG_BASE_L_BASE_L (rsetBulk 0) 0) 0 |>.fset
      (Reg.REG_LIMIT_H_LIMIT_H (rsetBulk 0) 0) 0xffff |>.fset (Reg.REG_LIMIT_L_LIMIT_L (rsetBulk 0) 0) 0xfffff |> fun (s
      : State) => kvUnits.foldl (fun (s : State) x => s.foff (Reg.ING_KV_CFG_EN x.1 x.2))
      ({ s with bad := [], tiles := [] } : State) |>.fset (Reg.DMA_PBASE_HI_BASE 1029) 0x800 |>.fset
      (Reg.DMA_PBASE_LO_BASE 1029) 2 |>.foff Reg.INST_STATUS_COCOON, 1029, 1, .none, by decide +kernel⟩,
    ⟨running.fset (Reg.DMA_STATUS_STATE 1029) 1 |>.fset (Reg.DMA_PC_PC 1029) 8 |>.fset (Reg.DMA_PC_DEPTH 1029) 0 |>.onDma
      1029 (fun _ => { DmaSt.init with code := [(1, [0])]  }) |>.fon (Reg.REG_LIMIT_H_EN (rsetBulk 0) 0) |>.fon
      (Reg.REG_LIMIT_H_R (rsetBulk 0) 0) |>.fon (Reg.REG_LIMIT_H_W (rsetBulk 0) 0) |>.fon (Reg.REG_LIMIT_H_A (rsetBulk 0)
      0) |>.fset (Reg.REG_BASE_H_BASE_H (rsetBulk 0) 0) 0 |>.fset (Reg.REG_BASE_L_BASE_L (rsetBulk 0) 0) 0 |>.fset
      (Reg.REG_LIMIT_H_LIMIT_H (rsetBulk 0) 0) 0xffff |>.fset (Reg.REG_LIMIT_L_LIMIT_L (rsetBulk 0) 0) 0xfffff |> fun (s
      : State) => kvUnits.foldl (fun (s : State) x => s.foff (Reg.ING_KV_CFG_EN x.1 x.2))
      ({ s with bad := [], tiles := [] } : State) |>.fset (Reg.DMA_PBASE_HI_BASE 1029) 0x800 |>.fset
      (Reg.DMA_PBASE_LO_BASE 1029) 2 |>.foff Reg.INST_STATUS_COCOON |> fun s =>
      { s with bad := [(unalias (localPart (s.dmaAddr 1029 (8 * (s.dmaPc 1029 / 8 + 1)))), true)] }, 1029, 1, .none,
      by decide +kernel⟩,
    ⟨running.fset (Reg.DMA_STATUS_STATE 1029) 1 |>.fset (Reg.DMA_PC_PC 1029) 8 |>.fset (Reg.DMA_PC_DEPTH 1029) 0 |>.onDma
      1029 (fun _ => { DmaSt.init with code := [(1, [0])]  }) |>.fset (Reg.DMA_PBASE_HI_BASE 1029) 0x700, 1029, 1, .none,
      by decide +kernel⟩,
    ⟨running.fset (Reg.DMA_STATUS_STATE 1029) 5 |>.fset (Reg.DMA_PC_PC 1029) 8 |>.fset (Reg.DMA_PC_DEPTH 1029) 0 |>.onDma
      1029 (fun _ => { DmaSt.init with code := [(1, [0])]  }), 1029, 1, .none, by decide +kernel⟩⟩

theorem test_move_can_run :
    (∃ (s : State) (ch : Fin 1056) (n : Word) (ecc : List (BitVec 32 × Ecc)) (w a b c set i : Nat), s.canonical = true ∧
      s.down = false ∧ s.dmaThere ch = true ∧ s.dmaState ch = 1 ∧ (s.dma ch).wait = none ∧ s.dmaWord ch (s.dmaPc ch) =
      some w ∧ bits w 63 60 = 1 ∧ s.dmaMove ch = some (a, b, c) ∧ moveBad ch a b c = false ∧ s.dmaPc ch + 2 < 131072 ∧
      bits a 55 52 = 0 ∧ s.dmaDone ch = 0 ∧ s.dmaPc ch + 3 < 131072 ∧ (s.dmaSum ch true 0 b) % 256 + bits a 31 0 ≤ 256 ∧
      (s.dmaSum ch false 0 c) % 64 + bits a 31 0 ≤ 64 ∧ bits a 31 0 ≤ n.toNat ∧ 0x80000000000 ≤ (s.dmaSum ch true 0 b) /
      64 * 64 ∧ (s.dmaSum ch true 0 b) < 0x80030000000 ∧ 0x80000000000 ≤ (s.dmaSum ch false 0 c) ∧ (s.dmaSum ch false 0
      c) < 0x80030000000 ∧ (s.dmaSum ch true 0 b) / 256 ≠ (s.dmaSum ch false 0 c) / 256 ∧ (Who.dma ch).set = some set ∧
      s.setAllows set 0 ((s.dmaSum ch true 0 b) / 64 * 64) (((s.dmaSum ch true 0 b) + bits a 31 0 + 63) / 64 * 64 -
      (s.dmaSum ch true 0 b) / 64 * 64) = true ∧ s.setAllows set 1 ((s.dmaSum ch false 0 c) / 4096 * 4096) 1 = true ∧
      s.served ((s.dmaSum ch true 0 b) / 64 * 64) = 0 ∧ s.served (s.dmaSum ch false 0 c) = 0 ∧ s.bad = [] ∧ ecc = [] ∧ i
      < bits a 31 0 ∧ (kvUnits.any fun x => s.fbit (Reg.ING_KV_CFG_EN x.1 x.2)) = false) ∧
    (∃ (s : State) (ch : Fin 1056) (n : Word) (ecc : List (BitVec 32 × Ecc)) (w : Nat), s.canonical = true ∧ s.down =
      false ∧ s.dmaThere ch = true ∧ s.dmaState ch = 1 ∧ (s.dma ch).wait = none ∧ s.dmaWord ch (s.dmaPc ch) = some w ∧
      bits w 63 60 = 1 ∧ (if 131072 ≤ s.dmaPc ch + 2 then false else (s.dmaMove ch).any (fun x => moveBad ch x.1 x.2.1
      x.2.2)) = true) ∧
    (∃ (s : State) (ch : Fin 1056) (n : Word) (ecc : List (BitVec 32 × Ecc)) (w : Nat), s.canonical = true ∧ s.down =
      false ∧ s.dmaThere ch = true ∧ s.dmaState ch = 1 ∧ (s.dma ch).wait = none ∧ s.dmaWord ch (s.dmaPc ch) = some w ∧
      bits w 63 60 = 1 ∧ 131072 ≤ s.dmaPc ch + 2) ∧
    (∃ (s : State) (ch : Fin 1056) (n : Word) (ecc : List (BitVec 32 × Ecc)) (w a b c : Nat), s.canonical = true ∧ s.down
      = false ∧ s.dmaThere ch = true ∧ s.dmaState ch = 1 ∧ (s.dma ch).wait = none ∧ s.dmaWord ch (s.dmaPc ch) = some w ∧
      bits w 63 60 = 1 ∧ s.dmaMove ch = some (a, b, c) ∧ moveBad ch a b c = false ∧ s.dmaPc ch + 2 < 131072 ∧ bits a 55
      54 = 1 ∧ s.dmaDone ch < bits a 31 0 ∧ (s.dma ch).buf = [] ∧ 0 < n.toNat ∧ s.hostReady = true) ∧
    (∃ (s : State) (ch : Fin 1056) (n : Word) (ecc : List (BitVec 32 × Ecc)) (w a b c : Nat), s.canonical = true ∧ s.down
      = false ∧ s.dmaThere ch = true ∧ s.dmaState ch = 1 ∧ (s.dma ch).wait = none ∧ s.dmaWord ch (s.dmaPc ch) = some w ∧
      bits w 63 60 = 1 ∧ s.dmaMove ch = some (a, b, c) ∧ moveBad ch a b c = false ∧ s.dmaPc ch + 2 < 131072 ∧ bits a 55
      54 = 1 ∧ s.dmaDone ch < bits a 31 0 ∧ (s.dma ch).buf = [] ∧ 0 < n.toNat ∧ s.hostReady = false) ∧
    (∃ (s : State) (ch : Fin 1056) (n : Word) (ecc : List (BitVec 32 × Ecc)) (w a b c : Nat), s.canonical = true ∧ s.down
      = false ∧ s.dmaThere ch = true ∧ s.dmaState ch = 1 ∧ (s.dma ch).wait = none ∧ s.dmaWord ch (s.dmaPc ch) = some w ∧
      bits w 63 60 = 1 ∧ s.dmaMove ch = some (a, b, c) ∧ moveBad ch a b c = false ∧ s.dmaPc ch + 2 < 131072 ∧ bits a 55
      54 = 0 ∧ s.dmaDone ch < bits a 31 0 ∧ (s.dma ch).buf = [] ∧ 0 < n.toNat ∧ (s.dma ch).err = none ∧ State.dmaReach ch
      ((s.dmaSum ch true 0 b + s.dmaDone ch) % 2 ^ 48 / 64 * 64) 1 false = false) ∧
    (∃ (s : State) (ch : Fin 1056) (n : Word) (ecc : List (BitVec 32 × Ecc)), s.canonical = true ∧ s.down = false ∧
      ((s.dmaWord ch (s.dmaPc ch)).all (fun w => decide (s.dmaState ch ≠ 1 ∨ (s.dma ch).wait ≠ none ∨ bits w 63 60 ≠ 1))
      = true ∨ s.dmaThere ch = false)) ∧
    (∃ (s : State) (ch : Fin 1056) (n : Word) (ecc : List (BitVec 32 × Ecc)), s.canonical = true ∧ s.down = false) :=
  ⟨⟨running.fset (Reg.DMA_STATUS_STATE 1029) 1 |>.fset (Reg.DMA_PC_PC 1029) 8 |>.fset (Reg.DMA_PC_DEPTH 1029) 0 |>.onDma
      1029 (fun _ => { DmaSt.init with code := [(1, [0x1000000000000005, 0x80000000102, 0x80000000205])]  }) |>.fon
      (Reg.REG_LIMIT_H_EN (rsetBulk 0) 0) |>.fon (Reg.REG_LIMIT_H_R (rsetBulk 0) 0) |>.fon (Reg.REG_LIMIT_H_W (rsetBulk
      0) 0) |>.fon (Reg.REG_LIMIT_H_A (rsetBulk 0) 0) |>.fset (Reg.REG_BASE_H_BASE_H (rsetBulk 0) 0) 0 |>.fset
      (Reg.REG_BASE_L_BASE_L (rsetBulk 0) 0) 0 |>.fset (Reg.REG_LIMIT_H_LIMIT_H (rsetBulk 0) 0) 0xffff |>.fset
      (Reg.REG_LIMIT_L_LIMIT_L (rsetBulk 0) 0) 0xfffff |> fun (s : State) => kvUnits.foldl (fun (s : State) x => s.foff
      (Reg.ING_KV_CFG_EN x.1 x.2)) ({ s with bad := [], tiles := [] } : State) |>.foff Reg.INST_STATUS_COCOON |>.wr
      (Reg.DMA_DONE 1029) 0 |> fun (s : State) => ({ s with mem := s.mem.put 0x80000000103 9 } : State), 1029, 64, [],
      0x1000000000000005, 0x1000000000000005, 0x80000000102, 0x80000000205, (rsetBulk 0), 1, by decide +kernel⟩,
    ⟨running.fset (Reg.DMA_STATUS_STATE 1029) 1 |>.fset (Reg.DMA_PC_PC 1029) 8 |>.fset (Reg.DMA_PC_DEPTH 1029) 0 |>.onDma
      1029 (fun _ => { DmaSt.init with code := [(1, [0x1000000000000000, 5, 6])]  }), 1029, 64, [], 0x1000000000000000,
      by decide +kernel⟩,
    ⟨running.fset (Reg.DMA_STATUS_STATE 1029) 1 |>.fset (Reg.DMA_PC_PC 1029) 131070 |>.onDma 1029 (fun _ =>
      { DmaSt.init with code := [(16383, [0,0,0,0,0,0,0x1000000000000005,0])] }), 1029, 64, [], 0x1000000000000005,
      by decide +kernel⟩,
    ⟨running.fset (Reg.DMA_STATUS_STATE 1029) 1 |>.fset (Reg.DMA_PC_PC 1029) 8 |>.fset (Reg.DMA_PC_DEPTH 1029) 0 |>.onDma
      1029 (fun _ => { DmaSt.init with code := [(1, [0x1040000000001000, 0x12345, 0x80000000205])]  }) |>.wr
      (Reg.DMA_DONE 1029) 0 |>.onAon (fun x => { x with pcieUp := true, pcieBusMaster := true }), 1029, 64, [],
      0x1040000000001000, 0x1040000000001000, 0x12345, 0x80000000205, by decide +kernel⟩,
    ⟨running.fset (Reg.DMA_STATUS_STATE 1029) 1 |>.fset (Reg.DMA_PC_PC 1029) 8 |>.fset (Reg.DMA_PC_DEPTH 1029) 0 |>.onDma
      1029 (fun _ => { DmaSt.init with code := [(1, [0x1040000000001000, 0x12345, 0x80000000205])]  }) |>.wr
      (Reg.DMA_DONE 1029) 0 |>.onAon (fun x => { x with pcieUp := false }), 1029, 64, [], 0x1040000000001000,
      0x1040000000001000, 0x12345, 0x80000000205, by decide +kernel⟩,
    ⟨running.fset (Reg.DMA_STATUS_STATE 1029) 1 |>.fset (Reg.DMA_PC_PC 1029) 8 |>.fset (Reg.DMA_PC_DEPTH 1029) 0 |>.onDma
      1029 (fun _ => { DmaSt.init with code := [(1, [0x1000000000001000, 0x70000000000, 0x80000000205])]  }) |>.wr
      (Reg.DMA_DONE 1029) 0, 1029, 64, [], 0x1000000000001000, 0x1000000000001000, 0x70000000000, 0x80000000205,
      by decide +kernel⟩,
    ⟨running.fset (Reg.DMA_STATUS_STATE 1029) 1 |>.fset (Reg.DMA_PC_PC 1029) 8 |>.fset (Reg.DMA_PC_DEPTH 1029) 0 |>.onDma
      1029 (fun _ => { DmaSt.init with code := [(1, [0xC000000000000000])]  }), 1029, 64, [], by decide +kernel⟩,
    ⟨running.fset (Reg.DMA_STATUS_STATE 1029) 1 |>.fset (Reg.DMA_PC_PC 1029) 8 |>.fset (Reg.DMA_PC_DEPTH 1029) 0 |>.onDma
      1029 (fun _ => { DmaSt.init with code := [(1, [0x1000000000000005, 0x80000000102, 0x80000000205])]  }) |>.fon
      (Reg.REG_LIMIT_H_EN (rsetBulk 0) 0) |>.fon (Reg.REG_LIMIT_H_R (rsetBulk 0) 0) |>.fon (Reg.REG_LIMIT_H_W (rsetBulk
      0) 0) |>.fon (Reg.REG_LIMIT_H_A (rsetBulk 0) 0) |>.fset (Reg.REG_BASE_H_BASE_H (rsetBulk 0) 0) 0 |>.fset
      (Reg.REG_BASE_L_BASE_L (rsetBulk 0) 0) 0 |>.fset (Reg.REG_LIMIT_H_LIMIT_H (rsetBulk 0) 0) 0xffff |>.fset
      (Reg.REG_LIMIT_L_LIMIT_L (rsetBulk 0) 0) 0xfffff, 1029, 64, [], by decide +kernel⟩⟩

theorem test_loop_can_run :
    (∃ (s : State) (ch : Fin 1056) (w : Nat), s.canonical = true ∧ s.down = false ∧ s.dmaThere ch = true ∧ s.dmaState ch
      = 1 ∧ (s.dma ch).wait = none ∧ s.dmaWord ch (s.dmaPc ch) = some w ∧ bits w 63 60 = 2 ∧ s.dmaDepth ch < 4 ∧ s.dmaPc
      ch + 1 < 131072) ∧
    (∃ (s : State) (ch : Fin 1056) (w : Nat), s.canonical = true ∧ s.down = false ∧ s.dmaThere ch = true ∧ s.dmaState ch
      = 1 ∧ (s.dma ch).wait = none ∧ s.dmaWord ch (s.dmaPc ch) = some w ∧ bits w 63 60 = 2 ∧ 4 ≤ s.dmaDepth ch) ∧
    (∃ (s : State) (ch : Fin 1056), s.canonical = true ∧ s.down = false ∧ ((s.dmaWord ch (s.dmaPc ch)).all (fun w =>
      decide (s.dmaState ch ≠ 1 ∨ (s.dma ch).wait ≠ none ∨ bits w 63 60 ≠ 2)) = true ∨ s.dmaThere ch = false)) :=
  ⟨⟨running.fset (Reg.DMA_STATUS_STATE 1029) 1 |>.fset (Reg.DMA_PC_PC 1029) 8 |>.fset (Reg.DMA_PC_DEPTH 1029) 0 |>.onDma
      1029 (fun _ => { DmaSt.init with code := [(1, [0x20005000a0000003])]  }), 1029, 0x20005000a0000003,
      by decide +kernel⟩,
    ⟨running.fset (Reg.DMA_STATUS_STATE 1029) 1 |>.fset (Reg.DMA_PC_PC 1029) 8 |>.fset (Reg.DMA_PC_DEPTH 1029) 0 |>.onDma
      1029 (fun _ => { DmaSt.init with code := [(1, [0x20005000a0000003])]  }) |>.fset (Reg.DMA_PC_DEPTH 1029) 4, 1029,
      0x20005000a0000003, by decide +kernel⟩,
    ⟨running.fset (Reg.DMA_STATUS_STATE 1029) 1 |>.fset (Reg.DMA_PC_PC 1029) 8 |>.fset (Reg.DMA_PC_DEPTH 1029) 0 |>.onDma
      1029 (fun _ => { DmaSt.init with code := [(1, [0xC000000000000000])]  }), 1029, by decide +kernel⟩⟩

theorem test_endloop_can_run :
    (∃ (s : State) (ch : Fin 1056) (w : Nat), s.canonical = true ∧ s.down = false ∧ s.dmaThere ch = true ∧ s.dmaState ch
      = 1 ∧ (s.dma ch).wait = none ∧ s.dmaWord ch (s.dmaPc ch) = some w ∧ bits w 63 60 = 3 ∧ bits w 59 0 = 0 ∧ 0 <
      s.dmaDepth ch ∧ s.dmaDepth ch ≤ 4 ∧ s.dmaPc ch + 1 < 131072 ∧ (s.dmaI ch (s.dmaDepth ch - 1)) < (s.fget
      (Reg.DMA_LOOP_CNT_CNTM1 ch (s.dmaDepth ch - 1)))) ∧
    (∃ (s : State) (ch : Fin 1056) (w : Nat), s.canonical = true ∧ s.down = false ∧ s.dmaThere ch = true ∧ s.dmaState ch
      = 1 ∧ (s.dma ch).wait = none ∧ s.dmaWord ch (s.dmaPc ch) = some w ∧ bits w 63 60 = 3 ∧ bits w 59 0 = 0 ∧ 0 <
      s.dmaDepth ch ∧ s.dmaDepth ch ≤ 4 ∧ s.dmaPc ch + 1 < 131072 ∧ (s.fget (Reg.DMA_LOOP_CNT_CNTM1 ch (s.dmaDepth ch -
      1))) ≤ (s.dmaI ch (s.dmaDepth ch - 1))) ∧
    (∃ (s : State) (ch : Fin 1056) (w : Nat), s.canonical = true ∧ s.down = false ∧ s.dmaThere ch = true ∧ s.dmaState ch
      = 1 ∧ (s.dma ch).wait = none ∧ s.dmaWord ch (s.dmaPc ch) = some w ∧ bits w 63 60 = 3 ∧ bits w 59 0 ≠ 0) ∧
    (∃ (s : State) (ch : Fin 1056) (w : Nat), s.canonical = true ∧ s.down = false ∧ s.dmaThere ch = true ∧ s.dmaState ch
      = 1 ∧ (s.dma ch).wait = none ∧ s.dmaWord ch (s.dmaPc ch) = some w ∧ bits w 63 60 = 3 ∧ bits w 59 0 = 0 ∧ s.dmaDepth
      ch = 0) ∧
    (∃ (s : State) (ch : Fin 1056), s.canonical = true ∧ s.down = false ∧ ((s.dmaWord ch (s.dmaPc ch)).all (fun w =>
      decide (s.dmaState ch ≠ 1 ∨ (s.dma ch).wait ≠ none ∨ bits w 63 60 ≠ 3)) = true ∨ s.dmaThere ch = false)) :=
  ⟨⟨running.fset (Reg.DMA_STATUS_STATE 1029) 1 |>.fset (Reg.DMA_PC_PC 1029) 8 |>.fset (Reg.DMA_PC_DEPTH 1029) 0 |>.onDma
      1029 (fun _ => { DmaSt.init with code := [(1, [0x3000000000000000])]  }) |>.fset (Reg.DMA_PC_DEPTH 1029) 2 |>.fset
      (Reg.DMA_LOOP_CNT_CNTM1 1029 1) 5 |>.fset (Reg.DMA_LOOP_CNT_I 1029 1) 3, 1029, 0x3000000000000000,
      by decide +kernel⟩,
    ⟨running.fset (Reg.DMA_STATUS_STATE 1029) 1 |>.fset (Reg.DMA_PC_PC 1029) 8 |>.fset (Reg.DMA_PC_DEPTH 1029) 0 |>.onDma
      1029 (fun _ => { DmaSt.init with code := [(1, [0x3000000000000000])]  }) |>.fset (Reg.DMA_PC_DEPTH 1029) 2 |>.fset
      (Reg.DMA_LOOP_CNT_CNTM1 1029 1) 5 |>.fset (Reg.DMA_LOOP_CNT_I 1029 1) 3 |>.fset (Reg.DMA_LOOP_CNT_I 1029 1) 5,
      1029, 0x3000000000000000, by decide +kernel⟩,
    ⟨running.fset (Reg.DMA_STATUS_STATE 1029) 1 |>.fset (Reg.DMA_PC_PC 1029) 8 |>.fset (Reg.DMA_PC_DEPTH 1029) 0 |>.onDma
      1029 (fun _ => { DmaSt.init with code := [(1, [0x3000000000000001])]  }), 1029, 0x3000000000000001,
      by decide +kernel⟩,
    ⟨running.fset (Reg.DMA_STATUS_STATE 1029) 1 |>.fset (Reg.DMA_PC_PC 1029) 8 |>.fset (Reg.DMA_PC_DEPTH 1029) 0 |>.onDma
      1029 (fun _ => { DmaSt.init with code := [(1, [0x3000000000000000])]  }), 1029, 0x3000000000000000,
      by decide +kernel⟩,
    ⟨running.fset (Reg.DMA_STATUS_STATE 1029) 1 |>.fset (Reg.DMA_PC_PC 1029) 8 |>.fset (Reg.DMA_PC_DEPTH 1029) 0 |>.onDma
      1029 (fun _ => { DmaSt.init with code := [(1, [0xC000000000000000])]  }), 1029, by decide +kernel⟩⟩

theorem test_wait_can_run :
    (∃ (s : State) (ch : Fin 1056) (w : Nat), s.canonical = true ∧ s.down = false ∧ s.dmaThere ch = true ∧ s.dmaState ch
      = 1 ∧ (s.dma ch).wait = none ∧ s.dmaWord ch (s.dmaPc ch) = some w ∧ bits w 63 60 = 4 ∧ bits w 50 48 = 0 ∧
      s.replyFree (dmaCoord s.devid ch) = true) ∧
    (∃ (s : State) (ch : Fin 1056) (w : Nat), s.canonical = true ∧ s.down = false ∧ s.dmaThere ch = true ∧ s.dmaState ch
      = 1 ∧ (s.dma ch).wait = none ∧ s.dmaWord ch (s.dmaPc ch) = some w ∧ bits w 63 60 = 4 ∧ bits w 50 48 = 0 ∧
      s.replyFree (dmaCoord s.devid ch) = false ∧ (s.iface (dmaCoord s.devid ch)).wait = []) ∧
    (∃ (s : State) (ch : Fin 1056) (w : Nat), s.canonical = true ∧ s.down = false ∧ s.dmaThere ch = true ∧ s.dmaState ch
      = 1 ∧ (s.dma ch).wait = none ∧ s.dmaWord ch (s.dmaPc ch) = some w ∧ bits w 63 60 = 4 ∧ bits w 50 48 ≠ 0) ∧
    (∃ (s : State) (ch : Fin 1056), s.canonical = true ∧ s.down = false ∧ ((s.dmaWord ch (s.dmaPc ch)).all (fun w =>
      decide (s.dmaState ch ≠ 1 ∨ (s.dma ch).wait ≠ none ∨ bits w 63 60 ≠ 4)) = true ∨ s.dmaThere ch = false)) :=
  ⟨⟨running.fset (Reg.DMA_STATUS_STATE 1029) 1 |>.fset (Reg.DMA_PC_PC 1029) 8 |>.fset (Reg.DMA_PC_DEPTH 1029) 0 |>.onDma
      1029 (fun _ => { DmaSt.init with code := [(1, [0x4010000900000003])]  }) |>.fset (Reg.DMA_PC_DEPTH 1029) 2 |> fun s
      => { s with ifaces := [] }, 1029, 0x4010000900000003, by decide +kernel⟩,
    ⟨running.fset (Reg.DMA_STATUS_STATE 1029) 1 |>.fset (Reg.DMA_PC_PC 1029) 8 |>.fset (Reg.DMA_PC_DEPTH 1029) 0 |>.onDma
      1029 (fun _ => { DmaSt.init with code := [(1, [0x4010000900000003])]  }) |> fun s => s.onIface (dmaCoord s.devid
      1029) (fun _ => ⟨0, 64, []⟩), 1029, 0x4010000900000003, by decide +kernel⟩,
    ⟨running.fset (Reg.DMA_STATUS_STATE 1029) 1 |>.fset (Reg.DMA_PC_PC 1029) 8 |>.fset (Reg.DMA_PC_DEPTH 1029) 0 |>.onDma
      1029 (fun _ => { DmaSt.init with code := [(1, [0x4001000900000003])]  }), 1029, 0x4001000900000003,
      by decide +kernel⟩,
    ⟨running.fset (Reg.DMA_STATUS_STATE 1029) 1 |>.fset (Reg.DMA_PC_PC 1029) 8 |>.fset (Reg.DMA_PC_DEPTH 1029) 0 |>.onDma
      1029 (fun _ => { DmaSt.init with code := [(1, [0xC000000000000000])]  }), 1029, by decide +kernel⟩⟩

theorem test_dmaSignal_can_run :
    (∃ (s : State) (ch : Fin 1056) (w : Nat), s.canonical = true ∧ s.down = false ∧ s.dmaThere ch = true ∧ s.dmaState ch
      = 1 ∧ (s.dma ch).wait = none ∧ s.dmaWord ch (s.dmaPc ch) = some w ∧ bits w 63 60 = 5 ∧ bits w 54 48 = 0 ∧ (dmaTile
      ch = true → bit w 58 = false) ∧ s.dmaPc ch + 1 < 131072 ∧ (s.dma ch).lost.all (fun x => decide (x.kind ≠ 2 ∧ x.kind
      ≠ 4)) = true ∧ bits w 47 32 ≠ 0xFFFF ∧ (bit w 58 = false ∨ bits w 57 55 = s.devid) ∧ s.replyFree (dmaCoord s.devid
      ch) = true) ∧
    (∃ (s : State) (ch : Fin 1056) (w : Nat), s.canonical = true ∧ s.down = false ∧ s.dmaThere ch = true ∧ s.dmaState ch
      = 1 ∧ (s.dma ch).wait = none ∧ s.dmaWord ch (s.dmaPc ch) = some w ∧ bits w 63 60 = 5 ∧ bits w 54 48 = 0 ∧ (dmaTile
      ch = true → bit w 58 = false) ∧ s.dmaPc ch + 1 < 131072 ∧ (s.dma ch).lost.all (fun x => decide (x.kind ≠ 2 ∧ x.kind
      ≠ 4)) = true ∧ bits w 47 32 = 0xFFFF) ∧
    (∃ (s : State) (ch : Fin 1056) (w : Nat), s.canonical = true ∧ s.down = false ∧ s.dmaThere ch = true ∧ s.dmaState ch
      = 1 ∧ (s.dma ch).wait = none ∧ s.dmaWord ch (s.dmaPc ch) = some w ∧ bits w 63 60 = 5 ∧ bits w 54 48 = 0 ∧ (dmaTile
      ch = true → bit w 58 = false) ∧ ((s.dma ch).lost.any (fun x => decide (x.kind = 2 ∨ x.kind = 4)) = true)) ∧
    (∃ (s : State) (ch : Fin 1056) (w : Nat), s.canonical = true ∧ s.down = false ∧ s.dmaThere ch = true ∧ s.dmaState ch
      = 1 ∧ (s.dma ch).wait = none ∧ s.dmaWord ch (s.dmaPc ch) = some w ∧ bits w 63 60 = 5 ∧ (bits w 54 48 ≠ 0 ∨ dmaTile
      ch = true ∧ bit w 58 = true)) ∧
    (∃ (s : State) (ch : Fin 1056), s.canonical = true ∧ s.down = false ∧ ((s.dmaWord ch (s.dmaPc ch)).all (fun w =>
      decide (s.dmaState ch ≠ 1 ∨ (s.dma ch).wait ≠ none ∨ bits w 63 60 ≠ 5)) = true ∨ s.dmaThere ch = false)) :=
  ⟨⟨running.fset (Reg.DMA_STATUS_STATE 1029) 1 |>.fset (Reg.DMA_PC_PC 1029) 8 |>.fset (Reg.DMA_PC_DEPTH 1029) 0 |>.onDma
      1029 (fun _ => { DmaSt.init with code := [(1, [0x5800000900000003])]  }) |> fun s => { s with ifaces := [] }, 1029,
      0x5800000900000003, by decide +kernel⟩,
    ⟨running.fset (Reg.DMA_STATUS_STATE 1029) 1 |>.fset (Reg.DMA_PC_PC 1029) 8 |>.fset (Reg.DMA_PC_DEPTH 1029) 0 |>.onDma
      1029 (fun _ => { DmaSt.init with code := [(1, [0x5800FFFF00000003])]  }), 1029, 0x5800FFFF00000003,
      by decide +kernel⟩,
    ⟨running.fset (Reg.DMA_STATUS_STATE 1029) 1 |>.fset (Reg.DMA_PC_PC 1029) 8 |>.fset (Reg.DMA_PC_DEPTH 1029) 0 |>.onDma
      1029 (fun _ =>
      { DmaSt.init with code := [(1, [0x5800000900000003])] , lost := [⟨2, 0x80000000102, 4, 2, 0, [], 0⟩] }), 1029,
      0x5800000900000003, by decide +kernel⟩,
    ⟨running.fset (Reg.DMA_STATUS_STATE 1029) 1 |>.fset (Reg.DMA_PC_PC 1029) 8 |>.fset (Reg.DMA_PC_DEPTH 1029) 0 |>.onDma
      1029 (fun _ => { DmaSt.init with code := [(1, [0x5001000900000003])]  }), 1029, 0x5001000900000003,
      by decide +kernel⟩,
    ⟨running.fset (Reg.DMA_STATUS_STATE 1029) 1 |>.fset (Reg.DMA_PC_PC 1029) 8 |>.fset (Reg.DMA_PC_DEPTH 1029) 0 |>.onDma
      1029 (fun _ => { DmaSt.init with code := [(1, [0xC000000000000000])]  }), 1029, by decide +kernel⟩⟩

theorem test_dmaBadOp_can_run :
    (∃ (s : State) (ch : Fin 1056) (w : Nat), s.canonical = true ∧ s.down = false ∧ s.dmaThere ch = true ∧ s.dmaState ch
      = 1 ∧ (s.dma ch).wait = none ∧ s.dmaWord ch (s.dmaPc ch) = some w ∧ (bits w 63 60 = 0 ∨ (6 ≤ bits w 63 60 ∧ bits w
      63 60 ≠ 15))) ∧
    (∃ (s : State) (ch : Fin 1056), s.canonical = true ∧ s.down = false ∧ ((s.dmaWord ch (s.dmaPc ch)).all (fun w =>
      decide (s.dmaState ch ≠ 1 ∨ (s.dma ch).wait ≠ none ∨ (bits w 63 60 ≠ 0 ∧ (bits w 63 60 < 6 ∨ bits w 63 60 = 15))))
      = true ∨ s.dmaThere ch = false)) :=
  ⟨⟨running.fset (Reg.DMA_STATUS_STATE 1029) 1 |>.fset (Reg.DMA_PC_PC 1029) 8 |>.fset (Reg.DMA_PC_DEPTH 1029) 0 |>.onDma
      1029 (fun _ => { DmaSt.init with code := [(1, [0x7000000000000000])]  }), 1029, 0x7000000000000000,
      by decide +kernel⟩,
    ⟨running.fset (Reg.DMA_STATUS_STATE 1029) 1 |>.fset (Reg.DMA_PC_PC 1029) 8 |>.fset (Reg.DMA_PC_DEPTH 1029) 0 |>.onDma
      1029 (fun _ => { DmaSt.init with code := [(1, [0x2000000000000000])]  }), 1029, by decide +kernel⟩⟩

theorem test_dmaEnd_can_run :
    (∃ (s : State) (ch : Fin 1056) (w : Nat), s.canonical = true ∧ s.down = false ∧ s.dmaThere ch = true ∧ s.dmaState ch
      = 1 ∧ (s.dma ch).wait = none ∧ s.dmaWord ch (s.dmaPc ch) = some w ∧ bits w 63 60 = 15 ∧ bits w 58 16 = 0 ∧ dmaTile
      ch = false ∧ bit w 59 = true ∧ s.fbit (dmaIe ch) = true ∧ s.fbit (Reg.DMA_STATUS_IRQ ch) = false) ∧
    (∃ (s : State) (ch : Fin 1056) (w : Nat), s.canonical = true ∧ s.down = false ∧ s.dmaThere ch = true ∧ s.dmaState ch
      = 1 ∧ (s.dma ch).wait = none ∧ s.dmaWord ch (s.dmaPc ch) = some w ∧ bits w 63 60 = 15 ∧ bits w 58 16 = 0 ∧ bit w 59
      = false) ∧
    (∃ (s : State) (ch : Fin 1056) (w : Nat), s.canonical = true ∧ s.down = false ∧ s.dmaThere ch = true ∧ s.dmaState ch
      = 1 ∧ (s.dma ch).wait = none ∧ s.dmaWord ch (s.dmaPc ch) = some w ∧ bits w 63 60 = 15 ∧ bits w 58 16 ≠ 0) ∧
    (∃ (s : State) (ch : Fin 1056), s.canonical = true ∧ s.down = false ∧ ((s.dmaWord ch (s.dmaPc ch)).all (fun w =>
      decide (s.dmaState ch ≠ 1 ∨ (s.dma ch).wait ≠ none ∨ bits w 63 60 ≠ 15)) = true ∨ s.dmaThere ch = false)) :=
  ⟨⟨running.fset (Reg.DMA_STATUS_STATE 1029) 1 |>.fset (Reg.DMA_PC_PC 1029) 8 |>.fset (Reg.DMA_PC_DEPTH 1029) 0 |>.onDma
      1029 (fun _ => { DmaSt.init with code := [(1, [0xF800000000001234])]  }) |>.foff (Reg.DMA_STATUS_IRQ 1029) |>.fon
      (dmaIe 1029), 1029, 0xF800000000001234, by decide +kernel⟩,
    ⟨running.fset (Reg.DMA_STATUS_STATE 1029) 1 |>.fset (Reg.DMA_PC_PC 1029) 8 |>.fset (Reg.DMA_PC_DEPTH 1029) 0 |>.onDma
      1029 (fun _ => { DmaSt.init with code := [(1, [0xF000000000001234])]  }), 1029, 0xF000000000001234,
      by decide +kernel⟩,
    ⟨running.fset (Reg.DMA_STATUS_STATE 1029) 1 |>.fset (Reg.DMA_PC_PC 1029) 8 |>.fset (Reg.DMA_PC_DEPTH 1029) 0 |>.onDma
      1029 (fun _ => { DmaSt.init with code := [(1, [0xF800000000011234])]  }), 1029, 0xF800000000011234,
      by decide +kernel⟩,
    ⟨running.fset (Reg.DMA_STATUS_STATE 1029) 1 |>.fset (Reg.DMA_PC_PC 1029) 8 |>.fset (Reg.DMA_PC_DEPTH 1029) 0 |>.onDma
      1029 (fun _ => { DmaSt.init with code := [(1, [0xC000000000000000])]  }), 1029, by decide +kernel⟩⟩

theorem test_dmaNotice_can_run :
    (∃ (s : State) (ch : Fin 1056) (obj : BitVec 16) (thr : Word) (eq : Bool) (kind : Fin 3), s.canonical = true ∧ s.down
      = false ∧ s.dmaThere ch = true ∧ (s.dma ch).watch = some (obj.toNat, thr.toNat, eq) ∧ (s.dma ch).again = none ∧
      s.dmaPc ch + 1 < 131072 ∧ (kind = 1 → (s.dma ch).wait = none) ∧ kind = 0 ∧ (s.iface (dmaCoord s.devid ch)).wait =
      [] ∧ kind ≠ 1) ∧
    (∃ (s : State) (ch : Fin 1056) (obj : BitVec 16) (thr : Word) (eq : Bool) (kind : Fin 3), s.canonical = true ∧ s.down
      = false ∧ s.dmaThere ch = true ∧ (s.dma ch).watch = some (obj.toNat, thr.toNat, eq) ∧ (s.dma ch).again = none ∧
      s.dmaPc ch + 1 < 131072 ∧ (kind = 1 → (s.dma ch).wait = none) ∧ kind = 1) ∧
    (∃ (s : State) (ch : Fin 1056) (obj : BitVec 16) (thr : Word) (eq : Bool) (kind : Fin 3), s.canonical = true ∧ s.down
      = false ∧ s.dmaThere ch = true ∧ (s.dma ch).watch = some (obj.toNat, thr.toNat, eq) ∧ (s.dma ch).again = none ∧
      s.dmaPc ch + 1 < 131072 ∧ (kind = 1 → (s.dma ch).wait = none) ∧ kind = 2 ∧ s.dmaState ch ≠ 4) ∧
    (∃ (s : State) (ch : Fin 1056) (obj : BitVec 16) (thr : Word) (eq : Bool) (kind : Fin 3), s.canonical = true ∧ s.down
      = false ∧ s.dmaThere ch = true ∧ (s.dma ch).watch = some (obj.toNat, thr.toNat, eq) ∧ (s.dma ch).again = none ∧
      s.dmaPc ch + 1 < 131072 ∧ (kind = 1 → (s.dma ch).wait = none) ∧ kind = 2 ∧ s.dmaState ch = 4) ∧
    (∃ (s : State) (ch : Fin 1056) (obj : BitVec 16) (thr : Word) (eq : Bool) (kind : Fin 3), s.canonical = true ∧ s.down
      = false ∧ s.dmaThere ch = true ∧ ((s.dma ch).watch ≠ some (obj.toNat, thr.toNat, eq) ∨ (s.dma ch).again ≠ none)) ∧
    (∃ (s : State) (ch : Fin 1056) (obj : BitVec 16) (thr : Word) (eq : Bool) (kind : Fin 3), s.canonical = true ∧ s.down
      = false ∧ s.dmaThere ch = false) :=
  ⟨⟨running.fset (Reg.DMA_STATUS_STATE 1029) 2 |>.fset (Reg.DMA_PC_PC 1029) 8 |>.fset (Reg.DMA_PC_DEPTH 1029) 0 |>.onDma
      1029 (fun _ => { DmaSt.init with code := [(1, [0])] , watch := some (9, 3, false) }) |> fun s =>
      { s with ifaces := [] }, 1029, 9, 3, false, 0, by decide +kernel⟩,
    ⟨running.fset (Reg.DMA_STATUS_STATE 1029) 2 |>.fset (Reg.DMA_PC_PC 1029) 8 |>.fset (Reg.DMA_PC_DEPTH 1029) 0 |>.onDma
      1029 (fun _ => { DmaSt.init with code := [(1, [0])] , watch := some (9, 3, false) }) |> fun s =>
      { s with ifaces := [] }, 1029, 9, 3, false, 1, by decide +kernel⟩,
    ⟨running.fset (Reg.DMA_STATUS_STATE 1029) 2 |>.fset (Reg.DMA_PC_PC 1029) 8 |>.fset (Reg.DMA_PC_DEPTH 1029) 0 |>.onDma
      1029 (fun _ => { DmaSt.init with code := [(1, [0])] , watch := some (9, 3, false) }) |> fun s =>
      { s with ifaces := [] }, 1029, 9, 3, false, 2, by decide +kernel⟩,
    ⟨running.fset (Reg.DMA_STATUS_STATE 1029) 4 |>.fset (Reg.DMA_PC_PC 1029) 8 |>.fset (Reg.DMA_PC_DEPTH 1029) 0 |>.onDma
      1029 (fun _ => { DmaSt.init with code := [(1, [0])] , watch := some (9, 3, false) }) |> fun s =>
      { s with ifaces := [] }, 1029, 9, 3, false, 2, by decide +kernel⟩,
    ⟨running.fset (Reg.DMA_STATUS_STATE 1029) 2 |>.fset (Reg.DMA_PC_PC 1029) 8 |>.fset (Reg.DMA_PC_DEPTH 1029) 0 |>.onDma
      1029 (fun _ => { DmaSt.init with code := [(1, [0])]  }), 1029, 9, 3, false, 0, by decide +kernel⟩,
    ⟨running, 5, 9, 3, false, 0, by decide +kernel⟩⟩

theorem test_dmaWatchResend_can_run :
    (∃ (s : State) (ch : Fin 1056) (e obj v : Nat) (eq : Bool), s.canonical = true ∧ s.down = false ∧ s.dmaThere ch =
      true ∧ (s.dma ch).again = some e ∧ e ≤ s.time ∧ (s.dma ch).watch = some (obj, v, eq) ∧ s.replyFree (dmaCoord
      s.devid ch) = true) ∧
    (∃ (s : State) (ch : Fin 1056), s.canonical = true ∧ s.down = false ∧ ((s.dma ch).again.all (fun e => decide (s.time
      < e)) = true ∨ s.dmaThere ch = false)) :=
  ⟨⟨running.fset (Reg.DMA_STATUS_STATE 1029) 2 |>.fset (Reg.DMA_PC_PC 1029) 8 |>.fset (Reg.DMA_PC_DEPTH 1029) 0 |>.onDma
      1029 (fun _ => { DmaSt.init with code := [(1, [0])] , watch := some (9, 3, false), again := some 0 }) |> fun s =>
      { s with ifaces := [] }, 1029, 0, 9, 3, false, by decide +kernel⟩,
    ⟨running.fset (Reg.DMA_STATUS_STATE 1029) 1 |>.fset (Reg.DMA_PC_PC 1029) 8 |>.fset (Reg.DMA_PC_DEPTH 1029) 0 |>.onDma
      1029 (fun _ => { DmaSt.init with code := [(1, [0])]  }), 1029, by decide +kernel⟩⟩

theorem test_hostCompletion_can_run :
    (∃ (s : State) (ch : Fin 1056) (ok : Bool) (data : List Byte) (w : DmaWait), s.canonical = true ∧ s.down = false ∧
      s.dmaThere ch = true ∧ (s.dma ch).lost.all (fun w => decide (w.kind < 3)) = true ∧ (s.dma ch).wait = some w ∧
      (w.kind = 3 ∨ w.kind = 4) ∧ (s.dma ch).err = none ∧ ok = false) ∧
    (∃ (s : State) (ch : Fin 1056) (ok : Bool) (data : List Byte) (w : DmaWait) (a b c : Nat), s.canonical = true ∧
      s.down = false ∧ s.dmaThere ch = true ∧ (s.dma ch).lost.all (fun w => decide (w.kind < 3)) = true ∧ (s.dma ch).wait
      = some w ∧ w.kind = 4 ∧ ok = true ∧ (s.dma ch).err = none ∧ (s.dma ch).buf = [] ∧ s.dmaMove ch = some (a, b, c) ∧
      bits a 55 52 = 1 ∧ s.dmaDone ch + w.n < bits a 31 0) ∧
    (∃ (s : State) (ch : Fin 1056) (ok : Bool) (data : List Byte) (w : DmaWait) (a b c : Nat), s.canonical = true ∧
      s.down = false ∧ s.dmaThere ch = true ∧ (s.dma ch).lost.all (fun w => decide (w.kind < 3)) = true ∧ (s.dma ch).wait
      = some w ∧ w.kind = 3 ∧ ok = true ∧ (s.dma ch).err = none ∧ s.dmaMove ch = some (a, b, c) ∧ bits a 55 52 = 5 ∧
      data.length = w.skip + w.n ∧ 0 < w.n ∧ w.n ≤ s.aon.pcieMps ∧ s.hostReady = true) ∧
    (∃ (s : State) (ch : Fin 1056) (ok : Bool) (data : List Byte) (w : DmaWait) (a b c set i : Nat), s.canonical = true ∧
      s.down = false ∧ s.dmaThere ch = true ∧ (s.dma ch).lost.all (fun w => decide (w.kind < 3)) = true ∧ (s.dma ch).wait
      = some w ∧ w.kind = 3 ∧ ok = true ∧ (s.dma ch).err = none ∧ s.dmaMove ch = some (a, b, c) ∧ bits a 55 52 = 4 ∧
      data.length = w.skip + w.n ∧ 0 < w.n ∧ s.dmaDone ch + w.n < bits a 31 0 ∧ (s.dmaSum ch false 0 c + s.dmaDone ch) %
      64 + w.n ≤ 64 ∧ 0x80000000000 ≤ (s.dmaSum ch false 0 c + s.dmaDone ch) ∧ (s.dmaSum ch false 0 c + s.dmaDone ch) <
      0x80030000000 ∧ (Who.dma ch).set = some set ∧ s.setAllows set 1 ((s.dmaSum ch false 0 c + s.dmaDone ch) / 4096 *
      4096) 1 = true ∧ s.served (s.dmaSum ch false 0 c + s.dmaDone ch) = 0 ∧ s.bad = [] ∧ i < w.n ∧ (kvUnits.any fun x =>
      s.fbit (Reg.ING_KV_CFG_EN x.1 x.2)) = false) ∧
    (∃ (s : State) (ch : Fin 1056) (ok : Bool) (data : List Byte) (w : DmaWait), s.canonical = true ∧ s.down = false ∧
      s.dmaThere ch = true ∧ (s.dma ch).lost.find? (fun w => decide (3 ≤ w.kind)) = some w) ∧
    (∃ (s : State) (ch : Fin 1056) (ok : Bool) (data : List Byte), s.canonical = true ∧ s.down = false ∧ ((s.dma
      ch).lost.all (fun w => decide (w.kind < 3)) = true ∧ (s.dma ch).wait.all (fun w => decide (w.kind ≠ 3 ∧ w.kind ≠
      4)) = true ∨ s.dmaThere ch = false)) :=
  ⟨⟨running.fset (Reg.DMA_STATUS_STATE 1029) 1 |>.fset (Reg.DMA_PC_PC 1029) 8 |>.fset (Reg.DMA_PC_DEPTH 1029) 0 |>.onDma
      1029 (fun _ =>
      { DmaSt.init with code := [(1, [0x1010000000001000, 0x80000000102, 0x80000000205])] , wait := some ⟨4, 0x80000000102, 4, 0, 0, [], 0⟩ })
      |>.wr (Reg.DMA_DONE 1029) 0 |>.onAon (fun x => { x with pcieUp := true, pcieBusMaster := true }), 1029, false, [],
      ⟨4, 0x80000000102, 4, 0, 0, [], 0⟩, by decide +kernel⟩,
    ⟨running.fset (Reg.DMA_STATUS_STATE 1029) 1 |>.fset (Reg.DMA_PC_PC 1029) 8 |>.fset (Reg.DMA_PC_DEPTH 1029) 0 |>.onDma
      1029 (fun _ =>
      { DmaSt.init with code := [(1, [0x1010000000001000, 0x80000000102, 0x80000000205])] , wait := some ⟨4, 0x80000000102, 4, 0, 0, [], 0⟩ })
      |>.wr (Reg.DMA_DONE 1029) 0 |>.onAon (fun x => { x with pcieUp := true, pcieBusMaster := true }), 1029, true, [],
      ⟨4, 0x80000000102, 4, 0, 0, [], 0⟩, 0x1010000000001000, 0x80000000102, 0x80000000205, by decide +kernel⟩,
    ⟨running.fset (Reg.DMA_STATUS_STATE 1029) 1 |>.fset (Reg.DMA_PC_PC 1029) 8 |>.fset (Reg.DMA_PC_DEPTH 1029) 0 |>.onDma
      1029 (fun _ =>
      { DmaSt.init with code := [(1, [0x1050000000001000, 0x80000000102, 0x80000000205])] , wait := some ⟨3, 0x80000000102, 4, 2, 0, [], 0⟩ })
      |>.wr (Reg.DMA_DONE 1029) 0 |>.onAon (fun x => { x with pcieUp := true, pcieBusMaster := true }), 1029, true,
      [1,2,3,4,5,6], ⟨3, 0x80000000102, 4, 2, 0, [], 0⟩, 0x1050000000001000, 0x80000000102, 0x80000000205,
      by decide +kernel⟩,
    ⟨running.fset (Reg.DMA_STATUS_STATE 1029) 1 |>.fset (Reg.DMA_PC_PC 1029) 8 |>.fset (Reg.DMA_PC_DEPTH 1029) 0 |>.onDma
      1029 (fun _ =>
      { DmaSt.init with code := [(1, [0x1040000000001000, 0x80000000102, 0x80000000205])] , wait := some ⟨3, 0x80000000102, 4, 2, 0, [], 0⟩ })
      |>.wr (Reg.DMA_DONE 1029) 0 |>.onAon (fun x => { x with pcieUp := true, pcieBusMaster := true }) |>.fon
      (Reg.REG_LIMIT_H_EN (rsetBulk 0) 0) |>.fon (Reg.REG_LIMIT_H_R (rsetBulk 0) 0) |>.fon (Reg.REG_LIMIT_H_W (rsetBulk
      0) 0) |>.fon (Reg.REG_LIMIT_H_A (rsetBulk 0) 0) |>.fset (Reg.REG_BASE_H_BASE_H (rsetBulk 0) 0) 0 |>.fset
      (Reg.REG_BASE_L_BASE_L (rsetBulk 0) 0) 0 |>.fset (Reg.REG_LIMIT_H_LIMIT_H (rsetBulk 0) 0) 0xffff |>.fset
      (Reg.REG_LIMIT_L_LIMIT_L (rsetBulk 0) 0) 0xfffff |> fun (s : State) => kvUnits.foldl (fun (s : State) x => s.foff
      (Reg.ING_KV_CFG_EN x.1 x.2)) ({ s with bad := [], tiles := [] } : State) |>.foff Reg.INST_STATUS_COCOON, 1029,
      true, [1,2,3,4,5,6], ⟨3, 0x80000000102, 4, 2, 0, [], 0⟩, 0x1040000000001000, 0x80000000102, 0x80000000205,
      (rsetBulk 0), 1, by decide +kernel⟩,
    ⟨running.fset (Reg.DMA_STATUS_STATE 1029) 1 |>.fset (Reg.DMA_PC_PC 1029) 8 |>.fset (Reg.DMA_PC_DEPTH 1029) 0 |>.onDma
      1029 (fun _ => { DmaSt.init with code := [(1, [0])] , lost := [⟨3, 0x80000000102, 4, 2, 0, [], 0⟩] }), 1029, true,
      [1,2], ⟨3, 0x80000000102, 4, 2, 0, [], 0⟩, by decide +kernel⟩,
    ⟨running.fset (Reg.DMA_STATUS_STATE 1029) 1 |>.fset (Reg.DMA_PC_PC 1029) 8 |>.fset (Reg.DMA_PC_DEPTH 1029) 0 |>.onDma
      1029 (fun _ => { DmaSt.init with code := [(1, [0])]  }), 1029, true, [1,2], by decide +kernel⟩⟩

theorem test_dmaReplyTimeout_can_run :
    (∃ (s : State) (ch : Fin 1056) (w : DmaWait), s.canonical = true ∧ s.down = false ∧ s.dmaThere ch = true ∧ (s.dma
      ch).wait = some w ∧ w.sentAt + 1000000 ≤ s.time ∧ (s.dma ch).err = none) ∧
    (∃ (s : State) (ch : Fin 1056) (obj e : Nat) (rest : List (Nat × Nat)), s.canonical = true ∧ s.down = false ∧
      s.dmaThere ch = true ∧ (s.dma ch).wait = none ∧ (s.dma ch).sigs = (obj, e) :: rest ∧ e + 1000000 ≤ s.time) ∧
    (∃ (s : State) (ch : Fin 1056), s.canonical = true ∧ s.down = false ∧ s.dmaThere ch = true ∧ (s.dma ch).wait.all (fun
      w => decide (s.time < w.sentAt + 1000000)) = true ∧ ((s.dma ch).wait ≠ none ∨ ((s.dma ch).sigs.head?).all (fun x =>
      decide (s.time < x.2 + 1000000)) = true)) :=
  ⟨⟨running.fset (Reg.DMA_STATUS_STATE 1029) 1 |>.fset (Reg.DMA_PC_PC 1029) 8 |>.fset (Reg.DMA_PC_DEPTH 1029) 0 |>.onDma
      1029 (fun _ => { DmaSt.init with code := [(1, [0])] , wait := some ⟨1, 0x123, 4, 0, 0, [], 0⟩ }) |> fun s =>
      { s with time := 1000007 }, 1029, ⟨1, 0x123, 4, 0, 0, [], 0⟩, by decide +kernel⟩,
    ⟨running.fset (Reg.DMA_STATUS_STATE 1029) 1 |>.fset (Reg.DMA_PC_PC 1029) 8 |>.fset (Reg.DMA_PC_DEPTH 1029) 0 |>.onDma
      1029 (fun _ => { DmaSt.init with code := [(1, [0])] , sigs := [(7, 0)] }) |> fun s => { s with time := 1000007 },
      1029, 7, 0, [], by decide +kernel⟩,
    ⟨running.fset (Reg.DMA_STATUS_STATE 1029) 1 |>.fset (Reg.DMA_PC_PC 1029) 8 |>.fset (Reg.DMA_PC_DEPTH 1029) 0 |>.onDma
      1029 (fun _ => { DmaSt.init with code := [(1, [0])]  }), 1029, by decide +kernel⟩⟩

theorem test_ddrEnable_can_run :
    (∃ (s : State) (m : Master) (c : Fin 8), s.canonical = true ∧ s.admits m (Reg.DDR_CTL c) = true ∧ s.fbit
      (Reg.DDR_CTL_EN c) = false ∧ s.islOff (74 + c) = false ∧ s.ddrCode c = 0) ∧
    (∃ (s : State) (m : Master) (c : Fin 8), s.canonical = true ∧ s.admits m (Reg.DDR_CTL c) = true ∧ (s.fbit
      (Reg.DDR_CTL_EN c) = true ∨ s.islOff (74 + c) = true)) :=
  ⟨⟨running.foff (Reg.DDR_CTL_EN 3) |>.fset (Reg.DDR_CFG_CAP 3) 5 |>.fset (Reg.DDR_CFG_CAP 0) 5 |>.fset
      (Reg.DDR_CFG_SPEED 3) 0 |>.fset (Reg.DDR_CFG_DIMM 3) 0 |>.fset (Reg.DDR_CFG_ECC 3) 0, .aon, 3, by decide +kernel⟩,
    ⟨running.fon (Reg.DDR_CTL_EN 3), .aon, 3, by decide +kernel⟩⟩

theorem test_ddrTrainingEnd_can_run :
    (∃ (s : State) (c : Fin 8) (ok : Bool) (celsius : BitVec 8), s.canonical = true ∧ s.down = false ∧ s.fbit
      (Reg.DDR_CTL_EN c) = true ∧ s.fbit (Reg.DDR_STATUS_TRAINED c) = false ∧ s.fbit (Reg.DDR_STATUS_FAILED c) = false ∧
      ok = true) ∧
    (∃ (s : State) (c : Fin 8) (ok : Bool) (celsius : BitVec 8), s.canonical = true ∧ s.down = false ∧ s.fbit
      (Reg.DDR_CTL_EN c) = true ∧ s.fbit (Reg.DDR_STATUS_TRAINED c) = false ∧ s.fbit (Reg.DDR_STATUS_FAILED c) = false ∧
      ok = false) ∧
    (∃ (s : State) (c : Fin 8) (ok : Bool) (celsius : BitVec 8), s.canonical = true ∧ s.down = false ∧ (s.fbit
      (Reg.DDR_CTL_EN c) = false ∨ s.fbit (Reg.DDR_STATUS_TRAINED c) = true ∨ s.fbit (Reg.DDR_STATUS_FAILED c) = true)) :=
  ⟨⟨running.fon (Reg.DDR_CTL_EN 3) |>.fon (Reg.DDR_STATUS_TRAINED 3) |>.foff (Reg.DDR_STATUS_FAILED 3) |>.foff
      (Reg.DDR_STATUS_RETRAINING 3) |>.foff (Reg.DDR_STATUS_WAITING 3) |>.foff (Reg.DDR_STATUS_TRAINED 3), 3, true, 40,
      by decide +kernel⟩,
    ⟨running.fon (Reg.DDR_CTL_EN 3) |>.fon (Reg.DDR_STATUS_TRAINED 3) |>.foff (Reg.DDR_STATUS_FAILED 3) |>.foff
      (Reg.DDR_STATUS_RETRAINING 3) |>.foff (Reg.DDR_STATUS_WAITING 3) |>.foff (Reg.DDR_STATUS_TRAINED 3), 3, false, 40,
      by decide +kernel⟩,
    ⟨running.fon (Reg.DDR_CTL_EN 3) |>.fon (Reg.DDR_STATUS_TRAINED 3) |>.foff (Reg.DDR_STATUS_FAILED 3) |>.foff
      (Reg.DDR_STATUS_RETRAINING 3) |>.foff (Reg.DDR_STATUS_WAITING 3), 3, true, 40, by decide +kernel⟩⟩

theorem test_ddrRetrainRequest_can_run :
    (∃ (s : State) (m : Master) (c : Fin 8), s.canonical = true ∧ s.admits m (Reg.DDR_CTL c) = true ∧ s.ddrServes c =
      true ∧ s.fbit (Reg.DDR_STATUS_RETRAINING c) = false ∧ s.fbit (Reg.DDR_STATUS_WAITING c) = false) ∧
    (∃ (s : State) (m : Master) (c : Fin 8), s.canonical = true ∧ s.admits m (Reg.DDR_CTL c) = true ∧ (s.fbit
      (Reg.DDR_STATUS_RETRAINING c) = true ∨ s.fbit (Reg.DDR_STATUS_WAITING c) = true)) ∧
    (∃ (s : State) (m : Master) (c : Fin 8), s.canonical = true ∧ s.admits m (Reg.DDR_CTL c) = true ∧ s.ddrServes c =
      false ∧ s.fbit (Reg.DDR_STATUS_RETRAINING c) = false ∧ s.fbit (Reg.DDR_STATUS_WAITING c) = false) :=
  ⟨⟨running.fon (Reg.DDR_CTL_EN 3) |>.fon (Reg.DDR_STATUS_TRAINED 3) |>.foff (Reg.DDR_STATUS_FAILED 3) |>.foff
      (Reg.DDR_STATUS_RETRAINING 3) |>.foff (Reg.DDR_STATUS_WAITING 3), .aon, 3, by decide +kernel⟩,
    ⟨running.fon (Reg.DDR_CTL_EN 3) |>.fon (Reg.DDR_STATUS_TRAINED 3) |>.foff (Reg.DDR_STATUS_FAILED 3) |>.foff
      (Reg.DDR_STATUS_RETRAINING 3) |>.foff (Reg.DDR_STATUS_WAITING 3)|>.fon (Reg.DDR_STATUS_WAITING 3), .aon, 3,
      by decide +kernel⟩,
    ⟨running.fon (Reg.DDR_CTL_EN 3) |>.fon (Reg.DDR_STATUS_TRAINED 3) |>.foff (Reg.DDR_STATUS_FAILED 3) |>.foff
      (Reg.DDR_STATUS_RETRAINING 3) |>.foff (Reg.DDR_STATUS_WAITING 3) |>.foff (Reg.DDR_STATUS_TRAINED 3), .aon, 3,
      by decide +kernel⟩⟩

theorem test_ddrRetrainPeriod_can_run :
    (∃ (s : State) (c : Fin 8), s.canonical = true ∧ s.down = false ∧ s.ddrMayAsk c = true ∧ s.fget
      (Reg.DDR_RETRAIN_CFG_PERIOD c) ≠ 0 ∧ (s.ddr c).tick + s.fget (Reg.DDR_RETRAIN_CFG_PERIOD c) ≤ s.aon.slowTicks) ∧
    (∃ (s : State) (c : Fin 8), s.canonical = true ∧ s.down = false ∧ s.ddrMayAsk c = true ∧ s.fget
      (Reg.DDR_RETRAIN_CFG_PERIOD c) ≠ 0 ∧ (s.ddr c).tick + s.fget (Reg.DDR_RETRAIN_CFG_PERIOD c) ≤ s.aon.slowTicks ∧
      s.islState (74 + c) = 2) ∧
    (∃ (s : State) (c : Fin 8), s.canonical = true ∧ s.down = false ∧ (s.ddrMayAsk c = false ∨ s.fget
      (Reg.DDR_RETRAIN_CFG_PERIOD c) = 0 ∨ s.aon.slowTicks < (s.ddr c).tick + s.fget (Reg.DDR_RETRAIN_CFG_PERIOD c))) :=
  ⟨⟨running.fon (Reg.DDR_CTL_EN 3) |>.fon (Reg.DDR_STATUS_TRAINED 3) |>.foff (Reg.DDR_STATUS_FAILED 3) |>.foff
      (Reg.DDR_STATUS_RETRAINING 3) |>.foff (Reg.DDR_STATUS_WAITING 3) |>.fset (Reg.DDR_RETRAIN_CFG_PERIOD 3) 2 |>.onAon
      fun a => { a with slowTicks := 5 }, 3, by decide +kernel⟩,
    ⟨running.fset (Reg.PWR_ISL_STAT_STATE 77) 2 |>.fon (Reg.DDR_CTL_EN 3) |>.fon (Reg.DDR_STATUS_TRAINED 3) |>.foff
      (Reg.DDR_STATUS_FAILED 3) |>.foff (Reg.DDR_STATUS_RETRAINING 3) |>.foff (Reg.DDR_STATUS_WAITING 3) |>.fset
      (Reg.DDR_RETRAIN_CFG_PERIOD 3) 2 |>.onAon fun a => { a with slowTicks := 5 }, 3, by decide +kernel⟩,
    ⟨running.fon (Reg.DDR_CTL_EN 3) |>.fon (Reg.DDR_STATUS_TRAINED 3) |>.foff (Reg.DDR_STATUS_FAILED 3) |>.foff
      (Reg.DDR_STATUS_RETRAINING 3) |>.foff (Reg.DDR_STATUS_WAITING 3) |>.fset (Reg.DDR_RETRAIN_CFG_PERIOD 3) 0, 3,
      by decide +kernel⟩⟩

theorem test_ddrRetrainTemp_can_run :
    (∃ (s : State) (c : Fin 8) (celsius : BitVec 8), s.canonical = true ∧ s.down = false ∧ s.ddrMayAsk c = true ∧ s.fget
      (Reg.DDR_RETRAIN_CFG_TEMP_DELTA c) ≠ 0 ∧ s.fget (Reg.DDR_RETRAIN_CFG_TEMP_DELTA c) ≤ (celsius.toInt - (s.ddr
      c).temp).natAbs) ∧
    (∃ (s : State) (c : Fin 8) (celsius : BitVec 8), s.canonical = true ∧ s.down = false ∧ s.ddrMayAsk c = true ∧ s.fget
      (Reg.DDR_RETRAIN_CFG_TEMP_DELTA c) ≠ 0 ∧ s.fget (Reg.DDR_RETRAIN_CFG_TEMP_DELTA c) ≤ (celsius.toInt - (s.ddr
      c).temp).natAbs ∧ s.islState (74 + c) = 2) ∧
    (∃ (s : State) (c : Fin 8) (celsius : BitVec 8), s.canonical = true ∧ s.down = false ∧ (s.ddrMayAsk c = false ∨
      s.fget (Reg.DDR_RETRAIN_CFG_TEMP_DELTA c) = 0 ∨ (celsius.toInt - (s.ddr c).temp).natAbs < s.fget
      (Reg.DDR_RETRAIN_CFG_TEMP_DELTA c))) :=
  ⟨⟨running.fon (Reg.DDR_CTL_EN 3) |>.fon (Reg.DDR_STATUS_TRAINED 3) |>.foff (Reg.DDR_STATUS_FAILED 3) |>.foff
      (Reg.DDR_STATUS_RETRAINING 3) |>.foff (Reg.DDR_STATUS_WAITING 3) |>.fset (Reg.DDR_RETRAIN_CFG_TEMP_DELTA 3) 4, 3,
      50, by decide +kernel⟩,
    ⟨running.fset (Reg.PWR_ISL_STAT_STATE 77) 2 |>.fon (Reg.DDR_CTL_EN 3) |>.fon (Reg.DDR_STATUS_TRAINED 3) |>.foff
      (Reg.DDR_STATUS_FAILED 3) |>.foff (Reg.DDR_STATUS_RETRAINING 3) |>.foff (Reg.DDR_STATUS_WAITING 3) |>.fset
      (Reg.DDR_RETRAIN_CFG_TEMP_DELTA 3) 4, 3, 50, by decide +kernel⟩,
    ⟨running.fon (Reg.DDR_CTL_EN 3) |>.fon (Reg.DDR_STATUS_TRAINED 3) |>.foff (Reg.DDR_STATUS_FAILED 3) |>.foff
      (Reg.DDR_STATUS_RETRAINING 3) |>.foff (Reg.DDR_STATUS_WAITING 3) |>.fset (Reg.DDR_RETRAIN_CFG_TEMP_DELTA 3) 0, 3,
      50, by decide +kernel⟩⟩

theorem test_ddrRetrainGrant_can_run :
    (∃ (s : State) (c : Nat), s.canonical = true ∧ s.down = false ∧ ((List.range 8).any fun k => s.fbit
      (Reg.DDR_STATUS_RETRAINING k)) = false ∧ (List.range 8).find? (fun k => s.fbit (Reg.DDR_STATUS_WAITING k)) = some
      c) ∧
    (∃ (s : State), s.canonical = true ∧ s.down = false ∧ (((List.range 8).any fun k => s.fbit (Reg.DDR_STATUS_RETRAINING
      k)) = true ∨ ((List.range 8).any fun k => s.fbit (Reg.DDR_STATUS_WAITING k)) = false)) :=
  ⟨⟨running |> fun (s : State) => (((List.range 8).foldl (fun (s : State) k => (s.foff (Reg.DDR_STATUS_RETRAINING
      k)).foff (Reg.DDR_STATUS_WAITING k)) s).fon (Reg.DDR_STATUS_WAITING 3)).fon (Reg.DDR_STATUS_WAITING 5), 3,
      by decide +kernel⟩,
    ⟨running.fon (Reg.DDR_STATUS_RETRAINING 5), by decide +kernel⟩⟩

theorem test_ddrRetrainEnd_can_run :
    (∃ (s : State) (c : Fin 8) (celsius : BitVec 8), s.canonical = true ∧ s.down = false ∧ s.fbit
      (Reg.DDR_STATUS_RETRAINING c) = true ∧ s.time ≤ (s.ddr c).began + s.ddrMax c ∧ (s.ddr c).queue = []) ∧
    (∃ (s : State) (c : Fin 8) (celsius : BitVec 8) (r : DdrReq) (a : Nat) (b : Byte) (x : Nat), s.canonical = true ∧
      s.down = false ∧ s.fbit (Reg.DDR_STATUS_RETRAINING c) = true ∧ s.time ≤ (s.ddr c).began + s.ddrMax c ∧ (s.ddr
      c).queue = [r] ∧ r.n = 0 ∧ r.who = .aon ∧ r.back = .core none ∧ r.data = [(a, b)] ∧ r.ecc = .none ∧ placeOf a =
      .ddr ∧ s.bad = [] ∧ (s.foff (Reg.DDR_STATUS_RETRAINING c)).served a = 0 ∧ (kvUnits.any fun x => s.fbit
      (Reg.ING_KV_CFG_EN x.1 x.2)) = false ∧ x ≠ a) ∧
    (∃ (s : State) (c : Fin 8) (celsius : BitVec 8), s.canonical = true ∧ s.down = false ∧ (s.fbit
      (Reg.DDR_STATUS_RETRAINING c) = false ∨ (s.ddr c).began + s.ddrMax c < s.time)) :=
  ⟨⟨running.fon (Reg.DDR_CTL_EN 3) |>.fon (Reg.DDR_STATUS_TRAINED 3) |>.foff (Reg.DDR_STATUS_FAILED 3) |>.foff
      (Reg.DDR_STATUS_RETRAINING 3) |>.foff (Reg.DDR_STATUS_WAITING 3) |>.fon (Reg.DDR_STATUS_RETRAINING 3) |> fun (s :
      State) => s.onDdr 3 fun d => { d with began := s.time }, 3, 50, by decide +kernel⟩,
    ⟨running.fset Reg.DDR_ILV_MODE 0 |> fun (s : State) => (kvUnits.foldl (fun (s : State) x => s.foff (Reg.ING_KV_CFG_EN
      x.1 x.2)) ({ s with bad := [] } : State)).foff Reg.INST_STATUS_COCOON |> fun (s : State) => s.fset (Reg.DDR_CFG_CAP
      0) 3 |> fun (s : State) => s.fon (Reg.DDR_CTL_EN (s.ddrChan 0x20000)) |>.fon (Reg.DDR_STATUS_TRAINED (s.ddrChan
      0x20000)) |>.foff (Reg.DDR_STATUS_FAILED (s.ddrChan 0x20000)) |>.foff (Reg.DDR_STATUS_RETRAINING (s.ddrChan
      0x20000)) |>.foff (Reg.PWR_ISL_CTL_OFF (74 + s.ddrChan 0x20000)) |>.fset (Reg.PWR_ISL_STAT_STATE (74 + s.ddrChan
      0x20000)) 0 |>.foff (Reg.PWR_ISL_CTL_OFF 77) |>.fset (Reg.PWR_ISL_STAT_STATE 77) 0 |> fun (s : State) => ((s.fon
      (Reg.DDR_STATUS_RETRAINING (s.ddrChan 0x20000))).onDdr (s.ddrChan 0x20000) fun d =>
      { d with began := s.time, queue := [⟨.aon, .core none, 0x20000, 0, [(0x20000, 7)], .none⟩] }), (Fin.ofNat 8
      ((((State.reset.fset Reg.DDR_ILV_MODE 0).fset (Reg.DDR_CFG_CAP 0) 3)).ddrChan 0x20000)), 50, ⟨.aon, .core none,
      0x20000, 0, [(0x20000, 7)], .none⟩, 0x20000, 7, 0x20001, by decide +kernel⟩,
    ⟨running.fon (Reg.DDR_CTL_EN 3) |>.fon (Reg.DDR_STATUS_TRAINED 3) |>.foff (Reg.DDR_STATUS_FAILED 3) |>.foff
      (Reg.DDR_STATUS_RETRAINING 3) |>.foff (Reg.DDR_STATUS_WAITING 3), 3, 50, by decide +kernel⟩⟩

theorem test_ddrRetrainTimeout_can_run :
    (∃ (s : State) (c : Fin 8), s.canonical = true ∧ s.down = false ∧ s.fbit (Reg.DDR_STATUS_RETRAINING c) = true ∧
      (s.ddr c).began + s.ddrMax c ≤ s.time ∧ (s.ddr c).queue = []) ∧
    (∃ (s : State) (c : Fin 8) (r : DdrReq) (a : Nat) (b : Byte) (x : Nat), s.canonical = true ∧ s.down = false ∧ s.fbit
      (Reg.DDR_STATUS_RETRAINING c) = true ∧ (s.ddr c).began + s.ddrMax c ≤ s.time ∧ (s.ddr c).queue = [r] ∧ r.n = 0 ∧
      r.who = .aon ∧ r.back = .core none ∧ r.data = [(a, b)] ∧ r.ecc = .none ∧ placeOf a = .ddr ∧ s.bad = [] ∧ (s.foff
      (Reg.DDR_STATUS_RETRAINING c)).served a = 0 ∧ (kvUnits.any fun x => s.fbit (Reg.ING_KV_CFG_EN x.1 x.2)) = false ∧ x
      ≠ a) ∧
    (∃ (s : State) (c : Fin 8), s.canonical = true ∧ s.down = false ∧ (s.fbit (Reg.DDR_STATUS_RETRAINING c) = false ∨
      s.time < (s.ddr c).began + s.ddrMax c)) :=
  ⟨⟨running.fon (Reg.DDR_CTL_EN 3) |>.fon (Reg.DDR_STATUS_TRAINED 3) |>.foff (Reg.DDR_STATUS_FAILED 3) |>.foff
      (Reg.DDR_STATUS_RETRAINING 3) |>.foff (Reg.DDR_STATUS_WAITING 3) |>.fon (Reg.DDR_STATUS_RETRAINING 3) |> fun (s :
      State) => { s with time := 100000 }, 3, by decide +kernel⟩,
    ⟨running.fset Reg.DDR_ILV_MODE 0 |> fun (s : State) => (kvUnits.foldl (fun (s : State) x => s.foff (Reg.ING_KV_CFG_EN
      x.1 x.2)) ({ s with bad := [] } : State)).foff Reg.INST_STATUS_COCOON |> fun (s : State) => s.fset (Reg.DDR_CFG_CAP
      0) 3 |> fun (s : State) => s.fon (Reg.DDR_CTL_EN (s.ddrChan 0x20000)) |>.fon (Reg.DDR_STATUS_TRAINED (s.ddrChan
      0x20000)) |>.foff (Reg.DDR_STATUS_FAILED (s.ddrChan 0x20000)) |>.foff (Reg.DDR_STATUS_RETRAINING (s.ddrChan
      0x20000)) |>.foff (Reg.PWR_ISL_CTL_OFF (74 + s.ddrChan 0x20000)) |>.fset (Reg.PWR_ISL_STAT_STATE (74 + s.ddrChan
      0x20000)) 0 |>.foff (Reg.PWR_ISL_CTL_OFF 77) |>.fset (Reg.PWR_ISL_STAT_STATE 77) 0 |> fun (s : State) => ((s.fon
      (Reg.DDR_STATUS_RETRAINING (s.ddrChan 0x20000))).onDdr (s.ddrChan 0x20000) fun d =>
      { d with began := 0, queue := [⟨.aon, .core none, 0x20000, 0, [(0x20000, 7)], .none⟩] }) |> fun (s : State) =>
      { s with time := 100000 }, (Fin.ofNat 8 ((((State.reset.fset Reg.DDR_ILV_MODE 0).fset (Reg.DDR_CFG_CAP 0)
      3)).ddrChan 0x20000)), ⟨.aon, .core none, 0x20000, 0, [(0x20000, 7)], .none⟩, 0x20000, 7, 0x20001,
      by decide +kernel⟩,
    ⟨running.fon (Reg.DDR_CTL_EN 3) |>.fon (Reg.DDR_STATUS_TRAINED 3) |>.foff (Reg.DDR_STATUS_FAILED 3) |>.foff
      (Reg.DDR_STATUS_RETRAINING 3) |>.foff (Reg.DDR_STATUS_WAITING 3), 3, by decide +kernel⟩⟩

theorem test_ddrAlert_can_run :
    (∃ (s : State) (c : Fin 8) (wcrc : Bool) (again : Bool), s.canonical = true ∧ s.down = false ∧ (if wcrc then s.fbit
      (Reg.DDR_CFG_WCRC c) else s.fbit (Reg.DDR_CFG_CAPAR c)) = true ∧ s.ddrServes c = true ∧ (again = false ∨ (s.ddr
      c).replays < 3 ∨ (s.ddr c).queue = []) ∧ again = false) ∧
    (∃ (s : State) (c : Fin 8) (wcrc : Bool) (again : Bool), s.canonical = true ∧ s.down = false ∧ (if wcrc then s.fbit
      (Reg.DDR_CFG_WCRC c) else s.fbit (Reg.DDR_CFG_CAPAR c)) = true ∧ s.ddrServes c = true ∧ (again = false ∨ (s.ddr
      c).replays < 3 ∨ (s.ddr c).queue = []) ∧ again = true ∧ (s.ddr c).replays < 3) ∧
    (∃ (s : State) (c : Fin 8) (wcrc : Bool) (again : Bool), s.canonical = true ∧ s.down = false ∧ (if wcrc then s.fbit
      (Reg.DDR_CFG_WCRC c) else s.fbit (Reg.DDR_CFG_CAPAR c)) = true ∧ s.ddrServes c = true ∧ (again = false ∨ (s.ddr
      c).replays < 3 ∨ (s.ddr c).queue = []) ∧ again = true ∧ 3 ≤ (s.ddr c).replays) ∧
    (∃ (s : State) (c : Fin 8) (wcrc : Bool) (again : Bool), s.canonical = true ∧ s.down = false ∧ ((if wcrc then s.fbit
      (Reg.DDR_CFG_WCRC c) else s.fbit (Reg.DDR_CFG_CAPAR c)) = false ∨ s.ddrServes c = false)) :=
  ⟨⟨running.fon (Reg.DDR_CTL_EN 3) |>.fon (Reg.DDR_STATUS_TRAINED 3) |>.foff (Reg.DDR_STATUS_FAILED 3) |>.foff
      (Reg.DDR_STATUS_RETRAINING 3) |>.foff (Reg.DDR_STATUS_WAITING 3) |>.fon (Reg.DDR_CFG_CAPAR 3), 3, false, false,
      by decide +kernel⟩,
    ⟨running.fon (Reg.DDR_CTL_EN 3) |>.fon (Reg.DDR_STATUS_TRAINED 3) |>.foff (Reg.DDR_STATUS_FAILED 3) |>.foff
      (Reg.DDR_STATUS_RETRAINING 3) |>.foff (Reg.DDR_STATUS_WAITING 3) |>.fon (Reg.DDR_CFG_CAPAR 3) |>.onDdr 3 fun d =>
      { d with replays := 2 }, 3, false, true, by decide +kernel⟩,
    ⟨running.fon (Reg.DDR_CTL_EN 3) |>.fon (Reg.DDR_STATUS_TRAINED 3) |>.foff (Reg.DDR_STATUS_FAILED 3) |>.foff
      (Reg.DDR_STATUS_RETRAINING 3) |>.foff (Reg.DDR_STATUS_WAITING 3) |>.fon (Reg.DDR_CFG_CAPAR 3) |>.onDdr 3 fun d =>
      { d with replays := 3 }, 3, false, true, by decide +kernel⟩,
    ⟨running.fon (Reg.DDR_CTL_EN 3) |>.fon (Reg.DDR_STATUS_TRAINED 3) |>.foff (Reg.DDR_STATUS_FAILED 3) |>.foff
      (Reg.DDR_STATUS_RETRAINING 3) |>.foff (Reg.DDR_STATUS_WAITING 3) |>.foff (Reg.DDR_CFG_CAPAR 3), 3, false, false,
      by decide +kernel⟩⟩

theorem test_ddrPatrolRead_can_run :
    (∃ (s : State) (c : Fin 8) (line : BitVec 36) (ecc : Ecc), s.canonical = true ∧ s.down = false ∧ s.fbit
      (Reg.DDR_CTL_SCRUB_EN c) = true ∧ s.ddrServes c = true ∧ s.fbit (Reg.DDR_STATUS_RETRAINING c) = false ∧ (line.toNat
      * 64) < 8 * s.ddrCap ∧ (line.toNat * 64) < 2 ^ 42 ∧ s.ddrChan (line.toNat * 64) = c ∧ s.islOff (74 + c) = false ∧
      (s.ddr c).patrol + s.fget (Reg.DDR_SCRUB_CFG_INTERVAL c) ≤ s.time ∧ s.bad = []) ∧
    (∃ (s : State) (c : Fin 8) (line : BitVec 36) (ecc : Ecc), s.canonical = true ∧ s.down = false ∧ s.fbit
      (Reg.DDR_CTL_SCRUB_EN c) = true ∧ s.ddrServes c = true ∧ s.fbit (Reg.DDR_STATUS_RETRAINING c) = false ∧ (line.toNat
      * 64) < 8 * s.ddrCap ∧ (line.toNat * 64) < 2 ^ 42 ∧ s.ddrChan (line.toNat * 64) = c ∧ s.islOff (74 + c) = false ∧
      (s.ddr c).patrol + s.fget (Reg.DDR_SCRUB_CFG_INTERVAL c) ≤ s.time ∧ s.bad = [] ∧ ecc = .none) ∧
    (∃ (s : State) (c : Fin 8) (line : BitVec 36) (ecc : Ecc), s.canonical = true ∧ s.down = false ∧ s.fbit
      (Reg.DDR_CTL_SCRUB_EN c) = true ∧ s.ddrServes c = true ∧ s.fbit (Reg.DDR_STATUS_RETRAINING c) = false ∧ (line.toNat
      * 64) < 8 * s.ddrCap ∧ (line.toNat * 64) < 2 ^ 42 ∧ s.ddrChan (line.toNat * 64) = c ∧ s.islOff (74 + c) = false ∧
      (s.ddr c).patrol + s.fget (Reg.DDR_SCRUB_CFG_INTERVAL c) ≤ s.time ∧ s.bad = [] ∧ s.islState (74 + c) = 2) ∧
    (∃ (s : State) (c : Fin 8) (line : BitVec 36) (ecc : Ecc), s.canonical = true ∧ s.down = false ∧ (s.fbit
      (Reg.DDR_CTL_SCRUB_EN c) = false ∨ s.ddrServes c = false ∨ s.fbit (Reg.DDR_STATUS_RETRAINING c) = true ∨ 8 *
      s.ddrCap ≤ (line.toNat * 64) ∨ s.ddrChan (line.toNat * 64) ≠ c ∨ s.islOff (74 + c) = true ∨ s.time < (s.ddr
      c).patrol + s.fget (Reg.DDR_SCRUB_CFG_INTERVAL c))) :=
  ⟨⟨running.fon (Reg.DDR_CTL_EN 3) |>.fon (Reg.DDR_STATUS_TRAINED 3) |>.foff (Reg.DDR_STATUS_FAILED 3) |>.foff
      (Reg.DDR_STATUS_RETRAINING 3) |>.foff (Reg.DDR_STATUS_WAITING 3) |>.fon (Reg.DDR_CTL_SCRUB_EN 3) |>.fset
      Reg.DDR_ILV_MODE 0 |>.fset (Reg.DDR_CFG_CAP 0) 3 |>.fset (Reg.PWR_ISL_STAT_STATE 77) 0 |> fun (s : State) =>
      { s with bad := [], time := 900000000 }, 3, (BitVec.ofNat 36 ((List.range 4096).find? (fun l => (running.fon
      (Reg.DDR_CTL_EN 3) |>.fon (Reg.DDR_STATUS_TRAINED 3) |>.foff (Reg.DDR_STATUS_FAILED 3) |>.foff
      (Reg.DDR_STATUS_RETRAINING 3) |>.foff (Reg.DDR_STATUS_WAITING 3) |>.fon (Reg.DDR_CTL_SCRUB_EN 3) |>.fset
      Reg.DDR_ILV_MODE 0 |>.fset (Reg.DDR_CFG_CAP 0) 3 |>.fset (Reg.PWR_ISL_STAT_STATE 77) 0 |> fun (s : State) =>
      { s with bad := [], time := 900000000 } : State).ddrChan (l * 64) = 3) |>.getD 0)), (.ue 1 2), by decide +kernel⟩,
    ⟨running.fon (Reg.DDR_CTL_EN 3) |>.fon (Reg.DDR_STATUS_TRAINED 3) |>.foff (Reg.DDR_STATUS_FAILED 3) |>.foff
      (Reg.DDR_STATUS_RETRAINING 3) |>.foff (Reg.DDR_STATUS_WAITING 3) |>.fon (Reg.DDR_CTL_SCRUB_EN 3) |>.fset
      Reg.DDR_ILV_MODE 0 |>.fset (Reg.DDR_CFG_CAP 0) 3 |>.fset (Reg.PWR_ISL_STAT_STATE 77) 0 |> fun (s : State) =>
      { s with bad := [], time := 900000000 }, 3, (BitVec.ofNat 36 ((List.range 4096).find? (fun l => (running.fon
      (Reg.DDR_CTL_EN 3) |>.fon (Reg.DDR_STATUS_TRAINED 3) |>.foff (Reg.DDR_STATUS_FAILED 3) |>.foff
      (Reg.DDR_STATUS_RETRAINING 3) |>.foff (Reg.DDR_STATUS_WAITING 3) |>.fon (Reg.DDR_CTL_SCRUB_EN 3) |>.fset
      Reg.DDR_ILV_MODE 0 |>.fset (Reg.DDR_CFG_CAP 0) 3 |>.fset (Reg.PWR_ISL_STAT_STATE 77) 0 |> fun (s : State) =>
      { s with bad := [], time := 900000000 } : State).ddrChan (l * 64) = 3) |>.getD 0)), .none, by decide +kernel⟩,
    ⟨running.fon (Reg.DDR_CTL_EN 3) |>.fon (Reg.DDR_STATUS_TRAINED 3) |>.foff (Reg.DDR_STATUS_FAILED 3) |>.foff
      (Reg.DDR_STATUS_RETRAINING 3) |>.foff (Reg.DDR_STATUS_WAITING 3) |>.fon (Reg.DDR_CTL_SCRUB_EN 3) |>.fset
      Reg.DDR_ILV_MODE 0 |>.fset (Reg.DDR_CFG_CAP 0) 3 |>.fset (Reg.PWR_ISL_STAT_STATE 77) 0 |> fun (s : State) =>
      { s with bad := [], time := 900000000 } |>.fset (Reg.PWR_ISL_STAT_STATE 77) 2, 3, (BitVec.ofNat 36 ((List.range
      4096).find? (fun l => (running.fon (Reg.DDR_CTL_EN 3) |>.fon (Reg.DDR_STATUS_TRAINED 3) |>.foff
      (Reg.DDR_STATUS_FAILED 3) |>.foff (Reg.DDR_STATUS_RETRAINING 3) |>.foff (Reg.DDR_STATUS_WAITING 3) |>.fon
      (Reg.DDR_CTL_SCRUB_EN 3) |>.fset Reg.DDR_ILV_MODE 0 |>.fset (Reg.DDR_CFG_CAP 0) 3 |>.fset (Reg.PWR_ISL_STAT_STATE
      77) 0 |> fun (s : State) => { s with bad := [], time := 900000000 } |>.fset (Reg.PWR_ISL_STAT_STATE 77) 2 :
      State).ddrChan (l * 64) = 3) |>.getD 0)), (.ue 1 2), by decide +kernel⟩,
    ⟨running.fon (Reg.DDR_CTL_EN 3) |>.fon (Reg.DDR_STATUS_TRAINED 3) |>.foff (Reg.DDR_STATUS_FAILED 3) |>.foff
      (Reg.DDR_STATUS_RETRAINING 3) |>.foff (Reg.DDR_STATUS_WAITING 3) |>.foff (Reg.DDR_CTL_SCRUB_EN 3), 3, 5, .none,
      by decide +kernel⟩⟩

theorem test_ddrBusyResend_can_run :
    (∃ (s : State) (due : Nat) (r : DdrReq) (a : Nat) (b : Byte) (x : Nat), s.canonical = true ∧ s.down = false ∧ s.busy
      = [(due, r)] ∧ due ≤ s.time ∧ r.n = 0 ∧ r.who = .aon ∧ r.back = .core none ∧ r.data = [(a, b)] ∧ r.ecc = .none ∧
      placeOf a = .ddr ∧ s.served a = 0 ∧ s.bad = [] ∧ (kvUnits.any fun x => s.fbit (Reg.ING_KV_CFG_EN x.1 x.2)) = false
      ∧ x ≠ a) ∧
    (∃ (s : State) (due : Nat) (src : BitVec 22) (st : BitVec 4), s.canonical = true ∧ s.down = false ∧ s.busy = [] ∧
      s.again = [(due, .status src.toNat st.toNat 0 0 0)] ∧ due ≤ s.time ∧ coDev src.toNat = s.devid) ∧
    (∃ (s : State), s.canonical = true ∧ s.down = false ∧ (s.busy.all fun x => decide (s.time < x.1)) = true ∧
      (s.again.all fun x => decide (s.time < x.1)) = true) :=
  ⟨⟨running |> fun (s : State) => (kvUnits.foldl (fun (s : State) x => s.foff (Reg.ING_KV_CFG_EN x.1 x.2))
      ({ s with bad := [] } : State)).foff Reg.INST_STATUS_COCOON |> fun (s : State) => s.fset (Reg.DDR_CFG_CAP 0) 3 |>
      fun (s : State) => s.fon (Reg.DDR_CTL_EN (s.ddrChan 0x20000)) |>.fon (Reg.DDR_STATUS_TRAINED (s.ddrChan 0x20000))
      |>.foff (Reg.DDR_STATUS_FAILED (s.ddrChan 0x20000)) |>.foff (Reg.DDR_STATUS_RETRAINING (s.ddrChan 0x20000)) |>.foff
      (Reg.PWR_ISL_CTL_OFF (74 + s.ddrChan 0x20000)) |>.fset (Reg.PWR_ISL_STAT_STATE (74 + s.ddrChan 0x20000)) 0 |>.foff
      (Reg.PWR_ISL_CTL_OFF 77) |>.fset (Reg.PWR_ISL_STAT_STATE 77) 0 |> fun (s : State) =>
      { s with again := [], busy := [(0, ⟨.aon, .core none, 0x20000, 0, [(0x20000, 7)], .none⟩)] }, 0, ⟨.aon, .core none,
      0x20000, 0, [(0x20000, 7)], .none⟩, 0x20000, 7, 0x20001, by decide +kernel⟩,
    ⟨running |> fun (s : State) => { s with busy := [], again := [(0, .status (ioCoord s.devid 6 0 0) 1 0 0 0)] }, 0,
      (BitVec.ofNat 22 (ioCoord 0 6 0 0)), 1, by decide +kernel⟩,
    ⟨running |> fun (s : State) => { s with busy := [], again := [(s.time + 1, .ack)] }, by decide +kernel⟩⟩

theorem test_measureExtend_can_run :
    (∃ (s : State) (m : Master) (i : Fin 8), s.canonical = true ∧ s.admits m Reg.TRU_CTL = true ∧ s.level m = 2 ∧ (s.fbit
      Reg.TRU_STATUS_ROM_LOCK = false ∨ 4 ≤ i.val)) ∧
    (∃ (s : State) (m : Master) (i : Fin 8), s.canonical = true ∧ s.admits m Reg.TRU_CTL = true ∧ s.level m = 2 ∧ s.fbit
      Reg.TRU_STATUS_ROM_LOCK = true ∧ i.val < 4) ∧
    (∃ (s : State) (m : Master) (i : Fin 8), s.canonical = true ∧ s.admits m Reg.TRU_CTL = true ∧ s.level m ≠ 2) :=
  ⟨⟨running, .aon, 5, by decide +kernel⟩,
    ⟨running.fon Reg.TRU_STATUS_ROM_LOCK, .aon, 2, by decide +kernel⟩,
    ⟨running.foff Reg.TRU_CTL_DBG_LOCK |>.foff Reg.TRU_STATUS_DBG_OPEN, .jtag, 5, by decide +kernel⟩⟩

theorem test_attestSign_can_run :
    (∃ (s : State) (m : Master) (mask : BitVec 8), s.canonical = true ∧ s.admits m Reg.TRU_CTL = true ∧ s.level m = 2 ∧
      s.fbit Reg.TRU_STATUS_BUSY = false) ∧
    (∃ (s : State) (m : Master) (mask : BitVec 8), s.canonical = true ∧ s.admits m Reg.TRU_CTL = true ∧ s.level m = 2 ∧
      s.fbit Reg.TRU_STATUS_BUSY = true) ∧
    (∃ (s : State) (m : Master) (mask : BitVec 8), s.canonical = true ∧ s.admits m Reg.TRU_CTL = true ∧ s.level m ≠ 2) :=
  ⟨⟨running.foff Reg.TRU_STATUS_BUSY, .aon, 5, by decide +kernel⟩,
    ⟨running.fon Reg.TRU_STATUS_BUSY, .aon, 5, by decide +kernel⟩,
    ⟨running.foff Reg.TRU_CTL_DBG_LOCK |>.foff Reg.TRU_STATUS_DBG_OPEN, .jtag, 5, by decide +kernel⟩⟩

theorem test_signEnd_can_run :
    (∃ (s : State) (b : List Byte) (k : Nat), s.canonical = true ∧ s.down = false ∧ s.trust.body = some b ∧ 4 * (k + 1) ≤
      b.length + 17088 ∧ k < 4352) ∧
    (∃ (s : State), s.canonical = true ∧ s.down = false ∧ s.trust.body = none) :=
  ⟨⟨running.onTrust fun x => { x with body := some [1, 2, 3, 4, 5] }, [1, 2, 3, 4, 5], 7, by decide +kernel⟩,
    ⟨running.onTrust fun x => { x with body := none }, by decide +kernel⟩⟩

theorem test_debugUnlock_can_run :
    (∃ (s : State) (m : Master), s.canonical = true ∧ s.admits m Reg.TRU_CTL = true ∧ (m = .jtag ∨ s.level m = 2) ∧
      s.fbit Reg.TRU_CTL_DBG_LOCK = false) ∧
    (∃ (s : State) (m : Master), s.canonical = true ∧ s.admits m Reg.TRU_CTL = true ∧ (m = .jtag ∨ s.level m = 2) ∧
      s.fbit Reg.TRU_CTL_DBG_LOCK = true) ∧
    (∃ (s : State) (m : Master), s.canonical = true ∧ s.admits m Reg.TRU_CTL = true ∧ s.level m ≠ 2 ∧ m ≠ .jtag) :=
  ⟨⟨running.foff Reg.TRU_CTL_DBG_LOCK, .aon, by decide +kernel⟩,
    ⟨running.fon Reg.TRU_CTL_DBG_LOCK, .aon, by decide +kernel⟩,
    ⟨running.fon Reg.TRU_STATUS_RECOVERY |>.fset Reg.INST_STATUS_STAGE 6, .pcie, by decide +kernel⟩⟩

end Sys2Proof.Tests
end

section
/-! The neuron core's arithmetic: what the rounding shift of the input (R107) and the refractory test (R116) compute. -/

namespace Sys2Proof.Machine

/-! ### The rounding shift (R107) -/

@[simp] theorem rnaShift_zero_shift (x : Int) : rnaShift x 0 = x := if_pos rfl

/-- The magnitude's side of R107: on a natural number the shift adds half a unit and cuts. -/
theorem rnaShift_natCast {k : Nat} (hk : 1 ≤ k) (m : Nat) :
    rnaShift (m : Int) k = ((m + 2 ^ (k - 1)) >>> k : Nat) := by
  simp [rnaShift, Nat.ne_of_gt hk]

/-- The shift keeps 0: half a unit alone is cut away. -/
theorem rnaShift_zero {k : Nat} (hk : 1 ≤ k) : rnaShift 0 k = 0 := by
  have hcut : 2 ^ (k - 1) / 2 ^ k = 0 := Nat.div_eq_of_lt (Nat.pow_lt_pow_right (by decide) (by omega))
  simpa [Nat.shiftRight_eq_div_pow, hcut] using rnaShift_natCast hk 0

/-- The sign's side of R107: the shift is odd. -/
theorem rnaShift_neg_natCast {k : Nat} (hk : 1 ≤ k) (m : Nat) :
    rnaShift (-(m : Int)) k = -rnaShift (m : Int) k := by
  rcases Nat.eq_zero_or_pos m with rfl | hm
  · simp [rnaShift_zero hk]
  · have hneg : ¬ 0 ≤ -(m : Int) := by omega
    rw [rnaShift_natCast hk, rnaShift, if_neg (by omega), if_neg hneg, Int.neg_neg, Int.toNat_natCast]

/-- R107's formula: the sign times the rounded magnitude. -/
theorem rnaShift_eq_sign_mul {k : Nat} (hk : 1 ≤ k) (x : Int) :
    rnaShift x k = x.sign * ((x.natAbs + 2 ^ (k - 1)) >>> k : Nat) := by
  rw [← rnaShift_natCast hk]
  rcases Int.lt_trichotomy x 0 with hneg | rfl | hpos
  · rw [Int.sign_eq_neg_one_of_neg hneg, Int.neg_one_mul, ← rnaShift_neg_natCast hk,
      Int.ofNat_natAbs_of_nonpos (Int.le_of_lt hneg), Int.neg_neg]
  · simp [rnaShift_zero hk]
  · rw [Int.sign_eq_one_of_pos hpos, Int.one_mul, Int.natAbs_of_nonneg (Int.le_of_lt hpos)]

/-- The rounded magnitude q, scaled back, lies in the half-open interval (m − 2^(k−1), m + 2^(k−1)]: the tie goes to the
larger value. -/
theorem scaled_roundedShift_bounds {k : Nat} (hk : 1 ≤ k) (m : Nat) :
    2 * (2 ^ k * ((m + 2 ^ (k - 1)) >>> k)) ≤ 2 * m + 2 ^ k ∧
    2 * m < 2 * (2 ^ k * ((m + 2 ^ (k - 1)) >>> k)) + 2 ^ k := by
  have hhalf : 2 ^ (k - 1) * 2 = 2 ^ k := Nat.two_pow_pred_mul_two hk
  have hle := Nat.mul_div_le (m + 2 ^ (k - 1)) (2 ^ k)
  have hlt := Nat.lt_mul_div_succ (m + 2 ^ (k - 1)) (Nat.two_pow_pos k)
  rw [Nat.mul_succ] at hlt
  rw [Nat.shiftRight_eq_div_pow]
  omega

/-- On a magnitude the shift rounds to nearest, and a tie goes to the larger value. -/
theorem rnaShift_natCast_nearest {k : Nat} (hk : 1 ≤ k) (m : Nat) :
    2 * (2 ^ k * rnaShift (m : Int) k - m).natAbs ≤ 2 ^ k ∧
    (2 * (2 ^ k * rnaShift (m : Int) k - m).natAbs = 2 ^ k → m ≤ 2 ^ k * (rnaShift (m : Int) k).natAbs) := by
  rw [rnaShift_natCast hk, Int.natAbs_natCast]
  obtain ⟨hupper, hlower⟩ := scaled_roundedShift_bounds hk m
  have hscale : (2 ^ k : Int) * ((m + 2 ^ (k - 1)) >>> k : Nat) = (2 ^ k * ((m + 2 ^ (k - 1)) >>> k) : Nat) := by
    rw [Int.natCast_mul, Int.natCast_pow, Int.cast_ofNat_Int]
  rw [hscale]
  omega

/-- The shift rounds to nearest, and a tie goes away from zero. -/
theorem rnaShift_nearest {k : Nat} (hk : 1 ≤ k) (x : Int) :
    2 * (2 ^ k * rnaShift x k - x).natAbs ≤ 2 ^ k ∧
    (2 * (2 ^ k * rnaShift x k - x).natAbs = 2 ^ k → x.natAbs ≤ 2 ^ k * (rnaShift x k).natAbs) := by
  obtain ⟨m, rfl | rfl⟩ := x.eq_nat_or_neg
  · exact rnaShift_natCast_nearest hk m
  · have hodd : 2 ^ k * -rnaShift (m : Int) k - -(m : Int) = -(2 ^ k * rnaShift (m : Int) k - m) := by
      rw [Int.mul_neg]
      omega
    rw [rnaShift_neg_natCast hk, hodd]
    simpa only [Int.natAbs_neg, Int.natAbs_natCast] using rnaShift_natCast_nearest hk m

/-- Settles O22: R107's formula is the shift's sign and magnitude, and half a unit added before the cut makes it round to
nearest with ties away from zero. -/
theorem inputShiftRoundsTiesAwayFromZero : Obligations.InputShiftRoundsTiesAwayFromZero := by
  intro p
  refine ⟨rnaShift_zero_shift p, fun k hk _ => ?_⟩
  exact ⟨rnaShift_eq_sign_mul hk p, rnaShift_nearest hk p⟩

/-! ### The refractory window (R116) -/

/-- The steps since T_FIRE are counted modulo 65,536, also where t has passed the 16-bit wrap. -/
theorem NRec.since_cast {r : NRec} (h : r.tFire < 65536) (t : Nat) :
    (r.since t : Int) = ((t : Int) - r.tFire) % 65536 := by
  simp only [NRec.since]
  omega

theorem NRec.refractory_iff {r : NRec} {p : Prof} {t : Nat} :
    r.refractory p t = true ↔ r.recent = true ∧ 1 ≤ r.since t ∧ r.since t ≤ p.ref := by
  simp [NRec.refractory, and_assoc]

/-- With REF = 0 the window from 1 to REF is empty. -/
theorem NRec.refractory_eq_false_of_ref_eq_zero {r : NRec} {p : Prof} (h : p.ref = 0) (t : Nat) :
    r.refractory p t = false := by
  rw [Bool.eq_false_iff, Ne, NRec.refractory_iff, h]
  omega

/-- Settles O23: the model's count of steps since T_FIRE is the difference modulo 65,536. -/
theorem refractoryWindowFollowsLastFire : Obligations.RefractoryWindowFollowsLastFire := by
  intro r p t h
  refine ⟨?_, fun href => NRec.refractory_eq_false_of_ref_eq_zero href t⟩
  rw [NRec.refractory_iff, ← NRec.since_cast h]
  norm_cast

end Sys2Proof.Machine
end

section
/-! The dense tile's token queues (R198): what a NOP that waits and a post leave in the counts, the command queue and the error
registers. -/

namespace Sys2Proof.Machine

variable {s : State} {t q : Nat} {d : Desc}

/-! ### The registers of a tile lie apart from the status registers of its cores -/

theorem tileReg_ne_seqStatus {o : Nat} (ho : o < 0x8000) (i : Nat) : tileBase t + o ≠ Reg.SEQ_STATUS i := by
  simp only [Reg.SEQ_STATUS, seqBase, tileBase]
  omega

theorem Reg.TILE_TQ_eq : Reg.TILE_TQ t q = tileBase t + (0x20 + q % 8 * 0x4) := Nat.add_assoc ..

/-- A raised interrupt line writes no register but the status of the core it goes to. -/
theorem State.emitIrq_rd {o c k p : Nat} {b : Bool} (h : p ≠ Reg.SEQ_STATUS o) : (s.emitIrq o c k b).rd p = s.rd p := by
  unfold State.emitIrq
  split
  · exact State.rd_fset_other 0 h
  · rfl

/-- Showing a tile's status writes IDLE and TCQ_OCC alone. -/
theorem State.tileShow_rd {o : Nat} (hlo : 4 < o) (hhi : o < 0x8000) : (s.tileShow t).rd (tileBase t + o) = s.rd (tileBase t + o) := by
  have hstatus : tileBase t + o ≠ (Reg.TILE_STATUS_IDLE t).off := Nat.ne_of_gt (Nat.add_lt_add_left hlo _)
  unfold State.tileShow State.fflag
  rw [State.rd_fset_other (f := Reg.SEQ_STATUS_TCQ_OCC _) _ (tileReg_ne_seqStatus hhi _),
    State.rd_fset_other (f := Reg.SEQ_STATUS_TCQ_OCC _) _ (tileReg_ne_seqStatus hhi _), State.rd_fset_other _ hstatus]

@[simp] theorem State.tileShow_fget_count : (s.tileShow t).fget (Reg.TILE_TQ_COUNT t q) = s.fget (Reg.TILE_TQ_COUNT t q) := by
  simp only [State.fget, Reg.TILE_TQ_COUNT, Reg.TILE_TQ_eq]
  rw [State.tileShow_rd (by omega) (by omega)]

@[simp] theorem State.tileShow_tile (u : Nat) : (s.tileShow t).tile u = s.tile u := rfl

/-! ### The queue's head leaves -/

@[simp] theorem State.dequeue_fget (odd : Bool) (g : FieldRef) : (s.dequeue t odd).fget g = s.fget g := rfl

@[simp] theorem TileSt.port_setPort (x : TileSt) (odd : Bool) (p : Port) : (x.setPort odd p).port odd = p := by
  cases odd <;> rfl

theorem State.dequeue_queue {odd : Bool} (hwf : tabWf (fun _ => TileSt.init) s.tiles = true)
    (hstalled : ((s.tile t).port odd).stalled = []) :
    (((s.dequeue t odd).tile t).port odd).queue = ((s.tile t).port odd).queue.tail := by
  rw [State.dequeue, State.tile_onTile_same _ _ hwf]
  simp [hstalled]

/-! ### Taking a token -/

theorem State.tqHas_iff (hq : q < 8) : s.tqHas t q = true ↔ 1 ≤ s.fget (Reg.TILE_TQ_COUNT t q) := by
  simp [State.tqHas, Nat.not_le.mpr hq, Nat.one_le_iff_ne_zero, Nat.pos_iff_ne_zero]

@[simp] theorem State.tqTake_tiles : (s.tqTake t q).tiles = s.tiles := by
  unfold State.tqTake
  split <;> rfl

@[simp] theorem State.tqTake_tile (u : Nat) : (s.tqTake t q).tile u = s.tile u := congrArg (tabGet _ · u) State.tqTake_tiles

theorem State.fget_count_lt : s.fget (Reg.TILE_TQ_COUNT t q) < 4096 := Nat.mod_lt _ (Nat.two_pow_pos 12)

theorem State.fget_fset_count (hs : s.canonical = true) {n : Nat} (hn : n < 4096) :
    (s.fset (Reg.TILE_TQ_COUNT t q) n).fget (Reg.TILE_TQ_COUNT t q) = n :=
  (State.fget_fset_same _ n (Keeps.refl hs).wfCsr (show 11 < 32 by decide) (Nat.zero_le _)).trans (Nat.mod_eq_of_lt hn)

theorem State.tqTake_fget (hs : s.canonical = true) (hq : q < 8) :
    (s.tqTake t q).fget (Reg.TILE_TQ_COUNT t q) = s.fget (Reg.TILE_TQ_COUNT t q) - 1 := by
  rw [State.tqTake, if_neg (Nat.not_le.mpr hq)]
  exact State.fget_fset_count hs (Nat.lt_of_le_of_lt (Nat.sub_le _ _) State.fget_count_lt)

/-! ### A NOP that waits (R197, R198) -/

/-- A NOP at the head of a running tile's queue acts where its token is there, and is left there where it is not (R198; a NOP
waits at the head of its command queue, log entry 48). -/
theorem exec_nop_of_head {t : Fin 64} {odd : Bool} (hdown : s.down = false) (hruns : s.tileRuns t = true)
    (hhead : s.headDesc t odd = some d) (hop : d.op = 0) (href : d.refusal = 0) (htset : (s.tile t).tset = none) :
    exec (.nop t odd) s = .next
      ((if s.tqHas t d.wd then ((s.tqTake t d.wd).dequeue t odd).tqPost t d.pd 0 d else s).tileShow t) := by
  change execNop t odd s = _
  rw [execNop, State.alive_up hdown, State.onRunning, if_pos hruns, hhead]
  simp only [hop, href, htset, true_and]

/-- A post to no queue does nothing. -/
theorem State.tqPost_none {eng : Nat} (hq : 8 ≤ q) : s.tqPost t q eng d = s := if_pos hq

/-- The wait's half of O19, which holds as it stands. -/
theorem nop_takes_token_or_waits {t : Fin 64} {odd : Bool} (hs : s.canonical = true) (hdown : s.down = false)
    (hruns : s.tileRuns t = true) (hhead : s.headDesc t odd = some d) (hop : d.op = 0) (href : d.refusal = 0)
    (htset : (s.tile t).tset = none) (hstalled : ((s.tile t).port odd).stalled = []) (hwd : d.wd < 8) (hpd : d.pd = 15) :
    ∃ u, exec (.nop t odd) s = .next u ∧
      (1 ≤ s.fget (Reg.TILE_TQ_COUNT t d.wd) → u.fget (Reg.TILE_TQ_COUNT t d.wd) = s.fget (Reg.TILE_TQ_COUNT t d.wd) - 1 ∧
        ((u.tile t).port odd).queue = ((s.tile t).port odd).queue.tail) ∧
      (s.fget (Reg.TILE_TQ_COUNT t d.wd) = 0 → ((u.tile t).port odd).queue = ((s.tile t).port odd).queue ∧
        ∀ q : Fin 8, u.fget (Reg.TILE_TQ_COUNT t q) = s.fget (Reg.TILE_TQ_COUNT t q)) := by
  refine ⟨_, exec_nop_of_head hdown hruns hhead hop href htset, fun htoken => ?_, fun hnone => ?_⟩
  · have hqueue := State.dequeue_queue (s := s.tqTake t d.wd) (t := t) (odd := odd)
      (by rw [State.tqTake_tiles]; exact (Keeps.refl hs).wfTiles) (by rw [State.tqTake_tile]; exact hstalled)
    rw [if_pos ((State.tqHas_iff hwd).mpr htoken), State.tqPost_none (by omega)]
    simp [hqueue, State.tqTake_fget hs hwd]
  · have hwaits : ¬ s.tqHas t d.wd = true := by rw [State.tqHas_iff hwd]; omega
    simp [hwaits]

/-! ### A post (R198, R214) -/

theorem State.tqPost_below (hs : s.canonical = true) (hq : q < 8) {eng : Nat} (h : s.fget (Reg.TILE_TQ_COUNT t q) < 4095) :
    (s.tqPost t q eng d).fget (Reg.TILE_TQ_COUNT t q) = s.fget (Reg.TILE_TQ_COUNT t q) + 1 := by
  rw [State.tqPost, if_neg (Nat.not_le.mpr hq), if_neg (Nat.not_le.mpr h)]
  exact State.fget_fset_count hs (by omega)

theorem State.tqPost_full (hq : q < 8) {eng : Nat} (h : s.fget (Reg.TILE_TQ_COUNT t q) = 4095) :
    s.tqPost t q eng d = s.tileError t 5 eng d := by
  rw [State.tqPost, if_neg (Nat.not_le.mpr hq), if_pos (Nat.le_of_eq h.symm)]

/-- The word that an error leaves in TILE_ERR: CODE, CORE, ENG and TAG side by side (R225). -/
def tileErrWord (code eng : Nat) (d : Desc) : Word :=
  BitVec.ofNat 32 (code * 2 ^ 28 + (if d.odd then 2 ^ 27 else 0) + eng * 2 ^ 24 + d.tag)

/-- A tile without an error that enters its error state writes TILE_ERR and ERR, and no other register of the tile below its
cores' (R214). -/
theorem State.tileError_rd {code eng o : Nat} (herr : s.fbit (Reg.TILE_STATUS_ERR t) = false) (ho : o < 0x8000) :
    (s.tileError t code eng d).rd (tileBase t + o) =
      ((s.wr (Reg.TILE_ERR t) (tileErrWord code eng d)).fon (Reg.TILE_STATUS_ERR t)).rd (tileBase t + o) := by
  rw [State.tileError, if_neg (by simp [herr]), State.emitIrq_rd (tileReg_ne_seqStatus ho _),
    State.emitIrq_rd (tileReg_ne_seqStatus ho _), State.raise_rd, State.tileErrRec, if_neg (by simp [herr])]
  rfl

theorem State.tileError_rd_err {code eng : Nat} (hs : s.canonical = true) (herr : s.fbit (Reg.TILE_STATUS_ERR t) = false) :
    (s.tileError t code eng d).rd (Reg.TILE_ERR t) = tileErrWord code eng d := by
  rw [Reg.TILE_ERR, State.tileError_rd herr (by decide)]
  exact (State.rd_fset_other 1 (by simp [Reg.TILE_STATUS_ERR, Reg.TILE_STATUS])).trans
    (State.rd_wr_same _ _ (Keeps.refl hs).wfCsr)

theorem State.tileError_fbit_err {code eng : Nat} (hs : s.canonical = true) (herr : s.fbit (Reg.TILE_STATUS_ERR t) = false) :
    (s.tileError t code eng d).fbit (Reg.TILE_STATUS_ERR t) = true := by
  have hset := State.fget_fset_same (Reg.TILE_STATUS_ERR t) 1
    (State.wr_keeps (o := Reg.TILE_ERR t) (v := tileErrWord code eng d) (Keeps.refl hs)).wfCsr (show 31 < 32 by decide)
    (Nat.le_refl _)
  have hsame : (s.tileError t code eng d).fget (Reg.TILE_STATUS_ERR t) = 1 :=
    (congrArg (wordGet · 31 31) (State.tileError_rd herr (by decide))).trans hset
  rw [State.fbit, hsame]
  rfl

theorem State.tileError_fget_count {code eng : Nat} (herr : s.fbit (Reg.TILE_STATUS_ERR t) = false) :
    (s.tileError t code eng d).fget (Reg.TILE_TQ_COUNT t q) = s.fget (Reg.TILE_TQ_COUNT t q) := by
  have hapart : Reg.TILE_TQ t q ≠ Reg.TILE_STATUS t ∧ Reg.TILE_TQ t q ≠ Reg.TILE_ERR t := by
    simp only [Reg.TILE_TQ, Reg.TILE_STATUS, Reg.TILE_ERR]
    omega
  have hrd : (s.tileError t code eng d).rd (Reg.TILE_TQ t q) = s.rd (Reg.TILE_TQ t q) := by
    rw [Reg.TILE_TQ_eq, State.tileError_rd herr (by omega), ← Reg.TILE_TQ_eq]
    exact (State.rd_fset_other 1 hapart.1).trans (State.rd_wr_other _ hapart.2)
  exact congrArg (wordGet · 11 0) hrd

/-- CODE reads back wherever the engine number fits ENG's three bits. -/
theorem tileErrWord_code {code eng : Nat} (hcode : code < 16) (heng : eng < 8) : wordGet (tileErrWord code eng d) 31 28 = code := by
  have htag : d.tag < 2 ^ 8 := Nat.mod_lt _ (by decide)
  have hcore : (if d.odd then 2 ^ 27 else 0) ≤ 2 ^ 27 := by split <;> omega
  simp only [wordGet, bits, tileErrWord, BitVec.toNat_ofNat, Nat.shiftRight_eq_div_pow]
  omega

/-- The post's half of O19 for the engine numbers that ENG can hold; the model posts with 0 to 3. -/
theorem tqPost_counts_or_overflows {t : Fin 64} {q : Fin 8} {eng : Nat} (heng : eng < 8) (hs : s.canonical = true)
    (herr : s.fbit (Reg.TILE_STATUS_ERR t) = false) :
    (s.fget (Reg.TILE_TQ_COUNT t q) < 4095 →
      (s.tqPost t q eng d).fget (Reg.TILE_TQ_COUNT t q) = s.fget (Reg.TILE_TQ_COUNT t q) + 1) ∧
    (s.fget (Reg.TILE_TQ_COUNT t q) = 4095 → (s.tqPost t q eng d).fget (Reg.TILE_TQ_COUNT t q) = 4095 ∧
      (s.tqPost t q eng d).fbit (Reg.TILE_STATUS_ERR t) = true ∧ wordGet ((s.tqPost t q eng d).rd (Reg.TILE_ERR t)) 31 28 = 5) := by
  refine ⟨State.tqPost_below hs q.isLt, fun hfull => ?_⟩
  rw [State.tqPost_full q.isLt hfull, State.tileError_fget_count herr, State.tileError_rd_err hs herr]
  exact ⟨hfull, State.tileError_fbit_err hs herr, tileErrWord_code (by decide) heng⟩

/-! ### An engine number beyond ENG carries into CODE -/

/-- The reset state with TQ 0 of tile 0 full. -/
def fullTokenQueue : State := State.reset.fset (Reg.TILE_TQ_COUNT 0 0) 4095

theorem reset_canonical : State.reset.canonical = true := by decide +kernel

theorem fullTokenQueue_canonical : fullTokenQueue.canonical = true := (State.fset_keeps (Keeps.refl reset_canonical)).1

theorem fullTokenQueue_count : fullTokenQueue.fget (Reg.TILE_TQ_COUNT 0 0) = 4095 :=
  State.fget_fset_count reset_canonical (by decide)

theorem fullTokenQueue_no_error : fullTokenQueue.fbit (Reg.TILE_STATUS_ERR 0) = false := by decide +kernel

/-- An overflow with engine number 16 leaves CODE 6: the number's fifth bit is CODE's lowest. -/
theorem overflow_code_of_engine_16 :
    wordGet ((fullTokenQueue.tqPost 0 0 16 ⟨[], false⟩).rd (Reg.TILE_ERR 0)) 31 28 = 6 := by
  rw [State.tqPost_full (by decide) fullTokenQueue_count,
    State.tileError_rd_err fullTokenQueue_canonical fullTokenQueue_no_error]
  decide

/-- Refutes O19: its second half takes every natural number as the engine of a post, and one above 15 carries into CODE, here
16 into 6. What holds is nop_takes_token_or_waits and tqPost_counts_or_overflows. -/
theorem not_tokenQueueWaitsAndPosts : ¬ Obligations.TokenQueueWaitsAndPosts := by
  rintro ⟨-, hpost⟩
  obtain ⟨-, hoverflow⟩ := hpost fullTokenQueue 0 0 16 ⟨[], false⟩ fullTokenQueue_canonical fullTokenQueue_no_error
  obtain ⟨-, -, hcode⟩ := hoverflow fullTokenQueue_count
  exact absurd (overflow_code_of_engine_16.symm.trans hcode) (by decide)

end Sys2Proof.Machine
end

section
/-! The host queues of the token engine (R280 to R284): what a post leaves in a queue with room, and what a class event that
finds its queue full leaves in the queue and in the count of drops. -/

namespace Sys2Proof.Machine

variable {s : State} {i : Nat} {cls : Bool} {q : HostQ}

/-! ### A saturating counter (R12) -/

theorem satCount_lt (w c n : Nat) : satCount w c n < 2 ^ w := by
  unfold satCount
  split
  · assumption
  · exact Nat.sub_one_lt_of_lt (Nat.two_pow_pos w)

theorem State.count_rd_same (hs : s.canonical = true) (o n : Nat) :
    ((s.count o n).rd o).toNat = satCount 32 (s.rd o).toNat n := by
  rw [State.count, State.wrN, State.rd_wr_same _ _ (Keeps.refl hs).wfCsr, BitVec.toNat_ofNat, Nat.mod_eq_of_lt (satCount_lt ..)]

@[simp] theorem State.count_hostQ (o n j : Nat) (c : Bool) : (s.count o n).hostQ j c = s.hostQ j c := rfl

/-! ### A queue read after it was set -/

@[simp] theorem State.setHostQ_rd (o : Nat) : (s.setHostQ i cls q).rd o = s.rd o := rfl

theorem State.setHostQ_hostQ_same (hs : s.canonical = true) : (s.setHostQ i cls q).hostQ i cls = q := by
  rw [State.hostQ, State.setHostQ, State.tok_onTok_same _ _ (Keeps.refl hs).wfToks]
  cases cls <;> rfl

/-- The class-event queue of a token engine, in the spelling of these lemmas. -/
theorem State.tok_cq : (s.tok i).cq = s.hostQ i true := rfl

/-! ### An entry accepted (R283) -/

/-- The queue with one more entry, which takes SEQ. -/
def HostQ.pushed (q : HostQ) (type payload stamp : Nat) : HostQ :=
  { q with ents := q.ents ++ [⟨type, q.seq, payload, stamp⟩], seq := (q.seq + 1) % 65536 }

@[simp] theorem State.iff_emit_rd (b : Bool) (e : Emit) (o : Nat) : (s.iff b (State.emit · e)).rd o = s.rd o := by
  cases b <;> rfl

@[simp] theorem State.iff_emit_hostQ (b : Bool) (e : Emit) (j : Nat) (c : Bool) : (s.iff b (State.emit · e)).hostQ j c = s.hostQ j c := by
  cases b <;> rfl

/-- A push is the queue set, then its vector when it was empty (R285). -/
theorem State.hostPush_eq (type payload stamp : Nat) : s.hostPush i cls type payload stamp =
    (s.setHostQ i cls ((s.hostQ i cls).pushed type payload stamp)).iff (s.hostQ i cls).ents.isEmpty
      (State.emit · (.msix (if cls then 32 + i else i))) := rfl

theorem State.hostPush_rd (type payload stamp o : Nat) : (s.hostPush i cls type payload stamp).rd o = s.rd o := by
  rw [State.hostPush_eq, State.iff_emit_rd, State.setHostQ_rd]

theorem State.hostPush_hostQ (hs : s.canonical = true) (type payload stamp : Nat) :
    (s.hostPush i cls type payload stamp).hostQ i cls = (s.hostQ i cls).pushed type payload stamp := by
  rw [State.hostPush_eq, State.iff_emit_hostQ, State.setHostQ_hostQ_same hs]

/-! ### A class event posted (R284) -/

variable {c n j grade stamp : Nat}

theorem State.hostShadow_of_not_shadows (h : s.shadows = false) : s.hostShadow i cls = s := by
  simp [State.hostShadow, h]

theorem State.cqPost_full (hsh : s.shadows = false) (h : 1024 ≤ (s.hostQ i true).ents.length) :
    s.cqPost i c n j grade stamp = (s.setHostQ i true { s.hostQ i true with seq := ((s.hostQ i true).seq + 1) % 65536 }).count
      (Reg.ING_CQ_DROP_CNT i) 1 := by
  rw [State.cqPost, State.hostShadow_of_not_shadows hsh]
  exact if_pos h

theorem State.cqPost_room (hsh : s.shadows = false) (h : (s.hostQ i true).ents.length < 1024) :
    s.cqPost i c n j grade stamp = s.hostPush i true 8 (c * 2 ^ 32 + n * 2 ^ 22 + j * 2 ^ 8 + grade) stamp := by
  rw [State.cqPost, State.hostShadow_of_not_shadows hsh]
  exact if_neg (Nat.not_le.mpr h)

theorem State.cqPost_full_hostQ (hs : s.canonical = true) (hsh : s.shadows = false) (h : 1024 ≤ (s.hostQ i true).ents.length) :
    (s.cqPost i c n j grade stamp).hostQ i true = { s.hostQ i true with seq := ((s.hostQ i true).seq + 1) % 65536 } := by
  rw [State.cqPost_full hsh h, State.count_hostQ, State.setHostQ_hostQ_same hs]

theorem State.cqPost_full_drops (hs : s.canonical = true) (hsh : s.shadows = false) (h : 1024 ≤ (s.hostQ i true).ents.length) :
    ((s.cqPost i c n j grade stamp).rd (Reg.ING_CQ_DROP_CNT i)).toNat = satCount 32 (s.rd (Reg.ING_CQ_DROP_CNT i)).toNat 1 := by
  rw [State.cqPost_full hsh h, State.count_rd_same (State.setHostQ_keeps (Keeps.refl hs)).1, State.setHostQ_rd]

theorem State.cqPost_room_hostQ (hs : s.canonical = true) (hsh : s.shadows = false) (h : (s.hostQ i true).ents.length < 1024) :
    (s.cqPost i c n j grade stamp).hostQ i true =
      (s.hostQ i true).pushed 8 (c * 2 ^ 32 + n * 2 ^ 22 + j * 2 ^ 8 + grade) stamp := by
  rw [State.cqPost_room hsh h, State.hostPush_hostQ hs]

theorem State.cqPost_room_rd (hsh : s.shadows = false) (h : (s.hostQ i true).ents.length < 1024) (o : Nat) :
    (s.cqPost i c n j grade stamp).rd o = s.rd o := by
  rw [State.cqPost_room hsh h, State.hostPush_rd]

/-- Full or not, the queue's SEQ moves on, so a drop shows as a gap. -/
theorem State.cqPost_seq (hs : s.canonical = true) (hsh : s.shadows = false) :
    ((s.cqPost i c n j grade stamp).hostQ i true).seq = ((s.hostQ i true).seq + 1) % 65536 := by
  rcases Nat.lt_or_ge (s.hostQ i true).ents.length 1024 with hroom | hfull
  · rw [State.cqPost_room_hostQ hs hsh hroom, HostQ.pushed]
  · rw [State.cqPost_full_hostQ hs hsh hfull]

/-- A state that meets the premises of the full case. -/
theorem exists_full_class_event_queue : ∃ s : State, s.canonical = true ∧ s.shadows = false ∧
    1024 ≤ (s.hostQ 0 true).ents.length := by
  refine ⟨State.reset.setHostQ 0 true ⟨List.replicate 1024 ⟨8, 0, 0, 0⟩, 0, []⟩,
    (State.setHostQ_keeps (Keeps.refl reset_canonical)).1, ?_, ?_⟩
  · change State.reset.shadows = false
    decide +kernel
  · have hlen := congrArg (·.ents.length) (State.setHostQ_hostQ_same (i := 0) (cls := true)
      (q := ⟨List.replicate 1024 ⟨8, 0, 0, 0⟩, 0, []⟩) reset_canonical)
    exact Nat.le_of_eq (hlen.trans List.length_replicate).symm

/-- Settles O20: a full queue keeps its entries and counts the drop, a queue with room takes the event with the SEQ next in
turn, and SEQ moves on in both cases. -/
theorem fullClassEventQueueDropsTheNewEvent : Obligations.FullClassEventQueueDropsTheNewEvent := by
  intro s i c n j grade stamp hs hsh
  simp only [State.tok_cq]
  refine ⟨State.cqPost_seq hs hsh, fun hfull => ⟨?_, State.cqPost_full_drops hs hsh hfull⟩,
    fun hroom => ⟨?_, State.cqPost_room_rd hsh hroom _⟩⟩
  · rw [State.cqPost_full_hostQ hs hsh hfull]
  · rw [State.cqPost_room_hostQ hs hsh hroom, HostQ.pushed, List.map_append, List.map_singleton]

end Sys2Proof.Machine
end

section
/-! The sync objects' control (R359): what ADOPT leaves in each object of an owner, and that a start of a sequencer core leaves
its objects alone. -/

namespace Sys2Proof.Machine

variable {s : State} {o i j n q : Nat}

/-! ### The sync objects' registers lie apart -/

/-- Owners' blocks lie at the tiles or above. -/
theorem ownBase_ge (o : Nat) : 0x5000000 ≤ ownBase o := by
  unfold ownBase
  split <;> simp only [seqBase, tileBase, appBase] <;> omega

theorem ownBase_of_lt (hq : q < 128) : ownBase q = seqBase q := by
  have hmod : q % 137 = q := Nat.mod_eq_of_lt (by omega)
  rw [ownBase, hmod, if_pos hq]

theorem objsOf_le (o : Nat) : objsOf o ≤ 48 := by
  unfold objsOf
  split <;> decide

/-- The registers of object i of owner o (R367). -/
def syncRegs (o i : Nat) : List Nat := [Reg.SYNC_VAL o i, Reg.SYNC_STATE o i, Reg.SYNC_LAST o i]

theorem mem_syncRegs {p : Nat} : p ∈ syncRegs o i ↔ p = Reg.SYNC_VAL o i ∨ p = Reg.SYNC_STATE o i ∨ p = Reg.SYNC_LAST o i := by
  simp [syncRegs]

theorem syncState_mem (o i : Nat) : Reg.SYNC_STATE o i ∈ syncRegs o i := mem_syncRegs.mpr (.inr (.inl rfl))

theorem syncRegs_disjoint {p : Nat} (hi : i < 48) (hj : j < 48) (hne : j ≠ i) (hp : p ∈ syncRegs o j) : p ∉ syncRegs o i := by
  simp only [mem_syncRegs, Reg.SYNC_VAL, Reg.SYNC_STATE, Reg.SYNC_LAST] at hp ⊢
  omega

/-- An object's registers lie in neither of the blocks that a batch check (2) and a wake (6) write. -/
theorem syncRegs_block {p : Nat} (hp : p ∈ syncRegs o i) : p / 0x10000 ≠ 2 ∧ p / 0x10000 ≠ 6 := by
  have hbase := ownBase_ge o
  simp only [mem_syncRegs, Reg.SYNC_VAL, Reg.SYNC_STATE, Reg.SYNC_LAST] at hp
  omega

/-- An object's three registers are apart from each other. -/
theorem syncRegs_apart (o i : Nat) : Reg.SYNC_VAL o i ≠ Reg.SYNC_STATE o i ∧ Reg.SYNC_VAL o i ≠ Reg.SYNC_LAST o i ∧
    Reg.SYNC_STATE o i ≠ Reg.SYNC_LAST o i := by
  simp only [Reg.SYNC_VAL, Reg.SYNC_STATE, Reg.SYNC_LAST]
  omega

/-! ### A guarded command that the device takes -/

/-- What the device takes acts on the woken device; a batch may become STALE. -/
theorem State.alive_guarded_admits {m : Master} {p : Nat} {f : State → State} (h : s.admits m p = true) :
    (s.alive fun s => s.guarded m p f) = (f (s.csrWake p)).staleIf p ((s.csrWake p).rd p) := by
  have hup : s.down = false := by
    simp only [State.admits, Bool.and_eq_true, Bool.not_eq_true'] at h
    obtain ⟨⟨⟨⟨⟨hup, _⟩, _⟩, _⟩, _⟩, _⟩ := h
    exact hup
  rw [State.alive_up hup, State.guarded_admits h]

theorem State.csrWake_tileAbsent (p t : Nat) : (s.csrWake p).tileAbsent t = s.tileAbsent t := by
  have htrow : Reg.INST_TROW (t / 8) / 0x10000 ≠ 6 := by
    unfold Reg.INST_TROW
    omega
  rw [State.tileAbsent, State.csrWake_rd htrow, State.csrWake_fget htrow, State.tileAbsent]

theorem State.csrWake_ownerThere (p : Nat) : (s.csrWake p).ownerThere o = s.ownerThere o := by
  rw [State.ownerThere, State.csrWake_tileAbsent, State.ownerThere]

/-! ### One object adopted -/

/-- Object i of owner o as ADOPT leaves it: ACTIVE, with VALUE and LAST_OP 0 (R359). -/
def State.adopted (s : State) (o i : Nat) : Prop :=
  s.fget (Reg.SYNC_STATE_STATE o i) = 0 ∧ s.rd (Reg.SYNC_VAL o i) = 0 ∧ s.fget (Reg.SYNC_LAST_LAST_OP o i) = 0

/-- What ADOPT does to object i of owner o. -/
def State.adoptObj (o i : Nat) (s : State) : State :=
  ((s.wr (Reg.SYNC_VAL o i) 0).foff (Reg.SYNC_STATE_STATE o i)).foff (Reg.SYNC_LAST_LAST_OP o i)

theorem State.adopt_eq_forN : s.adopt o = forN (objsOf o) (State.adoptObj o) s := rfl

theorem State.adoptObj_keeps {r : State} (h : Keeps r s) : Keeps r (s.adoptObj o i) :=
  State.foff_keeps (State.foff_keeps (State.wr_keeps h))

theorem State.adoptObj_adopted (hs : s.canonical = true) : (s.adoptObj o i).adopted o i := by
  obtain ⟨hvalState, hvalLast, hstateLast⟩ := syncRegs_apart o i
  have hval := State.wr_keeps (o := Reg.SYNC_VAL o i) (v := 0) (Keeps.refl hs)
  have hstate := State.foff_keeps (f := Reg.SYNC_STATE_STATE o i) hval
  refine ⟨?_, ?_, ?_⟩
  · exact (State.fget_fset_other 0 hstateLast).trans
      ((State.fget_fset_same _ 0 hval.wfCsr (show 31 < 32 by decide) (show 30 ≤ 31 by decide)).trans (Nat.zero_mod _))
  · exact (State.rd_fset_other 0 hvalLast).trans
      ((State.rd_fset_other 0 hvalState).trans (State.rd_wr_same _ 0 (Keeps.refl hs).wfCsr))
  · exact (State.fget_fset_same _ 0 hstate.wfCsr (show 31 < 32 by decide) (show 29 ≤ 31 by decide)).trans (Nat.zero_mod _)

/-- Adopting an object writes its own registers alone. -/
theorem State.adoptObj_rd {p : Nat} (hp : p ∉ syncRegs o i) : (s.adoptObj o i).rd p = s.rd p := by
  simp only [mem_syncRegs, not_or] at hp
  obtain ⟨hval, hstate, hlast⟩ := hp
  exact (State.rd_fset_other 0 hlast).trans ((State.rd_fset_other 0 hstate).trans (State.rd_wr_other 0 hval))

/-- An object's registers decide whether it is adopted. -/
theorem State.adopted_congr {t : State} (h : ∀ p ∈ syncRegs o i, t.rd p = s.rd p) : t.adopted o i ↔ s.adopted o i := by
  simp only [syncRegs, List.forall_mem_cons] at h
  obtain ⟨hval, hstate, hlast, -⟩ := h
  simp only [State.adopted, State.fget, Reg.SYNC_STATE_STATE, Reg.SYNC_LAST_LAST_OP, hval, hstate, hlast]

/-- Adopting an object leaves the owner's other objects as they are. -/
theorem State.adoptObj_adopted_other (hi : i < 48) (hj : j < 48) (hne : j ≠ i) :
    (s.adoptObj o i).adopted o j ↔ s.adopted o j :=
  State.adopted_congr fun _ hp => State.adoptObj_rd (syncRegs_disjoint hi hj hne hp)

/-! ### Every object adopted -/

theorem forN_succ (n : Nat) (f : Nat → State → State) (s : State) : forN (n + 1) f s = f n (forN n f s) := by
  simp [forN, List.range_succ]

/-- After n objects the first n are adopted: the last one by its own pass, the ones before it by theirs. -/
theorem State.forN_adoptObj_adopted (hs : s.canonical = true) (hn : n ≤ 48) (hi : i < n) :
    (forN n (State.adoptObj o) s).adopted o i := by
  induction n with
  | zero => exact absurd hi (Nat.not_lt_zero i)
  | succ n ih =>
    rw [forN_succ]
    rcases Nat.lt_succ_iff_lt_or_eq.mp hi with hbefore | rfl
    · exact (State.adoptObj_adopted_other hn (by omega) (Nat.ne_of_lt hbefore)).mpr (ih (Nat.le_of_succ_le hn) hbefore)
    · exact State.adoptObj_adopted (forN_keeps (Keeps.refl hs) fun _ _ => State.adoptObj_keeps).1

theorem State.adopt_adopted (hs : s.canonical = true) (hi : i < objsOf o) : (s.adopt o).adopted o i := by
  rw [State.adopt_eq_forN]
  exact State.forN_adoptObj_adopted hs (objsOf_le o) hi

theorem State.staleIf_adopted {p : Nat} {v : Word} : (s.staleIf p v).adopted o i ↔ s.adopted o i :=
  State.adopted_congr fun _ hp => State.staleIf_rd (syncRegs_block hp).1

theorem exec_syncAdopt_of_admits {m : Master} {o : Fin 136} (hadm : s.admits m (Reg.SYNC_CTL o) = true)
    (hthere : s.ownerThere o = true) : exec (.syncAdopt m o) s = .next (((s.csrWake (Reg.SYNC_CTL o)).adopt o).staleIf
      (Reg.SYNC_CTL o) ((s.csrWake (Reg.SYNC_CTL o)).rd (Reg.SYNC_CTL o))) := by
  change execSyncAdopt m o s = _
  rw [execSyncAdopt, State.alive_guarded_admits hadm, State.csrWake_ownerThere, if_pos hthere]

/-! ### A start of a sequencer core -/

/-- The block of a core's control register keeps CFG_IGNORED in the status of the core's queues (R490). -/
theorem ignoredRef_seqCtl (hq : q < 128) : ignoredRef (Reg.SEQ_CTL q) = some (Reg.Q_STATUS_CFG_IGNORED q) := by
  have hcore : 2 * ((Reg.SEQ_CTL q - 0x5000000) / 0x10000) + (Reg.SEQ_CTL q % 0x10000 - 0x8000) / 0x1000 = q := by
    simp only [Reg.SEQ_CTL, seqBase, tileBase]
    omega
  have hbase : 0x5000000 ≤ Reg.SEQ_CTL q ∧ Reg.SEQ_CTL q < 0x5400000 ∧ 0x8000 ≤ Reg.SEQ_CTL q % 0x10000 ∧
      Reg.SEQ_CTL q % 0x1000 = 0 := by
    simp only [Reg.SEQ_CTL, seqBase, tileBase]
    omega
  unfold ignoredRef
  simp (disch := omega) only [if_neg, if_pos, hcore]

theorem State.recvIdle_rd {r p : Nat} (hstatus : p ≠ Reg.BRX_STATUS r) (hmiss : p ≠ Reg.BRX_MISS r) :
    (s.recvIdle r).rd p = s.rd p :=
  (State.rd_fset_other _ hmiss).trans ((State.rd_fset_other _ hstatus).trans (State.rd_fset_other 0 hstatus))

theorem brxBase_of_seq (hq : q < 128) : brxBase (1024 + q) = seqBase q + 0xF40 := by
  have hmod : (1024 + q) % 1152 = 1024 + q := Nat.mod_eq_of_lt (by omega)
  rw [brxBase, hmod, if_neg (by omega), Nat.add_sub_cancel_left]

/-- Between the queues' status and the broadcast receiver a start writes nothing of its core's block. -/
theorem State.seqRun_rd {d : Nat} (hq : q < 128) (hlo : 0x240 < d) (hhi : d < 0xF40) :
    (s.seqRun q).rd (seqBase q + d) = s.rd (seqBase q + d) := by
  obtain ⟨hctl, hstatus⟩ : seqBase q + d ≠ Reg.SEQ_CTL q ∧ seqBase q + d ≠ Reg.SEQ_STATUS q := by
    simp only [Reg.SEQ_CTL, Reg.SEQ_STATUS]
    omega
  have hqueues : seqBase q + d ≠ Reg.Q_STATUS q := by
    rw [Reg.Q_STATUS, ownBase_of_lt hq]
    omega
  obtain ⟨hreceiver, hmiss⟩ : seqBase q + d ≠ Reg.BRX_STATUS (1024 + q) ∧ seqBase q + d ≠ Reg.BRX_MISS (1024 + q) := by
    simp only [Reg.BRX_STATUS, Reg.BRX_MISS, brxBase_of_seq hq]
    omega
  unfold State.seqRun
  split
  · rfl
  · dsimp only
    split
    · rw [State.ignored, ignoredRef_seqCtl hq]
      exact State.rd_fset_other 1 hqueues
    · rw [State.setSeq_rd]
      refine (State.rd_fset_other 1 hstatus).trans ((State.rd_fset_other 1 hctl).trans ?_)
      unfold State.iff
      split
      · exact State.recvIdle_rd hreceiver hmiss
      · rfl

theorem State.seqRun_fget_syncState (hq : q < 128) (i : Nat) :
    (s.seqRun q).fget (Reg.SYNC_STATE_STATE q i) = s.fget (Reg.SYNC_STATE_STATE q i) := by
  have hrd : (s.seqRun q).rd (Reg.SYNC_STATE q i) = s.rd (Reg.SYNC_STATE q i) := by
    rw [Reg.SYNC_STATE, ownBase_of_lt hq, Nat.add_assoc]
    exact State.seqRun_rd hq (by omega) (by omega)
  exact congrArg (wordGet · 31 30) hrd

theorem exec_seqRun_of_admits {m : Master} {q : Fin 128} (hadm : s.admits m (Reg.SEQ_CTL q) = true) :
    exec (.seqRun m q) s = .next (((s.csrWake (Reg.SEQ_CTL q)).seqRun q).staleIf
      (Reg.SEQ_CTL q) ((s.csrWake (Reg.SEQ_CTL q)).rd (Reg.SEQ_CTL q))) := by
  change execSeqRun m q s = _
  rw [execSeqRun, State.alive_guarded_admits hadm]

/-- Settles O18: ADOPT passes over every object of the owner and each pass leaves the other objects alone; a start of a core
writes its control, status and receiver registers, or CFG_IGNORED, none of them an object's. -/
theorem adoptMakesEveryObjectActive : Obligations.AdoptMakesEveryObjectActive := by
  refine ⟨fun s m o hs hadm hthere => ⟨_, exec_syncAdopt_of_admits hadm hthere, fun i hi => ?_⟩,
    fun s m q _ hadm => ⟨_, exec_seqRun_of_admits hadm, fun i _ => ?_⟩⟩
  · have hwoken := (State.csrWake_keeps (o := Reg.SYNC_CTL o) (Keeps.refl hs)).1
    exact State.staleIf_adopted.mpr (State.adopt_adopted hwoken hi)
  · obtain ⟨hbatch, hpower⟩ := syncRegs_block (syncState_mem q i)
    exact (State.staleIf_fget hbatch).trans ((State.seqRun_fget_syncState q.isLt i).trans (State.csrWake_fget hpower))

end Sys2Proof.Machine
end

section
/-! The end of a DMA program (R379): what END leaves in the channel's status and loop depth. The interrupt line that may follow
it writes no register of a channel. -/

namespace Sys2Proof.Machine

variable {s : State} {ch w : Nat}

/-! ### Registers and fields that an update leaves alone -/

theorem State.count_fget {o n : Nat} {g : FieldRef} (h : g.off ≠ o) : (s.count o n).fget g = s.fget g :=
  congrArg (wordGet · g.hi g.lo) (State.rd_wr_other _ h)

theorem State.iff_fget {b : Bool} {f : State → State} {g : FieldRef} (h : (f s).fget g = s.fget g) :
    (s.iff b f).fget g = s.fget g := by
  cases b
  · rfl
  · exact h

theorem forL_rd {α : Type} {l : List α} {f : α → State → State} {p : Nat} (h : ∀ i t, (f i t).rd p = t.rd p) :
    (forL l f s).rd p = s.rd p := by
  induction l generalizing s with
  | nil => rfl
  | cons i l ih => exact (ih (s := f i s)).trans (h i s)

/-! ### A channel's registers lie apart from the cores' status and from its engine's counters -/

theorem dmaReg_ne_seqStatus {o : Nat} (ho : o < 0x40) (i : Nat) : dmaBase ch + o ≠ Reg.SEQ_STATUS i := by
  simp only [dmaBase, bdmaBase, Reg.SEQ_STATUS, seqBase, tileBase]
  split <;> omega

theorem dmaReg_ne_dmaCnt {o : Nat} (hch : ch < 1056) (ho : o < 0x40) (k : Nat) : dmaBase ch + o ≠ dmaCnt ch k := by
  simp only [dmaBase, dmaCnt, dmaTile, bdmaBase, Reg.TDMA_BYTE_CNT, Reg.BDMA_BYTE_CNT, tileBase, decide_eq_true_eq]
  split <;> split <;> omega

/-! ### The line follows the status (R370) -/

/-- Raising and withdrawing the line writes no register but the status of a core that waits for it. -/
theorem State.dmaDo_rd {f : State → State} {p : Nat} (h : ∀ i, p ≠ Reg.SEQ_STATUS i) : (s.dmaDo ch f).rd p = (f s).rd p := by
  have hline (o : Nat) (b : Bool) (x : State) : (x.emitIrq o 4 (ch % 16) b).rd p = x.rd p := State.emitIrq_rd (h o)
  unfold State.dmaDo
  dsimp only
  split
  · split
    · rfl
    · exact (forL_rd (hline · true)).trans (forL_rd (hline · false))
  · exact (State.iff_emit_rd ..).trans (State.iff_emit_rd ..)

theorem State.dmaDo_fget {f : State → State} {g : FieldRef} (h : ∀ i, g.off ≠ Reg.SEQ_STATUS i) :
    (s.dmaDo ch f).fget g = (f s).fget g :=
  congrArg (wordGet · g.hi g.lo) (State.dmaDo_rd h)

/-! ### An instruction of a running channel (R374) -/

theorem State.dmaUp_there {f : State → State} (hdown : s.down = false) (hthere : s.dmaThere ch = true) : s.dmaUp ch f = f s := by
  rw [State.dmaUp, State.alive_up hdown, if_pos hthere]

theorem State.dmaOp_of_word {op : Nat} {f : Nat → State → State} (hrun : s.dmaState ch = 1) (hwait : (s.dma ch).wait = none)
    (hword : s.dmaWord ch (s.dmaPc ch) = some w) (hop : bits w 63 60 = op) : s.dmaOp ch op f = f w s := by
  rw [State.dmaOp, hword]
  exact if_pos ⟨hrun, hwait, hop⟩

/-! ### END (R379) -/

/-- What END w writes in the channel's status and its loop depth. -/
def State.dmaClosed (ch w : Nat) (s : State) : State :=
  ((s.fset (Reg.DMA_STATUS_CODE ch) (bits w 15 0)).fset (Reg.DMA_STATUS_STATE ch) 5).foff (Reg.DMA_PC_DEPTH ch)

/-- What END w does but for the line. -/
def State.dmaEnded (ch w : Nat) (s : State) : State :=
  ((s.dmaClosed ch w).iff (bit w 59) (State.fon · (Reg.DMA_STATUS_IRQ ch))).count (dmaCnt ch 1) 1

theorem exec_dmaEnd_of_word {ch : Fin 1056} (hdown : s.down = false) (hthere : s.dmaThere ch = true) (hrun : s.dmaState ch = 1)
    (hwait : (s.dma ch).wait = none) (hword : s.dmaWord ch (s.dmaPc ch) = some w) (hop : bits w 63 60 = 15)
    (hreserved : bits w 58 16 = 0) : exec (.dmaEnd ch) s = .next (s.dmaDo ch (State.dmaEnded ch w)) := by
  change execDmaEnd ch s = _
  rw [execDmaEnd, State.dmaUp_there hdown hthere, State.dmaOp_of_word hrun hwait hword hop, if_neg (not_not_intro hreserved)]
  rfl

theorem dmaPc_ne_dmaStatus (ch : Nat) : Reg.DMA_PC ch ≠ Reg.DMA_STATUS ch := by
  simp [Reg.DMA_PC, Reg.DMA_STATUS]

theorem State.dmaClosed_keeps (hs : s.canonical = true) : Keeps s (s.dmaClosed ch w) :=
  State.foff_keeps (State.fset_keeps (State.fset_keeps (Keeps.refl hs)))

/-- Below STATE a status field reads as CODE's write leaves it. -/
theorem State.dmaClosed_fget_below {g : FieldRef} (hs : s.canonical = true) (hreg : g.off = Reg.DMA_STATUS ch) (hbelow : g.hi < 29)
    (hfield : g.lo ≤ g.hi) : (s.dmaClosed ch w).fget g = (s.fset (Reg.DMA_STATUS_CODE ch) (bits w 15 0)).fget g :=
  have hcode := State.fset_keeps (f := Reg.DMA_STATUS_CODE ch) (v := bits w 15 0) (Keeps.refl hs)
  (State.fget_fset_other 0 (fun h => dmaPc_ne_dmaStatus ch (h.symm.trans hreg))).trans
    (State.fget_fset_apart 5 hcode.wfCsr (show 31 < 32 by decide) (show 29 ≤ 31 by decide) hreg (.inr ⟨hbelow, hfield⟩))

theorem State.dmaClosed_code (hs : s.canonical = true) : (s.dmaClosed ch w).fget (Reg.DMA_STATUS_CODE ch) = bits w 15 0 :=
  calc (s.dmaClosed ch w).fget (Reg.DMA_STATUS_CODE ch)
    _ = (s.fset (Reg.DMA_STATUS_CODE ch) (bits w 15 0)).fget (Reg.DMA_STATUS_CODE ch) :=
      State.dmaClosed_fget_below hs rfl (show 15 < 29 by decide) (Nat.zero_le 15)
    _ = bits w 15 0 % 2 ^ 16 := State.fget_fset_same _ _ (Keeps.refl hs).wfCsr (show 15 < 32 by decide) (Nat.zero_le 15)
    _ = bits w 15 0 := Nat.mod_mod ..

theorem State.dmaClosed_state (hs : s.canonical = true) : (s.dmaClosed ch w).fget (Reg.DMA_STATUS_STATE ch) = 5 :=
  have hcode := State.fset_keeps (f := Reg.DMA_STATUS_CODE ch) (v := bits w 15 0) (Keeps.refl hs)
  (State.fget_fset_other 0 (dmaPc_ne_dmaStatus ch).symm).trans
    (State.fget_fset_same _ 5 hcode.wfCsr (show 31 < 32 by decide) (show 29 ≤ 31 by decide))

theorem State.dmaClosed_irq (hs : s.canonical = true) :
    (s.dmaClosed ch w).fget (Reg.DMA_STATUS_IRQ ch) = s.fget (Reg.DMA_STATUS_IRQ ch) :=
  (State.dmaClosed_fget_below hs rfl (show 27 < 29 by decide) (Nat.le_refl 27)).trans
    (State.fget_fset_apart _ (Keeps.refl hs).wfCsr (show 15 < 32 by decide) (Nat.zero_le 15) rfl
      (.inl (show 15 < 27 by decide)))

theorem State.dmaClosed_depth (hs : s.canonical = true) : (s.dmaClosed ch w).fget (Reg.DMA_PC_DEPTH ch) = 0 :=
  have hstate := State.fset_keeps (f := Reg.DMA_STATUS_STATE ch) (v := 5)
    (State.fset_keeps (f := Reg.DMA_STATUS_CODE ch) (v := bits w 15 0) (Keeps.refl hs))
  State.fget_fset_same _ 0 hstate.wfCsr (show 31 < 32 by decide) (show 29 ≤ 31 by decide)

/-- A field that the interrupt flag and the count of ENDs leave alone. -/
theorem State.dmaEnded_fget {g : FieldRef} (hcount : g.off ≠ dmaCnt ch 1)
    (hirq : ((s.dmaClosed ch w).fon (Reg.DMA_STATUS_IRQ ch)).fget g = (s.dmaClosed ch w).fget g) :
    (s.dmaEnded ch w).fget g = (s.dmaClosed ch w).fget g :=
  (State.count_fget hcount).trans (State.iff_fget hirq)

theorem State.dmaEnded_code (hs : s.canonical = true) (hch : ch < 1056) :
    (s.dmaEnded ch w).fget (Reg.DMA_STATUS_CODE ch) = bits w 15 0 := by
  refine (State.dmaEnded_fget (dmaReg_ne_dmaCnt hch (show 4 < 0x40 by decide) 1) ?_).trans (State.dmaClosed_code hs)
  exact State.fget_fset_apart 1 (State.dmaClosed_keeps hs).wfCsr (show 27 < 32 by decide) (Nat.le_refl 27) rfl
    (.inr ⟨show 15 < 27 by decide, Nat.zero_le 15⟩)

theorem State.dmaEnded_state (hs : s.canonical = true) (hch : ch < 1056) :
    (s.dmaEnded ch w).fget (Reg.DMA_STATUS_STATE ch) = 5 := by
  refine (State.dmaEnded_fget (dmaReg_ne_dmaCnt hch (show 4 < 0x40 by decide) 1) ?_).trans (State.dmaClosed_state hs)
  exact State.fget_fset_apart 1 (State.dmaClosed_keeps hs).wfCsr (show 27 < 32 by decide) (Nat.le_refl 27) rfl
    (.inl (show 27 < 29 by decide))

theorem State.dmaEnded_depth (hs : s.canonical = true) (hch : ch < 1056) :
    (s.dmaEnded ch w).fget (Reg.DMA_PC_DEPTH ch) = 0 :=
  (State.dmaEnded_fget (dmaReg_ne_dmaCnt hch (show 0x10 < 0x40 by decide) 1)
    (State.fget_fset_other 1 (dmaPc_ne_dmaStatus ch))).trans (State.dmaClosed_depth hs)

/-- IRQ is set by an END that asks for it, and stays else. -/
theorem State.dmaEnded_irq (hs : s.canonical = true) (hch : ch < 1056) :
    (s.dmaEnded ch w).fget (Reg.DMA_STATUS_IRQ ch) = if bit w 59 then 1 else s.fget (Reg.DMA_STATUS_IRQ ch) := by
  refine (State.count_fget (dmaReg_ne_dmaCnt hch (show 4 < 0x40 by decide) 1)).trans ?_
  cases bit w 59
  · exact State.dmaClosed_irq hs
  · exact State.fget_fset_same _ 1 (State.dmaClosed_keeps hs).wfCsr (show 27 < 32 by decide) (Nat.le_refl _)

/-- Settles O17: END writes CODE, STATE, DEPTH and, where bit 59 asks for it, IRQ; the count of ENDs and the interrupt line
touch other registers. -/
theorem dmaEndClosesLoopsAndRecordsCode : Obligations.DmaEndClosesLoopsAndRecordsCode := by
  intro s ch w hs hdown hthere hrun hwait hword hop hreserved
  have hstatus : ∀ i, Reg.DMA_STATUS ch ≠ Reg.SEQ_STATUS i := dmaReg_ne_seqStatus (by decide)
  have hpc : ∀ i, Reg.DMA_PC ch ≠ Reg.SEQ_STATUS i := dmaReg_ne_seqStatus (by decide)
  refine ⟨_, exec_dmaEnd_of_word hdown hthere hrun hwait hword hop hreserved, ?_, ?_, ?_, ?_⟩
  · exact (State.dmaDo_fget hstatus).trans (State.dmaEnded_code hs ch.isLt)
  · exact (State.dmaDo_fget hstatus).trans (State.dmaEnded_state hs ch.isLt)
  · have hirq : (s.dmaDo ch (State.dmaEnded ch w)).fget (Reg.DMA_STATUS_IRQ ch) = _ :=
      (State.dmaDo_fget hstatus).trans (State.dmaEnded_irq hs ch.isLt)
    rw [State.fbit, State.fbit, hirq]
    cases bit w 59 <;> rfl
  · exact (State.dmaDo_fget hpc).trans (State.dmaEnded_depth hs ch.isLt)

end Sys2Proof.Machine
end

section
/-! The twins' role change (R445): what taking a role writes in ROLE and GATE, and what it records of the change. -/

namespace Sys2Proof.Machine

variable {s : State} {role gate reason : Nat}

/-! ### Register pairs -/

/-- A pair read after it was written holds the 64-bit value written. -/
theorem State.rd64_wr64_same (hs : s.canonical = true) (o : Nat) {v : Nat} (hv : v < 2 ^ 64) : (s.wr64 o v).rd64 o = v := by
  have hlow := State.wr_keeps (o := o) (v := BitVec.ofNat 32 v) (Keeps.refl hs)
  rw [State.rd64, State.wr64, State.rd_wr_other _ (show o ≠ o + 4 by omega), State.rd_wr_same _ _ (Keeps.refl hs).wfCsr,
    State.rd_wr_same _ _ hlow.wfCsr, BitVec.toNat_ofNat, BitVec.toNat_ofNat]
  omega

theorem State.rd64_fset_other {f : FieldRef} {o : Nat} (v : Nat) (hlow : o ≠ f.off) (hhigh : o + 4 ≠ f.off) :
    (s.fset f v).rd64 o = s.rd64 o := by
  rw [State.rd64, State.rd_fset_other v hlow, State.rd_fset_other v hhigh, State.rd64]

theorem State.fget_wr64_other {g : FieldRef} {o : Nat} (v : Nat) (hlow : g.off ≠ o) (hhigh : g.off ≠ o + 4) :
    (s.wr64 o v).fget g = s.fget g := by
  rw [State.fget, State.wr64, State.rd_wr_other _ hhigh, State.rd_wr_other _ hlow, State.fget]

/-! ### The record of a role change -/

/-- The counter and the cause recorded: a role change's record but for ARMED and the interrupt. -/
def State.causeRecord (reason : Nat) (s : State) : State :=
  (s.wr64 Reg.AON_TWIN_LAST_LO s.now).fset Reg.AON_TWIN_STATUS_LAST_REASON reason

theorem State.causeRecord_keeps {r : State} (h : Keeps r s) : Keeps r (s.causeRecord reason) :=
  State.fset_keeps (State.wr64_keeps h)

theorem State.roleRecord_last (hs : s.canonical = true) : (s.roleRecord reason).rd64 Reg.AON_TWIN_LAST_LO = s.now :=
  calc (s.roleRecord reason).rd64 Reg.AON_TWIN_LAST_LO
    _ = (s.causeRecord reason).rd64 Reg.AON_TWIN_LAST_LO := State.rd64_fset_other 0 (by decide) (by decide)
    _ = (s.wr64 Reg.AON_TWIN_LAST_LO s.now).rd64 Reg.AON_TWIN_LAST_LO := State.rd64_fset_other reason (by decide) (by decide)
    _ = s.now := State.rd64_wr64_same hs _ s.counter.isLt

/-- ARMED is the one field of AON_TWIN_STATUS that the record writes beside the cause. -/
theorem State.roleRecord_fget_apart_armed {g : FieldRef} (hs : s.canonical = true) (hreg : g.off = Reg.AON_TWIN_STATUS)
    (hapart : 30 < g.lo ∨ g.hi < 30 ∧ g.lo ≤ g.hi) : (s.roleRecord reason).fget g = (s.causeRecord reason).fget g :=
  State.fget_fset_apart 0 (State.causeRecord_keeps (Keeps.refl hs)).wfCsr (show 30 < 32 by decide) (Nat.le_refl 30) hreg hapart

theorem State.roleRecord_reason (hs : s.canonical = true) (hreason : reason < 16) :
    (s.roleRecord reason).fget Reg.AON_TWIN_STATUS_LAST_REASON = reason :=
  calc (s.roleRecord reason).fget Reg.AON_TWIN_STATUS_LAST_REASON
    _ = (s.causeRecord reason).fget Reg.AON_TWIN_STATUS_LAST_REASON := State.roleRecord_fget_apart_armed hs rfl (by decide)
    _ = reason % 2 ^ 4 := State.fget_fset_same _ reason (State.wr64_keeps (Keeps.refl hs)).wfCsr (by decide) (by decide)
    _ = reason := Nat.mod_eq_of_lt hreason

/-- ROLE lies above LAST_REASON and ARMED, the fields of its register that the record writes. -/
theorem State.roleRecord_role (hs : s.canonical = true) :
    (s.roleRecord reason).fget Reg.AON_TWIN_STATUS_ROLE = s.fget Reg.AON_TWIN_STATUS_ROLE :=
  calc (s.roleRecord reason).fget Reg.AON_TWIN_STATUS_ROLE
    _ = (s.causeRecord reason).fget Reg.AON_TWIN_STATUS_ROLE := State.roleRecord_fget_apart_armed hs rfl (by decide)
    _ = (s.wr64 Reg.AON_TWIN_LAST_LO s.now).fget Reg.AON_TWIN_STATUS_ROLE :=
      State.fget_fset_apart reason (State.wr64_keeps (Keeps.refl hs)).wfCsr (by decide) (by decide) rfl (by decide)
    _ = s.fget Reg.AON_TWIN_STATUS_ROLE := State.fget_wr64_other _ (by decide) (by decide)

theorem State.roleRecord_gate : (s.roleRecord reason).fget Reg.TB_OUT_STATUS_GATE = s.fget Reg.TB_OUT_STATUS_GATE :=
  calc (s.roleRecord reason).fget Reg.TB_OUT_STATUS_GATE
    _ = (s.causeRecord reason).fget Reg.TB_OUT_STATUS_GATE := State.fget_fset_other 0 (by decide)
    _ = (s.wr64 Reg.AON_TWIN_LAST_LO s.now).fget Reg.TB_OUT_STATUS_GATE := State.fget_fset_other reason (by decide)
    _ = s.fget Reg.TB_OUT_STATUS_GATE := State.fget_wr64_other _ (by decide) (by decide)

/-! ### A role taken -/

/-- ROLE and GATE set as given, and the change recorded: the form that both changes of role share. -/
def State.takeRole (role gate reason : Nat) (s : State) : State :=
  ((s.fset Reg.AON_TWIN_STATUS_ROLE role).fset Reg.TB_OUT_STATUS_GATE gate).roleRecord reason

theorem State.takeActive_eq_takeRole (s : State) (reason : Nat) :
    s.takeActive reason = s.takeRole 0 (if s.inService then 1 else 0) reason := rfl

theorem State.takeStandby_eq_takeRole (s : State) (reason : Nat) : s.takeStandby reason = s.takeRole 1 0 reason := rfl

theorem State.takeRole_sent : (s.takeRole role gate reason).sent = .msix 96 :: s.sent := rfl

theorem State.takeRole_last (hs : s.canonical = true) : (s.takeRole role gate reason).rd64 Reg.AON_TWIN_LAST_LO = s.now :=
  State.roleRecord_last (State.fset_keeps (State.fset_keeps (Keeps.refl hs))).1

theorem State.takeRole_reason (hs : s.canonical = true) (hreason : reason < 16) :
    (s.takeRole role gate reason).fget Reg.AON_TWIN_STATUS_LAST_REASON = reason :=
  State.roleRecord_reason (State.fset_keeps (State.fset_keeps (Keeps.refl hs))).1 hreason

theorem State.takeRole_role (hs : s.canonical = true) :
    (s.takeRole role gate reason).fget Reg.AON_TWIN_STATUS_ROLE = role % 2 :=
  calc (s.takeRole role gate reason).fget Reg.AON_TWIN_STATUS_ROLE
    _ = ((s.fset Reg.AON_TWIN_STATUS_ROLE role).fset Reg.TB_OUT_STATUS_GATE gate).fget Reg.AON_TWIN_STATUS_ROLE :=
      State.roleRecord_role (State.fset_keeps (State.fset_keeps (Keeps.refl hs))).1
    _ = (s.fset Reg.AON_TWIN_STATUS_ROLE role).fget Reg.AON_TWIN_STATUS_ROLE := State.fget_fset_other gate (by decide)
    _ = role % 2 := State.fget_fset_same _ role (Keeps.refl hs).wfCsr (by decide) (by decide)

theorem State.takeRole_gate (hs : s.canonical = true) :
    (s.takeRole role gate reason).fget Reg.TB_OUT_STATUS_GATE = gate % 2 :=
  State.roleRecord_gate.trans
    (State.fget_fset_same _ gate (State.fset_keeps (Keeps.refl hs)).wfCsr (show 31 < 32 by decide) (Nat.le_refl 31))

/-- Settles O21: both changes write ROLE and GATE and then make the same record, which leaves ROLE and GATE alone. A member
below Instar 6 keeps GATE closed (R433), so only one in service opens it. -/
theorem roleChangeRecordsCounterAndCause : Obligations.RoleChangeRecordsCounterAndCause := by
  intro s reason hs hreason
  simp only [State.takeActive_eq_takeRole, State.takeStandby_eq_takeRole, State.fbit, State.takeRole_role hs,
    State.takeRole_gate hs]
  refine ⟨fun hservice => ?_, by decide, State.takeRole_last hs, State.takeRole_reason hs hreason, State.takeRole_sent,
    by decide, by decide, State.takeRole_last hs, State.takeRole_reason hs hreason, State.takeRole_sent⟩
  rw [if_pos hservice]
  decide

end Sys2Proof.Machine
end

section
/-! Clearing in the fault collector (R530, R531): what FAULT_CLEAR and LASTING_CLEAR leave of a source's status. Bringing CAUSE up to
date writes the top bit of a status register, clearing LASTING the one below it, and the windows lie below both. -/

namespace Sys2Proof.Machine

variable {s : State} {g : FieldRef}

/-! ### A write to the fault block wakes nothing -/

theorem regIsland_of_faultBlock {o : Nat} (h : o / 0x10000 = 4) : regIsland o = none := by
  unfold regIsland
  simp (disch := omega) only [if_neg]

theorem State.csrWake_of_faultBlock {o : Nat} (h : o / 0x10000 = 4) : s.csrWake o = s := by
  rw [State.csrWake, regIsland_of_faultBlock h]

theorem fltSrcStat_block (i : Nat) : Reg.FLT_SRC_STAT i / 0x10000 = 4 := by
  unfold Reg.FLT_SRC_STAT
  omega

/-- A batch check writes nothing of a source's status. -/
theorem fltSrcStat_ne_batchBlock (i : Nat) : Reg.FLT_SRC_STAT i / 0x10000 ≠ 2 := by
  rw [fltSrcStat_block]
  decide

theorem exec_lastingClear_of_admits {m : Master} {src : Fin 26} (hadm : s.admits m (Reg.FLT_SRC_STAT src) = true) :
    exec (.lastingClear m src) s = .next ((s.lastingClear src).staleIf (Reg.FLT_SRC_STAT src) (s.rd (Reg.FLT_SRC_STAT src))) := by
  change execLastingClear m src s = _
  rw [execLastingClear, State.alive_guarded_admits hadm, State.csrWake_of_faultBlock (fltSrcStat_block src)]

theorem exec_faultClear_of_admits {m : Master} (hadm : s.admits m Reg.FLT_REC_STATUS = true) :
    exec (.faultClear m) s = .next (s.faultClear.staleIf Reg.FLT_REC_STATUS (s.rd Reg.FLT_REC_STATUS)) := by
  change execFaultClear m s = _
  rw [execFaultClear, State.alive_guarded_admits hadm, State.csrWake_of_faultBlock (by decide)]

/-! ### CAUSE brought up to date (R520) -/

/-- CAUSE is bit 31: a field below it keeps its value, in every register. -/
theorem State.setCause_fget {i : Nat} {b : Bool} (hs : s.canonical = true) (hbelow : g.hi < 31) (hfield : g.lo ≤ g.hi) :
    (s.setCause i b).fget g = s.fget g := by
  by_cases hreg : g.off = Reg.FLT_SRC_STAT i
  · exact State.fget_fset_apart _ (Keeps.refl hs).wfCsr (show 31 < 32 by decide) (Nat.le_refl 31) hreg (.inr ⟨hbelow, hfield⟩)
  · exact State.fget_fset_other _ hreg

/-- A field that every pass keeps is kept by the whole. -/
theorem forL_fget {α : Type} {l : List α} {f : α → State → State} (hs : s.canonical = true)
    (hkeeps : ∀ i t, t.canonical = true → (f i t).canonical = true)
    (hfield : ∀ i t, t.canonical = true → (f i t).fget g = t.fget g) :
    (forL l f s).fget g = s.fget g := by
  induction l generalizing s with
  | nil => rfl
  | cons i l ih => exact (ih (hkeeps i s hs)).trans (hfield i s hs)

theorem State.refreshCauses_fget (hs : s.canonical = true) (hbelow : g.hi < 31) (hfield : g.lo ≤ g.hi) :
    s.refreshCauses.fget g = s.fget g :=
  forL_fget hs (fun _ _ ht => (State.setCause_keeps (Keeps.refl ht)).1) fun _ _ ht => State.setCause_fget ht hbelow hfield

/-! ### Windows (R525) -/

/-- A field of a source's status register below CAUSE and LASTING, as those of its window are. -/
def WindowField (g : FieldRef) : Prop := (∃ i, g.off = Reg.FLT_SRC_STAT i) ∧ g.hi < 30 ∧ g.lo ≤ g.hi

/-- Every source's window in t is as in s. -/
def State.WindowsKept (s t : State) : Prop := ∀ g, WindowField g → t.fget g = s.fget g

theorem State.WindowsKept.fields {t : State} (h : s.WindowsKept t) (i : Nat) :
    t.fget (Reg.FLT_SRC_STAT_WOPEN i) = s.fget (Reg.FLT_SRC_STAT_WOPEN i) ∧
    t.fget (Reg.FLT_SRC_STAT_WCOUNT i) = s.fget (Reg.FLT_SRC_STAT_WCOUNT i) ∧
    t.fget (Reg.FLT_SRC_STAT_TICKS_LEFT i) = s.fget (Reg.FLT_SRC_STAT_TICKS_LEFT i) :=
  ⟨h _ ⟨⟨i, rfl⟩, show 29 < 30 by decide, Nat.le_refl 29⟩, h _ ⟨⟨i, rfl⟩, show 23 < 30 by decide, show 16 ≤ 23 by decide⟩,
    h _ ⟨⟨i, rfl⟩, show 15 < 30 by decide, Nat.zero_le 15⟩⟩

theorem State.WindowsKept.trans {t u : State} (h : s.WindowsKept t) (k : t.WindowsKept u) : s.WindowsKept u :=
  fun g hg => (k g hg).trans (h g hg)

theorem fltSrcStat_ge (i : Nat) : 0x40108 ≤ Reg.FLT_SRC_STAT i := Nat.le_add_right ..

/-- The registers of the record and of the block's status lie below the sources'. -/
theorem State.windowsKept_of_rd {t : State} (h : ∀ p, 0x40108 ≤ p → t.rd p = s.rd p) : s.WindowsKept t := by
  rintro g ⟨⟨i, hreg⟩, -⟩
  exact congrArg (wordGet · g.hi g.lo) (h _ (hreg ▸ fltSrcStat_ge i))

theorem State.refreshCauses_windowsKept (hs : s.canonical = true) : s.WindowsKept s.refreshCauses :=
  fun _ ⟨_, hbelow, hfield⟩ => State.refreshCauses_fget hs (Nat.lt_succ_of_lt hbelow) hfield

theorem State.staleIf_windowsKept {o : Nat} {v : Word} : s.WindowsKept (s.staleIf o v) := by
  rintro g ⟨⟨i, hreg⟩, -⟩
  exact State.staleIf_fget (hreg ▸ fltSrcStat_ne_batchBlock i)

theorem State.foffLasting_windowsKept (hs : s.canonical = true) (src : Nat) :
    s.WindowsKept (s.foff (Reg.FLT_SRC_STAT_LASTING src)) := by
  rintro g ⟨-, hbelow, hfield⟩
  by_cases hreg : g.off = Reg.FLT_SRC_STAT src
  · exact State.fget_fset_apart 0 (Keeps.refl hs).wfCsr (show 30 < 32 by decide) (Nat.le_refl 30) hreg (.inr ⟨hbelow, hfield⟩)
  · exact State.fget_fset_other 0 hreg

theorem State.fonIgnored_windowsKept : s.WindowsKept (s.fon Reg.FLT_STATUS_CFG_IGNORED) :=
  State.windowsKept_of_rd fun p hp => State.rd_fset_other 1 (show p ≠ 0x40000 by omega)

/-! ### LASTING_CLEAR (R531) -/

theorem State.lastingClear_standing {src : Nat} (h : s.refreshCauses.fbit (Reg.FLT_SRC_STAT_CAUSE src) = true) :
    s.lastingClear src = s.refreshCauses.fon Reg.FLT_STATUS_CFG_IGNORED := if_pos h

theorem State.lastingClear_free {src : Nat} (h : s.refreshCauses.fbit (Reg.FLT_SRC_STAT_CAUSE src) = false) :
    s.lastingClear src = s.refreshCauses.foff (Reg.FLT_SRC_STAT_LASTING src) := if_neg (ne_true_of_eq_false h)

theorem fltSrcStat_ne_fltStatus (i : Nat) : Reg.FLT_SRC_STAT i ≠ Reg.FLT_STATUS :=
  Nat.ne_of_gt (Nat.lt_of_lt_of_le (by decide) (fltSrcStat_ge i))

theorem State.lastingClear_free_clears {src : Nat} (hs : s.canonical = true)
    (h : s.refreshCauses.fbit (Reg.FLT_SRC_STAT_CAUSE src) = false) :
    (s.lastingClear src).fget (Reg.FLT_SRC_STAT_LASTING src) = 0 := by
  rw [State.lastingClear_free h]
  exact (State.fget_fset_same _ 0 (State.refreshCauses_keeps (Keeps.refl hs)).wfCsr (show 30 < 32 by decide) (Nat.le_refl 30)).trans
    (Nat.zero_mod _)

theorem State.lastingClear_free_ignored {src : Nat} (hs : s.canonical = true)
    (h : s.refreshCauses.fbit (Reg.FLT_SRC_STAT_CAUSE src) = false) :
    (s.lastingClear src).fget Reg.FLT_STATUS_CFG_IGNORED = s.fget Reg.FLT_STATUS_CFG_IGNORED := by
  rw [State.lastingClear_free h]
  exact (State.fget_fset_other 0 (fltSrcStat_ne_fltStatus src).symm).trans
    (State.refreshCauses_fget hs (by decide) (by decide))

theorem State.lastingClear_standing_stays {src : Nat} (hs : s.canonical = true)
    (h : s.refreshCauses.fbit (Reg.FLT_SRC_STAT_CAUSE src) = true) :
    (s.lastingClear src).fget (Reg.FLT_SRC_STAT_LASTING src) = s.fget (Reg.FLT_SRC_STAT_LASTING src) := by
  rw [State.lastingClear_standing h]
  exact (State.fget_fset_other 1 (fltSrcStat_ne_fltStatus src)).trans
    (State.refreshCauses_fget hs (show 30 < 31 by decide) (Nat.le_refl 30))

theorem State.lastingClear_standing_ignored {src : Nat} (hs : s.canonical = true)
    (h : s.refreshCauses.fbit (Reg.FLT_SRC_STAT_CAUSE src) = true) :
    (s.lastingClear src).fget Reg.FLT_STATUS_CFG_IGNORED = 1 := by
  rw [State.lastingClear_standing h]
  exact State.fget_fset_same _ 1 (State.refreshCauses_keeps (Keeps.refl hs)).wfCsr (by decide) (by decide)

theorem State.lastingClear_windowsKept (hs : s.canonical = true) (src : Nat) : s.WindowsKept (s.lastingClear src) := by
  refine (State.refreshCauses_windowsKept hs).trans ?_
  cases h : s.refreshCauses.fbit (Reg.FLT_SRC_STAT_CAUSE src) with
  | true => exact State.lastingClear_standing h ▸ State.fonIgnored_windowsKept
  | false =>
    exact State.lastingClear_free h ▸ State.foffLasting_windowsKept (State.refreshCauses_keeps (Keeps.refl hs)).1 src

/-! ### FAULT_CLEAR (R530) -/

/-- The release of WINGBEAT writes FLT_STATUS alone. -/
theorem State.wbRelease_rd {p : Nat} (h : p ≠ Reg.FLT_STATUS) : s.wbRelease.rd p = s.rd p := by
  unfold State.wbRelease
  split
  · rfl
  · exact State.rd_fset_other 0 h

/-- PENDING, COUNT, REACT, LASTING and the sources of the record set to 0. -/
def State.recEmptied (s : State) : State :=
  ((((s.foff Reg.FLT_REC_STATUS_PENDING).foff Reg.FLT_REC_STATUS_COUNT).foff Reg.FLT_REC_STATUS_REACT).foff
    Reg.FLT_REC_STATUS_LASTING).wr Reg.FLT_REC_SOURCES 0

theorem State.recEmptied_rd {p : Nat} (hstatus : p ≠ Reg.FLT_REC_STATUS) (hsources : p ≠ Reg.FLT_REC_SOURCES) :
    s.recEmptied.rd p = s.rd p :=
  (State.rd_wr_other 0 hsources).trans <| (State.rd_fset_other 0 hstatus).trans <| (State.rd_fset_other 0 hstatus).trans <|
    (State.rd_fset_other 0 hstatus).trans (State.rd_fset_other 0 hstatus)

/-- The record emptied; the line it raised is withdrawn and WINGBEAT released. -/
def State.recEnded (s : State) : State :=
  (s.recEmptied.iff (bit (s.fget Reg.FLT_REC_STATUS_REACT) 0) fun t =>
    t.emit (.irq (128 + t.fget Reg.FLT_CTL_CORE) 0 0 false)).wbRelease

theorem State.recEnded_rd {p : Nat} (hblock : p ≠ Reg.FLT_STATUS) (hstatus : p ≠ Reg.FLT_REC_STATUS)
    (hsources : p ≠ Reg.FLT_REC_SOURCES) : s.recEnded.rd p = s.rd p := by
  refine (State.wbRelease_rd hblock).trans (Eq.trans ?_ (State.recEmptied_rd hstatus hsources))
  unfold State.iff
  split <;> rfl

theorem State.recEnded_windowsKept : s.WindowsKept s.recEnded :=
  State.windowsKept_of_rd fun p hp => State.recEnded_rd (show p ≠ 0x40000 by omega) (show p ≠ 0x40004 by omega)
    (show p ≠ 0x4000c by omega)

theorem State.faultClear_eq : s.faultClear =
    if s.refreshCauses.standing then s.refreshCauses.fon Reg.FLT_STATUS_CFG_IGNORED else s.refreshCauses.recEnded := rfl

theorem State.faultClear_windowsKept (hs : s.canonical = true) : s.WindowsKept s.faultClear := by
  refine (State.refreshCauses_windowsKept hs).trans ?_
  rw [State.faultClear_eq]
  split
  · exact State.fonIgnored_windowsKept
  · exact State.recEnded_windowsKept

/-- Settles O16: CAUSE as the units show it decides between CFG_IGNORED and the clear of LASTING, which lie in different
registers; both clears keep every window. -/
theorem lastingClearNeedsNoStandingCause : Obligations.LastingClearNeedsNoStandingCause := by
  refine ⟨fun s m src hs hadm => ⟨_, exec_lastingClear_of_admits hadm, fun hfree => ?_, fun hstands => ?_, fun i => ?_⟩,
    fun s m hs hadm => ⟨_, exec_faultClear_of_admits hadm, fun i => ?_⟩⟩
  · rw [State.staleIf_fbit (f := Reg.FLT_SRC_STAT_LASTING src) (fltSrcStat_ne_batchBlock src),
      State.staleIf_fbit (by decide)]
    simp [State.fbit, State.lastingClear_free_clears hs hfree, State.lastingClear_free_ignored hs hfree]
  · rw [State.staleIf_fbit (f := Reg.FLT_SRC_STAT_LASTING src) (fltSrcStat_ne_batchBlock src),
      State.staleIf_fbit (by decide)]
    simp [State.fbit, State.lastingClear_standing_stays hs hstands, State.lastingClear_standing_ignored hs hstands]
  · exact ((State.lastingClear_windowsKept hs src).trans State.staleIf_windowsKept).fields i
  · exact ((State.faultClear_windowsKept hs).trans State.staleIf_windowsKept).fields i

end Sys2Proof.Machine
end
